-- ==== Sys2Proof/Word.lean ====
section
/-! DEFINITION. The words of the model: bytes, and the index types of the data units of Table 0.6 and of the other replicated parts,
one finite type for each, so that a command cannot name a unit that the device does not have. -/

namespace Sys2Proof

/-- A byte of an overhead field, a ring entry, a packet or a buffer. -/
abbrev Byte := BitVec 8

/-- Lines L0 to L2 (R20). -/
abbrev Line := Fin 3
/-- Slots S0 to S31 of a line; a subcarrier is named by its first slot (R20). -/
abbrev Slot := Fin 32
/-- Host lanes H0 to H47 (R20). -/
abbrev Lane := Fin 48
/-- Clients C0 to C47 (R20). -/
abbrev Client := Fin 48
/-- Leaf IDs of a line (R20). -/
abbrev Leaf := Fin 256
/-- Control domains D0 to D15 (R20). -/
abbrev Dom := Fin 16
/-- Mailbox channels MB0 to MB15 (R20). -/
abbrev Chan := Fin 16
/-- The two ends of a mailbox channel (chapter 15). -/
abbrev ChanEnd := Fin 2
/-- Timing references REF0 to REF9 (R20). -/
abbrev Ref := Fin 10
/-- Protection groups PG0 to PG15 (R20). -/
abbrev Pg := Fin 16
/-- The two paths of a protection group (chapter 10). -/
abbrev Path := Fin 2
/-- Key contexts KC0 to KC255 (R20). -/
abbrev Kc := Fin 256
/-- Rings 0 to 32,767 (R20). -/
abbrev Ring := Fin 32768
/-- Marline cores MC0 to MC7 (chapter 15). -/
abbrev Core := Fin 8
/-- Marline services 0 to 7 (Table 15.2). -/
abbrev Service := Fin 8
/-- Mate-link lanes LY0 to LY3 (R20). -/
abbrev MateLane := Fin 4
/-- Memory ports: 0 CXL-A, 1 CXL-B (chapter 14). -/
abbrev MemPort := Fin 2
/-- Entries of the region table (R371). -/
abbrev Region := Fin 256
/-- On-die memory instances (R379). -/
abbrev MemInst := Fin 2048
/-- Tributaries XI, XQ, YI, YQ of a line (chapter 2). -/
abbrev Trib := Fin 4
/-- MSI-X vectors (Table 13.1). -/
abbrev Vec := Fin 2048
/-- Clock domains that cross by an elastic or handshake crossing (Table 1.13). -/
abbrev ClockDom := Fin 100
/-- Blocks by number (Table 0.5). -/
abbrev Block := Fin 19

end Sys2Proof
end

