-- ==== Sys2Proof/Syntax.lean ====
section
/-! DEFINITION. The commands of the model: one constructor of Instr for each row of spec/opcode_table.json. A row that is an access to a
register carries its requester; a row that is a happening of the hardware carries the unit it happens to and what was measured
or received. Quantities in a physical unit (a power, a time, a received frame) are operands: the spec gives no law for them. -/

namespace Sys2Proof

/-- The requesters of register accesses by their stamp (R11): the host with its PASID (CXL-U has one function, Table 13.1), each
Marline core, the I3C target, JTAG. -/
inductive Requester where
  | host (pasid : BitVec 20)
  | core (k : Core)
  | i3c
  | jtag
  deriving DecidableEq, Repr

/-- What the ring engine reads for an indirect buffer (R346, R375, R376). -/
inductive BufferRead where
  | data (bytes : List Byte)
  | poison
  deriving DecidableEq, Repr

/-- What the ring engine's read of a descriptor brings (R349, Table 13.11). -/
inductive DescRead where
  | data (bytes : List Byte) (ind : BufferRead)
  | error
  | poison
  deriving DecidableEq, Repr

/-- What a calibration sets at a sub-converter (R72, R73, R76, R77): offset in 1/1,000 of a converter step, gain in 0.001 dB, timing in
0.001 ps. -/
structure Calib where
  offset : Int := 0
  gain : Int := 0
  timing : Int := 0
  deriving DecidableEq, Repr

/-- One refreshed estimate of Table 3.9, as the code its register holds; with the OSNR, whether the guard band holds the energy of
neighbouring channels (R100). -/
inductive Estimate where
  | snr (slot : Slot) (x y combined : Nat)
  | snrWindow (slot : Slot)
  | cd (v : Nat)
  | dgd (v : Nat)
  | dgdSub (slot : Slot) (v : Nat)
  | pdl (v : Nat)
  | osnr (v : Nat) (guard : Bool)
  | foff (v : Nat)
  | clockOffset (v : Nat)
  | sopPeak (v : Nat)
  | overCount
  deriving DecidableEq, Repr


/-- The user of a memory read that returns poison (R376): the deskew read of a unit (group, q, j), a ring, a command buffer, a checkpoint set,
a load of a Marline core from an address of its map. -/
inductive PoisonUser where
  | deskew (g : Pg) (q : BitVec 32) (j : Nat)
  | ring (r : Ring)
  | buffer
  | checkpoint
  | load (k : Core) (addr : Nat)
  deriving DecidableEq, Repr

/-- What the scrubber finds in a word (R379, R381): no error, one that it corrects, or an uncorrectable one, with what the word belongs to
(Table 14.4): a datapath buffer (the stored copy of a unit, if it is one), a leaf record, a subcarrier's state, a direction of a key
context, a register or table entry by its BAR0 address and whether its shadow word is uncorrectable too, a word of a core's data
or code, a record of the journal buffer. -/
inductive WordUse where
  | datapath (copy : Option (Pg × BitVec 32 × Nat))
  | leaf (n : Line) (i : Leaf)
  | subcarrier (n : Line) (slot : Slot)
  | key (k : Kc) (receive : Bool)
  | config (addr : Nat) (shadowBad : Bool)
  | core (k : Core) (addr : Nat) (fetch : Bool)
  | journal (pos : Nat)
  deriving DecidableEq, Repr

/-- The scrubber's finding. -/
inductive Found where
  | clean
  | corrected
  | uncorrectable (w : WordUse)
  deriving DecidableEq, Repr

/-- A credential entry (R416, R521): valid, public key, role, domain mask. -/
structure Cred where
  valid : Bool := false
  key : List Byte := []
  role : Nat := 0
  mask : Nat := 0
  deriving DecidableEq, Repr

/-- A firmware image copy by its header (R424): its version, its rollback index, whether its digest and signature verify. -/
structure ImageCopy where
  version : Nat := 0
  rollback : Nat := 0
  signed : Bool := false
  deriving DecidableEq, Repr

/-- What the device reads in the area that an NV_COMMIT names, where the spec gives no layout of the bytes: an image copy's header, the
credential entries, the remap record. -/
structure NvContent where
  image : ImageCopy
  creds : List (Fin 64 × Cred)
  remap : List (Nat × Nat × Nat)
  deriving DecidableEq, Repr

/-- What equipment outside the device has programmed into its flash and its OTP while it was without power: SERIAL, MAKER_HASH, ROLLBACK,
LIFECYCLE, the three image copies, the credential table, the 16 KEK blobs of 88 bytes, the remap record. -/
structure FlashImage where
  serial : BitVec 64
  makerHash : List Byte
  rollback : Nat
  lifecycle : Fin 4
  copies : List ImageCopy
  creds : List (Fin 64 × Cred)
  keks : List Byte
  remap : List (Nat × Nat × Nat)
  deriving DecidableEq, Repr

/-- A sample of a monitor converter (R448, R449): the code and OVR. -/
structure Sample where
  code : BitVec 12
  above : Bool
  deriving DecidableEq, Repr

/-- A filtered crossing of a supply threshold (Table 17.4): VDD_IO below 1.75 V, 1.71 V or 1.65 V, at or above 1.73 V or 1.77 V for 1 ms,
VDD_CORE outside its limits. -/
inductive RailEdge where
  | ioFall175 | ioFall171 | ioFall165 | ioRise173 | ioRise177 | coreOut
  deriving DecidableEq, Repr

/-- The commands: one constructor for each row of the table. -/
inductive Instr where
  /-- REGISTER_WRITE (R5). -/
  | registerWrite (req : Requester) (addr : Nat) (wide : Bool) (value : Nat)
  /-- MALFORMED_ACCESS (R8). -/
  | malformedAccess (req : Requester) (addr : Nat) (bytes : Nat) (read : Bool)
  /-- LOW_HALF_READ (R11). -/
  | lowHalfRead (req : Requester) (addr : Nat)
  /-- HIGH_HALF_READ (R12). -/
  | highHalfRead (req : Requester) (addr : Nat)
  /-- COMMIT (R511). -/
  | commit (req : Requester) (block : Block) (crc : BitVec 32)
  /-- FIFO_RECENTRE (R37). -/
  | fifoRecentre (dom : ClockDom) (inFrame : Bool)
  /-- LOADING_EVALUATION (R58). -/
  | loadingEvaluation (n : Line)
  /-- MAN_GO (R59). -/
  | manGo (req : Requester) (n : Line)
  /-- MOB_RECEIVED (R175). -/
  | mobReceived (n : Line)
  /-- ARM_TIMEOUT (R63). -/
  | armTimeout (n : Line)
  /-- COUNTDOWN_TICK (R61). -/
  | countdownTick (n : Line)
  /-- RX_TABLE_SWITCH (R82). -/
  | rxTableSwitch (n : Line)
  /-- RX_FALLBACK (R65). -/
  | rxFallback (n : Line)
  /-- FORCED_REVERSION (R66). -/
  | forcedReversion (n : Line)
  /-- PD_TABLE_WRITE (R74). -/
  | pdTableWrite (req : Requester) (n : Line) (lut : Bool) (t : Trib) (idx : Nat) (value : Nat)
  /-- DAC_FG_REQ (R72). -/
  | dacFgReq (req : Requester) (n : Line)
  /-- DAC_FG_CAL_DONE (R73). -/
  | dacFgCalDone (n : Line) (ok : Bool) (t : Trib) (cal : List (List Calib))
  /-- DAC_BG_CAL_UPDATE (R73). -/
  | dacBgCalUpdate (n : Line) (t : Trib) (c : List Calib)
  /-- ADC_FG_REQ (R76). -/
  | adcFgReq (req : Requester) (n : Line)
  /-- ADC_FG_CAL_DONE (R78). -/
  | adcFgCalDone (n : Line) (ok : Bool) (t : Trib) (cal : List (List Calib))
  /-- ADC_BG_CAL_UPDATE (R77). -/
  | adcBgCalUpdate (n : Line) (t : Trib) (c : List Calib)
  /-- MODULATION_FRAME (R48). -/
  | modulationFrame (n : Line) (above : Bool) (marker : Bool)
  /-- MARKER_LOST (R81). -/
  | markerLost (n : Line)
  /-- FREQ_SEARCH_DONE (R83). -/
  | freqSearchDone (n : Line)
  /-- CD_SEARCH_DONE (R86). -/
  | cdSearchDone (n : Line)
  /-- TIMING_DONE (R83). -/
  | timingDone (n : Line)
  /-- BLIND_CONVERGE_DONE (R83). -/
  | blindConvergeDone (n : Line) (sub : Option Slot)
  /-- PILOT_LOCK_DONE (R83). -/
  | pilotLockDone (n : Line) (sub : Option Slot)
  /-- ACQ_BOUND_EXPIRY (R83). -/
  | acqBoundExpiry (n : Line) (sub : Option Slot)
  /-- RAW_LOS_WINDOW (R95). -/
  | rawLosWindow (n : Line) (power : Nat) (pin : Bool)
  /-- FREEZE_HOLD_EXPIRY (R97). -/
  | freezeHoldExpiry (n : Line) (clear : Bool)
  /-- FREEZE (R96). -/
  | freeze (req : Requester) (n : Line)
  /-- UNFREEZE (R97). -/
  | unfreeze (req : Requester) (n : Line)
  /-- REACQ (R96). -/
  | reacq (req : Requester) (n : Line)
  /-- SUBCARRIER_DIVERGE (R96). -/
  | subcarrierDiverge (n : Line) (slot : Slot) (majority : Bool)
  /-- TAP_DEMAND_REPORT (R93). -/
  | tapDemandReport (n : Line) (slot : Slot) (demand : Nat)
  /-- ESTIMATE_REFRESH (R99). -/
  | estimateRefresh (n : Line) (est : Estimate)
  /-- CHAN_SWAP (R102). -/
  | chanSwap (n : Line) (values : List (Nat × Nat))
  /-- PHASE_SLIP (R91). -/
  | phaseSlip (n : Line)
  /-- PERIOD_START (R138). -/
  | periodStart (n : Line)
  /-- MAP_COMPLETE (R140). -/
  | mapComplete (n : Line)
  /-- CONTROL_BLOCK (R113). -/
  | controlBlock (n : Line) (offset : Nat)
  /-- DETECTION_WINDOW_OPEN (R124). -/
  | detectionWindowOpen (n : Line) (f : Slot) (leaf : Option Leaf)
  /-- PROVISIONAL_LOCK (R125). -/
  | provisionalLock (n : Line) (f : Slot) (corrB : Bool) (metric symbol : Nat)
  /-- BURST_HEADER_DECODED (R127). -/
  | burstHeaderDecoded (n : Line) (f : Slot) (soft : List Int) (arrival : Nat) (ofs : Int)
  /-- CAPTURE (R132). -/
  | capture (n : Line) (f : Slot) (power peak : Bool) (symbol got : Nat)
  /-- BURST_END (R129). -/
  | burstEnd (n : Line) (f : Slot) (foff : BitVec 16) (power snr : BitVec 8) (state : List Byte)
  /-- DETECTION_WINDOW_CLOSE (R130). -/
  | detectionWindowClose (n : Line) (f : Slot)
  /-- STALE_TIMEOUT (R131). -/
  | staleTimeout (n : Line) (leaf : Leaf)
  /-- DISCOVERY_CYCLE (R134). -/
  | discoveryCycle (n : Line)
  /-- UP_PROFILE_EVALUATION (R122). -/
  | upProfileEvaluation (n : Line) (leaf : Leaf)
  /-- DN_LOADING_EVALUATION (R118). -/
  | dnLoadingEvaluation (n : Line) (slot : Slot)
  /-- DN_LOAD_SWITCH (R118). -/
  | dnLoadSwitch (n : Line) (slot : Slot)
  /-- BURST_DECODE_DONE (R164). -/
  | burstDecodeDone (n : Line) (leaf : Leaf) (soft : List Int)
  /-- LEAF_RERANGE (R137). -/
  | leafRerange (h : Nat)
  /-- LEAF_STATUS (R353). -/
  | leafStatus (h : Nat)
  /-- LEAF_MGMT (R353). -/
  | leafMgmt (h : Nat)
  /-- WINDOW_SHIFT (R155). -/
  | windowShift (n : Line) (slot : Slot) (soft : List Int)
  /-- NGMI_MEASURE (R158). -/
  | ngmiMeasure (n : Line)
  /-- SHORT_SECOND (R161). -/
  | shortSecond (n : Line) (slot : Slot)
  /-- LASHING_CODEWORD (R162). -/
  | lashingCodeword (n : Line)
  /-- FEC_SD_SECOND (R163). -/
  | fecSdSecond (n : Line)
  /-- OH_SWITCH_TX (R169). -/
  | ohSwitchTx (n : Line)
  /-- OH_SWITCH_RX (R169). -/
  | ohSwitchRx (n : Line)
  /-- FRAME_TRANSMIT (R174). -/
  | frameTransmit (n : Line) (f : Byte)
  /-- FAW_MATCH (R184). -/
  | fawMatch (n : Line) (pos : Nat)
  /-- CANDIDATE_CHECK (R185). -/
  | candidateCheck (n : Line) (i : Nat)
  /-- FRAME_RECEIVED (R174). -/
  | frameReceived (n : Line)
  /-- OUT_OF_FRAME (R186). -/
  | outOfFrame (n : Line)
  /-- OUT_OF_MULTIFRAME (R187). -/
  | outOfMultiframe (n : Line)
  /-- DEFECT_PERSISTENCE_EXPIRY (R189). -/
  | defectPersistenceExpiry (n : Line) (lom : Bool)
  /-- SSF_CLEAR (R192). -/
  | ssfClear (n : Line)
  /-- BURST_FRAME_RECEIVED (R183). -/
  | burstFrameReceived (n : Line) (leaf : Leaf)
  /-- PM_WINDOW_END (R196). -/
  | pmWindowEnd (n : Line)
  /-- PM_WINDOW_COMMIT (R197). -/
  | pmWindowCommit (n : Line)
  /-- INTERVAL_RECORD_WRITE (R198). -/
  | intervalRecordWrite (n : Line) (day : Bool)
  /-- FORCE_AIS (R190). -/
  | forceAis (req : Requester) (n : Line) (v : Bool)
  /-- FORCE_BDI (R190). -/
  | forceBdi (req : Requester) (n : Line) (v : Bool)
  /-- CLIENT_FRAME_INGRESS (R204). -/
  | clientFrameIngress (c : Client) (frame : Option (List Byte)) (err lf rf : Bool) (corrected uncorrectable : Nat)
  /-- EGRESS_HEADER (R205). -/
  | egressHeader (c : Client) (sent : Nat)
  /-- COW_RECEIVED (R214). -/
  | cowReceived (c : Client)
  /-- GMP_CM_UPDATE (R215). -/
  | gmpCmUpdate (c : Client) (target : Nat) (data : List Byte)
  /-- EGRESS_RESUME (R221). -/
  | egressResume (c : Client)
  /-- LANE_CONVERGED (R227). -/
  | laneConverged (l : Lane) (snr : Nat)
  /-- TRAINING_COMPLETE (R227). -/
  | trainingComplete (l : Lane)
  /-- TRAINING_TIMER_EXPIRY (R227). -/
  | trainingTimerExpiry (l : Lane) (fault : Bool)
  /-- UNTRAINED_RETRY (R227). -/
  | untrainedRetry (l : Lane)
  /-- LANE_LOS (R228). -/
  | laneLos (l : Lane)
  /-- LANE_LOS_CLEAR (R228). -/
  | laneLosClear (l : Lane)
  /-- CDR_LOSS (R227). -/
  | cdrLoss (l : Lane)
  /-- COEFF_REQUEST (R230). -/
  | coeffRequest (l : Lane) (t : Fin 5) (delta : Int)
  /-- TXFFE_WRITE (R232). -/
  | txffeWrite (req : Requester) (l : Lane) (v : BitVec 32)
  /-- SCAN_REQ (R235). -/
  | scanReq (req : Requester) (l : Lane)
  /-- MARGIN_SCAN_AUTO (R235). -/
  | marginScanAuto (l : Lane)
  /-- SCAN_DONE (R234). -/
  | scanDone (l : Lane) (sweeps : List (List Nat))
  /-- LOOPBACK_SLIP (R236). -/
  | loopbackSlip (l : Lane)
  /-- SEGMENT_CLOSE (R245). -/
  | segmentClose (k : Kc)
  /-- TAG_WAIT_EXPIRY (R255). -/
  | tagWaitExpiry (k : Kc)
  /-- REKEY_TIMER (R253). -/
  | rekeyTimer (k : Kc)
  /-- KX_CONFIRM_TIMEOUT (R253). -/
  | kxConfirmTimeout (k : Kc)
  /-- KX_RETRY (R253). -/
  | kxRetry (k : Kc)
  /-- KEY_LOAD (R250). -/
  | keyLoad (h : Nat)
  /-- KEY_SWITCH (R252). -/
  | keySwitch (h : Nat)
  /-- KEY_ZERO (R251). -/
  | keyZero (h : Nat)
  /-- KEY_CLEAR_AF (R258). -/
  | keyClearAf (h : Nat)
  /-- KEY_STATUS (R353). -/
  | keyStatus (h : Nat)
  /-- LINK_LOAD (R253). -/
  | linkLoad (h : Nat)
  /-- UNIT_COPY_COMPLETE (R276). -/
  | unitCopyComplete (g : Pg) (p : Path) (time : Nat)
  /-- UNIT_PLAYOUT (R276). -/
  | unitPlayout (g : Pg) (q : BitVec 32) (j now : Nat) (late : Option MemPort)
  /-- DELTA_MEASURE (R271). -/
  | deltaMeasure (g : Pg)
  /-- OUT_OF_WINDOW (R279). -/
  | outOfWindow (g : Pg) (p : Path)
  /-- PATH_WTR_EXPIRY (R275). -/
  | pathWtrExpiry (g : Pg) (p : Path)
  /-- AUTO_REALIGN (R280). -/
  | autoRealign (g : Pg) (p : Path)
  /-- LOCKSTEP_RECORD_RECEIVED (R268). -/
  | lockstepRecordReceived (r : List Byte) (lag : Nat)
  /-- LOCKSTEP_LOSS (R269). -/
  | lockstepLoss (g : Pg)
  /-- PG_LOCKOUT (R277). -/
  | pgLockout (h : Nat)
  /-- PG_FORCE (R277). -/
  | pgForce (h : Nat)
  /-- PG_CLEAR (R277). -/
  | pgClear (h : Nat)
  /-- PG_REALIGN (R280). -/
  | pgRealign (h : Nat)
  /-- PG_STATUS (R277). -/
  | pgStatus (h : Nat)
  /-- HELLO_SEND (R289). -/
  | helloSend
  /-- HELLO_RECEIVED (R288). -/
  | helloReceived (p : List Byte) (bad : Bool) (synced : BitVec 4)
  /-- CREDIT_SEND (R287). -/
  | creditSend
  /-- CREDIT_RECEIVED (R288). -/
  | creditReceived (p : List Byte) (bad : Bool)
  /-- CKPT_PACKET_RECEIVED (R286). -/
  | ckptPacketReceived (p : List Byte) (bad : Bool)
  /-- TRAINING_ATTEMPT_EXPIRY (R289). -/
  | trainingAttemptExpiry
  /-- HELLO_TIMEOUT (R289). -/
  | helloTimeout
  /-- MATE_LANE_SYNC_LOSS (R289). -/
  | mateLaneSyncLoss (l : MateLane)
  /-- MATE_ABSENT_RETRY (R289). -/
  | mateAbsentRetry
  /-- MATE_SCAN_REQ (R292). -/
  | mateScanReq (req : Requester) (l : MateLane)
  /-- MATE_SCAN_DONE (R292). -/
  | mateScanDone (l : MateLane) (sweeps : List (List Nat))
  /-- PARTNER_CLAIM_CHANGE (R296). -/
  | partnerClaimChange (level : Bool)
  /-- TAKEOVER_RESTORE_DONE (R302). -/
  | takeoverRestoreDone (elapsed : Nat)
  /-- CLAIM_FRAME_RECEIVED (R294). -/
  | claimFrameReceived (w : BitVec 32)
  /-- CLAIM_GAP_DONE (R296). -/
  | claimGapDone
  /-- CHECKPOINT_SET_DUE (R299). -/
  | checkpointSetDue (sent : Bool)
  /-- CHECKPOINT_SET_RECEIVED (R300). -/
  | checkpointSetReceived
  /-- CHECKPOINT_SELF_WRITE (R300). -/
  | checkpointSelfWrite
  /-- REHEARSAL (R301). -/
  | rehearsal (faulted : Bool)
  /-- REF_ACTIVITY_LOSS (R308). -/
  | refActivityLoss (r : Ref)
  /-- REF_ACTIVITY_RETURN (R308). -/
  | refActivityReturn (r : Ref)
  /-- FREQ_MONITOR_UPDATE (R309). -/
  | freqMonitorUpdate (foffs : List Int) (freq : Int)
  /-- PPS_IN_PULSE (R309). -/
  | ppsInPulse (interval : Nat)
  /-- REF_WTR_EXPIRY (R310). -/
  | refWtrExpiry (r : Ref)
  /-- SELECTION_BOUNDARY (R311). -/
  | selectionBoundary (means : List Int)
  /-- BUILD_OUT_DONE (R313). -/
  | buildOutDone
  /-- DPLL_LOCKED (R316). -/
  | dpllLocked
  /-- HOLDOVER_DEGRADE (R319). -/
  | holdoverDegrade
  /-- DISPUTE_END (R315). -/
  | disputeEnd (rank : Nat)
  /-- MODE_AUTOMATIC (R322). -/
  | modeAutomatic (req : Requester)
  /-- FORCED_HOLDOVER (R321). -/
  | forcedHoldover (req : Requester)
  /-- FORCED_FREE_RUN (R321). -/
  | forcedFreeRun (req : Requester)
  /-- SOFTWARE_LOOP (R321). -/
  | softwareLoop (req : Requester)
  /-- FFO_WRITE (R321). -/
  | ffoWrite (req : Requester) (ffo : BitVec 32)
  /-- PHASE_STEP_GO (R324). -/
  | phaseStepGo (req : Requester) (slewed : Bool) (slew : Nat) (amount : BitVec 40)
  /-- PHASE_STEP_DONE (R324). -/
  | phaseStepDone
  /-- TOD_ARM (R326). -/
  | todArm (req : Requester) (seconds : BitVec 48)
  /-- SECOND_ROLLOVER (R327). -/
  | secondRollover
  /-- TOD_MESSAGE_RECEIVED (R326). -/
  | todMessageReceived (m : List Byte) (inWindow : Bool)
  /-- TOD_SNAP (R327). -/
  | todSnap (req : Requester)
  /-- DOORBELL (R342). -/
  | doorbell (req : Requester) (offset bytes : Nat) (value : Option (BitVec 64))
  /-- RING_CFG_WRITE (R339). -/
  | ringCfgWrite (req : Requester) (r : Ring) (w : Fin 4) (v : BitVec 32)
  /-- DESCRIPTOR_ACCEPT (R349). -/
  | descriptorAccept (r : Ring) (d : DescRead)
  /-- COMMAND_COMPLETION (R347). -/
  | commandCompletion (h : Nat) (ok : Bool)
  /-- COMMAND_TIMEOUT (R361). -/
  | commandTimeout (h : Nat)
  /-- MSIX_TIMER (R362). -/
  | msixTimer (r : Ring)
  /-- MSIX_UNMASK (R362). -/
  | msixUnmask (req : Requester) (offset bytes : Nat) (value : Option (BitVec 64))
  /-- CXL_U_LINK_DOWN (R335). -/
  | cxlULinkDown
  /-- CXL_U_LINK_UP (R335). -/
  | cxlULinkUp (width speed : Nat) (flit : Bool)
  /-- VIRAL_RECEIVED (R336). -/
  | viralReceived
  /-- NOP (R352). -/
  | nop (h : Nat)
  /-- RING_QUERY (R353). -/
  | ringQuery (h : Nat)
  /-- MEM_PORT_ENABLE (R369). -/
  | memPortEnable (req : Requester) (p : MemPort)
  /-- MEM_PORT_DISABLE (R369). -/
  | memPortDisable (req : Requester) (p : MemPort)
  /-- MEM_LINK_UP (R369). -/
  | memLinkUp (p : MemPort) (width speed : Nat) (flit : Bool)
  /-- ENUMERATION_DONE (R370). -/
  | enumerationDone (p : MemPort) (capacity : Nat)
  /-- ENUMERATION_FAULT (R370). -/
  | enumerationFault (p : MemPort) (cause : Fin 4)
  /-- MEM_PORT_FAULT_RETRY (R369). -/
  | memPortFaultRetry (p : MemPort)
  /-- MEM_LINK_DOWN (R369). -/
  | memLinkDown (p : MemPort)
  /-- REGION_CFG_WRITE (R372). -/
  | regionCfgWrite (req : Requester) (e : Region) (w : Fin 4) (v : BitVec 32)
  /-- REGION_FILL_DONE (R374). -/
  | regionFillDone (e : Region)
  /-- POISON_READ (R376). -/
  | poisonRead (e : Region) (off : Nat) (user : PoisonUser)
  /-- SCRUB_VISIT (R381). -/
  | scrubVisit (i : MemInst) (addr : BitVec 24) (found : Found) (byRead passEnds : Bool)
  /-- WHIP_INJECT_ARM (R386). -/
  | whipInjectArm (req : Requester) (i : MemInst) (kind : BitVec 2)
  /-- REGION_STATUS (R387). -/
  | regionStatus (h : Nat)
  /-- REGION_REFILL (R387). -/
  | regionRefill (h : Nat)
  /-- POISON_LIST (R387). -/
  | poisonList (h : Nat)
  /-- WHIP_STATUS (R387). -/
  | whipStatus (h : Nat)
  /-- WATCHDOG_EXPIRY (R392). -/
  | watchdogExpiry (k : Core)
  /-- DATA_ABORT (R394). -/
  | dataAbort (k : Core) (addr : Nat) (fetch : Bool)
  /-- VOTER_DISAGREE (R395). -/
  | voterDisagree (k : Option (Fin 3))
  /-- RECOVERY_DONE (R397). -/
  | recoveryDone
  /-- TRIPLE_SPLIT (R398). -/
  | tripleSplit
  /-- JOB_DISPATCH (R400). -/
  | jobDispatch (k : Core) (arrived : List Service)
  /-- JOB_YIELD (R400). -/
  | jobYield (k : Core) (us : Nat)
  /-- SLICE_EXPIRY (R400). -/
  | sliceExpiry (k : Core)
  /-- CORE_GRANT_WINDOW (R399). -/
  | coreGrantWindow
  /-- MB_POST (R402). -/
  | mbPost (req : Requester) (m : Chan) (e : ChanEnd) (len : BitVec 5)
  /-- MB_POP (R403). -/
  | mbPop (req : Requester) (m : Chan) (e : ChanEnd)
  /-- GCC0_PACKET_RECEIVED (R407). -/
  | gcc0PacketReceived (n : Line)
  /-- SVC_STATUS (R409). -/
  | svcStatus (h : Nat)
  /-- SVC_RESTART (R409). -/
  | svcRestart (h : Nat)
  /-- GCC_SEND (R409). -/
  | gccSend (h : Nat)
  /-- ROLE_CHALLENGE (R416). -/
  | roleChallenge (h : Nat)
  /-- ROLE_RESPONSE (R416). -/
  | roleResponse (h : Nat)
  /-- ROLE_DROP (R418). -/
  | roleDrop (h : Nat)
  /-- ROLE_STATUS (R429). -/
  | roleStatus (h : Nat)
  /-- AUDIT_READ (R421). -/
  | auditRead (h : Nat)
  /-- AUDIT_ACK (R421). -/
  | auditAck (h : Nat)
  /-- NV_WRITE (R424). -/
  | nvWrite (h : Nat)
  /-- NV_COMMIT (R422). -/
  | nvCommit (h : Nat) (content : NvContent)
  /-- OTP_WRITE (R427). -/
  | otpWrite (h : Nat)
  /-- NV_STATUS (R429). -/
  | nvStatus (h : Nat)
  /-- AUTH_NEW (R416). -/
  | authNew (req : Requester) (entry : BitVec 6)
  /-- AUTH_SUBMIT (R416). -/
  | authSubmit (req : Requester) (entry : BitVec 6)
  /-- LOCKOUT_EXPIRY (R417). -/
  | lockoutExpiry (req : Requester)
  /-- SESSION_EXPIRY (R418). -/
  | sessionExpiry (slot : Slot)
  /-- JOURNAL_PAGE_PROGRAM (R420). -/
  | journalPageProgram
  /-- JOURNAL_DRAIN (R428). -/
  | journalDrain
  /-- GRANT_COMPUTATION (R436). -/
  | grantComputation
  /-- CAL_GAIN_UPDATE (R431). -/
  | calGainUpdate (iout : Option (BitVec 16))
  /-- TJ_SAMPLE (R432). -/
  | tjSample (flight : List (Block × Bool))
  /-- AVS_RAISE (R437). -/
  | avsRaise (slack : Int) (ack : Bool)
  /-- AVS_LOWER (R437). -/
  | avsLower (slack : Int) (ack : Bool)
  /-- SUPPLY_THRESHOLD_CROSS (R439). -/
  | supplyThresholdCross (e : RailEdge) (flight : List (Block × Bool))
  /-- SHUTDOWN_RESTART (R440). -/
  | shutdownRestart
  /-- FEED_MONITOR (R441). -/
  | feedMonitor (share : Fin 101) (long aOk bOk : Bool)
  /-- FEED_OUT_OF_RANGE (R441). -/
  | feedOutOfRange (b : Bool)
  /-- HOLD_TEST (R442). -/
  | holdTest (railOnB railOnA : Bool)
  /-- PDM_MEASURE (R443). -/
  | pdmMeasure (now : List (BitVec 16)) (snr0 snr1 snr2 : BitVec 8)
  /-- AGEING_REPLAN (R444). -/
  | ageingReplan
  /-- MON_TRIG (R452). -/
  | monTrig (req : Requester)
  /-- MON_TIMER_TRIGGER (R452). -/
  | monTimerTrigger
  /-- MON_STEP_DONE (R451). -/
  | monStepDone (samples : List (List Sample))
  /-- URG_GO (R453). -/
  | urgGo (req : Requester) (step : BitVec 27)
  /-- MON_URGENT (R453). -/
  | monUrgent (h : Nat)
  /-- URGENT_STEP_DONE (R453). -/
  | urgentStepDone (samples : List (List Sample))
  /-- THERMAL_SCAN (R454). -/
  | thermalScan (readings : List Int)
  /-- COMMON_TRIGGER (R457). -/
  | commonTrigger (n : Line) (held0 held1 held2 : Nat)
  /-- SNAP_POST_DONE (R457). -/
  | snapPostDone (n : Line)
  /-- SNAP_DRAIN_START (R458). -/
  | snapDrainStart (n : Line)
  /-- SNAP_DRAIN_DONE (R458). -/
  | snapDrainDone (n : Line) (unc : Nat) (blocks : List (List Byte))
  /-- SNAP_ARM (R459). -/
  | snapArm (h : Nat)
  /-- SNAP_DISARM (R459). -/
  | snapDisarm (h : Nat)
  /-- SNAP_FIRE (R457). -/
  | snapFire (h : Nat) (held0 held1 held2 : Nat)
  /-- SNAP_STATUS (R459). -/
  | snapStatus (h : Nat)
  /-- DUMP_TICK (R465). -/
  | dumpTick
  /-- DUMP_DONE (R466). -/
  | dumpDone
  /-- COUNTER_WRITE (R464). -/
  | counterWrite (req : Requester) (addr : Nat) (wide : Bool) (value : Nat) (inc : Nat)
  /-- BW_WINDOW_END (R468). -/
  | bwWindowEnd (rd0 wr0 rd1 wr1 rd2 wr2 : Nat)
  /-- INSTRUCTION_SAMPLE (R469). -/
  | instructionSample (k : Core) (stalled : Bool) (pc cycle : BitVec 64) (skid : Fin 3)
  /-- CNT_DUMP (R471). -/
  | cntDump (h : Nat)
  /-- CNT_STATUS (R471). -/
  | cntStatus (h : Nat)
  /-- ISLAND_POWER_ON (R476). -/
  | islandPowerOn (flash : Option FlashImage)
  /-- PORST_ASSERT (R500). -/
  | porstAssert (flight : List (Block × Bool))
  /-- PORST_RELEASE (R478). -/
  | porstRelease (i3c : BitVec 2) (xspi mfg : Bool)
  /-- BOOT_STAGE_DONE (R478). -/
  | bootStageDone (ms : BitVec 16) (fails : List (MemInst × Line)) (torn : BitVec 16) (outvoted : BitVec 24)
  /-- BOOT_STAGE_TIMEOUT (R478). -/
  | bootStageTimeout (ms : BitVec 16) (cause : Fin 6)
  /-- DEVICE_RESET (R477). -/
  | deviceReset (req : Requester) (flight : List (Block × Bool))
  /-- CORE_RESET (R477). -/
  | coreReset (req : Requester) (flight : List (Block × Bool))
  /-- CXL_U_RESET (R476). -/
  | cxlUReset
  /-- FUNCTION_LEVEL_RESET (R476). -/
  | functionLevelReset
  /-- ROOT_LOCK_LOSS (R485). -/
  | rootLockLoss
  /-- ROOT_RELOCK_ATTEMPT (R485). -/
  | rootRelockAttempt
  /-- ROOT_RELOCKED (R485). -/
  | rootRelocked
  /-- XO_LOST (R487). -/
  | xoLost
  /-- XO_RESTORED (R487). -/
  | xoRestored
  /-- FLT_RELEASE (R488). -/
  | fltRelease
  /-- FLT_SW (R488). -/
  | fltSw (req : Requester) (v : Bool)
  /-- ESCALATION_TIMEOUT (R490). -/
  | escalationTimeout (flight : List (Block × Bool))
  /-- REGISTER_READ (R12). -/
  | registerRead (req : Requester) (addr : Nat) (wide : Bool)
  /-- BOOT_ST_READ (R489). -/
  | bootStRead (req : Requester)
  /-- PWR_WARN (R439). -/
  | pwrWarn (low : Bool)
  /-- INGRESS_CSF (R219). -/
  | ingressCsf (c : Client)
  /-- INGRESS_CSF_CLEAR (R219). -/
  | ingressCsfClear (c : Client)
  /-- PARTNER_DATA_LOSS (R376). -/
  | partnerDataLoss (p : MemPort) (lo hi : Nat)
  /-- END_MARKER (R127). -/
  | endMarker (n : Line) (f : Slot) (found : Bool)
  /-- SNOOP (R334). -/
  | snoop (addr : Nat)
  /-- MFG_RELEASE (R499). -/
  | mfgRelease
  deriving DecidableEq, Repr

end Sys2Proof
end

