-- ==== Sys2Proof/Config.lean ====
section
/-! DEFINITION. What the spec leaves open: values it gives no number for, and the cryptographic functions it names from other
standards. Each is a constant without a body, so that nothing can be proved of the value. -/

namespace Sys2Proof

/-- A value the spec leaves open, fresh for each number of the counter that a step reads and advances (log entry 2). -/
opaque Config.freeValue : Nat → Nat

/-- The flags that the manual names in an event's parameters without giving their codes. -/
inductive Flag where
  | stepDone | stepRefused | railIo | railCore | railTj | pinWarn
  deriving DecidableEq, Repr

/-- The code of such a flag (log entry 4). -/
opaque Config.flagCode : Flag → Nat

/-- The part of an item of Table 17.1 that VDD_CORE carries, in thousandths: the spec gives no split (log entry 22). The items are numbered
in the table's order. -/
opaque Config.coreShare : Nat → Nat

/-- The cause in the code of the event of a recentred crossing, which the manual does not give (R37, log entry 23). -/
opaque Config.crossingCause : Nat

/-- ECDSA P-384 over SHA-384: whether a signature of a message verifies under a public key (R416, R424). -/
opaque Config.ecdsaVerify : List Byte → List Byte → List Byte → Bool

/-- SHA-384 of a byte string (R424, R521). -/
opaque Config.sha384 : List Byte → List Byte

/-- The unwrapping of a key blob under a wrapping key: the plain key, or nothing where the check of the wrapping fails (R248, R250). -/
opaque Config.unwrap : List Byte → List Byte → Option (List Byte)

/-- The device root key in OTP, which only the unwrap engine reads (R248). -/
opaque Config.rootKey : List Byte

/-- The traffic key that the key exchange derives from the link key, the salt and the info string (R253). -/
opaque Config.deriveKey : List Byte → List Byte → List Byte → List Byte

/-- The AES-256-GCM tag of a segment under a key, an IV and the segment's associated data and text (R245, R246). -/
opaque Config.gcmTag : List Byte → List Byte → List Byte → List Byte

/-- The bytes of the AES-256 counter stream of a segment under a key and an IV, by their place in the segment (R245, R246). -/
opaque Config.gcmStream : List Byte → List Byte → Nat → Byte

/-- The bytes that replace a client's stream (R37, R219, Table 7.5), by their place: 0 LF ordered sets in the 256b/257b stream, 1 ODU-AIS,
2 errored blocks. Other standards define them (log entry 78). -/
opaque Config.replacement : Nat → Nat → Byte

/-- The stream that an interface of a TYPE and MODE of Table 7.1 gives for the bytes of its lanes: for PCS mode the 256b/257b stream
without alignment markers, for OTN the ODU demapped from the host ODUCn (R207 to R209, log entry 78). -/
opaque Config.hostIn : Nat → Nat → List Byte → List Byte

/-- The bytes toward the lanes for such a stream: markers put in again, RS(544,514) encoded, the rate adapted by idle (R207); or the ODU
mapped into the host ODUCn (R209, log entry 78). -/
opaque Config.hostOut : Nat → Nat → List Byte → List Byte

/-- A frame of the OIF 800ZR implementation agreement by the fields that Hitch sets and uses (R181): its alignment word is exact; its
multiframe counter; the violations of the section's and the path's BIP-8; BEI and BDI of both; STAT of the ODU overhead; its TTI bytes
of both; its GCC0 bytes; its payload. -/
structure OzrFrame where
  fawOk : Bool := true
  mfas : Nat := 0
  smViolations : Nat := 0
  pmViolations : Nat := 0
  smBei : Nat := 0
  pmBei : Nat := 0
  smBdi : Bool := false
  pmBdi : Bool := false
  stat : Nat := 0
  smTti : Byte := 0
  pmTti : Byte := 0
  gcc : List Byte := []
  payload : List Byte := []
  deriving DecidableEq, Repr, Inhabited

/-- The 800ZR frame as the agreement lays it out, which the spec only names (R181, log entry 82): the bits of a frame, the frames of a
second, the payload and GCC0 bytes of a frame, the frame that some bits hold and the bits of a frame. -/
opaque Config.ozrBits : Nat

@[inherit_doc Config.ozrBits] opaque Config.ozrRate : Nat

@[inherit_doc Config.ozrBits] opaque Config.ozrPayload : Nat

@[inherit_doc Config.ozrBits] opaque Config.ozrGcc : Nat

@[inherit_doc Config.ozrBits] opaque Config.ozrRead : List Bool → OzrFrame

@[inherit_doc Config.ozrBits] opaque Config.ozrWrite : OzrFrame → List Bool

/-- The bytes of a line position to which no container is bound, which the spec does not give (R211, log entry 79). -/
opaque Config.unboundByte : Nat → Byte

/-- A coupling block as the inner decoder receives it (R155): its base, its entropy code, its parity bits, and the input value of each of
its labels (all zero for erasures, R157). -/
structure SoftBlock where
  base : Nat
  ent : Nat
  par : Nat
  j : Nat := 0
  erased : Bool := false
  soft : List Int
  deriving DecidableEq, Repr, Inhabited

/-- The nodes of a coupling block (R152): the labels at its information nodes, in the order of R154, and its 2,048 parity nodes. -/
structure Nodes where
  labels : List Bool := []
  parity : List Bool := []
  deriving DecidableEq, Repr, Inhabited

/-- One layered offset-min-sum pass over the checks of a window with its messages of 6 bits (R155): the spec gives neither the offset nor
the order of the layers (log entry 88). The last but one argument tells a tail-biting burst (R164). -/
opaque Config.minSumPass : Bool → List SoftBlock → List Int → List Int

/-- The hard decisions that a window's messages stand for (R155, log entry 88). -/
opaque Config.minSumHard : Bool → List SoftBlock → List Int → List Nodes

/-- The NGMI in units of 1/65,536 of some sent labels, by input value and decoded label (R158): the spec gives no scale of the input
values (log entry 88). -/
opaque Config.ngmiCode : List (Int × Bool) → Nat

/-- What the dematcher gives for amplitudes that no input of the matcher yields (R47, log entry 89). -/
opaque Config.unmatched : List Nat → Nat

/-- The oFEC of 800ZR framing (R165, log entry 82): the coded bits of a frame's bits; the hard decisions after some iterations; the coded
bits of an oFEC block; the bits it carries with those corrected, or nothing where it is uncorrectable. -/
opaque Config.ofecEncode : List Bool → List Bool

@[inherit_doc Config.ofecEncode] opaque Config.ofecHard : Nat → List Int → List Bool

/-- Whether all checks of the oFEC hold after some iterations (R158, R165, log entry 82). -/
opaque Config.ofecHolds : Nat → List Int → Bool

@[inherit_doc Config.ofecEncode] opaque Config.ofecBlock : Nat

@[inherit_doc Config.ofecEncode] opaque Config.ofecDecode : List Bool → Option (List Bool × Nat)

/-- The samples of the four tributaries for a modulation frame (R49, R52, R53): the subcarriers, each by first slot, width, gain and its
symbols on both polarisations with pilots told from data, shaped at a roll-off, with pilots raised by PILOT_BOOST, and normalised.
The spec gives no filter length, no sampling of them and no number format (log entry 91). -/
opaque Config.shape : Nat → Nat → List (Nat × Nat × Int × List ((Int × Int) × (Int × Int) × Bool)) → Nat → List Int

/-- The same for the one carrier of 800ZR framing (R71, log entry 82), from its coded bits. -/
opaque Config.ozrShape : List Bool → Nat → List Int

/-- Samples under dispersion pre-compensation, the skews of the four tributaries, and the gain and phase corrections of both polarisations
(R54, log entry 91). -/
opaque Config.compensate : Int → List Int → List (Int × Int) → (Nat → List Int) → Nat → List Int

/-- Where a pre-distortion filter output stands in the table: the entry below it, and how far it lies toward the next in parts of 65,536
(R55, log entry 91). -/
opaque Config.lutPlace : Int → Nat × Nat

/-- A DAC code from a quotient that need not be whole (R55, log entry 91). -/
opaque Config.roundCode : Int → Nat → Nat

/-- The random bytes of the device: a byte for each number of the counter and each position (R416, R253). -/
opaque Config.randomByte : Nat → Nat → Byte

/-- A leaf as a checkpoint set holds it (R299): its line and ID, its state, its timing advance, its profile (PROF_ID, base, entropy),
its allocation deficit. -/
structure RestoredLeaf where
  line : Nat
  leaf : Nat
  st : Nat
  ta : Nat
  id : Nat
  base : Nat
  ent : Nat
  deficit : Nat
  deriving DecidableEq, Repr

/-- What the services restore from a checkpoint set (R299, R302): the spec gives the set's content and no layout for it. The leaves; the
protection commands in force (group, lockout, forced path); the performance counts since the last interval record (line, whether of
24 hours, counter, count); of the timing selection FORCE_EN and FORCE_REF, the seconds of WTR left and the open disputes (rank, members)
(R329); the key-exchange generations (context, sent, received); per Hub line the
period number at the snapshot. -/
structure Restored where
  leaves : List RestoredLeaf
  commands : List (Nat × Bool × Option Nat)
  counts : List (Nat × Bool × Nat × Nat)
  force : Nat × Nat
  wtr : List (Nat × Nat)
  disputes : List (Nat × Nat)
  gens : List (Nat × Nat × Nat)
  periods : List (Nat × Nat)
  deriving DecidableEq, Repr, Inhabited

/-- The bytes of a set that hold the services' restorable state, and the state restored from a set's bytes (R299, R302): the spec gives
the content and no layout (log entry 94). -/
opaque Config.serviceBytes : Restored → List Byte

@[inherit_doc Config.serviceBytes] opaque Config.serviceState : List Byte → Restored

/-- The digest of 32 bytes over the services' state in restored form (R299, R301): the spec gives no layout of the hashed state (log entry
94). -/
opaque Config.stateDigest : Restored → List Byte

/-- The version of the service state format that the device's code uses (R300). -/
opaque Config.stateFormat : Nat

end Sys2Proof
end

