-- ==== Sys2Proof/Machine/Bits.lean ====
section
/-! DEFINITION. Bit fields, little-endian byte strings (R3) and the three checks the manual names: CRC-16/CCITT and CRC-8 (R4)
and CRC-32C (R345). -/

namespace Sys2Proof.Machine

/-- The bits hi down to lo of a value (R3). -/
def bits (v hi lo : Nat) : Nat := (v >>> lo) % 2 ^ (hi + 1 - lo)

/-- One bit of a value (R3). -/
def bit (v n : Nat) : Bool := v.testBit n

/-- A value with its bits hi down to lo replaced. -/
def setBits (v hi lo x : Nat) : Nat :=
  v - bits v hi lo <<< lo + (x % 2 ^ (hi + 1 - lo)) <<< lo

/-- The mask of the bits hi down to lo. -/
def maskOf (hi lo : Nat) : Nat := (2 ^ (hi + 1 - lo) - 1) <<< lo

/-- A field read as a two's complement number of w bits. -/
def signed (w v : Nat) : Int := if v < 2 ^ (w - 1) then (v : Int) else (v : Int) - (2 ^ w : Nat)

/-- The two's complement code of an integer in w bits. -/
def unsigned (w : Nat) (x : Int) : Nat := (x % ((2 ^ w : Nat) : Int)).toNat

/-- An integer moved to the nearest end of a range (R518). -/
def clip (least most x : Int) : Int := if x < least then least else if most < x then most else x

/-- A count that stops at the largest value of w bits. -/
def satAdd (w a b : Nat) : Nat := min (a + b) (2 ^ w - 1)

/-- A Boolean as a bit. -/
def b2n (b : Bool) : Nat := if b then 1 else 0

/-- The n low bytes of a value, byte 0 first (R3). -/
def leBytes : Nat → Nat → List Byte
  | 0, _ => []
  | n + 1, v => BitVec.ofNat 8 v :: leBytes n (v / 256)

/-- The value of a little-endian byte string (R3). -/
def leVal : List Byte → Nat
  | [] => 0
  | b :: bs => b.toNat + 256 * leVal bs

/-- The n bytes of a string from an offset, as a little-endian value. -/
def leAt (bs : List Byte) (off n : Nat) : Nat := leVal ((bs.drop off).take n)

/-- One byte of a string, zero beyond its end. -/
def byteAt (bs : List Byte) (off : Nat) : Nat := (bs.getD off 0).toNat

/-- A byte string cut or filled with zeros to n bytes. -/
def padTo (n : Nat) (bs : List Byte) : List Byte := (bs ++ List.replicate (n - bs.length) 0).take n

/-- One bit of CRC-32C, the polynomial 0x1EDC_6F41 reflected (R345). -/
def crc32cBit (c : BitVec 32) : BitVec 32 :=
  if c.getLsbD 0 then (c >>> 1) ^^^ 0x82F63B78#32 else c >>> 1

/-- One byte of CRC-32C (R345). -/
def crc32cByte (c : BitVec 32) (b : Byte) : BitVec 32 :=
  crc32cBit (crc32cBit (crc32cBit (crc32cBit (crc32cBit (crc32cBit (crc32cBit (crc32cBit (c ^^^ b.setWidth 32))))))))

/-- CRC-32C: initial value and final XOR 0xFFFF_FFFF (R345). -/
def crc32c (bs : List Byte) : Nat := ((bs.foldl crc32cByte 0xFFFFFFFF#32) ^^^ 0xFFFFFFFF#32).toNat

/-- One bit of CRC-16/CCITT, polynomial 0x1021 (R4). -/
def crc16Bit (c : BitVec 16) : BitVec 16 :=
  if c.getMsbD 0 then (c <<< 1) ^^^ 0x1021#16 else c <<< 1

/-- One byte of CRC-16/CCITT, from its most significant bit (R4). -/
def crc16Byte (c : BitVec 16) (b : Byte) : BitVec 16 :=
  crc16Bit (crc16Bit (crc16Bit (crc16Bit (crc16Bit (crc16Bit (crc16Bit (crc16Bit (c ^^^ (b.setWidth 16 <<< 8)))))))))

/-- CRC-16/CCITT over bytes: initial value 0xFFFF, no final XOR (R4). -/
def crc16 (bs : List Byte) : Nat := (bs.foldl crc16Byte 0xFFFF#16).toNat

/-- One serially sent bit of CRC-16/CCITT (R4). -/
def crc16Serial (c : BitVec 16) (b : Bool) : BitVec 16 :=
  if c.getMsbD 0 != b then (c <<< 1) ^^^ 0x1021#16 else c <<< 1

/-- CRC-16/CCITT over serially sent bits, in the order in which they are sent (R4). -/
def crc16Bits (bs : List Bool) : Nat := (bs.foldl crc16Serial 0xFFFF#16).toNat

/-- One bit of CRC-8, polynomial 0x07 (R4). -/
def crc8Bit (c : BitVec 8) : BitVec 8 :=
  if c.getMsbD 0 then (c <<< 1) ^^^ 0x07#8 else c <<< 1

/-- One byte of CRC-8, from its most significant bit (R4). -/
def crc8Byte (c : BitVec 8) (b : Byte) : BitVec 8 :=
  crc8Bit (crc8Bit (crc8Bit (crc8Bit (crc8Bit (crc8Bit (crc8Bit (crc8Bit (c ^^^ b))))))))

/-- CRC-8 over bytes: initial value 0, no final XOR (R4). -/
def crc8 (bs : List Byte) : Nat := (bs.foldl crc8Byte 0#8).toNat

/-- The bits of a value of w bits, the most significant first. -/
def msbFirst (w v : Nat) : List Bool := (List.range w).map fun k => v.testBit (w - 1 - k)

/-- A string closed by the CRC-32C over all its bytes (R345). -/
def withCrc (bs : List Byte) : List Byte := bs ++ leBytes 4 (crc32c bs)

/-- Whether a string's last four bytes are the CRC-32C of the rest (R345, R346). -/
def crcOk (bs : List Byte) : Bool :=
  4 ≤ bs.length && leAt bs (bs.length - 4) 4 == crc32c (bs.take (bs.length - 4))

/-- An index moved on by d around a ring of m values. -/
def wrapAdd (m a d : Nat) : Nat := (a + d) % m

/-- The distance from b up to a around a ring of m values. -/
def wrapSub (m a b : Nat) : Nat := (a + m - b % m) % m

/-- The least whole number not below a quotient. -/
def ceilDiv (a b : Nat) : Nat := (a + b - 1) / b

end Sys2Proof.Machine
end

