-- ==== Sys2Proof/Machine/RegMap.lean ====
section
/-! DEFINITION. The register map: one name per register and table memory of the device (Table 22.10), its place in
BAR0 (R15, R16, R508, R509 and the address line of each register's own table), its width, and for each of its fields the bits, the
access code of Table 0.4, the reset value and the range that R518 clips to, all as the table of its chapter gives them. -/

namespace Sys2Proof.Machine

/-- The access codes of Table 0.4 (RS does not occur in the field tables). -/
inductive Access where
  | rw | ro | rov | wo | w1c | w1s | rwc
  deriving DecidableEq, Repr

/-- One field of a register: its bits, its access code, its reset value and, where its table states a range, that range
(R518); a range with a negative end is one of a two's complement field. -/
structure FieldSpec where
  hi : Nat
  lo : Nat
  acc : Access
  reset : Nat
  rng : Option (Int × Int)
  deriving DecidableEq, Repr

/-- A register: the BAR0 address of its first instance, the number and stride of its instances by index, its width in bits, its
reset word, and its fields. -/
structure RegSpec where
  base : Nat
  dims : List (Nat × Nat)
  width : Nat
  fields : List FieldSpec
  deriving DecidableEq, Repr

/-- The registers of Table 22.10, by the names their chapters give them. -/
inductive RegId where
  | TOP_COMMIT | TOP_COMMIT_ST | TOP_ACC_ERR | TOP_ID | TOP_SERIAL | TOP_STRAP | TOP_EVT | TOP_HOLD | TOP_LINE_MODE
  | TOP_DEV_MODE | TOP_MODE_STAT | TOP_MODE_REFUSE | TOP_BOOT_ST | TOP_RST_CAUSE | TOP_RESET | TOP_FAULT
  | TOP_FLT_CFG | TOP_INT_ST | TOP_INT_EN | BCKT_U_STAT | BCKT_MEM_CFG | BCKT_MEM_STAT | BCKT_MEM_EVT | BCKT_MEM_CNT
  | BCKT_REFUSE | BCKT_EVT | BCKT_ENG_CFG | BCKT_CNT | BCKT_EVQ | BCKT_REGION | BCKT_RING_CFG | BCKT_RING_ST
  | MRLN_COMMIT | MRLN_COMMIT_ST | MRLN_REFUSE | MRLN_EVT | MRLN_NV_EVT | MRLN_SCHED_CFG | MRLN_TRIPLE_ST
  | MRLN_CORE_ST | MRLN_MB_CFG | MRLN_GCC_CFG | MRLN_ROLE_ST | MRLN_AUTH_CFG | MRLN_NV_ST | MRLN_JRN_SEQ
  | MRLN_JRN_EXP | MRLN_AUTH_CHAL | MRLN_AUTH_RESP | MRLN_AUTH_CTL | MRLN_END_TXD | MRLN_END_POST | MRLN_END_ST
  | MRLN_END_HEAD | MRLN_END_POP | MRLN_END_INT | MRLN_END_RXD | WHIP_INST | WHIP_REMAP | WHIP_EVT | WHIP_CFG
  | WHIP_INJECT | FTHM_COMMIT | FTHM_COMMIT_ST | FTHM_REFUSE | FTHM_EVT | FTHM_DUMP_CFG | FTHM_BW_CFG | FTHM_SAMP_CFG
  | FTHM_DUMP_ST | FTHM_BW | FTHM_BW_PEAK | FTHM_XING | FTHM_SLIP | FTHM_PORT | HLYD_COMMIT | HLYD_COMMIT_ST
  | HLYD_REFUSE | HLYD_EVT | HLYD_REF_CFG | HLYD_SEL_CFG | HLYD_DPLL_CTL | HLYD_OUT_CFG | HLYD_TOD_CFG | HLYD_PSTEP
  | HLYD_TOD_SET | HLYD_STAT | HLYD_REF_ST | HLYD_HO | HLYD_TOD_SNAP | HLYD_TOD_SNAP_NS | BLAY_COMMIT
  | BLAY_COMMIT_ST | BLAY_REFUSE | BLAY_EVT | BLAY_BUD_CFG | BLAY_CORE_CFG | BLAY_AVS_CFG | BLAY_SUP_CFG | BLAY_STAT
  | BLAY_AVS_ST | BLAY_AON_ST | BLAY_LINE_CFG | TALY_COMMIT | TALY_COMMIT_ST | TALY_AGE_LINE | TALY_SNAP_ST
  | TALY_REFUSE | TALY_EVT | TALY_AGE_EVT | TALY_AGE_CFG | TALY_AGE_ST | TALY_MON_CFG | TALY_MON_CTL | TALY_URG
  | TALY_MON_ST | TALY_MON_RES | TALY_URG_RES | TALY_SEQ | TALY_JS | TALY_PDM | TALY_AGE_LOG | STRD_DAC_CFG
  | STRD_DAC_CAL | STRD_ADC_CFG | STRD_ADC_CAL | STRD_ADC_STAT | STRD_EVT | BRAD_COMMIT | BRAD_COMMIT_ST
  | BRAD_REFUSE | BRAD_LINE_CFG | BRAD_CDPRE | BRAD_LOAD_CFG | BRAD_LOAD_STAT | BRAD_LOAD_EVT | BRAD_SC_CFG
  | BRAD_SC_LOAD | BRAD_SC_ACT | BRAD_MAP | BRAD_TRIB | BRAD_POL | BRAD_PD_FIR | BRAD_PD_LUT | SPLC_COMMIT
  | SPLC_COMMIT_ST | SPLC_REFUSE | SPLC_LINE_CFG | SPLC_CD_CFG | SPLC_ADAPT_CFG | SPLC_CR_CFG | SPLC_TAP_LIM
  | SPLC_CMD | SPLC_STAT | SPLC_EST | SPLC_EST2 | SPLC_EVT | SPLC_SC_CFG | SPLC_SC_EST | SPLC_SC_HIST | SPLC_CHAN
  | BGHT_COMMIT | BGHT_COMMIT_ST | BGHT_REFUSE | BGHT_LINE_CFG | BGHT_DISC_CFG | BGHT_ACQ_CFG | BGHT_STAT | BGHT_EVT
  | BGHT_UP_CFG | BGHT_LEAF | BGHT_LEAF_ST | CLET_COMMIT | CLET_COMMIT_ST | CLET_REFUSE | CLET_LINE_CFG | CLET_SD_CFG
  | CLET_STAT | CLET_EVT | CLET_CNT | CLET_TRL | CLET_SC_CFG | CLET_SC_STAT | HTCH_COMMIT | HTCH_COMMIT_ST
  | HTCH_REFUSE | HTCH_LINE_CFG | HTCH_TX_CFG | HTCH_STAT | HTCH_DEF | HTCH_DEF_STK | HTCH_EVT | HTCH_HIST_PTR
  | HTCH_PM15 | HTCH_PM24 | HTCH_CNT | HTCH_TTI_SMTX | HTCH_TTI_SMEXP | HTCH_TTI_SMACC | HTCH_TTI_PMTX
  | HTCH_TTI_PMACC | HTCH_HIST | SEIZ_COMMIT | SEIZ_COMMIT_ST | SEIZ_REFUSE | SEIZ_EVT | SEIZ_KEK_ST | SEIZ_KC_CFG
  | SEIZ_KC_ST | SEIZ_KC_CNT | BEND_COMMIT | BEND_COMMIT_ST | BEND_REFUSE | BEND_EVT | BEND_PG_CFG | BEND_PG_DLY
  | BEND_PG_STAT | BEND_PATH_ST | BEND_PG_CNT | SHET_COMMIT | SHET_COMMIT_ST | SHET_REFUSE | SHET_CLI_CFG
  | SHET_ODU_CFG | SHET_FLX_CFG | SHET_CLI_STAT | SHET_CLI_EVT | SHET_CNT | SHET_TS | SHET_HTS | SHET_VID
  | TWIN_COMMIT | TWIN_COMMIT_ST | TWIN_REFUSE | TWIN_LANE_CFG | TWIN_TXFFE | TWIN_RXEQ | TWIN_SCAN | TWIN_STAT
  | TWIN_EYE | TWIN_EVT | TWIN_CNT | TWIN_QUAD_CFG | TWIN_SYNCE_SEL | LNYD_COMMIT | LNYD_COMMIT_ST | LNYD_LANE_CFG
  | LNYD_LANE_STAT | LNYD_EYE | LNYD_REFUSE | LNYD_CFG | LNYD_CLAIM | LNYD_GATE | LNYD_CK_CFG | LNYD_STAT | LNYD_EVT
  | LNYD_CNT
  deriving DecidableEq, Repr

/-- A field of a register, without the register's index. -/
structure Fld where
  id : RegId
  hi : Nat
  lo : Nat
  deriving DecidableEq, Repr

/-- A field with no stated range. -/
def fld (hi lo : Nat) (acc : Access) (reset : Nat) : FieldSpec := ⟨hi, lo, acc, reset, none⟩

/-- A field whose table states a range (R518). -/
def fldIn (hi lo : Nat) (acc : Access) (reset : Nat) (least most : Int) : FieldSpec := ⟨hi, lo, acc, reset, some (least, most)⟩

/-- The register tables of the manual. -/
def regSpec : RegId → RegSpec
  | .TOP_COMMIT => ⟨0x00300000, [], 32, [  -- Table 22.2
      fld 31 0 .wo 0]⟩
  | .TOP_COMMIT_ST => ⟨0x00300008, [], 64, [  -- Table 22.3
      fld 63 32 .rov 0, fld 31 16 .rov 0, fld 15 8 .rov 0, fld 1 0 .rov 0]⟩
  | .TOP_ACC_ERR => ⟨0x00300010, [], 64, [  -- Table 22.6
      fld 63 48 .rov 0, fld 47 32 .rov 0, fld 31 16 .rov 0, fld 15 0 .rov 0]⟩
  | .TOP_ID => ⟨0x00300020, [], 64, [  -- Table 22.4
      fld 47 32 .ro 1, fld 24 24 .ro 0, fld 23 16 .ro 0xB0, fld 15 0 .ro 0x9600]⟩
  | .TOP_SERIAL => ⟨0x00300028, [], 64, [  -- Table 22.5
      fld 63 0 .ro 0]⟩
  | .TOP_STRAP => ⟨0x00300030, [], 32, [  -- Table 22.5
      fld 3 3 .ro 0, fld 2 2 .ro 0, fld 1 0 .ro 0]⟩
  | .TOP_EVT => ⟨0x00300060, [], 32, [  -- Table 22.6a
      fld 2 2 .w1c 0, fld 1 1 .w1c 0, fld 0 0 .w1c 0]⟩
  | .TOP_HOLD => ⟨0x00300080, [(16, 0x8)], 64, [  -- Table 22.7
      fld 63 63 .rov 0, fld 55 32 .rov 0, fld 31 28 .rov 0, fld 27 8 .rov 0, fld 3 0 .rov 0]⟩
  | .TOP_LINE_MODE => ⟨0x00300100, [(3, 0x4)], 32, [  -- Table 1.7
      fld 5 4 .rwc 0, fld 3 3 .rwc 0, fld 2 0 .rwc 0]⟩
  | .TOP_DEV_MODE => ⟨0x00300110, [], 32, [  -- Table 1.8
      fld 0 0 .rwc 0]⟩
  | .TOP_MODE_STAT => ⟨0x00300118, [], 32, [  -- Table 1.10
      fld 24 24 .rov 0, fld 20 20 .rov 0, fld 19 19 .rov 0, fld 18 16 .rov 0, fld 12 12 .rov 0, fld 11 11 .rov 0,
      fld 10 8 .rov 0, fld 4 4 .rov 0, fld 3 3 .rov 0, fld 2 0 .rov 0]⟩
  | .TOP_MODE_REFUSE => ⟨0x0030011C, [], 32, [  -- Table 1.11
      fld 31 31 .w1c 0, fld 19 16 .ro 0, fld 15 0 .ro 0]⟩
  | .TOP_BOOT_ST => ⟨0x00300200, [], 32, [  -- Table 20.9
      fld 31 16 .rov 0, fld 11 8 .rov 0, fld 5 5 .rov 0, fld 4 4 .rov 0, fld 3 0 .rov 0]⟩
  | .TOP_RST_CAUSE => ⟨0x00300208, [], 32, [  -- Table 20.10
      fld 8 8 .w1c 0, fld 7 7 .w1c 0, fld 6 6 .w1c 0, fld 5 5 .w1c 0, fld 4 4 .w1c 0, fld 3 3 .w1c 0, fld 2 2 .w1c 0,
      fld 1 1 .w1c 0, fld 0 0 .w1c 1]⟩
  | .TOP_RESET => ⟨0x0030020C, [], 32, [  -- Table 20.10
      fld 31 16 .wo 0, fld 1 0 .wo 0]⟩
  | .TOP_FAULT => ⟨0x00300210, [], 32, [  -- Table 20.11
      fld 28 26 .rov 0, fld 25 25 .rov 0, fld 24 24 .rov 0, fld 23 23 .rov 0, fld 22 22 .rov 0, fld 21 21 .rov 0,
      fld 20 20 .rov 0, fld 19 19 .rov 0, fld 18 0 .rov 0]⟩
  | .TOP_FLT_CFG => ⟨0x00300214, [], 32, [  -- Table 20.11
      fld 31 31 .rw 0, fld 20 20 .rw 0, fld 19 9 .rw 0, fld 8 8 .rw 1, fldIn 7 4 .rw 5 1 15, fld 3 0 .rw 1]⟩
  | .TOP_INT_ST => ⟨0x00300218, [], 32, [  -- Table 20.12
      fld 20 20 .rov 0, fld 19 19 .rov 0, fld 18 0 .rov 0]⟩
  | .TOP_INT_EN => ⟨0x0030021C, [], 32, [  -- Table 20.12
      fld 20 20 .rw 0, fld 19 19 .rw 0, fld 18 0 .rw 0]⟩
  | .BCKT_U_STAT => ⟨0x00400040, [], 32, [  -- Table 13.14
      fld 10 10 .rov 0, fld 9 9 .rov 0, fld 8 4 .rov 0, fld 3 1 .rov 0, fld 0 0 .rov 0]⟩
  | .BCKT_MEM_CFG => ⟨0x00500000, [(2, 0x100000)], 32, [  -- Table 14.8
      fldIn 31 24 .rw 0x10 1 255, fldIn 19 16 .rw 1 1 15, fldIn 15 12 .rw 4 1 15, fldIn 11 8 .rw 8 1 15,
      fld 0 0 .rw 0]⟩
  | .BCKT_MEM_STAT => ⟨0x00500040, [(2, 0x100000)], 64, [  -- Table 14.9
      fld 47 32 .rov 0, fld 19 16 .rov 0, fld 15 15 .rov 0, fld 14 14 .rov 0, fld 13 9 .rov 0, fld 8 6 .rov 0,
      fld 2 0 .rov 0]⟩
  | .BCKT_MEM_EVT => ⟨0x00500060, [(2, 0x100000)], 32, [  -- Table 14.10
      fld 5 5 .w1c 0, fld 4 4 .w1c 0, fld 3 3 .w1c 0, fld 2 2 .w1c 0, fld 1 1 .w1c 0, fld 0 0 .w1c 0]⟩
  | .BCKT_MEM_CNT => ⟨0x00500080, [(2, 0x100000), (6, 0x8)], 64, [  -- Table 14.11
      fld 63 63 .w1c 0, fld 47 0 .rw 0]⟩
  | .BCKT_REFUSE => ⟨0x00700010, [], 32, [  -- Table 13.22
      fld 31 31 .w1c 0, fld 30 16 .ro 0, fld 15 12 .ro 0, fld 11 0 .ro 0]⟩
  | .BCKT_EVT => ⟨0x00700060, [], 32, [  -- Table 13.19
      fld 8 8 .w1c 0, fld 7 7 .w1c 0, fld 6 6 .w1c 0, fld 4 4 .w1c 0, fld 3 3 .w1c 0, fld 2 2 .w1c 0, fld 1 1 .w1c 0,
      fld 0 0 .w1c 0]⟩
  | .BCKT_ENG_CFG => ⟨0x00700100, [], 32, [  -- Table 13.15
      fldIn 31 16 .rw 0x3E8 10 60000, fldIn 10 4 .rw 0x10 1 64, fldIn 3 0 .rw 8 1 8]⟩
  | .BCKT_CNT => ⟨0x00700180, [(8, 0x8)], 64, [  -- Table 13.20
      fld 63 63 .w1c 0, fld 47 0 .rw 0]⟩
  | .BCKT_EVQ => ⟨0x00700200, [(16, 0x4)], 32, [  -- Table 13.16
      fld 15 15 .rw 0, fld 14 0 .rw 0]⟩
  | .BCKT_REGION => ⟨0x00710000, [(256, 0x10)], 128, [  -- Table 14.12
      fld 99 84 .rov 0, fld 83 68 .rov 0, fld 67 66 .rov 0, fld 63 48 .rw 0, fld 47 32 .rw 0, fld 2 2 .rw 0,
      fld 1 1 .rw 0, fld 0 0 .rw 0]⟩
  | .BCKT_RING_CFG => ⟨0x00740000, [(32768, 0x10)], 128, [  -- Table 13.17
      fld 127 127 .rw 0, fld 126 112 .rw 0, fld 111 104 .rw 0, fld 103 96 .rw 0, fld 95 95 .rw 0, fld 94 84 .rw 0,
      fld 83 76 .rw 0, fld 75 75 .rw 0, fld 74 71 .rw 0, fld 70 67 .rw 0, fld 66 65 .rw 0, fld 64 64 .rw 0,
      fld 63 0 .rw 0]⟩
  | .BCKT_RING_ST => ⟨0x007C0000, [(32768, 0x8)], 64, [  -- Table 13.18
      fld 63 48 .rov 0, fld 46 40 .rov 0, fld 39 36 .rov 0, fld 35 34 .rov 0, fld 33 17 .rov 0, fld 16 0 .rov 0]⟩
  | .MRLN_COMMIT => ⟨0x00B00000, [], 32, [  -- Table 22.2
      fld 31 0 .wo 0]⟩
  | .MRLN_COMMIT_ST => ⟨0x00B00008, [], 64, [  -- Table 22.3
      fld 63 32 .rov 0, fld 31 16 .rov 0, fld 15 8 .rov 0, fld 1 0 .rov 0]⟩
  | .MRLN_REFUSE => ⟨0x00B00010, [], 32, [  -- Table 15.15
      fld 31 31 .w1c 0, fld 23 20 .ro 0, fld 19 16 .ro 0, fld 15 0 .ro 0]⟩
  | .MRLN_EVT => ⟨0x00B00060, [], 32, [  -- Table 15.14
      fld 9 9 .w1c 0, fld 8 8 .w1c 0, fld 7 7 .w1c 0, fld 6 6 .w1c 0, fld 5 5 .w1c 0, fld 4 4 .w1c 0, fld 3 3 .w1c 0,
      fld 2 2 .w1c 0, fld 1 1 .w1c 0, fld 0 0 .w1c 0]⟩
  | .MRLN_NV_EVT => ⟨0x00B00068, [], 32, [  -- Table 16.12
      fld 7 7 .w1c 0, fld 6 6 .w1c 0, fld 5 5 .w1c 0, fld 4 4 .w1c 0, fld 3 3 .w1c 0, fld 2 2 .w1c 0, fld 1 1 .w1c 0,
      fld 0 0 .w1c 0]⟩
  | .MRLN_SCHED_CFG => ⟨0x00B00100, [], 32, [  -- Table 15.8
      fldIn 23 16 .rw 0xA 1 255, fldIn 9 0 .rw 0x64 10 1000]⟩
  | .MRLN_TRIPLE_ST => ⟨0x00B00108, [], 64, [  -- Table 15.9
      fld 63 40 .rov 0, fld 39 16 .rov 0, fld 12 12 .rov 0, fld 11 10 .rov 0, fld 9 7 .rov 0, fld 6 3 .rov 0,
      fld 0 0 .rov 0]⟩
  | .MRLN_CORE_ST => ⟨0x00B00140, [(8, 0x4)], 32, [  -- Table 15.10
      fld 31 16 .rov 0, fld 10 8 .rov 0, fld 2 0 .rov 0]⟩
  | .MRLN_MB_CFG => ⟨0x00B00200, [(16, 0x8)], 64, [  -- Table 15.11
      fld 53 43 .rwc 0, fld 42 32 .rwc 0, fld 12 9 .rwc 0xF, fld 8 5 .rwc 0xF, fld 4 1 .rwc 0, fld 0 0 .rwc 0]⟩
  | .MRLN_GCC_CFG => ⟨0x00B00300, [(3, 0x4)], 32, [  -- Table 15.12
      fld 15 15 .rw 0, fld 14 0 .rw 0]⟩
  | .MRLN_ROLE_ST => ⟨0x00B00400, [(32, 0x8)], 64, [  -- Table 16.7
      fld 63 63 .rov 0, fld 62 61 .rov 0, fld 60 45 .rov 0, fld 44 41 .rov 0, fld 40 21 .rov 0, fld 20 7 .rov 0]⟩
  | .MRLN_AUTH_CFG => ⟨0x00B00500, [], 32, [  -- Table 16.8
      fldIn 31 24 .rw 8 1 255, fldIn 23 16 .rw 0x3C 1 255, fldIn 15 8 .rw 0x4B 50 95, fld 0 0 .rw 0]⟩
  | .MRLN_NV_ST => ⟨0x00B00508, [], 64, [  -- Table 16.10
      fld 63 48 .rov 0, fld 47 32 .rov 0, fld 31 16 .rov 0, fld 13 8 .rov 0, fld 7 6 .rov 0, fld 1 1 .rov 0,
      fld 0 0 .rov 0]⟩
  | .MRLN_JRN_SEQ => ⟨0x00B00510, [], 64, [  -- Table 16.11
      fld 63 0 .rov 0]⟩
  | .MRLN_JRN_EXP => ⟨0x00B00518, [], 64, [  -- Table 16.11
      fld 63 0 .rov 0]⟩
  | .MRLN_AUTH_CHAL => ⟨0x00B00600, [(4, 0x8)], 64, [  -- Table 16.9 (bullets)
      fld 63 0 .rov 0]⟩
  | .MRLN_AUTH_RESP => ⟨0x00B00640, [(12, 0x8)], 64, [  -- Table 16.9 (bullets)
      fld 63 0 .wo 0]⟩
  | .MRLN_AUTH_CTL => ⟨0x00B006A0, [], 32, [  -- Table 16.9
      fld 13 8 .rw 0, fld 5 4 .rov 0, fld 1 1 .w1s 0, fld 0 0 .w1s 0]⟩
  | .MRLN_END_TXD => ⟨0x00B10000, [(32, 0x100), (16, 0x4)], 32, [  -- Table 15.13
      fld 31 0 .wo 0]⟩
  | .MRLN_END_POST => ⟨0x00B10040, [(32, 0x100)], 32, [  -- Table 15.13
      fld 4 0 .wo 0]⟩
  | .MRLN_END_ST => ⟨0x00B10048, [(32, 0x100)], 64, [  -- Table 15.13
      fld 63 48 .rov 0, fld 47 40 .rov 0, fld 39 32 .rov 0, fld 31 24 .rov 0, fld 17 16 .rov 3, fld 12 8 .rov 0,
      fld 4 0 .rov 0]⟩
  | .MRLN_END_HEAD => ⟨0x00B10050, [(32, 0x100)], 64, [  -- Table 15.13
      fld 37 37 .rov 0, fld 36 32 .rov 0, fld 31 0 .rov 0]⟩
  | .MRLN_END_POP => ⟨0x00B10058, [(32, 0x100)], 32, [  -- Table 15.13
      fld 0 0 .wo 0]⟩
  | .MRLN_END_INT => ⟨0x00B1005C, [(32, 0x100)], 32, [  -- Table 15.13
      fld 10 8 .rw 0, fld 2 2 .w1c 0, fld 1 1 .w1c 0, fld 0 0 .w1c 0]⟩
  | .MRLN_END_RXD => ⟨0x00B10080, [(32, 0x100), (16, 0x4)], 32, [  -- Table 15.13
      fld 31 0 .rov 0]⟩
  | .WHIP_INST => ⟨0x00C00000, [(2048, 0x8)], 64, [  -- Table 14.14
      fld 63 48 .rov 0, fld 47 40 .rov 0, fld 39 37 .rov 0, fld 31 8 .rov 0, fld 7 7 .rov 0, fld 6 6 .rov 0,
      fld 5 5 .rov 0, fld 4 4 .rov 0, fld 3 0 .rov 0]⟩
  | .WHIP_REMAP => ⟨0x00D00000, [(2048, 0x20), (8, 0x4)], 32, [  -- Table 14.15
      fld 31 31 .rw 0, fld 23 0 .rw 0]⟩
  | .WHIP_EVT => ⟨0x00F00060, [], 32, [  -- Table 14.16
      fld 5 5 .w1c 0, fld 4 4 .w1c 0, fld 3 3 .w1c 0, fld 2 2 .w1c 0, fld 1 1 .w1c 0, fld 0 0 .w1c 0]⟩
  | .WHIP_CFG => ⟨0x00F00100, [], 32, [  -- Table 14.13
      fldIn 15 8 .rw 4 1 255, fld 0 0 .rw 1]⟩
  | .WHIP_INJECT => ⟨0x00F00108, [], 32, [  -- Table 14.13
      fld 31 31 .w1s 0, fld 30 29 .rw 0, fld 10 0 .rw 0]⟩
  | .FTHM_COMMIT => ⟨0x01300000, [], 32, [  -- Table 22.2
      fld 31 0 .wo 0]⟩
  | .FTHM_COMMIT_ST => ⟨0x01300008, [], 64, [  -- Table 22.3
      fld 63 32 .rov 0, fld 31 16 .rov 0, fld 15 8 .rov 0, fld 1 0 .rov 0]⟩
  | .FTHM_REFUSE => ⟨0x01300010, [], 32, [  -- Table 2.17
      fld 31 31 .w1c 0, fld 21 20 .ro 0, fld 19 16 .ro 0, fld 15 0 .ro 0]⟩
  | .FTHM_EVT => ⟨0x01300060, [], 32, [  -- Table 19.10
      fld 2 2 .w1c 0, fld 1 1 .w1c 0, fld 0 0 .w1c 0]⟩
  | .FTHM_DUMP_CFG => ⟨0x01300100, [], 64, [  -- Table 19.8
      fld 46 32 .rwc 0, fld 31 31 .rwc 0, fldIn 28 19 .rwc 1 1 900, fld 18 0 .rwc 0]⟩
  | .FTHM_BW_CFG => ⟨0x01300108, [], 32, [  -- Table 19.8
      fldIn 20 1 .rw 0x3E8 1 1000000]⟩
  | .FTHM_SAMP_CFG => ⟨0x01300110, [], 32, [  -- Table 19.8
      fld 26 12 .rwc 0, fld 11 8 .rwc 0, fld 7 0 .rwc 0]⟩
  | .FTHM_DUMP_ST => ⟨0x01300140, [], 64, [  -- Table 19.9
      fld 63 32 .rov 0, fld 31 16 .rov 0, fld 15 4 .rov 0, fld 1 1 .rov 0, fld 0 0 .rov 0]⟩
  | .FTHM_BW => ⟨0x01300180, [(3, 0x8)], 64, [  -- Table 19.9
      fld 63 32 .rov 0, fld 31 0 .rov 0]⟩
  | .FTHM_BW_PEAK => ⟨0x013001A0, [(3, 0x8)], 64, [  -- Table 19.9
      fld 63 32 .rov 0, fld 31 0 .rov 0]⟩
  | .FTHM_XING => ⟨0x01300400, [(100, 0x8)], 64, [  -- Table 19.10
      fld 63 63 .w1c 0, fld 47 0 .rw 0]⟩
  | .FTHM_SLIP => ⟨0x01300800, [(3, 0x8)], 64, [  -- Table 19.10
      fld 63 63 .w1c 0, fld 47 0 .rw 0]⟩
  | .FTHM_PORT => ⟨0x01300840, [(3, 0x10), (2, 0x8)], 64, [  -- Table 19.10
      fld 63 63 .w1c 0, fld 47 0 .rw 0]⟩
  | .HLYD_COMMIT => ⟨0x01700000, [], 32, [  -- Table 22.2
      fld 31 0 .wo 0]⟩
  | .HLYD_COMMIT_ST => ⟨0x01700008, [], 64, [  -- Table 22.3
      fld 63 32 .rov 0, fld 31 16 .rov 0, fld 15 8 .rov 0, fld 1 0 .rov 0]⟩
  | .HLYD_REFUSE => ⟨0x01700010, [], 32, [  -- Table 12.21
      fld 31 31 .w1c 0, fld 19 16 .ro 0, fld 15 0 .ro 0]⟩
  | .HLYD_EVT => ⟨0x01700060, [], 32, [  -- Table 12.20
      fld 8 8 .w1c 0, fld 7 7 .w1c 0, fld 6 6 .w1c 0, fld 5 5 .w1c 0, fld 4 4 .w1c 0, fld 3 3 .w1c 0, fld 2 2 .w1c 0,
      fld 1 1 .w1c 0, fld 0 0 .w1c 0]⟩
  | .HLYD_REF_CFG => ⟨0x01700100, [(10, 0x8)], 64, [  -- Table 12.9
      fld 63 34 .rwc 0, fldIn 33 24 .rwc 0x12C 0 1000, fld 23 16 .rwc 0x78, fld 15 8 .rwc 0x5C, fld 3 0 .rwc 0]⟩
  | .HLYD_SEL_CFG => ⟨0x01700180, [], 64, [  -- Table 12.10
      fld 63 48 .rwc 0x5A0, fld 27 25 .rwc 2, fld 24 24 .rwc 1, fld 23 20 .rwc 0, fld 19 19 .rwc 0, fld 17 16 .rwc 1,
      fld 15 8 .rwc 0x14, fld 7 0 .rwc 5]⟩
  | .HLYD_DPLL_CTL => ⟨0x01700188, [], 64, [  -- Table 12.11
      fld 63 32 .rw 0, fldIn 31 16 .rw 0xA 1 65535, fld 1 0 .rw 0]⟩
  | .HLYD_OUT_CFG => ⟨0x01700190, [(2, 0x8)], 64, [  -- Table 12.12
      fldIn 63 40 .rwc 1 1 16777215, fldIn 39 16 .rwc 0x64 1 16777215, fld 2 1 .rwc 0, fld 0 0 .rwc 0]⟩
  | .HLYD_TOD_CFG => ⟨0x017001A0, [], 32, [  -- Table 12.13
      fld 31 24 .rwc 0x64, fld 19 18 .rwc 2, fld 17 17 .rwc 0, fld 16 16 .rwc 0, fldIn 15 0 .rwc 0x64 1 65535]⟩
  | .HLYD_PSTEP => ⟨0x017001A8, [], 64, [  -- Table 12.14
      fld 63 63 .rov 0, fld 62 62 .w1s 0, fld 61 61 .rw 0, fldIn 60 48 .rw 0x64 1 1000, fld 47 40 .rov 0,
      fld 39 0 .rw 0]⟩
  | .HLYD_TOD_SET => ⟨0x017001B0, [], 64, [  -- Table 12.15
      fld 49 49 .w1s 0, fld 48 48 .w1s 0, fld 47 0 .rw 0]⟩
  | .HLYD_STAT => ⟨0x01700200, [], 64, [  -- Table 12.16
      fld 63 40 .rov 0, fld 29 29 .rov 0, fld 28 28 .rov 0, fld 27 27 .rov 0, fld 26 26 .rov 0, fld 25 22 .rov 0xF,
      fld 21 19 .rov 0, fld 18 16 .rov 0, fld 15 8 .rov 0]⟩
  | .HLYD_REF_ST => ⟨0x01700210, [(10, 0x4)], 32, [  -- Table 12.17
      fld 31 16 .rov 0, fld 15 6 .rov 0, fld 5 5 .rov 0, fld 4 4 .rov 0, fld 2 0 .rov 0]⟩
  | .HLYD_HO => ⟨0x01700240, [], 64, [  -- Table 12.18
      fld 63 32 .rov 0, fld 31 0 .rov 0]⟩
  | .HLYD_TOD_SNAP => ⟨0x01700248, [], 64, [  -- Table 12.19
      fld 63 63 .rov 0, fld 47 0 .rov 0]⟩
  | .HLYD_TOD_SNAP_NS => ⟨0x01700250, [], 32, [  -- Table 12.19
      fld 29 0 .rov 0]⟩
  | .BLAY_COMMIT => ⟨0x01B00000, [], 32, [  -- Table 22.2
      fld 31 0 .wo 0]⟩
  | .BLAY_COMMIT_ST => ⟨0x01B00008, [], 64, [  -- Table 22.3
      fld 63 32 .rov 0, fld 31 16 .rov 0, fld 15 8 .rov 0, fld 1 0 .rov 0]⟩
  | .BLAY_REFUSE => ⟨0x01B00010, [], 32, [  -- Table 17.13
      fld 31 31 .w1c 0, fld 19 16 .ro 0, fld 15 0 .ro 0]⟩
  | .BLAY_EVT => ⟨0x01B00060, [], 32, [  -- Table 17.13
      fld 7 7 .w1c 0, fld 6 6 .w1c 0, fld 5 5 .w1c 0, fld 4 4 .w1c 0, fld 3 3 .w1c 0, fld 2 2 .w1c 0, fld 1 1 .w1c 0,
      fld 0 0 .w1c 0]⟩
  | .BLAY_BUD_CFG => ⟨0x01B00100, [], 64, [  -- Table 17.10
      fldIn 55 48 .rwc 0x32 1 255, fld 47 40 .rwc 0x6E, fld 39 32 .rwc 0x5F, fldIn 31 24 .rwc 0x14 5 100,
      fldIn 10 0 .rwc 0x3D4 240 1040]⟩
  | .BLAY_CORE_CFG => ⟨0x01B00108, [], 32, [  -- Table 17.10
      fld 23 16 .rwc 0x14, fld 15 8 .rwc 0x1E, fld 7 0 .rwc 0x14]⟩
  | .BLAY_AVS_CFG => ⟨0x01B00110, [], 64, [  -- Table 17.11
      fldIn 63 56 .rwc 0x1E 0 60, fld 55 48 .rwc 0x28, fld 47 40 .rwc 0x14, fld 39 39 .rwc 0, fld 38 32 .rwc 0x40,
      fld 31 16 .rwc 0x2F8, fld 15 0 .rwc 0x294]⟩
  | .BLAY_SUP_CFG => ⟨0x01B00118, [], 32, [  -- Table 17.11
      fld 31 24 .rwc 0x18, fldIn 23 16 .rwc 0xA 1 50, fldIn 15 8 .rwc 0x50 55 95, fldIn 7 4 .rwc 1 1 15,
      fld 0 0 .rwc 1]⟩
  | .BLAY_STAT => ⟨0x01B00140, [], 64, [  -- Table 17.12
      fld 63 53 .rov 0, fld 52 42 .rov 0, fld 41 34 .rov 0, fld 33 31 .rov 0, fld 30 28 .rov 0, fld 27 27 .rov 0,
      fld 26 26 .rov 0, fld 25 25 .rov 0, fld 24 16 .rov 0, fld 15 12 .rov 0]⟩
  | .BLAY_AVS_ST => ⟨0x01B00148, [], 64, [  -- Table 17.12
      fld 63 48 .rov 0x1B58, fld 47 40 .rov 0, fld 39 24 .rov 0, fld 23 14 .rov 0x200, fld 13 13 .rov 0,
      fld 12 0 .rov 0]⟩
  | .BLAY_AON_ST => ⟨0x01B00150, [], 32, [  -- Table 17.12
      fld 31 24 .rov 0x32, fld 23 16 .rov 0, fld 15 14 .rov 0, fld 13 12 .rov 0, fld 9 9 .rov 0, fld 8 8 .rov 0,
      fld 3 3 .rov 0, fld 2 2 .rov 0, fld 1 1 .rov 0, fld 0 0 .rov 0]⟩
  | .BLAY_LINE_CFG => ⟨0x01800000, [(3, 0x100000)], 32, [  -- Table 17.10
      fld 0 0 .rwc 0]⟩
  | .TALY_COMMIT => ⟨0x01F00000, [], 32, [  -- Table 22.2
      fld 31 0 .wo 0]⟩
  | .TALY_COMMIT_ST => ⟨0x01F00008, [], 64, [  -- Table 22.3
      fld 63 32 .rov 0, fld 31 16 .rov 0, fld 15 8 .rov 0, fld 1 0 .rov 0]⟩
  | .TALY_AGE_LINE => ⟨0x01C00100, [(3, 0x100000)], 32, [  -- Table 17.14
      fld 31 24 .rov 0xFF, fld 22 16 .rov 0x7C, fldIn 6 0 .rw 0x18 24 124]⟩
  | .TALY_SNAP_ST => ⟨0x01C00200, [(3, 0x100000)], 64, [  -- Table 18.10
      fld 63 44 .rov 0, fld 43 24 .rov 0, fld 23 16 .rov 0, fld 15 12 .rov 0, fld 11 9 .rov 0, fld 8 3 .rov 0,
      fld 2 0 .rov 0]⟩
  | .TALY_REFUSE => ⟨0x01F00010, [], 32, [  -- Table 18.12
      fld 31 31 .w1c 0, fld 19 16 .ro 0, fld 15 0 .ro 0]⟩
  | .TALY_EVT => ⟨0x01F00060, [], 32, [  -- Table 18.11
      fld 8 8 .w1c 0, fld 7 7 .w1c 0, fld 6 6 .w1c 0, fld 5 5 .w1c 0, fld 4 4 .w1c 0, fld 3 3 .w1c 0, fld 2 2 .w1c 0,
      fld 1 1 .w1c 0, fld 0 0 .w1c 0]⟩
  | .TALY_AGE_EVT => ⟨0x01F00068, [], 32, [  -- Table 17.14
      fld 2 2 .w1c 0, fld 1 1 .w1c 0, fld 0 0 .w1c 0]⟩
  | .TALY_AGE_CFG => ⟨0x01F00100, [], 64, [  -- Table 17.14
      fld 47 40 .rw 0x10, fld 39 32 .rw 0xA, fldIn 31 24 .rw 2 0 23, fldIn 23 16 .rw 7 1 90, fldIn 15 8 .rw 8 4 16,
      fld 0 0 .rw 1]⟩
  | .TALY_AGE_ST => ⟨0x01F00140, [], 64, [  -- Table 17.14
      fld 63 48 .rov 0, fld 47 40 .rov 0, fld 39 32 .rov 0, fld 26 22 .rov 0x10, fld 21 16 .rov 0, fld 15 0 .rov 0]⟩
  | .TALY_MON_CFG => ⟨0x01F00200, [], 64, [  -- Table 18.8
      fld 41 41 .rwc 0, fld 40 26 .rwc 0, fld 24 24 .rwc 0, fld 23 20 .rwc 0, fldIn 19 0 .rwc 0x3E8 0 1000000]⟩
  | .TALY_MON_CTL => ⟨0x01F00208, [], 32, [  -- Table 18.8
      fld 0 0 .w1s 0]⟩
  | .TALY_URG => ⟨0x01F00210, [], 32, [  -- Table 18.8
      fld 31 31 .rov 0, fld 30 30 .w1s 0, fld 26 0 .rw 0]⟩
  | .TALY_MON_ST => ⟨0x01F00240, [], 64, [  -- Table 18.9
      fld 63 48 .rov 0, fld 47 32 .rov 0, fld 31 24 .rov 0, fld 9 9 .rov 0, fld 8 8 .rov 0, fld 7 7 .rov 0,
      fld 6 6 .rov 0, fld 4 0 .rov 0]⟩
  | .TALY_MON_RES => ⟨0x01F00280, [(4, 0x4)], 32, [  -- Table 18.9
      fld 21 21 .rov 0, fld 20 16 .rov 0, fld 15 0 .rov 0]⟩
  | .TALY_URG_RES => ⟨0x01F002A0, [(4, 0x4)], 32, [  -- Table 18.9
      fld 21 21 .rov 0, fld 20 16 .rov 0, fld 15 0 .rov 0]⟩
  | .TALY_SEQ => ⟨0x01F00300, [(32, 0x4)], 32, [  -- Table 18.8
      fld 28 28 .rwc 0, fld 27 27 .rwc 0, fldIn 26 24 .rwc 0 0 4, fld 23 20 .rwc 0, fld 4 0 .rwc 0, fld 9 5 .rwc 0,
      fld 14 10 .rwc 0, fld 19 15 .rwc 0]⟩
  | .TALY_JS => ⟨0x01F00400, [(16, 0x4)], 32, [  -- Table 18.9
      fld 17 17 .rov 0, fld 16 16 .rov 0, fld 15 0 .rov 0]⟩
  | .TALY_PDM => ⟨0x01F01000, [(128, 0x4)], 32, [  -- Table 17.14
      fld 31 16 .rov 0, fld 15 0 .rov 0]⟩
  | .TALY_AGE_LOG => ⟨0x01F02000, [(64, 0x20)], 256, [  -- Table 17.7
      fld 31 0 .rov 0, fld 79 32 .rov 0, fld 87 80 .rov 0, fld 95 88 .rov 0, fld 111 96 .rov 0, fld 127 112 .rov 0,
      fld 159 128 .rov 0, fld 167 160 .rov 0, fld 255 224 .rov 0]⟩
  | .STRD_DAC_CFG => ⟨0x02000000, [(3, 0x100000), (4, 0x4)], 32, [  -- Table 2.18
      fld 8 8 .rw 0, fldIn 5 0 .rw 0x19 0 50]⟩
  | .STRD_DAC_CAL => ⟨0x02000010, [(3, 0x100000)], 32, [  -- Table 2.19
      fld 4 4 .w1c 0, fld 3 2 .rov 0, fld 1 1 .rw 1, fld 0 0 .w1s 0]⟩
  | .STRD_ADC_CFG => ⟨0x02000020, [(3, 0x100000), (4, 0x4)], 32, [  -- Table 3.27
      fld 27 16 .rw 0, fld 8 8 .rw 0, fldIn 5 0 .rw 0x19 0 50]⟩
  | .STRD_ADC_CAL => ⟨0x02000030, [(3, 0x100000)], 32, [  -- Table 3.28
      fld 4 4 .w1c 0, fld 3 2 .rov 0, fld 1 1 .rw 1, fld 0 0 .w1s 0]⟩
  | .STRD_ADC_STAT => ⟨0x02000040, [(3, 0x100000), (4, 0x4)], 32, [  -- Table 3.29
      fld 15 8 .rov 0, fld 7 0 .rov 0xFF]⟩
  | .STRD_EVT => ⟨0x02300060, [], 32, [  -- Table 2.20
      fld 3 3 .w1c 0, fld 2 2 .w1c 0, fld 1 1 .w1c 0, fld 0 0 .w1c 0]⟩
  | .BRAD_COMMIT => ⟨0x02700000, [], 32, [  -- Table 22.2
      fld 31 0 .wo 0]⟩
  | .BRAD_COMMIT_ST => ⟨0x02700008, [], 64, [  -- Table 22.3
      fld 63 32 .rov 0, fld 31 16 .rov 0, fld 15 8 .rov 0, fld 1 0 .rov 0]⟩
  | .BRAD_REFUSE => ⟨0x02700010, [], 32, [  -- Table 2.17
      fld 31 31 .w1c 0, fld 21 20 .ro 0, fld 19 16 .ro 0, fld 15 0 .ro 0]⟩
  | .BRAD_LINE_CFG => ⟨0x02400000, [(3, 0x100000)], 32, [  -- Table 2.6
      fldIn 20 16 .rwc 0 0 30, fld 15 12 .rwc 0, fldIn 11 8 .rwc 4 2 15, fld 4 4 .rwc 1, fld 3 0 .rwc 8]⟩
  | .BRAD_CDPRE => ⟨0x02400004, [(3, 0x100000)], 32, [  -- Table 2.7
      fldIn 15 0 .rwc 0 (-5000) 5000]⟩
  | .BRAD_LOAD_CFG => ⟨0x02400008, [(3, 0x100000)], 64, [  -- Table 2.8
      fld 63 63 .wo 0, fldIn 41 32 .rw 0x64 1 1000, fldIn 25 20 .rw 0x14 5 63, fldIn 19 12 .rw 0xA 1 255,
      fld 11 8 .rw 4, fld 7 0 .rw 0x10]⟩
  | .BRAD_LOAD_STAT => ⟨0x02400010, [(3, 0x100000)], 32, [  -- Table 2.9
      fld 18 18 .rov 0, fld 17 17 .rov 0, fld 16 16 .rov 0, fld 15 12 .rov 0, fld 10 8 .rov 0, fld 7 4 .rov 0,
      fld 3 0 .rov 0]⟩
  | .BRAD_LOAD_EVT => ⟨0x02400014, [(3, 0x100000)], 32, [  -- Table 2.10
      fld 5 5 .w1c 0, fld 4 4 .w1c 0, fld 3 3 .w1c 0, fld 2 2 .w1c 0, fld 1 1 .w1c 0, fld 0 0 .w1c 0]⟩
  | .BRAD_SC_CFG => ⟨0x02400100, [(3, 0x100000), (32, 0x4)], 32, [  -- Table 2.11
      fld 19 16 .rwc 0, fldIn 14 8 .rwc 0 (-60) 60, fld 2 0 .rwc 0]⟩
  | .BRAD_SC_LOAD => ⟨0x02400180, [(3, 0x100000), (32, 0x4)], 32, [  -- Table 2.12
      fld 22 16 .rwc 0x7C, fld 15 9 .rwc 0x18, fld 8 2 .rwc 0x20, fld 1 0 .rwc 0]⟩
  | .BRAD_SC_ACT => ⟨0x02400200, [(3, 0x100000), (32, 0x8)], 64, [  -- Table 2.13
      fld 33 24 .rov 0, fld 23 16 .rov 0xFF, fld 15 9 .rov 0x7C, fld 8 2 .rov 0, fld 1 0 .rov 0]⟩
  | .BRAD_MAP => ⟨0x02400300, [(3, 0x100000), (101, 0x4)], 32, [  -- Table 2.14
      fld 15 8 .rw 0xFF, fld 1 0 .rw 0]⟩
  | .BRAD_TRIB => ⟨0x02400600, [(3, 0x100000), (4, 0x4)], 32, [  -- Table 2.15
      fld 11 0 .rwc 0]⟩
  | .BRAD_POL => ⟨0x02400610, [(3, 0x100000), (2, 0x4)], 32, [  -- Table 2.15
      fldIn 15 8 .rwc 0 (-100) 100, fldIn 7 0 .rwc 0 (-100) 100]⟩
  | .BRAD_PD_FIR => ⟨0x02401000, [(3, 0x100000), (4, 0x100), (33, 0x4)], 32, [  -- Table 2.16
      fld 15 0 .rw 0]⟩
  | .BRAD_PD_LUT => ⟨0x02402000, [(3, 0x100000), (4, 0x800), (512, 0x4)], 32, [  -- Table 2.16
      fld 7 0 .rw 0]⟩
  | .SPLC_COMMIT => ⟨0x02B00000, [], 32, [  -- Table 22.2
      fld 31 0 .wo 0]⟩
  | .SPLC_COMMIT_ST => ⟨0x02B00008, [], 64, [  -- Table 22.3
      fld 63 32 .rov 0, fld 31 16 .rov 0, fld 15 8 .rov 0, fld 1 0 .rov 0]⟩
  | .SPLC_REFUSE => ⟨0x02B00010, [], 32, [  -- Table 3.26
      fld 31 31 .w1c 0, fld 21 20 .ro 0, fld 19 16 .ro 0, fld 15 0 .ro 0]⟩
  | .SPLC_LINE_CFG => ⟨0x02800000, [(3, 0x100000)], 32, [  -- Table 3.12
      fldIn 25 16 .rwc 0x32 1 1000, fld 14 13 .rwc 0, fld 12 12 .rwc 1, fld 11 8 .rwc 8, fld 7 0 .rwc 0x78]⟩
  | .SPLC_CD_CFG => ⟨0x02800004, [(3, 0x100000)], 32, [  -- Table 3.13
      fldIn 31 16 .rwc 0x7D0 0 20000, fldIn 15 0 .rwc 0 (-20000) 20000]⟩
  | .SPLC_ADAPT_CFG => ⟨0x02800008, [(3, 0x100000)], 32, [  -- Table 3.14
      fld 29 24 .rw 0xC, fld 21 20 .rw 2, fldIn 19 16 .rw 4 0 10, fldIn 12 8 .rw 0xC 4 16, fldIn 4 0 .rw 8 4 16]⟩
  | .SPLC_CR_CFG => ⟨0x0280000C, [(3, 0x100000)], 32, [  -- Table 3.15
      fld 16 16 .rw 1, fldIn 9 4 .rw 0x20 8 63, fldIn 3 0 .rw 4 1 15]⟩
  | .SPLC_TAP_LIM => ⟨0x02800020, [(3, 0x100000), (6, 0x4)], 32, [  -- Table 3.16
      fldIn 13 8 .rw 9 3 63, fldIn 5 0 .rw 7 3 63]⟩
  | .SPLC_CMD => ⟨0x0280003C, [(3, 0x100000)], 32, [  -- Table 3.17
      fld 1 1 .wo 0, fld 0 0 .rw 0]⟩
  | .SPLC_STAT => ⟨0x02800040, [(3, 0x100000)], 32, [  -- Table 3.18
      fld 31 24 .rov 0, fld 20 20 .rov 0, fld 19 16 .rov 0, fld 15 12 .rov 0, fld 10 10 .rov 0, fld 9 9 .rov 0,
      fld 8 8 .rov 0, fld 7 7 .rov 0, fld 6 6 .rov 0, fld 5 5 .rov 0, fld 3 0 .rov 0]⟩
  | .SPLC_EST => ⟨0x02800048, [(3, 0x100000)], 64, [  -- Table 3.19
      fld 63 48 .rov 0, fld 47 36 .rov 0xFFF, fld 35 28 .rov 0, fld 27 16 .rov 0, fld 15 0 .rov 0]⟩
  | .SPLC_EST2 => ⟨0x02800050, [(3, 0x100000)], 64, [  -- Table 3.20
      fld 63 48 .rov 0, fld 47 32 .rov 0, fld 31 16 .rov 0, fld 15 0 .rov 0]⟩
  | .SPLC_EVT => ⟨0x02800060, [(3, 0x100000)], 32, [  -- Table 3.21
      fld 8 8 .w1c 0, fld 7 7 .w1c 0, fld 6 6 .w1c 0, fld 5 5 .w1c 0, fld 4 4 .w1c 0, fld 3 3 .w1c 0, fld 2 2 .w1c 0,
      fld 1 1 .w1c 0, fld 0 0 .w1c 0]⟩
  | .SPLC_SC_CFG => ⟨0x02800100, [(3, 0x100000), (32, 0x4)], 32, [  -- Table 3.22
      fld 22 16 .rwc 0x20, fld 9 8 .rwc 0, fld 2 0 .rwc 0]⟩
  | .SPLC_SC_EST => ⟨0x02800200, [(3, 0x100000), (32, 0x8)], 64, [  -- Table 3.23
      fld 50 50 .rov 0, fld 49 48 .rov 0, fld 45 40 .rov 0, fld 37 32 .rov 0, fld 31 24 .rov 0xFF,
      fld 23 16 .rov 0xFF, fld 15 8 .rov 0xFF, fld 7 0 .rov 0xFF]⟩
  | .SPLC_SC_HIST => ⟨0x02800300, [(3, 0x100000), (32, 0x4)], 32, [  -- Table 3.24
      fld 31 16 .rov 0, fld 15 8 .rov 0xFF, fld 7 0 .rov 0xFF]⟩
  | .SPLC_CHAN => ⟨0x02801000, [(3, 0x100000), (512, 0x4)], 32, [  -- Table 3.25
      fld 7 0 .rov 0x80, fld 15 8 .rov 0x80]⟩
  | .BGHT_COMMIT => ⟨0x02F00000, [], 32, [  -- Table 22.2
      fld 31 0 .wo 0]⟩
  | .BGHT_COMMIT_ST => ⟨0x02F00008, [], 64, [  -- Table 22.3
      fld 63 32 .rov 0, fld 31 16 .rov 0, fld 15 8 .rov 0, fld 1 0 .rov 0]⟩
  | .BGHT_REFUSE => ⟨0x02F00010, [], 32, [  -- Table 4.20
      fld 31 31 .w1c 0, fld 21 20 .ro 0, fld 19 16 .ro 0, fld 15 0 .ro 0]⟩
  | .BGHT_LINE_CFG => ⟨0x02C00000, [(3, 0x100000)], 32, [  -- Table 4.10
      fldIn 31 22 .rwc 0 0 500, fldIn 21 14 .rwc 0x10 8 255, fldIn 13 12 .rwc 2 1 3, fldIn 11 8 .rwc 4 2 15,
      fld 4 0 .rwc 0]⟩
  | .BGHT_DISC_CFG => ⟨0x02C00004, [(3, 0x100000)], 32, [  -- Table 4.11
      fldIn 31 24 .rwc 0xA 1 255, fldIn 23 16 .rwc 8 1 64, fld 15 15 .rwc 1, fldIn 13 0 .rwc 0x64 10 10000]⟩
  | .BGHT_ACQ_CFG => ⟨0x02C00008, [(3, 0x100000)], 32, [  -- Table 4.12
      fldIn 27 24 .rw 2 1 15, fldIn 19 16 .rw 6 3 12, fldIn 15 12 .rw 6 2 15, fld 11 8 .rw 4, fld 7 0 .rw 0x30]⟩
  | .BGHT_STAT => ⟨0x02C00040, [(3, 0x100000)], 64, [  -- Table 4.14
      fld 50 42 .rov 0, fld 41 33 .rov 0, fld 32 24 .rov 0, fld 23 23 .rov 0, fld 22 22 .rov 0, fld 21 0 .rov 0]⟩
  | .BGHT_EVT => ⟨0x02C00060, [(3, 0x100000)], 32, [  -- Table 4.15
      fld 9 9 .w1c 0, fld 8 8 .w1c 0, fld 7 7 .w1c 0, fld 6 6 .w1c 0, fld 5 5 .w1c 0, fld 4 4 .w1c 0, fld 3 3 .w1c 0,
      fld 2 2 .w1c 0, fld 1 1 .w1c 0, fld 0 0 .w1c 0]⟩
  | .BGHT_UP_CFG => ⟨0x02C00100, [(3, 0x100000), (32, 0x4)], 32, [  -- Table 4.13
      fld 19 16 .rwc 0, fldIn 13 8 .rwc 0xF 3 31, fld 3 3 .rwc 0, fld 2 0 .rwc 0]⟩
  | .BGHT_LEAF => ⟨0x02C01000, [(3, 0x100000), (256, 0x20)], 256, [  -- Table 4.17
      fld 178 172 .rwc 0, fld 171 165 .rwc 0, fld 164 163 .rwc 0, fld 162 156 .rwc 0, fldIn 155 136 .rwc 0 1 1048575,
      fldIn 135 128 .rwc 0 1 255, fld 121 108 .rwc 0, fld 107 94 .rwc 0, fld 93 80 .rwc 0, fld 78 78 .rwc 0,
      fld 77 74 .rwc 0, fld 73 69 .rwc 0, fld 68 64 .rwc 0, fld 63 0 .rwc 0]⟩
  | .BGHT_LEAF_ST => ⟨0x02C03000, [(3, 0x100000), (256, 0x20)], 256, [  -- Table 4.18
      fld 255 240 .rov 0, fld 239 224 .rov 0, fld 223 208 .rov 0, fld 207 192 .rov 0, fld 191 160 .rov 0,
      fld 159 128 .rov 0, fld 127 112 .rov 0, fld 111 104 .rov 0, fld 103 96 .rov 0, fld 87 80 .rov 0xFF,
      fld 79 64 .rov 0, fld 63 32 .rov 0, fld 31 24 .rov 0xFF, fld 23 16 .rov 0xFF, fld 15 12 .rov 0,
      fld 11 8 .rov 0, fld 7 4 .rov 0, fld 3 3 .rov 0, fld 2 0 .rov 7]⟩
  | .CLET_COMMIT => ⟨0x03300000, [], 32, [  -- Table 22.2
      fld 31 0 .wo 0]⟩
  | .CLET_COMMIT_ST => ⟨0x03300008, [], 64, [  -- Table 22.3
      fld 63 32 .rov 0, fld 31 16 .rov 0, fld 15 8 .rov 0, fld 1 0 .rov 0]⟩
  | .CLET_REFUSE => ⟨0x03300010, [], 32, [  -- Table 5.13
      fld 31 31 .w1c 0, fld 21 20 .ro 0, fld 19 16 .ro 0, fld 15 0 .ro 0]⟩
  | .CLET_LINE_CFG => ⟨0x03000000, [(3, 0x100000)], 32, [  -- Table 5.5
      fldIn 23 21 .rwc 3 2 4, fldIn 20 16 .rwc 0xA 6 16, fld 9 8 .rwc 2, fld 2 2 .rwc 1, fld 1 0 .rwc 1]⟩
  | .CLET_SD_CFG => ⟨0x03000004, [(3, 0x100000)], 32, [  -- Table 5.6
      fldIn 31 28 .rw 3 1 15, fld 23 12 .rw 0x200, fld 11 0 .rw 0x100]⟩
  | .CLET_STAT => ⟨0x03000040, [(3, 0x100000)], 32, [  -- Table 5.7
      fld 31 16 .rov 0, fld 9 4 .rov 0, fld 1 1 .rov 0, fld 0 0 .rov 0]⟩
  | .CLET_EVT => ⟨0x03000060, [(3, 0x100000)], 32, [  -- Table 5.8
      fld 4 4 .w1c 0, fld 3 3 .w1c 0, fld 2 2 .w1c 0, fld 1 1 .w1c 0, fld 0 0 .w1c 0]⟩
  | .CLET_CNT => ⟨0x03000080, [(3, 0x100000), (7, 0x8)], 64, [  -- Table 5.9
      fld 63 63 .w1c 0, fld 47 0 .rw 0]⟩
  | .CLET_TRL => ⟨0x030000C0, [(3, 0x100000)], 64, [  -- Table 5.10
      fld 63 32 .rov 0, fld 31 0 .rov 0]⟩
  | .CLET_SC_CFG => ⟨0x03000100, [(3, 0x100000), (32, 0x4)], 32, [  -- Table 5.11
      fld 31 20 .rw 0x148, fld 14 10 .rw 8, fldIn 9 5 .rw 0x10 4 16, fldIn 4 0 .rw 4 4 16]⟩
  | .CLET_SC_STAT => ⟨0x03000200, [(3, 0x100000), (32, 0x8)], 64, [  -- Table 5.12
      fld 63 48 .rov 0, fld 36 32 .rov 0, fld 28 24 .rov 0, fld 23 16 .rov 0, fld 15 0 .rov 0]⟩
  | .HTCH_COMMIT => ⟨0x03700000, [], 32, [  -- Table 22.2
      fld 31 0 .wo 0]⟩
  | .HTCH_COMMIT_ST => ⟨0x03700008, [], 64, [  -- Table 22.3
      fld 63 32 .rov 0, fld 31 16 .rov 0, fld 15 8 .rov 0, fld 1 0 .rov 0]⟩
  | .HTCH_REFUSE => ⟨0x03700010, [], 32, [  -- Table 6.22
      fld 31 31 .w1c 0, fld 21 20 .ro 0, fld 19 16 .ro 0, fld 15 0 .ro 0]⟩
  | .HTCH_LINE_CFG => ⟨0x03400000, [(3, 0x100000)], 32, [  -- Table 6.13
      fldIn 31 28 .rwc 3 1 15, fldIn 27 24 .rwc 3 1 15, fldIn 23 20 .rwc 5 3 15, fldIn 19 16 .rwc 3 2 8,
      fld 15 14 .rwc 0, fld 13 13 .rwc 0, fld 12 12 .rwc 1, fld 11 11 .rwc 1]⟩
  | .HTCH_TX_CFG => ⟨0x03400004, [(3, 0x100000)], 32, [  -- Table 6.14
      fld 1 1 .rw 0, fld 0 0 .rw 0]⟩
  | .HTCH_STAT => ⟨0x03400040, [(3, 0x100000)], 64, [  -- Table 6.15
      fld 55 44 .rov 0, fld 43 32 .rov 0, fld 31 24 .rov 0, fld 20 18 .rov 0, fld 17 8 .rov 0, fld 7 5 .rov 0,
      fld 4 4 .rov 0, fld 3 3 .rov 0, fld 2 2 .rov 0, fld 1 1 .rov 0, fld 0 0 .rov 0]⟩
  | .HTCH_DEF => ⟨0x03400048, [(3, 0x100000)], 32, [  -- Table 6.16
      fld 10 10 .rov 0, fld 9 9 .rov 0, fld 8 8 .rov 0, fld 7 7 .rov 0, fld 6 6 .rov 0, fld 5 5 .rov 0,
      fld 4 4 .rov 0, fld 3 3 .rov 0, fld 2 2 .rov 0, fld 1 1 .rov 0, fld 0 0 .rov 0]⟩
  | .HTCH_DEF_STK => ⟨0x0340004C, [(3, 0x100000)], 32, [  -- Table 6.16
      fld 10 10 .w1c 0, fld 9 9 .w1c 0, fld 8 8 .w1c 0, fld 7 7 .w1c 0, fld 6 6 .w1c 0, fld 5 5 .w1c 0,
      fld 4 4 .w1c 0, fld 3 3 .w1c 0, fld 2 2 .w1c 0, fld 1 1 .w1c 0, fld 0 0 .w1c 0]⟩
  | .HTCH_EVT => ⟨0x03400060, [(3, 0x100000)], 32, [  -- Table 6.17
      fld 9 9 .w1c 0, fld 8 8 .w1c 0, fld 7 7 .w1c 0, fld 6 6 .w1c 0, fld 5 5 .w1c 0, fld 4 4 .w1c 0, fld 3 3 .w1c 0,
      fld 2 2 .w1c 0, fld 1 1 .w1c 0, fld 0 0 .w1c 0]⟩
  | .HTCH_HIST_PTR => ⟨0x03400070, [(3, 0x100000)], 32, [  -- Table 6.18
      fld 23 16 .rov 0, fld 8 8 .rov 0, fld 4 0 .rov 0]⟩
  | .HTCH_PM15 => ⟨0x03400100, [(3, 0x100000), (16, 0x4)], 32, [  -- Table 6.19
      fld 31 0 .rov 0]⟩
  | .HTCH_PM24 => ⟨0x03400140, [(3, 0x100000), (16, 0x4)], 32, [  -- Table 6.19
      fld 31 0 .rov 0]⟩
  | .HTCH_CNT => ⟨0x03400180, [(3, 0x100000), (8, 0x8)], 64, [  -- Table 6.20
      fld 63 63 .w1c 0, fld 47 0 .rw 0]⟩
  | .HTCH_TTI_SMTX => ⟨0x03400800, [(3, 0x100000)], 512, [  -- Table 6.21
      fld 511 0 .rwc 0]⟩
  | .HTCH_TTI_SMEXP => ⟨0x03400840, [(3, 0x100000)], 512, [  -- Table 6.21
      fld 511 0 .rwc 0]⟩
  | .HTCH_TTI_SMACC => ⟨0x03400880, [(3, 0x100000)], 512, [  -- Table 6.21
      fld 511 0 .rov 0]⟩
  | .HTCH_TTI_PMTX => ⟨0x034008C0, [(3, 0x100000)], 512, [  -- Table 6.21
      fld 511 0 .rwc 0]⟩
  | .HTCH_TTI_PMACC => ⟨0x03400900, [(3, 0x100000)], 512, [  -- Table 6.21
      fld 511 0 .rov 0]⟩
  | .HTCH_HIST => ⟨0x03402000, [(3, 0x100000), (34, 0x80)], 1024, [  -- Table 6.21
      fld 47 0 .rov 0, fld 48 48 .rov 0, fld 49 49 .rov 0, fld 575 64 .rov 0]⟩
  | .SEIZ_COMMIT => ⟨0x03B00000, [], 32, [  -- Table 22.2
      fld 31 0 .wo 0]⟩
  | .SEIZ_COMMIT_ST => ⟨0x03B00008, [], 64, [  -- Table 22.3
      fld 63 32 .rov 0, fld 31 16 .rov 0, fld 15 8 .rov 0, fld 1 0 .rov 0]⟩
  | .SEIZ_REFUSE => ⟨0x03B00010, [], 32, [  -- Table 9.12
      fld 31 31 .w1c 0, fld 27 20 .ro 0, fld 19 16 .ro 0, fld 15 0 .ro 0]⟩
  | .SEIZ_EVT => ⟨0x03B00060, [], 32, [  -- Table 9.10
      fld 7 7 .w1c 0, fld 6 6 .w1c 0, fld 5 5 .w1c 0, fld 4 4 .w1c 0, fld 3 3 .w1c 0, fld 2 2 .w1c 0, fld 1 1 .w1c 0,
      fld 0 0 .w1c 0]⟩
  | .SEIZ_KEK_ST => ⟨0x03B00080, [], 32, [  -- Table 9.11
      fld 15 0 .rov 0]⟩
  | .SEIZ_KC_CFG => ⟨0x03B01000, [(256, 0x8)], 64, [  -- Table 9.7
      fld 42 35 .rwc 0x18, fldIn 34 27 .rwc 0x40 2 255, fldIn 26 21 .rwc 0x30 20 48, fldIn 20 17 .rwc 4 1 15,
      fld 16 16 .rwc 0, fld 15 12 .rwc 0, fld 11 4 .rwc 0, fld 3 2 .rwc 0, fld 1 1 .rwc 0, fld 0 0 .rwc 0]⟩
  | .SEIZ_KC_ST => ⟨0x03B04000, [(256, 0x20)], 256, [  -- Table 9.8
      fld 221 221 .rov 0, fld 220 220 .rov 0, fld 219 219 .rov 0, fld 218 218 .rov 0, fld 217 215 .rov 0,
      fld 214 213 .rov 0, fld 212 209 .rov 0, fld 208 192 .rov 0, fld 191 128 .rov 0, fld 127 64 .rov 0,
      fld 63 0 .rov 0]⟩
  | .SEIZ_KC_CNT => ⟨0x03B10000, [(256, 0x40), (6, 0x8)], 64, [  -- Table 9.9
      fld 63 63 .w1c 0, fld 47 0 .rw 0]⟩
  | .BEND_COMMIT => ⟨0x03F00000, [], 32, [  -- Table 22.2
      fld 31 0 .wo 0]⟩
  | .BEND_COMMIT_ST => ⟨0x03F00008, [], 64, [  -- Table 22.3
      fld 63 32 .rov 0, fld 31 16 .rov 0, fld 15 8 .rov 0, fld 1 0 .rov 0]⟩
  | .BEND_REFUSE => ⟨0x03F00010, [], 32, [  -- Table 10.13
      fld 31 31 .w1c 0, fld 23 20 .ro 0, fld 19 16 .ro 0, fld 15 0 .ro 0]⟩
  | .BEND_EVT => ⟨0x03F00060, [], 32, [  -- Table 10.12
      fld 7 7 .w1c 0, fld 6 6 .w1c 0, fld 5 5 .w1c 0, fld 4 4 .w1c 0, fld 3 3 .w1c 0, fld 2 2 .w1c 0, fld 1 1 .w1c 0,
      fld 0 0 .w1c 0]⟩
  | .BEND_PG_CFG => ⟨0x03F01000, [(16, 0x20)], 64, [  -- Table 10.7
      fldIn 51 40 .rwc 0xA 0 3600, fld 39 32 .rwc 0, fld 31 24 .rwc 0, fld 22 22 .rwc 0, fld 21 21 .rwc 0,
      fld 20 20 .rwc 0, fld 19 16 .rwc 0, fldIn 13 8 .rwc 0 0 47, fld 6 6 .rwc 0, fld 5 4 .rwc 0, fld 3 2 .rwc 0,
      fld 1 1 .rwc 0, fld 0 0 .rwc 0]⟩
  | .BEND_PG_DLY => ⟨0x03F01008, [(16, 0x20)], 64, [  -- Table 10.8
      fldIn 43 32 .rwc 0xB4 100 4095, fldIn 20 0 .rwc 0 0 2000000]⟩
  | .BEND_PG_STAT => ⟨0x03F02000, [(16, 0x20)], 64, [  -- Table 10.9
      fld 63 32 .rov 0, fld 31 8 .rov 0, fld 6 6 .rov 0, fld 5 5 .rov 0, fld 4 3 .rov 0, fld 2 0 .rov 0]⟩
  | .BEND_PATH_ST => ⟨0x03F02008, [(16, 0x20), (2, 0x8)], 64, [  -- Table 10.10
      fld 55 44 .rov 0, fld 43 32 .rov 0, fld 31 8 .rov 0, fld 6 6 .rov 0, fld 5 5 .rov 0, fld 4 4 .rov 0,
      fld 3 3 .rov 0, fld 2 0 .rov 0]⟩
  | .BEND_PG_CNT => ⟨0x03F04000, [(16, 0x40), (8, 0x8)], 64, [  -- Table 10.11
      fld 63 63 .w1c 0, fld 47 0 .rw 0]⟩
  | .SHET_COMMIT => ⟨0x04300000, [], 32, [  -- Table 22.2
      fld 31 0 .wo 0]⟩
  | .SHET_COMMIT_ST => ⟨0x04300008, [], 64, [  -- Table 22.3
      fld 63 32 .rov 0, fld 31 16 .rov 0, fld 15 8 .rov 0, fld 1 0 .rov 0]⟩
  | .SHET_REFUSE => ⟨0x04300010, [], 32, [  -- Table 7.16
      fld 31 31 .w1c 0, fld 21 16 .ro 0, fld 15 12 .ro 0, fld 11 0 .ro 0]⟩
  | .SHET_CLI_CFG => ⟨0x04000000, [(48, 0x4000)], 32, [  -- Table 7.8
      fld 31 28 .rwc 0, fld 27 20 .rwc 0, fld 19 18 .rwc 0, fld 17 16 .rwc 0, fld 11 10 .rwc 0, fldIn 6 4 .rwc 0 0 3,
      fld 3 1 .rwc 0]⟩
  | .SHET_ODU_CFG => ⟨0x04000004, [(48, 0x4000)], 32, [  -- Table 7.9
      fld 31 0 .rwc 0]⟩
  | .SHET_FLX_CFG => ⟨0x04000010, [(48, 0x4000)], 32, [  -- Table 7.10
      fld 4 4 .rwc 0, fld 3 3 .rwc 0, fldIn 2 0 .rwc 1 1 4]⟩
  | .SHET_CLI_STAT => ⟨0x04000040, [(48, 0x4000)], 32, [  -- Table 7.11
      fld 25 16 .rov 0, fld 8 8 .rov 0, fld 7 7 .rov 0, fld 6 6 .rov 0, fld 5 5 .rov 0, fld 4 4 .rov 0,
      fld 3 3 .rov 0, fld 2 2 .rov 0, fld 1 1 .rov 0, fld 0 0 .rov 0]⟩
  | .SHET_CLI_EVT => ⟨0x04000060, [(48, 0x4000)], 32, [  -- Table 7.12
      fld 5 5 .w1c 0, fld 4 4 .w1c 0, fld 3 3 .w1c 0, fld 2 2 .w1c 0, fld 1 1 .w1c 0, fld 0 0 .w1c 0]⟩
  | .SHET_CNT => ⟨0x04000080, [(48, 0x4000), (8, 0x8)], 64, [  -- Table 7.13
      fld 63 63 .w1c 0, fld 47 0 .rw 0]⟩
  | .SHET_TS => ⟨0x04310000, [(1920, 0x8)], 64, [  -- Table 7.15
      fld 34 27 .rwc 0, fld 26 26 .rwc 0, fld 25 21 .rwc 0, fldIn 19 10 .rwc 0 0 639, fld 9 8 .rwc 0, fld 7 7 .rwc 0,
      fld 5 0 .rwc 0]⟩
  | .SHET_HTS => ⟨0x04320000, [(1920, 0x4)], 32, [  -- Table 7.14
      fld 6 6 .rwc 0, fld 5 0 .rwc 0]⟩
  | .SHET_VID => ⟨0x04340000, [(3, 0x4000), (4096, 0x4)], 32, [  -- Table 7.14
      fld 8 8 .rwc 0, fld 7 0 .rwc 0]⟩
  | .TWIN_COMMIT => ⟨0x04700000, [], 32, [  -- Table 22.2
      fld 31 0 .wo 0]⟩
  | .TWIN_COMMIT_ST => ⟨0x04700008, [], 64, [  -- Table 22.3
      fld 63 32 .rov 0, fld 31 16 .rov 0, fld 15 8 .rov 0, fld 1 0 .rov 0]⟩
  | .TWIN_REFUSE => ⟨0x04700010, [], 32, [  -- Table 8.15
      fld 31 31 .w1c 0, fld 21 16 .ro 0, fld 15 12 .ro 0, fld 11 0 .ro 0]⟩
  | .TWIN_LANE_CFG => ⟨0x04400000, [(48, 0x4000)], 32, [  -- Table 8.6
      fld 22 20 .rwc 0, fld 18 16 .rwc 0, fld 13 12 .rwc 0, fld 9 8 .rwc 0, fld 7 6 .rwc 0, fld 4 4 .rwc 0,
      fld 3 3 .rwc 0, fld 2 1 .rwc 0, fld 0 0 .rwc 0]⟩
  | .TWIN_TXFFE => ⟨0x04400004, [(48, 0x4000)], 32, [  -- Table 8.7
      fld 30 30 .rw 0, fld 29 24 .rw 0, fld 23 18 .rw 0, fld 17 12 .rw 0, fld 11 6 .rw 0x38, fld 5 0 .rw 0x30]⟩
  | .TWIN_RXEQ => ⟨0x04400008, [(48, 0x4000)], 32, [  -- Table 8.8
      fld 15 12 .rw 4, fldIn 9 4 .rw 0x14 0 40, fld 2 2 .rw 0, fld 1 0 .rw 0]⟩
  | .TWIN_SCAN => ⟨0x0440000C, [(48, 0x4000)], 32, [  -- Table 8.9
      fld 31 24 .rw 0x18, fldIn 11 8 .rw 6 3 9, fldIn 7 4 .rw 8 0 10, fld 2 2 .rov 0, fld 1 1 .rov 0, fld 0 0 .w1s 0]⟩
  | .TWIN_STAT => ⟨0x04400040, [(48, 0x4000)], 32, [  -- Table 8.10
      fld 31 24 .rov 0, fld 16 8 .rov 0, fld 7 6 .rov 0, fld 5 5 .rov 0, fld 4 4 .rov 0, fld 3 3 .rov 0,
      fld 2 0 .rov 0]⟩
  | .TWIN_EYE => ⟨0x04400048, [(48, 0x4000)], 64, [  -- Table 8.11
      fld 63 48 .rov 0, fld 47 40 .rov 0, fld 39 32 .rov 0, fld 31 24 .rov 0, fld 23 16 .rov 0, fld 15 8 .rov 0,
      fld 7 0 .rov 0]⟩
  | .TWIN_EVT => ⟨0x04400060, [(48, 0x4000)], 32, [  -- Table 8.12
      fld 4 4 .w1c 0, fld 3 3 .w1c 0, fld 2 2 .w1c 0, fld 1 1 .w1c 0, fld 0 0 .w1c 0]⟩
  | .TWIN_CNT => ⟨0x04400080, [(48, 0x4000), (4, 0x8)], 64, [  -- Table 8.13
      fld 63 63 .w1c 0, fld 47 0 .rw 0]⟩
  | .TWIN_QUAD_CFG => ⟨0x04700100, [(12, 0x4)], 32, [  -- Table 8.14
      fld 1 0 .rwc 0]⟩
  | .TWIN_SYNCE_SEL => ⟨0x04700200, [(4, 0x4)], 32, [  -- Table 8.14
      fld 8 8 .rw 0, fldIn 5 0 .rw 0 0 47]⟩
  | .LNYD_COMMIT => ⟨0x04B00000, [], 32, [  -- Table 22.2
      fld 31 0 .wo 0]⟩
  | .LNYD_COMMIT_ST => ⟨0x04B00008, [], 64, [  -- Table 22.3
      fld 63 32 .rov 0, fld 31 16 .rov 0, fld 15 8 .rov 0, fld 1 0 .rov 0]⟩
  | .LNYD_LANE_CFG => ⟨0x04800000, [(4, 0x4000)], 32, [  -- Table 11.15
      fldIn 11 8 .rw 6 0 10, fld 2 2 .w1s 0, fld 1 1 .rw 0, fld 0 0 .rw 0]⟩
  | .LNYD_LANE_STAT => ⟨0x04800040, [(4, 0x4000)], 64, [  -- Table 11.15
      fld 63 32 .rov 0, fld 31 8 .rov 0, fld 2 2 .rov 0, fld 1 1 .rov 0, fld 0 0 .rov 0]⟩
  | .LNYD_EYE => ⟨0x04800048, [(4, 0x4000)], 32, [  -- Table 11.15
      fld 16 16 .rov 0, fld 15 8 .rov 0, fld 7 0 .rov 0]⟩
  | .LNYD_REFUSE => ⟨0x04B00010, [], 32, [  -- Table 11.16
      fld 31 31 .w1c 0, fld 19 16 .ro 0, fld 15 0 .ro 0]⟩
  | .LNYD_CFG => ⟨0x04B00100, [], 32, [  -- Table 11.8
      fldIn 9 2 .rwc 0xA 1 255, fld 1 0 .rwc 2]⟩
  | .LNYD_CLAIM => ⟨0x04B00104, [], 32, [  -- Table 11.9
      fld 17 17 .rwc 0, fld 16 16 .rwc 0, fld 15 0 .rwc 0]⟩
  | .LNYD_GATE => ⟨0x04B00108, [], 64, [  -- Table 11.10
      fld 41 41 .rwc 0, fld 40 39 .rwc 0, fld 38 36 .rwc 0, fld 35 0 .rwc 0]⟩
  | .LNYD_CK_CFG => ⟨0x04B00110, [], 32, [  -- Table 11.11
      fld 15 8 .rwc 0, fldIn 7 0 .rwc 0x3C 1 255]⟩
  | .LNYD_STAT => ⟨0x04B00140, [], 64, [  -- Table 11.12
      fld 63 32 .rov 0, fld 31 16 .rov 0, fld 12 12 .rov 0, fld 11 11 .rov 0, fld 10 10 .rov 0, fld 9 9 .rov 0,
      fld 8 8 .rov 0, fld 7 7 .rov 0, fld 6 6 .rov 0, fld 5 5 .rov 0, fld 4 3 .rov 0, fld 2 0 .rov 0]⟩
  | .LNYD_EVT => ⟨0x04B00160, [], 32, [  -- Table 11.13
      fld 10 10 .w1c 0, fld 9 9 .w1c 0, fld 8 8 .w1c 0, fld 7 7 .w1c 0, fld 6 6 .w1c 0, fld 5 5 .w1c 0,
      fld 4 4 .w1c 0, fld 3 3 .w1c 0, fld 2 2 .w1c 0, fld 1 1 .w1c 0, fld 0 0 .w1c 0]⟩
  | .LNYD_CNT => ⟨0x04B00180, [(4, 0x8)], 64, [  -- Table 11.14
      fld 63 63 .w1c 0, fld 47 0 .rw 0]⟩

/-- The registers of each block by block number (Table 0.5), in the order of Table 22.10. -/
def blockRegs : Nat → List RegId
  | 0 => [
      .TOP_COMMIT, .TOP_COMMIT_ST, .TOP_ACC_ERR, .TOP_ID, .TOP_SERIAL, .TOP_STRAP, .TOP_EVT, .TOP_HOLD,
      .TOP_LINE_MODE, .TOP_DEV_MODE, .TOP_MODE_STAT, .TOP_MODE_REFUSE, .TOP_BOOT_ST, .TOP_RST_CAUSE, .TOP_RESET,
      .TOP_FAULT, .TOP_FLT_CFG, .TOP_INT_ST, .TOP_INT_EN]
  | 1 => [
      .BCKT_U_STAT, .BCKT_MEM_CFG, .BCKT_MEM_STAT, .BCKT_MEM_EVT, .BCKT_MEM_CNT, .BCKT_REFUSE, .BCKT_EVT,
      .BCKT_ENG_CFG, .BCKT_CNT, .BCKT_EVQ, .BCKT_REGION, .BCKT_RING_CFG, .BCKT_RING_ST]
  | 2 => [
      .MRLN_COMMIT, .MRLN_COMMIT_ST, .MRLN_REFUSE, .MRLN_EVT, .MRLN_NV_EVT, .MRLN_SCHED_CFG, .MRLN_TRIPLE_ST,
      .MRLN_CORE_ST, .MRLN_MB_CFG, .MRLN_GCC_CFG, .MRLN_ROLE_ST, .MRLN_AUTH_CFG, .MRLN_NV_ST, .MRLN_JRN_SEQ,
      .MRLN_JRN_EXP, .MRLN_AUTH_CHAL, .MRLN_AUTH_RESP, .MRLN_AUTH_CTL, .MRLN_END_TXD, .MRLN_END_POST, .MRLN_END_ST,
      .MRLN_END_HEAD, .MRLN_END_POP, .MRLN_END_INT, .MRLN_END_RXD]
  | 3 => [
      .WHIP_INST, .WHIP_REMAP, .WHIP_EVT, .WHIP_CFG, .WHIP_INJECT]
  | 4 => [
      .FTHM_COMMIT, .FTHM_COMMIT_ST, .FTHM_REFUSE, .FTHM_EVT, .FTHM_DUMP_CFG, .FTHM_BW_CFG, .FTHM_SAMP_CFG,
      .FTHM_DUMP_ST, .FTHM_BW, .FTHM_BW_PEAK, .FTHM_XING, .FTHM_SLIP, .FTHM_PORT]
  | 5 => [
      .HLYD_COMMIT, .HLYD_COMMIT_ST, .HLYD_REFUSE, .HLYD_EVT, .HLYD_REF_CFG, .HLYD_SEL_CFG, .HLYD_DPLL_CTL,
      .HLYD_OUT_CFG, .HLYD_TOD_CFG, .HLYD_PSTEP, .HLYD_TOD_SET, .HLYD_STAT, .HLYD_REF_ST, .HLYD_HO, .HLYD_TOD_SNAP,
      .HLYD_TOD_SNAP_NS]
  | 6 => [
      .BLAY_COMMIT, .BLAY_COMMIT_ST, .BLAY_REFUSE, .BLAY_EVT, .BLAY_BUD_CFG, .BLAY_CORE_CFG, .BLAY_AVS_CFG,
      .BLAY_SUP_CFG, .BLAY_STAT, .BLAY_AVS_ST, .BLAY_AON_ST, .BLAY_LINE_CFG]
  | 7 => [
      .TALY_COMMIT, .TALY_COMMIT_ST, .TALY_AGE_LINE, .TALY_SNAP_ST, .TALY_REFUSE, .TALY_EVT, .TALY_AGE_EVT,
      .TALY_AGE_CFG, .TALY_AGE_ST, .TALY_MON_CFG, .TALY_MON_CTL, .TALY_URG, .TALY_MON_ST, .TALY_MON_RES,
      .TALY_URG_RES, .TALY_SEQ, .TALY_JS, .TALY_PDM, .TALY_AGE_LOG]
  | 8 => [
      .STRD_DAC_CFG, .STRD_DAC_CAL, .STRD_ADC_CFG, .STRD_ADC_CAL, .STRD_ADC_STAT, .STRD_EVT]
  | 9 => [
      .BRAD_COMMIT, .BRAD_COMMIT_ST, .BRAD_REFUSE, .BRAD_LINE_CFG, .BRAD_CDPRE, .BRAD_LOAD_CFG, .BRAD_LOAD_STAT,
      .BRAD_LOAD_EVT, .BRAD_SC_CFG, .BRAD_SC_LOAD, .BRAD_SC_ACT, .BRAD_MAP, .BRAD_TRIB, .BRAD_POL, .BRAD_PD_FIR,
      .BRAD_PD_LUT]
  | 10 => [
      .SPLC_COMMIT, .SPLC_COMMIT_ST, .SPLC_REFUSE, .SPLC_LINE_CFG, .SPLC_CD_CFG, .SPLC_ADAPT_CFG, .SPLC_CR_CFG,
      .SPLC_TAP_LIM, .SPLC_CMD, .SPLC_STAT, .SPLC_EST, .SPLC_EST2, .SPLC_EVT, .SPLC_SC_CFG, .SPLC_SC_EST,
      .SPLC_SC_HIST, .SPLC_CHAN]
  | 11 => [
      .BGHT_COMMIT, .BGHT_COMMIT_ST, .BGHT_REFUSE, .BGHT_LINE_CFG, .BGHT_DISC_CFG, .BGHT_ACQ_CFG, .BGHT_STAT,
      .BGHT_EVT, .BGHT_UP_CFG, .BGHT_LEAF, .BGHT_LEAF_ST]
  | 12 => [
      .CLET_COMMIT, .CLET_COMMIT_ST, .CLET_REFUSE, .CLET_LINE_CFG, .CLET_SD_CFG, .CLET_STAT, .CLET_EVT, .CLET_CNT,
      .CLET_TRL, .CLET_SC_CFG, .CLET_SC_STAT]
  | 13 => [
      .HTCH_COMMIT, .HTCH_COMMIT_ST, .HTCH_REFUSE, .HTCH_LINE_CFG, .HTCH_TX_CFG, .HTCH_STAT, .HTCH_DEF,
      .HTCH_DEF_STK, .HTCH_EVT, .HTCH_HIST_PTR, .HTCH_PM15, .HTCH_PM24, .HTCH_CNT, .HTCH_TTI_SMTX, .HTCH_TTI_SMEXP,
      .HTCH_TTI_SMACC, .HTCH_TTI_PMTX, .HTCH_TTI_PMACC, .HTCH_HIST]
  | 14 => [
      .SEIZ_COMMIT, .SEIZ_COMMIT_ST, .SEIZ_REFUSE, .SEIZ_EVT, .SEIZ_KEK_ST, .SEIZ_KC_CFG, .SEIZ_KC_ST, .SEIZ_KC_CNT]
  | 15 => [
      .BEND_COMMIT, .BEND_COMMIT_ST, .BEND_REFUSE, .BEND_EVT, .BEND_PG_CFG, .BEND_PG_DLY, .BEND_PG_STAT,
      .BEND_PATH_ST, .BEND_PG_CNT]
  | 16 => [
      .SHET_COMMIT, .SHET_COMMIT_ST, .SHET_REFUSE, .SHET_CLI_CFG, .SHET_ODU_CFG, .SHET_FLX_CFG, .SHET_CLI_STAT,
      .SHET_CLI_EVT, .SHET_CNT, .SHET_TS, .SHET_HTS, .SHET_VID]
  | 17 => [
      .TWIN_COMMIT, .TWIN_COMMIT_ST, .TWIN_REFUSE, .TWIN_LANE_CFG, .TWIN_TXFFE, .TWIN_RXEQ, .TWIN_SCAN, .TWIN_STAT,
      .TWIN_EYE, .TWIN_EVT, .TWIN_CNT, .TWIN_QUAD_CFG, .TWIN_SYNCE_SEL]
  | 18 => [
      .LNYD_COMMIT, .LNYD_COMMIT_ST, .LNYD_LANE_CFG, .LNYD_LANE_STAT, .LNYD_EYE, .LNYD_REFUSE, .LNYD_CFG,
      .LNYD_CLAIM, .LNYD_GATE, .LNYD_CK_CFG, .LNYD_STAT, .LNYD_EVT, .LNYD_CNT]
  | _ => []

/-- The block number of a register: its base shifted right by 22 bits (R15). -/
def regBlock (r : RegId) : Nat := (regSpec r).base >>> 22

-- The fields of the manual by name: the register's name, then the field's.

@[reducible] def Fld.TOP_COMMIT_CRC : Fld := ⟨.TOP_COMMIT, 31, 0⟩
@[reducible] def Fld.TOP_COMMIT_ST_SHADOW_CRC : Fld := ⟨.TOP_COMMIT_ST, 63, 32⟩
@[reducible] def Fld.TOP_COMMIT_ST_APPLIED : Fld := ⟨.TOP_COMMIT_ST, 31, 16⟩
@[reducible] def Fld.TOP_COMMIT_ST_CRC_BAD : Fld := ⟨.TOP_COMMIT_ST, 15, 8⟩
@[reducible] def Fld.TOP_COMMIT_ST_LAST : Fld := ⟨.TOP_COMMIT_ST, 1, 0⟩
@[reducible] def Fld.TOP_ACC_ERR_DISPLACED : Fld := ⟨.TOP_ACC_ERR, 63, 48⟩
@[reducible] def Fld.TOP_ACC_ERR_UNASSIGNED_WR : Fld := ⟨.TOP_ACC_ERR, 47, 32⟩
@[reducible] def Fld.TOP_ACC_ERR_UNASSIGNED_RD : Fld := ⟨.TOP_ACC_ERR, 31, 16⟩
@[reducible] def Fld.TOP_ACC_ERR_UR : Fld := ⟨.TOP_ACC_ERR, 15, 0⟩
@[reducible] def Fld.TOP_ID_MAP_VER : Fld := ⟨.TOP_ID, 47, 32⟩
@[reducible] def Fld.TOP_ID_GRADE : Fld := ⟨.TOP_ID, 24, 24⟩
@[reducible] def Fld.TOP_ID_STEP : Fld := ⟨.TOP_ID, 23, 16⟩
@[reducible] def Fld.TOP_ID_PART : Fld := ⟨.TOP_ID, 15, 0⟩
@[reducible] def Fld.TOP_SERIAL_SERIAL : Fld := ⟨.TOP_SERIAL, 63, 0⟩
@[reducible] def Fld.TOP_STRAP_MFG : Fld := ⟨.TOP_STRAP, 3, 3⟩
@[reducible] def Fld.TOP_STRAP_XSPI : Fld := ⟨.TOP_STRAP, 2, 2⟩
@[reducible] def Fld.TOP_STRAP_I3C : Fld := ⟨.TOP_STRAP, 1, 0⟩
@[reducible] def Fld.TOP_EVT_ESCALATION : Fld := ⟨.TOP_EVT, 2, 2⟩
@[reducible] def Fld.TOP_EVT_MODE_REFUSED : Fld := ⟨.TOP_EVT, 1, 1⟩
@[reducible] def Fld.TOP_EVT_CRC_BAD : Fld := ⟨.TOP_EVT, 0, 0⟩
@[reducible] def Fld.TOP_HOLD_VALID : Fld := ⟨.TOP_HOLD, 63, 63⟩
@[reducible] def Fld.TOP_HOLD_ADDR : Fld := ⟨.TOP_HOLD, 55, 32⟩
@[reducible] def Fld.TOP_HOLD_SRC : Fld := ⟨.TOP_HOLD, 31, 28⟩
@[reducible] def Fld.TOP_HOLD_PASID : Fld := ⟨.TOP_HOLD, 27, 8⟩
@[reducible] def Fld.TOP_HOLD_AGE : Fld := ⟨.TOP_HOLD, 3, 0⟩
@[reducible] def Fld.TOP_LINE_MODE_REGEN_PEER : Fld := ⟨.TOP_LINE_MODE, 5, 4⟩
@[reducible] def Fld.TOP_LINE_MODE_FRAME : Fld := ⟨.TOP_LINE_MODE, 3, 3⟩
@[reducible] def Fld.TOP_LINE_MODE_MODE : Fld := ⟨.TOP_LINE_MODE, 2, 0⟩
@[reducible] def Fld.TOP_DEV_MODE_MATE : Fld := ⟨.TOP_DEV_MODE, 0, 0⟩
@[reducible] def Fld.TOP_MODE_STAT_MATE_ACTIVE : Fld := ⟨.TOP_MODE_STAT, 24, 24⟩
@[reducible] def Fld.TOP_MODE_STAT_L2_BUSY : Fld := ⟨.TOP_MODE_STAT, 20, 20⟩
@[reducible] def Fld.TOP_MODE_STAT_L2_FRAME : Fld := ⟨.TOP_MODE_STAT, 19, 19⟩
@[reducible] def Fld.TOP_MODE_STAT_L2_MODE : Fld := ⟨.TOP_MODE_STAT, 18, 16⟩
@[reducible] def Fld.TOP_MODE_STAT_L1_BUSY : Fld := ⟨.TOP_MODE_STAT, 12, 12⟩
@[reducible] def Fld.TOP_MODE_STAT_L1_FRAME : Fld := ⟨.TOP_MODE_STAT, 11, 11⟩
@[reducible] def Fld.TOP_MODE_STAT_L1_MODE : Fld := ⟨.TOP_MODE_STAT, 10, 8⟩
@[reducible] def Fld.TOP_MODE_STAT_L0_BUSY : Fld := ⟨.TOP_MODE_STAT, 4, 4⟩
@[reducible] def Fld.TOP_MODE_STAT_L0_FRAME : Fld := ⟨.TOP_MODE_STAT, 3, 3⟩
@[reducible] def Fld.TOP_MODE_STAT_L0_MODE : Fld := ⟨.TOP_MODE_STAT, 2, 0⟩
@[reducible] def Fld.TOP_MODE_REFUSE_STICKY : Fld := ⟨.TOP_MODE_REFUSE, 31, 31⟩
@[reducible] def Fld.TOP_MODE_REFUSE_LAST_CAUSE : Fld := ⟨.TOP_MODE_REFUSE, 19, 16⟩
@[reducible] def Fld.TOP_MODE_REFUSE_COUNT : Fld := ⟨.TOP_MODE_REFUSE, 15, 0⟩
@[reducible] def Fld.TOP_BOOT_ST_ELAPSED : Fld := ⟨.TOP_BOOT_ST, 31, 16⟩
@[reducible] def Fld.TOP_BOOT_ST_FAIL_CAUSE : Fld := ⟨.TOP_BOOT_ST, 11, 8⟩
@[reducible] def Fld.TOP_BOOT_ST_FAIL : Fld := ⟨.TOP_BOOT_ST, 5, 5⟩
@[reducible] def Fld.TOP_BOOT_ST_READY : Fld := ⟨.TOP_BOOT_ST, 4, 4⟩
@[reducible] def Fld.TOP_BOOT_ST_STAGE : Fld := ⟨.TOP_BOOT_ST, 3, 0⟩
@[reducible] def Fld.TOP_RST_CAUSE_FLR : Fld := ⟨.TOP_RST_CAUSE, 8, 8⟩
@[reducible] def Fld.TOP_RST_CAUSE_CXL_RESET : Fld := ⟨.TOP_RST_CAUSE, 7, 7⟩
@[reducible] def Fld.TOP_RST_CAUSE_ESCALATION : Fld := ⟨.TOP_RST_CAUSE, 6, 6⟩
@[reducible] def Fld.TOP_RST_CAUSE_ROOT_LOST : Fld := ⟨.TOP_RST_CAUSE, 5, 5⟩
@[reducible] def Fld.TOP_RST_CAUSE_SHUTDOWN : Fld := ⟨.TOP_RST_CAUSE, 4, 4⟩
@[reducible] def Fld.TOP_RST_CAUSE_SW_CORE : Fld := ⟨.TOP_RST_CAUSE, 3, 3⟩
@[reducible] def Fld.TOP_RST_CAUSE_SW_DEVICE : Fld := ⟨.TOP_RST_CAUSE, 2, 2⟩
@[reducible] def Fld.TOP_RST_CAUSE_PORST : Fld := ⟨.TOP_RST_CAUSE, 1, 1⟩
@[reducible] def Fld.TOP_RST_CAUSE_POR : Fld := ⟨.TOP_RST_CAUSE, 0, 0⟩
@[reducible] def Fld.TOP_RESET_KEY : Fld := ⟨.TOP_RESET, 31, 16⟩
@[reducible] def Fld.TOP_RESET_KIND : Fld := ⟨.TOP_RESET, 1, 0⟩
@[reducible] def Fld.TOP_FAULT_LINE_HELD : Fld := ⟨.TOP_FAULT, 28, 26⟩
@[reducible] def Fld.TOP_FAULT_LINE_SSF : Fld := ⟨.TOP_FAULT, 25, 25⟩
@[reducible] def Fld.TOP_FAULT_FLT_SW : Fld := ⟨.TOP_FAULT, 24, 24⟩
@[reducible] def Fld.TOP_FAULT_BOOT_FAIL : Fld := ⟨.TOP_FAULT, 23, 23⟩
@[reducible] def Fld.TOP_FAULT_ESC_PEND : Fld := ⟨.TOP_FAULT, 22, 22⟩
@[reducible] def Fld.TOP_FAULT_SVC_DOWN : Fld := ⟨.TOP_FAULT, 21, 21⟩
@[reducible] def Fld.TOP_FAULT_XO_LOST : Fld := ⟨.TOP_FAULT, 20, 20⟩
@[reducible] def Fld.TOP_FAULT_ROOT_LOST : Fld := ⟨.TOP_FAULT, 19, 19⟩
@[reducible] def Fld.TOP_FAULT_HELD : Fld := ⟨.TOP_FAULT, 18, 0⟩
@[reducible] def Fld.TOP_FLT_CFG_FLT_SW : Fld := ⟨.TOP_FLT_CFG, 31, 31⟩
@[reducible] def Fld.TOP_FLT_CFG_FVEC_EN : Fld := ⟨.TOP_FLT_CFG, 20, 20⟩
@[reducible] def Fld.TOP_FLT_CFG_FVEC : Fld := ⟨.TOP_FLT_CFG, 19, 9⟩
@[reducible] def Fld.TOP_FLT_CFG_ESC_AUTO : Fld := ⟨.TOP_FLT_CFG, 8, 8⟩
@[reducible] def Fld.TOP_FLT_CFG_ESC_S : Fld := ⟨.TOP_FLT_CFG, 7, 4⟩
@[reducible] def Fld.TOP_FLT_CFG_FLT_HOLD : Fld := ⟨.TOP_FLT_CFG, 3, 0⟩
@[reducible] def Fld.TOP_INT_ST_READY : Fld := ⟨.TOP_INT_ST, 20, 20⟩
@[reducible] def Fld.TOP_INT_ST_FAULT : Fld := ⟨.TOP_INT_ST, 19, 19⟩
@[reducible] def Fld.TOP_INT_ST_EVT : Fld := ⟨.TOP_INT_ST, 18, 0⟩
@[reducible] def Fld.TOP_INT_EN_READY : Fld := ⟨.TOP_INT_EN, 20, 20⟩
@[reducible] def Fld.TOP_INT_EN_FAULT : Fld := ⟨.TOP_INT_EN, 19, 19⟩
@[reducible] def Fld.TOP_INT_EN_EVT : Fld := ⟨.TOP_INT_EN, 18, 0⟩
@[reducible] def Fld.BCKT_U_STAT_VIRAL : Fld := ⟨.BCKT_U_STAT, 10, 10⟩
@[reducible] def Fld.BCKT_U_STAT_FLIT256 : Fld := ⟨.BCKT_U_STAT, 9, 9⟩
@[reducible] def Fld.BCKT_U_STAT_WIDTH : Fld := ⟨.BCKT_U_STAT, 8, 4⟩
@[reducible] def Fld.BCKT_U_STAT_SPEED : Fld := ⟨.BCKT_U_STAT, 3, 1⟩
@[reducible] def Fld.BCKT_U_STAT_LINK_UP : Fld := ⟨.BCKT_U_STAT, 0, 0⟩
@[reducible] def Fld.BCKT_MEM_CFG_POIS_MAX : Fld := ⟨.BCKT_MEM_CFG, 31, 24⟩
@[reducible] def Fld.BCKT_MEM_CFG_W_CAP : Fld := ⟨.BCKT_MEM_CFG, 19, 16⟩
@[reducible] def Fld.BCKT_MEM_CFG_W_SVC : Fld := ⟨.BCKT_MEM_CFG, 15, 12⟩
@[reducible] def Fld.BCKT_MEM_CFG_W_RING : Fld := ⟨.BCKT_MEM_CFG, 11, 8⟩
@[reducible] def Fld.BCKT_MEM_CFG_EN : Fld := ⟨.BCKT_MEM_CFG, 0, 0⟩
@[reducible] def Fld.BCKT_MEM_STAT_CAP : Fld := ⟨.BCKT_MEM_STAT, 47, 32⟩
@[reducible] def Fld.BCKT_MEM_STAT_FAULT_CAUSE : Fld := ⟨.BCKT_MEM_STAT, 19, 16⟩
@[reducible] def Fld.BCKT_MEM_STAT_MEM_ACTIVE : Fld := ⟨.BCKT_MEM_STAT, 15, 15⟩
@[reducible] def Fld.BCKT_MEM_STAT_FLIT256 : Fld := ⟨.BCKT_MEM_STAT, 14, 14⟩
@[reducible] def Fld.BCKT_MEM_STAT_WIDTH : Fld := ⟨.BCKT_MEM_STAT, 13, 9⟩
@[reducible] def Fld.BCKT_MEM_STAT_SPEED : Fld := ⟨.BCKT_MEM_STAT, 8, 6⟩
@[reducible] def Fld.BCKT_MEM_STAT_PSTATE : Fld := ⟨.BCKT_MEM_STAT, 2, 0⟩
@[reducible] def Fld.BCKT_MEM_EVT_FAULT : Fld := ⟨.BCKT_MEM_EVT, 5, 5⟩
@[reducible] def Fld.BCKT_MEM_EVT_POISON : Fld := ⟨.BCKT_MEM_EVT, 4, 4⟩
@[reducible] def Fld.BCKT_MEM_EVT_NEVER_WR : Fld := ⟨.BCKT_MEM_EVT, 3, 3⟩
@[reducible] def Fld.BCKT_MEM_EVT_REGION : Fld := ⟨.BCKT_MEM_EVT, 2, 2⟩
@[reducible] def Fld.BCKT_MEM_EVT_PORT_DOWN : Fld := ⟨.BCKT_MEM_EVT, 1, 1⟩
@[reducible] def Fld.BCKT_MEM_EVT_PORT_UP : Fld := ⟨.BCKT_MEM_EVT, 0, 0⟩
@[reducible] def Fld.BCKT_MEM_CNT_WRAP : Fld := ⟨.BCKT_MEM_CNT, 63, 63⟩
@[reducible] def Fld.BCKT_MEM_CNT_COUNT : Fld := ⟨.BCKT_MEM_CNT, 47, 0⟩
@[reducible] def Fld.BCKT_REFUSE_STICKY : Fld := ⟨.BCKT_REFUSE, 31, 31⟩
@[reducible] def Fld.BCKT_REFUSE_LAST_RING : Fld := ⟨.BCKT_REFUSE, 30, 16⟩
@[reducible] def Fld.BCKT_REFUSE_LAST_CAUSE : Fld := ⟨.BCKT_REFUSE, 15, 12⟩
@[reducible] def Fld.BCKT_REFUSE_COUNT : Fld := ⟨.BCKT_REFUSE, 11, 0⟩
@[reducible] def Fld.BCKT_EVT_CFG_REFUSED : Fld := ⟨.BCKT_EVT, 8, 8⟩
@[reducible] def Fld.BCKT_EVT_LINK_UP : Fld := ⟨.BCKT_EVT, 7, 7⟩
@[reducible] def Fld.BCKT_EVT_LINK_DOWN : Fld := ⟨.BCKT_EVT, 6, 6⟩
@[reducible] def Fld.BCKT_EVT_DESC_CRC : Fld := ⟨.BCKT_EVT, 4, 4⟩
@[reducible] def Fld.BCKT_EVT_TIMEOUT : Fld := ⟨.BCKT_EVT, 3, 3⟩
@[reducible] def Fld.BCKT_EVT_HALTED : Fld := ⟨.BCKT_EVT, 2, 2⟩
@[reducible] def Fld.BCKT_EVT_BAD_DOORBELL : Fld := ⟨.BCKT_EVT, 1, 1⟩
@[reducible] def Fld.BCKT_EVT_EVQ_OVERFLOW : Fld := ⟨.BCKT_EVT, 0, 0⟩
@[reducible] def Fld.BCKT_ENG_CFG_CMD_TMO : Fld := ⟨.BCKT_ENG_CFG, 31, 16⟩
@[reducible] def Fld.BCKT_ENG_CFG_INFL_RING : Fld := ⟨.BCKT_ENG_CFG, 10, 4⟩
@[reducible] def Fld.BCKT_ENG_CFG_FETCH_MAX : Fld := ⟨.BCKT_ENG_CFG, 3, 0⟩
@[reducible] def Fld.BCKT_CNT_WRAP : Fld := ⟨.BCKT_CNT, 63, 63⟩
@[reducible] def Fld.BCKT_CNT_COUNT : Fld := ⟨.BCKT_CNT, 47, 0⟩
@[reducible] def Fld.BCKT_EVQ_EN : Fld := ⟨.BCKT_EVQ, 15, 15⟩
@[reducible] def Fld.BCKT_EVQ_RING : Fld := ⟨.BCKT_EVQ, 14, 0⟩
@[reducible] def Fld.BCKT_REGION_POIS_CNT : Fld := ⟨.BCKT_REGION, 99, 84⟩
@[reducible] def Fld.BCKT_REGION_FILL_LEFT : Fld := ⟨.BCKT_REGION, 83, 68⟩
@[reducible] def Fld.BCKT_REGION_RSTATE : Fld := ⟨.BCKT_REGION, 67, 66⟩
@[reducible] def Fld.BCKT_REGION_SIZE : Fld := ⟨.BCKT_REGION, 63, 48⟩
@[reducible] def Fld.BCKT_REGION_BASE : Fld := ⟨.BCKT_REGION, 47, 32⟩
@[reducible] def Fld.BCKT_REGION_INTLV : Fld := ⟨.BCKT_REGION, 2, 2⟩
@[reducible] def Fld.BCKT_REGION_PORT : Fld := ⟨.BCKT_REGION, 1, 1⟩
@[reducible] def Fld.BCKT_REGION_EN : Fld := ⟨.BCKT_REGION, 0, 0⟩
@[reducible] def Fld.BCKT_RING_CFG_STRM_WRAP : Fld := ⟨.BCKT_RING_CFG, 127, 127⟩
@[reducible] def Fld.BCKT_RING_CFG_PAIR : Fld := ⟨.BCKT_RING_CFG, 126, 112⟩
@[reducible] def Fld.BCKT_RING_CFG_IRQ_US : Fld := ⟨.BCKT_RING_CFG, 111, 104⟩
@[reducible] def Fld.BCKT_RING_CFG_IRQ_CNT : Fld := ⟨.BCKT_RING_CFG, 103, 96⟩
@[reducible] def Fld.BCKT_RING_CFG_IRQ_EN : Fld := ⟨.BCKT_RING_CFG, 95, 95⟩
@[reducible] def Fld.BCKT_RING_CFG_VEC : Fld := ⟨.BCKT_RING_CFG, 94, 84⟩
@[reducible] def Fld.BCKT_RING_CFG_REGION : Fld := ⟨.BCKT_RING_CFG, 83, 76⟩
@[reducible] def Fld.BCKT_RING_CFG_LOC : Fld := ⟨.BCKT_RING_CFG, 75, 75⟩
@[reducible] def Fld.BCKT_RING_CFG_SIZE : Fld := ⟨.BCKT_RING_CFG, 74, 71⟩
@[reducible] def Fld.BCKT_RING_CFG_DOM : Fld := ⟨.BCKT_RING_CFG, 70, 67⟩
@[reducible] def Fld.BCKT_RING_CFG_TYPE : Fld := ⟨.BCKT_RING_CFG, 66, 65⟩
@[reducible] def Fld.BCKT_RING_CFG_EN : Fld := ⟨.BCKT_RING_CFG, 64, 64⟩
@[reducible] def Fld.BCKT_RING_CFG_BASE : Fld := ⟨.BCKT_RING_CFG, 63, 0⟩
@[reducible] def Fld.BCKT_RING_ST_OVF : Fld := ⟨.BCKT_RING_ST, 63, 48⟩
@[reducible] def Fld.BCKT_RING_ST_INFL : Fld := ⟨.BCKT_RING_ST, 46, 40⟩
@[reducible] def Fld.BCKT_RING_ST_HALT_CAUSE : Fld := ⟨.BCKT_RING_ST, 39, 36⟩
@[reducible] def Fld.BCKT_RING_ST_STATE : Fld := ⟨.BCKT_RING_ST, 35, 34⟩
@[reducible] def Fld.BCKT_RING_ST_CONS : Fld := ⟨.BCKT_RING_ST, 33, 17⟩
@[reducible] def Fld.BCKT_RING_ST_PROD : Fld := ⟨.BCKT_RING_ST, 16, 0⟩
@[reducible] def Fld.MRLN_COMMIT_CRC : Fld := ⟨.MRLN_COMMIT, 31, 0⟩
@[reducible] def Fld.MRLN_COMMIT_ST_SHADOW_CRC : Fld := ⟨.MRLN_COMMIT_ST, 63, 32⟩
@[reducible] def Fld.MRLN_COMMIT_ST_APPLIED : Fld := ⟨.MRLN_COMMIT_ST, 31, 16⟩
@[reducible] def Fld.MRLN_COMMIT_ST_CRC_BAD : Fld := ⟨.MRLN_COMMIT_ST, 15, 8⟩
@[reducible] def Fld.MRLN_COMMIT_ST_LAST : Fld := ⟨.MRLN_COMMIT_ST, 1, 0⟩
@[reducible] def Fld.MRLN_REFUSE_STICKY : Fld := ⟨.MRLN_REFUSE, 31, 31⟩
@[reducible] def Fld.MRLN_REFUSE_LAST_MB : Fld := ⟨.MRLN_REFUSE, 23, 20⟩
@[reducible] def Fld.MRLN_REFUSE_LAST_CAUSE : Fld := ⟨.MRLN_REFUSE, 19, 16⟩
@[reducible] def Fld.MRLN_REFUSE_COUNT : Fld := ⟨.MRLN_REFUSE, 15, 0⟩
@[reducible] def Fld.MRLN_EVT_CFG_REFUSED : Fld := ⟨.MRLN_EVT, 9, 9⟩
@[reducible] def Fld.MRLN_EVT_GCC_BAD : Fld := ⟨.MRLN_EVT, 8, 8⟩
@[reducible] def Fld.MRLN_EVT_DEFER : Fld := ⟨.MRLN_EVT, 7, 7⟩
@[reducible] def Fld.MRLN_EVT_WRONG_END : Fld := ⟨.MRLN_EVT, 6, 6⟩
@[reducible] def Fld.MRLN_EVT_FLUSHED : Fld := ⟨.MRLN_EVT, 5, 5⟩
@[reducible] def Fld.MRLN_EVT_SVC_RESTART : Fld := ⟨.MRLN_EVT, 4, 4⟩
@[reducible] def Fld.MRLN_EVT_RECOVERY : Fld := ⟨.MRLN_EVT, 3, 3⟩
@[reducible] def Fld.MRLN_EVT_OUTVOTED : Fld := ⟨.MRLN_EVT, 2, 2⟩
@[reducible] def Fld.MRLN_EVT_WATCHDOG : Fld := ⟨.MRLN_EVT, 1, 1⟩
@[reducible] def Fld.MRLN_EVT_DATA_ERR : Fld := ⟨.MRLN_EVT, 0, 0⟩
@[reducible] def Fld.MRLN_NV_EVT_IMAGE : Fld := ⟨.MRLN_NV_EVT, 7, 7⟩
@[reducible] def Fld.MRLN_NV_EVT_TORN : Fld := ⟨.MRLN_NV_EVT, 6, 6⟩
@[reducible] def Fld.MRLN_NV_EVT_INHIBIT : Fld := ⟨.MRLN_NV_EVT, 5, 5⟩
@[reducible] def Fld.MRLN_NV_EVT_HOLD : Fld := ⟨.MRLN_NV_EVT, 4, 4⟩
@[reducible] def Fld.MRLN_NV_EVT_JRN_WARN : Fld := ⟨.MRLN_NV_EVT, 3, 3⟩
@[reducible] def Fld.MRLN_NV_EVT_LOCKOUT : Fld := ⟨.MRLN_NV_EVT, 2, 2⟩
@[reducible] def Fld.MRLN_NV_EVT_SESSION : Fld := ⟨.MRLN_NV_EVT, 1, 1⟩
@[reducible] def Fld.MRLN_NV_EVT_DENIED : Fld := ⟨.MRLN_NV_EVT, 0, 0⟩
@[reducible] def Fld.MRLN_SCHED_CFG_WDOG_MS : Fld := ⟨.MRLN_SCHED_CFG, 23, 16⟩
@[reducible] def Fld.MRLN_SCHED_CFG_SLICE_US : Fld := ⟨.MRLN_SCHED_CFG, 9, 0⟩
@[reducible] def Fld.MRLN_TRIPLE_ST_COPY_BAD : Fld := ⟨.MRLN_TRIPLE_ST, 63, 40⟩
@[reducible] def Fld.MRLN_TRIPLE_ST_DEFER : Fld := ⟨.MRLN_TRIPLE_ST, 39, 16⟩
@[reducible] def Fld.MRLN_TRIPLE_ST_TRIPLE_FAIL : Fld := ⟨.MRLN_TRIPLE_ST, 12, 12⟩
@[reducible] def Fld.MRLN_TRIPLE_ST_RESTARTS : Fld := ⟨.MRLN_TRIPLE_ST, 11, 10⟩
@[reducible] def Fld.MRLN_TRIPLE_ST_OUTVOTED : Fld := ⟨.MRLN_TRIPLE_ST, 9, 7⟩
@[reducible] def Fld.MRLN_TRIPLE_ST_CAUSE : Fld := ⟨.MRLN_TRIPLE_ST, 6, 3⟩
@[reducible] def Fld.MRLN_TRIPLE_ST_ACTIVE : Fld := ⟨.MRLN_TRIPLE_ST, 0, 0⟩
@[reducible] def Fld.MRLN_CORE_ST_FAULTS : Fld := ⟨.MRLN_CORE_ST, 31, 16⟩
@[reducible] def Fld.MRLN_CORE_ST_SVC : Fld := ⟨.MRLN_CORE_ST, 10, 8⟩
@[reducible] def Fld.MRLN_CORE_ST_CSTATE : Fld := ⟨.MRLN_CORE_ST, 2, 0⟩
@[reducible] def Fld.MRLN_MB_CFG_VEC1 : Fld := ⟨.MRLN_MB_CFG, 53, 43⟩
@[reducible] def Fld.MRLN_MB_CFG_VEC0 : Fld := ⟨.MRLN_MB_CFG, 42, 32⟩
@[reducible] def Fld.MRLN_MB_CFG_END1 : Fld := ⟨.MRLN_MB_CFG, 12, 9⟩
@[reducible] def Fld.MRLN_MB_CFG_END0 : Fld := ⟨.MRLN_MB_CFG, 8, 5⟩
@[reducible] def Fld.MRLN_MB_CFG_MB_DOM : Fld := ⟨.MRLN_MB_CFG, 4, 1⟩
@[reducible] def Fld.MRLN_MB_CFG_EN : Fld := ⟨.MRLN_MB_CFG, 0, 0⟩
@[reducible] def Fld.MRLN_GCC_CFG_EN : Fld := ⟨.MRLN_GCC_CFG, 15, 15⟩
@[reducible] def Fld.MRLN_GCC_CFG_RING : Fld := ⟨.MRLN_GCC_CFG, 14, 0⟩
@[reducible] def Fld.MRLN_ROLE_ST_VALID : Fld := ⟨.MRLN_ROLE_ST, 63, 63⟩
@[reducible] def Fld.MRLN_ROLE_ST_ROLE : Fld := ⟨.MRLN_ROLE_ST, 62, 61⟩
@[reducible] def Fld.MRLN_ROLE_ST_DOM_MASK : Fld := ⟨.MRLN_ROLE_ST, 60, 45⟩
@[reducible] def Fld.MRLN_ROLE_ST_SRC : Fld := ⟨.MRLN_ROLE_ST, 44, 41⟩
@[reducible] def Fld.MRLN_ROLE_ST_PASID : Fld := ⟨.MRLN_ROLE_ST, 40, 21⟩
@[reducible] def Fld.MRLN_ROLE_ST_MIN_LEFT : Fld := ⟨.MRLN_ROLE_ST, 20, 7⟩
@[reducible] def Fld.MRLN_AUTH_CFG_SESS_H : Fld := ⟨.MRLN_AUTH_CFG, 31, 24⟩
@[reducible] def Fld.MRLN_AUTH_CFG_LOCK_S : Fld := ⟨.MRLN_AUTH_CFG, 23, 16⟩
@[reducible] def Fld.MRLN_AUTH_CFG_WARN_PCT : Fld := ⟨.MRLN_AUTH_CFG, 15, 8⟩
@[reducible] def Fld.MRLN_AUTH_CFG_JOURNAL_HOLD : Fld := ⟨.MRLN_AUTH_CFG, 0, 0⟩
@[reducible] def Fld.MRLN_NV_ST_TORN : Fld := ⟨.MRLN_NV_ST, 63, 48⟩
@[reducible] def Fld.MRLN_NV_ST_BUF_FILL : Fld := ⟨.MRLN_NV_ST, 47, 32⟩
@[reducible] def Fld.MRLN_NV_ST_DENIED : Fld := ⟨.MRLN_NV_ST, 31, 16⟩
@[reducible] def Fld.MRLN_NV_ST_COPY_ST : Fld := ⟨.MRLN_NV_ST, 13, 8⟩
@[reducible] def Fld.MRLN_NV_ST_LIFECYCLE : Fld := ⟨.MRLN_NV_ST, 7, 6⟩
@[reducible] def Fld.MRLN_NV_ST_HOLD_ACTIVE : Fld := ⟨.MRLN_NV_ST, 1, 1⟩
@[reducible] def Fld.MRLN_NV_ST_NV_INHIBIT : Fld := ⟨.MRLN_NV_ST, 0, 0⟩
@[reducible] def Fld.MRLN_JRN_SEQ_SEQ : Fld := ⟨.MRLN_JRN_SEQ, 63, 0⟩
@[reducible] def Fld.MRLN_JRN_EXP_EXP_SEQ : Fld := ⟨.MRLN_JRN_EXP, 63, 0⟩
@[reducible] def Fld.MRLN_AUTH_CHAL_W : Fld := ⟨.MRLN_AUTH_CHAL, 63, 0⟩
@[reducible] def Fld.MRLN_AUTH_RESP_W : Fld := ⟨.MRLN_AUTH_RESP, 63, 0⟩
@[reducible] def Fld.MRLN_AUTH_CTL_ENTRY : Fld := ⟨.MRLN_AUTH_CTL, 13, 8⟩
@[reducible] def Fld.MRLN_AUTH_CTL_RESULT : Fld := ⟨.MRLN_AUTH_CTL, 5, 4⟩
@[reducible] def Fld.MRLN_AUTH_CTL_SUBMIT : Fld := ⟨.MRLN_AUTH_CTL, 1, 1⟩
@[reducible] def Fld.MRLN_AUTH_CTL_NEW : Fld := ⟨.MRLN_AUTH_CTL, 0, 0⟩
@[reducible] def Fld.MRLN_END_TXD_DATA : Fld := ⟨.MRLN_END_TXD, 31, 0⟩
@[reducible] def Fld.MRLN_END_POST_LEN : Fld := ⟨.MRLN_END_POST, 4, 0⟩
@[reducible] def Fld.MRLN_END_ST_OUT_SEQ : Fld := ⟨.MRLN_END_ST, 63, 48⟩
@[reducible] def Fld.MRLN_END_ST_PEER_EPOCH : Fld := ⟨.MRLN_END_ST, 47, 40⟩
@[reducible] def Fld.MRLN_END_ST_EPOCH : Fld := ⟨.MRLN_END_ST, 39, 32⟩
@[reducible] def Fld.MRLN_END_ST_FLUSH_CNT : Fld := ⟨.MRLN_END_ST, 31, 24⟩
@[reducible] def Fld.MRLN_END_ST_POST_RES : Fld := ⟨.MRLN_END_ST, 17, 16⟩
@[reducible] def Fld.MRLN_END_ST_IN_FILL : Fld := ⟨.MRLN_END_ST, 12, 8⟩
@[reducible] def Fld.MRLN_END_ST_OUT_FILL : Fld := ⟨.MRLN_END_ST, 4, 0⟩
@[reducible] def Fld.MRLN_END_HEAD_CHK_OK : Fld := ⟨.MRLN_END_HEAD, 37, 37⟩
@[reducible] def Fld.MRLN_END_HEAD_LEN : Fld := ⟨.MRLN_END_HEAD, 36, 32⟩
@[reducible] def Fld.MRLN_END_HEAD_STAMP : Fld := ⟨.MRLN_END_HEAD, 31, 0⟩
@[reducible] def Fld.MRLN_END_POP_POP : Fld := ⟨.MRLN_END_POP, 0, 0⟩
@[reducible] def Fld.MRLN_END_INT_IE : Fld := ⟨.MRLN_END_INT, 10, 8⟩
@[reducible] def Fld.MRLN_END_INT_FLUSHED : Fld := ⟨.MRLN_END_INT, 2, 2⟩
@[reducible] def Fld.MRLN_END_INT_EMPTY : Fld := ⟨.MRLN_END_INT, 1, 1⟩
@[reducible] def Fld.MRLN_END_INT_ARRIVED : Fld := ⟨.MRLN_END_INT, 0, 0⟩
@[reducible] def Fld.MRLN_END_RXD_DATA : Fld := ⟨.MRLN_END_RXD, 31, 0⟩
@[reducible] def Fld.WHIP_INST_CORR : Fld := ⟨.WHIP_INST, 63, 48⟩
@[reducible] def Fld.WHIP_INST_UNCORR : Fld := ⟨.WHIP_INST, 47, 40⟩
@[reducible] def Fld.WHIP_INST_CLASS : Fld := ⟨.WHIP_INST, 39, 37⟩
@[reducible] def Fld.WHIP_INST_LAST_ADDR : Fld := ⟨.WHIP_INST, 31, 8⟩
@[reducible] def Fld.WHIP_INST_PRESENT : Fld := ⟨.WHIP_INST, 7, 7⟩
@[reducible] def Fld.WHIP_INST_CHK_FAIL : Fld := ⟨.WHIP_INST, 6, 6⟩
@[reducible] def Fld.WHIP_INST_DEGRADED : Fld := ⟨.WHIP_INST, 5, 5⟩
@[reducible] def Fld.WHIP_INST_CODE : Fld := ⟨.WHIP_INST, 4, 4⟩
@[reducible] def Fld.WHIP_INST_SPARES_USED : Fld := ⟨.WHIP_INST, 3, 0⟩
@[reducible] def Fld.WHIP_REMAP_VALID : Fld := ⟨.WHIP_REMAP, 31, 31⟩
@[reducible] def Fld.WHIP_REMAP_ADDR : Fld := ⟨.WHIP_REMAP, 23, 0⟩
@[reducible] def Fld.WHIP_EVT_TRACK_DROP : Fld := ⟨.WHIP_EVT, 5, 5⟩
@[reducible] def Fld.WHIP_EVT_CHK_FAIL : Fld := ⟨.WHIP_EVT, 4, 4⟩
@[reducible] def Fld.WHIP_EVT_DEGRADED : Fld := ⟨.WHIP_EVT, 3, 3⟩
@[reducible] def Fld.WHIP_EVT_REMAP : Fld := ⟨.WHIP_EVT, 2, 2⟩
@[reducible] def Fld.WHIP_EVT_UNCORR : Fld := ⟨.WHIP_EVT, 1, 1⟩
@[reducible] def Fld.WHIP_EVT_CORR : Fld := ⟨.WHIP_EVT, 0, 0⟩
@[reducible] def Fld.WHIP_CFG_SCRUB_H : Fld := ⟨.WHIP_CFG, 15, 8⟩
@[reducible] def Fld.WHIP_CFG_SCRUB_EN : Fld := ⟨.WHIP_CFG, 0, 0⟩
@[reducible] def Fld.WHIP_INJECT_ARM : Fld := ⟨.WHIP_INJECT, 31, 31⟩
@[reducible] def Fld.WHIP_INJECT_KIND : Fld := ⟨.WHIP_INJECT, 30, 29⟩
@[reducible] def Fld.WHIP_INJECT_INST : Fld := ⟨.WHIP_INJECT, 10, 0⟩
@[reducible] def Fld.FTHM_COMMIT_CRC : Fld := ⟨.FTHM_COMMIT, 31, 0⟩
@[reducible] def Fld.FTHM_COMMIT_ST_SHADOW_CRC : Fld := ⟨.FTHM_COMMIT_ST, 63, 32⟩
@[reducible] def Fld.FTHM_COMMIT_ST_APPLIED : Fld := ⟨.FTHM_COMMIT_ST, 31, 16⟩
@[reducible] def Fld.FTHM_COMMIT_ST_CRC_BAD : Fld := ⟨.FTHM_COMMIT_ST, 15, 8⟩
@[reducible] def Fld.FTHM_COMMIT_ST_LAST : Fld := ⟨.FTHM_COMMIT_ST, 1, 0⟩
@[reducible] def Fld.FTHM_REFUSE_STICKY : Fld := ⟨.FTHM_REFUSE, 31, 31⟩
@[reducible] def Fld.FTHM_REFUSE_LAST_LINE : Fld := ⟨.FTHM_REFUSE, 21, 20⟩
@[reducible] def Fld.FTHM_REFUSE_LAST_CAUSE : Fld := ⟨.FTHM_REFUSE, 19, 16⟩
@[reducible] def Fld.FTHM_REFUSE_COUNT : Fld := ⟨.FTHM_REFUSE, 15, 0⟩
@[reducible] def Fld.FTHM_EVT_CFG_REFUSED : Fld := ⟨.FTHM_EVT, 2, 2⟩
@[reducible] def Fld.FTHM_EVT_DUMP_LATE : Fld := ⟨.FTHM_EVT, 1, 1⟩
@[reducible] def Fld.FTHM_EVT_DUMP_SKIP : Fld := ⟨.FTHM_EVT, 0, 0⟩
@[reducible] def Fld.FTHM_DUMP_CFG_DUMP_RING : Fld := ⟨.FTHM_DUMP_CFG, 46, 32⟩
@[reducible] def Fld.FTHM_DUMP_CFG_DUMP_EN : Fld := ⟨.FTHM_DUMP_CFG, 31, 31⟩
@[reducible] def Fld.FTHM_DUMP_CFG_DUMP_S : Fld := ⟨.FTHM_DUMP_CFG, 28, 19⟩
@[reducible] def Fld.FTHM_DUMP_CFG_SEL : Fld := ⟨.FTHM_DUMP_CFG, 18, 0⟩
@[reducible] def Fld.FTHM_BW_CFG_BW_US : Fld := ⟨.FTHM_BW_CFG, 20, 1⟩
@[reducible] def Fld.FTHM_SAMP_CFG_SAMP_RING : Fld := ⟨.FTHM_SAMP_CFG, 26, 12⟩
@[reducible] def Fld.FTHM_SAMP_CFG_SAMP_P : Fld := ⟨.FTHM_SAMP_CFG, 11, 8⟩
@[reducible] def Fld.FTHM_SAMP_CFG_SAMP_EN : Fld := ⟨.FTHM_SAMP_CFG, 7, 0⟩
@[reducible] def Fld.FTHM_DUMP_ST_DUMP_SEQ : Fld := ⟨.FTHM_DUMP_ST, 63, 32⟩
@[reducible] def Fld.FTHM_DUMP_ST_DUMP_SKIP : Fld := ⟨.FTHM_DUMP_ST, 31, 16⟩
@[reducible] def Fld.FTHM_DUMP_ST_DUMP_LATE : Fld := ⟨.FTHM_DUMP_ST, 15, 4⟩
@[reducible] def Fld.FTHM_DUMP_ST_PENDING : Fld := ⟨.FTHM_DUMP_ST, 1, 1⟩
@[reducible] def Fld.FTHM_DUMP_ST_BUSY : Fld := ⟨.FTHM_DUMP_ST, 0, 0⟩
@[reducible] def Fld.FTHM_BW_WR : Fld := ⟨.FTHM_BW, 63, 32⟩
@[reducible] def Fld.FTHM_BW_RD : Fld := ⟨.FTHM_BW, 31, 0⟩
@[reducible] def Fld.FTHM_BW_PEAK_WR : Fld := ⟨.FTHM_BW_PEAK, 63, 32⟩
@[reducible] def Fld.FTHM_BW_PEAK_RD : Fld := ⟨.FTHM_BW_PEAK, 31, 0⟩
@[reducible] def Fld.FTHM_XING_WRAP : Fld := ⟨.FTHM_XING, 63, 63⟩
@[reducible] def Fld.FTHM_XING_COUNT : Fld := ⟨.FTHM_XING, 47, 0⟩
@[reducible] def Fld.FTHM_SLIP_WRAP : Fld := ⟨.FTHM_SLIP, 63, 63⟩
@[reducible] def Fld.FTHM_SLIP_COUNT : Fld := ⟨.FTHM_SLIP, 47, 0⟩
@[reducible] def Fld.FTHM_PORT_WRAP : Fld := ⟨.FTHM_PORT, 63, 63⟩
@[reducible] def Fld.FTHM_PORT_COUNT : Fld := ⟨.FTHM_PORT, 47, 0⟩
@[reducible] def Fld.HLYD_COMMIT_CRC : Fld := ⟨.HLYD_COMMIT, 31, 0⟩
@[reducible] def Fld.HLYD_COMMIT_ST_SHADOW_CRC : Fld := ⟨.HLYD_COMMIT_ST, 63, 32⟩
@[reducible] def Fld.HLYD_COMMIT_ST_APPLIED : Fld := ⟨.HLYD_COMMIT_ST, 31, 16⟩
@[reducible] def Fld.HLYD_COMMIT_ST_CRC_BAD : Fld := ⟨.HLYD_COMMIT_ST, 15, 8⟩
@[reducible] def Fld.HLYD_COMMIT_ST_LAST : Fld := ⟨.HLYD_COMMIT_ST, 1, 0⟩
@[reducible] def Fld.HLYD_REFUSE_STICKY : Fld := ⟨.HLYD_REFUSE, 31, 31⟩
@[reducible] def Fld.HLYD_REFUSE_LAST_CAUSE : Fld := ⟨.HLYD_REFUSE, 19, 16⟩
@[reducible] def Fld.HLYD_REFUSE_COUNT : Fld := ⟨.HLYD_REFUSE, 15, 0⟩
@[reducible] def Fld.HLYD_EVT_TOD_MSG : Fld := ⟨.HLYD_EVT, 8, 8⟩
@[reducible] def Fld.HLYD_EVT_XO : Fld := ⟨.HLYD_EVT, 7, 7⟩
@[reducible] def Fld.HLYD_EVT_TOD_LOAD : Fld := ⟨.HLYD_EVT, 6, 6⟩
@[reducible] def Fld.HLYD_EVT_PSTEP : Fld := ⟨.HLYD_EVT, 5, 5⟩
@[reducible] def Fld.HLYD_EVT_DISPUTE : Fld := ⟨.HLYD_EVT, 4, 4⟩
@[reducible] def Fld.HLYD_EVT_STATE : Fld := ⟨.HLYD_EVT, 3, 3⟩
@[reducible] def Fld.HLYD_EVT_SELECT : Fld := ⟨.HLYD_EVT, 2, 2⟩
@[reducible] def Fld.HLYD_EVT_REF_AVAIL : Fld := ⟨.HLYD_EVT, 1, 1⟩
@[reducible] def Fld.HLYD_EVT_REF_FAIL : Fld := ⟨.HLYD_EVT, 0, 0⟩
@[reducible] def Fld.HLYD_REF_CFG_NOMINAL : Fld := ⟨.HLYD_REF_CFG, 63, 34⟩
@[reducible] def Fld.HLYD_REF_CFG_WTR_S : Fld := ⟨.HLYD_REF_CFG, 33, 24⟩
@[reducible] def Fld.HLYD_REF_CFG_REJ : Fld := ⟨.HLYD_REF_CFG, 23, 16⟩
@[reducible] def Fld.HLYD_REF_CFG_ACC : Fld := ⟨.HLYD_REF_CFG, 15, 8⟩
@[reducible] def Fld.HLYD_REF_CFG_RANK : Fld := ⟨.HLYD_REF_CFG, 3, 0⟩
@[reducible] def Fld.HLYD_SEL_CFG_HO_MAX : Fld := ⟨.HLYD_SEL_CFG, 63, 48⟩
@[reducible] def Fld.HLYD_SEL_CFG_HO_AVG : Fld := ⟨.HLYD_SEL_CFG, 27, 25⟩
@[reducible] def Fld.HLYD_SEL_CFG_REVERT : Fld := ⟨.HLYD_SEL_CFG, 24, 24⟩
@[reducible] def Fld.HLYD_SEL_CFG_FORCE_REF : Fld := ⟨.HLYD_SEL_CFG, 23, 20⟩
@[reducible] def Fld.HLYD_SEL_CFG_FORCE_EN : Fld := ⟨.HLYD_SEL_CFG, 19, 19⟩
@[reducible] def Fld.HLYD_SEL_CFG_BW : Fld := ⟨.HLYD_SEL_CFG, 17, 16⟩
@[reducible] def Fld.HLYD_SEL_CFG_DISP_PPM : Fld := ⟨.HLYD_SEL_CFG, 15, 8⟩
@[reducible] def Fld.HLYD_SEL_CFG_DISP_MARGIN : Fld := ⟨.HLYD_SEL_CFG, 7, 0⟩
@[reducible] def Fld.HLYD_DPLL_CTL_FFO : Fld := ⟨.HLYD_DPLL_CTL, 63, 32⟩
@[reducible] def Fld.HLYD_DPLL_CTL_FSLEW : Fld := ⟨.HLYD_DPLL_CTL, 31, 16⟩
@[reducible] def Fld.HLYD_DPLL_CTL_MODE : Fld := ⟨.HLYD_DPLL_CTL, 1, 0⟩
@[reducible] def Fld.HLYD_OUT_CFG_NUM : Fld := ⟨.HLYD_OUT_CFG, 63, 40⟩
@[reducible] def Fld.HLYD_OUT_CFG_DEN : Fld := ⟨.HLYD_OUT_CFG, 39, 16⟩
@[reducible] def Fld.HLYD_OUT_CFG_HO_ACT : Fld := ⟨.HLYD_OUT_CFG, 2, 1⟩
@[reducible] def Fld.HLYD_OUT_CFG_EN : Fld := ⟨.HLYD_OUT_CFG, 0, 0⟩
@[reducible] def Fld.HLYD_TOD_CFG_PPS_TOL : Fld := ⟨.HLYD_TOD_CFG, 31, 24⟩
@[reducible] def Fld.HLYD_TOD_CFG_BAUD : Fld := ⟨.HLYD_TOD_CFG, 19, 18⟩
@[reducible] def Fld.HLYD_TOD_CFG_TOD_SRC : Fld := ⟨.HLYD_TOD_CFG, 17, 17⟩
@[reducible] def Fld.HLYD_TOD_CFG_PPS_EN : Fld := ⟨.HLYD_TOD_CFG, 16, 16⟩
@[reducible] def Fld.HLYD_TOD_CFG_PPS_W : Fld := ⟨.HLYD_TOD_CFG, 15, 0⟩
@[reducible] def Fld.HLYD_PSTEP_BUSY : Fld := ⟨.HLYD_PSTEP, 63, 63⟩
@[reducible] def Fld.HLYD_PSTEP_GO : Fld := ⟨.HLYD_PSTEP, 62, 62⟩
@[reducible] def Fld.HLYD_PSTEP_MODE : Fld := ⟨.HLYD_PSTEP, 61, 61⟩
@[reducible] def Fld.HLYD_PSTEP_SLEW : Fld := ⟨.HLYD_PSTEP, 60, 48⟩
@[reducible] def Fld.HLYD_PSTEP_PSTEP_OVR : Fld := ⟨.HLYD_PSTEP, 47, 40⟩
@[reducible] def Fld.HLYD_PSTEP_AMOUNT : Fld := ⟨.HLYD_PSTEP, 39, 0⟩
@[reducible] def Fld.HLYD_TOD_SET_SNAP : Fld := ⟨.HLYD_TOD_SET, 49, 49⟩
@[reducible] def Fld.HLYD_TOD_SET_ARM : Fld := ⟨.HLYD_TOD_SET, 48, 48⟩
@[reducible] def Fld.HLYD_TOD_SET_SECONDS : Fld := ⟨.HLYD_TOD_SET, 47, 0⟩
@[reducible] def Fld.HLYD_STAT_HO_AGE : Fld := ⟨.HLYD_STAT, 63, 40⟩
@[reducible] def Fld.HLYD_STAT_XO_FAULT : Fld := ⟨.HLYD_STAT, 29, 29⟩
@[reducible] def Fld.HLYD_STAT_TOD_VALID : Fld := ⟨.HLYD_STAT, 28, 28⟩
@[reducible] def Fld.HLYD_STAT_HO_VALID : Fld := ⟨.HLYD_STAT, 27, 27⟩
@[reducible] def Fld.HLYD_STAT_SWITCHING : Fld := ⟨.HLYD_STAT, 26, 26⟩
@[reducible] def Fld.HLYD_STAT_SEL_REF : Fld := ⟨.HLYD_STAT, 25, 22⟩
@[reducible] def Fld.HLYD_STAT_PIN_ST : Fld := ⟨.HLYD_STAT, 21, 19⟩
@[reducible] def Fld.HLYD_STAT_STATE : Fld := ⟨.HLYD_STAT, 18, 16⟩
@[reducible] def Fld.HLYD_STAT_TOD_MSG_BAD : Fld := ⟨.HLYD_STAT, 15, 8⟩
@[reducible] def Fld.HLYD_REF_ST_FOFF : Fld := ⟨.HLYD_REF_ST, 31, 16⟩
@[reducible] def Fld.HLYD_REF_ST_WTR_LEFT : Fld := ⟨.HLYD_REF_ST, 15, 6⟩
@[reducible] def Fld.HLYD_REF_ST_EXT_FAIL : Fld := ⟨.HLYD_REF_ST, 5, 5⟩
@[reducible] def Fld.HLYD_REF_ST_ACT : Fld := ⟨.HLYD_REF_ST, 4, 4⟩
@[reducible] def Fld.HLYD_REF_ST_RSTATE : Fld := ⟨.HLYD_REF_ST, 2, 0⟩
@[reducible] def Fld.HLYD_HO_HO_FREQ : Fld := ⟨.HLYD_HO, 63, 32⟩
@[reducible] def Fld.HLYD_HO_FREQ : Fld := ⟨.HLYD_HO, 31, 0⟩
@[reducible] def Fld.HLYD_TOD_SNAP_VALID : Fld := ⟨.HLYD_TOD_SNAP, 63, 63⟩
@[reducible] def Fld.HLYD_TOD_SNAP_SECONDS : Fld := ⟨.HLYD_TOD_SNAP, 47, 0⟩
@[reducible] def Fld.HLYD_TOD_SNAP_NS_NS : Fld := ⟨.HLYD_TOD_SNAP_NS, 29, 0⟩
@[reducible] def Fld.BLAY_COMMIT_CRC : Fld := ⟨.BLAY_COMMIT, 31, 0⟩
@[reducible] def Fld.BLAY_COMMIT_ST_SHADOW_CRC : Fld := ⟨.BLAY_COMMIT_ST, 63, 32⟩
@[reducible] def Fld.BLAY_COMMIT_ST_APPLIED : Fld := ⟨.BLAY_COMMIT_ST, 31, 16⟩
@[reducible] def Fld.BLAY_COMMIT_ST_CRC_BAD : Fld := ⟨.BLAY_COMMIT_ST, 15, 8⟩
@[reducible] def Fld.BLAY_COMMIT_ST_LAST : Fld := ⟨.BLAY_COMMIT_ST, 1, 0⟩
@[reducible] def Fld.BLAY_REFUSE_STICKY : Fld := ⟨.BLAY_REFUSE, 31, 31⟩
@[reducible] def Fld.BLAY_REFUSE_LAST_CAUSE : Fld := ⟨.BLAY_REFUSE, 19, 16⟩
@[reducible] def Fld.BLAY_REFUSE_COUNT : Fld := ⟨.BLAY_REFUSE, 15, 0⟩
@[reducible] def Fld.BLAY_EVT_LEVEL : Fld := ⟨.BLAY_EVT, 7, 7⟩
@[reducible] def Fld.BLAY_EVT_SHUTDOWN : Fld := ⟨.BLAY_EVT, 6, 6⟩
@[reducible] def Fld.BLAY_EVT_HOLD_FAIL : Fld := ⟨.BLAY_EVT, 5, 5⟩
@[reducible] def Fld.BLAY_EVT_FEED : Fld := ⟨.BLAY_EVT, 4, 4⟩
@[reducible] def Fld.BLAY_EVT_AVS : Fld := ⟨.BLAY_EVT, 3, 3⟩
@[reducible] def Fld.BLAY_EVT_DERATE : Fld := ⟨.BLAY_EVT, 2, 2⟩
@[reducible] def Fld.BLAY_EVT_OVER_FLOOR : Fld := ⟨.BLAY_EVT, 1, 1⟩
@[reducible] def Fld.BLAY_EVT_SUPPLY : Fld := ⟨.BLAY_EVT, 0, 0⟩
@[reducible] def Fld.BLAY_BUD_CFG_TJ_SLOPE : Fld := ⟨.BLAY_BUD_CFG, 55, 48⟩
@[reducible] def Fld.BLAY_BUD_CFG_TJ_TRIP : Fld := ⟨.BLAY_BUD_CFG, 47, 40⟩
@[reducible] def Fld.BLAY_BUD_CFG_TJ_SOFT : Fld := ⟨.BLAY_BUD_CFG, 39, 32⟩
@[reducible] def Fld.BLAY_BUD_CFG_GUARD_W : Fld := ⟨.BLAY_BUD_CFG, 31, 24⟩
@[reducible] def Fld.BLAY_BUD_CFG_BUDGET : Fld := ⟨.BLAY_BUD_CFG, 10, 0⟩
@[reducible] def Fld.BLAY_CORE_CFG_CORE_D : Fld := ⟨.BLAY_CORE_CFG, 23, 16⟩
@[reducible] def Fld.BLAY_CORE_CFG_CORE_C : Fld := ⟨.BLAY_CORE_CFG, 15, 8⟩
@[reducible] def Fld.BLAY_CORE_CFG_CORE_B : Fld := ⟨.BLAY_CORE_CFG, 7, 0⟩
@[reducible] def Fld.BLAY_AVS_CFG_AGE_OFS_MAX : Fld := ⟨.BLAY_AVS_CFG, 63, 56⟩
@[reducible] def Fld.BLAY_AVS_CFG_SLACK_HI : Fld := ⟨.BLAY_AVS_CFG, 55, 48⟩
@[reducible] def Fld.BLAY_AVS_CFG_SLACK_LO : Fld := ⟨.BLAY_AVS_CFG, 47, 40⟩
@[reducible] def Fld.BLAY_AVS_CFG_AVS_IF : Fld := ⟨.BLAY_AVS_CFG, 39, 39⟩
@[reducible] def Fld.BLAY_AVS_CFG_AVS_ADDR : Fld := ⟨.BLAY_AVS_CFG, 38, 32⟩
@[reducible] def Fld.BLAY_AVS_CFG_VMAX : Fld := ⟨.BLAY_AVS_CFG, 31, 16⟩
@[reducible] def Fld.BLAY_AVS_CFG_VMIN : Fld := ⟨.BLAY_AVS_CFG, 15, 0⟩
@[reducible] def Fld.BLAY_SUP_CFG_HOLD_H : Fld := ⟨.BLAY_SUP_CFG, 31, 24⟩
@[reducible] def Fld.BLAY_SUP_CFG_HOLD_MS : Fld := ⟨.BLAY_SUP_CFG, 23, 16⟩
@[reducible] def Fld.BLAY_SUP_CFG_SHARE_LIM : Fld := ⟨.BLAY_SUP_CFG, 15, 8⟩
@[reducible] def Fld.BLAY_SUP_CFG_SAG_FILT : Fld := ⟨.BLAY_SUP_CFG, 7, 4⟩
@[reducible] def Fld.BLAY_SUP_CFG_PWR_WARN_EN : Fld := ⟨.BLAY_SUP_CFG, 0, 0⟩
@[reducible] def Fld.BLAY_STAT_EFF_BUD : Fld := ⟨.BLAY_STAT, 63, 53⟩
@[reducible] def Fld.BLAY_STAT_EST_P : Fld := ⟨.BLAY_STAT, 52, 42⟩
@[reducible] def Fld.BLAY_STAT_TJ : Fld := ⟨.BLAY_STAT, 41, 34⟩
@[reducible] def Fld.BLAY_STAT_LEVEL : Fld := ⟨.BLAY_STAT, 33, 31⟩
@[reducible] def Fld.BLAY_STAT_SUPPLY : Fld := ⟨.BLAY_STAT, 30, 28⟩
@[reducible] def Fld.BLAY_STAT_OVER_FLOOR : Fld := ⟨.BLAY_STAT, 27, 27⟩
@[reducible] def Fld.BLAY_STAT_DERATE : Fld := ⟨.BLAY_STAT, 26, 26⟩
@[reducible] def Fld.BLAY_STAT_PWR_WARN : Fld := ⟨.BLAY_STAT, 25, 25⟩
@[reducible] def Fld.BLAY_STAT_SHORT : Fld := ⟨.BLAY_STAT, 24, 16⟩
@[reducible] def Fld.BLAY_STAT_SHUT_CAUSE : Fld := ⟨.BLAY_STAT, 15, 12⟩
@[reducible] def Fld.BLAY_AVS_ST_SETPOINT : Fld := ⟨.BLAY_AVS_ST, 63, 48⟩
@[reducible] def Fld.BLAY_AVS_ST_AGE_OFS : Fld := ⟨.BLAY_AVS_ST, 47, 40⟩
@[reducible] def Fld.BLAY_AVS_ST_IOUT : Fld := ⟨.BLAY_AVS_ST, 39, 24⟩
@[reducible] def Fld.BLAY_AVS_ST_CAL_GAIN : Fld := ⟨.BLAY_AVS_ST, 23, 14⟩
@[reducible] def Fld.BLAY_AVS_ST_AVS_FAULT : Fld := ⟨.BLAY_AVS_ST, 13, 13⟩
@[reducible] def Fld.BLAY_AVS_ST_MIN_SLACK : Fld := ⟨.BLAY_AVS_ST, 12, 0⟩
@[reducible] def Fld.BLAY_AON_ST_A_SHARE : Fld := ⟨.BLAY_AON_ST, 31, 24⟩
@[reducible] def Fld.BLAY_AON_ST_TEST_AGE : Fld := ⟨.BLAY_AON_ST, 23, 16⟩
@[reducible] def Fld.BLAY_AON_ST_B_TEST : Fld := ⟨.BLAY_AON_ST, 15, 14⟩
@[reducible] def Fld.BLAY_AON_ST_A_TEST : Fld := ⟨.BLAY_AON_ST, 13, 12⟩
@[reducible] def Fld.BLAY_AON_ST_SHARE_BAD : Fld := ⟨.BLAY_AON_ST, 9, 9⟩
@[reducible] def Fld.BLAY_AON_ST_TEST_RUN : Fld := ⟨.BLAY_AON_ST, 8, 8⟩
@[reducible] def Fld.BLAY_AON_ST_B_FAIL : Fld := ⟨.BLAY_AON_ST, 3, 3⟩
@[reducible] def Fld.BLAY_AON_ST_A_FAIL : Fld := ⟨.BLAY_AON_ST, 2, 2⟩
@[reducible] def Fld.BLAY_AON_ST_B_OK : Fld := ⟨.BLAY_AON_ST, 1, 1⟩
@[reducible] def Fld.BLAY_AON_ST_A_OK : Fld := ⟨.BLAY_AON_ST, 0, 0⟩
@[reducible] def Fld.BLAY_LINE_CFG_PROT_FORCE : Fld := ⟨.BLAY_LINE_CFG, 0, 0⟩
@[reducible] def Fld.TALY_COMMIT_CRC : Fld := ⟨.TALY_COMMIT, 31, 0⟩
@[reducible] def Fld.TALY_COMMIT_ST_SHADOW_CRC : Fld := ⟨.TALY_COMMIT_ST, 63, 32⟩
@[reducible] def Fld.TALY_COMMIT_ST_APPLIED : Fld := ⟨.TALY_COMMIT_ST, 31, 16⟩
@[reducible] def Fld.TALY_COMMIT_ST_CRC_BAD : Fld := ⟨.TALY_COMMIT_ST, 15, 8⟩
@[reducible] def Fld.TALY_COMMIT_ST_LAST : Fld := ⟨.TALY_COMMIT_ST, 1, 0⟩
@[reducible] def Fld.TALY_AGE_LINE_SNR_CONV : Fld := ⟨.TALY_AGE_LINE, 31, 24⟩
@[reducible] def Fld.TALY_AGE_LINE_AGE_ENT : Fld := ⟨.TALY_AGE_LINE, 22, 16⟩
@[reducible] def Fld.TALY_AGE_LINE_AGE_ENT_MIN : Fld := ⟨.TALY_AGE_LINE, 6, 0⟩
@[reducible] def Fld.TALY_SNAP_ST_SNAP_SEQ : Fld := ⟨.TALY_SNAP_ST, 63, 44⟩
@[reducible] def Fld.TALY_SNAP_ST_TRIG_IDX : Fld := ⟨.TALY_SNAP_ST, 43, 24⟩
@[reducible] def Fld.TALY_SNAP_ST_REGION : Fld := ⟨.TALY_SNAP_ST, 23, 16⟩
@[reducible] def Fld.TALY_SNAP_ST_POST : Fld := ⟨.TALY_SNAP_ST, 15, 12⟩
@[reducible] def Fld.TALY_SNAP_ST_DECIM : Fld := ⟨.TALY_SNAP_ST, 11, 9⟩
@[reducible] def Fld.TALY_SNAP_ST_SNAP_OVR : Fld := ⟨.TALY_SNAP_ST, 8, 3⟩
@[reducible] def Fld.TALY_SNAP_ST_SSTATE : Fld := ⟨.TALY_SNAP_ST, 2, 0⟩
@[reducible] def Fld.TALY_REFUSE_STICKY : Fld := ⟨.TALY_REFUSE, 31, 31⟩
@[reducible] def Fld.TALY_REFUSE_LAST_CAUSE : Fld := ⟨.TALY_REFUSE, 19, 16⟩
@[reducible] def Fld.TALY_REFUSE_COUNT : Fld := ⟨.TALY_REFUSE, 15, 0⟩
@[reducible] def Fld.TALY_EVT_CFG_REFUSED : Fld := ⟨.TALY_EVT, 8, 8⟩
@[reducible] def Fld.TALY_EVT_REF_CHECK : Fld := ⟨.TALY_EVT, 7, 7⟩
@[reducible] def Fld.TALY_EVT_SNAP_OVR : Fld := ⟨.TALY_EVT, 6, 6⟩
@[reducible] def Fld.TALY_EVT_SNAP_DONE : Fld := ⟨.TALY_EVT, 5, 5⟩
@[reducible] def Fld.TALY_EVT_SNAP_TRIG : Fld := ⟨.TALY_EVT, 4, 4⟩
@[reducible] def Fld.TALY_EVT_TJ_FALLBACK : Fld := ⟨.TALY_EVT, 3, 3⟩
@[reducible] def Fld.TALY_EVT_JS_EXCLUDED : Fld := ⟨.TALY_EVT, 2, 2⟩
@[reducible] def Fld.TALY_EVT_OVR : Fld := ⟨.TALY_EVT, 1, 1⟩
@[reducible] def Fld.TALY_EVT_TRIG_OVR : Fld := ⟨.TALY_EVT, 0, 0⟩
@[reducible] def Fld.TALY_AGE_EVT_LANE_LOW : Fld := ⟨.TALY_AGE_EVT, 2, 2⟩
@[reducible] def Fld.TALY_AGE_EVT_LIMITED : Fld := ⟨.TALY_AGE_EVT, 1, 1⟩
@[reducible] def Fld.TALY_AGE_EVT_REPLAN : Fld := ⟨.TALY_AGE_EVT, 0, 0⟩
@[reducible] def Fld.TALY_AGE_CFG_LANE_MIN : Fld := ⟨.TALY_AGE_CFG, 47, 40⟩
@[reducible] def Fld.TALY_AGE_CFG_KV : Fld := ⟨.TALY_AGE_CFG, 39, 32⟩
@[reducible] def Fld.TALY_AGE_CFG_REPLAN_HOUR : Fld := ⟨.TALY_AGE_CFG, 31, 24⟩
@[reducible] def Fld.TALY_AGE_CFG_REPLAN_D : Fld := ⟨.TALY_AGE_CFG, 23, 16⟩
@[reducible] def Fld.TALY_AGE_CFG_AGE_ITER_MIN : Fld := ⟨.TALY_AGE_CFG, 15, 8⟩
@[reducible] def Fld.TALY_AGE_CFG_REPLAN_EN : Fld := ⟨.TALY_AGE_CFG, 0, 0⟩
@[reducible] def Fld.TALY_AGE_ST_DRIFT : Fld := ⟨.TALY_AGE_ST, 63, 48⟩
@[reducible] def Fld.TALY_AGE_ST_WORST_PDM : Fld := ⟨.TALY_AGE_ST, 47, 40⟩
@[reducible] def Fld.TALY_AGE_ST_AGE_OFS : Fld := ⟨.TALY_AGE_ST, 39, 32⟩
@[reducible] def Fld.TALY_AGE_ST_AGE_ITER : Fld := ⟨.TALY_AGE_ST, 26, 22⟩
@[reducible] def Fld.TALY_AGE_ST_LOG_LAST : Fld := ⟨.TALY_AGE_ST, 21, 16⟩
@[reducible] def Fld.TALY_AGE_ST_DAYS : Fld := ⟨.TALY_AGE_ST, 15, 0⟩
@[reducible] def Fld.TALY_MON_CFG_REC_URG : Fld := ⟨.TALY_MON_CFG, 41, 41⟩
@[reducible] def Fld.TALY_MON_CFG_MON_RING : Fld := ⟨.TALY_MON_CFG, 40, 26⟩
@[reducible] def Fld.TALY_MON_CFG_MON_EN : Fld := ⟨.TALY_MON_CFG, 24, 24⟩
@[reducible] def Fld.TALY_MON_CFG_TRIG_EN : Fld := ⟨.TALY_MON_CFG, 23, 20⟩
@[reducible] def Fld.TALY_MON_CFG_PERIOD : Fld := ⟨.TALY_MON_CFG, 19, 0⟩
@[reducible] def Fld.TALY_MON_CTL_TRIG : Fld := ⟨.TALY_MON_CTL, 0, 0⟩
@[reducible] def Fld.TALY_URG_DONE : Fld := ⟨.TALY_URG, 31, 31⟩
@[reducible] def Fld.TALY_URG_GO : Fld := ⟨.TALY_URG, 30, 30⟩
@[reducible] def Fld.TALY_URG_STEP : Fld := ⟨.TALY_URG, 26, 0⟩
@[reducible] def Fld.TALY_MON_ST_TRIG_OVR_CNT : Fld := ⟨.TALY_MON_ST, 63, 48⟩
@[reducible] def Fld.TALY_MON_ST_SEQ : Fld := ⟨.TALY_MON_ST, 47, 32⟩
@[reducible] def Fld.TALY_MON_ST_URG_OVR : Fld := ⟨.TALY_MON_ST, 31, 24⟩
@[reducible] def Fld.TALY_MON_ST_REF_BAD : Fld := ⟨.TALY_MON_ST, 9, 9⟩
@[reducible] def Fld.TALY_MON_ST_URG_BUSY : Fld := ⟨.TALY_MON_ST, 8, 8⟩
@[reducible] def Fld.TALY_MON_ST_PENDING : Fld := ⟨.TALY_MON_ST, 7, 7⟩
@[reducible] def Fld.TALY_MON_ST_RUNNING : Fld := ⟨.TALY_MON_ST, 6, 6⟩
@[reducible] def Fld.TALY_MON_ST_ENTRY : Fld := ⟨.TALY_MON_ST, 4, 0⟩
@[reducible] def Fld.TALY_MON_RES_OVR : Fld := ⟨.TALY_MON_RES, 21, 21⟩
@[reducible] def Fld.TALY_MON_RES_INPUT : Fld := ⟨.TALY_MON_RES, 20, 16⟩
@[reducible] def Fld.TALY_MON_RES_VALUE : Fld := ⟨.TALY_MON_RES, 15, 0⟩
@[reducible] def Fld.TALY_URG_RES_OVR : Fld := ⟨.TALY_URG_RES, 21, 21⟩
@[reducible] def Fld.TALY_URG_RES_INPUT : Fld := ⟨.TALY_URG_RES, 20, 16⟩
@[reducible] def Fld.TALY_URG_RES_VALUE : Fld := ⟨.TALY_URG_RES, 15, 0⟩
@[reducible] def Fld.TALY_SEQ_REC : Fld := ⟨.TALY_SEQ, 28, 28⟩
@[reducible] def Fld.TALY_SEQ_LAST : Fld := ⟨.TALY_SEQ, 27, 27⟩
@[reducible] def Fld.TALY_SEQ_AVG : Fld := ⟨.TALY_SEQ, 26, 24⟩
@[reducible] def Fld.TALY_SEQ_EN : Fld := ⟨.TALY_SEQ, 23, 20⟩
@[reducible] def Fld.TALY_SEQ_IN0 : Fld := ⟨.TALY_SEQ, 4, 0⟩
@[reducible] def Fld.TALY_SEQ_IN1 : Fld := ⟨.TALY_SEQ, 9, 5⟩
@[reducible] def Fld.TALY_SEQ_IN2 : Fld := ⟨.TALY_SEQ, 14, 10⟩
@[reducible] def Fld.TALY_SEQ_IN3 : Fld := ⟨.TALY_SEQ, 19, 15⟩
@[reducible] def Fld.TALY_JS_EXCLUDED : Fld := ⟨.TALY_JS, 17, 17⟩
@[reducible] def Fld.TALY_JS_VALID : Fld := ⟨.TALY_JS, 16, 16⟩
@[reducible] def Fld.TALY_JS_TEMP : Fld := ⟨.TALY_JS, 15, 0⟩
@[reducible] def Fld.TALY_PDM_BASE : Fld := ⟨.TALY_PDM, 31, 16⟩
@[reducible] def Fld.TALY_PDM_NOW : Fld := ⟨.TALY_PDM, 15, 0⟩
@[reducible] def Fld.TALY_AGE_LOG_SEQ : Fld := ⟨.TALY_AGE_LOG, 31, 0⟩
@[reducible] def Fld.TALY_AGE_LOG_SECONDS : Fld := ⟨.TALY_AGE_LOG, 79, 32⟩
@[reducible] def Fld.TALY_AGE_LOG_KIND : Fld := ⟨.TALY_AGE_LOG, 87, 80⟩
@[reducible] def Fld.TALY_AGE_LOG_UNIT : Fld := ⟨.TALY_AGE_LOG, 95, 88⟩
@[reducible] def Fld.TALY_AGE_LOG_OLD : Fld := ⟨.TALY_AGE_LOG, 111, 96⟩
@[reducible] def Fld.TALY_AGE_LOG_NEW : Fld := ⟨.TALY_AGE_LOG, 127, 112⟩
@[reducible] def Fld.TALY_AGE_LOG_BASIS : Fld := ⟨.TALY_AGE_LOG, 159, 128⟩
@[reducible] def Fld.TALY_AGE_LOG_FLAGS : Fld := ⟨.TALY_AGE_LOG, 167, 160⟩
@[reducible] def Fld.TALY_AGE_LOG_CRC : Fld := ⟨.TALY_AGE_LOG, 255, 224⟩
@[reducible] def Fld.STRD_DAC_CFG_INVERT : Fld := ⟨.STRD_DAC_CFG, 8, 8⟩
@[reducible] def Fld.STRD_DAC_CFG_SWING : Fld := ⟨.STRD_DAC_CFG, 5, 0⟩
@[reducible] def Fld.STRD_DAC_CAL_FG_REFUSED : Fld := ⟨.STRD_DAC_CAL, 4, 4⟩
@[reducible] def Fld.STRD_DAC_CAL_FG_STATE : Fld := ⟨.STRD_DAC_CAL, 3, 2⟩
@[reducible] def Fld.STRD_DAC_CAL_BG_EN : Fld := ⟨.STRD_DAC_CAL, 1, 1⟩
@[reducible] def Fld.STRD_DAC_CAL_FG_REQ : Fld := ⟨.STRD_DAC_CAL, 0, 0⟩
@[reducible] def Fld.STRD_ADC_CFG_SKEW : Fld := ⟨.STRD_ADC_CFG, 27, 16⟩
@[reducible] def Fld.STRD_ADC_CFG_INVERT : Fld := ⟨.STRD_ADC_CFG, 8, 8⟩
@[reducible] def Fld.STRD_ADC_CFG_FS : Fld := ⟨.STRD_ADC_CFG, 5, 0⟩
@[reducible] def Fld.STRD_ADC_CAL_FG_REFUSED : Fld := ⟨.STRD_ADC_CAL, 4, 4⟩
@[reducible] def Fld.STRD_ADC_CAL_FG_STATE : Fld := ⟨.STRD_ADC_CAL, 3, 2⟩
@[reducible] def Fld.STRD_ADC_CAL_BG_EN : Fld := ⟨.STRD_ADC_CAL, 1, 1⟩
@[reducible] def Fld.STRD_ADC_CAL_FG_REQ : Fld := ⟨.STRD_ADC_CAL, 0, 0⟩
@[reducible] def Fld.STRD_ADC_STAT_PEAK : Fld := ⟨.STRD_ADC_STAT, 15, 8⟩
@[reducible] def Fld.STRD_ADC_STAT_PWR : Fld := ⟨.STRD_ADC_STAT, 7, 0⟩
@[reducible] def Fld.STRD_EVT_ADC_STEP : Fld := ⟨.STRD_EVT, 3, 3⟩
@[reducible] def Fld.STRD_EVT_ADC_FG_FAIL : Fld := ⟨.STRD_EVT, 2, 2⟩
@[reducible] def Fld.STRD_EVT_DAC_STEP : Fld := ⟨.STRD_EVT, 1, 1⟩
@[reducible] def Fld.STRD_EVT_DAC_FG_FAIL : Fld := ⟨.STRD_EVT, 0, 0⟩
@[reducible] def Fld.BRAD_COMMIT_CRC : Fld := ⟨.BRAD_COMMIT, 31, 0⟩
@[reducible] def Fld.BRAD_COMMIT_ST_SHADOW_CRC : Fld := ⟨.BRAD_COMMIT_ST, 63, 32⟩
@[reducible] def Fld.BRAD_COMMIT_ST_APPLIED : Fld := ⟨.BRAD_COMMIT_ST, 31, 16⟩
@[reducible] def Fld.BRAD_COMMIT_ST_CRC_BAD : Fld := ⟨.BRAD_COMMIT_ST, 15, 8⟩
@[reducible] def Fld.BRAD_COMMIT_ST_LAST : Fld := ⟨.BRAD_COMMIT_ST, 1, 0⟩
@[reducible] def Fld.BRAD_REFUSE_STICKY : Fld := ⟨.BRAD_REFUSE, 31, 31⟩
@[reducible] def Fld.BRAD_REFUSE_LAST_LINE : Fld := ⟨.BRAD_REFUSE, 21, 20⟩
@[reducible] def Fld.BRAD_REFUSE_LAST_CAUSE : Fld := ⟨.BRAD_REFUSE, 19, 16⟩
@[reducible] def Fld.BRAD_REFUSE_COUNT : Fld := ⟨.BRAD_REFUSE, 15, 0⟩
@[reducible] def Fld.BRAD_LINE_CFG_PILOT_BOOST : Fld := ⟨.BRAD_LINE_CFG, 20, 16⟩
@[reducible] def Fld.BRAD_LINE_CFG_LINE_DOM : Fld := ⟨.BRAD_LINE_CFG, 15, 12⟩
@[reducible] def Fld.BRAD_LINE_CFG_ANN_COUNT : Fld := ⟨.BRAD_LINE_CFG, 11, 8⟩
@[reducible] def Fld.BRAD_LINE_CFG_LOAD_AUTO : Fld := ⟨.BRAD_LINE_CFG, 4, 4⟩
@[reducible] def Fld.BRAD_LINE_CFG_ROLLOFF : Fld := ⟨.BRAD_LINE_CFG, 3, 0⟩
@[reducible] def Fld.BRAD_CDPRE_CD_PRE : Fld := ⟨.BRAD_CDPRE, 15, 0⟩
@[reducible] def Fld.BRAD_LOAD_CFG_MAN_GO : Fld := ⟨.BRAD_LOAD_CFG, 63, 63⟩
@[reducible] def Fld.BRAD_LOAD_CFG_ARM_TIMEOUT : Fld := ⟨.BRAD_LOAD_CFG, 41, 32⟩
@[reducible] def Fld.BRAD_LOAD_CFG_FALLBACK : Fld := ⟨.BRAD_LOAD_CFG, 25, 20⟩
@[reducible] def Fld.BRAD_LOAD_CFG_DWELL : Fld := ⟨.BRAD_LOAD_CFG, 19, 12⟩
@[reducible] def Fld.BRAD_LOAD_CFG_HYST : Fld := ⟨.BRAD_LOAD_CFG, 11, 8⟩
@[reducible] def Fld.BRAD_LOAD_CFG_MARGIN : Fld := ⟨.BRAD_LOAD_CFG, 7, 0⟩
@[reducible] def Fld.BRAD_LOAD_STAT_LAYOUT_MISMATCH : Fld := ⟨.BRAD_LOAD_STAT, 18, 18⟩
@[reducible] def Fld.BRAD_LOAD_STAT_FAR_FALLBACK : Fld := ⟨.BRAD_LOAD_STAT, 17, 17⟩
@[reducible] def Fld.BRAD_LOAD_STAT_RX_FALLBACK : Fld := ⟨.BRAD_LOAD_STAT, 16, 16⟩
@[reducible] def Fld.BRAD_LOAD_STAT_COUNT : Fld := ⟨.BRAD_LOAD_STAT, 15, 12⟩
@[reducible] def Fld.BRAD_LOAD_STAT_STATE : Fld := ⟨.BRAD_LOAD_STAT, 10, 8⟩
@[reducible] def Fld.BRAD_LOAD_STAT_PEND_ID : Fld := ⟨.BRAD_LOAD_STAT, 7, 4⟩
@[reducible] def Fld.BRAD_LOAD_STAT_ACTIVE_ID : Fld := ⟨.BRAD_LOAD_STAT, 3, 0⟩
@[reducible] def Fld.BRAD_LOAD_EVT_MISMATCH : Fld := ⟨.BRAD_LOAD_EVT, 5, 5⟩
@[reducible] def Fld.BRAD_LOAD_EVT_FORCED_START : Fld := ⟨.BRAD_LOAD_EVT, 4, 4⟩
@[reducible] def Fld.BRAD_LOAD_EVT_FLOOR_HELD : Fld := ⟨.BRAD_LOAD_EVT, 3, 3⟩
@[reducible] def Fld.BRAD_LOAD_EVT_REJECTED : Fld := ⟨.BRAD_LOAD_EVT, 2, 2⟩
@[reducible] def Fld.BRAD_LOAD_EVT_TIMEOUT : Fld := ⟨.BRAD_LOAD_EVT, 1, 1⟩
@[reducible] def Fld.BRAD_LOAD_EVT_SWITCHED : Fld := ⟨.BRAD_LOAD_EVT, 0, 0⟩
@[reducible] def Fld.BRAD_SC_CFG_SC_DOM : Fld := ⟨.BRAD_SC_CFG, 19, 16⟩
@[reducible] def Fld.BRAD_SC_CFG_GAIN : Fld := ⟨.BRAD_SC_CFG, 14, 8⟩
@[reducible] def Fld.BRAD_SC_CFG_WIDTH : Fld := ⟨.BRAD_SC_CFG, 2, 0⟩
@[reducible] def Fld.BRAD_SC_LOAD_CEIL_ENT : Fld := ⟨.BRAD_SC_LOAD, 22, 16⟩
@[reducible] def Fld.BRAD_SC_LOAD_FLOOR_ENT : Fld := ⟨.BRAD_SC_LOAD, 15, 9⟩
@[reducible] def Fld.BRAD_SC_LOAD_START_ENT : Fld := ⟨.BRAD_SC_LOAD, 8, 2⟩
@[reducible] def Fld.BRAD_SC_LOAD_START_BASE : Fld := ⟨.BRAD_SC_LOAD, 1, 0⟩
@[reducible] def Fld.BRAD_SC_ACT_CAP_TS : Fld := ⟨.BRAD_SC_ACT, 33, 24⟩
@[reducible] def Fld.BRAD_SC_ACT_FAR_SNR : Fld := ⟨.BRAD_SC_ACT, 23, 16⟩
@[reducible] def Fld.BRAD_SC_ACT_EFF_CEIL : Fld := ⟨.BRAD_SC_ACT, 15, 9⟩
@[reducible] def Fld.BRAD_SC_ACT_ENT : Fld := ⟨.BRAD_SC_ACT, 8, 2⟩
@[reducible] def Fld.BRAD_SC_ACT_BASE : Fld := ⟨.BRAD_SC_ACT, 1, 0⟩
@[reducible] def Fld.BRAD_MAP_THRESH : Fld := ⟨.BRAD_MAP, 15, 8⟩
@[reducible] def Fld.BRAD_MAP_BASE : Fld := ⟨.BRAD_MAP, 1, 0⟩
@[reducible] def Fld.BRAD_TRIB_SKEW : Fld := ⟨.BRAD_TRIB, 11, 0⟩
@[reducible] def Fld.BRAD_POL_IQ_PHASE : Fld := ⟨.BRAD_POL, 15, 8⟩
@[reducible] def Fld.BRAD_POL_IQ_GAIN : Fld := ⟨.BRAD_POL, 7, 0⟩
@[reducible] def Fld.BRAD_PD_FIR_COEF : Fld := ⟨.BRAD_PD_FIR, 15, 0⟩
@[reducible] def Fld.BRAD_PD_LUT_CODE : Fld := ⟨.BRAD_PD_LUT, 7, 0⟩
@[reducible] def Fld.SPLC_COMMIT_CRC : Fld := ⟨.SPLC_COMMIT, 31, 0⟩
@[reducible] def Fld.SPLC_COMMIT_ST_SHADOW_CRC : Fld := ⟨.SPLC_COMMIT_ST, 63, 32⟩
@[reducible] def Fld.SPLC_COMMIT_ST_APPLIED : Fld := ⟨.SPLC_COMMIT_ST, 31, 16⟩
@[reducible] def Fld.SPLC_COMMIT_ST_CRC_BAD : Fld := ⟨.SPLC_COMMIT_ST, 15, 8⟩
@[reducible] def Fld.SPLC_COMMIT_ST_LAST : Fld := ⟨.SPLC_COMMIT_ST, 1, 0⟩
@[reducible] def Fld.SPLC_REFUSE_STICKY : Fld := ⟨.SPLC_REFUSE, 31, 31⟩
@[reducible] def Fld.SPLC_REFUSE_LAST_LINE : Fld := ⟨.SPLC_REFUSE, 21, 20⟩
@[reducible] def Fld.SPLC_REFUSE_LAST_CAUSE : Fld := ⟨.SPLC_REFUSE, 19, 16⟩
@[reducible] def Fld.SPLC_REFUSE_COUNT : Fld := ⟨.SPLC_REFUSE, 15, 0⟩
@[reducible] def Fld.SPLC_LINE_CFG_FREEZE_HOLD : Fld := ⟨.SPLC_LINE_CFG, 25, 16⟩
@[reducible] def Fld.SPLC_LINE_CFG_CD_MODE : Fld := ⟨.SPLC_LINE_CFG, 14, 13⟩
@[reducible] def Fld.SPLC_LINE_CFG_LOS_PIN_EN : Fld := ⟨.SPLC_LINE_CFG, 12, 12⟩
@[reducible] def Fld.SPLC_LINE_CFG_LOS_HYST : Fld := ⟨.SPLC_LINE_CFG, 11, 8⟩
@[reducible] def Fld.SPLC_LINE_CFG_LOS_THR : Fld := ⟨.SPLC_LINE_CFG, 7, 0⟩
@[reducible] def Fld.SPLC_CD_CFG_CD_WIN : Fld := ⟨.SPLC_CD_CFG, 31, 16⟩
@[reducible] def Fld.SPLC_CD_CFG_CD_HINT : Fld := ⟨.SPLC_CD_CFG, 15, 0⟩
@[reducible] def Fld.SPLC_ADAPT_CFG_DIVERGE : Fld := ⟨.SPLC_ADAPT_CFG, 29, 24⟩
@[reducible] def Fld.SPLC_ADAPT_CFG_UPD_MAX : Fld := ⟨.SPLC_ADAPT_CFG, 21, 20⟩
@[reducible] def Fld.SPLC_ADAPT_CFG_CMA_LEN : Fld := ⟨.SPLC_ADAPT_CFG, 19, 16⟩
@[reducible] def Fld.SPLC_ADAPT_CFG_MU_TRK : Fld := ⟨.SPLC_ADAPT_CFG, 12, 8⟩
@[reducible] def Fld.SPLC_ADAPT_CFG_MU_ACQ : Fld := ⟨.SPLC_ADAPT_CFG, 4, 0⟩
@[reducible] def Fld.SPLC_CR_CFG_BPS_EN : Fld := ⟨.SPLC_CR_CFG, 16, 16⟩
@[reducible] def Fld.SPLC_CR_CFG_BPS_N : Fld := ⟨.SPLC_CR_CFG, 9, 4⟩
@[reducible] def Fld.SPLC_CR_CFG_PH_WIN : Fld := ⟨.SPLC_CR_CFG, 3, 0⟩
@[reducible] def Fld.SPLC_TAP_LIM_MAX : Fld := ⟨.SPLC_TAP_LIM, 13, 8⟩
@[reducible] def Fld.SPLC_TAP_LIM_MIN : Fld := ⟨.SPLC_TAP_LIM, 5, 0⟩
@[reducible] def Fld.SPLC_CMD_REACQ : Fld := ⟨.SPLC_CMD, 1, 1⟩
@[reducible] def Fld.SPLC_CMD_FREEZE : Fld := ⟨.SPLC_CMD, 0, 0⟩
@[reducible] def Fld.SPLC_STAT_CHAN_SEQ : Fld := ⟨.SPLC_STAT, 31, 24⟩
@[reducible] def Fld.SPLC_STAT_ARMED : Fld := ⟨.SPLC_STAT, 20, 20⟩
@[reducible] def Fld.SPLC_STAT_ARMED_ID : Fld := ⟨.SPLC_STAT, 19, 16⟩
@[reducible] def Fld.SPLC_STAT_ACTIVE_ID : Fld := ⟨.SPLC_STAT, 15, 12⟩
@[reducible] def Fld.SPLC_STAT_WARM_PEND : Fld := ⟨.SPLC_STAT, 10, 10⟩
@[reducible] def Fld.SPLC_STAT_FROZEN : Fld := ⟨.SPLC_STAT, 9, 9⟩
@[reducible] def Fld.SPLC_STAT_MF_LOCK : Fld := ⟨.SPLC_STAT, 8, 8⟩
@[reducible] def Fld.SPLC_STAT_OVR : Fld := ⟨.SPLC_STAT, 7, 7⟩
@[reducible] def Fld.SPLC_STAT_LOS_PIN : Fld := ⟨.SPLC_STAT, 6, 6⟩
@[reducible] def Fld.SPLC_STAT_RAW_LOS : Fld := ⟨.SPLC_STAT, 5, 5⟩
@[reducible] def Fld.SPLC_STAT_STATE : Fld := ⟨.SPLC_STAT, 3, 0⟩
@[reducible] def Fld.SPLC_EST_FOFF : Fld := ⟨.SPLC_EST, 63, 48⟩
@[reducible] def Fld.SPLC_EST_OSNR : Fld := ⟨.SPLC_EST, 47, 36⟩
@[reducible] def Fld.SPLC_EST_PDL : Fld := ⟨.SPLC_EST, 35, 28⟩
@[reducible] def Fld.SPLC_EST_DGD : Fld := ⟨.SPLC_EST, 27, 16⟩
@[reducible] def Fld.SPLC_EST_CD : Fld := ⟨.SPLC_EST, 15, 0⟩
@[reducible] def Fld.SPLC_EST2_LINE_RESTARTS : Fld := ⟨.SPLC_EST2, 63, 48⟩
@[reducible] def Fld.SPLC_EST2_OVR_CNT : Fld := ⟨.SPLC_EST2, 47, 32⟩
@[reducible] def Fld.SPLC_EST2_SOP_PEAK : Fld := ⟨.SPLC_EST2, 31, 16⟩
@[reducible] def Fld.SPLC_EST2_CLK_OFF : Fld := ⟨.SPLC_EST2, 15, 0⟩
@[reducible] def Fld.SPLC_EVT_SWITCHED : Fld := ⟨.SPLC_EVT, 8, 8⟩
@[reducible] def Fld.SPLC_EVT_FOFF_RANGE : Fld := ⟨.SPLC_EVT, 7, 7⟩
@[reducible] def Fld.SPLC_EVT_MARKER_LOST : Fld := ⟨.SPLC_EVT, 6, 6⟩
@[reducible] def Fld.SPLC_EVT_OVERRANGE : Fld := ⟨.SPLC_EVT, 5, 5⟩
@[reducible] def Fld.SPLC_EVT_CD_FAIL : Fld := ⟨.SPLC_EVT, 4, 4⟩
@[reducible] def Fld.SPLC_EVT_DIVERGED : Fld := ⟨.SPLC_EVT, 3, 3⟩
@[reducible] def Fld.SPLC_EVT_COLD : Fld := ⟨.SPLC_EVT, 2, 2⟩
@[reducible] def Fld.SPLC_EVT_LOS_RISE : Fld := ⟨.SPLC_EVT, 1, 1⟩
@[reducible] def Fld.SPLC_EVT_ACQ_DONE : Fld := ⟨.SPLC_EVT, 0, 0⟩
@[reducible] def Fld.SPLC_SC_CFG_RX_START_ENT : Fld := ⟨.SPLC_SC_CFG, 22, 16⟩
@[reducible] def Fld.SPLC_SC_CFG_RX_START_BASE : Fld := ⟨.SPLC_SC_CFG, 9, 8⟩
@[reducible] def Fld.SPLC_SC_CFG_WIDTH : Fld := ⟨.SPLC_SC_CFG, 2, 0⟩
@[reducible] def Fld.SPLC_SC_EST_LOCK : Fld := ⟨.SPLC_SC_EST, 50, 50⟩
@[reducible] def Fld.SPLC_SC_EST_UPD : Fld := ⟨.SPLC_SC_EST, 49, 48⟩
@[reducible] def Fld.SPLC_SC_EST_DEMAND : Fld := ⟨.SPLC_SC_EST, 45, 40⟩
@[reducible] def Fld.SPLC_SC_EST_TAPS : Fld := ⟨.SPLC_SC_EST, 37, 32⟩
@[reducible] def Fld.SPLC_SC_EST_DGD_SC : Fld := ⟨.SPLC_SC_EST, 31, 24⟩
@[reducible] def Fld.SPLC_SC_EST_SNR : Fld := ⟨.SPLC_SC_EST, 23, 16⟩
@[reducible] def Fld.SPLC_SC_EST_SNR_Y : Fld := ⟨.SPLC_SC_EST, 15, 8⟩
@[reducible] def Fld.SPLC_SC_EST_SNR_X : Fld := ⟨.SPLC_SC_EST, 7, 0⟩
@[reducible] def Fld.SPLC_SC_HIST_RESTARTS : Fld := ⟨.SPLC_SC_HIST, 31, 16⟩
@[reducible] def Fld.SPLC_SC_HIST_SNR_MAX : Fld := ⟨.SPLC_SC_HIST, 15, 8⟩
@[reducible] def Fld.SPLC_SC_HIST_SNR_MIN : Fld := ⟨.SPLC_SC_HIST, 7, 0⟩
@[reducible] def Fld.SPLC_CHAN_X : Fld := ⟨.SPLC_CHAN, 7, 0⟩
@[reducible] def Fld.SPLC_CHAN_Y : Fld := ⟨.SPLC_CHAN, 15, 8⟩
@[reducible] def Fld.BGHT_COMMIT_CRC : Fld := ⟨.BGHT_COMMIT, 31, 0⟩
@[reducible] def Fld.BGHT_COMMIT_ST_SHADOW_CRC : Fld := ⟨.BGHT_COMMIT_ST, 63, 32⟩
@[reducible] def Fld.BGHT_COMMIT_ST_APPLIED : Fld := ⟨.BGHT_COMMIT_ST, 31, 16⟩
@[reducible] def Fld.BGHT_COMMIT_ST_CRC_BAD : Fld := ⟨.BGHT_COMMIT_ST, 15, 8⟩
@[reducible] def Fld.BGHT_COMMIT_ST_LAST : Fld := ⟨.BGHT_COMMIT_ST, 1, 0⟩
@[reducible] def Fld.BGHT_REFUSE_STICKY : Fld := ⟨.BGHT_REFUSE, 31, 31⟩
@[reducible] def Fld.BGHT_REFUSE_LAST_LINE : Fld := ⟨.BGHT_REFUSE, 21, 20⟩
@[reducible] def Fld.BGHT_REFUSE_LAST_CAUSE : Fld := ⟨.BGHT_REFUSE, 19, 16⟩
@[reducible] def Fld.BGHT_REFUSE_COUNT : Fld := ⟨.BGHT_REFUSE, 15, 0⟩
@[reducible] def Fld.BGHT_LINE_CFG_RNG_BASE : Fld := ⟨.BGHT_LINE_CFG, 31, 22⟩
@[reducible] def Fld.BGHT_LINE_CFG_DN_LEAD : Fld := ⟨.BGHT_LINE_CFG, 21, 14⟩
@[reducible] def Fld.BGHT_LINE_CFG_REPEAT : Fld := ⟨.BGHT_LINE_CFG, 13, 12⟩
@[reducible] def Fld.BGHT_LINE_CFG_MAP_LEAD : Fld := ⟨.BGHT_LINE_CFG, 11, 8⟩
@[reducible] def Fld.BGHT_LINE_CFG_CTRL_SLOT : Fld := ⟨.BGHT_LINE_CFG, 4, 0⟩
@[reducible] def Fld.BGHT_DISC_CFG_STALE_S : Fld := ⟨.BGHT_DISC_CFG, 31, 24⟩
@[reducible] def Fld.BGHT_DISC_CFG_RNG_PER_CYCLE : Fld := ⟨.BGHT_DISC_CFG, 23, 16⟩
@[reducible] def Fld.BGHT_DISC_CFG_DISC_ON : Fld := ⟨.BGHT_DISC_CFG, 15, 15⟩
@[reducible] def Fld.BGHT_DISC_CFG_DISC_INT : Fld := ⟨.BGHT_DISC_CFG, 13, 0⟩
@[reducible] def Fld.BGHT_ACQ_CFG_TA_THR : Fld := ⟨.BGHT_ACQ_CFG, 27, 24⟩
@[reducible] def Fld.BGHT_ACQ_CFG_CAPT_DB : Fld := ⟨.BGHT_ACQ_CFG, 19, 16⟩
@[reducible] def Fld.BGHT_ACQ_CFG_RELOCK_DB : Fld := ⟨.BGHT_ACQ_CFG, 15, 12⟩
@[reducible] def Fld.BGHT_ACQ_CFG_DISC_ADD : Fld := ⟨.BGHT_ACQ_CFG, 11, 8⟩
@[reducible] def Fld.BGHT_ACQ_CFG_DET_THR : Fld := ⟨.BGHT_ACQ_CFG, 7, 0⟩
@[reducible] def Fld.BGHT_STAT_LOST : Fld := ⟨.BGHT_STAT, 50, 42⟩
@[reducible] def Fld.BGHT_STAT_STALE : Fld := ⟨.BGHT_STAT, 41, 33⟩
@[reducible] def Fld.BGHT_STAT_ACTIVE : Fld := ⟨.BGHT_STAT, 32, 24⟩
@[reducible] def Fld.BGHT_STAT_CTRL_OK : Fld := ⟨.BGHT_STAT, 23, 23⟩
@[reducible] def Fld.BGHT_STAT_DISC_OPEN : Fld := ⟨.BGHT_STAT, 22, 22⟩
@[reducible] def Fld.BGHT_STAT_PERIOD : Fld := ⟨.BGHT_STAT, 21, 0⟩
@[reducible] def Fld.BGHT_EVT_CTRL_LAYOUT : Fld := ⟨.BGHT_EVT, 9, 9⟩
@[reducible] def Fld.BGHT_EVT_DYING_GASP : Fld := ⟨.BGHT_EVT, 8, 8⟩
@[reducible] def Fld.BGHT_EVT_UNEXPECTED : Fld := ⟨.BGHT_EVT, 7, 7⟩
@[reducible] def Fld.BGHT_EVT_DUP_SERIAL : Fld := ⟨.BGHT_EVT, 6, 6⟩
@[reducible] def Fld.BGHT_EVT_UNKNOWN_SERIAL : Fld := ⟨.BGHT_EVT, 5, 5⟩
@[reducible] def Fld.BGHT_EVT_COLLIDED : Fld := ⟨.BGHT_EVT, 4, 4⟩
@[reducible] def Fld.BGHT_EVT_RNG_FAIL : Fld := ⟨.BGHT_EVT, 3, 3⟩
@[reducible] def Fld.BGHT_EVT_LOST : Fld := ⟨.BGHT_EVT, 2, 2⟩
@[reducible] def Fld.BGHT_EVT_STALE : Fld := ⟨.BGHT_EVT, 1, 1⟩
@[reducible] def Fld.BGHT_EVT_ACTIVE : Fld := ⟨.BGHT_EVT, 0, 0⟩
@[reducible] def Fld.BGHT_UP_CFG_UP_DOM : Fld := ⟨.BGHT_UP_CFG, 19, 16⟩
@[reducible] def Fld.BGHT_UP_CFG_TAPS : Fld := ⟨.BGHT_UP_CFG, 13, 8⟩
@[reducible] def Fld.BGHT_UP_CFG_DISC_EN : Fld := ⟨.BGHT_UP_CFG, 3, 3⟩
@[reducible] def Fld.BGHT_UP_CFG_WIDTH : Fld := ⟨.BGHT_UP_CFG, 2, 0⟩
@[reducible] def Fld.BGHT_LEAF_UP_CEIL_ENT : Fld := ⟨.BGHT_LEAF, 178, 172⟩
@[reducible] def Fld.BGHT_LEAF_UP_FLOOR_ENT : Fld := ⟨.BGHT_LEAF, 171, 165⟩
@[reducible] def Fld.BGHT_LEAF_UP_START_BASE : Fld := ⟨.BGHT_LEAF, 164, 163⟩
@[reducible] def Fld.BGHT_LEAF_UP_START_ENT : Fld := ⟨.BGHT_LEAF, 162, 156⟩
@[reducible] def Fld.BGHT_LEAF_POLL_P : Fld := ⟨.BGHT_LEAF, 155, 136⟩
@[reducible] def Fld.BGHT_LEAF_WEIGHT : Fld := ⟨.BGHT_LEAF, 135, 128⟩
@[reducible] def Fld.BGHT_LEAF_MAX_Q : Fld := ⟨.BGHT_LEAF, 121, 108⟩
@[reducible] def Fld.BGHT_LEAF_ASSURED_Q : Fld := ⟨.BGHT_LEAF, 107, 94⟩
@[reducible] def Fld.BGHT_LEAF_FIX_Q : Fld := ⟨.BGHT_LEAF, 93, 80⟩
@[reducible] def Fld.BGHT_LEAF_EN : Fld := ⟨.BGHT_LEAF, 78, 78⟩
@[reducible] def Fld.BGHT_LEAF_LEAF_DOM : Fld := ⟨.BGHT_LEAF, 77, 74⟩
@[reducible] def Fld.BGHT_LEAF_DN_SC : Fld := ⟨.BGHT_LEAF, 73, 69⟩
@[reducible] def Fld.BGHT_LEAF_UP_SC : Fld := ⟨.BGHT_LEAF, 68, 64⟩
@[reducible] def Fld.BGHT_LEAF_SERIAL : Fld := ⟨.BGHT_LEAF, 63, 0⟩
@[reducible] def Fld.BGHT_LEAF_ST_BAD_PROF : Fld := ⟨.BGHT_LEAF_ST, 255, 240⟩
@[reducible] def Fld.BGHT_LEAF_ST_LATE : Fld := ⟨.BGHT_LEAF_ST, 239, 224⟩
@[reducible] def Fld.BGHT_LEAF_ST_MISSED_TOT : Fld := ⟨.BGHT_LEAF_ST, 223, 208⟩
@[reducible] def Fld.BGHT_LEAF_ST_COLLIDED : Fld := ⟨.BGHT_LEAF_ST, 207, 192⟩
@[reducible] def Fld.BGHT_LEAF_ST_BURSTS : Fld := ⟨.BGHT_LEAF_ST, 191, 160⟩
@[reducible] def Fld.BGHT_LEAF_ST_LAST_HEARD : Fld := ⟨.BGHT_LEAF_ST, 159, 128⟩
@[reducible] def Fld.BGHT_LEAF_ST_BPQ : Fld := ⟨.BGHT_LEAF_ST, 127, 112⟩
@[reducible] def Fld.BGHT_LEAF_ST_OVERLAP : Fld := ⟨.BGHT_LEAF_ST, 111, 104⟩
@[reducible] def Fld.BGHT_LEAF_ST_ARR_OFS : Fld := ⟨.BGHT_LEAF_ST, 103, 96⟩
@[reducible] def Fld.BGHT_LEAF_ST_RXPWR : Fld := ⟨.BGHT_LEAF_ST, 87, 80⟩
@[reducible] def Fld.BGHT_LEAF_ST_FOFF : Fld := ⟨.BGHT_LEAF_ST, 79, 64⟩
@[reducible] def Fld.BGHT_LEAF_ST_TA : Fld := ⟨.BGHT_LEAF_ST, 63, 32⟩
@[reducible] def Fld.BGHT_LEAF_ST_DN_SNR : Fld := ⟨.BGHT_LEAF_ST, 31, 24⟩
@[reducible] def Fld.BGHT_LEAF_ST_UP_SNR : Fld := ⟨.BGHT_LEAF_ST, 23, 16⟩
@[reducible] def Fld.BGHT_LEAF_ST_ACT_PROF : Fld := ⟨.BGHT_LEAF_ST, 15, 12⟩
@[reducible] def Fld.BGHT_LEAF_ST_RNG_TRIES : Fld := ⟨.BGHT_LEAF_ST, 11, 8⟩
@[reducible] def Fld.BGHT_LEAF_ST_MISSED : Fld := ⟨.BGHT_LEAF_ST, 7, 4⟩
@[reducible] def Fld.BGHT_LEAF_ST_DGASP : Fld := ⟨.BGHT_LEAF_ST, 3, 3⟩
@[reducible] def Fld.BGHT_LEAF_ST_STATE : Fld := ⟨.BGHT_LEAF_ST, 2, 0⟩
@[reducible] def Fld.CLET_COMMIT_CRC : Fld := ⟨.CLET_COMMIT, 31, 0⟩
@[reducible] def Fld.CLET_COMMIT_ST_SHADOW_CRC : Fld := ⟨.CLET_COMMIT_ST, 63, 32⟩
@[reducible] def Fld.CLET_COMMIT_ST_APPLIED : Fld := ⟨.CLET_COMMIT_ST, 31, 16⟩
@[reducible] def Fld.CLET_COMMIT_ST_CRC_BAD : Fld := ⟨.CLET_COMMIT_ST, 15, 8⟩
@[reducible] def Fld.CLET_COMMIT_ST_LAST : Fld := ⟨.CLET_COMMIT_ST, 1, 0⟩
@[reducible] def Fld.CLET_REFUSE_STICKY : Fld := ⟨.CLET_REFUSE, 31, 31⟩
@[reducible] def Fld.CLET_REFUSE_LAST_LINE : Fld := ⟨.CLET_REFUSE, 21, 20⟩
@[reducible] def Fld.CLET_REFUSE_LAST_CAUSE : Fld := ⟨.CLET_REFUSE, 19, 16⟩
@[reducible] def Fld.CLET_REFUSE_COUNT : Fld := ⟨.CLET_REFUSE, 15, 0⟩
@[reducible] def Fld.CLET_LINE_CFG_OZR_ITER : Fld := ⟨.CLET_LINE_CFG, 23, 21⟩
@[reducible] def Fld.CLET_LINE_CFG_WIN : Fld := ⟨.CLET_LINE_CFG, 20, 16⟩
@[reducible] def Fld.CLET_LINE_CFG_BURST_OH : Fld := ⟨.CLET_LINE_CFG, 9, 8⟩
@[reducible] def Fld.CLET_LINE_CFG_EARLY_EN : Fld := ⟨.CLET_LINE_CFG, 2, 2⟩
@[reducible] def Fld.CLET_LINE_CFG_OH : Fld := ⟨.CLET_LINE_CFG, 1, 0⟩
@[reducible] def Fld.CLET_SD_CFG_SD_SECS : Fld := ⟨.CLET_SD_CFG, 31, 28⟩
@[reducible] def Fld.CLET_SD_CFG_SD_CLR : Fld := ⟨.CLET_SD_CFG, 23, 12⟩
@[reducible] def Fld.CLET_SD_CFG_SD_SET : Fld := ⟨.CLET_SD_CFG, 11, 0⟩
@[reducible] def Fld.CLET_STAT_MIN_MARGIN : Fld := ⟨.CLET_STAT, 31, 16⟩
@[reducible] def Fld.CLET_STAT_SHORT : Fld := ⟨.CLET_STAT, 9, 4⟩
@[reducible] def Fld.CLET_STAT_FLUSH : Fld := ⟨.CLET_STAT, 1, 1⟩
@[reducible] def Fld.CLET_STAT_FEC_SD : Fld := ⟨.CLET_STAT, 0, 0⟩
@[reducible] def Fld.CLET_EVT_FLUSHED : Fld := ⟨.CLET_EVT, 4, 4⟩
@[reducible] def Fld.CLET_EVT_STARVED : Fld := ⟨.CLET_EVT, 3, 3⟩
@[reducible] def Fld.CLET_EVT_UNCORR : Fld := ⟨.CLET_EVT, 2, 2⟩
@[reducible] def Fld.CLET_EVT_SD_CLEAR : Fld := ⟨.CLET_EVT, 1, 1⟩
@[reducible] def Fld.CLET_EVT_SD_SET : Fld := ⟨.CLET_EVT, 0, 0⟩
@[reducible] def Fld.CLET_CNT_WRAP : Fld := ⟨.CLET_CNT, 63, 63⟩
@[reducible] def Fld.CLET_CNT_COUNT : Fld := ⟨.CLET_CNT, 47, 0⟩
@[reducible] def Fld.CLET_TRL_HDR_FAIL : Fld := ⟨.CLET_TRL, 63, 32⟩
@[reducible] def Fld.CLET_TRL_HDR_OK : Fld := ⟨.CLET_TRL, 31, 0⟩
@[reducible] def Fld.CLET_SC_CFG_DEM_GUARD : Fld := ⟨.CLET_SC_CFG, 31, 20⟩
@[reducible] def Fld.CLET_SC_CFG_ITER_DEF : Fld := ⟨.CLET_SC_CFG, 14, 10⟩
@[reducible] def Fld.CLET_SC_CFG_ITER_MAX : Fld := ⟨.CLET_SC_CFG, 9, 5⟩
@[reducible] def Fld.CLET_SC_CFG_ITER_MIN : Fld := ⟨.CLET_SC_CFG, 4, 0⟩
@[reducible] def Fld.CLET_SC_STAT_MARGIN : Fld := ⟨.CLET_SC_STAT, 63, 48⟩
@[reducible] def Fld.CLET_SC_STAT_GRANT : Fld := ⟨.CLET_SC_STAT, 36, 32⟩
@[reducible] def Fld.CLET_SC_STAT_DEMAND : Fld := ⟨.CLET_SC_STAT, 28, 24⟩
@[reducible] def Fld.CLET_SC_STAT_EARLY : Fld := ⟨.CLET_SC_STAT, 23, 16⟩
@[reducible] def Fld.CLET_SC_STAT_NGMI : Fld := ⟨.CLET_SC_STAT, 15, 0⟩
@[reducible] def Fld.HTCH_COMMIT_CRC : Fld := ⟨.HTCH_COMMIT, 31, 0⟩
@[reducible] def Fld.HTCH_COMMIT_ST_SHADOW_CRC : Fld := ⟨.HTCH_COMMIT_ST, 63, 32⟩
@[reducible] def Fld.HTCH_COMMIT_ST_APPLIED : Fld := ⟨.HTCH_COMMIT_ST, 31, 16⟩
@[reducible] def Fld.HTCH_COMMIT_ST_CRC_BAD : Fld := ⟨.HTCH_COMMIT_ST, 15, 8⟩
@[reducible] def Fld.HTCH_COMMIT_ST_LAST : Fld := ⟨.HTCH_COMMIT_ST, 1, 0⟩
@[reducible] def Fld.HTCH_REFUSE_STICKY : Fld := ⟨.HTCH_REFUSE, 31, 31⟩
@[reducible] def Fld.HTCH_REFUSE_LAST_LINE : Fld := ⟨.HTCH_REFUSE, 21, 20⟩
@[reducible] def Fld.HTCH_REFUSE_LAST_CAUSE : Fld := ⟨.HTCH_REFUSE, 19, 16⟩
@[reducible] def Fld.HTCH_REFUSE_COUNT : Fld := ⟨.HTCH_REFUSE, 15, 0⟩
@[reducible] def Fld.HTCH_LINE_CFG_LOF_CLR : Fld := ⟨.HTCH_LINE_CFG, 31, 28⟩
@[reducible] def Fld.HTCH_LINE_CFG_LOF_SET : Fld := ⟨.HTCH_LINE_CFG, 27, 24⟩
@[reducible] def Fld.HTCH_LINE_CFG_ALIGN_M : Fld := ⟨.HTCH_LINE_CFG, 23, 20⟩
@[reducible] def Fld.HTCH_LINE_CFG_ALIGN_N : Fld := ⟨.HTCH_LINE_CFG, 19, 16⟩
@[reducible] def Fld.HTCH_LINE_CFG_TIM_MODE : Fld := ⟨.HTCH_LINE_CFG, 15, 14⟩
@[reducible] def Fld.HTCH_LINE_CFG_TIM_ACT : Fld := ⟨.HTCH_LINE_CFG, 13, 13⟩
@[reducible] def Fld.HTCH_LINE_CFG_BDI_ACT : Fld := ⟨.HTCH_LINE_CFG, 12, 12⟩
@[reducible] def Fld.HTCH_LINE_CFG_FLT_EN : Fld := ⟨.HTCH_LINE_CFG, 11, 11⟩
@[reducible] def Fld.HTCH_TX_CFG_FORCE_BDI : Fld := ⟨.HTCH_TX_CFG, 1, 1⟩
@[reducible] def Fld.HTCH_TX_CFG_FORCE_AIS : Fld := ⟨.HTCH_TX_CFG, 0, 0⟩
@[reducible] def Fld.HTCH_STAT_TX_U : Fld := ⟨.HTCH_STAT, 55, 44⟩
@[reducible] def Fld.HTCH_STAT_RX_U : Fld := ⟨.HTCH_STAT, 43, 32⟩
@[reducible] def Fld.HTCH_STAT_MFAS_EXP : Fld := ⟨.HTCH_STAT, 31, 24⟩
@[reducible] def Fld.HTCH_STAT_RX_STAT : Fld := ⟨.HTCH_STAT, 20, 18⟩
@[reducible] def Fld.HTCH_STAT_TAGQ : Fld := ⟨.HTCH_STAT, 17, 8⟩
@[reducible] def Fld.HTCH_STAT_CANDS : Fld := ⟨.HTCH_STAT, 7, 5⟩
@[reducible] def Fld.HTCH_STAT_FRAME_SHORT : Fld := ⟨.HTCH_STAT, 4, 4⟩
@[reducible] def Fld.HTCH_STAT_OOM : Fld := ⟨.HTCH_STAT, 3, 3⟩
@[reducible] def Fld.HTCH_STAT_OOF : Fld := ⟨.HTCH_STAT, 2, 2⟩
@[reducible] def Fld.HTCH_STAT_IN_MF : Fld := ⟨.HTCH_STAT, 1, 1⟩
@[reducible] def Fld.HTCH_STAT_IN_FRAME : Fld := ⟨.HTCH_STAT, 0, 0⟩
@[reducible] def Fld.HTCH_DEF_UAS_PM : Fld := ⟨.HTCH_DEF, 10, 10⟩
@[reducible] def Fld.HTCH_DEF_UAS_SM : Fld := ⟨.HTCH_DEF, 9, 9⟩
@[reducible] def Fld.HTCH_DEF_SSF : Fld := ⟨.HTCH_DEF, 8, 8⟩
@[reducible] def Fld.HTCH_DEF_FEC_SD : Fld := ⟨.HTCH_DEF, 7, 7⟩
@[reducible] def Fld.HTCH_DEF_PM_BDI : Fld := ⟨.HTCH_DEF, 6, 6⟩
@[reducible] def Fld.HTCH_DEF_SM_BDI : Fld := ⟨.HTCH_DEF, 5, 5⟩
@[reducible] def Fld.HTCH_DEF_TIM : Fld := ⟨.HTCH_DEF, 4, 4⟩
@[reducible] def Fld.HTCH_DEF_AIS : Fld := ⟨.HTCH_DEF, 3, 3⟩
@[reducible] def Fld.HTCH_DEF_LOM : Fld := ⟨.HTCH_DEF, 2, 2⟩
@[reducible] def Fld.HTCH_DEF_LOF : Fld := ⟨.HTCH_DEF, 1, 1⟩
@[reducible] def Fld.HTCH_DEF_LOS : Fld := ⟨.HTCH_DEF, 0, 0⟩
@[reducible] def Fld.HTCH_DEF_STK_UAS_PM : Fld := ⟨.HTCH_DEF_STK, 10, 10⟩
@[reducible] def Fld.HTCH_DEF_STK_UAS_SM : Fld := ⟨.HTCH_DEF_STK, 9, 9⟩
@[reducible] def Fld.HTCH_DEF_STK_SSF : Fld := ⟨.HTCH_DEF_STK, 8, 8⟩
@[reducible] def Fld.HTCH_DEF_STK_FEC_SD : Fld := ⟨.HTCH_DEF_STK, 7, 7⟩
@[reducible] def Fld.HTCH_DEF_STK_PM_BDI : Fld := ⟨.HTCH_DEF_STK, 6, 6⟩
@[reducible] def Fld.HTCH_DEF_STK_SM_BDI : Fld := ⟨.HTCH_DEF_STK, 5, 5⟩
@[reducible] def Fld.HTCH_DEF_STK_TIM : Fld := ⟨.HTCH_DEF_STK, 4, 4⟩
@[reducible] def Fld.HTCH_DEF_STK_AIS : Fld := ⟨.HTCH_DEF_STK, 3, 3⟩
@[reducible] def Fld.HTCH_DEF_STK_LOM : Fld := ⟨.HTCH_DEF_STK, 2, 2⟩
@[reducible] def Fld.HTCH_DEF_STK_LOF : Fld := ⟨.HTCH_DEF_STK, 1, 1⟩
@[reducible] def Fld.HTCH_DEF_STK_LOS : Fld := ⟨.HTCH_DEF_STK, 0, 0⟩
@[reducible] def Fld.HTCH_EVT_REGEN_DROP : Fld := ⟨.HTCH_EVT, 9, 9⟩
@[reducible] def Fld.HTCH_EVT_FRAME_SHORT : Fld := ⟨.HTCH_EVT, 8, 8⟩
@[reducible] def Fld.HTCH_EVT_INTERVAL : Fld := ⟨.HTCH_EVT, 7, 7⟩
@[reducible] def Fld.HTCH_EVT_UAS : Fld := ⟨.HTCH_EVT, 6, 6⟩
@[reducible] def Fld.HTCH_EVT_BDI : Fld := ⟨.HTCH_EVT, 5, 5⟩
@[reducible] def Fld.HTCH_EVT_TIM : Fld := ⟨.HTCH_EVT, 4, 4⟩
@[reducible] def Fld.HTCH_EVT_AIS : Fld := ⟨.HTCH_EVT, 3, 3⟩
@[reducible] def Fld.HTCH_EVT_LOM : Fld := ⟨.HTCH_EVT, 2, 2⟩
@[reducible] def Fld.HTCH_EVT_LOF : Fld := ⟨.HTCH_EVT, 1, 1⟩
@[reducible] def Fld.HTCH_EVT_LOS : Fld := ⟨.HTCH_EVT, 0, 0⟩
@[reducible] def Fld.HTCH_HIST_PTR_HIST_SEQ : Fld := ⟨.HTCH_HIST_PTR, 23, 16⟩
@[reducible] def Fld.HTCH_HIST_PTR_LAST24 : Fld := ⟨.HTCH_HIST_PTR, 8, 8⟩
@[reducible] def Fld.HTCH_HIST_PTR_LAST15 : Fld := ⟨.HTCH_HIST_PTR, 4, 0⟩
@[reducible] def Fld.HTCH_PM15_COUNT : Fld := ⟨.HTCH_PM15, 31, 0⟩
@[reducible] def Fld.HTCH_PM24_COUNT : Fld := ⟨.HTCH_PM24, 31, 0⟩
@[reducible] def Fld.HTCH_CNT_WRAP : Fld := ⟨.HTCH_CNT, 63, 63⟩
@[reducible] def Fld.HTCH_CNT_COUNT : Fld := ⟨.HTCH_CNT, 47, 0⟩
@[reducible] def Fld.HTCH_TTI_SMTX_TTI : Fld := ⟨.HTCH_TTI_SMTX, 511, 0⟩
@[reducible] def Fld.HTCH_TTI_SMEXP_TTI : Fld := ⟨.HTCH_TTI_SMEXP, 511, 0⟩
@[reducible] def Fld.HTCH_TTI_SMACC_TTI : Fld := ⟨.HTCH_TTI_SMACC, 511, 0⟩
@[reducible] def Fld.HTCH_TTI_PMTX_TTI : Fld := ⟨.HTCH_TTI_PMTX, 511, 0⟩
@[reducible] def Fld.HTCH_TTI_PMACC_TTI : Fld := ⟨.HTCH_TTI_PMACC, 511, 0⟩
@[reducible] def Fld.HTCH_HIST_START : Fld := ⟨.HTCH_HIST, 47, 0⟩
@[reducible] def Fld.HTCH_HIST_SUSPECT : Fld := ⟨.HTCH_HIST, 48, 48⟩
@[reducible] def Fld.HTCH_HIST_VALID : Fld := ⟨.HTCH_HIST, 49, 49⟩
@[reducible] def Fld.HTCH_HIST_COUNTS : Fld := ⟨.HTCH_HIST, 575, 64⟩
@[reducible] def Fld.SEIZ_COMMIT_CRC : Fld := ⟨.SEIZ_COMMIT, 31, 0⟩
@[reducible] def Fld.SEIZ_COMMIT_ST_SHADOW_CRC : Fld := ⟨.SEIZ_COMMIT_ST, 63, 32⟩
@[reducible] def Fld.SEIZ_COMMIT_ST_APPLIED : Fld := ⟨.SEIZ_COMMIT_ST, 31, 16⟩
@[reducible] def Fld.SEIZ_COMMIT_ST_CRC_BAD : Fld := ⟨.SEIZ_COMMIT_ST, 15, 8⟩
@[reducible] def Fld.SEIZ_COMMIT_ST_LAST : Fld := ⟨.SEIZ_COMMIT_ST, 1, 0⟩
@[reducible] def Fld.SEIZ_REFUSE_STICKY : Fld := ⟨.SEIZ_REFUSE, 31, 31⟩
@[reducible] def Fld.SEIZ_REFUSE_LAST_KC : Fld := ⟨.SEIZ_REFUSE, 27, 20⟩
@[reducible] def Fld.SEIZ_REFUSE_LAST_CAUSE : Fld := ⟨.SEIZ_REFUSE, 19, 16⟩
@[reducible] def Fld.SEIZ_REFUSE_COUNT : Fld := ⟨.SEIZ_REFUSE, 15, 0⟩
@[reducible] def Fld.SEIZ_EVT_REKEY_DUE : Fld := ⟨.SEIZ_EVT, 7, 7⟩
@[reducible] def Fld.SEIZ_EVT_BLOB_REFUSED : Fld := ⟨.SEIZ_EVT, 6, 6⟩
@[reducible] def Fld.SEIZ_EVT_EXHAUSTED : Fld := ⟨.SEIZ_EVT, 5, 5⟩
@[reducible] def Fld.SEIZ_EVT_SWITCHED : Fld := ⟨.SEIZ_EVT, 4, 4⟩
@[reducible] def Fld.SEIZ_EVT_WARN : Fld := ⟨.SEIZ_EVT, 3, 3⟩
@[reducible] def Fld.SEIZ_EVT_AF_CLEAR : Fld := ⟨.SEIZ_EVT, 2, 2⟩
@[reducible] def Fld.SEIZ_EVT_AUTH_FAILED : Fld := ⟨.SEIZ_EVT, 1, 1⟩
@[reducible] def Fld.SEIZ_EVT_TAG_FAIL : Fld := ⟨.SEIZ_EVT, 0, 0⟩
@[reducible] def Fld.SEIZ_KEK_ST_VALID : Fld := ⟨.SEIZ_KEK_ST, 15, 0⟩
@[reducible] def Fld.SEIZ_KC_CFG_REKEY_H : Fld := ⟨.SEIZ_KC_CFG, 42, 35⟩
@[reducible] def Fld.SEIZ_KC_CFG_TAG_WAIT : Fld := ⟨.SEIZ_KC_CFG, 34, 27⟩
@[reducible] def Fld.SEIZ_KC_CFG_CEIL_EXP : Fld := ⟨.SEIZ_KC_CFG, 26, 21⟩
@[reducible] def Fld.SEIZ_KC_CFG_AF_N : Fld := ⟨.SEIZ_KC_CFG, 20, 17⟩
@[reducible] def Fld.SEIZ_KC_CFG_STRICT : Fld := ⟨.SEIZ_KC_CFG, 16, 16⟩
@[reducible] def Fld.SEIZ_KC_CFG_KC_DOM : Fld := ⟨.SEIZ_KC_CFG, 15, 12⟩
@[reducible] def Fld.SEIZ_KC_CFG_UNIT : Fld := ⟨.SEIZ_KC_CFG, 11, 4⟩
@[reducible] def Fld.SEIZ_KC_CFG_LINE : Fld := ⟨.SEIZ_KC_CFG, 3, 2⟩
@[reducible] def Fld.SEIZ_KC_CFG_KIND : Fld := ⟨.SEIZ_KC_CFG, 1, 1⟩
@[reducible] def Fld.SEIZ_KC_CFG_EN : Fld := ⟨.SEIZ_KC_CFG, 0, 0⟩
@[reducible] def Fld.SEIZ_KC_ST_RX_STAGED : Fld := ⟨.SEIZ_KC_ST, 221, 221⟩
@[reducible] def Fld.SEIZ_KC_ST_TX_STAGED : Fld := ⟨.SEIZ_KC_ST, 220, 220⟩
@[reducible] def Fld.SEIZ_KC_ST_RX_IDX : Fld := ⟨.SEIZ_KC_ST, 219, 219⟩
@[reducible] def Fld.SEIZ_KC_ST_TX_IDX : Fld := ⟨.SEIZ_KC_ST, 218, 218⟩
@[reducible] def Fld.SEIZ_KC_ST_RX_STATE : Fld := ⟨.SEIZ_KC_ST, 217, 215⟩
@[reducible] def Fld.SEIZ_KC_ST_TX_STATE : Fld := ⟨.SEIZ_KC_ST, 214, 213⟩
@[reducible] def Fld.SEIZ_KC_ST_CONSEC : Fld := ⟨.SEIZ_KC_ST, 212, 209⟩
@[reducible] def Fld.SEIZ_KC_ST_S : Fld := ⟨.SEIZ_KC_ST, 208, 192⟩
@[reducible] def Fld.SEIZ_KC_ST_LAST_FAIL : Fld := ⟨.SEIZ_KC_ST, 191, 128⟩
@[reducible] def Fld.SEIZ_KC_ST_RX_NEXT : Fld := ⟨.SEIZ_KC_ST, 127, 64⟩
@[reducible] def Fld.SEIZ_KC_ST_TX_NEXT : Fld := ⟨.SEIZ_KC_ST, 63, 0⟩
@[reducible] def Fld.SEIZ_KC_CNT_WRAP : Fld := ⟨.SEIZ_KC_CNT, 63, 63⟩
@[reducible] def Fld.SEIZ_KC_CNT_COUNT : Fld := ⟨.SEIZ_KC_CNT, 47, 0⟩
@[reducible] def Fld.BEND_COMMIT_CRC : Fld := ⟨.BEND_COMMIT, 31, 0⟩
@[reducible] def Fld.BEND_COMMIT_ST_SHADOW_CRC : Fld := ⟨.BEND_COMMIT_ST, 63, 32⟩
@[reducible] def Fld.BEND_COMMIT_ST_APPLIED : Fld := ⟨.BEND_COMMIT_ST, 31, 16⟩
@[reducible] def Fld.BEND_COMMIT_ST_CRC_BAD : Fld := ⟨.BEND_COMMIT_ST, 15, 8⟩
@[reducible] def Fld.BEND_COMMIT_ST_LAST : Fld := ⟨.BEND_COMMIT_ST, 1, 0⟩
@[reducible] def Fld.BEND_REFUSE_STICKY : Fld := ⟨.BEND_REFUSE, 31, 31⟩
@[reducible] def Fld.BEND_REFUSE_LAST_PG : Fld := ⟨.BEND_REFUSE, 23, 20⟩
@[reducible] def Fld.BEND_REFUSE_LAST_CAUSE : Fld := ⟨.BEND_REFUSE, 19, 16⟩
@[reducible] def Fld.BEND_REFUSE_COUNT : Fld := ⟨.BEND_REFUSE, 15, 0⟩
@[reducible] def Fld.BEND_EVT_SEQ_LOST : Fld := ⟨.BEND_EVT, 7, 7⟩
@[reducible] def Fld.BEND_EVT_LOCKSTEP_LOST : Fld := ⟨.BEND_EVT, 6, 6⟩
@[reducible] def Fld.BEND_EVT_PASS_THRU : Fld := ⟨.BEND_EVT, 5, 5⟩
@[reducible] def Fld.BEND_EVT_REALIGN : Fld := ⟨.BEND_EVT, 4, 4⟩
@[reducible] def Fld.BEND_EVT_BOTH_BAD : Fld := ⟨.BEND_EVT, 3, 3⟩
@[reducible] def Fld.BEND_EVT_WINDOW : Fld := ⟨.BEND_EVT, 2, 2⟩
@[reducible] def Fld.BEND_EVT_PATH_OK : Fld := ⟨.BEND_EVT, 1, 1⟩
@[reducible] def Fld.BEND_EVT_PATH_FAIL : Fld := ⟨.BEND_EVT, 0, 0⟩
@[reducible] def Fld.BEND_PG_CFG_WTR_S : Fld := ⟨.BEND_PG_CFG, 51, 40⟩
@[reducible] def Fld.BEND_PG_CFG_ATT_REGION : Fld := ⟨.BEND_PG_CFG, 39, 32⟩
@[reducible] def Fld.BEND_PG_CFG_DSK_BLK : Fld := ⟨.BEND_PG_CFG, 31, 24⟩
@[reducible] def Fld.BEND_PG_CFG_AUTO_REALIGN : Fld := ⟨.BEND_PG_CFG, 22, 22⟩
@[reducible] def Fld.BEND_PG_CFG_SD_EXCL : Fld := ⟨.BEND_PG_CFG, 21, 21⟩
@[reducible] def Fld.BEND_PG_CFG_DSK_LOC : Fld := ⟨.BEND_PG_CFG, 20, 20⟩
@[reducible] def Fld.BEND_PG_CFG_PG_DOM : Fld := ⟨.BEND_PG_CFG, 19, 16⟩
@[reducible] def Fld.BEND_PG_CFG_CLIENT : Fld := ⟨.BEND_PG_CFG, 13, 8⟩
@[reducible] def Fld.BEND_PG_CFG_LOCAL_PATH : Fld := ⟨.BEND_PG_CFG, 6, 6⟩
@[reducible] def Fld.BEND_PG_CFG_P_LINE : Fld := ⟨.BEND_PG_CFG, 5, 4⟩
@[reducible] def Fld.BEND_PG_CFG_W_LINE : Fld := ⟨.BEND_PG_CFG, 3, 2⟩
@[reducible] def Fld.BEND_PG_CFG_KIND : Fld := ⟨.BEND_PG_CFG, 1, 1⟩
@[reducible] def Fld.BEND_PG_CFG_EN : Fld := ⟨.BEND_PG_CFG, 0, 0⟩
@[reducible] def Fld.BEND_PG_DLY_GUARD : Fld := ⟨.BEND_PG_DLY, 43, 32⟩
@[reducible] def Fld.BEND_PG_DLY_DLY_PRESET : Fld := ⟨.BEND_PG_DLY, 20, 0⟩
@[reducible] def Fld.BEND_PG_STAT_Q : Fld := ⟨.BEND_PG_STAT, 63, 32⟩
@[reducible] def Fld.BEND_PG_STAT_DO : Fld := ⟨.BEND_PG_STAT, 31, 8⟩
@[reducible] def Fld.BEND_PG_STAT_LOCKSTEP : Fld := ⟨.BEND_PG_STAT, 6, 6⟩
@[reducible] def Fld.BEND_PG_STAT_LEADER : Fld := ⟨.BEND_PG_STAT, 5, 5⟩
@[reducible] def Fld.BEND_PG_STAT_CMD : Fld := ⟨.BEND_PG_STAT, 4, 3⟩
@[reducible] def Fld.BEND_PG_STAT_GSTATE : Fld := ⟨.BEND_PG_STAT, 2, 0⟩
@[reducible] def Fld.BEND_PATH_ST_LOCK_LAG : Fld := ⟨.BEND_PATH_ST, 55, 44⟩
@[reducible] def Fld.BEND_PATH_ST_WTR_LEFT : Fld := ⟨.BEND_PATH_ST, 43, 32⟩
@[reducible] def Fld.BEND_PATH_ST_DELTA : Fld := ⟨.BEND_PATH_ST, 31, 8⟩
@[reducible] def Fld.BEND_PATH_ST_EARLIER : Fld := ⟨.BEND_PATH_ST, 6, 6⟩
@[reducible] def Fld.BEND_PATH_ST_INSEQ : Fld := ⟨.BEND_PATH_ST, 5, 5⟩
@[reducible] def Fld.BEND_PATH_ST_SSD : Fld := ⟨.BEND_PATH_ST, 4, 4⟩
@[reducible] def Fld.BEND_PATH_ST_SSF : Fld := ⟨.BEND_PATH_ST, 3, 3⟩
@[reducible] def Fld.BEND_PATH_ST_PSTATE : Fld := ⟨.BEND_PATH_ST, 2, 0⟩
@[reducible] def Fld.BEND_PG_CNT_WRAP : Fld := ⟨.BEND_PG_CNT, 63, 63⟩
@[reducible] def Fld.BEND_PG_CNT_COUNT : Fld := ⟨.BEND_PG_CNT, 47, 0⟩
@[reducible] def Fld.SHET_COMMIT_CRC : Fld := ⟨.SHET_COMMIT, 31, 0⟩
@[reducible] def Fld.SHET_COMMIT_ST_SHADOW_CRC : Fld := ⟨.SHET_COMMIT_ST, 63, 32⟩
@[reducible] def Fld.SHET_COMMIT_ST_APPLIED : Fld := ⟨.SHET_COMMIT_ST, 31, 16⟩
@[reducible] def Fld.SHET_COMMIT_ST_CRC_BAD : Fld := ⟨.SHET_COMMIT_ST, 15, 8⟩
@[reducible] def Fld.SHET_COMMIT_ST_LAST : Fld := ⟨.SHET_COMMIT_ST, 1, 0⟩
@[reducible] def Fld.SHET_REFUSE_STICKY : Fld := ⟨.SHET_REFUSE, 31, 31⟩
@[reducible] def Fld.SHET_REFUSE_LAST_CLIENT : Fld := ⟨.SHET_REFUSE, 21, 16⟩
@[reducible] def Fld.SHET_REFUSE_LAST_CAUSE : Fld := ⟨.SHET_REFUSE, 15, 12⟩
@[reducible] def Fld.SHET_REFUSE_COUNT : Fld := ⟨.SHET_REFUSE, 11, 0⟩
@[reducible] def Fld.SHET_CLI_CFG_CLI_DOM : Fld := ⟨.SHET_CLI_CFG, 31, 28⟩
@[reducible] def Fld.SHET_CLI_CFG_CLR_HOLD : Fld := ⟨.SHET_CLI_CFG, 27, 20⟩
@[reducible] def Fld.SHET_CLI_CFG_HUB_TAG : Fld := ⟨.SHET_CLI_CFG, 19, 18⟩
@[reducible] def Fld.SHET_CLI_CFG_LINE : Fld := ⟨.SHET_CLI_CFG, 17, 16⟩
@[reducible] def Fld.SHET_CLI_CFG_MODE : Fld := ⟨.SHET_CLI_CFG, 11, 10⟩
@[reducible] def Fld.SHET_CLI_CFG_LANES : Fld := ⟨.SHET_CLI_CFG, 6, 4⟩
@[reducible] def Fld.SHET_CLI_CFG_TYPE : Fld := ⟨.SHET_CLI_CFG, 3, 1⟩
@[reducible] def Fld.SHET_ODU_CFG_RATE : Fld := ⟨.SHET_ODU_CFG, 31, 0⟩
@[reducible] def Fld.SHET_FLX_CFG_EN : Fld := ⟨.SHET_FLX_CFG, 4, 4⟩
@[reducible] def Fld.SHET_FLX_CFG_KIND : Fld := ⟨.SHET_FLX_CFG, 3, 3⟩
@[reducible] def Fld.SHET_FLX_CFG_INST : Fld := ⟨.SHET_FLX_CFG, 2, 0⟩
@[reducible] def Fld.SHET_CLI_STAT_SIZE : Fld := ⟨.SHET_CLI_STAT, 25, 16⟩
@[reducible] def Fld.SHET_CLI_STAT_UNAVAIL : Fld := ⟨.SHET_CLI_STAT, 8, 8⟩
@[reducible] def Fld.SHET_CLI_STAT_EGR_ACT : Fld := ⟨.SHET_CLI_STAT, 7, 7⟩
@[reducible] def Fld.SHET_CLI_STAT_SRV_FAIL : Fld := ⟨.SHET_CLI_STAT, 6, 6⟩
@[reducible] def Fld.SHET_CLI_STAT_FAR_CSF : Fld := ⟨.SHET_CLI_STAT, 5, 5⟩
@[reducible] def Fld.SHET_CLI_STAT_GMP_LOCK : Fld := ⟨.SHET_CLI_STAT, 4, 4⟩
@[reducible] def Fld.SHET_CLI_STAT_SYNC : Fld := ⟨.SHET_CLI_STAT, 3, 3⟩
@[reducible] def Fld.SHET_CLI_STAT_RX_RF : Fld := ⟨.SHET_CLI_STAT, 2, 2⟩
@[reducible] def Fld.SHET_CLI_STAT_RX_LF : Fld := ⟨.SHET_CLI_STAT, 1, 1⟩
@[reducible] def Fld.SHET_CLI_STAT_CSF : Fld := ⟨.SHET_CLI_STAT, 0, 0⟩
@[reducible] def Fld.SHET_CLI_EVT_SPOOF : Fld := ⟨.SHET_CLI_EVT, 5, 5⟩
@[reducible] def Fld.SHET_CLI_EVT_DROP : Fld := ⟨.SHET_CLI_EVT, 4, 4⟩
@[reducible] def Fld.SHET_CLI_EVT_UNAVAIL : Fld := ⟨.SHET_CLI_EVT, 3, 3⟩
@[reducible] def Fld.SHET_CLI_EVT_COW_LOST : Fld := ⟨.SHET_CLI_EVT, 2, 2⟩
@[reducible] def Fld.SHET_CLI_EVT_EGR_FAIL : Fld := ⟨.SHET_CLI_EVT, 1, 1⟩
@[reducible] def Fld.SHET_CLI_EVT_ING_FAIL : Fld := ⟨.SHET_CLI_EVT, 0, 0⟩
@[reducible] def Fld.SHET_CNT_WRAP : Fld := ⟨.SHET_CNT, 63, 63⟩
@[reducible] def Fld.SHET_CNT_COUNT : Fld := ⟨.SHET_CNT, 47, 0⟩
@[reducible] def Fld.SHET_TS_LEAF : Fld := ⟨.SHET_TS, 34, 27⟩
@[reducible] def Fld.SHET_TS_LEAF_EN : Fld := ⟨.SHET_TS, 26, 26⟩
@[reducible] def Fld.SHET_TS_SC : Fld := ⟨.SHET_TS, 25, 21⟩
@[reducible] def Fld.SHET_TS_LPOS : Fld := ⟨.SHET_TS, 19, 10⟩
@[reducible] def Fld.SHET_TS_LINE : Fld := ⟨.SHET_TS, 9, 8⟩
@[reducible] def Fld.SHET_TS_EN : Fld := ⟨.SHET_TS, 7, 7⟩
@[reducible] def Fld.SHET_TS_CLIENT : Fld := ⟨.SHET_TS, 5, 0⟩
@[reducible] def Fld.SHET_HTS_EN : Fld := ⟨.SHET_HTS, 6, 6⟩
@[reducible] def Fld.SHET_HTS_CLIENT : Fld := ⟨.SHET_HTS, 5, 0⟩
@[reducible] def Fld.SHET_VID_EN : Fld := ⟨.SHET_VID, 8, 8⟩
@[reducible] def Fld.SHET_VID_LEAF : Fld := ⟨.SHET_VID, 7, 0⟩
@[reducible] def Fld.TWIN_COMMIT_CRC : Fld := ⟨.TWIN_COMMIT, 31, 0⟩
@[reducible] def Fld.TWIN_COMMIT_ST_SHADOW_CRC : Fld := ⟨.TWIN_COMMIT_ST, 63, 32⟩
@[reducible] def Fld.TWIN_COMMIT_ST_APPLIED : Fld := ⟨.TWIN_COMMIT_ST, 31, 16⟩
@[reducible] def Fld.TWIN_COMMIT_ST_CRC_BAD : Fld := ⟨.TWIN_COMMIT_ST, 15, 8⟩
@[reducible] def Fld.TWIN_COMMIT_ST_LAST : Fld := ⟨.TWIN_COMMIT_ST, 1, 0⟩
@[reducible] def Fld.TWIN_REFUSE_STICKY : Fld := ⟨.TWIN_REFUSE, 31, 31⟩
@[reducible] def Fld.TWIN_REFUSE_LAST_LANE : Fld := ⟨.TWIN_REFUSE, 21, 16⟩
@[reducible] def Fld.TWIN_REFUSE_LAST_CAUSE : Fld := ⟨.TWIN_REFUSE, 15, 12⟩
@[reducible] def Fld.TWIN_REFUSE_COUNT : Fld := ⟨.TWIN_REFUSE, 11, 0⟩
@[reducible] def Fld.TWIN_LANE_CFG_PATCHK : Fld := ⟨.TWIN_LANE_CFG, 22, 20⟩
@[reducible] def Fld.TWIN_LANE_CFG_PATGEN : Fld := ⟨.TWIN_LANE_CFG, 18, 16⟩
@[reducible] def Fld.TWIN_LANE_CFG_LPBK : Fld := ⟨.TWIN_LANE_CFG, 13, 12⟩
@[reducible] def Fld.TWIN_LANE_CFG_RX_MAP : Fld := ⟨.TWIN_LANE_CFG, 9, 8⟩
@[reducible] def Fld.TWIN_LANE_CFG_TX_MAP : Fld := ⟨.TWIN_LANE_CFG, 7, 6⟩
@[reducible] def Fld.TWIN_LANE_CFG_RX_INV : Fld := ⟨.TWIN_LANE_CFG, 4, 4⟩
@[reducible] def Fld.TWIN_LANE_CFG_TX_INV : Fld := ⟨.TWIN_LANE_CFG, 3, 3⟩
@[reducible] def Fld.TWIN_LANE_CFG_INTF : Fld := ⟨.TWIN_LANE_CFG, 2, 1⟩
@[reducible] def Fld.TWIN_LANE_CFG_EN : Fld := ⟨.TWIN_LANE_CFG, 0, 0⟩
@[reducible] def Fld.TWIN_TXFFE_TX_LOCK : Fld := ⟨.TWIN_TXFFE, 30, 30⟩
@[reducible] def Fld.TWIN_TXFFE_C_P1 : Fld := ⟨.TWIN_TXFFE, 29, 24⟩
@[reducible] def Fld.TWIN_TXFFE_C_M3 : Fld := ⟨.TWIN_TXFFE, 23, 18⟩
@[reducible] def Fld.TWIN_TXFFE_C_M2 : Fld := ⟨.TWIN_TXFFE, 17, 12⟩
@[reducible] def Fld.TWIN_TXFFE_C_M1 : Fld := ⟨.TWIN_TXFFE, 11, 6⟩
@[reducible] def Fld.TWIN_TXFFE_C_0 : Fld := ⟨.TWIN_TXFFE, 5, 0⟩
@[reducible] def Fld.TWIN_RXEQ_SD_THR : Fld := ⟨.TWIN_RXEQ, 15, 12⟩
@[reducible] def Fld.TWIN_RXEQ_CTLE : Fld := ⟨.TWIN_RXEQ, 9, 4⟩
@[reducible] def Fld.TWIN_RXEQ_CTLE_OVR : Fld := ⟨.TWIN_RXEQ, 2, 2⟩
@[reducible] def Fld.TWIN_RXEQ_ADAPT : Fld := ⟨.TWIN_RXEQ, 1, 0⟩
@[reducible] def Fld.TWIN_SCAN_MARGIN_INT : Fld := ⟨.TWIN_SCAN, 31, 24⟩
@[reducible] def Fld.TWIN_SCAN_TGT : Fld := ⟨.TWIN_SCAN, 11, 8⟩
@[reducible] def Fld.TWIN_SCAN_DWELL : Fld := ⟨.TWIN_SCAN, 7, 4⟩
@[reducible] def Fld.TWIN_SCAN_SCAN_VALID : Fld := ⟨.TWIN_SCAN, 2, 2⟩
@[reducible] def Fld.TWIN_SCAN_SCAN_BUSY : Fld := ⟨.TWIN_SCAN, 1, 1⟩
@[reducible] def Fld.TWIN_SCAN_SCAN_REQ : Fld := ⟨.TWIN_SCAN, 0, 0⟩
@[reducible] def Fld.TWIN_STAT_ATTEMPTS : Fld := ⟨.TWIN_STAT, 31, 24⟩
@[reducible] def Fld.TWIN_STAT_RX_SNR : Fld := ⟨.TWIN_STAT, 16, 8⟩
@[reducible] def Fld.TWIN_STAT_UNTR_CAUSE : Fld := ⟨.TWIN_STAT, 7, 6⟩
@[reducible] def Fld.TWIN_STAT_PART_RDY : Fld := ⟨.TWIN_STAT, 5, 5⟩
@[reducible] def Fld.TWIN_STAT_CDR_LOCK : Fld := ⟨.TWIN_STAT, 4, 4⟩
@[reducible] def Fld.TWIN_STAT_LOS : Fld := ⟨.TWIN_STAT, 3, 3⟩
@[reducible] def Fld.TWIN_STAT_LSTATE : Fld := ⟨.TWIN_STAT, 2, 0⟩
@[reducible] def Fld.TWIN_EYE_SCAN_SEQ : Fld := ⟨.TWIN_EYE, 63, 48⟩
@[reducible] def Fld.TWIN_EYE_W2 : Fld := ⟨.TWIN_EYE, 47, 40⟩
@[reducible] def Fld.TWIN_EYE_H2 : Fld := ⟨.TWIN_EYE, 39, 32⟩
@[reducible] def Fld.TWIN_EYE_W1 : Fld := ⟨.TWIN_EYE, 31, 24⟩
@[reducible] def Fld.TWIN_EYE_H1 : Fld := ⟨.TWIN_EYE, 23, 16⟩
@[reducible] def Fld.TWIN_EYE_W0 : Fld := ⟨.TWIN_EYE, 15, 8⟩
@[reducible] def Fld.TWIN_EYE_H0 : Fld := ⟨.TWIN_EYE, 7, 0⟩
@[reducible] def Fld.TWIN_EVT_SLIP : Fld := ⟨.TWIN_EVT, 4, 4⟩
@[reducible] def Fld.TWIN_EVT_SCAN_DONE : Fld := ⟨.TWIN_EVT, 3, 3⟩
@[reducible] def Fld.TWIN_EVT_LOS_RISE : Fld := ⟨.TWIN_EVT, 2, 2⟩
@[reducible] def Fld.TWIN_EVT_UNTRAINED : Fld := ⟨.TWIN_EVT, 1, 1⟩
@[reducible] def Fld.TWIN_EVT_TRAINED : Fld := ⟨.TWIN_EVT, 0, 0⟩
@[reducible] def Fld.TWIN_CNT_WRAP : Fld := ⟨.TWIN_CNT, 63, 63⟩
@[reducible] def Fld.TWIN_CNT_COUNT : Fld := ⟨.TWIN_CNT, 47, 0⟩
@[reducible] def Fld.TWIN_QUAD_CFG_RATE : Fld := ⟨.TWIN_QUAD_CFG, 1, 0⟩
@[reducible] def Fld.TWIN_SYNCE_SEL_EN : Fld := ⟨.TWIN_SYNCE_SEL, 8, 8⟩
@[reducible] def Fld.TWIN_SYNCE_SEL_LANE : Fld := ⟨.TWIN_SYNCE_SEL, 5, 0⟩
@[reducible] def Fld.LNYD_COMMIT_CRC : Fld := ⟨.LNYD_COMMIT, 31, 0⟩
@[reducible] def Fld.LNYD_COMMIT_ST_SHADOW_CRC : Fld := ⟨.LNYD_COMMIT_ST, 63, 32⟩
@[reducible] def Fld.LNYD_COMMIT_ST_APPLIED : Fld := ⟨.LNYD_COMMIT_ST, 31, 16⟩
@[reducible] def Fld.LNYD_COMMIT_ST_CRC_BAD : Fld := ⟨.LNYD_COMMIT_ST, 15, 8⟩
@[reducible] def Fld.LNYD_COMMIT_ST_LAST : Fld := ⟨.LNYD_COMMIT_ST, 1, 0⟩
@[reducible] def Fld.LNYD_LANE_CFG_DWELL : Fld := ⟨.LNYD_LANE_CFG, 11, 8⟩
@[reducible] def Fld.LNYD_LANE_CFG_SCAN_REQ : Fld := ⟨.LNYD_LANE_CFG, 2, 2⟩
@[reducible] def Fld.LNYD_LANE_CFG_RX_INV : Fld := ⟨.LNYD_LANE_CFG, 1, 1⟩
@[reducible] def Fld.LNYD_LANE_CFG_TX_INV : Fld := ⟨.LNYD_LANE_CFG, 0, 0⟩
@[reducible] def Fld.LNYD_LANE_STAT_DISP_ERR : Fld := ⟨.LNYD_LANE_STAT, 63, 32⟩
@[reducible] def Fld.LNYD_LANE_STAT_CG_ERR : Fld := ⟨.LNYD_LANE_STAT, 31, 8⟩
@[reducible] def Fld.LNYD_LANE_STAT_IDLE : Fld := ⟨.LNYD_LANE_STAT, 2, 2⟩
@[reducible] def Fld.LNYD_LANE_STAT_SYNC : Fld := ⟨.LNYD_LANE_STAT, 1, 1⟩
@[reducible] def Fld.LNYD_LANE_STAT_CDR_LOCK : Fld := ⟨.LNYD_LANE_STAT, 0, 0⟩
@[reducible] def Fld.LNYD_EYE_SCAN_VALID : Fld := ⟨.LNYD_EYE, 16, 16⟩
@[reducible] def Fld.LNYD_EYE_WIDTH : Fld := ⟨.LNYD_EYE, 15, 8⟩
@[reducible] def Fld.LNYD_EYE_HEIGHT : Fld := ⟨.LNYD_EYE, 7, 0⟩
@[reducible] def Fld.LNYD_REFUSE_STICKY : Fld := ⟨.LNYD_REFUSE, 31, 31⟩
@[reducible] def Fld.LNYD_REFUSE_LAST_CAUSE : Fld := ⟨.LNYD_REFUSE, 19, 16⟩
@[reducible] def Fld.LNYD_REFUSE_COUNT : Fld := ⟨.LNYD_REFUSE, 15, 0⟩
@[reducible] def Fld.LNYD_CFG_GAP : Fld := ⟨.LNYD_CFG, 9, 2⟩
@[reducible] def Fld.LNYD_CFG_LANES : Fld := ⟨.LNYD_CFG, 1, 0⟩
@[reducible] def Fld.LNYD_CLAIM_REVERT : Fld := ⟨.LNYD_CLAIM, 17, 17⟩
@[reducible] def Fld.LNYD_CLAIM_CLAIM_EN : Fld := ⟨.LNYD_CLAIM, 16, 16⟩
@[reducible] def Fld.LNYD_CLAIM_CLAIM_NUM : Fld := ⟨.LNYD_CLAIM, 15, 0⟩
@[reducible] def Fld.LNYD_GATE_G_PPS : Fld := ⟨.LNYD_GATE, 41, 41⟩
@[reducible] def Fld.LNYD_GATE_G_CLK : Fld := ⟨.LNYD_GATE, 40, 39⟩
@[reducible] def Fld.LNYD_GATE_G_TXEN : Fld := ⟨.LNYD_GATE, 38, 36⟩
@[reducible] def Fld.LNYD_GATE_G_GPIO : Fld := ⟨.LNYD_GATE, 35, 0⟩
@[reducible] def Fld.LNYD_CK_CFG_CK_REGION : Fld := ⟨.LNYD_CK_CFG, 15, 8⟩
@[reducible] def Fld.LNYD_CK_CFG_REHEARSE : Fld := ⟨.LNYD_CK_CFG, 7, 0⟩
@[reducible] def Fld.LNYD_STAT_LAST_SET : Fld := ⟨.LNYD_STAT, 63, 32⟩
@[reducible] def Fld.LNYD_STAT_PART_NUM : Fld := ⟨.LNYD_STAT, 31, 16⟩
@[reducible] def Fld.LNYD_STAT_TAKEOVER : Fld := ⟨.LNYD_STAT, 12, 12⟩
@[reducible] def Fld.LNYD_STAT_STBY_SUSPECT : Fld := ⟨.LNYD_STAT, 11, 11⟩
@[reducible] def Fld.LNYD_STAT_NUM_MISMATCH : Fld := ⟨.LNYD_STAT, 10, 10⟩
@[reducible] def Fld.LNYD_STAT_CONFLICT : Fld := ⟨.LNYD_STAT, 9, 9⟩
@[reducible] def Fld.LNYD_STAT_NUM_KNOWN : Fld := ⟨.LNYD_STAT, 8, 8⟩
@[reducible] def Fld.LNYD_STAT_GATES_OPEN : Fld := ⟨.LNYD_STAT, 7, 7⟩
@[reducible] def Fld.LNYD_STAT_PART_CLAIMS : Fld := ⟨.LNYD_STAT, 6, 6⟩
@[reducible] def Fld.LNYD_STAT_CLAIMING : Fld := ⟨.LNYD_STAT, 5, 5⟩
@[reducible] def Fld.LNYD_STAT_ATTEMPT : Fld := ⟨.LNYD_STAT, 4, 3⟩
@[reducible] def Fld.LNYD_STAT_LSTATE : Fld := ⟨.LNYD_STAT, 2, 0⟩
@[reducible] def Fld.LNYD_EVT_SCAN_DONE : Fld := ⟨.LNYD_EVT, 10, 10⟩
@[reducible] def Fld.LNYD_EVT_SET_SKIP : Fld := ⟨.LNYD_EVT, 9, 9⟩
@[reducible] def Fld.LNYD_EVT_TAKEOVER : Fld := ⟨.LNYD_EVT, 8, 8⟩
@[reducible] def Fld.LNYD_EVT_REHEARSE_FAIL : Fld := ⟨.LNYD_EVT, 7, 7⟩
@[reducible] def Fld.LNYD_EVT_SET_BAD : Fld := ⟨.LNYD_EVT, 6, 6⟩
@[reducible] def Fld.LNYD_EVT_GATE : Fld := ⟨.LNYD_EVT, 5, 5⟩
@[reducible] def Fld.LNYD_EVT_MISMATCH : Fld := ⟨.LNYD_EVT, 4, 4⟩
@[reducible] def Fld.LNYD_EVT_CONFLICT : Fld := ⟨.LNYD_EVT, 3, 3⟩
@[reducible] def Fld.LNYD_EVT_LINK_LOST : Fld := ⟨.LNYD_EVT, 2, 2⟩
@[reducible] def Fld.LNYD_EVT_ABSENT : Fld := ⟨.LNYD_EVT, 1, 1⟩
@[reducible] def Fld.LNYD_EVT_LINK_UP : Fld := ⟨.LNYD_EVT, 0, 0⟩
@[reducible] def Fld.LNYD_CNT_WRAP : Fld := ⟨.LNYD_CNT, 63, 63⟩
@[reducible] def Fld.LNYD_CNT_COUNT : Fld := ⟨.LNYD_CNT, 47, 0⟩

end Sys2Proof.Machine
end

