-- ==== Sys2Proof/Machine/Store.lean ====
section
/-! DEFINITION. The register store: the values of all registers and table memories as plain data, in one canonical form. A register
that is not listed holds its reset value, so the empty store is the store after reset. -/

namespace Sys2Proof.Machine

/-- One register instance: the register and its indices, outermost first (line, then slot, entry or number). -/
structure RegKey where
  id : RegId
  i : Nat
  j : Nat
  k : Nat
  deriving DecidableEq, Repr

/-- The BAR0 address of a register instance (R16, R508). -/
def regAddr (r : RegKey) : Nat :=
  let sp := regSpec r.id
  match sp.dims with
  | [] => sp.base
  | [(_, a)] => sp.base + r.i * a
  | [(_, a), (_, b)] => sp.base + r.i * a + r.j * b
  | (_, a) :: (_, b) :: (_, c) :: _ => sp.base + r.i * a + r.j * b + r.k * c

/-- Whether the indices name an instance the block has (R508). -/
def regValid (r : RegKey) : Bool :=
  match (regSpec r.id).dims with
  | [] => r.i == 0 && r.j == 0 && r.k == 0
  | [(n, _)] => r.i < n && r.j == 0 && r.k == 0
  | [(n, _), (m, _)] => r.i < n && r.j < m && r.k == 0
  | (n, _) :: (m, _) :: (p, _) :: _ => r.i < n && r.j < m && r.k < p

/-- The largest tap grant after reset, by the index of the subcarrier width (Table 3.6, named by Table 3.16). -/
def tapMaxReset : Nat → Nat
  | 0 => 9 | 1 => 11 | 2 => 15 | 3 => 21 | 4 => 35 | 5 => 63 | _ => 9

/-- The reset value of a memory instance's entry (Table 14.14, 'Per instance'): the spec gives none; the instances of the 19 blocks are
present, their class after Table 14.4 by block, the per-byte code in the island (log entry 18). -/
def whipReset (i : Nat) : Nat :=
  if 1216 ≤ i then 0
  else
    let c := match i / 64 with | 0 => 4 | 2 => 3 | 10 => 1 | 11 => 1 | 12 => 1 | 14 => 1 | _ => 0
    2 ^ 7 + c <<< 37 + (if c = 4 then 2 ^ 4 else 0)

/-- The reset word of a register instance, from its field table. -/
def regReset (r : RegKey) : Nat :=
  let w := (regSpec r.id).fields.foldl (fun a f => a + f.reset <<< f.lo) 0
  match r.id with
  | .TWIN_LANE_CFG => setBits (setBits w 9 8 (r.i % 4)) 7 6 (r.i % 4)
  | .SPLC_TAP_LIM => setBits w 13 8 (tapMaxReset r.j)
  | .WHIP_INST => whipReset r.i
  | _ => w

/-- One listed register: the instance and its value. -/
structure RegCell where
  key : RegKey
  val : Nat
  deriving DecidableEq, Repr

/-- The register store. -/
abbrev RegStore := List RegCell

/-- The place of a register instance in the store: by register, then by its indices. -/
def regRank (r : RegKey) : Nat := ((r.id.ctorIdx * 2 ^ 20 + r.i) * 2 ^ 20 + r.j) * 2 ^ 20 + r.k

/-- The value of a register instance: the listed one, or its reset value. -/
def RegStore.get (t : RegStore) (r : RegKey) : Nat :=
  match t with
  | [] => regReset r
  | c :: rest => if c.key = r then c.val else RegStore.get rest r

/-- A cell put in front of the first cell of a later place. -/
def RegStore.insert (t : RegStore) (c : RegCell) : RegStore :=
  match t with
  | [] => [c]
  | d :: rest => if regRank c.key < regRank d.key then c :: d :: rest else d :: RegStore.insert rest c

/-- The store without a register instance. -/
def RegStore.erase (t : RegStore) (r : RegKey) : RegStore := t.filter fun c => c.key != r

/-- The store with a register instance's value replaced, cut to the register's width. An index that the block does not have is no
register (R508) and changes nothing. A register at its reset value is not listed, so that equal stores are equal lists. -/
def RegStore.put (t : RegStore) (r : RegKey) (v : Nat) : RegStore :=
  if regValid r then
    let x := v % 2 ^ (regSpec r.id).width
    if x = regReset r then RegStore.erase t r else RegStore.insert (RegStore.erase t r) ⟨r, x⟩
  else t

/-- What may stand in one cell: a register the device has, a value of its width, and not its reset value. -/
def RegCell.wf (c : RegCell) : Bool :=
  regValid c.key && c.val < 2 ^ (regSpec c.key.id).width && c.val != regReset c.key

/-- The canonical form: places strictly rising, every cell well formed. -/
def RegStore.wf : RegStore → Bool
  | [] => true
  | c :: rest => c.wf && rest.all (fun d => regRank c.key < regRank d.key) && RegStore.wf rest

/-- The store without the registers that a test picks: those return to their reset values. -/
def RegStore.resetWhere (t : RegStore) (p : RegKey → Bool) : RegStore := t.filter fun c => !p c.key

/-- The index of a replicated register that an offset falls into, and what is left of the offset, outermost index first. -/
def indexOf : List (Nat × Nat) → Nat → List Nat × Nat
  | [], off => ([], off)
  | (_, a) :: r, off => let x := indexOf r (off % a); ((off / a) :: x.1, x.2)

/-- The register instance whose bytes hold an aligned 32-bit address, and the number of the word within it. -/
def regAt (id : RegId) (addr : Nat) : Option (RegKey × Nat) :=
  let sp := regSpec id
  if addr < sp.base then none
  else
    let (l, rest) := indexOf sp.dims (addr - sp.base)
    let key : RegKey := ⟨id, l.getD 0 0, l.getD 1 0, l.getD 2 0⟩
    if regValid key && decide (rest * 8 < sp.width) then some (key, rest / 4) else none

/-- The register at an address of BAR0, by its block (R15). -/
def findReg (addr : Nat) : Option (RegKey × Nat) := (blockRegs (addr >>> 22)).findSome? fun id => regAt id addr

end Sys2Proof.Machine
end

