-- ==== Sys2Proof/Machine/Tab.lean ====
section
/-! DEFINITION. Tables of unit state keyed by the unit's number, as plain data: a list of (number, record) pairs in one canonical
form. A number that is not listed holds the record given as the default, which is the unit's state after reset. -/

namespace Sys2Proof.Machine

/-- A table of records by unit number. -/
abbrev Tab (α : Type) := List (Nat × α)

/-- The record of a unit: the listed one, or the default. -/
def Tab.get {α : Type} (d : α) (t : Tab α) (k : Nat) : α :=
  match t with
  | [] => d
  | (j, a) :: r => if j = k then a else Tab.get d r k

/-- A pair put in front of the first greater number. -/
def Tab.insert {α : Type} (t : Tab α) (k : Nat) (a : α) : Tab α :=
  match t with
  | [] => [(k, a)]
  | (j, b) :: r => if k < j then (k, a) :: (j, b) :: r else (j, b) :: Tab.insert r k a

/-- The table without a unit. -/
def Tab.erase {α : Type} (t : Tab α) (k : Nat) : Tab α := t.filter fun e => e.1 != k

/-- The table with a unit's record replaced; the default record is not listed, so that equal tables are equal lists. -/
def Tab.put {α : Type} [DecidableEq α] (d : α) (t : Tab α) (k : Nat) (a : α) : Tab α :=
  if a = d then Tab.erase t k else Tab.insert (Tab.erase t k) k a

/-- The canonical form: numbers strictly rising and no default record listed. -/
def Tab.wf {α : Type} [DecidableEq α] (d : α) (t : Tab α) : Bool :=
  match t with
  | [] => true
  | (j, a) :: r => decide (a ≠ d) && r.all (fun e => j < e.1) && Tab.wf d r

end Sys2Proof.Machine
end

