-- ==== Sys2Proof/Machine/State.lean ====
section
/-! DEFINITION. The state of the device: every register and table memory (the register store), the state its blocks hold beside their
registers, the pins, what the device has sent out, and the queue of waiting commands. All of it is plain data. -/

namespace Sys2Proof.Machine

open Sys2Proof

/-- A holding slot in use (R11): its number, its requester, the register latched and the latched high half. -/
structure Latch where
  slot : Nat
  req : Requester
  key : RegKey
  high : Nat
  deriving DecidableEq, Repr

/-- What a ring holds beside BCKT_RING_CFG and BCKT_RING_ST: the entries written since its last interrupt message (R362), the number of
events written (SEQ, Table 13.8a), the events lost while full with the first and last code (R358), the completion entries
reserved (R357), and the requester that last rang it (R351). -/
structure RingInt where
  sinceMsg : Nat := 0
  seq : Nat := 0
  lost : Nat := 0
  firstLost : Nat := 0
  lastLost : Nat := 0
  reserved : Nat := 0
  ringer : Requester := .host 0
  deriving DecidableEq, Repr

/-- An MSI-X vector of BAR4 (R333, R362): the message's address and data in its table entry, its mask bit, which is set after reset, and
its pending bit. -/
structure VecInt where
  addr : Nat := 0
  data : Nat := 0
  masked : Bool := true
  pending : Bool := false
  deriving DecidableEq, Repr

/-- An accepted Ospin command (R349): its number in the order of acceptance, its ring and index, the descriptor's fields (Table 13.5), the indirect buffer without its CRC,
its requester, and, once it has been judged or executed, its status, reason, inline result and result buffer
(Tables 13.6 and 13.7); its completion is dropped (R340, R360); it has timed out (R361); its execution has started; its completion ring; the role in force at
its acceptance (R351); what its journal record gives as NEW (R419). -/
structure Cmd where
  num : Nat
  ring : Nat
  idx : Nat
  opcode : Nat
  flags : Nat
  tag : Nat
  unit : Nat
  param : List Byte
  resAddr : Nat
  loc : Nat
  region : Nat
  ind : List Byte
  req : Requester
  done : Bool := false
  status : Nat := 0
  reason : Nat := 0
  result : List Byte := []
  buffer : List Byte := []
  dropped : Bool := false
  timedOut : Bool := false
  started : Bool := false
  pair : Nat := 0
  role : Nat := 0
  note : Nat := 0
  deriving DecidableEq, Repr

/-- A journal record (Table 16.2), without its CRC. -/
structure JRec where
  seq : Nat
  seconds : Nat
  ns : Nat
  stamp : Nat
  role : Nat
  dom : Nat
  kind : Nat
  result : Nat
  what : Nat
  old : Nat
  new : Nat
  aux : Nat
  deriving DecidableEq, Repr

/-- The challenge and failure record of a requester (R416, R417): the challenge last drawn (empty: none), whether it is spent, the
consecutive failed responses, whether the requester is locked out, the seconds counted since the challenge was drawn. -/
structure AuthInt where
  req : Requester
  challenge : List Byte
  spent : Bool
  fails : Nat
  locked : Bool
  age : Nat
  deriving DecidableEq, Repr

/-- A flash area of Table 16.3 kept as halves or copies: the pieces written to the inactive half since its last commit, in order, the
pieces of the active half, and the sequence number of the active half's commit record (R422). -/
structure FlashArea where
  staged : List (Nat × List Byte) := []
  active : List (Nat × List Byte) := []
  seq : Nat := 0
  deriving DecidableEq, Repr

/-- Flash and OTP (R422 to R427): the credential entries and the image copies' headers in force, the copies being written; areas 0 to 2 are the
image copies, 3 calibration, 4 credentials, 5 KEK blobs, 6 the remap record, whose
content (instance, spare, address) the device keeps itself (R384). -/
structure NvState where
  areas : Tab FlashArea := []
  creds : Tab Cred := []
  copies : Tab ImageCopy := []
  writing : List Nat := []
  serial : Nat := 0
  makerHash : List Byte := []
  rollback : Nat := 0
  lifecycle : Nat := 0
  remap : List (Nat × Nat × Nat) := []
  deriving DecidableEq, Repr

/-- The audit journal (R419 to R421): the SEQ last issued, the records in the island's journal buffer, the programmed flash pages
(oldest first), and the number of pages erased before them. -/
structure Journal where
  lastSeq : Nat := 0
  buffer : List JRec := []
  pages : List (List JRec) := []
  erased : Nat := 0
  deriving DecidableEq, Repr

/-- A mailbox message (R402): the stamp of Table 15.3, the payload words, the check word. -/
structure MbMsg where
  stamp : Nat
  words : List Nat
  check : Nat
  deriving DecidableEq, Repr

/-- A Marline service (R391, R393): 0 stopped, 1 running, 2 restarting; its core; restarts in all and the ages in
seconds of those within the last 60 s. -/
structure SvcInt where
  state : Nat := 0
  core : Nat := 0
  restarts : Nat := 0
  recent : List Nat := []
  deriving DecidableEq, Repr

/-- What the control complex holds beside its registers (R397 to R402): jobs ready to run, oldest first, by service, and whether
the job's wait in this window has been counted; the core time left
per class in the window, in µs; the outbound queue of each mailbox end, oldest first, by 2 × channel + end; the services; the next
GCC0 packet number per line; the GCC0 packets waiting per line with the command each completes; whether the deferral event has been raised in this second; a recovery that
reloads the code memory; the SVC_RESTART commands that wait for a recovery's end, with their services. -/
structure Marline where
  ready : List (Nat × Bool) := []
  grantLeft : Tab Nat := []
  queues : Tab (List MbMsg) := []
  services : Tab SvcInt := []
  gccNumber : Tab Nat := []
  gccOut : Tab (List (List Byte × Option Nat)) := []
  deferSaid : Bool := false
  recoveryReload : Bool := false
  restartCmds : List (Nat × Nat) := []
  deriving DecidableEq, Repr

/-- The always-on island and the core's power (R474 to R491): PORST_N held low; the core's blocks out of reset; the root locked; a relock
attempt under way (R485); XO_IN running (R487); FLT_N driven low until FLT_HOLD has passed (R488); the boot waits for the Maker (R499);
Shutdown-orderly in force (R440), and its event still to raise after the restart; the CXL-U link retrains for a device reset (R335). -/
structure Boot where
  porst : Bool := true
  coreUp : Bool := false
  rootLocked : Bool := false
  relocking : Bool := false
  xoRunning : Bool := true
  fltLow : Bool := true
  mfgHold : Bool := false
  shutdown : Bool := false
  shutEvent : Bool := false
  retrain : Bool := true
  deriving DecidableEq, Repr

/-- The memory ports and regions beside their registers (chapter 14): the poison log of each port, oldest first; the regions that have
raised event 0x080C in this second. -/
structure MemInt where
  poison : Tab (List Nat) := []
  notReadySaid : List Nat := []
  deriving DecidableEq, Repr

/-- A memory instance's repeat tracker (R382), oldest entry first, and whether event 0x1801 has been raised in this second. -/
structure WhipInt where
  tracker : List (Nat × Nat) := []
  corrSaid : Bool := false
  passes : Nat := 0
  deriving DecidableEq, Repr

/-- Strand of a line (R72 to R78, R483): the laser may be enabled (a DAC calibration has succeeded since the line left Off); what the
calibrations have set at the sub-converters of each tributary (four of a DAC, eight of an ADC), the corrections that later updates still have to apply, the ADC moves that wait
for a modulation-frame boundary (R77); the ADC calibration has failed and none has succeeded since (R78); the calibration history that
ageing uses, newest first: whether of an ADC, the tributary, the values set. -/
structure StrandInt where
  txReady : Bool := false
  dac : Tab (List Calib) := []
  adc : Tab (List Calib) := []
  dacRest : Tab (List Calib) := []
  adcRest : Tab (List Calib) := []
  adcDue : Tab (List Calib) := []
  adcFailed : Bool := false
  history : List (Bool × Nat × List Calib) := []
  deriving DecidableEq, Repr

/-- Braid's loading engine of a line (R58 to R68): by slot, the sum and number of the REQ_SNR reports of the averaging period and the
averages of the past evaluations (as such pairs), newest first; the table proposed or counted down to (slot, base, entropy); the
ANN_ID last used; a MAN_GO kept for later; the slots held at their floor; a forced reversion waiting for a countdown's end; an
evaluation kept for later; by tributary the last samples in the pre-distortion filter (R55). -/
structure BraidInt where
  sums : Tab (Nat × Nat) := []
  past : Tab (List (Nat × Nat)) := []
  table : List (Nat × Nat × Nat) := []
  lastId : Nat := 0
  manHeld : Bool := false
  floorHeld : List Nat := []
  revertHeld : Bool := false
  evalHeld : Bool := false
  fir : Tab (List Int) := []
  deriving DecidableEq, Repr

/-- Splice of a line (R79 to R106): the receive table in force and the standby table (slot, base, entropy); the ARM answer sent
(ARM_STATE, ARM_ID); the multiframes to the switch that a countdown has fixed, 0 for none; the subcarriers restarting and the state
each is in; the ages in modulation frames of the marker frames seen; the frame counted within the multiframe and the expected
markers missed in a row; acquisition halted by FREEZE; a warm restart under way; a freeze ended in the present modulation frame (R103); FREEZE_HOLD ran out
during FREEZE; the offset estimate lies beyond ±3.6 GHz (R87); the over-range frames of the present second; the subcarriers not in
Tracking for the whole of the present multiframe (R101); by slot the least and greatest combined SNR published in the present second
(R99). -/
structure SpliceInt where
  table : List (Nat × Nat × Nat) := []
  standby : List (Nat × Nat × Nat) := []
  armState : Nat := 0
  armId : Nat := 0
  switchIn : Nat := 0
  restarting : Tab Nat := []
  seen : List Nat := []
  phase : Nat := 0
  missed : Nat := 0
  halted : Bool := false
  warm : Bool := false
  thawed : Bool := false
  coldDue : Bool := false
  foffOut : Bool := false
  above : Nat := 0
  broken : List Nat := []
  extremes : Tab (Nat × Nat) := []
  deriving DecidableEq, Repr

/-- Halyard's record of a reference (R309, R310): rejected; monitor updates in a row within ACC; accepted; it has been Available; it was
Failed after it was last Available; REF9's intervals in a row inside and outside PPS_TOL. -/
structure HalRef where
  rejected : Bool := false
  calm : Nat := 0
  accepted : Bool := false
  been : Bool := false
  need : Bool := false
  good : Nat := 0
  bad : Nat := 0
  deriving DecidableEq, Repr

/-- What Halyard holds beside its registers: the references; the loop mode in force (R321); the samples of the frequency in the last
second of the present Locked time and those of the holdover memory, newest first (R317); the open disputes (rank, members)
(R314); whether the best rank's dispute has no eligible member (R315); the hundredths of 0.1 ppb of a frequency ramp (R321); the
seconds that the last valid serial ToD message gave its pulse, the messages in a row that advance by one, whether one loads at
the next pulse, and whether serial ToD has been loaded (R326); the amount of the phase step in progress, and what phase steps have moved the
output DPLL's accumulator by so far, in ps (R324). -/
structure HalyardInt where
  refs : Tab HalRef := []
  mode : Nat := 0
  recent : List Int := []
  memory : List Int := []
  disputes : List (Nat × Nat) := []
  blocked : Bool := false
  ramp : Int := 0
  label : Option Nat := none
  agreeing : Nat := 0
  labelDue : Bool := false
  serialLoaded : Bool := false
  step : Int := 0
  phase : Int := 0
  deriving DecidableEq, Repr

/-- What Twine holds for a lane: the running scan is automatic; the equaliser reached in training, shown once the lane is Trained (R230);
event 0x8805 raised in this second; the worst height of the last automatic scan. -/
structure TwineInt where
  auto : Bool := false
  coeff : Option Nat := none
  slipSaid : Bool := false
  height : Nat := 0
  deriving DecidableEq, Repr

/-- What the transmitter of a lane sends (Table 8.2, R236, R237): a pattern by its PATGEN code (4 the square wave of 8 symbols at the top
level and 8 at the bottom). -/
inductive LaneTx where
  | idle | training | egress | retransmit | pattern (code : Nat)
  deriving DecidableEq, Repr

/-- A received byte of a client's stream, and whether it is marked errored or stomped. -/
abbrev RxByte := Byte × Bool

/-- A bit of a decoded line stream, and whether it is marked errored. -/
abbrev RxBit := Bool × Bool

/-- A native multiframe handed to the encoder (R146, R150): the overhead option and the carriers (first slot, width, base, entropy) that it
is sent with, and its line stream. -/
structure TxMf where
  oh : Nat := 0
  carriers : List (Nat × Nat × Nat × Nat) := []
  stream : List Bool := []
  deriving DecidableEq, Repr

/-- Cleat of a line: the overhead in force in each direction and a change of it waiting for that direction's multiframe (R169); the
settings of CLET_SC_CFG, by slot, and of CLET_SD_CFG that a write has replaced and that hold until the next modulation frame (R170); the
blocks still to be marked errored after a return of LOCK (R157); by slot the window shifts of the present multiframe and those
ended early; what the present second has shown of MARGIN (below SD_SET, below SD_CLR) and the seconds in a row with and without
(R163); event 0x6003 raised in this second (R162). Of the receive direction, by first slot: the index j of the next block (R146), the
window with its messages (R155), the nodes of the two blocks that left it last (R153), the information bits of the blocks that
have left it and wait for their tick (R150), the input values and decoded labels that NGMI counts (R158); and the coded streams of
the multiframes, not yet decoded by the Lashing code (R151). Of the transmit direction: the multiframes that wait, the one being
sent with its coded stream not yet dealt and the modulation frames sent of it, and by first slot the nodes of the two blocks sent last
(R153). -/
structure CleatInt where
  txOh : Nat := 1
  rxOh : Nat := 1
  txDue : Bool := false
  rxDue : Bool := false
  oldSc : Tab (Option Nat) := []
  oldSd : Option Nat := none
  clearing : Tab Nat := []
  shifts : Tab (Nat × Nat) := []
  below : Bool := false
  unclear : Bool := false
  lowSeconds : Nat := 0
  highSeconds : Nat := 0
  uncSaid : Bool := false
  rxJ : Tab Nat := []
  window : Tab (List SoftBlock) := []
  msgs : Tab (List Int) := []
  past : Tab (Nodes × Nodes) := []
  leaving : Tab (List (Nat × List RxBit)) := []
  ngmi : Tab (List (Int × Bool)) := []
  rxCoded : List (List RxBit) := []
  txQ : List TxMf := []
  txNow : Option TxMf := none
  txCoded : List Bool := []
  txFrame : Nat := 0
  chain : Tab (Nodes × Nodes) := []
  deriving DecidableEq, Repr


/-- An egress delineator (R205): in sync; a frame in progress; the bytes of an ended frame still to pass over; the bytes received and not
yet taken. -/
structure Delin where
  sync : Bool := false
  inFrame : Bool := false
  skip : Nat := 0
  bytes : List RxByte := []
  deriving DecidableEq, Repr

/-- A stream to map (R204): the headers with their frames that wait, oldest first, and whether the first has been sent in part. -/
structure TxStream where
  units : List (List Byte) := []
  cut : Bool := false
  deriving DecidableEq, Repr

/-- A leaf's streams of a shared client (R217): downstream and upstream. -/
structure LeafStream where
  tx : TxStream := {}
  rx : Delin := {}
  deriving DecidableEq, Repr

/-- What a container carries in one multiframe (R213, R215): its container overhead word; whether it is under GMP and with which CM; its
client bytes. -/
structure Load where
  cow : List Byte := []
  gmp : Bool := false
  cm : Nat := 0
  bytes : List Byte := []
  deriving DecidableEq, Repr

/-- Sheet's record of a client: an ingress condition of R219 that Sheet itself declares; a crossing on its lanes has recentred since its
last frame, toward the line and toward the host (R37); the CM fixed last and that announced for the next multiframe (R215); its frames to map and, under GMP, its bytes
to map; the CM and flags last received, the CM of the present receive multiframe, the multiframes in a
row in which both copies failed and in which one passed, container lost (R214); Bend plays signal fail (R278); the container overhead words
received and not yet taken, the payload words of the present receive multiframe taken so far, the bytes received under GMP and
not yet delivered; its delineator; the bytes in its egress buffer (R206); the streams of a shared client's leaves by 256 × line + leaf
and the leaf whose frame went out last (R217). -/
structure ClientInt where
  condition : Bool := false
  recentred : Bool := false
  recentredOut : Bool := false
  txCm : Option Nat := none
  nextCm : Nat := 0
  tx : TxStream := {}
  txBytes : List Byte := []
  rxCm : Nat := 0
  rxFlags : Nat := 0
  cmNow : Nat := 0
  cowBad : Nat := 0
  cowGood : Nat := 0
  cowLost : Bool := false
  unitFail : Bool := false
  cows : List (List Byte) := []
  rxWord : Nat := 0
  rxBytes : List RxByte := []
  rx : Delin := {}
  egress : Nat := 0
  leaves : Tab LeafStream := []
  turn : Nat := 0
  deriving DecidableEq, Repr

/-- An upstream profile (R122): PROF_ID, base, entropy. -/
structure Profile where
  id : Nat := 0
  base : Nat := 0
  ent : Nat := 0
  deriving DecidableEq, Repr

/-- A burst that the allocator has granted (R115, R138): its leaf, upstream subcarrier, period (unwrapped), start and length in quanta,
payload quanta, whether for ranging, LONG_PRE, the discovery cycle in which it was made. -/
structure BurstGrant where
  leaf : Nat
  sub : Nat
  period : Nat
  start : Nat
  len : Nat
  payload : Nat
  ranging : Bool
  long : Bool
  cycle : Nat := 0
  deriving DecidableEq, Repr

/-- A message waiting for the control subcarrier (R114, R116): its units, the copies left, the modulation frame of its last copy,
the Ospin command that completes after the last one, and the period after which it is no longer sent. -/
structure CtrlMsg where
  units : List Byte
  left : Nat
  lastFrame : Option Nat := none
  cmd : Option Nat := none
  till : Option Nat := none
  deriving DecidableEq, Repr

/-- What Bight holds for a leaf beside BGHT_LEAF_ST: the RTT estimate in samples; it has been sent ASSIGN (R135, R136); whether it has
had an attempt in this discovery cycle; the arrival offsets of its last bursts (R133) and the corrections sent, each with the period from which it
applies; the SNR of its last bursts and, for R58, their sum and number in the present averaging period and the past averages; the
sum and number of its DN_SNR reports (R118); its profiles and a change announced with its EFF_PERIOD and the periods left to
announce it (R122); its queue reports, those frozen for the map, and the grants since the burst that reported (R139); its deficit
and the periods since its last grant (R138); the periods since it was heard; STALE_S expires in the present period (R143); its ranging
attempts that have failed, by discovery cycle (R136); the period of an Ospin re-ranging (R143); its stored equaliser state (R129). -/
structure LeafInt where
  rtt : Int := 0
  assigned : Bool := false
  offsets : List Int := []
  taDue : List (Nat × Int) := []
  snrs : List Nat := []
  sum : Nat × Nat := (0, 0)
  past : List (Nat × Nat) := []
  dnSum : Nat × Nat := (0, 0)
  prof : Profile := {}
  prev : Profile := {}
  profDue : Option (Profile × Nat × Nat) := none
  report : List Nat := []
  frozen : List Nat := []
  reportPeriod : Nat := 0
  issued : List (Nat × Nat) := []
  idle : Nat := 0
  deficit : Nat := 0
  heard : Nat := 0
  staleDue : Bool := false
  fails : Tab Nat := []
  reranged : Option Nat := none
  store : List Byte := []
  deriving DecidableEq, Repr

/-- A detection window open on an upstream subcarrier (R124): 0 normal, 1 ranging, 2 discovery; its leaf; the unwrapped period and the
start quantum G of its grant, its length in quanta; LONG_PRE; the discovery cycle of its grant; whether a header has been confirmed in
it. -/
structure Window where
  kind : Nat
  leaf : Nat
  period : Nat
  start : Nat
  len : Nat := 0
  long : Bool
  cycle : Nat := 0
  confirmed : Bool := false
  deriving DecidableEq, Repr

/-- A confirmed burst (R119, R127): its leaf and upstream subcarrier, its kind as in Window, the discovery cycle and the length of its
grant, LONG_PRE, the PROF_ID of its header, and, for one that was aborted, the payload symbols received (R132). -/
structure Burst where
  leaf : Nat
  sub : Nat
  kind : Nat
  cycle : Nat
  len : Nat
  long : Bool
  prof : Nat
  cut : Option Nat := none
  deriving DecidableEq, Repr

/-- An upstream subcarrier's receiver (R124 to R132): the window open, the lock (0 none, 1 provisional, 2 confirmed) with its correlator
(false A, true B), its peak metric, the preamble symbol of its decision and whether its end marker was found; the confirmed burst being
received; whether the lock is that of a capturing burst; the base and entropy of the burst received last; the equaliser state loaded
(empty: the default centre-tap state), the carrier offset from which the estimate starts, and step sizes of acquisition strength. -/
structure UpSub where
  window : Option Window := none
  lock : Nat := 0
  corrB : Bool := false
  metric : Nat := 0
  symbol : Nat := 0
  marker : Bool := false
  burst : Option Burst := none
  capturing : Bool := false
  base : Nat := 0
  ent : Nat := 32
  eq : List Byte := []
  offset : Int := 0
  strong : Bool := false
  deriving DecidableEq, Repr

/-- Bight of a line (chapter 4): the period counted without wrapping; the leaves and the upstream subcarriers; the messages waiting for
control blocks and the number of the next block; the grants issued; the quiet and ranging windows reserved (upstream subcarrier,
first quantum, quantum after the last, counted from period 0); a map to compute; the discovery cycles counted and invitations due; the leaf
that the next map of each upstream subcarrier starts from; ranging attempts per upstream subcarrier in this cycle; downstream changes announced (slot, base, entropy, unwrapped period of
the switch); the past averages of each downstream subcarrier; the bursts received whose payloads Cleat has still to decode; the symbols of
the control blocks that wait (R113). -/
structure BightInt where
  clock : Nat := 0
  leaves : Tab LeafInt := []
  subs : Tab UpSub := []
  msgs : List CtrlMsg := []
  blockSeq : Nat := 0
  grants : List BurstGrant := []
  reserved : List (Nat × Nat × Nat) := []
  mapDue : Bool := false
  cycle : Nat := 0
  discDue : Bool := false
  turn : Tab Nat := []
  ranged : Tab Nat := []
  dnDue : Tab (Nat × Nat × Nat) := []
  dnPast : Tab (List (Nat × Nat)) := []
  received : List Burst := []
  ctrlSyms : List ((Int × Int) × (Int × Int)) := []
  deriving DecidableEq, Repr

/-- A copy of a unit (R276): q, j, its path, whether it is good; the INV of its segment under a key and whether its tag has failed since;
the container overhead word that unit (q, 0) includes (R265); its words; the cclk cycle of its completion (R271). -/
structure UnitCopy where
  q : Nat
  j : Nat
  path : Nat
  good : Bool
  inv : Option Nat := none
  tagBad : Bool := false
  cow : List Byte := []
  words : List RxByte := []
  time : Nat := 0
  deriving DecidableEq, Repr

/-- The time-stamp of a copy's completion (R271): its unit, the cclk cycle, and whether it is new since Δ was last measured. -/
structure Stamp where
  q : Nat
  j : Nat
  time : Nat
  fresh : Bool := true
  deriving DecidableEq, Repr

/-- A path of a protection group (R270, R275): the q of the last frame 0; the q expected now; whether this multiframe has brought a valid
record; multiframes in a row without one; frames in a row whose record disagrees; Out-of-window; the q sent in the present
transmit multiframe; the container overhead word of the present receive multiframe; the copies that have come in and not yet completed
(R271); the last copy completed; the time-stamps of copies. -/
structure PathInt where
  lastQ : Option Nat := none
  expect : Nat := 0
  seen : Bool := false
  empty : Nat := 0
  wrong : Nat := 0
  outside : Bool := false
  sentQ : Nat := 0
  cow : List Byte := []
  copies : List UnitCopy := []
  done : Option (Nat × Nat) := none
  stamps : List Stamp := []
  deriving DecidableEq, Repr

/-- Bend's record of a group: the q assigned last (R265), what its multiframe carries (R267), and the client words mapped before the next
multiframe (R268); lockout and forced path (R277); whether it has aligned since it was enabled; the last unit played (q, j); the stored
copies; whether event 0x7804 has been raised in this second; the mean time by which path 1 completes after path 0, in 10 ns (R271); whether
the follower's word count has been set by a record (R268). -/
structure GroupInt where
  txQ : Nat := 0
  load : Load := {}
  words : Nat := 0
  lockout : Bool := false
  force : Option Nat := none
  aligned : Bool := false
  last : Option (Nat × Nat) := none
  store : List UnitCopy := []
  badSaid : Bool := false
  skew : Int := 0
  counted : Bool := false
  path0 : PathInt := {}
  path1 : PathInt := {}
  deriving DecidableEq, Repr

/-- A key that Seizing holds: the 256-bit key, its FIXED field, its identifier. -/
structure KeyRec where
  key : List Byte
  fixed : List Byte
  kid : Nat
  deriving DecidableEq, Repr

/-- A direction of a key context (R251): the active and the staged key, the staged key's switch point (none: the switch limit), and
whether half the active key's ceiling has been reported (R247). -/
structure DirInt where
  active : Option KeyRec := none
  staged : Option KeyRec := none
  point : Option Nat := none
  warned : Bool := false
  deriving DecidableEq, Repr

/-- A received segment whose tag has not been judged (R254, R255): its INV, its index, the frames since its close, whether its words
carry marks, its text, and the key it is under: an old key is kept only by the segments that still wait for their tags; in strict mode
the q of its multiframe and its words as decrypted, which wait with it (R257). -/
structure SegRec where
  inv : Nat
  idx : Nat
  age : Nat
  marked : Bool
  text : List Byte
  key : Option KeyRec
  q : Nat := 0
  words : List RxByte := []
  deriving DecidableEq, Repr

/-- What Seizing holds for a context: both directions; the plaintext of the transmit segments of the present multiframe that have not
closed (R245), and the segment that was going out as its key was erased (R260); the words in flight are stomped to the end of the open receive segment (R256); of a
leaf's stream the open segment's text as far as received, and the same as passed on (R259); the INV of the next receive segment to close; the segments without a judged tag,
oldest first; the INV last verified under the active key; hunting for the staged key (R258); event 0x7001 raised in this second;
the link key (R253); of the key exchange (R408) the last GEN sent and the last confirmed on receive, an OFFER without an answer (GEN, X, N_tx), the copies of
it still to send, and whether the rekeying is under way. -/
structure KcInt where
  tx : DirInt := {}
  rx : DirInt := {}
  txSegs : List (List Byte) := []
  ending : Option (KeyRec × Nat × Nat) := none
  stomp : Bool := false
  text : List RxByte := []
  words : List RxByte := []
  nextClose : Nat := 0
  waiting : List SegRec := []
  verified : Option Nat := none
  huntStaged : Bool := false
  failSaid : Bool := false
  link : Option KeyRec := none
  genTx : Nat := 0
  genRx : Nat := 0
  offer : Option (Nat × Nat × List Byte) := none
  copies : Nat := 0
  rekeying : Bool := false
  deriving DecidableEq, Repr

/-- A container of a transmit multiframe (R211): its client, its leaf for a leaf container, its positions in ascending order, what it
carries. -/
structure ContTx where
  client : Nat
  leaf : Option Nat
  places : List Nat
  load : Load
  deriving DecidableEq, Repr

/-- A container of a receive multiframe (R211): its client, its positions in ascending order, the words of it taken so far, and of the open
segment the text and the words as passed on (R245). -/
structure ContRx where
  client : Nat
  places : List Nat
  count : Nat := 0
  text : List RxByte := []
  words : List RxByte := []
  deriving DecidableEq, Repr

/-- A frame candidate (R184, R185): its bit position, the MFAS last seen there, the expected positions passed in a row, and whether it is
the alignment that was lost (R186). -/
structure Candidate where
  pos : Nat
  mfas : Nat
  passes : Nat
  lost : Bool
  deriving DecidableEq, Repr

/-- The measurements of a performance window (R196): whether of 800ZR framing; errored blocks by near and far end of SM and PM; aSSF, dBDI of SM and PM at any
time. -/
structure PmWindow where
  ozr : Bool := false
  smNear : Nat := 0
  smFar : Nat := 0
  pmNear : Nat := 0
  pmFar : Nat := 0
  ssf : Bool := false
  smBdi : Bool := false
  pmBdi : Bool := false
  deriving DecidableEq, Repr

/-- What a Regenerator line has taken from one received multiframe to be sent on by its peer (R193): K of the direction, the payload words
of the positions in order, and the PG records frame by frame. -/
structure FwdMf where
  k : Nat := 0
  words : List (List Byte) := []
  records : List (List (List Byte)) := []
  deriving DecidableEq, Repr

/-- Hitch of a line: the tag queue (R177); of the receive stream the bits decoded and not yet taken with their marks, and the position of
the first (R184); the candidates and the position at which the next frame is expected (R184 to R186); errored FAWs and wrong MFAS
bytes in a row and the MFAS last seen (R186, R187); the runs behind dAIS, dBDI of SM and PM (R189): the value seen last and how
often in a row; the TTIs received last and how often; the SM BEI and PM BEI to send; whether the consequent actions of aSSF are in
force (R192); the settings that a commit has replaced and that are in force until the next frame, and for the present performance
window (HTCH_LINE_CFG and the expected TTI, R200, R201); of the receive multiframe the BIP-8 of the last frame's payload, that of the
payload of this multiframe and of the last whole one, the overhead block as far as received, the PM_STAT of the last good block;
the containers with K, the words taken and the bytes of a word begun (R210, R211); discarding on a Regenerator pair and the positions
discarded (R193); the PM_TTI, PM_STAT and BIP-8 mask to forward (R193, R194), the multiframe being received, those received whole,
and, from the peer, the one being sent; of the transmit multiframe its overhead block (R175), its containers with K, the BIP-8 of the
last frame's payload, of this multiframe's and of the last one's; the present window and those held for 10 s, oldest first (R197);
unavailable time of SM near, SM far, PM near, PM far; the windows committed in the 15-minute and 24-hour intervals and the intervals
marked SUSPECT, by number (R199); the bursts decoded, by leaf, oldest first, and the leaf streams' next offsets (R182, R183); the GCC0
packets received (R407); of 800ZR framing the TTI bytes of SM and PM by frame (R181). -/
structure HitchInt where
  tagq : List (List Byte) := []
  rxBits : List RxBit := []
  rxAt : Nat := 0
  cands : List Candidate := []
  pos : Nat := 0
  errored : Nat := 0
  wrong : Nat := 0
  lastMfas : Nat := 0
  ais : Bool × Nat := (false, 0)
  smBdi : Bool × Nat := (false, 0)
  pmBdi : Bool × Nat := (false, 0)
  smTti : List Byte × Nat := ([], 0)
  pmTti : List Byte × Nat := ([], 0)
  smBei : Nat := 0
  pmBei : Nat := 0
  acting : Bool := false
  cfgOld : Option (Nat × Nat) := none
  pmOld : Option (Nat × Nat) := none
  rxBip : Option Byte := none
  rxPm : Option Byte := none
  rxPmLast : Option Byte := none
  rxMob : List Byte := []
  rx : List ContRx := []
  rxK : Nat := 0
  rxWord : Nat := 0
  rxRest : List RxByte := []
  discarding : Bool := false
  dropped : Nat := 0
  fwdTti : List Byte := []
  fwdStat : Nat := 0
  fwdMask : Nat := 0
  fwdIn : FwdMf := {}
  fwdDone : List FwdMf := []
  fwdOut : FwdMf := {}
  mob : List Byte := []
  tx : List ContTx := []
  txK : Nat := 0
  txBip : Byte := 0
  txPm : Byte := 0
  txPmLast : Byte := 0
  window : PmWindow := {}
  held : List PmWindow := []
  uas : Tab Bool := []
  count15 : Nat := 0
  count24 : Nat := 0
  sus15 : List Nat := []
  sus24 : List Nat := []
  bursts : List (Nat × List RxByte) := []
  leafNext : Tab (Option Nat) := []
  gcc : List (List Byte) := []
  ozrSm : Tab Byte := []
  ozrPm : Tab Byte := []
  deriving DecidableEq, Repr

/-- Belay's grant for a subcarrier: iterations, taps and the code of UPD (R94, R160). -/
structure Grant where
  iter : Nat
  taps : Nat
  upd : Nat
  deriving DecidableEq, Repr

/-- What Belay holds beside its registers: the grants computed last, by 32 × line + first slot (R436); whether event 0x3008 has been raised
in this second (R436); whether level 5 is granted (R435); where VDD_IO stands, after the filter of R439: 0 at or above 1.77 V, 1 fallen
below 1.75 V, 2 below 1.71 V, 3 below 1.65 V; whether the last sample of Tj stood at TJ_TRIP; the seconds since the last complete hold
test (R442). -/
structure BelayInt where
  grants : Tab (Option Grant) := []
  levelSaid : Bool := false
  background : Bool := true
  io : Nat := 0
  trip : Bool := false
  sinceTest : Nat := 0
  deriving DecidableEq, Repr

/-- A checkpoint set (Table 11.4): its number, the time of day of its snapshot, its digest, its bytes. -/
structure CkSet where
  seq : Nat
  tod : Nat
  digest : List Byte
  body : List Byte
  deriving DecidableEq, Repr

/-- A checkpoint set that is arriving (R300): the bytes of its packets, a packet that failed, the last packet taken. -/
structure CkRx where
  bytes : List Byte
  bad : Bool := false
  complete : Bool := false
  deriving DecidableEq, Repr

/-- What Lanyard holds: HELLO packets with ACK in a row in this attempt and whether a valid HELLO has come (R288, R289); the SEQ of the
next packet; the records and checkpoint packets (flags, payload) waiting for credit, those sent since the entry to Up and those the
partner has returned; those returned to the partner and whether that has changed since the last CREDIT (R287, R288); the last
claim frame's number and how often in a row, the numbers from the pins and from HELLO (R294); gap done (R296); the sets: the
number of the one being sent, the arriving one, the latest and the previous valid one, the number of valid ones, those in
CK_REGION, newest first, the device's own latest (R299, R300); STBY_SUSPECT here and at the partner (R301); a takeover's restore and its set (R302); the next packet comes damaged by a recentred
crossing (R37). -/
structure LanyardInt where
  hellos : Nat := 0
  heard : Bool := false
  seq : Nat := 0
  lsWait : List (List Byte) := []
  ckWait : List (Nat × List Byte) := []
  lsSent : Nat := 0
  ckSent : Nat := 0
  lsBack : Nat := 0
  ckBack : Nat := 0
  lsTaken : Nat := 0
  ckTaken : Nat := 0
  creditDue : Bool := false
  frameNum : Nat := 0
  frameRun : Nat := 0
  pinNum : Option Nat := none
  helloNum : Option Nat := none
  gapDone : Bool := true
  sending : Option Nat := none
  arriving : Option CkRx := none
  latest : Option CkSet := none
  previous : Option CkSet := none
  valid : Nat := 0
  region : List CkSet := []
  own : Option CkSet := none
  suspect : Bool := false
  farSuspect : Bool := false
  takeover : Option CkSet := none
  hit : Bool := false
  deriving DecidableEq, Repr

/-- What Tally and the ageing service hold beside their registers: the number of the last replan, the seconds since and whether the log has an entry
(Table 17.7); the lane margin history, newest first: whether of the mate link, the lane, worst eye height and width (R235, R292). -/
structure AgeInt where
  replan : Nat := 0
  seconds : Nat := 0
  logged : Bool := false
  margins : List (Bool × Nat × Nat × Nat) := []
  deriving DecidableEq, Repr

/-- An urgent step that is pending or running (R453): its step word, the command that asked for it (none: TALY_URG), the seconds at its start. -/
structure UrgentStep where
  step : Nat
  cmd : Option Nat
  since : Nat
  deriving DecidableEq, Repr

/-- Snapshot capture of a line (R456 to R458): SRC and OFFSET as armed; of the latest snapshot the source that fired (0xFF: SNAP_FIRE), its
valid samples per ADC, TRIG_IDX, the time of day and the number of its trigger; a drain that has started. -/
structure SnapInt where
  src : Nat := 0
  offset : Nat := 0
  fired : Nat := 0
  samples : Nat := 0
  index : Nat := 0
  seconds : Nat := 0
  ns : Nat := 0
  seq : Nat := 0
  draining : Bool := false
  deriving DecidableEq, Repr

/-- What Tally holds for its converters and its capture: a commit that waits for the end of the running sequence (R460), the seconds at the
start of the entry converting, the urgent step, the inputs that have raised event 0x3802 in this second and whether event 0x3801 has
been raised, the scans in a row in which each junction sensor was bad and good (R454), fewer than 8 sensors valid, the lines' captures,
the snapshots taken. -/
structure TallyInt where
  due : Option RegStore := none
  since : Nat := 0
  urgent : Option UrgentStep := none
  overSaid : List Nat := []
  trigSaid : Bool := false
  runs : Tab (Nat × Nat) := []
  fallback : Bool := false
  snaps : Tab SnapInt := []
  snapSeq : Nat := 0
  deriving DecidableEq, Repr

/-- A dump tick (R465): whether CNT_DUMP gave it, and which command. -/
structure DumpTick where
  cmd : Option Nat
  deriving DecidableEq, Repr

/-- A dump being written (R466): its tick, the time of day of the tick, SEL, and the shadows as (BAR0 address, value). -/
structure Dump where
  tick : DumpTick
  seconds : Nat
  ns : Nat
  todValid : Bool
  sel : Nat
  ring : Nat
  shadows : List (Nat × Nat)
  deriving DecidableEq, Repr

/-- What Fathom holds beside its registers: the dump being written, the tick pending, the samples
written by each core (Table 19.4). -/
structure FathomInt where
  dump : Option Dump := none
  tick : Option DumpTick := none
  samples : Tab Nat := []
  deriving DecidableEq, Repr

/-- What the device has sent to the outside, in the order of sending. -/
inductive Out where
  /-- The value a register read returns to its requester. -/
  | read (req : Requester) (value : Nat)
  /-- An access completed with Unsupported Request (R8, R333). -/
  | unsupported (req : Requester)
  /-- A precise data abort on a core (R394). -/
  | dataAbort (core : Nat) (addr : Nat)
  /-- An event delivered on-die to the supervisor (R348): code, domain, parameters, exit flag. -/
  | event (code dom : Nat) (params : List Nat) (exit : Bool)
  /-- An entry written into a ring's memory (R341). -/
  | ringEntry (ring index : Nat) (bytes : List Byte)
  /-- A result buffer written (R346): in attached memory or not, region, address, its 64 bytes. -/
  | resultBuffer (attached : Bool) (region addr : Nat) (bytes : List Byte)
  /-- An MSI-X message (R362): its vector, and the address and the data of its table entry. -/
  | msix (vec addr data : Nat)
  /-- The answer to a snoop: the line is not held (R334). -/
  | snoopMiss (addr : Nat)
  /-- PPS_OUT rises, for a time in µs (R327). -/
  | ppsOut (width : Nat)
  /-- A frame sent toward the host: ended with an error or not, the inter-frame gap before it, and its bytes with preamble and
  delimiter (R206). -/
  | hostFrame (client : Nat) (err : Bool) (gap : Nat) (bytes : List Byte)
  /-- The stream of a client under GMP sent toward the host (R207, R209). -/
  | hostStream (client : Nat) (bytes : List Byte)
  /-- A container overhead word sent on a line (R213). -/
  | cow (client line : Nat) (bytes : List Byte)
  /-- A packet sent on a lane of the mate link (Table 11.1). -/
  | matePacket (lane : Nat) (bytes : List Byte)
  /-- A frame sent on a line, scrambled, its first bit first, after the last of a multiframe with the pad (R172, R173). -/
  | frame (line : Nat) (bits : List Bool)
  /-- The symbols of a subcarrier in a modulation frame, X and Y, pilots marked (R45, R48 to R51). -/
  | symbols (line slot : Nat) (syms : List ((Int × Int) × (Int × Int) × Bool))
  /-- The codes of a DAC for a modulation frame (R55). -/
  | dac (line trib : Nat) (codes : List Nat)
  /-- The exit burst of a mate lane that leaves electrical idle (R291): 256 times /K28.5/D10.2/. -/
  | exitBurst (lane : Nat)
  /-- A control block sent on a Hub line's control subcarrier (Table 4.2). -/
  | controlBlock (line : Nat) (bytes : List Byte)
  /-- The answer to a partner's coefficient request (R230): applied, or at its limit. -/
  | coeffAnswer (lane : Nat) (atLimit : Bool)
  /-- How a lane stands on the balls of its quad (R227, R231): what its transmitter sends, on which pair, inverted or not, and the pair it
  receives from, where it does. -/
  | lane (lane : Nat) (tx : LaneTx) (txPair : Nat × Bool) (rxPair : Option (Nat × Bool))
  /-- A snapshot written to a region (R458): its header (Table 18.4) at an offset, and from 4 KiB on the four ADC blocks of 1 MiB, XI, XQ, YI
  and YQ, each from the oldest sample to the newest. -/
  | snapshot (line region addr : Nat) (header : List Byte) (blocks : List (List Byte))
  deriving DecidableEq, Repr

/-- The pins (Table 21.1) that a rule of the manual drives or reads; clmFrame is the claim frame that CLM_OUT[1] repeats (R294). -/
structure Pins where
  optTxen : Tab Bool := []
  losIn : Tab Bool := []
  clmOut0 : Bool := false
  clmFrame : Nat := 0x7E000000
  clmIn0 : Bool := false
  deriving DecidableEq, Repr

/-- The state of the device. -/
structure State where
  /-- The registers and table memories (the active values). -/
  regs : RegStore := []
  /-- The shadow values of the RWC fields (Table 0.4). -/
  shadow : RegStore := []
  /-- The holding slots in use, oldest latch first (R11). -/
  latches : List Latch := []
  /-- Time of day in seconds (R326). -/
  tod : Nat := 0
  pins : Pins := {}
  rings : Tab RingInt := []
  /-- The accepted commands that have not written their completion, in order of acceptance (R349). -/
  inflight : List Cmd := []
  /-- The MODEL's own: the number of the next accepted command. -/
  nextCmd : Nat := 0
  vecs : Tab VecInt := []
  auth : List AuthInt := []
  /-- The seconds left of each role session, by slot (R418). -/
  sessLeft : Tab Nat := []
  nv : NvState := {}
  journal : Journal := {}
  marline : Marline := {}
  boot : Boot := {}
  mem : MemInt := {}
  whip : Tab WhipInt := []
  strand : Tab StrandInt := []
  braid : Tab BraidInt := []
  splice : Tab SpliceInt := []
  halyard : HalyardInt := {}
  bight : Tab BightInt := []
  cleat : Tab CleatInt := []
  twine : Tab TwineInt := []
  clients : Tab ClientInt := []
  /-- The leaves (line, leaf ID) whose upstream signal fail is signalled to Sheet (R142, R183). -/
  leafFail : List (Nat × Nat) := []
  groups : Tab GroupInt := []
  kcs : Tab KcInt := []
  /-- The domain KEKs unwrapped, by domain (R248). -/
  keks : Tab (List Byte) := []
  hitch : Tab HitchInt := []
  lanyard : LanyardInt := {}
  belay : BelayInt := {}
  age : AgeInt := {}
  /-- By source block, the handshake transfers that a reset of their destination has discarded (R38). -/
  discards : Tab Nat := []
  tally : TallyInt := {}
  fathom : FathomInt := {}
  /-- The MODEL's own: the number of free values drawn so far (log entry 2). -/
  drawn : Nat := 0
  /-- The MODEL's own record of what the device has sent out, the latest first. -/
  out : List Out := []
  /-- The commands that are waiting, first in, first out. -/
  pending : List Instr := []
  deriving DecidableEq, Repr

/-- No command of this device stops it: the spec gives every row an effect. -/
inductive Fault where
  deriving DecidableEq, Repr

/-- Refusals. -/
inductive Refusal where
  /-- Raised by an arm of exec for a row that has no meaning yet; safe. -/
  | notModelled (mnemonic : String)
  deriving DecidableEq, Repr

/-- The machine right after reset: the always-on island has just been powered on (R476), PORST_N is low, every register holds its reset
value, and no command waits. -/
def State.reset : State := {}

end Sys2Proof.Machine
end

