-- ==== Sys2Proof/Machine/Ops.lean ====
section
/-! DEFINITION. The named operations over the state: reading and writing a field, counting, drawing an open value, raising an event and
writing it to its ring, sending an interrupt message, the rights of a requester, journaling, refusing. -/

namespace Sys2Proof.Machine

open Sys2Proof

/-- The outcome of a command. -/
abbrev Res := Host.Outcome State Fault Refusal

/-! ### Registers -/

/-- The value of a register instance. -/
def State.reg (s : State) (id : RegId) (i : Nat := 0) (j : Nat := 0) (k : Nat := 0) : Nat := s.regs.get ⟨id, i, j, k⟩

/-- A register instance set to a value. -/
def State.setReg (s : State) (id : RegId) (v : Nat) (i : Nat := 0) (j : Nat := 0) (k : Nat := 0) : State :=
  { s with regs := s.regs.put ⟨id, i, j, k⟩ v }

/-- The value of a field. -/
def State.rd (s : State) (f : Fld) (i : Nat := 0) (j : Nat := 0) (k : Nat := 0) : Nat :=
  bits (s.reg f.id i j k) f.hi f.lo

/-- Whether a one-bit field is set. -/
def State.on (s : State) (f : Fld) (i : Nat := 0) (j : Nat := 0) (k : Nat := 0) : Bool := s.rd f i j k != 0

/-- A field set to a value, the register's other bits kept. -/
def State.wr (s : State) (f : Fld) (v : Nat) (i : Nat := 0) (j : Nat := 0) (k : Nat := 0) : State :=
  s.setReg f.id (setBits (s.reg f.id i j k) f.hi f.lo v) i j k

/-- The width of a field. -/
def Fld.width (f : Fld) : Nat := f.hi + 1 - f.lo

/-- A saturating count raised by d. -/
def State.inc (s : State) (f : Fld) (d : Nat := 1) (i : Nat := 0) (j : Nat := 0) (k : Nat := 0) : State :=
  s.wr f (satAdd f.width (s.rd f i j k) d) i j k

/-- A wrapping count raised by d. -/
def State.incWrap (s : State) (f : Fld) (d : Nat := 1) (i : Nat := 0) (j : Nat := 0) (k : Nat := 0) : State :=
  s.wr f (s.rd f i j k + d) i j k

/-- A Fathom counter raised by d: 48 bits, wrapping, with the sticky WRAP in bit 63 (R462). -/
def State.count (s : State) (id : RegId) (d : Nat) (i : Nat := 0) (j : Nat := 0) (k : Nat := 0) : State :=
  let v := s.reg id i j k
  let c := bits v 47 0 + d
  s.setReg id (setBits (setBits v 47 0 c) 63 63 (if 2 ^ 48 ≤ c then 1 else bits v 63 63)) i j k

/-- The shadow value of a register instance. -/
def State.shadowReg (s : State) (r : RegKey) : Nat := s.shadow.get r

/-! ### Steps -/

/-- Whether a block has one part per line, of which a failed self-test holds only that line's (R481). -/
def perLine (b : Nat) : Bool := 8 ≤ b && b ≤ 14

/-- A command of a block: it acts while the block is out of reset (R476, R478, R481), and is nothing that can happen before. -/
def State.alive (s : State) (b : Nat) : Bool := s.boot.coreUp && (perLine b || !(s.rd .TOP_FAULT_HELD).testBit b)

/-- The outcome of a happening in block b. -/
def act (b : Nat) (s : State) (f : State → State) : Res := .next (if s.alive b then f s else s)

/-- Something sent out. -/
def State.emit (s : State) (o : Out) : State := { s with out := o :: s.out }

/-- An open value: the next free value and the state with the counter advanced (log entry 2). -/
def State.draw (s : State) : State × Nat := ({ s with drawn := s.drawn + 1 }, Config.freeValue s.drawn)

/-- Functions over the lines or another list of units, one after the other. -/
def State.each (s : State) (l : List Nat) (f : Nat → State → State) : State := l.foldl (fun t n => f n t) s

/-! ### Interrupt messages and rings -/

/-- A field of a ring's configuration entry (Table 13.17). -/
def State.ringCfg (s : State) (r : Nat) (f : Fld) : Nat := s.rd f r

/-- The number of entries of a ring (R338). -/
def State.ringSize (s : State) (r : Nat) : Nat := 2 ^ (s.rd .BCKT_RING_CFG_SIZE r + 4)

/-- The entries a ring holds (R341). -/
def State.ringFill (s : State) (r : Nat) : Nat :=
  wrapSub (2 ^ 17) (s.rd .BCKT_RING_ST_PROD r) (s.rd .BCKT_RING_ST_CONS r)

/-- What the ring engine holds for a ring beside its registers. -/
def State.ring (s : State) (r : Nat) : RingInt := s.rings.get {} r

/-- The same, replaced. -/
def State.setRing (s : State) (r : Nat) (x : RingInt) : State := { s with rings := s.rings.put {} r x }

/-- The PHASE of an index: 1 in even passes (R341). -/
def ringPhase (size idx : Nat) : Nat := if idx / size % 2 = 0 then 1 else 0

/-- The rings whose configuration is listed, in ascending order: every enabled ring is among them. -/
def State.listedRings (s : State) : List Nat :=
  (s.regs.filter fun c => decide (c.key.id = .BCKT_RING_CFG)).map fun c => c.key.i

/-- Whether a ring is enabled, of a type, and Running. -/
def State.ringRuns (s : State) (r type : Nat) : Bool :=
  s.on .BCKT_RING_CFG_EN r && s.rd .BCKT_RING_CFG_TYPE r == type && s.rd .BCKT_RING_ST_STATE r == 1

/-- An MSI-X message: dropped while the link is down or after viral; pending while the vector is masked (R362). -/
def State.message (s : State) (v : Nat) : State :=
  if !s.on .BCKT_U_STAT_LINK_UP || s.on .BCKT_U_STAT_VIRAL then s
  else
    let x := s.vecs.get {} v
    if x.masked then { s with vecs := s.vecs.put {} v { x with pending := true } } else s.emit (.msix v x.addr x.data)

/-- An entry has been written into a ring: the message of R362 by count, or at once. -/
def State.ringMessage (s : State) (r : Nat) (atOnce : Bool) : State :=
  if s.on .BCKT_RING_CFG_IRQ_EN r then
    let x := s.ring r
    if atOnce || s.rd .BCKT_RING_CFG_IRQ_CNT r + 1 ≤ x.sinceMsg + 1 then
      (s.setRing r { x with sinceMsg := 0 }).message (s.rd .BCKT_RING_CFG_VEC r)
    else s.setRing r { x with sinceMsg := x.sinceMsg + 1 }
  else s

/-- Whether some bytes lie inside a region (R371). -/
def State.inRegion (s : State) (e addr len : Nat) : Bool := addr + len ≤ s.rd .BCKT_REGION_SIZE e <<< 24

/-- The port and the device address of an offset in a region (R371). -/
def State.regionPlace (s : State) (e off : Nat) : Nat × Nat :=
  let base := s.rd .BCKT_REGION_BASE e <<< 24
  if s.on .BCKT_REGION_INTLV e then (off / 4096 % 2, base + off / 8192 * 4096 + off % 4096)
  else (s.rd .BCKT_REGION_PORT e, base + off)

/-- The offset of a ring's entry from the start of its memory (R341): entries of 64 bytes in a command ring, of 32 in another. -/
def State.ringOffset (s : State) (r idx : Nat) : Nat :=
  s.rd .BCKT_RING_CFG_BASE r + idx % s.ringSize r * (if s.rd .BCKT_RING_CFG_TYPE r = 0 then 64 else 32)

/-- Whether an entry of a ring lies beyond the end of its region (R371). -/
def State.ringOutside (s : State) (r idx : Nat) : Bool :=
  s.on .BCKT_RING_CFG_LOC r &&
    !s.inRegion (s.rd .BCKT_RING_CFG_REGION r) (s.ringOffset r idx) (if s.rd .BCKT_RING_CFG_TYPE r = 0 then 64 else 32)

/-- An entry of 32 bytes written at PROD as it is (R341, R421); beyond the end of the ring's region the write is discarded and counted
(R371). -/
def State.ringPutRaw (s : State) (r : Nat) (entry : List Byte) (atOnce : Bool := false) : State :=
  let p := s.rd .BCKT_RING_ST_PROD r
  let t := if s.ringOutside r p then s.count .BCKT_MEM_CNT 1 (s.regionPlace (s.rd .BCKT_RING_CFG_REGION r) (s.ringOffset r p)).1 4
    else s.emit (.ringEntry r (p % s.ringSize r) entry)
  (t.wr .BCKT_RING_ST_PROD ((p + 1) % 2 ^ 17) r).ringMessage r atOnce

/-- An entry written at PROD, its PHASE and CRC added (R341, R345). -/
def State.ringPut (s : State) (r : Nat) (body : Nat → List Byte) (atOnce : Bool) : State :=
  s.ringPutRaw r (withCrc (body (ringPhase (s.ringSize r) (s.rd .BCKT_RING_ST_PROD r)))) atOnce

/-- Whether a ring has a free entry. -/
def State.ringRoom (s : State) (r : Nat) : Bool := s.ringFill r + (s.ring r).reserved < s.ringSize r

/-- A record to a stream ring (R358): full and not wrapping, it is lost and counted in OVF; wrapping, the oldest entry goes. -/
def State.streamPut (s : State) (r : Nat) (body : Nat → List Byte) : State :=
  if s.ringRuns r 3 then
    if s.ringRoom r then s.ringPut r body false
    else if s.on .BCKT_RING_CFG_STRM_WRAP r then
      ((s.inc .BCKT_RING_ST_OVF 1 r).wr .BCKT_RING_ST_CONS ((s.rd .BCKT_RING_ST_CONS r + 1) % 2 ^ 17) r).ringPut r body false
    else s.inc .BCKT_RING_ST_OVF 1 r
  else s

/-! ### Events -/

/-- The ring that takes the events of a domain (R348): its own, or that of D0. -/
def State.eventRing (s : State) (d : Nat) : Option Nat :=
  let own (d : Nat) : Option Nat :=
    let r := s.rd .BCKT_EVQ_RING d
    if s.on .BCKT_EVQ_EN d && s.on .BCKT_RING_CFG_EN r && s.rd .BCKT_RING_CFG_TYPE r == 2 then some r else none
  match own d with
  | some r => some r
  | none => own 0

/-- The 28 bytes of an event before its CRC (Table 13.8a). -/
def eventBody (code dom ns seconds seq : Nat) (todValid exit : Bool) (params : List Nat) (phase : Nat) : List Byte :=
  leBytes 2 code ++ leBytes 1 (phase + 2 * b2n todValid + 4 * b2n exit) ++ leBytes 1 dom ++ leBytes 4 ns ++
    leBytes 6 seconds ++ leBytes 2 seq ++ padTo 12 (params.flatMap fun p => leBytes 4 p)

/-- An event written to a ring with room: SEQ counts, the time of day is taken. -/
def State.eventWrite (s : State) (r code dom : Nat) (params : List Nat) (exit : Bool) : State :=
  let (t, v) := s.draw
  let x := t.ring r
  (t.setRing r { x with seq := (x.seq + 1) % 2 ^ 16 }).ringPut r
    (eventBody code dom (v % 2 ^ 30) s.tod x.seq (s.on .HLYD_STAT_TOD_VALID) exit params) false

/-- An event for a full ring is lost and counted (R358). -/
def State.eventLost (s : State) (r code : Nat) : State :=
  let x := s.ring r
  ((s.inc .BCKT_RING_ST_OVF 1 r).count .BCKT_CNT 1 6).setRing r
    { x with lost := x.lost + 1, firstLost := if x.lost = 0 then code else x.firstLost, lastLost := code }

/-- An event put into one ring: a Halted ring does not write (R360), a full one loses it (R358). -/
def State.eventTo (s : State) (r code dom : Nat) (params : List Nat) (exit : Bool) : State :=
  if s.rd .BCKT_RING_ST_STATE r == 1 then
    if s.ringRoom r && (s.ring r).lost == 0 then s.eventWrite r code dom params exit else s.eventLost r code
  else s

/-- An event (R348): delivered on-die, and written to the event ring of its domain. -/
def State.event (s : State) (code dom : Nat) (params : List Nat) (exit : Bool := false) : State :=
  let t := s.emit (.event code dom params exit)
  match t.eventRing dom with
  | some r => t.eventTo r code dom params exit
  | none => t

/-- An event with its bit in its block's event register (R348). -/
def State.raise (s : State) (f : Fld) (code dom : Nat) (params : List Nat) (exit : Bool := false) (i : Nat := 0) : State :=
  (s.wr f 1 i).event code dom params exit

/-! ### Faults (R486, R488) -/

/-- The fault vector (R486). -/
def State.faultVector (s : State) : State := if s.on .TOP_FLT_CFG_FVEC_EN then s.message (s.rd .TOP_FLT_CFG_FVEC) else s

/-- A bit of TOP_FAULT that is a source of FLT_N takes its value; its rise drives FLT_N low and sends the fault vector where the operand says
so. -/
def State.setFault (s : State) (f : Fld) (v vec : Bool) : State :=
  let was := s.on f
  let s := s.wr f (b2n v)
  if v && !was then
    let s := { s with boot := { s.boot with fltLow := true } }
    if vec then s.faultVector else s
  else s

/-- A boot fails (R480): FAIL with its cause; it stops at its stage. -/
def State.bootFail (s : State) (cause : Nat) : State :=
  ((s.wr .TOP_BOOT_ST_FAIL 1).wr .TOP_BOOT_ST_FAIL_CAUSE cause).setFault .TOP_FAULT_BOOT_FAIL true true

/-- Whether a source of FLT_N holds (R488): a reset, the boot, a fault, a held block that the device cannot do without, Shutdown-orderly, aSSF
on a line with FLT_EN, or software. -/
def State.fltSource (s : State) : Bool :=
  s.boot.porst || !s.boot.coreUp || s.rd .TOP_BOOT_ST_STAGE < 7 || s.on .TOP_BOOT_ST_FAIL || s.on .TOP_FAULT_ROOT_LOST ||
    s.on .TOP_FAULT_XO_LOST || s.on .TOP_FAULT_SVC_DOWN || ([0, 1, 2, 3, 5, 6].any fun b => (s.rd .TOP_FAULT_HELD).testBit b) ||
    s.boot.shutdown || s.on .TOP_FAULT_LINE_SSF || s.on .TOP_FAULT_FLT_SW

/-- Whether FLT_N is low. -/
def State.fltLow (s : State) : Bool := s.boot.fltLow || s.fltSource

/-! ### Domains of the data units (Table 1.5, R42) -/

/-- The width in slots of a WIDTH code (Table 2.11). -/
def slotWidth (code : Nat) : Nat := if code = 0 then 0 else 2 ^ (code - 1)

/-- The domain of a line (R42). -/
def State.lineDom (s : State) (n : Nat) : Nat := s.rd .BRAD_LINE_CFG_LINE_DOM n

/-- The first slot of the subcarrier of Braid's layout in force that covers a slot. -/
def State.coverOf (s : State) (n slot : Nat) : Option Nat :=
  (List.range 32).find? fun f =>
    f ≤ slot && decide (slot < f + slotWidth (s.rd .BRAD_SC_CFG_WIDTH n f))

/-- The slot domain of a slot (R42). -/
def State.slotDom (s : State) (n slot : Nat) : Nat :=
  s.rd .BRAD_SC_CFG_SC_DOM n ((s.coverOf n slot).getD slot)

/-- The domain of a client (R203). -/
def State.cliDom (s : State) (c : Nat) : Nat := s.rd .SHET_CLI_CFG_CLI_DOM c

/-- The domain of a tributary slot: its bound client's, or D0 (R203). -/
def State.tsDom (s : State) (k : Nat) : Nat :=
  if s.on .SHET_TS_EN k then s.cliDom (s.rd .SHET_TS_CLIENT k) else 0

/-- The domain of a protection group (R263). -/
def State.pgDom (s : State) (g : Nat) : Nat := s.rd .BEND_PG_CFG_PG_DOM g

/-- The domain of a key context (R244). -/
def State.kcDom (s : State) (k : Nat) : Nat := s.rd .SEIZ_KC_CFG_KC_DOM k

/-- The domain of a leaf (R109). -/
def State.leafDom (s : State) (n i : Nat) : Nat := s.rd .BGHT_LEAF_LEAF_DOM n i

/-- The domain of a ring (R338). -/
def State.ringDom (s : State) (r : Nat) : Nat := s.rd .BCKT_RING_CFG_DOM r

/-! ### Rights (R412 to R415, R389) -/

/-- The source of a requester stamp, coded as STAMP[3:0] of Table 16.2 and SRC of Table 22.7. -/
def srcOf : Requester → Nat
  | .host _ => 0
  | .core k => k.val + 1
  | .i3c => 9
  | .jtag => 10

/-- The PASID of a requester stamp; zero for other sources than the host. -/
def pasidOf : Requester → Nat
  | .host p => p.toNat
  | _ => 0

/-- The role that a requester's sessions give it in a domain: 0 none, 1 Operator, 2 Installer, 3 Maker (Table 16.7). -/
def State.sessionRole (s : State) (req : Requester) (d : Nat) : Nat :=
  (List.range 32).foldl (fun a k =>
    if s.on .MRLN_ROLE_ST_VALID k && s.rd .MRLN_ROLE_ST_SRC k == srcOf req && s.rd .MRLN_ROLE_ST_PASID k == pasidOf req &&
        (s.rd .MRLN_ROLE_ST_DOM_MASK k).testBit d
    then max a (s.rd .MRLN_ROLE_ST_ROLE k) else a) 0

/-- Whether a service acts in a domain (Table 15.2). -/
def State.serviceActs (s : State) (v d : Nat) : Bool :=
  match v with
  | 2 => (List.range 256).any fun k => s.kcDom k == d
  | 3 | 4 => (List.range 3).any fun n => s.lineDom n == d
  | _ => d == 0

/-- The Installer rights that R415 gives the service whose job a core runs, and R389 the voted triple. -/
def State.serviceRole (s : State) (k d : Nat) : Nat :=
  if s.on .MRLN_TRIPLE_ST_ACTIVE && k < 3 then 2
  else if s.rd .MRLN_CORE_ST_CSTATE k == 2 && s.serviceActs (s.rd .MRLN_CORE_ST_SVC k) d then 2 else 0

/-- The stamp that a core's access carries: in the triple, that of MC0 (R389). -/
def State.stampOf (s : State) (req : Requester) : Requester :=
  match req with
  | .core k => if s.on .MRLN_TRIPLE_ST_ACTIVE && k.val < 3 then .core 0 else .core k
  | r => r

/-- The role in force for a requester in a domain: a session's, for a core also its service's (R389), for JTAG only while the device
is in the Manufacturing lifecycle (R414), for the I3C target none. -/
def State.roleIn (s : State) (req : Requester) (d : Nat) : Nat :=
  match req with
  | .i3c => 0
  | .jtag => if s.nv.lifecycle = 0 then s.sessionRole .jtag d else 0
  | .core k => max (s.sessionRole (s.stampOf req) d) (s.serviceRole k.val d)
  | .host _ => s.sessionRole req d

/-- Whether a requester has a role in every one of some domains. -/
def State.permits (s : State) (req : Requester) (need : Nat) (doms : List Nat) : Bool :=
  doms.all fun d => need ≤ s.roleIn req d

/-! ### The audit journal (R419 to R421, R428) -/

/-- Whether an action that R419 journals is refused: the buffer holds 1,024 records (R428), or HOLD_ACTIVE (R421). -/
def State.journalBlocked (s : State) : Bool := decide (1024 ≤ s.journal.buffer.length) || s.on .MRLN_NV_ST_HOLD_ACTIVE

/-- The STAMP of a requester (Table 16.2): source, service number for a core, PASID for the host. -/
def State.stampWord (s : State) (req : Requester) : Nat :=
  let svc := match req with
    | .core k => s.rd .MRLN_CORE_ST_SVC k.val
    | _ => 0
  srcOf (s.stampOf req) + svc <<< 4 + pasidOf req <<< 8

/-- One record appended to the journal buffer (Table 16.2), with its stamp. The buffer holds 1,024 records (R420): one of an action that
cannot be refused is lost when it is full (DESIGN CHOICE, log entry 96). -/
def State.recordAs (s : State) (stamp role dom kind result what old new aux : Nat) : State :=
  if 1024 ≤ s.journal.buffer.length then s else
  let (t, v) := s.draw
  let r : JRec :=
    { seq := t.journal.lastSeq + 1, seconds := s.tod, ns := v % 2 ^ 30 + b2n (s.on .HLYD_STAT_TOD_VALID) <<< 30,
      stamp := stamp, role := role, dom := dom, kind := kind, result := result, what := what, old := old,
      new := new, aux := aux }
  { t with journal := { t.journal with lastSeq := t.journal.lastSeq + 1, buffer := t.journal.buffer ++ [r] } }.wr
    .MRLN_NV_ST_BUF_FILL (t.journal.buffer.length + 1)

/-- The same for a requester. -/
def State.record (s : State) (req : Requester) (role dom kind result what old new aux : Nat) : State :=
  s.recordAs (s.stampWord req) role dom kind result what old new aux

/-- A record of an action of a Marline service, which acts with Installer rights from its core (R415). -/
def State.recordSvc (s : State) (v dom kind result what old new aux : Nat) : State :=
  s.recordAs ((s.marline.services.get {} v).core + 1 + v <<< 4) 2 dom kind result what old new aux

/-- A record of the device's own (a session end, a torn page): that of the audit service. -/
def State.recordOwn (s : State) (kind result what old new aux : Nat) : State := s.recordSvc 5 0 kind result what old new aux

/-- A write discarded for want of rights (R413): counted, event 0x1011. -/
def State.denied (s : State) : State := (s.inc .MRLN_NV_ST_DENIED).raise .MRLN_NV_EVT_DENIED 0x1011 0 []

/-- An action refused because it cannot be journaled (R428, R421): counted; under HOLD_ACTIVE event 0x1015. -/
def State.unjournaled (s : State) : State :=
  let t := s.inc .MRLN_NV_ST_DENIED
  if s.on .MRLN_NV_ST_HOLD_ACTIVE then t.raise .MRLN_NV_EVT_HOLD 0x1015 0 [] else t

/-- The highest role in force for a requester in some domains. -/
def State.topRole (s : State) (req : Requester) (doms : List Nat) : Nat := doms.foldl (fun a d => max a (s.roleIn req d)) 0

/-- A write with the rights it needs (Table 16.1): without them it is discarded (R413); made with Installer or Maker rights, or where
every Operator write is journaled (R306), it is journaled or, where the journal cannot take it, discarded (R419, R428). -/
def State.write (s : State) (req : Requester) (need : Nat) (doms : List Nat) (addr old new : Nat) (opJournal : Bool)
    (f : State → State) : State :=
  let role := s.topRole req doms
  let journaled := decide (2 ≤ role) || (opJournal && decide (1 ≤ role))
  let dom := doms.headD 0
  if !s.permits req need doms then
    if journaled && !s.journalBlocked then s.denied.record req role dom 1 4 addr old new 0 else s.denied
  else if journaled then
    if s.journalBlocked then s.unjournaled else (f s).record req role dom 1 0 addr old new 0
  else f s

/-! ### Refusals -/

/-- The fields of a block's REFUSE register: STICKY, LAST_CAUSE, COUNT and, where the block has one, the unit of the latest refusal;
and the bit of its event register for a refused configuration, where it has one. -/
def refuseFields (b : Nat) : Option (Fld × Fld × Fld × Option Fld × Option Fld) :=
  match b with
  | 0 => some (.TOP_MODE_REFUSE_STICKY, .TOP_MODE_REFUSE_LAST_CAUSE, .TOP_MODE_REFUSE_COUNT, none, some .TOP_EVT_MODE_REFUSED)
  | 1 => some (.BCKT_REFUSE_STICKY, .BCKT_REFUSE_LAST_CAUSE, .BCKT_REFUSE_COUNT, some .BCKT_REFUSE_LAST_RING,
      some .BCKT_EVT_CFG_REFUSED)
  | 2 => some (.MRLN_REFUSE_STICKY, .MRLN_REFUSE_LAST_CAUSE, .MRLN_REFUSE_COUNT, some .MRLN_REFUSE_LAST_MB,
      some .MRLN_EVT_CFG_REFUSED)
  | 4 => some (.FTHM_REFUSE_STICKY, .FTHM_REFUSE_LAST_CAUSE, .FTHM_REFUSE_COUNT, some .FTHM_REFUSE_LAST_LINE,
      some .FTHM_EVT_CFG_REFUSED)
  | 5 => some (.HLYD_REFUSE_STICKY, .HLYD_REFUSE_LAST_CAUSE, .HLYD_REFUSE_COUNT, none, none)
  | 6 => some (.BLAY_REFUSE_STICKY, .BLAY_REFUSE_LAST_CAUSE, .BLAY_REFUSE_COUNT, none, none)
  | 7 => some (.TALY_REFUSE_STICKY, .TALY_REFUSE_LAST_CAUSE, .TALY_REFUSE_COUNT, none, some .TALY_EVT_CFG_REFUSED)
  | 9 => some (.BRAD_REFUSE_STICKY, .BRAD_REFUSE_LAST_CAUSE, .BRAD_REFUSE_COUNT, some .BRAD_REFUSE_LAST_LINE, none)
  | 10 => some (.SPLC_REFUSE_STICKY, .SPLC_REFUSE_LAST_CAUSE, .SPLC_REFUSE_COUNT, some .SPLC_REFUSE_LAST_LINE, none)
  | 11 => some (.BGHT_REFUSE_STICKY, .BGHT_REFUSE_LAST_CAUSE, .BGHT_REFUSE_COUNT, some .BGHT_REFUSE_LAST_LINE, none)
  | 12 => some (.CLET_REFUSE_STICKY, .CLET_REFUSE_LAST_CAUSE, .CLET_REFUSE_COUNT, some .CLET_REFUSE_LAST_LINE, none)
  | 13 => some (.HTCH_REFUSE_STICKY, .HTCH_REFUSE_LAST_CAUSE, .HTCH_REFUSE_COUNT, some .HTCH_REFUSE_LAST_LINE, none)
  | 14 => some (.SEIZ_REFUSE_STICKY, .SEIZ_REFUSE_LAST_CAUSE, .SEIZ_REFUSE_COUNT, some .SEIZ_REFUSE_LAST_KC, none)
  | 15 => some (.BEND_REFUSE_STICKY, .BEND_REFUSE_LAST_CAUSE, .BEND_REFUSE_COUNT, some .BEND_REFUSE_LAST_PG, none)
  | 16 => some (.SHET_REFUSE_STICKY, .SHET_REFUSE_LAST_CAUSE, .SHET_REFUSE_COUNT, some .SHET_REFUSE_LAST_CLIENT, none)
  | 17 => some (.TWIN_REFUSE_STICKY, .TWIN_REFUSE_LAST_CAUSE, .TWIN_REFUSE_COUNT, some .TWIN_REFUSE_LAST_LANE, none)
  | 18 => some (.LNYD_REFUSE_STICKY, .LNYD_REFUSE_LAST_CAUSE, .LNYD_REFUSE_COUNT, none, none)
  | _ => none

/-- A refusal counted in a block's REFUSE register, with event (block, cause 0x010) in a domain; the events of Becket carry the ring
(Table 13.23), the others no parameter (log entry 4). -/
def State.refuse (s : State) (b cause unit dom : Nat) : State :=
  match refuseFields b with
  | none => s
  | some (sticky, last, cnt, u, bit) =>
    let t := ((s.wr sticky 1).wr last cause).inc cnt
    let t := match u with
      | some f => t.wr f unit
      | none => t
    let t := match bit with
      | some f => t.wr f 1
      | none => t
    t.event (b * 2048 + 0x010) dom (if b = 1 then [unit] else [])

/-- A write with rights whose lack a block counts under a cause of its own (R413). -/
def State.writeOr (s : State) (req : Requester) (need : Nat) (doms : List Nat) (addr old new : Nat) (opJournal : Bool)
    (b cause unit : Nat) (f : State → State) : State :=
  let t := s.write req need doms addr old new opJournal f
  if s.permits req need doms then t else t.refuse b cause unit (doms.headD 0)

/-! ### Shadow values (R9, R510) -/

/-- The shadow value of an RWC field. -/
def State.sh (s : State) (f : Fld) (i : Nat := 0) (j : Nat := 0) (k : Nat := 0) : Nat :=
  bits (s.shadow.get ⟨f.id, i, j, k⟩) f.hi f.lo

/-- The bits of a register that are RWC fields. -/
def rwcMask (id : RegId) : Nat :=
  (regSpec id).fields.foldl (fun a f => if f.acc = .rwc then a ||| maskOf f.hi f.lo else a) 0

/-- A value with the bits of a mask taken from another. -/
def mix (m old new : Nat) : Nat := (old ^^^ (old &&& m)) ||| (new &&& m)

/-- The registers of a block that stand in either store and hold an RWC field. -/
def State.shadowKeys (s : State) (b : Nat) : List RegKey :=
  ((s.shadow ++ s.regs).map fun c => c.key).filter fun r => regAddr r >>> 22 == b && rwcMask r.id != 0

/-- A signed or unsigned field value moved into a range (R518): a range with a negative end is one of a two's complement field. -/
def clipField (w : Nat) (least most : Int) (v : Nat) : Nat :=
  if least < 0 then unsigned w (clip least most (signed w v)) else (clip least most (v : Int)).toNat

/-- The RWC fields whose range no refusal cause of their block names: they are clipped at the commit (R518). -/
def clipsAtCommit : List (Fld × Int × Int) :=
  [(.BRAD_LINE_CFG_PILOT_BOOST, 0, 30), (.BRAD_POL_IQ_PHASE, -100, 100), (.BRAD_POL_IQ_GAIN, -100, 100),
   (.SHET_FLX_CFG_INST, 1, 4), (.TALY_MON_CFG_PERIOD, 0, 1000000)]

/-- A field of a register's value moved into a range where a condition on the value holds. -/
def clipWhere (f : Fld) (most : Nat) (p : Bool) (v : Nat) : Nat :=
  if p then setBits v f.hi f.lo (min most (bits v f.hi f.lo)) else v

/-- A register's value with the fields of clipsAtCommit clipped, and with those that a cause of their block names only for some values of
the entry clipped where it does not: LPOS of a slot that is not enabled (Table 7.7, cause 2), LANES of a client without one of the
types that use it (Table 7.1, cause 1). -/
def clipReg (id : RegId) (v : Nat) : Nat :=
  match id with
  | .SHET_TS => clipWhere .SHET_TS_LPOS 639 (!bit v Fld.SHET_TS_EN.lo) v
  | .SHET_CLI_CFG =>
    let type := bits v Fld.SHET_CLI_CFG_TYPE.hi Fld.SHET_CLI_CFG_TYPE.lo
    clipWhere .SHET_CLI_CFG_LANES 3 (type == 0 || type == 5) v
  | id => clipsAtCommit.foldl (fun a (f, l, m) =>
    if f.id = id then setBits a f.hi f.lo (clipField f.width l m (bits a f.hi f.lo)) else a) v

/-- Every register of a block takes its shadow value, clipped where it is clipped at the commit; the shadow then holds the clipped value
(R511, R518). -/
def State.takeShadow (s : State) (b : Nat) : State :=
  let keys := s.shadowKeys b
  { s with
    regs := keys.foldl (fun t r => t.put r (mix (rwcMask r.id) (t.get r) (clipReg r.id (s.shadow.get r)))) s.regs
    shadow := keys.foldl (fun t r => t.put r (clipReg r.id (t.get r))) s.shadow }

/-- A register's value after a write of its RW fields: a value outside a stated range is moved to its nearest end (R518); the other
fields are kept. -/
def rwWrite (id : RegId) (old new : Nat) : Nat :=
  (regSpec id).fields.foldl (fun a f =>
    if f.acc = .rw then
      setBits a f.hi f.lo (match f.rng with
        | some (l, m) => clipField (f.hi + 1 - f.lo) l m (bits new f.hi f.lo)
        | none => bits new f.hi f.lo)
    else a) old

/-- What a refused commit records (R511): the cause, the unit, the domain of the unit. -/
structure Breach where
  cause : Nat
  unit : Nat
  dom : Nat
  deriving DecidableEq, Repr

/-- The first of some tests that breaks a rule: each gives a cause and the lowest unit that breaks it, with its domain (R511). -/
def firstBreach (l : List (Nat × Option (Nat × Nat))) : Option Breach :=
  match l with
  | [] => none
  | (c, some (u, d)) :: _ => some ⟨c, u, d⟩
  | (_, none) :: r => firstBreach r

/-- A rule that concerns no unit: broken or not. -/
def broken (p : Bool) : Option (Nat × Nat) := if p then some (0, 0) else none

/-- The lowest unit below n that breaks a rule, with its domain. -/
def lowest (n : Nat) (dom : Nat → Nat) (p : Nat → Bool) : Option (Nat × Nat) :=
  ((List.range n).find? p).map fun u => (u, dom u)

/-! ### Holding slots (R11 to R13) -/

/-- The latch of a requester discarded. -/
def State.dropLatch (s : State) (req : Requester) : State :=
  { s with latches := s.latches.filter fun l => l.req != s.stampOf req }

/-- A register write by a requester (R12): its latch goes first; while the core is in reset or the block is held, a write is
discarded (R486), and the I3C target's writes are ignored (R414). -/
def access (req : Requester) (b : Nat) (s : State) (f : State → State) : Res :=
  .next (if (s.dropLatch req).alive b && req != .i3c then f (s.dropLatch req) else s.dropLatch req)

/-! ### Clove gates (R296 to R298) -/

/-- Whether the outputs that LNYD_GATE can select are at high impedance whatever it holds (R298): MATE not in force, CLM_IN[0] asserted,
CLM_OUT[0] not. -/
def State.releases (s : State) : Bool :=
  !s.on .TOP_MODE_STAT_MATE_ACTIVE && s.on .LNYD_STAT_PART_CLAIMS && !s.on .LNYD_STAT_CLAIMING

/-- Whether an output that LNYD_GATE can select is driven (R297, R298): gated, only through an open gate; the gates gate only with MATE in
force (R296). -/
def State.drives (s : State) (gated : Bool) : Bool :=
  !s.releases && (!gated || !s.on .TOP_MODE_STAT_MATE_ACTIVE || s.on .LNYD_STAT_GATES_OPEN)

/-! ### Line modes -/

/-- The mode in force on a line (Table 1.10): 0 Off, 1 Transponder, 2 Hub, 3 Regenerator. -/
def State.lineMode (s : State) (n : Nat) : Nat :=
  s.rd (match n with | 0 => .TOP_MODE_STAT_L0_MODE | 1 => .TOP_MODE_STAT_L1_MODE | _ => .TOP_MODE_STAT_L2_MODE)

/-- The framing in force on a line: true for 800ZR. -/
def State.lineOzr (s : State) (n : Nat) : Bool :=
  s.on (match n with | 0 => .TOP_MODE_STAT_L0_FRAME | 1 => .TOP_MODE_STAT_L1_FRAME | _ => .TOP_MODE_STAT_L2_FRAME)

/-- The BUSY bit of a line. -/
def busyFld : Nat → Fld
  | 0 => .TOP_MODE_STAT_L0_BUSY
  | 1 => .TOP_MODE_STAT_L1_BUSY
  | _ => .TOP_MODE_STAT_L2_BUSY

/-- Whether a line is out of Off in native framing. -/
def State.lineNative (s : State) (n : Nat) : Bool := s.lineMode n != 0 && !s.lineOzr n

/-- The 15-minute and the 24-hour interval of a second marked SUSPECT for a line's performance record (R199). -/
def State.markIntervals (s : State) (n t : Nat) : State :=
  let x := s.hitch.get {} n
  let put (l : List Nat) (i : Nat) : List Nat := if l.contains i then l else i :: l
  { s with hitch := s.hitch.put {} n { x with sus15 := put x.sus15 (t / 900), sus24 := put x.sus24 (t / 86400) } }

/-- The peer of a Regenerator line (Table 1.7). -/
def State.regenPeer (s : State) (n : Nat) : Nat := s.rd .TOP_LINE_MODE_REGEN_PEER n

end Sys2Proof.Machine
end

