-- ==== Sys2Proof/Machine/Stream.lean ====
section
/-! DEFINITION. Bit streams: bytes sent most significant bit first (R172), BIP-8 (R174) and the frame scrambler (R173). -/

namespace Sys2Proof.Machine

open Sys2Proof

/-- The bits of some bytes, each most significant bit first (R172). -/
def toBits (l : List Byte) : List Bool := l.flatMap fun b => msbFirst 8 b.toNat

/-- The value of some bits, the first the most significant. -/
def bitVal (l : List Bool) : Nat := l.foldl (fun a b => 2 * a + b2n b) 0

/-- The bytes of a stream of bits from its first bit on; a byte with a marked bit is marked. -/
def rxBytes : List RxBit → List RxByte
  | a :: b :: c :: d :: e :: f :: g :: h :: r =>
    let l := [a, b, c, d, e, f, g, h]
    (BitVec.ofNat 8 (bitVal (l.map fun x => x.1)), l.any fun x => x.2) :: rxBytes r
  | _ => []

/-- BIP-8 over bytes: bit k is the even parity of the bits k (R174). -/
def bip8 (l : List Byte) : Byte := l.foldl (fun a b => a ^^^ b) 0

/-- The number of bits set in an 8-bit mask. -/
def ones8 (m : Nat) : Nat := ((List.range 8).filter fun k => m.testBit k).length

/-- The next state of the scrambler of x^16 + x^12 + x^3 + x + 1 (R173): the bit shifted in is the sum of the stages that the polynomial
taps, the bit given out is that of the last stage (log entry 81). -/
def scramblerNext (s : BitVec 16) : BitVec 16 :=
  (s <<< 1) ||| (BitVec.ofBool (s.getLsbD 15 ^^ s.getLsbD 11 ^^ s.getLsbD 2 ^^ s.getLsbD 0)).setWidth 16

/-- Bits under the scrambler from a state on. -/
def scrambleFrom : BitVec 16 → List Bool → List Bool
  | _, [] => []
  | s, b :: r => (b ^^ s.getLsbD 15) :: scrambleFrom (scramblerNext s) r

/-- Received bits freed from the scrambler; a mark stays with its bit. -/
def descrambleFrom : BitVec 16 → List RxBit → List RxBit
  | _, [] => []
  | s, b :: r => (b.1 ^^ s.getLsbD 15, b.2) :: descrambleFrom (scramblerNext s) r

/-- The bits of a frame as sent, with so many bits of pad behind it (R173): bytes 0 to 4 in clear, the rest under the scrambler, which
starts at 0xFFFF and runs on through the pad. -/
def frameBits (bytes : List Byte) (pad : Nat) : List Bool :=
  toBits (bytes.take 5) ++ scrambleFrom 0xFFFF (toBits (bytes.drop 5) ++ List.replicate pad false)

/-- The bytes of a received frame (R173). -/
def frameBytes (bits : List RxBit) : List RxByte := rxBytes (bits.take 40) ++ rxBytes (descrambleFrom 0xFFFF (bits.drop 40))

/-- The plain bytes of a received stream. -/
def plainBytes (l : List RxByte) : List Byte := l.map fun b => b.1

/-- The frame alignment word (Table 6.1). -/
def faw : List Byte := [0xF6, 0xF6, 0x28, 0x28]

end Sys2Proof.Machine
end

