-- ==== Sys2Proof/Machine/Capacity.lean ====
section
/-! DEFINITION. The capacity arithmetic of a line: Tables 2.1 and 5.1, and rules R56, R147, R171, R172, R178 and R210. A carrier is a pair
of its width in slots and its entropy code (H = code / 16). -/

namespace Sys2Proof.Machine

open Sys2Proof

/-- The inner parity share ρ of an overhead option (Table 5.1). -/
def ohParity (oh : Nat) : Nat × Nat := match oh with | 0 => (29, 252) | 1 => (1, 7) | 2 => (11, 63) | _ => (89, 441)

/-- The total code rate Rc of an overhead option (Table 5.1). -/
def ohRate (oh : Nat) : Nat × Nat := match oh with | 0 => (223, 256) | 1 => (27, 32) | 2 => (13, 16) | _ => (11, 14)

/-- The carried bits of a coupling block: 1,152 × H (R147). -/
def blockBits (ent : Nat) : Nat := 72 * ent

/-- The information bits that a carrier adds to a multiframe: the sum of I(j) over its 1,792 × w blocks (R147). -/
def carrierInfo (oh : Nat) (c : Nat × Nat) : Nat :=
  let all := 1792 * c.1 * blockBits c.2
  all - all * (ohParity oh).1 / (ohParity oh).2

/-- The line stream of a multiframe in bits, B (R171). -/
def lineBits (oh : Nat) (l : List (Nat × Nat)) : Nat :=
  let sum := (l.map (carrierInfo oh)).foldl (· + ·) 0
  let r := sum % 3840
  3780 * (sum / 3840) + (if 61 ≤ r then r - 60 else 0)

/-- The frame size U (R172). -/
def lineU (oh : Nat) (l : List (Nat × Nat)) : Nat := lineBits oh l / 262144

/-- The multiframe pad in bits (R172). -/
def linePad (oh : Nat) (l : List (Nat × Nat)) : Nat := lineBits oh l % 262144

/-- The payload capacity of a carrier in tributary slots, C (R56). -/
def capTs (oh : Nat) (c : Nat × Nat) : Nat :=
  9 * c.1 * 2 * 63 * c.2 * (ohRate oh).1 * 127 / (64 * 16 * (ohRate oh).2 * 128 * 5)

/-- The line positions K that a line carries (R210). -/
def lineK (oh : Nat) (l : List (Nat × Nat)) : Nat :=
  min (min 640 ((l.map (capTs oh)).foldl (· + ·) 0)) (2032 * lineU oh l / 4552)

/-- The tag records that a tag area holds, T (R178). -/
def tagRoom (u npg : Nat) : Nat := (u - 16 - 8 * npg) / 28

/-- Whether framing is adequate (R178). -/
def adequate (u npg : Nat) : Bool := decide (ceilDiv (127 * u) 16384 + 1 ≤ tagRoom u npg)

/-- Whether a base carries an entropy code (Table 2.1). -/
def pairOk (base ent : Nat) : Bool :=
  match base with
  | 0 => 24 ≤ ent && ent ≤ 32
  | 1 => 40 ≤ ent && ent ≤ 64
  | 2 => 64 ≤ ent && ent ≤ 96
  | 3 => 88 ≤ ent && ent ≤ 124
  | _ => false

/-- The first slots of a layout held in a WIDTH field. -/
def State.firstSlots (s : State) (width : Fld) (n : Nat) : List Nat :=
  (List.range 32).filter fun f => s.rd width n f != 0

/-- The subcarriers that carry a line's native stream on transmit: on a Hub line, all but the control subcarrier (R171). -/
def State.txSlots (s : State) (n : Nat) : List Nat :=
  (s.firstSlots .BRAD_SC_CFG_WIDTH n).filter fun f => !(s.lineMode n == 2 && f == s.rd .BGHT_LINE_CFG_CTRL_SLOT n)

/-- The transmit carriers of a line with their entropies from a field. -/
def State.txCarriers (s : State) (n : Nat) (ent : Fld) : List (Nat × Nat) :=
  (s.txSlots n).map fun f => (slotWidth (s.rd .BRAD_SC_CFG_WIDTH n f), s.rd ent n f)

/-- The receive carriers of a line with their entropies from a field. -/
def State.rxCarriers (s : State) (n : Nat) (ent : Fld) : List (Nat × Nat) :=
  (s.firstSlots .SPLC_SC_CFG_WIDTH n).map fun f => (slotWidth (s.rd .SPLC_SC_CFG_WIDTH n f), s.rd ent n f)

/-- What Splice holds for a line. -/
def State.spl (s : State) (n : Nat) : SpliceInt := s.splice.get {} n

/-- What Cleat holds for a line. -/
def State.clt (s : State) (n : Nat) : CleatInt := s.cleat.get {} n

/-- The carriers of the receive table in force. -/
def State.rxActive (s : State) (n : Nat) : List (Nat × Nat) :=
  (s.spl n).table.map fun e => (slotWidth (s.rd .SPLC_SC_CFG_WIDTH n e.1), e.2.2)

/-- U of the transmit table in force. -/
def State.txU (s : State) (n : Nat) : Nat := lineU (s.clt n).txOh (s.txCarriers n .BRAD_SC_ACT_ENT)

/-- U of the receive table in force. -/
def State.rxU (s : State) (n : Nat) : Nat := lineU (s.clt n).rxOh (s.rxActive n)

/-- K of the transmit table in force. -/
def State.txK (s : State) (n : Nat) : Nat := lineK (s.clt n).txOh (s.txCarriers n .BRAD_SC_ACT_ENT)

/-- K of the receive table in force. -/
def State.rxK (s : State) (n : Nat) : Nat := lineK (s.clt n).rxOh (s.rxActive n)

/-- The tables that R178 and R212 check, with the committed overhead: the start table and the floor table, on transmit and on
receive; the receive floor is BRAD's FLOOR_ENT at the same slot (log entry 6). A Hub line has no native stream on receive, and a
direction without a subcarrier is not checked. -/
def State.checkedTables (s : State) (n : Nat) : List (List (Nat × Nat)) :=
  let rx := if s.lineMode n = 2 then [] else [s.rxCarriers n .SPLC_SC_CFG_RX_START_ENT, s.rxCarriers n .BRAD_SC_LOAD_FLOOR_ENT]
  ([s.txCarriers n .BRAD_SC_LOAD_START_ENT, s.txCarriers n .BRAD_SC_LOAD_FLOOR_ENT] ++ rx).filter fun l => !l.isEmpty

/-- The least K over the checked tables. -/
def State.leastK (s : State) (n : Nat) : Nat :=
  ((s.checkedTables n).map (lineK (s.rd .CLET_LINE_CFG_OH n))).foldl min 640

/-- The protection groups enabled with a member on a line (R178): for a split group only its local member. -/
def State.groupsOn (s : State) (n : Nat) : List Nat :=
  (List.range 16).filter fun g =>
    s.on .BEND_PG_CFG_EN g &&
      (let w := s.rd .BEND_PG_CFG_W_LINE g
       let p := s.rd .BEND_PG_CFG_P_LINE g
       if s.on .BEND_PG_CFG_KIND g then (if s.on .BEND_PG_CFG_LOCAL_PATH g then p == n else w == n) else w == n || p == n)

/-- NPG of a line (R178). -/
def State.npg (s : State) (n : Nat) : Nat := (s.groupsOn n).length

end Sys2Proof.Machine
end

