-- ==== Sys2Proof/Machine/Codes.lean ====
section
/-! DEFINITION. The codes of the line: the pilot generator (R50), the burst's fields (R119, R120), the sphere-shaping matcher (R46, R47), labels and blocks (R146 to R149),
the coupled inner code (R152 to R154), the Lashing code (R151), the trellis code with its decoder (R166, R167). -/

namespace Sys2Proof.Machine

open Sys2Proof

/-! ### The pilot and preamble generator (R50) -/

/-- One step of the 15-bit shift register. -/
def prbsNext (s : BitVec 15) : BitVec 15 :=
  (s <<< 1) ||| (BitVec.ofBool (s.getLsbD 14 ^^ s.getLsbD 13)).setWidth 15

/-- The first n output bits after a state. -/
def prbs : Nat → BitVec 15 → List Bool
  | 0, _ => []
  | n + 1, s => (prbsNext s).getLsbD 0 :: prbs n (prbsNext s)

/-- A symbol: the amplitudes of I and Q with their signs. -/
abbrev Symbol := Int × Int

/-- A level of amplitude a by its sign bit: 0 is the positive level (R50, R148). -/
def level (b : Bool) (a : Nat) : Int := if b then -(a : Int) else a

/-- The QPSK symbols of a bit sequence, two bits each: I, then Q (R50). -/
def qpsk : List Bool → List Symbol
  | a :: b :: r => (level a 1, level b 1) :: qpsk r
  | _ => []

/-- The first n pilot positions under a seed: X and Y symbol of each (R49, R50). -/
def pilots (seed n : Nat) : List (Symbol × Symbol) :=
  let p := qpsk (prbs (4 * n) (BitVec.ofNat 15 seed))
  (List.range n).map fun i => (p.getD (2 * i) (1, 1), p.getD (2 * i + 1) (1, 1))

/-- P (R120): 64 QPSK symbols on both polarisations. -/
def preambleP : List (Symbol × Symbol) := (qpsk (prbs 128 0x7E11)).zip (qpsk (prbs 128 0x7E22))

/-- A burst's preamble (Table 4.6): blocks of P, the last of them −P. -/
def burstPreamble (long : Bool) : List (Symbol × Symbol) :=
  (List.replicate (if long then 7 else 3) preambleP).flatten ++
    preambleP.map fun x => ((-x.1.1, -x.1.2), (-x.2.1, -x.2.2))

/-- A burst's postamble (Table 4.6). -/
def postamble : List (Symbol × Symbol) := preambleP.take 16

/-- The symbols of a burst's fixed fields (Table 4.6): preamble, header, postamble, the least guard. -/
def fixedSymbols (long : Bool) : Nat := if long then 656 else 400

/-- The payload symbols of a burst of LEN quanta at a width (R119). -/
def payloadSymbols (w len : Nat) (long : Bool) : Nat := 64 * ((72 * w * len - fixedSymbols long) / 64)

/-- The guard of a burst (R119): 64 symbols, lengthened by those that are left over. -/
def guardSymbols (w len : Nat) (long : Bool) : Nat := 72 * w * len - (fixedSymbols long - 64) - payloadSymbols w len long

/-- The pilots of a burst payload (R120), one at each payload symbol index that is a multiple of 64. -/
def payloadPilots (upSc w len : Nat) (long : Bool) : List (Symbol × Symbol) := pilots (0x1000 + upSc) (payloadSymbols w len long / 64)

/-! ### The matcher (R46, R47) -/

/-- The amplitudes of a dimension by index: 1, 3, …, 2^(m/2) − 1; here their number for a base. -/
def ampCount (base : Nat) : Nat := 2 ^ base

/-- The energy of an amplitude, by its index. -/
def energy (i : Nat) : Nat := (2 * i + 1) ^ 2

/-- The number of sequences of n amplitudes out of a whose energy is at most e. -/
def shell (a : Nat) : Nat → Nat → Nat
  | 0, _ => 1
  | n + 1, e => ((List.range a).map fun i => if energy i ≤ e then shell a n (e - energy i) else 0).foldl (· + ·) 0

/-- E(H) (R47): the smallest energy for which the shell of n amplitudes holds at least 2^k sequences. -/
def shellEnergy (a n k : Nat) : Nat :=
  ((List.range (n * energy (a - 1) + 1)).find? fun e => 2 ^ k ≤ shell a n e).getD 0

/-- How many sequences of a shell begin with an amplitude. -/
def shellHead (a n e i : Nat) : Nat := if energy i ≤ e then shell a n (e - energy i) else 0

/-- The first of some amplitudes whose share of the order contains index r, and the index left. -/
def pickHead (c : Nat → Nat) : List Nat → Nat → Nat × Nat
  | [], r => (0, r)
  | i :: l, r => if r < c i then (i, r) else pickHead c l (r - c i)

/-- Sequence r of a shell in lexicographic order (R47). -/
def shellAt (a : Nat) : Nat → Nat → Nat → List Nat
  | 0, _, _ => []
  | n + 1, e, r =>
    let p := pickHead (shellHead a n e) (List.range a) r
    p.1 :: shellAt a n (e - energy p.1) p.2

/-- The index of a sequence in its shell, if it lies in it. -/
def shellIndex (a : Nat) : Nat → Nat → List Nat → Option Nat
  | 0, _, _ => some 0
  | n + 1, e, l =>
    let i := l.headD 0
    if energy i ≤ e && i < a then
      (shellIndex a n (e - energy i) l.tail).map fun r =>
        ((List.range i).map (shellHead a n e)).foldl (· + ·) 0 + r
    else none

/-- The binary-reflected Gray code of an amplitude index in some bits, the most significant first (R148). -/
def grayBits (w i : Nat) : List Bool := msbFirst w (i ^^^ (i / 2))

/-- The amplitude index of a Gray label. -/
def ofGray (l : List Bool) : Nat := (l.foldl (fun a b => (2 * a.1 + b2n (a.2 ^^ b), a.2 ^^ b)) (0, false)).1

/-- Whether a pair of base and entropy is shaped (Table 2.1). -/
def isPcs (base ent : Nat) : Bool := 0 < base && ent < 32 + 32 * base

/-- The amplitude bits that a matcher block takes: 64 × (H − 2) (R46). -/
def matchBits (ent : Nat) : Nat := 4 * ent - 128

/-- The 128 amplitudes of a matcher block (R46, R47); with a uniform setting the bits are the labels themselves (R149). -/
def matchBlock (base ent : Nat) (bits : List Bool) : List Nat :=
  if isPcs base ent then
    let a := ampCount base
    shellAt a 128 (shellEnergy a 128 (matchBits ent)) (bitVal bits)
  else (List.range 128).map fun i => ofGray ((bits.drop (base * i)).take base)

/-- The bits that the dematcher gives for the amplitudes of a block (R47). -/
def dematchBlock (base ent : Nat) (amps : List Nat) : List Bool :=
  if isPcs base ent then
    let a := ampCount base
    let k := matchBits ent
    let r := shellIndex a 128 (shellEnergy a 128 k) amps
    msbFirst k ((r.filter fun v => v < 2 ^ k).getD (Config.unmatched amps % 2 ^ k))
  else amps.flatMap (grayBits base)

/-! ### Blocks (R45, R147 to R149) -/

/-- Whether a data symbol of a block is BPSK (R45): the first k of every 16, with H = 2 − k/16. -/
def isBpsk (base ent sym : Nat) : Bool := base == 0 && decide (sym % 16 + ent < 32)

/-- The sign labels of polarisation-symbol q = 2k + p of a block. -/
def signCount (base ent q : Nat) : Nat := if isBpsk base ent (q / 2) then 1 else 2

/-- The sign slots G of a block (R149). -/
def signSlots (base ent : Nat) : Nat := if base = 0 then 72 * ent else 2304

/-- The label bits N of a block (R147). -/
def labelCount (base ent : Nat) : Nat := if base = 0 then 72 * ent else 2304 * (base + 1)

/-- Whether element g of an even spread of p over n is taken. -/
def evenly (p n g : Nat) : Bool := (g + 1) * p / n - g * p / n == 1

/-- The inner parity bits P(j) of block j (R147). -/
def blockParity (oh ent j : Nat) : Nat :=
  let r := ohParity oh
  (j + 1) * blockBits ent * r.1 / r.2 - j * blockBits ent * r.1 / r.2

/-- The information bits I(j) of block j (R147). -/
def blockInfo (oh ent j : Nat) : Nat := blockBits ent - blockParity oh ent j

/-- The amplitude bits of a block: 1,152 × (H − 2) (R149). -/
def ampBits (base ent : Nat) : Nat := if base = 0 then 0 else 72 * ent - 2304

/-- The amplitude indices of a block by matcher block and place (R149): X blocks 0 to 8, then Y blocks 0 to 8. -/
def blockAmps (base ent : Nat) (bits : List Bool) : List (List Nat) :=
  let k := ampBits base ent / 18
  (List.range 18).map fun b => matchBlock base ent ((bits.drop (k * b)).take k)

/-- The amplitude of polarisation-symbol q = 2k + p in a dimension (R47, R149). -/
def ampAt (amps : List (List Nat)) (q d : Nat) : Nat :=
  (amps.getD (9 * (q % 2) + q / 2 / 64) []).getD (2 * (q / 2 % 64) + d) 0

/-- Bits put into the sign slots that carry no parity, in order (R149). -/
def dealSigns : List Bool → List Bool → List (Option Bool)
  | [], _ => []
  | true :: f, b => none :: dealSigns f b
  | false :: f, b => some (b.headD false) :: dealSigns f b.tail

/-- The labels of some polarisation-symbols in the order of R148: signs, then the amplitude labels of I and Q; a sign slot of parity is
open. -/
def weave (base ent : Nat) (amps : List (List Nat)) : List Nat → List (Option Bool) → List (Option Bool)
  | [], _ => []
  | q :: r, s =>
    let n := signCount base ent q
    s.take n ++ ((grayBits base (ampAt amps q 0) ++ grayBits base (ampAt amps q 1)).map some) ++ weave base ent amps r (s.drop n)

/-- The labels of a block for its information bits, open where parity goes (R149). -/
def openLabels (base ent par : Nat) (info : List Bool) : List (Option Bool) :=
  let g := signSlots base ent
  let k := ampBits base ent
  weave base ent (blockAmps base ent (info.take k)) (List.range 1152)
    (dealSigns ((List.range g).map (evenly par g)) (info.drop k))

/-- Bits put into the open labels in order. -/
def fillParity : List (Option Bool) → List Bool → List Bool
  | [], _ => []
  | some b :: r, p => b :: fillParity r p
  | none :: r, p => p.headD false :: fillParity r p.tail

/-! ### The coupled inner code (R152 to R154) -/

/-- The check type that an information type joins in component i (R152). -/
def checkOf (i v : Nat) : Nat := (v + i * (3 + v / 8)) % 8

/-- The circulant shift of an edge (R152). -/
def shiftOf (i v : Nat) : Nat := (37 * v * (2 * i + 1) + 89 * i) % 256

/-- Information node (v, z) of a block: label 34 × z + v; a node past the labels is shortened (R154). -/
def infoNode (b : Nodes) (v z : Nat) : Bool := b.labels.getD (34 * z + v) false

/-- The sum over the information nodes that join check (c, z) of a block (R153): component i from the block i before. -/
def checkSum (blocks : List Nodes) (c z : Nat) : Bool :=
  (List.range 3).foldl (fun a i =>
    (List.range 34).foldl (fun a v =>
      if checkOf i v = c then a ^^ infoNode (blocks.getD i {}) v ((z + 256 - shiftOf i v) % 256) else a) a) false

/-- The parity nodes of a block in the order r = 8z + c, from the block, the one before and the one before that (R153). -/
def chainParity (b0 b1 b2 : Nodes) : List Bool :=
  (List.range 2048).map fun r => b1.parity.getD r false ^^ checkSum [b0, b1, b2] (r % 8) (r / 8)

/-- A block encoded after two others: its nodes and its labels as sent (R149, R153, R154). -/
def encodeBlock (base ent par : Nat) (b1 b2 : Nodes) (info : List Bool) : Nodes × List Bool :=
  let open_ := openLabels base ent par info
  let u : Nodes := { labels := open_.filterMap id }
  let p := chainParity u b1 b2
  ({ u with parity := p }, fillParity open_ (((List.range 2048).filter (evenly par 2048)).map fun r => p.getD r false))

/-- Whether every check of a block holds (R153). -/
def checksHold (b0 b1 b2 : Nodes) : Bool := b0.parity == chainParity b0 b1 b2

/-- The labels of a block as decided: its information labels, and the sent parity nodes in the parity slots (R154). -/
def decidedLabels (base ent par : Nat) (b : Nodes) : List Bool :=
  let open_ := openLabels base ent par []
  let put : List (Option Bool) → List Bool → List (Option Bool) :=
    fun l u => (l.foldl (fun a x => match x with
      | some _ => (a.1 ++ [some (a.2.headD false)], a.2.tail)
      | none => (a.1 ++ [none], a.2)) (([] : List (Option Bool)), u)).1
  fillParity (put open_ b.labels) (((List.range 2048).filter (evenly par 2048)).map fun r => b.parity.getD r false)

/-- The labels of each polarisation-symbol: signs and amplitude indices of I and Q. -/
def unweave (base ent : Nat) : List Nat → List Bool → List (List Bool × Nat × Nat)
  | [], _ => []
  | q :: r, l =>
    let n := signCount base ent q
    let a := l.drop n
    (l.take n, ofGray (a.take base), ofGray ((a.drop base).take base)) :: unweave base ent r (a.drop (2 * base))

/-- The polarisation-symbols of a block's labels (R148): a BPSK symbol has no Q. -/
def blockSymbols (base ent : Nat) (labels : List Bool) : List Symbol :=
  (unweave base ent (List.range 1152) labels).map fun x =>
    (level (x.1.getD 0 false) (2 * x.2.1 + 1),
      match x.1[1]? with
      | some b => level b (2 * x.2.2 + 1)
      | none => 0)

/-- The information bits of a block's labels (R149): the amplitude bits, then those of the sign slots without parity. -/
def blockInfoBits (base ent par : Nat) (labels : List Bool) : List Bool :=
  let syms := unweave base ent (List.range 1152) labels
  let amp (b i : Nat) : Nat :=
    let x := syms.getD (2 * (64 * (b % 9) + i / 2) + b / 9) ([], 0, 0)
    if i % 2 = 0 then x.2.1 else x.2.2
  let amps := if base = 0 then [] else (List.range 18).flatMap fun b => dematchBlock base ent ((List.range 128).map (amp b))
  let g := signSlots base ent
  let signs := syms.flatMap fun x => x.1
  amps ++ ((signs.zip ((List.range g).map (evenly par g))).filter fun x => !x.2).map fun x => x.1

/-! ### The Lashing code (R151) -/

/-- Multiplication by x in GF(2^12) with x^12 + x^6 + x^4 + x + 1. -/
def gfDouble (a : Nat) : Nat := if a < 2048 then 2 * a else (2 * a) ^^^ 0x1053

/-- Multiplication in GF(2^12). -/
def gfMul (a b : Nat) : Nat :=
  ((List.range 12).foldl (fun (r, t) i => (if b.testBit i then r ^^^ t else r, gfDouble t)) (0, a)).1

/-- A power in GF(2^12), by squaring; its exponent has at most 12 bits. -/
def gfPow (a n : Nat) : Nat :=
  ((List.range 12).foldl (fun (r, t) i => (if n.testBit i then gfMul r t else r, gfMul t t)) (1, a)).1

/-- A polynomial over GF(2^12), lowest coefficient first, multiplied by (x + a). -/
def gfTimes (p : List Nat) (a : Nat) : List Nat :=
  (List.range (p.length + 1)).map fun i => (if i = 0 then 0 else p.getD (i - 1) 0) ^^^ gfMul a (p.getD i 0)

/-- The generator (R151): the product over the conjugates of α, α^3, α^5, α^7 and α^9; coefficient k at place k. -/
def lashingGen : List Nat :=
  ([1, 3, 5, 7, 9].flatMap fun i => (List.range 12).map fun j => gfPow 2 (i * 2 ^ j % 4095)).foldl gfTimes [1]

/-- The 60 parity bits of some information bits, the highest coefficient first: the remainder of information × x^60. -/
def lashingParity (info : List Bool) : List Bool :=
  let g := ((lashingGen.take 60).map fun c => c == 1).reverse
  info.foldl (fun reg b =>
    let fb := reg.headD false ^^ b
    ((reg.tail ++ [false]).zip g).map fun x => x.1 ^^ (fb && x.2)) (List.replicate 60 false)

/-- A codeword (R151). -/
def lashingWord (info : List Bool) : List Bool := info ++ lashingParity info

/-- A line stream under the Lashing code, carried by so many bits (R151): whole codewords, then a shortened one, or zeros where fewer than
61 bits are left. The first argument bounds the number of codewords. -/
def lashingStream : Nat → Nat → List Bool → List Bool
  | 0, _, _ => []
  | k + 1, room, l =>
    if 3840 ≤ room then lashingWord (l.take 3780) ++ lashingStream k (room - 3840) (l.drop 3780)
    else if 61 ≤ room then lashingWord (l.take (room - 60))
    else List.replicate room false

/-- The syndrome of a received word at α^i; the first bit is the highest coefficient. -/
def syndrome (w : List Bool) (i : Nat) : Nat := w.foldl (fun a b => gfMul a (gfPow 2 i) ^^^ b2n b) 0

/-- A step of the search for the error locator: the locator, the locator before with its discrepancy, its length, the steps since. -/
structure Locator where
  c : List Nat := [1]
  b : List Nat := [1]
  d : Nat := 1
  len : Nat := 0
  m : Nat := 1

/-- The locator corrected for syndrome number n (R151). -/
def Locator.step (x : Locator) (s : List Nat) (n : Nat) : Locator :=
  let d := (List.range (x.len + 1)).foldl (fun a i => a ^^^ gfMul (x.c.getD i 0) (if i ≤ n then s.getD (n - i) 0 else 0)) 0
  if d = 0 then { x with m := x.m + 1 }
  else
    let q := gfMul d (gfPow x.d 4094)
    let shifted := List.replicate x.m 0 ++ x.b.map (gfMul q)
    let c := (List.range (max x.c.length shifted.length)).map fun i => x.c.getD i 0 ^^^ shifted.getD i 0
    if 2 * x.len ≤ n then { c := c, b := x.c, d := d, len := n + 1 - x.len, m := 1 } else { x with c := c, m := x.m + 1 }

/-- The value of a polynomial. -/
def gfEval (p : List Nat) (x : Nat) : Nat := p.reverse.foldl (fun a c => gfMul a x ^^^ c) 0

/-- The word of at most 5 errors from a received word (R151): the corrected word and the number of errors, or nothing where no codeword is
that near. -/
def lashingCorrect (w : List Bool) : Option (List Bool × Nat) :=
  let s := (List.range 10).map fun i => syndrome w (i + 1)
  let x : Locator := (List.range 10).foldl (fun (a : Locator) n => a.step s n) {}
  let n := w.length
  -- The coefficient of x^k is in error where the locator is zero at α^(−k); bit i holds the coefficient of x^(n − 1 − i).
  let wrong := (List.range n).filter fun i => gfEval x.c (gfPow 2 ((4095 - (n - 1 - i) % 4095) % 4095)) == 0
  if x.len ≤ 5 ∧ wrong.length = x.len then
    let v := w.zipIdx.map fun b => b.1 ^^ wrong.contains b.2
    if (List.range 10).all fun i => syndrome v (i + 1) == 0 then some (v, x.len) else none
  else none

/-! ### The trellis code (R166, R167) -/

/-- The two coded bits for an information bit and the six before it, the latest first (R166). -/
def trellisBits (u : List Bool) : Bool × Bool :=
  let b (i : Nat) : Bool := u.getD i false
  (b 0 ^^ b 2 ^^ b 3 ^^ b 5 ^^ b 6, b 0 ^^ b 1 ^^ b 2 ^^ b 3 ^^ b 6)

/-- The coded bits of some information bits after six others, the latest first. -/
def trellisFrom : List Bool → List Bool → List Bool
  | _, [] => []
  | p, b :: r =>
    let x := trellisBits (b :: p)
    x.1 :: x.2 :: trellisFrom (b :: p.take 5) r

/-- The coded bits of a block of at least six bits, tail-biting: it starts in the state that its last six leave (R166). -/
def trellisEncode (u : List Bool) : List Bool := trellisFrom (u.reverse.take 6) u

/-- Coded bits 4k to 4k + 3 as data symbol k of both polarisations: X-I, X-Q, Y-I, Y-Q (R113). -/
def controlPairs : List Bool → List (Symbol × Symbol)
  | a :: b :: c :: d :: r => ((level a 1, level b 1), (level c 1, level d 1)) :: controlPairs r
  | _ => []

/-- The six bits of a decoder state, the latest first. -/
def stateBits (st : Nat) : List Bool := (List.range 6).map fun i => st.testBit i

/-- How well a coded bit agrees with a soft value, positive for 0. -/
def agree (b : Bool) (v : Int) : Int := if b then -v else v

/-- One step of the decoder (R167): by new state its metric and the state before it; of two equal metrics the lower state is taken (log
entry 90). States k and k + 32 are followed by the states 2k and 2k + 1. -/
def viterbiStep (metric : List Int) (v0 v1 : Int) : List (Int × Nat) :=
  ((List.range 32).zip (metric.zip (metric.drop 32))).flatMap fun e =>
    [false, true].map fun u =>
      let score (old : Nat) (m : Int) : Int :=
        let x := trellisBits (u :: stateBits old)
        m + agree x.1 v0 + agree x.2 v1
      let lo := score e.1 e.2.1
      let hi := score (e.1 + 32) e.2.2
      if lo < hi then (hi, e.1 + 32) else (lo, e.1)

/-- The steps of the decoder over pairs of soft values: by state the state before it, and the metrics. -/
def viterbiRun : List (Int × Int) → List Int → List (List Nat × List Int)
  | [], _ => []
  | v :: r, m =>
    let x := viterbiStep m v.1 v.2
    let m := x.map fun e => e.1
    (x.map (fun e => e.2), m) :: viterbiRun r m

/-- The state so many steps before another. -/
def traceBack : List (List Nat) → Nat → Nat
  | [], st => st
  | b :: r, st => traceBack r (b.getD st 0)

/-- The state of the best metric, the lowest of equal ones. -/
def bestState (m : List Int) : Nat := (m.zipIdx.foldl (fun a e => if a.1 < e.1 then e else a) (m.headD 0, 0)).2

/-- A block decoded (R167): the trellis runs circularly with 96 steps of wrap on each side, all metrics equal at the start; each bit is
decided 96 steps later. -/
def viterbi (soft : List Int) : List Bool :=
  let n := soft.length / 2
  let pair (j : Nat) : Int × Int := (soft.getD (2 * (j % n)) 0, soft.getD (2 * (j % n) + 1) 0)
  let steps := (List.range (n + 192)).map fun j => pair (j + 95 * n + (n - 96 % n))
  let run := viterbiRun steps (List.replicate 64 0)
  (List.range n).map fun j =>
    let past := (run.take (j + 193)).reverse
    traceBack ((past.take 96).map fun x => x.1) (bestState (past.headD ([], [])).2) % 2 == 1

end Sys2Proof.Machine
end

