-- ==== Sys2Proof/Machine/Packets.lean ====
section
/-! DEFINITION. Packets of the mate link (R286 to R288): sending under credit. -/

namespace Sys2Proof.Machine

open Sys2Proof

/-- The lanes in use (R285). -/
def State.mateLanes (s : State) : Nat := 2 ^ s.rd .LNYD_CFG_LANES

/-- A packet's header, payload and CRC (Table 11.1). -/
def packetBytes (cls flags seq : Nat) (payload : List Byte) : List Byte :=
  withCrc (leBytes 1 cls ++ leBytes 1 flags ++ leBytes 2 payload.length ++ leBytes 4 seq ++ payload)

/-- A packet sent; the lanes in use take packets in turn (R286). -/
def State.sendPacket (s : State) (cls flags : Nat) (payload : List Byte) : State :=
  let x := s.lanyard
  { s.emit (.matePacket (x.seq % s.mateLanes) (packetBytes cls flags x.seq payload)) with
    lanyard := { x with seq := (x.seq + 1) % 2 ^ 32 } }

/-- LOCKSTEP records waiting, sent while fewer than a pool's 64 packets are outstanding (R288). -/
def pumpLockstep : List (List Byte) → State → State
  | [], s => { s with lanyard := { s.lanyard with lsWait := [] } }
  | p :: r, s =>
    if wrapSub (2 ^ 32) s.lanyard.lsSent s.lanyard.lsBack < 64 then
      let t := s.sendPacket 2 0 p
      pumpLockstep r { t with lanyard := { t.lanyard with lsSent := (t.lanyard.lsSent + 1) % 2 ^ 32 } }
    else { s with lanyard := { s.lanyard with lsWait := p :: r } }

/-- CKPT packets waiting, sent while fewer than a pool's 256 packets are outstanding (R288); with the last one the set is sent, which
LAST_SET shows. -/
def pumpCkpt : List (Nat × List Byte) → State → State
  | [], s =>
    match s.lanyard.sending with
    | some n => { s with lanyard := { s.lanyard with ckWait := [], sending := none } }.wr .LNYD_STAT_LAST_SET n
    | none => { s with lanyard := { s.lanyard with ckWait := [] } }
  | p :: r, s =>
    if wrapSub (2 ^ 32) s.lanyard.ckSent s.lanyard.ckBack < 256 then
      let t := s.sendPacket 3 p.1 p.2
      pumpCkpt r { t with lanyard := { t.lanyard with ckSent := (t.lanyard.ckSent + 1) % 2 ^ 32 } }
    else { s with lanyard := { s.lanyard with ckWait := p :: r } }

/-- What waits for credit is sent, LOCKSTEP before CKPT (R287). -/
def State.pump (s : State) : State :=
  let s := pumpLockstep s.lanyard.lsWait s
  pumpCkpt s.lanyard.ckWait s

/-- A lockstep record handed to the link: records pass only while it is Up (R290). -/
def State.sendLockstep (s : State) (record : List Byte) : State :=
  if s.rd .LNYD_STAT_LSTATE = 2 then
    { s with lanyard := { s.lanyard with lsWait := s.lanyard.lsWait ++ [record] } }.pump
  else s

/-- A LOCKSTEP packet taken from its pool is returned (R288). -/
def State.lockstepTaken (s : State) : State :=
  { s with lanyard := { s.lanyard with lsTaken := (s.lanyard.lsTaken + 1) % 2 ^ 32, creditDue := true } }

end Sys2Proof.Machine
end

