-- ==== Sys2Proof/Machine/Sheet.lean ====
section
/-! DEFINITION. Sheet (chapter 7): clients, containers, the cross-connect, ingress and egress conditions, and the rules of its commit. -/

namespace Sys2Proof.Machine

open Sys2Proof

/-- What Sheet holds for a client. -/
def State.cli (s : State) (c : Nat) : ClientInt := s.clients.get {} c

/-- The same, replaced. -/
def State.setCli (s : State) (c : Nat) (x : ClientInt) : State := { s with clients := s.clients.put {} c x }

/-- The first indices at which a table memory is listed: every entry that differs from its reset value is among them. -/
def State.listed (s : State) (id : RegId) : List Nat := (s.regs.filter fun c => decide (c.key.id = id)).map fun c => c.key.i

/-- The enabled tributary slots. -/
def State.boundSlots (s : State) : List Nat := (s.listed .SHET_TS).filter fun k => s.on .SHET_TS_EN k

/-- The slots of a client's own container. -/
def State.cliSlots (s : State) (c : Nat) : List Nat :=
  s.boundSlots.filter fun k => s.rd .SHET_TS_CLIENT k == c && !s.on .SHET_TS_LEAF_EN k

/-- The slots of a client that are leaf slots. -/
def State.cliLeafSlots (s : State) (c : Nat) : List Nat :=
  s.boundSlots.filter fun k => s.rd .SHET_TS_CLIENT k == c && s.on .SHET_TS_LEAF_EN k

/-- The lines on which a client's own container has slots. -/
def State.cliLines (s : State) (c : Nat) : List Nat :=
  (List.range 3).filter fun n => (s.cliSlots c).any fun k => s.rd .SHET_TS_LINE k == n

/-- The size M of a client's container on a line. -/
def State.sizeOn (s : State) (c n : Nat) : Nat := ((s.cliSlots c).filter fun k => s.rd .SHET_TS_LINE k == n).length

/-- The protection group of a client, if an enabled one names it. -/
def State.groupOf (s : State) (c : Nat) : Option Nat :=
  (List.range 16).find? fun g => s.on .BEND_PG_CFG_EN g && s.rd .BEND_PG_CFG_CLIENT g == c

/-- The size M of one container of a client: a protected client has one on each member line (R264). -/
def State.contSize (s : State) (c : Nat) : Nat :=
  match s.groupOf c with
  | none => (s.cliSlots c).length
  | some _ => s.sizeOn c ((s.cliLines c).headD 0)

/-- The payload words P of a container of M slots (R213, R245). -/
def payloadWords (m : Nat) : Nat := m * 4552 - 1

/-! ### Lanes (R202, R208, Table 7.1) -/

/-- Whether a client is an enabled Ethernet client. -/
def State.isEth (s : State) (c : Nat) : Bool :=
  let t := s.rd .SHET_CLI_CFG_TYPE c
  1 ≤ t && t ≤ 4

/-- The number of lanes that LANES names. -/
def State.laneCount (s : State) (c : Nat) : Nat := 2 ^ s.rd .SHET_CLI_CFG_LANES c

/-- The lanes of a FlexO group that starts at lane l: per instance 1 (FOIC2) or 2 (FOIC4) at 106.25 GBd, twice as many at 53.125 GBd
(R208). -/
def State.flexLanes (s : State) (l : Nat) : Nat :=
  let per := if s.on .SHET_FLX_CFG_KIND l then 2 else 1
  s.rd .SHET_FLX_CFG_INST l * per * (if s.rd .TWIN_QUAD_CFG_RATE (l / 4) = 2 then 2 else 1)

/-- The n of a FlexO group's OTUCn (R208). -/
def State.flexN (s : State) (l : Nat) : Nat := s.rd .SHET_FLX_CFG_INST l * (if s.on .SHET_FLX_CFG_KIND l then 4 else 2)

/-- The first lane of the enabled FlexO group that a lane belongs to. -/
def State.flexOf (s : State) (l : Nat) : Option Nat :=
  (List.range 48).find? fun g => s.on .SHET_FLX_CFG_EN g && g ≤ l && decide (l < g + s.flexLanes g)

/-- The Ethernet client that a lane belongs to. -/
def State.ethOf (s : State) (l : Nat) : Option Nat :=
  (List.range 48).find? fun c => s.isEth c && c ≤ l && decide (l < c + s.laneCount c)

/-- The host slots of an OTN client (R209). -/
def State.hostSlots (s : State) (c : Nat) : List Nat :=
  (s.listed .SHET_HTS).filter fun k => s.on .SHET_HTS_EN k && s.rd .SHET_HTS_CLIENT k == c

/-- The enabled FlexO group that an entry of SHET_HTS belongs to: slot k of the group that starts at lane l is entry 40 × l + k, k below
20 × n (R209). -/
def State.hostGroup (s : State) (e : Nat) : Option Nat :=
  (List.range 48).find? fun l => s.on .SHET_FLX_CFG_EN l && 40 * l ≤ e && decide (e < 40 * l + 20 * s.flexN l)

/-- The lanes of a client: its own, or those of the FlexO group that carries it. -/
def State.cliLanes (s : State) (c : Nat) : List Nat :=
  if s.isEth c then (List.range (s.laneCount c)).map fun x => c + x
  else if s.rd .SHET_CLI_CFG_TYPE c = 5 then
    match (s.hostSlots c).findSome? s.hostGroup with
    | some l => (List.range (s.flexLanes l)).map fun x => l + x
    | none => []
  else []

/-- The clients that use a lane. -/
def State.clientsOn (s : State) (l : Nat) : List Nat := (List.range 48).filter fun c => (s.cliLanes c).contains l

/-- The domain of a lane (R226): that of its Ethernet client, otherwise D0. -/
def State.laneDom (s : State) (l : Nat) : Nat :=
  match s.ethOf l with
  | some c => s.cliDom c
  | none => 0

/-- The quad RATE that an Ethernet client's row of Table 7.1 calls for. -/
def State.ethRate (s : State) (c : Nat) : Nat :=
  match 2 ^ (s.rd .SHET_CLI_CFG_TYPE c - 1) * 4 / s.laneCount c with
  | 4 => 3
  | 2 => 2
  | 1 => 1
  | _ => 0

/-- Whether the quad of a lane runs the rate that the lane's client or FlexO group needs (R229, Table 8.5). -/
def State.rateFits (s : State) (l : Nat) : Bool :=
  let rate := s.rd .TWIN_QUAD_CFG_RATE (l / 4)
  match s.ethOf l with
  | some c => rate == s.ethRate c
  | none =>
    match s.flexOf l with
    | some _ => 2 ≤ rate
    | none => true

/-! ### Conditions (R219, R220, Table 7.5) -/

/-- Whether a lane is in order for the ingress of its client (R228). -/
def State.laneGood (s : State) (l : Nat) : Bool := s.rd .TWIN_STAT_LSTATE l == 3 && !s.on .TWIN_STAT_LOS l

/-- A stream of which nothing more is sent but the rest of a frame begun. -/
def TxStream.rest (x : TxStream) : TxStream := if x.cut then { x with units := x.units.take 1 } else {}

/-- Ingress client signal fail taken anew (R219); its rise raises event 0x8001, and the frames that wait give way to idle headers. -/
def State.refreshIngress (s : State) (c : Nat) : State :=
  let now := s.rd .SHET_CLI_CFG_TYPE c != 0 && ((s.cli c).condition || !(s.cliLanes c).all fun l => s.laneGood l)
  let was := s.on .SHET_CLI_STAT_CSF c
  let t := s.wr .SHET_CLI_STAT_CSF (b2n now) c
  if now && !was then
    let x := t.cli c
    let t := t.setCli c { x with tx := x.tx.rest, txBytes := [], leaves := x.leaves.map fun e => (e.1, { e.2 with tx := e.2.tx.rest }) }
    t.raise .SHET_CLI_EVT_ING_FAIL 0x8001 (s.cliDom c) [] false c
  else t

/-- The enabled key context of a client's container on a line, or of a leaf (R242). -/
def State.kcOf (s : State) (n : Nat) (leaf : Bool) (unit : Nat) : Option Nat :=
  (s.listed .SEIZ_KC_CFG).find? fun k =>
    s.on .SEIZ_KC_CFG_EN k && s.on .SEIZ_KC_CFG_KIND k == leaf && s.rd .SEIZ_KC_CFG_LINE k == n && s.rd .SEIZ_KC_CFG_UNIT k == unit

/-- Whether a key context is Auth-failed or Exhausted on receive (Table 9.3). -/
def State.kcFails (s : State) (k : Nat) : Bool := 3 ≤ s.rd .SEIZ_KC_ST_RX_STATE k

/-- Whether the container or leaf has a failing key context. -/
def State.keyFails (s : State) (n : Nat) (leaf : Bool) (unit : Nat) : Bool :=
  match s.kcOf n leaf unit with
  | some k => s.kcFails k
  | none => false

/-- Whether a leaf is in upstream signal fail (R142, R183): Hitch has signalled it, or Bight has the leaf neither Active nor Stale. -/
def State.leafFails (s : State) (n leaf : Nat) : Bool :=
  s.leafFail.contains (n, leaf) || !(s.rd .BGHT_LEAF_ST_STATE n leaf == 2 || s.rd .BGHT_LEAF_ST_STATE n leaf == 3)

/-- The leaves of a shared client, with their line. -/
def State.cliLeaves (s : State) (c : Nat) : List (Nat × Nat) :=
  ((s.cliLeafSlots c).map fun k => (s.rd .SHET_TS_LINE k, s.rd .SHET_TS_LEAF k)).eraseDups

/-- Whether the consequent actions of aSSF are in force on a line (R190, R192). -/
def State.ssfActs (s : State) (n : Nat) : Bool := (s.hitch.get {} n).acting

/-- Whether a position of a client's own container is unavailable in the receive direction (R211). -/
def State.rxUnavail (s : State) (c : Nat) : Bool :=
  (s.cliSlots c).any fun k => s.rxK (s.rd .SHET_TS_LINE k) ≤ s.rd .SHET_TS_LPOS k

/-- Whether a slot's position is unavailable in the transmit direction (R211). -/
def State.txUnavail (s : State) (k : Nat) : Bool := decide (s.txK (s.rd .SHET_TS_LINE k) ≤ s.rd .SHET_TS_LPOS k)

/-- Whether a position of a container of the client, its own or a leaf's, is unavailable in either direction (R210, R211). -/
def State.cliUnavail (s : State) (c : Nat) : Bool := s.rxUnavail c || (s.cliSlots c).any s.txUnavail || (s.cliLeafSlots c).any s.txUnavail

/-- Whether a leaf of a client is in server fail (R220): in upstream signal fail, aSSF on its line, its context failing, or a position of
its container unavailable; a leaf container has positions in the transmit direction only (log entry 79). -/
def State.leafServerFail (s : State) (c n leaf : Nat) : Bool :=
  s.leafFails n leaf || s.ssfActs n || s.keyFails n true leaf ||
    (s.cliLeafSlots c).any fun k => s.rd .SHET_TS_LINE k == n && s.rd .SHET_TS_LEAF k == leaf && s.txUnavail k

/-- Egress server fail of a client (R220), by the receive direction of its container (log entry 79): for a protected client, line and key conditions count only through the units that Bend
plays (R278); for a shared client, every leaf is in fail. -/
def State.serverFail (s : State) (c : Nat) : Bool :=
  if s.rd .SHET_CLI_CFG_TYPE c = 0 then false
  else if s.rd .SHET_CLI_CFG_MODE c = 3 then s.ssfActs (s.rd .SHET_CLI_CFG_LINE c)
  else if !(s.cliLeafSlots c).isEmpty then
    (s.cliLeaves c).all fun (n, l) => s.leafServerFail c n l
  else if (s.cliSlots c).isEmpty then false
  else if (s.groupOf c).isSome then (s.cli c).cowLost || (s.cli c).unitFail
  else
    (s.cliLines c).any (fun n => s.ssfActs n || s.keyFails n false c) || s.rxUnavail c || (s.cli c).cowLost

/-- The number of a leaf in a client's table of leaf streams. -/
def leafKey (n leaf : Nat) : Nat := 256 * n + leaf

/-- A delineator whose frame in progress has been ended: what has come of the frame is dropped, the rest of it is passed over. -/
def Delin.ended (d : Delin) : Delin :=
  let len := 4 + leAt (d.bytes.map fun b => b.1) 0 2
  { d with inFrame := false, skip := len - d.bytes.length, bytes := d.bytes.drop len }

/-- An egress frame in progress is ended with an error (Table 7.5), counted and sent so. -/
def State.endFrame (s : State) (c : Nat) : State :=
  let x := s.cli c
  if x.rx.inFrame then
    ((s.setCli c { x with rx := x.rx.ended }).count .SHET_CNT 1 c 4).emit (.hostFrame c true 12 ((x.rx.bytes.drop 4).map fun b => b.1))
  else s

/-- The frame in progress of one leaf of a client is ended with an error (Table 7.5). -/
def State.endLeaf (s : State) (c key : Nat) : State :=
  let x := s.cli c
  let y := x.leaves.get {} key
  if y.rx.inFrame then
    let leaves := x.leaves.put {} key { y with rx := y.rx.ended }
    ((s.setCli c { x with leaves := leaves }).count .SHET_CNT 1 c 4).emit
      (.hostFrame c true 12 ((y.rx.bytes.drop 4).map fun b => b.1))
  else s

/-- Egress conditions taken anew (R220): events 0x8004 and 0x8002 on a rise; the action of Table 7.5 starts with server fail or far-end
CSF. -/
def State.refreshEgress (s : State) (c : Nat) : State :=
  let dom := s.cliDom c
  let un := s.rd .SHET_CLI_CFG_TYPE c != 0 && s.cliUnavail c
  let fail := s.serverFail c
  let far := bit (s.cli c).rxFlags 0
  let wasUn := s.on .SHET_CLI_STAT_UNAVAIL c
  let was := s.on .SHET_CLI_STAT_SRV_FAIL c
  let s := ((s.wr .SHET_CLI_STAT_UNAVAIL (b2n un) c).wr .SHET_CLI_STAT_SRV_FAIL (b2n fail) c).wr .SHET_CLI_STAT_FAR_CSF (b2n far) c
  let s := if un && !wasUn then s.raise .SHET_CLI_EVT_UNAVAIL 0x8004 dom [] false c else s
  let s := if fail && !was then s.raise .SHET_CLI_EVT_EGR_FAIL 0x8002 dom [] false c else s
  let s := s.each ((s.cliLeaves c).map fun e => leafKey e.1 e.2) fun e t =>
    if t.leafServerFail c (e / 256) (e % 256) then t.endLeaf c e else t
  if fail || far then (s.wr .SHET_CLI_STAT_EGR_ACT 1 c).endFrame c else s

/-- The egress conditions of all clients taken anew. -/
def State.refreshClients (s : State) : State := s.each (List.range 48) fun c t => t.refreshEgress c

/-- What egress sends toward the host in place of the client (Table 7.5). -/
inductive HostSignal where
  | client | localFault | remoteFault | oduAis | oduOci | idle
  deriving DecidableEq, Repr

/-- The signal toward the host of a client (Table 7.5). -/
def State.hostSignal (s : State) (c : Nat) : HostSignal :=
  if s.rd .SHET_CLI_CFG_TYPE c = 0 then .idle
  else if !s.on .SHET_CLI_STAT_EGR_ACT c then .client
  else if s.rd .SHET_CLI_CFG_TYPE c = 5 then .oduAis
  else if s.rd .SHET_CLI_CFG_MODE c = 0 && bit (s.cli c).rxFlags 2 && !bit (s.cli c).rxFlags 1 then .remoteFault
  else .localFault

/-- The signal in a host tributary slot (Table 7.5): that of the enabled client bound to it, ODU-OCI where there is none. -/
def State.hostSlotSignal (s : State) (e : Nat) : HostSignal :=
  let c := s.rd .SHET_HTS_CLIENT e
  if s.on .SHET_HTS_EN e && s.rd .SHET_CLI_CFG_TYPE c != 0 then s.hostSignal c else .oduOci

/-! ### Ingress -/

/-- The 4-byte header of Table 7.2. -/
def frameHeader (len : Nat) (err : Bool) : List Byte :=
  let b := leBytes 2 len ++ [BitVec.ofNat 8 (b2n err)]
  b ++ leBytes 1 (crc8 b)

/-- A frame dropped on the way to or from a container: EGR_DROP, event 0x8005 (R206, R217). -/
def State.egressDrop (s : State) (c : Nat) : State :=
  (s.count .SHET_CNT 1 c 5).raise .SHET_CLI_EVT_DROP 0x8005 (s.cliDom c) [] false c

/-- The VID of a frame's outer tag chosen by HUB_TAG: 1 for 0x8100, 2 for 0x88A8 (R217). -/
def frameVid (tag : Nat) (f : List Byte) : Option Nat :=
  let type := 256 * byteAt f 12 + byteAt f 13
  if 16 ≤ f.length && ((tag == 1 && type == 0x8100) || (tag == 2 && type == 0x88A8)) then
    some ((256 * byteAt f 14 + byteAt f 15) % 4096)
  else none

/-- The leaf of a shared client's frame (R217). -/
def State.vidLeaf (s : State) (c : Nat) (f : List Byte) : Option Nat :=
  match frameVid (s.rd .SHET_CLI_CFG_HUB_TAG c) f with
  | some v =>
    let n := s.rd .SHET_CLI_CFG_LINE c
    if s.on .SHET_VID_EN n v then some (s.rd .SHET_VID_LEAF n v) else none
  | none => none

/-- Whether a client is shared by the leaves of its Hub line (R217). -/
def State.isShared (s : State) (c : Nat) : Bool := s.rd .SHET_CLI_CFG_HUB_TAG c != 0 || !(s.cliLeafSlots c).isEmpty

/-- The bytes that wait in a stream. -/
def TxStream.fill (x : TxStream) : Nat := x.units.foldl (fun a u => a + u.length) 0

/-- A header and its frame put into a stream. -/
def TxStream.add (x : TxStream) (u : List Byte) : TxStream := { x with units := x.units ++ [u] }

/-- A shared client's frame placed in its leaf's container: the queue holds 64 KiB per slot, and a frame without a leaf or for a full queue
is dropped (R217). -/
def State.leafIngress (s : State) (c : Nat) (u f : List Byte) : State :=
  match s.vidLeaf c f with
  | none => s.egressDrop c
  | some l =>
    let n := s.rd .SHET_CLI_CFG_LINE c
    let x := s.cli c
    let y := x.leaves.get {} (leafKey n l)
    let room := 65536 * ((s.cliLeafSlots c).filter fun k => s.rd .SHET_TS_LINE k == n && s.rd .SHET_TS_LEAF k == l).length
    if y.tx.fill + u.length ≤ room then
      s.setCli c { x with leaves := x.leaves.put {} (leafKey n l) { y with tx := y.tx.add u } }
    else s.egressDrop c

/-- What the lanes of an Ethernet client bring (R204, R217): a frame from the destination address through the FCS, or only the reports
beside it; whether the frame came with an error code, the fault ordered sets being received, the RS codewords corrected and
uncorrectable since the last report. In frame mode a frame of 64 bytes or more is carried behind its header, cut at 16,000 bytes;
after a recentring of a lane's crossing it is ended with an error (R37). -/
def execClientFrameIngress (c : Client) (frame : Option (List Byte)) (err lf rf : Bool) (corrected uncorrectable : Nat) (s : State) :
    Res := act 16 s fun s =>
  if !s.isEth c then s
  else
    let s := (s.count .SHET_CNT corrected c 2).count .SHET_CNT uncorrectable c 3
    let s := (s.wr .SHET_CLI_STAT_RX_LF (b2n lf) c).wr .SHET_CLI_STAT_RX_RF (b2n rf) c
    match frame with
    | none => s
    | some f =>
      if s.rd .SHET_CLI_CFG_MODE c != 0 then s
      else
        let s := s.count .SHET_CNT 1 c 0
        let x := s.cli c
        let s := s.setCli c { x with recentred := false }
        if s.on .SHET_CLI_STAT_CSF c || f.length < 64 then s
        else
          let body := f.take 16000
          let u := frameHeader body.length (err || x.recentred || 16000 < f.length || 0 < uncorrectable) ++ body
          if s.isShared c then s.leafIngress c u f else s.setCli c { s.cli c with tx := (s.cli c).tx.add u }

/-- The lanes of a client cross with a recentred FIFO (R37): what was lost or repeated is marked errored toward Sheet, or toward the
host. -/
def State.recentreLane (s : State) (l : Nat) (out : Bool) : State :=
  s.each (s.clientsOn l) fun c t =>
    let x := t.cli c
    t.setCli c (if out then { x with recentredOut := true } else { x with recentred := true })

/-- A condition of R219 that Sheet itself declares: alignment lost, high BER, FlexO or OTUCn frame lost, AIS, LCK, OCI, or a mismatch. -/
def execIngressCsf (c : Client) (s : State) : Res := act 16 s fun s =>
  (s.setCli c { s.cli c with condition := true }).refreshIngress c

/-- The conditions that Sheet itself declared have ended (R219). -/
def execIngressCsfClear (c : Client) (s : State) : Res := act 16 s fun s =>
  (s.setCli c { s.cli c with condition := false }).refreshIngress c

/-! ### Egress -/

/-- Whether four bytes are a header whose HCRC passes and whose LEN is valid (R205). -/
def headerOk (h : List Byte) : Bool :=
  let len := leAt h 0 2
  h.length == 4 && byteAt h 3 == crc8 (h.take 3) && (len == 0 || (64 ≤ len && len ≤ 16000))

/-- What a delineator makes of the bytes it holds (R205). -/
inductive DelinAct where
  /-- Too few bytes for a decision. -/
  | wait
  /-- Still hunting, or sync found. -/
  | moved
  /-- Sync lost. -/
  | lost
  /-- An idle header. -/
  | idle
  /-- A frame: its ERR flag or a marked byte, and its bytes. -/
  | frame (err : Bool) (bytes : List Byte)
  deriving DecidableEq, Repr

/-- One step of a delineator (R205): in hunt it tests the header at its place and the one at 4 + LEN, and moves on by one byte where they
fail; in sync it takes a header with its frame. -/
def Delin.step (d : Delin) : DelinAct × Delin :=
  let d := { d with bytes := d.bytes.drop d.skip, skip := d.skip - d.bytes.length }
  let h := plainBytes (d.bytes.take 4)
  let len := leAt h 0 2
  if d.bytes.length < 4 then (.wait, d)
  else if d.sync then
    if !headerOk h then (.lost, { d with sync := false })
    else if len = 0 then (.idle, { d with bytes := d.bytes.drop 4 })
    else if d.bytes.length < 4 + len then (.wait, { d with inFrame := true })
    else
      let body := (d.bytes.drop 4).take len
      (.frame (bit (byteAt h 2) 0 || body.any fun b => b.2) (plainBytes body), { d with inFrame := false, bytes := d.bytes.drop (4 + len) })
  else if !headerOk h then (.moved, { d with bytes := d.bytes.drop 1 })
  else if d.bytes.length < 8 + len then (.wait, d)
  else if headerOk (plainBytes ((d.bytes.drop (4 + len)).take 4)) then (.moved, { d with sync := true, bytes := d.bytes.drop (4 + len) })
  else (.moved, { d with bytes := d.bytes.drop 1 })

/-- The preamble and the start-of-frame delimiter (R206, of IEEE 802.3: log entry 78). -/
def preamble : List Byte := List.replicate 7 0x55 ++ [0xD5]

/-- The egress buffer of a client in bytes: 64 KiB for each slot (R206). -/
def State.egressRoom (s : State) (c : Nat) : Nat := 65536 * ((s.cliSlots c).length + (s.cliLeafSlots c).length)

/-- A frame taken in sync: while a consequent action holds, frames stop; one that would overflow the buffer is dropped whole; otherwise it
goes out behind a gap of 12 bytes, or of 8 while the buffer is more than half full (R206, log entry 78). -/
def State.egressFrame (s : State) (c : Nat) (err : Bool) (f : List Byte) : State :=
  let x := s.cli c
  if s.on .SHET_CLI_STAT_EGR_ACT c then s
  else if s.egressRoom c < x.egress + f.length then s.egressDrop c
  else
    let bad := err || x.recentredOut
    let gap := if s.egressRoom c < 2 * x.egress then 8 else 12
    let s := (s.setCli c { x with egress := x.egress + f.length, recentredOut := false }).count .SHET_CNT 1 c 1
    (if bad then s.count .SHET_CNT 1 c 4 else s).emit (.hostFrame c bad gap (preamble ++ f))

/-- SYNC of a client: its delineator, or one of its leaves', is in sync. -/
def State.showCliSync (s : State) (c : Nat) : State :=
  let x := s.cli c
  s.wr .SHET_CLI_STAT_SYNC (b2n (x.rx.sync || x.leaves.any fun e => e.2.rx.sync)) c

/-- A step of the delineator of a client's own container. -/
def State.ownHeader (s : State) (c : Nat) : State :=
  let x := s.cli c
  let r := x.rx.step
  let s := (if r.1 = .lost then (s.endFrame c).count .SHET_CNT 1 c 7 else s)
  let s := (s.setCli c { s.cli c with rx := r.2 }).showCliSync c
  match r.1 with
  | .frame err f => s.egressFrame c err f
  | _ => s

/-- The leaf stream whose turn it is (R217): the first after the leaf served last, in a circle, that has a step to make. -/
def ClientInt.nextLeaf (x : ClientInt) : Option Nat :=
  let ready := (x.leaves.filter fun e => e.2.rx.step.1 != .wait).map fun e => e.1
  match ready.find? fun e => x.turn < e with
  | some e => some e
  | none => ready.head?

/-- A step of one leaf's delineator (R217): a frame whose VID does not map to the leaf is dropped, event 0x8006; the frames of a leaf in
server fail stop (Table 7.5). The turn passes on with a frame. -/
def State.leafHeader (s : State) (c key : Nat) : State :=
  let x := s.cli c
  let y := x.leaves.get {} key
  let r := y.rx.step
  let s := if r.1 = .lost then (s.endLeaf c key).count .SHET_CNT 1 c 7 else s
  let s := (s.setCli c { s.cli c with leaves := x.leaves.put {} key { y with rx := r.2 } }).showCliSync c
  match r.1 with
  | .frame err f =>
    let s := s.setCli c { s.cli c with turn := key }
    if s.leafServerFail c (key / 256) (key % 256) then s
    else if s.vidLeaf c f != some (key % 256) then
      (s.count .SHET_CNT 1 c 7).raise .SHET_CLI_EVT_SPOOF 0x8006 (s.cliDom c) [] false c
    else s.egressFrame c err f
  | _ => s

/-- The egress delineator makes a step (R205): that of the client's own container, or, of a shared client, that of the leaf whose turn it is.
The operand: the bytes that have left the egress buffer toward the host since the step before. -/
def execEgressHeader (c : Client) (sent : Nat) (s : State) : Res := act 16 s fun s =>
  if s.rd .SHET_CLI_CFG_TYPE c = 0 || s.rd .SHET_CLI_CFG_MODE c != 0 then s
  else
    let s := s.setCli c { s.cli c with egress := (s.cli c).egress - sent }
    if s.isShared c then
      match (s.cli c).nextLeaf with
      | some key => s.leafHeader c key
      | none => s
    else s.ownHeader c

/-- A container overhead word arrives at Sheet: the multiframe's CM is the one announced before it (R215). -/
def State.takeCow (s : State) (c : Nat) (w : List Byte) : State :=
  let x := s.cli c
  s.setCli c { x with cows := x.cows ++ [w], cmNow := x.rxCm, rxWord := 0 }

/-- Whether payload word j of a container of P payload words carries client data under a CM (R215). -/
def carriesData (j cm p : Nat) : Bool := decide (j * cm % p < cm)

/-- A payload word arrives at Sheet (R213, R215): in frame mode it joins the header stream; under GMP it is client data or stuff. -/
def State.takeWord (s : State) (c : Nat) (w : List RxByte) : State :=
  let x := s.cli c
  let j := x.rxWord + 1
  if s.rd .SHET_CLI_CFG_MODE c = 0 then s.setCli c { x with rxWord := j, rx := { x.rx with bytes := x.rx.bytes ++ w } }
  else if carriesData j x.cmNow (payloadWords (s.contSize c)) then s.setCli c { x with rxWord := j, rxBytes := x.rxBytes ++ w }
  else s.setCli c { x with rxWord := j }

/-- Payload words, 16 bytes each, in order; the first argument bounds their number. -/
def State.takeWords : Nat → State → Nat → List RxByte → State
  | 0, s, _, _ => s
  | m + 1, s, c, l => if l.isEmpty then s else State.takeWords m (s.takeWord c (l.take 16)) c (l.drop 16)

/-- The fields of the first copy of a container overhead word whose CRC passes (R214): CM and FLAGS. -/
def cowFields (w : List Byte) : Option (Nat × Nat) :=
  if leAt w 4 2 = crc16 (w.take 4) then some (leAt w 0 3, byteAt w 3)
  else if leAt w 10 2 = crc16 ((w.drop 6).take 4) then some (leAt w 6 3, byteAt w 9)
  else none

/-- A client's stream under GMP passed toward the host: nothing while a consequent action holds, whose signal goes out instead; words marked
errored or stomped, and what a recentred crossing lost, are replaced (R37, R207, R221). -/
def State.hostStream (s : State) (c : Nat) : State :=
  let x := s.cli c
  let s := s.setCli c { x with rxBytes := [], recentredOut := if x.rxBytes.isEmpty then x.recentredOut else false }
  if x.rxBytes.isEmpty || s.on .SHET_CLI_STAT_EGR_ACT c then s
  else
    let kind := if s.rd .SHET_CLI_CFG_TYPE c = 5 then 1 else 2
    let bytes := x.rxBytes.zipIdx.map fun b => if b.1.2 || x.recentredOut then Config.replacement kind b.2 else b.1.1
    s.emit (.hostStream c (Config.hostOut (s.rd .SHET_CLI_CFG_TYPE c) (s.rd .SHET_CLI_CFG_MODE c) bytes))

/-- A container overhead word is judged (R214): three multiframes without a copy that passes lose the container, two with one end it. -/
def State.judgeCow (s : State) (c : Nat) (w : List Byte) : State :=
  let x := s.cli c
  match cowFields w with
  | some (cm, fl) =>
    let good := min 2 (x.cowGood + 1)
    let s := s.setCli c { x with rxCm := cm, rxFlags := fl, cowBad := 0, cowGood := good, cowLost := x.cowLost && good < 2 }
    (s.wr .SHET_CLI_STAT_GMP_LOCK (b2n (s.rd .SHET_CLI_CFG_MODE c != 0)) c).refreshEgress c
  | none =>
    let bad := min 3 (x.cowBad + 1)
    let s := (s.setCli c { x with cowBad := bad, cowGood := 0, cowLost := x.cowLost || bad == 3 }).count .SHET_CNT 1 c 6
    let s := s.wr .SHET_CLI_STAT_GMP_LOCK 0 c
    let s := if bad == 3 && !x.cowLost then s.raise .SHET_CLI_EVT_COW_LOST 0x8003 (s.cliDom c) [] false c else s
    s.refreshEgress c

/-- COW_RECEIVED: the oldest container overhead word of the client that waits is judged (R214), and what its stream under GMP has brought
goes out. -/
def execCowReceived (c : Client) (s : State) : Res := act 16 s fun s =>
  match s.rd .SHET_CLI_CFG_TYPE c != 0, (s.cli c).cows with
  | true, w :: rest => ((s.setCli c { s.cli c with cows := rest }).judgeCow c w).hostStream c
  | _, _ => s

/-- CLR_HOLD has passed without a new failure (R221): egress resumes in frame mode once the delineator has sync, otherwise after two
multiframes with a valid COW. -/
def execEgressResume (c : Client) (s : State) : Res := act 16 s fun s =>
  let ready := if s.rd .SHET_CLI_CFG_MODE c = 0 then s.on .SHET_CLI_STAT_SYNC c else decide (2 ≤ (s.cli c).cowGood)
  if !s.on .SHET_CLI_STAT_SRV_FAIL c && !s.on .SHET_CLI_STAT_FAR_CSF c && ready then s.wr .SHET_CLI_STAT_EGR_ACT 0 c else s

/-! ### GMP (R215) -/

/-- The next CM: moved toward the target by at most 2, and at most P. -/
def cmStep (last : Option Nat) (target p : Nat) : Nat :=
  min p (match last with
    | none => target
    | some c => if c < target then min target (c + 2) else max target (c - 2))

/-- The container overhead word of a client (Table 7.3), with its CSF flag. -/
def State.cowBytes (s : State) (c cm : Nat) (csf : Bool) : List Byte :=
  let gmp := s.rd .SHET_CLI_CFG_MODE c != 0
  let fl := b2n csf + 2 * s.rd .SHET_CLI_STAT_RX_LF c + 4 * s.rd .SHET_CLI_STAT_RX_RF c + 8 * b2n gmp
  let b := leBytes 3 (if gmp then cm else 0) ++ leBytes 1 fl
  let d := b ++ leBytes 2 (crc16 b)
  d ++ d ++ leBytes 4 0

/-- Idle headers (R204). -/
def idleHeaders : Nat → List Byte
  | 0 => []
  | n + 1 => frameHeader 0 false ++ idleHeaders n

/-- The next bytes of a stream of headers and frames, with idle headers where none waits, and the stream left; a frame or a header cut off
goes on in the next multiframe (R204, R205). -/
def takeStream : Nat → List (List Byte) → List Byte × TxStream
  | need, [] =>
    let b := idleHeaders (ceilDiv need 4)
    (b.take need, if need % 4 = 0 then {} else { units := [b.drop need], cut := true })
  | need, u :: r =>
    if u.length ≤ need then
      let x := takeStream (need - u.length) r
      (u ++ x.1, x.2)
    else (u.take need, { units := u.drop need :: r, cut := true })

/-- What a client's container of M slots carries in the next multiframe (R213, R215, R219): under GMP as many words as the CM announced for
it, replaced while CSF holds or after a recentred crossing; in frame mode the headers and frames. -/
def State.mapClient (s : State) (c m : Nat) : State × Load :=
  let x := s.cli c
  let csf := s.on .SHET_CLI_STAT_CSF c
  let cow := s.cowBytes c (x.txCm.getD 0) csf
  if s.rd .SHET_CLI_CFG_MODE c = 0 then
    let r := takeStream (16 * payloadWords m) x.tx.units
    (s.setCli c { x with tx := r.2 }, { cow := cow, bytes := r.1 })
  else
    let need := 16 * x.nextCm
    let otn := s.rd .SHET_CLI_CFG_TYPE c == 5
    let put (kind : Nat) : List Byte := (List.range need).map (Config.replacement kind)
    let bytes := if csf then put (b2n otn) else if x.recentred then put (if otn then 1 else 2) else padTo need x.txBytes
    (s.setCli c { x with nextCm := x.txCm.getD 0, txBytes := x.txBytes.drop need, recentred := false },
      { cow := cow, gmp := true, cm := x.nextCm, bytes := bytes })

/-- What the container of a leaf of M slots carries in the next multiframe (R217). -/
def State.mapLeaf (s : State) (c key m : Nat) : State × Load :=
  let x := s.cli c
  let y := x.leaves.get {} key
  let r := takeStream (16 * payloadWords m) y.tx.units
  (s.setCli c { x with leaves := x.leaves.put {} key { y with tx := r.2 } },
    { cow := s.cowBytes c 0 (s.on .SHET_CLI_STAT_CSF c), bytes := r.1 })

/-- Payload word j of a container of P payload words (R215): under GMP its client data or zeros, otherwise the stream's bytes. -/
def Load.word (x : Load) (j p : Nat) : List Byte :=
  let i := if x.gmp then j * x.cm / p else j
  if x.gmp && !carriesData j x.cm p then List.replicate 16 0 else padTo 16 ((x.bytes.drop (16 * (i - 1))).take 16)

/-- A CM fixed for the next multiframe (R215). -/
def State.setCm (s : State) (c cm : Nat) : State := s.setCli c { s.cli c with txCm := some cm }

/-- A list with a number put at its place in ascending order. -/
def insertNat (a : Nat) : List Nat → List Nat
  | [] => [a]
  | b :: r => if a ≤ b then a :: b :: r else b :: insertNat a r

/-- The positions of some slots in ascending order (R211). -/
def State.placesOf (s : State) (l : List Nat) : List Nat := l.foldr (fun k a => insertNat (s.rd .SHET_TS_LPOS k) a) []

/-! ### Commit (R202, R208 to R212, R216 to R218, R264, Table 7.7) -/

/-- Whether TYPE, LANES and MODE form a row of Table 7.1. -/
def State.rowOk (s : State) (c : Nat) : Bool :=
  let k := s.rd .SHET_CLI_CFG_LANES c
  let m := s.rd .SHET_CLI_CFG_MODE c
  match s.rd .SHET_CLI_CFG_TYPE c with
  | 0 => true
  | 1 => k ≤ 2 && m ≤ 1
  | 2 => 1 ≤ k && k ≤ 3 && m ≤ 1
  | 3 => 2 ≤ k && k ≤ 3 && (m ≤ 1 || m == 3)
  | 4 => k == 3 && m ≤ 1
  | 5 => m == 2
  | _ => false

/-- Whether an Ethernet client's or a FlexO group's lanes stand on their multiple and meet no other's (R202, R208). -/
def State.lanesOk (s : State) (first count : Nat) : Bool :=
  0 < count && first % count == 0 && first + count ≤ 48 &&
    (List.range 48).all fun x =>
      let overlaps (start n : Nat) : Bool := x != first && decide (start < first + count) && decide (first < start + n)
      !(s.isEth x && overlaps x (s.laneCount x)) && !(s.on .SHET_FLX_CFG_EN x && overlaps x (s.flexLanes x))

/-- Whether a client breaks cause 0x1. -/
def State.clientBad (s : State) (c : Nat) : Bool :=
  s.rd .SHET_CLI_CFG_HUB_TAG c == 3 || !s.rowOk c ||
    (s.isEth c && (!s.lanesOk c (s.laneCount c) || s.on .SHET_FLX_CFG_EN c)) ||
    (s.on .SHET_FLX_CFG_EN c && !s.lanesOk c (s.flexLanes c)) ||
    (s.rd .SHET_CLI_CFG_TYPE c == 5 &&
      ((s.ethOf c).isSome ||
        match s.flexOf c with
        | some l => (s.hostSlots c).isEmpty || (s.hostSlots c).any fun k => (s.hostGroup k).any fun g => g != l
        | none => false))

/-- R264 for an enabled group: equal numbers of slots on the local member lines and none elsewhere; a split group's client has MODE 1
or 2; every container has a key context or none has. -/
def State.groupClientOk (s : State) (g : Nat) : Bool :=
  let c := s.rd .BEND_PG_CFG_CLIENT g
  let split := s.on .BEND_PG_CFG_KIND g
  let w := s.rd .BEND_PG_CFG_W_LINE g
  let p := s.rd .BEND_PG_CFG_P_LINE g
  let mem := if split then [if s.on .BEND_PG_CFG_LOCAL_PATH g then p else w] else [w, p]
  let m := s.rd .SHET_CLI_CFG_MODE c
  (s.cliSlots c).all (fun k => mem.contains (s.rd .SHET_TS_LINE k)) && (s.cliLeafSlots c).isEmpty &&
    mem.all (fun n => s.sizeOn c n == s.sizeOn c (mem.headD 0)) && (!split || m == 1 || m == 2) &&
    (mem.all (fun n => (s.kcOf n false c).isSome) || mem.all fun n => (s.kcOf n false c).isNone)

/-- Whether one enabled slot breaks R211 or the first and fourth checks of R212. -/
def State.slotBad (s : State) (k : Nat) : Bool :=
  let n := s.rd .SHET_TS_LINE k
  let sc := s.rd .SHET_TS_SC k
  n == 3 || s.lineOzr n || !(s.lineMode n == 1 || s.lineMode n == 2) || s.leastK n ≤ s.rd .SHET_TS_LPOS k ||
    s.rd .BRAD_SC_CFG_WIDTH n sc == 0

/-- Whether the slots counted against a subcarrier exceed its capacity at the floor (R212). -/
def State.scOver (s : State) (n sc : Nat) : Bool :=
  capTs (s.rd .CLET_LINE_CFG_OH n) (slotWidth (s.rd .BRAD_SC_CFG_WIDTH n sc), s.rd .BRAD_SC_LOAD_FLOOR_ENT n sc) <
    (s.boundSlots.filter fun k => s.rd .SHET_TS_LINE k == n && s.rd .SHET_TS_SC k == sc).length

/-- Whether the slot table breaks R212 or R264. -/
def State.slotsBad (s : State) : Bool :=
  let l := s.boundSlots
  let place (k : Nat) := (s.rd .SHET_TS_LINE k, s.rd .SHET_TS_LPOS k)
  l.any s.slotBad || decide ((l.map place).eraseDups.length < l.length) ||
    (List.range 3).any (fun n => (List.range 32).any fun sc => s.scOver n sc) ||
    (List.range 16).any fun g => s.on .BEND_PG_CFG_EN g && !s.groupClientOk g

/-- The nominal rate of a client in kb/s: that of the PCS stream for MODE = 1, the client's own for MODE = 0, the ODU's for OTN; the
ODU4 rate is that of ITU-T G.709 (log entry 7). -/
def State.cliKbps (s : State) (c : Nat) : Nat :=
  let t := s.rd .SHET_CLI_CFG_TYPE c
  if t = 5 then (if s.rd .SHET_ODU_CFG_RATE c = 0 then 104794446 else s.rd .SHET_ODU_CFG_RATE c)
  else if s.rd .SHET_CLI_CFG_MODE c = 0 then 200000000 * 2 ^ (t - 1)
  else 200781250 * 2 ^ (t - 1)

/-- Whether a container of M slots carries the client (R216). -/
def State.fits (s : State) (c m : Nat) : Bool :=
  let p := payloadWords m
  let r := s.cliKbps c
  if s.rd .SHET_CLI_CFG_MODE c = 0 then
    decide (1048576 * r * 1000100 * 16004 ≤ p * 128 * 9000000 * 1000000 * 16020)
  else
    let ppm := if s.rd .SHET_CLI_CFG_TYPE c = 5 then 20 else 100
    decide (ceilDiv (r * 1024 * (1000000 + ppm)) (1125000 * 1000000) + 2 ≤ p)

/-- Whether a client's container is too small (cause 0x3): one with slots, or a running client that loses its slots (Table 7.6). -/
def contSmall (old t : State) (c : Nat) : Bool :=
  let runs := old.rd .SHET_CLI_CFG_TYPE c != 0 && !(old.cliSlots c).isEmpty && t.rd .SHET_CLI_CFG_MODE c != 3 &&
    (t.cliLeafSlots c).isEmpty
  t.rd .SHET_CLI_CFG_TYPE c != 0 && (!(t.cliSlots c).isEmpty || runs) && !t.fits c (t.contSize c)

/-- Whether a leaf slot breaks cause 0x4. -/
def State.leafSlotBad (s : State) (k : Nat) : Bool :=
  let n := s.rd .SHET_TS_LINE k
  s.on .SHET_TS_LEAF_EN k &&
    (s.lineMode n != 2 || s.rd .SHET_CLI_CFG_MODE (s.rd .SHET_TS_CLIENT k) != 0 ||
      s.rd .SHET_TS_SC k != s.rd .BGHT_LEAF_DN_SC n (s.rd .SHET_TS_LEAF k))

/-- The host tributary slots that an ODU needs: its rate over the OPUCn slot rate of ITU-T G.709, both at the edge of tolerance
(log entry 7). -/
def State.oduSlots (s : State) (c : Nat) : Nat := ceilDiv (s.cliKbps c * 1000020) (5240886 * 999980)

/-- Whether the host slots break cause 0x5. -/
def State.hostBad (s : State) : Bool :=
  ((s.listed .SHET_HTS).any fun k => s.on .SHET_HTS_EN k && (s.hostGroup k).isNone) ||
    (List.range 48).any fun c => s.rd .SHET_CLI_CFG_TYPE c == 5 && (s.hostSlots c).length != s.oduSlots c

/-- Whether a MODE 3 client breaks R218: its line is not 800ZR, or another client names the same line. -/
def State.ozrBad (s : State) (c : Nat) : Bool :=
  let is3 (x : Nat) := s.rd .SHET_CLI_CFG_TYPE x != 0 && s.rd .SHET_CLI_CFG_MODE x == 3
  let n := s.rd .SHET_CLI_CFG_LINE c
  is3 c && (n == 3 || !s.lineOzr n ||
    (List.range 48).any fun x => x != c && is3 x && s.rd .SHET_CLI_CFG_LINE x == n)

/-- The rules of Table 7.7, rights apart, over the state that the commit would leave. A slot-table cause records 0x3F. -/
def checkSheet (old t : State) : Option Breach :=
  let slotTable (p : Bool) : Option (Nat × Nat) := if p then some (0x3F, 0) else none
  firstBreach [
    (1, lowest 48 t.cliDom t.clientBad),
    (2, slotTable t.slotsBad),
    (3, lowest 48 t.cliDom (contSmall old t)),
    (4, slotTable (t.boundSlots.any t.leafSlotBad)),
    (5, slotTable t.hostBad),
    (6, lowest 48 t.cliDom t.ozrBad)]

/-- A client after a SHET commit: one that is disabled or has another TYPE or MODE starts anew. A change of its slots takes effect at the
next multiframes of their lines (Table 7.6); the streams of leaves without a slot end, as a Hub line receives no multiframes (log
entry 79). -/
def afterSheetClient (old : State) (c : Nat) (t : State) : State :=
  let same (f : Fld) := old.rd f c == t.rd f c
  let t := if same .SHET_CLI_CFG_TYPE && same .SHET_CLI_CFG_MODE && t.rd .SHET_CLI_CFG_TYPE c != 0 then
      let kept := (t.cliLeaves c).map fun e => leafKey e.1 e.2
      let gone := ((t.cli c).leaves.map fun e => e.1).filter fun e => !kept.contains e
      t.each gone fun e u => let v := u.endLeaf c e; v.setCli c { v.cli c with leaves := (v.cli c).leaves.erase e }
    else (t.setCli c {}).setReg .SHET_CLI_STAT 0 c
  (t.refreshIngress c).refreshEgress c

/-- What an applied SHET commit does in Sheet. -/
def afterSheet (old new : State) : State := new.each (List.range 48) (afterSheetClient old)

end Sys2Proof.Machine
end

