-- ==== Sys2Proof/Machine/Bend.lean ====
section
/-! DEFINITION. Bend (chapter 10): sequence numbers, paths, deskew, selection, alignment, the protection commands' effects, lockstep. -/

namespace Sys2Proof.Machine

open Sys2Proof

/-- What Bend holds for a group. -/
def State.grp (s : State) (g : Nat) : GroupInt := s.groups.get {} g

/-- The same, replaced. -/
def State.setGrp (s : State) (g : Nat) (x : GroupInt) : State := { s with groups := s.groups.put {} g x }

/-- A path of a group. -/
def GroupInt.path (x : GroupInt) (p : Nat) : PathInt := if p = 0 then x.path0 else x.path1

/-- A path of a group, replaced. -/
def GroupInt.setPath (x : GroupInt) (p : Nat) (y : PathInt) : GroupInt := if p = 0 then { x with path0 := y } else { x with path1 := y }

/-- The member line of a path. -/
def State.member (s : State) (g p : Nat) : Nat := if p = 0 then s.rd .BEND_PG_CFG_W_LINE g else s.rd .BEND_PG_CFG_P_LINE g

/-- Whether a path has a member on this device (R262). -/
def State.localPath (s : State) (g p : Nat) : Bool :=
  !s.on .BEND_PG_CFG_KIND g || s.rd .BEND_PG_CFG_LOCAL_PATH g == p

/-- Whether a number is after another in the order of 2^32 (R266). -/
def isAfter (a b : Nat) : Bool :=
  let d := wrapSub (2 ^ 32) a b
  0 < d && decide (d < 2 ^ 31)

/-- Whether a unit is after another: by q, then by j (R266). -/
def unitAfter (a b : Nat × Nat) : Bool := isAfter a.1 b.1 || (a.1 == b.1 && decide (b.2 < a.2))

/-- Segments per multiframe of a container of M slots (R245). -/
def segments (m : Nat) : Nat := ceilDiv (payloadWords m) 1024

/-- Segments per multiframe of a group's container. -/
def State.grpSegments (s : State) (g : Nat) : Nat := segments (s.contSize (s.rd .BEND_PG_CFG_CLIENT g))

/-- The unit slots N of a group: 16 per on-die block, 1,024 per 16 MiB of attached memory (R272). -/
def State.unitSlots (s : State) (g : Nat) : Nat :=
  s.rd .BEND_PG_CFG_DSK_BLK g * (if s.on .BEND_PG_CFG_DSK_LOC g then 1024 else 16)

/-- The reach of a group in units of 10 ns, capped at 20 ms (R273): T_u = 1,048,576 / (9 × S) ns. -/
def State.reach (s : State) (g : Nat) : Nat :=
  min 2000000 ((s.unitSlots g - 2) * 1048576 / (90 * s.grpSegments g) - s.rd .BEND_PG_DLY_GUARD g)

/-! ### Paths (R270, R275) -/

/-- Whether a path is OK or OK-degraded. -/
def State.pathOk (s : State) (g p : Nat) : Bool := 5 ≤ s.rd .BEND_PATH_ST_PSTATE g p

/-- The group state (R275): in sequence on no path is Acquiring; Dual is both paths OK; Pass-through stays until an alignment. -/
def State.refreshGroup (s : State) (g : Nat) : State :=
  let inSeq (p : Nat) := s.on .BEND_PATH_ST_INSEQ g p
  let v :=
    if !s.on .BEND_PG_CFG_EN g then 0
    else if s.rd .BEND_PG_STAT_GSTATE g = 4 then 4
    else if !inSeq 0 && !inSeq 1 then 1
    else if s.pathOk g 0 && s.pathOk g 1 then 3
    else 2
  s.wr .BEND_PG_STAT_GSTATE v g

/-- The state a path is in, from its conditions (Table 10.2); a failure comes before a loss of sequence, and that before the window. -/
def State.pathNow (s : State) (g p : Nat) : Nat :=
  let n := s.member g p
  let old := s.rd .BEND_PATH_ST_PSTATE g p
  if !s.on .BEND_PG_CFG_EN g || !s.localPath g p then 0
  else if s.ssfActs n || s.keyFails n false (s.rd .BEND_PG_CFG_CLIENT g) then 2
  else if !s.on .BEND_PATH_ST_INSEQ g p then 1
  else if ((s.grp g).path p).outside then 3
  else if old = 4 || (old < 4 && s.rd .BEND_PG_CFG_WTR_S g != 0) then 4
  else if s.on .HTCH_DEF_FEC_SD n then 6
  else 5

/-- A path taken anew: its SSF and SSD bits, its state, events 0x7801 and 0x7802, the start of WTR. -/
def State.refreshPath (s : State) (g p : Nat) : State :=
  let n := s.member g p
  let on := s.on .BEND_PG_CFG_EN g && s.localPath g p
  let old := s.rd .BEND_PATH_ST_PSTATE g p
  let new := s.pathNow g p
  let ssf := on && s.ssfActs n
  let s := ((s.wr .BEND_PATH_ST_SSF (b2n ssf) g p).wr .BEND_PATH_ST_SSD (b2n (on && s.on .HTCH_DEF_FEC_SD n && !ssf)) g p).wr
    .BEND_PATH_ST_PSTATE new g p
  let s := if new = 4 then (if old = 4 then s else s.wr .BEND_PATH_ST_WTR_LEFT (s.rd .BEND_PG_CFG_WTR_S g) g p)
    else s.wr .BEND_PATH_ST_WTR_LEFT 0 g p
  let s := if 5 ≤ old && new < 5 then s.raise .BEND_EVT_PATH_FAIL 0x7801 (s.pgDom g) [g, p]
    else if old < 5 && 5 ≤ new then s.raise .BEND_EVT_PATH_OK 0x7802 (s.pgDom g) [g, p]
    else s
  s.refreshGroup g

/-- Both paths of a group taken anew. -/
def State.refreshPaths (s : State) (g : Nat) : State := (s.refreshPath g 0).refreshPath g 1

/-- The groups with a member on a line taken anew: a change of its signal fail or degrade (R190). -/
def State.refreshLineGroups (s : State) (n : Nat) : State := s.each (s.groupsOn n) fun g t => t.refreshPaths g

/-- A path loses sequence (R270): event 0x7808. -/
def State.loseSequence (s : State) (g p : Nat) : State :=
  let x := s.grp g
  let s := s.setGrp g (x.setPath p { x.path p with lastQ := none, wrong := 0 })
  ((s.wr .BEND_PATH_ST_INSEQ 0 g p).raise .BEND_EVT_SEQ_LOST 0x7808 (s.pgDom g) [g, p]).refreshPath g p

/-- The start of a receive multiframe on a path (R270): the second without a valid record loses sequence; the expected q moves on. -/
def State.pathMultiframe (s : State) (g p : Nat) : State :=
  let x := s.grp g
  let y := x.path p
  let empty := if y.seen then 0 else min 2 (y.empty + 1)
  let lastQ := if y.seen then y.lastQ else none
  let s := s.setGrp g (x.setPath p { y with seen := false, empty := empty, lastQ := lastQ, expect := (y.expect + 1) % 2 ^ 32 })
  if empty = 2 && s.on .BEND_PATH_ST_INSEQ g p then s.loseSequence g p else s

/-- A valid PG record on a path in frame f of a multiframe (R270): q in frame 0 of one multiframe and q + 1 in frame 0 of the next give
sequence; three frames in a row that disagree lose it. -/
def State.pathRecord (s : State) (g p f q : Nat) : State :=
  let x := s.grp g
  let y := x.path p
  let follows := f == 0 && y.lastQ == some ((q + 2 ^ 32 - 1) % 2 ^ 32)
  if s.on .BEND_PATH_ST_INSEQ g p then
    let wrong := if q = y.expect then 0 else y.wrong + 1
    let s := s.setGrp g (x.setPath p { y with seen := true, wrong := wrong, lastQ := if f = 0 then some q else y.lastQ })
    if wrong = 3 then s.loseSequence g p else s
  else
    let s := s.setGrp g (x.setPath p { y with
      seen := true, wrong := 0, lastQ := if f = 0 then some q else y.lastQ, expect := if f = 0 then q else y.expect })
    if follows then (s.wr .BEND_PATH_ST_INSEQ 1 g p).refreshPath g p else s

/-- The PG records (group, valid, q) of a received frame f of a line handed to Bend (R176, R270). -/
def State.bendFrame (s : State) (n f : Nat) (recs : List (Nat × Bool × Nat)) : State :=
  s.each (s.groupsOn n) fun g t =>
    t.each [0, 1] fun p t =>
      if t.member g p = n && t.localPath g p then
        let t := if f = 0 then t.pathMultiframe g p else t
        match recs.find? fun r => r.1 == g && r.2.1 with
        | some r => t.pathRecord g p f r.2.2
        | none => t.setGrp g ((t.grp g).setPath p { (t.grp g).path p with wrong := 0 })
      else t

/-! ### Alignment (R271, R274, R280) -/

/-- Which path is the earlier one at an alignment (R271): by the mean of the copies' times where both are in sequence, otherwise the one
that is. -/
def State.earlierNow (s : State) (g : Nat) : Nat :=
  match s.on .BEND_PATH_ST_INSEQ g 0, s.on .BEND_PATH_ST_INSEQ g 1 with
  | true, true => if (s.grp g).skew < 0 then 1 else 0
  | false, true => 1
  | _, _ => 0

/-- The earlier path in force. -/
def State.earlier (s : State) (g : Nat) : Nat := if s.on .BEND_PATH_ST_EARLIER g 1 then 1 else 0

/-- EARLIER and DELTA shown (Table 10.10): Δ is that of the later path, no less than 0. -/
def State.showDelta (s : State) (g e : Nat) : State :=
  let d := if e = 0 then (s.grp g).skew else -(s.grp g).skew
  s.each [0, 1] fun p t =>
    (t.wr .BEND_PATH_ST_EARLIER (b2n (p == e)) g p).wr .BEND_PATH_ST_DELTA (if p = e then 0 else d.toNat) g p

/-- The Δ that an alignment uses: that of the later path when both are in sequence, otherwise 0 (R274). -/
def State.alignDelta (s : State) (g : Nat) : Nat :=
  if s.on .BEND_PATH_ST_INSEQ g 0 && s.on .BEND_PATH_ST_INSEQ g 1 then
    max (s.rd .BEND_PATH_ST_DELTA g 0) (s.rd .BEND_PATH_ST_DELTA g 1)
  else 0

/-- The new deskew offset, clipped to the reach plus GUARD (R274, R280). -/
def State.newOffset (s : State) (g : Nat) : Nat :=
  let guard := s.rd .BEND_PG_DLY_GUARD g
  min (max (s.alignDelta g) (s.rd .BEND_PG_DLY_DLY_PRESET g) + guard) (s.reach g + guard)

/-- The units of one hit (R280): played as signal fail when DO grows by d, rounded up; dropped when it shrinks, rounded down. -/
def hitUnits (old new seg : Nat) : Nat :=
  if old ≤ new then ceilDiv (90 * (new - old) * seg) 1048576 else 90 * (old - new) * seg / 1048576

/-- The unit that comes k units after another, with S units in a multiframe (R265, R266). -/
def unitPlus (u : Nat × Nat) (k seg : Nat) : Nat × Nat :=
  let d := u.2 + k
  ((u.1 + d / max 1 seg) % 2 ^ 32, d % max 1 seg)

/-- What the hit of an alignment does to the play-out (R280): units of signal fail when DO grows, units dropped when it shrinks. -/
def State.realignHit (s : State) (g old new : Nat) : State :=
  let k := hitUnits old new (s.grpSegments g)
  if k = 0 then s
  else if old ≤ new then
    let c := s.rd .BEND_PG_CFG_CLIENT g
    (s.setCli c { s.cli c with unitFail := true }).refreshEgress c
  else s.setGrp g { s.grp g with last := (s.grp g).last.map fun u => unitPlus u k (s.grpSegments g) }

/-- A path is judged against the window of the offset in force (Table 10.2): inside it while its copies complete before their play-out
time, and no more than the reach and GUARD before it. -/
def State.judgeWindow (s : State) (g p : Nat) : State :=
  let x := s.grp g
  let y := x.path p
  let behind : Int := if p = s.earlier g then 0 else if p = 1 then x.skew else -x.skew
  let early : Int := s.rd .BEND_PG_STAT_DO g - behind
  if y.outside && 0 < early && early ≤ ((s.reach g + s.rd .BEND_PG_DLY_GUARD g : Nat) : Int) then
    (s.setGrp g (x.setPath p { y with outside := false })).refreshPath g p
  else s

/-- An alignment (R274, R280): a new DO; after the first one of the group it is one hit, counted, with event 0x7805; it ends
Pass-through. -/
def State.align (s : State) (g : Nat) : State :=
  let s := s.showDelta g (s.earlierNow g)
  let old := s.rd .BEND_PG_STAT_DO g
  let new := s.newOffset g
  let first := !(s.grp g).aligned
  let s := (s.setGrp g { s.grp g with aligned := true }).wr .BEND_PG_STAT_DO new g
  let s := if first then s else
    ((s.realignHit g old new).count .BEND_PG_CNT (hitUnits old new (s.grpSegments g)) g 7).raise .BEND_EVT_REALIGN 0x7805 (s.pgDom g) [g, 0]
  let s := if s.rd .BEND_PG_STAT_GSTATE g = 4 then s.wr .BEND_PG_STAT_GSTATE 1 g else s
  ((s.judgeWindow g 0).judgeWindow g 1).refreshGroup g

/-- When every path in sequence is Out-of-window, Bend aligns at once (R280). -/
def State.alignIfAllOut (s : State) (g : Nat) : State :=
  let inSeq := [0, 1].filter fun p => s.on .BEND_PATH_ST_INSEQ g p
  if !inSeq.isEmpty && inSeq.all (fun p => ((s.grp g).path p).outside) then s.align g else s

/-- The differences, path 1 after path 0 in cclk cycles, of the units that both paths have completed, the second of them since the last
measurement (R271). -/
def stampDiffs (a b : List Stamp) : List Int :=
  a.flatMap fun x => (b.filter fun y => y.q == x.q && y.j == x.j && (y.fresh || x.fresh)).map fun y => (y.time : Int) - x.time

/-- The mean of differences in cclk cycles, in 10 ns, nine cycles each, of which a remainder is dropped (log entry 8); without any, the
value before. -/
def meanSkew (old : Int) (l : List Int) : Int := if l.isEmpty then old else (l.foldl (fun a d => a + d) 0).tdiv (9 * l.length)

/-- Whether a unit comes after the last one played (R266). -/
def State.unitDue (s : State) (g q j : Nat) : Bool :=
  match (s.grp g).last with
  | some l => unitAfter (q, j) l
  | none => true

/-- The time-stamps kept after a measurement: those of units to come, and those that were new. -/
def State.keepStamps (s : State) (g : Nat) (l : List Stamp) : List Stamp :=
  (l.filter fun x => x.fresh || s.unitDue g x.q x.j).map fun x => { x with fresh := false }

/-- The differential delay measured, every 1 ms (R271), from the time-stamps; the first measurement with a path in sequence aligns the
group (log entry 8). -/
def execDeltaMeasure (g : Pg) (s : State) : Res := act 15 s fun s =>
  if !s.on .BEND_PG_CFG_EN g then s
  else
    let x := s.grp g
    let keep (y : PathInt) : PathInt := { y with stamps := s.keepStamps g y.stamps }
    let s := s.setGrp g { x with
      skew := meanSkew x.skew (stampDiffs x.path0.stamps x.path1.stamps), path0 := keep x.path0, path1 := keep x.path1 }
    let s := if x.aligned then s.showDelta g (s.earlier g) else s
    let inSeq := s.on .BEND_PATH_ST_INSEQ g 0 || s.on .BEND_PATH_ST_INSEQ g 1
    if !(s.grp g).aligned && inSeq then s.align g else (s.judgeWindow g 0).judgeWindow g 1

/-- Copies have been outside the window for 1 ms (R275, R279): event 0x7803. -/
def execOutOfWindow (g : Pg) (p : Path) (s : State) : Res := act 15 s fun s =>
  let x := s.grp g
  if s.on .BEND_PG_CFG_EN g && s.on .BEND_PATH_ST_INSEQ g p && !(x.path p).outside then
    (((s.setGrp g (x.setPath p { x.path p with outside := true })).raise .BEND_EVT_WINDOW 0x7803 (s.pgDom g) [g, p]).refreshPath
      g p).alignIfAllOut g
  else s

/-- WTR_S has passed (Table 10.2): the path is OK. -/
def execPathWtrExpiry (g : Pg) (p : Path) (s : State) : Res := act 15 s fun s =>
  if s.rd .BEND_PATH_ST_PSTATE g p = 4 then
    let v := if s.on .BEND_PATH_ST_SSD g p then 6 else 5
    (((s.wr .BEND_PATH_ST_WTR_LEFT 0 g p).wr .BEND_PATH_ST_PSTATE v g p).raise .BEND_EVT_PATH_OK 0x7802 (s.pgDom g)
      [g, p]).refreshGroup g
  else s

/-- A path has been Out-of-window for WTR_S while the other is OK (R280): the group aligns when AUTO_REALIGN is set. -/
def execAutoRealign (g : Pg) (p : Path) (s : State) : Res := act 15 s fun s =>
  if s.on .BEND_PG_CFG_AUTO_REALIGN g && s.rd .BEND_PATH_ST_PSTATE g p = 3 && s.pathOk g (1 - p.val) then s.align g else s

/-! ### Units (R276, R277, R282) -/

/-- The path that a forced switch restricts selection to: a lockout comes before one that names path 1 (R277). -/
def GroupInt.forced (x : GroupInt) : Option Nat := if x.lockout then x.force.filter fun p => p == 0 else x.force

/-- Whether a path is excluded by a command (R277). -/
def State.excluded (s : State) (g p : Nat) : Bool :=
  match (s.grp g).forced with
  | some q => p != q
  | none => (s.grp g).lockout && p == 1

/-- Whether a path is eligible (Table 10.2). -/
def State.pathEligible (s : State) (g p : Nat) : Bool :=
  match s.rd .BEND_PATH_ST_PSTATE g p with
  | 5 => true
  | 6 => !(s.on .BEND_PG_CFG_SD_EXCL g && s.rd .BEND_PATH_ST_PSTATE g (1 - p) == 5)
  | _ => false

/-- Whether the stored copy may be played (R276, R277): that of a forced path also with its marks, but not in signal fail. -/
def State.playable (s : State) (g : Nat) (c : UnitCopy) : Bool :=
  match (s.grp g).forced with
  | some q => c.path == q && !s.on .BEND_PATH_ST_SSF g q
  | none =>
    !s.excluded g c.path &&
      (s.pathEligible g c.path ||
        (c.good && s.on .BEND_PATH_ST_INSEQ g c.path && s.rd .BEND_PATH_ST_PSTATE g c.path != 3))

/-- Whether Bend plays signal fail to its client; Sheet takes its action (R278). -/
def State.setUnitFail (s : State) (g : Nat) (v : Bool) : State :=
  let c := s.rd .BEND_PG_CFG_CLIENT g
  if (s.cli c).unitFail = v then s else (s.setCli c { s.cli c with unitFail := v }).refreshEgress c

/-- A unit is played: its copy goes to Sheet, its words stomped where its tag has failed since it was stored, or signal fail takes its
place; counted; event 0x7804 at most once per second (R276, R278, R283). -/
def State.playUnit (s : State) (g q j : Nat) (copy : Option UnitCopy) : State :=
  let x := s.grp g
  let c := s.rd .BEND_PG_CFG_CLIENT g
  let s := (s.setGrp g { x with last := some (q, j), store := x.store.filter fun c => unitAfter (c.q, c.j) (q, j) }).wr
    .BEND_PG_STAT_Q q g
  let bad (s : State) : State :=
    let s := s.count .BEND_PG_CNT 1 g 6
    if (s.grp g).badSaid then s
    else (s.setGrp g { s.grp g with badSaid := true }).raise .BEND_EVT_BOTH_BAD 0x7804 (s.pgDom g) [g, 0]
  match copy with
  | some u =>
    let s := (s.count .BEND_PG_CNT 1 g (4 + u.path)).setUnitFail g false
    let s := if u.tagBad then bad s else s
    let s := if u.cow.isEmpty then s else s.takeCow c u.cow
    s.takeWords 1024 c (u.words.map fun b => (b.1, b.2 || u.tagBad))
  | none => (bad s).setUnitFail g true

/-- A copy of a unit that has come in on a path waits to be completed (R265, R271). -/
def State.copyIn (s : State) (g p : Nat) (c : UnitCopy) : State :=
  let x := s.grp g
  s.setGrp g (x.setPath p { x.path p with copies := (x.path p).copies ++ [c] })

/-- The cclk cycle in which a unit is played out (R274): DO after its completion on the earlier path, or, without a copy there, after the
later copy's completion less Δ; unknown before any copy. -/
def State.playTime (s : State) (g q j : Nat) : Option Nat :=
  let x := s.grp g
  let e := s.earlier g
  let at_ (p : Nat) : Option Nat := ((x.path p).stamps.find? fun t => t.q == q && t.j == j).map fun t => t.time
  match at_ e, at_ (1 - e) with
  | some t, _ => some (t + 9 * s.rd .BEND_PG_STAT_DO g)
  | none, some t => some (t + 9 * s.rd .BEND_PG_STAT_DO g - 9 * s.rd .BEND_PATH_ST_DELTA g (1 - e))
  | none, none => none

/-- Whether a copy may be stored (R276, R277, R279): its path is in sequence, not Out-of-window, and not excluded by a command. -/
def State.storable (s : State) (g p : Nat) : Bool :=
  !s.excluded g p && s.on .BEND_PATH_ST_INSEQ g p && !((s.grp g).path p).outside

/-- A copy is classified as good, marked or late (R282), and stored unless a good copy is (R276, R277): of two good copies of one cycle that of
path 0 stays (R283). A duplicate is discarded (R266); its class was counted at its play-out. In Pass-through the first good copy is
played at once (R281). -/
def State.completeCopy (s : State) (g p : Nat) (c : UnitCopy) : State :=
  let good := c.good && !c.tagBad
  let through := s.rd .BEND_PG_STAT_GSTATE g == 4
  let late := !through && (s.playTime g c.q c.j).any fun t => decide (t ≤ c.time)
  let due := s.unitDue g c.q c.j
  let s := if due || through then s.count .BEND_PG_CNT 1 g (2 * p + (if good && !late then 0 else 1)) else s
  if !due || late then s
  else
    let x := s.grp g
    if through then (if good && !s.excluded g p then s.playUnit g c.q c.j (some c) else s)
    else
      let same (d : UnitCopy) : Bool := d.q == c.q && d.j == c.j
      let kept (d : UnitCopy) : Bool := same d && d.good && !d.tagBad && !(good && d.time == c.time && d.path == 1 && p == 0)
      if !s.storable g p || x.store.any kept then s
      else s.setGrp g { x with store := x.store.filter (fun d => !same d) ++ [c] }

/-- UNIT_COPY_COMPLETE: the oldest copy that has come in on a path completes in a cclk cycle (R271, R276). -/
def execUnitCopyComplete (g : Pg) (p : Path) (time : Nat) (s : State) : Res := act 15 s fun s =>
  let x := s.grp g
  match s.on .BEND_PG_CFG_EN g && s.localPath g p, (x.path p).copies with
  | true, c :: rest =>
    (s.setGrp g (x.setPath p { x.path p with
      copies := rest, done := some (c.q, c.j), stamps := (x.path p).stamps ++ [⟨c.q, c.j, time, true⟩] })).completeCopy g p
      { c with time := time }
  | _, _ => s

/-- Whether a path in sequence has brought no copy of a unit by its play-out (R282). -/
def State.copyMissing (s : State) (g p q j : Nat) : Bool :=
  s.localPath g p && s.on .BEND_PATH_ST_INSEQ g p &&
    match ((s.grp g).path p).done with
    | some d => unitAfter (q, j) d
    | none => true

/-- The copy that the play-out of a unit may take: the stored one, if it qualifies (R276, R277). -/
def State.copyToPlay (s : State) (g q j : Nat) : Option UnitCopy :=
  ((s.grp g).store.find? fun c => c.q == q && c.j == j).filter fun c => s.playable g c

/-- UNIT_PLAYOUT: a cclk cycle at or after the play-out time of a unit (R274, R276): the stored copy if it qualifies, otherwise signal fail; a path in sequence whose copy
has not come is counted (R282). The last operand: a read of the stored copy from attached memory that has not returned through a
port by this time makes it late (R377); the port counts it, and the copy is not played. -/
def execUnitPlayout (g : Pg) (q : BitVec 32) (j now : Nat) (late : Option MemPort) (s : State) : Res := act 15 s fun s =>
  if !s.on .BEND_PG_CFG_EN g || s.rd .BEND_PG_STAT_GSTATE g = 4 || !s.unitDue g q.toNat j ||
      (s.playTime g q.toNat j).any (fun t => decide (now < t)) then s
  else
    let s := if s.copyMissing g 0 q.toNat j then s.count .BEND_PG_CNT 1 g 1 else s
    let s := if s.copyMissing g 1 q.toNat j then s.count .BEND_PG_CNT 1 g 3 else s
    match s.copyToPlay g q.toNat j, late.filter fun _ => s.on .BEND_PG_CFG_DSK_LOC g with
    | some c, some port =>
      ((s.count .BCKT_MEM_CNT 1 port 5).count .BEND_PG_CNT 1 g (2 * c.path + 1)).playUnit g q.toNat j none
    | copy, _ => s.playUnit g q.toNat j copy

/-! ### Commands (Table 10.3) -/

/-- CMD of a group's status (Table 10.9): of a lockout and a forced switch the one that R277 ranks first is shown, the lockout. -/
def State.showCmd (s : State) (g : Nat) : State :=
  let x := s.grp g
  s.wr .BEND_PG_STAT_CMD (if x.lockout then 1 else match x.force with
    | some 0 => 2
    | some _ => 3
    | none => 0) g

/-- PG_LOCKOUT: path 1 is excluded. -/
def State.pgLockout (s : State) (g : Nat) : State := (s.setGrp g { s.grp g with lockout := true }).showCmd g

/-- PG_FORCE: selection is restricted to a path. -/
def State.pgForce (s : State) (g p : Nat) : State := (s.setGrp g { s.grp g with force := some p }).showCmd g

/-- PG_CLEAR: WHICH = 0 removes the lockout, 1 the forced switch. -/
def State.pgClear (s : State) (g which : Nat) : State :=
  let x := s.grp g
  (s.setGrp g (if which = 0 then { x with lockout := false } else { x with force := none })).showCmd g

/-! ### Transmit and lockstep (R265 to R269) -/

/-- Whether this device's claim number is the higher one of the pair (R268). -/
def State.leads (s : State) : Bool := !s.on .LNYD_STAT_NUM_KNOWN || s.rd .LNYD_STAT_PART_NUM < s.rd .LNYD_CLAIM_CLAIM_NUM

/-- LEADER of the enabled split groups follows the claim numbers (Table 10.9). -/
def State.refreshLeaders (s : State) : State :=
  s.each (List.range 16) fun g t => t.wr .BEND_PG_STAT_LEADER (b2n (t.on .BEND_PG_CFG_EN g && t.on .BEND_PG_CFG_KIND g && t.leads)) g

/-- The lockstep record of a multiframe (Table 10.1). -/
def lockstepBytes (g : Nat) (csf : Bool) (q cm words : Nat) : List Byte :=
  leBytes 1 g ++ leBytes 1 (b2n csf) ++ leBytes 4 q ++ leBytes 3 cm ++ leBytes 6 words ++ leBytes 1 0

/-- A multiframe of a protected container is mapped: it takes the next q, and the leader of a split group sends its record (R265 to
R268). -/
def State.mapGroup (s : State) (g c : Nat) : State :=
  let (s, load) := s.mapClient c (s.contSize c)
  let x := s.grp g
  let q := (x.txQ + 1) % 2 ^ 32
  let s := s.setGrp g { x with txQ := q, load := load, words := (x.words + load.cm) % 2 ^ 48 }
  if s.on .BEND_PG_CFG_KIND g then
    (s.sendLockstep (lockstepBytes g (s.on .SHET_CLI_STAT_CSF c) q load.cm x.words)).wr .BEND_PG_STAT_LOCKSTEP 1 g
  else s

/-- GMP_CM_UPDATE: Sheet fixes the CM of the next multiframe of a client (R215), from the count that its FIFO fill calls for; the second
operand is what the client's lanes have brought in PCS mode or as OTN since the update before. A multiframe of a protected client
is mapped with it (R267); the follower of a split group takes its CM from the leader instead (R268). A client of an 800ZR line has no
CM of Sheet: its data waits for the line's frames (R181, R218). -/
def execGmpCmUpdate (c : Client) (target : Nat) (data : List Byte) (s : State) : Res := act 16 s fun s =>
  if s.rd .SHET_CLI_CFG_TYPE c = 0 then s
  else if s.rd .SHET_CLI_CFG_MODE c = 3 then
    s.setCli c { s.cli c with
      txBytes := (s.cli c).txBytes ++ Config.hostIn (s.rd .SHET_CLI_CFG_TYPE c) (s.rd .SHET_CLI_CFG_MODE c) data }
  else if (s.cliSlots c).isEmpty then s
  else
    let gmp := s.rd .SHET_CLI_CFG_MODE c != 0
    let x := s.cli c
    let cm := if gmp then cmStep x.txCm target (payloadWords (s.contSize c)) else 0
    let s := if gmp && !s.on .SHET_CLI_STAT_CSF c then
        s.setCli c { x with txBytes := x.txBytes ++ Config.hostIn (s.rd .SHET_CLI_CFG_TYPE c) (s.rd .SHET_CLI_CFG_MODE c) data }
      else s
    match s.groupOf c with
    | none => s.setCm c cm
    | some g => if s.on .BEND_PG_CFG_KIND g && !s.leads then s else (s.setCm c cm).mapGroup g c

/-- The follower loses lockstep, if it holds it (R269): event 0x7807; its records are sent with the valid bit 0. -/
def State.loseLockstep (s : State) (g : Nat) : State :=
  if s.on .BEND_PG_STAT_LOCKSTEP g then
    (s.wr .BEND_PG_STAT_LOCKSTEP 0 g).raise .BEND_EVT_LOCKSTEP_LOST 0x7807 (s.pgDom g) [g, s.rd .BEND_PG_CFG_LOCAL_PATH g]
  else s

/-- The follower's client words brought to the leader's count (R268), and whether they are: those that the leader has mapped already are
skipped as far as they have come in; a follower that is ahead waits. The first record after the group was enabled sets the count
(DESIGN CHOICE, log entry 93). -/
def State.alignWords (s : State) (g c ofs : Nat) : State × Bool :=
  let x := s.grp g
  let d := wrapSub (2 ^ 48) ofs x.words
  let have_ := (s.cli c).txBytes.length / 16
  let skip (k : Nat) : State :=
    (s.setCli c { s.cli c with txBytes := (s.cli c).txBytes.drop (16 * k) }).setGrp g { x with words := (x.words + k) % 2 ^ 48 }
  if !x.counted then (s.setGrp g { x with words := ofs, counted := true }, true)
  else if d ≤ have_ then (skip d, true)
  else if d < 2 ^ 47 then (skip have_, false)
  else (s, false)

/-- The follower takes a lockstep record (R268, R269): q, the leader's CM and word count govern its next multiframe; its lag, in 0.1 µs,
is shown. Records pass only while the mate link is Up (R290). -/
def execLockstepRecordReceived (r : List Byte) (lag : Nat) (s : State) : Res := act 15 s fun s =>
  let g := byteAt r 0 % 16
  let c := s.rd .BEND_PG_CFG_CLIENT g
  let up := s.rd .LNYD_STAT_LSTATE == 2
  let s := if up then s.lockstepTaken else s
  let bad := up && s.lanyard.hit
  -- A packet that a recentred crossing has damaged is discarded (R37, R286).
  let s := if bad then { s with lanyard := { s.lanyard with hit := false } }.count .LNYD_CNT 1 0 else s
  if up && !bad && r.length == 16 && s.on .BEND_PG_CFG_EN g && s.on .BEND_PG_CFG_KIND g && !s.leads then
    let cm := leAt r 6 3
    let (s, even) := s.alignWords g c (leAt r 9 6)
    if !even then s.loseLockstep g
    else
    let (s, load) := (s.setCli c { s.cli c with nextCm := cm }).mapClient c (s.contSize c)
    let s := s.setGrp g { s.grp g with
      txQ := leAt r 2 4, words := (leAt r 9 6 + cm) % 2 ^ 48, load := { load with cow := s.cowBytes c cm (bit (byteAt r 1) 0) } }
    (s.wr .BEND_PG_STAT_LOCKSTEP 1 g).wr .BEND_PATH_ST_LOCK_LAG (min lag 4095) g (s.rd .BEND_PG_CFG_LOCAL_PATH g)
  else s

/-- No record is in hand in time, or the follower has drifted (R269). -/
def execLockstepLoss (g : Pg) (s : State) : Res := act 15 s fun s =>
  if s.on .BEND_PG_CFG_EN g && s.on .BEND_PG_CFG_KIND g && !s.leads then s.loseLockstep g else s

/-- The PG record that a line carries for a group (Table 6.3), in a frame that is the first of a multiframe or not. -/
def State.pgRecord (s : State) (g n : Nat) : List Byte :=
  let p := if s.localPath g 0 && s.member g 0 == n then 0 else 1
  let valid := !(s.on .BEND_PG_CFG_KIND g && !s.on .BEND_PG_STAT_LOCKSTEP g)
  let b := leBytes 1 (b2n valid <<< 7 + g) ++ leBytes 1 p ++ leBytes 4 ((s.grp g).path p).sentQ
  b ++ leBytes 2 (crc16 b)

/-- At the start of a transmit multiframe each group's member line takes the q that has been assigned last (R267). -/
def State.takeQ (s : State) (n : Nat) : State :=
  s.each (s.groupsOn n) fun g t =>
    t.each [0, 1] fun p t =>
      if t.member g p = n && t.localPath g p then
        let x := t.grp g
        t.setGrp g (x.setPath p { x.path p with sentQ := x.txQ })
      else t

/-! ### Attached memory (R281) -/

/-- The units that a region held as it left Ready (R281): one whose copy on the other path is still to come is left to it, another is played
as signal fail. -/
def State.dropHeld (s : State) (g : Nat) : State :=
  let held := (s.grp g).store
  let s := held.foldl (fun t c => if !t.unitDue g c.q c.j || t.copyMissing g (1 - c.path) c.q c.j then t else t.playUnit g c.q c.j none) s
  s.setGrp g { s.grp g with store := [] }

/-- A region has left Ready or come to it: its long-delay groups go to Pass-through with event 0x7806, or align again (R281). -/
def State.regionGroups (s : State) (r : Nat) (ready : Bool) : State :=
  s.each (List.range 16) fun g t =>
    if t.on .BEND_PG_CFG_EN g && t.on .BEND_PG_CFG_DSK_LOC g && t.rd .BEND_PG_CFG_ATT_REGION g == r then
      if ready then (if t.rd .BEND_PG_STAT_GSTATE g = 4 then t.align g else t)
      else if t.rd .BEND_PG_STAT_GSTATE g = 4 then t
      else ((t.dropHeld g).wr .BEND_PG_STAT_GSTATE 4 g).raise .BEND_EVT_PASS_THRU 0x7806 (t.pgDom g) [g, 0]
    else t

/-! ### Commit (Table 10.6) -/

/-- The long-delay groups of a configuration. -/
def State.longGroups (s : State) : List Nat :=
  (List.range 16).filter fun g => s.on .BEND_PG_CFG_EN g && s.on .BEND_PG_CFG_DSK_LOC g

/-- The load of a long-delay group on a port, in half slots (R378). -/
def State.portLoad (s : State) (port g : Nat) : Nat :=
  let r := s.rd .BEND_PG_CFG_ATT_REGION g
  let m := s.contSize (s.rd .BEND_PG_CFG_CLIENT g)
  if s.on .BCKT_REGION_INTLV r then m else if s.rd .BCKT_REGION_PORT r = port then 2 * m else 0

/-- A sum over a list of groups. -/
def sumOver (l : List Nat) (f : Nat → Nat) : Nat := l.foldl (fun a g => a + f g) 0

/-- Whether a group's own fields break cause 0x1; the range of DSK_BLK binds an enabled group. -/
def State.grpRange (s : State) (g : Nat) : Bool :=
  let blk := s.rd .BEND_PG_CFG_DSK_BLK g
  let guard := s.rd .BEND_PG_DLY_GUARD g
  3600 < s.rd .BEND_PG_CFG_WTR_S g || 47 < s.rd .BEND_PG_CFG_CLIENT g || s.rd .BEND_PG_CFG_P_LINE g == 3 ||
    s.rd .BEND_PG_CFG_W_LINE g == 3 || guard < 100 || 2000000 < s.rd .BEND_PG_DLY_DLY_PRESET g ||
    (s.on .BEND_PG_CFG_EN g && (blk == 0 || (!s.on .BEND_PG_CFG_DSK_LOC g && 64 < blk)))

/-- Whether an enabled group breaks cause 0x2. -/
def State.grpLines (s : State) (g : Nat) : Bool :=
  let w := s.rd .BEND_PG_CFG_W_LINE g
  let p := s.rd .BEND_PG_CFG_P_LINE g
  let split := s.on .BEND_PG_CFG_KIND g
  s.on .BEND_PG_CFG_EN g &&
    ((!split && w == p) ||
      [0, 1].any (fun x => s.localPath g x && (s.lineMode (s.member g x) != 1 || s.lineOzr (s.member g x))) ||
      (split && !s.on .TOP_MODE_STAT_MATE_ACTIVE))

/-- Whether an enabled group's deskew breaks cause 0x4 by itself. -/
def State.grpDeskew (s : State) (g : Nat) : Bool :=
  s.on .BEND_PG_CFG_EN g &&
    (s.reach g < s.rd .BEND_PG_DLY_DLY_PRESET g ||
      (s.on .BEND_PG_CFG_DSK_LOC g && s.rd .BCKT_REGION_RSTATE (s.rd .BEND_PG_CFG_ATT_REGION g) != 2))

/-- Whether the enabled groups together break cause 0x4: on-die blocks, long-delay slots, port load. -/
def State.deskewOver (s : State) : Bool :=
  let die := (List.range 16).filter fun g => s.on .BEND_PG_CFG_EN g && !s.on .BEND_PG_CFG_DSK_LOC g
  64 < sumOver die (fun g => s.rd .BEND_PG_CFG_DSK_BLK g) ||
    320 < sumOver s.longGroups (fun g => s.contSize (s.rd .BEND_PG_CFG_CLIENT g)) ||
    [0, 1].any fun port => 320 < sumOver s.longGroups (s.portLoad port)

/-- Whether a field fixed while a group is enabled changes (cause 0x6). -/
def grpFixed (old t : State) (g : Nat) : Bool :=
  old.on .BEND_PG_CFG_EN g && t.on .BEND_PG_CFG_EN g &&
    ([Fld.BEND_PG_CFG_KIND, .BEND_PG_CFG_LOCAL_PATH, .BEND_PG_CFG_W_LINE, .BEND_PG_CFG_P_LINE, .BEND_PG_CFG_CLIENT,
      .BEND_PG_CFG_DSK_LOC, .BEND_PG_CFG_DSK_BLK].any fun f => old.rd f g != t.rd f g)

/-- The rules of Table 10.6, rights apart. -/
def checkBend (old t : State) : Option Breach :=
  firstBreach [
    (1, lowest 16 t.pgDom t.grpRange),
    (2, lowest 16 t.pgDom t.grpLines),
    (3, lowest 16 t.pgDom fun g => t.on .BEND_PG_CFG_EN g &&
      (t.rd .SHET_CLI_CFG_TYPE (t.rd .BEND_PG_CFG_CLIENT g) == 0 || !t.groupClientOk g ||
        (List.range 16).any fun x => x != g && t.on .BEND_PG_CFG_EN x && t.rd .BEND_PG_CFG_CLIENT x == t.rd .BEND_PG_CFG_CLIENT g)),
    (4, match lowest 16 t.pgDom t.grpDeskew with
      | some u => some u
      | none => broken t.deskewOver),
    (6, lowest 16 t.pgDom (grpFixed old t))]

/-- What an applied BEND commit does: a group that is enabled or disabled starts anew; the other settings govern from here. -/
def afterBend (old new : State) : State :=
  let t := new.each (List.range 16) fun g t =>
    if old.on .BEND_PG_CFG_EN g != t.on .BEND_PG_CFG_EN g then
      let t := ((t.setGrp g {}).setReg .BEND_PG_STAT 0 g).setReg .BEND_PATH_ST 0 g 0
      ((t.setReg .BEND_PATH_ST 0 g 1).refreshPaths g).refreshEgress (t.rd .BEND_PG_CFG_CLIENT g)
    else t.refreshPaths g
  t.refreshLeaders

/-- A second passes in Bend: WTR_LEFT counts down, event 0x7804 may be raised again. -/
def State.bendSecond (s : State) : State :=
  s.each (List.range 16) fun g t =>
    let t := t.setGrp g { t.grp g with badSaid := false }
    t.each [0, 1] fun p t => t.wr .BEND_PATH_ST_WTR_LEFT (t.rd .BEND_PATH_ST_WTR_LEFT g p - 1) g p

end Sys2Proof.Machine
end

