-- ==== Sys2Proof/Machine/Seizing.lean ====
section
/-! DEFINITION. Seizing (chapter 9): key contexts, segments and invocation counters, key switches, verification, key loading. -/

namespace Sys2Proof.Machine

open Sys2Proof

/-- What Seizing holds for a context. -/
def State.kc (s : State) (k : Nat) : KcInt := s.kcs.get {} k

/-- The same, replaced. -/
def State.setKc (s : State) (k : Nat) (x : KcInt) : State := { s with kcs := s.kcs.put {} k x }

/-- What Hitch holds for a line. -/
def State.hit (s : State) (n : Nat) : HitchInt := s.hitch.get {} n

/-- The same, replaced. -/
def State.setHit (s : State) (n : Nat) (x : HitchInt) : State := { s with hitch := s.hitch.put {} n x }

/-- The slots M of the container that a context covers (R242). -/
def State.kcSize (s : State) (k : Nat) : Nat :=
  let n := s.rd .SEIZ_KC_CFG_LINE k
  let u := s.rd .SEIZ_KC_CFG_UNIT k
  if s.on .SEIZ_KC_CFG_KIND k then
    (s.boundSlots.filter fun x => s.on .SHET_TS_LEAF_EN x && s.rd .SHET_TS_LINE x == n && s.rd .SHET_TS_LEAF x == u).length
  else s.sizeOn u n

/-- The ceiling of a context's keys (R247). -/
def State.ceiling (s : State) (k : Nat) : Nat := 2 ^ s.rd .SEIZ_KC_CFG_CEIL_EXP k

/-- The switch limit (R247). -/
def State.switchLimit (s : State) (k : Nat) : Nat :=
  let sg := s.rd .SEIZ_KC_ST_S k
  s.ceiling k / sg * sg

/-- A value rounded up to a multiple of S (R251). -/
def roundUp (v sg : Nat) : Nat := ceilDiv v sg * sg

/-- Whether the next segment of a direction is the first under the staged key (R247, R251): it stands at the switch point or at the limit. -/
def State.atSwitch (s : State) (k : Nat) (d : DirInt) (next : Nat) : Bool :=
  (match d.point with
    | some x => next == x
    | none => false) || decide (s.switchLimit k ≤ next)

/-- An event of a context. -/
def State.kcEvent (s : State) (k : Nat) (f : Fld) (code : Nat) : State := s.raise f code (s.kcDom k) [k]

/-- What depends on a context's receive state: its client's egress, or its group's path (R220, R275). -/
def State.refreshKc (s : State) (k : Nat) : State :=
  let u := s.rd .SEIZ_KC_CFG_UNIT k
  let n := s.rd .SEIZ_KC_CFG_LINE k
  if s.on .SEIZ_KC_CFG_KIND k then
    s.each ((s.boundSlots.filter fun x => s.on .SHET_TS_LEAF_EN x && s.rd .SHET_TS_LINE x == n && s.rd .SHET_TS_LEAF x == u).map
      fun x => s.rd .SHET_TS_CLIENT x).eraseDups fun c t => t.refreshEgress c
  else
    match s.groupOf u with
    | some g => s.refreshPaths g
    | none => s.refreshEgress u

/-! ### Transmit (R245 to R247, R251) -/

/-- A tag record queued for the tag areas of a line (R177): the queue holds 512; a record that finds it full is counted as dropped. -/
def State.queueTag (s : State) (n : Nat) (rec : List Byte) : State :=
  let x := s.hit n
  if x.tagq.length < 512 then
    (s.setHit n { x with tagq := x.tagq ++ [rec] }).wr .HTCH_STAT_TAGQ (x.tagq.length + 1) n
  else s.count .HTCH_CNT 1 n 6

/-- A tag record (Table 6.4). -/
def tagRecord (k idx inv : Nat) (tag : List Byte) : List Byte :=
  leBytes 1 k ++ leBytes 1 (128 + idx) ++ leBytes 2 0 ++ leBytes 8 inv ++ padTo 16 tag

/-- The 96-bit IV of a segment (R246): FIXED, then INV most significant byte first. -/
def segmentIv (fixed : List Byte) (inv : Nat) : List Byte := padTo 4 fixed ++ (leBytes 8 inv).reverse

/-- The transmit direction takes its staged key (R251): event 0x7005. -/
def State.switchTx (s : State) (k : Nat) : State :=
  let x := s.kc k
  let s := s.setKc k { x with tx := { active := x.tx.staged } }
  (((((s.wr .SEIZ_KC_ST_TX_IDX (1 - s.rd .SEIZ_KC_ST_TX_IDX k) k).wr .SEIZ_KC_ST_TX_STAGED 0 k).wr .SEIZ_KC_ST_TX_NEXT 0 k).wr
    .SEIZ_KC_ST_TX_STATE 1 k)).kcEvent k .SEIZ_EVT_SWITCHED 0x7005

/-- The next transmit INV moves to a value (R247, R251): half the ceiling is reported once for a key; at the switch point or the limit a
staged key takes over; at the limit without one the direction is Exhausted. -/
def State.advanceTx (s : State) (k next : Nat) : State :=
  let s := s.wr .SEIZ_KC_ST_TX_NEXT next k
  let x := s.kc k
  let s := if s.ceiling k / 2 ≤ next && !x.tx.warned then
      (s.setKc k { x with tx := { x.tx with warned := true } }).kcEvent k .SEIZ_EVT_WARN 0x7004
    else s
  if s.atSwitch k x.tx next then
    if x.tx.staged.isSome then s.switchTx k
    else if s.switchLimit k ≤ next then (s.wr .SEIZ_KC_ST_TX_STATE 2 k).kcEvent k .SEIZ_EVT_EXHAUSTED 0x7006
    else s
  else s

/-- A byte string under the counter stream of a segment, from a byte of the segment on (R245, R246). -/
def underStream (key : KeyRec) (inv from_ : Nat) (bytes : List Byte) : List Byte :=
  bytes.zipIdx.map fun b => b.1 ^^^ Config.gcmStream key.key (segmentIv key.fixed inv) (from_ + b.2)

/-- The oldest open transmit segment of a context closes (R245): the tag over its text as sent is queued, and its INV is used. -/
def State.closeTx (s : State) (k : Nat) : State :=
  let x := s.kc k
  match s.on .SEIZ_KC_CFG_EN k && s.rd .SEIZ_KC_ST_TX_STATE k == 1, x.tx.active, x.txSegs with
  | true, some key, text :: rest =>
    let inv := s.rd .SEIZ_KC_ST_TX_NEXT k
    let tag := Config.gcmTag key.key (segmentIv key.fixed inv) (underStream key inv 0 text)
    let rec_ := tagRecord k (s.rd .SEIZ_KC_ST_TX_IDX k) inv tag
    (((s.setKc k { x with txSegs := rest }).queueTag (s.rd .SEIZ_KC_CFG_LINE k) rec_).count .SEIZ_KC_CNT 1 k 0).advanceTx k (inv + 1)
  | _, _, _ => s

/-- SEGMENT_CLOSE. -/
def execSegmentClose (k : Kc) (s : State) : Res := act 14 s fun s => s.closeTx k

/-- The payload words of a container's multiframe cut into the texts of its segments (R245). -/
def Load.segments (x : Load) (p : Nat) : List (List Byte) :=
  (List.range (ceilDiv p 1024)).map fun j =>
    (List.range (min 1024 (p - 1024 * j))).flatMap fun i => x.word (1024 * j + i + 1) p

/-- A context's segments of a new transmit multiframe open while the direction runs. -/
def State.openSegments (s : State) (k : Nat) (load : Load) (p : Nat) : State :=
  s.setKc k { s.kc k with txSegs := if s.rd .SEIZ_KC_ST_TX_STATE k = 1 then load.segments p else [] }

/-- A word of a container as it is sent (R213, R243, R247): the overhead word in clear; a payload word in clear where no enabled context
covers the container, encrypted in its segment while the direction runs, and 0xA5 bytes otherwise; the segment that was going out as
its key was erased still ends under it (R260). -/
def State.sentWord (s : State) (n : Nat) (x : ContTx) (i : Nat) : List Byte :=
  let p := payloadWords x.places.length
  if i = 0 then padTo 16 x.load.cow
  else
    match s.kcOf n x.leaf.isSome (x.leaf.getD x.client) with
    | none => x.load.word i p
    | some k =>
      let y := s.kc k
      match y.tx.active, y.txSegs.isEmpty with
      | some key, false =>
        let first := s.rd .SEIZ_KC_ST_TX_NEXT k - (ceilDiv p 1024 - y.txSegs.length)
        underStream key (first + (i - 1) / 1024) (16 * ((i - 1) % 1024)) (x.load.word i p)
      | _, _ =>
        match y.ending with
        | some (key, inv, j) =>
          if (i - 1) / 1024 = j then underStream key inv (16 * ((i - 1) % 1024)) (x.load.word i p) else List.replicate 16 0xA5
        | none => List.replicate 16 0xA5

/-! ### Receive (R254 to R259) -/

/-- RX_NEXT shows the INV of the oldest segment without a judged tag, or of the next segment (Table 9.8). -/
def State.showRxNext (s : State) (k : Nat) : State :=
  let x := s.kc k
  s.wr .SEIZ_KC_ST_RX_NEXT (match x.waiting with
    | w :: _ => w.inv
    | [] => x.nextClose) k

/-- The words of a container's segment passed to Sheet, or for a protected client to Bend as a copy of a unit (R257, R265). -/
def State.passSegment (s : State) (k : Option Nat) (n c q j : Nat) (inv : Option Nat) (words : List RxByte) : State :=
  match s.groupOf c with
  | none => if k.isSome then s.takeWords 1024 c words else s
  | some g =>
    let p := if s.localPath g 0 && s.member g 0 == n then 0 else 1
    s.copyIn g p ⟨q, j, p, words.all fun b => !b.2, inv, false, if j = 0 then ((s.grp g).path p).cow else [], words, 0⟩

/-- Bytes of a leaf's upstream stream passed to the clients that share the leaf (R183, R217). -/
def State.leafFeed (s : State) (n leaf : Nat) (bytes : List RxByte) : State :=
  s.each ((List.range 48).filter fun c => (s.cliLeaves c).contains (n, leaf)) fun c t =>
    let x := t.cli c
    let y := x.leaves.get {} (leafKey n leaf)
    t.setCli c { x with leaves := x.leaves.put {} (leafKey n leaf) { y with rx := { y.rx with bytes := y.rx.bytes ++ bytes } } }

/-- A held segment of a strict context is released, stomped from its first word where it has failed (R257). -/
def State.releaseSegment (s : State) (k : Nat) (w : SegRec) (ok : Bool) : State :=
  let n := s.rd .SEIZ_KC_CFG_LINE k
  let u := s.rd .SEIZ_KC_CFG_UNIT k
  let words := w.words.map fun b => (b.1, b.2 || !ok)
  if !s.on .SEIZ_KC_CFG_STRICT k || words.isEmpty then s
  else if s.on .SEIZ_KC_CFG_KIND k then s.leafFeed n u words
  else s.passSegment (some k) n u w.q (w.inv % max 1 (s.rd .SEIZ_KC_ST_S k)) (some w.inv) words

/-- The segments that wait for a tag are given up: those held in strict mode are passed with signal-fail marks (R257, R260). -/
def State.flushHeld (s : State) (k : Nat) : State :=
  (s.kc k).waiting.foldl (fun t w => t.releaseSegment k w false) (s.setKc k { s.kc k with waiting := [] })

/-- A receive direction goes to Hunting with nothing pending. -/
def State.hunt (s : State) (k : Nat) : State := ((s.flushHeld k).wr .SEIZ_KC_ST_RX_STATE 1 k).refreshKc k

/-- A direction that has become Auth-failed holds nothing back. -/
def State.settleHeld (s : State) (k : Nat) : State := if s.rd .SEIZ_KC_ST_RX_STATE k = 3 then s.flushHeld k else s

/-- What a failed tag does to the client's data (R256, R257, R283): in cut-through the words in flight are stomped to the end of the open
segment, and the frame in progress, of a leaf's frames its own, ends with an error; a copy that Bend holds of the segment has its tag
failed. -/
def State.stompClient (s : State) (k inv : Nat) : State :=
  let u := s.rd .SEIZ_KC_CFG_UNIT k
  let n := s.rd .SEIZ_KC_CFG_LINE k
  let s := if s.on .SEIZ_KC_CFG_STRICT k then s else s.setKc k { s.kc k with stomp := true }
  if s.on .SEIZ_KC_CFG_KIND k then
    s.each ((s.boundSlots.filter fun x => s.on .SHET_TS_LEAF_EN x && s.rd .SHET_TS_LINE x == n && s.rd .SHET_TS_LEAF x == u).map
      fun x => s.rd .SHET_TS_CLIENT x).eraseDups fun c t => t.endLeaf c (leafKey n u)
  else
    match s.groupOf u with
    | none => s.endFrame u
    | some g =>
      let x := s.grp g
      let p := if s.localPath g 0 && s.member g 0 == n then 0 else 1
      let fail (c : UnitCopy) : UnitCopy := if c.path = p ∧ c.inv = some inv then { c with tagBad := true } else c
      s.setGrp g ({ x with store := x.store.map fail }.setPath p { x.path p with copies := (x.path p).copies.map fail })

/-- Consecutive failures counted (R256, R258): the latest is recorded; event 0x7001 at most once per second; AF_N of them put the
direction into Auth-failed, event 0x7002. -/
def State.kcFailure (s : State) (k inv : Nat) : State :=
  let n := min 15 (s.rd .SEIZ_KC_ST_CONSEC k + 1)
  let s := (s.wr .SEIZ_KC_ST_CONSEC n k).wr .SEIZ_KC_ST_LAST_FAIL inv k
  let x := s.kc k
  let s := if x.failSaid then s else (s.setKc k { x with failSaid := true }).kcEvent k .SEIZ_EVT_TAG_FAIL 0x7001
  let s := s.stompClient k inv
  if s.rd .SEIZ_KC_ST_RX_STATE k = 2 && s.rd .SEIZ_KC_CFG_AF_N k ≤ n then
    ((s.wr .SEIZ_KC_ST_RX_STATE 3 k).kcEvent k .SEIZ_EVT_AUTH_FAILED 0x7002).refreshKc k
  else s

/-- A segment whose tag does not come (R255): a missing tag, or unverified when it carries marks. -/
def State.missingTag (s : State) (k : Nat) (w : SegRec) : State :=
  if w.marked then (s.count .SEIZ_KC_CNT 1 k 5).releaseSegment k w true
  else ((s.count .SEIZ_KC_CNT 1 k 3).kcFailure k w.inv).releaseSegment k w false

/-- Whether a tag is the one of a segment. -/
def SegRec.tagOk (w : SegRec) (tag : List Byte) : Bool :=
  match w.key with
  | some key => Config.gcmTag key.key (segmentIv key.fixed w.inv) w.text == tag
  | none => false

/-- A tag judged against its segment (R255). -/
def State.judgeTag (s : State) (k : Nat) (w : SegRec) (tag : List Byte) : State :=
  if w.marked then (s.count .SEIZ_KC_CNT 1 k 5).releaseSegment k w true
  else if w.tagOk tag then
    let s := (s.count .SEIZ_KC_CNT 1 k 1).wr .SEIZ_KC_ST_CONSEC 0 k
    let s := if w.idx = s.rd .SEIZ_KC_ST_RX_IDX k then s.setKc k { s.kc k with verified := some w.inv } else s
    s.releaseSegment k w true
  else ((s.count .SEIZ_KC_CNT 1 k 2).kcFailure k w.inv).releaseSegment k w false

/-- The receive direction takes its staged key (R251): event 0x7005; an Auth-failed direction goes to Hunting, event 0x7003 (R258). -/
def State.switchRx (s : State) (k : Nat) : State :=
  let x := s.kc k
  let s := s.setKc k { x with rx := { active := x.rx.staged }, nextClose := 0, verified := none, huntStaged := false }
  let s := ((s.wr .SEIZ_KC_ST_RX_IDX (1 - s.rd .SEIZ_KC_ST_RX_IDX k) k).wr .SEIZ_KC_ST_RX_STAGED 0 k).kcEvent k
    .SEIZ_EVT_SWITCHED 0x7005
  if s.rd .SEIZ_KC_ST_RX_STATE k = 3 then
    (((s.wr .SEIZ_KC_ST_CONSEC 0 k).kcEvent k .SEIZ_EVT_AF_CLEAR 0x7003)).hunt k
  else s

/-- The next receive INV moves on by one: half the ceiling is reported once for a key; at the switch point or the limit a staged key takes
over, and at the limit without one the direction is Exhausted (R247, R251). -/
def State.advanceRx (s : State) (k : Nat) : State :=
  let next := (s.kc k).nextClose
  let s := if s.ceiling k / 2 ≤ next && !(s.kc k).rx.warned then
      (s.setKc k { s.kc k with rx := { (s.kc k).rx with warned := true } }).kcEvent k .SEIZ_EVT_WARN 0x7004
    else s
  if s.atSwitch k (s.kc k).rx next then
    if (s.kc k).rx.staged.isSome then s.switchRx k
    else if s.switchLimit k ≤ next then
      (((s.flushHeld k).wr .SEIZ_KC_ST_RX_STATE 4 k).kcEvent k .SEIZ_EVT_EXHAUSTED 0x7006).refreshKc k
    else s
  else s

/-- A closed segment whose INV is the next one, under the key in force, joins those that wait for their tag; an Auth-failed direction only
counts it (R251, R254, R255). -/
def State.placeSegment (s : State) (k : Nat) (w : SegRec) : State :=
  let x := s.kc k
  let st := s.rd .SEIZ_KC_ST_RX_STATE k
  let w := { w with inv := x.nextClose, idx := s.rd .SEIZ_KC_ST_RX_IDX k, key := x.rx.active }
  if st = 2 ∨ st = 3 then
    (s.setKc k { x with nextClose := x.nextClose + 1, waiting := if st = 2 then x.waiting ++ [w] else x.waiting }).advanceRx k
  else s

/-- A receive segment closes: in Hunting it waits for a tag to name it; Synced and Auth-failed directions count it, and the switch or the
limit is taken (R247, R251, R254). A stomp ends with the segment (R256). -/
def State.closeRx (s : State) (k j : Nat) (marked : Bool) (text : List Byte) (q : Nat) (words : List RxByte) : State :=
  let s := s.setKc k { s.kc k with stomp := false }
  let x := s.kc k
  let st := s.rd .SEIZ_KC_ST_RX_STATE k
  let idx := s.rd .SEIZ_KC_ST_RX_IDX k
  if st = 1 then
    let rest := x.waiting.filter fun w => w.inv != j
    s.setKc k { x with waiting := rest ++ [⟨j, idx, 0, marked, text, x.rx.active, q, []⟩] }
  else s.placeSegment k ⟨x.nextClose, idx, 0, marked, text, none, q, words⟩

/-- The words of a container as Seizing passes them on (Table 9.3): in clear without a context; decrypted where the direction is Synced,
with a stomp in force marked; otherwise stomped. -/
def State.openWord (s : State) (k : Option Nat) (off : Nat) (w : List RxByte) : List RxByte :=
  match k with
  | none => w
  | some k =>
    let x := s.kc k
    match s.rd .SEIZ_KC_ST_RX_STATE k, x.rx.active with
    | 2, some key =>
      (underStream key x.nextClose (16 * off) (plainBytes w)).zip (w.map fun b => b.2 || x.stomp)
    | _, _ => w.map fun b => (b.1, true)

/-- A segment of a container has come in whole (R245, R255, R257): it is counted for its context; a copy for Bend is ready unless it waits for
its tag; of a strict container that is not Synced the words go on stomped. -/
def State.segmentIn (s : State) (k : Option Nat) (n c q j : Nat) (text : List RxByte) (words : List RxByte) : State :=
  match k with
  | none => s.passSegment none n c q j none words
  | some k =>
    let strict := s.on .SEIZ_KC_CFG_STRICT k
    let synced := s.rd .SEIZ_KC_ST_RX_STATE k == 2
    let inv := (s.kc k).nextClose
    let s := if strict && synced then s
      else if strict || (s.groupOf c).isSome then s.passSegment (some k) n c q j (if synced then some inv else none) words
      else s
    (s.closeRx k j (text.any fun b => b.2) (plainBytes text) q (if strict then words else [])).showRxNext k

/-- A word of a container comes in (R213, R242, R243, R256): the overhead word goes to Sheet, or waits with unit (q, 0) of a protected
client; a payload word joins its segment, and in cut-through goes to Sheet at once. -/
def State.containerWord (s : State) (n : Nat) (x : ContRx) (w : List RxByte) : State × ContRx :=
  let c := x.client
  let g := s.groupOf c
  let path (g : Nat) : Nat := if s.localPath g 0 && s.member g 0 == n then 0 else 1
  if x.count = 0 then
    (match g with
      | none => s.takeCow c (plainBytes w)
      | some g => s.setGrp g ((s.grp g).setPath (path g) { (s.grp g).path (path g) with cow := plainBytes w }),
      { x with count := 1 })
  else
    let pw := x.count - 1
    let k := s.kcOf n false c
    let plain := s.openWord k (pw % 1024) w
    let strict := match k with
      | some k => s.on .SEIZ_KC_CFG_STRICT k
      | none => false
    let s := if g.isNone && !strict then s.takeWord c plain else s
    let text := x.text ++ w
    let words := x.words ++ plain
    if pw % 1024 = 1023 ∨ pw + 1 = payloadWords x.places.length then
      let q := match g with
        | some g => ((s.grp g).path (path g)).expect
        | none => 0
      (s.segmentIn k n c q (pw / 1024) text words, { x with count := x.count + 1, text := [], words := [] })
    else (s, { x with count := x.count + 1, text := text, words := words })

/-- A tag in Hunting (R254): it names the index hunted for, and the most recent close of segment INV mod S, within TAG_WAIT frames,
takes its INV, and the segments closed since follow it. One that names the staged index before the switch is a failure (R260). -/
def State.syncTag (s : State) (k idx inv : Nat) : State :=
  let x := s.kc k
  let j := inv % s.rd .SEIZ_KC_ST_S k
  let own := s.rd .SEIZ_KC_ST_RX_IDX k
  let hunted := if x.huntStaged then 1 - own else own
  if idx = hunted ∧ (x.waiting.any fun w => w.inv == j && decide (w.age ≤ s.rd .SEIZ_KC_CFG_TAG_WAIT k)) then
    let s := if x.huntStaged then s.switchRx k else s
    let s := (s.setKc k { s.kc k with waiting := [], nextClose := inv + 1, verified := none }).wr .SEIZ_KC_ST_RX_STATE 2 k
    let s := ((x.waiting.dropWhile fun w => w.inv != j).drop 1).foldl (fun t w => t.placeSegment k w) (s.advanceRx k)
    s.refreshKc k
  else if idx ≠ own ∧ x.rx.staged.isSome ∧ !x.huntStaged then (s.count .SEIZ_KC_CNT 1 k 2).kcFailure k inv
  else s

/-- A tag in Synced (R255). -/
def State.expectTag (s : State) (k idx inv : Nat) (tag : List Byte) : State :=
  let x := s.kc k
  let fits (w : SegRec) : Bool := w.inv == inv && w.idx == idx
  match x.waiting.find? fits with
  | some w =>
    let skipped := x.waiting.takeWhile fun v => !fits v
    let s := s.setKc k { x with waiting := (x.waiting.dropWhile fun v => !fits v).drop 1 }
    (skipped.foldl (fun t v => t.missingTag k v) s).judgeTag k w tag
  | none =>
    let own := idx == s.rd .SEIZ_KC_ST_RX_IDX k
    let replay := own && (match x.verified with
      | some v => decide (inv ≤ v)
      | none => false)
    let s := if own && decide (x.nextClose ≤ inv) then
        x.waiting.foldl (fun t v => t.missingTag k v) (s.setKc k { x with waiting := [] })
      else s
    (s.count .SEIZ_KC_CNT 1 k (if replay then 4 else 2)).kcFailure k inv

/-- A tag record received on a line (R177, R254, R255). -/
def State.takeTag (s : State) (n : Nat) (r : List Byte) : State :=
  let k := byteAt r 0
  let fl := byteAt r 1
  if bit fl 7 && s.on .SEIZ_KC_CFG_EN k && s.rd .SEIZ_KC_CFG_LINE k == n && !s.on .SEIZ_KC_CFG_KIND k then
    let s := match s.rd .SEIZ_KC_ST_RX_STATE k with
      | 1 => s.syncTag k (fl % 2) (leAt r 4 8)
      | 2 => (s.expectTag k (fl % 2) (leAt r 4 8) (r.drop 12)).settleHeld k
      | _ => s
    s.showRxNext k
  else s

/-- The enabled contexts bound to a line. -/
def State.kcsOn (s : State) (n : Nat) : List Nat :=
  (s.listed .SEIZ_KC_CFG).filter fun k => s.on .SEIZ_KC_CFG_EN k && s.rd .SEIZ_KC_CFG_LINE k == n

/-- A received frame as Seizing sees it before its payload: every waiting segment is one frame older, one that Hunting can no longer use is
dropped, and the frame's tag records are taken. -/
def State.seizingFrame (s : State) (n : Nat) (tags : List (List Byte)) : State :=
  let s := s.each (s.kcsOn n) fun k t =>
    let x := t.kc k
    let older := x.waiting.map fun w => { w with age := w.age + 1 }
    t.setKc k { x with
      waiting := older.filter fun w => t.rd .SEIZ_KC_ST_RX_STATE k != 1 || decide (w.age ≤ t.rd .SEIZ_KC_CFG_TAG_WAIT k) }
  tags.foldl (fun t r => t.takeTag n r) s

/-- aSSF on a line takes its Synced directions to Hunting (R254). -/
def State.seizingSsf (s : State) (n : Nat) : State :=
  s.each (s.kcsOn n) fun k t => if t.rd .SEIZ_KC_ST_RX_STATE k = 2 then t.hunt k else t

/-- The oldest segment of a context has had no tag within TAG_WAIT frames, or within 4 in strict mode (R255, R257). -/
def execTagWaitExpiry (k : Kc) (s : State) : Res := act 14 s fun s =>
  let x := s.kc k
  let limit := if s.on .SEIZ_KC_CFG_STRICT k then 4 else s.rd .SEIZ_KC_CFG_TAG_WAIT k
  match x.waiting with
  | w :: rest =>
    if s.rd .SEIZ_KC_ST_RX_STATE k = 2 ∧ limit ≤ w.age then
      (((s.setKc k { x with waiting := rest }).missingTag k w).settleHeld k).showRxNext k
    else s
  | [] => s

/-- A tag of a leaf's burst (R259): a replay, or judged against the segment of its INV among those that have closed in the burst; a
verified one makes the direction Synced. -/
def State.leafTag (s : State) (k : Nat) (closed : List SegRec) (r : List Byte) : State :=
  let inv := leAt r 4 8
  let replay := match (s.kc k).verified with
    | some v => decide (inv ≤ v)
    | none => false
  if replay then (s.count .SEIZ_KC_CNT 1 k 4).kcFailure k inv
  else
    match closed.find? fun w => w.inv == inv with
    | some w =>
      let s := s.judgeTag k w (r.drop 12)
      if s.rd .SEIZ_KC_ST_RX_STATE k = 1 && (s.kc k).verified == some inv then (s.wr .SEIZ_KC_ST_RX_STATE 2 k).refreshKc k else s
    | none => (s.count .SEIZ_KC_CNT 1 k 2).kcFailure k inv

/-- The pieces into which the bytes of a leaf's stream from an offset on are cut at the multiples of 16,384 (R259): the INV of the segment,
the place in it, the bytes, and whether the segment closes with them. -/
def leafPieces (ofs : Nat) (bytes : List RxByte) : List (Nat × Nat × List RxByte × Bool) :=
  let stop := ofs + bytes.length
  (List.range (ceilDiv stop 16384 - ofs / 16384)).map fun i =>
    let inv := ofs / 16384 + i
    let a := max ofs (16384 * inv)
    let b := min stop (16384 * (inv + 1))
    (inv % 2 ^ 34, a % 16384, (bytes.drop (a - ofs)).take (b - a), b % 16384 == 0)

/-- A piece of a leaf's stream under its context (Table 9.3, R256, R257): decrypted where the direction is Synced, otherwise stomped; in
cut-through it is passed on at once, in strict it waits with its segment. A segment of which the start has not come is marked up to
the piece. The segments closed so far follow. -/
def State.leafPiece (s : State) (k : Nat) (closed : List SegRec) (p : Nat × Nat × List RxByte × Bool) : State × List SegRec :=
  let (inv, off, bytes, close) := p
  let x := s.kc k
  let before := if x.text.length = off then x.text else List.replicate off (0, true)
  let held := if x.text.length = off then x.words else List.replicate off (0, true)
  let plain := match s.rd .SEIZ_KC_ST_RX_STATE k, x.rx.active with
    | 2, some key => (underStream key inv off (plainBytes bytes)).zip (bytes.map fun b => b.2 || x.stomp)
    | _, _ => bytes.map fun b => (b.1, true)
  let s := if s.on .SEIZ_KC_CFG_STRICT k then s else s.leafFeed (s.rd .SEIZ_KC_CFG_LINE k) (s.rd .SEIZ_KC_CFG_UNIT k) plain
  let text := before ++ bytes
  let words := held ++ plain
  if close then
    (s.setKc k { s.kc k with text := [], words := [], stomp := false, nextClose := inv + 1 },
      closed ++ [⟨inv, s.rd .SEIZ_KC_ST_RX_IDX k, 0, text.any fun b => b.2, plainBytes text, x.rx.active, 0, words⟩])
  else (s.setKc k { s.kc k with text := text, words := words }, closed)

/-- A leaf's good burst frame in Seizing (R259): the KC and KEY_IDX of its header, its tag records, and the new bytes of the stream from an
offset on. A burst of another context's KC, or of a key that is neither active nor staged, is stomped and counted as a failure; one
that names the staged key switches to it. A segment that closes in the burst without a tag is a missing one. -/
def State.leafBurst (s : State) (k kcField idx ofs : Nat) (bytes : List RxByte) (tags : List (List Byte)) : State :=
  let stomped (s : State) : State :=
    s.leafFeed (s.rd .SEIZ_KC_CFG_LINE k) (s.rd .SEIZ_KC_CFG_UNIT k) (bytes.map fun b => (b.1, true))
  let s := if idx ≠ s.rd .SEIZ_KC_ST_RX_IDX k ∧ kcField = k ∧ (s.kc k).rx.staged.isSome then s.switchRx k else s
  if kcField ≠ k then stomped ((s.count .SEIZ_KC_CNT 1 k 2).kcFailure k (s.kc k).nextClose)
  else if s.rd .SEIZ_KC_ST_RX_STATE k = 0 then stomped s
  else if idx ≠ s.rd .SEIZ_KC_ST_RX_IDX k then stomped ((s.count .SEIZ_KC_CNT 1 k 2).kcFailure k (s.kc k).nextClose)
  else
    let (s, closed) := (leafPieces ofs bytes).foldl (fun a p => a.1.leafPiece k a.2 p) (s, [])
    let given := tags.filter fun r => bit (byteAt r 1) 7
    let s := given.foldl (fun t r => t.leafTag k closed r) s
    let s := (closed.filter fun w => !given.any fun r => leAt r 4 8 == w.inv).foldl (fun t w => t.missingTag k w) s
    s.showRxNext k

/-! ### Keys (R248 to R252, R258, R254) -/

/-- The first check of R250 that a blob fails for a command on a context, in the order listed, or the key it carries: 1 the wrap, 2 VER
or USE, 3 DOM, 4 DIR (bit of the direction; none for a link key), 5 the context's place, 6 CEIL_MAX, 7 NOT_AFTER; in Retired every blob
is refused (R427). -/
def State.openBlob (s : State) (k use dirBit : Nat) (blob : List Byte) : Nat ⊕ KeyRec :=
  let na := leAt blob 8 8
  let plain := match s.keks.find? fun e => e.1 == byteAt blob 2 % 16 with
    | some kek => if 2 ≤ s.nv.lifecycle then none else Config.unwrap kek.2 (blob.take 88)
    | none => none
  match plain with
  | none => .inl 1
  | some key =>
    if byteAt blob 0 ≠ 1 ∨ byteAt blob 1 ≠ use then .inl 2
    else if byteAt blob 2 ≠ s.rd .SEIZ_KC_CFG_KC_DOM k then .inl 3
    else if dirBit ≠ 2 ∧ !bit (byteAt blob 3) dirBit then .inl 4
    else if k < byteAt blob 4 ∨ byteAt blob 5 < k then .inl 5
    else if byteAt blob 6 < s.rd .SEIZ_KC_CFG_CEIL_EXP k then .inl 6
    else if na ≠ 0 ∧ (na ≤ s.tod ∨ !s.on .HLYD_STAT_TOD_VALID) then .inl 7
    else .inr ⟨key, (blob.drop 24).take 4, leAt blob 16 8⟩

/-- A load refused by R250: event 0x7007. -/
def State.blobRefused (s : State) (k : Nat) : State := s.kcEvent k .SEIZ_EVT_BLOB_REFUSED 0x7007

/-- A traffic key loaded (R251): an Idle direction takes it as active; otherwise it is staged with its switch point; an Exhausted
transmitter takes it at once, an Exhausted receiver hunts for it (R258). -/
def State.loadKey (s : State) (k : Nat) (receive : Bool) (key : KeyRec) (point : Option Nat) : State :=
  let x := s.kc k
  let p := point.map fun v => roundUp v (s.rd .SEIZ_KC_ST_S k)
  if receive then
    if s.rd .SEIZ_KC_ST_RX_STATE k = 0 then
      (s.setKc k { x with rx := { x.rx with active := some key }, nextClose := 0, verified := none, huntStaged := false }).hunt k
    else
      let s := (s.setKc k { x with rx := { x.rx with staged := some key, point := p } }).wr .SEIZ_KC_ST_RX_STAGED 1 k
      if s.rd .SEIZ_KC_ST_RX_STATE k = 4 then (s.setKc k { s.kc k with huntStaged := true }).hunt k else s
  else if s.rd .SEIZ_KC_ST_TX_STATE k = 0 then
    ((s.setKc k { x with tx := { x.tx with active := some key, warned := false } }).wr .SEIZ_KC_ST_TX_STATE 1 k).wr
      .SEIZ_KC_ST_TX_NEXT 0 k
  else
    let s := (s.setKc k { x with tx := { x.tx with staged := some key, point := p } }).wr .SEIZ_KC_ST_TX_STAGED 1 k
    if s.rd .SEIZ_KC_ST_TX_STATE k = 2 then s.switchTx k else s

/-- The next INV of a direction (R252). -/
def State.nextInv (s : State) (k : Nat) (receive : Bool) : Nat :=
  if receive then (s.kc k).nextClose else s.rd .SEIZ_KC_ST_TX_NEXT k

/-- Whether a switch point lies less than 64 multiframes ahead (R252). -/
def State.pointLate (s : State) (k : Nat) (receive : Bool) (point : Option Nat) : Bool :=
  match point with
  | some v => decide (roundUp v (s.rd .SEIZ_KC_ST_S k) < s.nextInv k receive + 64 * s.rd .SEIZ_KC_ST_S k)
  | none => false

/-- The staged key's switch point set (R251). -/
def State.setPoint (s : State) (k : Nat) (receive : Bool) (point : Option Nat) : State :=
  let x := s.kc k
  let p := point.map fun v => roundUp v (s.rd .SEIZ_KC_ST_S k)
  s.setKc k (if receive then { x with rx := { x.rx with point := p } } else { x with tx := { x.tx with point := p } })

/-- The segment that is going out under the active transmit key: the key, its INV and its number (R260). -/
def State.openSegment (s : State) (k : Nat) : Option (KeyRec × Nat × Nat) :=
  let x := s.kc k
  let inv := s.rd .SEIZ_KC_ST_TX_NEXT k
  match x.tx.active, x.txSegs with
  | some key, _ :: _ => some (key, inv, inv % max 1 (s.rd .SEIZ_KC_ST_S k))
  | _, _ => none

/-- Keys of a direction erased (Table 9.2): an erased active key leaves the direction Idle. -/
def State.zeroKeys (s : State) (k : Nat) (receive active staged : Bool) : State :=
  let x := s.kc k
  let cut (d : DirInt) : DirInt :=
    { active := if active then none else d.active, staged := if staged then none else d.staged,
      point := if staged then none else d.point, warned := d.warned && !active }
  if receive then
    let s := (if active then s.flushHeld k else s).setKc k { (if active then s.flushHeld k else s).kc k with rx := cut x.rx }
    let s := if staged then s.wr .SEIZ_KC_ST_RX_STAGED 0 k else s
    if active then (s.wr .SEIZ_KC_ST_RX_STATE 0 k).refreshKc k else s
  else
    let s := s.setKc k (if active then { x with tx := cut x.tx, txSegs := [], ending := s.openSegment k } else { x with tx := cut x.tx })
    let s := if staged then s.wr .SEIZ_KC_ST_TX_STAGED 0 k else s
    if active then s.wr .SEIZ_KC_ST_TX_STATE 0 k else s

/-- KEY_CLEAR_AF (R258): an Auth-failed direction goes to Hunting with its count cleared, event 0x7003; otherwise nothing (R260). -/
def State.clearAf (s : State) (k : Nat) : State :=
  if s.rd .SEIZ_KC_ST_RX_STATE k = 3 then
    ((s.wr .SEIZ_KC_ST_CONSEC 0 k).kcEvent k .SEIZ_EVT_AF_CLEAR 0x7003).hunt k
  else s

/-- S of a context follows its container (R254): on a change the transmitter goes on from the smallest multiple of the new S above the
last INV used, within the switch limit (R247), switch points are rounded up again, and the receiver hunts. -/
def State.refreshS (s : State) (k : Nat) : State :=
  let m := if s.on .SEIZ_KC_CFG_EN k then s.kcSize k else 0
  let new := if m = 0 then 0 else segments m
  if new = s.rd .SEIZ_KC_ST_S k then s
  else
    let x := s.kc k
    let next := s.rd .SEIZ_KC_ST_TX_NEXT k
    let again (d : DirInt) : DirInt := { d with point := d.point.map fun v => roundUp v new }
    let s := (s.setKc k { x with tx := again x.tx, rx := again x.rx }).wr .SEIZ_KC_ST_S new k
    let s := if new = 0 then s
      else if s.rd .SEIZ_KC_ST_TX_STATE k = 1 then s.advanceTx k (roundUp next new)
      else s.wr .SEIZ_KC_ST_TX_NEXT (roundUp next new) k
    if s.rd .SEIZ_KC_ST_RX_STATE k = 1 ∨ s.rd .SEIZ_KC_ST_RX_STATE k = 2 then (s.hunt k).showRxNext k else s

/-- S of every configured context follows its container; where a transmit multiframe is going out, at the end of it. -/
def State.refreshSegments (s : State) : State :=
  s.each (s.listed .SEIZ_KC_CFG) fun k t =>
    if (t.kc k).txSegs.isEmpty || !t.on .SEIZ_KC_CFG_EN k then t.refreshS k else t

/-- The receive multiframe from which a container has another M: its direction hunts (R254). -/
def State.resizedRx (s : State) (n c : Nat) : State :=
  match s.kcOf n false c with
  | some k => if s.rd .SEIZ_KC_ST_RX_STATE k = 1 ∨ s.rd .SEIZ_KC_ST_RX_STATE k = 2 then (s.hunt k).showRxNext k else s
  | none => s

/-- The transmit multiframe of a line ends for its contexts: the segments still open close, and S follows a changed binding. -/
def State.endSegments (s : State) (n : Nat) : State :=
  s.each (s.kcsOn n) fun k t =>
    let t := t.each (List.range (t.kc k).txSegs.length) fun _ u => u.closeTx k
    (t.setKc k { t.kc k with txSegs := [], ending := none }).refreshS k

/-! ### Commit (Table 9.6) -/

/-- Whether a context holds a key. -/
def State.holdsKey (s : State) (k : Nat) : Bool :=
  let x := s.kc k
  x.tx.active.isSome || x.tx.staged.isSome || x.rx.active.isSome || x.rx.staged.isSome

/-- Whether a context's fields break cause 0x1. -/
def State.kcRange (s : State) (k : Nat) : Bool :=
  let ce := s.rd .SEIZ_KC_CFG_CEIL_EXP k
  s.rd .SEIZ_KC_CFG_TAG_WAIT k < 2 || ce < 20 || 48 < ce || s.rd .SEIZ_KC_CFG_AF_N k == 0 || s.rd .SEIZ_KC_CFG_LINE k == 3 ||
    (!s.on .SEIZ_KC_CFG_KIND k && 47 < s.rd .SEIZ_KC_CFG_UNIT k)

/-- Whether an enabled context shares its binding with another (cause 0x2). -/
def State.kcShared (s : State) (k : Nat) : Bool :=
  let same (x : Nat) (f : Fld) : Bool := s.rd f x == s.rd f k
  s.on .SEIZ_KC_CFG_EN k && (s.listed .SEIZ_KC_CFG).any fun x =>
    x != k && s.on .SEIZ_KC_CFG_EN x && same x .SEIZ_KC_CFG_KIND && same x .SEIZ_KC_CFG_LINE && same x .SEIZ_KC_CFG_UNIT

/-- Whether an enabled context's line breaks cause 0x3. -/
def State.kcLineBad (s : State) (k : Nat) : Bool :=
  let n := s.rd .SEIZ_KC_CFG_LINE k
  s.on .SEIZ_KC_CFG_EN k && ((s.on .SEIZ_KC_CFG_KIND k && s.lineMode n != 2) || s.lineMode n == 3 || s.lineOzr n)

/-- The strict hold need of a line in bytes (R257). -/
def State.strictNeed (s : State) (n : Nat) : Nat :=
  sumOver ((s.kcsOn n).filter fun k => s.on .SEIZ_KC_CFG_STRICT k) fun k => 32768 + 1138 * s.kcSize k

/-- Whether a binding or CEIL_EXP changes under a key (cause 0x6). -/
def kcFixed (old t : State) (k : Nat) : Bool :=
  old.holdsKey k &&
    [Fld.SEIZ_KC_CFG_LINE, .SEIZ_KC_CFG_UNIT, .SEIZ_KC_CFG_KIND, .SEIZ_KC_CFG_CEIL_EXP].any fun f => old.rd f k != t.rd f k

/-- The rules of Table 9.6, rights apart. The strict hold need concerns a line: the lowest strict context of it is recorded. -/
def checkSeizing (old t : State) : Option Breach :=
  firstBreach [
    (1, lowest 256 t.kcDom t.kcRange),
    (2, lowest 256 t.kcDom t.kcShared),
    (3, lowest 256 t.kcDom t.kcLineBad),
    (4, lowest 256 t.kcDom fun k =>
      t.on .SEIZ_KC_CFG_EN k && t.on .SEIZ_KC_CFG_STRICT k && 1048576 < t.strictNeed (t.rd .SEIZ_KC_CFG_LINE k)),
    (6, lowest 256 t.kcDom (kcFixed old t))]

/-- What an applied SEIZ commit does: S follows the bindings, and so do the conditions of clients and paths. -/
def afterSeizing (new : State) : State :=
  let t := new.refreshSegments
  (t.each (List.range 16) fun g t => if t.on .BEND_PG_CFG_EN g then t.refreshPaths g else t).refreshClients

/-- A second passes in Seizing: event 0x7001 may be raised again. -/
def State.seizingSecond (s : State) : State :=
  s.each (s.listed .SEIZ_KC_CFG) fun k t => t.setKc k { t.kc k with failSaid := false }

end Sys2Proof.Machine
end

