-- ==== Sys2Proof/Machine/Hitch.lean ====
section
/-! DEFINITION. Hitch (chapter 6): alignment, defects and consequent actions, frames, burst frames, performance monitoring. -/

namespace Sys2Proof.Machine

open Sys2Proof

/-! ### The received stream (R171 to R173, R184, R188) -/

/-- A field of HTCH_LINE_CFG as it is in force: what a commit has replaced holds until the next frame (R201). -/
def State.hcfg (s : State) (n : Nat) (f : Fld) : Nat :=
  match (s.hit n).cfgOld with
  | some c => bits c.1 f.hi f.lo
  | none => s.rd f n

/-- The multiframe pad of the receive table in force (R172). -/
def State.rxPad (s : State) (n : Nat) : Nat := linePad (s.clt n).rxOh (s.rxActive n)

/-- The bits of a frame on receive (R172, R181). -/
def State.frameLen (s : State) (n : Nat) : Nat := if s.lineOzr n then Config.ozrBits else 1024 * s.rxU n

/-- The position of the frame after the one at a position (R185). -/
def State.nextAt (s : State) (n pos mfas : Nat) : Nat :=
  pos + s.frameLen n + (if mfas = 255 && !s.lineOzr n then s.rxPad n else 0)

/-- So many bits of the received stream from a position on, once they have come. -/
def State.inStream (s : State) (n pos len : Nat) : Option (List RxBit) :=
  let x := s.hit n
  if x.rxAt ≤ pos ∧ pos + len ≤ x.rxAt + x.rxBits.length then some ((x.rxBits.drop (pos - x.rxAt)).take len) else none

/-- The bits that an alignment check looks at: FAW and MFAS; in 800ZR framing its whole frame. -/
def State.checkBits (s : State) (n pos : Nat) : Option (List RxBit) :=
  s.inStream n pos (if s.lineOzr n then Config.ozrBits else 40)

/-- The MFAS at a position where the FAW stands without a bit in error (R184). -/
def State.alignedAt (s : State) (n pos : Nat) : Option Nat :=
  match s.checkBits n pos with
  | none => none
  | some b =>
    if s.lineOzr n then
      let f := Config.ozrRead (b.map fun x => x.1)
      if f.fawOk then some (f.mfas % 256) else none
    else
      let h := plainBytes (rxBytes b)
      if h.take 4 = faw then some (byteAt h 4) else none

/-! ### Alignment (R184 to R187) -/

/-- CANDS shows the candidates held. -/
def State.setCands (s : State) (n : Nat) (l : List Candidate) : State :=
  (s.setHit n { s.hit n with cands := l }).wr .HTCH_STAT_CANDS l.length n

/-- A receiver's FALLBACK ends once Hitch is in frame and in multiframe on the start table (R65). -/
def State.endFallback (s : State) (n : Nat) : State :=
  if s.on .HTCH_STAT_IN_FRAME n && s.on .HTCH_STAT_IN_MF n && s.rd .SPLC_STAT_ACTIVE_ID n == 0 then
    s.wr .BRAD_LOAD_STAT_RX_FALLBACK 0 n
  else s

/-- What Hitch has taken of a receive multiframe, dropped: the next one is taken from its frame 0 on. -/
def HitchInt.unaligned (x : HitchInt) : HitchInt :=
  { x with rxBip := none, rxPm := none, rxPmLast := none, rxMob := [], rx := [], rxK := 0, rxWord := 0, rxRest := [], fwdIn := {} }

/-- A candidate is accepted: Hitch is in frame and in multiframe, and expects the frame after the one matched last (R185). -/
def State.gainFrame (s : State) (n : Nat) (c : Candidate) : State :=
  let x := { (s.hit n).unaligned with pos := s.nextAt n c.pos c.mfas, errored := 0, wrong := 0, lastMfas := c.mfas }
  let s := (s.setHit n x).setCands n []
  let s := ((((s.wr .HTCH_STAT_IN_FRAME 1 n).wr .HTCH_STAT_IN_MF 1 n).wr .HTCH_STAT_OOF 0 n).wr .HTCH_STAT_OOM 0 n).wr
    .HTCH_STAT_MFAS_EXP ((c.mfas + 1) % 256) n
  s.endFallback n

/-- FAW_MATCH: the stream is examined at a position while out of frame (R184); where the FAW stands there, a candidate is started when fewer
than 4 are held. -/
def execFawMatch (n : Line) (pos : Nat) (s : State) : Res := act 13 s fun s =>
  let x := s.hit n
  match s.alignedAt n pos with
  | some m =>
    if s.lineMode n != 0 && s.lineMode n != 2 && !s.on .HTCH_STAT_IN_FRAME n && x.cands.length < 4 then
      s.setCands n (x.cands ++ [⟨pos, m, 0, false⟩])
    else s
  | none => s

/-- A candidate as a passed check at its next expected position leaves it (R185): the FAW without an error, and the next MFAS. -/
def State.candNext (s : State) (n : Nat) (c : Candidate) : Option Candidate :=
  let e := s.nextAt n c.pos c.mfas
  if s.alignedAt n e = some ((c.mfas + 1) % 256) then some { c with pos := e, mfas := (c.mfas + 1) % 256, passes := c.passes + 1 }
  else none

/-- The candidate accepted when one reaches ALIGN_N (R185, R200): of those that reach it in the same frame the lost alignment, otherwise
the one started first. -/
def State.accepted (s : State) (n : Nat) (d : Candidate) : Candidate :=
  let ready := ((s.hit n).cands.filterMap fun c => s.candNext n c).filter fun c =>
    decide (s.hcfg n .HTCH_LINE_CFG_ALIGN_N ≤ c.passes) && decide (c.pos < d.pos + s.frameLen n) &&
      decide (d.pos < c.pos + s.frameLen n)
  ((ready.find? fun c => c.lost).or ready.head?).getD d

/-- CANDIDATE_CHECK: the check at the expected position of a candidate, named by its place among those held (R185): once the bits have come
it is dropped, advanced, or accepted after ALIGN_N passes. -/
def execCandidateCheck (n : Line) (i : Nat) (s : State) : Res := act 13 s fun s =>
  let x := s.hit n
  match s.on .HTCH_STAT_IN_FRAME n, x.cands[i]? with
  | false, some c =>
    if (s.checkBits n (s.nextAt n c.pos c.mfas)).isNone then s
    else
      match s.candNext n c with
      | none => s.setCands n (x.cands.eraseIdx i)
      | some d =>
        if s.hcfg n .HTCH_LINE_CFG_ALIGN_N ≤ d.passes then s.gainFrame n (s.accepted n d) else s.setCands n (x.cands.set i d)
  | _, _ => s

/-- The lost alignment as a candidate (R186): its position is that of the frame before the one expected. -/
def State.lostCandidate (s : State) (n : Nat) : Candidate :=
  let m := (s.rd .HTCH_STAT_MFAS_EXP n + 255) % 256
  ⟨(s.hit n).pos - s.nextAt n 0 m, m, 0, true⟩

/-- ALIGN_M consecutive errored FAWs (R186): out of frame; the lost alignment stays a candidate. -/
def execOutOfFrame (n : Line) (s : State) : Res := act 13 s fun s =>
  let x := s.hit n
  if s.on .HTCH_STAT_IN_FRAME n && s.hcfg n .HTCH_LINE_CFG_ALIGN_M ≤ x.errored then
    ((((s.setHit n x.unaligned).wr .HTCH_STAT_IN_FRAME 0 n).wr .HTCH_STAT_IN_MF 0 n).wr .HTCH_STAT_OOF 1 n).setCands n
      [s.lostCandidate n]
  else s

/-- An MFAS that differs from the expected value in 5 consecutive frames (R187): out of multiframe. -/
def execOutOfMultiframe (n : Line) (s : State) : Res := act 13 s fun s =>
  if s.on .HTCH_STAT_IN_FRAME n && 5 ≤ (s.hit n).wrong then
    ((s.setHit n (s.hit n).unaligned).wr .HTCH_STAT_IN_MF 0 n).wr .HTCH_STAT_OOM 1 n
  else s

/-! ### Defects (R189, R190) -/

/-- The defects of Table 6.7 by number, with their bit in HTCH_DEF and its sticky copy, their bit in HTCH_EVT, and their event: 0 LOS,
1 LOF, 2 LOM, 3 AIS, 4 TIM, 5 SM BDI, 6 PM BDI, 7 FEC-SD (which Cleat reports itself). -/
def defectFlds : Nat → Fld × Fld × Option (Fld × Nat)
  | 0 => (.HTCH_DEF_LOS, .HTCH_DEF_STK_LOS, some (.HTCH_EVT_LOS, 0x6801))
  | 1 => (.HTCH_DEF_LOF, .HTCH_DEF_STK_LOF, some (.HTCH_EVT_LOF, 0x6802))
  | 2 => (.HTCH_DEF_LOM, .HTCH_DEF_STK_LOM, some (.HTCH_EVT_LOM, 0x6803))
  | 3 => (.HTCH_DEF_AIS, .HTCH_DEF_STK_AIS, some (.HTCH_EVT_AIS, 0x6804))
  | 4 => (.HTCH_DEF_TIM, .HTCH_DEF_STK_TIM, some (.HTCH_EVT_TIM, 0x6805))
  | 5 => (.HTCH_DEF_SM_BDI, .HTCH_DEF_STK_SM_BDI, some (.HTCH_EVT_BDI, 0x6806))
  | 6 => (.HTCH_DEF_PM_BDI, .HTCH_DEF_STK_PM_BDI, some (.HTCH_EVT_BDI, 0x6806))
  | _ => (.HTCH_DEF_FEC_SD, .HTCH_DEF_STK_FEC_SD, none)

/-- The defects that mask a defect (Table 6.7). -/
def maskedBy : Nat → List Nat
  | 0 => []
  | 1 => [0]
  | 2 => [0, 1]
  | 3 => [0, 1, 2]
  | 4 => [0, 1, 2, 3]
  | 5 => [0, 1, 3]
  | 6 => [0, 1, 2, 3]
  | _ => [0, 1]

/-- Whether a defect is declared. -/
def State.defect (s : State) (n d : Nat) : Bool := s.on (defectFlds d).1 n

/-- Whether a defect is masked. -/
def State.masked (s : State) (n d : Nat) : Bool := (maskedBy d).any fun m => s.defect n m

/-- aSSF of a line (R190). -/
def State.formSsf (s : State) (n : Nat) : Bool :=
  s.defect n 0 || s.defect n 1 || s.defect n 2 || s.defect n 3 || (s.defect n 4 && s.hcfg n .HTCH_LINE_CFG_TIM_ACT != 0)

/-- Whether an SM TTI differs from an expected one under a TIM_MODE (Table 6.7). -/
def ttiDiffers (mode : Nat) (expect tti : List Byte) : Bool :=
  let sapi := expect.take 16 != tti.take 16
  let dapi := (expect.drop 16).take 16 != (tti.drop 16).take 16
  match mode with
  | 0 => false
  | 1 => sapi
  | 2 => dapi
  | _ => sapi || dapi

/-- The same under the settings in force. -/
def State.timDiffers (s : State) (n : Nat) (tti : List Byte) : Bool :=
  let expect := match (s.hit n).cfgOld with
    | some c => c.2
    | none => s.rd .HTCH_TTI_SMEXP_TTI n
  ttiDiffers (s.hcfg n .HTCH_LINE_CFG_TIM_MODE) (leBytes 64 expect) tti

/-- aSSF as the present performance window counts it (R200): under the settings with which the window began. -/
def State.windowSsf (s : State) (n : Nat) : Bool :=
  match (s.hit n).pmOld with
  | none => s.formSsf n
  | some c =>
    let tim := !s.masked n 4 && ttiDiffers (bits c.1 15 14) (leBytes 64 c.2) (leBytes 64 (s.rd .HTCH_TTI_SMACC_TTI n))
    s.defect n 0 || s.defect n 1 || s.defect n 2 || s.defect n 3 || (tim && bit c.1 13)

/-- LINE_SSF: aSSF on a line with FLT_EN (R190, R488). -/
def State.refreshSsf (s : State) : State :=
  s.setFault .TOP_FAULT_LINE_SSF ([0, 1, 2].any fun n => s.hcfg n .HTCH_LINE_CFG_FLT_EN != 0 && s.ssfActs n) true

/-- Everything that follows a line's signal fail or degrade taken anew: FLT_N, Seizing, Bend's paths, the clients (Table 6.8). -/
def State.lineConsequences (s : State) (n : Nat) : State :=
  let s := s.refreshSsf
  let s := if s.ssfActs n then s.seizingSsf n else s
  ((s.refreshLineGroups n).each (List.range 48) fun c t =>
    if (t.cliLines c).contains n || (t.cliLeaves c).any (fun e => e.1 == n) ||
        (t.rd .SHET_CLI_CFG_MODE c == 3 && t.rd .SHET_CLI_CFG_LINE c == n) then t.refreshEgress c else t)

/-- The runs of the counted defects that are masked start again when the mask ends (R189). -/
def State.clearRuns (s : State) (n : Nat) : State :=
  let x := s.hit n
  s.setHit n { x with
    ais := if s.masked n 3 then (false, 0) else x.ais, smBdi := if s.masked n 5 then (false, 0) else x.smBdi,
    pmBdi := if s.masked n 6 then (false, 0) else x.pmBdi }

/-- FEC-SD as Hitch takes it from Cleat (R163, R189): not while it is masked, and not on a Hub line. Its sticky bit sets with it. -/
def State.takeSd (s : State) (n : Nat) : State :=
  let v := s.on .CLET_STAT_FEC_SD n && !s.masked n 7 && s.lineMode n != 2
  let was := s.on .HTCH_DEF_FEC_SD n
  let s := s.wr .HTCH_DEF_FEC_SD (b2n v) n
  if v && !was then s.wr .HTCH_DEF_STK_FEC_SD 1 n else s

/-- The defects settled: masked ones are not reported (R189), aSSF is formed; its rise starts the consequent actions at once (R190, R191),
its fall is carried out by SSF_CLEAR (R192). -/
def State.settleDefects (s : State) (n : Nat) : State :=
  let s := s.takeSd n
  let s := s.each [1, 2, 3, 4, 5, 6, 7] fun d t => if t.masked n d then t.wr (defectFlds d).1 0 n else t
  let s := s.clearRuns n
  let ssf := s.formSsf n
  let was := s.on .HTCH_DEF_SSF n
  let s := s.wr .HTCH_DEF_SSF (b2n ssf) n
  let x := s.hit n
  let w := x.window
  let s := s.setHit n { x with acting := x.acting || ssf, window :=
    { w with ssf := w.ssf || s.windowSsf n, smBdi := w.smBdi || s.defect n 5, pmBdi := w.pmBdi || s.defect n 6 } }
  let s := if ssf && !was then s.wr .HTCH_DEF_STK_SSF 1 n else s
  s.lineConsequences n

/-- A defect declared or cleared (R189): its event carries the line and an entry or exit flag. On a Hub line Bight's leaf states and R183
take the place of the defects. -/
def State.setDefect (s : State) (n d : Nat) (v : Bool) : State :=
  if s.defect n d == v || (v && (s.masked n d || s.lineMode n == 2)) then s
  else
    let (f, stk, ev) := defectFlds d
    let s := s.wr f (b2n v) n
    let s := if v then s.wr stk 1 n else s
    let s := match ev with
      | some (e, code) => s.raise e code (s.lineDom n) [n, b2n (!v)] (!v) n
      | none => s
    s.settleDefects n

/-- The settings of a commit come into force at a frame (R201): dTIM follows the TTI accepted last. -/
def State.newSettings (s : State) (n : Nat) : State :=
  let x := s.hit n
  if x.cfgOld.isNone then s
  else
    let s := s.setHit n { x with cfgOld := none }
    let s := if x.smTti.2 = 3 || s.rd .HTCH_LINE_CFG_TIM_MODE n = 0 then s.setDefect n 4 (s.timDiffers n x.smTti.1) else s
    s.settleDefects n

/-- A persistence time has passed (R189): dLOF, or with the flag dLOM, is declared while Hitch is out, cleared while it is in. -/
def execDefectPersistenceExpiry (n : Line) (lom : Bool) (s : State) : Res := act 13 s fun s =>
  if lom then
    (if s.on .HTCH_STAT_OOM n then s.setDefect n 2 true
    else if s.on .HTCH_STAT_IN_MF n then s.setDefect n 2 false
    else s)
  else if s.on .HTCH_STAT_OOF n then s.setDefect n 1 true
  else if s.on .HTCH_STAT_IN_FRAME n then s.setDefect n 1 false
  else s

/-- The first frame boundary after the last defect that holds aSSF has ended (R192): the consequent actions are removed. -/
def execSsfClear (n : Line) (s : State) : Res := act 13 s fun s =>
  if (s.hit n).acting && !s.formSsf n then (s.setHit n { s.hit n with acting := false }).lineConsequences n else s

/-- A run of a bit: how often in a row the value has come. -/
def runNext (r : Bool × Nat) (v : Bool) : Bool × Nat := if r.1 = v then (v, min 255 (r.2 + 1)) else (v, 1)

/-! ### Frames received (R174, R176, R177, R186, R187) -/

/-- A PG record as Bend takes it: nothing when its CRC fails (R176). -/
def pgFields (r : List Byte) : Option (Nat × Bool × Nat) :=
  if leAt r 6 2 = crc16 (r.take 6) then some (byteAt r 0 % 16, bit (byteAt r 0) 7, leAt r 2 4) else none

/-- MFAS of a frame (R187): expectation moves on; out of multiframe it restarts from two values in a row. -/
def State.takeMfas (s : State) (n mfas : Nat) : State :=
  let x := s.hit n
  let exp := s.rd .HTCH_STAT_MFAS_EXP n
  if s.on .HTCH_STAT_OOM n && mfas == (x.lastMfas + 1) % 256 then
    ((((s.setHit n { x with wrong := 0, lastMfas := mfas }).wr .HTCH_STAT_OOM 0 n).wr .HTCH_STAT_IN_MF 1 n).wr .HTCH_STAT_MFAS_EXP
      ((mfas + 1) % 256) n).endFallback n
  else
    (s.setHit n { x with wrong := if mfas = exp then 0 else x.wrong + 1, lastMfas := mfas }).wr .HTCH_STAT_MFAS_EXP
      ((exp + 1) % 256) n

/-- On a Regenerator pair, positions beyond the peer's capacity are discarded and counted (R193, R212): event 0x680A when it begins
(R520). -/
def State.regenDrop (s : State) (n : Nat) : State :=
  let x := s.hit n
  let excess := s.rxK n - s.txK (s.regenPeer n)
  let now := s.lineMode n == 3 && decide (0 < excess)
  let s := s.setHit n { x with discarding := now, dropped := if now then x.dropped + excess else x.dropped }
  if now && !x.discarding then s.raise .HTCH_EVT_REGEN_DROP 0x680A (s.lineDom n) [n] false n else s

/-- The counts of a frame in frame (R174, R186, R189, R196): its FAW, its SM BIP-8 violations, BEI and BDI. -/
def State.sectionCounts (s : State) (n : Nat) (fawOk : Bool) (viol bei : Nat) (bdi : Bool) : State :=
  let s := s.count .HTCH_CNT 1 n 0
  let s := if viol = 0 then s else (s.count .HTCH_CNT viol n 1).count .HTCH_CNT 1 n 2
  let x := s.hit n
  let w := x.window
  let s := s.setHit n { x with
    errored := if fawOk then 0 else x.errored + 1, smBei := min 8 viol,
    smBdi := if s.masked n 5 then (false, 0) else runNext x.smBdi bdi,
    window := { w with smNear := w.smNear + (if viol = 0 then 0 else 1), smFar := w.smFar + (if 1 ≤ bei ∧ bei ≤ 8 then 1 else 0) } }
  if 5 ≤ (s.hit n).smBdi.2 then s.setDefect n 5 (s.hit n).smBdi.1 else s

/-- The counts of a block of the path layer (R189, R196): its PM BIP-8 violations, PM BEI, PM BDI and PM STAT; the count to send back. -/
def State.pathCounts (s : State) (n viol bei : Nat) (bdi : Bool) (stat : Nat) : State :=
  let s := if viol = 0 then s else s.count .HTCH_CNT 1 n 3
  let x := s.hit n
  let w := x.window
  let s := (s.setHit n { x with
    ais := if s.masked n 3 then (false, 0) else runNext x.ais (stat == 7),
    pmBdi := if s.masked n 6 then (false, 0) else runNext x.pmBdi bdi,
    pmBei := min 8 viol,
    window := { w with pmNear := w.pmNear + (if viol = 0 then 0 else 1),
                       pmFar := w.pmFar + (if 1 ≤ bei ∧ bei ≤ 8 then 1 else 0) } }).wr .HTCH_STAT_RX_STAT stat n
  let s := if 3 ≤ (s.hit n).ais.2 then s.setDefect n 3 (s.hit n).ais.1 else s
  if 5 ≤ (s.hit n).pmBdi.2 then s.setDefect n 6 (s.hit n).pmBdi.1 else s

/-- TTIs received (R189): accepted when the same 64 bytes come three times in a row. -/
def State.takeTtis (s : State) (n : Nat) (sm pm : List Byte) : State :=
  let x := s.hit n
  let a := if x.smTti.1 = sm then (sm, min 3 (x.smTti.2 + 1)) else (sm, 1)
  let b := if x.pmTti.1 = pm then (pm, min 3 (x.pmTti.2 + 1)) else (pm, 1)
  let s := s.setHit n { x with smTti := a, pmTti := b }
  let s := if b.2 = 3 then s.wr .HTCH_TTI_PMACC_TTI (leVal pm) n else s
  if a.2 = 3 then (s.wr .HTCH_TTI_SMACC_TTI (leVal sm) n).setDefect n 4 (s.timDiffers n sm) else s

/-- The containers of a receive multiframe of a line (R211), but for those of leaves. -/
def State.rxContainers (s : State) (n : Nat) : List ContRx :=
  ((List.range 48).filter fun c => (s.cliLines c).contains n).map fun c =>
    { client := c, places := s.placesOf ((s.cliSlots c).filter fun k => s.rd .SHET_TS_LINE k == n) }

/-- The start of a receive multiframe (R174, R210, R211, R222): K and the containers are those in force, and a client whose slots on the
line have changed has its frame in progress ended with an error, its context hunting where M is another; of a Regenerator line the multiframe before is complete for the
peer. -/
def State.startRx256 (s : State) (n : Nat) : State :=
  let s := s.wr .HTCH_STAT_RX_U (s.rxU n) n
  let x := s.hit n
  let new := if s.lineMode n = 3 then [] else s.rxContainers n
  let placesOf (l : List ContRx) (c : Nat) : List Nat := (l.find? fun e => e.client == c).elim [] fun e => e.places
  let s := s.setHit n { x with
    rxPmLast := x.rxPm, rxPm := some 0, rxMob := [], rx := new, rxK := s.rxK n, rxWord := 0, rxRest := [],
    fwdDone := if x.fwdIn.records.length = 256 then x.fwdDone ++ [x.fwdIn] else x.fwdDone, fwdIn := { k := s.rxK n } }
  let s := s.each ((x.rx.map fun e => e.client).filter fun c => placesOf new c != placesOf x.rx c) fun c t => t.endFrame c
  let s := s.each ((x.rx.map fun e => e.client).filter fun c => (placesOf new c).length != (placesOf x.rx c).length) fun c t => t.resizedRx n c
  s.regenDrop n

/-- A payload word of the receive multiframe (R210): word w below 4,552 × K belongs to position w mod K; it goes to the container of the
position, or of a Regenerator line to what its peer sends on (R193). -/
def State.takeRxWord (s : State) (n : Nat) (w : List RxByte) : State :=
  let x := s.hit n
  let s := s.setHit n { x with rxWord := x.rxWord + 1 }
  if 4552 * x.rxK ≤ x.rxWord then s
  else if s.lineMode n = 3 then
    s.setHit n { s.hit n with fwdIn := { x.fwdIn with words := x.fwdIn.words ++ [plainBytes w] } }
  else
    match x.rx.find? fun c => c.places.contains (x.rxWord % x.rxK) with
    | none => s
    | some c =>
      let (t, d) := s.containerWord n c w
      t.setHit n { t.hit n with rx := (t.hit n).rx.map fun e => if e.client = c.client then d else e }

/-- Payload bytes read as words of 16 bytes (R210); what is left of the last waits for the next frame. The first argument bounds the
number of words. -/
def State.takePayload : Nat → State → Nat → List RxByte → State
  | 0, s, n, l => s.setHit n { s.hit n with rxRest := l }
  | m + 1, s, n, l =>
    if l.length < 16 then s.setHit n { s.hit n with rxRest := l }
    else State.takePayload m (s.takeRxWord n (l.take 16)) n (l.drop 16)

/-- What the overhead of a native frame tells beside the section's fields (R174 to R177, R193): its slice of the overhead block, its PG
records, its tag records; the last go to Bend and to Seizing, or on a Regenerator pair to the peer. -/
def State.takeRecords (s : State) (n f : Nat) (oh : List Byte) : State :=
  let npg := min (byteAt oh 7 % 32) ((oh.length - 16) / 8)
  let records := (List.range npg).map fun i => (oh.drop (16 + 8 * i)).take 8
  let good := records.filter fun r => (pgFields r).isSome
  let tags := (List.range (tagRoom oh.length npg)).map fun i => (oh.drop (16 + 8 * npg + 28 * i)).take 28
  let x := s.hit n
  let s := s.setHit n { x with rxMob := if x.rxMob.length = 8 * f then x.rxMob ++ (oh.drop 8).take 8 else [] }
  let s := s.count .HTCH_CNT (npg - good.length) n 5
  if s.lineMode n = 3 then
    let y := s.hit n
    let s := s.setHit n { y with fwdIn := { y.fwdIn with records := y.fwdIn.records ++ [good] } }
    tags.foldl (fun t r => if bit (byteAt r 1) 7 then t.queueTag (t.regenPeer n) r else t) s
  else (s.bendFrame n f (good.filterMap pgFields)).seizingFrame n tags

/-- A native frame taken apart (R172 to R174, R186, R187). -/
def State.takeFrame (s : State) (n : Nat) (bytes : List RxByte) : State :=
  let u := s.rxU n
  let oh := plainBytes (bytes.take u)
  let acting := (s.hit n).acting
  let pay := (bytes.drop u).map fun b => (b.1, b.2 || acting)
  let bip := bip8 (plainBytes pay)
  let viol := (s.hit n).rxBip.elim 0 fun b => ones8 (b ^^^ oh.getD 5 0).toNat
  let s := s.sectionCounts n (decide (oh.take 4 = faw)) viol (bits (byteAt oh 6) 7 4) (bit (byteAt oh 6) 3)
  let s := s.takeMfas n (byteAt oh 4)
  let f := (s.rd .HTCH_STAT_MFAS_EXP n + 255) % 256
  let s := if f = 0 && s.on .HTCH_STAT_IN_MF n then s.startRx256 n else s
  let x := s.hit n
  let s := s.setHit n { x with rxBip := some bip, rxPm := x.rxPm.map fun p => p ^^^ bip }
  let s := s.takeRecords n f oh
  let l := (s.hit n).rxRest ++ pay
  s.takePayload (l.length / 16) n l

/-- The client whose stream an 800ZR line carries (R218). -/
def State.ozrClient (s : State) (n : Nat) : Option Nat :=
  (List.range 48).find? fun c =>
    s.rd .SHET_CLI_CFG_TYPE c != 0 && s.rd .SHET_CLI_CFG_MODE c == 3 && s.rd .SHET_CLI_CFG_LINE c == n

/-- An 800ZR frame taken apart (R181): a block of both layers is one frame; its TTIs come a byte a frame. -/
def State.takeOzr (s : State) (n : Nat) (fr : OzrFrame) : State :=
  let acting := (s.hit n).acting
  let s := s.sectionCounts n fr.fawOk fr.smViolations fr.smBei fr.smBdi
  let s := s.takeMfas n (fr.mfas % 256)
  let f := (s.rd .HTCH_STAT_MFAS_EXP n + 255) % 256
  let s := s.pathCounts n fr.pmViolations fr.pmBei fr.pmBdi (fr.stat % 8)
  let x := s.hit n
  let sm := x.ozrSm.put 0 (f % 64) fr.smTti
  let pm := x.ozrPm.put 0 (f % 64) fr.pmTti
  let s := s.setHit n { x with ozrSm := sm, ozrPm := pm }
  let all (t : Tab Byte) : List Byte := (List.range 64).map fun i => t.get 0 i
  let s := if f % 64 = 63 && s.on .HTCH_STAT_IN_MF n then s.takeTtis n (all sm) (all pm) else s
  match s.ozrClient n with
  | some c =>
    let y := s.cli c
    (s.setCli c { y with rxBytes := y.rxBytes ++ fr.payload.map fun b => (b, acting) }).hostStream c
  | none => s

/-- FRAME_RECEIVED: the frame at the expected position is taken, once its bits have come, and the next is expected behind it. -/
def execFrameReceived (n : Line) (s : State) : Res := act 13 s fun s =>
  match s.on .HTCH_STAT_IN_FRAME n && 0 < s.frameLen n, s.inStream n (s.hit n).pos (s.frameLen n) with
  | true, some b =>
    let x := s.hit n
    let next := s.nextAt n x.pos (s.rd .HTCH_STAT_MFAS_EXP n)
    let s := s.setHit n { x with pos := next, rxBits := x.rxBits.drop (next - x.rxAt), rxAt := min next (x.rxAt + x.rxBits.length) }
    let s := s.newSettings n
    if s.lineOzr n then s.takeOzr n (Config.ozrRead (b.map fun x => x.1)) else s.takeFrame n (frameBytes b)
  | _, _ => s

/-! ### Multiframe overhead (R175, R189, R193, R194) -/

/-- Whether a multiframe overhead block passes its CRC (Table 6.2). -/
def mobOk (m : List Byte) : Bool := m.length == 2048 && crcOk m

/-- The GCC0 packets in the GCC0 bytes of a multiframe (R407): the first byte zero is fill to the end. The first argument bounds their
number. -/
def gccPackets : Nat → List Byte → List (List Byte)
  | 0, _ => []
  | k + 1, b => if byteAt b 0 = 0 then [] else b.take (8 + leAt b 2 2) :: gccPackets k (b.drop (8 + leAt b 2 2))

/-- What Hitch takes from the overhead block of a multiframe (R175, R189, R193, R194). -/
def State.hitchMob (s : State) (n : Nat) (m : List Byte) : State :=
  if !mobOk m then
    (s.setHit n { s.hit n with fwdMask := 0 }).count .HTCH_CNT 1 n 4
  else
    let stat := byteAt m 129
    let mask := (s.hit n).rxPmLast.elim 0 fun b => (b ^^^ m.getD 128 0).toNat
    let x := s.hit n
    let s := s.setHit n { x with
      fwdTti := (m.drop 64).take 64, fwdStat := stat, fwdMask := mask, gcc := x.gcc ++ gccPackets 128 ((m.drop 220).take 1024) }
    let s := s.pathCounts n (ones8 mask) (bits stat 7 4) (bit stat 3) (bits stat 2 0)
    s.takeTtis n (m.take 64) ((m.drop 64).take 64)

/-! ### Frames sent (R174 to R180, R190, R193, R194) -/

/-- FRAME_SHORT evaluated at the start of a transmit multiframe (R180): it sets with event 0x6809 when framing becomes inadequate. -/
def State.frameShort (s : State) (n : Nat) : State :=
  let short := s.lineNative n && !adequate (s.txU n) (s.npg n)
  let was := s.on .HTCH_STAT_FRAME_SHORT n
  let s := s.wr .HTCH_STAT_FRAME_SHORT (b2n short) n
  if short && !was then s.raise .HTCH_EVT_FRAME_SHORT 0x6809 (s.lineDom n) [n] false n else s

/-- The SM_STAT byte sent: the BEI of the frame checked last, BDI while aSSF holds under BDI_ACT or when it is forced. -/
def State.smStatByte (s : State) (n : Nat) : Nat :=
  let bdi := (s.on .HTCH_DEF_SSF n && s.hcfg n .HTCH_LINE_CFG_BDI_ACT != 0) || s.on .HTCH_TX_CFG_FORCE_BDI n
  (s.hit n).smBei * 16 + b2n bdi * 8

/-- Whether a line sends its payload as ODU-AIS (Table 6.8, Table 6.14): forced, or the peer of a Regenerator line is in aSSF. -/
def State.sendsAis (s : State) (n : Nat) : Bool :=
  s.on .HTCH_TX_CFG_FORCE_AIS n || (s.lineMode n == 3 && s.ssfActs (s.regenPeer n))

/-- The PM_TTI and PM_STAT sent (R193, Table 6.8): a Regenerator line forwards those received by its peer; the path end sends its own, with
PM STAT 0b001, that of G.709 for a path without a maintenance signal (log entry 83). -/
def State.pmFields (s : State) (n : Nat) : List Byte × Nat :=
  if s.lineMode n = 3 then
    let y := s.hit (s.regenPeer n)
    (padTo 64 y.fwdTti, if s.sendsAis n then setBits y.fwdStat 2 0 7 else y.fwdStat)
  else
    (leBytes 64 (s.rd .HTCH_TTI_PMTX_TTI n),
      (s.hit n).pmBei * 16 + b2n (s.on .HTCH_DEF_SSF n) * 8 + (if s.sendsAis n then 7 else 1))

/-- The multiframe overhead block of a transmit multiframe (Table 6.2): PM_BIP8 of the payload sent before (on a Regenerator line XORed
with the mask of the multiframe received by the peer, R194), BL_UPDATE, CTRL_PTR and GCC0 as given. -/
def State.buildMob (s : State) (n pmBip : Nat) (bl ctrl gcc : List Byte) : List Byte :=
  let (tti, stat) := s.pmFields n
  let bip := if s.lineMode n = 3 then pmBip ^^^ (s.hit (s.regenPeer n)).fwdMask else pmBip
  withCrc (padTo 2044 (leBytes 64 (s.rd .HTCH_TTI_SMTX_TTI n) ++ tti ++ leBytes 1 bip ++ leBytes 1 stat ++ leBytes 6 0 ++
    padTo 80 bl ++ padTo 4 ctrl ++ padTo 1024 gcc))

/-- A container of a transmit multiframe takes its place: its overhead word goes out, and the segments of its context open (R213, R245). -/
def State.putContainer (s : State) (n : Nat) (x : ContTx) : State :=
  let s := s.emit (.cow x.client n x.load.cow)
  let s := s.setHit n { s.hit n with tx := (s.hit n).tx ++ [x] }
  match s.kcOf n x.leaf.isSome (x.leaf.getD x.client) with
  | some k => s.openSegments k x.load (payloadWords x.places.length)
  | none => s

/-- What the member line of a group sends in its multiframe (R267, R269): what the multiframe of the group carries, or GMP stuff while the
follower of a split group has no lockstep. -/
def State.groupLoad (s : State) (g c : Nat) : Load :=
  if s.on .BEND_PG_CFG_KIND g && !s.on .BEND_PG_STAT_LOCKSTEP g then
    { cow := s.cowBytes c 0 (s.on .SHET_CLI_STAT_CSF c), gmp := true }
  else (s.grp g).load

/-- The container of a client's own slots on a line. -/
def State.ownContainer (s : State) (n c : Nat) : State :=
  let places := s.placesOf ((s.cliSlots c).filter fun k => s.rd .SHET_TS_LINE k == n)
  match s.groupOf c with
  | some g => s.putContainer n ⟨c, none, places, s.groupLoad g c⟩
  | none =>
    let (t, load) := s.mapClient c places.length
    t.putContainer n ⟨c, none, places, load⟩

/-- The container of a leaf of a shared client (R217). -/
def State.leafContainer (s : State) (n c leaf : Nat) : State :=
  let places := s.placesOf ((s.cliLeafSlots c).filter fun k => s.rd .SHET_TS_LINE k == n && s.rd .SHET_TS_LEAF k == leaf)
  let (t, load) := s.mapLeaf c (leafKey n leaf) places.length
  t.putContainer n ⟨c, some leaf, places, load⟩

/-- The containers of a transmit multiframe (R211, R213): those in force at its start; a Regenerator line sends what its peer has received
(R193). -/
def State.buildContainers (s : State) (n : Nat) : State :=
  let s := s.setHit n { s.hit n with tx := [], txK := s.txK n }
  let s := s.endSegments n
  if s.lineMode n = 3 then
    let p := s.regenPeer n
    let y := s.hit p
    let s := s.setHit p { y with fwdDone := y.fwdDone.drop 1 }
    s.setHit n { s.hit n with fwdOut := y.fwdDone.headD {} }
  else
    s.each (List.range 48) fun c t =>
      let t := if (t.cliLines c).contains n then t.ownContainer n c else t
      t.each (((t.cliLeaves c).filter fun e => e.1 == n).map fun e => e.2) fun l u => u.leafContainer n c l

/-- Hitch opens a multiframe toward Cleat's encoder: it is sent with the table in force at its start (R150). -/
def State.openTx (s : State) (n : Nat) : State :=
  let y := s.clt n
  let carriers := (s.txSlots n).map fun f =>
    (f, slotWidth (s.rd .BRAD_SC_CFG_WIDTH n f), s.rd .BRAD_SC_ACT_BASE n f, s.rd .BRAD_SC_ACT_ENT n f)
  { s with cleat := s.cleat.put {} n { y with txQ := y.txQ ++ [{ oh := y.txOh, carriers := carriers }] } }

/-- The start of a transmit multiframe: FRAME_SHORT is evaluated, the groups take their q, the overhead block is fixed, with the BIP-8 of
the payload sent before, PM BEI and a forwarded mask go out once (Table 6.8, R194), TX_U shows U, the containers are built. -/
def State.startMultiframe (s : State) (n : Nat) (bl ctrl gcc : List Byte) : State :=
  let s := (s.frameShort n).takeQ n
  let s := s.wr .HTCH_STAT_TX_U (s.txU n) n
  let x := s.hit n
  let s := s.setHit n { x with mob := s.buildMob n x.txPm.toNat bl ctrl gcc, txPm := 0, pmBei := 0 }
  let p := s.regenPeer n
  let s := if s.lineMode n = 3 then s.setHit p { s.hit p with fwdMask := 0 } else s
  (s.openTx n).buildContainers n

/-- A word that a Regenerator line forwards: word j of position k. -/
def FwdMf.word (x : FwdMf) (k j : Nat) : List Byte :=
  if k < x.k then padTo 16 (x.words.getD (j * x.k + k) []) else (List.range 16).map fun i => Config.unboundByte (16 * j + i)

/-- Payload word w of the transmit multiframe (R210, R211): word w below 4,552 × K belongs to position w mod K, the others are zero. -/
def State.lineWord (s : State) (n w : Nat) : List Byte :=
  let x := s.hit n
  let k := w % x.txK
  if 4552 * x.txK ≤ w then List.replicate 16 0
  else if s.lineMode n = 3 then x.fwdOut.word k (w / x.txK)
  else
    match x.tx.find? fun c => c.places.contains k with
    | some c => s.sentWord n c (w / x.txK * c.places.length + c.places.idxOf k)
    | none => (List.range 16).map fun i => Config.unboundByte (16 * w + i)

/-- The payload bytes of frame f with U = u (R172, R210); ODU-AIS is all ones (Table 6.8). -/
def State.framePayload (s : State) (n f u : Nat) : List Byte :=
  if s.sendsAis n then List.replicate (127 * u) 0xFF
  else (List.range (127 * u)).map fun b => (s.lineWord n ((127 * u * f + b) / 16)).getD ((127 * u * f + b) % 16) 0

/-- The PG records that frame f calls for (R176, R193): those of the line's groups, or those that the peer has received in frame f. -/
def State.recordsDue (s : State) (n f : Nat) : List (List Byte) :=
  if s.lineMode n = 3 then (s.hit n).fwdOut.records.getD f [] else (s.groupsOn n).map fun g => s.pgRecord g n

/-- The line stream bits of a multiframe put behind those handed over before. -/
def addStream : List TxMf → List Bool → List TxMf
  | [], bits => [{ stream := bits }]
  | [x], bits => [{ x with stream := x.stream ++ bits }]
  | x :: r, bits => x :: addStream r bits

/-- Bits that Hitch hands to Cleat's encoder. -/
def State.pushTx (s : State) (n : Nat) (bits : List Bool) : State :=
  let y := s.clt n
  { s with cleat := s.cleat.put {} n { y with txQ := addStream y.txQ bits } }

/-- The overhead bytes of frame f (Table 6.1): as many whole PG records as fit, then tag records from the head of the queue, and records
that are not valid where the queue has none (R177, R180). -/
def State.frameOverhead (s : State) (n f u : Nat) : List Byte :=
  let x := s.hit n
  let sent := (s.recordsDue n f).take ((u - 16) / 8)
  let tags := x.tagq.take (tagRoom u sent.length)
  padTo u ([0xF6, 0xF6, 0x28, 0x28] ++ leBytes 1 f ++ [x.txBip] ++ leBytes 1 (s.smStatByte n) ++ leBytes 1 sent.length ++
    ((padTo 2048 x.mob).drop (8 * f)).take 8 ++ sent.flatten ++ tags.flatten)

/-- A frame f sent (R172 to R174): overhead and payload scrambled, behind the last frame the pad; each PG record left unsent is counted
(R180). -/
def State.sendFrame (s : State) (n f : Nat) : State :=
  let u := s.rd .HTCH_STAT_TX_U n
  let due := s.recordsDue n f
  let sent := min due.length ((u - 16) / 8)
  let pay := s.framePayload n f u
  let bits := frameBits (s.frameOverhead n f u ++ pay) (if f = 255 then linePad (s.clt n).txOh (s.txCarriers n .BRAD_SC_ACT_ENT) else 0)
  let s := ((s.emit (.frame n bits)).pushTx n bits).count .HTCH_CNT (due.length - sent) n 6
  let x := s.hit n
  let t := tagRoom u sent
  (s.setHit n { x with tagq := x.tagq.drop t, txBip := bip8 pay, txPm := x.txPm ^^^ bip8 pay }).wr .HTCH_STAT_TAGQ
    (x.tagq.length - t) n

/-- The bits of an 800ZR frame (R181): its fields from the same sources, a byte of the TTIs in each frame, GCC0 fill, and the client's
bytes. -/
def State.ozrBits (s : State) (n f : Nat) : List Bool :=
  let x := s.hit n
  let data := padTo Config.ozrPayload ((s.ozrClient n).elim [] fun c => (s.cli c).txBytes)
  Config.ozrWrite {
    mfas := f, smBei := x.smBei, smBdi := bit (s.smStatByte n) 3, pmBei := x.pmBei, pmBdi := s.on .HTCH_DEF_SSF n,
    stat := if s.sendsAis n then 7 else 1,
    smTti := (leBytes 64 (s.rd .HTCH_TTI_SMTX_TTI n)).getD (f % 64) 0, pmTti := (leBytes 64 (s.rd .HTCH_TTI_PMTX_TTI n)).getD (f % 64) 0,
    gcc := List.replicate Config.ozrGcc 0,
    payload := if s.sendsAis n then List.replicate Config.ozrPayload 0xFF else data }

/-- An 800ZR frame sent (R181). -/
def State.sendOzr (s : State) (n f : Nat) : State :=
  let bits := s.ozrBits n f
  let t := (s.ozrClient n).elim s fun c => s.setCli c { s.cli c with txBytes := (s.cli c).txBytes.drop Config.ozrPayload }
  (t.setHit n { t.hit n with pmBei := 0 }).emit (.frame n bits)

/-! ### Burst frames (R182, R183) -/

/-- Whether a burst frame is good, by the Lashing information bytes of its payload (R183). -/
def burstOk (h : List Byte) : Bool :=
  20 ≤ h.length && leAt h 16 4 == crc32c (h.take 16) && byteAt h 0 / 16 == 1 &&
    20 + leAt h 10 4 + 28 * leAt h 2 2 ≤ h.length

/-- A leaf's upstream signal fail signalled or ended (R183). -/
def State.setLeafFail (s : State) (n leaf : Nat) (v : Bool) : State :=
  let rest := s.leafFail.filter fun e => e != (n, leaf)
  let t := { s with leafFail := if v then (n, leaf) :: rest else rest }
  t.each (List.range 48) fun c t => if (t.cliLeaves c).contains (n, leaf) then t.refreshEgress c else t

/-- The payload of a good burst frame as it joins the leaf's stream (R183): the offset of the first new byte and the bytes from there, the
gap before them as errored bytes where it is at most 65,536; whether a larger gap is signal fail; and the end of the stream so far. -/
def burstPayload (next : Option Nat) (ofs : Nat) (pay : List RxByte) : Nat × List RxByte × Bool × Nat :=
  let at_ := next.getD ofs
  let gap := wrapSub (2 ^ 48) ofs at_
  let back := wrapSub (2 ^ 48) at_ ofs
  let stop := (ofs + pay.length) % 2 ^ 48
  if gap < 2 ^ 47 then
    (if gap ≤ 65536 then (at_, List.replicate gap (0, true) ++ pay, false, stop) else (ofs, pay, true, stop))
  else (at_, pay.drop back, false, if back ≤ pay.length then stop else at_)

/-- The payload of a burst frame passed on: the place where the leaf's stream stands, its signal fail, and the piece with its tags to the
leaf's key context, or to the leaf's client (R183). -/
def State.passPayload (s : State) (n leaf : Nat) (h : List Byte) (tags : List (List Byte)) (p : Nat × List RxByte × Bool × Nat) : State :=
  let (ofs, bytes, big, stop) := p
  let s := s.setHit n { s.hit n with leafNext := (s.hit n).leafNext.put none leaf (some stop) }
  let s := s.setLeafFail n leaf (big || bit (byteAt h 14) 0)
  match s.kcOf n true leaf with
  | some k => s.leafBurst k (byteAt h 1) (byteAt h 0 % 2) ofs bytes tags
  | none => s.leafFeed n leaf bytes

/-- A good burst frame of a leaf passed on (R182, R183): its payload past the end of the last one, its tag records, FLAGS[0]. -/
def State.takeBurst (s : State) (n leaf : Nat) (b : List RxByte) : State :=
  let h := plainBytes b
  let len := leAt h 10 4
  let tags := (List.range (leAt h 2 2)).map fun i => (h.drop (20 + len + 28 * i)).take 28
  s.passPayload n leaf h tags (burstPayload ((s.hit n).leafNext.get none leaf) (leAt h 4 6) ((b.drop 20).take len))

/-- BURST_FRAME_RECEIVED: the oldest decoded burst of a leaf that waits is taken as a burst frame (R182), discarded and counted if it is
bad (R183). -/
def execBurstFrameReceived (n : Line) (leaf : Leaf) (s : State) : Res := act 13 s fun s =>
  let x := s.hit n
  match s.lineMode n == 2, x.bursts.find? fun e => e.1 == leaf.val with
  | true, some (l, b) =>
    let s := s.setHit n { x with bursts := x.bursts.erase (l, b) }
    if burstOk (plainBytes b) then s.takeBurst n leaf b else s.count .HTCH_CNT 1 n 7
  | _, _ => s

/-! ### Performance monitoring (R195 to R199) -/

/-- The near-end or far-end figures of a window for SM (end 0, 1) and PM (2, 3): errored blocks, and whether a condition makes it SES. -/
def windowOf (w : PmWindow) : Nat → Nat × Bool
  | 0 => (w.smNear, w.ssf)
  | 1 => (w.smFar, w.smBdi)
  | 2 => (w.pmNear, w.ssf)
  | _ => (w.pmFar, w.pmBdi)

/-- Whether a window is SES (R196): 15 % of 2,197,266 SM blocks or 8,584 PM blocks, in 800ZR framing of the frames of a second (R181). -/
def isSes (w : PmWindow) (k : Nat) : Bool :=
  let (eb, fail) := windowOf w k
  fail || decide ((if w.ozr then ceilDiv (15 * Config.ozrRate) 100 else if k < 2 then 329590 else 1288) ≤ eb)

/-- The window at its end (R196): it is held for 10 s (R197), and a new one begins under the settings in force with the conditions that
still stand (R200). A window of a line in Off makes its intervals SUSPECT (R199): those of the second that has ended. -/
def execPmWindowEnd (n : Line) (s : State) : Res := act 13 s fun s =>
  let x := s.hit n
  if s.lineMode n = 0 then (s.setHit n { x with window := {}, pmOld := none }).markIntervals n (s.tod - 1)
  else
    s.setHit n { x with
      held := x.held ++ [x.window], pmOld := none,
      window := { ozr := s.lineOzr n, ssf := s.formSsf n, smBdi := s.defect n 5, pmBdi := s.defect n 6 } }

/-- A count of the current intervals raised (Table 6.19). -/
def State.pmAdd (s : State) (n k d : Nat) : State := (s.inc .HTCH_PM15_COUNT d n k).inc .HTCH_PM24_COUNT d n k

/-- The place of a layer's and an end's parameters in Table 6.19. -/
def pmBase (k : Nat) : Nat := 8 * (k / 2) + 4 * (k % 2)

/-- One layer and end of the oldest held window committed (R197): unavailable time begins at the first of 10 SES windows and ends at the
first of 10 that are not. -/
def State.pmCommit (s : State) (n k : Nat) (look : List PmWindow) (w : PmWindow) : State :=
  let x := s.hit n
  let was := x.uas.get false k
  let full := decide (10 ≤ look.length)
  let now := if was then !(full && look.all fun v => !isSes v k) else full && look.all fun v => isSes v k
  let s := s.setHit n { x with uas := x.uas.put false k now }
  let s := if was != now && k % 2 = 0 then
      let f := if k = 0 then Fld.HTCH_DEF_UAS_SM else .HTCH_DEF_UAS_PM
      let stk := if k = 0 then Fld.HTCH_DEF_STK_UAS_SM else .HTCH_DEF_STK_UAS_PM
      let s := s.wr f (b2n now) n
      let s := if now then s.wr stk 1 n else s
      s.raise .HTCH_EVT_UAS 0x6807 (s.lineDom n) [n, b2n (!now)] (!now) n
    else s
  let b := pmBase k
  if now then s.pmAdd n (b + 3) 1
  else
    let (eb, fail) := windowOf w k
    let s := if 0 < eb || fail then s.pmAdd n b 1 else s
    if isSes w k then s.pmAdd n (b + 1) 1 else s.pmAdd n (b + 2) eb

/-- Ten seconds after a window (R197): its results are added to the interval counters. A far-end window in near-end unavailable time is
not evaluated (R196). -/
def execPmWindowCommit (n : Line) (s : State) : Res := act 13 s fun s =>
  let x := s.hit n
  match x.held with
  | [] => s
  | w :: rest =>
    let look := x.held.take 10
    let s := s.setHit n { x with held := rest, count15 := x.count15 + 1, count24 := x.count24 + 1 }
    s.each [0, 1, 2, 3] fun k t =>
      if k % 2 = 1 && (t.hit n).uas.get false (k - 1) then t else t.pmCommit n k look w

/-- The 16 counts of an interval, 4 bytes each (Table 6.21). -/
def State.pmCounts (s : State) (n : Nat) (day : Bool) : Nat :=
  leVal ((List.range 16).flatMap fun k => leBytes 4 (s.rd (if day then .HTCH_PM24_COUNT else .HTCH_PM15_COUNT) n k))

/-- The number of the interval of so many seconds whose record is due: the one that closed at the boundary 10 s ago (R198). -/
def State.intervalDue (s : State) (len : Nat) : Nat := (s.tod - 10) / len - 1

/-- Ten seconds after an interval boundary (R198): the record goes to the history, event 0x6808, and the interval's counters clear. The
first record of each kind takes the entry that the pointer names after reset (log entry 9). It is SUSPECT when it is marked so, or
when it does not hold its nominal number of windows (R199). -/
def execIntervalRecordWrite (n : Line) (day : Bool) (s : State) : Res := act 13 s fun s =>
  let x := s.hit n
  let ptr := if day then Fld.HTCH_HIST_PTR_LAST24 else .HTCH_HIST_PTR_LAST15
  let base := if day then 32 else 0
  let len := if day then 86400 else 900
  let due := s.intervalDue len
  let last := s.rd ptr n
  let e := if s.on .HTCH_HIST_VALID n (base + last) then (last + 1) % (if day then 2 else 32) else last
  let suspect := (if day then x.sus24 else x.sus15).contains due || (if day then x.count24 else x.count15) != len
  let s := s.setReg .HTCH_HIST (due * len % 2 ^ 48 + b2n suspect <<< 48 + 1 <<< 49 + s.pmCounts n day <<< 64) n (base + e)
  let s := (s.wr ptr e n).incWrap .HTCH_HIST_PTR_HIST_SEQ 1 n
  let s := s.each (List.range 16) fun k t => t.wr (if day then .HTCH_PM24_COUNT else .HTCH_PM15_COUNT) 0 n k
  let y := s.hit n
  let s := s.setHit n (if day then { y with count24 := 0, sus24 := y.sus24.filter fun i => due < i }
    else { y with count15 := 0, sus15 := y.sus15.filter fun i => due < i })
  s.raise .HTCH_EVT_INTERVAL 0x6808 (s.lineDom n) [n] false n

/-! ### Run-time settings (Table 6.14) -/

/-- A write of HTCH_TX_CFG of a line: Operator rights for the line's domain (Table 16.1). -/
def State.txCfgWrite (s : State) (req : Requester) (n v : Nat) : State :=
  s.write req 1 [s.lineDom n] (regAddr ⟨.HTCH_TX_CFG, n, 0, 0⟩) (s.reg .HTCH_TX_CFG n) v false fun t => t.setReg .HTCH_TX_CFG (v % 4) n

/-- FORCE_AIS written, FORCE_BDI kept (R190). -/
def execForceAis (req : Requester) (n : Line) (v : Bool) (s : State) : Res := access req 13 s fun s =>
  s.txCfgWrite req n (b2n v + 2 * s.rd .HTCH_TX_CFG_FORCE_BDI n)

/-- FORCE_BDI written, FORCE_AIS kept (R190). -/
def execForceBdi (req : Requester) (n : Line) (v : Bool) (s : State) : Res := access req 13 s fun s =>
  s.txCfgWrite req n (2 * b2n v + s.rd .HTCH_TX_CFG_FORCE_AIS n)

/-! ### Lines and commits -/

/-- Hitch of a line that enters Off: alignment and defects end, tag records queued are discarded and counted (Table 6.11); the history, the
counters and the held windows stay, and the intervals that run are SUSPECT (R199). -/
def State.hitchOff (s : State) (n : Nat) : State :=
  let x := s.hit n
  let s := s.count .HTCH_CNT x.tagq.length n 6
  let keep := s.rd .HTCH_DEF_UAS_SM n <<< 9 + s.rd .HTCH_DEF_UAS_PM n <<< 10
  let s := (s.setReg .HTCH_STAT 0 n).setReg .HTCH_DEF keep n
  let s := s.setHit n {
    held := x.held, uas := x.uas, count15 := x.count15, count24 := x.count24, sus15 := x.sus15, sus24 := x.sus24,
    dropped := x.dropped, gcc := x.gcc }
  (s.markIntervals n s.tod).lineConsequences n

/-- Hitch of a line that leaves Off: out of frame until a candidate is accepted; a Hub line has no alignment of its own (R24, R189). -/
def State.hitchOn (s : State) (n : Nat) : State :=
  let x := s.hit n
  let s := (s.setHit n { x with window := { x.window with ozr := s.lineOzr n } }).markIntervals n s.tod
  if s.lineMode n = 2 then s else s.wr .HTCH_STAT_OOF 1 n

/-- Whether a line's framing breaks R178; it is checked on native lines out of Off. -/
def State.framingBad (s : State) (n : Nat) : Bool :=
  s.lineNative n && (s.checkedTables n).any fun l => !adequate (lineU (s.rd .CLET_LINE_CFG_OH n) l) (s.npg n)

/-- The rules of Table 6.12, rights apart. -/
def checkHitch (t : State) : Option Breach :=
  firstBreach [
    (1, lowest 3 t.lineDom fun n =>
      let a := t.rd .HTCH_LINE_CFG_ALIGN_N n
      a < 2 || 8 < a || t.rd .HTCH_LINE_CFG_ALIGN_M n < 3 || t.rd .HTCH_LINE_CFG_LOF_SET n == 0 ||
        t.rd .HTCH_LINE_CFG_LOF_CLR n == 0),
    (2, lowest 3 t.lineDom t.framingBad),
    (3, lowest 3 t.lineDom fun n => t.rd .HTCH_LINE_CFG_TIM_MODE n != 0 && t.rd .HTCH_TTI_SMEXP_TTI n == 0)]

/-- What an applied HTCH commit does (R200, R201): on a line out of Off the settings before it hold until the next frame, and for the
present performance window. -/
def afterHitch (old new : State) : State :=
  new.each [0, 1, 2] fun n t =>
    let was := (old.reg .HTCH_LINE_CFG n, old.rd .HTCH_TTI_SMEXP_TTI n)
    let x := t.hit n
    if t.lineMode n = 0 then t.settleDefects n
    else t.setHit n { x with cfgOld := some (x.cfgOld.getD was), pmOld := some (x.pmOld.getD was) }

end Sys2Proof.Machine
end

