-- ==== Sys2Proof/Machine/Cleat.lean ====
section
/-! DEFINITION. Cleat (chapter 5): decoder iterations, NGMI, demand and margin, the Lashing code, FEC-SD. -/

namespace Sys2Proof.Machine

open Sys2Proof

/-- What Cleat holds for a line, replaced. -/
def State.setClt (s : State) (n : Nat) (x : CleatInt) : State := { s with cleat := s.cleat.put {} n x }

/-- What Bight holds for a line. -/
def State.bgt (s : State) (n : Nat) : BightInt := s.bight.get {} n

/-- The same, replaced. -/
def State.setBgt (s : State) (n : Nat) (x : BightInt) : State := { s with bight := s.bight.put {} n x }

/-- The subcarriers that Cleat decodes, by first slot: those of the receive layout, on a Hub line the upstream ones, in 800ZR framing
the one carrier, shown at slot 0 (log entry 10). -/
def State.decSlots (s : State) (n : Nat) : List Nat :=
  if s.lineMode n = 0 then []
  else if s.lineOzr n then [0]
  else if s.lineMode n = 2 then s.firstSlots .BGHT_UP_CFG_WIDTH n
  else s.firstSlots .SPLC_SC_CFG_WIDTH n

/-- The base and entropy code that a decoded subcarrier runs: from the receive table in force, or the profile of the upstream burst
received last. -/
def State.decPair (s : State) (n slot : Nat) : Nat × Nat :=
  if s.lineMode n = 2 then
    let u := (s.bgt n).subs.get {} slot
    (u.base, u.ent)
  else match (s.spl n).table.find? fun e => e.1 == slot with
    | some e => e.2
    | none => (0, 0)

/-- The label bits of a block in units of 1,152: m for an amplitude-shaped base, for QPSK the entropy itself over 16 (R147); given in
sixteenths. -/
def labels16 (p : Nat × Nat) : Nat := match p.1 with | 0 => p.2 | 1 => 64 | 2 => 96 | _ => 128

/-- The inner parity share of the code that a line's received subcarriers use (R145, R164). -/
def State.decParity (s : State) (n : Nat) : Nat × Nat :=
  ohParity (if s.lineMode n = 2 then s.rd .CLET_LINE_CFG_BURST_OH n else (s.clt n).rxOh)

/-- The threshold gap G(I) in thousandths (Table 5.2). -/
def gap1000 (i : Nat) : Nat :=
  match i with
  | 4 => 35 | 5 => 31 | 6 => 28 | 7 => 26 | 8 => 25 | 9 => 24 | 10 => 23 | 11 => 23 | 12 => 22 | 13 => 22 | _ => 21

/-- The threshold T(I) of a subcarrier as a fraction (R158); in 800ZR framing that of R165 for OZR_ITER. -/
def State.threshold (s : State) (n slot i : Nat) : Int × Nat :=
  if s.lineOzr n then ((match i with | 2 => 866 | 3 => 860 | _ => 857), 1000)
  else
    let p := s.decPair n slot
    let (a, b) := s.decParity n
    let den := b * max 1 (labels16 p) * 1000
    ((den : Int) - (a * p.2 * 1000 : Nat) + (gap1000 i * b * labels16 p : Nat), den)

/-- The margin of an NGMI over T(I) in units of 1/65,536, rounded down (log entry 11). -/
def State.marginOf (s : State) (n slot ngmi i : Nat) : Int :=
  let (t, d) := s.threshold n slot i
  ((ngmi : Int) * d - t * 65536) / d

/-- A field of CLET_SC_CFG as it is in force: what a write has replaced holds until the next modulation frame (R170). -/
def State.scCfg (s : State) (n slot : Nat) (f : Fld) : Nat :=
  match (s.clt n).oldSc.get none slot with
  | some v => bits v f.hi f.lo
  | none => s.rd f n slot

/-- What a write of a subcarrier's CLET_SC_CFG replaces is kept until the next modulation frame of a running native line (R170). -/
def State.keepSc (s : State) (n slot : Nat) : State :=
  let x := s.clt n
  if s.lineMode n = 0 || s.lineOzr n || (x.oldSc.get none slot).isSome then s
  else s.setClt n { x with oldSc := x.oldSc.put none slot (some (s.reg .CLET_SC_CFG n slot)) }

/-- The same for CLET_SD_CFG. -/
def State.keepSd (s : State) (n : Nat) : State :=
  let x := s.clt n
  if s.lineMode n = 0 || s.lineOzr n || x.oldSd.isSome then s else s.setClt n { x with oldSd := some (s.reg .CLET_SD_CFG n) }

/-- A field of CLET_SD_CFG as it is in force (R170). -/
def State.sdCfg (s : State) (n : Nat) (f : Fld) : Nat :=
  match (s.clt n).oldSd with
  | some v => bits v f.hi f.lo
  | none => s.rd f n

/-- Whether an NGMI reaches T(I) plus the guard (R159). -/
def State.suffices (s : State) (n slot ngmi i : Nat) : Bool :=
  let (t, d) := s.threshold n slot i
  decide (t * 65536 + (s.scCfg n slot .CLET_SC_CFG_DEM_GUARD * d : Nat) ≤ ((ngmi * d : Nat) : Int))

/-- The iteration demand (R159): the smallest sufficient I, 17 for none, 0 for no NGMI. In 800ZR framing, where Belay grants nothing,
none is reported (log entry 10). -/
def State.demandOf (s : State) (n slot ngmi : Nat) : Nat :=
  if ngmi = 0 ∨ s.lineOzr n then 0
  else match [4, 5, 6, 7, 8, 9, 10, 11, 12, 13, 14, 15, 16].find? fun i => s.suffices n slot ngmi i with
    | some i => i
    | none => 17

/-- The least and greatest iterations of a subcarrier (R160, R170, R433): ITER_MIN, and the lower of ITER_MAX and AGE_ITER, never below
ITER_MIN. -/
def State.iterLeast (s : State) (n slot : Nat) : Nat := s.rd .CLET_SC_CFG_ITER_MIN n slot

/-- The greatest. -/
def State.iterMost (s : State) (n slot : Nat) : Nat :=
  max (s.iterLeast n slot) (min (s.rd .CLET_SC_CFG_ITER_MAX n slot) (s.rd .TALY_AGE_ST_AGE_ITER))

/-- An iteration count clipped to the bounds. -/
def State.clipIter (s : State) (n slot i : Nat) : Nat := max (s.iterLeast n slot) (min i (s.iterMost n slot))

/-- The iterations in force at the next frame: Belay's grant while Belay gives one, else ITER_DEF, both clipped (R160); in 800ZR
framing OZR_ITER (R165). -/
def State.iterGrant (s : State) (n slot : Nat) : Nat :=
  if s.lineOzr n then s.rd .CLET_LINE_CFG_OZR_ITER n
  else match (if s.alive 6 then s.belay.grants.get none (32 * n + slot) else none) with
    | some g => s.clipIter n slot g.iter
    | none => s.clipIter n slot (s.rd .CLET_SC_CFG_ITER_DEF n slot)

/-- The grants of iterations applied at a frame boundary (R160, R168), and SHORT counted; the settings written before it come into force
(R170). The grant of a subcarrier whose window is being cleared waits for the first block after the clear. -/
def State.applyIters (s : State) (n : Nat) : State :=
  let s := s.setClt n { s.clt n with oldSc := [], oldSd := none }
  let s := s.each (s.decSlots n) fun f t =>
    if (t.clt n).clearing.get 0 f = 0 then t.wr .CLET_SC_STAT_GRANT (t.iterGrant n f) n f else t
  s.wr .CLET_STAT_SHORT ((s.decSlots n).filter fun f => s.rd .CLET_SC_STAT_GRANT n f < s.rd .CLET_SC_STAT_DEMAND n f).length n

/-- FLUSH shows whether a window is being cleared. -/
def State.showFlush (s : State) (n : Nat) : State := s.wr .CLET_STAT_FLUSH (b2n (!(s.clt n).clearing.isEmpty)) n

/-- LOCK of a subcarrier returns (R157): its window is cleared, its next WIN blocks are errored, event 0x6005. -/
def State.lockReturns (s : State) (n slot : Nat) : State :=
  let x := s.clt n
  let s := (s.setClt n { x with
    clearing := x.clearing.put 0 slot (s.rd .CLET_LINE_CFG_WIN n), window := x.window.erase slot, msgs := x.msgs.erase slot,
    past := x.past.erase slot }).showFlush n
  s.raise .CLET_EVT_FLUSHED 0x6005 (s.slotDom n slot) [] false n

/-- The labels of a subcarrier's block as it arrives (R155, R157): its input values, or erasures without LOCK. -/
def State.softBlock (s : State) (n slot : Nat) (soft : List Int) : SoftBlock :=
  let p := s.decPair n slot
  let count := labelCount p.1 p.2
  let j := (s.clt n).rxJ.get 0 slot
  let erased := !s.on .SPLC_SC_EST_LOCK n slot
  { base := p.1, ent := p.2, par := blockParity (s.clt n).rxOh p.2 j, j := j, erased := erased,
    soft := if erased then List.replicate count 0 else (soft ++ List.replicate count 0).take count }

/-- Whether every check of some blocks holds, after the two before them (R153, R155). -/
def windowHolds : Nodes → Nodes → List Nodes → Bool
  | _, _, [] => true
  | b1, b2, d :: r => checksHold d b1 b2 && windowHolds d b1 r

/-- Iterations over a window (R155): as many as granted, or with early stop no more than leave every check satisfied. The messages and the
iterations run. -/
def iterate (tail early : Bool) (l : List SoftBlock) (ok : List Nodes → Bool) : Nat → List Int → List Int × Nat
  | 0, m => (m, 0)
  | k + 1, m =>
    let m := Config.minSumPass tail l m
    if early && ok (Config.minSumHard tail l m) then (m, 1)
    else
      let r := iterate tail early l ok k m
      (r.1, r.2 + 1)

/-- The labels that decoding has changed (Table 5.13). -/
def changedLabels (soft : List Int) (decided : List Bool) : Nat :=
  ((soft.zip decided).filter fun x => x.1 != 0 && decide (x.1 < 0) != x.2).length

/-- A native block decided: its labels counted as changed, the input values and labels that NGMI counts where every check holds (R158), and
its information bits, marked errored or not. -/
def State.decided (s : State) (n slot : Nat) (b : SoftBlock) (d : Nodes) (ok bad : Bool) : State × List RxBit :=
  let labels := decidedLabels b.base b.ent b.par d
  let s := s.count .CLET_CNT (changedLabels b.soft labels) n 1
  let x := s.clt n
  let s := if ok && !b.erased then
      s.setClt n { x with ngmi := x.ngmi.put [] slot (x.ngmi.get [] slot ++ b.soft.zip labels) }
    else s
  (s, (blockInfoBits b.base b.ent b.par labels).map fun v => (v, bad || b.erased))

/-- The oldest block leaves a window (R155, R157): its information bits wait for their tick. -/
def State.leaveWindow (s : State) (n slot : Nat) (b : SoftBlock) (d : Nodes) (ok : Bool) : State :=
  let left := (s.clt n).clearing.get 0 slot
  let (s, bits) := s.decided n slot b d ok (left != 0)
  let x := s.clt n
  let s := s.setClt n { x with
    clearing := x.clearing.put 0 slot (left - 1), past := x.past.put ({}, {}) slot (d, (x.past.get ({}, {}) slot).1),
    window := x.window.put [] slot ((x.window.get [] slot).drop 1), msgs := x.msgs,
    leaving := x.leaving.put [] slot (x.leaving.get [] slot ++ [(b.j, bits)]) }
  let s := s.showFlush n
  -- Table 5.3: a grant that came while the window was cleared applies from the first block after the clear.
  if left = 1 then s.wr .CLET_SC_STAT_GRANT (s.iterGrant n slot) n slot else s

/-- The width of a decoded subcarrier in slots. -/
def State.decWidth (s : State) (n slot : Nat) : Nat := slotWidth (s.rd .SPLC_SC_CFG_WIDTH n slot)

/-- A tick is complete once every subcarrier has brought its w blocks (R150): their bits join the coded stream in the order of the
subcarriers; the first block of a multiframe begins a new stream. -/
def State.dealTick (s : State) (n : Nat) : State :=
  let slots := s.decSlots n
  let x := s.clt n
  if slots.any fun f => (x.leaving.get [] f).length < s.decWidth n f then s
  else
    let blocks := slots.flatMap fun f => (x.leaving.get [] f).take (s.decWidth n f)
    let bits := blocks.flatMap fun e => e.2
    let first := (blocks.head?.map fun e => e.1) == some 0
    let coded := match first, x.rxCoded.getLast? with
      | false, some l => x.rxCoded.dropLast ++ [l ++ bits]
      | _, _ => x.rxCoded ++ [bits]
    s.setClt n { x with
      rxCoded := coded, leaving := slots.foldl (fun t f => t.put [] f ((t.get [] f).drop (s.decWidth n f))) x.leaving }

/-- WINDOW_SHIFT of a native line: a block arrives with its input values, the granted iterations run over the window (fewer with EARLY_EN),
and once the window is full the oldest block leaves it (R155). -/
def State.shiftNative (s : State) (n slot : Nat) (soft : List Int) : State :=
  let b := s.softBlock n slot soft
  let g := s.rd .CLET_SC_STAT_GRANT n slot
  let x := s.clt n
  let l := x.window.get [] slot ++ [b]
  let past := x.past.get ({}, {}) slot
  let holds := windowHolds past.1 past.2
  let r := iterate false (s.on .CLET_LINE_CFG_EARLY_EN n) l holds g (x.msgs.get [] slot)
  let hard := Config.minSumHard false l r.1
  let s := ((s.count .CLET_CNT (labelCount b.base b.ent) n 0).count .CLET_CNT r.2 n 5).count .CLET_CNT (g - r.2) n 6
  let (a, c) := x.shifts.get (0, 0) slot
  let s := s.setClt n { s.clt n with
    window := x.window.put [] slot l, msgs := x.msgs.put [] slot r.1, rxJ := x.rxJ.put 0 slot ((b.j + 1) % (1792 * s.decWidth n slot)),
    shifts := x.shifts.put (0, 0) slot (a + 1, c + b2n (decide (r.2 < g))) }
  if s.rd .CLET_LINE_CFG_WIN n ≤ l.length then
    (s.leaveWindow n slot (l.headD b) (hard.headD {}) (holds hard)).dealTick n
  else s

/-- WINDOW_SHIFT in 800ZR framing (R165): OZR_ITER iterations of the oFEC over some input values, which GRANT shows; the decided bits wait for
their oFEC block, and the NGMI counts them where all checks hold (R158). -/
def State.shiftOzr (s : State) (n : Nat) (soft : List Int) : State :=
  let g := s.rd .CLET_LINE_CFG_OZR_ITER n
  let hard := Config.ofecHard g soft
  let s := (((s.count .CLET_CNT soft.length n 0).count .CLET_CNT (changedLabels soft hard) n 1).count .CLET_CNT g n 5).wr
    .CLET_SC_STAT_GRANT g n 0
  let x := s.clt n
  s.setClt n { x with
    rxCoded := [x.rxCoded.flatten ++ hard.map fun v => (v, false)],
    ngmi := if Config.ofecHolds g soft then x.ngmi.put [] 0 (x.ngmi.get [] 0 ++ soft.zip hard) else x.ngmi }

/-- WINDOW_SHIFT: a block of a subcarrier arrives at the decoder, with the input value of each of its labels. -/
def execWindowShift (n : Line) (slot : Slot) (soft : List Int) (s : State) : Res := act 12 s fun s =>
  if !(s.decSlots n).contains slot || s.lineMode n == 2 then s
  else if s.lineOzr n then s.shiftOzr n soft
  else s.shiftNative n slot soft

/-- The two's complement code of a margin in 16 bits; where the margin lies outside them the manual gives no code, and a free value
stands for it (log entry 2). -/
def State.marginCode (s : State) (m : Int) : State × Nat :=
  if -32768 ≤ m ∧ m ≤ 32767 then (s, unsigned 16 m)
  else
    let (t, v) := s.draw
    (t, v % 2 ^ 16)

/-- The iterations in force for a subcarrier, which its margin is taken for: its grant, in 800ZR framing OZR_ITER (R165). -/
def State.iterNow (s : State) (n slot : Nat) : Nat :=
  if s.lineOzr n then s.rd .CLET_LINE_CFG_OZR_ITER n else s.rd .CLET_SC_STAT_GRANT n slot

/-- NGMI, demand, MARGIN and EARLY of one subcarrier. -/
def State.measure (s : State) (n slot ngmi : Nat) : State :=
  let (a, b) := (s.clt n).shifts.get (0, 0) slot
  let s := ((s.wr .CLET_SC_STAT_NGMI ngmi n slot).wr .CLET_SC_STAT_DEMAND (s.demandOf n slot ngmi) n slot).wr .CLET_SC_STAT_EARLY
    (if a = 0 then 0 else 100 * b / a) n slot
  let (t, v) := s.marginCode (s.marginOf n slot ngmi (s.iterNow n slot))
  t.wr .CLET_SC_STAT_MARGIN v n slot

/-- The lowest of some integers. -/
def leastInt : List Int → Option Int
  | [] => none
  | x :: r => some (r.foldl min x)

/-- The NGMI of a subcarrier in the multiframe (R158): 0 when no block has left its window with every check satisfied. -/
def State.ngmiOf (s : State) (n slot : Nat) : Nat :=
  match (s.clt n).ngmi.get [] slot with
  | [] => 0
  | l => min 65535 (Config.ngmiCode l)

/-- NGMI_MEASURE: the measurement of a multiframe (R158, R159). SHORT and MIN_MARGIN follow, what the second has shown against SD_SET and
SD_CLR is kept (R163, R170), and a protection path on a line out of frame lets a multiframe without a record pass (R275). -/
def execNgmiMeasure (n : Line) (s : State) : Res := act 12 s fun s =>
  let slots := s.decSlots n
  if slots.isEmpty then s
  else
    let s := s.each slots fun f t => t.measure n f (s.ngmiOf n f)
    let margins := slots.map fun f => s.marginOf n f (s.ngmiOf n f) (s.iterNow n f)
    let low := (leastInt margins).getD 0
    let (s, code) := s.marginCode low
    let s := (s.wr .CLET_STAT_MIN_MARGIN code n).wr .CLET_STAT_SHORT
      (slots.filter fun f => s.rd .CLET_SC_STAT_GRANT n f < s.rd .CLET_SC_STAT_DEMAND n f).length n
    let set := s.sdCfg n .CLET_SD_CFG_SD_SET
    let clr := max set (s.sdCfg n .CLET_SD_CFG_SD_CLR)
    let x := s.clt n
    let s := s.setClt n { x with shifts := [], ngmi := [], below := x.below || low < set, unclear := x.unclear || low < clr }
    if s.on .HTCH_STAT_IN_FRAME n then s else s.bendFrame n 0 []

/-- A full second with a grant below the demand (R161): event 0x6004. -/
def execShortSecond (n : Line) (slot : Slot) (s : State) : Res := act 12 s fun s =>
  if (s.decSlots n).contains slot && decide (s.rd .CLET_SC_STAT_GRANT n slot < s.rd .CLET_SC_STAT_DEMAND n slot) then
    s.raise .CLET_EVT_STARVED 0x6004 (s.slotDom n slot) [] false n
  else s

/-- The count of one Lashing codeword, or in 800ZR framing one oFEC block (R162, R165): the bits corrected, or uncorrectable with
event 0x6003 at most once per second. -/
def State.lashing (s : State) (n : Nat) (corrected : Option Nat) : State :=
  let s := s.count .CLET_CNT 1 n 2
  match corrected with
  | some c => if s.lineOzr n then s else s.count .CLET_CNT c n 3
  | none =>
    let s := s.count .CLET_CNT 1 n 4
    if (s.clt n).uncSaid then s
    else (s.setClt n { s.clt n with uncSaid := true }).raise .CLET_EVT_UNCORR 0x6003 (s.lineDom n) [] false n

/-- The next codeword of the received streams (R151): 3,840 bits, or at the end of a multiframe the shortened rest of at least 61; fewer
belong to no codeword. -/
def nextWord : List (List RxBit) → Option (List RxBit × List (List RxBit))
  | [] => none
  | l :: r =>
    if 3840 ≤ l.length then some (l.take 3840, l.drop 3840 :: r)
    else if r.isEmpty then none
    else if 61 ≤ l.length then some (l, r)
    else nextWord r

/-- Decoded bits passed to Hitch. -/
def State.toHitch (s : State) (n : Nat) (bits : List RxBit) : State := s.setHit n { s.hit n with rxBits := (s.hit n).rxBits ++ bits }

/-- A codeword decoded (R151, R162): its information bits go to Hitch, corrected, or as received and marked errored. -/
def State.takeWord63 (s : State) (n : Nat) (w : List RxBit) : State :=
  let k := w.length - 60
  match lashingCorrect (w.map fun b => b.1) with
  | some (v, c) => (s.lashing n (some c)).toHitch n ((v.zip (w.map fun b => b.2)).take k)
  | none => (s.lashing n none).toHitch n ((w.take k).map fun b => (b.1, true))

/-- LASHING_CODEWORD: the next Lashing codeword that has come in whole is decoded (R151, R162); in 800ZR framing the next oFEC block
(R165). -/
def execLashingCodeword (n : Line) (s : State) : Res := act 12 s fun s =>
  let x := s.clt n
  if s.lineMode n = 0 then s
  else if s.lineOzr n then
    let l := x.rxCoded.flatten
    if l.length < Config.ofecBlock || l.isEmpty then s
    else
      let w := l.take Config.ofecBlock
      let s := s.setClt n { x with rxCoded := [l.drop Config.ofecBlock] }
      match Config.ofecDecode (w.map fun b => b.1) with
      | some (v, c) => (s.lashing n (some c)).toHitch n (v.map fun b => (b, false))
      | none => (s.lashing n none).toHitch n (w.map fun b => (b.1, true))
  else
    match nextWord x.rxCoded with
    | some (w, rest) => (s.setClt n { x with rxCoded := rest }).takeWord63 n w
    | none => s

/-- FEC-SD asserted or cleared (R163). -/
def State.setSd (s : State) (n : Nat) (v : Bool) : State :=
  let s := s.wr .CLET_STAT_FEC_SD (b2n v) n
  let s := if v then s.raise .CLET_EVT_SD_SET 0x6001 (s.lineDom n) [] false n
    else s.raise .CLET_EVT_SD_CLEAR 0x6002 (s.lineDom n) [] false n
  s.settleDefects n

/-- The end of a second (R163). -/
def execFecSdSecond (n : Line) (s : State) : Res := act 12 s fun s =>
  if s.lineMode n = 0 then s
  else
    let x := s.clt n
    let low := if x.below then x.lowSeconds + 1 else 0
    let high := if x.unclear then 0 else x.highSeconds + 1
    let need := s.sdCfg n .CLET_SD_CFG_SD_SECS
    let s := s.setClt n { x with below := false, unclear := false, lowSeconds := min 15 low, highSeconds := min 15 high }
    if s.on .CLET_STAT_FEC_SD n then (if need ≤ high then s.setSd n false else s)
    else if need ≤ low then s.setSd n true
    else s

/-- What Cleat may report once in each second, allowed anew. -/
def State.cleatSecond (s : State) : State := s.each [0, 1, 2] fun n t => t.setClt n { t.clt n with uncSaid := false }

/-- Cleat after a change of the receive layout: registers of subcarriers that do not exist read as reset (Table 5.12), and what has been
received of a stream that no longer exists goes. -/
def State.cleatLayout (s : State) (n : Nat) : State :=
  let live := s.decSlots n
  let x := s.clt n
  let s := (s.setClt n { x with
    clearing := x.clearing.filter fun e => live.contains e.1, shifts := x.shifts.filter fun e => live.contains e.1,
    rxJ := [], window := [], msgs := [], past := [], leaving := [], ngmi := [], rxCoded := [] }).showFlush n
  s.each (List.range 32) fun f t => if live.contains f then t else t.setReg .CLET_SC_STAT 0 n f

/-- Cleat of a line that enters Off. -/
def State.cleatOff (s : State) (n : Nat) : State :=
  ((s.setClt n { txOh := (s.clt n).txOh, rxOh := (s.clt n).rxOh }).setReg .CLET_STAT 0 n).cleatLayout n

/-- Cleat of a line that leaves Off: the committed overhead is in force in both directions. -/
def State.cleatOn (s : State) (n : Nat) : State :=
  let oh := s.rd .CLET_LINE_CFG_OH n
  s.setClt n { txOh := oh, rxOh := oh }

/-- The rules of Table 5.4. -/
def checkCleat (old t : State) : Option Breach :=
  firstBreach [
    (1, lowest 3 t.lineDom fun n =>
      let w := t.rd .CLET_LINE_CFG_WIN n
      let o := t.rd .CLET_LINE_CFG_OZR_ITER n
      w < 6 || 16 < w || o < 2 || 4 < o),
    (2, lowest 3 t.lineDom fun n =>
      old.rd .CLET_LINE_CFG_BURST_OH n != t.rd .CLET_LINE_CFG_BURST_OH n && t.lineMode n == 2 &&
        (List.range 256).any fun i => t.on .BGHT_LEAF_EN n i && t.rd .BGHT_LEAF_ST_STATE n i != 0)]

/-- What an applied CLET commit does (R169): a change of OH on a running line waits for each direction's multiframe; on a line in Off
it is in force from the start. -/
def afterCleat (new : State) : State :=
  new.each [0, 1, 2] fun n t =>
    let oh := t.rd .CLET_LINE_CFG_OH n
    let x := t.clt n
    if t.lineMode n = 0 then t.setClt n { x with txOh := oh, rxOh := oh }
    else t.setClt n { x with txDue := x.txOh != oh, rxDue := x.rxOh != oh }

end Sys2Proof.Machine
end

