-- ==== Sys2Proof/Machine/Braid.lean ====
section
/-! DEFINITION. Braid and the transmit converters of Strand (chapter 2): the loading engine, the agreement on a table, fallback and forced
reversion, layouts, calibrations. -/

namespace Sys2Proof.Machine

open Sys2Proof

/-- What Braid holds for a line. -/
def State.brd (s : State) (n : Nat) : BraidInt := s.braid.get {} n

/-- The same, replaced. -/
def State.setBrd (s : State) (n : Nat) (x : BraidInt) : State := { s with braid := s.braid.put {} n x }

/-- What Strand holds for a line. -/
def State.str (s : State) (n : Nat) : StrandInt := s.strand.get {} n

/-- The same, replaced. -/
def State.setStr (s : State) (n : Nat) (x : StrandInt) : State := { s with strand := s.strand.put {} n x }

/-- Whether a line runs the loading loop of Table 2.2 (R68): native framing, not a Hub line. -/
def State.loads (s : State) (n : Nat) : Bool := s.lineNative n && s.lineMode n != 2

/-- An event of Braid for a line, which goes to the line's domain. -/
def State.braidEvent (s : State) (n : Nat) (f : Fld) (code : Nat) : State := s.raise f code (s.lineDom n) [] false n

/-! ### The tables sent -/

/-- The start table of a line (R65); on a Hub line the control subcarrier is QPSK with H = 2.00 whatever its entry says (R107), and
800ZR framing has no subcarriers (R71). -/
def State.startTable (s : State) (n : Nat) : List (Nat × Nat × Nat) :=
  (if s.lineOzr n then [] else s.firstSlots .BRAD_SC_CFG_WIDTH n).map fun f =>
    if s.lineMode n = 2 ∧ f = s.rd .BGHT_LINE_CFG_CTRL_SLOT n then (f, 0, 32)
    else (f, s.rd .BRAD_SC_LOAD_START_BASE n f, s.rd .BRAD_SC_LOAD_START_ENT n f)

/-- One subcarrier's base and entropy in force, with its capacity under R56. -/
def State.setAct (s : State) (n slot base ent : Nat) : State :=
  ((s.wr .BRAD_SC_ACT_BASE base n slot).wr .BRAD_SC_ACT_ENT ent n slot).wr .BRAD_SC_ACT_CAP_TS
    (capTs (s.clt n).txOh (slotWidth (s.rd .BRAD_SC_CFG_WIDTH n slot), ent)) n slot

/-- A table takes effect on transmit: the slots of no subcarrier read as reset. -/
def State.setTx (s : State) (n id : Nat) (table : List (Nat × Nat × Nat)) : State :=
  let s := s.each (List.range 32) fun f t =>
    match table.find? fun e => e.1 == f with
    | some (_, b, e) => t.setAct n f b e
    | none => t.setReg .BRAD_SC_ACT (regReset ⟨.BRAD_SC_ACT, n, f, 0⟩) n f
  s.wr .BRAD_LOAD_STAT_ACTIVE_ID id n

/-- The table in force on transmit. -/
def State.txTable (s : State) (n : Nat) : List (Nat × Nat × Nat) :=
  (s.firstSlots .BRAD_SC_CFG_WIDTH n).map fun f => (f, s.rd .BRAD_SC_ACT_BASE n f, s.rd .BRAD_SC_ACT_ENT n f)

/-- No proposal and no countdown: STATE is Idle. -/
def State.idleTx (s : State) (n : Nat) : State :=
  ((s.wr .BRAD_LOAD_STAT_STATE 0 n).wr .BRAD_LOAD_STAT_PEND_ID 0 n).wr .BRAD_LOAD_STAT_COUNT 0 n

/-- A line is back on its start table with nothing in flight (R70, R169, R483). -/
def State.startTx (s : State) (n : Nat) : State :=
  let s := (s.idleTx n).setTx n 0 (s.startTable n)
  s.setBrd n { lastId := (s.brd n).lastId, floorHeld := (s.brd n).floorHeld }

/-! ### Selection (R58 to R60) -/

/-- An entry of BRAD_MAP: THRESH and BASE. -/
def State.mapEntry (s : State) (n k : Nat) : Nat × Nat := (s.rd .BRAD_MAP_THRESH n k, s.rd .BRAD_MAP_BASE n k)

/-- The largest map entry that may be chosen and passes a test of its threshold (R58). -/
def State.bestEntry (s : State) (n : Nat) (p : Nat → Bool) : Option Nat :=
  (List.range 101).reverse.find? fun k =>
    let (t, b) := s.mapEntry n k
    t != 255 && pairOk b (24 + k) && p t

/-- The evaluations that DWELL seconds hold, with the one at their start: one per 1,024 multiframes of 256 × 4,096 symbols at 9 GBd. -/
def State.dwellCount (s : State) (n : Nat) : Nat := ceilDiv (s.rd .BRAD_LOAD_CFG_DWELL n * 9000000000) 1073741824 + 1

/-- The lowest base whose range contains an entropy (Table 2.1). -/
def lowestBase (ent : Nat) : Nat := ([0, 1, 2, 3].find? fun b => pairOk b ent).getD 0

/-- The base of a clipped entropy (R58). -/
def State.baseFor (s : State) (n ent : Nat) : Nat :=
  let b := (s.mapEntry n (ent - 24)).2
  if 24 ≤ ent && pairOk b ent then b else lowestBase ent

/-- An entropy and base clipped to a floor and a ceiling (R58): the codes 33 to 39 that no base carries are left downwards at the
ceiling and upwards at the floor, and the floor governs. -/
def State.clipPair (s : State) (n least most base ent : Nat) : Nat × Nat :=
  let gap (x : Nat) : Bool := decide (32 < x ∧ x < 40)
  let x := if most < ent then (if gap most then 32 else most) else ent
  let y := if x < least then (if gap least then 40 else least) else x
  if y = ent then (base, ent) else (s.baseFor n y, y)

/-- The choice for a subcarrier on an averaging period (R58): the sum and number of its reports, the past averages with this one in
front, its pair in force, and its bounds; with it, whether it is held at its floor although the SNR calls for less (R60). It is
lowered at once; it is raised to the largest entry that every evaluation of DWELL seconds has exceeded (log entry 12), never by the
floor beyond what the SNR carries, and a period without a valid report ends such a run (log entry 75). -/
def State.chooseLoad (s : State) (n : Nat) (avg : Nat × Nat) (past : List (Nat × Nat)) (now : Nat × Nat) (least most : Nat) :
    (Nat × Nat) × Bool :=
  let margin := s.rd .BRAD_LOAD_CFG_MARGIN n
  let hyst := s.rd .BRAD_LOAD_CFG_HYST n
  let held := past.take (s.dwellCount n)
  let long := decide (s.dwellCount n ≤ past.length)
  let raised (t : Nat) : Bool := long && held.all fun a => (t + margin + hyst) * a.2 < a.1
  let want := match s.bestEntry n fun t => (t + margin) * avg.2 ≤ avg.1 with
    | some k => ((s.mapEntry n k).2, 24 + k)
    | none => (0, 0)
  let pick := s.clipPair n least most want.1 want.2
  if pick.2 ≤ now.2 then (pick, decide (want.2 < pick.2))
  else
    match s.bestEntry n fun t => (t + margin) * avg.2 ≤ avg.1 && raised t with
    | some r =>
      let up := s.clipPair n least most (s.mapEntry n r).2 (24 + r)
      (if now.2 < up.2 ∧ up.2 ≤ 24 + r then up else now, false)
    | none => (now, false)

/-- The effective ceiling of a subcarrier (R58): the lower of CEIL_ENT and AGE_ENT of the line. -/
def State.effCeil (s : State) (n slot : Nat) : Nat := min (s.rd .BRAD_SC_LOAD_CEIL_ENT n slot) (s.rd .TALY_AGE_LINE_AGE_ENT n)

/-- What the engine chooses for a subcarrier from the average it took last; one without a valid report keeps what it has. -/
def State.chooseSlot (s : State) (n slot : Nat) : (Nat × Nat) × Bool :=
  let past := (s.brd n).past.get [] slot
  let now := (s.rd .BRAD_SC_ACT_BASE n slot, s.rd .BRAD_SC_ACT_ENT n slot)
  match past with
  | (sum, num) :: _ =>
    if num = 0 then (now, (s.brd n).floorHeld.contains slot)
    else s.chooseLoad n (sum, num) past now (s.rd .BRAD_SC_LOAD_FLOOR_ENT n slot) (s.effCeil n slot)
  | [] => (now, false)

/-- Subcarriers held at their floor (R60, R520): event 0x4804 once for each that comes to be held. -/
def State.holdFloor (s : State) (n slot : Nat) (held : Bool) : State :=
  let x := s.brd n
  if held && !x.floorHeld.contains slot then
    (s.setBrd n { x with floorHeld := slot :: x.floorHeld }).braidEvent n .BRAD_LOAD_EVT_FLOOR_HELD 0x4804
  else if held then s
  else s.setBrd n { x with floorHeld := x.floorHeld.filter fun f => f != slot }

/-- The next ANN_ID: 1 to 15 in turn, never that of the table in force (R61 asks for a new one and names none: log entry 75). -/
def State.nextId (s : State) (n : Nat) : Nat :=
  let a := (s.brd n).lastId % 15 + 1
  if a = s.rd .BRAD_LOAD_STAT_ACTIVE_ID n then a % 15 + 1 else a

/-- A table proposed (R61 step 1), unless it is the one in force (R59). -/
def State.propose (s : State) (n : Nat) (table : List (Nat × Nat × Nat)) : State :=
  if table = s.txTable n then s
  else
    let id := s.nextId n
    ((s.wr .BRAD_LOAD_STAT_STATE 1 n).wr .BRAD_LOAD_STAT_PEND_ID id n).setBrd n { s.brd n with table := table, lastId := id }

/-- The engine's choice for every subcarrier proposed. -/
def State.proposeChoice (s : State) (n : Nat) : State :=
  s.propose n ((s.firstSlots .BRAD_SC_CFG_WIDTH n).map fun f => (f, (s.chooseSlot n f).1))

/-- The effective-ceiling table proposed (R59). -/
def State.proposeManual (s : State) (n : Nat) : State :=
  s.propose n ((s.firstSlots .BRAD_SC_CFG_WIDTH n).map fun f =>
    (f, s.clipPair n (s.rd .BRAD_SC_LOAD_FLOOR_ENT n f) (s.effCeil n f) 0 128))

/-- Every 1,024 multiframes (R58): the averages are taken, FLOOR_HELD follows (R60), and with LOAD_AUTO the choice is proposed; during a
proposal it is acted on when the proposal ends (R59). -/
def execLoadingEvaluation (n : Line) (s : State) : Res := act 9 s fun s =>
  if !s.loads n then s
  else
    let slots := s.firstSlots .BRAD_SC_CFG_WIDTH n
    let s := s.each slots fun f t =>
      let x := t.brd n
      let avg := x.sums.get (0, 0) f
      t.setBrd n { x with past := x.past.put [] f ((avg :: x.past.get [] f).take (t.dwellCount n)) }
    let s := s.setBrd n { s.brd n with sums := [] }
    let s := s.each slots fun f t => t.holdFloor n f (t.chooseSlot n f).2
    if !s.on .BRAD_LINE_CFG_LOAD_AUTO n then s
    else if s.rd .BRAD_LOAD_STAT_STATE n = 0 then s.proposeChoice n
    else s.setBrd n { s.brd n with evalHeld := true }

/-! ### The agreement (R61 to R66) -/

/-- A countdown started (R61 step 3). -/
def State.countDown (s : State) (n state id : Nat) (table : List (Nat × Nat × Nat)) : State :=
  (((s.wr .BRAD_LOAD_STAT_STATE state n).wr .BRAD_LOAD_STAT_PEND_ID id n).wr .BRAD_LOAD_STAT_COUNT
    (s.rd .BRAD_LINE_CFG_ANN_COUNT n) n).setBrd n { s.brd n with table := table }

/-- A forced reversion to the start table (R66): event 0x4805, a countdown without ARMED under identifier 0 (log entry 13); one that
arises during a countdown waits for its end. -/
def State.forceStart (s : State) (n : Nat) : State :=
  let st := s.rd .BRAD_LOAD_STAT_STATE n
  if st = 3 then s
  else if st = 2 then s.setBrd n { s.brd n with revertHeld := true }
  else (s.braidEvent n .BRAD_LOAD_EVT_FORCED_START 0x4805).countDown n 3 0 (s.startTable n)

/-- A proposal or countdown has ended: what was kept for its end is acted on (R59, R66). -/
def State.afterProposal (s : State) (n : Nat) : State :=
  let x := s.brd n
  let s := s.setBrd n { x with revertHeld := false, manHeld := false, evalHeld := false }
  if x.revertHeld then (s.forceStart n).setBrd n { (s.forceStart n).brd n with manHeld := x.manHeld, evalHeld := x.evalHeld }
  else if x.manHeld && !s.on .BRAD_LINE_CFG_LOAD_AUTO n then s.proposeManual n
  else if x.evalHeld && s.on .BRAD_LINE_CFG_LOAD_AUTO n then s.proposeChoice n
  else s

/-- A proposal withdrawn: the active table is kept; the engine evaluates again after one averaging period (R63). -/
def State.withdraw (s : State) (n : Nat) : State :=
  let s := s.idleTx n
  (s.setBrd n { s.brd n with table := [], evalHeld := false }).afterProposal n

/-- ARM_STATE and ARM_ID of the far end (R61 step 3, R63): they act on the proposal whose ANN_ID they carry. -/
def State.takeArm (s : State) (n arm id : Nat) : State :=
  if s.rd .BRAD_LOAD_STAT_STATE n = 1 ∧ id = s.rd .BRAD_LOAD_STAT_PEND_ID n then
    if arm = 1 then s.countDown n 2 id (s.brd n).table
    else if arm = 2 then (s.braidEvent n .BRAD_LOAD_EVT_REJECTED 0x4803).withdraw n
    else s
  else s

/-- No answer within ARM_TIMEOUT (R63). -/
def execArmTimeout (n : Line) (s : State) : Res := act 9 s fun s =>
  if s.rd .BRAD_LOAD_STAT_STATE n = 1 then (s.braidEvent n .BRAD_LOAD_EVT_TIMEOUT 0x4802).withdraw n else s

/-- A transmit multiframe of a countdown (R61): the count goes down; after the multiframe with count 1 the table takes effect with event
0x4801, and FRAME_SHORT is evaluated (R180). -/
def execCountdownTick (n : Line) (s : State) : Res := act 9 s fun s =>
  let c := s.rd .BRAD_LOAD_STAT_COUNT n
  if s.rd .BRAD_LOAD_STAT_STATE n < 2 then s
  else if 1 < c then s.wr .BRAD_LOAD_STAT_COUNT (c - 1) n
  else
    let id := s.rd .BRAD_LOAD_STAT_PEND_ID n
    let s := ((s.setTx n id (s.brd n).table).idleTx n).braidEvent n .BRAD_LOAD_EVT_SWITCHED 0x4801
    ((s.setBrd n { s.brd n with table := [] }).frameShort n).afterProposal n

/-- The own receiver has been in fallback for FALLBACK milliseconds (R66). -/
def execForcedReversion (n : Line) (s : State) : Res := act 9 s fun s =>
  if s.loads n && s.on .BRAD_LOAD_STAT_RX_FALLBACK n then s.forceStart n else s

/-- A run-time write of a line's register: Operator rights for a domain (Table 16.1). -/
def State.runWrite (s : State) (req : Requester) (dom : Nat) (key : RegKey) (new : Nat) (f : State → State) : State :=
  s.write req 1 [dom] (regAddr key) (s.regs.get key) new false f

/-- The effect of MAN_GO (R59, R67): it acts with LOAD_AUTO = 0 only, and is kept during a proposal. -/
def State.manGo (s : State) (n : Nat) : State :=
  if !s.loads n || s.on .BRAD_LINE_CFG_LOAD_AUTO n then s
  else if s.rd .BRAD_LOAD_STAT_STATE n = 0 then s.proposeManual n
  else s.setBrd n { s.brd n with manHeld := true }

/-- A write of BRAD_LOAD_CFG with MAN_GO. -/
def execManGo (req : Requester) (n : Line) (s : State) : Res := access req 9 s fun s =>
  s.runWrite req (s.lineDom n) ⟨.BRAD_LOAD_CFG, n, 0, 0⟩ (s.reg .BRAD_LOAD_CFG n + 2 ^ 63) fun t => t.manGo n

/-! ### The bit-loading update field (R57, Table 2.2) -/

/-- The layout of slots whose CRC the update carries (R70): byte s holds the WIDTH code of slot s. -/
def State.layoutCrc (s : State) (width : Fld) (n : Nat) : Nat := crc16 ((List.range 32).map fun f => BitVec.ofNat 8 (s.rd width n f))

/-- ANN_CRC: over ANN_ID and ANN_TABLE, in the order in which they are sent (R4, R57). -/
def annCrc (id : Nat) (entries : List Nat) : Nat := crc16Bits (msbFirst 4 id ++ entries.flatMap (msbFirst 9))

/-- The number that a string of bytes spells, byte 0 most significant: items of Table 2.2 are sent first item first, each from its most
significant bit (Table 6.2). -/
def bigVal (bs : List Byte) : Nat := bs.foldl (fun a b => a * 256 + b.toNat) 0

/-- An item of the update: its first bit counted from the field's start, and its width. -/
def blItem (v off w : Nat) : Nat := (v >>> (640 - off - w)) % 2 ^ w

/-- A bit string as bytes, the first bit in bit 7 of byte 0. -/
def packBits (n v : Nat) : List Byte := (leBytes n v).reverse

/-- The update that a line sends: the SNR its receiver measured (R101), the announcement, the answer, FALLBACK, the layout. With nothing
announced ANN_ID is 0, ANN_TABLE zeros and ANN_CRC that over them (log entry 75). -/
def State.blUpdate (s : State) (n : Nat) : List Byte :=
  let rx := s.spl n
  let st := s.rd .BRAD_LOAD_STAT_STATE n
  let id := s.rd .BRAD_LOAD_STAT_PEND_ID n
  let table := (s.brd n).table
  let entry (f : Nat) : Nat := match table.find? fun e => e.1 == f with
    | some (_, b, e) => b * 128 + e
    | none => 0
  let entries := (List.range 32).map entry
  let snr := (List.range 32).map fun f => s.rd .SPLC_SC_EST_SNR n f
  let items : List (Nat × Nat) := snr.map (fun v => (8, v)) ++ [(2, min st 2), (4, id), (4, s.rd .BRAD_LOAD_STAT_COUNT n)] ++
    entries.map (fun v => (9, v)) ++ [(16, annCrc id entries), (2, rx.armState), (4, rx.armId),
      (1, s.rd .BRAD_LOAD_STAT_RX_FALLBACK n), (16, s.layoutCrc .BRAD_SC_CFG_WIDTH n), (47, 0)]
  packBits 80 (items.foldl (fun a e => a * 2 ^ e.1 + e.2 % 2 ^ e.1) 0)

/-- What Braid takes from a received update (R58, R61, R63, R66, R70). -/
def State.braidUpdate (s : State) (n v : Nat) : State :=
  let slots := s.firstSlots .BRAD_SC_CFG_WIDTH n
  let s := s.each slots fun f t =>
    let r := blItem v (8 * f) 8
    let t := t.wr .BRAD_SC_ACT_FAR_SNR r n f
    if r = 255 then t
    else
      let x := t.brd n
      let (a, b) := x.sums.get (0, 0) f
      t.setBrd n { x with sums := x.sums.put (0, 0) f (a + r, b + 1) }
  let s := s.takeArm n (blItem v 570 2) (blItem v 572 4)
  let far := blItem v 576 1 == 1
  let was := s.on .BRAD_LOAD_STAT_FAR_FALLBACK n
  let s := s.wr .BRAD_LOAD_STAT_FAR_FALLBACK (b2n far) n
  let s := if far && !was then s.forceStart n else s
  let bad := blItem v 577 16 != s.layoutCrc .SPLC_SC_CFG_WIDTH n
  let had := s.on .BRAD_LOAD_STAT_LAYOUT_MISMATCH n
  let s := s.wr .BRAD_LOAD_STAT_LAYOUT_MISMATCH (b2n bad) n
  if bad && !had then s.braidEvent n .BRAD_LOAD_EVT_MISMATCH 0x4806 else s

/-! ### Table memories (R74) -/

/-- A write to an address that no register has (R8). -/
def State.unassignedWrite (s : State) : State := s.inc .TOP_ACC_ERR_UNASSIGNED_WR

/-- The effect of a write to a pre-distortion table: outside Off it is discarded and refused with cause 0xF (R74). -/
def State.pdWrite (s : State) (key : RegKey) (v : Nat) : State :=
  if s.lineMode key.i = 0 then s.setReg key.id (v % (if key.id = .BRAD_PD_FIR then 2 ^ 16 else 2 ^ 8)) key.i key.j key.k
  else s.refuse 9 15 key.i (s.lineDom key.i)

/-- A write to an entry of a pre-distortion table. -/
def execPdTableWrite (req : Requester) (n : Line) (lut : Bool) (t : Trib) (idx value : Nat) (s : State) : Res :=
  access req 9 s fun s =>
    let key : RegKey := ⟨if lut then .BRAD_PD_LUT else .BRAD_PD_FIR, n, t, idx⟩
    if regValid key then s.runWrite req (s.lineDom n) key value fun t => t.pdWrite key value else s.unassignedWrite

/-! ### The DACs (R72, R73, R483) -/

/-- Whether OPT_TXEN of a line is asserted: its laser may be enabled, its blocks run, and its Clove gate, where LNYD_GATE selects it, is
open (R297, R298, R483). -/
def State.laserOn (s : State) (n : Nat) : Bool :=
  s.alive 8 && s.lineMode n != 0 && (s.str n).txReady && s.drives ((s.rd .LNYD_GATE_G_TXEN).testBit n)

/-- The OPT_TXEN pins follow. -/
def State.refreshTxen (s : State) : State :=
  { s with pins := { s.pins with optTxen := [0, 1, 2].foldl (fun p n => p.put false n (s.laserOn n)) s.pins.optTxen } }

/-- Whether OPT_TXEN of a line is asserted now. -/
def State.txen (s : State) (n : Nat) : Bool := s.pins.optTxen.get false n

/-- BUSY of a line ends when both its calibrations have ended (R483). -/
def State.calEnded (s : State) (n : Nat) : State :=
  if s.rd .STRD_DAC_CAL_FG_STATE n = 1 ∨ s.rd .STRD_ADC_CAL_FG_STATE n = 1 then s else s.wr (busyFld n) 0

/-- A DAC foreground calibration starts. -/
def State.dacStart (s : State) (n : Nat) : State := (s.wr .STRD_DAC_CAL_FG_STATE 1 n).wr .STRD_DAC_CAL_FG_REQ 1 n

/-- The effect of FG_REQ of a line's DACs (R72): refused while OPT_TXEN is asserted or the line is Off. -/
def State.dacReq (s : State) (n : Nat) : State :=
  if s.rd .STRD_DAC_CAL_FG_STATE n = 1 then s
  else if s.lineMode n = 0 || s.txen n then (s.wr .STRD_DAC_CAL_FG_REQ 0 n).wr .STRD_DAC_CAL_FG_REFUSED 1 n
  else s.dacStart n

/-- A write of FG_REQ. -/
def execDacFgReq (req : Requester) (n : Line) (s : State) : Res := access req 8 s fun s =>
  s.runWrite req (s.lineDom n) ⟨.STRD_DAC_CAL, n, 0, 0⟩ (setBits (s.reg .STRD_DAC_CAL n) 0 0 1) fun t => t.dacReq n

/-- The sub-converters of a tributary, four of a DAC and eight of an ADC, each from its two values. -/
def calMap (f : Calib → Calib → Calib) (adc : Bool) (a b : List Calib) : List Calib :=
  (List.range (if adc then 8 else 4)).map fun u => f (a.getD u {}) (b.getD u {})

/-- Corrections added. -/
def calSum : Bool → List Calib → List Calib → List Calib :=
  calMap fun a b => ⟨a.offset + b.offset, a.gain + b.gain, a.timing + b.timing⟩

/-- What corrections leave when moves are taken from them. -/
def calRest : Bool → List Calib → List Calib → List Calib :=
  calMap fun a b => ⟨a.offset - b.offset, a.gain - b.gain, a.timing - b.timing⟩

/-- Whether nothing is left to correct. -/
def calZero (c : List Calib) : Bool := c.all fun x => x == {}

/-- A number kept within ± most. -/
def limited (most v : Int) : Int := max (-most) (min most v)

/-- The move of one background update (R73, R77): at most 0.05 ps and 0.01 dB, and 0.05 LSB at an ADC; R73 gives a DAC's offset no limit. -/
def calMove (adc : Bool) (c : List Calib) : List Calib :=
  c.map fun x => ⟨if adc then limited 50 x.offset else x.offset, limited 10 x.gain, limited 50 x.timing⟩

/-- A calibration result appended to the history (R73, R77). -/
def State.calResult (s : State) (n : Nat) (adc : Bool) (t : Nat) (c : List Calib) : State :=
  s.setStr n { s.str n with history := (adc, t, c) :: (s.str n).history }

/-- What a foreground calibration set at the four tributaries, in the order XI, XQ, YI, YQ (R72, R76). -/
def calTable (cal : List (List Calib)) : Tab (List Calib) := [0, 1, 2, 3].foldl (fun t k => t.put [] k (cal.getD k [])) []

/-- The results of a foreground calibration in the history. -/
def State.calResults (s : State) (n : Nat) (adc : Bool) (cal : List (List Calib)) : State :=
  s.each [0, 1, 2, 3] fun t u => u.calResult n adc t (cal.getD t [])

/-- A DAC foreground calibration ends (R72, R73, R483): a success sets every tributary's values, sends the start table at start-up and
enables the laser; a failure names a tributary in event 0x4001. -/
def execDacFgCalDone (n : Line) (ok : Bool) (t : Trib) (cal : List (List Calib)) (s : State) : Res := act 8 s fun s =>
  if s.rd .STRD_DAC_CAL_FG_STATE n != 1 then s
  else
    let s := (s.wr .STRD_DAC_CAL_FG_REQ 0 n).wr .STRD_DAC_CAL_FG_STATE (if ok then 2 else 3) n
    let s := if ok then (s.setStr n { s.str n with dac := calTable cal, dacRest := [] }).calResults n false cal else s
    let s := if !ok then (s.setStr n { s.str n with txReady := false }).raise .STRD_EVT_DAC_FG_FAIL 0x4001 (s.lineDom n) [n, t]
      else if (s.str n).txReady then s
      else (s.startTx n).setStr n { s.str n with txReady := true }
    (s.calEnded n).refreshTxen

/-- A background DAC update (R73) with the correction newly found: a correction too large for one move raises event 0x4002, once as it
begins (R520), and its rest is applied in later updates. -/
def execDacBgCalUpdate (n : Line) (t : Trib) (c : List Calib) (s : State) : Res := act 8 s fun s =>
  if s.lineMode n = 0 || !s.on .STRD_DAC_CAL_BG_EN n then s
  else
    let x := s.str n
    let old := x.dacRest.get [] t
    let need := calSum false old c
    let value := calSum false (x.dac.get [] t) (calMove false need)
    let rest := calRest false need (calMove false need)
    let s := (s.setStr n { x with dac := x.dac.put [] t value, dacRest := x.dacRest.put [] t rest }).calResult n false t value
    if !calZero rest && calZero old then s.raise .STRD_EVT_DAC_STEP 0x4002 (s.lineDom n) [n, t] else s

/-! ### Lines and commits -/

/-- Braid and the DACs of a line that enters Off (R32): the laser is disabled, a running calibration is abandoned. -/
def State.braidOff (s : State) (n : Nat) : State :=
  let cal := if s.rd .STRD_DAC_CAL_FG_STATE n = 1 then (s.wr .STRD_DAC_CAL_FG_STATE 0 n).wr .STRD_DAC_CAL_FG_REQ 0 n else s
  let s := (cal.setStr n { cal.str n with txReady := false }).setBrd n { lastId := (cal.brd n).lastId }
  let s := (s.setReg .BRAD_LOAD_STAT 0 n).setTx n 0 []
  s.refreshTxen

/-- The DACs of a line that leaves Off: the foreground calibration starts (R72, R483). -/
def State.braidOn (s : State) (n : Nat) : State := (s.setTx n 0 (s.startTable n)).dacStart n

/-- Whether a layout breaks R41: a WIDTH code above the greatest, a subcarrier off its width multiple, or two that overlap. -/
def State.layoutBad (s : State) (width : Fld) (most n : Nat) : Bool :=
  (List.range 32).any fun f =>
    let c := s.rd width n f
    let w := slotWidth c
    most < c || (c != 0 && (f % w != 0 || (List.range 32).any fun g => f < g && g < f + w && s.rd width n g != 0))

/-- The fields of cause 0x4 of Table 2.5. -/
def State.braidRange (s : State) (n : Nat) : Bool :=
  s.rd .BRAD_LINE_CFG_ROLLOFF n == 0 || s.rd .BRAD_LINE_CFG_ANN_COUNT n < 2 ||
    decide (5000 < (signed 16 (s.rd .BRAD_CDPRE_CD_PRE n)).natAbs) ||
    (s.firstSlots .BRAD_SC_CFG_WIDTH n).any fun f => decide (60 < (signed 7 (s.rd .BRAD_SC_CFG_GAIN n f)).natAbs)

/-- The rules of Table 2.5, rights apart. -/
def checkBraid (t : State) : Option Breach :=
  firstBreach [
    (1, lowest 3 t.lineDom fun n => t.layoutBad .BRAD_SC_CFG_WIDTH 6 n),
    (2, lowest 3 t.lineDom fun n => (t.firstSlots .BRAD_SC_CFG_WIDTH n).any fun f =>
      !pairOk (t.rd .BRAD_SC_LOAD_START_BASE n f) (t.rd .BRAD_SC_LOAD_START_ENT n f)),
    (3, lowest 3 t.lineDom fun n => (t.firstSlots .BRAD_SC_CFG_WIDTH n).any fun f =>
      let a := t.rd .BRAD_SC_LOAD_FLOOR_ENT n f
      let b := t.rd .BRAD_SC_LOAD_CEIL_ENT n f
      b < a || a < 24 || 124 < b),
    (4, lowest 3 t.lineDom t.braidRange)]

/-- The registers of a line in BRAD that a commit sets. -/
def State.braidRegs (s : State) (n : Nat) : List Nat :=
  [s.reg .BRAD_LINE_CFG n, s.reg .BRAD_CDPRE n] ++ (List.range 4).map (fun t => s.reg .BRAD_TRIB n t) ++
    (List.range 2).map (fun p => s.reg .BRAD_POL n p) ++ (List.range 32).map (fun f => s.reg .BRAD_SC_CFG n f) ++
    (List.range 32).map (fun f => s.reg .BRAD_SC_LOAD n f)

/-- The encoder after a layout commit (R153): multiframes begun under the old layout go, and the chain of a subcarrier that the commit
creates starts anew. -/
def State.encoderLayout (s old : State) (n : Nat) : State :=
  let x := s.clt n
  let same (f : Nat) : Bool := old.rd .BRAD_SC_CFG_WIDTH n f == s.rd .BRAD_SC_CFG_WIDTH n f
  s.setClt n { x with txQ := [], txNow := none, txCoded := [], txFrame := 0, chain := x.chain.filter fun e => same e.1 }

/-- What an applied BRAD commit does to a line (R67, R70): a changed WIDTH restarts it on the start table; any other change withdraws a
proposal still in PROPOSE. -/
def State.braidCommitted (old new : State) (n : Nat) : State :=
  if new.lineMode n = 0 ∨ old.braidRegs n = new.braidRegs n then new
  else if (List.range 32).any fun f => old.rd .BRAD_SC_CFG_WIDTH n f != new.rd .BRAD_SC_CFG_WIDTH n f then
    if new.lineOzr n then new
    else
      let t := (new.encoderLayout old n).startTx n
      t.setBgt n { t.bgt n with dnDue := [], dnPast := [] }
  else if new.rd .BRAD_LOAD_STAT_STATE n = 1 then new.withdraw n
  else new

/-- The same for all lines. -/
def afterBraid (old new : State) : State := new.each [0, 1, 2] fun n t => t.braidCommitted old n

/-- The next transmit multiframe after a change of OH (R169): the transmitter sends the start table under the new overhead, and
FRAME_SHORT is evaluated (R180). -/
def execOhSwitchTx (n : Line) (s : State) : Res := act 12 s fun s =>
  let x := s.clt n
  if x.txDue then
    let s := s.setClt n { x with txOh := s.rd .CLET_LINE_CFG_OH n, txDue := false }
    if s.lineNative n then (s.startTx n).frameShort n else s
  else s

end Sys2Proof.Machine
end

