-- ==== Sys2Proof/Machine/Ospin.lean ====
section
/-! DEFINITION. Accepted Ospin commands: finding one, and ending it with the status, reason, inline result and result buffer that its
completion will carry (Tables 13.6 and 13.7). -/

namespace Sys2Proof.Machine

open Sys2Proof

/-- The accepted command of a number, while it has no completion. -/
def State.cmd (s : State) (h : Nat) : Option Cmd := s.inflight.find? fun c => c.num == h

/-- An accepted command changed. -/
def State.setCmd (s : State) (h : Nat) (f : Cmd → Cmd) : State :=
  { s with inflight := s.inflight.map fun c => if c.num = h then f c else c }

/-- A command ends: it does so once (R349). RESULT is zero when STATUS is not OK (Table 13.6). -/
def State.finish (s : State) (h status reason : Nat) (result buffer : List Byte) : State :=
  s.setCmd h fun c => if c.done then c else
    { c with done := true, status := status, reason := reason, result := if status = 0 then result else [], buffer := buffer }

end Sys2Proof.Machine
end

