-- ==== Sys2Proof/Machine/Bight.lean ====
section
/-! DEFINITION. Bight (chapter 4): hub time, the control subcarrier, leaves, burst acquisition, discovery and ranging, profiles, downstream
loading, and the allocator. -/

namespace Sys2Proof.Machine

open Sys2Proof

/-- What Bight holds for a leaf. -/
def State.leaf (s : State) (n i : Nat) : LeafInt := (s.bgt n).leaves.get {} i

/-- The same, replaced. -/
def State.setLeaf (s : State) (n i : Nat) (x : LeafInt) : State :=
  let b := s.bgt n
  s.setBgt n { b with leaves := b.leaves.put {} i x }

/-- What Bight holds for an upstream subcarrier. -/
def State.up (s : State) (n f : Nat) : UpSub := (s.bgt n).subs.get {} f

/-- The same, replaced. -/
def State.setUp (s : State) (n f : Nat) (x : UpSub) : State :=
  let b := s.bgt n
  s.setBgt n { b with subs := b.subs.put {} f x }

/-- The state of a leaf (Table 4.1, Table 4.18). -/
def State.leafState (s : State) (n i : Nat) : Nat := s.rd .BGHT_LEAF_ST_STATE n i

/-- The leaves of a line whose entries are listed and enabled. -/
def State.leavesOn (s : State) (n : Nat) : List Nat :=
  ((s.regs.filter fun c => decide (c.key.id = .BGHT_LEAF) && c.key.i == n).map fun c => c.key.j).filter fun i => s.on .BGHT_LEAF_EN n i

/-- An event of Bight: the line and a leaf as parameters (Table 4.15), to the leaf's domain. -/
def State.leafEvent (s : State) (n i : Nat) (f : Fld) (code : Nat) : State := s.raise f code (s.leafDom n i) [n, i] false n

/-- BGHT_STAT counts the leaves by state. -/
def State.countLeaves (s : State) (n : Nat) : State :=
  let l := (s.leavesOn n).map fun i => s.leafState n i
  let num (st : Nat) : Nat := (l.filter fun x => x == st).length
  ((s.wr .BGHT_STAT_ACTIVE (num 2) n).wr .BGHT_STAT_STALE (num 3) n).wr .BGHT_STAT_LOST (num 4) n

/-- A leaf enters a state: its dying gasp is forgotten, and Sheet learns of its upstream signal (R142). -/
def State.setLeafState (s : State) (n i st : Nat) : State :=
  let s := ((s.wr .BGHT_LEAF_ST_STATE st n i).wr .BGHT_LEAF_ST_DGASP 0 n i).countLeaves n
  s.each (List.range 48) fun c t => if (t.cliLeaves c).contains (n, i) then t.refreshEgress c else t

/-! ### Messages on the control subcarrier (R113 to R116) -/

/-- One unit of a message, from its type and fields (position, value). -/
def unitBytes (ty : Nat) (fields : List (Nat × Nat)) : List Byte := leBytes 8 (fields.foldl (fun a f => a + f.2 <<< f.1) ty)

/-- A message waiting for a number of copies, in the present period only or until they have left. -/
def State.sendCtrl (s : State) (n copies : Nat) (units : List Byte) (cmd till : Option Nat := none) : State :=
  let b := s.bgt n
  s.setBgt n { b with msgs := b.msgs ++ [{ units := units, left := copies, cmd := cmd, till := till }] }

/-- The same for REPEAT copies (R116). -/
def State.sendRepeat (s : State) (n : Nat) (units : List Byte) (cmd : Option Nat := none) : State :=
  s.sendCtrl n (s.rd .BGHT_LINE_CFG_REPEAT n) units cmd

/-- A grant, invitation or correction for a later period, which is sent in the present one (R116). -/
def State.sendMap (s : State) (n : Nat) (units : List Byte) : State :=
  s.sendCtrl n (s.rd .BGHT_LINE_CFG_REPEAT n) units none (some (s.bgt n).clock)

/-- A message of the present period alone (R116, R122). -/
def State.sendOnce (s : State) (n : Nat) (units : List Byte) : State := s.sendCtrl n 1 units none (some (s.bgt n).clock)

/-- TA (Table 4.4): ABS sets, otherwise it adds; the value in samples. -/
def taMsg (i : Nat) (abs : Bool) (v : Int) : List Byte := unitBytes 4 [(4, i), (12, b2n abs), (32, unsigned 32 v)]

/-- LEAF_CMD (Table 4.4). -/
def leafCmdMsg (i op : Nat) : List Byte := unitBytes 7 [(4, i), (12, op)]

/-- ASSIGN (Table 4.4). -/
def State.assignMsg (s : State) (n i : Nat) : List Byte :=
  unitBytes 3 [(4, i), (12, s.rd .BGHT_LEAF_UP_SC n i), (17, s.rd .BGHT_LEAF_DN_SC n i)] ++ leBytes 8 (s.rd .BGHT_LEAF_SERIAL n i)

/-- PROFILE (Table 4.4). -/
def profileMsg (i : Nat) (p : Profile) (eff : Nat) : List Byte :=
  unitBytes 5 [(4, i), (12, p.id), (16, p.base), (18, p.ent), (32, eff % 2 ^ 22)]

/-- The messages that go into one control block of so many units: those whose last copy left in another modulation frame and that fit
(R114, R116). It gives the units sent and the messages with their copies counted. -/
def packBlock (frame : Nat) : Nat → List CtrlMsg → List CtrlMsg × List CtrlMsg
  | _, [] => ([], [])
  | room, m :: r =>
    let u := m.units.length / 8
    if m.lastFrame != some frame && u ≤ room then
      let (sent, kept) := packBlock frame (room - u) r
      (m :: sent, { m with left := m.left - 1, lastFrame := some frame } :: kept)
    else
      let (sent, kept) := packBlock frame room r
      (sent, m :: kept)

/-- Whether the control subcarrier stands in Braid's layout (R107, Table 4.9). -/
def State.ctrlReady (s : State) (n : Nat) : Bool :=
  s.lineMode n == 2 && s.rd .BRAD_SC_CFG_WIDTH n (s.rd .BGHT_LINE_CFG_CTRL_SLOT n) == 1

/-- A message of which a copy has left: a leaf that has been sent ASSIGN may be ranged (R136), and an MGMT command completes with its last
copy (R353). -/
def State.copySent (s : State) (n : Nat) (m : CtrlMsg) : State :=
  let s := if byteAt m.units 0 % 16 = 3 then
      let i := leAt m.units 0 2 / 16 % 256
      s.setLeaf n i { s.leaf n i with assigned := true }
    else s
  match m.cmd, m.left with
  | some h, 1 => s.finish h 0 0 [] []
  | _, _ => s

/-- A control block sent (R113, Table 4.2), with the sample offset of hub time at which it leaves: its bytes are coded and their symbols
wait for the control subcarrier's next modulation frame. -/
def execControlBlock (n : Line) (offset : Nat) (s : State) : Res := act 11 s fun s =>
  if !s.on .BGHT_STAT_CTRL_OK n then s
  else
    let b := s.bgt n
    let (sent, kept) := packBlock (b.blockSeq / 8) 14 b.msgs
    let body := leBytes 6 (s.rd .BGHT_STAT_PERIOD n <<< 26 + offset % 2 ^ 26) ++ leBytes 2 b.blockSeq ++
      padTo 112 (sent.flatMap fun m => m.units) ++ [0, 0]
    let block := withCrc body
    let coded := trellisEncode (block.flatMap fun v => (List.range 8).map fun i => v.getLsbD i)
    let s := s.setBgt n { b with
      blockSeq := b.blockSeq + 1, msgs := kept.filter (fun m => m.left != 0), ctrlSyms := b.ctrlSyms ++ controlPairs coded }
    (sent.foldl (fun t m => t.copySent n m) s).emit (.controlBlock n block)

/-! ### Profiles (R122, R123, R139) -/

/-- Payload bytes per quantum of a profile on an upstream width (R139, R164): the data symbols of a quantum at the burst code's rate,
rounded down (log entry 15). -/
def bytesPerQuantum (oh w ent : Nat) : Nat := 72 * w * 63 * 2 * ent * (ohRate oh).1 / (64 * 16 * 8 * (ohRate oh).2)

/-- The width in slots of a leaf's upstream subcarrier. -/
def State.upWidth (s : State) (n f : Nat) : Nat := slotWidth (s.rd .BGHT_UP_CFG_WIDTH n f)

/-- A leaf's profile in force set: ACT_PROF and BPQ show it. -/
def State.setProfile (s : State) (n i : Nat) (p : Profile) : State :=
  let x := s.leaf n i
  let s := s.setLeaf n i { x with prof := p, prev := x.prof }
  (s.wr .BGHT_LEAF_ST_ACT_PROF p.id n i).wr .BGHT_LEAF_ST_BPQ
    (bytesPerQuantum (s.rd .CLET_LINE_CFG_BURST_OH n) (s.upWidth n (s.rd .BGHT_LEAF_UP_SC n i)) p.ent) n i

/-- BPQ of the enabled leaves follows the burst code rate and the upstream widths (R139). -/
def State.refreshBpq (s : State) (n : Nat) : State :=
  if s.lineMode n != 2 then s
  else s.each (s.leavesOn n) fun i t => t.wr .BGHT_LEAF_ST_BPQ
    (bytesPerQuantum (t.rd .CLET_LINE_CFG_BURST_OH n) (t.upWidth n (t.rd .BGHT_LEAF_UP_SC n i)) (t.leaf n i).prof.ent) n i

/-- The start profile of a leaf: PROF_ID 0 (R122). -/
def State.startProfile (s : State) (n i : Nat) : Profile :=
  { id := 0, base := s.rd .BGHT_LEAF_UP_START_BASE n i, ent := s.rd .BGHT_LEAF_UP_START_ENT n i }

/-- A change of profile announced (R122): in 8 consecutive periods from the next, effective MAP_LEAD + 8 periods after the first. -/
def State.announce (s : State) (n i : Nat) (p : Profile) : State :=
  s.setLeaf n i { s.leaf n i with profDue := some (p, (s.bgt n).clock + 1 + s.rd .BGHT_LINE_CFG_MAP_LEAD n + 8, 8) }

/-- The rules of R58 on a leaf's burst SNR (R122). -/
def execUpProfileEvaluation (n : Line) (leaf : Leaf) (s : State) : Res := act 11 s fun s =>
  let x := s.leaf n leaf
  if s.lineMode n != 2 || s.leafState n leaf != 2 then s
  else
    let past := (x.sum :: x.past).take (s.dwellCount n)
    let s := s.setLeaf n leaf { x with sum := (0, 0), past := past }
    if x.sum.2 = 0 || x.profDue.isSome then s
    else
      let (b, e) := (s.chooseLoad n x.sum past (x.prof.base, x.prof.ent) (s.rd .BGHT_LEAF_UP_FLOOR_ENT n leaf)
        (s.rd .BGHT_LEAF_UP_CEIL_ENT n leaf)).1
      if (b, e) = (x.prof.base, x.prof.ent) then s
      else s.announce n leaf { id := x.prof.id % 15 + 1, base := b, ent := e }

/-- The last block's neighbours of a tail-biting burst (R164): the checks of block t join blocks t, t − 1 and t − 2, counted around. -/
def burstHolds (l : List Nodes) : Bool :=
  let k := l.length
  (List.range k).all fun t => checksHold (l.getD t {}) (l.getD ((t + k - 1) % k) {}) (l.getD ((t + k - 2) % k) {})

/-- The data symbols of each polarisation among so many payload symbols (R119): all but the pilots. -/
def dataSymbols (payload : Nat) : Nat := payload - (payload + 63) / 64

/-- The coupling blocks of a burst payload (R164): the input values of the labels of each, erased where the burst was aborted before its end
(R132). -/
def burstBlocks (oh : Nat) (p : Profile) (count got : Nat) (soft : List Int) : List SoftBlock :=
  let k := labelCount p.base p.ent
  (List.range count).map fun t =>
    let erased := decide (got < 576 * (t + 1))
    { base := p.base, ent := p.ent, par := blockParity oh p.ent t, j := t, erased := erased,
      soft := if erased then List.replicate k 0 else ((soft.drop (k * t)).take k ++ List.replicate k 0).take k }

/-- The Lashing codewords of a burst's stream (R151, R164). The first argument bounds their number. -/
def burstWords : Nat → List RxBit → List (List RxBit)
  | 0, _ => []
  | k + 1, l => if 3840 ≤ l.length then l.take 3840 :: burstWords k (l.drop 3840) else if 61 ≤ l.length then [l] else []

/-- A codeword of a burst decoded and counted (R151, R162): its information bits, corrected, or as received and marked errored. -/
def State.burstWord (s : State) (n : Nat) (w : List RxBit) : State × List RxBit :=
  let k := w.length - 60
  match lashingCorrect (w.map fun b => b.1) with
  | some (v, c) => (s.lashing n (some c), (v.zip (w.map fun b => b.2)).take k)
  | none => (s.lashing n none, (w.take k).map fun b => (b.1, true))

/-- A burst's blocks decoded (R155, R164): the upstream subcarrier's grant bounds the iterations, its counters follow, and its net bits go
to Hitch. -/
def State.decodeBlocks (s : State) (n : Nat) (b : Burst) (l : List SoftBlock) : State :=
  let g := s.rd .CLET_SC_STAT_GRANT n b.sub
  let r := iterate true (s.on .CLET_LINE_CFG_EARLY_EN n) l burstHolds g []
  let hard := Config.minSumHard true l r.1
  let labels := (l.map fun x => x.soft.length).foldl (· + ·) 0
  let s := ((s.count .CLET_CNT labels n 0).count .CLET_CNT r.2 n 5).count .CLET_CNT (g - r.2) n 6
  let x := s.clt n
  let (a, c) := x.shifts.get (0, 0) b.sub
  let s := s.setClt n { x with shifts := x.shifts.put (0, 0) b.sub (a + 1, c + b2n (decide (r.2 < g))) }
  let ok := burstHolds hard
  let (s, bits) := (l.zip hard).foldl (fun (t, o) e =>
    let (t, v) := t.decided n b.sub e.1 e.2 ok false
    (t, o ++ v)) (s, [])
  let (s, net) := (burstWords bits.length bits).foldl (fun (t, o) w =>
    let (t, v) := t.burstWord n w
    (t, o ++ v)) (s, [])
  s.setHit n { s.hit n with bursts := (s.hit n).bursts ++ [(b.leaf, rxBytes net)] }

/-- BURST_DECODE_DONE: the payload of a leaf's oldest burst that waits has been decoded (R123, R164), from the input values of its labels. A
profile that is neither the current nor the previous one discards it, and the leaf returns to PROF_ID 0, unless that is announced
already; fewer than three blocks carry no data. -/
def execBurstDecodeDone (n : Line) (leaf : Leaf) (soft : List Int) (s : State) : Res := act 12 s fun s =>
  let bt := s.bgt n
  match s.lineMode n == 2, bt.received.find? fun b => b.leaf == leaf.val with
  | true, some b =>
    let s := s.setBgt n { bt with received := bt.received.erase b }
    let x := s.leaf n leaf
    if b.prof != x.prof.id && b.prof != x.prev.id then
      let s := s.inc .BGHT_LEAF_ST_BAD_PROF 1 n leaf
      if x.profDue.any (fun d => d.1.id == 0) || !s.on .BGHT_LEAF_EN n leaf then s else s.announce n leaf (s.startProfile n leaf)
    else
      let p := if b.prof = x.prof.id then x.prof else x.prev
      let all := dataSymbols (payloadSymbols (s.upWidth n b.sub) b.len b.long)
      let got := match b.cut with
        | some c => dataSymbols c
        | none => all
      if all / 576 < 3 then s
      else s.decodeBlocks n b (burstBlocks (s.rd .CLET_LINE_CFG_BURST_OH n) p (all / 576) got soft)
  | _, _ => s

/-! ### Downstream loading (R118) -/

/-- The lower of two averages given as sum and number. -/
def lowerAvg (a b : Nat × Nat) : Nat × Nat := if b.1 * a.2 < a.1 * b.2 then b else a

/-- The SNR of a downstream subcarrier: the lowest mean over its Active leaves that reported. -/
def State.dnAverage (s : State) (n slot : Nat) : Option (Nat × Nat) :=
  let l := (s.leavesOn n).filter fun i => s.leafState n i == 2 && s.rd .BGHT_LEAF_DN_SC n i == slot
  match (l.map fun i => (s.leaf n i).dnSum).filter fun a => a.2 != 0 with
  | [] => none
  | a :: r => some (r.foldl lowerAvg a)

/-- The engine run for a downstream data subcarrier (R118): without an Active leaf it keeps its table; a change is announced with its
SWITCH_PERIOD, one at a time. -/
def execDnLoadingEvaluation (n : Line) (slot : Slot) (s : State) : Res := act 11 s fun s =>
  if s.lineMode n != 2 || s.rd .BRAD_SC_CFG_WIDTH n slot == 0 || slot.val == s.rd .BGHT_LINE_CFG_CTRL_SLOT n then s
  else
    let avg := s.dnAverage n slot
    let s := s.each (s.leavesOn n) fun i t =>
      if t.rd .BGHT_LEAF_DN_SC n i = slot then t.setLeaf n i { t.leaf n i with dnSum := (0, 0) } else t
    let b := s.bgt n
    let past := ((avg.getD (0, 0)) :: b.dnPast.get [] slot).take (s.dwellCount n)
    let s := s.setBgt n { b with dnPast := b.dnPast.put [] slot past }
    match avg with
    | none => s
    | some a =>
      let now := (s.rd .BRAD_SC_ACT_BASE n slot, s.rd .BRAD_SC_ACT_ENT n slot)
      let (p, held) := s.chooseLoad n a past now (s.rd .BRAD_SC_LOAD_FLOOR_ENT n slot) (s.effCeil n slot)
      let s := s.holdFloor n slot held
      let b := s.bgt n
      if p = now ∨ (b.dnDue.any fun e => e.1 == slot.val) then s
      else s.setBgt n { b with dnDue := b.dnDue.insert slot (p.1, p.2, b.clock + s.rd .BGHT_LINE_CFG_DN_LEAD n) }

/-- The first marker at or after SWITCH_PERIOD (R118): Braid switches the subcarrier, event 0x4801, and FRAME_SHORT is evaluated. The engine
never changes what has become the control subcarrier (R107). -/
def execDnLoadSwitch (n : Line) (slot : Slot) (s : State) : Res := act 11 s fun s =>
  let b := s.bgt n
  match b.dnDue.find? fun e => e.1 == slot.val with
  | some (_, base, ent, at_) =>
    if b.clock < at_ then s
    else if slot.val = s.rd .BGHT_LINE_CFG_CTRL_SLOT n then s.setBgt n { b with dnDue := Tab.erase b.dnDue slot }
    else
      let s := (s.setBgt n { b with dnDue := Tab.erase b.dnDue slot }).setAct n slot base ent
      (s.braidEvent n .BRAD_LOAD_EVT_SWITCHED 0x4801).frameShort n
  | none => s

/-- The LOAD message of a downstream subcarrier in a period (R116, Table 4.4). -/
def State.loadMsg (s : State) (n slot : Nat) : List Byte :=
  match (s.bgt n).dnDue.find? fun e => e.1 == slot with
  | some (_, base, ent, at_) => unitBytes 6 [(4, slot), (9, base), (11, ent), (18, 1), (20, at_ % 2 ^ 22)]
  | none => unitBytes 6 [(4, slot), (9, s.rd .BRAD_SC_ACT_BASE n slot), (11, s.rd .BRAD_SC_ACT_ENT n slot)]

/-! ### Leaves: re-ranging, corrections, reports (R130 to R137) -/

/-- Re-ranging (R137): an Active or Stale leaf moves to Ranging with its TA as the RTT estimate, and is sent LEAF_CMD with OP = 1. The
attempts of the present discovery cycle stay counted (R136). -/
def State.rerange (s : State) (n i : Nat) : State :=
  let st := s.leafState n i
  if st = 2 ∨ st = 3 then
    let s := s.setLeaf n i { s.leaf n i with rtt := signed 32 (s.rd .BGHT_LEAF_ST_TA n i), assigned := true }
    (s.setLeafState n i 1).sendRepeat n (leafCmdMsg i 1)
  else s

/-- The same by LEAF_RERANGE, whose period is kept: an eighth missed grant in it still loses the leaf (Table 4.9). -/
def State.rerangeAsked (s : State) (n i : Nat) : State :=
  let t := s.rerange n i
  t.setLeaf n i { t.leaf n i with reranged := some (t.bgt n).clock }

/-- An arrival offset of a confirmed burst, in 1/8 symbol (R133): a mean over 8 bursts beyond TA_THR sends a relative TA that cancels it,
in samples (a symbol is 36/w of them; rounded, log entry 15), and moves the expectation from the period it applies to; the next mean is
taken over 8 new bursts (R133 does not say, log entry 77). -/
def State.takeOffset (s : State) (n i : Nat) (ofs : Int) : State :=
  let x := s.leaf n i
  let l := (ofs :: x.offsets).take 8
  let sum := l.foldl (· + ·) 0
  let s := (s.setLeaf n i { x with offsets := l }).wr .BGHT_LEAF_ST_ARR_OFS (unsigned 8 (sum / (l.length : Int))) n i
  if l.length = 8 ∧ s.rd .BGHT_ACQ_CFG_TA_THR n * 64 < sum.natAbs then
    let w := max 1 (s.upWidth n (s.rd .BGHT_LEAF_UP_SC n i))
    let v : Int := -(sum * 9 / (16 * w : Nat))
    (s.setLeaf n i { s.leaf n i with
      offsets := [], taDue := (s.leaf n i).taDue ++ [((s.bgt n).clock + s.rd .BGHT_LINE_CFG_MAP_LEAD n, v)] }).sendMap n (taMsg i false v)
  else s

/-- A field of a burst header (Table 4.7). -/
def hdrBits (h : BitVec 128) (hi lo : Nat) : Nat := bits h.toNat hi lo

/-- Whether a header's CRC passes (Table 4.7, R4). -/
def hdrOk (h : BitVec 128) : Bool := hdrBits h 127 112 == crc16 (leBytes 14 h.toNat)

/-- What a confirmed burst of an enabled leaf brings (R121, R130, R131, R139, R142); the offset of a ranging burst is what the ranging itself
takes up (R136, log entry 77). -/
def State.heard (s : State) (n i : Nat) (h : BitVec 128) (period : Nat) (ranging : Bool) (ofs : Int) : State :=
  let x := s.leaf n i
  let snr := hdrBits h 95 88
  let s := s.setLeaf n i { x with
    heard := 0, staleDue := false, reportPeriod := period,
    report := [hdrBits h 39 24, hdrBits h 55 40, hdrBits h 71 56, hdrBits h 87 72],
    dnSum := if snr = 255 then x.dnSum else (x.dnSum.1 + snr, x.dnSum.2 + 1) }
  let s := (((s.incWrap .BGHT_LEAF_ST_BURSTS 1 n i).wr .BGHT_LEAF_ST_LAST_HEARD 0 n i).wr .BGHT_LEAF_ST_MISSED 0 n i).wr
    .BGHT_LEAF_ST_DN_SNR snr n i
  let s := if s.leafState n i = 3 then s.setLeafState n i 2 else s
  let s := if ranging then s else s.takeOffset n i ofs
  if (hdrBits h 99 96).testBit 0 then
    (s.wr .BGHT_LEAF_ST_DGASP 1 n i).leafEvent n i .BGHT_EVT_DYING_GASP 0x5809
  else s

/-- The quantum of a grant's start, counted from period 0 of the line's Hub mode (R111). -/
def quantumOf (period start : Nat) : Nat := period * 15625 + start

/-- A confirmed ranging burst of a leaf in Ranging (R136): TA is the arrival less G, sent absolute, and the leaf is Active with event
0x5801. -/
def State.rangedOk (s : State) (n i g arrival : Nat) : State :=
  if s.leafState n i != 1 then s
  else
    let ta : Int := (arrival : Int) - (g * 2592 : Nat)
    let s := (s.wr .BGHT_LEAF_ST_TA (unsigned 32 ta) n i).setLeaf n i { s.leaf n i with offsets := [], taDue := [], idle := 0 }
    ((s.sendMap n (taMsg i true ta)).setLeafState n i 2).leafEvent n i .BGHT_EVT_ACTIVE 0x5801

/-- What a confirmed burst of a window's or grant's leaf does; a leaf whose entry is disabled is not answered (R110). -/
def State.answered (s : State) (n i : Nat) (h : BitVec 128) (period start : Nat) (ranging : Bool) (arrival : Nat) (ofs : Int) : State :=
  if !s.on .BGHT_LEAF_EN n i then s
  else
    let s := s.heard n i h period ranging ofs
    if ranging then s.rangedOk n i (quantumOf period start) arrival else s

/-- A confirmed discovery burst (R135): RTT is the arrival less G less RAND µs, of 324,000 samples each. -/
def State.discovered (s : State) (n g : Nat) (h : BitVec 128) (arrival : Nat) : State :=
  let serial := hdrBits h 87 24
  match (s.leavesOn n).find? fun i => s.rd .BGHT_LEAF_SERIAL n i == serial with
  | none => s.raise .BGHT_EVT_UNKNOWN_SERIAL 0x5806 (s.lineDom n) [n, hdrBits h 7 0] false n
  | some i =>
    let st := s.leafState n i
    if st = 0 ∨ st = 4 then
      let rtt : Int := (arrival : Int) - (g * 2592 : Nat) - (hdrBits h 104 100 * 324000 : Nat)
      let s := s.setLeaf n i { s.leaf n i with rtt := rtt, assigned := false }
      (s.setLeafState n i 1).sendRepeat n (s.assignMsg n i)
    else s.leafEvent n i .BGHT_EVT_DUP_SERIAL 0x5807

/-! ### Burst acquisition (R124 to R132) -/

/-- The state from which the acquisition of a window's burst starts (R124, R126, R129, R131): the leaf's record, or the default centre-tap
state and offset 0; for a Stale leaf the step sizes are those of acquisition. -/
def State.loadUp (s : State) (n f : Nat) (w : Window) : State :=
  let x := if w.kind = 2 then {} else s.leaf n w.leaf
  s.setUp n f { s.up n f with
    eq := x.store, strong := w.kind != 2 && s.leafState n w.leaf == 3,
    offset := if x.store = [] then 0 else signed 16 (s.rd .BGHT_LEAF_ST_FOFF n w.leaf) }

/-- A window opened on an upstream subcarrier: both correlators search, but for a burst still being received. -/
def State.openWindow (s : State) (n f : Nat) (w : Window) : State :=
  let u := s.up n f
  let u := if u.lock = 2 then { u with window := some w } else { u with window := some w, lock := 0, burst := none, marker := false, capturing := false }
  (s.setUp n f u).loadUp n f w

/-- A detection window opens (R124): for the grant of a leaf, or for discovery. -/
def execDetectionWindowOpen (n : Line) (f : Slot) (leaf : Option Leaf) (s : State) : Res := act 11 s fun s =>
  if s.lineMode n != 2 || s.rd .BGHT_UP_CFG_WIDTH n f == 0 then s
  else
    let b := s.bgt n
    match leaf with
    | some i =>
      match b.grants.find? fun g => g.leaf == i.val && g.sub == f.val with
      | some g =>
        (s.setBgt n { b with grants := b.grants.erase g }).openWindow n f
          { kind := b2n g.ranging, leaf := i, period := g.period, start := g.start, len := g.len, long := g.long, cycle := g.cycle }
      | none => s
    | none =>
      match b.reserved.find? fun r => r.1 == f.val + 32 with
      | some (_, from_, _) =>
        let g := from_ - s.rd .BGHT_LINE_CFG_RNG_BASE n * 125
        (s.openWindow n f { kind := 2, leaf := 0, period := g / 15625, start := g % 15625, long := true }).wr .BGHT_STAT_DISC_OPEN 1 n
      | none => s

/-- The metric a peak must exceed in a window, in 0.25 dB (R125): DET_THR, in discovery and ranging windows with DISC_ADD half decibels. -/
def State.detThr (s : State) (n kind : Nat) : Nat :=
  s.rd .BGHT_ACQ_CFG_DET_THR n + (if kind = 0 then 0 else 2 * s.rd .BGHT_ACQ_CFG_DISC_ADD n)

/-- Whether a lock decided at a preamble symbol is too late (R128). -/
def lateLock (long : Bool) (symbol : Nat) : Bool := (if long then 416 else 160) < symbol

/-- A peak decision of a correlator (R125, R127, R128): its metric in 0.25 dB and, for a real burst, the preamble symbol at which the lock is
decided. One of the free correlator replaces a provisional lock only RELOCK_DB above its peak, and acquisition starts again from the
stored state (Table 4.8); a late one is not demodulated and counts in LATE. -/
def execProvisionalLock (n : Line) (f : Slot) (corrB : Bool) (metric symbol : Nat) (s : State) : Res := act 11 s fun s =>
  let u := s.up n f
  match u.window with
  | none => s
  | some w =>
    let take := u.lock == 0 ||
      (u.lock == 1 && corrB != u.corrB && decide (u.metric + 2 * s.rd .BGHT_ACQ_CFG_RELOCK_DB n ≤ metric))
    if metric ≤ s.detThr n w.kind || !take then s
    else if lateLock w.long symbol then
      let s := s.setUp n f { u with lock := 0, marker := false, capturing := false }
      if w.kind = 2 || !s.on .BGHT_LEAF_EN n w.leaf then s else s.inc .BGHT_LEAF_ST_LATE 1 n w.leaf
    else (s.setUp n f { u with lock := 1, corrB := corrB, metric := metric, symbol := symbol, marker := false, capturing := false }).loadUp n f w

/-- The end marker of a provisional lock is found or not (R127). -/
def execEndMarker (n : Line) (f : Slot) (found : Bool) (s : State) : Res := act 11 s fun s =>
  let u := s.up n f
  if u.lock = 1 then s.setUp n f (if found then { u with marker := true } else { u with lock := 0, marker := false }) else s

/-- A lock dropped: searching resumes. -/
def State.dropLock (s : State) (n f : Nat) : State :=
  s.setUp n f { s.up n f with lock := 0, marker := false, capturing := false }

/-- A header that passes turns the lock into a confirmed one: the burst and its profile are known. -/
def State.confirm (s : State) (n f : Nat) (burst : Option Burst) : State :=
  let u := s.up n f
  let p := match burst with
    | some b => let x := s.leaf n b.leaf; if b.prof = x.prof.id then x.prof else x.prev
    | none => {}
  s.setUp n f { u with lock := 2, burst := burst, capturing := false, base := p.base, ent := p.ent }

/-- The window of a subcarrier has been answered by a confirmed header (R130). -/
def State.answerWindow (s : State) (n f : Nat) : State :=
  s.setUp n f { s.up n f with window := (s.up n f).window.map fun w => { w with confirmed := true } }

/-- Whether an arrival time lies in the detection window of a leaf's grant (R124, R136): ±32 symbols around its start, of 36/w samples
each, or ±4 µs around G plus the RTT estimate. -/
def State.grantOpen (s : State) (n f i period start : Nat) (ranging : Bool) (arrival : Nat) : Bool :=
  let at_ : Int := (quantumOf period start * 2592 : Nat)
  if ranging then decide (((arrival : Int) - at_ - (s.leaf n i).rtt).natAbs ≤ 1296000)
  else decide (((arrival : Int) - at_).natAbs * max 1 (s.upWidth n f) ≤ 1152)

/-- The header against the window's grant (R127): a discovery window checks TYPE alone. -/
def headerFits (w : Window) (h : BitVec 128) : Bool :=
  match w.kind with
  | 2 => hdrBits h 11 8 == 1
  | k => hdrBits h 11 8 == 2 * k && hdrBits h 7 0 == w.leaf && hdrBits h 23 16 == w.period % 256

/-- A captured burst's header that answers the window now open on its subcarrier (R132). -/
def State.capturedWindow (s : State) (n f : Nat) (h : BitVec 128) (arrival : Nat) : Option Window :=
  (s.up n f).window.filter fun w =>
    w.kind != 2 && !w.confirmed && headerFits w h && s.grantOpen n f w.leaf w.period w.start (w.kind == 1) arrival

/-- A captured burst confirmed for its grant (R132), or found late for it (R128): then it is not demodulated, counts in LATE, and its grant
goes unanswered. -/
def State.takeCaptured (s : State) (n f : Nat) (h : BitVec 128) (arrival : Nat) (ofs : Int) (w : Window) : State :=
  if lateLock w.long (s.up n f).symbol then
    let s := s.dropLock n f
    if s.on .BGHT_LEAF_EN n w.leaf then s.inc .BGHT_LEAF_ST_LATE 1 n w.leaf else s
  else
    (s.confirm n f (some { leaf := w.leaf, sub := f, kind := w.kind, cycle := w.cycle, len := w.len, long := w.long, prof := hdrBits h 15 12 })).answered
      n w.leaf h w.period w.start (w.kind == 1) arrival ofs

/-- The header of a capturing burst (R132): it must match a grant open at its arrival time, in the window open now or one still to open;
otherwise it is discarded with event 0x5808, and an Active or Stale leaf that it names is re-ranged. -/
def State.capturedHeader (s : State) (n f : Nat) (h : BitVec 128) (arrival : Nat) (ofs : Int) : State :=
  let i := hdrBits h 7 0
  let b := s.bgt n
  match s.capturedWindow n f h arrival with
  | some w => (s.answerWindow n f).takeCaptured n f h arrival ofs w
  | none =>
    match b.grants.find? fun g => g.leaf == i && g.sub == f && g.period % 256 == hdrBits h 23 16 && b2n g.ranging * 2 == hdrBits h 11 8 &&
        s.grantOpen n f i g.period g.start g.ranging arrival with
    | some g => (s.setBgt n { b with grants := b.grants.erase g }).takeCaptured n f h arrival ofs
        { kind := b2n g.ranging, leaf := i, period := g.period, start := g.start, len := g.len, long := g.long, cycle := g.cycle }
    | none => ((s.dropLock n f).leafEvent n i .BGHT_EVT_UNEXPECTED 0x5808).rerange n i

/-- The bits of a decoded block as one number, bit j the information bit j (Table 4.7). -/
def headerOf (l : List Bool) : BitVec 128 := BitVec.ofNat 128 (l.foldr (fun b a => 2 * a + b2n b) 0)

/-- BURST_HEADER_DECODED (R127, R130 to R136): the soft values of the header's 256 coded bits, the arrival time in samples since the line
entered Hub mode, and the arrival offset in 1/8 symbol. The trellis decoder decides its bits, and Cleat counts it by its CRC (R167). -/
def execBurstHeaderDecoded (n : Line) (f : Slot) (soft : List Int) (arrival : Nat) (ofs : Int) (s : State) : Res := act 11 s fun s =>
  let h := headerOf (viterbi soft)
  let u := s.up n f
  if u.lock != 1 || !u.marker then s
  else if !hdrOk h then (s.incWrap .CLET_TRL_HDR_FAIL 1 n).dropLock n f
  else
    let s := s.incWrap .CLET_TRL_HDR_OK 1 n
    if u.capturing then s.capturedHeader n f h arrival ofs
    else match u.window with
      | none => s.dropLock n f
      | some w =>
        if !headerFits w h then s.dropLock n f
        else
          let g := quantumOf w.period w.start
          if w.kind = 2 then ((s.confirm n f none).answerWindow n f).discovered n g h arrival
          else
            let b : Burst :=
              { leaf := w.leaf, sub := f, kind := w.kind, cycle := w.cycle, len := w.len, long := w.long, prof := hdrBits h 15 12 }
            ((s.confirm n f (some b)).answerWindow n f).answered n w.leaf h w.period w.start (w.kind == 1) arrival ofs

/-- A ranging attempt of a discovery cycle has passed silent or was aborted (R136): the third returns a leaf in Ranging to Undiscovered,
event 0x5804. -/
def State.failAttempt (s : State) (n i cycle : Nat) : State :=
  let x := s.leaf n i
  let k := x.fails.get 0 cycle + 1
  let s := s.setLeaf n i { x with fails := x.fails.put 0 cycle k }
  if s.leafState n i = 1 ∧ 3 ≤ k then (s.setLeafState n i 0).leafEvent n i .BGHT_EVT_RNG_FAIL 0x5804 else s

/-- A burst whose payload is complete, or aborted after so many payload symbols, waits for Cleat (R128, R132); a ranging burst has none. -/
def State.passBurst (s : State) (n : Nat) (b : Burst) : State :=
  if b.kind = 0 then s.setBgt n { s.bgt n with received := (s.bgt n).received ++ [b] } else s

/-- A confirmed burst aborted as Collided (R132): counted, event 0x5805; what it brought passes on, its leaf is re-ranged, and a ranging
attempt has failed (Table 4.9). -/
def State.collide (s : State) (n : Nat) (b : Burst) (got : Nat) : State :=
  let i := b.leaf
  let s := s.passBurst n { b with cut := some got }
  if !s.on .BGHT_LEAF_EN n i then s
  else
    let s := ((s.inc .BGHT_LEAF_ST_COLLIDED 1 n i).leafEvent n i .BGHT_EVT_COLLIDED 0x5805).rerange n i
    if b.kind = 1 then s.failAttempt n i b.cycle else s

/-- CAPTURE: the watch after a confirmed lock (R132): a power rise and a peak of the free correlator together abort the burst as Collided, of
which so many payload symbols have come, and the lock moves, decided at a preamble symbol of the new burst; one alone is ignored and counted in
OVERLAP. -/
def execCapture (n : Line) (f : Slot) (power peak : Bool) (symbol got : Nat) (s : State) : Res := act 11 s fun s =>
  let u := s.up n f
  if u.lock != 2 then s
  else if power && peak then
    let s := s.setUp n f { u with
      lock := if lateLock true symbol then 0 else 1, corrB := !u.corrB, symbol := symbol, marker := false, burst := none, capturing := true }
    match u.burst with
    | some b => s.collide n b got
    | none => s.raise .BGHT_EVT_COLLIDED 0x5805 (s.lineDom n) [n, 0] false n
  else if power || peak then
    match u.burst with
    | some b => if s.on .BGHT_LEAF_EN n b.leaf then s.inc .BGHT_LEAF_ST_OVERLAP 1 n b.leaf else s
    | none => s
  else s

/-- The end of a burst's postamble (R129): its payload waits for Cleat; its frozen offset (0.125 MHz), within 500 MHz of where the estimate
started (R126), power (0.25 dB below full scale), SNR (0.125 dB) and equaliser state are stored in the leaf's record. -/
def execBurstEnd (n : Line) (f : Slot) (foff : BitVec 16) (power snr : BitVec 8) (state : List Byte) (s : State) : Res :=
  act 11 s fun s =>
    let u := s.up n f
    if u.lock != 2 then s
    else
      let s := s.setUp n f { u with lock := 0, burst := none, marker := false }
      match u.burst with
      | none => s
      | some b =>
        let i := b.leaf
        let s := s.passBurst n b
        let x := s.leaf n i
        let at_ := max (u.offset - 4000) (min (u.offset + 4000) foff.toInt)
        let l := (snr.toNat :: x.snrs).take 64
        let s := s.setLeaf n i { x with store := state.take 512, snrs := l, sum := (x.sum.1 + snr.toNat, x.sum.2 + 1) }
        if !s.on .BGHT_LEAF_EN n i then s
        else ((s.wr .BGHT_LEAF_ST_FOFF (unsigned 16 at_) n i).wr .BGHT_LEAF_ST_RXPWR power.toNat n i).wr .BGHT_LEAF_ST_UP_SNR
          (l.foldl (· + ·) 0 / l.length) n i

/-- A granted burst missed (R130): the eighth in a row of an Active or Stale leaf, or of one that an Ospin command has re-ranged in this period
(Table 4.9), loses it. -/
def State.missGrant (s : State) (n i : Nat) : State :=
  if !s.on .BGHT_LEAF_EN n i then s
  else
    let s := (s.inc .BGHT_LEAF_ST_MISSED 1 n i).inc .BGHT_LEAF_ST_MISSED_TOT 1 n i
    let st := s.leafState n i
    let may := st == 2 || st == 3 || (st == 1 && (s.leaf n i).reranged == some (s.bgt n).clock)
    if may && 8 ≤ s.rd .BGHT_LEAF_ST_MISSED n i then (s.setLeafState n i 4).leafEvent n i .BGHT_EVT_LOST 0x5803 else s

/-- A detection window closes (R130, R136): without a confirmed header a grant is missed, and a ranging attempt has passed silent. -/
def execDetectionWindowClose (n : Line) (f : Slot) (s : State) : Res := act 11 s fun s =>
  let u := s.up n f
  match u.window with
  | none => s
  | some w =>
    let s := s.setUp n f { u with window := none, lock := if u.lock = 2 then 2 else 0 }
    let i := w.leaf
    if w.kind = 2 then
      let b := s.bgt n
      let s := s.setBgt n { b with reserved := b.reserved.filter fun r => r.1 != f.val + 32 }
      let open_ := (List.range 32).any fun g => match (s.up n g).window with
        | some v => v.kind == 2
        | none => false
      s.wr .BGHT_STAT_DISC_OPEN (b2n open_) n
    else if w.confirmed then s
    else
      let s := s.missGrant n i
      if w.kind = 1 then s.failAttempt n i w.cycle else s

/-- The periods of STALE_S. -/
def State.stalePeriods (s : State) (n : Nat) : Nat := 8000 * s.rd .BGHT_DISC_CFG_STALE_S n

/-- An Active leaf becomes Stale (R131). -/
def State.goStale (s : State) (n i : Nat) : State :=
  if s.leafState n i = 2 then (s.setLeafState n i 3).leafEvent n i .BGHT_EVT_STALE 0x5802 else s

/-- An Active leaf not heard for STALE_S (R131). In the period in which STALE_S expires a burst may still keep it Active (Table 4.9), so that
the period's end decides. -/
def execStaleTimeout (n : Line) (leaf : Leaf) (s : State) : Res := act 11 s fun s =>
  let x := s.leaf n leaf
  if s.stalePeriods n < x.heard then s.goStale n leaf
  else if x.heard = s.stalePeriods n then s.setLeaf n leaf { x with staleDue := true }
  else s

/-! ### The allocation period (R111, R116, R138 to R140) -/

/-- A discovery cycle (R134, R136): the ranging attempts of the cycle start anew; with DISC_ON and a leaf in Undiscovered or Lost, the
next map carries the invitations. -/
def execDiscoveryCycle (n : Line) (s : State) : Res := act 11 s fun s =>
  if s.lineMode n != 2 then s
  else
    let due := s.on .BGHT_DISC_CFG_DISC_ON n && (s.leavesOn n).any fun i => s.leafState n i == 0 || s.leafState n i == 4
    let b := s.bgt n
    let s := s.setBgt n { b with ranged := [], cycle := b.cycle + 1, discDue := b.discDue || due }
    s.each (s.leavesOn n) fun i t =>
      let x := t.leaf n i
      (t.wr .BGHT_LEAF_ST_RNG_TRIES 0 n i).setLeaf n i { x with fails := x.fails.filter fun e => b.cycle ≤ e.1 }

/-- What a new period does to a leaf: times go on, a silence that STALE_S ended in the last one is judged, a TA correction and a profile change apply at their periods, a change is announced. -/
def State.leafPeriod (s : State) (n i : Nat) : State :=
  let c := (s.bgt n).clock
  let x := s.leaf n i
  let s := s.setLeaf n i { x with
    frozen := x.report, heard := x.heard + 1, staleDue := false, idle := x.idle + 1, issued := x.issued.filter fun e => x.reportPeriod < e.1 }
  let s := if x.snrs = [] && x.report = [] then s else s.wr .BGHT_LEAF_ST_LAST_HEARD (min (2 ^ 32 - 1) ((x.heard + 1) / 8)) n i
  let v := ((x.taDue.filter fun e => e.1 ≤ c).map fun e => e.2).foldl (· + ·) 0
  let s := if v = 0 then s else s.wr .BGHT_LEAF_ST_TA (unsigned 32 (signed 32 (s.rd .BGHT_LEAF_ST_TA n i) + v)) n i
  let s := s.setLeaf n i { s.leaf n i with taDue := x.taDue.filter fun e => c < e.1 }
  let s := if x.staleDue then s.goStale n i else s
  match x.profDue with
  | some (p, eff, left) =>
    let s := if left = 0 then s else s.sendOnce n (profileMsg i p eff)
    if eff ≤ c then (s.setProfile n i p).setLeaf n i { (s.setProfile n i p).leaf n i with profDue := none }
    else s.setLeaf n i { s.leaf n i with profDue := some (p, eff, left - 1) }
  | none => s

/-- The start of an allocation period (R111, R116): what was to be sent in the last one is no longer sent; reports are frozen for the map,
LOAD and PROFILE messages are queued. -/
def execPeriodStart (n : Line) (s : State) : Res := act 11 s fun s =>
  if s.lineMode n != 2 then s
  else
    let b := s.bgt n
    let c := b.clock + 1
    let s := (s.setBgt n { b with
      clock := c, mapDue := true, msgs := b.msgs.filter (fun m => m.till.all fun t => c ≤ t), grants := b.grants.filter (fun g => c ≤ g.period + 8),
      reserved := b.reserved.filter fun r => c * 15625 ≤ r.2.2 + 15625 }).wr .BGHT_STAT_PERIOD (c % 2 ^ 22) n
    let s := s.each (s.leavesOn n) fun i t => t.leafPeriod n i
    let bound := (s.leavesOn n).map fun i => s.rd .BGHT_LEAF_DN_SC n i
    s.each ((List.range 32).filter fun f => bound.contains f) fun f t => t.sendOnce n (t.loadMsg n f)

/-- The quanta of a burst's fixed fields at a width (R138, R141). -/
def fixedQuanta (w : Nat) (long : Bool) : Nat := ceilDiv (fixedSymbols long) (72 * w)

/-- One leaf's part in a map: its overhead, LONG_PRE, its payload so far (none: no burst), the most it may have, its weight and deficit. -/
structure Share where
  leaf : Nat
  ovh : Nat
  long : Bool
  got : Option Nat
  most : Nat
  weight : Nat
  deficit : Nat
  deriving DecidableEq, Repr

/-- A pair of quanta put in order of its first. -/
def insertPair (x : Nat × Nat) : List (Nat × Nat) → List (Nat × Nat)
  | [] => [x]
  | y :: r => if x.1 ≤ y.1 then x :: y :: r else y :: insertPair x r

/-- Pairs in rising order of their firsts. -/
def sortPairs (l : List (Nat × Nat)) : List (Nat × Nat) := l.foldr insertPair []

/-- The first quantum from a position at which a stretch of a length meets none of some windows. -/
def skipWindows (wins : List (Nat × Nat)) (pos len : Nat) : Nat :=
  wins.foldl (fun p w => if p < w.2 ∧ w.1 < p + len then w.2 else p) pos

/-- The quantum after the last burst of a map placed from quantum 0 around windows (R138). -/
def placeEnd (wins : List (Nat × Nat)) (l : List Share) : Nat :=
  l.foldl (fun pos x => match x.got with
    | none => pos
    | some p => skipWindows wins pos (x.ovh + p) + x.ovh + p) 0

/-- The largest number up to a bound that passes a test. -/
def fitMost (p : Nat → Bool) : Nat → Option Nat
  | 0 => if p 0 then some 0 else none
  | k + 1 => if p (k + 1) then some (k + 1) else fitMost p k

/-- A share with so many more payload quanta. -/
def Share.add (x : Share) (g : Nat) : Share := { x with got := some (x.got.getD 0 + g) }

/-- A share between others given as many more payload quanta, up to a number, as leave every burst of the map whole in its period. -/
def giveShare (wins : List (Nat × Nat)) (pre post : List Share) (x : Share) (more : Nat) : Share :=
  match fitMost (fun g => decide (placeEnd wins (pre ++ x.add g :: post) ≤ 15625)) more with
  | some 0 => if more = 0 then x.add 0 else x
  | some g => x.add g
  | none => x

/-- A step of R138 over all leaves in turn: none is skipped, and each is asked how many more payload quanta it gets (none: it does not take
part). -/
def giveAll (wins : List (Nat × Nat)) (ask : Share → Option Nat) : List Share → List Share → List Share
  | pre, [] => pre
  | pre, x :: r =>
    match ask x with
    | some more => giveAll wins ask (pre ++ [giveShare wins pre r x more]) r
    | none => giveAll wins ask (pre ++ [x]) r

/-- A round of the surplus (R138, R140): each leaf that wants more adds its weight to its deficit and is given no more than that; one
satisfied keeps no deficit. -/
def surplusRound (wins : List (Nat × Nat)) : List Share → List Share → List Share
  | pre, [] => pre
  | pre, x :: r =>
    let want := x.most - x.got.getD 0
    if want = 0 then surplusRound wins (pre ++ [{ x with deficit := 0 }]) r
    else
      let d := x.deficit + x.weight
      let y := giveShare wins pre r x (min d want)
      let given := y.got.getD 0 - x.got.getD 0
      surplusRound wins (pre ++ [{ y with deficit := if given = want then 0 else d - given }]) r

/-- The surplus by rounds until one gives nothing (R138, log entry 16); the deficits left are kept for the next period. -/
def surplus (wins : List (Nat × Nat)) : Nat → List Share → List Share
  | 0, l => l
  | fuel + 1, l =>
    let m := surplusRound wins [] l
    if (m.map fun x => x.got) = l.map fun x => x.got then l else surplus wins fuel m

/-- The demand of a leaf in quanta for some of its queues (R139): the reported bytes, less the payload granted since. -/
def State.demandQ (s : State) (n i queues : Nat) : Nat :=
  let x := s.leaf n i
  let bpq := max 1 (s.rd .BGHT_LEAF_ST_BPQ n i)
  let bytes := 256 * ((x.frozen.take queues).foldl (· + ·) 0)
  ceilDiv bytes bpq - (x.issued.map fun e => e.2).foldl (· + ·) 0

/-- The leaves of an upstream subcarrier that get normal grants, in leaf-ID order from the leaf whose turn it is (R138). -/
def State.grantLeaves (s : State) (n f : Nat) : List Nat :=
  let l := (s.leavesOn n).filter fun i => s.rd .BGHT_LEAF_UP_SC n i == f && (s.leafState n i == 2 || s.leafState n i == 3)
  let t := (s.bgt n).turn.get 0 f
  (l.filter fun i => t ≤ i) ++ l.filter fun i => i < t

/-- The shares of a subcarrier's leaves in a map (R138, R139): fixed service, assured demand, polls, surplus. -/
def State.shares (s : State) (n f : Nat) (wins : List (Nat × Nat)) : List Share :=
  let w := max 1 (s.upWidth n f)
  let init := (s.grantLeaves n f).map fun i =>
    let long := s.leafState n i == 3
    ({ leaf := i, ovh := fixedQuanta w long, long := long, got := none,
       most := min (s.rd .BGHT_LEAF_MAX_Q n i) (max (s.demandQ n i 4) (s.rd .BGHT_LEAF_FIX_Q n i)),
       weight := s.rd .BGHT_LEAF_WEIGHT n i, deficit := (s.leaf n i).deficit } : Share)
  let fix (x : Share) : Option Nat :=
    let q := s.rd .BGHT_LEAF_FIX_Q n x.leaf
    if s.leafState n x.leaf = 2 ∧ q ≠ 0 then some q else none
  let assured (x : Share) : Option Nat :=
    let q := min (s.rd .BGHT_LEAF_ASSURED_Q n x.leaf) (s.demandQ n x.leaf 2 - x.got.getD 0)
    if q = 0 then none else some q
  let poll (x : Share) : Option Nat :=
    if x.got.isNone && decide (s.rd .BGHT_LEAF_POLL_P n x.leaf ≤ (s.leaf n x.leaf).idle) then some 0 else none
  surplus wins 15625 (giveAll wins poll [] (giveAll wins assured [] (giveAll wins fix [] init)))

/-- The bursts of a map placed back to back from quantum 0, skipping windows (R138). -/
def placeBursts (f period : Nat) (wins : List (Nat × Nat)) : List Share → Nat → List BurstGrant
  | [], _ => []
  | x :: r, pos =>
    match x.got with
    | none => placeBursts f period wins r pos
    | some p =>
      let len := x.ovh + p
      let at_ := skipWindows wins pos len
      { leaf := x.leaf, sub := f, period := period, start := at_, len := len, payload := p, ranging := false, long := x.long } ::
        placeBursts f period wins r (at_ + len)

/-- The windows reserved on a subcarrier within a period, as quanta of the period in rising order. -/
def State.periodWindows (s : State) (n f period : Nat) : List (Nat × Nat) :=
  let a := quantumOf period 0
  let b := a + 15625
  let l := (s.bgt n).reserved.filter fun r => r.1 % 32 == f && decide (r.2.1 < b) && decide (a < r.2.2)
  sortPairs (l.map fun r => (r.2.1 - a, min 15625 (r.2.2 - a)))

/-- A burst granted: its GRANT message in REPEAT copies, and the grant kept (R115, R116). -/
def State.grant (s : State) (n : Nat) (g : BurstGrant) : State :=
  let b := s.bgt n
  (s.setBgt n { b with grants := b.grants ++ [g] }).sendMap n
    (unitBytes 1 [(4, g.leaf), (12, g.period % 256), (20, g.start), (34, g.len), (48, b2n g.ranging), (50, b2n g.long)])

/-- The invitations of a discovery cycle in the map of a period (R134): G where no quiet window of 200 µs from G + RNG_BASE would meet a window
already kept; where the period has no such place, the next map carries them. A quiet window is kept under the subcarrier's number
plus 32. -/
def State.invite (s : State) (n period : Nat) : State :=
  let b := s.bgt n
  let subs := (s.firstSlots .BGHT_UP_CFG_WIDTH n).filter fun f => s.on .BGHT_UP_CFG_DISC_EN n f
  let wins := sortPairs ((b.reserved.filter fun r => subs.contains (r.1 % 32)).map fun r => r.2)
  let first := quantumOf period 0 + s.rd .BGHT_LINE_CFG_RNG_BASE n * 125
  let at_ := skipWindows wins first 25000
  if !b.discDue || 15625 ≤ at_ - first then s
  else (s.setBgt n { b with discDue := false }).each subs fun f t =>
    let b := t.bgt n
    (t.setBgt n { b with reserved := b.reserved ++ [(f + 32, at_, at_ + 25000)] }).sendMap n
      (unitBytes 2 [(4, f), (12, period % 256), (20, at_ - first)])

/-- The quanta of a window that lie in a period. -/
def quantaIn (period : Nat) (w : Nat × Nat) : Nat := min w.2 (quantumOf period 15625) - max w.1 (quantumOf period 0)

/-- A ranging attempt in the map of a period (R136): its window of ±4 µs around G plus the RTT estimate, with the burst, is placed behind
windows that it would meet and only where fixed and assured service leaves room. -/
def State.rangeLeaf (s : State) (n period i : Nat) : State :=
  let f := s.rd .BGHT_LEAF_UP_SC n i
  let b := s.bgt n
  let x := s.leaf n i
  let w := max 1 (s.upWidth n f)
  let len := fixedQuanta w true
  let rtt := (x.rtt / 2592).toNat
  let base := quantumOf period 0 + rtt - 500
  let mine := (b.reserved.filter fun r => r.1 % 32 == f).map fun r => r.2
  let at_ := skipWindows (sortPairs mine) (max base (quantumOf period 0)) (1000 + len)
  let window := (at_, at_ + 1000 + len)
  let start := at_ - base
  let kept := (s.leavesOn n).foldl (fun a j => if s.rd .BGHT_LEAF_UP_SC n j = f then
    a + s.rd .BGHT_LEAF_FIX_Q n j + s.rd .BGHT_LEAF_ASSURED_Q n j else a) (fixedQuanta w true)
  let full (p : Nat) : Bool := decide (15625 < (mine.map (quantaIn p)).foldl (· + ·) (kept + quantaIn p window))
  if !x.assigned || 3 ≤ s.rd .BGHT_LEAF_ST_RNG_TRIES n i || s.rd .BGHT_DISC_CFG_RNG_PER_CYCLE n ≤ b.ranged.get 0 f ||
      15625 ≤ start || full (at_ / 15625) || full (window.2 / 15625) || b.grants.any (fun g => g.leaf == i && g.ranging) then s
  else
    let s := s.setBgt n { b with
      reserved := b.reserved ++ [(f, window)], ranged := b.ranged.put 0 f (b.ranged.get 0 f + 1) }
    (s.inc .BGHT_LEAF_ST_RNG_TRIES 1 n i).grant n
      { leaf := i, sub := f, period := period, start := start, len := len, payload := 0, ranging := true, long := true, cycle := b.cycle }

/-- A normal grant: the leaf's idle time ends, and its payload is subtracted from later demand (R139). -/
def State.grantNormal (s : State) (n : Nat) (g : BurstGrant) : State :=
  let x := s.leaf n g.leaf
  (s.setLeaf n g.leaf { x with idle := 0, issued := x.issued ++ [(g.period, g.payload)] }).grant n g

/-- The map of one upstream subcarrier for a period (R138): deficits are kept, and the next map starts from the next leaf. -/
def State.mapSub (s : State) (n period f : Nat) : State :=
  let wins := s.periodWindows n f period
  let l := s.shares n f wins
  let s := l.foldl (fun t x => t.setLeaf n x.leaf { t.leaf n x.leaf with deficit := x.deficit }) s
  let b := s.bgt n
  let s := match l with
    | x :: _ => s.setBgt n { b with turn := b.turn.put 0 f (x.leaf + 1) }
    | [] => s
  (placeBursts f period wins l 0).foldl (fun t g => t.grantNormal n g) s

/-- The map for MAP_LEAD periods ahead is complete (R116, R138, R140). -/
def execMapComplete (n : Line) (s : State) : Res := act 11 s fun s =>
  let b := s.bgt n
  if s.lineMode n != 2 || !b.mapDue then s
  else
    let p := b.clock + s.rd .BGHT_LINE_CFG_MAP_LEAD n
    let s := (s.setBgt n { b with mapDue := false }).invite n p
    let s := s.each ((s.leavesOn n).filter fun i => s.leafState n i == 1) fun i t => t.rangeLeaf n p i
    s.each (s.firstSlots .BGHT_UP_CFG_WIDTH n) fun f t => t.mapSub n p f

/-! ### Hub commands (R353) -/

/-- LEAF_ST of a leaf as its 32 bytes. -/
def State.leafBytes (s : State) (n i : Nat) : List Byte := leBytes 32 (s.reg .BGHT_LEAF_ST n i)

/-- MGMT (Table 4.4). -/
def mgmtMsg (i : Nat) (bcast : Bool) (body : List Byte) : List Byte :=
  unitBytes 8 [(4, i), (12, b2n bcast), (16, body.length / 8 + 1)] ++ body

/-! ### Lines and commits -/

/-- An enabled leaf enters Undiscovered with nothing stored in progress (R110); its record and profile start anew. -/
def State.undiscover (s : State) (n i : Nat) : State :=
  let s := s.setLeaf n i { store := (s.leaf n i).store }
  let s := (s.wr .BGHT_LEAF_ST_RNG_TRIES 0 n i).wr .BGHT_LEAF_ST_MISSED 0 n i
  let p := s.startProfile n i
  (((s.setLeafState n i 0).setProfile n i p).setProfile n i p)

/-- CTRL_OK follows Braid's layout (Table 4.9): when the control subcarrier goes, event 0x580A. -/
def State.refreshCtrl (s : State) (n : Nat) : State :=
  let ok := s.ctrlReady n
  let was := s.on .BGHT_STAT_CTRL_OK n
  let s := s.wr .BGHT_STAT_CTRL_OK (b2n ok) n
  if was && !ok && s.lineMode n == 2 then s.raise .BGHT_EVT_CTRL_LAYOUT 0x580A (s.lineDom n) [n, 0] false n else s

/-- A line enters Hub mode (R110, R111). -/
def State.hubOn (s : State) (n : Nat) : State :=
  let s := (s.setBgt n {}).refreshCtrl n
  s.each (s.leavesOn n) fun i t => t.undiscover n i

/-- A line leaves Hub mode (Table 4.9): leaf states, stored records and hub time are cleared. -/
def State.hubOff (s : State) (n : Nat) : State :=
  let s := (s.setBgt n {}).setReg .BGHT_STAT 0 n
  let s := { s with regs := s.regs.resetWhere fun r => decide (r.id = RegId.BGHT_LEAF_ST) && r.i == n }
  (s.refreshCtrl n).lineConsequences n

/-- Whether a line is set up as a hub: in Hub mode, or with an upstream layout or an enabled leaf (log entry 17). -/
def State.hubSet (s : State) (n : Nat) : Bool :=
  s.lineMode n == 2 || !(s.firstSlots .BGHT_UP_CFG_WIDTH n).isEmpty || !(s.leavesOn n).isEmpty

/-- The enabled leaves of an upstream subcarrier. -/
def State.leavesOf (s : State) (n f : Nat) : List Nat := (s.leavesOn n).filter fun i => s.rd .BGHT_LEAF_UP_SC n i == f

/-- Whether an enabled leaf breaks cause 0x3 of Table 4.19. -/
def State.leafBinding (s : State) (n i : Nat) : Bool :=
  let u := s.rd .BGHT_LEAF_UP_SC n i
  let d := s.rd .BGHT_LEAF_DN_SC n i
  s.rd .BGHT_UP_CFG_WIDTH n u == 0 || s.rd .BRAD_SC_CFG_WIDTH n d == 0 || d == s.rd .BGHT_LINE_CFG_CTRL_SLOT n ||
    16 < (s.leavesOf n u).length

/-- Whether an upstream subcarrier breaks admission (R141). -/
def State.admission (s : State) (n f : Nat) : Bool :=
  let w := s.upWidth n f
  let l := s.leavesOf n f
  let fix (i : Nat) : Nat := s.rd .BGHT_LEAF_FIX_Q n i
  let asr (i : Nat) : Nat := s.rd .BGHT_LEAF_ASSURED_Q n i
  15625 < l.foldl (fun a i => a + fix i + asr i + fixedQuanta (max 1 w) true) 0 ||
    l.any fun i => s.rd .BGHT_LEAF_MAX_Q n i < fix i + asr i || (0 < fix i && s.on .BGHT_UP_CFG_DISC_EN n f)

/-- Whether the MAP_LEAD rule of R117 is broken, in half microseconds. -/
def State.mapLeadBad (s : State) (n : Nat) : Bool :=
  decide (2 * ((s.rd .BGHT_LINE_CFG_MAP_LEAD n - 1) * 125) < 3 * (s.rd .BGHT_LINE_CFG_RNG_BASE n + 200) + 50)

/-- Whether a field of a line lies outside its range (cause 0x7). -/
def State.bightRange (s : State) (n : Nat) : Bool :=
  let out (f : Fld) (a b : Nat) : Bool := s.rd f n < a || b < s.rd f n
  out .BGHT_LINE_CFG_RNG_BASE 0 500 || out .BGHT_LINE_CFG_DN_LEAD 8 255 || out .BGHT_LINE_CFG_REPEAT 1 3 ||
    out .BGHT_LINE_CFG_MAP_LEAD 2 15 || out .BGHT_DISC_CFG_STALE_S 1 255 || out .BGHT_DISC_CFG_RNG_PER_CYCLE 1 64 ||
    out .BGHT_DISC_CFG_DISC_INT 10 10000 ||
    (List.range 32).any (fun f => let t := s.rd .BGHT_UP_CFG_TAPS n f; t < 3 || 31 < t || t % 2 == 0) ||
    (s.leavesOn n).any fun i => s.rd .BGHT_LEAF_POLL_P n i == 0 || s.rd .BGHT_LEAF_WEIGHT n i == 0 ||
      !pairOk (s.rd .BGHT_LEAF_UP_START_BASE n i) (s.rd .BGHT_LEAF_UP_START_ENT n i)

/-- The rules of Table 4.19, rights apart. -/
def checkBight (t : State) : Option Breach :=
  firstBreach [
    (1, lowest 3 t.lineDom fun n => t.layoutBad .BGHT_UP_CFG_WIDTH 4 n),
    (2, lowest 3 t.lineDom fun n => t.hubSet n && t.rd .BRAD_SC_CFG_WIDTH n (t.rd .BGHT_LINE_CFG_CTRL_SLOT n) != 1),
    (3, lowest 3 t.lineDom fun n => (t.leavesOn n).any fun i => t.leafBinding n i),
    (4, lowest 3 t.lineDom fun n => (t.leavesOn n).any fun i =>
      let x := t.rd .BGHT_LEAF_SERIAL n i
      x == 0 || (t.leavesOn n).any fun j => i < j && t.rd .BGHT_LEAF_SERIAL n j == x),
    (5, lowest 3 t.lineDom fun n => (t.firstSlots .BGHT_UP_CFG_WIDTH n).any fun f => t.admission n f),
    (6, lowest 3 t.lineDom t.mapLeadBad),
    (7, lowest 3 t.lineDom t.bightRange)]

/-- A new control subcarrier is QPSK with H = 2.00 from its start, and no change of it stays announced (R107). -/
def State.newControl (s old : State) (n : Nat) : State :=
  let slot := s.rd .BGHT_LINE_CFG_CTRL_SLOT n
  if old.rd .BGHT_LINE_CFG_CTRL_SLOT n = slot || !s.ctrlReady n then s
  else
    let b := s.bgt n
    (s.setBgt n { b with dnDue := Tab.erase b.dnDue slot }).setAct n slot 0 32

/-- What an applied BGHT commit does on a Hub line (Table 4.9, R110): a changed CTRL_SLOT or upstream layout returns every enabled leaf to
Undiscovered; a leaf enabled starts there; one disabled is sent LEAF_CMD with OP = 0 and has no state. Grants already sent are honoured where
their subcarrier still stands. -/
def State.bightCommitted (s old : State) (n : Nat) : State :=
  if s.lineMode n != 2 then s
  else
    let s := (s.refreshCtrl n).newControl old n
    let stands (f : Nat) : Bool := old.rd .BGHT_UP_CFG_WIDTH n f == s.rd .BGHT_UP_CFG_WIDTH n f
    let relaid := old.rd .BGHT_LINE_CFG_CTRL_SLOT n != s.rd .BGHT_LINE_CFG_CTRL_SLOT n ||
      (List.range 32).any fun f => old.rd .BGHT_UP_CFG_WIDTH n f != s.rd .BGHT_UP_CFG_WIDTH n f
    let b := s.bgt n
    let s := s.setBgt n { b with
      subs := b.subs.filter (fun e => stands e.1), grants := b.grants.filter (fun g => stands g.sub),
      reserved := b.reserved.filter fun r => stands (r.1 % 32) }
    let s := s.each ((old.leavesOn n).filter fun i => !s.on .BGHT_LEAF_EN n i) fun i t =>
      let t := if t.leafState n i = 2 ∨ t.leafState n i = 3 then t.sendRepeat n (leafCmdMsg i 0) else t
      let b := t.bgt n
      ((t.setBgt n { b with leaves := Tab.erase b.leaves i }).setReg .BGHT_LEAF_ST (regReset ⟨.BGHT_LEAF_ST, n, i, 0⟩) n i).setLeafState
        n i 7
    (s.each (s.leavesOn n) fun i t => if relaid || !old.on .BGHT_LEAF_EN n i then t.undiscover n i else t).refreshBpq n

/-- The same for all lines. -/
def afterBight (old new : State) : State := new.each [0, 1, 2] fun n t => t.bightCommitted old n

end Sys2Proof.Machine
end

