-- ==== Sys2Proof/Machine/Rings.lean ====
section
/-! DEFINITION. Becket's host side (chapter 13): ring set-up, doorbells, halts, acceptance of descriptors, completions, MSI-X. -/

namespace Sys2Proof.Machine

open Sys2Proof

/-! ### Regions that rings and buffers use (R375) -/

/-- Whether a region is Ready (Table 14.3). -/
def State.regionReady (s : State) (e : Nat) : Bool := s.rd .BCKT_REGION_RSTATE e == 2

/-- The port that a region's counts and events name: its own, or CXL-A for an interleaved one. -/
def State.regionPort (s : State) (e : Nat) : Nat := if s.on .BCKT_REGION_INTLV e then 0 else s.rd .BCKT_REGION_PORT e

/-- A read of a region that is not Ready, at an offset (R375): counted; event 0x080C at most once per second per region. -/
def State.notReadyRead (s : State) (e off : Nat) : State :=
  let p := (s.regionPlace e off).1
  let s := s.count .BCKT_MEM_CNT 1 p 3
  if s.mem.notReadySaid.contains e then s
  else
    { s with mem := { s.mem with notReadySaid := e :: s.mem.notReadySaid } }.raise .BCKT_MEM_EVT_NEVER_WR 0x080C 0 [p, e] false p

/-! ### Commands whose completions are dropped (R340, R360) -/

/-- INFL of a command ring: the accepted commands not completed (Table 13.18). -/
def State.showInfl (s : State) (r : Nat) : State :=
  s.wr .BCKT_RING_ST_INFL ((s.inflight.filter fun c => c.ring == r && !c.dropped).length) r

/-- A reserved completion entry given back. -/
def State.unreserve (s : State) (r : Nat) : State :=
  let x := s.ring r
  s.setRing r { x with reserved := x.reserved - 1 }

/-- The completions of some commands are discarded and counted. -/
def State.dropWhere (s : State) (p : Cmd → Bool) : State :=
  let hit := s.inflight.filter fun c => p c && !c.dropped
  let s := { s with inflight := s.inflight.map fun c => if p c then { c with dropped := true } else c }
  let s := s.count .BCKT_CNT hit.length 7
  hit.foldl (fun t c => (t.unreserve c.pair).showInfl c.ring) s

/-! ### Halts (R360) -/

/-- The event of a Halted ring (R360): to its domain's event ring, to D0's if that one is Halted, or only to BCKT_EVT. -/
def State.haltEvent (s : State) (r : Nat) : State :=
  let d := s.ringDom r
  let t := (s.wr .BCKT_EVT_HALTED 1).emit (.event 0x0803 d [r] false)
  let runs (q : Option Nat) : Option Nat := q.filter fun q => t.rd .BCKT_RING_ST_STATE q == 1
  match runs (t.eventRing d) with
  | some q => t.eventTo q 0x0803 d [r] false
  | none =>
    match runs (t.eventRing 0) with
    | some q => t.eventTo q 0x0803 d [r] false
    | none => t

/-- The command rings whose completion ring is among some rings. -/
def State.ringsOf (s : State) (l : List Nat) : List Nat :=
  s.listedRings.filter fun r =>
    s.rd .BCKT_RING_CFG_TYPE r == 0 && l.contains (s.rd .BCKT_RING_CFG_PAIR r) && !l.contains r

/-- Some rings are Halted by one cause, the command rings that report to them with them (R360): a Flushing ring is Disabled at once
(R340); unsent messages are dropped (R362); the completions due are discarded; then the events. -/
def State.haltRings (s : State) (l : List Nat) (cause : Nat) : State :=
  let live (r : Nat) : Bool := s.rd .BCKT_RING_ST_STATE r == 1 || s.rd .BCKT_RING_ST_STATE r == 2
  let hit := l.filter live
  let hit := hit ++ (s.ringsOf hit).filter live
  let s := s.each hit fun r t =>
    ((t.wr .BCKT_RING_ST_STATE (if t.on .BCKT_RING_CFG_EN r then 3 else 0) r).wr .BCKT_RING_ST_HALT_CAUSE cause r).setRing r
      { t.ring r with sinceMsg := 0 }
  let s := s.dropWhere fun c => hit.contains c.ring || hit.contains c.pair
  s.each hit fun r t => t.haltEvent r

/-- Every ring with LOC = 0 is Halted (R335, R336). -/
def State.haltHost (s : State) (cause : Nat) : State :=
  s.haltRings (s.listedRings.filter fun r => !s.on .BCKT_RING_CFG_LOC r) cause

/-- The rings of a region that leaves Ready are Halted (R375). -/
def State.haltRegion (s : State) (e : Nat) : State :=
  s.haltRings (s.listedRings.filter fun r => s.on .BCKT_RING_CFG_LOC r && s.rd .BCKT_RING_CFG_REGION r == e) 4

/-! ### Set-up (R339, R340, R367) -/

/-- The lost events of an event ring with room are reported as the first entry (R358). -/
def State.reportLost (s : State) (r : Nat) : State :=
  let x := s.ring r
  if x.lost != 0 && s.ringRuns r 2 && s.ringRoom r then
    let s := (s.setRing r { x with lost := 0, firstLost := 0, lastLost := 0 }).wr .BCKT_EVT_EVQ_OVERFLOW 1
    (s.emit (.event 0x0801 (s.ringDom r) [x.lost, x.firstLost, x.lastLost] false)).eventWrite r 0x0801 (s.ringDom r)
      [x.lost, x.firstLost, x.lastLost] false
  else s

/-- A ring is enabled: indices zero, HALT_CAUSE clear, first pass (R340); while the CXL-U link is down or viral, a ring with LOC = 0 is
Halted (R335, R336). -/
def State.enableRing (s : State) (r : Nat) : State :=
  let s := (((s.wr .BCKT_RING_ST_PROD 0 r).wr .BCKT_RING_ST_CONS 0 r).wr .BCKT_RING_ST_HALT_CAUSE 0 r).wr .BCKT_RING_ST_STATE 1 r
  let s := s.setRing r { s.ring r with sinceMsg := 0, reserved := 0 }
  if s.on .BCKT_RING_CFG_LOC r then s.reportLost r
  else if s.on .BCKT_U_STAT_VIRAL then s.haltRings [r] 6
  else if !s.on .BCKT_U_STAT_LINK_UP then s.haltRings [r] 5
  else s.reportLost r

/-- EN of a ring has been cleared (R340). -/
def State.disableRing (s : State) (r : Nat) : State :=
  let s := s.setRing r { s.ring r with sinceMsg := 0 }
  if s.rd .BCKT_RING_CFG_TYPE r = 0 then
    let busy := s.inflight.any fun c => c.ring == r && !c.dropped
    if s.rd .BCKT_RING_ST_STATE r = 1 ∧ busy then s.wr .BCKT_RING_ST_STATE 2 r
    else (s.wr .BCKT_RING_ST_STATE 0 r).dropWhere fun c => c.ring == r
  else
    let flushing := (s.ringsOf [r]).filter fun q => s.rd .BCKT_RING_ST_STATE q == 2
    let s := s.wr .BCKT_RING_ST_STATE 0 r
    let s := s.each flushing fun q t => t.wr .BCKT_RING_ST_STATE 0 q
    s.dropWhere fun c => c.pair == r

/-- The cause of Table 13.21 that enabling a ring with an entry would break; 0: none. -/
def State.enableCause (s : State) (v : Nat) : Nat :=
  let f (x : Fld) : Nat := bits v x.hi x.lo
  let p := f .BCKT_RING_CFG_PAIR
  if 12 < f .BCKT_RING_CFG_SIZE ∨ bits v 11 0 ≠ 0 then 2
  else if f .BCKT_RING_CFG_TYPE = 0 && !(s.on .BCKT_RING_CFG_EN p && s.rd .BCKT_RING_CFG_TYPE p == 1 &&
      s.ringDom p == f .BCKT_RING_CFG_DOM) then 3
  else if f .BCKT_RING_CFG_LOC = 1 && !s.regionReady (f .BCKT_RING_CFG_REGION) then 4
  else 0

/-- A word of BCKT_RING_CFG written with the rights it needs. -/
def State.setRingCfg (s : State) (r w v : Nat) : State :=
  let old := s.reg .BCKT_RING_CFG r
  let new := rwWrite .BCKT_RING_CFG old (setBits old (32 * w + 31) (32 * w) v)
  if s.on .BCKT_RING_CFG_EN r then
    if setBits new 64 64 1 ≠ old then s.refuse 1 1 r (s.ringDom r)
    else if bit new 64 then s
    else if s.rd .BCKT_RING_CFG_TYPE r == 1 && (s.ringsOf [r]).any (fun q => s.on .BCKT_RING_CFG_EN q) then
      s.refuse 1 6 r (s.ringDom r)
    else (s.setReg .BCKT_RING_CFG new r).disableRing r
  else if bit new 64 then
    let c := s.enableCause new
    if c = 0 then (s.setReg .BCKT_RING_CFG new r).enableRing r else s.refuse 1 c r (s.ringDom r)
  else s.setReg .BCKT_RING_CFG new r

/-- A write of a word of BCKT_RING_CFG (R339, R367): Installer rights for DOM before and after. -/
def State.ringCfgWrite (s : State) (req : Requester) (r w v : Nat) : State :=
  let old := s.reg .BCKT_RING_CFG r
  let new := rwWrite .BCKT_RING_CFG old (setBits old (32 * w + 31) (32 * w) v)
  s.writeOr req 2 [bits old 70 67, bits new 70 67] (regAddr ⟨.BCKT_RING_CFG, r, 0, 0⟩ + 4 * w) (bits old (32 * w + 31) (32 * w)) v
    false 1 5 r fun t => t.setRingCfg r w v

/-- The same as a row of the table. -/
def execRingCfgWrite (req : Requester) (r : Ring) (w : Fin 4) (v : BitVec 32) (s : State) : Res :=
  access req 1 s fun s => s.ringCfgWrite req r w v.toNat

/-! ### Doorbells (R338, R342) -/

/-- An invalid doorbell: discarded, counted, event 0x0802; for a command ring also in OVF (Table 13.18). -/
def State.badDoorbell (s : State) (r : Nat) : State :=
  let s := s.count .BCKT_CNT 1 5
  let s := if s.rd .BCKT_RING_CFG_TYPE r = 0 then s.inc .BCKT_RING_ST_OVF 1 r else s
  s.raise .BCKT_EVT_BAD_DOORBELL 0x0802 (s.ringDom r) [r]

/-- Whether a doorbell value is valid for a ring (R342). -/
def State.doorbellOk (s : State) (r v : Nat) : Bool :=
  let m := 2 ^ 17
  let prod := s.rd .BCKT_RING_ST_PROD r
  let cons := s.rd .BCKT_RING_ST_CONS r
  decide (v < m) && s.on .BCKT_RING_CFG_EN r &&
    (if s.rd .BCKT_RING_CFG_TYPE r = 0 then
      decide (wrapSub m v prod ≤ s.ringSize r ∧ wrapSub m v cons ≤ s.ringSize r)
    else decide (wrapSub m v cons ≤ wrapSub m prod cons))

/-- A doorbell by a requester that reaches it (R333, R338, R390): the host through BAR2, but not a ring of Marline software; a core
through its own window. -/
def State.doorbell (s : State) (req : Requester) (r v : Nat) : State :=
  let reach := match req with
    | .host _ => !s.on .BCKT_RING_CFG_LOC r
    | _ => true
  if !reach || !s.doorbellOk r v then s.badDoorbell r
  else if s.rd .BCKT_RING_CFG_TYPE r = 0 then (s.wr .BCKT_RING_ST_PROD v r).setRing r { s.ring r with ringer := s.stampOf req }
  else (s.wr .BCKT_RING_ST_CONS v r).reportLost r

/-- The offset of a ring's doorbell slot in BAR2 (R18). -/
def doorbellOffset (r : Nat) : Nat := 64 * r

/-- The ring at whose slot's offset 0 an access of so many bytes in BAR2 is a doorbell access (R18, R342): of 32 bits. -/
def doorbellRing (offset bytes : Nat) : Option Nat :=
  if bytes = 4 ∧ offset % 64 = 0 ∧ offset / 64 < 32768 then some (offset / 64) else none

/-- The index of a ring that the ring engine owns (R341, R343). -/
def State.ownIndex (s : State) (r : Nat) : Nat :=
  if s.rd .BCKT_RING_CFG_TYPE r = 0 then s.rd .BCKT_RING_ST_CONS r else s.rd .BCKT_RING_ST_PROD r

/-- DOORBELL: an access to BAR2 at an offset, of some bytes, which writes a value or reads (R18, R342, R343). A write that is no doorbell is
discarded and counted, a read that is none returns zero. JTAG and the I3C target reach none (R333). -/
def execDoorbell (req : Requester) (offset bytes : Nat) (value : Option (BitVec 64)) (s : State) : Res := act 1 s fun s =>
  match req with
  | .i3c => s
  | .jtag => s
  | _ =>
    match doorbellRing offset bytes, value with
    | some r, some v => s.doorbell req r (v.toNat % 2 ^ 32)
    | some r, none => s.emit (.read req (s.ownIndex r))
    | none, some _ => s.count .BCKT_CNT 1 5
    | none, none => s.emit (.read req 0)

/-! ### Acceptance (R349 to R357) -/

/-- What the ring engine knows of an OPCODE: the UNIT type it takes, the least role, and the PARAM bytes it uses (offset from byte 16,
length). -/
structure OpInfo where
  unit : Nat
  role : Nat
  used : List (Nat × Nat) := []
  deriving DecidableEq, Repr

/-- The least role for an area of NV_WRITE and NV_COMMIT (Tables 16.1 and 16.3): the remap record needs Maker; the credential entries that
need Maker, and the domains of KEK blobs, are judged with their content (R426). -/
def areaRole (a : Nat) : Nat := if a = 6 then 3 else if a = 5 then 0 else 2

/-- The commands of Tables 13.9, 14.6, 15.6a, 16.5, 18.5 and 19.5 (R352). -/
def opInfo (op : Nat) (p0 : Nat) : Option OpInfo :=
  match op with
  | 0x0001 => some ⟨0, 1, []⟩
  | 0x0002 => some ⟨8, 1, []⟩
  | 0x0101 => some ⟨7, 1, [(0, 1), (8, 8)]⟩
  | 0x0102 => some ⟨7, 1, [(0, 1), (8, 8)]⟩
  | 0x0103 => some ⟨7, 2, [(0, 2)]⟩
  | 0x0104 => some ⟨7, 2, []⟩
  | 0x0105 => some ⟨7, 1, []⟩
  | 0x0106 => some ⟨7, 2, []⟩
  | 0x0201 => some ⟨6, 2, []⟩
  | 0x0202 => some ⟨6, 1, [(0, 1)]⟩
  | 0x0203 => some ⟨6, if p0 = 1 then 1 else 2, [(0, 1)]⟩
  | 0x0204 => some ⟨6, 2, []⟩
  | 0x0205 => some ⟨6, 1, []⟩
  | 0x0301 => some ⟨3, 1, []⟩
  | 0x0302 => some ⟨3, 1, []⟩
  | 0x0303 => some ⟨if bit p0 0 then 1 else 3, 2, [(0, 1)]⟩
  | 0x0401 => some ⟨0, 0, []⟩
  | 0x0402 => some ⟨0, 0, []⟩
  | 0x0403 => some ⟨0, 0, [(0, 2)]⟩
  | 0x0404 => some ⟨0, 0, [(0, 1)]⟩
  | 0x0405 => some ⟨9, 1, [(0, 12)]⟩
  | 0x0406 => some ⟨9, 2, [(0, 8)]⟩
  | 0x0407 => some ⟨9, areaRole p0, [(0, 2), (4, 4)]⟩
  | 0x0408 => some ⟨9, areaRole p0, [(0, 1)]⟩
  | 0x0409 => some ⟨9, 3, [(0, 1)]⟩
  | 0x040A => some ⟨9, 1, []⟩
  | 0x0501 => some ⟨9, 1, [(0, 1)]⟩
  | 0x0502 => some ⟨9, 2, [(0, 1)]⟩
  | 0x0503 => some ⟨1, 1, [(0, 1)]⟩
  | 0x0601 => some ⟨9, 1, [(0, 1)]⟩
  | 0x0602 => some ⟨9, 2, [(0, 1)]⟩
  | 0x0603 => some ⟨9, 1, [(0, 1)]⟩
  | 0x0604 => some ⟨9, 1, [(0, 2)]⟩
  | 0x0801 => some ⟨1, 2, [(0, 8)]⟩
  | 0x0802 => some ⟨1, 2, []⟩
  | 0x0803 => some ⟨9, 1, []⟩
  | 0x0804 => some ⟨1, 1, []⟩
  | 0x0805 => some ⟨9, 1, [(0, 4)]⟩
  | 0x0901 => some ⟨9, 1, []⟩
  | 0x0902 => some ⟨9, 1, []⟩
  | _ => none

/-- The owning domain of a UNIT (Table 13.8b): nothing where the form is not that of a unit of the device; no domain for type 0. -/
def State.unitDomain (s : State) (u : Nat) : Option (Option Nat) :=
  let b := u % 2 ^ 28
  let line := b / 256
  let own (ok : Bool) (d : Nat) : Option (Option Nat) := if ok then some (some d) else none
  match u / 2 ^ 28 with
  | 0 => if b = 0 then some none else none
  | 1 => own (b < 3) (s.lineDom b)
  | 2 => own (line < 3 && b % 256 < 32) (s.slotDom line (b % 256))
  | 3 => own (line < 3) (s.leafDom line (b % 256))
  | 4 => own (b < 48) (s.cliDom b)
  | 5 => own (regValid ⟨.SHET_TS, b, 0, 0⟩) (s.tsDom b)
  | 6 => own (b < 16) (s.pgDom b)
  | 7 => own (b < 256) (s.kcDom b)
  | 8 => own (b < 32768) (s.ringDom b)
  | 9 => own (b = 0) 0
  | _ => none

/-- The status of check 3 of R349 for a unit (R350): its form, then its domain; 0 passes. -/
def State.unitStatus (s : State) (u type dom : Nat) : Nat :=
  match s.unitDomain u with
  | none => 5
  | some d => if u / 2 ^ 28 ≠ type then 5 else match d with
    | some d => if d = dom then 0 else 3
    | none => 0

/-- The unit that a command names in PARAM: the stream ring of AUDIT_READ. -/
def namedUnits (op : Nat) (param : List Byte) : List (Nat × Nat) :=
  if op = 0x0405 then [(8 * 2 ^ 28 + leAt param 10 2, 8)] else []

/-- The status of check 3 over every unit that a command names: forms first, then domains. -/
def State.unitsStatus (s : State) (l : List (Nat × Nat)) (dom : Nat) : Nat :=
  let st := l.map fun u => s.unitStatus u.1 u.2 dom
  if st.contains 5 then 5 else if st.contains 3 then 3 else 0

/-- Check 5 of R349: the indirect buffer, as the read of it came back (R346, R375, R376). -/
def State.indStatus (s : State) (d : List Byte) (ind : BufferRead) : Nat × Nat :=
  let len := leAt d 56 2
  let reg := byteAt d 59
  if !bit (byteAt d 2) 2 then (0, 0)
  else if len < 8 ∨ 4096 < len ∨ len % 4 ≠ 0 then (5, 0)
  else if bit (byteAt d 58) 0 && !s.regionReady reg then (9, 0)
  else if bit (byteAt d 58) 0 && !s.inRegion reg (leAt d 40 8) len then (5, 0)
  else match ind with
    | .poison => (10, 0)
    | .data b => if b.length = len ∧ crcOk b then (0, 0) else (1, 2)

/-- The first part of check 6: reserved fields, PARAM bytes that the command does not use, and a result buffer outside its region. -/
def State.fieldsOk (s : State) (d : List Byte) (info : OpInfo) : Bool :=
  let used (k : Nat) : Bool := info.used.any fun u => u.1 ≤ k && decide (k < u.1 + u.2)
  byteAt d 2 < 16 && byteAt d 3 == 0 && leAt d 12 4 == 0 && byteAt d 58 < 4 &&
    (List.range 24).all (fun k => used k || byteAt d (16 + k) == 0) &&
    (!(bit (byteAt d 2) 3 && bit (byteAt d 58) 1) || s.inRegion (byteAt d 59) (leAt d 48 8) 64)

/-- An NV_WRITE of a KEK blob needs Installer rights for the blob's domain (Table 16.3). -/
def State.areaRights (s : State) (req : Requester) (d : List Byte) : Bool :=
  leAt d 0 2 != 0x0407 || byteAt d 16 != 5 || 2 ≤ s.roleIn req (byteAt d 17 % 16)

/-- The status and reason that the checks of R349 give a descriptor; 0: every one of the ring engine passes. A descriptor beyond the end of
the ring's region is refused with PARAM (R371). -/
def State.judge (s : State) (r : Nat) (d : List Byte) (ind : BufferRead) : Nat × Nat :=
  let dom := s.ringDom r
  if s.ringOutside r (s.rd .BCKT_RING_ST_CONS r) then (5, 0)
  else if d.length ≠ 64 ∨ !crcOk d then (1, 1)
  else
    match opInfo (leAt d 0 2) (byteAt d 16) with
    | none => (2, 0)
    | some info =>
      let u := s.unitsStatus ((leAt d 8 4, info.unit) :: namedUnits (leAt d 0 2) ((d.drop 16).take 24)) dom
      if u ≠ 0 then (u, 0)
      else if s.roleIn (s.ring r).ringer dom < info.role || !s.areaRights (s.ring r).ringer d then (4, 0)
      else
        let i := s.indStatus d ind
        if i.1 ≠ 0 then i else if s.fieldsOk d info then (0, 0) else (5, 0)

/-- What a failed check counts and raises (R349, Table 13.20). -/
def State.judged (s : State) (r status reason : Nat) : State :=
  match status with
  | 1 => if reason = 1 then (s.count .BCKT_CNT 1 1).raise .BCKT_EVT_DESC_CRC 0x0805 (s.ringDom r) [r] else s
  | 3 => s.count .BCKT_CNT 1 2
  | 4 => s.count .BCKT_CNT 1 3
  | _ => s

/-- The indirect buffer of a descriptor without its CRC, as the read of it came back. -/
def indOf (d : List Byte) (ind : BufferRead) : List Byte :=
  if bit (byteAt d 2) 2 then (match ind with
    | .data b => b.take (b.length - 4)
    | .poison => []) else []

/-- What a command's journal record gives as NEW (Table 16.2): the KID of a key's load (R250), the number of a credential entry. -/
def noteOf (d : List Byte) (ind : BufferRead) : Nat :=
  match leAt d 0 2 with
  | 0x0101 => leAt (indOf d ind) 16 8
  | 0x0106 => leAt (indOf d ind) 16 8
  | 0x0402 => byteAt (indOf d ind) 1
  | _ => 0

/-- The command that a descriptor gives. -/
def State.cmdOf (s : State) (r idx : Nat) (d : List Byte) (ind : BufferRead) : Cmd :=
  { num := s.nextCmd, ring := r, idx := idx, opcode := leAt d 0 2, flags := byteAt d 2, tag := leAt d 4 4, unit := leAt d 8 4,
    param := (d.drop 16).take 24, resAddr := leAt d 48 8, loc := byteAt d 58, region := byteAt d 59,
    ind := indOf d ind, note := noteOf d ind,
    req := (s.ring r).ringer, pair := s.rd .BCKT_RING_CFG_PAIR r, role := s.roleIn (s.ring r).ringer (s.ringDom r) }

/-- Whether a command ring has work that no limit holds back (R355, R357, R359). -/
def State.ringWorks (s : State) (r : Nat) : Bool :=
  s.ringRuns r 0 && s.rd .BCKT_RING_ST_PROD r != s.rd .BCKT_RING_ST_CONS r &&
    decide (s.rd .BCKT_RING_ST_INFL r < clipField 7 1 64 (s.rd .BCKT_ENG_CFG_INFL_RING)) &&
    decide ((s.inflight.filter fun c => !c.dropped).length < 4096) && s.ringRoom (s.rd .BCKT_RING_CFG_PAIR r)

/-- Whether R419 journals a command: made with Installer or Maker rights, or an Operator command of class 0x01 or 0x02. -/
def Cmd.journaled (c : Cmd) : Bool := 2 ≤ c.role || (c.role == 1 && (c.opcode / 256 == 1 || c.opcode / 256 == 2))

/-- The journal record of a command (Table 16.2). -/
def State.recordCmd (s : State) (c : Cmd) (kind status aux : Nat) : State :=
  s.record c.req c.role (s.ringDom c.ring) kind status (c.opcode + c.unit <<< 16) c.tag c.note aux

/-- A descriptor is accepted: an entry reserved, CONS moved on, counted, the checks of R349 made; a refused command that R419 journals is
journaled now. -/
def State.accept (s : State) (r : Nat) (d : List Byte) (ind : BufferRead) : State :=
  let idx := s.rd .BCKT_RING_ST_CONS r
  let pair := s.rd .BCKT_RING_CFG_PAIR r
  let c := s.cmdOf r idx d ind
  let (status, reason) := s.judge r d ind
  let s := (s.setRing pair { s.ring pair with reserved := (s.ring pair).reserved + 1 }).wr .BCKT_RING_ST_CONS
    ((idx + 1) % 2 ^ 17) r
  let s := { s.count .BCKT_CNT 1 0 with
    nextCmd := s.nextCmd + 1
    inflight := s.inflight ++ [{ c with done := status != 0, status := status, reason := reason }] }
  let s := if status = 9 then s.notReadyRead c.region (leAt d 40 8) else s
  let s := if status ≠ 0 && c.journaled && !s.journalBlocked then s.recordCmd c 3 status 0 else s
  (s.showInfl r).judged r status reason

/-- The ring engine reads the next descriptor of a ring (R349, R359): an error or poison Halts the ring (R360); a FENCE waits until every
earlier command of the ring has written its completion (R354). -/
def execDescriptorAccept (r : Ring) (d : DescRead) (s : State) : Res := act 1 s fun s =>
  if !s.ringWorks r then s
  else
    match d with
    | .error => s.haltRings [r.val] 1
    | .poison => s.haltRings [r.val] 3
    | .data b ind =>
      if s.ringOutside r (s.rd .BCKT_RING_ST_CONS r) then s.accept r [] ind
      else if bit (byteAt b 2) 0 && s.rd .BCKT_RING_ST_INFL r != 0 then s else s.accept r b ind

/-! ### Completions (R346, R347, R361) -/

/-- Whether the device can write to host memory: the link is up and not viral. -/
def State.hostWrites (s : State) : Bool := s.on .BCKT_U_STAT_LINK_UP && !s.on .BCKT_U_STAT_VIRAL

/-- The result buffer of a command that named one (R346); a write to a region that is not Ready is discarded and counted (R375). -/
def State.writeResult (s : State) (c : Cmd) : State :=
  if bit c.flags 3 && c.status == 0 then
    if bit c.loc 1 then
      if s.regionReady c.region then s.emit (.resultBuffer true c.region c.resAddr (withCrc (padTo 60 c.buffer)))
      else s.count .BCKT_MEM_CNT 1 (s.regionPlace c.region c.resAddr).1 4
    else if s.hostWrites then s.emit (.resultBuffer false 0 c.resAddr (withCrc (padTo 60 c.buffer)))
    else s
  else s

/-- The 28 bytes of a completion before its CRC (Table 13.6). -/
def completionBody (c : Cmd) (phase : Nat) : List Byte :=
  leBytes 2 c.opcode ++ leBytes 1 c.status ++ leBytes 1 phase ++ leBytes 4 c.tag ++ leBytes 2 c.ring ++ leBytes 2 c.idx ++
    leBytes 1 (if c.status = 0 then 0 else c.reason) ++ [0, 0, 0] ++ padTo 12 (if c.status = 0 then c.result else [])

/-- A ring that was Flushing is Disabled after its last completion (R340). -/
def State.endFlush (s : State) (r : Nat) : State :=
  if s.rd .BCKT_RING_ST_STATE r = 2 ∧ s.rd .BCKT_RING_ST_INFL r = 0 then s.wr .BCKT_RING_ST_STATE 0 r else s

/-- A finished command writes its result buffer and its completion; a dropped one writes nothing. The last operand: the ring memory write
completes without an error (cause 2 of Table 13.11). -/
def execCommandCompletion (h : Nat) (ok : Bool) (s : State) : Res := act 1 s fun s =>
  match s.cmd h with
  | none => s
  | some c =>
    if !c.done then s
    else
      let s := { s with inflight := s.inflight.filter fun x => x.num != h }
      if c.dropped then s
      else if !ok then (({ s with inflight := c :: s.inflight }).haltRings [c.pair] 2).dropWhere fun x => x.num == h
      else
        let s := (s.unreserve c.pair).showInfl c.ring
        ((s.writeResult c).ringPut c.pair (completionBody c) (bit c.flags 1)).endFlush c.ring

/-- CMD_TMO milliseconds have passed since a command's acceptance (R361). -/
def execCommandTimeout (h : Nat) (s : State) : Res := act 1 s fun s =>
  match s.cmd h with
  | none => s
  | some c =>
    if c.done then s
    else
      let s := s.setCmd h fun c => { c with done := true, status := 11, timedOut := true }
      (s.count .BCKT_CNT 1 4).raise .BCKT_EVT_TIMEOUT 0x0804 (s.ringDom c.ring) [c.ring]

/-! ### Execution of an accepted command -/

/-- Whether an accepted command may execute now: it passed the checks, has not started, and no earlier command of its ring that names the
same unit still waits (R354); after a TIMEOUT its effect may still take place (R361). -/
def State.mayRun (s : State) (c : Cmd) (op : Nat) : Bool :=
  c.opcode == op && !c.started && (!c.done || c.timedOut) &&
    !s.inflight.any (fun x => x.ring == c.ring && x.unit == c.unit && decide (x.num < c.num) && !x.started && !x.done)

/-- The outcome of a command row: the accepted command h with that OPCODE executes in block b. -/
def ospinRaw (b op h : Nat) (s : State) (f : Cmd → State → State) : Res := act 1 s fun s =>
  match s.cmd h with
  | none => s
  | some c => if s.alive b && s.mayRun c op then f c (s.setCmd h fun c => { c with started := true }) else s

/-- A command that cannot be journaled is refused (R428, R421): STATE, REASON 2; under HOLD_ACTIVE event 0x1015. -/
def State.refuseUnjournaled (s : State) (h : Nat) : State :=
  let t := s.finish h 6 2 [] []
  if s.on .MRLN_NV_ST_HOLD_ACTIVE then t.raise .MRLN_NV_EVT_HOLD 0x1015 0 [] else t

/-- The journal record of an executed command, with the status it has reached. -/
def State.recordDone (s : State) (h kind aux : Nat) : State :=
  match s.cmd h with
  | some c => s.recordCmd c kind c.status aux
  | none => s

/-- The same with its journaling (R419): in the cycle in which it takes effect or is refused. -/
def ospin (b op h : Nat) (s : State) (f : Cmd → State → State) : Res := ospinRaw b op h s fun c s =>
  if !c.journaled then f c s
  else if s.journalBlocked then s.refuseUnjournaled h
  else (f c s).recordDone h 3 0

/-- A byte of PARAM by its place in the descriptor (Table 13.5). -/
def Cmd.par (c : Cmd) (pos len : Nat) : Nat := leAt c.param (pos - 16) len

/-- Command 0x0001 (Table 13.9). -/
def execNop (h : Nat) (s : State) : Res := ospin 1 0x0001 h s fun _ s => s.finish h 0 0 [] []

/-- Command 0x0002 (Table 13.10). -/
def execRingQuery (h : Nat) (s : State) : Res := ospin 1 0x0002 h s fun c s =>
  s.finish h 0 0 (leBytes 8 (s.reg .BCKT_RING_ST (c.unit % 2 ^ 15))) []

/-! ### MSI-X (R362) -/

/-- IRQ_US after the first entry written since the last message. -/
def execMsixTimer (r : Ring) (s : State) : Res := act 1 s fun s =>
  let x := s.ring r
  if s.on .BCKT_RING_CFG_IRQ_EN r && s.rd .BCKT_RING_CFG_IRQ_US r != 0 && x.sinceMsg != 0 && s.rd .BCKT_RING_ST_STATE r == 1 then
    (s.setRing r { x with sinceMsg := 0 }).message (s.rd .BCKT_RING_CFG_VEC r)
  else s

/-- The word of 32 bits at an offset of BAR4 (R333): an entry of the MSI-X table, message address, data and vector control; a word of the
pending-bit array; zero elsewhere. -/
def State.bar4Word (s : State) (off : Nat) : Nat :=
  if off < 0x8000 then
    let x := s.vecs.get {} (off / 16)
    match off / 4 % 4 with
    | 0 => x.addr % 2 ^ 32
    | 1 => x.addr / 2 ^ 32
    | 2 => x.data
    | _ => b2n x.masked
  else if off < 0x8100 then
    (List.range 32).foldl (fun a k => a + b2n (s.vecs.get {} (8 * (off - 0x8000) + k)).pending <<< k) 0
  else 0

/-- A word of an MSI-X vector's entry replaced. -/
def VecInt.setWord (x : VecInt) (w v : Nat) : VecInt :=
  match w with
  | 0 => { x with addr := setBits x.addr 31 0 v }
  | 1 => { x with addr := setBits x.addr 63 32 v }
  | 2 => { x with data := v }
  | _ => { x with masked := bit v 0 }

/-- A word of 32 bits written at an offset of BAR4 (R333, R362): in the table, where unmasking a vector with its pending bit set sends the
message; ignored elsewhere. -/
def State.setBar4Word (s : State) (off v : Nat) : State :=
  if off < 0x8000 then
    let x := (s.vecs.get {} (off / 16)).setWord (off / 4 % 4) v
    if x.pending && !x.masked then { s with vecs := s.vecs.put {} (off / 16) { x with pending := false } }.message (off / 16)
    else { s with vecs := s.vecs.put {} (off / 16) x }
  else s

/-- MSIX_UNMASK: an access to BAR4 at an offset, of some bytes, which writes a value or reads (R333). One of another form than a naturally
aligned one of 32 or 64 bits completes with Unsupported Request. BAR4 is reached only from CXL-U. -/
def execMsixUnmask (req : Requester) (offset bytes : Nat) (value : Option (BitVec 64)) (s : State) : Res := act 1 s fun s =>
  match req with
  | .host _ =>
    if !((bytes == 4 || bytes == 8) && offset % bytes == 0) then (s.inc .TOP_ACC_ERR_UR).emit (.unsupported req)
    else
      match value with
      | some v =>
        let s := s.setBar4Word offset (v.toNat % 2 ^ 32)
        if bytes = 8 then s.setBar4Word (offset + 4) (v.toNat / 2 ^ 32) else s
      | none => s.emit (.read req (s.bar4Word offset + (if bytes = 8 then s.bar4Word (offset + 4) <<< 32 else 0)))
  | _ => s

end Sys2Proof.Machine
end

