-- ==== Sys2Proof/Machine/Marline.lean ====
section
/-! DEFINITION. Marline (chapter 15): role sessions' ends, epochs, mailboxes, services, faults in a core, the voted triple, job scheduling. -/

namespace Sys2Proof.Machine

open Sys2Proof

/-- What the control complex holds, replaced. -/
def State.setMrl (s : State) (x : Marline) : State := { s with marline := x }

/-! ### Sessions end (R418) -/

/-- A session ends: event 0x1012, journaled as the device's own action (R419). -/
def State.endSession (s : State) (k : Nat) : State :=
  let v := s.reg .MRLN_ROLE_ST k
  if s.on .MRLN_ROLE_ST_VALID k then
    let s := { s.setReg .MRLN_ROLE_ST 0 k with sessLeft := s.sessLeft.put 0 k 0 }
    (s.raise .MRLN_NV_EVT_SESSION 0x1012 0 [] true).recordOwn 4 0 (regAddr ⟨.MRLN_ROLE_ST, k, 0, 0⟩) v 0 0
  else s

/-- The sessions of a requester, in ascending slot order. -/
def State.sessionsOf (s : State) (req : Requester) : List Nat :=
  (List.range 32).filter fun k =>
    s.on .MRLN_ROLE_ST_VALID k && s.rd .MRLN_ROLE_ST_SRC k == srcOf req && s.rd .MRLN_ROLE_ST_PASID k == pasidOf req

/-- The sessions whose source has a code end: an epoch change (R405, R418). -/
def State.endSessionsOf (s : State) (src : Nat) : State :=
  s.each (List.range 32) fun k t => if t.on .MRLN_ROLE_ST_VALID k && t.rd .MRLN_ROLE_ST_SRC k == src then t.endSession k else t

/-! ### Mailboxes (R401 to R405) -/

/-- The outbound queue of an end, oldest first; windows are numbered 2 × channel + end. -/
def State.mbQueue (s : State) (w : Nat) : List MbMsg := s.marline.queues.get [] w

/-- The same, replaced. -/
def State.setMbQueue (s : State) (w : Nat) (q : List MbMsg) : State :=
  s.setMrl { s.marline with queues := s.marline.queues.put [] w q }

/-- The other end of a channel. -/
def otherEnd (w : Nat) : Nat := if w % 2 = 0 then w + 1 else w - 1

/-- The words that a queue holds. -/
def mbWords (q : List MbMsg) : Nat := q.foldl (fun a m => a + m.words.length) 0

/-- The check word: a CRC-32C over the stamp and the payload (R402). -/
def mbCheck (stamp : Nat) (words : List Nat) : Nat := crc32c (leBytes 4 stamp ++ words.flatMap (leBytes 4))

/-- The fills, the head message and the epochs that an end's window shows (Table 15.13). -/
def State.showEnd (s : State) (w : Nat) : State :=
  let o := otherEnd w
  let inq := s.mbQueue o
  let head := inq.head?
  let hv := match head with
    | some m => m.stamp + m.words.length <<< 32 + b2n (m.check == mbCheck m.stamp m.words) <<< 37
    | none => 0
  let ws := (head.map fun m => m.words).getD []
  let s := ((s.wr .MRLN_END_ST_OUT_FILL (mbWords (s.mbQueue w)) w).wr .MRLN_END_ST_IN_FILL (mbWords inq) w).wr
    .MRLN_END_ST_PEER_EPOCH (s.rd .MRLN_END_ST_EPOCH o) w
  (s.setReg .MRLN_END_HEAD hv w).each (List.range 16) fun k t => t.setReg .MRLN_END_RXD (ws.getD k 0) w k

/-- The code of the requester bound to an end (Table 15.11). -/
def State.endBound (s : State) (w : Nat) : Nat := s.rd (if w % 2 = 0 then .MRLN_MB_CFG_END0 else .MRLN_MB_CFG_END1) (w / 2)

/-- An interrupt at an end: its bit; where it is enabled and the end is the host, an MSI-X message. -/
def State.mbInt (s : State) (w b : Nat) : State :=
  let s := s.setReg .MRLN_END_INT (setBits (s.reg .MRLN_END_INT w) b b 1) w
  if (s.rd .MRLN_END_INT_IE w).testBit b && s.endBound w == 0 then
    s.message (s.rd (if w % 2 = 0 then .MRLN_MB_CFG_VEC0 else .MRLN_MB_CFG_VEC1) (w / 2))
  else s

/-- The outbound queue of an end is discarded; the end receives FLUSHED with the number of messages (R405). -/
def State.flush (s : State) (w : Nat) : State :=
  let n := (s.mbQueue w).length
  let s := (((s.setMbQueue w []).wr .MRLN_END_ST_FLUSH_CNT n w).showEnd w).showEnd (otherEnd w)
  (s.mbInt w 2).raise .MRLN_EVT_FLUSHED 0x1006 (s.rd .MRLN_MB_CFG_MB_DOM (w / 2)) []

/-- The epoch of an end's requester changes (R405): EPOCH, its inbound queue discarded. -/
def State.resetEnd (s : State) (w : Nat) : State :=
  let s := (s.incWrap .MRLN_END_ST_EPOCH 1 w).flush (otherEnd w)
  (s.showEnd w).showEnd (otherEnd w)

/-- A requester is reset (R405, R418, R514): the ends bound to it, its latches and its sessions. -/
def State.epoch (s : State) (code : Nat) : State :=
  let s := s.each (List.range 32) fun w t => if t.on .MRLN_MB_CFG_EN (w / 2) && t.endBound w == code then t.resetEnd w else t
  ({ s with latches := s.latches.filter fun l => srcOf l.req != code }).endSessionsOf code

/-- The code of a requester as an end is bound to it; none for the I3C target and JTAG. -/
def State.endCode (s : State) (req : Requester) : Option Nat :=
  match s.stampOf req with
  | .host _ => some 0
  | .core k => some (k.val + 1)
  | _ => none

/-- An access to an end window (R401): by another requester than the one bound it is discarded, with event 0x1007. -/
def State.endAccess (s : State) (req : Requester) (w : Nat) (f : State → State) : State :=
  if s.endCode req = some (s.endBound w) then f s
  else s.raise .MRLN_EVT_WRONG_END 0x1007 (s.rd .MRLN_MB_CFG_MB_DOM (w / 2)) []

/-- A write to an end window: a host end needs Operator rights for MB_DOM (R401). -/
def State.endWrite (s : State) (req : Requester) (w addr old new : Nat) (f : State → State) : State :=
  s.endAccess req w fun t =>
    match req with
    | .host _ => t.write req 1 [t.rd .MRLN_MB_CFG_MB_DOM (w / 2)] addr old new false f
    | _ => f t

/-- LEN written to POST (R402): the message is appended with its stamp and check word, or nothing is. -/
def State.mbPost (s : State) (w len : Nat) : State :=
  if !s.on .MRLN_MB_CFG_EN (w / 2) then s
  else if len = 0 ∨ 16 < len then s.wr .MRLN_END_ST_POST_RES 2 w
  else
    let q := s.mbQueue w
    if 16 < mbWords q + len then s.wr .MRLN_END_ST_POST_RES 1 w
    else
      let seq := s.rd .MRLN_END_ST_OUT_SEQ w
      let stamp := s.endBound w + (w / 2) <<< 4 + s.rd .MRLN_END_ST_EPOCH w <<< 8 + seq <<< 16
      let words := (List.range len).map fun k => s.reg .MRLN_END_TXD w k
      let s := (s.setMbQueue w (q ++ [⟨stamp, words, mbCheck stamp words⟩])).wr .MRLN_END_ST_POST_RES 0 w
      let s := ((s.wr .MRLN_END_ST_OUT_SEQ (seq + 1) w).showEnd w).showEnd (otherEnd w)
      if q.isEmpty then s.mbInt (otherEnd w) 0 else s

/-- POP written (R403, R404): the head message goes; EMPTY at the sending end when it was the last, unless that end is in reset
(R405). -/
def State.mbPop (s : State) (w : Nat) : State :=
  let o := otherEnd w
  match s.mbQueue o with
  | [] => s
  | _ :: r =>
    let s := ((s.setMbQueue o r).showEnd w).showEnd o
    let code := s.endBound o
    let held := code != 0 && s.rd .MRLN_CORE_ST_CSTATE (code - 1) == 0
    if r.isEmpty && !held then s.mbInt o 1 else s

/-- MB_POST (R402). -/
def execMbPost (req : Requester) (m : Chan) (e : ChanEnd) (len : BitVec 5) (s : State) : Res := access req 2 s fun s =>
  let w := 2 * m.val + e.val
  s.endWrite req w (regAddr ⟨.MRLN_END_POST, w, 0, 0⟩) 0 len.toNat fun t => t.mbPost w len.toNat

/-- MB_POP (R403). -/
def execMbPop (req : Requester) (m : Chan) (e : ChanEnd) (s : State) : Res := access req 2 s fun s =>
  let w := 2 * m.val + e.val
  s.endWrite req w (regAddr ⟨.MRLN_END_POP, w, 0, 0⟩) 0 1 fun t => t.mbPop w

/-! ### Services and recovery (R391 to R398) -/

/-- A service. -/
def State.svc (s : State) (v : Nat) : SvcInt := s.marline.services.get {} v

/-- The same, replaced. -/
def State.setSvc (s : State) (v : Nat) (x : SvcInt) : State := s.setMrl { s.marline with services := s.marline.services.put {} v x }

/-- Whether a core is in service: idle or running. -/
def State.coreServes (s : State) (k : Nat) : Bool := s.rd .MRLN_CORE_ST_CSTATE k == 2 || s.rd .MRLN_CORE_ST_CSTATE k == 3

/-- The core that a service runs on: its home, or the lowest core in service. -/
def State.homeOf (s : State) (v : Nat) : Nat :=
  if s.coreServes v then v else ((List.range 8).find? fun k => s.coreServes k).getD v

/-- Recovery is entered with a cause (R397): every service stops, MC0 to MC2 form the triple, MC3 to MC7 are held idle, but one that a fetch
error marked Faulted (R394) shows that until the split (log entry 45); event 0x1004. A cause during a session already running changes
nothing (R410). -/
def State.recover (s : State) (cause : Nat) : State :=
  if s.on .MRLN_TRIPLE_ST_ACTIVE then s
  else
    let s := ((((s.wr .MRLN_TRIPLE_ST_ACTIVE 1).wr .MRLN_TRIPLE_ST_CAUSE cause).wr .MRLN_TRIPLE_ST_RESTARTS 0).wr
      .MRLN_TRIPLE_ST_OUTVOTED 0).wr .MRLN_TRIPLE_ST_TRIPLE_FAIL 0
    let s := s.each (List.range 8) fun k t => t.wr .MRLN_CORE_ST_CSTATE (if k < 3 then 1 else if t.rd .MRLN_CORE_ST_CSTATE k = 4 then 4 else 3) k
    let s := s.each (List.range 8) fun v t => t.setSvc v { t.svc v with state := 0 }
    let s := s.setMrl { s.marline with ready := [], recoveryReload := cause == 3 }
    let s := s.each [1, 2, 3] fun c t => t.epoch c
    s.raise .MRLN_EVT_RECOVERY 0x1004 0 [cause]

/-- A service restarts (R393): its jobs are discarded, event 0x1005; the third restart within 60 s forms a recovery triple. -/
def State.restartService (s : State) (v : Nat) : State :=
  let x := s.svc v
  let recent := 0 :: x.recent
  let s := s.setMrl { s.marline with ready := s.marline.ready.filter fun j => j.1 != v }
  let s := s.setSvc v { state := 1, core := s.homeOf v, restarts := (x.restarts + 1) % 65536, recent := recent }
  let s := s.raise .MRLN_EVT_SVC_RESTART 0x1005 0 [v]
  if 3 ≤ recent.length then s.recover 4 else s

/-- The job of a core ends with a fault: the core is free again. -/
def State.coreFault (s : State) (k st : Nat) : State := (s.inc .MRLN_CORE_ST_FAULTS 1 k).wr .MRLN_CORE_ST_CSTATE st k

/-- A core's watchdog expires while it runs a job (R392): the core is reset, event 0x1002; the supervisor's core forms a recovery
triple, another service is restarted. -/
def execWatchdogExpiry (k : Core) (s : State) : Res := act 2 s fun s =>
  if s.rd .MRLN_CORE_ST_CSTATE k != 2 then s
  else
    let v := s.rd .MRLN_CORE_ST_SVC k
    let s := ((s.coreFault k 3).epoch (k.val + 1)).raise .MRLN_EVT_WATCHDOG 0x1002 0 [k]
    if (s.svc 0).core = k.val then s.recover 2 else s.restartService v

/-- A data error of a core (R394): a precise data abort, event 0x1001; the job's service restarts. -/
def State.dataError (s : State) (k addr : Nat) : State :=
  let busy := s.rd .MRLN_CORE_ST_CSTATE k == 2
  let v := s.rd .MRLN_CORE_ST_SVC k
  let s := ((s.emit (.dataAbort k addr)).coreFault k (if busy then 3 else s.rd .MRLN_CORE_ST_CSTATE k)).raise .MRLN_EVT_DATA_ERR 0x1001 0
    [k, addr % 2 ^ 32, addr >>> 32]
  if busy then s.restartService v else s

/-- DATA_ABORT: a data error, or an uncorrectable word met by an instruction fetch, which marks the core Faulted and forms a recovery
triple (R394). -/
def execDataAbort (k : Core) (addr : Nat) (fetch : Bool) (s : State) : Res := act 2 s fun s =>
  if s.rd .MRLN_CORE_ST_CSTATE k == 0 then s
  else if fetch then (s.coreFault k 4).recover 3
  else s.dataError k addr

/-- What TRIPLE_FAIL leads to: the boot fails (R478), or after a recovery or a takeover the services are down, with event 0x0022 (R490). -/
def State.tripleFailed (s : State) : State :=
  if s.rd .MRLN_TRIPLE_ST_CAUSE = 0 then s.bootFail 2
  else ((s.setFault .TOP_FAULT_SVC_DOWN true true).setFault .TOP_FAULT_ESC_PEND true true).raise .TOP_EVT_ESCALATION 0x0022 0 []

/-- The session's cores are reset together and start again (R395); after 3 restarts the triple stops with TRIPLE_FAIL. -/
def State.tripleRestart (s : State) : State :=
  if s.rd .MRLN_TRIPLE_ST_RESTARTS = 3 then ((s.wr .MRLN_TRIPLE_ST_TRIPLE_FAIL 1).wr .MRLN_TRIPLE_ST_ACTIVE 0).tripleFailed
  else
    let s := (s.inc .MRLN_TRIPLE_ST_RESTARTS).wr .MRLN_TRIPLE_ST_OUTVOTED 0
    s.each [1, 2, 3] fun c t => t.epoch c

/-- The voter finds a disagreement (R395): one core against two is outvoted, event 0x1003; the two that remain, or all three, start the
session again. -/
def execVoterDisagree (k : Option (Fin 3)) (s : State) : Res := act 2 s fun s =>
  if !s.on .MRLN_TRIPLE_ST_ACTIVE then s
  else
    match k with
    | some c =>
      if s.rd .MRLN_TRIPLE_ST_OUTVOTED = 0 then
        (s.wr .MRLN_TRIPLE_ST_OUTVOTED (2 ^ c.val)).raise .MRLN_EVT_OUTVOTED 0x1003 0 [c]
      else s.tripleRestart
    | none => s.tripleRestart

/-- The triple splits (R398): each core takes up its home services; an outvoted core stays Faulted and its services run on others. -/
def State.split (s : State) : State :=
  let out := s.rd .MRLN_TRIPLE_ST_OUTVOTED
  let s := s.wr .MRLN_TRIPLE_ST_ACTIVE 0
  let s := s.each (List.range 8) fun k t => t.wr .MRLN_CORE_ST_CSTATE (if out.testBit k then 4 else 3) k
  s.each (List.range 8) fun v t => t.setSvc v { t.svc v with state := 1, core := t.homeOf v }

/-- The commands that restarted services complete with the services' state (Table 15.6a): for all services, that of the supervisor. -/
def State.endRestarts (s : State) : State :=
  let l := s.marline.restartCmds
  l.foldl (fun t c => t.finish c.1 0 0 (leBytes 1 (t.svc c.2).state) []) (s.setMrl { s.marline with restartCmds := [] })

/-- Recovery completes (R397): every service is restored, the triple splits, and the commands that led to it complete. A restart of all
services ends the escalation (R490). -/
def execRecoveryDone (s : State) : Res := act 2 s fun s =>
  if s.on .MRLN_TRIPLE_ST_ACTIVE && 2 ≤ s.rd .MRLN_TRIPLE_ST_CAUSE then
    let s := s.setMrl { s.marline with recoveryReload := false }
    let s := if s.rd .MRLN_TRIPLE_ST_CAUSE = 5 then (s.wr .TOP_FAULT_SVC_DOWN 0).wr .TOP_FAULT_ESC_PEND 0 else s
    s.split.endRestarts
  else s

/-- A session of boot or takeover ends (R398). -/
def execTripleSplit (s : State) : Res := act 2 s fun s =>
  if s.on .MRLN_TRIPLE_ST_ACTIVE && s.rd .MRLN_TRIPLE_ST_CAUSE < 2 then s.split else s

/-! ### Jobs (R399, R400) -/

/-- The job class of a service (Table 15.2): 0 for A to 3 for D. -/
def jobClass (v : Nat) : Nat := match v with | 0 => 0 | 1 => 1 | 2 => 1 | 3 => 2 | 4 => 2 | 5 => 0 | _ => 3

/-- Whether a class has grant left in the window; class A is never limited. -/
def State.classRuns (s : State) (c : Nat) : Bool := c == 0 || 0 < s.marline.grantLeft.get 0 c

/-- The jobs of classes whose grant is spent wait for the next window: each wait is counted once, with event 0x1008 at most once per
second (R400). -/
def State.deferJobs (s : State) : State :=
  let waits (j : Nat × Bool) : Bool := !j.2 && !s.classRuns (jobClass j.1)
  let n := (s.marline.ready.filter waits).length
  if n = 0 then s
  else
    let s := (s.setMrl { s.marline with ready := s.marline.ready.map fun j => (j.1, j.2 || !s.classRuns (jobClass j.1)) }).inc
      .MRLN_TRIPLE_ST_DEFER n
    if s.marline.deferSaid then s
    else (s.setMrl { s.marline with deferSaid := true }).raise .MRLN_EVT_DEFER 0x1008 0 []

/-- A list without the first element that a test picks. -/
def dropFirst {α : Type} (p : α → Bool) : List α → List α
  | [] => []
  | a :: r => if p a then r else a :: dropFirst p r

/-- A free core takes the oldest ready job of the highest class that has grant left (R400). The last operand: the services whose jobs
have become ready since the last dispatch, oldest first. -/
def execJobDispatch (k : Core) (arrived : List Service) (s : State) : Res := act 2 s fun s =>
  let s := s.setMrl { s.marline with ready := s.marline.ready ++ arrived.map fun v => (v.val, false) }
  if s.rd .MRLN_CORE_ST_CSTATE k != 3 || s.on .MRLN_TRIPLE_ST_ACTIVE then s
  else
    let s := s.deferJobs
    let pick := [0, 1, 2, 3].findSome? fun c =>
      if s.classRuns c then s.marline.ready.find? fun j => jobClass j.1 == c else none
    match pick with
    | none => s
    | some j =>
      let s := s.setMrl { s.marline with ready := dropFirst (fun x => x.1 == j.1) s.marline.ready }
      (s.wr .MRLN_CORE_ST_CSTATE 2 k).wr .MRLN_CORE_ST_SVC j.1 k

/-- A running job returns to the tail of its class after so many µs of core time, which its class's grant loses. -/
def State.endSlice (s : State) (k us : Nat) : State :=
  if s.rd .MRLN_CORE_ST_CSTATE k = 2 then
    let v := s.rd .MRLN_CORE_ST_SVC k
    let c := jobClass v
    let m := s.marline
    (s.setMrl { m with
      ready := m.ready ++ [(v, false)]
      grantLeft := if c = 0 then m.grantLeft else m.grantLeft.put 0 c (m.grantLeft.get 0 c - us) }).wr .MRLN_CORE_ST_CSTATE 3 k
  else s

/-- A job yields. -/
def execJobYield (k : Core) (us : Nat) (s : State) : Res := act 2 s fun s => s.endSlice k us

/-- SLICE_US has passed. -/
def execSliceExpiry (k : Core) (s : State) : Res := act 2 s fun s => s.endSlice k (s.rd .MRLN_SCHED_CFG_SLICE_US)

/-- The class grants are renewed (R399): Belay's, in µs of a 1 ms window; while level 5 is not granted that of class D is 0 (R435). -/
def execCoreGrantWindow (s : State) : Res := act 2 s fun s =>
  let d := if s.belay.background then 100 * s.rd .BLAY_CORE_CFG_CORE_D else 0
  let g : Tab Nat := ((Tab.put 0 [] 1 (100 * s.rd .BLAY_CORE_CFG_CORE_B)).put 0 2 (100 * s.rd .BLAY_CORE_CFG_CORE_C)).put 0 3 d
  s.setMrl { s.marline with grantLeft := g, ready := s.marline.ready.map fun j => (j.1, false) }

/-- What Marline may do once per second again, and the ages of the service restarts (R393). -/
def State.marlineSecond (s : State) : State :=
  let s := s.each (List.range 8) fun v t =>
    t.setSvc v { t.svc v with recent := ((t.svc v).recent.map (· + 1)).filter (· < 60) }
  s.setMrl { s.marline with deferSaid := false }

/-! ### Commands (Table 15.6a) -/

/-- Whether a recovery is running: the commands of class 0x05 complete after it (R397). -/
def State.recovering (s : State) : Bool := s.on .MRLN_TRIPLE_ST_ACTIVE && 2 ≤ s.rd .MRLN_TRIPLE_ST_CAUSE

/-- SVC_STATUS. -/
def execSvcStatus (h : Nat) (s : State) : Res :=
  if s.recovering then .next s
  else ospin 2 0x0501 h s fun c s =>
    let v := c.par 16 1
    if 7 < v then s.finish h 5 0 [] []
    else s.finish h 0 0 (leBytes 1 (s.svc v).state ++ leBytes 1 (s.svc v).core ++ leBytes 2 (s.svc v).restarts) []

/-- SVC_RESTART: one service, or all of them through a recovery triple; where a recovery results, the command completes after it (R397). -/
def execSvcRestart (h : Nat) (s : State) : Res :=
  if s.recovering then .next s
  else ospin 2 0x0502 h s fun c s =>
    let v := c.par 16 1
    if v ≠ 255 ∧ 7 < v then s.finish h 5 0 [] []
    else
      let w := if v = 255 then 0 else v
      let s := if v = 255 then s.recover 5 else s.restartService v
      if s.recovering then s.setMrl { s.marline with restartCmds := s.marline.restartCmds ++ [(h, w)] }
      else s.finish h 0 0 (leBytes 1 (s.svc w).state) []

/-- GCC_SEND: a host packet waits for the line's next multiframe; its command completes when it is sent (Table 15.6a). -/
def execGccSend (h : Nat) (s : State) : Res :=
  if s.recovering then .next s
  else ospin 2 0x0503 h s fun c s =>
    let ty := c.par 16 1
    let n := c.unit % 4
    if ty < 128 || c.ind.isEmpty || 1016 < c.ind.length then s.finish h 5 0 [] []
    else
      let p := withCrc (leBytes 1 ty ++ [0] ++ leBytes 2 c.ind.length ++ c.ind)
      let m := s.marline
      s.setMrl { m with gccOut := m.gccOut.put [] n (m.gccOut.get [] n ++ [(p, some h)]) }

/-- The packets of a line that go whole into one multiframe's GCC0 of 1,024 bytes, and those that wait (R407). -/
def packGcc (room : Nat) : List (List Byte × Option Nat) → List (List Byte × Option Nat) × List (List Byte × Option Nat)
  | [] => ([], [])
  | p :: r =>
    if p.1.length ≤ room then
      let x := packGcc (room - p.1.length) r
      (p :: x.1, x.2)
    else ([], p :: r)

/-- The GCC0 bytes of a line's next transmit multiframe; the commands whose packets they carry complete. -/
def State.takeGcc (s : State) (n : Nat) : State × List Byte :=
  let m := s.marline
  let x := packGcc 1024 (m.gccOut.get [] n)
  let s := s.setMrl { m with gccOut := m.gccOut.put [] n x.2 }
  (x.1.foldl (fun t p => match p.2 with
    | some h => t.finish h 0 0 [] []
    | none => t) s, padTo 1024 (x.1.flatMap fun p => p.1))

/-! ### Commit (R411) -/

/-- Whether an end's binding is a reserved encoding. -/
def endReserved (v : Nat) : Bool := 8 < v && v != 15

/-- The rules of R411, rights apart. -/
def checkMarline (old t : State) : Option Breach :=
  firstBreach [
    (1, lowest 16 (fun m => t.rd .MRLN_MB_CFG_MB_DOM m) fun m =>
      let e0 := t.rd .MRLN_MB_CFG_END0 m
      let e1 := t.rd .MRLN_MB_CFG_END1 m
      endReserved e0 || endReserved e1 || (e0 == e1 && e0 != 15) ||
        (old.on .MRLN_MB_CFG_EN m && t.on .MRLN_MB_CFG_EN m &&
          (old.rd .MRLN_MB_CFG_END0 m != e0 || old.rd .MRLN_MB_CFG_END1 m != e1 ||
            old.rd .MRLN_MB_CFG_MB_DOM m != t.rd .MRLN_MB_CFG_MB_DOM m)))]

/-- What an applied MRLN commit does: clearing EN discards both queues, and each end receives FLUSHED. -/
def afterMarline (old new : State) : State :=
  new.each (List.range 16) fun m t =>
    if old.on .MRLN_MB_CFG_EN m && !t.on .MRLN_MB_CFG_EN m then (t.flush (2 * m)).flush (2 * m + 1) else t

end Sys2Proof.Machine
end

