-- ==== Sys2Proof/Machine/Keys.lean ====
section
/-! DEFINITION. The Ospin commands of the key, protection and hub classes (Tables 13.9 and 13.10), the GCC0 relay (R407) and the key
exchange (R253, R408). -/

namespace Sys2Proof.Machine

open Sys2Proof

/-! ### Key commands (Table 9.2) -/

/-- The context that a command names. -/
def Cmd.kc (c : Cmd) : Nat := c.unit % 256

/-- The switch point of a command: all ones for none (Table 13.10). -/
def Cmd.point (c : Cmd) : Option Nat :=
  let v := c.par 24 8
  if v = 2 ^ 64 - 1 then none else some v

/-- The index of a direction's staged slot: the one that is not active (R251). -/
def State.stagedSlot (s : State) (k : Nat) (receive : Bool) : Nat :=
  1 - (if receive then s.rd .SEIZ_KC_ST_RX_IDX k else s.rd .SEIZ_KC_ST_TX_IDX k)

/-- A direction of a context. -/
def State.dirOf (s : State) (k : Nat) (receive : Bool) : DirInt := if receive then (s.kc k).rx else (s.kc k).tx

/-- The code of a switch point in a result. -/
def pointCode (p : Option Nat) : Nat := p.getD (2 ^ 64 - 1)

/-- KEY_LOAD and KEY_SWITCH return the KID, the switch point in force, the next INV, S and the slot (Table 13.10). -/
def State.finishKey (s : State) (h k : Nat) (receive : Bool) (kid slot : Nat) : State :=
  let rest := leBytes 8 (s.nextInv k receive) ++ leBytes 2 (s.rd .SEIZ_KC_ST_S k) ++ leBytes 1 slot
  s.finish h 0 0 rest (leBytes 8 kid ++ leBytes 8 (pointCode (s.dirOf k receive).point) ++ rest)

/-- Whether a direction runs, so that a switch point must lie ahead (R252): not Idle, not Exhausted. -/
def State.dirRuns (s : State) (k : Nat) (receive : Bool) : Bool :=
  if receive then s.rd .SEIZ_KC_ST_RX_STATE k != 0 && s.rd .SEIZ_KC_ST_RX_STATE k != 4 else s.rd .SEIZ_KC_ST_TX_STATE k == 1

/-- KEY_LOAD (R250, R251). -/
def execKeyLoad (h : Nat) (s : State) : Res := ospin 14 0x0101 h s fun c s =>
  let k := c.kc
  if 1 < c.par 16 1 ∨ c.ind.length ≠ 88 then s.finish h 5 0 [] []
  else
    let rx := c.par 16 1 == 1
    match s.openBlob k 1 (c.par 16 1) c.ind with
    | .inl reason => (s.blobRefused k).finish h 7 reason [] []
    | .inr key =>
      if s.dirRuns k rx && s.pointLate k rx c.point then s.finish h 8 0 [] []
      else
        let idle := (s.dirOf k rx).active.isNone
        let slot := if idle then 1 - s.stagedSlot k rx else s.stagedSlot k rx
        (s.loadKey k rx key c.point).finishKey h k rx key.kid slot

/-- KEY_SWITCH (R251, R252); after the switch there is no staged key, and the status is LATE (Table 9.5). -/
def execKeySwitch (h : Nat) (s : State) : Res := ospin 14 0x0102 h s fun c s =>
  let k := c.kc
  if 1 < c.par 16 1 then s.finish h 5 0 [] []
  else
    let rx := c.par 16 1 == 1
    match (s.dirOf k rx).staged with
    | none => s.finish h 8 0 [] []
    | some key =>
      if s.dirRuns k rx && s.pointLate k rx c.point then s.finish h 8 0 [] []
      else (s.setPoint k rx c.point).finishKey h k rx key.kid (s.stagedSlot k rx)

/-- Which of a direction's keys a SLOT code names (Table 13.10): the active one, the staged one. -/
def State.slotsNamed (s : State) (k : Nat) (receive : Bool) (code : Nat) : Bool × Bool :=
  let staged := s.stagedSlot k receive
  match code with
  | 2 => (false, true)
  | 3 => (true, true)
  | v => (v != staged, v == staged)

/-- The bits of RESULT for the keys of a direction that are erased: those that were held. -/
def State.slotBits (s : State) (k : Nat) (receive : Bool) (named : Bool × Bool) : Nat :=
  let d := s.dirOf k receive
  let staged := s.stagedSlot k receive
  let base := if receive then 2 else 0
  b2n (named.1 && d.active.isSome) <<< (base + (1 - staged)) + b2n (named.2 && d.staged.isSome) <<< (base + staged)

/-- KEY_ZERO (Table 9.2). -/
def execKeyZero (h : Nat) (s : State) : Res := ospin 14 0x0103 h s fun c s =>
  let k := c.kc
  let dir := c.par 16 1
  let slot := c.par 17 1
  if 2 < dir ∨ 3 < slot then s.finish h 5 0 [] []
  else
    let one (rx : Bool) (t : State) : State × Nat :=
      if dir = 2 ∨ dir = b2n rx then
        let w := t.slotsNamed k rx slot
        (t.zeroKeys k rx w.1 w.2, t.slotBits k rx w)
      else (t, 0)
    let (t, a) := one false s
    let (t, b) := one true t
    t.finish h 0 0 (leBytes 1 (a + b)) []

/-- KEY_CLEAR_AF (R258, R260). -/
def execKeyClearAf (h : Nat) (s : State) : Res := ospin 14 0x0104 h s fun c s =>
  let t := s.clearAf c.kc
  t.finish h 0 0 (leBytes 1 (t.rd .SEIZ_KC_ST_RX_STATE c.kc)) []

/-- The KID of a key, zero for none. -/
def kidOf (k : Option KeyRec) : Nat := (k.map fun k => k.kid).getD 0

/-- KEY_STATUS. -/
def execKeyStatus (h : Nat) (s : State) : Res := ospin 14 0x0105 h s fun c s =>
  let k := c.kc
  s.finish h 0 0
    (leBytes 8 (s.rd .SEIZ_KC_ST_TX_NEXT k) ++ leBytes 2 (s.rd .SEIZ_KC_ST_S k) ++
      leBytes 1 (s.rd .SEIZ_KC_ST_RX_STATE k + s.rd .SEIZ_KC_ST_TX_STATE k <<< 3))
    (leBytes 32 (s.reg .SEIZ_KC_ST k) ++ leBytes 8 (kidOf (s.kc k).tx.active) ++ leBytes 8 (kidOf (s.kc k).rx.active))

/-- LINK_LOAD (R253): the link key of a KIND = 0 context; a context of the other kind is refused with STATE. -/
def execLinkLoad (h : Nat) (s : State) : Res := ospin 14 0x0106 h s fun c s =>
  let k := c.kc
  if c.ind.length ≠ 88 then s.finish h 5 0 [] []
  else
    match s.openBlob k 2 2 c.ind with
    | .inl reason => (s.blobRefused k).finish h 7 reason [] []
    | .inr key =>
      if s.on .SEIZ_KC_CFG_KIND k then s.finish h 6 0 [] []
      else (s.setKc k { s.kc k with link := some key }).finish h 0 0 [] (leBytes 8 key.kid)

/-! ### Key exchange (R253, R408) -/

/-- Whether a Marline service runs. -/
def State.svcRuns (s : State) (v : Nat) : Bool := (s.svc v).state == 1

/-- A packet of the GCC0 relay waits for a line's next multiframe (R407, Table 15.5). -/
def State.gccSend (s : State) (n type : Nat) (payload : List Byte) : State :=
  let m := s.marline
  let p := withCrc (leBytes 1 type ++ [0] ++ leBytes 2 payload.length ++ payload)
  s.setMrl { m with gccOut := m.gccOut.put [] n (m.gccOut.get [] n ++ [(p, none)]) }

/-- The payload of a key-exchange message (Table 15.5). -/
def kxBytes (msg reason kcTx gen kid x : Nat) (nonce : List Byte) : List Byte :=
  leBytes 1 msg ++ leBytes 1 reason ++ leBytes 1 kcTx ++ [0] ++ leBytes 4 gen ++ leBytes 8 kid ++ leBytes 8 x ++ padTo 32 nonce

/-- 32 random bytes. -/
def State.nonce (s : State) : State × List Byte :=
  ({ s with drawn := s.drawn + 1 }, (List.range 32).map (Config.randomByte s.drawn))

/-- The key and FIXED field of R253; no rule gives it a KID (a free value, log entry 2). -/
def State.derived (s : State) (link : KeyRec) (kcTx gen : Nat) (ntx nrx : List Byte) : State × KeyRec :=
  let (t, v) := s.draw
  let info : List Byte := [0x51, 0x4B, 0x58, 0x31] ++ leBytes 1 kcTx ++ [0] ++ leBytes 4 gen
  let out := Config.deriveKey link.key (ntx ++ nrx) info
  (t, ⟨out.take 32, (out.drop 32).take 4, v % 2 ^ 64⟩)

/-- A rekeying starts or is tried again: an OFFER with a new GEN, the first multiple of S at least 1,024 multiframes ahead, a new nonce
(R253, R408). -/
def State.startOffer (s : State) (k : Nat) : State :=
  let sg := s.rd .SEIZ_KC_ST_S k
  let x := roundUp (s.rd .SEIZ_KC_ST_TX_NEXT k + 1024 * sg) sg
  let (t, ntx) := s.nonce
  let gen := ((t.kc k).genTx + 1) % 2 ^ 32
  t.setKc k { t.kc k with genTx := gen, offer := some (gen, x, ntx), copies := 3, rekeying := true }

/-- One copy of each OFFER still to send goes into a line's next transmit multiframe (R408). -/
def State.offerCopies (s : State) (n : Nat) : State :=
  s.each (s.kcs.map fun e => e.1) fun k t =>
    let x := t.kc k
    match x.offer, x.link with
    | some (gen, p, ntx), some link =>
      if x.copies ≠ 0 ∧ t.rd .SEIZ_KC_CFG_LINE k = n then
        (t.setKc k { x with copies := x.copies - 1 }).gccSend n 1 (kxBytes 1 0 k gen link.kid p ntx)
      else t
    | _, _ => t

/-- A confirmation is lost: the OFFER ends; KX_RETRY makes the next one. -/
def State.offerLost (s : State) (k : Nat) : State := s.setKc k { s.kc k with offer := none, copies := 0 }

/-- REKEY_H hours after the transmit key took effect (R253). -/
def execRekeyTimer (k : Kc) (s : State) : Res := act 14 s fun s =>
  if s.rd .SEIZ_KC_CFG_REKEY_H k == 0 || s.rd .SEIZ_KC_ST_TX_STATE k != 1 then s
  else if !s.on .SEIZ_KC_CFG_KIND k && (s.kc k).link.isSome then
    if s.svcRuns 2 then s.startOffer k else s.setKc k { s.kc k with rekeying := true }
  else s.kcEvent k .SEIZ_EVT_REKEY_DUE 0x7008

/-- No confirmation within 64 ms. -/
def execKxConfirmTimeout (k : Kc) (s : State) : Res := act 14 s fun s => if (s.kc k).offer.isSome then s.offerLost k else s

/-- 1 s later the exchange is tried again. -/
def execKxRetry (k : Kc) (s : State) : Res := act 14 s fun s =>
  if (s.kc k).rekeying && (s.kc k).offer.isNone && (s.kc k).link.isSome && s.svcRuns 2 then s.startOffer k else s

/-- An OFFER is taken (R408): the receive key staged at X and a CONFIRM sent, or a NACK with its reason. -/
def State.takeOffer (s : State) (n : Nat) (b : List Byte) : State :=
  let kcTx := byteAt b 2
  let gen := leAt b 4 4
  let kid := leAt b 8 8
  let x := leAt b 16 8
  let nack (r : Nat) : State := s.gccSend n 1 (kxBytes 3 r kcTx gen kid x [])
  let ks := (s.kcs.map fun e => e.1).filter fun k => s.rd .SEIZ_KC_CFG_LINE k == n && !s.on .SEIZ_KC_CFG_KIND k
  match ks.findSome? fun k => (s.kc k).link.bind fun l => if l.kid = kid then some (k, l) else none with
  | none => nack 1
  | some (k, link) =>
    if !isAfter gen (s.kc k).genRx then nack 2
    else if s.rd .SEIZ_KC_ST_S k = 0 then nack 4
    else if s.dirRuns k true && s.pointLate k true (some x) then nack 3
    else
      let (s, nrx) := s.nonce
      let (s, key) := s.derived link kcTx gen ((b.drop 24).take 32) nrx
      let s := (s.setKc k { s.kc k with genRx := gen }).loadKey k true key (some x)
      s.gccSend n 1 (kxBytes 2 0 kcTx gen kid x nrx)

/-- A CONFIRM is taken: the transmit key is staged at X, or, where X is too near, the next attempt carries a new GEN and X (R408). -/
def State.takeConfirm (s : State) (n : Nat) (b : List Byte) : State :=
  let k := byteAt b 2
  match (s.kc k).offer, (s.kc k).link with
  | some (gen, x, ntx), some link =>
    if s.rd .SEIZ_KC_CFG_LINE k = n ∧ gen = leAt b 4 4 ∧ link.kid = leAt b 8 8 ∧ x = leAt b 16 8 then
      if s.dirRuns k false && s.pointLate k false (some x) then s.offerLost k
      else
        let (s, key) := s.derived link k gen ntx ((b.drop 24).take 32)
        (s.setKc k { s.kc k with offer := none, copies := 0, rekeying := false }).loadKey k false key (some x)
    else s
  | _, _ => s

/-- A NACK counts as a lost confirmation (R408). -/
def State.takeNack (s : State) (n : Nat) (b : List Byte) : State :=
  let k := byteAt b 2
  match (s.kc k).offer with
  | some (gen, _, _) => if s.rd .SEIZ_KC_CFG_LINE k = n ∧ gen = leAt b 4 4 then s.offerLost k else s
  | none => s

/-- A key-exchange message (Table 15.5); another length or MSG is discarded. -/
def State.takeKx (s : State) (n : Nat) (b : List Byte) : State :=
  if b.length ≠ 56 ∨ !s.svcRuns 2 then s
  else match byteAt b 0 with
    | 1 => s.takeOffer n b
    | 2 => s.takeConfirm n b
    | 3 => s.takeNack n b
    | _ => s

/-! ### The GCC0 relay (R407) -/

/-- A host packet's records, of up to 24 data bytes each, to the line's stream ring. -/
def State.gccRecords (s : State) (n num : Nat) (first : Bool) (fuel : Nat) (data : List Byte) : State :=
  match fuel with
  | 0 => s
  | f + 1 =>
    if data.isEmpty then s
    else
      let d := data.take 24
      let rest := data.drop 24
      let body (phase : Nat) : List Byte :=
        leBytes 1 (phase + 2 * b2n first + 4 * b2n rest.isEmpty + n <<< 4) ++ leBytes 1 d.length ++ leBytes 2 num ++ padTo 24 d
      (s.streamPut (s.rd .MRLN_GCC_CFG_RING n) body).gccRecords n num false f rest

/-- What the GCC0 relay does with a packet: discarded with event 0x1009 where its CRC fails, delivered by its TYPE otherwise (R407). -/
def State.takeGccPacket (s : State) (n : Nat) (p : List Byte) : State :=
    let len := leAt p 2 2
    if p.length ≠ len + 8 ∨ !crcOk p then s.raise .MRLN_EVT_GCC_BAD 0x1009 (s.lineDom n) [n]
    else
      let body := (p.drop 4).take len
      let ty := byteAt p 0
      if ty = 1 then s.takeKx n body
      else if 128 ≤ ty && s.on .MRLN_GCC_CFG_EN n then
        let m := s.marline
        let num := m.gccNumber.get 0 n
        (s.setMrl { m with gccNumber := m.gccNumber.put 0 n ((num + 1) % 65536) }).gccRecords n num true 43 body
      else s

/-- GCC0_PACKET_RECEIVED: the oldest packet that a line's GCC0 has brought and the relay has not taken (R407). -/
def execGcc0PacketReceived (n : Line) (s : State) : Res := act 2 s fun s =>
  let x := s.hit n
  match s.svcRuns 3 && s.lineNative n && s.lineMode n != 3, x.gcc with
  | true, p :: rest => (s.setHit n { x with gcc := rest }).takeGccPacket n p
  | _, _ => s

/-! ### Protection commands (Table 10.3) -/

/-- The group that a command names. -/
def Cmd.pg (c : Cmd) : Nat := c.unit % 16

/-- Every protection command returns the states, Δ, DO and the last q played (R277, Table 13.10). -/
def State.finishPg (s : State) (h g : Nat) : State :=
  let delta := max (s.rd .BEND_PATH_ST_DELTA g 0) (s.rd .BEND_PATH_ST_DELTA g 1)
  s.finish h 0 0
    (leBytes 1 (s.rd .BEND_PG_STAT_GSTATE g) ++ leBytes 1 (s.rd .BEND_PATH_ST_PSTATE g 0 + s.rd .BEND_PATH_ST_PSTATE g 1 <<< 3) ++
      leBytes 3 delta ++ leBytes 3 (s.rd .BEND_PG_STAT_DO g) ++ leBytes 4 (s.rd .BEND_PG_STAT_Q g)) []

/-- PG_LOCKOUT. -/
def execPgLockout (h : Nat) (s : State) : Res := ospin 15 0x0201 h s fun c s => (s.pgLockout c.pg).finishPg h c.pg

/-- PG_FORCE: path 1 under lockout is refused with STATE. -/
def execPgForce (h : Nat) (s : State) : Res := ospin 15 0x0202 h s fun c s =>
  let p := c.par 16 1
  if 1 < p then s.finish h 5 0 [] []
  else if p = 1 && (s.grp c.pg).lockout then s.finish h 6 0 [] []
  else (s.pgForce c.pg p).finishPg h c.pg

/-- PG_CLEAR: a reserved WHICH is refused with PARAM. -/
def execPgClear (h : Nat) (s : State) : Res := ospin 15 0x0203 h s fun c s =>
  let w := c.par 16 1
  if 1 < w then s.finish h 5 0 [] [] else (s.pgClear c.pg w).finishPg h c.pg

/-- PG_REALIGN (R280): a Disabled or Acquiring group refuses with STATE; a group in Pass-through aligns once its region is Ready
(R281). -/
def execPgRealign (h : Nat) (s : State) : Res := ospin 15 0x0204 h s fun c s =>
  let g := c.pg
  let st := s.rd .BEND_PG_STAT_GSTATE g
  if st < 2 then s.finish h 6 0 [] []
  else if st = 4 && !s.regionReady (s.rd .BEND_PG_CFG_ATT_REGION g) then s.finishPg h g
  else (s.align g).finishPg h g

/-- PG_STATUS. -/
def execPgStatus (h : Nat) (s : State) : Res := ospin 15 0x0205 h s fun c s => s.finishPg h c.pg

/-! ### Hub commands -/

/-- The line and leaf ID that a command names. -/
def Cmd.leaf (c : Cmd) : Nat × Nat := (c.unit / 256 % 4, c.unit % 256)

/-- LEAF_RERANGE (R137): another state than Active or Stale stays as it is. -/
def execLeafRerange (h : Nat) (s : State) : Res := ospin 11 0x0301 h s fun c s =>
  let (n, i) := c.leaf
  let t := s.rerangeAsked n i
  t.finish h 0 0 (leBytes 1 (t.leafState n i)) []

/-- LEAF_STATUS. -/
def execLeafStatus (h : Nat) (s : State) : Res := ospin 11 0x0302 h s fun c s =>
  let (n, i) := c.leaf
  s.finish h 0 0 (leBytes 1 (s.leafState n i)) (s.leafBytes n i)

/-- LEAF_MGMT (R353): it completes with its message's last copy; at once with STATE where the leaf is not Active or Stale, or a broadcast
names a line that is not a Hub. -/
def execLeafMgmt (h : Nat) (s : State) : Res := ospin 11 0x0303 h s fun c s =>
  let len := c.ind.length
  let flags := c.par 16 1
  if 1 < flags ∨ len < 8 ∨ 104 < len ∨ len % 8 ≠ 0 then s.finish h 5 0 [] []
  else if flags = 1 then
    let n := c.unit % 4
    if s.lineMode n = 2 then s.sendRepeat n (mgmtMsg 0 true c.ind) (some h) else s.finish h 6 0 [] []
  else
    let (n, i) := c.leaf
    if s.leafState n i = 2 ∨ s.leafState n i = 3 then s.sendRepeat n (mgmtMsg i false c.ind) (some h) else s.finish h 6 0 [] []

end Sys2Proof.Machine
end

