-- ==== Sys2Proof/Machine/Halyard.lean ====
section
/-! DEFINITION. Halyard (chapter 12): references, selection, disputes, the system DPLL, the holdover memory, phase steps, time of day. -/

namespace Sys2Proof.Machine

open Sys2Proof

/-- What Halyard holds for a reference. -/
def State.halRef (s : State) (r : Nat) : HalRef := s.halyard.refs.get {} r

/-- The same, replaced. -/
def State.setHalRef (s : State) (r : Nat) (x : HalRef) : State :=
  { s with halyard := { s.halyard with refs := s.halyard.refs.put {} r x } }

/-- The selected reference; 15 for none (Table 12.16). -/
def State.selRef (s : State) : Nat := s.rd .HLYD_STAT_SEL_REF

/-- A change of the selected reference (event 0x2803). -/
def State.setSelRef (s : State) (r : Nat) : State :=
  if s.selRef = r then s else (s.wr .HLYD_STAT_SEL_REF r).raise .HLYD_EVT_SELECT 0x2803 0 [r]

/-- Whether the source of a reference reports fail (Table 12.1, R238). -/
def State.extFail (s : State) (r : Nat) : Bool :=
  if r < 4 then
    let l := s.rd .TWIN_SYNCE_SEL_LANE r
    !s.on .TWIN_SYNCE_SEL_EN r || s.rd .TWIN_STAT_LSTATE l != 3 || s.on .TWIN_STAT_LOS l
  else if r < 7 then s.rd .SPLC_STAT_STATE (r - 4) != 8
  else false

/-- The seconds of HO_AVG (Table 12.10). -/
def hoSeconds (code : Nat) : Nat := match code with | 0 => 1 | 1 => 10 | 2 => 60 | _ => 300

/-- The samples that the holdover memory averages over: one each millisecond (R317). -/
def State.hoWindow (s : State) : Nat := hoSeconds (s.rd .HLYD_SEL_CFG_HO_AVG) * 1000

/-- Whether the holdover memory is valid (R317). -/
def State.hoValid (s : State) : Bool := decide (s.hoWindow ≤ s.halyard.memory.length)

/-- The holdover memory: the mean over HO_AVG seconds, in 0.1 ppb (R317); its last digit is rounded down (log entry 5). -/
def State.hoFreq (s : State) : Int := ((s.halyard.memory.take s.hoWindow).foldl (· + ·) 0) / (s.hoWindow : Int)

/-- HO_VALID and HO_FREQ follow the memory. -/
def State.showMemory (s : State) : State :=
  if s.hoValid then (s.wr .HLYD_STAT_HO_VALID 1).wr .HLYD_HO_HO_FREQ (unsigned 32 s.hoFreq) else s.wr .HLYD_STAT_HO_VALID 0

/-- The frequency in force set to a value of 0.1 ppb. -/
def State.setFreq (s : State) (f : Int) : State := s.wr .HLYD_HO_FREQ (unsigned 32 f)

/-- The frequency in force. -/
def State.freq (s : State) : Int := signed 32 (s.rd .HLYD_HO_FREQ)

/-- HLYD_ST shows STATE, or 0b101 in mode 3 (R328). -/
def State.showPin (s : State) : State :=
  s.wr .HLYD_STAT_PIN_ST (if s.halyard.mode = 3 then 5 else s.rd .HLYD_STAT_STATE)

/-- Whether HO_AGE has reached HO_MAX minutes (R319). -/
def State.hoAged (s : State) : Bool :=
  let m := s.rd .HLYD_SEL_CFG_HO_MAX
  m != 0 && decide (m * 60 ≤ s.rd .HLYD_STAT_HO_AGE)

/-- The state of the system DPLL set (Table 12.5), event 0x2804: the end of Locked drops the last second of the averaging (R317);
entry to Holdover starts HO_AGE; Holdover with XO_FAULT, or past HO_MAX, is Holdover-degraded (R319) but in mode 3, where the state reads
Holdover (R321). -/
def State.dpll (s : State) (new : Nat) : State :=
  let old := s.rd .HLYD_STAT_STATE
  let new := if new = 3 ∧ s.halyard.mode ≠ 3 ∧ (s.on .HLYD_STAT_XO_FAULT ∨ (3 ≤ old ∧ s.hoAged)) then 4 else new
  if old = new then s.showPin
  else
    let s := if old = 2 then { s with halyard := { s.halyard with recent := [] } } else s
    let s := if 3 ≤ new ∧ old < 3 then s.wr .HLYD_STAT_HO_AGE 0 else s
    ((s.wr .HLYD_STAT_STATE new).raise .HLYD_EVT_STATE 0x2804 0 []).showPin

/-- Entry to Holdover (R318): the frequency steps to the memory; without a valid memory it is kept, and the state is
Holdover-degraded. -/
def State.holdover (s : State) : State :=
  if s.hoValid then (s.setFreq s.hoFreq).dpll 3 else s.dpll 4

/-- Holdover that goes on outside mode 3 under changed conditions (R319). -/
def State.holdoverAgain (s : State) : State :=
  if s.rd .HLYD_STAT_STATE = 3 ∧ s.halyard.mode ≠ 3 then s.dpll (if s.hoValid then 3 else 4) else s.showPin

/-- The selected reference is lost (R312, R313): a switch to it is abandoned, and the DPLL enters Holdover. -/
def State.refLost (s : State) : State :=
  let t := (s.wr .HLYD_STAT_SWITCHING 0).setSelRef 15
  if t.halyard.mode = 0 then t.holdover else t

/-- A reference becomes Available (event 0x2802). -/
def State.refAvail (s : State) (r : Nat) : State :=
  ((s.setHalRef r { s.halRef r with been := true, need := false }).wr .HLYD_REF_ST_RSTATE 4 r).raise .HLYD_EVT_REF_AVAIL 0x2802 0 [r]

/-- A reference is marked Failed (event 0x2801), and its qualification starts anew. -/
def State.refFail (s : State) (r : Nat) : State :=
  let x := s.halRef r
  let t := (((s.setHalRef r { x with accepted := false, calm := 0, good := 0, need := x.been }).wr .HLYD_REF_ST_RSTATE 1 r).wr
    .HLYD_REF_ST_WTR_LEFT 0 r).raise .HLYD_EVT_REF_FAIL 0x2801 0 [r]
  if t.selRef = r then t.refLost else t

/-- The state of a reference taken anew (Table 12.2). -/
def State.refEval (s : State) (r : Nat) : State :=
  let s := s.wr .HLYD_REF_ST_EXT_FAIL (b2n (s.extFail r)) r
  let old := s.rd .HLYD_REF_ST_RSTATE r
  let x := s.halRef r
  if s.rd .HLYD_REF_CFG_RANK r = 0 then (s.wr .HLYD_REF_ST_RSTATE 0 r).wr .HLYD_REF_ST_WTR_LEFT 0 r
  else if !s.on .HLYD_REF_ST_ACT r || s.extFail r || x.rejected then
    if old = 1 then s else s.refFail r
  else if old ≤ 1 then s.wr .HLYD_REF_ST_RSTATE 2 r
  else if old = 2 && x.accepted then
    let w := s.rd .HLYD_REF_CFG_WTR_S r
    if x.need && w != 0 then (s.wr .HLYD_REF_ST_RSTATE 3 r).wr .HLYD_REF_ST_WTR_LEFT w r else s.refAvail r
  else s

/-- No edge within 4 nominal periods, or within 1.1 s for REF9 (R308): activity is lost. -/
def execRefActivityLoss (r : Ref) (s : State) : Res := act 5 s fun s =>
  (s.wr .HLYD_REF_ST_ACT 0 r).refEval r

/-- The first edge after a loss (R308): activity returns, and a Failed reference with no other failure qualifies. -/
def execRefActivityReturn (r : Ref) (s : State) : Res := act 5 s fun s =>
  (s.wr .HLYD_REF_ST_ACT 1 r).refEval r

/-- One monitor update of a reference other than REF9 (R309), FOFF in 0.01 ppm. -/
def State.monitorRef (s : State) (r : Nat) (foff : Int) : State :=
  let s := s.wr .HLYD_REF_ST_FOFF (unsigned 16 foff) r
  let x := s.halRef r
  let mag := foff.natAbs
  let rejected := decide (s.rd .HLYD_REF_CFG_REJ r * 10 < mag)
  let steady := decide (mag ≤ s.rd .HLYD_REF_CFG_ACC r * 10) && s.on .HLYD_REF_ST_ACT r && !s.extFail r
  let calm := if steady then min 1000 (x.calm + 1) else 0
  (s.setHalRef r { x with rejected := rejected, calm := calm, accepted := !rejected && (x.accepted || calm == 1000) }).refEval r

/-- A frequency moved towards a target by FSLEW ppb/s for one millisecond (R321): in hundredths of 0.1 ppb. -/
def rampStep (now target slew : Int) : Int :=
  if now < target then min target (now + slew) else max target (now - slew)

/-- The frequency in force over one millisecond: it follows the selected reference in Acquiring and Locked; in modes 2 and 3 it
ramps to zero or FFO (R321); otherwise it stays. -/
def State.freqStep (s : State) (measured : Int) : State :=
  let m := s.halyard.mode
  if m = 2 ∨ m = 3 then
    let target := (if m = 3 then signed 32 (s.rd .HLYD_DPLL_CTL_FFO) else 0) * 100
    let now := rampStep (s.freq * 100 + s.halyard.ramp) target (s.rd .HLYD_DPLL_CTL_FSLEW : Nat)
    { s.setFreq (now / 100) with halyard := { s.halyard with ramp := now % 100 } }
  else
    let st := s.rd .HLYD_STAT_STATE
    if st = 1 ∨ st = 2 then s.setFreq measured else s

/-- XO_FAULT (R320): a frequency in force beyond 50 ppm while Locked. -/
def State.xoCheck (s : State) : State :=
  if s.rd .HLYD_STAT_STATE = 2 ∧ 500000 < s.freq.natAbs ∧ !s.on .HLYD_STAT_XO_FAULT then
    (s.wr .HLYD_STAT_XO_FAULT 1).raise .HLYD_EVT_XO 0x2808 0 []
  else s

/-- One millisecond of the averaging (R317): Locked, not switching, and no dispute open (R314). -/
def State.hoSample (s : State) : State :=
  if s.rd .HLYD_STAT_STATE = 2 ∧ !s.on .HLYD_STAT_SWITCHING ∧ s.halyard.disputes = [] then
    let all := s.freq :: s.halyard.recent
    { s with halyard := { s.halyard with
        recent := all.take 1000, memory := ((all.drop 1000) ++ s.halyard.memory).take 300000 } }.showMemory
  else s

/-- The frequency monitor's update, every 1 ms (R309, R317, R320, R321): the offsets of REF0 to REF8 in 0.01 ppm and the measured
frequency in force in 0.1 ppb. -/
def execFreqMonitorUpdate (foffs : List Int) (freq : Int) (s : State) : Res := act 5 s fun s =>
  let t := (List.range 9).foldl (fun t r => t.monitorRef r (foffs.getD r 0)) s
  (t.freqStep freq).xoCheck.hoSample

/-- A ToD load (R325): TOD_VALID, event 0x2807; the intervals on both sides of the step are SUSPECT (R199). -/
def State.todLoad (s : State) (seconds : Nat) : State :=
  let new := seconds % 2 ^ 48
  let s := s.each [0, 1, 2] fun n t => (t.markIntervals n s.tod).markIntervals n new
  ({ s with tod := new }.wr .HLYD_STAT_TOD_VALID 1).raise .HLYD_EVT_TOD_LOAD 0x2807 0 []

/-- A PPS_IN pulse after an interval in ns (R309): REF9 is judged on intervals in a row; the pulse loads a serial ToD that is due
(R326). -/
def execPpsInPulse (interval : Nat) (s : State) : Res := act 5 s fun s =>
  let tol := s.rd .HLYD_TOD_CFG_PPS_TOL * 10
  let inside := decide (1000000000 ≤ interval + tol) && decide (interval ≤ 1000000000 + tol)
  let x := s.halRef 9
  let good := if inside then min 3 (x.good + 1) else 0
  let bad := if inside then 0 else min 2 (x.bad + 1)
  let rejected := if bad = 2 then true else if good = 3 then false else x.rejected
  let s := (s.setHalRef 9 { x with
    good := good, bad := bad, rejected := rejected, accepted := !rejected && (x.accepted || good == 3) }).refEval 9
  match s.halyard.labelDue, s.halyard.label with
  | true, some v =>
    { s with halyard := { s.halyard with labelDue := false, serialLoaded := true } }.todLoad v
  | _, _ => s

/-- WTR_S has passed (R310): the reference is Available. -/
def execRefWtrExpiry (r : Ref) (s : State) : Res := act 5 s fun s =>
  if s.rd .HLYD_REF_ST_RSTATE r = 3 then (s.wr .HLYD_REF_ST_WTR_LEFT 0 r).refAvail r else s

/-! ### Selection boundaries -/

/-- The references of a rank that are Available or Disputed. -/
def State.rankGroup (s : State) (rank : Nat) : List Nat :=
  (List.range 10).filter fun r => s.rd .HLYD_REF_CFG_RANK r == rank && 4 ≤ s.rd .HLYD_REF_ST_RSTATE r

/-- The spread of a group (R314) from the 1 s means, in 0.01 ppm. -/
def spread (means : Nat → Int) (g : List Nat) : Int :=
  match g with
  | [] => 0
  | r :: rest => rest.foldl (fun a x => max a (means x)) (means r) - rest.foldl (fun a x => min a (means x)) (means r)

/-- The members of a group marked. -/
def State.markGroup (s : State) (g : List Nat) (st : Nat) : State :=
  s.each g fun r t => if st = 4 then t.refAvail r else t.wr .HLYD_REF_ST_RSTATE st r

/-- The dispute rules for one rank (R314, R315): a dispute opens on a wide spread; it ends here when a member has failed and the
others agree; a member that has joined is Disputed. -/
def State.disputeRank (s : State) (means : Nat → Int) (rank : Nat) : State :=
  let g := s.rankGroup rank
  let wide := decide (2 ≤ g.length) && decide ((s.rd .HLYD_SEL_CFG_DISP_PPM * 10 : Nat) < spread means g)
  match s.halyard.disputes.find? (fun d => d.1 == rank) with
  | none =>
    if wide then
      ({ s with halyard := { s.halyard with disputes := s.halyard.disputes ++ [(rank, g.length)] } }.markGroup g 5).raise
        .HLYD_EVT_DISPUTE 0x2805 0 []
    else s
  | some (_, n) =>
    if !wide && g.length < n then
      { s with halyard := { s.halyard with disputes := s.halyard.disputes.filter fun d => d.1 != rank } }.markGroup g 4
    else
      { s with halyard := { s.halyard with
          disputes := s.halyard.disputes.map fun d : Nat × Nat => if d.1 = rank then (rank, g.length) else d } }.markGroup g 5

/-- The disputed member that is closer to the frozen memory (or to zero) than every other by DISP_MARGIN (R315). -/
def State.closest (s : State) (g : List Nat) : Option Nat :=
  let ref := if s.hoValid then s.hoFreq else 0
  let dist (r : Nat) : Int := (signed 16 (s.rd .HLYD_REF_ST_FOFF r) * 100 - ref).natAbs
  let margin : Int := (s.rd .HLYD_SEL_CFG_DISP_MARGIN * 1000 : Nat)
  g.find? fun r => g.all fun x => x == r || decide (dist r + margin ≤ dist x)

/-- The eligible references (R311, R315). -/
def State.eligible (s : State) : List Nat :=
  let chosen := s.halyard.disputes.filterMap fun d => s.closest (s.rankGroup d.1)
  let l := (List.range 10).filter fun r => s.rd .HLYD_REF_ST_RSTATE r == 4 || chosen.contains r
  if s.on .HLYD_SEL_CFG_FORCE_EN then l.filter fun r => r == s.rd .HLYD_SEL_CFG_FORCE_REF else l

/-- The best of some references: the lowest RANK, then the lower index (R311). -/
def State.bestRef (s : State) (l : List Nat) : Option Nat :=
  l.foldl (fun a r =>
    match a with
    | none => some r
    | some b => if s.rd .HLYD_REF_CFG_RANK r < s.rd .HLYD_REF_CFG_RANK b then some r else some b) none

/-- Whether the best rank is that of a dispute without an eligible member (R315); a forced selection looks at no rank. -/
def State.rankBlocked (s : State) : Bool :=
  let live := (List.range 10).filter fun r => 4 ≤ s.rd .HLYD_REF_ST_RSTATE r
  match s.bestRef live with
  | none => false
  | some b =>
    !s.on .HLYD_SEL_CFG_FORCE_EN &&
      s.halyard.disputes.any fun d => d.1 == s.rd .HLYD_REF_CFG_RANK b && (s.closest (s.rankGroup d.1)).isNone

/-- A switch to a reference starts, with phase build-out (R313). -/
def State.startSwitch (s : State) (r : Nat) : State :=
  let t := (s.setSelRef r).wr .HLYD_STAT_SWITCHING 1
  if t.rd .HLYD_STAT_STATE = 2 then t else t.dpll 1

/-- The selection of R311 and R315 at a boundary. -/
def State.select (s : State) : State :=
  let sel := s.selRef
  let el := s.eligible
  let keep := !s.on .HLYD_SEL_CFG_REVERT && el.contains sel
  let block := s.rankBlocked
  let s := if block && !keep && !s.halyard.blocked then s.raise .HLYD_EVT_DISPUTE 0x2805 0 [] else s
  let s := { s with halyard := { s.halyard with blocked := block && !keep } }
  if keep then s
  else if block then
    if sel = 15 && 3 ≤ s.rd .HLYD_STAT_STATE then s
    else
      let t := s.setSelRef 15
      if t.hoValid then t.holdover else (t.setFreq 0).dpll 0
  else
    match s.bestRef el with
    | some b => if b = sel then s else s.startSwitch b
    | none => if sel = 15 then s else (s.setSelRef 15).holdover

/-- A change of MODE applies (R321, R322): outside mode 0 no reference is selected. -/
def State.applyMode (s : State) : State :=
  let m := s.rd .HLYD_DPLL_CTL_MODE
  if m = s.halyard.mode then s
  else
    let s := { s with halyard := { s.halyard with mode := m, ramp := 0 } }
    match m with
    | 0 => s.holdoverAgain
    | 1 => (s.setSelRef 15).holdover
    | 2 => (s.setSelRef 15).dpll 0
    | _ => (s.setSelRef 15).dpll 3

/-- A selection boundary, every 1 ms (R311 to R315, R321): the 1 s means of the offsets in 0.01 ppm. -/
def execSelectionBoundary (means : List Int) (s : State) : Res := act 5 s fun s =>
  let s := if s.on .HLYD_STAT_SWITCHING then s else s.applyMode
  let s := s.each [1, 2, 3, 4, 5, 6, 7, 8, 9, 10, 11, 12, 13, 14, 15] fun k t => t.disputeRank (fun r => means.getD r 0) k
  if s.on .HLYD_STAT_SWITCHING || s.halyard.mode != 0 then s else s.select

/-- Phase build-out completes (R313). -/
def execBuildOutDone (s : State) : Res := act 5 s fun s => s.wr .HLYD_STAT_SWITCHING 0

/-- The lock criteria have held for 2 s (Table 12.5). -/
def execDpllLocked (s : State) : Res := act 5 s fun s =>
  if s.rd .HLYD_STAT_STATE = 1 then (s.dpll 2).xoCheck else s

/-- HO_AGE has reached HO_MAX minutes (R319). -/
def execHoldoverDegrade (s : State) : Res := act 5 s fun s =>
  if s.rd .HLYD_STAT_STATE = 3 ∧ s.hoAged ∧ s.halyard.mode ≠ 3 then s.dpll 4 else s

/-- The spread of a disputed group has stayed within DISP_PPM for 10 s (R315). -/
def execDisputeEnd (rank : Nat) (s : State) : Res := act 5 s fun s =>
  if s.halyard.disputes.any fun d => d.1 == rank then
    { s with halyard := { s.halyard with disputes := s.halyard.disputes.filter fun d => d.1 != rank } }.markGroup
      (s.rankGroup rank) 4
  else s

/-! ### Loop, phase step and time of day: the writes of R306 -/

/-- A write of an HLYD run-time register: Operator rights for D0, journaled (R306, R419), cause 0x5 without them. -/
def State.hlydWrite (s : State) (req : Requester) (id : RegId) (new : Nat) (f : State → State) : State :=
  s.writeOr req 1 [0] (regAddr ⟨id, 0, 0, 0⟩) (s.reg id) new true 5 5 0 f

/-- HLYD_DPLL_CTL written (Table 12.11): FFO is clipped to ±500,000 and FSLEW to at least 1 (R331). -/
def State.setDpllCtl (s : State) (v : Nat) : State :=
  s.setReg .HLYD_DPLL_CTL (bits v 1 0 + (max 1 (bits v 31 16)) <<< 16 +
    (unsigned 32 (clip (-500000) 500000 (signed 32 (bits v 63 32)))) <<< 32)

/-- A write of HLYD_DPLL_CTL. -/
def State.dpllCtlWrite (s : State) (req : Requester) (v : Nat) : State :=
  s.hlydWrite req .HLYD_DPLL_CTL v fun t => t.setDpllCtl v

/-- MODE written, the other fields kept. -/
def State.modeWrite (s : State) (req : Requester) (m : Nat) : State :=
  s.dpllCtlWrite req (setBits (s.reg .HLYD_DPLL_CTL) 1 0 m)

/-- MODE = 0 (R322): at the next boundary Halyard selects and starts a switch with build-out. -/
def execModeAutomatic (req : Requester) (s : State) : Res := access req 5 s fun s => s.modeWrite req 0

/-- MODE = 1 (R321): forced holdover from the next boundary. -/
def execForcedHoldover (req : Requester) (s : State) : Res := access req 5 s fun s => s.modeWrite req 1

/-- MODE = 2 (R321): forced Free-run from the next boundary. -/
def execForcedFreeRun (req : Requester) (s : State) : Res := access req 5 s fun s => s.modeWrite req 2

/-- MODE = 3 (R321): the software loop from the next boundary. -/
def execSoftwareLoop (req : Requester) (s : State) : Res := access req 5 s fun s => s.modeWrite req 3

/-- A write of FFO (R321): the ramp goes on from the frequency reached. -/
def execFfoWrite (req : Requester) (ffo : BitVec 32) (s : State) : Res := access req 5 s fun s =>
  s.dpllCtlWrite req (setBits (s.reg .HLYD_DPLL_CTL) 63 32 ffo.toNat)

/-- The effect of GO (R324): ignored and counted while busy; refused with event 0x2806 for a larger amount in mode 0. -/
def State.stepGo (s : State) : State :=
  if s.on .HLYD_PSTEP_BUSY then s.inc .HLYD_PSTEP_PSTEP_OVR
  else if s.rd .HLYD_PSTEP_MODE = 0 ∧ 1000000 < (signed 40 (s.rd .HLYD_PSTEP_AMOUNT)).natAbs then
    s.raise .HLYD_EVT_PSTEP 0x2806 0 [Config.flagCode .stepRefused]
  else { s with halyard := { s.halyard with step := signed 40 (s.rd .HLYD_PSTEP_AMOUNT) } }.wr .HLYD_PSTEP_BUSY 1

/-- HLYD_PSTEP written (Table 12.14): SLEW is clipped to 1 to 1,000 (R331), and GO acts. -/
def State.setPstep (s : State) (v : Nat) : State :=
  let t := ((s.wr .HLYD_PSTEP_MODE (bits v 61 61)).wr .HLYD_PSTEP_SLEW (max 1 (min 1000 (bits v 60 48)))).wr .HLYD_PSTEP_AMOUNT
    (bits v 39 0)
  if bit v 62 then t.stepGo else t

/-- A write of HLYD_PSTEP. -/
def State.pstepWrite (s : State) (req : Requester) (v : Nat) : State := s.hlydWrite req .HLYD_PSTEP v fun t => t.setPstep v

/-- A write of HLYD_PSTEP with GO (R324): the mode, SLEW in ns/s, AMOUNT in ps as its 40-bit code. -/
def execPhaseStepGo (req : Requester) (slewed : Bool) (slew : Nat) (amount : BitVec 40) (s : State) : Res :=
  access req 5 s fun s => s.pstepWrite req (2 ^ 62 + b2n slewed <<< 61 + (slew % 2 ^ 13) <<< 48 + amount.toNat)

/-- A phase step completes (R324): the accumulator of the output DPLL, and with it the clock outputs, PPS_OUT and the ToD, has moved by
exactly AMOUNT. -/
def execPhaseStepDone (s : State) : Res := act 5 s fun s =>
  if s.on .HLYD_PSTEP_BUSY then
    ({ s with halyard := { s.halyard with step := 0, phase := s.halyard.phase + s.halyard.step } }.wr .HLYD_PSTEP_BUSY 0).raise .HLYD_EVT_PSTEP 0x2806 0 [Config.flagCode .stepDone]
  else s

/-- SNAP (R327): the ToD copied; its nanoseconds are a time the model does not keep (log entry 3). -/
def State.todSnap (s : State) : State :=
  let (t, v) := s.draw
  ((t.wr .HLYD_TOD_SNAP_VALID (s.rd .HLYD_STAT_TOD_VALID)).wr .HLYD_TOD_SNAP_SECONDS s.tod).wr .HLYD_TOD_SNAP_NS_NS v

/-- HLYD_TOD_SET written (Table 12.15). -/
def State.setTodSet (s : State) (v : Nat) : State :=
  let t := s.wr .HLYD_TOD_SET_SECONDS (bits v 47 0)
  let t := if bit v 48 then t.wr .HLYD_TOD_SET_ARM 1 else t
  if bit v 49 then t.todSnap else t

/-- A write of HLYD_TOD_SET. -/
def State.todSetWrite (s : State) (req : Requester) (v : Nat) : State := s.hlydWrite req .HLYD_TOD_SET v fun t => t.setTodSet v

/-- SECONDS and ARM written (R326): SECONDS loads at the next second rollover. -/
def execTodArm (req : Requester) (seconds : BitVec 48) (s : State) : Res :=
  access req 5 s fun s => s.todSetWrite req (2 ^ 48 + seconds.toNat)

/-- SNAP written, SECONDS kept (R327). -/
def execTodSnap (req : Requester) (s : State) : Res :=
  access req 5 s fun s => s.todSetWrite req (2 ^ 49 + s.rd .HLYD_TOD_SET_SECONDS)

/-- What a second rollover does in Halyard (R326, R327): an armed load, or the count; PPS_OUT; the seconds of WTR_LEFT and HO_AGE. -/
def State.halyardSecond (s : State) : State :=
  let s := if s.on .HLYD_TOD_SET_ARM && !s.on .HLYD_TOD_CFG_TOD_SRC then
      (s.wr .HLYD_TOD_SET_ARM 0).todLoad (s.rd .HLYD_TOD_SET_SECONDS)
    else { s with tod := (s.tod + 1) % 2 ^ 48 }
  let s := if s.on .HLYD_TOD_CFG_PPS_EN && s.drives (s.on .LNYD_GATE_G_PPS) then s.emit (.ppsOut (s.rd .HLYD_TOD_CFG_PPS_W)) else s
  let s := s.each (List.range 10) fun r t => t.wr .HLYD_REF_ST_WTR_LEFT (t.rd .HLYD_REF_ST_WTR_LEFT r - 1) r
  if 3 ≤ s.rd .HLYD_STAT_STATE then s.inc .HLYD_STAT_HO_AGE else s

/-- Whether a serial ToD message is valid with VALID = 1 (Table 12.6, R326). -/
def todMessageOk (m : List Byte) : Bool :=
  m.length == 16 && byteAt m 0 == 0x51 && byteAt m 1 == 0x54 && byteAt m 2 == 1 && bit (byteAt m 3) 0 &&
    leAt m 14 2 == crc16 (m.take 14)

/-- A serial ToD message (R326): ignored but with TOD_SRC = 1; outside its window or not valid it breaks the row of messages. Two in
a row load the ToD at the next pulse; once loaded, a message that disagrees with the count is counted, and three that agree on a
new value load it. -/
def execTodMessageReceived (m : List Byte) (inWindow : Bool) (s : State) : Res := act 5 s fun s =>
  if !s.on .HLYD_TOD_CFG_TOD_SRC then s
  else if !(todMessageOk m && inWindow) then
    { s with halyard := { s.halyard with label := none, agreeing := 0, labelDue := false } }
  else
    let v := leAt m 4 6
    let n := if s.halyard.label = some ((v + 2 ^ 48 - 1) % 2 ^ 48) then min 3 (s.halyard.agreeing + 1) else 1
    let agrees := decide (v = (s.tod + 1) % 2 ^ 48)
    let due := if s.halyard.serialLoaded then !agrees && n == 3 else 2 ≤ n
    let t := { s with halyard := { s.halyard with label := some v, agreeing := n, labelDue := due } }
    if s.halyard.serialLoaded && !agrees then
      (t.inc .HLYD_STAT_TOD_MSG_BAD).raise .HLYD_EVT_TOD_MSG 0x2809 0 []
    else t

/-! ### Outputs -/

/-- Whether CLK_OUTk runs, before Clove gating (R323). -/
def State.clkOutRuns (s : State) (k : Nat) : Bool :=
  let st := s.rd .HLYD_STAT_STATE
  s.on .HLYD_OUT_CFG_EN k &&
    match s.rd .HLYD_OUT_CFG_HO_ACT k with
    | 1 => st != 4
    | 2 => st < 3
    | _ => true

/-- What a clock output does (R297, R298, R323): nothing where it is at high impedance; held low; or a clock of 1,000 MHz × NUM / DEN. -/
def State.clkOut (s : State) (k : Nat) : Option (Option (Nat × Nat)) :=
  if !s.alive 5 || !s.drives ((s.rd .LNYD_GATE_G_CLK).testBit k) then none
  else if s.clkOutRuns k then some (some (s.rd .HLYD_OUT_CFG_NUM k, s.rd .HLYD_OUT_CFG_DEN k))
  else some none

/-- Whether HLYD_LOCK_N is low (R316, R328). -/
def State.lockPinLow (s : State) : Bool := s.alive 5 && s.rd .HLYD_STAT_STATE == 2

/-- The value on HLYD_ST (R328). -/
def State.statePins (s : State) : Nat := if s.alive 5 then s.rd .HLYD_STAT_PIN_ST else 7

/-! ### Commit -/

/-- The rules of Table 12.8 over the state that the commit would leave. -/
def checkHlyd (t : State) : Option Breach :=
  let ranked (r : Nat) := t.rd .HLYD_REF_CFG_RANK r != 0
  let nominal (r : Nat) := t.rd .HLYD_REF_CFG_NOMINAL r
  let num (k : Nat) := t.rd .HLYD_OUT_CFG_NUM k
  let den (k : Nat) := t.rd .HLYD_OUT_CFG_DEN k
  let fr := t.rd .HLYD_SEL_CFG_FORCE_REF
  firstBreach [
    (1, broken ((List.range 10).any (fun r => 1000 < t.rd .HLYD_REF_CFG_WTR_S r) || 3 < t.rd .HLYD_SEL_CFG_HO_AVG ||
      (List.range 2).any (fun k => num k == 0 || den k == 0 || t.rd .HLYD_OUT_CFG_HO_ACT k == 3) ||
      t.rd .HLYD_TOD_CFG_BAUD == 3 || t.rd .HLYD_TOD_CFG_PPS_W == 0)),
    (2, broken ((List.range 10).any fun r => ranked r && t.rd .HLYD_REF_CFG_REJ r ≤ t.rd .HLYD_REF_CFG_ACC r)),
    (3, broken ([7, 8].any (fun r => ranked r && (nominal r < 1000000 || 800000000 < nominal r)) ||
      (List.range 2).any fun k => 1000000000 * num k < 1000 * den k || 800000000 * den k < 1000000000 * num k)),
    (4, broken (t.on .HLYD_SEL_CFG_FORCE_EN && (9 < fr || !ranked fr)))]

/-- What an applied HLYD commit starts: references enabled qualify for the first time (R310); the others are judged anew. -/
def afterHlyd (old new : State) : State :=
  (new.each (List.range 10) fun r t =>
    let t := if old.rd .HLYD_REF_CFG_RANK r = 0 then t.setHalRef r { t.halRef r with been := false, need := false } else t
    t.refEval r).showMemory.holdoverAgain

end Sys2Proof.Machine
end

