-- ==== Sys2Proof/Machine/Splice.lean ====
section
/-! DEFINITION. Splice and the receive converters of Strand (chapter 3): acquisition, loss and return of signal, freezes, the receive
tables, grants, estimates. -/

namespace Sys2Proof.Machine

open Sys2Proof

/-- What Splice holds for a line, replaced. -/
def State.setSpl (s : State) (n : Nat) (x : SpliceInt) : State := { s with splice := s.splice.put {} n x }

/-- An event of Splice for its line. -/
def State.splEvent (s : State) (n : Nat) (f : Fld) (code : Nat) : State := s.raise f code (s.lineDom n) [] false n

/-- An event of Splice for a subcarrier, which goes to its slot domain (R42). -/
def State.subEvent (s : State) (n slot : Nat) (f : Fld) (code : Nat) : State := s.raise f code (s.slotDom n slot) [] false n

/-- The lit subcarriers of the receive layout; in 800ZR framing there is one carrier and no layout. -/
def State.lit (s : State) (n : Nat) : List Nat := if s.lineOzr n then [] else s.firstSlots .SPLC_SC_CFG_WIDTH n

/-- The state of Table 3.2 that a line's Splice is in. -/
def State.splState (s : State) (n : Nat) : Nat := s.rd .SPLC_STAT_STATE n

/-- Whether Splice is in Tracking. -/
def State.tracking (s : State) (n : Nat) : Bool := s.splState n == 8

/-! ### Receive tables (R79, R80, R105) -/

/-- The receive start table. -/
def State.rxStart (s : State) (n : Nat) : List (Nat × Nat × Nat) :=
  (s.lit n).map fun f => (f, s.rd .SPLC_SC_CFG_RX_START_BASE n f, s.rd .SPLC_SC_CFG_RX_START_ENT n f)

/-- The armed table discarded. -/
def State.disarm (s : State) (n : Nat) : State :=
  ((s.setSpl n { s.spl n with standby := [], armState := 0, armId := 0, switchIn := 0 }).wr .SPLC_STAT_ARMED 0 n).wr
    .SPLC_STAT_ARMED_ID 0 n

/-- A table in force on receive: RX_U shows its U (R188), and what follows a line's capacity is taken anew. -/
def State.setRx (s : State) (n id : Nat) (table : List (Nat × Nat × Nat)) : State :=
  let s := (s.setSpl n { s.spl n with table := table }).wr .SPLC_STAT_ACTIVE_ID id n
  (s.wr .HTCH_STAT_RX_U (s.rxU n) n).lineConsequences n

/-- The receiver back on its start table, disarmed (R105, R169). -/
def State.startRx (s : State) (n : Nat) : State := (s.setRx n 0 (s.rxStart n)).disarm n

/-- Whether an announced table fits the receive layout and Table 2.1 (R61 step 2): a legal pair at each first slot, zero elsewhere. -/
def State.tableFits (s : State) (n : Nat) (entries : List Nat) : Bool :=
  (List.range 32).all fun f =>
    let e := entries.getD f 0
    if (s.lit n).contains f then pairOk (e / 128) (e % 128) else e == 0

/-- What Splice takes from a received update (R61, R62, R66, R67): a proposal is armed or rejected, one already armed stays; a valid
countdown fixes the switch of the armed table; one under identifier 0 is a forced reversion, which arms the start table. -/
def State.spliceUpdate (s : State) (n v : Nat) : State :=
  let st := blItem v 256 2
  let id := blItem v 258 4
  let count := blItem v 262 4
  let entries := (List.range 32).map fun f => blItem v (266 + 9 * f) 9
  let crc := decide (blItem v 554 16 = annCrc id entries)
  let x := s.spl n
  let table := (s.lit n).map fun f => (f, entries.getD f 0 / 128, entries.getD f 0 % 128)
  let arm (t : State) (tab : List (Nat × Nat × Nat)) (k : Nat) : State :=
    ((t.setSpl n { t.spl n with standby := tab, armState := 1, armId := k, switchIn := 0 }).wr .SPLC_STAT_ARMED 1 n).wr
      .SPLC_STAT_ARMED_ID k n
  match st with
  | 1 =>
    if x.armState = 1 ∧ x.armId = id then s
    else if crc && s.tableFits n entries then arm s table id
    else
      let t := s.disarm n
      t.setSpl n { t.spl n with armState := 2, armId := id }
  | 2 =>
    if !crc || x.switchIn != 0 then s
    else
      let s := if id = 0 ∧ ¬(x.armState = 1 ∧ x.armId = 0) then arm s (s.rxStart n) 0 else s
      let y := s.spl n
      if y.armState = 1 ∧ y.armId = id then s.setSpl n { y with switchIn := max 1 count } else s
  | _ => s

/-- The expected marker position of the multiframe that a countdown fixed (R82): with MF_LOCK the armed table switches, event 0x5009;
without it the receiver disarms. -/
def execRxTableSwitch (n : Line) (s : State) : Res := act 10 s fun s =>
  let x := s.spl n
  if x.armState != 1 || x.switchIn == 0 then s
  else if s.on .SPLC_STAT_MF_LOCK n then
    (((s.setRx n x.armId x.standby).disarm n).splEvent n .SPLC_EVT_SWITCHED 0x5009).endFallback n
  else s.disarm n

/-- Hitch has been out of frame or out of multiframe for FALLBACK milliseconds (R65): the start table, and FALLBACK. -/
def execRxFallback (n : Line) (s : State) : Res := act 10 s fun s =>
  if s.loads n && (s.on .HTCH_STAT_OOF n || s.on .HTCH_STAT_OOM n) then
    (s.setRx n 0 (s.rxStart n)).wr .BRAD_LOAD_STAT_RX_FALLBACK 1 n
  else s

/-! ### States (R83, R96, R97) -/

/-- Outside Tracking the estimates read as their code for none, or zero (R98); the channel response reads as it does in dark slots
(Table 3.25, log entry 14). -/
def State.dropEstimates (s : State) (n : Nat) : State :=
  let s := (s.setReg .SPLC_EST (regReset ⟨.SPLC_EST, n, 0, 0⟩) n).setSpl n { s.spl n with extremes := [] }
  let s := (s.wr .SPLC_EST2_SOP_PEAK 0 n).wr .SPLC_EST2_CLK_OFF 0 n
  let s := s.each (List.range 512) fun e t => t.setReg .SPLC_CHAN 0x8080 n e
  s.each (List.range 32) fun f t =>
    let t := (((t.wr .SPLC_SC_EST_LOCK 0 n f).wr .SPLC_SC_EST_DGD_SC 255 n f).wr .SPLC_SC_EST_SNR 255 n f)
    let t := (t.wr .SPLC_SC_EST_SNR_X 255 n f).wr .SPLC_SC_EST_SNR_Y 255 n f
    (t.wr .SPLC_SC_HIST_SNR_MIN 255 n f).wr .SPLC_SC_HIST_SNR_MAX 255 n f

/-- Splice of a line enters a state other than Tracking: the locks and estimates end, and reference REF(4 + n) fails (R88). FROZEN shows
STATE 9 alone: an acquisition that FREEZE halts is not shown there (R96 does not say, log entry 76). -/
def State.leaveTo (s : State) (n st : Nat) : State :=
  let x := s.spl n
  let s := ((s.setSpl n { x with restarting := [], warm := false, thawed := false, foffOut := false, halted := decide (3 ≤ st ∧ st ≤ 7) && s.on .SPLC_CMD_FREEZE n }).wr
    .SPLC_STAT_STATE st n).wr .SPLC_STAT_FROZEN (b2n (st == 9)) n
  let s := if st = 9 then s else (s.wr .SPLC_STAT_WARM_PEND 0 n).setSpl n { s.spl n with coldDue := false }
  (s.dropEstimates n).refEval (4 + n)

/-- Wait-signal, which ends at once when raw LOS is clear (Table 3.2). -/
def State.waitSignal (s : State) (n : Nat) : State := s.leaveTo n (if s.on .SPLC_STAT_RAW_LOS n then 1 else 3)

/-- A line restart counted (R83). -/
def State.lineRestart (s : State) (n : Nat) : State := s.inc .SPLC_EST2_LINE_RESTARTS 1 n

/-- A cold acquisition: event 0x5003, a line restart, then Frequency search, or Wait-signal while raw LOS holds. -/
def State.coldStart (s : State) (n : Nat) : State := ((s.splEvent n .SPLC_EVT_COLD 0x5003).lineRestart n).waitSignal n

/-- Splice freezes (R96). -/
def State.freeze (s : State) (n : Nat) : State := s.leaveTo n 9

/-- A warm restart (R97): through Pilot lock. Until the next modulation-frame boundary of the line another freeze condition keeps it
frozen (Table 3.10). -/
def State.warmRestart (s : State) (n : Nat) : State :=
  let s := s.leaveTo n 7
  s.setSpl n { s.spl n with warm := true, thawed := s.lineNative n }

/-- Tracking reached (R83): event 0x5001, every subcarrier locks, and Cleat clears its windows (R157). FREEZE then freezes it. No
subcarrier is in Tracking for the whole of this multiframe (R101). -/
def State.reachTracking (s : State) (n : Nat) : State :=
  let s := ((s.setSpl n { s.spl n with restarting := [], warm := false, thawed := false, broken := s.lit n }).wr .SPLC_STAT_STATE 8 n).splEvent n .SPLC_EVT_ACQ_DONE 0x5001
  let s := s.each (s.lit n) fun f t => (t.wr .SPLC_SC_EST_LOCK 1 n f).lockReturns n f
  let s := s.refEval (4 + n)
  if s.on .SPLC_CMD_FREEZE n then s.freeze n else s

/-- Whether a state of the acquisition may go on: the line is in it and FREEZE has not halted it (Table 3.7). -/
def State.inState (s : State) (n st : Nat) : Bool := s.splState n == st && !(s.spl n).halted

/-- The offset estimate has settled (Table 3.2). With CD_MODE = 2, CD search ends at once (R86). An estimate beyond ±3.6 GHz keeps Splice
in Frequency search (R87). -/
def execFreqSearchDone (n : Line) (s : State) : Res := act 10 s fun s =>
  if s.inState n 3 && !(s.spl n).foffOut then s.wr .SPLC_STAT_STATE (if s.rd .SPLC_LINE_CFG_CD_MODE n = 2 then 5 else 4) n else s

/-- Pilot correlation is found on all lit subcarriers (Table 3.2). -/
def execCdSearchDone (n : Line) (s : State) : Res := act 10 s fun s => if s.inState n 4 then s.wr .SPLC_STAT_STATE 5 n else s

/-- The clock offset is within 1 ppm (Table 3.2). -/
def execTimingDone (n : Line) (s : State) : Res := act 10 s fun s => if s.inState n 5 then s.wr .SPLC_STAT_STATE 6 n else s

/-- A restarting subcarrier in a state. -/
def State.subIn (s : State) (n slot st : Nat) : Bool := s.tracking n && (s.spl n).restarting.get 0 slot == st

/-- Constant-modulus adaptation has run its symbols: of the line, or of a restarting subcarrier. -/
def execBlindConvergeDone (n : Line) (sub : Option Slot) (s : State) : Res := act 10 s fun s =>
  match sub with
  | none => if s.inState n 6 then s.wr .SPLC_STAT_STATE 7 n else s
  | some f =>
    if s.subIn n f 6 then s.setSpl n { s.spl n with restarting := (s.spl n).restarting.put 0 f 7 } else s

/-- Every lit subcarrier, or a restarting one, is pilot-locked above DIVERGE (R83). -/
def execPilotLockDone (n : Line) (sub : Option Slot) (s : State) : Res := act 10 s fun s =>
  match sub with
  | none => if s.inState n 7 then s.reachTracking n else s
  | some f =>
    if s.subIn n f 7 then
      ((s.setSpl n { s.spl n with restarting := (s.spl n).restarting.put 0 f 0, broken := f :: (s.spl n).broken }).wr .SPLC_SC_EST_LOCK 1 n f).lockReturns n f
    else s

/-- A subcarrier restarts from Blind converge (Table 3.7): event 0x5004, counted in RESTARTS. -/
def State.subRestart (s : State) (n slot : Nat) : State :=
  let s := (s.inc .SPLC_SC_HIST_RESTARTS 1 n slot).subEvent n slot .SPLC_EVT_DIVERGED 0x5004
  (s.setSpl n { s.spl n with restarting := (s.spl n).restarting.put 0 slot 6 }).wr .SPLC_SC_EST_LOCK 0 n slot

/-- A bound of Table 3.2 is reached (R83): of a line state, with its event, back to Frequency search; of a warm restart, a cold
acquisition from Wait-signal (R97); of a restarting subcarrier, a new restart. -/
def execAcqBoundExpiry (n : Line) (sub : Option Slot) (s : State) : Res := act 10 s fun s =>
  match sub with
  | some f => if s.subIn n f 6 || s.subIn n f 7 then s.subRestart n f else s
  | none =>
    let st := s.splState n
    if (s.spl n).halted || st < 3 || 7 < st then s
    else if (s.spl n).warm then s.coldStart n
    else
      let s := match st with
        | 3 => s.splEvent n .SPLC_EVT_FOFF_RANGE 0x5008
        | 4 | 5 => s.splEvent n .SPLC_EVT_CD_FAIL 0x5005
        | 7 => s.splEvent n .SPLC_EVT_DIVERGED 0x5004
        | _ => s
      (s.lineRestart n).waitSignal n

/-! ### Raw LOS, freeze, restart (R95 to R97) -/

/-- Raw LOS rises (Table 3.7): event 0x5002, Hitch is told; Tracking freezes under FREEZE_HOLD, an acquisition returns to Wait-signal. A
freeze that ended in this frame goes on (Table 3.10). -/
def State.losRise (s : State) (n : Nat) : State :=
  let s := ((s.wr .SPLC_STAT_RAW_LOS 1 n).splEvent n .SPLC_EVT_LOS_RISE 0x5002).setDefect n 0 true
  let st := s.splState n
  if st = 8 || (st == 7 && (s.spl n).thawed) then (s.freeze n).wr .SPLC_STAT_WARM_PEND 1 n
  else if 3 ≤ st ∧ st ≤ 7 then (s.lineRestart n).leaveTo n 1
  else s

/-- Raw LOS clears: Wait-signal ends; a freeze within FREEZE_HOLD ends in a warm restart, which waits for FREEZE to return to 0. -/
def State.losFall (s : State) (n : Nat) : State :=
  let s := (s.wr .SPLC_STAT_RAW_LOS 0 n).setDefect n 0 false
  match s.splState n with
  | 1 => s.leaveTo n 3
  | 9 =>
    if s.on .SPLC_CMD_FREEZE n then s.wr .SPLC_STAT_WARM_PEND 0 n
    else if s.on .SPLC_STAT_WARM_PEND n then s.warmRestart n
    else s
  | _ => s

/-- The end of a window of 64 dclk cycles (R95): the mean power in 0.25 dB below ADC full scale, and whether LOS_IN was asserted in it.
While a failed ADC calibration holds the line in Calibrating, raw LOS stays reported until a later one has succeeded (R78). -/
def execRawLosWindow (n : Line) (power : Nat) (pin : Bool) (s : State) : Res := act 10 s fun s =>
  let s := ({ s with pins := { s.pins with losIn := s.pins.losIn.put false n pin } }).wr .SPLC_STAT_LOS_PIN (b2n pin) n
  if s.splState n = 0 || (s.splState n == 2 && (s.str n).adcFailed) then s
  else
    let thr := s.rd .SPLC_LINE_CFG_LOS_THR n
    let viaPin := pin && s.on .SPLC_LINE_CFG_LOS_PIN_EN n
    if s.on .SPLC_STAT_RAW_LOS n then
      if power + s.rd .SPLC_LINE_CFG_LOS_HYST n ≤ thr && !viaPin then s.losFall n else s
    else if thr < power || viaPin then s.losRise n
    else s

/-- FREEZE_HOLD runs out (R97), with whether raw LOS clears in the same cycle: a warm restart when it does (Table 3.10), else a cold
acquisition from Wait-signal, which waits for FREEZE to return to 0. -/
def execFreezeHoldExpiry (n : Line) (clear : Bool) (s : State) : Res := act 10 s fun s =>
  if s.splState n = 9 && s.on .SPLC_STAT_WARM_PEND n then
    if clear then s.losFall n
    else if s.on .SPLC_CMD_FREEZE n then
      (s.setSpl n { s.spl n with coldDue := true }).wr .SPLC_STAT_WARM_PEND 0 n
    else s.coldStart n
  else s

/-- The effect of FREEZE set or cleared (Table 3.7, R97). -/
def State.setFreeze (s : State) (n : Nat) (v : Bool) : State :=
  let was := s.on .SPLC_CMD_FREEZE n
  let s := s.wr .SPLC_CMD_FREEZE (b2n v) n
  let st := s.splState n
  if was == v then s
  else if v then
    if st = 8 || (st == 7 && (s.spl n).thawed) then s.freeze n
    else if 3 ≤ st ∧ st ≤ 7 then s.setSpl n { s.spl n with halted := true }
    else s
  else if st = 9 then
    if (s.spl n).coldDue then s.coldStart n
    else if s.on .SPLC_STAT_RAW_LOS n then s.wr .SPLC_STAT_WARM_PEND 1 n
    else s.warmRestart n
  else s.setSpl n { s.spl n with halted := false }

/-- The effect of REACQ (Table 3.7, R103): in acquisition, Tracking or a freeze a cold acquisition; Calibrating and Wait-signal go on. -/
def State.reacq (s : State) (n : Nat) : State := if 3 ≤ s.splState n then s.coldStart n else s

/-- A write of SPLC_CMD: FREEZE, then REACQ. -/
def State.spliceCmd (s : State) (req : Requester) (n v : Nat) : State :=
  s.runWrite req (s.lineDom n) ⟨.SPLC_CMD, n, 0, 0⟩ v fun t =>
    let t := t.setFreeze n (bit v 0)
    if bit v 1 then t.reacq n else t

/-- FREEZE = 1 written. -/
def execFreeze (req : Requester) (n : Line) (s : State) : Res := access req 10 s fun s => s.spliceCmd req n 1

/-- FREEZE = 0 written. -/
def execUnfreeze (req : Requester) (n : Line) (s : State) : Res := access req 10 s fun s => s.spliceCmd req n 0

/-- REACQ written, FREEZE kept. -/
def execReacq (req : Requester) (n : Line) (s : State) : Res := access req 10 s fun s =>
  s.spliceCmd req n (2 + s.rd .SPLC_CMD_FREEZE n)

/-- A pilot SNR below DIVERGE for 8 frames (Table 3.7): that subcarrier restarts; when with it more than half of the lit ones have diverged
within 1 ms, the line starts a cold acquisition. -/
def execSubcarrierDiverge (n : Line) (slot : Slot) (majority : Bool) (s : State) : Res := act 10 s fun s =>
  if s.tracking n && (s.lit n).contains slot && (s.spl n).restarting.get 0 slot == 0 then
    let s := s.subRestart n slot
    if majority then s.coldStart n else s
  else s

/-! ### Modulation frames, markers, grants (R81, R94, R96, R106) -/

/-- An odd number not below a given one (R106). -/
def oddUp (v : Nat) : Nat := v / 2 * 2 + 1

/-- The least and greatest taps of a subcarrier's width (R94, R106). -/
def State.tapLeast (s : State) (n slot : Nat) : Nat := oddUp (s.rd .SPLC_TAP_LIM_MIN n (s.rd .SPLC_SC_CFG_WIDTH n slot - 1))

/-- The greatest. -/
def State.tapMost (s : State) (n slot : Nat) : Nat :=
  max (s.tapLeast n slot) (oddUp (s.rd .SPLC_TAP_LIM_MAX n (s.rd .SPLC_SC_CFG_WIDTH n slot - 1)))

/-- Belay's grants of taps and UPD applied at a frame boundary in Tracking (R94); a restarting subcarrier takes the latest once it is
back (Table 3.10). Before the first grant TAPS and UPD show 0, their reset value: R93 names no tap count for that time (log entry 76). -/
def State.applyTaps (s : State) (n : Nat) : State :=
  if !s.tracking n || !s.alive 6 then s
  else s.each (s.lit n) fun f t =>
    match (t.spl n).restarting.get 0 f, t.belay.grants.get none (32 * n + f) with
    | 0, some g =>
      (t.wr .SPLC_SC_EST_TAPS (max (t.tapLeast n f) (min g.taps (t.tapMost n f))) n f).wr .SPLC_SC_EST_UPD
        (min g.upd (t.rd .SPLC_ADAPT_CFG_UPD_MAX n)) n f
    | _, _ => t

/-- The multiframe marker (R81): two marker frames 256 frames apart set MF_LOCK; with it, markers missed at the expected position are
counted. -/
def State.takeMarker (s : State) (n : Nat) (marker : Bool) : State :=
  let x := s.spl n
  if s.on .SPLC_STAT_MF_LOCK n then
    let p := (x.phase + 1) % 256
    s.setSpl n { x with phase := p, missed := if p != 0 then x.missed else if marker then 0 else x.missed + 1 }
  else
    let ages := (x.seen.map fun a => a + 1).filter fun a => a ≤ 256
    if marker && ages.contains 256 then
      (s.setSpl n { x with seen := [], phase := 0, missed := 0 }).wr .SPLC_STAT_MF_LOCK 1 n
    else s.setSpl n { x with seen := if marker then 0 :: ages else ages }

/-- Over-range (Table 3.7, R103, R520): event 0x5006 on the first such frame after one without; raw LOS governs. -/
def State.overRange (s : State) (n : Nat) (above : Bool) : State :=
  let now := above && !s.on .SPLC_STAT_RAW_LOS n
  let was := s.on .SPLC_STAT_OVR n
  let s := s.wr .SPLC_STAT_OVR (b2n now) n
  let s := if now then s.setSpl n { s.spl n with above := (s.spl n).above + 1 } else s
  if now && !was then s.splEvent n .SPLC_EVT_OVERRANGE 0x5006 else s

/-- The next block of each subcarrier is that of the modulation frame which the marker counts (R146). -/
def State.alignBlocks (s : State) (n : Nat) : State :=
  if s.on .SPLC_STAT_MF_LOCK n then
    let x := s.clt n
    s.setClt n { x with rxJ := (s.lit n).foldl (fun t f => t.put 0 f (7 * s.decWidth n f * (s.spl n).phase)) x.rxJ }
  else s

/-- The background moves of a line's ADCs that waited for this boundary (R77). -/
def State.moveAdcs (s : State) (n : Nat) : State :=
  let x := s.str n
  s.setStr n { x with adc := [0, 1, 2, 3].foldl (fun a t => a.put [] t (calSum true (a.get [] t) (x.adcDue.get [] t))) x.adc, adcDue := [] }

/-- What a modulation-frame boundary does on receive (R48): grants apply (R94, R160), over-range and the marker are judged; on a Hub line
only Cleat's grants apply. -/
def State.receiveFrame (s : State) (n : Nat) (above marker : Bool) : State :=
  let s := (s.applyIters n).moveAdcs n
  let s := s.setSpl n { s.spl n with thawed := false }
  if s.lineMode n = 2 then s else (((s.applyTaps n).overRange n above).takeMarker n marker).alignBlocks n

/-- Three expected markers in a row are not seen (R81): MF_LOCK clears, event 0x5007. -/
def execMarkerLost (n : Line) (s : State) : Res := act 10 s fun s =>
  if s.on .SPLC_STAT_MF_LOCK n && 3 ≤ (s.spl n).missed then
    (((s.setSpl n { s.spl n with missed := 0, seen := [] }).wr .SPLC_STAT_MF_LOCK 0 n).splEvent n .SPLC_EVT_MARKER_LOST 0x5007)
  else s

/-- The tap demand of a lit subcarrier (R93), odd. -/
def execTapDemandReport (n : Line) (slot : Slot) (demand : Nat) (s : State) : Res := act 10 s fun s =>
  if (s.lit n).contains slot && s.tracking n then s.wr .SPLC_SC_EST_DEMAND (max 3 (min 63 (oddUp demand))) n slot else s

/-! ### Estimates (R98 to R102) -/

/-- A code in two's complement kept within ± most, the range of Table 3.9. -/
def ranged (most v : Nat) : Nat :=
  let x := signed 16 (v % 2 ^ 16)
  (max (-(most : Int)) (min (most : Int) x) % 65536).toNat

/-- A carrier-offset estimate (R87): beyond ±3.6 GHz in Frequency search it raises event 0x5008, once while it lasts (R520). -/
def State.takeFoff (s : State) (n v : Nat) : State :=
  if s.tracking n then s.wr .SPLC_EST_FOFF (ranged 28800 v) n
  else if s.splState n = 3 then
    let out := decide (28800 < (signed 16 (v % 2 ^ 16)).natAbs)
    let was := (s.spl n).foffOut
    let s := s.setSpl n { s.spl n with foffOut := out }
    if out && !was then s.splEvent n .SPLC_EVT_FOFF_RANGE 0x5008 else s
  else s

/-- The SNRs of a subcarrier over a multiframe (R99, R101): a subcarrier that was not in Tracking for the whole of it reports none; the
combined ones join the extremes of the present second. -/
def State.takeSnr (s : State) (n f x y c : Nat) : State :=
  let p := s.spl n
  let none' := p.restarting.get 0 f != 0 || p.broken.contains f
  let code (v : Nat) : Nat := if none' then 255 else min 254 v
  let e := p.extremes.get (255, 0) f
  let p := { p with broken := p.broken.filter fun g => g != f }
  let s := s.setSpl n (if none' then p else { p with extremes := p.extremes.put (255, 0) f (min e.1 (min 254 c), max e.2 (min 254 c)) })
  ((s.wr .SPLC_SC_EST_SNR_X (code x) n f).wr .SPLC_SC_EST_SNR_Y (code y) n f).wr .SPLC_SC_EST_SNR (code c) n f

/-- The end of a subcarrier's 1 s window (R99): the least and greatest SNR published in it, none when there was none. -/
def State.takeSnrWindow (s : State) (n f : Nat) : State :=
  let p := s.spl n
  let e := p.extremes.get (255, 0) f
  let s := s.setSpl n { p with extremes := p.extremes.put (255, 0) f (255, 0) }
  (s.wr .SPLC_SC_HIST_SNR_MIN e.1 n f).wr .SPLC_SC_HIST_SNR_MAX (if e.1 = 255 then 255 else e.2) n f

/-- The slots that a receive subcarrier covers. -/
def State.rxCovers (s : State) (n slot : Nat) : Bool :=
  (s.lit n).any fun f => f ≤ slot && decide (slot < f + slotWidth (s.rd .SPLC_SC_CFG_WIDTH n f))

/-- Whether a line has a dark slot (R100); 800ZR framing has no slots (log entry 76). -/
def State.hasDark (s : State) (n : Nat) : Bool := !s.lineOzr n && (List.range 32).any fun f => !s.rxCovers n f

/-- A refreshed estimate (R99), kept within the range of Table 3.9: outside Tracking, and for a subcarrier that restarts, it reads as none
(R98, R101); without a dark slot, energy in the guard band leaves no OSNR (R100). -/
def execEstimateRefresh (n : Line) (est : Estimate) (s : State) : Res := act 10 s fun s =>
  let on := s.tracking n
  let sub (f : Nat) : Bool := on && (s.lit n).contains f
  match est with
  | .snr f x y c => if sub f then s.takeSnr n f x y c else s
  | .snrWindow f => if sub f then s.takeSnrWindow n f else s
  | .dgdSub f v => if sub f then s.wr .SPLC_SC_EST_DGD_SC (if (s.spl n).restarting.get 0 f = 0 then min 254 v else 255) n f else s
  | .cd v => if on then s.wr .SPLC_EST_CD (ranged 20000 v) n else s
  | .dgd v => if on then s.wr .SPLC_EST_DGD (min 4095 v) n else s
  | .pdl v => if on then s.wr .SPLC_EST_PDL (min 255 v) n else s
  | .osnr v guard => if on then s.wr .SPLC_EST_OSNR (if guard && !s.hasDark n then 4095 else min 4095 v) n else s
  | .foff v => s.takeFoff n v
  | .clockOffset v => if on then s.wr .SPLC_EST2_CLK_OFF (ranged 10000 v) n else s
  | .sopPeak v => if on then s.wr .SPLC_EST2_SOP_PEAK (min 65535 v) n else s
  | .overCount => (s.wr .SPLC_EST2_OVR_CNT (min 65535 (s.spl n).above) n).setSpl n { s.spl n with above := 0 }

/-- The 1 s tick of the channel response (R102): the buffers swap and CHAN_SEQ counts; dark slots, and every slot outside Tracking, read
0x8080 (log entry 14). The responses (X, Y) are given by entry. A line whose Splice is Off has no table to swap: R102 does not say
(log entry 76). -/
def execChanSwap (n : Line) (values : List (Nat × Nat)) (s : State) : Res := act 10 s fun s =>
  if s.splState n = 0 then s
  else
    let s := s.incWrap .SPLC_STAT_CHAN_SEQ 1 n
    s.each (List.range 512) fun e t =>
      let v := values.getD e (128, 128)
      let x := if t.tracking n && t.rxCovers n (e / 16) then v.1 % 256 + v.2 % 256 * 256 else 0x8080
      t.setReg .SPLC_CHAN x n e

/-- A phase cycle slip (R91), counted in Fathom. -/
def execPhaseSlip (n : Line) (s : State) : Res := act 10 s fun s => if s.tracking n then s.count .FTHM_SLIP 1 n else s

/-! ### The ADCs (R76 to R78) -/

/-- An ADC foreground calibration starts; Splice, except on a Hub line, is in Calibrating. -/
def State.adcStart (s : State) (n : Nat) : State :=
  let s := (s.wr .STRD_ADC_CAL_FG_STATE 1 n).wr .STRD_ADC_CAL_FG_REQ 1 n
  if s.lineMode n = 2 then s else s.leaveTo n 2

/-- The effect of FG_REQ of a line's ADCs (R76): refused in Tracking or Off. -/
def State.adcReq (s : State) (n : Nat) : State :=
  if s.rd .STRD_ADC_CAL_FG_STATE n = 1 then s
  else if s.lineMode n = 0 || s.tracking n then (s.wr .STRD_ADC_CAL_FG_REQ 0 n).wr .STRD_ADC_CAL_FG_REFUSED 1 n
  else s.adcStart n

/-- A write of FG_REQ. -/
def execAdcFgReq (req : Requester) (n : Line) (s : State) : Res := access req 8 s fun s =>
  s.runWrite req (s.lineDom n) ⟨.STRD_ADC_CAL, n, 0, 0⟩ (setBits (s.reg .STRD_ADC_CAL n) 0 0 1) fun t => t.adcReq n

/-- An ADC foreground calibration ends (R76, R78, R483): a success sets every tributary's values and Wait-signal follows; a failure names a tributary in event 0x4011, and Splice stays in
Calibrating with raw LOS reported. -/
def execAdcFgCalDone (n : Line) (ok : Bool) (t : Trib) (cal : List (List Calib)) (s : State) : Res := act 8 s fun s =>
  if s.rd .STRD_ADC_CAL_FG_STATE n != 1 then s
  else
    let s := ((s.wr .STRD_ADC_CAL_FG_REQ 0 n).wr .STRD_ADC_CAL_FG_STATE (if ok then 2 else 3) n).calEnded n
    let s := s.setStr n { s.str n with adcFailed := !ok }
    let s := if ok then (s.setStr n { s.str n with adc := calTable cal, adcRest := [], adcDue := [] }).calResults n true cal else s
    if ok then (if s.splState n = 2 then s.waitSignal n else s)
    else
      let s := s.raise .STRD_EVT_ADC_FG_FAIL 0x4011 (s.lineDom n) [n, t]
      if s.splState n = 2 then
        let s := if s.on .SPLC_STAT_RAW_LOS n then s else s.splEvent n .SPLC_EVT_LOS_RISE 0x5002
        (s.wr .SPLC_STAT_RAW_LOS 1 n).setDefect n 0 true
      else s

/-- A background ADC update (R77) with the correction newly found: its move applies at the next modulation-frame boundary; a correction too
large for one move raises event 0x4012, once as it begins (R520), and its rest is applied in later updates. -/
def execAdcBgCalUpdate (n : Line) (t : Trib) (c : List Calib) (s : State) : Res := act 8 s fun s =>
  if s.lineMode n = 0 || !s.on .STRD_ADC_CAL_BG_EN n then s
  else
    let x := s.str n
    let old := x.adcRest.get [] t
    let need := calSum true old c
    let due := calSum true (x.adcDue.get [] t) (calMove true need)
    let rest := calRest true need (calMove true need)
    let s := (s.setStr n { x with adcDue := x.adcDue.put [] t due, adcRest := x.adcRest.put [] t rest }).calResult n true t
      (calSum true (x.adc.get [] t) due)
    if !calZero rest && calZero old then s.raise .STRD_EVT_ADC_STEP 0x4012 (s.lineDom n) [n, t] else s

/-! ### Overhead, lines and commits -/

/-- The next receive multiframe after a change of OH (R169): the receiver loads its start table, disarms and decodes under the new
overhead. -/
def execOhSwitchRx (n : Line) (s : State) : Res := act 12 s fun s =>
  let x := s.clt n
  if x.rxDue then
    let s := s.setClt n { x with rxOh := s.rd .CLET_LINE_CFG_OH n, rxDue := false }
    if s.loads n then s.startRx n else s
  else s

/-- Splice and the ADCs of a line that enters Off (R32): a running calibration is abandoned. -/
def State.spliceOff (s : State) (n : Nat) : State :=
  let s := s.dropEstimates n
  let s := if s.rd .STRD_ADC_CAL_FG_STATE n = 1 then (s.wr .STRD_ADC_CAL_FG_STATE 0 n).wr .STRD_ADC_CAL_FG_REQ 0 n else s
  let s := s.each [0, 1, 2, 3] fun t u => u.setReg .STRD_ADC_STAT (regReset ⟨.STRD_ADC_STAT, n, t, 0⟩) n t
  let seq := s.rd .SPLC_STAT_CHAN_SEQ n
  let s := s.each (s.lit n) fun f t => t.setReg .SPLC_SC_EST (regReset ⟨.SPLC_SC_EST, n, f, 0⟩) n f
  let s := s.setStr n { s.str n with adcFailed := false }
  (((s.setSpl n {}).setReg .SPLC_STAT (seq <<< 24) n).refEval (4 + n))

/-- Splice and the ADCs of a line that leaves Off (R83, R483): calibration, on the start table. -/
def State.spliceOn (s : State) (n : Nat) : State :=
  (if s.lineMode n = 2 then s else s.setSpl n { table := s.rxStart n }).adcStart n

/-- The rules of Table 3.11. -/
def checkSplice (t : State) : Option Breach :=
  firstBreach [
    (1, lowest 3 t.lineDom fun n => t.layoutBad .SPLC_SC_CFG_WIDTH 6 n),
    (2, lowest 3 t.lineDom fun n => (t.firstSlots .SPLC_SC_CFG_WIDTH n).any fun f =>
      !pairOk (t.rd .SPLC_SC_CFG_RX_START_BASE n f) (t.rd .SPLC_SC_CFG_RX_START_ENT n f)),
    (3, lowest 3 t.lineDom fun n =>
      let h := t.rd .SPLC_LINE_CFG_FREEZE_HOLD n
      h == 0 || 1000 < h || decide (20000 < (signed 16 (t.rd .SPLC_CD_CFG_CD_HINT n)).natAbs) ||
        20000 < t.rd .SPLC_CD_CFG_CD_WIN n || t.rd .SPLC_LINE_CFG_CD_MODE n == 3)]

/-- Whether a commit changes a line's receive layout, or a start entry at a first slot (R105). -/
def rxRelaid (old new : State) (n : Nat) : Bool :=
  (List.range 32).any fun f =>
    let a := old.reg .SPLC_SC_CFG n f
    let b := new.reg .SPLC_SC_CFG n f
    a % 8 != b % 8 || (b % 8 != 0 && a != b)

/-- What an applied SPLC commit does to a running line (R105): disarmed, on the start table, a cold acquisition with event 0x5003; in
Calibrating and Wait-signal the state goes on, and the commit is not counted as a line restart: R83 counts returns from acquisition or
Tracking (log entry 76). -/
def State.spliceCommitted (old new : State) (n : Nat) : State :=
  if new.splState n = 0 || new.lineOzr n || !rxRelaid old new n then new
  else
    let t := new.each (List.range 32) fun f t =>
      if (t.lit n).contains f && old.rd .SPLC_SC_CFG_WIDTH n f == t.rd .SPLC_SC_CFG_WIDTH n f then t
      else ((t.setReg .SPLC_SC_EST (regReset ⟨.SPLC_SC_EST, n, f, 0⟩) n f).wr .SPLC_SC_HIST_SNR_MIN 255 n f).wr
        .SPLC_SC_HIST_SNR_MAX 255 n f
    let t := (t.startRx n).cleatLayout n
    if t.splState n < 3 then t.splEvent n .SPLC_EVT_COLD 0x5003 else t.coldStart n

/-- The same for all lines. -/
def afterSplice (old new : State) : State := new.each [0, 1, 2] fun n t => t.spliceCommitted old n

end Sys2Proof.Machine
end

