-- ==== Sys2Proof/Machine/Waveform.lean ====
section
/-! DEFINITION. The transmit signal (chapters 2 and 5): the coded stream dealt to blocks, symbols with pilots and the multiframe marker,
the samples of the four tributaries with pre-compensation and pre-distortion. -/

namespace Sys2Proof.Machine

open Sys2Proof

/-- The data symbols of both polarisations of a subcarrier: polarisation-symbols 2k and 2k + 1 (R149). -/
def pairSymbols : List Symbol → List (Symbol × Symbol)
  | a :: b :: r => (a, b) :: pairSymbols r
  | _ => []

/-- A symbol rotated by 180° (R51). -/
def turned (x : Symbol) : Symbol := (-x.1, -x.2)

/-- The symbols of a subcarrier of w slots in a modulation frame (R48, R49, R51): pilots, marked, at the multiples of 64, the first 16 of
them rotated in the first frame of a multiframe. -/
def frameSymbols (slot w : Nat) (first : Bool) (data : List (Symbol × Symbol)) : List (Symbol × Symbol × Bool) :=
  let p := pilots (0x1000 + slot) (64 * w)
  (List.range (4096 * w)).map fun j =>
    if j % 64 = 0 then
      let x := p.getD (j / 64) ((1, 1), (1, 1))
      if first && j / 64 < 16 then (turned x.1, turned x.2, true) else (x.1, x.2, true)
    else
      let x := data.getD (j - j / 64 - 1) ((0, 0), (0, 0))
      (x.1, x.2, false)

/-- The next block of a carrier, with index j in its multiframe, encoded from the coded stream (R147, R150, R153). -/
def CleatInt.encodeNext (x : CleatInt) (oh : Nat) (c : Nat × Nat × Nat × Nat) (j : Nat) : CleatInt × List Symbol :=
  let (slot, _, base, ent) := c
  let b := x.chain.get ({}, {}) slot
  let k := blockInfo oh ent j
  let (u, labels) := encodeBlock base ent (blockParity oh ent j) b.1 b.2 (x.txCoded.take k)
  ({ x with txCoded := x.txCoded.drop k, chain := x.chain.put ({}, {}) slot (u, b.1) }, blockSymbols base ent labels)

/-- The blocks of modulation frame k of a multiframe in tick order (R150): each carrier with the index j of its block. -/
def tickOrder (carriers : List (Nat × Nat × Nat × Nat)) (k : Nat) : List ((Nat × Nat × Nat × Nat) × Nat) :=
  (List.range 7).flatMap fun i => carriers.flatMap fun c => (List.range c.2.1).map fun b => (c, (7 * k + i) * c.2.1 + b)

/-- The polarisation-symbols of every carrier in modulation frame k. -/
def CleatInt.encodeFrame (x : CleatInt) (m : TxMf) (k : Nat) : CleatInt × Tab (List Symbol) :=
  (tickOrder m.carriers k).foldl (fun a e =>
    let r := a.1.encodeNext m.oh e.1 e.2
    (r.1, a.2.put [] e.1.1 (a.2.get [] e.1.1 ++ r.2))) (x, [])

/-- The multiframe that the encoder works on: at a multiframe's end the next one that Hitch has handed over whole, under the Lashing code
(R150, R151). -/
def CleatInt.nextMf (x : CleatInt) : CleatInt :=
  match x.txNow, x.txQ with
  | none, m :: r =>
    let c := m.carriers.map fun c => (c.2.1, c.2.2.2)
    if lineBits m.oh c ≤ m.stream.length then
      let sum := (c.map (carrierInfo m.oh)).foldl (· + ·) 0
      { x with txNow := some m, txQ := r, txFrame := 0, txCoded := lashingStream (sum / 3840 + 1) sum m.stream }
    else x
  | _, _ => x

/-- Output k of the pre-distortion filter (R55): 33 taps in units of 1/16,384 over the samples, the latest at place k + 32. -/
def firOut (coefs samples : List Int) (k : Nat) : Int :=
  (List.range 33).foldl (fun a i => a + coefs.getD i 0 * samples.getD (k + 32 - i) 0) 0 / 16384

/-- The DAC code of a filter output (R55): linear interpolation between the table entries around it. -/
def lutCode (table : List Nat) (y : Int) : Nat :=
  let p := Config.lutPlace y
  let a : Int := table.getD (p.1 % 512) 0
  let b : Int := table.getD ((p.1 + 1) % 512) 0
  Config.roundCode (a * 65536 + (b - a) * (p.2 % 65536 : Nat)) 65536

/-- The codes of a tributary's DAC for some samples (R55): the filter runs on from the samples before. -/
def State.predistort (s : State) (n t : Nat) (samples : List Int) : State :=
  let x := s.brd n
  let coefs := (List.range 33).map fun i => signed 16 (s.rd .BRAD_PD_FIR_COEF n t i)
  let table := (List.range 512).map fun i => s.rd .BRAD_PD_LUT_CODE n t i
  let old := x.fir.get [] t
  let all := List.replicate (32 - old.length) 0 ++ old ++ samples
  let codes := (List.range samples.length).map fun k => lutCode table (firOut coefs all k)
  (s.setBrd n { x with fir := x.fir.put [] t (all.drop samples.length) }).emit (.dac n t codes)

/-- The samples of the tributaries pre-compensated and pre-distorted (R54, R55). -/
def State.sendWave (s : State) (n : Nat) (wave : Nat → List Int) : State :=
  let skews := (List.range 4).map fun t => signed 12 (s.rd .BRAD_TRIB_SKEW n t)
  let iq := (List.range 2).map fun p => (signed 8 (s.rd .BRAD_POL_IQ_GAIN n p), signed 8 (s.rd .BRAD_POL_IQ_PHASE n p))
  let out := Config.compensate (signed 16 (s.rd .BRAD_CDPRE_CD_PRE n)) skews iq wave
  s.each [0, 1, 2, 3] fun t u => u.predistort n t (out t)

/-- The control blocks' symbols for a modulation frame of a Hub line's control subcarrier (R113), once 8 blocks wait. -/
def State.controlSymbols (s : State) (n : Nat) : State × List (Nat × Nat × List (Symbol × Symbol)) :=
  let b := s.bgt n
  if s.lineMode n = 2 ∧ 4032 ≤ b.ctrlSyms.length then
    (s.setBgt n { b with ctrlSyms := b.ctrlSyms.drop 4032 }, [(s.rd .BGHT_LINE_CFG_CTRL_SLOT n, 1, b.ctrlSyms.take 4032)])
  else (s, [])

/-- What a modulation-frame boundary does on transmit (R45 to R55): the next frame of the multiframe in the encoder is coded, mapped and
sent, with the control subcarrier of a Hub line beside it. -/
def State.sendFrameSymbols (s : State) (n : Nat) : State :=
  let x := (s.clt n).nextMf
  match x.txNow with
  | none => s
  | some m =>
    let k := x.txFrame
    let (x, syms) := x.encodeFrame m k
    let s := s.setClt n { x with txFrame := (k + 1) % 256, txNow := if k = 255 then none else some m }
    let (s, control) := s.controlSymbols n
    let data := (m.carriers.map fun c => (c.1, c.2.1, pairSymbols (syms.get [] c.1))) ++ control
    let sent := data.map fun c => (c.1, c.2.1, frameSymbols c.1 c.2.1 (k == 0) c.2.2)
    let s := sent.foldl (fun t c => t.emit (.symbols n c.1 c.2.2)) s
    let wave := Config.shape (s.rd .BRAD_LINE_CFG_ROLLOFF n) (s.rd .BRAD_LINE_CFG_PILOT_BOOST n)
      (sent.map fun c => (c.1, c.2.1, signed 8 (s.rd .BRAD_SC_CFG_GAIN n c.1), c.2.2))
    s.sendWave n wave

/-- MODULATION_FRAME: a modulation-frame boundary of a native line (R48), with whether a sample was above range and whether the marker was
seen. -/
def execModulationFrame (n : Line) (above marker : Bool) (s : State) : Res := act 10 s fun s =>
  if !s.lineNative n then s else (s.receiveFrame n above marker).sendFrameSymbols n

end Sys2Proof.Machine
end

