-- ==== Sys2Proof/Machine/LinePath.lean ====
section
/-! DEFINITION. A line's frames and multiframe overhead blocks where several blocks meet (chapter 6): the frame that Hitch sends with what
Bend, Seizing, Braid, Bight and Marline give it, and the block it receives for Braid and Splice. -/

namespace Sys2Proof.Machine

open Sys2Proof

/-- CTRL_PTR of a transmit multiframe (Table 6.2): the control subcarrier and the number of the next control block; zero on other than Hub
lines. -/
def State.ctrlPtr (s : State) (n : Nat) : List Byte :=
  if s.lineMode n = 2 then
    leBytes 4 (s.rd .BGHT_LINE_CFG_CTRL_SLOT n + s.rd .BGHT_STAT_CTRL_OK n <<< 5 + ((s.bgt n).blockSeq % 2 ^ 16) <<< 16)
  else leBytes 4 0

/-- The start of a transmit multiframe with all that its overhead block carries. -/
def State.beginMultiframe (s : State) (n : Nat) : State :=
  let (t, gcc) := (s.offerCopies n).takeGcc n
  t.startMultiframe n (t.blUpdate n) (t.ctrlPtr n) gcc

/-- FRAME_TRANSMIT: frame f of a line out of Off is built and sent (R172 to R181). -/
def execFrameTransmit (n : Line) (f : Byte) (s : State) : Res := act 13 s fun s =>
  if s.lineMode n = 0 then s
  else
    let s := s.newSettings n
    if s.lineOzr n then (s.sendOzr n f.toNat).sendWave n (Config.ozrShape (Config.ofecEncode (s.ozrBits n f.toNat)))
    else
      let s := if f = 0 then s.beginMultiframe n else s
      if s.rd .HTCH_STAT_TX_U n = 0 then s else s.sendFrame n f.toNat

/-- MOB_RECEIVED: the overhead block of a received multiframe at the end of its frame 255 (R175), where all its slices have come; the
loading loop takes BL_UPDATE from a good one (R61). Hub lines receive no multiframes. -/
def execMobReceived (n : Line) (s : State) : Res := act 13 s fun s =>
  let mob := (s.hit n).rxMob
  if !s.loads n || !s.on .HTCH_STAT_IN_FRAME n || mob.length != 2048 then s
  else
    let s := s.setHit n { s.hit n with rxMob := [] }
    let s := s.hitchMob n mob
    if mobOk mob then
      let v := bigVal ((mob.drop 136).take 80)
      (s.spliceUpdate n v).braidUpdate n v
    else s

end Sys2Proof.Machine
end

