-- ==== Sys2Proof/Machine/Roles.lean ====
section
/-! DEFINITION. Roles, the audit journal, flash and OTP (chapter 16). -/

namespace Sys2Proof.Machine

open Sys2Proof

/-! ### Authentication (R416, R417, R521) -/

/-- The challenge and failure record of a requester. -/
def State.authOf (s : State) (req : Requester) : AuthInt :=
  (s.auth.find? fun a => a.req == req).getD ⟨req, [], true, 0, false, 0⟩

/-- The same, replaced. -/
def State.setAuth (s : State) (a : AuthInt) : State := { s with auth := a :: s.auth.filter fun b => b.req != a.req }

/-- A challenge of 32 random bytes drawn for a requester (R416). -/
def State.newChallenge (s : State) (req : Requester) : State × List Byte :=
  let (t, c) := s.nonce
  (t.setAuth { t.authOf req with challenge := c, spent := false, age := 0 }, c)

/-- A credential entry. -/
def State.cred (s : State) (e : Nat) : Cred := s.nv.creds.get {} e

/-- Whether an entry is valid: its key is a point's 97 bytes, and that of a Maker entry has the digest MAKER_HASH (R521). -/
def State.credValid (s : State) (e : Nat) : Bool :=
  let c := s.cred e
  decide (e < 64) && c.valid && c.key.length == 97 && byteAt c.key 0 == 4 &&
    (c.role != 3 || Config.sha384 c.key == s.nv.makerHash)

/-- The 52 bytes that a requester signs (R416). -/
def signedBytes (serial : Nat) (challenge : List Byte) (stamp role mask entry : Nat) : List Byte :=
  [0x51, 0x52, 0x41, 0x31] ++ leBytes 8 serial ++ challenge ++ leBytes 4 stamp ++ leBytes 1 role ++ leBytes 2 mask ++ leBytes 1 entry

/-- The first check of R416 that a response fails; 0: none. Outside the Manufacturing lifecycle JTAG has no entry that is valid for it
(R414). -/
def State.judgeResponse (s : State) (req : Requester) (role entry mask : Nat) (sig : List Byte) : Nat :=
  let a := s.authOf req
  let c := s.cred entry
  if a.challenge.isEmpty || a.spent || 10 < a.age then 1
  else if !s.credValid entry || (req == .jtag && s.nv.lifecycle != 0) then 2
  else if c.role < role then 3
  else if mask &&& c.mask != mask then 4
  else if !Config.ecdsaVerify c.key (signedBytes s.nv.serial a.challenge (srcOf req + pasidOf req <<< 8) role mask entry) sig then 5
  else 0

/-- A judged response that is refused (R417): the fifth in a row locks the requester out, event 0x1013. -/
def State.failedResponse (s : State) (req : Requester) : State :=
  let a := s.authOf req
  if 4 ≤ a.fails then (s.setAuth { a with fails := 5, locked := true }).raise .MRLN_NV_EVT_LOCKOUT 0x1013 0 []
  else s.setAuth { a with fails := a.fails + 1 }

/-- The life of a session in seconds. -/
def State.sessionLife (s : State) : Nat := 3600 * max 1 (s.rd .MRLN_AUTH_CFG_SESS_H)

/-- A role is granted (R418): overlapping sessions of the requester are replaced, a free slot taken, event 0x1012. The answer is the slot,
or none where all 32 are in use. -/
def State.grantRole (s : State) (req : Requester) (role mask : Nat) : State × Option Nat :=
  let above := (s.sessionsOf req).filter fun k => s.rd .MRLN_ROLE_ST_DOM_MASK k &&& mask != 0
  let s := s.each above fun k t => t.endSession k
  match (List.range 32).find? fun k => !s.on .MRLN_ROLE_ST_VALID k with
  | none => (s, none)
  | some k =>
    let life := s.sessionLife
    let v := 1 <<< 63 + role <<< 61 + mask <<< 45 + srcOf req <<< 41 + pasidOf req <<< 21 + ceilDiv life 60 <<< 7
    (({ s.setReg .MRLN_ROLE_ST v k with sessLeft := s.sessLeft.put 0 k life }).raise .MRLN_NV_EVT_SESSION 0x1012 0 [], some k)

/-- A response that is judged: its challenge is spent; the answer is the reason (0: granted) and the slot. -/
def State.respond (s : State) (req : Requester) (role entry mask : Nat) (sig : List Byte) : State × Nat × Option Nat :=
  let r := s.judgeResponse req role entry mask sig
  let s := s.setAuth { s.authOf req with spent := true }
  if r ≠ 0 then (s.failedResponse req, r, none)
  else
    let s := s.setAuth { s.authOf req with fails := 0 }
    let (t, k) := s.grantRole req role mask
    (t, 0, k)

/-- ROLE_CHALLENGE. -/
def execRoleChallenge (h : Nat) (s : State) : Res := ospin 2 0x0401 h s fun c s =>
  let (t, ch) := s.newChallenge (s.stampOf c.req)
  t.finish h 0 0 [] (ch ++ leBytes 8 s.nv.serial)

/-- A role command that may be journaled as authentication (R419): always, but where an operand says that there is nothing of that kind to
journal. -/
def roleCmd (op h : Nat) (s : State) (nothing : Cmd → State → Bool) (f : Cmd → State → State) : Res := ospinRaw 2 op h s fun c s =>
  if nothing c s && !c.journaled then f c s
  else if s.journalBlocked then s.refuseUnjournaled h
  else (f c s).recordDone h 4 0

/-- Whether a response is not judged: of another form than R416 gives it, or of a locked requester (R417). -/
def State.unjudged (s : State) (c : Cmd) : Bool :=
  c.ind.length != 100 || byteAt c.ind 0 == 0 || decide (3 < byteAt c.ind 0) || (s.authOf (s.stampOf c.req)).locked

/-- ROLE_RESPONSE: a locked requester's response is not judged (R417), and so is no failed response that R419 journals. -/
def execRoleResponse (h : Nat) (s : State) : Res := roleCmd 0x0402 h s (fun c s => s.unjudged c) fun c s =>
  let req := s.stampOf c.req
  let role := byteAt c.ind 0
  if c.ind.length ≠ 100 ∨ role = 0 ∨ 3 < role then s.finish h 5 0 [] []
  else if (s.authOf req).locked then s.finish h 6 1 [] []
  else
    let (t, r, k) := s.respond req role (byteAt c.ind 1) (leAt c.ind 2 2) (c.ind.drop 4)
    if r ≠ 0 then t.finish h 4 r [] []
    else match k with
      | none => t.finish h 6 2 [] []
      | some k => t.finish h 0 0 (leBytes 1 role ++ leBytes 1 k) []

/-- The domains that a requester's sessions hold. -/
def State.domsHeld (s : State) (req : Requester) : Nat := (s.sessionsOf req).foldl (fun a k => a ||| s.rd .MRLN_ROLE_ST_DOM_MASK k) 0

/-- ROLE_DROP (R418). -/
def execRoleDrop (h : Nat) (s : State) : Res := roleCmd 0x0403 h s (fun _ _ => false) fun c s =>
  let req := s.stampOf c.req
  let m := c.par 16 2
  let t := s.each (s.sessionsOf req) fun k t =>
    let old := t.rd .MRLN_ROLE_ST_DOM_MASK k
    if old &&& m = 0 then t
    else if old &&& m = old then t.endSession k
    else t.wr .MRLN_ROLE_ST_DOM_MASK (old - (old &&& m)) k
  t.finish h 0 0 (leBytes 2 (t.domsHeld req)) []

/-- ROLE_STATUS. -/
def execRoleStatus (h : Nat) (s : State) : Res := ospin 2 0x0404 h s fun c s =>
  let l := s.sessionsOf (s.stampOf c.req)
  let v := match l[c.par 16 1]? with
    | some k => s.reg .MRLN_ROLE_ST k
    | none => 0
  s.finish h 0 0 (leBytes 8 v ++ leBytes 1 l.length) []

/-- The authentication window answers only JTAG (Table 16.9); other accesses are discarded and counted. -/
def State.authWindow (s : State) (req : Requester) (f : State → State) : State := if req = .jtag then f s else s.denied

/-- NEW written: a challenge is drawn and shown. -/
def State.authNew (s : State) : State :=
  let (t, c) := s.newChallenge .jtag
  (t.each (List.range 4) fun w t => t.setReg .MRLN_AUTH_CHAL (leAt c (8 * w) 8) w).wr .MRLN_AUTH_CTL_RESULT 0

/-- The signature in MRLN_AUTH_RESP. -/
def State.authSig (s : State) : List Byte := (List.range 12).flatMap fun w => leBytes 8 (s.reg .MRLN_AUTH_RESP w)

/-- SUBMIT written: the response is judged for Maker in every domain; it is journaled, and not judged where it cannot be (R419). -/
def State.authSubmit (s : State) : State :=
  if s.journalBlocked then (s.unjournaled).wr .MRLN_AUTH_CTL_RESULT 2
  else if (s.authOf .jtag).locked then s.wr .MRLN_AUTH_CTL_RESULT 3
  else
    let e := s.rd .MRLN_AUTH_CTL_ENTRY
    let (t, r, k) := s.respond .jtag 3 e 0xFFFF s.authSig
    let res := if r = 0 ∧ k.isSome then 1 else 2
    (t.wr .MRLN_AUTH_CTL_RESULT res).record .jtag (t.roleIn .jtag 0) 0 4 (if res = 1 then 0 else 4)
      (regAddr ⟨.MRLN_AUTH_CTL, 0, 0, 0⟩) 0 e 0

/-- MRLN_AUTH_CTL written by JTAG: ENTRY, then SUBMIT, then NEW; both bits clear when done. -/
def State.authCtl (s : State) (v : Nat) : State :=
  let s := s.wr .MRLN_AUTH_CTL_ENTRY (bits v 13 8)
  let s := if bit v 1 then s.authSubmit else s
  if bit v 0 then s.authNew else s

/-- AUTH_NEW. -/
def execAuthNew (req : Requester) (entry : BitVec 6) (s : State) : Res := access req 2 s fun s =>
  s.authWindow req fun t => t.authCtl (entry.toNat <<< 8 + 1)

/-- AUTH_SUBMIT. -/
def execAuthSubmit (req : Requester) (entry : BitVec 6) (s : State) : Res := access req 2 s fun s =>
  s.authWindow req fun t => t.authCtl (entry.toNat <<< 8 + 2)

/-- LOCK_S seconds after a lockout. -/
def execLockoutExpiry (req : Requester) (s : State) : Res := act 2 s fun s =>
  let a := s.authOf req
  if a.locked then s.setAuth { a with locked := false, fails := 0 } else s

/-- SESS_H hours after a grant. -/
def execSessionExpiry (slot : Slot) (s : State) : Res := act 2 s fun s => s.endSession slot

/-- A second passes in chapter 16: MIN_LEFT of the sessions, the ages of the challenges. -/
def State.rolesSecond (s : State) : State :=
  let older (a : AuthInt) : AuthInt := { a with age := min 11 (a.age + 1) }
  let s := { s with auth := s.auth.map older }
  s.each ((List.range 32).filter fun k => s.on .MRLN_ROLE_ST_VALID k) fun k t =>
    let left := t.sessLeft.get 0 k - 1
    ({ t with sessLeft := t.sessLeft.put 0 k left }).wr .MRLN_ROLE_ST_MIN_LEFT (ceilDiv left 60) k

/-! ### The journal (R420, R421) -/

/-- The 64 bytes of a record (Table 16.2). -/
def recordBytes (r : JRec) : List Byte :=
  withCrc (leBytes 8 r.seq ++ leBytes 6 r.seconds ++ leBytes 4 r.ns ++ leBytes 4 r.stamp ++ leBytes 1 r.role ++ leBytes 1 r.dom ++
    leBytes 1 r.kind ++ leBytes 1 r.result ++ [0, 0] ++ leBytes 8 r.what ++ leBytes 8 r.old ++ leBytes 8 r.new ++ leBytes 8 r.aux)

/-- The commit record that ends a page (R420): AUX holds the low halves of the first and the last SEQ. -/
def commitRecord (l : List JRec) : JRec :=
  let first := (l.head?.map fun r => r.seq).getD 0
  let last := (l.getLast?.map fun r => r.seq).getD 0
  ⟨last, 0, 0, 0, 0, 0, 0xFF, 0, crc32c (l.flatMap recordBytes), 0, 0, first % 2 ^ 32 + (last % 2 ^ 32) <<< 32⟩

/-- The pages of the 511 sectors in use. -/
def journalPages : Nat := 511 * 256

/-- Whether the oldest sector holds a record that has not been exported. -/
def State.oldestHeld (s : State) : Bool :=
  (s.journal.pages.take 256).any fun p => p.any fun r => r.kind != 0xFF && decide (s.reg .MRLN_JRN_EXP < r.seq)

/-- The records programmed and not exported. -/
def State.unexported (s : State) : Nat :=
  (s.journal.pages.flatMap id).countP fun r => r.kind != 0xFF && decide (s.reg .MRLN_JRN_EXP < r.seq)

/-- The count of records whose passing raises event 0x1014: WARN_PCT of the ring. -/
def State.warnLimit (s : State) : Nat := s.rd .MRLN_AUTH_CFG_WARN_PCT * (journalPages * 3) / 100

/-- Room for a page: when the sectors in use are full, the oldest is erased; under JOURNAL_HOLD not while it holds a record to export, and
HOLD_ACTIVE is set instead (R421). -/
def State.journalRoom (s : State) : State :=
  let j := s.journal
  if j.pages.length < journalPages then s
  else if s.on .MRLN_AUTH_CFG_JOURNAL_HOLD && s.oldestHeld then s.wr .MRLN_NV_ST_HOLD_ACTIVE 1
  else { s with journal := { j with pages := j.pages.drop 256, erased := j.erased + 256 } }.wr .MRLN_NV_ST_HOLD_ACTIVE 0

/-- A page of up to three records is programmed (R420); none starts under NV-Inhibit (R428). -/
def State.programPage (s : State) : State :=
  if s.on .MRLN_NV_ST_NV_INHIBIT || s.journal.buffer.isEmpty then s
  else
    let s := s.journalRoom
    let j := s.journal
    if journalPages ≤ j.pages.length then s
    else
      let recs := j.buffer.take 3
      let rest := j.buffer.drop 3
      let before : Nat := s.unexported
      let s := { s with journal := { j with buffer := rest, pages := j.pages ++ [recs ++ [commitRecord recs]] } }
      let s := (s.wr .MRLN_NV_ST_BUF_FILL rest.length).setReg .MRLN_JRN_SEQ ((recs.getLast?.map fun r => r.seq).getD 0)
      let limit : Nat := s.warnLimit
      if decide (before ≤ limit) && decide (limit < s.unexported) then s.raise .MRLN_NV_EVT_JRN_WARN 0x1014 0 [] else s

/-- JOURNAL_PAGE_PROGRAM. -/
def execJournalPageProgram (s : State) : Res := act 2 s fun s => s.programPage

/-- JOURNAL_DRAIN: the buffer drains in SEQ order. -/
def execJournalDrain (s : State) : Res := act 2 s fun s => s.each (List.range (ceilDiv s.journal.buffer.length 3)) fun _ t => t.programPage

/-- The records that the journal holds, in SEQ order. -/
def State.records (s : State) : List JRec := (s.journal.pages.flatMap id).filter (fun r => r.kind != 0xFF) ++ s.journal.buffer

/-- One record into a stream ring, as two entries (R421); a full ring loses it, counted in OVF, or loses its oldest entries (R358). The
answer: whether it was written. -/
def State.copyRecord (s : State) (q : Nat) (r : JRec) : State × Bool :=
  let b := recordBytes r
  let room (t : State) : State :=
    if t.ringRoom q then t
    else (t.inc .BCKT_RING_ST_OVF 1 q).wr .BCKT_RING_ST_CONS ((t.rd .BCKT_RING_ST_CONS q + 1) % 2 ^ 17) q
  if s.on .BCKT_RING_CFG_STRM_WRAP q then
    ((room ((room s).ringPutRaw q (b.take 32))).ringPutRaw q (b.drop 32), true)
  else if s.ringFill q + 2 ≤ s.ringSize q then ((s.ringPutRaw q (b.take 32)).ringPutRaw q (b.drop 32), true)
  else (s.inc .BCKT_RING_ST_OVF 1 q, false)

/-- AUDIT_READ: the stream ring must be one that runs. -/
def execAuditRead (h : Nat) (s : State) : Res := ospin 2 0x0405 h s fun c s =>
  let q := c.par 26 2
  let first := c.par 16 8
  if s.rd .BCKT_RING_CFG_TYPE q ≠ 3 then s.finish h 5 0 [] []
  else if !s.ringRuns q 3 then s.finish h 6 0 [] []
  else
    let l := s.records.filter fun r => first ≤ r.seq && decide (r.seq < first + c.par 24 2)
    let (t, last) := l.foldl (fun (t, last) r =>
      let (u, done) := t.copyRecord q r
      (u, if done then r.seq else last)) (s, 0)
    t.finish h 0 0 (leBytes 8 last) []

/-- AUDIT_ACK: EXP_SEQ never falls; HOLD_ACTIVE ends once the oldest sector may be erased. It is the action that ends a hold, so HOLD_ACTIVE
does not refuse it (log entry 20). -/
def execAuditAck (h : Nat) (s : State) : Res := ospinRaw 2 0x0406 h s fun c s =>
  if 1024 ≤ s.journal.buffer.length then s.refuseUnjournaled h
  else
    let v := c.par 16 8
    let t := if v < s.reg .MRLN_JRN_EXP then s.finish h 5 0 [] []
      else
        let t := s.setReg .MRLN_JRN_EXP v
        let t := if t.on .MRLN_NV_ST_HOLD_ACTIVE && !t.oldestHeld then t.wr .MRLN_NV_ST_HOLD_ACTIVE 0 else t
        t.finish h 0 0 [] []
    t.recordDone h 3 0

/-! ### Flash (R422 to R426) -/

/-- The size of an area's half or copy (Table 16.3). -/
def areaSize (a : Nat) : Nat := match a with | 0 | 1 | 2 => 8 * 2 ^ 20 | 3 => 2 ^ 20 | 4 => 2 ^ 17 | _ => 2 ^ 16

/-- A byte of a half, from the pieces written to it, the latest first; an erased byte reads 0xFF. -/
def flashByte (l : List (Nat × List Byte)) (off : Nat) : Byte :=
  match l.find? fun p => p.1 ≤ off && decide (off < p.1 + p.2.length) with
  | some p => p.2.getD (off - p.1) 0xFF
  | none => 0xFF

/-- Some bytes of a half. -/
def flashBytes (l : List (Nat × List Byte)) (off n : Nat) : List Byte := (List.range n).map fun k => flashByte l (off + k)

/-- The state of an image copy (Table 16.10): 0 valid, 1 writing, 2 invalid, 3 below ROLLBACK. -/
def State.copyState (s : State) (i : Nat) : Nat :=
  let c := s.nv.copies.get {} i
  if s.nv.writing.contains i then 1 else if !c.signed then 2 else if c.rollback < s.nv.rollback then 3 else 0

/-- COPY_ST and LIFECYCLE shown. -/
def State.showNv (s : State) : State :=
  (s.wr .MRLN_NV_ST_COPY_ST (s.copyState 0 + s.copyState 1 <<< 2 + s.copyState 2 <<< 4)).wr .MRLN_NV_ST_LIFECYCLE s.nv.lifecycle

/-- A command on flash or OTP (R428, R419): NV-Inhibit refuses it with STATE, REASON 1; its record is of KIND 5 where the operand says so
of the state before and after, with the image version that it gives. -/
def nvCmd (op h : Nat) (s : State) (kind5 : Cmd → State → State → Bool) (version : Cmd → State → Nat) (f : Cmd → State → State) : Res :=
  ospinRaw 2 op h s fun c s =>
    if s.journalBlocked then s.refuseUnjournaled h
    else
      let t := if s.on .MRLN_NV_ST_NV_INHIBIT then s.finish h 6 1 [] [] else f c s
      t.recordDone h (if kind5 c s t then 5 else 3) (version c t)

/-- An area's halves. -/
def State.area (s : State) (a : Nat) : FlashArea := s.nv.areas.get {} a

/-- The same, replaced. -/
def State.setArea (s : State) (a : Nat) (x : FlashArea) : State := { s with nv := { s.nv with areas := s.nv.areas.put {} a x } }

/-- NV_WRITE (R424): an image copy only while the other two are valid. A KEK blob's offset counts from its domain's place (log entry
21). -/
def execNvWrite (h : Nat) (s : State) : Res :=
  nvCmd 0x0407 h s (fun _ s t => s.nv.writing != t.nv.writing) (fun _ _ => 0) fun c s =>
    let a := c.par 16 1
    let d := c.par 17 1
    let off := c.par 20 4
    let len := c.ind.length
    let bad := if a = 5 then decide (15 < d ∨ 88 < off + len) else decide (d ≠ 0 ∨ areaSize a < off + len)
    if 6 < a || len == 0 || bad then s.finish h 5 0 [] []
    else if a < 3 && ([0, 1, 2].any fun i => i != a && s.copyState i != 0) then s.finish h 6 0 [] []
    else
      let x := s.area a
      let at_ := if a = 5 then 88 * d + off else off
      let s := s.setArea a { x with staged := (at_, c.ind) :: x.staged }
      let s := if a < 3 && !s.nv.writing.contains a then { s with nv := { s.nv with writing := a :: s.nv.writing } } else s
      s.showNv.finish h 0 0 [] []

/-- The halves of an area change places: the one written becomes active (R422). -/
def State.swapHalves (s : State) (a : Nat) : State :=
  let x := s.area a
  s.setArea a { staged := x.active, active := x.staged, seq := x.seq + 1 }

/-- The blob at a domain's place in a half; all ones: none. -/
def kekBlob (l : List (Nat × List Byte)) (d : Nat) : Option (List Byte) :=
  let b := flashBytes l (88 * d) 88
  if b.all fun x => x == 0xFF then none else some b

/-- The first check of R250 for USE = 0 that a KEK blob fails, or its key (R426). -/
def State.openKek (s : State) (d : Nat) (b : List Byte) : Nat ⊕ List Byte :=
  let na := leAt b 8 8
  match if 2 ≤ s.nv.lifecycle then none else Config.unwrap Config.rootKey b with
  | none => .inl 1
  | some key =>
    if byteAt b 0 ≠ 1 ∨ byteAt b 1 ≠ 0 then .inl 2
    else if byteAt b 2 ≠ d then .inl 3
    else if na ≠ 0 ∧ (na ≤ s.tod ∨ !s.on .HLYD_STAT_TOD_VALID) then .inl 7
    else .inr key

/-- The KEKs of a half: each blob unwrapped, or the first failure. -/
def State.openKeks (s : State) (l : List (Nat × List Byte)) : Nat ⊕ Tab (List Byte) :=
  (List.range 16).foldr (fun d acc =>
    match kekBlob l d with
    | none => acc
    | some b => match s.openKek d b, acc with
      | .inl r, _ => .inl r
      | .inr _, .inl r => .inl r
      | .inr k, .inr t => .inr (Tab.put [] t d k)) (.inr [])

/-- The domains' KEKs in force, shown in SEIZ_KEK_ST. -/
def State.setKeks (s : State) (t : Tab (List Byte)) : State :=
  { s with keks := t }.wr .SEIZ_KEK_ST_VALID (t.foldl (fun (a : Nat) (e : Nat × List Byte) => a ||| 2 ^ e.1) 0)

/-- NV_COMMIT of an image copy: it is checked; a failed check raises event 0x1018 (R424). -/
def State.commitImage (s : State) (h a : Nat) (im : ImageCopy) : State :=
  let x := s.area a
  let s := s.setArea a { staged := [], active := x.staged ++ x.active, seq := x.seq + 1 }
  let s := { s with nv := { s.nv with
    copies := s.nv.copies.put {} a im
    writing := s.nv.writing.filter fun i => i != a } }
  let s := s.showNv
  let s := if s.copyState a = 0 then s else s.raise .MRLN_NV_EVT_IMAGE 0x1018 0 []
  s.finish h 0 0 (leBytes 1 (s.copyState a) ++ leBytes 8 im.version) []

/-- Whether a credential table differs from the one in force only in entries within a role's rights: an Installer's or a Maker's entry, old
or new, needs Maker (Table 16.1). -/
def State.credsWithin (s : State) (role : Nat) (t : Tab Cred) : Bool :=
  (List.range 64).all fun e =>
    let old := s.cred e
    let new := Tab.get {} t e
    old == new || role == 3 || (old.role < 2 && new.role < 2)

/-- The domains whose KEK blob differs between the halves. -/
def State.kekChanges (s : State) : List Nat :=
  (List.range 16).filter fun d => kekBlob (s.area 5).active d != kekBlob (s.area 5).staged d

/-- NV_COMMIT (R422, R424, R426). The operand: what the device reads in the area, where the spec gives no layout. -/
def execNvCommit (h : Nat) (content : NvContent) (s : State) : Res :=
  nvCmd 0x0408 h s (fun _ _ _ => true) (fun c t => if c.par 16 1 < 3 then (t.nv.copies.get {} (c.par 16 1)).version else 0) fun c s =>
    let a := c.par 16 1
    let done (t : State) : State := t.finish h 0 0 (leBytes 9 0) []
    match a with
    | 0 | 1 | 2 => s.commitImage h a content.image
    | 3 => done (s.swapHalves 3)
    | 4 =>
      let t : Tab Cred := content.creds.foldl (fun (t : Tab Cred) (e : Fin 64 × Cred) => Tab.put {} t e.1.val e.2) []
      if s.credsWithin c.role t then done { s.swapHalves 4 with nv := { (s.swapHalves 4).nv with creds := t } }
      else s.finish h 4 0 [] []
    | 5 =>
      if !s.permits c.req 2 s.kekChanges then s.finish h 4 0 [] []
      else match s.openKeks (s.area 5).staged with
        | .inl r => (s.raise .SEIZ_EVT_BLOB_REFUSED 0x7007 0 []).finish h 7 r [] []
        | .inr t => done ((s.swapHalves 5).setKeks t)
    | 6 => done { s.swapHalves 6 with nv := { (s.swapHalves 6).nv with remap := content.remap } }
    | _ => s.finish h 5 0 [] []

/-! ### OTP (R427) -/

/-- OTP_WRITE: MAKER_HASH while it is all zero, one more bit of ROLLBACK, the next LIFECYCLE; anything else is refused with PARAM. -/
def execOtpWrite (h : Nat) (s : State) : Res :=
  nvCmd 0x0409 h s (fun _ s t => s.copyState 0 != t.copyState 0 || s.copyState 1 != t.copyState 1 || s.copyState 2 != t.copyState 2)
    (fun _ _ => 0) fun c s =>
      let nv := s.nv
      let set (x : NvState) : State := { s with nv := x }.showNv.finish h 0 0 [] []
      match c.par 16 1 with
      | 1 => if nv.makerHash.all (fun b => b == 0) && c.ind.length == 48 then set { nv with makerHash := c.ind } else s.finish h 5 0 [] []
      | 2 => if nv.rollback < 64 then set { nv with rollback := nv.rollback + 1 } else s.finish h 5 0 [] []
      | 3 =>
        if nv.lifecycle = 0 then set { nv with lifecycle := 1 }
        else if nv.lifecycle = 1 then set { nv with lifecycle := 3 }
        else s.finish h 5 0 [] []
      | _ => s.finish h 5 0 [] []

/-- NV_STATUS. -/
def execNvStatus (h : Nat) (s : State) : Res := ospin 2 0x040A h s fun _ s => s.finish h 0 0 (leBytes 8 (s.reg .MRLN_NV_ST)) []

/-! ### NV-Inhibit (R428) -/

/-- NV-Inhibit asserted or cleared by Belay: event 0x1016. -/
def State.setInhibit (s : State) (v : Bool) : State :=
  if s.on .MRLN_NV_ST_NV_INHIBIT = v then s
  else (s.wr .MRLN_NV_ST_NV_INHIBIT (b2n v)).raise .MRLN_NV_EVT_INHIBIT 0x1016 0 [] (!v)

end Sys2Proof.Machine
end

