-- ==== Sys2Proof/Machine/Twine.lean ====
section
/-! DEFINITION. Twine (chapter 8): lane attempts and states, transmit equalisers, margin scans, loopbacks. -/

namespace Sys2Proof.Machine

open Sys2Proof

/-- What Twine holds for a lane. -/
def State.tw (s : State) (l : Nat) : TwineInt := s.twine.get {} l

/-- The same, replaced. -/
def State.setTw (s : State) (l : Nat) (x : TwineInt) : State := { s with twine := s.twine.put {} l x }

/-- The state of a lane (Table 8.2). -/
def State.laneState (s : State) (l : Nat) : Nat := s.rd .TWIN_STAT_LSTATE l

/-- An event of a lane. -/
def State.laneEvent (s : State) (l : Nat) (f : Fld) (code : Nat) : State := s.raise f code (s.laneDom l) [] false l

/-- Whether a lane trains its partner (R225): C2C at 106.25 GBd. -/
def State.protocolLane (s : State) (l : Nat) : Bool := s.rd .TWIN_LANE_CFG_INTF l == 1 && s.rd .TWIN_QUAD_CFG_RATE (l / 4) == 3

/-- What the transmitter of a lane sends (Table 8.2, R224, R236, R237). A far-end loopback idles under LOS in every state, training frames
come before a pattern, and a pattern before the retransmitted symbols (DEDUCED, log entry 92: the rules rank no two of them). -/
def State.laneTx (s : State) (l : Nat) : LaneTx :=
  let loop := s.rd .TWIN_LANE_CFG_LPBK l == 2
  let pattern := s.rd .TWIN_LANE_CFG_PATGEN l
  if s.laneState l = 0 || (loop && s.on .TWIN_STAT_LOS l) then .idle
  else if s.protocolLane l && s.laneState l != 3 then .training
  else if pattern != 0 then .pattern pattern
  else if loop then .retransmit
  else .egress

/-- How a lane stands on the balls of its quad (R231): its transmit signal on the pair TX_MAP and its receive signal from the pair RX_MAP,
each inverted or not; a near-end loopback ignores the receive balls (R236). -/
def State.laneSignal (s : State) (l : Nat) : Out :=
  let q := l / 4 * 4
  .lane l (s.laneTx l) (q + s.rd .TWIN_LANE_CFG_TX_MAP l, s.on .TWIN_LANE_CFG_TX_INV l)
    (if s.rd .TWIN_LANE_CFG_LPBK l = 1 then none else some (q + s.rd .TWIN_LANE_CFG_RX_MAP l, s.on .TWIN_LANE_CFG_RX_INV l))

/-- What follows a lane's state or LOS: its transmitter, the ingress of its clients (R219, R228) and the references taken from it (R238). -/
def State.laneChanged (s : State) (l : Nat) : State :=
  let s := (s.emit (s.laneSignal l)).each (s.clientsOn l) fun c t => t.refreshIngress c
  s.each [0, 1, 2, 3] fun r t => if t.rd .TWIN_SYNCE_SEL_LANE r = l then t.refEval r else t

/-- A running scan ended by a lane that leaves Trained (R235). -/
def State.endScan (s : State) (l : Nat) : State :=
  if s.on .TWIN_SCAN_SCAN_BUSY l then
    ((s.wr .TWIN_SCAN_SCAN_BUSY 0 l).wr .TWIN_SCAN_SCAN_REQ 0 l).wr .TWIN_SCAN_SCAN_VALID 0 l
  else s

/-- A lane enters a state that is not Trained. -/
def State.setLane (s : State) (l st : Nat) : State :=
  let s := (if s.laneState l = 3 then s.endScan l else s).wr .TWIN_STAT_LSTATE st l
  ((s.wr .TWIN_STAT_CDR_LOCK 0 l).wr .TWIN_STAT_PART_RDY 0 l).laneChanged l

/-- Untrained is entered (event 0x8802) with its cause. -/
def State.untrained (s : State) (l cause : Nat) : State :=
  ((s.setLane l 4).wr .TWIN_STAT_UNTR_CAUSE cause l).laneEvent l .TWIN_EVT_UNTRAINED 0x8802

/-- An attempt starts (R227): a disabled lane is Off, and a lane whose rate does not match its client's row is Untrained at once (R229). -/
def State.startAttempt (s : State) (l : Nat) : State :=
  if !s.on .TWIN_LANE_CFG_EN l || s.rd .TWIN_QUAD_CFG_RATE (l / 4) == 0 then s.setLane l 0
  else
    let s := ((s.inc .TWIN_STAT_ATTEMPTS 1 l).count .TWIN_CNT 1 l 2).setTw l { s.tw l with coeff := none }
    if s.rateFits l then s.setLane l 1
    else if s.laneState l = 4 then s.wr .TWIN_STAT_UNTR_CAUSE 1 l
    else s.untrained l 1

/-- Trained is reached (event 0x8801); the equaliser that training reached is shown (R230). -/
def State.trained (s : State) (l : Nat) : State :=
  let s := match (s.tw l).coeff with
    | some v => (s.setReg .TWIN_TXFFE v l).setTw l { s.tw l with coeff := none }
    | none => s
  let s := ((s.wr .TWIN_STAT_LSTATE 3 l).wr .TWIN_STAT_ATTEMPTS 0 l).wr .TWIN_STAT_CDR_LOCK 1 l
  (s.laneChanged l).laneEvent l .TWIN_EVT_TRAINED 0x8801

/-- The receiver has converged with RX_SNR of 12 dB for 1 ms (Table 8.2), given in 0.1 dB: a C2C lane at 106.25 GBd goes to Training, any
other is Trained. -/
def execLaneConverged (l : Lane) (snr : Nat) (s : State) : Res := act 17 s fun s =>
  if s.laneState l != 1 || snr < 120 then s
  else
    let s := (s.wr .TWIN_STAT_RX_SNR (min 511 snr) l).wr .TWIN_STAT_CDR_LOCK 1 l
    if s.protocolLane l then s.wr .TWIN_STAT_LSTATE 2 l else s.trained l

/-- Both ends report receiver ready (Table 8.2). -/
def execTrainingComplete (l : Lane) (s : State) : Res := act 17 s fun s =>
  if s.laneState l = 2 then (s.wr .TWIN_STAT_PART_RDY 1 l).trained l else s

/-- The training timer runs out (Table 8.2). Where the protocol has faulted in Training, UNTR_CAUSE names that (Table 8.10; DEDUCED, log
entry 92: the attempt still ends with its timer, the one exit that Table 8.2 gives). -/
def execTrainingTimerExpiry (l : Lane) (fault : Bool) (s : State) : Res := act 17 s fun s =>
  if s.laneState l = 1 then s.untrained l 0
  else if s.laneState l = 2 then s.untrained l (if fault then 2 else 0)
  else s

/-- One second after entry to Untrained (Table 8.2): a new attempt, which ends at once while the rate does not match (R229). -/
def execUntrainedRetry (l : Lane) (s : State) : Res := act 17 s fun s =>
  if s.laneState l = 4 then s.startAttempt l else s

/-- LOS is declared (R228): event 0x8803; a Trained lane starts a new attempt. -/
def execLaneLos (l : Lane) (s : State) : Res := act 17 s fun s =>
  if s.laneState l = 0 || s.on .TWIN_STAT_LOS l then s
  else
    let s := (s.wr .TWIN_STAT_LOS 1 l).laneEvent l .TWIN_EVT_LOS_RISE 0x8803
    if s.laneState l = 3 then s.startAttempt l else s.laneChanged l

/-- LOS clears (R228). -/
def execLaneLosClear (l : Lane) (s : State) : Res := act 17 s fun s =>
  if s.on .TWIN_STAT_LOS l then (s.wr .TWIN_STAT_LOS 0 l).laneChanged l else s

/-- Clock recovery loses lock (Table 8.2): a Trained lane starts a new attempt. -/
def execCdrLoss (l : Lane) (s : State) : Res := act 17 s fun s =>
  let s := s.wr .TWIN_STAT_CDR_LOCK 0 l
  if s.laneState l = 3 then s.startAttempt l else s

/-! ### Transmit equaliser (R230, R232) -/

/-- The place of a tap in TWIN_TXFFE (Table 8.7): 0 to 4 for C(−3), C(−2), C(−1), C(0), C(+1). -/
def tapFld : Fin 5 → Fld
  | 0 => .TWIN_TXFFE_C_M3 | 1 => .TWIN_TXFFE_C_M2 | 2 => .TWIN_TXFFE_C_M1 | 3 => .TWIN_TXFFE_C_0 | 4 => .TWIN_TXFFE_C_P1

/-- The value of a tap: C(0) is not negative. -/
def tapOf (v : Nat) (t : Fin 5) : Int :=
  let x := bits v (tapFld t).hi (tapFld t).lo
  if t = 3 then (x : Int) else signed 6 x

/-- C(0) lowered until the sum of the magnitudes is 63 (R232). -/
def fitTaps (v : Nat) : Nat :=
  let others := ([0, 1, 2, 4] : List (Fin 5)).foldl (fun a t => a + (tapOf v t).natAbs) 0
  setBits v 5 0 (min (bits v 5 0) (63 - others))

/-- A tap moved by a request within its limits, and whether it was at its limit. -/
def moveTap (v : Nat) (t : Fin 5) (delta : Int) : Nat × Bool :=
  let x := tapOf v t + delta
  let y := if t = 3 then clip 0 63 x else clip (-32) 31 x
  let w := fitTaps (setBits v (tapFld t).hi (tapFld t).lo (unsigned 6 y))
  (w, x != y || tapOf w t != y)

/-- A partner's request in Training (R230): with TX_LOCK it is answered as at its limit. It is answered in the step that it arrives in, so
none is pending when TWIN_TXFFE is written (Table 8.4): one that follows the write moves the written values. -/
def execCoeffRequest (l : Lane) (t : Fin 5) (delta : Int) (s : State) : Res := act 17 s fun s =>
  if s.laneState l != 2 then s
  else if s.on .TWIN_TXFFE_TX_LOCK l then s.emit (.coeffAnswer l true)
  else
    let (v, lim) := moveTap ((s.tw l).coeff.getD (s.reg .TWIN_TXFFE l)) t delta
    (s.setTw l { s.tw l with coeff := some v }).emit (.coeffAnswer l lim)

/-- A write of TWIN_TXFFE of a lane (R232, Table 8.4): Operator rights for the lane's domain (R226). -/
def State.txffeWrite (s : State) (req : Requester) (l v : Nat) : State :=
  s.runWrite req (s.laneDom l) ⟨.TWIN_TXFFE, l, 0, 0⟩ v fun t =>
    (t.setReg .TWIN_TXFFE (fitTaps (v % 2 ^ 31)) l).setTw l { t.tw l with coeff := none }

/-- The same as a row of the table. -/
def execTxffeWrite (req : Requester) (l : Lane) (v : BitVec 32) (s : State) : Res := access req 17 s fun s => s.txffeWrite req l v.toNat

/-- How a lane's receiver adapts (R233): whether it adapts now, and the peaking in 0.5 dB that its CTLE is fixed at, if it is. -/
def State.laneAdaptation (s : State) (l : Nat) : Bool × Option Nat :=
  let adapts := match s.rd .TWIN_RXEQ_ADAPT l with
    | 0 => true
    | 1 => s.laneState l != 3
    | _ => false
  (adapts, if s.on .TWIN_RXEQ_CTLE_OVR l then some (s.rd .TWIN_RXEQ_CTLE l) else none)

/-! ### Margin scans (R234, R235, R445) -/

/-- A scan starts on a Trained lane; on another it ends at once without a valid result. -/
def State.startScan (s : State) (l : Nat) (auto : Bool) : State :=
  if s.on .TWIN_SCAN_SCAN_BUSY l then s
  else if s.laneState l != 3 then s.wr .TWIN_SCAN_SCAN_VALID 0 l
  else ((s.wr .TWIN_SCAN_SCAN_BUSY 1 l).wr .TWIN_SCAN_SCAN_REQ 1 l).setTw l { s.tw l with auto := auto }

/-- SCAN_REQ written (R235). -/
def execScanReq (req : Requester) (l : Lane) (s : State) : Res := access req 17 s fun s =>
  s.runWrite req (s.laneDom l) ⟨.TWIN_SCAN, l, 0, 0⟩ (setBits (s.reg .TWIN_SCAN l) 0 0 1) fun t => t.startScan l false

/-- An automatic scan falls due (R235): skipped while a scan runs; it waits while level 5 is not granted (R435). -/
def execMarginScanAuto (l : Lane) (s : State) : Res := act 17 s fun s =>
  if s.rd .TWIN_SCAN_MARGIN_INT l != 0 && s.belay.background then s.startScan l true else s

/-- An entry of the ageing log (Table 17.7), after the one that LOG_LAST names; the first takes entry 0 (log entry 9). -/
def State.ageLog (s : State) (kind unit old new basis flags : Nat) : State :=
  let e := if s.age.logged then (s.rd .TALY_AGE_ST_LOG_LAST + 1) % 64 else 0
  let body := leBytes 4 s.age.replan ++ leBytes 6 s.tod ++ leBytes 1 kind ++ leBytes 1 unit ++ leBytes 2 old ++ leBytes 2 new ++
    leBytes 4 basis ++ leBytes 1 flags ++ List.replicate 7 0
  ({ s with age := { s.age with logged := true } }.wr .TALY_AGE_ST_LOG_LAST e).setReg .TALY_AGE_LOG (leVal (withCrc body)) e

/-- What an automatic lane scan's worst eye does (R235, R445): it joins the history; below LANE_MIN, event 0x3843 and a log entry. -/
def State.laneMargin (s : State) (mate : Bool) (l height width old : Nat) : State :=
  let s := { s with age := { s.age with margins := (mate, l, height, width) :: s.age.margins } }
  if height < s.rd .TALY_AGE_CFG_LANE_MIN then
    (s.raise .TALY_AGE_EVT_LANE_LOW 0x3843 0 [l]).ageLog 4 l old height 0 0
  else s

/-- The longest run of points of a sweep that hold, after n that end the sweep so far. -/
def longestRun (p : Nat → Bool) : List Nat → Nat → Nat
  | [], n => n
  | x :: l, n => if p x then longestRun p l (n + 1) else max n (longestRun p l 0)

/-- The width or height that a sweep of 64 points shows (R234): the span whose points disagree, of 2^(16 + DWELL) UI, at a ratio below
10^(−TGT); of several spans the longest (DEDUCED, log entry 92). -/
def eyeSpan (tgt dwell : Nat) (sweep : List Nat) : Nat := longestRun (fun c => c * 10 ^ tgt < 2 ^ (16 + dwell)) sweep 0

/-- A scan completes (R234): the disagreements counted at the points of its six sweeps, width then height of the lower, middle and upper
eye. -/
def execScanDone (l : Lane) (sweeps : List (List Nat)) (s : State) : Res := act 17 s fun s =>
  if !s.on .TWIN_SCAN_SCAN_BUSY l then s
  else
    let seq := s.rd .TWIN_EYE_SCAN_SEQ l + 1
    let span (k : Nat) : Nat := eyeSpan (s.rd .TWIN_SCAN_TGT l) (s.rd .TWIN_SCAN_DWELL l) (sweeps.getD k []) % 256
    let eyes := ([1, 0, 3, 2, 5, 4] : List Nat).foldr (fun k a => span k + 256 * a) 0
    let s := s.setReg .TWIN_EYE (eyes + (seq % 2 ^ 16) <<< 48) l
    let s := ((s.wr .TWIN_SCAN_SCAN_BUSY 0 l).wr .TWIN_SCAN_SCAN_REQ 0 l).wr .TWIN_SCAN_SCAN_VALID 1 l
    let s := s.laneEvent l .TWIN_EVT_SCAN_DONE 0x8804
    let x := s.tw l
    if x.auto then
      let h := min (span 1) (min (span 3) (span 5))
      let w := min (span 0) (min (span 2) (span 4))
      (s.setTw l { x with auto := false, height := h }).laneMargin false l h w x.height
    else s

/-- A slip of the far-end loopback buffer (R236): counted; the first in a second raises event 0x8805. -/
def execLoopbackSlip (l : Lane) (s : State) : Res := act 17 s fun s =>
  if s.rd .TWIN_LANE_CFG_LPBK l != 2 || s.laneState l == 0 then s
  else
    let s := s.count .TWIN_CNT 1 l 3
    if (s.tw l).slipSaid then s
    else (s.setTw l { s.tw l with slipSaid := true }).laneEvent l .TWIN_EVT_SLIP 0x8805

/-- What Twine may report once in each second, allowed anew. -/
def State.twineSecond (s : State) : State := s.each (List.range 48) fun l t => t.setTw l { t.tw l with slipSaid := false }

/-! ### Commits -/

/-- Whether a lane field has a reserved encoding, or its quad's mapping is not a permutation (R231). -/
def State.laneCoding (s : State) (l : Nat) : Bool :=
  let q := l / 4 * 4
  let perm (f : Fld) : Bool := [0, 1, 2, 3].all fun v => [0, 1, 2, 3].any fun k => s.rd f (q + k) == v
  1 < s.rd .TWIN_LANE_CFG_INTF l || s.rd .TWIN_LANE_CFG_LPBK l == 3 || 4 < s.rd .TWIN_LANE_CFG_PATGEN l ||
    3 < s.rd .TWIN_LANE_CFG_PATCHK l || !perm .TWIN_LANE_CFG_RX_MAP || !perm .TWIN_LANE_CFG_TX_MAP

/-- Whether a lane belongs to a client in force or a FlexO group. -/
def State.laneUsed (s : State) (l : Nat) : Bool := (s.ethOf l).isSome || (s.flexOf l).isSome

/-- The rules of Table 8.5, rights apart. -/
def checkTwine (t : State) : Option Breach :=
  firstBreach [
    (1, lowest 48 t.laneDom t.laneCoding),
    (2, lowest 48 t.laneDom fun l => t.laneUsed l && !t.rateFits l),
    (3, lowest 48 t.laneDom fun l =>
      t.laneUsed l && (t.rd .TWIN_LANE_CFG_PATGEN l != 0 || t.rd .TWIN_LANE_CFG_PATCHK l != 0))]

/-- What a TWIN or SHET commit does to a lane by its rate (R229): an attempt ends at once where the rates no longer match, and a lane held
in Untrained starts at the first commit that makes them agree. -/
def State.rateChecked (s old : State) (l : Nat) : State :=
  if s.rateFits l then (if s.laneState l = 4 && !old.rateFits l then s.startAttempt l else s)
  else if s.laneState l = 1 || s.laneState l = 2 then s.untrained l 1
  else s

/-- Whether a commit enables a lane, changes its interface, mapping or polarity, or its quad's rate (R227). -/
def laneRestarts (old new : State) (l : Nat) : Bool :=
  let a := old.reg .TWIN_LANE_CFG l
  let b := new.reg .TWIN_LANE_CFG l
  bits a 9 0 != bits b 9 0 || old.rd .TWIN_QUAD_CFG_RATE (l / 4) != new.rd .TWIN_QUAD_CFG_RATE (l / 4)

/-- What an applied TWIN commit does. An attempt of a lane that R227 does not restart goes on (DEDUCED, log entry 92). -/
def afterTwine (old new : State) : State :=
  new.each (List.range 48) fun l t =>
    if !laneRestarts old t l then
      let t := if old.laneSignal l = t.laneSignal l then t else t.emit (t.laneSignal l)
      t.rateChecked old l
    else if t.laneState l = 0 && !t.on .TWIN_LANE_CFG_EN l then t
    else t.startAttempt l

end Sys2Proof.Machine
end

