-- ==== Sys2Proof/Machine/Belay.lean ====
section
/-! DEFINITION. Belay (chapter 17): the power estimate, the grants, the core voltage, the island's feeds, and the ageing replan. -/

namespace Sys2Proof.Machine

open Sys2Proof

/-! ### The estimate (R431, Table 17.1)

Powers are whole numbers of a unit in which every coefficient of Table 17.1 is exact: 10 mW / 3,520. Scaled by set-point and share, the
unit is divided by 1,000 × 7,000². -/

/-- The items of Table 17.1, in the table's order, with Typical and Max in the unit: the taps per tap and unit of width, the decoder per
iteration and unit of width, the fabric per tributary slot (640 slots carry 3.2 Tb/s). -/
def coefficient (max_ : Bool) (item : Nat) : Nat :=
  match item with
  | 0 => if max_ then 1790 * 3520 else 1400 * 3520
  | 1 => if max_ then 450 * 3520 else 400 * 3520
  | 2 => if max_ then 55 * 3520 else 50 * 3520
  | 3 => if max_ then 3440 * 3520 else 2680 * 3520
  | 4 => if max_ then 720 else 640
  | 5 => if max_ then 255 * 110 else 227 * 110
  | _ => if max_ then 2200 else 1925

/-- The background part of the base: the 1.50 W of level 5 (Table 17.3). -/
def backgroundUnits : Nat := 150 * 3520

/-- An item's factor at a set-point in 0.1 mV: its part on VDD_CORE scales with the square of set-point / 0.70 V. -/
def voltScale (item sp : Nat) : Nat :=
  let sh := min 1000 (Config.coreShare item)
  (1000 - sh) * 7000 ^ 2 + sh * sp ^ 2

/-- The set-point that the estimate uses: VMAX while AVS_FAULT holds (R438). -/
def State.estimateVolt (s : State) : Nat :=
  if s.on .BLAY_AVS_ST_AVS_FAULT then 10 * s.rd .BLAY_AVS_CFG_VMAX else s.rd .BLAY_AVS_ST_SETPOINT

/-- The count of each item in service beside taps and iterations (R446): ports, lanes, lines, tributary slots. -/
def State.itemCount (s : State) (item : Nat) : Nat :=
  match item with
  | 0 => 1
  | 1 => 1 + ([0, 1].filter fun p => s.on .BCKT_MEM_CFG_EN p).length
  | 2 => ((List.range 48).filter fun l => s.on .TWIN_LANE_CFG_EN l && s.rd .TWIN_QUAD_CFG_RATE (l / 4) != 0).length
  | 3 => ([0, 1, 2].filter fun n => s.lineMode n != 0).length
  | 6 => s.boundSlots.length
  | _ => 0

/-- A subcarrier as the grant computation sees it: line, first slot, width, protected, MARGIN, the bounds and the demand of its
iterations, ITER_DEF, the demand of its taps, and what it is granted. -/
structure SubDemand where
  n : Nat
  f : Nat
  w : Nat
  guarded : Bool
  margin : Int
  least : Nat
  want : Nat
  def_ : Nat
  tapsWant : Nat
  iter : Nat
  taps : Nat
  deriving DecidableEq, Repr

/-- The power of items with a weight each, at a set-point. -/
def fixedPower (max_ : Bool) (sp : Nat) (count : Nat → Nat) : Nat :=
  [0, 1, 2, 3, 6].foldl (fun a i => a + count i * coefficient max_ i * voltScale i sp) 0

/-- The power of one iteration of a width. -/
def iterPower (max_ : Bool) (sp w : Nat) : Nat := coefficient max_ 5 * w * voltScale 5 sp

/-- The power of one tap of a width. -/
def tapPower (max_ : Bool) (sp w : Nat) : Nat := coefficient max_ 4 * w * voltScale 4 sp

/-- The power of what subcarriers are granted. -/
def loadPower (max_ : Bool) (sp : Nat) (l : List SubDemand) : Nat :=
  l.foldl (fun a x => a + x.iter * iterPower max_ sp x.w + x.taps * tapPower max_ sp x.w) 0

/-- A power in 10 mW, less CAL_GAIN, as a number of the estimate's units. -/
def State.usableUnits (s : State) (p : Nat) : Nat := p * 512 * 3520 * 1000 * 7000 ^ 2 / s.rd .BLAY_AVS_ST_CAL_GAIN

/-- An estimate with CAL_GAIN in 0.25 W, rounded down. -/
def State.quarterWatts (s : State) (units : Nat) : Nat :=
  units * s.rd .BLAY_AVS_ST_CAL_GAIN / (25 * 512 * 3520 * 1000 * 7000 ^ 2)

/-- The effective budget in 10 mW (R432): BUDGET less TJ_SLOPE for each °C of Tj above TJ_SOFT. -/
def State.effectiveBudget (s : State) : Nat :=
  let above := (signed 8 (s.rd .BLAY_STAT_TJ) - (s.rd .BLAY_BUD_CFG_TJ_SOFT : Int)).toNat
  25 * s.rd .BLAY_BUD_CFG_BUDGET - 10 * s.rd .BLAY_BUD_CFG_TJ_SLOPE * above

/-- What Belay may grant: the effective budget less GUARD_W (R432). -/
def State.usablePower (s : State) : Nat := s.usableUnits (s.effectiveBudget - 10 * s.rd .BLAY_BUD_CFG_GUARD_W)

/-- The same at Tj = TJ_SOFT (R433). -/
def State.usableAtSoft (s : State) : Nat := s.usableUnits (25 * s.rd .BLAY_BUD_CFG_BUDGET - 10 * s.rd .BLAY_BUD_CFG_GUARD_W)

/-! ### Grants (R434 to R436) -/

/-- The demand of iterations, 0 and 17 counted as ITER_MAX (R435). -/
def State.iterWant (s : State) (n f : Nat) : Nat :=
  let d := s.rd .CLET_SC_STAT_DEMAND n f
  s.clipIter n f (if d = 0 ∨ d = 17 then s.rd .CLET_SC_CFG_ITER_MAX n f else d)

/-- Whether a line's subcarriers are protected (R434). -/
def State.lineGuarded (s : State) (n : Nat) : Bool := s.on .BLAY_LINE_CFG_PROT_FORCE n || !(s.groupsOn n).isEmpty

/-- The width in slots of a subcarrier that a line decodes: on a Hub line of an upstream one. -/
def State.loadWidth (s : State) (n f : Nat) : Nat :=
  slotWidth (if s.lineMode n = 2 then s.rd .BGHT_UP_CFG_WIDTH n f else s.rd .SPLC_SC_CFG_WIDTH n f)

/-- The fewest taps of such a subcarrier and those it demands; an upstream one has the TAPS of its configuration (Table 4.13). -/
def State.loadTaps (s : State) (n f : Nat) : Nat × Nat :=
  if s.lineMode n = 2 then (s.rd .BGHT_UP_CFG_TAPS n f, s.rd .BGHT_UP_CFG_TAPS n f)
  else
    let least := s.tapLeast n f
    (least, max least (min (s.rd .SPLC_SC_EST_DEMAND n f) (s.tapMost n f)))

/-- The subcarriers that the native lines in service decode, by line and first slot, at what levels 2 and 3 grant them. -/
def State.subLoads (s : State) : List SubDemand :=
  [0, 1, 2].flatMap fun n =>
    if !s.lineNative n then []
    else (s.decSlots n).map fun f =>
      let least := s.iterLeast n f
      let want := s.iterWant n f
      let (tl, tw) := s.loadTaps n f
      let g := s.lineGuarded n
      { n := n, f := f, w := s.loadWidth n f, guarded := g,
        margin := signed 16 (s.rd .CLET_SC_STAT_MARGIN n f), least := least, want := want,
        def_ := s.clipIter n f (s.rd .CLET_SC_CFG_ITER_DEF n f), tapsWant := tw,
        iter := if g then want else least, taps := if g then tw else tl }

/-- The order of increments (R435): the lowest MARGIN first, ties by line and first slot, which the list's order gives. -/
def byMargin : List SubDemand → List SubDemand
  | [] => []
  | x :: r => put x (byMargin r)
where
  /-- One subcarrier put in its place. -/
  put (x : SubDemand) : List SubDemand → List SubDemand
    | [] => [x]
    | y :: r => if x.margin ≤ y.margin then x :: y :: r else y :: put x r

/-- One round of increments: each subcarrier that lacks the step takes it, in order, until the room left no longer covers the next one.
The answer: the subcarriers, the room left, whether it ended so. -/
def oneRound (lacks : SubDemand → Bool) (cost : SubDemand → Nat) (bump : SubDemand → SubDemand) : List SubDemand → Nat → List SubDemand × Nat × Bool
  | [], room => ([], room, false)
  | x :: r, room =>
    if lacks x then
      if cost x ≤ room then
        let (l, left, stop) := oneRound lacks cost bump r (room - cost x)
        (bump x :: l, left, stop)
      else (x :: r, room, true)
    else
      let (l, left, stop) := oneRound lacks cost bump r room
      (x :: l, left, stop)

/-- Rounds of increments, as many as there can be. -/
def manyRounds (lacks : SubDemand → Bool) (cost : SubDemand → Nat) (bump : SubDemand → SubDemand) : Nat → List SubDemand → Nat → List SubDemand × Nat × Bool
  | 0, l, room => (l, room, false)
  | k + 1, l, room =>
    if l.any lacks then
      let (l, left, stop) := oneRound lacks cost bump l room
      if stop then (l, left, true) else manyRounds lacks cost bump k l left
    else (l, room, false)

/-- Level 4 (Table 17.2, R435): unprotected iterations up to demand, unprotected taps up to demand, every subcarrier toward ITER_DEF. -/
def surplusGrants (sp : Nat) (l : List SubDemand) (room : Nat) : List SubDemand × Nat × Bool :=
  let moreIter (x : SubDemand) : SubDemand := { x with iter := x.iter + 1 }
  let moreTaps (x : SubDemand) : SubDemand := { x with taps := x.taps + 2 }
  let a := manyRounds (fun x => !x.guarded && decide (x.iter < x.want)) (fun x => iterPower false sp x.w) moreIter 16 l room
  if a.2.2 then a
  else
    let b := manyRounds (fun x => !x.guarded && decide (x.taps < x.tapsWant)) (fun x => 2 * tapPower false sp x.w) moreTaps 32 a.1 a.2.1
    if b.2.2 then b
    else manyRounds (fun x => decide (x.iter < x.def_)) (fun x => iterPower false sp x.w) moreIter 16 b.1 b.2.1

/-- The floor: levels 1 to 3 (R433). -/
def State.floorUnits (s : State) (l : List SubDemand) : Nat :=
  let sp := s.estimateVolt
  fixedPower false sp s.itemCount - backgroundUnits * voltScale 0 sp + loadPower false sp l

/-- The grants of a frame: the subcarriers, the highest level granted in full, the estimate. -/
def State.computeGrants (s : State) : List SubDemand × Nat × Nat :=
  let sp := s.estimateVolt
  let l := byMargin s.subLoads
  let base := s.floorUnits l
  let usable := s.usablePower
  if s.rd .BLAY_STAT_SUPPLY ≠ 0 ∨ usable < base then (l, 3, base)
  else
    let (l4, left, stop) := surplusGrants sp l (usable - base)
    let used := usable - left
    let bg := backgroundUnits * voltScale 0 sp
    if stop then (l4, 3, used) else if bg ≤ left then (l4, 5, used + bg) else (l4, 4, used)

/-- OVER_FLOOR with its event (R433). -/
def State.setOverFloor (s : State) (v : Bool) : State :=
  let was := s.on .BLAY_STAT_OVER_FLOOR
  let s := s.wr .BLAY_STAT_OVER_FLOOR (b2n v)
  if v && !was then s.raise .BLAY_EVT_OVER_FLOOR 0x3002 0 [] else s

/-- LEVEL; a change raises event 0x3008 at most once per second (R436). -/
def State.setLevel (s : State) (v : Nat) : State :=
  if s.rd .BLAY_STAT_LEVEL = v then s
  else
    let s := s.wr .BLAY_STAT_LEVEL v
    if s.belay.levelSaid then s
    else { s with belay := { s.belay with levelSaid := true } }.raise .BLAY_EVT_LEVEL 0x3008 0 []

/-- One grant of a subcarrier kept for the next frame; UPD within UPD_MAX is a free value (no rule chooses it, log entry 2). -/
def State.keepGrant (s : State) (x : SubDemand) : State :=
  let (t, v) := s.draw
  let g : Grant := ⟨x.iter, x.taps, min (v % 4) (t.rd .SPLC_ADAPT_CFG_UPD_MAX x.n)⟩
  { t with belay := { t.belay with grants := t.belay.grants.put none (32 * x.n + x.f) (some g) } }

/-- The grants of a modulation frame (R434 to R436). -/
def execGrantComputation (s : State) : Res := act 6 s fun s =>
  let (l, level, est) := s.computeGrants
  let above := s.usablePower < s.floorUnits (byMargin s.subLoads)
  let s := { s with belay := { s.belay with grants := [], background := level == 5 } }
  let s := l.foldl (fun t x => t.keepGrant x) s
  let s := (s.wr .BLAY_STAT_EST_P (s.quarterWatts est)).wr .BLAY_STAT_EFF_BUD (s.effectiveBudget / 25)
  let s := s.wr .BLAY_STAT_SHORT (l.filter fun x => x.iter < x.want).length
  (s.setOverFloor above).setLevel level

/-- The grants in force as subcarriers: for an estimate of the configuration (R431, R444). -/
def State.granted (s : State) : List SubDemand :=
  s.subLoads.map fun x => { x with
    iter := s.rd .CLET_SC_STAT_GRANT x.n x.f, taps := if s.lineMode x.n = 2 then x.taps else s.rd .SPLC_SC_EST_TAPS x.n x.f }

/-- CAL_GAIN moves by at most 1/512 toward the ratio of measured to estimated VDD_CORE power, within 0.75 and 1.50 (R431). The operand: the
current read over the AVS interface, in 0.1 A; none for a failed read, which freezes it (R438). -/
def execCalGainUpdate (iout : Option (BitVec 16)) (s : State) : Res := act 6 s fun s =>
  match iout with
  | none => s
  | some i =>
    let sp := s.rd .BLAY_AVS_ST_SETPOINT
    let core (item units : Nat) : Nat := units * min 1000 (Config.coreShare item) * sp ^ 2
    let l := s.granted
    let taps := l.foldl (fun a x => a + x.taps * x.w) 0
    let iters := l.foldl (fun a x => a + x.iter * x.w) 0
    let est := [0, 1, 2, 3, 6].foldl (fun a k => a + core k (s.itemCount k * coefficient false k))
      (core 4 (taps * coefficient false 4) + core 5 (iters * coefficient false 5))
    -- measured: 0.1 A × 0.1 mV = 10 µW, in the estimate's units
    let meas := i.toNat * sp * 3520 * 1000 * 7000 ^ 2 / 1000
    let g := s.rd .BLAY_AVS_ST_CAL_GAIN
    let new := if (g + 1) * est ≤ 512 * meas then g + 1 else if 512 * meas ≤ (g - 1) * est then g - 1 else g
    (s.wr .BLAY_AVS_ST_IOUT i.toNat).wr .BLAY_AVS_ST_CAL_GAIN (max 384 (min 768 new))

/-! ### Voltage (R437, R438) -/

/-- A set-point write: clipped to VMIN + AGE_OFS and VMAX, with AGE_OFS taken at the step (R27); unacknowledged, the set-point is held,
AVS_FAULT, event 0x3004. -/
def State.avsStep (s : State) (want : Nat) (ack : Bool) : State :=
  let ofs := s.rd .TALY_AGE_ST_AGE_OFS
  let low := 10 * (s.rd .BLAY_AVS_CFG_VMIN + ofs)
  let v := max low (min want (10 * s.rd .BLAY_AVS_CFG_VMAX))
  if ack then ((s.wr .BLAY_AVS_ST_AGE_OFS ofs).wr .BLAY_AVS_ST_SETPOINT v).wr .BLAY_AVS_ST_AVS_FAULT 0
  else
    let was := s.on .BLAY_AVS_ST_AVS_FAULT
    let s := s.wr .BLAY_AVS_ST_AVS_FAULT 1
    if was then s else s.raise .BLAY_EVT_AVS 0x3004 0 []

/-- The lowest slack falls below SLACK_LO: one step of 2.5 mV up. The operands: the slack in ps; whether the write is acknowledged within
3 tries. -/
def execAvsRaise (slack : Int) (ack : Bool) (s : State) : Res := act 6 s fun s =>
  let s := s.wr .BLAY_AVS_ST_MIN_SLACK (unsigned 13 slack)
  if slack < s.rd .BLAY_AVS_CFG_SLACK_LO then s.avsStep (s.rd .BLAY_AVS_ST_SETPOINT + 25) ack else s

/-- The lowest slack has stayed above SLACK_HI for 1 s: one step down. -/
def execAvsLower (slack : Int) (ack : Bool) (s : State) : Res := act 6 s fun s =>
  let s := s.wr .BLAY_AVS_ST_MIN_SLACK (unsigned 13 slack)
  if (s.rd .BLAY_AVS_CFG_SLACK_HI : Int) < slack then s.avsStep (s.rd .BLAY_AVS_ST_SETPOINT - 25) ack else s

/-! ### Always-on feeds (R441, R442) -/

/-- The measurement of a millisecond: feed A's share in per cent, whether the share has lain outside its limits for 10 s, and whether each
feed lies in its range. A feed that comes back is OK again; one that leaves is FEED_OUT_OF_RANGE. The monitors run in the island, with
Belay in reset too (R34); Belay judges the share. -/
def execFeedMonitor (share : Fin 101) (long aOk bOk : Bool) (s : State) : Res :=
  let s := s.wr .BLAY_AON_ST_A_SHARE share
  let s := if aOk then s.wr .BLAY_AON_ST_A_OK 1 else s
  let s := if bOk then s.wr .BLAY_AON_ST_B_OK 1 else s
  act 6 s fun s =>
  let lim := s.rd .BLAY_SUP_CFG_SHARE_LIM
  let inside := decide (100 - lim ≤ share.val ∧ share.val ≤ lim)
  if inside then s.wr .BLAY_AON_ST_SHARE_BAD 0
  else if long && !s.on .BLAY_AON_ST_SHARE_BAD then (s.wr .BLAY_AON_ST_SHARE_BAD 1).raise .BLAY_EVT_FEED 0x3005 0 []
  else s

/-- A feed leaves OK, which the island's monitors show with Belay in reset too (R34, R439): its FAIL bit; event 0x3005 while Belay runs. -/
def execFeedOutOfRange (b : Bool) (s : State) : Res :=
  let s := if b then (s.wr .BLAY_AON_ST_B_OK 0).wr .BLAY_AON_ST_B_FAIL 1 else (s.wr .BLAY_AON_ST_A_OK 0).wr .BLAY_AON_ST_A_FAIL 1
  act 6 s fun s => s.raise .BLAY_EVT_FEED 0x3005 0 []

/-- One half of a hold test: a feed alone carries the island. -/
def State.testFeed (s : State) (ok fail test : Fld) (rail : Bool) : State :=
  if !s.on ok || s.rd .BLAY_STAT_SUPPLY != 0 || s.on .MRLN_TRIPLE_ST_ACTIVE then s.wr test 3
  else if rail then (s.wr test 1).wr fail 0
  else ((s.wr test 2).wr fail 1).raise .BLAY_EVT_HOLD_FAIL 0x3006 0 []

/-- The hold test (R442): A's switch opened, which tests B alone, then B's. The operands: the rail stays at or above 0.77 V on B, on A. -/
def execHoldTest (railOnB railOnA : Bool) (s : State) : Res := act 6 s fun s =>
  if s.rd .BLAY_SUP_CFG_HOLD_H = 0 then s
  else
    let s := s.testFeed .BLAY_AON_ST_B_OK .BLAY_AON_ST_B_FAIL .BLAY_AON_ST_B_TEST railOnB
    let s := s.testFeed .BLAY_AON_ST_A_OK .BLAY_AON_ST_A_FAIL .BLAY_AON_ST_A_TEST railOnA
    if s.rd .BLAY_AON_ST_A_TEST = 3 ∨ s.rd .BLAY_AON_ST_B_TEST = 3 then s
    else { s with belay := { s.belay with sinceTest := 0 } }.wr .BLAY_AON_ST_TEST_AGE 0

/-! ### Ageing (R443, R444) -/

/-- The monitor with the largest drift so far, with it. -/
def worstPdm (base : Nat → Nat) : Nat → List (BitVec 16) → Nat × Int → Nat × Int
  | _, [], best => best
  | m, v :: r, best =>
    let d := (v.toNat : Int) - (base m : Nat)
    worstPdm base (m + 1) r (if best.2 < d then (m, d) else best)

/-- The daily measurement (R443): the 128 normalised delays, and SNR_CONV of each line as Tally derives it from the converter history. -/
def execPdmMeasure (now : List (BitVec 16)) (snr0 snr1 snr2 : BitVec 8) (s : State) : Res := act 7 s fun s =>
  let vals := now.take 128
  let first := (vals.head?.map fun v => (v.toNat : Int) - (s.rd .TALY_PDM_BASE 0 : Nat)).getD 0
  let w := worstPdm (fun m => s.rd .TALY_PDM_BASE m) 0 vals (0, first)
  let s := s.each (List.range vals.length) fun m t => t.wr .TALY_PDM_NOW ((vals.getD m 0).toNat) m
  let s := (s.wr .TALY_AGE_ST_DRIFT w.2.toNat).wr .TALY_AGE_ST_WORST_PDM w.1
  ((s.wr .TALY_AGE_LINE_SNR_CONV snr0.toNat 0).wr .TALY_AGE_LINE_SNR_CONV snr1.toNat 1).wr .TALY_AGE_LINE_SNR_CONV snr2.toNat 2

/-- One step toward a target within bounds: the new value and whether the target lies beyond a bound. -/
def stepToward (now target least most step : Nat) : Nat × Bool :=
  let t := max least (min target most)
  (if now < t then min t (now + step) else max t (now - step), target < least || most < target)

/-- A quantity of Table 17.6 moves: journaled as a write of service 6, logged, event 0x3841; a target beyond a bound raises event 0x3842.
Where the journal can take no record, nothing is written (R419, R428). -/
def State.replanned (s : State) (f : Fld) (i kind unit basis : Nat) (m : Nat × Bool) : State :=
  let old := s.rd f i
  let s := if old = m.1 || s.journalBlocked then s
    else
      let before := s.reg f.id i
      let s := s.wr f m.1 i
      let s := s.recordSvc 6 0 1 0 (regAddr ⟨f.id, i, 0, 0⟩) before (s.reg f.id i) 0
      (s.ageLog kind unit old m.1 basis (b2n m.2)).raise .TALY_AGE_EVT_REPLAN 0x3841 0 []
  if m.2 then s.raise .TALY_AGE_EVT_LIMITED 0x3842 0 [] else s

/-- The target of AGE_OFS in mV. -/
def State.ofsTarget (s : State) : Nat := 5 * ceilDiv (s.rd .TALY_AGE_ST_DRIFT * s.rd .TALY_AGE_CFG_KV) 500

/-- The Max estimate with every subcarrier at I iterations, VDD_CORE at VMIN + AGE_OFS (Table 17.6). -/
def State.maxEstimate (s : State) (i : Nat) : Nat :=
  let sp := 10 * (s.rd .BLAY_AVS_CFG_VMIN + s.rd .TALY_AGE_ST_AGE_OFS)
  fixedPower true sp s.itemCount + loadPower true sp (s.granted.map fun x => { x with iter := i })

/-- The target of AGE_ITER: the largest I that the budget carries; 0 for none. -/
def State.iterTarget (s : State) : Nat :=
  let usable := s.usableAtSoft
  ((List.range 17).reverse.find? fun i => s.maxEstimate i ≤ usable).getD 0

/-- The target of a line's AGE_ENT; 0 where no entry of its map may be chosen. -/
def State.entTarget (s : State) (n : Nat) : Nat :=
  let snr := s.rd .TALY_AGE_LINE_SNR_CONV n
  ((s.bestEntry n fun t => t + s.rd .BRAD_LOAD_CFG_MARGIN n ≤ snr).map fun k => 24 + k).getD 0

/-- The least AGE_ENT of a line: AGE_ENT_MIN and its highest FLOOR_ENT. -/
def State.entLeast (s : State) (n : Nat) : Nat :=
  (s.firstSlots .BRAD_SC_CFG_WIDTH n).foldl (fun a f => max a (s.rd .BRAD_SC_LOAD_FLOOR_ENT n f)) (s.rd .TALY_AGE_LINE_AGE_ENT_MIN n)

/-- The ageing replan (R444); it waits for NV-Inhibit, Shutdown-orderly and a triple session (R445). -/
def execAgeingReplan (s : State) : Res := act 7 s fun s =>
  if !s.on .TALY_AGE_CFG_REPLAN_EN || s.on .MRLN_NV_ST_NV_INHIBIT || s.boot.shutdown || s.on .MRLN_TRIPLE_ST_ACTIVE || !s.svcRuns 6 then s
  else
    let s := { s with age := { s.age with replan := (s.age.replan + 1) % 2 ^ 32, seconds := 0 } }.wr .TALY_AGE_ST_DAYS 0
    let drift := s.rd .TALY_AGE_ST_DRIFT
    let s := s.replanned .TALY_AGE_ST_AGE_OFS 0 1 0 drift
      (stepToward (s.rd .TALY_AGE_ST_AGE_OFS) s.ofsTarget 0 (s.rd .BLAY_AVS_CFG_AGE_OFS_MAX) 5)
    let it := s.iterTarget
    let s := s.replanned .TALY_AGE_ST_AGE_ITER 0 2 0 (s.quarterWatts (s.maxEstimate it))
      (stepToward (s.rd .TALY_AGE_ST_AGE_ITER) it (clipField 8 4 16 (s.rd .TALY_AGE_CFG_AGE_ITER_MIN)) 16 1)
    s.each [0, 1, 2] fun n t =>
      let snr := t.rd .TALY_AGE_LINE_SNR_CONV n
      if snr = 255 then t
      else t.replanned .TALY_AGE_LINE_AGE_ENT n 3 n snr (stepToward (t.rd .TALY_AGE_LINE_AGE_ENT n) (t.entTarget n) (t.entLeast n) 124 2)

/-- A second passes in Belay and the ageing: event 0x3008 may be raised again; TEST_AGE in hours, DAYS in days. -/
def State.belaySecond (s : State) : State :=
  let b := { s.belay with levelSaid := false, sinceTest := s.belay.sinceTest + 1 }
  let a := { s.age with seconds := s.age.seconds + 1 }
  ({ s with belay := b, age := a }.wr .BLAY_AON_ST_TEST_AGE (min 255 (b.sinceTest / 3600))).wr .TALY_AGE_ST_DAYS
    (min 65535 (a.seconds / 86400))

/-! ### Commit (Table 17.9) -/

/-- Whether a field breaks cause 0x1. -/
def State.belayRange (s : State) : Bool :=
  let out (f : Fld) (least most : Nat) : Bool := s.rd f < least || most < s.rd f
  out .BLAY_BUD_CFG_TJ_SLOPE 1 255 || out .BLAY_BUD_CFG_GUARD_W 5 100 || out .BLAY_BUD_CFG_BUDGET 240 1040 ||
    out .BLAY_AVS_CFG_AGE_OFS_MAX 0 60 || decide (s.rd .BLAY_AVS_CFG_SLACK_HI ≤ s.rd .BLAY_AVS_CFG_SLACK_LO) ||
    out .BLAY_SUP_CFG_HOLD_MS 1 50 || out .BLAY_SUP_CFG_SHARE_LIM 55 95 || out .BLAY_SUP_CFG_SAG_FILT 1 15

/-- The junction limit of the grade (Table 0.1). -/
def State.gradeLimit (s : State) : Nat := if s.rd .TOP_ID_GRADE = 0 then 105 else 110

/-- The rules of Table 17.9, rights apart. -/
def checkBelay (t : State) : Option Breach :=
  let v (f : Fld) : Bool := t.rd f < 650 || 780 < t.rd f
  firstBreach [
    (1, broken t.belayRange),
    (2, broken (decide (t.rd .BLAY_AVS_CFG_VMAX ≤ t.rd .BLAY_AVS_CFG_VMIN) || v .BLAY_AVS_CFG_VMIN || v .BLAY_AVS_CFG_VMAX)),
    (3, broken (decide (t.usableAtSoft < t.floorUnits t.subLoads))),
    (4, broken (decide (t.rd .BLAY_BUD_CFG_TJ_TRIP ≤ t.rd .BLAY_BUD_CFG_TJ_SOFT) || t.gradeLimit + 5 < t.rd .BLAY_BUD_CFG_TJ_TRIP)),
    (5, broken (70 < t.rd .BLAY_CORE_CFG_CORE_B + t.rd .BLAY_CORE_CFG_CORE_C + t.rd .BLAY_CORE_CFG_CORE_D))]

end Sys2Proof.Machine
end

