-- ==== Sys2Proof/Machine/Fathom.lean ====
section
/-! DEFINITION. Fathom (chapter 19): the collector's dumps, bandwidth windows, instruction samples, crossing recentrings. -/

namespace Sys2Proof.Machine

open Sys2Proof

/-- What Fathom holds, replaced. -/
def State.setFth (s : State) (x : FathomInt) : State := { s with fathom := x }

/-! ### Dumps (R465 to R467) -/

/-- The counters of a block (Table 19.1): the registers, with the number of instances of each index. -/
def counterRegs (b : Nat) : List (RegId × Nat × Nat) :=
  match b with
  | 1 => [(.BCKT_MEM_CNT, 2, 6), (.BCKT_CNT, 8, 1)]
  | 4 => [(.FTHM_XING, 100, 1), (.FTHM_SLIP, 3, 1), (.FTHM_PORT, 3, 2)]
  | 12 => [(.CLET_CNT, 3, 7)]
  | 13 => [(.HTCH_CNT, 3, 8)]
  | 14 => [(.SEIZ_KC_CNT, 256, 6)]
  | 15 => [(.BEND_PG_CNT, 16, 8)]
  | 16 => [(.SHET_CNT, 48, 8)]
  | 17 => [(.TWIN_CNT, 48, 4)]
  | 18 => [(.LNYD_CNT, 4, 1)]
  | _ => []

/-- The counters of a block in address order. -/
def counterKeys (b : Nat) : List RegKey :=
  (counterRegs b).flatMap fun (id, m, n) => (List.range m).flatMap fun i => (List.range n).map fun j => ⟨id, i, j, 0⟩

/-- The counters of the blocks that SEL names, in the order of a dump. -/
def dumpKeys (sel : Nat) : List RegKey := (List.range 19).flatMap fun b => if sel.testBit b then counterKeys b else []

/-- The number of counters of a block. -/
def counterNum (b : Nat) : Nat := (counterRegs b).foldl (fun a (_, m, n) => a + m * n) 0

/-- The records of a dump: header, two counters per record, trailer (Table 19.3). -/
def dumpRecords (sel : Nat) : Nat :=
  ceilDiv ((List.range 19).foldl (fun a b => if sel.testBit b then a + counterNum b else a) 0) 2 + 2

/-- The counter records of a dump before their CRC. -/
def counterBodies (cmd seq : Nat) : List (Nat × Nat) → List (Nat → List Byte)
  | [] => []
  | [a] => [fun phase => leBytes 1 (phase + 2 + cmd <<< 4) ++ [1] ++ leBytes 2 seq ++ leBytes 4 a.1 ++ leBytes 8 a.2 ++
      List.replicate 12 0]
  | a :: b :: r => (fun phase => leBytes 1 (phase + 2 + cmd <<< 4) ++ [2] ++ leBytes 2 seq ++ leBytes 4 a.1 ++ leBytes 8 a.2 ++
      leBytes 4 b.1 ++ leBytes 8 b.2) :: counterBodies cmd seq r

/-- The records of a dump before their CRC. -/
def dumpBodies (d : Dump) (seq : Nat) : List (Nat → List Byte) :=
  let cmd := b2n d.tick.cmd.isSome
  let l := counterBodies cmd seq d.shadows
  (fun phase => leBytes 1 (phase + b2n d.todValid <<< 3 + cmd <<< 4) ++ [0] ++ leBytes 2 seq ++ leBytes 4 seq ++
      leBytes 8 d.seconds ++ leBytes 4 d.ns ++ leBytes 8 d.sel) ::
    l ++ [fun phase => leBytes 1 (phase + 4 + cmd <<< 4) ++ [0] ++ leBytes 2 seq ++ leBytes 4 l.length ++ List.replicate 20 0]

/-- A dump has been written or skipped: DUMP_SEQ moves on, and a command that gave the tick completes with the dump's number. -/
def State.countDump (s : State) (t : DumpTick) : State :=
  let seq := s.rd .FTHM_DUMP_ST_DUMP_SEQ
  let s := s.incWrap .FTHM_DUMP_ST_DUMP_SEQ
  match t.cmd with
  | some h => s.finish h 0 0 (leBytes 4 seq) []
  | none => s

/-- A tick takes effect: the counters copy themselves into their shadows, the peaks are cleared, and the dump starts or is skipped whole
with event 0x2001. -/
def State.startDump (s : State) (t : DumpTick) : State :=
  let sel := s.rd .FTHM_DUMP_CFG_SEL
  let r := s.rd .FTHM_DUMP_CFG_DUMP_RING
  let shadows := (dumpKeys sel).map fun k => (regAddr k, s.regs.get k)
  let (s, ns) := s.draw
  let s := s.each [0, 1, 2] fun p u => u.setReg .FTHM_BW_PEAK 0 p
  if s.ringRuns r 3 && (s.on .BCKT_RING_CFG_STRM_WRAP r || decide (s.ringFill r + dumpRecords sel ≤ s.ringSize r)) then
    let d : Dump := ⟨t, s.tod, ns % 2 ^ 30, s.on .HLYD_STAT_TOD_VALID, sel, r, shadows⟩
    (s.setFth { s.fathom with dump := some d }).wr .FTHM_DUMP_ST_BUSY 1
  else ((s.inc .FTHM_DUMP_ST_DUMP_SKIP).raise .FTHM_EVT_DUMP_SKIP 0x2001 0 []).countDump t

/-- A tick during a dump: held pending, or dropped with event 0x2002. -/
def State.dumpTick (s : State) (t : DumpTick) : State :=
  if s.fathom.dump.isNone then s.startDump t
  else if s.fathom.tick.isNone then (s.setFth { s.fathom with tick := some t }).wr .FTHM_DUMP_ST_PENDING 1
  else (s.inc .FTHM_DUMP_ST_DUMP_LATE).raise .FTHM_EVT_DUMP_LATE 0x2002 0 []

/-- A window boundary whose seconds are a multiple of DUMP_S. -/
def execDumpTick (s : State) : Res := act 4 s fun s =>
  if s.on .FTHM_DUMP_CFG_DUMP_EN && s.tod % max 1 (s.rd .FTHM_DUMP_CFG_DUMP_S) == 0 then s.dumpTick ⟨none⟩ else s

/-- The collector has written the dump; a ring disabled meanwhile takes none of it, which counts in DUMP_SKIP (R472). A pending tick takes
effect. -/
def execDumpDone (s : State) : Res := act 4 s fun s =>
  match s.fathom.dump with
  | none => s
  | some d =>
    let seq := s.rd .FTHM_DUMP_ST_DUMP_SEQ
    let s := if s.ringRuns d.ring 3 then (dumpBodies d seq).foldl (fun t b => t.streamPut d.ring b) s
      else s.inc .FTHM_DUMP_ST_DUMP_SKIP
    let s := ((s.setFth { s.fathom with dump := none }).wr .FTHM_DUMP_ST_BUSY 0).countDump d.tick
    match s.fathom.tick with
    | none => s
    | some t => ((s.setFth { s.fathom with tick := none }).wr .FTHM_DUMP_ST_PENDING 0).startDump t

/-- CNT_DUMP: STATE when a tick is pending already. -/
def execCntDump (h : Nat) (s : State) : Res := ospin 4 0x0901 h s fun _ s =>
  if s.fathom.tick.isSome then s.finish h 6 0 [] [] else s.dumpTick ⟨some h⟩

/-- CNT_STATUS. -/
def execCntStatus (h : Nat) (s : State) : Res := ospin 4 0x0902 h s fun _ s => s.finish h 0 0 (leBytes 8 (s.reg .FTHM_DUMP_ST)) []

/-! ### Bandwidth windows (R468) -/

/-- One port's counts of a window. -/
def State.bwWindow (s : State) (p rd wr : Nat) : State :=
  let s := (s.count .FTHM_PORT rd p 0).count .FTHM_PORT wr p 1
  let s := (s.wr .FTHM_BW_RD rd p).wr .FTHM_BW_WR wr p
  (s.wr .FTHM_BW_PEAK_RD (max (s.rd .FTHM_BW_PEAK_RD p) (s.rd .FTHM_BW_RD p)) p).wr .FTHM_BW_PEAK_WR
    (max (s.rd .FTHM_BW_PEAK_WR p) (s.rd .FTHM_BW_WR p)) p

/-- The data bytes that a memory port has read and written since the last window (Table 14.11), of 64 in each unit. -/
def State.portBytes (s : State) (p rd wr : Nat) : State :=
  if s.alive 1 then (s.count .BCKT_MEM_CNT (64 * rd) p 0).count .BCKT_MEM_CNT (64 * wr) p 1 else s

/-- The end of a window of BW_US: the 64-byte units read and written on CXL-U, CXL-A and CXL-B in it. -/
def execBwWindowEnd (rd0 wr0 rd1 wr1 rd2 wr2 : Nat) (s : State) : Res := act 4 s fun s =>
  let s := ((s.bwWindow 0 rd0 wr0).bwWindow 1 rd1 wr1).bwWindow 2 rd2 wr2
  (s.portBytes 0 rd1 wr1).portBytes 1 rd2 wr2

/-! ### Instruction samples (R469, R470) -/

/-- A core's sample count reaches zero: a record of the instruction that retires skid + 1 instructions on (Table 19.4), unless the core is in the triple or in reset. -/
def execInstructionSample (k : Core) (stalled : Bool) (pc cycle : BitVec 64) (skid : Fin 3) (s : State) : Res := act 4 s fun s =>
  if !(s.rd .FTHM_SAMP_CFG_SAMP_EN).testBit k || !s.coreServes k then s
  else
    let n := s.fathom.samples.get 0 k
    let svc := s.rd .MRLN_CORE_ST_SVC k
    let job := if s.rd .MRLN_CORE_ST_CSTATE k = 2 then jobClass svc else 0xFF
    let s := s.setFth { s.fathom with samples := s.fathom.samples.put 0 k ((n + 1) % 2 ^ 32) }
    s.streamPut (s.rd .FTHM_SAMP_CFG_SAMP_RING) fun phase =>
      leBytes 1 (phase + 2 * b2n stalled) ++ leBytes 1 k ++ leBytes 1 svc ++ leBytes 1 job ++ leBytes 4 n ++
        leBytes 8 pc.toNat ++ leBytes 8 cycle.toNat ++ leBytes 1 (skid.val + 1) ++ [0, 0, 0]

/-! ### Commit (Table 19.7) -/

/-- Whether a ring is an enabled stream ring of D0. -/
def State.streamRing (s : State) (r : Nat) : Bool :=
  s.on .BCKT_RING_CFG_EN r && s.rd .BCKT_RING_CFG_TYPE r == 3 && s.ringDom r == 0

/-- The rules of Table 19.7, rights apart. -/
def checkFathom (t : State) : Option Breach :=
  let r := t.rd .FTHM_DUMP_CFG_DUMP_RING
  firstBreach [
    (1, broken (t.rd .FTHM_DUMP_CFG_DUMP_S == 0 || 900 < t.rd .FTHM_DUMP_CFG_DUMP_S)),
    (2, broken (t.on .FTHM_DUMP_CFG_DUMP_EN &&
      !(t.streamRing r && dumpRecords (t.rd .FTHM_DUMP_CFG_SEL) ≤ t.ringSize r))),
    (3, broken (t.rd .FTHM_SAMP_CFG_SAMP_EN != 0 && !t.streamRing (t.rd .FTHM_SAMP_CFG_SAMP_RING)))]

end Sys2Proof.Machine
end

