-- ==== Sys2Proof/Machine/Lanyard.lean ====
section
/-! DEFINITION. Lanyard (chapter 11): the mate link's states and packets, claims and Clove gates, checkpoints, rehearsal, takeover. -/

namespace Sys2Proof.Machine

open Sys2Proof

/-- What Lanyard holds, replaced. -/
def State.setLny (s : State) (x : LanyardInt) : State := { s with lanyard := x }

/-- Whether MATE is in force. -/
def State.mate (s : State) : Bool := s.on .TOP_MODE_STAT_MATE_ACTIVE

/-- The state of the link (Table 11.2). -/
def State.linkState (s : State) : Nat := s.rd .LNYD_STAT_LSTATE

/-- An event of Lanyard: all belong to D0. -/
def State.mateEvent (s : State) (f : Fld) (code : Nat) (params : List Nat) : State := s.raise f code 0 params

/-- The device whose gates are open is active (R299). -/
def State.matActive (s : State) : Bool := s.mate && s.on .LNYD_STAT_GATES_OPEN

/-! ### Claims and gates (R293 to R298) -/

/-- The Clove gates decide (R296): a conflict of equal numbers closes both devices' gates; a change of the gates raises event 0x9006 and
the lasers follow. -/
def State.refreshGates (s : State) : State :=
  let claiming := s.on .LNYD_STAT_CLAIMING
  let part := s.on .LNYD_STAT_PART_CLAIMS
  let known := s.on .LNYD_STAT_NUM_KNOWN
  let own := s.rd .LNYD_CLAIM_CLAIM_NUM
  let far := s.rd .LNYD_STAT_PART_NUM
  let conflict := s.mate && claiming && part && known && own == far
  let open_ := if s.mate then claiming && (!part || (known && decide (far < own) && s.lanyard.gapDone)) else !s.releases
  let rises := conflict && !s.on .LNYD_STAT_CONFLICT
  let s := s.wr .LNYD_STAT_CONFLICT (b2n conflict)
  let s := if rises then s.mateEvent .LNYD_EVT_CONFLICT 0x9004 [] else s
  let s := if s.on .LNYD_STAT_GATES_OPEN = open_ then s
    else (s.wr .LNYD_STAT_GATES_OPEN (b2n open_)).mateEvent .LNYD_EVT_GATE 0x9006 [b2n open_]
  s.refreshTxen

/-- The claiming level (R293, R295): held back while CLM_IN[0] is asserted unless REVERT is set; when it rises beside a claiming partner
the gap starts (R296). CLM_OUT[0] follows, and the gates decide. -/
def State.refreshClaim (s : State) : State :=
  let may := s.mate && s.on .LNYD_CLAIM_CLAIM_EN && s.alive 18 && s.boot.rootLocked && !s.boot.shutdown
  let was := s.on .LNYD_STAT_CLAIMING
  let part := s.on .LNYD_STAT_PART_CLAIMS
  let now := may && (was || !part || s.on .LNYD_CLAIM_REVERT)
  let s := if now && !was then s.setLny { s.lanyard with gapDone := !part } else s
  let s := s.wr .LNYD_STAT_CLAIMING (b2n now)
  { s with pins := { s.pins with clmOut0 := now } }.refreshGates

/-- CLM_OUT[0] is forced low by the island (R293). -/
def State.dropClaim (s : State) : State :=
  { s.wr .LNYD_STAT_CLAIMING 0 with pins := { s.pins with clmOut0 := false } }.refreshGates

/-- The frame that CLM_OUT[1] repeats (R294): start pattern, CLAIM_NUM, CRC-8. -/
def claimFrame (num : Nat) : Nat :=
  0x7E <<< 24 + (num % 65536) <<< 8 + crc8 [BitVec.ofNat 8 (num / 256), BitVec.ofNat 8 num]

/-- The partner's number taken from its two sources (R294): the pins govern; where they disagree, event 0x9005. The leaders of the split
groups follow it (R268). -/
def State.refreshNumber (s : State) : State :=
  let x := s.lanyard
  let bad := match x.pinNum, x.helloNum with
    | some a, some b => a != b
    | _, _ => false
  let num := match x.pinNum with
    | some a => some a
    | none => x.helloNum
  let rises := bad && !s.on .LNYD_STAT_NUM_MISMATCH
  let s := s.wr .LNYD_STAT_NUM_MISMATCH (b2n bad)
  let s := if rises then s.mateEvent .LNYD_EVT_MISMATCH 0x9005 [] else s
  ((s.wr .LNYD_STAT_NUM_KNOWN (b2n num.isSome)).wr .LNYD_STAT_PART_NUM (num.getD 0)).refreshLeaders.refreshGates

/-- A claim frame on CLM_IN[1] (R294): three in a row, identical and with a good CRC, give the partner's number. -/
def execClaimFrameReceived (w : BitVec 32) (s : State) : Res := act 18 s fun s =>
  let num := bits w.toNat 23 8
  let x := s.lanyard
  if w.toNat = claimFrame num then
    let run := if x.frameRun ≠ 0 ∧ x.frameNum = num then min 3 (x.frameRun + 1) else 1
    let s := s.setLny { x with frameNum := num, frameRun := run, pinNum := if run = 3 then some num else x.pinNum }
    if run = 3 then s.refreshNumber else s
  else s.setLny { x with frameRun := 0 }

/-- The gap ends (R296). -/
def execClaimGapDone (s : State) : Res := act 18 s fun s =>
  if s.on .LNYD_STAT_CLAIMING && s.on .LNYD_STAT_PART_CLAIMS then (s.setLny { s.lanyard with gapDone := true }).refreshGates else s

/-! ### Link states (R289 to R291) -/

/-- IDLE, SYNC and CDR_LOCK of the lanes when an attempt starts or the transmitters go idle; one that leaves idle sends its exit burst
(R291). -/
def State.resetLanes (s : State) : State :=
  let sends := s.linkState == 1 || s.linkState == 2 || s.rd .LNYD_STAT_ATTEMPT != 0
  s.each [0, 1, 2, 3] fun l t =>
    let runs := sends && l < t.mateLanes
    let t := if runs && t.on .LNYD_LANE_STAT_IDLE l then t.emit (.exitBurst l) else t
    ((t.wr .LNYD_LANE_STAT_SYNC 0 l).wr .LNYD_LANE_STAT_CDR_LOCK 0 l).wr .LNYD_LANE_STAT_IDLE (b2n !runs) l

/-- An eye scan cut short by a loss of sync (R292). -/
def State.cutScan (s : State) (l : Nat) : State :=
  if s.on .LNYD_LANE_CFG_SCAN_REQ l then (s.wr .LNYD_LANE_CFG_SCAN_REQ 0 l).wr .LNYD_EYE_SCAN_VALID 0 l else s

/-- A set discarded (R300): counted, event 0x9007 with the first failed check. -/
def State.badSet (s : State) (check : Nat) : State :=
  ((s.setLny { s.lanyard with arriving := none }).count .LNYD_CNT 1 1).mateEvent .LNYD_EVT_SET_BAD 0x9007 [check]

/-- The link leaves Up: what waits is dropped, a set that is arriving fails check 1, scans are cut short (R292, R304). -/
def State.leaveUp (s : State) : State :=
  let s := s.setLny { s.lanyard with lsWait := [], ckWait := [], sending := none, creditDue := false }
  let s := match s.lanyard.arriving with
    | some a => if a.complete then s else s.badSet 1
    | none => s
  s.each [0, 1, 2, 3] fun l t => t.cutScan l

/-- An attempt starts, with its number. -/
def State.mateAttempt (s : State) (k : Nat) : State :=
  ((s.setLny { s.lanyard with hellos := 0, heard := false }).wr .LNYD_STAT_ATTEMPT k).resetLanes

/-- Training is entered as a new sequence. -/
def State.mateTraining (s : State) : State := (s.wr .LNYD_STAT_LSTATE 1).mateAttempt 1

/-- Up is entered (event 0x9001); the counts of R288 run from 0. -/
def State.mateUp (s : State) : State :=
  let s := s.setLny { s.lanyard with
    lsSent := 0, ckSent := 0, lsBack := 0, ckBack := 0, lsTaken := 0, ckTaken := 0, creditDue := false }
  ((s.wr .LNYD_STAT_LSTATE 2).wr .LNYD_STAT_ATTEMPT 0).mateEvent .LNYD_EVT_LINK_UP 0x9001 []

/-- The link is lost: Training anew, with event 0x9003. -/
def State.mateLost (s : State) : State := s.leaveUp.mateTraining.mateEvent .LNYD_EVT_LINK_LOST 0x9003 []

/-- MATE comes into force or leaves it (Table 11.2). -/
def State.mateChanged (s : State) : State :=
  if s.mate then s.mateTraining.refreshClaim
  else (((s.leaveUp.wr .LNYD_STAT_LSTATE 0).wr .LNYD_STAT_ATTEMPT 0).resetLanes).refreshClaim

/-- 100 ms of an attempt pass without success (R289). -/
def execTrainingAttemptExpiry (s : State) : Res := act 18 s fun s =>
  let k := s.rd .LNYD_STAT_ATTEMPT
  if s.linkState = 1 then
    if k < 3 then s.mateAttempt (k + 1)
    else (((s.wr .LNYD_STAT_LSTATE 3).wr .LNYD_STAT_ATTEMPT 0).resetLanes).mateEvent .LNYD_EVT_ABSENT 0x9002 []
  else if s.linkState = 3 ∧ k ≠ 0 then (s.wr .LNYD_STAT_ATTEMPT 0).resetLanes
  else s

/-- Three HELLO intervals without a valid HELLO (Table 11.2). -/
def execHelloTimeout (s : State) : Res := act 18 s fun s => if s.linkState = 2 then s.mateLost else s

/-- A lane loses sync (Table 11.2). -/
def execMateLaneSyncLoss (l : MateLane) (s : State) : Res := act 18 s fun s =>
  let s := (s.cutScan l).wr .LNYD_LANE_STAT_SYNC 0 l
  if s.linkState = 2 ∧ l.val < s.mateLanes then s.mateLost else s

/-- Every 1 s in Mate-absent one attempt is made (Table 11.2). -/
def execMateAbsentRetry (s : State) : Res := act 18 s fun s => if s.linkState = 3 then s.mateAttempt 1 else s

/-! ### HELLO and CREDIT (R287, R288) -/

/-- Whether the link sends: Training, Up, or an attempt of Mate-absent. -/
def State.mateSends (s : State) : Bool := s.linkState == 1 || s.linkState == 2 || s.rd .LNYD_STAT_ATTEMPT != 0

/-- The HELLO payload (Table 11.1a). -/
def State.helloBytes (s : State) : List Byte :=
  let f := b2n s.lanyard.heard + b2n s.lanyard.suspect <<< 1 + s.rd .LNYD_STAT_CLAIMING <<< 2 + s.rd .LNYD_STAT_GATES_OPEN <<< 3 +
    s.rd .LNYD_CLAIM_CLAIM_EN <<< 4
  padTo 16 (leBytes 1 f ++ leBytes 1 (s.rd .LNYD_CFG_LANES) ++ leBytes 2 (s.rd .LNYD_CLAIM_CLAIM_NUM) ++
    leBytes 2 Config.stateFormat ++ [0, 0] ++ leBytes 4 (s.rd .LNYD_STAT_LAST_SET))

/-- A HELLO packet is sent, every 100 µs (R289). -/
def execHelloSend (s : State) : Res := act 18 s fun s => if s.mateSends then s.sendPacket 0 0 s.helloBytes else s

/-- The payload of a packet that passes the checks of R286 and belongs to a class. -/
def packetPayload (p : List Byte) (bad : Bool) (cls : Nat) : Option (List Byte) :=
  if !bad && crcOk p && byteAt p 0 == cls && p.length == leAt p 2 2 + 12 && 16 ≤ leAt p 2 2 && leAt p 2 2 ≤ 256 then
    some ((p.drop 8).take (leAt p 2 2))
  else none

/-- Whether a packet arrives damaged: by its lanes, or by a recentred crossing (R37). -/
def State.packetBad (s : State) (bad : Bool) : Bool := bad || s.lanyard.hit

/-- The damage of a recentred crossing has been taken up by a packet. -/
def State.packetSeen (s : State) : State := s.setLny { s.lanyard with hit := false }

/-- A packet discarded (R286). -/
def State.badPacket (s : State) : State := s.count .LNYD_CNT 1 0

/-- SYNC and CDR_LOCK of the lanes in use, as they are when a packet arrives. -/
def State.showSync (s : State) (synced : Nat) : State :=
  s.each [0, 1, 2, 3] fun l t =>
    if l < t.mateLanes then
      (t.wr .LNYD_LANE_STAT_SYNC (b2n (synced.testBit l)) l).wr .LNYD_LANE_STAT_CDR_LOCK (b2n (synced.testBit l)) l
    else t

/-- STBY_SUSPECT of LNYD_STAT (R301). -/
def State.showSuspect (s : State) : State := s.wr .LNYD_STAT_STBY_SUSPECT (b2n (s.lanyard.suspect || s.lanyard.farSuspect))

/-- A HELLO packet arrives: the partner's view; with three in a row that carry ACK and every lane in use in sync, the attempt succeeds
(R288, R289). The last operand: the lanes in sync at that time; a lane that was not in sync 1 µs after its exit burst began counts as
failed for the attempt and is none of them (R291). -/
def execHelloReceived (p : List Byte) (bad : Bool) (synced : BitVec 4) (s : State) : Res := act 18 s fun s =>
  if !s.mateSends then s
  else
    let bad := s.packetBad bad
    let s := s.packetSeen
    match packetPayload p bad 0 with
    | none => s.badPacket
    | some h =>
      let s := if s.linkState = 2 then s else s.showSync synced.toNat
      let x := s.lanyard
      let n := if bit (byteAt h 0) 0 then min 3 (x.hellos + 1) else 0
      let s := (s.setLny { x with
        heard := true, hellos := n, farSuspect := bit (byteAt h 0) 1, helloNum := some (leAt h 2 2) }).showSuspect.refreshNumber
      let ready := (List.range 4).all fun l => s.mateLanes ≤ l || s.on .LNYD_LANE_STAT_SYNC l
      if s.linkState ≠ 2 ∧ n = 3 ∧ ready then s.mateUp else s

/-- A CREDIT packet is sent (R287), only when a count in it has changed. -/
def execCreditSend (s : State) : Res := act 18 s fun s =>
  let x := s.lanyard
  if s.linkState = 2 && x.creditDue then
    (s.setLny { x with creditDue := false }).sendPacket 1 0 (padTo 16 (leBytes 4 x.lsTaken ++ leBytes 4 x.ckTaken))
  else s

/-- A CREDIT packet arrives (R288): what waited for credit is sent. -/
def execCreditReceived (p : List Byte) (bad : Bool) (s : State) : Res := act 18 s fun s =>
  if s.linkState ≠ 2 then s
  else
    let bad := s.packetBad bad
    let s := s.packetSeen
    match packetPayload p bad 1 with
    | none => s.badPacket
    | some c => (s.setLny { s.lanyard with lsBack := leAt c 0 4, ckBack := leAt c 4 4 }).pump

/-! ### Eye scan (R292) -/

/-- A write of LNYD_LANE_CFG: DWELL is clipped (R518); SCAN_REQ starts a scan of a lane in sync, on another it ends at once. -/
def State.setMateLane (s : State) (l v : Nat) : State :=
  let s := ((s.wr .LNYD_LANE_CFG_DWELL (min 10 (bits v 11 8)) l).wr .LNYD_LANE_CFG_RX_INV (bits v 1 1) l).wr .LNYD_LANE_CFG_TX_INV
    (bits v 0 0) l
  if bit v 2 && !s.on .LNYD_LANE_CFG_SCAN_REQ l then
    if s.on .LNYD_LANE_STAT_SYNC l then s.wr .LNYD_LANE_CFG_SCAN_REQ 1 l else s.wr .LNYD_EYE_SCAN_VALID 0 l
  else s

/-- The same with the Installer rights for D0 that LNYD registers need (cause 0x4 without them, Table 11.7). -/
def State.mateLaneWrite (s : State) (req : Requester) (l v : Nat) : State :=
  s.writeOr req 2 [0] (regAddr ⟨.LNYD_LANE_CFG, l, 0, 0⟩) (s.reg .LNYD_LANE_CFG l) v false 18 4 0 fun t => t.setMateLane l v

/-- SCAN_REQ written. -/
def execMateScanReq (req : Requester) (l : MateLane) (s : State) : Res := access req 18 s fun s =>
  s.mateLaneWrite req l (setBits (s.reg .LNYD_LANE_CFG l) 2 2 1)

/-- A scan ends: its result, the spans of a width sweep and a height sweep at a ratio below 10^(−6), event 0x900B; it joins the lane margin
history. The operand: the disagreements counted at the points of the two sweeps. -/
def execMateScanDone (l : MateLane) (sweeps : List (List Nat)) (s : State) : Res := act 18 s fun s =>
  if !s.on .LNYD_LANE_CFG_SCAN_REQ l then s
  else
    let span (k : Nat) : Nat := eyeSpan 6 (s.rd .LNYD_LANE_CFG_DWELL l) (sweeps.getD k []) % 256
    let s := (s.wr .LNYD_LANE_CFG_SCAN_REQ 0 l).setReg .LNYD_EYE (0x10000 + span 0 <<< 8 + span 1) l
    { s with age := { s.age with margins := (true, l.val, span 1, span 0) :: s.age.margins } }.mateEvent
      .LNYD_EVT_SCAN_DONE 0x900B []

/-! ### Checkpoints (R299, R300) -/

/-- Whether the attached-memory region CK_REGION is Ready. -/
def State.ckReady (s : State) : Bool := s.rd .BCKT_REGION_RSTATE (s.rd .LNYD_CK_CFG_CK_REGION) == 2

/-- The latest 8 sets in CK_REGION (R300). -/
def State.regionPut (s : State) (k : CkSet) : State :=
  if s.ckReady then s.setLny { s.lanyard with region := (k :: s.lanyard.region).take 8 } else s

/-- A set cut into packets of 256 payload bytes (flags, payload). -/
def ckPackets (fuel : Nat) (first : Bool) (bytes : List Byte) : List (Nat × List Byte) :=
  match fuel with
  | 0 => []
  | k + 1 =>
    if bytes.length ≤ 256 then [(b2n first + 2, bytes)]
    else (b2n first, bytes.take 256) :: ckPackets k false (bytes.drop 256)

/-- A set's bytes filled with zeros where its last packet would have fewer than 16 (Table 11.1). -/
def ckFill (payload : List Byte) : List Byte :=
  let rest := (52 + payload.length) % 256
  if 0 < rest ∧ rest < 16 then payload ++ List.replicate (16 - rest) 0 else payload

/-- The set header (Table 11.4). -/
def ckHeader (k : CkSet) : List Byte :=
  leBytes 4 k.seq ++ leBytes 6 k.tod ++ leBytes 2 Config.stateFormat ++ leBytes 4 k.body.length ++ leBytes 4 (crc32c k.body) ++
    padTo 32 k.digest

/-- The restorable state of the services at an instant (R299): of the Hub lines' leaves their states, timing advances, profiles and
deficits, of the groups the commands in force, the performance counts, the timing selection state of R329, the key-exchange generations,
and the period numbers. -/
def State.snapshot (s : State) : Restored :=
  let hubs := ([0, 1, 2] : List Nat).filter fun n => s.lineMode n == 2
  let leafAt (n i : Nat) : RestoredLeaf :=
    let x := s.leaf n i
    ⟨n, i, s.leafState n i, s.rd .BGHT_LEAF_ST_TA n i, x.prof.id, x.prof.base, x.prof.ent, x.deficit⟩
  { leaves := hubs.flatMap fun n => (s.leavesOn n).map (leafAt n)
    commands := ((List.range 16).filter fun g => s.on .BEND_PG_CFG_EN g).map fun g => (g, (s.grp g).lockout, (s.grp g).force)
    counts := ([0, 1, 2] : List Nat).flatMap fun n => (List.range 16).flatMap fun k =>
      [(n, false, k, s.rd .HTCH_PM15_COUNT n k), (n, true, k, s.rd .HTCH_PM24_COUNT n k)]
    force := (s.rd .HLYD_SEL_CFG_FORCE_EN, s.rd .HLYD_SEL_CFG_FORCE_REF)
    wtr := (List.range 10).map fun r => (r, s.rd .HLYD_REF_ST_WTR_LEFT r)
    disputes := s.halyard.disputes
    gens := s.kcs.map fun e => (e.1, e.2.genTx, e.2.genRx)
    periods := hubs.map fun n => (n, (s.bgt n).clock) }

/-- Every 10 ms the active device writes a checkpoint set, of at most 24 MiB, and sends it (R299); while the one before is being sent, it is
skipped. The operand: whether the packets of the set before have left the lanes. -/
def execCheckpointSetDue (sent : Bool) (s : State) : Res := act 18 s fun s =>
  if !s.matActive then s
  else if s.lanyard.sending.isSome || !sent then (s.count .LNYD_CNT 1 2).mateEvent .LNYD_EVT_SET_SKIP 0x900A []
  else
    let seq := ((s.lanyard.own.map fun k => k.seq).getD (s.rd .LNYD_STAT_LAST_SET) + 1) % 2 ^ 32
    let r := s.snapshot
    let body := ckFill ((Config.serviceBytes r).take (25165824 - 68))
    let k : CkSet := { seq := seq, tod := s.tod, digest := padTo 32 (Config.stateDigest r), body := body }
    let s := s.setLny { s.lanyard with own := some k }
    if s.linkState = 2 then
      let bytes := ckHeader k ++ k.body
      (s.setLny { s.lanyard with sending := some seq, ckWait := ckPackets bytes.length true bytes }).pump
    else s

/-- Every 100 ms the active device writes its own set to its own attached memory (R300). -/
def execCheckpointSelfWrite (s : State) : Res := act 18 s fun s =>
  match s.lanyard.own with
  | some k => if s.matActive then s.regionPut k else s
  | none => s

/-- A CKPT packet arrives, in the order of SEQ that the receiver restores (R286, R288): it counts as returned; the first packet of a set starts it anew, and a set that was not complete
fails. -/
def execCkptPacketReceived (p : List Byte) (bad : Bool) (s : State) : Res := act 18 s fun s =>
  if s.linkState ≠ 2 then s
  else
    let bad := s.packetBad bad
    let s := s.packetSeen
    let s := s.setLny { s.lanyard with ckTaken := (s.lanyard.ckTaken + 1) % 2 ^ 32, creditDue := true }
    match packetPayload p bad 3 with
    | none => s.badPacket.setLny { s.lanyard with arriving := s.lanyard.arriving.map fun a => { a with bad := true } }
    | some b =>
      let last := bit (byteAt p 1) 1
      if bit (byteAt p 1) 0 then
        let s := if s.lanyard.arriving.isSome then s.badSet 1 else s
        s.setLny { s.lanyard with arriving := some { bytes := b, complete := last } }
      else
        s.setLny { s.lanyard with
          arriving := s.lanyard.arriving.map fun a => { a with bytes := a.bytes ++ b, complete := last } }

/-- The set that some bytes hold. -/
def ckOf (b : List Byte) : CkSet :=
  { seq := leAt b 0 4, tod := leAt b 4 6, digest := (b.drop 20).take 32, body := b.drop 52 }

/-- Whether a leaf of a set is plausible (R300): a state that its entry, enabled here, may be in, and a timing advance within the hub's
ranging window, the 200 µs from RNG_BASE on (R134; DEDUCED, log entry 94). -/
def State.leafPlausible (s : State) (r : RestoredLeaf) : Bool :=
  let from_ := s.rd .BGHT_LINE_CFG_RNG_BASE r.line * 324000
  s.on .BGHT_LEAF_EN r.line r.leaf && r.st ≤ 4 &&
    (r.st == 0 || (0 ≤ signed 32 r.ta && (from_ : Int) ≤ signed 32 r.ta && signed 32 r.ta < (from_ : Int) + 200 * 324000))

/-- The services' plausibility checks of a set (R300, check 5): the leaves, the period numbers, which advance on those of the latest valid
set, and the groups that the protection commands name, which are enabled. -/
def State.plausible (s : State) (r : Restored) : Bool :=
  let old := (s.lanyard.latest.map fun k => (Config.serviceState k.body).periods).getD []
  r.leaves.all s.leafPlausible &&
    (r.periods.all fun p => old.all fun o => o.1 != p.1 || decide (o.2 < p.2)) &&
    r.commands.all fun c => (!c.2.1 && c.2.2.isNone) || s.on .BEND_PG_CFG_EN c.1

/-- The first failed check of a set (R300); 0: it passes. -/
def State.ckCheck (s : State) (a : CkRx) : Nat :=
  let b := a.bytes
  if a.bad || !a.complete || b.length < 52 || leAt b 12 4 != b.length - 52 then 1
  else if leAt b 16 4 ≠ crc32c (b.drop 52) then 2
  else if leAt b 10 2 ≠ Config.stateFormat % 65536 then 3
  else if (s.lanyard.latest.map fun k => isAfter (leAt b 0 4) k.seq) = some false then 4
  else if !s.plausible (Config.serviceState (b.drop 52)) then 5
  else 0

/-- A complete set is validated (R300): it replaces the latest one, which is kept as the previous; a gap in the numbers is counted; every
tenth goes to CK_REGION. -/
def execCheckpointSetReceived (s : State) : Res := act 18 s fun s =>
  match s.lanyard.arriving with
  | none => s
  | some a =>
    let c := s.ckCheck a
    if c ≠ 0 then s.badSet c
    else
      let x := s.lanyard
      let k := ckOf a.bytes
      let gap := (x.latest.map fun o => k.seq != (o.seq + 1) % 2 ^ 32) = some true
      let s := if gap then s.count .LNYD_CNT 1 3 else s
      let s := (s.setLny { s.lanyard with
        arriving := none, latest := some k, previous := x.latest, valid := (x.valid + 1) % 10 }).wr .LNYD_STAT_LAST_SET k.seq
      if x.valid = 9 then s.regionPut k else s

/-- The rehearsal of the standby (R301): the digest of the state restored into the scratch area is compared with that of the latest set; the
operand: the restore faults. It is abandoned while a takeover restores (R304). -/
def execRehearsal (faulted : Bool) (s : State) : Res := act 18 s fun s =>
  match s.lanyard.latest with
  | none => s
  | some k =>
    if !s.mate || s.on .LNYD_STAT_GATES_OPEN || s.lanyard.takeover.isSome then s
    else if faulted || padTo 32 (Config.stateDigest (Config.serviceState k.body)) != k.digest then
      (s.setLny { s.lanyard with suspect := true }).showSuspect.mateEvent .LNYD_EVT_REHEARSE_FAIL 0x9008 []
    else s

/-! ### Takeover (R302) -/

/-- A change of the synchronised CLM_IN[0] (R296): the claim held back is asserted, the gates decide; when they open because the partner's
level fell, the takeover starts, from the latest valid set on the die or else in CK_REGION. -/
def execPartnerClaimChange (level : Bool) (s : State) : Res :=
  let s := { s with pins := { s.pins with clmIn0 := level } }
  act 18 s fun s =>
    if s.on .LNYD_STAT_PART_CLAIMS = level then s
    else
      let was := s.on .LNYD_STAT_GATES_OPEN
      let s := ((s.wr .LNYD_STAT_PART_CLAIMS (b2n level)).setLny { s.lanyard with gapDone := true }).refreshClaim
      if s.mate && !level && !was && s.on .LNYD_STAT_GATES_OPEN then
        s.setLny { s.lanyard with
          takeover := match s.lanyard.latest with
            | some k => some k
            | none => if s.ckReady then s.lanyard.region.head? else none }
      else s

/-- A leaf restored (R302): an Active one enters Stale; timing advance and profile as the set holds them. -/
def State.restoreLeaf (s : State) (r : RestoredLeaf) : State :=
  if s.on .BGHT_LEAF_EN r.line r.leaf then
    let p : Profile := { id := r.id, base := r.base, ent := r.ent }
    let s := (s.wr .BGHT_LEAF_ST_TA r.ta r.line r.leaf).setProfile r.line r.leaf p
    let s := s.setLeaf r.line r.leaf { s.leaf r.line r.leaf with deficit := r.deficit }
    s.setLeafState r.line r.leaf (if r.st = 2 then 3 else r.st)
  else s

/-- A group's commands restored. -/
def State.restoreCommand (s : State) (c : Nat × Bool × Option Nat) : State :=
  (s.setGrp c.1 { s.grp c.1 with lockout := c.2.1, force := c.2.2 }).showCmd c.1

/-- The timing selection restored over the device's own monitor results (R329): the WTR time left holds a reference that has not failed here,
and the members of an open dispute are Disputed. -/
def State.restoreTiming (s : State) (r : Restored) : State :=
  let s := (s.wr .HLYD_SEL_CFG_FORCE_EN r.force.1).wr .HLYD_SEL_CFG_FORCE_REF r.force.2
  let s := r.wtr.foldl (fun t w =>
    if w.2 ≠ 0 ∧ 2 ≤ t.rd .HLYD_REF_ST_RSTATE w.1 then
      (t.wr .HLYD_REF_ST_RSTATE 3 w.1).wr .HLYD_REF_ST_WTR_LEFT w.2 w.1
    else t) s
  let s := { s with halyard := { s.halyard with disputes := r.disputes } }
  r.disputes.foldl (fun t d => t.markGroup (t.rankGroup d.1) 5) s

/-- Every service restored from what a set holds; hub time goes on from the set's period number plus the periods elapsed since (R302). -/
def State.restore (s : State) (r : Restored) (elapsed : Nat) : State :=
  let s := r.leaves.foldl State.restoreLeaf s
  let s := r.commands.foldl State.restoreCommand s
  let s := r.counts.foldl (fun t c =>
    if c.2.1 then t.wr .HTCH_PM24_COUNT c.2.2.2 c.1 c.2.2.1 else t.wr .HTCH_PM15_COUNT c.2.2.2 c.1 c.2.2.1) s
  let s := s.restoreTiming r
  let s := r.gens.foldl (fun t g => t.setKc g.1 { t.kc g.1 with genTx := g.2.1, genRx := g.2.2 }) s
  r.periods.foldl (fun t p => (t.setBgt p.1 { t.bgt p.1 with clock := p.2 + elapsed }).wr .BGHT_STAT_PERIOD
    ((p.2 + elapsed) % 2 ^ 22) p.1) s

/-- The services restored by a takeover run (R302): TAKEOVER, event 0x9009 with SET_SEQ and TOD of the set used. The operand: the allocation
periods elapsed since the snapshot. -/
def execTakeoverRestoreDone (elapsed : Nat) (s : State) : Res := act 18 s fun s =>
  match s.lanyard.takeover with
  | none => s
  | some k =>
    (((s.setLny { s.lanyard with takeover := none }).restore (Config.serviceState k.body) elapsed).wr .LNYD_STAT_TAKEOVER 1).mateEvent .LNYD_EVT_TAKEOVER 0x9009
      [k.seq, k.tod % 2 ^ 32, k.tod >>> 32]

/-! ### Commit (Table 11.7) -/

/-- The rules of Table 11.7, rights apart. -/
def checkLanyard (old t : State) : Option Breach :=
  firstBreach [
    (1, broken (t.rd .LNYD_CFG_GAP == 0 || t.rd .LNYD_CFG_LANES == 3 || t.rd .LNYD_CK_CFG_REHEARSE == 0)),
    (2, broken (old.mate && (old.rd .LNYD_CLAIM_CLAIM_NUM != t.rd .LNYD_CLAIM_CLAIM_NUM ||
      old.rd .LNYD_CFG_LANES != t.rd .LNYD_CFG_LANES))),
    (3, broken (t.on .LNYD_CLAIM_CLAIM_EN && t.rd .LNYD_CLAIM_CLAIM_NUM == 0))]

/-- What an applied LNYD commit does. -/
def afterLanyard (new : State) : State :=
  { new with pins := { new.pins with clmFrame := claimFrame (new.rd .LNYD_CLAIM_CLAIM_NUM) } }.refreshClaim.refreshLeaders

/-! ### Crossings (R37) -/

/-- The block that owns an elastic crossing (Table 1.13): the lanes' and quads' is Twine's, the mate lanes' Lanyard's. -/
def crossingOwner (d : Nat) : Option Nat :=
  if 12 ≤ d ∧ d ≤ 71 then some 17 else if 75 ≤ d ∧ d ≤ 79 then some 18 else none

/-- What a recentring inside a frame loses or repeats is marked errored toward the next stage (R37): the clients of a receive lane, or of a
quad's four lanes toward the host, or the packet that a mate lane is bringing. -/
def State.recentreData (s : State) (d : Nat) : State :=
  if d < 60 then s.recentreLane (d - 12) false
  else if d < 72 then s.each [0, 1, 2, 3] fun l t => t.recentreLane (4 * (d - 60) + l) true
  else if d < 79 then s.setLny { s.lanyard with hit := true }
  else s

/-- FIFO_RECENTRE: an elastic crossing recentres, within a frame or between frames: counted per domain, and an event from its owner with the
domain number. The spec gives the event neither a cause nor a control domain: D0 (log entries 23 and 74). -/
def execFifoRecentre (dom : ClockDom) (inFrame : Bool) (s : State) : Res :=
  .next (match s.boot.coreUp, crossingOwner dom.val with
    | true, some b =>
      let s := if s.alive 4 then s.count .FTHM_XING 1 dom else s
      let s := if inFrame then s.recentreData dom.val else s
      if s.alive b then s.event (b * 2048 + Config.crossingCause % 2048) 0 [dom] else s
    | _, _ => s)

end Sys2Proof.Machine
end

