-- ==== Sys2Proof/Machine/Memory.lean ====
section
/-! DEFINITION. Attached memory (chapter 14): memory ports, regions, poison, and the memory commands. -/

namespace Sys2Proof.Machine

open Sys2Proof

/-! ### Regions (R371 to R374) -/

/-- Whether a region uses a port. -/
def State.regionUses (s : State) (e p : Nat) : Bool := s.on .BCKT_REGION_INTLV e || s.rd .BCKT_REGION_PORT e == p

/-- Whether every port that an enabled region uses is Up and the region fits (Table 14.3). -/
def State.regionUsable (s : State) (e : Nat) : Bool :=
  s.on .BCKT_REGION_EN e && [0, 1].all fun p =>
    !s.regionUses e p || (s.rd .BCKT_MEM_STAT_PSTATE p == 3 &&
      decide (s.rd .BCKT_REGION_BASE e + s.rd .BCKT_REGION_SIZE e ≤ s.rd .BCKT_MEM_STAT_CAP p))

/-- What Tally holds, replaced. -/
def State.setTly (s : State) (x : TallyInt) : State := { s with tally := x }

/-- A line's capture. -/
def State.snap (s : State) (n : Nat) : SnapInt := s.tally.snaps.get {} n

/-- The same, replaced. -/
def State.setSnap (s : State) (n : Nat) (x : SnapInt) : State := s.setTly { s.tally with snaps := s.tally.snaps.put {} n x }

/-- The snapshot drains to a region start again from the beginning (R458). -/
def State.restartDrains (s : State) (e : Nat) : State :=
  s.each [0, 1, 2] fun n t => if t.rd .TALY_SNAP_ST_REGION n = e then t.setSnap n { t.snap n with draining := false } else t

/-- What follows when a region leaves Ready (R375): its rings are Halted, its groups pass through, its checkpoint sets are lost, its snapshot
drains start again; or when it becomes Ready: its groups align again (R281). -/
def State.regionChanged (s : State) (e : Nat) (ready : Bool) : State :=
  if ready then s.regionGroups e true
  else
    let s := ((s.haltRegion e).regionGroups e false).restartDrains e
    if s.rd .LNYD_CK_CFG_CK_REGION = e then s.setLny { s.lanyard with region := [] } else s

/-- A region enters a state (R373): event 0x080B with the port, the region and the state. -/
def State.setRegion (s : State) (e st : Nat) : State :=
  let old := s.rd .BCKT_REGION_RSTATE e
  let s := if st = 1 then s.wr .BCKT_REGION_FILL_LEFT (s.rd .BCKT_REGION_SIZE e) e else s
  if old = st then s
  else
    let p := s.regionPort e
    let s := (s.wr .BCKT_REGION_RSTATE st e).raise .BCKT_MEM_EVT_REGION 0x080B 0 [p, e, st] false p
    if old = 2 then s.regionChanged e false else if st = 2 then s.regionChanged e true else s

/-- A region taken anew after a change of its configuration or its ports. -/
def State.refreshRegion (s : State) (e : Nat) : State :=
  if !s.regionUsable e then s.setRegion e 0
  else if s.rd .BCKT_REGION_RSTATE e = 0 then s.setRegion e 1
  else s

/-- Every region taken anew. -/
def State.refreshRegions (s : State) : State := s.each (List.range 256) fun e t => t.refreshRegion e

/-- Whether a region is in use (R372): named by an enabled ring, an enabled protection group or CK_REGION. -/
def State.regionUsed (s : State) (e : Nat) : Bool :=
  (s.listedRings.any fun r => s.on .BCKT_RING_CFG_EN r && s.on .BCKT_RING_CFG_LOC r && s.rd .BCKT_RING_CFG_REGION r == e) ||
    ((List.range 16).any fun g =>
      s.on .BEND_PG_CFG_EN g && s.on .BEND_PG_CFG_DSK_LOC g && s.rd .BEND_PG_CFG_ATT_REGION g == e) ||
    s.rd .LNYD_CK_CFG_CK_REGION == e

/-- The units that a region holds on each port it uses (R371). -/
def State.regionExtent (s : State) (e : Nat) : Nat :=
  if s.on .BCKT_REGION_INTLV e then s.rd .BCKT_REGION_SIZE e / 2 else s.rd .BCKT_REGION_SIZE e

/-- Whether two regions overlap on a port. -/
def State.regionsOverlap (s : State) (e f : Nat) : Bool :=
  [0, 1].any fun p => s.regionUses e p && s.regionUses f p &&
    decide (s.rd .BCKT_REGION_BASE e < s.rd .BCKT_REGION_BASE f + s.regionExtent f) &&
    decide (s.rd .BCKT_REGION_BASE f < s.rd .BCKT_REGION_BASE e + s.regionExtent e)

/-- Whether enabling a region breaks cause 0x7 (Table 14.2). -/
def State.regionBad (s : State) (e : Nat) : Bool :=
  let size := s.rd .BCKT_REGION_SIZE e
  size == 0 || 32768 < size || (s.on .BCKT_REGION_INTLV e && size % 2 == 1) ||
    (List.range 256).any fun f => f != e && s.on .BCKT_REGION_EN f && s.regionsOverlap e f

/-- A word of BCKT_REGION written with the rights it needs (R372). -/
def State.setRegionCfg (s : State) (e w v : Nat) : State :=
  let old := s.reg .BCKT_REGION e
  let new := rwWrite .BCKT_REGION old (setBits old (32 * w + 31) (32 * w) v)
  let t := s.setReg .BCKT_REGION new e
  if bit old 0 then
    if setBits new 0 0 1 ≠ old then s.refuse 1 1 e 0
    else if bit new 0 then s
    else if s.regionUsed e then s.refuse 1 8 e 0
    else t.refreshRegion e
  else if bit new 0 then
    if t.regionBad e then s.refuse 1 7 e 0 else t.refreshRegion e
  else t

/-- A write of a word of BCKT_REGION: Installer rights for D0 (cause 0x9). -/
def State.regionCfgWrite (s : State) (req : Requester) (e w v : Nat) : State :=
  let old := s.reg .BCKT_REGION e
  s.writeOr req 2 [0] (regAddr ⟨.BCKT_REGION, e, 0, 0⟩ + 4 * w) (bits old (32 * w + 31) (32 * w)) v false 1 9 e fun t =>
    t.setRegionCfg e w v

/-- The same as a row of the table. -/
def execRegionCfgWrite (req : Requester) (e : Region) (w : Fin 4) (v : BitVec 32) (s : State) : Res :=
  access req 1 s fun s => s.regionCfgWrite req e w v.toNat

/-- The zero-fill of a region completes (R374). -/
def execRegionFillDone (e : Region) (s : State) : Res := act 1 s fun s =>
  if s.rd .BCKT_REGION_RSTATE e = 1 then (s.wr .BCKT_REGION_FILL_LEFT 0 e).setRegion e 2 else s

/-! ### Memory ports (R369, R370) -/

/-- The state of a port (Table 14.1). -/
def State.memPort (s : State) (p : Nat) : Nat := s.rd .BCKT_MEM_STAT_PSTATE p

/-- Whether CXLA_PERST_N (0) or CXLB_PERST_N (1) is low (Table 21.7): in reset, and until the port leaves Off. -/
def State.perstLow (s : State) (p : Nat) : Bool := !s.alive 1 || s.memPort p == 0

/-- A port without its link: Off or Training. -/
def State.memDown (s : State) (p st : Nat) : State :=
  let keep := s.rd .BCKT_MEM_STAT_FAULT_CAUSE p
  ((s.setReg .BCKT_MEM_STAT (keep <<< 16 + st) p)).refreshRegions

/-- A write of BCKT_MEM_CFG (Table 14.8): Installer rights for D0; EN takes the port to Training or Off. -/
def State.memCfgWrite (s : State) (req : Requester) (p v : Nat) : State :=
  let old := s.reg .BCKT_MEM_CFG p
  let new := rwWrite .BCKT_MEM_CFG old v
  s.write req 2 [0] (regAddr ⟨.BCKT_MEM_CFG, p, 0, 0⟩) old v false fun t =>
    let t := t.setReg .BCKT_MEM_CFG new p
    if bit new 0 && t.memPort p == 0 then t.memDown p 1
    else if !bit new 0 && t.memPort p != 0 then (t.wr .BCKT_MEM_STAT_FAULT_CAUSE 0 p).memDown p 0
    else t

/-- EN = 1 written. -/
def execMemPortEnable (req : Requester) (p : MemPort) (s : State) : Res := access req 1 s fun s =>
  s.memCfgWrite req p (setBits (s.reg .BCKT_MEM_CFG p) 0 0 1)

/-- EN = 0 written. -/
def execMemPortDisable (req : Requester) (p : MemPort) (s : State) : Res := access req 1 s fun s =>
  s.memCfgWrite req p (setBits (s.reg .BCKT_MEM_CFG p) 0 0 0)

/-- The memory link reaches L0 with its width, its speed code and its flit mode: Enumerating. -/
def execMemLinkUp (p : MemPort) (width speed : Nat) (flit : Bool) (s : State) : Res := act 1 s fun s =>
  if s.memPort p = 1 then
    (((s.wr .BCKT_MEM_STAT_WIDTH width p).wr .BCKT_MEM_STAT_SPEED speed p).wr .BCKT_MEM_STAT_FLIT256 (b2n flit) p).wr
      .BCKT_MEM_STAT_PSTATE 2 p
  else s

/-- A step of R370 fails: Fault, event 0x080E. -/
def State.memFault (s : State) (p cause : Nat) : State :=
  ((s.wr .BCKT_MEM_STAT_FAULT_CAUSE cause p).wr .BCKT_MEM_STAT_PSTATE 4 p).raise .BCKT_MEM_EVT_FAULT 0x080E 0 [p] false p

/-- Enumeration completes with the partner's capacity in bytes (R370): CAP, Up, event 0x0809; a capacity below 16 MiB fails. -/
def execEnumerationDone (p : MemPort) (capacity : Nat) (s : State) : Res := act 1 s fun s =>
  if s.memPort p != 2 then s
  else
    let s := s.wr .BCKT_MEM_STAT_MEM_ACTIVE 1 p
    let cap := min 32768 (capacity / 2 ^ 24)
    if cap = 0 then s.memFault p 4
    else
      (((s.wr .BCKT_MEM_STAT_CAP cap p).wr .BCKT_MEM_STAT_FAULT_CAUSE 0 p).wr .BCKT_MEM_STAT_PSTATE 3 p).raise
        .BCKT_MEM_EVT_PORT_UP 0x0809 0 [p] false p |>.refreshRegions

/-- A step of enumeration fails: the last operand is the cause less one. -/
def execEnumerationFault (p : MemPort) (cause : Fin 4) (s : State) : Res := act 1 s fun s =>
  if s.memPort p = 2 then s.memFault p (cause.val + 1) else s

/-- 10 s after the entry to Fault: Training. -/
def execMemPortFaultRetry (p : MemPort) (s : State) : Res := act 1 s fun s => if s.memPort p = 4 then s.memDown p 1 else s

/-- The memory link leaves L0: Training; from Up with event 0x080A. -/
def execMemLinkDown (p : MemPort) (s : State) : Res := act 1 s fun s =>
  if s.memPort p = 3 then (s.memDown p 1).raise .BCKT_MEM_EVT_PORT_DOWN 0x080A 0 [p] false p
  else if s.memPort p = 2 then s.memDown p 1
  else s

/-! ### Poison (R376) -/

/-- A stored copy of a unit becomes a marked one (R376, R379). -/
def State.markCopy (s : State) (g q j : Nat) : State :=
  let x := s.grp g
  s.setGrp g { x with store := x.store.map fun c => if c.q = q ∧ c.j = j then { c with good := false } else c }

/-- What a poisoned read does to its user. -/
def State.poisonUser (s : State) : PoisonUser → State
  | .deskew g q j => s.markCopy g q.toNat j
  | .ring r => s.haltRings [r.val] 3
  | .buffer => s
  | .checkpoint =>
    let rest := s.lanyard.region.drop 1
    let next := s.lanyard.takeover.bind fun k => if s.lanyard.region.head? = some k then rest.head? else some k
    let s := s.setLny { s.lanyard with region := rest, takeover := next }
    (s.count .LNYD_CNT 1 1).mateEvent .LNYD_EVT_SET_BAD 0x9007 [2]
  | .load k addr => s.dataError k addr

/-- What a read of a region that is not Ready does to its user (R375): the rings and the groups of such a region have been stopped when it
left Ready, a command's buffer read is judged at acceptance, and a core's load is a data error. -/
def State.notReadyUser (s : State) : PoisonUser → State
  | .load k addr => s.dataError k addr
  | _ => s

/-- A read of a region, at an offset, returns poison (R376): counted, logged, event 0x080D, its user acts; beyond POIS_MAX the region is
Degraded. On a region that is not Ready no poison is counted (R388). -/
def execPoisonRead (e : Region) (off : Nat) (user : PoisonUser) (s : State) : Res := act 1 s fun s =>
  if !s.regionReady e then (s.notReadyRead e off).notReadyUser user
  else
    let (p, a) := s.regionPlace e off
    let s := (s.inc .BCKT_REGION_POIS_CNT 1 e).count .BCKT_MEM_CNT 1 p 2
    let log := s.mem.poison.get [] p ++ [a / 64 * 64]
    let s := { s with mem := { s.mem with poison := s.mem.poison.put [] p (log.drop (log.length - 64)) } }
    let s := (s.raise .BCKT_MEM_EVT_POISON 0x080D 0 [p, e] false p).poisonUser user
    if s.rd .BCKT_MEM_CFG_POIS_MAX p < s.rd .BCKT_REGION_POIS_CNT e then s.setRegion e 3 else s

/-- The partner reports data loss in a range of device addresses, last one included: the Ready regions that overlap it are Degraded. -/
def execPartnerDataLoss (p : MemPort) (lo hi : Nat) (s : State) : Res := act 1 s fun s =>
  s.each (List.range 256) fun e t =>
    let base := t.rd .BCKT_REGION_BASE e <<< 24
    if t.regionReady e && t.regionUses e p && decide (lo < base + t.regionExtent e <<< 24 ∧ base ≤ hi) then t.setRegion e 3 else t

/-! ### Commands (Table 14.6) -/

/-- REGION_STATUS. -/
def execRegionStatus (h : Nat) (s : State) : Res := ospin 1 0x0601 h s fun c s =>
  let e := c.par 16 1
  s.finish h 0 0 (leBytes 1 (s.rd .BCKT_REGION_RSTATE e) ++ leBytes 2 (s.rd .BCKT_REGION_FILL_LEFT e) ++
    leBytes 2 (s.rd .BCKT_REGION_POIS_CNT e)) []

/-- REGION_REFILL: STATE when the region is Unavailable or in use. -/
def execRegionRefill (h : Nat) (s : State) : Res := ospin 1 0x0602 h s fun c s =>
  let e := c.par 16 1
  if s.rd .BCKT_REGION_RSTATE e = 0 ∨ s.regionUsed e then s.finish h 6 0 [] []
  else
    let s := s.setRegion e 1
    s.finish h 0 0 (leBytes 1 (s.rd .BCKT_REGION_RSTATE e)) []

/-- POISON_LIST: the 7 latest line addresses, latest first. -/
def execPoisonList (h : Nat) (s : State) : Res := ospin 1 0x0603 h s fun c s =>
  let p := c.par 16 1
  if 1 < p then s.finish h 5 0 [] []
  else
    let log := s.mem.poison.get [] p
    s.finish h 0 0 (leBytes 1 log.length) ((log.reverse.take 7).flatMap (leBytes 8))

/-- WHIP_STATUS. -/
def execWhipStatus (h : Nat) (s : State) : Res := ospin 1 0x0604 h s fun c s =>
  let i := c.par 16 2
  if 2047 < i then s.finish h 5 0 [] []
  else
    s.finish h 0 0 [] (leBytes 8 (s.reg .WHIP_INST i) ++ (List.range 8).flatMap fun k => leBytes 4 (s.reg .WHIP_REMAP i k))

/-- What the memory may report once per second again. -/
def State.memorySecond (s : State) : State := { s with mem := { s.mem with notReadySaid := [] } }

end Sys2Proof.Machine
end

