-- ==== Sys2Proof/Machine/Tally.lean ====
section
/-! DEFINITION. Tally's monitor converters, thermal scan and snapshot capture (chapter 18). -/

namespace Sys2Proof.Machine

open Sys2Proof

/-! ### Sequences and triggers (R451, R452) -/

/-- The commit that waited for the sequence's end applies (R460). -/
def State.applyDue (s : State) : State :=
  match s.tally.due with
  | none => s
  | some l => { s with regs := l.foldl (fun t (c : RegCell) => t.put c.key (mix (rwcMask c.key.id) (t.get c.key) c.val)) s.regs }.setTly { s.tally with due := none }

/-- A sequence starts at entry 0 (R451). -/
def State.startSequence (s : State) : State :=
  (((s.wr .TALY_MON_ST_RUNNING 1).wr .TALY_MON_ST_ENTRY 0).incWrap .TALY_MON_ST_SEQ).setTly { s.tally with since := s.tod }

/-- A trigger of the source whose bit in TRIG_EN is b (R452): it starts a sequence, is latched as pending, or is lost. -/
def State.monTrigger (s : State) (b : Nat) : State :=
  if !(s.rd .TALY_MON_CFG_TRIG_EN).testBit b then s
  else if !s.on .TALY_MON_ST_RUNNING then s.startSequence
  else if !s.on .TALY_MON_ST_PENDING then s.wr .TALY_MON_ST_PENDING 1
  else
    let s := (s.inc .TALY_MON_ST_TRIG_OVR_CNT).wr .TALY_EVT_TRIG_OVR 1
    if s.tally.trigSaid then s else (s.setTly { s.tally with trigSaid := true }).event 0x3801 0 []

/-- The running sequence ends: a waiting commit applies, then a pending trigger starts the next one (R452, R460). -/
def State.endSequence (s : State) : State :=
  let s := (s.wr .TALY_MON_ST_RUNNING 0).applyDue
  if s.on .TALY_MON_ST_PENDING then (s.wr .TALY_MON_ST_PENDING 0).startSequence else s

/-- The input of a converter in a step word. -/
def stepInput (step c : Nat) : Nat := bits step (5 * c + 4) (5 * c)

/-- The samples of converter MAc in a step: 2^AVG of them (R451). -/
def stepSamples (step c : Nat) (samples : List (List Sample)) : List Sample :=
  (samples.getD c []).take (2 ^ bits step 26 24)

/-- The mean of a step in 1/16 LSB, truncated (R451). -/
def stepValue (step : Nat) (l : List Sample) : Nat := (l.foldl (fun a x => a + x.code.toNat) 0) * 16 / 2 ^ bits step 26 24

/-- The result word of converter MAc: VALUE, INPUT, OVR (Table 18.9). -/
def stepResult (step c : Nat) (samples : List (List Sample)) : Nat :=
  let l := stepSamples step c samples
  stepValue step l + stepInput step c <<< 16 + b2n (l.any fun x => x.above) <<< 21

/-- RES0 to RES3 of a record (Table 18.3); a converter without its EN bit gives zero. -/
def stepBytes (step : Nat) (samples : List (List Sample)) : List Byte :=
  (List.range 4).flatMap fun c => leBytes 3 (if bit step (20 + c) then stepResult step c samples + 2 ^ 22 else 0)

/-- An over-range sample of an input: event 0x3802 for the first in each second (R449). -/
def State.noteOver (s : State) (input : Nat) (l : List Sample) : State :=
  if (l.any fun x => x.above) && !s.tally.overSaid.contains input then
    (s.setTly { s.tally with overSaid := input :: s.tally.overSaid }).raise .TALY_EVT_OVR 0x3802 0 []
  else s

/-- A code-8 sample: outside 2,048 ± 8 it sets REF_BAD with event 0x3808, inside it clears REF_BAD (R450). -/
def State.noteReference (s : State) (x : Sample) : State :=
  if x.code.toNat < 2040 || 2056 < x.code.toNat then (s.wr .TALY_MON_ST_REF_BAD 1).raise .TALY_EVT_REF_CHECK 0x3808 0 []
  else s.wr .TALY_MON_ST_REF_BAD 0

/-- The results of a step: the enabled converters' result registers, over-range and reference checks. -/
def State.takeStep (s : State) (id : RegId) (step : Nat) (samples : List (List Sample)) : State :=
  s.each ((List.range 4).filter fun c => bit step (20 + c)) fun c t =>
    let l := stepSamples step c samples
    let t := (t.setReg id (stepResult step c samples) c).noteOver (stepInput step c) l
    if stepInput step c = 8 then l.foldl (fun u x => u.noteReference x) t else t

/-- A monitor record before its CRC (Table 18.3). -/
def State.monRecord (s : State) (urgent : Bool) (entry since step : Nat) (samples : List (List Sample)) : State :=
  let (t, ns) := s.draw
  t.streamPut (t.rd .TALY_MON_CFG_MON_RING) fun phase =>
    leBytes 1 (phase + 2 * b2n urgent + 4 * b2n (t.on .HLYD_STAT_TOD_VALID)) ++ leBytes 1 entry ++
      leBytes 2 (t.rd .TALY_MON_ST_SEQ) ++ leBytes 4 (ns % 2 ^ 30) ++ leBytes 6 since ++ [0, 0] ++ stepBytes step samples

/-- A step of the running sequence completes (R451, R455). The operand: the samples of MA0 to MA3, in order. -/
def execMonStepDone (samples : List (List Sample)) (s : State) : Res := act 7 s fun s =>
  if !s.on .TALY_MON_ST_RUNNING then s
  else
    let e := s.rd .TALY_MON_ST_ENTRY
    let step := s.reg .TALY_SEQ e
    let s := s.takeStep .TALY_MON_RES step samples
    let s := if s.on .TALY_MON_CFG_MON_EN && bit step 28 then s.monRecord false e s.tally.since step samples else s
    if bit step 27 || e == 31 then s.endSequence
    else (s.wr .TALY_MON_ST_ENTRY (e + 1)).setTly { s.tally with since := s.tod }

/-- TALY_MON_CTL written (Table 18.8): Operator rights for D0. -/
def State.monCtlWrite (s : State) (req : Requester) (v : Nat) : State :=
  s.write req 1 [0] (regAddr ⟨.TALY_MON_CTL, 0, 0, 0⟩) (s.reg .TALY_MON_CTL) v false fun t =>
    if bit v 0 then t.monTrigger 0 else t

/-- TRIG written. -/
def execMonTrig (req : Requester) (s : State) : Res := access req 7 s fun s => s.monCtlWrite req 1

/-- Every PERIOD µs. -/
def execMonTimerTrigger (s : State) : Res := act 7 s fun s => if s.rd .TALY_MON_CFG_PERIOD = 0 then s else s.monTrigger 1

/-! ### Urgent requests (R453) -/

/-- An urgent request is taken: pending, then running. -/
def State.urgentStart (s : State) (step : Nat) (cmd : Option Nat) : State :=
  (s.setTly { s.tally with urgent := some ⟨step, cmd, s.tod⟩ }).wr .TALY_MON_ST_URG_BUSY 1

/-- A step word with AVG moved into its range (R518). -/
def clipStep (v : Nat) : Nat := setBits v 26 24 (min 4 (bits v 26 24))

/-- TALY_URG written: Operator rights for D0; GO starts the step, or is ignored and counted. -/
def State.urgWrite (s : State) (req : Requester) (v : Nat) : State :=
  s.write req 1 [0] (regAddr ⟨.TALY_URG, 0, 0, 0⟩) (s.reg .TALY_URG) v false fun t =>
    let step := clipStep (bits v 26 0)
    let t := t.wr .TALY_URG_STEP step
    if !bit v 30 then t
    else if t.tally.urgent.isSome then t.inc .TALY_MON_ST_URG_OVR
    else (t.wr .TALY_URG_DONE 0).urgentStart step none

/-- GO written with its step. -/
def execUrgGo (req : Requester) (step : BitVec 27) (s : State) : Res := access req 7 s fun s => s.urgWrite req (2 ^ 30 + step.toNat)

/-- The reserved input codes of Table 18.1. -/
def badInput (i : Nat) : Bool := (10 ≤ i && i ≤ 15) || 24 ≤ i

/-- Whether a step word names a reserved input or an AVG above 4. -/
def badStep (v : Nat) : Bool := 4 < bits v 26 24 || (List.range 4).any fun c => badInput (stepInput v c)

/-- MON_URGENT: STATE while an urgent step is pending or running; otherwise it completes with the step's results. -/
def execMonUrgent (h : Nat) (s : State) : Res := ospin 7 0x0805 h s fun c s =>
  let v := c.par 16 4
  if bits v 31 27 ≠ 0 || badStep v then s.finish h 5 0 [] []
  else if s.tally.urgent.isSome then s.finish h 6 0 [] []
  else s.urgentStart v (some h)

/-- The urgent step ends: results, DONE, its record, its command; the interrupted entry starts again. -/
def execUrgentStepDone (samples : List (List Sample)) (s : State) : Res := act 7 s fun s =>
  match s.tally.urgent with
  | none => s
  | some u =>
    let s := (s.setTly { s.tally with urgent := none, since := s.tod }).wr .TALY_MON_ST_URG_BUSY 0
    let s := (s.takeStep .TALY_URG_RES u.step samples).wr .TALY_URG_DONE 1
    let s := if s.on .TALY_MON_CFG_MON_EN && s.on .TALY_MON_CFG_REC_URG then s.monRecord true 0xFF u.since u.step samples else s
    match u.cmd with
    | some h => s.finish h 0 0 (stepBytes u.step samples) []
    | none => s

/-! ### Thermal scan (R454) -/

/-- Whether a reading in 0.125 °C lies in the sensors' range, −55 to +150 °C. -/
def inSensorRange (r : Int) : Bool := -440 ≤ r && r ≤ 1200

/-- Whether a sensor is valid: a result is held and it is not excluded. -/
def State.jsValid (s : State) (i : Nat) : Bool := s.on .TALY_JS_VALID i && !s.on .TALY_JS_EXCLUDED i

/-- Whether a reading lies within 25 °C of the mean of some others. -/
def nearMean (r : Int) (others : List Int) : Bool :=
  others.isEmpty || decide ((r * others.length - others.foldl (· + ·) 0).natAbs ≤ 200 * others.length)

/-- One sensor's result of a scan. The last operand: the readings of the other sensors in service. -/
def State.takeSensor (s : State) (i : Nat) (r : Int) (others : List Int) : State :=
  let was := s.on .TALY_JS_EXCLUDED i
  let good := inSensorRange r && nearMean r others
  let (b, g) := s.tally.runs.get (0, 0) i
  let b' := if good then 0 else min 3 (b + 1)
  let g' := if good then min 3 (g + 1) else 0
  let out := if was then decide (g' < 3) else !inSensorRange r || decide (3 ≤ b')
  let s := s.setTly { s.tally with runs := s.tally.runs.put (0, 0) i (b', g') }
  let s := s.setReg .TALY_JS (unsigned 16 r + 2 ^ 16 + b2n out <<< 17) i
  if out && !was then s.raise .TALY_EVT_JS_EXCLUDED 0x3803 0 [] else s

/-- The number of valid sensors. -/
def State.jsCount (s : State) : Nat := ((List.range 16).filter s.jsValid).length

/-- The readings of the 16 sensors, in 0.125 °C. -/
def execThermalScan (readings : List Int) (s : State) : Res := act 7 s fun s =>
  if readings.length ≠ 16 then s
  else
    let r (i : Nat) : Int := readings.getD i 0
    let serving := (List.range 16).filter fun i => !s.on .TALY_JS_EXCLUDED i && inSensorRange (r i)
    let s := s.each (List.range 16) fun i t => t.takeSensor i (r i) ((serving.filter fun j => j != i).map r)
    let low := decide (s.jsCount < 8)
    let was := s.tally.fallback
    let s := s.setTly { s.tally with fallback := low }
    if low && !was then s.raise .TALY_EVT_TJ_FALLBACK 0x3804 0 [] else s

/-- Tj in 0.125 °C: the hottest valid sensor; with fewer than 8 valid ones, TJ_SOFT + 10 °C. -/
def State.junction (s : State) : Int :=
  let l := ((List.range 16).filter s.jsValid).map fun i => signed 16 (s.rd .TALY_JS_TEMP i)
  if l.length < 8 then 8 * ((s.rd .BLAY_BUD_CFG_TJ_SOFT : Int) + 10) else l.foldl max (l.headD 0)

/-! ### Snapshot capture (R456 to R459) -/

/-- The state of a line's capture (Table 18.10). -/
def State.sstate (s : State) (n : Nat) : Nat := s.rd .TALY_SNAP_ST_SSTATE n

/-- The samples per ADC that a line records after the trigger. -/
def State.postCount (s : State) (n : Nat) : Nat := s.rd .TALY_SNAP_ST_POST n * 65536

/-- An armed line is triggered: it holds some samples per ADC, and records POST more. -/
def State.triggerLine (s : State) (n fired held seconds ns : Nat) : State :=
  let post := s.postCount n
  let samples := min (2 ^ 20) (held + post)
  let x := s.snap n
  let seq := s.tally.snapSeq
  let s := s.setSnap n { x with fired := fired, samples := samples, index := samples - post, seconds := seconds, ns := ns, seq := seq }
  ((s.wr .TALY_SNAP_ST_SSTATE 2 n).wr .TALY_SNAP_ST_TRIG_IDX (samples - post) n).wr .TALY_SNAP_ST_SNAP_SEQ seq n

/-- The common trigger (R457): every Armed line; a line in Post or Draining, or every line where none is Armed, ignores and counts it. It
also triggers the monitor sequencer. The answer: the mask of lines triggered. -/
def State.commonTrigger (s : State) (fired : Nat) (held : Nat → Nat) : State × Nat :=
  let armed := [0, 1, 2].filter fun n => s.sstate n == 1
  let deaf := if armed.isEmpty then [0, 1, 2] else [0, 1, 2].filter fun n => 2 ≤ s.sstate n
  let (s, ns) := s.draw
  let s := if armed.isEmpty then s else s.setTly { s.tally with snapSeq := (s.tally.snapSeq + 1) % 2 ^ 32 }
  let s := s.each armed fun n t => t.triggerLine n fired (held n) s.tod (ns % 2 ^ 30)
  let s := s.each deaf fun n t => t.inc .TALY_SNAP_ST_SNAP_OVR 1 n
  let s := if deaf.isEmpty then s else s.raise .TALY_EVT_SNAP_OVR 0x3807 0 []
  (s.monTrigger 3, armed.foldl (fun a n => a + 2 ^ n) 0)

/-- The samples held by each line as a function. -/
def heldOf (h0 h1 h2 : Nat) (n : Nat) : Nat := match n with | 0 => h0 | 1 => h1 | _ => h2

/-- COMMON_TRIGGER: the source that line n is armed with fires. The operands: that line, the lowest of those whose source fires in the
cycle (R460), and the samples per ADC that each line's slice holds. -/
def execCommonTrigger (n : Line) (held0 held1 held2 : Nat) (s : State) : Res := act 7 s fun s =>
  if s.sstate n = 1 ∧ (s.snap n).src ≠ 0 then (s.commonTrigger (s.snap n).src (heldOf held0 held1 held2)).1 else s

/-- The POST samples have been recorded: the line stops, event 0x3805, and its drain waits for its region. -/
def execSnapPostDone (n : Line) (s : State) : Res := act 7 s fun s =>
  if s.sstate n = 2 then
    ((s.setSnap n { s.snap n with draining := false }).wr .TALY_SNAP_ST_SSTATE 3 n).raise .TALY_EVT_SNAP_TRIG 0x3805 0 []
  else s

/-- The drain starts while the region is Ready (R458). -/
def execSnapDrainStart (n : Line) (s : State) : Res := act 7 s fun s =>
  if s.sstate n = 3 && s.regionReady (s.rd .TALY_SNAP_ST_REGION n) then s.setSnap n { s.snap n with draining := true } else s

/-- The header of a snapshot before its CRC (Table 18.4). -/
def State.snapHeader (s : State) (n unc : Nat) : List Byte :=
  let x := s.snap n
  [1, BitVec.ofNat 8 n, BitVec.ofNat 8 (s.rd .TALY_SNAP_ST_DECIM n), BitVec.ofNat 8 x.fired] ++ leBytes 4 x.samples ++
    leBytes 4 x.index ++ leBytes 4 unc ++ leBytes 6 x.seconds ++ leBytes 4 x.ns ++ leBytes 4 x.seq ++ List.replicate 30 0

/-- The drain completes (R458): header and blocks stand in the region, Idle, event 0x3806. The operands: the words written as zero, and the
samples of the slice, as converted by the line's ADCs, in four blocks. -/
def execSnapDrainDone (n : Line) (unc : Nat) (blocks : List (List Byte)) (s : State) : Res := act 7 s fun s =>
  if s.sstate n = 3 && (s.snap n).draining then
    let s := s.emit (.snapshot n (s.rd .TALY_SNAP_ST_REGION n) ((s.snap n).offset + n * 0x401000) (withCrc (s.snapHeader n unc)) blocks)
    ((s.setSnap n { s.snap n with draining := false }).wr .TALY_SNAP_ST_SSTATE 0 n).raise .TALY_EVT_SNAP_DONE 0x3806 0 []
  else s

/-- The line that a UNIT of type 1 names. -/
def Cmd.line (c : Cmd) : Nat := c.unit % 2 ^ 28

/-- SNAP_ARM. -/
def execSnapArm (h : Nat) (s : State) : Res := ospin 7 0x0801 h s fun c s =>
  let n := c.line
  let region := c.par 16 1
  let offset := c.par 20 4
  if 7 < c.par 17 1 || 15 < c.par 18 1 || 4 < c.par 19 1 || offset % 4096 != 0 ||
      decide (s.rd .BCKT_REGION_SIZE region <<< 24 < offset + 3 * 0x401000) then s.finish h 5 0 [] []
  else if s.lineMode n == 0 || s.sstate n == 3 || !s.regionReady region then s.finish h 6 0 [] []
  else
    let s := s.setSnap n { s.snap n with src := c.par 19 1, offset := offset, draining := false }
    let s := ((s.wr .TALY_SNAP_ST_REGION region n).wr .TALY_SNAP_ST_POST (c.par 18 1) n).wr .TALY_SNAP_ST_DECIM (c.par 17 1) n
    (s.wr .TALY_SNAP_ST_SSTATE 1 n).finish h 0 0 [1] []

/-- SNAP_DISARM. -/
def execSnapDisarm (h : Nat) (s : State) : Res := ospin 7 0x0802 h s fun c s =>
  let n := c.line
  ((s.setSnap n { s.snap n with draining := false }).wr .TALY_SNAP_ST_SSTATE 0 n).finish h 0 0 [0] []

/-- SNAP_FIRE, with the samples per ADC that each line's slice holds. -/
def execSnapFire (h held0 held1 held2 : Nat) (s : State) : Res := ospin 7 0x0803 h s fun _ s =>
  let (t, m) := s.commonTrigger 0xFF (heldOf held0 held1 held2)
  t.finish h 0 0 (leBytes 1 m) []

/-- SNAP_STATUS. -/
def execSnapStatus (h : Nat) (s : State) : Res := ospin 7 0x0804 h s fun c s =>
  s.finish h 0 0 (leBytes 8 (s.reg .TALY_SNAP_ST c.line)) []

/-- What Tally may report once per second again; the PPS rollover triggers the sequencer (R452). -/
def State.tallySecond (s : State) : State := (s.setTly { s.tally with overSaid := [], trigSaid := false }).monTrigger 2

/-! ### Commit (Table 18.7) -/

/-- The rules of Table 18.7, rights apart. -/
def checkTally (t : State) : Option Breach :=
  firstBreach [
    (1, broken (t.rd .TALY_MON_CFG_PERIOD == 1 || (List.range 32).any fun e => badStep (t.reg .TALY_SEQ e))),
    (2, broken (t.on .TALY_MON_CFG_MON_EN && !t.streamRing (t.rd .TALY_MON_CFG_MON_RING)))]

end Sys2Proof.Machine
end

