-- ==== Sys2Proof/Machine/Whip.lean ====
section
/-! DEFINITION. Whipping (chapter 14): the scrubber, the repeat tracker and remapping, uncorrectable words, error injection. -/

namespace Sys2Proof.Machine

open Sys2Proof

/-- What an instance holds beside WHIP_INST and WHIP_REMAP. -/
def State.whipInst (s : State) (i : Nat) : WhipInt := s.whip.get {} i

/-- The same, replaced. -/
def State.setWhip (s : State) (i : Nat) (x : WhipInt) : State := { s with whip := s.whip.put {} i x }

/-- A hard fault is declared (R382, R383): the next spare takes the address, event 0x1803, the remap record in flash grows; the eighth spare
leaves the instance Degraded, event 0x1804. Without a free spare nothing is remapped. -/
def State.hardFault (s : State) (i addr : Nat) : State :=
  let k := s.rd .WHIP_INST_SPARES_USED i
  if 8 ≤ k then s
  else
    let x := s.whipInst i
    let s := s.setWhip i { x with tracker := x.tracker.filter fun e => e.1 != addr }
    let s := ((s.wr .WHIP_REMAP_VALID 1 i k).wr .WHIP_REMAP_ADDR addr i k).wr .WHIP_INST_SPARES_USED (k + 1) i
    let s := { s with nv := { s.nv with remap := s.nv.remap ++ [(i, k, addr)] } }.raise .WHIP_EVT_REMAP 0x1803 0 [i, addr, k]
    if k = 7 then (s.wr .WHIP_INST_DEGRADED 1 i).raise .WHIP_EVT_DEGRADED 0x1804 0 [i, addr] else s

/-- The place of the entry that a full tracker gives up (R382): the lowest count, the oldest among equals. -/
def leastEntry : List (Nat × Nat) → Option (Nat × Nat)
  | [] => none
  | e :: r => match leastEntry r with
    | some m => if m.2 < e.2 then some m else some e
    | none => some e

/-- A correction at an address is noted in the repeat tracker (R382). -/
def State.track (s : State) (i addr : Nat) : State :=
  let x := s.whipInst i
  match x.tracker.find? fun e => e.1 == addr with
  | some e =>
    let s := s.setWhip i { x with tracker := x.tracker.map fun e => if e.1 = addr then (addr, e.2 + 1) else e }
    if 3 ≤ e.2 + 1 then s.hardFault i addr else s
  | none =>
    if x.tracker.length < 4 then s.setWhip i { x with tracker := x.tracker ++ [(addr, 1)] }
    else
      let out := ((leastEntry x.tracker).map fun e => e.1).getD addr
      (s.setWhip i { x with tracker := (x.tracker.filter fun e => e.1 != out) ++ [(addr, 1)] }).raise .WHIP_EVT_TRACK_DROP 0x1806 0
        [i, addr]

/-- A correctable error: counted, event 0x1801 at most once per second per instance, tracked (R381, R382). -/
def State.corrected (s : State) (i addr : Nat) : State :=
  let s := (s.inc .WHIP_INST_CORR 1 i).wr .WHIP_INST_LAST_ADDR addr i
  let s := if (s.whipInst i).corrSaid then s
    else (s.setWhip i { s.whipInst i with corrSaid := true }).raise .WHIP_EVT_CORR 0x1801 0 [i, addr]
  s.track i addr

/-- The register word that holds an address is taken from the shadow; where the shadow word is lost too, or differs from the active one
(Table 22.9), the unit is held disabled: the word is at its reset value until the block's next commit (Table 14.4). -/
def State.restoreConfig (s : State) (addr : Nat) (shadowBad : Bool) : State :=
  match findReg addr with
  | some (r, _) =>
    let old := s.regs.get r
    let v := mix (rwcMask r.id) old (s.shadow.get r)
    if shadowBad || v != old then { s with regs := s.regs.put r (mix (rwcMask r.id) old (regReset r)) } else s
  | none => s

/-- The effect of an uncorrectable word on what it belongs to (Table 14.4). -/
def State.wordLost (s : State) : WordUse → State
  | .datapath none => s
  | .datapath (some (g, q, j)) => s.markCopy g q.toNat j
  | .leaf n i => s.setLeaf n i { s.leaf n i with store := [] }
  | .subcarrier n f => if s.tracking n && (s.lit n).contains f.val then s.subRestart n f else s
  | .key k receive => s.zeroKeys k receive true true
  | .config addr shadowBad => s.restoreConfig addr shadowBad
  | .core k addr fetch => if fetch then (s.coreFault k 4).recover 3 else s.dataError k addr
  | .journal pos =>
    let b := s.journal.buffer.eraseIdx pos
    { s with journal := { s.journal with buffer := b } }.wr .MRLN_NV_ST_BUF_FILL b.length

/-- An uncorrectable word: counted, event 0x1802, its unit acts. -/
def State.uncorrectable (s : State) (i addr : Nat) (w : WordUse) : State :=
  (((s.inc .WHIP_INST_UNCORR 1 i).wr .WHIP_INST_LAST_ADDR addr i).raise .WHIP_EVT_UNCORR 0x1802 0 [i, addr]).wordLost w

/-- The scrubber visits a word (R381); after the last word of a pass the tracker is cleared (R382, Table 14.7). Its passes pause while
SCRUB_EN is 0 or Belay does not grant background work (R435); a word that a functional read has found in error (byRead) it visits always,
and such a visit ends no pass. An armed injection has happened once the visit finds an error (log entry 19). -/
def execScrubVisit (i : MemInst) (addr : BitVec 24) (found : Found) (byRead passEnds : Bool) (s : State) : Res := act 3 s fun s =>
  if !((byRead || s.on .WHIP_CFG_SCRUB_EN && s.belay.background) && s.on .WHIP_INST_PRESENT i) then s
  else
    let s := if found != .clean && s.on .WHIP_INJECT_ARM && s.rd .WHIP_INJECT_INST == i.val then s.wr .WHIP_INJECT_ARM 0 else s
    let s := match found with
      | .clean => s
      | .corrected => s.corrected i addr.toNat
      | .uncorrectable w => s.uncorrectable i addr.toNat w
    if passEnds && !byRead then s.setWhip i { s.whipInst i with tracker := [], passes := (s.whipInst i).passes + 1 } else s

/-- WHIP_INJECT written (R386, Table 14.13): Installer rights for D0; ARM is set by a one and stays set otherwise. -/
def State.injectWrite (s : State) (req : Requester) (v : Nat) : State :=
  let old := s.reg .WHIP_INJECT
  s.write req 2 [0] (regAddr ⟨.WHIP_INJECT, 0, 0, 0⟩) old v false fun t =>
    let t := (t.wr .WHIP_INJECT_KIND (bits v 30 29)).wr .WHIP_INJECT_INST (bits v 10 0)
    if bit v 31 then t.wr .WHIP_INJECT_ARM 1 else t

/-- WHIP_INJECT_ARM: the same as a row of the table. -/
def execWhipInjectArm (req : Requester) (i : MemInst) (kind : BitVec 2) (s : State) : Res := access req 3 s fun s =>
  s.injectWrite req (2 ^ 31 + kind.toNat <<< 29 + i.val)

/-- What Whipping may report once per second again. -/
def State.whipSecond (s : State) : State :=
  (s.whip.map fun e => e.1).foldl (fun t i => t.setWhip i { t.whipInst i with corrSaid := false }) s

end Sys2Proof.Machine
end

