-- ==== Sys2Proof/Machine/Bringup.lean ====
section
/-! DEFINITION. Bring-up, resets and failure domains (chapters 20 and 21), the CXL-U link, and the supply states of Belay that lead to
Shutdown-orderly. -/

namespace Sys2Proof.Machine

open Sys2Proof

/-! ### Resets (R476, R486) -/

/-- The registers that a device reset or a core reset leaves: those of the island, of the device's identity, and for a core reset those of
the report window and the CXL-U port. -/
def keepsReg (device : Bool) (r : RegKey) : Bool :=
  ([.TOP_RST_CAUSE, .BLAY_AON_ST, .TOP_ID, .TOP_SERIAL, .TOP_STRAP] : List RegId).contains r.id ||
    (!device && ([.TOP_FLT_CFG, .TOP_INT_EN, .TOP_ACC_ERR, .BCKT_U_STAT] : List RegId).contains r.id)

/-- The state that a device reset or a core reset leaves: flash, the island's journal buffer, the pins from outside, what the model keeps
for itself. -/
def State.survivors (s : State) (device : Bool) : State :=
  let pins : Pins := { s.pins with optTxen := [], clmOut0 := false }
  let boot : Boot := { s.boot with coreUp := false, fltLow := true, mfgHold := false, retrain := device || s.boot.retrain }
  { regs := s.regs.resetWhere fun r => !keepsReg device r, pins := pins, boot := boot, belay := { io := s.belay.io, sinceTest := s.belay.sinceTest },
    vecs := if device then [] else s.vecs, nv := s.nv, journal := s.journal,
    discards := s.discards, nextCmd := s.nextCmd, drawn := s.drawn, out := s.out, pending := s.pending }

/-- A handshake transfer of a source block that a reset of its destination discards: counted at the source (R38). -/
def State.discard (s : State) (b : Nat) : State := { s with discards := s.discards.put 0 b (s.discards.get 0 b + 1) }

/-- Handshake transfers under way to blocks that are reset, by source block with whether they are captured in or before that cycle: a captured
one is delivered, and another is discarded and counted (R38, log entry 74). -/
def State.discardFlight (s : State) (flight : List (Block × Bool)) : State :=
  (flight.filter fun e => !e.2).foldl (fun t e => t.discard e.1.val) s

/-- A reset that takes the control units back to D0 ends every role session (R476); the ends are journaled (R419), while the event registers
and the event rings are themselves in reset (log entry 96). -/
def State.journalEnds (s : State) : State :=
  s.each ((List.range 32).filter fun k => s.on .MRLN_ROLE_ST_VALID k) fun k t =>
    t.recordOwn 4 0 (regAddr ⟨.MRLN_ROLE_ST, k, 0, 0⟩) (t.reg .MRLN_ROLE_ST k) 0 0

/-- A device reset or a core reset, with the stage that the boot stands at and the handshake transfers under way: the supply state and the
faults that still stand are shown afresh; a held block stays so through a core reset (R476). -/
def State.resetTo (s : State) (device : Bool) (stage : Nat) (flight : List (Block × Bool) := []) : State :=
  let s := s.journalEnds
  let t := (s.survivors device).discardFlight flight
  let t := ((t.wr .BLAY_STAT_SUPPLY (s.rd .BLAY_STAT_SUPPLY)).wr .BLAY_STAT_SHUT_CAUSE (s.rd .BLAY_STAT_SHUT_CAUSE)).wr
    .BLAY_STAT_PWR_WARN (s.rd .BLAY_STAT_PWR_WARN)
  let t := (t.wr .TOP_FAULT_XO_LOST (s.rd .TOP_FAULT_XO_LOST)).wr .TOP_FAULT_ROOT_LOST (s.rd .TOP_FAULT_ROOT_LOST)
  let t := t.wr .TOP_FAULT_FLT_SW (t.rd .TOP_FLT_CFG_FLT_SW)
  let t := if device then t
    else (t.wr .TOP_FAULT_HELD (s.rd .TOP_FAULT_HELD)).wr .TOP_FAULT_LINE_HELD (s.rd .TOP_FAULT_LINE_HELD)
  t.wr .TOP_BOOT_ST_STAGE stage

/-- The stage at which a device reset leaves the boot: none while PORST_N is low or Shutdown-orderly holds. -/
def State.firstStage (s : State) : Nat := if s.boot.porst || s.boot.shutdown then 0 else 1

/-- Flash and OTP as they were programmed outside. -/
def nvOf (f : FlashImage) : NvState :=
  let kek : FlashArea := { active := [(0, f.keks)] }
  { areas := Tab.put {} [] 5 kek
    creds := f.creds.foldl (fun (t : Tab Cred) (e : Fin 64 × Cred) => Tab.put {} t e.1.val e.2) []
    copies := (f.copies.take 3).zipIdx.foldl (fun (t : Tab ImageCopy) (e : ImageCopy × Nat) => Tab.put {} t e.2 e.1) []
    serial := f.serial.toNat, makerHash := f.makerHash, rollback := f.rollback, lifecycle := f.lifecycle, remap := f.remap }

/-- ISLAND_POWER_ON: the whole device, the journal buffer included; flash and OTP keep their content, or hold what was programmed into
them while there was no power. PORST_N is low (R474). -/
def execIslandPowerOn (flash : Option FlashImage) (s : State) : Res :=
  let nv := match flash with
    | some f => nvOf f
    | none => s.nv
  let journal : Journal := { s.journal with buffer := [], lastSeq := 0 }
  let pins : Pins := { losIn := s.pins.losIn, clmIn0 := s.pins.clmIn0 }
  let t : State :=
    { nv := nv, journal := journal, nextCmd := s.nextCmd, drawn := s.drawn, out := s.out, pending := s.pending, pins := pins }
  .next (t.setReg .TOP_SERIAL nv.serial)

/-- PORST_ASSERT (R500): a device reset. -/
def execPorstAssert (flight : List (Block × Bool)) (s : State) : Res :=
  .next (if s.boot.porst then s
    else
      let t := { s with boot := { s.boot with porst := true } }.resetTo true 0 flight
      t.wr .TOP_RST_CAUSE_PORST 1)

/-- PORST_RELEASE (R478, R499): the straps are latched, and the boot starts. -/
def execPorstRelease (i3c : BitVec 2) (xspi mfg : Bool) (s : State) : Res :=
  .next (if s.boot.porst then
      let s := { s with boot := { s.boot with porst := false } }
      let s := ((s.wr .TOP_STRAP_I3C i3c.toNat).wr .TOP_STRAP_XSPI (b2n xspi)).wr .TOP_STRAP_MFG (b2n mfg)
      s.wr .TOP_BOOT_ST_STAGE s.firstStage
    else s)

/-- TOP_RESET written (R477): with KEY and Installer rights for D0 it is journaled, and then the reset of its KIND starts; any other
write is discarded and counted. -/
def State.topReset (s : State) (req : Requester) (v : Nat) (flight : List (Block × Bool) := []) : State :=
  if bits v 31 16 ≠ 0xA5C3 ∨ s.permits req 2 [0] = false then
    (if 2 ≤ s.roleIn req 0 && !s.journalBlocked then
      s.denied.record req (s.roleIn req 0) 0 1 4 (regAddr ⟨.TOP_RESET, 0, 0, 0⟩) 0 v 0
    else s.denied)
  else if s.journalBlocked then s.unjournaled
  else
    let s := s.record req (s.roleIn req 0) 0 1 0 (regAddr ⟨.TOP_RESET, 0, 0, 0⟩) 0 v 0
    match bits v 1 0 with
    | 1 => (s.resetTo true s.firstStage flight).wr .TOP_RST_CAUSE_SW_DEVICE 1
    | 2 => (s.resetTo false 2 flight).wr .TOP_RST_CAUSE_SW_CORE 1
    | _ => s

/-- DEVICE_RESET: KIND 1. -/
def execDeviceReset (req : Requester) (flight : List (Block × Bool)) (s : State) : Res := access req 0 s fun s =>
  s.topReset req (0xA5C30000 + 1) flight

/-- CORE_RESET: KIND 2. -/
def execCoreReset (req : Requester) (flight : List (Block × Bool)) (s : State) : Res := access req 0 s fun s =>
  s.topReset req (0xA5C30000 + 2) flight

/-! ### The CXL-U port (R335, R336, R476) -/

/-- The host end's reset: the MSI-X table, and the host's epoch (R405). -/
def State.hostReset (s : State) : State :=
  let s := { s with vecs := [] }
  if s.alive 2 then s.epoch 0 else s

/-- A conventional reset of CXL-U: its cause, the end of viral, and the host's epoch. -/
def State.cxlReset (s : State) : State := ((s.wr .TOP_RST_CAUSE_CXL_RESET 1).wr .BCKT_U_STAT_VIRAL 0).hostReset

/-- The rings of the host Halted, where the ring engine runs. -/
def State.haltHostIf (s : State) (cause : Nat) : State := if s.alive 1 then s.haltHost cause else s

/-- CXL_U_RESET: a conventional reset that leaves the link up. -/
def execCxlUReset (s : State) : Res := .next ((s.haltHostIf 7).cxlReset)

/-- FUNCTION_LEVEL_RESET. -/
def execFunctionLevelReset (s : State) : Res := .next (((s.haltHostIf 7).wr .TOP_RST_CAUSE_FLR 1).hostReset)

/-- The link goes down, which is a conventional reset: rings Halted with cause 5, event 0x0807. -/
def execCxlULinkDown (s : State) : Res :=
  .next (if !s.on .BCKT_U_STAT_LINK_UP then s
    else
      let t := (s.setReg .BCKT_U_STAT 0).haltHostIf 5
      (if s.alive 1 then t.raise .BCKT_EVT_LINK_DOWN 0x0807 0 [] else t).cxlReset)

/-- The link returns to L0 with its width, its speed code and its flit mode (Table 13.14): event 0x0808, but not where it retrains for a
device reset (R335). -/
def execCxlULinkUp (width speed : Nat) (flit : Bool) (s : State) : Res :=
  .next (if s.on .BCKT_U_STAT_LINK_UP || s.boot.porst || s.boot.shutdown then s
    else
      let t := (((s.wr .BCKT_U_STAT_WIDTH width).wr .BCKT_U_STAT_SPEED speed).wr .BCKT_U_STAT_FLIT256 (b2n flit)).wr .BCKT_U_STAT_LINK_UP 1
      let t := { t with boot := { t.boot with retrain := false } }
      if s.alive 1 && !s.boot.retrain then t.raise .BCKT_EVT_LINK_UP 0x0808 0 [] else t)

/-- Viral indication (R336). -/
def execViralReceived (s : State) : Res := .next ((s.wr .BCKT_U_STAT_VIRAL 1).haltHostIf 6)

/-- A snoop is answered as not holding the line (R334). -/
def execSnoop (addr : Nat) (s : State) : Res := .next (if s.on .BCKT_U_STAT_LINK_UP then s.emit (.snoopMiss addr) else s)

/-! ### The boot (R478 to R481) -/

/-- A stage is entered; at stage 3 the boot waits for the Maker where STRAP_MFG asks for it in the Manufacturing lifecycle (R499). -/
def State.toStage (s : State) (k : Nat) : State :=
  let s := s.wr .TOP_BOOT_ST_STAGE k
  { s with boot := { s.boot with mfgHold := k == 3 && s.on .TOP_STRAP_MFG && s.nv.lifecycle == 0 } }

/-- WHIP_REMAP loaded from the remap record (R384). -/
def State.loadRemap (s : State) : State :=
  s.nv.remap.foldl (fun t (i, k, addr) =>
    let t := (t.wr .WHIP_REMAP_VALID 1 i k).wr .WHIP_REMAP_ADDR addr i k
    let t := t.wr .WHIP_INST_SPARES_USED (max (t.rd .WHIP_INST_SPARES_USED i) (k + 1)) i
    if k = 7 then t.wr .WHIP_INST_DEGRADED 1 i else t) s

/-- An instance fails its checker self-test (R385, R481): CHK_FAIL, event 0x1805; its block is held, or of a per-line block the part of its
line. -/
def State.selfTestFails (s : State) (i line : Nat) : State :=
  if !s.on .WHIP_INST_PRESENT i then s
  else
    let b := i / 64
    let s := (s.wr .WHIP_INST_CHK_FAIL 1 i).raise .WHIP_EVT_CHK_FAIL 0x1805 0 [i, 0]
    let s := s.wr .TOP_FAULT_HELD (s.rd .TOP_FAULT_HELD ||| 2 ^ b)
    if perLine b then s.wr .TOP_FAULT_LINE_HELD (s.rd .TOP_FAULT_LINE_HELD ||| 2 ^ line) else s

/-- Whether a block without which the boot fails is held (R481). -/
def State.essentialHeld (s : State) : Bool := [0, 1, 2, 3, 5, 6].any fun b => (s.rd .TOP_FAULT_HELD).testBit b

/-- The last SEQ committed to flash. -/
def State.committedSeq (s : State) : Nat :=
  (s.journal.pages.flatMap id).foldl (fun a r => if r.kind = 0xFF then a else max a r.seq) 0

/-- The KEKs that the active half of the KEK area gives at boot (R248): a blob that fails a check gives none. -/
def State.bootKeks (s : State) : Tab (List Byte) :=
  (List.range 16).foldl (fun t d => match kekBlob (s.area 5).active d with
    | some b => match s.openKek d b with
      | .inr k => Tab.put [] t d k
      | .inl _ => t
    | none => t) []

/-- NV recovery (R423, R440): the held buffer drains; torn pages are counted; SEQ moves on; the boot record; the KEKs. -/
def State.recoverNv (s : State) (torn outvoted : Nat) : State :=
  let s := s.each (List.range (ceilDiv s.journal.buffer.length 3)) fun _ t => t.programPage
  let last := s.committedSeq
  let s := { s with journal := { s.journal with lastSeq := last + 2048 } }.setReg .MRLN_JRN_SEQ last
  let s := s.wr .MRLN_NV_ST_TORN torn
  let s := if torn = 0 then s else s.raise .MRLN_NV_EVT_TORN 0x1017 0 []
  let s := s.each (List.range torn) fun _ t => t.recordOwn 5 0 0 0 0 0
  let s := s.recordOwn 6 0 0 0 0 ((last + 1) % 2 ^ 32 + ((last + 2048) % 2 ^ 32) <<< 32)
  (s.wr .MRLN_TRIPLE_ST_COPY_BAD outvoted).showNv.setKeks s.bootKeks

/-- The blocks leave reset (stage 6): every line Off, every lane disabled; the boot's triple runs until stage 7 ends. -/
def State.leaveReset (s : State) : State :=
  let s := { s with boot := { s.boot with coreUp := true } }
  let s := (s.wr .MRLN_TRIPLE_ST_ACTIVE 1).each (List.range 8) fun k t => t.wr .MRLN_CORE_ST_CSTATE (if k < 3 then 1 else 3) k
  let s := (s.wr .LNYD_STAT_PART_CLAIMS (b2n s.pins.clmIn0)).wr .MRLN_NV_ST_NV_INHIBIT (b2n (2 ≤ s.rd .BLAY_STAT_SUPPLY))
  (s.resetLanes.wr .LNYD_STAT_GATES_OPEN (b2n (!s.releases))).refreshClaim

/-- READY (R479): the triple splits, the services start; after Shutdown-orderly event 0x3007 (R440). -/
def State.bootReady (s : State) : State :=
  let s := if s.on .MRLN_TRIPLE_ST_ACTIVE then s.split else s
  let s := ((s.wr .TOP_BOOT_ST_READY 1).wr .TOP_INT_ST_READY 1).faultVector
  if s.boot.shutEvent then { s with boot := { s.boot with shutEvent := false } }.raise .BLAY_EVT_SHUTDOWN 0x3007 0 [] else s

/-- Whether the boot goes on. -/
def State.booting (s : State) : Bool := !s.boot.porst && !s.boot.shutdown && !s.on .TOP_BOOT_ST_FAIL && !s.on .TOP_BOOT_ST_READY

/-- The present stage completes (Table 20.3). -/
def State.stageDone (s : State) (fails : List (MemInst × Line)) (torn outvoted : Nat) : State :=
  match s.rd .TOP_BOOT_ST_STAGE with
  | 1 => if s.rd .BLAY_STAT_SUPPLY ≤ 1 then s.toStage 2 else s
  | 2 =>
    if s.boot.xoRunning && !s.on .TOP_FAULT_ROOT_LOST then { s with boot := { s.boot with rootLocked := true } }.toStage 3 else s
  | 3 => if s.boot.mfgHold then s else s.loadRemap.toStage 4
  | 4 =>
    let t := fails.foldl (fun u e => u.selfTestFails e.1.val e.2.val) s
    if t.essentialHeld then t.bootFail 4 else t.toStage 5
  | 5 => if [0, 1, 2].all fun i => s.copyState i != 0 then s.bootFail 3 else (s.recoverNv torn outvoted).toStage 6
  | 6 => s.leaveReset.toStage 7
  | 7 => if s.boot.coreUp then s.bootReady else s
  | _ => s

/-- BOOT_STAGE_DONE: the milliseconds for ELAPSED; of stage 4 the instances that fail their self-test with the line they serve; of stage 5
the torn journal pages and the flash words outvoted, 8 bits per copy. -/
def execBootStageDone (ms : BitVec 16) (fails : List (MemInst × Line)) (torn : BitVec 16) (outvoted : BitVec 24) (s : State) : Res :=
  .next (if s.booting then (s.wr .TOP_BOOT_ST_ELAPSED ms.toNat).stageDone fails torn.toNat outvoted.toNat else s)

/-- The causes that a stage can fail with (Table 20.3). -/
def stageCauses : Nat → List Nat
  | 2 => [1]
  | 3 => [5, 2]
  | 5 => [3, 5, 2]
  | 7 => [2]
  | _ => []

/-- BOOT_STAGE_TIMEOUT: the boot fails with a cause of its stage; stage 1 waits. -/
def execBootStageTimeout (ms : BitVec 16) (cause : Fin 6) (s : State) : Res :=
  .next (if s.booting && (stageCauses (s.rd .TOP_BOOT_ST_STAGE)).contains cause.val then
    (s.wr .TOP_BOOT_ST_ELAPSED ms.toNat).bootFail cause else s)

/-- MFG_RELEASE (R499): a JTAG requester that holds Maker lets the boot go on. -/
def execMfgRelease (s : State) : Res := .next { s with boot := { s.boot with mfgHold := false } }

/-! ### The root and XO_IN (R485, R487) -/

/-- ROOT_LOCK_LOSS: a core reset with its cause, ROOT_LOST; the claim and the lasers fall with the reset. -/
def execRootLockLoss (s : State) : Res :=
  .next (if s.boot.rootLocked then
      let t := { s with boot := { s.boot with rootLocked := false, relocking := false } }.resetTo false (if s.boot.shutdown || s.boot.porst then 0 else 2)
      (t.wr .TOP_RST_CAUSE_ROOT_LOST 1).setFault .TOP_FAULT_ROOT_LOST true true
    else s)

/-- ROOT_RELOCK_ATTEMPT: only on XO_IN, and Shutdown-orderly governs (Table 20.8). -/
def execRootRelockAttempt (s : State) : Res :=
  .next (if s.on .TOP_FAULT_ROOT_LOST && s.boot.xoRunning && !s.boot.shutdown then { s with boot := { s.boot with relocking := true } } else s)

/-- ROOT_RELOCKED: the boot goes on from stage 3. -/
def execRootRelocked (s : State) : Res :=
  .next (if s.boot.relocking then
      let s := { s with boot := { s.boot with rootLocked := true, relocking := false } }.wr .TOP_FAULT_ROOT_LOST 0
      if s.booting && s.rd .TOP_BOOT_ST_STAGE == 2 then s.toStage 3 else s
    else s)

/-- XO_LOST. -/
def execXoLost (s : State) : Res :=
  .next ({ s with boot := { s.boot with xoRunning := false, relocking := false } }.setFault .TOP_FAULT_XO_LOST true true)

/-- XO_RESTORED. -/
def execXoRestored (s : State) : Res := .next ({ s with boot := { s.boot with xoRunning := true } }.wr .TOP_FAULT_XO_LOST 0)

/-! ### FLT_N and escalation (R488, R490) -/

/-- FLT_RELEASE: every source has been clear for FLT_HOLD. -/
def execFltRelease (s : State) : Res := .next (if s.fltSource then s else { s with boot := { s.boot with fltLow := false } })

/-- TOP_FLT_CFG written (Table 20.11): Installer rights for D0; FLT_SW follows. -/
def State.fltCfgWrite (s : State) (req : Requester) (v : Nat) : State :=
  let old := s.reg .TOP_FLT_CFG
  s.write req 2 [0] (regAddr ⟨.TOP_FLT_CFG, 0, 0, 0⟩) old v false fun t =>
    let t := t.setReg .TOP_FLT_CFG (rwWrite .TOP_FLT_CFG old v)
    t.setFault .TOP_FAULT_FLT_SW (t.on .TOP_FLT_CFG_FLT_SW) false

/-- FLT_SW written. -/
def execFltSw (req : Requester) (v : Bool) (s : State) : Res := access req 0 s fun s =>
  s.fltCfgWrite req (setBits (s.reg .TOP_FLT_CFG) 31 31 (b2n v))

/-- ESCALATION_TIMEOUT: step 4 with ESC_AUTO. -/
def execEscalationTimeout (flight : List (Block × Bool)) (s : State) : Res :=
  .next (if s.on .TOP_FAULT_ESC_PEND && s.on .TOP_FLT_CFG_ESC_AUTO then
    (s.resetTo false 2 flight).wr .TOP_RST_CAUSE_ESCALATION 1 else s)

/-- INT_N is low (R489): a bit of TOP_INT_ST that TOP_INT_EN enables, READY, or FAULT. -/
def intLow (st en : Nat) : Bool := st &&& en != 0 || bits st 20 19 != 0

/-! ### Supply states (R432, R439, R440) -/

/-- The supply state that the levels and PWR_WARN_N give (Table 17.4). -/
def State.supplyLevel (s : State) : Nat :=
  if s.boot.shutdown then 3
  else max (min 2 s.belay.io) (if s.on .BLAY_STAT_PWR_WARN && s.on .BLAY_SUP_CFG_PWR_WARN_EN then 2 else 0)

/-- SUPPLY takes a value: event 0x3001 with the state and the rail; NV-Inhibit follows (R428). -/
def State.setSupply (s : State) (v : Nat) (rail : Flag) : State :=
  if s.rd .BLAY_STAT_SUPPLY = v then s
  else
    let s := s.wr .BLAY_STAT_SUPPLY v
    let s := if s.alive 6 then s.raise .BLAY_EVT_SUPPLY 0x3001 0 [v, Config.flagCode rail] else s
    if s.alive 2 then s.setInhibit (decide (2 ≤ v)) else s

/-- Shutdown-orderly is entered (R440, Table 17.5), with the bit of its cause: every block outside the island is held in reset. A further cause adds its bit. -/
def State.enterShutdown (s : State) (bit : Nat) (rail : Flag) (flight : List (Block × Bool)) : State :=
  if s.boot.shutdown then s.wr .BLAY_STAT_SHUT_CAUSE (s.rd .BLAY_STAT_SHUT_CAUSE ||| bit)
  else
    let s := (s.wr .BLAY_STAT_SHUT_CAUSE bit).setSupply 3 rail
    { s with boot := { s.boot with shutdown := true } }.resetTo true 0 flight

/-- VDD_IO stands in a zone: 0 at or above 1.77 V after Warn, to 3 below 1.65 V. -/
def State.ioZone (s : State) (z : Nat) (flight : List (Block × Bool)) : State :=
  let s := { s with belay := { s.belay with io := z } }
  if z = 3 then s.enterShutdown 1 .railIo flight else s.setSupply s.supplyLevel .railIo

/-- SUPPLY_THRESHOLD_CROSS: a filtered crossing. -/
def execSupplyThresholdCross (e : RailEdge) (flight : List (Block × Bool)) (s : State) : Res :=
  .next (match e with
    | .ioFall175 => s.ioZone (max 1 s.belay.io) flight
    | .ioFall171 => s.ioZone (max 2 s.belay.io) flight
    | .ioFall165 => s.ioZone 3 flight
    | .ioRise173 => s.ioZone (min 1 s.belay.io) flight
    | .ioRise177 => s.ioZone 0 flight
    | .coreOut => s.enterShutdown 2 .railCore flight)

/-- PWR_WARN: the pin changes; the operand: it is low. -/
def execPwrWarn (low : Bool) (s : State) : Res :=
  .next (let t := s.wr .BLAY_STAT_PWR_WARN (b2n low)
    t.setSupply t.supplyLevel .pinWarn)

/-- SHUTDOWN_RESTART: the supplies and Tj have been good for 100 ms: a device reset. -/
def execShutdownRestart (s : State) : Res :=
  .next (if s.boot.shutdown && s.belay.io < 2 then
      let s := { s with boot := { s.boot with shutdown := false, shutEvent := true } }
      let s := (s.resetTo true s.firstStage).wr .TOP_RST_CAUSE_SHUTDOWN 1
      s.wr .BLAY_STAT_SUPPLY s.supplyLevel
    else s)

/-- DERATE with its event on entry and exit (R432). -/
def State.setDerate (s : State) (v : Bool) : State :=
  if s.on .BLAY_STAT_DERATE = v then s else (s.wr .BLAY_STAT_DERATE (b2n v)).raise .BLAY_EVT_DERATE 0x3003 0 [] (!v)

/-- TJ_SAMPLE: Tj, the effective budget, DERATE; at TJ_TRIP in two samples in a row, 1 ms apart, Shutdown-orderly (Table 17.4). Tj taken for
want of valid sensors does not trip (R454). -/
def execTjSample (flight : List (Block × Bool)) (s : State) : Res := act 6 s fun s =>
  let tj := s.junction
  let s := s.wr .BLAY_STAT_TJ (unsigned 8 (clip (-128) 127 (tj / 8)))
  let s := s.wr .BLAY_STAT_EFF_BUD (s.effectiveBudget / 25)
  let s := s.setDerate (decide (8 * (s.rd .BLAY_BUD_CFG_TJ_SOFT : Int) ≤ tj))
  let hot := decide (8 ≤ s.jsCount) && decide (8 * (s.rd .BLAY_BUD_CFG_TJ_TRIP : Int) ≤ tj)
  let was := s.belay.trip
  let s := { s with belay := { s.belay with trip := hot } }
  if hot && was then s.enterShutdown 4 .railTj flight else s

/-- What follows a BLAY commit: PWR_WARN_EN may change the supply state. -/
def State.afterBelay (s : State) : State := s.setSupply s.supplyLevel .pinWarn

end Sys2Proof.Machine
end

