-- ==== Sys2Proof/Machine/Seconds.lean ====
section
/-! DEFINITION. The second rollover of the time of day (R327), and what every block does once per second. -/

namespace Sys2Proof.Machine

open Sys2Proof

/-- What one block does at a second, where it is out of reset. -/
def State.blockSecond (s : State) (b : Nat) (f : State → State) : State := if s.alive b then f s else s

/-- SECOND_ROLLOVER: Halyard first (an armed load, or the count, and PPS_OUT), then the other blocks. -/
def execSecondRollover (s : State) : Res :=
  let s := (s.blockSecond 5 State.halyardSecond).blockSecond 1 State.memorySecond
  let s := (s.blockSecond 2 fun t => t.marlineSecond.rolesSecond).blockSecond 3 State.whipSecond
  let s := (s.blockSecond 6 State.belaySecond).blockSecond 7 State.tallySecond
  let s := (s.blockSecond 12 State.cleatSecond).blockSecond 14 State.seizingSecond
  .next ((s.blockSecond 15 State.bendSecond).blockSecond 17 State.twineSecond)

end Sys2Proof.Machine
end

