-- ==== Sys2Proof/Machine/Commit.lean ====
section
/-! DEFINITION. The commit mechanism (R9, R510 to R512): the shadow image and its CRC, the rights and rules of each block's set, and what
an applied set starts, the line modes of TOP among it (R30 to R32). -/

namespace Sys2Proof.Machine

open Sys2Proof

/-! ### The shadow image (R510) -/

/-- The instances of a register, in ascending address order within it. -/
def regKeys (id : RegId) : List RegKey :=
  match (regSpec id).dims with
  | [] => [⟨id, 0, 0, 0⟩]
  | [(n, _)] => (List.range n).map fun i => ⟨id, i, 0, 0⟩
  | [(n, _), (m, _)] => (List.range n).flatMap fun i => (List.range m).map fun j => ⟨id, i, j, 0⟩
  | (n, _) :: (m, _) :: (p, _) :: _ =>
    (List.range n).flatMap fun i => (List.range m).flatMap fun j => (List.range p).map fun k => ⟨id, i, j, k⟩

/-- Two lists of registers in address order merged into one; the first argument bounds the number of steps. -/
def mergeKeys : Nat → List RegKey → List RegKey → List RegKey
  | 0, a, b => a ++ b
  | _ + 1, [], b => b
  | _ + 1, a, [] => a
  | n + 1, x :: a, y :: b =>
    if regAddr x ≤ regAddr y then x :: mergeKeys n a (y :: b) else y :: mergeKeys n (x :: a) b

/-- The registers and table entries of a block that hold an RWC field, in ascending address order. -/
def rwcKeys (b : Nat) : List RegKey :=
  ((blockRegs b).filter fun id => rwcMask id != 0).foldl (fun l id =>
    let k := regKeys id
    mergeKeys (l.length + k.length) l k) []

/-- The shadow image of a block: each register at its full width, RWC fields with their shadow values, all other bits zero. -/
def State.shadowImage (s : State) (b : Nat) : List Byte :=
  (rwcKeys b).flatMap fun r => leBytes ((regSpec r.id).width / 8) (s.shadow.get r &&& rwcMask r.id)

/-- SHADOW_CRC of a block. -/
def State.shadowCrc (s : State) (b : Nat) : Nat := crc32c (s.shadowImage b)

/-! ### Rights (R412, R511) -/

/-- The domains of the units that a register concerns (R412): a register that configures no data unit concerns D0. -/
def State.regDoms (s : State) (r : RegKey) : List Nat :=
  match r.id with
  | .TOP_LINE_MODE | .BLAY_LINE_CFG | .MRLN_GCC_CFG | .SHET_VID => [s.lineDom r.i]
  | .BCKT_EVQ => [r.i]
  | .BCKT_RING_CFG | .BCKT_RING_ST => [s.ringDom r.i]
  | .MRLN_MB_CFG => [s.rd .MRLN_MB_CFG_MB_DOM r.i]
  | .BRAD_SC_CFG | .BRAD_SC_LOAD | .BRAD_SC_ACT | .SPLC_SC_CFG | .SPLC_SC_EST | .SPLC_SC_HIST | .CLET_SC_CFG | .CLET_SC_STAT =>
    [s.slotDom r.i r.j]
  | .BGHT_UP_CFG => [s.rd .BGHT_UP_CFG_UP_DOM r.i r.j]
  | .BGHT_LEAF | .BGHT_LEAF_ST => [s.leafDom r.i r.j]
  | .SEIZ_KC_CFG | .SEIZ_KC_ST | .SEIZ_KC_CNT => [s.kcDom r.i]
  | .BEND_PG_CFG | .BEND_PG_DLY | .BEND_PG_STAT | .BEND_PATH_ST | .BEND_PG_CNT => [s.pgDom r.i]
  | .SHET_CLI_CFG | .SHET_ODU_CFG | .SHET_CLI_STAT | .SHET_CLI_EVT | .SHET_CNT => [s.cliDom r.i]
  | .SHET_TS => [s.tsDom r.i]
  | .SHET_HTS => [if s.on .SHET_HTS_EN r.i then s.cliDom (s.rd .SHET_HTS_CLIENT r.i) else 0]
  | .TWIN_LANE_CFG | .TWIN_TXFFE | .TWIN_RXEQ | .TWIN_SCAN | .TWIN_STAT | .TWIN_EYE | .TWIN_EVT | .TWIN_CNT => [s.laneDom r.i]
  | .TWIN_QUAD_CFG => [0, 1, 2, 3].map fun k => s.laneDom (4 * r.i + k)
  | id =>
    let b := regBlock id
    if 8 ≤ b && b ≤ 13 && !(regSpec id).dims.isEmpty then [s.lineDom r.i] else [0]

/-- The domains of the line and the subcarrier that a bound slot is counted against (R203). -/
def State.bindDoms (s : State) (k : Nat) : List Nat :=
  let n := s.rd .SHET_TS_LINE k
  if n < 3 then [s.lineDom n, s.slotDom n (s.rd .SHET_TS_SC k)] else []

/-- The further domains that a change of a register concerns: of a binding (R203, R244, R263), of a domain field (R43). -/
def State.bindingDoms (s : State) (r : RegKey) : List Nat :=
  match r.id with
  | .BRAD_SC_CFG => [s.rd .BRAD_SC_CFG_SC_DOM r.i r.j]
  | .SHET_TS => if s.on .SHET_TS_EN r.i then s.bindDoms r.i else []
  | .SEIZ_KC_CFG =>
    let u := s.rd .SEIZ_KC_CFG_UNIT r.i
    if !s.on .SEIZ_KC_CFG_EN r.i then []
    else if s.on .SEIZ_KC_CFG_KIND r.i then [s.leafDom (s.rd .SEIZ_KC_CFG_LINE r.i) u] else [s.cliDom u]
  | .BEND_PG_CFG | .BEND_PG_DLY =>
    let lines := ([0, 1] : List Nat).filter fun p => s.localPath r.i p && decide (s.member r.i p < 3)
    s.cliDom (s.rd .BEND_PG_CFG_CLIENT r.i) :: lines.map fun p => s.lineDom (s.member r.i p)
  | _ => []

/-- The slots of a client's bindings, whose lines and subcarriers a change of CLI_DOM concerns (R203). -/
def State.clientBindDoms (s : State) (c : Nat) : List Nat :=
  (s.boundSlots.filter fun k => s.rd .SHET_TS_CLIENT k == c).flatMap s.bindDoms

/-- Every domain that a changed register of a commit concerns, before and after the change. -/
def commitDoms (old t : State) (r : RegKey) : List Nat :=
  let moved := decide (r.id = .SHET_CLI_CFG) && old.cliDom r.i != t.cliDom r.i
  old.regDoms r ++ t.regDoms r ++ old.bindingDoms r ++ t.bindingDoms r ++
    (if moved then old.clientBindDoms r.i ++ t.clientBindDoms r.i else [])

/-- The registers of a block whose value a commit changes. -/
def State.changedKeys (s t : State) (b : Nat) : List RegKey := (s.shadowKeys b).filter fun r => s.regs.get r != t.regs.get r

/-- The cause that a block gives a commit without the rights it needs (Tables 2.5, 4.19, 7.7, 8.5, 9.6, 10.6, 11.7, 12.8, 17.9, 18.7
and 19.7, R411). -/
def rightsCause (b : Nat) : Option Nat :=
  match b with
  | 2 => some 2
  | 4 => some 4
  | 5 => some 5
  | 6 => some 6
  | 7 => some 3
  | 9 => some 5
  | 11 => some 8
  | 14 => some 5
  | 15 => some 5
  | 16 => some 7
  | 17 => some 4
  | 18 => some 4
  | _ => none

/-- The unit of a register, as its block's REFUSE register counts units (R511). -/
def regUnit (r : RegKey) : Nat :=
  match r.id with
  | .TWIN_QUAD_CFG => 4 * r.i
  | .SHET_TS | .SHET_HTS => 0x3F
  | .SHET_VID | .SHET_FLX_CFG => 0
  | .BLAY_LINE_CFG => 0
  | _ => r.i

/-- The lowest unit of the changed registers for which a requester lacks Installer rights, with the domain concerned; a commit that
changes nothing concerns D0. -/
def lackingUnit (old t : State) (req : Requester) (keys : List RegKey) : Option (Nat × Nat) :=
  if keys.isEmpty then (if old.permits req 2 [0] then none else some (0, 0))
  else
    (keys.filter fun r => !old.permits req 2 (commitDoms old t r)).foldl (fun a r =>
      let u := regUnit r
      let d := (old.regDoms r).headD 0
      match a with
      | some (v, _) => if v ≤ u then a else some (u, d)
      | none => some (u, d)) none

/-! ### The rules of TOP (Table 1.9) -/

/-- The line modes and the device attribute that a set gives. -/
def State.setMode (s : State) (n : Nat) : Nat := s.rd .TOP_LINE_MODE_MODE n

/-- The rules of Table 1.9 over the set that the commit would leave: MODE_STAT still shows the modes in force. REGEN_PEER = 3 is refused on
a line in any mode (DEDUCED, log entry 74: cause 1 names any reserved value, Table 1.7 ignores the field outside Regenerator). -/
def checkTop (t : State) : Option Breach :=
  let mode := t.setMode
  let frame (n : Nat) := t.rd .TOP_LINE_MODE_FRAME n
  let peer (n : Nat) := t.rd .TOP_LINE_MODE_REGEN_PEER n
  let some (p : Nat → Bool) : Bool := [0, 1, 2].any p
  let mate := t.on .TOP_DEV_MODE_MATE
  firstBreach [
    (1, broken (some fun n => 3 < mode n || peer n == 3)),
    (2, broken (some fun n => mode n == 3 &&
      (peer n == n || mode (peer n) != 3 || peer (peer n) != n || frame (peer n) != frame n))),
    (3, broken (some fun n => mode n == 2 && frame n == 1)),
    (4, broken (some fun n => t.lineMode n != 0 && mode n != 0 && (mode n != t.lineMode n || frame n != b2n (t.lineOzr n)))),
    (5, broken (some fun n => !(t.groupsOn n).isEmpty && (mode n != 1 || frame n != 0))),
    (6, broken (mate && t.rd .LNYD_CLAIM_CLAIM_NUM == 0)),
    (7, broken (t.on .TOP_MODE_STAT_MATE_ACTIVE && !mate &&
      (List.range 16).any fun g => t.on .BEND_PG_CFG_EN g && t.on .BEND_PG_CFG_KIND g)),
    (8, broken (some fun n => t.lineMode n == 0 && mode n != 0 && (t.rd .TOP_FAULT_LINE_HELD).testBit n))]

/-- The fields of MODE_STAT of a line. -/
def modeFlds : Nat → Fld × Fld
  | 0 => (.TOP_MODE_STAT_L0_MODE, .TOP_MODE_STAT_L0_FRAME)
  | 1 => (.TOP_MODE_STAT_L1_MODE, .TOP_MODE_STAT_L1_FRAME)
  | _ => (.TOP_MODE_STAT_L2_MODE, .TOP_MODE_STAT_L2_FRAME)

/-- A line enters Off (R32): its laser is disabled, its blocks power down. FRAME of MODE_STAT then reads 0 (DESIGN CHOICE, log entry 74: no
framing is in force on a line in Off). -/
def State.lineOff (s : State) (n : Nat) : State :=
  let hub := s.lineMode n == 2
  let s := ((s.wr (modeFlds n).1 0).wr (modeFlds n).2 0).wr (busyFld n) 0
  let s := (((s.braidOff n).spliceOff n).cleatOff n).hitchOff n
  if hub then s.hubOff n else s

/-- A line leaves Off (R32, R483): BUSY, and the calibrations start. -/
def State.lineOn (s : State) (n : Nat) : State :=
  let s := ((s.wr (modeFlds n).1 (s.setMode n)).wr (modeFlds n).2 (s.rd .TOP_LINE_MODE_FRAME n)).wr (busyFld n) 1
  let s := (((s.cleatOn n).hitchOn n).braidOn n).spliceOn n
  let s := if s.lineMode n = 2 then s.hubOn n else s
  s.lineConsequences n

/-- What an applied TOP commit does: the lines to Off first, then those out of Off, then the attribute. -/
def afterTop (new : State) : State :=
  let s := new.each [0, 1, 2] fun n t => if t.lineMode n != 0 && t.setMode n == 0 then t.lineOff n else t
  let s := s.each [0, 1, 2] fun n t => if t.lineMode n == 0 && t.setMode n != 0 then t.lineOn n else t
  let mate := s.on .TOP_DEV_MODE_MATE
  if mate != s.on .TOP_MODE_STAT_MATE_ACTIVE then (s.wr .TOP_MODE_STAT_MATE_ACTIVE (b2n mate)).mateChanged else s

/-! ### Commits (R511) -/

/-- The COMMIT_ST register of a block; STRD, BCKT and WHIP have none (R509). -/
def commitSt (b : Nat) : Option RegId :=
  match b with
  | 0 => some .TOP_COMMIT_ST
  | 2 => some .MRLN_COMMIT_ST
  | 4 => some .FTHM_COMMIT_ST
  | 5 => some .HLYD_COMMIT_ST
  | 6 => some .BLAY_COMMIT_ST
  | 7 => some .TALY_COMMIT_ST
  | 9 => some .BRAD_COMMIT_ST
  | 10 => some .SPLC_COMMIT_ST
  | 11 => some .BGHT_COMMIT_ST
  | 12 => some .CLET_COMMIT_ST
  | 13 => some .HTCH_COMMIT_ST
  | 14 => some .SEIZ_COMMIT_ST
  | 15 => some .BEND_COMMIT_ST
  | 16 => some .SHET_COMMIT_ST
  | 17 => some .TWIN_COMMIT_ST
  | 18 => some .LNYD_COMMIT_ST
  | _ => none

/-- The rules of a block's set: the state as it stands and as the commit would leave it. A block that is held refuses with its cause for a
field out of range (R481). -/
def checkSet (b : Nat) (old t : State) : Option Breach :=
  if !perLine b && (old.rd .TOP_FAULT_HELD).testBit b then some ⟨1, 0, 0⟩
  else match b with
  | 0 => checkTop t
  | 2 => checkMarline old t
  | 4 => checkFathom t
  | 5 => checkHlyd t
  | 6 => checkBelay t
  | 7 => checkTally t
  | 9 => checkBraid t
  | 10 => checkSplice t
  | 11 => checkBight t
  | 12 => checkCleat old t
  | 13 => checkHitch t
  | 14 => checkSeizing old t
  | 15 => checkBend old t
  | 16 => checkSheet old t
  | 17 => checkTwine t
  | 18 => checkLanyard old t
  | _ => none

/-- What an applied set starts, with the state before it. -/
def afterSet (b : Nat) (old new : State) : State :=
  match b with
  | 0 => afterTop new
  | 2 => afterMarline old new
  | 5 => afterHlyd old new
  | 6 => new.afterBelay
  | 9 => (afterBraid old new).each [0, 1, 2] fun n t => t.refreshCtrl n
  | 10 => afterSplice old new
  | 11 => afterBight old new
  | 12 => (afterCleat new).each [0, 1, 2] fun n t => t.refreshBpq n
  | 13 => afterHitch old new
  | 14 => afterSeizing new
  | 15 => (afterBend old new).refreshSegments
  | 16 =>
    let t := (afterSheet old new).refreshSegments
    (t.each (List.range 16) fun g u => if u.on .BEND_PG_CFG_EN g then u.refreshPaths g else u).each (List.range 48) fun l u => u.rateChecked old l
  | 17 => afterTwine old new
  | 18 => afterLanyard new
  | _ => new

/-- A commit applies: the set takes its shadow values, or, for TALY while a sequence runs, waits for its end (R460); LAST reads 1. -/
def State.applySet (s t : State) (b : Nat) (st : RegId) : State :=
  let keys := s.changedKeys t b
  let wait := b == 7 && s.on .TALY_MON_ST_RUNNING
  let cells : RegStore := (s.shadowKeys b).map fun r => ⟨r, t.regs.get r⟩
  let u :=
    if wait then { s with shadow := t.shadow, tally := { s.tally with due := some cells } }
    else if keys.isEmpty then t
    else afterSet b s t
  (u.wr ⟨st, 1, 0⟩ 1).incWrap ⟨st, 31, 16⟩

/-- A commit is refused by a rule or for want of rights: LAST reads 3. -/
def State.refuseSet (s : State) (b : Nat) (st : RegId) (x : Breach) : State :=
  (s.wr ⟨st, 1, 0⟩ 3).refuse b x.cause x.unit x.dom

/-- A CRC mismatch: CRC_BAD, LAST reads 2, and the event of cause 0x00F. -/
def State.crcBad (s : State) (b : Nat) (st : RegId) : State :=
  let s := ((s.inc ⟨st, 15, 8⟩).wr ⟨st, 1, 0⟩ 2)
  let s := if b = 0 then s.wr .TOP_EVT_CRC_BAD 1 else s
  s.event (b * 2048 + 0x00F) 0 []

/-- A commit is judged: the state after it and the RESULT of its journal record (0 applied). -/
def State.judgeCommit (s t : State) (req : Requester) (b crc : Nat) (st : RegId) : State × Nat :=
  if crc ≠ s.shadowCrc b then (s.crcBad b st, 15)
  else match lackingUnit s t req (s.changedKeys t b) with
    | some (u, d) =>
      match rightsCause b with
      | some c => (s.denied.refuseSet b st ⟨c, u, d⟩, c)
      | none => (s.denied.wr ⟨st, 1, 0⟩ 3, 4)
    | none =>
      match checkSet b s t with
      | some x => (s.refuseSet b st x, x.cause)
      | none => (s.applySet t b st, 0)

/-- A write of CRC to a block's COMMIT register (R511), journaled where it is made with Installer rights (R419); where the journal cannot
take it, it is discarded (R428). A block without the register has no address there (R8). -/
def State.commit (s : State) (req : Requester) (b crc : Nat) : State :=
  match commitSt b with
  | none => s.unassignedWrite
  | some st =>
    let t := s.takeShadow b
    let doms := match s.changedKeys t b with
      | [] => [0]
      | l => l.flatMap fun r => commitDoms s t r
    let role := s.topRole req doms
    if 2 ≤ role && s.journalBlocked then s.unjournaled
    else
      let (u, res) := s.judgeCommit t req b crc st
      if 2 ≤ role then u.record req role (doms.headD 0) 2 res (b <<< 22 + 0x300000) 0 crc crc else u

/-- A commit as an access (R12, R486): a held block still judges it (R481). -/
def State.commitAccess (s : State) (req : Requester) (b crc : Nat) : State :=
  let t := s.dropLatch req
  if t.boot.coreUp && req != .i3c then t.commit req b crc else t

/-- COMMIT. -/
def execCommit (req : Requester) (block : Block) (crc : BitVec 32) (s : State) : Res :=
  .next (s.commitAccess req block crc.toNat)

end Sys2Proof.Machine
end

