-- ==== Sys2Proof/WellFormed.lean ====
section
/-! DEFINITION. The well-formed commands: operands that the device can be given. A command that is not well formed names no access and no
happening of the device; exec still answers for it. -/

namespace Sys2Proof

/-- A value of n bits. -/
def fits (n v : Nat) : Bool := v < 2 ^ n

/-- A byte string of n bytes. -/
def hasBytes (n : Nat) (l : List Byte) : Bool := l.length == n

/-- An address within BAR0, 128 MiB (Table 13.3), with the bytes accessed. -/
def inBar0 (addr bytes : Nat) : Bool := addr + bytes ≤ 2 ^ 27

/-- A register access of legal form (R8). -/
def regForm (addr : Nat) (wide : Bool) : Bool := let n := if wide then 8 else 4; inBar0 addr n && addr % n == 0

/-- The legal forms of a requester (R8, R519). -/
def legalForm (req : Requester) (addr bytes : Nat) : Bool :=
  if req = .i3c then bytes == 4 && addr % 4 == 0 else (bytes == 4 || bytes == 8) && addr % bytes == 0

/-- A code in two's complement within ± most. -/
def withinCode (most v : Nat) : Bool := fits 16 v && (v ≤ most || 65536 ≤ v + most)

/-- The soft values, or the calibration values, of a length. -/
def hasLength {α : Type} (n : Nat) (l : List α) : Bool := l.length == n

/-- An estimate is a code within the range of Table 3.9. -/
def estimateForm (e : Estimate) : Bool :=
  match e with
  | .snr _ x y c => fits 8 x && fits 8 y && fits 8 c
  | .snrWindow _ => true
  | .cd v => withinCode 20000 v
  | .dgd v => fits 12 v
  | .dgdSub _ v => v ≤ 254
  | .pdl v => fits 8 v
  | .osnr v _ => fits 12 v
  | .foff v => fits 16 v
  | .clockOffset v => withinCode 10000 v
  | .sopPeak v => fits 16 v
  | .overCount => true

/-- What can be programmed into flash and OTP (Tables 16.3 and 16.4). -/
def imageForm (f : FlashImage) : Bool :=
  hasBytes 48 f.makerHash && f.copies.length == 3 && hasBytes 1408 f.keks

/-- The operands a command may carry. -/
def Instr.wf : Instr → Bool
  | .registerWrite _ addr wide value => regForm addr wide && fits (if wide then 64 else 32) value
  | .malformedAccess req addr bytes _ => inBar0 addr bytes && !legalForm req addr bytes
  | .lowHalfRead _ addr => inBar0 addr 4 && addr % 8 == 0
  | .highHalfRead _ addr => inBar0 addr 4 && addr % 8 == 4
  | .commit _ _ _ => true
  | .fifoRecentre _ _ => true
  | .loadingEvaluation _ => true
  | .manGo _ _ => true
  | .mobReceived _ => true
  | .armTimeout _ => true
  | .countdownTick _ => true
  | .rxTableSwitch _ => true
  | .rxFallback _ => true
  | .forcedReversion _ => true
  | .pdTableWrite _ _ lut _ idx value => idx < (if lut then 512 else 33) && fits (if lut then 8 else 16) value
  | .dacFgReq _ _ => true
  | .dacFgCalDone _ _ _ cal => hasLength 4 cal && cal.all (hasLength 4)
  | .dacBgCalUpdate _ _ c => hasLength 4 c
  | .adcFgReq _ _ => true
  | .adcFgCalDone _ _ _ cal => hasLength 4 cal && cal.all (hasLength 8)
  | .adcBgCalUpdate _ _ c => hasLength 8 c
  | .modulationFrame _ _ _ => true
  | .markerLost _ => true
  | .freqSearchDone _ => true
  | .cdSearchDone _ => true
  | .timingDone _ => true
  | .blindConvergeDone _ _ => true
  | .pilotLockDone _ _ => true
  | .acqBoundExpiry _ _ => true
  | .rawLosWindow _ _ _ => true
  | .freezeHoldExpiry _ _ => true
  | .freeze _ _ => true
  | .unfreeze _ _ => true
  | .reacq _ _ => true
  | .subcarrierDiverge _ _ _ => true
  | .tapDemandReport _ _ demand => fits 6 demand
  | .estimateRefresh _ est => estimateForm est
  | .chanSwap _ values => values.length == 512 && values.all fun v => fits 8 v.1 && fits 8 v.2
  | .phaseSlip _ => true
  | .periodStart _ => true
  | .mapComplete _ => true
  | .controlBlock _ offset => fits 26 offset
  | .detectionWindowOpen _ _ _ => true
  | .provisionalLock _ _ _ _ _ => true
  | .burstHeaderDecoded _ _ soft _ _ => hasLength 256 soft && soft.all fun v => -16 ≤ v && v ≤ 15
  | .capture _ _ _ _ _ _ => true
  | .burstEnd _ _ _ _ _ _ => true
  | .detectionWindowClose _ _ => true
  | .staleTimeout _ _ => true
  | .discoveryCycle _ => true
  | .upProfileEvaluation _ _ => true
  | .dnLoadingEvaluation _ _ => true
  | .dnLoadSwitch _ _ => true
  | .burstDecodeDone _ _ _ => true
  | .leafRerange _ => true
  | .leafStatus _ => true
  | .leafMgmt _ => true
  | .windowShift _ _ _ => true
  | .ngmiMeasure _ => true
  | .shortSecond _ _ => true
  | .lashingCodeword _ => true
  | .fecSdSecond _ => true
  | .ohSwitchTx _ => true
  | .ohSwitchRx _ => true
  | .frameTransmit _ _ => true
  | .fawMatch _ _ => true
  | .candidateCheck _ _ => true
  | .frameReceived _ => true
  | .outOfFrame _ => true
  | .outOfMultiframe _ => true
  | .defectPersistenceExpiry _ _ => true
  | .ssfClear _ => true
  | .burstFrameReceived _ _ => true
  | .pmWindowEnd _ => true
  | .pmWindowCommit _ => true
  | .intervalRecordWrite _ _ => true
  | .forceAis _ _ _ => true
  | .forceBdi _ _ _ => true
  | .clientFrameIngress _ _ _ _ _ _ _ => true
  | .egressHeader _ _ => true
  | .cowReceived _ => true
  | .gmpCmUpdate _ target _ => fits 24 target
  | .egressResume _ => true
  | .laneConverged _ _ => true
  | .trainingComplete _ => true
  | .trainingTimerExpiry _ _ => true
  | .untrainedRetry _ => true
  | .laneLos _ => true
  | .laneLosClear _ => true
  | .cdrLoss _ => true
  | .coeffRequest _ _ _ => true
  | .txffeWrite _ _ _ => true
  | .scanReq _ _ => true
  | .marginScanAuto _ => true
  | .scanDone _ sweeps => hasLength 6 sweeps && sweeps.all (hasLength 64)
  | .loopbackSlip _ => true
  | .segmentClose _ => true
  | .tagWaitExpiry _ => true
  | .rekeyTimer _ => true
  | .kxConfirmTimeout _ => true
  | .kxRetry _ => true
  | .keyLoad _ => true
  | .keySwitch _ => true
  | .keyZero _ => true
  | .keyClearAf _ => true
  | .keyStatus _ => true
  | .linkLoad _ => true
  | .unitCopyComplete _ _ _ => true
  | .unitPlayout _ _ j _ _ => j < 256
  | .deltaMeasure _ => true
  | .outOfWindow _ _ => true
  | .pathWtrExpiry _ _ => true
  | .autoRealign _ _ => true
  | .lockstepRecordReceived r _ => hasBytes 16 r
  | .lockstepLoss _ => true
  | .pgLockout _ => true
  | .pgForce _ => true
  | .pgClear _ => true
  | .pgRealign _ => true
  | .pgStatus _ => true
  | .helloSend => true
  | .helloReceived _ _ _ => true
  | .creditSend => true
  | .creditReceived _ _ => true
  | .ckptPacketReceived _ _ => true
  | .trainingAttemptExpiry => true
  | .helloTimeout => true
  | .mateLaneSyncLoss _ => true
  | .mateAbsentRetry => true
  | .mateScanReq _ _ => true
  | .mateScanDone _ sweeps => hasLength 2 sweeps && sweeps.all (hasLength 64)
  | .partnerClaimChange _ => true
  | .takeoverRestoreDone _ => true
  | .claimFrameReceived _ => true
  | .claimGapDone => true
  | .checkpointSetDue _ => true
  | .checkpointSetReceived => true
  | .checkpointSelfWrite => true
  | .rehearsal _ => true
  | .refActivityLoss _ => true
  | .refActivityReturn _ => true
  | .freqMonitorUpdate foffs _ => foffs.length == 9
  | .ppsInPulse _ => true
  | .refWtrExpiry _ => true
  | .selectionBoundary means => means.length == 10
  | .buildOutDone => true
  | .dpllLocked => true
  | .holdoverDegrade => true
  | .disputeEnd rank => 1 ≤ rank && rank ≤ 15
  | .modeAutomatic _ => true
  | .forcedHoldover _ => true
  | .forcedFreeRun _ => true
  | .softwareLoop _ => true
  | .ffoWrite _ _ => true
  | .phaseStepGo _ _ slew _ => 1 ≤ slew && slew ≤ 1000
  | .phaseStepDone => true
  | .todArm _ _ => true
  | .secondRollover => true
  | .todMessageReceived m _ => hasBytes 16 m
  | .todSnap _ => true
  | .doorbell _ offset bytes _ => offset + bytes ≤ 2 ^ 21
  | .ringCfgWrite _ _ _ _ => true
  | .descriptorAccept _ _ => true
  | .commandCompletion _ _ => true
  | .commandTimeout _ => true
  | .msixTimer _ => true
  | .msixUnmask _ offset bytes _ => offset + bytes ≤ 2 ^ 16
  | .cxlULinkDown => true
  | .cxlULinkUp width speed _ => fits 5 width && fits 3 speed
  | .viralReceived => true
  | .nop _ => true
  | .ringQuery _ => true
  | .memPortEnable _ _ => true
  | .memPortDisable _ _ => true
  | .memLinkUp _ width speed _ => fits 5 width && fits 3 speed
  | .enumerationDone _ _ => true
  | .enumerationFault _ _ => true
  | .memPortFaultRetry _ => true
  | .memLinkDown _ => true
  | .regionCfgWrite _ _ _ _ => true
  | .regionFillDone _ => true
  | .poisonRead _ _ _ => true
  | .scrubVisit _ _ _ _ _ => true
  | .whipInjectArm _ _ _ => true
  | .regionStatus _ => true
  | .regionRefill _ => true
  | .poisonList _ => true
  | .whipStatus _ => true
  | .watchdogExpiry _ => true
  | .dataAbort _ _ _ => true
  | .voterDisagree _ => true
  | .recoveryDone => true
  | .tripleSplit => true
  | .jobDispatch _ _ => true
  | .jobYield _ _ => true
  | .sliceExpiry _ => true
  | .coreGrantWindow => true
  | .mbPost _ _ _ _ => true
  | .mbPop _ _ _ => true
  | .gcc0PacketReceived _ => true
  | .svcStatus _ => true
  | .svcRestart _ => true
  | .gccSend _ => true
  | .roleChallenge _ => true
  | .roleResponse _ => true
  | .roleDrop _ => true
  | .roleStatus _ => true
  | .auditRead _ => true
  | .auditAck _ => true
  | .nvWrite _ => true
  | .nvCommit _ _ => true
  | .otpWrite _ => true
  | .nvStatus _ => true
  | .authNew _ _ => true
  | .authSubmit _ _ => true
  | .lockoutExpiry _ => true
  | .sessionExpiry _ => true
  | .journalPageProgram => true
  | .journalDrain => true
  | .grantComputation => true
  | .calGainUpdate _ => true
  | .tjSample _ => true
  | .avsRaise _ _ => true
  | .avsLower _ _ => true
  | .supplyThresholdCross _ _ => true
  | .shutdownRestart => true
  | .feedMonitor _ _ _ _ => true
  | .feedOutOfRange _ => true
  | .holdTest _ _ => true
  | .pdmMeasure now _ _ _ => now.length == 128
  | .ageingReplan => true
  | .monTrig _ => true
  | .monTimerTrigger => true
  | .monStepDone _ => true
  | .urgGo _ _ => true
  | .monUrgent _ => true
  | .urgentStepDone _ => true
  | .thermalScan readings => readings.length == 16
  | .commonTrigger _ _ _ _ => true
  | .snapPostDone _ => true
  | .snapDrainStart _ => true
  | .snapDrainDone _ _ blocks => hasLength 4 blocks
  | .snapArm _ => true
  | .snapDisarm _ => true
  | .snapFire _ _ _ _ => true
  | .snapStatus _ => true
  | .dumpTick => true
  | .dumpDone => true
  | .counterWrite _ addr wide value inc => regForm addr wide && fits (if wide then 64 else 32) value && fits 48 inc
  | .bwWindowEnd _ _ _ _ _ _ => true
  | .instructionSample _ _ _ _ _ => true
  | .cntDump _ => true
  | .cntStatus _ => true
  | .islandPowerOn flash => flash.all imageForm
  | .porstAssert _ => true
  | .porstRelease _ _ _ => true
  | .bootStageDone _ _ _ _ => true
  | .bootStageTimeout _ cause => cause != 0
  | .deviceReset _ _ => true
  | .coreReset _ _ => true
  | .cxlUReset => true
  | .functionLevelReset => true
  | .rootLockLoss => true
  | .rootRelockAttempt => true
  | .rootRelocked => true
  | .xoLost => true
  | .xoRestored => true
  | .fltRelease => true
  | .fltSw _ _ => true
  | .escalationTimeout _ => true
  | .registerRead _ addr wide => regForm addr wide
  | .bootStRead _ => true
  | .pwrWarn _ => true
  | .ingressCsf _ => true
  | .ingressCsfClear _ => true
  | .partnerDataLoss _ lo hi => lo ≤ hi
  | .endMarker _ _ _ => true
  | .snoop _ => true
  | .mfgRelease => true

end Sys2Proof
end

