-- ==== Sys2Proof/Machine/Access.lean ====
section
/-! DEFINITION. Register accesses (R5 to R14, R486, R514, R518, R519): reads with the holding slots, writes by the access code of each field
with the rights they need, and the registers whose writes have an effect of their own. -/

namespace Sys2Proof.Machine

open Sys2Proof

/-! ### What a register reads -/

/-- Whether a register is an event register of its block (R348). -/
def isEvt (id : RegId) : Bool :=
  ([.TOP_EVT, .BCKT_EVT, .BCKT_MEM_EVT, .MRLN_EVT, .MRLN_NV_EVT, .WHIP_EVT, .FTHM_EVT, .HLYD_EVT, .BLAY_EVT, .TALY_EVT, .TALY_AGE_EVT,
    .STRD_EVT, .BRAD_LOAD_EVT, .SPLC_EVT, .BGHT_EVT, .CLET_EVT, .HTCH_EVT, .SEIZ_EVT, .BEND_EVT, .SHET_CLI_EVT, .TWIN_EVT,
    .LNYD_EVT] : List RegId).contains id

/-- TOP_INT_ST (R489): READY, FAULT while TOP_FAULT is not zero, and bit b while an event register of block b has a bit set. -/
def State.intStatus (s : State) : Nat :=
  let evts := (s.regs.filter fun c => isEvt c.key.id).map fun c => regBlock c.key.id
  (List.range 19).foldl (fun a b => if evts.contains b then a + 2 ^ b else a)
    (b2n (s.on .TOP_INT_ST_READY) <<< 20 + b2n (s.reg .TOP_FAULT != 0) <<< 19)

/-- Whether INT_N is low (R489). -/
def State.intN (s : State) : Bool := intLow s.intStatus (s.reg .TOP_INT_EN)

/-- TOP_HOLD of a slot (Table 22.7). -/
def State.holdStatus (s : State) (k : Nat) : Nat :=
  match s.latches.zipIdx.find? fun e => e.1.slot == k with
  | none => 0
  | some (l, age) => 2 ^ 63 + (regAddr l.key >>> 3) <<< 32 + srcOf l.req <<< 28 + pasidOf l.req <<< 8 + age

/-- A register as hardware shows it now: the stored value, with what is computed at the read. What no rule gives a law for, a slicer SNR
after CDR lock (R233) and an ADC's power and peak outside Off (Table 3.29), is an open value (log entry 2). -/
def State.present (s : State) (r : RegKey) : State × Nat :=
  let v := s.regs.get r
  match r.id with
  | .TOP_INT_ST => (s, s.intStatus)
  | .TOP_HOLD => (s, s.holdStatus r.i)
  | .BRAD_SC_ACT => (s, setBits v 15 9 (s.effCeil r.i r.j))
  | .SHET_CLI_STAT => (s, setBits v 25 16 (s.cliSlots r.i).length)
  | .TWIN_STAT =>
    if s.on .TWIN_STAT_CDR_LOCK r.i then
      let (t, x) := s.draw
      (t, setBits v 16 8 x)
    else (s, v)
  | .STRD_ADC_STAT =>
    if s.lineMode r.i = 0 then (s, v)
    else
      let (t, x) := s.draw
      (t, x % 65536)
  | id => if commitSt (regBlock id) = some id then (s, setBits v 63 32 (s.shadowCrc (regBlock id))) else (s, v)

/-- What a read of a register returns (Table 0.4): shadow values for RWC fields, zero for WO fields and reserved bits. -/
def State.readValue (s : State) (r : RegKey) : State × Nat :=
  let (t, v) := s.present r
  let sh := s.shadow.get r
  let t := if r.id = .TOP_BOOT_ST then t.wr .TOP_INT_ST_READY 0 else t
  (t, (regSpec r.id).fields.foldl (fun a f =>
    match f.acc with
    | .wo => a
    | .rwc => a + bits sh f.hi f.lo <<< f.lo
    | _ => a + bits v f.hi f.lo <<< f.lo) 0)

/-! ### The report window and the holding slots -/

/-- The report window (R486, R513). -/
def inWindow (id : RegId) : Bool :=
  ([.TOP_ID, .TOP_SERIAL, .TOP_STRAP, .TOP_ACC_ERR, .TOP_BOOT_ST, .TOP_RST_CAUSE, .TOP_FAULT, .TOP_FLT_CFG, .TOP_INT_ST, .TOP_INT_EN,
    .BCKT_U_STAT] : List RegId).contains id

/-- A high half latched (R11): in the lowest free slot (DESIGN CHOICE, log entry 74: R11 does not say which free slot is taken), or in that
of the oldest latch, which is displaced and counted (R13). -/
def State.latch (s : State) (req : Requester) (r : RegKey) (high : Nat) : State :=
  let used := s.latches.map fun l => l.slot
  match (List.range 16).find? fun k => !used.contains k with
  | some k => { s with latches := s.latches ++ [⟨k, req, r, high⟩] }
  | none =>
    match s.latches with
    | [] => s
    | l :: rest => { s.inc .TOP_ACC_ERR_DISPLACED with latches := rest ++ [⟨l.slot, req, r, high⟩] }

/-- The end window that a register belongs to (R401). -/
def endOf (r : RegKey) : Option Nat :=
  match r.id with
  | .MRLN_END_TXD | .MRLN_END_POST | .MRLN_END_ST | .MRLN_END_HEAD | .MRLN_END_POP | .MRLN_END_INT | .MRLN_END_RXD => some r.i
  | _ => none

/-- Whether a register is one of the authentication window (Table 16.9). -/
def inAuth (id : RegId) : Bool := ([.MRLN_AUTH_CHAL, .MRLN_AUTH_RESP, .MRLN_AUTH_CTL] : List RegId).contains id

/-- A register read by a requester that may reach it: an access to an end window by another requester than the one bound, or to the
authentication window by another than JTAG, is discarded and counted; the spec states no data for it (log entry 2). -/
def State.reachedValue (s : State) (req : Requester) (r : RegKey) : State × Nat :=
  match endOf r with
  | some w =>
    if s.endCode req = some (s.endBound w) then s.readValue r
    else
      let (t, x) := (s.endAccess req w id).draw
      (t, x % 2 ^ (regSpec r.id).width)
  | none =>
    if inAuth r.id && req != .jtag then
      let (t, x) := (s.authWindow req id).draw
      (t, x % 2 ^ (regSpec r.id).width)
    else s.readValue r

/-- The n bits of a read at an address where one register is touched: the state, the value, and whether the address is unassigned. In
reset only the report window answers (R486). -/
def State.readPiece (s : State) (req : Requester) (addr n : Nat) : State × Nat × Bool :=
  match findReg addr with
  | none => (s, 0, true)
  | some (r, w) =>
    if !s.boot.coreUp && !inWindow r.id then (s, 2 ^ n - 1, false)
    else
      let (t, v) := s.reachedValue req r
      (t, v >>> (32 * w) % 2 ^ n, false)

/-- A read of 64 bits is one of a 64-bit register, or of two 32-bit words at once (R10). -/
def State.read64 (s : State) (req : Requester) (addr : Nat) : State × Nat × Bool :=
  match findReg addr with
  | some (r, 0) =>
    if (regSpec r.id).width = 64 then s.readPiece req addr 64
    else
      let (t, a, x) := s.readPiece req addr 32
      let (u, b, y) := t.readPiece req (addr + 4) 32
      (u, a + b <<< 32, x || y)
  | _ =>
    let (t, a, x) := s.readPiece req addr 32
    let (u, b, y) := t.readPiece req (addr + 4) 32
    (u, a + b <<< 32, x || y)

/-- A read of 32 bits (R11, R12): the latched high half and its slot freed, or a live value; of a low half, the high half is latched
from the same cycle. -/
def State.read32 (s : State) (req : Requester) (latch : Option Latch) (addr : Nat) : State × Nat × Bool :=
  match findReg addr with
  | some (r, w) =>
    let live := s.boot.coreUp || inWindow r.id
    if (regSpec r.id).width = 64 && live then
      if w = 0 then
        let (t, v) := s.reachedValue req r
        (if s.boot.coreUp then t.latch req r (v >>> 32) else t, v % 2 ^ 32, false)
      else
        match latch.filter fun l => l.key = r with
        | some l => (s, l.high, false)
        | none => s.readPiece req addr 32
    else s.readPiece req addr 32
  | none => (s, 0, true)

/-- A register read of legal form (R8, R12, R486): the requester's latch goes first; the I3C target reads only the report window; a read of
an unassigned address returns zero and is counted. -/
def State.readAccess (s : State) (req : Requester) (addr : Nat) (wide : Bool) : State :=
  let q := s.stampOf req
  let mine := s.latches.find? fun l => l.req = q
  let s := s.dropLatch req
  let outside := decide (req = .i3c) && !((findReg addr).any fun e => inWindow e.1.id)
  if outside then s.emit (.read req (2 ^ 32 - 1))
  else
    let (t, v, miss) := if wide then s.read64 q addr else s.read32 q mine addr
    (if miss then t.inc .TOP_ACC_ERR_UNASSIGNED_RD else t).emit (.read req v)

/-- An access of another form (R8, R519): the latch goes, the access is counted and has no effect. -/
def State.malformed (s : State) (req : Requester) (addr : Nat) (read : Bool) : State :=
  let s := s.dropLatch req
  let t := s.inc .TOP_ACC_ERR_UR
  match req with
  | .host _ => t.emit (.unsupported req)
  | .core k => if t.boot.coreUp then t.dataError k addr else t
  | .i3c => if read then t.emit (.read req (2 ^ 32 - 1)) else s
  | .jtag => if read then t.emit (.read req 0) else t

/-! ### Writes -/

/-- The bits of the fields of a register with an access code. -/
def accMask (id : RegId) (a : Access) : Nat := (regSpec id).fields.foldl (fun m f => if f.acc = a then m ||| maskOf f.hi f.lo else m) 0

/-- A register's whole value for a write of some of its bits: the bits not written keep what RW fields and shadow values hold, and set or
clear nothing. -/
def State.wholeValue (s : State) (r : RegKey) (lo n v : Nat) : Nat :=
  setBits ((s.regs.get r &&& accMask r.id .rw) ||| (s.shadow.get r &&& rwcMask r.id)) (lo + n - 1) lo v

/-- The effect of a write by the access codes of Table 0.4: RW fields take the value, moved into a stated range (R518); W1C clears, W1S
sets; RWC goes to the shadow. -/
def State.plainWrite (s : State) (r : RegKey) (v : Nat) : State :=
  let old := s.regs.get r
  let a := rwWrite r.id old v
  let a := a - (a &&& (v &&& accMask r.id .w1c))
  let a := a ||| (v &&& accMask r.id .w1s)
  let s := { s with regs := s.regs.put r a }
  if rwcMask r.id = 0 then s else { s with shadow := s.shadow.put r (mix (rwcMask r.id) (s.shadow.get r) v) }

/-- Whether a register is a Fathom counter (R462): COUNT in bits 47:0, WRAP in bit 63. -/
def isCounter (id : RegId) : Bool :=
  match (regSpec id).fields with
  | [a, b] => a.hi == 63 && a.lo == 63 && a.acc == .w1c && b.hi == 47 && b.lo == 0 && b.acc == .rw
  | _ => false

/-- The least role for a write of some bits of a register (Table 16.1 and the chapters that name another role): none where nothing
writable is touched. -/
def writeNeed (id : RegId) (lo n : Nat) : Nat :=
  let touched := (regSpec id).fields.filter fun f => f.acc != .ro && f.acc != .rov && f.lo < lo + n && lo ≤ f.hi
  let b := regBlock id
  if touched.isEmpty || id = .WHIP_REMAP then 0
  else if b = 6 || b = 18 || touched.any (fun f => f.acc == .rwc) ||
      ([.BCKT_ENG_CFG, .BCKT_EVQ, .BCKT_MEM_EVT, .BCKT_MEM_CNT, .MRLN_GCC_CFG, .MRLN_AUTH_CFG, .WHIP_CFG, .TALY_AGE_CFG, .TALY_AGE_LINE,
        .TALY_AGE_EVT] : List RegId).contains id then 2
  else 1

/-- The refusal cause that a block gives any write without the rights it needs (Tables 11.7, 12.8, 17.9): its block and cause. -/
def writeCause (id : RegId) : Option (Nat × Nat) :=
  match regBlock id with
  | 5 => some (5, 5)
  | 6 => some (6, 6)
  | 18 => some (18, 4)
  | _ => if ([.TALY_AGE_CFG, .TALY_AGE_LINE, .TALY_AGE_EVT] : List RegId).contains id then some (6, 6) else none

/-- What a write starts beside its fields' new values: a line's request bits, a lane's scan, a reference's source, the default grant kept
between its limits and the settings that wait for the next modulation frame (R170). -/
def State.writeEffect (s : State) (r : RegKey) (v inc : Nat) : State :=
  match r.id with
  | .BRAD_LOAD_CFG =>
    let t := s.plainWrite r v
    if bit v 63 then t.manGo r.i else t
  | .STRD_DAC_CAL =>
    let t := s.plainWrite r (setBits v 0 0 0)
    if bit v 0 then t.dacReq r.i else t
  | .STRD_ADC_CAL =>
    let t := s.plainWrite r (setBits v 0 0 0)
    if bit v 0 then t.adcReq r.i else t
  | .TWIN_SCAN =>
    let t := s.plainWrite r (setBits v 0 0 0)
    if bit v 0 then t.startScan r.i false else t
  | .TWIN_SYNCE_SEL => (s.plainWrite r v).refEval r.i
  | .BRAD_PD_FIR | .BRAD_PD_LUT => s.pdWrite r v
  | .CLET_SD_CFG => (s.keepSd r.i).plainWrite r v
  | .CLET_SC_CFG =>
    let t := (s.keepSc r.i r.j).plainWrite r v
    let least := t.rd .CLET_SC_CFG_ITER_MIN r.i r.j
    t.wr .CLET_SC_CFG_ITER_DEF
      (max least (min (max least (t.rd .CLET_SC_CFG_ITER_MAX r.i r.j)) (t.rd .CLET_SC_CFG_ITER_DEF r.i r.j))) r.i r.j
  | .WHIP_REMAP => s
  | id => if isCounter id && inc != 0 then (s.plainWrite r v).count id inc r.i r.j r.k else s.plainWrite r v

/-- A host write to a field that the ageing service writes is discarded and counted (R444). -/
def State.serviceField (s : State) (req : Requester) (r : RegKey) (lo n v : Nat) : State :=
  let touches (f : Fld) : Bool := decide (f.id = r.id) && lo ≤ f.lo && f.hi < lo + n &&
    bits v (f.hi - lo) (f.lo - lo) != s.rd f r.i
  match req with
  | .host _ => if [Fld.TALY_AGE_ST_AGE_OFS, .TALY_AGE_ST_AGE_ITER, .TALY_AGE_LINE_AGE_ENT].any touches then s.denied else s
  | _ => s

/-- A write of n bits of a register from its bit lo: the registers with a write of their own, the commits, and all others by their access
codes with the rights they need. -/
def State.regWrite (s : State) (req : Requester) (r : RegKey) (lo n v inc : Nat) : State :=
  let full := s.wholeValue r lo n v
  let addr := regAddr r + lo / 8
  let old := bits (s.regs.get r) (lo + n - 1) lo
  match r.id with
  | .TOP_RESET => s.topReset req full
  | .TOP_FLT_CFG => s.fltCfgWrite req full
  | .BCKT_MEM_CFG => s.memCfgWrite req r.i full
  | .BCKT_REGION => s.regionCfgWrite req r.i (lo / 32) v
  | .BCKT_RING_CFG => s.ringCfgWrite req r.i (lo / 32) v
  | .MRLN_END_TXD => s.endWrite req r.i addr 0 v fun t => { t with regs := t.regs.put r v }
  | .MRLN_END_POST => s.endWrite req r.i addr 0 v fun t => t.mbPost r.i (bits v 4 0)
  | .MRLN_END_POP => s.endWrite req r.i addr 0 v fun t => if bit v 0 then t.mbPop r.i else t
  | .MRLN_END_INT => s.endWrite req r.i addr old v fun t => t.plainWrite r full
  | .MRLN_END_ST | .MRLN_END_HEAD | .MRLN_END_RXD => s.endAccess req r.i id
  | .MRLN_AUTH_RESP => s.authWindow req fun t => { t with regs := t.regs.put r (setBits (t.regs.get r) (lo + n - 1) lo v) }
  | .MRLN_AUTH_CTL => s.authWindow req fun t => t.authCtl full
  | .MRLN_AUTH_CHAL => s.authWindow req id
  | .WHIP_INJECT => s.injectWrite req full
  | .HLYD_DPLL_CTL => s.dpllCtlWrite req full
  | .HLYD_PSTEP => s.pstepWrite req full
  | .HLYD_TOD_SET => s.todSetWrite req full
  | .TALY_MON_CTL => s.monCtlWrite req full
  | .TALY_URG => s.urgWrite req full
  | .SPLC_CMD => s.spliceCmd req r.i full
  | .HTCH_TX_CFG => s.txCfgWrite req r.i full
  | .TWIN_TXFFE => s.txffeWrite req r.i full
  | .LNYD_LANE_CFG => s.mateLaneWrite req r.i full
  | id =>
    let need := writeNeed id lo n
    let t := match writeCause id with
      | some (b, c) => s.writeOr req need (s.regDoms r) addr old v false b c 0 fun t => t.writeEffect r full inc
      | none => s.write req need (s.regDoms r) addr old v false fun t => t.writeEffect r full inc
    t.serviceField req r lo n v

/-- The block of a COMMIT register. -/
def commitBlock (id : RegId) : Option Nat :=
  match id with
  | .TOP_COMMIT | .MRLN_COMMIT | .FTHM_COMMIT | .HLYD_COMMIT | .BLAY_COMMIT | .TALY_COMMIT | .BRAD_COMMIT | .SPLC_COMMIT | .BGHT_COMMIT
  | .CLET_COMMIT | .HTCH_COMMIT | .SEIZ_COMMIT | .BEND_COMMIT | .SHET_COMMIT | .TWIN_COMMIT | .LNYD_COMMIT => some (regBlock id)
  | _ => none

/-- A write at an address where one register is touched, and whether the address is unassigned. In reset, and to a block held in reset, a
write is discarded, but a held block still judges a commit (R481, R486). -/
def State.writePiece (s : State) (req : Requester) (addr n v inc : Nat) : State × Bool :=
  match findReg addr with
  | none => (s, true)
  | some (r, w) =>
    if !s.boot.coreUp then (s, false)
    else match commitBlock r.id with
      | some b => (s.commit req b v, false)
      | none => (if s.alive (regBlock r.id) then s.regWrite req r (32 * w) n v inc else s, false)

/-- A write of 64 bits is applied in one cycle to a 64-bit register, or to two 32-bit words (R14). -/
def State.write64 (s : State) (req : Requester) (addr v inc : Nat) : State × Bool :=
  let two : State × Bool :=
    let (t, x) := s.writePiece req addr 32 (v % 2 ^ 32) inc
    let (u, y) := t.writePiece req (addr + 4) 32 (v / 2 ^ 32 % 2 ^ 32) 0
    (u, x || y)
  match findReg addr with
  | some (r, 0) => if (regSpec r.id).width = 64 then s.writePiece req addr 64 (v % 2 ^ 64) inc else two
  | _ => two

/-- A register write of legal form: the requester's latch goes first (R12); the I3C target's writes are ignored (R414); a write of an
unassigned address is discarded and counted (R8). -/
def State.writeAccess (s : State) (req : Requester) (addr : Nat) (wide : Bool) (v inc : Nat) : State :=
  let t := s.dropLatch req
  if req = .i3c then t
  else
    let (u, miss) := if wide then t.write64 req addr v inc else t.writePiece req addr 32 (v % 2 ^ 32) inc
    if miss then u.unassignedWrite else u

/-! ### The commands -/

/-- REGISTER_WRITE: at an address of another form than R8 allows it is a malformed access. -/
def execRegisterWrite (req : Requester) (addr : Nat) (wide : Bool) (value : Nat) (s : State) : Res :=
  .next (if legalForm req addr (if wide then 8 else 4) || req = .i3c then s.writeAccess req addr wide value 0 else s.malformed req addr false)

/-- COUNTER_WRITE: the write meets an increment of the counter in the same cycle (R464). -/
def execCounterWrite (req : Requester) (addr : Nat) (wide : Bool) (value inc : Nat) (s : State) : Res :=
  .next (if legalForm req addr (if wide then 8 else 4) || req = .i3c then s.writeAccess req addr wide value inc else s.malformed req addr false)

/-- REGISTER_READ. -/
def execRegisterRead (req : Requester) (addr : Nat) (wide : Bool) (s : State) : Res :=
  .next (if legalForm req addr (if wide then 8 else 4) then s.readAccess req addr wide else s.malformed req addr true)

/-- LOW_HALF_READ: a read of 32 bits at a low half. -/
def execLowHalfRead (req : Requester) (addr : Nat) (s : State) : Res :=
  .next (if legalForm req addr 4 then s.readAccess req addr false else s.malformed req addr true)

/-- HIGH_HALF_READ: a read of 32 bits at a high half. -/
def execHighHalfRead (req : Requester) (addr : Nat) (s : State) : Res :=
  .next (if legalForm req addr 4 then s.readAccess req addr false else s.malformed req addr true)

/-- MALFORMED_ACCESS: an access of bytes bytes at an address; one of legal form is none. -/
def execMalformedAccess (req : Requester) (addr bytes : Nat) (read : Bool) (s : State) : Res :=
  .next (if legalForm req addr bytes then s else s.malformed req addr read)

/-- BOOT_ST_READ: a read of TOP_BOOT_ST (R489). -/
def execBootStRead (req : Requester) (s : State) : Res := .next (s.readAccess req (regAddr ⟨.TOP_BOOT_ST, 0, 0, 0⟩) false)

end Sys2Proof.Machine
end

