-- ==== Sys2Proof/Machine/Dispatch.lean ====
section
/-! DEFINITION. Dispatch: the meaning of each command, one arm for each constructor of Instr. -/

namespace Sys2Proof.Machine

open Sys2Proof

/-- The effect of a command on everything but the queue of waiting commands. -/
def exec (i : Instr) (s : State) : Host.Outcome State Fault Refusal :=
  match i with
  | .registerWrite req addr wide value => Sys2Proof.Machine.execRegisterWrite req addr wide value s
  | .malformedAccess req addr bytes read => Sys2Proof.Machine.execMalformedAccess req addr bytes read s
  | .lowHalfRead req addr => Sys2Proof.Machine.execLowHalfRead req addr s
  | .highHalfRead req addr => Sys2Proof.Machine.execHighHalfRead req addr s
  | .commit req block crc => Sys2Proof.Machine.execCommit req block crc s
  | .fifoRecentre dom inFrame => Sys2Proof.Machine.execFifoRecentre dom inFrame s
  | .loadingEvaluation n => Sys2Proof.Machine.execLoadingEvaluation n s
  | .manGo req n => Sys2Proof.Machine.execManGo req n s
  | .mobReceived n => Sys2Proof.Machine.execMobReceived n s
  | .armTimeout n => Sys2Proof.Machine.execArmTimeout n s
  | .countdownTick n => Sys2Proof.Machine.execCountdownTick n s
  | .rxTableSwitch n => Sys2Proof.Machine.execRxTableSwitch n s
  | .rxFallback n => Sys2Proof.Machine.execRxFallback n s
  | .forcedReversion n => Sys2Proof.Machine.execForcedReversion n s
  | .pdTableWrite req n lut t idx value => Sys2Proof.Machine.execPdTableWrite req n lut t idx value s
  | .dacFgReq req n => Sys2Proof.Machine.execDacFgReq req n s
  | .dacFgCalDone n ok t cal => Sys2Proof.Machine.execDacFgCalDone n ok t cal s
  | .dacBgCalUpdate n t c => Sys2Proof.Machine.execDacBgCalUpdate n t c s
  | .adcFgReq req n => Sys2Proof.Machine.execAdcFgReq req n s
  | .adcFgCalDone n ok t cal => Sys2Proof.Machine.execAdcFgCalDone n ok t cal s
  | .adcBgCalUpdate n t c => Sys2Proof.Machine.execAdcBgCalUpdate n t c s
  | .modulationFrame n above marker => Sys2Proof.Machine.execModulationFrame n above marker s
  | .markerLost n => Sys2Proof.Machine.execMarkerLost n s
  | .freqSearchDone n => Sys2Proof.Machine.execFreqSearchDone n s
  | .cdSearchDone n => Sys2Proof.Machine.execCdSearchDone n s
  | .timingDone n => Sys2Proof.Machine.execTimingDone n s
  | .blindConvergeDone n sub => Sys2Proof.Machine.execBlindConvergeDone n sub s
  | .pilotLockDone n sub => Sys2Proof.Machine.execPilotLockDone n sub s
  | .acqBoundExpiry n sub => Sys2Proof.Machine.execAcqBoundExpiry n sub s
  | .rawLosWindow n power pin => Sys2Proof.Machine.execRawLosWindow n power pin s
  | .freezeHoldExpiry n clear => Sys2Proof.Machine.execFreezeHoldExpiry n clear s
  | .freeze req n => Sys2Proof.Machine.execFreeze req n s
  | .unfreeze req n => Sys2Proof.Machine.execUnfreeze req n s
  | .reacq req n => Sys2Proof.Machine.execReacq req n s
  | .subcarrierDiverge n slot majority => Sys2Proof.Machine.execSubcarrierDiverge n slot majority s
  | .tapDemandReport n slot demand => Sys2Proof.Machine.execTapDemandReport n slot demand s
  | .estimateRefresh n est => Sys2Proof.Machine.execEstimateRefresh n est s
  | .chanSwap n values => Sys2Proof.Machine.execChanSwap n values s
  | .phaseSlip n => Sys2Proof.Machine.execPhaseSlip n s
  | .periodStart n => Sys2Proof.Machine.execPeriodStart n s
  | .mapComplete n => Sys2Proof.Machine.execMapComplete n s
  | .controlBlock n offset => Sys2Proof.Machine.execControlBlock n offset s
  | .detectionWindowOpen n f leaf => Sys2Proof.Machine.execDetectionWindowOpen n f leaf s
  | .provisionalLock n f corrB metric symbol => Sys2Proof.Machine.execProvisionalLock n f corrB metric symbol s
  | .burstHeaderDecoded n f soft arrival ofs => Sys2Proof.Machine.execBurstHeaderDecoded n f soft arrival ofs s
  | .capture n f power peak symbol got => Sys2Proof.Machine.execCapture n f power peak symbol got s
  | .burstEnd n f foff power snr state => Sys2Proof.Machine.execBurstEnd n f foff power snr state s
  | .detectionWindowClose n f => Sys2Proof.Machine.execDetectionWindowClose n f s
  | .staleTimeout n leaf => Sys2Proof.Machine.execStaleTimeout n leaf s
  | .discoveryCycle n => Sys2Proof.Machine.execDiscoveryCycle n s
  | .upProfileEvaluation n leaf => Sys2Proof.Machine.execUpProfileEvaluation n leaf s
  | .dnLoadingEvaluation n slot => Sys2Proof.Machine.execDnLoadingEvaluation n slot s
  | .dnLoadSwitch n slot => Sys2Proof.Machine.execDnLoadSwitch n slot s
  | .burstDecodeDone n leaf soft => Sys2Proof.Machine.execBurstDecodeDone n leaf soft s
  | .leafRerange h => Sys2Proof.Machine.execLeafRerange h s
  | .leafStatus h => Sys2Proof.Machine.execLeafStatus h s
  | .leafMgmt h => Sys2Proof.Machine.execLeafMgmt h s
  | .windowShift n slot soft => Sys2Proof.Machine.execWindowShift n slot soft s
  | .ngmiMeasure n => Sys2Proof.Machine.execNgmiMeasure n s
  | .shortSecond n slot => Sys2Proof.Machine.execShortSecond n slot s
  | .lashingCodeword n => Sys2Proof.Machine.execLashingCodeword n s
  | .fecSdSecond n => Sys2Proof.Machine.execFecSdSecond n s
  | .ohSwitchTx n => Sys2Proof.Machine.execOhSwitchTx n s
  | .ohSwitchRx n => Sys2Proof.Machine.execOhSwitchRx n s
  | .frameTransmit n f => Sys2Proof.Machine.execFrameTransmit n f s
  | .fawMatch n pos => Sys2Proof.Machine.execFawMatch n pos s
  | .candidateCheck n k => Sys2Proof.Machine.execCandidateCheck n k s
  | .frameReceived n => Sys2Proof.Machine.execFrameReceived n s
  | .outOfFrame n => Sys2Proof.Machine.execOutOfFrame n s
  | .outOfMultiframe n => Sys2Proof.Machine.execOutOfMultiframe n s
  | .defectPersistenceExpiry n lom => Sys2Proof.Machine.execDefectPersistenceExpiry n lom s
  | .ssfClear n => Sys2Proof.Machine.execSsfClear n s
  | .burstFrameReceived n leaf => Sys2Proof.Machine.execBurstFrameReceived n leaf s
  | .pmWindowEnd n => Sys2Proof.Machine.execPmWindowEnd n s
  | .pmWindowCommit n => Sys2Proof.Machine.execPmWindowCommit n s
  | .intervalRecordWrite n day => Sys2Proof.Machine.execIntervalRecordWrite n day s
  | .forceAis req n v => Sys2Proof.Machine.execForceAis req n v s
  | .forceBdi req n v => Sys2Proof.Machine.execForceBdi req n v s
  | .clientFrameIngress c frame err lf rf corrected uncorrectable => Sys2Proof.Machine.execClientFrameIngress c frame err lf rf corrected uncorrectable s
  | .egressHeader c sent => Sys2Proof.Machine.execEgressHeader c sent s
  | .cowReceived c => Sys2Proof.Machine.execCowReceived c s
  | .gmpCmUpdate c target data => Sys2Proof.Machine.execGmpCmUpdate c target data s
  | .egressResume c => Sys2Proof.Machine.execEgressResume c s
  | .laneConverged l snr => Sys2Proof.Machine.execLaneConverged l snr s
  | .trainingComplete l => Sys2Proof.Machine.execTrainingComplete l s
  | .trainingTimerExpiry l fault => Sys2Proof.Machine.execTrainingTimerExpiry l fault s
  | .untrainedRetry l => Sys2Proof.Machine.execUntrainedRetry l s
  | .laneLos l => Sys2Proof.Machine.execLaneLos l s
  | .laneLosClear l => Sys2Proof.Machine.execLaneLosClear l s
  | .cdrLoss l => Sys2Proof.Machine.execCdrLoss l s
  | .coeffRequest l t delta => Sys2Proof.Machine.execCoeffRequest l t delta s
  | .txffeWrite req l v => Sys2Proof.Machine.execTxffeWrite req l v s
  | .scanReq req l => Sys2Proof.Machine.execScanReq req l s
  | .marginScanAuto l => Sys2Proof.Machine.execMarginScanAuto l s
  | .scanDone l sweeps => Sys2Proof.Machine.execScanDone l sweeps s
  | .loopbackSlip l => Sys2Proof.Machine.execLoopbackSlip l s
  | .segmentClose k => Sys2Proof.Machine.execSegmentClose k s
  | .tagWaitExpiry k => Sys2Proof.Machine.execTagWaitExpiry k s
  | .rekeyTimer k => Sys2Proof.Machine.execRekeyTimer k s
  | .kxConfirmTimeout k => Sys2Proof.Machine.execKxConfirmTimeout k s
  | .kxRetry k => Sys2Proof.Machine.execKxRetry k s
  | .keyLoad h => Sys2Proof.Machine.execKeyLoad h s
  | .keySwitch h => Sys2Proof.Machine.execKeySwitch h s
  | .keyZero h => Sys2Proof.Machine.execKeyZero h s
  | .keyClearAf h => Sys2Proof.Machine.execKeyClearAf h s
  | .keyStatus h => Sys2Proof.Machine.execKeyStatus h s
  | .linkLoad h => Sys2Proof.Machine.execLinkLoad h s
  | .unitCopyComplete g p time => Sys2Proof.Machine.execUnitCopyComplete g p time s
  | .unitPlayout g q j now late => Sys2Proof.Machine.execUnitPlayout g q j now late s
  | .deltaMeasure g => Sys2Proof.Machine.execDeltaMeasure g s
  | .outOfWindow g p => Sys2Proof.Machine.execOutOfWindow g p s
  | .pathWtrExpiry g p => Sys2Proof.Machine.execPathWtrExpiry g p s
  | .autoRealign g p => Sys2Proof.Machine.execAutoRealign g p s
  | .lockstepRecordReceived r lag => Sys2Proof.Machine.execLockstepRecordReceived r lag s
  | .lockstepLoss g => Sys2Proof.Machine.execLockstepLoss g s
  | .pgLockout h => Sys2Proof.Machine.execPgLockout h s
  | .pgForce h => Sys2Proof.Machine.execPgForce h s
  | .pgClear h => Sys2Proof.Machine.execPgClear h s
  | .pgRealign h => Sys2Proof.Machine.execPgRealign h s
  | .pgStatus h => Sys2Proof.Machine.execPgStatus h s
  | .helloSend => Sys2Proof.Machine.execHelloSend s
  | .helloReceived p bad synced => Sys2Proof.Machine.execHelloReceived p bad synced s
  | .creditSend => Sys2Proof.Machine.execCreditSend s
  | .creditReceived p bad => Sys2Proof.Machine.execCreditReceived p bad s
  | .ckptPacketReceived p bad => Sys2Proof.Machine.execCkptPacketReceived p bad s
  | .trainingAttemptExpiry => Sys2Proof.Machine.execTrainingAttemptExpiry s
  | .helloTimeout => Sys2Proof.Machine.execHelloTimeout s
  | .mateLaneSyncLoss l => Sys2Proof.Machine.execMateLaneSyncLoss l s
  | .mateAbsentRetry => Sys2Proof.Machine.execMateAbsentRetry s
  | .mateScanReq req l => Sys2Proof.Machine.execMateScanReq req l s
  | .mateScanDone l sweeps => Sys2Proof.Machine.execMateScanDone l sweeps s
  | .partnerClaimChange level => Sys2Proof.Machine.execPartnerClaimChange level s
  | .takeoverRestoreDone elapsed => Sys2Proof.Machine.execTakeoverRestoreDone elapsed s
  | .claimFrameReceived w => Sys2Proof.Machine.execClaimFrameReceived w s
  | .claimGapDone => Sys2Proof.Machine.execClaimGapDone s
  | .checkpointSetDue sent => Sys2Proof.Machine.execCheckpointSetDue sent s
  | .checkpointSetReceived => Sys2Proof.Machine.execCheckpointSetReceived s
  | .checkpointSelfWrite => Sys2Proof.Machine.execCheckpointSelfWrite s
  | .rehearsal faulted => Sys2Proof.Machine.execRehearsal faulted s
  | .refActivityLoss r => Sys2Proof.Machine.execRefActivityLoss r s
  | .refActivityReturn r => Sys2Proof.Machine.execRefActivityReturn r s
  | .freqMonitorUpdate foffs freq => Sys2Proof.Machine.execFreqMonitorUpdate foffs freq s
  | .ppsInPulse interval => Sys2Proof.Machine.execPpsInPulse interval s
  | .refWtrExpiry r => Sys2Proof.Machine.execRefWtrExpiry r s
  | .selectionBoundary means => Sys2Proof.Machine.execSelectionBoundary means s
  | .buildOutDone => Sys2Proof.Machine.execBuildOutDone s
  | .dpllLocked => Sys2Proof.Machine.execDpllLocked s
  | .holdoverDegrade => Sys2Proof.Machine.execHoldoverDegrade s
  | .disputeEnd rank => Sys2Proof.Machine.execDisputeEnd rank s
  | .modeAutomatic req => Sys2Proof.Machine.execModeAutomatic req s
  | .forcedHoldover req => Sys2Proof.Machine.execForcedHoldover req s
  | .forcedFreeRun req => Sys2Proof.Machine.execForcedFreeRun req s
  | .softwareLoop req => Sys2Proof.Machine.execSoftwareLoop req s
  | .ffoWrite req ffo => Sys2Proof.Machine.execFfoWrite req ffo s
  | .phaseStepGo req slewed slew amount => Sys2Proof.Machine.execPhaseStepGo req slewed slew amount s
  | .phaseStepDone => Sys2Proof.Machine.execPhaseStepDone s
  | .todArm req seconds => Sys2Proof.Machine.execTodArm req seconds s
  | .secondRollover => Sys2Proof.Machine.execSecondRollover s
  | .todMessageReceived m inWindow => Sys2Proof.Machine.execTodMessageReceived m inWindow s
  | .todSnap req => Sys2Proof.Machine.execTodSnap req s
  | .doorbell req offset bytes value => Sys2Proof.Machine.execDoorbell req offset bytes value s
  | .ringCfgWrite req r w v => Sys2Proof.Machine.execRingCfgWrite req r w v s
  | .descriptorAccept r d => Sys2Proof.Machine.execDescriptorAccept r d s
  | .commandCompletion h ok => Sys2Proof.Machine.execCommandCompletion h ok s
  | .commandTimeout h => Sys2Proof.Machine.execCommandTimeout h s
  | .msixTimer r => Sys2Proof.Machine.execMsixTimer r s
  | .msixUnmask req offset bytes value => Sys2Proof.Machine.execMsixUnmask req offset bytes value s
  | .cxlULinkDown => Sys2Proof.Machine.execCxlULinkDown s
  | .cxlULinkUp width speed flit => Sys2Proof.Machine.execCxlULinkUp width speed flit s
  | .viralReceived => Sys2Proof.Machine.execViralReceived s
  | .nop h => Sys2Proof.Machine.execNop h s
  | .ringQuery h => Sys2Proof.Machine.execRingQuery h s
  | .memPortEnable req p => Sys2Proof.Machine.execMemPortEnable req p s
  | .memPortDisable req p => Sys2Proof.Machine.execMemPortDisable req p s
  | .memLinkUp p width speed flit => Sys2Proof.Machine.execMemLinkUp p width speed flit s
  | .enumerationDone p capacity => Sys2Proof.Machine.execEnumerationDone p capacity s
  | .enumerationFault p cause => Sys2Proof.Machine.execEnumerationFault p cause s
  | .memPortFaultRetry p => Sys2Proof.Machine.execMemPortFaultRetry p s
  | .memLinkDown p => Sys2Proof.Machine.execMemLinkDown p s
  | .regionCfgWrite req e w v => Sys2Proof.Machine.execRegionCfgWrite req e w v s
  | .regionFillDone e => Sys2Proof.Machine.execRegionFillDone e s
  | .poisonRead e off user => Sys2Proof.Machine.execPoisonRead e off user s
  | .scrubVisit k addr found byRead passEnds => Sys2Proof.Machine.execScrubVisit k addr found byRead passEnds s
  | .whipInjectArm req k kind => Sys2Proof.Machine.execWhipInjectArm req k kind s
  | .regionStatus h => Sys2Proof.Machine.execRegionStatus h s
  | .regionRefill h => Sys2Proof.Machine.execRegionRefill h s
  | .poisonList h => Sys2Proof.Machine.execPoisonList h s
  | .whipStatus h => Sys2Proof.Machine.execWhipStatus h s
  | .watchdogExpiry k => Sys2Proof.Machine.execWatchdogExpiry k s
  | .dataAbort k addr fetch => Sys2Proof.Machine.execDataAbort k addr fetch s
  | .voterDisagree k => Sys2Proof.Machine.execVoterDisagree k s
  | .recoveryDone => Sys2Proof.Machine.execRecoveryDone s
  | .tripleSplit => Sys2Proof.Machine.execTripleSplit s
  | .jobDispatch k arrived => Sys2Proof.Machine.execJobDispatch k arrived s
  | .jobYield k us => Sys2Proof.Machine.execJobYield k us s
  | .sliceExpiry k => Sys2Proof.Machine.execSliceExpiry k s
  | .coreGrantWindow => Sys2Proof.Machine.execCoreGrantWindow s
  | .mbPost req m e len => Sys2Proof.Machine.execMbPost req m e len s
  | .mbPop req m e => Sys2Proof.Machine.execMbPop req m e s
  | .gcc0PacketReceived n => Sys2Proof.Machine.execGcc0PacketReceived n s
  | .svcStatus h => Sys2Proof.Machine.execSvcStatus h s
  | .svcRestart h => Sys2Proof.Machine.execSvcRestart h s
  | .gccSend h => Sys2Proof.Machine.execGccSend h s
  | .roleChallenge h => Sys2Proof.Machine.execRoleChallenge h s
  | .roleResponse h => Sys2Proof.Machine.execRoleResponse h s
  | .roleDrop h => Sys2Proof.Machine.execRoleDrop h s
  | .roleStatus h => Sys2Proof.Machine.execRoleStatus h s
  | .auditRead h => Sys2Proof.Machine.execAuditRead h s
  | .auditAck h => Sys2Proof.Machine.execAuditAck h s
  | .nvWrite h => Sys2Proof.Machine.execNvWrite h s
  | .nvCommit h content => Sys2Proof.Machine.execNvCommit h content s
  | .otpWrite h => Sys2Proof.Machine.execOtpWrite h s
  | .nvStatus h => Sys2Proof.Machine.execNvStatus h s
  | .authNew req entry => Sys2Proof.Machine.execAuthNew req entry s
  | .authSubmit req entry => Sys2Proof.Machine.execAuthSubmit req entry s
  | .lockoutExpiry req => Sys2Proof.Machine.execLockoutExpiry req s
  | .sessionExpiry slot => Sys2Proof.Machine.execSessionExpiry slot s
  | .journalPageProgram => Sys2Proof.Machine.execJournalPageProgram s
  | .journalDrain => Sys2Proof.Machine.execJournalDrain s
  | .grantComputation => Sys2Proof.Machine.execGrantComputation s
  | .calGainUpdate iout => Sys2Proof.Machine.execCalGainUpdate iout s
  | .tjSample flight => Sys2Proof.Machine.execTjSample flight s
  | .avsRaise slack ack => Sys2Proof.Machine.execAvsRaise slack ack s
  | .avsLower slack ack => Sys2Proof.Machine.execAvsLower slack ack s
  | .supplyThresholdCross e flight => Sys2Proof.Machine.execSupplyThresholdCross e flight s
  | .shutdownRestart => Sys2Proof.Machine.execShutdownRestart s
  | .feedMonitor share long aOk bOk => Sys2Proof.Machine.execFeedMonitor share long aOk bOk s
  | .feedOutOfRange b => Sys2Proof.Machine.execFeedOutOfRange b s
  | .holdTest railOnB railOnA => Sys2Proof.Machine.execHoldTest railOnB railOnA s
  | .pdmMeasure now snr0 snr1 snr2 => Sys2Proof.Machine.execPdmMeasure now snr0 snr1 snr2 s
  | .ageingReplan => Sys2Proof.Machine.execAgeingReplan s
  | .monTrig req => Sys2Proof.Machine.execMonTrig req s
  | .monTimerTrigger => Sys2Proof.Machine.execMonTimerTrigger s
  | .monStepDone samples => Sys2Proof.Machine.execMonStepDone samples s
  | .urgGo req step => Sys2Proof.Machine.execUrgGo req step s
  | .monUrgent h => Sys2Proof.Machine.execMonUrgent h s
  | .urgentStepDone samples => Sys2Proof.Machine.execUrgentStepDone samples s
  | .thermalScan readings => Sys2Proof.Machine.execThermalScan readings s
  | .commonTrigger n held0 held1 held2 => Sys2Proof.Machine.execCommonTrigger n held0 held1 held2 s
  | .snapPostDone n => Sys2Proof.Machine.execSnapPostDone n s
  | .snapDrainStart n => Sys2Proof.Machine.execSnapDrainStart n s
  | .snapDrainDone n unc blocks => Sys2Proof.Machine.execSnapDrainDone n unc blocks s
  | .snapArm h => Sys2Proof.Machine.execSnapArm h s
  | .snapDisarm h => Sys2Proof.Machine.execSnapDisarm h s
  | .snapFire h held0 held1 held2 => Sys2Proof.Machine.execSnapFire h held0 held1 held2 s
  | .snapStatus h => Sys2Proof.Machine.execSnapStatus h s
  | .dumpTick => Sys2Proof.Machine.execDumpTick s
  | .dumpDone => Sys2Proof.Machine.execDumpDone s
  | .counterWrite req addr wide value inc => Sys2Proof.Machine.execCounterWrite req addr wide value inc s
  | .bwWindowEnd rd0 wr0 rd1 wr1 rd2 wr2 => Sys2Proof.Machine.execBwWindowEnd rd0 wr0 rd1 wr1 rd2 wr2 s
  | .instructionSample k stalled pc cycle skid => Sys2Proof.Machine.execInstructionSample k stalled pc cycle skid s
  | .cntDump h => Sys2Proof.Machine.execCntDump h s
  | .cntStatus h => Sys2Proof.Machine.execCntStatus h s
  | .islandPowerOn flash => Sys2Proof.Machine.execIslandPowerOn flash s
  | .porstAssert flight => Sys2Proof.Machine.execPorstAssert flight s
  | .porstRelease i3c xspi mfg => Sys2Proof.Machine.execPorstRelease i3c xspi mfg s
  | .bootStageDone ms fails torn outvoted => Sys2Proof.Machine.execBootStageDone ms fails torn outvoted s
  | .bootStageTimeout ms cause => Sys2Proof.Machine.execBootStageTimeout ms cause s
  | .deviceReset req flight => Sys2Proof.Machine.execDeviceReset req flight s
  | .coreReset req flight => Sys2Proof.Machine.execCoreReset req flight s
  | .cxlUReset => Sys2Proof.Machine.execCxlUReset s
  | .functionLevelReset => Sys2Proof.Machine.execFunctionLevelReset s
  | .rootLockLoss => Sys2Proof.Machine.execRootLockLoss s
  | .rootRelockAttempt => Sys2Proof.Machine.execRootRelockAttempt s
  | .rootRelocked => Sys2Proof.Machine.execRootRelocked s
  | .xoLost => Sys2Proof.Machine.execXoLost s
  | .xoRestored => Sys2Proof.Machine.execXoRestored s
  | .fltRelease => Sys2Proof.Machine.execFltRelease s
  | .fltSw req v => Sys2Proof.Machine.execFltSw req v s
  | .escalationTimeout flight => Sys2Proof.Machine.execEscalationTimeout flight s
  | .registerRead req addr wide => Sys2Proof.Machine.execRegisterRead req addr wide s
  | .bootStRead req => Sys2Proof.Machine.execBootStRead req s
  | .pwrWarn low => Sys2Proof.Machine.execPwrWarn low s
  | .ingressCsf c => Sys2Proof.Machine.execIngressCsf c s
  | .ingressCsfClear c => Sys2Proof.Machine.execIngressCsfClear c s
  | .partnerDataLoss p lo hi => Sys2Proof.Machine.execPartnerDataLoss p lo hi s
  | .endMarker n f found => Sys2Proof.Machine.execEndMarker n f found s
  | .snoop addr => Sys2Proof.Machine.execSnoop addr s
  | .mfgRelease => Sys2Proof.Machine.execMfgRelease s

end Sys2Proof.Machine
end

