-- ==== Sys2Proof/Safety.lean ====
section
/-! DEFINITION. What counts as a safe state and a safe run, and what a command leaves unchanged, in the terms that claims use. -/

namespace Sys2Proof.Machine

open Sys2Proof

/-- The tables of unit state are in their canonical form: numbers rising, no record equal to the default listed. -/
def State.tabled (s : State) : Prop :=
  Tab.wf {} s.rings = true ∧ Tab.wf {} s.vecs = true ∧ Tab.wf 0 s.sessLeft = true ∧ Tab.wf {} s.whip = true ∧
    Tab.wf {} s.strand = true ∧ Tab.wf {} s.braid = true ∧ Tab.wf {} s.splice = true ∧ Tab.wf {} s.bight = true ∧
    Tab.wf {} s.cleat = true ∧ Tab.wf {} s.twine = true ∧ Tab.wf {} s.clients = true ∧ Tab.wf {} s.groups = true ∧
    Tab.wf {} s.kcs = true ∧ Tab.wf [] s.keks = true ∧ Tab.wf {} s.hitch = true ∧ Tab.wf 0 s.discards = true

/-- The state is in its canonical form. In the two register stores each listed register is one the device has, at a value of its width
other than its reset value, and the list is in order without repeats; the tables of unit state are in theirs. -/
def State.stored (s : State) : Prop := s.regs.wf = true ∧ s.shadow.wf = true ∧ s.tabled

/-- A step that answers a next state: the device goes on. -/
def State.goesOn (s : State) : Prop := ∃ t, step s = .next t

/-- The parts of the state beside the registers and the queue. -/
inductive Part where
  | shadow | latches | tod | pins | rings | inflight | nextCmd | vecs | auth | sessLeft | nv | journal | marline | boot | mem | whip
  | strand | braid | splice | halyard | bight | cleat | twine | clients | leafFail | groups | kcs | keks | hitch | lanyard | belay | age
  | tally | fathom | drawn | out | discards
  deriving DecidableEq, Repr

/-- A part is the same in two states. -/
def Part.same (p : Part) (s t : State) : Prop :=
  match p with
  | .shadow => t.shadow = s.shadow
  | .latches => t.latches = s.latches
  | .tod => t.tod = s.tod
  | .pins => t.pins = s.pins
  | .rings => t.rings = s.rings
  | .inflight => t.inflight = s.inflight
  | .nextCmd => t.nextCmd = s.nextCmd
  | .vecs => t.vecs = s.vecs
  | .auth => t.auth = s.auth
  | .sessLeft => t.sessLeft = s.sessLeft
  | .nv => t.nv = s.nv
  | .journal => t.journal = s.journal
  | .marline => t.marline = s.marline
  | .boot => t.boot = s.boot
  | .mem => t.mem = s.mem
  | .whip => t.whip = s.whip
  | .strand => t.strand = s.strand
  | .braid => t.braid = s.braid
  | .splice => t.splice = s.splice
  | .halyard => t.halyard = s.halyard
  | .bight => t.bight = s.bight
  | .cleat => t.cleat = s.cleat
  | .twine => t.twine = s.twine
  | .clients => t.clients = s.clients
  | .leafFail => t.leafFail = s.leafFail
  | .groups => t.groups = s.groups
  | .kcs => t.kcs = s.kcs
  | .keks => t.keks = s.keks
  | .hitch => t.hitch = s.hitch
  | .lanyard => t.lanyard = s.lanyard
  | .belay => t.belay = s.belay
  | .age => t.age = s.age
  | .tally => t.tally = s.tally
  | .fathom => t.fathom = s.fathom
  | .drawn => t.drawn = s.drawn
  | .out => t.out = s.out
  | .discards => t.discards = s.discards

/-- Registers that a command may change: those of a name, those of a name with a first index (a line, a ring, a client), or one. -/
inductive Touch where
  | reg (id : RegId)
  | row (id : RegId) (i : Nat)
  | one (id : RegId) (i j : Nat)
  deriving DecidableEq, Repr

/-- Whether a register is among them. -/
def Touch.covers : Touch → RegKey → Prop
  | .reg id, r => r.id = id
  | .row id i, r => r.id = id ∧ r.i = i
  | .one id i j, r => r.id = id ∧ r.i = i ∧ r.j = j

/-- A frame: every register outside a list, and every part outside a list, is as before; the queue is as before; what had been sent out
stays sent. -/
def State.only (l : List Touch) (p : List Part) (s t : State) : Prop :=
  (∀ r : RegKey, (∀ x ∈ l, ¬x.covers r) → t.regs.get r = s.regs.get r) ∧ (∀ k, k ∉ p → k.same s t) ∧ t.pending = s.pending ∧
    s.out <:+ t.out

/-- What an event changes beside its block's registers: the ring it is written to, its SEQ and message, Becket's counters and, for
an entry beyond its region, those of the memory port. -/
def eventTouch : List Touch := [.reg .BCKT_RING_ST, .reg .BCKT_CNT, .reg .BCKT_MEM_CNT]

/-- The parts that an event changes. -/
def eventParts : List Part := [.rings, .vecs, .drawn, .out]

/-- An accepted command h of an OPCODE may execute now in its block b (R349, R354), and can be journaled where R419 asks for it. -/
def State.ready (s : State) (b op h : Nat) (c : Cmd) : Prop :=
  s.alive 1 = true ∧ s.alive b = true ∧ s.cmd h = some c ∧ s.mayRun c op = true ∧ c.done = false ∧
    (c.journaled = true → s.journalBlocked = false)

/-- The command h has ended with a status (Table 13.7). -/
def State.ended (s : State) (h status : Nat) : Prop := ∃ c, s.cmd h = some c ∧ c.done = true ∧ c.started = true ∧ c.status = status

/-- A requester may write a register of block b that needs a role in a domain: the block acts, the requester's writes are not ignored, its
role suffices, and the journal can take a record. -/
def State.mayWrite (s : State) (req : Requester) (b need d : Nat) : Prop :=
  s.alive b = true ∧ req ≠ .i3c ∧ need ≤ s.roleIn req d ∧ s.journalBlocked = false

/-- The registers that the reset kinds of R476 leave (Table 20.2): those of the island and of the device's identity; a core reset also leaves
those of the report window and of the CXL-U port. -/
def survivesReset (device : Bool) : List RegId :=
  [.TOP_RST_CAUSE, .BLAY_AON_ST, .TOP_ID, .TOP_SERIAL, .TOP_STRAP] ++
    if device then [] else [.TOP_FLT_CFG, .TOP_INT_EN, .TOP_ACC_ERR, .BCKT_U_STAT]

/-- A device reset or a core reset has led from one state to the other (R476): the registers outside the island and, for a core reset, the
report window hold their reset values, but for the four that show the resets' causes, the boot, the supply state and the standing
faults; no session, command, ring, service or shadow value is left; flash and OTP are. -/
def State.resetLed (device : Bool) (s t : State) : Prop :=
  (∀ r : RegKey, r.id ∉ [RegId.TOP_RST_CAUSE, .TOP_BOOT_ST, .TOP_FAULT, .BLAY_STAT] →
      t.regs.get r = if r.id ∈ survivesReset device then s.regs.get r else regReset r) ∧
    t.boot.coreUp = false ∧ t.boot.fltLow = true ∧ t.shadow = [] ∧ t.latches = [] ∧ t.rings = [] ∧ t.inflight = [] ∧ t.sessLeft = [] ∧
    t.keks = [] ∧ t.kcs = [] ∧ t.marline = {} ∧ t.pins.optTxen = [] ∧ t.pins.clmOut0 = false ∧ t.nv = s.nv ∧
    t.pending = s.pending ∧ s.out <:+ t.out

/-- The end of every role session has been journaled (R419): records of kind 4 are appended, one for each session where the buffer has room
for all, and nothing else of the journal changes. -/
def State.endsJournaled (s t : State) : Prop :=
  ∃ l : List JRec, t.journal.buffer = s.journal.buffer ++ l ∧ (∀ r ∈ l, r.kind = 4) ∧ t.journal.pages = s.journal.pages ∧
    (s.journal.buffer.length + 32 ≤ 1024 → l.length = ((List.range 32).filter fun k => s.on .MRLN_ROLE_ST_VALID k).length)

end Sys2Proof.Machine
end

