-- ==== Sys2Proof/Certificates/Slice0/Obligations.lean ====
section
/-! DEFINITION. The statements for the provers. -/

open Sys2Proof Sys2Proof.Machine

/-- A step of a state with command c at the front of its queue is exec of c on the state with the queue's rest; an empty queue idles (the model's choice, log entry 1). -/
def Obligations.StepRunsFront : Prop :=
  (∀ (s : State) (c : Instr) (rest : List Instr), step { s with pending := c :: rest } = exec c { s with pending := rest }) ∧
  (∀ s : State, s.pending = [] → step s = .next s)

/-- The spec gives every row of the table an effect, and none of them stops the device: exec of every command answers a next state, and so does every step. -/
def Obligations.EveryStepAnswers : Prop :=
  (∀ (c : Instr) (s : State), ∃ t, exec c s = .next t) ∧ (∀ s : State, s.goesOn)

/-- The register stores and the tables of unit state of the reset state are in their canonical form (the invariant that every step keeps). -/
def Obligations.ResetIsStored : Prop :=
  State.reset.stored

/-- From every state whose register stores and tables of unit state are in canonical form, a step leads to such a state: each listed register is one the device has, at a value of its width other than its reset value, the lists are in order without repeats. -/
def Obligations.StepKeepsStored : Prop :=
  ∀ s t : State, s.stored → step s = .next t → t.stored

/-- Every command leaves the queue as it is, only adds to what the device has sent out, and never moves the count of drawn free values back. -/
def Obligations.QueueOutputsAndDraws : Prop :=
  ∀ (c : Instr) (s t : State), exec c s = .next t → t.pending = s.pending ∧ s.out <:+ t.out ∧ s.drawn ≤ t.drawn

/-- Over every command and state: flash and OTP change only by NV_WRITE, NV_COMMIT, OTP_WRITE, a scrub visit that programs the remap record, and programming from outside at a power-on of the island; the unwrapped KEKs change only by NV_COMMIT, the boot, register accesses (the commits and resets they reach) and the resets. -/
def Obligations.FlashAndKeysChangeOnlyBy : Prop :=
  (∀ (c : Instr) (s t : State), exec c s = .next t → t.nv = s.nv ∨ (∃ h, c = .nvWrite h) ∨ (∃ h content,
      c = .nvCommit h content) ∨ (∃ h, c = .otpWrite h) ∨ (∃ i addr found byRead passEnds,
          c = .scrubVisit i addr found byRead passEnds) ∨ (∃ flash, c = .islandPowerOn flash)) ∧
  (∀ (c : Instr) (s t : State), exec c s = .next t → t.keks = s.keks ∨ (∃ h content, c = .nvCommit h content) ∨ (∃ flash,
      c = .islandPowerOn flash) ∨ (∃ flight, c = .porstAssert flight) ∨ (∃ req flight, c = .deviceReset req flight) ∨ (∃ req flight,
          c = .coreReset req flight) ∨ (∃ ms fails torn outvoted,
              c = .bootStageDone ms fails torn outvoted) ∨ c = .rootLockLoss ∨ (∃ flight,
              c = .escalationTimeout flight) ∨ (∃ e flight, c = .supplyThresholdCross e flight) ∨ c = .shutdownRestart ∨ (∃ flight,
              c = .tjSample flight) ∨ (∃ req addr wide value, c = .registerWrite req addr wide value) ∨ (∃ req addr wide value inc,
              c = .counterWrite req addr wide value inc))

/-- Over every command and state: the shadow values change only by register writes, commits and resets; the time of day in seconds changes only at PPS_IN pulses, second rollovers, register writes and resets. -/
def Obligations.ShadowAndTimeChangeOnlyBy : Prop :=
  (∀ (c : Instr) (s t : State), exec c s = .next t → t.shadow = s.shadow ∨ (∃ flash, c = .islandPowerOn flash) ∨ (∃ flight,
      c = .porstAssert flight) ∨ (∃ req flight, c = .deviceReset req flight) ∨ (∃ req flight,
          c = .coreReset req flight) ∨ c = .rootLockLoss ∨ (∃ flight, c = .escalationTimeout flight) ∨ (∃ e flight,
              c = .supplyThresholdCross e flight) ∨ c = .shutdownRestart ∨ (∃ flight, c = .tjSample flight) ∨ (∃ req block crc,
              c = .commit req block crc) ∨ (∃ req addr wide value,
              c = .registerWrite req addr wide value) ∨ (∃ req addr wide value inc, c = .counterWrite req addr wide value inc)) ∧
  (∀ (c : Instr) (s t : State), exec c s = .next t → t.tod = s.tod ∨ (∃ interval, c = .ppsInPulse interval) ∨ (∃ flash,
      c = .islandPowerOn flash) ∨ (∃ flight, c = .porstAssert flight) ∨ (∃ req flight, c = .deviceReset req flight) ∨ (∃ req flight,
          c = .coreReset req flight) ∨ c = .rootLockLoss ∨ (∃ flight, c = .escalationTimeout flight) ∨ (∃ e flight,
              c = .supplyThresholdCross e flight) ∨ c = .shutdownRestart ∨ (∃ flight,
              c = .tjSample flight) ∨ c = .secondRollover ∨ (∃ req addr wide value,
              c = .registerWrite req addr wide value) ∨ (∃ req addr wide value inc, c = .counterWrite req addr wide value inc))

/-- A legal write of a whole 32-bit or 64-bit register whose writes have no effect of their own, by a requester with the rights it needs: each RW field takes the value, moved into its stated range (R518); RO fields keep theirs; W1C bits written 1 clear; RWC fields keep their active value and the shadow takes the one written. Every other register but MRLN_NV_ST (the journal's fill) is as before. Without the rights the register keeps its value and DENIED counts. At an unassigned address the write is discarded and counted. In core reset, and from the I3C target, it does nothing but discard the requester's latch. -/
def Obligations.RegisterWriteByAccessCode : Prop :=
  (∀ (s : State) (req : Requester) (addr value n : Nat) (r : RegKey), findReg addr = some (r, 0) → (regSpec r.id).width = n →
      n = 32 ∨ n = 64 → legalForm req addr (n / 8) = true → req ≠ .i3c → s.boot.coreUp = true → s.alive (regBlock r.id) = true →
      commitBlock r.id = none →
      r.id ∉ [RegId.TOP_RESET, .TOP_FLT_CFG, .BCKT_MEM_CFG, .BCKT_REGION, .BCKT_RING_CFG, .MRLN_END_TXD, .MRLN_END_POST, .MRLN_END_POP,
        .MRLN_END_INT, .MRLN_END_ST, .MRLN_END_HEAD, .MRLN_END_RXD, .MRLN_AUTH_RESP, .MRLN_AUTH_CTL, .MRLN_AUTH_CHAL, .WHIP_INJECT,
        .HLYD_DPLL_CTL, .HLYD_PSTEP, .HLYD_TOD_SET, .TALY_MON_CTL, .TALY_URG, .SPLC_CMD, .HTCH_TX_CFG, .TWIN_TXFFE, .LNYD_LANE_CFG,
        .BRAD_LOAD_CFG, .STRD_DAC_CAL, .STRD_ADC_CAL, .TWIN_SCAN, .TWIN_SYNCE_SEL, .BRAD_PD_FIR, .BRAD_PD_LUT, .CLET_SC_CFG,
        .WHIP_REMAP, .TALY_AGE_ST, .TALY_AGE_LINE, .MRLN_NV_ST] →
      s.permits req (writeNeed r.id 0 n) (s.regDoms r) = true → s.journalBlocked = false →
      ∃ t, exec (.registerWrite req addr (decide (n = 64)) value) s = .next t ∧
        (∀ f ∈ (regSpec r.id).fields,
          (f.acc = .rw → f.rng = none → bits (t.regs.get r) f.hi f.lo = bits value f.hi f.lo) ∧
          (∀ least most : Int, f.acc = .rw → f.rng = some (least, most) → bits (t.regs.get r) f.hi f.lo =
            clipField (f.hi + 1 - f.lo) least most (bits value f.hi f.lo) % 2 ^ (f.hi + 1 - f.lo)) ∧
          (f.acc = .ro ∨ f.acc = .rov → bits (t.regs.get r) f.hi f.lo = bits (s.regs.get r) f.hi f.lo) ∧
          (f.acc = .w1c →
              bits (t.regs.get r) f.hi f.lo = bits (s.regs.get r) f.hi f.lo - (bits (s.regs.get r) f.hi f.lo &&& bits value f.hi f.lo)) ∧
          (f.acc = .rwc → bits (t.regs.get r) f.hi f.lo = bits (s.regs.get r) f.hi f.lo ∧
            bits (t.shadow.get r) f.hi f.lo = bits value f.hi f.lo)) ∧
        (∀ q : RegKey, q ≠ r → q.id ≠ .MRLN_NV_ST → t.regs.get q = s.regs.get q) ∧ t.pending = s.pending ∧ t.out = s.out) ∧
  (∀ (s : State) (req : Requester) (addr value : Nat) (wide : Bool), findReg addr = none → (wide = true → findReg (addr + 4) = none) →
      legalForm req addr (if wide then 8 else 4) = true → req ≠ .i3c →
      ∃ t, exec (.registerWrite req addr wide value) s = .next t ∧
        t.rd .TOP_ACC_ERR_UNASSIGNED_WR = min (s.rd .TOP_ACC_ERR_UNASSIGNED_WR + 1) 65535 ∧
        (∀ q : RegKey, q.id ≠ .TOP_ACC_ERR → t.regs.get q = s.regs.get q) ∧ t.shadow = s.shadow ∧ t.out = s.out) ∧
  (∀ (s : State) (req : Requester) (addr value : Nat) (r : RegKey), findReg addr = some (r, 0) → (regSpec r.id).width = 32 →
      legalForm req addr 4 = true → s.boot.coreUp = false → ∃ t, exec (.registerWrite req addr false value) s = .next t ∧
        t.regs = s.regs ∧ t.shadow = s.shadow ∧ t.out = s.out) ∧
  (∀ (s : State) (addr value : Nat) (wide : Bool), ∃ t, exec (.registerWrite .i3c addr wide value) s = .next t ∧
        t.regs = s.regs ∧ t.shadow = s.shadow ∧ t.out = s.out) ∧
  (∀ (s : State) (p : BitVec 20) (addr value : Nat), findReg addr = some (⟨.BCKT_EVQ, 0, 0, 0⟩, 0) → addr % 4 = 0 → s.boot.coreUp = true →
      s.alive 1 = true → s.roleIn (.host p) 0 = 0 → ∃ t, exec (.registerWrite (.host p) addr false value) s = .next t ∧
        t.regs.get ⟨.BCKT_EVQ, 0, 0, 0⟩ = s.regs.get ⟨.BCKT_EVQ, 0, 0, 0⟩ ∧
        t.rd .MRLN_NV_ST_DENIED = min (s.rd .MRLN_NV_ST_DENIED + 1) 65535 ∧ t.on .MRLN_NV_EVT_DENIED = true)

/-- REGISTER_READ of a 32-bit register returns its fields by Table 0.4 (shadow values for RWC, zero for WO), at an unassigned address zero, which is counted. LOW_HALF_READ returns the low half of a 64-bit register and latches its high half for the requester; HIGH_HALF_READ then returns the latched value and frees the slot, whatever the register holds by then. An access of another form is counted in TOP_ACC_ERR.UR, and answered with Unsupported Request to the host, zero to JTAG. BOOT_ST_READ clears READY of TOP_INT_ST. A COUNTER_WRITE that meets an increment leaves the written count plus it, with WRAP set where the count passed its end. -/
def Obligations.RegisterReads : Prop :=
  (∀ (s : State) (req : Requester) (addr : Nat) (r : RegKey), findReg addr = some (r, 0) → (regSpec r.id).width = 32 →
      legalForm req addr 4 = true → req ≠ .i3c → s.boot.coreUp = true → endOf r = none → inAuth r.id = false →
      r.id ∉ [RegId.TOP_INT_ST, .TOP_HOLD, .BRAD_SC_ACT, .SHET_CLI_STAT, .TWIN_STAT, .STRD_ADC_STAT, .TOP_BOOT_ST] →
      commitSt (regBlock r.id) ≠ some r.id →
      ∃ t x, exec (.registerRead req addr false) s = .next t ∧ t.out = .read req x :: s.out ∧ t.regs = s.regs ∧ t.shadow = s.shadow ∧
        ∀ f ∈ (regSpec r.id).fields, (f.acc = .wo → bits x f.hi f.lo = 0) ∧
          (f.acc = .rwc → bits x f.hi f.lo = bits (s.shadow.get r) f.hi f.lo) ∧
          (f.acc ≠ .wo → f.acc ≠ .rwc → bits x f.hi f.lo = bits (s.regs.get r) f.hi f.lo)) ∧
  (∀ (s : State) (req : Requester) (addr : Nat), findReg addr = none → legalForm req addr 4 = true → req ≠ .i3c →
      ∃ t, exec (.registerRead req addr false) s = .next t ∧ t.out = .read req 0 :: s.out ∧
        t.rd .TOP_ACC_ERR_UNASSIGNED_RD = min (s.rd .TOP_ACC_ERR_UNASSIGNED_RD + 1) 65535) ∧
  (∀ (s : State) (req : Requester) (addr : Nat) (r : RegKey), findReg addr = some (r, 0) → (regSpec r.id).width = 64 →
      legalForm req addr 4 = true → req ≠ .i3c → s.boot.coreUp = true → endOf r = none → inAuth r.id = false →
      r.id ∉ [RegId.TOP_HOLD, .BRAD_SC_ACT, .SHET_CLI_STAT, .TWIN_STAT, .STRD_ADC_STAT, .TOP_BOOT_ST] →
      commitSt (regBlock r.id) ≠ some r.id → (s.dropLatch req).latches.length < 16 →
      ∃ t v k, exec (.lowHalfRead req addr) s = .next t ∧ t.regs = s.regs ∧ t.out = .read req (v % 2 ^ 32) :: s.out ∧
        t.latches = (s.dropLatch req).latches ++ [⟨k, s.stampOf req, r, v >>> 32⟩] ∧ (∀ l ∈ (s.dropLatch req).latches, l.slot ≠ k) ∧
        ∀ f ∈ (regSpec r.id).fields, (f.acc = .rwc → bits v f.hi f.lo = bits (s.shadow.get r) f.hi f.lo) ∧
          (f.acc ≠ .wo → f.acc ≠ .rwc → r.id ≠ .TOP_INT_ST → bits v f.hi f.lo = bits (s.regs.get r) f.hi f.lo)) ∧
  (∀ (s : State) (req : Requester) (addr : Nat) (r : RegKey) (l : Latch), findReg addr = some (r, 1) → (regSpec r.id).width = 64 →
      legalForm req addr 4 = true → req ≠ .i3c → s.boot.coreUp = true →
          s.latches.find? (fun l => decide (l.req = s.stampOf req)) = some l →
      l.key = r → ∃ t, exec (.highHalfRead req addr) s = .next t ∧
        t = { s with latches := (s.dropLatch req).latches, out := .read req l.high :: s.out }) ∧
  (∀ (s : State) (p : BitVec 20) (addr bytes : Nat) (read : Bool), legalForm (.host p) addr bytes = false →
      ∃ t, exec (.malformedAccess (.host p) addr bytes read) s = .next t ∧ t.out = .unsupported (.host p) :: s.out ∧
        t.rd .TOP_ACC_ERR_UR = min (s.rd .TOP_ACC_ERR_UR + 1) 65535 ∧ t.shadow = s.shadow ∧
        ∀ q : RegKey, q.id ≠ .TOP_ACC_ERR → t.regs.get q = s.regs.get q) ∧
  (∀ (s : State) (addr bytes : Nat), legalForm .jtag addr bytes = false → ∃ t, exec (.malformedAccess .jtag addr bytes true) s = .next t ∧
        t.out = .read .jtag 0 :: s.out ∧ t.rd .TOP_ACC_ERR_UR = min (s.rd .TOP_ACC_ERR_UR + 1) 65535) ∧
  (∀ (s : State) (req : Requester), ∃ t x, exec (.bootStRead req) s = .next t ∧ t.out = .read req x :: s.out ∧
        t.on .TOP_INT_ST_READY = false ∧ ∀ q : RegKey, q.id ≠ .TOP_INT_ST → t.regs.get q = s.regs.get q) ∧
  (∀ (s : State) (req : Requester) (addr value inc : Nat) (r : RegKey), findReg addr = some (r, 0) → (regSpec r.id).width = 64 →
      isCounter r.id = true → legalForm req addr 8 = true → req ≠ .i3c → s.boot.coreUp = true → s.alive (regBlock r.id) = true →
      s.permits req (writeNeed r.id 0 64) (s.regDoms r) = true → s.journalBlocked = false →
      ∃ t, exec (.counterWrite req addr true value inc) s = .next t ∧
        bits (t.regs.get r) 47 0 = (bits value 47 0 + inc) % 2 ^ 48 ∧
        bits (t.regs.get r) 63 63 =
          (if 2 ^ 48 ≤ bits value 47 0 + inc then 1 else if bits value 63 63 = 1 then 0 else bits (s.regs.get r) 63 63) ∧
        ∀ q : RegKey, q ≠ r → q.id ≠ .MRLN_NV_ST → t.regs.get q = s.regs.get q)

/-- COMMIT of a block that has a COMMIT register. With another CRC than that of its shadow image: CRC_BAD counts, LAST reads 2, and no register outside the block's status, the event ring and the journal's fill changes. With the right CRC from a requester that lacks rights: LAST reads 3, DENIED counts, and the block's refusal shows its rights cause where it has one. With rights, a set that a rule refuses changes no register but the status, the refusal's and the event's: LAST reads 3. A set that breaks no rule applies: LAST reads 1, APPLIED counts, and every RWC field of the block holds its shadow value, clipped where R518 clips it (for TALY while a sequence runs, at the sequence's end: R460). For Fathom, whose sets start nothing further, nothing else changes. -/
def Obligations.CommitJudged : Prop :=
  (∀ (s : State) (req : Requester) (b : Block) (crc : BitVec 32) (st : RegId), commitSt b.val = some st → s.boot.coreUp = true →
      req ≠ .i3c →
      s.journalBlocked = false → crc.toNat ≠ s.shadowCrc b.val → ∃ t, exec (.commit req b crc) s = .next t ∧
      t.rd ⟨st, 15, 8⟩ = min (s.rd ⟨st, 15, 8⟩ + 1) 255 ∧ t.rd ⟨st, 1, 0⟩ = 2 ∧ t.shadow = s.shadow ∧
      (∀ r : RegKey, r.id ∉ [st, .TOP_EVT, .BCKT_RING_ST, .BCKT_CNT, .BCKT_MEM_CNT, .MRLN_NV_ST] → t.regs.get r = s.regs.get r)) ∧
  (∀ (s : State) (req : Requester) (b : Block) (crc : BitVec 32) (st : RegId) (u d : Nat), commitSt b.val = some st →
      s.boot.coreUp = true →
      req ≠ .i3c → s.journalBlocked = false → crc.toNat = s.shadowCrc b.val →
      lackingUnit s (s.takeShadow b.val) req (s.changedKeys (s.takeShadow b.val) b.val) = some (u, d) →
      ∃ t, exec (.commit req b crc) s = .next t ∧ t.rd ⟨st, 1, 0⟩ = 3 ∧ t.shadow = s.shadow ∧
      t.rd .MRLN_NV_ST_DENIED = min (s.rd .MRLN_NV_ST_DENIED + 1) 65535 ∧
      (∀ (c : Nat) (sticky last cnt : Fld) (un bit : Option Fld), rightsCause b.val = some c →
        refuseFields b.val = some (sticky, last, cnt, un, bit) →
        t.on sticky = true ∧ t.rd last = c ∧ t.rd cnt = min (s.rd cnt + 1) (2 ^ cnt.width - 1)) ∧
      (∀ r : RegKey, regBlock r.id ≠ b.val → r.id ∉ [RegId.BCKT_RING_ST, .BCKT_CNT, .BCKT_MEM_CNT, .MRLN_NV_ST, .MRLN_NV_EVT] →
        t.regs.get r = s.regs.get r)) ∧
  (∀ (s : State) (req : Requester) (b : Block) (crc : BitVec 32) (st : RegId) (x : Breach), commitSt b.val = some st →
      s.boot.coreUp = true →
      req ≠ .i3c → s.journalBlocked = false → crc.toNat = s.shadowCrc b.val →
      lackingUnit s (s.takeShadow b.val) req (s.changedKeys (s.takeShadow b.val) b.val) = none →
      checkSet b.val s (s.takeShadow b.val) = some x → ∃ t, exec (.commit req b crc) s = .next t ∧ t.rd ⟨st, 1, 0⟩ = 3 ∧
      t.shadow = s.shadow ∧
      (∀ (sticky last cnt : Fld) (u bit : Option Fld), refuseFields b.val = some (sticky, last, cnt, u, bit) →
        t.on sticky = true ∧ t.rd last = x.cause % 2 ^ last.width ∧ t.rd cnt = min (s.rd cnt + 1) (2 ^ cnt.width - 1)) ∧
      (∀ r : RegKey, regBlock r.id ≠ b.val → r.id ∉ [RegId.BCKT_RING_ST, .BCKT_CNT, .BCKT_MEM_CNT, .MRLN_NV_ST] →
        t.regs.get r = s.regs.get r)) ∧
  (∀ (s : State) (req : Requester) (b : Block) (crc : BitVec 32) (st : RegId), s.stored → commitSt b.val = some st →
      s.boot.coreUp = true →
      req ≠ .i3c → s.journalBlocked = false → crc.toNat = s.shadowCrc b.val →
      lackingUnit s (s.takeShadow b.val) req (s.changedKeys (s.takeShadow b.val) b.val) = none →
      checkSet b.val s (s.takeShadow b.val) = none → (b.val = 7 → s.on .TALY_MON_ST_RUNNING = false) →
      ∃ t, exec (.commit req b crc) s = .next t ∧ t.rd ⟨st, 1, 0⟩ = 1 ∧ t.rd ⟨st, 31, 16⟩ = (s.rd ⟨st, 31, 16⟩ + 1) % 65536 ∧
      (∀ (r : RegKey) (f : FieldSpec), regBlock r.id = b.val → f ∈ (regSpec r.id).fields → f.acc = .rwc →
        bits (t.regs.get r) f.hi f.lo = bits (clipReg r.id (s.shadow.get r)) f.hi f.lo) ∧
      (b.val = 4 → ∀ r : RegKey, regBlock r.id ≠ 4 → r.id ≠ .MRLN_NV_ST → t.regs.get r = s.regs.get r)) ∧
  (∀ (s : State) (req : Requester) (crc : BitVec 32), s.boot.coreUp = true → req ≠ .i3c → s.journalBlocked = false →
      crc.toNat = s.shadowCrc 7 → lackingUnit s (s.takeShadow 7) req (s.changedKeys (s.takeShadow 7) 7) = none →
      checkSet 7 s (s.takeShadow 7) = none → s.on .TALY_MON_ST_RUNNING = true → ∃ t, exec (.commit req 7 crc) s = .next t ∧
      t.rd .TALY_COMMIT_ST_LAST = 1 ∧ t.tally.due.isSome = true ∧
      ∀ r : RegKey, r.id ∉ [RegId.TALY_COMMIT_ST, .MRLN_NV_ST] → t.regs.get r = s.regs.get r)

/-- For every state in canonical form: INT_N is driven low exactly while a bit of TOP_INT_ST is set that TOP_INT_EN also has, or READY or FAULT of TOP_INT_ST is set, whatever TOP_INT_EN holds; and bit b of TOP_INT_ST, for every block b, is set exactly while an event register of block b has a bit set. Since the pin is a function of the present state, it rises when the last such bit clears. -/
def Obligations.InterruptPin : Prop :=
  ∀ s : State, s.stored →
    (s.intN = true ↔ (∃ b, s.intStatus.testBit b = true ∧ (s.reg .TOP_INT_EN).testBit b = true) ∨ s.intStatus.testBit 20 = true ∨
      s.intStatus.testBit 19 = true) ∧
    (s.intStatus.testBit 20 = s.on .TOP_INT_ST_READY) ∧ (s.intStatus.testBit 19 = true ↔ s.reg .TOP_FAULT ≠ 0) ∧
    (∀ b < 19, s.intStatus.testBit b = true ↔ ∃ r : RegKey, regValid r = true ∧ isEvt r.id = true ∧ regBlock r.id = b ∧ s.regs.get r ≠ 0)

/-- REGISTER_WRITE of TOP_RESET (core up, its block not held, a requester other than the I3C target). With KEY = 0xA5C3 and Installer rights for D0, where the journal takes a record, the write is in the journal and KIND 1 starts a device reset, KIND 2 a core reset, with its cause recorded. With another KEY or without the rights, nothing is reset: DENIED counts, and no register changes but those of the denial, its event and the journal's fill. -/
def Obligations.ResetWriteRule : Prop :=
  (∀ (s : State) (req : Requester) (v : Nat), s.boot.coreUp = true → (s.rd .TOP_FAULT_HELD).testBit 0 = false → req ≠ .i3c →
      2 ≤ s.roleIn req 0 → s.journalBlocked = false → bits v 31 16 = 0xA5C3 →
      ∃ t, exec (.registerWrite req (regAddr ⟨.TOP_RESET, 0, 0, 0⟩) false v) s = .next t ∧
      (∃ r l, t.journal.buffer = s.journal.buffer ++ r :: l ∧ r.what = regAddr ⟨.TOP_RESET, 0, 0, 0⟩ ∧ r.result = 0) ∧
      (bits v 1 0 = 1 → s.resetLed true t ∧ t.on .TOP_RST_CAUSE_SW_DEVICE = true) ∧
      (bits v 1 0 = 2 → s.resetLed false t ∧ t.on .TOP_RST_CAUSE_SW_CORE = true)) ∧
  (∀ (s : State) (req : Requester) (v : Nat), s.boot.coreUp = true → (s.rd .TOP_FAULT_HELD).testBit 0 = false → req ≠ .i3c →
      (bits v 31 16 ≠ 0xA5C3 ∨ s.roleIn req 0 < 2) →
      ∃ t, exec (.registerWrite req (regAddr ⟨.TOP_RESET, 0, 0, 0⟩) false v) s = .next t ∧ t.boot = s.boot ∧
      t.rd .MRLN_NV_ST_DENIED = min (s.rd .MRLN_NV_ST_DENIED + 1) 65535 ∧
      (∀ q : RegKey, q.id ∉ [RegId.MRLN_NV_ST, .MRLN_NV_EVT, .BCKT_RING_ST, .BCKT_CNT, .BCKT_MEM_CNT] → t.regs.get q = s.regs.get q))

/-- COUNTER_WRITE of a performance counter by a requester with the rights. A 64-bit write applies bits 47:0 as COUNT and bit 63 as W1C at once; a 32-bit write of the low half sets the low 32 bits of COUNT and leaves WRAP to the increment. The counter then holds the written value plus the increment, modulo 2^48; past 0xFFFF_FFFF_FFFF it wraps and WRAP is set. -/
def Obligations.CounterWriteRule : Prop :=
  (∀ (s : State) (req : Requester) (addr value inc : Nat) (r : RegKey), findReg addr = some (r, 0) → isCounter r.id = true → 0 < inc →
      legalForm req addr 8 = true → req ≠ .i3c → s.boot.coreUp = true → s.alive (regBlock r.id) = true →
      s.permits req (writeNeed r.id 0 64) (s.regDoms r) = true → s.journalBlocked = false →
      ∃ t, exec (.counterWrite req addr true value inc) s = .next t ∧
        bits (t.regs.get r) 47 0 = (bits value 47 0 + inc) % 2 ^ 48 ∧
        bits (t.regs.get r) 63 63 =
          (if 2 ^ 48 ≤ bits value 47 0 + inc then 1 else if bits value 63 63 = 1 then 0 else bits (s.regs.get r) 63 63)) ∧
  (∀ (s : State) (req : Requester) (addr value inc : Nat) (r : RegKey), findReg addr = some (r, 0) → isCounter r.id = true → 0 < inc →
      legalForm req addr 4 = true → req ≠ .i3c → s.boot.coreUp = true → s.alive (regBlock r.id) = true →
      s.permits req (writeNeed r.id 0 32) (s.regDoms r) = true → s.journalBlocked = false →
      ∃ t, exec (.counterWrite req addr false value inc) s = .next t ∧
        bits (t.regs.get r) 47 0 = (bits (s.regs.get r) 47 32 * 2 ^ 32 + value % 2 ^ 32 + inc) % 2 ^ 48 ∧
        bits (t.regs.get r) 63 63 =
          (if 2 ^ 48 ≤ bits (s.regs.get r) 47 32 * 2 ^ 32 + value % 2 ^ 32 + inc then 1 else bits (s.regs.get r) 63 63))

/-- Right after reset (the island's power-on, log entry 39) every register field that the spec's tables give a reset value other than 0 holds it, at every index: identity, budget, voltages, thresholds, timers, codes that mean no estimate or no reference, tap limits by width, lane maps. The boot stage is 0, the lines and MATE are Off, the links down, the rings Disabled and empty, no time of day is valid; no command, session, key, shadow value or journal record exists, PORST is low and the core in reset. (What the model itself chooses at reset, the log entries say, and no clause here rests on it.) -/
def Obligations.ResetValues : Prop :=
  (∀ f v, (f, v) ∈ [(Fld.TOP_ID_MAP_VER, 1), (.TOP_ID_STEP, 176), (.TOP_ID_PART, 38400), (.TOP_RST_CAUSE_POR, 1),
      (.TOP_FLT_CFG_ESC_AUTO, 1), (.TOP_FLT_CFG_ESC_S, 5), (.TOP_FLT_CFG_FLT_HOLD, 1), (.BCKT_ENG_CFG_CMD_TMO, 1000),
          (.BCKT_ENG_CFG_INFL_RING, 16), (.BCKT_ENG_CFG_FETCH_MAX, 8), (.MRLN_SCHED_CFG_WDOG_MS, 10), (.MRLN_SCHED_CFG_SLICE_US, 100),
              (.MRLN_AUTH_CFG_SESS_H, 8), (.MRLN_AUTH_CFG_LOCK_S, 60), (.MRLN_AUTH_CFG_WARN_PCT, 75), (.WHIP_CFG_SCRUB_H, 4),
              (.WHIP_CFG_SCRUB_EN, 1), (.FTHM_DUMP_CFG_DUMP_S, 1), (.FTHM_BW_CFG_BW_US, 1000), (.HLYD_SEL_CFG_HO_MAX, 1440),
              (.HLYD_SEL_CFG_HO_AVG, 2), (.HLYD_SEL_CFG_REVERT, 1), (.HLYD_SEL_CFG_BW, 1), (.HLYD_SEL_CFG_DISP_PPM, 20),
              (.HLYD_SEL_CFG_DISP_MARGIN, 5), (.HLYD_DPLL_CTL_FSLEW, 10), (.HLYD_TOD_CFG_PPS_TOL, 100), (.HLYD_TOD_CFG_BAUD, 2),
              (.HLYD_TOD_CFG_PPS_W, 100), (.HLYD_PSTEP_SLEW, 100), (.HLYD_STAT_SEL_REF, 15), (.BLAY_BUD_CFG_TJ_SLOPE, 50),
              (.BLAY_BUD_CFG_TJ_TRIP, 110), (.BLAY_BUD_CFG_TJ_SOFT, 95), (.BLAY_BUD_CFG_GUARD_W, 20), (.BLAY_BUD_CFG_BUDGET, 980),
              (.BLAY_CORE_CFG_CORE_D, 20), (.BLAY_CORE_CFG_CORE_C, 30), (.BLAY_CORE_CFG_CORE_B, 20), (.BLAY_AVS_CFG_AGE_OFS_MAX, 30),
              (.BLAY_AVS_CFG_SLACK_HI, 40), (.BLAY_AVS_CFG_SLACK_LO, 20), (.BLAY_AVS_CFG_AVS_ADDR, 64), (.BLAY_AVS_CFG_VMAX, 760),
              (.BLAY_AVS_CFG_VMIN, 660), (.BLAY_SUP_CFG_HOLD_H, 24), (.BLAY_SUP_CFG_HOLD_MS, 10), (.BLAY_SUP_CFG_SHARE_LIM, 80),
              (.BLAY_SUP_CFG_SAG_FILT, 1), (.BLAY_SUP_CFG_PWR_WARN_EN, 1), (.BLAY_AVS_ST_SETPOINT, 7000), (.BLAY_AVS_ST_CAL_GAIN,
              512), (.BLAY_AON_ST_A_SHARE, 50), (.TALY_AGE_CFG_LANE_MIN, 16), (.TALY_AGE_CFG_KV, 10), (.TALY_AGE_CFG_REPLAN_HOUR, 2),
              (.TALY_AGE_CFG_REPLAN_D, 7), (.TALY_AGE_CFG_AGE_ITER_MIN, 8), (.TALY_AGE_CFG_REPLAN_EN, 1), (.TALY_AGE_ST_AGE_ITER, 16),
              (.TALY_MON_CFG_PERIOD, 1000), (.LNYD_CFG_GAP, 10), (.LNYD_CFG_LANES, 2), (.LNYD_CK_CFG_REHEARSE, 60)] →
              State.reset.rd f = v) ∧
  (∀ f v, (f, v) ∈ [(Fld.BCKT_MEM_CFG_POIS_MAX, 16), (.BCKT_MEM_CFG_W_CAP, 1), (.BCKT_MEM_CFG_W_SVC, 4), (.BCKT_MEM_CFG_W_RING, 8),
      (.HLYD_OUT_CFG_NUM, 1), (.HLYD_OUT_CFG_DEN, 100)] → ∀ i < 2, State.reset.rd f i = v) ∧
  (∀ f v, (f, v) ∈ [(Fld.TALY_AGE_LINE_SNR_CONV, 255), (.TALY_AGE_LINE_AGE_ENT, 124), (.TALY_AGE_LINE_AGE_ENT_MIN, 24),
      (.STRD_DAC_CAL_BG_EN, 1), (.STRD_ADC_CAL_BG_EN, 1), (.BRAD_LINE_CFG_ANN_COUNT, 4), (.BRAD_LINE_CFG_LOAD_AUTO, 1),
          (.BRAD_LINE_CFG_ROLLOFF, 8), (.BRAD_LOAD_CFG_ARM_TIMEOUT, 100), (.BRAD_LOAD_CFG_FALLBACK, 20), (.BRAD_LOAD_CFG_DWELL, 10),
              (.BRAD_LOAD_CFG_HYST, 4), (.BRAD_LOAD_CFG_MARGIN, 16), (.SPLC_LINE_CFG_FREEZE_HOLD, 50), (.SPLC_LINE_CFG_LOS_PIN_EN, 1),
              (.SPLC_LINE_CFG_LOS_HYST, 8), (.SPLC_LINE_CFG_LOS_THR, 120), (.SPLC_CD_CFG_CD_WIN, 2000), (.SPLC_ADAPT_CFG_DIVERGE, 12),
              (.SPLC_ADAPT_CFG_UPD_MAX, 2), (.SPLC_ADAPT_CFG_CMA_LEN, 4), (.SPLC_ADAPT_CFG_MU_TRK, 12), (.SPLC_ADAPT_CFG_MU_ACQ, 8),
              (.SPLC_CR_CFG_BPS_EN, 1), (.SPLC_CR_CFG_BPS_N, 32), (.SPLC_CR_CFG_PH_WIN, 4), (.SPLC_EST_OSNR, 4095),
              (.BGHT_LINE_CFG_DN_LEAD, 16), (.BGHT_LINE_CFG_REPEAT, 2), (.BGHT_LINE_CFG_MAP_LEAD, 4), (.BGHT_DISC_CFG_STALE_S, 10),
              (.BGHT_DISC_CFG_RNG_PER_CYCLE, 8), (.BGHT_DISC_CFG_DISC_ON, 1), (.BGHT_DISC_CFG_DISC_INT, 100), (.BGHT_ACQ_CFG_TA_THR,
              2), (.BGHT_ACQ_CFG_CAPT_DB, 6), (.BGHT_ACQ_CFG_RELOCK_DB, 6), (.BGHT_ACQ_CFG_DISC_ADD, 4), (.BGHT_ACQ_CFG_DET_THR, 48),
              (.CLET_LINE_CFG_OZR_ITER, 3), (.CLET_LINE_CFG_WIN, 10), (.CLET_LINE_CFG_BURST_OH, 2), (.CLET_LINE_CFG_EARLY_EN, 1),
              (.CLET_LINE_CFG_OH, 1), (.CLET_SD_CFG_SD_SECS, 3), (.CLET_SD_CFG_SD_CLR, 512), (.CLET_SD_CFG_SD_SET, 256),
              (.HTCH_LINE_CFG_LOF_CLR, 3), (.HTCH_LINE_CFG_LOF_SET, 3), (.HTCH_LINE_CFG_ALIGN_M, 5), (.HTCH_LINE_CFG_ALIGN_N, 3),
              (.HTCH_LINE_CFG_BDI_ACT, 1), (.HTCH_LINE_CFG_FLT_EN, 1)] → ∀ i < 3, State.reset.rd f i = v) ∧
  (∀ f v, (f, v) ∈ [(Fld.LNYD_LANE_CFG_DWELL, 6)] → ∀ i < 4, State.reset.rd f i = v) ∧
  (∀ f v, (f, v) ∈ [(Fld.HLYD_REF_CFG_WTR_S, 300), (.HLYD_REF_CFG_REJ, 120), (.HLYD_REF_CFG_ACC, 92)] → ∀ i < 10,
      State.reset.rd f i = v) ∧
  (∀ f v, (f, v) ∈ [(Fld.MRLN_MB_CFG_END1, 15), (.MRLN_MB_CFG_END0, 15), (.BEND_PG_CFG_WTR_S, 10), (.BEND_PG_DLY_GUARD, 180)] →
      ∀ i < 16, State.reset.rd f i = v) ∧
  (∀ f v, (f, v) ∈ [(Fld.MRLN_END_ST_POST_RES, 3)] → ∀ i < 32, State.reset.rd f i = v) ∧
  (∀ f v, (f, v) ∈ [(Fld.SHET_FLX_CFG_INST, 1), (.TWIN_TXFFE_C_M1, 56), (.TWIN_TXFFE_C_0, 48), (.TWIN_RXEQ_SD_THR, 4),
      (.TWIN_RXEQ_CTLE, 20), (.TWIN_SCAN_MARGIN_INT, 24), (.TWIN_SCAN_TGT, 6), (.TWIN_SCAN_DWELL, 8)] → ∀ i < 48,
          State.reset.rd f i = v) ∧
  (∀ f v, (f, v) ∈ [(Fld.SEIZ_KC_CFG_REKEY_H, 24), (.SEIZ_KC_CFG_TAG_WAIT, 64), (.SEIZ_KC_CFG_CEIL_EXP, 48), (.SEIZ_KC_CFG_AF_N,
      4)] → ∀ i < 256, State.reset.rd f i = v) ∧
  (∀ f v, (f, v) ∈ [(Fld.STRD_DAC_CFG_SWING, 25), (.STRD_ADC_CFG_FS, 25), (.STRD_ADC_STAT_PWR, 255)] → ∀ i < 3, ∀ j < 4,
      State.reset.rd f i j = v) ∧
  (∀ f v, (f, v) ∈ [(Fld.SPLC_TAP_LIM_MIN, 7)] → ∀ i < 3, ∀ j < 6, State.reset.rd f i j = v) ∧
  (∀ f v, (f, v) ∈ [(Fld.BRAD_SC_LOAD_CEIL_ENT, 124), (.BRAD_SC_LOAD_FLOOR_ENT, 24), (.BRAD_SC_LOAD_START_ENT, 32),
      (.BRAD_SC_ACT_FAR_SNR, 255), (.BRAD_SC_ACT_EFF_CEIL, 124), (.SPLC_SC_CFG_RX_START_ENT, 32), (.SPLC_SC_EST_DGD_SC, 255),
          (.SPLC_SC_EST_SNR, 255), (.SPLC_SC_EST_SNR_Y, 255), (.SPLC_SC_EST_SNR_X, 255), (.SPLC_SC_HIST_SNR_MAX, 255),
              (.SPLC_SC_HIST_SNR_MIN, 255), (.BGHT_UP_CFG_TAPS, 15), (.CLET_SC_CFG_DEM_GUARD, 328), (.CLET_SC_CFG_ITER_DEF, 8),
              (.CLET_SC_CFG_ITER_MAX, 16), (.CLET_SC_CFG_ITER_MIN, 4)] → ∀ i < 3, ∀ j < 32, State.reset.rd f i j = v) ∧
  (∀ f v, (f, v) ∈ [(Fld.BRAD_MAP_THRESH, 255)] → ∀ i < 3, ∀ j < 101, State.reset.rd f i j = v) ∧
  (∀ f v, (f, v) ∈ [(Fld.BGHT_LEAF_ST_RXPWR, 255), (.BGHT_LEAF_ST_DN_SNR, 255), (.BGHT_LEAF_ST_UP_SNR, 255), (.BGHT_LEAF_ST_STATE,
      7)] → ∀ i < 3, ∀ j < 256, State.reset.rd f i j = v) ∧
  (∀ f v, (f, v) ∈ [(Fld.SPLC_CHAN_X, 128), (.SPLC_CHAN_Y, 128)] → ∀ i < 3, ∀ j < 512, State.reset.rd f i j = v) ∧
  (∀ n < 3, ∀ j < 6, State.reset.rd .SPLC_TAP_LIM_MAX n j = [9, 11, 15, 21, 35, 63].getD j 0) ∧
  (∀ l < 48, State.reset.rd .TWIN_LANE_CFG_TX_MAP l = l % 4 ∧ State.reset.rd .TWIN_LANE_CFG_RX_MAP l = l % 4) ∧
  (∀ f ∈ [Fld.TOP_BOOT_ST_STAGE, .TOP_MODE_STAT_L0_MODE, .TOP_MODE_STAT_L1_MODE, .TOP_MODE_STAT_L2_MODE, .TOP_MODE_STAT_MATE_ACTIVE,
      .BCKT_U_STAT_LINK_UP, .HLYD_STAT_STATE, .HLYD_STAT_TOD_VALID, .LNYD_STAT_LSTATE, .MRLN_TRIPLE_ST_ACTIVE], State.reset.rd f = 0) ∧
  (∀ r : Ring, State.reset.rd .BCKT_RING_ST_STATE r = 0 ∧ State.reset.on .BCKT_RING_CFG_EN r = false) ∧
  (State.reset.pending = [] ∧ State.reset.inflight = [] ∧ State.reset.journal.buffer = [] ∧ State.reset.shadow = [] ∧
      State.reset.boot.porst = true ∧ State.reset.boot.coreUp = false ∧ State.reset.sessLeft = [] ∧ State.reset.kcs = [] ∧
          State.reset.keks = [])

/-- A valid doorbell of a command ring moves PROD to its value, one of another ring CONS; an invalid one is counted with BAD_DOORBELL and moves nothing; a read of a slot gives the index the ring engine owns; any other access to BAR2 reads zero or is discarded and counted. A write that enables a Disabled ring by the rules sets its configuration with both indices zero and the ring Running (here: LOC 0, the link up and not viral, no lost events to report); clearing EN of a stream ring disables it; a change of an enabled ring's other fields is refused with cause 1 and changes nothing. The interrupt timer sends the ring's message and starts its count anew; a write that unmasks a vector in BAR4 sends a pending message, a read gives the vector's address, an access of another form is unsupported. -/
def Obligations.RingsAndDoorbells : Prop :=
  (∀ (s : State) (p : BitVec 20) (r : Ring) (v : BitVec 64), s.alive 1 = true → s.on .BCKT_RING_CFG_LOC r = false →
      s.doorbellOk r (v.toNat % 2 ^ 32) = true → ∃ t, exec (.doorbell (.host p) (64 * r.val) 4 (some v)) s = .next t ∧
          s.only (eventTouch.append [.reg .BCKT_EVT]) eventParts t ∧
      (s.rd .BCKT_RING_CFG_TYPE r = 0 → t.rd .BCKT_RING_ST_PROD r = v.toNat % 2 ^ 32 ∧ (t.ring r).ringer = .host p ∧ t.out = s.out ∧
        ∀ q : RegKey, q ≠ ⟨.BCKT_RING_ST, r, 0, 0⟩ → t.regs.get q = s.regs.get q) ∧
      (s.rd .BCKT_RING_CFG_TYPE r ≠ 0 → (s.ring r).lost = 0 → t.rd .BCKT_RING_ST_CONS r = v.toNat % 2 ^ 32 ∧ t.out = s.out ∧
        ∀ q : RegKey, q ≠ ⟨.BCKT_RING_ST, r, 0, 0⟩ → t.regs.get q = s.regs.get q)) ∧
  (∀ (s : State) (p : BitVec 20) (r : Ring) (v : BitVec 64), s.alive 1 = true →
      (s.on .BCKT_RING_CFG_LOC r = true ∨ s.doorbellOk r (v.toNat % 2 ^ 32) = false) →
      ∃ t, exec (.doorbell (.host p) (64 * r.val) 4 (some v)) s = .next t ∧
          s.only (eventTouch.append [.reg .BCKT_EVT]) eventParts t ∧ t.on .BCKT_EVT_BAD_DOORBELL = true ∧
      (s.rd .BCKT_RING_CFG_TYPE r = 0 → t.rd .BCKT_RING_ST_PROD r = s.rd .BCKT_RING_ST_PROD r)) ∧
  (∀ (s : State) (p : BitVec 20) (r : Ring), s.alive 1 = true → ∃ t, exec (.doorbell (.host p) (64 * r.val) 4 none) s = .next t ∧
      t = s.emit (.read (.host p) (if s.rd .BCKT_RING_CFG_TYPE r = 0 then s.rd .BCKT_RING_ST_CONS r else s.rd .BCKT_RING_ST_PROD r))) ∧
  (∀ (s : State) (p : BitVec 20) (offset bytes : Nat) (v : BitVec 64), s.alive 1 = true →
      ¬(bytes = 4 ∧ offset % 64 = 0 ∧ offset < 64 * 32768) →
      (∃ t, exec (.doorbell (.host p) offset bytes (some v)) s = .next t ∧ t = s.count .BCKT_CNT 1 5) ∧
      ∃ t, exec (.doorbell (.host p) offset bytes none) s = .next t ∧ t = s.emit (.read (.host p) 0)) ∧
  (∀ (s : State) (o b : Nat) (v : Option (BitVec 64)), (∃ t, exec (.doorbell .i3c o b v) s = .next t ∧ t = s) ∧
      ∃ t, exec (.doorbell .jtag o b v) s = .next t ∧ t = s) ∧
  (∀ (s : State) (req : Requester) (r : Ring) (w : Fin 4) (v : BitVec 32) (new : Nat),
      new = rwWrite .BCKT_RING_CFG (s.reg .BCKT_RING_CFG r) (setBits (s.reg .BCKT_RING_CFG r) (32 * w.val + 31) (32 * w.val) v.toNat) →
      s.mayWrite req 1 2 (bits new 70 67) → 2 ≤ s.roleIn req (bits (s.reg .BCKT_RING_CFG r) 70 67) →
      ∃ t, exec (.ringCfgWrite req r w v) s = .next t ∧ s.only (eventTouch.append [.reg .BCKT_REFUSE, .reg .BCKT_EVT,
          .reg .BCKT_RING_CFG, .reg .MRLN_NV_EVT, .reg .MRLN_NV_ST]) (eventParts.append [.latches, .inflight, .journal]) t ∧
      (s.on .BCKT_RING_CFG_EN r = false → bit new 64 = true → s.enableCause new = 0 → bits new 75 75 = 0 →
        s.on .BCKT_U_STAT_LINK_UP = true → s.on .BCKT_U_STAT_VIRAL = false → (s.ring r).lost = 0 →
        t.reg .BCKT_RING_CFG r = new % 2 ^ 128 ∧ t.rd .BCKT_RING_ST_STATE r = 1 ∧ t.rd .BCKT_RING_ST_PROD r = 0 ∧
          t.rd .BCKT_RING_ST_CONS r = 0 ∧ t.rd .BCKT_RING_ST_HALT_CAUSE r = 0) ∧
      (s.on .BCKT_RING_CFG_EN r = true → s.rd .BCKT_RING_CFG_TYPE r = 3 → setBits new 64 64 1 = s.reg .BCKT_RING_CFG r →
        bit new 64 = false → t.rd .BCKT_RING_ST_STATE r = 0) ∧
      (s.on .BCKT_RING_CFG_EN r = true → setBits new 64 64 1 ≠ s.reg .BCKT_RING_CFG r →
        t.reg .BCKT_RING_CFG r = s.reg .BCKT_RING_CFG r ∧ t.on .BCKT_REFUSE_STICKY = true ∧ t.rd .BCKT_REFUSE_LAST_CAUSE = 1)) ∧
  (∀ (s : State) (r : Ring), s.alive 1 = true → s.on .BCKT_RING_CFG_IRQ_EN r = true → s.rd .BCKT_RING_CFG_IRQ_US r ≠ 0 →
      (s.ring r).sinceMsg ≠ 0 → s.rd .BCKT_RING_ST_STATE r = 1 → ∃ t, exec (.msixTimer r) s = .next t ∧ s.only [] [.rings, .vecs,
          .out] t ∧
      (t.ring r).sinceMsg = 0 ∧
      (s.on .BCKT_U_STAT_LINK_UP = true → s.on .BCKT_U_STAT_VIRAL = false → (s.vecs.get {} (s.rd .BCKT_RING_CFG_VEC r)).masked = false →
        t.out = .msix (s.rd .BCKT_RING_CFG_VEC r) (s.vecs.get {} (s.rd .BCKT_RING_CFG_VEC r)).addr
          (s.vecs.get {} (s.rd .BCKT_RING_CFG_VEC r)).data :: s.out)) ∧
  (∀ (s : State) (p : BitVec 20) (v : Vec) (x : BitVec 64), s.alive 1 = true → bit x.toNat 0 = false →
      ∃ t, exec (.msixUnmask (.host p) (16 * v.val + 12) 4 (some x)) s = .next t ∧ s.only [.reg .TOP_ACC_ERR] [.vecs, .out] t ∧
      (t.vecs.get {} v.val).masked = false ∧
      ((s.vecs.get {} v.val).pending = true → (t.vecs.get {} v.val).pending = false ∧ (s.on .BCKT_U_STAT_LINK_UP = true →
        s.on .BCKT_U_STAT_VIRAL = false → t.out = .msix v.val (s.vecs.get {} v.val).addr (s.vecs.get {} v.val).data :: s.out))) ∧
  (∀ (s : State) (p : BitVec 20) (v : Vec), s.alive 1 = true → ∃ t, exec (.msixUnmask (.host p) (16 * v.val) 8 none) s = .next t ∧
      t = s.emit (.read (.host p) (s.vecs.get {} v.val).addr)) ∧
  (∀ (s : State) (p : BitVec 20) (offset bytes : Nat) (x : Option (BitVec 64)), s.alive 1 = true →
      ¬((bytes = 4 ∨ bytes = 8) ∧ offset % bytes = 0) → ∃ t, exec (.msixUnmask (.host p) offset bytes x) s = .next t ∧
      s.only [.reg .TOP_ACC_ERR] [.vecs, .out] t ∧ t.out = .unsupported (.host p) :: s.out)

/-- A descriptor that a working command ring reads from within its memory is accepted: it joins the commands in flight in the order of acceptance, with the status its checks give, CONS moves on, and the next number is issued; a read that fails Halts the ring, with cause 1, or 3 for poison. A finished command whose completion is due writes it, with its CRC and PHASE, at PROD of its completion ring and leaves the ones in flight; a dropped one writes nothing. CMD_TMO after its acceptance an unfinished command ends with TIMEOUT. NOP ends OK with no result, RING_QUERY with the eight bytes of the ring's status. -/
def Obligations.CommandsPassThroughRings : Prop :=
  (∀ (s : State) (r : Ring) (b : List Byte) (ind : BufferRead), s.alive 1 = true → s.ringWorks r = true →
      s.ringOutside r (s.rd .BCKT_RING_ST_CONS r) = false → (bit (byteAt b 2) 0 = false ∨ s.rd .BCKT_RING_ST_INFL r = 0) → ∃ t c,
          exec (.descriptorAccept r (.data b ind)) s = .next t ∧
      s.only (eventTouch.append [.reg .BCKT_MEM_EVT, .reg .BCKT_EVT, .reg .MRLN_NV_ST]) (eventParts.append [.inflight, .nextCmd,
          .journal, .mem]) t ∧ t.inflight = s.inflight ++ [c] ∧ c.num = s.nextCmd ∧ c.ring = r.val ∧
      c.idx = s.rd .BCKT_RING_ST_CONS r ∧ c.opcode = leAt b 0 2 ∧ c.tag = leAt b 4 4 ∧ c.unit = leAt b 8 4 ∧
      (c.status, c.reason) = s.judge r b ind ∧ c.done = decide (c.status ≠ 0) ∧ c.started = false ∧ c.dropped = false ∧
      t.nextCmd = s.nextCmd + 1) ∧
  (∀ (s : State) (r : Ring), s.alive 1 = true → s.ringWorks r = true →
      (∃ t, exec (.descriptorAccept r .error) s = .next t ∧ s.only (eventTouch.append [.reg .BCKT_MEM_EVT, .reg .BCKT_EVT,
          .reg .MRLN_NV_ST]) (eventParts.append [.inflight, .nextCmd, .journal, .mem]) t ∧ t.rd .BCKT_RING_ST_STATE r = 3 ∧
        t.rd .BCKT_RING_ST_HALT_CAUSE r = 1 ∧ t.on .BCKT_EVT_HALTED = true) ∧
      ∃ t, exec (.descriptorAccept r .poison) s = .next t ∧ s.only (eventTouch.append [.reg .BCKT_MEM_EVT, .reg .BCKT_EVT,
          .reg .MRLN_NV_ST]) (eventParts.append [.inflight, .nextCmd, .journal, .mem]) t ∧ t.rd .BCKT_RING_ST_STATE r = 3 ∧
        t.rd .BCKT_RING_ST_HALT_CAUSE r = 3 ∧ t.on .BCKT_EVT_HALTED = true) ∧
  (∀ (s : State) (h : Nat) (c : Cmd), s.alive 1 = true → s.cmd h = some c → c.done = true → c.dropped = false →
      s.ringOutside c.pair (s.rd .BCKT_RING_ST_PROD c.pair) = false → ∃ t, exec (.commandCompletion h true) s = .next t ∧
          s.only (eventTouch.append [.reg .BCKT_EVT]) (eventParts.append [.inflight]) t ∧ t.cmd h = none ∧
      .ringEntry c.pair (s.rd .BCKT_RING_ST_PROD c.pair % s.ringSize c.pair)
        (withCrc (completionBody c (ringPhase (s.ringSize c.pair) (s.rd .BCKT_RING_ST_PROD c.pair)))) ∈ t.out) ∧
  (∀ (s : State) (h : Nat) (ok : Bool) (c : Cmd), s.alive 1 = true → s.cmd h = some c → c.done = true → c.dropped = true →
      ∃ t, exec (.commandCompletion h ok) s = .next t ∧ t = { s with inflight := s.inflight.filter fun x => x.num != h }) ∧
  (∀ (s : State) (h : Nat) (c : Cmd), s.alive 1 = true → s.cmd h = some c → c.done = false →
      ∃ t d, exec (.commandTimeout h) s = .next t ∧ s.only (eventTouch.append [.reg .BCKT_EVT]) (eventParts.append [.inflight]) t ∧
          t.cmd h = some d ∧ d.done = true ∧ d.status = 11 ∧
      d.timedOut = true ∧ t.on .BCKT_EVT_TIMEOUT = true) ∧
  (∀ (s : State) (h : Nat) (c : Cmd), s.ready 1 0x0001 h c → ∃ t, exec (.nop h) s = .next t ∧
      s.only (eventTouch.append [.reg .MRLN_NV_EVT, .reg .MRLN_NV_ST]) (eventParts.append [.inflight, .journal]) t ∧ t.ended h 0 ∧
      ∀ d, t.cmd h = some d → d.result = []) ∧
  (∀ (s : State) (h : Nat) (c : Cmd), s.ready 1 0x0002 h c → ∃ t, exec (.ringQuery h) s = .next t ∧
      s.only (eventTouch.append [.reg .MRLN_NV_EVT, .reg .MRLN_NV_ST]) (eventParts.append [.inflight, .journal]) t ∧ t.ended h 0 ∧
      ∀ d, t.cmd h = some d → d.result = leBytes 8 (s.reg .BCKT_RING_ST (c.unit % 2 ^ 15)))

/-- ISLAND_POWER_ON, PORST_ASSERT, PORST_RELEASE, DEVICE_RESET, CORE_RESET, ESCALATION_TIMEOUT, ROOT_LOCK_LOSS and SHUTDOWN_RESTART each answer a next state. A power-on of the island leaves every register but the serial number at its reset value and the journal buffer empty, with PORST_N low. A device reset and a core reset leave what Table 20.2 says (State.resetLed), record their cause and set the boot's stage; a DEVICE_RESET or CORE_RESET written with Installer rights for D0 is journaled first. The end of every role session is journaled, and each handshake transfer under way that no block has captured is discarded and counted at its source (R38). PORST_RELEASE latches the straps and starts the boot. The stage shown at each reset is the model's choice (log entry 39). -/
def Obligations.ResetsLead : Prop :=
  (∀ (s : State) (flash : Option FlashImage), ∃ t, exec (.islandPowerOn flash) s = .next t ∧
      (∀ r : RegKey, r.id ≠ .TOP_SERIAL → t.regs.get r = regReset r) ∧ t.rd .TOP_SERIAL_SERIAL = t.nv.serial % 2 ^ 64 ∧
      t.journal.buffer = [] ∧ t.journal.pages = s.journal.pages ∧ (flash = none → t.nv = s.nv) ∧ t.boot = {} ∧ t.boot.porst = true ∧
      t.pending = s.pending ∧ t.out = s.out) ∧
  (∀ (s : State) (flight : List (Block × Bool)), s.boot.porst = false → ∃ t, exec (.porstAssert flight) s = .next t ∧
      s.resetLed true t ∧ t.vecs = [] ∧ t.boot.porst = true ∧
      t.on .TOP_RST_CAUSE_PORST = true ∧ t.rd .TOP_BOOT_ST_STAGE = 0 ∧ s.endsJournaled t ∧
      ∀ b, t.discards.get 0 b = s.discards.get 0 b + (flight.filter fun e => !e.2 && e.1.val == b).length) ∧
  (∀ (s : State) (i3c : BitVec 2) (xspi mfg : Bool), s.boot.porst = true → ∃ t, exec (.porstRelease i3c xspi mfg) s = .next t ∧
      s.only [.reg .TOP_STRAP, .reg .TOP_BOOT_ST] [.boot] t ∧ t.boot = { s.boot with porst := false } ∧
      t.rd .TOP_STRAP_I3C = i3c.toNat ∧ t.on .TOP_STRAP_XSPI = xspi ∧ t.on .TOP_STRAP_MFG = mfg ∧
      t.rd .TOP_BOOT_ST_STAGE = (if s.boot.shutdown then 0 else 1)) ∧
  (∀ (s : State) (req : Requester) (flight : List (Block × Bool)), s.boot.coreUp = true → (s.rd .TOP_FAULT_HELD).testBit 0 = false →
      req ≠ .i3c →
      2 ≤ s.roleIn req 0 → s.journalBlocked = false → ∃ t, exec (.deviceReset req flight) s = .next t ∧ s.resetLed true t ∧ t.vecs = [] ∧
      t.on .TOP_RST_CAUSE_SW_DEVICE = true ∧ t.rd .TOP_BOOT_ST_STAGE = (if s.boot.porst || s.boot.shutdown then 0 else 1) ∧
      (∃ r l, t.journal.buffer = s.journal.buffer ++ r :: l ∧ r.what = regAddr ⟨.TOP_RESET, 0, 0, 0⟩ ∧ r.result = 0) ∧
      ∀ b, t.discards.get 0 b = s.discards.get 0 b + (flight.filter fun e => !e.2 && e.1.val == b).length) ∧
  (∀ (s : State) (req : Requester) (flight : List (Block × Bool)), s.boot.coreUp = true → (s.rd .TOP_FAULT_HELD).testBit 0 = false →
      req ≠ .i3c →
      2 ≤ s.roleIn req 0 → s.journalBlocked = false → ∃ t, exec (.coreReset req flight) s = .next t ∧ s.resetLed false t ∧
          t.vecs = s.vecs ∧
      t.on .TOP_RST_CAUSE_SW_CORE = true ∧ t.rd .TOP_BOOT_ST_STAGE = 2 ∧
      (∃ r l, t.journal.buffer = s.journal.buffer ++ r :: l ∧ r.what = regAddr ⟨.TOP_RESET, 0, 0, 0⟩ ∧ r.result = 0) ∧
      ∀ b, t.discards.get 0 b = s.discards.get 0 b + (flight.filter fun e => !e.2 && e.1.val == b).length) ∧
  (∀ (s : State) (flight : List (Block × Bool)), s.on .TOP_FAULT_ESC_PEND = true → s.on .TOP_FLT_CFG_ESC_AUTO = true →
      ∃ t, exec (.escalationTimeout flight) s = .next t ∧
      s.resetLed false t ∧ t.vecs = s.vecs ∧ t.on .TOP_RST_CAUSE_ESCALATION = true ∧ t.rd .TOP_BOOT_ST_STAGE = 2 ∧ s.endsJournaled t) ∧
  (∀ s : State, s.boot.rootLocked = true → ∃ t, exec .rootLockLoss s = .next t ∧ s.resetLed false t ∧
      (s.on .TOP_FLT_CFG_FVEC_EN = false → t.vecs = s.vecs) ∧ t.boot.rootLocked = false ∧
      t.on .TOP_RST_CAUSE_ROOT_LOST = true ∧ t.on .TOP_FAULT_ROOT_LOST = true ∧ s.endsJournaled t) ∧
  (∀ s : State, s.boot.shutdown = true → s.belay.io < 2 → ∃ t, exec .shutdownRestart s = .next t ∧ s.resetLed true t ∧ t.vecs = [] ∧
      t.boot.shutdown = false ∧ t.boot.shutEvent = true ∧ t.on .TOP_RST_CAUSE_SHUTDOWN = true ∧
      t.rd .TOP_BOOT_ST_STAGE = (if s.boot.porst then 0 else 1) ∧ s.endsJournaled t)

/-- BOOT_STAGE_DONE, while the boot goes on, takes it from each stage of Table 20.3 to the next, to READY after stage 7, and to FAIL with cause 4 where the self-test of a block that the device cannot do without fails; BOOT_STAGE_TIMEOUT fails it with a cause of its stage; MFG_RELEASE ends the wait for the Maker. XO_LOST and XO_RESTORED set and clear XO_LOST; a relock is attempted only on XO_IN, and one that holds takes the boot to stage 3. FLT_RELEASE releases FLT_N exactly where no source holds. FLT_SW, written with Installer rights, sets or clears its source and is journaled. Each changes nothing outside the registers and parts listed. -/
def Obligations.BootProgress : Prop :=
  (∀ (s : State) (ms torn : BitVec 16) (fails : List (MemInst × Line)) (outvoted : BitVec 24), s.boot.porst = false →
      s.boot.shutdown = false → s.on .TOP_BOOT_ST_FAIL = false → s.on .TOP_BOOT_ST_READY = false →
      ∃ t, exec (.bootStageDone ms fails torn outvoted) s = .next t ∧ s.only (eventTouch.append [.reg .TOP_BOOT_ST, .reg .TOP_FAULT,
          .reg .TOP_INT_ST, .reg .MRLN_NV_EVT, .reg .MRLN_TRIPLE_ST, .reg .MRLN_CORE_ST, .reg .MRLN_NV_ST, .reg .MRLN_JRN_SEQ,
              .reg .WHIP_INST, .reg .WHIP_REMAP, .reg .WHIP_EVT, .reg .BLAY_EVT, .reg .SEIZ_KEK_ST, .reg .LNYD_LANE_STAT,
              .reg .LNYD_STAT, .reg .LNYD_EVT]) (eventParts.append [.pins, .journal, .marline, .boot, .keks, .lanyard]) t ∧
      (s.rd .TOP_BOOT_ST_STAGE = 1 → s.rd .BLAY_STAT_SUPPLY ≤ 1 → t.rd .TOP_BOOT_ST_STAGE = 2 ∧ t.rd .TOP_BOOT_ST_ELAPSED = ms.toNat) ∧
      (s.rd .TOP_BOOT_ST_STAGE = 2 → s.boot.xoRunning = true → s.on .TOP_FAULT_ROOT_LOST = false →
        t.rd .TOP_BOOT_ST_STAGE = 3 ∧ t.boot.rootLocked = true ∧
        t.boot.mfgHold = (s.on .TOP_STRAP_MFG && decide (s.nv.lifecycle = 0))) ∧
      (s.rd .TOP_BOOT_ST_STAGE = 3 → s.boot.mfgHold = true → t.rd .TOP_BOOT_ST_STAGE = 3) ∧
      (s.rd .TOP_BOOT_ST_STAGE = 3 → s.boot.mfgHold = false → t.rd .TOP_BOOT_ST_STAGE = 4) ∧
      (s.rd .TOP_BOOT_ST_STAGE = 4 → s.rd .TOP_FAULT_HELD = 0 → fails = [] → t.rd .TOP_BOOT_ST_STAGE = 5) ∧
      (∀ (i : MemInst) (l : Line), s.rd .TOP_BOOT_ST_STAGE = 4 → fails = [(i, l)] → s.on .WHIP_INST_PRESENT i = true →
        i.val / 64 ∈ [0, 1, 2, 3, 5, 6] → t.on .TOP_BOOT_ST_FAIL = true ∧ t.rd .TOP_BOOT_ST_FAIL_CAUSE = 4 ∧
        t.rd .TOP_BOOT_ST_STAGE = 4 ∧ t.on .TOP_FAULT_BOOT_FAIL = true) ∧
      (s.rd .TOP_BOOT_ST_STAGE = 5 → (∀ i < 3, s.copyState i ≠ 0) → t.rd .TOP_BOOT_ST_FAIL_CAUSE = 3 ∧ t.rd .TOP_BOOT_ST_STAGE = 5) ∧
      (s.rd .TOP_BOOT_ST_STAGE = 5 → (∃ i < 3, s.copyState i = 0) → t.rd .TOP_BOOT_ST_STAGE = 6) ∧
      (s.rd .TOP_BOOT_ST_STAGE = 6 → t.rd .TOP_BOOT_ST_STAGE = 7 ∧ t.boot.coreUp = true) ∧
      (s.rd .TOP_BOOT_ST_STAGE = 7 → s.boot.coreUp = true → t.on .TOP_BOOT_ST_READY = true ∧ t.on .TOP_INT_ST_READY = true)) ∧
  (∀ (s : State) (ms : BitVec 16) (cause : Fin 6), s.boot.porst = false → s.boot.shutdown = false → s.on .TOP_BOOT_ST_FAIL = false →
      s.on .TOP_BOOT_ST_READY = false →
      (s.rd .TOP_BOOT_ST_STAGE, cause.val) ∈ [(2, 1), (3, 5), (3, 2), (5, 3), (5, 5), (5, 2), (7, 2)] →
      ∃ t, exec (.bootStageTimeout ms cause) s = .next t ∧ s.only [.reg .TOP_BOOT_ST, .reg .TOP_FAULT] [.vecs, .boot, .out] t ∧
      t.on .TOP_BOOT_ST_FAIL = true ∧ t.rd .TOP_BOOT_ST_FAIL_CAUSE = cause.val ∧ t.rd .TOP_BOOT_ST_ELAPSED = ms.toNat ∧
      t.rd .TOP_BOOT_ST_STAGE = s.rd .TOP_BOOT_ST_STAGE ∧ t.on .TOP_FAULT_BOOT_FAIL = true) ∧
  (∀ s : State, ∃ t, exec .mfgRelease s = .next t ∧ t = { s with boot := { s.boot with mfgHold := false } }) ∧
  (∀ s : State, s.on .TOP_FAULT_ROOT_LOST = true → s.boot.xoRunning = true → s.boot.shutdown = false →
      ∃ t, exec .rootRelockAttempt s = .next t ∧ t = { s with boot := { s.boot with relocking := true } }) ∧
  (∀ s : State, s.boot.relocking = true → ∃ t, exec .rootRelocked s = .next t ∧ s.only [.reg .TOP_BOOT_ST, .reg .TOP_FAULT] [.boot] t ∧
      t.boot.rootLocked = true ∧ t.boot.relocking = false ∧ t.on .TOP_FAULT_ROOT_LOST = false ∧
      (s.boot.porst = false → s.boot.shutdown = false → s.on .TOP_BOOT_ST_FAIL = false → s.on .TOP_BOOT_ST_READY = false →
        s.rd .TOP_BOOT_ST_STAGE = 2 → t.rd .TOP_BOOT_ST_STAGE = 3)) ∧
  (∀ s : State, ∃ t, exec .xoLost s = .next t ∧ s.only [.reg .TOP_FAULT] [.vecs, .boot, .out] t ∧ t.on .TOP_FAULT_XO_LOST = true ∧
      t.boot.xoRunning = false ∧ t.boot.relocking = false ∧ t.fltLow = true) ∧
  (∀ s : State, ∃ t, exec .xoRestored s = .next t ∧ s.only [.reg .TOP_FAULT] [.boot] t ∧ t.on .TOP_FAULT_XO_LOST = false ∧
      t.boot = { s.boot with xoRunning := true }) ∧
  (∀ s : State, ∃ t, exec .fltRelease s = .next t ∧ s.only [] [.boot] t ∧ (t.fltLow = false ↔ s.fltSource = false)) ∧
  (∀ (s : State) (req : Requester) (v : Bool), s.boot.coreUp = true → (s.rd .TOP_FAULT_HELD).testBit 0 = false → req ≠ .i3c →
      2 ≤ s.roleIn req 0 → s.journalBlocked = false → ∃ t, exec (.fltSw req v) s = .next t ∧
          s.only (eventTouch.append [.reg .TOP_FAULT, .reg .TOP_FLT_CFG, .reg .MRLN_NV_EVT,
              .reg .MRLN_NV_ST]) (eventParts.append [.latches, .journal, .boot]) t ∧
      t.on .TOP_FLT_CFG_FLT_SW = v ∧ t.on .TOP_FAULT_FLT_SW = v ∧ (v = true → t.fltLow = true) ∧
      t.journal.buffer.length = s.journal.buffer.length + 1)

/-- CXL_U_RESET and FUNCTION_LEVEL_RESET record their cause and empty the MSI-X table, and leave the link as it is; a reset of the link ends viral. A link that goes down reads as down with VIRAL 0 and records a conventional reset; one that comes up shows its width, speed code and flit mode. Viral shows in VIRAL. A snoop is answered as a miss. The VDD_IO crossings set SUPPLY to Normal, Warn or Hold, to Shutdown-orderly below 1.65 V, where the blocks outside the island are held in reset; so does VDD_CORE out of its range. PWR_WARN_N low with its enable makes SUPPLY at least Hold. A Tj sample shows Tj and sets DERATE by TJ_SOFT. Tables 17.4 and 17.5 give the levels. -/
def Obligations.LinkAndSupply : Prop :=
  (∀ s : State, ∃ t, exec .cxlUReset s = .next t ∧ s.only (eventTouch.append [.reg .TOP_RST_CAUSE, .reg .BCKT_U_STAT, .reg .BCKT_EVT,
      .reg .MRLN_EVT, .reg .MRLN_NV_EVT, .reg .MRLN_ROLE_ST, .reg .MRLN_NV_ST, .reg .MRLN_END_ST, .reg .MRLN_END_HEAD,
          .reg .MRLN_END_INT, .reg .MRLN_END_RXD]) (eventParts.append [.latches, .inflight, .sessLeft, .journal, .marline]) t ∧
              t.on .TOP_RST_CAUSE_CXL_RESET = true ∧
      t.on .BCKT_U_STAT_VIRAL = false ∧ t.on .BCKT_U_STAT_LINK_UP = s.on .BCKT_U_STAT_LINK_UP) ∧
  (∀ s : State, ∃ t, exec .functionLevelReset s = .next t ∧ s.only (eventTouch.append [.reg .TOP_RST_CAUSE, .reg .BCKT_EVT,
      .reg .MRLN_EVT, .reg .MRLN_NV_EVT, .reg .MRLN_ROLE_ST, .reg .MRLN_NV_ST, .reg .MRLN_END_ST, .reg .MRLN_END_HEAD,
          .reg .MRLN_END_INT, .reg .MRLN_END_RXD]) (eventParts.append [.latches, .inflight, .sessLeft, .journal, .marline]) t ∧
              t.on .TOP_RST_CAUSE_FLR = true) ∧
  (∀ s : State, s.on .BCKT_U_STAT_LINK_UP = true → ∃ t, exec .cxlULinkDown s = .next t ∧
      s.only (eventTouch.append [.reg .TOP_RST_CAUSE, .reg .BCKT_U_STAT, .reg .BCKT_EVT, .reg .MRLN_EVT, .reg .MRLN_NV_EVT,
          .reg .MRLN_ROLE_ST, .reg .MRLN_NV_ST, .reg .MRLN_END_ST, .reg .MRLN_END_HEAD, .reg .MRLN_END_INT,
              .reg .MRLN_END_RXD]) (eventParts.append [.latches, .inflight, .sessLeft, .journal, .marline]) t ∧
      t.on .BCKT_U_STAT_LINK_UP = false ∧ t.on .BCKT_U_STAT_VIRAL = false ∧ t.on .TOP_RST_CAUSE_CXL_RESET = true ∧
      (s.alive 1 = true → t.on .BCKT_EVT_LINK_DOWN = true)) ∧
  (∀ (s : State) (width : Fin 32) (speed : Fin 8) (flit : Bool), s.on .BCKT_U_STAT_LINK_UP = false → s.boot.porst = false →
      s.boot.shutdown = false → ∃ t, exec (.cxlULinkUp width.val speed.val flit) s = .next t ∧
          s.only (eventTouch.append [.reg .BCKT_U_STAT, .reg .BCKT_EVT]) (eventParts.append [.boot]) t ∧
      t.on .BCKT_U_STAT_LINK_UP = true ∧ t.rd .BCKT_U_STAT_WIDTH = width.val ∧ t.rd .BCKT_U_STAT_SPEED = speed.val ∧
      t.on .BCKT_U_STAT_FLIT256 = flit ∧ t.boot.retrain = false ∧
      (s.alive 1 = true → s.boot.retrain = false → t.on .BCKT_EVT_LINK_UP = true)) ∧
  (∀ s : State, ∃ t, exec .viralReceived s = .next t ∧ s.only (eventTouch.append [.reg .BCKT_U_STAT,
      .reg .BCKT_EVT]) (eventParts.append [.inflight]) t ∧ t.on .BCKT_U_STAT_VIRAL = true) ∧
  (∀ (s : State) (addr : Nat), s.on .BCKT_U_STAT_LINK_UP = true → ∃ t, exec (.snoop addr) s = .next t ∧
      t = { s with out := .snoopMiss addr :: s.out }) ∧
  (∀ (s : State) (e : RailEdge) (flight : List (Block × Bool)), s.boot.shutdown = false → ∃ t,
      exec (.supplyThresholdCross e flight) s = .next t ∧
      (e = .ioFall165 → t.boot.shutdown = true ∧ t.rd .BLAY_STAT_SUPPLY = 3 ∧ t.on .BLAY_STAT_SHUT_CAUSE = true ∧ t.boot.coreUp = false) ∧
      (e = .coreOut → t.boot.shutdown = true ∧ t.rd .BLAY_STAT_SUPPLY = 3 ∧ t.boot.coreUp = false) ∧
      (e = .ioFall171 → s.belay.io ≤ 2 → t.rd .BLAY_STAT_SUPPLY = 2 ∧ t.boot.shutdown = false) ∧
      (e = .ioFall175 → s.belay.io = 0 → s.on .BLAY_STAT_PWR_WARN = false → t.rd .BLAY_STAT_SUPPLY = 1) ∧
      (e = .ioRise177 → s.on .BLAY_STAT_PWR_WARN = false → t.rd .BLAY_STAT_SUPPLY = 0)) ∧
  (∀ (s : State) (low : Bool), s.boot.shutdown = false → ∃ t, exec (.pwrWarn low) s = .next t ∧
      s.only (eventTouch.append [.reg .MRLN_NV_EVT, .reg .MRLN_NV_ST, .reg .BLAY_EVT, .reg .BLAY_STAT]) eventParts t ∧
      t.on .BLAY_STAT_PWR_WARN = low ∧
      (low = true → s.on .BLAY_SUP_CFG_PWR_WARN_EN = true → t.rd .BLAY_STAT_SUPPLY = 2) ∧
      (low = false → t.rd .BLAY_STAT_SUPPLY = min 2 s.belay.io)) ∧
  (∀ (s : State) (flight : List (Block × Bool)), s.alive 6 = true → s.junction < 8 * (s.rd .BLAY_BUD_CFG_TJ_TRIP : Int) →
      ∃ t, exec (.tjSample flight) s = .next t ∧
      t.rd .BLAY_STAT_TJ = unsigned 8 (clip (-128) 127 (s.junction / 8)) ∧
      t.on .BLAY_STAT_DERATE = decide (8 * (s.rd .BLAY_BUD_CFG_TJ_SOFT : Int) ≤ s.junction) ∧ t.belay.trip = false)

/-- A watchdog expiry on a core that runs a job resets it and restarts the job's service, whose jobs are discarded; on the supervisor's core it forms a recovery triple: every service stops, the first three cores are in the triple, the others idle. A data error aborts the access and restarts the job's service; a fetch error forms a recovery triple. The voter excludes the first core that disagrees; a further disagreement restarts the session, after three restarts with TRIPLE_FAIL. Recovery and the other sessions end with the split. A free core takes the oldest ready class A job first, and a job of a class without grant waits; a yield and the end of a slice return the job to the tail of its class and charge the class. A window renews Belay's grants. -/
def Obligations.CoresServicesAndTriple : Prop :=
  (∀ (s : State) (k : Core), s.alive 2 = true → s.rd .MRLN_CORE_ST_CSTATE k = 2 → ∃ t, exec (.watchdogExpiry k) s = .next t ∧
      s.only (eventTouch.append [.reg .MRLN_EVT, .reg .MRLN_NV_EVT, .reg .MRLN_TRIPLE_ST, .reg .MRLN_CORE_ST, .reg .MRLN_ROLE_ST,
          .reg .MRLN_NV_ST, .reg .MRLN_END_ST, .reg .MRLN_END_HEAD, .reg .MRLN_END_INT,
              .reg .MRLN_END_RXD]) (eventParts.append [.latches, .sessLeft, .journal, .marline]) t ∧ t.on .MRLN_EVT_WATCHDOG = true ∧
      ((s.svc 0).core ≠ k.val → (s.svc (s.rd .MRLN_CORE_ST_SVC k)).recent.length < 2 →
        t.rd .MRLN_CORE_ST_CSTATE k = 3 ∧ t.on .MRLN_EVT_SVC_RESTART = true ∧ (t.svc (s.rd .MRLN_CORE_ST_SVC k)).state = 1 ∧
        (t.svc (s.rd .MRLN_CORE_ST_SVC k)).restarts = ((s.svc (s.rd .MRLN_CORE_ST_SVC k)).restarts + 1) % 65536 ∧
        t.marline.ready = s.marline.ready.filter fun j => j.1 != s.rd .MRLN_CORE_ST_SVC k) ∧
      ((s.svc 0).core = k.val → s.on .MRLN_TRIPLE_ST_ACTIVE = false → t.on .MRLN_TRIPLE_ST_ACTIVE = true ∧
        t.rd .MRLN_TRIPLE_ST_CAUSE = 2 ∧ t.marline.ready = [] ∧
        ∀ j : Core, t.rd .MRLN_CORE_ST_CSTATE j = (if j.val < 3 then 1 else 3) ∧ (t.svc j.val).state = 0)) ∧
  (∀ (s : State) (k : Core) (addr : Nat), s.alive 2 = true → s.rd .MRLN_CORE_ST_CSTATE k ≠ 0 →
      (∃ t, exec (.dataAbort k addr false) s = .next t ∧ s.only (eventTouch.append [.reg .MRLN_EVT, .reg .MRLN_NV_EVT,
          .reg .MRLN_TRIPLE_ST, .reg .MRLN_CORE_ST, .reg .MRLN_ROLE_ST, .reg .MRLN_NV_ST, .reg .MRLN_END_ST, .reg .MRLN_END_HEAD,
              .reg .MRLN_END_INT, .reg .MRLN_END_RXD]) (eventParts.append [.latches, .sessLeft, .journal, .marline]) t ∧
              t.on .MRLN_EVT_DATA_ERR = true ∧
        .dataAbort k.val addr ∈ t.out ∧ (s.rd .MRLN_CORE_ST_CSTATE k = 2 → t.on .MRLN_EVT_SVC_RESTART = true)) ∧
      ∃ t, exec (.dataAbort k addr true) s = .next t ∧ s.only (eventTouch.append [.reg .MRLN_EVT, .reg .MRLN_NV_EVT,
          .reg .MRLN_TRIPLE_ST, .reg .MRLN_CORE_ST, .reg .MRLN_ROLE_ST, .reg .MRLN_NV_ST, .reg .MRLN_END_ST, .reg .MRLN_END_HEAD,
              .reg .MRLN_END_INT, .reg .MRLN_END_RXD]) (eventParts.append [.latches, .sessLeft, .journal, .marline]) t ∧
        (s.on .MRLN_TRIPLE_ST_ACTIVE = false → t.on .MRLN_TRIPLE_ST_ACTIVE = true ∧ t.rd .MRLN_TRIPLE_ST_CAUSE = 3 ∧
          t.marline.recoveryReload = true ∧ t.on .MRLN_EVT_RECOVERY = true)) ∧
  (∀ (s : State) (k : Option (Fin 3)), s.alive 2 = true → s.on .MRLN_TRIPLE_ST_ACTIVE = true →
      ∃ t, exec (.voterDisagree k) s = .next t ∧ s.only (eventTouch.append [.reg .TOP_EVT, .reg .TOP_BOOT_ST, .reg .TOP_FAULT,
          .reg .MRLN_EVT, .reg .MRLN_NV_EVT, .reg .MRLN_TRIPLE_ST, .reg .MRLN_ROLE_ST, .reg .MRLN_NV_ST, .reg .MRLN_END_ST,
              .reg .MRLN_END_HEAD, .reg .MRLN_END_INT, .reg .MRLN_END_RXD]) (eventParts.append [.latches, .sessLeft, .journal,
              .marline, .boot]) t ∧
      (∀ c : Fin 3, k = some c → s.rd .MRLN_TRIPLE_ST_OUTVOTED = 0 →
        t.rd .MRLN_TRIPLE_ST_OUTVOTED = 2 ^ c.val ∧ t.on .MRLN_EVT_OUTVOTED = true ∧ t.on .MRLN_TRIPLE_ST_ACTIVE = true) ∧
      (k = none → s.rd .MRLN_TRIPLE_ST_RESTARTS < 3 → t.rd .MRLN_TRIPLE_ST_RESTARTS = s.rd .MRLN_TRIPLE_ST_RESTARTS + 1 ∧
        t.rd .MRLN_TRIPLE_ST_OUTVOTED = 0) ∧
      (k = none → s.rd .MRLN_TRIPLE_ST_RESTARTS = 3 → t.on .MRLN_TRIPLE_ST_TRIPLE_FAIL = true ∧ t.on .MRLN_TRIPLE_ST_ACTIVE = false ∧
        (s.rd .MRLN_TRIPLE_ST_CAUSE = 0 → t.on .TOP_BOOT_ST_FAIL = true) ∧
        (s.rd .MRLN_TRIPLE_ST_CAUSE ≠ 0 → t.on .TOP_FAULT_SVC_DOWN = true ∧ t.on .TOP_FAULT_ESC_PEND = true))) ∧
  (∀ s : State, s.alive 2 = true → s.on .MRLN_TRIPLE_ST_ACTIVE = true →
      (2 ≤ s.rd .MRLN_TRIPLE_ST_CAUSE → ∃ t, exec .recoveryDone s = .next t ∧ s.only [.reg .TOP_FAULT, .reg .MRLN_TRIPLE_ST,
          .reg .MRLN_CORE_ST] [.inflight, .marline] t ∧
        t.on .MRLN_TRIPLE_ST_ACTIVE = false ∧ (s.rd .MRLN_TRIPLE_ST_CAUSE = 5 → t.on .TOP_FAULT_SVC_DOWN = false) ∧
        t.marline.restartCmds = [] ∧
        (∀ e ∈ s.marline.restartCmds, ∀ c, s.cmd e.1 = some c → c.started = true → c.done = false → t.ended e.1 0) ∧
        ∀ k : Core, (t.svc k.val).state = 1 ∧
          t.rd .MRLN_CORE_ST_CSTATE k = (if (s.rd .MRLN_TRIPLE_ST_OUTVOTED).testBit k.val then 4 else 3)) ∧
      (s.rd .MRLN_TRIPLE_ST_CAUSE < 2 → ∃ t, exec .tripleSplit s = .next t ∧ s.only [.reg .MRLN_TRIPLE_ST,
          .reg .MRLN_CORE_ST] [.marline] t ∧
        t.on .MRLN_TRIPLE_ST_ACTIVE = false ∧
        ∀ k : Core, (t.svc k.val).state = 1 ∧
          t.rd .MRLN_CORE_ST_CSTATE k = (if (s.rd .MRLN_TRIPLE_ST_OUTVOTED).testBit k.val then 4 else 3) ∧
          ((s.rd .MRLN_TRIPLE_ST_OUTVOTED).testBit k.val = false → (t.svc k.val).core = k.val))) ∧
  (∀ (s : State) (k : Core) (arrived : List Service) (ready : List (Nat × Bool)), s.alive 2 = true → s.rd .MRLN_CORE_ST_CSTATE k = 3 →
      s.on .MRLN_TRIPLE_ST_ACTIVE = false → ready = s.marline.ready ++ arrived.map (fun v => (v.val, false)) →
      ∃ t, exec (.jobDispatch k arrived) s = .next t ∧ s.only (eventTouch.append [.reg .MRLN_EVT, .reg .MRLN_TRIPLE_ST,
          .reg .MRLN_CORE_ST]) (eventParts.append [.marline]) t ∧
      (∀ j : Nat × Bool, j.1 < 8 → (ready.find? fun x => jobClass x.1 == 0) = some j →
        t.rd .MRLN_CORE_ST_CSTATE k = 2 ∧ t.rd .MRLN_CORE_ST_SVC k = j.1 ∧ t.marline.ready.length + 1 = ready.length) ∧
      ((∀ x ∈ ready, jobClass x.1 ≠ 0 ∧ s.marline.grantLeft.get 0 (jobClass x.1) = 0) →
        t.rd .MRLN_CORE_ST_CSTATE k = 3 ∧ t.marline.ready.map Prod.fst = ready.map Prod.fst)) ∧
  (∀ (s : State) (k : Core) (us v : Nat), s.alive 2 = true → s.rd .MRLN_CORE_ST_CSTATE k = 2 → v = s.rd .MRLN_CORE_ST_SVC k →
      (∃ t, exec (.jobYield k us) s = .next t ∧ s.only [.reg .MRLN_CORE_ST] [.marline] t ∧ t.rd .MRLN_CORE_ST_CSTATE k = 3 ∧
        t.marline.ready = s.marline.ready ++ [(v, false)] ∧
        (jobClass v ≠ 0 → t.marline.grantLeft.get 0 (jobClass v) = s.marline.grantLeft.get 0 (jobClass v) - us)) ∧
      ∃ t, exec (.sliceExpiry k) s = .next t ∧ s.only [.reg .MRLN_CORE_ST] [.marline] t ∧ t.rd .MRLN_CORE_ST_CSTATE k = 3 ∧
        t.marline.ready = s.marline.ready ++ [(v, false)] ∧
        (jobClass v ≠ 0 → t.marline.grantLeft.get 0 (jobClass v) =
          s.marline.grantLeft.get 0 (jobClass v) - s.rd .MRLN_SCHED_CFG_SLICE_US)) ∧
  (∀ s : State, s.alive 2 = true → ∃ t, exec .coreGrantWindow s = .next t ∧ s.only [] [.marline] t ∧
      t.marline.grantLeft.get 0 1 = 100 * s.rd .BLAY_CORE_CFG_CORE_B ∧ t.marline.grantLeft.get 0 2 = 100 * s.rd .BLAY_CORE_CFG_CORE_C ∧
      t.marline.grantLeft.get 0 3 = (if s.belay.background then 100 * s.rd .BLAY_CORE_CFG_CORE_D else 0) ∧
      t.marline.ready = s.marline.ready.map fun j => (j.1, false))

/-- A post at an enabled channel by the requester bound to the end appends the payload with a check word over its stamp and payload, if the queue has room for it, and POST_RES says OK, FULL or PARAM; a requester that is not bound to the end changes no queue and is reported. A pop removes the head message of the other end's queue, and does nothing to an empty one. SVC_STATUS answers the service's state, core and restarts; SVC_RESTART restarts a service, or forms a recovery triple for all of them, after which it completes; GCC_SEND queues a packet for the line's next multiframe, and its command stays open until it is sent. Tables 15.3, 15.6a and 15.13 give the fields. -/
def Obligations.MailboxesAndServiceCommands : Prop :=
  (∀ (s : State) (k : Core) (m : Chan) (e : ChanEnd) (len : BitVec 5) (w : Nat), s.alive 2 = true → w = 2 * m.val + e.val →
      s.endCode (.core k) = some (s.endBound w) → s.on .MRLN_MB_CFG_EN m = true →
      ∃ t, exec (.mbPost (.core k) m e len) s = .next t ∧ s.only (eventTouch.append [.reg .MRLN_EVT, .reg .MRLN_NV_EVT,
          .reg .MRLN_NV_ST, .reg .MRLN_END_ST, .reg .MRLN_END_HEAD, .reg .MRLN_END_INT,
              .reg .MRLN_END_RXD]) (eventParts.append [.latches, .journal, .marline]) t ∧
      (0 < len.toNat → len.toNat ≤ 16 → mbWords (s.mbQueue w) + len.toNat ≤ 16 → t.rd .MRLN_END_ST_POST_RES w = 0 ∧
        t.rd .MRLN_END_ST_OUT_SEQ w = (s.rd .MRLN_END_ST_OUT_SEQ w + 1) % 2 ^ 16 ∧
        ∃ x, t.mbQueue w = s.mbQueue w ++ [x] ∧ x.words = (List.range len.toNat).map (fun k => s.reg .MRLN_END_TXD w k) ∧
          x.check = mbCheck x.stamp x.words) ∧
      (0 < len.toNat → len.toNat ≤ 16 → 16 < mbWords (s.mbQueue w) + len.toNat →
        t.rd .MRLN_END_ST_POST_RES w = 1 ∧ t.mbQueue w = s.mbQueue w) ∧
      ((len.toNat = 0 ∨ 16 < len.toNat) → t.rd .MRLN_END_ST_POST_RES w = 2 ∧ t.mbQueue w = s.mbQueue w)) ∧
  (∀ (s : State) (p : BitVec 20) (m : Chan) (e : ChanEnd) (len : BitVec 5) (w : Nat), s.alive 2 = true → w = 2 * m.val + e.val →
      ∃ t, exec (.mbPost (.host p) m e len) s = .next t ∧ s.only (eventTouch.append [.reg .MRLN_EVT, .reg .MRLN_NV_EVT,
          .reg .MRLN_NV_ST, .reg .MRLN_END_ST, .reg .MRLN_END_HEAD, .reg .MRLN_END_INT,
              .reg .MRLN_END_RXD]) (eventParts.append [.latches, .journal, .marline]) t ∧
      (s.endBound w ≠ 0 → t.marline.queues = s.marline.queues ∧ t.on .MRLN_EVT_WRONG_END = true) ∧
      (s.endBound w = 0 → s.roleIn (.host p) (s.rd .MRLN_MB_CFG_MB_DOM m) = 0 → t.marline.queues = s.marline.queues)) ∧
  (∀ (s : State) (k : Core) (m : Chan) (e : ChanEnd) (w : Nat), s.alive 2 = true → w = 2 * m.val + e.val →
      s.endCode (.core k) = some (s.endBound w) → ∃ t, exec (.mbPop (.core k) m e) s = .next t ∧
          s.only (eventTouch.append [.reg .MRLN_EVT, .reg .MRLN_NV_EVT, .reg .MRLN_NV_ST, .reg .MRLN_END_ST, .reg .MRLN_END_HEAD,
              .reg .MRLN_END_INT, .reg .MRLN_END_RXD]) (eventParts.append [.latches, .journal, .marline]) t ∧
      t.mbQueue (otherEnd w) = (s.mbQueue (otherEnd w)).tail ∧
      (∀ x, s.mbQueue (otherEnd w) = [x] → s.endBound (otherEnd w) = 0 → bit (t.reg .MRLN_END_INT (otherEnd w)) 1 = true)) ∧
  (∀ (s : State) (h : Nat) (c : Cmd), s.ready 2 0x0501 h c → s.recovering = false → c.par 16 1 ≤ 7 →
      ∃ t, exec (.svcStatus h) s = .next t ∧ s.only (eventTouch.append [.reg .MRLN_NV_EVT,
          .reg .MRLN_NV_ST]) (eventParts.append [.inflight, .journal]) t ∧ t.ended h 0 ∧
      ∀ d, t.cmd h = some d → d.result = leBytes 1 (s.svc (c.par 16 1)).state ++ leBytes 1 (s.svc (c.par 16 1)).core ++
        leBytes 2 (s.svc (c.par 16 1)).restarts) ∧
  (∀ (s : State) (h : Nat) (c : Cmd), s.ready 2 0x0502 h c → s.recovering = false →
      ∃ t, exec (.svcRestart h) s = .next t ∧ s.only (eventTouch.append [.reg .MRLN_EVT, .reg .MRLN_NV_EVT, .reg .MRLN_TRIPLE_ST,
          .reg .MRLN_CORE_ST, .reg .MRLN_ROLE_ST, .reg .MRLN_NV_ST, .reg .MRLN_END_ST, .reg .MRLN_END_HEAD, .reg .MRLN_END_INT,
              .reg .MRLN_END_RXD]) (eventParts.append [.latches, .inflight, .sessLeft, .journal, .marline]) t ∧
      (c.par 16 1 ≤ 7 → t.on .MRLN_EVT_SVC_RESTART = true ∧
        ((s.svc (c.par 16 1)).recent.length < 2 → t.ended h 0 ∧ (t.svc (c.par 16 1)).state = 1) ∧
        (2 ≤ (s.svc (c.par 16 1)).recent.length → s.on .MRLN_TRIPLE_ST_ACTIVE = false → t.rd .MRLN_TRIPLE_ST_CAUSE = 4 ∧
          t.marline.restartCmds = s.marline.restartCmds ++ [(h, c.par 16 1)])) ∧
      (c.par 16 1 = 255 → s.on .MRLN_TRIPLE_ST_ACTIVE = false → t.on .MRLN_TRIPLE_ST_ACTIVE = true ∧ t.rd .MRLN_TRIPLE_ST_CAUSE = 5 ∧
        t.marline.restartCmds = s.marline.restartCmds ++ [(h, 0)]) ∧
      (7 < c.par 16 1 → c.par 16 1 ≠ 255 → t.ended h 5)) ∧
  (∀ (s : State) (h : Nat) (c : Cmd), s.ready 2 0x0503 h c → s.recovering = false → 128 ≤ c.par 16 1 → c.ind ≠ [] → c.ind.length ≤ 1016 →
      ∃ t d, exec (.gccSend h) s = .next t ∧ s.only (eventTouch.append [.reg .MRLN_NV_EVT,
          .reg .MRLN_NV_ST]) (eventParts.append [.inflight, .journal, .marline]) t ∧ t.cmd h = some d ∧ d.started = true ∧
              d.done = false ∧
      t.marline.gccOut.get [] (c.unit % 4) = s.marline.gccOut.get [] (c.unit % 4) ++
        [(withCrc (leBytes 1 (c.par 16 1) ++ [0] ++ leBytes 2 c.ind.length ++ c.ind), some h)])

/-- ROLE_CHALLENGE draws a challenge of 32 bytes for its requester and answers it with the serial number. ROLE_RESPONSE spends the challenge; one that passes the checks of R416 is granted: a slot shows the session with its role, domains and source; a failed one ends with NO_RIGHTS and the check as its reason and counts, the fifth in a row locks the requester out. ROLE_DROP removes the domains named from the requester's sessions; ROLE_STATUS shows one of them. The authentication window serves JTAG alone: NEW shows a challenge, SUBMIT judges for Maker in every domain. LOCK_S after a lockout the count starts anew; a session that expires is cleared, reported and journaled. -/
def Obligations.RolesGrantedAndEnded : Prop :=
  (∀ (s : State) (h : Nat) (c : Cmd), s.ready 2 0x0401 h c → ∃ t ch, exec (.roleChallenge h) s = .next t ∧
      s.only (eventTouch.append [.reg .MRLN_NV_EVT, .reg .MRLN_NV_ST]) (eventParts.append [.inflight, .auth, .journal]) t ∧
      t.ended h 0 ∧ ch.length = 32 ∧ (t.authOf (s.stampOf c.req)).challenge = ch ∧ (t.authOf (s.stampOf c.req)).spent = false ∧
      (t.authOf (s.stampOf c.req)).age = 0 ∧ ∀ d, t.cmd h = some d → d.buffer = ch ++ leBytes 8 s.nv.serial) ∧
  (∀ (s : State) (h : Nat) (c : Cmd) (req : Requester) (r : Nat), s.ready 2 0x0402 h c → s.journalBlocked = false →
      req = s.stampOf c.req →
      c.ind.length = 100 → 1 ≤ byteAt c.ind 0 → byteAt c.ind 0 ≤ 3 → (s.authOf req).locked = false →
      r = s.judgeResponse req (byteAt c.ind 0) (byteAt c.ind 1) (leAt c.ind 2 2) (c.ind.drop 4) →
      ∃ t, exec (.roleResponse h) s = .next t ∧ s.only (eventTouch.append [.reg .MRLN_NV_EVT, .reg .MRLN_ROLE_ST,
          .reg .MRLN_NV_ST]) (eventParts.append [.inflight, .auth, .sessLeft, .journal]) t ∧ (t.authOf req).spent = true ∧
      (r ≠ 0 → t.ended h 4 ∧ (∀ d, t.cmd h = some d → d.reason = r) ∧
        ((s.authOf req).fails < 4 → (t.authOf req).fails = (s.authOf req).fails + 1 ∧ (t.authOf req).locked = false) ∧
        (4 ≤ (s.authOf req).fails → (t.authOf req).locked = true ∧ t.on .MRLN_NV_EVT_LOCKOUT = true)) ∧
      (r = 0 → (∃ k : Slot, s.on .MRLN_ROLE_ST_VALID k = false) → t.ended h 0 ∧ (t.authOf req).fails = 0 ∧
        ∃ k : Slot, t.on .MRLN_ROLE_ST_VALID k = true ∧ t.rd .MRLN_ROLE_ST_ROLE k = byteAt c.ind 0 ∧
          t.rd .MRLN_ROLE_ST_DOM_MASK k = leAt c.ind 2 2 ∧ t.rd .MRLN_ROLE_ST_SRC k = srcOf req ∧
              t.rd .MRLN_ROLE_ST_PASID k = pasidOf req)) ∧
  (∀ (s : State) (h : Nat) (c : Cmd), s.ready 2 0x0403 h c → s.journalBlocked = false →
      ∃ t, exec (.roleDrop h) s = .next t ∧ s.only (eventTouch.append [.reg .MRLN_NV_EVT, .reg .MRLN_ROLE_ST,
          .reg .MRLN_NV_ST]) (eventParts.append [.inflight, .sessLeft, .journal]) t ∧ t.ended h 0 ∧
      ∀ k : Slot, (k.val ∉ s.sessionsOf (s.stampOf c.req) ∨ s.rd .MRLN_ROLE_ST_DOM_MASK k &&& c.par 16 2 = 0 →
          t.reg .MRLN_ROLE_ST k = s.reg .MRLN_ROLE_ST k) ∧
        (k.val ∈ s.sessionsOf (s.stampOf c.req) → s.rd .MRLN_ROLE_ST_DOM_MASK k &&& c.par 16 2 ≠ 0 →
          s.rd .MRLN_ROLE_ST_DOM_MASK k &&& c.par 16 2 ≠ s.rd .MRLN_ROLE_ST_DOM_MASK k →
          t.rd .MRLN_ROLE_ST_DOM_MASK k = s.rd .MRLN_ROLE_ST_DOM_MASK k - (s.rd .MRLN_ROLE_ST_DOM_MASK k &&& c.par 16 2)) ∧
        (k.val ∈ s.sessionsOf (s.stampOf c.req) → s.rd .MRLN_ROLE_ST_DOM_MASK k &&& c.par 16 2 ≠ 0 →
          s.rd .MRLN_ROLE_ST_DOM_MASK k &&& c.par 16 2 = s.rd .MRLN_ROLE_ST_DOM_MASK k → t.on .MRLN_ROLE_ST_VALID k = false)) ∧
  (∀ (s : State) (h : Nat) (c : Cmd), s.ready 2 0x0404 h c → ∃ t, exec (.roleStatus h) s = .next t ∧
      s.only (eventTouch.append [.reg .MRLN_NV_EVT, .reg .MRLN_NV_ST]) (eventParts.append [.inflight, .journal]) t ∧ t.ended h 0 ∧
      ∀ d, t.cmd h = some d →
          d.result = leBytes 8 (((s.sessionsOf (s.stampOf c.req))[c.par 16 1]?.map fun k => s.reg .MRLN_ROLE_ST k).getD 0) ++
        leBytes 1 (s.sessionsOf (s.stampOf c.req)).length) ∧
  (∀ (s : State) (req : Requester) (entry : BitVec 6), s.alive 2 = true → req ≠ .i3c →
      ∃ t, exec (.authNew req entry) s = .next t ∧ s.only (eventTouch.append [.reg .MRLN_NV_EVT, .reg .MRLN_ROLE_ST, .reg .MRLN_NV_ST,
          .reg .MRLN_AUTH_CHAL, .reg .MRLN_AUTH_CTL]) (eventParts.append [.latches, .auth, .sessLeft, .journal]) t ∧
      (req = .jtag → (t.authOf .jtag).spent = false ∧ (t.authOf .jtag).challenge.length = 32 ∧ t.rd .MRLN_AUTH_CTL_RESULT = 0 ∧
        t.rd .MRLN_AUTH_CTL_ENTRY = entry.toNat ∧
        ∀ w : Fin 4, t.reg .MRLN_AUTH_CHAL w = leAt (t.authOf .jtag).challenge (8 * w.val) 8) ∧
      (req ≠ .jtag → t.auth = s.auth ∧ t.on .MRLN_NV_EVT_DENIED = true)) ∧
  (∀ (s : State) (entry : BitVec 6) (r : Nat), s.alive 2 = true → r = s.judgeResponse .jtag 3 entry.toNat 0xFFFF s.authSig →
      ∃ t, exec (.authSubmit .jtag entry) s = .next t ∧ s.only (eventTouch.append [.reg .MRLN_NV_EVT, .reg .MRLN_ROLE_ST,
          .reg .MRLN_NV_ST, .reg .MRLN_AUTH_CHAL, .reg .MRLN_AUTH_CTL]) (eventParts.append [.latches, .auth, .sessLeft, .journal]) t ∧
      (s.journalBlocked = true → t.rd .MRLN_AUTH_CTL_RESULT = 2 ∧ t.auth = s.auth) ∧
      (s.journalBlocked = false → (s.authOf .jtag).locked = true → t.rd .MRLN_AUTH_CTL_RESULT = 3 ∧ t.auth = s.auth) ∧
      (s.journalBlocked = false → (s.authOf .jtag).locked = false → r ≠ 0 → t.rd .MRLN_AUTH_CTL_RESULT = 2 ∧
        (t.authOf .jtag).spent = true) ∧
      (s.journalBlocked = false → (s.authOf .jtag).locked = false → r = 0 → (∃ k : Slot, s.on .MRLN_ROLE_ST_VALID k = false) →
        t.rd .MRLN_AUTH_CTL_RESULT = 1 ∧ ∃ k : Slot, t.on .MRLN_ROLE_ST_VALID k = true ∧ t.rd .MRLN_ROLE_ST_ROLE k = 3 ∧
          t.rd .MRLN_ROLE_ST_DOM_MASK k = 0xFFFF ∧ t.rd .MRLN_ROLE_ST_SRC k = 10)) ∧
  (∀ (s : State) (req : Requester), s.alive 2 = true → (s.authOf req).locked = true →
      ∃ t, exec (.lockoutExpiry req) s = .next t ∧ s.only [] [.auth] t ∧ (t.authOf req).locked = false ∧ (t.authOf req).fails = 0) ∧
  (∀ (s : State) (k : Slot), s.alive 2 = true → s.on .MRLN_ROLE_ST_VALID k = true → s.journal.buffer.length < 1024 →
      ∃ t, exec (.sessionExpiry k) s = .next t ∧ s.only (eventTouch.append [.reg .MRLN_NV_EVT, .reg .MRLN_ROLE_ST,
          .reg .MRLN_NV_ST]) (eventParts.append [.sessLeft, .journal]) t ∧ t.on .MRLN_ROLE_ST_VALID k = false ∧
      t.on .MRLN_NV_EVT_SESSION = true ∧ t.journal.buffer.length = s.journal.buffer.length + 1 ∧
      ∀ j : Slot, j ≠ k → t.reg .MRLN_ROLE_ST j = s.reg .MRLN_ROLE_ST j)

/-- AUDIT_READ needs a running stream ring and answers the last SEQ it wrote; AUDIT_ACK raises EXP_SEQ and refuses a lower one. NV_WRITE adds bytes to the inactive half or copy, NV_COMMIT makes it the active one, or for an image copy judges it; KEK blobs are opened first. OTP_WRITE sets the Maker hash once, one more bit of ROLLBACK, or the next LIFECYCLE. Under NV-Inhibit a write ends with STATE and changes nothing. NV_STATUS answers MRLN_NV_ST. A page takes the oldest three records of the buffer with their commit record, and a drain empties the buffer, unless NV-Inhibit holds. -/
def Obligations.JournalFlashAndOtp : Prop :=
  (∀ (s : State) (h : Nat) (c : Cmd), s.ready 2 0x0405 h c → ∃ t, exec (.auditRead h) s = .next t ∧
      s.only (eventTouch.append [.reg .MRLN_NV_EVT, .reg .MRLN_NV_ST]) (eventParts.append [.inflight, .journal]) t ∧
      (s.rd .BCKT_RING_CFG_TYPE (c.par 26 2) ≠ 3 → t.ended h 5) ∧
      (s.rd .BCKT_RING_CFG_TYPE (c.par 26 2) = 3 → s.ringRuns (c.par 26 2) 3 = false → t.ended h 6) ∧
      (s.ringRuns (c.par 26 2) 3 = true → t.ended h 0 ∧ (s.on .BCKT_RING_CFG_STRM_WRAP (c.par 26 2) = true → ∀ d, t.cmd h = some d →
        d.result = leBytes 8 (((s.records.filter fun r => decide (c.par 16 8 ≤ r.seq) && decide (r.seq < c.par 16 8 + c.par 24
            2)).getLast?.map
          fun r => r.seq).getD 0)))) ∧
  (∀ (s : State) (h : Nat) (c : Cmd), s.ready 2 0x0406 h c → s.journal.buffer.length < 1024 →
      ∃ t, exec (.auditAck h) s = .next t ∧ s.only (eventTouch.append [.reg .MRLN_NV_EVT, .reg .MRLN_NV_ST,
          .reg .MRLN_JRN_EXP]) (eventParts.append [.inflight, .journal]) t ∧
      (s.reg .MRLN_JRN_EXP ≤ c.par 16 8 → t.ended h 0 ∧ t.reg .MRLN_JRN_EXP = c.par 16 8) ∧
      (c.par 16 8 < s.reg .MRLN_JRN_EXP → t.ended h 5 ∧ t.reg .MRLN_JRN_EXP = s.reg .MRLN_JRN_EXP)) ∧
  (∀ (s : State) (h : Nat) (c : Cmd), s.ready 2 0x0407 h c → s.journalBlocked = false →
      ∃ t, exec (.nvWrite h) s = .next t ∧ s.only (eventTouch.append [.reg .MRLN_NV_EVT,
          .reg .MRLN_NV_ST]) (eventParts.append [.inflight, .nv, .journal]) t ∧
      (s.on .MRLN_NV_ST_NV_INHIBIT = true → t.ended h 6 ∧ t.nv = s.nv) ∧
      (s.on .MRLN_NV_ST_NV_INHIBIT = false → c.ind ≠ [] → c.par 16 1 = 5 → c.par 17 1 ≤ 15 → c.par 20 4 + c.ind.length ≤ 88 →
        t.ended h 0 ∧ t.area 5 = { s.area 5 with staged := (88 * c.par 17 1 + c.par 20 4, c.ind) :: (s.area 5).staged }) ∧
      (s.on .MRLN_NV_ST_NV_INHIBIT = false → c.ind ≠ [] → c.par 16 1 < 5 → c.par 17 1 = 0 →
        c.par 20 4 + c.ind.length ≤ areaSize (c.par 16 1) → (∀ i : Fin 3, c.par 16 1 < 3 → i.val ≠ c.par 16 1 → s.copyState i = 0) →
        t.ended h 0 ∧ t.area (c.par 16 1) = { s.area (c.par 16 1) with staged := (c.par 20 4, c.ind) :: (s.area (c.par 16 1)).staged })) ∧
  (∀ (s : State) (h : Nat) (content : NvContent) (c : Cmd), s.ready 2 0x0408 h c → s.journalBlocked = false →
      s.on .MRLN_NV_ST_NV_INHIBIT = false → ∃ t, exec (.nvCommit h content) s = .next t ∧
          s.only (eventTouch.append [.reg .MRLN_NV_EVT, .reg .MRLN_NV_ST, .reg .SEIZ_EVT,
              .reg .SEIZ_KEK_ST]) (eventParts.append [.inflight, .nv, .journal, .keks]) t ∧
      (c.par 16 1 < 3 → t.ended h 0 ∧ t.nv.copies.get {} (c.par 16 1) = content.image ∧ c.par 16 1 ∉ t.nv.writing) ∧
      (c.par 16 1 = 3 → t.ended h 0 ∧ t.area 3 = .mk (s.area 3).active (s.area 3).staged ((s.area 3).seq + 1)) ∧
      (c.par 16 1 = 5 → s.permits c.req 2 s.kekChanges = true → (∀ k, s.openKeks (s.area 5).staged = .inr k → t.ended h 0 ∧ t.keks = k) ∧
        ∀ r, s.openKeks (s.area 5).staged = .inl r → t.ended h 7 ∧ t.nv = s.nv ∧ t.keks = s.keks ∧ t.on .SEIZ_EVT_BLOB_REFUSED = true) ∧
      (6 < c.par 16 1 → t.ended h 5 ∧ t.nv = s.nv)) ∧
  (∀ (s : State) (h : Nat) (c : Cmd), s.ready 2 0x0409 h c → s.journalBlocked = false → s.on .MRLN_NV_ST_NV_INHIBIT = false →
      ∃ t, exec (.otpWrite h) s = .next t ∧ s.only (eventTouch.append [.reg .MRLN_NV_EVT,
          .reg .MRLN_NV_ST]) (eventParts.append [.inflight, .nv, .journal]) t ∧
      (c.par 16 1 = 1 → (∀ b ∈ s.nv.makerHash, b = 0) → c.ind.length = 48 → t.ended h 0 ∧ t.nv = { s.nv with makerHash := c.ind }) ∧
      (c.par 16 1 = 2 → s.nv.rollback < 64 → t.ended h 0 ∧ t.nv = { s.nv with rollback := s.nv.rollback + 1 }) ∧
      (c.par 16 1 = 3 → s.nv.lifecycle = 0 → t.ended h 0 ∧ t.nv = { s.nv with lifecycle := 1 } ∧ t.rd .MRLN_NV_ST_LIFECYCLE = 1) ∧
      (c.par 16 1 = 3 → 1 < s.nv.lifecycle → t.ended h 5 ∧ t.nv = s.nv)) ∧
  (∀ (s : State) (h : Nat) (c : Cmd), s.ready 2 0x040A h c → ∃ t, exec (.nvStatus h) s = .next t ∧
      s.only (eventTouch.append [.reg .MRLN_NV_EVT, .reg .MRLN_NV_ST]) (eventParts.append [.inflight, .journal]) t ∧ t.ended h 0 ∧
      ∀ d, t.cmd h = some d → d.result = leBytes 8 (s.reg .MRLN_NV_ST)) ∧
  (∀ s : State, s.alive 2 = true → s.on .MRLN_NV_ST_NV_INHIBIT = false → s.journal.buffer ≠ [] → s.journal.pages.length < journalPages →
      ∃ t, exec .journalPageProgram s = .next t ∧ s.only (eventTouch.append [.reg .MRLN_NV_EVT, .reg .MRLN_NV_ST,
          .reg .MRLN_JRN_SEQ]) (eventParts.append [.journal]) t ∧ t.journal.buffer = s.journal.buffer.drop 3 ∧
      t.journal.pages = s.journal.pages ++ [s.journal.buffer.take 3 ++ [commitRecord (s.journal.buffer.take 3)]]) ∧
  (∀ s : State, s.alive 2 = true → s.on .MRLN_NV_ST_NV_INHIBIT = true → (∃ t, exec .journalPageProgram s = .next t ∧ t = s) ∧
      ∃ t, exec .journalDrain s = .next t ∧ t.journal = s.journal) ∧
  (∀ s : State, s.alive 2 = true → s.on .MRLN_NV_ST_NV_INHIBIT = false →
      s.journal.pages.length + ceilDiv s.journal.buffer.length 3 ≤ journalPages → ∃ t, exec .journalDrain s = .next t ∧
      s.only (eventTouch.append [.reg .MRLN_NV_EVT, .reg .MRLN_NV_ST, .reg .MRLN_JRN_SEQ]) (eventParts.append [.journal]) t ∧
          t.journal.buffer = [] ∧
      t.journal.pages.length = s.journal.pages.length + ceilDiv s.journal.buffer.length 3)

/-- EN = 1 takes a port that is Off to Training and EN = 0 takes any to Off. The link at L0 leads to Enumerating with its width, speed and flit mode; an enumeration that completes with at least 16 MiB leads to Up with CAP in units of 16 MiB, capped at 32768, and a smaller capacity or a failing step to Fault with its cause. A Fault retries in Training. A link that leaves L0 returns to Training, and from Up no region that uses the port stays available. Table 14.1 gives the states. -/
def Obligations.MemoryPorts : Prop :=
  (∀ (s : State) (req : Requester) (p : MemPort), s.mayWrite req 1 2 0 →
      (∃ t, exec (.memPortEnable req p) s = .next t ∧ s.only (eventTouch.append [.reg .BCKT_MEM_CFG, .reg .BCKT_MEM_STAT,
          .reg .BCKT_MEM_EVT, .reg .BCKT_EVT, .reg .BCKT_REGION, .reg .MRLN_NV_EVT, .reg .MRLN_NV_ST, .reg .BEND_EVT,
              .reg .BEND_PG_STAT, .reg .BEND_PATH_ST, .reg .BEND_PG_CNT, .reg .SHET_CLI_STAT, .reg .SHET_CLI_EVT,
              .reg .SHET_CNT]) (eventParts.append [.latches, .inflight, .journal, .clients, .groups, .lanyard, .tally]) t ∧
              t.on .BCKT_MEM_CFG_EN p = true ∧
        (s.memPort p = 0 → t.memPort p = 1) ∧ (s.memPort p ≠ 0 → t.memPort p = s.memPort p)) ∧
      ∃ t, exec (.memPortDisable req p) s = .next t ∧ s.only (eventTouch.append [.reg .BCKT_MEM_CFG, .reg .BCKT_MEM_STAT,
          .reg .BCKT_MEM_EVT, .reg .BCKT_EVT, .reg .BCKT_REGION, .reg .MRLN_NV_EVT, .reg .MRLN_NV_ST, .reg .BEND_EVT,
              .reg .BEND_PG_STAT, .reg .BEND_PATH_ST, .reg .BEND_PG_CNT, .reg .SHET_CLI_STAT, .reg .SHET_CLI_EVT,
              .reg .SHET_CNT]) (eventParts.append [.latches, .inflight, .journal, .clients, .groups, .lanyard, .tally]) t ∧
              t.on .BCKT_MEM_CFG_EN p = false ∧
        t.memPort p = 0) ∧
  (∀ (s : State) (p : MemPort) (width : Fin 32) (speed : Fin 8) (flit : Bool), s.alive 1 = true → s.memPort p = 1 →
      ∃ t, exec (.memLinkUp p width.val speed.val flit) s = .next t ∧ s.only [.reg .BCKT_MEM_STAT] [] t ∧ t.memPort p = 2 ∧
      t.rd .BCKT_MEM_STAT_WIDTH p = width.val ∧ t.rd .BCKT_MEM_STAT_SPEED p = speed.val ∧ t.on .BCKT_MEM_STAT_FLIT256 p = flit) ∧
  (∀ (s : State) (p : MemPort) (capacity : Nat), s.alive 1 = true → s.memPort p = 2 →
      ∃ t, exec (.enumerationDone p capacity) s = .next t ∧ s.only (eventTouch.append [.reg .BCKT_MEM_STAT, .reg .BCKT_MEM_EVT,
          .reg .BCKT_EVT, .reg .BCKT_REGION, .reg .BEND_EVT, .reg .BEND_PG_STAT, .reg .BEND_PATH_ST, .reg .BEND_PG_CNT,
              .reg .SHET_CLI_STAT, .reg .SHET_CLI_EVT, .reg .SHET_CNT]) (eventParts.append [.inflight, .clients, .groups, .lanyard,
              .tally]) t ∧
      (2 ^ 24 ≤ capacity → t.memPort p = 3 ∧ t.rd .BCKT_MEM_STAT_CAP p = min 32768 (capacity / 2 ^ 24) ∧
        t.rd .BCKT_MEM_STAT_FAULT_CAUSE p = 0 ∧ t.on .BCKT_MEM_EVT_PORT_UP p = true) ∧
      (capacity < 2 ^ 24 → t.memPort p = 4 ∧ t.rd .BCKT_MEM_STAT_FAULT_CAUSE p = 4 ∧ t.on .BCKT_MEM_EVT_FAULT p = true)) ∧
  (∀ (s : State) (p : MemPort) (cause : Fin 4), s.alive 1 = true → s.memPort p = 2 →
      ∃ t, exec (.enumerationFault p cause) s = .next t ∧ s.only (eventTouch.append [.reg .BCKT_MEM_STAT,
          .reg .BCKT_MEM_EVT]) eventParts t ∧ t.memPort p = 4 ∧
      t.rd .BCKT_MEM_STAT_FAULT_CAUSE p = cause.val + 1 ∧ t.on .BCKT_MEM_EVT_FAULT p = true) ∧
  (∀ (s : State) (p : MemPort), s.alive 1 = true → s.memPort p = 4 → ∃ t, exec (.memPortFaultRetry p) s = .next t ∧
      s.only (eventTouch.append [.reg .BCKT_MEM_STAT, .reg .BCKT_MEM_EVT, .reg .BCKT_EVT, .reg .BCKT_REGION, .reg .BEND_EVT,
          .reg .BEND_PG_STAT, .reg .BEND_PATH_ST, .reg .BEND_PG_CNT, .reg .SHET_CLI_STAT, .reg .SHET_CLI_EVT,
              .reg .SHET_CNT]) (eventParts.append [.inflight, .clients, .groups, .lanyard, .tally]) t ∧ t.memPort p = 1 ∧
              t.rd .BCKT_MEM_STAT_FAULT_CAUSE p = s.rd .BCKT_MEM_STAT_FAULT_CAUSE p) ∧
  (∀ (s : State) (p : MemPort), s.alive 1 = true → s.memPort p = 3 → ∃ t, exec (.memLinkDown p) s = .next t ∧
      s.only (eventTouch.append [.reg .BCKT_MEM_STAT, .reg .BCKT_MEM_EVT, .reg .BCKT_EVT, .reg .BCKT_REGION, .reg .BEND_EVT,
          .reg .BEND_PG_STAT, .reg .BEND_PATH_ST, .reg .BEND_PG_CNT, .reg .SHET_CLI_STAT, .reg .SHET_CLI_EVT,
              .reg .SHET_CNT]) (eventParts.append [.inflight, .clients, .groups, .lanyard, .tally]) t ∧
      t.memPort p = 1 ∧ t.rd .BCKT_MEM_STAT_CAP p = 0 ∧ t.on .BCKT_MEM_EVT_PORT_DOWN p = true ∧
      ∀ e : Region, s.regionUses e p = true → t.rd .BCKT_REGION_RSTATE e = 0)

/-- A region takes its configuration while it is disabled; enabling it by the rules on ports that are Up starts its fill, and a change of an enabled region's fields, an enable that breaks a rule, or the disabling of a region in use is refused. A fill that completes makes it Ready. A poisoned read of a Ready region is counted on the region and degrades it beyond POIS_MAX. Reported data loss degrades the Ready regions that overlap it, and no other. REGION_STATUS, REGION_REFILL, POISON_LIST and WHIP_STATUS answer what Table 14.6 says. -/
def Obligations.RegionsAndPoison : Prop :=
  (∀ (s : State) (req : Requester) (e : Region) (w : Fin 4) (v : BitVec 32) (old new : Nat), s.mayWrite req 1 2 0 →
      old = s.reg .BCKT_REGION e → new = rwWrite .BCKT_REGION old (setBits old (32 * w.val + 31) (32 * w.val) v.toNat) →
      ∃ t, exec (.regionCfgWrite req e w v) s = .next t ∧ s.only (eventTouch.append [.reg .BCKT_MEM_EVT, .reg .BCKT_REFUSE,
          .reg .BCKT_EVT, .reg .BCKT_REGION, .reg .MRLN_NV_EVT, .reg .MRLN_NV_ST, .reg .BEND_EVT, .reg .BEND_PG_STAT,
              .reg .BEND_PATH_ST, .reg .BEND_PG_CNT, .reg .SHET_CLI_STAT, .reg .SHET_CLI_EVT,
              .reg .SHET_CNT]) (eventParts.append [.latches, .inflight, .journal, .clients, .groups, .lanyard, .tally]) t ∧
      (bit old 0 = false → bit new 0 = false → t.reg .BCKT_REGION e = new % 2 ^ 128) ∧
      (bit old 0 = false → bit new 0 = true → (s.setReg .BCKT_REGION new e).regionBad e = true →
        t.reg .BCKT_REGION e = old ∧ t.on .BCKT_REFUSE_STICKY = true ∧ t.rd .BCKT_REFUSE_LAST_CAUSE = 7) ∧
      (bit old 0 = false → bit new 0 = true → (s.setReg .BCKT_REGION new e).regionBad e = false →
        (s.setReg .BCKT_REGION new e).regionUsable e = true → bits new 67 66 = 0 →
        t.on .BCKT_REGION_EN e = true ∧ t.rd .BCKT_REGION_RSTATE e = 1 ∧ t.rd .BCKT_REGION_FILL_LEFT e = bits new 63 48) ∧
      (bit old 0 = true → setBits new 0 0 1 ≠ old →
        t.reg .BCKT_REGION e = old ∧ t.on .BCKT_REFUSE_STICKY = true ∧ t.rd .BCKT_REFUSE_LAST_CAUSE = 1) ∧
      (bit old 0 = true → setBits new 0 0 1 = old → bit new 0 = false → s.regionUsed e = true →
        t.reg .BCKT_REGION e = old ∧ t.on .BCKT_REFUSE_STICKY = true ∧ t.rd .BCKT_REFUSE_LAST_CAUSE = 8) ∧
      (bit old 0 = true → setBits new 0 0 1 = old → bit new 0 = false → s.regionUsed e = false →
        t.on .BCKT_REGION_EN e = false ∧ t.rd .BCKT_REGION_RSTATE e = 0)) ∧
  (∀ (s : State) (e : Region), s.alive 1 = true → s.rd .BCKT_REGION_RSTATE e = 1 → ∃ t, exec (.regionFillDone e) s = .next t ∧
      s.only (eventTouch.append [.reg .BCKT_MEM_EVT, .reg .BCKT_EVT, .reg .BCKT_REGION, .reg .BEND_EVT, .reg .BEND_PG_STAT,
          .reg .BEND_PATH_ST, .reg .BEND_PG_CNT, .reg .SHET_CLI_STAT, .reg .SHET_CLI_EVT,
              .reg .SHET_CNT]) (eventParts.append [.inflight, .clients, .groups, .lanyard, .tally]) t ∧
              t.rd .BCKT_REGION_RSTATE e = 2 ∧ t.rd .BCKT_REGION_FILL_LEFT e = 0 ∧
      t.on .BCKT_MEM_EVT_REGION (s.regionPort e) = true) ∧
  (∀ (s : State) (e : Region) (off : Nat) (user : PoisonUser), s.alive 1 = true → ∃ t, exec (.poisonRead e off user) s = .next t ∧
      s.only (eventTouch.append [.reg .BCKT_MEM_EVT, .reg .BCKT_EVT, .reg .BCKT_REGION, .reg .MRLN_EVT, .reg .MRLN_NV_EVT,
          .reg .MRLN_TRIPLE_ST, .reg .MRLN_CORE_ST, .reg .MRLN_ROLE_ST, .reg .MRLN_NV_ST, .reg .MRLN_END_ST, .reg .MRLN_END_HEAD,
              .reg .MRLN_END_INT, .reg .MRLN_END_RXD, .reg .BEND_EVT, .reg .BEND_PG_STAT, .reg .BEND_PATH_ST, .reg .BEND_PG_CNT,
              .reg .SHET_CLI_STAT, .reg .SHET_CLI_EVT, .reg .SHET_CNT, .reg .LNYD_EVT, .reg .LNYD_CNT]) (eventParts.append [.latches,
              .inflight, .sessLeft, .journal, .marline, .mem, .clients, .groups, .lanyard, .tally]) t ∧
      (s.regionReady e = true → t.rd .BCKT_REGION_POIS_CNT e = min 65535 (s.rd .BCKT_REGION_POIS_CNT e + 1) ∧
        t.on .BCKT_MEM_EVT_POISON (s.regionPlace e off).1 = true ∧
        t.rd .BCKT_REGION_RSTATE e = (if s.rd .BCKT_MEM_CFG_POIS_MAX (s.regionPlace e off).1 < min 65535 (s.rd .BCKT_REGION_POIS_CNT e
            + 1)
          then 3 else 2)) ∧
      (s.regionReady e = false → t.reg .BCKT_REGION e = s.reg .BCKT_REGION e)) ∧
  (∀ (s : State) (p : MemPort) (lo hi : Nat), s.alive 1 = true → ∃ t, exec (.partnerDataLoss p lo hi) s = .next t ∧
      s.only (eventTouch.append [.reg .BCKT_MEM_EVT, .reg .BCKT_EVT, .reg .BCKT_REGION, .reg .BEND_EVT, .reg .BEND_PG_STAT,
          .reg .BEND_PATH_ST, .reg .BEND_PG_CNT, .reg .SHET_CLI_STAT, .reg .SHET_CLI_EVT,
              .reg .SHET_CNT]) (eventParts.append [.inflight, .clients, .groups, .lanyard, .tally]) t ∧ ∀ e : Region,
      (s.regionReady e = true → s.regionUses e p = true → lo < (s.rd .BCKT_REGION_BASE e + s.regionExtent e) * 2 ^ 24 →
        s.rd .BCKT_REGION_BASE e * 2 ^ 24 ≤ hi → t.rd .BCKT_REGION_RSTATE e = 3) ∧
      (s.regionUses e p = false ∨ (s.rd .BCKT_REGION_BASE e + s.regionExtent e) * 2 ^ 24 ≤ lo ∨ hi < s.rd .BCKT_REGION_BASE e * 2 ^ 24 →
        t.reg .BCKT_REGION e = s.reg .BCKT_REGION e)) ∧
  (∀ (s : State) (h : Nat) (c : Cmd) (e : Nat), s.ready 1 0x0601 h c → e = c.par 16 1 → ∃ t, exec (.regionStatus h) s = .next t ∧
      s.only (eventTouch.append [.reg .MRLN_NV_EVT, .reg .MRLN_NV_ST]) (eventParts.append [.inflight, .journal]) t ∧ t.ended h 0 ∧
          ∀ d, t.cmd h = some d → d.result = leBytes 1 (s.rd .BCKT_REGION_RSTATE e) ++
        leBytes 2 (s.rd .BCKT_REGION_FILL_LEFT e) ++ leBytes 2 (s.rd .BCKT_REGION_POIS_CNT e)) ∧
  (∀ (s : State) (h : Nat) (c : Cmd) (e : Nat), s.ready 1 0x0602 h c → e = c.par 16 1 → ∃ t, exec (.regionRefill h) s = .next t ∧
      s.only (eventTouch.append [.reg .BCKT_MEM_EVT, .reg .BCKT_EVT, .reg .BCKT_REGION, .reg .MRLN_NV_EVT, .reg .MRLN_NV_ST,
          .reg .BEND_EVT, .reg .BEND_PG_STAT, .reg .BEND_PATH_ST, .reg .BEND_PG_CNT, .reg .SHET_CLI_STAT, .reg .SHET_CLI_EVT,
              .reg .SHET_CNT]) (eventParts.append [.inflight, .journal, .clients, .groups, .lanyard, .tally]) t ∧
      (s.rd .BCKT_REGION_RSTATE e ≠ 0 → s.regionUsed e = false → t.ended h 0 ∧ t.rd .BCKT_REGION_RSTATE e = 1 ∧
        t.rd .BCKT_REGION_FILL_LEFT e = s.rd .BCKT_REGION_SIZE e) ∧
      (s.rd .BCKT_REGION_RSTATE e = 0 ∨ s.regionUsed e = true → t.ended h 6 ∧ t.reg .BCKT_REGION e = s.reg .BCKT_REGION e)) ∧
  (∀ (s : State) (h : Nat) (c : Cmd) (p : Nat), s.ready 1 0x0603 h c → p = c.par 16 1 → p ≤ 1 → ∃ t, exec (.poisonList h) s = .next t ∧
      s.only (eventTouch.append [.reg .MRLN_NV_EVT, .reg .MRLN_NV_ST]) (eventParts.append [.inflight, .journal]) t ∧ t.ended h 0 ∧
          ∀ d, t.cmd h = some d → d.result = leBytes 1 (s.mem.poison.get [] p).length ∧
        d.buffer = ((s.mem.poison.get [] p).reverse.take 7).flatMap (leBytes 8)) ∧
  (∀ (s : State) (h : Nat) (c : Cmd) (i : Nat), s.ready 1 0x0604 h c → i = c.par 16 2 → i ≤ 2047 → ∃ t, exec (.whipStatus h) s = .next t ∧
      s.only (eventTouch.append [.reg .MRLN_NV_EVT, .reg .MRLN_NV_ST]) (eventParts.append [.inflight, .journal]) t ∧ t.ended h 0 ∧
          ∀ d, t.cmd h = some d → d.buffer = leBytes 8 (s.reg .WHIP_INST i) ++
        (List.range 8).flatMap fun k => leBytes 4 (s.reg .WHIP_REMAP i k))

/-- The scrubber visits present instances while it is enabled and background work is granted; a functional read meets a word in its own right. A correction counts and notes its address; the third at one address takes the next spare. An uncorrectable word counts and is reported. An armed injection holds its instance and kind. A tick copies the selected counters and starts a dump if the ring has room, else the dump is skipped whole; a tick during a dump waits, a further one is dropped. A dump that has been written moves DUMP_SEQ on and lets the waiting tick take effect. CNT_DUMP gives a tick, CNT_STATUS answers the dump's status. A bandwidth window shows its counts, a sample of an enabled core in service is numbered. -/
def Obligations.ScrubberDumpsAndSamples : Prop :=
  (∀ (s : State) (i : MemInst) (addr : BitVec 24) (found : Found) (byRead ends : Bool), s.alive 3 = true →
      (byRead = false → s.on .WHIP_CFG_SCRUB_EN = false ∨ s.belay.background = false ∨ s.on .WHIP_INST_PRESENT i = false →
        ∃ t, exec (.scrubVisit i addr found byRead ends) s = .next t ∧ t = s) ∧
      ((byRead = true ∨ s.on .WHIP_CFG_SCRUB_EN = true ∧ s.belay.background = true) → s.on .WHIP_INST_PRESENT i = true →
        ∃ t, exec (.scrubVisit i addr found byRead ends) s = .next t ∧
        (found = .clean → t.regs = s.regs ∧ (ends = false → t = s) ∧ (ends = true → byRead = false → (t.whipInst i).tracker = [])) ∧
        (found = .corrected → ends = false →
          s.only (eventTouch.append [.reg .WHIP_EVT, .reg .WHIP_INJECT, .row .WHIP_INST i,
              .row .WHIP_REMAP i]) (eventParts.append [.whip, .nv]) t ∧
          t.rd .WHIP_INST_CORR i = min 65535 (s.rd .WHIP_INST_CORR i + 1) ∧ t.rd .WHIP_INST_LAST_ADDR i = addr.toNat ∧
          (∀ m, 2 ≤ m → (s.whipInst i).tracker.find? (fun e => e.1 == addr.toNat) = some (addr.toNat, m) →
            s.rd .WHIP_INST_SPARES_USED i < 8 → t.rd .WHIP_INST_SPARES_USED i = s.rd .WHIP_INST_SPARES_USED i + 1 ∧
            t.on .WHIP_REMAP_VALID i (s.rd .WHIP_INST_SPARES_USED i) = true ∧
            t.rd .WHIP_REMAP_ADDR i (s.rd .WHIP_INST_SPARES_USED i) = addr.toNat ∧ t.on .WHIP_EVT_REMAP = true)) ∧
        (found = .uncorrectable (.datapath none) → t.rd .WHIP_INST_UNCORR i = min 255 (s.rd .WHIP_INST_UNCORR i + 1) ∧
          t.on .WHIP_EVT_UNCORR = true ∧ t.rd .WHIP_INST_LAST_ADDR i = addr.toNat))) ∧
  (∀ (s : State) (req : Requester) (i : MemInst) (kind : BitVec 2), s.mayWrite req 3 2 0 →
      ∃ t, exec (.whipInjectArm req i kind) s = .next t ∧ s.only (eventTouch.append [.reg .MRLN_NV_EVT, .reg .MRLN_NV_ST,
          .reg .WHIP_INJECT]) (eventParts.append [.latches, .journal]) t ∧ t.on .WHIP_INJECT_ARM = true ∧
      t.rd .WHIP_INJECT_KIND = kind.toNat ∧ t.rd .WHIP_INJECT_INST = i.val) ∧
  (∀ s : State, s.alive 4 = true → s.on .FTHM_DUMP_CFG_DUMP_EN = true → s.tod % max 1 (s.rd .FTHM_DUMP_CFG_DUMP_S) = 0 →
      ∃ t, exec .dumpTick s = .next t ∧ s.only (eventTouch.append [.reg .FTHM_EVT, .reg .FTHM_DUMP_ST,
          .reg .FTHM_BW_PEAK]) (eventParts.append [.inflight, .fathom]) t ∧
      (s.fathom.dump = none → s.ringRuns (s.rd .FTHM_DUMP_CFG_DUMP_RING) 3 = true →
        s.ringFill (s.rd .FTHM_DUMP_CFG_DUMP_RING) + dumpRecords (s.rd .FTHM_DUMP_CFG_SEL) ≤ s.ringSize (s.rd .FTHM_DUMP_CFG_DUMP_RING) →
        t.on .FTHM_DUMP_ST_BUSY = true ∧ ∃ d, t.fathom.dump = some d ∧ d.seconds = s.tod ∧
          d.shadows = (dumpKeys (s.rd .FTHM_DUMP_CFG_SEL)).map fun k => (regAddr k, s.regs.get k)) ∧
      (s.fathom.dump = none → s.ringRuns (s.rd .FTHM_DUMP_CFG_DUMP_RING) 3 = false →
        t.rd .FTHM_DUMP_ST_DUMP_SKIP = min 65535 (s.rd .FTHM_DUMP_ST_DUMP_SKIP + 1) ∧ t.on .FTHM_EVT_DUMP_SKIP = true ∧
        t.rd .FTHM_DUMP_ST_DUMP_SEQ = (s.rd .FTHM_DUMP_ST_DUMP_SEQ + 1) % 2 ^ 32 ∧ t.fathom.dump = none) ∧
      (s.fathom.dump ≠ none → s.fathom.tick = none → t.fathom = { s.fathom with tick := some ⟨none⟩ } ∧
        t.on .FTHM_DUMP_ST_PENDING = true) ∧
      (s.fathom.dump ≠ none → s.fathom.tick ≠ none → t.fathom = s.fathom ∧ t.on .FTHM_EVT_DUMP_LATE = true ∧
        t.rd .FTHM_DUMP_ST_DUMP_LATE = min 4095 (s.rd .FTHM_DUMP_ST_DUMP_LATE + 1))) ∧
  (∀ (s : State) (d : Dump), s.alive 4 = true → s.fathom.dump = some d → ∃ t, exec .dumpDone s = .next t ∧
      s.only (eventTouch.append [.reg .FTHM_EVT, .reg .FTHM_DUMP_ST, .reg .FTHM_BW_PEAK]) (eventParts.append [.inflight, .fathom]) t ∧
      (s.fathom.tick = none → t.fathom.dump = none ∧ t.on .FTHM_DUMP_ST_BUSY = false ∧
        t.rd .FTHM_DUMP_ST_DUMP_SEQ = (s.rd .FTHM_DUMP_ST_DUMP_SEQ + 1) % 2 ^ 32) ∧
      (s.fathom.tick ≠ none → t.fathom.tick = none ∧ t.on .FTHM_DUMP_ST_PENDING = false)) ∧
  (∀ (s : State) (h : Nat) (c : Cmd), s.ready 4 0x0901 h c → ∃ t, exec (.cntDump h) s = .next t ∧
      s.only (eventTouch.append [.reg .MRLN_NV_EVT, .reg .MRLN_NV_ST, .reg .FTHM_EVT, .reg .FTHM_DUMP_ST,
          .reg .FTHM_BW_PEAK]) (eventParts.append [.inflight, .journal, .fathom]) t ∧
      (s.fathom.tick ≠ none → t.ended h 6 ∧ t.fathom = s.fathom) ∧
      (s.fathom.tick = none → s.fathom.dump ≠ none → t.fathom = { s.fathom with tick := some ⟨some h⟩ } ∧
        ∃ d, t.cmd h = some d ∧ d.started = true ∧ d.done = false) ∧
      (s.fathom.tick = none → s.fathom.dump = none → s.ringRuns (s.rd .FTHM_DUMP_CFG_DUMP_RING) 3 = false → t.ended h 0 ∧
        ∀ d, t.cmd h = some d → d.result = leBytes 4 (s.rd .FTHM_DUMP_ST_DUMP_SEQ))) ∧
  (∀ (s : State) (h : Nat) (c : Cmd), s.ready 4 0x0902 h c → ∃ t, exec (.cntStatus h) s = .next t ∧
      s.only (eventTouch.append [.reg .MRLN_NV_EVT, .reg .MRLN_NV_ST]) (eventParts.append [.inflight, .journal]) t ∧ t.ended h 0 ∧
      ∀ d, t.cmd h = some d → d.result = leBytes 8 (s.reg .FTHM_DUMP_ST)) ∧
  (∀ (s : State) (r0 w0 r1 w1 r2 w2 : Nat), s.alive 4 = true → ∃ t, exec (.bwWindowEnd r0 w0 r1 w1 r2 w2) s = .next t ∧
      s.only [.reg .BCKT_MEM_CNT, .reg .FTHM_BW, .reg .FTHM_BW_PEAK, .reg .FTHM_PORT] [] t ∧ t.rd .FTHM_BW_RD 0 = r0 % 2 ^ 32 ∧
          t.rd .FTHM_BW_WR 0 = w0 % 2 ^ 32 ∧
      t.rd .FTHM_BW_RD 1 = r1 % 2 ^ 32 ∧ t.rd .FTHM_BW_WR 1 = w1 % 2 ^ 32 ∧ t.rd .FTHM_BW_RD 2 = r2 % 2 ^ 32 ∧
      t.rd .FTHM_BW_WR 2 = w2 % 2 ^ 32 ∧ t.rd .FTHM_BW_PEAK_RD 0 = max (s.rd .FTHM_BW_PEAK_RD 0) (r0 % 2 ^ 32)) ∧
  (∀ (s : State) (k : Core) (stalled : Bool) (pc cycle : BitVec 64) (skid : Fin 3), s.alive 4 = true →
      ∃ t, exec (.instructionSample k stalled pc cycle skid) s = .next t ∧ s.only [.reg .BCKT_MEM_CNT, .reg .BCKT_RING_ST] [.rings,
          .vecs, .fathom, .out] t ∧
      ((s.rd .FTHM_SAMP_CFG_SAMP_EN).testBit k = true → s.coreServes k = true →
        t.fathom.samples.get 0 k = (s.fathom.samples.get 0 k + 1) % 2 ^ 32) ∧
      ((s.rd .FTHM_SAMP_CFG_SAMP_EN).testBit k = false ∨ s.coreServes k = false → t = s))

/-- FIFO_RECENTRE of a domain with an owner (Table 1.13), once the core is out of reset: FTHM_XING of the domain counts, the owning block raises its event with the domain number (its cause and control domain are the model's: log entries 23 and 74), and where the recentring fell inside a frame the data is marked errored toward the next stage: every client of a receive lane, every client of a transmit quad's four lanes, the packet on a mate lane. Between frames nothing of the data is marked. -/
def Obligations.CrossingsRecentre : Prop :=
  (∀ (s : State) (d : ClockDom) (inFrame : Bool) (b : Nat), s.boot.coreUp = true → crossingOwner d.val = some b →
      ∃ t, exec (.fifoRecentre d inFrame) s = .next t ∧ s.only (eventTouch.append [.reg .FTHM_XING]) (eventParts.append [.clients,
          .lanyard]) t ∧
      (s.alive 4 = true → t.rd .FTHM_XING_COUNT d = (s.rd .FTHM_XING_COUNT d + 1) % 2 ^ 48) ∧
      (s.alive b = true → .event (b * 2048 + Config.crossingCause % 2048) 0 [d.val] false ∈ t.out) ∧
      (inFrame = false → t.clients = s.clients ∧ t.lanyard = s.lanyard) ∧
      (inFrame = true → 75 ≤ d.val → d.val < 79 → t.lanyard.hit = true) ∧
      (inFrame = true → d.val < 60 → ∀ c ∈ s.clientsOn (d.val - 12), (t.cli c).recentred = true) ∧
      (inFrame = true → 60 ≤ d.val → d.val < 72 → ∀ l < 4, ∀ c ∈ s.clientsOn (4 * (d.val - 60) + l), (t.cli c).recentredOut = true)) ∧
  (∀ (s : State) (d : ClockDom) (inFrame : Bool), s.boot.coreUp = false ∨ crossingOwner d.val = none →
      ∃ t, exec (.fifoRecentre d inFrame) s = .next t ∧ t = s)

/-- An evaluation puts each subcarrier's average in front of its past ones and starts new sums; during a proposal its choice waits. MAN_GO with LOAD_AUTO = 0 proposes the table at the effective ceilings unless it is in force, and is kept during a proposal. Without an answer the proposal is withdrawn. A countdown goes down by one each multiframe, and after count 1 the table takes effect under its identifier. A fallback of the own receiver starts a countdown to the start table under identifier 0 (log entry 13), after a countdown that runs. A received block that fails its CRC is counted and gives Braid nothing; a good one shows the far SNR and fallback. A change of overhead returns the transmitter to the start table. -/
def Obligations.LoadingLoop : Prop :=
  (∀ (s : State) (n : Line), s.alive 9 = true → s.loads n = true → ∃ t, exec (.loadingEvaluation n) s = .next t ∧
      s.only (eventTouch.append [.reg .BRAD_LOAD_STAT, .reg .BRAD_LOAD_EVT]) (eventParts.append [.braid]) t ∧ (t.brd n).sums = [] ∧
      (∀ f ∈ s.firstSlots .BRAD_SC_CFG_WIDTH n, (t.brd n).past.get [] f =
        ((s.brd n).sums.get (0, 0) f :: (s.brd n).past.get [] f).take (s.dwellCount n)) ∧
      (s.on .BRAD_LINE_CFG_LOAD_AUTO n = false → t.reg .BRAD_LOAD_STAT n = s.reg .BRAD_LOAD_STAT n ∧
        (t.brd n).table = (s.brd n).table) ∧
      (s.on .BRAD_LINE_CFG_LOAD_AUTO n = true → s.rd .BRAD_LOAD_STAT_STATE n ≠ 0 → (t.brd n).evalHeld = true ∧
        t.reg .BRAD_LOAD_STAT n = s.reg .BRAD_LOAD_STAT n)) ∧
  (∀ (s : State) (req : Requester) (n : Line) (table : List (Nat × Nat × Nat)), s.mayWrite req 9 1 (s.lineDom n) → s.loads n = true →
      table = ((s.firstSlots .BRAD_SC_CFG_WIDTH n).map fun f =>
        (f, s.clipPair n (s.rd .BRAD_SC_LOAD_FLOOR_ENT n f) (s.effCeil n f) 0 128)) →
      ∃ t, exec (.manGo req n) s = .next t ∧ s.only (eventTouch.append [.reg .MRLN_NV_EVT, .reg .MRLN_NV_ST,
          .reg .BRAD_LOAD_STAT]) (eventParts.append [.latches, .journal, .braid]) t ∧
      (s.on .BRAD_LINE_CFG_LOAD_AUTO n = true → t.braid = s.braid ∧ t.reg .BRAD_LOAD_STAT n = s.reg .BRAD_LOAD_STAT n) ∧
      (s.on .BRAD_LINE_CFG_LOAD_AUTO n = false → s.rd .BRAD_LOAD_STAT_STATE n = 0 → table ≠ s.txTable n →
        t.rd .BRAD_LOAD_STAT_STATE n = 1 ∧ t.rd .BRAD_LOAD_STAT_PEND_ID n = s.nextId n ∧ (t.brd n).table = table) ∧
      (s.on .BRAD_LINE_CFG_LOAD_AUTO n = false → s.rd .BRAD_LOAD_STAT_STATE n = 0 → table = s.txTable n →
        t.rd .BRAD_LOAD_STAT_STATE n = 0 ∧ t.braid = s.braid) ∧
      (s.on .BRAD_LINE_CFG_LOAD_AUTO n = false → s.rd .BRAD_LOAD_STAT_STATE n ≠ 0 → (t.brd n).manHeld = true ∧
        t.reg .BRAD_LOAD_STAT n = s.reg .BRAD_LOAD_STAT n)) ∧
  (∀ (s : State) (n : Line), s.alive 9 = true → s.rd .BRAD_LOAD_STAT_STATE n = 1 → ∃ t, exec (.armTimeout n) s = .next t ∧
      s.only (eventTouch.append [.reg .BRAD_LOAD_STAT, .reg .BRAD_LOAD_EVT]) (eventParts.append [.braid]) t ∧
          t.on .BRAD_LOAD_EVT_TIMEOUT n = true ∧
      ((s.brd n).revertHeld = false → (s.brd n).manHeld = false → t.rd .BRAD_LOAD_STAT_STATE n = 0 ∧
        t.rd .BRAD_LOAD_STAT_PEND_ID n = 0 ∧ t.rd .BRAD_LOAD_STAT_COUNT n = 0 ∧ (t.brd n).table = [])) ∧
  (∀ (s : State) (n : Line), s.alive 9 = true → 2 ≤ s.rd .BRAD_LOAD_STAT_STATE n → ∃ t, exec (.countdownTick n) s = .next t ∧
      s.only (eventTouch.append [.reg .BRAD_LOAD_STAT, .reg .BRAD_LOAD_EVT, .reg .BRAD_SC_ACT, .reg .HTCH_STAT,
          .reg .HTCH_EVT]) (eventParts.append [.braid]) t ∧
      (1 < s.rd .BRAD_LOAD_STAT_COUNT n → t.rd .BRAD_LOAD_STAT_COUNT n = s.rd .BRAD_LOAD_STAT_COUNT n - 1 ∧
        t.rd .BRAD_LOAD_STAT_ACTIVE_ID n = s.rd .BRAD_LOAD_STAT_ACTIVE_ID n ∧ t.braid = s.braid) ∧
      (s.rd .BRAD_LOAD_STAT_COUNT n ≤ 1 → t.rd .BRAD_LOAD_STAT_ACTIVE_ID n = s.rd .BRAD_LOAD_STAT_PEND_ID n ∧
        t.on .BRAD_LOAD_EVT_SWITCHED n = true ∧ (∀ (f : Slot) (b e : Nat),
            ((s.brd n).table.find? fun x => x.1 == f.val) = some (f.val, b, e) →
          t.rd .BRAD_SC_ACT_BASE n f = b % 4 ∧ t.rd .BRAD_SC_ACT_ENT n f = e % 128) ∧
        ((s.brd n).revertHeld = false → (s.brd n).manHeld = false → (s.brd n).evalHeld = false → t.rd .BRAD_LOAD_STAT_STATE n = 0))) ∧
  (∀ (s : State) (n : Line), s.alive 9 = true → s.loads n = true → s.on .BRAD_LOAD_STAT_RX_FALLBACK n = true →
      ∃ t, exec (.forcedReversion n) s = .next t ∧ s.only (eventTouch.append [.reg .BRAD_LOAD_STAT,
          .reg .BRAD_LOAD_EVT]) (eventParts.append [.braid]) t ∧
      (s.rd .BRAD_LOAD_STAT_STATE n < 2 → t.rd .BRAD_LOAD_STAT_STATE n = 3 ∧ t.rd .BRAD_LOAD_STAT_PEND_ID n = 0 ∧
        t.rd .BRAD_LOAD_STAT_COUNT n = s.rd .BRAD_LINE_CFG_ANN_COUNT n ∧ (t.brd n).table = s.startTable n ∧
        t.on .BRAD_LOAD_EVT_FORCED_START n = true) ∧
      (s.rd .BRAD_LOAD_STAT_STATE n = 2 → (t.brd n).revertHeld = true ∧ t.reg .BRAD_LOAD_STAT n = s.reg .BRAD_LOAD_STAT n) ∧
      (s.rd .BRAD_LOAD_STAT_STATE n = 3 → t = s)) ∧
  (∀ (s : State) (n : Line) (mob : List Byte) (v : Nat), s.alive 13 = true → s.loads n = true → s.on .HTCH_STAT_IN_FRAME n = true →
      mob = (s.hit n).rxMob → mob.length = 2048 → v = bigVal ((mob.drop 136).take 80) →
      ∃ t, exec (.mobReceived n) s = .next t ∧ s.only (eventTouch.append [.reg .TOP_FAULT, .reg .BRAD_LOAD_STAT, .reg .BRAD_LOAD_EVT,
          .reg .BRAD_SC_ACT, .reg .SPLC_STAT, .reg .HTCH_STAT, .reg .HTCH_DEF, .reg .HTCH_DEF_STK, .reg .HTCH_EVT, .reg .HTCH_CNT,
              .reg .HTCH_TTI_SMACC, .reg .HTCH_TTI_PMACC, .reg .SEIZ_KC_ST, .reg .BEND_EVT, .reg .BEND_PG_STAT, .reg .BEND_PATH_ST,
              .reg .SHET_CLI_STAT, .reg .SHET_CLI_EVT, .reg .SHET_CNT]) (eventParts.append [.boot, .braid, .splice, .clients, .groups,
              .kcs, .hitch]) t ∧
      (mobOk mob = false → t.rd .HTCH_CNT_COUNT n 4 = (s.rd .HTCH_CNT_COUNT n 4 + 1) % 2 ^ 48 ∧ t.braid = s.braid ∧
        t.splice = s.splice) ∧
      (mobOk mob = true → t.on .BRAD_LOAD_STAT_FAR_FALLBACK n = (blItem v 576 1 == 1) ∧
        ∀ f ∈ s.firstSlots .BRAD_SC_CFG_WIDTH n, t.rd .BRAD_SC_ACT_FAR_SNR n f = blItem v (8 * f) 8)) ∧
  (∀ (s : State) (n : Line), s.alive 12 = true → ∃ t, exec (.ohSwitchTx n) s = .next t ∧
      s.only (eventTouch.append [.reg .BRAD_LOAD_STAT, .reg .BRAD_SC_ACT, .reg .HTCH_STAT,
          .reg .HTCH_EVT]) (eventParts.append [.braid, .cleat]) t ∧
      ((s.clt n).txDue = true → (t.clt n).txOh = s.rd .CLET_LINE_CFG_OH n ∧ (t.clt n).txDue = false ∧
        (s.lineNative n = true → t.rd .BRAD_LOAD_STAT_STATE n = 0 ∧ t.rd .BRAD_LOAD_STAT_ACTIVE_ID n = 0)) ∧
      ((s.clt n).txDue = false → t = s))

/-- An entry of a pre-distortion table takes its value while the line is Off; otherwise the write is refused with cause 0xF. A foreground calibration of a line's DACs starts on request unless the line is Off or its laser is on, where the request is refused. A success gives every tributary its values, which join the history, and makes the transmitter ready; a failure is reported and it is not. A background update moves a tributary's values by no more than R73 allows, keeps the rest for later updates and reports its beginning. -/
def Obligations.TableMemoriesAndDacs : Prop :=
  (∀ (s : State) (req : Requester) (n : Line) (lut : Bool) (tr : Trib) (idx value : Nat) (key : RegKey),
      s.mayWrite req 9 1 (s.lineDom n) → key = ⟨if lut then .BRAD_PD_LUT else .BRAD_PD_FIR, n, tr, idx⟩ → regValid key = true →
      ∃ t, exec (.pdTableWrite req n lut tr idx value) s = .next t ∧ s.only (eventTouch.append [.reg .TOP_ACC_ERR, .reg .MRLN_NV_EVT,
          .reg .MRLN_NV_ST, .reg .BRAD_REFUSE, .reg .BRAD_PD_FIR, .reg .BRAD_PD_LUT]) (eventParts.append [.latches, .journal]) t ∧
      (s.lineMode n = 0 → t.regs.get key = value % (if lut then 2 ^ 8 else 2 ^ 16)) ∧
      (s.lineMode n ≠ 0 → t.regs.get key = s.regs.get key ∧ t.on .BRAD_REFUSE_STICKY = true ∧ t.rd .BRAD_REFUSE_LAST_CAUSE = 15 ∧
        t.rd .BRAD_REFUSE_LAST_LINE = n.val)) ∧
  (∀ (s : State) (req : Requester) (n : Line), s.mayWrite req 8 1 (s.lineDom n) → s.rd .STRD_DAC_CAL_FG_STATE n ≠ 1 →
      ∃ t, exec (.dacFgReq req n) s = .next t ∧ s.only (eventTouch.append [.reg .MRLN_NV_EVT, .reg .MRLN_NV_ST,
          .reg .STRD_DAC_CAL]) (eventParts.append [.latches, .journal]) t ∧
      (s.lineMode n ≠ 0 → s.txen n = false → t.rd .STRD_DAC_CAL_FG_STATE n = 1 ∧ t.on .STRD_DAC_CAL_FG_REQ n = true) ∧
      (s.lineMode n = 0 ∨ s.txen n = true → t.rd .STRD_DAC_CAL_FG_STATE n = s.rd .STRD_DAC_CAL_FG_STATE n ∧
        t.on .STRD_DAC_CAL_FG_REQ n = false ∧ t.on .STRD_DAC_CAL_FG_REFUSED n = true)) ∧
  (∀ (s : State) (n : Line) (ok : Bool) (tr : Trib) (cal : List (List Calib)), s.alive 8 = true → s.rd .STRD_DAC_CAL_FG_STATE n = 1 →
      ∃ t, exec (.dacFgCalDone n ok tr cal) s = .next t ∧ s.only (eventTouch.append [.reg .TOP_MODE_STAT, .reg .STRD_DAC_CAL,
          .reg .STRD_EVT, .reg .BRAD_LOAD_STAT, .reg .BRAD_SC_ACT]) (eventParts.append [.pins, .strand, .braid]) t ∧
      t.rd .STRD_DAC_CAL_FG_STATE n = (if ok then 2 else 3) ∧ t.on .STRD_DAC_CAL_FG_REQ n = false ∧ (t.str n).txReady = ok ∧
      (ok = true → (∀ k < 4, (t.str n).dac.get [] k = cal.getD k []) ∧ (t.str n).dacRest = [] ∧
        (t.str n).history = (false, 3, cal.getD 3 []) :: (false, 2, cal.getD 2 []) :: (false, 1, cal.getD 1 []) ::
          (false, 0, cal.getD 0 []) :: (s.str n).history) ∧
      (ok = false → t.on .STRD_EVT_DAC_FG_FAIL = true ∧ t.txen n = t.laserOn n ∧ (t.str n).history = (s.str n).history)) ∧
  (∀ (s : State) (n : Line) (tr : Trib) (c need move : List Calib), s.alive 8 = true → s.lineMode n ≠ 0 →
      s.on .STRD_DAC_CAL_BG_EN n = true →
      need = calSum false ((s.str n).dacRest.get [] tr) c → move = calMove false need →
      ∃ t, exec (.dacBgCalUpdate n tr c) s = .next t ∧ s.only (eventTouch.append [.reg .STRD_EVT]) (eventParts.append [.strand]) t ∧
      (t.str n).dac.get [] tr = calSum false ((s.str n).dac.get [] tr) move ∧ (t.str n).dacRest.get [] tr = calRest false need move ∧
      (t.str n).history = (false, tr.val, calSum false ((s.str n).dac.get [] tr) move) :: (s.str n).history ∧
      (calZero (calRest false need move) = false → calZero ((s.str n).dacRest.get [] tr) = true → t.on .STRD_EVT_DAC_STEP = true))

/-- Out of frame a position where the FAW stands starts a candidate while fewer than four are held; the check at its next expected position advances it, drops it, or after ALIGN_N passes accepts it, which gives frame and multiframe alignment. ALIGN_M errored FAWs lose the frame, and five wrong MFAS values the multiframe. A frame received in alignment is counted and moves the expected MFAS on; its violations are what the next frame sent reports. A persistence time declares dLOF or dLOM while Hitch is out, unless masked and not on a Hub line, and clears it while it is in; a defect that holds aSSF starts the consequent actions, which end at the frame boundary after the last one. A frame sent is the overhead and payload bytes under the scrambler, with the pad behind the last one of a multiframe. -/
def Obligations.AlignmentAndFrames : Prop :=
  (∀ (s : State) (n : Line) (pos : Nat), s.alive 13 = true → ∃ t, exec (.fawMatch n pos) s = .next t ∧
      s.only [.reg .HTCH_STAT] [.hitch] t ∧
      ((s.lineMode n = 0 ∨ s.lineMode n = 2 ∨ s.on .HTCH_STAT_IN_FRAME n = true ∨ 4 ≤ (s.hit n).cands.length ∨
          s.alignedAt n pos = none) → t = s) ∧
      (s.lineMode n ≠ 0 → s.lineMode n ≠ 2 → s.on .HTCH_STAT_IN_FRAME n = false → (s.hit n).cands.length < 4 →
        ∀ m, s.alignedAt n pos = some m → (t.hit n).cands = (s.hit n).cands ++ [⟨pos, m, 0, false⟩] ∧
          t.rd .HTCH_STAT_CANDS n = (s.hit n).cands.length + 1)) ∧
  (∀ (s : State) (n : Line) (pos : Nat) (b : List RxBit), s.lineOzr n = false → s.inStream n pos 40 = some b →
      s.alignedAt n pos = (if (plainBytes (rxBytes b)).take 4 = [0xF6, 0xF6, 0x28, 0x28] then some (byteAt (plainBytes (rxBytes b)) 4)
        else none)) ∧
  (∀ (s : State) (n : Line) (i : Nat) (c : Candidate), s.alive 13 = true → s.on .HTCH_STAT_IN_FRAME n = false →
      (s.hit n).cands[i]? = some c → ∃ t, exec (.candidateCheck n i) s = .next t ∧ s.only [.reg .BRAD_LOAD_STAT,
          .reg .HTCH_STAT] [.hitch] t ∧
      (s.checkBits n (s.nextAt n c.pos c.mfas) = none → t = s) ∧
      (s.checkBits n (s.nextAt n c.pos c.mfas) ≠ none →
        (s.alignedAt n (s.nextAt n c.pos c.mfas) ≠ some ((c.mfas + 1) % 256) →
          (t.hit n).cands = (s.hit n).cands.eraseIdx i ∧ t.on .HTCH_STAT_IN_FRAME n = false) ∧
        (s.alignedAt n (s.nextAt n c.pos c.mfas) = some ((c.mfas + 1) % 256) →
          (c.passes + 1 < s.hcfg n .HTCH_LINE_CFG_ALIGN_N → (t.hit n).cands = (s.hit n).cands.set i
              { c with pos := s.nextAt n c.pos c.mfas, mfas := (c.mfas + 1) % 256, passes := c.passes + 1 } ∧
            t.on .HTCH_STAT_IN_FRAME n = false) ∧
          (s.hcfg n .HTCH_LINE_CFG_ALIGN_N ≤ c.passes + 1 → t.on .HTCH_STAT_IN_FRAME n = true ∧ t.on .HTCH_STAT_IN_MF n = true ∧
            t.on .HTCH_STAT_OOF n = false ∧ t.on .HTCH_STAT_OOM n = false ∧ (t.hit n).cands = [] ∧
            ∃ a : Candidate, s.hcfg n .HTCH_LINE_CFG_ALIGN_N ≤ a.passes ∧ (t.hit n).pos = s.nextAt n a.pos a.mfas ∧
              t.rd .HTCH_STAT_MFAS_EXP n = (a.mfas + 1) % 256)))) ∧
  (∀ (s : State) (n : Line), s.alive 13 = true → s.on .HTCH_STAT_IN_FRAME n = true →
      (s.hcfg n .HTCH_LINE_CFG_ALIGN_M ≤ (s.hit n).errored → ∃ t, exec (.outOfFrame n) s = .next t ∧ s.only [.reg .HTCH_STAT] [.hitch] t ∧
        t.on .HTCH_STAT_IN_FRAME n = false ∧ t.on .HTCH_STAT_IN_MF n = false ∧ t.on .HTCH_STAT_OOF n = true ∧
        (t.hit n).cands = [s.lostCandidate n]) ∧
      ((s.hit n).errored < s.hcfg n .HTCH_LINE_CFG_ALIGN_M → exec (.outOfFrame n) s = .next s) ∧
      (5 ≤ (s.hit n).wrong → ∃ t, exec (.outOfMultiframe n) s = .next t ∧ s.only [.reg .HTCH_STAT] [.hitch] t ∧
        t.on .HTCH_STAT_IN_MF n = false ∧ t.on .HTCH_STAT_OOM n = true ∧ t.on .HTCH_STAT_IN_FRAME n = true) ∧
      ((s.hit n).wrong < 5 → exec (.outOfMultiframe n) s = .next s)) ∧
  (∀ (s : State) (n : Line), s.alive 13 = true → ∃ t, exec (.frameReceived n) s = .next t ∧
      s.only (eventTouch.append [.reg .TOP_FAULT, .reg .BRAD_LOAD_STAT, .reg .HTCH_STAT, .reg .HTCH_DEF, .reg .HTCH_DEF_STK,
          .reg .HTCH_EVT, .reg .HTCH_CNT, .reg .HTCH_TTI_SMACC, .reg .HTCH_TTI_PMACC, .reg .SEIZ_EVT, .reg .SEIZ_KC_ST,
              .reg .SEIZ_KC_CNT, .reg .BEND_EVT, .reg .BEND_PG_STAT, .reg .BEND_PATH_ST, .reg .SHET_CLI_STAT, .reg .SHET_CLI_EVT,
              .reg .SHET_CNT]) (eventParts.append [.boot, .clients, .groups, .kcs, .hitch]) t ∧
      ((s.on .HTCH_STAT_IN_FRAME n = false ∨ s.inStream n (s.hit n).pos (s.frameLen n) = none) → t = s) ∧
      (s.on .HTCH_STAT_IN_FRAME n = true → 0 < s.frameLen n → ∀ b, s.inStream n (s.hit n).pos (s.frameLen n) = some b →
        t.rd .HTCH_CNT_COUNT n 0 = (s.rd .HTCH_CNT_COUNT n 0 + 1) % 2 ^ 48 ∧
        (t.hit n).pos = s.nextAt n (s.hit n).pos (s.rd .HTCH_STAT_MFAS_EXP n) ∧
        (s.on .HTCH_STAT_OOM n = false → t.rd .HTCH_STAT_MFAS_EXP n = (s.rd .HTCH_STAT_MFAS_EXP n + 1) % 256) ∧
        (s.lineOzr n = false → ∀ oh, oh = plainBytes ((frameBytes b).take (s.rxU n)) →
          (t.hit n).errored = (if oh.take 4 = [0xF6, 0xF6, 0x28, 0x28] then 0 else (s.hit n).errored + 1) ∧
          (t.hit n).smBei = min 8 ((s.hit n).rxBip.elim 0 fun p => ones8 (p ^^^ oh.getD 5 0).toNat)))) ∧
  (∀ (s : State) (n : Line), s.alive 13 = true →
      (∃ t, exec (.defectPersistenceExpiry n false) s = .next t ∧ s.only (eventTouch.append [.reg .TOP_FAULT, .reg .HTCH_DEF,
          .reg .HTCH_DEF_STK, .reg .HTCH_EVT, .reg .SEIZ_KC_ST, .reg .BEND_EVT, .reg .BEND_PG_STAT, .reg .BEND_PATH_ST,
              .reg .SHET_CLI_STAT, .reg .SHET_CLI_EVT, .reg .SHET_CNT]) (eventParts.append [.boot, .clients, .groups, .kcs, .hitch]) t ∧
        (s.on .HTCH_STAT_OOF n = true → s.on .HTCH_DEF_LOS n = false → s.lineMode n ≠ 2 → t.on .HTCH_DEF_LOF n = true ∧
          (s.on .HTCH_DEF_LOF n = false → t.on .HTCH_EVT_LOF n = true ∧ t.on .HTCH_DEF_STK_LOF n = true ∧ t.on .HTCH_DEF_SSF n = true ∧
            (t.hit n).acting = true)) ∧
        (s.on .HTCH_STAT_OOF n = false → s.on .HTCH_STAT_IN_FRAME n = true → t.on .HTCH_DEF_LOF n = false)) ∧
      ∃ t, exec (.defectPersistenceExpiry n true) s = .next t ∧ s.only (eventTouch.append [.reg .TOP_FAULT, .reg .HTCH_DEF,
          .reg .HTCH_DEF_STK, .reg .HTCH_EVT, .reg .SEIZ_KC_ST, .reg .BEND_EVT, .reg .BEND_PG_STAT, .reg .BEND_PATH_ST,
              .reg .SHET_CLI_STAT, .reg .SHET_CLI_EVT, .reg .SHET_CNT]) (eventParts.append [.boot, .clients, .groups, .kcs, .hitch]) t ∧
        (s.on .HTCH_STAT_OOM n = true → s.on .HTCH_DEF_LOS n = false → s.on .HTCH_DEF_LOF n = false → s.lineMode n ≠ 2 →
          t.on .HTCH_DEF_LOM n = true) ∧
        (s.on .HTCH_STAT_OOM n = false → s.on .HTCH_STAT_IN_MF n = true → t.on .HTCH_DEF_LOM n = false)) ∧
  (∀ (s : State) (n : Line), s.alive 13 = true → ∃ t, exec (.ssfClear n) s = .next t ∧ s.only (eventTouch.append [.reg .TOP_FAULT,
      .reg .SEIZ_KC_ST, .reg .BEND_EVT, .reg .BEND_PG_STAT, .reg .BEND_PATH_ST, .reg .SHET_CLI_STAT, .reg .SHET_CLI_EVT,
          .reg .SHET_CNT]) (eventParts.append [.boot, .clients, .groups, .kcs, .hitch]) t ∧
      ((s.hit n).acting = true → s.formSsf n = false → (t.hit n).acting = false) ∧
      (((s.hit n).acting = false ∨ s.formSsf n = true) → t = s)) ∧
  (∀ (s : State) (n : Line) (f : Byte), s.alive 13 = true → ∃ t, exec (.frameTransmit n f) s = .next t ∧
      s.only (eventTouch.append [.reg .TOP_FAULT, .reg .HTCH_STAT, .reg .HTCH_DEF, .reg .HTCH_DEF_STK, .reg .HTCH_EVT, .reg .HTCH_CNT,
          .reg .SEIZ_EVT, .reg .SEIZ_KC_ST, .reg .SEIZ_KC_CNT, .reg .BEND_EVT, .reg .BEND_PG_STAT, .reg .BEND_PATH_ST,
              .reg .SHET_CLI_STAT, .reg .SHET_CLI_EVT, .reg .SHET_CNT]) (eventParts.append [.inflight, .marline, .boot, .braid,
              .cleat, .clients, .groups, .kcs, .hitch]) t ∧
      (s.lineMode n = 0 → t = s) ∧
      (s.lineNative n = true → t.rd .HTCH_STAT_TX_U n ≠ 0 → ∃ b, t.out.head? = some (.frame n.val b)) ∧
      (s.lineNative n = true → f ≠ 0 → s.rd .HTCH_STAT_TX_U n ≠ 0 → (s.hit n).cfgOld = none →
        t.out = .frame n.val (frameBits (s.frameOverhead n f.toNat (s.rd .HTCH_STAT_TX_U n) ++
          s.framePayload n f.toNat (s.rd .HTCH_STAT_TX_U n))
          (if f.toNat = 255 then linePad (s.clt n).txOh (s.txCarriers n .BRAD_SC_ACT_ENT) else 0)) :: s.out) ∧
      (s.lineOzr n = true → (s.hit n).cfgOld = none → .frame n.val (s.ozrBits n f.toNat) ∈ t.out ∧ (t.hit n).pmBei = 0))

/-- On a Hub line the oldest burst of the leaf that waits is taken: one that fails its checks is counted; a good one joins the leaf's stream, the first says where the next must begin, and its fail flag or too wide a gap is the leaf's upstream signal fail. A window that ends is held with the conditions that still stand, and ten seconds later its results are added; outside unavailable time an SM window that is not severely errored adds its errored blocks. An interval record goes to the history and clears the interval's counters. FORCE_AIS and FORCE_BDI take their values and leave each other. -/
def Obligations.BurstsAndMonitoring : Prop :=
  (∀ (s : State) (n : Line) (leaf : Leaf), s.alive 13 = true → ∃ t, exec (.burstFrameReceived n leaf) s = .next t ∧
      s.only (eventTouch.append [.reg .HTCH_CNT, .reg .SEIZ_EVT, .reg .SEIZ_KC_ST, .reg .SEIZ_KC_CNT, .reg .BEND_EVT,
          .reg .BEND_PG_STAT, .reg .BEND_PATH_ST, .reg .SHET_CLI_STAT, .reg .SHET_CLI_EVT,
              .reg .SHET_CNT]) (eventParts.append [.clients, .leafFail, .groups, .kcs, .hitch]) t ∧
      ((s.lineMode n ≠ 2 ∨ (s.hit n).bursts.find? (fun e => e.1 == leaf.val) = none) → t = s) ∧
      (s.lineMode n = 2 → ∀ e, (s.hit n).bursts.find? (fun e => e.1 == leaf.val) = some e → ∀ h, h = plainBytes e.2 →
        (t.hit n).bursts = (s.hit n).bursts.erase e ∧
        (burstOk h = false → t.rd .HTCH_CNT_COUNT n 7 = (s.rd .HTCH_CNT_COUNT n 7 + 1) % 2 ^ 48 ∧ t.out = s.out ∧
          (t.hit n).leafNext = (s.hit n).leafNext) ∧
        (burstOk h = true → t.leafFail.contains (n.val, leaf.val) =
            ((burstPayload ((s.hit n).leafNext.get none leaf) (leAt h 4 6) ((e.2.drop 20).take (leAt h 10 4))).2.2.1 ||
              bit (byteAt h 14) 0) ∧
          ((s.hit n).leafNext.get none leaf = none →
            (t.hit n).leafNext.get none leaf = some ((leAt h 4 6 + leAt h 10 4) % 2 ^ 48) ∧
            t.leafFail.contains (n.val, leaf.val) = bit (byteAt h 14) 0)))) ∧
  (∀ (s : State) (n : Line), s.alive 13 = true → ∃ t, exec (.pmWindowEnd n) s = .next t ∧ s.only [] [.hitch] t ∧
      (s.lineMode n ≠ 0 → (t.hit n).held = (s.hit n).held ++ [(s.hit n).window] ∧
        (t.hit n).window = PmWindow.mk (s.lineOzr n) 0 0 0 0 (s.formSsf n) (s.on .HTCH_DEF_SM_BDI n) (s.on .HTCH_DEF_PM_BDI n)) ∧
      (s.lineMode n = 0 → (t.hit n).held = (s.hit n).held ∧ (t.hit n).window = {} ∧
        (t.hit n).sus15.contains ((s.tod - 1) / 900) = true ∧ (t.hit n).sus24.contains ((s.tod - 1) / 86400) = true)) ∧
  (∀ (s : State) (n : Line), s.alive 13 = true → (s.hit n).held = [] → exec (.pmWindowCommit n) s = .next s) ∧
  (∀ (s : State) (n : Line) (w : PmWindow) (rest : List PmWindow), s.alive 13 = true → (s.hit n).held = w :: rest →
      ∃ t, exec (.pmWindowCommit n) s = .next t ∧ s.only (eventTouch.append [.reg .HTCH_DEF, .reg .HTCH_DEF_STK, .reg .HTCH_EVT,
          .reg .HTCH_PM15, .reg .HTCH_PM24]) (eventParts.append [.hitch]) t ∧ (t.hit n).held = rest ∧
      (t.hit n).count15 = (s.hit n).count15 + 1 ∧ (t.hit n).count24 = (s.hit n).count24 + 1 ∧
      ((s.hit n).uas.get false 0 = false → isSes w 0 = false → (t.hit n).uas.get false 0 = false ∧
        t.rd .HTCH_PM15_COUNT n 2 = min (2 ^ 32 - 1) (s.rd .HTCH_PM15_COUNT n 2 + w.smNear))) ∧
  (∀ (s : State) (n : Line) (day : Bool), s.alive 13 = true → ∃ t, exec (.intervalRecordWrite n day) s = .next t ∧
      s.only (eventTouch.append [.reg .HTCH_EVT, .reg .HTCH_HIST_PTR, .reg .HTCH_PM15, .reg .HTCH_PM24,
          .reg .HTCH_HIST]) (eventParts.append [.hitch]) t ∧ t.on .HTCH_EVT_INTERVAL n = true ∧
      t.rd .HTCH_HIST_PTR_HIST_SEQ n = (s.rd .HTCH_HIST_PTR_HIST_SEQ n + 1) % 256 ∧
      (day = false → t.on .HTCH_HIST_VALID n (t.rd .HTCH_HIST_PTR_LAST15 n) = true ∧
        t.rd .HTCH_HIST_START n (t.rd .HTCH_HIST_PTR_LAST15 n) = ((s.tod - 10) / 900 - 1) * 900 % 2 ^ 48 ∧
        t.on .HTCH_HIST_SUSPECT n (t.rd .HTCH_HIST_PTR_LAST15 n) =
          ((s.hit n).sus15.contains ((s.tod - 10) / 900 - 1) || (s.hit n).count15 != 900) ∧ (t.hit n).count15 = 0 ∧
        ∀ k : Fin 16, t.rd .HTCH_PM15_COUNT n k = 0 ∧ t.rd .HTCH_PM24_COUNT n k = s.rd .HTCH_PM24_COUNT n k) ∧
      (day = true → (t.hit n).count24 = 0 ∧
        t.rd .HTCH_HIST_START n (32 + t.rd .HTCH_HIST_PTR_LAST24 n) = ((s.tod - 10) / 86400 - 1) * 86400 % 2 ^ 48 ∧
        ∀ k : Fin 16, t.rd .HTCH_PM24_COUNT n k = 0 ∧ t.rd .HTCH_PM15_COUNT n k = s.rd .HTCH_PM15_COUNT n k)) ∧
  (∀ (s : State) (req : Requester) (n : Line) (v : Bool), s.mayWrite req 13 1 (s.lineDom n) →
      (∃ t, exec (.forceAis req n v) s = .next t ∧ s.only (eventTouch.append [.reg .MRLN_NV_EVT, .reg .MRLN_NV_ST,
          .reg .HTCH_TX_CFG]) (eventParts.append [.latches, .journal]) t ∧ t.on .HTCH_TX_CFG_FORCE_AIS n = v ∧
        t.on .HTCH_TX_CFG_FORCE_BDI n = s.on .HTCH_TX_CFG_FORCE_BDI n) ∧
      ∃ t, exec (.forceBdi req n v) s = .next t ∧ s.only (eventTouch.append [.reg .MRLN_NV_EVT, .reg .MRLN_NV_ST,
          .reg .HTCH_TX_CFG]) (eventParts.append [.latches, .journal]) t ∧ t.on .HTCH_TX_CFG_FORCE_BDI n = v ∧
        t.on .HTCH_TX_CFG_FORCE_AIS n = s.on .HTCH_TX_CFG_FORCE_AIS n)

/-- Each stage of an acquisition that FREEZE has not halted leads to the next; the pilot lock of the line leads to Tracking, or under FREEZE to Frozen. A bound that is reached restarts the line, or the subcarrier. Raw LOS follows the window's power and the pin; its rise freezes Tracking, returns an acquisition to Wait-signal and declares dLOS, its fall ends Wait-signal or begins a warm restart. FREEZE_HOLD leads to a cold acquisition, or where raw LOS clears in that cycle to a warm restart; a freeze condition in the frame of a warm restart keeps the freeze (Table 3.10). FREEZE holds and its clearing releases; REACQ starts a cold acquisition from any state after Wait-signal. A diverged subcarrier restarts alone, or with a majority the line. Tables 3.2 and 3.7 give the states. -/
def Obligations.AcquisitionStates : Prop :=
  (∀ (s : State) (n : Line), s.alive 10 = true →
      (s.inState n 3 = true → ∃ t, exec (.freqSearchDone n) s = .next t ∧ s.only [.reg .SPLC_STAT] [] t ∧
        ((s.spl n).foffOut = false → t.splState n = (if s.rd .SPLC_LINE_CFG_CD_MODE n = 2 then 5 else 4)) ∧
        ((s.spl n).foffOut = true → t = s)) ∧
      (s.inState n 4 = true → ∃ t, exec (.cdSearchDone n) s = .next t ∧ s.only [.reg .SPLC_STAT] [] t ∧ t.splState n = 5) ∧
      (s.inState n 5 = true → ∃ t, exec (.timingDone n) s = .next t ∧ s.only [.reg .SPLC_STAT] [] t ∧ t.splState n = 6) ∧
      (s.inState n 6 = true → ∃ t, exec (.blindConvergeDone n none) s = .next t ∧ s.only [.reg .SPLC_STAT] [.splice] t ∧
          t.splState n = 7) ∧
      (s.inState n 7 = true → ∃ t, exec (.pilotLockDone n none) s = .next t ∧ s.only (eventTouch.append [.reg .HLYD_EVT,
          .reg .HLYD_STAT, .reg .HLYD_REF_ST, .reg .HLYD_HO, .reg .SPLC_STAT, .reg .SPLC_EST, .reg .SPLC_EST2, .reg .SPLC_EVT,
              .reg .SPLC_SC_EST, .reg .SPLC_SC_HIST, .reg .SPLC_CHAN, .reg .CLET_STAT, .reg .CLET_EVT]) (eventParts.append [.splice,
              .halyard, .cleat]) t ∧
        t.on .SPLC_EVT_ACQ_DONE n = true ∧ t.splState n = (if s.on .SPLC_CMD_FREEZE n then 9 else 8) ∧
        (s.on .SPLC_CMD_FREEZE n = false → ∀ f ∈ s.lit n, t.on .SPLC_SC_EST_LOCK n f = true))) ∧
  (∀ (s : State) (n : Line) (f : Slot), s.alive 10 = true →
      (s.subIn n f 6 = true → ∃ t, exec (.blindConvergeDone n (some f)) s = .next t ∧ s.only [.reg .SPLC_STAT] [.splice] t ∧
        (t.spl n).restarting.get 0 f = 7 ∧ t.splState n = 8) ∧
      (s.subIn n f 7 = true → ∃ t, exec (.pilotLockDone n (some f)) s = .next t ∧ s.only (eventTouch.append [.reg .HLYD_EVT,
          .reg .HLYD_STAT, .reg .HLYD_REF_ST, .reg .HLYD_HO, .reg .SPLC_STAT, .reg .SPLC_EST, .reg .SPLC_EST2, .reg .SPLC_EVT,
              .reg .SPLC_SC_EST, .reg .SPLC_SC_HIST, .reg .SPLC_CHAN, .reg .CLET_STAT, .reg .CLET_EVT]) (eventParts.append [.splice,
              .halyard, .cleat]) t ∧
        (t.spl n).restarting.get 0 f = 0 ∧ t.on .SPLC_SC_EST_LOCK n f = true) ∧
      (s.subIn n f 6 = true ∨ s.subIn n f 7 = true → ∃ t, exec (.acqBoundExpiry n (some f)) s = .next t ∧
          s.only (eventTouch.append [.reg .HLYD_EVT, .reg .HLYD_STAT, .reg .HLYD_REF_ST, .reg .HLYD_HO, .reg .SPLC_STAT,
              .reg .SPLC_EST, .reg .SPLC_EST2, .reg .SPLC_EVT, .reg .SPLC_SC_EST, .reg .SPLC_SC_HIST,
              .reg .SPLC_CHAN]) (eventParts.append [.splice, .halyard]) t ∧
        (t.spl n).restarting.get 0 f = 6 ∧ t.on .SPLC_SC_EST_LOCK n f = false ∧
        t.rd .SPLC_SC_HIST_RESTARTS n f = min 65535 (s.rd .SPLC_SC_HIST_RESTARTS n f + 1))) ∧
  (∀ (s : State) (n : Line), s.alive 10 = true → (s.spl n).halted = false → 3 ≤ s.splState n → s.splState n ≤ 7 →
      ∃ t, exec (.acqBoundExpiry n none) s = .next t ∧ s.only (eventTouch.append [.reg .HLYD_EVT, .reg .HLYD_STAT, .reg .HLYD_REF_ST,
          .reg .HLYD_HO, .reg .SPLC_STAT, .reg .SPLC_EST, .reg .SPLC_EST2, .reg .SPLC_EVT, .reg .SPLC_SC_EST, .reg .SPLC_SC_HIST,
              .reg .SPLC_CHAN]) (eventParts.append [.splice, .halyard]) t ∧
      t.splState n = (if s.on .SPLC_STAT_RAW_LOS n then 1 else 3) ∧
      t.rd .SPLC_EST2_LINE_RESTARTS n = min 65535 (s.rd .SPLC_EST2_LINE_RESTARTS n + 1) ∧
      ((s.spl n).warm = true → t.on .SPLC_EVT_COLD n = true) ∧
      ((s.spl n).warm = false → (s.splState n = 3 → t.on .SPLC_EVT_FOFF_RANGE n = true) ∧
        (s.splState n = 4 ∨ s.splState n = 5 → t.on .SPLC_EVT_CD_FAIL n = true) ∧
        (s.splState n = 7 → t.on .SPLC_EVT_DIVERGED n = true))) ∧
  (∀ (s : State) (n : Line) (power : Nat) (pin viaPin : Bool), s.alive 10 = true → s.splState n ≠ 0 →
      (s.splState n ≠ 2 ∨ (s.str n).adcFailed = false) → viaPin = (pin && s.on .SPLC_LINE_CFG_LOS_PIN_EN n) →
      ∃ t, exec (.rawLosWindow n power pin) s = .next t ∧ s.only (eventTouch.append [.reg .TOP_FAULT, .reg .HLYD_EVT, .reg .HLYD_STAT,
          .reg .HLYD_REF_ST, .reg .HLYD_HO, .reg .SPLC_STAT, .reg .SPLC_EST, .reg .SPLC_EST2, .reg .SPLC_EVT, .reg .SPLC_SC_EST,
              .reg .SPLC_SC_HIST, .reg .SPLC_CHAN, .reg .HTCH_DEF, .reg .HTCH_DEF_STK, .reg .HTCH_EVT, .reg .SEIZ_KC_ST,
              .reg .BEND_EVT, .reg .BEND_PG_STAT, .reg .BEND_PATH_ST, .reg .SHET_CLI_STAT, .reg .SHET_CLI_EVT,
              .reg .SHET_CNT]) (eventParts.append [.pins, .boot, .splice, .halyard, .clients, .groups, .kcs, .hitch]) t ∧
              t.on .SPLC_STAT_LOS_PIN n = pin ∧
      t.pins.losIn.get false n = pin ∧
      (s.on .SPLC_STAT_RAW_LOS n = false → (s.rd .SPLC_LINE_CFG_LOS_THR n < power ∨ viaPin = true) →
        t.on .SPLC_STAT_RAW_LOS n = true ∧ (s.lineMode n ≠ 2 → t.on .HTCH_DEF_LOS n = true) ∧ t.on .SPLC_EVT_LOS_RISE n = true ∧
        (s.splState n = 8 → t.splState n = 9 ∧ t.on .SPLC_STAT_FROZEN n = true ∧ t.on .SPLC_STAT_WARM_PEND n = true) ∧
        (s.splState n = 7 → (s.spl n).thawed = true → t.splState n = 9 ∧ t.on .SPLC_STAT_WARM_PEND n = true) ∧
        (3 ≤ s.splState n → s.splState n ≤ 7 → (s.splState n = 7 → (s.spl n).thawed = false) → t.splState n = 1)) ∧
      (s.on .SPLC_STAT_RAW_LOS n = true → power + s.rd .SPLC_LINE_CFG_LOS_HYST n ≤ s.rd .SPLC_LINE_CFG_LOS_THR n → viaPin = false →
        t.on .SPLC_STAT_RAW_LOS n = false ∧ t.on .HTCH_DEF_LOS n = false ∧ (s.splState n = 1 → t.splState n = 3) ∧
        (s.splState n = 9 → s.on .SPLC_CMD_FREEZE n = false → s.on .SPLC_STAT_WARM_PEND n = true → t.splState n = 7 ∧
            (t.spl n).warm = true)) ∧
      (s.on .SPLC_STAT_RAW_LOS n = true → (s.rd .SPLC_LINE_CFG_LOS_THR n < power + s.rd .SPLC_LINE_CFG_LOS_HYST n ∨ viaPin = true) →
        t.on .SPLC_STAT_RAW_LOS n = true ∧ t.splState n = s.splState n) ∧
      (s.on .SPLC_STAT_RAW_LOS n = false → power ≤ s.rd .SPLC_LINE_CFG_LOS_THR n → viaPin = false →
        t.on .SPLC_STAT_RAW_LOS n = false ∧ t.splState n = s.splState n)) ∧
  (∀ (s : State) (n : Line), s.alive 10 = true → s.splState n = 9 → s.on .SPLC_STAT_WARM_PEND n = true →
      (∃ t, exec (.freezeHoldExpiry n true) s = .next t ∧ s.only (eventTouch.append [.reg .TOP_FAULT, .reg .HLYD_EVT, .reg .HLYD_STAT,
          .reg .HLYD_REF_ST, .reg .HLYD_HO, .reg .SPLC_STAT, .reg .SPLC_EST, .reg .SPLC_EST2, .reg .SPLC_EVT, .reg .SPLC_SC_EST,
              .reg .SPLC_SC_HIST, .reg .SPLC_CHAN, .reg .HTCH_DEF, .reg .HTCH_DEF_STK, .reg .HTCH_EVT, .reg .SEIZ_KC_ST,
              .reg .BEND_EVT, .reg .BEND_PG_STAT, .reg .BEND_PATH_ST, .reg .SHET_CLI_STAT, .reg .SHET_CLI_EVT,
              .reg .SHET_CNT]) (eventParts.append [.boot, .splice, .halyard, .clients, .groups, .kcs, .hitch]) t ∧
              t.on .SPLC_STAT_RAW_LOS n = false ∧
        (s.on .SPLC_CMD_FREEZE n = false → t.splState n = 7 ∧ (t.spl n).warm = true) ∧
        (s.on .SPLC_CMD_FREEZE n = true → t.splState n = 9)) ∧
      ∃ t, exec (.freezeHoldExpiry n false) s = .next t ∧ s.only (eventTouch.append [.reg .TOP_FAULT, .reg .HLYD_EVT, .reg .HLYD_STAT,
          .reg .HLYD_REF_ST, .reg .HLYD_HO, .reg .SPLC_STAT, .reg .SPLC_EST, .reg .SPLC_EST2, .reg .SPLC_EVT, .reg .SPLC_SC_EST,
              .reg .SPLC_SC_HIST, .reg .SPLC_CHAN, .reg .HTCH_DEF, .reg .HTCH_DEF_STK, .reg .HTCH_EVT, .reg .SEIZ_KC_ST,
              .reg .BEND_EVT, .reg .BEND_PG_STAT, .reg .BEND_PATH_ST, .reg .SHET_CLI_STAT, .reg .SHET_CLI_EVT,
              .reg .SHET_CNT]) (eventParts.append [.boot, .splice, .halyard, .clients, .groups, .kcs, .hitch]) t ∧
      (s.on .SPLC_CMD_FREEZE n = false → t.on .SPLC_EVT_COLD n = true ∧ t.splState n = (if s.on .SPLC_STAT_RAW_LOS n then 1 else 3)) ∧
      (s.on .SPLC_CMD_FREEZE n = true → (t.spl n).coldDue = true ∧ t.on .SPLC_STAT_WARM_PEND n = false ∧ t.splState n = 9)) ∧
  (∀ (s : State) (req : Requester) (n : Line), s.mayWrite req 10 1 (s.lineDom n) →
      (s.on .SPLC_CMD_FREEZE n = false → ∃ t, exec (.freeze req n) s = .next t ∧ s.only (eventTouch.append [.reg .MRLN_NV_EVT,
          .reg .MRLN_NV_ST, .reg .HLYD_EVT, .reg .HLYD_STAT, .reg .HLYD_REF_ST, .reg .HLYD_HO, .reg .SPLC_CMD, .reg .SPLC_STAT,
              .reg .SPLC_EST, .reg .SPLC_EST2, .reg .SPLC_EVT, .reg .SPLC_SC_EST, .reg .SPLC_SC_HIST,
              .reg .SPLC_CHAN]) (eventParts.append [.latches, .journal, .splice, .halyard]) t ∧ t.on .SPLC_CMD_FREEZE n = true ∧
        (s.splState n = 8 → t.splState n = 9) ∧
        (s.splState n = 7 → (s.spl n).thawed = true → t.splState n = 9) ∧
        (3 ≤ s.splState n → s.splState n ≤ 7 → (s.splState n = 7 → (s.spl n).thawed = false) →
          (t.spl n).halted = true ∧ t.splState n = s.splState n)) ∧
      (s.on .SPLC_CMD_FREEZE n = true → ∃ t, exec (.unfreeze req n) s = .next t ∧ s.only (eventTouch.append [.reg .MRLN_NV_EVT,
          .reg .MRLN_NV_ST, .reg .HLYD_EVT, .reg .HLYD_STAT, .reg .HLYD_REF_ST, .reg .HLYD_HO, .reg .SPLC_CMD, .reg .SPLC_STAT,
              .reg .SPLC_EST, .reg .SPLC_EST2, .reg .SPLC_EVT, .reg .SPLC_SC_EST, .reg .SPLC_SC_HIST,
              .reg .SPLC_CHAN]) (eventParts.append [.latches, .journal, .splice, .halyard]) t ∧
        t.on .SPLC_CMD_FREEZE n = false ∧
        (s.splState n ≠ 9 → (t.spl n).halted = false ∧ t.splState n = s.splState n) ∧
        (s.splState n = 9 → (s.spl n).coldDue = true → t.on .SPLC_EVT_COLD n = true) ∧
        (s.splState n = 9 → (s.spl n).coldDue = false → s.on .SPLC_STAT_RAW_LOS n = true → t.on .SPLC_STAT_WARM_PEND n = true ∧
            t.splState n = 9) ∧
        (s.splState n = 9 → (s.spl n).coldDue = false → s.on .SPLC_STAT_RAW_LOS n = false → t.splState n = 7 ∧ (t.spl n).warm = true)) ∧
      ∃ t, exec (.reacq req n) s = .next t ∧ s.only (eventTouch.append [.reg .MRLN_NV_EVT, .reg .MRLN_NV_ST, .reg .HLYD_EVT,
          .reg .HLYD_STAT, .reg .HLYD_REF_ST, .reg .HLYD_HO, .reg .SPLC_CMD, .reg .SPLC_STAT, .reg .SPLC_EST, .reg .SPLC_EST2,
              .reg .SPLC_EVT, .reg .SPLC_SC_EST, .reg .SPLC_SC_HIST, .reg .SPLC_CHAN]) (eventParts.append [.latches, .journal,
              .splice, .halyard]) t ∧ t.on .SPLC_CMD_FREEZE n = s.on .SPLC_CMD_FREEZE n ∧
        (3 ≤ s.splState n → t.on .SPLC_EVT_COLD n = true ∧ t.splState n = (if s.on .SPLC_STAT_RAW_LOS n then 1 else 3)) ∧
        (s.splState n < 3 → t.splState n = s.splState n)) ∧
  (∀ (s : State) (n : Line) (f : Slot) (majority : Bool), s.alive 10 = true → s.tracking n = true → (s.lit n).contains f.val = true →
      (s.spl n).restarting.get 0 f = 0 → ∃ t, exec (.subcarrierDiverge n f majority) s = .next t ∧
          s.only (eventTouch.append [.reg .HLYD_EVT, .reg .HLYD_STAT, .reg .HLYD_REF_ST, .reg .HLYD_HO, .reg .SPLC_STAT,
              .reg .SPLC_EST, .reg .SPLC_EST2, .reg .SPLC_EVT, .reg .SPLC_SC_EST, .reg .SPLC_SC_HIST,
              .reg .SPLC_CHAN]) (eventParts.append [.splice, .halyard]) t ∧
      t.on .SPLC_EVT_DIVERGED n = true ∧ t.rd .SPLC_SC_HIST_RESTARTS n f = min 65535 (s.rd .SPLC_SC_HIST_RESTARTS n f + 1) ∧
      t.on .SPLC_SC_EST_LOCK n f = false ∧ (majority = false → (t.spl n).restarting.get 0 f = 6 ∧ t.splState n = 8) ∧
      (majority = true → t.on .SPLC_EVT_COLD n = true ∧ t.splState n = (if s.on .SPLC_STAT_RAW_LOS n then 1 else 3)))

/-- At the fixed multiframe an armed table takes effect if the marker is locked, and is disarmed otherwise. Fallback returns the receiver to its start table. A foreground calibration of the ADCs runs unless the line is Off or Tracking, and its success leads on to Wait-signal. A modulation frame shows over-range and gains or counts markers; three missed ones lose the lock. In Tracking a lit subcarrier shows its tap demand and its estimates, and a phase slip is counted; outside it only the carrier offset is looked at and over-range is shown. The response buffers swap, where the model reads 0x8080 for what is dark (log entry 14). A change of overhead loads the start table. -/
def Obligations.ReceiveTablesAndEstimates : Prop :=
  (∀ (s : State) (n : Line), s.alive 10 = true → (s.spl n).armState = 1 → (s.spl n).switchIn ≠ 0 →
      ∃ t, exec (.rxTableSwitch n) s = .next t ∧ s.only (eventTouch.append [.reg .TOP_FAULT, .reg .BRAD_LOAD_STAT, .reg .SPLC_STAT,
          .reg .SPLC_EVT, .reg .HTCH_STAT, .reg .SEIZ_KC_ST, .reg .BEND_EVT, .reg .BEND_PG_STAT, .reg .BEND_PATH_ST,
              .reg .SHET_CLI_STAT, .reg .SHET_CLI_EVT, .reg .SHET_CNT]) (eventParts.append [.boot, .splice, .clients, .groups,
              .kcs]) t ∧ t.on .SPLC_STAT_ARMED n = false ∧ (t.spl n).armState = 0 ∧
      (s.on .SPLC_STAT_MF_LOCK n = true → (t.spl n).table = (s.spl n).standby ∧ t.rd .SPLC_STAT_ACTIVE_ID n = (s.spl n).armId % 16 ∧
        t.on .SPLC_EVT_SWITCHED n = true) ∧
      (s.on .SPLC_STAT_MF_LOCK n = false → (t.spl n).table = (s.spl n).table ∧
        t.rd .SPLC_STAT_ACTIVE_ID n = s.rd .SPLC_STAT_ACTIVE_ID n)) ∧
  (∀ (s : State) (n : Line), s.alive 10 = true → s.loads n = true → (s.on .HTCH_STAT_OOF n = true ∨ s.on .HTCH_STAT_OOM n = true) →
      ∃ t, exec (.rxFallback n) s = .next t ∧ s.only (eventTouch.append [.reg .TOP_FAULT, .reg .BRAD_LOAD_STAT, .reg .SPLC_STAT,
          .reg .HTCH_STAT, .reg .SEIZ_KC_ST, .reg .BEND_EVT, .reg .BEND_PG_STAT, .reg .BEND_PATH_ST, .reg .SHET_CLI_STAT,
              .reg .SHET_CLI_EVT, .reg .SHET_CNT]) (eventParts.append [.boot, .splice, .clients, .groups, .kcs]) t ∧
              (t.spl n).table = s.rxStart n ∧
      t.rd .SPLC_STAT_ACTIVE_ID n = 0 ∧ t.on .BRAD_LOAD_STAT_RX_FALLBACK n = true) ∧
  (∀ (s : State) (req : Requester) (n : Line), s.mayWrite req 8 1 (s.lineDom n) → s.rd .STRD_ADC_CAL_FG_STATE n ≠ 1 →
      ∃ t, exec (.adcFgReq req n) s = .next t ∧ s.only (eventTouch.append [.reg .MRLN_NV_EVT, .reg .MRLN_NV_ST, .reg .HLYD_EVT,
          .reg .HLYD_STAT, .reg .HLYD_REF_ST, .reg .HLYD_HO, .reg .STRD_ADC_CAL, .reg .SPLC_STAT, .reg .SPLC_EST, .reg .SPLC_EST2,
              .reg .SPLC_SC_EST, .reg .SPLC_SC_HIST, .reg .SPLC_CHAN]) (eventParts.append [.latches, .journal, .splice, .halyard]) t ∧
      (s.lineMode n ≠ 0 → s.tracking n = false → t.rd .STRD_ADC_CAL_FG_STATE n = 1 ∧ t.on .STRD_ADC_CAL_FG_REQ n = true ∧
        t.splState n = (if s.lineMode n = 2 then s.splState n else 2)) ∧
      (s.lineMode n = 0 ∨ s.tracking n = true → t.on .STRD_ADC_CAL_FG_REFUSED n = true ∧ t.on .STRD_ADC_CAL_FG_REQ n = false ∧
        t.rd .STRD_ADC_CAL_FG_STATE n = s.rd .STRD_ADC_CAL_FG_STATE n ∧ t.splState n = s.splState n)) ∧
  (∀ (s : State) (n : Line) (ok : Bool) (tr : Trib) (cal : List (List Calib)), s.alive 8 = true → s.rd .STRD_ADC_CAL_FG_STATE n = 1 →
      ∃ t, exec (.adcFgCalDone n ok tr cal) s = .next t ∧ s.only (eventTouch.append [.reg .TOP_MODE_STAT, .reg .TOP_FAULT,
          .reg .HLYD_EVT, .reg .HLYD_STAT, .reg .HLYD_REF_ST, .reg .HLYD_HO, .reg .STRD_ADC_CAL, .reg .STRD_EVT, .reg .SPLC_STAT,
              .reg .SPLC_EST, .reg .SPLC_EST2, .reg .SPLC_EVT, .reg .SPLC_SC_EST, .reg .SPLC_SC_HIST, .reg .SPLC_CHAN, .reg .HTCH_DEF,
              .reg .HTCH_DEF_STK, .reg .HTCH_EVT, .reg .SEIZ_KC_ST, .reg .BEND_EVT, .reg .BEND_PG_STAT, .reg .BEND_PATH_ST,
              .reg .SHET_CLI_STAT, .reg .SHET_CLI_EVT, .reg .SHET_CNT]) (eventParts.append [.boot, .strand, .splice, .halyard,
              .clients, .groups, .kcs, .hitch]) t ∧
      t.rd .STRD_ADC_CAL_FG_STATE n = (if ok then 2 else 3) ∧ t.on .STRD_ADC_CAL_FG_REQ n = false ∧
      (ok = true → (∀ k < 4, (t.str n).adc.get [] k = cal.getD k []) ∧ (t.str n).adcFailed = false ∧
        (t.str n).history = (true, 3, cal.getD 3 []) :: (true, 2, cal.getD 2 []) :: (true, 1, cal.getD 1 []) ::
          (true, 0, cal.getD 0 []) :: (s.str n).history) ∧
      (ok = true → s.splState n = 2 → t.splState n = (if s.on .SPLC_STAT_RAW_LOS n then 1 else 3)) ∧
      (ok = false → t.on .STRD_EVT_ADC_FG_FAIL = true ∧ t.splState n = s.splState n ∧ (t.str n).adcFailed = true ∧
        (s.splState n = 2 → t.on .SPLC_STAT_RAW_LOS n = true ∧ (s.lineMode n ≠ 2 → t.on .HTCH_DEF_LOS n = true)))) ∧
  (∀ (s : State) (n : Line) (tr : Trib) (c need move due : List Calib), s.alive 8 = true → s.lineMode n ≠ 0 →
      s.on .STRD_ADC_CAL_BG_EN n = true → need = calSum true ((s.str n).adcRest.get [] tr) c → move = calMove true need →
      due = calSum true ((s.str n).adcDue.get [] tr) move →
      ∃ t, exec (.adcBgCalUpdate n tr c) s = .next t ∧ s.only (eventTouch.append [.reg .STRD_EVT]) (eventParts.append [.strand]) t ∧
      (t.str n).adcDue.get [] tr = due ∧ (t.str n).adcRest.get [] tr = calRest true need move ∧
      (t.str n).history = (true, tr.val, calSum true ((s.str n).adc.get [] tr) due) :: (s.str n).history ∧
      (calZero (calRest true need move) = false → calZero ((s.str n).adcRest.get [] tr) = true → t.on .STRD_EVT_ADC_STEP = true)) ∧
  (∀ (s : State) (n : Line) (above marker : Bool), s.alive 10 = true → s.lineNative n = true → s.lineMode n ≠ 2 →
      ∃ t, exec (.modulationFrame n above marker) s = .next t ∧ s.only (eventTouch.append [.reg .SPLC_STAT, .reg .SPLC_EVT,
          .reg .SPLC_SC_EST, .reg .CLET_STAT, .reg .CLET_SC_STAT]) (eventParts.append [.strand, .braid, .splice, .bight, .cleat]) t ∧
      t.on .SPLC_STAT_OVR n = (above && !s.on .SPLC_STAT_RAW_LOS n) ∧
      (s.on .SPLC_STAT_MF_LOCK n = false → marker = true → 255 ∈ (s.spl n).seen → t.on .SPLC_STAT_MF_LOCK n = true ∧
          (t.spl n).phase = 0) ∧
      (s.on .SPLC_STAT_MF_LOCK n = true → t.on .SPLC_STAT_MF_LOCK n = true ∧ (t.spl n).phase = ((s.spl n).phase + 1) % 256 ∧
        (((s.spl n).phase + 1) % 256 = 0 → marker = false → (t.spl n).missed = (s.spl n).missed + 1))) ∧
  (∀ (s : State) (n : Line), s.alive 10 = true → s.on .SPLC_STAT_MF_LOCK n = true → 3 ≤ (s.spl n).missed →
      ∃ t, exec (.markerLost n) s = .next t ∧ s.only (eventTouch.append [.reg .SPLC_STAT,
          .reg .SPLC_EVT]) (eventParts.append [.splice]) t ∧ t.on .SPLC_STAT_MF_LOCK n = false ∧
      t.on .SPLC_EVT_MARKER_LOST n = true ∧ (t.spl n).missed = 0) ∧
  (∀ (s : State) (n : Line) (f : Slot) (demand : Nat), s.alive 10 = true → ∃ t, exec (.tapDemandReport n f demand) s = .next t ∧
      s.only [.reg .SPLC_SC_EST] [] t ∧
      ((s.lit n).contains f.val = true → s.tracking n = true → t.rd .SPLC_SC_EST_DEMAND n f = max 3 (min 63 (oddUp demand))) ∧
      (s.tracking n = false → t = s)) ∧
  (∀ (s : State) (n : Line) (est : Estimate), s.alive 10 = true → ∃ t, exec (.estimateRefresh n est) s = .next t ∧
      s.only (eventTouch.append [.reg .SPLC_EST, .reg .SPLC_EST2, .reg .SPLC_EVT, .reg .SPLC_SC_EST,
          .reg .SPLC_SC_HIST]) (eventParts.append [.splice]) t ∧
      (∀ (f : Slot) (x y c : Nat), est = .snr f x y c → s.tracking n = true → (s.lit n).contains f.val = true →
        t.rd .SPLC_SC_EST_SNR n f = (if (s.spl n).restarting.get 0 f = 0 ∧ f.val ∉ (s.spl n).broken then min 254 c else 255) ∧
        ((s.spl n).restarting.get 0 f = 0 → f.val ∉ (s.spl n).broken → t.rd .SPLC_SC_EST_SNR_X n f = min 254 x ∧
          t.rd .SPLC_SC_EST_SNR_Y n f = min 254 y)) ∧
      (∀ v, est = .cd v → s.tracking n = true → t.rd .SPLC_EST_CD n = ranged 20000 v) ∧
      (∀ v, est = .foff v → s.tracking n = true → t.rd .SPLC_EST_FOFF n = ranged 28800 v) ∧
      (∀ v guard, est = .osnr v guard → s.tracking n = true →
        t.rd .SPLC_EST_OSNR n = (if guard = true ∧ s.hasDark n = false then 4095 else min 4095 v)) ∧
      (est = .overCount → t.rd .SPLC_EST2_OVR_CNT n = min 65535 (s.spl n).above ∧ (t.spl n).above = 0) ∧
      (s.tracking n = false → (∀ v, est ≠ .foff v) → est ≠ .overCount → t = s)) ∧
  (∀ (s : State) (n : Line) (values : List (Nat × Nat)), s.alive 10 = true → s.splState n ≠ 0 →
      ∃ t, exec (.chanSwap n values) s = .next t ∧ s.only [.reg .SPLC_STAT, .reg .SPLC_CHAN] [] t ∧
      t.rd .SPLC_STAT_CHAN_SEQ n = (s.rd .SPLC_STAT_CHAN_SEQ n + 1) % 256 ∧
      ∀ e : Fin 512, (s.tracking n = true → s.rxCovers n (e.val / 16) = true → t.rd .SPLC_CHAN_X n e = (values.getD e (128,
          128)).1 % 256 ∧
          t.rd .SPLC_CHAN_Y n e = (values.getD e (128, 128)).2 % 256) ∧
        (s.tracking n = false ∨ s.rxCovers n (e.val / 16) = false → t.reg .SPLC_CHAN n e = 0x8080)) ∧
  (∀ (s : State) (n : Line), s.alive 10 = true → s.tracking n = true → ∃ t, exec (.phaseSlip n) s = .next t ∧
      s.only [.reg .FTHM_SLIP] [] t ∧
      t.rd .FTHM_SLIP_COUNT n = (s.rd .FTHM_SLIP_COUNT n + 1) % 2 ^ 48) ∧
  (∀ (s : State) (n : Line), s.alive 12 = true → (s.clt n).rxDue = true → ∃ t, exec (.ohSwitchRx n) s = .next t ∧
      s.only (eventTouch.append [.reg .TOP_FAULT, .reg .SPLC_STAT, .reg .HTCH_STAT, .reg .SEIZ_KC_ST, .reg .BEND_EVT,
          .reg .BEND_PG_STAT, .reg .BEND_PATH_ST, .reg .SHET_CLI_STAT, .reg .SHET_CLI_EVT, .reg .SHET_CNT]) (eventParts.append [.boot,
              .splice, .cleat, .clients, .groups, .kcs]) t ∧
      (t.clt n).rxOh = s.rd .CLET_LINE_CFG_OH n ∧ (t.clt n).rxDue = false ∧
      (s.loads n = true → t.rd .SPLC_STAT_ACTIVE_ID n = 0 ∧ t.on .SPLC_STAT_ARMED n = false ∧ (t.spl n).table = s.rxStart n))

/-- On a Hub line a period advances hub time and makes its map due. A completed map is of the period MAP_LEAD ahead, keeps the grants made before, and ends each normal burst within its period. A control block leaves while the control subcarrier stands. A discovery cycle renews the ranging attempts and, with DISC_ON and a leaf to find, makes the invitations due. An Active leaf not heard for longer than STALE_S is Stale; in the period in which STALE_S ends, the end of the period decides. The evaluations put the averages in front of the past ones; a downstream change takes effect at its period, not before, and never on the control subcarrier. -/
def Obligations.HubTimeMapsAndProfiles : Prop :=
  (∀ (s : State) (n : Line), s.alive 11 = true →
      (s.lineMode n = 2 → ∃ t, exec (.periodStart n) s = .next t ∧ s.only (eventTouch.append [.reg .BGHT_STAT, .reg .BGHT_EVT,
          .reg .BGHT_LEAF_ST, .reg .SHET_CLI_STAT, .reg .SHET_CLI_EVT, .reg .SHET_CNT]) (eventParts.append [.bight, .clients]) t ∧
              (t.bgt n).clock = (s.bgt n).clock + 1 ∧
        (t.bgt n).mapDue = true ∧ t.rd .BGHT_STAT_PERIOD n = ((s.bgt n).clock + 1) % 2 ^ 22) ∧
      (s.lineMode n ≠ 2 → exec (.periodStart n) s = .next s)) ∧
  (∀ (s : State) (n : Line), s.alive 11 = true → s.lineMode n = 2 → (s.bgt n).mapDue = true → ∃ t, exec (.mapComplete n) s = .next t ∧
      s.only [.reg .BGHT_LEAF_ST] [.bight] t ∧ (t.bgt n).mapDue = false ∧
      (∃ l, (t.bgt n).grants = (s.bgt n).grants ++ l ∧ ∀ g ∈ l, g.period = (s.bgt n).clock + s.rd .BGHT_LINE_CFG_MAP_LEAD n ∧
        (g.ranging = false → g.start + g.len ≤ 15625))) ∧
  (∀ (s : State) (n : Line) (offset : Nat), s.alive 11 = true →
      (s.on .BGHT_STAT_CTRL_OK n = true → ∃ t b, exec (.controlBlock n offset) s = .next t ∧ s.only [] [.inflight, .bight, .out] t ∧
        t.out.head? = some (.controlBlock n.val b) ∧ (t.bgt n).blockSeq = (s.bgt n).blockSeq + 1 ∧
        b.take 8 = leBytes 6 (s.rd .BGHT_STAT_PERIOD n * 2 ^ 26 + offset % 2 ^ 26) ++ leBytes 2 (s.bgt n).blockSeq ∧
        (t.bgt n).ctrlSyms = (s.bgt n).ctrlSyms ++ controlPairs (trellisEncode (b.flatMap fun v => (List.range 8).map fun i =>
            v.getLsbD i))) ∧
      (s.on .BGHT_STAT_CTRL_OK n = false → exec (.controlBlock n offset) s = .next s)) ∧
  (∀ (s : State) (n : Line), s.alive 11 = true → s.lineMode n = 2 → ∃ t, exec (.discoveryCycle n) s = .next t ∧
      s.only [.reg .BGHT_LEAF_ST] [.bight] t ∧ (t.bgt n).ranged = [] ∧ (∀ i ∈ s.leavesOn n, i < 256 →
          t.rd .BGHT_LEAF_ST_RNG_TRIES n i = 0) ∧
      (s.on .BGHT_DISC_CFG_DISC_ON n = false → (t.bgt n).discDue = (s.bgt n).discDue) ∧
      (∀ i ∈ s.leavesOn n, s.on .BGHT_DISC_CFG_DISC_ON n = true → s.leafState n i = 0 → (t.bgt n).discDue = true)) ∧
  (∀ (s : State) (n : Line) (i : Leaf), s.alive 11 = true →
      (8000 * s.rd .BGHT_DISC_CFG_STALE_S n < (s.leaf n i).heard → s.leafState n i = 2 →
        ∃ t, exec (.staleTimeout n i) s = .next t ∧ s.only (eventTouch.append [.reg .BGHT_STAT, .reg .BGHT_EVT, .reg .BGHT_LEAF_ST,
            .reg .SHET_CLI_STAT, .reg .SHET_CLI_EVT, .reg .SHET_CNT]) (eventParts.append [.bight, .clients]) t ∧
                t.leafState n i = 3 ∧ t.on .BGHT_EVT_STALE n = true) ∧
      ((s.leaf n i).heard = 8000 * s.rd .BGHT_DISC_CFG_STALE_S n →
        ∃ t, exec (.staleTimeout n i) s = .next t ∧ s.only (eventTouch.append [.reg .BGHT_STAT, .reg .BGHT_EVT, .reg .BGHT_LEAF_ST,
            .reg .SHET_CLI_STAT, .reg .SHET_CLI_EVT, .reg .SHET_CNT]) (eventParts.append [.bight, .clients]) t ∧
                (t.leaf n i).staleDue = true ∧
          t.leafState n i = s.leafState n i) ∧
      ((s.leaf n i).heard < 8000 * s.rd .BGHT_DISC_CFG_STALE_S n → exec (.staleTimeout n i) s = .next s)) ∧
  (∀ (s : State) (n : Line) (i : Leaf), s.alive 11 = true → s.lineMode n = 2 → s.leafState n i = 2 →
      ∃ t, exec (.upProfileEvaluation n i) s = .next t ∧ s.only [] [.bight] t ∧ (t.leaf n i).sum = (0, 0) ∧
      (t.leaf n i).past = ((s.leaf n i).sum :: (s.leaf n i).past).take (s.dwellCount n) ∧ (t.leaf n i).prof = (s.leaf n i).prof ∧
      ((s.leaf n i).sum.2 = 0 → (t.leaf n i).profDue = (s.leaf n i).profDue)) ∧
  (∀ (s : State) (n : Line) (f : Slot), s.alive 11 = true → s.lineMode n = 2 → s.rd .BRAD_SC_CFG_WIDTH n f ≠ 0 →
      f.val ≠ s.rd .BGHT_LINE_CFG_CTRL_SLOT n → ∃ t, exec (.dnLoadingEvaluation n f) s = .next t ∧
          s.only (eventTouch.append [.reg .BRAD_LOAD_EVT]) (eventParts.append [.braid, .bight]) t ∧
      (t.bgt n).dnPast.get [] f = (((s.dnAverage n f).getD (0, 0)) :: (s.bgt n).dnPast.get [] f).take (s.dwellCount n) ∧
      (∀ i ∈ s.leavesOn n, s.rd .BGHT_LEAF_DN_SC n i = f → (t.leaf n i).dnSum = (0, 0)) ∧
      (s.dnAverage n f = none → (t.bgt n).dnDue = (s.bgt n).dnDue)) ∧
  (∀ (s : State) (n : Line) (f : Slot) (k base ent from_ : Nat), s.alive 11 = true →
      ((s.bgt n).dnDue.find? fun e => e.1 == f.val) = some (k, base, ent, from_) →
      (from_ ≤ (s.bgt n).clock → f.val ≠ s.rd .BGHT_LINE_CFG_CTRL_SLOT n → ∃ t, exec (.dnLoadSwitch n f) s = .next t ∧
          s.only (eventTouch.append [.reg .BRAD_LOAD_EVT, .reg .BRAD_SC_ACT, .reg .HTCH_STAT,
              .reg .HTCH_EVT]) (eventParts.append [.bight]) t ∧
        t.rd .BRAD_SC_ACT_BASE n f = base % 4 ∧ t.rd .BRAD_SC_ACT_ENT n f = ent % 128 ∧ t.on .BRAD_LOAD_EVT_SWITCHED n = true ∧
        ((t.bgt n).dnDue.find? fun e => e.1 == f.val) = none) ∧
      (from_ ≤ (s.bgt n).clock → f.val = s.rd .BGHT_LINE_CFG_CTRL_SLOT n → ∃ t, exec (.dnLoadSwitch n f) s = .next t ∧
        s.only (eventTouch.append [.reg .BRAD_LOAD_EVT, .reg .BRAD_SC_ACT, .reg .HTCH_STAT,
            .reg .HTCH_EVT]) (eventParts.append [.bight]) t ∧ t.rd .BRAD_SC_ACT_ENT n f = s.rd .BRAD_SC_ACT_ENT n f) ∧
      ((s.bgt n).clock < from_ → exec (.dnLoadSwitch n f) s = .next s))

/-- A window opens for a grant or a discovery, from the state stored for the leaf, and a peak above its threshold gives a provisional lock, or a stronger one of the other correlator replaces it; a late one is only counted. The end marker confirms the lock or drops it, and the header either drops it or confirms it: the leaf has been heard, and a ranged leaf becomes Active. In a confirmed lock a power rise with a peak is a collision, one alone an overlap. A burst's end stores its offset, power and state. A window that closes without a header counts a missed grant, the eighth of an Active or Stale leaf loses it, and the third failed ranging attempt of a cycle returns a leaf to Undiscovered. A disabled leaf is not answered. A burst under an unknown profile is discarded and the leaf returns to its start profile; any other of three blocks or more is decoded under the grant and passed to Hitch. -/
def Obligations.BurstAcquisition : Prop :=
  (∀ (s : State) (n : Line) (f : Slot), s.alive 11 = true → s.lineMode n = 2 → s.rd .BGHT_UP_CFG_WIDTH n f ≠ 0 →
      (∀ (i : Leaf) (g : BurstGrant), ((s.bgt n).grants.find? fun g => g.leaf == i.val && g.sub == f.val) = some g →
        ∃ t, exec (.detectionWindowOpen n f (some i)) s = .next t ∧ s.only [.reg .BGHT_STAT] [.bight] t ∧
        (t.up n f).lock = (if (s.up n f).lock = 2 then 2 else 0) ∧ (t.bgt n).grants = (s.bgt n).grants.erase g ∧
        (t.up n f).eq = (s.leaf n i).store ∧
        ∃ w, (t.up n f).window = some w ∧ w.kind = b2n g.ranging ∧ w.leaf = i.val ∧ w.period = g.period ∧ w.start = g.start ∧
          w.confirmed = false) ∧
      (∀ k from_ to_, ((s.bgt n).reserved.find? fun r => r.1 == f.val + 32) = some (k, from_, to_) →
        ∃ t w, exec (.detectionWindowOpen n f none) s = .next t ∧ s.only [.reg .BGHT_STAT] [.bight] t ∧ (t.up n f).window = some w ∧
        w.kind = 2 ∧ t.on .BGHT_STAT_DISC_OPEN n = true)) ∧
  (∀ (s : State) (n : Line) (f : Slot) (corrB : Bool) (metric symbol : Nat) (w : Window), s.alive 11 = true →
      (s.up n f).window = some w → w.leaf < 256 → ∃ t, exec (.provisionalLock n f corrB metric symbol) s = .next t ∧
      s.only [.reg .BGHT_LEAF_ST] [.bight] t ∧
      (metric ≤ s.detThr n w.kind → t = s) ∧
      (s.detThr n w.kind < metric → (s.up n f).lock = 0 ∨ ((s.up n f).lock = 1 ∧ corrB ≠ (s.up n f).corrB ∧
          (s.up n f).metric + 2 * s.rd .BGHT_ACQ_CFG_RELOCK_DB n ≤ metric) →
        ((if w.long then 416 else 160) < symbol → (t.up n f).lock = 0 ∧
          (w.kind ≠ 2 → s.on .BGHT_LEAF_EN n w.leaf = true →
            t.rd .BGHT_LEAF_ST_LATE n w.leaf = min 65535 (s.rd .BGHT_LEAF_ST_LATE n w.leaf + 1))) ∧
        (symbol ≤ (if w.long then 416 else 160) → (t.up n f).lock = 1 ∧ (t.up n f).corrB = corrB ∧ (t.up n f).metric = metric ∧
          (t.up n f).marker = false)) ∧
      ((s.up n f).lock = 2 → t = s)) ∧
  (∀ (s : State) (n : Line) (f : Slot) (found : Bool), s.alive 11 = true → (s.up n f).lock = 1 →
      ∃ t, exec (.endMarker n f found) s = .next t ∧ s.only [] [.bight] t ∧ (t.up n f).marker = found ∧
      (t.up n f).lock = (if found then 1 else 0)) ∧
  (∀ (s : State) (n : Line) (f : Slot) (soft : List Int) (arrival : Nat) (ofs : Int) (h : BitVec 128), s.alive 11 = true →
      (s.up n f).lock = 1 → (s.up n f).marker = true → h = headerOf (viterbi soft) →
      ∃ t, exec (.burstHeaderDecoded n f soft arrival ofs) s = .next t ∧ s.only (eventTouch.append [.reg .BGHT_STAT, .reg .BGHT_EVT,
          .reg .BGHT_LEAF_ST, .reg .CLET_TRL, .reg .SHET_CLI_STAT, .reg .SHET_CLI_EVT, .reg .SHET_CNT]) (eventParts.append [.bight,
              .clients]) t ∧
      (hdrOk h = false → (t.up n f).lock = 0 ∧ t.rd .CLET_TRL_HDR_FAIL n = (s.rd .CLET_TRL_HDR_FAIL n + 1) % 2 ^ 32) ∧
      (hdrOk h = true → t.rd .CLET_TRL_HDR_OK n = (s.rd .CLET_TRL_HDR_OK n + 1) % 2 ^ 32) ∧
      (∀ w, hdrOk h = true → (s.up n f).capturing = false → (s.up n f).window = some w → w.leaf < 256 → headerFits w h = true →
        (t.up n f).lock = 2 ∧
        (w.kind = 0 → s.on .BGHT_LEAF_EN n w.leaf = true → t.rd .BGHT_LEAF_ST_MISSED n w.leaf = 0 ∧
          t.leafState n w.leaf = (if s.leafState n w.leaf = 3 then 2 else s.leafState n w.leaf)) ∧
        (w.kind = 1 → s.on .BGHT_LEAF_EN n w.leaf = true → s.leafState n w.leaf = 1 → t.leafState n w.leaf = 2 ∧
          t.on .BGHT_EVT_ACTIVE n = true) ∧
        (w.kind < 2 → s.on .BGHT_LEAF_EN n w.leaf = false → t.reg .BGHT_LEAF_ST n w.leaf = s.reg .BGHT_LEAF_ST n w.leaf) ∧
        (w.kind = 2 → ∀ i, (s.leavesOn n).find? (fun i => s.rd .BGHT_LEAF_SERIAL n i == hdrBits h 87 24) = some i → i < 256 →
          s.leafState n i = 0 ∨ s.leafState n i = 4 → t.leafState n i = 1)) ∧
      (∀ w, hdrOk h = true → (s.up n f).capturing = false → (s.up n f).window = some w → headerFits w h = false →
        (t.up n f).lock = 0) ∧
      (hdrOk h = true → (s.up n f).capturing = true → (s.up n f).window = none → (s.bgt n).grants = [] →
        (t.up n f).lock = 0 ∧ t.on .BGHT_EVT_UNEXPECTED n = true)) ∧
  (∀ (s : State) (n : Line) (f : Slot) (power peak : Bool) (symbol got : Nat) (b : Burst), s.alive 11 = true → (s.up n f).lock = 2 →
      (s.up n f).burst = some b → b.leaf < 256 → ∃ t, exec (.capture n f power peak symbol got) s = .next t ∧
          s.only (eventTouch.append [.reg .BGHT_STAT, .reg .BGHT_EVT, .reg .BGHT_LEAF_ST, .reg .SHET_CLI_STAT, .reg .SHET_CLI_EVT,
              .reg .SHET_CNT]) (eventParts.append [.bight, .clients]) t ∧
      (power = true → peak = true → (t.up n f).lock = (if 416 < symbol then 0 else 1) ∧ (t.up n f).capturing = true ∧
        (t.up n f).corrB = (!(s.up n f).corrB) ∧ (t.up n f).burst = none ∧
        (b.kind = 0 → (t.bgt n).received = (s.bgt n).received ++ [{ b with cut := some got }]) ∧
        (s.on .BGHT_LEAF_EN n b.leaf = true → t.on .BGHT_EVT_COLLIDED n = true ∧
          t.rd .BGHT_LEAF_ST_COLLIDED n b.leaf = min 65535 (s.rd .BGHT_LEAF_ST_COLLIDED n b.leaf + 1) ∧
          (b.kind = 0 → s.leafState n b.leaf = 2 ∨ s.leafState n b.leaf = 3 → t.leafState n b.leaf = 1))) ∧
      (power ≠ peak → t.up n f = s.up n f ∧ (s.on .BGHT_LEAF_EN n b.leaf = true →
        t.rd .BGHT_LEAF_ST_OVERLAP n b.leaf = min 255 (s.rd .BGHT_LEAF_ST_OVERLAP n b.leaf + 1))) ∧
      (power = false → peak = false → t = s)) ∧
  (∀ (s : State) (n : Line) (f : Slot) (foff : BitVec 16) (power snr : BitVec 8) (eq : List Byte) (b : Burst), s.alive 11 = true →
      (s.up n f).lock = 2 → (s.up n f).burst = some b → b.leaf < 256 → ∃ t, exec (.burstEnd n f foff power snr eq) s = .next t ∧
      s.only [.reg .BGHT_LEAF_ST] [.bight] t ∧ (t.up n f).lock = 0 ∧ (t.up n f).burst = none ∧ (t.leaf n b.leaf).store = eq.take 512 ∧
      (b.kind = 0 → (t.bgt n).received = (s.bgt n).received ++ [b]) ∧
      (s.on .BGHT_LEAF_EN n b.leaf = true → t.rd .BGHT_LEAF_ST_RXPWR n b.leaf = power.toNat ∧
        ((s.up n f).offset - 4000 ≤ foff.toInt → foff.toInt ≤ (s.up n f).offset + 4000 →
          t.rd .BGHT_LEAF_ST_FOFF n b.leaf = foff.toNat))) ∧
  (∀ (s : State) (n : Line) (f : Slot) (w : Window), s.alive 11 = true → (s.up n f).window = some w → w.leaf < 256 →
      ∃ t, exec (.detectionWindowClose n f) s = .next t ∧ s.only (eventTouch.append [.reg .BGHT_STAT, .reg .BGHT_EVT,
          .reg .BGHT_LEAF_ST, .reg .SHET_CLI_STAT, .reg .SHET_CLI_EVT, .reg .SHET_CNT]) (eventParts.append [.bight, .clients]) t ∧
              (t.up n f).window = none ∧
      (t.up n f).lock = (if (s.up n f).lock = 2 then 2 else 0) ∧
      (w.kind ≠ 2 → w.confirmed = true → t.reg .BGHT_LEAF_ST n w.leaf = s.reg .BGHT_LEAF_ST n w.leaf) ∧
      (w.kind ≠ 2 → w.confirmed = false → s.on .BGHT_LEAF_EN n w.leaf = true →
        t.rd .BGHT_LEAF_ST_MISSED n w.leaf = min 15 (s.rd .BGHT_LEAF_ST_MISSED n w.leaf + 1)) ∧
      (w.kind = 0 → w.confirmed = false → s.on .BGHT_LEAF_EN n w.leaf = true →
        ((s.leafState n w.leaf = 2 ∨ s.leafState n w.leaf = 3) → 7 ≤ s.rd .BGHT_LEAF_ST_MISSED n w.leaf →
          t.leafState n w.leaf = 4 ∧ t.on .BGHT_EVT_LOST n = true) ∧
        (s.rd .BGHT_LEAF_ST_MISSED n w.leaf < 7 → t.leafState n w.leaf = s.leafState n w.leaf)) ∧
      (w.kind = 1 → w.confirmed = false → s.leafState n w.leaf = 1 → s.rd .BGHT_LEAF_ST_MISSED n w.leaf < 7 →
        2 ≤ (s.leaf n w.leaf).fails.get 0 w.cycle → t.leafState n w.leaf = 0 ∧ t.on .BGHT_EVT_RNG_FAIL n = true)) ∧
  (∀ (s : State) (n : Line) (i : Leaf) (soft : List Int), s.alive 12 = true → ∃ t, exec (.burstDecodeDone n i soft) s = .next t ∧
      s.only (eventTouch.append [.reg .BGHT_LEAF_ST, .reg .CLET_EVT, .reg .CLET_CNT]) (eventParts.append [.bight, .cleat, .hitch]) t ∧
      ((s.lineMode n ≠ 2 ∨ (s.bgt n).received.find? (fun b => b.leaf == i.val) = none) → t = s) ∧
      (s.lineMode n = 2 → ∀ b, (s.bgt n).received.find? (fun b => b.leaf == i.val) = some b →
        (t.bgt n).received = (s.bgt n).received.erase b ∧
        (b.prof ≠ (s.leaf n i).prof.id → b.prof ≠ (s.leaf n i).prev.id →
          t.rd .BGHT_LEAF_ST_BAD_PROF n i = min 65535 (s.rd .BGHT_LEAF_ST_BAD_PROF n i + 1) ∧ t.hitch = s.hitch ∧
          ((s.leaf n i).profDue = none → s.on .BGHT_LEAF_EN n i = true →
            (t.leaf n i).profDue = some (s.startProfile n i, (s.bgt n).clock + 1 + s.rd .BGHT_LINE_CFG_MAP_LEAD n + 8, 8))) ∧
        (b.prof = (s.leaf n i).prof.id ∨ b.prof = (s.leaf n i).prev.id →
          3 ≤ dataSymbols (payloadSymbols (s.upWidth n b.sub) b.len b.long) / 576 →
          (∃ x, (t.hit n).bursts = (s.hit n).bursts ++ [(b.leaf, x)]) ∧
          ∃ r ≤ s.rd .CLET_SC_STAT_GRANT n b.sub, t.rd .CLET_CNT_COUNT n 5 = (s.rd .CLET_CNT_COUNT n 5 + r) % 2 ^ 48 ∧
            t.rd .CLET_CNT_COUNT n 6 = (s.rd .CLET_CNT_COUNT n 6 + (s.rd .CLET_SC_STAT_GRANT n b.sub - r)) % 2 ^ 48)))

/-- A block that arrives counts its labels and the iterations run, those granted or with EARLY_EN fewer, and joins its window, which the oldest block leaves once it is full. A measurement shows each subcarrier's NGMI, its demand, and its margin where sixteen bits hold it. A codeword that has come in whole is decoded and counted, with its corrected bits or as uncorrectable, which is reported once in a second, and its information bits go on to Hitch. A full second below the demand is reported. FEC-SD is set after SD_SECS seconds in a row below SD_SET and cleared after as many above SD_CLR. -/
def Obligations.DecoderFigures : Prop :=
  (∀ (s : State) (n : Line) (f : Slot) (soft : List Int) (g : Nat), s.alive 12 = true → g = s.rd .CLET_SC_STAT_GRANT n f →
      ∃ t, exec (.windowShift n f soft) s = .next t ∧ s.only [.reg .CLET_STAT, .reg .CLET_CNT, .reg .CLET_SC_STAT] [.cleat] t ∧
      (((s.decSlots n).contains f.val = false ∨ s.lineMode n = 2) → t = s) ∧
      ((s.decSlots n).contains f.val = true → s.lineMode n ≠ 2 → s.lineOzr n = false →
        t.rd .CLET_CNT_COUNT n 0 = (s.rd .CLET_CNT_COUNT n 0 + labelCount (s.decPair n f).1 (s.decPair n f).2) % 2 ^ 48 ∧
        (∃ r ≤ g, t.rd .CLET_CNT_COUNT n 5 = (s.rd .CLET_CNT_COUNT n 5 + r) % 2 ^ 48 ∧
          t.rd .CLET_CNT_COUNT n 6 = (s.rd .CLET_CNT_COUNT n 6 + (g - r)) % 2 ^ 48 ∧
          (s.on .CLET_LINE_CFG_EARLY_EN n = false → r = g)) ∧
        (t.clt n).window.get [] f = (if s.rd .CLET_LINE_CFG_WIN n ≤ ((s.clt n).window.get [] f).length + 1 then
            ((s.clt n).window.get [] f ++ [s.softBlock n f soft]).drop 1 else (s.clt n).window.get [] f ++ [s.softBlock n f soft])) ∧
      ((s.decSlots n).contains f.val = true → s.lineMode n ≠ 2 → s.lineOzr n = true →
        t.rd .CLET_CNT_COUNT n 0 = (s.rd .CLET_CNT_COUNT n 0 + soft.length) % 2 ^ 48 ∧
        t.rd .CLET_CNT_COUNT n 5 = (s.rd .CLET_CNT_COUNT n 5 + s.rd .CLET_LINE_CFG_OZR_ITER n) % 2 ^ 48)) ∧
  (∀ (s : State) (n : Line), s.alive 12 = true → ∃ t, exec (.ngmiMeasure n) s = .next t ∧ s.only (eventTouch.append [.reg .CLET_STAT,
      .reg .CLET_SC_STAT, .reg .BEND_EVT, .reg .BEND_PG_STAT, .reg .BEND_PATH_ST]) (eventParts.append [.cleat, .groups]) t ∧
      (s.decSlots n = [] → t = s) ∧
      (s.decSlots n ≠ [] → (t.clt n).shifts = [] ∧ (t.clt n).ngmi = []) ∧
      ∀ f ∈ s.decSlots n, ∀ v m, v = s.ngmiOf n f → m = s.marginOf n f v (s.iterNow n f) →
        ((s.clt n).ngmi.get [] f = [] → v = 0) ∧ t.rd .CLET_SC_STAT_NGMI n f = v ∧
        t.rd .CLET_SC_STAT_DEMAND n f = s.demandOf n f v ∧ t.rd .CLET_SC_STAT_GRANT n f = s.rd .CLET_SC_STAT_GRANT n f ∧
        (-32768 ≤ m → m ≤ 32767 → t.rd .CLET_SC_STAT_MARGIN n f = unsigned 16 m)) ∧
  (∀ (s : State) (n : Line) (f : Slot), s.alive 12 = true → (s.decSlots n).contains f.val = true →
      (s.rd .CLET_SC_STAT_GRANT n f < s.rd .CLET_SC_STAT_DEMAND n f → ∃ t, exec (.shortSecond n f) s = .next t ∧
          s.only (eventTouch.append [.reg .CLET_EVT]) eventParts t ∧
        t.on .CLET_EVT_STARVED n = true) ∧
      (s.rd .CLET_SC_STAT_DEMAND n f ≤ s.rd .CLET_SC_STAT_GRANT n f → exec (.shortSecond n f) s = .next s)) ∧
  (∀ (s : State) (n : Line), s.alive 12 = true → ∃ t, exec (.lashingCodeword n) s = .next t ∧
      s.only (eventTouch.append [.reg .CLET_EVT, .reg .CLET_CNT]) (eventParts.append [.cleat, .hitch]) t ∧
      (s.lineMode n = 0 → t = s) ∧
      (s.lineNative n = true → nextWord (s.clt n).rxCoded = none → t = s) ∧
      (s.lineNative n = true → ∀ w rest, nextWord (s.clt n).rxCoded = some (w, rest) →
        (t.clt n).rxCoded = rest ∧ t.rd .CLET_CNT_COUNT n 2 = (s.rd .CLET_CNT_COUNT n 2 + 1) % 2 ^ 48 ∧
        (∀ v c, lashingCorrect (w.map fun b => b.1) = some (v, c) →
          t.rd .CLET_CNT_COUNT n 3 = (s.rd .CLET_CNT_COUNT n 3 + c) % 2 ^ 48 ∧
          (t.hit n).rxBits = (s.hit n).rxBits ++ (v.zip (w.map fun b => b.2)).take (w.length - 60)) ∧
        (lashingCorrect (w.map fun b => b.1) = none →
          t.rd .CLET_CNT_COUNT n 4 = (s.rd .CLET_CNT_COUNT n 4 + 1) % 2 ^ 48 ∧ (t.clt n).uncSaid = true ∧
          ((s.clt n).uncSaid = false → t.on .CLET_EVT_UNCORR n = true) ∧
          (t.hit n).rxBits = (s.hit n).rxBits ++ (w.take (w.length - 60)).map fun b => (b.1, true))) ∧
      (s.lineMode n ≠ 0 → s.lineOzr n = true → (s.clt n).rxCoded.flatten ≠ [] → Config.ofecBlock ≤ (s.clt n).rxCoded.flatten.length →
        t.rd .CLET_CNT_COUNT n 2 = (s.rd .CLET_CNT_COUNT n 2 + 1) % 2 ^ 48 ∧
        t.rd .CLET_CNT_COUNT n 3 = s.rd .CLET_CNT_COUNT n 3)) ∧
  (∀ (s : State) (n : Line), s.alive 12 = true → s.lineMode n ≠ 0 → ∃ t, exec (.fecSdSecond n) s = .next t ∧
      s.only (eventTouch.append [.reg .TOP_FAULT, .reg .CLET_STAT, .reg .CLET_EVT, .reg .HTCH_DEF, .reg .HTCH_DEF_STK, .reg .HTCH_EVT,
          .reg .SEIZ_KC_ST, .reg .BEND_EVT, .reg .BEND_PG_STAT, .reg .BEND_PATH_ST, .reg .SHET_CLI_STAT, .reg .SHET_CLI_EVT,
              .reg .SHET_CNT]) (eventParts.append [.boot, .cleat, .clients, .groups, .kcs, .hitch]) t ∧
      (t.clt n).below = false ∧ (t.clt n).unclear = false ∧
      (s.on .CLET_STAT_FEC_SD n = false → (s.clt n).below = true → s.sdCfg n .CLET_SD_CFG_SD_SECS ≤ (s.clt n).lowSeconds + 1 →
        t.on .CLET_STAT_FEC_SD n = true ∧ t.on .CLET_EVT_SD_SET n = true) ∧
      (s.on .CLET_STAT_FEC_SD n = false → (s.clt n).below = true → (s.clt n).lowSeconds + 1 < s.sdCfg n .CLET_SD_CFG_SD_SECS →
        t.on .CLET_STAT_FEC_SD n = false ∧ (t.clt n).lowSeconds = min 15 ((s.clt n).lowSeconds + 1)) ∧
      (s.on .CLET_STAT_FEC_SD n = true → (s.clt n).unclear = false → s.sdCfg n .CLET_SD_CFG_SD_SECS ≤ (s.clt n).highSeconds + 1 →
        t.on .CLET_STAT_FEC_SD n = false ∧ t.on .CLET_EVT_SD_CLEAR n = true))

/-- A blob that fails a check of R250 ends its command with its reason and changes no key. A traffic key becomes the active key of an Idle direction; otherwise it is staged with its switch point, rounded up to a multiple of S; an Exhausted transmitter takes it at once and an Exhausted receiver hunts for it. A switch point too near ends with LATE. KEY_SWITCH moves the staged key's point. KEY_ZERO erases the keys it names; without its active key a direction is Idle. KEY_CLEAR_AF takes an Auth-failed direction to Hunting and changes nothing otherwise. KEY_STATUS answers the context's state. LINK_LOAD loads the link key of a context of KIND 0. -/
def Obligations.KeyCommands : Prop :=
  (∀ (s : State) (h : Nat) (c : Cmd) (rx : Bool), s.ready 14 0x0101 h c → c.par 16 1 = b2n rx → c.ind.length = 88 →
      ∃ t, exec (.keyLoad h) s = .next t ∧ s.only (eventTouch.append [.reg .MRLN_NV_EVT, .reg .MRLN_NV_ST, .reg .SEIZ_EVT,
          .reg .SEIZ_KC_ST, .reg .BEND_EVT, .reg .BEND_PG_STAT, .reg .BEND_PATH_ST, .reg .SHET_CLI_STAT, .reg .SHET_CLI_EVT,
              .reg .SHET_CNT]) (eventParts.append [.inflight, .journal, .clients, .groups, .kcs]) t ∧
      (∀ r, s.openBlob c.kc 1 (b2n rx) c.ind = .inl r → t.ended h 7 ∧ (∀ d, t.cmd h = some d → d.reason = r) ∧ t.kcs = s.kcs ∧
        t.on .SEIZ_EVT_BLOB_REFUSED = true) ∧
      (∀ key, s.openBlob c.kc 1 (b2n rx) c.ind = .inr key → s.dirRuns c.kc rx = true → s.pointLate c.kc rx c.point = true →
        t.ended h 8 ∧ t.kcs = s.kcs) ∧
      (∀ key, s.openBlob c.kc 1 (b2n rx) c.ind = .inr key → (s.dirRuns c.kc rx && s.pointLate c.kc rx c.point) = false →
        t.ended h 0 ∧ t.dirOf c.kc (!rx) = s.dirOf c.kc (!rx) ∧
        (rx = false → s.rd .SEIZ_KC_ST_TX_STATE c.kc = 0 → (t.kc c.kc).tx.active = some key ∧ t.rd .SEIZ_KC_ST_TX_STATE c.kc = 1 ∧
          t.rd .SEIZ_KC_ST_TX_NEXT c.kc = 0) ∧
        (rx = false → s.rd .SEIZ_KC_ST_TX_STATE c.kc = 1 → (t.kc c.kc).tx.active = (s.kc c.kc).tx.active ∧
          (t.kc c.kc).tx.staged = some key ∧ (t.kc c.kc).tx.point = c.point.map (fun v => roundUp v (s.rd .SEIZ_KC_ST_S c.kc)) ∧
          t.on .SEIZ_KC_ST_TX_STAGED c.kc = true) ∧
        (rx = false → s.rd .SEIZ_KC_ST_TX_STATE c.kc = 2 → (t.kc c.kc).tx.active = some key ∧ t.rd .SEIZ_KC_ST_TX_STATE c.kc = 1 ∧
          t.on .SEIZ_KC_ST_TX_IDX c.kc = !(s.on .SEIZ_KC_ST_TX_IDX c.kc) ∧ t.on .SEIZ_EVT_SWITCHED = true) ∧
        (rx = true → s.rd .SEIZ_KC_ST_RX_STATE c.kc = 0 → (t.kc c.kc).rx.active = some key ∧ t.rd .SEIZ_KC_ST_RX_STATE c.kc = 1) ∧
        (rx = true → s.rd .SEIZ_KC_ST_RX_STATE c.kc ≠ 0 → (t.kc c.kc).rx.active = (s.kc c.kc).rx.active ∧
          (t.kc c.kc).rx.staged = some key ∧ t.on .SEIZ_KC_ST_RX_STAGED c.kc = true ∧
          t.rd .SEIZ_KC_ST_RX_STATE c.kc = (if s.rd .SEIZ_KC_ST_RX_STATE c.kc = 4 then 1 else s.rd .SEIZ_KC_ST_RX_STATE c.kc)))) ∧
  (∀ (s : State) (h : Nat) (c : Cmd) (rx : Bool), s.ready 14 0x0102 h c → c.par 16 1 = b2n rx →
      ∃ t, exec (.keySwitch h) s = .next t ∧ s.only (eventTouch.append [.reg .MRLN_NV_EVT,
          .reg .MRLN_NV_ST]) (eventParts.append [.inflight, .journal, .kcs]) t ∧
      ((s.dirOf c.kc rx).staged = none → t.ended h 8 ∧ t.kcs = s.kcs) ∧
      ((s.dirOf c.kc rx).staged.isSome = true → (s.dirRuns c.kc rx && s.pointLate c.kc rx c.point) = true → t.ended h 8 ∧ t.kcs = s.kcs) ∧
      ((s.dirOf c.kc rx).staged.isSome = true → (s.dirRuns c.kc rx && s.pointLate c.kc rx c.point) = false → t.ended h 0 ∧
        (t.dirOf c.kc rx).point = c.point.map (fun v => roundUp v (s.rd .SEIZ_KC_ST_S c.kc)) ∧
        (t.dirOf c.kc rx).staged = (s.dirOf c.kc rx).staged ∧ (t.dirOf c.kc rx).active = (s.dirOf c.kc rx).active ∧
        t.dirOf c.kc (!rx) = s.dirOf c.kc (!rx))) ∧
  (∀ (s : State) (h : Nat) (c : Cmd), s.ready 14 0x0103 h c → c.par 16 1 ≤ 2 → c.par 17 1 ≤ 3 →
      ∃ t, exec (.keyZero h) s = .next t ∧ s.only (eventTouch.append [.reg .MRLN_NV_EVT, .reg .MRLN_NV_ST, .reg .SEIZ_KC_ST,
          .reg .BEND_EVT, .reg .BEND_PG_STAT, .reg .BEND_PATH_ST, .reg .SHET_CLI_STAT, .reg .SHET_CLI_EVT,
              .reg .SHET_CNT]) (eventParts.append [.inflight, .journal, .clients, .groups, .kcs]) t ∧ t.ended h 0 ∧
      (∀ rx : Bool, c.par 16 1 ≠ 2 → c.par 16 1 ≠ b2n rx → t.dirOf c.kc rx = s.dirOf c.kc rx) ∧
      (∀ (rx : Bool) (w : Bool × Bool), c.par 16 1 = 2 ∨ c.par 16 1 = b2n rx → w = s.slotsNamed c.kc rx (c.par 17 1) →
        (t.dirOf c.kc rx).active = (if w.1 then none else (s.dirOf c.kc rx).active) ∧
        (t.dirOf c.kc rx).staged = (if w.2 then none else (s.dirOf c.kc rx).staged) ∧
        (w.1 = true → rx = true → t.rd .SEIZ_KC_ST_RX_STATE c.kc = 0) ∧ (w.1 = true → rx = false → t.rd .SEIZ_KC_ST_TX_STATE c.kc = 0))) ∧
  (∀ (s : State) (h : Nat) (c : Cmd), s.ready 14 0x0104 h c → ∃ t, exec (.keyClearAf h) s = .next t ∧
      s.only (eventTouch.append [.reg .MRLN_NV_EVT, .reg .MRLN_NV_ST, .reg .SEIZ_EVT, .reg .SEIZ_KC_ST, .reg .BEND_EVT,
          .reg .BEND_PG_STAT, .reg .BEND_PATH_ST, .reg .SHET_CLI_STAT, .reg .SHET_CLI_EVT,
              .reg .SHET_CNT]) (eventParts.append [.inflight, .journal, .clients, .groups, .kcs]) t ∧
      t.ended h 0 ∧ (∀ d, t.cmd h = some d → d.result = leBytes 1 (t.rd .SEIZ_KC_ST_RX_STATE c.kc)) ∧
      (s.rd .SEIZ_KC_ST_RX_STATE c.kc = 3 → t.rd .SEIZ_KC_ST_RX_STATE c.kc = 1 ∧ t.rd .SEIZ_KC_ST_CONSEC c.kc = 0 ∧
        t.on .SEIZ_EVT_AF_CLEAR = true) ∧
      (s.rd .SEIZ_KC_ST_RX_STATE c.kc ≠ 3 → t.reg .SEIZ_KC_ST c.kc = s.reg .SEIZ_KC_ST c.kc ∧ t.kcs = s.kcs)) ∧
  (∀ (s : State) (h : Nat) (c : Cmd), s.ready 14 0x0105 h c → ∃ t, exec (.keyStatus h) s = .next t ∧
      s.only (eventTouch.append [.reg .MRLN_NV_EVT, .reg .MRLN_NV_ST]) (eventParts.append [.inflight, .journal]) t ∧
      t.ended h 0 ∧ ∀ d, t.cmd h = some d → d.buffer = leBytes 32 (s.reg .SEIZ_KC_ST c.kc) ++
        leBytes 8 (kidOf (s.kc c.kc).tx.active) ++ leBytes 8 (kidOf (s.kc c.kc).rx.active)) ∧
  (∀ (s : State) (h : Nat) (c : Cmd), s.ready 14 0x0106 h c → c.ind.length = 88 → ∃ t, exec (.linkLoad h) s = .next t ∧
      s.only (eventTouch.append [.reg .MRLN_NV_EVT, .reg .MRLN_NV_ST, .reg .SEIZ_EVT]) (eventParts.append [.inflight, .journal, .kcs]) t ∧
      (∀ r, s.openBlob c.kc 2 2 c.ind = .inl r → t.ended h 7 ∧ t.kcs = s.kcs) ∧
      (∀ key, s.openBlob c.kc 2 2 c.ind = .inr key → s.on .SEIZ_KC_CFG_KIND c.kc = true → t.ended h 6 ∧ t.kcs = s.kcs) ∧
      (∀ key, s.openBlob c.kc 2 2 c.ind = .inr key → s.on .SEIZ_KC_CFG_KIND c.kc = false → t.ended h 0 ∧
        t.kc c.kc = { s.kc c.kc with link := some key }))

/-- REKEY_H hours after a transmit key took effect a context with a link key starts an exchange, or one without reports that rekeying is due. An OFFER without a confirmation is dropped and offered anew with a later GEN. The oldest packet that GCC0 has brought is taken by the relay; one whose CRC fails is discarded and reported. The oldest open segment closes: its tag record, over the text as sent, is queued with its INV, counts, and its INV is used; at the switch point or the limit a staged key takes over, and at the limit without one the direction is Exhausted. A segment whose tag has not come in time is a missing tag, or unverified if it carries marks. -/
def Obligations.ExchangeAndSegments : Prop :=
  (∀ (s : State) (k : Kc), s.alive 14 = true → s.rd .SEIZ_KC_CFG_REKEY_H k ≠ 0 → s.rd .SEIZ_KC_ST_TX_STATE k = 1 →
      ∃ t, exec (.rekeyTimer k) s = .next t ∧ s.only (eventTouch.append [.reg .SEIZ_EVT]) (eventParts.append [.kcs]) t ∧
      ((s.on .SEIZ_KC_CFG_KIND k = true ∨ (s.kc k).link = none) → t.on .SEIZ_EVT_REKEY_DUE = true ∧ t.kcs = s.kcs) ∧
      (s.on .SEIZ_KC_CFG_KIND k = false → (s.kc k).link.isSome = true → (t.kc k).rekeying = true ∧ (t.kc k).tx = (s.kc k).tx ∧
        (s.svcRuns 2 = true → (t.kc k).copies = 3 ∧ (t.kc k).genTx = ((s.kc k).genTx + 1) % 2 ^ 32 ∧
          ∃ ntx, (t.kc k).offer = some ((t.kc k).genTx, roundUp (s.rd .SEIZ_KC_ST_TX_NEXT k + 1024 * s.rd .SEIZ_KC_ST_S k)
            (s.rd .SEIZ_KC_ST_S k), ntx) ∧ ntx.length = 32))) ∧
  (∀ (s : State) (k : Kc), s.alive 14 = true → (s.kc k).offer.isSome = true →
      ∃ t, exec (.kxConfirmTimeout k) s = .next t ∧ s.only [] [.kcs] t ∧ t.kc k = { s.kc k with offer := none, copies := 0 }) ∧
  (∀ (s : State) (k : Kc), s.alive 14 = true → (s.kc k).rekeying = true → (s.kc k).offer = none → (s.kc k).link.isSome = true →
      s.svcRuns 2 = true → ∃ t, exec (.kxRetry k) s = .next t ∧ s.only [] [.kcs, .drawn] t ∧ (t.kc k).offer.isSome = true ∧
      (t.kc k).copies = 3 ∧ (t.kc k).genTx = ((s.kc k).genTx + 1) % 2 ^ 32) ∧
  (∀ (s : State) (n : Line), s.alive 2 = true → ∃ t, exec (.gcc0PacketReceived n) s = .next t ∧
      s.only (eventTouch.append [.reg .MRLN_EVT, .reg .SEIZ_EVT, .reg .SEIZ_KC_ST, .reg .BEND_EVT, .reg .BEND_PG_STAT,
          .reg .BEND_PATH_ST, .reg .SHET_CLI_STAT, .reg .SHET_CLI_EVT, .reg .SHET_CNT]) (eventParts.append [.marline, .clients,
              .groups, .kcs, .hitch]) t ∧
      ((s.svcRuns 3 = false ∨ s.lineNative n = false ∨ s.lineMode n = 3 ∨ (s.hit n).gcc = []) → t = s) ∧
      (s.svcRuns 3 = true → s.lineNative n = true → s.lineMode n ≠ 3 → ∀ p rest, (s.hit n).gcc = p :: rest → (t.hit n).gcc = rest ∧
        (p.length ≠ leAt p 2 2 + 8 ∨ crcOk p = false → t.on .MRLN_EVT_GCC_BAD = true ∧ t.marline = s.marline ∧ t.kcs = s.kcs) ∧
        (p.length = leAt p 2 2 + 8 → crcOk p = true → 128 ≤ byteAt p 0 → s.on .MRLN_GCC_CFG_EN n = true → t.kcs = s.kcs ∧
          t.marline.gccNumber.get 0 n = (s.marline.gccNumber.get 0 n + 1) % 65536) ∧
        (p.length = leAt p 2 2 + 8 → crcOk p = true → byteAt p 0 ≠ 1 → (byteAt p 0 < 128 ∨ s.on .MRLN_GCC_CFG_EN n = false) →
          t.out = s.out ∧ t.marline = s.marline ∧ t.kcs = s.kcs))) ∧
  (∀ (s : State) (k : Kc) (key : KeyRec) (text : List Byte) (rest : List (List Byte)), s.alive 14 = true → s.on .SEIZ_KC_CFG_EN k = true →
      s.rd .SEIZ_KC_ST_TX_STATE k = 1 → (s.kc k).tx.active = some key → (s.kc k).txSegs = text :: rest →
          s.rd .SEIZ_KC_ST_TX_NEXT k + 1 < 2 ^ 64 →
      ∃ t, exec (.segmentClose k) s = .next t ∧ s.only (eventTouch.append [.reg .HTCH_STAT, .reg .HTCH_CNT, .reg .SEIZ_EVT,
          .reg .SEIZ_KC_ST, .reg .SEIZ_KC_CNT]) (eventParts.append [.kcs, .hitch]) t ∧ (t.kc k).txSegs = rest ∧
      t.rd .SEIZ_KC_CNT_COUNT k 0 = (s.rd .SEIZ_KC_CNT_COUNT k 0 + 1) % 2 ^ 48 ∧
      ((s.hit (s.rd .SEIZ_KC_CFG_LINE k)).tagq.length < 512 → (t.hit (s.rd .SEIZ_KC_CFG_LINE k)).tagq =
        (s.hit (s.rd .SEIZ_KC_CFG_LINE k)).tagq ++ [tagRecord k (s.rd .SEIZ_KC_ST_TX_IDX k) (s.rd .SEIZ_KC_ST_TX_NEXT k)
          (Config.gcmTag key.key (segmentIv key.fixed (s.rd .SEIZ_KC_ST_TX_NEXT k))
            (underStream key (s.rd .SEIZ_KC_ST_TX_NEXT k) 0 text))]) ∧
      (s.atSwitch k (s.kc k).tx (s.rd .SEIZ_KC_ST_TX_NEXT k + 1) = false →
        t.rd .SEIZ_KC_ST_TX_NEXT k = s.rd .SEIZ_KC_ST_TX_NEXT k + 1 ∧ t.rd .SEIZ_KC_ST_TX_STATE k = 1 ∧ (t.kc k).tx.active = some key) ∧
      (s.atSwitch k (s.kc k).tx (s.rd .SEIZ_KC_ST_TX_NEXT k + 1) = true → (s.kc k).tx.staged.isSome = true →
        (t.kc k).tx.active = (s.kc k).tx.staged ∧ (t.kc k).tx.staged = none ∧ t.rd .SEIZ_KC_ST_TX_NEXT k = 0 ∧
        t.on .SEIZ_EVT_SWITCHED = true) ∧
      (s.switchLimit k ≤ s.rd .SEIZ_KC_ST_TX_NEXT k + 1 → (s.kc k).tx.staged = none → t.rd .SEIZ_KC_ST_TX_STATE k = 2 ∧
        t.on .SEIZ_EVT_EXHAUSTED = true)) ∧
  (∀ (s : State) (k : Kc), s.alive 14 = true → (s.on .SEIZ_KC_CFG_EN k = false ∨ s.rd .SEIZ_KC_ST_TX_STATE k ≠ 1 ∨
      (s.kc k).tx.active = none ∨ (s.kc k).txSegs = []) → exec (.segmentClose k) s = .next s) ∧
  (∀ (s : State) (k : Kc) (w : SegRec) (l : List SegRec), s.alive 14 = true → (s.kc k).waiting = w :: l →
      s.rd .SEIZ_KC_ST_RX_STATE k = 2 →
      (if s.on .SEIZ_KC_CFG_STRICT k then 4 else s.rd .SEIZ_KC_CFG_TAG_WAIT k) ≤ w.age →
      ∃ t, exec (.tagWaitExpiry k) s = .next t ∧ s.only (eventTouch.append [.reg .SEIZ_EVT, .reg .SEIZ_KC_ST, .reg .SEIZ_KC_CNT,
          .reg .BEND_EVT, .reg .BEND_PG_STAT, .reg .BEND_PATH_ST, .reg .SHET_CLI_STAT, .reg .SHET_CLI_EVT,
              .reg .SHET_CNT]) (eventParts.append [.clients, .groups, .kcs]) t ∧
      (t.kc k).waiting = (if t.rd .SEIZ_KC_ST_RX_STATE k = 3 then [] else l) ∧
      (w.marked = true → t.rd .SEIZ_KC_CNT_COUNT k 5 = (s.rd .SEIZ_KC_CNT_COUNT k 5 + 1) % 2 ^ 48 ∧
        t.rd .SEIZ_KC_ST_CONSEC k = s.rd .SEIZ_KC_ST_CONSEC k) ∧
      (w.marked = false → t.rd .SEIZ_KC_CNT_COUNT k 3 = (s.rd .SEIZ_KC_CNT_COUNT k 3 + 1) % 2 ^ 48 ∧
        t.rd .SEIZ_KC_ST_CONSEC k = min 15 (s.rd .SEIZ_KC_ST_CONSEC k + 1) ∧
        (s.rd .SEIZ_KC_CFG_AF_N k ≤ min 15 (s.rd .SEIZ_KC_ST_CONSEC k + 1) → t.rd .SEIZ_KC_ST_RX_STATE k = 3 ∧
          t.on .SEIZ_EVT_AUTH_FAILED = true)))

/-- PG_LOCKOUT and PG_FORCE set the group's lockout and its forced path, path 1 under lockout refused; PG_CLEAR removes one of them; PG_REALIGN takes the new deskew offset, a Disabled or Acquiring group refused and a group in Pass-through only once its region is Ready. Every one that succeeds answers the states, the delay, DO and the last q. LEAF_RERANGE takes an Active or Stale leaf to Ranging; LEAF_STATUS answers the leaf's state; LEAF_MGMT queues its message and ends with it, or with STATE where there is none to hear it. -/
def Obligations.GroupAndLeafCommands : Prop :=
  (∀ (s : State) (h : Nat) (c : Cmd), s.ready 15 0x0201 h c → ∃ t, exec (.pgLockout h) s = .next t ∧
      s.only (eventTouch.append [.reg .MRLN_NV_EVT, .reg .MRLN_NV_ST, .reg .BEND_PG_STAT]) (eventParts.append [.inflight, .journal,
          .groups]) t ∧
      t.ended h 0 ∧ t.grp c.pg = { s.grp c.pg with lockout := true } ∧
      t.rd .BEND_PG_STAT_CMD c.pg = 1) ∧
  (∀ (s : State) (h : Nat) (c : Cmd), s.ready 15 0x0202 h c → c.par 16 1 ≤ 1 → ∃ t, exec (.pgForce h) s = .next t ∧
      s.only (eventTouch.append [.reg .MRLN_NV_EVT, .reg .MRLN_NV_ST, .reg .BEND_PG_STAT]) (eventParts.append [.inflight, .journal,
          .groups]) t ∧
      (c.par 16 1 = 1 → (s.grp c.pg).lockout = true → t.ended h 6 ∧ t.groups = s.groups) ∧
      (c.par 16 1 = 0 ∨ (s.grp c.pg).lockout = false → t.ended h 0 ∧ t.grp c.pg = { s.grp c.pg with force := some (c.par 16 1) } ∧
        t.rd .BEND_PG_STAT_CMD c.pg = (if (s.grp c.pg).lockout then 1 else 2 + c.par 16 1))) ∧
  (∀ (s : State) (h : Nat) (c : Cmd), s.ready 15 0x0203 h c → c.par 16 1 ≤ 1 → ∃ t, exec (.pgClear h) s = .next t ∧
      s.only (eventTouch.append [.reg .MRLN_NV_EVT, .reg .MRLN_NV_ST, .reg .BEND_PG_STAT]) (eventParts.append [.inflight, .journal,
          .groups]) t ∧
      t.ended h 0 ∧ t.grp c.pg = (if c.par 16 1 = 0 then { s.grp c.pg with lockout := false } else { s.grp c.pg with force := none })) ∧
  (∀ (s : State) (h : Nat) (c : Cmd), s.ready 15 0x0204 h c → ∃ t, exec (.pgRealign h) s = .next t ∧
      s.only (eventTouch.append [.reg .MRLN_NV_EVT, .reg .MRLN_NV_ST, .reg .BEND_EVT, .reg .BEND_PG_STAT, .reg .BEND_PATH_ST,
          .reg .BEND_PG_CNT, .reg .SHET_CLI_STAT, .reg .SHET_CLI_EVT, .reg .SHET_CNT]) (eventParts.append [.inflight, .journal,
              .clients, .groups]) t ∧
      (s.rd .BEND_PG_STAT_GSTATE c.pg < 2 → t.ended h 6 ∧ t.groups = s.groups) ∧
      (2 ≤ s.rd .BEND_PG_STAT_GSTATE c.pg → t.ended h 0) ∧
      (s.rd .BEND_PG_STAT_GSTATE c.pg = 4 → s.regionReady (s.rd .BEND_PG_CFG_ATT_REGION c.pg) = false → t.groups = s.groups) ∧
      (2 ≤ s.rd .BEND_PG_STAT_GSTATE c.pg →
        (s.rd .BEND_PG_STAT_GSTATE c.pg = 4 → s.regionReady (s.rd .BEND_PG_CFG_ATT_REGION c.pg) = true) →
        t.rd .BEND_PG_STAT_DO c.pg = (s.showDelta c.pg (s.earlierNow c.pg)).newOffset c.pg ∧ (t.grp c.pg).aligned = true ∧
            t.rd .BEND_PG_STAT_GSTATE c.pg ≠ 4 ∧
        ((s.grp c.pg).aligned = true → t.on .BEND_EVT_REALIGN = true))) ∧
  (∀ (s : State) (h : Nat) (c : Cmd), s.ready 15 0x0205 h c → ∃ t, exec (.pgStatus h) s = .next t ∧
      s.only (eventTouch.append [.reg .MRLN_NV_EVT, .reg .MRLN_NV_ST]) (eventParts.append [.inflight, .journal]) t ∧ t.ended h 0) ∧
  (∀ (s t : State) (h : Nat) (c : Cmd) (i : Instr) (op : Nat),
      (i, op) ∈ [(Instr.pgLockout h, 0x0201), (.pgForce h, 0x0202), (.pgClear h, 0x0203), (.pgRealign h, 0x0204), (.pgStatus h, 0x0205)] →
      s.ready 15 op h c → exec i s = .next t → t.ended h 0 → ∀ d, t.cmd h = some d → d.result =
        leBytes 1 (t.rd .BEND_PG_STAT_GSTATE c.pg) ++
        leBytes 1 (t.rd .BEND_PATH_ST_PSTATE c.pg 0 + t.rd .BEND_PATH_ST_PSTATE c.pg 1 <<< 3) ++
        leBytes 3 (max (t.rd .BEND_PATH_ST_DELTA c.pg 0) (t.rd .BEND_PATH_ST_DELTA c.pg 1)) ++
        leBytes 3 (t.rd .BEND_PG_STAT_DO c.pg) ++ leBytes 4 (t.rd .BEND_PG_STAT_Q c.pg)) ∧
  (∀ (s : State) (h : Nat) (c : Cmd) (n : Line) (i : Leaf), s.ready 11 0x0301 h c → c.leaf = (n.val, i.val) →
      ∃ t, exec (.leafRerange h) s = .next t ∧ s.only (eventTouch.append [.reg .MRLN_NV_EVT, .reg .MRLN_NV_ST, .reg .BGHT_STAT,
          .reg .BGHT_LEAF_ST, .reg .SHET_CLI_STAT, .reg .SHET_CLI_EVT, .reg .SHET_CNT]) (eventParts.append [.inflight, .journal,
              .bight, .clients]) t ∧ t.ended h 0 ∧
      (∀ d, t.cmd h = some d → d.result = leBytes 1 (t.leafState n i)) ∧
      (s.leafState n i = 2 ∨ s.leafState n i = 3 → t.leafState n i = 1 ∧
          t.rd .BGHT_LEAF_ST_RNG_TRIES n i = s.rd .BGHT_LEAF_ST_RNG_TRIES n i ∧
        (t.leaf n i).rtt = signed 32 (s.rd .BGHT_LEAF_ST_TA n i) ∧ (t.leaf n i).assigned = true) ∧
      (s.leafState n i ≠ 2 → s.leafState n i ≠ 3 → (t.bgt n).msgs = (s.bgt n).msgs ∧ t.leafState n i = s.leafState n i)) ∧
  (∀ (s : State) (h : Nat) (c : Cmd) (n : Line) (i : Leaf), s.ready 11 0x0302 h c → c.leaf = (n.val, i.val) →
      ∃ t, exec (.leafStatus h) s = .next t ∧ s.only (eventTouch.append [.reg .MRLN_NV_EVT,
          .reg .MRLN_NV_ST]) (eventParts.append [.inflight, .journal]) t ∧ t.ended h 0 ∧
      ∀ d, t.cmd h = some d → d.result = leBytes 1 (s.leafState n i) ∧ d.buffer = leBytes 32 (s.reg .BGHT_LEAF_ST n i)) ∧
  (∀ (s : State) (h : Nat) (c : Cmd) (n : Line) (i : Leaf), s.ready 11 0x0303 h c → c.leaf = (n.val, i.val) →
      8 ≤ c.ind.length → c.ind.length ≤ 104 → c.ind.length % 8 = 0 → c.par 16 1 = 0 →
      ∃ t, exec (.leafMgmt h) s = .next t ∧ s.only (eventTouch.append [.reg .MRLN_NV_EVT,
          .reg .MRLN_NV_ST]) (eventParts.append [.inflight, .journal, .bight]) t ∧
      (s.leafState n i ≠ 2 → s.leafState n i ≠ 3 → t.ended h 6 ∧ t.bight = s.bight) ∧
      (s.leafState n i = 2 ∨ s.leafState n i = 3 → (∀ d, t.cmd h = some d → d.done = false) ∧
        (t.bgt n).msgs = (s.bgt n).msgs ++ [.mk (mgmtMsg i false c.ind) (s.rd .BGHT_LINE_CFG_REPEAT n) none (some h) none] ∧
        ∀ j : Line, j ≠ n → t.bgt j = s.bgt j))

/-- A measurement takes the mean time between the copies of the two paths and shows the delay of the later one; the first one with a path in sequence aligns the group, so that its deskew offset covers the delay and GUARD within the reach (the time of the first alignment is the model's reading, log entry 8). A path outside its window is reported; when every path in sequence is outside, the group aligns at once. A path that has waited to restore is OK or OK-degraded. AUTO_REALIGN aligns a group whose path stays outside while the other is OK. The follower of a split group takes q, CM and the word count from a lockstep record, and loses lockstep where it has not the words that the leader has mapped; losing lockstep is reported. -/
def Obligations.PathsAndDeskew : Prop :=
  (∀ (s : State) (g : Pg) (skew : Int), s.alive 15 = true → s.on .BEND_PG_CFG_EN g = true →
      skew = meanSkew (s.grp g).skew (stampDiffs (s.grp g).path0.stamps (s.grp g).path1.stamps) → skew.natAbs < 2 ^ 24 →
      ∃ t, exec (.deltaMeasure g) s = .next t ∧ s.only (eventTouch.append [.reg .BEND_EVT, .reg .BEND_PG_STAT, .reg .BEND_PATH_ST,
          .reg .BEND_PG_CNT, .reg .SHET_CLI_STAT, .reg .SHET_CLI_EVT, .reg .SHET_CNT]) (eventParts.append [.clients, .groups]) t ∧
              (t.grp g).skew = skew ∧
      ((s.grp g).aligned = true → t.rd .BEND_PG_STAT_DO g = s.rd .BEND_PG_STAT_DO g ∧ (t.grp g).aligned = true ∧
        ∀ p : Path, t.on .BEND_PATH_ST_EARLIER g p = decide (p.val = s.earlier g) ∧
          t.rd .BEND_PATH_ST_DELTA g p = (if p.val = s.earlier g then 0 else if p.val = 1 then skew.toNat else (-skew).toNat)) ∧
      ((s.grp g).aligned = false → s.on .BEND_PATH_ST_INSEQ g 0 = true → s.on .BEND_PATH_ST_INSEQ g 1 = true → (t.grp g).aligned = true ∧
        t.rd .BEND_PG_STAT_DO g = min (max skew.natAbs (s.rd .BEND_PG_DLY_DLY_PRESET g) + s.rd .BEND_PG_DLY_GUARD g)
          (s.reach g + s.rd .BEND_PG_DLY_GUARD g) ∧
        ∀ p : Path, t.on .BEND_PATH_ST_EARLIER g p = decide (p.val = (if skew < 0 then 1 else 0)) ∧
          t.rd .BEND_PATH_ST_DELTA g p = (if p.val = (if skew < 0 then 1 else 0) then 0 else skew.natAbs)) ∧
      ((s.grp g).aligned = false → s.on .BEND_PATH_ST_INSEQ g 0 = false → s.on .BEND_PATH_ST_INSEQ g 1 = false →
        t.rd .BEND_PG_STAT_DO g = s.rd .BEND_PG_STAT_DO g ∧ (t.grp g).aligned = false)) ∧
  (∀ (s : State) (g : Pg), s.alive 15 = true → s.on .BEND_PG_CFG_EN g = false → exec (.deltaMeasure g) s = .next s) ∧
  (∀ (s : State) (g : Pg) (p : Path), s.alive 15 = true → s.on .BEND_PG_CFG_EN g = true → s.on .BEND_PATH_ST_INSEQ g p = true →
      ((s.grp g).path p).outside = false → ∃ t, exec (.outOfWindow g p) s = .next t ∧ s.only (eventTouch.append [.reg .BEND_EVT,
          .reg .BEND_PG_STAT, .reg .BEND_PATH_ST, .reg .BEND_PG_CNT, .reg .SHET_CLI_STAT, .reg .SHET_CLI_EVT,
              .reg .SHET_CNT]) (eventParts.append [.clients, .groups]) t ∧
      t.on .BEND_EVT_WINDOW = true ∧
      (∀ q : Path, q ≠ p → s.on .BEND_PATH_ST_INSEQ g q = true → ((s.grp g).path q).outside = false →
        ((t.grp g).path p).outside = true ∧ t.pathOk g p = false ∧ t.rd .BEND_PG_STAT_DO g = s.rd .BEND_PG_STAT_DO g) ∧
      ((∀ q : Path, q ≠ p → s.on .BEND_PATH_ST_INSEQ g q = false ∨ ((s.grp g).path q).outside = true) → (t.grp g).aligned = true ∧
        t.rd .BEND_PG_STAT_DO g = (s.showDelta g (s.earlierNow g)).newOffset g)) ∧
  (∀ (s : State) (g : Pg) (p : Path), s.alive 15 = true →
      (s.rd .BEND_PATH_ST_PSTATE g p = 4 → ∃ t, exec (.pathWtrExpiry g p) s = .next t ∧ s.only (eventTouch.append [.reg .BEND_EVT,
          .reg .BEND_PG_STAT, .reg .BEND_PATH_ST]) eventParts t ∧
        t.rd .BEND_PATH_ST_PSTATE g p = (if s.on .BEND_PATH_ST_SSD g p then 6 else 5) ∧ t.rd .BEND_PATH_ST_WTR_LEFT g p = 0 ∧
        t.on .BEND_EVT_PATH_OK = true) ∧
      (s.rd .BEND_PATH_ST_PSTATE g p ≠ 4 → exec (.pathWtrExpiry g p) s = .next s)) ∧
  (∀ (s : State) (g : Pg) (p : Path), s.alive 15 = true →
      (∀ o, s.on .BEND_PG_CFG_AUTO_REALIGN g = true → s.rd .BEND_PATH_ST_PSTATE g p = 3 → s.pathOk g (1 - p.val) = true →
        o = (s.showDelta g (s.earlierNow g)).newOffset g →
        ∃ t, exec (.autoRealign g p) s = .next t ∧ s.only (eventTouch.append [.reg .BEND_EVT, .reg .BEND_PG_STAT, .reg .BEND_PATH_ST,
            .reg .BEND_PG_CNT, .reg .SHET_CLI_STAT, .reg .SHET_CLI_EVT, .reg .SHET_CNT]) (eventParts.append [.clients, .groups]) t ∧
                t.rd .BEND_PG_STAT_DO g = o ∧
        (t.grp g).aligned = true ∧ ((s.grp g).aligned = true → t.on .BEND_EVT_REALIGN = true ∧ t.rd .BEND_PG_CNT_COUNT g 7 =
          (s.rd .BEND_PG_CNT_COUNT g 7 + hitUnits (s.rd .BEND_PG_STAT_DO g) o (s.grpSegments g)) % 2 ^ 48)) ∧
      (s.on .BEND_PG_CFG_AUTO_REALIGN g = false ∨ s.rd .BEND_PATH_ST_PSTATE g p ≠ 3 ∨ s.pathOk g (1 - p.val) = false →
        exec (.autoRealign g p) s = .next s)) ∧
  (∀ (s : State) (r : List Byte) (lag : Nat) (g : Pg), s.alive 15 = true → r.length = 16 → byteAt r 0 % 16 = g.val →
      (s.rd .LNYD_STAT_LSTATE = 2 → s.lanyard.hit = false → s.on .BEND_PG_CFG_EN g = true → s.on .BEND_PG_CFG_KIND g = true →
        s.leads = false → ∀ c d, c = s.rd .BEND_PG_CFG_CLIENT g → d = wrapSub (2 ^ 48) (leAt r 9 6) (s.grp g).words →
        ∃ t, exec (.lockstepRecordReceived r lag) s = .next t ∧ s.only (eventTouch.append [.reg .BEND_EVT, .reg .BEND_PG_STAT,
            .reg .BEND_PATH_ST, .reg .LNYD_CNT]) (eventParts.append [.clients, .groups, .lanyard]) t ∧
        t.lanyard.lsTaken = (s.lanyard.lsTaken + 1) % 2 ^ 32 ∧
        ((s.grp g).counted = false ∨ d ≤ (s.cli c).txBytes.length / 16 →
          (t.grp g).txQ = leAt r 2 4 ∧ (t.grp g).words = (leAt r 9 6 + leAt r 6 3) % 2 ^ 48 ∧
          (t.grp g).load.cow = s.cowBytes c (leAt r 6 3) (bit (byteAt r 1) 0) ∧ t.on .BEND_PG_STAT_LOCKSTEP g = true ∧
          t.rd .BEND_PATH_ST_LOCK_LAG g (s.rd .BEND_PG_CFG_LOCAL_PATH g) = min lag 4095) ∧
        ((s.grp g).counted = true → (s.cli c).txBytes.length / 16 < d → t.on .BEND_PG_STAT_LOCKSTEP g = false ∧
          (t.grp g).txQ = (s.grp g).txQ)) ∧
      (s.rd .LNYD_STAT_LSTATE = 2 → s.lanyard.hit = true → ∃ t, exec (.lockstepRecordReceived r lag) s = .next t ∧
        s.only (eventTouch.append [.reg .BEND_EVT, .reg .BEND_PG_STAT, .reg .BEND_PATH_ST,
            .reg .LNYD_CNT]) (eventParts.append [.clients, .groups, .lanyard]) t ∧ t.groups = s.groups ∧ t.lanyard.hit = false ∧
        t.rd .LNYD_CNT_COUNT 0 = (s.rd .LNYD_CNT_COUNT 0 + 1) % 2 ^ 48) ∧
      (s.rd .LNYD_STAT_LSTATE ≠ 2 → exec (.lockstepRecordReceived r lag) s = .next s)) ∧
  (∀ (s : State) (g : Pg), s.alive 15 = true → s.on .BEND_PG_CFG_EN g = true → s.on .BEND_PG_CFG_KIND g = true → s.leads = false →
      (s.on .BEND_PG_STAT_LOCKSTEP g = true → ∃ t, exec (.lockstepLoss g) s = .next t ∧ s.only (eventTouch.append [.reg .BEND_EVT,
          .reg .BEND_PG_STAT]) eventParts t ∧
        t.on .BEND_PG_STAT_LOCKSTEP g = false ∧ t.on .BEND_EVT_LOCKSTEP_LOST = true) ∧
      (s.on .BEND_PG_STAT_LOCKSTEP g = false → exec (.lockstepLoss g) s = .next s))

/-- The next CM moves toward its target by at most 2; a protected container takes the next q, and the follower of a split group leaves both to the leader. The oldest copy that has come in on a path completes; of a unit that is still due it is counted as good, or as marked or late; in time it is stored unless a good copy is, or its path may not store. At a unit's time its stored copy is played where it qualifies and has been read in time, and otherwise signal fail, counted; units played are never played again. In Pass-through a good copy is played at once. -/
def Obligations.UnitsOfAGroup : Prop :=
  (∀ (s : State) (c : Client) (target cm : Nat) (data : List Byte), s.alive 16 = true → s.rd .SHET_CLI_CFG_TYPE c ≠ 0 →
      cm = (if s.rd .SHET_CLI_CFG_MODE c = 0 then 0 else cmStep (s.cli c).txCm target (payloadWords (s.contSize c))) →
      ∃ t, exec (.gmpCmUpdate c target data) s = .next t ∧ s.only [.reg .BEND_PG_STAT, .reg .LNYD_STAT] [.clients, .groups, .lanyard,
          .out] t ∧
      (s.rd .SHET_CLI_CFG_MODE c ≠ 3 → s.cliSlots c = [] → t = s) ∧
      (s.rd .SHET_CLI_CFG_MODE c ≠ 3 → s.cliSlots c ≠ [] →
        (∀ g, s.groupOf c = some g → s.on .BEND_PG_CFG_KIND g = false ∨ s.leads = true) → (t.cli c).txCm = some cm ∧
        (∀ g, s.groupOf c = some g → (t.grp g).txQ = ((s.grp g).txQ + 1) % 2 ^ 32)) ∧
      (s.rd .SHET_CLI_CFG_MODE c ≠ 3 → s.cliSlots c ≠ [] → ∀ g, s.groupOf c = some g → s.on .BEND_PG_CFG_KIND g = true →
        s.leads = false → (t.cli c).txCm = (s.cli c).txCm ∧ t.groups = s.groups) ∧
      (s.rd .SHET_CLI_CFG_MODE c = 3 → (t.cli c).txBytes = (s.cli c).txBytes ++ Config.hostIn (s.rd .SHET_CLI_CFG_TYPE c) 3 data ∧
        (t.cli c).txCm = (s.cli c).txCm)) ∧
  (∀ (s u : State) (g : Pg) (p : Path) (time : Nat) (c : UnitCopy) (rest : List UnitCopy) (good : Bool), s.alive 15 = true →
      s.on .BEND_PG_CFG_EN g = true → s.localPath g p = true → ((s.grp g).path p).copies = c :: rest → good = (c.good && !c.tagBad) →
      u = s.setGrp g ((s.grp g).setPath p { (s.grp g).path p with
        copies := rest, done := some (c.q, c.j), stamps := ((s.grp g).path p).stamps ++ [⟨c.q, c.j, time, true⟩] }) →
      ∃ t, exec (.unitCopyComplete g p time) s = .next t ∧ s.only (eventTouch.append [.reg .BEND_EVT, .reg .BEND_PG_STAT,
          .reg .BEND_PG_CNT, .reg .SHET_CLI_STAT, .reg .SHET_CLI_EVT, .reg .SHET_CNT]) (eventParts.append [.clients, .groups]) t ∧
              ((t.grp g).path p).copies = rest ∧
      ((t.grp g).path p).done = some (c.q, c.j) ∧
      (s.unitDue g c.q c.j = false → (t.grp g).store = (s.grp g).store) ∧
      (s.unitDue g c.q c.j = true → s.rd .BEND_PG_STAT_GSTATE g ≠ 4 → (t.grp g).last = (s.grp g).last ∧
        ∀ late, late = (u.playTime g c.q c.j).any (fun v => decide (v ≤ time)) →
          t.rd .BEND_PG_CNT_COUNT g (2 * p.val + (if good && !late then 0 else 1)) =
            (s.rd .BEND_PG_CNT_COUNT g (2 * p.val + (if good && !late then 0 else 1)) + 1) % 2 ^ 48 ∧
          (late = true ∨ s.storable g p = false → (t.grp g).store = (s.grp g).store) ∧
          (late = false → s.storable g p = true →
            (∀ x ∈ (s.grp g).store, x.q = c.q → x.j = c.j → x.good = false ∨ x.tagBad = true) →
            { c with time := time } ∈ (t.grp g).store)) ∧
      (s.unitDue g c.q c.j = true → s.rd .BEND_PG_STAT_GSTATE g = 4 → good = true → s.excluded g p = false → c.path = p.val →
        c.q < 2 ^ 32 → (t.grp g).last = some (c.q, c.j) ∧ t.rd .BEND_PG_STAT_Q g = c.q ∧
        t.rd .BEND_PG_CNT_COUNT g (4 + p.val) = (s.rd .BEND_PG_CNT_COUNT g (4 + p.val) + 1) % 2 ^ 48)) ∧
  (∀ (s : State) (g : Pg) (p : Path) (time : Nat), s.alive 15 = true → ((s.grp g).path p).copies = [] →
      exec (.unitCopyComplete g p time) s = .next s) ∧
  (∀ (s : State) (g : Pg) (q : BitVec 32) (j now : Nat) (late : Option MemPort), s.alive 15 = true →
      s.on .BEND_PG_CFG_EN g = true → s.rd .BEND_PG_STAT_GSTATE g ≠ 4 →
      ∃ t, exec (.unitPlayout g q j now late) s = .next t ∧ s.only (eventTouch.append [.reg .BEND_EVT, .reg .BEND_PG_STAT,
          .reg .BEND_PG_CNT, .reg .SHET_CLI_STAT, .reg .SHET_CLI_EVT, .reg .SHET_CNT]) (eventParts.append [.clients, .groups]) t ∧
      ((s.unitDue g q.toNat j = false ∨ ∃ v, s.playTime g q.toNat j = some v ∧ now < v) → t = s) ∧
      (s.unitDue g q.toNat j = true → (∀ v, s.playTime g q.toNat j = some v → v ≤ now) →
        (t.grp g).last = some (q.toNat, j) ∧ t.rd .BEND_PG_STAT_Q g = q.toNat ∧
        (∀ x ∈ (t.grp g).store, unitAfter (x.q, x.j) (q.toNat, j) = true) ∧
        (late = none → s.copyMissing g 0 q.toNat j = true →
          t.rd .BEND_PG_CNT_COUNT g 1 = (s.rd .BEND_PG_CNT_COUNT g 1 + 1) % 2 ^ 48) ∧
        (late = none → s.copyMissing g 1 q.toNat j = true →
          t.rd .BEND_PG_CNT_COUNT g 3 = (s.rd .BEND_PG_CNT_COUNT g 3 + 1) % 2 ^ 48) ∧
        (∀ x, s.copyToPlay g q.toNat j = some x → x.path < 2 → late = none ∨ s.on .BEND_PG_CFG_DSK_LOC g = false →
          t.rd .BEND_PG_CNT_COUNT g (4 + x.path) = (s.rd .BEND_PG_CNT_COUNT g (4 + x.path) + 1) % 2 ^ 48 ∧
          t.rd .BEND_PG_CNT_COUNT g 6 = (s.rd .BEND_PG_CNT_COUNT g 6 + (if x.tagBad then 1 else 0)) % 2 ^ 48 ∧
          (t.cli (s.rd .BEND_PG_CFG_CLIENT g)).unitFail = false) ∧
        (∀ x port, s.copyToPlay g q.toNat j = some x → late = some port → s.on .BEND_PG_CFG_DSK_LOC g = true →
          t.rd .BCKT_MEM_CNT_COUNT port 5 = (s.rd .BCKT_MEM_CNT_COUNT port 5 + 1) % 2 ^ 48 ∧
          (t.cli (s.rd .BEND_PG_CFG_CLIENT g)).unitFail = true) ∧
        (s.copyToPlay g q.toNat j = none → t.rd .BEND_PG_CNT_COUNT g 6 = (s.rd .BEND_PG_CNT_COUNT g 6 + 1) % 2 ^ 48 ∧
          (t.cli (s.rd .BEND_PG_CFG_CLIENT g)).unitFail = true)))

/-- An Ethernet frame of a client in frame mode is counted and, unless the client is in signal fail or the frame is shorter than 64 bytes, joins the client's stream behind its header, cut at 16,000 bytes; of a shared client it joins its leaf's stream, and one whose VID names no leaf, or whose queue is full, is dropped and reported. The delineator gains sync with two good headers and loses it with a bad one; a frame goes out unless egress has stopped or its buffer is full, and one of a leaf whose VID is not the leaf's is dropped and reported. Three overhead words in a row without a good copy lose the container. A declared condition is client signal fail, reported as it begins. Egress resumes once the failure has gone and the delineator has sync, or two overhead words have come. -/
def Obligations.ClientFramesAndConditions : Prop :=
  (∀ (s : State) (c : Client) (frame : Option (List Byte)) (err lf rf : Bool) (corrected uncorrectable : Nat), s.alive 16 = true →
      ∃ t, exec (.clientFrameIngress c frame err lf rf corrected uncorrectable) s = .next t ∧
          s.only (eventTouch.append [.reg .SHET_CLI_STAT, .reg .SHET_CLI_EVT, .reg .SHET_CNT]) (eventParts.append [.clients]) t ∧
      (s.isEth c = false → t = s) ∧
      (s.isEth c = true → t.rd .SHET_CNT_COUNT c 2 = (s.rd .SHET_CNT_COUNT c 2 + corrected) % 2 ^ 48 ∧
        t.rd .SHET_CNT_COUNT c 3 = (s.rd .SHET_CNT_COUNT c 3 + uncorrectable) % 2 ^ 48 ∧
        t.on .SHET_CLI_STAT_RX_LF c = lf ∧ t.on .SHET_CLI_STAT_RX_RF c = rf) ∧
      (s.isEth c = true → (frame = none ∨ s.rd .SHET_CLI_CFG_MODE c ≠ 0) → t.rd .SHET_CNT_COUNT c 0 = s.rd .SHET_CNT_COUNT c 0 ∧
        t.clients = s.clients) ∧
      (∀ f u, s.isEth c = true → frame = some f → s.rd .SHET_CLI_CFG_MODE c = 0 →
        u = frameHeader (min 16000 f.length) (err || (s.cli c).recentred || decide (16000 < f.length) || decide (0 < uncorrectable)) ++
          f.take 16000 →
        t.rd .SHET_CNT_COUNT c 0 = (s.rd .SHET_CNT_COUNT c 0 + 1) % 2 ^ 48 ∧
        (s.on .SHET_CLI_STAT_CSF c = true ∨ f.length < 64 → (t.cli c).tx = (s.cli c).tx ∧ (t.cli c).leaves = (s.cli c).leaves) ∧
        (s.on .SHET_CLI_STAT_CSF c = false → 64 ≤ f.length → s.isShared c = false →
          (t.cli c).tx.units = (s.cli c).tx.units ++ [u]) ∧
        (s.on .SHET_CLI_STAT_CSF c = false → 64 ≤ f.length → s.isShared c = true →
          (s.vidLeaf c f = none → t.on .SHET_CLI_EVT_DROP c = true ∧
            t.rd .SHET_CNT_COUNT c 5 = (s.rd .SHET_CNT_COUNT c 5 + 1) % 2 ^ 48) ∧
          ∀ l key room, s.vidLeaf c f = some l → key = leafKey (s.rd .SHET_CLI_CFG_LINE c) l →
            room = 65536 * ((s.cliLeafSlots c).filter fun k =>
              s.rd .SHET_TS_LINE k == s.rd .SHET_CLI_CFG_LINE c && s.rd .SHET_TS_LEAF k == l).length →
            (room < ((s.cli c).leaves.get {} key).tx.fill + u.length → t.on .SHET_CLI_EVT_DROP c = true ∧
              t.rd .SHET_CNT_COUNT c 5 = (s.rd .SHET_CNT_COUNT c 5 + 1) % 2 ^ 48) ∧
            (((s.cli c).leaves.get {} key).tx.fill + u.length ≤ room →
              ((t.cli c).leaves.get {} key).tx.units = ((s.cli c).leaves.get {} key).tx.units ++ [u])))) ∧
  (∀ (d : Delin) (h : List Byte), d.skip = 0 → h = plainBytes (d.bytes.take 4) → 4 ≤ d.bytes.length →
      (d.sync = true → headerOk h = false → d.step = (.lost, { d with sync := false })) ∧
      (d.sync = true → headerOk h = true → leAt h 0 2 ≠ 0 → 4 + leAt h 0 2 ≤ d.bytes.length → d.step.1 =
        .frame (bit (byteAt h 2) 0 || ((d.bytes.drop 4).take (leAt h 0 2)).any fun b => b.2)
          (plainBytes ((d.bytes.drop 4).take (leAt h 0 2)))) ∧
      (d.sync = false → headerOk h = true → 8 + leAt h 0 2 ≤ d.bytes.length →
        d.step.2.sync = headerOk (plainBytes ((d.bytes.drop (4 + leAt h 0 2)).take 4)))) ∧
  (∀ (s : State) (c : Client) (sent : Nat), s.alive 16 = true → s.rd .SHET_CLI_CFG_TYPE c ≠ 0 → s.rd .SHET_CLI_CFG_MODE c = 0 →
      s.isShared c = false → ∃ t, exec (.egressHeader c sent) s = .next t ∧ s.only (eventTouch.append [.reg .SHET_CLI_STAT,
          .reg .SHET_CLI_EVT, .reg .SHET_CNT]) (eventParts.append [.clients]) t ∧
      (t.cli c).rx = (s.cli c).rx.step.2 ∧
      t.on .SHET_CLI_STAT_SYNC c = ((s.cli c).rx.step.2.sync || (s.cli c).leaves.any fun e => e.2.rx.sync) ∧
      ((s.cli c).rx.step.1 = .lost → t.rd .SHET_CNT_COUNT c 7 = (s.rd .SHET_CNT_COUNT c 7 + 1) % 2 ^ 48) ∧
      (∀ err f e, (s.cli c).rx.step.1 = .frame err f → e = (s.cli c).egress - sent →
        (s.on .SHET_CLI_STAT_EGR_ACT c = true → t.out = s.out) ∧
        (s.on .SHET_CLI_STAT_EGR_ACT c = false → s.egressRoom c < e + f.length →
          t.rd .SHET_CNT_COUNT c 5 = (s.rd .SHET_CNT_COUNT c 5 + 1) % 2 ^ 48 ∧ t.on .SHET_CLI_EVT_DROP c = true) ∧
        (s.on .SHET_CLI_STAT_EGR_ACT c = false → e + f.length ≤ s.egressRoom c →
          t.rd .SHET_CNT_COUNT c 1 = (s.rd .SHET_CNT_COUNT c 1 + 1) % 2 ^ 48 ∧ (t.cli c).egress = e + f.length ∧
          t.out = .hostFrame c.val (err || (s.cli c).recentredOut) (if s.egressRoom c < 2 * e then 8 else 12) (preamble ++ f) ::
            s.out))) ∧
  (∀ (s : State) (c : Client) (sent key : Nat) (err : Bool) (f : List Byte), s.alive 16 = true → s.rd .SHET_CLI_CFG_TYPE c ≠ 0 →
      s.rd .SHET_CLI_CFG_MODE c = 0 → s.isShared c = true → (s.cli c).nextLeaf = some key →
      ((s.cli c).leaves.get {} key).rx.step.1 = .frame err f →
      ∃ t, exec (.egressHeader c sent) s = .next t ∧ s.only (eventTouch.append [.reg .SHET_CLI_STAT, .reg .SHET_CLI_EVT,
          .reg .SHET_CNT]) (eventParts.append [.clients]) t ∧ (t.cli c).turn = key ∧
      (s.leafServerFail c (key / 256) (key % 256) = true → t.out = s.out) ∧
      (s.leafServerFail c (key / 256) (key % 256) = false → s.vidLeaf c f ≠ some (key % 256) →
        t.on .SHET_CLI_EVT_SPOOF c = true ∧ t.rd .SHET_CNT_COUNT c 7 = (s.rd .SHET_CNT_COUNT c 7 + 1) % 2 ^ 48)) ∧
  (∀ (s : State) (c : Client) (w : List Byte) (rest : List (List Byte)), s.alive 16 = true → s.rd .SHET_CLI_CFG_TYPE c ≠ 0 →
      (s.cli c).cows = w :: rest → ∃ t, exec (.cowReceived c) s = .next t ∧ s.only (eventTouch.append [.reg .SHET_CLI_STAT,
          .reg .SHET_CLI_EVT, .reg .SHET_CNT]) (eventParts.append [.clients]) t ∧ (t.cli c).cows = rest ∧
      (∀ cm fl, cowFields w = some (cm, fl) → (t.cli c).rxCm = cm ∧ (t.cli c).rxFlags = fl ∧ (t.cli c).cowBad = 0 ∧
        (t.cli c).cowLost = ((s.cli c).cowLost && decide ((s.cli c).cowGood = 0)) ∧
        t.on .SHET_CLI_STAT_GMP_LOCK c = (s.rd .SHET_CLI_CFG_MODE c != 0) ∧ t.on .SHET_CLI_STAT_FAR_CSF c = bit fl 0) ∧
      (cowFields w = none → t.rd .SHET_CNT_COUNT c 6 = (s.rd .SHET_CNT_COUNT c 6 + 1) % 2 ^ 48 ∧ (t.cli c).cowGood = 0 ∧
        t.on .SHET_CLI_STAT_GMP_LOCK c = false ∧
        (2 ≤ (s.cli c).cowBad → (s.cli c).cowLost = false → (t.cli c).cowLost = true ∧ t.on .SHET_CLI_EVT_COW_LOST c = true) ∧
        ((s.cli c).cowBad < 2 → (t.cli c).cowLost = (s.cli c).cowLost))) ∧
  (∀ (s : State) (c : Client), s.alive 16 = true → (s.cli c).cows = [] → exec (.cowReceived c) s = .next s) ∧
  (∀ (s : State) (c : Client), s.alive 16 = true → ∃ t, exec (.egressResume c) s = .next t ∧ s.only [.reg .SHET_CLI_STAT] [] t ∧
      (s.on .SHET_CLI_STAT_SRV_FAIL c = false → s.on .SHET_CLI_STAT_FAR_CSF c = false →
        ((s.rd .SHET_CLI_CFG_MODE c = 0 ∧ s.on .SHET_CLI_STAT_SYNC c = true) ∨
          (s.rd .SHET_CLI_CFG_MODE c ≠ 0 ∧ 2 ≤ (s.cli c).cowGood)) → t.on .SHET_CLI_STAT_EGR_ACT c = false) ∧
      (s.on .SHET_CLI_STAT_SRV_FAIL c = true ∨ s.on .SHET_CLI_STAT_FAR_CSF c = true → t = s)) ∧
  (∀ (s : State) (c : Client), s.alive 16 = true → s.rd .SHET_CLI_CFG_TYPE c ≠ 0 → ∃ t, exec (.ingressCsf c) s = .next t ∧
      s.only (eventTouch.append [.reg .SHET_CLI_STAT, .reg .SHET_CLI_EVT]) (eventParts.append [.clients]) t ∧
          (t.cli c).condition = true ∧ t.on .SHET_CLI_STAT_CSF c = true ∧
      (s.on .SHET_CLI_STAT_CSF c = false → t.on .SHET_CLI_EVT_ING_FAIL c = true)) ∧
  (∀ (s : State) (c : Client), s.alive 16 = true → ∃ t, exec (.ingressCsfClear c) s = .next t ∧
      s.only (eventTouch.append [.reg .SHET_CLI_STAT, .reg .SHET_CLI_EVT]) (eventParts.append [.clients]) t ∧
      (t.cli c).condition = false ∧ ((∀ l ∈ s.cliLanes c, s.laneGood l = true) → t.on .SHET_CLI_STAT_CSF c = false))

/-- A lane in Acquiring whose receiver has converged with 12 dB is Trained, or in Training where it is a C2C lane at 106.25 GBd; both ends ready train it; the timer makes it Untrained with cause 0, or 2 where the protocol has faulted in Training; a second later a new attempt starts, which ends at once with cause 1 while its rate does not fit. -/
def Obligations.LanesTrainAndFail : Prop :=
  (∀ (s : State) (l : Lane) (snr : Nat), s.alive 17 = true → s.laneState l = 1 →
      (120 ≤ snr → ∃ t, exec (.laneConverged l snr) s = .next t ∧ s.only (eventTouch.append [.reg .HLYD_EVT, .reg .HLYD_STAT,
          .reg .HLYD_REF_ST, .reg .HLYD_HO, .reg .SHET_CLI_STAT, .reg .SHET_CLI_EVT, .reg .TWIN_TXFFE, .reg .TWIN_STAT,
              .reg .TWIN_EVT]) (eventParts.append [.halyard, .twine, .clients]) t ∧ t.rd .TWIN_STAT_RX_SNR l = min 511 snr ∧
        t.on .TWIN_STAT_CDR_LOCK l = true ∧
        (s.rd .TWIN_LANE_CFG_INTF l = 1 → s.rd .TWIN_QUAD_CFG_RATE (l.val / 4) = 3 → t.laneState l = 2) ∧
        ((s.rd .TWIN_LANE_CFG_INTF l ≠ 1 ∨ s.rd .TWIN_QUAD_CFG_RATE (l.val / 4) ≠ 3) → t.laneState l = 3 ∧
          t.rd .TWIN_STAT_ATTEMPTS l = 0 ∧ t.on .TWIN_EVT_TRAINED l = true)) ∧
      (snr < 120 → exec (.laneConverged l snr) s = .next s)) ∧
  (∀ (s : State) (l : Lane) (snr : Nat), s.alive 17 = true → s.laneState l ≠ 1 → exec (.laneConverged l snr) s = .next s) ∧
  (∀ (s : State) (l : Lane), s.alive 17 = true →
      (s.laneState l = 2 → ∃ t, exec (.trainingComplete l) s = .next t ∧ s.only (eventTouch.append [.reg .HLYD_EVT, .reg .HLYD_STAT,
          .reg .HLYD_REF_ST, .reg .HLYD_HO, .reg .SHET_CLI_STAT, .reg .SHET_CLI_EVT, .reg .TWIN_TXFFE, .reg .TWIN_STAT,
              .reg .TWIN_EVT]) (eventParts.append [.halyard, .twine, .clients]) t ∧ t.laneState l = 3 ∧
        t.on .TWIN_STAT_PART_RDY l = true ∧ t.on .TWIN_EVT_TRAINED l = true ∧
        ∀ v, (s.tw l).coeff = some v → v < 2 ^ 32 → t.reg .TWIN_TXFFE l = v) ∧
      (s.laneState l ≠ 2 → exec (.trainingComplete l) s = .next s)) ∧
  (∀ (s : State) (l : Lane) (fault : Bool), s.alive 17 = true →
      (s.laneState l = 1 ∨ s.laneState l = 2 → ∃ t, exec (.trainingTimerExpiry l fault) s = .next t ∧
          s.only (eventTouch.append [.reg .HLYD_EVT, .reg .HLYD_STAT, .reg .HLYD_REF_ST, .reg .HLYD_HO, .reg .SHET_CLI_STAT,
              .reg .SHET_CLI_EVT, .reg .TWIN_SCAN, .reg .TWIN_STAT, .reg .TWIN_EVT]) (eventParts.append [.halyard, .clients]) t ∧
        t.laneState l = 4 ∧ t.rd .TWIN_STAT_UNTR_CAUSE l = (if s.laneState l = 2 ∧ fault = true then 2 else 0) ∧
        t.on .TWIN_EVT_UNTRAINED l = true ∧ t.on .TWIN_STAT_CDR_LOCK l = false) ∧
      (s.laneState l ≠ 1 → s.laneState l ≠ 2 → exec (.trainingTimerExpiry l fault) s = .next s)) ∧
  (∀ (s : State) (l : Lane), s.alive 17 = true → s.laneState l = 4 → ∃ t, exec (.untrainedRetry l) s = .next t ∧
      s.only (eventTouch.append [.reg .HLYD_EVT, .reg .HLYD_STAT, .reg .HLYD_REF_ST, .reg .HLYD_HO, .reg .SHET_CLI_STAT,
          .reg .SHET_CLI_EVT, .reg .TWIN_SCAN, .reg .TWIN_STAT, .reg .TWIN_EVT, .reg .TWIN_CNT]) (eventParts.append [.halyard, .twine,
              .clients]) t ∧
      (s.on .TWIN_LANE_CFG_EN l = true → s.rd .TWIN_QUAD_CFG_RATE (l.val / 4) ≠ 0 → (t.tw l).coeff = none ∧
        t.rd .TWIN_CNT_COUNT l 2 = (s.rd .TWIN_CNT_COUNT l 2 + 1) % 2 ^ 48 ∧ (s.rateFits l = true → t.laneState l = 1) ∧
        (s.rateFits l = false → t.laneState l = 4 ∧ t.rd .TWIN_STAT_UNTR_CAUSE l = 1)) ∧
      (s.on .TWIN_LANE_CFG_EN l = false ∨ s.rd .TWIN_QUAD_CFG_RATE (l.val / 4) = 0 → t.laneState l = 0)) ∧
  (∀ (s : State) (l : Lane), s.alive 17 = true → s.laneState l ≠ 4 → exec (.untrainedRetry l) s = .next s)

/-- Loss of signal is reported and reaches the clients of the lane, and loss of signal or clock starts a new attempt of a Trained lane. A partner's request in Training moves a tap within its limits, or is answered as at its limit under TX_LOCK. -/
def Obligations.LaneSignalsAndRequests : Prop :=
  (∀ (s : State) (l : Lane), s.alive 17 = true → s.laneState l ≠ 0 → s.on .TWIN_STAT_LOS l = false →
      ∃ t, exec (.laneLos l) s = .next t ∧ s.only (eventTouch.append [.reg .HLYD_EVT, .reg .HLYD_STAT, .reg .HLYD_REF_ST,
          .reg .HLYD_HO, .reg .SHET_CLI_STAT, .reg .SHET_CLI_EVT, .reg .TWIN_SCAN, .reg .TWIN_STAT, .reg .TWIN_EVT,
              .reg .TWIN_CNT]) (eventParts.append [.halyard, .twine, .clients]) t ∧ t.on .TWIN_STAT_LOS l = true ∧
              t.on .TWIN_EVT_LOS_RISE l = true ∧
      (s.laneState l ≠ 3 → t.laneState l = s.laneState l) ∧
      (s.laneState l = 3 → s.rateFits l = true → s.on .TWIN_LANE_CFG_EN l = true → s.rd .TWIN_QUAD_CFG_RATE (l.val / 4) ≠ 0 →
        t.laneState l = 1) ∧
      (∀ c : Client, c.val ∈ s.clientsOn l → s.rd .SHET_CLI_CFG_TYPE c ≠ 0 → t.on .SHET_CLI_STAT_CSF c = true)) ∧
  (∀ (s : State) (l : Lane), s.alive 17 = true → s.on .TWIN_STAT_LOS l = true → ∃ t, exec (.laneLosClear l) s = .next t ∧
      s.only (eventTouch.append [.reg .HLYD_EVT, .reg .HLYD_STAT, .reg .HLYD_REF_ST, .reg .HLYD_HO, .reg .SHET_CLI_STAT,
          .reg .SHET_CLI_EVT, .reg .TWIN_STAT]) (eventParts.append [.halyard, .clients]) t ∧ t.on .TWIN_STAT_LOS l = false ∧
              t.laneState l = s.laneState l) ∧
  (∀ (s : State) (l : Lane), s.alive 17 = true → ∃ t, exec (.cdrLoss l) s = .next t ∧ s.only (eventTouch.append [.reg .HLYD_EVT,
      .reg .HLYD_STAT, .reg .HLYD_REF_ST, .reg .HLYD_HO, .reg .SHET_CLI_STAT, .reg .SHET_CLI_EVT, .reg .TWIN_SCAN, .reg .TWIN_STAT,
          .reg .TWIN_EVT, .reg .TWIN_CNT]) (eventParts.append [.halyard, .twine, .clients]) t ∧
      t.on .TWIN_STAT_CDR_LOCK l = false ∧ (s.laneState l ≠ 3 → t.laneState l = s.laneState l) ∧
      (s.laneState l = 3 → s.rateFits l = true → s.on .TWIN_LANE_CFG_EN l = true → s.rd .TWIN_QUAD_CFG_RATE (l.val / 4) ≠ 0 →
        t.laneState l = 1)) ∧
  (∀ (s : State) (l : Lane) (tap : Fin 5) (delta : Int), s.alive 17 = true → s.laneState l = 2 →
      ∃ t, exec (.coeffRequest l tap delta) s = .next t ∧ s.only [] [.twine, .out] t ∧
      (s.on .TWIN_TXFFE_TX_LOCK l = true → t.twine = s.twine ∧ t.out = .coeffAnswer l.val true :: s.out) ∧
      (s.on .TWIN_TXFFE_TX_LOCK l = false → ∃ v lim, t.out = .coeffAnswer l.val lim :: s.out ∧ (t.tw l).coeff = some v ∧
        moveTap ((s.tw l).coeff.getD (s.reg .TWIN_TXFFE l)) tap delta = (v, lim)))

/-- A write of the equaliser is taken with C(0) lowered until the magnitudes sum to 63. A scan starts on a Trained lane; on another it ends at once without a valid result. A due automatic scan starts unless one runs or the budget withholds it. A completed scan shows what its six sweeps span at the ratio asked for, with the next sequence number, and is reported; the worst eye of an automatic one joins the history, and below LANE_MIN is reported. A slip of the far-end loopback buffer is counted, and reported once in a second. -/
def Obligations.EqualisersAndMarginScans : Prop :=
  (∀ (s : State) (req : Requester) (l : Lane) (v : BitVec 32), s.mayWrite req 17 1 (s.laneDom l) →
      ∃ t, exec (.txffeWrite req l v) s = .next t ∧ s.only (eventTouch.append [.reg .MRLN_NV_EVT, .reg .MRLN_NV_ST,
          .reg .TWIN_TXFFE]) (eventParts.append [.latches, .journal, .twine]) t ∧ t.reg .TWIN_TXFFE l = fitTaps (v.toNat % 2 ^ 31) ∧
      (t.tw l).coeff = none ∧ ∀ m : Lane, m ≠ l → t.reg .TWIN_TXFFE m = s.reg .TWIN_TXFFE m) ∧
  (∀ (s : State) (req : Requester) (l : Lane), s.mayWrite req 17 1 (s.laneDom l) → s.on .TWIN_SCAN_SCAN_BUSY l = false →
      ∃ t, exec (.scanReq req l) s = .next t ∧ s.only (eventTouch.append [.reg .MRLN_NV_EVT, .reg .MRLN_NV_ST,
          .reg .TWIN_SCAN]) (eventParts.append [.latches, .journal, .twine]) t ∧
      (s.laneState l = 3 → t.on .TWIN_SCAN_SCAN_BUSY l = true ∧ (t.tw l).auto = false) ∧
      (s.laneState l ≠ 3 → t.on .TWIN_SCAN_SCAN_BUSY l = false ∧ t.on .TWIN_SCAN_SCAN_VALID l = false)) ∧
  (∀ (s : State) (l : Lane), s.alive 17 = true →
      (s.rd .TWIN_SCAN_MARGIN_INT l ≠ 0 → s.belay.background = true → s.laneState l = 3 → s.on .TWIN_SCAN_SCAN_BUSY l = false →
        ∃ t, exec (.marginScanAuto l) s = .next t ∧ s.only [.reg .TWIN_SCAN] [.twine] t ∧ t.on .TWIN_SCAN_SCAN_BUSY l = true ∧
        (t.tw l).auto = true) ∧
      (s.rd .TWIN_SCAN_MARGIN_INT l = 0 ∨ s.belay.background = false ∨ s.on .TWIN_SCAN_SCAN_BUSY l = true →
        ∃ t, exec (.marginScanAuto l) s = .next t ∧ t = s)) ∧
  (∀ (s : State) (l : Lane) (sweeps : List (List Nat)) (sp : Nat → Nat), s.alive 17 = true → s.on .TWIN_SCAN_SCAN_BUSY l = true →
      (∀ k, sp k = eyeSpan (s.rd .TWIN_SCAN_TGT l) (s.rd .TWIN_SCAN_DWELL l) (sweeps.getD k []) % 256) →
      ∃ t, exec (.scanDone l sweeps) s = .next t ∧ s.only (eventTouch.append [.reg .TALY_AGE_EVT, .reg .TALY_AGE_ST,
          .reg .TALY_AGE_LOG, .reg .TWIN_SCAN, .reg .TWIN_EYE, .reg .TWIN_EVT]) (eventParts.append [.twine, .age]) t ∧
              t.on .TWIN_SCAN_SCAN_BUSY l = false ∧
      t.on .TWIN_SCAN_SCAN_VALID l = true ∧ t.on .TWIN_EVT_SCAN_DONE l = true ∧
      bits (t.reg .TWIN_EYE l) 47 0 = sp 1 + 2 ^ 8 * sp 0 + 2 ^ 16 * sp 3 + 2 ^ 24 * sp 2 + 2 ^ 32 * sp 5 + 2 ^ 40 * sp 4 ∧
      t.rd .TWIN_EYE_SCAN_SEQ l = (s.rd .TWIN_EYE_SCAN_SEQ l + 1) % 2 ^ 16 ∧
      ((s.tw l).auto = false → t.age = s.age) ∧
      ((s.tw l).auto = true → (t.tw l).auto = false ∧ (t.tw l).height = min (sp 1) (min (sp 3) (sp 5)) ∧
        t.age.margins = (false, l.val, min (sp 1) (min (sp 3) (sp 5)), min (sp 0) (min (sp 2) (sp 4))) :: s.age.margins ∧
        (min (sp 1) (min (sp 3) (sp 5)) < s.rd .TALY_AGE_CFG_LANE_MIN → t.on .TALY_AGE_EVT_LANE_LOW = true))) ∧
  (∀ (s : State) (l : Lane), s.alive 17 = true → s.rd .TWIN_LANE_CFG_LPBK l = 2 → s.laneState l ≠ 0 →
      ∃ t, exec (.loopbackSlip l) s = .next t ∧ s.only (eventTouch.append [.reg .TWIN_EVT,
          .reg .TWIN_CNT]) (eventParts.append [.twine]) t ∧
      t.rd .TWIN_CNT_COUNT l 3 = (s.rd .TWIN_CNT_COUNT l 3 + 1) % 2 ^ 48 ∧ (t.tw l).slipSaid = true ∧
      ((s.tw l).slipSaid = false → t.on .TWIN_EVT_SLIP l = true))

/-- An attempt that expires is followed by the next, the third by Mate-absent; there one attempt is made each second. Three intervals without HELLO, or sync lost on a lane in use, take the link from Up to Training, reported. While it sends, the link sends HELLO packets; one that arrives gives the partner's view, and the third in a row with ACK brings the link Up where every lane in use is in sync; one that fails its checks is counted. CREDIT packets leave only after a change, and what they return is taken. A scan runs on a lane in sync and shows its result. -/
def Obligations.MateLinkStates : Prop :=
  (∀ (s : State), s.alive 18 = true →
      (s.linkState = 1 → s.rd .LNYD_STAT_ATTEMPT < 3 → ∃ t, exec .trainingAttemptExpiry s = .next t ∧
          s.only (eventTouch.append [.reg .LNYD_LANE_STAT, .reg .LNYD_STAT, .reg .LNYD_EVT]) (eventParts.append [.lanyard]) t ∧
        t.linkState = 1 ∧ t.rd .LNYD_STAT_ATTEMPT = s.rd .LNYD_STAT_ATTEMPT + 1 ∧ t.lanyard.hellos = 0) ∧
      (s.linkState = 1 → s.rd .LNYD_STAT_ATTEMPT = 3 → ∃ t, exec .trainingAttemptExpiry s = .next t ∧
          s.only (eventTouch.append [.reg .LNYD_LANE_STAT, .reg .LNYD_STAT, .reg .LNYD_EVT]) (eventParts.append [.lanyard]) t ∧
        t.linkState = 3 ∧ t.rd .LNYD_STAT_ATTEMPT = 0 ∧ t.on .LNYD_EVT_ABSENT = true) ∧
      (s.linkState = 3 → s.rd .LNYD_STAT_ATTEMPT ≠ 0 → ∃ t, exec .trainingAttemptExpiry s = .next t ∧
          s.only (eventTouch.append [.reg .LNYD_LANE_STAT, .reg .LNYD_STAT, .reg .LNYD_EVT]) (eventParts.append [.lanyard]) t ∧
        t.linkState = 3 ∧ t.rd .LNYD_STAT_ATTEMPT = 0)) ∧
  (∀ (s : State), s.alive 18 = true →
      (s.linkState = 3 → ∃ t, exec .mateAbsentRetry s = .next t ∧ s.only [.reg .LNYD_LANE_STAT, .reg .LNYD_STAT] [.lanyard, .out] t ∧
          t.linkState = 3 ∧
        t.rd .LNYD_STAT_ATTEMPT = 1 ∧ t.lanyard.hellos = 0 ∧ t.lanyard.heard = false) ∧
      (s.linkState ≠ 3 → exec .mateAbsentRetry s = .next s)) ∧
  (∀ (s : State), s.alive 18 = true →
      (s.linkState = 2 → ∃ t, exec .helloTimeout s = .next t ∧ s.only (eventTouch.append [.reg .LNYD_LANE_CFG, .reg .LNYD_LANE_STAT,
          .reg .LNYD_EYE, .reg .LNYD_STAT, .reg .LNYD_EVT, .reg .LNYD_CNT]) (eventParts.append [.lanyard]) t ∧ t.linkState = 1 ∧
              t.rd .LNYD_STAT_ATTEMPT = 1 ∧
        t.on .LNYD_EVT_LINK_LOST = true ∧ t.lanyard.lsWait = [] ∧ t.lanyard.ckWait = [] ∧ t.lanyard.sending = none) ∧
      (s.linkState ≠ 2 → exec .helloTimeout s = .next s)) ∧
  (∀ (s : State) (l : MateLane), s.alive 18 = true → ∃ t, exec (.mateLaneSyncLoss l) s = .next t ∧
      s.only (eventTouch.append [.reg .LNYD_LANE_CFG, .reg .LNYD_LANE_STAT, .reg .LNYD_EYE, .reg .LNYD_STAT, .reg .LNYD_EVT,
          .reg .LNYD_CNT]) (eventParts.append [.lanyard]) t ∧
      t.on .LNYD_LANE_STAT_SYNC l = false ∧ t.on .LNYD_LANE_CFG_SCAN_REQ l = false ∧
      (s.linkState = 2 → l.val < s.mateLanes → t.linkState = 1 ∧ t.on .LNYD_EVT_LINK_LOST = true) ∧
      (s.linkState ≠ 2 ∨ s.mateLanes ≤ l.val → t.linkState = s.linkState ∧ t.lanyard = s.lanyard)) ∧
  (∀ (s : State), s.alive 18 = true →
      (s.mateSends = true → ∃ t, exec .helloSend s = .next t ∧ s.only [] [.lanyard, .out] t ∧
        t.lanyard.seq = (s.lanyard.seq + 1) % 2 ^ 32 ∧
        t.out = .matePacket (s.lanyard.seq % s.mateLanes) (packetBytes 0 0 s.lanyard.seq s.helloBytes) :: s.out) ∧
      (s.mateSends = false → exec .helloSend s = .next s)) ∧
  (∀ (s : State) (p : List Byte) (bad : Bool) (synced : BitVec 4), s.alive 18 = true → s.mateSends = true →
      ∃ t, exec (.helloReceived p bad synced) s = .next t ∧ s.only (eventTouch.append [.reg .BEND_PG_STAT, .reg .LNYD_LANE_STAT,
          .reg .LNYD_STAT, .reg .LNYD_EVT, .reg .LNYD_CNT]) (eventParts.append [.pins, .lanyard]) t ∧
      (packetPayload p (s.packetBad bad) 0 = none → t.rd .LNYD_CNT_COUNT 0 = (s.rd .LNYD_CNT_COUNT 0 + 1) % 2 ^ 48 ∧
          t.lanyard = { s.lanyard with hit := false } ∧
        t.linkState = s.linkState) ∧
      (∀ h, packetPayload p (s.packetBad bad) 0 = some h → t.lanyard.heard = true ∧ t.lanyard.helloNum = some (leAt h 2 2) ∧
        t.lanyard.hellos = (if bit (byteAt h 0) 0 then min 3 (s.lanyard.hellos + 1) else 0) ∧
        t.lanyard.farSuspect = bit (byteAt h 0) 1 ∧
        (s.linkState ≠ 2 → bit (byteAt h 0) 0 = true → 2 ≤ s.lanyard.hellos →
          (∀ l : MateLane, l.val < s.mateLanes → synced.toNat.testBit l.val = true) → t.linkState = 2 ∧ t.on .LNYD_EVT_LINK_UP = true ∧
          t.lanyard.lsSent = 0 ∧ t.lanyard.ckSent = 0 ∧ t.lanyard.lsBack = 0 ∧ t.lanyard.ckBack = 0) ∧
        (s.linkState = 2 ∨ bit (byteAt h 0) 0 = false ∨ s.lanyard.hellos < 2 ∨
          (∃ l : MateLane, l.val < s.mateLanes ∧ synced.toNat.testBit l.val = false) → t.linkState = s.linkState))) ∧
  (∀ (s : State), s.alive 18 = true →
      (s.linkState = 2 → s.lanyard.creditDue = true → ∃ t, exec .creditSend s = .next t ∧ s.only [] [.lanyard, .out] t ∧
        t.lanyard.creditDue = false ∧ t.out = .matePacket (s.lanyard.seq % s.mateLanes)
          (packetBytes 1 0 s.lanyard.seq (padTo 16 (leBytes 4 s.lanyard.lsTaken ++ leBytes 4 s.lanyard.ckTaken))) :: s.out) ∧
      (s.linkState ≠ 2 ∨ s.lanyard.creditDue = false → exec .creditSend s = .next s)) ∧
  (∀ (s : State) (p : List Byte) (bad : Bool), s.alive 18 = true → s.linkState = 2 →
      ∃ t, exec (.creditReceived p bad) s = .next t ∧ s.only [.reg .LNYD_STAT, .reg .LNYD_CNT] [.lanyard, .out] t ∧ t.linkState = 2 ∧
      (packetPayload p (s.packetBad bad) 1 = none → t.rd .LNYD_CNT_COUNT 0 = (s.rd .LNYD_CNT_COUNT 0 + 1) % 2 ^ 48 ∧
          t.lanyard = { s.lanyard with hit := false }) ∧
      (∀ c, packetPayload p (s.packetBad bad) 1 = some c → t.lanyard.lsBack = leAt c 0 4 ∧ t.lanyard.ckBack = leAt c 4 4)) ∧
  (∀ (s : State) (req : Requester) (l : MateLane), s.mayWrite req 18 2 0 → s.on .LNYD_LANE_CFG_SCAN_REQ l = false →
      ∃ t, exec (.mateScanReq req l) s = .next t ∧ s.only (eventTouch.append [.reg .MRLN_NV_EVT, .reg .MRLN_NV_ST,
          .reg .LNYD_LANE_CFG, .reg .LNYD_EYE, .reg .LNYD_REFUSE]) (eventParts.append [.latches, .journal]) t ∧
      (s.on .LNYD_LANE_STAT_SYNC l = true → t.on .LNYD_LANE_CFG_SCAN_REQ l = true) ∧
      (s.on .LNYD_LANE_STAT_SYNC l = false → t.on .LNYD_LANE_CFG_SCAN_REQ l = false ∧ t.on .LNYD_EYE_SCAN_VALID l = false)) ∧
  (∀ (s : State) (l : MateLane) (sweeps : List (List Nat)) (sp : Nat → Nat), s.alive 18 = true → s.on .LNYD_LANE_CFG_SCAN_REQ l = true →
      (∀ k, sp k = eyeSpan 6 (s.rd .LNYD_LANE_CFG_DWELL l) (sweeps.getD k []) % 256) →
      ∃ t, exec (.mateScanDone l sweeps) s = .next t ∧ s.only (eventTouch.append [.reg .LNYD_LANE_CFG, .reg .LNYD_EYE,
          .reg .LNYD_EVT]) (eventParts.append [.age]) t ∧ t.on .LNYD_LANE_CFG_SCAN_REQ l = false ∧
      t.on .LNYD_EYE_SCAN_VALID l = true ∧ t.rd .LNYD_EYE_WIDTH l = sp 0 ∧ t.rd .LNYD_EYE_HEIGHT l = sp 1 ∧
      t.on .LNYD_EVT_SCAN_DONE = true ∧ t.age.margins = (true, l.val, sp 1, sp 0) :: s.age.margins)

/-- When the partner's level falls, a device that may claim claims and its gates open; if they were closed, the takeover starts from the latest valid set on the die, or else the newest one in a Ready region. Three identical claim frames with a good CRC in a row give the partner's number; one that is not good breaks the row. When the gap ends, the gates of the higher number open, and only those. Once the services are restored from that set TAKEOVER shows it and it is reported; the restore puts an Active leaf into Stale with its timing advance, and moves hub time on by the periods elapsed. -/
def Obligations.ClaimsGatesAndTakeover : Prop :=
  (∀ (s : State) (level : Bool), s.alive 18 = true → ∃ t, exec (.partnerClaimChange level) s = .next t ∧
      s.only (eventTouch.append [.reg .LNYD_STAT, .reg .LNYD_EVT]) (eventParts.append [.pins, .lanyard]) t ∧
      t.pins.clmIn0 = level ∧ t.on .LNYD_STAT_PART_CLAIMS = level ∧
      (s.on .LNYD_STAT_PART_CLAIMS = level → t.regs = s.regs ∧ t.lanyard = s.lanyard) ∧
      (s.on .LNYD_STAT_PART_CLAIMS = true → level = false → s.mate = true → s.on .LNYD_CLAIM_CLAIM_EN = true → s.boot.rootLocked = true →
        s.boot.shutdown = false → t.on .LNYD_STAT_CLAIMING = true ∧ t.on .LNYD_STAT_GATES_OPEN = true ∧ t.pins.clmOut0 = true ∧
        (s.on .LNYD_STAT_GATES_OPEN = false → t.on .LNYD_EVT_GATE = true ∧
          (∀ k, s.lanyard.latest = some k → t.lanyard.takeover = some k) ∧
          (s.lanyard.latest = none → s.ckReady = true → t.lanyard.takeover = s.lanyard.region.head?) ∧
          (s.lanyard.latest = none → s.ckReady = false → t.lanyard.takeover = none)))) ∧
  (∀ (s : State) (w : BitVec 32) (num : Nat), s.alive 18 = true → num = bits w.toNat 23 8 →
      ∃ t, exec (.claimFrameReceived w) s = .next t ∧ s.only (eventTouch.append [.reg .BEND_PG_STAT, .reg .LNYD_STAT,
          .reg .LNYD_EVT]) (eventParts.append [.pins, .lanyard]) t ∧
      (w.toNat ≠ claimFrame num → t.lanyard.frameRun = 0 ∧ t.lanyard.pinNum = s.lanyard.pinNum ∧ t.regs = s.regs) ∧
      (w.toNat = claimFrame num → (s.lanyard.frameRun = 0 ∨ s.lanyard.frameNum ≠ num) → t.lanyard.frameRun = 1 ∧
        t.lanyard.frameNum = num ∧ t.lanyard.pinNum = s.lanyard.pinNum ∧ t.regs = s.regs) ∧
      (w.toNat = claimFrame num → s.lanyard.frameNum = num → 2 ≤ s.lanyard.frameRun → t.lanyard.pinNum = some num ∧
        t.on .LNYD_STAT_NUM_KNOWN = true ∧ t.rd .LNYD_STAT_PART_NUM = num ∧
        (∀ k, s.lanyard.helloNum = some k → k ≠ num → t.on .LNYD_STAT_NUM_MISMATCH = true))) ∧
  (∀ (s : State), s.alive 18 = true → s.mate = true → s.on .LNYD_STAT_CLAIMING = true → s.on .LNYD_STAT_PART_CLAIMS = true →
      ∃ t, exec .claimGapDone s = .next t ∧ s.only (eventTouch.append [.reg .LNYD_STAT, .reg .LNYD_EVT]) (eventParts.append [.pins,
          .lanyard]) t ∧ t.lanyard.gapDone = true ∧
      (t.on .LNYD_STAT_GATES_OPEN = true ↔
        s.on .LNYD_STAT_NUM_KNOWN = true ∧ s.rd .LNYD_STAT_PART_NUM < s.rd .LNYD_CLAIM_CLAIM_NUM) ∧
      (t.on .LNYD_STAT_CONFLICT = true ↔
        s.on .LNYD_STAT_NUM_KNOWN = true ∧ s.rd .LNYD_STAT_PART_NUM = s.rd .LNYD_CLAIM_CLAIM_NUM)) ∧
  (∀ (s : State) (elapsed : Nat), s.alive 18 = true →
      (∀ k, s.lanyard.takeover = some k → ∃ t, exec (.takeoverRestoreDone elapsed) s = .next t ∧
          s.only (eventTouch.append [.reg .HLYD_EVT, .reg .HLYD_SEL_CFG, .reg .HLYD_REF_ST, .reg .BGHT_STAT, .reg .BGHT_LEAF_ST,
              .reg .HTCH_PM15, .reg .HTCH_PM24, .reg .BEND_PG_STAT, .reg .SHET_CLI_STAT, .reg .SHET_CLI_EVT, .reg .SHET_CNT,
              .reg .LNYD_STAT, .reg .LNYD_EVT]) (eventParts.append [.halyard, .bight, .clients, .groups, .kcs, .lanyard]) t ∧
        t.lanyard.takeover = none ∧ t.on .LNYD_STAT_TAKEOVER = true ∧ t.on .LNYD_EVT_TAKEOVER = true ∧
        (∀ (n : Line) (i : Leaf), t.leafState n i = (s.restore (Config.serviceState k.body) elapsed).leafState n i ∧
          t.rd .BGHT_LEAF_ST_TA n i = (s.restore (Config.serviceState k.body) elapsed).rd .BGHT_LEAF_ST_TA n i) ∧
        (∀ n : Line, (t.bgt n).clock = ((s.restore (Config.serviceState k.body) elapsed).bgt n).clock ∧
          t.rd .BGHT_STAT_PERIOD n = (s.restore (Config.serviceState k.body) elapsed).rd .BGHT_STAT_PERIOD n)) ∧
      (s.lanyard.takeover = none → exec (.takeoverRestoreDone elapsed) s = .next s)) ∧
  (∀ (s : State) (r : Restored) (elapsed : Nat) (n : Line) (i : Leaf) (ta id base ent deficit : Nat), s.on .BGHT_LEAF_EN n i = true →
      r.leaves = [⟨n.val, i.val, 2, ta, id, base, ent, deficit⟩] →
      (s.restore r elapsed).leafState n i = 3 ∧ (s.restore r elapsed).rd .BGHT_LEAF_ST_TA n i = ta % 2 ^ 32) ∧
  (∀ (s : State) (r : Restored) (elapsed : Nat) (n : Line) (p : Nat), r.periods = [(n.val, p)] →
      ((s.restore r elapsed).bgt n).clock = p + elapsed ∧
      (s.restore r elapsed).rd .BGHT_STAT_PERIOD n = (p + elapsed) % 2 ^ 22)

/-- When a set is due the active device writes it with the next number, and sends it while the link is Up; while the one before is being sent it is skipped, counted and reported. Its own set goes to a Ready region, which keeps the latest eight. A packet that arrives counts as returned; the first one starts a set anew, an unfinished one being discarded. A set that fails a check is discarded, counted and reported; one that passes replaces the latest, which is kept as the previous. A rehearsal that faults or gives another digest makes the standby suspect. -/
def Obligations.Checkpoints : Prop :=
  (∀ (s : State) (sent : Bool), s.alive 18 = true →
      (s.matActive = false → exec (.checkpointSetDue sent) s = .next s) ∧
      (s.matActive = true → (s.lanyard.sending.isSome = true ∨ sent = false) →
        ∃ t, exec (.checkpointSetDue sent) s = .next t ∧ s.only (eventTouch.append [.reg .LNYD_STAT, .reg .LNYD_EVT,
            .reg .LNYD_CNT]) (eventParts.append [.lanyard]) t ∧ t.lanyard = s.lanyard ∧
        t.rd .LNYD_CNT_COUNT 2 = (s.rd .LNYD_CNT_COUNT 2 + 1) % 2 ^ 48 ∧ t.on .LNYD_EVT_SET_SKIP = true) ∧
      (s.matActive = true → s.lanyard.sending = none → sent = true →
        ∃ t seq, exec (.checkpointSetDue sent) s = .next t ∧ s.only (eventTouch.append [.reg .LNYD_STAT, .reg .LNYD_EVT,
            .reg .LNYD_CNT]) (eventParts.append [.lanyard]) t ∧
        seq = ((s.lanyard.own.map fun k => k.seq).getD (s.rd .LNYD_STAT_LAST_SET) + 1) % 2 ^ 32 ∧
        t.lanyard.own = some (CkSet.mk seq s.tod (padTo 32 (Config.stateDigest s.snapshot))
          (ckFill ((Config.serviceBytes s.snapshot).take (25165824 - 68)))) ∧
        (s.linkState = 2 → t.lanyard.sending = some seq ∨ (t.lanyard.sending = none ∧ t.rd .LNYD_STAT_LAST_SET = seq)) ∧
        (s.linkState ≠ 2 → t.lanyard.sending = none ∧ t.out = s.out))) ∧
  (∀ (s : State), s.alive 18 = true →
      (∀ k, s.lanyard.own = some k → s.matActive = true → s.ckReady = true → ∃ t, exec .checkpointSelfWrite s = .next t ∧
        s.only [] [.lanyard] t ∧ t.lanyard.region = (k :: s.lanyard.region).take 8) ∧
      (s.matActive = false ∨ s.ckReady = false → exec .checkpointSelfWrite s = .next s)) ∧
  (∀ (s : State) (p : List Byte) (bad : Bool), s.alive 18 = true → s.linkState = 2 →
      ∃ t, exec (.ckptPacketReceived p bad) s = .next t ∧ s.only (eventTouch.append [.reg .LNYD_EVT,
          .reg .LNYD_CNT]) (eventParts.append [.lanyard]) t ∧
      t.lanyard.ckTaken = (s.lanyard.ckTaken + 1) % 2 ^ 32 ∧ t.lanyard.creditDue = true ∧ t.lanyard.latest = s.lanyard.latest ∧
      (packetPayload p (s.packetBad bad) 3 = none → t.rd .LNYD_CNT_COUNT 0 = (s.rd .LNYD_CNT_COUNT 0 + 1) % 2 ^ 48 ∧
        t.lanyard.arriving = s.lanyard.arriving.map fun a : CkRx => { a with bad := true }) ∧
      (∀ b, packetPayload p (s.packetBad bad) 3 = some b → bit (byteAt p 1) 0 = true →
        t.lanyard.arriving = some (CkRx.mk b false (bit (byteAt p 1) 1)) ∧
        (s.lanyard.arriving.isSome = true → t.rd .LNYD_CNT_COUNT 1 = (s.rd .LNYD_CNT_COUNT 1 + 1) % 2 ^ 48)) ∧
      (∀ b a, packetPayload p (s.packetBad bad) 3 = some b → bit (byteAt p 1) 0 = false → s.lanyard.arriving = some a →
        t.lanyard.arriving = some (CkRx.mk (a.bytes ++ b) a.bad (bit (byteAt p 1) 1)))) ∧
  (∀ (s : State) (a : CkRx), s.alive 18 = true → s.lanyard.arriving = some a →
      ∃ t, exec .checkpointSetReceived s = .next t ∧ s.only (eventTouch.append [.reg .LNYD_STAT, .reg .LNYD_EVT,
          .reg .LNYD_CNT]) (eventParts.append [.lanyard]) t ∧ t.lanyard.arriving = none ∧
      (s.ckCheck a ≠ 0 → t.lanyard.latest = s.lanyard.latest ∧
        t.rd .LNYD_CNT_COUNT 1 = (s.rd .LNYD_CNT_COUNT 1 + 1) % 2 ^ 48 ∧ t.on .LNYD_EVT_SET_BAD = true) ∧
      (s.ckCheck a = 0 → t.lanyard.latest = some (ckOf a.bytes) ∧ t.lanyard.previous = s.lanyard.latest ∧
        t.rd .LNYD_STAT_LAST_SET = (ckOf a.bytes).seq)) ∧
  (∀ (s : State), s.alive 18 = true → s.lanyard.arriving = none → exec .checkpointSetReceived s = .next s) ∧
  (∀ (s : State) (faulted : Bool) (k : CkSet) (d : List Byte), s.alive 18 = true → s.lanyard.latest = some k → s.mate = true →
      s.on .LNYD_STAT_GATES_OPEN = false → s.lanyard.takeover = none →
      d = padTo 32 (Config.stateDigest (Config.serviceState k.body)) →
      (faulted = true ∨ d ≠ k.digest → ∃ t, exec (.rehearsal faulted) s = .next t ∧ s.only (eventTouch.append [.reg .LNYD_STAT,
          .reg .LNYD_EVT]) (eventParts.append [.lanyard]) t ∧
        t.lanyard.suspect = true ∧ t.on .LNYD_STAT_STBY_SUSPECT = true ∧ t.on .LNYD_EVT_REHEARSE_FAIL = true) ∧
      (faulted = false → d = k.digest → exec (.rehearsal faulted) s = .next s))

/-- A ranked reference that loses activity is Failed, and if it was selected no reference is; one that returns with no other failure qualifies. The monitor shows each offset and fails one beyond REJ; in forced Free-run the frequency ramps to zero. REF9 is judged on intervals in a row, and a pulse loads a serial time that is due. WTR ends in Available. At a boundary a new mode applies and deselects; otherwise the selected reference is an eligible one, with REVERT of the lowest RANK; during a switch nothing changes. The lock criteria lock, HO_MAX degrades holdover, and a dispute's end makes its members Available. -/
def Obligations.ReferencesAndSelection : Prop :=
  (∀ (s : State) (r : Ref), s.alive 5 = true → ∃ t, exec (.refActivityLoss r) s = .next t ∧ s.only (eventTouch.append [.reg .HLYD_EVT,
      .reg .HLYD_STAT, .reg .HLYD_REF_ST, .reg .HLYD_HO]) (eventParts.append [.halyard]) t ∧
      t.on .HLYD_REF_ST_ACT r = false ∧ t.rd .HLYD_REF_ST_RSTATE r = (if s.rd .HLYD_REF_CFG_RANK r = 0 then 0 else 1) ∧
      (s.rd .HLYD_REF_CFG_RANK r ≠ 0 → s.rd .HLYD_REF_ST_RSTATE r ≠ 1 → t.on .HLYD_EVT_REF_FAIL = true ∧
        (s.selRef = r.val → t.selRef = 15 ∧ t.on .HLYD_STAT_SWITCHING = false ∧
          (s.halyard.mode = 0 → 3 ≤ t.rd .HLYD_STAT_STATE)))) ∧
  (∀ (s : State) (r : Ref), s.alive 5 = true → ∃ t, exec (.refActivityReturn r) s = .next t ∧
      s.only (eventTouch.append [.reg .HLYD_EVT, .reg .HLYD_STAT, .reg .HLYD_REF_ST, .reg .HLYD_HO]) (eventParts.append [.halyard]) t ∧
      t.on .HLYD_REF_ST_ACT r = true ∧ (s.rd .HLYD_REF_CFG_RANK r ≠ 0 → s.rd .HLYD_REF_ST_RSTATE r = 1 → s.extFail r = false →
        (s.halRef r).rejected = false → t.rd .HLYD_REF_ST_RSTATE r = 2)) ∧
  (∀ (s : State) (foffs : List Int) (freq : Int), s.alive 5 = true → ∃ t, exec (.freqMonitorUpdate foffs freq) s = .next t ∧
      s.only (eventTouch.append [.reg .HLYD_EVT, .reg .HLYD_STAT, .reg .HLYD_REF_ST, .reg .HLYD_HO]) (eventParts.append [.halyard]) t ∧
      (∀ r : Fin 9, t.rd .HLYD_REF_ST_FOFF r = unsigned 16 (foffs.getD r 0)) ∧
      (∀ r : Fin 9, s.rd .HLYD_REF_CFG_RANK r ≠ 0 → s.rd .HLYD_REF_CFG_REJ r * 10 < (foffs.getD r 0).natAbs →
        t.rd .HLYD_REF_ST_RSTATE r = 1) ∧
      (s.halyard.mode = 2 → 0 ≤ s.halyard.ramp → s.halyard.ramp < 100 →
        t.freq * 100 + t.halyard.ramp = rampStep (s.freq * 100 + s.halyard.ramp) 0 (s.rd .HLYD_DPLL_CTL_FSLEW : Nat))) ∧
  (∀ (s : State) (interval : Nat) (inside : Bool), s.alive 5 = true →
      (inside = true ↔ 1000000000 ≤ interval + s.rd .HLYD_TOD_CFG_PPS_TOL * 10 ∧
          interval ≤ 1000000000 + s.rd .HLYD_TOD_CFG_PPS_TOL * 10) →
      ∃ t, exec (.ppsInPulse interval) s = .next t ∧ s.only (eventTouch.append [.reg .HLYD_EVT, .reg .HLYD_STAT, .reg .HLYD_REF_ST,
          .reg .HLYD_HO]) (eventParts.append [.tod, .halyard, .hitch]) t ∧
      (inside = false → 1 ≤ (s.halRef 9).bad → (t.halRef 9).rejected = true ∧
        (s.rd .HLYD_REF_CFG_RANK 9 ≠ 0 → t.rd .HLYD_REF_ST_RSTATE 9 = 1)) ∧
      (inside = true → 2 ≤ (s.halRef 9).good → (t.halRef 9).rejected = false) ∧
      (∀ v, s.halyard.labelDue = true → s.halyard.label = some v → t.tod = v % 2 ^ 48 ∧ t.on .HLYD_STAT_TOD_VALID = true ∧
        t.on .HLYD_EVT_TOD_LOAD = true ∧ t.halyard.labelDue = false) ∧
      (s.halyard.labelDue = false → t.tod = s.tod)) ∧
  (∀ (s : State) (r : Ref), s.alive 5 = true →
      (s.rd .HLYD_REF_ST_RSTATE r = 3 → ∃ t, exec (.refWtrExpiry r) s = .next t ∧ s.only (eventTouch.append [.reg .HLYD_EVT,
          .reg .HLYD_REF_ST]) (eventParts.append [.halyard]) t ∧
        t.rd .HLYD_REF_ST_RSTATE r = 4 ∧ t.rd .HLYD_REF_ST_WTR_LEFT r = 0 ∧ t.on .HLYD_EVT_REF_AVAIL = true) ∧
      (s.rd .HLYD_REF_ST_RSTATE r ≠ 3 → exec (.refWtrExpiry r) s = .next s)) ∧
  (∀ (s : State) (means : List Int), s.alive 5 = true → ∃ t, exec (.selectionBoundary means) s = .next t ∧
      s.only (eventTouch.append [.reg .HLYD_EVT, .reg .HLYD_STAT, .reg .HLYD_REF_ST, .reg .HLYD_HO]) (eventParts.append [.halyard]) t ∧
      (s.on .HLYD_STAT_SWITCHING = true → t.selRef = s.selRef ∧ t.halyard.mode = s.halyard.mode ∧
        t.rd .HLYD_STAT_STATE = s.rd .HLYD_STAT_STATE) ∧
      (s.on .HLYD_STAT_SWITCHING = false → t.halyard.mode = s.rd .HLYD_DPLL_CTL_MODE ∧
        (s.rd .HLYD_DPLL_CTL_MODE ≠ 0 → s.halyard.mode ≠ s.rd .HLYD_DPLL_CTL_MODE → t.selRef = 15) ∧
        (s.rd .HLYD_DPLL_CTL_MODE = 0 → t.selRef ≠ 15 → t.selRef ∈ t.eligible ∧
          (s.on .HLYD_SEL_CFG_REVERT = true → ∀ x ∈ t.eligible, s.rd .HLYD_REF_CFG_RANK t.selRef ≤ s.rd .HLYD_REF_CFG_RANK x)))) ∧
  (∀ (s : State), s.alive 5 = true → ∃ t, exec .buildOutDone s = .next t ∧ s.only [.reg .HLYD_STAT] [] t ∧
      t.on .HLYD_STAT_SWITCHING = false ∧ t.selRef = s.selRef) ∧
  (∀ (s : State), s.alive 5 = true →
      (s.rd .HLYD_STAT_STATE = 1 → ∃ t, exec .dpllLocked s = .next t ∧ s.only (eventTouch.append [.reg .HLYD_EVT,
          .reg .HLYD_STAT]) (eventParts.append [.halyard]) t ∧ t.rd .HLYD_STAT_STATE = 2 ∧
        t.on .HLYD_EVT_STATE = true ∧ (500000 < s.freq.natAbs → t.on .HLYD_STAT_XO_FAULT = true)) ∧
      (s.rd .HLYD_STAT_STATE ≠ 1 → exec .dpllLocked s = .next s)) ∧
  (∀ (s : State), s.alive 5 = true → s.rd .HLYD_STAT_STATE = 3 → s.halyard.mode ≠ 3 →
      (s.rd .HLYD_SEL_CFG_HO_MAX ≠ 0 → s.rd .HLYD_SEL_CFG_HO_MAX * 60 ≤ s.rd .HLYD_STAT_HO_AGE →
        ∃ t, exec .holdoverDegrade s = .next t ∧ s.only (eventTouch.append [.reg .HLYD_EVT,
            .reg .HLYD_STAT]) (eventParts.append [.halyard]) t ∧ t.rd .HLYD_STAT_STATE = 4 ∧ t.on .HLYD_EVT_STATE = true) ∧
      (s.rd .HLYD_SEL_CFG_HO_MAX = 0 ∨ s.rd .HLYD_STAT_HO_AGE < s.rd .HLYD_SEL_CFG_HO_MAX * 60 →
        exec .holdoverDegrade s = .next s)) ∧
  (∀ (s : State) (rank : Nat), s.alive 5 = true →
      ((∃ d ∈ s.halyard.disputes, d.1 = rank) → ∃ t, exec (.disputeEnd rank) s = .next t ∧ s.only (eventTouch.append [.reg .HLYD_EVT,
          .reg .HLYD_REF_ST]) (eventParts.append [.halyard]) t ∧
        t.halyard.disputes = s.halyard.disputes.filter (fun d => d.1 != rank) ∧
        ∀ r ∈ s.rankGroup rank, t.rd .HLYD_REF_ST_RSTATE r = 4) ∧
      ((∀ d ∈ s.halyard.disputes, d.1 ≠ rank) → exec (.disputeEnd rank) s = .next s))

/-- With Operator rights for D0 each of these writes is taken and journaled. A mode takes effect at the next boundary, not before. FFO is clipped to 500,000. A phase step starts unless one is running, which counts it, or the amount is too large for mode 0, which is reported; at its end, which is reported, the phase has moved by the amount. ARM keeps SECONDS for the next rollover, and SNAP copies the time of day. A serial message is taken only under TOD_SRC; one outside its window or not valid breaks the row, two in a row make the load due, and once loaded a message that disagrees is counted and reported. -/
def Obligations.LoopStepsAndTime : Prop :=
  (∀ (s : State) (req : Requester) (i : Instr) (m : Nat), s.mayWrite req 5 1 0 →
      (i, m) ∈ [(Instr.modeAutomatic req, 0), (.forcedHoldover req, 1), (.forcedFreeRun req, 2), (.softwareLoop req, 3)] →
      ∃ t, exec i s = .next t ∧ s.only (eventTouch.append [.reg .MRLN_NV_EVT, .reg .MRLN_NV_ST, .reg .HLYD_REFUSE,
          .reg .HLYD_DPLL_CTL]) (eventParts.append [.latches, .journal]) t ∧ t.rd .HLYD_DPLL_CTL_MODE = m ∧
      t.rd .HLYD_DPLL_CTL_FSLEW = max 1 (s.rd .HLYD_DPLL_CTL_FSLEW) ∧ t.journal.buffer.length = s.journal.buffer.length + 1) ∧
  (∀ (s : State) (req : Requester) (ffo : BitVec 32), s.mayWrite req 5 1 0 → ∃ t, exec (.ffoWrite req ffo) s = .next t ∧
      s.only (eventTouch.append [.reg .MRLN_NV_EVT, .reg .MRLN_NV_ST, .reg .HLYD_REFUSE,
          .reg .HLYD_DPLL_CTL]) (eventParts.append [.latches, .journal]) t ∧
              signed 32 (t.rd .HLYD_DPLL_CTL_FFO) = clip (-500000) 500000 (signed 32 ffo.toNat) ∧
      t.rd .HLYD_DPLL_CTL_MODE = s.rd .HLYD_DPLL_CTL_MODE) ∧
  (∀ (s : State) (req : Requester) (slewed : Bool) (slew : Nat) (amount : BitVec 40), s.mayWrite req 5 1 0 →
      ∃ t, exec (.phaseStepGo req slewed slew amount) s = .next t ∧ s.only (eventTouch.append [.reg .MRLN_NV_EVT, .reg .MRLN_NV_ST,
          .reg .HLYD_REFUSE, .reg .HLYD_EVT, .reg .HLYD_PSTEP]) (eventParts.append [.latches, .journal, .halyard]) t ∧
      t.on .HLYD_PSTEP_MODE = slewed ∧ t.rd .HLYD_PSTEP_AMOUNT = amount.toNat ∧
      t.rd .HLYD_PSTEP_SLEW = max 1 (min 1000 (slew % 8192)) ∧
      (s.on .HLYD_PSTEP_BUSY = true → t.on .HLYD_PSTEP_BUSY = true ∧
        t.rd .HLYD_PSTEP_PSTEP_OVR = min 255 (s.rd .HLYD_PSTEP_PSTEP_OVR + 1)) ∧
      (s.on .HLYD_PSTEP_BUSY = false → slewed = false → 1000000 < (signed 40 amount.toNat).natAbs →
        t.on .HLYD_PSTEP_BUSY = false ∧ t.on .HLYD_EVT_PSTEP = true) ∧
      (s.on .HLYD_PSTEP_BUSY = false → (slewed = true ∨ (signed 40 amount.toNat).natAbs ≤ 1000000) → t.on .HLYD_PSTEP_BUSY = true ∧
        t.halyard.step = signed 40 amount.toNat)) ∧
  (∀ (s : State), s.alive 5 = true →
      (s.on .HLYD_PSTEP_BUSY = true → ∃ t, exec .phaseStepDone s = .next t ∧ s.only (eventTouch.append [.reg .HLYD_EVT,
          .reg .HLYD_PSTEP]) (eventParts.append [.halyard]) t ∧ t.on .HLYD_PSTEP_BUSY = false ∧
        t.halyard.phase = s.halyard.phase + s.halyard.step ∧ t.on .HLYD_EVT_PSTEP = true) ∧
      (s.on .HLYD_PSTEP_BUSY = false → exec .phaseStepDone s = .next s)) ∧
  (∀ (s : State) (req : Requester) (seconds : BitVec 48), s.mayWrite req 5 1 0 → ∃ t, exec (.todArm req seconds) s = .next t ∧
      s.only (eventTouch.append [.reg .MRLN_NV_EVT, .reg .MRLN_NV_ST, .reg .HLYD_REFUSE, .reg .HLYD_TOD_SET, .reg .HLYD_TOD_SNAP,
          .reg .HLYD_TOD_SNAP_NS]) (eventParts.append [.latches, .journal]) t ∧ t.rd .HLYD_TOD_SET_SECONDS = seconds.toNat ∧
              t.on .HLYD_TOD_SET_ARM = true ∧
      t.reg .HLYD_TOD_SNAP = s.reg .HLYD_TOD_SNAP) ∧
  (∀ (s : State) (req : Requester), s.mayWrite req 5 1 0 → ∃ t, exec (.todSnap req) s = .next t ∧
      s.only (eventTouch.append [.reg .MRLN_NV_EVT, .reg .MRLN_NV_ST, .reg .HLYD_REFUSE, .reg .HLYD_TOD_SET, .reg .HLYD_TOD_SNAP,
          .reg .HLYD_TOD_SNAP_NS]) (eventParts.append [.latches, .journal]) t ∧
      t.rd .HLYD_TOD_SNAP_SECONDS = s.tod % 2 ^ 48 ∧ t.on .HLYD_TOD_SNAP_VALID = s.on .HLYD_STAT_TOD_VALID ∧
      t.rd .HLYD_TOD_SET_SECONDS = s.rd .HLYD_TOD_SET_SECONDS ∧ t.on .HLYD_TOD_SET_ARM = s.on .HLYD_TOD_SET_ARM) ∧
  (∀ (s : State) (m : List Byte) (inWindow : Bool) (v n : Nat), s.alive 5 = true → v = leAt m 4 6 →
      n = (if s.halyard.label = some ((v + 2 ^ 48 - 1) % 2 ^ 48) then min 3 (s.halyard.agreeing + 1) else 1) →
      ∃ t, exec (.todMessageReceived m inWindow) s = .next t ∧ s.only (eventTouch.append [.reg .HLYD_EVT,
          .reg .HLYD_STAT]) (eventParts.append [.halyard]) t ∧
      (s.on .HLYD_TOD_CFG_TOD_SRC = false → t = s) ∧
      (s.on .HLYD_TOD_CFG_TOD_SRC = true → (todMessageOk m && inWindow) = false → t.halyard.label = none ∧ t.halyard.agreeing = 0 ∧
        t.halyard.labelDue = false) ∧
      (s.on .HLYD_TOD_CFG_TOD_SRC = true → (todMessageOk m && inWindow) = true → t.halyard.label = some v ∧ t.halyard.agreeing = n ∧
        (s.halyard.serialLoaded = false → t.halyard.labelDue = decide (2 ≤ n)) ∧
        (s.halyard.serialLoaded = true → v = (s.tod + 1) % 2 ^ 48 → t.halyard.labelDue = false) ∧
        (s.halyard.serialLoaded = true → v ≠ (s.tod + 1) % 2 ^ 48 → t.halyard.labelDue = decide (n = 3) ∧
          t.rd .HLYD_STAT_TOD_MSG_BAD = min 255 (s.rd .HLYD_STAT_TOD_MSG_BAD + 1) ∧ t.on .HLYD_EVT_TOD_MSG = true)))

/-- Grants are kept for every subcarrier in service: a protected one has its demand, every one at least its minimum; within a usable budget that covers the floor the estimate stays within it; LEVEL, background and OVER_FLOOR follow. CAL_GAIN moves by at most one step and stays within 0.75 and 1.50. A set-point moves by one step within its bounds when the write is acknowledged; otherwise it is held and AVS_FAULT set. The feed monitor shows feed A's share, and a feed out of range is marked, with Belay in reset too; Belay reports it; a hold test judges B alone, then A. -/
def Obligations.GrantsVoltageAndFeeds : Prop :=
  (∀ (s : State) (l : List SubDemand) (level est : Nat), s.alive 6 = true → s.computeGrants = (l, level, est) →
      ∃ t, exec .grantComputation s = .next t ∧ s.only (eventTouch.append [.reg .BLAY_EVT,
          .reg .BLAY_STAT]) (eventParts.append [.belay]) t ∧ t.rd .BLAY_STAT_LEVEL = level ∧
      t.belay.background = decide (level = 5) ∧
      t.on .BLAY_STAT_OVER_FLOOR = decide (s.usablePower < s.floorUnits (byMargin s.subLoads)) ∧
      (s.on .BLAY_STAT_OVER_FLOOR = false → s.usablePower < s.floorUnits (byMargin s.subLoads) → t.on .BLAY_EVT_OVER_FLOOR = true) ∧
      l.length = s.subLoads.length ∧
      (∀ x ∈ l, x.least ≤ x.iter ∧ (x.guarded = true → x.want ≤ x.iter ∧ x.tapsWant ≤ x.taps) ∧
        ∃ g, t.belay.grants.get none (32 * x.n + x.f) = some g ∧ g.iter = x.iter ∧ g.taps = x.taps ∧
          g.upd ≤ s.rd .SPLC_ADAPT_CFG_UPD_MAX x.n) ∧
      (s.rd .BLAY_STAT_SUPPLY = 0 → s.floorUnits (byMargin s.subLoads) ≤ s.usablePower → est ≤ s.usablePower)) ∧
  (∀ (s : State) (iout : Option (BitVec 16)), s.alive 6 = true → ∃ t, exec (.calGainUpdate iout) s = .next t ∧
      s.only [.reg .BLAY_AVS_ST] [] t ∧
      (iout = none → t = s) ∧
      (∀ i, iout = some i → t.rd .BLAY_AVS_ST_IOUT = i.toNat ∧ 384 ≤ t.rd .BLAY_AVS_ST_CAL_GAIN ∧ t.rd .BLAY_AVS_ST_CAL_GAIN ≤ 768 ∧
        (384 ≤ s.rd .BLAY_AVS_ST_CAL_GAIN → s.rd .BLAY_AVS_ST_CAL_GAIN ≤ 768 →
          t.rd .BLAY_AVS_ST_CAL_GAIN ≤ s.rd .BLAY_AVS_ST_CAL_GAIN + 1 ∧ s.rd .BLAY_AVS_ST_CAL_GAIN ≤ t.rd .BLAY_AVS_ST_CAL_GAIN + 1))) ∧
  (∀ (s : State) (slack : Int) (ack : Bool) (low : Nat), s.alive 6 = true →
      low = 10 * (s.rd .BLAY_AVS_CFG_VMIN + s.rd .TALY_AGE_ST_AGE_OFS) →
      (∃ t, exec (.avsRaise slack ack) s = .next t ∧ s.only (eventTouch.append [.reg .BLAY_EVT, .reg .BLAY_AVS_ST]) eventParts t ∧
          t.rd .BLAY_AVS_ST_MIN_SLACK = unsigned 13 slack ∧
        ((s.rd .BLAY_AVS_CFG_SLACK_LO : Int) ≤ slack → t.rd .BLAY_AVS_ST_SETPOINT = s.rd .BLAY_AVS_ST_SETPOINT) ∧
        (slack < s.rd .BLAY_AVS_CFG_SLACK_LO → ack = true → t.on .BLAY_AVS_ST_AVS_FAULT = false ∧
          t.rd .BLAY_AVS_ST_AGE_OFS = s.rd .TALY_AGE_ST_AGE_OFS ∧ t.rd .BLAY_AVS_ST_SETPOINT =
            max low (min (s.rd .BLAY_AVS_ST_SETPOINT + 25) (10 * s.rd .BLAY_AVS_CFG_VMAX)) % 2 ^ 16) ∧
        (slack < s.rd .BLAY_AVS_CFG_SLACK_LO → ack = false → t.on .BLAY_AVS_ST_AVS_FAULT = true ∧
          t.rd .BLAY_AVS_ST_SETPOINT = s.rd .BLAY_AVS_ST_SETPOINT ∧
          (s.on .BLAY_AVS_ST_AVS_FAULT = false → t.on .BLAY_EVT_AVS = true))) ∧
      ∃ t, exec (.avsLower slack ack) s = .next t ∧ s.only (eventTouch.append [.reg .BLAY_EVT, .reg .BLAY_AVS_ST]) eventParts t ∧
          t.rd .BLAY_AVS_ST_MIN_SLACK = unsigned 13 slack ∧
        (slack ≤ s.rd .BLAY_AVS_CFG_SLACK_HI → t.rd .BLAY_AVS_ST_SETPOINT = s.rd .BLAY_AVS_ST_SETPOINT) ∧
        ((s.rd .BLAY_AVS_CFG_SLACK_HI : Int) < slack → ack = true → t.on .BLAY_AVS_ST_AVS_FAULT = false ∧ t.rd .BLAY_AVS_ST_SETPOINT =
          max low (min (s.rd .BLAY_AVS_ST_SETPOINT - 25) (10 * s.rd .BLAY_AVS_CFG_VMAX)) % 2 ^ 16)) ∧
  (∀ (s : State) (share : Fin 101) (long aOk bOk inside : Bool),
      (inside = true ↔ 100 - s.rd .BLAY_SUP_CFG_SHARE_LIM ≤ share.val ∧ share.val ≤ s.rd .BLAY_SUP_CFG_SHARE_LIM) →
      ∃ t, exec (.feedMonitor share long aOk bOk) s = .next t ∧ s.only (eventTouch.append [.reg .BLAY_EVT,
          .reg .BLAY_AON_ST]) eventParts t ∧ t.rd .BLAY_AON_ST_A_SHARE = share.val ∧
      t.on .BLAY_AON_ST_A_OK = (s.on .BLAY_AON_ST_A_OK || aOk) ∧ t.on .BLAY_AON_ST_B_OK = (s.on .BLAY_AON_ST_B_OK || bOk) ∧
      (s.alive 6 = false → t.on .BLAY_AON_ST_SHARE_BAD = s.on .BLAY_AON_ST_SHARE_BAD) ∧
      (s.alive 6 = true → inside = true → t.on .BLAY_AON_ST_SHARE_BAD = false) ∧
      (s.alive 6 = true → inside = false → t.on .BLAY_AON_ST_SHARE_BAD = (s.on .BLAY_AON_ST_SHARE_BAD || long)) ∧
      (s.alive 6 = true → inside = false → long = true → s.on .BLAY_AON_ST_SHARE_BAD = false → t.on .BLAY_EVT_FEED = true)) ∧
  (∀ (s : State),
      (∃ t, exec (.feedOutOfRange false) s = .next t ∧ s.only (eventTouch.append [.reg .BLAY_EVT, .reg .BLAY_AON_ST]) eventParts t ∧
          t.on .BLAY_AON_ST_A_OK = false ∧
        t.on .BLAY_AON_ST_A_FAIL = true ∧ t.on .BLAY_AON_ST_B_OK = s.on .BLAY_AON_ST_B_OK ∧
        (s.alive 6 = true → t.on .BLAY_EVT_FEED = true)) ∧
      ∃ t, exec (.feedOutOfRange true) s = .next t ∧ s.only (eventTouch.append [.reg .BLAY_EVT, .reg .BLAY_AON_ST]) eventParts t ∧
          t.on .BLAY_AON_ST_B_OK = false ∧
        t.on .BLAY_AON_ST_B_FAIL = true ∧ t.on .BLAY_AON_ST_A_OK = s.on .BLAY_AON_ST_A_OK ∧
        (s.alive 6 = true → t.on .BLAY_EVT_FEED = true)) ∧
  (∀ (s : State) (railOnB railOnA : Bool), s.alive 6 = true →
      (s.rd .BLAY_SUP_CFG_HOLD_H = 0 → exec (.holdTest railOnB railOnA) s = .next s) ∧
      (s.rd .BLAY_SUP_CFG_HOLD_H ≠ 0 → s.rd .BLAY_STAT_SUPPLY = 0 → s.on .MRLN_TRIPLE_ST_ACTIVE = false →
        ∃ t, exec (.holdTest railOnB railOnA) s = .next t ∧ s.only (eventTouch.append [.reg .BLAY_EVT,
            .reg .BLAY_AON_ST]) (eventParts.append [.belay]) t ∧
        t.rd .BLAY_AON_ST_B_TEST = (if s.on .BLAY_AON_ST_B_OK = false then 3 else if railOnB then 1 else 2) ∧
        t.rd .BLAY_AON_ST_A_TEST = (if s.on .BLAY_AON_ST_A_OK = false then 3 else if railOnA then 1 else 2) ∧
        (s.on .BLAY_AON_ST_B_OK = true → t.on .BLAY_AON_ST_B_FAIL = !railOnB) ∧
        (s.on .BLAY_AON_ST_A_OK = true → t.on .BLAY_AON_ST_A_FAIL = !railOnA) ∧
        (s.on .BLAY_AON_ST_A_OK = true → s.on .BLAY_AON_ST_B_OK = true → t.rd .BLAY_AON_ST_TEST_AGE = 0 ∧ t.belay.sinceTest = 0)))

/-- The measurement keeps the delays of the monitors, shows the largest drift with its monitor, and the lines' converter figures. A replan moves the voltage offset by at most one step toward its target within its limit and each measured line's entropy likewise, where the journal can record it; where it cannot, nothing is written; a line without a converter figure is left. Disabled, under NV-Inhibit, in an orderly shutdown, in a triple session, or while service 6 does not run, nothing happens (the last is the model's reading of R444). -/
def Obligations.AgeingMeasuredAndReplanned : Prop :=
  (∀ (s : State) (now : List (BitVec 16)) (snr0 snr1 snr2 : BitVec 8), s.alive 7 = true → now.length = 128 →
      ∃ t, exec (.pdmMeasure now snr0 snr1 snr2) s = .next t ∧ s.only [.reg .TALY_AGE_LINE, .reg .TALY_AGE_ST, .reg .TALY_PDM] [] t ∧
      (∀ m : Fin 128, t.rd .TALY_PDM_NOW m = (now.getD m 0).toNat ∧ t.rd .TALY_PDM_BASE m = s.rd .TALY_PDM_BASE m ∧
        (now.getD m 0).toNat ≤ s.rd .TALY_PDM_BASE m + t.rd .TALY_AGE_ST_DRIFT) ∧
      (t.rd .TALY_AGE_ST_DRIFT ≠ 0 → (now.getD (t.rd .TALY_AGE_ST_WORST_PDM) 0).toNat =
        s.rd .TALY_PDM_BASE (t.rd .TALY_AGE_ST_WORST_PDM) + t.rd .TALY_AGE_ST_DRIFT) ∧
      t.rd .TALY_AGE_LINE_SNR_CONV 0 = snr0.toNat ∧ t.rd .TALY_AGE_LINE_SNR_CONV 1 = snr1.toNat ∧
      t.rd .TALY_AGE_LINE_SNR_CONV 2 = snr2.toNat) ∧
  (∀ (s : State), s.alive 7 = true →
      (s.on .TALY_AGE_CFG_REPLAN_EN = false ∨ s.on .MRLN_NV_ST_NV_INHIBIT = true ∨ s.boot.shutdown = true ∨
        s.on .MRLN_TRIPLE_ST_ACTIVE = true ∨ s.svcRuns 6 = false → exec .ageingReplan s = .next s) ∧
      (s.on .TALY_AGE_CFG_REPLAN_EN = true → s.on .MRLN_NV_ST_NV_INHIBIT = false → s.boot.shutdown = false →
        s.on .MRLN_TRIPLE_ST_ACTIVE = false → s.svcRuns 6 = true → ∃ t, exec .ageingReplan s = .next t ∧
            s.only (eventTouch.append [.reg .MRLN_NV_ST, .reg .TALY_AGE_LINE, .reg .TALY_AGE_EVT, .reg .TALY_AGE_ST,
                .reg .TALY_AGE_LOG]) (eventParts.append [.journal, .age]) t ∧
        t.age.replan = (s.age.replan + 1) % 2 ^ 32 ∧ t.age.seconds = 0 ∧ t.rd .TALY_AGE_ST_DAYS = 0 ∧
        (s.journalBlocked = true → t.rd .TALY_AGE_ST_AGE_OFS = s.rd .TALY_AGE_ST_AGE_OFS ∧
          t.rd .TALY_AGE_ST_AGE_ITER = s.rd .TALY_AGE_ST_AGE_ITER ∧ t.journal = s.journal) ∧
        (s.journalBlocked = false → t.rd .TALY_AGE_ST_AGE_OFS =
          (stepToward (s.rd .TALY_AGE_ST_AGE_OFS) s.ofsTarget 0 (s.rd .BLAY_AVS_CFG_AGE_OFS_MAX) 5).1 % 256) ∧
        (s.on .MRLN_NV_ST_HOLD_ACTIVE = false → s.journal.buffer.length + 5 ≤ 1024 → ∀ n : Line,
          s.rd .TALY_AGE_LINE_SNR_CONV n ≠ 255 → t.rd .TALY_AGE_LINE_AGE_ENT n =
            (stepToward (s.rd .TALY_AGE_LINE_AGE_ENT n) (s.entTarget n) (s.entLeast n) 124 2).1 % 128) ∧
        (∀ n : Line, s.rd .TALY_AGE_LINE_SNR_CONV n = 255 → t.rd .TALY_AGE_LINE_AGE_ENT n = s.rd .TALY_AGE_LINE_AGE_ENT n) ∧
        (s.rd .BLAY_AVS_CFG_AGE_OFS_MAX < s.ofsTarget → t.on .TALY_AGE_EVT_LIMITED = true)))

/-- An enabled trigger starts a sequence at entry 0, is latched while one runs, and is lost and counted while one is latched; a write of TRIG needs Operator rights. A step's results stand in the result registers of its enabled converters; the last entry ends the sequence, and a latched trigger starts the next. An urgent step is taken unless one is pending, and its end shows its results, DONE, and ends its command. A scan shows the sixteen readings, excludes a sensor out of range, and falls back when fewer than eight are valid. -/
def Obligations.MonitorSequencesAndSensors : Prop :=
  (∀ (s : State) (req : Requester), s.mayWrite req 7 1 0 → (s.rd .TALY_MON_CFG_TRIG_EN).testBit 0 = true →
      ∃ t, exec (.monTrig req) s = .next t ∧ s.only (eventTouch.append [.reg .MRLN_NV_EVT, .reg .MRLN_NV_ST, .reg .TALY_EVT,
          .reg .TALY_MON_ST]) (eventParts.append [.latches, .journal, .tally]) t ∧ t.on .TALY_MON_ST_RUNNING = true ∧
      (s.on .TALY_MON_ST_RUNNING = false → t.rd .TALY_MON_ST_ENTRY = 0 ∧ t.rd .TALY_MON_ST_SEQ = (s.rd .TALY_MON_ST_SEQ + 1) % 2 ^ 16) ∧
      (s.on .TALY_MON_ST_RUNNING = true → t.on .TALY_MON_ST_PENDING = true ∧ t.rd .TALY_MON_ST_ENTRY = s.rd .TALY_MON_ST_ENTRY ∧
        (s.on .TALY_MON_ST_PENDING = true → t.rd .TALY_MON_ST_TRIG_OVR_CNT = min 65535 (s.rd .TALY_MON_ST_TRIG_OVR_CNT + 1) ∧
          t.on .TALY_EVT_TRIG_OVR = true))) ∧
  (∀ (s : State), s.alive 7 = true →
      (s.rd .TALY_MON_CFG_PERIOD = 0 ∨ (s.rd .TALY_MON_CFG_TRIG_EN).testBit 1 = false → exec .monTimerTrigger s = .next s) ∧
      (s.rd .TALY_MON_CFG_PERIOD ≠ 0 → (s.rd .TALY_MON_CFG_TRIG_EN).testBit 1 = true → ∃ t, exec .monTimerTrigger s = .next t ∧
        s.only (eventTouch.append [.reg .TALY_EVT, .reg .TALY_MON_ST]) (eventParts.append [.tally]) t ∧
            t.on .TALY_MON_ST_RUNNING = true ∧ (s.on .TALY_MON_ST_RUNNING = true → t.on .TALY_MON_ST_PENDING = true))) ∧
  (∀ (s : State) (samples : List (List Sample)) (e step : Nat), s.alive 7 = true → s.on .TALY_MON_ST_RUNNING = true → s.tally.due = none →
      e = s.rd .TALY_MON_ST_ENTRY → step = s.reg .TALY_SEQ e → ∃ t, exec (.monStepDone samples) s = .next t ∧
      s.only (eventTouch.append [.reg .TALY_EVT, .reg .TALY_MON_ST, .reg .TALY_MON_RES]) (eventParts.append [.tally]) t ∧
      (∀ c : Fin 4, (bit step (20 + c.val) = true → t.reg .TALY_MON_RES c = stepResult step c samples) ∧
        (bit step (20 + c.val) = false → t.reg .TALY_MON_RES c = s.reg .TALY_MON_RES c)) ∧
      (bit step 27 = false → e ≠ 31 → t.on .TALY_MON_ST_RUNNING = true ∧ t.rd .TALY_MON_ST_ENTRY = e + 1) ∧
      (bit step 27 = true ∨ e = 31 → s.on .TALY_MON_ST_PENDING = false → t.on .TALY_MON_ST_RUNNING = false) ∧
      (bit step 27 = true ∨ e = 31 → s.on .TALY_MON_ST_PENDING = true → t.on .TALY_MON_ST_RUNNING = true ∧
        t.on .TALY_MON_ST_PENDING = false ∧ t.rd .TALY_MON_ST_ENTRY = 0)) ∧
  (∀ (s : State) (samples : List (List Sample)) (l : RegStore), s.alive 7 = true → s.on .TALY_MON_ST_RUNNING = true →
      s.tally.due = some l →
      bit (s.reg .TALY_SEQ (s.rd .TALY_MON_ST_ENTRY)) 27 = true → ∃ t, exec (.monStepDone samples) s = .next t ∧ t.tally.due = none) ∧
  (∀ (s : State) (req : Requester) (step : BitVec 27), s.mayWrite req 7 1 0 → ∃ t, exec (.urgGo req step) s = .next t ∧
      s.only (eventTouch.append [.reg .MRLN_NV_EVT, .reg .MRLN_NV_ST, .reg .TALY_URG,
          .reg .TALY_MON_ST]) (eventParts.append [.latches, .journal, .tally]) t ∧ t.rd .TALY_URG_STEP = clipStep step.toNat ∧
      (s.tally.urgent = none → t.on .TALY_MON_ST_URG_BUSY = true ∧ t.on .TALY_URG_DONE = false ∧
        t.tally.urgent = some (UrgentStep.mk (clipStep step.toNat) none s.tod)) ∧
      (s.tally.urgent.isSome = true → t.tally.urgent = s.tally.urgent ∧
        t.rd .TALY_MON_ST_URG_OVR = min 255 (s.rd .TALY_MON_ST_URG_OVR + 1))) ∧
  (∀ (s : State) (h : Nat) (c : Cmd), s.ready 7 0x0805 h c → ∃ t, exec (.monUrgent h) s = .next t ∧
      s.only (eventTouch.append [.reg .MRLN_NV_EVT, .reg .MRLN_NV_ST, .reg .TALY_MON_ST]) (eventParts.append [.inflight, .journal,
          .tally]) t ∧
      (bits (c.par 16 4) 31 27 ≠ 0 ∨ badStep (c.par 16 4) = true → t.ended h 5) ∧
      (bits (c.par 16 4) 31 27 = 0 → badStep (c.par 16 4) = false → s.tally.urgent.isSome = true → t.ended h 6) ∧
      (bits (c.par 16 4) 31 27 = 0 → badStep (c.par 16 4) = false → s.tally.urgent = none →
        t.tally.urgent = some (UrgentStep.mk (c.par 16 4) (some h) s.tod) ∧ t.on .TALY_MON_ST_URG_BUSY = true ∧
        ∀ d, t.cmd h = some d → d.done = false)) ∧
  (∀ (s : State) (samples : List (List Sample)) (u : UrgentStep), s.alive 7 = true → s.tally.urgent = some u →
      ∃ t, exec (.urgentStepDone samples) s = .next t ∧ s.only (eventTouch.append [.reg .TALY_EVT, .reg .TALY_URG, .reg .TALY_MON_ST,
          .reg .TALY_URG_RES]) (eventParts.append [.inflight, .tally]) t ∧ t.tally.urgent = none ∧
      t.on .TALY_MON_ST_URG_BUSY = false ∧ t.on .TALY_URG_DONE = true ∧
      (∀ c : Fin 4, bit u.step (20 + c.val) = true → t.reg .TALY_URG_RES c = stepResult u.step c samples) ∧
      (∀ h c, u.cmd = some h → s.cmd h = some c → c.done = false → c.started = true → t.ended h 0 ∧
        ∀ d, t.cmd h = some d → d.result = stepBytes u.step samples)) ∧
  (∀ (s : State) (readings : List Int), s.alive 7 = true →
      (readings.length ≠ 16 → exec (.thermalScan readings) s = .next s) ∧
      (readings.length = 16 → ∃ t, exec (.thermalScan readings) s = .next t ∧ s.only (eventTouch.append [.reg .TALY_EVT,
          .reg .TALY_JS]) (eventParts.append [.tally]) t ∧
        t.tally.fallback = decide (t.jsCount < 8) ∧
        (t.jsCount < 8 → s.tally.fallback = false → t.on .TALY_EVT_TJ_FALLBACK = true) ∧
        ∀ i : Fin 16, t.rd .TALY_JS_TEMP i = unsigned 16 (readings.getD i 0) ∧ t.on .TALY_JS_VALID i = true ∧
          (inSensorRange (readings.getD i 0) = false → t.on .TALY_JS_EXCLUDED i = true ∧
            (s.on .TALY_JS_EXCLUDED i = false → t.on .TALY_EVT_JS_EXCLUDED = true))))

/-- SNAP_ARM checks its parameters, the line and its region, and arms the line; SNAP_DISARM returns it to Idle. The common trigger, a source's or SNAP_FIRE's, triggers every Armed line, which keeps its pre-trigger samples and records POST more, and counts on the lines that must ignore it. A recorded line drains while its region is Ready, and ends with its header and its samples in the region. SNAP_STATUS answers the line's register. -/
def Obligations.Snapshots : Prop :=
  (∀ (s : State) (h : Nat) (c : Cmd) (n : Line), s.ready 7 0x0801 h c → c.line = n.val →
      ∃ t, exec (.snapArm h) s = .next t ∧ s.only (eventTouch.append [.reg .MRLN_NV_EVT, .reg .MRLN_NV_ST,
          .reg .TALY_SNAP_ST]) (eventParts.append [.inflight, .journal, .tally]) t ∧
      (7 < c.par 17 1 ∨ 15 < c.par 18 1 ∨ 4 < c.par 19 1 ∨ c.par 20 4 % 4096 ≠ 0 → t.ended h 5 ∧ t.sstate n = s.sstate n) ∧
      (c.par 17 1 ≤ 7 → c.par 18 1 ≤ 15 → c.par 19 1 ≤ 4 → c.par 20 4 % 4096 = 0 →
        c.par 20 4 + 3 * 0x401000 ≤ s.rd .BCKT_REGION_SIZE (c.par 16 1) * 2 ^ 24 →
        ((s.lineMode n = 0 ∨ s.sstate n = 3 ∨ s.regionReady (c.par 16 1) = false) → t.ended h 6 ∧ t.sstate n = s.sstate n) ∧
        (s.lineMode n ≠ 0 → s.sstate n ≠ 3 → s.regionReady (c.par 16 1) = true → t.ended h 0 ∧ t.sstate n = 1 ∧
          t.rd .TALY_SNAP_ST_REGION n = c.par 16 1 ∧ t.rd .TALY_SNAP_ST_POST n = c.par 18 1 ∧
          t.rd .TALY_SNAP_ST_DECIM n = c.par 17 1 ∧ (t.snap n).src = c.par 19 1 ∧ (t.snap n).offset = c.par 20 4))) ∧
  (∀ (s : State) (h : Nat) (c : Cmd) (n : Line), s.ready 7 0x0802 h c → c.line = n.val → ∃ t, exec (.snapDisarm h) s = .next t ∧
      s.only (eventTouch.append [.reg .MRLN_NV_EVT, .reg .MRLN_NV_ST, .reg .TALY_SNAP_ST]) (eventParts.append [.inflight, .journal,
          .tally]) t ∧ t.ended h 0 ∧ t.sstate n = 0) ∧
  (∀ (s : State) (h held0 held1 held2 : Nat) (c : Cmd), s.ready 7 0x0803 h c → ∃ t, exec (.snapFire h held0 held1 held2) s = .next t ∧
      s.only (eventTouch.append [.reg .MRLN_NV_EVT, .reg .MRLN_NV_ST, .reg .TALY_SNAP_ST, .reg .TALY_EVT,
          .reg .TALY_MON_ST]) (eventParts.append [.inflight, .journal, .tally]) t ∧ t.ended h 0 ∧
      (∀ d, t.cmd h = some d → d.result = leBytes 1 (b2n (s.sstate 0 == 1) + 2 * b2n (s.sstate 1 == 1) + 4 * b2n (s.sstate 2 == 1))) ∧
      ∀ n : Line, (s.sstate n = 1 → t.sstate n = 2 ∧ (t.snap n).fired = 0xFF ∧
          (t.snap n).samples = min (2 ^ 20) (heldOf held0 held1 held2 n + s.postCount n)) ∧ (s.sstate n ≠ 1 → t.sstate n = s.sstate n)) ∧
  (∀ (s : State) (n : Line) (held0 held1 held2 : Nat), s.alive 7 = true →
      (s.sstate n = 1 → (s.snap n).src ≠ 0 → ∃ t, exec (.commonTrigger n held0 held1 held2) s = .next t ∧
          s.only (eventTouch.append [.reg .TALY_SNAP_ST, .reg .TALY_EVT, .reg .TALY_MON_ST]) (eventParts.append [.tally]) t ∧
        ∀ m : Line, (s.sstate m = 1 → t.sstate m = 2 ∧ (t.snap m).fired = (s.snap n).src ∧
            (t.snap m).samples = min (2 ^ 20) (heldOf held0 held1 held2 m + s.postCount m) ∧
            (t.snap m).index = (t.snap m).samples - s.postCount m ∧ (t.snap m).seconds = s.tod) ∧
          (2 ≤ s.sstate m → t.sstate m = s.sstate m ∧ t.rd .TALY_SNAP_ST_SNAP_OVR m = min 63 (s.rd .TALY_SNAP_ST_SNAP_OVR m + 1) ∧
            t.on .TALY_EVT_SNAP_OVR = true)) ∧
      (s.sstate n ≠ 1 ∨ (s.snap n).src = 0 → exec (.commonTrigger n held0 held1 held2) s = .next s)) ∧
  (∀ (s : State) (n : Line), s.alive 7 = true →
      (s.sstate n = 2 → ∃ t, exec (.snapPostDone n) s = .next t ∧ s.only (eventTouch.append [.reg .TALY_SNAP_ST,
          .reg .TALY_EVT]) (eventParts.append [.tally]) t ∧ t.sstate n = 3 ∧
        t.on .TALY_EVT_SNAP_TRIG = true ∧ (t.snap n).draining = false) ∧
      (s.sstate n ≠ 2 → exec (.snapPostDone n) s = .next s)) ∧
  (∀ (s : State) (n : Line), s.alive 7 = true →
      (s.sstate n = 3 → s.regionReady (s.rd .TALY_SNAP_ST_REGION n) = true → ∃ t, exec (.snapDrainStart n) s = .next t ∧
        s.only [] [.tally] t ∧ t.snap n = { s.snap n with draining := true }) ∧
      (s.sstate n ≠ 3 ∨ s.regionReady (s.rd .TALY_SNAP_ST_REGION n) = false → exec (.snapDrainStart n) s = .next s)) ∧
  (∀ (s : State) (n : Line) (unc : Nat) (blocks : List (List Byte)), s.alive 7 = true → s.sstate n = 3 → (s.snap n).draining = true →
      ∃ t, exec (.snapDrainDone n unc blocks) s = .next t ∧ s.only (eventTouch.append [.reg .TALY_SNAP_ST,
          .reg .TALY_EVT]) (eventParts.append [.tally]) t ∧ t.sstate n = 0 ∧ t.on .TALY_EVT_SNAP_DONE = true ∧
      .snapshot n.val (s.rd .TALY_SNAP_ST_REGION n) ((s.snap n).offset + n.val * 0x401000) (withCrc (s.snapHeader n unc)) blocks ∈
          t.out) ∧
  (∀ (s : State) (h : Nat) (c : Cmd) (n : Line), s.ready 7 0x0804 h c → c.line = n.val → ∃ t, exec (.snapStatus h) s = .next t ∧
      s.only (eventTouch.append [.reg .MRLN_NV_EVT, .reg .MRLN_NV_ST]) (eventParts.append [.inflight, .journal]) t ∧ t.ended h 0 ∧
          ∀ d, t.cmd h = some d → d.result = leBytes 8 (s.reg .TALY_SNAP_ST n))

/-- At a rollover the seconds count, or an armed load takes SECONDS and clears ARM; without Halyard they stand. PPS_OUT is driven where it is enabled and its gate open. WTR_LEFT of a reference counts down and HO_AGE up. What a block may report once in a second it may report again. (What the seconds do elsewhere is stated with those blocks' commands.) -/
def Obligations.SecondsPass : Prop :=
  (∀ (s : State), ∃ t, exec .secondRollover s = .next t ∧ s.only (eventTouch.append [.reg .MRLN_ROLE_ST, .reg .HLYD_EVT,
      .reg .HLYD_TOD_SET, .reg .HLYD_STAT, .reg .HLYD_REF_ST, .reg .BLAY_AON_ST, .reg .TALY_EVT, .reg .TALY_AGE_ST, .reg .TALY_MON_ST,
          .reg .BEND_PATH_ST]) (eventParts.append [.tod, .auth, .sessLeft, .marline, .mem, .whip, .cleat, .twine, .groups, .kcs,
              .hitch, .belay, .age, .tally]) t ∧
      (s.alive 5 = false → t.tod = s.tod) ∧
      (s.alive 5 = true → (s.on .HLYD_TOD_SET_ARM = false ∨ s.on .HLYD_TOD_CFG_TOD_SRC = true) → t.tod = (s.tod + 1) % 2 ^ 48) ∧
      (s.alive 5 = true → s.on .HLYD_TOD_SET_ARM = true → s.on .HLYD_TOD_CFG_TOD_SRC = false → t.tod = s.rd .HLYD_TOD_SET_SECONDS ∧
        t.on .HLYD_TOD_SET_ARM = false ∧ t.on .HLYD_STAT_TOD_VALID = true ∧ t.on .HLYD_EVT_TOD_LOAD = true) ∧
      (s.alive 5 = true → s.on .HLYD_TOD_CFG_PPS_EN = true → s.drives (s.on .LNYD_GATE_G_PPS) = true →
        .ppsOut (s.rd .HLYD_TOD_CFG_PPS_W) ∈ t.out) ∧
      (s.alive 5 = true → ∀ r : Fin 10, t.rd .HLYD_REF_ST_WTR_LEFT r = s.rd .HLYD_REF_ST_WTR_LEFT r - 1) ∧
      (s.alive 5 = true → 3 ≤ s.rd .HLYD_STAT_STATE → t.rd .HLYD_STAT_HO_AGE = min (2 ^ 24 - 1) (s.rd .HLYD_STAT_HO_AGE + 1)) ∧
      (s.alive 6 = true → t.belay.levelSaid = false ∧ t.belay.sinceTest = s.belay.sinceTest + 1 ∧ t.age.seconds = s.age.seconds + 1) ∧
      (s.alive 7 = true → t.tally.overSaid = []) ∧
      (s.alive 15 = true → ∀ g : Pg, (t.grp g).badSaid = false ∧
        ∀ p : Path, t.rd .BEND_PATH_ST_WTR_LEFT g p = s.rd .BEND_PATH_ST_WTR_LEFT g p - 1) ∧
      (s.alive 17 = true → ∀ l : Lane, (t.tw l).slipSaid = false))
end

