-- ==== Sys2Proof/Laws/Store.lean ====
section
/-! SUPPORT. Laws of the register store: what reading gives after a write, and that a write keeps the canonical form. -/

-- The proofs of the whole text do not run side by side: their memory adds up.
set_option Elab.async false

namespace Sys2Proof.Machine

/-! ### Bit fields -/

theorem bits_eq (v hi lo : Nat) : bits v hi lo = v / 2 ^ lo % 2 ^ (hi + 1 - lo) := by
  simp [bits, Nat.shiftRight_eq_div_pow]

theorem bits_lt (v hi lo : Nat) : bits v hi lo < 2 ^ (hi + 1 - lo) := by
  rw [bits_eq]; exact Nat.mod_lt _ (by positivity)

theorem mul_add_lt (a b m n : Nat) (ha : a < m) (hb : b < n) : a * n + b < m * n :=
  calc a * n + b < a * n + n := by omega
    _ = (a + 1) * n := by ring
    _ ≤ m * n := Nat.mul_le_mul_right n ha

/-- A value is the part above a field, the field, and the part below it. -/
theorem setBits_eq (v hi lo x : Nat) (h : lo ≤ hi) :
    setBits v hi lo x = v / 2 ^ (hi + 1) * 2 ^ (hi + 1) + x % 2 ^ (hi + 1 - lo) * 2 ^ lo + v % 2 ^ lo := by
  have hp : (2 : Nat) ^ (hi + 1) = 2 ^ lo * 2 ^ (hi + 1 - lo) := by rw [← pow_add]; congr 1; omega
  have h1 := Nat.div_add_mod v (2 ^ lo)
  have h2 := Nat.div_add_mod (v / 2 ^ lo) (2 ^ (hi + 1 - lo))
  have h3 : v / 2 ^ (hi + 1) = v / 2 ^ lo / 2 ^ (hi + 1 - lo) := by rw [hp, Nat.div_div_eq_div_mul]
  have h4 : 2 ^ lo * (v / 2 ^ lo) =
      v / 2 ^ (hi + 1) * 2 ^ (hi + 1) + 2 ^ lo * (v / 2 ^ lo % 2 ^ (hi + 1 - lo)) := by
    conv_lhs => rw [← h2]
    rw [h3, hp]; ring
  simp only [setBits, bits_eq, Nat.shiftLeft_eq]
  have h5 : v / 2 ^ lo % 2 ^ (hi + 1 - lo) * 2 ^ lo = 2 ^ lo * (v / 2 ^ lo % 2 ^ (hi + 1 - lo)) := Nat.mul_comm _ _
  omega

/-- The field reads as what was put into it. -/
theorem bits_setBits_same (v hi lo x : Nat) (h : lo ≤ hi) : bits (setBits v hi lo x) hi lo = x % 2 ^ (hi + 1 - lo) := by
  rw [setBits_eq v hi lo x h, bits_eq]
  have hp : (2 : Nat) ^ (hi + 1) = 2 ^ (hi + 1 - lo) * 2 ^ lo := by rw [← pow_add]; congr 1; omega
  rw [hp, show v / (2 ^ (hi + 1 - lo) * 2 ^ lo) * (2 ^ (hi + 1 - lo) * 2 ^ lo) + x % 2 ^ (hi + 1 - lo) * 2 ^ lo + v % 2 ^ lo =
      v % 2 ^ lo + (v / (2 ^ (hi + 1 - lo) * 2 ^ lo) * 2 ^ (hi + 1 - lo) + x % 2 ^ (hi + 1 - lo)) * 2 ^ lo by ring,
    Nat.add_mul_div_right _ _ (by positivity), Nat.div_eq_of_lt (Nat.mod_lt _ (by positivity)), Nat.zero_add,
    Nat.mul_add_mod_self_right, Nat.mod_mod]

/-- A field below the one written reads as before. -/
theorem bits_setBits_below (v hi lo x h' l' : Nat) (h : lo ≤ hi) (hb : h' < lo) :
    bits (setBits v hi lo x) h' l' = bits v h' l' := by
  rw [setBits_eq v hi lo x h, bits_eq, bits_eq]
  by_cases hl : l' ≤ h'
  · have e : (2 : Nat) ^ lo = 2 ^ (lo - (h' + 1)) * 2 ^ (h' + 1) := by rw [← pow_add]; congr 1; omega
    have e' : (2 : Nat) ^ (hi + 1) = 2 ^ (hi + 1 - (h' + 1)) * 2 ^ (h' + 1) := by rw [← pow_add]; congr 1; omega
    have key : ∀ a b w : Nat, (a * 2 ^ (hi + 1) + b * 2 ^ lo + w) % 2 ^ (h' + 1) = w % 2 ^ (h' + 1) := by
      intro a b w
      rw [show a * 2 ^ (hi + 1) + b * 2 ^ lo + w = w + (a * 2 ^ (hi + 1 - (h' + 1)) + b * 2 ^ (lo - (h' + 1))) * 2 ^ (h' + 1) by
        rw [e, e']; ring, Nat.add_mul_mod_self_right]
    have red : ∀ y : Nat, y / 2 ^ l' % 2 ^ (h' + 1 - l') = y % 2 ^ (h' + 1) / 2 ^ l' := by
      intro y
      rw [show (2 : Nat) ^ (h' + 1) = 2 ^ l' * 2 ^ (h' + 1 - l') by rw [← pow_add]; congr 1; omega, Nat.mod_mul_right_div_self]
    rw [red, red, key, Nat.mod_mod_of_dvd _ (by rw [e]; exact Dvd.intro_left _ rfl)]
  · rw [show h' + 1 - l' = 0 by omega]; simp [Nat.mod_one]

/-- A field above the one written reads as before. -/
theorem bits_setBits_above (v hi lo x h' l' : Nat) (h : lo ≤ hi) (ha : hi < l') :
    bits (setBits v hi lo x) h' l' = bits v h' l' := by
  rw [setBits_eq v hi lo x h, bits_eq, bits_eq]
  have e : (2 : Nat) ^ l' = 2 ^ (hi + 1) * 2 ^ (l' - (hi + 1)) := by rw [← pow_add]; congr 1; omega
  have hlt : x % 2 ^ (hi + 1 - lo) * 2 ^ lo + v % 2 ^ lo < 2 ^ (hi + 1) := by
    have a := Nat.mod_lt x (show 0 < 2 ^ (hi + 1 - lo) by positivity)
    have b := Nat.mod_lt v (show 0 < 2 ^ lo by positivity)
    have hp : (2 : Nat) ^ (hi + 1) = 2 ^ (hi + 1 - lo) * 2 ^ lo := by rw [← pow_add]; congr 1; omega
    rw [hp]; exact mul_add_lt _ _ _ _ a b
  rw [e, ← Nat.div_div_eq_div_mul, ← Nat.div_div_eq_div_mul, Nat.add_assoc, Nat.add_comm,
    Nat.add_mul_div_right _ _ (by positivity), Nat.div_eq_of_lt hlt, Nat.zero_add]

/-- A value with a field replaced keeps within a width that holds the field. -/
theorem setBits_lt (v hi lo x w : Nat) (h : lo ≤ hi) (hw : hi < w) (hv : v < 2 ^ w) : setBits v hi lo x < 2 ^ w := by
  rw [setBits_eq v hi lo x h]
  have hp : (2 : Nat) ^ (hi + 1) = 2 ^ (hi + 1 - lo) * 2 ^ lo := by rw [← pow_add]; congr 1; omega
  have hq : (2 : Nat) ^ w = 2 ^ (w - (hi + 1)) * 2 ^ (hi + 1) := by rw [← pow_add]; congr 1; omega
  have a := Nat.mod_lt x (show 0 < 2 ^ (hi + 1 - lo) by positivity)
  have b := Nat.mod_lt v (show 0 < 2 ^ lo by positivity)
  have hlt : x % 2 ^ (hi + 1 - lo) * 2 ^ lo + v % 2 ^ lo < 2 ^ (hi + 1) := by rw [hp]; exact mul_add_lt _ _ _ _ a b
  have hd : v / 2 ^ (hi + 1) < 2 ^ (w - (hi + 1)) := by
    rw [Nat.div_lt_iff_lt_mul (by positivity), ← hq]; exact hv
  rw [hq, Nat.add_assoc]
  exact mul_add_lt _ _ _ _ hd hlt

/-- A field within a width reads the same of a value cut to the width. -/
theorem bits_mod (v hi lo w : Nat) (h : lo ≤ hi) (hw : hi < w) : bits (v % 2 ^ w) hi lo = bits v hi lo := by
  rw [bits_eq, bits_eq]
  have hp : (2 : Nat) ^ w = 2 ^ lo * 2 ^ (w - lo) := by rw [← pow_add]; congr 1; omega
  rw [hp, Nat.mod_mul_right_div_self, Nat.mod_mod_of_dvd]
  exact pow_dvd_pow 2 (by omega)

/-! ### Reading after a write -/

theorem RegStore.get_erase_same (t : RegStore) (r : RegKey) : (RegStore.erase t r).get r = regReset r := by
  induction t with
  | nil => rfl
  | cons c rest ih =>
    by_cases h : c.key = r
    · have e : RegStore.erase (c :: rest) r = RegStore.erase rest r := by simp [RegStore.erase, h]
      rw [e, ih]
    · have e : RegStore.erase (c :: rest) r = c :: RegStore.erase rest r := by simp [RegStore.erase, h]
      rw [e]; simp [RegStore.get, h, ih]

theorem RegStore.get_erase_other (t : RegStore) (r q : RegKey) (hq : q ≠ r) : (RegStore.erase t r).get q = t.get q := by
  induction t with
  | nil => rfl
  | cons c rest ih =>
    by_cases h : c.key = r
    · have e : RegStore.erase (c :: rest) r = RegStore.erase rest r := by simp [RegStore.erase, h]
      have hc : ¬c.key = q := by rw [h]; exact fun x => hq x.symm
      rw [e, ih]; simp [RegStore.get, hc]
    · have e : RegStore.erase (c :: rest) r = c :: RegStore.erase rest r := by simp [RegStore.erase, h]
      rw [e]
      by_cases hc : c.key = q <;> simp [RegStore.get, hc, ih]

theorem RegStore.get_insert_other (t : RegStore) (c : RegCell) (q : RegKey) (h : c.key ≠ q) : (t.insert c).get q = t.get q := by
  induction t with
  | nil => simp [RegStore.insert, RegStore.get, h]
  | cons d rest ih =>
    unfold RegStore.insert
    split
    · rw [RegStore.get]; simp [h]
    · by_cases hd : d.key = q <;> simp [RegStore.get, hd, ih]

theorem RegStore.get_insert_same (t : RegStore) (c : RegCell) (h : ∀ d ∈ t, d.key ≠ c.key) : (t.insert c).get c.key = c.val := by
  induction t with
  | nil => simp [RegStore.insert, RegStore.get]
  | cons d rest ih =>
    have hd : d.key ≠ c.key := h d (by simp)
    unfold RegStore.insert
    split
    · simp [RegStore.get]
    · simp only [RegStore.get, hd, if_false]
      exact ih fun e he => h e (List.mem_cons_of_mem _ he)

/-- A register that the block has reads as the value written, cut to its width. -/
theorem RegStore.get_put_same (t : RegStore) (r : RegKey) (v : Nat) (h : regValid r = true) :
    (t.put r v).get r = v % 2 ^ (regSpec r.id).width := by
  unfold RegStore.put
  simp only [h, if_true]
  split
  · next e => rw [RegStore.get_erase_same, e]
  · refine RegStore.get_insert_same _ ⟨r, _⟩ ?_
    intro d hd
    simp only [RegStore.erase, List.mem_filter, bne_iff_ne, ne_eq] at hd
    exact hd.2

/-- Every other register reads as before. -/
theorem RegStore.get_put_other (t : RegStore) (r q : RegKey) (v : Nat) (h : q ≠ r) : (t.put r v).get q = t.get q := by
  unfold RegStore.put
  split
  · dsimp only
    split
    · exact RegStore.get_erase_other t r q h
    · rw [RegStore.get_insert_other _ _ _ (fun e => h e.symm)]
      exact RegStore.get_erase_other t r q h
  · rfl

/-- Writing an index that the block does not have changes nothing. -/
theorem RegStore.put_invalid (t : RegStore) (r : RegKey) (v : Nat) (h : regValid r = false) : t.put r v = t := by
  simp [RegStore.put, h]

/-! ### The canonical form -/

theorem RegId.ctorIdx_injective (a b : RegId) (h : a.ctorIdx = b.ctorIdx) : a = b := by
  have ha := RegId.ofNat_ctorIdx a
  have hb := RegId.ofNat_ctorIdx b
  rw [← ha, ← hb, h]

theorem regSpec_dims_small (id : RegId) : (regSpec id).dims.all (fun d => decide (d.1 ≤ 2 ^ 20)) = true := by
  cases id <;> rfl

/-- The indices of a register that the block has are below the strides of its place. -/
theorem regValid_small (r : RegKey) (h : regValid r = true) : r.i < 2 ^ 20 ∧ r.j < 2 ^ 20 ∧ r.k < 2 ^ 20 := by
  have hs := regSpec_dims_small r.id
  unfold regValid at h
  split at h <;> rename_i hd <;> rw [hd] at hs <;>
    simp only [Bool.and_eq_true, beq_iff_eq, decide_eq_true_eq, List.all_cons, List.all_nil] at h hs <;> omega

/-- Different registers of the block have different places. -/
theorem regRank_injective (a b : RegKey) (ha : regValid a = true) (hb : regValid b = true) (h : regRank a = regRank b) : a = b := by
  have sa := regValid_small a ha
  have sb := regValid_small b hb
  unfold regRank at h
  have h1 : a.id.ctorIdx = b.id.ctorIdx := by omega
  have h2 : a.i = b.i := by omega
  have h3 : a.j = b.j := by omega
  have h4 : a.k = b.k := by omega
  have h5 := RegId.ctorIdx_injective _ _ h1
  cases a; cases b; simp_all

theorem RegStore.wf_nil : RegStore.wf [] = true := rfl

theorem RegStore.wf_cons (c : RegCell) (rest : RegStore) :
    RegStore.wf (c :: rest) = true ↔
      c.wf = true ∧ (∀ d ∈ rest, regRank c.key < regRank d.key) ∧ RegStore.wf rest = true := by
  simp [RegStore.wf, and_assoc]

theorem RegStore.wf_filter (t : RegStore) (p : RegCell → Bool) (h : RegStore.wf t = true) : RegStore.wf (t.filter p) = true := by
  induction t with
  | nil => rfl
  | cons c rest ih =>
    rw [RegStore.wf_cons] at h
    rw [List.filter_cons]
    split
    · rw [RegStore.wf_cons]
      exact ⟨h.1, fun d hd => h.2.1 d (List.mem_filter.mp hd).1, ih h.2.2⟩
    · exact ih h.2.2

theorem RegStore.wf_insert (t : RegStore) (c : RegCell) (ht : RegStore.wf t = true) (hc : c.wf = true)
    (hn : ∀ d ∈ t, regRank d.key ≠ regRank c.key) : RegStore.wf (t.insert c) = true := by
  have mem : ∀ (u : RegStore) (d : RegCell), d ∈ u.insert c → d = c ∨ d ∈ u := by
    intro u
    induction u with
    | nil => intro d hd; simpa [RegStore.insert] using hd
    | cons e rest ih =>
      intro d hd
      unfold RegStore.insert at hd
      split at hd
      · simpa using hd
      · rcases List.mem_cons.mp hd with rfl | hd
        · simp
        · rcases ih d hd with rfl | hd <;> simp [*]
  induction t with
  | nil => simp [RegStore.insert, RegStore.wf, hc]
  | cons d rest ih =>
    have ht' := ht
    rw [RegStore.wf_cons] at ht
    unfold RegStore.insert
    split
    · next hlt =>
      rw [RegStore.wf_cons]
      refine ⟨hc, ?_, ht'⟩
      intro e he
      rcases List.mem_cons.mp he with rfl | he
      · exact hlt
      · exact lt_trans hlt (ht.2.1 e he)
    · next hlt =>
      rw [RegStore.wf_cons]
      refine ⟨ht.1, ?_, ih ht.2.2 fun e he => hn e (List.mem_cons_of_mem _ he)⟩
      intro e he
      rcases mem rest e he with rfl | he
      · have := hn d (by simp); omega
      · exact ht.2.1 e he

/-- A write keeps the canonical form. -/
theorem RegStore.wf_put (t : RegStore) (r : RegKey) (v : Nat) (h : RegStore.wf t = true) : RegStore.wf (t.put r v) = true := by
  unfold RegStore.put
  split
  · next hv =>
    dsimp only
    split
    · exact RegStore.wf_filter t _ h
    · next hr =>
      refine RegStore.wf_insert _ _ (RegStore.wf_filter t _ h) ?_ ?_
      · have hw := Nat.mod_lt v (show 0 < 2 ^ (regSpec r.id).width by positivity)
        simp [RegCell.wf, hv, hw, hr]
      · intro d hd e
        have hd' := List.mem_filter.mp hd
        have cellwf : ∀ (u : RegStore), RegStore.wf u = true → ∀ x ∈ u, x.wf = true := by
          intro u
          induction u with
          | nil => intro _ x hx; cases hx
          | cons y rest ih =>
            intro hu x hx
            rw [RegStore.wf_cons] at hu
            rcases List.mem_cons.mp hx with rfl | hx
            · exact hu.1
            · exact ih hu.2.2 x hx
        have hdw := cellwf t h d hd'.1
        have hdv : regValid d.key = true := by
          simp only [RegCell.wf, Bool.and_eq_true] at hdw; exact hdw.1.1
        have := regRank_injective d.key r hdv hv e
        simp [this] at hd'
  · exact h

/-- Returning registers to their reset values keeps the canonical form. -/
theorem RegStore.wf_resetWhere (t : RegStore) (p : RegKey → Bool) (h : RegStore.wf t = true) :
    RegStore.wf (t.resetWhere p) = true := RegStore.wf_filter t _ h

/-- A register that the test picks reads as its reset value, every other as before. -/
theorem RegStore.get_resetWhere (t : RegStore) (p : RegKey → Bool) (r : RegKey) :
    (t.resetWhere p).get r = if p r then regReset r else t.get r := by
  induction t with
  | nil => simp [RegStore.resetWhere, RegStore.get]
  | cons c rest ih =>
    simp only [RegStore.resetWhere] at ih ⊢
    rw [List.filter_cons]
    by_cases hc : c.key = r
    · subst hc
      by_cases hp : p c.key = true
      · simp [hp, ih]
      · simp [hp, RegStore.get]
    · split
      · simp [RegStore.get, hc, ih]
      · simp [RegStore.get, hc, ih]

end Sys2Proof.Machine
end

