-- ==== Sys2Proof/Laws/Tab.lean ====
section
/-! SUPPORT. Laws of the tables of unit state: what reading gives after a write, and that a write keeps the canonical form. -/

-- The proofs of the whole text do not run side by side: their memory adds up.
set_option Elab.async false

namespace Sys2Proof.Machine

theorem Tab.get_erase_same {α : Type} (d : α) (t : Tab α) (k : Nat) : Tab.get d (Tab.erase t k) k = d := by
  induction t with
  | nil => rfl
  | cons e r ih =>
    simp only [Tab.erase] at ih
    simp only [Tab.erase, List.filter_cons]
    by_cases h : e.1 = k
    · simpa [h] using ih
    · have hb : (e.1 != k) = true := by simpa using h
      simp only [hb, if_true, Tab.get, h, if_false]; exact ih

theorem Tab.get_erase_other {α : Type} (d : α) (t : Tab α) (k q : Nat) (hq : q ≠ k) :
    Tab.get d (Tab.erase t k) q = Tab.get d t q := by
  induction t with
  | nil => rfl
  | cons e r ih =>
    simp only [Tab.erase] at ih
    simp only [Tab.erase, List.filter_cons]
    by_cases h : e.1 = k
    · have hc : ¬e.1 = q := by omega
      have hb : (e.1 != k) = false := by simpa using h
      simp only [hb, Bool.false_eq_true, if_false, Tab.get, hc]; exact ih
    · have hb : (e.1 != k) = true := by simpa using h
      simp only [hb, if_true, Tab.get]
      rw [ih]

theorem Tab.get_insert_other {α : Type} (d : α) (t : Tab α) (k : Nat) (a : α) (q : Nat) (h : q ≠ k) :
    Tab.get d (Tab.insert t k a) q = Tab.get d t q := by
  have h' : ¬k = q := fun e => h e.symm
  induction t with
  | nil => simp [Tab.insert, Tab.get, h']
  | cons e r ih =>
    unfold Tab.insert
    split
    · simp [Tab.get, h']
    · simp only [Tab.get]; rw [ih]

theorem Tab.get_insert_same {α : Type} (d : α) (t : Tab α) (k : Nat) (a : α) (h : ∀ e ∈ t, e.1 ≠ k) :
    Tab.get d (Tab.insert t k a) k = a := by
  induction t with
  | nil => simp [Tab.insert, Tab.get]
  | cons e r ih =>
    have he : e.1 ≠ k := h e (by simp)
    unfold Tab.insert
    split
    · simp [Tab.get]
    · simp only [Tab.get, he, if_false]
      exact ih fun x hx => h x (List.mem_cons_of_mem _ hx)

/-- A unit's record reads as the one put. -/
@[simp] theorem Tab.get_put_same {α : Type} [DecidableEq α] (d : α) (t : Tab α) (k : Nat) (a : α) :
    Tab.get d (Tab.put d t k a) k = a := by
  unfold Tab.put
  split
  · next e => rw [Tab.get_erase_same, e]
  · refine Tab.get_insert_same d _ k a ?_
    intro e he
    simpa [Tab.erase] using (List.mem_filter.mp he).2

/-- Every other unit's record reads as before. -/
theorem Tab.get_put_other {α : Type} [DecidableEq α] (d : α) (t : Tab α) (k : Nat) (a : α) (q : Nat) (h : q ≠ k) :
    Tab.get d (Tab.put d t k a) q = Tab.get d t q := by
  unfold Tab.put
  split
  · exact Tab.get_erase_other d t k q h
  · rw [Tab.get_insert_other d _ k a q h, Tab.get_erase_other d t k q h]

theorem Tab.wf_cons {α : Type} [DecidableEq α] (d : α) (e : Nat × α) (r : Tab α) :
    Tab.wf d (e :: r) = true ↔ e.2 ≠ d ∧ (∀ x ∈ r, e.1 < x.1) ∧ Tab.wf d r = true := by
  simp [Tab.wf, and_assoc]

/-- Leaving out records keeps the canonical form. -/
theorem Tab.wf_filter {α : Type} [DecidableEq α] (d : α) (t : Tab α) (p : Nat × α → Bool) (h : Tab.wf d t = true) :
    Tab.wf d (t.filter p) = true := by
  induction t with
  | nil => rfl
  | cons e r ih =>
    rw [Tab.wf_cons] at h
    rw [List.filter_cons]
    split
    · rw [Tab.wf_cons]
      exact ⟨h.1, fun x hx => h.2.1 x (List.mem_filter.mp hx).1, ih h.2.2⟩
    · exact ih h.2.2

theorem Tab.wf_insert {α : Type} [DecidableEq α] (d : α) (t : Tab α) (k : Nat) (a : α) (ht : Tab.wf d t = true) (ha : a ≠ d)
    (hn : ∀ e ∈ t, e.1 ≠ k) : Tab.wf d (Tab.insert t k a) = true := by
  have mem : ∀ (u : Tab α) (x : Nat × α), x ∈ Tab.insert u k a → x = (k, a) ∨ x ∈ u := by
    intro u
    induction u with
    | nil => intro x hx; simpa [Tab.insert] using hx
    | cons e r ih =>
      intro x hx
      unfold Tab.insert at hx
      split at hx
      · simpa using hx
      · rcases List.mem_cons.mp hx with rfl | hx
        · simp
        · rcases ih x hx with rfl | hx <;> simp [*]
  induction t with
  | nil => simp [Tab.insert, Tab.wf, ha]
  | cons e r ih =>
    have ht' := ht
    rw [Tab.wf_cons] at ht
    unfold Tab.insert
    split
    · next hlt =>
      rw [Tab.wf_cons]
      refine ⟨ha, ?_, ht'⟩
      intro x hx
      rcases List.mem_cons.mp hx with rfl | hx
      · exact hlt
      · exact lt_trans hlt (ht.2.1 x hx)
    · next hlt =>
      rw [Tab.wf_cons]
      refine ⟨ht.1, ?_, ih ht.2.2 fun x hx => hn x (List.mem_cons_of_mem _ hx)⟩
      intro x hx
      rcases mem r x hx with rfl | hx
      · have := hn e (by simp); dsimp only; omega
      · exact ht.2.1 x hx

/-- A write keeps the canonical form. -/
theorem Tab.wf_put {α : Type} [DecidableEq α] (d : α) (t : Tab α) (k : Nat) (a : α) (h : Tab.wf d t = true) :
    Tab.wf d (Tab.put d t k a) = true := by
  unfold Tab.put
  split
  · exact Tab.wf_filter d t _ h
  · next ha =>
    refine Tab.wf_insert d _ k a (Tab.wf_filter d t _ h) ha ?_
    intro e he
    simpa [Tab.erase] using (List.mem_filter.mp he).2

end Sys2Proof.Machine
end

