-- ==== Sys2Proof/Laws/Kept.lean ====
section
/-! SUPPORT. What every operation keeps: the canonical form of the state, the queue of waiting commands, what has been sent out, the count
of free values drawn, which never goes back, and every register and part of the state outside the operation's footprint. The files
Laws/Kept* hold one lemma for each operation of the model, with its footprint: a number whose bit 64 + n stands for the registers of the
n-th register name, and whose low bits stand for the other parts of the state in the order of samePart. -/

-- The proofs of the whole text do not run side by side: their memory adds up.
set_option Elab.async false

namespace Sys2Proof.Machine

open Sys2Proof

/-- The bit of a register name in a footprint. -/
abbrev regBit (id : RegId) : Nat := 64 + id.ctorIdx

/-- One footprint lies within another. -/
def Foot.sub (a m : Nat) : Prop := a &&& m = a

/-- The k-th part of the state is the same. -/
def samePart (k : Nat) (b s : State) : Prop :=
  match k with
  | 0 => s.shadow = b.shadow
  | 1 => s.latches = b.latches
  | 2 => s.tod = b.tod
  | 3 => s.pins = b.pins
  | 4 => s.rings = b.rings
  | 5 => s.inflight = b.inflight
  | 6 => s.nextCmd = b.nextCmd
  | 7 => s.vecs = b.vecs
  | 8 => s.auth = b.auth
  | 9 => s.sessLeft = b.sessLeft
  | 10 => s.nv = b.nv
  | 11 => s.journal = b.journal
  | 12 => s.marline = b.marline
  | 13 => s.boot = b.boot
  | 14 => s.mem = b.mem
  | 15 => s.whip = b.whip
  | 16 => s.strand = b.strand
  | 17 => s.braid = b.braid
  | 18 => s.splice = b.splice
  | 19 => s.halyard = b.halyard
  | 20 => s.bight = b.bight
  | 21 => s.cleat = b.cleat
  | 22 => s.twine = b.twine
  | 23 => s.clients = b.clients
  | 24 => s.leafFail = b.leafFail
  | 25 => s.groups = b.groups
  | 26 => s.kcs = b.kcs
  | 27 => s.keks = b.keks
  | 28 => s.hitch = b.hitch
  | 29 => s.lanyard = b.lanyard
  | 30 => s.belay = b.belay
  | 31 => s.age = b.age
  | 32 => s.tally = b.tally
  | 33 => s.fathom = b.fathom
  | 34 => s.drawn = b.drawn
  | 35 => s.out = b.out
  | 36 => s.discards = b.discards
  | _ => True

/-- A state that operations within a footprint have reached from a base state. -/
def State.kept (m : Nat) (b s : State) : Prop :=
  (b.stored → s.stored) ∧ s.pending = b.pending ∧ b.drawn ≤ s.drawn ∧ b.out <:+ s.out ∧
    (∀ r : RegKey, m.testBit (regBit r.id) = false → s.regs.get r = b.regs.get r) ∧
    ∀ k, m.testBit k = false → samePart k b s

/-- The next state of an outcome, where it has one, is kept. -/
def State.keeps (m : Nat) (b : State) (r : Res) : Prop := ∀ t, r = .next t → b.kept m t

theorem Foot.bit {a m k : Nat} (h : Foot.sub a m) (hk : a.testBit k = true) : m.testBit k = true := by
  unfold Foot.sub at h
  have e := congrArg (fun x => x.testBit k) h
  simpa [Nat.testBit_and, hk] using e

theorem Foot.trans {a b m : Nat} (h : a &&& b = a) (hb : Foot.sub b m) : Foot.sub a m := by
  unfold Foot.sub at *
  rw [← h, Nat.land_assoc, hb]

theorem Foot.refl (a : Nat) : Foot.sub a a := Nat.and_self a

theorem State.kept_refl (m : Nat) (s : State) : s.kept m s :=
  ⟨id, rfl, le_rfl, List.suffix_rfl, fun _ _ => rfl, fun k _ => by unfold samePart; split <;> first | rfl | trivial⟩

variable {m : Nat}

theorem State.keeps_next {b t : State} (h : b.kept m t) : b.keeps m (.next t) := by
  intro u e
  injection e with e
  exact e ▸ h

theorem kept_cut {P : Prop} {b x : State} (h : b.kept m x) (k : b.kept m x → P) : P := k h

theorem kept_pair {α : Type} {b t : State} {v : α} {p : State × α} (e : p = (t, v)) (h : b.kept m p.1) : b.kept m t := by
  rw [e] at h; exact h

theorem kept_ite {b s t : State} {c : Prop} [Decidable c] (h : c → b.kept m s) (k : ¬c → b.kept m t) :
    b.kept m (if c then s else t) := by
  split
  · exact h ‹_›
  · exact k ‹_›

theorem keeps_ite {b : State} {r q : Res} {c : Prop} [Decidable c] (h : c → b.keeps m r) (k : ¬c → b.keeps m q) :
    b.keeps m (if c then r else q) := by
  split
  · exact h ‹_›
  · exact k ‹_›

theorem kept_foldl {α : Type} {b s : State} (l : List α) (g : State → α → State)
    (hg : ∀ t a, b.kept m t → b.kept m (g t a)) (hs : b.kept m s) : b.kept m (l.foldl g s) := by
  induction l generalizing s with
  | nil => exact hs
  | cons a r ih => exact ih (hg s a hs)

theorem kept_foldl_fst {α β : Type} {b : State} {p : State × β} (l : List α) (g : State × β → α → State × β)
    (hg : ∀ t a, b.kept m t.1 → b.kept m (g t a).1) (hs : b.kept m p.1) : b.kept m (l.foldl g p).1 := by
  induction l generalizing p with
  | nil => exact hs
  | cons a r ih => exact ih (hg p a hs)

/-! One lemma for each part of the state that an operation replaces. -/

/-- A state that differs from a kept one in one part only, which is within the footprint. -/
theorem kept_part {b s t : State} (k : Nat) (h : b.kept m s) (hm : m.testBit k = true) (hst : s.stored → t.stored)
    (hr : t.regs = s.regs) (hp : t.pending = s.pending) (hd : s.drawn ≤ t.drawn) (ho : s.out <:+ t.out)
    (hk : ∀ j, j ≠ k → samePart j s t) : b.kept m t := by
  refine ⟨fun hb => hst (h.1 hb), hp.trans h.2.1, le_trans h.2.2.1 hd, h.2.2.2.1.trans ho, ?_, ?_⟩
  · intro r e; rw [hr]; exact h.2.2.2.2.1 r e
  · intro j e
    have hj : j ≠ k := by rintro rfl; rw [hm] at e; cases e
    have h1 := h.2.2.2.2.2 j e
    have h2 := hk j hj
    unfold samePart at *
    split at h1 <;> first | exact h2.trans h1 | trivial

/-- A register store replaced by another in canonical form that agrees outside the footprint. -/
theorem kept_regs' {b s : State} (x : RegStore) (h : b.kept m s) (hx : s.regs.wf = true → x.wf = true)
    (hr : ∀ r : RegKey, m.testBit (regBit r.id) = false → x.get r = s.regs.get r) : b.kept m { s with regs := x } := by
  refine ⟨fun hb => ⟨hx (h.1 hb).1, (h.1 hb).2⟩, h.2.1, h.2.2.1, h.2.2.2.1, ?_, ?_⟩
  · intro r e; rw [← h.2.2.2.2.1 r e]; exact hr r e
  · intro j e
    have h1 := h.2.2.2.2.2 j e
    unfold samePart at *
    split at h1 <;> first | exact h1 | trivial

theorem kept_latches {b s : State} (x : List Latch) (h : b.kept m s)
    (hm : m.testBit 1 = true := by first | assumption | exact Foot.bit (by assumption) rfl | exact Foot.trans rfl (by assumption)) : b.kept m { s with latches := x } :=
  kept_part 1 h hm id rfl rfl le_rfl List.suffix_rfl (fun j hj => by unfold samePart; split <;> first | rfl | trivial)

theorem kept_tod {b s : State} (x : Nat) (h : b.kept m s)
    (hm : m.testBit 2 = true := by first | assumption | exact Foot.bit (by assumption) rfl | exact Foot.trans rfl (by assumption)) : b.kept m { s with tod := x } :=
  kept_part 2 h hm id rfl rfl le_rfl List.suffix_rfl (fun j hj => by unfold samePart; split <;> first | rfl | trivial)

theorem kept_pins {b s : State} (x : Pins) (h : b.kept m s)
    (hm : m.testBit 3 = true := by first | assumption | exact Foot.bit (by assumption) rfl | exact Foot.trans rfl (by assumption)) : b.kept m { s with pins := x } :=
  kept_part 3 h hm id rfl rfl le_rfl List.suffix_rfl (fun j hj => by unfold samePart; split <;> first | rfl | trivial)

theorem kept_inflight {b s : State} (x : List Cmd) (h : b.kept m s)
    (hm : m.testBit 5 = true := by first | assumption | exact Foot.bit (by assumption) rfl | exact Foot.trans rfl (by assumption)) : b.kept m { s with inflight := x } :=
  kept_part 5 h hm id rfl rfl le_rfl List.suffix_rfl (fun j hj => by unfold samePart; split <;> first | rfl | trivial)

theorem kept_nextCmd {b s : State} (x : Nat) (h : b.kept m s)
    (hm : m.testBit 6 = true := by first | assumption | exact Foot.bit (by assumption) rfl | exact Foot.trans rfl (by assumption)) : b.kept m { s with nextCmd := x } :=
  kept_part 6 h hm id rfl rfl le_rfl List.suffix_rfl (fun j hj => by unfold samePart; split <;> first | rfl | trivial)

theorem kept_auth {b s : State} (x : List AuthInt) (h : b.kept m s)
    (hm : m.testBit 8 = true := by first | assumption | exact Foot.bit (by assumption) rfl | exact Foot.trans rfl (by assumption)) : b.kept m { s with auth := x } :=
  kept_part 8 h hm id rfl rfl le_rfl List.suffix_rfl (fun j hj => by unfold samePart; split <;> first | rfl | trivial)

theorem kept_nv {b s : State} (x : NvState) (h : b.kept m s)
    (hm : m.testBit 10 = true := by first | assumption | exact Foot.bit (by assumption) rfl | exact Foot.trans rfl (by assumption)) : b.kept m { s with nv := x } :=
  kept_part 10 h hm id rfl rfl le_rfl List.suffix_rfl (fun j hj => by unfold samePart; split <;> first | rfl | trivial)

theorem kept_journal {b s : State} (x : Journal) (h : b.kept m s)
    (hm : m.testBit 11 = true := by first | assumption | exact Foot.bit (by assumption) rfl | exact Foot.trans rfl (by assumption)) : b.kept m { s with journal := x } :=
  kept_part 11 h hm id rfl rfl le_rfl List.suffix_rfl (fun j hj => by unfold samePart; split <;> first | rfl | trivial)

theorem kept_marline {b s : State} (x : Marline) (h : b.kept m s)
    (hm : m.testBit 12 = true := by first | assumption | exact Foot.bit (by assumption) rfl | exact Foot.trans rfl (by assumption)) : b.kept m { s with marline := x } :=
  kept_part 12 h hm id rfl rfl le_rfl List.suffix_rfl (fun j hj => by unfold samePart; split <;> first | rfl | trivial)

theorem kept_boot {b s : State} (x : Boot) (h : b.kept m s)
    (hm : m.testBit 13 = true := by first | assumption | exact Foot.bit (by assumption) rfl | exact Foot.trans rfl (by assumption)) : b.kept m { s with boot := x } :=
  kept_part 13 h hm id rfl rfl le_rfl List.suffix_rfl (fun j hj => by unfold samePart; split <;> first | rfl | trivial)

theorem kept_mem {b s : State} (x : MemInt) (h : b.kept m s)
    (hm : m.testBit 14 = true := by first | assumption | exact Foot.bit (by assumption) rfl | exact Foot.trans rfl (by assumption)) : b.kept m { s with mem := x } :=
  kept_part 14 h hm id rfl rfl le_rfl List.suffix_rfl (fun j hj => by unfold samePart; split <;> first | rfl | trivial)

theorem kept_halyard {b s : State} (x : HalyardInt) (h : b.kept m s)
    (hm : m.testBit 19 = true := by first | assumption | exact Foot.bit (by assumption) rfl | exact Foot.trans rfl (by assumption)) : b.kept m { s with halyard := x } :=
  kept_part 19 h hm id rfl rfl le_rfl List.suffix_rfl (fun j hj => by unfold samePart; split <;> first | rfl | trivial)

theorem kept_leafFail {b s : State} (x : List (Nat × Nat)) (h : b.kept m s)
    (hm : m.testBit 24 = true := by first | assumption | exact Foot.bit (by assumption) rfl | exact Foot.trans rfl (by assumption)) : b.kept m { s with leafFail := x } :=
  kept_part 24 h hm id rfl rfl le_rfl List.suffix_rfl (fun j hj => by unfold samePart; split <;> first | rfl | trivial)

theorem kept_lanyard {b s : State} (x : LanyardInt) (h : b.kept m s)
    (hm : m.testBit 29 = true := by first | assumption | exact Foot.bit (by assumption) rfl | exact Foot.trans rfl (by assumption)) : b.kept m { s with lanyard := x } :=
  kept_part 29 h hm id rfl rfl le_rfl List.suffix_rfl (fun j hj => by unfold samePart; split <;> first | rfl | trivial)

theorem kept_belay {b s : State} (x : BelayInt) (h : b.kept m s)
    (hm : m.testBit 30 = true := by first | assumption | exact Foot.bit (by assumption) rfl | exact Foot.trans rfl (by assumption)) : b.kept m { s with belay := x } :=
  kept_part 30 h hm id rfl rfl le_rfl List.suffix_rfl (fun j hj => by unfold samePart; split <;> first | rfl | trivial)

theorem kept_age {b s : State} (x : AgeInt) (h : b.kept m s)
    (hm : m.testBit 31 = true := by first | assumption | exact Foot.bit (by assumption) rfl | exact Foot.trans rfl (by assumption)) : b.kept m { s with age := x } :=
  kept_part 31 h hm id rfl rfl le_rfl List.suffix_rfl (fun j hj => by unfold samePart; split <;> first | rfl | trivial)

theorem kept_tally {b s : State} (x : TallyInt) (h : b.kept m s)
    (hm : m.testBit 32 = true := by first | assumption | exact Foot.bit (by assumption) rfl | exact Foot.trans rfl (by assumption)) : b.kept m { s with tally := x } :=
  kept_part 32 h hm id rfl rfl le_rfl List.suffix_rfl (fun j hj => by unfold samePart; split <;> first | rfl | trivial)

theorem kept_fathom {b s : State} (x : FathomInt) (h : b.kept m s)
    (hm : m.testBit 33 = true := by first | assumption | exact Foot.bit (by assumption) rfl | exact Foot.trans rfl (by assumption)) : b.kept m { s with fathom := x } :=
  kept_part 33 h hm id rfl rfl le_rfl List.suffix_rfl (fun j hj => by unfold samePart; split <;> first | rfl | trivial)

theorem kept_shadow' {b s : State} (x : RegStore) (h : b.kept m s) (hx : s.shadow.wf = true → x.wf = true)
    (hm : m.testBit 0 = true := by first | assumption | exact Foot.bit (by assumption) rfl | exact Foot.trans rfl (by assumption)) : b.kept m { s with shadow := x } :=
  kept_part 0 h hm (fun hb => ⟨hb.1, hx hb.2.1, hb.2.2⟩) rfl rfl le_rfl List.suffix_rfl
    (fun j hj => by unfold samePart; split <;> first | rfl | trivial)

/-- The shadow store taken from another kept state. -/
theorem kept_shadow_from {b s t : State} (h : b.kept m s) (ht : b.kept m t)
    (hm : m.testBit 0 = true := by first | assumption | exact Foot.bit (by assumption) rfl | exact Foot.trans rfl (by assumption)) : b.kept m { s with shadow := t.shadow } := by
  refine ⟨fun hb => ⟨(h.1 hb).1, (ht.1 hb).2.1, (h.1 hb).2.2⟩, h.2.1, h.2.2.1, h.2.2.2.1, h.2.2.2.2.1, ?_⟩
  intro k e
  have h1 := h.2.2.2.2.2 k e
  unfold samePart at *
  split <;> first | exact h1 | trivial | (rw [hm] at e; cases e)

theorem kept_drawn' {b s : State} (n : Nat) (h : b.kept m s) (hn : s.drawn ≤ n)
    (hm : m.testBit 34 = true := by first | assumption | exact Foot.bit (by assumption) rfl | exact Foot.trans rfl (by assumption)) : b.kept m { s with drawn := n } :=
  kept_part 34 h hm id rfl rfl hn List.suffix_rfl (fun j hj => by unfold samePart; split <;> first | rfl | trivial)

theorem kept_out' {b s : State} (o : Out) (h : b.kept m s)
    (hm : m.testBit 35 = true := by first | assumption | exact Foot.bit (by assumption) rfl | exact Foot.trans rfl (by assumption)) : b.kept m { s with out := o :: s.out } :=
  kept_part 35 h hm id rfl rfl le_rfl (List.suffix_cons o s.out) (fun j hj => by unfold samePart; split <;> first | rfl | trivial)

/-- A register set in the store. -/
theorem kept_putReg {b s : State} (r : RegKey) (v : Nat) (h : b.kept m s)
    (hm : m.testBit (regBit r.id) = true := by first | assumption | exact Foot.bit (by assumption) rfl | exact Foot.trans rfl (by assumption)) : b.kept m { s with regs := s.regs.put r v } := by
  refine kept_regs' _ h (fun hw => RegStore.wf_put _ _ _ hw) ?_
  intro q e
  refine RegStore.get_put_other _ _ _ _ ?_
  rintro rfl
  rw [hm] at e; cases e

/-- Registers set one after the other keep the canonical form. -/
theorem RegStore.wf_foldl_put {α : Type} (l : List α) (g : RegStore → α → RegStore)
    (hg : ∀ t a, RegStore.wf t = true → RegStore.wf (g t a) = true) (t : RegStore) (ht : RegStore.wf t = true) :
    RegStore.wf (l.foldl g t) = true := by
  induction l generalizing t with
  | nil => exact ht
  | cons a r ih => exact ih _ (hg t a ht)

/-- The bits of all registers. -/
def allRegs : Nat :=
  0xFFFFFFFFFFFFFFFFFFFFFFFFFFFFFFFFFFFFFFFFFFFFFFFFFFFFFFFFFFFFFFFFFFFFFFFFFFFFFFFFFFFFFFFFFFFFFFFFFFFFFFFFFFFFFFFFFFFFFFFFFFFFFFFF0000000000000000

theorem allRegs_eq : allRegs = (2 ^ 512 - 1) * 2 ^ 64 := by
  rw [show (512 : Nat) = 256 + 256 from rfl, pow_add]; norm_num [allRegs]

theorem allRegs_bit (id : RegId) : allRegs.testBit (regBit id) = true := by
  have hi : id.ctorIdx < 512 := by
    have : ∀ i : RegId, decide (i.ctorIdx < 512) = true := by intro i; cases i <;> rfl
    exact of_decide_eq_true (this id)
  rw [allRegs_eq, ← Nat.shiftLeft_eq, Nat.testBit_shiftLeft, Nat.testBit_two_pow_sub_one]
  simp [hi]

theorem Foot.reg {a m : Nat} {id : RegId} (h : Foot.sub a m) (ha : allRegs &&& a = allRegs) : m.testBit (regBit id) = true :=
  Foot.bit (Foot.trans ha h) (allRegs_bit id)

/-- An operation whose footprint holds all registers may replace the store. -/
theorem kept_allRegs {b s : State} (x : RegStore) (h : b.kept m s) (hx : s.regs.wf = true → x.wf = true)
    (hm : Foot.sub allRegs m := by first | assumption | exact Foot.bit (by assumption) rfl | exact Foot.trans rfl (by assumption)) : b.kept m { s with regs := x } := by
  refine kept_regs' x h hx ?_
  intro r e
  rw [Foot.bit hm (allRegs_bit r.id)] at e; cases e

theorem kept_rings' {b s : State} (k : Nat) (x : RingInt) (h : b.kept m s)
    (hm : m.testBit 4 = true := by first | assumption | exact Foot.bit (by assumption) rfl | exact Foot.trans rfl (by assumption)) :
    b.kept m { s with rings := Tab.put {} s.rings k x } :=
  kept_part 4 h hm (fun ⟨h1, h2, a0, a1, a2, a3, a4, a5, a6, a7, a8, a9, a10, a11, a12, a13, a14, a15⟩ => ⟨h1, h2, Tab.wf_put _ _ _ _ a0, a1, a2, a3, a4, a5, a6, a7, a8, a9, a10, a11, a12, a13, a14, a15⟩)
    rfl rfl le_rfl List.suffix_rfl (fun j hj => by unfold samePart; split <;> first | rfl | trivial)

theorem kept_vecs' {b s : State} (k : Nat) (x : VecInt) (h : b.kept m s)
    (hm : m.testBit 7 = true := by first | assumption | exact Foot.bit (by assumption) rfl | exact Foot.trans rfl (by assumption)) :
    b.kept m { s with vecs := Tab.put {} s.vecs k x } :=
  kept_part 7 h hm (fun ⟨h1, h2, a0, a1, a2, a3, a4, a5, a6, a7, a8, a9, a10, a11, a12, a13, a14, a15⟩ => ⟨h1, h2, a0, Tab.wf_put _ _ _ _ a1, a2, a3, a4, a5, a6, a7, a8, a9, a10, a11, a12, a13, a14, a15⟩)
    rfl rfl le_rfl List.suffix_rfl (fun j hj => by unfold samePart; split <;> first | rfl | trivial)

theorem kept_sessLeft' {b s : State} (k : Nat) (x : Nat) (h : b.kept m s)
    (hm : m.testBit 9 = true := by first | assumption | exact Foot.bit (by assumption) rfl | exact Foot.trans rfl (by assumption)) :
    b.kept m { s with sessLeft := Tab.put 0 s.sessLeft k x } :=
  kept_part 9 h hm (fun ⟨h1, h2, a0, a1, a2, a3, a4, a5, a6, a7, a8, a9, a10, a11, a12, a13, a14, a15⟩ => ⟨h1, h2, a0, a1, Tab.wf_put _ _ _ _ a2, a3, a4, a5, a6, a7, a8, a9, a10, a11, a12, a13, a14, a15⟩)
    rfl rfl le_rfl List.suffix_rfl (fun j hj => by unfold samePart; split <;> first | rfl | trivial)

theorem kept_whip' {b s : State} (k : Nat) (x : WhipInt) (h : b.kept m s)
    (hm : m.testBit 15 = true := by first | assumption | exact Foot.bit (by assumption) rfl | exact Foot.trans rfl (by assumption)) :
    b.kept m { s with whip := Tab.put {} s.whip k x } :=
  kept_part 15 h hm (fun ⟨h1, h2, a0, a1, a2, a3, a4, a5, a6, a7, a8, a9, a10, a11, a12, a13, a14, a15⟩ => ⟨h1, h2, a0, a1, a2, Tab.wf_put _ _ _ _ a3, a4, a5, a6, a7, a8, a9, a10, a11, a12, a13, a14, a15⟩)
    rfl rfl le_rfl List.suffix_rfl (fun j hj => by unfold samePart; split <;> first | rfl | trivial)

theorem kept_strand' {b s : State} (k : Nat) (x : StrandInt) (h : b.kept m s)
    (hm : m.testBit 16 = true := by first | assumption | exact Foot.bit (by assumption) rfl | exact Foot.trans rfl (by assumption)) :
    b.kept m { s with strand := Tab.put {} s.strand k x } :=
  kept_part 16 h hm (fun ⟨h1, h2, a0, a1, a2, a3, a4, a5, a6, a7, a8, a9, a10, a11, a12, a13, a14, a15⟩ => ⟨h1, h2, a0, a1, a2, a3, Tab.wf_put _ _ _ _ a4, a5, a6, a7, a8, a9, a10, a11, a12, a13, a14, a15⟩)
    rfl rfl le_rfl List.suffix_rfl (fun j hj => by unfold samePart; split <;> first | rfl | trivial)

theorem kept_braid' {b s : State} (k : Nat) (x : BraidInt) (h : b.kept m s)
    (hm : m.testBit 17 = true := by first | assumption | exact Foot.bit (by assumption) rfl | exact Foot.trans rfl (by assumption)) :
    b.kept m { s with braid := Tab.put {} s.braid k x } :=
  kept_part 17 h hm (fun ⟨h1, h2, a0, a1, a2, a3, a4, a5, a6, a7, a8, a9, a10, a11, a12, a13, a14, a15⟩ => ⟨h1, h2, a0, a1, a2, a3, a4, Tab.wf_put _ _ _ _ a5, a6, a7, a8, a9, a10, a11, a12, a13, a14, a15⟩)
    rfl rfl le_rfl List.suffix_rfl (fun j hj => by unfold samePart; split <;> first | rfl | trivial)

theorem kept_splice' {b s : State} (k : Nat) (x : SpliceInt) (h : b.kept m s)
    (hm : m.testBit 18 = true := by first | assumption | exact Foot.bit (by assumption) rfl | exact Foot.trans rfl (by assumption)) :
    b.kept m { s with splice := Tab.put {} s.splice k x } :=
  kept_part 18 h hm (fun ⟨h1, h2, a0, a1, a2, a3, a4, a5, a6, a7, a8, a9, a10, a11, a12, a13, a14, a15⟩ => ⟨h1, h2, a0, a1, a2, a3, a4, a5, Tab.wf_put _ _ _ _ a6, a7, a8, a9, a10, a11, a12, a13, a14, a15⟩)
    rfl rfl le_rfl List.suffix_rfl (fun j hj => by unfold samePart; split <;> first | rfl | trivial)

theorem kept_bight' {b s : State} (k : Nat) (x : BightInt) (h : b.kept m s)
    (hm : m.testBit 20 = true := by first | assumption | exact Foot.bit (by assumption) rfl | exact Foot.trans rfl (by assumption)) :
    b.kept m { s with bight := Tab.put {} s.bight k x } :=
  kept_part 20 h hm (fun ⟨h1, h2, a0, a1, a2, a3, a4, a5, a6, a7, a8, a9, a10, a11, a12, a13, a14, a15⟩ => ⟨h1, h2, a0, a1, a2, a3, a4, a5, a6, Tab.wf_put _ _ _ _ a7, a8, a9, a10, a11, a12, a13, a14, a15⟩)
    rfl rfl le_rfl List.suffix_rfl (fun j hj => by unfold samePart; split <;> first | rfl | trivial)

theorem kept_cleat' {b s : State} (k : Nat) (x : CleatInt) (h : b.kept m s)
    (hm : m.testBit 21 = true := by first | assumption | exact Foot.bit (by assumption) rfl | exact Foot.trans rfl (by assumption)) :
    b.kept m { s with cleat := Tab.put {} s.cleat k x } :=
  kept_part 21 h hm (fun ⟨h1, h2, a0, a1, a2, a3, a4, a5, a6, a7, a8, a9, a10, a11, a12, a13, a14, a15⟩ => ⟨h1, h2, a0, a1, a2, a3, a4, a5, a6, a7, Tab.wf_put _ _ _ _ a8, a9, a10, a11, a12, a13, a14, a15⟩)
    rfl rfl le_rfl List.suffix_rfl (fun j hj => by unfold samePart; split <;> first | rfl | trivial)

theorem kept_twine' {b s : State} (k : Nat) (x : TwineInt) (h : b.kept m s)
    (hm : m.testBit 22 = true := by first | assumption | exact Foot.bit (by assumption) rfl | exact Foot.trans rfl (by assumption)) :
    b.kept m { s with twine := Tab.put {} s.twine k x } :=
  kept_part 22 h hm (fun ⟨h1, h2, a0, a1, a2, a3, a4, a5, a6, a7, a8, a9, a10, a11, a12, a13, a14, a15⟩ => ⟨h1, h2, a0, a1, a2, a3, a4, a5, a6, a7, a8, Tab.wf_put _ _ _ _ a9, a10, a11, a12, a13, a14, a15⟩)
    rfl rfl le_rfl List.suffix_rfl (fun j hj => by unfold samePart; split <;> first | rfl | trivial)

theorem kept_clients' {b s : State} (k : Nat) (x : ClientInt) (h : b.kept m s)
    (hm : m.testBit 23 = true := by first | assumption | exact Foot.bit (by assumption) rfl | exact Foot.trans rfl (by assumption)) :
    b.kept m { s with clients := Tab.put {} s.clients k x } :=
  kept_part 23 h hm (fun ⟨h1, h2, a0, a1, a2, a3, a4, a5, a6, a7, a8, a9, a10, a11, a12, a13, a14, a15⟩ => ⟨h1, h2, a0, a1, a2, a3, a4, a5, a6, a7, a8, a9, Tab.wf_put _ _ _ _ a10, a11, a12, a13, a14, a15⟩)
    rfl rfl le_rfl List.suffix_rfl (fun j hj => by unfold samePart; split <;> first | rfl | trivial)

theorem kept_groups' {b s : State} (k : Nat) (x : GroupInt) (h : b.kept m s)
    (hm : m.testBit 25 = true := by first | assumption | exact Foot.bit (by assumption) rfl | exact Foot.trans rfl (by assumption)) :
    b.kept m { s with groups := Tab.put {} s.groups k x } :=
  kept_part 25 h hm (fun ⟨h1, h2, a0, a1, a2, a3, a4, a5, a6, a7, a8, a9, a10, a11, a12, a13, a14, a15⟩ => ⟨h1, h2, a0, a1, a2, a3, a4, a5, a6, a7, a8, a9, a10, Tab.wf_put _ _ _ _ a11, a12, a13, a14, a15⟩)
    rfl rfl le_rfl List.suffix_rfl (fun j hj => by unfold samePart; split <;> first | rfl | trivial)

theorem kept_kcs' {b s : State} (k : Nat) (x : KcInt) (h : b.kept m s)
    (hm : m.testBit 26 = true := by first | assumption | exact Foot.bit (by assumption) rfl | exact Foot.trans rfl (by assumption)) :
    b.kept m { s with kcs := Tab.put {} s.kcs k x } :=
  kept_part 26 h hm (fun ⟨h1, h2, a0, a1, a2, a3, a4, a5, a6, a7, a8, a9, a10, a11, a12, a13, a14, a15⟩ => ⟨h1, h2, a0, a1, a2, a3, a4, a5, a6, a7, a8, a9, a10, a11, Tab.wf_put _ _ _ _ a12, a13, a14, a15⟩)
    rfl rfl le_rfl List.suffix_rfl (fun j hj => by unfold samePart; split <;> first | rfl | trivial)

theorem kept_keks' {b s : State} (k : Nat) (x : List Byte) (h : b.kept m s)
    (hm : m.testBit 27 = true := by first | assumption | exact Foot.bit (by assumption) rfl | exact Foot.trans rfl (by assumption)) :
    b.kept m { s with keks := Tab.put [] s.keks k x } :=
  kept_part 27 h hm (fun ⟨h1, h2, a0, a1, a2, a3, a4, a5, a6, a7, a8, a9, a10, a11, a12, a13, a14, a15⟩ => ⟨h1, h2, a0, a1, a2, a3, a4, a5, a6, a7, a8, a9, a10, a11, a12, Tab.wf_put _ _ _ _ a13, a14, a15⟩)
    rfl rfl le_rfl List.suffix_rfl (fun j hj => by unfold samePart; split <;> first | rfl | trivial)

theorem kept_hitch' {b s : State} (k : Nat) (x : HitchInt) (h : b.kept m s)
    (hm : m.testBit 28 = true := by first | assumption | exact Foot.bit (by assumption) rfl | exact Foot.trans rfl (by assumption)) :
    b.kept m { s with hitch := Tab.put {} s.hitch k x } :=
  kept_part 28 h hm (fun ⟨h1, h2, a0, a1, a2, a3, a4, a5, a6, a7, a8, a9, a10, a11, a12, a13, a14, a15⟩ => ⟨h1, h2, a0, a1, a2, a3, a4, a5, a6, a7, a8, a9, a10, a11, a12, a13, Tab.wf_put _ _ _ _ a14, a15⟩)
    rfl rfl le_rfl List.suffix_rfl (fun j hj => by unfold samePart; split <;> first | rfl | trivial)

theorem kept_discards' {b s : State} (k : Nat) (x : Nat) (h : b.kept m s)
    (hm : m.testBit 36 = true := by first | assumption | exact Foot.bit (by assumption) rfl | exact Foot.trans rfl (by assumption)) :
    b.kept m { s with discards := Tab.put 0 s.discards k x } :=
  kept_part 36 h hm (fun ⟨h1, h2, a0, a1, a2, a3, a4, a5, a6, a7, a8, a9, a10, a11, a12, a13, a14, a15⟩ => ⟨h1, h2, a0, a1, a2, a3, a4, a5, a6, a7, a8, a9, a10, a11, a12, a13, a14, Tab.wf_put _ _ _ _ a15⟩)
    rfl rfl le_rfl List.suffix_rfl (fun j hj => by unfold samePart; split <;> first | rfl | trivial)

theorem kept_keks_all {b s : State} (x : Tab (List Byte)) (h : b.kept m s) (hx : Tab.wf [] x = true)
    (hm : m.testBit 27 = true := by first | assumption | exact Foot.bit (by assumption) rfl | exact Foot.trans rfl (by assumption)) : b.kept m { s with keks := x } :=
  kept_part 27 h hm (fun ⟨h1, h2, a0, a1, a2, a3, a4, a5, a6, a7, a8, a9, a10, a11, a12, a13, a14, a15⟩ => ⟨h1, h2, a0, a1, a2, a3, a4, a5, a6, a7, a8, a9, a10, a11, a12, hx, a14, a15⟩)
    rfl rfl le_rfl List.suffix_rfl (fun j hj => by unfold samePart; split <;> first | rfl | trivial)

theorem kept_vecs_nil {b s : State} (h : b.kept m s)
    (hm : m.testBit 7 = true := by first | assumption | exact Foot.bit (by assumption) rfl | exact Foot.trans rfl (by assumption)) : b.kept m { s with vecs := [] } :=
  kept_part 7 h hm (fun ⟨h1, h2, a0, a1, a2, a3, a4, a5, a6, a7, a8, a9, a10, a11, a12, a13, a14, a15⟩ => ⟨h1, h2, a0, rfl, a2, a3, a4, a5, a6, a7, a8, a9, a10, a11, a12, a13, a14, a15⟩)
    rfl rfl le_rfl List.suffix_rfl (fun j hj => by unfold samePart; split <;> first | rfl | trivial)

end Sys2Proof.Machine
end

