-- ==== Sys2Proof/Laws/KeptOps.lean ====
section
/-! SUPPORT. What every operation of Machine/Ops.lean keeps: see Laws/Kept.lean. -/

-- The proofs of the whole text do not run side by side: their memory adds up.
set_option Elab.async false

namespace Sys2Proof.Machine

open Sys2Proof

theorem State.setReg_kept {m : Nat} {b : State} (s : State) (id : RegId) (v : Nat) (i : Nat) (j : Nat) (k : Nat)
    (hs : b.kept m s) (hmid : m.testBit (regBit id) = true := by
      first | assumption | exact Foot.bit (by assumption) rfl | exact Foot.trans rfl (by assumption)) :
    b.kept m (State.setReg s id v i j k) := by
  unfold State.setReg
  repeat' first
    | with_reducible assumption
    | with_reducible apply kept_putReg

theorem State.wr_kept {m : Nat} {b : State} (s : State) (f : Fld) (v : Nat) (i : Nat) (j : Nat) (k : Nat)
    (hs : b.kept m s) (hmf : m.testBit (regBit f.id) = true := by
      first | assumption | exact Foot.bit (by assumption) rfl | exact Foot.trans rfl (by assumption)) :
    b.kept m (State.wr s f v i j k) := by
  unfold State.wr
  repeat' first
    | with_reducible assumption
    | with_reducible apply State.setReg_kept

theorem State.inc_kept {m : Nat} {b : State} (s : State) (f : Fld) (d : Nat) (i : Nat) (j : Nat) (k : Nat)
    (hs : b.kept m s) (hmf : m.testBit (regBit f.id) = true := by
      first | assumption | exact Foot.bit (by assumption) rfl | exact Foot.trans rfl (by assumption)) :
    b.kept m (State.inc s f d i j k) := by
  unfold State.inc
  repeat' first
    | with_reducible assumption
    | with_reducible apply State.wr_kept

theorem State.incWrap_kept {m : Nat} {b : State} (s : State) (f : Fld) (d : Nat) (i : Nat) (j : Nat) (k : Nat)
    (hs : b.kept m s) (hmf : m.testBit (regBit f.id) = true := by
      first | assumption | exact Foot.bit (by assumption) rfl | exact Foot.trans rfl (by assumption)) :
    b.kept m (State.incWrap s f d i j k) := by
  unfold State.incWrap
  repeat' first
    | with_reducible assumption
    | with_reducible apply State.wr_kept

theorem State.count_kept {m : Nat} {b : State} (s : State) (id : RegId) (d : Nat) (i : Nat) (j : Nat) (k : Nat)
    (hs : b.kept m s) (hmid : m.testBit (regBit id) = true := by
      first | assumption | exact Foot.bit (by assumption) rfl | exact Foot.trans rfl (by assumption)) :
    b.kept m (State.count s id d i j k) := by
  unfold State.count
  repeat' first
    | with_reducible assumption
    | with_reducible apply State.setReg_kept

theorem act_keeps {m : Nat} {b : State} (a0 : Nat) (s : State) (f : State → State) (hs : b.kept m s)
    (hf : ∀ y0, b.kept m y0 → b.kept m (f y0)) :
    b.keeps m (act a0 s f) := by
  unfold act
  repeat' first
    | with_reducible assumption
    | with_reducible apply hf
    | with_reducible apply kept_ite
    | with_reducible apply State.keeps_next
    | lift_lets
    | intro _

theorem State.emit_kept {m : Nat} {b : State} (s : State) (o : Out) (hs : b.kept m s)
    (hm : Foot.sub 0x800000000 m := by
      first | assumption | exact Foot.bit (by assumption) rfl | exact Foot.trans rfl (by assumption)) :
    b.kept m (State.emit s o) := by
  unfold State.emit
  repeat' first
    | with_reducible assumption
    | exact Foot.bit hm rfl
    | with_reducible apply kept_out'

theorem State.draw_kept {m : Nat} {b : State} (s : State) (hs : b.kept m s) (hm : Foot.sub 0x400000000 m := by
      first | assumption | exact Foot.bit (by assumption) rfl | exact Foot.trans rfl (by assumption)) :
    b.kept m (State.draw s).1 := by
  unfold State.draw
  repeat' first
    | with_reducible assumption
    | exact Foot.bit hm rfl
    | lift_lets
    | with_reducible apply kept_drawn'
    | exact Nat.le_succ _

theorem State.each_kept {m : Nat} {b : State} (s : State) (l : List Nat) (f : Nat → State → State) (hs : b.kept m s)
    (hf : ∀ y0 y1, b.kept m y1 → b.kept m (f y0 y1)) :
    b.kept m (State.each s l f) := by
  unfold State.each
  repeat' first
    | with_reducible assumption
    | with_reducible apply hf
    | with_reducible apply kept_foldl
    | intro x _ (hx : State.kept m b x)

theorem State.setRing_kept {m : Nat} {b : State} (s : State) (r : Nat) (x : RingInt) (hs : b.kept m s)
    (hm : Foot.sub 0x10 m := by
      first | assumption | exact Foot.bit (by assumption) rfl | exact Foot.trans rfl (by assumption)) :
    b.kept m (State.setRing s r x) := by
  unfold State.setRing
  repeat' first
    | with_reducible assumption
    | exact Foot.bit hm rfl
    | with_reducible apply kept_rings'

theorem State.message_kept {m : Nat} {b : State} (s : State) (v : Nat) (hs : b.kept m s)
    (hm : Foot.sub 0x800000080 m := by
      first | assumption | exact Foot.bit (by assumption) rfl | exact Foot.trans rfl (by assumption)) :
    b.kept m (State.message s v) := by
  unfold State.message
  repeat' first
    | with_reducible assumption
    | with_reducible apply State.emit_kept
    | with_reducible apply kept_ite
    | with_reducible apply keeps_ite
    | with_reducible apply State.keeps_next
    | exact Foot.bit hm rfl
    | exact Foot.trans rfl hm
    | intro x (hx : State.kept m b x)
    | intro _ x (hx : State.kept m b x)
    | intro x _ (hx : State.kept m b x)
    | intro x _ (hx : State.kept m b x.1)
    | lift_lets
    | (intro x; clear_value x)
    | intro _
    | with_reducible apply kept_vecs'

theorem State.ringMessage_kept {m : Nat} {b : State} (s : State) (r : Nat) (atOnce : Bool) (hs : b.kept m s)
    (hm : Foot.sub 0x800000090 m := by
      first | assumption | exact Foot.bit (by assumption) rfl | exact Foot.trans rfl (by assumption)) :
    b.kept m (State.ringMessage s r atOnce) := by
  unfold State.ringMessage
  repeat' first
    | with_reducible assumption
    | with_reducible apply State.message_kept
    | with_reducible apply State.setRing_kept
    | with_reducible apply kept_ite
    | exact Foot.trans rfl hm
    | lift_lets
    | (intro x; clear_value x)
    | intro _

theorem State.ringPutRaw_kept {m : Nat} {b : State} (s : State) (r : Nat) (entry : List Byte) (atOnce : Bool)
    (hs : b.kept m s) (hm : Foot.sub 0x808000000000000800000090 m := by
      first | assumption | exact Foot.bit (by assumption) rfl | exact Foot.trans rfl (by assumption)) :
    b.kept m (State.ringPutRaw s r entry atOnce) := by
  unfold State.ringPutRaw
  repeat' first
    | with_reducible assumption
    | with_reducible apply State.count_kept
    | with_reducible apply State.emit_kept
    | with_reducible apply State.ringMessage_kept
    | with_reducible apply State.wr_kept
    | with_reducible apply kept_ite
    | with_reducible apply keeps_ite
    | with_reducible apply State.keeps_next
    | exact Foot.bit hm rfl
    | exact Foot.trans rfl hm
    | intro x (hx : State.kept m b x)
    | intro _ x (hx : State.kept m b x)
    | intro x _ (hx : State.kept m b x)
    | intro x _ (hx : State.kept m b x.1)
    | lift_lets
    | intro _

theorem State.ringPut_kept {m : Nat} {b : State} (s : State) (r : Nat) (body : Nat → List Byte) (atOnce : Bool)
    (hs : b.kept m s) (hm : Foot.sub 0x808000000000000800000090 m := by
      first | assumption | exact Foot.bit (by assumption) rfl | exact Foot.trans rfl (by assumption)) :
    b.kept m (State.ringPut s r body atOnce) := by
  unfold State.ringPut
  repeat' first
    | with_reducible assumption
    | with_reducible apply State.ringPutRaw_kept

theorem State.streamPut_kept {m : Nat} {b : State} (s : State) (r : Nat) (body : Nat → List Byte) (hs : b.kept m s)
    (hm : Foot.sub 0x808000000000000800000090 m := by
      first | assumption | exact Foot.bit (by assumption) rfl | exact Foot.trans rfl (by assumption)) :
    b.kept m (State.streamPut s r body) := by
  unfold State.streamPut
  repeat' first
    | with_reducible assumption
    | with_reducible apply State.ringPut_kept
    | with_reducible apply State.wr_kept
    | with_reducible apply State.inc_kept
    | with_reducible apply kept_ite
    | exact Foot.bit hm rfl
    | lift_lets
    | intro _

theorem State.eventWrite_kept {m : Nat} {b : State} (s : State) (r : Nat) (code : Nat) (dom : Nat) (params : List Nat)
    (exit : Bool) (hs : b.kept m s) (hm : Foot.sub 0x808000000000000C00000090 m := by
      first | assumption | exact Foot.bit (by assumption) rfl | exact Foot.trans rfl (by assumption)) :
    b.kept m (State.eventWrite s r code dom params exit) := by
  unfold State.eventWrite
  repeat' first
    | with_reducible assumption
    | with_reducible apply State.draw_kept
    | with_reducible apply State.ringPut_kept
    | with_reducible apply State.setRing_kept
    | exact Foot.trans rfl hm

theorem State.eventLost_kept {m : Nat} {b : State} (s : State) (r : Nat) (code : Nat) (hs : b.kept m s)
    (hm : Foot.sub 0x880000000000000000000010 m := by
      first | assumption | exact Foot.bit (by assumption) rfl | exact Foot.trans rfl (by assumption)) :
    b.kept m (State.eventLost s r code) := by
  unfold State.eventLost
  repeat' first
    | with_reducible assumption
    | with_reducible apply State.setRing_kept
    | with_reducible apply State.count_kept
    | with_reducible apply State.inc_kept
    | exact Foot.bit hm rfl
    | exact Foot.trans rfl hm

theorem State.eventTo_kept {m : Nat} {b : State} (s : State) (r : Nat) (code : Nat) (dom : Nat) (params : List Nat)
    (exit : Bool) (hs : b.kept m s) (hm : Foot.sub 0x888000000000000C00000090 m := by
      first | assumption | exact Foot.bit (by assumption) rfl | exact Foot.trans rfl (by assumption)) :
    b.kept m (State.eventTo s r code dom params exit) := by
  unfold State.eventTo
  repeat' first
    | with_reducible assumption
    | with_reducible apply State.eventWrite_kept
    | with_reducible apply State.eventLost_kept
    | with_reducible apply kept_ite
    | exact Foot.trans rfl hm
    | lift_lets
    | intro _

theorem State.event_kept {m : Nat} {b : State} (s : State) (code : Nat) (dom : Nat) (params : List Nat) (exit : Bool)
    (hs : b.kept m s) (hm : Foot.sub 0x888000000000000C00000090 m := by
      first | assumption | exact Foot.bit (by assumption) rfl | exact Foot.trans rfl (by assumption)) :
    b.kept m (State.event s code dom params exit) := by
  unfold State.event
  repeat' first
    | with_reducible assumption
    | with_reducible apply State.emit_kept
    | with_reducible apply State.eventTo_kept
    | exact Foot.trans rfl hm
    | lift_lets
    | (intro x; refine kept_cut (m := m) (b := b) (x := x) ?_ ?_ <;> [skip; (clear_value x; intro hx)])
    | split

theorem State.raise_kept {m : Nat} {b : State} (s : State) (f : Fld) (code : Nat) (dom : Nat) (params : List Nat)
    (exit : Bool) (i : Nat) (hs : b.kept m s) (hm : Foot.sub 0x888000000000000C00000090 m := by
      first | assumption | exact Foot.bit (by assumption) rfl | exact Foot.trans rfl (by assumption))
    (hmf : m.testBit (regBit f.id) = true := by
      first | assumption | exact Foot.bit (by assumption) rfl | exact Foot.trans rfl (by assumption)) :
    b.kept m (State.raise s f code dom params exit i) := by
  unfold State.raise
  repeat' first
    | with_reducible assumption
    | with_reducible apply State.event_kept
    | with_reducible apply State.wr_kept

theorem State.faultVector_kept {m : Nat} {b : State} (s : State) (hs : b.kept m s) (hm : Foot.sub 0x800000080 m := by
      first | assumption | exact Foot.bit (by assumption) rfl | exact Foot.trans rfl (by assumption))
    :
    b.kept m (State.faultVector s) := by
  unfold State.faultVector
  repeat' first
    | with_reducible assumption
    | with_reducible apply State.message_kept
    | with_reducible apply kept_ite
    | lift_lets
    | intro _

theorem State.setFault_kept {m : Nat} {b : State} (s : State) (f : Fld) (v : Bool) (vec : Bool) (hs : b.kept m s)
    (hm : Foot.sub 0x800002080 m := by
      first | assumption | exact Foot.bit (by assumption) rfl | exact Foot.trans rfl (by assumption)) (hmf : m.testBit (regBit f.id) = true := by
      first | assumption | exact Foot.bit (by assumption) rfl | exact Foot.trans rfl (by assumption)) :
    b.kept m (State.setFault s f v vec) := by
  unfold State.setFault
  repeat' first
    | with_reducible assumption
    | with_reducible apply State.wr_kept
    | with_reducible apply State.faultVector_kept
    | with_reducible apply kept_ite
    | exact Foot.bit hm rfl
    | exact Foot.trans rfl hm
    | lift_lets
    | (intro x; refine kept_cut (m := m) (b := b) (x := x) ?_ ?_ <;> [skip; (clear_value x; intro hx)])
    | (intro x; clear_value x)
    | intro _
    | with_reducible apply kept_boot

theorem State.bootFail_kept {m : Nat} {b : State} (s : State) (cause : Nat) (hs : b.kept m s)
    (hm : Foot.sub 0x90000000000800002080 m := by
      first | assumption | exact Foot.bit (by assumption) rfl | exact Foot.trans rfl (by assumption)) :
    b.kept m (State.bootFail s cause) := by
  unfold State.bootFail
  repeat' first
    | with_reducible assumption
    | with_reducible apply State.setFault_kept
    | with_reducible apply State.wr_kept
    | exact Foot.bit hm rfl
    | exact Foot.trans rfl hm

theorem State.recordAs_kept {m : Nat} {b : State} (s : State) (stamp : Nat) (role : Nat) (dom : Nat) (kind : Nat)
    (result : Nat) (what : Nat) (old : Nat) (new : Nat) (aux : Nat) (hs : b.kept m s)
    (hm : Foot.sub 0x1000000000000000000400000800 m := by
      first | assumption | exact Foot.bit (by assumption) rfl | exact Foot.trans rfl (by assumption)) :
    b.kept m (State.recordAs s stamp role dom kind result what old new aux) := by
  unfold State.recordAs
  repeat' first
    | with_reducible assumption
    | with_reducible apply State.draw_kept
    | with_reducible apply State.wr_kept
    | with_reducible apply kept_ite
    | with_reducible apply keeps_ite
    | with_reducible apply State.keeps_next
    | exact Foot.bit hm rfl
    | exact Foot.trans rfl hm
    | intro x (hx : State.kept m b x)
    | intro _ x (hx : State.kept m b x)
    | intro x _ (hx : State.kept m b x)
    | intro x _ (hx : State.kept m b x.1)
    | lift_lets
    | intro _
    | with_reducible apply kept_journal

theorem State.record_kept {m : Nat} {b : State} (s : State) (req : Requester) (role : Nat) (dom : Nat) (kind : Nat)
    (result : Nat) (what : Nat) (old : Nat) (new : Nat) (aux : Nat) (hs : b.kept m s)
    (hm : Foot.sub 0x1000000000000000000400000800 m := by
      first | assumption | exact Foot.bit (by assumption) rfl | exact Foot.trans rfl (by assumption)) :
    b.kept m (State.record s req role dom kind result what old new aux) := by
  unfold State.record
  repeat' first
    | with_reducible assumption
    | with_reducible apply State.recordAs_kept

theorem State.recordSvc_kept {m : Nat} {b : State} (s : State) (v : Nat) (dom : Nat) (kind : Nat) (result : Nat)
    (what : Nat) (old : Nat) (new : Nat) (aux : Nat) (hs : b.kept m s)
    (hm : Foot.sub 0x1000000000000000000400000800 m := by
      first | assumption | exact Foot.bit (by assumption) rfl | exact Foot.trans rfl (by assumption)) :
    b.kept m (State.recordSvc s v dom kind result what old new aux) := by
  unfold State.recordSvc
  repeat' first
    | with_reducible assumption
    | with_reducible apply State.recordAs_kept

theorem State.recordOwn_kept {m : Nat} {b : State} (s : State) (kind : Nat) (result : Nat) (what : Nat) (old : Nat)
    (new : Nat) (aux : Nat) (hs : b.kept m s) (hm : Foot.sub 0x1000000000000000000400000800 m := by
      first | assumption | exact Foot.bit (by assumption) rfl | exact Foot.trans rfl (by assumption)) :
    b.kept m (State.recordOwn s kind result what old new aux) := by
  unfold State.recordOwn
  repeat' first
    | with_reducible assumption
    | with_reducible apply State.recordSvc_kept

theorem State.denied_kept {m : Nat} {b : State} (s : State) (hs : b.kept m s)
    (hm : Foot.sub 0x1010888000000000000C00000090 m := by
      first | assumption | exact Foot.bit (by assumption) rfl | exact Foot.trans rfl (by assumption)) :
    b.kept m (State.denied s) := by
  unfold State.denied
  repeat' first
    | with_reducible assumption
    | with_reducible apply State.raise_kept
    | with_reducible apply State.inc_kept
    | exact Foot.bit hm rfl
    | exact Foot.trans rfl hm

theorem State.unjournaled_kept {m : Nat} {b : State} (s : State) (hs : b.kept m s)
    (hm : Foot.sub 0x1010888000000000000C00000090 m := by
      first | assumption | exact Foot.bit (by assumption) rfl | exact Foot.trans rfl (by assumption)) :
    b.kept m (State.unjournaled s) := by
  unfold State.unjournaled
  repeat' first
    | with_reducible assumption
    | with_reducible apply State.inc_kept
    | with_reducible apply State.raise_kept
    | with_reducible apply kept_ite
    | exact Foot.bit hm rfl
    | exact Foot.trans rfl hm
    | lift_lets
    | intro _

theorem State.write_kept {m : Nat} {b : State} (s : State) (req : Requester) (need : Nat) (doms : List Nat)
    (addr : Nat) (old : Nat) (new : Nat) (opJournal : Bool) (f : State → State) (hs : b.kept m s)
    (hf : ∀ y0, b.kept m y0 → b.kept m (f y0)) (hm : Foot.sub 0x1010888000000000000C00000890 m := by
      first | assumption | exact Foot.bit (by assumption) rfl | exact Foot.trans rfl (by assumption)) :
    b.kept m (State.write s req need doms addr old new opJournal f) := by
  unfold State.write
  repeat' first
    | with_reducible assumption
    | with_reducible apply hf
    | with_reducible apply State.record_kept
    | with_reducible apply State.denied_kept
    | with_reducible apply State.unjournaled_kept
    | with_reducible apply kept_ite
    | exact Foot.trans rfl hm
    | lift_lets
    | intro _

/-- The footprint of a refusal: the block's REFUSE and event registers, and that of an event. -/
def refuseFoot (b : Nat) : Nat :=
  match refuseFields b with
  | none => 0
  | some (sticky, last, cnt, u, bit) =>
    0x888000000000000C00000090 ||| 1 <<< regBit sticky.id ||| 1 <<< regBit last.id ||| 1 <<< regBit cnt.id |||
      (match u with | some f => 1 <<< regBit f.id | none => 0) ||| (match bit with | some f => 1 <<< regBit f.id | none => 0)

theorem Foot.or_left {a b m : Nat} (h : Foot.sub (a ||| b) m) : Foot.sub a m :=
  Foot.trans (by apply Nat.eq_of_testBit_eq; intro i; simp; tauto) h

theorem Foot.or_right {a b m : Nat} (h : Foot.sub (a ||| b) m) : Foot.sub b m :=
  Foot.trans (by apply Nat.eq_of_testBit_eq; intro i; simp; tauto) h

theorem Foot.shift {k m : Nat} (h : Foot.sub (1 <<< k) m) : m.testBit k = true :=
  Foot.bit h (by simp)

theorem Foot.refuse {a b m : Nat} (h : Foot.sub a m) (ha : (allRegs ||| 0xC00000090) &&& a = (allRegs ||| 0xC00000090)) :
    Foot.sub (refuseFoot b) m := by
  have key : ∀ k, refuseFoot k &&& (allRegs ||| 0xC00000090) = refuseFoot k := by
    intro k
    match k with
    | 0 | 1 | 2 | 3 | 4 | 5 | 6 | 7 | 8 | 9 | 10 | 11 | 12 | 13 | 14 | 15 | 16 | 17 | 18 => rfl
    | n + 19 => simp [refuseFoot, refuseFields]
  exact Foot.trans (key b) (Foot.trans ha h)

theorem State.refuse_kept {m : Nat} {b : State} (s : State) (a1 cause unit dom : Nat) (hs : b.kept m s)
    (hm : Foot.sub (refuseFoot a1) m := by
      first | assumption | exact Foot.trans rfl (by assumption)) : b.kept m (s.refuse a1 cause unit dom) := by
  unfold State.refuse
  unfold refuseFoot at hm
  cases h : refuseFields a1 with
  | none => exact hs
  | some p =>
    obtain ⟨sticky, last, cnt, u, bit⟩ := p
    rw [h] at hm
    dsimp only at hm
    have h5 := Foot.or_right hm
    have h4 := Foot.or_right (Foot.or_left hm)
    have h3 := Foot.shift (Foot.or_right (Foot.or_left (Foot.or_left hm)))
    have h2 := Foot.shift (Foot.or_right (Foot.or_left (Foot.or_left (Foot.or_left hm))))
    have h1 := Foot.shift (Foot.or_right (Foot.or_left (Foot.or_left (Foot.or_left (Foot.or_left hm)))))
    have h0 := Foot.or_left (Foot.or_left (Foot.or_left (Foot.or_left (Foot.or_left hm))))
    have hc := State.inc_kept _ cnt 1 0 0 0 (State.wr_kept _ last cause 0 0 0 (State.wr_kept _ sticky 1 0 0 0 hs h1) h2) h3
    cases u with
    | none =>
      cases bit with
      | none => exact State.event_kept _ _ _ _ _ hc h0
      | some g => exact State.event_kept _ _ _ _ _ (State.wr_kept _ _ _ _ _ _ hc (Foot.shift h5)) h0
    | some f =>
      have hu := State.wr_kept _ f unit 0 0 0 hc (Foot.shift h4)
      cases bit with
      | none => exact State.event_kept _ _ _ _ _ hu h0
      | some g => exact State.event_kept _ _ _ _ _ (State.wr_kept _ _ _ _ _ _ hu (Foot.shift h5)) h0

theorem State.writeOr_kept {m : Nat} {b : State} (s : State) (req : Requester) (need : Nat) (doms : List Nat)
    (addr : Nat) (old : Nat) (new : Nat) (opJournal : Bool) (a8 : Nat) (cause : Nat) (unit : Nat) (f : State → State)
    (hs : b.kept m s) (hf : ∀ y0, b.kept m y0 → b.kept m (f y0)) (hm : Foot.sub 0x1010888000000000000C00000890 m := by
      first | assumption | exact Foot.bit (by assumption) rfl | exact Foot.trans rfl (by assumption))
    (hma8 : Foot.sub (refuseFoot a8) m := by
      first | assumption | exact Foot.bit (by assumption) rfl | exact Foot.trans rfl (by assumption)) :
    b.kept m (State.writeOr s req need doms addr old new opJournal a8 cause unit f) := by
  unfold State.writeOr
  repeat' first
    | with_reducible assumption
    | with_reducible apply State.write_kept
    | with_reducible apply State.refuse_kept
    | with_reducible apply kept_ite
    | lift_lets
    | intro _

theorem State.takeShadow_kept {m : Nat} {b : State} (s : State) (a1 : Nat) (hs : b.kept m s)
    (hm : Foot.sub (allRegs ||| 0x1) m := by
      first | assumption | exact Foot.bit (by assumption) rfl | exact Foot.trans rfl (by assumption)) :
    b.kept m (State.takeShadow s a1) := by
  unfold State.takeShadow
  have hr : Foot.sub allRegs m := Foot.trans (by decide) hm
  have hb : m.testBit 0 = true := Foot.bit hm (by decide)
  exact kept_shadow' _ (kept_allRegs _ hs (RegStore.wf_foldl_put _ _ (fun _ _ h => RegStore.wf_put _ _ _ h) _) hr)
    (RegStore.wf_foldl_put _ _ (fun _ _ h => RegStore.wf_put _ _ _ h) _) hb

theorem State.dropLatch_kept {m : Nat} {b : State} (s : State) (req : Requester) (hs : b.kept m s)
    (hm : Foot.sub 0x2 m := by
      first | assumption | exact Foot.bit (by assumption) rfl | exact Foot.trans rfl (by assumption)) :
    b.kept m (State.dropLatch s req) := by
  unfold State.dropLatch
  repeat' first
    | with_reducible assumption
    | exact Foot.bit hm rfl
    | with_reducible apply kept_latches

theorem access_keeps {m : Nat} {b : State} (req : Requester) (a1 : Nat) (s : State) (f : State → State)
    (hs : b.kept m s) (hf : ∀ y0, b.kept m y0 → b.kept m (f y0)) (hm : Foot.sub 0x2 m := by
      first | assumption | exact Foot.bit (by assumption) rfl | exact Foot.trans rfl (by assumption)) :
    b.keeps m (access req a1 s f) := by
  unfold access
  repeat' first
    | with_reducible assumption
    | with_reducible apply hf
    | with_reducible apply State.dropLatch_kept
    | with_reducible apply kept_ite
    | with_reducible apply State.keeps_next
    | lift_lets
    | intro _

theorem State.markIntervals_kept {m : Nat} {b : State} (s : State) (n : Nat) (t : Nat) (hs : b.kept m s)
    (hm : Foot.sub 0x10000000 m := by
      first | assumption | exact Foot.bit (by assumption) rfl | exact Foot.trans rfl (by assumption)) :
    b.kept m (State.markIntervals s n t) := by
  unfold State.markIntervals
  repeat' first
    | with_reducible assumption
    | with_reducible apply kept_ite
    | with_reducible apply keeps_ite
    | with_reducible apply State.keeps_next
    | exact Foot.bit hm rfl
    | exact Foot.trans rfl hm
    | intro x (hx : State.kept m b x)
    | intro _ x (hx : State.kept m b x)
    | intro x _ (hx : State.kept m b x)
    | intro x _ (hx : State.kept m b x.1)
    | lift_lets
    | (intro x; clear_value x)
    | intro _
    | with_reducible apply kept_hitch'

end Sys2Proof.Machine
end

