-- ==== Sys2Proof/Laws/KeptOspin.lean ====
section
/-! SUPPORT. What every operation of Machine/Ospin.lean keeps: see Laws/Kept.lean. -/

-- The proofs of the whole text do not run side by side: their memory adds up.
set_option Elab.async false

namespace Sys2Proof.Machine

open Sys2Proof

theorem State.setCmd_kept {m : Nat} {b : State} (s : State) (h : Nat) (f : Cmd → Cmd) (hs : b.kept m s)
    (hm : Foot.sub 0x20 m := by
      first | assumption | exact Foot.bit (by assumption) rfl | exact Foot.trans rfl (by assumption)) :
    b.kept m (State.setCmd s h f) := by
  unfold State.setCmd
  repeat' first
    | with_reducible assumption
    | exact Foot.bit hm rfl
    | with_reducible apply kept_inflight

theorem State.finish_kept {m : Nat} {b : State} (s : State) (h : Nat) (status : Nat) (reason : Nat)
    (result : List Byte) (buffer : List Byte) (hs : b.kept m s) (hm : Foot.sub 0x20 m := by
      first | assumption | exact Foot.bit (by assumption) rfl | exact Foot.trans rfl (by assumption)) :
    b.kept m (State.finish s h status reason result buffer) := by
  unfold State.finish
  repeat' first
    | with_reducible assumption
    | with_reducible apply State.setCmd_kept

end Sys2Proof.Machine
end

