-- ==== Sys2Proof/Laws/KeptRings.lean ====
section
/-! SUPPORT. What every operation of Machine/Rings.lean keeps: see Laws/Kept.lean. -/

-- The proofs of the whole text do not run side by side: their memory adds up.
set_option Elab.async false

namespace Sys2Proof.Machine

open Sys2Proof

theorem State.notReadyRead_kept {m : Nat} {b : State} (s : State) (e : Nat) (off : Nat) (hs : b.kept m s)
    (hm : Foot.sub 0x88C000000000000C00004090 m := by
      first | assumption | exact Foot.bit (by assumption) rfl | exact Foot.trans rfl (by assumption)) :
    b.kept m (State.notReadyRead s e off) := by
  unfold State.notReadyRead
  repeat' first
    | with_reducible assumption
    | with_reducible apply State.count_kept
    | with_reducible apply State.raise_kept
    | with_reducible apply kept_ite
    | with_reducible apply keeps_ite
    | with_reducible apply State.keeps_next
    | exact Foot.bit hm rfl
    | exact Foot.trans rfl hm
    | intro x (hx : State.kept m b x)
    | intro _ x (hx : State.kept m b x)
    | intro x _ (hx : State.kept m b x)
    | intro x _ (hx : State.kept m b x.1)
    | lift_lets
    | (intro x; clear_value x)
    | intro _
    | with_reducible apply kept_mem

theorem State.showInfl_kept {m : Nat} {b : State} (s : State) (r : Nat) (hs : b.kept m s)
    (hm : Foot.sub 0x800000000000000000000000 m := by
      first | assumption | exact Foot.bit (by assumption) rfl | exact Foot.trans rfl (by assumption)) :
    b.kept m (State.showInfl s r) := by
  unfold State.showInfl
  repeat' first
    | with_reducible assumption
    | with_reducible apply State.wr_kept
    | exact Foot.bit hm rfl

theorem State.unreserve_kept {m : Nat} {b : State} (s : State) (r : Nat) (hs : b.kept m s) (hm : Foot.sub 0x10 m := by
      first | assumption | exact Foot.bit (by assumption) rfl | exact Foot.trans rfl (by assumption))
    :
    b.kept m (State.unreserve s r) := by
  unfold State.unreserve
  repeat' first
    | with_reducible assumption
    | with_reducible apply State.setRing_kept

theorem State.dropWhere_kept {m : Nat} {b : State} (s : State) (p : Cmd → Bool) (hs : b.kept m s)
    (hm : Foot.sub 0x880000000000000000000030 m := by
      first | assumption | exact Foot.bit (by assumption) rfl | exact Foot.trans rfl (by assumption)) :
    b.kept m (State.dropWhere s p) := by
  unfold State.dropWhere
  repeat' first
    | with_reducible assumption
    | with_reducible apply State.count_kept
    | with_reducible apply State.showInfl_kept
    | with_reducible apply State.unreserve_kept
    | with_reducible apply kept_foldl
    | exact Foot.bit hm rfl
    | exact Foot.trans rfl hm
    | intro x _ (hx : State.kept m b x)
    | lift_lets
    | with_reducible apply kept_inflight

theorem State.haltEvent_kept {m : Nat} {b : State} (s : State) (r : Nat) (hs : b.kept m s)
    (hm : Foot.sub 0x8A8000000000000C00000090 m := by
      first | assumption | exact Foot.bit (by assumption) rfl | exact Foot.trans rfl (by assumption)) :
    b.kept m (State.haltEvent s r) := by
  unfold State.haltEvent
  repeat' first
    | with_reducible assumption
    | with_reducible apply State.emit_kept
    | with_reducible apply State.wr_kept
    | with_reducible apply State.eventTo_kept
    | exact Foot.bit hm rfl
    | exact Foot.trans rfl hm
    | lift_lets
    | (intro x; refine kept_cut (m := m) (b := b) (x := x) ?_ ?_ <;> [skip; (clear_value x; intro hx)])
    | (intro x; clear_value x)
    | split

theorem State.haltRings_kept {m : Nat} {b : State} (s : State) (l : List Nat) (cause : Nat) (hs : b.kept m s)
    (hm : Foot.sub 0x8A8000000000000C000000B0 m := by
      first | assumption | exact Foot.bit (by assumption) rfl | exact Foot.trans rfl (by assumption)) :
    b.kept m (State.haltRings s l cause) := by
  unfold State.haltRings
  repeat' first
    | with_reducible assumption
    | with_reducible apply State.each_kept
    | with_reducible apply State.setRing_kept
    | with_reducible apply State.wr_kept
    | with_reducible apply State.dropWhere_kept
    | with_reducible apply State.haltEvent_kept
    | exact Foot.bit hm rfl
    | exact Foot.trans rfl hm
    | intro _ x (hx : State.kept m b x)

theorem State.haltHost_kept {m : Nat} {b : State} (s : State) (cause : Nat) (hs : b.kept m s)
    (hm : Foot.sub 0x8A8000000000000C000000B0 m := by
      first | assumption | exact Foot.bit (by assumption) rfl | exact Foot.trans rfl (by assumption)) :
    b.kept m (State.haltHost s cause) := by
  unfold State.haltHost
  repeat' first
    | with_reducible assumption
    | with_reducible apply State.haltRings_kept

theorem State.haltRegion_kept {m : Nat} {b : State} (s : State) (e : Nat) (hs : b.kept m s)
    (hm : Foot.sub 0x8A8000000000000C000000B0 m := by
      first | assumption | exact Foot.bit (by assumption) rfl | exact Foot.trans rfl (by assumption)) :
    b.kept m (State.haltRegion s e) := by
  unfold State.haltRegion
  repeat' first
    | with_reducible assumption
    | with_reducible apply State.haltRings_kept

theorem State.reportLost_kept {m : Nat} {b : State} (s : State) (r : Nat) (hs : b.kept m s)
    (hm : Foot.sub 0x828000000000000C00000090 m := by
      first | assumption | exact Foot.bit (by assumption) rfl | exact Foot.trans rfl (by assumption)) :
    b.kept m (State.reportLost s r) := by
  unfold State.reportLost
  repeat' first
    | with_reducible assumption
    | with_reducible apply State.wr_kept
    | with_reducible apply State.setRing_kept
    | with_reducible apply State.eventWrite_kept
    | with_reducible apply State.emit_kept
    | with_reducible apply kept_ite
    | exact Foot.bit hm rfl
    | exact Foot.trans rfl hm
    | lift_lets
    | (intro x; refine kept_cut (m := m) (b := b) (x := x) ?_ ?_ <;> [skip; (clear_value x; intro hx)])
    | intro _

theorem State.enableRing_kept {m : Nat} {b : State} (s : State) (r : Nat) (hs : b.kept m s)
    (hm : Foot.sub 0x8A8000000000000C000000B0 m := by
      first | assumption | exact Foot.bit (by assumption) rfl | exact Foot.trans rfl (by assumption)) :
    b.kept m (State.enableRing s r) := by
  unfold State.enableRing
  lift_lets
  intro t w u
  have h : b.kept m t := by
    show b.kept m ((((s.wr _ 0 r).wr _ 0 r).wr _ 0 r).wr _ 1 r)
    exact State.wr_kept _ _ _ _ _ _ (State.wr_kept _ _ _ _ _ _ (State.wr_kept _ _ _ _ _ _ (State.wr_kept _ _ _ _ _ _ hs)))
  have hk : b.kept m u := State.setRing_kept _ _ _ h
  clear_value u
  repeat' first
    | with_reducible assumption
    | with_reducible apply State.reportLost_kept
    | with_reducible apply State.haltRings_kept
    | with_reducible apply kept_ite
    | with_reducible apply keeps_ite
    | with_reducible apply State.keeps_next
    | exact Foot.bit (by assumption) rfl
    | exact Foot.trans rfl (by assumption)
    | intro x (hx : State.kept m b x)
    | intro _ x (hx : State.kept m b x)
    | intro x _ (hx : State.kept m b x)
    | intro x _ (hx : State.kept m b x.1)
    | lift_lets
    | (intro x; refine kept_cut (m := m) (b := b) (x := x) ?_ ?_ <;> [skip; (clear_value x; intro hx)])
    | (intro x; clear_value x)
    | intro _
    | exact kept_pair (by assumption) (by assumption)
    | refine kept_pair (by assumption) ?_
    | split

theorem State.disableRing_kept {m : Nat} {b : State} (s : State) (r : Nat) (hs : b.kept m s)
    (hm : Foot.sub 0x880000000000000000000030 m := by
      first | assumption | exact Foot.bit (by assumption) rfl | exact Foot.trans rfl (by assumption)) :
    b.kept m (State.disableRing s r) := by
  unfold State.disableRing
  lift_lets
  intro w u
  have hk : b.kept m u := State.setRing_kept _ _ _ hs
  clear_value u
  repeat' first
    | with_reducible assumption
    | with_reducible apply State.dropWhere_kept
    | with_reducible apply State.wr_kept
    | with_reducible apply State.each_kept
    | with_reducible apply kept_ite
    | with_reducible apply keeps_ite
    | with_reducible apply State.keeps_next
    | exact Foot.bit (by assumption) rfl
    | exact Foot.trans rfl (by assumption)
    | intro x (hx : State.kept m b x)
    | intro _ x (hx : State.kept m b x)
    | intro x _ (hx : State.kept m b x)
    | intro x _ (hx : State.kept m b x.1)
    | lift_lets
    | (intro x; refine kept_cut (m := m) (b := b) (x := x) ?_ ?_ <;> [skip; (clear_value x; intro hx)])
    | (intro x; clear_value x)
    | intro _
    | exact kept_pair (by assumption) (by assumption)
    | refine kept_pair (by assumption) ?_
    | split

theorem State.setRingCfg_kept {m : Nat} {b : State} (s : State) (r : Nat) (w : Nat) (v : Nat) (hs : b.kept m s)
    (hm : Foot.sub 0xCB8000000000000C000000B0 m := by
      first | assumption | exact Foot.bit (by assumption) rfl | exact Foot.trans rfl (by assumption)) :
    b.kept m (State.setRingCfg s r w v) := by
  unfold State.setRingCfg
  repeat' first
    | with_reducible assumption
    | with_reducible apply State.refuse_kept
    | with_reducible apply State.disableRing_kept
    | with_reducible apply State.setReg_kept
    | with_reducible apply State.enableRing_kept
    | with_reducible apply kept_ite
    | exact Foot.bit hm rfl
    | exact Foot.trans rfl hm
    | lift_lets
    | (intro x; clear_value x)
    | intro _

theorem State.ringCfgWrite_kept {m : Nat} {b : State} (s : State) (req : Requester) (r : Nat) (w : Nat) (v : Nat)
    (hs : b.kept m s) (hm : Foot.sub 0x1010CB8000000000000C000008B0 m := by
      first | assumption | exact Foot.bit (by assumption) rfl | exact Foot.trans rfl (by assumption)) :
    b.kept m (State.ringCfgWrite s req r w v) := by
  unfold State.ringCfgWrite
  repeat' first
    | with_reducible assumption
    | with_reducible apply State.writeOr_kept
    | with_reducible apply State.setRingCfg_kept
    | exact Foot.trans rfl hm
    | intro x (hx : State.kept m b x)

theorem execRingCfgWrite_keeps {m : Nat} {b : State} (req : Requester) (r : Ring) (w : Fin 4) (v : BitVec 32)
    (s : State) (hs : b.kept m s) (hm : Foot.sub 0x1010CB8000000000000C000008B2 m := by
      first | assumption | exact Foot.bit (by assumption) rfl | exact Foot.trans rfl (by assumption)) :
    b.keeps m (execRingCfgWrite req r w v s) := by
  unfold execRingCfgWrite
  repeat' first
    | with_reducible assumption
    | with_reducible apply access_keeps
    | with_reducible apply State.ringCfgWrite_kept
    | exact Foot.trans rfl hm
    | intro x (hx : State.kept m b x)

theorem State.badDoorbell_kept {m : Nat} {b : State} (s : State) (r : Nat) (hs : b.kept m s)
    (hm : Foot.sub 0x8A8000000000000C00000090 m := by
      first | assumption | exact Foot.bit (by assumption) rfl | exact Foot.trans rfl (by assumption)) :
    b.kept m (State.badDoorbell s r) := by
  unfold State.badDoorbell
  repeat' first
    | with_reducible assumption
    | with_reducible apply State.count_kept
    | with_reducible apply State.inc_kept
    | with_reducible apply State.raise_kept
    | with_reducible apply kept_ite
    | exact Foot.bit hm rfl
    | exact Foot.trans rfl hm
    | lift_lets
    | intro _

theorem State.doorbell_kept {m : Nat} {b : State} (s : State) (req : Requester) (r : Nat) (v : Nat) (hs : b.kept m s)
    (hm : Foot.sub 0x8A8000000000000C00000090 m := by
      first | assumption | exact Foot.bit (by assumption) rfl | exact Foot.trans rfl (by assumption)) :
    b.kept m (State.doorbell s req r v) := by
  unfold State.doorbell
  repeat' first
    | with_reducible assumption
    | with_reducible apply State.badDoorbell_kept
    | with_reducible apply State.setRing_kept
    | with_reducible apply State.wr_kept
    | with_reducible apply State.reportLost_kept
    | with_reducible apply kept_ite
    | exact Foot.bit hm rfl
    | exact Foot.trans rfl hm
    | lift_lets
    | (intro x; clear_value x)
    | intro _

theorem execDoorbell_keeps {m : Nat} {b : State} (req : Requester) (offset : Nat) (bytes : Nat)
    (value : Option (BitVec 64)) (s : State) (hs : b.kept m s) (hm : Foot.sub 0x8A8000000000000C00000090 m := by
      first | assumption | exact Foot.bit (by assumption) rfl | exact Foot.trans rfl (by assumption)) :
    b.keeps m (execDoorbell req offset bytes value s) := by
  unfold execDoorbell
  repeat' first
    | with_reducible assumption
    | with_reducible apply act_keeps
    | with_reducible apply State.doorbell_kept
    | with_reducible apply State.emit_kept
    | with_reducible apply State.count_kept
    | with_reducible apply kept_ite
    | with_reducible apply keeps_ite
    | with_reducible apply State.keeps_next
    | exact Foot.bit hm rfl
    | exact Foot.trans rfl hm
    | intro x (hx : State.kept m b x)
    | intro _ x (hx : State.kept m b x)
    | intro x _ (hx : State.kept m b x)
    | intro x _ (hx : State.kept m b x.1)
    | lift_lets
    | intro _
    | refine kept_pair (by assumption) ?_
    | split

theorem State.judged_kept {m : Nat} {b : State} (s : State) (r : Nat) (status : Nat) (reason : Nat) (hs : b.kept m s)
    (hm : Foot.sub 0x8A8000000000000C00000090 m := by
      first | assumption | exact Foot.bit (by assumption) rfl | exact Foot.trans rfl (by assumption)) :
    b.kept m (State.judged s r status reason) := by
  unfold State.judged
  repeat' first
    | with_reducible assumption
    | with_reducible apply State.raise_kept
    | with_reducible apply State.count_kept
    | with_reducible apply kept_ite
    | exact Foot.bit hm rfl
    | exact Foot.trans rfl hm
    | lift_lets
    | intro _
    | split

theorem State.recordCmd_kept {m : Nat} {b : State} (s : State) (c : Cmd) (kind : Nat) (status : Nat) (aux : Nat)
    (hs : b.kept m s) (hm : Foot.sub 0x1000000000000000000400000800 m := by
      first | assumption | exact Foot.bit (by assumption) rfl | exact Foot.trans rfl (by assumption)) :
    b.kept m (State.recordCmd s c kind status aux) := by
  unfold State.recordCmd
  repeat' first
    | with_reducible assumption
    | with_reducible apply State.record_kept

theorem State.accept_kept {m : Nat} {b : State} (s : State) (r : Nat) (d : List Byte) (ind : BufferRead)
    (hs : b.kept m s) (hm : Foot.sub 0x10008AC000000000000C000048F0 m := by
      first | assumption | exact Foot.bit (by assumption) rfl | exact Foot.trans rfl (by assumption)) :
    b.kept m (State.accept s r d ind) := by
  unfold State.accept
  lift_lets
  intro idx pair c
  split
  lift_lets
  intro w u cnt v p q
  have hk : b.kept m u := State.wr_kept _ _ _ _ _ _ (State.setRing_kept _ _ _ hs)
  have hc : b.kept m cnt := State.count_kept _ _ _ _ _ _ hk
  clear_value cnt
  have hv : b.kept m v := kept_nextCmd v.nextCmd (kept_inflight v.inflight hc)
  clear_value v
  have hp : b.kept m p := kept_ite (fun _ => State.notReadyRead_kept _ _ _ hv) fun _ => hv
  clear_value p
  have hq : b.kept m q := kept_ite (fun _ => State.recordCmd_kept _ _ _ _ _ hp) fun _ => hp
  exact State.judged_kept _ _ _ _ (State.showInfl_kept _ _ hq)

theorem execDescriptorAccept_keeps {m : Nat} {b : State} (r : Ring) (d : DescRead) (s : State) (hs : b.kept m s)
    (hm : Foot.sub 0x10008AC000000000000C000048F0 m := by
      first | assumption | exact Foot.bit (by assumption) rfl | exact Foot.trans rfl (by assumption)) :
    b.keeps m (execDescriptorAccept r d s) := by
  unfold execDescriptorAccept
  repeat' first
    | with_reducible assumption
    | with_reducible apply act_keeps
    | with_reducible apply State.haltRings_kept
    | with_reducible apply State.accept_kept
    | with_reducible apply kept_ite
    | with_reducible apply keeps_ite
    | with_reducible apply State.keeps_next
    | exact Foot.bit hm rfl
    | exact Foot.trans rfl hm
    | intro x (hx : State.kept m b x)
    | intro _ x (hx : State.kept m b x)
    | intro x _ (hx : State.kept m b x)
    | intro x _ (hx : State.kept m b x.1)
    | lift_lets
    | intro _
    | refine kept_pair (by assumption) ?_
    | split

theorem State.writeResult_kept {m : Nat} {b : State} (s : State) (c : Cmd) (hs : b.kept m s)
    (hm : Foot.sub 0x8000000000000800000000 m := by
      first | assumption | exact Foot.bit (by assumption) rfl | exact Foot.trans rfl (by assumption)) :
    b.kept m (State.writeResult s c) := by
  unfold State.writeResult
  repeat' first
    | with_reducible assumption
    | with_reducible apply State.emit_kept
    | with_reducible apply State.count_kept
    | with_reducible apply kept_ite
    | with_reducible apply keeps_ite
    | with_reducible apply State.keeps_next
    | exact Foot.bit hm rfl
    | exact Foot.trans rfl hm
    | intro x (hx : State.kept m b x)
    | intro _ x (hx : State.kept m b x)
    | intro x _ (hx : State.kept m b x)
    | intro x _ (hx : State.kept m b x.1)
    | lift_lets
    | intro _

theorem State.endFlush_kept {m : Nat} {b : State} (s : State) (r : Nat) (hs : b.kept m s)
    (hm : Foot.sub 0x800000000000000000000000 m := by
      first | assumption | exact Foot.bit (by assumption) rfl | exact Foot.trans rfl (by assumption)) :
    b.kept m (State.endFlush s r) := by
  unfold State.endFlush
  repeat' first
    | with_reducible assumption
    | with_reducible apply State.wr_kept
    | with_reducible apply kept_ite
    | exact Foot.bit hm rfl
    | lift_lets
    | intro _

theorem execCommandCompletion_keeps {m : Nat} {b : State} (h : Nat) (ok : Bool) (s : State) (hs : b.kept m s)
    (hm : Foot.sub 0x8A8000000000000C000000B0 m := by
      first | assumption | exact Foot.bit (by assumption) rfl | exact Foot.trans rfl (by assumption)) :
    b.keeps m (execCommandCompletion h ok s) := by
  unfold execCommandCompletion
  refine act_keeps _ _ _ hs ?_
  intro t ht
  split
  · exact ht
  · apply kept_ite <;> intro _
    · exact ht
    · refine kept_ite (fun _ => kept_inflight _ ht) fun _ => kept_ite (fun _ => ?_) fun _ => ?_
      · exact State.dropWhere_kept _ _ (State.haltRings_kept _ _ _ (kept_inflight (s := { t with inflight := _ }) _ (kept_inflight _ ht)))
      · exact State.endFlush_kept _ _ (State.ringPut_kept _ _ _ _ (State.writeResult_kept _ _
          (State.showInfl_kept _ _ (State.unreserve_kept _ _ (kept_inflight _ ht)))))

theorem execCommandTimeout_keeps {m : Nat} {b : State} (h : Nat) (s : State) (hs : b.kept m s)
    (hm : Foot.sub 0x8A8000000000000C000000B0 m := by
      first | assumption | exact Foot.bit (by assumption) rfl | exact Foot.trans rfl (by assumption)) :
    b.keeps m (execCommandTimeout h s) := by
  unfold execCommandTimeout
  repeat' first
    | with_reducible assumption
    | with_reducible apply act_keeps
    | with_reducible apply State.setCmd_kept
    | with_reducible apply State.raise_kept
    | with_reducible apply State.count_kept
    | with_reducible apply kept_ite
    | exact Foot.bit hm rfl
    | exact Foot.trans rfl hm
    | intro x (hx : State.kept m b x)
    | lift_lets
    | (intro x; refine kept_cut (m := m) (b := b) (x := x) ?_ ?_ <;> [skip; (clear_value x; intro hx)])
    | intro _
    | split

theorem ospinRaw_keeps {m : Nat} {b : State} (a0 : Nat) (op : Nat) (h : Nat) (s : State) (f : Cmd → State → State)
    (hs : b.kept m s) (hf : ∀ y0 y1, b.kept m y1 → b.kept m (f y0 y1)) (hm : Foot.sub 0x20 m := by
      first | assumption | exact Foot.bit (by assumption) rfl | exact Foot.trans rfl (by assumption)) :
    b.keeps m (ospinRaw a0 op h s f) := by
  unfold ospinRaw
  repeat' first
    | with_reducible assumption
    | with_reducible apply hf
    | with_reducible apply act_keeps
    | with_reducible apply State.setCmd_kept
    | with_reducible apply kept_ite
    | intro x (hx : State.kept m b x)
    | lift_lets
    | intro _
    | split

theorem State.refuseUnjournaled_kept {m : Nat} {b : State} (s : State) (h : Nat) (hs : b.kept m s)
    (hm : Foot.sub 0x10888000000000000C000000B0 m := by
      first | assumption | exact Foot.bit (by assumption) rfl | exact Foot.trans rfl (by assumption)) :
    b.kept m (State.refuseUnjournaled s h) := by
  unfold State.refuseUnjournaled
  repeat' first
    | with_reducible assumption
    | with_reducible apply State.finish_kept
    | with_reducible apply State.raise_kept
    | with_reducible apply kept_ite
    | exact Foot.bit hm rfl
    | exact Foot.trans rfl hm
    | lift_lets
    | intro _

theorem State.recordDone_kept {m : Nat} {b : State} (s : State) (h : Nat) (kind : Nat) (aux : Nat) (hs : b.kept m s)
    (hm : Foot.sub 0x1000000000000000000400000800 m := by
      first | assumption | exact Foot.bit (by assumption) rfl | exact Foot.trans rfl (by assumption)) :
    b.kept m (State.recordDone s h kind aux) := by
  unfold State.recordDone
  repeat' first
    | with_reducible assumption
    | with_reducible apply State.recordCmd_kept
    | split

theorem ospin_keeps {m : Nat} {b : State} (a0 : Nat) (op : Nat) (h : Nat) (s : State) (f : Cmd → State → State)
    (hs : b.kept m s) (hf : ∀ y0 y1, b.kept m y1 → b.kept m (f y0 y1))
    (hm : Foot.sub 0x1010888000000000000C000008B0 m := by
      first | assumption | exact Foot.bit (by assumption) rfl | exact Foot.trans rfl (by assumption)) :
    b.keeps m (ospin a0 op h s f) := by
  unfold ospin
  repeat' first
    | with_reducible assumption
    | with_reducible apply hf
    | with_reducible apply ospinRaw_keeps
    | with_reducible apply State.refuseUnjournaled_kept
    | with_reducible apply State.recordDone_kept
    | with_reducible apply kept_ite
    | exact Foot.trans rfl hm
    | intro _ x (hx : State.kept m b x)
    | lift_lets
    | intro _

theorem execNop_keeps {m : Nat} {b : State} (h : Nat) (s : State) (hs : b.kept m s)
    (hm : Foot.sub 0x1010888000000000000C000008B0 m := by
      first | assumption | exact Foot.bit (by assumption) rfl | exact Foot.trans rfl (by assumption)) :
    b.keeps m (execNop h s) := by
  unfold execNop
  repeat' first
    | with_reducible assumption
    | with_reducible apply ospin_keeps
    | with_reducible apply State.finish_kept
    | exact Foot.trans rfl hm
    | intro _ x (hx : State.kept m b x)

theorem execRingQuery_keeps {m : Nat} {b : State} (h : Nat) (s : State) (hs : b.kept m s)
    (hm : Foot.sub 0x1010888000000000000C000008B0 m := by
      first | assumption | exact Foot.bit (by assumption) rfl | exact Foot.trans rfl (by assumption)) :
    b.keeps m (execRingQuery h s) := by
  unfold execRingQuery
  repeat' first
    | with_reducible assumption
    | with_reducible apply ospin_keeps
    | with_reducible apply State.finish_kept
    | exact Foot.trans rfl hm
    | intro _ x (hx : State.kept m b x)

theorem execMsixTimer_keeps {m : Nat} {b : State} (r : Ring) (s : State) (hs : b.kept m s)
    (hm : Foot.sub 0x800000090 m := by
      first | assumption | exact Foot.bit (by assumption) rfl | exact Foot.trans rfl (by assumption)) :
    b.keeps m (execMsixTimer r s) := by
  unfold execMsixTimer
  repeat' first
    | with_reducible assumption
    | with_reducible apply act_keeps
    | with_reducible apply State.message_kept
    | with_reducible apply State.setRing_kept
    | with_reducible apply kept_ite
    | exact Foot.trans rfl hm
    | intro x (hx : State.kept m b x)
    | lift_lets
    | intro _

theorem State.setBar4Word_kept {m : Nat} {b : State} (s : State) (off : Nat) (v : Nat) (hs : b.kept m s)
    (hm : Foot.sub 0x800000080 m := by
      first | assumption | exact Foot.bit (by assumption) rfl | exact Foot.trans rfl (by assumption)) :
    b.kept m (State.setBar4Word s off v) := by
  unfold State.setBar4Word
  repeat' first
    | with_reducible assumption
    | with_reducible apply State.message_kept
    | with_reducible apply kept_ite
    | with_reducible apply keeps_ite
    | with_reducible apply State.keeps_next
    | exact Foot.bit hm rfl
    | exact Foot.trans rfl hm
    | intro x (hx : State.kept m b x)
    | intro _ x (hx : State.kept m b x)
    | intro x _ (hx : State.kept m b x)
    | intro x _ (hx : State.kept m b x.1)
    | lift_lets
    | (intro x; clear_value x)
    | intro _
    | with_reducible apply kept_vecs'

theorem execMsixUnmask_keeps {m : Nat} {b : State} (req : Requester) (offset : Nat) (bytes : Nat)
    (value : Option (BitVec 64)) (s : State) (hs : b.kept m s) (hm : Foot.sub 0x40000000800000080 m := by
      first | assumption | exact Foot.bit (by assumption) rfl | exact Foot.trans rfl (by assumption)) :
    b.keeps m (execMsixUnmask req offset bytes value s) := by
  unfold execMsixUnmask
  repeat' first
    | with_reducible assumption
    | with_reducible apply act_keeps
    | with_reducible apply State.emit_kept
    | with_reducible apply State.inc_kept
    | with_reducible apply State.setBar4Word_kept
    | with_reducible apply kept_ite
    | with_reducible apply keeps_ite
    | with_reducible apply State.keeps_next
    | exact Foot.bit hm rfl
    | exact Foot.trans rfl hm
    | intro x (hx : State.kept m b x)
    | intro _ x (hx : State.kept m b x)
    | intro x _ (hx : State.kept m b x)
    | intro x _ (hx : State.kept m b x.1)
    | lift_lets
    | intro _
    | refine kept_pair (by assumption) ?_
    | split

end Sys2Proof.Machine
end

