-- ==== Sys2Proof/Laws/KeptMarline.lean ====
section
/-! SUPPORT. What every operation of Machine/Marline.lean keeps: see Laws/Kept.lean. -/

-- The proofs of the whole text do not run side by side: their memory adds up.
set_option Elab.async false

namespace Sys2Proof.Machine

open Sys2Proof

theorem State.setMrl_kept {m : Nat} {b : State} (s : State) (x : Marline) (hs : b.kept m s)
    (hm : Foot.sub 0x1000 m := by
      first | assumption | exact Foot.bit (by assumption) rfl | exact Foot.trans rfl (by assumption)) :
    b.kept m (State.setMrl s x) := by
  unfold State.setMrl
  repeat' first
    | with_reducible assumption
    | exact Foot.bit hm rfl
    | with_reducible apply kept_marline

theorem State.endSession_kept {m : Nat} {b : State} (s : State) (k : Nat) (hs : b.kept m s)
    (hm : Foot.sub 0x1410888000000000000C00000A90 m := by
      first | assumption | exact Foot.bit (by assumption) rfl | exact Foot.trans rfl (by assumption)) :
    b.kept m (State.endSession s k) := by
  unfold State.endSession
  apply kept_ite <;> intro _
  · apply State.recordOwn_kept <;> try first | exact Foot.trans rfl hm | exact Foot.bit hm rfl
    apply State.raise_kept <;> try first | exact Foot.trans rfl hm | exact Foot.bit hm rfl
    exact kept_sessLeft' (s := s.setReg .MRLN_ROLE_ST 0 k) k 0 (State.setReg_kept _ _ _ _ _ _ hs)
  · exact hs

theorem State.endSessionsOf_kept {m : Nat} {b : State} (s : State) (src : Nat) (hs : b.kept m s)
    (hm : Foot.sub 0x1410888000000000000C00000A90 m := by
      first | assumption | exact Foot.bit (by assumption) rfl | exact Foot.trans rfl (by assumption)) :
    b.kept m (State.endSessionsOf s src) := by
  unfold State.endSessionsOf
  repeat' first
    | with_reducible assumption
    | with_reducible apply State.each_kept
    | with_reducible apply State.endSession_kept
    | with_reducible apply kept_ite
    | intro _ x (hx : State.kept m b x)
    | lift_lets
    | intro _

theorem State.setMbQueue_kept {m : Nat} {b : State} (s : State) (w : Nat) (q : List MbMsg) (hs : b.kept m s)
    (hm : Foot.sub 0x1000 m := by
      first | assumption | exact Foot.bit (by assumption) rfl | exact Foot.trans rfl (by assumption)) :
    b.kept m (State.setMbQueue s w q) := by
  unfold State.setMbQueue
  repeat' first
    | with_reducible assumption
    | with_reducible apply State.setMrl_kept

theorem State.showEnd_kept {m : Nat} {b : State} (s : State) (w : Nat) (hs : b.kept m s)
    (hm : Foot.sub 0x1300000000000000000000000000000 m := by
      first | assumption | exact Foot.bit (by assumption) rfl | exact Foot.trans rfl (by assumption)) :
    b.kept m (State.showEnd s w) := by
  unfold State.showEnd
  repeat' first
    | with_reducible assumption
    | with_reducible apply State.wr_kept
    | with_reducible apply State.each_kept
    | with_reducible apply State.setReg_kept
    | exact Foot.bit hm rfl
    | intro _ x (hx : State.kept m b x)

theorem State.mbInt_kept {m : Nat} {b : State} (s : State) (w : Nat) (a2 : Nat) (hs : b.kept m s)
    (hm : Foot.sub 0x800000000000000000000800000080 m := by
      first | assumption | exact Foot.bit (by assumption) rfl | exact Foot.trans rfl (by assumption)) :
    b.kept m (State.mbInt s w a2) := by
  unfold State.mbInt
  repeat' first
    | with_reducible assumption
    | with_reducible apply State.setReg_kept
    | with_reducible apply State.message_kept
    | with_reducible apply kept_ite
    | exact Foot.bit hm rfl
    | exact Foot.trans rfl hm
    | lift_lets
    | intro _

theorem State.flush_kept {m : Nat} {b : State} (s : State) (w : Nat) (hs : b.kept m s)
    (hm : Foot.sub 0x1B00008888000000000000C00001090 m := by
      first | assumption | exact Foot.bit (by assumption) rfl | exact Foot.trans rfl (by assumption)) :
    b.kept m (State.flush s w) := by
  unfold State.flush
  repeat' first
    | with_reducible assumption
    | with_reducible apply State.showEnd_kept
    | with_reducible apply State.wr_kept
    | with_reducible apply State.setMbQueue_kept
    | with_reducible apply State.raise_kept
    | with_reducible apply State.mbInt_kept
    | exact Foot.bit hm rfl
    | exact Foot.trans rfl hm

theorem State.resetEnd_kept {m : Nat} {b : State} (s : State) (w : Nat) (hs : b.kept m s)
    (hm : Foot.sub 0x1B00008888000000000000C00001090 m := by
      first | assumption | exact Foot.bit (by assumption) rfl | exact Foot.trans rfl (by assumption)) :
    b.kept m (State.resetEnd s w) := by
  unfold State.resetEnd
  repeat' first
    | with_reducible assumption
    | with_reducible apply State.flush_kept
    | with_reducible apply State.incWrap_kept
    | with_reducible apply State.showEnd_kept
    | exact Foot.bit hm rfl
    | exact Foot.trans rfl hm

theorem State.epoch_kept {m : Nat} {b : State} (s : State) (code : Nat) (hs : b.kept m s)
    (hm : Foot.sub 0x1B01418888000000000000C00001A92 m := by
      first | assumption | exact Foot.bit (by assumption) rfl | exact Foot.trans rfl (by assumption)) :
    b.kept m (State.epoch s code) := by
  unfold State.epoch
  repeat' first
    | with_reducible assumption
    | with_reducible apply State.each_kept
    | with_reducible apply State.resetEnd_kept
    | with_reducible apply State.endSessionsOf_kept
    | with_reducible apply kept_ite
    | exact Foot.bit hm rfl
    | exact Foot.trans rfl hm
    | intro _ x (hx : State.kept m b x)
    | lift_lets
    | intro _
    | with_reducible apply kept_latches

theorem State.endAccess_kept {m : Nat} {b : State} (s : State) (req : Requester) (w : Nat) (f : State → State)
    (hs : b.kept m s) (hf : ∀ y0, b.kept m y0 → b.kept m (f y0)) (hm : Foot.sub 0x8888000000000000C00000090 m := by
      first | assumption | exact Foot.bit (by assumption) rfl | exact Foot.trans rfl (by assumption)) :
    b.kept m (State.endAccess s req w f) := by
  unfold State.endAccess
  repeat' first
    | with_reducible assumption
    | with_reducible apply hf
    | with_reducible apply State.raise_kept
    | with_reducible apply kept_ite
    | exact Foot.bit hm rfl
    | exact Foot.trans rfl hm
    | lift_lets
    | intro _

theorem State.endWrite_kept {m : Nat} {b : State} (s : State) (req : Requester) (w : Nat) (addr : Nat) (old : Nat)
    (new : Nat) (f : State → State) (hs : b.kept m s) (hf : ∀ y0, b.kept m y0 → b.kept m (f y0))
    (hm : Foot.sub 0x1018888000000000000C00000890 m := by
      first | assumption | exact Foot.bit (by assumption) rfl | exact Foot.trans rfl (by assumption)) :
    b.kept m (State.endWrite s req w addr old new f) := by
  unfold State.endWrite
  repeat' first
    | with_reducible assumption
    | with_reducible apply hf
    | with_reducible apply State.endAccess_kept
    | with_reducible apply State.write_kept
    | exact Foot.trans rfl hm
    | intro x (hx : State.kept m b x)
    | lift_lets
    | split

theorem State.mbPost_kept {m : Nat} {b : State} (s : State) (w : Nat) (len : Nat) (hs : b.kept m s)
    (hm : Foot.sub 0x1B00000000000000000000800001080 m := by
      first | assumption | exact Foot.bit (by assumption) rfl | exact Foot.trans rfl (by assumption)) :
    b.kept m (State.mbPost s w len) := by
  unfold State.mbPost
  repeat' first
    | with_reducible assumption
    | with_reducible apply State.wr_kept
    | with_reducible apply State.setMbQueue_kept
    | with_reducible apply State.showEnd_kept
    | with_reducible apply State.mbInt_kept
    | with_reducible apply kept_ite
    | exact Foot.bit hm rfl
    | exact Foot.trans rfl hm
    | lift_lets
    | (intro x; refine kept_cut (m := m) (b := b) (x := x) ?_ ?_ <;> [skip; (clear_value x; intro hx)])
    | (intro x; clear_value x)
    | intro _

theorem State.mbPop_kept {m : Nat} {b : State} (s : State) (w : Nat) (hs : b.kept m s)
    (hm : Foot.sub 0x1B00000000000000000000800001080 m := by
      first | assumption | exact Foot.bit (by assumption) rfl | exact Foot.trans rfl (by assumption)) :
    b.kept m (State.mbPop s w) := by
  unfold State.mbPop
  repeat' first
    | with_reducible assumption
    | with_reducible apply State.showEnd_kept
    | with_reducible apply State.setMbQueue_kept
    | with_reducible apply State.mbInt_kept
    | with_reducible apply kept_ite
    | exact Foot.trans rfl hm
    | lift_lets
    | (intro x; clear_value x)
    | intro _
    | split

theorem execMbPost_keeps {m : Nat} {b : State} (req : Requester) (a1 : Chan) (e : ChanEnd) (len : BitVec 5)
    (s : State) (hs : b.kept m s) (hm : Foot.sub 0x1B01018888000000000000C00001892 m := by
      first | assumption | exact Foot.bit (by assumption) rfl | exact Foot.trans rfl (by assumption)) :
    b.keeps m (execMbPost req a1 e len s) := by
  unfold execMbPost
  repeat' first
    | with_reducible assumption
    | with_reducible apply access_keeps
    | with_reducible apply State.endWrite_kept
    | with_reducible apply State.mbPost_kept
    | exact Foot.trans rfl hm
    | intro x (hx : State.kept m b x)

theorem execMbPop_keeps {m : Nat} {b : State} (req : Requester) (a1 : Chan) (e : ChanEnd) (s : State)
    (hs : b.kept m s) (hm : Foot.sub 0x1B01018888000000000000C00001892 m := by
      first | assumption | exact Foot.bit (by assumption) rfl | exact Foot.trans rfl (by assumption)) :
    b.keeps m (execMbPop req a1 e s) := by
  unfold execMbPop
  repeat' first
    | with_reducible assumption
    | with_reducible apply access_keeps
    | with_reducible apply State.endWrite_kept
    | with_reducible apply State.mbPop_kept
    | exact Foot.trans rfl hm
    | intro x (hx : State.kept m b x)

theorem State.setSvc_kept {m : Nat} {b : State} (s : State) (v : Nat) (x : SvcInt) (hs : b.kept m s)
    (hm : Foot.sub 0x1000 m := by
      first | assumption | exact Foot.bit (by assumption) rfl | exact Foot.trans rfl (by assumption)) :
    b.kept m (State.setSvc s v x) := by
  unfold State.setSvc
  repeat' first
    | with_reducible assumption
    | with_reducible apply State.setMrl_kept

theorem State.recover_kept {m : Nat} {b : State} (s : State) (cause : Nat) (hs : b.kept m s)
    (hm : Foot.sub 0x1B014D8888000000000000C00001A92 m := by
      first | assumption | exact Foot.bit (by assumption) rfl | exact Foot.trans rfl (by assumption)) :
    b.kept m (State.recover s cause) := by
  unfold State.recover
  repeat' first
    | with_reducible assumption
    | with_reducible apply State.wr_kept
    | with_reducible apply State.each_kept
    | with_reducible apply State.setSvc_kept
    | with_reducible apply State.setMrl_kept
    | with_reducible apply State.epoch_kept
    | with_reducible apply State.raise_kept
    | with_reducible apply kept_ite
    | with_reducible apply keeps_ite
    | with_reducible apply State.keeps_next
    | exact Foot.bit hm rfl
    | exact Foot.trans rfl hm
    | intro x (hx : State.kept m b x)
    | intro _ x (hx : State.kept m b x)
    | intro x _ (hx : State.kept m b x)
    | intro x _ (hx : State.kept m b x.1)
    | lift_lets
    | (intro x; refine kept_cut (m := m) (b := b) (x := x) ?_ ?_ <;> [skip; (clear_value x; intro hx)])
    | (intro x; clear_value x)
    | intro _

theorem State.restartService_kept {m : Nat} {b : State} (s : State) (v : Nat) (hs : b.kept m s)
    (hm : Foot.sub 0x1B014D8888000000000000C00001A92 m := by
      first | assumption | exact Foot.bit (by assumption) rfl | exact Foot.trans rfl (by assumption)) :
    b.kept m (State.restartService s v) := by
  unfold State.restartService
  repeat' first
    | with_reducible assumption
    | with_reducible apply State.setMrl_kept
    | with_reducible apply State.setSvc_kept
    | with_reducible apply State.raise_kept
    | with_reducible apply State.recover_kept
    | with_reducible apply kept_ite
    | exact Foot.bit hm rfl
    | exact Foot.trans rfl hm
    | lift_lets
    | (intro x; clear_value x)
    | intro _

theorem State.coreFault_kept {m : Nat} {b : State} (s : State) (k : Nat) (st : Nat) (hs : b.kept m s)
    (hm : Foot.sub 0x80000000000000000000000000 m := by
      first | assumption | exact Foot.bit (by assumption) rfl | exact Foot.trans rfl (by assumption)) :
    b.kept m (State.coreFault s k st) := by
  unfold State.coreFault
  repeat' first
    | with_reducible assumption
    | with_reducible apply State.wr_kept
    | with_reducible apply State.inc_kept
    | exact Foot.bit hm rfl

theorem execWatchdogExpiry_keeps {m : Nat} {b : State} (k : Core) (s : State) (hs : b.kept m s)
    (hm : Foot.sub 0x1B014D8888000000000000C00001A92 m := by
      first | assumption | exact Foot.bit (by assumption) rfl | exact Foot.trans rfl (by assumption)) :
    b.keeps m (execWatchdogExpiry k s) := by
  unfold execWatchdogExpiry
  repeat' first
    | with_reducible assumption
    | with_reducible apply act_keeps
    | with_reducible apply State.raise_kept
    | with_reducible apply State.epoch_kept
    | with_reducible apply State.coreFault_kept
    | with_reducible apply State.recover_kept
    | with_reducible apply State.restartService_kept
    | with_reducible apply kept_ite
    | exact Foot.bit hm rfl
    | exact Foot.trans rfl hm
    | intro x (hx : State.kept m b x)
    | lift_lets
    | (intro x; refine kept_cut (m := m) (b := b) (x := x) ?_ ?_ <;> [skip; (clear_value x; intro hx)])
    | (intro x; clear_value x)
    | intro _

theorem State.dataError_kept {m : Nat} {b : State} (s : State) (k : Nat) (addr : Nat) (hs : b.kept m s)
    (hm : Foot.sub 0x1B014D8888000000000000C00001A92 m := by
      first | assumption | exact Foot.bit (by assumption) rfl | exact Foot.trans rfl (by assumption)) :
    b.kept m (State.dataError s k addr) := by
  unfold State.dataError
  repeat' first
    | with_reducible assumption
    | with_reducible apply State.raise_kept
    | with_reducible apply State.coreFault_kept
    | with_reducible apply State.emit_kept
    | with_reducible apply State.restartService_kept
    | with_reducible apply kept_ite
    | exact Foot.bit hm rfl
    | exact Foot.trans rfl hm
    | lift_lets
    | intro _

theorem execDataAbort_keeps {m : Nat} {b : State} (k : Core) (addr : Nat) (fetch : Bool) (s : State) (hs : b.kept m s)
    (hm : Foot.sub 0x1B014D8888000000000000C00001A92 m := by
      first | assumption | exact Foot.bit (by assumption) rfl | exact Foot.trans rfl (by assumption)) :
    b.keeps m (execDataAbort k addr fetch s) := by
  unfold execDataAbort
  repeat' first
    | with_reducible assumption
    | with_reducible apply act_keeps
    | with_reducible apply State.recover_kept
    | with_reducible apply State.coreFault_kept
    | with_reducible apply State.dataError_kept
    | with_reducible apply kept_ite
    | exact Foot.trans rfl hm
    | intro x (hx : State.kept m b x)
    | lift_lets
    | intro _

theorem State.tripleFailed_kept {m : Nat} {b : State} (s : State) (hs : b.kept m s)
    (hm : Foot.sub 0x888090400000000C00002090 m := by
      first | assumption | exact Foot.bit (by assumption) rfl | exact Foot.trans rfl (by assumption)) :
    b.kept m (State.tripleFailed s) := by
  unfold State.tripleFailed
  repeat' first
    | with_reducible assumption
    | with_reducible apply State.bootFail_kept
    | with_reducible apply State.raise_kept
    | with_reducible apply State.setFault_kept
    | with_reducible apply kept_ite
    | exact Foot.bit hm rfl
    | exact Foot.trans rfl hm
    | lift_lets
    | intro _

theorem State.tripleRestart_kept {m : Nat} {b : State} (s : State) (hs : b.kept m s)
    (hm : Foot.sub 0x1B01458888090400000000C00003A92 m := by
      first | assumption | exact Foot.bit (by assumption) rfl | exact Foot.trans rfl (by assumption)) :
    b.kept m (State.tripleRestart s) := by
  unfold State.tripleRestart
  repeat' first
    | with_reducible assumption
    | with_reducible apply State.tripleFailed_kept
    | with_reducible apply State.wr_kept
    | with_reducible apply State.inc_kept
    | with_reducible apply State.each_kept
    | with_reducible apply State.epoch_kept
    | with_reducible apply kept_ite
    | exact Foot.bit hm rfl
    | exact Foot.trans rfl hm
    | intro _ x (hx : State.kept m b x)
    | lift_lets
    | (intro x; refine kept_cut (m := m) (b := b) (x := x) ?_ ?_ <;> [skip; (clear_value x; intro hx)])
    | intro _

theorem execVoterDisagree_keeps {m : Nat} {b : State} (k : Option (Fin 3)) (s : State) (hs : b.kept m s)
    (hm : Foot.sub 0x1B01458888090400000000C00003A92 m := by
      first | assumption | exact Foot.bit (by assumption) rfl | exact Foot.trans rfl (by assumption)) :
    b.keeps m (execVoterDisagree k s) := by
  unfold execVoterDisagree
  repeat' first
    | with_reducible assumption
    | with_reducible apply act_keeps
    | with_reducible apply State.raise_kept
    | with_reducible apply State.wr_kept
    | with_reducible apply State.tripleRestart_kept
    | with_reducible apply kept_ite
    | exact Foot.bit hm rfl
    | exact Foot.trans rfl hm
    | intro x (hx : State.kept m b x)
    | lift_lets
    | intro _
    | split

theorem State.split_kept {m : Nat} {b : State} (s : State) (hs : b.kept m s)
    (hm : Foot.sub 0xC0000000000000000000001000 m := by
      first | assumption | exact Foot.bit (by assumption) rfl | exact Foot.trans rfl (by assumption)) :
    b.kept m (State.split s) := by
  unfold State.split
  repeat' first
    | with_reducible assumption
    | with_reducible apply State.wr_kept
    | with_reducible apply State.each_kept
    | with_reducible apply State.setSvc_kept
    | exact Foot.bit hm rfl
    | exact Foot.trans rfl hm
    | intro _ x (hx : State.kept m b x)

theorem State.endRestarts_kept {m : Nat} {b : State} (s : State) (hs : b.kept m s) (hm : Foot.sub 0x1020 m := by
      first | assumption | exact Foot.bit (by assumption) rfl | exact Foot.trans rfl (by assumption)) :
    b.kept m (State.endRestarts s) := by
  unfold State.endRestarts
  repeat' first
    | with_reducible assumption
    | with_reducible apply State.finish_kept
    | with_reducible apply State.setMrl_kept
    | with_reducible apply kept_foldl
    | with_reducible apply kept_foldl_fst
    | with_reducible apply kept_ite
    | with_reducible apply keeps_ite
    | with_reducible apply State.keeps_next
    | exact Foot.bit hm rfl
    | exact Foot.trans rfl hm
    | intro x (hx : State.kept m b x)
    | intro _ x (hx : State.kept m b x)
    | intro x _ (hx : State.kept m b x)

theorem execRecoveryDone_keeps {m : Nat} {b : State} (s : State) (hs : b.kept m s)
    (hm : Foot.sub 0xC0000080000000000000001020 m := by
      first | assumption | exact Foot.bit (by assumption) rfl | exact Foot.trans rfl (by assumption)) :
    b.keeps m (execRecoveryDone s) := by
  unfold execRecoveryDone
  repeat' first
    | with_reducible assumption
    | with_reducible apply act_keeps
    | with_reducible apply State.setMrl_kept
    | with_reducible apply State.wr_kept
    | with_reducible apply State.endRestarts_kept
    | with_reducible apply State.split_kept
    | with_reducible apply kept_ite
    | with_reducible apply keeps_ite
    | with_reducible apply State.keeps_next
    | exact Foot.bit hm rfl
    | exact Foot.trans rfl hm
    | intro x (hx : State.kept m b x)
    | intro _ x (hx : State.kept m b x)
    | intro x _ (hx : State.kept m b x)
    | intro x _ (hx : State.kept m b x.1)
    | lift_lets
    | (intro x; refine kept_cut (m := m) (b := b) (x := x) ?_ ?_ <;> [skip; (clear_value x; intro hx)])
    | (intro x; clear_value x)
    | intro _

theorem execTripleSplit_keeps {m : Nat} {b : State} (s : State) (hs : b.kept m s)
    (hm : Foot.sub 0xC0000000000000000000001000 m := by
      first | assumption | exact Foot.bit (by assumption) rfl | exact Foot.trans rfl (by assumption)) :
    b.keeps m (execTripleSplit s) := by
  unfold execTripleSplit
  repeat' first
    | with_reducible assumption
    | with_reducible apply act_keeps
    | with_reducible apply State.split_kept
    | with_reducible apply kept_ite
    | intro x (hx : State.kept m b x)
    | lift_lets
    | intro _

theorem State.deferJobs_kept {m : Nat} {b : State} (s : State) (hs : b.kept m s)
    (hm : Foot.sub 0x48888000000000000C00001090 m := by
      first | assumption | exact Foot.bit (by assumption) rfl | exact Foot.trans rfl (by assumption)) :
    b.kept m (State.deferJobs s) := by
  unfold State.deferJobs
  repeat' first
    | with_reducible assumption
    | with_reducible apply State.inc_kept
    | with_reducible apply State.setMrl_kept
    | with_reducible apply State.raise_kept
    | with_reducible apply kept_ite
    | exact Foot.bit hm rfl
    | exact Foot.trans rfl hm
    | lift_lets
    | (intro x; refine kept_cut (m := m) (b := b) (x := x) ?_ ?_ <;> [skip; (clear_value x; intro hx)])
    | (intro x; clear_value x)
    | intro _

theorem execJobDispatch_keeps {m : Nat} {b : State} (k : Core) (arrived : List Service) (s : State) (hs : b.kept m s)
    (hm : Foot.sub 0xC8888000000000000C00001090 m := by
      first | assumption | exact Foot.bit (by assumption) rfl | exact Foot.trans rfl (by assumption)) :
    b.keeps m (execJobDispatch k arrived s) := by
  unfold execJobDispatch
  repeat' first
    | with_reducible assumption
    | with_reducible apply act_keeps
    | with_reducible apply State.setMrl_kept
    | with_reducible apply State.deferJobs_kept
    | with_reducible apply State.wr_kept
    | with_reducible apply kept_ite
    | exact Foot.bit hm rfl
    | exact Foot.trans rfl hm
    | intro x (hx : State.kept m b x)
    | lift_lets
    | (intro x; refine kept_cut (m := m) (b := b) (x := x) ?_ ?_ <;> [skip; (clear_value x; intro hx)])
    | (intro x; clear_value x)
    | intro _
    | split

theorem State.endSlice_kept {m : Nat} {b : State} (s : State) (k : Nat) (us : Nat) (hs : b.kept m s)
    (hm : Foot.sub 0x80000000000000000000001000 m := by
      first | assumption | exact Foot.bit (by assumption) rfl | exact Foot.trans rfl (by assumption)) :
    b.kept m (State.endSlice s k us) := by
  unfold State.endSlice
  repeat' first
    | with_reducible assumption
    | with_reducible apply State.wr_kept
    | with_reducible apply State.setMrl_kept
    | with_reducible apply kept_ite
    | exact Foot.bit hm rfl
    | exact Foot.trans rfl hm
    | lift_lets
    | (intro x; clear_value x)
    | intro _

theorem execJobYield_keeps {m : Nat} {b : State} (k : Core) (us : Nat) (s : State) (hs : b.kept m s)
    (hm : Foot.sub 0x80000000000000000000001000 m := by
      first | assumption | exact Foot.bit (by assumption) rfl | exact Foot.trans rfl (by assumption)) :
    b.keeps m (execJobYield k us s) := by
  unfold execJobYield
  repeat' first
    | with_reducible assumption
    | with_reducible apply act_keeps
    | with_reducible apply State.endSlice_kept
    | intro x (hx : State.kept m b x)

theorem execSliceExpiry_keeps {m : Nat} {b : State} (k : Core) (s : State) (hs : b.kept m s)
    (hm : Foot.sub 0x80000000000000000000001000 m := by
      first | assumption | exact Foot.bit (by assumption) rfl | exact Foot.trans rfl (by assumption)) :
    b.keeps m (execSliceExpiry k s) := by
  unfold execSliceExpiry
  repeat' first
    | with_reducible assumption
    | with_reducible apply act_keeps
    | with_reducible apply State.endSlice_kept
    | intro x (hx : State.kept m b x)

theorem execCoreGrantWindow_keeps {m : Nat} {b : State} (s : State) (hs : b.kept m s) (hm : Foot.sub 0x1000 m := by
      first | assumption | exact Foot.bit (by assumption) rfl | exact Foot.trans rfl (by assumption)) :
    b.keeps m (execCoreGrantWindow s) := by
  unfold execCoreGrantWindow
  repeat' first
    | with_reducible assumption
    | with_reducible apply act_keeps
    | with_reducible apply State.setMrl_kept
    | intro x (hx : State.kept m b x)

theorem State.marlineSecond_kept {m : Nat} {b : State} (s : State) (hs : b.kept m s) (hm : Foot.sub 0x1000 m := by
      first | assumption | exact Foot.bit (by assumption) rfl | exact Foot.trans rfl (by assumption)) :
    b.kept m (State.marlineSecond s) := by
  unfold State.marlineSecond
  repeat' first
    | with_reducible assumption
    | with_reducible apply State.each_kept
    | with_reducible apply State.setSvc_kept
    | with_reducible apply State.setMrl_kept
    | intro _ x (hx : State.kept m b x)

theorem execSvcStatus_keeps {m : Nat} {b : State} (h : Nat) (s : State) (hs : b.kept m s)
    (hm : Foot.sub 0x1010888000000000000C000008B0 m := by
      first | assumption | exact Foot.bit (by assumption) rfl | exact Foot.trans rfl (by assumption)) :
    b.keeps m (execSvcStatus h s) := by
  unfold execSvcStatus
  repeat' first
    | with_reducible assumption
    | with_reducible apply ospin_keeps
    | with_reducible apply State.finish_kept
    | with_reducible apply kept_ite
    | with_reducible apply keeps_ite
    | with_reducible apply State.keeps_next
    | exact Foot.trans rfl hm
    | intro _ x (hx : State.kept m b x)
    | lift_lets
    | intro _

theorem execSvcRestart_keeps {m : Nat} {b : State} (h : Nat) (s : State) (hs : b.kept m s)
    (hm : Foot.sub 0x1B014D8888000000000000C00001AB2 m := by
      first | assumption | exact Foot.bit (by assumption) rfl | exact Foot.trans rfl (by assumption)) :
    b.keeps m (execSvcRestart h s) := by
  unfold execSvcRestart
  repeat' first
    | with_reducible assumption
    | with_reducible apply ospin_keeps
    | with_reducible apply State.finish_kept
    | with_reducible apply State.recover_kept
    | with_reducible apply State.restartService_kept
    | with_reducible apply State.setMrl_kept
    | with_reducible apply kept_ite
    | with_reducible apply keeps_ite
    | with_reducible apply State.keeps_next
    | exact Foot.bit hm rfl
    | exact Foot.trans rfl hm
    | intro x (hx : State.kept m b x)
    | intro _ x (hx : State.kept m b x)
    | intro x _ (hx : State.kept m b x)
    | intro x _ (hx : State.kept m b x.1)
    | lift_lets
    | intro _

theorem execGccSend_keeps {m : Nat} {b : State} (h : Nat) (s : State) (hs : b.kept m s)
    (hm : Foot.sub 0x1010888000000000000C000018B0 m := by
      first | assumption | exact Foot.bit (by assumption) rfl | exact Foot.trans rfl (by assumption)) :
    b.keeps m (execGccSend h s) := by
  unfold execGccSend
  repeat' first
    | with_reducible assumption
    | with_reducible apply ospin_keeps
    | with_reducible apply State.finish_kept
    | with_reducible apply State.setMrl_kept
    | with_reducible apply kept_ite
    | with_reducible apply keeps_ite
    | with_reducible apply State.keeps_next
    | exact Foot.trans rfl hm
    | intro _ x (hx : State.kept m b x)
    | lift_lets
    | intro _

theorem State.takeGcc_kept {m : Nat} {b : State} (s : State) (n : Nat) (hs : b.kept m s) (hm : Foot.sub 0x1020 m := by
      first | assumption | exact Foot.bit (by assumption) rfl | exact Foot.trans rfl (by assumption))
    :
    b.kept m (State.takeGcc s n).1 := by
  unfold State.takeGcc
  repeat' first
    | with_reducible assumption
    | with_reducible apply State.setMrl_kept
    | with_reducible apply State.finish_kept
    | with_reducible apply kept_foldl
    | exact Foot.trans rfl hm
    | intro x _ (hx : State.kept m b x)
    | lift_lets
    | split

theorem afterMarline_kept {m : Nat} {b : State} (old : State) (new : State) (hold : b.kept m old)
    (hnew : b.kept m new) (hm : Foot.sub 0x1B00008888000000000000C00001090 m := by
      first | assumption | exact Foot.bit (by assumption) rfl | exact Foot.trans rfl (by assumption)) :
    b.kept m (afterMarline old new) := by
  unfold afterMarline
  repeat' first
    | with_reducible assumption
    | with_reducible apply State.each_kept
    | with_reducible apply State.flush_kept
    | with_reducible apply kept_ite
    | intro _ x (hx : State.kept m b x)
    | lift_lets
    | intro _

end Sys2Proof.Machine
end

