-- ==== Sys2Proof/Laws/KeptSheet.lean ====
section
/-! SUPPORT. What every operation of Machine/Sheet.lean keeps: see Laws/Kept.lean. -/

-- The proofs of the whole text do not run side by side: their memory adds up.
set_option Elab.async false

namespace Sys2Proof.Machine

open Sys2Proof

theorem State.setCli_kept {m : Nat} {b : State} (s : State) (c : Nat) (x : ClientInt) (hs : b.kept m s)
    (hm : Foot.sub 0x800000 m := by
      first | assumption | exact Foot.bit (by assumption) rfl | exact Foot.trans rfl (by assumption)) :
    b.kept m (State.setCli s c x) := by
  unfold State.setCli
  repeat' first
    | with_reducible assumption
    | exact Foot.bit hm rfl
    | with_reducible apply kept_clients'

theorem State.refreshIngress_kept {m : Nat} {b : State} (s : State) (c : Nat) (hs : b.kept m s)
    (hm : Foot.sub 0x6000000000000000000000000000000000000000000000000888000000000000C00800090 m := by
      first | assumption | exact Foot.bit (by assumption) rfl | exact Foot.trans rfl (by assumption)) :
    b.kept m (State.refreshIngress s c) := by
  unfold State.refreshIngress
  repeat' first
    | with_reducible assumption
    | with_reducible apply State.wr_kept
    | with_reducible apply State.setCli_kept
    | with_reducible apply State.raise_kept
    | with_reducible apply kept_ite
    | with_reducible apply keeps_ite
    | with_reducible apply State.keeps_next
    | exact Foot.bit hm rfl
    | exact Foot.trans rfl hm
    | intro x (hx : State.kept m b x)
    | intro _ x (hx : State.kept m b x)
    | intro x _ (hx : State.kept m b x)
    | intro x _ (hx : State.kept m b x.1)
    | lift_lets
    | (intro x; refine kept_cut (m := m) (b := b) (x := x) ?_ ?_ <;> [skip; (clear_value x; intro hx)])
    | (intro x; clear_value x)
    | intro _

theorem State.endFrame_kept {m : Nat} {b : State} (s : State) (c : Nat) (hs : b.kept m s)
    (hm : Foot.sub 0x8000000000000000000000000000000000000000000000000000000000000000800800000 m := by
      first | assumption | exact Foot.bit (by assumption) rfl | exact Foot.trans rfl (by assumption)) :
    b.kept m (State.endFrame s c) := by
  unfold State.endFrame
  repeat' first
    | with_reducible assumption
    | with_reducible apply State.emit_kept
    | with_reducible apply State.count_kept
    | with_reducible apply State.setCli_kept
    | with_reducible apply kept_ite
    | with_reducible apply keeps_ite
    | with_reducible apply State.keeps_next
    | exact Foot.bit hm rfl
    | exact Foot.trans rfl hm
    | intro x (hx : State.kept m b x)
    | intro _ x (hx : State.kept m b x)
    | intro x _ (hx : State.kept m b x)
    | intro x _ (hx : State.kept m b x.1)
    | lift_lets
    | intro _

theorem State.endLeaf_kept {m : Nat} {b : State} (s : State) (c : Nat) (key : Nat) (hs : b.kept m s)
    (hm : Foot.sub 0x8000000000000000000000000000000000000000000000000000000000000000800800000 m := by
      first | assumption | exact Foot.bit (by assumption) rfl | exact Foot.trans rfl (by assumption)) :
    b.kept m (State.endLeaf s c key) := by
  unfold State.endLeaf
  repeat' first
    | with_reducible assumption
    | with_reducible apply State.emit_kept
    | with_reducible apply State.count_kept
    | with_reducible apply State.setCli_kept
    | with_reducible apply kept_ite
    | with_reducible apply keeps_ite
    | with_reducible apply State.keeps_next
    | exact Foot.bit hm rfl
    | exact Foot.trans rfl hm
    | intro x (hx : State.kept m b x)
    | intro _ x (hx : State.kept m b x)
    | intro x _ (hx : State.kept m b x)
    | intro x _ (hx : State.kept m b x.1)
    | lift_lets
    | (intro x; clear_value x)
    | intro _

theorem State.refreshEgress_kept {m : Nat} {b : State} (s : State) (c : Nat) (hs : b.kept m s)
    (hm : Foot.sub 0xE000000000000000000000000000000000000000000000000888000000000000C00800090 m := by
      first | assumption | exact Foot.bit (by assumption) rfl | exact Foot.trans rfl (by assumption)) :
    b.kept m (State.refreshEgress s c) := by
  unfold State.refreshEgress
  repeat' first
    | with_reducible assumption
    | with_reducible apply State.wr_kept
    | with_reducible apply State.raise_kept
    | with_reducible apply State.each_kept
    | with_reducible apply State.endLeaf_kept
    | with_reducible apply State.endFrame_kept
    | with_reducible apply kept_ite
    | with_reducible apply keeps_ite
    | with_reducible apply State.keeps_next
    | exact Foot.bit hm rfl
    | exact Foot.trans rfl hm
    | intro x (hx : State.kept m b x)
    | intro _ x (hx : State.kept m b x)
    | intro x _ (hx : State.kept m b x)
    | intro x _ (hx : State.kept m b x.1)
    | lift_lets
    | intro _

theorem State.refreshClients_kept {m : Nat} {b : State} (s : State) (hs : b.kept m s)
    (hm : Foot.sub 0xE000000000000000000000000000000000000000000000000888000000000000C00800090 m := by
      first | assumption | exact Foot.bit (by assumption) rfl | exact Foot.trans rfl (by assumption)) :
    b.kept m (State.refreshClients s) := by
  unfold State.refreshClients
  repeat' first
    | with_reducible assumption
    | with_reducible apply State.each_kept
    | with_reducible apply State.refreshEgress_kept
    | intro _ x (hx : State.kept m b x)

theorem State.egressDrop_kept {m : Nat} {b : State} (s : State) (c : Nat) (hs : b.kept m s)
    (hm : Foot.sub 0xC000000000000000000000000000000000000000000000000888000000000000C00000090 m := by
      first | assumption | exact Foot.bit (by assumption) rfl | exact Foot.trans rfl (by assumption)) :
    b.kept m (State.egressDrop s c) := by
  unfold State.egressDrop
  repeat' first
    | with_reducible assumption
    | with_reducible apply State.raise_kept
    | with_reducible apply State.count_kept
    | exact Foot.bit hm rfl
    | exact Foot.trans rfl hm

theorem State.leafIngress_kept {m : Nat} {b : State} (s : State) (c : Nat) (u : List Byte) (f : List Byte)
    (hs : b.kept m s)
    (hm : Foot.sub 0xC000000000000000000000000000000000000000000000000888000000000000C00800090 m := by
      first | assumption | exact Foot.bit (by assumption) rfl | exact Foot.trans rfl (by assumption)) :
    b.kept m (State.leafIngress s c u f) := by
  unfold State.leafIngress
  repeat' first
    | with_reducible assumption
    | with_reducible apply State.egressDrop_kept
    | with_reducible apply State.setCli_kept
    | with_reducible apply kept_ite
    | with_reducible apply keeps_ite
    | with_reducible apply State.keeps_next
    | exact Foot.bit hm rfl
    | exact Foot.trans rfl hm
    | intro x (hx : State.kept m b x)
    | intro _ x (hx : State.kept m b x)
    | intro x _ (hx : State.kept m b x)
    | intro x _ (hx : State.kept m b x.1)
    | lift_lets
    | (intro x; clear_value x)
    | intro _
    | refine kept_pair (by assumption) ?_
    | split

theorem execClientFrameIngress_keeps {m : Nat} {b : State} (c : Client) (frame : Option (List Byte)) (err : Bool)
    (lf : Bool) (rf : Bool) (corrected : Nat) (uncorrectable : Nat) (s : State) (hs : b.kept m s)
    (hm : Foot.sub 0xE000000000000000000000000000000000000000000000000888000000000000C00800090 m := by
      first | assumption | exact Foot.bit (by assumption) rfl | exact Foot.trans rfl (by assumption)) :
    b.keeps m (execClientFrameIngress c frame err lf rf corrected uncorrectable s) := by
  unfold execClientFrameIngress
  repeat' first
    | with_reducible assumption
    | with_reducible apply act_keeps
    | with_reducible apply State.count_kept
    | with_reducible apply State.wr_kept
    | with_reducible apply State.setCli_kept
    | with_reducible apply State.leafIngress_kept
    | with_reducible apply kept_ite
    | with_reducible apply keeps_ite
    | with_reducible apply State.keeps_next
    | exact Foot.bit hm rfl
    | exact Foot.trans rfl hm
    | intro x (hx : State.kept m b x)
    | intro _ x (hx : State.kept m b x)
    | intro x _ (hx : State.kept m b x)
    | intro x _ (hx : State.kept m b x.1)
    | lift_lets
    | (intro x; refine kept_cut (m := m) (b := b) (x := x) ?_ ?_ <;> [skip; (clear_value x; intro hx)])
    | (intro x; clear_value x)
    | intro _
    | refine kept_pair (by assumption) ?_
    | split

theorem State.recentreLane_kept {m : Nat} {b : State} (s : State) (l : Nat) (out : Bool) (hs : b.kept m s)
    (hm : Foot.sub 0x800000 m := by
      first | assumption | exact Foot.bit (by assumption) rfl | exact Foot.trans rfl (by assumption)) :
    b.kept m (State.recentreLane s l out) := by
  unfold State.recentreLane
  repeat' first
    | with_reducible assumption
    | with_reducible apply State.each_kept
    | with_reducible apply State.setCli_kept
    | with_reducible apply kept_ite
    | with_reducible apply keeps_ite
    | with_reducible apply State.keeps_next
    | exact Foot.bit hm rfl
    | exact Foot.trans rfl hm
    | intro x (hx : State.kept m b x)
    | intro _ x (hx : State.kept m b x)

theorem execIngressCsf_keeps {m : Nat} {b : State} (c : Client) (s : State) (hs : b.kept m s)
    (hm : Foot.sub 0x6000000000000000000000000000000000000000000000000888000000000000C00800090 m := by
      first | assumption | exact Foot.bit (by assumption) rfl | exact Foot.trans rfl (by assumption)) :
    b.keeps m (execIngressCsf c s) := by
  unfold execIngressCsf
  repeat' first
    | with_reducible assumption
    | with_reducible apply act_keeps
    | with_reducible apply State.refreshIngress_kept
    | with_reducible apply State.setCli_kept
    | exact Foot.trans rfl hm
    | intro x (hx : State.kept m b x)

theorem execIngressCsfClear_keeps {m : Nat} {b : State} (c : Client) (s : State) (hs : b.kept m s)
    (hm : Foot.sub 0x6000000000000000000000000000000000000000000000000888000000000000C00800090 m := by
      first | assumption | exact Foot.bit (by assumption) rfl | exact Foot.trans rfl (by assumption)) :
    b.keeps m (execIngressCsfClear c s) := by
  unfold execIngressCsfClear
  repeat' first
    | with_reducible assumption
    | with_reducible apply act_keeps
    | with_reducible apply State.refreshIngress_kept
    | with_reducible apply State.setCli_kept
    | exact Foot.trans rfl hm
    | intro x (hx : State.kept m b x)

theorem State.egressFrame_kept {m : Nat} {b : State} (s : State) (c : Nat) (err : Bool) (f : List Byte)
    (hs : b.kept m s)
    (hm : Foot.sub 0xC000000000000000000000000000000000000000000000000888000000000000C00800090 m := by
      first | assumption | exact Foot.bit (by assumption) rfl | exact Foot.trans rfl (by assumption)) :
    b.kept m (State.egressFrame s c err f) := by
  unfold State.egressFrame
  repeat' first
    | with_reducible assumption
    | with_reducible apply State.egressDrop_kept
    | with_reducible apply State.count_kept
    | with_reducible apply State.setCli_kept
    | with_reducible apply State.emit_kept
    | with_reducible apply kept_ite
    | with_reducible apply keeps_ite
    | with_reducible apply State.keeps_next
    | exact Foot.bit hm rfl
    | exact Foot.trans rfl hm
    | intro x (hx : State.kept m b x)
    | intro _ x (hx : State.kept m b x)
    | intro x _ (hx : State.kept m b x)
    | intro x _ (hx : State.kept m b x.1)
    | lift_lets
    | (intro x; refine kept_cut (m := m) (b := b) (x := x) ?_ ?_ <;> [skip; (clear_value x; intro hx)])
    | (intro x; clear_value x)
    | intro _

theorem State.showCliSync_kept {m : Nat} {b : State} (s : State) (c : Nat) (hs : b.kept m s)
    (hm : Foot.sub 0x2000000000000000000000000000000000000000000000000000000000000000000000000 m := by
      first | assumption | exact Foot.bit (by assumption) rfl | exact Foot.trans rfl (by assumption)) :
    b.kept m (State.showCliSync s c) := by
  unfold State.showCliSync
  repeat' first
    | with_reducible assumption
    | with_reducible apply State.wr_kept
    | with_reducible apply kept_ite
    | with_reducible apply keeps_ite
    | with_reducible apply State.keeps_next
    | exact Foot.bit hm rfl

theorem State.ownHeader_kept {m : Nat} {b : State} (s : State) (c : Nat) (hs : b.kept m s)
    (hm : Foot.sub 0xE000000000000000000000000000000000000000000000000888000000000000C00800090 m := by
      first | assumption | exact Foot.bit (by assumption) rfl | exact Foot.trans rfl (by assumption)) :
    b.kept m (State.ownHeader s c) := by
  unfold State.ownHeader
  repeat' first
    | with_reducible assumption
    | with_reducible apply State.count_kept
    | with_reducible apply State.endFrame_kept
    | with_reducible apply State.showCliSync_kept
    | with_reducible apply State.setCli_kept
    | with_reducible apply State.egressFrame_kept
    | with_reducible apply kept_ite
    | with_reducible apply keeps_ite
    | with_reducible apply State.keeps_next
    | exact Foot.bit hm rfl
    | exact Foot.trans rfl hm
    | intro x (hx : State.kept m b x)
    | intro _ x (hx : State.kept m b x)
    | intro x _ (hx : State.kept m b x)
    | intro x _ (hx : State.kept m b x.1)
    | lift_lets
    | (intro x; refine kept_cut (m := m) (b := b) (x := x) ?_ ?_ <;> [skip; (clear_value x; intro hx)])
    | (intro x; clear_value x)
    | intro _
    | refine kept_pair (by assumption) ?_
    | split

theorem State.leafHeader_kept {m : Nat} {b : State} (s : State) (c : Nat) (key : Nat) (hs : b.kept m s)
    (hm : Foot.sub 0xE000000000000000000000000000000000000000000000000888000000000000C00800090 m := by
      first | assumption | exact Foot.bit (by assumption) rfl | exact Foot.trans rfl (by assumption)) :
    b.kept m (State.leafHeader s c key) := by
  unfold State.leafHeader
  repeat' first
    | with_reducible assumption
    | with_reducible apply State.count_kept
    | with_reducible apply State.endLeaf_kept
    | with_reducible apply State.showCliSync_kept
    | with_reducible apply State.setCli_kept
    | with_reducible apply State.raise_kept
    | with_reducible apply State.egressFrame_kept
    | with_reducible apply kept_ite
    | with_reducible apply keeps_ite
    | with_reducible apply State.keeps_next
    | exact Foot.bit hm rfl
    | exact Foot.trans rfl hm
    | intro x (hx : State.kept m b x)
    | intro _ x (hx : State.kept m b x)
    | intro x _ (hx : State.kept m b x)
    | intro x _ (hx : State.kept m b x.1)
    | lift_lets
    | (intro x; refine kept_cut (m := m) (b := b) (x := x) ?_ ?_ <;> [skip; (clear_value x; intro hx)])
    | (intro x; clear_value x)
    | intro _
    | refine kept_pair (by assumption) ?_
    | split

theorem execEgressHeader_keeps {m : Nat} {b : State} (c : Client) (sent : Nat) (s : State) (hs : b.kept m s)
    (hm : Foot.sub 0xE000000000000000000000000000000000000000000000000888000000000000C00800090 m := by
      first | assumption | exact Foot.bit (by assumption) rfl | exact Foot.trans rfl (by assumption)) :
    b.keeps m (execEgressHeader c sent s) := by
  unfold execEgressHeader
  repeat' first
    | with_reducible assumption
    | with_reducible apply act_keeps
    | with_reducible apply State.setCli_kept
    | with_reducible apply State.leafHeader_kept
    | with_reducible apply State.ownHeader_kept
    | with_reducible apply kept_ite
    | with_reducible apply keeps_ite
    | with_reducible apply State.keeps_next
    | exact Foot.bit hm rfl
    | exact Foot.trans rfl hm
    | intro x (hx : State.kept m b x)
    | intro _ x (hx : State.kept m b x)
    | intro x _ (hx : State.kept m b x)
    | intro x _ (hx : State.kept m b x.1)
    | lift_lets
    | (intro x; refine kept_cut (m := m) (b := b) (x := x) ?_ ?_ <;> [skip; (clear_value x; intro hx)])
    | (intro x; clear_value x)
    | intro _
    | refine kept_pair (by assumption) ?_
    | split

theorem State.takeCow_kept {m : Nat} {b : State} (s : State) (c : Nat) (w : List Byte) (hs : b.kept m s)
    (hm : Foot.sub 0x800000 m := by
      first | assumption | exact Foot.bit (by assumption) rfl | exact Foot.trans rfl (by assumption)) :
    b.kept m (State.takeCow s c w) := by
  unfold State.takeCow
  repeat' first
    | with_reducible assumption
    | with_reducible apply State.setCli_kept

theorem State.takeWord_kept {m : Nat} {b : State} (s : State) (c : Nat) (w : List RxByte) (hs : b.kept m s)
    (hm : Foot.sub 0x800000 m := by
      first | assumption | exact Foot.bit (by assumption) rfl | exact Foot.trans rfl (by assumption)) :
    b.kept m (State.takeWord s c w) := by
  unfold State.takeWord
  repeat' first
    | with_reducible assumption
    | with_reducible apply State.setCli_kept
    | with_reducible apply kept_ite
    | with_reducible apply keeps_ite
    | with_reducible apply State.keeps_next
    | exact Foot.bit hm rfl
    | exact Foot.trans rfl hm
    | intro x (hx : State.kept m b x)
    | intro _ x (hx : State.kept m b x)
    | intro x _ (hx : State.kept m b x)
    | intro x _ (hx : State.kept m b x.1)
    | lift_lets
    | (intro x; clear_value x)
    | intro _

theorem State.takeWords_kept {m : Nat} {b : State} (a0 : Nat) (a1 : State) (a2 : Nat) (a3 : List RxByte)
    (ha1 : b.kept m a1) (hm : Foot.sub 0x800000 m := by
      first | assumption | exact Foot.bit (by assumption) rfl | exact Foot.trans rfl (by assumption)) :
    b.kept m (State.takeWords a0 a1 a2 a3) := by
  induction a0 generalizing a1 a3 with
  | zero => exact ha1
  | succ k ih =>
    unfold State.takeWords
    exact kept_ite (fun _ => ha1) fun _ => ih _ _ (State.takeWord_kept _ _ _ ha1)

theorem State.hostStream_kept {m : Nat} {b : State} (s : State) (c : Nat) (hs : b.kept m s)
    (hm : Foot.sub 0x800800000 m := by
      first | assumption | exact Foot.bit (by assumption) rfl | exact Foot.trans rfl (by assumption)) :
    b.kept m (State.hostStream s c) := by
  unfold State.hostStream
  repeat' first
    | with_reducible assumption
    | with_reducible apply State.setCli_kept
    | with_reducible apply State.emit_kept
    | with_reducible apply kept_ite
    | with_reducible apply keeps_ite
    | with_reducible apply State.keeps_next
    | exact Foot.bit hm rfl
    | exact Foot.trans rfl hm
    | intro x (hx : State.kept m b x)
    | intro _ x (hx : State.kept m b x)
    | intro x _ (hx : State.kept m b x)
    | intro x _ (hx : State.kept m b x.1)
    | lift_lets
    | (intro x; clear_value x)
    | intro _

theorem State.judgeCow_kept {m : Nat} {b : State} (s : State) (c : Nat) (w : List Byte) (hs : b.kept m s)
    (hm : Foot.sub 0xE000000000000000000000000000000000000000000000000888000000000000C00800090 m := by
      first | assumption | exact Foot.bit (by assumption) rfl | exact Foot.trans rfl (by assumption)) :
    b.kept m (State.judgeCow s c w) := by
  unfold State.judgeCow
  repeat' first
    | with_reducible assumption
    | with_reducible apply State.setCli_kept
    | with_reducible apply State.refreshEgress_kept
    | with_reducible apply State.wr_kept
    | with_reducible apply State.count_kept
    | with_reducible apply State.raise_kept
    | with_reducible apply kept_ite
    | with_reducible apply keeps_ite
    | with_reducible apply State.keeps_next
    | exact Foot.bit hm rfl
    | exact Foot.trans rfl hm
    | intro x (hx : State.kept m b x)
    | intro _ x (hx : State.kept m b x)
    | intro x _ (hx : State.kept m b x)
    | intro x _ (hx : State.kept m b x.1)
    | lift_lets
    | (intro x; refine kept_cut (m := m) (b := b) (x := x) ?_ ?_ <;> [skip; (clear_value x; intro hx)])
    | (intro x; clear_value x)
    | intro _
    | refine kept_pair (by assumption) ?_
    | split

theorem execCowReceived_keeps {m : Nat} {b : State} (c : Client) (s : State) (hs : b.kept m s)
    (hm : Foot.sub 0xE000000000000000000000000000000000000000000000000888000000000000C00800090 m := by
      first | assumption | exact Foot.bit (by assumption) rfl | exact Foot.trans rfl (by assumption)) :
    b.keeps m (execCowReceived c s) := by
  unfold execCowReceived
  repeat' first
    | with_reducible assumption
    | with_reducible apply act_keeps
    | with_reducible apply State.hostStream_kept
    | with_reducible apply State.judgeCow_kept
    | with_reducible apply State.setCli_kept
    | with_reducible apply kept_ite
    | with_reducible apply keeps_ite
    | with_reducible apply State.keeps_next
    | exact Foot.bit hm rfl
    | exact Foot.trans rfl hm
    | intro x (hx : State.kept m b x)
    | intro _ x (hx : State.kept m b x)
    | intro x _ (hx : State.kept m b x)
    | intro x _ (hx : State.kept m b x.1)
    | lift_lets
    | (intro x; clear_value x)
    | intro _
    | refine kept_pair (by assumption) ?_
    | split

theorem execEgressResume_keeps {m : Nat} {b : State} (c : Client) (s : State) (hs : b.kept m s)
    (hm : Foot.sub 0x2000000000000000000000000000000000000000000000000000000000000000000000000 m := by
      first | assumption | exact Foot.bit (by assumption) rfl | exact Foot.trans rfl (by assumption)) :
    b.keeps m (execEgressResume c s) := by
  unfold execEgressResume
  repeat' first
    | with_reducible assumption
    | with_reducible apply act_keeps
    | with_reducible apply State.wr_kept
    | with_reducible apply kept_ite
    | exact Foot.bit hm rfl
    | intro x (hx : State.kept m b x)
    | lift_lets
    | intro _

theorem State.mapClient_kept {m : Nat} {b : State} (s : State) (c : Nat) (a2 : Nat) (hs : b.kept m s)
    (hm : Foot.sub 0x800000 m := by
      first | assumption | exact Foot.bit (by assumption) rfl | exact Foot.trans rfl (by assumption)) :
    b.kept m (State.mapClient s c a2).1 := by
  unfold State.mapClient
  repeat' first
    | with_reducible assumption
    | with_reducible apply State.setCli_kept
    | with_reducible apply kept_ite
    | with_reducible apply keeps_ite
    | with_reducible apply State.keeps_next
    | exact Foot.bit hm rfl
    | exact Foot.trans rfl hm
    | intro x (hx : State.kept m b x)
    | intro _ x (hx : State.kept m b x)
    | intro x _ (hx : State.kept m b x)
    | intro x _ (hx : State.kept m b x.1)
    | lift_lets
    | (intro x; clear_value x)
    | intro _
    | refine kept_pair (by assumption) ?_
    | split

theorem State.mapLeaf_kept {m : Nat} {b : State} (s : State) (c : Nat) (key : Nat) (a3 : Nat) (hs : b.kept m s)
    (hm : Foot.sub 0x800000 m := by
      first | assumption | exact Foot.bit (by assumption) rfl | exact Foot.trans rfl (by assumption)) :
    b.kept m (State.mapLeaf s c key a3).1 := by
  unfold State.mapLeaf
  repeat' first
    | with_reducible assumption
    | with_reducible apply State.setCli_kept

theorem State.setCm_kept {m : Nat} {b : State} (s : State) (c : Nat) (cm : Nat) (hs : b.kept m s)
    (hm : Foot.sub 0x800000 m := by
      first | assumption | exact Foot.bit (by assumption) rfl | exact Foot.trans rfl (by assumption)) :
    b.kept m (State.setCm s c cm) := by
  unfold State.setCm
  repeat' first
    | with_reducible assumption
    | with_reducible apply State.setCli_kept

theorem afterSheetClient_kept {m : Nat} {b : State} (old : State) (c : Nat) (t : State) (hold : b.kept m old)
    (ht : b.kept m t)
    (hm : Foot.sub 0xE000000000000000000000000000000000000000000000000888000000000000C00800090 m := by
      first | assumption | exact Foot.bit (by assumption) rfl | exact Foot.trans rfl (by assumption)) :
    b.kept m (afterSheetClient old c t) := by
  unfold afterSheetClient
  repeat' first
    | with_reducible assumption
    | with_reducible apply State.each_kept
    | with_reducible apply State.endLeaf_kept
    | with_reducible apply State.setCli_kept
    | with_reducible apply State.setReg_kept
    | with_reducible apply State.refreshEgress_kept
    | with_reducible apply State.refreshIngress_kept
    | with_reducible apply kept_ite
    | with_reducible apply keeps_ite
    | with_reducible apply State.keeps_next
    | exact Foot.bit hm rfl
    | exact Foot.trans rfl hm
    | intro x (hx : State.kept m b x)
    | intro _ x (hx : State.kept m b x)
    | intro x _ (hx : State.kept m b x)
    | intro x _ (hx : State.kept m b x.1)
    | lift_lets
    | (intro x; clear_value x)
    | intro _

theorem afterSheet_kept {m : Nat} {b : State} (old : State) (new : State) (hold : b.kept m old) (hnew : b.kept m new)
    (hm : Foot.sub 0xE000000000000000000000000000000000000000000000000888000000000000C00800090 m := by
      first | assumption | exact Foot.bit (by assumption) rfl | exact Foot.trans rfl (by assumption)) :
    b.kept m (afterSheet old new) := by
  unfold afterSheet
  repeat' first
    | with_reducible assumption
    | with_reducible apply State.each_kept
    | with_reducible apply afterSheetClient_kept
    | intro _ x (hx : State.kept m b x)

end Sys2Proof.Machine
end

