-- ==== Sys2Proof/Laws/KeptPackets.lean ====
section
/-! SUPPORT. What every operation of Machine/Packets.lean keeps: see Laws/Kept.lean. -/

-- The proofs of the whole text do not run side by side: their memory adds up.
set_option Elab.async false

namespace Sys2Proof.Machine

open Sys2Proof

theorem State.sendPacket_kept {m : Nat} {b : State} (s : State) (cls : Nat) (flags : Nat) (payload : List Byte)
    (hs : b.kept m s) (hm : Foot.sub 0x820000000 m := by
      first | assumption | exact Foot.bit (by assumption) rfl | exact Foot.trans rfl (by assumption)) :
    b.kept m (State.sendPacket s cls flags payload) := by
  unfold State.sendPacket
  repeat' first
    | with_reducible assumption
    | with_reducible apply State.emit_kept
    | exact Foot.bit hm rfl
    | exact Foot.trans rfl hm
    | lift_lets
    | (intro x; refine kept_cut (m := m) (b := b) (x := x) ?_ ?_ <;> [skip; (clear_value x; intro hx)])
    | (intro x; clear_value x)
    | with_reducible apply kept_lanyard

theorem pumpLockstep_kept {m : Nat} {b : State} (l : List (List Byte)) (s : State) (hs : b.kept m s)
    (hm : Foot.sub 0x820000000 m := by
      first | assumption | exact Foot.trans rfl (by assumption)) : b.kept m (pumpLockstep l s) := by
  induction l generalizing s with
  | nil => exact kept_lanyard _ hs
  | cons p r ih =>
    unfold pumpLockstep
    apply kept_ite <;> intro _
    · exact ih _ (kept_lanyard _ (State.sendPacket_kept _ _ _ _ hs))
    · exact kept_lanyard _ hs

theorem pumpCkpt_kept {m : Nat} {b : State} (l : List (Nat × List Byte)) (s : State) (hs : b.kept m s)
    (hm : Foot.sub 0x40000000000000000000000000000000000000000000000000000000000000000000000820000000 m := by
      first | assumption | exact Foot.trans rfl (by assumption)) : b.kept m (pumpCkpt l s) := by
  induction l generalizing s with
  | nil =>
    unfold pumpCkpt
    split
    · exact State.wr_kept _ _ _ _ _ _ (kept_lanyard _ hs)
    · exact kept_lanyard _ hs
  | cons p r ih =>
    unfold pumpCkpt
    apply kept_ite <;> intro _
    · exact ih _ (kept_lanyard _ (State.sendPacket_kept _ _ _ _ hs))
    · exact kept_lanyard _ hs

theorem State.pump_kept {m : Nat} {b : State} (s : State) (hs : b.kept m s)
    (hm : Foot.sub 0x40000000000000000000000000000000000000000000000000000000000000000000000820000000 m := by
      first | assumption | exact Foot.bit (by assumption) rfl | exact Foot.trans rfl (by assumption)) :
    b.kept m (State.pump s) := by
  unfold State.pump
  repeat' first
    | with_reducible assumption
    | with_reducible apply pumpLockstep_kept
    | with_reducible apply pumpCkpt_kept
    | exact Foot.trans rfl hm

theorem State.sendLockstep_kept {m : Nat} {b : State} (s : State) (record : List Byte) (hs : b.kept m s)
    (hm : Foot.sub 0x40000000000000000000000000000000000000000000000000000000000000000000000820000000 m := by
      first | assumption | exact Foot.bit (by assumption) rfl | exact Foot.trans rfl (by assumption)) :
    b.kept m (State.sendLockstep s record) := by
  unfold State.sendLockstep
  repeat' first
    | with_reducible assumption
    | with_reducible apply State.pump_kept
    | with_reducible apply kept_ite
    | exact Foot.bit hm rfl
    | lift_lets
    | (intro x; clear_value x)
    | intro _
    | with_reducible apply kept_lanyard

theorem State.lockstepTaken_kept {m : Nat} {b : State} (s : State) (hs : b.kept m s) (hm : Foot.sub 0x20000000 m := by
      first | assumption | exact Foot.bit (by assumption) rfl | exact Foot.trans rfl (by assumption))
    :
    b.kept m (State.lockstepTaken s) := by
  unfold State.lockstepTaken
  repeat' first
    | with_reducible assumption
    | exact Foot.bit hm rfl
    | lift_lets
    | (intro x; clear_value x)
    | with_reducible apply kept_lanyard

end Sys2Proof.Machine
end

