-- ==== Sys2Proof/Laws/KeptBend.lean ====
section
/-! SUPPORT. What every operation of Machine/Bend.lean keeps: see Laws/Kept.lean. -/

-- The proofs of the whole text do not run side by side: their memory adds up.
set_option Elab.async false

namespace Sys2Proof.Machine

open Sys2Proof

theorem State.setGrp_kept {m : Nat} {b : State} (s : State) (g : Nat) (x : GroupInt) (hs : b.kept m s)
    (hm : Foot.sub 0x2000000 m := by
      first | assumption | exact Foot.bit (by assumption) rfl | exact Foot.trans rfl (by assumption)) :
    b.kept m (State.setGrp s g x) := by
  unfold State.setGrp
  repeat' first
    | with_reducible assumption
    | exact Foot.bit hm rfl
    | with_reducible apply kept_groups'

theorem State.refreshGroup_kept {m : Nat} {b : State} (s : State) (g : Nat) (hs : b.kept m s)
    (hm : Foot.sub 0x10000000000000000000000000000000000000000000000000000000000000000000000 m := by
      first | assumption | exact Foot.bit (by assumption) rfl | exact Foot.trans rfl (by assumption)) :
    b.kept m (State.refreshGroup s g) := by
  unfold State.refreshGroup
  repeat' first
    | with_reducible assumption
    | with_reducible apply State.wr_kept
    | exact Foot.bit hm rfl

theorem State.refreshPath_kept {m : Nat} {b : State} (s : State) (g : Nat) (p : Nat) (hs : b.kept m s)
    (hm : Foot.sub 0x32000000000000000000000000000000000000000000000888000000000000C00000090 m := by
      first | assumption | exact Foot.bit (by assumption) rfl | exact Foot.trans rfl (by assumption)) :
    b.kept m (State.refreshPath s g p) := by
  unfold State.refreshPath
  repeat' first
    | with_reducible assumption
    | with_reducible apply State.wr_kept
    | with_reducible apply State.raise_kept
    | with_reducible apply State.refreshGroup_kept
    | with_reducible apply kept_ite
    | exact Foot.bit hm rfl
    | exact Foot.trans rfl hm
    | lift_lets
    | intro _

theorem State.refreshPaths_kept {m : Nat} {b : State} (s : State) (g : Nat) (hs : b.kept m s)
    (hm : Foot.sub 0x32000000000000000000000000000000000000000000000888000000000000C00000090 m := by
      first | assumption | exact Foot.bit (by assumption) rfl | exact Foot.trans rfl (by assumption)) :
    b.kept m (State.refreshPaths s g) := by
  unfold State.refreshPaths
  repeat' first
    | with_reducible assumption
    | with_reducible apply State.refreshPath_kept

theorem State.refreshLineGroups_kept {m : Nat} {b : State} (s : State) (n : Nat) (hs : b.kept m s)
    (hm : Foot.sub 0x32000000000000000000000000000000000000000000000888000000000000C00000090 m := by
      first | assumption | exact Foot.bit (by assumption) rfl | exact Foot.trans rfl (by assumption)) :
    b.kept m (State.refreshLineGroups s n) := by
  unfold State.refreshLineGroups
  repeat' first
    | with_reducible assumption
    | with_reducible apply State.each_kept
    | with_reducible apply State.refreshPaths_kept
    | intro _ x (hx : State.kept m b x)

theorem State.loseSequence_kept {m : Nat} {b : State} (s : State) (g : Nat) (p : Nat) (hs : b.kept m s)
    (hm : Foot.sub 0x32000000000000000000000000000000000000000000000888000000000000C02000090 m := by
      first | assumption | exact Foot.bit (by assumption) rfl | exact Foot.trans rfl (by assumption)) :
    b.kept m (State.loseSequence s g p) := by
  unfold State.loseSequence
  repeat' first
    | with_reducible assumption
    | with_reducible apply State.setGrp_kept
    | with_reducible apply State.refreshPath_kept
    | with_reducible apply State.raise_kept
    | with_reducible apply State.wr_kept
    | exact Foot.bit hm rfl
    | exact Foot.trans rfl hm

theorem State.pathMultiframe_kept {m : Nat} {b : State} (s : State) (g : Nat) (p : Nat) (hs : b.kept m s)
    (hm : Foot.sub 0x32000000000000000000000000000000000000000000000888000000000000C02000090 m := by
      first | assumption | exact Foot.bit (by assumption) rfl | exact Foot.trans rfl (by assumption)) :
    b.kept m (State.pathMultiframe s g p) := by
  unfold State.pathMultiframe
  repeat' first
    | with_reducible assumption
    | with_reducible apply State.setGrp_kept
    | with_reducible apply State.loseSequence_kept
    | with_reducible apply kept_ite
    | exact Foot.trans rfl hm
    | lift_lets
    | intro _

theorem State.pathRecord_kept {m : Nat} {b : State} (s : State) (g : Nat) (p : Nat) (f : Nat) (q : Nat)
    (hs : b.kept m s) (hm : Foot.sub 0x32000000000000000000000000000000000000000000000888000000000000C02000090 m := by
      first | assumption | exact Foot.bit (by assumption) rfl | exact Foot.trans rfl (by assumption))
    :
    b.kept m (State.pathRecord s g p f q) := by
  unfold State.pathRecord
  repeat' first
    | with_reducible assumption
    | with_reducible apply State.setGrp_kept
    | with_reducible apply State.loseSequence_kept
    | with_reducible apply State.refreshPath_kept
    | with_reducible apply State.wr_kept
    | with_reducible apply kept_ite
    | exact Foot.bit hm rfl
    | exact Foot.trans rfl hm
    | lift_lets
    | (intro x; refine kept_cut (m := m) (b := b) (x := x) ?_ ?_ <;> [skip; (clear_value x; intro hx)])
    | (intro x; clear_value x)
    | intro _

theorem State.bendFrame_kept {m : Nat} {b : State} (s : State) (n : Nat) (f : Nat) (recs : List (Nat × Bool × Nat))
    (hs : b.kept m s) (hm : Foot.sub 0x32000000000000000000000000000000000000000000000888000000000000C02000090 m := by
      first | assumption | exact Foot.bit (by assumption) rfl | exact Foot.trans rfl (by assumption))
    :
    b.kept m (State.bendFrame s n f recs) := by
  unfold State.bendFrame
  repeat' first
    | with_reducible assumption
    | with_reducible apply State.each_kept
    | with_reducible apply State.pathMultiframe_kept
    | with_reducible apply State.pathRecord_kept
    | with_reducible apply State.setGrp_kept
    | with_reducible apply kept_ite
    | with_reducible apply keeps_ite
    | with_reducible apply State.keeps_next
    | exact Foot.bit hm rfl
    | exact Foot.trans rfl hm
    | intro x (hx : State.kept m b x)
    | intro _ x (hx : State.kept m b x)
    | intro x _ (hx : State.kept m b x)
    | intro x _ (hx : State.kept m b x.1)
    | lift_lets
    | (intro x; refine kept_cut (m := m) (b := b) (x := x) ?_ ?_ <;> [skip; (clear_value x; intro hx)])
    | (intro x; clear_value x)
    | intro _
    | refine kept_pair (by assumption) ?_
    | split

theorem State.showDelta_kept {m : Nat} {b : State} (s : State) (g : Nat) (e : Nat) (hs : b.kept m s)
    (hm : Foot.sub 0x20000000000000000000000000000000000000000000000000000000000000000000000 m := by
      first | assumption | exact Foot.bit (by assumption) rfl | exact Foot.trans rfl (by assumption)) :
    b.kept m (State.showDelta s g e) := by
  unfold State.showDelta
  repeat' first
    | with_reducible assumption
    | with_reducible apply State.each_kept
    | with_reducible apply State.wr_kept
    | with_reducible apply kept_ite
    | with_reducible apply keeps_ite
    | with_reducible apply State.keeps_next
    | exact Foot.bit hm rfl
    | exact Foot.trans rfl hm
    | intro x (hx : State.kept m b x)
    | intro _ x (hx : State.kept m b x)

theorem State.realignHit_kept {m : Nat} {b : State} (s : State) (g : Nat) (old : Nat) (new : Nat) (hs : b.kept m s)
    (hm : Foot.sub 0xE000000000000000000000000000000000000000000000000888000000000000C02800090 m := by
      first | assumption | exact Foot.bit (by assumption) rfl | exact Foot.trans rfl (by assumption)) :
    b.kept m (State.realignHit s g old new) := by
  unfold State.realignHit
  repeat' first
    | with_reducible assumption
    | with_reducible apply State.refreshEgress_kept
    | with_reducible apply State.setCli_kept
    | with_reducible apply State.setGrp_kept
    | with_reducible apply kept_ite
    | with_reducible apply keeps_ite
    | with_reducible apply State.keeps_next
    | exact Foot.bit hm rfl
    | exact Foot.trans rfl hm
    | intro x (hx : State.kept m b x)
    | intro _ x (hx : State.kept m b x)
    | intro x _ (hx : State.kept m b x)
    | intro x _ (hx : State.kept m b x.1)
    | lift_lets
    | (intro x; clear_value x)
    | intro _

theorem State.judgeWindow_kept {m : Nat} {b : State} (s : State) (g : Nat) (p : Nat) (hs : b.kept m s)
    (hm : Foot.sub 0x32000000000000000000000000000000000000000000000888000000000000C02000090 m := by
      first | assumption | exact Foot.bit (by assumption) rfl | exact Foot.trans rfl (by assumption)) :
    b.kept m (State.judgeWindow s g p) := by
  unfold State.judgeWindow
  repeat' first
    | with_reducible assumption
    | with_reducible apply State.refreshPath_kept
    | with_reducible apply State.setGrp_kept
    | with_reducible apply kept_ite
    | with_reducible apply keeps_ite
    | with_reducible apply State.keeps_next
    | exact Foot.bit hm rfl
    | exact Foot.trans rfl hm
    | intro x (hx : State.kept m b x)
    | intro _ x (hx : State.kept m b x)
    | intro x _ (hx : State.kept m b x)
    | intro x _ (hx : State.kept m b x.1)
    | lift_lets
    | intro _

theorem State.align_kept {m : Nat} {b : State} (s : State) (g : Nat) (hs : b.kept m s)
    (hm : Foot.sub 0xE072000000000000000000000000000000000000000000000888000000000000C02800090 m := by
      first | assumption | exact Foot.bit (by assumption) rfl | exact Foot.trans rfl (by assumption)) :
    b.kept m (State.align s g) := by
  unfold State.align
  repeat' first
    | with_reducible assumption
    | with_reducible apply State.showDelta_kept
    | with_reducible apply State.wr_kept
    | with_reducible apply State.setGrp_kept
    | with_reducible apply State.raise_kept
    | with_reducible apply State.count_kept
    | with_reducible apply State.realignHit_kept
    | with_reducible apply State.refreshGroup_kept
    | with_reducible apply State.judgeWindow_kept
    | with_reducible apply kept_ite
    | with_reducible apply keeps_ite
    | with_reducible apply State.keeps_next
    | exact Foot.bit hm rfl
    | exact Foot.trans rfl hm
    | intro x (hx : State.kept m b x)
    | intro _ x (hx : State.kept m b x)
    | intro x _ (hx : State.kept m b x)
    | intro x _ (hx : State.kept m b x.1)
    | lift_lets
    | (intro x; clear_value x)
    | intro _

theorem State.alignIfAllOut_kept {m : Nat} {b : State} (s : State) (g : Nat) (hs : b.kept m s)
    (hm : Foot.sub 0xE072000000000000000000000000000000000000000000000888000000000000C02800090 m := by
      first | assumption | exact Foot.bit (by assumption) rfl | exact Foot.trans rfl (by assumption)) :
    b.kept m (State.alignIfAllOut s g) := by
  unfold State.alignIfAllOut
  repeat' first
    | with_reducible assumption
    | with_reducible apply State.align_kept
    | with_reducible apply kept_ite
    | lift_lets
    | intro _

theorem execDeltaMeasure_keeps {m : Nat} {b : State} (g : Pg) (s : State) (hs : b.kept m s)
    (hm : Foot.sub 0xE072000000000000000000000000000000000000000000000888000000000000C02800090 m := by
      first | assumption | exact Foot.bit (by assumption) rfl | exact Foot.trans rfl (by assumption)) :
    b.keeps m (execDeltaMeasure g s) := by
  unfold execDeltaMeasure
  repeat' first
    | with_reducible assumption
    | with_reducible apply act_keeps
    | with_reducible apply State.setGrp_kept
    | with_reducible apply State.showDelta_kept
    | with_reducible apply State.align_kept
    | with_reducible apply State.judgeWindow_kept
    | with_reducible apply kept_ite
    | with_reducible apply keeps_ite
    | with_reducible apply State.keeps_next
    | exact Foot.bit hm rfl
    | exact Foot.trans rfl hm
    | intro x (hx : State.kept m b x)
    | intro _ x (hx : State.kept m b x)
    | intro x _ (hx : State.kept m b x)
    | intro x _ (hx : State.kept m b x.1)
    | lift_lets
    | (intro x; refine kept_cut (m := m) (b := b) (x := x) ?_ ?_ <;> [skip; (clear_value x; intro hx)])
    | (intro x; clear_value x)
    | intro _

theorem execOutOfWindow_keeps {m : Nat} {b : State} (g : Pg) (p : Path) (s : State) (hs : b.kept m s)
    (hm : Foot.sub 0xE072000000000000000000000000000000000000000000000888000000000000C02800090 m := by
      first | assumption | exact Foot.bit (by assumption) rfl | exact Foot.trans rfl (by assumption)) :
    b.keeps m (execOutOfWindow g p s) := by
  unfold execOutOfWindow
  repeat' first
    | with_reducible assumption
    | with_reducible apply act_keeps
    | with_reducible apply State.alignIfAllOut_kept
    | with_reducible apply State.refreshPath_kept
    | with_reducible apply State.raise_kept
    | with_reducible apply State.setGrp_kept
    | with_reducible apply kept_ite
    | exact Foot.bit hm rfl
    | exact Foot.trans rfl hm
    | intro x (hx : State.kept m b x)
    | lift_lets
    | (intro x; clear_value x)
    | intro _

theorem execPathWtrExpiry_keeps {m : Nat} {b : State} (g : Pg) (p : Path) (s : State) (hs : b.kept m s)
    (hm : Foot.sub 0x32000000000000000000000000000000000000000000000888000000000000C00000090 m := by
      first | assumption | exact Foot.bit (by assumption) rfl | exact Foot.trans rfl (by assumption)) :
    b.keeps m (execPathWtrExpiry g p s) := by
  unfold execPathWtrExpiry
  repeat' first
    | with_reducible assumption
    | with_reducible apply act_keeps
    | with_reducible apply State.refreshGroup_kept
    | with_reducible apply State.raise_kept
    | with_reducible apply State.wr_kept
    | with_reducible apply kept_ite
    | exact Foot.bit hm rfl
    | exact Foot.trans rfl hm
    | intro x (hx : State.kept m b x)
    | lift_lets
    | (intro x; clear_value x)
    | intro _

theorem execAutoRealign_keeps {m : Nat} {b : State} (g : Pg) (p : Path) (s : State) (hs : b.kept m s)
    (hm : Foot.sub 0xE072000000000000000000000000000000000000000000000888000000000000C02800090 m := by
      first | assumption | exact Foot.bit (by assumption) rfl | exact Foot.trans rfl (by assumption)) :
    b.keeps m (execAutoRealign g p s) := by
  unfold execAutoRealign
  repeat' first
    | with_reducible assumption
    | with_reducible apply act_keeps
    | with_reducible apply State.align_kept
    | with_reducible apply kept_ite
    | intro x (hx : State.kept m b x)
    | lift_lets
    | intro _

theorem State.setUnitFail_kept {m : Nat} {b : State} (s : State) (g : Nat) (v : Bool) (hs : b.kept m s)
    (hm : Foot.sub 0xE000000000000000000000000000000000000000000000000888000000000000C00800090 m := by
      first | assumption | exact Foot.bit (by assumption) rfl | exact Foot.trans rfl (by assumption)) :
    b.kept m (State.setUnitFail s g v) := by
  unfold State.setUnitFail
  repeat' first
    | with_reducible assumption
    | with_reducible apply State.refreshEgress_kept
    | with_reducible apply State.setCli_kept
    | with_reducible apply kept_ite
    | exact Foot.trans rfl hm
    | lift_lets
    | (intro x; clear_value x)
    | intro _

theorem State.playUnit_kept {m : Nat} {b : State} (s : State) (g : Nat) (q : Nat) (j : Nat) (copy : Option UnitCopy)
    (hs : b.kept m s)
    (hm : Foot.sub 0xE052000000000000000000000000000000000000000000000888000000000000C02800090 m := by
      first | assumption | exact Foot.bit (by assumption) rfl | exact Foot.trans rfl (by assumption)) :
    b.kept m (State.playUnit s g q j copy) := by
  unfold State.playUnit
  lift_lets
  intro x c u
  have hk : b.kept m u := State.wr_kept _ _ _ _ _ _ (State.setGrp_kept _ _ _ hs)
  clear_value u
  intro bad
  have hbad : ∀ t, b.kept m t → b.kept m (bad t) := by
    intro t ht
    have hc := State.count_kept t .BEND_PG_CNT 1 g 6 0 ht
    exact kept_ite (fun _ => hc) fun _ => State.raise_kept _ _ _ _ _ _ _ (State.setGrp_kept _ _ _ hc)
  clear_value bad
  split
  · lift_lets
    intro v w z
    have hv : b.kept m v := State.setUnitFail_kept _ _ _ (State.count_kept _ _ _ _ _ _ hk)
    clear_value v
    have hw : b.kept m w := kept_ite (fun _ => hbad _ hv) fun _ => hv
    clear_value w
    have hz : b.kept m z := kept_ite (fun _ => hw) fun _ => State.takeCow_kept _ _ _ hw
    exact State.takeWords_kept _ _ _ _ hz
  · exact State.setUnitFail_kept _ _ _ (hbad _ hk)

theorem State.copyIn_kept {m : Nat} {b : State} (s : State) (g : Nat) (p : Nat) (c : UnitCopy) (hs : b.kept m s)
    (hm : Foot.sub 0x2000000 m := by
      first | assumption | exact Foot.bit (by assumption) rfl | exact Foot.trans rfl (by assumption)) :
    b.kept m (State.copyIn s g p c) := by
  unfold State.copyIn
  repeat' first
    | with_reducible assumption
    | with_reducible apply State.setGrp_kept

theorem State.completeCopy_kept {m : Nat} {b : State} (s : State) (g : Nat) (p : Nat) (c : UnitCopy) (hs : b.kept m s)
    (hm : Foot.sub 0xE052000000000000000000000000000000000000000000000888000000000000C02800090 m := by
      first | assumption | exact Foot.bit (by assumption) rfl | exact Foot.trans rfl (by assumption)) :
    b.kept m (State.completeCopy s g p c) := by
  unfold State.completeCopy
  repeat' first
    | with_reducible assumption
    | with_reducible apply State.count_kept
    | with_reducible apply State.playUnit_kept
    | with_reducible apply State.setGrp_kept
    | with_reducible apply kept_ite
    | with_reducible apply keeps_ite
    | with_reducible apply State.keeps_next
    | exact Foot.bit hm rfl
    | exact Foot.trans rfl hm
    | intro x (hx : State.kept m b x)
    | intro _ x (hx : State.kept m b x)
    | intro x _ (hx : State.kept m b x)
    | intro x _ (hx : State.kept m b x.1)
    | lift_lets
    | (intro x; clear_value x)
    | intro _

theorem execUnitCopyComplete_keeps {m : Nat} {b : State} (g : Pg) (p : Path) (time : Nat) (s : State)
    (hs : b.kept m s)
    (hm : Foot.sub 0xE052000000000000000000000000000000000000000000000888000000000000C02800090 m := by
      first | assumption | exact Foot.bit (by assumption) rfl | exact Foot.trans rfl (by assumption)) :
    b.keeps m (execUnitCopyComplete g p time s) := by
  unfold execUnitCopyComplete
  repeat' first
    | with_reducible assumption
    | with_reducible apply act_keeps
    | with_reducible apply State.completeCopy_kept
    | with_reducible apply State.setGrp_kept
    | with_reducible apply kept_ite
    | with_reducible apply keeps_ite
    | with_reducible apply State.keeps_next
    | exact Foot.bit hm rfl
    | exact Foot.trans rfl hm
    | intro x (hx : State.kept m b x)
    | intro _ x (hx : State.kept m b x)
    | intro x _ (hx : State.kept m b x)
    | intro x _ (hx : State.kept m b x.1)
    | lift_lets
    | (intro x; clear_value x)
    | intro _
    | refine kept_pair (by assumption) ?_
    | split

theorem execUnitPlayout_keeps {m : Nat} {b : State} (g : Pg) (q : BitVec 32) (j : Nat) (now : Nat)
    (late : Option MemPort) (s : State) (hs : b.kept m s)
    (hm : Foot.sub 0xE052000000000000000000000000000000000000000000000888000000000000C02800090 m := by
      first | assumption | exact Foot.bit (by assumption) rfl | exact Foot.trans rfl (by assumption)) :
    b.keeps m (execUnitPlayout g q j now late s) := by
  unfold execUnitPlayout
  repeat' first
    | with_reducible assumption
    | with_reducible apply act_keeps
    | with_reducible apply State.count_kept
    | with_reducible apply State.playUnit_kept
    | with_reducible apply kept_ite
    | with_reducible apply keeps_ite
    | with_reducible apply State.keeps_next
    | exact Foot.bit hm rfl
    | exact Foot.trans rfl hm
    | intro x (hx : State.kept m b x)
    | intro _ x (hx : State.kept m b x)
    | intro x _ (hx : State.kept m b x)
    | intro x _ (hx : State.kept m b x.1)
    | lift_lets
    | (intro x; refine kept_cut (m := m) (b := b) (x := x) ?_ ?_ <;> [skip; (clear_value x; intro hx)])
    | intro _
    | refine kept_pair (by assumption) ?_
    | split

theorem State.showCmd_kept {m : Nat} {b : State} (s : State) (g : Nat) (hs : b.kept m s)
    (hm : Foot.sub 0x10000000000000000000000000000000000000000000000000000000000000000000000 m := by
      first | assumption | exact Foot.bit (by assumption) rfl | exact Foot.trans rfl (by assumption)) :
    b.kept m (State.showCmd s g) := by
  unfold State.showCmd
  repeat' first
    | with_reducible assumption
    | with_reducible apply State.wr_kept
    | with_reducible apply kept_ite
    | with_reducible apply keeps_ite
    | with_reducible apply State.keeps_next
    | exact Foot.bit hm rfl

theorem State.pgLockout_kept {m : Nat} {b : State} (s : State) (g : Nat) (hs : b.kept m s)
    (hm : Foot.sub 0x10000000000000000000000000000000000000000000000000000000000000002000000 m := by
      first | assumption | exact Foot.bit (by assumption) rfl | exact Foot.trans rfl (by assumption)) :
    b.kept m (State.pgLockout s g) := by
  unfold State.pgLockout
  repeat' first
    | with_reducible assumption
    | with_reducible apply State.showCmd_kept
    | with_reducible apply State.setGrp_kept
    | exact Foot.trans rfl hm

theorem State.pgForce_kept {m : Nat} {b : State} (s : State) (g : Nat) (p : Nat) (hs : b.kept m s)
    (hm : Foot.sub 0x10000000000000000000000000000000000000000000000000000000000000002000000 m := by
      first | assumption | exact Foot.bit (by assumption) rfl | exact Foot.trans rfl (by assumption)) :
    b.kept m (State.pgForce s g p) := by
  unfold State.pgForce
  repeat' first
    | with_reducible assumption
    | with_reducible apply State.showCmd_kept
    | with_reducible apply State.setGrp_kept
    | exact Foot.trans rfl hm

theorem State.pgClear_kept {m : Nat} {b : State} (s : State) (g : Nat) (which : Nat) (hs : b.kept m s)
    (hm : Foot.sub 0x10000000000000000000000000000000000000000000000000000000000000002000000 m := by
      first | assumption | exact Foot.bit (by assumption) rfl | exact Foot.trans rfl (by assumption)) :
    b.kept m (State.pgClear s g which) := by
  unfold State.pgClear
  repeat' first
    | with_reducible assumption
    | with_reducible apply State.showCmd_kept
    | with_reducible apply State.setGrp_kept
    | exact Foot.trans rfl hm

theorem State.refreshLeaders_kept {m : Nat} {b : State} (s : State) (hs : b.kept m s)
    (hm : Foot.sub 0x10000000000000000000000000000000000000000000000000000000000000000000000 m := by
      first | assumption | exact Foot.bit (by assumption) rfl | exact Foot.trans rfl (by assumption)) :
    b.kept m (State.refreshLeaders s) := by
  unfold State.refreshLeaders
  repeat' first
    | with_reducible assumption
    | with_reducible apply State.each_kept
    | with_reducible apply State.wr_kept
    | exact Foot.bit hm rfl
    | intro _ x (hx : State.kept m b x)

theorem State.mapGroup_kept {m : Nat} {b : State} (s : State) (g : Nat) (c : Nat) (hs : b.kept m s)
    (hm : Foot.sub 0x40000000010000000000000000000000000000000000000000000000000000000000000822800000 m := by
      first | assumption | exact Foot.bit (by assumption) rfl | exact Foot.trans rfl (by assumption)) :
    b.kept m (State.mapGroup s g c) := by
  unfold State.mapGroup
  repeat' first
    | with_reducible assumption
    | with_reducible apply State.mapClient_kept
    | with_reducible apply State.setGrp_kept
    | with_reducible apply State.wr_kept
    | with_reducible apply State.sendLockstep_kept
    | with_reducible apply kept_ite
    | with_reducible apply keeps_ite
    | with_reducible apply State.keeps_next
    | exact Foot.bit hm rfl
    | exact Foot.trans rfl hm
    | intro x (hx : State.kept m b x)
    | intro _ x (hx : State.kept m b x)
    | intro x _ (hx : State.kept m b x)
    | intro x _ (hx : State.kept m b x.1)
    | lift_lets
    | intro _

theorem execGmpCmUpdate_keeps {m : Nat} {b : State} (c : Client) (target : Nat) (data : List Byte) (s : State)
    (hs : b.kept m s)
    (hm : Foot.sub 0x40000000010000000000000000000000000000000000000000000000000000000000000822800000 m := by
      first | assumption | exact Foot.bit (by assumption) rfl | exact Foot.trans rfl (by assumption)) :
    b.keeps m (execGmpCmUpdate c target data s) := by
  unfold execGmpCmUpdate
  repeat' first
    | with_reducible assumption
    | with_reducible apply act_keeps
    | with_reducible apply State.setCli_kept
    | with_reducible apply State.setCm_kept
    | with_reducible apply State.mapGroup_kept
    | with_reducible apply kept_ite
    | with_reducible apply keeps_ite
    | with_reducible apply State.keeps_next
    | exact Foot.bit hm rfl
    | exact Foot.trans rfl hm
    | intro x (hx : State.kept m b x)
    | intro _ x (hx : State.kept m b x)
    | intro x _ (hx : State.kept m b x)
    | intro x _ (hx : State.kept m b x.1)
    | lift_lets
    | (intro x; refine kept_cut (m := m) (b := b) (x := x) ?_ ?_ <;> [skip; (clear_value x; intro hx)])
    | (intro x; clear_value x)
    | intro _
    | refine kept_pair (by assumption) ?_
    | split

theorem State.loseLockstep_kept {m : Nat} {b : State} (s : State) (g : Nat) (hs : b.kept m s)
    (hm : Foot.sub 0x12000000000000000000000000000000000000000000000888000000000000C00000090 m := by
      first | assumption | exact Foot.bit (by assumption) rfl | exact Foot.trans rfl (by assumption)) :
    b.kept m (State.loseLockstep s g) := by
  unfold State.loseLockstep
  repeat' first
    | with_reducible assumption
    | with_reducible apply State.raise_kept
    | with_reducible apply State.wr_kept
    | with_reducible apply kept_ite
    | with_reducible apply keeps_ite
    | with_reducible apply State.keeps_next
    | exact Foot.bit hm rfl
    | exact Foot.trans rfl hm
    | intro x (hx : State.kept m b x)
    | intro _ x (hx : State.kept m b x)
    | intro x _ (hx : State.kept m b x)
    | intro x _ (hx : State.kept m b x.1)
    | lift_lets
    | intro _

theorem State.alignWords_kept {m : Nat} {b : State} (s : State) (g : Nat) (c : Nat) (ofs : Nat) (hs : b.kept m s)
    (hm : Foot.sub 0x2800000 m := by
      first | assumption | exact Foot.bit (by assumption) rfl | exact Foot.trans rfl (by assumption)) :
    b.kept m (State.alignWords s g c ofs).1 := by
  unfold State.alignWords
  lift_lets
  intro x d _ _ skip
  have hk : ∀ k, b.kept m (skip k) := fun k => State.setGrp_kept _ _ _ (State.setCli_kept _ _ _ hs)
  clear_value skip
  split
  · exact State.setGrp_kept _ _ _ hs
  · split
    · exact hk _
    · split
      · exact hk _
      · exact hs

theorem execLockstepRecordReceived_keeps {m : Nat} {b : State} (r : List Byte) (lag : Nat) (s : State)
    (hs : b.kept m s)
    (hm : Foot.sub 0x100000000032000000000000000000000000000000000000000000000888000000000000C22800090 m := by
      first | assumption | exact Foot.bit (by assumption) rfl | exact Foot.trans rfl (by assumption)) :
    b.keeps m (execLockstepRecordReceived r lag s) := by
  unfold execLockstepRecordReceived
  repeat' first
    | with_reducible assumption
    | with_reducible apply act_keeps
    | with_reducible apply State.lockstepTaken_kept
    | with_reducible apply State.count_kept
    | with_reducible apply State.alignWords_kept
    | with_reducible apply State.loseLockstep_kept
    | with_reducible apply State.mapClient_kept
    | with_reducible apply State.setCli_kept
    | with_reducible apply State.setGrp_kept
    | with_reducible apply State.wr_kept
    | with_reducible apply kept_ite
    | with_reducible apply keeps_ite
    | with_reducible apply State.keeps_next
    | exact Foot.bit hm rfl
    | exact Foot.trans rfl hm
    | intro x (hx : State.kept m b x)
    | intro _ x (hx : State.kept m b x)
    | intro x _ (hx : State.kept m b x)
    | intro x _ (hx : State.kept m b x.1)
    | lift_lets
    | (intro x; clear_value x)
    | intro _
    | with_reducible apply kept_lanyard

theorem execLockstepLoss_keeps {m : Nat} {b : State} (g : Pg) (s : State) (hs : b.kept m s)
    (hm : Foot.sub 0x12000000000000000000000000000000000000000000000888000000000000C00000090 m := by
      first | assumption | exact Foot.bit (by assumption) rfl | exact Foot.trans rfl (by assumption)) :
    b.keeps m (execLockstepLoss g s) := by
  unfold execLockstepLoss
  repeat' first
    | with_reducible assumption
    | with_reducible apply act_keeps
    | with_reducible apply State.loseLockstep_kept
    | with_reducible apply kept_ite
    | with_reducible apply keeps_ite
    | with_reducible apply State.keeps_next
    | exact Foot.bit hm rfl
    | exact Foot.trans rfl hm
    | intro x (hx : State.kept m b x)
    | intro _ x (hx : State.kept m b x)
    | intro x _ (hx : State.kept m b x)
    | intro x _ (hx : State.kept m b x.1)
    | lift_lets
    | intro _

theorem State.takeQ_kept {m : Nat} {b : State} (s : State) (n : Nat) (hs : b.kept m s)
    (hm : Foot.sub 0x2000000 m := by
      first | assumption | exact Foot.bit (by assumption) rfl | exact Foot.trans rfl (by assumption)) :
    b.kept m (State.takeQ s n) := by
  unfold State.takeQ
  repeat' first
    | with_reducible assumption
    | with_reducible apply State.each_kept
    | with_reducible apply State.setGrp_kept
    | with_reducible apply kept_ite
    | intro _ x (hx : State.kept m b x)
    | lift_lets
    | (intro x; clear_value x)
    | intro _

theorem State.dropHeld_kept {m : Nat} {b : State} (s : State) (g : Nat) (hs : b.kept m s)
    (hm : Foot.sub 0xE052000000000000000000000000000000000000000000000888000000000000C02800090 m := by
      first | assumption | exact Foot.bit (by assumption) rfl | exact Foot.trans rfl (by assumption)) :
    b.kept m (State.dropHeld s g) := by
  unfold State.dropHeld
  repeat' first
    | with_reducible assumption
    | with_reducible apply State.playUnit_kept
    | with_reducible apply State.setGrp_kept
    | with_reducible apply kept_foldl
    | with_reducible apply kept_foldl_fst
    | with_reducible apply kept_ite
    | with_reducible apply keeps_ite
    | with_reducible apply State.keeps_next
    | exact Foot.bit hm rfl
    | exact Foot.trans rfl hm
    | intro x (hx : State.kept m b x)
    | intro _ x (hx : State.kept m b x)
    | intro x _ (hx : State.kept m b x)
    | intro x _ (hx : State.kept m b x.1)
    | lift_lets
    | intro _

theorem State.regionGroups_kept {m : Nat} {b : State} (s : State) (r : Nat) (ready : Bool) (hs : b.kept m s)
    (hm : Foot.sub 0xE072000000000000000000000000000000000000000000000888000000000000C02800090 m := by
      first | assumption | exact Foot.bit (by assumption) rfl | exact Foot.trans rfl (by assumption)) :
    b.kept m (State.regionGroups s r ready) := by
  unfold State.regionGroups
  repeat' first
    | with_reducible assumption
    | with_reducible apply State.each_kept
    | with_reducible apply State.align_kept
    | with_reducible apply State.raise_kept
    | with_reducible apply State.wr_kept
    | with_reducible apply State.dropHeld_kept
    | with_reducible apply kept_ite
    | with_reducible apply keeps_ite
    | with_reducible apply State.keeps_next
    | exact Foot.bit hm rfl
    | exact Foot.trans rfl hm
    | intro x (hx : State.kept m b x)
    | intro _ x (hx : State.kept m b x)
    | intro x _ (hx : State.kept m b x)
    | intro x _ (hx : State.kept m b x.1)
    | lift_lets
    | intro _

theorem afterBend_kept {m : Nat} {b : State} (old : State) (new : State) (hold : b.kept m old) (hnew : b.kept m new)
    (hm : Foot.sub 0xE032000000000000000000000000000000000000000000000888000000000000C02800090 m := by
      first | assumption | exact Foot.bit (by assumption) rfl | exact Foot.trans rfl (by assumption)) :
    b.kept m (afterBend old new) := by
  unfold afterBend
  repeat' first
    | with_reducible assumption
    | with_reducible apply State.each_kept
    | with_reducible apply State.setReg_kept
    | with_reducible apply State.setGrp_kept
    | with_reducible apply State.refreshEgress_kept
    | with_reducible apply State.refreshPaths_kept
    | with_reducible apply State.refreshLeaders_kept
    | with_reducible apply kept_ite
    | exact Foot.bit hm rfl
    | exact Foot.trans rfl hm
    | intro _ x (hx : State.kept m b x)
    | lift_lets
    | (intro x; refine kept_cut (m := m) (b := b) (x := x) ?_ ?_ <;> [skip; (clear_value x; intro hx)])
    | intro _

theorem State.bendSecond_kept {m : Nat} {b : State} (s : State) (hs : b.kept m s)
    (hm : Foot.sub 0x20000000000000000000000000000000000000000000000000000000000000002000000 m := by
      first | assumption | exact Foot.bit (by assumption) rfl | exact Foot.trans rfl (by assumption)) :
    b.kept m (State.bendSecond s) := by
  unfold State.bendSecond
  repeat' first
    | with_reducible assumption
    | with_reducible apply State.each_kept
    | with_reducible apply State.setGrp_kept
    | with_reducible apply State.wr_kept
    | exact Foot.bit hm rfl
    | exact Foot.trans rfl hm
    | intro _ x (hx : State.kept m b x)

end Sys2Proof.Machine
end

