-- ==== Sys2Proof/Laws/KeptSeizing.lean ====
section
/-! SUPPORT. What every operation of Machine/Seizing.lean keeps: see Laws/Kept.lean. -/

-- The proofs of the whole text do not run side by side: their memory adds up.
set_option Elab.async false

namespace Sys2Proof.Machine

open Sys2Proof

theorem State.setKc_kept {m : Nat} {b : State} (s : State) (k : Nat) (x : KcInt) (hs : b.kept m s)
    (hm : Foot.sub 0x4000000 m := by
      first | assumption | exact Foot.bit (by assumption) rfl | exact Foot.trans rfl (by assumption)) :
    b.kept m (State.setKc s k x) := by
  unfold State.setKc
  repeat' first
    | with_reducible assumption
    | exact Foot.bit hm rfl
    | with_reducible apply kept_kcs'

theorem State.setHit_kept {m : Nat} {b : State} (s : State) (n : Nat) (x : HitchInt) (hs : b.kept m s)
    (hm : Foot.sub 0x10000000 m := by
      first | assumption | exact Foot.bit (by assumption) rfl | exact Foot.trans rfl (by assumption)) :
    b.kept m (State.setHit s n x) := by
  unfold State.setHit
  repeat' first
    | with_reducible assumption
    | exact Foot.bit hm rfl
    | with_reducible apply kept_hitch'

theorem State.kcEvent_kept {m : Nat} {b : State} (s : State) (k : Nat) (f : Fld) (code : Nat) (hs : b.kept m s)
    (hm : Foot.sub 0x888000000000000C00000090 m := by
      first | assumption | exact Foot.bit (by assumption) rfl | exact Foot.trans rfl (by assumption)) (hmf : m.testBit (regBit f.id) = true := by
      first | assumption | exact Foot.bit (by assumption) rfl | exact Foot.trans rfl (by assumption)) :
    b.kept m (State.kcEvent s k f code) := by
  unfold State.kcEvent
  repeat' first
    | with_reducible assumption
    | with_reducible apply State.raise_kept

theorem State.refreshKc_kept {m : Nat} {b : State} (s : State) (k : Nat) (hs : b.kept m s)
    (hm : Foot.sub 0xE032000000000000000000000000000000000000000000000888000000000000C00800090 m := by
      first | assumption | exact Foot.bit (by assumption) rfl | exact Foot.trans rfl (by assumption)) :
    b.kept m (State.refreshKc s k) := by
  unfold State.refreshKc
  repeat' first
    | with_reducible assumption
    | with_reducible apply State.each_kept
    | with_reducible apply State.refreshEgress_kept
    | with_reducible apply State.refreshPaths_kept
    | with_reducible apply kept_ite
    | exact Foot.trans rfl hm
    | intro _ x (hx : State.kept m b x)
    | lift_lets
    | intro _
    | split

theorem State.queueTag_kept {m : Nat} {b : State} (s : State) (n : Nat) (rec : List Byte) (hs : b.kept m s)
    (hm : Foot.sub 0x81000000000000000000000000000000000000000000000000000000010000000 m := by
      first | assumption | exact Foot.bit (by assumption) rfl | exact Foot.trans rfl (by assumption)) :
    b.kept m (State.queueTag s n rec) := by
  unfold State.queueTag
  repeat' first
    | with_reducible assumption
    | with_reducible apply State.wr_kept
    | with_reducible apply State.setHit_kept
    | with_reducible apply State.count_kept
    | with_reducible apply kept_ite
    | exact Foot.bit hm rfl
    | exact Foot.trans rfl hm
    | lift_lets
    | intro _

theorem State.switchTx_kept {m : Nat} {b : State} (s : State) (k : Nat) (hs : b.kept m s)
    (hm : Foot.sub 0x120000000000000000000000000000000000000000000888000000000000C04000090 m := by
      first | assumption | exact Foot.bit (by assumption) rfl | exact Foot.trans rfl (by assumption)) :
    b.kept m (State.switchTx s k) := by
  unfold State.switchTx
  repeat' first
    | with_reducible assumption
    | with_reducible apply State.setKc_kept
    | with_reducible apply State.kcEvent_kept
    | with_reducible apply State.wr_kept
    | exact Foot.bit hm rfl
    | exact Foot.trans rfl hm

theorem State.advanceTx_kept {m : Nat} {b : State} (s : State) (k : Nat) (next : Nat) (hs : b.kept m s)
    (hm : Foot.sub 0x120000000000000000000000000000000000000000000888000000000000C04000090 m := by
      first | assumption | exact Foot.bit (by assumption) rfl | exact Foot.trans rfl (by assumption)) :
    b.kept m (State.advanceTx s k next) := by
  unfold State.advanceTx
  lift_lets
  intro u x w t
  have hk : b.kept m u := State.wr_kept _ _ _ _ _ _ hs
  have ht : b.kept m t := kept_ite (fun _ => State.kcEvent_kept _ _ _ _ (State.setKc_kept _ _ _ hk)) fun _ => hk
  clear_value t
  repeat' first
    | with_reducible assumption
    | with_reducible apply State.switchTx_kept
    | with_reducible apply State.wr_kept
    | with_reducible apply State.kcEvent_kept
    | with_reducible apply kept_ite
    | with_reducible apply keeps_ite
    | with_reducible apply State.keeps_next
    | exact Foot.bit (by assumption) rfl
    | exact Foot.trans rfl (by assumption)
    | intro x (hx : State.kept m b x)
    | intro _ x (hx : State.kept m b x)
    | intro x _ (hx : State.kept m b x)
    | intro x _ (hx : State.kept m b x.1)
    | lift_lets
    | (intro x; refine kept_cut (m := m) (b := b) (x := x) ?_ ?_ <;> [skip; (clear_value x; intro hx)])
    | (intro x; clear_value x)
    | intro _
    | exact kept_pair (by assumption) (by assumption)
    | refine kept_pair (by assumption) ?_
    | split

theorem State.closeTx_kept {m : Nat} {b : State} (s : State) (k : Nat) (hs : b.kept m s)
    (hm : Foot.sub 0x320081000000000000000000000000000000000000000888000000000000C14000090 m := by
      first | assumption | exact Foot.bit (by assumption) rfl | exact Foot.trans rfl (by assumption)) :
    b.kept m (State.closeTx s k) := by
  unfold State.closeTx
  dsimp only
  split
  · exact State.advanceTx_kept _ _ _ (State.count_kept _ _ _ _ _ _ (State.queueTag_kept _ _ _ (State.setKc_kept _ _ _ hs)))
  · exact hs

theorem execSegmentClose_keeps {m : Nat} {b : State} (k : Kc) (s : State) (hs : b.kept m s)
    (hm : Foot.sub 0x320081000000000000000000000000000000000000000888000000000000C14000090 m := by
      first | assumption | exact Foot.bit (by assumption) rfl | exact Foot.trans rfl (by assumption)) :
    b.keeps m (execSegmentClose k s) := by
  unfold execSegmentClose
  repeat' first
    | with_reducible assumption
    | with_reducible apply act_keeps
    | with_reducible apply State.closeTx_kept
    | with_reducible apply kept_ite
    | with_reducible apply keeps_ite
    | with_reducible apply State.keeps_next
    | exact Foot.bit hm rfl
    | exact Foot.trans rfl hm
    | intro x (hx : State.kept m b x)

theorem State.openSegments_kept {m : Nat} {b : State} (s : State) (k : Nat) (load : Load) (p : Nat) (hs : b.kept m s)
    (hm : Foot.sub 0x4000000 m := by
      first | assumption | exact Foot.bit (by assumption) rfl | exact Foot.trans rfl (by assumption)) :
    b.kept m (State.openSegments s k load p) := by
  unfold State.openSegments
  repeat' first
    | with_reducible assumption
    | with_reducible apply State.setKc_kept

theorem State.showRxNext_kept {m : Nat} {b : State} (s : State) (k : Nat) (hs : b.kept m s)
    (hm : Foot.sub 0x100000000000000000000000000000000000000000000000000000000000000000000 m := by
      first | assumption | exact Foot.bit (by assumption) rfl | exact Foot.trans rfl (by assumption)) :
    b.kept m (State.showRxNext s k) := by
  unfold State.showRxNext
  repeat' first
    | with_reducible assumption
    | with_reducible apply State.wr_kept
    | exact Foot.bit hm rfl

theorem State.passSegment_kept {m : Nat} {b : State} (s : State) (k : Option Nat) (n : Nat) (c : Nat) (q : Nat)
    (j : Nat) (inv : Option Nat) (words : List RxByte) (hs : b.kept m s) (hm : Foot.sub 0x2800000 m := by
      first | assumption | exact Foot.bit (by assumption) rfl | exact Foot.trans rfl (by assumption)) :
    b.kept m (State.passSegment s k n c q j inv words) := by
  unfold State.passSegment
  repeat' first
    | with_reducible assumption
    | with_reducible apply State.takeWords_kept
    | with_reducible apply State.copyIn_kept
    | with_reducible apply kept_ite
    | with_reducible apply keeps_ite
    | with_reducible apply State.keeps_next
    | exact Foot.bit hm rfl
    | exact Foot.trans rfl hm
    | intro x (hx : State.kept m b x)
    | intro _ x (hx : State.kept m b x)
    | intro x _ (hx : State.kept m b x)
    | intro x _ (hx : State.kept m b x.1)
    | lift_lets
    | intro _
    | refine kept_pair (by assumption) ?_
    | split

theorem State.leafFeed_kept {m : Nat} {b : State} (s : State) (n : Nat) (leaf : Nat) (bytes : List RxByte)
    (hs : b.kept m s) (hm : Foot.sub 0x800000 m := by
      first | assumption | exact Foot.bit (by assumption) rfl | exact Foot.trans rfl (by assumption)) :
    b.kept m (State.leafFeed s n leaf bytes) := by
  unfold State.leafFeed
  repeat' first
    | with_reducible assumption
    | with_reducible apply State.each_kept
    | with_reducible apply State.setCli_kept
    | with_reducible apply kept_ite
    | with_reducible apply keeps_ite
    | with_reducible apply State.keeps_next
    | exact Foot.bit hm rfl
    | exact Foot.trans rfl hm
    | intro x (hx : State.kept m b x)
    | intro _ x (hx : State.kept m b x)

theorem State.releaseSegment_kept {m : Nat} {b : State} (s : State) (k : Nat) (w : SegRec) (ok : Bool)
    (hs : b.kept m s) (hm : Foot.sub 0x2800000 m := by
      first | assumption | exact Foot.bit (by assumption) rfl | exact Foot.trans rfl (by assumption)) :
    b.kept m (State.releaseSegment s k w ok) := by
  unfold State.releaseSegment
  repeat' first
    | with_reducible assumption
    | with_reducible apply State.leafFeed_kept
    | with_reducible apply State.passSegment_kept
    | with_reducible apply kept_ite
    | with_reducible apply keeps_ite
    | with_reducible apply State.keeps_next
    | exact Foot.bit hm rfl
    | exact Foot.trans rfl hm
    | intro x (hx : State.kept m b x)
    | intro _ x (hx : State.kept m b x)
    | intro x _ (hx : State.kept m b x)
    | intro x _ (hx : State.kept m b x.1)
    | lift_lets
    | intro _

theorem State.flushHeld_kept {m : Nat} {b : State} (s : State) (k : Nat) (hs : b.kept m s)
    (hm : Foot.sub 0x6800000 m := by
      first | assumption | exact Foot.bit (by assumption) rfl | exact Foot.trans rfl (by assumption)) :
    b.kept m (State.flushHeld s k) := by
  unfold State.flushHeld
  repeat' first
    | with_reducible assumption
    | with_reducible apply State.releaseSegment_kept
    | with_reducible apply State.setKc_kept
    | with_reducible apply kept_foldl
    | with_reducible apply kept_foldl_fst
    | with_reducible apply kept_ite
    | with_reducible apply keeps_ite
    | with_reducible apply State.keeps_next
    | exact Foot.bit hm rfl
    | exact Foot.trans rfl hm
    | intro x (hx : State.kept m b x)
    | intro _ x (hx : State.kept m b x)
    | intro x _ (hx : State.kept m b x)

theorem State.hunt_kept {m : Nat} {b : State} (s : State) (k : Nat) (hs : b.kept m s)
    (hm : Foot.sub 0xE032100000000000000000000000000000000000000000000888000000000000C06800090 m := by
      first | assumption | exact Foot.bit (by assumption) rfl | exact Foot.trans rfl (by assumption)) :
    b.kept m (State.hunt s k) := by
  unfold State.hunt
  repeat' first
    | with_reducible assumption
    | with_reducible apply State.refreshKc_kept
    | with_reducible apply State.wr_kept
    | with_reducible apply State.flushHeld_kept
    | with_reducible apply kept_ite
    | with_reducible apply keeps_ite
    | with_reducible apply State.keeps_next
    | exact Foot.bit hm rfl
    | exact Foot.trans rfl hm

theorem State.settleHeld_kept {m : Nat} {b : State} (s : State) (k : Nat) (hs : b.kept m s)
    (hm : Foot.sub 0x6800000 m := by
      first | assumption | exact Foot.bit (by assumption) rfl | exact Foot.trans rfl (by assumption)) :
    b.kept m (State.settleHeld s k) := by
  unfold State.settleHeld
  repeat' first
    | with_reducible assumption
    | with_reducible apply State.flushHeld_kept
    | with_reducible apply kept_ite
    | with_reducible apply keeps_ite
    | with_reducible apply State.keeps_next
    | exact Foot.bit hm rfl
    | exact Foot.trans rfl hm
    | intro x (hx : State.kept m b x)
    | intro _ x (hx : State.kept m b x)
    | intro x _ (hx : State.kept m b x)
    | intro x _ (hx : State.kept m b x.1)
    | lift_lets
    | intro _

theorem State.stompClient_kept {m : Nat} {b : State} (s : State) (k : Nat) (inv : Nat) (hs : b.kept m s)
    (hm : Foot.sub 0x8000000000000000000000000000000000000000000000000000000000000000806800000 m := by
      first | assumption | exact Foot.bit (by assumption) rfl | exact Foot.trans rfl (by assumption)) :
    b.kept m (State.stompClient s k inv) := by
  unfold State.stompClient
  lift_lets
  intro u n _ v
  have hv : b.kept m v := kept_ite (fun _ => hs) fun _ => State.setKc_kept _ _ _ hs
  clear_value v
  refine kept_ite (fun _ => State.each_kept _ _ _ hv (fun _ _ h => State.endLeaf_kept _ _ _ h)) fun _ => ?_
  split
  · exact State.endFrame_kept _ _ hv
  · exact State.setGrp_kept _ _ _ hv

theorem State.kcFailure_kept {m : Nat} {b : State} (s : State) (k : Nat) (inv : Nat) (hs : b.kept m s)
    (hm : Foot.sub 0xE032120000000000000000000000000000000000000000000888000000000000C06800090 m := by
      first | assumption | exact Foot.bit (by assumption) rfl | exact Foot.trans rfl (by assumption)) :
    b.kept m (State.kcFailure s k inv) := by
  unfold State.kcFailure
  lift_lets
  intro n u x v w
  have hu : b.kept m u := State.wr_kept _ _ _ _ _ _ (State.wr_kept _ _ _ _ _ _ hs)
  have hv : b.kept m v := kept_ite (fun _ => hu) fun _ => State.kcEvent_kept _ _ _ _ (State.setKc_kept _ _ _ hu)
  clear_value v
  have hw : b.kept m w := State.stompClient_kept _ _ _ hv
  clear_value w
  exact kept_ite (fun _ => State.refreshKc_kept _ _ (State.kcEvent_kept _ _ _ _ (State.wr_kept _ _ _ _ _ _ hw))) fun _ => hw

theorem State.missingTag_kept {m : Nat} {b : State} (s : State) (k : Nat) (w : SegRec) (hs : b.kept m s)
    (hm : Foot.sub 0xE032320000000000000000000000000000000000000000000888000000000000C06800090 m := by
      first | assumption | exact Foot.bit (by assumption) rfl | exact Foot.trans rfl (by assumption)) :
    b.kept m (State.missingTag s k w) := by
  unfold State.missingTag
  repeat' first
    | with_reducible assumption
    | with_reducible apply State.releaseSegment_kept
    | with_reducible apply State.count_kept
    | with_reducible apply State.kcFailure_kept
    | with_reducible apply kept_ite
    | with_reducible apply keeps_ite
    | with_reducible apply State.keeps_next
    | exact Foot.bit hm rfl
    | exact Foot.trans rfl hm
    | intro x (hx : State.kept m b x)
    | intro _ x (hx : State.kept m b x)
    | intro x _ (hx : State.kept m b x)
    | intro x _ (hx : State.kept m b x.1)
    | lift_lets
    | intro _

theorem State.judgeTag_kept {m : Nat} {b : State} (s : State) (k : Nat) (w : SegRec) (tag : List Byte)
    (hs : b.kept m s)
    (hm : Foot.sub 0xE032320000000000000000000000000000000000000000000888000000000000C06800090 m := by
      first | assumption | exact Foot.bit (by assumption) rfl | exact Foot.trans rfl (by assumption)) :
    b.kept m (State.judgeTag s k w tag) := by
  unfold State.judgeTag
  repeat' first
    | with_reducible assumption
    | with_reducible apply State.releaseSegment_kept
    | with_reducible apply State.count_kept
    | with_reducible apply State.wr_kept
    | with_reducible apply State.setKc_kept
    | with_reducible apply State.kcFailure_kept
    | with_reducible apply kept_ite
    | with_reducible apply keeps_ite
    | with_reducible apply State.keeps_next
    | exact Foot.bit hm rfl
    | exact Foot.trans rfl hm
    | intro x (hx : State.kept m b x)
    | intro _ x (hx : State.kept m b x)
    | intro x _ (hx : State.kept m b x)
    | intro x _ (hx : State.kept m b x.1)
    | lift_lets
    | (intro x; refine kept_cut (m := m) (b := b) (x := x) ?_ ?_ <;> [skip; (clear_value x; intro hx)])
    | (intro x; clear_value x)
    | intro _

theorem State.switchRx_kept {m : Nat} {b : State} (s : State) (k : Nat) (hs : b.kept m s)
    (hm : Foot.sub 0xE032120000000000000000000000000000000000000000000888000000000000C06800090 m := by
      first | assumption | exact Foot.bit (by assumption) rfl | exact Foot.trans rfl (by assumption)) :
    b.kept m (State.switchRx s k) := by
  unfold State.switchRx
  repeat' first
    | with_reducible assumption
    | with_reducible apply State.setKc_kept
    | with_reducible apply State.kcEvent_kept
    | with_reducible apply State.wr_kept
    | with_reducible apply State.hunt_kept
    | with_reducible apply kept_ite
    | exact Foot.bit hm rfl
    | exact Foot.trans rfl hm
    | lift_lets
    | intro _

theorem State.advanceRx_kept {m : Nat} {b : State} (s : State) (k : Nat) (hs : b.kept m s)
    (hm : Foot.sub 0xE032120000000000000000000000000000000000000000000888000000000000C06800090 m := by
      first | assumption | exact Foot.bit (by assumption) rfl | exact Foot.trans rfl (by assumption)) :
    b.kept m (State.advanceRx s k) := by
  unfold State.advanceRx
  lift_lets
  intro next _ _ v
  have hv : b.kept m v := kept_ite (fun _ => State.kcEvent_kept _ _ _ _ (State.setKc_kept _ _ _ hs)) fun _ => hs
  clear_value v
  refine kept_ite (fun _ => kept_ite (fun _ => State.switchRx_kept _ _ hv) fun _ => kept_ite (fun _ => ?_) fun _ => hv) fun _ => hv
  exact State.refreshKc_kept _ _ (State.kcEvent_kept _ _ _ _ (State.wr_kept _ _ _ _ _ _ (State.flushHeld_kept _ _ hv)))

theorem State.placeSegment_kept {m : Nat} {b : State} (s : State) (k : Nat) (w : SegRec) (hs : b.kept m s)
    (hm : Foot.sub 0xE032120000000000000000000000000000000000000000000888000000000000C06800090 m := by
      first | assumption | exact Foot.bit (by assumption) rfl | exact Foot.trans rfl (by assumption)) :
    b.kept m (State.placeSegment s k w) := by
  unfold State.placeSegment
  exact kept_ite (fun _ => State.advanceRx_kept _ _ (State.setKc_kept _ _ _ hs)) fun _ => hs

theorem State.closeRx_kept {m : Nat} {b : State} (s : State) (k : Nat) (j : Nat) (marked : Bool) (text : List Byte)
    (q : Nat) (words : List RxByte) (hs : b.kept m s)
    (hm : Foot.sub 0xE032120000000000000000000000000000000000000000000888000000000000C06800090 m := by
      first | assumption | exact Foot.bit (by assumption) rfl | exact Foot.trans rfl (by assumption)) :
    b.kept m (State.closeRx s k j marked text q words) := by
  unfold State.closeRx
  repeat' first
    | with_reducible assumption
    | with_reducible apply State.setKc_kept
    | with_reducible apply State.placeSegment_kept
    | with_reducible apply kept_ite
    | with_reducible apply keeps_ite
    | with_reducible apply State.keeps_next
    | exact Foot.bit hm rfl
    | exact Foot.trans rfl hm
    | intro x (hx : State.kept m b x)
    | intro _ x (hx : State.kept m b x)
    | intro x _ (hx : State.kept m b x)
    | intro x _ (hx : State.kept m b x.1)
    | lift_lets
    | (intro x; clear_value x)
    | intro _

theorem State.segmentIn_kept {m : Nat} {b : State} (s : State) (k : Option Nat) (n : Nat) (c : Nat) (q : Nat)
    (j : Nat) (text : List RxByte) (words : List RxByte) (hs : b.kept m s)
    (hm : Foot.sub 0xE032120000000000000000000000000000000000000000000888000000000000C06800090 m := by
      first | assumption | exact Foot.bit (by assumption) rfl | exact Foot.trans rfl (by assumption)) :
    b.kept m (State.segmentIn s k n c q j text words) := by
  unfold State.segmentIn
  repeat' first
    | with_reducible assumption
    | with_reducible apply State.passSegment_kept
    | with_reducible apply State.showRxNext_kept
    | with_reducible apply State.closeRx_kept
    | with_reducible apply kept_ite
    | with_reducible apply keeps_ite
    | with_reducible apply State.keeps_next
    | exact Foot.bit hm rfl
    | exact Foot.trans rfl hm
    | intro x (hx : State.kept m b x)
    | intro _ x (hx : State.kept m b x)
    | intro x _ (hx : State.kept m b x)
    | intro x _ (hx : State.kept m b x.1)
    | lift_lets
    | intro _
    | refine kept_pair (by assumption) ?_
    | split

theorem State.containerWord_kept {m : Nat} {b : State} (s : State) (n : Nat) (x : ContRx) (w : List RxByte)
    (hs : b.kept m s)
    (hm : Foot.sub 0xE032120000000000000000000000000000000000000000000888000000000000C06800090 m := by
      first | assumption | exact Foot.bit (by assumption) rfl | exact Foot.trans rfl (by assumption)) :
    b.kept m (State.containerWord s n x w).1 := by
  unfold State.containerWord
  repeat' first
    | with_reducible assumption
    | with_reducible apply State.takeCow_kept
    | with_reducible apply State.setGrp_kept
    | with_reducible apply State.takeWord_kept
    | with_reducible apply State.segmentIn_kept
    | with_reducible apply kept_ite
    | with_reducible apply keeps_ite
    | with_reducible apply State.keeps_next
    | exact Foot.bit hm rfl
    | exact Foot.trans rfl hm
    | intro x (hx : State.kept m b x)
    | intro _ x (hx : State.kept m b x)
    | intro x _ (hx : State.kept m b x)
    | intro x _ (hx : State.kept m b x.1)
    | lift_lets
    | (intro x; refine kept_cut (m := m) (b := b) (x := x) ?_ ?_ <;> [skip; (clear_value x; intro hx)])
    | (intro x; clear_value x)
    | intro _
    | refine kept_pair (by assumption) ?_
    | split

theorem State.syncTag_kept {m : Nat} {b : State} (s : State) (k : Nat) (idx : Nat) (inv : Nat) (hs : b.kept m s)
    (hm : Foot.sub 0xE032320000000000000000000000000000000000000000000888000000000000C06800090 m := by
      first | assumption | exact Foot.bit (by assumption) rfl | exact Foot.trans rfl (by assumption)) :
    b.kept m (State.syncTag s k idx inv) := by
  unfold State.syncTag
  lift_lets
  intro x j own hunted u _ v w
  have hu : b.kept m u := kept_ite (fun _ => State.switchRx_kept _ _ hs) fun _ => hs
  clear_value u
  have hv : b.kept m v := State.wr_kept _ _ _ _ _ _ (State.setKc_kept _ _ _ hu)
  clear_value v
  have hw : b.kept m w := kept_foldl _ _ (fun _ _ h => State.placeSegment_kept _ _ _ h) (State.advanceRx_kept _ _ hv)
  clear_value w
  exact kept_ite (fun _ => State.refreshKc_kept _ _ hw)
    fun _ => kept_ite (fun _ => State.kcFailure_kept _ _ _ (State.count_kept _ _ _ _ _ _ hs)) fun _ => hs

theorem State.expectTag_kept {m : Nat} {b : State} (s : State) (k : Nat) (idx : Nat) (inv : Nat) (tag : List Byte)
    (hs : b.kept m s)
    (hm : Foot.sub 0xE032320000000000000000000000000000000000000000000888000000000000C06800090 m := by
      first | assumption | exact Foot.bit (by assumption) rfl | exact Foot.trans rfl (by assumption)) :
    b.kept m (State.expectTag s k idx inv tag) := by
  unfold State.expectTag
  repeat' first
    | with_reducible assumption
    | with_reducible apply State.setKc_kept
    | with_reducible apply State.judgeTag_kept
    | with_reducible apply State.missingTag_kept
    | with_reducible apply State.kcFailure_kept
    | with_reducible apply State.count_kept
    | with_reducible apply kept_foldl
    | with_reducible apply kept_foldl_fst
    | with_reducible apply kept_ite
    | with_reducible apply keeps_ite
    | with_reducible apply State.keeps_next
    | exact Foot.bit hm rfl
    | exact Foot.trans rfl hm
    | intro x (hx : State.kept m b x)
    | intro _ x (hx : State.kept m b x)
    | intro x _ (hx : State.kept m b x)
    | intro x _ (hx : State.kept m b x.1)
    | lift_lets
    | (intro x; refine kept_cut (m := m) (b := b) (x := x) ?_ ?_ <;> [skip; (clear_value x; intro hx)])
    | (intro x; clear_value x)
    | intro _
    | refine kept_pair (by assumption) ?_
    | split

theorem State.takeTag_kept {m : Nat} {b : State} (s : State) (n : Nat) (r : List Byte) (hs : b.kept m s)
    (hm : Foot.sub 0xE032320000000000000000000000000000000000000000000888000000000000C06800090 m := by
      first | assumption | exact Foot.bit (by assumption) rfl | exact Foot.trans rfl (by assumption)) :
    b.kept m (State.takeTag s n r) := by
  unfold State.takeTag
  apply kept_ite <;> intro _
  · apply State.showRxNext_kept <;> try first | exact Foot.trans rfl hm | exact Foot.bit hm rfl
    split
    · exact State.syncTag_kept _ _ _ _ hs
    · exact State.settleHeld_kept _ _ (State.expectTag_kept _ _ _ _ _ hs)
    · exact hs
  · exact hs

theorem State.seizingFrame_kept {m : Nat} {b : State} (s : State) (n : Nat) (tags : List (List Byte))
    (hs : b.kept m s)
    (hm : Foot.sub 0xE032320000000000000000000000000000000000000000000888000000000000C06800090 m := by
      first | assumption | exact Foot.bit (by assumption) rfl | exact Foot.trans rfl (by assumption)) :
    b.kept m (State.seizingFrame s n tags) := by
  unfold State.seizingFrame
  repeat' first
    | with_reducible assumption
    | with_reducible apply State.each_kept
    | with_reducible apply State.setKc_kept
    | with_reducible apply State.takeTag_kept
    | with_reducible apply kept_foldl
    | with_reducible apply kept_foldl_fst
    | with_reducible apply kept_ite
    | with_reducible apply keeps_ite
    | with_reducible apply State.keeps_next
    | exact Foot.bit hm rfl
    | exact Foot.trans rfl hm
    | intro x (hx : State.kept m b x)
    | intro _ x (hx : State.kept m b x)
    | intro x _ (hx : State.kept m b x)

theorem State.seizingSsf_kept {m : Nat} {b : State} (s : State) (n : Nat) (hs : b.kept m s)
    (hm : Foot.sub 0xE032100000000000000000000000000000000000000000000888000000000000C06800090 m := by
      first | assumption | exact Foot.bit (by assumption) rfl | exact Foot.trans rfl (by assumption)) :
    b.kept m (State.seizingSsf s n) := by
  unfold State.seizingSsf
  repeat' first
    | with_reducible assumption
    | with_reducible apply State.each_kept
    | with_reducible apply State.hunt_kept
    | with_reducible apply kept_ite
    | intro _ x (hx : State.kept m b x)
    | lift_lets
    | intro _

theorem execTagWaitExpiry_keeps {m : Nat} {b : State} (k : Kc) (s : State) (hs : b.kept m s)
    (hm : Foot.sub 0xE032320000000000000000000000000000000000000000000888000000000000C06800090 m := by
      first | assumption | exact Foot.bit (by assumption) rfl | exact Foot.trans rfl (by assumption)) :
    b.keeps m (execTagWaitExpiry k s) := by
  unfold execTagWaitExpiry
  repeat' first
    | with_reducible assumption
    | with_reducible apply act_keeps
    | with_reducible apply State.showRxNext_kept
    | with_reducible apply State.settleHeld_kept
    | with_reducible apply State.missingTag_kept
    | with_reducible apply State.setKc_kept
    | with_reducible apply kept_ite
    | with_reducible apply keeps_ite
    | with_reducible apply State.keeps_next
    | exact Foot.bit hm rfl
    | exact Foot.trans rfl hm
    | intro x (hx : State.kept m b x)
    | intro _ x (hx : State.kept m b x)
    | intro x _ (hx : State.kept m b x)
    | intro x _ (hx : State.kept m b x.1)
    | lift_lets
    | (intro x; clear_value x)
    | intro _
    | refine kept_pair (by assumption) ?_
    | split

theorem State.leafTag_kept {m : Nat} {b : State} (s : State) (k : Nat) (closed : List SegRec) (r : List Byte)
    (hs : b.kept m s)
    (hm : Foot.sub 0xE032320000000000000000000000000000000000000000000888000000000000C06800090 m := by
      first | assumption | exact Foot.bit (by assumption) rfl | exact Foot.trans rfl (by assumption)) :
    b.kept m (State.leafTag s k closed r) := by
  unfold State.leafTag
  repeat' first
    | with_reducible assumption
    | with_reducible apply State.kcFailure_kept
    | with_reducible apply State.count_kept
    | with_reducible apply State.judgeTag_kept
    | with_reducible apply State.refreshKc_kept
    | with_reducible apply State.wr_kept
    | with_reducible apply kept_ite
    | with_reducible apply keeps_ite
    | with_reducible apply State.keeps_next
    | exact Foot.bit hm rfl
    | exact Foot.trans rfl hm
    | intro x (hx : State.kept m b x)
    | intro _ x (hx : State.kept m b x)
    | intro x _ (hx : State.kept m b x)
    | intro x _ (hx : State.kept m b x.1)
    | lift_lets
    | intro _
    | refine kept_pair (by assumption) ?_
    | split

theorem State.leafPiece_kept {m : Nat} {b : State} (s : State) (k : Nat) (closed : List SegRec)
    (p : Nat × Nat × List RxByte × Bool) (hs : b.kept m s) (hm : Foot.sub 0x4800000 m := by
      first | assumption | exact Foot.bit (by assumption) rfl | exact Foot.trans rfl (by assumption)) :
    b.kept m (State.leafPiece s k closed p).1 := by
  unfold State.leafPiece
  split
  extract_lets x before held plain v _ text words
  have hv : b.kept m v := kept_ite (fun _ => hs) fun _ => State.leafFeed_kept _ _ _ _ hs
  clear_value v
  split
  · exact State.setKc_kept _ _ _ hv
  · exact State.setKc_kept _ _ _ hv

theorem State.leafBurst_kept {m : Nat} {b : State} (s : State) (k : Nat) (kcField : Nat) (idx : Nat) (ofs : Nat)
    (bytes : List RxByte) (tags : List (List Byte)) (hs : b.kept m s)
    (hm : Foot.sub 0xE032320000000000000000000000000000000000000000000888000000000000C06800090 m := by
      first | assumption | exact Foot.bit (by assumption) rfl | exact Foot.trans rfl (by assumption)) :
    b.kept m (State.leafBurst s k kcField idx ofs bytes tags) := by
  unfold State.leafBurst
  repeat' first
    | with_reducible assumption
    | with_reducible apply State.leafFeed_kept
    | with_reducible apply State.switchRx_kept
    | with_reducible apply State.kcFailure_kept
    | with_reducible apply State.count_kept
    | with_reducible apply State.leafPiece_kept
    | with_reducible apply State.leafTag_kept
    | with_reducible apply State.missingTag_kept
    | with_reducible apply State.showRxNext_kept
    | with_reducible apply kept_foldl
    | with_reducible apply kept_foldl_fst
    | with_reducible apply kept_ite
    | with_reducible apply keeps_ite
    | with_reducible apply State.keeps_next
    | exact Foot.bit hm rfl
    | exact Foot.trans rfl hm
    | intro x (hx : State.kept m b x)
    | intro _ x (hx : State.kept m b x)
    | intro x _ (hx : State.kept m b x)
    | intro x _ (hx : State.kept m b x.1)
    | lift_lets
    | (intro x; clear_value x)
    | intro _

theorem State.blobRefused_kept {m : Nat} {b : State} (s : State) (k : Nat) (hs : b.kept m s)
    (hm : Foot.sub 0x20000000000000000000000000000000000000000000888000000000000C00000090 m := by
      first | assumption | exact Foot.bit (by assumption) rfl | exact Foot.trans rfl (by assumption)) :
    b.kept m (State.blobRefused s k) := by
  unfold State.blobRefused
  repeat' first
    | with_reducible assumption
    | with_reducible apply State.kcEvent_kept
    | exact Foot.bit hm rfl
    | exact Foot.trans rfl hm

theorem State.loadKey_kept {m : Nat} {b : State} (s : State) (k : Nat) (receive : Bool) (key : KeyRec)
    (point : Option Nat) (hs : b.kept m s)
    (hm : Foot.sub 0xE032120000000000000000000000000000000000000000000888000000000000C06800090 m := by
      first | assumption | exact Foot.bit (by assumption) rfl | exact Foot.trans rfl (by assumption)) :
    b.kept m (State.loadKey s k receive key point) := by
  unfold State.loadKey
  repeat' first
    | with_reducible assumption
    | with_reducible apply State.hunt_kept
    | with_reducible apply State.setKc_kept
    | with_reducible apply State.wr_kept
    | with_reducible apply State.switchTx_kept
    | with_reducible apply kept_ite
    | exact Foot.bit hm rfl
    | exact Foot.trans rfl hm
    | lift_lets
    | (intro x; refine kept_cut (m := m) (b := b) (x := x) ?_ ?_ <;> [skip; (clear_value x; intro hx)])
    | (intro x; clear_value x)
    | intro _

theorem State.setPoint_kept {m : Nat} {b : State} (s : State) (k : Nat) (receive : Bool) (point : Option Nat)
    (hs : b.kept m s) (hm : Foot.sub 0x4000000 m := by
      first | assumption | exact Foot.bit (by assumption) rfl | exact Foot.trans rfl (by assumption)) :
    b.kept m (State.setPoint s k receive point) := by
  unfold State.setPoint
  repeat' first
    | with_reducible assumption
    | with_reducible apply State.setKc_kept

theorem State.zeroKeys_kept {m : Nat} {b : State} (s : State) (k : Nat) (receive : Bool) (active : Bool)
    (staged : Bool) (hs : b.kept m s)
    (hm : Foot.sub 0xE032100000000000000000000000000000000000000000000888000000000000C06800090 m := by
      first | assumption | exact Foot.bit (by assumption) rfl | exact Foot.trans rfl (by assumption)) :
    b.kept m (State.zeroKeys s k receive active staged) := by
  unfold State.zeroKeys
  repeat' first
    | with_reducible assumption
    | with_reducible apply State.setKc_kept
    | with_reducible apply State.flushHeld_kept
    | with_reducible apply State.wr_kept
    | with_reducible apply State.refreshKc_kept
    | with_reducible apply kept_ite
    | with_reducible apply keeps_ite
    | with_reducible apply State.keeps_next
    | exact Foot.bit hm rfl
    | exact Foot.trans rfl hm
    | intro x (hx : State.kept m b x)
    | intro _ x (hx : State.kept m b x)
    | intro x _ (hx : State.kept m b x)
    | intro x _ (hx : State.kept m b x.1)
    | lift_lets
    | (intro x; refine kept_cut (m := m) (b := b) (x := x) ?_ ?_ <;> [skip; (clear_value x; intro hx)])
    | (intro x; clear_value x)
    | intro _

theorem State.clearAf_kept {m : Nat} {b : State} (s : State) (k : Nat) (hs : b.kept m s)
    (hm : Foot.sub 0xE032120000000000000000000000000000000000000000000888000000000000C06800090 m := by
      first | assumption | exact Foot.bit (by assumption) rfl | exact Foot.trans rfl (by assumption)) :
    b.kept m (State.clearAf s k) := by
  unfold State.clearAf
  repeat' first
    | with_reducible assumption
    | with_reducible apply State.hunt_kept
    | with_reducible apply State.kcEvent_kept
    | with_reducible apply State.wr_kept
    | with_reducible apply kept_ite
    | exact Foot.bit hm rfl
    | exact Foot.trans rfl hm
    | lift_lets
    | intro _

theorem State.refreshS_kept {m : Nat} {b : State} (s : State) (k : Nat) (hs : b.kept m s)
    (hm : Foot.sub 0xE032120000000000000000000000000000000000000000000888000000000000C06800090 m := by
      first | assumption | exact Foot.bit (by assumption) rfl | exact Foot.trans rfl (by assumption)) :
    b.kept m (State.refreshS s k) := by
  unfold State.refreshS
  repeat' first
    | with_reducible assumption
    | with_reducible apply State.wr_kept
    | with_reducible apply State.setKc_kept
    | with_reducible apply State.advanceTx_kept
    | with_reducible apply State.showRxNext_kept
    | with_reducible apply State.hunt_kept
    | with_reducible apply kept_ite
    | with_reducible apply keeps_ite
    | with_reducible apply State.keeps_next
    | exact Foot.bit hm rfl
    | exact Foot.trans rfl hm
    | intro x (hx : State.kept m b x)
    | intro _ x (hx : State.kept m b x)
    | intro x _ (hx : State.kept m b x)
    | intro x _ (hx : State.kept m b x.1)
    | lift_lets
    | (intro x; refine kept_cut (m := m) (b := b) (x := x) ?_ ?_ <;> [skip; (clear_value x; intro hx)])
    | (intro x; clear_value x)
    | intro _

theorem State.refreshSegments_kept {m : Nat} {b : State} (s : State) (hs : b.kept m s)
    (hm : Foot.sub 0xE032120000000000000000000000000000000000000000000888000000000000C06800090 m := by
      first | assumption | exact Foot.bit (by assumption) rfl | exact Foot.trans rfl (by assumption)) :
    b.kept m (State.refreshSegments s) := by
  unfold State.refreshSegments
  repeat' first
    | with_reducible assumption
    | with_reducible apply State.each_kept
    | with_reducible apply State.refreshS_kept
    | with_reducible apply kept_ite
    | with_reducible apply keeps_ite
    | with_reducible apply State.keeps_next
    | exact Foot.bit hm rfl
    | exact Foot.trans rfl hm
    | intro x (hx : State.kept m b x)
    | intro _ x (hx : State.kept m b x)
    | intro x _ (hx : State.kept m b x)
    | intro x _ (hx : State.kept m b x.1)
    | lift_lets
    | intro _

theorem State.resizedRx_kept {m : Nat} {b : State} (s : State) (n : Nat) (c : Nat) (hs : b.kept m s)
    (hm : Foot.sub 0xE032100000000000000000000000000000000000000000000888000000000000C06800090 m := by
      first | assumption | exact Foot.bit (by assumption) rfl | exact Foot.trans rfl (by assumption)) :
    b.kept m (State.resizedRx s n c) := by
  unfold State.resizedRx
  repeat' first
    | with_reducible assumption
    | with_reducible apply State.showRxNext_kept
    | with_reducible apply State.hunt_kept
    | with_reducible apply kept_ite
    | with_reducible apply keeps_ite
    | with_reducible apply State.keeps_next
    | exact Foot.bit hm rfl
    | exact Foot.trans rfl hm
    | intro x (hx : State.kept m b x)
    | intro _ x (hx : State.kept m b x)
    | intro x _ (hx : State.kept m b x)
    | intro x _ (hx : State.kept m b x.1)
    | lift_lets
    | intro _
    | refine kept_pair (by assumption) ?_
    | split

theorem State.endSegments_kept {m : Nat} {b : State} (s : State) (n : Nat) (hs : b.kept m s)
    (hm : Foot.sub 0xE032320081000000000000000000000000000000000000000888000000000000C16800090 m := by
      first | assumption | exact Foot.bit (by assumption) rfl | exact Foot.trans rfl (by assumption)) :
    b.kept m (State.endSegments s n) := by
  unfold State.endSegments
  repeat' first
    | with_reducible assumption
    | with_reducible apply State.each_kept
    | with_reducible apply State.closeTx_kept
    | with_reducible apply State.refreshS_kept
    | with_reducible apply State.setKc_kept
    | with_reducible apply kept_ite
    | with_reducible apply keeps_ite
    | with_reducible apply State.keeps_next
    | exact Foot.bit hm rfl
    | exact Foot.trans rfl hm
    | intro x (hx : State.kept m b x)
    | intro _ x (hx : State.kept m b x)

theorem afterSeizing_kept {m : Nat} {b : State} (new : State) (hnew : b.kept m new)
    (hm : Foot.sub 0xE032120000000000000000000000000000000000000000000888000000000000C06800090 m := by
      first | assumption | exact Foot.bit (by assumption) rfl | exact Foot.trans rfl (by assumption)) :
    b.kept m (afterSeizing new) := by
  unfold afterSeizing
  repeat' first
    | with_reducible assumption
    | with_reducible apply State.refreshSegments_kept
    | with_reducible apply State.refreshClients_kept
    | with_reducible apply State.each_kept
    | with_reducible apply State.refreshPaths_kept
    | with_reducible apply kept_ite
    | exact Foot.trans rfl hm
    | intro _ x (hx : State.kept m b x)
    | lift_lets
    | intro _

theorem State.seizingSecond_kept {m : Nat} {b : State} (s : State) (hs : b.kept m s) (hm : Foot.sub 0x4000000 m := by
      first | assumption | exact Foot.bit (by assumption) rfl | exact Foot.trans rfl (by assumption))
    :
    b.kept m (State.seizingSecond s) := by
  unfold State.seizingSecond
  repeat' first
    | with_reducible assumption
    | with_reducible apply State.each_kept
    | with_reducible apply State.setKc_kept
    | intro _ x (hx : State.kept m b x)

end Sys2Proof.Machine
end

