-- ==== Sys2Proof/Laws/KeptHitch.lean ====
section
/-! SUPPORT. What every operation of Machine/Hitch.lean keeps: see Laws/Kept.lean. -/

-- The proofs of the whole text do not run side by side: their memory adds up.
set_option Elab.async false

namespace Sys2Proof.Machine

open Sys2Proof

theorem State.setCands_kept {m : Nat} {b : State} (s : State) (n : Nat) (l : List Candidate) (hs : b.kept m s)
    (hm : Foot.sub 0x1000000000000000000000000000000000000000000000000000000010000000 m := by
      first | assumption | exact Foot.bit (by assumption) rfl | exact Foot.trans rfl (by assumption)) :
    b.kept m (State.setCands s n l) := by
  unfold State.setCands
  repeat' first
    | with_reducible assumption
    | with_reducible apply State.wr_kept
    | with_reducible apply State.setHit_kept
    | exact Foot.bit hm rfl
    | exact Foot.trans rfl hm

theorem State.endFallback_kept {m : Nat} {b : State} (s : State) (n : Nat) (hs : b.kept m s)
    (hm : Foot.sub 0x40000000000000000000000000000000000000000000000000 m := by
      first | assumption | exact Foot.bit (by assumption) rfl | exact Foot.trans rfl (by assumption)) :
    b.kept m (State.endFallback s n) := by
  unfold State.endFallback
  repeat' first
    | with_reducible assumption
    | with_reducible apply State.wr_kept
    | with_reducible apply kept_ite
    | exact Foot.bit hm rfl
    | lift_lets
    | intro _

theorem State.gainFrame_kept {m : Nat} {b : State} (s : State) (n : Nat) (c : Candidate) (hs : b.kept m s)
    (hm : Foot.sub 0x1000000000000040000000000000000000000000000000000000000010000000 m := by
      first | assumption | exact Foot.bit (by assumption) rfl | exact Foot.trans rfl (by assumption)) :
    b.kept m (State.gainFrame s n c) := by
  unfold State.gainFrame
  repeat' first
    | with_reducible assumption
    | with_reducible apply State.setCands_kept
    | with_reducible apply State.setHit_kept
    | with_reducible apply State.wr_kept
    | with_reducible apply State.endFallback_kept
    | with_reducible apply kept_ite
    | with_reducible apply keeps_ite
    | with_reducible apply State.keeps_next
    | exact Foot.bit hm rfl
    | exact Foot.trans rfl hm

theorem execFawMatch_keeps {m : Nat} {b : State} (n : Line) (pos : Nat) (s : State) (hs : b.kept m s)
    (hm : Foot.sub 0x1000000000000000000000000000000000000000000000000000000010000000 m := by
      first | assumption | exact Foot.bit (by assumption) rfl | exact Foot.trans rfl (by assumption)) :
    b.keeps m (execFawMatch n pos s) := by
  unfold execFawMatch
  repeat' first
    | with_reducible assumption
    | with_reducible apply act_keeps
    | with_reducible apply State.setCands_kept
    | with_reducible apply kept_ite
    | with_reducible apply keeps_ite
    | with_reducible apply State.keeps_next
    | exact Foot.bit hm rfl
    | exact Foot.trans rfl hm
    | intro x (hx : State.kept m b x)
    | intro _ x (hx : State.kept m b x)
    | intro x _ (hx : State.kept m b x)
    | intro x _ (hx : State.kept m b x.1)
    | lift_lets
    | (intro x; clear_value x)
    | intro _
    | refine kept_pair (by assumption) ?_
    | split

theorem execCandidateCheck_keeps {m : Nat} {b : State} (n : Line) (i : Nat) (s : State) (hs : b.kept m s)
    (hm : Foot.sub 0x1000000000000040000000000000000000000000000000000000000010000000 m := by
      first | assumption | exact Foot.bit (by assumption) rfl | exact Foot.trans rfl (by assumption)) :
    b.keeps m (execCandidateCheck n i s) := by
  unfold execCandidateCheck
  repeat' first
    | with_reducible assumption
    | with_reducible apply act_keeps
    | with_reducible apply State.setCands_kept
    | with_reducible apply State.gainFrame_kept
    | with_reducible apply kept_ite
    | with_reducible apply keeps_ite
    | with_reducible apply State.keeps_next
    | exact Foot.bit hm rfl
    | exact Foot.trans rfl hm
    | intro x (hx : State.kept m b x)
    | intro _ x (hx : State.kept m b x)
    | intro x _ (hx : State.kept m b x)
    | intro x _ (hx : State.kept m b x.1)
    | lift_lets
    | (intro x; clear_value x)
    | intro _
    | refine kept_pair (by assumption) ?_
    | split

theorem execOutOfFrame_keeps {m : Nat} {b : State} (n : Line) (s : State) (hs : b.kept m s)
    (hm : Foot.sub 0x1000000000000000000000000000000000000000000000000000000010000000 m := by
      first | assumption | exact Foot.bit (by assumption) rfl | exact Foot.trans rfl (by assumption)) :
    b.keeps m (execOutOfFrame n s) := by
  unfold execOutOfFrame
  repeat' first
    | with_reducible assumption
    | with_reducible apply act_keeps
    | with_reducible apply State.setCands_kept
    | with_reducible apply State.wr_kept
    | with_reducible apply State.setHit_kept
    | with_reducible apply kept_ite
    | with_reducible apply keeps_ite
    | with_reducible apply State.keeps_next
    | exact Foot.bit hm rfl
    | exact Foot.trans rfl hm
    | intro x (hx : State.kept m b x)
    | intro _ x (hx : State.kept m b x)
    | intro x _ (hx : State.kept m b x)
    | intro x _ (hx : State.kept m b x.1)
    | lift_lets
    | intro _

theorem execOutOfMultiframe_keeps {m : Nat} {b : State} (n : Line) (s : State) (hs : b.kept m s)
    (hm : Foot.sub 0x1000000000000000000000000000000000000000000000000000000010000000 m := by
      first | assumption | exact Foot.bit (by assumption) rfl | exact Foot.trans rfl (by assumption)) :
    b.keeps m (execOutOfMultiframe n s) := by
  unfold execOutOfMultiframe
  repeat' first
    | with_reducible assumption
    | with_reducible apply act_keeps
    | with_reducible apply State.wr_kept
    | with_reducible apply State.setHit_kept
    | with_reducible apply kept_ite
    | with_reducible apply keeps_ite
    | with_reducible apply State.keeps_next
    | exact Foot.bit hm rfl
    | exact Foot.trans rfl hm
    | intro x (hx : State.kept m b x)
    | intro _ x (hx : State.kept m b x)
    | intro x _ (hx : State.kept m b x)
    | intro x _ (hx : State.kept m b x.1)
    | lift_lets
    | intro _

theorem State.refreshSsf_kept {m : Nat} {b : State} (s : State) (hs : b.kept m s)
    (hm : Foot.sub 0x80000000000800002080 m := by
      first | assumption | exact Foot.bit (by assumption) rfl | exact Foot.trans rfl (by assumption)) :
    b.kept m (State.refreshSsf s) := by
  unfold State.refreshSsf
  repeat' first
    | with_reducible assumption
    | with_reducible apply State.setFault_kept
    | with_reducible apply kept_ite
    | with_reducible apply keeps_ite
    | with_reducible apply State.keeps_next
    | exact Foot.bit hm rfl
    | exact Foot.trans rfl hm

theorem State.lineConsequences_kept {m : Nat} {b : State} (s : State) (n : Nat) (hs : b.kept m s)
    (hm : Foot.sub 0xE032100000000000000000000000000000000000000000000888080000000000C06802090 m := by
      first | assumption | exact Foot.bit (by assumption) rfl | exact Foot.trans rfl (by assumption)) :
    b.kept m (State.lineConsequences s n) := by
  unfold State.lineConsequences
  repeat' first
    | with_reducible assumption
    | with_reducible apply State.refreshSsf_kept
    | with_reducible apply State.seizingSsf_kept
    | with_reducible apply State.each_kept
    | with_reducible apply State.refreshLineGroups_kept
    | with_reducible apply State.refreshEgress_kept
    | with_reducible apply kept_ite
    | exact Foot.trans rfl hm
    | intro _ x (hx : State.kept m b x)
    | lift_lets
    | intro _

theorem State.clearRuns_kept {m : Nat} {b : State} (s : State) (n : Nat) (hs : b.kept m s)
    (hm : Foot.sub 0x10000000 m := by
      first | assumption | exact Foot.bit (by assumption) rfl | exact Foot.trans rfl (by assumption)) :
    b.kept m (State.clearRuns s n) := by
  unfold State.clearRuns
  repeat' first
    | with_reducible assumption
    | with_reducible apply State.setHit_kept

theorem State.takeSd_kept {m : Nat} {b : State} (s : State) (n : Nat) (hs : b.kept m s)
    (hm : Foot.sub 0x6000000000000000000000000000000000000000000000000000000000000000 m := by
      first | assumption | exact Foot.bit (by assumption) rfl | exact Foot.trans rfl (by assumption)) :
    b.kept m (State.takeSd s n) := by
  unfold State.takeSd
  repeat' first
    | with_reducible assumption
    | with_reducible apply State.wr_kept
    | with_reducible apply kept_ite
    | with_reducible apply keeps_ite
    | with_reducible apply State.keeps_next
    | exact Foot.bit hm rfl
    | exact Foot.trans rfl hm
    | intro x (hx : State.kept m b x)
    | intro _ x (hx : State.kept m b x)
    | intro x _ (hx : State.kept m b x)
    | intro x _ (hx : State.kept m b x.1)
    | lift_lets
    | intro _

theorem defectFlds_bits {m : Nat} (d : Nat) (hm : Foot.sub 0xE03210000E000000000000000000000000000000000000000888080000000000C16802090 m) :
    m.testBit (regBit (defectFlds d).1.id) = true ∧ m.testBit (regBit (defectFlds d).2.1.id) = true := by
  unfold defectFlds
  split <;> exact ⟨Foot.bit hm rfl, Foot.bit hm rfl⟩

theorem State.settleDefects_kept {m : Nat} {b : State} (s : State) (n : Nat) (hs : b.kept m s)
    (hm : Foot.sub 0xE03210000E000000000000000000000000000000000000000888080000000000C16802090 m := by
      first | assumption | exact Foot.trans rfl (by assumption)) : b.kept m (s.settleDefects n) := by
  unfold State.settleDefects
  lift_lets
  intro u
  have hu : b.kept m u := State.takeSd_kept _ _ hs
  clear_value u
  intro v
  have hv : b.kept m v := State.each_kept _ _ _ hu
    fun d t h => kept_ite (fun _ => State.wr_kept _ _ _ _ _ _ h (defectFlds_bits d hm).1) fun _ => h
  clear_value v
  intro a
  have ha : b.kept m a := State.clearRuns_kept _ _ hv
  clear_value a
  intro ssf was w
  have hw : b.kept m w := State.wr_kept a .HTCH_DEF_SSF _ _ _ _ ha (Foot.bit hm rfl)
  clear_value w
  intro x win y
  have hy : b.kept m y := State.setHit_kept _ _ _ hw
  clear_value y
  exact State.lineConsequences_kept _ _
    (kept_ite (fun _ => State.wr_kept _ .HTCH_DEF_STK_SSF _ _ _ _ hy (Foot.bit hm rfl)) fun _ => hy)

theorem State.setDefect_kept {m : Nat} {b : State} (s : State) (n : Nat) (d : Nat) (v : Bool) (hs : b.kept m s)
    (hm : Foot.sub 0xE03210000E000000000000000000000000000000000000000888080000000000C16802090 m := by
      first | assumption | exact Foot.bit (by assumption) rfl | exact Foot.trans rfl (by assumption)) :
    b.kept m (State.setDefect s n d v) := by
  unfold State.setDefect
  have hb := defectFlds_bits d hm
  have he : ∀ e code, (defectFlds d).2.2 = some (e, code) → m.testBit (regBit e.id) = true := by
    intro e code h
    unfold defectFlds at h
    split at h <;> first | (cases h; exact Foot.bit hm rfl) | cases h
  generalize defectFlds d = p at hb he
  obtain ⟨f, stk, ev⟩ := p
  apply kept_ite <;> intro _
  · exact hs
  · dsimp only
    have h1 := State.wr_kept s f (b2n v) n 0 0 hs hb.1
    generalize s.wr f (b2n v) n = t at h1 ⊢
    have h2 : b.kept m (if v = true then t.wr stk 1 n else t) :=
      kept_ite (fun _ => State.wr_kept _ _ _ _ _ _ h1 hb.2) fun _ => h1
    generalize (if v = true then t.wr stk 1 n else t) = u at h2 ⊢
    refine State.settleDefects_kept _ _ ?_
    rcases ev with _ | ⟨e, code⟩
    · exact h2
    · exact State.raise_kept _ _ _ _ _ _ _ h2 (Foot.trans rfl hm) (he e code rfl)

theorem State.newSettings_kept {m : Nat} {b : State} (s : State) (n : Nat) (hs : b.kept m s)
    (hm : Foot.sub 0xE03210000E000000000000000000000000000000000000000888080000000000C16802090 m := by
      first | assumption | exact Foot.bit (by assumption) rfl | exact Foot.trans rfl (by assumption)) :
    b.kept m (State.newSettings s n) := by
  unfold State.newSettings
  repeat' first
    | with_reducible assumption
    | with_reducible apply State.setHit_kept
    | with_reducible apply State.setDefect_kept
    | with_reducible apply State.settleDefects_kept
    | with_reducible apply kept_ite
    | with_reducible apply keeps_ite
    | with_reducible apply State.keeps_next
    | exact Foot.bit hm rfl
    | exact Foot.trans rfl hm
    | intro x (hx : State.kept m b x)
    | intro _ x (hx : State.kept m b x)
    | intro x _ (hx : State.kept m b x)
    | intro x _ (hx : State.kept m b x.1)
    | lift_lets
    | (intro x; refine kept_cut (m := m) (b := b) (x := x) ?_ ?_ <;> [skip; (clear_value x; intro hx)])
    | intro _

theorem execDefectPersistenceExpiry_keeps {m : Nat} {b : State} (n : Line) (lom : Bool) (s : State) (hs : b.kept m s)
    (hm : Foot.sub 0xE03210000E000000000000000000000000000000000000000888080000000000C16802090 m := by
      first | assumption | exact Foot.bit (by assumption) rfl | exact Foot.trans rfl (by assumption)) :
    b.keeps m (execDefectPersistenceExpiry n lom s) := by
  unfold execDefectPersistenceExpiry
  repeat' first
    | with_reducible assumption
    | with_reducible apply act_keeps
    | with_reducible apply State.setDefect_kept
    | with_reducible apply kept_ite
    | intro x (hx : State.kept m b x)
    | lift_lets
    | intro _

theorem execSsfClear_keeps {m : Nat} {b : State} (n : Line) (s : State) (hs : b.kept m s)
    (hm : Foot.sub 0xE032100000000000000000000000000000000000000000000888080000000000C16802090 m := by
      first | assumption | exact Foot.bit (by assumption) rfl | exact Foot.trans rfl (by assumption)) :
    b.keeps m (execSsfClear n s) := by
  unfold execSsfClear
  repeat' first
    | with_reducible assumption
    | with_reducible apply act_keeps
    | with_reducible apply State.lineConsequences_kept
    | with_reducible apply State.setHit_kept
    | with_reducible apply kept_ite
    | exact Foot.trans rfl hm
    | intro x (hx : State.kept m b x)
    | lift_lets
    | (intro x; clear_value x)
    | intro _

theorem State.takeMfas_kept {m : Nat} {b : State} (s : State) (n : Nat) (mfas : Nat) (hs : b.kept m s)
    (hm : Foot.sub 0x1000000000000040000000000000000000000000000000000000000010000000 m := by
      first | assumption | exact Foot.bit (by assumption) rfl | exact Foot.trans rfl (by assumption)) :
    b.kept m (State.takeMfas s n mfas) := by
  unfold State.takeMfas
  repeat' first
    | with_reducible assumption
    | with_reducible apply State.endFallback_kept
    | with_reducible apply State.wr_kept
    | with_reducible apply State.setHit_kept
    | with_reducible apply kept_ite
    | with_reducible apply keeps_ite
    | with_reducible apply State.keeps_next
    | exact Foot.bit hm rfl
    | exact Foot.trans rfl hm
    | intro x (hx : State.kept m b x)
    | intro _ x (hx : State.kept m b x)
    | intro x _ (hx : State.kept m b x)
    | intro x _ (hx : State.kept m b x.1)
    | lift_lets
    | intro _

theorem State.regenDrop_kept {m : Nat} {b : State} (s : State) (n : Nat) (hs : b.kept m s)
    (hm : Foot.sub 0x8000000000000000000000000000000000000000888000000000000C10000090 m := by
      first | assumption | exact Foot.bit (by assumption) rfl | exact Foot.trans rfl (by assumption)) :
    b.kept m (State.regenDrop s n) := by
  unfold State.regenDrop
  repeat' first
    | with_reducible assumption
    | with_reducible apply State.setHit_kept
    | with_reducible apply State.raise_kept
    | with_reducible apply kept_ite
    | with_reducible apply keeps_ite
    | with_reducible apply State.keeps_next
    | exact Foot.bit hm rfl
    | exact Foot.trans rfl hm
    | intro x (hx : State.kept m b x)
    | intro _ x (hx : State.kept m b x)
    | intro x _ (hx : State.kept m b x)
    | intro x _ (hx : State.kept m b x.1)
    | lift_lets
    | intro _

theorem State.sectionCounts_kept {m : Nat} {b : State} (s : State) (n : Nat) (fawOk : Bool) (viol : Nat) (bei : Nat)
    (bdi : Bool) (hs : b.kept m s)
    (hm : Foot.sub 0xE03210008E000000000000000000000000000000000000000888080000000000C16802090 m := by
      first | assumption | exact Foot.bit (by assumption) rfl | exact Foot.trans rfl (by assumption)) :
    b.kept m (State.sectionCounts s n fawOk viol bei bdi) := by
  unfold State.sectionCounts
  repeat' first
    | with_reducible assumption
    | with_reducible apply State.count_kept
    | with_reducible apply State.setHit_kept
    | with_reducible apply State.setDefect_kept
    | with_reducible apply kept_ite
    | with_reducible apply keeps_ite
    | with_reducible apply State.keeps_next
    | exact Foot.bit hm rfl
    | exact Foot.trans rfl hm
    | intro x (hx : State.kept m b x)
    | intro _ x (hx : State.kept m b x)
    | intro x _ (hx : State.kept m b x)
    | intro x _ (hx : State.kept m b x.1)
    | lift_lets
    | intro _

theorem State.pathCounts_kept {m : Nat} {b : State} (s : State) (n : Nat) (viol : Nat) (bei : Nat) (bdi : Bool)
    (stat : Nat) (hs : b.kept m s)
    (hm : Foot.sub 0xE03210008F000000000000000000000000000000000000000888080000000000C16802090 m := by
      first | assumption | exact Foot.bit (by assumption) rfl | exact Foot.trans rfl (by assumption)) :
    b.kept m (State.pathCounts s n viol bei bdi stat) := by
  unfold State.pathCounts
  repeat' first
    | with_reducible assumption
    | with_reducible apply State.count_kept
    | with_reducible apply State.wr_kept
    | with_reducible apply State.setHit_kept
    | with_reducible apply State.setDefect_kept
    | with_reducible apply kept_ite
    | with_reducible apply keeps_ite
    | with_reducible apply State.keeps_next
    | exact Foot.bit hm rfl
    | exact Foot.trans rfl hm
    | intro x (hx : State.kept m b x)
    | intro _ x (hx : State.kept m b x)
    | intro x _ (hx : State.kept m b x)
    | intro x _ (hx : State.kept m b x.1)
    | lift_lets
    | intro _

theorem State.takeTtis_kept {m : Nat} {b : State} (s : State) (n : Nat) (sm : List Byte) (pm : List Byte)
    (hs : b.kept m s)
    (hm : Foot.sub 0xE03210140E000000000000000000000000000000000000000888080000000000C16802090 m := by
      first | assumption | exact Foot.bit (by assumption) rfl | exact Foot.trans rfl (by assumption)) :
    b.kept m (State.takeTtis s n sm pm) := by
  unfold State.takeTtis
  repeat' first
    | with_reducible assumption
    | with_reducible apply State.setHit_kept
    | with_reducible apply State.wr_kept
    | with_reducible apply State.setDefect_kept
    | with_reducible apply kept_ite
    | with_reducible apply keeps_ite
    | with_reducible apply State.keeps_next
    | exact Foot.bit hm rfl
    | exact Foot.trans rfl hm
    | intro x (hx : State.kept m b x)
    | intro _ x (hx : State.kept m b x)
    | intro x _ (hx : State.kept m b x)
    | intro x _ (hx : State.kept m b x.1)
    | lift_lets
    | intro _

theorem State.startRx256_kept {m : Nat} {b : State} (s : State) (n : Nat) (hs : b.kept m s)
    (hm : Foot.sub 0xE032100009000000000000000000000000000000000000000888000000000000C16800090 m := by
      first | assumption | exact Foot.bit (by assumption) rfl | exact Foot.trans rfl (by assumption)) :
    b.kept m (State.startRx256 s n) := by
  unfold State.startRx256
  repeat' first
    | with_reducible assumption
    | with_reducible apply State.wr_kept
    | with_reducible apply State.setHit_kept
    | with_reducible apply State.each_kept
    | with_reducible apply State.endFrame_kept
    | with_reducible apply State.resizedRx_kept
    | with_reducible apply State.regenDrop_kept
    | with_reducible apply kept_ite
    | with_reducible apply keeps_ite
    | with_reducible apply State.keeps_next
    | exact Foot.bit hm rfl
    | exact Foot.trans rfl hm
    | intro x (hx : State.kept m b x)
    | intro _ x (hx : State.kept m b x)

theorem State.takeRxWord_kept {m : Nat} {b : State} (s : State) (n : Nat) (w : List RxByte) (hs : b.kept m s)
    (hm : Foot.sub 0xE032120000000000000000000000000000000000000000000888000000000000C16800090 m := by
      first | assumption | exact Foot.bit (by assumption) rfl | exact Foot.trans rfl (by assumption)) :
    b.kept m (State.takeRxWord s n w) := by
  unfold State.takeRxWord
  repeat' first
    | with_reducible assumption
    | with_reducible apply State.setHit_kept
    | with_reducible apply State.containerWord_kept
    | with_reducible apply kept_ite
    | with_reducible apply keeps_ite
    | with_reducible apply State.keeps_next
    | exact Foot.bit hm rfl
    | exact Foot.trans rfl hm
    | intro x (hx : State.kept m b x)
    | intro _ x (hx : State.kept m b x)
    | intro x _ (hx : State.kept m b x)
    | intro x _ (hx : State.kept m b x.1)
    | lift_lets
    | (intro x; clear_value x)
    | intro _
    | refine kept_pair (by assumption) ?_
    | split

theorem State.takePayload_kept {m : Nat} {b : State} (a0 : Nat) (a1 : State) (a2 : Nat) (a3 : List RxByte)
    (ha1 : b.kept m a1)
    (hm : Foot.sub 0xE032120000000000000000000000000000000000000000000888000000000000C16800090 m := by
      first | assumption | exact Foot.bit (by assumption) rfl | exact Foot.trans rfl (by assumption)) :
    b.kept m (State.takePayload a0 a1 a2 a3) := by
  induction a0 generalizing a1 a3 with
  | zero => exact State.setHit_kept _ _ _ ha1
  | succ k ih =>
    unfold State.takePayload
    exact kept_ite (fun _ => State.setHit_kept _ _ _ ha1) fun _ => ih _ _ (State.takeRxWord_kept _ _ _ ha1)

theorem State.takeRecords_kept {m : Nat} {b : State} (s : State) (n : Nat) (f : Nat) (oh : List Byte)
    (hs : b.kept m s)
    (hm : Foot.sub 0xE032320081000000000000000000000000000000000000000888000000000000C16800090 m := by
      first | assumption | exact Foot.bit (by assumption) rfl | exact Foot.trans rfl (by assumption)) :
    b.kept m (State.takeRecords s n f oh) := by
  unfold State.takeRecords
  repeat' first
    | with_reducible assumption
    | with_reducible apply State.setHit_kept
    | with_reducible apply State.count_kept
    | with_reducible apply State.queueTag_kept
    | with_reducible apply State.seizingFrame_kept
    | with_reducible apply State.bendFrame_kept
    | with_reducible apply kept_foldl
    | with_reducible apply kept_foldl_fst
    | with_reducible apply kept_ite
    | with_reducible apply keeps_ite
    | with_reducible apply State.keeps_next
    | exact Foot.bit hm rfl
    | exact Foot.trans rfl hm
    | intro x (hx : State.kept m b x)
    | intro _ x (hx : State.kept m b x)
    | intro x _ (hx : State.kept m b x)
    | intro x _ (hx : State.kept m b x.1)
    | lift_lets
    | (intro x; refine kept_cut (m := m) (b := b) (x := x) ?_ ?_ <;> [skip; (clear_value x; intro hx)])
    | (intro x; clear_value x)
    | intro _

theorem State.takeFrame_kept {m : Nat} {b : State} (s : State) (n : Nat) (bytes : List RxByte) (hs : b.kept m s)
    (hm : Foot.sub 0xE03232008F000000000000040000000000000000000000000888080000000000C16802090 m := by
      first | assumption | exact Foot.bit (by assumption) rfl | exact Foot.trans rfl (by assumption)) :
    b.kept m (State.takeFrame s n bytes) := by
  unfold State.takeFrame
  repeat' first
    | with_reducible assumption
    | with_reducible apply State.sectionCounts_kept
    | with_reducible apply State.takeMfas_kept
    | with_reducible apply State.startRx256_kept
    | with_reducible apply State.setHit_kept
    | with_reducible apply State.takeRecords_kept
    | with_reducible apply State.takePayload_kept
    | with_reducible apply kept_ite
    | with_reducible apply keeps_ite
    | with_reducible apply State.keeps_next
    | exact Foot.bit hm rfl
    | exact Foot.trans rfl hm
    | intro x (hx : State.kept m b x)
    | intro _ x (hx : State.kept m b x)
    | intro x _ (hx : State.kept m b x)
    | intro x _ (hx : State.kept m b x.1)
    | lift_lets
    | intro _

theorem State.takeOzr_kept {m : Nat} {b : State} (s : State) (n : Nat) (fr : OzrFrame) (hs : b.kept m s)
    (hm : Foot.sub 0xE03210148F000000000000040000000000000000000000000888080000000000C16802090 m := by
      first | assumption | exact Foot.bit (by assumption) rfl | exact Foot.trans rfl (by assumption)) :
    b.kept m (State.takeOzr s n fr) := by
  unfold State.takeOzr
  repeat' first
    | with_reducible assumption
    | with_reducible apply State.sectionCounts_kept
    | with_reducible apply State.takeMfas_kept
    | with_reducible apply State.pathCounts_kept
    | with_reducible apply State.setHit_kept
    | with_reducible apply State.takeTtis_kept
    | with_reducible apply State.hostStream_kept
    | with_reducible apply State.setCli_kept
    | with_reducible apply kept_ite
    | with_reducible apply keeps_ite
    | with_reducible apply State.keeps_next
    | exact Foot.bit hm rfl
    | exact Foot.trans rfl hm
    | intro x (hx : State.kept m b x)
    | intro _ x (hx : State.kept m b x)
    | intro x _ (hx : State.kept m b x)
    | intro x _ (hx : State.kept m b x.1)
    | lift_lets
    | (intro x; refine kept_cut (m := m) (b := b) (x := x) ?_ ?_ <;> [skip; (clear_value x; intro hx)])
    | (intro x; clear_value x)
    | intro _
    | refine kept_pair (by assumption) ?_
    | split

theorem execFrameReceived_keeps {m : Nat} {b : State} (n : Line) (s : State) (hs : b.kept m s)
    (hm : Foot.sub 0xE03232148F000000000000040000000000000000000000000888080000000000C16802090 m := by
      first | assumption | exact Foot.bit (by assumption) rfl | exact Foot.trans rfl (by assumption)) :
    b.keeps m (execFrameReceived n s) := by
  unfold execFrameReceived
  repeat' first
    | with_reducible assumption
    | with_reducible apply act_keeps
    | with_reducible apply State.setHit_kept
    | with_reducible apply State.newSettings_kept
    | with_reducible apply State.takeOzr_kept
    | with_reducible apply State.takeFrame_kept
    | with_reducible apply kept_ite
    | with_reducible apply keeps_ite
    | with_reducible apply State.keeps_next
    | exact Foot.bit hm rfl
    | exact Foot.trans rfl hm
    | intro x (hx : State.kept m b x)
    | intro _ x (hx : State.kept m b x)
    | intro x _ (hx : State.kept m b x)
    | intro x _ (hx : State.kept m b x.1)
    | lift_lets
    | (intro x; refine kept_cut (m := m) (b := b) (x := x) ?_ ?_ <;> [skip; (clear_value x; intro hx)])
    | (intro x; clear_value x)
    | intro _
    | refine kept_pair (by assumption) ?_
    | split

theorem State.hitchMob_kept {m : Nat} {b : State} (s : State) (n : Nat) (a2 : List Byte) (hs : b.kept m s)
    (hm : Foot.sub 0xE03210148F000000000000000000000000000000000000000888080000000000C16802090 m := by
      first | assumption | exact Foot.bit (by assumption) rfl | exact Foot.trans rfl (by assumption)) :
    b.kept m (State.hitchMob s n a2) := by
  unfold State.hitchMob
  repeat' first
    | with_reducible assumption
    | with_reducible apply State.count_kept
    | with_reducible apply State.setHit_kept
    | with_reducible apply State.pathCounts_kept
    | with_reducible apply State.takeTtis_kept
    | with_reducible apply kept_ite
    | with_reducible apply keeps_ite
    | with_reducible apply State.keeps_next
    | exact Foot.bit hm rfl
    | exact Foot.trans rfl hm
    | intro x (hx : State.kept m b x)
    | intro _ x (hx : State.kept m b x)
    | intro x _ (hx : State.kept m b x)
    | intro x _ (hx : State.kept m b x.1)
    | lift_lets
    | (intro x; refine kept_cut (m := m) (b := b) (x := x) ?_ ?_ <;> [skip; (clear_value x; intro hx)])
    | (intro x; clear_value x)
    | intro _

theorem State.frameShort_kept {m : Nat} {b : State} (s : State) (n : Nat) (hs : b.kept m s)
    (hm : Foot.sub 0x9000000000000000000000000000000000000000888000000000000C00000090 m := by
      first | assumption | exact Foot.bit (by assumption) rfl | exact Foot.trans rfl (by assumption)) :
    b.kept m (State.frameShort s n) := by
  unfold State.frameShort
  repeat' first
    | with_reducible assumption
    | with_reducible apply State.wr_kept
    | with_reducible apply State.raise_kept
    | with_reducible apply kept_ite
    | exact Foot.bit hm rfl
    | exact Foot.trans rfl hm
    | lift_lets
    | intro _

theorem State.putContainer_kept {m : Nat} {b : State} (s : State) (n : Nat) (x : ContTx) (hs : b.kept m s)
    (hm : Foot.sub 0x814000000 m := by
      first | assumption | exact Foot.bit (by assumption) rfl | exact Foot.trans rfl (by assumption)) :
    b.kept m (State.putContainer s n x) := by
  unfold State.putContainer
  repeat' first
    | with_reducible assumption
    | with_reducible apply State.emit_kept
    | with_reducible apply State.setHit_kept
    | with_reducible apply State.openSegments_kept
    | with_reducible apply kept_ite
    | with_reducible apply keeps_ite
    | with_reducible apply State.keeps_next
    | exact Foot.bit hm rfl
    | exact Foot.trans rfl hm
    | intro x (hx : State.kept m b x)
    | intro _ x (hx : State.kept m b x)
    | intro x _ (hx : State.kept m b x)
    | intro x _ (hx : State.kept m b x.1)
    | lift_lets
    | (intro x; refine kept_cut (m := m) (b := b) (x := x) ?_ ?_ <;> [skip; (clear_value x; intro hx)])
    | (intro x; clear_value x)
    | intro _
    | refine kept_pair (by assumption) ?_
    | split

theorem State.ownContainer_kept {m : Nat} {b : State} (s : State) (n : Nat) (c : Nat) (hs : b.kept m s)
    (hm : Foot.sub 0x814800000 m := by
      first | assumption | exact Foot.bit (by assumption) rfl | exact Foot.trans rfl (by assumption)) :
    b.kept m (State.ownContainer s n c) := by
  unfold State.ownContainer
  repeat' first
    | with_reducible assumption
    | with_reducible apply State.putContainer_kept
    | with_reducible apply State.mapClient_kept
    | with_reducible apply kept_ite
    | with_reducible apply keeps_ite
    | with_reducible apply State.keeps_next
    | exact Foot.bit hm rfl
    | exact Foot.trans rfl hm
    | intro x (hx : State.kept m b x)
    | intro _ x (hx : State.kept m b x)
    | intro x _ (hx : State.kept m b x)
    | intro x _ (hx : State.kept m b x.1)
    | lift_lets
    | (intro x; clear_value x)
    | intro _
    | refine kept_pair (by assumption) ?_
    | split

theorem State.leafContainer_kept {m : Nat} {b : State} (s : State) (n : Nat) (c : Nat) (leaf : Nat) (hs : b.kept m s)
    (hm : Foot.sub 0x814800000 m := by
      first | assumption | exact Foot.bit (by assumption) rfl | exact Foot.trans rfl (by assumption)) :
    b.kept m (State.leafContainer s n c leaf) := by
  unfold State.leafContainer
  repeat' first
    | with_reducible assumption
    | with_reducible apply State.mapLeaf_kept
    | with_reducible apply State.putContainer_kept
    | with_reducible apply kept_ite
    | with_reducible apply keeps_ite
    | with_reducible apply State.keeps_next
    | exact Foot.bit hm rfl
    | exact Foot.trans rfl hm

theorem State.buildContainers_kept {m : Nat} {b : State} (s : State) (n : Nat) (hs : b.kept m s)
    (hm : Foot.sub 0xE032320081000000000000000000000000000000000000000888000000000000C16800090 m := by
      first | assumption | exact Foot.bit (by assumption) rfl | exact Foot.trans rfl (by assumption)) :
    b.kept m (State.buildContainers s n) := by
  unfold State.buildContainers
  repeat' first
    | with_reducible assumption
    | with_reducible apply State.setHit_kept
    | with_reducible apply State.endSegments_kept
    | with_reducible apply State.each_kept
    | with_reducible apply State.ownContainer_kept
    | with_reducible apply State.leafContainer_kept
    | with_reducible apply kept_ite
    | with_reducible apply keeps_ite
    | with_reducible apply State.keeps_next
    | exact Foot.bit hm rfl
    | exact Foot.trans rfl hm
    | intro x (hx : State.kept m b x)
    | intro _ x (hx : State.kept m b x)
    | intro x _ (hx : State.kept m b x)
    | intro x _ (hx : State.kept m b x.1)
    | lift_lets
    | (intro x; refine kept_cut (m := m) (b := b) (x := x) ?_ ?_ <;> [skip; (clear_value x; intro hx)])
    | (intro x; clear_value x)
    | intro _

theorem State.openTx_kept {m : Nat} {b : State} (s : State) (n : Nat) (hs : b.kept m s)
    (hm : Foot.sub 0x200000 m := by
      first | assumption | exact Foot.bit (by assumption) rfl | exact Foot.trans rfl (by assumption)) :
    b.kept m (State.openTx s n) := by
  unfold State.openTx
  repeat' first
    | with_reducible assumption
    | with_reducible apply kept_ite
    | with_reducible apply keeps_ite
    | with_reducible apply State.keeps_next
    | exact Foot.bit hm rfl
    | exact Foot.trans rfl hm
    | intro x (hx : State.kept m b x)
    | intro _ x (hx : State.kept m b x)
    | intro x _ (hx : State.kept m b x)
    | intro x _ (hx : State.kept m b x.1)
    | lift_lets
    | (intro x; clear_value x)
    | intro _
    | with_reducible apply kept_cleat'

theorem State.startMultiframe_kept {m : Nat} {b : State} (s : State) (n : Nat) (bl : List Byte) (ctrl : List Byte)
    (gcc : List Byte) (hs : b.kept m s)
    (hm : Foot.sub 0xE032320089000000000000000000000000000000000000000888000000000000C16A00090 m := by
      first | assumption | exact Foot.bit (by assumption) rfl | exact Foot.trans rfl (by assumption)) :
    b.kept m (State.startMultiframe s n bl ctrl gcc) := by
  unfold State.startMultiframe
  repeat' first
    | with_reducible assumption
    | with_reducible apply State.takeQ_kept
    | with_reducible apply State.frameShort_kept
    | with_reducible apply State.wr_kept
    | with_reducible apply State.setHit_kept
    | with_reducible apply State.buildContainers_kept
    | with_reducible apply State.openTx_kept
    | with_reducible apply kept_ite
    | with_reducible apply keeps_ite
    | with_reducible apply State.keeps_next
    | exact Foot.bit hm rfl
    | exact Foot.trans rfl hm
    | intro x (hx : State.kept m b x)
    | intro _ x (hx : State.kept m b x)
    | intro x _ (hx : State.kept m b x)
    | intro x _ (hx : State.kept m b x.1)
    | lift_lets
    | (intro x; clear_value x)
    | intro _

theorem State.pushTx_kept {m : Nat} {b : State} (s : State) (n : Nat) (bits : List Bool) (hs : b.kept m s)
    (hm : Foot.sub 0x200000 m := by
      first | assumption | exact Foot.bit (by assumption) rfl | exact Foot.trans rfl (by assumption)) :
    b.kept m (State.pushTx s n bits) := by
  unfold State.pushTx
  repeat' first
    | with_reducible assumption
    | with_reducible apply kept_ite
    | with_reducible apply keeps_ite
    | with_reducible apply State.keeps_next
    | exact Foot.bit hm rfl
    | exact Foot.trans rfl hm
    | intro x (hx : State.kept m b x)
    | intro _ x (hx : State.kept m b x)
    | intro x _ (hx : State.kept m b x)
    | intro x _ (hx : State.kept m b x.1)
    | lift_lets
    | (intro x; clear_value x)
    | intro _
    | with_reducible apply kept_cleat'

theorem State.sendFrame_kept {m : Nat} {b : State} (s : State) (n : Nat) (f : Nat) (hs : b.kept m s)
    (hm : Foot.sub 0x81000000000000000000000000000000000000000000000000000000810200000 m := by
      first | assumption | exact Foot.bit (by assumption) rfl | exact Foot.trans rfl (by assumption)) :
    b.kept m (State.sendFrame s n f) := by
  unfold State.sendFrame
  repeat' first
    | with_reducible assumption
    | with_reducible apply State.count_kept
    | with_reducible apply State.pushTx_kept
    | with_reducible apply State.emit_kept
    | with_reducible apply State.wr_kept
    | with_reducible apply State.setHit_kept
    | with_reducible apply kept_ite
    | with_reducible apply keeps_ite
    | with_reducible apply State.keeps_next
    | exact Foot.bit hm rfl
    | exact Foot.trans rfl hm

theorem State.sendOzr_kept {m : Nat} {b : State} (s : State) (n : Nat) (f : Nat) (hs : b.kept m s)
    (hm : Foot.sub 0x810800000 m := by
      first | assumption | exact Foot.bit (by assumption) rfl | exact Foot.trans rfl (by assumption)) :
    b.kept m (State.sendOzr s n f) := by
  unfold State.sendOzr
  lift_lets
  intro bits t
  have ht : b.kept m t := by
    show b.kept m ((s.ozrClient n).elim s _)
    cases s.ozrClient n
    · exact hs
    · exact State.setCli_kept _ _ _ hs
  clear_value t
  exact State.emit_kept _ _ (State.setHit_kept _ _ _ ht)

theorem State.setLeafFail_kept {m : Nat} {b : State} (s : State) (n : Nat) (leaf : Nat) (v : Bool) (hs : b.kept m s)
    (hm : Foot.sub 0xE000000000000000000000000000000000000000000000000888000000000000C01800090 m := by
      first | assumption | exact Foot.bit (by assumption) rfl | exact Foot.trans rfl (by assumption)) :
    b.kept m (State.setLeafFail s n leaf v) := by
  unfold State.setLeafFail
  repeat' first
    | with_reducible assumption
    | with_reducible apply State.each_kept
    | with_reducible apply State.refreshEgress_kept
    | with_reducible apply kept_ite
    | exact Foot.bit hm rfl
    | exact Foot.trans rfl hm
    | intro _ x (hx : State.kept m b x)
    | lift_lets
    | intro _
    | with_reducible apply kept_leafFail

theorem State.passPayload_kept {m : Nat} {b : State} (s : State) (n : Nat) (leaf : Nat) (h : List Byte)
    (tags : List (List Byte)) (p : Nat × List RxByte × Bool × Nat) (hs : b.kept m s)
    (hm : Foot.sub 0xE032320000000000000000000000000000000000000000000888000000000000C17800090 m := by
      first | assumption | exact Foot.bit (by assumption) rfl | exact Foot.trans rfl (by assumption)) :
    b.kept m (State.passPayload s n leaf h tags p) := by
  unfold State.passPayload
  split
  extract_lets _ v w
  have hv : b.kept m v := State.setHit_kept _ _ _ hs
  clear_value v
  have hw : b.kept m w := State.setLeafFail_kept _ _ _ _ hv
  clear_value w
  split
  · exact State.leafBurst_kept _ _ _ _ _ _ _ hw
  · exact State.leafFeed_kept _ _ _ _ hw

theorem State.takeBurst_kept {m : Nat} {b : State} (s : State) (n : Nat) (leaf : Nat) (a3 : List RxByte)
    (hs : b.kept m s)
    (hm : Foot.sub 0xE032320000000000000000000000000000000000000000000888000000000000C17800090 m := by
      first | assumption | exact Foot.bit (by assumption) rfl | exact Foot.trans rfl (by assumption)) :
    b.kept m (State.takeBurst s n leaf a3) := by
  unfold State.takeBurst
  exact State.passPayload_kept _ _ _ _ _ _ hs

theorem execBurstFrameReceived_keeps {m : Nat} {b : State} (n : Line) (leaf : Leaf) (s : State) (hs : b.kept m s)
    (hm : Foot.sub 0xE032320080000000000000000000000000000000000000000888000000000000C17800090 m := by
      first | assumption | exact Foot.bit (by assumption) rfl | exact Foot.trans rfl (by assumption)) :
    b.keeps m (execBurstFrameReceived n leaf s) := by
  unfold execBurstFrameReceived
  repeat' first
    | with_reducible assumption
    | with_reducible apply act_keeps
    | with_reducible apply State.setHit_kept
    | with_reducible apply State.takeBurst_kept
    | with_reducible apply State.count_kept
    | with_reducible apply kept_ite
    | with_reducible apply keeps_ite
    | with_reducible apply State.keeps_next
    | exact Foot.bit hm rfl
    | exact Foot.trans rfl hm
    | intro x (hx : State.kept m b x)
    | intro _ x (hx : State.kept m b x)
    | intro x _ (hx : State.kept m b x)
    | intro x _ (hx : State.kept m b x.1)
    | lift_lets
    | (intro x; clear_value x)
    | intro _
    | refine kept_pair (by assumption) ?_
    | split

theorem execPmWindowEnd_keeps {m : Nat} {b : State} (n : Line) (s : State) (hs : b.kept m s)
    (hm : Foot.sub 0x10000000 m := by
      first | assumption | exact Foot.bit (by assumption) rfl | exact Foot.trans rfl (by assumption)) :
    b.keeps m (execPmWindowEnd n s) := by
  unfold execPmWindowEnd
  repeat' first
    | with_reducible assumption
    | with_reducible apply act_keeps
    | with_reducible apply State.markIntervals_kept
    | with_reducible apply State.setHit_kept
    | with_reducible apply kept_ite
    | with_reducible apply keeps_ite
    | with_reducible apply State.keeps_next
    | exact Foot.bit hm rfl
    | exact Foot.trans rfl hm
    | intro x (hx : State.kept m b x)
    | intro _ x (hx : State.kept m b x)
    | intro x _ (hx : State.kept m b x)
    | intro x _ (hx : State.kept m b x.1)
    | lift_lets
    | intro _

theorem State.pmAdd_kept {m : Nat} {b : State} (s : State) (n : Nat) (k : Nat) (d : Nat) (hs : b.kept m s)
    (hm : Foot.sub 0x60000000000000000000000000000000000000000000000000000000000000000 m := by
      first | assumption | exact Foot.bit (by assumption) rfl | exact Foot.trans rfl (by assumption)) :
    b.kept m (State.pmAdd s n k d) := by
  unfold State.pmAdd
  repeat' first
    | with_reducible assumption
    | with_reducible apply State.inc_kept
    | exact Foot.bit hm rfl

theorem State.pmCommit_kept {m : Nat} {b : State} (s : State) (n : Nat) (k : Nat) (look : List PmWindow)
    (w : PmWindow) (hs : b.kept m s)
    (hm : Foot.sub 0x6E000000000000000000000000000000000000000888000000000000C10000090 m := by
      first | assumption | exact Foot.bit (by assumption) rfl | exact Foot.trans rfl (by assumption)) :
    b.kept m (State.pmCommit s n k look w) := by
  unfold State.pmCommit
  lift_lets
  intro x was full now t f stk u v w base
  have ht : b.kept m t := State.setHit_kept _ _ _ hs
  have hf : m.testBit (regBit f.id) = true := by
    show m.testBit (regBit (if k = 0 then Fld.HTCH_DEF_UAS_SM else .HTCH_DEF_UAS_PM).id) = true
    split <;> exact Foot.bit hm rfl
  have hk : m.testBit (regBit stk.id) = true := by
    show m.testBit (regBit (if k = 0 then Fld.HTCH_DEF_STK_UAS_SM else .HTCH_DEF_STK_UAS_PM).id) = true
    split <;> exact Foot.bit hm rfl
  have hu : b.kept m u := State.wr_kept _ _ _ _ _ _ ht
  have hv : b.kept m v := kept_ite (fun _ => State.wr_kept _ _ _ _ _ _ hu) fun _ => hu
  have hw : b.kept m w := kept_ite (fun _ => State.raise_kept _ _ _ _ _ _ _ hv) fun _ => ht
  clear_value w
  apply kept_ite <;> intro _
  · exact State.pmAdd_kept _ _ _ _ hw
  · have hc := fun c : Prop => fun [Decidable c] =>
      kept_ite (c := c) (fun _ => State.pmAdd_kept _ n base 1 hw) fun _ => hw
    exact kept_ite (fun _ => State.pmAdd_kept _ _ _ _ (hc _)) fun _ => State.pmAdd_kept _ _ _ _ (hc _)

theorem execPmWindowCommit_keeps {m : Nat} {b : State} (n : Line) (s : State) (hs : b.kept m s)
    (hm : Foot.sub 0x6E000000000000000000000000000000000000000888000000000000C10000090 m := by
      first | assumption | exact Foot.bit (by assumption) rfl | exact Foot.trans rfl (by assumption)) :
    b.keeps m (execPmWindowCommit n s) := by
  unfold execPmWindowCommit
  repeat' first
    | with_reducible assumption
    | with_reducible apply act_keeps
    | with_reducible apply State.setHit_kept
    | with_reducible apply State.each_kept
    | with_reducible apply State.pmCommit_kept
    | with_reducible apply kept_ite
    | exact Foot.trans rfl hm
    | intro x (hx : State.kept m b x)
    | intro _ x (hx : State.kept m b x)
    | lift_lets
    | (intro x; clear_value x)
    | intro _
    | split

theorem execIntervalRecordWrite_keeps {m : Nat} {b : State} (n : Line) (day : Bool) (s : State) (hs : b.kept m s)
    (hm : Foot.sub 0x2078000000000000000000000000000000000000000888000000000000C10000090 m := by
      first | assumption | exact Foot.bit (by assumption) rfl | exact Foot.trans rfl (by assumption)) :
    b.keeps m (execIntervalRecordWrite n day s) := by
  unfold execIntervalRecordWrite
  repeat' first
    | with_reducible assumption
    | with_reducible apply act_keeps
    | with_reducible apply State.setReg_kept
    | with_reducible apply State.incWrap_kept
    | with_reducible apply State.wr_kept
    | with_reducible apply State.each_kept
    | with_reducible apply State.setHit_kept
    | with_reducible apply State.raise_kept
    | with_reducible apply kept_ite
    | with_reducible apply keeps_ite
    | with_reducible apply State.keeps_next
    | exact Foot.bit hm rfl
    | exact Foot.trans rfl hm
    | intro x (hx : State.kept m b x)
    | intro _ x (hx : State.kept m b x)
    | intro x _ (hx : State.kept m b x)
    | intro x _ (hx : State.kept m b x.1)
    | lift_lets
    | intro _
    | refine kept_pair (by assumption) ?_
    | split

theorem State.txCfgWrite_kept {m : Nat} {b : State} (s : State) (req : Requester) (n : Nat) (v : Nat)
    (hs : b.kept m s) (hm : Foot.sub 0x800000000000000000000000000000000001010888000000000000C00000890 m := by
      first | assumption | exact Foot.bit (by assumption) rfl | exact Foot.trans rfl (by assumption)) :
    b.kept m (State.txCfgWrite s req n v) := by
  unfold State.txCfgWrite
  repeat' first
    | with_reducible assumption
    | with_reducible apply State.write_kept
    | with_reducible apply State.setReg_kept
    | exact Foot.bit hm rfl
    | exact Foot.trans rfl hm
    | intro x (hx : State.kept m b x)

theorem execForceAis_keeps {m : Nat} {b : State} (req : Requester) (n : Line) (v : Bool) (s : State) (hs : b.kept m s)
    (hm : Foot.sub 0x800000000000000000000000000000000001010888000000000000C00000892 m := by
      first | assumption | exact Foot.bit (by assumption) rfl | exact Foot.trans rfl (by assumption)) :
    b.keeps m (execForceAis req n v s) := by
  unfold execForceAis
  repeat' first
    | with_reducible assumption
    | with_reducible apply access_keeps
    | with_reducible apply State.txCfgWrite_kept
    | exact Foot.trans rfl hm
    | intro x (hx : State.kept m b x)

theorem execForceBdi_keeps {m : Nat} {b : State} (req : Requester) (n : Line) (v : Bool) (s : State) (hs : b.kept m s)
    (hm : Foot.sub 0x800000000000000000000000000000000001010888000000000000C00000892 m := by
      first | assumption | exact Foot.bit (by assumption) rfl | exact Foot.trans rfl (by assumption)) :
    b.keeps m (execForceBdi req n v s) := by
  unfold execForceBdi
  repeat' first
    | with_reducible assumption
    | with_reducible apply access_keeps
    | with_reducible apply State.txCfgWrite_kept
    | exact Foot.trans rfl hm
    | intro x (hx : State.kept m b x)

theorem State.hitchOff_kept {m : Nat} {b : State} (s : State) (n : Nat) (hs : b.kept m s)
    (hm : Foot.sub 0xE032100083000000000000000000000000000000000000000888080000000000C16802090 m := by
      first | assumption | exact Foot.bit (by assumption) rfl | exact Foot.trans rfl (by assumption)) :
    b.kept m (State.hitchOff s n) := by
  unfold State.hitchOff
  repeat' first
    | with_reducible assumption
    | with_reducible apply State.count_kept
    | with_reducible apply State.setReg_kept
    | with_reducible apply State.setHit_kept
    | with_reducible apply State.lineConsequences_kept
    | with_reducible apply State.markIntervals_kept
    | with_reducible apply kept_ite
    | with_reducible apply keeps_ite
    | with_reducible apply State.keeps_next
    | exact Foot.bit hm rfl
    | exact Foot.trans rfl hm

theorem State.hitchOn_kept {m : Nat} {b : State} (s : State) (n : Nat) (hs : b.kept m s)
    (hm : Foot.sub 0x1000000000000000000000000000000000000000000000000000000010000000 m := by
      first | assumption | exact Foot.bit (by assumption) rfl | exact Foot.trans rfl (by assumption)) :
    b.kept m (State.hitchOn s n) := by
  unfold State.hitchOn
  repeat' first
    | with_reducible assumption
    | with_reducible apply State.markIntervals_kept
    | with_reducible apply State.setHit_kept
    | with_reducible apply State.wr_kept
    | with_reducible apply kept_ite
    | with_reducible apply keeps_ite
    | with_reducible apply State.keeps_next
    | exact Foot.bit hm rfl
    | exact Foot.trans rfl hm
    | intro x (hx : State.kept m b x)
    | intro _ x (hx : State.kept m b x)
    | intro x _ (hx : State.kept m b x)
    | intro x _ (hx : State.kept m b x.1)
    | lift_lets
    | (intro x; clear_value x)
    | intro _

theorem afterHitch_kept {m : Nat} {b : State} (old : State) (new : State) (hold : b.kept m old) (hnew : b.kept m new)
    (hm : Foot.sub 0xE03210000E000000000000000000000000000000000000000888080000000000C16802090 m := by
      first | assumption | exact Foot.bit (by assumption) rfl | exact Foot.trans rfl (by assumption)) :
    b.kept m (afterHitch old new) := by
  unfold afterHitch
  repeat' first
    | with_reducible assumption
    | with_reducible apply State.each_kept
    | with_reducible apply State.settleDefects_kept
    | with_reducible apply State.setHit_kept
    | with_reducible apply kept_ite
    | with_reducible apply keeps_ite
    | with_reducible apply State.keeps_next
    | exact Foot.bit hm rfl
    | exact Foot.trans rfl hm
    | intro x (hx : State.kept m b x)
    | intro _ x (hx : State.kept m b x)
    | intro x _ (hx : State.kept m b x)
    | intro x _ (hx : State.kept m b x.1)
    | lift_lets
    | intro _

end Sys2Proof.Machine
end

