-- ==== Sys2Proof/Laws/KeptCleat.lean ====
section
/-! SUPPORT. What every operation of Machine/Cleat.lean keeps: see Laws/Kept.lean. -/

-- The proofs of the whole text do not run side by side: their memory adds up.
set_option Elab.async false

namespace Sys2Proof.Machine

open Sys2Proof

theorem State.setClt_kept {m : Nat} {b : State} (s : State) (n : Nat) (x : CleatInt) (hs : b.kept m s)
    (hm : Foot.sub 0x200000 m := by
      first | assumption | exact Foot.bit (by assumption) rfl | exact Foot.trans rfl (by assumption)) :
    b.kept m (State.setClt s n x) := by
  unfold State.setClt
  repeat' first
    | with_reducible assumption
    | exact Foot.bit hm rfl
    | with_reducible apply kept_cleat'

theorem State.setBgt_kept {m : Nat} {b : State} (s : State) (n : Nat) (x : BightInt) (hs : b.kept m s)
    (hm : Foot.sub 0x100000 m := by
      first | assumption | exact Foot.bit (by assumption) rfl | exact Foot.trans rfl (by assumption)) :
    b.kept m (State.setBgt s n x) := by
  unfold State.setBgt
  repeat' first
    | with_reducible assumption
    | exact Foot.bit hm rfl
    | with_reducible apply kept_bight'

theorem State.keepSc_kept {m : Nat} {b : State} (s : State) (n : Nat) (slot : Nat) (hs : b.kept m s)
    (hm : Foot.sub 0x200000 m := by
      first | assumption | exact Foot.bit (by assumption) rfl | exact Foot.trans rfl (by assumption)) :
    b.kept m (State.keepSc s n slot) := by
  unfold State.keepSc
  repeat' first
    | with_reducible assumption
    | with_reducible apply State.setClt_kept
    | with_reducible apply kept_ite
    | with_reducible apply keeps_ite
    | with_reducible apply State.keeps_next
    | exact Foot.bit hm rfl
    | exact Foot.trans rfl hm
    | intro x (hx : State.kept m b x)
    | intro _ x (hx : State.kept m b x)
    | intro x _ (hx : State.kept m b x)
    | intro x _ (hx : State.kept m b x.1)
    | lift_lets
    | intro _

theorem State.keepSd_kept {m : Nat} {b : State} (s : State) (n : Nat) (hs : b.kept m s)
    (hm : Foot.sub 0x200000 m := by
      first | assumption | exact Foot.bit (by assumption) rfl | exact Foot.trans rfl (by assumption)) :
    b.kept m (State.keepSd s n) := by
  unfold State.keepSd
  repeat' first
    | with_reducible assumption
    | with_reducible apply State.setClt_kept
    | with_reducible apply kept_ite
    | with_reducible apply keeps_ite
    | with_reducible apply State.keeps_next
    | exact Foot.bit hm rfl
    | exact Foot.trans rfl hm
    | intro x (hx : State.kept m b x)
    | intro _ x (hx : State.kept m b x)
    | intro x _ (hx : State.kept m b x)
    | intro x _ (hx : State.kept m b x.1)
    | lift_lets
    | intro _

theorem State.applyIters_kept {m : Nat} {b : State} (s : State) (n : Nat) (hs : b.kept m s)
    (hm : Foot.sub 0x42000000000000000000000000000000000000000000000000000000200000 m := by
      first | assumption | exact Foot.bit (by assumption) rfl | exact Foot.trans rfl (by assumption)) :
    b.kept m (State.applyIters s n) := by
  unfold State.applyIters
  repeat' first
    | with_reducible assumption
    | with_reducible apply State.setClt_kept
    | with_reducible apply State.each_kept
    | with_reducible apply State.wr_kept
    | with_reducible apply kept_ite
    | with_reducible apply keeps_ite
    | with_reducible apply State.keeps_next
    | exact Foot.bit hm rfl
    | exact Foot.trans rfl hm
    | intro x (hx : State.kept m b x)
    | intro _ x (hx : State.kept m b x)
    | intro x _ (hx : State.kept m b x)
    | intro x _ (hx : State.kept m b x.1)
    | lift_lets
    | intro _

theorem State.showFlush_kept {m : Nat} {b : State} (s : State) (n : Nat) (hs : b.kept m s)
    (hm : Foot.sub 0x2000000000000000000000000000000000000000000000000000000000000 m := by
      first | assumption | exact Foot.bit (by assumption) rfl | exact Foot.trans rfl (by assumption)) :
    b.kept m (State.showFlush s n) := by
  unfold State.showFlush
  repeat' first
    | with_reducible assumption
    | with_reducible apply State.wr_kept
    | exact Foot.bit hm rfl

theorem State.lockReturns_kept {m : Nat} {b : State} (s : State) (n : Nat) (slot : Nat) (hs : b.kept m s)
    (hm : Foot.sub 0x6000000000000000000000000000000000000888000000000000C00200090 m := by
      first | assumption | exact Foot.bit (by assumption) rfl | exact Foot.trans rfl (by assumption)) :
    b.kept m (State.lockReturns s n slot) := by
  unfold State.lockReturns
  repeat' first
    | with_reducible assumption
    | with_reducible apply State.showFlush_kept
    | with_reducible apply State.setClt_kept
    | with_reducible apply State.raise_kept
    | with_reducible apply kept_ite
    | with_reducible apply keeps_ite
    | with_reducible apply State.keeps_next
    | exact Foot.bit hm rfl
    | exact Foot.trans rfl hm

theorem State.decided_kept {m : Nat} {b : State} (s : State) (n : Nat) (slot : Nat) (a3 : SoftBlock) (d : Nodes)
    (ok : Bool) (bad : Bool) (hs : b.kept m s)
    (hm : Foot.sub 0x8000000000000000000000000000000000000000000000000000000200000 m := by
      first | assumption | exact Foot.bit (by assumption) rfl | exact Foot.trans rfl (by assumption)) :
    b.kept m (State.decided s n slot a3 d ok bad).1 := by
  unfold State.decided
  repeat' first
    | with_reducible assumption
    | with_reducible apply State.count_kept
    | with_reducible apply State.setClt_kept
    | with_reducible apply kept_ite
    | with_reducible apply keeps_ite
    | with_reducible apply State.keeps_next
    | exact Foot.bit hm rfl
    | exact Foot.trans rfl hm
    | intro x (hx : State.kept m b x)
    | intro _ x (hx : State.kept m b x)
    | intro x _ (hx : State.kept m b x)
    | intro x _ (hx : State.kept m b x.1)
    | lift_lets
    | intro _

theorem State.leaveWindow_kept {m : Nat} {b : State} (s : State) (n : Nat) (slot : Nat) (a3 : SoftBlock) (d : Nodes)
    (ok : Bool) (hs : b.kept m s)
    (hm : Foot.sub 0x4A000000000000000000000000000000000000000000000000000000200000 m := by
      first | assumption | exact Foot.bit (by assumption) rfl | exact Foot.trans rfl (by assumption)) :
    b.kept m (State.leaveWindow s n slot a3 d ok) := by
  unfold State.leaveWindow
  repeat' first
    | with_reducible assumption
    | with_reducible apply State.decided_kept
    | with_reducible apply State.setClt_kept
    | with_reducible apply State.showFlush_kept
    | with_reducible apply State.wr_kept
    | with_reducible apply kept_ite
    | with_reducible apply keeps_ite
    | with_reducible apply State.keeps_next
    | exact Foot.bit hm rfl
    | exact Foot.trans rfl hm
    | intro x (hx : State.kept m b x)
    | intro _ x (hx : State.kept m b x)
    | intro x _ (hx : State.kept m b x)
    | intro x _ (hx : State.kept m b x.1)
    | lift_lets
    | intro _

theorem State.dealTick_kept {m : Nat} {b : State} (s : State) (n : Nat) (hs : b.kept m s)
    (hm : Foot.sub 0x200000 m := by
      first | assumption | exact Foot.bit (by assumption) rfl | exact Foot.trans rfl (by assumption)) :
    b.kept m (State.dealTick s n) := by
  unfold State.dealTick
  repeat' first
    | with_reducible assumption
    | with_reducible apply State.setClt_kept
    | with_reducible apply kept_foldl
    | with_reducible apply kept_foldl_fst
    | with_reducible apply kept_ite
    | with_reducible apply keeps_ite
    | with_reducible apply State.keeps_next
    | exact Foot.bit hm rfl
    | exact Foot.trans rfl hm
    | intro x (hx : State.kept m b x)
    | intro _ x (hx : State.kept m b x)
    | intro x _ (hx : State.kept m b x)
    | intro x _ (hx : State.kept m b x.1)
    | lift_lets
    | (intro x; clear_value x)
    | intro _

theorem State.shiftNative_kept {m : Nat} {b : State} (s : State) (n : Nat) (slot : Nat) (soft : List Int)
    (hs : b.kept m s) (hm : Foot.sub 0x4A000000000000000000000000000000000000000000000000000000200000 m := by
      first | assumption | exact Foot.bit (by assumption) rfl | exact Foot.trans rfl (by assumption)) :
    b.kept m (State.shiftNative s n slot soft) := by
  unfold State.shiftNative
  repeat' first
    | with_reducible assumption
    | with_reducible apply State.count_kept
    | with_reducible apply State.setClt_kept
    | with_reducible apply State.dealTick_kept
    | with_reducible apply State.leaveWindow_kept
    | with_reducible apply kept_ite
    | with_reducible apply keeps_ite
    | with_reducible apply State.keeps_next
    | exact Foot.bit hm rfl
    | exact Foot.trans rfl hm
    | intro x (hx : State.kept m b x)
    | intro _ x (hx : State.kept m b x)
    | intro x _ (hx : State.kept m b x)
    | intro x _ (hx : State.kept m b x.1)
    | lift_lets
    | (intro x; clear_value x)
    | intro _

theorem State.shiftOzr_kept {m : Nat} {b : State} (s : State) (n : Nat) (soft : List Int) (hs : b.kept m s)
    (hm : Foot.sub 0x48000000000000000000000000000000000000000000000000000000200000 m := by
      first | assumption | exact Foot.bit (by assumption) rfl | exact Foot.trans rfl (by assumption)) :
    b.kept m (State.shiftOzr s n soft) := by
  unfold State.shiftOzr
  repeat' first
    | with_reducible assumption
    | with_reducible apply State.wr_kept
    | with_reducible apply State.count_kept
    | with_reducible apply State.setClt_kept
    | with_reducible apply kept_ite
    | with_reducible apply keeps_ite
    | with_reducible apply State.keeps_next
    | exact Foot.bit hm rfl
    | exact Foot.trans rfl hm

theorem execWindowShift_keeps {m : Nat} {b : State} (n : Line) (slot : Slot) (soft : List Int) (s : State)
    (hs : b.kept m s) (hm : Foot.sub 0x4A000000000000000000000000000000000000000000000000000000200000 m := by
      first | assumption | exact Foot.bit (by assumption) rfl | exact Foot.trans rfl (by assumption)) :
    b.keeps m (execWindowShift n slot soft s) := by
  unfold execWindowShift
  repeat' first
    | with_reducible assumption
    | with_reducible apply act_keeps
    | with_reducible apply State.shiftOzr_kept
    | with_reducible apply State.shiftNative_kept
    | with_reducible apply kept_ite
    | with_reducible apply keeps_ite
    | with_reducible apply State.keeps_next
    | exact Foot.bit hm rfl
    | exact Foot.trans rfl hm
    | intro x (hx : State.kept m b x)
    | intro _ x (hx : State.kept m b x)
    | intro x _ (hx : State.kept m b x)
    | intro x _ (hx : State.kept m b x.1)
    | lift_lets
    | intro _

theorem State.marginCode_kept {m : Nat} {b : State} (s : State) (a1 : Int) (hs : b.kept m s)
    (hm : Foot.sub 0x400000000 m := by
      first | assumption | exact Foot.bit (by assumption) rfl | exact Foot.trans rfl (by assumption)) :
    b.kept m (State.marginCode s a1).1 := by
  unfold State.marginCode
  repeat' first
    | with_reducible assumption
    | with_reducible apply State.draw_kept
    | split

theorem State.measure_kept {m : Nat} {b : State} (s : State) (n : Nat) (slot : Nat) (ngmi : Nat) (hs : b.kept m s)
    (hm : Foot.sub 0x40000000000000000000000000000000000000000000000000000400000000 m := by
      first | assumption | exact Foot.bit (by assumption) rfl | exact Foot.trans rfl (by assumption)) :
    b.kept m (State.measure s n slot ngmi) := by
  unfold State.measure
  repeat' first
    | with_reducible assumption
    | with_reducible apply State.wr_kept
    | with_reducible apply State.marginCode_kept
    | with_reducible apply kept_ite
    | with_reducible apply keeps_ite
    | with_reducible apply State.keeps_next
    | exact Foot.bit hm rfl
    | exact Foot.trans rfl hm

theorem execNgmiMeasure_keeps {m : Nat} {b : State} (n : Line) (s : State) (hs : b.kept m s)
    (hm : Foot.sub 0x32000000042000000000000000000000000000000000000888000000000000C02200090 m := by
      first | assumption | exact Foot.bit (by assumption) rfl | exact Foot.trans rfl (by assumption)) :
    b.keeps m (execNgmiMeasure n s) := by
  unfold execNgmiMeasure
  repeat' first
    | with_reducible assumption
    | with_reducible apply act_keeps
    | with_reducible apply State.each_kept
    | with_reducible apply State.measure_kept
    | with_reducible apply State.marginCode_kept
    | with_reducible apply State.wr_kept
    | with_reducible apply State.setClt_kept
    | with_reducible apply State.bendFrame_kept
    | with_reducible apply kept_ite
    | with_reducible apply keeps_ite
    | with_reducible apply State.keeps_next
    | exact Foot.bit hm rfl
    | exact Foot.trans rfl hm
    | intro x (hx : State.kept m b x)
    | intro _ x (hx : State.kept m b x)
    | intro x _ (hx : State.kept m b x)
    | intro x _ (hx : State.kept m b x.1)
    | lift_lets
    | (intro x; refine kept_cut (m := m) (b := b) (x := x) ?_ ?_ <;> [skip; (clear_value x; intro hx)])
    | (intro x; clear_value x)
    | intro _

theorem execShortSecond_keeps {m : Nat} {b : State} (n : Line) (slot : Slot) (s : State) (hs : b.kept m s)
    (hm : Foot.sub 0x4000000000000000000000000000000000000888000000000000C00000090 m := by
      first | assumption | exact Foot.bit (by assumption) rfl | exact Foot.trans rfl (by assumption)) :
    b.keeps m (execShortSecond n slot s) := by
  unfold execShortSecond
  repeat' first
    | with_reducible assumption
    | with_reducible apply act_keeps
    | with_reducible apply State.raise_kept
    | with_reducible apply kept_ite
    | exact Foot.bit hm rfl
    | exact Foot.trans rfl hm
    | intro x (hx : State.kept m b x)
    | lift_lets
    | intro _

theorem State.lashing_kept {m : Nat} {b : State} (s : State) (n : Nat) (corrected : Option Nat) (hs : b.kept m s)
    (hm : Foot.sub 0xC000000000000000000000000000000000000888000000000000C00200090 m := by
      first | assumption | exact Foot.bit (by assumption) rfl | exact Foot.trans rfl (by assumption)) :
    b.kept m (State.lashing s n corrected) := by
  unfold State.lashing
  repeat' first
    | with_reducible assumption
    | with_reducible apply State.count_kept
    | with_reducible apply State.raise_kept
    | with_reducible apply State.setClt_kept
    | with_reducible apply kept_ite
    | with_reducible apply keeps_ite
    | with_reducible apply State.keeps_next
    | exact Foot.bit hm rfl
    | exact Foot.trans rfl hm
    | intro x (hx : State.kept m b x)
    | intro _ x (hx : State.kept m b x)
    | intro x _ (hx : State.kept m b x)
    | intro x _ (hx : State.kept m b x.1)
    | lift_lets
    | (intro x; refine kept_cut (m := m) (b := b) (x := x) ?_ ?_ <;> [skip; (clear_value x; intro hx)])
    | (intro x; clear_value x)
    | intro _
    | refine kept_pair (by assumption) ?_
    | split

theorem State.toHitch_kept {m : Nat} {b : State} (s : State) (n : Nat) (bits : List RxBit) (hs : b.kept m s)
    (hm : Foot.sub 0x10000000 m := by
      first | assumption | exact Foot.bit (by assumption) rfl | exact Foot.trans rfl (by assumption)) :
    b.kept m (State.toHitch s n bits) := by
  unfold State.toHitch
  repeat' first
    | with_reducible assumption
    | with_reducible apply State.setHit_kept

theorem State.takeWord63_kept {m : Nat} {b : State} (s : State) (n : Nat) (w : List RxBit) (hs : b.kept m s)
    (hm : Foot.sub 0xC000000000000000000000000000000000000888000000000000C10200090 m := by
      first | assumption | exact Foot.bit (by assumption) rfl | exact Foot.trans rfl (by assumption)) :
    b.kept m (State.takeWord63 s n w) := by
  unfold State.takeWord63
  repeat' first
    | with_reducible assumption
    | with_reducible apply State.toHitch_kept
    | with_reducible apply State.lashing_kept
    | with_reducible apply kept_ite
    | with_reducible apply keeps_ite
    | with_reducible apply State.keeps_next
    | exact Foot.bit hm rfl
    | exact Foot.trans rfl hm
    | intro x (hx : State.kept m b x)
    | intro _ x (hx : State.kept m b x)
    | intro x _ (hx : State.kept m b x)
    | intro x _ (hx : State.kept m b x.1)
    | lift_lets
    | (intro x; clear_value x)
    | intro _
    | refine kept_pair (by assumption) ?_
    | split

theorem execLashingCodeword_keeps {m : Nat} {b : State} (n : Line) (s : State) (hs : b.kept m s)
    (hm : Foot.sub 0xC000000000000000000000000000000000000888000000000000C10200090 m := by
      first | assumption | exact Foot.bit (by assumption) rfl | exact Foot.trans rfl (by assumption)) :
    b.keeps m (execLashingCodeword n s) := by
  unfold execLashingCodeword
  repeat' first
    | with_reducible assumption
    | with_reducible apply act_keeps
    | with_reducible apply State.setClt_kept
    | with_reducible apply State.toHitch_kept
    | with_reducible apply State.lashing_kept
    | with_reducible apply State.takeWord63_kept
    | with_reducible apply kept_ite
    | with_reducible apply keeps_ite
    | with_reducible apply State.keeps_next
    | exact Foot.bit hm rfl
    | exact Foot.trans rfl hm
    | intro x (hx : State.kept m b x)
    | intro _ x (hx : State.kept m b x)
    | intro x _ (hx : State.kept m b x)
    | intro x _ (hx : State.kept m b x.1)
    | lift_lets
    | (intro x; refine kept_cut (m := m) (b := b) (x := x) ?_ ?_ <;> [skip; (clear_value x; intro hx)])
    | (intro x; clear_value x)
    | intro _
    | refine kept_pair (by assumption) ?_
    | split

theorem State.setSd_kept {m : Nat} {b : State} (s : State) (n : Nat) (v : Bool) (hs : b.kept m s)
    (hm : Foot.sub 0xE03210000E006000000000000000000000000000000000000888080000000000C16802090 m := by
      first | assumption | exact Foot.bit (by assumption) rfl | exact Foot.trans rfl (by assumption)) :
    b.kept m (State.setSd s n v) := by
  unfold State.setSd
  repeat' first
    | with_reducible assumption
    | with_reducible apply State.wr_kept
    | with_reducible apply State.raise_kept
    | with_reducible apply State.settleDefects_kept
    | with_reducible apply kept_ite
    | exact Foot.bit hm rfl
    | exact Foot.trans rfl hm
    | lift_lets
    | intro _

theorem execFecSdSecond_keeps {m : Nat} {b : State} (n : Line) (s : State) (hs : b.kept m s)
    (hm : Foot.sub 0xE03210000E006000000000000000000000000000000000000888080000000000C16A02090 m := by
      first | assumption | exact Foot.bit (by assumption) rfl | exact Foot.trans rfl (by assumption)) :
    b.keeps m (execFecSdSecond n s) := by
  unfold execFecSdSecond
  repeat' first
    | with_reducible assumption
    | with_reducible apply act_keeps
    | with_reducible apply State.setClt_kept
    | with_reducible apply State.setSd_kept
    | with_reducible apply kept_ite
    | with_reducible apply keeps_ite
    | with_reducible apply State.keeps_next
    | exact Foot.bit hm rfl
    | exact Foot.trans rfl hm
    | intro x (hx : State.kept m b x)
    | intro _ x (hx : State.kept m b x)
    | intro x _ (hx : State.kept m b x)
    | intro x _ (hx : State.kept m b x.1)
    | lift_lets
    | (intro x; refine kept_cut (m := m) (b := b) (x := x) ?_ ?_ <;> [skip; (clear_value x; intro hx)])
    | (intro x; clear_value x)
    | intro _

theorem State.cleatSecond_kept {m : Nat} {b : State} (s : State) (hs : b.kept m s) (hm : Foot.sub 0x200000 m := by
      first | assumption | exact Foot.bit (by assumption) rfl | exact Foot.trans rfl (by assumption)) :
    b.kept m (State.cleatSecond s) := by
  unfold State.cleatSecond
  repeat' first
    | with_reducible assumption
    | with_reducible apply State.each_kept
    | with_reducible apply State.setClt_kept
    | intro _ x (hx : State.kept m b x)

theorem State.cleatLayout_kept {m : Nat} {b : State} (s : State) (n : Nat) (hs : b.kept m s)
    (hm : Foot.sub 0x42000000000000000000000000000000000000000000000000000000200000 m := by
      first | assumption | exact Foot.bit (by assumption) rfl | exact Foot.trans rfl (by assumption)) :
    b.kept m (State.cleatLayout s n) := by
  unfold State.cleatLayout
  repeat' first
    | with_reducible assumption
    | with_reducible apply State.showFlush_kept
    | with_reducible apply State.setClt_kept
    | with_reducible apply State.each_kept
    | with_reducible apply State.setReg_kept
    | with_reducible apply kept_ite
    | with_reducible apply keeps_ite
    | with_reducible apply State.keeps_next
    | exact Foot.bit hm rfl
    | exact Foot.trans rfl hm
    | intro x (hx : State.kept m b x)
    | intro _ x (hx : State.kept m b x)
    | intro x _ (hx : State.kept m b x)
    | intro x _ (hx : State.kept m b x.1)
    | lift_lets
    | intro _

theorem State.cleatOff_kept {m : Nat} {b : State} (s : State) (n : Nat) (hs : b.kept m s)
    (hm : Foot.sub 0x42000000000000000000000000000000000000000000000000000000200000 m := by
      first | assumption | exact Foot.bit (by assumption) rfl | exact Foot.trans rfl (by assumption)) :
    b.kept m (State.cleatOff s n) := by
  unfold State.cleatOff
  repeat' first
    | with_reducible assumption
    | with_reducible apply State.cleatLayout_kept
    | with_reducible apply State.setReg_kept
    | with_reducible apply State.setClt_kept
    | exact Foot.bit hm rfl
    | exact Foot.trans rfl hm

theorem State.cleatOn_kept {m : Nat} {b : State} (s : State) (n : Nat) (hs : b.kept m s)
    (hm : Foot.sub 0x200000 m := by
      first | assumption | exact Foot.bit (by assumption) rfl | exact Foot.trans rfl (by assumption)) :
    b.kept m (State.cleatOn s n) := by
  unfold State.cleatOn
  repeat' first
    | with_reducible assumption
    | with_reducible apply State.setClt_kept

theorem afterCleat_kept {m : Nat} {b : State} (new : State) (hnew : b.kept m new) (hm : Foot.sub 0x200000 m := by
      first | assumption | exact Foot.bit (by assumption) rfl | exact Foot.trans rfl (by assumption)) :
    b.kept m (afterCleat new) := by
  unfold afterCleat
  repeat' first
    | with_reducible assumption
    | with_reducible apply State.each_kept
    | with_reducible apply State.setClt_kept
    | with_reducible apply kept_ite
    | intro _ x (hx : State.kept m b x)
    | lift_lets
    | intro _

end Sys2Proof.Machine
end

