-- ==== Sys2Proof/Laws/KeptBraid.lean ====
section
/-! SUPPORT. What every operation of Machine/Braid.lean keeps: see Laws/Kept.lean. -/

-- The proofs of the whole text do not run side by side: their memory adds up.
set_option Elab.async false

namespace Sys2Proof.Machine

open Sys2Proof

theorem State.setBrd_kept {m : Nat} {b : State} (s : State) (n : Nat) (x : BraidInt) (hs : b.kept m s)
    (hm : Foot.sub 0x20000 m := by
      first | assumption | exact Foot.bit (by assumption) rfl | exact Foot.trans rfl (by assumption)) :
    b.kept m (State.setBrd s n x) := by
  unfold State.setBrd
  repeat' first
    | with_reducible assumption
    | exact Foot.bit hm rfl
    | with_reducible apply kept_braid'

theorem State.setStr_kept {m : Nat} {b : State} (s : State) (n : Nat) (x : StrandInt) (hs : b.kept m s)
    (hm : Foot.sub 0x10000 m := by
      first | assumption | exact Foot.bit (by assumption) rfl | exact Foot.trans rfl (by assumption)) :
    b.kept m (State.setStr s n x) := by
  unfold State.setStr
  repeat' first
    | with_reducible assumption
    | exact Foot.bit hm rfl
    | with_reducible apply kept_strand'

theorem State.braidEvent_kept {m : Nat} {b : State} (s : State) (n : Nat) (f : Fld) (code : Nat) (hs : b.kept m s)
    (hm : Foot.sub 0x888000000000000C00000090 m := by
      first | assumption | exact Foot.bit (by assumption) rfl | exact Foot.trans rfl (by assumption)) (hmf : m.testBit (regBit f.id) = true := by
      first | assumption | exact Foot.bit (by assumption) rfl | exact Foot.trans rfl (by assumption)) :
    b.kept m (State.braidEvent s n f code) := by
  unfold State.braidEvent
  repeat' first
    | with_reducible assumption
    | with_reducible apply State.raise_kept

theorem State.setAct_kept {m : Nat} {b : State} (s : State) (n : Nat) (slot : Nat) (base : Nat) (ent : Nat)
    (hs : b.kept m s) (hm : Foot.sub 0x400000000000000000000000000000000000000000000000000 m := by
      first | assumption | exact Foot.bit (by assumption) rfl | exact Foot.trans rfl (by assumption)) :
    b.kept m (State.setAct s n slot base ent) := by
  unfold State.setAct
  repeat' first
    | with_reducible assumption
    | with_reducible apply State.wr_kept
    | exact Foot.bit hm rfl

theorem State.setTx_kept {m : Nat} {b : State} (s : State) (n : Nat) (id : Nat) (table : List (Nat × Nat × Nat))
    (hs : b.kept m s) (hm : Foot.sub 0x440000000000000000000000000000000000000000000000000 m := by
      first | assumption | exact Foot.bit (by assumption) rfl | exact Foot.trans rfl (by assumption)) :
    b.kept m (State.setTx s n id table) := by
  unfold State.setTx
  repeat' first
    | with_reducible assumption
    | with_reducible apply State.each_kept
    | with_reducible apply State.setAct_kept
    | with_reducible apply State.setReg_kept
    | with_reducible apply State.wr_kept
    | exact Foot.bit hm rfl
    | exact Foot.trans rfl hm
    | intro _ x (hx : State.kept m b x)
    | lift_lets
    | split

theorem State.idleTx_kept {m : Nat} {b : State} (s : State) (n : Nat) (hs : b.kept m s)
    (hm : Foot.sub 0x40000000000000000000000000000000000000000000000000 m := by
      first | assumption | exact Foot.bit (by assumption) rfl | exact Foot.trans rfl (by assumption)) :
    b.kept m (State.idleTx s n) := by
  unfold State.idleTx
  repeat' first
    | with_reducible assumption
    | with_reducible apply State.wr_kept
    | exact Foot.bit hm rfl

theorem State.startTx_kept {m : Nat} {b : State} (s : State) (n : Nat) (hs : b.kept m s)
    (hm : Foot.sub 0x440000000000000000000000000000000000000000000020000 m := by
      first | assumption | exact Foot.bit (by assumption) rfl | exact Foot.trans rfl (by assumption)) :
    b.kept m (State.startTx s n) := by
  unfold State.startTx
  repeat' first
    | with_reducible assumption
    | with_reducible apply State.setTx_kept
    | with_reducible apply State.idleTx_kept
    | with_reducible apply State.setBrd_kept
    | exact Foot.trans rfl hm

theorem State.holdFloor_kept {m : Nat} {b : State} (s : State) (n : Nat) (slot : Nat) (held : Bool) (hs : b.kept m s)
    (hm : Foot.sub 0x80000000000000000000000000888000000000000C00020090 m := by
      first | assumption | exact Foot.bit (by assumption) rfl | exact Foot.trans rfl (by assumption)) :
    b.kept m (State.holdFloor s n slot held) := by
  unfold State.holdFloor
  repeat' first
    | with_reducible assumption
    | with_reducible apply State.braidEvent_kept
    | with_reducible apply State.setBrd_kept
    | with_reducible apply kept_ite
    | exact Foot.bit hm rfl
    | exact Foot.trans rfl hm
    | lift_lets
    | intro _

theorem State.propose_kept {m : Nat} {b : State} (s : State) (n : Nat) (table : List (Nat × Nat × Nat))
    (hs : b.kept m s) (hm : Foot.sub 0x40000000000000000000000000000000000000000000020000 m := by
      first | assumption | exact Foot.bit (by assumption) rfl | exact Foot.trans rfl (by assumption)) :
    b.kept m (State.propose s n table) := by
  unfold State.propose
  repeat' first
    | with_reducible assumption
    | with_reducible apply State.setBrd_kept
    | with_reducible apply State.wr_kept
    | with_reducible apply kept_ite
    | exact Foot.bit hm rfl
    | exact Foot.trans rfl hm
    | lift_lets
    | (intro x; clear_value x)
    | intro _

theorem State.proposeChoice_kept {m : Nat} {b : State} (s : State) (n : Nat) (hs : b.kept m s)
    (hm : Foot.sub 0x40000000000000000000000000000000000000000000020000 m := by
      first | assumption | exact Foot.bit (by assumption) rfl | exact Foot.trans rfl (by assumption)) :
    b.kept m (State.proposeChoice s n) := by
  unfold State.proposeChoice
  repeat' first
    | with_reducible assumption
    | with_reducible apply State.propose_kept

theorem State.proposeManual_kept {m : Nat} {b : State} (s : State) (n : Nat) (hs : b.kept m s)
    (hm : Foot.sub 0x40000000000000000000000000000000000000000000020000 m := by
      first | assumption | exact Foot.bit (by assumption) rfl | exact Foot.trans rfl (by assumption)) :
    b.kept m (State.proposeManual s n) := by
  unfold State.proposeManual
  repeat' first
    | with_reducible assumption
    | with_reducible apply State.propose_kept

theorem execLoadingEvaluation_keeps {m : Nat} {b : State} (n : Line) (s : State) (hs : b.kept m s)
    (hm : Foot.sub 0xC0000000000000000000000000888000000000000C00020090 m := by
      first | assumption | exact Foot.bit (by assumption) rfl | exact Foot.trans rfl (by assumption)) :
    b.keeps m (execLoadingEvaluation n s) := by
  unfold execLoadingEvaluation
  repeat' first
    | with_reducible assumption
    | with_reducible apply act_keeps
    | with_reducible apply State.each_kept
    | with_reducible apply State.setBrd_kept
    | with_reducible apply State.holdFloor_kept
    | with_reducible apply State.proposeChoice_kept
    | with_reducible apply kept_ite
    | exact Foot.trans rfl hm
    | intro x (hx : State.kept m b x)
    | intro _ x (hx : State.kept m b x)
    | lift_lets
    | (intro x; refine kept_cut (m := m) (b := b) (x := x) ?_ ?_ <;> [skip; (clear_value x; intro hx)])
    | (intro x; clear_value x)
    | intro _

theorem State.countDown_kept {m : Nat} {b : State} (s : State) (n : Nat) (state : Nat) (id : Nat)
    (table : List (Nat × Nat × Nat)) (hs : b.kept m s)
    (hm : Foot.sub 0x40000000000000000000000000000000000000000000020000 m := by
      first | assumption | exact Foot.bit (by assumption) rfl | exact Foot.trans rfl (by assumption)) :
    b.kept m (State.countDown s n state id table) := by
  unfold State.countDown
  repeat' first
    | with_reducible assumption
    | with_reducible apply State.setBrd_kept
    | with_reducible apply State.wr_kept
    | exact Foot.bit hm rfl
    | exact Foot.trans rfl hm

theorem State.forceStart_kept {m : Nat} {b : State} (s : State) (n : Nat) (hs : b.kept m s)
    (hm : Foot.sub 0xC0000000000000000000000000888000000000000C00020090 m := by
      first | assumption | exact Foot.bit (by assumption) rfl | exact Foot.trans rfl (by assumption)) :
    b.kept m (State.forceStart s n) := by
  unfold State.forceStart
  repeat' first
    | with_reducible assumption
    | with_reducible apply State.setBrd_kept
    | with_reducible apply State.countDown_kept
    | with_reducible apply State.braidEvent_kept
    | with_reducible apply kept_ite
    | exact Foot.bit hm rfl
    | exact Foot.trans rfl hm
    | lift_lets
    | (intro x; clear_value x)
    | intro _

theorem State.afterProposal_kept {m : Nat} {b : State} (s : State) (n : Nat) (hs : b.kept m s)
    (hm : Foot.sub 0xC0000000000000000000000000888000000000000C00020090 m := by
      first | assumption | exact Foot.bit (by assumption) rfl | exact Foot.trans rfl (by assumption)) :
    b.kept m (State.afterProposal s n) := by
  unfold State.afterProposal
  repeat' first
    | with_reducible assumption
    | with_reducible apply State.setBrd_kept
    | with_reducible apply State.forceStart_kept
    | with_reducible apply State.proposeManual_kept
    | with_reducible apply State.proposeChoice_kept
    | with_reducible apply kept_ite
    | exact Foot.trans rfl hm
    | lift_lets
    | (intro x; clear_value x)
    | intro _

theorem State.withdraw_kept {m : Nat} {b : State} (s : State) (n : Nat) (hs : b.kept m s)
    (hm : Foot.sub 0xC0000000000000000000000000888000000000000C00020090 m := by
      first | assumption | exact Foot.bit (by assumption) rfl | exact Foot.trans rfl (by assumption)) :
    b.kept m (State.withdraw s n) := by
  unfold State.withdraw
  repeat' first
    | with_reducible assumption
    | with_reducible apply State.idleTx_kept
    | with_reducible apply State.afterProposal_kept
    | with_reducible apply State.setBrd_kept
    | exact Foot.trans rfl hm

theorem State.takeArm_kept {m : Nat} {b : State} (s : State) (n : Nat) (arm : Nat) (id : Nat) (hs : b.kept m s)
    (hm : Foot.sub 0xC0000000000000000000000000888000000000000C00020090 m := by
      first | assumption | exact Foot.bit (by assumption) rfl | exact Foot.trans rfl (by assumption)) :
    b.kept m (State.takeArm s n arm id) := by
  unfold State.takeArm
  repeat' first
    | with_reducible assumption
    | with_reducible apply State.countDown_kept
    | with_reducible apply State.withdraw_kept
    | with_reducible apply State.braidEvent_kept
    | with_reducible apply kept_ite
    | exact Foot.bit hm rfl
    | exact Foot.trans rfl hm
    | lift_lets
    | intro _

theorem execArmTimeout_keeps {m : Nat} {b : State} (n : Line) (s : State) (hs : b.kept m s)
    (hm : Foot.sub 0xC0000000000000000000000000888000000000000C00020090 m := by
      first | assumption | exact Foot.bit (by assumption) rfl | exact Foot.trans rfl (by assumption)) :
    b.keeps m (execArmTimeout n s) := by
  unfold execArmTimeout
  repeat' first
    | with_reducible assumption
    | with_reducible apply act_keeps
    | with_reducible apply State.withdraw_kept
    | with_reducible apply State.braidEvent_kept
    | with_reducible apply kept_ite
    | exact Foot.bit hm rfl
    | exact Foot.trans rfl hm
    | intro x (hx : State.kept m b x)
    | lift_lets
    | intro _

theorem execCountdownTick_keeps {m : Nat} {b : State} (n : Line) (s : State) (hs : b.kept m s)
    (hm : Foot.sub 0x90000000000004C0000000000000000000000000888000000000000C00020090 m := by
      first | assumption | exact Foot.bit (by assumption) rfl | exact Foot.trans rfl (by assumption)) :
    b.keeps m (execCountdownTick n s) := by
  unfold execCountdownTick
  repeat' first
    | with_reducible assumption
    | with_reducible apply act_keeps
    | with_reducible apply State.wr_kept
    | with_reducible apply State.braidEvent_kept
    | with_reducible apply State.idleTx_kept
    | with_reducible apply State.setTx_kept
    | with_reducible apply State.afterProposal_kept
    | with_reducible apply State.frameShort_kept
    | with_reducible apply State.setBrd_kept
    | with_reducible apply kept_ite
    | exact Foot.bit hm rfl
    | exact Foot.trans rfl hm
    | intro x (hx : State.kept m b x)
    | lift_lets
    | (intro x; refine kept_cut (m := m) (b := b) (x := x) ?_ ?_ <;> [skip; (clear_value x; intro hx)])
    | (intro x; clear_value x)
    | intro _

theorem execForcedReversion_keeps {m : Nat} {b : State} (n : Line) (s : State) (hs : b.kept m s)
    (hm : Foot.sub 0xC0000000000000000000000000888000000000000C00020090 m := by
      first | assumption | exact Foot.bit (by assumption) rfl | exact Foot.trans rfl (by assumption)) :
    b.keeps m (execForcedReversion n s) := by
  unfold execForcedReversion
  repeat' first
    | with_reducible assumption
    | with_reducible apply act_keeps
    | with_reducible apply State.forceStart_kept
    | with_reducible apply kept_ite
    | intro x (hx : State.kept m b x)
    | lift_lets
    | intro _

theorem State.runWrite_kept {m : Nat} {b : State} (s : State) (req : Requester) (dom : Nat) (key : RegKey) (new : Nat)
    (f : State → State) (hs : b.kept m s) (hf : ∀ y0, b.kept m y0 → b.kept m (f y0))
    (hm : Foot.sub 0x1010888000000000000C00000890 m := by
      first | assumption | exact Foot.bit (by assumption) rfl | exact Foot.trans rfl (by assumption)) :
    b.kept m (State.runWrite s req dom key new f) := by
  unfold State.runWrite
  repeat' first
    | with_reducible assumption
    | with_reducible apply State.write_kept

theorem State.manGo_kept {m : Nat} {b : State} (s : State) (n : Nat) (hs : b.kept m s)
    (hm : Foot.sub 0x40000000000000000000000000000000000000000000020000 m := by
      first | assumption | exact Foot.bit (by assumption) rfl | exact Foot.trans rfl (by assumption)) :
    b.kept m (State.manGo s n) := by
  unfold State.manGo
  repeat' first
    | with_reducible assumption
    | with_reducible apply State.proposeManual_kept
    | with_reducible apply State.setBrd_kept
    | with_reducible apply kept_ite
    | exact Foot.trans rfl hm
    | lift_lets
    | (intro x; clear_value x)
    | intro _

theorem execManGo_keeps {m : Nat} {b : State} (req : Requester) (n : Line) (s : State) (hs : b.kept m s)
    (hm : Foot.sub 0x40000000000000000000001010888000000000000C00020892 m := by
      first | assumption | exact Foot.bit (by assumption) rfl | exact Foot.trans rfl (by assumption)) :
    b.keeps m (execManGo req n s) := by
  unfold execManGo
  repeat' first
    | with_reducible assumption
    | with_reducible apply access_keeps
    | with_reducible apply State.runWrite_kept
    | with_reducible apply State.manGo_kept
    | exact Foot.trans rfl hm
    | intro x (hx : State.kept m b x)

theorem State.braidUpdate_kept {m : Nat} {b : State} (s : State) (n : Nat) (v : Nat) (hs : b.kept m s)
    (hm : Foot.sub 0x4C0000000000000000000000000888000000000000C00020090 m := by
      first | assumption | exact Foot.bit (by assumption) rfl | exact Foot.trans rfl (by assumption)) :
    b.kept m (State.braidUpdate s n v) := by
  unfold State.braidUpdate
  repeat' first
    | with_reducible assumption
    | with_reducible apply State.each_kept
    | with_reducible apply State.wr_kept
    | with_reducible apply State.setBrd_kept
    | with_reducible apply State.takeArm_kept
    | with_reducible apply State.forceStart_kept
    | with_reducible apply State.braidEvent_kept
    | with_reducible apply kept_ite
    | exact Foot.bit hm rfl
    | exact Foot.trans rfl hm
    | intro _ x (hx : State.kept m b x)
    | lift_lets
    | intro _

theorem State.unassignedWrite_kept {m : Nat} {b : State} (s : State) (hs : b.kept m s)
    (hm : Foot.sub 0x40000000000000000 m := by
      first | assumption | exact Foot.bit (by assumption) rfl | exact Foot.trans rfl (by assumption)) :
    b.kept m (State.unassignedWrite s) := by
  unfold State.unassignedWrite
  repeat' first
    | with_reducible assumption
    | with_reducible apply State.inc_kept
    | exact Foot.bit hm rfl

theorem State.pdWrite_kept {m : Nat} {b : State} (s : State) (key : RegKey) (v : Nat) (hs : b.kept m s)
    (hm : Foot.sub 0x4000000000000000000000000888000000000000C00000090 m := by
      first | assumption | exact Foot.bit (by assumption) rfl | exact Foot.trans rfl (by assumption))
    (hmkey : m.testBit (regBit key.id) = true := by
      first | assumption | exact Foot.bit (by assumption) rfl | exact Foot.trans rfl (by assumption)) :
    b.kept m (State.pdWrite s key v) := by
  unfold State.pdWrite
  repeat' first
    | with_reducible assumption
    | with_reducible apply State.setReg_kept
    | with_reducible apply State.refuse_kept
    | with_reducible apply kept_ite
    | exact Foot.trans rfl hm
    | lift_lets
    | intro _

theorem execPdTableWrite_keeps {m : Nat} {b : State} (req : Requester) (n : Line) (lut : Bool) (t : Trib) (idx : Nat)
    (value : Nat) (s : State) (hs : b.kept m s)
    (hm : Foot.sub 0xC004000000000000000000001010888000040000000C00000892 m := by
      first | assumption | exact Foot.bit (by assumption) rfl | exact Foot.trans rfl (by assumption)) :
    b.keeps m (execPdTableWrite req n lut t idx value s) := by
  unfold execPdTableWrite
  refine access_keeps _ _ _ _ hs ?_
  intro u hu
  have hb : m.testBit (regBit (if lut = true then RegId.BRAD_PD_LUT else .BRAD_PD_FIR)) = true := by
    split <;> exact Foot.bit hm rfl
  exact kept_ite (fun _ => State.runWrite_kept _ _ _ _ _ _ hu fun _ h => State.pdWrite_kept _ _ _ h (hmkey := hb))
    fun _ => State.unassignedWrite_kept _ hu

theorem State.refreshTxen_kept {m : Nat} {b : State} (s : State) (hs : b.kept m s) (hm : Foot.sub 0x8 m := by
      first | assumption | exact Foot.bit (by assumption) rfl | exact Foot.trans rfl (by assumption)) :
    b.kept m (State.refreshTxen s) := by
  unfold State.refreshTxen
  repeat' first
    | with_reducible assumption
    | exact Foot.bit hm rfl
    | lift_lets
    | (intro x; clear_value x)
    | with_reducible apply kept_pins

theorem State.calEnded_kept {m : Nat} {b : State} (s : State) (n : Nat) (hs : b.kept m s)
    (hm : Foot.sub 0x4000000000000000000 m := by
      first | assumption | exact Foot.bit (by assumption) rfl | exact Foot.trans rfl (by assumption)) :
    b.kept m (State.calEnded s n) := by
  unfold State.calEnded
  have hb : m.testBit (regBit (busyFld n).id) = true := by
    unfold busyFld
    split <;> exact Foot.bit hm rfl
  exact kept_ite (fun _ => hs) fun _ => State.wr_kept _ _ _ _ _ _ hs hb

theorem State.dacStart_kept {m : Nat} {b : State} (s : State) (n : Nat) (hs : b.kept m s)
    (hm : Foot.sub 0x80000000000000000000000000000000000000000000000 m := by
      first | assumption | exact Foot.bit (by assumption) rfl | exact Foot.trans rfl (by assumption)) :
    b.kept m (State.dacStart s n) := by
  unfold State.dacStart
  repeat' first
    | with_reducible assumption
    | with_reducible apply State.wr_kept
    | exact Foot.bit hm rfl

theorem State.dacReq_kept {m : Nat} {b : State} (s : State) (n : Nat) (hs : b.kept m s)
    (hm : Foot.sub 0x80000000000000000000000000000000000000000000000 m := by
      first | assumption | exact Foot.bit (by assumption) rfl | exact Foot.trans rfl (by assumption)) :
    b.kept m (State.dacReq s n) := by
  unfold State.dacReq
  repeat' first
    | with_reducible assumption
    | with_reducible apply State.wr_kept
    | with_reducible apply State.dacStart_kept
    | with_reducible apply kept_ite
    | exact Foot.bit hm rfl
    | lift_lets
    | intro _

theorem execDacFgReq_keeps {m : Nat} {b : State} (req : Requester) (n : Line) (s : State) (hs : b.kept m s)
    (hm : Foot.sub 0x80000000000000000001010888000000000000C00000892 m := by
      first | assumption | exact Foot.bit (by assumption) rfl | exact Foot.trans rfl (by assumption)) :
    b.keeps m (execDacFgReq req n s) := by
  unfold execDacFgReq
  repeat' first
    | with_reducible assumption
    | with_reducible apply access_keeps
    | with_reducible apply State.runWrite_kept
    | with_reducible apply State.dacReq_kept
    | exact Foot.trans rfl hm
    | intro x (hx : State.kept m b x)

theorem State.calResult_kept {m : Nat} {b : State} (s : State) (n : Nat) (adc : Bool) (t : Nat) (c : List Calib)
    (hs : b.kept m s) (hm : Foot.sub 0x10000 m := by
      first | assumption | exact Foot.bit (by assumption) rfl | exact Foot.trans rfl (by assumption)) :
    b.kept m (State.calResult s n adc t c) := by
  unfold State.calResult
  repeat' first
    | with_reducible assumption
    | with_reducible apply State.setStr_kept

theorem State.calResults_kept {m : Nat} {b : State} (s : State) (n : Nat) (adc : Bool) (cal : List (List Calib))
    (hs : b.kept m s) (hm : Foot.sub 0x10000 m := by
      first | assumption | exact Foot.bit (by assumption) rfl | exact Foot.trans rfl (by assumption)) :
    b.kept m (State.calResults s n adc cal) := by
  unfold State.calResults
  repeat' first
    | with_reducible assumption
    | with_reducible apply State.each_kept
    | with_reducible apply State.calResult_kept
    | with_reducible apply kept_ite
    | with_reducible apply keeps_ite
    | with_reducible apply State.keeps_next
    | exact Foot.bit hm rfl
    | exact Foot.trans rfl hm
    | intro x (hx : State.kept m b x)
    | intro _ x (hx : State.kept m b x)

theorem execDacFgCalDone_keeps {m : Nat} {b : State} (n : Line) (ok : Bool) (t : Trib) (cal : List (List Calib))
    (s : State) (hs : b.kept m s) (hm : Foot.sub 0x440880000000000000000000000888004000000000C00030098 m := by
      first | assumption | exact Foot.bit (by assumption) rfl | exact Foot.trans rfl (by assumption)) :
    b.keeps m (execDacFgCalDone n ok t cal s) := by
  unfold execDacFgCalDone
  repeat' first
    | with_reducible assumption
    | with_reducible apply act_keeps
    | with_reducible apply State.wr_kept
    | with_reducible apply State.calResults_kept
    | with_reducible apply State.setStr_kept
    | with_reducible apply State.raise_kept
    | with_reducible apply State.startTx_kept
    | with_reducible apply State.refreshTxen_kept
    | with_reducible apply State.calEnded_kept
    | with_reducible apply kept_ite
    | with_reducible apply keeps_ite
    | with_reducible apply State.keeps_next
    | exact Foot.bit hm rfl
    | exact Foot.trans rfl hm
    | intro x (hx : State.kept m b x)
    | intro _ x (hx : State.kept m b x)
    | intro x _ (hx : State.kept m b x)
    | intro x _ (hx : State.kept m b x.1)
    | lift_lets
    | (intro x; refine kept_cut (m := m) (b := b) (x := x) ?_ ?_ <;> [skip; (clear_value x; intro hx)])
    | (intro x; clear_value x)
    | intro _

theorem execDacBgCalUpdate_keeps {m : Nat} {b : State} (n : Line) (t : Trib) (c : List Calib) (s : State)
    (hs : b.kept m s) (hm : Foot.sub 0x800000000000000000000000888000000000000C00010090 m := by
      first | assumption | exact Foot.bit (by assumption) rfl | exact Foot.trans rfl (by assumption)) :
    b.keeps m (execDacBgCalUpdate n t c s) := by
  unfold execDacBgCalUpdate
  repeat' first
    | with_reducible assumption
    | with_reducible apply act_keeps
    | with_reducible apply State.calResult_kept
    | with_reducible apply State.setStr_kept
    | with_reducible apply State.raise_kept
    | with_reducible apply kept_ite
    | with_reducible apply keeps_ite
    | with_reducible apply State.keeps_next
    | exact Foot.bit hm rfl
    | exact Foot.trans rfl hm
    | intro x (hx : State.kept m b x)
    | intro _ x (hx : State.kept m b x)
    | intro x _ (hx : State.kept m b x)
    | intro x _ (hx : State.kept m b x.1)
    | lift_lets
    | (intro x; refine kept_cut (m := m) (b := b) (x := x) ?_ ?_ <;> [skip; (clear_value x; intro hx)])
    | (intro x; clear_value x)
    | intro _

theorem State.braidOff_kept {m : Nat} {b : State} (s : State) (n : Nat) (hs : b.kept m s)
    (hm : Foot.sub 0x440080000000000000000000000000000000000000000030008 m := by
      first | assumption | exact Foot.bit (by assumption) rfl | exact Foot.trans rfl (by assumption)) :
    b.kept m (State.braidOff s n) := by
  unfold State.braidOff
  repeat' first
    | with_reducible assumption
    | with_reducible apply State.wr_kept
    | with_reducible apply State.setBrd_kept
    | with_reducible apply State.setStr_kept
    | with_reducible apply State.setTx_kept
    | with_reducible apply State.setReg_kept
    | with_reducible apply State.refreshTxen_kept
    | with_reducible apply kept_ite
    | exact Foot.bit hm rfl
    | exact Foot.trans rfl hm
    | lift_lets
    | intro _

theorem State.braidOn_kept {m : Nat} {b : State} (s : State) (n : Nat) (hs : b.kept m s)
    (hm : Foot.sub 0x440080000000000000000000000000000000000000000000000 m := by
      first | assumption | exact Foot.bit (by assumption) rfl | exact Foot.trans rfl (by assumption)) :
    b.kept m (State.braidOn s n) := by
  unfold State.braidOn
  repeat' first
    | with_reducible assumption
    | with_reducible apply State.dacStart_kept
    | with_reducible apply State.setTx_kept
    | exact Foot.trans rfl hm

theorem State.encoderLayout_kept {m : Nat} {b : State} (s : State) (old : State) (n : Nat) (hs : b.kept m s)
    (hold : b.kept m old) (hm : Foot.sub 0x200000 m := by
      first | assumption | exact Foot.bit (by assumption) rfl | exact Foot.trans rfl (by assumption)) :
    b.kept m (State.encoderLayout s old n) := by
  unfold State.encoderLayout
  repeat' first
    | with_reducible assumption
    | with_reducible apply State.setClt_kept

theorem State.braidCommitted_kept {m : Nat} {b : State} (old : State) (new : State) (n : Nat) (hold : b.kept m old)
    (hnew : b.kept m new) (hm : Foot.sub 0x4C0000000000000000000000000888000000000000C00320090 m := by
      first | assumption | exact Foot.bit (by assumption) rfl | exact Foot.trans rfl (by assumption)) :
    b.kept m (State.braidCommitted old new n) := by
  unfold State.braidCommitted
  repeat' first
    | with_reducible assumption
    | with_reducible apply State.startTx_kept
    | with_reducible apply State.encoderLayout_kept
    | with_reducible apply State.setBgt_kept
    | with_reducible apply State.withdraw_kept
    | with_reducible apply kept_ite
    | with_reducible apply keeps_ite
    | with_reducible apply State.keeps_next
    | exact Foot.bit hm rfl
    | exact Foot.trans rfl hm
    | intro x (hx : State.kept m b x)
    | intro _ x (hx : State.kept m b x)
    | intro x _ (hx : State.kept m b x)
    | intro x _ (hx : State.kept m b x.1)
    | lift_lets
    | (intro x; refine kept_cut (m := m) (b := b) (x := x) ?_ ?_ <;> [skip; (clear_value x; intro hx)])
    | (intro x; clear_value x)
    | intro _

theorem afterBraid_kept {m : Nat} {b : State} (old : State) (new : State) (hold : b.kept m old) (hnew : b.kept m new)
    (hm : Foot.sub 0x4C0000000000000000000000000888000000000000C00320090 m := by
      first | assumption | exact Foot.bit (by assumption) rfl | exact Foot.trans rfl (by assumption)) :
    b.kept m (afterBraid old new) := by
  unfold afterBraid
  repeat' first
    | with_reducible assumption
    | with_reducible apply State.each_kept
    | with_reducible apply State.braidCommitted_kept
    | intro _ x (hx : State.kept m b x)

theorem execOhSwitchTx_keeps {m : Nat} {b : State} (n : Line) (s : State) (hs : b.kept m s)
    (hm : Foot.sub 0x9000000000000440000000000000000000000000888000000000000C00220090 m := by
      first | assumption | exact Foot.bit (by assumption) rfl | exact Foot.trans rfl (by assumption)) :
    b.keeps m (execOhSwitchTx n s) := by
  unfold execOhSwitchTx
  repeat' first
    | with_reducible assumption
    | with_reducible apply act_keeps
    | with_reducible apply State.setClt_kept
    | with_reducible apply State.frameShort_kept
    | with_reducible apply State.startTx_kept
    | with_reducible apply kept_ite
    | exact Foot.trans rfl hm
    | intro x (hx : State.kept m b x)
    | lift_lets
    | (intro x; refine kept_cut (m := m) (b := b) (x := x) ?_ ?_ <;> [skip; (clear_value x; intro hx)])
    | intro _

end Sys2Proof.Machine
end

