-- ==== Sys2Proof/Laws/KeptBight.lean ====
section
/-! SUPPORT. What every operation of Machine/Bight.lean keeps: see Laws/Kept.lean. -/

-- The proofs of the whole text do not run side by side: their memory adds up.
set_option Elab.async false

namespace Sys2Proof.Machine

open Sys2Proof

theorem State.setLeaf_kept {m : Nat} {b : State} (s : State) (n : Nat) (i : Nat) (x : LeafInt) (hs : b.kept m s)
    (hm : Foot.sub 0x100000 m := by
      first | assumption | exact Foot.bit (by assumption) rfl | exact Foot.trans rfl (by assumption)) :
    b.kept m (State.setLeaf s n i x) := by
  unfold State.setLeaf
  repeat' first
    | with_reducible assumption
    | with_reducible apply State.setBgt_kept

theorem State.setUp_kept {m : Nat} {b : State} (s : State) (n : Nat) (f : Nat) (x : UpSub) (hs : b.kept m s)
    (hm : Foot.sub 0x100000 m := by
      first | assumption | exact Foot.bit (by assumption) rfl | exact Foot.trans rfl (by assumption)) :
    b.kept m (State.setUp s n f x) := by
  unfold State.setUp
  repeat' first
    | with_reducible assumption
    | with_reducible apply State.setBgt_kept

theorem State.leafEvent_kept {m : Nat} {b : State} (s : State) (n : Nat) (i : Nat) (f : Fld) (code : Nat)
    (hs : b.kept m s) (hm : Foot.sub 0x888000000000000C00000090 m := by
      first | assumption | exact Foot.bit (by assumption) rfl | exact Foot.trans rfl (by assumption)) (hmf : m.testBit (regBit f.id) = true := by
      first | assumption | exact Foot.bit (by assumption) rfl | exact Foot.trans rfl (by assumption)) :
    b.kept m (State.leafEvent s n i f code) := by
  unfold State.leafEvent
  repeat' first
    | with_reducible assumption
    | with_reducible apply State.raise_kept

theorem State.countLeaves_kept {m : Nat} {b : State} (s : State) (n : Nat) (hs : b.kept m s)
    (hm : Foot.sub 0x8000000000000000000000000000000000000000000000000000000000 m := by
      first | assumption | exact Foot.bit (by assumption) rfl | exact Foot.trans rfl (by assumption)) :
    b.kept m (State.countLeaves s n) := by
  unfold State.countLeaves
  repeat' first
    | with_reducible assumption
    | with_reducible apply State.wr_kept
    | exact Foot.bit hm rfl

theorem State.setLeafState_kept {m : Nat} {b : State} (s : State) (n : Nat) (i : Nat) (st : Nat) (hs : b.kept m s)
    (hm : Foot.sub 0xE000000000000088000000000000000000000000000000000888000000000000C00800090 m := by
      first | assumption | exact Foot.bit (by assumption) rfl | exact Foot.trans rfl (by assumption)) :
    b.kept m (State.setLeafState s n i st) := by
  unfold State.setLeafState
  repeat' first
    | with_reducible assumption
    | with_reducible apply State.countLeaves_kept
    | with_reducible apply State.wr_kept
    | with_reducible apply State.each_kept
    | with_reducible apply State.refreshEgress_kept
    | with_reducible apply kept_ite
    | exact Foot.bit hm rfl
    | exact Foot.trans rfl hm
    | intro _ x (hx : State.kept m b x)
    | lift_lets
    | intro _

theorem State.sendCtrl_kept {m : Nat} {b : State} (s : State) (n : Nat) (copies : Nat) (units : List Byte)
    (cmd : Option Nat) (till : Option Nat) (hs : b.kept m s) (hm : Foot.sub 0x100000 m := by
      first | assumption | exact Foot.bit (by assumption) rfl | exact Foot.trans rfl (by assumption)) :
    b.kept m (State.sendCtrl s n copies units cmd till) := by
  unfold State.sendCtrl
  repeat' first
    | with_reducible assumption
    | with_reducible apply State.setBgt_kept

theorem State.sendRepeat_kept {m : Nat} {b : State} (s : State) (n : Nat) (units : List Byte) (cmd : Option Nat)
    (hs : b.kept m s) (hm : Foot.sub 0x100000 m := by
      first | assumption | exact Foot.bit (by assumption) rfl | exact Foot.trans rfl (by assumption)) :
    b.kept m (State.sendRepeat s n units cmd) := by
  unfold State.sendRepeat
  repeat' first
    | with_reducible assumption
    | with_reducible apply State.sendCtrl_kept

theorem State.sendMap_kept {m : Nat} {b : State} (s : State) (n : Nat) (units : List Byte) (hs : b.kept m s)
    (hm : Foot.sub 0x100000 m := by
      first | assumption | exact Foot.bit (by assumption) rfl | exact Foot.trans rfl (by assumption)) :
    b.kept m (State.sendMap s n units) := by
  unfold State.sendMap
  repeat' first
    | with_reducible assumption
    | with_reducible apply State.sendCtrl_kept

theorem State.sendOnce_kept {m : Nat} {b : State} (s : State) (n : Nat) (units : List Byte) (hs : b.kept m s)
    (hm : Foot.sub 0x100000 m := by
      first | assumption | exact Foot.bit (by assumption) rfl | exact Foot.trans rfl (by assumption)) :
    b.kept m (State.sendOnce s n units) := by
  unfold State.sendOnce
  repeat' first
    | with_reducible assumption
    | with_reducible apply State.sendCtrl_kept

theorem State.copySent_kept {m : Nat} {b : State} (s : State) (n : Nat) (a2 : CtrlMsg) (hs : b.kept m s)
    (hm : Foot.sub 0x100020 m := by
      first | assumption | exact Foot.bit (by assumption) rfl | exact Foot.trans rfl (by assumption)) :
    b.kept m (State.copySent s n a2) := by
  unfold State.copySent
  repeat' first
    | with_reducible assumption
    | with_reducible apply State.setLeaf_kept
    | with_reducible apply State.finish_kept
    | with_reducible apply kept_ite
    | exact Foot.trans rfl hm
    | lift_lets
    | (intro x; refine kept_cut (m := m) (b := b) (x := x) ?_ ?_ <;> [skip; (clear_value x; intro hx)])
    | (intro x; clear_value x)
    | intro _
    | split

theorem execControlBlock_keeps {m : Nat} {b : State} (n : Line) (offset : Nat) (s : State) (hs : b.kept m s)
    (hm : Foot.sub 0x800100020 m := by
      first | assumption | exact Foot.bit (by assumption) rfl | exact Foot.trans rfl (by assumption)) :
    b.keeps m (execControlBlock n offset s) := by
  unfold execControlBlock
  repeat' first
    | with_reducible assumption
    | with_reducible apply act_keeps
    | with_reducible apply State.setBgt_kept
    | with_reducible apply State.emit_kept
    | with_reducible apply State.copySent_kept
    | with_reducible apply kept_foldl
    | with_reducible apply kept_foldl_fst
    | with_reducible apply kept_ite
    | with_reducible apply keeps_ite
    | with_reducible apply State.keeps_next
    | exact Foot.bit hm rfl
    | exact Foot.trans rfl hm
    | intro x (hx : State.kept m b x)
    | intro _ x (hx : State.kept m b x)
    | intro x _ (hx : State.kept m b x)
    | intro x _ (hx : State.kept m b x.1)
    | lift_lets
    | (intro x; clear_value x)
    | intro _

theorem State.setProfile_kept {m : Nat} {b : State} (s : State) (n : Nat) (i : Nat) (p : Profile) (hs : b.kept m s)
    (hm : Foot.sub 0x80000000000000000000000000000000000000000000000000000100000 m := by
      first | assumption | exact Foot.bit (by assumption) rfl | exact Foot.trans rfl (by assumption)) :
    b.kept m (State.setProfile s n i p) := by
  unfold State.setProfile
  repeat' first
    | with_reducible assumption
    | with_reducible apply State.setLeaf_kept
    | with_reducible apply State.wr_kept
    | exact Foot.bit hm rfl
    | exact Foot.trans rfl hm

theorem State.refreshBpq_kept {m : Nat} {b : State} (s : State) (n : Nat) (hs : b.kept m s)
    (hm : Foot.sub 0x80000000000000000000000000000000000000000000000000000000000 m := by
      first | assumption | exact Foot.bit (by assumption) rfl | exact Foot.trans rfl (by assumption)) :
    b.kept m (State.refreshBpq s n) := by
  unfold State.refreshBpq
  repeat' first
    | with_reducible assumption
    | with_reducible apply State.each_kept
    | with_reducible apply State.wr_kept
    | with_reducible apply kept_ite
    | with_reducible apply keeps_ite
    | with_reducible apply State.keeps_next
    | exact Foot.bit hm rfl
    | exact Foot.trans rfl hm
    | intro x (hx : State.kept m b x)
    | intro _ x (hx : State.kept m b x)
    | intro x _ (hx : State.kept m b x)
    | intro x _ (hx : State.kept m b x.1)
    | lift_lets
    | intro _

theorem State.announce_kept {m : Nat} {b : State} (s : State) (n : Nat) (i : Nat) (p : Profile) (hs : b.kept m s)
    (hm : Foot.sub 0x100000 m := by
      first | assumption | exact Foot.bit (by assumption) rfl | exact Foot.trans rfl (by assumption)) :
    b.kept m (State.announce s n i p) := by
  unfold State.announce
  repeat' first
    | with_reducible assumption
    | with_reducible apply State.setLeaf_kept

theorem execUpProfileEvaluation_keeps {m : Nat} {b : State} (n : Line) (leaf : Leaf) (s : State) (hs : b.kept m s)
    (hm : Foot.sub 0x100000 m := by
      first | assumption | exact Foot.bit (by assumption) rfl | exact Foot.trans rfl (by assumption)) :
    b.keeps m (execUpProfileEvaluation n leaf s) := by
  unfold execUpProfileEvaluation
  repeat' first
    | with_reducible assumption
    | with_reducible apply act_keeps
    | with_reducible apply State.setLeaf_kept
    | with_reducible apply State.announce_kept
    | with_reducible apply kept_ite
    | intro x (hx : State.kept m b x)
    | lift_lets
    | (intro x; refine kept_cut (m := m) (b := b) (x := x) ?_ ?_ <;> [skip; (clear_value x; intro hx)])
    | (intro x; clear_value x)
    | intro _

theorem State.burstWord_kept {m : Nat} {b : State} (s : State) (n : Nat) (w : List RxBit) (hs : b.kept m s)
    (hm : Foot.sub 0xC000000000000000000000000000000000000888000000000000C00200090 m := by
      first | assumption | exact Foot.bit (by assumption) rfl | exact Foot.trans rfl (by assumption)) :
    b.kept m (State.burstWord s n w).1 := by
  unfold State.burstWord
  repeat' first
    | with_reducible assumption
    | with_reducible apply State.lashing_kept
    | with_reducible apply kept_ite
    | with_reducible apply keeps_ite
    | with_reducible apply State.keeps_next
    | exact Foot.bit hm rfl
    | exact Foot.trans rfl hm
    | intro x (hx : State.kept m b x)
    | intro _ x (hx : State.kept m b x)
    | intro x _ (hx : State.kept m b x)
    | intro x _ (hx : State.kept m b x.1)
    | lift_lets
    | (intro x; clear_value x)
    | intro _
    | refine kept_pair (by assumption) ?_
    | split

theorem State.decodeBlocks_kept {m : Nat} {b : State} (s : State) (n : Nat) (a2 : Burst) (l : List SoftBlock)
    (hs : b.kept m s) (hm : Foot.sub 0xC000000000000000000000000000000000000888000000000000C10200090 m := by
      first | assumption | exact Foot.bit (by assumption) rfl | exact Foot.trans rfl (by assumption)) :
    b.kept m (State.decodeBlocks s n a2 l) := by
  unfold State.decodeBlocks
  repeat' first
    | with_reducible assumption
    | with_reducible apply State.count_kept
    | with_reducible apply State.setClt_kept
    | with_reducible apply State.decided_kept
    | with_reducible apply State.burstWord_kept
    | with_reducible apply State.setHit_kept
    | with_reducible apply kept_foldl
    | with_reducible apply kept_foldl_fst
    | with_reducible apply kept_ite
    | with_reducible apply keeps_ite
    | with_reducible apply State.keeps_next
    | exact Foot.bit hm rfl
    | exact Foot.trans rfl hm
    | intro x (hx : State.kept m b x)
    | intro _ x (hx : State.kept m b x)
    | intro x _ (hx : State.kept m b x)
    | intro x _ (hx : State.kept m b x.1)

theorem execBurstDecodeDone_keeps {m : Nat} {b : State} (n : Line) (leaf : Leaf) (soft : List Int) (s : State)
    (hs : b.kept m s) (hm : Foot.sub 0xC080000000000000000000000000000000000888000000000000C10300090 m := by
      first | assumption | exact Foot.bit (by assumption) rfl | exact Foot.trans rfl (by assumption)) :
    b.keeps m (execBurstDecodeDone n leaf soft s) := by
  unfold execBurstDecodeDone
  repeat' first
    | with_reducible assumption
    | with_reducible apply act_keeps
    | with_reducible apply State.setBgt_kept
    | with_reducible apply State.inc_kept
    | with_reducible apply State.announce_kept
    | with_reducible apply State.decodeBlocks_kept
    | with_reducible apply kept_ite
    | with_reducible apply keeps_ite
    | with_reducible apply State.keeps_next
    | exact Foot.bit hm rfl
    | exact Foot.trans rfl hm
    | intro x (hx : State.kept m b x)
    | intro _ x (hx : State.kept m b x)
    | intro x _ (hx : State.kept m b x)
    | intro x _ (hx : State.kept m b x.1)
    | lift_lets
    | (intro x; clear_value x)
    | intro _
    | refine kept_pair (by assumption) ?_
    | split

theorem execDnLoadingEvaluation_keeps {m : Nat} {b : State} (n : Line) (slot : Slot) (s : State) (hs : b.kept m s)
    (hm : Foot.sub 0x80000000000000000000000000888000000000000C00120090 m := by
      first | assumption | exact Foot.bit (by assumption) rfl | exact Foot.trans rfl (by assumption)) :
    b.keeps m (execDnLoadingEvaluation n slot s) := by
  unfold execDnLoadingEvaluation
  repeat' first
    | with_reducible assumption
    | with_reducible apply act_keeps
    | with_reducible apply State.each_kept
    | with_reducible apply State.setLeaf_kept
    | with_reducible apply State.setBgt_kept
    | with_reducible apply State.holdFloor_kept
    | with_reducible apply kept_ite
    | exact Foot.trans rfl hm
    | intro x (hx : State.kept m b x)
    | intro _ x (hx : State.kept m b x)
    | lift_lets
    | (intro x; refine kept_cut (m := m) (b := b) (x := x) ?_ ?_ <;> [skip; (clear_value x; intro hx)])
    | (intro x; clear_value x)
    | intro _
    | split

theorem execDnLoadSwitch_keeps {m : Nat} {b : State} (n : Line) (slot : Slot) (s : State) (hs : b.kept m s)
    (hm : Foot.sub 0x9000000000000480000000000000000000000000888000000000000C00100090 m := by
      first | assumption | exact Foot.bit (by assumption) rfl | exact Foot.trans rfl (by assumption)) :
    b.keeps m (execDnLoadSwitch n slot s) := by
  unfold execDnLoadSwitch
  refine act_keeps _ _ _ hs ?_
  intro t ht
  dsimp only
  rcases List.find? (fun e : Nat × Nat × Nat × Nat => e.1 == slot.val) (t.bgt n).dnDue with _ | ⟨_, _, _, _⟩
  · exact ht
  · repeat' first
      | with_reducible assumption
      | with_reducible apply State.setBgt_kept
      | with_reducible apply State.setAct_kept
      | with_reducible apply State.braidEvent_kept
      | with_reducible apply State.frameShort_kept
      | with_reducible apply kept_ite
      | with_reducible apply keeps_ite
      | with_reducible apply State.keeps_next
      | exact Foot.bit (by assumption) rfl
      | exact Foot.trans rfl (by assumption)
      | intro x (hx : State.kept m b x)
      | intro _ x (hx : State.kept m b x)
      | intro x _ (hx : State.kept m b x)
      | intro x _ (hx : State.kept m b x.1)
      | lift_lets
      | (intro x; refine kept_cut (m := m) (b := b) (x := x) ?_ ?_ <;> [skip; (clear_value x; intro hx)])
      | (intro x; clear_value x)
      | intro _
      | exact kept_pair (by assumption) (by assumption)
      | refine kept_pair (by assumption) ?_
      | split

theorem State.rerange_kept {m : Nat} {b : State} (s : State) (n : Nat) (i : Nat) (hs : b.kept m s)
    (hm : Foot.sub 0xE000000000000088000000000000000000000000000000000888000000000000C00900090 m := by
      first | assumption | exact Foot.bit (by assumption) rfl | exact Foot.trans rfl (by assumption)) :
    b.kept m (State.rerange s n i) := by
  unfold State.rerange
  repeat' first
    | with_reducible assumption
    | with_reducible apply State.setLeaf_kept
    | with_reducible apply State.sendRepeat_kept
    | with_reducible apply State.setLeafState_kept
    | with_reducible apply kept_ite
    | with_reducible apply keeps_ite
    | with_reducible apply State.keeps_next
    | exact Foot.bit hm rfl
    | exact Foot.trans rfl hm
    | intro x (hx : State.kept m b x)
    | intro _ x (hx : State.kept m b x)
    | intro x _ (hx : State.kept m b x)
    | intro x _ (hx : State.kept m b x.1)
    | lift_lets
    | (intro x; refine kept_cut (m := m) (b := b) (x := x) ?_ ?_ <;> [skip; (clear_value x; intro hx)])
    | (intro x; clear_value x)
    | intro _

theorem State.rerangeAsked_kept {m : Nat} {b : State} (s : State) (n : Nat) (i : Nat) (hs : b.kept m s)
    (hm : Foot.sub 0xE000000000000088000000000000000000000000000000000888000000000000C00900090 m := by
      first | assumption | exact Foot.bit (by assumption) rfl | exact Foot.trans rfl (by assumption)) :
    b.kept m (State.rerangeAsked s n i) := by
  unfold State.rerangeAsked
  repeat' first
    | with_reducible assumption
    | with_reducible apply State.rerange_kept
    | with_reducible apply State.setLeaf_kept
    | with_reducible apply kept_ite
    | with_reducible apply keeps_ite
    | with_reducible apply State.keeps_next
    | exact Foot.bit hm rfl
    | exact Foot.trans rfl hm

theorem State.takeOffset_kept {m : Nat} {b : State} (s : State) (n : Nat) (i : Nat) (ofs : Int) (hs : b.kept m s)
    (hm : Foot.sub 0x80000000000000000000000000000000000000000000000000000100000 m := by
      first | assumption | exact Foot.bit (by assumption) rfl | exact Foot.trans rfl (by assumption)) :
    b.kept m (State.takeOffset s n i ofs) := by
  unfold State.takeOffset
  repeat' first
    | with_reducible assumption
    | with_reducible apply State.wr_kept
    | with_reducible apply State.setLeaf_kept
    | with_reducible apply State.sendMap_kept
    | with_reducible apply kept_foldl
    | with_reducible apply kept_foldl_fst
    | with_reducible apply kept_ite
    | with_reducible apply keeps_ite
    | with_reducible apply State.keeps_next
    | exact Foot.bit hm rfl
    | exact Foot.trans rfl hm
    | intro x (hx : State.kept m b x)
    | intro _ x (hx : State.kept m b x)
    | intro x _ (hx : State.kept m b x)
    | intro x _ (hx : State.kept m b x.1)
    | lift_lets
    | (intro x; clear_value x)
    | intro _

theorem State.heard_kept {m : Nat} {b : State} (s : State) (n : Nat) (i : Nat) (h : BitVec 128) (period : Nat)
    (ranging : Bool) (ofs : Int) (hs : b.kept m s)
    (hm : Foot.sub 0xE000000000000098000000000000000000000000000000000888000000000000C00900090 m := by
      first | assumption | exact Foot.bit (by assumption) rfl | exact Foot.trans rfl (by assumption)) :
    b.kept m (State.heard s n i h period ranging ofs) := by
  unfold State.heard
  repeat' first
    | with_reducible assumption
    | with_reducible apply State.setLeaf_kept
    | with_reducible apply State.wr_kept
    | with_reducible apply State.incWrap_kept
    | with_reducible apply State.setLeafState_kept
    | with_reducible apply State.takeOffset_kept
    | with_reducible apply State.leafEvent_kept
    | with_reducible apply kept_ite
    | with_reducible apply keeps_ite
    | with_reducible apply State.keeps_next
    | exact Foot.bit hm rfl
    | exact Foot.trans rfl hm
    | intro x (hx : State.kept m b x)
    | intro _ x (hx : State.kept m b x)
    | intro x _ (hx : State.kept m b x)
    | intro x _ (hx : State.kept m b x.1)
    | lift_lets
    | intro _

theorem State.rangedOk_kept {m : Nat} {b : State} (s : State) (n : Nat) (i : Nat) (g : Nat) (arrival : Nat)
    (hs : b.kept m s)
    (hm : Foot.sub 0xE000000000000098000000000000000000000000000000000888000000000000C00900090 m := by
      first | assumption | exact Foot.bit (by assumption) rfl | exact Foot.trans rfl (by assumption)) :
    b.kept m (State.rangedOk s n i g arrival) := by
  unfold State.rangedOk
  repeat' first
    | with_reducible assumption
    | with_reducible apply State.setLeaf_kept
    | with_reducible apply State.wr_kept
    | with_reducible apply State.leafEvent_kept
    | with_reducible apply State.setLeafState_kept
    | with_reducible apply State.sendMap_kept
    | with_reducible apply kept_ite
    | with_reducible apply keeps_ite
    | with_reducible apply State.keeps_next
    | exact Foot.bit hm rfl
    | exact Foot.trans rfl hm
    | intro x (hx : State.kept m b x)
    | intro _ x (hx : State.kept m b x)
    | intro x _ (hx : State.kept m b x)
    | intro x _ (hx : State.kept m b x.1)
    | lift_lets
    | (intro x; refine kept_cut (m := m) (b := b) (x := x) ?_ ?_ <;> [skip; (clear_value x; intro hx)])
    | (intro x; clear_value x)
    | intro _

theorem State.answered_kept {m : Nat} {b : State} (s : State) (n : Nat) (i : Nat) (h : BitVec 128) (period : Nat)
    (start : Nat) (ranging : Bool) (arrival : Nat) (ofs : Int) (hs : b.kept m s)
    (hm : Foot.sub 0xE000000000000098000000000000000000000000000000000888000000000000C00900090 m := by
      first | assumption | exact Foot.bit (by assumption) rfl | exact Foot.trans rfl (by assumption)) :
    b.kept m (State.answered s n i h period start ranging arrival ofs) := by
  unfold State.answered
  repeat' first
    | with_reducible assumption
    | with_reducible apply State.heard_kept
    | with_reducible apply State.rangedOk_kept
    | with_reducible apply kept_ite
    | with_reducible apply keeps_ite
    | with_reducible apply State.keeps_next
    | exact Foot.bit hm rfl
    | exact Foot.trans rfl hm
    | intro x (hx : State.kept m b x)
    | intro _ x (hx : State.kept m b x)
    | intro x _ (hx : State.kept m b x)
    | intro x _ (hx : State.kept m b x.1)
    | lift_lets
    | (intro x; refine kept_cut (m := m) (b := b) (x := x) ?_ ?_ <;> [skip; (clear_value x; intro hx)])
    | intro _

theorem State.discovered_kept {m : Nat} {b : State} (s : State) (n : Nat) (g : Nat) (h : BitVec 128) (arrival : Nat)
    (hs : b.kept m s)
    (hm : Foot.sub 0xE000000000000098000000000000000000000000000000000888000000000000C00900090 m := by
      first | assumption | exact Foot.bit (by assumption) rfl | exact Foot.trans rfl (by assumption)) :
    b.kept m (State.discovered s n g h arrival) := by
  unfold State.discovered
  repeat' first
    | with_reducible assumption
    | with_reducible apply State.raise_kept
    | with_reducible apply State.setLeaf_kept
    | with_reducible apply State.sendRepeat_kept
    | with_reducible apply State.setLeafState_kept
    | with_reducible apply State.leafEvent_kept
    | with_reducible apply kept_ite
    | with_reducible apply keeps_ite
    | with_reducible apply State.keeps_next
    | exact Foot.bit hm rfl
    | exact Foot.trans rfl hm
    | intro x (hx : State.kept m b x)
    | intro _ x (hx : State.kept m b x)
    | intro x _ (hx : State.kept m b x)
    | intro x _ (hx : State.kept m b x.1)
    | lift_lets
    | (intro x; clear_value x)
    | intro _
    | refine kept_pair (by assumption) ?_
    | split

theorem State.loadUp_kept {m : Nat} {b : State} (s : State) (n : Nat) (f : Nat) (w : Window) (hs : b.kept m s)
    (hm : Foot.sub 0x100000 m := by
      first | assumption | exact Foot.bit (by assumption) rfl | exact Foot.trans rfl (by assumption)) :
    b.kept m (State.loadUp s n f w) := by
  unfold State.loadUp
  repeat' first
    | with_reducible assumption
    | with_reducible apply State.setUp_kept

theorem State.openWindow_kept {m : Nat} {b : State} (s : State) (n : Nat) (f : Nat) (w : Window) (hs : b.kept m s)
    (hm : Foot.sub 0x100000 m := by
      first | assumption | exact Foot.bit (by assumption) rfl | exact Foot.trans rfl (by assumption)) :
    b.kept m (State.openWindow s n f w) := by
  unfold State.openWindow
  repeat' first
    | with_reducible assumption
    | with_reducible apply State.loadUp_kept
    | with_reducible apply State.setUp_kept

theorem execDetectionWindowOpen_keeps {m : Nat} {b : State} (n : Line) (f : Slot) (leaf : Option Leaf) (s : State)
    (hs : b.kept m s) (hm : Foot.sub 0x8000000000000000000000000000000000000000000000000000100000 m := by
      first | assumption | exact Foot.bit (by assumption) rfl | exact Foot.trans rfl (by assumption)) :
    b.keeps m (execDetectionWindowOpen n f leaf s) := by
  unfold execDetectionWindowOpen
  refine act_keeps _ _ _ hs ?_
  intro t ht
  apply kept_ite <;> intro _
  · exact ht
  · dsimp only
    split
    · split
      · exact State.openWindow_kept _ _ _ _ (State.setBgt_kept _ _ _ ht)
      · exact ht
    · split
      · exact State.wr_kept _ _ _ _ _ _ (State.openWindow_kept _ _ _ _ ht)
      · exact ht

theorem execProvisionalLock_keeps {m : Nat} {b : State} (n : Line) (f : Slot) (corrB : Bool) (metric : Nat)
    (symbol : Nat) (s : State) (hs : b.kept m s)
    (hm : Foot.sub 0x80000000000000000000000000000000000000000000000000000100000 m := by
      first | assumption | exact Foot.bit (by assumption) rfl | exact Foot.trans rfl (by assumption)) :
    b.keeps m (execProvisionalLock n f corrB metric symbol s) := by
  unfold execProvisionalLock
  repeat' first
    | with_reducible assumption
    | with_reducible apply act_keeps
    | with_reducible apply State.setUp_kept
    | with_reducible apply State.inc_kept
    | with_reducible apply State.loadUp_kept
    | with_reducible apply kept_ite
    | with_reducible apply keeps_ite
    | with_reducible apply State.keeps_next
    | exact Foot.bit hm rfl
    | exact Foot.trans rfl hm
    | intro x (hx : State.kept m b x)
    | intro _ x (hx : State.kept m b x)
    | intro x _ (hx : State.kept m b x)
    | intro x _ (hx : State.kept m b x.1)
    | lift_lets
    | (intro x; refine kept_cut (m := m) (b := b) (x := x) ?_ ?_ <;> [skip; (clear_value x; intro hx)])
    | (intro x; clear_value x)
    | intro _
    | refine kept_pair (by assumption) ?_
    | split

theorem execEndMarker_keeps {m : Nat} {b : State} (n : Line) (f : Slot) (found : Bool) (s : State) (hs : b.kept m s)
    (hm : Foot.sub 0x100000 m := by
      first | assumption | exact Foot.bit (by assumption) rfl | exact Foot.trans rfl (by assumption)) :
    b.keeps m (execEndMarker n f found s) := by
  unfold execEndMarker
  repeat' first
    | with_reducible assumption
    | with_reducible apply act_keeps
    | with_reducible apply State.setUp_kept
    | with_reducible apply kept_ite
    | intro x (hx : State.kept m b x)
    | lift_lets
    | intro _

theorem State.dropLock_kept {m : Nat} {b : State} (s : State) (n : Nat) (f : Nat) (hs : b.kept m s)
    (hm : Foot.sub 0x100000 m := by
      first | assumption | exact Foot.bit (by assumption) rfl | exact Foot.trans rfl (by assumption)) :
    b.kept m (State.dropLock s n f) := by
  unfold State.dropLock
  repeat' first
    | with_reducible assumption
    | with_reducible apply State.setUp_kept

theorem State.confirm_kept {m : Nat} {b : State} (s : State) (n : Nat) (f : Nat) (burst : Option Burst)
    (hs : b.kept m s) (hm : Foot.sub 0x100000 m := by
      first | assumption | exact Foot.bit (by assumption) rfl | exact Foot.trans rfl (by assumption)) :
    b.kept m (State.confirm s n f burst) := by
  unfold State.confirm
  repeat' first
    | with_reducible assumption
    | with_reducible apply State.setUp_kept

theorem State.answerWindow_kept {m : Nat} {b : State} (s : State) (n : Nat) (f : Nat) (hs : b.kept m s)
    (hm : Foot.sub 0x100000 m := by
      first | assumption | exact Foot.bit (by assumption) rfl | exact Foot.trans rfl (by assumption)) :
    b.kept m (State.answerWindow s n f) := by
  unfold State.answerWindow
  repeat' first
    | with_reducible assumption
    | with_reducible apply State.setUp_kept

theorem State.takeCaptured_kept {m : Nat} {b : State} (s : State) (n : Nat) (f : Nat) (h : BitVec 128) (arrival : Nat)
    (ofs : Int) (w : Window) (hs : b.kept m s)
    (hm : Foot.sub 0xE000000000000098000000000000000000000000000000000888000000000000C00900090 m := by
      first | assumption | exact Foot.bit (by assumption) rfl | exact Foot.trans rfl (by assumption)) :
    b.kept m (State.takeCaptured s n f h arrival ofs w) := by
  unfold State.takeCaptured
  repeat' first
    | with_reducible assumption
    | with_reducible apply State.dropLock_kept
    | with_reducible apply State.inc_kept
    | with_reducible apply State.answered_kept
    | with_reducible apply State.confirm_kept
    | with_reducible apply kept_ite
    | with_reducible apply keeps_ite
    | with_reducible apply State.keeps_next
    | exact Foot.bit hm rfl
    | exact Foot.trans rfl hm
    | intro x (hx : State.kept m b x)
    | intro _ x (hx : State.kept m b x)
    | intro x _ (hx : State.kept m b x)
    | intro x _ (hx : State.kept m b x.1)
    | lift_lets
    | (intro x; refine kept_cut (m := m) (b := b) (x := x) ?_ ?_ <;> [skip; (clear_value x; intro hx)])
    | intro _

theorem State.capturedHeader_kept {m : Nat} {b : State} (s : State) (n : Nat) (f : Nat) (h : BitVec 128)
    (arrival : Nat) (ofs : Int) (hs : b.kept m s)
    (hm : Foot.sub 0xE000000000000098000000000000000000000000000000000888000000000000C00900090 m := by
      first | assumption | exact Foot.bit (by assumption) rfl | exact Foot.trans rfl (by assumption)) :
    b.kept m (State.capturedHeader s n f h arrival ofs) := by
  unfold State.capturedHeader
  repeat' first
    | with_reducible assumption
    | with_reducible apply State.takeCaptured_kept
    | with_reducible apply State.answerWindow_kept
    | with_reducible apply State.setBgt_kept
    | with_reducible apply State.rerange_kept
    | with_reducible apply State.leafEvent_kept
    | with_reducible apply State.dropLock_kept
    | with_reducible apply kept_ite
    | with_reducible apply keeps_ite
    | with_reducible apply State.keeps_next
    | exact Foot.bit hm rfl
    | exact Foot.trans rfl hm
    | intro x (hx : State.kept m b x)
    | intro _ x (hx : State.kept m b x)
    | intro x _ (hx : State.kept m b x)
    | intro x _ (hx : State.kept m b x.1)
    | lift_lets
    | (intro x; clear_value x)
    | intro _
    | refine kept_pair (by assumption) ?_
    | split

theorem execBurstHeaderDecoded_keeps {m : Nat} {b : State} (n : Line) (f : Slot) (soft : List Int) (arrival : Nat)
    (ofs : Int) (s : State) (hs : b.kept m s)
    (hm : Foot.sub 0xE000000000010098000000000000000000000000000000000888000000000000C00900090 m := by
      first | assumption | exact Foot.bit (by assumption) rfl | exact Foot.trans rfl (by assumption)) :
    b.keeps m (execBurstHeaderDecoded n f soft arrival ofs s) := by
  unfold execBurstHeaderDecoded
  repeat' first
    | with_reducible assumption
    | with_reducible apply act_keeps
    | with_reducible apply State.dropLock_kept
    | with_reducible apply State.incWrap_kept
    | with_reducible apply State.capturedHeader_kept
    | with_reducible apply State.discovered_kept
    | with_reducible apply State.answerWindow_kept
    | with_reducible apply State.confirm_kept
    | with_reducible apply State.answered_kept
    | with_reducible apply kept_ite
    | with_reducible apply keeps_ite
    | with_reducible apply State.keeps_next
    | exact Foot.bit hm rfl
    | exact Foot.trans rfl hm
    | intro x (hx : State.kept m b x)
    | intro _ x (hx : State.kept m b x)
    | intro x _ (hx : State.kept m b x)
    | intro x _ (hx : State.kept m b x.1)
    | lift_lets
    | (intro x; refine kept_cut (m := m) (b := b) (x := x) ?_ ?_ <;> [skip; (clear_value x; intro hx)])
    | intro _
    | refine kept_pair (by assumption) ?_
    | split

theorem State.failAttempt_kept {m : Nat} {b : State} (s : State) (n : Nat) (i : Nat) (cycle : Nat) (hs : b.kept m s)
    (hm : Foot.sub 0xE000000000000098000000000000000000000000000000000888000000000000C00900090 m := by
      first | assumption | exact Foot.bit (by assumption) rfl | exact Foot.trans rfl (by assumption)) :
    b.kept m (State.failAttempt s n i cycle) := by
  unfold State.failAttempt
  repeat' first
    | with_reducible assumption
    | with_reducible apply State.setLeaf_kept
    | with_reducible apply State.leafEvent_kept
    | with_reducible apply State.setLeafState_kept
    | with_reducible apply kept_ite
    | with_reducible apply keeps_ite
    | with_reducible apply State.keeps_next
    | exact Foot.bit hm rfl
    | exact Foot.trans rfl hm
    | intro x (hx : State.kept m b x)
    | intro _ x (hx : State.kept m b x)
    | intro x _ (hx : State.kept m b x)
    | intro x _ (hx : State.kept m b x.1)
    | lift_lets
    | intro _

theorem State.passBurst_kept {m : Nat} {b : State} (s : State) (n : Nat) (a2 : Burst) (hs : b.kept m s)
    (hm : Foot.sub 0x100000 m := by
      first | assumption | exact Foot.bit (by assumption) rfl | exact Foot.trans rfl (by assumption)) :
    b.kept m (State.passBurst s n a2) := by
  unfold State.passBurst
  repeat' first
    | with_reducible assumption
    | with_reducible apply State.setBgt_kept
    | with_reducible apply kept_ite
    | with_reducible apply keeps_ite
    | with_reducible apply State.keeps_next
    | exact Foot.bit hm rfl
    | exact Foot.trans rfl hm
    | intro x (hx : State.kept m b x)
    | intro _ x (hx : State.kept m b x)
    | intro x _ (hx : State.kept m b x)
    | intro x _ (hx : State.kept m b x.1)
    | lift_lets
    | (intro x; clear_value x)
    | intro _

theorem State.collide_kept {m : Nat} {b : State} (s : State) (n : Nat) (a2 : Burst) (got : Nat) (hs : b.kept m s)
    (hm : Foot.sub 0xE000000000000098000000000000000000000000000000000888000000000000C00900090 m := by
      first | assumption | exact Foot.bit (by assumption) rfl | exact Foot.trans rfl (by assumption)) :
    b.kept m (State.collide s n a2 got) := by
  unfold State.collide
  repeat' first
    | with_reducible assumption
    | with_reducible apply State.passBurst_kept
    | with_reducible apply State.rerange_kept
    | with_reducible apply State.leafEvent_kept
    | with_reducible apply State.inc_kept
    | with_reducible apply State.failAttempt_kept
    | with_reducible apply kept_ite
    | with_reducible apply keeps_ite
    | with_reducible apply State.keeps_next
    | exact Foot.bit hm rfl
    | exact Foot.trans rfl hm
    | intro x (hx : State.kept m b x)
    | intro _ x (hx : State.kept m b x)
    | intro x _ (hx : State.kept m b x)
    | intro x _ (hx : State.kept m b x.1)
    | lift_lets
    | (intro x; refine kept_cut (m := m) (b := b) (x := x) ?_ ?_ <;> [skip; (clear_value x; intro hx)])
    | intro _

theorem execCapture_keeps {m : Nat} {b : State} (n : Line) (f : Slot) (power : Bool) (peak : Bool) (symbol : Nat)
    (got : Nat) (s : State) (hs : b.kept m s)
    (hm : Foot.sub 0xE000000000000098000000000000000000000000000000000888000000000000C00900090 m := by
      first | assumption | exact Foot.bit (by assumption) rfl | exact Foot.trans rfl (by assumption)) :
    b.keeps m (execCapture n f power peak symbol got s) := by
  unfold execCapture
  repeat' first
    | with_reducible assumption
    | with_reducible apply act_keeps
    | with_reducible apply State.setUp_kept
    | with_reducible apply State.collide_kept
    | with_reducible apply State.raise_kept
    | with_reducible apply State.inc_kept
    | with_reducible apply kept_ite
    | with_reducible apply keeps_ite
    | with_reducible apply State.keeps_next
    | exact Foot.bit hm rfl
    | exact Foot.trans rfl hm
    | intro x (hx : State.kept m b x)
    | intro _ x (hx : State.kept m b x)
    | intro x _ (hx : State.kept m b x)
    | intro x _ (hx : State.kept m b x.1)
    | lift_lets
    | (intro x; refine kept_cut (m := m) (b := b) (x := x) ?_ ?_ <;> [skip; (clear_value x; intro hx)])
    | intro _
    | refine kept_pair (by assumption) ?_
    | split

theorem execBurstEnd_keeps {m : Nat} {b : State} (n : Line) (f : Slot) (foff : BitVec 16) (power : BitVec 8)
    (snr : BitVec 8) (state : List Byte) (s : State) (hs : b.kept m s)
    (hm : Foot.sub 0x80000000000000000000000000000000000000000000000000000100000 m := by
      first | assumption | exact Foot.bit (by assumption) rfl | exact Foot.trans rfl (by assumption)) :
    b.keeps m (execBurstEnd n f foff power snr state s) := by
  unfold execBurstEnd
  repeat' first
    | with_reducible assumption
    | with_reducible apply act_keeps
    | with_reducible apply State.setUp_kept
    | with_reducible apply State.passBurst_kept
    | with_reducible apply State.setLeaf_kept
    | with_reducible apply State.wr_kept
    | with_reducible apply kept_foldl
    | with_reducible apply kept_foldl_fst
    | with_reducible apply kept_ite
    | with_reducible apply keeps_ite
    | with_reducible apply State.keeps_next
    | exact Foot.bit hm rfl
    | exact Foot.trans rfl hm
    | intro x (hx : State.kept m b x)
    | intro _ x (hx : State.kept m b x)
    | intro x _ (hx : State.kept m b x)
    | intro x _ (hx : State.kept m b x.1)
    | lift_lets
    | (intro x; refine kept_cut (m := m) (b := b) (x := x) ?_ ?_ <;> [skip; (clear_value x; intro hx)])
    | (intro x; clear_value x)
    | intro _
    | refine kept_pair (by assumption) ?_
    | split

theorem State.missGrant_kept {m : Nat} {b : State} (s : State) (n : Nat) (i : Nat) (hs : b.kept m s)
    (hm : Foot.sub 0xE000000000000098000000000000000000000000000000000888000000000000C00800090 m := by
      first | assumption | exact Foot.bit (by assumption) rfl | exact Foot.trans rfl (by assumption)) :
    b.kept m (State.missGrant s n i) := by
  unfold State.missGrant
  repeat' first
    | with_reducible assumption
    | with_reducible apply State.inc_kept
    | with_reducible apply State.leafEvent_kept
    | with_reducible apply State.setLeafState_kept
    | with_reducible apply kept_ite
    | with_reducible apply keeps_ite
    | with_reducible apply State.keeps_next
    | exact Foot.bit hm rfl
    | exact Foot.trans rfl hm
    | intro x (hx : State.kept m b x)
    | intro _ x (hx : State.kept m b x)
    | intro x _ (hx : State.kept m b x)
    | intro x _ (hx : State.kept m b x.1)
    | lift_lets
    | (intro x; refine kept_cut (m := m) (b := b) (x := x) ?_ ?_ <;> [skip; (clear_value x; intro hx)])
    | (intro x; clear_value x)
    | intro _

theorem execDetectionWindowClose_keeps {m : Nat} {b : State} (n : Line) (f : Slot) (s : State) (hs : b.kept m s)
    (hm : Foot.sub 0xE000000000000098000000000000000000000000000000000888000000000000C00900090 m := by
      first | assumption | exact Foot.bit (by assumption) rfl | exact Foot.trans rfl (by assumption)) :
    b.keeps m (execDetectionWindowClose n f s) := by
  unfold execDetectionWindowClose
  repeat' first
    | with_reducible assumption
    | with_reducible apply act_keeps
    | with_reducible apply State.setUp_kept
    | with_reducible apply State.setBgt_kept
    | with_reducible apply State.wr_kept
    | with_reducible apply State.missGrant_kept
    | with_reducible apply State.failAttempt_kept
    | with_reducible apply kept_ite
    | with_reducible apply keeps_ite
    | with_reducible apply State.keeps_next
    | exact Foot.bit hm rfl
    | exact Foot.trans rfl hm
    | intro x (hx : State.kept m b x)
    | intro _ x (hx : State.kept m b x)
    | intro x _ (hx : State.kept m b x)
    | intro x _ (hx : State.kept m b x.1)
    | lift_lets
    | (intro x; refine kept_cut (m := m) (b := b) (x := x) ?_ ?_ <;> [skip; (clear_value x; intro hx)])
    | (intro x; clear_value x)
    | intro _
    | refine kept_pair (by assumption) ?_
    | split

theorem State.goStale_kept {m : Nat} {b : State} (s : State) (n : Nat) (i : Nat) (hs : b.kept m s)
    (hm : Foot.sub 0xE000000000000098000000000000000000000000000000000888000000000000C00800090 m := by
      first | assumption | exact Foot.bit (by assumption) rfl | exact Foot.trans rfl (by assumption)) :
    b.kept m (State.goStale s n i) := by
  unfold State.goStale
  repeat' first
    | with_reducible assumption
    | with_reducible apply State.leafEvent_kept
    | with_reducible apply State.setLeafState_kept
    | with_reducible apply kept_ite
    | with_reducible apply keeps_ite
    | with_reducible apply State.keeps_next
    | exact Foot.bit hm rfl
    | exact Foot.trans rfl hm
    | intro x (hx : State.kept m b x)
    | intro _ x (hx : State.kept m b x)
    | intro x _ (hx : State.kept m b x)
    | intro x _ (hx : State.kept m b x.1)
    | lift_lets
    | intro _

theorem execStaleTimeout_keeps {m : Nat} {b : State} (n : Line) (leaf : Leaf) (s : State) (hs : b.kept m s)
    (hm : Foot.sub 0xE000000000000098000000000000000000000000000000000888000000000000C00900090 m := by
      first | assumption | exact Foot.bit (by assumption) rfl | exact Foot.trans rfl (by assumption)) :
    b.keeps m (execStaleTimeout n leaf s) := by
  unfold execStaleTimeout
  repeat' first
    | with_reducible assumption
    | with_reducible apply act_keeps
    | with_reducible apply State.goStale_kept
    | with_reducible apply State.setLeaf_kept
    | with_reducible apply kept_ite
    | with_reducible apply keeps_ite
    | with_reducible apply State.keeps_next
    | exact Foot.bit hm rfl
    | exact Foot.trans rfl hm
    | intro x (hx : State.kept m b x)
    | intro _ x (hx : State.kept m b x)
    | intro x _ (hx : State.kept m b x)
    | intro x _ (hx : State.kept m b x.1)
    | lift_lets
    | intro _

theorem execDiscoveryCycle_keeps {m : Nat} {b : State} (n : Line) (s : State) (hs : b.kept m s)
    (hm : Foot.sub 0x80000000000000000000000000000000000000000000000000000100000 m := by
      first | assumption | exact Foot.bit (by assumption) rfl | exact Foot.trans rfl (by assumption)) :
    b.keeps m (execDiscoveryCycle n s) := by
  unfold execDiscoveryCycle
  repeat' first
    | with_reducible assumption
    | with_reducible apply act_keeps
    | with_reducible apply State.setBgt_kept
    | with_reducible apply State.each_kept
    | with_reducible apply State.setLeaf_kept
    | with_reducible apply State.wr_kept
    | with_reducible apply kept_ite
    | with_reducible apply keeps_ite
    | with_reducible apply State.keeps_next
    | exact Foot.bit hm rfl
    | exact Foot.trans rfl hm
    | intro x (hx : State.kept m b x)
    | intro _ x (hx : State.kept m b x)
    | intro x _ (hx : State.kept m b x)
    | intro x _ (hx : State.kept m b x.1)
    | lift_lets
    | (intro x; refine kept_cut (m := m) (b := b) (x := x) ?_ ?_ <;> [skip; (clear_value x; intro hx)])
    | (intro x; clear_value x)
    | intro _

theorem State.leafPeriod_kept {m : Nat} {b : State} (s : State) (n : Nat) (i : Nat) (hs : b.kept m s)
    (hm : Foot.sub 0xE000000000000098000000000000000000000000000000000888000000000000C00900090 m := by
      first | assumption | exact Foot.bit (by assumption) rfl | exact Foot.trans rfl (by assumption)) :
    b.kept m (State.leafPeriod s n i) := by
  unfold State.leafPeriod
  extract_lets c x t u ta v w z y
  have ht : b.kept m t := State.setLeaf_kept _ _ _ _ hs
  clear_value t
  have hu : b.kept m u := kept_ite (fun _ => ht) fun _ => State.wr_kept _ _ _ _ _ _ ht
  clear_value u
  have hv : b.kept m v := kept_ite (fun _ => hu) fun _ => State.wr_kept _ _ _ _ _ _ hu
  clear_value v
  have hz : b.kept m z := State.setLeaf_kept _ _ _ _ hv
  clear_value z
  have hy : b.kept m y := kept_ite (fun _ => State.goStale_kept _ _ _ hz) fun _ => hz
  clear_value y
  split
  · extract_lets p
    have hp : b.kept m p := kept_ite (fun _ => hy) fun _ => State.sendOnce_kept _ _ _ hy
    clear_value p
    exact kept_ite (fun _ => State.setLeaf_kept _ _ _ _ (State.setProfile_kept _ _ _ _ hp))
      fun _ => State.setLeaf_kept _ _ _ _ hp
  · exact hy

theorem execPeriodStart_keeps {m : Nat} {b : State} (n : Line) (s : State) (hs : b.kept m s)
    (hm : Foot.sub 0xE000000000000098000000000000000000000000000000000888000000000000C00900090 m := by
      first | assumption | exact Foot.bit (by assumption) rfl | exact Foot.trans rfl (by assumption)) :
    b.keeps m (execPeriodStart n s) := by
  unfold execPeriodStart
  repeat' first
    | with_reducible assumption
    | with_reducible apply act_keeps
    | with_reducible apply State.wr_kept
    | with_reducible apply State.setBgt_kept
    | with_reducible apply State.each_kept
    | with_reducible apply State.leafPeriod_kept
    | with_reducible apply State.sendOnce_kept
    | with_reducible apply kept_ite
    | with_reducible apply keeps_ite
    | with_reducible apply State.keeps_next
    | exact Foot.bit hm rfl
    | exact Foot.trans rfl hm
    | intro x (hx : State.kept m b x)
    | intro _ x (hx : State.kept m b x)
    | intro x _ (hx : State.kept m b x)
    | intro x _ (hx : State.kept m b x.1)
    | lift_lets
    | (intro x; refine kept_cut (m := m) (b := b) (x := x) ?_ ?_ <;> [skip; (clear_value x; intro hx)])
    | (intro x; clear_value x)
    | intro _

theorem State.grant_kept {m : Nat} {b : State} (s : State) (n : Nat) (g : BurstGrant) (hs : b.kept m s)
    (hm : Foot.sub 0x100000 m := by
      first | assumption | exact Foot.bit (by assumption) rfl | exact Foot.trans rfl (by assumption)) :
    b.kept m (State.grant s n g) := by
  unfold State.grant
  repeat' first
    | with_reducible assumption
    | with_reducible apply State.sendMap_kept
    | with_reducible apply State.setBgt_kept

theorem State.invite_kept {m : Nat} {b : State} (s : State) (n : Nat) (period : Nat) (hs : b.kept m s)
    (hm : Foot.sub 0x100000 m := by
      first | assumption | exact Foot.bit (by assumption) rfl | exact Foot.trans rfl (by assumption)) :
    b.kept m (State.invite s n period) := by
  unfold State.invite
  repeat' first
    | with_reducible assumption
    | with_reducible apply State.each_kept
    | with_reducible apply State.setBgt_kept
    | with_reducible apply State.sendMap_kept
    | with_reducible apply kept_ite
    | with_reducible apply keeps_ite
    | with_reducible apply State.keeps_next
    | exact Foot.bit hm rfl
    | exact Foot.trans rfl hm
    | intro x (hx : State.kept m b x)
    | intro _ x (hx : State.kept m b x)
    | intro x _ (hx : State.kept m b x)
    | intro x _ (hx : State.kept m b x.1)
    | lift_lets
    | intro _

theorem State.rangeLeaf_kept {m : Nat} {b : State} (s : State) (n : Nat) (period : Nat) (i : Nat) (hs : b.kept m s)
    (hm : Foot.sub 0x80000000000000000000000000000000000000000000000000000100000 m := by
      first | assumption | exact Foot.bit (by assumption) rfl | exact Foot.trans rfl (by assumption)) :
    b.kept m (State.rangeLeaf s n period i) := by
  unfold State.rangeLeaf
  repeat' first
    | with_reducible assumption
    | with_reducible apply State.setBgt_kept
    | with_reducible apply State.grant_kept
    | with_reducible apply State.inc_kept
    | with_reducible apply kept_foldl
    | with_reducible apply kept_foldl_fst
    | with_reducible apply kept_ite
    | with_reducible apply keeps_ite
    | with_reducible apply State.keeps_next
    | exact Foot.bit hm rfl
    | exact Foot.trans rfl hm
    | intro x (hx : State.kept m b x)
    | intro _ x (hx : State.kept m b x)
    | intro x _ (hx : State.kept m b x)
    | intro x _ (hx : State.kept m b x.1)
    | lift_lets
    | (intro x; refine kept_cut (m := m) (b := b) (x := x) ?_ ?_ <;> [skip; (clear_value x; intro hx)])
    | intro _

theorem State.grantNormal_kept {m : Nat} {b : State} (s : State) (n : Nat) (g : BurstGrant) (hs : b.kept m s)
    (hm : Foot.sub 0x100000 m := by
      first | assumption | exact Foot.bit (by assumption) rfl | exact Foot.trans rfl (by assumption)) :
    b.kept m (State.grantNormal s n g) := by
  unfold State.grantNormal
  repeat' first
    | with_reducible assumption
    | with_reducible apply State.grant_kept
    | with_reducible apply State.setLeaf_kept

theorem State.mapSub_kept {m : Nat} {b : State} (s : State) (n : Nat) (period : Nat) (f : Nat) (hs : b.kept m s)
    (hm : Foot.sub 0x100000 m := by
      first | assumption | exact Foot.bit (by assumption) rfl | exact Foot.trans rfl (by assumption)) :
    b.kept m (State.mapSub s n period f) := by
  unfold State.mapSub
  repeat' first
    | with_reducible assumption
    | with_reducible apply State.setLeaf_kept
    | with_reducible apply State.setBgt_kept
    | with_reducible apply State.grantNormal_kept
    | with_reducible apply kept_foldl
    | with_reducible apply kept_foldl_fst
    | with_reducible apply kept_ite
    | with_reducible apply keeps_ite
    | with_reducible apply State.keeps_next
    | exact Foot.bit hm rfl
    | exact Foot.trans rfl hm
    | intro x (hx : State.kept m b x)
    | intro _ x (hx : State.kept m b x)
    | intro x _ (hx : State.kept m b x)
    | intro x _ (hx : State.kept m b x.1)
    | lift_lets
    | intro _
    | refine kept_pair (by assumption) ?_
    | split

theorem execMapComplete_keeps {m : Nat} {b : State} (n : Line) (s : State) (hs : b.kept m s)
    (hm : Foot.sub 0x80000000000000000000000000000000000000000000000000000100000 m := by
      first | assumption | exact Foot.bit (by assumption) rfl | exact Foot.trans rfl (by assumption)) :
    b.keeps m (execMapComplete n s) := by
  unfold execMapComplete
  repeat' first
    | with_reducible assumption
    | with_reducible apply act_keeps
    | with_reducible apply State.invite_kept
    | with_reducible apply State.setBgt_kept
    | with_reducible apply State.each_kept
    | with_reducible apply State.rangeLeaf_kept
    | with_reducible apply State.mapSub_kept
    | with_reducible apply kept_ite
    | with_reducible apply keeps_ite
    | with_reducible apply State.keeps_next
    | exact Foot.bit hm rfl
    | exact Foot.trans rfl hm
    | intro x (hx : State.kept m b x)
    | intro _ x (hx : State.kept m b x)
    | intro x _ (hx : State.kept m b x)
    | intro x _ (hx : State.kept m b x.1)
    | lift_lets
    | (intro x; refine kept_cut (m := m) (b := b) (x := x) ?_ ?_ <;> [skip; (clear_value x; intro hx)])
    | (intro x; clear_value x)
    | intro _

theorem State.undiscover_kept {m : Nat} {b : State} (s : State) (n : Nat) (i : Nat) (hs : b.kept m s)
    (hm : Foot.sub 0xE000000000000088000000000000000000000000000000000888000000000000C00900090 m := by
      first | assumption | exact Foot.bit (by assumption) rfl | exact Foot.trans rfl (by assumption)) :
    b.kept m (State.undiscover s n i) := by
  unfold State.undiscover
  repeat' first
    | with_reducible assumption
    | with_reducible apply State.setLeaf_kept
    | with_reducible apply State.wr_kept
    | with_reducible apply State.setProfile_kept
    | with_reducible apply State.setLeafState_kept
    | exact Foot.bit hm rfl
    | exact Foot.trans rfl hm

theorem State.refreshCtrl_kept {m : Nat} {b : State} (s : State) (n : Nat) (hs : b.kept m s)
    (hm : Foot.sub 0x18000000000000000000000000000000000888000000000000C00000090 m := by
      first | assumption | exact Foot.bit (by assumption) rfl | exact Foot.trans rfl (by assumption)) :
    b.kept m (State.refreshCtrl s n) := by
  unfold State.refreshCtrl
  repeat' first
    | with_reducible assumption
    | with_reducible apply State.wr_kept
    | with_reducible apply State.raise_kept
    | with_reducible apply kept_ite
    | exact Foot.bit hm rfl
    | exact Foot.trans rfl hm
    | lift_lets
    | intro _

theorem State.hubOn_kept {m : Nat} {b : State} (s : State) (n : Nat) (hs : b.kept m s)
    (hm : Foot.sub 0xE000000000000098000000000000000000000000000000000888000000000000C00900090 m := by
      first | assumption | exact Foot.bit (by assumption) rfl | exact Foot.trans rfl (by assumption)) :
    b.kept m (State.hubOn s n) := by
  unfold State.hubOn
  repeat' first
    | with_reducible assumption
    | with_reducible apply State.refreshCtrl_kept
    | with_reducible apply State.setBgt_kept
    | with_reducible apply State.each_kept
    | with_reducible apply State.undiscover_kept
    | exact Foot.trans rfl hm
    | intro _ x (hx : State.kept m b x)

theorem State.hubOff_kept {m : Nat} {b : State} (s : State) (n : Nat) (hs : b.kept m s)
    (hm : Foot.sub 0xE032100000000098000000000000000000000000000000000888080000000000C06902090 m := by
      first | assumption | exact Foot.bit (by assumption) rfl | exact Foot.trans rfl (by assumption)) :
    b.kept m (State.hubOff s n) := by
  unfold State.hubOff
  lift_lets
  intro u v
  have hk : b.kept m u := State.setReg_kept _ _ _ _ _ _ (State.setBgt_kept _ _ _ hs)
  have hb : m.testBit (regBit .BGHT_LEAF_ST) = true := Foot.bit hm rfl
  refine State.lineConsequences_kept _ _ (State.refreshCtrl_kept _ _ (kept_regs' _ hk (RegStore.wf_resetWhere _ _) ?_))
  intro r e
  rw [RegStore.get_resetWhere]
  split
  · next h =>
    simp only [Bool.and_eq_true, decide_eq_true_eq] at h
    rw [h.1, hb] at e; cases e
  · rfl

theorem State.newControl_kept {m : Nat} {b : State} (s : State) (old : State) (n : Nat) (hs : b.kept m s)
    (hold : b.kept m old) (hm : Foot.sub 0x400000000000000000000000000000000000000000000100000 m := by
      first | assumption | exact Foot.bit (by assumption) rfl | exact Foot.trans rfl (by assumption)) :
    b.kept m (State.newControl s old n) := by
  unfold State.newControl
  repeat' first
    | with_reducible assumption
    | with_reducible apply State.setAct_kept
    | with_reducible apply State.setBgt_kept
    | with_reducible apply kept_ite
    | with_reducible apply keeps_ite
    | with_reducible apply State.keeps_next
    | exact Foot.bit hm rfl
    | exact Foot.trans rfl hm
    | intro x (hx : State.kept m b x)
    | intro _ x (hx : State.kept m b x)
    | intro x _ (hx : State.kept m b x)
    | intro x _ (hx : State.kept m b x.1)
    | lift_lets
    | (intro x; clear_value x)
    | intro _

theorem State.bightCommitted_kept {m : Nat} {b : State} (s : State) (old : State) (n : Nat) (hs : b.kept m s)
    (hold : b.kept m old)
    (hm : Foot.sub 0xE000000000000098000000400000000000000000000000000888000000000000C00900090 m := by
      first | assumption | exact Foot.bit (by assumption) rfl | exact Foot.trans rfl (by assumption)) :
    b.kept m (State.bightCommitted s old n) := by
  unfold State.bightCommitted
  repeat' first
    | with_reducible assumption
    | with_reducible apply State.newControl_kept
    | with_reducible apply State.refreshCtrl_kept
    | with_reducible apply State.setBgt_kept
    | with_reducible apply State.each_kept
    | with_reducible apply State.sendRepeat_kept
    | with_reducible apply State.setLeafState_kept
    | with_reducible apply State.setReg_kept
    | with_reducible apply State.refreshBpq_kept
    | with_reducible apply State.undiscover_kept
    | with_reducible apply kept_ite
    | with_reducible apply keeps_ite
    | with_reducible apply State.keeps_next
    | exact Foot.bit hm rfl
    | exact Foot.trans rfl hm
    | intro x (hx : State.kept m b x)
    | intro _ x (hx : State.kept m b x)
    | intro x _ (hx : State.kept m b x)
    | intro x _ (hx : State.kept m b x.1)
    | lift_lets
    | (intro x; refine kept_cut (m := m) (b := b) (x := x) ?_ ?_ <;> [skip; (clear_value x; intro hx)])
    | (intro x; clear_value x)
    | intro _

theorem afterBight_kept {m : Nat} {b : State} (old : State) (new : State) (hold : b.kept m old) (hnew : b.kept m new)
    (hm : Foot.sub 0xE000000000000098000000400000000000000000000000000888000000000000C00900090 m := by
      first | assumption | exact Foot.bit (by assumption) rfl | exact Foot.trans rfl (by assumption)) :
    b.kept m (afterBight old new) := by
  unfold afterBight
  repeat' first
    | with_reducible assumption
    | with_reducible apply State.each_kept
    | with_reducible apply State.bightCommitted_kept
    | intro _ x (hx : State.kept m b x)

end Sys2Proof.Machine
end

