-- ==== Sys2Proof/Laws/KeptKeys.lean ====
section
/-! SUPPORT. What every operation of Machine/Keys.lean keeps: see Laws/Kept.lean. -/

-- The proofs of the whole text do not run side by side: their memory adds up.
set_option Elab.async false

namespace Sys2Proof.Machine

open Sys2Proof

theorem State.finishKey_kept {m : Nat} {b : State} (s : State) (h : Nat) (k : Nat) (receive : Bool) (kid : Nat)
    (slot : Nat) (hs : b.kept m s) (hm : Foot.sub 0x20 m := by
      first | assumption | exact Foot.bit (by assumption) rfl | exact Foot.trans rfl (by assumption)) :
    b.kept m (State.finishKey s h k receive kid slot) := by
  unfold State.finishKey
  repeat' first
    | with_reducible assumption
    | with_reducible apply State.finish_kept

theorem execKeyLoad_keeps {m : Nat} {b : State} (h : Nat) (s : State) (hs : b.kept m s)
    (hm : Foot.sub 0xE032120000000000000000000000000000000000000001010888000000000000C068008B0 m := by
      first | assumption | exact Foot.bit (by assumption) rfl | exact Foot.trans rfl (by assumption)) :
    b.keeps m (execKeyLoad h s) := by
  unfold execKeyLoad
  repeat' first
    | with_reducible assumption
    | with_reducible apply ospin_keeps
    | with_reducible apply State.finish_kept
    | with_reducible apply State.blobRefused_kept
    | with_reducible apply State.finishKey_kept
    | with_reducible apply State.loadKey_kept
    | with_reducible apply kept_ite
    | exact Foot.trans rfl hm
    | intro _ x (hx : State.kept m b x)
    | lift_lets
    | (intro x; clear_value x)
    | intro _
    | split

theorem execKeySwitch_keeps {m : Nat} {b : State} (h : Nat) (s : State) (hs : b.kept m s)
    (hm : Foot.sub 0x1010888000000000000C040008B0 m := by
      first | assumption | exact Foot.bit (by assumption) rfl | exact Foot.trans rfl (by assumption)) :
    b.keeps m (execKeySwitch h s) := by
  unfold execKeySwitch
  repeat' first
    | with_reducible assumption
    | with_reducible apply ospin_keeps
    | with_reducible apply State.finish_kept
    | with_reducible apply State.finishKey_kept
    | with_reducible apply State.setPoint_kept
    | with_reducible apply kept_ite
    | exact Foot.trans rfl hm
    | intro _ x (hx : State.kept m b x)
    | lift_lets
    | (intro x; clear_value x)
    | intro _
    | split

theorem execKeyZero_keeps {m : Nat} {b : State} (h : Nat) (s : State) (hs : b.kept m s)
    (hm : Foot.sub 0xE032100000000000000000000000000000000000000001010888000000000000C068008B0 m := by
      first | assumption | exact Foot.bit (by assumption) rfl | exact Foot.trans rfl (by assumption)) :
    b.keeps m (execKeyZero h s) := by
  unfold execKeyZero
  refine ospin_keeps _ _ _ _ _ hs ?_
  intro c t ht
  apply kept_ite <;> intro _
  · exact State.finish_kept _ _ _ _ _ _ ht
  · lift_lets
    intro one
    have hone : ∀ rx t, b.kept m t → b.kept m (one rx t).1 := by
      intro rx t ht
      show b.kept m (if _ then _ else _ : State × Nat).1
      split
      · exact State.zeroKeys_kept _ _ _ _ _ ht
      · exact ht
    clear_value one
    exact State.finish_kept _ _ _ _ _ _ (hone true _ (hone false _ ht))

theorem execKeyClearAf_keeps {m : Nat} {b : State} (h : Nat) (s : State) (hs : b.kept m s)
    (hm : Foot.sub 0xE032120000000000000000000000000000000000000001010888000000000000C068008B0 m := by
      first | assumption | exact Foot.bit (by assumption) rfl | exact Foot.trans rfl (by assumption)) :
    b.keeps m (execKeyClearAf h s) := by
  unfold execKeyClearAf
  repeat' first
    | with_reducible assumption
    | with_reducible apply ospin_keeps
    | with_reducible apply State.clearAf_kept
    | with_reducible apply State.finish_kept
    | exact Foot.trans rfl hm
    | intro _ x (hx : State.kept m b x)

theorem execKeyStatus_keeps {m : Nat} {b : State} (h : Nat) (s : State) (hs : b.kept m s)
    (hm : Foot.sub 0x1010888000000000000C000008B0 m := by
      first | assumption | exact Foot.bit (by assumption) rfl | exact Foot.trans rfl (by assumption)) :
    b.keeps m (execKeyStatus h s) := by
  unfold execKeyStatus
  repeat' first
    | with_reducible assumption
    | with_reducible apply ospin_keeps
    | with_reducible apply State.finish_kept
    | exact Foot.trans rfl hm
    | intro _ x (hx : State.kept m b x)

theorem execLinkLoad_keeps {m : Nat} {b : State} (h : Nat) (s : State) (hs : b.kept m s)
    (hm : Foot.sub 0x20000000000000000000000000000000000000001010888000000000000C040008B0 m := by
      first | assumption | exact Foot.bit (by assumption) rfl | exact Foot.trans rfl (by assumption)) :
    b.keeps m (execLinkLoad h s) := by
  unfold execLinkLoad
  repeat' first
    | with_reducible assumption
    | with_reducible apply ospin_keeps
    | with_reducible apply State.finish_kept
    | with_reducible apply State.blobRefused_kept
    | with_reducible apply State.setKc_kept
    | with_reducible apply kept_ite
    | exact Foot.trans rfl hm
    | intro _ x (hx : State.kept m b x)
    | lift_lets
    | (intro x; clear_value x)
    | intro _
    | split

theorem State.gccSend_kept {m : Nat} {b : State} (s : State) (n : Nat) (type : Nat) (payload : List Byte)
    (hs : b.kept m s) (hm : Foot.sub 0x1000 m := by
      first | assumption | exact Foot.bit (by assumption) rfl | exact Foot.trans rfl (by assumption)) :
    b.kept m (State.gccSend s n type payload) := by
  unfold State.gccSend
  repeat' first
    | with_reducible assumption
    | with_reducible apply State.setMrl_kept

theorem State.nonce_kept {m : Nat} {b : State} (s : State) (hs : b.kept m s) (hm : Foot.sub 0x400000000 m := by
      first | assumption | exact Foot.bit (by assumption) rfl | exact Foot.trans rfl (by assumption)) :
    b.kept m (State.nonce s).1 := by
  unfold State.nonce
  repeat' first
    | with_reducible assumption
    | exact Foot.bit hm rfl
    | lift_lets
    | with_reducible apply kept_drawn'
    | exact Nat.le_succ _

theorem State.derived_kept {m : Nat} {b : State} (s : State) (link : KeyRec) (kcTx : Nat) (gen : Nat)
    (ntx : List Byte) (nrx : List Byte) (hs : b.kept m s) (hm : Foot.sub 0x400000000 m := by
      first | assumption | exact Foot.bit (by assumption) rfl | exact Foot.trans rfl (by assumption)) :
    b.kept m (State.derived s link kcTx gen ntx nrx).1 := by
  unfold State.derived
  repeat' first
    | with_reducible assumption
    | with_reducible apply State.draw_kept

theorem State.startOffer_kept {m : Nat} {b : State} (s : State) (k : Nat) (hs : b.kept m s)
    (hm : Foot.sub 0x404000000 m := by
      first | assumption | exact Foot.bit (by assumption) rfl | exact Foot.trans rfl (by assumption)) :
    b.kept m (State.startOffer s k) := by
  unfold State.startOffer
  repeat' first
    | with_reducible assumption
    | with_reducible apply State.nonce_kept
    | with_reducible apply State.setKc_kept
    | exact Foot.trans rfl hm

theorem State.offerCopies_kept {m : Nat} {b : State} (s : State) (n : Nat) (hs : b.kept m s)
    (hm : Foot.sub 0x4001000 m := by
      first | assumption | exact Foot.bit (by assumption) rfl | exact Foot.trans rfl (by assumption)) :
    b.kept m (State.offerCopies s n) := by
  unfold State.offerCopies
  repeat' first
    | with_reducible assumption
    | with_reducible apply State.each_kept
    | with_reducible apply State.gccSend_kept
    | with_reducible apply State.setKc_kept
    | with_reducible apply kept_ite
    | exact Foot.trans rfl hm
    | intro _ x (hx : State.kept m b x)
    | lift_lets
    | (intro x; clear_value x)
    | intro _
    | split

theorem State.offerLost_kept {m : Nat} {b : State} (s : State) (k : Nat) (hs : b.kept m s)
    (hm : Foot.sub 0x4000000 m := by
      first | assumption | exact Foot.bit (by assumption) rfl | exact Foot.trans rfl (by assumption)) :
    b.kept m (State.offerLost s k) := by
  unfold State.offerLost
  repeat' first
    | with_reducible assumption
    | with_reducible apply State.setKc_kept

theorem execRekeyTimer_keeps {m : Nat} {b : State} (k : Kc) (s : State) (hs : b.kept m s)
    (hm : Foot.sub 0x20000000000000000000000000000000000000000000888000000000000C04000090 m := by
      first | assumption | exact Foot.bit (by assumption) rfl | exact Foot.trans rfl (by assumption)) :
    b.keeps m (execRekeyTimer k s) := by
  unfold execRekeyTimer
  repeat' first
    | with_reducible assumption
    | with_reducible apply act_keeps
    | with_reducible apply State.startOffer_kept
    | with_reducible apply State.setKc_kept
    | with_reducible apply State.kcEvent_kept
    | with_reducible apply kept_ite
    | exact Foot.bit hm rfl
    | exact Foot.trans rfl hm
    | intro x (hx : State.kept m b x)
    | lift_lets
    | (intro x; clear_value x)
    | intro _

theorem execKxConfirmTimeout_keeps {m : Nat} {b : State} (k : Kc) (s : State) (hs : b.kept m s)
    (hm : Foot.sub 0x4000000 m := by
      first | assumption | exact Foot.bit (by assumption) rfl | exact Foot.trans rfl (by assumption)) :
    b.keeps m (execKxConfirmTimeout k s) := by
  unfold execKxConfirmTimeout
  repeat' first
    | with_reducible assumption
    | with_reducible apply act_keeps
    | with_reducible apply State.offerLost_kept
    | with_reducible apply kept_ite
    | intro x (hx : State.kept m b x)
    | lift_lets
    | intro _

theorem execKxRetry_keeps {m : Nat} {b : State} (k : Kc) (s : State) (hs : b.kept m s)
    (hm : Foot.sub 0x404000000 m := by
      first | assumption | exact Foot.bit (by assumption) rfl | exact Foot.trans rfl (by assumption)) :
    b.keeps m (execKxRetry k s) := by
  unfold execKxRetry
  repeat' first
    | with_reducible assumption
    | with_reducible apply act_keeps
    | with_reducible apply State.startOffer_kept
    | with_reducible apply kept_ite
    | intro x (hx : State.kept m b x)
    | lift_lets
    | intro _

theorem State.takeOffer_kept {m : Nat} {b : State} (s : State) (n : Nat) (a2 : List Byte) (hs : b.kept m s)
    (hm : Foot.sub 0xE032120000000000000000000000000000000000000000000888000000000000C06801090 m := by
      first | assumption | exact Foot.bit (by assumption) rfl | exact Foot.trans rfl (by assumption)) :
    b.kept m (State.takeOffer s n a2) := by
  unfold State.takeOffer
  lift_lets
  intro kcTx gen kid x nack ks
  have hnack : ∀ r, b.kept m (nack r) := fun r => State.gccSend_kept _ _ _ _ hs
  clear_value nack
  split
  · exact hnack _
  · repeat' first
      | with_reducible assumption
      | with_reducible apply hnack
      | with_reducible apply State.setKc_kept
      | with_reducible apply State.loadKey_kept
      | with_reducible apply State.gccSend_kept
      | with_reducible apply State.nonce_kept
      | with_reducible apply State.derived_kept
      | with_reducible apply kept_ite
      | with_reducible apply keeps_ite
      | with_reducible apply State.keeps_next
      | exact Foot.bit (by assumption) rfl
      | exact Foot.trans rfl (by assumption)
      | intro x (hx : State.kept m b x)
      | intro _ x (hx : State.kept m b x)
      | intro x _ (hx : State.kept m b x)
      | intro x _ (hx : State.kept m b x.1)
      | lift_lets
      | (intro x; refine kept_cut (m := m) (b := b) (x := x) ?_ ?_ <;> [skip; (clear_value x; intro hx)])
      | (intro x; clear_value x)
      | intro _
      | exact kept_pair (by assumption) (by assumption)
      | refine kept_pair (by assumption) ?_
      | split

theorem State.takeConfirm_kept {m : Nat} {b : State} (s : State) (n : Nat) (a2 : List Byte) (hs : b.kept m s)
    (hm : Foot.sub 0xE032120000000000000000000000000000000000000000000888000000000000C06800090 m := by
      first | assumption | exact Foot.bit (by assumption) rfl | exact Foot.trans rfl (by assumption)) :
    b.kept m (State.takeConfirm s n a2) := by
  unfold State.takeConfirm
  repeat' first
    | with_reducible assumption
    | with_reducible apply State.offerLost_kept
    | with_reducible apply State.derived_kept
    | with_reducible apply State.loadKey_kept
    | with_reducible apply State.setKc_kept
    | with_reducible apply kept_ite
    | exact Foot.trans rfl hm
    | lift_lets
    | (intro x; clear_value x)
    | intro _
    | split

theorem State.takeNack_kept {m : Nat} {b : State} (s : State) (n : Nat) (a2 : List Byte) (hs : b.kept m s)
    (hm : Foot.sub 0x4000000 m := by
      first | assumption | exact Foot.bit (by assumption) rfl | exact Foot.trans rfl (by assumption)) :
    b.kept m (State.takeNack s n a2) := by
  unfold State.takeNack
  repeat' first
    | with_reducible assumption
    | with_reducible apply State.offerLost_kept
    | with_reducible apply kept_ite
    | lift_lets
    | (intro x; clear_value x)
    | intro _
    | split

theorem State.takeKx_kept {m : Nat} {b : State} (s : State) (n : Nat) (a2 : List Byte) (hs : b.kept m s)
    (hm : Foot.sub 0xE032120000000000000000000000000000000000000000000888000000000000C06801090 m := by
      first | assumption | exact Foot.bit (by assumption) rfl | exact Foot.trans rfl (by assumption)) :
    b.kept m (State.takeKx s n a2) := by
  unfold State.takeKx
  repeat' first
    | with_reducible assumption
    | with_reducible apply State.takeOffer_kept
    | with_reducible apply State.takeConfirm_kept
    | with_reducible apply State.takeNack_kept
    | with_reducible apply kept_ite
    | exact Foot.trans rfl hm
    | lift_lets
    | intro _
    | split

theorem State.gccRecords_kept {m : Nat} {b : State} (s : State) (n : Nat) (num : Nat) (first : Bool) (fuel : Nat)
    (data : List Byte) (hs : b.kept m s) (hm : Foot.sub 0x808000000000000800000090 m := by
      first | assumption | exact Foot.bit (by assumption) rfl | exact Foot.trans rfl (by assumption)) :
    b.kept m (State.gccRecords s n num first fuel data) := by
  induction fuel generalizing s first data with
  | zero => exact hs
  | succ f ih =>
    unfold State.gccRecords
    apply kept_ite <;> intro _
    · exact hs
    · exact ih _ _ _ (State.streamPut_kept _ _ _ hs)

theorem State.takeGccPacket_kept {m : Nat} {b : State} (s : State) (n : Nat) (p : List Byte) (hs : b.kept m s)
    (hm : Foot.sub 0xE032120000000000000000000000000000000000000000008888000000000000C06801090 m := by
      first | assumption | exact Foot.bit (by assumption) rfl | exact Foot.trans rfl (by assumption)) :
    b.kept m (State.takeGccPacket s n p) := by
  unfold State.takeGccPacket
  repeat' first
    | with_reducible assumption
    | with_reducible apply State.raise_kept
    | with_reducible apply State.takeKx_kept
    | with_reducible apply State.gccRecords_kept
    | with_reducible apply State.setMrl_kept
    | with_reducible apply kept_ite
    | with_reducible apply keeps_ite
    | with_reducible apply State.keeps_next
    | exact Foot.bit hm rfl
    | exact Foot.trans rfl hm
    | intro x (hx : State.kept m b x)
    | intro _ x (hx : State.kept m b x)
    | intro x _ (hx : State.kept m b x)
    | intro x _ (hx : State.kept m b x.1)
    | lift_lets
    | (intro x; clear_value x)
    | intro _

theorem execGcc0PacketReceived_keeps {m : Nat} {b : State} (n : Line) (s : State) (hs : b.kept m s)
    (hm : Foot.sub 0xE032120000000000000000000000000000000000000000008888000000000000C16801090 m := by
      first | assumption | exact Foot.bit (by assumption) rfl | exact Foot.trans rfl (by assumption)) :
    b.keeps m (execGcc0PacketReceived n s) := by
  unfold execGcc0PacketReceived
  repeat' first
    | with_reducible assumption
    | with_reducible apply act_keeps
    | with_reducible apply State.takeGccPacket_kept
    | with_reducible apply State.setHit_kept
    | with_reducible apply kept_ite
    | with_reducible apply keeps_ite
    | with_reducible apply State.keeps_next
    | exact Foot.bit hm rfl
    | exact Foot.trans rfl hm
    | intro x (hx : State.kept m b x)
    | intro _ x (hx : State.kept m b x)
    | intro x _ (hx : State.kept m b x)
    | intro x _ (hx : State.kept m b x.1)
    | lift_lets
    | (intro x; clear_value x)
    | intro _
    | refine kept_pair (by assumption) ?_
    | split

theorem State.finishPg_kept {m : Nat} {b : State} (s : State) (h : Nat) (g : Nat) (hs : b.kept m s)
    (hm : Foot.sub 0x20 m := by
      first | assumption | exact Foot.bit (by assumption) rfl | exact Foot.trans rfl (by assumption)) :
    b.kept m (State.finishPg s h g) := by
  unfold State.finishPg
  repeat' first
    | with_reducible assumption
    | with_reducible apply State.finish_kept

theorem execPgLockout_keeps {m : Nat} {b : State} (h : Nat) (s : State) (hs : b.kept m s)
    (hm : Foot.sub 0x10000000000000000000000000000000000000000001010888000000000000C020008B0 m := by
      first | assumption | exact Foot.bit (by assumption) rfl | exact Foot.trans rfl (by assumption)) :
    b.keeps m (execPgLockout h s) := by
  unfold execPgLockout
  repeat' first
    | with_reducible assumption
    | with_reducible apply ospin_keeps
    | with_reducible apply State.finishPg_kept
    | with_reducible apply State.pgLockout_kept
    | exact Foot.trans rfl hm
    | intro _ x (hx : State.kept m b x)

theorem execPgForce_keeps {m : Nat} {b : State} (h : Nat) (s : State) (hs : b.kept m s)
    (hm : Foot.sub 0x10000000000000000000000000000000000000000001010888000000000000C020008B0 m := by
      first | assumption | exact Foot.bit (by assumption) rfl | exact Foot.trans rfl (by assumption)) :
    b.keeps m (execPgForce h s) := by
  unfold execPgForce
  repeat' first
    | with_reducible assumption
    | with_reducible apply ospin_keeps
    | with_reducible apply State.finish_kept
    | with_reducible apply State.finishPg_kept
    | with_reducible apply State.pgForce_kept
    | with_reducible apply kept_ite
    | exact Foot.trans rfl hm
    | intro _ x (hx : State.kept m b x)
    | lift_lets
    | intro _

theorem execPgClear_keeps {m : Nat} {b : State} (h : Nat) (s : State) (hs : b.kept m s)
    (hm : Foot.sub 0x10000000000000000000000000000000000000000001010888000000000000C020008B0 m := by
      first | assumption | exact Foot.bit (by assumption) rfl | exact Foot.trans rfl (by assumption)) :
    b.keeps m (execPgClear h s) := by
  unfold execPgClear
  repeat' first
    | with_reducible assumption
    | with_reducible apply ospin_keeps
    | with_reducible apply State.finish_kept
    | with_reducible apply State.finishPg_kept
    | with_reducible apply State.pgClear_kept
    | with_reducible apply kept_ite
    | exact Foot.trans rfl hm
    | intro _ x (hx : State.kept m b x)
    | lift_lets
    | intro _

theorem execPgRealign_keeps {m : Nat} {b : State} (h : Nat) (s : State) (hs : b.kept m s)
    (hm : Foot.sub 0xE072000000000000000000000000000000000000000001010888000000000000C028008B0 m := by
      first | assumption | exact Foot.bit (by assumption) rfl | exact Foot.trans rfl (by assumption)) :
    b.keeps m (execPgRealign h s) := by
  unfold execPgRealign
  repeat' first
    | with_reducible assumption
    | with_reducible apply ospin_keeps
    | with_reducible apply State.finish_kept
    | with_reducible apply State.finishPg_kept
    | with_reducible apply State.align_kept
    | with_reducible apply kept_ite
    | exact Foot.trans rfl hm
    | intro _ x (hx : State.kept m b x)
    | lift_lets
    | intro _

theorem execPgStatus_keeps {m : Nat} {b : State} (h : Nat) (s : State) (hs : b.kept m s)
    (hm : Foot.sub 0x1010888000000000000C000008B0 m := by
      first | assumption | exact Foot.bit (by assumption) rfl | exact Foot.trans rfl (by assumption)) :
    b.keeps m (execPgStatus h s) := by
  unfold execPgStatus
  repeat' first
    | with_reducible assumption
    | with_reducible apply ospin_keeps
    | with_reducible apply State.finishPg_kept
    | exact Foot.trans rfl hm
    | intro _ x (hx : State.kept m b x)

theorem execLeafRerange_keeps {m : Nat} {b : State} (h : Nat) (s : State) (hs : b.kept m s)
    (hm : Foot.sub 0xE000000000000088000000000000000000000000000001010888000000000000C009008B0 m := by
      first | assumption | exact Foot.bit (by assumption) rfl | exact Foot.trans rfl (by assumption)) :
    b.keeps m (execLeafRerange h s) := by
  unfold execLeafRerange
  repeat' first
    | with_reducible assumption
    | with_reducible apply ospin_keeps
    | with_reducible apply State.rerangeAsked_kept
    | with_reducible apply State.finish_kept
    | with_reducible apply kept_ite
    | with_reducible apply keeps_ite
    | with_reducible apply State.keeps_next
    | exact Foot.bit hm rfl
    | exact Foot.trans rfl hm
    | intro x (hx : State.kept m b x)
    | intro _ x (hx : State.kept m b x)

theorem execLeafStatus_keeps {m : Nat} {b : State} (h : Nat) (s : State) (hs : b.kept m s)
    (hm : Foot.sub 0x1010888000000000000C000008B0 m := by
      first | assumption | exact Foot.bit (by assumption) rfl | exact Foot.trans rfl (by assumption)) :
    b.keeps m (execLeafStatus h s) := by
  unfold execLeafStatus
  repeat' first
    | with_reducible assumption
    | with_reducible apply ospin_keeps
    | with_reducible apply State.finish_kept
    | exact Foot.trans rfl hm
    | intro _ x (hx : State.kept m b x)

theorem execLeafMgmt_keeps {m : Nat} {b : State} (h : Nat) (s : State) (hs : b.kept m s)
    (hm : Foot.sub 0x1010888000000000000C001008B0 m := by
      first | assumption | exact Foot.bit (by assumption) rfl | exact Foot.trans rfl (by assumption)) :
    b.keeps m (execLeafMgmt h s) := by
  unfold execLeafMgmt
  repeat' first
    | with_reducible assumption
    | with_reducible apply ospin_keeps
    | with_reducible apply State.finish_kept
    | with_reducible apply State.sendRepeat_kept
    | with_reducible apply kept_ite
    | exact Foot.trans rfl hm
    | intro _ x (hx : State.kept m b x)
    | lift_lets
    | (intro x; clear_value x)
    | intro _

end Sys2Proof.Machine
end

