-- ==== Sys2Proof/Laws/KeptRoles.lean ====
section
/-! SUPPORT. What every operation of Machine/Roles.lean keeps: see Laws/Kept.lean. -/

-- The proofs of the whole text do not run side by side: their memory adds up.
set_option Elab.async false

namespace Sys2Proof.Machine

open Sys2Proof

theorem State.setAuth_kept {m : Nat} {b : State} (s : State) (a : AuthInt) (hs : b.kept m s)
    (hm : Foot.sub 0x100 m := by
      first | assumption | exact Foot.bit (by assumption) rfl | exact Foot.trans rfl (by assumption)) :
    b.kept m (State.setAuth s a) := by
  unfold State.setAuth
  repeat' first
    | with_reducible assumption
    | exact Foot.bit hm rfl
    | with_reducible apply kept_auth

theorem State.newChallenge_kept {m : Nat} {b : State} (s : State) (req : Requester) (hs : b.kept m s)
    (hm : Foot.sub 0x400000100 m := by
      first | assumption | exact Foot.bit (by assumption) rfl | exact Foot.trans rfl (by assumption)) :
    b.kept m (State.newChallenge s req).1 := by
  unfold State.newChallenge
  repeat' first
    | with_reducible assumption
    | with_reducible apply State.nonce_kept
    | with_reducible apply State.setAuth_kept
    | exact Foot.trans rfl hm

theorem State.failedResponse_kept {m : Nat} {b : State} (s : State) (req : Requester) (hs : b.kept m s)
    (hm : Foot.sub 0x10888000000000000C00000190 m := by
      first | assumption | exact Foot.bit (by assumption) rfl | exact Foot.trans rfl (by assumption)) :
    b.kept m (State.failedResponse s req) := by
  unfold State.failedResponse
  repeat' first
    | with_reducible assumption
    | with_reducible apply State.raise_kept
    | with_reducible apply State.setAuth_kept
    | with_reducible apply kept_ite
    | exact Foot.bit hm rfl
    | exact Foot.trans rfl hm
    | lift_lets
    | intro _

theorem State.grantRole_kept {m : Nat} {b : State} (s : State) (req : Requester) (role : Nat) (mask : Nat)
    (hs : b.kept m s) (hm : Foot.sub 0x1410888000000000000C00000A90 m := by
      first | assumption | exact Foot.bit (by assumption) rfl | exact Foot.trans rfl (by assumption)) :
    b.kept m (State.grantRole s req role mask).1 := by
  unfold State.grantRole
  lift_lets
  intro dup u life v
  have hk : b.kept m u := State.each_kept _ _ _ hs fun _ _ h => State.endSession_kept _ _ h
  clear_value v life
  clear_value u
  split
  · exact hk
  · apply State.raise_kept <;> try first | exact Foot.trans rfl hm | exact Foot.bit hm rfl
    exact kept_sessLeft' (s := u.setReg .MRLN_ROLE_ST _ _) _ _ (State.setReg_kept _ _ _ _ _ _ hk)

theorem State.respond_kept {m : Nat} {b : State} (s : State) (req : Requester) (role : Nat) (entry : Nat) (mask : Nat)
    (sig : List Byte) (hs : b.kept m s) (hm : Foot.sub 0x1410888000000000000C00000B90 m := by
      first | assumption | exact Foot.bit (by assumption) rfl | exact Foot.trans rfl (by assumption)) :
    b.kept m (State.respond s req role entry mask sig).1 := by
  unfold State.respond
  repeat' first
    | with_reducible assumption
    | with_reducible apply State.setAuth_kept
    | with_reducible apply State.failedResponse_kept
    | with_reducible apply State.grantRole_kept
    | exact Foot.trans rfl hm
    | lift_lets
    | (intro x; refine kept_cut (m := m) (b := b) (x := x) ?_ ?_ <;> [skip; (clear_value x; intro hx)])
    | (intro x; clear_value x)
    | split

theorem execRoleChallenge_keeps {m : Nat} {b : State} (h : Nat) (s : State) (hs : b.kept m s)
    (hm : Foot.sub 0x1010888000000000000C000009B0 m := by
      first | assumption | exact Foot.bit (by assumption) rfl | exact Foot.trans rfl (by assumption)) :
    b.keeps m (execRoleChallenge h s) := by
  unfold execRoleChallenge
  repeat' first
    | with_reducible assumption
    | with_reducible apply ospin_keeps
    | with_reducible apply State.newChallenge_kept
    | with_reducible apply State.finish_kept
    | exact Foot.trans rfl hm
    | intro _ x (hx : State.kept m b x)

theorem roleCmd_keeps {m : Nat} {b : State} (op : Nat) (h : Nat) (s : State) (nothing : Cmd → State → Bool)
    (f : Cmd → State → State) (hs : b.kept m s) (hf : ∀ y0 y1, b.kept m y1 → b.kept m (f y0 y1))
    (hm : Foot.sub 0x1010888000000000000C000008B0 m := by
      first | assumption | exact Foot.bit (by assumption) rfl | exact Foot.trans rfl (by assumption)) :
    b.keeps m (roleCmd op h s nothing f) := by
  unfold roleCmd
  repeat' first
    | with_reducible assumption
    | with_reducible apply hf
    | with_reducible apply ospinRaw_keeps
    | with_reducible apply State.refuseUnjournaled_kept
    | with_reducible apply State.recordDone_kept
    | with_reducible apply kept_ite
    | with_reducible apply keeps_ite
    | with_reducible apply State.keeps_next
    | exact Foot.bit hm rfl
    | exact Foot.trans rfl hm
    | intro x (hx : State.kept m b x)
    | intro _ x (hx : State.kept m b x)
    | intro x _ (hx : State.kept m b x)
    | intro x _ (hx : State.kept m b x.1)
    | lift_lets
    | intro _

theorem execRoleResponse_keeps {m : Nat} {b : State} (h : Nat) (s : State) (hs : b.kept m s)
    (hm : Foot.sub 0x1410888000000000000C00000BB0 m := by
      first | assumption | exact Foot.bit (by assumption) rfl | exact Foot.trans rfl (by assumption)) :
    b.keeps m (execRoleResponse h s) := by
  unfold execRoleResponse
  repeat' first
    | with_reducible assumption
    | with_reducible apply roleCmd_keeps
    | with_reducible apply State.finish_kept
    | with_reducible apply State.respond_kept
    | with_reducible apply kept_ite
    | with_reducible apply keeps_ite
    | with_reducible apply State.keeps_next
    | exact Foot.bit hm rfl
    | exact Foot.trans rfl hm
    | intro x (hx : State.kept m b x)
    | intro _ x (hx : State.kept m b x)
    | intro x _ (hx : State.kept m b x)
    | intro x _ (hx : State.kept m b x.1)
    | lift_lets
    | intro _
    | refine kept_pair (by assumption) ?_
    | split

theorem execRoleDrop_keeps {m : Nat} {b : State} (h : Nat) (s : State) (hs : b.kept m s)
    (hm : Foot.sub 0x1410888000000000000C00000AB0 m := by
      first | assumption | exact Foot.bit (by assumption) rfl | exact Foot.trans rfl (by assumption)) :
    b.keeps m (execRoleDrop h s) := by
  unfold execRoleDrop
  repeat' first
    | with_reducible assumption
    | with_reducible apply roleCmd_keeps
    | with_reducible apply State.each_kept
    | with_reducible apply State.endSession_kept
    | with_reducible apply State.wr_kept
    | with_reducible apply State.finish_kept
    | with_reducible apply kept_ite
    | with_reducible apply keeps_ite
    | with_reducible apply State.keeps_next
    | exact Foot.bit hm rfl
    | exact Foot.trans rfl hm
    | intro x (hx : State.kept m b x)
    | intro _ x (hx : State.kept m b x)
    | intro x _ (hx : State.kept m b x)
    | intro x _ (hx : State.kept m b x.1)
    | lift_lets
    | intro _

theorem execRoleStatus_keeps {m : Nat} {b : State} (h : Nat) (s : State) (hs : b.kept m s)
    (hm : Foot.sub 0x1010888000000000000C000008B0 m := by
      first | assumption | exact Foot.bit (by assumption) rfl | exact Foot.trans rfl (by assumption)) :
    b.keeps m (execRoleStatus h s) := by
  unfold execRoleStatus
  repeat' first
    | with_reducible assumption
    | with_reducible apply ospin_keeps
    | with_reducible apply State.finish_kept
    | exact Foot.trans rfl hm
    | intro _ x (hx : State.kept m b x)

theorem State.authWindow_kept {m : Nat} {b : State} (s : State) (req : Requester) (f : State → State)
    (hs : b.kept m s) (hf : ∀ y0, b.kept m y0 → b.kept m (f y0)) (hm : Foot.sub 0x1010888000000000000C00000090 m := by
      first | assumption | exact Foot.bit (by assumption) rfl | exact Foot.trans rfl (by assumption))
    :
    b.kept m (State.authWindow s req f) := by
  unfold State.authWindow
  repeat' first
    | with_reducible assumption
    | with_reducible apply hf
    | with_reducible apply State.denied_kept
    | with_reducible apply kept_ite
    | lift_lets
    | intro _

theorem State.authNew_kept {m : Nat} {b : State} (s : State) (hs : b.kept m s)
    (hm : Foot.sub 0x28000000000000000000400000100 m := by
      first | assumption | exact Foot.bit (by assumption) rfl | exact Foot.trans rfl (by assumption)) :
    b.kept m (State.authNew s) := by
  unfold State.authNew
  repeat' first
    | with_reducible assumption
    | with_reducible apply State.newChallenge_kept
    | with_reducible apply State.wr_kept
    | with_reducible apply State.each_kept
    | with_reducible apply State.setReg_kept
    | exact Foot.bit hm rfl
    | exact Foot.trans rfl hm
    | intro _ x (hx : State.kept m b x)

theorem State.authSubmit_kept {m : Nat} {b : State} (s : State) (hs : b.kept m s)
    (hm : Foot.sub 0x21410888000000000000C00000B90 m := by
      first | assumption | exact Foot.bit (by assumption) rfl | exact Foot.trans rfl (by assumption)) :
    b.kept m (State.authSubmit s) := by
  unfold State.authSubmit
  repeat' first
    | with_reducible assumption
    | with_reducible apply State.wr_kept
    | with_reducible apply State.unjournaled_kept
    | with_reducible apply State.respond_kept
    | with_reducible apply State.record_kept
    | with_reducible apply kept_ite
    | exact Foot.bit hm rfl
    | exact Foot.trans rfl hm
    | lift_lets
    | (intro x; clear_value x)
    | intro _

theorem State.authCtl_kept {m : Nat} {b : State} (s : State) (v : Nat) (hs : b.kept m s)
    (hm : Foot.sub 0x29410888000000000000C00000B90 m := by
      first | assumption | exact Foot.bit (by assumption) rfl | exact Foot.trans rfl (by assumption)) :
    b.kept m (State.authCtl s v) := by
  unfold State.authCtl
  repeat' first
    | with_reducible assumption
    | with_reducible apply State.wr_kept
    | with_reducible apply State.authSubmit_kept
    | with_reducible apply State.authNew_kept
    | with_reducible apply kept_ite
    | exact Foot.bit hm rfl
    | exact Foot.trans rfl hm
    | lift_lets
    | intro _

theorem execAuthNew_keeps {m : Nat} {b : State} (req : Requester) (entry : BitVec 6) (s : State) (hs : b.kept m s)
    (hm : Foot.sub 0x29410888000000000000C00000B92 m := by
      first | assumption | exact Foot.bit (by assumption) rfl | exact Foot.trans rfl (by assumption)) :
    b.keeps m (execAuthNew req entry s) := by
  unfold execAuthNew
  repeat' first
    | with_reducible assumption
    | with_reducible apply access_keeps
    | with_reducible apply State.authWindow_kept
    | with_reducible apply State.authCtl_kept
    | exact Foot.trans rfl hm
    | intro x (hx : State.kept m b x)

theorem execAuthSubmit_keeps {m : Nat} {b : State} (req : Requester) (entry : BitVec 6) (s : State) (hs : b.kept m s)
    (hm : Foot.sub 0x29410888000000000000C00000B92 m := by
      first | assumption | exact Foot.bit (by assumption) rfl | exact Foot.trans rfl (by assumption)) :
    b.keeps m (execAuthSubmit req entry s) := by
  unfold execAuthSubmit
  repeat' first
    | with_reducible assumption
    | with_reducible apply access_keeps
    | with_reducible apply State.authWindow_kept
    | with_reducible apply State.authCtl_kept
    | exact Foot.trans rfl hm
    | intro x (hx : State.kept m b x)

theorem execLockoutExpiry_keeps {m : Nat} {b : State} (req : Requester) (s : State) (hs : b.kept m s)
    (hm : Foot.sub 0x100 m := by
      first | assumption | exact Foot.bit (by assumption) rfl | exact Foot.trans rfl (by assumption)) :
    b.keeps m (execLockoutExpiry req s) := by
  unfold execLockoutExpiry
  repeat' first
    | with_reducible assumption
    | with_reducible apply act_keeps
    | with_reducible apply State.setAuth_kept
    | with_reducible apply kept_ite
    | intro x (hx : State.kept m b x)
    | lift_lets
    | intro _

theorem execSessionExpiry_keeps {m : Nat} {b : State} (slot : Slot) (s : State) (hs : b.kept m s)
    (hm : Foot.sub 0x1410888000000000000C00000A90 m := by
      first | assumption | exact Foot.bit (by assumption) rfl | exact Foot.trans rfl (by assumption)) :
    b.keeps m (execSessionExpiry slot s) := by
  unfold execSessionExpiry
  repeat' first
    | with_reducible assumption
    | with_reducible apply act_keeps
    | with_reducible apply State.endSession_kept
    | intro x (hx : State.kept m b x)

theorem State.rolesSecond_kept {m : Nat} {b : State} (s : State) (hs : b.kept m s)
    (hm : Foot.sub 0x400000000000000000000000300 m := by
      first | assumption | exact Foot.bit (by assumption) rfl | exact Foot.trans rfl (by assumption)) :
    b.kept m (State.rolesSecond s) := by
  unfold State.rolesSecond
  repeat' first
    | with_reducible assumption
    | with_reducible apply State.each_kept
    | with_reducible apply State.wr_kept
    | exact Foot.bit hm rfl
    | intro _ x (hx : State.kept m b x)
    | lift_lets
    | with_reducible apply kept_sessLeft'
    | with_reducible apply kept_auth

theorem State.journalRoom_kept {m : Nat} {b : State} (s : State) (hs : b.kept m s)
    (hm : Foot.sub 0x1000000000000000000000000800 m := by
      first | assumption | exact Foot.bit (by assumption) rfl | exact Foot.trans rfl (by assumption)) :
    b.kept m (State.journalRoom s) := by
  unfold State.journalRoom
  repeat' first
    | with_reducible assumption
    | with_reducible apply State.wr_kept
    | with_reducible apply kept_ite
    | exact Foot.bit hm rfl
    | lift_lets
    | intro _
    | with_reducible apply kept_journal

theorem State.programPage_kept {m : Nat} {b : State} (s : State) (hs : b.kept m s)
    (hm : Foot.sub 0x3010888000000000000C00000890 m := by
      first | assumption | exact Foot.bit (by assumption) rfl | exact Foot.trans rfl (by assumption)) :
    b.kept m (State.programPage s) := by
  unfold State.programPage
  repeat' first
    | with_reducible assumption
    | with_reducible apply State.journalRoom_kept
    | with_reducible apply State.setReg_kept
    | with_reducible apply State.wr_kept
    | with_reducible apply State.raise_kept
    | with_reducible apply kept_ite
    | exact Foot.bit hm rfl
    | exact Foot.trans rfl hm
    | lift_lets
    | (intro x; refine kept_cut (m := m) (b := b) (x := x) ?_ ?_ <;> [skip; (clear_value x; intro hx)])
    | (intro x; clear_value x)
    | intro _
    | with_reducible apply kept_journal

theorem execJournalPageProgram_keeps {m : Nat} {b : State} (s : State) (hs : b.kept m s)
    (hm : Foot.sub 0x3010888000000000000C00000890 m := by
      first | assumption | exact Foot.bit (by assumption) rfl | exact Foot.trans rfl (by assumption)) :
    b.keeps m (execJournalPageProgram s) := by
  unfold execJournalPageProgram
  repeat' first
    | with_reducible assumption
    | with_reducible apply act_keeps
    | with_reducible apply State.programPage_kept
    | intro x (hx : State.kept m b x)

theorem execJournalDrain_keeps {m : Nat} {b : State} (s : State) (hs : b.kept m s)
    (hm : Foot.sub 0x3010888000000000000C00000890 m := by
      first | assumption | exact Foot.bit (by assumption) rfl | exact Foot.trans rfl (by assumption)) :
    b.keeps m (execJournalDrain s) := by
  unfold execJournalDrain
  repeat' first
    | with_reducible assumption
    | with_reducible apply act_keeps
    | with_reducible apply State.each_kept
    | with_reducible apply State.programPage_kept
    | intro x (hx : State.kept m b x)
    | intro _ x (hx : State.kept m b x)

theorem State.copyRecord_kept {m : Nat} {b : State} (s : State) (q : Nat) (r : JRec) (hs : b.kept m s)
    (hm : Foot.sub 0x808000000000000800000090 m := by
      first | assumption | exact Foot.bit (by assumption) rfl | exact Foot.trans rfl (by assumption)) :
    b.kept m (State.copyRecord s q r).1 := by
  unfold State.copyRecord
  lift_lets
  intro bytes room
  have hroom : ∀ t, b.kept m t → b.kept m (room t) := by
    intro t ht
    show b.kept m (if _ then _ else _)
    repeat' first
      | with_reducible assumption
      | with_reducible apply State.wr_kept
      | with_reducible apply State.inc_kept
      | with_reducible apply kept_ite
      | with_reducible apply keeps_ite
      | with_reducible apply State.keeps_next
      | exact Foot.bit (by assumption) rfl
      | exact Foot.trans rfl (by assumption)
      | intro x (hx : State.kept m b x)
      | intro _ x (hx : State.kept m b x)
      | intro x _ (hx : State.kept m b x)
      | intro x _ (hx : State.kept m b x.1)
      | lift_lets
      | (intro x; refine kept_cut (m := m) (b := b) (x := x) ?_ ?_ <;> [skip; (clear_value x; intro hx)])
      | (intro x; clear_value x)
      | intro _
      | exact kept_pair (by assumption) (by assumption)
      | refine kept_pair (by assumption) ?_
      | split
  clear_value room
  split
  · exact State.ringPutRaw_kept _ _ _ _ (hroom _ (State.ringPutRaw_kept _ _ _ _ (hroom _ hs)))
  · split
    · exact State.ringPutRaw_kept _ _ _ _ (State.ringPutRaw_kept _ _ _ _ hs)
    · exact State.inc_kept _ _ _ _ _ _ hs

theorem execAuditRead_keeps {m : Nat} {b : State} (h : Nat) (s : State) (hs : b.kept m s)
    (hm : Foot.sub 0x1010888000000000000C000008B0 m := by
      first | assumption | exact Foot.bit (by assumption) rfl | exact Foot.trans rfl (by assumption)) :
    b.keeps m (execAuditRead h s) := by
  unfold execAuditRead
  repeat' first
    | with_reducible assumption
    | with_reducible apply ospin_keeps
    | with_reducible apply State.finish_kept
    | with_reducible apply State.copyRecord_kept
    | with_reducible apply kept_foldl_fst
    | with_reducible apply kept_ite
    | exact Foot.trans rfl hm
    | intro _ x (hx : State.kept m b x)
    | intro x _ (hx : State.kept m b x.1)
    | lift_lets
    | (intro x; clear_value x)
    | intro _

theorem execAuditAck_keeps {m : Nat} {b : State} (h : Nat) (s : State) (hs : b.kept m s)
    (hm : Foot.sub 0x5010888000000000000C000008B0 m := by
      first | assumption | exact Foot.bit (by assumption) rfl | exact Foot.trans rfl (by assumption)) :
    b.keeps m (execAuditAck h s) := by
  unfold execAuditAck
  repeat' first
    | with_reducible assumption
    | with_reducible apply ospinRaw_keeps
    | with_reducible apply State.refuseUnjournaled_kept
    | with_reducible apply State.finish_kept
    | with_reducible apply State.setReg_kept
    | with_reducible apply State.wr_kept
    | with_reducible apply State.recordDone_kept
    | with_reducible apply kept_ite
    | exact Foot.bit hm rfl
    | exact Foot.trans rfl hm
    | intro _ x (hx : State.kept m b x)
    | lift_lets
    | (intro x; refine kept_cut (m := m) (b := b) (x := x) ?_ ?_ <;> [skip; (clear_value x; intro hx)])
    | (intro x; clear_value x)
    | intro _

theorem State.showNv_kept {m : Nat} {b : State} (s : State) (hs : b.kept m s)
    (hm : Foot.sub 0x1000000000000000000000000000 m := by
      first | assumption | exact Foot.bit (by assumption) rfl | exact Foot.trans rfl (by assumption)) :
    b.kept m (State.showNv s) := by
  unfold State.showNv
  repeat' first
    | with_reducible assumption
    | with_reducible apply State.wr_kept
    | exact Foot.bit hm rfl

theorem nvCmd_keeps {m : Nat} {b : State} (op : Nat) (h : Nat) (s : State) (kind5 : Cmd → State → State → Bool)
    (version : Cmd → State → Nat) (f : Cmd → State → State) (hs : b.kept m s)
    (hf : ∀ y0 y1, b.kept m y1 → b.kept m (f y0 y1)) (hm : Foot.sub 0x1010888000000000000C000008B0 m := by
      first | assumption | exact Foot.bit (by assumption) rfl | exact Foot.trans rfl (by assumption)) :
    b.keeps m (nvCmd op h s kind5 version f) := by
  unfold nvCmd
  repeat' first
    | with_reducible assumption
    | with_reducible apply hf
    | with_reducible apply ospinRaw_keeps
    | with_reducible apply State.refuseUnjournaled_kept
    | with_reducible apply State.finish_kept
    | with_reducible apply State.recordDone_kept
    | with_reducible apply kept_ite
    | exact Foot.trans rfl hm
    | intro _ x (hx : State.kept m b x)
    | lift_lets
    | (intro x; refine kept_cut (m := m) (b := b) (x := x) ?_ ?_ <;> [skip; (clear_value x; intro hx)])
    | intro _

theorem State.setArea_kept {m : Nat} {b : State} (s : State) (a : Nat) (x : FlashArea) (hs : b.kept m s)
    (hm : Foot.sub 0x400 m := by
      first | assumption | exact Foot.bit (by assumption) rfl | exact Foot.trans rfl (by assumption)) :
    b.kept m (State.setArea s a x) := by
  unfold State.setArea
  repeat' first
    | with_reducible assumption
    | exact Foot.bit hm rfl
    | lift_lets
    | (intro x; clear_value x)
    | with_reducible apply kept_nv

theorem execNvWrite_keeps {m : Nat} {b : State} (h : Nat) (s : State) (hs : b.kept m s)
    (hm : Foot.sub 0x1010888000000000000C00000CB0 m := by
      first | assumption | exact Foot.bit (by assumption) rfl | exact Foot.trans rfl (by assumption)) :
    b.keeps m (execNvWrite h s) := by
  unfold execNvWrite
  repeat' first
    | with_reducible assumption
    | with_reducible apply nvCmd_keeps
    | with_reducible apply State.finish_kept
    | with_reducible apply State.setArea_kept
    | with_reducible apply State.showNv_kept
    | with_reducible apply kept_ite
    | exact Foot.bit hm rfl
    | exact Foot.trans rfl hm
    | intro _ x (hx : State.kept m b x)
    | lift_lets
    | (intro x; refine kept_cut (m := m) (b := b) (x := x) ?_ ?_ <;> [skip; (clear_value x; intro hx)])
    | (intro x; clear_value x)
    | intro _
    | with_reducible apply kept_nv

theorem State.swapHalves_kept {m : Nat} {b : State} (s : State) (a : Nat) (hs : b.kept m s)
    (hm : Foot.sub 0x400 m := by
      first | assumption | exact Foot.bit (by assumption) rfl | exact Foot.trans rfl (by assumption)) :
    b.kept m (State.swapHalves s a) := by
  unfold State.swapHalves
  repeat' first
    | with_reducible assumption
    | with_reducible apply State.setArea_kept

/-- The KEKs unwrapped from a blob are a table in canonical form. -/
theorem openKeks_wf (s : State) (l : List (Nat × List Byte)) (t : Tab (List Byte)) (h : s.openKeks l = .inr t) :
    Tab.wf [] t = true := by
  unfold State.openKeks at h
  have key : ∀ ds : List Nat, ∀ t, ds.foldr (fun d acc =>
      match kekBlob l d with
      | none => acc
      | some b => match s.openKek d b, acc with
        | .inl r, _ => .inl r
        | .inr _, .inl r => .inl r
        | .inr k, .inr t => .inr (Tab.put [] t d k)) (Sum.inr [] : Nat ⊕ Tab (List Byte)) = .inr t → Tab.wf [] t = true := by
    intro ds
    induction ds with
    | nil => intro t h; injection h with h; rw [← h]; rfl
    | cons d r ih =>
      intro t h
      rw [List.foldr_cons] at h
      generalize hacc : List.foldr _ _ r = acc at h ih
      cases hb : kekBlob l d with
      | none => simp only [hb] at h; exact ih t h
      | some b =>
        simp only [hb] at h
        cases hk : s.openKek d b with
        | inl x => simp [hk] at h
        | inr k =>
          cases acc with
          | inl x => simp [hk] at h
          | inr u =>
            simp only [hk, Sum.inr.injEq] at h
            rw [← h]
            exact Tab.wf_put _ _ _ _ (ih u rfl)
  exact key _ t h

theorem State.setKeks_kept {m : Nat} {b : State} (s : State) (t : Tab (List Byte)) (hs : b.kept m s) (ht : Tab.wf [] t = true)
    (hm : Foot.sub 0x40000000000000000000000000000000000000000000000000000000000008000000 m := by
      first | assumption | exact Foot.trans rfl (by assumption)) :
    b.kept m (s.setKeks t) := by
  unfold State.setKeks
  exact State.wr_kept _ _ _ _ _ _ (kept_keks_all t hs ht)

theorem State.commitImage_kept {m : Nat} {b : State} (s : State) (h : Nat) (a : Nat) (im : ImageCopy)
    (hs : b.kept m s) (hm : Foot.sub 0x1010888000000000000C000004B0 m := by
      first | assumption | exact Foot.bit (by assumption) rfl | exact Foot.trans rfl (by assumption)) :
    b.kept m (State.commitImage s h a im) := by
  unfold State.commitImage
  repeat' first
    | with_reducible assumption
    | with_reducible apply State.setArea_kept
    | with_reducible apply State.showNv_kept
    | with_reducible apply State.raise_kept
    | with_reducible apply State.finish_kept
    | with_reducible apply kept_ite
    | exact Foot.bit hm rfl
    | exact Foot.trans rfl hm
    | lift_lets
    | (intro x; clear_value x)
    | intro _
    | with_reducible apply kept_nv

theorem execNvCommit_keeps {m : Nat} {b : State} (h : Nat) (content : NvContent) (s : State) (hs : b.kept m s)
    (hm : Foot.sub 0x60000000000000000000000000000000000000001010888000000000000C08000CB0 m := by
      first | assumption | exact Foot.bit (by assumption) rfl | exact Foot.trans rfl (by assumption)) :
    b.keeps m (execNvCommit h content s) := by
  unfold execNvCommit
  refine nvCmd_keeps _ _ _ _ _ _ hs ?_
  intro c t ht
  lift_lets
  intro a done
  have hdone : ∀ u, b.kept m u → b.kept m (done u) := fun u hu => State.finish_kept _ _ _ _ _ _ hu
  clear_value done a
  have hsw : ∀ n, b.kept m (t.swapHalves n) := fun n => State.swapHalves_kept _ _ ht
  split
  · exact State.commitImage_kept _ _ _ _ ht
  · exact State.commitImage_kept _ _ _ _ ht
  · exact State.commitImage_kept _ _ _ _ ht
  · exact hdone _ (hsw _)
  · apply kept_ite <;> intro _
    · exact hdone _ (kept_nv _ (hsw 4))
    · exact State.finish_kept _ _ _ _ _ _ ht
  · apply kept_ite <;> intro _
    · exact State.finish_kept _ _ _ _ _ _ ht
    · split
      · exact State.finish_kept _ _ _ _ _ _ (State.raise_kept _ _ _ _ _ _ _ ht)
      · next e => exact hdone _ (State.setKeks_kept _ _ (hsw 5) (openKeks_wf _ _ _ e))
  · exact hdone _ (kept_nv _ (hsw 6))
  · exact State.finish_kept _ _ _ _ _ _ ht

theorem execOtpWrite_keeps {m : Nat} {b : State} (h : Nat) (s : State) (hs : b.kept m s)
    (hm : Foot.sub 0x1010888000000000000C00000CB0 m := by
      first | assumption | exact Foot.bit (by assumption) rfl | exact Foot.trans rfl (by assumption)) :
    b.keeps m (execOtpWrite h s) := by
  unfold execOtpWrite
  refine nvCmd_keeps _ _ _ _ _ _ hs ?_
  intro c t ht
  lift_lets
  intro nv set
  have hset : ∀ x, b.kept m (set x) := fun x => State.finish_kept _ _ _ _ _ _ (State.showNv_kept _ (kept_nv _ ht))
  have hf : ∀ x y, b.kept m (t.finish h x y [] []) := fun x y => State.finish_kept _ _ _ _ _ _ ht
  clear_value set nv
  split
  · exact kept_ite (fun _ => hset _) fun _ => hf _ _
  · exact kept_ite (fun _ => hset _) fun _ => hf _ _
  · exact kept_ite (fun _ => hset _) fun _ => kept_ite (fun _ => hset _) fun _ => hf _ _
  · exact hf _ _

theorem execNvStatus_keeps {m : Nat} {b : State} (h : Nat) (s : State) (hs : b.kept m s)
    (hm : Foot.sub 0x1010888000000000000C000008B0 m := by
      first | assumption | exact Foot.bit (by assumption) rfl | exact Foot.trans rfl (by assumption)) :
    b.keeps m (execNvStatus h s) := by
  unfold execNvStatus
  repeat' first
    | with_reducible assumption
    | with_reducible apply ospin_keeps
    | with_reducible apply State.finish_kept
    | exact Foot.trans rfl hm
    | intro _ x (hx : State.kept m b x)

theorem State.setInhibit_kept {m : Nat} {b : State} (s : State) (v : Bool) (hs : b.kept m s)
    (hm : Foot.sub 0x1010888000000000000C00000090 m := by
      first | assumption | exact Foot.bit (by assumption) rfl | exact Foot.trans rfl (by assumption)) :
    b.kept m (State.setInhibit s v) := by
  unfold State.setInhibit
  repeat' first
    | with_reducible assumption
    | with_reducible apply State.raise_kept
    | with_reducible apply State.wr_kept
    | with_reducible apply kept_ite
    | exact Foot.bit hm rfl
    | exact Foot.trans rfl hm
    | lift_lets
    | intro _

end Sys2Proof.Machine
end

