-- ==== Sys2Proof/Laws/KeptHalyard.lean ====
section
/-! SUPPORT. What every operation of Machine/Halyard.lean keeps: see Laws/Kept.lean. -/

-- The proofs of the whole text do not run side by side: their memory adds up.
set_option Elab.async false

namespace Sys2Proof.Machine

open Sys2Proof

theorem State.setHalRef_kept {m : Nat} {b : State} (s : State) (r : Nat) (x : HalRef) (hs : b.kept m s)
    (hm : Foot.sub 0x80000 m := by
      first | assumption | exact Foot.bit (by assumption) rfl | exact Foot.trans rfl (by assumption)) :
    b.kept m (State.setHalRef s r x) := by
  unfold State.setHalRef
  repeat' first
    | with_reducible assumption
    | exact Foot.bit hm rfl
    | lift_lets
    | (intro x; clear_value x)
    | with_reducible apply kept_halyard

theorem State.setSelRef_kept {m : Nat} {b : State} (s : State) (r : Nat) (hs : b.kept m s)
    (hm : Foot.sub 0x40400000000000888000000000000C00000090 m := by
      first | assumption | exact Foot.bit (by assumption) rfl | exact Foot.trans rfl (by assumption)) :
    b.kept m (State.setSelRef s r) := by
  unfold State.setSelRef
  repeat' first
    | with_reducible assumption
    | with_reducible apply State.raise_kept
    | with_reducible apply State.wr_kept
    | with_reducible apply kept_ite
    | exact Foot.bit hm rfl
    | exact Foot.trans rfl hm
    | lift_lets
    | intro _

theorem State.showMemory_kept {m : Nat} {b : State} (s : State) (hs : b.kept m s)
    (hm : Foot.sub 0x140000000000000000000000000000000000000 m := by
      first | assumption | exact Foot.bit (by assumption) rfl | exact Foot.trans rfl (by assumption)) :
    b.kept m (State.showMemory s) := by
  unfold State.showMemory
  repeat' first
    | with_reducible assumption
    | with_reducible apply State.wr_kept
    | with_reducible apply kept_ite
    | exact Foot.bit hm rfl
    | lift_lets
    | intro _

theorem State.setFreq_kept {m : Nat} {b : State} (s : State) (f : Int) (hs : b.kept m s)
    (hm : Foot.sub 0x100000000000000000000000000000000000000 m := by
      first | assumption | exact Foot.bit (by assumption) rfl | exact Foot.trans rfl (by assumption)) :
    b.kept m (State.setFreq s f) := by
  unfold State.setFreq
  repeat' first
    | with_reducible assumption
    | with_reducible apply State.wr_kept
    | exact Foot.bit hm rfl

theorem State.showPin_kept {m : Nat} {b : State} (s : State) (hs : b.kept m s)
    (hm : Foot.sub 0x40000000000000000000000000000000000000 m := by
      first | assumption | exact Foot.bit (by assumption) rfl | exact Foot.trans rfl (by assumption)) :
    b.kept m (State.showPin s) := by
  unfold State.showPin
  repeat' first
    | with_reducible assumption
    | with_reducible apply State.wr_kept
    | exact Foot.bit hm rfl

theorem State.dpll_kept {m : Nat} {b : State} (s : State) (new : Nat) (hs : b.kept m s)
    (hm : Foot.sub 0x40400000000000888000000000000C00080090 m := by
      first | assumption | exact Foot.bit (by assumption) rfl | exact Foot.trans rfl (by assumption)) :
    b.kept m (State.dpll s new) := by
  unfold State.dpll
  repeat' first
    | with_reducible assumption
    | with_reducible apply State.showPin_kept
    | with_reducible apply State.wr_kept
    | with_reducible apply State.raise_kept
    | with_reducible apply kept_ite
    | with_reducible apply keeps_ite
    | with_reducible apply State.keeps_next
    | exact Foot.bit hm rfl
    | exact Foot.trans rfl hm
    | intro x (hx : State.kept m b x)
    | intro _ x (hx : State.kept m b x)
    | intro x _ (hx : State.kept m b x)
    | intro x _ (hx : State.kept m b x.1)
    | lift_lets
    | (intro x; refine kept_cut (m := m) (b := b) (x := x) ?_ ?_ <;> [skip; (clear_value x; intro hx)])
    | (intro x; clear_value x)
    | intro _
    | with_reducible apply kept_halyard

theorem State.holdover_kept {m : Nat} {b : State} (s : State) (hs : b.kept m s)
    (hm : Foot.sub 0x140400000000000888000000000000C00080090 m := by
      first | assumption | exact Foot.bit (by assumption) rfl | exact Foot.trans rfl (by assumption)) :
    b.kept m (State.holdover s) := by
  unfold State.holdover
  repeat' first
    | with_reducible assumption
    | with_reducible apply State.dpll_kept
    | with_reducible apply State.setFreq_kept
    | with_reducible apply kept_ite
    | exact Foot.trans rfl hm
    | lift_lets
    | intro _

theorem State.holdoverAgain_kept {m : Nat} {b : State} (s : State) (hs : b.kept m s)
    (hm : Foot.sub 0x40400000000000888000000000000C00080090 m := by
      first | assumption | exact Foot.bit (by assumption) rfl | exact Foot.trans rfl (by assumption)) :
    b.kept m (State.holdoverAgain s) := by
  unfold State.holdoverAgain
  repeat' first
    | with_reducible assumption
    | with_reducible apply State.dpll_kept
    | with_reducible apply State.showPin_kept
    | with_reducible apply kept_ite
    | with_reducible apply keeps_ite
    | with_reducible apply State.keeps_next
    | exact Foot.bit hm rfl
    | exact Foot.trans rfl hm
    | intro x (hx : State.kept m b x)
    | intro _ x (hx : State.kept m b x)
    | intro x _ (hx : State.kept m b x)
    | intro x _ (hx : State.kept m b x.1)
    | lift_lets
    | intro _

theorem State.refLost_kept {m : Nat} {b : State} (s : State) (hs : b.kept m s)
    (hm : Foot.sub 0x140400000000000888000000000000C00080090 m := by
      first | assumption | exact Foot.bit (by assumption) rfl | exact Foot.trans rfl (by assumption)) :
    b.kept m (State.refLost s) := by
  unfold State.refLost
  repeat' first
    | with_reducible assumption
    | with_reducible apply State.setSelRef_kept
    | with_reducible apply State.wr_kept
    | with_reducible apply State.holdover_kept
    | with_reducible apply kept_ite
    | exact Foot.bit hm rfl
    | exact Foot.trans rfl hm
    | lift_lets
    | intro _

theorem State.refAvail_kept {m : Nat} {b : State} (s : State) (r : Nat) (hs : b.kept m s)
    (hm : Foot.sub 0x80400000000000888000000000000C00080090 m := by
      first | assumption | exact Foot.bit (by assumption) rfl | exact Foot.trans rfl (by assumption)) :
    b.kept m (State.refAvail s r) := by
  unfold State.refAvail
  repeat' first
    | with_reducible assumption
    | with_reducible apply State.raise_kept
    | with_reducible apply State.wr_kept
    | with_reducible apply State.setHalRef_kept
    | exact Foot.bit hm rfl
    | exact Foot.trans rfl hm

theorem State.refFail_kept {m : Nat} {b : State} (s : State) (r : Nat) (hs : b.kept m s)
    (hm : Foot.sub 0x1C0400000000000888000000000000C00080090 m := by
      first | assumption | exact Foot.bit (by assumption) rfl | exact Foot.trans rfl (by assumption)) :
    b.kept m (State.refFail s r) := by
  unfold State.refFail
  repeat' first
    | with_reducible assumption
    | with_reducible apply State.raise_kept
    | with_reducible apply State.wr_kept
    | with_reducible apply State.setHalRef_kept
    | with_reducible apply State.refLost_kept
    | with_reducible apply kept_ite
    | exact Foot.bit hm rfl
    | exact Foot.trans rfl hm
    | lift_lets
    | intro _

theorem State.refEval_kept {m : Nat} {b : State} (s : State) (r : Nat) (hs : b.kept m s)
    (hm : Foot.sub 0x1C0400000000000888000000000000C00080090 m := by
      first | assumption | exact Foot.bit (by assumption) rfl | exact Foot.trans rfl (by assumption)) :
    b.kept m (State.refEval s r) := by
  unfold State.refEval
  repeat' first
    | with_reducible assumption
    | with_reducible apply State.wr_kept
    | with_reducible apply State.refFail_kept
    | with_reducible apply State.refAvail_kept
    | with_reducible apply kept_ite
    | exact Foot.bit hm rfl
    | exact Foot.trans rfl hm
    | lift_lets
    | (intro x; clear_value x)
    | intro _

theorem execRefActivityLoss_keeps {m : Nat} {b : State} (r : Ref) (s : State) (hs : b.kept m s)
    (hm : Foot.sub 0x1C0400000000000888000000000000C00080090 m := by
      first | assumption | exact Foot.bit (by assumption) rfl | exact Foot.trans rfl (by assumption)) :
    b.keeps m (execRefActivityLoss r s) := by
  unfold execRefActivityLoss
  repeat' first
    | with_reducible assumption
    | with_reducible apply act_keeps
    | with_reducible apply State.refEval_kept
    | with_reducible apply State.wr_kept
    | exact Foot.bit hm rfl
    | intro x (hx : State.kept m b x)

theorem execRefActivityReturn_keeps {m : Nat} {b : State} (r : Ref) (s : State) (hs : b.kept m s)
    (hm : Foot.sub 0x1C0400000000000888000000000000C00080090 m := by
      first | assumption | exact Foot.bit (by assumption) rfl | exact Foot.trans rfl (by assumption)) :
    b.keeps m (execRefActivityReturn r s) := by
  unfold execRefActivityReturn
  repeat' first
    | with_reducible assumption
    | with_reducible apply act_keeps
    | with_reducible apply State.refEval_kept
    | with_reducible apply State.wr_kept
    | exact Foot.bit hm rfl
    | intro x (hx : State.kept m b x)

theorem State.monitorRef_kept {m : Nat} {b : State} (s : State) (r : Nat) (foff : Int) (hs : b.kept m s)
    (hm : Foot.sub 0x1C0400000000000888000000000000C00080090 m := by
      first | assumption | exact Foot.bit (by assumption) rfl | exact Foot.trans rfl (by assumption)) :
    b.kept m (State.monitorRef s r foff) := by
  unfold State.monitorRef
  repeat' first
    | with_reducible assumption
    | with_reducible apply State.wr_kept
    | with_reducible apply State.refEval_kept
    | with_reducible apply State.setHalRef_kept
    | exact Foot.bit hm rfl
    | exact Foot.trans rfl hm

theorem State.freqStep_kept {m : Nat} {b : State} (s : State) (measured : Int) (hs : b.kept m s)
    (hm : Foot.sub 0x100000000000000000000000000000000080000 m := by
      first | assumption | exact Foot.bit (by assumption) rfl | exact Foot.trans rfl (by assumption)) :
    b.kept m (State.freqStep s measured) := by
  unfold State.freqStep
  repeat' first
    | with_reducible assumption
    | with_reducible apply State.setFreq_kept
    | with_reducible apply kept_ite
    | exact Foot.bit hm rfl
    | exact Foot.trans rfl hm
    | lift_lets
    | (intro x; refine kept_cut (m := m) (b := b) (x := x) ?_ ?_ <;> [skip; (clear_value x; intro hx)])
    | (intro x; clear_value x)
    | intro _
    | with_reducible apply kept_halyard

theorem State.xoCheck_kept {m : Nat} {b : State} (s : State) (hs : b.kept m s)
    (hm : Foot.sub 0x40400000000000888000000000000C00000090 m := by
      first | assumption | exact Foot.bit (by assumption) rfl | exact Foot.trans rfl (by assumption)) :
    b.kept m (State.xoCheck s) := by
  unfold State.xoCheck
  repeat' first
    | with_reducible assumption
    | with_reducible apply State.raise_kept
    | with_reducible apply State.wr_kept
    | with_reducible apply kept_ite
    | exact Foot.bit hm rfl
    | exact Foot.trans rfl hm
    | lift_lets
    | intro _

theorem State.hoSample_kept {m : Nat} {b : State} (s : State) (hs : b.kept m s)
    (hm : Foot.sub 0x140000000000000000000000000000000080000 m := by
      first | assumption | exact Foot.bit (by assumption) rfl | exact Foot.trans rfl (by assumption)) :
    b.kept m (State.hoSample s) := by
  unfold State.hoSample
  repeat' first
    | with_reducible assumption
    | with_reducible apply State.showMemory_kept
    | with_reducible apply kept_ite
    | exact Foot.bit hm rfl
    | exact Foot.trans rfl hm
    | lift_lets
    | (intro x; clear_value x)
    | intro _
    | with_reducible apply kept_halyard

theorem execFreqMonitorUpdate_keeps {m : Nat} {b : State} (foffs : List Int) (freq : Int) (s : State)
    (hs : b.kept m s) (hm : Foot.sub 0x1C0400000000000888000000000000C00080090 m := by
      first | assumption | exact Foot.bit (by assumption) rfl | exact Foot.trans rfl (by assumption)) :
    b.keeps m (execFreqMonitorUpdate foffs freq s) := by
  unfold execFreqMonitorUpdate
  repeat' first
    | with_reducible assumption
    | with_reducible apply act_keeps
    | with_reducible apply State.monitorRef_kept
    | with_reducible apply State.hoSample_kept
    | with_reducible apply State.xoCheck_kept
    | with_reducible apply State.freqStep_kept
    | with_reducible apply kept_foldl
    | exact Foot.trans rfl hm
    | intro x (hx : State.kept m b x)
    | intro x _ (hx : State.kept m b x)

theorem State.todLoad_kept {m : Nat} {b : State} (s : State) (seconds : Nat) (hs : b.kept m s)
    (hm : Foot.sub 0x40400000000000888000000000000C10000094 m := by
      first | assumption | exact Foot.bit (by assumption) rfl | exact Foot.trans rfl (by assumption)) :
    b.kept m (State.todLoad s seconds) := by
  unfold State.todLoad
  repeat' first
    | with_reducible assumption
    | with_reducible apply State.each_kept
    | with_reducible apply State.markIntervals_kept
    | with_reducible apply State.raise_kept
    | with_reducible apply State.wr_kept
    | with_reducible apply kept_ite
    | with_reducible apply keeps_ite
    | with_reducible apply State.keeps_next
    | exact Foot.bit hm rfl
    | exact Foot.trans rfl hm
    | intro x (hx : State.kept m b x)
    | intro _ x (hx : State.kept m b x)
    | intro x _ (hx : State.kept m b x)
    | intro x _ (hx : State.kept m b x.1)
    | lift_lets
    | intro _
    | with_reducible apply kept_tod

theorem execPpsInPulse_keeps {m : Nat} {b : State} (interval : Nat) (s : State) (hs : b.kept m s)
    (hm : Foot.sub 0x1C0400000000000888000000000000C10080094 m := by
      first | assumption | exact Foot.bit (by assumption) rfl | exact Foot.trans rfl (by assumption)) :
    b.keeps m (execPpsInPulse interval s) := by
  unfold execPpsInPulse
  refine act_keeps _ _ _ hs ?_
  intro t ht
  lift_lets
  intro tol inside x good bad rejected u
  have hu : b.kept m u := State.refEval_kept _ _ (State.setHalRef_kept _ _ _ ht)
  clear_value u
  split
  · exact State.todLoad_kept _ _ (kept_halyard _ hu)
  · exact hu

theorem execRefWtrExpiry_keeps {m : Nat} {b : State} (r : Ref) (s : State) (hs : b.kept m s)
    (hm : Foot.sub 0x80400000000000888000000000000C00080090 m := by
      first | assumption | exact Foot.bit (by assumption) rfl | exact Foot.trans rfl (by assumption)) :
    b.keeps m (execRefWtrExpiry r s) := by
  unfold execRefWtrExpiry
  repeat' first
    | with_reducible assumption
    | with_reducible apply act_keeps
    | with_reducible apply State.refAvail_kept
    | with_reducible apply State.wr_kept
    | with_reducible apply kept_ite
    | exact Foot.bit hm rfl
    | intro x (hx : State.kept m b x)
    | lift_lets
    | intro _

theorem State.markGroup_kept {m : Nat} {b : State} (s : State) (g : List Nat) (st : Nat) (hs : b.kept m s)
    (hm : Foot.sub 0x80400000000000888000000000000C00080090 m := by
      first | assumption | exact Foot.bit (by assumption) rfl | exact Foot.trans rfl (by assumption)) :
    b.kept m (State.markGroup s g st) := by
  unfold State.markGroup
  repeat' first
    | with_reducible assumption
    | with_reducible apply State.each_kept
    | with_reducible apply State.refAvail_kept
    | with_reducible apply State.wr_kept
    | with_reducible apply kept_ite
    | exact Foot.bit hm rfl
    | intro _ x (hx : State.kept m b x)
    | lift_lets
    | intro _

theorem State.disputeRank_kept {m : Nat} {b : State} (s : State) (means : Nat → Int) (rank : Nat) (hs : b.kept m s)
    (hm : Foot.sub 0x80400000000000888000000000000C00080090 m := by
      first | assumption | exact Foot.bit (by assumption) rfl | exact Foot.trans rfl (by assumption)) :
    b.kept m (State.disputeRank s means rank) := by
  unfold State.disputeRank
  generalize List.find? _ _ = o
  obtain _ | ⟨_, m⟩ := o
  · exact kept_ite (fun _ => State.raise_kept _ _ _ _ _ _ _ (State.markGroup_kept _ _ _ (kept_halyard _ hs))) fun _ => hs
  · exact kept_ite (fun _ => State.markGroup_kept _ _ _ (kept_halyard _ hs)) fun _ => State.markGroup_kept _ _ _ (kept_halyard _ hs)

theorem State.startSwitch_kept {m : Nat} {b : State} (s : State) (r : Nat) (hs : b.kept m s)
    (hm : Foot.sub 0x40400000000000888000000000000C00080090 m := by
      first | assumption | exact Foot.bit (by assumption) rfl | exact Foot.trans rfl (by assumption)) :
    b.kept m (State.startSwitch s r) := by
  unfold State.startSwitch
  repeat' first
    | with_reducible assumption
    | with_reducible apply State.wr_kept
    | with_reducible apply State.setSelRef_kept
    | with_reducible apply State.dpll_kept
    | with_reducible apply kept_ite
    | exact Foot.bit hm rfl
    | exact Foot.trans rfl hm
    | lift_lets
    | intro _

theorem State.select_kept {m : Nat} {b : State} (s : State) (hs : b.kept m s)
    (hm : Foot.sub 0x140400000000000888000000000000C00080090 m := by
      first | assumption | exact Foot.bit (by assumption) rfl | exact Foot.trans rfl (by assumption)) :
    b.kept m (State.select s) := by
  unfold State.select
  lift_lets
  intro sel el keep block t w u
  have ht : b.kept m t := by
    show b.kept m (if _ then _ else _)
    exact kept_ite (fun _ => State.raise_kept _ _ _ _ _ _ _ hs) fun _ => hs
  have hu : b.kept m u := kept_halyard _ ht
  clear_value u
  repeat' first
    | with_reducible assumption
    | with_reducible apply State.setSelRef_kept
    | with_reducible apply State.holdover_kept
    | with_reducible apply State.dpll_kept
    | with_reducible apply State.setFreq_kept
    | with_reducible apply State.startSwitch_kept
    | with_reducible apply kept_ite
    | with_reducible apply keeps_ite
    | with_reducible apply State.keeps_next
    | exact Foot.bit (by assumption) rfl
    | exact Foot.trans rfl (by assumption)
    | intro x (hx : State.kept m b x)
    | intro _ x (hx : State.kept m b x)
    | intro x _ (hx : State.kept m b x)
    | intro x _ (hx : State.kept m b x.1)
    | lift_lets
    | (intro x; refine kept_cut (m := m) (b := b) (x := x) ?_ ?_ <;> [skip; (clear_value x; intro hx)])
    | (intro x; clear_value x)
    | intro _
    | exact kept_pair (by assumption) (by assumption)
    | refine kept_pair (by assumption) ?_
    | split

theorem State.applyMode_kept {m : Nat} {b : State} (s : State) (hs : b.kept m s)
    (hm : Foot.sub 0x140400000000000888000000000000C00080090 m := by
      first | assumption | exact Foot.bit (by assumption) rfl | exact Foot.trans rfl (by assumption)) :
    b.kept m (State.applyMode s) := by
  unfold State.applyMode
  apply kept_ite <;> intro _
  · exact hs
  · lift_lets
    intro w u
    have hu : b.kept m u := kept_halyard _ hs
    clear_value u
    split
    · exact State.holdoverAgain_kept _ hu
    · exact State.holdover_kept _ (State.setSelRef_kept _ _ hu)
    · exact State.dpll_kept _ _ (State.setSelRef_kept _ _ hu)
    · exact State.dpll_kept _ _ (State.setSelRef_kept _ _ hu)

theorem execSelectionBoundary_keeps {m : Nat} {b : State} (means : List Int) (s : State) (hs : b.kept m s)
    (hm : Foot.sub 0x1C0400000000000888000000000000C00080090 m := by
      first | assumption | exact Foot.bit (by assumption) rfl | exact Foot.trans rfl (by assumption)) :
    b.keeps m (execSelectionBoundary means s) := by
  unfold execSelectionBoundary
  repeat' first
    | with_reducible assumption
    | with_reducible apply act_keeps
    | with_reducible apply State.applyMode_kept
    | with_reducible apply State.each_kept
    | with_reducible apply State.disputeRank_kept
    | with_reducible apply State.select_kept
    | with_reducible apply kept_ite
    | exact Foot.trans rfl hm
    | intro x (hx : State.kept m b x)
    | intro _ x (hx : State.kept m b x)
    | lift_lets
    | intro _

theorem execBuildOutDone_keeps {m : Nat} {b : State} (s : State) (hs : b.kept m s)
    (hm : Foot.sub 0x40000000000000000000000000000000000000 m := by
      first | assumption | exact Foot.bit (by assumption) rfl | exact Foot.trans rfl (by assumption)) :
    b.keeps m (execBuildOutDone s) := by
  unfold execBuildOutDone
  repeat' first
    | with_reducible assumption
    | with_reducible apply act_keeps
    | with_reducible apply State.wr_kept
    | exact Foot.bit hm rfl
    | intro x (hx : State.kept m b x)

theorem execDpllLocked_keeps {m : Nat} {b : State} (s : State) (hs : b.kept m s)
    (hm : Foot.sub 0x40400000000000888000000000000C00080090 m := by
      first | assumption | exact Foot.bit (by assumption) rfl | exact Foot.trans rfl (by assumption)) :
    b.keeps m (execDpllLocked s) := by
  unfold execDpllLocked
  repeat' first
    | with_reducible assumption
    | with_reducible apply act_keeps
    | with_reducible apply State.xoCheck_kept
    | with_reducible apply State.dpll_kept
    | with_reducible apply kept_ite
    | exact Foot.trans rfl hm
    | intro x (hx : State.kept m b x)
    | lift_lets
    | intro _

theorem execHoldoverDegrade_keeps {m : Nat} {b : State} (s : State) (hs : b.kept m s)
    (hm : Foot.sub 0x40400000000000888000000000000C00080090 m := by
      first | assumption | exact Foot.bit (by assumption) rfl | exact Foot.trans rfl (by assumption)) :
    b.keeps m (execHoldoverDegrade s) := by
  unfold execHoldoverDegrade
  repeat' first
    | with_reducible assumption
    | with_reducible apply act_keeps
    | with_reducible apply State.dpll_kept
    | with_reducible apply kept_ite
    | with_reducible apply keeps_ite
    | with_reducible apply State.keeps_next
    | exact Foot.bit hm rfl
    | exact Foot.trans rfl hm
    | intro x (hx : State.kept m b x)
    | intro _ x (hx : State.kept m b x)
    | intro x _ (hx : State.kept m b x)
    | intro x _ (hx : State.kept m b x.1)
    | lift_lets
    | intro _

theorem execDisputeEnd_keeps {m : Nat} {b : State} (rank : Nat) (s : State) (hs : b.kept m s)
    (hm : Foot.sub 0x80400000000000888000000000000C00080090 m := by
      first | assumption | exact Foot.bit (by assumption) rfl | exact Foot.trans rfl (by assumption)) :
    b.keeps m (execDisputeEnd rank s) := by
  unfold execDisputeEnd
  repeat' first
    | with_reducible assumption
    | with_reducible apply act_keeps
    | with_reducible apply State.markGroup_kept
    | with_reducible apply kept_ite
    | exact Foot.bit hm rfl
    | intro x (hx : State.kept m b x)
    | lift_lets
    | (intro x; clear_value x)
    | intro _
    | with_reducible apply kept_halyard

theorem State.hlydWrite_kept {m : Nat} {b : State} (s : State) (req : Requester) (id : RegId) (new : Nat)
    (f : State → State) (hs : b.kept m s) (hf : ∀ y0, b.kept m y0 → b.kept m (f y0))
    (hm : Foot.sub 0x200000001010888000000000000C00000890 m := by
      first | assumption | exact Foot.bit (by assumption) rfl | exact Foot.trans rfl (by assumption)) :
    b.kept m (State.hlydWrite s req id new f) := by
  unfold State.hlydWrite
  repeat' first
    | with_reducible assumption
    | with_reducible apply State.writeOr_kept
    | exact Foot.trans rfl hm

theorem State.setDpllCtl_kept {m : Nat} {b : State} (s : State) (v : Nat) (hs : b.kept m s)
    (hm : Foot.sub 0x2000000000000000000000000000000000000 m := by
      first | assumption | exact Foot.bit (by assumption) rfl | exact Foot.trans rfl (by assumption)) :
    b.kept m (State.setDpllCtl s v) := by
  unfold State.setDpllCtl
  repeat' first
    | with_reducible assumption
    | with_reducible apply State.setReg_kept
    | exact Foot.bit hm rfl

theorem State.dpllCtlWrite_kept {m : Nat} {b : State} (s : State) (req : Requester) (v : Nat) (hs : b.kept m s)
    (hm : Foot.sub 0x2200000001010888000000000000C00000890 m := by
      first | assumption | exact Foot.bit (by assumption) rfl | exact Foot.trans rfl (by assumption)) :
    b.kept m (State.dpllCtlWrite s req v) := by
  unfold State.dpllCtlWrite
  repeat' first
    | with_reducible assumption
    | with_reducible apply State.hlydWrite_kept
    | with_reducible apply State.setDpllCtl_kept
    | exact Foot.trans rfl hm
    | intro x (hx : State.kept m b x)

theorem State.modeWrite_kept {m : Nat} {b : State} (s : State) (req : Requester) (a2 : Nat) (hs : b.kept m s)
    (hm : Foot.sub 0x2200000001010888000000000000C00000890 m := by
      first | assumption | exact Foot.bit (by assumption) rfl | exact Foot.trans rfl (by assumption)) :
    b.kept m (State.modeWrite s req a2) := by
  unfold State.modeWrite
  repeat' first
    | with_reducible assumption
    | with_reducible apply State.dpllCtlWrite_kept

theorem execModeAutomatic_keeps {m : Nat} {b : State} (req : Requester) (s : State) (hs : b.kept m s)
    (hm : Foot.sub 0x2200000001010888000000000000C00000892 m := by
      first | assumption | exact Foot.bit (by assumption) rfl | exact Foot.trans rfl (by assumption)) :
    b.keeps m (execModeAutomatic req s) := by
  unfold execModeAutomatic
  repeat' first
    | with_reducible assumption
    | with_reducible apply access_keeps
    | with_reducible apply State.modeWrite_kept
    | exact Foot.trans rfl hm
    | intro x (hx : State.kept m b x)

theorem execForcedHoldover_keeps {m : Nat} {b : State} (req : Requester) (s : State) (hs : b.kept m s)
    (hm : Foot.sub 0x2200000001010888000000000000C00000892 m := by
      first | assumption | exact Foot.bit (by assumption) rfl | exact Foot.trans rfl (by assumption)) :
    b.keeps m (execForcedHoldover req s) := by
  unfold execForcedHoldover
  repeat' first
    | with_reducible assumption
    | with_reducible apply access_keeps
    | with_reducible apply State.modeWrite_kept
    | exact Foot.trans rfl hm
    | intro x (hx : State.kept m b x)

theorem execForcedFreeRun_keeps {m : Nat} {b : State} (req : Requester) (s : State) (hs : b.kept m s)
    (hm : Foot.sub 0x2200000001010888000000000000C00000892 m := by
      first | assumption | exact Foot.bit (by assumption) rfl | exact Foot.trans rfl (by assumption)) :
    b.keeps m (execForcedFreeRun req s) := by
  unfold execForcedFreeRun
  repeat' first
    | with_reducible assumption
    | with_reducible apply access_keeps
    | with_reducible apply State.modeWrite_kept
    | exact Foot.trans rfl hm
    | intro x (hx : State.kept m b x)

theorem execSoftwareLoop_keeps {m : Nat} {b : State} (req : Requester) (s : State) (hs : b.kept m s)
    (hm : Foot.sub 0x2200000001010888000000000000C00000892 m := by
      first | assumption | exact Foot.bit (by assumption) rfl | exact Foot.trans rfl (by assumption)) :
    b.keeps m (execSoftwareLoop req s) := by
  unfold execSoftwareLoop
  repeat' first
    | with_reducible assumption
    | with_reducible apply access_keeps
    | with_reducible apply State.modeWrite_kept
    | exact Foot.trans rfl hm
    | intro x (hx : State.kept m b x)

theorem execFfoWrite_keeps {m : Nat} {b : State} (req : Requester) (ffo : BitVec 32) (s : State) (hs : b.kept m s)
    (hm : Foot.sub 0x2200000001010888000000000000C00000892 m := by
      first | assumption | exact Foot.bit (by assumption) rfl | exact Foot.trans rfl (by assumption)) :
    b.keeps m (execFfoWrite req ffo s) := by
  unfold execFfoWrite
  repeat' first
    | with_reducible assumption
    | with_reducible apply access_keeps
    | with_reducible apply State.dpllCtlWrite_kept
    | exact Foot.trans rfl hm
    | intro x (hx : State.kept m b x)

theorem State.stepGo_kept {m : Nat} {b : State} (s : State) (hs : b.kept m s)
    (hm : Foot.sub 0x10400000000000888000000000000C00080090 m := by
      first | assumption | exact Foot.bit (by assumption) rfl | exact Foot.trans rfl (by assumption)) :
    b.kept m (State.stepGo s) := by
  unfold State.stepGo
  repeat' first
    | with_reducible assumption
    | with_reducible apply State.inc_kept
    | with_reducible apply State.raise_kept
    | with_reducible apply State.wr_kept
    | with_reducible apply kept_ite
    | with_reducible apply keeps_ite
    | with_reducible apply State.keeps_next
    | exact Foot.bit hm rfl
    | exact Foot.trans rfl hm
    | intro x (hx : State.kept m b x)
    | intro _ x (hx : State.kept m b x)
    | intro x _ (hx : State.kept m b x)
    | intro x _ (hx : State.kept m b x.1)
    | lift_lets
    | (intro x; clear_value x)
    | intro _
    | with_reducible apply kept_halyard

theorem State.setPstep_kept {m : Nat} {b : State} (s : State) (v : Nat) (hs : b.kept m s)
    (hm : Foot.sub 0x10400000000000888000000000000C00080090 m := by
      first | assumption | exact Foot.bit (by assumption) rfl | exact Foot.trans rfl (by assumption)) :
    b.kept m (State.setPstep s v) := by
  unfold State.setPstep
  repeat' first
    | with_reducible assumption
    | with_reducible apply State.wr_kept
    | with_reducible apply State.stepGo_kept
    | with_reducible apply kept_ite
    | exact Foot.bit hm rfl
    | lift_lets
    | intro _

theorem State.pstepWrite_kept {m : Nat} {b : State} (s : State) (req : Requester) (v : Nat) (hs : b.kept m s)
    (hm : Foot.sub 0x10600000001010888000000000000C00080890 m := by
      first | assumption | exact Foot.bit (by assumption) rfl | exact Foot.trans rfl (by assumption)) :
    b.kept m (State.pstepWrite s req v) := by
  unfold State.pstepWrite
  repeat' first
    | with_reducible assumption
    | with_reducible apply State.hlydWrite_kept
    | with_reducible apply State.setPstep_kept
    | exact Foot.trans rfl hm
    | intro x (hx : State.kept m b x)

theorem execPhaseStepGo_keeps {m : Nat} {b : State} (req : Requester) (slewed : Bool) (slew : Nat)
    (amount : BitVec 40) (s : State) (hs : b.kept m s) (hm : Foot.sub 0x10600000001010888000000000000C00080892 m := by
      first | assumption | exact Foot.bit (by assumption) rfl | exact Foot.trans rfl (by assumption))
    :
    b.keeps m (execPhaseStepGo req slewed slew amount s) := by
  unfold execPhaseStepGo
  repeat' first
    | with_reducible assumption
    | with_reducible apply access_keeps
    | with_reducible apply State.pstepWrite_kept
    | exact Foot.trans rfl hm
    | intro x (hx : State.kept m b x)

theorem execPhaseStepDone_keeps {m : Nat} {b : State} (s : State) (hs : b.kept m s)
    (hm : Foot.sub 0x10400000000000888000000000000C00080090 m := by
      first | assumption | exact Foot.bit (by assumption) rfl | exact Foot.trans rfl (by assumption)) :
    b.keeps m (execPhaseStepDone s) := by
  unfold execPhaseStepDone
  repeat' first
    | with_reducible assumption
    | with_reducible apply act_keeps
    | with_reducible apply State.raise_kept
    | with_reducible apply State.wr_kept
    | with_reducible apply kept_ite
    | with_reducible apply keeps_ite
    | with_reducible apply State.keeps_next
    | exact Foot.bit hm rfl
    | exact Foot.trans rfl hm
    | intro x (hx : State.kept m b x)
    | intro _ x (hx : State.kept m b x)
    | intro x _ (hx : State.kept m b x)
    | intro x _ (hx : State.kept m b x.1)
    | lift_lets
    | (intro x; clear_value x)
    | intro _
    | with_reducible apply kept_halyard

theorem State.todSnap_kept {m : Nat} {b : State} (s : State) (hs : b.kept m s)
    (hm : Foot.sub 0x600000000000000000000000000000400000000 m := by
      first | assumption | exact Foot.bit (by assumption) rfl | exact Foot.trans rfl (by assumption)) :
    b.kept m (State.todSnap s) := by
  unfold State.todSnap
  repeat' first
    | with_reducible assumption
    | with_reducible apply State.draw_kept
    | with_reducible apply State.wr_kept
    | exact Foot.bit hm rfl
    | exact Foot.trans rfl hm

theorem State.setTodSet_kept {m : Nat} {b : State} (s : State) (v : Nat) (hs : b.kept m s)
    (hm : Foot.sub 0x620000000000000000000000000000400000000 m := by
      first | assumption | exact Foot.bit (by assumption) rfl | exact Foot.trans rfl (by assumption)) :
    b.kept m (State.setTodSet s v) := by
  unfold State.setTodSet
  repeat' first
    | with_reducible assumption
    | with_reducible apply State.wr_kept
    | with_reducible apply State.todSnap_kept
    | with_reducible apply kept_ite
    | exact Foot.bit hm rfl
    | exact Foot.trans rfl hm
    | lift_lets
    | intro _

theorem State.todSetWrite_kept {m : Nat} {b : State} (s : State) (req : Requester) (v : Nat) (hs : b.kept m s)
    (hm : Foot.sub 0x620200000001010888000000000000C00000890 m := by
      first | assumption | exact Foot.bit (by assumption) rfl | exact Foot.trans rfl (by assumption)) :
    b.kept m (State.todSetWrite s req v) := by
  unfold State.todSetWrite
  repeat' first
    | with_reducible assumption
    | with_reducible apply State.hlydWrite_kept
    | with_reducible apply State.setTodSet_kept
    | exact Foot.trans rfl hm
    | intro x (hx : State.kept m b x)

theorem execTodArm_keeps {m : Nat} {b : State} (req : Requester) (seconds : BitVec 48) (s : State) (hs : b.kept m s)
    (hm : Foot.sub 0x620200000001010888000000000000C00000892 m := by
      first | assumption | exact Foot.bit (by assumption) rfl | exact Foot.trans rfl (by assumption)) :
    b.keeps m (execTodArm req seconds s) := by
  unfold execTodArm
  repeat' first
    | with_reducible assumption
    | with_reducible apply access_keeps
    | with_reducible apply State.todSetWrite_kept
    | exact Foot.trans rfl hm
    | intro x (hx : State.kept m b x)

theorem execTodSnap_keeps {m : Nat} {b : State} (req : Requester) (s : State) (hs : b.kept m s)
    (hm : Foot.sub 0x620200000001010888000000000000C00000892 m := by
      first | assumption | exact Foot.bit (by assumption) rfl | exact Foot.trans rfl (by assumption)) :
    b.keeps m (execTodSnap req s) := by
  unfold execTodSnap
  repeat' first
    | with_reducible assumption
    | with_reducible apply access_keeps
    | with_reducible apply State.todSetWrite_kept
    | exact Foot.trans rfl hm
    | intro x (hx : State.kept m b x)

theorem State.halyardSecond_kept {m : Nat} {b : State} (s : State) (hs : b.kept m s)
    (hm : Foot.sub 0xE0400000000000888000000000000C10000094 m := by
      first | assumption | exact Foot.bit (by assumption) rfl | exact Foot.trans rfl (by assumption)) :
    b.kept m (State.halyardSecond s) := by
  unfold State.halyardSecond
  repeat' first
    | with_reducible assumption
    | with_reducible apply State.todLoad_kept
    | with_reducible apply State.wr_kept
    | with_reducible apply State.emit_kept
    | with_reducible apply State.each_kept
    | with_reducible apply State.inc_kept
    | with_reducible apply kept_ite
    | exact Foot.bit hm rfl
    | exact Foot.trans rfl hm
    | intro _ x (hx : State.kept m b x)
    | lift_lets
    | intro _
    | with_reducible apply kept_tod

theorem execTodMessageReceived_keeps {m : Nat} {b : State} (a0 : List Byte) (inWindow : Bool) (s : State)
    (hs : b.kept m s) (hm : Foot.sub 0x40400000000000888000000000000C00080090 m := by
      first | assumption | exact Foot.bit (by assumption) rfl | exact Foot.trans rfl (by assumption)) :
    b.keeps m (execTodMessageReceived a0 inWindow s) := by
  unfold execTodMessageReceived
  repeat' first
    | with_reducible assumption
    | with_reducible apply act_keeps
    | with_reducible apply State.raise_kept
    | with_reducible apply State.inc_kept
    | with_reducible apply kept_ite
    | exact Foot.bit hm rfl
    | exact Foot.trans rfl hm
    | intro x (hx : State.kept m b x)
    | lift_lets
    | (intro x; refine kept_cut (m := m) (b := b) (x := x) ?_ ?_ <;> [skip; (clear_value x; intro hx)])
    | (intro x; clear_value x)
    | intro _
    | with_reducible apply kept_halyard

theorem afterHlyd_kept {m : Nat} {b : State} (old : State) (new : State) (hold : b.kept m old) (hnew : b.kept m new)
    (hm : Foot.sub 0x1C0400000000000888000000000000C00080090 m := by
      first | assumption | exact Foot.bit (by assumption) rfl | exact Foot.trans rfl (by assumption)) :
    b.kept m (afterHlyd old new) := by
  unfold afterHlyd
  repeat' first
    | with_reducible assumption
    | with_reducible apply State.holdoverAgain_kept
    | with_reducible apply State.showMemory_kept
    | with_reducible apply State.each_kept
    | with_reducible apply State.setHalRef_kept
    | with_reducible apply State.refEval_kept
    | with_reducible apply kept_ite
    | with_reducible apply keeps_ite
    | with_reducible apply State.keeps_next
    | exact Foot.bit hm rfl
    | exact Foot.trans rfl hm
    | intro x (hx : State.kept m b x)
    | intro _ x (hx : State.kept m b x)
    | intro x _ (hx : State.kept m b x)
    | intro x _ (hx : State.kept m b x.1)
    | lift_lets
    | (intro x; clear_value x)
    | intro _

end Sys2Proof.Machine
end

