-- ==== Sys2Proof/Laws/KeptTwine.lean ====
section
/-! SUPPORT. What every operation of Machine/Twine.lean keeps: see Laws/Kept.lean. -/

-- The proofs of the whole text do not run side by side: their memory adds up.
set_option Elab.async false

namespace Sys2Proof.Machine

open Sys2Proof

theorem State.setTw_kept {m : Nat} {b : State} (s : State) (l : Nat) (x : TwineInt) (hs : b.kept m s)
    (hm : Foot.sub 0x400000 m := by
      first | assumption | exact Foot.bit (by assumption) rfl | exact Foot.trans rfl (by assumption)) :
    b.kept m (State.setTw s l x) := by
  unfold State.setTw
  repeat' first
    | with_reducible assumption
    | exact Foot.bit hm rfl
    | with_reducible apply kept_twine'

theorem State.laneEvent_kept {m : Nat} {b : State} (s : State) (l : Nat) (f : Fld) (code : Nat) (hs : b.kept m s)
    (hm : Foot.sub 0x888000000000000C00000090 m := by
      first | assumption | exact Foot.bit (by assumption) rfl | exact Foot.trans rfl (by assumption)) (hmf : m.testBit (regBit f.id) = true := by
      first | assumption | exact Foot.bit (by assumption) rfl | exact Foot.trans rfl (by assumption)) :
    b.kept m (State.laneEvent s l f code) := by
  unfold State.laneEvent
  repeat' first
    | with_reducible assumption
    | with_reducible apply State.raise_kept

theorem State.laneChanged_kept {m : Nat} {b : State} (s : State) (l : Nat) (hs : b.kept m s)
    (hm : Foot.sub 0x60000000000000000000000000000000001C0400000000000888000000000000C00880090 m := by
      first | assumption | exact Foot.bit (by assumption) rfl | exact Foot.trans rfl (by assumption)) :
    b.kept m (State.laneChanged s l) := by
  unfold State.laneChanged
  repeat' first
    | with_reducible assumption
    | with_reducible apply State.each_kept
    | with_reducible apply State.emit_kept
    | with_reducible apply State.refreshIngress_kept
    | with_reducible apply State.refEval_kept
    | with_reducible apply kept_ite
    | with_reducible apply keeps_ite
    | with_reducible apply State.keeps_next
    | exact Foot.bit hm rfl
    | exact Foot.trans rfl hm
    | intro x (hx : State.kept m b x)
    | intro _ x (hx : State.kept m b x)
    | intro x _ (hx : State.kept m b x)
    | intro x _ (hx : State.kept m b x.1)
    | lift_lets
    | intro _

theorem State.endScan_kept {m : Nat} {b : State} (s : State) (l : Nat) (hs : b.kept m s)
    (hm : Foot.sub 0x2000000000000000000000000000000000000000000000000000000000000000000000000000 m := by
      first | assumption | exact Foot.bit (by assumption) rfl | exact Foot.trans rfl (by assumption)) :
    b.kept m (State.endScan s l) := by
  unfold State.endScan
  repeat' first
    | with_reducible assumption
    | with_reducible apply State.wr_kept
    | with_reducible apply kept_ite
    | exact Foot.bit hm rfl
    | lift_lets
    | intro _

theorem State.setLane_kept {m : Nat} {b : State} (s : State) (l : Nat) (st : Nat) (hs : b.kept m s)
    (hm : Foot.sub 0x60060000000000000000000000000000000001C0400000000000888000000000000C00880090 m := by
      first | assumption | exact Foot.bit (by assumption) rfl | exact Foot.trans rfl (by assumption)) :
    b.kept m (State.setLane s l st) := by
  unfold State.setLane
  repeat' first
    | with_reducible assumption
    | with_reducible apply State.wr_kept
    | with_reducible apply State.endScan_kept
    | with_reducible apply State.laneChanged_kept
    | with_reducible apply kept_ite
    | exact Foot.bit hm rfl
    | exact Foot.trans rfl hm
    | lift_lets
    | intro _

theorem State.untrained_kept {m : Nat} {b : State} (s : State) (l : Nat) (cause : Nat) (hs : b.kept m s)
    (hm : Foot.sub 0x160060000000000000000000000000000000001C0400000000000888000000000000C00880090 m := by
      first | assumption | exact Foot.bit (by assumption) rfl | exact Foot.trans rfl (by assumption)) :
    b.kept m (State.untrained s l cause) := by
  unfold State.untrained
  repeat' first
    | with_reducible assumption
    | with_reducible apply State.laneEvent_kept
    | with_reducible apply State.wr_kept
    | with_reducible apply State.setLane_kept
    | exact Foot.bit hm rfl
    | exact Foot.trans rfl hm

theorem State.startAttempt_kept {m : Nat} {b : State} (s : State) (l : Nat) (hs : b.kept m s)
    (hm : Foot.sub 0x360060000000000000000000000000000000001C0400000000000888000000000000C00C80090 m := by
      first | assumption | exact Foot.bit (by assumption) rfl | exact Foot.trans rfl (by assumption)) :
    b.kept m (State.startAttempt s l) := by
  unfold State.startAttempt
  repeat' first
    | with_reducible assumption
    | with_reducible apply State.setLane_kept
    | with_reducible apply State.setTw_kept
    | with_reducible apply State.count_kept
    | with_reducible apply State.inc_kept
    | with_reducible apply State.wr_kept
    | with_reducible apply State.untrained_kept
    | with_reducible apply kept_ite
    | exact Foot.bit hm rfl
    | exact Foot.trans rfl hm
    | lift_lets
    | (intro x; refine kept_cut (m := m) (b := b) (x := x) ?_ ?_ <;> [skip; (clear_value x; intro hx)])
    | (intro x; clear_value x)
    | intro _

theorem State.trained_kept {m : Nat} {b : State} (s : State) (l : Nat) (hs : b.kept m s)
    (hm : Foot.sub 0x148060000000000000000000000000000000001C0400000000000888000000000000C00C80090 m := by
      first | assumption | exact Foot.bit (by assumption) rfl | exact Foot.trans rfl (by assumption)) :
    b.kept m (State.trained s l) := by
  unfold State.trained
  repeat' first
    | with_reducible assumption
    | with_reducible apply State.setTw_kept
    | with_reducible apply State.setReg_kept
    | with_reducible apply State.wr_kept
    | with_reducible apply State.laneEvent_kept
    | with_reducible apply State.laneChanged_kept
    | exact Foot.bit hm rfl
    | exact Foot.trans rfl hm
    | lift_lets
    | (intro x; clear_value x)
    | split

theorem execLaneConverged_keeps {m : Nat} {b : State} (l : Lane) (snr : Nat) (s : State) (hs : b.kept m s)
    (hm : Foot.sub 0x148060000000000000000000000000000000001C0400000000000888000000000000C00C80090 m := by
      first | assumption | exact Foot.bit (by assumption) rfl | exact Foot.trans rfl (by assumption)) :
    b.keeps m (execLaneConverged l snr s) := by
  unfold execLaneConverged
  repeat' first
    | with_reducible assumption
    | with_reducible apply act_keeps
    | with_reducible apply State.wr_kept
    | with_reducible apply State.trained_kept
    | with_reducible apply kept_ite
    | with_reducible apply keeps_ite
    | with_reducible apply State.keeps_next
    | exact Foot.bit hm rfl
    | exact Foot.trans rfl hm
    | intro x (hx : State.kept m b x)
    | intro _ x (hx : State.kept m b x)
    | intro x _ (hx : State.kept m b x)
    | intro x _ (hx : State.kept m b x.1)
    | lift_lets
    | (intro x; refine kept_cut (m := m) (b := b) (x := x) ?_ ?_ <;> [skip; (clear_value x; intro hx)])
    | intro _

theorem execTrainingComplete_keeps {m : Nat} {b : State} (l : Lane) (s : State) (hs : b.kept m s)
    (hm : Foot.sub 0x148060000000000000000000000000000000001C0400000000000888000000000000C00C80090 m := by
      first | assumption | exact Foot.bit (by assumption) rfl | exact Foot.trans rfl (by assumption)) :
    b.keeps m (execTrainingComplete l s) := by
  unfold execTrainingComplete
  repeat' first
    | with_reducible assumption
    | with_reducible apply act_keeps
    | with_reducible apply State.trained_kept
    | with_reducible apply State.wr_kept
    | with_reducible apply kept_ite
    | exact Foot.bit hm rfl
    | intro x (hx : State.kept m b x)
    | lift_lets
    | intro _

theorem execTrainingTimerExpiry_keeps {m : Nat} {b : State} (l : Lane) (fault : Bool) (s : State) (hs : b.kept m s)
    (hm : Foot.sub 0x160060000000000000000000000000000000001C0400000000000888000000000000C00880090 m := by
      first | assumption | exact Foot.bit (by assumption) rfl | exact Foot.trans rfl (by assumption)) :
    b.keeps m (execTrainingTimerExpiry l fault s) := by
  unfold execTrainingTimerExpiry
  repeat' first
    | with_reducible assumption
    | with_reducible apply act_keeps
    | with_reducible apply State.untrained_kept
    | with_reducible apply kept_ite
    | with_reducible apply keeps_ite
    | with_reducible apply State.keeps_next
    | exact Foot.bit hm rfl
    | exact Foot.trans rfl hm
    | intro x (hx : State.kept m b x)
    | intro _ x (hx : State.kept m b x)
    | intro x _ (hx : State.kept m b x)
    | intro x _ (hx : State.kept m b x.1)
    | lift_lets
    | intro _

theorem execUntrainedRetry_keeps {m : Nat} {b : State} (l : Lane) (s : State) (hs : b.kept m s)
    (hm : Foot.sub 0x360060000000000000000000000000000000001C0400000000000888000000000000C00C80090 m := by
      first | assumption | exact Foot.bit (by assumption) rfl | exact Foot.trans rfl (by assumption)) :
    b.keeps m (execUntrainedRetry l s) := by
  unfold execUntrainedRetry
  repeat' first
    | with_reducible assumption
    | with_reducible apply act_keeps
    | with_reducible apply State.startAttempt_kept
    | with_reducible apply kept_ite
    | with_reducible apply keeps_ite
    | with_reducible apply State.keeps_next
    | exact Foot.bit hm rfl
    | exact Foot.trans rfl hm
    | intro x (hx : State.kept m b x)
    | intro _ x (hx : State.kept m b x)
    | intro x _ (hx : State.kept m b x)
    | intro x _ (hx : State.kept m b x.1)
    | lift_lets
    | intro _

theorem execLaneLos_keeps {m : Nat} {b : State} (l : Lane) (s : State) (hs : b.kept m s)
    (hm : Foot.sub 0x360060000000000000000000000000000000001C0400000000000888000000000000C00C80090 m := by
      first | assumption | exact Foot.bit (by assumption) rfl | exact Foot.trans rfl (by assumption)) :
    b.keeps m (execLaneLos l s) := by
  unfold execLaneLos
  repeat' first
    | with_reducible assumption
    | with_reducible apply act_keeps
    | with_reducible apply State.laneEvent_kept
    | with_reducible apply State.wr_kept
    | with_reducible apply State.startAttempt_kept
    | with_reducible apply State.laneChanged_kept
    | with_reducible apply kept_ite
    | exact Foot.bit hm rfl
    | exact Foot.trans rfl hm
    | intro x (hx : State.kept m b x)
    | lift_lets
    | (intro x; refine kept_cut (m := m) (b := b) (x := x) ?_ ?_ <;> [skip; (clear_value x; intro hx)])
    | intro _

theorem execLaneLosClear_keeps {m : Nat} {b : State} (l : Lane) (s : State) (hs : b.kept m s)
    (hm : Foot.sub 0x40060000000000000000000000000000000001C0400000000000888000000000000C00880090 m := by
      first | assumption | exact Foot.bit (by assumption) rfl | exact Foot.trans rfl (by assumption)) :
    b.keeps m (execLaneLosClear l s) := by
  unfold execLaneLosClear
  repeat' first
    | with_reducible assumption
    | with_reducible apply act_keeps
    | with_reducible apply State.laneChanged_kept
    | with_reducible apply State.wr_kept
    | with_reducible apply kept_ite
    | exact Foot.bit hm rfl
    | exact Foot.trans rfl hm
    | intro x (hx : State.kept m b x)
    | lift_lets
    | intro _

theorem execCdrLoss_keeps {m : Nat} {b : State} (l : Lane) (s : State) (hs : b.kept m s)
    (hm : Foot.sub 0x360060000000000000000000000000000000001C0400000000000888000000000000C00C80090 m := by
      first | assumption | exact Foot.bit (by assumption) rfl | exact Foot.trans rfl (by assumption)) :
    b.keeps m (execCdrLoss l s) := by
  unfold execCdrLoss
  repeat' first
    | with_reducible assumption
    | with_reducible apply act_keeps
    | with_reducible apply State.wr_kept
    | with_reducible apply State.startAttempt_kept
    | with_reducible apply kept_ite
    | exact Foot.bit hm rfl
    | intro x (hx : State.kept m b x)
    | lift_lets
    | intro _

theorem execCoeffRequest_keeps {m : Nat} {b : State} (l : Lane) (t : Fin 5) (delta : Int) (s : State)
    (hs : b.kept m s) (hm : Foot.sub 0x800400000 m := by
      first | assumption | exact Foot.bit (by assumption) rfl | exact Foot.trans rfl (by assumption)) :
    b.keeps m (execCoeffRequest l t delta s) := by
  unfold execCoeffRequest
  repeat' first
    | with_reducible assumption
    | with_reducible apply act_keeps
    | with_reducible apply State.emit_kept
    | with_reducible apply State.setTw_kept
    | with_reducible apply kept_ite
    | exact Foot.trans rfl hm
    | intro x (hx : State.kept m b x)
    | lift_lets
    | (intro x; clear_value x)
    | intro _

theorem State.txffeWrite_kept {m : Nat} {b : State} (s : State) (req : Requester) (l : Nat) (v : Nat)
    (hs : b.kept m s)
    (hm : Foot.sub 0x800000000000000000000000000000000000000000000001010888000000000000C00400890 m := by
      first | assumption | exact Foot.bit (by assumption) rfl | exact Foot.trans rfl (by assumption)) :
    b.kept m (State.txffeWrite s req l v) := by
  unfold State.txffeWrite
  repeat' first
    | with_reducible assumption
    | with_reducible apply State.runWrite_kept
    | with_reducible apply State.setTw_kept
    | with_reducible apply State.setReg_kept
    | exact Foot.bit hm rfl
    | exact Foot.trans rfl hm
    | intro x (hx : State.kept m b x)

theorem execTxffeWrite_keeps {m : Nat} {b : State} (req : Requester) (l : Lane) (v : BitVec 32) (s : State)
    (hs : b.kept m s)
    (hm : Foot.sub 0x800000000000000000000000000000000000000000000001010888000000000000C00400892 m := by
      first | assumption | exact Foot.bit (by assumption) rfl | exact Foot.trans rfl (by assumption)) :
    b.keeps m (execTxffeWrite req l v s) := by
  unfold execTxffeWrite
  repeat' first
    | with_reducible assumption
    | with_reducible apply access_keeps
    | with_reducible apply State.txffeWrite_kept
    | exact Foot.trans rfl hm
    | intro x (hx : State.kept m b x)

theorem State.startScan_kept {m : Nat} {b : State} (s : State) (l : Nat) (auto : Bool) (hs : b.kept m s)
    (hm : Foot.sub 0x2000000000000000000000000000000000000000000000000000000000000000000000400000 m := by
      first | assumption | exact Foot.bit (by assumption) rfl | exact Foot.trans rfl (by assumption)) :
    b.kept m (State.startScan s l auto) := by
  unfold State.startScan
  repeat' first
    | with_reducible assumption
    | with_reducible apply State.wr_kept
    | with_reducible apply State.setTw_kept
    | with_reducible apply kept_ite
    | exact Foot.bit hm rfl
    | exact Foot.trans rfl hm
    | lift_lets
    | (intro x; clear_value x)
    | intro _

theorem execScanReq_keeps {m : Nat} {b : State} (req : Requester) (l : Lane) (s : State) (hs : b.kept m s)
    (hm : Foot.sub 0x2000000000000000000000000000000000000000000000001010888000000000000C00400892 m := by
      first | assumption | exact Foot.bit (by assumption) rfl | exact Foot.trans rfl (by assumption)) :
    b.keeps m (execScanReq req l s) := by
  unfold execScanReq
  repeat' first
    | with_reducible assumption
    | with_reducible apply access_keeps
    | with_reducible apply State.runWrite_kept
    | with_reducible apply State.startScan_kept
    | exact Foot.trans rfl hm
    | intro x (hx : State.kept m b x)

theorem execMarginScanAuto_keeps {m : Nat} {b : State} (l : Lane) (s : State) (hs : b.kept m s)
    (hm : Foot.sub 0x2000000000000000000000000000000000000000000000000000000000000000000000400000 m := by
      first | assumption | exact Foot.bit (by assumption) rfl | exact Foot.trans rfl (by assumption)) :
    b.keeps m (execMarginScanAuto l s) := by
  unfold execMarginScanAuto
  repeat' first
    | with_reducible assumption
    | with_reducible apply act_keeps
    | with_reducible apply State.startScan_kept
    | with_reducible apply kept_ite
    | intro x (hx : State.kept m b x)
    | lift_lets
    | intro _

theorem State.ageLog_kept {m : Nat} {b : State} (s : State) (kind : Nat) (unit : Nat) (old : Nat) (new : Nat)
    (basis : Nat) (flags : Nat) (hs : b.kept m s)
    (hm : Foot.sub 0x20080000000000000000000000000000000000080000000 m := by
      first | assumption | exact Foot.bit (by assumption) rfl | exact Foot.trans rfl (by assumption)) :
    b.kept m (State.ageLog s kind unit old new basis flags) := by
  unfold State.ageLog
  repeat' first
    | with_reducible assumption
    | with_reducible apply State.setReg_kept
    | with_reducible apply State.wr_kept
    | exact Foot.bit hm rfl
    | lift_lets
    | (intro x; clear_value x)
    | with_reducible apply kept_age

theorem State.laneMargin_kept {m : Nat} {b : State} (s : State) (mate : Bool) (l : Nat) (height : Nat) (width : Nat)
    (old : Nat) (hs : b.kept m s) (hm : Foot.sub 0x200A0000000000000000000888000000000000C80000090 m := by
      first | assumption | exact Foot.bit (by assumption) rfl | exact Foot.trans rfl (by assumption)) :
    b.kept m (State.laneMargin s mate l height width old) := by
  unfold State.laneMargin
  repeat' first
    | with_reducible assumption
    | with_reducible apply State.ageLog_kept
    | with_reducible apply State.raise_kept
    | with_reducible apply kept_ite
    | exact Foot.bit hm rfl
    | exact Foot.trans rfl hm
    | lift_lets
    | (intro x; clear_value x)
    | intro _
    | with_reducible apply kept_age

theorem execScanDone_keeps {m : Nat} {b : State} (l : Lane) (sweeps : List (List Nat)) (s : State) (hs : b.kept m s)
    (hm : Foot.sub 0x1A0000000000000000000000000000200A0000000000000000000888000000000000C80400090 m := by
      first | assumption | exact Foot.bit (by assumption) rfl | exact Foot.trans rfl (by assumption)) :
    b.keeps m (execScanDone l sweeps s) := by
  unfold execScanDone
  repeat' first
    | with_reducible assumption
    | with_reducible apply act_keeps
    | with_reducible apply State.setReg_kept
    | with_reducible apply State.wr_kept
    | with_reducible apply State.laneEvent_kept
    | with_reducible apply State.laneMargin_kept
    | with_reducible apply State.setTw_kept
    | with_reducible apply kept_ite
    | with_reducible apply keeps_ite
    | with_reducible apply State.keeps_next
    | exact Foot.bit hm rfl
    | exact Foot.trans rfl hm
    | intro x (hx : State.kept m b x)
    | intro _ x (hx : State.kept m b x)
    | intro x _ (hx : State.kept m b x)
    | intro x _ (hx : State.kept m b x.1)
    | lift_lets
    | (intro x; refine kept_cut (m := m) (b := b) (x := x) ?_ ?_ <;> [skip; (clear_value x; intro hx)])
    | (intro x; clear_value x)
    | intro _

theorem execLoopbackSlip_keeps {m : Nat} {b : State} (l : Lane) (s : State) (hs : b.kept m s)
    (hm : Foot.sub 0x30000000000000000000000000000000000000000000000000000888000000000000C00400090 m := by
      first | assumption | exact Foot.bit (by assumption) rfl | exact Foot.trans rfl (by assumption)) :
    b.keeps m (execLoopbackSlip l s) := by
  unfold execLoopbackSlip
  repeat' first
    | with_reducible assumption
    | with_reducible apply act_keeps
    | with_reducible apply State.count_kept
    | with_reducible apply State.laneEvent_kept
    | with_reducible apply State.setTw_kept
    | with_reducible apply kept_ite
    | exact Foot.bit hm rfl
    | exact Foot.trans rfl hm
    | intro x (hx : State.kept m b x)
    | lift_lets
    | (intro x; refine kept_cut (m := m) (b := b) (x := x) ?_ ?_ <;> [skip; (clear_value x; intro hx)])
    | (intro x; clear_value x)
    | intro _

theorem State.twineSecond_kept {m : Nat} {b : State} (s : State) (hs : b.kept m s) (hm : Foot.sub 0x400000 m := by
      first | assumption | exact Foot.bit (by assumption) rfl | exact Foot.trans rfl (by assumption)) :
    b.kept m (State.twineSecond s) := by
  unfold State.twineSecond
  repeat' first
    | with_reducible assumption
    | with_reducible apply State.each_kept
    | with_reducible apply State.setTw_kept
    | intro _ x (hx : State.kept m b x)

theorem State.rateChecked_kept {m : Nat} {b : State} (s : State) (old : State) (l : Nat) (hs : b.kept m s)
    (hold : b.kept m old)
    (hm : Foot.sub 0x360060000000000000000000000000000000001C0400000000000888000000000000C00C80090 m := by
      first | assumption | exact Foot.bit (by assumption) rfl | exact Foot.trans rfl (by assumption)) :
    b.kept m (State.rateChecked s old l) := by
  unfold State.rateChecked
  repeat' first
    | with_reducible assumption
    | with_reducible apply State.startAttempt_kept
    | with_reducible apply State.untrained_kept
    | with_reducible apply kept_ite
    | with_reducible apply keeps_ite
    | with_reducible apply State.keeps_next
    | exact Foot.bit hm rfl
    | exact Foot.trans rfl hm
    | intro x (hx : State.kept m b x)
    | intro _ x (hx : State.kept m b x)
    | intro x _ (hx : State.kept m b x)
    | intro x _ (hx : State.kept m b x.1)
    | lift_lets
    | intro _

theorem afterTwine_kept {m : Nat} {b : State} (old : State) (new : State) (hold : b.kept m old) (hnew : b.kept m new)
    (hm : Foot.sub 0x360060000000000000000000000000000000001C0400000000000888000000000000C00C80090 m := by
      first | assumption | exact Foot.bit (by assumption) rfl | exact Foot.trans rfl (by assumption)) :
    b.kept m (afterTwine old new) := by
  unfold afterTwine
  repeat' first
    | with_reducible assumption
    | with_reducible apply State.each_kept
    | with_reducible apply State.emit_kept
    | with_reducible apply State.rateChecked_kept
    | with_reducible apply State.startAttempt_kept
    | with_reducible apply kept_ite
    | with_reducible apply keeps_ite
    | with_reducible apply State.keeps_next
    | exact Foot.bit hm rfl
    | exact Foot.trans rfl hm
    | intro x (hx : State.kept m b x)
    | intro _ x (hx : State.kept m b x)
    | intro x _ (hx : State.kept m b x)
    | intro x _ (hx : State.kept m b x.1)
    | lift_lets
    | (intro x; refine kept_cut (m := m) (b := b) (x := x) ?_ ?_ <;> [skip; (clear_value x; intro hx)])
    | intro _

end Sys2Proof.Machine
end

