-- ==== Sys2Proof/Laws/KeptSplice.lean ====
section
/-! SUPPORT. What every operation of Machine/Splice.lean keeps: see Laws/Kept.lean. -/

-- The proofs of the whole text do not run side by side: their memory adds up.
set_option Elab.async false

namespace Sys2Proof.Machine

open Sys2Proof

theorem State.setSpl_kept {m : Nat} {b : State} (s : State) (n : Nat) (x : SpliceInt) (hs : b.kept m s)
    (hm : Foot.sub 0x40000 m := by
      first | assumption | exact Foot.bit (by assumption) rfl | exact Foot.trans rfl (by assumption)) :
    b.kept m (State.setSpl s n x) := by
  unfold State.setSpl
  repeat' first
    | with_reducible assumption
    | exact Foot.bit hm rfl
    | with_reducible apply kept_splice'

theorem State.splEvent_kept {m : Nat} {b : State} (s : State) (n : Nat) (f : Fld) (code : Nat) (hs : b.kept m s)
    (hm : Foot.sub 0x888000000000000C00000090 m := by
      first | assumption | exact Foot.bit (by assumption) rfl | exact Foot.trans rfl (by assumption)) (hmf : m.testBit (regBit f.id) = true := by
      first | assumption | exact Foot.bit (by assumption) rfl | exact Foot.trans rfl (by assumption)) :
    b.kept m (State.splEvent s n f code) := by
  unfold State.splEvent
  repeat' first
    | with_reducible assumption
    | with_reducible apply State.raise_kept

theorem State.subEvent_kept {m : Nat} {b : State} (s : State) (n : Nat) (slot : Nat) (f : Fld) (code : Nat)
    (hs : b.kept m s) (hm : Foot.sub 0x888000000000000C00000090 m := by
      first | assumption | exact Foot.bit (by assumption) rfl | exact Foot.trans rfl (by assumption)) (hmf : m.testBit (regBit f.id) = true := by
      first | assumption | exact Foot.bit (by assumption) rfl | exact Foot.trans rfl (by assumption)) :
    b.kept m (State.subEvent s n slot f code) := by
  unfold State.subEvent
  repeat' first
    | with_reducible assumption
    | with_reducible apply State.raise_kept

theorem State.disarm_kept {m : Nat} {b : State} (s : State) (n : Nat) (hs : b.kept m s)
    (hm : Foot.sub 0x2000000000000000000000000000000000000000000000000040000 m := by
      first | assumption | exact Foot.bit (by assumption) rfl | exact Foot.trans rfl (by assumption)) :
    b.kept m (State.disarm s n) := by
  unfold State.disarm
  repeat' first
    | with_reducible assumption
    | with_reducible apply State.wr_kept
    | with_reducible apply State.setSpl_kept
    | exact Foot.bit hm rfl
    | exact Foot.trans rfl hm

theorem State.setRx_kept {m : Nat} {b : State} (s : State) (n : Nat) (id : Nat) (table : List (Nat × Nat × Nat))
    (hs : b.kept m s)
    (hm : Foot.sub 0xE032100001000000002000000000000000000000000000000888080000000000C06842090 m := by
      first | assumption | exact Foot.bit (by assumption) rfl | exact Foot.trans rfl (by assumption)) :
    b.kept m (State.setRx s n id table) := by
  unfold State.setRx
  repeat' first
    | with_reducible assumption
    | with_reducible apply State.wr_kept
    | with_reducible apply State.setSpl_kept
    | with_reducible apply State.lineConsequences_kept
    | with_reducible apply kept_ite
    | with_reducible apply keeps_ite
    | with_reducible apply State.keeps_next
    | exact Foot.bit hm rfl
    | exact Foot.trans rfl hm

theorem State.startRx_kept {m : Nat} {b : State} (s : State) (n : Nat) (hs : b.kept m s)
    (hm : Foot.sub 0xE032100001000000002000000000000000000000000000000888080000000000C06842090 m := by
      first | assumption | exact Foot.bit (by assumption) rfl | exact Foot.trans rfl (by assumption)) :
    b.kept m (State.startRx s n) := by
  unfold State.startRx
  repeat' first
    | with_reducible assumption
    | with_reducible apply State.disarm_kept
    | with_reducible apply State.setRx_kept
    | exact Foot.trans rfl hm

theorem State.spliceUpdate_kept {m : Nat} {b : State} (s : State) (n : Nat) (v : Nat) (hs : b.kept m s)
    (hm : Foot.sub 0x2000000000000000000000000000000000000000000000000040000 m := by
      first | assumption | exact Foot.bit (by assumption) rfl | exact Foot.trans rfl (by assumption)) :
    b.kept m (State.spliceUpdate s n v) := by
  unfold State.spliceUpdate
  lift_lets
  intro st id count entries crc x table arm
  have harm : ∀ t tab k, b.kept m t → b.kept m (arm t tab k) := by
    intro t tab k ht
    exact State.wr_kept _ _ _ _ _ _ (State.wr_kept _ _ _ _ _ _ (State.setSpl_kept _ _ _ ht))
  clear_value arm
  intro t w u y
  have ht : b.kept m t := State.disarm_kept _ _ hs
  have hu : b.kept m u := kept_ite (fun _ => harm _ _ _ hs) fun _ => hs
  clear_value st
  rcases st with _ | _ | _ | st
  · exact hs
  · exact kept_ite (fun _ => hs) fun _ => kept_ite (fun _ => harm _ _ _ hs) fun _ => State.setSpl_kept _ _ _ ht
  · exact kept_ite (fun _ => hs) fun _ => kept_ite (fun _ => State.setSpl_kept _ _ _ hu) fun _ => hu
  · exact hs

theorem execRxTableSwitch_keeps {m : Nat} {b : State} (n : Line) (s : State) (hs : b.kept m s)
    (hm : Foot.sub 0xE032100001000000012000040000000000000000000000000888080000000000C06842090 m := by
      first | assumption | exact Foot.bit (by assumption) rfl | exact Foot.trans rfl (by assumption)) :
    b.keeps m (execRxTableSwitch n s) := by
  unfold execRxTableSwitch
  repeat' first
    | with_reducible assumption
    | with_reducible apply act_keeps
    | with_reducible apply State.endFallback_kept
    | with_reducible apply State.splEvent_kept
    | with_reducible apply State.disarm_kept
    | with_reducible apply State.setRx_kept
    | with_reducible apply kept_ite
    | exact Foot.bit hm rfl
    | exact Foot.trans rfl hm
    | intro x (hx : State.kept m b x)
    | lift_lets
    | intro _

theorem execRxFallback_keeps {m : Nat} {b : State} (n : Line) (s : State) (hs : b.kept m s)
    (hm : Foot.sub 0xE032100001000000002000040000000000000000000000000888080000000000C06842090 m := by
      first | assumption | exact Foot.bit (by assumption) rfl | exact Foot.trans rfl (by assumption)) :
    b.keeps m (execRxFallback n s) := by
  unfold execRxFallback
  repeat' first
    | with_reducible assumption
    | with_reducible apply act_keeps
    | with_reducible apply State.wr_kept
    | with_reducible apply State.setRx_kept
    | with_reducible apply kept_ite
    | exact Foot.bit hm rfl
    | exact Foot.trans rfl hm
    | intro x (hx : State.kept m b x)
    | lift_lets
    | intro _

theorem State.dropEstimates_kept {m : Nat} {b : State} (s : State) (n : Nat) (hs : b.kept m s)
    (hm : Foot.sub 0x1CC000000000000000000000000000000000000000000000000040000 m := by
      first | assumption | exact Foot.bit (by assumption) rfl | exact Foot.trans rfl (by assumption)) :
    b.kept m (State.dropEstimates s n) := by
  unfold State.dropEstimates
  repeat' first
    | with_reducible assumption
    | with_reducible apply State.setSpl_kept
    | with_reducible apply State.setReg_kept
    | with_reducible apply State.wr_kept
    | with_reducible apply State.each_kept
    | with_reducible apply kept_ite
    | with_reducible apply keeps_ite
    | with_reducible apply State.keeps_next
    | exact Foot.bit hm rfl
    | exact Foot.trans rfl hm
    | intro x (hx : State.kept m b x)
    | intro _ x (hx : State.kept m b x)

theorem State.leaveTo_kept {m : Nat} {b : State} (s : State) (n : Nat) (st : Nat) (hs : b.kept m s)
    (hm : Foot.sub 0x1CE0000000000000001C0400000000000888000000000000C000C0090 m := by
      first | assumption | exact Foot.bit (by assumption) rfl | exact Foot.trans rfl (by assumption)) :
    b.kept m (State.leaveTo s n st) := by
  unfold State.leaveTo
  repeat' first
    | with_reducible assumption
    | with_reducible apply State.wr_kept
    | with_reducible apply State.setSpl_kept
    | with_reducible apply State.refEval_kept
    | with_reducible apply State.dropEstimates_kept
    | with_reducible apply kept_ite
    | with_reducible apply keeps_ite
    | with_reducible apply State.keeps_next
    | exact Foot.bit hm rfl
    | exact Foot.trans rfl hm
    | intro x (hx : State.kept m b x)
    | intro _ x (hx : State.kept m b x)
    | intro x _ (hx : State.kept m b x)
    | intro x _ (hx : State.kept m b x.1)
    | lift_lets
    | (intro x; clear_value x)
    | intro _

theorem State.waitSignal_kept {m : Nat} {b : State} (s : State) (n : Nat) (hs : b.kept m s)
    (hm : Foot.sub 0x1CE0000000000000001C0400000000000888000000000000C000C0090 m := by
      first | assumption | exact Foot.bit (by assumption) rfl | exact Foot.trans rfl (by assumption)) :
    b.kept m (State.waitSignal s n) := by
  unfold State.waitSignal
  repeat' first
    | with_reducible assumption
    | with_reducible apply State.leaveTo_kept

theorem State.lineRestart_kept {m : Nat} {b : State} (s : State) (n : Nat) (hs : b.kept m s)
    (hm : Foot.sub 0x8000000000000000000000000000000000000000000000000000000 m := by
      first | assumption | exact Foot.bit (by assumption) rfl | exact Foot.trans rfl (by assumption)) :
    b.kept m (State.lineRestart s n) := by
  unfold State.lineRestart
  repeat' first
    | with_reducible assumption
    | with_reducible apply State.inc_kept
    | exact Foot.bit hm rfl

theorem State.coldStart_kept {m : Nat} {b : State} (s : State) (n : Nat) (hs : b.kept m s)
    (hm : Foot.sub 0x1DE0000000000000001C0400000000000888000000000000C000C0090 m := by
      first | assumption | exact Foot.bit (by assumption) rfl | exact Foot.trans rfl (by assumption)) :
    b.kept m (State.coldStart s n) := by
  unfold State.coldStart
  repeat' first
    | with_reducible assumption
    | with_reducible apply State.waitSignal_kept
    | with_reducible apply State.lineRestart_kept
    | with_reducible apply State.splEvent_kept
    | exact Foot.bit hm rfl
    | exact Foot.trans rfl hm

theorem State.freeze_kept {m : Nat} {b : State} (s : State) (n : Nat) (hs : b.kept m s)
    (hm : Foot.sub 0x1CE0000000000000001C0400000000000888000000000000C000C0090 m := by
      first | assumption | exact Foot.bit (by assumption) rfl | exact Foot.trans rfl (by assumption)) :
    b.kept m (State.freeze s n) := by
  unfold State.freeze
  repeat' first
    | with_reducible assumption
    | with_reducible apply State.leaveTo_kept

theorem State.warmRestart_kept {m : Nat} {b : State} (s : State) (n : Nat) (hs : b.kept m s)
    (hm : Foot.sub 0x1CE0000000000000001C0400000000000888000000000000C000C0090 m := by
      first | assumption | exact Foot.bit (by assumption) rfl | exact Foot.trans rfl (by assumption)) :
    b.kept m (State.warmRestart s n) := by
  unfold State.warmRestart
  repeat' first
    | with_reducible assumption
    | with_reducible apply State.leaveTo_kept
    | with_reducible apply State.setSpl_kept
    | with_reducible apply kept_ite
    | with_reducible apply keeps_ite
    | with_reducible apply State.keeps_next
    | exact Foot.bit hm rfl
    | exact Foot.trans rfl hm

theorem State.reachTracking_kept {m : Nat} {b : State} (s : State) (n : Nat) (hs : b.kept m s)
    (hm : Foot.sub 0x60001DE0000000000000001C0400000000000888000000000000C002C0090 m := by
      first | assumption | exact Foot.bit (by assumption) rfl | exact Foot.trans rfl (by assumption)) :
    b.kept m (State.reachTracking s n) := by
  unfold State.reachTracking
  repeat' first
    | with_reducible assumption
    | with_reducible apply State.splEvent_kept
    | with_reducible apply State.wr_kept
    | with_reducible apply State.setSpl_kept
    | with_reducible apply State.each_kept
    | with_reducible apply State.lockReturns_kept
    | with_reducible apply State.refEval_kept
    | with_reducible apply State.freeze_kept
    | with_reducible apply kept_ite
    | with_reducible apply keeps_ite
    | with_reducible apply State.keeps_next
    | exact Foot.bit hm rfl
    | exact Foot.trans rfl hm
    | intro x (hx : State.kept m b x)
    | intro _ x (hx : State.kept m b x)
    | intro x _ (hx : State.kept m b x)
    | intro x _ (hx : State.kept m b x.1)
    | lift_lets
    | (intro x; clear_value x)
    | intro _

theorem execFreqSearchDone_keeps {m : Nat} {b : State} (n : Line) (s : State) (hs : b.kept m s)
    (hm : Foot.sub 0x2000000000000000000000000000000000000000000000000000000 m := by
      first | assumption | exact Foot.bit (by assumption) rfl | exact Foot.trans rfl (by assumption)) :
    b.keeps m (execFreqSearchDone n s) := by
  unfold execFreqSearchDone
  repeat' first
    | with_reducible assumption
    | with_reducible apply act_keeps
    | with_reducible apply State.wr_kept
    | with_reducible apply kept_ite
    | with_reducible apply keeps_ite
    | with_reducible apply State.keeps_next
    | exact Foot.bit hm rfl
    | exact Foot.trans rfl hm
    | intro x (hx : State.kept m b x)
    | intro _ x (hx : State.kept m b x)
    | intro x _ (hx : State.kept m b x)
    | intro x _ (hx : State.kept m b x.1)
    | lift_lets
    | intro _

theorem execCdSearchDone_keeps {m : Nat} {b : State} (n : Line) (s : State) (hs : b.kept m s)
    (hm : Foot.sub 0x2000000000000000000000000000000000000000000000000000000 m := by
      first | assumption | exact Foot.bit (by assumption) rfl | exact Foot.trans rfl (by assumption)) :
    b.keeps m (execCdSearchDone n s) := by
  unfold execCdSearchDone
  repeat' first
    | with_reducible assumption
    | with_reducible apply act_keeps
    | with_reducible apply State.wr_kept
    | with_reducible apply kept_ite
    | exact Foot.bit hm rfl
    | intro x (hx : State.kept m b x)
    | lift_lets
    | intro _

theorem execTimingDone_keeps {m : Nat} {b : State} (n : Line) (s : State) (hs : b.kept m s)
    (hm : Foot.sub 0x2000000000000000000000000000000000000000000000000000000 m := by
      first | assumption | exact Foot.bit (by assumption) rfl | exact Foot.trans rfl (by assumption)) :
    b.keeps m (execTimingDone n s) := by
  unfold execTimingDone
  repeat' first
    | with_reducible assumption
    | with_reducible apply act_keeps
    | with_reducible apply State.wr_kept
    | with_reducible apply kept_ite
    | exact Foot.bit hm rfl
    | intro x (hx : State.kept m b x)
    | lift_lets
    | intro _

theorem execBlindConvergeDone_keeps {m : Nat} {b : State} (n : Line) (sub : Option Slot) (s : State) (hs : b.kept m s)
    (hm : Foot.sub 0x2000000000000000000000000000000000000000000000000040000 m := by
      first | assumption | exact Foot.bit (by assumption) rfl | exact Foot.trans rfl (by assumption)) :
    b.keeps m (execBlindConvergeDone n sub s) := by
  unfold execBlindConvergeDone
  repeat' first
    | with_reducible assumption
    | with_reducible apply act_keeps
    | with_reducible apply State.wr_kept
    | with_reducible apply State.setSpl_kept
    | with_reducible apply kept_ite
    | exact Foot.bit hm rfl
    | exact Foot.trans rfl hm
    | intro x (hx : State.kept m b x)
    | lift_lets
    | (intro x; clear_value x)
    | intro _
    | split

theorem execPilotLockDone_keeps {m : Nat} {b : State} (n : Line) (sub : Option Slot) (s : State) (hs : b.kept m s)
    (hm : Foot.sub 0x60001DE0000000000000001C0400000000000888000000000000C002C0090 m := by
      first | assumption | exact Foot.bit (by assumption) rfl | exact Foot.trans rfl (by assumption)) :
    b.keeps m (execPilotLockDone n sub s) := by
  unfold execPilotLockDone
  repeat' first
    | with_reducible assumption
    | with_reducible apply act_keeps
    | with_reducible apply State.reachTracking_kept
    | with_reducible apply State.lockReturns_kept
    | with_reducible apply State.wr_kept
    | with_reducible apply State.setSpl_kept
    | with_reducible apply kept_ite
    | with_reducible apply keeps_ite
    | with_reducible apply State.keeps_next
    | exact Foot.bit hm rfl
    | exact Foot.trans rfl hm
    | intro x (hx : State.kept m b x)
    | intro _ x (hx : State.kept m b x)
    | intro x _ (hx : State.kept m b x)
    | intro x _ (hx : State.kept m b x.1)
    | lift_lets
    | (intro x; clear_value x)
    | intro _
    | refine kept_pair (by assumption) ?_
    | split

theorem State.subRestart_kept {m : Nat} {b : State} (s : State) (n : Nat) (slot : Nat) (hs : b.kept m s)
    (hm : Foot.sub 0xD0000000000000000000000000000000888000000000000C00040090 m := by
      first | assumption | exact Foot.bit (by assumption) rfl | exact Foot.trans rfl (by assumption)) :
    b.kept m (State.subRestart s n slot) := by
  unfold State.subRestart
  repeat' first
    | with_reducible assumption
    | with_reducible apply State.subEvent_kept
    | with_reducible apply State.inc_kept
    | with_reducible apply State.wr_kept
    | with_reducible apply State.setSpl_kept
    | exact Foot.bit hm rfl
    | exact Foot.trans rfl hm

theorem execAcqBoundExpiry_keeps {m : Nat} {b : State} (n : Line) (sub : Option Slot) (s : State) (hs : b.kept m s)
    (hm : Foot.sub 0x1DE0000000000000001C0400000000000888000000000000C000C0090 m := by
      first | assumption | exact Foot.bit (by assumption) rfl | exact Foot.trans rfl (by assumption)) :
    b.keeps m (execAcqBoundExpiry n sub s) := by
  unfold execAcqBoundExpiry
  refine act_keeps _ _ _ hs ?_
  intro t ht
  cases sub with
  | some f => repeat' first
                | with_reducible assumption
                | with_reducible apply State.subRestart_kept
                | with_reducible apply kept_ite
                | with_reducible apply keeps_ite
                | with_reducible apply State.keeps_next
                | exact Foot.bit (by assumption) rfl
                | exact Foot.trans rfl (by assumption)
                | intro x (hx : State.kept m b x)
                | intro _ x (hx : State.kept m b x)
                | intro x _ (hx : State.kept m b x)
                | intro x _ (hx : State.kept m b x.1)
                | lift_lets
                | (intro x; refine kept_cut (m := m) (b := b) (x := x) ?_ ?_ <;> [skip; (clear_value x; intro hx)])
                | (intro x; clear_value x)
                | intro _
                | exact kept_pair (by assumption) (by assumption)
                | refine kept_pair (by assumption) ?_
                | split
  | none =>
    apply kept_ite <;> intro _
    · exact ht
    · apply kept_ite <;> intro _
      · exact State.coldStart_kept _ _ ht
      · apply State.waitSignal_kept <;> try first | exact Foot.trans rfl hm | exact Foot.bit hm rfl
        apply State.lineRestart_kept <;> try first | exact Foot.trans rfl hm | exact Foot.bit hm rfl
        split <;> first | exact State.splEvent_kept _ _ _ _ ht | exact ht

theorem State.losRise_kept {m : Nat} {b : State} (s : State) (n : Nat) (hs : b.kept m s)
    (hm : Foot.sub 0xE03210000E0000001DE0000000000000001C0400000000000888080000000000C168C2090 m := by
      first | assumption | exact Foot.bit (by assumption) rfl | exact Foot.trans rfl (by assumption)) :
    b.kept m (State.losRise s n) := by
  unfold State.losRise
  repeat' first
    | with_reducible assumption
    | with_reducible apply State.setDefect_kept
    | with_reducible apply State.splEvent_kept
    | with_reducible apply State.wr_kept
    | with_reducible apply State.freeze_kept
    | with_reducible apply State.leaveTo_kept
    | with_reducible apply State.lineRestart_kept
    | with_reducible apply kept_ite
    | with_reducible apply keeps_ite
    | with_reducible apply State.keeps_next
    | exact Foot.bit hm rfl
    | exact Foot.trans rfl hm
    | intro x (hx : State.kept m b x)
    | intro _ x (hx : State.kept m b x)
    | intro x _ (hx : State.kept m b x)
    | intro x _ (hx : State.kept m b x.1)
    | lift_lets
    | intro _

theorem State.losFall_kept {m : Nat} {b : State} (s : State) (n : Nat) (hs : b.kept m s)
    (hm : Foot.sub 0xE03210000E0000001CE0000000000000001C0400000000000888080000000000C168C2090 m := by
      first | assumption | exact Foot.bit (by assumption) rfl | exact Foot.trans rfl (by assumption)) :
    b.kept m (State.losFall s n) := by
  unfold State.losFall
  repeat' first
    | with_reducible assumption
    | with_reducible apply State.setDefect_kept
    | with_reducible apply State.wr_kept
    | with_reducible apply State.leaveTo_kept
    | with_reducible apply State.warmRestart_kept
    | with_reducible apply kept_ite
    | exact Foot.bit hm rfl
    | exact Foot.trans rfl hm
    | lift_lets
    | (intro x; refine kept_cut (m := m) (b := b) (x := x) ?_ ?_ <;> [skip; (clear_value x; intro hx)])
    | intro _
    | split

theorem execRawLosWindow_keeps {m : Nat} {b : State} (n : Line) (power : Nat) (pin : Bool) (s : State)
    (hs : b.kept m s)
    (hm : Foot.sub 0xE03210000E0000001DE0000000000000001C0400000000000888080000000000C168C2098 m := by
      first | assumption | exact Foot.bit (by assumption) rfl | exact Foot.trans rfl (by assumption)) :
    b.keeps m (execRawLosWindow n power pin s) := by
  unfold execRawLosWindow
  refine act_keeps _ _ _ hs ?_
  intro t ht
  lift_lets
  intro w u
  have hk : b.kept m u := State.wr_kept _ _ _ _ _ _ (kept_pins _ ht)
  clear_value u
  repeat' first
    | with_reducible assumption
    | with_reducible apply State.losFall_kept
    | with_reducible apply State.losRise_kept
    | with_reducible apply kept_ite
    | with_reducible apply keeps_ite
    | with_reducible apply State.keeps_next
    | exact Foot.bit (by assumption) rfl
    | exact Foot.trans rfl (by assumption)
    | intro x (hx : State.kept m b x)
    | intro _ x (hx : State.kept m b x)
    | intro x _ (hx : State.kept m b x)
    | intro x _ (hx : State.kept m b x.1)
    | lift_lets
    | (intro x; refine kept_cut (m := m) (b := b) (x := x) ?_ ?_ <;> [skip; (clear_value x; intro hx)])
    | (intro x; clear_value x)
    | intro _
    | exact kept_pair (by assumption) (by assumption)
    | refine kept_pair (by assumption) ?_
    | split

theorem execFreezeHoldExpiry_keeps {m : Nat} {b : State} (n : Line) (clear : Bool) (s : State) (hs : b.kept m s)
    (hm : Foot.sub 0xE03210000E0000001DE0000000000000001C0400000000000888080000000000C168C2090 m := by
      first | assumption | exact Foot.bit (by assumption) rfl | exact Foot.trans rfl (by assumption)) :
    b.keeps m (execFreezeHoldExpiry n clear s) := by
  unfold execFreezeHoldExpiry
  repeat' first
    | with_reducible assumption
    | with_reducible apply act_keeps
    | with_reducible apply State.losFall_kept
    | with_reducible apply State.wr_kept
    | with_reducible apply State.setSpl_kept
    | with_reducible apply State.coldStart_kept
    | with_reducible apply kept_ite
    | with_reducible apply keeps_ite
    | with_reducible apply State.keeps_next
    | exact Foot.bit hm rfl
    | exact Foot.trans rfl hm
    | intro x (hx : State.kept m b x)
    | intro _ x (hx : State.kept m b x)
    | intro x _ (hx : State.kept m b x)
    | intro x _ (hx : State.kept m b x.1)
    | lift_lets
    | (intro x; clear_value x)
    | intro _

theorem State.setFreeze_kept {m : Nat} {b : State} (s : State) (n : Nat) (v : Bool) (hs : b.kept m s)
    (hm : Foot.sub 0x1DF0000000000000001C0400000000000888000000000000C000C0090 m := by
      first | assumption | exact Foot.bit (by assumption) rfl | exact Foot.trans rfl (by assumption)) :
    b.kept m (State.setFreeze s n v) := by
  unfold State.setFreeze
  repeat' first
    | with_reducible assumption
    | with_reducible apply State.wr_kept
    | with_reducible apply State.freeze_kept
    | with_reducible apply State.setSpl_kept
    | with_reducible apply State.coldStart_kept
    | with_reducible apply State.warmRestart_kept
    | with_reducible apply kept_ite
    | with_reducible apply keeps_ite
    | with_reducible apply State.keeps_next
    | exact Foot.bit hm rfl
    | exact Foot.trans rfl hm
    | intro x (hx : State.kept m b x)
    | intro _ x (hx : State.kept m b x)
    | intro x _ (hx : State.kept m b x)
    | intro x _ (hx : State.kept m b x.1)
    | lift_lets
    | (intro x; clear_value x)
    | intro _

theorem State.reacq_kept {m : Nat} {b : State} (s : State) (n : Nat) (hs : b.kept m s)
    (hm : Foot.sub 0x1DE0000000000000001C0400000000000888000000000000C000C0090 m := by
      first | assumption | exact Foot.bit (by assumption) rfl | exact Foot.trans rfl (by assumption)) :
    b.kept m (State.reacq s n) := by
  unfold State.reacq
  repeat' first
    | with_reducible assumption
    | with_reducible apply State.coldStart_kept
    | with_reducible apply kept_ite
    | lift_lets
    | intro _

theorem State.spliceCmd_kept {m : Nat} {b : State} (s : State) (req : Requester) (n : Nat) (v : Nat) (hs : b.kept m s)
    (hm : Foot.sub 0x1DF0000000000000001C0400000001010888000000000000C000C0890 m := by
      first | assumption | exact Foot.bit (by assumption) rfl | exact Foot.trans rfl (by assumption)) :
    b.kept m (State.spliceCmd s req n v) := by
  unfold State.spliceCmd
  repeat' first
    | with_reducible assumption
    | with_reducible apply State.runWrite_kept
    | with_reducible apply State.setFreeze_kept
    | with_reducible apply State.reacq_kept
    | with_reducible apply kept_ite
    | exact Foot.trans rfl hm
    | intro x (hx : State.kept m b x)
    | lift_lets
    | intro _

theorem execFreeze_keeps {m : Nat} {b : State} (req : Requester) (n : Line) (s : State) (hs : b.kept m s)
    (hm : Foot.sub 0x1DF0000000000000001C0400000001010888000000000000C000C0892 m := by
      first | assumption | exact Foot.bit (by assumption) rfl | exact Foot.trans rfl (by assumption)) :
    b.keeps m (execFreeze req n s) := by
  unfold execFreeze
  repeat' first
    | with_reducible assumption
    | with_reducible apply access_keeps
    | with_reducible apply State.spliceCmd_kept
    | exact Foot.trans rfl hm
    | intro x (hx : State.kept m b x)

theorem execUnfreeze_keeps {m : Nat} {b : State} (req : Requester) (n : Line) (s : State) (hs : b.kept m s)
    (hm : Foot.sub 0x1DF0000000000000001C0400000001010888000000000000C000C0892 m := by
      first | assumption | exact Foot.bit (by assumption) rfl | exact Foot.trans rfl (by assumption)) :
    b.keeps m (execUnfreeze req n s) := by
  unfold execUnfreeze
  repeat' first
    | with_reducible assumption
    | with_reducible apply access_keeps
    | with_reducible apply State.spliceCmd_kept
    | exact Foot.trans rfl hm
    | intro x (hx : State.kept m b x)

theorem execReacq_keeps {m : Nat} {b : State} (req : Requester) (n : Line) (s : State) (hs : b.kept m s)
    (hm : Foot.sub 0x1DF0000000000000001C0400000001010888000000000000C000C0892 m := by
      first | assumption | exact Foot.bit (by assumption) rfl | exact Foot.trans rfl (by assumption)) :
    b.keeps m (execReacq req n s) := by
  unfold execReacq
  repeat' first
    | with_reducible assumption
    | with_reducible apply access_keeps
    | with_reducible apply State.spliceCmd_kept
    | exact Foot.trans rfl hm
    | intro x (hx : State.kept m b x)

theorem execSubcarrierDiverge_keeps {m : Nat} {b : State} (n : Line) (slot : Slot) (majority : Bool) (s : State)
    (hs : b.kept m s) (hm : Foot.sub 0x1DE0000000000000001C0400000000000888000000000000C000C0090 m := by
      first | assumption | exact Foot.bit (by assumption) rfl | exact Foot.trans rfl (by assumption)) :
    b.keeps m (execSubcarrierDiverge n slot majority s) := by
  unfold execSubcarrierDiverge
  repeat' first
    | with_reducible assumption
    | with_reducible apply act_keeps
    | with_reducible apply State.subRestart_kept
    | with_reducible apply State.coldStart_kept
    | with_reducible apply kept_ite
    | exact Foot.trans rfl hm
    | intro x (hx : State.kept m b x)
    | lift_lets
    | (intro x; refine kept_cut (m := m) (b := b) (x := x) ?_ ?_ <;> [skip; (clear_value x; intro hx)])
    | intro _

theorem State.applyTaps_kept {m : Nat} {b : State} (s : State) (n : Nat) (hs : b.kept m s)
    (hm : Foot.sub 0x40000000000000000000000000000000000000000000000000000000 m := by
      first | assumption | exact Foot.bit (by assumption) rfl | exact Foot.trans rfl (by assumption)) :
    b.kept m (State.applyTaps s n) := by
  unfold State.applyTaps
  repeat' first
    | with_reducible assumption
    | with_reducible apply State.each_kept
    | with_reducible apply State.wr_kept
    | with_reducible apply kept_ite
    | exact Foot.bit hm rfl
    | intro _ x (hx : State.kept m b x)
    | lift_lets
    | intro _
    | split

theorem State.takeMarker_kept {m : Nat} {b : State} (s : State) (n : Nat) (marker : Bool) (hs : b.kept m s)
    (hm : Foot.sub 0x2000000000000000000000000000000000000000000000000040000 m := by
      first | assumption | exact Foot.bit (by assumption) rfl | exact Foot.trans rfl (by assumption)) :
    b.kept m (State.takeMarker s n marker) := by
  unfold State.takeMarker
  repeat' first
    | with_reducible assumption
    | with_reducible apply State.setSpl_kept
    | with_reducible apply State.wr_kept
    | with_reducible apply kept_ite
    | exact Foot.bit hm rfl
    | exact Foot.trans rfl hm
    | lift_lets
    | (intro x; clear_value x)
    | intro _

theorem State.overRange_kept {m : Nat} {b : State} (s : State) (n : Nat) (above : Bool) (hs : b.kept m s)
    (hm : Foot.sub 0x12000000000000000000000000000000888000000000000C00040090 m := by
      first | assumption | exact Foot.bit (by assumption) rfl | exact Foot.trans rfl (by assumption)) :
    b.kept m (State.overRange s n above) := by
  unfold State.overRange
  repeat' first
    | with_reducible assumption
    | with_reducible apply State.wr_kept
    | with_reducible apply State.setSpl_kept
    | with_reducible apply State.splEvent_kept
    | with_reducible apply kept_ite
    | exact Foot.bit hm rfl
    | exact Foot.trans rfl hm
    | lift_lets
    | (intro x; clear_value x)
    | intro _

theorem State.alignBlocks_kept {m : Nat} {b : State} (s : State) (n : Nat) (hs : b.kept m s)
    (hm : Foot.sub 0x200000 m := by
      first | assumption | exact Foot.bit (by assumption) rfl | exact Foot.trans rfl (by assumption)) :
    b.kept m (State.alignBlocks s n) := by
  unfold State.alignBlocks
  repeat' first
    | with_reducible assumption
    | with_reducible apply State.setClt_kept
    | with_reducible apply kept_foldl
    | with_reducible apply kept_foldl_fst
    | with_reducible apply kept_ite
    | with_reducible apply keeps_ite
    | with_reducible apply State.keeps_next
    | exact Foot.bit hm rfl
    | exact Foot.trans rfl hm
    | intro x (hx : State.kept m b x)
    | intro _ x (hx : State.kept m b x)
    | intro x _ (hx : State.kept m b x)
    | intro x _ (hx : State.kept m b x.1)
    | lift_lets
    | (intro x; clear_value x)
    | intro _

theorem State.moveAdcs_kept {m : Nat} {b : State} (s : State) (n : Nat) (hs : b.kept m s)
    (hm : Foot.sub 0x10000 m := by
      first | assumption | exact Foot.bit (by assumption) rfl | exact Foot.trans rfl (by assumption)) :
    b.kept m (State.moveAdcs s n) := by
  unfold State.moveAdcs
  repeat' first
    | with_reducible assumption
    | with_reducible apply State.setStr_kept

theorem State.receiveFrame_kept {m : Nat} {b : State} (s : State) (n : Nat) (above : Bool) (marker : Bool)
    (hs : b.kept m s) (hm : Foot.sub 0x42000052000000000000000000000000000000888000000000000C00250090 m := by
      first | assumption | exact Foot.bit (by assumption) rfl | exact Foot.trans rfl (by assumption)) :
    b.kept m (State.receiveFrame s n above marker) := by
  unfold State.receiveFrame
  repeat' first
    | with_reducible assumption
    | with_reducible apply State.moveAdcs_kept
    | with_reducible apply State.applyIters_kept
    | with_reducible apply State.setSpl_kept
    | with_reducible apply State.alignBlocks_kept
    | with_reducible apply State.takeMarker_kept
    | with_reducible apply State.overRange_kept
    | with_reducible apply State.applyTaps_kept
    | with_reducible apply kept_ite
    | with_reducible apply keeps_ite
    | with_reducible apply State.keeps_next
    | exact Foot.bit hm rfl
    | exact Foot.trans rfl hm
    | intro x (hx : State.kept m b x)
    | intro _ x (hx : State.kept m b x)
    | intro x _ (hx : State.kept m b x)
    | intro x _ (hx : State.kept m b x.1)
    | lift_lets
    | (intro x; clear_value x)
    | intro _

theorem execMarkerLost_keeps {m : Nat} {b : State} (n : Line) (s : State) (hs : b.kept m s)
    (hm : Foot.sub 0x12000000000000000000000000000000888000000000000C00040090 m := by
      first | assumption | exact Foot.bit (by assumption) rfl | exact Foot.trans rfl (by assumption)) :
    b.keeps m (execMarkerLost n s) := by
  unfold execMarkerLost
  repeat' first
    | with_reducible assumption
    | with_reducible apply act_keeps
    | with_reducible apply State.splEvent_kept
    | with_reducible apply State.wr_kept
    | with_reducible apply State.setSpl_kept
    | with_reducible apply kept_ite
    | exact Foot.bit hm rfl
    | exact Foot.trans rfl hm
    | intro x (hx : State.kept m b x)
    | lift_lets
    | (intro x; clear_value x)
    | intro _

theorem execTapDemandReport_keeps {m : Nat} {b : State} (n : Line) (slot : Slot) (demand : Nat) (s : State)
    (hs : b.kept m s) (hm : Foot.sub 0x40000000000000000000000000000000000000000000000000000000 m := by
      first | assumption | exact Foot.bit (by assumption) rfl | exact Foot.trans rfl (by assumption)) :
    b.keeps m (execTapDemandReport n slot demand s) := by
  unfold execTapDemandReport
  repeat' first
    | with_reducible assumption
    | with_reducible apply act_keeps
    | with_reducible apply State.wr_kept
    | with_reducible apply kept_ite
    | exact Foot.bit hm rfl
    | intro x (hx : State.kept m b x)
    | lift_lets
    | intro _

theorem State.takeFoff_kept {m : Nat} {b : State} (s : State) (n : Nat) (v : Nat) (hs : b.kept m s)
    (hm : Foot.sub 0x14000000000000000000000000000000888000000000000C00040090 m := by
      first | assumption | exact Foot.bit (by assumption) rfl | exact Foot.trans rfl (by assumption)) :
    b.kept m (State.takeFoff s n v) := by
  unfold State.takeFoff
  repeat' first
    | with_reducible assumption
    | with_reducible apply State.wr_kept
    | with_reducible apply State.setSpl_kept
    | with_reducible apply State.splEvent_kept
    | with_reducible apply kept_ite
    | with_reducible apply keeps_ite
    | with_reducible apply State.keeps_next
    | exact Foot.bit hm rfl
    | exact Foot.trans rfl hm
    | intro x (hx : State.kept m b x)
    | intro _ x (hx : State.kept m b x)
    | intro x _ (hx : State.kept m b x)
    | intro x _ (hx : State.kept m b x.1)
    | lift_lets
    | (intro x; refine kept_cut (m := m) (b := b) (x := x) ?_ ?_ <;> [skip; (clear_value x; intro hx)])
    | (intro x; clear_value x)
    | intro _

theorem State.takeSnr_kept {m : Nat} {b : State} (s : State) (n : Nat) (f : Nat) (x : Nat) (y : Nat) (c : Nat)
    (hs : b.kept m s) (hm : Foot.sub 0x40000000000000000000000000000000000000000000000000040000 m := by
      first | assumption | exact Foot.bit (by assumption) rfl | exact Foot.trans rfl (by assumption)) :
    b.kept m (State.takeSnr s n f x y c) := by
  unfold State.takeSnr
  repeat' first
    | with_reducible assumption
    | with_reducible apply State.setSpl_kept
    | with_reducible apply State.wr_kept
    | with_reducible apply kept_ite
    | with_reducible apply keeps_ite
    | with_reducible apply State.keeps_next
    | exact Foot.bit hm rfl
    | exact Foot.trans rfl hm

theorem State.takeSnrWindow_kept {m : Nat} {b : State} (s : State) (n : Nat) (f : Nat) (hs : b.kept m s)
    (hm : Foot.sub 0x80000000000000000000000000000000000000000000000000040000 m := by
      first | assumption | exact Foot.bit (by assumption) rfl | exact Foot.trans rfl (by assumption)) :
    b.kept m (State.takeSnrWindow s n f) := by
  unfold State.takeSnrWindow
  repeat' first
    | with_reducible assumption
    | with_reducible apply State.setSpl_kept
    | with_reducible apply State.wr_kept
    | with_reducible apply kept_ite
    | with_reducible apply keeps_ite
    | with_reducible apply State.keeps_next
    | exact Foot.bit hm rfl
    | exact Foot.trans rfl hm

theorem execEstimateRefresh_keeps {m : Nat} {b : State} (n : Line) (est : Estimate) (s : State) (hs : b.kept m s)
    (hm : Foot.sub 0xDC000000000000000000000000000000888000000000000C00040090 m := by
      first | assumption | exact Foot.bit (by assumption) rfl | exact Foot.trans rfl (by assumption)) :
    b.keeps m (execEstimateRefresh n est s) := by
  unfold execEstimateRefresh
  repeat' first
    | with_reducible assumption
    | with_reducible apply act_keeps
    | with_reducible apply State.takeSnr_kept
    | with_reducible apply State.takeSnrWindow_kept
    | with_reducible apply State.wr_kept
    | with_reducible apply State.takeFoff_kept
    | with_reducible apply State.setSpl_kept
    | with_reducible apply kept_ite
    | with_reducible apply keeps_ite
    | with_reducible apply State.keeps_next
    | exact Foot.bit hm rfl
    | exact Foot.trans rfl hm
    | intro x (hx : State.kept m b x)
    | intro _ x (hx : State.kept m b x)
    | intro x _ (hx : State.kept m b x)
    | intro x _ (hx : State.kept m b x.1)
    | lift_lets
    | (intro x; clear_value x)
    | intro _
    | refine kept_pair (by assumption) ?_
    | split

theorem execChanSwap_keeps {m : Nat} {b : State} (n : Line) (values : List (Nat × Nat)) (s : State) (hs : b.kept m s)
    (hm : Foot.sub 0x102000000000000000000000000000000000000000000000000000000 m := by
      first | assumption | exact Foot.bit (by assumption) rfl | exact Foot.trans rfl (by assumption)) :
    b.keeps m (execChanSwap n values s) := by
  unfold execChanSwap
  repeat' first
    | with_reducible assumption
    | with_reducible apply act_keeps
    | with_reducible apply State.incWrap_kept
    | with_reducible apply State.each_kept
    | with_reducible apply State.setReg_kept
    | with_reducible apply kept_ite
    | exact Foot.bit hm rfl
    | intro x (hx : State.kept m b x)
    | intro _ x (hx : State.kept m b x)
    | lift_lets
    | (intro x; refine kept_cut (m := m) (b := b) (x := x) ?_ ?_ <;> [skip; (clear_value x; intro hx)])
    | intro _

theorem execPhaseSlip_keeps {m : Nat} {b : State} (n : Line) (s : State) (hs : b.kept m s)
    (hm : Foot.sub 0x20000000000000000000000000000000000 m := by
      first | assumption | exact Foot.bit (by assumption) rfl | exact Foot.trans rfl (by assumption)) :
    b.keeps m (execPhaseSlip n s) := by
  unfold execPhaseSlip
  repeat' first
    | with_reducible assumption
    | with_reducible apply act_keeps
    | with_reducible apply State.count_kept
    | with_reducible apply kept_ite
    | exact Foot.bit hm rfl
    | intro x (hx : State.kept m b x)
    | lift_lets
    | intro _

theorem State.adcStart_kept {m : Nat} {b : State} (s : State) (n : Nat) (hs : b.kept m s)
    (hm : Foot.sub 0x1CE0000002000000001C0400000000000888000000000000C000C0090 m := by
      first | assumption | exact Foot.bit (by assumption) rfl | exact Foot.trans rfl (by assumption)) :
    b.kept m (State.adcStart s n) := by
  unfold State.adcStart
  repeat' first
    | with_reducible assumption
    | with_reducible apply State.wr_kept
    | with_reducible apply State.leaveTo_kept
    | with_reducible apply kept_ite
    | exact Foot.bit hm rfl
    | exact Foot.trans rfl hm
    | lift_lets
    | intro _

theorem State.adcReq_kept {m : Nat} {b : State} (s : State) (n : Nat) (hs : b.kept m s)
    (hm : Foot.sub 0x1CE0000002000000001C0400000000000888000000000000C000C0090 m := by
      first | assumption | exact Foot.bit (by assumption) rfl | exact Foot.trans rfl (by assumption)) :
    b.kept m (State.adcReq s n) := by
  unfold State.adcReq
  repeat' first
    | with_reducible assumption
    | with_reducible apply State.wr_kept
    | with_reducible apply State.adcStart_kept
    | with_reducible apply kept_ite
    | exact Foot.bit hm rfl
    | lift_lets
    | intro _

theorem execAdcFgReq_keeps {m : Nat} {b : State} (req : Requester) (n : Line) (s : State) (hs : b.kept m s)
    (hm : Foot.sub 0x1CE0000002000000001C0400000001010888000000000000C000C0892 m := by
      first | assumption | exact Foot.bit (by assumption) rfl | exact Foot.trans rfl (by assumption)) :
    b.keeps m (execAdcFgReq req n s) := by
  unfold execAdcFgReq
  repeat' first
    | with_reducible assumption
    | with_reducible apply access_keeps
    | with_reducible apply State.runWrite_kept
    | with_reducible apply State.adcReq_kept
    | exact Foot.trans rfl hm
    | intro x (hx : State.kept m b x)

theorem execAdcFgCalDone_keeps {m : Nat} {b : State} (n : Line) (ok : Bool) (t : Trib) (cal : List (List Calib))
    (s : State) (hs : b.kept m s)
    (hm : Foot.sub 0xE03210000E0000001DE000000A000000001C0400000000000888084000000000C168D2090 m := by
      first | assumption | exact Foot.bit (by assumption) rfl | exact Foot.trans rfl (by assumption)) :
    b.keeps m (execAdcFgCalDone n ok t cal s) := by
  unfold execAdcFgCalDone
  repeat' first
    | with_reducible assumption
    | with_reducible apply act_keeps
    | with_reducible apply State.calEnded_kept
    | with_reducible apply State.wr_kept
    | with_reducible apply State.setStr_kept
    | with_reducible apply State.calResults_kept
    | with_reducible apply State.waitSignal_kept
    | with_reducible apply State.raise_kept
    | with_reducible apply State.splEvent_kept
    | with_reducible apply State.setDefect_kept
    | with_reducible apply kept_ite
    | with_reducible apply keeps_ite
    | with_reducible apply State.keeps_next
    | exact Foot.bit hm rfl
    | exact Foot.trans rfl hm
    | intro x (hx : State.kept m b x)
    | intro _ x (hx : State.kept m b x)
    | intro x _ (hx : State.kept m b x)
    | intro x _ (hx : State.kept m b x.1)
    | lift_lets
    | (intro x; refine kept_cut (m := m) (b := b) (x := x) ?_ ?_ <;> [skip; (clear_value x; intro hx)])
    | (intro x; clear_value x)
    | intro _

theorem execAdcBgCalUpdate_keeps {m : Nat} {b : State} (n : Line) (t : Trib) (c : List Calib) (s : State)
    (hs : b.kept m s) (hm : Foot.sub 0x800000000000000000000000888000000000000C00010090 m := by
      first | assumption | exact Foot.bit (by assumption) rfl | exact Foot.trans rfl (by assumption)) :
    b.keeps m (execAdcBgCalUpdate n t c s) := by
  unfold execAdcBgCalUpdate
  repeat' first
    | with_reducible assumption
    | with_reducible apply act_keeps
    | with_reducible apply State.calResult_kept
    | with_reducible apply State.setStr_kept
    | with_reducible apply State.raise_kept
    | with_reducible apply kept_ite
    | with_reducible apply keeps_ite
    | with_reducible apply State.keeps_next
    | exact Foot.bit hm rfl
    | exact Foot.trans rfl hm
    | intro x (hx : State.kept m b x)
    | intro _ x (hx : State.kept m b x)
    | intro x _ (hx : State.kept m b x)
    | intro x _ (hx : State.kept m b x.1)
    | lift_lets
    | (intro x; refine kept_cut (m := m) (b := b) (x := x) ?_ ?_ <;> [skip; (clear_value x; intro hx)])
    | (intro x; clear_value x)
    | intro _

theorem execOhSwitchRx_keeps {m : Nat} {b : State} (n : Line) (s : State) (hs : b.kept m s)
    (hm : Foot.sub 0xE032100001000000002000000000000000000000000000000888080000000000C06A42090 m := by
      first | assumption | exact Foot.bit (by assumption) rfl | exact Foot.trans rfl (by assumption)) :
    b.keeps m (execOhSwitchRx n s) := by
  unfold execOhSwitchRx
  repeat' first
    | with_reducible assumption
    | with_reducible apply act_keeps
    | with_reducible apply State.setClt_kept
    | with_reducible apply State.startRx_kept
    | with_reducible apply kept_ite
    | exact Foot.trans rfl hm
    | intro x (hx : State.kept m b x)
    | lift_lets
    | (intro x; refine kept_cut (m := m) (b := b) (x := x) ?_ ?_ <;> [skip; (clear_value x; intro hx)])
    | intro _

theorem State.spliceOff_kept {m : Nat} {b : State} (s : State) (n : Nat) (hs : b.kept m s)
    (hm : Foot.sub 0x1CE0000006000000001C0400000000000888000000000000C000D0090 m := by
      first | assumption | exact Foot.bit (by assumption) rfl | exact Foot.trans rfl (by assumption)) :
    b.kept m (State.spliceOff s n) := by
  unfold State.spliceOff
  repeat' first
    | with_reducible assumption
    | with_reducible apply State.dropEstimates_kept
    | with_reducible apply State.wr_kept
    | with_reducible apply State.each_kept
    | with_reducible apply State.setReg_kept
    | with_reducible apply State.setStr_kept
    | with_reducible apply State.refEval_kept
    | with_reducible apply State.setSpl_kept
    | with_reducible apply kept_ite
    | with_reducible apply keeps_ite
    | with_reducible apply State.keeps_next
    | exact Foot.bit hm rfl
    | exact Foot.trans rfl hm
    | intro x (hx : State.kept m b x)
    | intro _ x (hx : State.kept m b x)
    | intro x _ (hx : State.kept m b x)
    | intro x _ (hx : State.kept m b x.1)
    | lift_lets
    | intro _

theorem State.spliceOn_kept {m : Nat} {b : State} (s : State) (n : Nat) (hs : b.kept m s)
    (hm : Foot.sub 0x1CE0000002000000001C0400000000000888000000000000C000C0090 m := by
      first | assumption | exact Foot.bit (by assumption) rfl | exact Foot.trans rfl (by assumption)) :
    b.kept m (State.spliceOn s n) := by
  unfold State.spliceOn
  repeat' first
    | with_reducible assumption
    | with_reducible apply State.adcStart_kept
    | with_reducible apply State.setSpl_kept
    | with_reducible apply kept_ite
    | exact Foot.trans rfl hm
    | lift_lets
    | intro _

theorem State.spliceCommitted_kept {m : Nat} {b : State} (old : State) (new : State) (n : Nat) (hold : b.kept m old)
    (hnew : b.kept m new)
    (hm : Foot.sub 0xE0321000010420001DE0000000000000001C0400000000000888080000000000C06AC2090 m := by
      first | assumption | exact Foot.bit (by assumption) rfl | exact Foot.trans rfl (by assumption)) :
    b.kept m (State.spliceCommitted old new n) := by
  unfold State.spliceCommitted
  repeat' first
    | with_reducible assumption
    | with_reducible apply State.each_kept
    | with_reducible apply State.wr_kept
    | with_reducible apply State.setReg_kept
    | with_reducible apply State.cleatLayout_kept
    | with_reducible apply State.startRx_kept
    | with_reducible apply State.splEvent_kept
    | with_reducible apply State.coldStart_kept
    | with_reducible apply kept_ite
    | with_reducible apply keeps_ite
    | with_reducible apply State.keeps_next
    | exact Foot.bit hm rfl
    | exact Foot.trans rfl hm
    | intro x (hx : State.kept m b x)
    | intro _ x (hx : State.kept m b x)
    | intro x _ (hx : State.kept m b x)
    | intro x _ (hx : State.kept m b x.1)
    | lift_lets
    | (intro x; refine kept_cut (m := m) (b := b) (x := x) ?_ ?_ <;> [skip; (clear_value x; intro hx)])
    | intro _

theorem afterSplice_kept {m : Nat} {b : State} (old : State) (new : State) (hold : b.kept m old) (hnew : b.kept m new)
    (hm : Foot.sub 0xE0321000010420001DE0000000000000001C0400000000000888080000000000C06AC2090 m := by
      first | assumption | exact Foot.bit (by assumption) rfl | exact Foot.trans rfl (by assumption)) :
    b.kept m (afterSplice old new) := by
  unfold afterSplice
  repeat' first
    | with_reducible assumption
    | with_reducible apply State.each_kept
    | with_reducible apply State.spliceCommitted_kept
    | intro _ x (hx : State.kept m b x)

end Sys2Proof.Machine
end

