-- ==== Sys2Proof/Laws/KeptBelay.lean ====
section
/-! SUPPORT. What every operation of Machine/Belay.lean keeps: see Laws/Kept.lean. -/

-- The proofs of the whole text do not run side by side: their memory adds up.
set_option Elab.async false

namespace Sys2Proof.Machine

open Sys2Proof

theorem State.setOverFloor_kept {m : Nat} {b : State} (s : State) (v : Bool) (hs : b.kept m s)
    (hm : Foot.sub 0x84000000000000000888000000000000C00000090 m := by
      first | assumption | exact Foot.bit (by assumption) rfl | exact Foot.trans rfl (by assumption)) :
    b.kept m (State.setOverFloor s v) := by
  unfold State.setOverFloor
  repeat' first
    | with_reducible assumption
    | with_reducible apply State.wr_kept
    | with_reducible apply State.raise_kept
    | with_reducible apply kept_ite
    | exact Foot.bit hm rfl
    | exact Foot.trans rfl hm
    | lift_lets
    | intro _

theorem State.setLevel_kept {m : Nat} {b : State} (s : State) (v : Nat) (hs : b.kept m s)
    (hm : Foot.sub 0x84000000000000000888000000000000C40000090 m := by
      first | assumption | exact Foot.bit (by assumption) rfl | exact Foot.trans rfl (by assumption)) :
    b.kept m (State.setLevel s v) := by
  unfold State.setLevel
  repeat' first
    | with_reducible assumption
    | with_reducible apply State.wr_kept
    | with_reducible apply State.raise_kept
    | with_reducible apply kept_ite
    | exact Foot.bit hm rfl
    | exact Foot.trans rfl hm
    | lift_lets
    | (intro x; refine kept_cut (m := m) (b := b) (x := x) ?_ ?_ <;> [skip; (clear_value x; intro hx)])
    | (intro x; clear_value x)
    | intro _
    | with_reducible apply kept_belay

theorem State.keepGrant_kept {m : Nat} {b : State} (s : State) (x : SubDemand) (hs : b.kept m s)
    (hm : Foot.sub 0x440000000 m := by
      first | assumption | exact Foot.bit (by assumption) rfl | exact Foot.trans rfl (by assumption)) :
    b.kept m (State.keepGrant s x) := by
  unfold State.keepGrant
  repeat' first
    | with_reducible assumption
    | with_reducible apply State.draw_kept
    | with_reducible apply kept_ite
    | with_reducible apply keeps_ite
    | with_reducible apply State.keeps_next
    | exact Foot.bit hm rfl
    | exact Foot.trans rfl hm
    | intro x (hx : State.kept m b x)
    | intro _ x (hx : State.kept m b x)
    | intro x _ (hx : State.kept m b x)
    | intro x _ (hx : State.kept m b x.1)
    | lift_lets
    | intro _
    | with_reducible apply kept_belay

theorem execGrantComputation_keeps {m : Nat} {b : State} (s : State) (hs : b.kept m s)
    (hm : Foot.sub 0x84000000000000000888000000000000C40000090 m := by
      first | assumption | exact Foot.bit (by assumption) rfl | exact Foot.trans rfl (by assumption)) :
    b.keeps m (execGrantComputation s) := by
  unfold execGrantComputation
  repeat' first
    | with_reducible assumption
    | with_reducible apply act_keeps
    | with_reducible apply State.keepGrant_kept
    | with_reducible apply State.wr_kept
    | with_reducible apply State.setLevel_kept
    | with_reducible apply State.setOverFloor_kept
    | with_reducible apply kept_foldl
    | exact Foot.bit hm rfl
    | exact Foot.trans rfl hm
    | intro x (hx : State.kept m b x)
    | intro x _ (hx : State.kept m b x)
    | lift_lets
    | (intro x; clear_value x)
    | with_reducible apply kept_belay

theorem execCalGainUpdate_keeps {m : Nat} {b : State} (iout : Option (BitVec 16)) (s : State) (hs : b.kept m s)
    (hm : Foot.sub 0x100000000000000000000000000000000000000000 m := by
      first | assumption | exact Foot.bit (by assumption) rfl | exact Foot.trans rfl (by assumption)) :
    b.keeps m (execCalGainUpdate iout s) := by
  unfold execCalGainUpdate
  repeat' first
    | with_reducible assumption
    | with_reducible apply act_keeps
    | with_reducible apply State.wr_kept
    | exact Foot.bit hm rfl
    | intro x (hx : State.kept m b x)
    | lift_lets
    | (intro x; clear_value x)
    | split

theorem State.avsStep_kept {m : Nat} {b : State} (s : State) (want : Nat) (ack : Bool) (hs : b.kept m s)
    (hm : Foot.sub 0x104000000000000000888000000000000C00000090 m := by
      first | assumption | exact Foot.bit (by assumption) rfl | exact Foot.trans rfl (by assumption)) :
    b.kept m (State.avsStep s want ack) := by
  unfold State.avsStep
  repeat' first
    | with_reducible assumption
    | with_reducible apply State.wr_kept
    | with_reducible apply State.raise_kept
    | with_reducible apply kept_ite
    | exact Foot.bit hm rfl
    | exact Foot.trans rfl hm
    | lift_lets
    | (intro x; refine kept_cut (m := m) (b := b) (x := x) ?_ ?_ <;> [skip; (clear_value x; intro hx)])
    | (intro x; clear_value x)
    | intro _

theorem execAvsRaise_keeps {m : Nat} {b : State} (slack : Int) (ack : Bool) (s : State) (hs : b.kept m s)
    (hm : Foot.sub 0x104000000000000000888000000000000C00000090 m := by
      first | assumption | exact Foot.bit (by assumption) rfl | exact Foot.trans rfl (by assumption)) :
    b.keeps m (execAvsRaise slack ack s) := by
  unfold execAvsRaise
  repeat' first
    | with_reducible assumption
    | with_reducible apply act_keeps
    | with_reducible apply State.wr_kept
    | with_reducible apply State.avsStep_kept
    | with_reducible apply kept_ite
    | exact Foot.bit hm rfl
    | intro x (hx : State.kept m b x)
    | lift_lets
    | intro _

theorem execAvsLower_keeps {m : Nat} {b : State} (slack : Int) (ack : Bool) (s : State) (hs : b.kept m s)
    (hm : Foot.sub 0x104000000000000000888000000000000C00000090 m := by
      first | assumption | exact Foot.bit (by assumption) rfl | exact Foot.trans rfl (by assumption)) :
    b.keeps m (execAvsLower slack ack s) := by
  unfold execAvsLower
  repeat' first
    | with_reducible assumption
    | with_reducible apply act_keeps
    | with_reducible apply State.wr_kept
    | with_reducible apply State.avsStep_kept
    | with_reducible apply kept_ite
    | exact Foot.bit hm rfl
    | intro x (hx : State.kept m b x)
    | lift_lets
    | intro _

theorem execFeedMonitor_keeps {m : Nat} {b : State} (share : Fin 101) (long : Bool) (aOk : Bool) (bOk : Bool)
    (s : State) (hs : b.kept m s) (hm : Foot.sub 0x204000000000000000888000000000000C00000090 m := by
      first | assumption | exact Foot.bit (by assumption) rfl | exact Foot.trans rfl (by assumption)) :
    b.keeps m (execFeedMonitor share long aOk bOk s) := by
  unfold execFeedMonitor
  repeat' first
    | with_reducible assumption
    | with_reducible apply State.wr_kept
    | with_reducible apply act_keeps
    | with_reducible apply State.raise_kept
    | with_reducible apply kept_ite
    | with_reducible apply keeps_ite
    | with_reducible apply State.keeps_next
    | exact Foot.bit hm rfl
    | exact Foot.trans rfl hm
    | intro x (hx : State.kept m b x)
    | intro _ x (hx : State.kept m b x)
    | intro x _ (hx : State.kept m b x)
    | intro x _ (hx : State.kept m b x.1)
    | lift_lets
    | intro _

theorem execFeedOutOfRange_keeps {m : Nat} {b : State} (a0 : Bool) (s : State) (hs : b.kept m s)
    (hm : Foot.sub 0x204000000000000000888000000000000C00000090 m := by
      first | assumption | exact Foot.bit (by assumption) rfl | exact Foot.trans rfl (by assumption)) :
    b.keeps m (execFeedOutOfRange a0 s) := by
  unfold execFeedOutOfRange
  repeat' first
    | with_reducible assumption
    | with_reducible apply State.wr_kept
    | with_reducible apply act_keeps
    | with_reducible apply State.raise_kept
    | with_reducible apply kept_ite
    | with_reducible apply keeps_ite
    | with_reducible apply State.keeps_next
    | exact Foot.bit hm rfl
    | exact Foot.trans rfl hm
    | intro x (hx : State.kept m b x)
    | intro _ x (hx : State.kept m b x)
    | intro x _ (hx : State.kept m b x)
    | intro x _ (hx : State.kept m b x.1)
    | lift_lets
    | intro _

theorem State.testFeed_kept {m : Nat} {b : State} (s : State) (ok : Fld) (fail : Fld) (test : Fld) (rail : Bool)
    (hs : b.kept m s) (hm : Foot.sub 0x4000000000000000888000000000000C00000090 m := by
      first | assumption | exact Foot.bit (by assumption) rfl | exact Foot.trans rfl (by assumption))
    (hmfail : m.testBit (regBit fail.id) = true := by
      first | assumption | exact Foot.bit (by assumption) rfl | exact Foot.trans rfl (by assumption)) (hmtest : m.testBit (regBit test.id) = true := by
      first | assumption | exact Foot.bit (by assumption) rfl | exact Foot.trans rfl (by assumption)) :
    b.kept m (State.testFeed s ok fail test rail) := by
  unfold State.testFeed
  repeat' first
    | with_reducible assumption
    | with_reducible apply State.wr_kept
    | with_reducible apply State.raise_kept
    | with_reducible apply kept_ite
    | exact Foot.bit hm rfl
    | exact Foot.trans rfl hm
    | lift_lets
    | intro _

theorem execHoldTest_keeps {m : Nat} {b : State} (railOnB : Bool) (railOnA : Bool) (s : State) (hs : b.kept m s)
    (hm : Foot.sub 0x204000000000000000888000000000000C40000090 m := by
      first | assumption | exact Foot.bit (by assumption) rfl | exact Foot.trans rfl (by assumption)) :
    b.keeps m (execHoldTest railOnB railOnA s) := by
  unfold execHoldTest
  repeat' first
    | with_reducible assumption
    | with_reducible apply act_keeps
    | with_reducible apply State.testFeed_kept
    | with_reducible apply State.wr_kept
    | with_reducible apply kept_ite
    | exact Foot.bit hm rfl
    | exact Foot.trans rfl hm
    | intro x (hx : State.kept m b x)
    | lift_lets
    | (intro x; refine kept_cut (m := m) (b := b) (x := x) ?_ ?_ <;> [skip; (clear_value x; intro hx)])
    | (intro x; clear_value x)
    | intro _
    | with_reducible apply kept_belay

theorem execPdmMeasure_keeps {m : Nat} {b : State} (now : List (BitVec 16)) (snr0 : BitVec 8) (snr1 : BitVec 8)
    (snr2 : BitVec 8) (s : State) (hs : b.kept m s)
    (hm : Foot.sub 0x10082000000000000000000000000000000000000000000 m := by
      first | assumption | exact Foot.bit (by assumption) rfl | exact Foot.trans rfl (by assumption)) :
    b.keeps m (execPdmMeasure now snr0 snr1 snr2 s) := by
  unfold execPdmMeasure
  repeat' first
    | with_reducible assumption
    | with_reducible apply act_keeps
    | with_reducible apply State.each_kept
    | with_reducible apply State.wr_kept
    | exact Foot.bit hm rfl
    | intro x (hx : State.kept m b x)
    | intro _ x (hx : State.kept m b x)

theorem State.replanned_kept {m : Nat} {b : State} (s : State) (f : Fld) (i : Nat) (kind : Nat) (unit : Nat)
    (basis : Nat) (a6 : Nat × Bool) (hs : b.kept m s)
    (hm : Foot.sub 0x200A0000000000000001000888000000000000C80000890 m := by
      first | assumption | exact Foot.bit (by assumption) rfl | exact Foot.trans rfl (by assumption))
    (hmf : m.testBit (regBit f.id) = true := by
      first | assumption | exact Foot.bit (by assumption) rfl | exact Foot.trans rfl (by assumption)) :
    b.kept m (State.replanned s f i kind unit basis a6) := by
  unfold State.replanned
  repeat' first
    | with_reducible assumption
    | with_reducible apply State.wr_kept
    | with_reducible apply State.recordSvc_kept
    | with_reducible apply State.raise_kept
    | with_reducible apply State.ageLog_kept
    | with_reducible apply kept_ite
    | exact Foot.bit hm rfl
    | exact Foot.trans rfl hm
    | lift_lets
    | (intro x; refine kept_cut (m := m) (b := b) (x := x) ?_ ?_ <;> [skip; (clear_value x; intro hx)])
    | (intro x; clear_value x)
    | intro _

theorem execAgeingReplan_keeps {m : Nat} {b : State} (s : State) (hs : b.kept m s)
    (hm : Foot.sub 0x200A2000000000000001000888000000000000C80000890 m := by
      first | assumption | exact Foot.bit (by assumption) rfl | exact Foot.trans rfl (by assumption)) :
    b.keeps m (execAgeingReplan s) := by
  unfold execAgeingReplan
  repeat' first
    | with_reducible assumption
    | with_reducible apply act_keeps
    | with_reducible apply State.wr_kept
    | with_reducible apply State.replanned_kept
    | with_reducible apply State.each_kept
    | with_reducible apply kept_ite
    | exact Foot.bit hm rfl
    | exact Foot.trans rfl hm
    | intro x (hx : State.kept m b x)
    | intro _ x (hx : State.kept m b x)
    | lift_lets
    | (intro x; refine kept_cut (m := m) (b := b) (x := x) ?_ ?_ <;> [skip; (clear_value x; intro hx)])
    | (intro x; clear_value x)
    | intro _
    | with_reducible apply kept_age

theorem State.belaySecond_kept {m : Nat} {b : State} (s : State) (hs : b.kept m s)
    (hm : Foot.sub 0x802000000000000000000000000000000000C0000000 m := by
      first | assumption | exact Foot.bit (by assumption) rfl | exact Foot.trans rfl (by assumption)) :
    b.kept m (State.belaySecond s) := by
  unfold State.belaySecond
  lift_lets
  intro w x y z
  exact State.wr_kept _ _ _ _ _ _ (State.wr_kept _ _ _ _ _ _ (kept_age z (kept_belay x hs)))

end Sys2Proof.Machine
end

