-- ==== Sys2Proof/Laws/KeptLanyard.lean ====
section
/-! SUPPORT. What every operation of Machine/Lanyard.lean keeps: see Laws/Kept.lean. -/

-- The proofs of the whole text do not run side by side: their memory adds up.
set_option Elab.async false

namespace Sys2Proof.Machine

open Sys2Proof

theorem State.setLny_kept {m : Nat} {b : State} (s : State) (x : LanyardInt) (hs : b.kept m s)
    (hm : Foot.sub 0x20000000 m := by
      first | assumption | exact Foot.bit (by assumption) rfl | exact Foot.trans rfl (by assumption)) :
    b.kept m (State.setLny s x) := by
  unfold State.setLny
  repeat' first
    | with_reducible assumption
    | exact Foot.bit hm rfl
    | with_reducible apply kept_lanyard

theorem State.mateEvent_kept {m : Nat} {b : State} (s : State) (f : Fld) (code : Nat) (params : List Nat)
    (hs : b.kept m s) (hm : Foot.sub 0x888000000000000C00000090 m := by
      first | assumption | exact Foot.bit (by assumption) rfl | exact Foot.trans rfl (by assumption)) (hmf : m.testBit (regBit f.id) = true := by
      first | assumption | exact Foot.bit (by assumption) rfl | exact Foot.trans rfl (by assumption)) :
    b.kept m (State.mateEvent s f code params) := by
  unfold State.mateEvent
  repeat' first
    | with_reducible assumption
    | with_reducible apply State.raise_kept

theorem State.refreshGates_kept {m : Nat} {b : State} (s : State) (hs : b.kept m s)
    (hm : Foot.sub 0xC0000000000000000000000000000000000000000000000000000000888000000000000C00000098 m := by
      first | assumption | exact Foot.bit (by assumption) rfl | exact Foot.trans rfl (by assumption)) :
    b.kept m (State.refreshGates s) := by
  unfold State.refreshGates
  repeat' first
    | with_reducible assumption
    | with_reducible apply State.wr_kept
    | with_reducible apply State.mateEvent_kept
    | with_reducible apply State.refreshTxen_kept
    | with_reducible apply kept_ite
    | exact Foot.bit hm rfl
    | exact Foot.trans rfl hm
    | lift_lets
    | intro _

theorem State.refreshClaim_kept {m : Nat} {b : State} (s : State) (hs : b.kept m s)
    (hm : Foot.sub 0xC0000000000000000000000000000000000000000000000000000000888000000000000C20000098 m := by
      first | assumption | exact Foot.bit (by assumption) rfl | exact Foot.trans rfl (by assumption)) :
    b.kept m (State.refreshClaim s) := by
  unfold State.refreshClaim
  repeat' first
    | with_reducible assumption
    | with_reducible apply State.setLny_kept
    | with_reducible apply State.wr_kept
    | with_reducible apply State.refreshGates_kept
    | with_reducible apply kept_ite
    | exact Foot.bit hm rfl
    | exact Foot.trans rfl hm
    | lift_lets
    | (intro x; clear_value x)
    | intro _
    | with_reducible apply kept_pins

theorem State.dropClaim_kept {m : Nat} {b : State} (s : State) (hs : b.kept m s)
    (hm : Foot.sub 0xC0000000000000000000000000000000000000000000000000000000888000000000000C00000098 m := by
      first | assumption | exact Foot.bit (by assumption) rfl | exact Foot.trans rfl (by assumption)) :
    b.kept m (State.dropClaim s) := by
  unfold State.dropClaim
  repeat' first
    | with_reducible assumption
    | with_reducible apply State.refreshGates_kept
    | with_reducible apply State.wr_kept
    | exact Foot.bit hm rfl
    | lift_lets
    | (intro x; refine kept_cut (m := m) (b := b) (x := x) ?_ ?_ <;> [skip; (clear_value x; intro hx)])
    | (intro x; clear_value x)
    | with_reducible apply kept_pins

theorem State.refreshNumber_kept {m : Nat} {b : State} (s : State) (hs : b.kept m s)
    (hm : Foot.sub 0xC0000000010000000000000000000000000000000000000000000000888000000000000C00000098 m := by
      first | assumption | exact Foot.bit (by assumption) rfl | exact Foot.trans rfl (by assumption)) :
    b.kept m (State.refreshNumber s) := by
  unfold State.refreshNumber
  repeat' first
    | with_reducible assumption
    | with_reducible apply State.wr_kept
    | with_reducible apply State.mateEvent_kept
    | with_reducible apply State.refreshGates_kept
    | with_reducible apply State.refreshLeaders_kept
    | with_reducible apply kept_ite
    | exact Foot.bit hm rfl
    | exact Foot.trans rfl hm
    | lift_lets
    | intro _

theorem execClaimFrameReceived_keeps {m : Nat} {b : State} (w : BitVec 32) (s : State) (hs : b.kept m s)
    (hm : Foot.sub 0xC0000000010000000000000000000000000000000000000000000000888000000000000C20000098 m := by
      first | assumption | exact Foot.bit (by assumption) rfl | exact Foot.trans rfl (by assumption)) :
    b.keeps m (execClaimFrameReceived w s) := by
  unfold execClaimFrameReceived
  repeat' first
    | with_reducible assumption
    | with_reducible apply act_keeps
    | with_reducible apply State.setLny_kept
    | with_reducible apply State.refreshNumber_kept
    | with_reducible apply kept_ite
    | exact Foot.trans rfl hm
    | intro x (hx : State.kept m b x)
    | lift_lets
    | (intro x; refine kept_cut (m := m) (b := b) (x := x) ?_ ?_ <;> [skip; (clear_value x; intro hx)])
    | (intro x; clear_value x)
    | intro _

theorem execClaimGapDone_keeps {m : Nat} {b : State} (s : State) (hs : b.kept m s)
    (hm : Foot.sub 0xC0000000000000000000000000000000000000000000000000000000888000000000000C20000098 m := by
      first | assumption | exact Foot.bit (by assumption) rfl | exact Foot.trans rfl (by assumption)) :
    b.keeps m (execClaimGapDone s) := by
  unfold execClaimGapDone
  repeat' first
    | with_reducible assumption
    | with_reducible apply act_keeps
    | with_reducible apply State.refreshGates_kept
    | with_reducible apply State.setLny_kept
    | with_reducible apply kept_ite
    | exact Foot.trans rfl hm
    | intro x (hx : State.kept m b x)
    | lift_lets
    | (intro x; clear_value x)
    | intro _

theorem State.resetLanes_kept {m : Nat} {b : State} (s : State) (hs : b.kept m s)
    (hm : Foot.sub 0x800000000000000000000000000000000000000000000000000000000000000000000800000000 m := by
      first | assumption | exact Foot.bit (by assumption) rfl | exact Foot.trans rfl (by assumption)) :
    b.kept m (State.resetLanes s) := by
  unfold State.resetLanes
  repeat' first
    | with_reducible assumption
    | with_reducible apply State.each_kept
    | with_reducible apply State.emit_kept
    | with_reducible apply State.wr_kept
    | with_reducible apply kept_ite
    | with_reducible apply keeps_ite
    | with_reducible apply State.keeps_next
    | exact Foot.bit hm rfl
    | exact Foot.trans rfl hm
    | intro x (hx : State.kept m b x)
    | intro _ x (hx : State.kept m b x)
    | intro x _ (hx : State.kept m b x)
    | intro x _ (hx : State.kept m b x.1)
    | lift_lets
    | intro _

theorem State.cutScan_kept {m : Nat} {b : State} (s : State) (l : Nat) (hs : b.kept m s)
    (hm : Foot.sub 0x1400000000000000000000000000000000000000000000000000000000000000000000000000000 m := by
      first | assumption | exact Foot.bit (by assumption) rfl | exact Foot.trans rfl (by assumption)) :
    b.kept m (State.cutScan s l) := by
  unfold State.cutScan
  repeat' first
    | with_reducible assumption
    | with_reducible apply State.wr_kept
    | with_reducible apply kept_ite
    | exact Foot.bit hm rfl
    | lift_lets
    | intro _

theorem State.badSet_kept {m : Nat} {b : State} (s : State) (check : Nat) (hs : b.kept m s)
    (hm : Foot.sub 0x180000000000000000000000000000000000000000000000000000000888000000000000C20000090 m := by
      first | assumption | exact Foot.bit (by assumption) rfl | exact Foot.trans rfl (by assumption)) :
    b.kept m (State.badSet s check) := by
  unfold State.badSet
  repeat' first
    | with_reducible assumption
    | with_reducible apply State.mateEvent_kept
    | with_reducible apply State.count_kept
    | with_reducible apply State.setLny_kept
    | exact Foot.bit hm rfl
    | exact Foot.trans rfl hm

theorem State.leaveUp_kept {m : Nat} {b : State} (s : State) (hs : b.kept m s)
    (hm : Foot.sub 0x181400000000000000000000000000000000000000000000000000000888000000000000C20000090 m := by
      first | assumption | exact Foot.bit (by assumption) rfl | exact Foot.trans rfl (by assumption)) :
    b.kept m (State.leaveUp s) := by
  unfold State.leaveUp
  repeat' first
    | with_reducible assumption
    | with_reducible apply State.setLny_kept
    | with_reducible apply State.badSet_kept
    | with_reducible apply State.each_kept
    | with_reducible apply State.cutScan_kept
    | with_reducible apply kept_ite
    | exact Foot.trans rfl hm
    | intro _ x (hx : State.kept m b x)
    | lift_lets
    | (intro x; clear_value x)
    | intro _
    | split

theorem State.mateAttempt_kept {m : Nat} {b : State} (s : State) (k : Nat) (hs : b.kept m s)
    (hm : Foot.sub 0x40800000000000000000000000000000000000000000000000000000000000000000000820000000 m := by
      first | assumption | exact Foot.bit (by assumption) rfl | exact Foot.trans rfl (by assumption)) :
    b.kept m (State.mateAttempt s k) := by
  unfold State.mateAttempt
  repeat' first
    | with_reducible assumption
    | with_reducible apply State.resetLanes_kept
    | with_reducible apply State.wr_kept
    | with_reducible apply State.setLny_kept
    | exact Foot.bit hm rfl
    | exact Foot.trans rfl hm

theorem State.mateTraining_kept {m : Nat} {b : State} (s : State) (hs : b.kept m s)
    (hm : Foot.sub 0x40800000000000000000000000000000000000000000000000000000000000000000000820000000 m := by
      first | assumption | exact Foot.bit (by assumption) rfl | exact Foot.trans rfl (by assumption)) :
    b.kept m (State.mateTraining s) := by
  unfold State.mateTraining
  repeat' first
    | with_reducible assumption
    | with_reducible apply State.mateAttempt_kept
    | with_reducible apply State.wr_kept
    | exact Foot.bit hm rfl

theorem State.mateUp_kept {m : Nat} {b : State} (s : State) (hs : b.kept m s)
    (hm : Foot.sub 0xC0000000000000000000000000000000000000000000000000000000888000000000000C20000090 m := by
      first | assumption | exact Foot.bit (by assumption) rfl | exact Foot.trans rfl (by assumption)) :
    b.kept m (State.mateUp s) := by
  unfold State.mateUp
  repeat' first
    | with_reducible assumption
    | with_reducible apply State.setLny_kept
    | with_reducible apply State.mateEvent_kept
    | with_reducible apply State.wr_kept
    | exact Foot.bit hm rfl
    | exact Foot.trans rfl hm

theorem State.mateLost_kept {m : Nat} {b : State} (s : State) (hs : b.kept m s)
    (hm : Foot.sub 0x1C1C00000000000000000000000000000000000000000000000000000888000000000000C20000090 m := by
      first | assumption | exact Foot.bit (by assumption) rfl | exact Foot.trans rfl (by assumption)) :
    b.kept m (State.mateLost s) := by
  unfold State.mateLost
  repeat' first
    | with_reducible assumption
    | with_reducible apply State.mateEvent_kept
    | with_reducible apply State.mateTraining_kept
    | with_reducible apply State.leaveUp_kept
    | exact Foot.bit hm rfl
    | exact Foot.trans rfl hm

theorem State.mateChanged_kept {m : Nat} {b : State} (s : State) (hs : b.kept m s)
    (hm : Foot.sub 0x1C1C00000000000000000000000000000000000000000000000000000888000000000000C20000098 m := by
      first | assumption | exact Foot.bit (by assumption) rfl | exact Foot.trans rfl (by assumption)) :
    b.kept m (State.mateChanged s) := by
  unfold State.mateChanged
  repeat' first
    | with_reducible assumption
    | with_reducible apply State.refreshClaim_kept
    | with_reducible apply State.mateTraining_kept
    | with_reducible apply State.resetLanes_kept
    | with_reducible apply State.wr_kept
    | with_reducible apply State.leaveUp_kept
    | with_reducible apply kept_ite
    | exact Foot.bit hm rfl
    | exact Foot.trans rfl hm
    | lift_lets
    | intro _

theorem execTrainingAttemptExpiry_keeps {m : Nat} {b : State} (s : State) (hs : b.kept m s)
    (hm : Foot.sub 0xC0800000000000000000000000000000000000000000000000000000888000000000000C20000090 m := by
      first | assumption | exact Foot.bit (by assumption) rfl | exact Foot.trans rfl (by assumption)) :
    b.keeps m (execTrainingAttemptExpiry s) := by
  unfold execTrainingAttemptExpiry
  repeat' first
    | with_reducible assumption
    | with_reducible apply act_keeps
    | with_reducible apply State.mateAttempt_kept
    | with_reducible apply State.mateEvent_kept
    | with_reducible apply State.resetLanes_kept
    | with_reducible apply State.wr_kept
    | with_reducible apply kept_ite
    | exact Foot.bit hm rfl
    | exact Foot.trans rfl hm
    | intro x (hx : State.kept m b x)
    | lift_lets
    | intro _

theorem execHelloTimeout_keeps {m : Nat} {b : State} (s : State) (hs : b.kept m s)
    (hm : Foot.sub 0x1C1C00000000000000000000000000000000000000000000000000000888000000000000C20000090 m := by
      first | assumption | exact Foot.bit (by assumption) rfl | exact Foot.trans rfl (by assumption)) :
    b.keeps m (execHelloTimeout s) := by
  unfold execHelloTimeout
  repeat' first
    | with_reducible assumption
    | with_reducible apply act_keeps
    | with_reducible apply State.mateLost_kept
    | with_reducible apply kept_ite
    | intro x (hx : State.kept m b x)
    | lift_lets
    | intro _

theorem execMateLaneSyncLoss_keeps {m : Nat} {b : State} (l : MateLane) (s : State) (hs : b.kept m s)
    (hm : Foot.sub 0x1C1C00000000000000000000000000000000000000000000000000000888000000000000C20000090 m := by
      first | assumption | exact Foot.bit (by assumption) rfl | exact Foot.trans rfl (by assumption)) :
    b.keeps m (execMateLaneSyncLoss l s) := by
  unfold execMateLaneSyncLoss
  repeat' first
    | with_reducible assumption
    | with_reducible apply act_keeps
    | with_reducible apply State.wr_kept
    | with_reducible apply State.cutScan_kept
    | with_reducible apply State.mateLost_kept
    | with_reducible apply kept_ite
    | exact Foot.bit hm rfl
    | exact Foot.trans rfl hm
    | intro x (hx : State.kept m b x)
    | lift_lets
    | intro _

theorem execMateAbsentRetry_keeps {m : Nat} {b : State} (s : State) (hs : b.kept m s)
    (hm : Foot.sub 0x40800000000000000000000000000000000000000000000000000000000000000000000820000000 m := by
      first | assumption | exact Foot.bit (by assumption) rfl | exact Foot.trans rfl (by assumption)) :
    b.keeps m (execMateAbsentRetry s) := by
  unfold execMateAbsentRetry
  repeat' first
    | with_reducible assumption
    | with_reducible apply act_keeps
    | with_reducible apply State.mateAttempt_kept
    | with_reducible apply kept_ite
    | intro x (hx : State.kept m b x)
    | lift_lets
    | intro _

theorem execHelloSend_keeps {m : Nat} {b : State} (s : State) (hs : b.kept m s) (hm : Foot.sub 0x820000000 m := by
      first | assumption | exact Foot.bit (by assumption) rfl | exact Foot.trans rfl (by assumption)) :
    b.keeps m (execHelloSend s) := by
  unfold execHelloSend
  repeat' first
    | with_reducible assumption
    | with_reducible apply act_keeps
    | with_reducible apply State.sendPacket_kept
    | with_reducible apply kept_ite
    | intro x (hx : State.kept m b x)
    | lift_lets
    | intro _

theorem State.packetSeen_kept {m : Nat} {b : State} (s : State) (hs : b.kept m s) (hm : Foot.sub 0x20000000 m := by
      first | assumption | exact Foot.bit (by assumption) rfl | exact Foot.trans rfl (by assumption)) :
    b.kept m (State.packetSeen s) := by
  unfold State.packetSeen
  repeat' first
    | with_reducible assumption
    | with_reducible apply State.setLny_kept

theorem State.badPacket_kept {m : Nat} {b : State} (s : State) (hs : b.kept m s)
    (hm : Foot.sub 0x100000000000000000000000000000000000000000000000000000000000000000000000000000000 m := by
      first | assumption | exact Foot.bit (by assumption) rfl | exact Foot.trans rfl (by assumption)) :
    b.kept m (State.badPacket s) := by
  unfold State.badPacket
  repeat' first
    | with_reducible assumption
    | with_reducible apply State.count_kept
    | exact Foot.bit hm rfl

theorem State.showSync_kept {m : Nat} {b : State} (s : State) (synced : Nat) (hs : b.kept m s)
    (hm : Foot.sub 0x800000000000000000000000000000000000000000000000000000000000000000000000000000 m := by
      first | assumption | exact Foot.bit (by assumption) rfl | exact Foot.trans rfl (by assumption)) :
    b.kept m (State.showSync s synced) := by
  unfold State.showSync
  repeat' first
    | with_reducible assumption
    | with_reducible apply State.each_kept
    | with_reducible apply State.wr_kept
    | with_reducible apply kept_ite
    | exact Foot.bit hm rfl
    | intro _ x (hx : State.kept m b x)
    | lift_lets
    | intro _

theorem State.showSuspect_kept {m : Nat} {b : State} (s : State) (hs : b.kept m s)
    (hm : Foot.sub 0x40000000000000000000000000000000000000000000000000000000000000000000000000000000 m := by
      first | assumption | exact Foot.bit (by assumption) rfl | exact Foot.trans rfl (by assumption)) :
    b.kept m (State.showSuspect s) := by
  unfold State.showSuspect
  repeat' first
    | with_reducible assumption
    | with_reducible apply State.wr_kept
    | exact Foot.bit hm rfl

theorem execHelloReceived_keeps {m : Nat} {b : State} (p : List Byte) (bad : Bool) (synced : BitVec 4) (s : State)
    (hs : b.kept m s)
    (hm : Foot.sub 0x1C0800000010000000000000000000000000000000000000000000000888000000000000C20000098 m := by
      first | assumption | exact Foot.bit (by assumption) rfl | exact Foot.trans rfl (by assumption)) :
    b.keeps m (execHelloReceived p bad synced s) := by
  unfold execHelloReceived
  repeat' first
    | with_reducible assumption
    | with_reducible apply act_keeps
    | with_reducible apply State.packetSeen_kept
    | with_reducible apply State.badPacket_kept
    | with_reducible apply State.showSync_kept
    | with_reducible apply State.refreshNumber_kept
    | with_reducible apply State.showSuspect_kept
    | with_reducible apply State.setLny_kept
    | with_reducible apply State.mateUp_kept
    | with_reducible apply kept_ite
    | with_reducible apply keeps_ite
    | with_reducible apply State.keeps_next
    | exact Foot.bit hm rfl
    | exact Foot.trans rfl hm
    | intro x (hx : State.kept m b x)
    | intro _ x (hx : State.kept m b x)
    | intro x _ (hx : State.kept m b x)
    | intro x _ (hx : State.kept m b x.1)
    | lift_lets
    | (intro x; refine kept_cut (m := m) (b := b) (x := x) ?_ ?_ <;> [skip; (clear_value x; intro hx)])
    | (intro x; clear_value x)
    | intro _
    | refine kept_pair (by assumption) ?_
    | split

theorem execCreditSend_keeps {m : Nat} {b : State} (s : State) (hs : b.kept m s) (hm : Foot.sub 0x820000000 m := by
      first | assumption | exact Foot.bit (by assumption) rfl | exact Foot.trans rfl (by assumption)) :
    b.keeps m (execCreditSend s) := by
  unfold execCreditSend
  repeat' first
    | with_reducible assumption
    | with_reducible apply act_keeps
    | with_reducible apply State.sendPacket_kept
    | with_reducible apply State.setLny_kept
    | with_reducible apply kept_ite
    | exact Foot.trans rfl hm
    | intro x (hx : State.kept m b x)
    | lift_lets
    | intro _

theorem execCreditReceived_keeps {m : Nat} {b : State} (p : List Byte) (bad : Bool) (s : State) (hs : b.kept m s)
    (hm : Foot.sub 0x140000000000000000000000000000000000000000000000000000000000000000000000820000000 m := by
      first | assumption | exact Foot.bit (by assumption) rfl | exact Foot.trans rfl (by assumption)) :
    b.keeps m (execCreditReceived p bad s) := by
  unfold execCreditReceived
  repeat' first
    | with_reducible assumption
    | with_reducible apply act_keeps
    | with_reducible apply State.packetSeen_kept
    | with_reducible apply State.badPacket_kept
    | with_reducible apply State.pump_kept
    | with_reducible apply State.setLny_kept
    | with_reducible apply kept_ite
    | with_reducible apply keeps_ite
    | with_reducible apply State.keeps_next
    | exact Foot.bit hm rfl
    | exact Foot.trans rfl hm
    | intro x (hx : State.kept m b x)
    | intro _ x (hx : State.kept m b x)
    | intro x _ (hx : State.kept m b x)
    | intro x _ (hx : State.kept m b x.1)
    | lift_lets
    | (intro x; refine kept_cut (m := m) (b := b) (x := x) ?_ ?_ <;> [skip; (clear_value x; intro hx)])
    | (intro x; clear_value x)
    | intro _
    | refine kept_pair (by assumption) ?_
    | split

theorem State.setMateLane_kept {m : Nat} {b : State} (s : State) (l : Nat) (v : Nat) (hs : b.kept m s)
    (hm : Foot.sub 0x1400000000000000000000000000000000000000000000000000000000000000000000000000000 m := by
      first | assumption | exact Foot.bit (by assumption) rfl | exact Foot.trans rfl (by assumption)) :
    b.kept m (State.setMateLane s l v) := by
  unfold State.setMateLane
  repeat' first
    | with_reducible assumption
    | with_reducible apply State.wr_kept
    | with_reducible apply kept_ite
    | exact Foot.bit hm rfl
    | lift_lets
    | intro _

theorem State.mateLaneWrite_kept {m : Nat} {b : State} (s : State) (req : Requester) (l : Nat) (v : Nat)
    (hs : b.kept m s)
    (hm : Foot.sub 0x3400000000000000000000000000000000000000000000000001010888000000000000C00000890 m := by
      first | assumption | exact Foot.bit (by assumption) rfl | exact Foot.trans rfl (by assumption)) :
    b.kept m (State.mateLaneWrite s req l v) := by
  unfold State.mateLaneWrite
  repeat' first
    | with_reducible assumption
    | with_reducible apply State.writeOr_kept
    | with_reducible apply State.setMateLane_kept
    | exact Foot.trans rfl hm
    | intro x (hx : State.kept m b x)

theorem execMateScanReq_keeps {m : Nat} {b : State} (req : Requester) (l : MateLane) (s : State) (hs : b.kept m s)
    (hm : Foot.sub 0x3400000000000000000000000000000000000000000000000001010888000000000000C00000892 m := by
      first | assumption | exact Foot.bit (by assumption) rfl | exact Foot.trans rfl (by assumption)) :
    b.keeps m (execMateScanReq req l s) := by
  unfold execMateScanReq
  repeat' first
    | with_reducible assumption
    | with_reducible apply access_keeps
    | with_reducible apply State.mateLaneWrite_kept
    | exact Foot.trans rfl hm
    | intro x (hx : State.kept m b x)

theorem execMateScanDone_keeps {m : Nat} {b : State} (l : MateLane) (sweeps : List (List Nat)) (s : State)
    (hs : b.kept m s)
    (hm : Foot.sub 0x81400000000000000000000000000000000000000000000000000000888000000000000C80000090 m := by
      first | assumption | exact Foot.bit (by assumption) rfl | exact Foot.trans rfl (by assumption)) :
    b.keeps m (execMateScanDone l sweeps s) := by
  unfold execMateScanDone
  repeat' first
    | with_reducible assumption
    | with_reducible apply act_keeps
    | with_reducible apply State.setReg_kept
    | with_reducible apply State.wr_kept
    | with_reducible apply State.mateEvent_kept
    | with_reducible apply kept_ite
    | with_reducible apply keeps_ite
    | with_reducible apply State.keeps_next
    | exact Foot.bit hm rfl
    | exact Foot.trans rfl hm
    | intro x (hx : State.kept m b x)
    | intro _ x (hx : State.kept m b x)
    | intro x _ (hx : State.kept m b x)
    | intro x _ (hx : State.kept m b x.1)
    | lift_lets
    | (intro x; refine kept_cut (m := m) (b := b) (x := x) ?_ ?_ <;> [skip; (clear_value x; intro hx)])
    | (intro x; clear_value x)
    | intro _
    | with_reducible apply kept_age

theorem State.regionPut_kept {m : Nat} {b : State} (s : State) (k : CkSet) (hs : b.kept m s)
    (hm : Foot.sub 0x20000000 m := by
      first | assumption | exact Foot.bit (by assumption) rfl | exact Foot.trans rfl (by assumption)) :
    b.kept m (State.regionPut s k) := by
  unfold State.regionPut
  repeat' first
    | with_reducible assumption
    | with_reducible apply State.setLny_kept
    | with_reducible apply kept_ite
    | lift_lets
    | (intro x; clear_value x)
    | intro _

theorem execCheckpointSetDue_keeps {m : Nat} {b : State} (sent : Bool) (s : State) (hs : b.kept m s)
    (hm : Foot.sub 0x1C0000000000000000000000000000000000000000000000000000000888000000000000C20000090 m := by
      first | assumption | exact Foot.bit (by assumption) rfl | exact Foot.trans rfl (by assumption)) :
    b.keeps m (execCheckpointSetDue sent s) := by
  unfold execCheckpointSetDue
  repeat' first
    | with_reducible assumption
    | with_reducible apply act_keeps
    | with_reducible apply State.mateEvent_kept
    | with_reducible apply State.count_kept
    | with_reducible apply State.setLny_kept
    | with_reducible apply State.pump_kept
    | with_reducible apply kept_ite
    | with_reducible apply keeps_ite
    | with_reducible apply State.keeps_next
    | exact Foot.bit hm rfl
    | exact Foot.trans rfl hm
    | intro x (hx : State.kept m b x)
    | intro _ x (hx : State.kept m b x)
    | intro x _ (hx : State.kept m b x)
    | intro x _ (hx : State.kept m b x.1)
    | lift_lets
    | (intro x; refine kept_cut (m := m) (b := b) (x := x) ?_ ?_ <;> [skip; (clear_value x; intro hx)])
    | (intro x; clear_value x)
    | intro _

theorem execCheckpointSelfWrite_keeps {m : Nat} {b : State} (s : State) (hs : b.kept m s)
    (hm : Foot.sub 0x20000000 m := by
      first | assumption | exact Foot.bit (by assumption) rfl | exact Foot.trans rfl (by assumption)) :
    b.keeps m (execCheckpointSelfWrite s) := by
  unfold execCheckpointSelfWrite
  repeat' first
    | with_reducible assumption
    | with_reducible apply act_keeps
    | with_reducible apply State.regionPut_kept
    | with_reducible apply kept_ite
    | intro x (hx : State.kept m b x)
    | lift_lets
    | intro _
    | split

theorem execCkptPacketReceived_keeps {m : Nat} {b : State} (p : List Byte) (bad : Bool) (s : State) (hs : b.kept m s)
    (hm : Foot.sub 0x180000000000000000000000000000000000000000000000000000000888000000000000C20000090 m := by
      first | assumption | exact Foot.bit (by assumption) rfl | exact Foot.trans rfl (by assumption)) :
    b.keeps m (execCkptPacketReceived p bad s) := by
  unfold execCkptPacketReceived
  repeat' first
    | with_reducible assumption
    | with_reducible apply act_keeps
    | with_reducible apply State.packetSeen_kept
    | with_reducible apply State.setLny_kept
    | with_reducible apply State.badPacket_kept
    | with_reducible apply State.badSet_kept
    | with_reducible apply kept_ite
    | with_reducible apply keeps_ite
    | with_reducible apply State.keeps_next
    | exact Foot.bit hm rfl
    | exact Foot.trans rfl hm
    | intro x (hx : State.kept m b x)
    | intro _ x (hx : State.kept m b x)
    | intro x _ (hx : State.kept m b x)
    | intro x _ (hx : State.kept m b x.1)
    | lift_lets
    | (intro x; refine kept_cut (m := m) (b := b) (x := x) ?_ ?_ <;> [skip; (clear_value x; intro hx)])
    | (intro x; clear_value x)
    | intro _
    | refine kept_pair (by assumption) ?_
    | split

theorem execCheckpointSetReceived_keeps {m : Nat} {b : State} (s : State) (hs : b.kept m s)
    (hm : Foot.sub 0x1C0000000000000000000000000000000000000000000000000000000888000000000000C20000090 m := by
      first | assumption | exact Foot.bit (by assumption) rfl | exact Foot.trans rfl (by assumption)) :
    b.keeps m (execCheckpointSetReceived s) := by
  unfold execCheckpointSetReceived
  repeat' first
    | with_reducible assumption
    | with_reducible apply act_keeps
    | with_reducible apply State.badSet_kept
    | with_reducible apply State.count_kept
    | with_reducible apply State.wr_kept
    | with_reducible apply State.setLny_kept
    | with_reducible apply State.regionPut_kept
    | with_reducible apply kept_ite
    | with_reducible apply keeps_ite
    | with_reducible apply State.keeps_next
    | exact Foot.bit hm rfl
    | exact Foot.trans rfl hm
    | intro x (hx : State.kept m b x)
    | intro _ x (hx : State.kept m b x)
    | intro x _ (hx : State.kept m b x)
    | intro x _ (hx : State.kept m b x.1)
    | lift_lets
    | (intro x; clear_value x)
    | intro _
    | refine kept_pair (by assumption) ?_
    | split

theorem execRehearsal_keeps {m : Nat} {b : State} (faulted : Bool) (s : State) (hs : b.kept m s)
    (hm : Foot.sub 0xC0000000000000000000000000000000000000000000000000000000888000000000000C20000090 m := by
      first | assumption | exact Foot.bit (by assumption) rfl | exact Foot.trans rfl (by assumption)) :
    b.keeps m (execRehearsal faulted s) := by
  unfold execRehearsal
  repeat' first
    | with_reducible assumption
    | with_reducible apply act_keeps
    | with_reducible apply State.mateEvent_kept
    | with_reducible apply State.showSuspect_kept
    | with_reducible apply State.setLny_kept
    | with_reducible apply kept_ite
    | with_reducible apply keeps_ite
    | with_reducible apply State.keeps_next
    | exact Foot.bit hm rfl
    | exact Foot.trans rfl hm
    | intro x (hx : State.kept m b x)
    | intro _ x (hx : State.kept m b x)
    | intro x _ (hx : State.kept m b x)
    | intro x _ (hx : State.kept m b x.1)
    | lift_lets
    | (intro x; clear_value x)
    | intro _
    | refine kept_pair (by assumption) ?_
    | split

theorem execPartnerClaimChange_keeps {m : Nat} {b : State} (level : Bool) (s : State) (hs : b.kept m s)
    (hm : Foot.sub 0xC0000000000000000000000000000000000000000000000000000000888000000000000C20000098 m := by
      first | assumption | exact Foot.bit (by assumption) rfl | exact Foot.trans rfl (by assumption)) :
    b.keeps m (execPartnerClaimChange level s) := by
  unfold execPartnerClaimChange
  repeat' first
    | with_reducible assumption
    | with_reducible apply act_keeps
    | with_reducible apply State.refreshClaim_kept
    | with_reducible apply State.setLny_kept
    | with_reducible apply State.wr_kept
    | with_reducible apply kept_ite
    | exact Foot.bit hm rfl
    | exact Foot.trans rfl hm
    | intro x (hx : State.kept m b x)
    | lift_lets
    | (intro x; refine kept_cut (m := m) (b := b) (x := x) ?_ ?_ <;> [skip; (clear_value x; intro hx)])
    | (intro x; clear_value x)
    | intro _
    | with_reducible apply kept_pins

theorem State.restoreLeaf_kept {m : Nat} {b : State} (s : State) (r : RestoredLeaf) (hs : b.kept m s)
    (hm : Foot.sub 0xE000000000000088000000000000000000000000000000000888000000000000C00900090 m := by
      first | assumption | exact Foot.bit (by assumption) rfl | exact Foot.trans rfl (by assumption)) :
    b.kept m (State.restoreLeaf s r) := by
  unfold State.restoreLeaf
  repeat' first
    | with_reducible assumption
    | with_reducible apply State.setProfile_kept
    | with_reducible apply State.wr_kept
    | with_reducible apply State.setLeaf_kept
    | with_reducible apply State.setLeafState_kept
    | with_reducible apply kept_ite
    | with_reducible apply keeps_ite
    | with_reducible apply State.keeps_next
    | exact Foot.bit hm rfl
    | exact Foot.trans rfl hm
    | intro x (hx : State.kept m b x)
    | intro _ x (hx : State.kept m b x)
    | intro x _ (hx : State.kept m b x)
    | intro x _ (hx : State.kept m b x.1)
    | lift_lets
    | (intro x; refine kept_cut (m := m) (b := b) (x := x) ?_ ?_ <;> [skip; (clear_value x; intro hx)])
    | (intro x; clear_value x)
    | intro _

theorem State.restoreCommand_kept {m : Nat} {b : State} (s : State) (c : Nat × Bool × Option Nat) (hs : b.kept m s)
    (hm : Foot.sub 0x10000000000000000000000000000000000000000000000000000000000000002000000 m := by
      first | assumption | exact Foot.bit (by assumption) rfl | exact Foot.trans rfl (by assumption)) :
    b.kept m (State.restoreCommand s c) := by
  unfold State.restoreCommand
  repeat' first
    | with_reducible assumption
    | with_reducible apply State.showCmd_kept
    | with_reducible apply State.setGrp_kept
    | exact Foot.trans rfl hm

theorem State.restoreTiming_kept {m : Nat} {b : State} (s : State) (r : Restored) (hs : b.kept m s)
    (hm : Foot.sub 0x81400000000000888000000000000C00080090 m := by
      first | assumption | exact Foot.bit (by assumption) rfl | exact Foot.trans rfl (by assumption)) :
    b.kept m (State.restoreTiming s r) := by
  unfold State.restoreTiming
  repeat' first
    | with_reducible assumption
    | with_reducible apply State.wr_kept
    | with_reducible apply State.markGroup_kept
    | with_reducible apply kept_foldl
    | with_reducible apply kept_foldl_fst
    | with_reducible apply kept_ite
    | with_reducible apply keeps_ite
    | with_reducible apply State.keeps_next
    | exact Foot.bit hm rfl
    | exact Foot.trans rfl hm
    | intro x (hx : State.kept m b x)
    | intro _ x (hx : State.kept m b x)
    | intro x _ (hx : State.kept m b x)
    | intro x _ (hx : State.kept m b x.1)
    | lift_lets
    | (intro x; clear_value x)
    | intro _
    | with_reducible apply kept_halyard

theorem State.restore_kept {m : Nat} {b : State} (s : State) (r : Restored) (elapsed : Nat) (hs : b.kept m s)
    (hm : Foot.sub 0xE010000060000088000000000000000000081400000000000888000000000000C06980090 m := by
      first | assumption | exact Foot.bit (by assumption) rfl | exact Foot.trans rfl (by assumption)) :
    b.kept m (State.restore s r elapsed) := by
  unfold State.restore
  repeat' first
    | with_reducible assumption
    | with_reducible apply State.restoreLeaf_kept
    | with_reducible apply State.restoreCommand_kept
    | with_reducible apply State.wr_kept
    | with_reducible apply State.restoreTiming_kept
    | with_reducible apply State.setKc_kept
    | with_reducible apply State.setBgt_kept
    | with_reducible apply kept_foldl
    | with_reducible apply kept_foldl_fst
    | with_reducible apply kept_ite
    | with_reducible apply keeps_ite
    | with_reducible apply State.keeps_next
    | exact Foot.bit hm rfl
    | exact Foot.trans rfl hm
    | intro x (hx : State.kept m b x)
    | intro _ x (hx : State.kept m b x)
    | intro x _ (hx : State.kept m b x)
    | intro x _ (hx : State.kept m b x.1)
    | lift_lets
    | intro _

theorem execTakeoverRestoreDone_keeps {m : Nat} {b : State} (elapsed : Nat) (s : State) (hs : b.kept m s)
    (hm : Foot.sub 0xC000000E010000060000088000000000000000000081400000000000888000000000000C26980090 m := by
      first | assumption | exact Foot.bit (by assumption) rfl | exact Foot.trans rfl (by assumption)) :
    b.keeps m (execTakeoverRestoreDone elapsed s) := by
  unfold execTakeoverRestoreDone
  repeat' first
    | with_reducible assumption
    | with_reducible apply act_keeps
    | with_reducible apply State.mateEvent_kept
    | with_reducible apply State.wr_kept
    | with_reducible apply State.restore_kept
    | with_reducible apply State.setLny_kept
    | with_reducible apply kept_ite
    | with_reducible apply keeps_ite
    | with_reducible apply State.keeps_next
    | exact Foot.bit hm rfl
    | exact Foot.trans rfl hm
    | intro x (hx : State.kept m b x)
    | intro _ x (hx : State.kept m b x)
    | intro x _ (hx : State.kept m b x)
    | intro x _ (hx : State.kept m b x.1)
    | lift_lets
    | (intro x; clear_value x)
    | intro _
    | refine kept_pair (by assumption) ?_
    | split

theorem afterLanyard_kept {m : Nat} {b : State} (new : State) (hnew : b.kept m new)
    (hm : Foot.sub 0xC0000000010000000000000000000000000000000000000000000000888000000000000C20000098 m := by
      first | assumption | exact Foot.bit (by assumption) rfl | exact Foot.trans rfl (by assumption)) :
    b.kept m (afterLanyard new) := by
  unfold afterLanyard
  repeat' first
    | with_reducible assumption
    | with_reducible apply State.refreshLeaders_kept
    | with_reducible apply State.refreshClaim_kept
    | exact Foot.bit hm rfl
    | exact Foot.trans rfl hm
    | lift_lets
    | (intro x; clear_value x)
    | with_reducible apply kept_pins

theorem State.recentreData_kept {m : Nat} {b : State} (s : State) (d : Nat) (hs : b.kept m s)
    (hm : Foot.sub 0x20800000 m := by
      first | assumption | exact Foot.bit (by assumption) rfl | exact Foot.trans rfl (by assumption)) :
    b.kept m (State.recentreData s d) := by
  unfold State.recentreData
  repeat' first
    | with_reducible assumption
    | with_reducible apply State.recentreLane_kept
    | with_reducible apply State.each_kept
    | with_reducible apply State.setLny_kept
    | with_reducible apply kept_ite
    | with_reducible apply keeps_ite
    | with_reducible apply State.keeps_next
    | exact Foot.bit hm rfl
    | exact Foot.trans rfl hm
    | intro x (hx : State.kept m b x)
    | intro _ x (hx : State.kept m b x)
    | intro x _ (hx : State.kept m b x)
    | intro x _ (hx : State.kept m b x.1)
    | lift_lets
    | (intro x; clear_value x)
    | intro _

theorem execFifoRecentre_keeps {m : Nat} {b : State} (dom : ClockDom) (inFrame : Bool) (s : State) (hs : b.kept m s)
    (hm : Foot.sub 0x10000000000888000000000000C20800090 m := by
      first | assumption | exact Foot.bit (by assumption) rfl | exact Foot.trans rfl (by assumption)) :
    b.keeps m (execFifoRecentre dom inFrame s) := by
  unfold execFifoRecentre
  repeat' first
    | with_reducible assumption
    | with_reducible apply State.count_kept
    | with_reducible apply State.recentreData_kept
    | with_reducible apply State.event_kept
    | with_reducible apply kept_ite
    | with_reducible apply keeps_ite
    | with_reducible apply State.keeps_next
    | exact Foot.bit hm rfl
    | exact Foot.trans rfl hm
    | intro x (hx : State.kept m b x)
    | intro _ x (hx : State.kept m b x)
    | intro x _ (hx : State.kept m b x)
    | intro x _ (hx : State.kept m b x.1)
    | lift_lets
    | (intro x; refine kept_cut (m := m) (b := b) (x := x) ?_ ?_ <;> [skip; (clear_value x; intro hx)])
    | intro _
    | refine kept_pair (by assumption) ?_
    | split

end Sys2Proof.Machine
end

