-- ==== Sys2Proof/Laws/KeptMemory.lean ====
section
/-! SUPPORT. What every operation of Machine/Memory.lean keeps: see Laws/Kept.lean. -/

-- The proofs of the whole text do not run side by side: their memory adds up.
set_option Elab.async false

namespace Sys2Proof.Machine

open Sys2Proof

theorem State.setTly_kept {m : Nat} {b : State} (s : State) (x : TallyInt) (hs : b.kept m s)
    (hm : Foot.sub 0x100000000 m := by
      first | assumption | exact Foot.bit (by assumption) rfl | exact Foot.trans rfl (by assumption)) :
    b.kept m (State.setTly s x) := by
  unfold State.setTly
  repeat' first
    | with_reducible assumption
    | exact Foot.bit hm rfl
    | with_reducible apply kept_tally

theorem State.setSnap_kept {m : Nat} {b : State} (s : State) (n : Nat) (x : SnapInt) (hs : b.kept m s)
    (hm : Foot.sub 0x100000000 m := by
      first | assumption | exact Foot.bit (by assumption) rfl | exact Foot.trans rfl (by assumption)) :
    b.kept m (State.setSnap s n x) := by
  unfold State.setSnap
  repeat' first
    | with_reducible assumption
    | with_reducible apply State.setTly_kept

theorem State.restartDrains_kept {m : Nat} {b : State} (s : State) (e : Nat) (hs : b.kept m s)
    (hm : Foot.sub 0x100000000 m := by
      first | assumption | exact Foot.bit (by assumption) rfl | exact Foot.trans rfl (by assumption)) :
    b.kept m (State.restartDrains s e) := by
  unfold State.restartDrains
  repeat' first
    | with_reducible assumption
    | with_reducible apply State.each_kept
    | with_reducible apply State.setSnap_kept
    | with_reducible apply kept_ite
    | intro _ x (hx : State.kept m b x)
    | lift_lets
    | (intro x; clear_value x)
    | intro _

theorem State.regionChanged_kept {m : Nat} {b : State} (s : State) (e : Nat) (ready : Bool) (hs : b.kept m s)
    (hm : Foot.sub 0xE0720000000000000000000000000000000000000000000008A8000000000000D228000B0 m := by
      first | assumption | exact Foot.bit (by assumption) rfl | exact Foot.trans rfl (by assumption)) :
    b.kept m (State.regionChanged s e ready) := by
  unfold State.regionChanged
  repeat' first
    | with_reducible assumption
    | with_reducible apply State.regionGroups_kept
    | with_reducible apply State.restartDrains_kept
    | with_reducible apply State.haltRegion_kept
    | with_reducible apply State.setLny_kept
    | with_reducible apply kept_ite
    | exact Foot.trans rfl hm
    | lift_lets
    | (intro x; refine kept_cut (m := m) (b := b) (x := x) ?_ ?_ <;> [skip; (clear_value x; intro hx)])
    | (intro x; clear_value x)
    | intro _

theorem State.setRegion_kept {m : Nat} {b : State} (s : State) (e : Nat) (st : Nat) (hs : b.kept m s)
    (hm : Foot.sub 0xE072000000000000000000000000000000000000000000000AAC000000000000D228000B0 m := by
      first | assumption | exact Foot.bit (by assumption) rfl | exact Foot.trans rfl (by assumption)) :
    b.kept m (State.setRegion s e st) := by
  unfold State.setRegion
  repeat' first
    | with_reducible assumption
    | with_reducible apply State.wr_kept
    | with_reducible apply State.raise_kept
    | with_reducible apply State.regionChanged_kept
    | with_reducible apply kept_ite
    | exact Foot.bit hm rfl
    | exact Foot.trans rfl hm
    | lift_lets
    | (intro x; refine kept_cut (m := m) (b := b) (x := x) ?_ ?_ <;> [skip; (clear_value x; intro hx)])
    | (intro x; clear_value x)
    | intro _

theorem State.refreshRegion_kept {m : Nat} {b : State} (s : State) (e : Nat) (hs : b.kept m s)
    (hm : Foot.sub 0xE072000000000000000000000000000000000000000000000AAC000000000000D228000B0 m := by
      first | assumption | exact Foot.bit (by assumption) rfl | exact Foot.trans rfl (by assumption)) :
    b.kept m (State.refreshRegion s e) := by
  unfold State.refreshRegion
  repeat' first
    | with_reducible assumption
    | with_reducible apply State.setRegion_kept
    | with_reducible apply kept_ite
    | lift_lets
    | intro _

theorem State.refreshRegions_kept {m : Nat} {b : State} (s : State) (hs : b.kept m s)
    (hm : Foot.sub 0xE072000000000000000000000000000000000000000000000AAC000000000000D228000B0 m := by
      first | assumption | exact Foot.bit (by assumption) rfl | exact Foot.trans rfl (by assumption)) :
    b.kept m (State.refreshRegions s) := by
  unfold State.refreshRegions
  repeat' first
    | with_reducible assumption
    | with_reducible apply State.each_kept
    | with_reducible apply State.refreshRegion_kept
    | intro _ x (hx : State.kept m b x)

theorem State.setRegionCfg_kept {m : Nat} {b : State} (s : State) (e : Nat) (w : Nat) (v : Nat) (hs : b.kept m s)
    (hm : Foot.sub 0xE072000000000000000000000000000000000000000000000ABC000000000000D228000B0 m := by
      first | assumption | exact Foot.bit (by assumption) rfl | exact Foot.trans rfl (by assumption)) :
    b.kept m (State.setRegionCfg s e w v) := by
  unfold State.setRegionCfg
  repeat' first
    | with_reducible assumption
    | with_reducible apply State.setReg_kept
    | with_reducible apply State.refuse_kept
    | with_reducible apply State.refreshRegion_kept
    | with_reducible apply kept_ite
    | exact Foot.bit hm rfl
    | exact Foot.trans rfl hm
    | lift_lets
    | intro _

theorem State.regionCfgWrite_kept {m : Nat} {b : State} (s : State) (req : Requester) (e : Nat) (w : Nat) (v : Nat)
    (hs : b.kept m s)
    (hm : Foot.sub 0xE072000000000000000000000000000000000000000001010ABC000000000000D228008B0 m := by
      first | assumption | exact Foot.bit (by assumption) rfl | exact Foot.trans rfl (by assumption)) :
    b.kept m (State.regionCfgWrite s req e w v) := by
  unfold State.regionCfgWrite
  repeat' first
    | with_reducible assumption
    | with_reducible apply State.writeOr_kept
    | with_reducible apply State.setRegionCfg_kept
    | exact Foot.trans rfl hm
    | intro x (hx : State.kept m b x)

theorem execRegionCfgWrite_keeps {m : Nat} {b : State} (req : Requester) (e : Region) (w : Fin 4) (v : BitVec 32)
    (s : State) (hs : b.kept m s)
    (hm : Foot.sub 0xE072000000000000000000000000000000000000000001010ABC000000000000D228008B2 m := by
      first | assumption | exact Foot.bit (by assumption) rfl | exact Foot.trans rfl (by assumption)) :
    b.keeps m (execRegionCfgWrite req e w v s) := by
  unfold execRegionCfgWrite
  repeat' first
    | with_reducible assumption
    | with_reducible apply access_keeps
    | with_reducible apply State.regionCfgWrite_kept
    | exact Foot.trans rfl hm
    | intro x (hx : State.kept m b x)

theorem execRegionFillDone_keeps {m : Nat} {b : State} (e : Region) (s : State) (hs : b.kept m s)
    (hm : Foot.sub 0xE072000000000000000000000000000000000000000000000AAC000000000000D228000B0 m := by
      first | assumption | exact Foot.bit (by assumption) rfl | exact Foot.trans rfl (by assumption)) :
    b.keeps m (execRegionFillDone e s) := by
  unfold execRegionFillDone
  repeat' first
    | with_reducible assumption
    | with_reducible apply act_keeps
    | with_reducible apply State.setRegion_kept
    | with_reducible apply State.wr_kept
    | with_reducible apply kept_ite
    | exact Foot.bit hm rfl
    | intro x (hx : State.kept m b x)
    | lift_lets
    | intro _

theorem State.memDown_kept {m : Nat} {b : State} (s : State) (p : Nat) (st : Nat) (hs : b.kept m s)
    (hm : Foot.sub 0xE072000000000000000000000000000000000000000000000AAE000000000000D228000B0 m := by
      first | assumption | exact Foot.bit (by assumption) rfl | exact Foot.trans rfl (by assumption)) :
    b.kept m (State.memDown s p st) := by
  unfold State.memDown
  repeat' first
    | with_reducible assumption
    | with_reducible apply State.refreshRegions_kept
    | with_reducible apply State.setReg_kept
    | exact Foot.bit hm rfl
    | exact Foot.trans rfl hm

theorem State.memCfgWrite_kept {m : Nat} {b : State} (s : State) (req : Requester) (p : Nat) (v : Nat)
    (hs : b.kept m s)
    (hm : Foot.sub 0xE072000000000000000000000000000000000000000001010AAF000000000000D228008B0 m := by
      first | assumption | exact Foot.bit (by assumption) rfl | exact Foot.trans rfl (by assumption)) :
    b.kept m (State.memCfgWrite s req p v) := by
  unfold State.memCfgWrite
  repeat' first
    | with_reducible assumption
    | with_reducible apply State.write_kept
    | with_reducible apply State.setReg_kept
    | with_reducible apply State.memDown_kept
    | with_reducible apply State.wr_kept
    | with_reducible apply kept_ite
    | exact Foot.bit hm rfl
    | exact Foot.trans rfl hm
    | intro x (hx : State.kept m b x)
    | lift_lets
    | intro _

theorem execMemPortEnable_keeps {m : Nat} {b : State} (req : Requester) (p : MemPort) (s : State) (hs : b.kept m s)
    (hm : Foot.sub 0xE072000000000000000000000000000000000000000001010AAF000000000000D228008B2 m := by
      first | assumption | exact Foot.bit (by assumption) rfl | exact Foot.trans rfl (by assumption)) :
    b.keeps m (execMemPortEnable req p s) := by
  unfold execMemPortEnable
  repeat' first
    | with_reducible assumption
    | with_reducible apply access_keeps
    | with_reducible apply State.memCfgWrite_kept
    | exact Foot.trans rfl hm
    | intro x (hx : State.kept m b x)

theorem execMemPortDisable_keeps {m : Nat} {b : State} (req : Requester) (p : MemPort) (s : State) (hs : b.kept m s)
    (hm : Foot.sub 0xE072000000000000000000000000000000000000000001010AAF000000000000D228008B2 m := by
      first | assumption | exact Foot.bit (by assumption) rfl | exact Foot.trans rfl (by assumption)) :
    b.keeps m (execMemPortDisable req p s) := by
  unfold execMemPortDisable
  repeat' first
    | with_reducible assumption
    | with_reducible apply access_keeps
    | with_reducible apply State.memCfgWrite_kept
    | exact Foot.trans rfl hm
    | intro x (hx : State.kept m b x)

theorem execMemLinkUp_keeps {m : Nat} {b : State} (p : MemPort) (width : Nat) (speed : Nat) (flit : Bool) (s : State)
    (hs : b.kept m s) (hm : Foot.sub 0x2000000000000000000000 m := by
      first | assumption | exact Foot.bit (by assumption) rfl | exact Foot.trans rfl (by assumption)) :
    b.keeps m (execMemLinkUp p width speed flit s) := by
  unfold execMemLinkUp
  repeat' first
    | with_reducible assumption
    | with_reducible apply act_keeps
    | with_reducible apply State.wr_kept
    | with_reducible apply kept_ite
    | exact Foot.bit hm rfl
    | intro x (hx : State.kept m b x)
    | lift_lets
    | intro _

theorem State.memFault_kept {m : Nat} {b : State} (s : State) (p : Nat) (cause : Nat) (hs : b.kept m s)
    (hm : Foot.sub 0x88E000000000000C00000090 m := by
      first | assumption | exact Foot.bit (by assumption) rfl | exact Foot.trans rfl (by assumption)) :
    b.kept m (State.memFault s p cause) := by
  unfold State.memFault
  repeat' first
    | with_reducible assumption
    | with_reducible apply State.raise_kept
    | with_reducible apply State.wr_kept
    | exact Foot.bit hm rfl
    | exact Foot.trans rfl hm

theorem execEnumerationDone_keeps {m : Nat} {b : State} (p : MemPort) (capacity : Nat) (s : State) (hs : b.kept m s)
    (hm : Foot.sub 0xE072000000000000000000000000000000000000000000000AAE000000000000D228000B0 m := by
      first | assumption | exact Foot.bit (by assumption) rfl | exact Foot.trans rfl (by assumption)) :
    b.keeps m (execEnumerationDone p capacity s) := by
  unfold execEnumerationDone
  repeat' first
    | with_reducible assumption
    | with_reducible apply act_keeps
    | with_reducible apply State.wr_kept
    | with_reducible apply State.memFault_kept
    | with_reducible apply State.refreshRegions_kept
    | with_reducible apply State.raise_kept
    | with_reducible apply kept_ite
    | exact Foot.bit hm rfl
    | exact Foot.trans rfl hm
    | intro x (hx : State.kept m b x)
    | lift_lets
    | (intro x; refine kept_cut (m := m) (b := b) (x := x) ?_ ?_ <;> [skip; (clear_value x; intro hx)])
    | (intro x; clear_value x)
    | intro _

theorem execEnumerationFault_keeps {m : Nat} {b : State} (p : MemPort) (cause : Fin 4) (s : State) (hs : b.kept m s)
    (hm : Foot.sub 0x88E000000000000C00000090 m := by
      first | assumption | exact Foot.bit (by assumption) rfl | exact Foot.trans rfl (by assumption)) :
    b.keeps m (execEnumerationFault p cause s) := by
  unfold execEnumerationFault
  repeat' first
    | with_reducible assumption
    | with_reducible apply act_keeps
    | with_reducible apply State.memFault_kept
    | with_reducible apply kept_ite
    | intro x (hx : State.kept m b x)
    | lift_lets
    | intro _

theorem execMemPortFaultRetry_keeps {m : Nat} {b : State} (p : MemPort) (s : State) (hs : b.kept m s)
    (hm : Foot.sub 0xE072000000000000000000000000000000000000000000000AAE000000000000D228000B0 m := by
      first | assumption | exact Foot.bit (by assumption) rfl | exact Foot.trans rfl (by assumption)) :
    b.keeps m (execMemPortFaultRetry p s) := by
  unfold execMemPortFaultRetry
  repeat' first
    | with_reducible assumption
    | with_reducible apply act_keeps
    | with_reducible apply State.memDown_kept
    | with_reducible apply kept_ite
    | intro x (hx : State.kept m b x)
    | lift_lets
    | intro _

theorem execMemLinkDown_keeps {m : Nat} {b : State} (p : MemPort) (s : State) (hs : b.kept m s)
    (hm : Foot.sub 0xE072000000000000000000000000000000000000000000000AAE000000000000D228000B0 m := by
      first | assumption | exact Foot.bit (by assumption) rfl | exact Foot.trans rfl (by assumption)) :
    b.keeps m (execMemLinkDown p s) := by
  unfold execMemLinkDown
  repeat' first
    | with_reducible assumption
    | with_reducible apply act_keeps
    | with_reducible apply State.raise_kept
    | with_reducible apply State.memDown_kept
    | with_reducible apply kept_ite
    | exact Foot.bit hm rfl
    | exact Foot.trans rfl hm
    | intro x (hx : State.kept m b x)
    | lift_lets
    | intro _

theorem State.markCopy_kept {m : Nat} {b : State} (s : State) (g : Nat) (q : Nat) (j : Nat) (hs : b.kept m s)
    (hm : Foot.sub 0x2000000 m := by
      first | assumption | exact Foot.bit (by assumption) rfl | exact Foot.trans rfl (by assumption)) :
    b.kept m (State.markCopy s g q j) := by
  unfold State.markCopy
  repeat' first
    | with_reducible assumption
    | with_reducible apply State.setGrp_kept

theorem State.poisonUser_kept {m : Nat} {b : State} (s : State) (a1 : PoisonUser) (hs : b.kept m s)
    (hm : Foot.sub 0x180000000000000000000000000000000000000000000000001B014D88A8000000000000C22001AB2 m := by
      first | assumption | exact Foot.bit (by assumption) rfl | exact Foot.trans rfl (by assumption)) :
    b.kept m (State.poisonUser s a1) := by
  unfold State.poisonUser
  repeat' first
    | with_reducible assumption
    | with_reducible apply State.markCopy_kept
    | with_reducible apply State.haltRings_kept
    | with_reducible apply State.setLny_kept
    | with_reducible apply State.mateEvent_kept
    | with_reducible apply State.count_kept
    | with_reducible apply State.dataError_kept
    | exact Foot.bit hm rfl
    | exact Foot.trans rfl hm
    | lift_lets
    | (intro x; refine kept_cut (m := m) (b := b) (x := x) ?_ ?_ <;> [skip; (clear_value x; intro hx)])
    | (intro x; clear_value x)
    | split

theorem State.notReadyUser_kept {m : Nat} {b : State} (s : State) (a1 : PoisonUser) (hs : b.kept m s)
    (hm : Foot.sub 0x1B014D8888000000000000C00001A92 m := by
      first | assumption | exact Foot.bit (by assumption) rfl | exact Foot.trans rfl (by assumption)) :
    b.kept m (State.notReadyUser s a1) := by
  unfold State.notReadyUser
  repeat' first
    | with_reducible assumption
    | with_reducible apply State.dataError_kept
    | with_reducible apply kept_ite
    | with_reducible apply keeps_ite
    | with_reducible apply State.keeps_next
    | exact Foot.bit hm rfl
    | exact Foot.trans rfl hm
    | intro x (hx : State.kept m b x)
    | intro _ x (hx : State.kept m b x)
    | intro x _ (hx : State.kept m b x)
    | intro x _ (hx : State.kept m b x.1)
    | lift_lets
    | intro _
    | refine kept_pair (by assumption) ?_
    | split

theorem execPoisonRead_keeps {m : Nat} {b : State} (e : Region) (off : Nat) (user : PoisonUser) (s : State)
    (hs : b.kept m s)
    (hm : Foot.sub 0x18000000E072000000000000000000000000000000000000001B014D8AAC000000000000D22805AB2 m := by
      first | assumption | exact Foot.bit (by assumption) rfl | exact Foot.trans rfl (by assumption)) :
    b.keeps m (execPoisonRead e off user s) := by
  unfold execPoisonRead
  repeat' first
    | with_reducible assumption
    | with_reducible apply act_keeps
    | with_reducible apply State.notReadyUser_kept
    | with_reducible apply State.notReadyRead_kept
    | with_reducible apply State.count_kept
    | with_reducible apply State.inc_kept
    | with_reducible apply State.poisonUser_kept
    | with_reducible apply State.raise_kept
    | with_reducible apply State.setRegion_kept
    | with_reducible apply kept_ite
    | with_reducible apply keeps_ite
    | with_reducible apply State.keeps_next
    | exact Foot.bit hm rfl
    | exact Foot.trans rfl hm
    | intro x (hx : State.kept m b x)
    | intro _ x (hx : State.kept m b x)
    | intro x _ (hx : State.kept m b x)
    | intro x _ (hx : State.kept m b x.1)
    | lift_lets
    | intro _
    | with_reducible apply kept_mem

theorem execPartnerDataLoss_keeps {m : Nat} {b : State} (p : MemPort) (lo : Nat) (hi : Nat) (s : State)
    (hs : b.kept m s)
    (hm : Foot.sub 0xE072000000000000000000000000000000000000000000000AAC000000000000D228000B0 m := by
      first | assumption | exact Foot.bit (by assumption) rfl | exact Foot.trans rfl (by assumption)) :
    b.keeps m (execPartnerDataLoss p lo hi s) := by
  unfold execPartnerDataLoss
  repeat' first
    | with_reducible assumption
    | with_reducible apply act_keeps
    | with_reducible apply State.each_kept
    | with_reducible apply State.setRegion_kept
    | with_reducible apply kept_ite
    | intro x (hx : State.kept m b x)
    | intro _ x (hx : State.kept m b x)
    | lift_lets
    | intro _

theorem execRegionStatus_keeps {m : Nat} {b : State} (h : Nat) (s : State) (hs : b.kept m s)
    (hm : Foot.sub 0x1010888000000000000C000008B0 m := by
      first | assumption | exact Foot.bit (by assumption) rfl | exact Foot.trans rfl (by assumption)) :
    b.keeps m (execRegionStatus h s) := by
  unfold execRegionStatus
  repeat' first
    | with_reducible assumption
    | with_reducible apply ospin_keeps
    | with_reducible apply State.finish_kept
    | exact Foot.trans rfl hm
    | intro _ x (hx : State.kept m b x)

theorem execRegionRefill_keeps {m : Nat} {b : State} (h : Nat) (s : State) (hs : b.kept m s)
    (hm : Foot.sub 0xE072000000000000000000000000000000000000000001010AAC000000000000D228008B0 m := by
      first | assumption | exact Foot.bit (by assumption) rfl | exact Foot.trans rfl (by assumption)) :
    b.keeps m (execRegionRefill h s) := by
  unfold execRegionRefill
  repeat' first
    | with_reducible assumption
    | with_reducible apply ospin_keeps
    | with_reducible apply State.finish_kept
    | with_reducible apply State.setRegion_kept
    | with_reducible apply kept_ite
    | exact Foot.trans rfl hm
    | intro _ x (hx : State.kept m b x)
    | lift_lets
    | (intro x; refine kept_cut (m := m) (b := b) (x := x) ?_ ?_ <;> [skip; (clear_value x; intro hx)])
    | intro _

theorem execPoisonList_keeps {m : Nat} {b : State} (h : Nat) (s : State) (hs : b.kept m s)
    (hm : Foot.sub 0x1010888000000000000C000008B0 m := by
      first | assumption | exact Foot.bit (by assumption) rfl | exact Foot.trans rfl (by assumption)) :
    b.keeps m (execPoisonList h s) := by
  unfold execPoisonList
  repeat' first
    | with_reducible assumption
    | with_reducible apply ospin_keeps
    | with_reducible apply State.finish_kept
    | with_reducible apply kept_ite
    | exact Foot.trans rfl hm
    | intro _ x (hx : State.kept m b x)
    | lift_lets
    | (intro x; clear_value x)
    | intro _

theorem execWhipStatus_keeps {m : Nat} {b : State} (h : Nat) (s : State) (hs : b.kept m s)
    (hm : Foot.sub 0x1010888000000000000C000008B0 m := by
      first | assumption | exact Foot.bit (by assumption) rfl | exact Foot.trans rfl (by assumption)) :
    b.keeps m (execWhipStatus h s) := by
  unfold execWhipStatus
  repeat' first
    | with_reducible assumption
    | with_reducible apply ospin_keeps
    | with_reducible apply State.finish_kept
    | with_reducible apply kept_ite
    | exact Foot.trans rfl hm
    | intro _ x (hx : State.kept m b x)
    | lift_lets
    | intro _

theorem State.memorySecond_kept {m : Nat} {b : State} (s : State) (hs : b.kept m s) (hm : Foot.sub 0x4000 m := by
      first | assumption | exact Foot.bit (by assumption) rfl | exact Foot.trans rfl (by assumption)) :
    b.kept m (State.memorySecond s) := by
  unfold State.memorySecond
  repeat' first
    | with_reducible assumption
    | exact Foot.bit hm rfl
    | lift_lets
    | (intro x; clear_value x)
    | with_reducible apply kept_mem

end Sys2Proof.Machine
end

