-- ==== Sys2Proof/Laws/KeptFathom.lean ====
section
/-! SUPPORT. What every operation of Machine/Fathom.lean keeps: see Laws/Kept.lean. -/

-- The proofs of the whole text do not run side by side: their memory adds up.
set_option Elab.async false

namespace Sys2Proof.Machine

open Sys2Proof

theorem State.setFth_kept {m : Nat} {b : State} (s : State) (x : FathomInt) (hs : b.kept m s)
    (hm : Foot.sub 0x200000000 m := by
      first | assumption | exact Foot.bit (by assumption) rfl | exact Foot.trans rfl (by assumption)) :
    b.kept m (State.setFth s x) := by
  unfold State.setFth
  repeat' first
    | with_reducible assumption
    | exact Foot.bit hm rfl
    | with_reducible apply kept_fathom

theorem State.countDump_kept {m : Nat} {b : State} (s : State) (t : DumpTick) (hs : b.kept m s)
    (hm : Foot.sub 0x2000000000000000000000000000000020 m := by
      first | assumption | exact Foot.bit (by assumption) rfl | exact Foot.trans rfl (by assumption)) :
    b.kept m (State.countDump s t) := by
  unfold State.countDump
  repeat' first
    | with_reducible assumption
    | with_reducible apply State.incWrap_kept
    | with_reducible apply State.finish_kept
    | exact Foot.bit hm rfl
    | exact Foot.trans rfl hm
    | lift_lets
    | (intro x; refine kept_cut (m := m) (b := b) (x := x) ?_ ?_ <;> [skip; (clear_value x; intro hx)])
    | (intro x; clear_value x)
    | split

theorem State.startDump_kept {m : Nat} {b : State} (s : State) (t : DumpTick) (hs : b.kept m s)
    (hm : Foot.sub 0xA200000000888000000000000E000000B0 m := by
      first | assumption | exact Foot.bit (by assumption) rfl | exact Foot.trans rfl (by assumption)) :
    b.kept m (State.startDump s t) := by
  unfold State.startDump
  repeat' first
    | with_reducible assumption
    | with_reducible apply State.draw_kept
    | with_reducible apply State.each_kept
    | with_reducible apply State.setReg_kept
    | with_reducible apply State.wr_kept
    | with_reducible apply State.setFth_kept
    | with_reducible apply State.countDump_kept
    | with_reducible apply State.raise_kept
    | with_reducible apply State.inc_kept
    | with_reducible apply kept_ite
    | exact Foot.bit hm rfl
    | exact Foot.trans rfl hm
    | intro _ x (hx : State.kept m b x)
    | lift_lets
    | (intro x; clear_value x)
    | intro _

theorem State.dumpTick_kept {m : Nat} {b : State} (s : State) (t : DumpTick) (hs : b.kept m s)
    (hm : Foot.sub 0xA200000000888000000000000E000000B0 m := by
      first | assumption | exact Foot.bit (by assumption) rfl | exact Foot.trans rfl (by assumption)) :
    b.kept m (State.dumpTick s t) := by
  unfold State.dumpTick
  repeat' first
    | with_reducible assumption
    | with_reducible apply State.startDump_kept
    | with_reducible apply State.wr_kept
    | with_reducible apply State.setFth_kept
    | with_reducible apply State.raise_kept
    | with_reducible apply State.inc_kept
    | with_reducible apply kept_ite
    | exact Foot.bit hm rfl
    | exact Foot.trans rfl hm
    | lift_lets
    | (intro x; clear_value x)
    | intro _

theorem execDumpTick_keeps {m : Nat} {b : State} (s : State) (hs : b.kept m s)
    (hm : Foot.sub 0xA200000000888000000000000E000000B0 m := by
      first | assumption | exact Foot.bit (by assumption) rfl | exact Foot.trans rfl (by assumption)) :
    b.keeps m (execDumpTick s) := by
  unfold execDumpTick
  repeat' first
    | with_reducible assumption
    | with_reducible apply act_keeps
    | with_reducible apply State.dumpTick_kept
    | with_reducible apply kept_ite
    | intro x (hx : State.kept m b x)
    | lift_lets
    | intro _

theorem execDumpDone_keeps {m : Nat} {b : State} (s : State) (hs : b.kept m s)
    (hm : Foot.sub 0xA200000000888000000000000E000000B0 m := by
      first | assumption | exact Foot.bit (by assumption) rfl | exact Foot.trans rfl (by assumption)) :
    b.keeps m (execDumpDone s) := by
  unfold execDumpDone
  repeat' first
    | with_reducible assumption
    | with_reducible apply act_keeps
    | with_reducible apply State.streamPut_kept
    | with_reducible apply State.inc_kept
    | with_reducible apply State.countDump_kept
    | with_reducible apply State.wr_kept
    | with_reducible apply State.setFth_kept
    | with_reducible apply State.startDump_kept
    | with_reducible apply kept_foldl
    | with_reducible apply kept_ite
    | exact Foot.bit hm rfl
    | exact Foot.trans rfl hm
    | intro x (hx : State.kept m b x)
    | intro x _ (hx : State.kept m b x)
    | lift_lets
    | (intro x; refine kept_cut (m := m) (b := b) (x := x) ?_ ?_ <;> [skip; (clear_value x; intro hx)])
    | (intro x; clear_value x)
    | intro _
    | split

theorem execCntDump_keeps {m : Nat} {b : State} (h : Nat) (s : State) (hs : b.kept m s)
    (hm : Foot.sub 0xA200001010888000000000000E000008B0 m := by
      first | assumption | exact Foot.bit (by assumption) rfl | exact Foot.trans rfl (by assumption)) :
    b.keeps m (execCntDump h s) := by
  unfold execCntDump
  repeat' first
    | with_reducible assumption
    | with_reducible apply ospin_keeps
    | with_reducible apply State.finish_kept
    | with_reducible apply State.dumpTick_kept
    | with_reducible apply kept_ite
    | exact Foot.trans rfl hm
    | intro _ x (hx : State.kept m b x)
    | lift_lets
    | intro _

theorem execCntStatus_keeps {m : Nat} {b : State} (h : Nat) (s : State) (hs : b.kept m s)
    (hm : Foot.sub 0x1010888000000000000C000008B0 m := by
      first | assumption | exact Foot.bit (by assumption) rfl | exact Foot.trans rfl (by assumption)) :
    b.keeps m (execCntStatus h s) := by
  unfold execCntStatus
  repeat' first
    | with_reducible assumption
    | with_reducible apply ospin_keeps
    | with_reducible apply State.finish_kept
    | exact Foot.trans rfl hm
    | intro _ x (hx : State.kept m b x)

theorem State.bwWindow_kept {m : Nat} {b : State} (s : State) (p : Nat) (rd : Nat) (wr : Nat) (hs : b.kept m s)
    (hm : Foot.sub 0x4C000000000000000000000000000000000 m := by
      first | assumption | exact Foot.bit (by assumption) rfl | exact Foot.trans rfl (by assumption)) :
    b.kept m (State.bwWindow s p rd wr) := by
  unfold State.bwWindow
  repeat' first
    | with_reducible assumption
    | with_reducible apply State.count_kept
    | with_reducible apply State.wr_kept
    | exact Foot.bit hm rfl

theorem State.portBytes_kept {m : Nat} {b : State} (s : State) (p : Nat) (rd : Nat) (wr : Nat) (hs : b.kept m s)
    (hm : Foot.sub 0x8000000000000000000000 m := by
      first | assumption | exact Foot.bit (by assumption) rfl | exact Foot.trans rfl (by assumption)) :
    b.kept m (State.portBytes s p rd wr) := by
  unfold State.portBytes
  repeat' first
    | with_reducible assumption
    | with_reducible apply State.count_kept
    | with_reducible apply kept_ite
    | with_reducible apply keeps_ite
    | with_reducible apply State.keeps_next
    | exact Foot.bit hm rfl
    | exact Foot.trans rfl hm
    | intro x (hx : State.kept m b x)
    | intro _ x (hx : State.kept m b x)
    | intro x _ (hx : State.kept m b x)
    | intro x _ (hx : State.kept m b x.1)
    | lift_lets
    | intro _

theorem execBwWindowEnd_keeps {m : Nat} {b : State} (rd0 : Nat) (wr0 : Nat) (rd1 : Nat) (wr1 : Nat) (rd2 : Nat)
    (wr2 : Nat) (s : State) (hs : b.kept m s) (hm : Foot.sub 0x4C000000000008000000000000000000000 m := by
      first | assumption | exact Foot.bit (by assumption) rfl | exact Foot.trans rfl (by assumption)) :
    b.keeps m (execBwWindowEnd rd0 wr0 rd1 wr1 rd2 wr2 s) := by
  unfold execBwWindowEnd
  repeat' first
    | with_reducible assumption
    | with_reducible apply act_keeps
    | with_reducible apply State.bwWindow_kept
    | with_reducible apply State.portBytes_kept
    | with_reducible apply kept_ite
    | with_reducible apply keeps_ite
    | with_reducible apply State.keeps_next
    | exact Foot.bit hm rfl
    | exact Foot.trans rfl hm
    | intro x (hx : State.kept m b x)

theorem execInstructionSample_keeps {m : Nat} {b : State} (k : Core) (stalled : Bool) (pc : BitVec 64)
    (cycle : BitVec 64) (skid : Fin 3) (s : State) (hs : b.kept m s) (hm : Foot.sub 0x808000000000000A00000090 m := by
      first | assumption | exact Foot.bit (by assumption) rfl | exact Foot.trans rfl (by assumption))
    :
    b.keeps m (execInstructionSample k stalled pc cycle skid s) := by
  unfold execInstructionSample
  repeat' first
    | with_reducible assumption
    | with_reducible apply act_keeps
    | with_reducible apply State.setFth_kept
    | with_reducible apply State.streamPut_kept
    | with_reducible apply kept_ite
    | exact Foot.trans rfl hm
    | intro x (hx : State.kept m b x)
    | lift_lets
    | (intro x; refine kept_cut (m := m) (b := b) (x := x) ?_ ?_ <;> [skip; (clear_value x; intro hx)])
    | (intro x; clear_value x)
    | intro _

end Sys2Proof.Machine
end

