-- ==== Sys2Proof/Laws/KeptTally.lean ====
section
/-! SUPPORT. What every operation of Machine/Tally.lean keeps: see Laws/Kept.lean. -/

-- The proofs of the whole text do not run side by side: their memory adds up.
set_option Elab.async false

namespace Sys2Proof.Machine

open Sys2Proof

theorem State.applyDue_kept {m : Nat} {b : State} (s : State) (hs : b.kept m s)
    (hm : Foot.sub (allRegs ||| 0x100000000) m := by
      first | assumption | exact Foot.bit (by assumption) rfl | exact Foot.trans rfl (by assumption)) :
    b.kept m (State.applyDue s) := by
  unfold State.applyDue
  split
  · exact hs
  · refine State.setTly_kept _ _ (kept_allRegs _ hs ?_)
    exact RegStore.wf_foldl_put _ _ (fun _ _ h => RegStore.wf_put _ _ _ h) _

theorem State.startSequence_kept {m : Nat} {b : State} (s : State) (hs : b.kept m s)
    (hm : Foot.sub 0x800000000000000000000000000000000000100000000 m := by
      first | assumption | exact Foot.bit (by assumption) rfl | exact Foot.trans rfl (by assumption)) :
    b.kept m (State.startSequence s) := by
  unfold State.startSequence
  repeat' first
    | with_reducible assumption
    | with_reducible apply State.setTly_kept
    | with_reducible apply State.incWrap_kept
    | with_reducible apply State.wr_kept
    | exact Foot.bit hm rfl
    | exact Foot.trans rfl hm

theorem State.monTrigger_kept {m : Nat} {b : State} (s : State) (a1 : Nat) (hs : b.kept m s)
    (hm : Foot.sub 0x810000000000000000000888000000000000D00000090 m := by
      first | assumption | exact Foot.bit (by assumption) rfl | exact Foot.trans rfl (by assumption)) :
    b.kept m (State.monTrigger s a1) := by
  unfold State.monTrigger
  repeat' first
    | with_reducible assumption
    | with_reducible apply State.startSequence_kept
    | with_reducible apply State.wr_kept
    | with_reducible apply State.inc_kept
    | with_reducible apply State.event_kept
    | with_reducible apply State.setTly_kept
    | with_reducible apply kept_ite
    | exact Foot.bit hm rfl
    | exact Foot.trans rfl hm
    | lift_lets
    | (intro x; refine kept_cut (m := m) (b := b) (x := x) ?_ ?_ <;> [skip; (clear_value x; intro hx)])
    | (intro x; clear_value x)
    | intro _

theorem State.endSequence_kept {m : Nat} {b : State} (s : State) (hs : b.kept m s)
    (hm : Foot.sub (allRegs ||| 0x100000000) m := by
      first | assumption | exact Foot.bit (by assumption) rfl | exact Foot.trans rfl (by assumption)) :
    b.kept m (State.endSequence s) := by
  unfold State.endSequence
  repeat' first
    | with_reducible assumption
    | with_reducible apply State.applyDue_kept
    | with_reducible apply State.wr_kept
    | with_reducible apply State.startSequence_kept
    | with_reducible apply kept_ite
    | exact Foot.bit hm rfl
    | exact Foot.trans rfl hm
    | lift_lets
    | intro _

theorem State.noteOver_kept {m : Nat} {b : State} (s : State) (input : Nat) (l : List Sample) (hs : b.kept m s)
    (hm : Foot.sub 0x10000000000000000000888000000000000D00000090 m := by
      first | assumption | exact Foot.bit (by assumption) rfl | exact Foot.trans rfl (by assumption)) :
    b.kept m (State.noteOver s input l) := by
  unfold State.noteOver
  repeat' first
    | with_reducible assumption
    | with_reducible apply State.raise_kept
    | with_reducible apply State.setTly_kept
    | with_reducible apply kept_ite
    | exact Foot.bit hm rfl
    | exact Foot.trans rfl hm
    | lift_lets
    | (intro x; clear_value x)
    | intro _

theorem State.noteReference_kept {m : Nat} {b : State} (s : State) (x : Sample) (hs : b.kept m s)
    (hm : Foot.sub 0x810000000000000000000888000000000000C00000090 m := by
      first | assumption | exact Foot.bit (by assumption) rfl | exact Foot.trans rfl (by assumption)) :
    b.kept m (State.noteReference s x) := by
  unfold State.noteReference
  repeat' first
    | with_reducible assumption
    | with_reducible apply State.raise_kept
    | with_reducible apply State.wr_kept
    | with_reducible apply kept_ite
    | exact Foot.bit hm rfl
    | exact Foot.trans rfl hm
    | lift_lets
    | intro _

theorem State.takeStep_kept {m : Nat} {b : State} (s : State) (id : RegId) (step : Nat) (samples : List (List Sample))
    (hs : b.kept m s) (hm : Foot.sub 0x810000000000000000000888000000000000D00000090 m := by
      first | assumption | exact Foot.bit (by assumption) rfl | exact Foot.trans rfl (by assumption))
    (hmid : m.testBit (regBit id) = true := by
      first | assumption | exact Foot.bit (by assumption) rfl | exact Foot.trans rfl (by assumption)) :
    b.kept m (State.takeStep s id step samples) := by
  unfold State.takeStep
  repeat' first
    | with_reducible assumption
    | with_reducible apply State.each_kept
    | with_reducible apply State.noteOver_kept
    | with_reducible apply State.setReg_kept
    | with_reducible apply State.noteReference_kept
    | with_reducible apply kept_foldl
    | with_reducible apply kept_ite
    | exact Foot.trans rfl hm
    | intro _ x (hx : State.kept m b x)
    | intro x _ (hx : State.kept m b x)
    | lift_lets
    | intro _

theorem State.monRecord_kept {m : Nat} {b : State} (s : State) (urgent : Bool) (entry : Nat) (since : Nat)
    (step : Nat) (samples : List (List Sample)) (hs : b.kept m s) (hm : Foot.sub 0x808000000000000C00000090 m := by
      first | assumption | exact Foot.bit (by assumption) rfl | exact Foot.trans rfl (by assumption)) :
    b.kept m (State.monRecord s urgent entry since step samples) := by
  unfold State.monRecord
  repeat' first
    | with_reducible assumption
    | with_reducible apply State.draw_kept
    | with_reducible apply State.streamPut_kept
    | exact Foot.trans rfl hm

theorem execMonStepDone_keeps {m : Nat} {b : State} (samples : List (List Sample)) (s : State) (hs : b.kept m s)
    (hm : Foot.sub (allRegs ||| 0xD00000090) m := by
      first | assumption | exact Foot.bit (by assumption) rfl | exact Foot.trans rfl (by assumption)) :
    b.keeps m (execMonStepDone samples s) := by
  unfold execMonStepDone
  repeat' first
    | with_reducible assumption
    | with_reducible apply act_keeps
    | with_reducible apply State.takeStep_kept
    | with_reducible apply State.monRecord_kept
    | with_reducible apply State.endSequence_kept
    | with_reducible apply State.setTly_kept
    | with_reducible apply State.wr_kept
    | with_reducible apply kept_ite
    | exact Foot.bit hm rfl
    | exact Foot.trans rfl hm
    | intro x (hx : State.kept m b x)
    | lift_lets
    | (intro x; refine kept_cut (m := m) (b := b) (x := x) ?_ ?_ <;> [skip; (clear_value x; intro hx)])
    | (intro x; clear_value x)
    | intro _

theorem State.monCtlWrite_kept {m : Nat} {b : State} (s : State) (req : Requester) (v : Nat) (hs : b.kept m s)
    (hm : Foot.sub 0x810000000000000001010888000000000000D00000890 m := by
      first | assumption | exact Foot.bit (by assumption) rfl | exact Foot.trans rfl (by assumption)) :
    b.kept m (State.monCtlWrite s req v) := by
  unfold State.monCtlWrite
  repeat' first
    | with_reducible assumption
    | with_reducible apply State.write_kept
    | with_reducible apply State.monTrigger_kept
    | with_reducible apply kept_ite
    | exact Foot.trans rfl hm
    | intro x (hx : State.kept m b x)
    | lift_lets
    | intro _

theorem execMonTrig_keeps {m : Nat} {b : State} (req : Requester) (s : State) (hs : b.kept m s)
    (hm : Foot.sub 0x810000000000000001010888000000000000D00000892 m := by
      first | assumption | exact Foot.bit (by assumption) rfl | exact Foot.trans rfl (by assumption)) :
    b.keeps m (execMonTrig req s) := by
  unfold execMonTrig
  repeat' first
    | with_reducible assumption
    | with_reducible apply access_keeps
    | with_reducible apply State.monCtlWrite_kept
    | exact Foot.trans rfl hm
    | intro x (hx : State.kept m b x)

theorem execMonTimerTrigger_keeps {m : Nat} {b : State} (s : State) (hs : b.kept m s)
    (hm : Foot.sub 0x810000000000000000000888000000000000D00000090 m := by
      first | assumption | exact Foot.bit (by assumption) rfl | exact Foot.trans rfl (by assumption)) :
    b.keeps m (execMonTimerTrigger s) := by
  unfold execMonTimerTrigger
  repeat' first
    | with_reducible assumption
    | with_reducible apply act_keeps
    | with_reducible apply State.monTrigger_kept
    | with_reducible apply kept_ite
    | intro x (hx : State.kept m b x)
    | lift_lets
    | intro _

theorem State.urgentStart_kept {m : Nat} {b : State} (s : State) (step : Nat) (cmd : Option Nat) (hs : b.kept m s)
    (hm : Foot.sub 0x800000000000000000000000000000000000100000000 m := by
      first | assumption | exact Foot.bit (by assumption) rfl | exact Foot.trans rfl (by assumption)) :
    b.kept m (State.urgentStart s step cmd) := by
  unfold State.urgentStart
  repeat' first
    | with_reducible assumption
    | with_reducible apply State.wr_kept
    | with_reducible apply State.setTly_kept
    | exact Foot.bit hm rfl
    | exact Foot.trans rfl hm

theorem State.urgWrite_kept {m : Nat} {b : State} (s : State) (req : Requester) (v : Nat) (hs : b.kept m s)
    (hm : Foot.sub 0xC00000000000000001010888000000000000D00000890 m := by
      first | assumption | exact Foot.bit (by assumption) rfl | exact Foot.trans rfl (by assumption)) :
    b.kept m (State.urgWrite s req v) := by
  unfold State.urgWrite
  repeat' first
    | with_reducible assumption
    | with_reducible apply State.write_kept
    | with_reducible apply State.wr_kept
    | with_reducible apply State.inc_kept
    | with_reducible apply State.urgentStart_kept
    | with_reducible apply kept_ite
    | exact Foot.bit hm rfl
    | exact Foot.trans rfl hm
    | intro x (hx : State.kept m b x)
    | lift_lets
    | intro _

theorem execUrgGo_keeps {m : Nat} {b : State} (req : Requester) (step : BitVec 27) (s : State) (hs : b.kept m s)
    (hm : Foot.sub 0xC00000000000000001010888000000000000D00000892 m := by
      first | assumption | exact Foot.bit (by assumption) rfl | exact Foot.trans rfl (by assumption)) :
    b.keeps m (execUrgGo req step s) := by
  unfold execUrgGo
  repeat' first
    | with_reducible assumption
    | with_reducible apply access_keeps
    | with_reducible apply State.urgWrite_kept
    | exact Foot.trans rfl hm
    | intro x (hx : State.kept m b x)

theorem execMonUrgent_keeps {m : Nat} {b : State} (h : Nat) (s : State) (hs : b.kept m s)
    (hm : Foot.sub 0x800000000000000001010888000000000000D000008B0 m := by
      first | assumption | exact Foot.bit (by assumption) rfl | exact Foot.trans rfl (by assumption)) :
    b.keeps m (execMonUrgent h s) := by
  unfold execMonUrgent
  repeat' first
    | with_reducible assumption
    | with_reducible apply ospin_keeps
    | with_reducible apply State.finish_kept
    | with_reducible apply State.urgentStart_kept
    | with_reducible apply kept_ite
    | exact Foot.trans rfl hm
    | intro _ x (hx : State.kept m b x)
    | lift_lets
    | intro _

theorem execUrgentStepDone_keeps {m : Nat} {b : State} (samples : List (List Sample)) (s : State) (hs : b.kept m s)
    (hm : Foot.sub 0x2C10000000000000000000888000000000000D000000B0 m := by
      first | assumption | exact Foot.bit (by assumption) rfl | exact Foot.trans rfl (by assumption)) :
    b.keeps m (execUrgentStepDone samples s) := by
  unfold execUrgentStepDone
  repeat' first
    | with_reducible assumption
    | with_reducible apply act_keeps
    | with_reducible apply State.wr_kept
    | with_reducible apply State.setTly_kept
    | with_reducible apply State.takeStep_kept
    | with_reducible apply State.monRecord_kept
    | with_reducible apply State.finish_kept
    | with_reducible apply kept_ite
    | exact Foot.bit hm rfl
    | exact Foot.trans rfl hm
    | intro x (hx : State.kept m b x)
    | lift_lets
    | (intro x; refine kept_cut (m := m) (b := b) (x := x) ?_ ?_ <;> [skip; (clear_value x; intro hx)])
    | (intro x; clear_value x)
    | intro _
    | split

theorem State.takeSensor_kept {m : Nat} {b : State} (s : State) (i : Nat) (r : Int) (others : List Int)
    (hs : b.kept m s) (hm : Foot.sub 0x8010000000000000000000888000000000000D00000090 m := by
      first | assumption | exact Foot.bit (by assumption) rfl | exact Foot.trans rfl (by assumption)) :
    b.kept m (State.takeSensor s i r others) := by
  unfold State.takeSensor
  repeat' first
    | with_reducible assumption
    | with_reducible apply State.setTly_kept
    | with_reducible apply State.setReg_kept
    | with_reducible apply State.raise_kept
    | with_reducible apply kept_ite
    | exact Foot.bit hm rfl
    | exact Foot.trans rfl hm
    | lift_lets
    | (intro x; clear_value x)
    | intro _

theorem execThermalScan_keeps {m : Nat} {b : State} (readings : List Int) (s : State) (hs : b.kept m s)
    (hm : Foot.sub 0x8010000000000000000000888000000000000D00000090 m := by
      first | assumption | exact Foot.bit (by assumption) rfl | exact Foot.trans rfl (by assumption)) :
    b.keeps m (execThermalScan readings s) := by
  unfold execThermalScan
  repeat' first
    | with_reducible assumption
    | with_reducible apply act_keeps
    | with_reducible apply State.each_kept
    | with_reducible apply State.takeSensor_kept
    | with_reducible apply State.setTly_kept
    | with_reducible apply State.raise_kept
    | with_reducible apply kept_ite
    | exact Foot.bit hm rfl
    | exact Foot.trans rfl hm
    | intro x (hx : State.kept m b x)
    | intro _ x (hx : State.kept m b x)
    | lift_lets
    | (intro x; refine kept_cut (m := m) (b := b) (x := x) ?_ ?_ <;> [skip; (clear_value x; intro hx)])
    | (intro x; clear_value x)
    | intro _

theorem State.triggerLine_kept {m : Nat} {b : State} (s : State) (n : Nat) (fired : Nat) (held : Nat) (seconds : Nat)
    (ns : Nat) (hs : b.kept m s) (hm : Foot.sub 0x4000000000000000000000000000000000100000000 m := by
      first | assumption | exact Foot.bit (by assumption) rfl | exact Foot.trans rfl (by assumption)) :
    b.kept m (State.triggerLine s n fired held seconds ns) := by
  unfold State.triggerLine
  repeat' first
    | with_reducible assumption
    | with_reducible apply State.setSnap_kept
    | with_reducible apply State.wr_kept
    | exact Foot.bit hm rfl
    | exact Foot.trans rfl hm

theorem State.commonTrigger_kept {m : Nat} {b : State} (s : State) (fired : Nat) (held : Nat → Nat) (hs : b.kept m s)
    (hm : Foot.sub 0x814000000000000000000888000000000000D00000090 m := by
      first | assumption | exact Foot.bit (by assumption) rfl | exact Foot.trans rfl (by assumption)) :
    b.kept m (State.commonTrigger s fired held).1 := by
  unfold State.commonTrigger
  repeat' first
    | with_reducible assumption
    | with_reducible apply State.draw_kept
    | with_reducible apply State.setTly_kept
    | with_reducible apply State.each_kept
    | with_reducible apply State.triggerLine_kept
    | with_reducible apply State.inc_kept
    | with_reducible apply State.raise_kept
    | with_reducible apply State.monTrigger_kept
    | with_reducible apply kept_ite
    | exact Foot.bit hm rfl
    | exact Foot.trans rfl hm
    | intro _ x (hx : State.kept m b x)
    | lift_lets
    | (intro x; clear_value x)
    | intro _

theorem execCommonTrigger_keeps {m : Nat} {b : State} (n : Line) (held0 : Nat) (held1 : Nat) (held2 : Nat) (s : State)
    (hs : b.kept m s) (hm : Foot.sub 0x814000000000000000000888000000000000D00000090 m := by
      first | assumption | exact Foot.bit (by assumption) rfl | exact Foot.trans rfl (by assumption)) :
    b.keeps m (execCommonTrigger n held0 held1 held2 s) := by
  unfold execCommonTrigger
  repeat' first
    | with_reducible assumption
    | with_reducible apply act_keeps
    | with_reducible apply State.commonTrigger_kept
    | with_reducible apply kept_ite
    | intro x (hx : State.kept m b x)
    | lift_lets
    | intro _

theorem execSnapPostDone_keeps {m : Nat} {b : State} (n : Line) (s : State) (hs : b.kept m s)
    (hm : Foot.sub 0x14000000000000000000888000000000000D00000090 m := by
      first | assumption | exact Foot.bit (by assumption) rfl | exact Foot.trans rfl (by assumption)) :
    b.keeps m (execSnapPostDone n s) := by
  unfold execSnapPostDone
  repeat' first
    | with_reducible assumption
    | with_reducible apply act_keeps
    | with_reducible apply State.raise_kept
    | with_reducible apply State.wr_kept
    | with_reducible apply State.setSnap_kept
    | with_reducible apply kept_ite
    | exact Foot.bit hm rfl
    | exact Foot.trans rfl hm
    | intro x (hx : State.kept m b x)
    | lift_lets
    | (intro x; clear_value x)
    | intro _

theorem execSnapDrainStart_keeps {m : Nat} {b : State} (n : Line) (s : State) (hs : b.kept m s)
    (hm : Foot.sub 0x100000000 m := by
      first | assumption | exact Foot.bit (by assumption) rfl | exact Foot.trans rfl (by assumption)) :
    b.keeps m (execSnapDrainStart n s) := by
  unfold execSnapDrainStart
  repeat' first
    | with_reducible assumption
    | with_reducible apply act_keeps
    | with_reducible apply State.setSnap_kept
    | with_reducible apply kept_ite
    | intro x (hx : State.kept m b x)
    | lift_lets
    | (intro x; clear_value x)
    | intro _

theorem execSnapDrainDone_keeps {m : Nat} {b : State} (n : Line) (unc : Nat) (blocks : List (List Byte)) (s : State)
    (hs : b.kept m s) (hm : Foot.sub 0x14000000000000000000888000000000000D00000090 m := by
      first | assumption | exact Foot.bit (by assumption) rfl | exact Foot.trans rfl (by assumption)) :
    b.keeps m (execSnapDrainDone n unc blocks s) := by
  unfold execSnapDrainDone
  repeat' first
    | with_reducible assumption
    | with_reducible apply act_keeps
    | with_reducible apply State.emit_kept
    | with_reducible apply State.raise_kept
    | with_reducible apply State.wr_kept
    | with_reducible apply State.setSnap_kept
    | with_reducible apply kept_ite
    | with_reducible apply keeps_ite
    | with_reducible apply State.keeps_next
    | exact Foot.bit hm rfl
    | exact Foot.trans rfl hm
    | intro x (hx : State.kept m b x)
    | intro _ x (hx : State.kept m b x)
    | intro x _ (hx : State.kept m b x)
    | intro x _ (hx : State.kept m b x.1)
    | lift_lets
    | (intro x; refine kept_cut (m := m) (b := b) (x := x) ?_ ?_ <;> [skip; (clear_value x; intro hx)])
    | (intro x; clear_value x)
    | intro _

theorem execSnapArm_keeps {m : Nat} {b : State} (h : Nat) (s : State) (hs : b.kept m s)
    (hm : Foot.sub 0x4000000000000001010888000000000000D000008B0 m := by
      first | assumption | exact Foot.bit (by assumption) rfl | exact Foot.trans rfl (by assumption)) :
    b.keeps m (execSnapArm h s) := by
  unfold execSnapArm
  repeat' first
    | with_reducible assumption
    | with_reducible apply ospin_keeps
    | with_reducible apply State.finish_kept
    | with_reducible apply State.setSnap_kept
    | with_reducible apply State.wr_kept
    | with_reducible apply kept_ite
    | exact Foot.bit hm rfl
    | exact Foot.trans rfl hm
    | intro _ x (hx : State.kept m b x)
    | lift_lets
    | (intro x; refine kept_cut (m := m) (b := b) (x := x) ?_ ?_ <;> [skip; (clear_value x; intro hx)])
    | (intro x; clear_value x)
    | intro _

theorem execSnapDisarm_keeps {m : Nat} {b : State} (h : Nat) (s : State) (hs : b.kept m s)
    (hm : Foot.sub 0x4000000000000001010888000000000000D000008B0 m := by
      first | assumption | exact Foot.bit (by assumption) rfl | exact Foot.trans rfl (by assumption)) :
    b.keeps m (execSnapDisarm h s) := by
  unfold execSnapDisarm
  repeat' first
    | with_reducible assumption
    | with_reducible apply ospin_keeps
    | with_reducible apply State.finish_kept
    | with_reducible apply State.wr_kept
    | with_reducible apply State.setSnap_kept
    | exact Foot.bit hm rfl
    | exact Foot.trans rfl hm
    | intro _ x (hx : State.kept m b x)

theorem execSnapFire_keeps {m : Nat} {b : State} (h : Nat) (held0 : Nat) (held1 : Nat) (held2 : Nat) (s : State)
    (hs : b.kept m s) (hm : Foot.sub 0x814000000000000001010888000000000000D000008B0 m := by
      first | assumption | exact Foot.bit (by assumption) rfl | exact Foot.trans rfl (by assumption)) :
    b.keeps m (execSnapFire h held0 held1 held2 s) := by
  unfold execSnapFire
  repeat' first
    | with_reducible assumption
    | with_reducible apply ospin_keeps
    | with_reducible apply State.commonTrigger_kept
    | with_reducible apply State.finish_kept
    | exact Foot.trans rfl hm
    | intro _ x (hx : State.kept m b x)

theorem execSnapStatus_keeps {m : Nat} {b : State} (h : Nat) (s : State) (hs : b.kept m s)
    (hm : Foot.sub 0x1010888000000000000C000008B0 m := by
      first | assumption | exact Foot.bit (by assumption) rfl | exact Foot.trans rfl (by assumption)) :
    b.keeps m (execSnapStatus h s) := by
  unfold execSnapStatus
  repeat' first
    | with_reducible assumption
    | with_reducible apply ospin_keeps
    | with_reducible apply State.finish_kept
    | exact Foot.trans rfl hm
    | intro _ x (hx : State.kept m b x)

theorem State.tallySecond_kept {m : Nat} {b : State} (s : State) (hs : b.kept m s)
    (hm : Foot.sub 0x810000000000000000000888000000000000D00000090 m := by
      first | assumption | exact Foot.bit (by assumption) rfl | exact Foot.trans rfl (by assumption)) :
    b.kept m (State.tallySecond s) := by
  unfold State.tallySecond
  repeat' first
    | with_reducible assumption
    | with_reducible apply State.monTrigger_kept
    | with_reducible apply State.setTly_kept
    | exact Foot.trans rfl hm

end Sys2Proof.Machine
end

