-- ==== Sys2Proof/Laws/KeptWhip.lean ====
section
/-! SUPPORT. What every operation of Machine/Whip.lean keeps: see Laws/Kept.lean. -/

-- The proofs of the whole text do not run side by side: their memory adds up.
set_option Elab.async false

namespace Sys2Proof.Machine

open Sys2Proof

theorem State.setWhip_kept {m : Nat} {b : State} (s : State) (i : Nat) (x : WhipInt) (hs : b.kept m s)
    (hm : Foot.sub 0x8000 m := by
      first | assumption | exact Foot.bit (by assumption) rfl | exact Foot.trans rfl (by assumption)) :
    b.kept m (State.setWhip s i x) := by
  unfold State.setWhip
  repeat' first
    | with_reducible assumption
    | exact Foot.bit hm rfl
    | with_reducible apply kept_whip'

theorem State.hardFault_kept {m : Nat} {b : State} (s : State) (i : Nat) (addr : Nat) (hs : b.kept m s)
    (hm : Foot.sub 0xE000000888000000000000C00008490 m := by
      first | assumption | exact Foot.bit (by assumption) rfl | exact Foot.trans rfl (by assumption)) :
    b.kept m (State.hardFault s i addr) := by
  unfold State.hardFault
  repeat' first
    | with_reducible assumption
    | with_reducible apply State.setWhip_kept
    | with_reducible apply State.wr_kept
    | with_reducible apply State.raise_kept
    | with_reducible apply kept_ite
    | exact Foot.bit hm rfl
    | exact Foot.trans rfl hm
    | lift_lets
    | (intro x; refine kept_cut (m := m) (b := b) (x := x) ?_ ?_ <;> [skip; (clear_value x; intro hx)])
    | (intro x; clear_value x)
    | intro _
    | with_reducible apply kept_nv

theorem State.track_kept {m : Nat} {b : State} (s : State) (i : Nat) (addr : Nat) (hs : b.kept m s)
    (hm : Foot.sub 0xE000000888000000000000C00008490 m := by
      first | assumption | exact Foot.bit (by assumption) rfl | exact Foot.trans rfl (by assumption)) :
    b.kept m (State.track s i addr) := by
  unfold State.track
  repeat' first
    | with_reducible assumption
    | with_reducible apply State.setWhip_kept
    | with_reducible apply State.hardFault_kept
    | with_reducible apply State.raise_kept
    | with_reducible apply kept_ite
    | exact Foot.bit hm rfl
    | exact Foot.trans rfl hm
    | lift_lets
    | (intro x; refine kept_cut (m := m) (b := b) (x := x) ?_ ?_ <;> [skip; (clear_value x; intro hx)])
    | (intro x; clear_value x)
    | intro _
    | split

theorem State.corrected_kept {m : Nat} {b : State} (s : State) (i : Nat) (addr : Nat) (hs : b.kept m s)
    (hm : Foot.sub 0xE000000888000000000000C00008490 m := by
      first | assumption | exact Foot.bit (by assumption) rfl | exact Foot.trans rfl (by assumption)) :
    b.kept m (State.corrected s i addr) := by
  unfold State.corrected
  repeat' first
    | with_reducible assumption
    | with_reducible apply State.wr_kept
    | with_reducible apply State.inc_kept
    | with_reducible apply State.raise_kept
    | with_reducible apply State.setWhip_kept
    | with_reducible apply State.track_kept
    | with_reducible apply kept_ite
    | exact Foot.bit hm rfl
    | exact Foot.trans rfl hm
    | lift_lets
    | (intro x; clear_value x)
    | intro _

theorem State.restoreConfig_kept {m : Nat} {b : State} (s : State) (addr : Nat) (shadowBad : Bool) (hs : b.kept m s)
    (hm : Foot.sub allRegs m := by
      first | assumption | exact Foot.bit (by assumption) rfl | exact Foot.trans rfl (by assumption)) :
    b.kept m (State.restoreConfig s addr shadowBad) := by
  unfold State.restoreConfig
  obtain _ | ⟨r, _⟩ := findReg addr
  · exact hs
  · exact kept_ite (fun _ => kept_putReg _ _ hs (Foot.bit hm (allRegs_bit _))) fun _ => hs

theorem State.wordLost_kept {m : Nat} {b : State} (s : State) (a1 : WordUse) (hs : b.kept m s)
    (hm : Foot.sub (allRegs ||| 0xC06941A92) m := by
      first | assumption | exact Foot.bit (by assumption) rfl | exact Foot.trans rfl (by assumption)) :
    b.kept m (State.wordLost s a1) := by
  cases a1 with
  | datapath use =>
    obtain _ | ⟨_, _, _⟩ := use
    · exact hs
    · exact State.markCopy_kept _ _ _ _ hs
  | leaf _ _ => exact State.setLeaf_kept _ _ _ _ hs
  | subcarrier _ _ => exact kept_ite (fun _ => State.subRestart_kept _ _ _ hs) fun _ => hs
  | key _ _ => exact State.zeroKeys_kept _ _ _ _ _ hs
  | config _ _ => exact State.restoreConfig_kept _ _ _ hs
  | core _ _ _ =>
    exact kept_ite (fun _ => State.recover_kept _ _ (State.coreFault_kept _ _ _ hs)) fun _ => State.dataError_kept _ _ _ hs
  | journal _ => exact State.wr_kept _ _ _ _ _ _ (kept_journal _ hs)

theorem State.uncorrectable_kept {m : Nat} {b : State} (s : State) (i : Nat) (addr : Nat) (w : WordUse)
    (hs : b.kept m s) (hm : Foot.sub (allRegs ||| 0xC06941A92) m := by
      first | assumption | exact Foot.bit (by assumption) rfl | exact Foot.trans rfl (by assumption)) :
    b.kept m (State.uncorrectable s i addr w) := by
  unfold State.uncorrectable
  repeat' first
    | with_reducible assumption
    | with_reducible apply State.wordLost_kept
    | with_reducible apply State.raise_kept
    | with_reducible apply State.wr_kept
    | with_reducible apply State.inc_kept
    | exact Foot.bit hm rfl
    | exact Foot.trans rfl hm

theorem execScrubVisit_keeps {m : Nat} {b : State} (i : MemInst) (addr : BitVec 24) (found : Found) (byRead : Bool)
    (passEnds : Bool) (s : State) (hs : b.kept m s) (hm : Foot.sub (allRegs ||| 0xC06949E92) m := by
      first | assumption | exact Foot.bit (by assumption) rfl | exact Foot.trans rfl (by assumption)) :
    b.keeps m (execScrubVisit i addr found byRead passEnds s) := by
  unfold execScrubVisit
  refine act_keeps _ _ _ hs ?_
  intro t ht
  apply kept_ite <;> intro _
  · exact ht
  · lift_lets
    intro u v
    have hu : b.kept m u := by
      show b.kept m (if _ then _ else _)
      exact kept_ite (fun _ => State.wr_kept _ _ _ _ _ _ ht) fun _ => ht
    have hv : b.kept m v := by
      cases found with
      | clean => exact hu
      | corrected => exact State.corrected_kept _ _ _ hu
      | uncorrectable w => exact State.uncorrectable_kept _ _ _ _ hu
    clear_value v
    exact kept_ite (fun _ => State.setWhip_kept _ _ _ hv) fun _ => hv

theorem State.injectWrite_kept {m : Nat} {b : State} (s : State) (req : Requester) (v : Nat) (hs : b.kept m s)
    (hm : Foot.sub 0x20001010888000000000000C00000890 m := by
      first | assumption | exact Foot.bit (by assumption) rfl | exact Foot.trans rfl (by assumption)) :
    b.kept m (State.injectWrite s req v) := by
  unfold State.injectWrite
  repeat' first
    | with_reducible assumption
    | with_reducible apply State.write_kept
    | with_reducible apply State.wr_kept
    | with_reducible apply kept_ite
    | exact Foot.bit hm rfl
    | exact Foot.trans rfl hm
    | intro x (hx : State.kept m b x)
    | lift_lets
    | intro _

theorem execWhipInjectArm_keeps {m : Nat} {b : State} (req : Requester) (i : MemInst) (kind : BitVec 2) (s : State)
    (hs : b.kept m s) (hm : Foot.sub 0x20001010888000000000000C00000892 m := by
      first | assumption | exact Foot.bit (by assumption) rfl | exact Foot.trans rfl (by assumption)) :
    b.keeps m (execWhipInjectArm req i kind s) := by
  unfold execWhipInjectArm
  repeat' first
    | with_reducible assumption
    | with_reducible apply access_keeps
    | with_reducible apply State.injectWrite_kept
    | exact Foot.trans rfl hm
    | intro x (hx : State.kept m b x)

theorem State.whipSecond_kept {m : Nat} {b : State} (s : State) (hs : b.kept m s) (hm : Foot.sub 0x8000 m := by
      first | assumption | exact Foot.bit (by assumption) rfl | exact Foot.trans rfl (by assumption)) :
    b.kept m (State.whipSecond s) := by
  unfold State.whipSecond
  repeat' first
    | with_reducible assumption
    | with_reducible apply State.setWhip_kept
    | with_reducible apply kept_foldl
    | intro x _ (hx : State.kept m b x)

end Sys2Proof.Machine
end

