-- ==== Sys2Proof/Laws/KeptBringup.lean ====
section
/-! SUPPORT. What every operation of Machine/Bringup.lean keeps: see Laws/Kept.lean. -/

-- The proofs of the whole text do not run side by side: their memory adds up.
set_option Elab.async false

namespace Sys2Proof.Machine

open Sys2Proof

theorem State.survivors_kept {m : Nat} {b : State} (s : State) (device : Bool) (hs : b.kept m s)
    (hm : Foot.sub (allRegs ||| 0x3FFFFF3BF) m := by
      first | assumption | exact Foot.bit (by assumption) rfl | exact Foot.trans rfl (by assumption)) :
    b.kept m (State.survivors s device) := by
  refine ⟨fun hb => ?_, hs.2.1, hs.2.2.1, hs.2.2.2.1, ?_, ?_⟩
  · have hv : Tab.wf {} (if device then [] else s.vecs) = true := by
      cases device
      · exact (hs.1 hb).2.2.2.1
      · rfl
    have hr := RegStore.wf_resetWhere s.regs (fun r => !keepsReg device r) (hs.1 hb).1
    have hd : Tab.wf 0 s.discards = true := (hs.1 hb).2.2.2.2.2.2.2.2.2.2.2.2.2.2.2.2.2
    exact ⟨hr, rfl, rfl, hv, rfl, rfl, rfl, rfl, rfl, rfl, rfl, rfl, rfl, rfl, rfl, rfl, rfl, hd⟩
  · intro r e
    rw [Foot.bit (Foot.trans (b := _) rfl hm) (allRegs_bit r.id)] at e; cases e
  · intro k e
    have h1 := hs.2.2.2.2.2 k e
    unfold samePart at h1 ⊢
    unfold State.survivors
    split <;> first | trivial | exact h1 | (rw [Foot.bit hm rfl] at e; cases e)

theorem State.discard_kept {m : Nat} {b : State} (s : State) (a1 : Nat) (hs : b.kept m s)
    (hm : Foot.sub 0x1000000000 m := by
      first | assumption | exact Foot.bit (by assumption) rfl | exact Foot.trans rfl (by assumption)) :
    b.kept m (State.discard s a1) := by
  unfold State.discard
  repeat' first
    | with_reducible assumption
    | with_reducible apply kept_ite
    | with_reducible apply keeps_ite
    | with_reducible apply State.keeps_next
    | exact Foot.bit hm rfl
    | exact Foot.trans rfl hm
    | intro x (hx : State.kept m b x)
    | intro _ x (hx : State.kept m b x)
    | intro x _ (hx : State.kept m b x)
    | intro x _ (hx : State.kept m b x.1)
    | lift_lets
    | intro _
    | with_reducible apply kept_discards'

theorem State.discardFlight_kept {m : Nat} {b : State} (s : State) (flight : List (Block × Bool)) (hs : b.kept m s)
    (hm : Foot.sub 0x1000000000 m := by
      first | assumption | exact Foot.bit (by assumption) rfl | exact Foot.trans rfl (by assumption)) :
    b.kept m (State.discardFlight s flight) := by
  unfold State.discardFlight
  repeat' first
    | with_reducible assumption
    | with_reducible apply State.discard_kept
    | with_reducible apply kept_foldl
    | with_reducible apply kept_foldl_fst
    | with_reducible apply kept_ite
    | with_reducible apply keeps_ite
    | with_reducible apply State.keeps_next
    | exact Foot.bit hm rfl
    | exact Foot.trans rfl hm
    | intro x (hx : State.kept m b x)
    | intro _ x (hx : State.kept m b x)
    | intro x _ (hx : State.kept m b x)

theorem State.journalEnds_kept {m : Nat} {b : State} (s : State) (hs : b.kept m s)
    (hm : Foot.sub 0x1000000000000000000400000800 m := by
      first | assumption | exact Foot.bit (by assumption) rfl | exact Foot.trans rfl (by assumption)) :
    b.kept m (State.journalEnds s) := by
  unfold State.journalEnds
  repeat' first
    | with_reducible assumption
    | with_reducible apply State.each_kept
    | with_reducible apply State.recordOwn_kept
    | with_reducible apply kept_ite
    | with_reducible apply keeps_ite
    | with_reducible apply State.keeps_next
    | exact Foot.bit hm rfl
    | exact Foot.trans rfl hm
    | intro x (hx : State.kept m b x)
    | intro _ x (hx : State.kept m b x)

theorem State.resetTo_kept {m : Nat} {b : State} (s : State) (device : Bool) (stage : Nat)
    (flight : List (Block × Bool)) (hs : b.kept m s) (hm : Foot.sub (allRegs ||| 0x17FFFFFBBF) m := by
      first | assumption | exact Foot.bit (by assumption) rfl | exact Foot.trans rfl (by assumption)) :
    b.kept m (State.resetTo s device stage flight) := by
  unfold State.resetTo
  repeat' first
    | with_reducible assumption
    | with_reducible apply State.journalEnds_kept
    | with_reducible apply State.discardFlight_kept
    | with_reducible apply State.survivors_kept
    | with_reducible apply State.wr_kept
    | with_reducible apply kept_ite
    | with_reducible apply keeps_ite
    | with_reducible apply State.keeps_next
    | exact Foot.bit hm rfl
    | exact Foot.trans rfl hm
    | intro x (hx : State.kept m b x)
    | intro _ x (hx : State.kept m b x)
    | intro x _ (hx : State.kept m b x)
    | intro x _ (hx : State.kept m b x.1)
    | lift_lets
    | intro _

theorem execIslandPowerOn_keeps {m : Nat} {b : State} (flash : Option FlashImage) (s : State) (hs : b.kept m s)
    (hm : Foot.sub (allRegs ||| 0x13FFFFFFBF) m := by
      first | assumption | exact Foot.bit (by assumption) rfl | exact Foot.trans rfl (by assumption)) :
    b.keeps m (execIslandPowerOn flash s) := by
  unfold execIslandPowerOn
  refine State.keeps_next (State.setReg_kept _ _ _ _ _ _ ⟨fun hb => ?_, hs.2.1, hs.2.2.1, hs.2.2.2.1, ?_, ?_⟩)
  · exact ⟨rfl, rfl, rfl, rfl, rfl, rfl, rfl, rfl, rfl, rfl, rfl, rfl, rfl, rfl, rfl, rfl, rfl, rfl⟩
  · intro r e
    rw [Foot.bit (Foot.trans (b := _) rfl hm) (allRegs_bit r.id)] at e; cases e
  · intro k e
    have h1 := hs.2.2.2.2.2 k e
    unfold samePart at h1 ⊢
    split <;> first | trivial | exact h1 | (rw [Foot.bit hm rfl] at e; cases e)

theorem execPorstAssert_keeps {m : Nat} {b : State} (flight : List (Block × Bool)) (s : State) (hs : b.kept m s)
    (hm : Foot.sub (allRegs ||| 0x17FFFFFBBF) m := by
      first | assumption | exact Foot.bit (by assumption) rfl | exact Foot.trans rfl (by assumption)) :
    b.keeps m (execPorstAssert flight s) := by
  unfold execPorstAssert
  repeat' first
    | with_reducible assumption
    | with_reducible apply State.resetTo_kept
    | with_reducible apply State.wr_kept
    | with_reducible apply kept_ite
    | with_reducible apply keeps_ite
    | with_reducible apply State.keeps_next
    | exact Foot.bit hm rfl
    | exact Foot.trans rfl hm
    | intro x (hx : State.kept m b x)
    | intro _ x (hx : State.kept m b x)
    | intro x _ (hx : State.kept m b x)
    | intro x _ (hx : State.kept m b x.1)
    | lift_lets
    | (intro x; refine kept_cut (m := m) (b := b) (x := x) ?_ ?_ <;> [skip; (clear_value x; intro hx)])
    | (intro x; clear_value x)
    | intro _
    | with_reducible apply kept_boot

theorem execPorstRelease_keeps {m : Nat} {b : State} (i3c : BitVec 2) (xspi : Bool) (mfg : Bool) (s : State)
    (hs : b.kept m s) (hm : Foot.sub 0x10200000000000002000 m := by
      first | assumption | exact Foot.bit (by assumption) rfl | exact Foot.trans rfl (by assumption)) :
    b.keeps m (execPorstRelease i3c xspi mfg s) := by
  unfold execPorstRelease
  repeat' first
    | with_reducible assumption
    | with_reducible apply State.wr_kept
    | with_reducible apply kept_ite
    | with_reducible apply State.keeps_next
    | exact Foot.bit hm rfl
    | lift_lets
    | (intro x; refine kept_cut (m := m) (b := b) (x := x) ?_ ?_ <;> [skip; (clear_value x; intro hx)])
    | (intro x; clear_value x)
    | intro _
    | with_reducible apply kept_boot

theorem State.topReset_kept {m : Nat} {b : State} (s : State) (req : Requester) (v : Nat)
    (flight : List (Block × Bool)) (hs : b.kept m s) (hm : Foot.sub (allRegs ||| 0x1FFFFFFBBF) m := by
      first | assumption | exact Foot.bit (by assumption) rfl | exact Foot.trans rfl (by assumption)) :
    b.kept m (State.topReset s req v flight) := by
  unfold State.topReset
  repeat' first
    | with_reducible assumption
    | with_reducible apply State.record_kept
    | with_reducible apply State.denied_kept
    | with_reducible apply State.unjournaled_kept
    | with_reducible apply State.wr_kept
    | with_reducible apply State.resetTo_kept
    | with_reducible apply kept_ite
    | with_reducible apply keeps_ite
    | with_reducible apply State.keeps_next
    | exact Foot.bit hm rfl
    | exact Foot.trans rfl hm
    | intro x (hx : State.kept m b x)
    | intro _ x (hx : State.kept m b x)
    | intro x _ (hx : State.kept m b x)
    | intro x _ (hx : State.kept m b x.1)
    | lift_lets
    | (intro x; refine kept_cut (m := m) (b := b) (x := x) ?_ ?_ <;> [skip; (clear_value x; intro hx)])
    | intro _
    | refine kept_pair (by assumption) ?_
    | split

theorem execDeviceReset_keeps {m : Nat} {b : State} (req : Requester) (flight : List (Block × Bool)) (s : State)
    (hs : b.kept m s) (hm : Foot.sub (allRegs ||| 0x1FFFFFFBBF) m := by
      first | assumption | exact Foot.bit (by assumption) rfl | exact Foot.trans rfl (by assumption)) :
    b.keeps m (execDeviceReset req flight s) := by
  unfold execDeviceReset
  repeat' first
    | with_reducible assumption
    | with_reducible apply access_keeps
    | with_reducible apply State.topReset_kept
    | with_reducible apply kept_ite
    | with_reducible apply keeps_ite
    | with_reducible apply State.keeps_next
    | exact Foot.bit hm rfl
    | exact Foot.trans rfl hm
    | intro x (hx : State.kept m b x)

theorem execCoreReset_keeps {m : Nat} {b : State} (req : Requester) (flight : List (Block × Bool)) (s : State)
    (hs : b.kept m s) (hm : Foot.sub (allRegs ||| 0x1FFFFFFBBF) m := by
      first | assumption | exact Foot.bit (by assumption) rfl | exact Foot.trans rfl (by assumption)) :
    b.keeps m (execCoreReset req flight s) := by
  unfold execCoreReset
  repeat' first
    | with_reducible assumption
    | with_reducible apply access_keeps
    | with_reducible apply State.topReset_kept
    | with_reducible apply kept_ite
    | with_reducible apply keeps_ite
    | with_reducible apply State.keeps_next
    | exact Foot.bit hm rfl
    | exact Foot.trans rfl hm
    | intro x (hx : State.kept m b x)

theorem State.hostReset_kept {m : Nat} {b : State} (s : State) (hs : b.kept m s)
    (hm : Foot.sub 0x1B01418888000000000000C00001A92 m := by
      first | assumption | exact Foot.bit (by assumption) rfl | exact Foot.trans rfl (by assumption)) :
    b.kept m (State.hostReset s) := by
  unfold State.hostReset
  have h := kept_vecs_nil hs
  exact kept_ite (fun _ => State.epoch_kept _ _ h) fun _ => h

theorem State.cxlReset_kept {m : Nat} {b : State} (s : State) (hs : b.kept m s)
    (hm : Foot.sub 0x1B01418888820000000000C00001A92 m := by
      first | assumption | exact Foot.bit (by assumption) rfl | exact Foot.trans rfl (by assumption)) :
    b.kept m (State.cxlReset s) := by
  unfold State.cxlReset
  repeat' first
    | with_reducible assumption
    | with_reducible apply State.hostReset_kept
    | with_reducible apply State.wr_kept
    | exact Foot.bit hm rfl
    | exact Foot.trans rfl hm

theorem State.haltHostIf_kept {m : Nat} {b : State} (s : State) (cause : Nat) (hs : b.kept m s)
    (hm : Foot.sub 0x8A8000000000000C000000B0 m := by
      first | assumption | exact Foot.bit (by assumption) rfl | exact Foot.trans rfl (by assumption)) :
    b.kept m (State.haltHostIf s cause) := by
  unfold State.haltHostIf
  repeat' first
    | with_reducible assumption
    | with_reducible apply State.haltHost_kept
    | with_reducible apply kept_ite
    | lift_lets
    | intro _

theorem execCxlUReset_keeps {m : Nat} {b : State} (s : State) (hs : b.kept m s)
    (hm : Foot.sub 0x1B014188A8820000000000C00001AB2 m := by
      first | assumption | exact Foot.bit (by assumption) rfl | exact Foot.trans rfl (by assumption)) :
    b.keeps m (execCxlUReset s) := by
  unfold execCxlUReset
  repeat' first
    | with_reducible assumption
    | with_reducible apply State.cxlReset_kept
    | with_reducible apply State.haltHostIf_kept
    | with_reducible apply State.keeps_next
    | exact Foot.trans rfl hm

theorem execFunctionLevelReset_keeps {m : Nat} {b : State} (s : State) (hs : b.kept m s)
    (hm : Foot.sub 0x1B014188A8020000000000C00001AB2 m := by
      first | assumption | exact Foot.bit (by assumption) rfl | exact Foot.trans rfl (by assumption)) :
    b.keeps m (execFunctionLevelReset s) := by
  unfold execFunctionLevelReset
  repeat' first
    | with_reducible assumption
    | with_reducible apply State.hostReset_kept
    | with_reducible apply State.wr_kept
    | with_reducible apply State.haltHostIf_kept
    | with_reducible apply State.keeps_next
    | exact Foot.bit hm rfl
    | exact Foot.trans rfl hm

theorem execCxlULinkDown_keeps {m : Nat} {b : State} (s : State) (hs : b.kept m s)
    (hm : Foot.sub 0x1B014188A8820000000000C00001AB2 m := by
      first | assumption | exact Foot.bit (by assumption) rfl | exact Foot.trans rfl (by assumption)) :
    b.keeps m (execCxlULinkDown s) := by
  unfold execCxlULinkDown
  repeat' first
    | with_reducible assumption
    | with_reducible apply State.haltHostIf_kept
    | with_reducible apply State.setReg_kept
    | with_reducible apply State.cxlReset_kept
    | with_reducible apply State.raise_kept
    | with_reducible apply kept_ite
    | with_reducible apply State.keeps_next
    | exact Foot.bit hm rfl
    | exact Foot.trans rfl hm
    | lift_lets
    | (intro x; refine kept_cut (m := m) (b := b) (x := x) ?_ ?_ <;> [skip; (clear_value x; intro hx)])
    | intro _

theorem execCxlULinkUp_keeps {m : Nat} {b : State} (width : Nat) (speed : Nat) (flit : Bool) (s : State)
    (hs : b.kept m s) (hm : Foot.sub 0x8A8800000000000C00002090 m := by
      first | assumption | exact Foot.bit (by assumption) rfl | exact Foot.trans rfl (by assumption)) :
    b.keeps m (execCxlULinkUp width speed flit s) := by
  unfold execCxlULinkUp
  repeat' first
    | with_reducible assumption
    | with_reducible apply State.wr_kept
    | with_reducible apply State.raise_kept
    | with_reducible apply kept_ite
    | with_reducible apply State.keeps_next
    | exact Foot.bit hm rfl
    | exact Foot.trans rfl hm
    | lift_lets
    | (intro x; refine kept_cut (m := m) (b := b) (x := x) ?_ ?_ <;> [skip; (clear_value x; intro hx)])
    | (intro x; clear_value x)
    | intro _
    | with_reducible apply kept_boot

theorem execViralReceived_keeps {m : Nat} {b : State} (s : State) (hs : b.kept m s)
    (hm : Foot.sub 0x8A8800000000000C000000B0 m := by
      first | assumption | exact Foot.bit (by assumption) rfl | exact Foot.trans rfl (by assumption)) :
    b.keeps m (execViralReceived s) := by
  unfold execViralReceived
  repeat' first
    | with_reducible assumption
    | with_reducible apply State.haltHostIf_kept
    | with_reducible apply State.wr_kept
    | with_reducible apply State.keeps_next
    | exact Foot.bit hm rfl
    | exact Foot.trans rfl hm

theorem execSnoop_keeps {m : Nat} {b : State} (addr : Nat) (s : State) (hs : b.kept m s)
    (hm : Foot.sub 0x800000000 m := by
      first | assumption | exact Foot.bit (by assumption) rfl | exact Foot.trans rfl (by assumption)) :
    b.keeps m (execSnoop addr s) := by
  unfold execSnoop
  repeat' first
    | with_reducible assumption
    | with_reducible apply State.emit_kept
    | with_reducible apply kept_ite
    | with_reducible apply State.keeps_next
    | lift_lets
    | intro _

theorem State.toStage_kept {m : Nat} {b : State} (s : State) (k : Nat) (hs : b.kept m s)
    (hm : Foot.sub 0x10000000000000002000 m := by
      first | assumption | exact Foot.bit (by assumption) rfl | exact Foot.trans rfl (by assumption)) :
    b.kept m (State.toStage s k) := by
  unfold State.toStage
  repeat' first
    | with_reducible assumption
    | with_reducible apply State.wr_kept
    | exact Foot.bit hm rfl
    | lift_lets
    | (intro x; refine kept_cut (m := m) (b := b) (x := x) ?_ ?_ <;> [skip; (clear_value x; intro hx)])
    | (intro x; clear_value x)
    | with_reducible apply kept_boot

theorem State.loadRemap_kept {m : Nat} {b : State} (s : State) (hs : b.kept m s)
    (hm : Foot.sub 0x6000000000000000000000000000000 m := by
      first | assumption | exact Foot.bit (by assumption) rfl | exact Foot.trans rfl (by assumption)) :
    b.kept m (State.loadRemap s) := by
  unfold State.loadRemap
  repeat' first
    | with_reducible assumption
    | with_reducible apply State.wr_kept
    | with_reducible apply kept_foldl
    | with_reducible apply kept_ite
    | exact Foot.bit hm rfl
    | intro x _ (hx : State.kept m b x)
    | lift_lets
    | intro _

theorem State.selfTestFails_kept {m : Nat} {b : State} (s : State) (i : Nat) (line : Nat) (hs : b.kept m s)
    (hm : Foot.sub 0xA000000888080000000000C00000090 m := by
      first | assumption | exact Foot.bit (by assumption) rfl | exact Foot.trans rfl (by assumption)) :
    b.kept m (State.selfTestFails s i line) := by
  unfold State.selfTestFails
  repeat' first
    | with_reducible assumption
    | with_reducible apply State.raise_kept
    | with_reducible apply State.wr_kept
    | with_reducible apply kept_ite
    | exact Foot.bit hm rfl
    | exact Foot.trans rfl hm
    | lift_lets
    | (intro x; refine kept_cut (m := m) (b := b) (x := x) ?_ ?_ <;> [skip; (clear_value x; intro hx)])
    | (intro x; clear_value x)
    | intro _

/-- The KEKs unwrapped at the boot are a table in canonical form. -/
theorem bootKeks_wf (s : State) : Tab.wf [] s.bootKeks = true := by
  unfold State.bootKeks
  have key : ∀ (l : List Nat) (t : Tab (List Byte)), Tab.wf [] t = true →
      Tab.wf [] (l.foldl (fun t d => match kekBlob (s.area 5).active d with
        | some b => match s.openKek d b with
          | .inr k => Tab.put [] t d k
          | .inl _ => t
        | none => t) t) = true := by
    intro l
    induction l with
    | nil => exact fun _ h => h
    | cons d r ih =>
      intro t h
      refine ih _ ?_
      dsimp only
      split
      · split
        · exact Tab.wf_put _ _ _ _ h
        · exact h
      · exact h
  exact key _ _ rfl

theorem State.recoverNv_kept {m : Nat} {b : State} (s : State) (torn outvoted : Nat) (hs : b.kept m s)
    (hm : Foot.sub 0x40000000000000000000000000000000000000003050888000000000000C08000890 m := by
      first | assumption | exact Foot.trans rfl (by assumption)) :
    b.kept m (s.recoverNv torn outvoted) := by
  unfold State.recoverNv
  refine State.setKeks_kept _ _ (State.showNv_kept _ (State.wr_kept _ _ _ _ _ _ ?_)) (bootKeks_wf _)
  refine State.recordOwn_kept _ _ _ _ _ _ _ (State.each_kept _ _ _ ?_ fun _ _ h => State.recordOwn_kept _ _ _ _ _ _ _ h)
  have h := State.each_kept s (List.range (ceilDiv s.journal.buffer.length 3)) (fun _ t => t.programPage) hs
    fun _ _ h => State.programPage_kept _ h
  have hw := fun v j => State.wr_kept _ .MRLN_NV_ST_TORN torn 0 0 0 (State.setReg_kept _ .MRLN_JRN_SEQ v 0 0 0 (kept_journal j h))
  exact kept_ite (fun _ => hw _ _) fun _ => State.raise_kept _ _ _ _ _ _ _ (hw _ _)

theorem State.leaveReset_kept {m : Nat} {b : State} (s : State) (hs : b.kept m s)
    (hm : Foot.sub 0xC08000000000000000000000000000000000000000000000000010C0888000000000000C20002098 m := by
      first | assumption | exact Foot.bit (by assumption) rfl | exact Foot.trans rfl (by assumption)) :
    b.kept m (State.leaveReset s) := by
  unfold State.leaveReset
  repeat' first
    | with_reducible assumption
    | with_reducible apply State.each_kept
    | with_reducible apply State.wr_kept
    | with_reducible apply State.refreshClaim_kept
    | with_reducible apply State.resetLanes_kept
    | exact Foot.bit hm rfl
    | exact Foot.trans rfl hm
    | intro _ x (hx : State.kept m b x)
    | lift_lets
    | (intro x; clear_value x)
    | with_reducible apply kept_boot

theorem State.bootReady_kept {m : Nat} {b : State} (s : State) (hs : b.kept m s)
    (hm : Foot.sub 0x40000000000000C0888210000000000C00003090 m := by
      first | assumption | exact Foot.bit (by assumption) rfl | exact Foot.trans rfl (by assumption)) :
    b.kept m (State.bootReady s) := by
  unfold State.bootReady
  repeat' first
    | with_reducible assumption
    | with_reducible apply State.split_kept
    | with_reducible apply State.faultVector_kept
    | with_reducible apply State.wr_kept
    | with_reducible apply State.raise_kept
    | with_reducible apply kept_ite
    | exact Foot.bit hm rfl
    | exact Foot.trans rfl hm
    | lift_lets
    | (intro x; clear_value x)
    | intro _
    | with_reducible apply kept_boot

theorem State.stageDone_kept {m : Nat} {b : State} (s : State) (fails : List (MemInst × Line)) (torn : Nat)
    (outvoted : Nat) (hs : b.kept m s)
    (hm : Foot.sub 0xC080000000004000000000000000000000000000400000000E0030D0888290000000000C28003898 m := by
      first | assumption | exact Foot.bit (by assumption) rfl | exact Foot.trans rfl (by assumption)) :
    b.kept m (State.stageDone s fails torn outvoted) := by
  unfold State.stageDone
  have hst : ∀ t n, b.kept m t → b.kept m (t.toStage n) := fun _ _ h => State.toStage_kept _ _ h
  split
  · exact kept_ite (fun _ => hst _ _ hs) fun _ => hs
  · exact kept_ite (fun _ => hst _ _ (kept_boot _ hs)) fun _ => hs
  · exact kept_ite (fun _ => hs) fun _ => hst _ _ (State.loadRemap_kept _ hs)
  · lift_lets
    intro t
    have ht : b.kept m t := kept_foldl _ _ (fun _ _ h => State.selfTestFails_kept _ _ _ h) hs
    exact kept_ite (fun _ => State.bootFail_kept _ _ ht) fun _ => hst _ _ ht
  · exact kept_ite (fun _ => State.bootFail_kept _ _ hs) fun _ => hst _ _ (State.recoverNv_kept _ _ _ hs)
  · exact hst _ _ (State.leaveReset_kept _ hs)
  · exact kept_ite (fun _ => State.bootReady_kept _ hs) fun _ => hs
  · exact hs

theorem execBootStageDone_keeps {m : Nat} {b : State} (ms : BitVec 16) (fails : List (MemInst × Line))
    (torn : BitVec 16) (outvoted : BitVec 24) (s : State) (hs : b.kept m s)
    (hm : Foot.sub 0xC080000000004000000000000000000000000000400000000E0030D0888290000000000C28003898 m := by
      first | assumption | exact Foot.bit (by assumption) rfl | exact Foot.trans rfl (by assumption)) :
    b.keeps m (execBootStageDone ms fails torn outvoted s) := by
  unfold execBootStageDone
  repeat' first
    | with_reducible assumption
    | with_reducible apply State.stageDone_kept
    | with_reducible apply State.wr_kept
    | with_reducible apply kept_ite
    | with_reducible apply State.keeps_next
    | exact Foot.bit hm rfl
    | lift_lets
    | intro _

theorem execBootStageTimeout_keeps {m : Nat} {b : State} (ms : BitVec 16) (cause : Fin 6) (s : State)
    (hs : b.kept m s) (hm : Foot.sub 0x90000000000800002080 m := by
      first | assumption | exact Foot.bit (by assumption) rfl | exact Foot.trans rfl (by assumption)) :
    b.keeps m (execBootStageTimeout ms cause s) := by
  unfold execBootStageTimeout
  repeat' first
    | with_reducible assumption
    | with_reducible apply State.bootFail_kept
    | with_reducible apply State.wr_kept
    | with_reducible apply kept_ite
    | with_reducible apply State.keeps_next
    | exact Foot.bit hm rfl
    | lift_lets
    | intro _

theorem execMfgRelease_keeps {m : Nat} {b : State} (s : State) (hs : b.kept m s) (hm : Foot.sub 0x2000 m := by
      first | assumption | exact Foot.bit (by assumption) rfl | exact Foot.trans rfl (by assumption)) :
    b.keeps m (execMfgRelease s) := by
  unfold execMfgRelease
  repeat' first
    | with_reducible assumption
    | with_reducible apply State.keeps_next
    | exact Foot.bit hm rfl
    | lift_lets
    | (intro x; clear_value x)
    | with_reducible apply kept_boot

theorem execRootLockLoss_keeps {m : Nat} {b : State} (s : State) (hs : b.kept m s)
    (hm : Foot.sub (allRegs ||| 0x1FFFFFFBBF) m := by
      first | assumption | exact Foot.bit (by assumption) rfl | exact Foot.trans rfl (by assumption)) :
    b.keeps m (execRootLockLoss s) := by
  unfold execRootLockLoss
  repeat' first
    | with_reducible assumption
    | with_reducible apply State.resetTo_kept
    | with_reducible apply State.setFault_kept
    | with_reducible apply State.wr_kept
    | with_reducible apply kept_ite
    | with_reducible apply State.keeps_next
    | exact Foot.bit hm rfl
    | exact Foot.trans rfl hm
    | lift_lets
    | (intro x; refine kept_cut (m := m) (b := b) (x := x) ?_ ?_ <;> [skip; (clear_value x; intro hx)])
    | (intro x; clear_value x)
    | intro _
    | with_reducible apply kept_boot

theorem execRootRelockAttempt_keeps {m : Nat} {b : State} (s : State) (hs : b.kept m s) (hm : Foot.sub 0x2000 m := by
      first | assumption | exact Foot.bit (by assumption) rfl | exact Foot.trans rfl (by assumption))
    :
    b.keeps m (execRootRelockAttempt s) := by
  unfold execRootRelockAttempt
  repeat' first
    | with_reducible assumption
    | with_reducible apply kept_ite
    | with_reducible apply State.keeps_next
    | exact Foot.bit hm rfl
    | lift_lets
    | (intro x; clear_value x)
    | intro _
    | with_reducible apply kept_boot

theorem execRootRelocked_keeps {m : Nat} {b : State} (s : State) (hs : b.kept m s)
    (hm : Foot.sub 0x90000000000000002000 m := by
      first | assumption | exact Foot.bit (by assumption) rfl | exact Foot.trans rfl (by assumption)) :
    b.keeps m (execRootRelocked s) := by
  unfold execRootRelocked
  repeat' first
    | with_reducible assumption
    | with_reducible apply State.wr_kept
    | with_reducible apply State.toStage_kept
    | with_reducible apply kept_ite
    | with_reducible apply State.keeps_next
    | exact Foot.bit hm rfl
    | exact Foot.trans rfl hm
    | lift_lets
    | (intro x; refine kept_cut (m := m) (b := b) (x := x) ?_ ?_ <;> [skip; (clear_value x; intro hx)])
    | (intro x; clear_value x)
    | intro _
    | with_reducible apply kept_boot

theorem execXoLost_keeps {m : Nat} {b : State} (s : State) (hs : b.kept m s)
    (hm : Foot.sub 0x80000000000800002080 m := by
      first | assumption | exact Foot.bit (by assumption) rfl | exact Foot.trans rfl (by assumption)) :
    b.keeps m (execXoLost s) := by
  unfold execXoLost
  repeat' first
    | with_reducible assumption
    | with_reducible apply State.setFault_kept
    | with_reducible apply State.keeps_next
    | exact Foot.bit hm rfl
    | exact Foot.trans rfl hm
    | lift_lets
    | (intro x; clear_value x)
    | with_reducible apply kept_boot

theorem execXoRestored_keeps {m : Nat} {b : State} (s : State) (hs : b.kept m s)
    (hm : Foot.sub 0x80000000000000002000 m := by
      first | assumption | exact Foot.bit (by assumption) rfl | exact Foot.trans rfl (by assumption)) :
    b.keeps m (execXoRestored s) := by
  unfold execXoRestored
  repeat' first
    | with_reducible assumption
    | with_reducible apply State.wr_kept
    | with_reducible apply State.keeps_next
    | exact Foot.bit hm rfl
    | lift_lets
    | (intro x; clear_value x)
    | with_reducible apply kept_boot

theorem execFltRelease_keeps {m : Nat} {b : State} (s : State) (hs : b.kept m s) (hm : Foot.sub 0x2000 m := by
      first | assumption | exact Foot.bit (by assumption) rfl | exact Foot.trans rfl (by assumption)) :
    b.keeps m (execFltRelease s) := by
  unfold execFltRelease
  repeat' first
    | with_reducible assumption
    | with_reducible apply kept_ite
    | with_reducible apply State.keeps_next
    | exact Foot.bit hm rfl
    | lift_lets
    | (intro x; clear_value x)
    | intro _
    | with_reducible apply kept_boot

theorem State.fltCfgWrite_kept {m : Nat} {b : State} (s : State) (req : Requester) (v : Nat) (hs : b.kept m s)
    (hm : Foot.sub 0x1010888180000000000C00002890 m := by
      first | assumption | exact Foot.bit (by assumption) rfl | exact Foot.trans rfl (by assumption)) :
    b.kept m (State.fltCfgWrite s req v) := by
  unfold State.fltCfgWrite
  repeat' first
    | with_reducible assumption
    | with_reducible apply State.write_kept
    | with_reducible apply State.setReg_kept
    | with_reducible apply State.setFault_kept
    | exact Foot.bit hm rfl
    | exact Foot.trans rfl hm
    | intro x (hx : State.kept m b x)

theorem execFltSw_keeps {m : Nat} {b : State} (req : Requester) (v : Bool) (s : State) (hs : b.kept m s)
    (hm : Foot.sub 0x1010888180000000000C00002892 m := by
      first | assumption | exact Foot.bit (by assumption) rfl | exact Foot.trans rfl (by assumption)) :
    b.keeps m (execFltSw req v s) := by
  unfold execFltSw
  repeat' first
    | with_reducible assumption
    | with_reducible apply access_keeps
    | with_reducible apply State.fltCfgWrite_kept
    | exact Foot.trans rfl hm
    | intro x (hx : State.kept m b x)

theorem execEscalationTimeout_keeps {m : Nat} {b : State} (flight : List (Block × Bool)) (s : State) (hs : b.kept m s)
    (hm : Foot.sub (allRegs ||| 0x17FFFFFBBF) m := by
      first | assumption | exact Foot.bit (by assumption) rfl | exact Foot.trans rfl (by assumption)) :
    b.keeps m (execEscalationTimeout flight s) := by
  unfold execEscalationTimeout
  repeat' first
    | with_reducible assumption
    | with_reducible apply State.wr_kept
    | with_reducible apply State.resetTo_kept
    | with_reducible apply kept_ite
    | with_reducible apply keeps_ite
    | with_reducible apply State.keeps_next
    | exact Foot.bit hm rfl
    | exact Foot.trans rfl hm
    | intro x (hx : State.kept m b x)
    | intro _ x (hx : State.kept m b x)
    | intro x _ (hx : State.kept m b x)
    | intro x _ (hx : State.kept m b x.1)
    | lift_lets
    | intro _

theorem State.setSupply_kept {m : Nat} {b : State} (s : State) (v : Nat) (rail : Flag) (hs : b.kept m s)
    (hm : Foot.sub 0x84000000000001010888000000000000C00000090 m := by
      first | assumption | exact Foot.bit (by assumption) rfl | exact Foot.trans rfl (by assumption)) :
    b.kept m (State.setSupply s v rail) := by
  unfold State.setSupply
  repeat' first
    | with_reducible assumption
    | with_reducible apply State.wr_kept
    | with_reducible apply State.raise_kept
    | with_reducible apply State.setInhibit_kept
    | with_reducible apply kept_ite
    | exact Foot.bit hm rfl
    | exact Foot.trans rfl hm
    | lift_lets
    | (intro x; refine kept_cut (m := m) (b := b) (x := x) ?_ ?_ <;> [skip; (clear_value x; intro hx)])
    | intro _

theorem State.enterShutdown_kept {m : Nat} {b : State} (s : State) (bit : Nat) (rail : Flag)
    (flight : List (Block × Bool)) (hs : b.kept m s) (hm : Foot.sub (allRegs ||| 0x1FFFFFFBBF) m := by
      first | assumption | exact Foot.bit (by assumption) rfl | exact Foot.trans rfl (by assumption)) :
    b.kept m (State.enterShutdown s bit rail flight) := by
  unfold State.enterShutdown
  repeat' first
    | with_reducible assumption
    | with_reducible apply State.wr_kept
    | with_reducible apply State.setSupply_kept
    | with_reducible apply State.resetTo_kept
    | with_reducible apply kept_ite
    | with_reducible apply keeps_ite
    | with_reducible apply State.keeps_next
    | exact Foot.bit hm rfl
    | exact Foot.trans rfl hm
    | intro x (hx : State.kept m b x)
    | intro _ x (hx : State.kept m b x)
    | intro x _ (hx : State.kept m b x)
    | intro x _ (hx : State.kept m b x.1)
    | lift_lets
    | (intro x; refine kept_cut (m := m) (b := b) (x := x) ?_ ?_ <;> [skip; (clear_value x; intro hx)])
    | (intro x; clear_value x)
    | intro _
    | with_reducible apply kept_boot

theorem State.ioZone_kept {m : Nat} {b : State} (s : State) (z : Nat) (flight : List (Block × Bool)) (hs : b.kept m s)
    (hm : Foot.sub (allRegs ||| 0x1FFFFFFBBF) m := by
      first | assumption | exact Foot.bit (by assumption) rfl | exact Foot.trans rfl (by assumption)) :
    b.kept m (State.ioZone s z flight) := by
  unfold State.ioZone
  repeat' first
    | with_reducible assumption
    | with_reducible apply State.enterShutdown_kept
    | with_reducible apply State.setSupply_kept
    | with_reducible apply kept_ite
    | with_reducible apply keeps_ite
    | with_reducible apply State.keeps_next
    | exact Foot.bit hm rfl
    | exact Foot.trans rfl hm
    | intro x (hx : State.kept m b x)
    | intro _ x (hx : State.kept m b x)
    | intro x _ (hx : State.kept m b x)
    | intro x _ (hx : State.kept m b x.1)
    | lift_lets
    | (intro x; clear_value x)
    | intro _
    | with_reducible apply kept_belay

theorem execSupplyThresholdCross_keeps {m : Nat} {b : State} (e : RailEdge) (flight : List (Block × Bool)) (s : State)
    (hs : b.kept m s) (hm : Foot.sub (allRegs ||| 0x1FFFFFFBBF) m := by
      first | assumption | exact Foot.bit (by assumption) rfl | exact Foot.trans rfl (by assumption)) :
    b.keeps m (execSupplyThresholdCross e flight s) := by
  unfold execSupplyThresholdCross
  repeat' first
    | with_reducible assumption
    | with_reducible apply State.ioZone_kept
    | with_reducible apply State.enterShutdown_kept
    | with_reducible apply kept_ite
    | with_reducible apply keeps_ite
    | with_reducible apply State.keeps_next
    | exact Foot.bit hm rfl
    | exact Foot.trans rfl hm
    | intro x (hx : State.kept m b x)
    | intro _ x (hx : State.kept m b x)
    | intro x _ (hx : State.kept m b x)
    | intro x _ (hx : State.kept m b x.1)
    | lift_lets
    | intro _
    | refine kept_pair (by assumption) ?_
    | split

theorem execPwrWarn_keeps {m : Nat} {b : State} (low : Bool) (s : State) (hs : b.kept m s)
    (hm : Foot.sub 0x84000000000001010888000000000000C00000090 m := by
      first | assumption | exact Foot.bit (by assumption) rfl | exact Foot.trans rfl (by assumption)) :
    b.keeps m (execPwrWarn low s) := by
  unfold execPwrWarn
  repeat' first
    | with_reducible assumption
    | with_reducible apply State.wr_kept
    | with_reducible apply State.setSupply_kept
    | with_reducible apply State.keeps_next
    | exact Foot.bit hm rfl

theorem execShutdownRestart_keeps {m : Nat} {b : State} (s : State) (hs : b.kept m s)
    (hm : Foot.sub (allRegs ||| 0x17FFFFFBBF) m := by
      first | assumption | exact Foot.bit (by assumption) rfl | exact Foot.trans rfl (by assumption)) :
    b.keeps m (execShutdownRestart s) := by
  unfold execShutdownRestart
  repeat' first
    | with_reducible assumption
    | with_reducible apply State.wr_kept
    | with_reducible apply State.resetTo_kept
    | with_reducible apply kept_ite
    | with_reducible apply State.keeps_next
    | exact Foot.bit hm rfl
    | lift_lets
    | (intro x; refine kept_cut (m := m) (b := b) (x := x) ?_ ?_ <;> [skip; (clear_value x; intro hx)])
    | (intro x; clear_value x)
    | intro _
    | with_reducible apply kept_boot

theorem State.setDerate_kept {m : Nat} {b : State} (s : State) (v : Bool) (hs : b.kept m s)
    (hm : Foot.sub 0x84000000000000000888000000000000C00000090 m := by
      first | assumption | exact Foot.bit (by assumption) rfl | exact Foot.trans rfl (by assumption)) :
    b.kept m (State.setDerate s v) := by
  unfold State.setDerate
  repeat' first
    | with_reducible assumption
    | with_reducible apply State.raise_kept
    | with_reducible apply State.wr_kept
    | with_reducible apply kept_ite
    | exact Foot.bit hm rfl
    | exact Foot.trans rfl hm
    | lift_lets
    | intro _

theorem execTjSample_keeps {m : Nat} {b : State} (flight : List (Block × Bool)) (s : State) (hs : b.kept m s)
    (hm : Foot.sub (allRegs ||| 0x1FFFFFFBBF) m := by
      first | assumption | exact Foot.bit (by assumption) rfl | exact Foot.trans rfl (by assumption)) :
    b.keeps m (execTjSample flight s) := by
  unfold execTjSample
  repeat' first
    | with_reducible assumption
    | with_reducible apply act_keeps
    | with_reducible apply State.wr_kept
    | with_reducible apply State.setDerate_kept
    | with_reducible apply State.enterShutdown_kept
    | with_reducible apply kept_ite
    | with_reducible apply keeps_ite
    | with_reducible apply State.keeps_next
    | exact Foot.bit hm rfl
    | exact Foot.trans rfl hm
    | intro x (hx : State.kept m b x)
    | intro _ x (hx : State.kept m b x)
    | intro x _ (hx : State.kept m b x)
    | intro x _ (hx : State.kept m b x.1)
    | lift_lets
    | (intro x; clear_value x)
    | intro _
    | with_reducible apply kept_belay

theorem State.afterBelay_kept {m : Nat} {b : State} (s : State) (hs : b.kept m s)
    (hm : Foot.sub 0x84000000000001010888000000000000C00000090 m := by
      first | assumption | exact Foot.bit (by assumption) rfl | exact Foot.trans rfl (by assumption)) :
    b.kept m (State.afterBelay s) := by
  unfold State.afterBelay
  repeat' first
    | with_reducible assumption
    | with_reducible apply State.setSupply_kept

end Sys2Proof.Machine
end

