-- ==== Sys2Proof/Laws/KeptSeconds.lean ====
section
/-! SUPPORT. What every operation of Machine/Seconds.lean keeps: see Laws/Kept.lean. -/

-- The proofs of the whole text do not run side by side: their memory adds up.
set_option Elab.async false

namespace Sys2Proof.Machine

open Sys2Proof

theorem State.blockSecond_kept {m : Nat} {b : State} (s : State) (a1 : Nat) (f : State → State) (hs : b.kept m s)
    (hf : ∀ y0, b.kept m y0 → b.kept m (f y0)) :
    b.kept m (State.blockSecond s a1 f) := by
  unfold State.blockSecond
  repeat' first
    | with_reducible assumption
    | with_reducible apply hf
    | with_reducible apply kept_ite
    | lift_lets
    | intro _

theorem execSecondRollover_keeps {m : Nat} {b : State} (s : State) (hs : b.kept m s)
    (hm : Foot.sub 0x200000000000000000000000008902000E0400000000400888000000000000DD660D394 m := by
      first | assumption | exact Foot.bit (by assumption) rfl | exact Foot.trans rfl (by assumption)) :
    b.keeps m (execSecondRollover s) := by
  unfold execSecondRollover
  repeat' first
    | with_reducible assumption
    | with_reducible apply State.blockSecond_kept
    | with_reducible apply State.halyardSecond_kept
    | with_reducible apply State.memorySecond_kept
    | with_reducible apply State.rolesSecond_kept
    | with_reducible apply State.marlineSecond_kept
    | with_reducible apply State.whipSecond_kept
    | with_reducible apply State.belaySecond_kept
    | with_reducible apply State.tallySecond_kept
    | with_reducible apply State.cleatSecond_kept
    | with_reducible apply State.seizingSecond_kept
    | with_reducible apply State.bendSecond_kept
    | with_reducible apply State.twineSecond_kept
    | with_reducible apply State.keeps_next
    | exact Foot.trans rfl hm
    | intro x (hx : State.kept m b x)

end Sys2Proof.Machine
end

