-- ==== Sys2Proof/Laws/KeptLinePath.lean ====
section
/-! SUPPORT. What every operation of Machine/LinePath.lean keeps: see Laws/Kept.lean. -/

-- The proofs of the whole text do not run side by side: their memory adds up.
set_option Elab.async false

namespace Sys2Proof.Machine

open Sys2Proof

theorem State.beginMultiframe_kept {m : Nat} {b : State} (s : State) (n : Nat) (hs : b.kept m s)
    (hm : Foot.sub 0xE032320089000000000000000000000000000000000000000888000000000000C16A010B0 m := by
      first | assumption | exact Foot.bit (by assumption) rfl | exact Foot.trans rfl (by assumption)) :
    b.kept m (State.beginMultiframe s n) := by
  unfold State.beginMultiframe
  repeat' first
    | with_reducible assumption
    | with_reducible apply State.takeGcc_kept
    | with_reducible apply State.offerCopies_kept
    | with_reducible apply State.startMultiframe_kept
    | with_reducible apply kept_ite
    | with_reducible apply keeps_ite
    | with_reducible apply State.keeps_next
    | exact Foot.bit hm rfl
    | exact Foot.trans rfl hm

theorem execFrameTransmit_keeps {m : Nat} {b : State} (n : Line) (f : Byte) (s : State) (hs : b.kept m s)
    (hm : Foot.sub 0xE03232008F000000000000000000000000000000000000000888080000000000C16A230B0 m := by
      first | assumption | exact Foot.bit (by assumption) rfl | exact Foot.trans rfl (by assumption)) :
    b.keeps m (execFrameTransmit n f s) := by
  unfold execFrameTransmit
  repeat' first
    | with_reducible assumption
    | with_reducible apply act_keeps
    | with_reducible apply State.newSettings_kept
    | with_reducible apply State.sendWave_kept
    | with_reducible apply State.sendOzr_kept
    | with_reducible apply State.beginMultiframe_kept
    | with_reducible apply State.sendFrame_kept
    | with_reducible apply kept_ite
    | with_reducible apply keeps_ite
    | with_reducible apply State.keeps_next
    | exact Foot.bit hm rfl
    | exact Foot.trans rfl hm
    | intro x (hx : State.kept m b x)
    | intro _ x (hx : State.kept m b x)
    | intro x _ (hx : State.kept m b x)
    | intro x _ (hx : State.kept m b x.1)
    | lift_lets
    | (intro x; refine kept_cut (m := m) (b := b) (x := x) ?_ ?_ <;> [skip; (clear_value x; intro hx)])
    | intro _

theorem execMobReceived_keeps {m : Nat} {b : State} (n : Line) (s : State) (hs : b.kept m s)
    (hm : Foot.sub 0xE03210148F0000000020004C0000000000000000000000000888080000000000C16862090 m := by
      first | assumption | exact Foot.bit (by assumption) rfl | exact Foot.trans rfl (by assumption)) :
    b.keeps m (execMobReceived n s) := by
  unfold execMobReceived
  repeat' first
    | with_reducible assumption
    | with_reducible apply act_keeps
    | with_reducible apply State.setHit_kept
    | with_reducible apply State.hitchMob_kept
    | with_reducible apply State.braidUpdate_kept
    | with_reducible apply State.spliceUpdate_kept
    | with_reducible apply kept_ite
    | with_reducible apply keeps_ite
    | with_reducible apply State.keeps_next
    | exact Foot.bit hm rfl
    | exact Foot.trans rfl hm
    | intro x (hx : State.kept m b x)
    | intro _ x (hx : State.kept m b x)
    | intro x _ (hx : State.kept m b x)
    | intro x _ (hx : State.kept m b x.1)
    | lift_lets
    | (intro x; refine kept_cut (m := m) (b := b) (x := x) ?_ ?_ <;> [skip; (clear_value x; intro hx)])
    | (intro x; clear_value x)
    | intro _

end Sys2Proof.Machine
end

