-- ==== Sys2Proof/Laws/KeptCommit.lean ====
section
/-! SUPPORT. What every operation of Machine/Commit.lean keeps: see Laws/Kept.lean. -/

-- The proofs of the whole text do not run side by side: their memory adds up.
set_option Elab.async false

namespace Sys2Proof.Machine

open Sys2Proof

theorem modeFlds_bits {m : Nat} (n : Nat) (hm : m.testBit (regBit .TOP_MODE_STAT) = true) :
    m.testBit (regBit (modeFlds n).1.id) = true ∧ m.testBit (regBit (modeFlds n).2.id) = true ∧
      m.testBit (regBit (busyFld n).id) = true := by
  unfold modeFlds busyFld
  rcases n with _ | _ | n <;> exact ⟨hm, hm, hm⟩

theorem State.lineOff_kept {m : Nat} {b : State} (s : State) (n : Nat) (hs : b.kept m s) (hm : Foot.sub 0xE0321000830420981CE0004406800000001C0400000000000888084000000000C16BF2098 m := by
      first | assumption | exact Foot.trans rfl (by assumption)) : b.kept m (s.lineOff n) := by
  unfold State.lineOff
  obtain ⟨h1, h2, h3⟩ := modeFlds_bits n (Foot.bit hm rfl)
  have h := State.hitchOff_kept _ n (State.cleatOff_kept _ n (State.spliceOff_kept _ n (State.braidOff_kept _ n
    (State.wr_kept _ (busyFld n) 0 0 0 0 (State.wr_kept _ (modeFlds n).2 0 0 0 0
      (State.wr_kept _ (modeFlds n).1 0 0 0 0 hs h1) h2) h3))))
  exact kept_ite (fun _ => State.hubOff_kept _ _ h) fun _ => h

theorem State.lineOn_kept {m : Nat} {b : State} (s : State) (n : Nat) (hs : b.kept m s)
    (hm : Foot.sub 0xE0321000010000981CE0004402800000001C0400000000000888084000000000C16BC2090 m := by
      first | assumption | exact Foot.bit (by assumption) rfl | exact Foot.trans rfl (by assumption)) :
    b.kept m (State.lineOn s n) := by
  unfold State.lineOn
  obtain ⟨h1, h2, h3⟩ := modeFlds_bits n (Foot.bit hm rfl)
  have h := fun a c => State.spliceOn_kept _ n (State.braidOn_kept _ n (State.hitchOn_kept _ n (State.cleatOn_kept _ n
    (State.wr_kept _ (busyFld n) 1 0 0 0 (State.wr_kept _ (modeFlds n).2 c 0 0 0
      (State.wr_kept _ (modeFlds n).1 a 0 0 0 hs h1) h2) h3))))
  exact State.lineConsequences_kept _ _ (kept_ite (fun _ => State.hubOn_kept _ _ (h _ _)) fun _ => h _ _)

theorem afterTop_kept {m : Nat} {b : State} (new : State) (hnew : b.kept m new)
    (hm : Foot.sub 0x1C1C0000E0321000830420981CE0004406800000001C0400000000000888084000000000C36BF2098 m := by
      first | assumption | exact Foot.bit (by assumption) rfl | exact Foot.trans rfl (by assumption)) :
    b.kept m (afterTop new) := by
  unfold afterTop
  repeat' first
    | with_reducible assumption
    | with_reducible apply State.each_kept
    | with_reducible apply State.lineOff_kept
    | with_reducible apply State.lineOn_kept
    | with_reducible apply State.mateChanged_kept
    | with_reducible apply State.wr_kept
    | with_reducible apply kept_ite
    | exact Foot.bit hm rfl
    | exact Foot.trans rfl hm
    | intro _ x (hx : State.kept m b x)
    | lift_lets
    | intro _

theorem afterSet_kept {m : Nat} {b : State} (a0 : Nat) (old : State) (new : State) (hold : b.kept m old)
    (hnew : b.kept m new)
    (hm : Foot.sub 0x1C1C3600E03212008F0420981DE0004C06800000841C0400001B01018888084000000000C36FF3098 m := by
      first | assumption | exact Foot.bit (by assumption) rfl | exact Foot.trans rfl (by assumption)) :
    b.kept m (afterSet a0 old new) := by
  unfold afterSet
  repeat' first
    | with_reducible assumption
    | with_reducible apply afterTop_kept
    | with_reducible apply afterMarline_kept
    | with_reducible apply afterHlyd_kept
    | with_reducible apply State.afterBelay_kept
    | with_reducible apply State.each_kept
    | with_reducible apply afterBraid_kept
    | with_reducible apply State.refreshCtrl_kept
    | with_reducible apply afterSplice_kept
    | with_reducible apply afterBight_kept
    | with_reducible apply afterCleat_kept
    | with_reducible apply State.refreshBpq_kept
    | with_reducible apply afterHitch_kept
    | with_reducible apply afterSeizing_kept
    | with_reducible apply State.refreshSegments_kept
    | with_reducible apply afterBend_kept
    | with_reducible apply afterSheet_kept
    | with_reducible apply State.refreshPaths_kept
    | with_reducible apply State.rateChecked_kept
    | with_reducible apply afterTwine_kept
    | with_reducible apply afterLanyard_kept
    | with_reducible apply kept_ite
    | with_reducible apply keeps_ite
    | with_reducible apply State.keeps_next
    | exact Foot.reg hm rfl
    | exact Foot.refuse hm rfl
    | exact Foot.bit hm rfl
    | exact Foot.trans rfl hm
    | intro x (hx : State.kept m b x)
    | intro _ x (hx : State.kept m b x)
    | intro x _ (hx : State.kept m b x)
    | intro x _ (hx : State.kept m b x.1)
    | lift_lets
    | (intro x; refine kept_cut (m := m) (b := b) (x := x) ?_ ?_ <;> [skip; (clear_value x; intro hx)])
    | intro _
    | refine kept_pair (by assumption) ?_
    | split

theorem State.applySet_kept {m : Nat} {b : State} (s : State) (t : State) (a2 : Nat) (st : RegId) (hs : b.kept m s)
    (ht : b.kept m t)
    (hm : Foot.sub 0x1C1C3600E03212008F0420981DE0004C06800000841C0400001B01018888084000000000D36FF3099 m := by
      first | assumption | exact Foot.bit (by assumption) rfl | exact Foot.trans rfl (by assumption))
    (hmst : m.testBit (regBit st) = true := by
      first | assumption | exact Foot.bit (by assumption) rfl | exact Foot.trans rfl (by assumption)) :
    b.kept m (State.applySet s t a2 st) := by
  unfold State.applySet
  refine State.incWrap_kept _ _ _ _ _ _ (State.wr_kept _ _ _ _ _ _ ?_)
  apply kept_ite <;> intro _
  · exact kept_tally (s := { s with shadow := t.shadow }) _ (kept_shadow_from hs ht)
  · exact kept_ite (fun _ => ht) fun _ => afterSet_kept _ _ _ hs ht

theorem State.refuseSet_kept {m : Nat} {b : State} (s : State) (a1 : Nat) (st : RegId) (x : Breach) (hs : b.kept m s)
    (hm : Foot.sub 0x888000000000000C00000090 m := by
      first | assumption | exact Foot.bit (by assumption) rfl | exact Foot.trans rfl (by assumption)) (hma1 : Foot.sub (refuseFoot a1) m := by
      first | assumption | exact Foot.bit (by assumption) rfl | exact Foot.trans rfl (by assumption))
    (hmst : m.testBit (regBit st) = true := by
      first | assumption | exact Foot.bit (by assumption) rfl | exact Foot.trans rfl (by assumption)) :
    b.kept m (State.refuseSet s a1 st x) := by
  unfold State.refuseSet
  repeat' first
    | with_reducible assumption
    | with_reducible apply State.refuse_kept
    | with_reducible apply State.wr_kept

theorem State.crcBad_kept {m : Nat} {b : State} (s : State) (a1 : Nat) (st : RegId) (hs : b.kept m s)
    (hm : Foot.sub 0x888000400000000C00000090 m := by
      first | assumption | exact Foot.bit (by assumption) rfl | exact Foot.trans rfl (by assumption)) (hmst : m.testBit (regBit st) = true := by
      first | assumption | exact Foot.bit (by assumption) rfl | exact Foot.trans rfl (by assumption)) :
    b.kept m (State.crcBad s a1 st) := by
  unfold State.crcBad
  repeat' first
    | with_reducible assumption
    | with_reducible apply State.wr_kept
    | with_reducible apply State.inc_kept
    | with_reducible apply State.event_kept
    | with_reducible apply kept_ite
    | exact Foot.bit hm rfl
    | exact Foot.trans rfl hm
    | lift_lets
    | intro _

theorem State.judgeCommit_kept {m : Nat} {b : State} (s : State) (t : State) (req : Requester) (a3 : Nat) (crc : Nat)
    (st : RegId) (hs : b.kept m s) (ht : b.kept m t)
    (hm : Foot.sub 0x1C1C3600E03212008F0420981DE0004C06800000841C0400001B01018888084400000000D36FF3099 m := by
      first | assumption | exact Foot.bit (by assumption) rfl | exact Foot.trans rfl (by assumption))
    (hma3 : Foot.sub (refuseFoot a3) m := by
      first | assumption | exact Foot.bit (by assumption) rfl | exact Foot.trans rfl (by assumption)) (hmst : m.testBit (regBit st) = true := by
      first | assumption | exact Foot.bit (by assumption) rfl | exact Foot.trans rfl (by assumption)) :
    b.kept m (State.judgeCommit s t req a3 crc st).1 := by
  unfold State.judgeCommit
  repeat' first
    | with_reducible assumption
    | with_reducible apply State.crcBad_kept
    | with_reducible apply State.refuseSet_kept
    | with_reducible apply State.denied_kept
    | with_reducible apply State.wr_kept
    | with_reducible apply State.applySet_kept
    | exact Foot.trans rfl hm
    | split

theorem State.commit_kept {m : Nat} {b : State} (s : State) (req : Requester) (a2 : Nat) (crc : Nat) (hs : b.kept m s)
    (hm : Foot.sub (allRegs ||| 0xD36FF3899) m := by
      first | assumption | exact Foot.bit (by assumption) rfl | exact Foot.trans rfl (by assumption)) (hma2 : Foot.sub (refuseFoot a2) m := by
      first | assumption | exact Foot.bit (by assumption) rfl | exact Foot.trans rfl (by assumption)) :
    b.kept m (State.commit s req a2 crc) := by
  unfold State.commit
  repeat' first
    | with_reducible assumption
    | with_reducible apply State.unassignedWrite_kept
    | with_reducible apply State.takeShadow_kept
    | with_reducible apply State.unjournaled_kept
    | with_reducible apply State.judgeCommit_kept
    | with_reducible apply State.record_kept
    | with_reducible apply kept_ite
    | exact Foot.reg hm rfl
    | exact Foot.trans rfl hm
    | lift_lets
    | (intro x; refine kept_cut (m := m) (b := b) (x := x) ?_ ?_ <;> [skip; (clear_value x; intro hx)])
    | (intro x; clear_value x)
    | intro _
    | split

theorem State.commitAccess_kept {m : Nat} {b : State} (s : State) (req : Requester) (a2 : Nat) (crc : Nat)
    (hs : b.kept m s) (hm : Foot.sub (allRegs ||| 0xD36FF389B) m := by
      first | assumption | exact Foot.bit (by assumption) rfl | exact Foot.trans rfl (by assumption)) (hma2 : Foot.sub (refuseFoot a2) m := by
      first | assumption | exact Foot.bit (by assumption) rfl | exact Foot.trans rfl (by assumption)) :
    b.kept m (State.commitAccess s req a2 crc) := by
  unfold State.commitAccess
  repeat' first
    | with_reducible assumption
    | with_reducible apply State.dropLatch_kept
    | with_reducible apply State.commit_kept
    | with_reducible apply kept_ite
    | exact Foot.trans rfl hm
    | lift_lets
    | intro _

theorem execCommit_keeps {m : Nat} {b : State} (req : Requester) (block : Block) (crc : BitVec 32) (s : State)
    (hs : b.kept m s) (hm : Foot.sub (allRegs ||| 0xD36FF389B) m := by
      first | assumption | exact Foot.bit (by assumption) rfl | exact Foot.trans rfl (by assumption)) :
    b.keeps m (execCommit req block crc s) := by
  unfold execCommit
  repeat' first
    | with_reducible assumption
    | with_reducible apply State.commitAccess_kept
    | with_reducible apply State.keeps_next
    | exact Foot.refuse hm rfl

end Sys2Proof.Machine
end

