-- ==== Sys2Proof/Laws/KeptAccess.lean ====
section
/-! SUPPORT. What every operation of Machine/Access.lean keeps: see Laws/Kept.lean. -/

-- The proofs of the whole text do not run side by side: their memory adds up.
set_option Elab.async false

namespace Sys2Proof.Machine

open Sys2Proof

theorem State.present_kept {m : Nat} {b : State} (s : State) (r : RegKey) (hs : b.kept m s)
    (hm : Foot.sub 0x400000000 m := by
      first | assumption | exact Foot.bit (by assumption) rfl | exact Foot.trans rfl (by assumption)) :
    b.kept m (State.present s r).1 := by
  unfold State.present
  repeat' first
    | with_reducible assumption
    | with_reducible apply State.draw_kept
    | lift_lets
    | (intro x; clear_value x)
    | split

theorem State.readValue_kept {m : Nat} {b : State} (s : State) (r : RegKey) (hs : b.kept m s)
    (hm : Foot.sub 0x200000000000400000000 m := by
      first | assumption | exact Foot.bit (by assumption) rfl | exact Foot.trans rfl (by assumption)) :
    b.kept m (State.readValue s r).1 := by
  unfold State.readValue
  repeat' first
    | with_reducible assumption
    | with_reducible apply State.present_kept
    | with_reducible apply State.wr_kept
    | with_reducible apply kept_ite
    | exact Foot.bit hm rfl
    | exact Foot.trans rfl hm
    | lift_lets
    | intro _

theorem State.latch_kept {m : Nat} {b : State} (s : State) (req : Requester) (r : RegKey) (high : Nat)
    (hs : b.kept m s) (hm : Foot.sub 0x40000000000000002 m := by
      first | assumption | exact Foot.bit (by assumption) rfl | exact Foot.trans rfl (by assumption)) :
    b.kept m (State.latch s req r high) := by
  unfold State.latch
  dsimp only
  split
  · exact kept_latches _ hs
  · split
    · exact hs
    · exact kept_latches _ (State.inc_kept _ _ _ _ _ _ hs)

theorem State.reachedValue_kept {m : Nat} {b : State} (s : State) (req : Requester) (r : RegKey) (hs : b.kept m s)
    (hm : Foot.sub 0x1018888200000000000C00000090 m := by
      first | assumption | exact Foot.bit (by assumption) rfl | exact Foot.trans rfl (by assumption)) :
    b.kept m (State.reachedValue s req r).1 := by
  unfold State.reachedValue
  split
  · split
    · exact State.readValue_kept _ _ hs
    · exact State.draw_kept _ (State.endAccess_kept _ _ _ _ hs fun _ h => h)
  · split
    · exact State.draw_kept _ (State.authWindow_kept _ _ _ hs fun _ h => h)
    · exact State.readValue_kept _ _ hs

theorem State.readPiece_kept {m : Nat} {b : State} (s : State) (req : Requester) (addr : Nat) (n : Nat)
    (hs : b.kept m s) (hm : Foot.sub 0x1018888200000000000C00000090 m := by
      first | assumption | exact Foot.bit (by assumption) rfl | exact Foot.trans rfl (by assumption)) :
    b.kept m (State.readPiece s req addr n).1 := by
  unfold State.readPiece
  repeat' first
    | with_reducible assumption
    | with_reducible apply State.reachedValue_kept
    | split

theorem State.read64_kept {m : Nat} {b : State} (s : State) (req : Requester) (addr : Nat) (hs : b.kept m s)
    (hm : Foot.sub 0x1018888200000000000C00000090 m := by
      first | assumption | exact Foot.bit (by assumption) rfl | exact Foot.trans rfl (by assumption)) :
    b.kept m (State.read64 s req addr).1 := by
  unfold State.read64
  repeat' first
    | with_reducible assumption
    | with_reducible apply State.readPiece_kept
    | split

theorem State.read32_kept {m : Nat} {b : State} (s : State) (req : Requester) (latch : Option Latch) (addr : Nat)
    (hs : b.kept m s) (hm : Foot.sub 0x1018888200040000000C00000092 m := by
      first | assumption | exact Foot.bit (by assumption) rfl | exact Foot.trans rfl (by assumption)) :
    b.kept m (State.read32 s req latch addr).1 := by
  unfold State.read32
  obtain _ | ⟨r, w⟩ := findReg addr
  · exact hs
  · dsimp only
    split
    · split
      · generalize hp : s.reachedValue req r = p
        have h : b.kept m p.1 := by rw [← hp]; exact State.reachedValue_kept _ _ _ hs
        exact kept_ite (fun _ => State.latch_kept _ _ _ _ h) fun _ => h
      · split
        · exact hs
        · exact State.readPiece_kept _ _ _ _ hs
    · exact State.readPiece_kept _ _ _ _ hs

theorem State.readAccess_kept {m : Nat} {b : State} (s : State) (req : Requester) (addr : Nat) (wide : Bool)
    (hs : b.kept m s) (hm : Foot.sub 0x1018888200040000000C00000092 m := by
      first | assumption | exact Foot.bit (by assumption) rfl | exact Foot.trans rfl (by assumption)) :
    b.kept m (State.readAccess s req addr wide) := by
  unfold State.readAccess
  repeat' first
    | with_reducible assumption
    | with_reducible apply State.dropLatch_kept
    | with_reducible apply State.emit_kept
    | with_reducible apply State.read64_kept
    | with_reducible apply State.read32_kept
    | with_reducible apply State.inc_kept
    | with_reducible apply kept_ite
    | exact Foot.bit hm rfl
    | exact Foot.trans rfl hm
    | lift_lets
    | intro _
    | split

theorem State.malformed_kept {m : Nat} {b : State} (s : State) (req : Requester) (addr : Nat) (read : Bool)
    (hs : b.kept m s) (hm : Foot.sub 0x1B014D8888000040000000C00001A92 m := by
      first | assumption | exact Foot.bit (by assumption) rfl | exact Foot.trans rfl (by assumption)) :
    b.kept m (State.malformed s req addr read) := by
  unfold State.malformed
  repeat' first
    | with_reducible assumption
    | with_reducible apply State.dropLatch_kept
    | with_reducible apply State.inc_kept
    | with_reducible apply State.emit_kept
    | with_reducible apply State.dataError_kept
    | with_reducible apply kept_ite
    | exact Foot.bit hm rfl
    | exact Foot.trans rfl hm
    | lift_lets
    | (intro x; refine kept_cut (m := m) (b := b) (x := x) ?_ ?_ <;> [skip; (clear_value x; intro hx)])
    | intro _
    | split

theorem State.plainWrite_kept {m : Nat} {b : State} (s : State) (r : RegKey) (v : Nat) (hs : b.kept m s)
    (hm : Foot.sub 0x1 m := by
      first | assumption | exact Foot.bit (by assumption) rfl | exact Foot.trans rfl (by assumption)) (hmr : m.testBit (regBit r.id) = true := by
      first | assumption | exact Foot.bit (by assumption) rfl | exact Foot.trans rfl (by assumption)) :
    b.kept m (State.plainWrite s r v) := by
  unfold State.plainWrite
  have h := fun v => kept_putReg r v hs
  exact kept_ite (fun _ => h _) fun _ => kept_shadow' _ (h _) fun hw => RegStore.wf_put _ _ _ hw

theorem State.writeEffect_kept {m : Nat} {b : State} (s : State) (r : RegKey) (v : Nat) (inc : Nat) (hs : b.kept m s)
    (hm : Foot.sub (allRegs ||| 0xC006E0091) m := by
      first | assumption | exact Foot.bit (by assumption) rfl | exact Foot.trans rfl (by assumption)) (hmr : m.testBit (regBit r.id) = true := by
      first | assumption | exact Foot.bit (by assumption) rfl | exact Foot.trans rfl (by assumption)) :
    b.kept m (State.writeEffect s r v inc) := by
  unfold State.writeEffect
  repeat' first
    | with_reducible assumption
    | with_reducible apply State.plainWrite_kept
    | with_reducible apply State.manGo_kept
    | with_reducible apply State.dacReq_kept
    | with_reducible apply State.adcReq_kept
    | with_reducible apply State.startScan_kept
    | with_reducible apply State.refEval_kept
    | with_reducible apply State.pdWrite_kept
    | with_reducible apply State.keepSd_kept
    | with_reducible apply State.keepSc_kept
    | with_reducible apply State.wr_kept
    | with_reducible apply State.count_kept
    | with_reducible apply kept_ite
    | with_reducible apply keeps_ite
    | with_reducible apply State.keeps_next
    | exact Foot.reg hm rfl
    | exact Foot.refuse hm rfl
    | exact Foot.bit hm rfl
    | exact Foot.trans rfl hm
    | intro x (hx : State.kept m b x)
    | intro _ x (hx : State.kept m b x)
    | intro x _ (hx : State.kept m b x)
    | intro x _ (hx : State.kept m b x.1)
    | lift_lets
    | (intro x; refine kept_cut (m := m) (b := b) (x := x) ?_ ?_ <;> [skip; (clear_value x; intro hx)])
    | (intro x; clear_value x)
    | intro _
    | refine kept_pair (by assumption) ?_
    | split

theorem State.serviceField_kept {m : Nat} {b : State} (s : State) (req : Requester) (r : RegKey) (lo : Nat) (n : Nat)
    (v : Nat) (hs : b.kept m s) (hm : Foot.sub 0x1010888000000000000C00000090 m := by
      first | assumption | exact Foot.bit (by assumption) rfl | exact Foot.trans rfl (by assumption)) :
    b.kept m (State.serviceField s req r lo n v) := by
  unfold State.serviceField
  repeat' first
    | with_reducible assumption
    | with_reducible apply State.denied_kept
    | with_reducible apply kept_ite
    | lift_lets
    | (intro x; clear_value x)
    | intro _
    | split

theorem State.regWrite_kept {m : Nat} {b : State} (s : State) (req : Requester) (r : RegKey) (lo : Nat) (n : Nat)
    (v : Nat) (inc : Nat) (hs : b.kept m s) (hm : Foot.sub (allRegs ||| 0x1FFFFFFBBF) m := by
      first | assumption | exact Foot.bit (by assumption) rfl | exact Foot.trans rfl (by assumption))
    (hmr : m.testBit (regBit r.id) = true := by
      first | assumption | exact Foot.bit (by assumption) rfl | exact Foot.trans rfl (by assumption)) :
    b.kept m (State.regWrite s req r lo n v inc) := by
  unfold State.regWrite
  dsimp only
  have hid : ∀ t, b.kept m t → b.kept m (id t) := fun _ h => h
  split
  repeat' first
    | with_reducible assumption
    | with_reducible apply State.topReset_kept
    | with_reducible apply State.fltCfgWrite_kept
    | with_reducible apply State.memCfgWrite_kept
    | with_reducible apply State.regionCfgWrite_kept
    | with_reducible apply State.ringCfgWrite_kept
    | with_reducible apply State.endAccess_kept
    | with_reducible apply State.authWindow_kept
    | with_reducible apply State.authCtl_kept
    | with_reducible apply State.injectWrite_kept
    | with_reducible apply State.dpllCtlWrite_kept
    | with_reducible apply State.pstepWrite_kept
    | with_reducible apply State.todSetWrite_kept
    | with_reducible apply State.monCtlWrite_kept
    | with_reducible apply State.urgWrite_kept
    | with_reducible apply State.spliceCmd_kept
    | with_reducible apply State.txCfgWrite_kept
    | with_reducible apply State.txffeWrite_kept
    | with_reducible apply State.mateLaneWrite_kept
    | with_reducible apply State.endWrite_kept
    | with_reducible apply State.mbPost_kept
    | with_reducible apply State.mbPop_kept
    | with_reducible apply State.plainWrite_kept
    | with_reducible apply State.serviceField_kept
    | with_reducible apply State.writeOr_kept
    | with_reducible apply State.write_kept
    | with_reducible apply State.writeEffect_kept
    | with_reducible apply hid
    | with_reducible apply kept_putReg
    | with_reducible apply kept_ite
    | with_reducible apply keeps_ite
    | with_reducible apply State.keeps_next
    | exact Foot.reg (by assumption) rfl
    | exact Foot.refuse (by assumption) rfl
    | exact Foot.bit (by assumption) rfl
    | exact Foot.trans rfl (by assumption)
    | intro x (hx : State.kept m b x)
    | intro _ x (hx : State.kept m b x)
    | intro x _ (hx : State.kept m b x)
    | intro x _ (hx : State.kept m b x.1)
    | lift_lets
    | (intro x; refine kept_cut (m := m) (b := b) (x := x) ?_ ?_ <;> [skip; (clear_value x; intro hx)])
    | (intro x; clear_value x)
    | intro _
    | exact kept_pair (by assumption) (by assumption)
    | refine kept_pair (by assumption) ?_
    | split

theorem State.writePiece_kept {m : Nat} {b : State} (s : State) (req : Requester) (addr : Nat) (n : Nat) (v : Nat)
    (inc : Nat) (hs : b.kept m s) (hm : Foot.sub (allRegs ||| 0x1FFFFFFBBF) m := by
      first | assumption | exact Foot.bit (by assumption) rfl | exact Foot.trans rfl (by assumption)) :
    b.kept m (State.writePiece s req addr n v inc).1 := by
  unfold State.writePiece
  repeat' first
    | with_reducible assumption
    | with_reducible apply State.commit_kept
    | with_reducible apply State.regWrite_kept
    | with_reducible apply kept_ite
    | exact Foot.reg hm rfl
    | exact Foot.refuse hm rfl
    | exact Foot.trans rfl hm
    | lift_lets
    | intro _
    | split

theorem State.write64_kept {m : Nat} {b : State} (s : State) (req : Requester) (addr : Nat) (v : Nat) (inc : Nat)
    (hs : b.kept m s) (hm : Foot.sub (allRegs ||| 0x1FFFFFFBBF) m := by
      first | assumption | exact Foot.bit (by assumption) rfl | exact Foot.trans rfl (by assumption)) :
    b.kept m (State.write64 s req addr v inc).1 := by
  unfold State.write64
  lift_lets
  intro two
  have htwo : b.kept m two.1 := State.writePiece_kept _ _ _ _ _ _ (State.writePiece_kept _ _ _ _ _ _ hs)
  clear_value two
  split
  · split
    · exact State.writePiece_kept _ _ _ _ _ _ hs
    · exact htwo
  · exact htwo

theorem State.writeAccess_kept {m : Nat} {b : State} (s : State) (req : Requester) (addr : Nat) (wide : Bool)
    (v : Nat) (inc : Nat) (hs : b.kept m s) (hm : Foot.sub (allRegs ||| 0x1FFFFFFBBF) m := by
      first | assumption | exact Foot.bit (by assumption) rfl | exact Foot.trans rfl (by assumption)) :
    b.kept m (State.writeAccess s req addr wide v inc) := by
  unfold State.writeAccess
  repeat' first
    | with_reducible assumption
    | with_reducible apply State.dropLatch_kept
    | with_reducible apply State.write64_kept
    | with_reducible apply State.writePiece_kept
    | with_reducible apply State.unassignedWrite_kept
    | with_reducible apply kept_ite
    | exact Foot.trans rfl hm
    | lift_lets
    | intro _
    | split

theorem execRegisterWrite_keeps {m : Nat} {b : State} (req : Requester) (addr : Nat) (wide : Bool) (value : Nat)
    (s : State) (hs : b.kept m s) (hm : Foot.sub (allRegs ||| 0x1FFFFFFBBF) m := by
      first | assumption | exact Foot.bit (by assumption) rfl | exact Foot.trans rfl (by assumption)) :
    b.keeps m (execRegisterWrite req addr wide value s) := by
  unfold execRegisterWrite
  repeat' first
    | with_reducible assumption
    | with_reducible apply State.writeAccess_kept
    | with_reducible apply State.malformed_kept
    | with_reducible apply kept_ite
    | with_reducible apply State.keeps_next
    | exact Foot.trans rfl hm
    | lift_lets
    | intro _

theorem execCounterWrite_keeps {m : Nat} {b : State} (req : Requester) (addr : Nat) (wide : Bool) (value : Nat)
    (inc : Nat) (s : State) (hs : b.kept m s) (hm : Foot.sub (allRegs ||| 0x1FFFFFFBBF) m := by
      first | assumption | exact Foot.bit (by assumption) rfl | exact Foot.trans rfl (by assumption)) :
    b.keeps m (execCounterWrite req addr wide value inc s) := by
  unfold execCounterWrite
  repeat' first
    | with_reducible assumption
    | with_reducible apply State.writeAccess_kept
    | with_reducible apply State.malformed_kept
    | with_reducible apply kept_ite
    | with_reducible apply State.keeps_next
    | exact Foot.trans rfl hm
    | lift_lets
    | intro _

theorem execRegisterRead_keeps {m : Nat} {b : State} (req : Requester) (addr : Nat) (wide : Bool) (s : State)
    (hs : b.kept m s) (hm : Foot.sub 0x1B014D8888200040000000C00001A92 m := by
      first | assumption | exact Foot.bit (by assumption) rfl | exact Foot.trans rfl (by assumption)) :
    b.keeps m (execRegisterRead req addr wide s) := by
  unfold execRegisterRead
  repeat' first
    | with_reducible assumption
    | with_reducible apply State.readAccess_kept
    | with_reducible apply State.malformed_kept
    | with_reducible apply kept_ite
    | with_reducible apply State.keeps_next
    | exact Foot.trans rfl hm
    | lift_lets
    | intro _

theorem execLowHalfRead_keeps {m : Nat} {b : State} (req : Requester) (addr : Nat) (s : State) (hs : b.kept m s)
    (hm : Foot.sub 0x1B014D8888200040000000C00001A92 m := by
      first | assumption | exact Foot.bit (by assumption) rfl | exact Foot.trans rfl (by assumption)) :
    b.keeps m (execLowHalfRead req addr s) := by
  unfold execLowHalfRead
  repeat' first
    | with_reducible assumption
    | with_reducible apply State.readAccess_kept
    | with_reducible apply State.malformed_kept
    | with_reducible apply kept_ite
    | with_reducible apply State.keeps_next
    | exact Foot.trans rfl hm
    | lift_lets
    | intro _

theorem execHighHalfRead_keeps {m : Nat} {b : State} (req : Requester) (addr : Nat) (s : State) (hs : b.kept m s)
    (hm : Foot.sub 0x1B014D8888200040000000C00001A92 m := by
      first | assumption | exact Foot.bit (by assumption) rfl | exact Foot.trans rfl (by assumption)) :
    b.keeps m (execHighHalfRead req addr s) := by
  unfold execHighHalfRead
  repeat' first
    | with_reducible assumption
    | with_reducible apply State.readAccess_kept
    | with_reducible apply State.malformed_kept
    | with_reducible apply kept_ite
    | with_reducible apply State.keeps_next
    | exact Foot.trans rfl hm
    | lift_lets
    | intro _

theorem execMalformedAccess_keeps {m : Nat} {b : State} (req : Requester) (addr : Nat) (bytes : Nat) (read : Bool)
    (s : State) (hs : b.kept m s) (hm : Foot.sub 0x1B014D8888000040000000C00001A92 m := by
      first | assumption | exact Foot.bit (by assumption) rfl | exact Foot.trans rfl (by assumption)) :
    b.keeps m (execMalformedAccess req addr bytes read s) := by
  unfold execMalformedAccess
  repeat' first
    | with_reducible assumption
    | with_reducible apply State.malformed_kept
    | with_reducible apply kept_ite
    | with_reducible apply State.keeps_next
    | lift_lets
    | intro _

theorem execBootStRead_keeps {m : Nat} {b : State} (req : Requester) (s : State) (hs : b.kept m s)
    (hm : Foot.sub 0x1018888200040000000C00000092 m := by
      first | assumption | exact Foot.bit (by assumption) rfl | exact Foot.trans rfl (by assumption)) :
    b.keeps m (execBootStRead req s) := by
  unfold execBootStRead
  repeat' first
    | with_reducible assumption
    | with_reducible apply State.readAccess_kept
    | with_reducible apply State.keeps_next

end Sys2Proof.Machine
end

