-- ==== Sys2Proof/Laws/State.lean ====
section
/-! SUPPORT. Each field of the state after each update that replaces one part of it: one lemma per field per update, so that no proof
unfolds a record update. -/

-- The proofs of the whole text do not run side by side: their memory adds up.
set_option Elab.async false

namespace Sys2Proof.Machine

open Sys2Proof

variable (s : State)

@[simp] theorem State.setReg_regs (id : RegId) (v i j k : Nat) : (s.setReg id v i j k).regs = s.regs.put ⟨id, i, j, k⟩ v := rfl
@[simp] theorem State.setReg_shadow (id : RegId) (v i j k : Nat) : (s.setReg id v i j k).shadow = s.shadow := rfl
@[simp] theorem State.setReg_latches (id : RegId) (v i j k : Nat) : (s.setReg id v i j k).latches = s.latches := rfl
@[simp] theorem State.setReg_tod (id : RegId) (v i j k : Nat) : (s.setReg id v i j k).tod = s.tod := rfl
@[simp] theorem State.setReg_pins (id : RegId) (v i j k : Nat) : (s.setReg id v i j k).pins = s.pins := rfl
@[simp] theorem State.setReg_rings (id : RegId) (v i j k : Nat) : (s.setReg id v i j k).rings = s.rings := rfl
@[simp] theorem State.setReg_inflight (id : RegId) (v i j k : Nat) : (s.setReg id v i j k).inflight = s.inflight := rfl
@[simp] theorem State.setReg_nextCmd (id : RegId) (v i j k : Nat) : (s.setReg id v i j k).nextCmd = s.nextCmd := rfl
@[simp] theorem State.setReg_vecs (id : RegId) (v i j k : Nat) : (s.setReg id v i j k).vecs = s.vecs := rfl
@[simp] theorem State.setReg_auth (id : RegId) (v i j k : Nat) : (s.setReg id v i j k).auth = s.auth := rfl
@[simp] theorem State.setReg_sessLeft (id : RegId) (v i j k : Nat) : (s.setReg id v i j k).sessLeft = s.sessLeft := rfl
@[simp] theorem State.setReg_nv (id : RegId) (v i j k : Nat) : (s.setReg id v i j k).nv = s.nv := rfl
@[simp] theorem State.setReg_journal (id : RegId) (v i j k : Nat) : (s.setReg id v i j k).journal = s.journal := rfl
@[simp] theorem State.setReg_marline (id : RegId) (v i j k : Nat) : (s.setReg id v i j k).marline = s.marline := rfl
@[simp] theorem State.setReg_boot (id : RegId) (v i j k : Nat) : (s.setReg id v i j k).boot = s.boot := rfl
@[simp] theorem State.setReg_mem (id : RegId) (v i j k : Nat) : (s.setReg id v i j k).mem = s.mem := rfl
@[simp] theorem State.setReg_whip (id : RegId) (v i j k : Nat) : (s.setReg id v i j k).whip = s.whip := rfl
@[simp] theorem State.setReg_strand (id : RegId) (v i j k : Nat) : (s.setReg id v i j k).strand = s.strand := rfl
@[simp] theorem State.setReg_braid (id : RegId) (v i j k : Nat) : (s.setReg id v i j k).braid = s.braid := rfl
@[simp] theorem State.setReg_splice (id : RegId) (v i j k : Nat) : (s.setReg id v i j k).splice = s.splice := rfl
@[simp] theorem State.setReg_halyard (id : RegId) (v i j k : Nat) : (s.setReg id v i j k).halyard = s.halyard := rfl
@[simp] theorem State.setReg_bight (id : RegId) (v i j k : Nat) : (s.setReg id v i j k).bight = s.bight := rfl
@[simp] theorem State.setReg_cleat (id : RegId) (v i j k : Nat) : (s.setReg id v i j k).cleat = s.cleat := rfl
@[simp] theorem State.setReg_twine (id : RegId) (v i j k : Nat) : (s.setReg id v i j k).twine = s.twine := rfl
@[simp] theorem State.setReg_clients (id : RegId) (v i j k : Nat) : (s.setReg id v i j k).clients = s.clients := rfl
@[simp] theorem State.setReg_leafFail (id : RegId) (v i j k : Nat) : (s.setReg id v i j k).leafFail = s.leafFail := rfl
@[simp] theorem State.setReg_groups (id : RegId) (v i j k : Nat) : (s.setReg id v i j k).groups = s.groups := rfl
@[simp] theorem State.setReg_kcs (id : RegId) (v i j k : Nat) : (s.setReg id v i j k).kcs = s.kcs := rfl
@[simp] theorem State.setReg_keks (id : RegId) (v i j k : Nat) : (s.setReg id v i j k).keks = s.keks := rfl
@[simp] theorem State.setReg_hitch (id : RegId) (v i j k : Nat) : (s.setReg id v i j k).hitch = s.hitch := rfl
@[simp] theorem State.setReg_lanyard (id : RegId) (v i j k : Nat) : (s.setReg id v i j k).lanyard = s.lanyard := rfl
@[simp] theorem State.setReg_belay (id : RegId) (v i j k : Nat) : (s.setReg id v i j k).belay = s.belay := rfl
@[simp] theorem State.setReg_age (id : RegId) (v i j k : Nat) : (s.setReg id v i j k).age = s.age := rfl
@[simp] theorem State.setReg_tally (id : RegId) (v i j k : Nat) : (s.setReg id v i j k).tally = s.tally := rfl
@[simp] theorem State.setReg_fathom (id : RegId) (v i j k : Nat) : (s.setReg id v i j k).fathom = s.fathom := rfl
@[simp] theorem State.setReg_drawn (id : RegId) (v i j k : Nat) : (s.setReg id v i j k).drawn = s.drawn := rfl
@[simp] theorem State.setReg_out (id : RegId) (v i j k : Nat) : (s.setReg id v i j k).out = s.out := rfl
@[simp] theorem State.setReg_discards (id : RegId) (v i j k : Nat) : (s.setReg id v i j k).discards = s.discards := rfl
@[simp] theorem State.setReg_pending (id : RegId) (v i j k : Nat) : (s.setReg id v i j k).pending = s.pending := rfl

@[simp] theorem State.wr_regs (f : Fld) (v i j k : Nat) :
    (s.wr f v i j k).regs = s.regs.put ⟨f.id, i, j, k⟩ (setBits (s.reg f.id i j k) f.hi f.lo v) := rfl
@[simp] theorem State.wr_shadow (f : Fld) (v i j k : Nat) : (s.wr f v i j k).shadow = s.shadow := rfl
@[simp] theorem State.wr_latches (f : Fld) (v i j k : Nat) : (s.wr f v i j k).latches = s.latches := rfl
@[simp] theorem State.wr_tod (f : Fld) (v i j k : Nat) : (s.wr f v i j k).tod = s.tod := rfl
@[simp] theorem State.wr_pins (f : Fld) (v i j k : Nat) : (s.wr f v i j k).pins = s.pins := rfl
@[simp] theorem State.wr_rings (f : Fld) (v i j k : Nat) : (s.wr f v i j k).rings = s.rings := rfl
@[simp] theorem State.wr_inflight (f : Fld) (v i j k : Nat) : (s.wr f v i j k).inflight = s.inflight := rfl
@[simp] theorem State.wr_nextCmd (f : Fld) (v i j k : Nat) : (s.wr f v i j k).nextCmd = s.nextCmd := rfl
@[simp] theorem State.wr_vecs (f : Fld) (v i j k : Nat) : (s.wr f v i j k).vecs = s.vecs := rfl
@[simp] theorem State.wr_auth (f : Fld) (v i j k : Nat) : (s.wr f v i j k).auth = s.auth := rfl
@[simp] theorem State.wr_sessLeft (f : Fld) (v i j k : Nat) : (s.wr f v i j k).sessLeft = s.sessLeft := rfl
@[simp] theorem State.wr_nv (f : Fld) (v i j k : Nat) : (s.wr f v i j k).nv = s.nv := rfl
@[simp] theorem State.wr_journal (f : Fld) (v i j k : Nat) : (s.wr f v i j k).journal = s.journal := rfl
@[simp] theorem State.wr_marline (f : Fld) (v i j k : Nat) : (s.wr f v i j k).marline = s.marline := rfl
@[simp] theorem State.wr_boot (f : Fld) (v i j k : Nat) : (s.wr f v i j k).boot = s.boot := rfl
@[simp] theorem State.wr_mem (f : Fld) (v i j k : Nat) : (s.wr f v i j k).mem = s.mem := rfl
@[simp] theorem State.wr_whip (f : Fld) (v i j k : Nat) : (s.wr f v i j k).whip = s.whip := rfl
@[simp] theorem State.wr_strand (f : Fld) (v i j k : Nat) : (s.wr f v i j k).strand = s.strand := rfl
@[simp] theorem State.wr_braid (f : Fld) (v i j k : Nat) : (s.wr f v i j k).braid = s.braid := rfl
@[simp] theorem State.wr_splice (f : Fld) (v i j k : Nat) : (s.wr f v i j k).splice = s.splice := rfl
@[simp] theorem State.wr_halyard (f : Fld) (v i j k : Nat) : (s.wr f v i j k).halyard = s.halyard := rfl
@[simp] theorem State.wr_bight (f : Fld) (v i j k : Nat) : (s.wr f v i j k).bight = s.bight := rfl
@[simp] theorem State.wr_cleat (f : Fld) (v i j k : Nat) : (s.wr f v i j k).cleat = s.cleat := rfl
@[simp] theorem State.wr_twine (f : Fld) (v i j k : Nat) : (s.wr f v i j k).twine = s.twine := rfl
@[simp] theorem State.wr_clients (f : Fld) (v i j k : Nat) : (s.wr f v i j k).clients = s.clients := rfl
@[simp] theorem State.wr_leafFail (f : Fld) (v i j k : Nat) : (s.wr f v i j k).leafFail = s.leafFail := rfl
@[simp] theorem State.wr_groups (f : Fld) (v i j k : Nat) : (s.wr f v i j k).groups = s.groups := rfl
@[simp] theorem State.wr_kcs (f : Fld) (v i j k : Nat) : (s.wr f v i j k).kcs = s.kcs := rfl
@[simp] theorem State.wr_keks (f : Fld) (v i j k : Nat) : (s.wr f v i j k).keks = s.keks := rfl
@[simp] theorem State.wr_hitch (f : Fld) (v i j k : Nat) : (s.wr f v i j k).hitch = s.hitch := rfl
@[simp] theorem State.wr_lanyard (f : Fld) (v i j k : Nat) : (s.wr f v i j k).lanyard = s.lanyard := rfl
@[simp] theorem State.wr_belay (f : Fld) (v i j k : Nat) : (s.wr f v i j k).belay = s.belay := rfl
@[simp] theorem State.wr_age (f : Fld) (v i j k : Nat) : (s.wr f v i j k).age = s.age := rfl
@[simp] theorem State.wr_tally (f : Fld) (v i j k : Nat) : (s.wr f v i j k).tally = s.tally := rfl
@[simp] theorem State.wr_fathom (f : Fld) (v i j k : Nat) : (s.wr f v i j k).fathom = s.fathom := rfl
@[simp] theorem State.wr_drawn (f : Fld) (v i j k : Nat) : (s.wr f v i j k).drawn = s.drawn := rfl
@[simp] theorem State.wr_out (f : Fld) (v i j k : Nat) : (s.wr f v i j k).out = s.out := rfl
@[simp] theorem State.wr_discards (f : Fld) (v i j k : Nat) : (s.wr f v i j k).discards = s.discards := rfl
@[simp] theorem State.wr_pending (f : Fld) (v i j k : Nat) : (s.wr f v i j k).pending = s.pending := rfl

@[simp] theorem State.inc_regs (f : Fld) (d i j k : Nat) :
    (s.inc f d i j k).regs = (s.wr f (satAdd f.width (s.rd f i j k) d) i j k).regs := rfl
@[simp] theorem State.inc_shadow (f : Fld) (d i j k : Nat) : (s.inc f d i j k).shadow = s.shadow := rfl
@[simp] theorem State.inc_latches (f : Fld) (d i j k : Nat) : (s.inc f d i j k).latches = s.latches := rfl
@[simp] theorem State.inc_tod (f : Fld) (d i j k : Nat) : (s.inc f d i j k).tod = s.tod := rfl
@[simp] theorem State.inc_pins (f : Fld) (d i j k : Nat) : (s.inc f d i j k).pins = s.pins := rfl
@[simp] theorem State.inc_rings (f : Fld) (d i j k : Nat) : (s.inc f d i j k).rings = s.rings := rfl
@[simp] theorem State.inc_inflight (f : Fld) (d i j k : Nat) : (s.inc f d i j k).inflight = s.inflight := rfl
@[simp] theorem State.inc_nextCmd (f : Fld) (d i j k : Nat) : (s.inc f d i j k).nextCmd = s.nextCmd := rfl
@[simp] theorem State.inc_vecs (f : Fld) (d i j k : Nat) : (s.inc f d i j k).vecs = s.vecs := rfl
@[simp] theorem State.inc_auth (f : Fld) (d i j k : Nat) : (s.inc f d i j k).auth = s.auth := rfl
@[simp] theorem State.inc_sessLeft (f : Fld) (d i j k : Nat) : (s.inc f d i j k).sessLeft = s.sessLeft := rfl
@[simp] theorem State.inc_nv (f : Fld) (d i j k : Nat) : (s.inc f d i j k).nv = s.nv := rfl
@[simp] theorem State.inc_journal (f : Fld) (d i j k : Nat) : (s.inc f d i j k).journal = s.journal := rfl
@[simp] theorem State.inc_marline (f : Fld) (d i j k : Nat) : (s.inc f d i j k).marline = s.marline := rfl
@[simp] theorem State.inc_boot (f : Fld) (d i j k : Nat) : (s.inc f d i j k).boot = s.boot := rfl
@[simp] theorem State.inc_mem (f : Fld) (d i j k : Nat) : (s.inc f d i j k).mem = s.mem := rfl
@[simp] theorem State.inc_whip (f : Fld) (d i j k : Nat) : (s.inc f d i j k).whip = s.whip := rfl
@[simp] theorem State.inc_strand (f : Fld) (d i j k : Nat) : (s.inc f d i j k).strand = s.strand := rfl
@[simp] theorem State.inc_braid (f : Fld) (d i j k : Nat) : (s.inc f d i j k).braid = s.braid := rfl
@[simp] theorem State.inc_splice (f : Fld) (d i j k : Nat) : (s.inc f d i j k).splice = s.splice := rfl
@[simp] theorem State.inc_halyard (f : Fld) (d i j k : Nat) : (s.inc f d i j k).halyard = s.halyard := rfl
@[simp] theorem State.inc_bight (f : Fld) (d i j k : Nat) : (s.inc f d i j k).bight = s.bight := rfl
@[simp] theorem State.inc_cleat (f : Fld) (d i j k : Nat) : (s.inc f d i j k).cleat = s.cleat := rfl
@[simp] theorem State.inc_twine (f : Fld) (d i j k : Nat) : (s.inc f d i j k).twine = s.twine := rfl
@[simp] theorem State.inc_clients (f : Fld) (d i j k : Nat) : (s.inc f d i j k).clients = s.clients := rfl
@[simp] theorem State.inc_leafFail (f : Fld) (d i j k : Nat) : (s.inc f d i j k).leafFail = s.leafFail := rfl
@[simp] theorem State.inc_groups (f : Fld) (d i j k : Nat) : (s.inc f d i j k).groups = s.groups := rfl
@[simp] theorem State.inc_kcs (f : Fld) (d i j k : Nat) : (s.inc f d i j k).kcs = s.kcs := rfl
@[simp] theorem State.inc_keks (f : Fld) (d i j k : Nat) : (s.inc f d i j k).keks = s.keks := rfl
@[simp] theorem State.inc_hitch (f : Fld) (d i j k : Nat) : (s.inc f d i j k).hitch = s.hitch := rfl
@[simp] theorem State.inc_lanyard (f : Fld) (d i j k : Nat) : (s.inc f d i j k).lanyard = s.lanyard := rfl
@[simp] theorem State.inc_belay (f : Fld) (d i j k : Nat) : (s.inc f d i j k).belay = s.belay := rfl
@[simp] theorem State.inc_age (f : Fld) (d i j k : Nat) : (s.inc f d i j k).age = s.age := rfl
@[simp] theorem State.inc_tally (f : Fld) (d i j k : Nat) : (s.inc f d i j k).tally = s.tally := rfl
@[simp] theorem State.inc_fathom (f : Fld) (d i j k : Nat) : (s.inc f d i j k).fathom = s.fathom := rfl
@[simp] theorem State.inc_drawn (f : Fld) (d i j k : Nat) : (s.inc f d i j k).drawn = s.drawn := rfl
@[simp] theorem State.inc_out (f : Fld) (d i j k : Nat) : (s.inc f d i j k).out = s.out := rfl
@[simp] theorem State.inc_discards (f : Fld) (d i j k : Nat) : (s.inc f d i j k).discards = s.discards := rfl
@[simp] theorem State.inc_pending (f : Fld) (d i j k : Nat) : (s.inc f d i j k).pending = s.pending := rfl

@[simp] theorem State.incWrap_regs (f : Fld) (d i j k : Nat) :
    (s.incWrap f d i j k).regs = (s.wr f (s.rd f i j k + d) i j k).regs := rfl
@[simp] theorem State.incWrap_shadow (f : Fld) (d i j k : Nat) : (s.incWrap f d i j k).shadow = s.shadow := rfl
@[simp] theorem State.incWrap_latches (f : Fld) (d i j k : Nat) : (s.incWrap f d i j k).latches = s.latches := rfl
@[simp] theorem State.incWrap_tod (f : Fld) (d i j k : Nat) : (s.incWrap f d i j k).tod = s.tod := rfl
@[simp] theorem State.incWrap_pins (f : Fld) (d i j k : Nat) : (s.incWrap f d i j k).pins = s.pins := rfl
@[simp] theorem State.incWrap_rings (f : Fld) (d i j k : Nat) : (s.incWrap f d i j k).rings = s.rings := rfl
@[simp] theorem State.incWrap_inflight (f : Fld) (d i j k : Nat) : (s.incWrap f d i j k).inflight = s.inflight := rfl
@[simp] theorem State.incWrap_nextCmd (f : Fld) (d i j k : Nat) : (s.incWrap f d i j k).nextCmd = s.nextCmd := rfl
@[simp] theorem State.incWrap_vecs (f : Fld) (d i j k : Nat) : (s.incWrap f d i j k).vecs = s.vecs := rfl
@[simp] theorem State.incWrap_auth (f : Fld) (d i j k : Nat) : (s.incWrap f d i j k).auth = s.auth := rfl
@[simp] theorem State.incWrap_sessLeft (f : Fld) (d i j k : Nat) : (s.incWrap f d i j k).sessLeft = s.sessLeft := rfl
@[simp] theorem State.incWrap_nv (f : Fld) (d i j k : Nat) : (s.incWrap f d i j k).nv = s.nv := rfl
@[simp] theorem State.incWrap_journal (f : Fld) (d i j k : Nat) : (s.incWrap f d i j k).journal = s.journal := rfl
@[simp] theorem State.incWrap_marline (f : Fld) (d i j k : Nat) : (s.incWrap f d i j k).marline = s.marline := rfl
@[simp] theorem State.incWrap_boot (f : Fld) (d i j k : Nat) : (s.incWrap f d i j k).boot = s.boot := rfl
@[simp] theorem State.incWrap_mem (f : Fld) (d i j k : Nat) : (s.incWrap f d i j k).mem = s.mem := rfl
@[simp] theorem State.incWrap_whip (f : Fld) (d i j k : Nat) : (s.incWrap f d i j k).whip = s.whip := rfl
@[simp] theorem State.incWrap_strand (f : Fld) (d i j k : Nat) : (s.incWrap f d i j k).strand = s.strand := rfl
@[simp] theorem State.incWrap_braid (f : Fld) (d i j k : Nat) : (s.incWrap f d i j k).braid = s.braid := rfl
@[simp] theorem State.incWrap_splice (f : Fld) (d i j k : Nat) : (s.incWrap f d i j k).splice = s.splice := rfl
@[simp] theorem State.incWrap_halyard (f : Fld) (d i j k : Nat) : (s.incWrap f d i j k).halyard = s.halyard := rfl
@[simp] theorem State.incWrap_bight (f : Fld) (d i j k : Nat) : (s.incWrap f d i j k).bight = s.bight := rfl
@[simp] theorem State.incWrap_cleat (f : Fld) (d i j k : Nat) : (s.incWrap f d i j k).cleat = s.cleat := rfl
@[simp] theorem State.incWrap_twine (f : Fld) (d i j k : Nat) : (s.incWrap f d i j k).twine = s.twine := rfl
@[simp] theorem State.incWrap_clients (f : Fld) (d i j k : Nat) : (s.incWrap f d i j k).clients = s.clients := rfl
@[simp] theorem State.incWrap_leafFail (f : Fld) (d i j k : Nat) : (s.incWrap f d i j k).leafFail = s.leafFail := rfl
@[simp] theorem State.incWrap_groups (f : Fld) (d i j k : Nat) : (s.incWrap f d i j k).groups = s.groups := rfl
@[simp] theorem State.incWrap_kcs (f : Fld) (d i j k : Nat) : (s.incWrap f d i j k).kcs = s.kcs := rfl
@[simp] theorem State.incWrap_keks (f : Fld) (d i j k : Nat) : (s.incWrap f d i j k).keks = s.keks := rfl
@[simp] theorem State.incWrap_hitch (f : Fld) (d i j k : Nat) : (s.incWrap f d i j k).hitch = s.hitch := rfl
@[simp] theorem State.incWrap_lanyard (f : Fld) (d i j k : Nat) : (s.incWrap f d i j k).lanyard = s.lanyard := rfl
@[simp] theorem State.incWrap_belay (f : Fld) (d i j k : Nat) : (s.incWrap f d i j k).belay = s.belay := rfl
@[simp] theorem State.incWrap_age (f : Fld) (d i j k : Nat) : (s.incWrap f d i j k).age = s.age := rfl
@[simp] theorem State.incWrap_tally (f : Fld) (d i j k : Nat) : (s.incWrap f d i j k).tally = s.tally := rfl
@[simp] theorem State.incWrap_fathom (f : Fld) (d i j k : Nat) : (s.incWrap f d i j k).fathom = s.fathom := rfl
@[simp] theorem State.incWrap_drawn (f : Fld) (d i j k : Nat) : (s.incWrap f d i j k).drawn = s.drawn := rfl
@[simp] theorem State.incWrap_out (f : Fld) (d i j k : Nat) : (s.incWrap f d i j k).out = s.out := rfl
@[simp] theorem State.incWrap_discards (f : Fld) (d i j k : Nat) : (s.incWrap f d i j k).discards = s.discards := rfl
@[simp] theorem State.incWrap_pending (f : Fld) (d i j k : Nat) : (s.incWrap f d i j k).pending = s.pending := rfl

@[simp] theorem State.count_shadow (id : RegId) (d i j k : Nat) : (s.count id d i j k).shadow = s.shadow := rfl
@[simp] theorem State.count_latches (id : RegId) (d i j k : Nat) : (s.count id d i j k).latches = s.latches := rfl
@[simp] theorem State.count_tod (id : RegId) (d i j k : Nat) : (s.count id d i j k).tod = s.tod := rfl
@[simp] theorem State.count_pins (id : RegId) (d i j k : Nat) : (s.count id d i j k).pins = s.pins := rfl
@[simp] theorem State.count_rings (id : RegId) (d i j k : Nat) : (s.count id d i j k).rings = s.rings := rfl
@[simp] theorem State.count_inflight (id : RegId) (d i j k : Nat) : (s.count id d i j k).inflight = s.inflight := rfl
@[simp] theorem State.count_nextCmd (id : RegId) (d i j k : Nat) : (s.count id d i j k).nextCmd = s.nextCmd := rfl
@[simp] theorem State.count_vecs (id : RegId) (d i j k : Nat) : (s.count id d i j k).vecs = s.vecs := rfl
@[simp] theorem State.count_auth (id : RegId) (d i j k : Nat) : (s.count id d i j k).auth = s.auth := rfl
@[simp] theorem State.count_sessLeft (id : RegId) (d i j k : Nat) : (s.count id d i j k).sessLeft = s.sessLeft := rfl
@[simp] theorem State.count_nv (id : RegId) (d i j k : Nat) : (s.count id d i j k).nv = s.nv := rfl
@[simp] theorem State.count_journal (id : RegId) (d i j k : Nat) : (s.count id d i j k).journal = s.journal := rfl
@[simp] theorem State.count_marline (id : RegId) (d i j k : Nat) : (s.count id d i j k).marline = s.marline := rfl
@[simp] theorem State.count_boot (id : RegId) (d i j k : Nat) : (s.count id d i j k).boot = s.boot := rfl
@[simp] theorem State.count_mem (id : RegId) (d i j k : Nat) : (s.count id d i j k).mem = s.mem := rfl
@[simp] theorem State.count_whip (id : RegId) (d i j k : Nat) : (s.count id d i j k).whip = s.whip := rfl
@[simp] theorem State.count_strand (id : RegId) (d i j k : Nat) : (s.count id d i j k).strand = s.strand := rfl
@[simp] theorem State.count_braid (id : RegId) (d i j k : Nat) : (s.count id d i j k).braid = s.braid := rfl
@[simp] theorem State.count_splice (id : RegId) (d i j k : Nat) : (s.count id d i j k).splice = s.splice := rfl
@[simp] theorem State.count_halyard (id : RegId) (d i j k : Nat) : (s.count id d i j k).halyard = s.halyard := rfl
@[simp] theorem State.count_bight (id : RegId) (d i j k : Nat) : (s.count id d i j k).bight = s.bight := rfl
@[simp] theorem State.count_cleat (id : RegId) (d i j k : Nat) : (s.count id d i j k).cleat = s.cleat := rfl
@[simp] theorem State.count_twine (id : RegId) (d i j k : Nat) : (s.count id d i j k).twine = s.twine := rfl
@[simp] theorem State.count_clients (id : RegId) (d i j k : Nat) : (s.count id d i j k).clients = s.clients := rfl
@[simp] theorem State.count_leafFail (id : RegId) (d i j k : Nat) : (s.count id d i j k).leafFail = s.leafFail := rfl
@[simp] theorem State.count_groups (id : RegId) (d i j k : Nat) : (s.count id d i j k).groups = s.groups := rfl
@[simp] theorem State.count_kcs (id : RegId) (d i j k : Nat) : (s.count id d i j k).kcs = s.kcs := rfl
@[simp] theorem State.count_keks (id : RegId) (d i j k : Nat) : (s.count id d i j k).keks = s.keks := rfl
@[simp] theorem State.count_hitch (id : RegId) (d i j k : Nat) : (s.count id d i j k).hitch = s.hitch := rfl
@[simp] theorem State.count_lanyard (id : RegId) (d i j k : Nat) : (s.count id d i j k).lanyard = s.lanyard := rfl
@[simp] theorem State.count_belay (id : RegId) (d i j k : Nat) : (s.count id d i j k).belay = s.belay := rfl
@[simp] theorem State.count_age (id : RegId) (d i j k : Nat) : (s.count id d i j k).age = s.age := rfl
@[simp] theorem State.count_tally (id : RegId) (d i j k : Nat) : (s.count id d i j k).tally = s.tally := rfl
@[simp] theorem State.count_fathom (id : RegId) (d i j k : Nat) : (s.count id d i j k).fathom = s.fathom := rfl
@[simp] theorem State.count_drawn (id : RegId) (d i j k : Nat) : (s.count id d i j k).drawn = s.drawn := rfl
@[simp] theorem State.count_out (id : RegId) (d i j k : Nat) : (s.count id d i j k).out = s.out := rfl
@[simp] theorem State.count_discards (id : RegId) (d i j k : Nat) : (s.count id d i j k).discards = s.discards := rfl
@[simp] theorem State.count_pending (id : RegId) (d i j k : Nat) : (s.count id d i j k).pending = s.pending := rfl

@[simp] theorem State.emit_regs (o : Out) : (s.emit o).regs = s.regs := rfl
@[simp] theorem State.emit_shadow (o : Out) : (s.emit o).shadow = s.shadow := rfl
@[simp] theorem State.emit_latches (o : Out) : (s.emit o).latches = s.latches := rfl
@[simp] theorem State.emit_tod (o : Out) : (s.emit o).tod = s.tod := rfl
@[simp] theorem State.emit_pins (o : Out) : (s.emit o).pins = s.pins := rfl
@[simp] theorem State.emit_rings (o : Out) : (s.emit o).rings = s.rings := rfl
@[simp] theorem State.emit_inflight (o : Out) : (s.emit o).inflight = s.inflight := rfl
@[simp] theorem State.emit_nextCmd (o : Out) : (s.emit o).nextCmd = s.nextCmd := rfl
@[simp] theorem State.emit_vecs (o : Out) : (s.emit o).vecs = s.vecs := rfl
@[simp] theorem State.emit_auth (o : Out) : (s.emit o).auth = s.auth := rfl
@[simp] theorem State.emit_sessLeft (o : Out) : (s.emit o).sessLeft = s.sessLeft := rfl
@[simp] theorem State.emit_nv (o : Out) : (s.emit o).nv = s.nv := rfl
@[simp] theorem State.emit_journal (o : Out) : (s.emit o).journal = s.journal := rfl
@[simp] theorem State.emit_marline (o : Out) : (s.emit o).marline = s.marline := rfl
@[simp] theorem State.emit_boot (o : Out) : (s.emit o).boot = s.boot := rfl
@[simp] theorem State.emit_mem (o : Out) : (s.emit o).mem = s.mem := rfl
@[simp] theorem State.emit_whip (o : Out) : (s.emit o).whip = s.whip := rfl
@[simp] theorem State.emit_strand (o : Out) : (s.emit o).strand = s.strand := rfl
@[simp] theorem State.emit_braid (o : Out) : (s.emit o).braid = s.braid := rfl
@[simp] theorem State.emit_splice (o : Out) : (s.emit o).splice = s.splice := rfl
@[simp] theorem State.emit_halyard (o : Out) : (s.emit o).halyard = s.halyard := rfl
@[simp] theorem State.emit_bight (o : Out) : (s.emit o).bight = s.bight := rfl
@[simp] theorem State.emit_cleat (o : Out) : (s.emit o).cleat = s.cleat := rfl
@[simp] theorem State.emit_twine (o : Out) : (s.emit o).twine = s.twine := rfl
@[simp] theorem State.emit_clients (o : Out) : (s.emit o).clients = s.clients := rfl
@[simp] theorem State.emit_leafFail (o : Out) : (s.emit o).leafFail = s.leafFail := rfl
@[simp] theorem State.emit_groups (o : Out) : (s.emit o).groups = s.groups := rfl
@[simp] theorem State.emit_kcs (o : Out) : (s.emit o).kcs = s.kcs := rfl
@[simp] theorem State.emit_keks (o : Out) : (s.emit o).keks = s.keks := rfl
@[simp] theorem State.emit_hitch (o : Out) : (s.emit o).hitch = s.hitch := rfl
@[simp] theorem State.emit_lanyard (o : Out) : (s.emit o).lanyard = s.lanyard := rfl
@[simp] theorem State.emit_belay (o : Out) : (s.emit o).belay = s.belay := rfl
@[simp] theorem State.emit_age (o : Out) : (s.emit o).age = s.age := rfl
@[simp] theorem State.emit_tally (o : Out) : (s.emit o).tally = s.tally := rfl
@[simp] theorem State.emit_fathom (o : Out) : (s.emit o).fathom = s.fathom := rfl
@[simp] theorem State.emit_drawn (o : Out) : (s.emit o).drawn = s.drawn := rfl
@[simp] theorem State.emit_out (o : Out) : (s.emit o).out = o :: s.out := rfl
@[simp] theorem State.emit_discards (o : Out) : (s.emit o).discards = s.discards := rfl
@[simp] theorem State.emit_pending (o : Out) : (s.emit o).pending = s.pending := rfl

@[simp] theorem State.draw_regs : (s.draw.1).regs = s.regs := rfl
@[simp] theorem State.draw_shadow : (s.draw.1).shadow = s.shadow := rfl
@[simp] theorem State.draw_latches : (s.draw.1).latches = s.latches := rfl
@[simp] theorem State.draw_tod : (s.draw.1).tod = s.tod := rfl
@[simp] theorem State.draw_pins : (s.draw.1).pins = s.pins := rfl
@[simp] theorem State.draw_rings : (s.draw.1).rings = s.rings := rfl
@[simp] theorem State.draw_inflight : (s.draw.1).inflight = s.inflight := rfl
@[simp] theorem State.draw_nextCmd : (s.draw.1).nextCmd = s.nextCmd := rfl
@[simp] theorem State.draw_vecs : (s.draw.1).vecs = s.vecs := rfl
@[simp] theorem State.draw_auth : (s.draw.1).auth = s.auth := rfl
@[simp] theorem State.draw_sessLeft : (s.draw.1).sessLeft = s.sessLeft := rfl
@[simp] theorem State.draw_nv : (s.draw.1).nv = s.nv := rfl
@[simp] theorem State.draw_journal : (s.draw.1).journal = s.journal := rfl
@[simp] theorem State.draw_marline : (s.draw.1).marline = s.marline := rfl
@[simp] theorem State.draw_boot : (s.draw.1).boot = s.boot := rfl
@[simp] theorem State.draw_mem : (s.draw.1).mem = s.mem := rfl
@[simp] theorem State.draw_whip : (s.draw.1).whip = s.whip := rfl
@[simp] theorem State.draw_strand : (s.draw.1).strand = s.strand := rfl
@[simp] theorem State.draw_braid : (s.draw.1).braid = s.braid := rfl
@[simp] theorem State.draw_splice : (s.draw.1).splice = s.splice := rfl
@[simp] theorem State.draw_halyard : (s.draw.1).halyard = s.halyard := rfl
@[simp] theorem State.draw_bight : (s.draw.1).bight = s.bight := rfl
@[simp] theorem State.draw_cleat : (s.draw.1).cleat = s.cleat := rfl
@[simp] theorem State.draw_twine : (s.draw.1).twine = s.twine := rfl
@[simp] theorem State.draw_clients : (s.draw.1).clients = s.clients := rfl
@[simp] theorem State.draw_leafFail : (s.draw.1).leafFail = s.leafFail := rfl
@[simp] theorem State.draw_groups : (s.draw.1).groups = s.groups := rfl
@[simp] theorem State.draw_kcs : (s.draw.1).kcs = s.kcs := rfl
@[simp] theorem State.draw_keks : (s.draw.1).keks = s.keks := rfl
@[simp] theorem State.draw_hitch : (s.draw.1).hitch = s.hitch := rfl
@[simp] theorem State.draw_lanyard : (s.draw.1).lanyard = s.lanyard := rfl
@[simp] theorem State.draw_belay : (s.draw.1).belay = s.belay := rfl
@[simp] theorem State.draw_age : (s.draw.1).age = s.age := rfl
@[simp] theorem State.draw_tally : (s.draw.1).tally = s.tally := rfl
@[simp] theorem State.draw_fathom : (s.draw.1).fathom = s.fathom := rfl
@[simp] theorem State.draw_drawn : (s.draw.1).drawn = s.drawn + 1 := rfl
@[simp] theorem State.draw_out : (s.draw.1).out = s.out := rfl
@[simp] theorem State.draw_discards : (s.draw.1).discards = s.discards := rfl
@[simp] theorem State.draw_pending : (s.draw.1).pending = s.pending := rfl

@[simp] theorem State.dropLatch_regs (req : Requester) : (s.dropLatch req).regs = s.regs := rfl
@[simp] theorem State.dropLatch_shadow (req : Requester) : (s.dropLatch req).shadow = s.shadow := rfl
@[simp] theorem State.dropLatch_latches (req : Requester) :
    (s.dropLatch req).latches = s.latches.filter fun l => l.req != s.stampOf req := rfl
@[simp] theorem State.dropLatch_tod (req : Requester) : (s.dropLatch req).tod = s.tod := rfl
@[simp] theorem State.dropLatch_pins (req : Requester) : (s.dropLatch req).pins = s.pins := rfl
@[simp] theorem State.dropLatch_rings (req : Requester) : (s.dropLatch req).rings = s.rings := rfl
@[simp] theorem State.dropLatch_inflight (req : Requester) : (s.dropLatch req).inflight = s.inflight := rfl
@[simp] theorem State.dropLatch_nextCmd (req : Requester) : (s.dropLatch req).nextCmd = s.nextCmd := rfl
@[simp] theorem State.dropLatch_vecs (req : Requester) : (s.dropLatch req).vecs = s.vecs := rfl
@[simp] theorem State.dropLatch_auth (req : Requester) : (s.dropLatch req).auth = s.auth := rfl
@[simp] theorem State.dropLatch_sessLeft (req : Requester) : (s.dropLatch req).sessLeft = s.sessLeft := rfl
@[simp] theorem State.dropLatch_nv (req : Requester) : (s.dropLatch req).nv = s.nv := rfl
@[simp] theorem State.dropLatch_journal (req : Requester) : (s.dropLatch req).journal = s.journal := rfl
@[simp] theorem State.dropLatch_marline (req : Requester) : (s.dropLatch req).marline = s.marline := rfl
@[simp] theorem State.dropLatch_boot (req : Requester) : (s.dropLatch req).boot = s.boot := rfl
@[simp] theorem State.dropLatch_mem (req : Requester) : (s.dropLatch req).mem = s.mem := rfl
@[simp] theorem State.dropLatch_whip (req : Requester) : (s.dropLatch req).whip = s.whip := rfl
@[simp] theorem State.dropLatch_strand (req : Requester) : (s.dropLatch req).strand = s.strand := rfl
@[simp] theorem State.dropLatch_braid (req : Requester) : (s.dropLatch req).braid = s.braid := rfl
@[simp] theorem State.dropLatch_splice (req : Requester) : (s.dropLatch req).splice = s.splice := rfl
@[simp] theorem State.dropLatch_halyard (req : Requester) : (s.dropLatch req).halyard = s.halyard := rfl
@[simp] theorem State.dropLatch_bight (req : Requester) : (s.dropLatch req).bight = s.bight := rfl
@[simp] theorem State.dropLatch_cleat (req : Requester) : (s.dropLatch req).cleat = s.cleat := rfl
@[simp] theorem State.dropLatch_twine (req : Requester) : (s.dropLatch req).twine = s.twine := rfl
@[simp] theorem State.dropLatch_clients (req : Requester) : (s.dropLatch req).clients = s.clients := rfl
@[simp] theorem State.dropLatch_leafFail (req : Requester) : (s.dropLatch req).leafFail = s.leafFail := rfl
@[simp] theorem State.dropLatch_groups (req : Requester) : (s.dropLatch req).groups = s.groups := rfl
@[simp] theorem State.dropLatch_kcs (req : Requester) : (s.dropLatch req).kcs = s.kcs := rfl
@[simp] theorem State.dropLatch_keks (req : Requester) : (s.dropLatch req).keks = s.keks := rfl
@[simp] theorem State.dropLatch_hitch (req : Requester) : (s.dropLatch req).hitch = s.hitch := rfl
@[simp] theorem State.dropLatch_lanyard (req : Requester) : (s.dropLatch req).lanyard = s.lanyard := rfl
@[simp] theorem State.dropLatch_belay (req : Requester) : (s.dropLatch req).belay = s.belay := rfl
@[simp] theorem State.dropLatch_age (req : Requester) : (s.dropLatch req).age = s.age := rfl
@[simp] theorem State.dropLatch_tally (req : Requester) : (s.dropLatch req).tally = s.tally := rfl
@[simp] theorem State.dropLatch_fathom (req : Requester) : (s.dropLatch req).fathom = s.fathom := rfl
@[simp] theorem State.dropLatch_drawn (req : Requester) : (s.dropLatch req).drawn = s.drawn := rfl
@[simp] theorem State.dropLatch_out (req : Requester) : (s.dropLatch req).out = s.out := rfl
@[simp] theorem State.dropLatch_discards (req : Requester) : (s.dropLatch req).discards = s.discards := rfl
@[simp] theorem State.dropLatch_pending (req : Requester) : (s.dropLatch req).pending = s.pending := rfl

@[simp] theorem State.takeShadow_latches (b : Nat) : (s.takeShadow b).latches = s.latches := rfl
@[simp] theorem State.takeShadow_tod (b : Nat) : (s.takeShadow b).tod = s.tod := rfl
@[simp] theorem State.takeShadow_pins (b : Nat) : (s.takeShadow b).pins = s.pins := rfl
@[simp] theorem State.takeShadow_rings (b : Nat) : (s.takeShadow b).rings = s.rings := rfl
@[simp] theorem State.takeShadow_inflight (b : Nat) : (s.takeShadow b).inflight = s.inflight := rfl
@[simp] theorem State.takeShadow_nextCmd (b : Nat) : (s.takeShadow b).nextCmd = s.nextCmd := rfl
@[simp] theorem State.takeShadow_vecs (b : Nat) : (s.takeShadow b).vecs = s.vecs := rfl
@[simp] theorem State.takeShadow_auth (b : Nat) : (s.takeShadow b).auth = s.auth := rfl
@[simp] theorem State.takeShadow_sessLeft (b : Nat) : (s.takeShadow b).sessLeft = s.sessLeft := rfl
@[simp] theorem State.takeShadow_nv (b : Nat) : (s.takeShadow b).nv = s.nv := rfl
@[simp] theorem State.takeShadow_journal (b : Nat) : (s.takeShadow b).journal = s.journal := rfl
@[simp] theorem State.takeShadow_marline (b : Nat) : (s.takeShadow b).marline = s.marline := rfl
@[simp] theorem State.takeShadow_boot (b : Nat) : (s.takeShadow b).boot = s.boot := rfl
@[simp] theorem State.takeShadow_mem (b : Nat) : (s.takeShadow b).mem = s.mem := rfl
@[simp] theorem State.takeShadow_whip (b : Nat) : (s.takeShadow b).whip = s.whip := rfl
@[simp] theorem State.takeShadow_strand (b : Nat) : (s.takeShadow b).strand = s.strand := rfl
@[simp] theorem State.takeShadow_braid (b : Nat) : (s.takeShadow b).braid = s.braid := rfl
@[simp] theorem State.takeShadow_splice (b : Nat) : (s.takeShadow b).splice = s.splice := rfl
@[simp] theorem State.takeShadow_halyard (b : Nat) : (s.takeShadow b).halyard = s.halyard := rfl
@[simp] theorem State.takeShadow_bight (b : Nat) : (s.takeShadow b).bight = s.bight := rfl
@[simp] theorem State.takeShadow_cleat (b : Nat) : (s.takeShadow b).cleat = s.cleat := rfl
@[simp] theorem State.takeShadow_twine (b : Nat) : (s.takeShadow b).twine = s.twine := rfl
@[simp] theorem State.takeShadow_clients (b : Nat) : (s.takeShadow b).clients = s.clients := rfl
@[simp] theorem State.takeShadow_leafFail (b : Nat) : (s.takeShadow b).leafFail = s.leafFail := rfl
@[simp] theorem State.takeShadow_groups (b : Nat) : (s.takeShadow b).groups = s.groups := rfl
@[simp] theorem State.takeShadow_kcs (b : Nat) : (s.takeShadow b).kcs = s.kcs := rfl
@[simp] theorem State.takeShadow_keks (b : Nat) : (s.takeShadow b).keks = s.keks := rfl
@[simp] theorem State.takeShadow_hitch (b : Nat) : (s.takeShadow b).hitch = s.hitch := rfl
@[simp] theorem State.takeShadow_lanyard (b : Nat) : (s.takeShadow b).lanyard = s.lanyard := rfl
@[simp] theorem State.takeShadow_belay (b : Nat) : (s.takeShadow b).belay = s.belay := rfl
@[simp] theorem State.takeShadow_age (b : Nat) : (s.takeShadow b).age = s.age := rfl
@[simp] theorem State.takeShadow_tally (b : Nat) : (s.takeShadow b).tally = s.tally := rfl
@[simp] theorem State.takeShadow_fathom (b : Nat) : (s.takeShadow b).fathom = s.fathom := rfl
@[simp] theorem State.takeShadow_drawn (b : Nat) : (s.takeShadow b).drawn = s.drawn := rfl
@[simp] theorem State.takeShadow_out (b : Nat) : (s.takeShadow b).out = s.out := rfl
@[simp] theorem State.takeShadow_discards (b : Nat) : (s.takeShadow b).discards = s.discards := rfl
@[simp] theorem State.takeShadow_pending (b : Nat) : (s.takeShadow b).pending = s.pending := rfl

@[simp] theorem State.setRing_regs (r : Nat) (x : RingInt) : (s.setRing r x).regs = s.regs := rfl
@[simp] theorem State.setRing_shadow (r : Nat) (x : RingInt) : (s.setRing r x).shadow = s.shadow := rfl
@[simp] theorem State.setRing_latches (r : Nat) (x : RingInt) : (s.setRing r x).latches = s.latches := rfl
@[simp] theorem State.setRing_tod (r : Nat) (x : RingInt) : (s.setRing r x).tod = s.tod := rfl
@[simp] theorem State.setRing_pins (r : Nat) (x : RingInt) : (s.setRing r x).pins = s.pins := rfl
@[simp] theorem State.setRing_rings (r : Nat) (x : RingInt) : (s.setRing r x).rings = s.rings.put {} r x := rfl
@[simp] theorem State.setRing_inflight (r : Nat) (x : RingInt) : (s.setRing r x).inflight = s.inflight := rfl
@[simp] theorem State.setRing_nextCmd (r : Nat) (x : RingInt) : (s.setRing r x).nextCmd = s.nextCmd := rfl
@[simp] theorem State.setRing_vecs (r : Nat) (x : RingInt) : (s.setRing r x).vecs = s.vecs := rfl
@[simp] theorem State.setRing_auth (r : Nat) (x : RingInt) : (s.setRing r x).auth = s.auth := rfl
@[simp] theorem State.setRing_sessLeft (r : Nat) (x : RingInt) : (s.setRing r x).sessLeft = s.sessLeft := rfl
@[simp] theorem State.setRing_nv (r : Nat) (x : RingInt) : (s.setRing r x).nv = s.nv := rfl
@[simp] theorem State.setRing_journal (r : Nat) (x : RingInt) : (s.setRing r x).journal = s.journal := rfl
@[simp] theorem State.setRing_marline (r : Nat) (x : RingInt) : (s.setRing r x).marline = s.marline := rfl
@[simp] theorem State.setRing_boot (r : Nat) (x : RingInt) : (s.setRing r x).boot = s.boot := rfl
@[simp] theorem State.setRing_mem (r : Nat) (x : RingInt) : (s.setRing r x).mem = s.mem := rfl
@[simp] theorem State.setRing_whip (r : Nat) (x : RingInt) : (s.setRing r x).whip = s.whip := rfl
@[simp] theorem State.setRing_strand (r : Nat) (x : RingInt) : (s.setRing r x).strand = s.strand := rfl
@[simp] theorem State.setRing_braid (r : Nat) (x : RingInt) : (s.setRing r x).braid = s.braid := rfl
@[simp] theorem State.setRing_splice (r : Nat) (x : RingInt) : (s.setRing r x).splice = s.splice := rfl
@[simp] theorem State.setRing_halyard (r : Nat) (x : RingInt) : (s.setRing r x).halyard = s.halyard := rfl
@[simp] theorem State.setRing_bight (r : Nat) (x : RingInt) : (s.setRing r x).bight = s.bight := rfl
@[simp] theorem State.setRing_cleat (r : Nat) (x : RingInt) : (s.setRing r x).cleat = s.cleat := rfl
@[simp] theorem State.setRing_twine (r : Nat) (x : RingInt) : (s.setRing r x).twine = s.twine := rfl
@[simp] theorem State.setRing_clients (r : Nat) (x : RingInt) : (s.setRing r x).clients = s.clients := rfl
@[simp] theorem State.setRing_leafFail (r : Nat) (x : RingInt) : (s.setRing r x).leafFail = s.leafFail := rfl
@[simp] theorem State.setRing_groups (r : Nat) (x : RingInt) : (s.setRing r x).groups = s.groups := rfl
@[simp] theorem State.setRing_kcs (r : Nat) (x : RingInt) : (s.setRing r x).kcs = s.kcs := rfl
@[simp] theorem State.setRing_keks (r : Nat) (x : RingInt) : (s.setRing r x).keks = s.keks := rfl
@[simp] theorem State.setRing_hitch (r : Nat) (x : RingInt) : (s.setRing r x).hitch = s.hitch := rfl
@[simp] theorem State.setRing_lanyard (r : Nat) (x : RingInt) : (s.setRing r x).lanyard = s.lanyard := rfl
@[simp] theorem State.setRing_belay (r : Nat) (x : RingInt) : (s.setRing r x).belay = s.belay := rfl
@[simp] theorem State.setRing_age (r : Nat) (x : RingInt) : (s.setRing r x).age = s.age := rfl
@[simp] theorem State.setRing_tally (r : Nat) (x : RingInt) : (s.setRing r x).tally = s.tally := rfl
@[simp] theorem State.setRing_fathom (r : Nat) (x : RingInt) : (s.setRing r x).fathom = s.fathom := rfl
@[simp] theorem State.setRing_drawn (r : Nat) (x : RingInt) : (s.setRing r x).drawn = s.drawn := rfl
@[simp] theorem State.setRing_out (r : Nat) (x : RingInt) : (s.setRing r x).out = s.out := rfl
@[simp] theorem State.setRing_discards (r : Nat) (x : RingInt) : (s.setRing r x).discards = s.discards := rfl
@[simp] theorem State.setRing_pending (r : Nat) (x : RingInt) : (s.setRing r x).pending = s.pending := rfl

@[simp] theorem State.setMrl_regs (x : Marline) : (s.setMrl x).regs = s.regs := rfl
@[simp] theorem State.setMrl_shadow (x : Marline) : (s.setMrl x).shadow = s.shadow := rfl
@[simp] theorem State.setMrl_latches (x : Marline) : (s.setMrl x).latches = s.latches := rfl
@[simp] theorem State.setMrl_tod (x : Marline) : (s.setMrl x).tod = s.tod := rfl
@[simp] theorem State.setMrl_pins (x : Marline) : (s.setMrl x).pins = s.pins := rfl
@[simp] theorem State.setMrl_rings (x : Marline) : (s.setMrl x).rings = s.rings := rfl
@[simp] theorem State.setMrl_inflight (x : Marline) : (s.setMrl x).inflight = s.inflight := rfl
@[simp] theorem State.setMrl_nextCmd (x : Marline) : (s.setMrl x).nextCmd = s.nextCmd := rfl
@[simp] theorem State.setMrl_vecs (x : Marline) : (s.setMrl x).vecs = s.vecs := rfl
@[simp] theorem State.setMrl_auth (x : Marline) : (s.setMrl x).auth = s.auth := rfl
@[simp] theorem State.setMrl_sessLeft (x : Marline) : (s.setMrl x).sessLeft = s.sessLeft := rfl
@[simp] theorem State.setMrl_nv (x : Marline) : (s.setMrl x).nv = s.nv := rfl
@[simp] theorem State.setMrl_journal (x : Marline) : (s.setMrl x).journal = s.journal := rfl
@[simp] theorem State.setMrl_marline (x : Marline) : (s.setMrl x).marline = x := rfl
@[simp] theorem State.setMrl_boot (x : Marline) : (s.setMrl x).boot = s.boot := rfl
@[simp] theorem State.setMrl_mem (x : Marline) : (s.setMrl x).mem = s.mem := rfl
@[simp] theorem State.setMrl_whip (x : Marline) : (s.setMrl x).whip = s.whip := rfl
@[simp] theorem State.setMrl_strand (x : Marline) : (s.setMrl x).strand = s.strand := rfl
@[simp] theorem State.setMrl_braid (x : Marline) : (s.setMrl x).braid = s.braid := rfl
@[simp] theorem State.setMrl_splice (x : Marline) : (s.setMrl x).splice = s.splice := rfl
@[simp] theorem State.setMrl_halyard (x : Marline) : (s.setMrl x).halyard = s.halyard := rfl
@[simp] theorem State.setMrl_bight (x : Marline) : (s.setMrl x).bight = s.bight := rfl
@[simp] theorem State.setMrl_cleat (x : Marline) : (s.setMrl x).cleat = s.cleat := rfl
@[simp] theorem State.setMrl_twine (x : Marline) : (s.setMrl x).twine = s.twine := rfl
@[simp] theorem State.setMrl_clients (x : Marline) : (s.setMrl x).clients = s.clients := rfl
@[simp] theorem State.setMrl_leafFail (x : Marline) : (s.setMrl x).leafFail = s.leafFail := rfl
@[simp] theorem State.setMrl_groups (x : Marline) : (s.setMrl x).groups = s.groups := rfl
@[simp] theorem State.setMrl_kcs (x : Marline) : (s.setMrl x).kcs = s.kcs := rfl
@[simp] theorem State.setMrl_keks (x : Marline) : (s.setMrl x).keks = s.keks := rfl
@[simp] theorem State.setMrl_hitch (x : Marline) : (s.setMrl x).hitch = s.hitch := rfl
@[simp] theorem State.setMrl_lanyard (x : Marline) : (s.setMrl x).lanyard = s.lanyard := rfl
@[simp] theorem State.setMrl_belay (x : Marline) : (s.setMrl x).belay = s.belay := rfl
@[simp] theorem State.setMrl_age (x : Marline) : (s.setMrl x).age = s.age := rfl
@[simp] theorem State.setMrl_tally (x : Marline) : (s.setMrl x).tally = s.tally := rfl
@[simp] theorem State.setMrl_fathom (x : Marline) : (s.setMrl x).fathom = s.fathom := rfl
@[simp] theorem State.setMrl_drawn (x : Marline) : (s.setMrl x).drawn = s.drawn := rfl
@[simp] theorem State.setMrl_out (x : Marline) : (s.setMrl x).out = s.out := rfl
@[simp] theorem State.setMrl_discards (x : Marline) : (s.setMrl x).discards = s.discards := rfl
@[simp] theorem State.setMrl_pending (x : Marline) : (s.setMrl x).pending = s.pending := rfl

@[simp] theorem State.setWhip_regs (i : Nat) (x : WhipInt) : (s.setWhip i x).regs = s.regs := rfl
@[simp] theorem State.setWhip_shadow (i : Nat) (x : WhipInt) : (s.setWhip i x).shadow = s.shadow := rfl
@[simp] theorem State.setWhip_latches (i : Nat) (x : WhipInt) : (s.setWhip i x).latches = s.latches := rfl
@[simp] theorem State.setWhip_tod (i : Nat) (x : WhipInt) : (s.setWhip i x).tod = s.tod := rfl
@[simp] theorem State.setWhip_pins (i : Nat) (x : WhipInt) : (s.setWhip i x).pins = s.pins := rfl
@[simp] theorem State.setWhip_rings (i : Nat) (x : WhipInt) : (s.setWhip i x).rings = s.rings := rfl
@[simp] theorem State.setWhip_inflight (i : Nat) (x : WhipInt) : (s.setWhip i x).inflight = s.inflight := rfl
@[simp] theorem State.setWhip_nextCmd (i : Nat) (x : WhipInt) : (s.setWhip i x).nextCmd = s.nextCmd := rfl
@[simp] theorem State.setWhip_vecs (i : Nat) (x : WhipInt) : (s.setWhip i x).vecs = s.vecs := rfl
@[simp] theorem State.setWhip_auth (i : Nat) (x : WhipInt) : (s.setWhip i x).auth = s.auth := rfl
@[simp] theorem State.setWhip_sessLeft (i : Nat) (x : WhipInt) : (s.setWhip i x).sessLeft = s.sessLeft := rfl
@[simp] theorem State.setWhip_nv (i : Nat) (x : WhipInt) : (s.setWhip i x).nv = s.nv := rfl
@[simp] theorem State.setWhip_journal (i : Nat) (x : WhipInt) : (s.setWhip i x).journal = s.journal := rfl
@[simp] theorem State.setWhip_marline (i : Nat) (x : WhipInt) : (s.setWhip i x).marline = s.marline := rfl
@[simp] theorem State.setWhip_boot (i : Nat) (x : WhipInt) : (s.setWhip i x).boot = s.boot := rfl
@[simp] theorem State.setWhip_mem (i : Nat) (x : WhipInt) : (s.setWhip i x).mem = s.mem := rfl
@[simp] theorem State.setWhip_whip (i : Nat) (x : WhipInt) : (s.setWhip i x).whip = s.whip.put {} i x := rfl
@[simp] theorem State.setWhip_strand (i : Nat) (x : WhipInt) : (s.setWhip i x).strand = s.strand := rfl
@[simp] theorem State.setWhip_braid (i : Nat) (x : WhipInt) : (s.setWhip i x).braid = s.braid := rfl
@[simp] theorem State.setWhip_splice (i : Nat) (x : WhipInt) : (s.setWhip i x).splice = s.splice := rfl
@[simp] theorem State.setWhip_halyard (i : Nat) (x : WhipInt) : (s.setWhip i x).halyard = s.halyard := rfl
@[simp] theorem State.setWhip_bight (i : Nat) (x : WhipInt) : (s.setWhip i x).bight = s.bight := rfl
@[simp] theorem State.setWhip_cleat (i : Nat) (x : WhipInt) : (s.setWhip i x).cleat = s.cleat := rfl
@[simp] theorem State.setWhip_twine (i : Nat) (x : WhipInt) : (s.setWhip i x).twine = s.twine := rfl
@[simp] theorem State.setWhip_clients (i : Nat) (x : WhipInt) : (s.setWhip i x).clients = s.clients := rfl
@[simp] theorem State.setWhip_leafFail (i : Nat) (x : WhipInt) : (s.setWhip i x).leafFail = s.leafFail := rfl
@[simp] theorem State.setWhip_groups (i : Nat) (x : WhipInt) : (s.setWhip i x).groups = s.groups := rfl
@[simp] theorem State.setWhip_kcs (i : Nat) (x : WhipInt) : (s.setWhip i x).kcs = s.kcs := rfl
@[simp] theorem State.setWhip_keks (i : Nat) (x : WhipInt) : (s.setWhip i x).keks = s.keks := rfl
@[simp] theorem State.setWhip_hitch (i : Nat) (x : WhipInt) : (s.setWhip i x).hitch = s.hitch := rfl
@[simp] theorem State.setWhip_lanyard (i : Nat) (x : WhipInt) : (s.setWhip i x).lanyard = s.lanyard := rfl
@[simp] theorem State.setWhip_belay (i : Nat) (x : WhipInt) : (s.setWhip i x).belay = s.belay := rfl
@[simp] theorem State.setWhip_age (i : Nat) (x : WhipInt) : (s.setWhip i x).age = s.age := rfl
@[simp] theorem State.setWhip_tally (i : Nat) (x : WhipInt) : (s.setWhip i x).tally = s.tally := rfl
@[simp] theorem State.setWhip_fathom (i : Nat) (x : WhipInt) : (s.setWhip i x).fathom = s.fathom := rfl
@[simp] theorem State.setWhip_drawn (i : Nat) (x : WhipInt) : (s.setWhip i x).drawn = s.drawn := rfl
@[simp] theorem State.setWhip_out (i : Nat) (x : WhipInt) : (s.setWhip i x).out = s.out := rfl
@[simp] theorem State.setWhip_discards (i : Nat) (x : WhipInt) : (s.setWhip i x).discards = s.discards := rfl
@[simp] theorem State.setWhip_pending (i : Nat) (x : WhipInt) : (s.setWhip i x).pending = s.pending := rfl

@[simp] theorem State.setAuth_regs (a : AuthInt) : (s.setAuth a).regs = s.regs := rfl
@[simp] theorem State.setAuth_shadow (a : AuthInt) : (s.setAuth a).shadow = s.shadow := rfl
@[simp] theorem State.setAuth_latches (a : AuthInt) : (s.setAuth a).latches = s.latches := rfl
@[simp] theorem State.setAuth_tod (a : AuthInt) : (s.setAuth a).tod = s.tod := rfl
@[simp] theorem State.setAuth_pins (a : AuthInt) : (s.setAuth a).pins = s.pins := rfl
@[simp] theorem State.setAuth_rings (a : AuthInt) : (s.setAuth a).rings = s.rings := rfl
@[simp] theorem State.setAuth_inflight (a : AuthInt) : (s.setAuth a).inflight = s.inflight := rfl
@[simp] theorem State.setAuth_nextCmd (a : AuthInt) : (s.setAuth a).nextCmd = s.nextCmd := rfl
@[simp] theorem State.setAuth_vecs (a : AuthInt) : (s.setAuth a).vecs = s.vecs := rfl
@[simp] theorem State.setAuth_auth (a : AuthInt) : (s.setAuth a).auth = a :: s.auth.filter fun b => b.req != a.req := rfl
@[simp] theorem State.setAuth_sessLeft (a : AuthInt) : (s.setAuth a).sessLeft = s.sessLeft := rfl
@[simp] theorem State.setAuth_nv (a : AuthInt) : (s.setAuth a).nv = s.nv := rfl
@[simp] theorem State.setAuth_journal (a : AuthInt) : (s.setAuth a).journal = s.journal := rfl
@[simp] theorem State.setAuth_marline (a : AuthInt) : (s.setAuth a).marline = s.marline := rfl
@[simp] theorem State.setAuth_boot (a : AuthInt) : (s.setAuth a).boot = s.boot := rfl
@[simp] theorem State.setAuth_mem (a : AuthInt) : (s.setAuth a).mem = s.mem := rfl
@[simp] theorem State.setAuth_whip (a : AuthInt) : (s.setAuth a).whip = s.whip := rfl
@[simp] theorem State.setAuth_strand (a : AuthInt) : (s.setAuth a).strand = s.strand := rfl
@[simp] theorem State.setAuth_braid (a : AuthInt) : (s.setAuth a).braid = s.braid := rfl
@[simp] theorem State.setAuth_splice (a : AuthInt) : (s.setAuth a).splice = s.splice := rfl
@[simp] theorem State.setAuth_halyard (a : AuthInt) : (s.setAuth a).halyard = s.halyard := rfl
@[simp] theorem State.setAuth_bight (a : AuthInt) : (s.setAuth a).bight = s.bight := rfl
@[simp] theorem State.setAuth_cleat (a : AuthInt) : (s.setAuth a).cleat = s.cleat := rfl
@[simp] theorem State.setAuth_twine (a : AuthInt) : (s.setAuth a).twine = s.twine := rfl
@[simp] theorem State.setAuth_clients (a : AuthInt) : (s.setAuth a).clients = s.clients := rfl
@[simp] theorem State.setAuth_leafFail (a : AuthInt) : (s.setAuth a).leafFail = s.leafFail := rfl
@[simp] theorem State.setAuth_groups (a : AuthInt) : (s.setAuth a).groups = s.groups := rfl
@[simp] theorem State.setAuth_kcs (a : AuthInt) : (s.setAuth a).kcs = s.kcs := rfl
@[simp] theorem State.setAuth_keks (a : AuthInt) : (s.setAuth a).keks = s.keks := rfl
@[simp] theorem State.setAuth_hitch (a : AuthInt) : (s.setAuth a).hitch = s.hitch := rfl
@[simp] theorem State.setAuth_lanyard (a : AuthInt) : (s.setAuth a).lanyard = s.lanyard := rfl
@[simp] theorem State.setAuth_belay (a : AuthInt) : (s.setAuth a).belay = s.belay := rfl
@[simp] theorem State.setAuth_age (a : AuthInt) : (s.setAuth a).age = s.age := rfl
@[simp] theorem State.setAuth_tally (a : AuthInt) : (s.setAuth a).tally = s.tally := rfl
@[simp] theorem State.setAuth_fathom (a : AuthInt) : (s.setAuth a).fathom = s.fathom := rfl
@[simp] theorem State.setAuth_drawn (a : AuthInt) : (s.setAuth a).drawn = s.drawn := rfl
@[simp] theorem State.setAuth_out (a : AuthInt) : (s.setAuth a).out = s.out := rfl
@[simp] theorem State.setAuth_discards (a : AuthInt) : (s.setAuth a).discards = s.discards := rfl
@[simp] theorem State.setAuth_pending (a : AuthInt) : (s.setAuth a).pending = s.pending := rfl

@[simp] theorem State.setStr_regs (n : Nat) (x : StrandInt) : (s.setStr n x).regs = s.regs := rfl
@[simp] theorem State.setStr_shadow (n : Nat) (x : StrandInt) : (s.setStr n x).shadow = s.shadow := rfl
@[simp] theorem State.setStr_latches (n : Nat) (x : StrandInt) : (s.setStr n x).latches = s.latches := rfl
@[simp] theorem State.setStr_tod (n : Nat) (x : StrandInt) : (s.setStr n x).tod = s.tod := rfl
@[simp] theorem State.setStr_pins (n : Nat) (x : StrandInt) : (s.setStr n x).pins = s.pins := rfl
@[simp] theorem State.setStr_rings (n : Nat) (x : StrandInt) : (s.setStr n x).rings = s.rings := rfl
@[simp] theorem State.setStr_inflight (n : Nat) (x : StrandInt) : (s.setStr n x).inflight = s.inflight := rfl
@[simp] theorem State.setStr_nextCmd (n : Nat) (x : StrandInt) : (s.setStr n x).nextCmd = s.nextCmd := rfl
@[simp] theorem State.setStr_vecs (n : Nat) (x : StrandInt) : (s.setStr n x).vecs = s.vecs := rfl
@[simp] theorem State.setStr_auth (n : Nat) (x : StrandInt) : (s.setStr n x).auth = s.auth := rfl
@[simp] theorem State.setStr_sessLeft (n : Nat) (x : StrandInt) : (s.setStr n x).sessLeft = s.sessLeft := rfl
@[simp] theorem State.setStr_nv (n : Nat) (x : StrandInt) : (s.setStr n x).nv = s.nv := rfl
@[simp] theorem State.setStr_journal (n : Nat) (x : StrandInt) : (s.setStr n x).journal = s.journal := rfl
@[simp] theorem State.setStr_marline (n : Nat) (x : StrandInt) : (s.setStr n x).marline = s.marline := rfl
@[simp] theorem State.setStr_boot (n : Nat) (x : StrandInt) : (s.setStr n x).boot = s.boot := rfl
@[simp] theorem State.setStr_mem (n : Nat) (x : StrandInt) : (s.setStr n x).mem = s.mem := rfl
@[simp] theorem State.setStr_whip (n : Nat) (x : StrandInt) : (s.setStr n x).whip = s.whip := rfl
@[simp] theorem State.setStr_strand (n : Nat) (x : StrandInt) : (s.setStr n x).strand = s.strand.put {} n x := rfl
@[simp] theorem State.setStr_braid (n : Nat) (x : StrandInt) : (s.setStr n x).braid = s.braid := rfl
@[simp] theorem State.setStr_splice (n : Nat) (x : StrandInt) : (s.setStr n x).splice = s.splice := rfl
@[simp] theorem State.setStr_halyard (n : Nat) (x : StrandInt) : (s.setStr n x).halyard = s.halyard := rfl
@[simp] theorem State.setStr_bight (n : Nat) (x : StrandInt) : (s.setStr n x).bight = s.bight := rfl
@[simp] theorem State.setStr_cleat (n : Nat) (x : StrandInt) : (s.setStr n x).cleat = s.cleat := rfl
@[simp] theorem State.setStr_twine (n : Nat) (x : StrandInt) : (s.setStr n x).twine = s.twine := rfl
@[simp] theorem State.setStr_clients (n : Nat) (x : StrandInt) : (s.setStr n x).clients = s.clients := rfl
@[simp] theorem State.setStr_leafFail (n : Nat) (x : StrandInt) : (s.setStr n x).leafFail = s.leafFail := rfl
@[simp] theorem State.setStr_groups (n : Nat) (x : StrandInt) : (s.setStr n x).groups = s.groups := rfl
@[simp] theorem State.setStr_kcs (n : Nat) (x : StrandInt) : (s.setStr n x).kcs = s.kcs := rfl
@[simp] theorem State.setStr_keks (n : Nat) (x : StrandInt) : (s.setStr n x).keks = s.keks := rfl
@[simp] theorem State.setStr_hitch (n : Nat) (x : StrandInt) : (s.setStr n x).hitch = s.hitch := rfl
@[simp] theorem State.setStr_lanyard (n : Nat) (x : StrandInt) : (s.setStr n x).lanyard = s.lanyard := rfl
@[simp] theorem State.setStr_belay (n : Nat) (x : StrandInt) : (s.setStr n x).belay = s.belay := rfl
@[simp] theorem State.setStr_age (n : Nat) (x : StrandInt) : (s.setStr n x).age = s.age := rfl
@[simp] theorem State.setStr_tally (n : Nat) (x : StrandInt) : (s.setStr n x).tally = s.tally := rfl
@[simp] theorem State.setStr_fathom (n : Nat) (x : StrandInt) : (s.setStr n x).fathom = s.fathom := rfl
@[simp] theorem State.setStr_drawn (n : Nat) (x : StrandInt) : (s.setStr n x).drawn = s.drawn := rfl
@[simp] theorem State.setStr_out (n : Nat) (x : StrandInt) : (s.setStr n x).out = s.out := rfl
@[simp] theorem State.setStr_discards (n : Nat) (x : StrandInt) : (s.setStr n x).discards = s.discards := rfl
@[simp] theorem State.setStr_pending (n : Nat) (x : StrandInt) : (s.setStr n x).pending = s.pending := rfl

@[simp] theorem State.setBrd_regs (n : Nat) (x : BraidInt) : (s.setBrd n x).regs = s.regs := rfl
@[simp] theorem State.setBrd_shadow (n : Nat) (x : BraidInt) : (s.setBrd n x).shadow = s.shadow := rfl
@[simp] theorem State.setBrd_latches (n : Nat) (x : BraidInt) : (s.setBrd n x).latches = s.latches := rfl
@[simp] theorem State.setBrd_tod (n : Nat) (x : BraidInt) : (s.setBrd n x).tod = s.tod := rfl
@[simp] theorem State.setBrd_pins (n : Nat) (x : BraidInt) : (s.setBrd n x).pins = s.pins := rfl
@[simp] theorem State.setBrd_rings (n : Nat) (x : BraidInt) : (s.setBrd n x).rings = s.rings := rfl
@[simp] theorem State.setBrd_inflight (n : Nat) (x : BraidInt) : (s.setBrd n x).inflight = s.inflight := rfl
@[simp] theorem State.setBrd_nextCmd (n : Nat) (x : BraidInt) : (s.setBrd n x).nextCmd = s.nextCmd := rfl
@[simp] theorem State.setBrd_vecs (n : Nat) (x : BraidInt) : (s.setBrd n x).vecs = s.vecs := rfl
@[simp] theorem State.setBrd_auth (n : Nat) (x : BraidInt) : (s.setBrd n x).auth = s.auth := rfl
@[simp] theorem State.setBrd_sessLeft (n : Nat) (x : BraidInt) : (s.setBrd n x).sessLeft = s.sessLeft := rfl
@[simp] theorem State.setBrd_nv (n : Nat) (x : BraidInt) : (s.setBrd n x).nv = s.nv := rfl
@[simp] theorem State.setBrd_journal (n : Nat) (x : BraidInt) : (s.setBrd n x).journal = s.journal := rfl
@[simp] theorem State.setBrd_marline (n : Nat) (x : BraidInt) : (s.setBrd n x).marline = s.marline := rfl
@[simp] theorem State.setBrd_boot (n : Nat) (x : BraidInt) : (s.setBrd n x).boot = s.boot := rfl
@[simp] theorem State.setBrd_mem (n : Nat) (x : BraidInt) : (s.setBrd n x).mem = s.mem := rfl
@[simp] theorem State.setBrd_whip (n : Nat) (x : BraidInt) : (s.setBrd n x).whip = s.whip := rfl
@[simp] theorem State.setBrd_strand (n : Nat) (x : BraidInt) : (s.setBrd n x).strand = s.strand := rfl
@[simp] theorem State.setBrd_braid (n : Nat) (x : BraidInt) : (s.setBrd n x).braid = s.braid.put {} n x := rfl
@[simp] theorem State.setBrd_splice (n : Nat) (x : BraidInt) : (s.setBrd n x).splice = s.splice := rfl
@[simp] theorem State.setBrd_halyard (n : Nat) (x : BraidInt) : (s.setBrd n x).halyard = s.halyard := rfl
@[simp] theorem State.setBrd_bight (n : Nat) (x : BraidInt) : (s.setBrd n x).bight = s.bight := rfl
@[simp] theorem State.setBrd_cleat (n : Nat) (x : BraidInt) : (s.setBrd n x).cleat = s.cleat := rfl
@[simp] theorem State.setBrd_twine (n : Nat) (x : BraidInt) : (s.setBrd n x).twine = s.twine := rfl
@[simp] theorem State.setBrd_clients (n : Nat) (x : BraidInt) : (s.setBrd n x).clients = s.clients := rfl
@[simp] theorem State.setBrd_leafFail (n : Nat) (x : BraidInt) : (s.setBrd n x).leafFail = s.leafFail := rfl
@[simp] theorem State.setBrd_groups (n : Nat) (x : BraidInt) : (s.setBrd n x).groups = s.groups := rfl
@[simp] theorem State.setBrd_kcs (n : Nat) (x : BraidInt) : (s.setBrd n x).kcs = s.kcs := rfl
@[simp] theorem State.setBrd_keks (n : Nat) (x : BraidInt) : (s.setBrd n x).keks = s.keks := rfl
@[simp] theorem State.setBrd_hitch (n : Nat) (x : BraidInt) : (s.setBrd n x).hitch = s.hitch := rfl
@[simp] theorem State.setBrd_lanyard (n : Nat) (x : BraidInt) : (s.setBrd n x).lanyard = s.lanyard := rfl
@[simp] theorem State.setBrd_belay (n : Nat) (x : BraidInt) : (s.setBrd n x).belay = s.belay := rfl
@[simp] theorem State.setBrd_age (n : Nat) (x : BraidInt) : (s.setBrd n x).age = s.age := rfl
@[simp] theorem State.setBrd_tally (n : Nat) (x : BraidInt) : (s.setBrd n x).tally = s.tally := rfl
@[simp] theorem State.setBrd_fathom (n : Nat) (x : BraidInt) : (s.setBrd n x).fathom = s.fathom := rfl
@[simp] theorem State.setBrd_drawn (n : Nat) (x : BraidInt) : (s.setBrd n x).drawn = s.drawn := rfl
@[simp] theorem State.setBrd_out (n : Nat) (x : BraidInt) : (s.setBrd n x).out = s.out := rfl
@[simp] theorem State.setBrd_discards (n : Nat) (x : BraidInt) : (s.setBrd n x).discards = s.discards := rfl
@[simp] theorem State.setBrd_pending (n : Nat) (x : BraidInt) : (s.setBrd n x).pending = s.pending := rfl

@[simp] theorem State.setSpl_regs (n : Nat) (x : SpliceInt) : (s.setSpl n x).regs = s.regs := rfl
@[simp] theorem State.setSpl_shadow (n : Nat) (x : SpliceInt) : (s.setSpl n x).shadow = s.shadow := rfl
@[simp] theorem State.setSpl_latches (n : Nat) (x : SpliceInt) : (s.setSpl n x).latches = s.latches := rfl
@[simp] theorem State.setSpl_tod (n : Nat) (x : SpliceInt) : (s.setSpl n x).tod = s.tod := rfl
@[simp] theorem State.setSpl_pins (n : Nat) (x : SpliceInt) : (s.setSpl n x).pins = s.pins := rfl
@[simp] theorem State.setSpl_rings (n : Nat) (x : SpliceInt) : (s.setSpl n x).rings = s.rings := rfl
@[simp] theorem State.setSpl_inflight (n : Nat) (x : SpliceInt) : (s.setSpl n x).inflight = s.inflight := rfl
@[simp] theorem State.setSpl_nextCmd (n : Nat) (x : SpliceInt) : (s.setSpl n x).nextCmd = s.nextCmd := rfl
@[simp] theorem State.setSpl_vecs (n : Nat) (x : SpliceInt) : (s.setSpl n x).vecs = s.vecs := rfl
@[simp] theorem State.setSpl_auth (n : Nat) (x : SpliceInt) : (s.setSpl n x).auth = s.auth := rfl
@[simp] theorem State.setSpl_sessLeft (n : Nat) (x : SpliceInt) : (s.setSpl n x).sessLeft = s.sessLeft := rfl
@[simp] theorem State.setSpl_nv (n : Nat) (x : SpliceInt) : (s.setSpl n x).nv = s.nv := rfl
@[simp] theorem State.setSpl_journal (n : Nat) (x : SpliceInt) : (s.setSpl n x).journal = s.journal := rfl
@[simp] theorem State.setSpl_marline (n : Nat) (x : SpliceInt) : (s.setSpl n x).marline = s.marline := rfl
@[simp] theorem State.setSpl_boot (n : Nat) (x : SpliceInt) : (s.setSpl n x).boot = s.boot := rfl
@[simp] theorem State.setSpl_mem (n : Nat) (x : SpliceInt) : (s.setSpl n x).mem = s.mem := rfl
@[simp] theorem State.setSpl_whip (n : Nat) (x : SpliceInt) : (s.setSpl n x).whip = s.whip := rfl
@[simp] theorem State.setSpl_strand (n : Nat) (x : SpliceInt) : (s.setSpl n x).strand = s.strand := rfl
@[simp] theorem State.setSpl_braid (n : Nat) (x : SpliceInt) : (s.setSpl n x).braid = s.braid := rfl
@[simp] theorem State.setSpl_splice (n : Nat) (x : SpliceInt) : (s.setSpl n x).splice = s.splice.put {} n x := rfl
@[simp] theorem State.setSpl_halyard (n : Nat) (x : SpliceInt) : (s.setSpl n x).halyard = s.halyard := rfl
@[simp] theorem State.setSpl_bight (n : Nat) (x : SpliceInt) : (s.setSpl n x).bight = s.bight := rfl
@[simp] theorem State.setSpl_cleat (n : Nat) (x : SpliceInt) : (s.setSpl n x).cleat = s.cleat := rfl
@[simp] theorem State.setSpl_twine (n : Nat) (x : SpliceInt) : (s.setSpl n x).twine = s.twine := rfl
@[simp] theorem State.setSpl_clients (n : Nat) (x : SpliceInt) : (s.setSpl n x).clients = s.clients := rfl
@[simp] theorem State.setSpl_leafFail (n : Nat) (x : SpliceInt) : (s.setSpl n x).leafFail = s.leafFail := rfl
@[simp] theorem State.setSpl_groups (n : Nat) (x : SpliceInt) : (s.setSpl n x).groups = s.groups := rfl
@[simp] theorem State.setSpl_kcs (n : Nat) (x : SpliceInt) : (s.setSpl n x).kcs = s.kcs := rfl
@[simp] theorem State.setSpl_keks (n : Nat) (x : SpliceInt) : (s.setSpl n x).keks = s.keks := rfl
@[simp] theorem State.setSpl_hitch (n : Nat) (x : SpliceInt) : (s.setSpl n x).hitch = s.hitch := rfl
@[simp] theorem State.setSpl_lanyard (n : Nat) (x : SpliceInt) : (s.setSpl n x).lanyard = s.lanyard := rfl
@[simp] theorem State.setSpl_belay (n : Nat) (x : SpliceInt) : (s.setSpl n x).belay = s.belay := rfl
@[simp] theorem State.setSpl_age (n : Nat) (x : SpliceInt) : (s.setSpl n x).age = s.age := rfl
@[simp] theorem State.setSpl_tally (n : Nat) (x : SpliceInt) : (s.setSpl n x).tally = s.tally := rfl
@[simp] theorem State.setSpl_fathom (n : Nat) (x : SpliceInt) : (s.setSpl n x).fathom = s.fathom := rfl
@[simp] theorem State.setSpl_drawn (n : Nat) (x : SpliceInt) : (s.setSpl n x).drawn = s.drawn := rfl
@[simp] theorem State.setSpl_out (n : Nat) (x : SpliceInt) : (s.setSpl n x).out = s.out := rfl
@[simp] theorem State.setSpl_discards (n : Nat) (x : SpliceInt) : (s.setSpl n x).discards = s.discards := rfl
@[simp] theorem State.setSpl_pending (n : Nat) (x : SpliceInt) : (s.setSpl n x).pending = s.pending := rfl

@[simp] theorem State.setBgt_regs (n : Nat) (x : BightInt) : (s.setBgt n x).regs = s.regs := rfl
@[simp] theorem State.setBgt_shadow (n : Nat) (x : BightInt) : (s.setBgt n x).shadow = s.shadow := rfl
@[simp] theorem State.setBgt_latches (n : Nat) (x : BightInt) : (s.setBgt n x).latches = s.latches := rfl
@[simp] theorem State.setBgt_tod (n : Nat) (x : BightInt) : (s.setBgt n x).tod = s.tod := rfl
@[simp] theorem State.setBgt_pins (n : Nat) (x : BightInt) : (s.setBgt n x).pins = s.pins := rfl
@[simp] theorem State.setBgt_rings (n : Nat) (x : BightInt) : (s.setBgt n x).rings = s.rings := rfl
@[simp] theorem State.setBgt_inflight (n : Nat) (x : BightInt) : (s.setBgt n x).inflight = s.inflight := rfl
@[simp] theorem State.setBgt_nextCmd (n : Nat) (x : BightInt) : (s.setBgt n x).nextCmd = s.nextCmd := rfl
@[simp] theorem State.setBgt_vecs (n : Nat) (x : BightInt) : (s.setBgt n x).vecs = s.vecs := rfl
@[simp] theorem State.setBgt_auth (n : Nat) (x : BightInt) : (s.setBgt n x).auth = s.auth := rfl
@[simp] theorem State.setBgt_sessLeft (n : Nat) (x : BightInt) : (s.setBgt n x).sessLeft = s.sessLeft := rfl
@[simp] theorem State.setBgt_nv (n : Nat) (x : BightInt) : (s.setBgt n x).nv = s.nv := rfl
@[simp] theorem State.setBgt_journal (n : Nat) (x : BightInt) : (s.setBgt n x).journal = s.journal := rfl
@[simp] theorem State.setBgt_marline (n : Nat) (x : BightInt) : (s.setBgt n x).marline = s.marline := rfl
@[simp] theorem State.setBgt_boot (n : Nat) (x : BightInt) : (s.setBgt n x).boot = s.boot := rfl
@[simp] theorem State.setBgt_mem (n : Nat) (x : BightInt) : (s.setBgt n x).mem = s.mem := rfl
@[simp] theorem State.setBgt_whip (n : Nat) (x : BightInt) : (s.setBgt n x).whip = s.whip := rfl
@[simp] theorem State.setBgt_strand (n : Nat) (x : BightInt) : (s.setBgt n x).strand = s.strand := rfl
@[simp] theorem State.setBgt_braid (n : Nat) (x : BightInt) : (s.setBgt n x).braid = s.braid := rfl
@[simp] theorem State.setBgt_splice (n : Nat) (x : BightInt) : (s.setBgt n x).splice = s.splice := rfl
@[simp] theorem State.setBgt_halyard (n : Nat) (x : BightInt) : (s.setBgt n x).halyard = s.halyard := rfl
@[simp] theorem State.setBgt_bight (n : Nat) (x : BightInt) : (s.setBgt n x).bight = s.bight.put {} n x := rfl
@[simp] theorem State.setBgt_cleat (n : Nat) (x : BightInt) : (s.setBgt n x).cleat = s.cleat := rfl
@[simp] theorem State.setBgt_twine (n : Nat) (x : BightInt) : (s.setBgt n x).twine = s.twine := rfl
@[simp] theorem State.setBgt_clients (n : Nat) (x : BightInt) : (s.setBgt n x).clients = s.clients := rfl
@[simp] theorem State.setBgt_leafFail (n : Nat) (x : BightInt) : (s.setBgt n x).leafFail = s.leafFail := rfl
@[simp] theorem State.setBgt_groups (n : Nat) (x : BightInt) : (s.setBgt n x).groups = s.groups := rfl
@[simp] theorem State.setBgt_kcs (n : Nat) (x : BightInt) : (s.setBgt n x).kcs = s.kcs := rfl
@[simp] theorem State.setBgt_keks (n : Nat) (x : BightInt) : (s.setBgt n x).keks = s.keks := rfl
@[simp] theorem State.setBgt_hitch (n : Nat) (x : BightInt) : (s.setBgt n x).hitch = s.hitch := rfl
@[simp] theorem State.setBgt_lanyard (n : Nat) (x : BightInt) : (s.setBgt n x).lanyard = s.lanyard := rfl
@[simp] theorem State.setBgt_belay (n : Nat) (x : BightInt) : (s.setBgt n x).belay = s.belay := rfl
@[simp] theorem State.setBgt_age (n : Nat) (x : BightInt) : (s.setBgt n x).age = s.age := rfl
@[simp] theorem State.setBgt_tally (n : Nat) (x : BightInt) : (s.setBgt n x).tally = s.tally := rfl
@[simp] theorem State.setBgt_fathom (n : Nat) (x : BightInt) : (s.setBgt n x).fathom = s.fathom := rfl
@[simp] theorem State.setBgt_drawn (n : Nat) (x : BightInt) : (s.setBgt n x).drawn = s.drawn := rfl
@[simp] theorem State.setBgt_out (n : Nat) (x : BightInt) : (s.setBgt n x).out = s.out := rfl
@[simp] theorem State.setBgt_discards (n : Nat) (x : BightInt) : (s.setBgt n x).discards = s.discards := rfl
@[simp] theorem State.setBgt_pending (n : Nat) (x : BightInt) : (s.setBgt n x).pending = s.pending := rfl

@[simp] theorem State.setClt_regs (n : Nat) (x : CleatInt) : (s.setClt n x).regs = s.regs := rfl
@[simp] theorem State.setClt_shadow (n : Nat) (x : CleatInt) : (s.setClt n x).shadow = s.shadow := rfl
@[simp] theorem State.setClt_latches (n : Nat) (x : CleatInt) : (s.setClt n x).latches = s.latches := rfl
@[simp] theorem State.setClt_tod (n : Nat) (x : CleatInt) : (s.setClt n x).tod = s.tod := rfl
@[simp] theorem State.setClt_pins (n : Nat) (x : CleatInt) : (s.setClt n x).pins = s.pins := rfl
@[simp] theorem State.setClt_rings (n : Nat) (x : CleatInt) : (s.setClt n x).rings = s.rings := rfl
@[simp] theorem State.setClt_inflight (n : Nat) (x : CleatInt) : (s.setClt n x).inflight = s.inflight := rfl
@[simp] theorem State.setClt_nextCmd (n : Nat) (x : CleatInt) : (s.setClt n x).nextCmd = s.nextCmd := rfl
@[simp] theorem State.setClt_vecs (n : Nat) (x : CleatInt) : (s.setClt n x).vecs = s.vecs := rfl
@[simp] theorem State.setClt_auth (n : Nat) (x : CleatInt) : (s.setClt n x).auth = s.auth := rfl
@[simp] theorem State.setClt_sessLeft (n : Nat) (x : CleatInt) : (s.setClt n x).sessLeft = s.sessLeft := rfl
@[simp] theorem State.setClt_nv (n : Nat) (x : CleatInt) : (s.setClt n x).nv = s.nv := rfl
@[simp] theorem State.setClt_journal (n : Nat) (x : CleatInt) : (s.setClt n x).journal = s.journal := rfl
@[simp] theorem State.setClt_marline (n : Nat) (x : CleatInt) : (s.setClt n x).marline = s.marline := rfl
@[simp] theorem State.setClt_boot (n : Nat) (x : CleatInt) : (s.setClt n x).boot = s.boot := rfl
@[simp] theorem State.setClt_mem (n : Nat) (x : CleatInt) : (s.setClt n x).mem = s.mem := rfl
@[simp] theorem State.setClt_whip (n : Nat) (x : CleatInt) : (s.setClt n x).whip = s.whip := rfl
@[simp] theorem State.setClt_strand (n : Nat) (x : CleatInt) : (s.setClt n x).strand = s.strand := rfl
@[simp] theorem State.setClt_braid (n : Nat) (x : CleatInt) : (s.setClt n x).braid = s.braid := rfl
@[simp] theorem State.setClt_splice (n : Nat) (x : CleatInt) : (s.setClt n x).splice = s.splice := rfl
@[simp] theorem State.setClt_halyard (n : Nat) (x : CleatInt) : (s.setClt n x).halyard = s.halyard := rfl
@[simp] theorem State.setClt_bight (n : Nat) (x : CleatInt) : (s.setClt n x).bight = s.bight := rfl
@[simp] theorem State.setClt_cleat (n : Nat) (x : CleatInt) : (s.setClt n x).cleat = s.cleat.put {} n x := rfl
@[simp] theorem State.setClt_twine (n : Nat) (x : CleatInt) : (s.setClt n x).twine = s.twine := rfl
@[simp] theorem State.setClt_clients (n : Nat) (x : CleatInt) : (s.setClt n x).clients = s.clients := rfl
@[simp] theorem State.setClt_leafFail (n : Nat) (x : CleatInt) : (s.setClt n x).leafFail = s.leafFail := rfl
@[simp] theorem State.setClt_groups (n : Nat) (x : CleatInt) : (s.setClt n x).groups = s.groups := rfl
@[simp] theorem State.setClt_kcs (n : Nat) (x : CleatInt) : (s.setClt n x).kcs = s.kcs := rfl
@[simp] theorem State.setClt_keks (n : Nat) (x : CleatInt) : (s.setClt n x).keks = s.keks := rfl
@[simp] theorem State.setClt_hitch (n : Nat) (x : CleatInt) : (s.setClt n x).hitch = s.hitch := rfl
@[simp] theorem State.setClt_lanyard (n : Nat) (x : CleatInt) : (s.setClt n x).lanyard = s.lanyard := rfl
@[simp] theorem State.setClt_belay (n : Nat) (x : CleatInt) : (s.setClt n x).belay = s.belay := rfl
@[simp] theorem State.setClt_age (n : Nat) (x : CleatInt) : (s.setClt n x).age = s.age := rfl
@[simp] theorem State.setClt_tally (n : Nat) (x : CleatInt) : (s.setClt n x).tally = s.tally := rfl
@[simp] theorem State.setClt_fathom (n : Nat) (x : CleatInt) : (s.setClt n x).fathom = s.fathom := rfl
@[simp] theorem State.setClt_drawn (n : Nat) (x : CleatInt) : (s.setClt n x).drawn = s.drawn := rfl
@[simp] theorem State.setClt_out (n : Nat) (x : CleatInt) : (s.setClt n x).out = s.out := rfl
@[simp] theorem State.setClt_discards (n : Nat) (x : CleatInt) : (s.setClt n x).discards = s.discards := rfl
@[simp] theorem State.setClt_pending (n : Nat) (x : CleatInt) : (s.setClt n x).pending = s.pending := rfl

@[simp] theorem State.setTw_regs (l : Nat) (x : TwineInt) : (s.setTw l x).regs = s.regs := rfl
@[simp] theorem State.setTw_shadow (l : Nat) (x : TwineInt) : (s.setTw l x).shadow = s.shadow := rfl
@[simp] theorem State.setTw_latches (l : Nat) (x : TwineInt) : (s.setTw l x).latches = s.latches := rfl
@[simp] theorem State.setTw_tod (l : Nat) (x : TwineInt) : (s.setTw l x).tod = s.tod := rfl
@[simp] theorem State.setTw_pins (l : Nat) (x : TwineInt) : (s.setTw l x).pins = s.pins := rfl
@[simp] theorem State.setTw_rings (l : Nat) (x : TwineInt) : (s.setTw l x).rings = s.rings := rfl
@[simp] theorem State.setTw_inflight (l : Nat) (x : TwineInt) : (s.setTw l x).inflight = s.inflight := rfl
@[simp] theorem State.setTw_nextCmd (l : Nat) (x : TwineInt) : (s.setTw l x).nextCmd = s.nextCmd := rfl
@[simp] theorem State.setTw_vecs (l : Nat) (x : TwineInt) : (s.setTw l x).vecs = s.vecs := rfl
@[simp] theorem State.setTw_auth (l : Nat) (x : TwineInt) : (s.setTw l x).auth = s.auth := rfl
@[simp] theorem State.setTw_sessLeft (l : Nat) (x : TwineInt) : (s.setTw l x).sessLeft = s.sessLeft := rfl
@[simp] theorem State.setTw_nv (l : Nat) (x : TwineInt) : (s.setTw l x).nv = s.nv := rfl
@[simp] theorem State.setTw_journal (l : Nat) (x : TwineInt) : (s.setTw l x).journal = s.journal := rfl
@[simp] theorem State.setTw_marline (l : Nat) (x : TwineInt) : (s.setTw l x).marline = s.marline := rfl
@[simp] theorem State.setTw_boot (l : Nat) (x : TwineInt) : (s.setTw l x).boot = s.boot := rfl
@[simp] theorem State.setTw_mem (l : Nat) (x : TwineInt) : (s.setTw l x).mem = s.mem := rfl
@[simp] theorem State.setTw_whip (l : Nat) (x : TwineInt) : (s.setTw l x).whip = s.whip := rfl
@[simp] theorem State.setTw_strand (l : Nat) (x : TwineInt) : (s.setTw l x).strand = s.strand := rfl
@[simp] theorem State.setTw_braid (l : Nat) (x : TwineInt) : (s.setTw l x).braid = s.braid := rfl
@[simp] theorem State.setTw_splice (l : Nat) (x : TwineInt) : (s.setTw l x).splice = s.splice := rfl
@[simp] theorem State.setTw_halyard (l : Nat) (x : TwineInt) : (s.setTw l x).halyard = s.halyard := rfl
@[simp] theorem State.setTw_bight (l : Nat) (x : TwineInt) : (s.setTw l x).bight = s.bight := rfl
@[simp] theorem State.setTw_cleat (l : Nat) (x : TwineInt) : (s.setTw l x).cleat = s.cleat := rfl
@[simp] theorem State.setTw_twine (l : Nat) (x : TwineInt) : (s.setTw l x).twine = s.twine.put {} l x := rfl
@[simp] theorem State.setTw_clients (l : Nat) (x : TwineInt) : (s.setTw l x).clients = s.clients := rfl
@[simp] theorem State.setTw_leafFail (l : Nat) (x : TwineInt) : (s.setTw l x).leafFail = s.leafFail := rfl
@[simp] theorem State.setTw_groups (l : Nat) (x : TwineInt) : (s.setTw l x).groups = s.groups := rfl
@[simp] theorem State.setTw_kcs (l : Nat) (x : TwineInt) : (s.setTw l x).kcs = s.kcs := rfl
@[simp] theorem State.setTw_keks (l : Nat) (x : TwineInt) : (s.setTw l x).keks = s.keks := rfl
@[simp] theorem State.setTw_hitch (l : Nat) (x : TwineInt) : (s.setTw l x).hitch = s.hitch := rfl
@[simp] theorem State.setTw_lanyard (l : Nat) (x : TwineInt) : (s.setTw l x).lanyard = s.lanyard := rfl
@[simp] theorem State.setTw_belay (l : Nat) (x : TwineInt) : (s.setTw l x).belay = s.belay := rfl
@[simp] theorem State.setTw_age (l : Nat) (x : TwineInt) : (s.setTw l x).age = s.age := rfl
@[simp] theorem State.setTw_tally (l : Nat) (x : TwineInt) : (s.setTw l x).tally = s.tally := rfl
@[simp] theorem State.setTw_fathom (l : Nat) (x : TwineInt) : (s.setTw l x).fathom = s.fathom := rfl
@[simp] theorem State.setTw_drawn (l : Nat) (x : TwineInt) : (s.setTw l x).drawn = s.drawn := rfl
@[simp] theorem State.setTw_out (l : Nat) (x : TwineInt) : (s.setTw l x).out = s.out := rfl
@[simp] theorem State.setTw_discards (l : Nat) (x : TwineInt) : (s.setTw l x).discards = s.discards := rfl
@[simp] theorem State.setTw_pending (l : Nat) (x : TwineInt) : (s.setTw l x).pending = s.pending := rfl

@[simp] theorem State.setCli_regs (c : Nat) (x : ClientInt) : (s.setCli c x).regs = s.regs := rfl
@[simp] theorem State.setCli_shadow (c : Nat) (x : ClientInt) : (s.setCli c x).shadow = s.shadow := rfl
@[simp] theorem State.setCli_latches (c : Nat) (x : ClientInt) : (s.setCli c x).latches = s.latches := rfl
@[simp] theorem State.setCli_tod (c : Nat) (x : ClientInt) : (s.setCli c x).tod = s.tod := rfl
@[simp] theorem State.setCli_pins (c : Nat) (x : ClientInt) : (s.setCli c x).pins = s.pins := rfl
@[simp] theorem State.setCli_rings (c : Nat) (x : ClientInt) : (s.setCli c x).rings = s.rings := rfl
@[simp] theorem State.setCli_inflight (c : Nat) (x : ClientInt) : (s.setCli c x).inflight = s.inflight := rfl
@[simp] theorem State.setCli_nextCmd (c : Nat) (x : ClientInt) : (s.setCli c x).nextCmd = s.nextCmd := rfl
@[simp] theorem State.setCli_vecs (c : Nat) (x : ClientInt) : (s.setCli c x).vecs = s.vecs := rfl
@[simp] theorem State.setCli_auth (c : Nat) (x : ClientInt) : (s.setCli c x).auth = s.auth := rfl
@[simp] theorem State.setCli_sessLeft (c : Nat) (x : ClientInt) : (s.setCli c x).sessLeft = s.sessLeft := rfl
@[simp] theorem State.setCli_nv (c : Nat) (x : ClientInt) : (s.setCli c x).nv = s.nv := rfl
@[simp] theorem State.setCli_journal (c : Nat) (x : ClientInt) : (s.setCli c x).journal = s.journal := rfl
@[simp] theorem State.setCli_marline (c : Nat) (x : ClientInt) : (s.setCli c x).marline = s.marline := rfl
@[simp] theorem State.setCli_boot (c : Nat) (x : ClientInt) : (s.setCli c x).boot = s.boot := rfl
@[simp] theorem State.setCli_mem (c : Nat) (x : ClientInt) : (s.setCli c x).mem = s.mem := rfl
@[simp] theorem State.setCli_whip (c : Nat) (x : ClientInt) : (s.setCli c x).whip = s.whip := rfl
@[simp] theorem State.setCli_strand (c : Nat) (x : ClientInt) : (s.setCli c x).strand = s.strand := rfl
@[simp] theorem State.setCli_braid (c : Nat) (x : ClientInt) : (s.setCli c x).braid = s.braid := rfl
@[simp] theorem State.setCli_splice (c : Nat) (x : ClientInt) : (s.setCli c x).splice = s.splice := rfl
@[simp] theorem State.setCli_halyard (c : Nat) (x : ClientInt) : (s.setCli c x).halyard = s.halyard := rfl
@[simp] theorem State.setCli_bight (c : Nat) (x : ClientInt) : (s.setCli c x).bight = s.bight := rfl
@[simp] theorem State.setCli_cleat (c : Nat) (x : ClientInt) : (s.setCli c x).cleat = s.cleat := rfl
@[simp] theorem State.setCli_twine (c : Nat) (x : ClientInt) : (s.setCli c x).twine = s.twine := rfl
@[simp] theorem State.setCli_clients (c : Nat) (x : ClientInt) : (s.setCli c x).clients = s.clients.put {} c x := rfl
@[simp] theorem State.setCli_leafFail (c : Nat) (x : ClientInt) : (s.setCli c x).leafFail = s.leafFail := rfl
@[simp] theorem State.setCli_groups (c : Nat) (x : ClientInt) : (s.setCli c x).groups = s.groups := rfl
@[simp] theorem State.setCli_kcs (c : Nat) (x : ClientInt) : (s.setCli c x).kcs = s.kcs := rfl
@[simp] theorem State.setCli_keks (c : Nat) (x : ClientInt) : (s.setCli c x).keks = s.keks := rfl
@[simp] theorem State.setCli_hitch (c : Nat) (x : ClientInt) : (s.setCli c x).hitch = s.hitch := rfl
@[simp] theorem State.setCli_lanyard (c : Nat) (x : ClientInt) : (s.setCli c x).lanyard = s.lanyard := rfl
@[simp] theorem State.setCli_belay (c : Nat) (x : ClientInt) : (s.setCli c x).belay = s.belay := rfl
@[simp] theorem State.setCli_age (c : Nat) (x : ClientInt) : (s.setCli c x).age = s.age := rfl
@[simp] theorem State.setCli_tally (c : Nat) (x : ClientInt) : (s.setCli c x).tally = s.tally := rfl
@[simp] theorem State.setCli_fathom (c : Nat) (x : ClientInt) : (s.setCli c x).fathom = s.fathom := rfl
@[simp] theorem State.setCli_drawn (c : Nat) (x : ClientInt) : (s.setCli c x).drawn = s.drawn := rfl
@[simp] theorem State.setCli_out (c : Nat) (x : ClientInt) : (s.setCli c x).out = s.out := rfl
@[simp] theorem State.setCli_discards (c : Nat) (x : ClientInt) : (s.setCli c x).discards = s.discards := rfl
@[simp] theorem State.setCli_pending (c : Nat) (x : ClientInt) : (s.setCli c x).pending = s.pending := rfl

@[simp] theorem State.setGrp_regs (g : Nat) (x : GroupInt) : (s.setGrp g x).regs = s.regs := rfl
@[simp] theorem State.setGrp_shadow (g : Nat) (x : GroupInt) : (s.setGrp g x).shadow = s.shadow := rfl
@[simp] theorem State.setGrp_latches (g : Nat) (x : GroupInt) : (s.setGrp g x).latches = s.latches := rfl
@[simp] theorem State.setGrp_tod (g : Nat) (x : GroupInt) : (s.setGrp g x).tod = s.tod := rfl
@[simp] theorem State.setGrp_pins (g : Nat) (x : GroupInt) : (s.setGrp g x).pins = s.pins := rfl
@[simp] theorem State.setGrp_rings (g : Nat) (x : GroupInt) : (s.setGrp g x).rings = s.rings := rfl
@[simp] theorem State.setGrp_inflight (g : Nat) (x : GroupInt) : (s.setGrp g x).inflight = s.inflight := rfl
@[simp] theorem State.setGrp_nextCmd (g : Nat) (x : GroupInt) : (s.setGrp g x).nextCmd = s.nextCmd := rfl
@[simp] theorem State.setGrp_vecs (g : Nat) (x : GroupInt) : (s.setGrp g x).vecs = s.vecs := rfl
@[simp] theorem State.setGrp_auth (g : Nat) (x : GroupInt) : (s.setGrp g x).auth = s.auth := rfl
@[simp] theorem State.setGrp_sessLeft (g : Nat) (x : GroupInt) : (s.setGrp g x).sessLeft = s.sessLeft := rfl
@[simp] theorem State.setGrp_nv (g : Nat) (x : GroupInt) : (s.setGrp g x).nv = s.nv := rfl
@[simp] theorem State.setGrp_journal (g : Nat) (x : GroupInt) : (s.setGrp g x).journal = s.journal := rfl
@[simp] theorem State.setGrp_marline (g : Nat) (x : GroupInt) : (s.setGrp g x).marline = s.marline := rfl
@[simp] theorem State.setGrp_boot (g : Nat) (x : GroupInt) : (s.setGrp g x).boot = s.boot := rfl
@[simp] theorem State.setGrp_mem (g : Nat) (x : GroupInt) : (s.setGrp g x).mem = s.mem := rfl
@[simp] theorem State.setGrp_whip (g : Nat) (x : GroupInt) : (s.setGrp g x).whip = s.whip := rfl
@[simp] theorem State.setGrp_strand (g : Nat) (x : GroupInt) : (s.setGrp g x).strand = s.strand := rfl
@[simp] theorem State.setGrp_braid (g : Nat) (x : GroupInt) : (s.setGrp g x).braid = s.braid := rfl
@[simp] theorem State.setGrp_splice (g : Nat) (x : GroupInt) : (s.setGrp g x).splice = s.splice := rfl
@[simp] theorem State.setGrp_halyard (g : Nat) (x : GroupInt) : (s.setGrp g x).halyard = s.halyard := rfl
@[simp] theorem State.setGrp_bight (g : Nat) (x : GroupInt) : (s.setGrp g x).bight = s.bight := rfl
@[simp] theorem State.setGrp_cleat (g : Nat) (x : GroupInt) : (s.setGrp g x).cleat = s.cleat := rfl
@[simp] theorem State.setGrp_twine (g : Nat) (x : GroupInt) : (s.setGrp g x).twine = s.twine := rfl
@[simp] theorem State.setGrp_clients (g : Nat) (x : GroupInt) : (s.setGrp g x).clients = s.clients := rfl
@[simp] theorem State.setGrp_leafFail (g : Nat) (x : GroupInt) : (s.setGrp g x).leafFail = s.leafFail := rfl
@[simp] theorem State.setGrp_groups (g : Nat) (x : GroupInt) : (s.setGrp g x).groups = s.groups.put {} g x := rfl
@[simp] theorem State.setGrp_kcs (g : Nat) (x : GroupInt) : (s.setGrp g x).kcs = s.kcs := rfl
@[simp] theorem State.setGrp_keks (g : Nat) (x : GroupInt) : (s.setGrp g x).keks = s.keks := rfl
@[simp] theorem State.setGrp_hitch (g : Nat) (x : GroupInt) : (s.setGrp g x).hitch = s.hitch := rfl
@[simp] theorem State.setGrp_lanyard (g : Nat) (x : GroupInt) : (s.setGrp g x).lanyard = s.lanyard := rfl
@[simp] theorem State.setGrp_belay (g : Nat) (x : GroupInt) : (s.setGrp g x).belay = s.belay := rfl
@[simp] theorem State.setGrp_age (g : Nat) (x : GroupInt) : (s.setGrp g x).age = s.age := rfl
@[simp] theorem State.setGrp_tally (g : Nat) (x : GroupInt) : (s.setGrp g x).tally = s.tally := rfl
@[simp] theorem State.setGrp_fathom (g : Nat) (x : GroupInt) : (s.setGrp g x).fathom = s.fathom := rfl
@[simp] theorem State.setGrp_drawn (g : Nat) (x : GroupInt) : (s.setGrp g x).drawn = s.drawn := rfl
@[simp] theorem State.setGrp_out (g : Nat) (x : GroupInt) : (s.setGrp g x).out = s.out := rfl
@[simp] theorem State.setGrp_discards (g : Nat) (x : GroupInt) : (s.setGrp g x).discards = s.discards := rfl
@[simp] theorem State.setGrp_pending (g : Nat) (x : GroupInt) : (s.setGrp g x).pending = s.pending := rfl

@[simp] theorem State.setKc_regs (k : Nat) (x : KcInt) : (s.setKc k x).regs = s.regs := rfl
@[simp] theorem State.setKc_shadow (k : Nat) (x : KcInt) : (s.setKc k x).shadow = s.shadow := rfl
@[simp] theorem State.setKc_latches (k : Nat) (x : KcInt) : (s.setKc k x).latches = s.latches := rfl
@[simp] theorem State.setKc_tod (k : Nat) (x : KcInt) : (s.setKc k x).tod = s.tod := rfl
@[simp] theorem State.setKc_pins (k : Nat) (x : KcInt) : (s.setKc k x).pins = s.pins := rfl
@[simp] theorem State.setKc_rings (k : Nat) (x : KcInt) : (s.setKc k x).rings = s.rings := rfl
@[simp] theorem State.setKc_inflight (k : Nat) (x : KcInt) : (s.setKc k x).inflight = s.inflight := rfl
@[simp] theorem State.setKc_nextCmd (k : Nat) (x : KcInt) : (s.setKc k x).nextCmd = s.nextCmd := rfl
@[simp] theorem State.setKc_vecs (k : Nat) (x : KcInt) : (s.setKc k x).vecs = s.vecs := rfl
@[simp] theorem State.setKc_auth (k : Nat) (x : KcInt) : (s.setKc k x).auth = s.auth := rfl
@[simp] theorem State.setKc_sessLeft (k : Nat) (x : KcInt) : (s.setKc k x).sessLeft = s.sessLeft := rfl
@[simp] theorem State.setKc_nv (k : Nat) (x : KcInt) : (s.setKc k x).nv = s.nv := rfl
@[simp] theorem State.setKc_journal (k : Nat) (x : KcInt) : (s.setKc k x).journal = s.journal := rfl
@[simp] theorem State.setKc_marline (k : Nat) (x : KcInt) : (s.setKc k x).marline = s.marline := rfl
@[simp] theorem State.setKc_boot (k : Nat) (x : KcInt) : (s.setKc k x).boot = s.boot := rfl
@[simp] theorem State.setKc_mem (k : Nat) (x : KcInt) : (s.setKc k x).mem = s.mem := rfl
@[simp] theorem State.setKc_whip (k : Nat) (x : KcInt) : (s.setKc k x).whip = s.whip := rfl
@[simp] theorem State.setKc_strand (k : Nat) (x : KcInt) : (s.setKc k x).strand = s.strand := rfl
@[simp] theorem State.setKc_braid (k : Nat) (x : KcInt) : (s.setKc k x).braid = s.braid := rfl
@[simp] theorem State.setKc_splice (k : Nat) (x : KcInt) : (s.setKc k x).splice = s.splice := rfl
@[simp] theorem State.setKc_halyard (k : Nat) (x : KcInt) : (s.setKc k x).halyard = s.halyard := rfl
@[simp] theorem State.setKc_bight (k : Nat) (x : KcInt) : (s.setKc k x).bight = s.bight := rfl
@[simp] theorem State.setKc_cleat (k : Nat) (x : KcInt) : (s.setKc k x).cleat = s.cleat := rfl
@[simp] theorem State.setKc_twine (k : Nat) (x : KcInt) : (s.setKc k x).twine = s.twine := rfl
@[simp] theorem State.setKc_clients (k : Nat) (x : KcInt) : (s.setKc k x).clients = s.clients := rfl
@[simp] theorem State.setKc_leafFail (k : Nat) (x : KcInt) : (s.setKc k x).leafFail = s.leafFail := rfl
@[simp] theorem State.setKc_groups (k : Nat) (x : KcInt) : (s.setKc k x).groups = s.groups := rfl
@[simp] theorem State.setKc_kcs (k : Nat) (x : KcInt) : (s.setKc k x).kcs = s.kcs.put {} k x := rfl
@[simp] theorem State.setKc_keks (k : Nat) (x : KcInt) : (s.setKc k x).keks = s.keks := rfl
@[simp] theorem State.setKc_hitch (k : Nat) (x : KcInt) : (s.setKc k x).hitch = s.hitch := rfl
@[simp] theorem State.setKc_lanyard (k : Nat) (x : KcInt) : (s.setKc k x).lanyard = s.lanyard := rfl
@[simp] theorem State.setKc_belay (k : Nat) (x : KcInt) : (s.setKc k x).belay = s.belay := rfl
@[simp] theorem State.setKc_age (k : Nat) (x : KcInt) : (s.setKc k x).age = s.age := rfl
@[simp] theorem State.setKc_tally (k : Nat) (x : KcInt) : (s.setKc k x).tally = s.tally := rfl
@[simp] theorem State.setKc_fathom (k : Nat) (x : KcInt) : (s.setKc k x).fathom = s.fathom := rfl
@[simp] theorem State.setKc_drawn (k : Nat) (x : KcInt) : (s.setKc k x).drawn = s.drawn := rfl
@[simp] theorem State.setKc_out (k : Nat) (x : KcInt) : (s.setKc k x).out = s.out := rfl
@[simp] theorem State.setKc_discards (k : Nat) (x : KcInt) : (s.setKc k x).discards = s.discards := rfl
@[simp] theorem State.setKc_pending (k : Nat) (x : KcInt) : (s.setKc k x).pending = s.pending := rfl

@[simp] theorem State.setHit_regs (n : Nat) (x : HitchInt) : (s.setHit n x).regs = s.regs := rfl
@[simp] theorem State.setHit_shadow (n : Nat) (x : HitchInt) : (s.setHit n x).shadow = s.shadow := rfl
@[simp] theorem State.setHit_latches (n : Nat) (x : HitchInt) : (s.setHit n x).latches = s.latches := rfl
@[simp] theorem State.setHit_tod (n : Nat) (x : HitchInt) : (s.setHit n x).tod = s.tod := rfl
@[simp] theorem State.setHit_pins (n : Nat) (x : HitchInt) : (s.setHit n x).pins = s.pins := rfl
@[simp] theorem State.setHit_rings (n : Nat) (x : HitchInt) : (s.setHit n x).rings = s.rings := rfl
@[simp] theorem State.setHit_inflight (n : Nat) (x : HitchInt) : (s.setHit n x).inflight = s.inflight := rfl
@[simp] theorem State.setHit_nextCmd (n : Nat) (x : HitchInt) : (s.setHit n x).nextCmd = s.nextCmd := rfl
@[simp] theorem State.setHit_vecs (n : Nat) (x : HitchInt) : (s.setHit n x).vecs = s.vecs := rfl
@[simp] theorem State.setHit_auth (n : Nat) (x : HitchInt) : (s.setHit n x).auth = s.auth := rfl
@[simp] theorem State.setHit_sessLeft (n : Nat) (x : HitchInt) : (s.setHit n x).sessLeft = s.sessLeft := rfl
@[simp] theorem State.setHit_nv (n : Nat) (x : HitchInt) : (s.setHit n x).nv = s.nv := rfl
@[simp] theorem State.setHit_journal (n : Nat) (x : HitchInt) : (s.setHit n x).journal = s.journal := rfl
@[simp] theorem State.setHit_marline (n : Nat) (x : HitchInt) : (s.setHit n x).marline = s.marline := rfl
@[simp] theorem State.setHit_boot (n : Nat) (x : HitchInt) : (s.setHit n x).boot = s.boot := rfl
@[simp] theorem State.setHit_mem (n : Nat) (x : HitchInt) : (s.setHit n x).mem = s.mem := rfl
@[simp] theorem State.setHit_whip (n : Nat) (x : HitchInt) : (s.setHit n x).whip = s.whip := rfl
@[simp] theorem State.setHit_strand (n : Nat) (x : HitchInt) : (s.setHit n x).strand = s.strand := rfl
@[simp] theorem State.setHit_braid (n : Nat) (x : HitchInt) : (s.setHit n x).braid = s.braid := rfl
@[simp] theorem State.setHit_splice (n : Nat) (x : HitchInt) : (s.setHit n x).splice = s.splice := rfl
@[simp] theorem State.setHit_halyard (n : Nat) (x : HitchInt) : (s.setHit n x).halyard = s.halyard := rfl
@[simp] theorem State.setHit_bight (n : Nat) (x : HitchInt) : (s.setHit n x).bight = s.bight := rfl
@[simp] theorem State.setHit_cleat (n : Nat) (x : HitchInt) : (s.setHit n x).cleat = s.cleat := rfl
@[simp] theorem State.setHit_twine (n : Nat) (x : HitchInt) : (s.setHit n x).twine = s.twine := rfl
@[simp] theorem State.setHit_clients (n : Nat) (x : HitchInt) : (s.setHit n x).clients = s.clients := rfl
@[simp] theorem State.setHit_leafFail (n : Nat) (x : HitchInt) : (s.setHit n x).leafFail = s.leafFail := rfl
@[simp] theorem State.setHit_groups (n : Nat) (x : HitchInt) : (s.setHit n x).groups = s.groups := rfl
@[simp] theorem State.setHit_kcs (n : Nat) (x : HitchInt) : (s.setHit n x).kcs = s.kcs := rfl
@[simp] theorem State.setHit_keks (n : Nat) (x : HitchInt) : (s.setHit n x).keks = s.keks := rfl
@[simp] theorem State.setHit_hitch (n : Nat) (x : HitchInt) : (s.setHit n x).hitch = s.hitch.put {} n x := rfl
@[simp] theorem State.setHit_lanyard (n : Nat) (x : HitchInt) : (s.setHit n x).lanyard = s.lanyard := rfl
@[simp] theorem State.setHit_belay (n : Nat) (x : HitchInt) : (s.setHit n x).belay = s.belay := rfl
@[simp] theorem State.setHit_age (n : Nat) (x : HitchInt) : (s.setHit n x).age = s.age := rfl
@[simp] theorem State.setHit_tally (n : Nat) (x : HitchInt) : (s.setHit n x).tally = s.tally := rfl
@[simp] theorem State.setHit_fathom (n : Nat) (x : HitchInt) : (s.setHit n x).fathom = s.fathom := rfl
@[simp] theorem State.setHit_drawn (n : Nat) (x : HitchInt) : (s.setHit n x).drawn = s.drawn := rfl
@[simp] theorem State.setHit_out (n : Nat) (x : HitchInt) : (s.setHit n x).out = s.out := rfl
@[simp] theorem State.setHit_discards (n : Nat) (x : HitchInt) : (s.setHit n x).discards = s.discards := rfl
@[simp] theorem State.setHit_pending (n : Nat) (x : HitchInt) : (s.setHit n x).pending = s.pending := rfl

@[simp] theorem State.setHalRef_regs (r : Nat) (x : HalRef) : (s.setHalRef r x).regs = s.regs := rfl
@[simp] theorem State.setHalRef_shadow (r : Nat) (x : HalRef) : (s.setHalRef r x).shadow = s.shadow := rfl
@[simp] theorem State.setHalRef_latches (r : Nat) (x : HalRef) : (s.setHalRef r x).latches = s.latches := rfl
@[simp] theorem State.setHalRef_tod (r : Nat) (x : HalRef) : (s.setHalRef r x).tod = s.tod := rfl
@[simp] theorem State.setHalRef_pins (r : Nat) (x : HalRef) : (s.setHalRef r x).pins = s.pins := rfl
@[simp] theorem State.setHalRef_rings (r : Nat) (x : HalRef) : (s.setHalRef r x).rings = s.rings := rfl
@[simp] theorem State.setHalRef_inflight (r : Nat) (x : HalRef) : (s.setHalRef r x).inflight = s.inflight := rfl
@[simp] theorem State.setHalRef_nextCmd (r : Nat) (x : HalRef) : (s.setHalRef r x).nextCmd = s.nextCmd := rfl
@[simp] theorem State.setHalRef_vecs (r : Nat) (x : HalRef) : (s.setHalRef r x).vecs = s.vecs := rfl
@[simp] theorem State.setHalRef_auth (r : Nat) (x : HalRef) : (s.setHalRef r x).auth = s.auth := rfl
@[simp] theorem State.setHalRef_sessLeft (r : Nat) (x : HalRef) : (s.setHalRef r x).sessLeft = s.sessLeft := rfl
@[simp] theorem State.setHalRef_nv (r : Nat) (x : HalRef) : (s.setHalRef r x).nv = s.nv := rfl
@[simp] theorem State.setHalRef_journal (r : Nat) (x : HalRef) : (s.setHalRef r x).journal = s.journal := rfl
@[simp] theorem State.setHalRef_marline (r : Nat) (x : HalRef) : (s.setHalRef r x).marline = s.marline := rfl
@[simp] theorem State.setHalRef_boot (r : Nat) (x : HalRef) : (s.setHalRef r x).boot = s.boot := rfl
@[simp] theorem State.setHalRef_mem (r : Nat) (x : HalRef) : (s.setHalRef r x).mem = s.mem := rfl
@[simp] theorem State.setHalRef_whip (r : Nat) (x : HalRef) : (s.setHalRef r x).whip = s.whip := rfl
@[simp] theorem State.setHalRef_strand (r : Nat) (x : HalRef) : (s.setHalRef r x).strand = s.strand := rfl
@[simp] theorem State.setHalRef_braid (r : Nat) (x : HalRef) : (s.setHalRef r x).braid = s.braid := rfl
@[simp] theorem State.setHalRef_splice (r : Nat) (x : HalRef) : (s.setHalRef r x).splice = s.splice := rfl
@[simp] theorem State.setHalRef_halyard (r : Nat) (x : HalRef) :
    (s.setHalRef r x).halyard = { s.halyard with refs := s.halyard.refs.put {} r x } := rfl
@[simp] theorem State.setHalRef_bight (r : Nat) (x : HalRef) : (s.setHalRef r x).bight = s.bight := rfl
@[simp] theorem State.setHalRef_cleat (r : Nat) (x : HalRef) : (s.setHalRef r x).cleat = s.cleat := rfl
@[simp] theorem State.setHalRef_twine (r : Nat) (x : HalRef) : (s.setHalRef r x).twine = s.twine := rfl
@[simp] theorem State.setHalRef_clients (r : Nat) (x : HalRef) : (s.setHalRef r x).clients = s.clients := rfl
@[simp] theorem State.setHalRef_leafFail (r : Nat) (x : HalRef) : (s.setHalRef r x).leafFail = s.leafFail := rfl
@[simp] theorem State.setHalRef_groups (r : Nat) (x : HalRef) : (s.setHalRef r x).groups = s.groups := rfl
@[simp] theorem State.setHalRef_kcs (r : Nat) (x : HalRef) : (s.setHalRef r x).kcs = s.kcs := rfl
@[simp] theorem State.setHalRef_keks (r : Nat) (x : HalRef) : (s.setHalRef r x).keks = s.keks := rfl
@[simp] theorem State.setHalRef_hitch (r : Nat) (x : HalRef) : (s.setHalRef r x).hitch = s.hitch := rfl
@[simp] theorem State.setHalRef_lanyard (r : Nat) (x : HalRef) : (s.setHalRef r x).lanyard = s.lanyard := rfl
@[simp] theorem State.setHalRef_belay (r : Nat) (x : HalRef) : (s.setHalRef r x).belay = s.belay := rfl
@[simp] theorem State.setHalRef_age (r : Nat) (x : HalRef) : (s.setHalRef r x).age = s.age := rfl
@[simp] theorem State.setHalRef_tally (r : Nat) (x : HalRef) : (s.setHalRef r x).tally = s.tally := rfl
@[simp] theorem State.setHalRef_fathom (r : Nat) (x : HalRef) : (s.setHalRef r x).fathom = s.fathom := rfl
@[simp] theorem State.setHalRef_drawn (r : Nat) (x : HalRef) : (s.setHalRef r x).drawn = s.drawn := rfl
@[simp] theorem State.setHalRef_out (r : Nat) (x : HalRef) : (s.setHalRef r x).out = s.out := rfl
@[simp] theorem State.setHalRef_discards (r : Nat) (x : HalRef) : (s.setHalRef r x).discards = s.discards := rfl
@[simp] theorem State.setHalRef_pending (r : Nat) (x : HalRef) : (s.setHalRef r x).pending = s.pending := rfl

@[simp] theorem State.setLny_regs (x : LanyardInt) : (s.setLny x).regs = s.regs := rfl
@[simp] theorem State.setLny_shadow (x : LanyardInt) : (s.setLny x).shadow = s.shadow := rfl
@[simp] theorem State.setLny_latches (x : LanyardInt) : (s.setLny x).latches = s.latches := rfl
@[simp] theorem State.setLny_tod (x : LanyardInt) : (s.setLny x).tod = s.tod := rfl
@[simp] theorem State.setLny_pins (x : LanyardInt) : (s.setLny x).pins = s.pins := rfl
@[simp] theorem State.setLny_rings (x : LanyardInt) : (s.setLny x).rings = s.rings := rfl
@[simp] theorem State.setLny_inflight (x : LanyardInt) : (s.setLny x).inflight = s.inflight := rfl
@[simp] theorem State.setLny_nextCmd (x : LanyardInt) : (s.setLny x).nextCmd = s.nextCmd := rfl
@[simp] theorem State.setLny_vecs (x : LanyardInt) : (s.setLny x).vecs = s.vecs := rfl
@[simp] theorem State.setLny_auth (x : LanyardInt) : (s.setLny x).auth = s.auth := rfl
@[simp] theorem State.setLny_sessLeft (x : LanyardInt) : (s.setLny x).sessLeft = s.sessLeft := rfl
@[simp] theorem State.setLny_nv (x : LanyardInt) : (s.setLny x).nv = s.nv := rfl
@[simp] theorem State.setLny_journal (x : LanyardInt) : (s.setLny x).journal = s.journal := rfl
@[simp] theorem State.setLny_marline (x : LanyardInt) : (s.setLny x).marline = s.marline := rfl
@[simp] theorem State.setLny_boot (x : LanyardInt) : (s.setLny x).boot = s.boot := rfl
@[simp] theorem State.setLny_mem (x : LanyardInt) : (s.setLny x).mem = s.mem := rfl
@[simp] theorem State.setLny_whip (x : LanyardInt) : (s.setLny x).whip = s.whip := rfl
@[simp] theorem State.setLny_strand (x : LanyardInt) : (s.setLny x).strand = s.strand := rfl
@[simp] theorem State.setLny_braid (x : LanyardInt) : (s.setLny x).braid = s.braid := rfl
@[simp] theorem State.setLny_splice (x : LanyardInt) : (s.setLny x).splice = s.splice := rfl
@[simp] theorem State.setLny_halyard (x : LanyardInt) : (s.setLny x).halyard = s.halyard := rfl
@[simp] theorem State.setLny_bight (x : LanyardInt) : (s.setLny x).bight = s.bight := rfl
@[simp] theorem State.setLny_cleat (x : LanyardInt) : (s.setLny x).cleat = s.cleat := rfl
@[simp] theorem State.setLny_twine (x : LanyardInt) : (s.setLny x).twine = s.twine := rfl
@[simp] theorem State.setLny_clients (x : LanyardInt) : (s.setLny x).clients = s.clients := rfl
@[simp] theorem State.setLny_leafFail (x : LanyardInt) : (s.setLny x).leafFail = s.leafFail := rfl
@[simp] theorem State.setLny_groups (x : LanyardInt) : (s.setLny x).groups = s.groups := rfl
@[simp] theorem State.setLny_kcs (x : LanyardInt) : (s.setLny x).kcs = s.kcs := rfl
@[simp] theorem State.setLny_keks (x : LanyardInt) : (s.setLny x).keks = s.keks := rfl
@[simp] theorem State.setLny_hitch (x : LanyardInt) : (s.setLny x).hitch = s.hitch := rfl
@[simp] theorem State.setLny_lanyard (x : LanyardInt) : (s.setLny x).lanyard = x := rfl
@[simp] theorem State.setLny_belay (x : LanyardInt) : (s.setLny x).belay = s.belay := rfl
@[simp] theorem State.setLny_age (x : LanyardInt) : (s.setLny x).age = s.age := rfl
@[simp] theorem State.setLny_tally (x : LanyardInt) : (s.setLny x).tally = s.tally := rfl
@[simp] theorem State.setLny_fathom (x : LanyardInt) : (s.setLny x).fathom = s.fathom := rfl
@[simp] theorem State.setLny_drawn (x : LanyardInt) : (s.setLny x).drawn = s.drawn := rfl
@[simp] theorem State.setLny_out (x : LanyardInt) : (s.setLny x).out = s.out := rfl
@[simp] theorem State.setLny_discards (x : LanyardInt) : (s.setLny x).discards = s.discards := rfl
@[simp] theorem State.setLny_pending (x : LanyardInt) : (s.setLny x).pending = s.pending := rfl

@[simp] theorem State.setTly_regs (x : TallyInt) : (s.setTly x).regs = s.regs := rfl
@[simp] theorem State.setTly_shadow (x : TallyInt) : (s.setTly x).shadow = s.shadow := rfl
@[simp] theorem State.setTly_latches (x : TallyInt) : (s.setTly x).latches = s.latches := rfl
@[simp] theorem State.setTly_tod (x : TallyInt) : (s.setTly x).tod = s.tod := rfl
@[simp] theorem State.setTly_pins (x : TallyInt) : (s.setTly x).pins = s.pins := rfl
@[simp] theorem State.setTly_rings (x : TallyInt) : (s.setTly x).rings = s.rings := rfl
@[simp] theorem State.setTly_inflight (x : TallyInt) : (s.setTly x).inflight = s.inflight := rfl
@[simp] theorem State.setTly_nextCmd (x : TallyInt) : (s.setTly x).nextCmd = s.nextCmd := rfl
@[simp] theorem State.setTly_vecs (x : TallyInt) : (s.setTly x).vecs = s.vecs := rfl
@[simp] theorem State.setTly_auth (x : TallyInt) : (s.setTly x).auth = s.auth := rfl
@[simp] theorem State.setTly_sessLeft (x : TallyInt) : (s.setTly x).sessLeft = s.sessLeft := rfl
@[simp] theorem State.setTly_nv (x : TallyInt) : (s.setTly x).nv = s.nv := rfl
@[simp] theorem State.setTly_journal (x : TallyInt) : (s.setTly x).journal = s.journal := rfl
@[simp] theorem State.setTly_marline (x : TallyInt) : (s.setTly x).marline = s.marline := rfl
@[simp] theorem State.setTly_boot (x : TallyInt) : (s.setTly x).boot = s.boot := rfl
@[simp] theorem State.setTly_mem (x : TallyInt) : (s.setTly x).mem = s.mem := rfl
@[simp] theorem State.setTly_whip (x : TallyInt) : (s.setTly x).whip = s.whip := rfl
@[simp] theorem State.setTly_strand (x : TallyInt) : (s.setTly x).strand = s.strand := rfl
@[simp] theorem State.setTly_braid (x : TallyInt) : (s.setTly x).braid = s.braid := rfl
@[simp] theorem State.setTly_splice (x : TallyInt) : (s.setTly x).splice = s.splice := rfl
@[simp] theorem State.setTly_halyard (x : TallyInt) : (s.setTly x).halyard = s.halyard := rfl
@[simp] theorem State.setTly_bight (x : TallyInt) : (s.setTly x).bight = s.bight := rfl
@[simp] theorem State.setTly_cleat (x : TallyInt) : (s.setTly x).cleat = s.cleat := rfl
@[simp] theorem State.setTly_twine (x : TallyInt) : (s.setTly x).twine = s.twine := rfl
@[simp] theorem State.setTly_clients (x : TallyInt) : (s.setTly x).clients = s.clients := rfl
@[simp] theorem State.setTly_leafFail (x : TallyInt) : (s.setTly x).leafFail = s.leafFail := rfl
@[simp] theorem State.setTly_groups (x : TallyInt) : (s.setTly x).groups = s.groups := rfl
@[simp] theorem State.setTly_kcs (x : TallyInt) : (s.setTly x).kcs = s.kcs := rfl
@[simp] theorem State.setTly_keks (x : TallyInt) : (s.setTly x).keks = s.keks := rfl
@[simp] theorem State.setTly_hitch (x : TallyInt) : (s.setTly x).hitch = s.hitch := rfl
@[simp] theorem State.setTly_lanyard (x : TallyInt) : (s.setTly x).lanyard = s.lanyard := rfl
@[simp] theorem State.setTly_belay (x : TallyInt) : (s.setTly x).belay = s.belay := rfl
@[simp] theorem State.setTly_age (x : TallyInt) : (s.setTly x).age = s.age := rfl
@[simp] theorem State.setTly_tally (x : TallyInt) : (s.setTly x).tally = x := rfl
@[simp] theorem State.setTly_fathom (x : TallyInt) : (s.setTly x).fathom = s.fathom := rfl
@[simp] theorem State.setTly_drawn (x : TallyInt) : (s.setTly x).drawn = s.drawn := rfl
@[simp] theorem State.setTly_out (x : TallyInt) : (s.setTly x).out = s.out := rfl
@[simp] theorem State.setTly_discards (x : TallyInt) : (s.setTly x).discards = s.discards := rfl
@[simp] theorem State.setTly_pending (x : TallyInt) : (s.setTly x).pending = s.pending := rfl

@[simp] theorem State.setFth_regs (x : FathomInt) : (s.setFth x).regs = s.regs := rfl
@[simp] theorem State.setFth_shadow (x : FathomInt) : (s.setFth x).shadow = s.shadow := rfl
@[simp] theorem State.setFth_latches (x : FathomInt) : (s.setFth x).latches = s.latches := rfl
@[simp] theorem State.setFth_tod (x : FathomInt) : (s.setFth x).tod = s.tod := rfl
@[simp] theorem State.setFth_pins (x : FathomInt) : (s.setFth x).pins = s.pins := rfl
@[simp] theorem State.setFth_rings (x : FathomInt) : (s.setFth x).rings = s.rings := rfl
@[simp] theorem State.setFth_inflight (x : FathomInt) : (s.setFth x).inflight = s.inflight := rfl
@[simp] theorem State.setFth_nextCmd (x : FathomInt) : (s.setFth x).nextCmd = s.nextCmd := rfl
@[simp] theorem State.setFth_vecs (x : FathomInt) : (s.setFth x).vecs = s.vecs := rfl
@[simp] theorem State.setFth_auth (x : FathomInt) : (s.setFth x).auth = s.auth := rfl
@[simp] theorem State.setFth_sessLeft (x : FathomInt) : (s.setFth x).sessLeft = s.sessLeft := rfl
@[simp] theorem State.setFth_nv (x : FathomInt) : (s.setFth x).nv = s.nv := rfl
@[simp] theorem State.setFth_journal (x : FathomInt) : (s.setFth x).journal = s.journal := rfl
@[simp] theorem State.setFth_marline (x : FathomInt) : (s.setFth x).marline = s.marline := rfl
@[simp] theorem State.setFth_boot (x : FathomInt) : (s.setFth x).boot = s.boot := rfl
@[simp] theorem State.setFth_mem (x : FathomInt) : (s.setFth x).mem = s.mem := rfl
@[simp] theorem State.setFth_whip (x : FathomInt) : (s.setFth x).whip = s.whip := rfl
@[simp] theorem State.setFth_strand (x : FathomInt) : (s.setFth x).strand = s.strand := rfl
@[simp] theorem State.setFth_braid (x : FathomInt) : (s.setFth x).braid = s.braid := rfl
@[simp] theorem State.setFth_splice (x : FathomInt) : (s.setFth x).splice = s.splice := rfl
@[simp] theorem State.setFth_halyard (x : FathomInt) : (s.setFth x).halyard = s.halyard := rfl
@[simp] theorem State.setFth_bight (x : FathomInt) : (s.setFth x).bight = s.bight := rfl
@[simp] theorem State.setFth_cleat (x : FathomInt) : (s.setFth x).cleat = s.cleat := rfl
@[simp] theorem State.setFth_twine (x : FathomInt) : (s.setFth x).twine = s.twine := rfl
@[simp] theorem State.setFth_clients (x : FathomInt) : (s.setFth x).clients = s.clients := rfl
@[simp] theorem State.setFth_leafFail (x : FathomInt) : (s.setFth x).leafFail = s.leafFail := rfl
@[simp] theorem State.setFth_groups (x : FathomInt) : (s.setFth x).groups = s.groups := rfl
@[simp] theorem State.setFth_kcs (x : FathomInt) : (s.setFth x).kcs = s.kcs := rfl
@[simp] theorem State.setFth_keks (x : FathomInt) : (s.setFth x).keks = s.keks := rfl
@[simp] theorem State.setFth_hitch (x : FathomInt) : (s.setFth x).hitch = s.hitch := rfl
@[simp] theorem State.setFth_lanyard (x : FathomInt) : (s.setFth x).lanyard = s.lanyard := rfl
@[simp] theorem State.setFth_belay (x : FathomInt) : (s.setFth x).belay = s.belay := rfl
@[simp] theorem State.setFth_age (x : FathomInt) : (s.setFth x).age = s.age := rfl
@[simp] theorem State.setFth_tally (x : FathomInt) : (s.setFth x).tally = s.tally := rfl
@[simp] theorem State.setFth_fathom (x : FathomInt) : (s.setFth x).fathom = x := rfl
@[simp] theorem State.setFth_drawn (x : FathomInt) : (s.setFth x).drawn = s.drawn := rfl
@[simp] theorem State.setFth_out (x : FathomInt) : (s.setFth x).out = s.out := rfl
@[simp] theorem State.setFth_discards (x : FathomInt) : (s.setFth x).discards = s.discards := rfl
@[simp] theorem State.setFth_pending (x : FathomInt) : (s.setFth x).pending = s.pending := rfl

end Sys2Proof.Machine
end

