-- ==== Sys2Proof/Laws/Ops.lean ====
section
/-! SUPPORT. What a register or a field reads as after each named operation of Machine/Ops.lean, what an event leaves unchanged, and when
the command of a block takes effect. -/

-- The proofs of the whole text do not run side by side: their memory adds up.
set_option Elab.async false

namespace Sys2Proof.Machine

open Sys2Proof

variable (s : State)

/-! ### Which indices a register has -/

theorem regValid_none (id : RegId) (h : (regSpec id).dims = []) : regValid ⟨id, 0, 0, 0⟩ = true := by
  unfold regValid; rw [h]; rfl

theorem regValid_one (id : RegId) (n a i : Nat) (h : (regSpec id).dims = [(n, a)]) (hi : i < n) : regValid ⟨id, i, 0, 0⟩ = true := by
  unfold regValid; rw [h]; simpa using hi

theorem regValid_two (id : RegId) (n a m b i j : Nat) (h : (regSpec id).dims = [(n, a), (m, b)]) (hi : i < n) (hj : j < m) :
    regValid ⟨id, i, j, 0⟩ = true := by
  unfold regValid; rw [h]; simpa using ⟨hi, hj⟩

theorem regValid_three (id : RegId) (n a m b p c i j k : Nat) (h : (regSpec id).dims = [(n, a), (m, b), (p, c)]) (hi : i < n)
    (hj : j < m) (hk : k < p) : regValid ⟨id, i, j, k⟩ = true := by
  unfold regValid; rw [h]; simpa using ⟨⟨hi, hj⟩, hk⟩

/-! ### After a write -/

theorem State.reg_setReg_same (id : RegId) (v i j k : Nat) (h : regValid ⟨id, i, j, k⟩ = true) :
    (s.setReg id v i j k).reg id i j k = v % 2 ^ (regSpec id).width :=
  RegStore.get_put_same s.regs ⟨id, i, j, k⟩ v h

theorem State.reg_setReg_other (id q : RegId) (v i j k a b c : Nat) (h : ¬(q = id ∧ a = i ∧ b = j ∧ c = k)) :
    (s.setReg id v i j k).reg q a b c = s.reg q a b c :=
  RegStore.get_put_other s.regs ⟨id, i, j, k⟩ ⟨q, a, b, c⟩ v (by simpa using h)

theorem State.reg_wr_other (f : Fld) (q : RegId) (v i j k a b c : Nat) (h : ¬(q = f.id ∧ a = i ∧ b = j ∧ c = k)) :
    (s.wr f v i j k).reg q a b c = s.reg q a b c := s.reg_setReg_other f.id q _ i j k a b c h

theorem State.get_wr_other (f : Fld) (r : RegKey) (v i j k : Nat) (h : r ≠ ⟨f.id, i, j, k⟩) :
    (s.wr f v i j k).regs.get r = s.regs.get r := RegStore.get_put_other s.regs _ r _ h

theorem State.rd_wr_other (f g : Fld) (v i j k a b c : Nat) (h : ¬(g.id = f.id ∧ a = i ∧ b = j ∧ c = k)) :
    (s.wr f v i j k).rd g a b c = s.rd g a b c := by
  unfold State.rd; rw [State.reg_wr_other s f g.id v i j k a b c h]

/-- A field written reads as the value, cut to its width. -/
theorem State.rd_wr_same (f : Fld) (v i j k : Nat) (h : regValid ⟨f.id, i, j, k⟩ = true) (hf : f.lo ≤ f.hi)
    (hw : f.hi < (regSpec f.id).width) : (s.wr f v i j k).rd f i j k = v % 2 ^ f.width := by
  unfold State.rd State.wr
  rw [State.reg_setReg_same s f.id _ i j k h, bits_mod _ _ _ _ hf hw]
  exact bits_setBits_same _ _ _ _ hf

/-- A saturating count reads as the sum, or its field's end. -/
theorem State.rd_inc_same (f : Fld) (d i j k : Nat) (h : regValid ⟨f.id, i, j, k⟩ = true) (hf : f.lo ≤ f.hi)
    (hw : f.hi < (regSpec f.id).width) : (s.inc f d i j k).rd f i j k = min (s.rd f i j k + d) (2 ^ f.width - 1) := by
  unfold State.inc
  rw [State.rd_wr_same s f _ i j k h hf hw]
  unfold satAdd
  exact Nat.mod_eq_of_lt (lt_of_le_of_lt (Nat.min_le_right _ _) (Nat.sub_lt (by positivity) one_pos))

theorem State.rd_inc_other (f g : Fld) (d i j k a b c : Nat) (h : ¬(g.id = f.id ∧ a = i ∧ b = j ∧ c = k)) :
    (s.inc f d i j k).rd g a b c = s.rd g a b c := s.rd_wr_other f g _ i j k a b c h

/-- The other fields of a register written keep their values. -/
theorem State.rd_wr_field (f g : Fld) (v i j k : Nat) (h : regValid ⟨f.id, i, j, k⟩ = true) (hi : g.id = f.id) (hf : f.lo ≤ f.hi)
    (hg : g.lo ≤ g.hi) (hw : g.hi < (regSpec f.id).width) (hd : g.hi < f.lo ∨ f.hi < g.lo) :
    (s.wr f v i j k).rd g i j k = s.rd g i j k := by
  unfold State.rd State.wr
  rw [hi, State.reg_setReg_same s f.id _ i j k h, bits_mod _ _ _ _ hg hw]
  rcases hd with hd | hd
  · exact bits_setBits_below _ _ _ _ _ _ hf hd
  · exact bits_setBits_above _ _ _ _ _ _ hf hd

@[simp] theorem State.reg_emit (q : RegId) (o : Out) (a₁ a₂ a₃ : Nat) :
    (s.emit o).reg q a₁ a₂ a₃ = s.reg q a₁ a₂ a₃ := rfl
@[simp] theorem State.rd_emit (q : Fld) (o : Out) (a₁ a₂ a₃ : Nat) :
    (s.emit o).rd q a₁ a₂ a₃ = s.rd q a₁ a₂ a₃ := rfl
@[simp] theorem State.on_emit (q : Fld) (o : Out) (a₁ a₂ a₃ : Nat) :
    (s.emit o).on q a₁ a₂ a₃ = s.on q a₁ a₂ a₃ := rfl
@[simp] theorem State.reg_draw (q : RegId) (a₁ a₂ a₃ : Nat) :
    (s.draw.1).reg q a₁ a₂ a₃ = s.reg q a₁ a₂ a₃ := rfl
@[simp] theorem State.rd_draw (q : Fld) (a₁ a₂ a₃ : Nat) :
    (s.draw.1).rd q a₁ a₂ a₃ = s.rd q a₁ a₂ a₃ := rfl
@[simp] theorem State.on_draw (q : Fld) (a₁ a₂ a₃ : Nat) :
    (s.draw.1).on q a₁ a₂ a₃ = s.on q a₁ a₂ a₃ := rfl
@[simp] theorem State.reg_dropLatch (q : RegId) (req : Requester) (a₁ a₂ a₃ : Nat) :
    (s.dropLatch req).reg q a₁ a₂ a₃ = s.reg q a₁ a₂ a₃ := rfl
@[simp] theorem State.rd_dropLatch (q : Fld) (req : Requester) (a₁ a₂ a₃ : Nat) :
    (s.dropLatch req).rd q a₁ a₂ a₃ = s.rd q a₁ a₂ a₃ := rfl
@[simp] theorem State.on_dropLatch (q : Fld) (req : Requester) (a₁ a₂ a₃ : Nat) :
    (s.dropLatch req).on q a₁ a₂ a₃ = s.on q a₁ a₂ a₃ := rfl
@[simp] theorem State.reg_setRing (q : RegId) (r : Nat) (x : RingInt) (a₁ a₂ a₃ : Nat) :
    (s.setRing r x).reg q a₁ a₂ a₃ = s.reg q a₁ a₂ a₃ := rfl
@[simp] theorem State.rd_setRing (q : Fld) (r : Nat) (x : RingInt) (a₁ a₂ a₃ : Nat) :
    (s.setRing r x).rd q a₁ a₂ a₃ = s.rd q a₁ a₂ a₃ := rfl
@[simp] theorem State.on_setRing (q : Fld) (r : Nat) (x : RingInt) (a₁ a₂ a₃ : Nat) :
    (s.setRing r x).on q a₁ a₂ a₃ = s.on q a₁ a₂ a₃ := rfl
@[simp] theorem State.reg_setMrl (q : RegId) (x : Marline) (a₁ a₂ a₃ : Nat) :
    (s.setMrl x).reg q a₁ a₂ a₃ = s.reg q a₁ a₂ a₃ := rfl
@[simp] theorem State.rd_setMrl (q : Fld) (x : Marline) (a₁ a₂ a₃ : Nat) :
    (s.setMrl x).rd q a₁ a₂ a₃ = s.rd q a₁ a₂ a₃ := rfl
@[simp] theorem State.on_setMrl (q : Fld) (x : Marline) (a₁ a₂ a₃ : Nat) :
    (s.setMrl x).on q a₁ a₂ a₃ = s.on q a₁ a₂ a₃ := rfl
@[simp] theorem State.reg_setWhip (q : RegId) (i : Nat) (x : WhipInt) (a₁ a₂ a₃ : Nat) :
    (s.setWhip i x).reg q a₁ a₂ a₃ = s.reg q a₁ a₂ a₃ := rfl
@[simp] theorem State.rd_setWhip (q : Fld) (i : Nat) (x : WhipInt) (a₁ a₂ a₃ : Nat) :
    (s.setWhip i x).rd q a₁ a₂ a₃ = s.rd q a₁ a₂ a₃ := rfl
@[simp] theorem State.on_setWhip (q : Fld) (i : Nat) (x : WhipInt) (a₁ a₂ a₃ : Nat) :
    (s.setWhip i x).on q a₁ a₂ a₃ = s.on q a₁ a₂ a₃ := rfl
@[simp] theorem State.reg_setAuth (q : RegId) (a : AuthInt) (a₁ a₂ a₃ : Nat) :
    (s.setAuth a).reg q a₁ a₂ a₃ = s.reg q a₁ a₂ a₃ := rfl
@[simp] theorem State.rd_setAuth (q : Fld) (a : AuthInt) (a₁ a₂ a₃ : Nat) :
    (s.setAuth a).rd q a₁ a₂ a₃ = s.rd q a₁ a₂ a₃ := rfl
@[simp] theorem State.on_setAuth (q : Fld) (a : AuthInt) (a₁ a₂ a₃ : Nat) :
    (s.setAuth a).on q a₁ a₂ a₃ = s.on q a₁ a₂ a₃ := rfl
@[simp] theorem State.reg_setStr (q : RegId) (n : Nat) (x : StrandInt) (a₁ a₂ a₃ : Nat) :
    (s.setStr n x).reg q a₁ a₂ a₃ = s.reg q a₁ a₂ a₃ := rfl
@[simp] theorem State.rd_setStr (q : Fld) (n : Nat) (x : StrandInt) (a₁ a₂ a₃ : Nat) :
    (s.setStr n x).rd q a₁ a₂ a₃ = s.rd q a₁ a₂ a₃ := rfl
@[simp] theorem State.on_setStr (q : Fld) (n : Nat) (x : StrandInt) (a₁ a₂ a₃ : Nat) :
    (s.setStr n x).on q a₁ a₂ a₃ = s.on q a₁ a₂ a₃ := rfl
@[simp] theorem State.reg_setBrd (q : RegId) (n : Nat) (x : BraidInt) (a₁ a₂ a₃ : Nat) :
    (s.setBrd n x).reg q a₁ a₂ a₃ = s.reg q a₁ a₂ a₃ := rfl
@[simp] theorem State.rd_setBrd (q : Fld) (n : Nat) (x : BraidInt) (a₁ a₂ a₃ : Nat) :
    (s.setBrd n x).rd q a₁ a₂ a₃ = s.rd q a₁ a₂ a₃ := rfl
@[simp] theorem State.on_setBrd (q : Fld) (n : Nat) (x : BraidInt) (a₁ a₂ a₃ : Nat) :
    (s.setBrd n x).on q a₁ a₂ a₃ = s.on q a₁ a₂ a₃ := rfl
@[simp] theorem State.reg_setSpl (q : RegId) (n : Nat) (x : SpliceInt) (a₁ a₂ a₃ : Nat) :
    (s.setSpl n x).reg q a₁ a₂ a₃ = s.reg q a₁ a₂ a₃ := rfl
@[simp] theorem State.rd_setSpl (q : Fld) (n : Nat) (x : SpliceInt) (a₁ a₂ a₃ : Nat) :
    (s.setSpl n x).rd q a₁ a₂ a₃ = s.rd q a₁ a₂ a₃ := rfl
@[simp] theorem State.on_setSpl (q : Fld) (n : Nat) (x : SpliceInt) (a₁ a₂ a₃ : Nat) :
    (s.setSpl n x).on q a₁ a₂ a₃ = s.on q a₁ a₂ a₃ := rfl
@[simp] theorem State.reg_setBgt (q : RegId) (n : Nat) (x : BightInt) (a₁ a₂ a₃ : Nat) :
    (s.setBgt n x).reg q a₁ a₂ a₃ = s.reg q a₁ a₂ a₃ := rfl
@[simp] theorem State.rd_setBgt (q : Fld) (n : Nat) (x : BightInt) (a₁ a₂ a₃ : Nat) :
    (s.setBgt n x).rd q a₁ a₂ a₃ = s.rd q a₁ a₂ a₃ := rfl
@[simp] theorem State.on_setBgt (q : Fld) (n : Nat) (x : BightInt) (a₁ a₂ a₃ : Nat) :
    (s.setBgt n x).on q a₁ a₂ a₃ = s.on q a₁ a₂ a₃ := rfl
@[simp] theorem State.reg_setClt (q : RegId) (n : Nat) (x : CleatInt) (a₁ a₂ a₃ : Nat) :
    (s.setClt n x).reg q a₁ a₂ a₃ = s.reg q a₁ a₂ a₃ := rfl
@[simp] theorem State.rd_setClt (q : Fld) (n : Nat) (x : CleatInt) (a₁ a₂ a₃ : Nat) :
    (s.setClt n x).rd q a₁ a₂ a₃ = s.rd q a₁ a₂ a₃ := rfl
@[simp] theorem State.on_setClt (q : Fld) (n : Nat) (x : CleatInt) (a₁ a₂ a₃ : Nat) :
    (s.setClt n x).on q a₁ a₂ a₃ = s.on q a₁ a₂ a₃ := rfl
@[simp] theorem State.reg_setTw (q : RegId) (l : Nat) (x : TwineInt) (a₁ a₂ a₃ : Nat) :
    (s.setTw l x).reg q a₁ a₂ a₃ = s.reg q a₁ a₂ a₃ := rfl
@[simp] theorem State.rd_setTw (q : Fld) (l : Nat) (x : TwineInt) (a₁ a₂ a₃ : Nat) :
    (s.setTw l x).rd q a₁ a₂ a₃ = s.rd q a₁ a₂ a₃ := rfl
@[simp] theorem State.on_setTw (q : Fld) (l : Nat) (x : TwineInt) (a₁ a₂ a₃ : Nat) :
    (s.setTw l x).on q a₁ a₂ a₃ = s.on q a₁ a₂ a₃ := rfl
@[simp] theorem State.reg_setCli (q : RegId) (c : Nat) (x : ClientInt) (a₁ a₂ a₃ : Nat) :
    (s.setCli c x).reg q a₁ a₂ a₃ = s.reg q a₁ a₂ a₃ := rfl
@[simp] theorem State.rd_setCli (q : Fld) (c : Nat) (x : ClientInt) (a₁ a₂ a₃ : Nat) :
    (s.setCli c x).rd q a₁ a₂ a₃ = s.rd q a₁ a₂ a₃ := rfl
@[simp] theorem State.on_setCli (q : Fld) (c : Nat) (x : ClientInt) (a₁ a₂ a₃ : Nat) :
    (s.setCli c x).on q a₁ a₂ a₃ = s.on q a₁ a₂ a₃ := rfl
@[simp] theorem State.reg_setGrp (q : RegId) (g : Nat) (x : GroupInt) (a₁ a₂ a₃ : Nat) :
    (s.setGrp g x).reg q a₁ a₂ a₃ = s.reg q a₁ a₂ a₃ := rfl
@[simp] theorem State.rd_setGrp (q : Fld) (g : Nat) (x : GroupInt) (a₁ a₂ a₃ : Nat) :
    (s.setGrp g x).rd q a₁ a₂ a₃ = s.rd q a₁ a₂ a₃ := rfl
@[simp] theorem State.on_setGrp (q : Fld) (g : Nat) (x : GroupInt) (a₁ a₂ a₃ : Nat) :
    (s.setGrp g x).on q a₁ a₂ a₃ = s.on q a₁ a₂ a₃ := rfl
@[simp] theorem State.reg_setKc (q : RegId) (k : Nat) (x : KcInt) (a₁ a₂ a₃ : Nat) :
    (s.setKc k x).reg q a₁ a₂ a₃ = s.reg q a₁ a₂ a₃ := rfl
@[simp] theorem State.rd_setKc (q : Fld) (k : Nat) (x : KcInt) (a₁ a₂ a₃ : Nat) :
    (s.setKc k x).rd q a₁ a₂ a₃ = s.rd q a₁ a₂ a₃ := rfl
@[simp] theorem State.on_setKc (q : Fld) (k : Nat) (x : KcInt) (a₁ a₂ a₃ : Nat) :
    (s.setKc k x).on q a₁ a₂ a₃ = s.on q a₁ a₂ a₃ := rfl
@[simp] theorem State.reg_setHit (q : RegId) (n : Nat) (x : HitchInt) (a₁ a₂ a₃ : Nat) :
    (s.setHit n x).reg q a₁ a₂ a₃ = s.reg q a₁ a₂ a₃ := rfl
@[simp] theorem State.rd_setHit (q : Fld) (n : Nat) (x : HitchInt) (a₁ a₂ a₃ : Nat) :
    (s.setHit n x).rd q a₁ a₂ a₃ = s.rd q a₁ a₂ a₃ := rfl
@[simp] theorem State.on_setHit (q : Fld) (n : Nat) (x : HitchInt) (a₁ a₂ a₃ : Nat) :
    (s.setHit n x).on q a₁ a₂ a₃ = s.on q a₁ a₂ a₃ := rfl
@[simp] theorem State.reg_setHalRef (q : RegId) (r : Nat) (x : HalRef) (a₁ a₂ a₃ : Nat) :
    (s.setHalRef r x).reg q a₁ a₂ a₃ = s.reg q a₁ a₂ a₃ := rfl
@[simp] theorem State.rd_setHalRef (q : Fld) (r : Nat) (x : HalRef) (a₁ a₂ a₃ : Nat) :
    (s.setHalRef r x).rd q a₁ a₂ a₃ = s.rd q a₁ a₂ a₃ := rfl
@[simp] theorem State.on_setHalRef (q : Fld) (r : Nat) (x : HalRef) (a₁ a₂ a₃ : Nat) :
    (s.setHalRef r x).on q a₁ a₂ a₃ = s.on q a₁ a₂ a₃ := rfl
@[simp] theorem State.reg_setLny (q : RegId) (x : LanyardInt) (a₁ a₂ a₃ : Nat) :
    (s.setLny x).reg q a₁ a₂ a₃ = s.reg q a₁ a₂ a₃ := rfl
@[simp] theorem State.rd_setLny (q : Fld) (x : LanyardInt) (a₁ a₂ a₃ : Nat) :
    (s.setLny x).rd q a₁ a₂ a₃ = s.rd q a₁ a₂ a₃ := rfl
@[simp] theorem State.on_setLny (q : Fld) (x : LanyardInt) (a₁ a₂ a₃ : Nat) :
    (s.setLny x).on q a₁ a₂ a₃ = s.on q a₁ a₂ a₃ := rfl
@[simp] theorem State.reg_setTly (q : RegId) (x : TallyInt) (a₁ a₂ a₃ : Nat) :
    (s.setTly x).reg q a₁ a₂ a₃ = s.reg q a₁ a₂ a₃ := rfl
@[simp] theorem State.rd_setTly (q : Fld) (x : TallyInt) (a₁ a₂ a₃ : Nat) :
    (s.setTly x).rd q a₁ a₂ a₃ = s.rd q a₁ a₂ a₃ := rfl
@[simp] theorem State.on_setTly (q : Fld) (x : TallyInt) (a₁ a₂ a₃ : Nat) :
    (s.setTly x).on q a₁ a₂ a₃ = s.on q a₁ a₂ a₃ := rfl
@[simp] theorem State.reg_setFth (q : RegId) (x : FathomInt) (a₁ a₂ a₃ : Nat) :
    (s.setFth x).reg q a₁ a₂ a₃ = s.reg q a₁ a₂ a₃ := rfl
@[simp] theorem State.rd_setFth (q : Fld) (x : FathomInt) (a₁ a₂ a₃ : Nat) :
    (s.setFth x).rd q a₁ a₂ a₃ = s.rd q a₁ a₂ a₃ := rfl
@[simp] theorem State.on_setFth (q : Fld) (x : FathomInt) (a₁ a₂ a₃ : Nat) :
    (s.setFth x).on q a₁ a₂ a₃ = s.on q a₁ a₂ a₃ := rfl

/-! ### Messages and faults -/

@[simp] theorem State.message_regs (v : Nat) : (s.message v).regs = s.regs := by
  unfold State.message; dsimp only; (repeat' split) <;> rfl
@[simp] theorem State.message_shadow (v : Nat) : (s.message v).shadow = s.shadow := by
  unfold State.message; dsimp only; (repeat' split) <;> rfl
@[simp] theorem State.message_latches (v : Nat) : (s.message v).latches = s.latches := by
  unfold State.message; dsimp only; (repeat' split) <;> rfl
@[simp] theorem State.message_tod (v : Nat) : (s.message v).tod = s.tod := by
  unfold State.message; dsimp only; (repeat' split) <;> rfl
@[simp] theorem State.message_pins (v : Nat) : (s.message v).pins = s.pins := by
  unfold State.message; dsimp only; (repeat' split) <;> rfl
@[simp] theorem State.message_rings (v : Nat) : (s.message v).rings = s.rings := by
  unfold State.message; dsimp only; (repeat' split) <;> rfl
@[simp] theorem State.message_inflight (v : Nat) : (s.message v).inflight = s.inflight := by
  unfold State.message; dsimp only; (repeat' split) <;> rfl
@[simp] theorem State.message_nextCmd (v : Nat) : (s.message v).nextCmd = s.nextCmd := by
  unfold State.message; dsimp only; (repeat' split) <;> rfl
@[simp] theorem State.message_auth (v : Nat) : (s.message v).auth = s.auth := by
  unfold State.message; dsimp only; (repeat' split) <;> rfl
@[simp] theorem State.message_sessLeft (v : Nat) : (s.message v).sessLeft = s.sessLeft := by
  unfold State.message; dsimp only; (repeat' split) <;> rfl
@[simp] theorem State.message_nv (v : Nat) : (s.message v).nv = s.nv := by
  unfold State.message; dsimp only; (repeat' split) <;> rfl
@[simp] theorem State.message_journal (v : Nat) : (s.message v).journal = s.journal := by
  unfold State.message; dsimp only; (repeat' split) <;> rfl
@[simp] theorem State.message_marline (v : Nat) : (s.message v).marline = s.marline := by
  unfold State.message; dsimp only; (repeat' split) <;> rfl
@[simp] theorem State.message_boot (v : Nat) : (s.message v).boot = s.boot := by
  unfold State.message; dsimp only; (repeat' split) <;> rfl
@[simp] theorem State.message_mem (v : Nat) : (s.message v).mem = s.mem := by
  unfold State.message; dsimp only; (repeat' split) <;> rfl
@[simp] theorem State.message_whip (v : Nat) : (s.message v).whip = s.whip := by
  unfold State.message; dsimp only; (repeat' split) <;> rfl
@[simp] theorem State.message_strand (v : Nat) : (s.message v).strand = s.strand := by
  unfold State.message; dsimp only; (repeat' split) <;> rfl
@[simp] theorem State.message_braid (v : Nat) : (s.message v).braid = s.braid := by
  unfold State.message; dsimp only; (repeat' split) <;> rfl
@[simp] theorem State.message_splice (v : Nat) : (s.message v).splice = s.splice := by
  unfold State.message; dsimp only; (repeat' split) <;> rfl
@[simp] theorem State.message_halyard (v : Nat) : (s.message v).halyard = s.halyard := by
  unfold State.message; dsimp only; (repeat' split) <;> rfl
@[simp] theorem State.message_bight (v : Nat) : (s.message v).bight = s.bight := by
  unfold State.message; dsimp only; (repeat' split) <;> rfl
@[simp] theorem State.message_cleat (v : Nat) : (s.message v).cleat = s.cleat := by
  unfold State.message; dsimp only; (repeat' split) <;> rfl
@[simp] theorem State.message_twine (v : Nat) : (s.message v).twine = s.twine := by
  unfold State.message; dsimp only; (repeat' split) <;> rfl
@[simp] theorem State.message_clients (v : Nat) : (s.message v).clients = s.clients := by
  unfold State.message; dsimp only; (repeat' split) <;> rfl
@[simp] theorem State.message_leafFail (v : Nat) : (s.message v).leafFail = s.leafFail := by
  unfold State.message; dsimp only; (repeat' split) <;> rfl
@[simp] theorem State.message_groups (v : Nat) : (s.message v).groups = s.groups := by
  unfold State.message; dsimp only; (repeat' split) <;> rfl
@[simp] theorem State.message_kcs (v : Nat) : (s.message v).kcs = s.kcs := by
  unfold State.message; dsimp only; (repeat' split) <;> rfl
@[simp] theorem State.message_keks (v : Nat) : (s.message v).keks = s.keks := by
  unfold State.message; dsimp only; (repeat' split) <;> rfl
@[simp] theorem State.message_hitch (v : Nat) : (s.message v).hitch = s.hitch := by
  unfold State.message; dsimp only; (repeat' split) <;> rfl
@[simp] theorem State.message_lanyard (v : Nat) : (s.message v).lanyard = s.lanyard := by
  unfold State.message; dsimp only; (repeat' split) <;> rfl
@[simp] theorem State.message_belay (v : Nat) : (s.message v).belay = s.belay := by
  unfold State.message; dsimp only; (repeat' split) <;> rfl
@[simp] theorem State.message_age (v : Nat) : (s.message v).age = s.age := by
  unfold State.message; dsimp only; (repeat' split) <;> rfl
@[simp] theorem State.message_tally (v : Nat) : (s.message v).tally = s.tally := by
  unfold State.message; dsimp only; (repeat' split) <;> rfl
@[simp] theorem State.message_fathom (v : Nat) : (s.message v).fathom = s.fathom := by
  unfold State.message; dsimp only; (repeat' split) <;> rfl
@[simp] theorem State.message_drawn (v : Nat) : (s.message v).drawn = s.drawn := by
  unfold State.message; dsimp only; (repeat' split) <;> rfl
@[simp] theorem State.message_discards (v : Nat) : (s.message v).discards = s.discards := by
  unfold State.message; dsimp only; (repeat' split) <;> rfl
@[simp] theorem State.message_pending (v : Nat) : (s.message v).pending = s.pending := by
  unfold State.message; dsimp only; (repeat' split) <;> rfl
@[simp] theorem State.reg_message (q : RegId) (v : Nat) (a₁ a₂ a₃ : Nat) :
    (s.message v).reg q a₁ a₂ a₃ = s.reg q a₁ a₂ a₃ := by
  unfold State.reg; simp
@[simp] theorem State.rd_message (q : Fld) (v : Nat) (a₁ a₂ a₃ : Nat) :
    (s.message v).rd q a₁ a₂ a₃ = s.rd q a₁ a₂ a₃ := by
  unfold State.rd; simp
@[simp] theorem State.on_message (q : Fld) (v : Nat) (a₁ a₂ a₃ : Nat) :
    (s.message v).on q a₁ a₂ a₃ = s.on q a₁ a₂ a₃ := by
  unfold State.on; simp
@[simp] theorem State.faultVector_regs : (s.faultVector).regs = s.regs := by
  unfold State.faultVector; split <;> simp
@[simp] theorem State.faultVector_shadow : (s.faultVector).shadow = s.shadow := by
  unfold State.faultVector; split <;> simp
@[simp] theorem State.faultVector_latches : (s.faultVector).latches = s.latches := by
  unfold State.faultVector; split <;> simp
@[simp] theorem State.faultVector_tod : (s.faultVector).tod = s.tod := by
  unfold State.faultVector; split <;> simp
@[simp] theorem State.faultVector_pins : (s.faultVector).pins = s.pins := by
  unfold State.faultVector; split <;> simp
@[simp] theorem State.faultVector_rings : (s.faultVector).rings = s.rings := by
  unfold State.faultVector; split <;> simp
@[simp] theorem State.faultVector_inflight : (s.faultVector).inflight = s.inflight := by
  unfold State.faultVector; split <;> simp
@[simp] theorem State.faultVector_nextCmd : (s.faultVector).nextCmd = s.nextCmd := by
  unfold State.faultVector; split <;> simp
@[simp] theorem State.faultVector_auth : (s.faultVector).auth = s.auth := by
  unfold State.faultVector; split <;> simp
@[simp] theorem State.faultVector_sessLeft : (s.faultVector).sessLeft = s.sessLeft := by
  unfold State.faultVector; split <;> simp
@[simp] theorem State.faultVector_nv : (s.faultVector).nv = s.nv := by
  unfold State.faultVector; split <;> simp
@[simp] theorem State.faultVector_journal : (s.faultVector).journal = s.journal := by
  unfold State.faultVector; split <;> simp
@[simp] theorem State.faultVector_marline : (s.faultVector).marline = s.marline := by
  unfold State.faultVector; split <;> simp
@[simp] theorem State.faultVector_boot : (s.faultVector).boot = s.boot := by
  unfold State.faultVector; split <;> simp
@[simp] theorem State.faultVector_mem : (s.faultVector).mem = s.mem := by
  unfold State.faultVector; split <;> simp
@[simp] theorem State.faultVector_whip : (s.faultVector).whip = s.whip := by
  unfold State.faultVector; split <;> simp
@[simp] theorem State.faultVector_strand : (s.faultVector).strand = s.strand := by
  unfold State.faultVector; split <;> simp
@[simp] theorem State.faultVector_braid : (s.faultVector).braid = s.braid := by
  unfold State.faultVector; split <;> simp
@[simp] theorem State.faultVector_splice : (s.faultVector).splice = s.splice := by
  unfold State.faultVector; split <;> simp
@[simp] theorem State.faultVector_halyard : (s.faultVector).halyard = s.halyard := by
  unfold State.faultVector; split <;> simp
@[simp] theorem State.faultVector_bight : (s.faultVector).bight = s.bight := by
  unfold State.faultVector; split <;> simp
@[simp] theorem State.faultVector_cleat : (s.faultVector).cleat = s.cleat := by
  unfold State.faultVector; split <;> simp
@[simp] theorem State.faultVector_twine : (s.faultVector).twine = s.twine := by
  unfold State.faultVector; split <;> simp
@[simp] theorem State.faultVector_clients : (s.faultVector).clients = s.clients := by
  unfold State.faultVector; split <;> simp
@[simp] theorem State.faultVector_leafFail : (s.faultVector).leafFail = s.leafFail := by
  unfold State.faultVector; split <;> simp
@[simp] theorem State.faultVector_groups : (s.faultVector).groups = s.groups := by
  unfold State.faultVector; split <;> simp
@[simp] theorem State.faultVector_kcs : (s.faultVector).kcs = s.kcs := by
  unfold State.faultVector; split <;> simp
@[simp] theorem State.faultVector_keks : (s.faultVector).keks = s.keks := by
  unfold State.faultVector; split <;> simp
@[simp] theorem State.faultVector_hitch : (s.faultVector).hitch = s.hitch := by
  unfold State.faultVector; split <;> simp
@[simp] theorem State.faultVector_lanyard : (s.faultVector).lanyard = s.lanyard := by
  unfold State.faultVector; split <;> simp
@[simp] theorem State.faultVector_belay : (s.faultVector).belay = s.belay := by
  unfold State.faultVector; split <;> simp
@[simp] theorem State.faultVector_age : (s.faultVector).age = s.age := by
  unfold State.faultVector; split <;> simp
@[simp] theorem State.faultVector_tally : (s.faultVector).tally = s.tally := by
  unfold State.faultVector; split <;> simp
@[simp] theorem State.faultVector_fathom : (s.faultVector).fathom = s.fathom := by
  unfold State.faultVector; split <;> simp
@[simp] theorem State.faultVector_drawn : (s.faultVector).drawn = s.drawn := by
  unfold State.faultVector; split <;> simp
@[simp] theorem State.faultVector_discards : (s.faultVector).discards = s.discards := by
  unfold State.faultVector; split <;> simp
@[simp] theorem State.faultVector_pending : (s.faultVector).pending = s.pending := by
  unfold State.faultVector; split <;> simp
@[simp] theorem State.reg_faultVector (q : RegId) (a₁ a₂ a₃ : Nat) :
    (s.faultVector).reg q a₁ a₂ a₃ = s.reg q a₁ a₂ a₃ := by
  unfold State.reg; simp
@[simp] theorem State.rd_faultVector (q : Fld) (a₁ a₂ a₃ : Nat) :
    (s.faultVector).rd q a₁ a₂ a₃ = s.rd q a₁ a₂ a₃ := by
  unfold State.rd; simp
@[simp] theorem State.on_faultVector (q : Fld) (a₁ a₂ a₃ : Nat) :
    (s.faultVector).on q a₁ a₂ a₃ = s.on q a₁ a₂ a₃ := by
  unfold State.on; simp

theorem State.setFault_regs (f : Fld) (v vec : Bool) : (s.setFault f v vec).regs = (s.wr f (b2n v)).regs := by
  unfold State.setFault
  dsimp only
  split
  · split <;> simp
  · rfl

theorem State.rd_setFault (f g : Fld) (v vec : Bool) (i j k : Nat) :
    (s.setFault f v vec).rd g i j k = (s.wr f (b2n v)).rd g i j k := by
  unfold State.rd State.reg; rw [State.setFault_regs]

/-! ### What a kept state reads as -/

theorem State.kept_rd {m : Nat} {b t : State} (h : b.kept m t) (f : Fld) (hf : m.testBit (regBit f.id) = false) (i j k : Nat) :
    t.rd f i j k = b.rd f i j k := by
  unfold State.rd State.reg; rw [h.2.2.2.2.1 _ hf]

theorem State.kept_part {m : Nat} {b t : State} (h : b.kept m t) (k : Nat) (hk : m.testBit k = false) : samePart k b t :=
  h.2.2.2.2.2 k hk

/-- The registers an event can change: those of the rings and the counters of Becket. -/
abbrev eventMask : Nat := 0x888000000000000C00000090

theorem eventMask_testBit (id : RegId) (h : id ≠ .BCKT_RING_ST) (h' : id ≠ .BCKT_CNT) (h'' : id ≠ .BCKT_MEM_CNT) :
    eventMask.testBit (regBit id) = false := by
  cases id <;> first | rfl | exact absurd rfl h | exact absurd rfl h' | exact absurd rfl h''

theorem State.event_keeps (code dom : Nat) (params : List Nat) (exit : Bool) : s.kept eventMask (s.event code dom params exit) :=
  State.event_kept s code dom params exit (s.kept_refl _) (Foot.refl _)

theorem State.get_event (r : RegKey) (code dom : Nat) (params : List Nat) (exit : Bool) (h : r.id ≠ .BCKT_RING_ST)
    (h' : r.id ≠ .BCKT_CNT) (h'' : r.id ≠ .BCKT_MEM_CNT) : (s.event code dom params exit).regs.get r = s.regs.get r :=
  (s.event_keeps code dom params exit).2.2.2.2.1 r (eventMask_testBit r.id h h' h'')

theorem State.rd_event (f : Fld) (code dom : Nat) (params : List Nat) (exit : Bool) (i j k : Nat) (h : f.id ≠ .BCKT_RING_ST)
    (h' : f.id ≠ .BCKT_CNT) (h'' : f.id ≠ .BCKT_MEM_CNT) : (s.event code dom params exit).rd f i j k = s.rd f i j k :=
  State.kept_rd (s.event_keeps code dom params exit) f (eventMask_testBit f.id h h' h'') i j k

theorem State.reg_event (q : RegId) (code dom : Nat) (params : List Nat) (exit : Bool) (i j k : Nat) (h : q ≠ .BCKT_RING_ST)
    (h' : q ≠ .BCKT_CNT) (h'' : q ≠ .BCKT_MEM_CNT) : (s.event code dom params exit).reg q i j k = s.reg q i j k :=
  s.get_event ⟨q, i, j, k⟩ code dom params exit h h' h''

@[simp] theorem State.event_shadow (code dom : Nat) (params : List Nat) (exit : Bool) :
    (s.event code dom params exit).shadow = s.shadow := State.kept_part (s.event_keeps code dom params exit) 0 rfl
@[simp] theorem State.raise_shadow (g : Fld) (code dom : Nat) (params : List Nat) (exit : Bool) (i : Nat) :
    (s.raise g code dom params exit i).shadow = s.shadow := State.event_shadow _ code dom params exit
@[simp] theorem State.event_latches (code dom : Nat) (params : List Nat) (exit : Bool) :
    (s.event code dom params exit).latches = s.latches := State.kept_part (s.event_keeps code dom params exit) 1 rfl
@[simp] theorem State.raise_latches (g : Fld) (code dom : Nat) (params : List Nat) (exit : Bool) (i : Nat) :
    (s.raise g code dom params exit i).latches = s.latches := State.event_latches _ code dom params exit
@[simp] theorem State.event_tod (code dom : Nat) (params : List Nat) (exit : Bool) :
    (s.event code dom params exit).tod = s.tod := State.kept_part (s.event_keeps code dom params exit) 2 rfl
@[simp] theorem State.raise_tod (g : Fld) (code dom : Nat) (params : List Nat) (exit : Bool) (i : Nat) :
    (s.raise g code dom params exit i).tod = s.tod := State.event_tod _ code dom params exit
@[simp] theorem State.event_pins (code dom : Nat) (params : List Nat) (exit : Bool) :
    (s.event code dom params exit).pins = s.pins := State.kept_part (s.event_keeps code dom params exit) 3 rfl
@[simp] theorem State.raise_pins (g : Fld) (code dom : Nat) (params : List Nat) (exit : Bool) (i : Nat) :
    (s.raise g code dom params exit i).pins = s.pins := State.event_pins _ code dom params exit
@[simp] theorem State.event_inflight (code dom : Nat) (params : List Nat) (exit : Bool) :
    (s.event code dom params exit).inflight = s.inflight := State.kept_part (s.event_keeps code dom params exit) 5 rfl
@[simp] theorem State.raise_inflight (g : Fld) (code dom : Nat) (params : List Nat) (exit : Bool) (i : Nat) :
    (s.raise g code dom params exit i).inflight = s.inflight := State.event_inflight _ code dom params exit
@[simp] theorem State.event_nextCmd (code dom : Nat) (params : List Nat) (exit : Bool) :
    (s.event code dom params exit).nextCmd = s.nextCmd := State.kept_part (s.event_keeps code dom params exit) 6 rfl
@[simp] theorem State.raise_nextCmd (g : Fld) (code dom : Nat) (params : List Nat) (exit : Bool) (i : Nat) :
    (s.raise g code dom params exit i).nextCmd = s.nextCmd := State.event_nextCmd _ code dom params exit
@[simp] theorem State.event_auth (code dom : Nat) (params : List Nat) (exit : Bool) :
    (s.event code dom params exit).auth = s.auth := State.kept_part (s.event_keeps code dom params exit) 8 rfl
@[simp] theorem State.raise_auth (g : Fld) (code dom : Nat) (params : List Nat) (exit : Bool) (i : Nat) :
    (s.raise g code dom params exit i).auth = s.auth := State.event_auth _ code dom params exit
@[simp] theorem State.event_sessLeft (code dom : Nat) (params : List Nat) (exit : Bool) :
    (s.event code dom params exit).sessLeft = s.sessLeft := State.kept_part (s.event_keeps code dom params exit) 9 rfl
@[simp] theorem State.raise_sessLeft (g : Fld) (code dom : Nat) (params : List Nat) (exit : Bool) (i : Nat) :
    (s.raise g code dom params exit i).sessLeft = s.sessLeft := State.event_sessLeft _ code dom params exit
@[simp] theorem State.event_nv (code dom : Nat) (params : List Nat) (exit : Bool) :
    (s.event code dom params exit).nv = s.nv := State.kept_part (s.event_keeps code dom params exit) 10 rfl
@[simp] theorem State.raise_nv (g : Fld) (code dom : Nat) (params : List Nat) (exit : Bool) (i : Nat) :
    (s.raise g code dom params exit i).nv = s.nv := State.event_nv _ code dom params exit
@[simp] theorem State.event_journal (code dom : Nat) (params : List Nat) (exit : Bool) :
    (s.event code dom params exit).journal = s.journal := State.kept_part (s.event_keeps code dom params exit) 11 rfl
@[simp] theorem State.raise_journal (g : Fld) (code dom : Nat) (params : List Nat) (exit : Bool) (i : Nat) :
    (s.raise g code dom params exit i).journal = s.journal := State.event_journal _ code dom params exit
@[simp] theorem State.event_marline (code dom : Nat) (params : List Nat) (exit : Bool) :
    (s.event code dom params exit).marline = s.marline := State.kept_part (s.event_keeps code dom params exit) 12 rfl
@[simp] theorem State.raise_marline (g : Fld) (code dom : Nat) (params : List Nat) (exit : Bool) (i : Nat) :
    (s.raise g code dom params exit i).marline = s.marline := State.event_marline _ code dom params exit
@[simp] theorem State.event_boot (code dom : Nat) (params : List Nat) (exit : Bool) :
    (s.event code dom params exit).boot = s.boot := State.kept_part (s.event_keeps code dom params exit) 13 rfl
@[simp] theorem State.raise_boot (g : Fld) (code dom : Nat) (params : List Nat) (exit : Bool) (i : Nat) :
    (s.raise g code dom params exit i).boot = s.boot := State.event_boot _ code dom params exit
@[simp] theorem State.event_mem (code dom : Nat) (params : List Nat) (exit : Bool) :
    (s.event code dom params exit).mem = s.mem := State.kept_part (s.event_keeps code dom params exit) 14 rfl
@[simp] theorem State.raise_mem (g : Fld) (code dom : Nat) (params : List Nat) (exit : Bool) (i : Nat) :
    (s.raise g code dom params exit i).mem = s.mem := State.event_mem _ code dom params exit
@[simp] theorem State.event_whip (code dom : Nat) (params : List Nat) (exit : Bool) :
    (s.event code dom params exit).whip = s.whip := State.kept_part (s.event_keeps code dom params exit) 15 rfl
@[simp] theorem State.raise_whip (g : Fld) (code dom : Nat) (params : List Nat) (exit : Bool) (i : Nat) :
    (s.raise g code dom params exit i).whip = s.whip := State.event_whip _ code dom params exit
@[simp] theorem State.event_strand (code dom : Nat) (params : List Nat) (exit : Bool) :
    (s.event code dom params exit).strand = s.strand := State.kept_part (s.event_keeps code dom params exit) 16 rfl
@[simp] theorem State.raise_strand (g : Fld) (code dom : Nat) (params : List Nat) (exit : Bool) (i : Nat) :
    (s.raise g code dom params exit i).strand = s.strand := State.event_strand _ code dom params exit
@[simp] theorem State.event_braid (code dom : Nat) (params : List Nat) (exit : Bool) :
    (s.event code dom params exit).braid = s.braid := State.kept_part (s.event_keeps code dom params exit) 17 rfl
@[simp] theorem State.raise_braid (g : Fld) (code dom : Nat) (params : List Nat) (exit : Bool) (i : Nat) :
    (s.raise g code dom params exit i).braid = s.braid := State.event_braid _ code dom params exit
@[simp] theorem State.event_splice (code dom : Nat) (params : List Nat) (exit : Bool) :
    (s.event code dom params exit).splice = s.splice := State.kept_part (s.event_keeps code dom params exit) 18 rfl
@[simp] theorem State.raise_splice (g : Fld) (code dom : Nat) (params : List Nat) (exit : Bool) (i : Nat) :
    (s.raise g code dom params exit i).splice = s.splice := State.event_splice _ code dom params exit
@[simp] theorem State.event_halyard (code dom : Nat) (params : List Nat) (exit : Bool) :
    (s.event code dom params exit).halyard = s.halyard := State.kept_part (s.event_keeps code dom params exit) 19 rfl
@[simp] theorem State.raise_halyard (g : Fld) (code dom : Nat) (params : List Nat) (exit : Bool) (i : Nat) :
    (s.raise g code dom params exit i).halyard = s.halyard := State.event_halyard _ code dom params exit
@[simp] theorem State.event_bight (code dom : Nat) (params : List Nat) (exit : Bool) :
    (s.event code dom params exit).bight = s.bight := State.kept_part (s.event_keeps code dom params exit) 20 rfl
@[simp] theorem State.raise_bight (g : Fld) (code dom : Nat) (params : List Nat) (exit : Bool) (i : Nat) :
    (s.raise g code dom params exit i).bight = s.bight := State.event_bight _ code dom params exit
@[simp] theorem State.event_cleat (code dom : Nat) (params : List Nat) (exit : Bool) :
    (s.event code dom params exit).cleat = s.cleat := State.kept_part (s.event_keeps code dom params exit) 21 rfl
@[simp] theorem State.raise_cleat (g : Fld) (code dom : Nat) (params : List Nat) (exit : Bool) (i : Nat) :
    (s.raise g code dom params exit i).cleat = s.cleat := State.event_cleat _ code dom params exit
@[simp] theorem State.event_twine (code dom : Nat) (params : List Nat) (exit : Bool) :
    (s.event code dom params exit).twine = s.twine := State.kept_part (s.event_keeps code dom params exit) 22 rfl
@[simp] theorem State.raise_twine (g : Fld) (code dom : Nat) (params : List Nat) (exit : Bool) (i : Nat) :
    (s.raise g code dom params exit i).twine = s.twine := State.event_twine _ code dom params exit
@[simp] theorem State.event_clients (code dom : Nat) (params : List Nat) (exit : Bool) :
    (s.event code dom params exit).clients = s.clients := State.kept_part (s.event_keeps code dom params exit) 23 rfl
@[simp] theorem State.raise_clients (g : Fld) (code dom : Nat) (params : List Nat) (exit : Bool) (i : Nat) :
    (s.raise g code dom params exit i).clients = s.clients := State.event_clients _ code dom params exit
@[simp] theorem State.event_leafFail (code dom : Nat) (params : List Nat) (exit : Bool) :
    (s.event code dom params exit).leafFail = s.leafFail := State.kept_part (s.event_keeps code dom params exit) 24 rfl
@[simp] theorem State.raise_leafFail (g : Fld) (code dom : Nat) (params : List Nat) (exit : Bool) (i : Nat) :
    (s.raise g code dom params exit i).leafFail = s.leafFail := State.event_leafFail _ code dom params exit
@[simp] theorem State.event_groups (code dom : Nat) (params : List Nat) (exit : Bool) :
    (s.event code dom params exit).groups = s.groups := State.kept_part (s.event_keeps code dom params exit) 25 rfl
@[simp] theorem State.raise_groups (g : Fld) (code dom : Nat) (params : List Nat) (exit : Bool) (i : Nat) :
    (s.raise g code dom params exit i).groups = s.groups := State.event_groups _ code dom params exit
@[simp] theorem State.event_kcs (code dom : Nat) (params : List Nat) (exit : Bool) :
    (s.event code dom params exit).kcs = s.kcs := State.kept_part (s.event_keeps code dom params exit) 26 rfl
@[simp] theorem State.raise_kcs (g : Fld) (code dom : Nat) (params : List Nat) (exit : Bool) (i : Nat) :
    (s.raise g code dom params exit i).kcs = s.kcs := State.event_kcs _ code dom params exit
@[simp] theorem State.event_keks (code dom : Nat) (params : List Nat) (exit : Bool) :
    (s.event code dom params exit).keks = s.keks := State.kept_part (s.event_keeps code dom params exit) 27 rfl
@[simp] theorem State.raise_keks (g : Fld) (code dom : Nat) (params : List Nat) (exit : Bool) (i : Nat) :
    (s.raise g code dom params exit i).keks = s.keks := State.event_keks _ code dom params exit
@[simp] theorem State.event_hitch (code dom : Nat) (params : List Nat) (exit : Bool) :
    (s.event code dom params exit).hitch = s.hitch := State.kept_part (s.event_keeps code dom params exit) 28 rfl
@[simp] theorem State.raise_hitch (g : Fld) (code dom : Nat) (params : List Nat) (exit : Bool) (i : Nat) :
    (s.raise g code dom params exit i).hitch = s.hitch := State.event_hitch _ code dom params exit
@[simp] theorem State.event_lanyard (code dom : Nat) (params : List Nat) (exit : Bool) :
    (s.event code dom params exit).lanyard = s.lanyard := State.kept_part (s.event_keeps code dom params exit) 29 rfl
@[simp] theorem State.raise_lanyard (g : Fld) (code dom : Nat) (params : List Nat) (exit : Bool) (i : Nat) :
    (s.raise g code dom params exit i).lanyard = s.lanyard := State.event_lanyard _ code dom params exit
@[simp] theorem State.event_belay (code dom : Nat) (params : List Nat) (exit : Bool) :
    (s.event code dom params exit).belay = s.belay := State.kept_part (s.event_keeps code dom params exit) 30 rfl
@[simp] theorem State.raise_belay (g : Fld) (code dom : Nat) (params : List Nat) (exit : Bool) (i : Nat) :
    (s.raise g code dom params exit i).belay = s.belay := State.event_belay _ code dom params exit
@[simp] theorem State.event_age (code dom : Nat) (params : List Nat) (exit : Bool) :
    (s.event code dom params exit).age = s.age := State.kept_part (s.event_keeps code dom params exit) 31 rfl
@[simp] theorem State.raise_age (g : Fld) (code dom : Nat) (params : List Nat) (exit : Bool) (i : Nat) :
    (s.raise g code dom params exit i).age = s.age := State.event_age _ code dom params exit
@[simp] theorem State.event_tally (code dom : Nat) (params : List Nat) (exit : Bool) :
    (s.event code dom params exit).tally = s.tally := State.kept_part (s.event_keeps code dom params exit) 32 rfl
@[simp] theorem State.raise_tally (g : Fld) (code dom : Nat) (params : List Nat) (exit : Bool) (i : Nat) :
    (s.raise g code dom params exit i).tally = s.tally := State.event_tally _ code dom params exit
@[simp] theorem State.event_fathom (code dom : Nat) (params : List Nat) (exit : Bool) :
    (s.event code dom params exit).fathom = s.fathom := State.kept_part (s.event_keeps code dom params exit) 33 rfl
@[simp] theorem State.raise_fathom (g : Fld) (code dom : Nat) (params : List Nat) (exit : Bool) (i : Nat) :
    (s.raise g code dom params exit i).fathom = s.fathom := State.event_fathom _ code dom params exit
@[simp] theorem State.event_discards (code dom : Nat) (params : List Nat) (exit : Bool) :
    (s.event code dom params exit).discards = s.discards := State.kept_part (s.event_keeps code dom params exit) 36 rfl
@[simp] theorem State.raise_discards (g : Fld) (code dom : Nat) (params : List Nat) (exit : Bool) (i : Nat) :
    (s.raise g code dom params exit i).discards = s.discards := State.event_discards _ code dom params exit
@[simp] theorem State.event_pending (code dom : Nat) (params : List Nat) (exit : Bool) :
    (s.event code dom params exit).pending = s.pending := (s.event_keeps code dom params exit).2.1

/-- An event is the first thing sent after what had been sent before; what its ring and its message add comes later. -/
theorem State.event_out (code dom : Nat) (params : List Nat) (exit : Bool) :
    Out.event code dom params exit :: s.out <:+ (s.event code dom params exit).out := by
  unfold State.event
  have h : (s.emit (.event code dom params exit)).kept eventMask (match (s.emit (.event code dom params exit)).eventRing dom with
    | some r => (s.emit (.event code dom params exit)).eventTo r code dom params exit
    | none => s.emit (.event code dom params exit)) := by
    split
    · exact State.eventTo_kept _ _ _ _ _ _ (State.kept_refl _ _) (Foot.trans rfl (Foot.refl _))
    · exact State.kept_refl _ _
  exact h.2.2.2.1

/-! ### The journal and writes with rights -/

@[simp] theorem State.recordAs_shadow (stamp role dom kind result what old new aux : Nat) :
    (s.recordAs stamp role dom kind result what old new aux).shadow = s.shadow := by unfold State.recordAs; split <;> simp
@[simp] theorem State.recordAs_latches (stamp role dom kind result what old new aux : Nat) :
    (s.recordAs stamp role dom kind result what old new aux).latches = s.latches := by unfold State.recordAs; split <;> simp
@[simp] theorem State.recordAs_tod (stamp role dom kind result what old new aux : Nat) :
    (s.recordAs stamp role dom kind result what old new aux).tod = s.tod := by unfold State.recordAs; split <;> simp
@[simp] theorem State.recordAs_pins (stamp role dom kind result what old new aux : Nat) :
    (s.recordAs stamp role dom kind result what old new aux).pins = s.pins := by unfold State.recordAs; split <;> simp
@[simp] theorem State.recordAs_rings (stamp role dom kind result what old new aux : Nat) :
    (s.recordAs stamp role dom kind result what old new aux).rings = s.rings := by unfold State.recordAs; split <;> simp
@[simp] theorem State.recordAs_inflight (stamp role dom kind result what old new aux : Nat) :
    (s.recordAs stamp role dom kind result what old new aux).inflight = s.inflight := by unfold State.recordAs; split <;> simp
@[simp] theorem State.recordAs_nextCmd (stamp role dom kind result what old new aux : Nat) :
    (s.recordAs stamp role dom kind result what old new aux).nextCmd = s.nextCmd := by unfold State.recordAs; split <;> simp
@[simp] theorem State.recordAs_vecs (stamp role dom kind result what old new aux : Nat) :
    (s.recordAs stamp role dom kind result what old new aux).vecs = s.vecs := by unfold State.recordAs; split <;> simp
@[simp] theorem State.recordAs_auth (stamp role dom kind result what old new aux : Nat) :
    (s.recordAs stamp role dom kind result what old new aux).auth = s.auth := by unfold State.recordAs; split <;> simp
@[simp] theorem State.recordAs_sessLeft (stamp role dom kind result what old new aux : Nat) :
    (s.recordAs stamp role dom kind result what old new aux).sessLeft = s.sessLeft := by unfold State.recordAs; split <;> simp
@[simp] theorem State.recordAs_nv (stamp role dom kind result what old new aux : Nat) :
    (s.recordAs stamp role dom kind result what old new aux).nv = s.nv := by unfold State.recordAs; split <;> simp
@[simp] theorem State.recordAs_marline (stamp role dom kind result what old new aux : Nat) :
    (s.recordAs stamp role dom kind result what old new aux).marline = s.marline := by unfold State.recordAs; split <;> simp
@[simp] theorem State.recordAs_boot (stamp role dom kind result what old new aux : Nat) :
    (s.recordAs stamp role dom kind result what old new aux).boot = s.boot := by unfold State.recordAs; split <;> simp
@[simp] theorem State.recordAs_mem (stamp role dom kind result what old new aux : Nat) :
    (s.recordAs stamp role dom kind result what old new aux).mem = s.mem := by unfold State.recordAs; split <;> simp
@[simp] theorem State.recordAs_whip (stamp role dom kind result what old new aux : Nat) :
    (s.recordAs stamp role dom kind result what old new aux).whip = s.whip := by unfold State.recordAs; split <;> simp
@[simp] theorem State.recordAs_strand (stamp role dom kind result what old new aux : Nat) :
    (s.recordAs stamp role dom kind result what old new aux).strand = s.strand := by unfold State.recordAs; split <;> simp
@[simp] theorem State.recordAs_braid (stamp role dom kind result what old new aux : Nat) :
    (s.recordAs stamp role dom kind result what old new aux).braid = s.braid := by unfold State.recordAs; split <;> simp
@[simp] theorem State.recordAs_splice (stamp role dom kind result what old new aux : Nat) :
    (s.recordAs stamp role dom kind result what old new aux).splice = s.splice := by unfold State.recordAs; split <;> simp
@[simp] theorem State.recordAs_halyard (stamp role dom kind result what old new aux : Nat) :
    (s.recordAs stamp role dom kind result what old new aux).halyard = s.halyard := by unfold State.recordAs; split <;> simp
@[simp] theorem State.recordAs_bight (stamp role dom kind result what old new aux : Nat) :
    (s.recordAs stamp role dom kind result what old new aux).bight = s.bight := by unfold State.recordAs; split <;> simp
@[simp] theorem State.recordAs_cleat (stamp role dom kind result what old new aux : Nat) :
    (s.recordAs stamp role dom kind result what old new aux).cleat = s.cleat := by unfold State.recordAs; split <;> simp
@[simp] theorem State.recordAs_twine (stamp role dom kind result what old new aux : Nat) :
    (s.recordAs stamp role dom kind result what old new aux).twine = s.twine := by unfold State.recordAs; split <;> simp
@[simp] theorem State.recordAs_clients (stamp role dom kind result what old new aux : Nat) :
    (s.recordAs stamp role dom kind result what old new aux).clients = s.clients := by unfold State.recordAs; split <;> simp
@[simp] theorem State.recordAs_leafFail (stamp role dom kind result what old new aux : Nat) :
    (s.recordAs stamp role dom kind result what old new aux).leafFail = s.leafFail := by unfold State.recordAs; split <;> simp
@[simp] theorem State.recordAs_groups (stamp role dom kind result what old new aux : Nat) :
    (s.recordAs stamp role dom kind result what old new aux).groups = s.groups := by unfold State.recordAs; split <;> simp
@[simp] theorem State.recordAs_kcs (stamp role dom kind result what old new aux : Nat) :
    (s.recordAs stamp role dom kind result what old new aux).kcs = s.kcs := by unfold State.recordAs; split <;> simp
@[simp] theorem State.recordAs_keks (stamp role dom kind result what old new aux : Nat) :
    (s.recordAs stamp role dom kind result what old new aux).keks = s.keks := by unfold State.recordAs; split <;> simp
@[simp] theorem State.recordAs_hitch (stamp role dom kind result what old new aux : Nat) :
    (s.recordAs stamp role dom kind result what old new aux).hitch = s.hitch := by unfold State.recordAs; split <;> simp
@[simp] theorem State.recordAs_lanyard (stamp role dom kind result what old new aux : Nat) :
    (s.recordAs stamp role dom kind result what old new aux).lanyard = s.lanyard := by unfold State.recordAs; split <;> simp
@[simp] theorem State.recordAs_belay (stamp role dom kind result what old new aux : Nat) :
    (s.recordAs stamp role dom kind result what old new aux).belay = s.belay := by unfold State.recordAs; split <;> simp
@[simp] theorem State.recordAs_age (stamp role dom kind result what old new aux : Nat) :
    (s.recordAs stamp role dom kind result what old new aux).age = s.age := by unfold State.recordAs; split <;> simp
@[simp] theorem State.recordAs_tally (stamp role dom kind result what old new aux : Nat) :
    (s.recordAs stamp role dom kind result what old new aux).tally = s.tally := by unfold State.recordAs; split <;> simp
@[simp] theorem State.recordAs_fathom (stamp role dom kind result what old new aux : Nat) :
    (s.recordAs stamp role dom kind result what old new aux).fathom = s.fathom := by unfold State.recordAs; split <;> simp
@[simp] theorem State.recordAs_out (stamp role dom kind result what old new aux : Nat) :
    (s.recordAs stamp role dom kind result what old new aux).out = s.out := by unfold State.recordAs; split <;> simp
@[simp] theorem State.recordAs_discards (stamp role dom kind result what old new aux : Nat) :
    (s.recordAs stamp role dom kind result what old new aux).discards = s.discards := by unfold State.recordAs; split <;> simp
@[simp] theorem State.recordAs_pending (stamp role dom kind result what old new aux : Nat) :
    (s.recordAs stamp role dom kind result what old new aux).pending = s.pending := by unfold State.recordAs; split <;> simp
theorem State.rd_recordAs (f : Fld) (stamp role dom kind result what old new aux : Nat) (i j k : Nat) (h : f.id ≠ .MRLN_NV_ST) :
    (s.recordAs stamp role dom kind result what old new aux).rd f i j k = s.rd f i j k := by
  unfold State.recordAs
  split
  · rfl
  · dsimp only
    rw [State.rd_wr_other _ _ _ _ _ _ _ _ _ _ (fun e => h e.1)]
    rfl

theorem State.get_recordAs (r : RegKey) (stamp role dom kind result what old new aux : Nat) (h : r.id ≠ .MRLN_NV_ST) :
    (s.recordAs stamp role dom kind result what old new aux).regs.get r = s.regs.get r := by
  unfold State.recordAs
  split
  · rfl
  · dsimp only
    rw [State.get_wr_other _ _ _ _ _ _ _ (fun e => h (by rw [e]))]
    rfl

/-- One record is appended where the buffer has room, with what it says of the action. -/
theorem State.recordAs_journal (stamp role dom kind result what old new aux : Nat)
    (h : s.journal.buffer.length < 1024) : ∃ r : JRec,
    (s.recordAs stamp role dom kind result what old new aux).journal.buffer = s.journal.buffer ++ [r] ∧ r.seq = s.journal.lastSeq + 1 ∧
      r.role = role ∧ r.dom = dom ∧ r.kind = kind ∧ r.result = result ∧ r.what = what ∧ r.old = old ∧ r.new = new ∧ r.aux = aux := by
  unfold State.recordAs
  rw [if_neg (by omega)]
  exact ⟨_, rfl, rfl, rfl, rfl, rfl, rfl, rfl, rfl, rfl, rfl⟩

theorem State.recordAs_length (stamp role dom kind result what old new aux : Nat)
    (h : s.journal.buffer.length < 1024) : (s.recordAs stamp role dom kind result what old new aux).journal.buffer.length = s.journal.buffer.length + 1 := by
  obtain ⟨r, e, -⟩ := s.recordAs_journal stamp role dom kind result what old new aux h
  rw [e]; simp



@[simp] theorem State.record_shadow (req : Requester) (role dom kind result what old new aux : Nat) :
    (s.record req role dom kind result what old new aux).shadow = s.shadow := State.recordAs_shadow s _ role dom kind result what old new aux
@[simp] theorem State.record_latches (req : Requester) (role dom kind result what old new aux : Nat) :
    (s.record req role dom kind result what old new aux).latches = s.latches := State.recordAs_latches s _ role dom kind result what old new aux
@[simp] theorem State.record_tod (req : Requester) (role dom kind result what old new aux : Nat) :
    (s.record req role dom kind result what old new aux).tod = s.tod := State.recordAs_tod s _ role dom kind result what old new aux
@[simp] theorem State.record_pins (req : Requester) (role dom kind result what old new aux : Nat) :
    (s.record req role dom kind result what old new aux).pins = s.pins := State.recordAs_pins s _ role dom kind result what old new aux
@[simp] theorem State.record_rings (req : Requester) (role dom kind result what old new aux : Nat) :
    (s.record req role dom kind result what old new aux).rings = s.rings := State.recordAs_rings s _ role dom kind result what old new aux
@[simp] theorem State.record_inflight (req : Requester) (role dom kind result what old new aux : Nat) :
    (s.record req role dom kind result what old new aux).inflight = s.inflight := State.recordAs_inflight s _ role dom kind result what old new aux
@[simp] theorem State.record_nextCmd (req : Requester) (role dom kind result what old new aux : Nat) :
    (s.record req role dom kind result what old new aux).nextCmd = s.nextCmd := State.recordAs_nextCmd s _ role dom kind result what old new aux
@[simp] theorem State.record_vecs (req : Requester) (role dom kind result what old new aux : Nat) :
    (s.record req role dom kind result what old new aux).vecs = s.vecs := State.recordAs_vecs s _ role dom kind result what old new aux
@[simp] theorem State.record_auth (req : Requester) (role dom kind result what old new aux : Nat) :
    (s.record req role dom kind result what old new aux).auth = s.auth := State.recordAs_auth s _ role dom kind result what old new aux
@[simp] theorem State.record_sessLeft (req : Requester) (role dom kind result what old new aux : Nat) :
    (s.record req role dom kind result what old new aux).sessLeft = s.sessLeft := State.recordAs_sessLeft s _ role dom kind result what old new aux
@[simp] theorem State.record_nv (req : Requester) (role dom kind result what old new aux : Nat) :
    (s.record req role dom kind result what old new aux).nv = s.nv := State.recordAs_nv s _ role dom kind result what old new aux
@[simp] theorem State.record_marline (req : Requester) (role dom kind result what old new aux : Nat) :
    (s.record req role dom kind result what old new aux).marline = s.marline := State.recordAs_marline s _ role dom kind result what old new aux
@[simp] theorem State.record_boot (req : Requester) (role dom kind result what old new aux : Nat) :
    (s.record req role dom kind result what old new aux).boot = s.boot := State.recordAs_boot s _ role dom kind result what old new aux
@[simp] theorem State.record_mem (req : Requester) (role dom kind result what old new aux : Nat) :
    (s.record req role dom kind result what old new aux).mem = s.mem := State.recordAs_mem s _ role dom kind result what old new aux
@[simp] theorem State.record_whip (req : Requester) (role dom kind result what old new aux : Nat) :
    (s.record req role dom kind result what old new aux).whip = s.whip := State.recordAs_whip s _ role dom kind result what old new aux
@[simp] theorem State.record_strand (req : Requester) (role dom kind result what old new aux : Nat) :
    (s.record req role dom kind result what old new aux).strand = s.strand := State.recordAs_strand s _ role dom kind result what old new aux
@[simp] theorem State.record_braid (req : Requester) (role dom kind result what old new aux : Nat) :
    (s.record req role dom kind result what old new aux).braid = s.braid := State.recordAs_braid s _ role dom kind result what old new aux
@[simp] theorem State.record_splice (req : Requester) (role dom kind result what old new aux : Nat) :
    (s.record req role dom kind result what old new aux).splice = s.splice := State.recordAs_splice s _ role dom kind result what old new aux
@[simp] theorem State.record_halyard (req : Requester) (role dom kind result what old new aux : Nat) :
    (s.record req role dom kind result what old new aux).halyard = s.halyard := State.recordAs_halyard s _ role dom kind result what old new aux
@[simp] theorem State.record_bight (req : Requester) (role dom kind result what old new aux : Nat) :
    (s.record req role dom kind result what old new aux).bight = s.bight := State.recordAs_bight s _ role dom kind result what old new aux
@[simp] theorem State.record_cleat (req : Requester) (role dom kind result what old new aux : Nat) :
    (s.record req role dom kind result what old new aux).cleat = s.cleat := State.recordAs_cleat s _ role dom kind result what old new aux
@[simp] theorem State.record_twine (req : Requester) (role dom kind result what old new aux : Nat) :
    (s.record req role dom kind result what old new aux).twine = s.twine := State.recordAs_twine s _ role dom kind result what old new aux
@[simp] theorem State.record_clients (req : Requester) (role dom kind result what old new aux : Nat) :
    (s.record req role dom kind result what old new aux).clients = s.clients := State.recordAs_clients s _ role dom kind result what old new aux
@[simp] theorem State.record_leafFail (req : Requester) (role dom kind result what old new aux : Nat) :
    (s.record req role dom kind result what old new aux).leafFail = s.leafFail := State.recordAs_leafFail s _ role dom kind result what old new aux
@[simp] theorem State.record_groups (req : Requester) (role dom kind result what old new aux : Nat) :
    (s.record req role dom kind result what old new aux).groups = s.groups := State.recordAs_groups s _ role dom kind result what old new aux
@[simp] theorem State.record_kcs (req : Requester) (role dom kind result what old new aux : Nat) :
    (s.record req role dom kind result what old new aux).kcs = s.kcs := State.recordAs_kcs s _ role dom kind result what old new aux
@[simp] theorem State.record_keks (req : Requester) (role dom kind result what old new aux : Nat) :
    (s.record req role dom kind result what old new aux).keks = s.keks := State.recordAs_keks s _ role dom kind result what old new aux
@[simp] theorem State.record_hitch (req : Requester) (role dom kind result what old new aux : Nat) :
    (s.record req role dom kind result what old new aux).hitch = s.hitch := State.recordAs_hitch s _ role dom kind result what old new aux
@[simp] theorem State.record_lanyard (req : Requester) (role dom kind result what old new aux : Nat) :
    (s.record req role dom kind result what old new aux).lanyard = s.lanyard := State.recordAs_lanyard s _ role dom kind result what old new aux
@[simp] theorem State.record_belay (req : Requester) (role dom kind result what old new aux : Nat) :
    (s.record req role dom kind result what old new aux).belay = s.belay := State.recordAs_belay s _ role dom kind result what old new aux
@[simp] theorem State.record_age (req : Requester) (role dom kind result what old new aux : Nat) :
    (s.record req role dom kind result what old new aux).age = s.age := State.recordAs_age s _ role dom kind result what old new aux
@[simp] theorem State.record_tally (req : Requester) (role dom kind result what old new aux : Nat) :
    (s.record req role dom kind result what old new aux).tally = s.tally := State.recordAs_tally s _ role dom kind result what old new aux
@[simp] theorem State.record_fathom (req : Requester) (role dom kind result what old new aux : Nat) :
    (s.record req role dom kind result what old new aux).fathom = s.fathom := State.recordAs_fathom s _ role dom kind result what old new aux
@[simp] theorem State.record_out (req : Requester) (role dom kind result what old new aux : Nat) :
    (s.record req role dom kind result what old new aux).out = s.out := State.recordAs_out s _ role dom kind result what old new aux
@[simp] theorem State.record_discards (req : Requester) (role dom kind result what old new aux : Nat) :
    (s.record req role dom kind result what old new aux).discards = s.discards := State.recordAs_discards s _ role dom kind result what old new aux
@[simp] theorem State.record_pending (req : Requester) (role dom kind result what old new aux : Nat) :
    (s.record req role dom kind result what old new aux).pending = s.pending := State.recordAs_pending s _ role dom kind result what old new aux
theorem State.rd_record (f : Fld) (req : Requester) (role dom kind result what old new aux : Nat) (i j k : Nat) (h : f.id ≠ .MRLN_NV_ST) :
    (s.record req role dom kind result what old new aux).rd f i j k = s.rd f i j k := by
  unfold State.record
  exact State.rd_recordAs s f _ role dom kind result what old new aux i j k h

theorem State.get_record (r : RegKey) (req : Requester) (role dom kind result what old new aux : Nat) (h : r.id ≠ .MRLN_NV_ST) :
    (s.record req role dom kind result what old new aux).regs.get r = s.regs.get r := by
  unfold State.record
  exact State.get_recordAs s r _ role dom kind result what old new aux h

/-- One record is appended where the buffer has room, with what it says of the action. -/
theorem State.record_journal (req : Requester) (role dom kind result what old new aux : Nat)
    (h : s.journal.buffer.length < 1024) : ∃ r : JRec,
    (s.record req role dom kind result what old new aux).journal.buffer = s.journal.buffer ++ [r] ∧ r.seq = s.journal.lastSeq + 1 ∧
      r.role = role ∧ r.dom = dom ∧ r.kind = kind ∧ r.result = result ∧ r.what = what ∧ r.old = old ∧ r.new = new ∧ r.aux = aux := by
  unfold State.record State.recordAs
  rw [if_neg (by omega)]
  exact ⟨_, rfl, rfl, rfl, rfl, rfl, rfl, rfl, rfl, rfl, rfl⟩

theorem State.record_length (req : Requester) (role dom kind result what old new aux : Nat)
    (h : s.journal.buffer.length < 1024) : (s.record req role dom kind result what old new aux).journal.buffer.length = s.journal.buffer.length + 1 := by
  obtain ⟨r, e, -⟩ := s.record_journal req role dom kind result what old new aux h
  rw [e]; simp



/-- A journal that is not held has room for a record. -/
theorem State.journal_room (h : s.journalBlocked = false) : s.journal.buffer.length < 1024 := by
  unfold State.journalBlocked at h
  simp only [Bool.or_eq_false_iff, decide_eq_false_iff_not] at h
  omega

/-- A write with Installer or Maker rights and a journal that can take it takes effect and is journaled. -/
theorem State.write_journaled (req : Requester) (need : Nat) (doms : List Nat) (addr old new : Nat) (opJournal : Bool)
    (f : State → State) (hp : s.permits req need doms = true) (hr : 2 ≤ s.topRole req doms) (hj : s.journalBlocked = false) :
    s.write req need doms addr old new opJournal f =
      (f s).record req (s.topRole req doms) (doms.headD 0) 1 0 addr old new 0 := by
  unfold State.write
  simp [hp, hr, hj]

/-- A write with Operator rights, where those suffice and are not journaled, takes effect. -/
theorem State.write_plain (req : Requester) (need : Nat) (doms : List Nat) (addr old new : Nat) (f : State → State)
    (hp : s.permits req need doms = true) (hr : s.topRole req doms < 2) : s.write req need doms addr old new false f = f s := by
  unfold State.write
  have : ¬2 ≤ s.topRole req doms := by omega
  simp [hp, this]

/-- The highest role in one domain is the role there. -/
@[simp] theorem State.topRole_one (req : Requester) (d : Nat) : s.topRole req [d] = s.roleIn req d := by
  unfold State.topRole; simp

@[simp] theorem State.permits_one (req : Requester) (n d : Nat) : s.permits req n [d] = decide (n ≤ s.roleIn req d) := by
  simp [State.permits]

/-! ### When a command acts -/

theorem State.alive_of (b : Nat) (hu : s.boot.coreUp = true) (hh : (s.rd .TOP_FAULT_HELD).testBit b = false) : s.alive b = true := by
  unfold State.alive; rw [hu, hh]; simp

theorem access_next (req : Requester) (b : Nat) (f : State → State) (h : s.alive b = true) (hi : req ≠ .i3c) :
    access req b s f = .next (f (s.dropLatch req)) := by
  have h' : (s.dropLatch req).alive b = true := h
  unfold access; rw [if_pos (by simp [h', hi])]

@[simp] theorem State.alive_dropLatch (req : Requester) (b : Nat) : (s.dropLatch req).alive b = s.alive b := rfl
@[simp] theorem State.roleIn_dropLatch (req q : Requester) (d : Nat) : (s.dropLatch req).roleIn q d = s.roleIn q d := rfl
@[simp] theorem State.journalBlocked_dropLatch (req : Requester) : (s.dropLatch req).journalBlocked = s.journalBlocked := rfl
@[simp] theorem State.permits_dropLatch (req q : Requester) (n : Nat) (d : List Nat) :
    (s.dropLatch req).permits q n d = s.permits q n d := rfl

theorem act_next (b : Nat) (f : State → State) (h : s.alive b = true) : act b s f = .next (f s) := by
  unfold act; rw [h]; rfl

theorem act_held (b : Nat) (f : State → State) (h : s.alive b = false) : act b s f = .next s := by
  unfold act; rw [h]; rfl

end Sys2Proof.Machine
end

