-- ==== Sys2Proof/Laws/PerInstr.lean ====
section
/-! SUPPORT. A fact about every command as syntax: a well-formed command that carries a register address carries one that lies in BAR0
with all the bytes it touches (Table 13.3, R8). -/

-- The proofs of the whole text do not run side by side: their memory adds up.
set_option Elab.async false

namespace Sys2Proof.Laws.Wf

open Sys2Proof

/-- The register address that a command carries, with the number of bytes touched. -/
def access : Instr → Option (Nat × Nat)
  | .registerWrite _ addr wide _ => some (addr, (if wide then 8 else 4))
  | .malformedAccess _ addr bytes _ => some (addr, bytes)
  | .lowHalfRead _ addr => some (addr, 4)
  | .highHalfRead _ addr => some (addr, 4)
  | .counterWrite _ addr wide _ _ => some (addr, (if wide then 8 else 4))
  | .registerRead _ addr wide => some (addr, (if wide then 8 else 4))
  | _ => none

/-- The address that a well-formed command carries lies in BAR0 with its bytes. -/
def Statement (i : Instr) : Prop := i.wf = true → ∀ a n, access i = some (a, n) → a + n ≤ 2 ^ 27

theorem registerWrite (req : Requester) (addr : Nat) (wide : Bool) (value : Nat) : Statement (.registerWrite req addr wide value) := by
  intro h a n e
  cases e
  simp only [Instr.wf, regForm, inBar0, Bool.and_eq_true, decide_eq_true_eq] at h
  omega
theorem malformedAccess (req : Requester) (addr : Nat) (bytes : Nat) (read : Bool) : Statement (.malformedAccess req addr bytes read) := by
  intro h a n e
  cases e
  simp only [Instr.wf, inBar0, Bool.and_eq_true, decide_eq_true_eq] at h
  omega
theorem lowHalfRead (req : Requester) (addr : Nat) : Statement (.lowHalfRead req addr) := by
  intro h a n e
  cases e
  simp only [Instr.wf, inBar0, Bool.and_eq_true, decide_eq_true_eq] at h
  omega
theorem highHalfRead (req : Requester) (addr : Nat) : Statement (.highHalfRead req addr) := by
  intro h a n e
  cases e
  simp only [Instr.wf, inBar0, Bool.and_eq_true, decide_eq_true_eq] at h
  omega
theorem commit (req : Requester) (block : Block) (crc : BitVec 32) : Statement (.commit req block crc) := by intro _ _ _ h; cases h
theorem fifoRecentre (dom : ClockDom) (inFrame : Bool) : Statement (.fifoRecentre dom inFrame) := by intro _ _ _ h; cases h
theorem loadingEvaluation (n : Line) : Statement (.loadingEvaluation n) := by intro _ _ _ h; cases h
theorem manGo (req : Requester) (n : Line) : Statement (.manGo req n) := by intro _ _ _ h; cases h
theorem mobReceived (n : Line) : Statement (.mobReceived n) := by intro _ _ _ h; cases h
theorem armTimeout (n : Line) : Statement (.armTimeout n) := by intro _ _ _ h; cases h
theorem countdownTick (n : Line) : Statement (.countdownTick n) := by intro _ _ _ h; cases h
theorem rxTableSwitch (n : Line) : Statement (.rxTableSwitch n) := by intro _ _ _ h; cases h
theorem rxFallback (n : Line) : Statement (.rxFallback n) := by intro _ _ _ h; cases h
theorem forcedReversion (n : Line) : Statement (.forcedReversion n) := by intro _ _ _ h; cases h
theorem pdTableWrite (req : Requester) (n : Line) (lut : Bool) (t : Trib) (idx : Nat) (value : Nat) :
    Statement (.pdTableWrite req n lut t idx value) := by intro _ _ _ h; cases h
theorem dacFgReq (req : Requester) (n : Line) : Statement (.dacFgReq req n) := by intro _ _ _ h; cases h
theorem dacFgCalDone (n : Line) (ok : Bool) (t : Trib) (cal : List (List Calib)) : Statement (.dacFgCalDone n ok t cal) := by
  intro _ _ _ h; cases h
theorem dacBgCalUpdate (n : Line) (t : Trib) (c : List Calib) : Statement (.dacBgCalUpdate n t c) := by intro _ _ _ h; cases h
theorem adcFgReq (req : Requester) (n : Line) : Statement (.adcFgReq req n) := by intro _ _ _ h; cases h
theorem adcFgCalDone (n : Line) (ok : Bool) (t : Trib) (cal : List (List Calib)) : Statement (.adcFgCalDone n ok t cal) := by
  intro _ _ _ h; cases h
theorem adcBgCalUpdate (n : Line) (t : Trib) (c : List Calib) : Statement (.adcBgCalUpdate n t c) := by intro _ _ _ h; cases h
theorem modulationFrame (n : Line) (above : Bool) (marker : Bool) : Statement (.modulationFrame n above marker) := by
  intro _ _ _ h; cases h
theorem markerLost (n : Line) : Statement (.markerLost n) := by intro _ _ _ h; cases h
theorem freqSearchDone (n : Line) : Statement (.freqSearchDone n) := by intro _ _ _ h; cases h
theorem cdSearchDone (n : Line) : Statement (.cdSearchDone n) := by intro _ _ _ h; cases h
theorem timingDone (n : Line) : Statement (.timingDone n) := by intro _ _ _ h; cases h
theorem blindConvergeDone (n : Line) (sub : Option Slot) : Statement (.blindConvergeDone n sub) := by intro _ _ _ h; cases h
theorem pilotLockDone (n : Line) (sub : Option Slot) : Statement (.pilotLockDone n sub) := by intro _ _ _ h; cases h
theorem acqBoundExpiry (n : Line) (sub : Option Slot) : Statement (.acqBoundExpiry n sub) := by intro _ _ _ h; cases h
theorem rawLosWindow (n : Line) (power : Nat) (pin : Bool) : Statement (.rawLosWindow n power pin) := by intro _ _ _ h; cases h
theorem freezeHoldExpiry (n : Line) (clear : Bool) : Statement (.freezeHoldExpiry n clear) := by intro _ _ _ h; cases h
theorem freeze (req : Requester) (n : Line) : Statement (.freeze req n) := by intro _ _ _ h; cases h
theorem unfreeze (req : Requester) (n : Line) : Statement (.unfreeze req n) := by intro _ _ _ h; cases h
theorem reacq (req : Requester) (n : Line) : Statement (.reacq req n) := by intro _ _ _ h; cases h
theorem subcarrierDiverge (n : Line) (slot : Slot) (majority : Bool) : Statement (.subcarrierDiverge n slot majority) := by
  intro _ _ _ h; cases h
theorem tapDemandReport (n : Line) (slot : Slot) (demand : Nat) : Statement (.tapDemandReport n slot demand) := by intro _ _ _ h; cases h
theorem estimateRefresh (n : Line) (est : Estimate) : Statement (.estimateRefresh n est) := by intro _ _ _ h; cases h
theorem chanSwap (n : Line) (values : List (Nat × Nat)) : Statement (.chanSwap n values) := by intro _ _ _ h; cases h
theorem phaseSlip (n : Line) : Statement (.phaseSlip n) := by intro _ _ _ h; cases h
theorem periodStart (n : Line) : Statement (.periodStart n) := by intro _ _ _ h; cases h
theorem mapComplete (n : Line) : Statement (.mapComplete n) := by intro _ _ _ h; cases h
theorem controlBlock (n : Line) (offset : Nat) : Statement (.controlBlock n offset) := by intro _ _ _ h; cases h
theorem detectionWindowOpen (n : Line) (f : Slot) (leaf : Option Leaf) : Statement (.detectionWindowOpen n f leaf) := by
  intro _ _ _ h; cases h
theorem provisionalLock (n : Line) (f : Slot) (corrB : Bool) (metric symbol : Nat) : Statement (.provisionalLock n f corrB metric symbol) := by
  intro _ _ _ h; cases h
theorem burstHeaderDecoded (n : Line) (f : Slot) (soft : List Int) (arrival : Nat) (ofs : Int) :
    Statement (.burstHeaderDecoded n f soft arrival ofs) := by intro _ _ _ h; cases h
theorem capture (n : Line) (f : Slot) (power peak : Bool) (symbol got : Nat) : Statement (.capture n f power peak symbol got) := by
  intro _ _ _ h; cases h
theorem burstEnd (n : Line) (f : Slot) (foff : BitVec 16) (power snr : BitVec 8) (state : List Byte) :
    Statement (.burstEnd n f foff power snr state) := by intro _ _ _ h; cases h
theorem detectionWindowClose (n : Line) (f : Slot) : Statement (.detectionWindowClose n f) := by intro _ _ _ h; cases h
theorem staleTimeout (n : Line) (leaf : Leaf) : Statement (.staleTimeout n leaf) := by intro _ _ _ h; cases h
theorem discoveryCycle (n : Line) : Statement (.discoveryCycle n) := by intro _ _ _ h; cases h
theorem upProfileEvaluation (n : Line) (leaf : Leaf) : Statement (.upProfileEvaluation n leaf) := by intro _ _ _ h; cases h
theorem dnLoadingEvaluation (n : Line) (slot : Slot) : Statement (.dnLoadingEvaluation n slot) := by intro _ _ _ h; cases h
theorem dnLoadSwitch (n : Line) (slot : Slot) : Statement (.dnLoadSwitch n slot) := by intro _ _ _ h; cases h
theorem burstDecodeDone (n : Line) (leaf : Leaf) (soft : List Int) : Statement (.burstDecodeDone n leaf soft) := by intro _ _ _ h; cases h
theorem leafRerange (h : Nat) : Statement (.leafRerange h) := by intro _ _ _ h; cases h
theorem leafStatus (h : Nat) : Statement (.leafStatus h) := by intro _ _ _ h; cases h
theorem leafMgmt (h : Nat) : Statement (.leafMgmt h) := by intro _ _ _ h; cases h
theorem windowShift (n : Line) (slot : Slot) (soft : List Int) : Statement (.windowShift n slot soft) := by intro _ _ _ h; cases h
theorem ngmiMeasure (n : Line) : Statement (.ngmiMeasure n) := by intro _ _ _ h; cases h
theorem shortSecond (n : Line) (slot : Slot) : Statement (.shortSecond n slot) := by intro _ _ _ h; cases h
theorem lashingCodeword (n : Line) : Statement (.lashingCodeword n) := by intro _ _ _ h; cases h
theorem fecSdSecond (n : Line) : Statement (.fecSdSecond n) := by intro _ _ _ h; cases h
theorem ohSwitchTx (n : Line) : Statement (.ohSwitchTx n) := by intro _ _ _ h; cases h
theorem ohSwitchRx (n : Line) : Statement (.ohSwitchRx n) := by intro _ _ _ h; cases h
theorem frameTransmit (n : Line) (f : Byte) : Statement (.frameTransmit n f) := by intro _ _ _ h; cases h
theorem fawMatch (n : Line) (pos : Nat) : Statement (.fawMatch n pos) := by intro _ _ _ h; cases h
theorem candidateCheck (n : Line) (i : Nat) : Statement (.candidateCheck n i) := by intro _ _ _ h; cases h
theorem frameReceived (n : Line) : Statement (.frameReceived n) := by intro _ _ _ h; cases h
theorem outOfFrame (n : Line) : Statement (.outOfFrame n) := by intro _ _ _ h; cases h
theorem outOfMultiframe (n : Line) : Statement (.outOfMultiframe n) := by intro _ _ _ h; cases h
theorem defectPersistenceExpiry (n : Line) (lom : Bool) : Statement (.defectPersistenceExpiry n lom) := by intro _ _ _ h; cases h
theorem ssfClear (n : Line) : Statement (.ssfClear n) := by intro _ _ _ h; cases h
theorem burstFrameReceived (n : Line) (leaf : Leaf) : Statement (.burstFrameReceived n leaf) := by intro _ _ _ h; cases h
theorem pmWindowEnd (n : Line) : Statement (.pmWindowEnd n) := by intro _ _ _ h; cases h
theorem pmWindowCommit (n : Line) : Statement (.pmWindowCommit n) := by intro _ _ _ h; cases h
theorem intervalRecordWrite (n : Line) (day : Bool) : Statement (.intervalRecordWrite n day) := by intro _ _ _ h; cases h
theorem forceAis (req : Requester) (n : Line) (v : Bool) : Statement (.forceAis req n v) := by intro _ _ _ h; cases h
theorem forceBdi (req : Requester) (n : Line) (v : Bool) : Statement (.forceBdi req n v) := by intro _ _ _ h; cases h
theorem clientFrameIngress (c : Client) (frame : Option (List Byte)) (err lf rf : Bool) (corrected uncorrectable : Nat) :
    Statement (.clientFrameIngress c frame err lf rf corrected uncorrectable) := by intro _ _ _ h; cases h
theorem egressHeader (c : Client) (sent : Nat) : Statement (.egressHeader c sent) := by intro _ _ _ h; cases h
theorem cowReceived (c : Client) : Statement (.cowReceived c) := by intro _ _ _ h; cases h
theorem gmpCmUpdate (c : Client) (target : Nat) (data : List Byte) : Statement (.gmpCmUpdate c target data) := by intro _ _ _ h; cases h
theorem egressResume (c : Client) : Statement (.egressResume c) := by intro _ _ _ h; cases h
theorem laneConverged (l : Lane) (snr : Nat) : Statement (.laneConverged l snr) := by intro _ _ _ h; cases h
theorem trainingComplete (l : Lane) : Statement (.trainingComplete l) := by intro _ _ _ h; cases h
theorem trainingTimerExpiry (l : Lane) (fault : Bool) : Statement (.trainingTimerExpiry l fault) := by intro _ _ _ h; cases h
theorem untrainedRetry (l : Lane) : Statement (.untrainedRetry l) := by intro _ _ _ h; cases h
theorem laneLos (l : Lane) : Statement (.laneLos l) := by intro _ _ _ h; cases h
theorem laneLosClear (l : Lane) : Statement (.laneLosClear l) := by intro _ _ _ h; cases h
theorem cdrLoss (l : Lane) : Statement (.cdrLoss l) := by intro _ _ _ h; cases h
theorem coeffRequest (l : Lane) (t : Fin 5) (delta : Int) : Statement (.coeffRequest l t delta) := by intro _ _ _ h; cases h
theorem txffeWrite (req : Requester) (l : Lane) (v : BitVec 32) : Statement (.txffeWrite req l v) := by intro _ _ _ h; cases h
theorem scanReq (req : Requester) (l : Lane) : Statement (.scanReq req l) := by intro _ _ _ h; cases h
theorem marginScanAuto (l : Lane) : Statement (.marginScanAuto l) := by intro _ _ _ h; cases h
theorem scanDone (l : Lane) (sweeps : List (List Nat)) : Statement (.scanDone l sweeps) := by intro _ _ _ h; cases h
theorem loopbackSlip (l : Lane) : Statement (.loopbackSlip l) := by intro _ _ _ h; cases h
theorem segmentClose (k : Kc) : Statement (.segmentClose k) := by intro _ _ _ h; cases h
theorem tagWaitExpiry (k : Kc) : Statement (.tagWaitExpiry k) := by intro _ _ _ h; cases h
theorem rekeyTimer (k : Kc) : Statement (.rekeyTimer k) := by intro _ _ _ h; cases h
theorem kxConfirmTimeout (k : Kc) : Statement (.kxConfirmTimeout k) := by intro _ _ _ h; cases h
theorem kxRetry (k : Kc) : Statement (.kxRetry k) := by intro _ _ _ h; cases h
theorem keyLoad (h : Nat) : Statement (.keyLoad h) := by intro _ _ _ h; cases h
theorem keySwitch (h : Nat) : Statement (.keySwitch h) := by intro _ _ _ h; cases h
theorem keyZero (h : Nat) : Statement (.keyZero h) := by intro _ _ _ h; cases h
theorem keyClearAf (h : Nat) : Statement (.keyClearAf h) := by intro _ _ _ h; cases h
theorem keyStatus (h : Nat) : Statement (.keyStatus h) := by intro _ _ _ h; cases h
theorem linkLoad (h : Nat) : Statement (.linkLoad h) := by intro _ _ _ h; cases h
theorem unitCopyComplete (g : Pg) (p : Path) (time : Nat) : Statement (.unitCopyComplete g p time) := by intro _ _ _ h; cases h
theorem unitPlayout (g : Pg) (q : BitVec 32) (j now : Nat) (late : Option MemPort) : Statement (.unitPlayout g q j now late) := by
  intro _ _ _ h; cases h
theorem deltaMeasure (g : Pg) : Statement (.deltaMeasure g) := by intro _ _ _ h; cases h
theorem outOfWindow (g : Pg) (p : Path) : Statement (.outOfWindow g p) := by intro _ _ _ h; cases h
theorem pathWtrExpiry (g : Pg) (p : Path) : Statement (.pathWtrExpiry g p) := by intro _ _ _ h; cases h
theorem autoRealign (g : Pg) (p : Path) : Statement (.autoRealign g p) := by intro _ _ _ h; cases h
theorem lockstepRecordReceived (r : List Byte) (lag : Nat) : Statement (.lockstepRecordReceived r lag) := by intro _ _ _ h; cases h
theorem lockstepLoss (g : Pg) : Statement (.lockstepLoss g) := by intro _ _ _ h; cases h
theorem pgLockout (h : Nat) : Statement (.pgLockout h) := by intro _ _ _ h; cases h
theorem pgForce (h : Nat) : Statement (.pgForce h) := by intro _ _ _ h; cases h
theorem pgClear (h : Nat) : Statement (.pgClear h) := by intro _ _ _ h; cases h
theorem pgRealign (h : Nat) : Statement (.pgRealign h) := by intro _ _ _ h; cases h
theorem pgStatus (h : Nat) : Statement (.pgStatus h) := by intro _ _ _ h; cases h
theorem helloSend : Statement (.helloSend) := by intro _ _ _ h; cases h
theorem helloReceived (p : List Byte) (bad : Bool) (synced : BitVec 4) : Statement (.helloReceived p bad synced) := by
  intro _ _ _ h; cases h
theorem creditSend : Statement (.creditSend) := by intro _ _ _ h; cases h
theorem creditReceived (p : List Byte) (bad : Bool) : Statement (.creditReceived p bad) := by intro _ _ _ h; cases h
theorem ckptPacketReceived (p : List Byte) (bad : Bool) : Statement (.ckptPacketReceived p bad) := by intro _ _ _ h; cases h
theorem trainingAttemptExpiry : Statement (.trainingAttemptExpiry) := by intro _ _ _ h; cases h
theorem helloTimeout : Statement (.helloTimeout) := by intro _ _ _ h; cases h
theorem mateLaneSyncLoss (l : MateLane) : Statement (.mateLaneSyncLoss l) := by intro _ _ _ h; cases h
theorem mateAbsentRetry : Statement (.mateAbsentRetry) := by intro _ _ _ h; cases h
theorem mateScanReq (req : Requester) (l : MateLane) : Statement (.mateScanReq req l) := by intro _ _ _ h; cases h
theorem mateScanDone (l : MateLane) (sweeps : List (List Nat)) : Statement (.mateScanDone l sweeps) := by intro _ _ _ h; cases h
theorem partnerClaimChange (level : Bool) : Statement (.partnerClaimChange level) := by intro _ _ _ h; cases h
theorem takeoverRestoreDone (elapsed : Nat) : Statement (.takeoverRestoreDone elapsed) := by intro _ _ _ h; cases h
theorem claimFrameReceived (w : BitVec 32) : Statement (.claimFrameReceived w) := by intro _ _ _ h; cases h
theorem claimGapDone : Statement (.claimGapDone) := by intro _ _ _ h; cases h
theorem checkpointSetDue (sent : Bool) : Statement (.checkpointSetDue sent) := by intro _ _ _ h; cases h
theorem checkpointSetReceived : Statement (.checkpointSetReceived) := by intro _ _ _ h; cases h
theorem checkpointSelfWrite : Statement (.checkpointSelfWrite) := by intro _ _ _ h; cases h
theorem rehearsal (faulted : Bool) : Statement (.rehearsal faulted) := by intro _ _ _ h; cases h
theorem refActivityLoss (r : Ref) : Statement (.refActivityLoss r) := by intro _ _ _ h; cases h
theorem refActivityReturn (r : Ref) : Statement (.refActivityReturn r) := by intro _ _ _ h; cases h
theorem freqMonitorUpdate (foffs : List Int) (freq : Int) : Statement (.freqMonitorUpdate foffs freq) := by intro _ _ _ h; cases h
theorem ppsInPulse (interval : Nat) : Statement (.ppsInPulse interval) := by intro _ _ _ h; cases h
theorem refWtrExpiry (r : Ref) : Statement (.refWtrExpiry r) := by intro _ _ _ h; cases h
theorem selectionBoundary (means : List Int) : Statement (.selectionBoundary means) := by intro _ _ _ h; cases h
theorem buildOutDone : Statement (.buildOutDone) := by intro _ _ _ h; cases h
theorem dpllLocked : Statement (.dpllLocked) := by intro _ _ _ h; cases h
theorem holdoverDegrade : Statement (.holdoverDegrade) := by intro _ _ _ h; cases h
theorem disputeEnd (rank : Nat) : Statement (.disputeEnd rank) := by intro _ _ _ h; cases h
theorem modeAutomatic (req : Requester) : Statement (.modeAutomatic req) := by intro _ _ _ h; cases h
theorem forcedHoldover (req : Requester) : Statement (.forcedHoldover req) := by intro _ _ _ h; cases h
theorem forcedFreeRun (req : Requester) : Statement (.forcedFreeRun req) := by intro _ _ _ h; cases h
theorem softwareLoop (req : Requester) : Statement (.softwareLoop req) := by intro _ _ _ h; cases h
theorem ffoWrite (req : Requester) (ffo : BitVec 32) : Statement (.ffoWrite req ffo) := by intro _ _ _ h; cases h
theorem phaseStepGo (req : Requester) (slewed : Bool) (slew : Nat) (amount : BitVec 40) : Statement (.phaseStepGo req slewed slew amount) := by
  intro _ _ _ h; cases h
theorem phaseStepDone : Statement (.phaseStepDone) := by intro _ _ _ h; cases h
theorem todArm (req : Requester) (seconds : BitVec 48) : Statement (.todArm req seconds) := by intro _ _ _ h; cases h
theorem secondRollover : Statement (.secondRollover) := by intro _ _ _ h; cases h
theorem todMessageReceived (m : List Byte) (inWindow : Bool) : Statement (.todMessageReceived m inWindow) := by intro _ _ _ h; cases h
theorem todSnap (req : Requester) : Statement (.todSnap req) := by intro _ _ _ h; cases h
theorem doorbell (req : Requester) (offset bytes : Nat) (value : Option (BitVec 64)) : Statement (.doorbell req offset bytes value) := by
  intro _ _ _ h; cases h
theorem ringCfgWrite (req : Requester) (r : Ring) (w : Fin 4) (v : BitVec 32) : Statement (.ringCfgWrite req r w v) := by
  intro _ _ _ h; cases h
theorem descriptorAccept (r : Ring) (d : DescRead) : Statement (.descriptorAccept r d) := by intro _ _ _ h; cases h
theorem commandCompletion (h : Nat) (ok : Bool) : Statement (.commandCompletion h ok) := by intro _ _ _ h; cases h
theorem commandTimeout (h : Nat) : Statement (.commandTimeout h) := by intro _ _ _ h; cases h
theorem msixTimer (r : Ring) : Statement (.msixTimer r) := by intro _ _ _ h; cases h
theorem msixUnmask (req : Requester) (offset bytes : Nat) (value : Option (BitVec 64)) : Statement (.msixUnmask req offset bytes value) := by
  intro _ _ _ h; cases h
theorem cxlULinkDown : Statement (.cxlULinkDown) := by intro _ _ _ h; cases h
theorem cxlULinkUp (width speed : Nat) (flit : Bool) : Statement (.cxlULinkUp width speed flit) := by intro _ _ _ h; cases h
theorem viralReceived : Statement (.viralReceived) := by intro _ _ _ h; cases h
theorem nop (h : Nat) : Statement (.nop h) := by intro _ _ _ h; cases h
theorem ringQuery (h : Nat) : Statement (.ringQuery h) := by intro _ _ _ h; cases h
theorem memPortEnable (req : Requester) (p : MemPort) : Statement (.memPortEnable req p) := by intro _ _ _ h; cases h
theorem memPortDisable (req : Requester) (p : MemPort) : Statement (.memPortDisable req p) := by intro _ _ _ h; cases h
theorem memLinkUp (p : MemPort) (width speed : Nat) (flit : Bool) : Statement (.memLinkUp p width speed flit) := by intro _ _ _ h; cases h
theorem enumerationDone (p : MemPort) (capacity : Nat) : Statement (.enumerationDone p capacity) := by intro _ _ _ h; cases h
theorem enumerationFault (p : MemPort) (cause : Fin 4) : Statement (.enumerationFault p cause) := by intro _ _ _ h; cases h
theorem memPortFaultRetry (p : MemPort) : Statement (.memPortFaultRetry p) := by intro _ _ _ h; cases h
theorem memLinkDown (p : MemPort) : Statement (.memLinkDown p) := by intro _ _ _ h; cases h
theorem regionCfgWrite (req : Requester) (e : Region) (w : Fin 4) (v : BitVec 32) : Statement (.regionCfgWrite req e w v) := by
  intro _ _ _ h; cases h
theorem regionFillDone (e : Region) : Statement (.regionFillDone e) := by intro _ _ _ h; cases h
theorem poisonRead (e : Region) (off : Nat) (user : PoisonUser) : Statement (.poisonRead e off user) := by intro _ _ _ h; cases h
theorem scrubVisit (i : MemInst) (addr : BitVec 24) (found : Found) (byRead passEnds : Bool) :
    Statement (.scrubVisit i addr found byRead passEnds) := by intro _ _ _ h; cases h
theorem whipInjectArm (req : Requester) (i : MemInst) (kind : BitVec 2) : Statement (.whipInjectArm req i kind) := by
  intro _ _ _ h; cases h
theorem regionStatus (h : Nat) : Statement (.regionStatus h) := by intro _ _ _ h; cases h
theorem regionRefill (h : Nat) : Statement (.regionRefill h) := by intro _ _ _ h; cases h
theorem poisonList (h : Nat) : Statement (.poisonList h) := by intro _ _ _ h; cases h
theorem whipStatus (h : Nat) : Statement (.whipStatus h) := by intro _ _ _ h; cases h
theorem watchdogExpiry (k : Core) : Statement (.watchdogExpiry k) := by intro _ _ _ h; cases h
theorem dataAbort (k : Core) (addr : Nat) (fetch : Bool) : Statement (.dataAbort k addr fetch) := by intro _ _ _ h; cases h
theorem voterDisagree (k : Option (Fin 3)) : Statement (.voterDisagree k) := by intro _ _ _ h; cases h
theorem recoveryDone : Statement (.recoveryDone) := by intro _ _ _ h; cases h
theorem tripleSplit : Statement (.tripleSplit) := by intro _ _ _ h; cases h
theorem jobDispatch (k : Core) (arrived : List Service) : Statement (.jobDispatch k arrived) := by intro _ _ _ h; cases h
theorem jobYield (k : Core) (us : Nat) : Statement (.jobYield k us) := by intro _ _ _ h; cases h
theorem sliceExpiry (k : Core) : Statement (.sliceExpiry k) := by intro _ _ _ h; cases h
theorem coreGrantWindow : Statement (.coreGrantWindow) := by intro _ _ _ h; cases h
theorem mbPost (req : Requester) (m : Chan) (e : ChanEnd) (len : BitVec 5) : Statement (.mbPost req m e len) := by intro _ _ _ h; cases h
theorem mbPop (req : Requester) (m : Chan) (e : ChanEnd) : Statement (.mbPop req m e) := by intro _ _ _ h; cases h
theorem gcc0PacketReceived (n : Line) : Statement (.gcc0PacketReceived n) := by intro _ _ _ h; cases h
theorem svcStatus (h : Nat) : Statement (.svcStatus h) := by intro _ _ _ h; cases h
theorem svcRestart (h : Nat) : Statement (.svcRestart h) := by intro _ _ _ h; cases h
theorem gccSend (h : Nat) : Statement (.gccSend h) := by intro _ _ _ h; cases h
theorem roleChallenge (h : Nat) : Statement (.roleChallenge h) := by intro _ _ _ h; cases h
theorem roleResponse (h : Nat) : Statement (.roleResponse h) := by intro _ _ _ h; cases h
theorem roleDrop (h : Nat) : Statement (.roleDrop h) := by intro _ _ _ h; cases h
theorem roleStatus (h : Nat) : Statement (.roleStatus h) := by intro _ _ _ h; cases h
theorem auditRead (h : Nat) : Statement (.auditRead h) := by intro _ _ _ h; cases h
theorem auditAck (h : Nat) : Statement (.auditAck h) := by intro _ _ _ h; cases h
theorem nvWrite (h : Nat) : Statement (.nvWrite h) := by intro _ _ _ h; cases h
theorem nvCommit (h : Nat) (content : NvContent) : Statement (.nvCommit h content) := by intro _ _ _ h; cases h
theorem otpWrite (h : Nat) : Statement (.otpWrite h) := by intro _ _ _ h; cases h
theorem nvStatus (h : Nat) : Statement (.nvStatus h) := by intro _ _ _ h; cases h
theorem authNew (req : Requester) (entry : BitVec 6) : Statement (.authNew req entry) := by intro _ _ _ h; cases h
theorem authSubmit (req : Requester) (entry : BitVec 6) : Statement (.authSubmit req entry) := by intro _ _ _ h; cases h
theorem lockoutExpiry (req : Requester) : Statement (.lockoutExpiry req) := by intro _ _ _ h; cases h
theorem sessionExpiry (slot : Slot) : Statement (.sessionExpiry slot) := by intro _ _ _ h; cases h
theorem journalPageProgram : Statement (.journalPageProgram) := by intro _ _ _ h; cases h
theorem journalDrain : Statement (.journalDrain) := by intro _ _ _ h; cases h
theorem grantComputation : Statement (.grantComputation) := by intro _ _ _ h; cases h
theorem calGainUpdate (iout : Option (BitVec 16)) : Statement (.calGainUpdate iout) := by intro _ _ _ h; cases h
theorem tjSample (flight : List (Block × Bool)) : Statement (.tjSample flight) := by intro _ _ _ h; cases h
theorem avsRaise (slack : Int) (ack : Bool) : Statement (.avsRaise slack ack) := by intro _ _ _ h; cases h
theorem avsLower (slack : Int) (ack : Bool) : Statement (.avsLower slack ack) := by intro _ _ _ h; cases h
theorem supplyThresholdCross (e : RailEdge) (flight : List (Block × Bool)) : Statement (.supplyThresholdCross e flight) := by
  intro _ _ _ h; cases h
theorem shutdownRestart : Statement (.shutdownRestart) := by intro _ _ _ h; cases h
theorem feedMonitor (share : Fin 101) (long aOk bOk : Bool) : Statement (.feedMonitor share long aOk bOk) := by intro _ _ _ h; cases h
theorem feedOutOfRange (b : Bool) : Statement (.feedOutOfRange b) := by intro _ _ _ h; cases h
theorem holdTest (railOnB railOnA : Bool) : Statement (.holdTest railOnB railOnA) := by intro _ _ _ h; cases h
theorem pdmMeasure (now : List (BitVec 16)) (snr0 snr1 snr2 : BitVec 8) : Statement (.pdmMeasure now snr0 snr1 snr2) := by
  intro _ _ _ h; cases h
theorem ageingReplan : Statement (.ageingReplan) := by intro _ _ _ h; cases h
theorem monTrig (req : Requester) : Statement (.monTrig req) := by intro _ _ _ h; cases h
theorem monTimerTrigger : Statement (.monTimerTrigger) := by intro _ _ _ h; cases h
theorem monStepDone (samples : List (List Sample)) : Statement (.monStepDone samples) := by intro _ _ _ h; cases h
theorem urgGo (req : Requester) (step : BitVec 27) : Statement (.urgGo req step) := by intro _ _ _ h; cases h
theorem monUrgent (h : Nat) : Statement (.monUrgent h) := by intro _ _ _ h; cases h
theorem urgentStepDone (samples : List (List Sample)) : Statement (.urgentStepDone samples) := by intro _ _ _ h; cases h
theorem thermalScan (readings : List Int) : Statement (.thermalScan readings) := by intro _ _ _ h; cases h
theorem commonTrigger (n : Line) (held0 held1 held2 : Nat) : Statement (.commonTrigger n held0 held1 held2) := by intro _ _ _ h; cases h
theorem snapPostDone (n : Line) : Statement (.snapPostDone n) := by intro _ _ _ h; cases h
theorem snapDrainStart (n : Line) : Statement (.snapDrainStart n) := by intro _ _ _ h; cases h
theorem snapDrainDone (n : Line) (unc : Nat) (blocks : List (List Byte)) : Statement (.snapDrainDone n unc blocks) := by
  intro _ _ _ h; cases h
theorem snapArm (h : Nat) : Statement (.snapArm h) := by intro _ _ _ h; cases h
theorem snapDisarm (h : Nat) : Statement (.snapDisarm h) := by intro _ _ _ h; cases h
theorem snapFire (h : Nat) (held0 held1 held2 : Nat) : Statement (.snapFire h held0 held1 held2) := by intro _ _ _ h; cases h
theorem snapStatus (h : Nat) : Statement (.snapStatus h) := by intro _ _ _ h; cases h
theorem dumpTick : Statement (.dumpTick) := by intro _ _ _ h; cases h
theorem dumpDone : Statement (.dumpDone) := by intro _ _ _ h; cases h
theorem counterWrite (req : Requester) (addr : Nat) (wide : Bool) (value : Nat) (inc : Nat) :
    Statement (.counterWrite req addr wide value inc) := by
  intro h a n e
  cases e
  simp only [Instr.wf, regForm, inBar0, Bool.and_eq_true, decide_eq_true_eq] at h
  omega
theorem bwWindowEnd (rd0 wr0 rd1 wr1 rd2 wr2 : Nat) : Statement (.bwWindowEnd rd0 wr0 rd1 wr1 rd2 wr2) := by intro _ _ _ h; cases h
theorem instructionSample (k : Core) (stalled : Bool) (pc cycle : BitVec 64) (skid : Fin 3) :
    Statement (.instructionSample k stalled pc cycle skid) := by intro _ _ _ h; cases h
theorem cntDump (h : Nat) : Statement (.cntDump h) := by intro _ _ _ h; cases h
theorem cntStatus (h : Nat) : Statement (.cntStatus h) := by intro _ _ _ h; cases h
theorem islandPowerOn (flash : Option FlashImage) : Statement (.islandPowerOn flash) := by intro _ _ _ h; cases h
theorem porstAssert (flight : List (Block × Bool)) : Statement (.porstAssert flight) := by intro _ _ _ h; cases h
theorem porstRelease (i3c : BitVec 2) (xspi mfg : Bool) : Statement (.porstRelease i3c xspi mfg) := by intro _ _ _ h; cases h
theorem bootStageDone (ms : BitVec 16) (fails : List (MemInst × Line)) (torn : BitVec 16) (outvoted : BitVec 24) :
    Statement (.bootStageDone ms fails torn outvoted) := by intro _ _ _ h; cases h
theorem bootStageTimeout (ms : BitVec 16) (cause : Fin 6) : Statement (.bootStageTimeout ms cause) := by intro _ _ _ h; cases h
theorem deviceReset (req : Requester) (flight : List (Block × Bool)) : Statement (.deviceReset req flight) := by intro _ _ _ h; cases h
theorem coreReset (req : Requester) (flight : List (Block × Bool)) : Statement (.coreReset req flight) := by intro _ _ _ h; cases h
theorem cxlUReset : Statement (.cxlUReset) := by intro _ _ _ h; cases h
theorem functionLevelReset : Statement (.functionLevelReset) := by intro _ _ _ h; cases h
theorem rootLockLoss : Statement (.rootLockLoss) := by intro _ _ _ h; cases h
theorem rootRelockAttempt : Statement (.rootRelockAttempt) := by intro _ _ _ h; cases h
theorem rootRelocked : Statement (.rootRelocked) := by intro _ _ _ h; cases h
theorem xoLost : Statement (.xoLost) := by intro _ _ _ h; cases h
theorem xoRestored : Statement (.xoRestored) := by intro _ _ _ h; cases h
theorem fltRelease : Statement (.fltRelease) := by intro _ _ _ h; cases h
theorem fltSw (req : Requester) (v : Bool) : Statement (.fltSw req v) := by intro _ _ _ h; cases h
theorem escalationTimeout (flight : List (Block × Bool)) : Statement (.escalationTimeout flight) := by intro _ _ _ h; cases h
theorem registerRead (req : Requester) (addr : Nat) (wide : Bool) : Statement (.registerRead req addr wide) := by
  intro h a n e
  cases e
  simp only [Instr.wf, regForm, inBar0, Bool.and_eq_true, decide_eq_true_eq] at h
  omega
theorem bootStRead (req : Requester) : Statement (.bootStRead req) := by intro _ _ _ h; cases h
theorem pwrWarn (low : Bool) : Statement (.pwrWarn low) := by intro _ _ _ h; cases h
theorem ingressCsf (c : Client) : Statement (.ingressCsf c) := by intro _ _ _ h; cases h
theorem ingressCsfClear (c : Client) : Statement (.ingressCsfClear c) := by intro _ _ _ h; cases h
theorem partnerDataLoss (p : MemPort) (lo hi : Nat) : Statement (.partnerDataLoss p lo hi) := by intro _ _ _ h; cases h
theorem endMarker (n : Line) (f : Slot) (found : Bool) : Statement (.endMarker n f found) := by intro _ _ _ h; cases h
theorem snoop (addr : Nat) : Statement (.snoop addr) := by intro _ _ _ h; cases h
theorem mfgRelease : Statement (.mfgRelease) := by intro _ _ _ h; cases h

end Sys2Proof.Laws.Wf
end

