-- ==== Sys2Proof/Tests/Slice0.lean ====
section
/-! SUPPORT. Tests: the checks of WellFormed refuse ill-formed commands; single steps whose results the manual's tables give; and for every
statement, states and operands that meet the hypotheses of its clauses. -/

-- The proofs of the whole text do not run side by side: their memory adds up.
set_option Elab.async false

namespace Sys2Proof.Tests

open Sys2Proof Sys2Proof.Machine

-- Each check of WellFormed refuses an ill-formed command, and takes the one beside it.

theorem test_wf_value_width : Instr.wf (.registerWrite (.host 0) 0x0030021C false (2 ^ 32)) = false ∧
    Instr.wf (.registerWrite (.host 0) 0x0030021C false (2 ^ 32 - 1)) = true := by decide
theorem test_wf_alignment : Instr.wf (.registerRead (.host 0) 0x00300024 true) = false ∧
    Instr.wf (.registerRead (.host 0) 0x00300020 true) = true := by decide
theorem test_wf_bar0 : Instr.wf (.registerRead (.host 0) (2 ^ 27) false) = false ∧
    Instr.wf (.registerRead (.host 0) (2 ^ 27 - 4) false) = true := by decide
theorem test_wf_malformed : Instr.wf (.malformedAccess (.host 0) 0x00300020 8 true) = false ∧
    Instr.wf (.malformedAccess .i3c 0x00300020 8 true) = true := by decide
theorem test_wf_bytes : Instr.wf (.todMessageReceived (List.replicate 15 0) true) = false ∧
    Instr.wf (.todMessageReceived (List.replicate 16 0) true) = true := by decide
theorem test_wf_halves : Instr.wf (.lowHalfRead (.host 0) 4) = false ∧ Instr.wf (.lowHalfRead (.host 0) 8) = true ∧
    Instr.wf (.highHalfRead (.host 0) 8) = false ∧ Instr.wf (.highHalfRead (.host 0) 4) = true := by decide
theorem test_wf_counter_write : Instr.wf (.counterWrite (.host 0) 0x00500080 true 0 (2 ^ 48)) = false ∧
    Instr.wf (.counterWrite (.host 0) 0x00500080 true 0 (2 ^ 48 - 1)) = true := by decide
theorem test_wf_pd_table : Instr.wf (.pdTableWrite (.host 0) 0 false 0 33 0) = false ∧
    Instr.wf (.pdTableWrite (.host 0) 0 true 0 33 256) = false ∧ Instr.wf (.pdTableWrite (.host 0) 0 true 0 511 255) = true := by decide
theorem test_wf_calibration : Instr.wf (.dacFgCalDone 0 true 0 []) = false ∧ Instr.wf (.adcFgCalDone 0 true 0 []) = false ∧
    Instr.wf (.dacBgCalUpdate 0 0 []) = false ∧ Instr.wf (.adcBgCalUpdate 0 0 []) = false := by decide
theorem test_wf_estimate : Instr.wf (.estimateRefresh 0 (.dgd 4096)) = false ∧ Instr.wf (.estimateRefresh 0 (.dgd 4095)) = true ∧
    Instr.wf (.estimateRefresh 0 (.cd 20001)) = false ∧ Instr.wf (.estimateRefresh 0 (.cd 20000)) = true := by decide
theorem test_wf_splice : Instr.wf (.tapDemandReport 0 0 64) = false ∧ Instr.wf (.tapDemandReport 0 0 63) = true ∧
    Instr.wf (.chanSwap 0 []) = false ∧ Instr.wf (.chanSwap 0 (List.replicate 512 (255, 0))) = true := by decide +kernel
theorem test_wf_bight : Instr.wf (.controlBlock 0 (2 ^ 26)) = false ∧ Instr.wf (.controlBlock 0 (2 ^ 26 - 1)) = true ∧
    Instr.wf (.burstHeaderDecoded 0 0 (List.replicate 256 16) 0 0) = false ∧
    Instr.wf (.burstHeaderDecoded 0 0 (List.replicate 256 (-16)) 0 0) = true := by decide +kernel
theorem test_wf_sweeps : Instr.wf (.scanDone 0 []) = false ∧ Instr.wf (.mateScanDone 0 []) = false ∧
    Instr.wf (.scanDone 0 (List.replicate 6 (List.replicate 64 0))) = true := by decide
theorem test_wf_gmp : Instr.wf (.gmpCmUpdate 0 (2 ^ 24) []) = false ∧ Instr.wf (.gmpCmUpdate 0 (2 ^ 24 - 1) []) = true := by decide
theorem test_wf_bend : Instr.wf (.unitPlayout 0 0 256 0 none) = false ∧ Instr.wf (.unitPlayout 0 0 255 0 none) = true ∧
    Instr.wf (.lockstepRecordReceived [0] 0) = false ∧ Instr.wf (.lockstepRecordReceived (List.replicate 16 0) 0) = true := by decide
theorem test_wf_halyard : Instr.wf (.freqMonitorUpdate [] 0) = false ∧ Instr.wf (.selectionBoundary []) = false ∧
    Instr.wf (.disputeEnd 16) = false ∧ Instr.wf (.disputeEnd 15) = true ∧ Instr.wf (.phaseStepGo (.host 0) true 1001 0) = false ∧
    Instr.wf (.phaseStepGo (.host 0) true 1000 0) = true := by decide
theorem test_wf_windows : Instr.wf (.doorbell (.host 0) (2 ^ 21) 4 none) = false ∧
    Instr.wf (.doorbell (.host 0) (2 ^ 21 - 4) 4 none) = true ∧ Instr.wf (.msixUnmask (.host 0) (2 ^ 16) 4 none) = false ∧
    Instr.wf (.msixUnmask (.host 0) (2 ^ 16 - 4) 4 none) = true := by decide
theorem test_wf_links : Instr.wf (.cxlULinkUp 32 0 true) = false ∧ Instr.wf (.memLinkUp 0 16 8 true) = false ∧
    Instr.wf (.cxlULinkUp 16 6 true) = true := by decide
theorem test_wf_lists : Instr.wf (.pdmMeasure [] 0 0 0) = false ∧ Instr.wf (.thermalScan []) = false ∧
    Instr.wf (.snapDrainDone 0 0 []) = false ∧ Instr.wf (.snapDrainDone 0 0 [[], [], [], []]) = true := by decide
theorem test_wf_boot : Instr.wf (.islandPowerOn (some ⟨0, [], 0, 0, [], [], [], []⟩)) = false ∧ Instr.wf (.islandPowerOn none) = true ∧
    Instr.wf (.bootStageTimeout 0 0) = false ∧ Instr.wf (.bootStageTimeout 0 1) = true := by decide
theorem test_wf_loss : Instr.wf (.partnerDataLoss 0 1 0) = false ∧ Instr.wf (.partnerDataLoss 0 0 1) = true := by decide

/-- The device out of reset with its root clock locked, its host link up, and an Installer session of the host in every domain. -/
def up : State :=
  let s := State.reset
  let s := { s with boot := { s.boot with porst := false, coreUp := true, rootLocked := true } }
  (((s.wr .MRLN_ROLE_ST_VALID 1 0).wr .MRLN_ROLE_ST_ROLE 2 0).wr .MRLN_ROLE_ST_DOM_MASK 0xFFFF 0).wr .BCKT_U_STAT_LINK_UP 1

/-- An accepted command of the host, number 0. -/
def cmdFor (op unit : Nat) (param ind : List Byte) : Cmd :=
  { num := 0, ring := 0, idx := 0, opcode := op, flags := 0, tag := 0, unit := unit, param := param, resAddr := 0, loc := 0, region := 0,
    ind := ind, req := .host 0 }

/-- A state with that command accepted. -/
def given (s : State) (c : Cmd) : State := { s with inflight := [c] }

/-- A packet of the mate link with a class, flags and a payload (Table 11.1, R286). -/
def packet (cls flags : Byte) (body : List Byte) : List Byte :=
  let b := [cls, flags] ++ leBytes 2 body.length ++ [0, 0, 0, 0] ++ body
  b ++ leBytes 4 (crc32c b)

-- Check values that R4 gives for the string "123456789".

theorem test_crc16 : crc16 [0x31, 0x32, 0x33, 0x34, 0x35, 0x36, 0x37, 0x38, 0x39] = 0x29B1 := by decide +kernel
theorem test_crc8 : crc8 [0x31, 0x32, 0x33, 0x34, 0x35, 0x36, 0x37, 0x38, 0x39] = 0xF4 := by decide +kernel

-- Single steps.

/-- An empty queue idles (log entry 1). -/
theorem test_idle : step State.reset = .next State.reset := rfl
/-- TOP_ID reads PART and STEP of Table 22.4 and MAP_VER 1. -/
theorem test_read_id : ∃ t, exec (.registerRead (.host 0) 0x00300020 true) up = .next t ∧
    t.out = [.read (.host 0) (1 * 2 ^ 32 + 0xB0 * 2 ^ 16 + 0x9600)] := ⟨_, rfl, by decide +kernel⟩
/-- A read of an address with no register returns zero and counts (R10). -/
theorem test_read_unassigned : ∃ t, exec (.registerRead (.host 0) 0x00000000 false) up = .next t ∧
    t.out = [.read (.host 0) 0] ∧ t.rd .TOP_ACC_ERR_UNASSIGNED_RD = 1 := ⟨_, rfl, by decide +kernel⟩
/-- ESC_S of TOP_FLT_CFG is kept within 1 to 15 (Table 20.11, R518). -/
theorem test_write_clips : ∃ t, exec (.registerWrite (.host 0) 0x00300214 false 0) up = .next t ∧ t.rd .TOP_FLT_CFG_ESC_S = 1 :=
  ⟨_, rfl, by decide +kernel⟩
/-- Without a session a write of a register that needs a role is denied (R414). -/
theorem test_write_denied : ∃ t, exec (.registerWrite (.host 5) 0x0030021C false 1) up = .next t ∧ t.rd .TOP_INT_EN_EVT = 0 ∧
    t.rd .MRLN_NV_ST_DENIED = 1 := ⟨_, rfl, by decide +kernel⟩
/-- An RWC field keeps its active value at a write (Table 0.4). -/
theorem test_write_shadow : ∃ t, exec (.registerWrite (.host 0) 0x00300110 false 1) up = .next t ∧ t.rd .TOP_DEV_MODE_MATE = 0 ∧
    t.shadow.get ⟨.TOP_DEV_MODE, 0, 0, 0⟩ = 1 := ⟨_, rfl, by decide +kernel⟩
/-- A commit of a shadow that breaks the first rule of Table 1.11 is refused with cause 1 (REGEN_PEER 3); LAST reads 3 (Table 22.3). -/
theorem test_commit_refused : ∃ t, exec (.commit (.host 0) 0 (BitVec.ofNat 32 (State.shadowCrc
      { up with shadow := RegStore.put [] ⟨.TOP_LINE_MODE, 0, 0, 0⟩ 0x30 } 0)))
      { up with shadow := RegStore.put [] ⟨.TOP_LINE_MODE, 0, 0, 0⟩ 0x30 } = .next t ∧ t.rd .TOP_MODE_REFUSE_LAST_CAUSE = 1 ∧
    t.rd .TOP_COMMIT_ST_LAST = 3 := ⟨_, rfl, by decide +kernel⟩
/-- The seconds count at a rollover (R326). -/
theorem test_second : ∃ t, exec .secondRollover up = .next t ∧ t.tod = 1 := ⟨_, rfl, by decide +kernel⟩
/-- A core reset leaves STAGE 2 (R477) and the cause SW_CORE. -/
theorem test_core_reset : ∃ t, exec (.coreReset (.host 0) []) up = .next t ∧ t.boot.coreUp = false ∧ t.on .TOP_RST_CAUSE_SW_CORE = true :=
  ⟨_, rfl, by decide +kernel⟩
/-- KEY_SWITCH in a direction that holds no staged key ends with status LATE (Tables 9.5 and 13.6). -/
theorem test_key_switch : ∃ t, exec (.keySwitch 0) (given up (cmdFor 0x0102 0 [0] [])) = .next t ∧
    (t.cmd 0).map (fun c => (c.done, c.status)) = some (true, 8) := ⟨_, rfl, by decide +kernel⟩
/-- NOP completes with status OK (Table 13.10). -/
theorem test_nop : ∃ t, exec (.nop 0) (given up (cmdFor 1 0 [] [])) = .next t ∧
    (t.cmd 0).map (fun c => (c.done, c.status)) = some (true, 0) := ⟨_, rfl, by decide +kernel⟩
/-- No row of the table gives bits (log entry 40). -/
theorem test_no_bits (nbits w : Nat) : decodeTableWord nbits w = none := rfl

-- For every statement, states and operands that meet the hypotheses of its clauses.

/-- A multiframe overhead block that ends in some CRC is good when that is the CRC of the rest. -/
theorem mob_tail (b : List Byte) (h : b.length = 2044) (c : Nat) :
    (b ++ leBytes 4 c).length = 2048 ∧ mobOk (b ++ leBytes 4 c) = decide (c % 2 ^ 32 = crc32c b) := by
  have hl : (b ++ leBytes 4 c).length = 2048 := by simp [h, leBytes]
  have ht : (b ++ leBytes 4 c).take 2044 = b := by rw [← h, List.take_left]
  have hd : (b ++ leBytes 4 c).drop 2044 = leBytes 4 c := by rw [← h, List.drop_left]
  have hv : leVal ((leBytes 4 c).take 4) = c % 2 ^ 32 := by simp [leBytes, leVal]; omega
  refine ⟨hl, ?_⟩
  simp [mobOk, crcOk, leAt, hl, ht, hd, hv, beq_eq_decide]

/-- Bits held in full are found. -/
theorem in_stream {s : State} {n pos len : Nat} (k : Nat) (x : RxBit) (hx : (s.hit n).rxBits = List.replicate k x)
    (h : (s.hit n).rxAt ≤ pos ∧ pos + len ≤ (s.hit n).rxAt + k) :
    s.inStream n pos len = some (((s.hit n).rxBits.drop (pos - (s.hit n).rxAt)).take len) := by
  have hl : (s.hit n).rxBits.length = k := by rw [hx, List.length_replicate]
  exact if_pos (hl.symm ▸ h)

/-- The grants of a state exist. -/
theorem grants_exist (s : State) : ∃ (l : List SubDemand) (level est : Nat), s.computeGrants = (l, level, est) := ⟨_, _, _, rfl⟩

/-- The grants of a state by their parts. -/
theorem grants_eta (s : State) : s.computeGrants = (s.computeGrants.1, s.computeGrants.2.1, s.computeGrants.2.2) := by
  generalize s.computeGrants = x
  rfl

/-- At 0.70 V every item's factor is one (R438). -/
theorem scale_at (i : Nat) : voltScale i 7000 = 1000 * 7000 ^ 2 := by
  unfold voltScale
  rw [← Nat.add_mul, Nat.sub_add_cancel (Nat.min_le_left ..)]

/-- The floor of a device that decodes nothing, where every item has one factor. -/
theorem floor_at (s : State) (x sp : Nat) (k : ∀ i, voltScale i sp = x) (h : s.estimateVolt = sp) (l : s.subLoads = []) :
    s.floorUnits (byMargin s.subLoads) =
      [0, 1, 2, 3, 6].foldl (fun a i => a + s.itemCount i * coefficient false i * x) 0 - backgroundUnits * x := by
  unfold State.floorUnits fixedPower loadPower
  simp only [h, l, k, byMargin, List.foldl_nil, Nat.add_zero]

/-- StepRunsFront. -/
theorem witness_StepRunsFront :
    (∃ (s : State), s.pending = []) :=
  ⟨up, by decide +kernel⟩

/-- StepKeepsStored. -/
theorem witness_StepKeepsStored :
    (∃ (s : State) (t : State), s.stored ∧ step s = .next t) :=
  ⟨{ up with pending := [.xoLost] }, _, by unfold State.stored State.tabled; decide +kernel, rfl⟩

/-- QueueOutputsAndDraws. -/
theorem witness_QueueOutputsAndDraws :
    (∃ (c : Instr) (s : State) (t : State), exec c s = .next t) :=
  ⟨.xoLost, up, _, rfl⟩

/-- FlashAndKeysChangeOnlyBy. -/
theorem witness_FlashAndKeysChangeOnlyBy :
    (∃ (c : Instr) (s : State) (t : State), exec c s = .next t) :=
  ⟨.xoLost, up, _, rfl⟩

/-- ShadowAndTimeChangeOnlyBy. -/
theorem witness_ShadowAndTimeChangeOnlyBy :
    (∃ (c : Instr) (s : State) (t : State), exec c s = .next t) :=
  ⟨.xoLost, up, _, rfl⟩

/-- RegisterWriteByAccessCode. -/
theorem witness_RegisterWriteByAccessCode :
    (∃ (s : State) (req : Requester) (addr : Nat) (n : Nat) (r : RegKey) (f : _), findReg addr = some (r, 0) ∧ (regSpec r.id).width = n ∧
      (n = 32 ∨ n = 64) ∧ legalForm req addr (n / 8) = true ∧ req ≠ .i3c ∧ s.boot.coreUp = true ∧ s.alive (regBlock r.id) = true ∧
      commitBlock r.id = none ∧ r.id ∉ [RegId.TOP_RESET, .TOP_FLT_CFG, .BCKT_MEM_CFG, .BCKT_REGION, .BCKT_RING_CFG, .MRLN_END_TXD,
      .MRLN_END_POST, .MRLN_END_POP, .MRLN_END_INT, .MRLN_END_ST, .MRLN_END_HEAD, .MRLN_END_RXD, .MRLN_AUTH_RESP, .MRLN_AUTH_CTL,
      .MRLN_AUTH_CHAL, .WHIP_INJECT, .HLYD_DPLL_CTL, .HLYD_PSTEP, .HLYD_TOD_SET, .TALY_MON_CTL, .TALY_URG, .SPLC_CMD, .HTCH_TX_CFG,
      .TWIN_TXFFE, .LNYD_LANE_CFG, .BRAD_LOAD_CFG, .STRD_DAC_CAL, .STRD_ADC_CAL, .TWIN_SCAN, .TWIN_SYNCE_SEL, .BRAD_PD_FIR, .BRAD_PD_LUT,
      .CLET_SC_CFG, .WHIP_REMAP, .TALY_AGE_ST, .TALY_AGE_LINE, .MRLN_NV_ST] ∧ s.permits req (writeNeed r.id 0 n) (s.regDoms r) = true ∧
      s.journalBlocked = false ∧ f ∈ (regSpec r.id).fields ∧ f.acc = .rw ∧ f.rng = none) ∧
    (∃ (s : State) (req : Requester) (addr : Nat) (n : Nat) (r : RegKey) (f : _) (least : Int) (most : Int), findReg addr = some (r, 0) ∧
      (regSpec r.id).width = n ∧ (n = 32 ∨ n = 64) ∧ legalForm req addr (n / 8) = true ∧ req ≠ .i3c ∧ s.boot.coreUp = true ∧
      s.alive (regBlock r.id) = true ∧ commitBlock r.id = none ∧ r.id ∉ [RegId.TOP_RESET, .TOP_FLT_CFG, .BCKT_MEM_CFG, .BCKT_REGION,
      .BCKT_RING_CFG, .MRLN_END_TXD, .MRLN_END_POST, .MRLN_END_POP, .MRLN_END_INT, .MRLN_END_ST, .MRLN_END_HEAD, .MRLN_END_RXD,
      .MRLN_AUTH_RESP, .MRLN_AUTH_CTL, .MRLN_AUTH_CHAL, .WHIP_INJECT, .HLYD_DPLL_CTL, .HLYD_PSTEP, .HLYD_TOD_SET, .TALY_MON_CTL,
      .TALY_URG, .SPLC_CMD, .HTCH_TX_CFG, .TWIN_TXFFE, .LNYD_LANE_CFG, .BRAD_LOAD_CFG, .STRD_DAC_CAL, .STRD_ADC_CAL, .TWIN_SCAN,
      .TWIN_SYNCE_SEL, .BRAD_PD_FIR, .BRAD_PD_LUT, .CLET_SC_CFG, .WHIP_REMAP, .TALY_AGE_ST, .TALY_AGE_LINE, .MRLN_NV_ST] ∧
      s.permits req (writeNeed r.id 0 n) (s.regDoms r) = true ∧ s.journalBlocked = false ∧ f ∈ (regSpec r.id).fields ∧ f.acc = .rw ∧
      f.rng = some (least, most)) ∧
    (∃ (s : State) (req : Requester) (addr : Nat) (n : Nat) (r : RegKey) (f : _), findReg addr = some (r, 0) ∧ (regSpec r.id).width = n ∧
      (n = 32 ∨ n = 64) ∧ legalForm req addr (n / 8) = true ∧ req ≠ .i3c ∧ s.boot.coreUp = true ∧ s.alive (regBlock r.id) = true ∧
      commitBlock r.id = none ∧ r.id ∉ [RegId.TOP_RESET, .TOP_FLT_CFG, .BCKT_MEM_CFG, .BCKT_REGION, .BCKT_RING_CFG, .MRLN_END_TXD,
      .MRLN_END_POST, .MRLN_END_POP, .MRLN_END_INT, .MRLN_END_ST, .MRLN_END_HEAD, .MRLN_END_RXD, .MRLN_AUTH_RESP, .MRLN_AUTH_CTL,
      .MRLN_AUTH_CHAL, .WHIP_INJECT, .HLYD_DPLL_CTL, .HLYD_PSTEP, .HLYD_TOD_SET, .TALY_MON_CTL, .TALY_URG, .SPLC_CMD, .HTCH_TX_CFG,
      .TWIN_TXFFE, .LNYD_LANE_CFG, .BRAD_LOAD_CFG, .STRD_DAC_CAL, .STRD_ADC_CAL, .TWIN_SCAN, .TWIN_SYNCE_SEL, .BRAD_PD_FIR, .BRAD_PD_LUT,
      .CLET_SC_CFG, .WHIP_REMAP, .TALY_AGE_ST, .TALY_AGE_LINE, .MRLN_NV_ST] ∧ s.permits req (writeNeed r.id 0 n) (s.regDoms r) = true ∧
      s.journalBlocked = false ∧ f ∈ (regSpec r.id).fields ∧ (f.acc = .ro ∨ f.acc = .rov)) ∧
    (∃ (s : State) (req : Requester) (addr : Nat) (n : Nat) (r : RegKey) (f : _), findReg addr = some (r, 0) ∧ (regSpec r.id).width = n ∧
      (n = 32 ∨ n = 64) ∧ legalForm req addr (n / 8) = true ∧ req ≠ .i3c ∧ s.boot.coreUp = true ∧ s.alive (regBlock r.id) = true ∧
      commitBlock r.id = none ∧ r.id ∉ [RegId.TOP_RESET, .TOP_FLT_CFG, .BCKT_MEM_CFG, .BCKT_REGION, .BCKT_RING_CFG, .MRLN_END_TXD,
      .MRLN_END_POST, .MRLN_END_POP, .MRLN_END_INT, .MRLN_END_ST, .MRLN_END_HEAD, .MRLN_END_RXD, .MRLN_AUTH_RESP, .MRLN_AUTH_CTL,
      .MRLN_AUTH_CHAL, .WHIP_INJECT, .HLYD_DPLL_CTL, .HLYD_PSTEP, .HLYD_TOD_SET, .TALY_MON_CTL, .TALY_URG, .SPLC_CMD, .HTCH_TX_CFG,
      .TWIN_TXFFE, .LNYD_LANE_CFG, .BRAD_LOAD_CFG, .STRD_DAC_CAL, .STRD_ADC_CAL, .TWIN_SCAN, .TWIN_SYNCE_SEL, .BRAD_PD_FIR, .BRAD_PD_LUT,
      .CLET_SC_CFG, .WHIP_REMAP, .TALY_AGE_ST, .TALY_AGE_LINE, .MRLN_NV_ST] ∧ s.permits req (writeNeed r.id 0 n) (s.regDoms r) = true ∧
      s.journalBlocked = false ∧ f ∈ (regSpec r.id).fields ∧ f.acc = .w1c) ∧
    (∃ (s : State) (req : Requester) (addr : Nat) (n : Nat) (r : RegKey) (f : _), findReg addr = some (r, 0) ∧ (regSpec r.id).width = n ∧
      (n = 32 ∨ n = 64) ∧ legalForm req addr (n / 8) = true ∧ req ≠ .i3c ∧ s.boot.coreUp = true ∧ s.alive (regBlock r.id) = true ∧
      commitBlock r.id = none ∧ r.id ∉ [RegId.TOP_RESET, .TOP_FLT_CFG, .BCKT_MEM_CFG, .BCKT_REGION, .BCKT_RING_CFG, .MRLN_END_TXD,
      .MRLN_END_POST, .MRLN_END_POP, .MRLN_END_INT, .MRLN_END_ST, .MRLN_END_HEAD, .MRLN_END_RXD, .MRLN_AUTH_RESP, .MRLN_AUTH_CTL,
      .MRLN_AUTH_CHAL, .WHIP_INJECT, .HLYD_DPLL_CTL, .HLYD_PSTEP, .HLYD_TOD_SET, .TALY_MON_CTL, .TALY_URG, .SPLC_CMD, .HTCH_TX_CFG,
      .TWIN_TXFFE, .LNYD_LANE_CFG, .BRAD_LOAD_CFG, .STRD_DAC_CAL, .STRD_ADC_CAL, .TWIN_SCAN, .TWIN_SYNCE_SEL, .BRAD_PD_FIR, .BRAD_PD_LUT,
      .CLET_SC_CFG, .WHIP_REMAP, .TALY_AGE_ST, .TALY_AGE_LINE, .MRLN_NV_ST] ∧ s.permits req (writeNeed r.id 0 n) (s.regDoms r) = true ∧
      s.journalBlocked = false ∧ f ∈ (regSpec r.id).fields ∧ f.acc = .rwc) ∧
    (∃ (s : State) (req : Requester) (addr : Nat) (n : Nat) (r : RegKey) (q : RegKey), findReg addr = some (r, 0) ∧
      (regSpec r.id).width = n ∧ (n = 32 ∨ n = 64) ∧ legalForm req addr (n / 8) = true ∧ req ≠ .i3c ∧ s.boot.coreUp = true ∧
      s.alive (regBlock r.id) = true ∧ commitBlock r.id = none ∧ r.id ∉ [RegId.TOP_RESET, .TOP_FLT_CFG, .BCKT_MEM_CFG, .BCKT_REGION,
      .BCKT_RING_CFG, .MRLN_END_TXD, .MRLN_END_POST, .MRLN_END_POP, .MRLN_END_INT, .MRLN_END_ST, .MRLN_END_HEAD, .MRLN_END_RXD,
      .MRLN_AUTH_RESP, .MRLN_AUTH_CTL, .MRLN_AUTH_CHAL, .WHIP_INJECT, .HLYD_DPLL_CTL, .HLYD_PSTEP, .HLYD_TOD_SET, .TALY_MON_CTL,
      .TALY_URG, .SPLC_CMD, .HTCH_TX_CFG, .TWIN_TXFFE, .LNYD_LANE_CFG, .BRAD_LOAD_CFG, .STRD_DAC_CAL, .STRD_ADC_CAL, .TWIN_SCAN,
      .TWIN_SYNCE_SEL, .BRAD_PD_FIR, .BRAD_PD_LUT, .CLET_SC_CFG, .WHIP_REMAP, .TALY_AGE_ST, .TALY_AGE_LINE, .MRLN_NV_ST] ∧
      s.permits req (writeNeed r.id 0 n) (s.regDoms r) = true ∧ s.journalBlocked = false ∧ q ≠ r ∧ q.id ≠ .MRLN_NV_ST) ∧
    (∃ (req : Requester) (addr : Nat) (wide : Bool) (q : RegKey), findReg addr = none ∧ (wide = true → findReg (addr + 4) = none) ∧
      legalForm req addr (if wide then 8 else 4) = true ∧ req ≠ .i3c ∧ q.id ≠ .TOP_ACC_ERR) ∧
    (∃ (s : State) (req : Requester) (addr : Nat) (r : RegKey), findReg addr = some (r, 0) ∧ (regSpec r.id).width = 32 ∧
      legalForm req addr 4 = true ∧ s.boot.coreUp = false) ∧
    (∃ (s : State) (p : BitVec 20) (addr : Nat), findReg addr = some (⟨.BCKT_EVQ, 0, 0, 0⟩, 0) ∧ addr % 4 = 0 ∧ s.boot.coreUp = true ∧
      s.alive 1 = true ∧ s.roleIn (.host p) 0 = 0) := ⟨
    ⟨{ up with boot := { up.boot with coreUp := true } }, .host 0, 0x0030021C, 32, ⟨.TOP_INT_EN, 0, 0, 0⟩, fld 18 0 .rw 0,
      by decide +kernel⟩,
    ⟨{ up with boot := { up.boot with coreUp := true } }, .host 0, 0x00700100, 32, ⟨.BCKT_ENG_CFG, 0, 0, 0⟩, fldIn 3 0 .rw 8 1 8, 1, 8,
      by decide +kernel⟩,
    ⟨{ up with boot := { up.boot with coreUp := true } }, .host 0, 0x0030011C, 32, ⟨.TOP_MODE_REFUSE, 0, 0, 0⟩, fld 15 0 .ro 0,
      by decide +kernel⟩,
    ⟨{ up with boot := { up.boot with coreUp := true } }, .host 0, 0x0030011C, 32, ⟨.TOP_MODE_REFUSE, 0, 0, 0⟩, fld 31 31 .w1c 0,
      by decide +kernel⟩,
    ⟨{ up with boot := { up.boot with coreUp := true } }, .host 0, 0x00300110, 32, ⟨.TOP_DEV_MODE, 0, 0, 0⟩, fld 0 0 .rwc 0,
      by decide +kernel⟩,
    ⟨{ up with boot := { up.boot with coreUp := true } }, .host 0, 0x0030021C, 32, ⟨.TOP_INT_EN, 0, 0, 0⟩, ⟨.TOP_ID, 0, 0, 0⟩,
      by decide +kernel⟩,
    ⟨.host 0, 0, false, ⟨.TOP_ID, 0, 0, 0⟩, by decide +kernel⟩,
    ⟨{ up with boot := { up.boot with coreUp := false } }, .host 0, 0x0030021C, ⟨.TOP_INT_EN, 0, 0, 0⟩, by decide +kernel⟩,
    ⟨{ up with boot := { up.boot with coreUp := true } }, 5, 0x00700200, by decide +kernel⟩⟩

/-- RegisterReads. -/
theorem witness_RegisterReads :
    (∃ (s : State) (req : Requester) (addr : Nat) (r : RegKey) (f : _), findReg addr = some (r, 0) ∧ (regSpec r.id).width = 32 ∧
      legalForm req addr 4 = true ∧ req ≠ .i3c ∧ s.boot.coreUp = true ∧ endOf r = none ∧ inAuth r.id = false ∧ r.id ∉ [RegId.TOP_INT_ST,
      .TOP_HOLD, .BRAD_SC_ACT, .SHET_CLI_STAT, .TWIN_STAT, .STRD_ADC_STAT, .TOP_BOOT_ST] ∧ commitSt (regBlock r.id) ≠ some r.id ∧
      f ∈ (regSpec r.id).fields ∧ f.acc = .wo) ∧
    (∃ (s : State) (req : Requester) (addr : Nat) (r : RegKey) (f : _), findReg addr = some (r, 0) ∧ (regSpec r.id).width = 32 ∧
      legalForm req addr 4 = true ∧ req ≠ .i3c ∧ s.boot.coreUp = true ∧ endOf r = none ∧ inAuth r.id = false ∧ r.id ∉ [RegId.TOP_INT_ST,
      .TOP_HOLD, .BRAD_SC_ACT, .SHET_CLI_STAT, .TWIN_STAT, .STRD_ADC_STAT, .TOP_BOOT_ST] ∧ commitSt (regBlock r.id) ≠ some r.id ∧
      f ∈ (regSpec r.id).fields ∧ f.acc = .rwc) ∧
    (∃ (s : State) (req : Requester) (addr : Nat) (r : RegKey) (f : _), findReg addr = some (r, 0) ∧ (regSpec r.id).width = 32 ∧
      legalForm req addr 4 = true ∧ req ≠ .i3c ∧ s.boot.coreUp = true ∧ endOf r = none ∧ inAuth r.id = false ∧ r.id ∉ [RegId.TOP_INT_ST,
      .TOP_HOLD, .BRAD_SC_ACT, .SHET_CLI_STAT, .TWIN_STAT, .STRD_ADC_STAT, .TOP_BOOT_ST] ∧ commitSt (regBlock r.id) ≠ some r.id ∧
      f ∈ (regSpec r.id).fields ∧ f.acc ≠ .wo ∧ f.acc ≠ .rwc) ∧
    (∃ (req : Requester) (addr : Nat), findReg addr = none ∧ legalForm req addr 4 = true ∧ req ≠ .i3c) ∧
    (∃ (s : State) (req : Requester) (addr : Nat) (r : RegKey) (l : Latch), findReg addr = some (r, 0) ∧ (regSpec r.id).width = 64 ∧
      legalForm req addr 4 = true ∧ req ≠ .i3c ∧ s.boot.coreUp = true ∧ endOf r = none ∧ inAuth r.id = false ∧ r.id ∉ [RegId.TOP_HOLD,
      .BRAD_SC_ACT, .SHET_CLI_STAT, .TWIN_STAT, .STRD_ADC_STAT, .TOP_BOOT_ST] ∧ commitSt (regBlock r.id) ≠ some r.id ∧
      (s.dropLatch req).latches.length < 16 ∧ l ∈ (s.dropLatch req).latches) ∧
    (∃ (s : State) (req : Requester) (addr : Nat) (r : RegKey) (f : _), findReg addr = some (r, 0) ∧ (regSpec r.id).width = 64 ∧
      legalForm req addr 4 = true ∧ req ≠ .i3c ∧ s.boot.coreUp = true ∧ endOf r = none ∧ inAuth r.id = false ∧ r.id ∉ [RegId.TOP_HOLD,
      .BRAD_SC_ACT, .SHET_CLI_STAT, .TWIN_STAT, .STRD_ADC_STAT, .TOP_BOOT_ST] ∧ commitSt (regBlock r.id) ≠ some r.id ∧
      (s.dropLatch req).latches.length < 16 ∧ f ∈ (regSpec r.id).fields ∧ f.acc = .rwc) ∧
    (∃ (s : State) (req : Requester) (addr : Nat) (r : RegKey) (f : _), findReg addr = some (r, 0) ∧ (regSpec r.id).width = 64 ∧
      legalForm req addr 4 = true ∧ req ≠ .i3c ∧ s.boot.coreUp = true ∧ endOf r = none ∧ inAuth r.id = false ∧ r.id ∉ [RegId.TOP_HOLD,
      .BRAD_SC_ACT, .SHET_CLI_STAT, .TWIN_STAT, .STRD_ADC_STAT, .TOP_BOOT_ST] ∧ commitSt (regBlock r.id) ≠ some r.id ∧
      (s.dropLatch req).latches.length < 16 ∧ f ∈ (regSpec r.id).fields ∧ f.acc ≠ .wo ∧ f.acc ≠ .rwc ∧ r.id ≠ .TOP_INT_ST) ∧
    (∃ (s : State) (req : Requester) (addr : Nat) (r : RegKey) (l : Latch), findReg addr = some (r, 1) ∧ (regSpec r.id).width = 64 ∧
      legalForm req addr 4 = true ∧ req ≠ .i3c ∧ s.boot.coreUp = true ∧
      s.latches.find? (fun l => decide (l.req = s.stampOf req)) = some l ∧ l.key = r) ∧
    (∃ (p : BitVec 20) (addr : Nat) (bytes : Nat) (q : RegKey), legalForm (.host p) addr bytes = false ∧ q.id ≠ .TOP_ACC_ERR) ∧
    (∃ (addr : Nat) (bytes : Nat), legalForm .jtag addr bytes = false) ∧
    (∃ (q : RegKey), q.id ≠ .TOP_INT_ST) ∧
    (∃ (s : State) (req : Requester) (addr : Nat) (r : RegKey) (q : RegKey), findReg addr = some (r, 0) ∧ (regSpec r.id).width = 64 ∧
      isCounter r.id = true ∧ legalForm req addr 8 = true ∧ req ≠ .i3c ∧ s.boot.coreUp = true ∧ s.alive (regBlock r.id) = true ∧
      s.permits req (writeNeed r.id 0 64) (s.regDoms r) = true ∧ s.journalBlocked = false ∧ q ≠ r ∧ q.id ≠ .MRLN_NV_ST) := ⟨
    ⟨{ up with boot := { up.boot with coreUp := true } }, .host 0, 0x00300000, ⟨.TOP_COMMIT, 0, 0, 0⟩, fld 31 0 .wo 0, by decide +kernel⟩,
    ⟨{ up with boot := { up.boot with coreUp := true } }, .host 0, 0x00300110, ⟨.TOP_DEV_MODE, 0, 0, 0⟩, fld 0 0 .rwc 0,
      by decide +kernel⟩,
    ⟨{ up with boot := { up.boot with coreUp := true } }, .host 0, 0x0030021C, ⟨.TOP_INT_EN, 0, 0, 0⟩, fld 18 0 .rw 0, by decide +kernel⟩,
    ⟨.host 0, 0, by decide +kernel⟩,
    ⟨{ ({ up with boot := { up.boot with coreUp := true } }) with latches := [⟨3, .jtag, ⟨.TOP_SERIAL, 0, 0, 0⟩, 0⟩] }, .host 0,
      0x00300020, ⟨.TOP_ID, 0, 0, 0⟩, ⟨3, .jtag, ⟨.TOP_SERIAL, 0, 0, 0⟩, 0⟩, by decide +kernel⟩,
    ⟨{ up with boot := { up.boot with coreUp := true } }, .host 0, 0xB00200, ⟨.MRLN_MB_CFG, 0, 0, 0⟩,
      ((regSpec .MRLN_MB_CFG).fields.headD (fld 0 0 .ro 0)), by decide +kernel⟩,
    ⟨{ up with boot := { up.boot with coreUp := true } }, .host 0, 0x00300020, ⟨.TOP_ID, 0, 0, 0⟩, fld 15 0 .ro 0x9600, by decide +kernel⟩,
    ⟨{ ({ up with boot := { up.boot with coreUp := true } }) with latches := [⟨0, .host 0, ⟨.TOP_ID, 0, 0, 0⟩, 0⟩] }, .host 0, 0x00300024,
      ⟨.TOP_ID, 0, 0, 0⟩, ⟨0, .host 0, ⟨.TOP_ID, 0, 0, 0⟩, 0⟩, by decide +kernel⟩,
    ⟨0, 0, 0, ⟨.TOP_ID, 0, 0, 0⟩, by decide +kernel⟩,
    ⟨0, 0, by decide +kernel⟩,
    ⟨⟨.TOP_ID, 0, 0, 0⟩, by decide +kernel⟩,
    ⟨{ up with boot := { up.boot with coreUp := true } }, .host 0, 0x00500080, ⟨.BCKT_MEM_CNT, 0, 0, 0⟩, ⟨.TOP_ID, 0, 0, 0⟩,
      by decide +kernel⟩⟩

set_option maxRecDepth 2000 in
/-- CommitJudged. -/
theorem witness_CommitJudged :
    (∃ (s : State) (req : Requester) (b : Block) (crc : BitVec 32) (st : RegId) (r : RegKey), commitSt b.val = some st ∧
      s.boot.coreUp = true ∧ req ≠ .i3c ∧ s.journalBlocked = false ∧ crc.toNat ≠ s.shadowCrc b.val ∧ r.id ∉ [st, .TOP_EVT, .BCKT_RING_ST,
      .BCKT_CNT, .BCKT_MEM_CNT, .MRLN_NV_ST]) ∧
    (∃ (s : State) (req : Requester) (b : Block) (crc : BitVec 32) (st : RegId) (u : Nat) (d : Nat) (c : Nat) (sticky : Fld) (last : Fld) (cnt : Fld) (un : Option Fld) (bit : Option Fld),
      commitSt b.val = some st ∧ s.boot.coreUp = true ∧ req ≠ .i3c ∧ s.journalBlocked = false ∧ crc.toNat = s.shadowCrc b.val ∧
      lackingUnit s (s.takeShadow b.val) req (s.changedKeys (s.takeShadow b.val) b.val) = some (u, d) ∧ rightsCause b.val = some c ∧
      refuseFields b.val = some (sticky, last, cnt, un, bit)) ∧
    (∃ (s : State) (req : Requester) (b : Block) (crc : BitVec 32) (st : RegId) (u : Nat) (d : Nat) (r : RegKey),
      commitSt b.val = some st ∧ s.boot.coreUp = true ∧ req ≠ .i3c ∧ s.journalBlocked = false ∧ crc.toNat = s.shadowCrc b.val ∧
      lackingUnit s (s.takeShadow b.val) req (s.changedKeys (s.takeShadow b.val) b.val) = some (u, d) ∧ regBlock r.id ≠ b.val ∧
      r.id ∉ [RegId.BCKT_RING_ST, .BCKT_CNT, .BCKT_MEM_CNT, .MRLN_NV_ST, .MRLN_NV_EVT]) ∧
    (∃ (s : State) (req : Requester) (b : Block) (crc : BitVec 32) (st : RegId) (x : Breach) (sticky : Fld) (last : Fld) (cnt : Fld) (u : Option Fld) (bit : Option Fld),
      commitSt b.val = some st ∧ s.boot.coreUp = true ∧ req ≠ .i3c ∧ s.journalBlocked = false ∧ crc.toNat = s.shadowCrc b.val ∧
      lackingUnit s (s.takeShadow b.val) req (s.changedKeys (s.takeShadow b.val) b.val) = none ∧
      checkSet b.val s (s.takeShadow b.val) = some x ∧ refuseFields b.val = some (sticky, last, cnt, u, bit)) ∧
    (∃ (s : State) (req : Requester) (b : Block) (crc : BitVec 32) (st : RegId) (x : Breach) (r : RegKey), commitSt b.val = some st ∧
      s.boot.coreUp = true ∧ req ≠ .i3c ∧ s.journalBlocked = false ∧ crc.toNat = s.shadowCrc b.val ∧
      lackingUnit s (s.takeShadow b.val) req (s.changedKeys (s.takeShadow b.val) b.val) = none ∧
      checkSet b.val s (s.takeShadow b.val) = some x ∧ regBlock r.id ≠ b.val ∧ r.id ∉ [RegId.BCKT_RING_ST, .BCKT_CNT, .BCKT_MEM_CNT,
      .MRLN_NV_ST]) ∧
    (∃ (s : State) (req : Requester) (b : Block) (crc : BitVec 32) (st : RegId) (r : RegKey) (f : FieldSpec), s.stored ∧
      commitSt b.val = some st ∧ s.boot.coreUp = true ∧ req ≠ .i3c ∧ s.journalBlocked = false ∧ crc.toNat = s.shadowCrc b.val ∧
      lackingUnit s (s.takeShadow b.val) req (s.changedKeys (s.takeShadow b.val) b.val) = none ∧
      checkSet b.val s (s.takeShadow b.val) = none ∧ (b.val = 7 → s.on .TALY_MON_ST_RUNNING = false) ∧ regBlock r.id = b.val ∧
      f ∈ (regSpec r.id).fields ∧ f.acc = .rwc) ∧
    (∃ (s : State) (req : Requester) (b : Block) (crc : BitVec 32) (st : RegId) (r : RegKey), s.stored ∧ commitSt b.val = some st ∧
      s.boot.coreUp = true ∧ req ≠ .i3c ∧ s.journalBlocked = false ∧ crc.toNat = s.shadowCrc b.val ∧
      lackingUnit s (s.takeShadow b.val) req (s.changedKeys (s.takeShadow b.val) b.val) = none ∧
      checkSet b.val s (s.takeShadow b.val) = none ∧ (b.val = 7 → s.on .TALY_MON_ST_RUNNING = false) ∧ b.val = 4 ∧ regBlock r.id ≠ 4 ∧
      r.id ≠ .MRLN_NV_ST) ∧
    (∃ (s : State) (req : Requester) (crc : BitVec 32) (r : RegKey), s.boot.coreUp = true ∧ req ≠ .i3c ∧ s.journalBlocked = false ∧
      crc.toNat = s.shadowCrc 7 ∧ lackingUnit s (s.takeShadow 7) req (s.changedKeys (s.takeShadow 7) 7) = none ∧
      checkSet 7 s (s.takeShadow 7) = none ∧ s.on .TALY_MON_ST_RUNNING = true ∧ r.id ∉ [RegId.TALY_COMMIT_ST, .MRLN_NV_ST]) := ⟨
    ⟨{ up with boot := { up.boot with coreUp := true } }, .host 0, 0, 1, .TOP_COMMIT_ST, ⟨.TOP_ID, 0, 0, 0⟩, by decide +kernel⟩,
    ⟨{ (up.wr .MRLN_ROLE_ST_VALID 0 0) with shadow := RegStore.put [] ⟨.FTHM_DUMP_CFG, 0, 0, 0⟩ 0x80000 }, .host 0, 4,
      BitVec.ofNat 32 (State.shadowCrc ({ (up.wr .MRLN_ROLE_ST_VALID 0 0) with shadow := RegStore.put [] ⟨.FTHM_DUMP_CFG, 0, 0, 0⟩ 0x80000 }) 4),
      .FTHM_COMMIT_ST, 0, 0, 4, .FTHM_REFUSE_STICKY, .FTHM_REFUSE_LAST_CAUSE, .FTHM_REFUSE_COUNT, some .FTHM_REFUSE_LAST_LINE,
      some .FTHM_EVT_CFG_REFUSED, by decide +kernel⟩,
    ⟨{ (up.wr .MRLN_ROLE_ST_VALID 0 0) with shadow := RegStore.put [] ⟨.FTHM_DUMP_CFG, 0, 0, 0⟩ 0x80000 }, .host 0, 4,
      BitVec.ofNat 32 (State.shadowCrc ({ (up.wr .MRLN_ROLE_ST_VALID 0 0) with shadow := RegStore.put [] ⟨.FTHM_DUMP_CFG, 0, 0, 0⟩ 0x80000 }) 4),
      .FTHM_COMMIT_ST, 0, 0, ⟨.TOP_ID, 0, 0, 0⟩, by decide +kernel⟩,
    ⟨{ up with shadow := RegStore.put [] ⟨.TOP_LINE_MODE, 0, 0, 0⟩ 0x30 }, .host 0, 0,
      BitVec.ofNat 32 (State.shadowCrc { up with shadow := RegStore.put [] ⟨.TOP_LINE_MODE, 0, 0, 0⟩ 0x30 } 0), .TOP_COMMIT_ST, ⟨1, 0, 0⟩,
      .TOP_MODE_REFUSE_STICKY, .TOP_MODE_REFUSE_LAST_CAUSE, .TOP_MODE_REFUSE_COUNT, none, some .TOP_EVT_MODE_REFUSED, by decide +kernel⟩,
    ⟨{ up with shadow := RegStore.put [] ⟨.TOP_LINE_MODE, 0, 0, 0⟩ 0x30 }, .host 0, 0,
      BitVec.ofNat 32 (State.shadowCrc { up with shadow := RegStore.put [] ⟨.TOP_LINE_MODE, 0, 0, 0⟩ 0x30 } 0), .TOP_COMMIT_ST, ⟨1, 0, 0⟩,
      ⟨.FTHM_DUMP_CFG, 0, 0, 0⟩, by decide +kernel⟩,
    ⟨{ up with shadow := RegStore.put [] ⟨.FTHM_DUMP_CFG, 0, 0, 0⟩ 0x80000 }, .host 0, 4,
      BitVec.ofNat 32 (State.shadowCrc ({ up with shadow := RegStore.put [] ⟨.FTHM_DUMP_CFG, 0, 0, 0⟩ 0x80000 }) 4), .FTHM_COMMIT_ST,
      ⟨.FTHM_DUMP_CFG, 0, 0, 0⟩, ((regSpec .FTHM_DUMP_CFG).fields.headD (fld 0 0 .ro 0)),
      by unfold State.stored State.tabled; decide +kernel⟩,
    ⟨{ up with shadow := RegStore.put [] ⟨.FTHM_DUMP_CFG, 0, 0, 0⟩ 0x80000 }, .host 0, 4,
      BitVec.ofNat 32 (State.shadowCrc ({ up with shadow := RegStore.put [] ⟨.FTHM_DUMP_CFG, 0, 0, 0⟩ 0x80000 }) 4), .FTHM_COMMIT_ST,
      ⟨.TOP_ID, 0, 0, 0⟩, by unfold State.stored State.tabled; decide +kernel⟩,
    ⟨up.wr .TALY_MON_ST_RUNNING 1, .host 0, BitVec.ofNat 32 (State.shadowCrc (up.wr .TALY_MON_ST_RUNNING 1) 7), ⟨.TOP_ID, 0, 0, 0⟩,
      by decide +kernel⟩⟩

/-- InterruptPin. -/
theorem witness_InterruptPin :
    (∃ (s : State) (b : _), s.stored ∧ b < 19) :=
  ⟨up, 0, by unfold State.stored State.tabled; decide +kernel⟩

/-- ResetWriteRule. -/
theorem witness_ResetWriteRule :
    (∃ (s : State) (req : Requester) (v : Nat), s.boot.coreUp = true ∧ (s.rd .TOP_FAULT_HELD).testBit 0 = false ∧ req ≠ .i3c ∧
      2 ≤ s.roleIn req 0 ∧ s.journalBlocked = false ∧ bits v 31 16 = 0xA5C3) ∧
    (∃ (s : State) (req : Requester) (v : Nat), s.boot.coreUp = true ∧ (s.rd .TOP_FAULT_HELD).testBit 0 = false ∧ req ≠ .i3c ∧
      2 ≤ s.roleIn req 0 ∧ s.journalBlocked = false ∧ bits v 31 16 = 0xA5C3 ∧ bits v 1 0 = 1) ∧
    (∃ (s : State) (req : Requester) (v : Nat), s.boot.coreUp = true ∧ (s.rd .TOP_FAULT_HELD).testBit 0 = false ∧ req ≠ .i3c ∧
      2 ≤ s.roleIn req 0 ∧ s.journalBlocked = false ∧ bits v 31 16 = 0xA5C3 ∧ bits v 1 0 = 2) ∧
    (∃ (s : State) (req : Requester) (v : Nat) (q : RegKey), s.boot.coreUp = true ∧ (s.rd .TOP_FAULT_HELD).testBit 0 = false ∧
      req ≠ .i3c ∧ (bits v 31 16 ≠ 0xA5C3 ∨ s.roleIn req 0 < 2) ∧ q.id ∉ [RegId.MRLN_NV_ST, .MRLN_NV_EVT, .BCKT_RING_ST, .BCKT_CNT,
      .BCKT_MEM_CNT]) := ⟨
    ⟨{ up with boot := { up.boot with coreUp := true } }, .host 0, 0xA5C30000, by decide +kernel⟩,
    ⟨{ up with boot := { up.boot with coreUp := true } }, .host 0, 0xA5C30001, by decide +kernel⟩,
    ⟨{ up with boot := { up.boot with coreUp := true } }, .host 0, 0xA5C30002, by decide +kernel⟩,
    ⟨{ up with boot := { up.boot with coreUp := true } }, .host 0, 0, ⟨.TOP_ID, 0, 0, 0⟩, by decide +kernel⟩⟩

/-- CounterWriteRule. -/
theorem witness_CounterWriteRule :
    (∃ (s : State) (req : Requester) (addr : Nat) (inc : Nat) (r : RegKey), findReg addr = some (r, 0) ∧ isCounter r.id = true ∧ 0 < inc ∧
      legalForm req addr 8 = true ∧ req ≠ .i3c ∧ s.boot.coreUp = true ∧ s.alive (regBlock r.id) = true ∧
      s.permits req (writeNeed r.id 0 64) (s.regDoms r) = true ∧ s.journalBlocked = false) ∧
    (∃ (s : State) (req : Requester) (addr : Nat) (inc : Nat) (r : RegKey), findReg addr = some (r, 0) ∧ isCounter r.id = true ∧ 0 < inc ∧
      legalForm req addr 4 = true ∧ req ≠ .i3c ∧ s.boot.coreUp = true ∧ s.alive (regBlock r.id) = true ∧
      s.permits req (writeNeed r.id 0 32) (s.regDoms r) = true ∧ s.journalBlocked = false) := ⟨
    ⟨{ up with boot := { up.boot with coreUp := true } }, .host 0, 0x00500080, 1, ⟨.BCKT_MEM_CNT, 0, 0, 0⟩, by decide +kernel⟩,
    ⟨{ up with boot := { up.boot with coreUp := true } }, .host 0, 0x00500080, 1, ⟨.BCKT_MEM_CNT, 0, 0, 0⟩, by decide +kernel⟩⟩

/-- ResetValues. -/
theorem witness_ResetValues :
    (∃ (f : _) (v : _), (f, v) ∈ [(Fld.TOP_ID_MAP_VER, 1), (.TOP_ID_STEP, 176), (.TOP_ID_PART, 38400), (.TOP_RST_CAUSE_POR, 1),
      (.TOP_FLT_CFG_ESC_AUTO, 1), (.TOP_FLT_CFG_ESC_S, 5), (.TOP_FLT_CFG_FLT_HOLD, 1), (.BCKT_ENG_CFG_CMD_TMO, 1000),
      (.BCKT_ENG_CFG_INFL_RING, 16), (.BCKT_ENG_CFG_FETCH_MAX, 8), (.MRLN_SCHED_CFG_WDOG_MS, 10), (.MRLN_SCHED_CFG_SLICE_US, 100),
      (.MRLN_AUTH_CFG_SESS_H, 8), (.MRLN_AUTH_CFG_LOCK_S, 60), (.MRLN_AUTH_CFG_WARN_PCT, 75), (.WHIP_CFG_SCRUB_H, 4), (.WHIP_CFG_SCRUB_EN,
      1), (.FTHM_DUMP_CFG_DUMP_S, 1), (.FTHM_BW_CFG_BW_US, 1000), (.HLYD_SEL_CFG_HO_MAX, 1440), (.HLYD_SEL_CFG_HO_AVG, 2),
      (.HLYD_SEL_CFG_REVERT, 1), (.HLYD_SEL_CFG_BW, 1), (.HLYD_SEL_CFG_DISP_PPM, 20), (.HLYD_SEL_CFG_DISP_MARGIN, 5),
      (.HLYD_DPLL_CTL_FSLEW, 10), (.HLYD_TOD_CFG_PPS_TOL, 100), (.HLYD_TOD_CFG_BAUD, 2), (.HLYD_TOD_CFG_PPS_W, 100), (.HLYD_PSTEP_SLEW,
      100), (.HLYD_STAT_SEL_REF, 15), (.BLAY_BUD_CFG_TJ_SLOPE, 50), (.BLAY_BUD_CFG_TJ_TRIP, 110), (.BLAY_BUD_CFG_TJ_SOFT, 95),
      (.BLAY_BUD_CFG_GUARD_W, 20), (.BLAY_BUD_CFG_BUDGET, 980), (.BLAY_CORE_CFG_CORE_D, 20), (.BLAY_CORE_CFG_CORE_C, 30),
      (.BLAY_CORE_CFG_CORE_B, 20), (.BLAY_AVS_CFG_AGE_OFS_MAX, 30), (.BLAY_AVS_CFG_SLACK_HI, 40), (.BLAY_AVS_CFG_SLACK_LO, 20),
      (.BLAY_AVS_CFG_AVS_ADDR, 64), (.BLAY_AVS_CFG_VMAX, 760), (.BLAY_AVS_CFG_VMIN, 660), (.BLAY_SUP_CFG_HOLD_H, 24),
      (.BLAY_SUP_CFG_HOLD_MS, 10), (.BLAY_SUP_CFG_SHARE_LIM, 80), (.BLAY_SUP_CFG_SAG_FILT, 1), (.BLAY_SUP_CFG_PWR_WARN_EN, 1),
      (.BLAY_AVS_ST_SETPOINT, 7000), (.BLAY_AVS_ST_CAL_GAIN, 512), (.BLAY_AON_ST_A_SHARE, 50), (.TALY_AGE_CFG_LANE_MIN, 16),
      (.TALY_AGE_CFG_KV, 10), (.TALY_AGE_CFG_REPLAN_HOUR, 2), (.TALY_AGE_CFG_REPLAN_D, 7), (.TALY_AGE_CFG_AGE_ITER_MIN, 8),
      (.TALY_AGE_CFG_REPLAN_EN, 1), (.TALY_AGE_ST_AGE_ITER, 16), (.TALY_MON_CFG_PERIOD, 1000), (.LNYD_CFG_GAP, 10), (.LNYD_CFG_LANES, 2),
      (.LNYD_CK_CFG_REHEARSE, 60)]) ∧
    (∃ (f : _) (v : _) (i : _), (f, v) ∈ [(Fld.BCKT_MEM_CFG_POIS_MAX, 16), (.BCKT_MEM_CFG_W_CAP, 1), (.BCKT_MEM_CFG_W_SVC, 4),
      (.BCKT_MEM_CFG_W_RING, 8), (.HLYD_OUT_CFG_NUM, 1), (.HLYD_OUT_CFG_DEN, 100)] ∧ i < 2) ∧
    (∃ (f : _) (v : _) (i : _), (f, v) ∈ [(Fld.TALY_AGE_LINE_SNR_CONV, 255), (.TALY_AGE_LINE_AGE_ENT, 124), (.TALY_AGE_LINE_AGE_ENT_MIN,
      24), (.STRD_DAC_CAL_BG_EN, 1), (.STRD_ADC_CAL_BG_EN, 1), (.BRAD_LINE_CFG_ANN_COUNT, 4), (.BRAD_LINE_CFG_LOAD_AUTO, 1),
      (.BRAD_LINE_CFG_ROLLOFF, 8), (.BRAD_LOAD_CFG_ARM_TIMEOUT, 100), (.BRAD_LOAD_CFG_FALLBACK, 20), (.BRAD_LOAD_CFG_DWELL, 10),
      (.BRAD_LOAD_CFG_HYST, 4), (.BRAD_LOAD_CFG_MARGIN, 16), (.SPLC_LINE_CFG_FREEZE_HOLD, 50), (.SPLC_LINE_CFG_LOS_PIN_EN, 1),
      (.SPLC_LINE_CFG_LOS_HYST, 8), (.SPLC_LINE_CFG_LOS_THR, 120), (.SPLC_CD_CFG_CD_WIN, 2000), (.SPLC_ADAPT_CFG_DIVERGE, 12),
      (.SPLC_ADAPT_CFG_UPD_MAX, 2), (.SPLC_ADAPT_CFG_CMA_LEN, 4), (.SPLC_ADAPT_CFG_MU_TRK, 12), (.SPLC_ADAPT_CFG_MU_ACQ, 8),
      (.SPLC_CR_CFG_BPS_EN, 1), (.SPLC_CR_CFG_BPS_N, 32), (.SPLC_CR_CFG_PH_WIN, 4), (.SPLC_EST_OSNR, 4095), (.BGHT_LINE_CFG_DN_LEAD, 16),
      (.BGHT_LINE_CFG_REPEAT, 2), (.BGHT_LINE_CFG_MAP_LEAD, 4), (.BGHT_DISC_CFG_STALE_S, 10), (.BGHT_DISC_CFG_RNG_PER_CYCLE, 8),
      (.BGHT_DISC_CFG_DISC_ON, 1), (.BGHT_DISC_CFG_DISC_INT, 100), (.BGHT_ACQ_CFG_TA_THR, 2), (.BGHT_ACQ_CFG_CAPT_DB, 6),
      (.BGHT_ACQ_CFG_RELOCK_DB, 6), (.BGHT_ACQ_CFG_DISC_ADD, 4), (.BGHT_ACQ_CFG_DET_THR, 48), (.CLET_LINE_CFG_OZR_ITER, 3),
      (.CLET_LINE_CFG_WIN, 10), (.CLET_LINE_CFG_BURST_OH, 2), (.CLET_LINE_CFG_EARLY_EN, 1), (.CLET_LINE_CFG_OH, 1), (.CLET_SD_CFG_SD_SECS,
      3), (.CLET_SD_CFG_SD_CLR, 512), (.CLET_SD_CFG_SD_SET, 256), (.HTCH_LINE_CFG_LOF_CLR, 3), (.HTCH_LINE_CFG_LOF_SET, 3),
      (.HTCH_LINE_CFG_ALIGN_M, 5), (.HTCH_LINE_CFG_ALIGN_N, 3), (.HTCH_LINE_CFG_BDI_ACT, 1), (.HTCH_LINE_CFG_FLT_EN, 1)] ∧ i < 3) ∧
    (∃ (f : _) (v : _) (i : _), (f, v) ∈ [(Fld.LNYD_LANE_CFG_DWELL, 6)] ∧ i < 4) ∧
    (∃ (f : _) (v : _) (i : _), (f, v) ∈ [(Fld.HLYD_REF_CFG_WTR_S, 300), (.HLYD_REF_CFG_REJ, 120), (.HLYD_REF_CFG_ACC, 92)] ∧ i < 10) ∧
    (∃ (f : _) (v : _) (i : _), (f, v) ∈ [(Fld.MRLN_MB_CFG_END1, 15), (.MRLN_MB_CFG_END0, 15), (.BEND_PG_CFG_WTR_S, 10),
      (.BEND_PG_DLY_GUARD, 180)] ∧ i < 16) ∧
    (∃ (f : _) (v : _) (i : _), (f, v) ∈ [(Fld.MRLN_END_ST_POST_RES, 3)] ∧ i < 32) ∧
    (∃ (f : _) (v : _) (i : _), (f, v) ∈ [(Fld.SHET_FLX_CFG_INST, 1), (.TWIN_TXFFE_C_M1, 56), (.TWIN_TXFFE_C_0, 48), (.TWIN_RXEQ_SD_THR,
      4), (.TWIN_RXEQ_CTLE, 20), (.TWIN_SCAN_MARGIN_INT, 24), (.TWIN_SCAN_TGT, 6), (.TWIN_SCAN_DWELL, 8)] ∧ i < 48) ∧
    (∃ (f : _) (v : _) (i : _), (f, v) ∈ [(Fld.SEIZ_KC_CFG_REKEY_H, 24), (.SEIZ_KC_CFG_TAG_WAIT, 64), (.SEIZ_KC_CFG_CEIL_EXP, 48),
      (.SEIZ_KC_CFG_AF_N, 4)] ∧ i < 256) ∧
    (∃ (f : _) (v : _) (i : _) (j : _), (f, v) ∈ [(Fld.STRD_DAC_CFG_SWING, 25), (.STRD_ADC_CFG_FS, 25), (.STRD_ADC_STAT_PWR, 255)] ∧
      i < 3 ∧ j < 4) ∧
    (∃ (f : _) (v : _) (i : _) (j : _), (f, v) ∈ [(Fld.SPLC_TAP_LIM_MIN, 7)] ∧ i < 3 ∧ j < 6) ∧
    (∃ (f : _) (v : _) (i : _) (j : _), (f, v) ∈ [(Fld.BRAD_SC_LOAD_CEIL_ENT, 124), (.BRAD_SC_LOAD_FLOOR_ENT, 24),
      (.BRAD_SC_LOAD_START_ENT, 32), (.BRAD_SC_ACT_FAR_SNR, 255), (.BRAD_SC_ACT_EFF_CEIL, 124), (.SPLC_SC_CFG_RX_START_ENT, 32),
      (.SPLC_SC_EST_DGD_SC, 255), (.SPLC_SC_EST_SNR, 255), (.SPLC_SC_EST_SNR_Y, 255), (.SPLC_SC_EST_SNR_X, 255), (.SPLC_SC_HIST_SNR_MAX,
      255), (.SPLC_SC_HIST_SNR_MIN, 255), (.BGHT_UP_CFG_TAPS, 15), (.CLET_SC_CFG_DEM_GUARD, 328), (.CLET_SC_CFG_ITER_DEF, 8),
      (.CLET_SC_CFG_ITER_MAX, 16), (.CLET_SC_CFG_ITER_MIN, 4)] ∧ i < 3 ∧ j < 32) ∧
    (∃ (f : _) (v : _) (i : _) (j : _), (f, v) ∈ [(Fld.BRAD_MAP_THRESH, 255)] ∧ i < 3 ∧ j < 101) ∧
    (∃ (f : _) (v : _) (i : _) (j : _), (f, v) ∈ [(Fld.BGHT_LEAF_ST_RXPWR, 255), (.BGHT_LEAF_ST_DN_SNR, 255), (.BGHT_LEAF_ST_UP_SNR, 255),
      (.BGHT_LEAF_ST_STATE, 7)] ∧ i < 3 ∧ j < 256) ∧
    (∃ (f : _) (v : _) (i : _) (j : _), (f, v) ∈ [(Fld.SPLC_CHAN_X, 128), (.SPLC_CHAN_Y, 128)] ∧ i < 3 ∧ j < 512) ∧
    (∃ (n : _) (j : _), n < 3 ∧ j < 6) ∧
    (∃ (l : _), l < 48) ∧
    (∃ (f : _), f ∈ [Fld.TOP_BOOT_ST_STAGE, .TOP_MODE_STAT_L0_MODE, .TOP_MODE_STAT_L1_MODE, .TOP_MODE_STAT_L2_MODE,
      .TOP_MODE_STAT_MATE_ACTIVE, .BCKT_U_STAT_LINK_UP, .HLYD_STAT_STATE, .HLYD_STAT_TOD_VALID, .LNYD_STAT_LSTATE,
      .MRLN_TRIPLE_ST_ACTIVE]) := ⟨
    ⟨Fld.TOP_ID_MAP_VER, 1, by decide +kernel⟩,
    ⟨Fld.BCKT_MEM_CFG_POIS_MAX, 16, 0, by decide +kernel⟩,
    ⟨Fld.TALY_AGE_LINE_SNR_CONV, 255, 0, by decide +kernel⟩,
    ⟨Fld.LNYD_LANE_CFG_DWELL, 6, 0, by decide +kernel⟩,
    ⟨Fld.HLYD_REF_CFG_WTR_S, 300, 0, by decide +kernel⟩,
    ⟨Fld.MRLN_MB_CFG_END1, 15, 0, by decide +kernel⟩,
    ⟨Fld.MRLN_END_ST_POST_RES, 3, 0, by decide +kernel⟩,
    ⟨Fld.SHET_FLX_CFG_INST, 1, 0, by decide +kernel⟩,
    ⟨Fld.SEIZ_KC_CFG_REKEY_H, 24, 0, by decide +kernel⟩,
    ⟨Fld.STRD_DAC_CFG_SWING, 25, 0, 0, by decide +kernel⟩,
    ⟨Fld.SPLC_TAP_LIM_MIN, 7, 0, 0, by decide +kernel⟩,
    ⟨Fld.BRAD_SC_LOAD_CEIL_ENT, 124, 0, 0, by decide +kernel⟩,
    ⟨Fld.BRAD_MAP_THRESH, 255, 0, 0, by decide +kernel⟩,
    ⟨Fld.BGHT_LEAF_ST_RXPWR, 255, 0, 0, by decide +kernel⟩,
    ⟨Fld.SPLC_CHAN_X, 128, 0, 0, by decide +kernel⟩,
    ⟨0, 0, by decide +kernel⟩,
    ⟨0, by decide +kernel⟩,
    ⟨Fld.TOP_BOOT_ST_STAGE, by decide +kernel⟩⟩

/-- RingsAndDoorbells. -/
theorem witness_RingsAndDoorbells :
    (∃ (s : State) (r : Ring) (v : BitVec 64) (q : RegKey), s.alive 1 = true ∧ s.on .BCKT_RING_CFG_LOC r = false ∧
      s.doorbellOk r (v.toNat % 2 ^ 32) = true ∧ s.rd .BCKT_RING_CFG_TYPE r = 0 ∧ q ≠ ⟨.BCKT_RING_ST, r, 0, 0⟩) ∧
    (∃ (s : State) (r : Ring) (v : BitVec 64) (q : RegKey), s.alive 1 = true ∧ s.on .BCKT_RING_CFG_LOC r = false ∧
      s.doorbellOk r (v.toNat % 2 ^ 32) = true ∧ s.rd .BCKT_RING_CFG_TYPE r ≠ 0 ∧ (s.ring r).lost = 0 ∧ q ≠ ⟨.BCKT_RING_ST, r, 0, 0⟩) ∧
    (∃ (s : State) (r : Ring) (v : BitVec 64), s.alive 1 = true ∧
      (s.on .BCKT_RING_CFG_LOC r = true ∨ s.doorbellOk r (v.toNat % 2 ^ 32) = false) ∧ s.rd .BCKT_RING_CFG_TYPE r = 0) ∧
    (∃ (s : State), s.alive 1 = true) ∧
    (∃ (s : State) (offset : Nat) (bytes : Nat), s.alive 1 = true ∧ ¬(bytes = 4 ∧ offset % 64 = 0 ∧ offset < 64 * 32768)) ∧
    (∃ (s : State) (req : Requester) (r : Ring) (w : Fin 4) (v : BitVec 32) (new : Nat),
      new = rwWrite .BCKT_RING_CFG (s.reg .BCKT_RING_CFG r) (setBits (s.reg .BCKT_RING_CFG r) (32 * w.val + 31) (32 * w.val) v.toNat) ∧
      s.mayWrite req 1 2 (bits new 70 67) ∧ 2 ≤ s.roleIn req (bits (s.reg .BCKT_RING_CFG r) 70 67) ∧ s.on .BCKT_RING_CFG_EN r = false ∧
      bit new 64 = true ∧ s.enableCause new = 0 ∧ bits new 75 75 = 0 ∧ s.on .BCKT_U_STAT_LINK_UP = true ∧
      s.on .BCKT_U_STAT_VIRAL = false ∧ (s.ring r).lost = 0) ∧
    (∃ (s : State) (req : Requester) (r : Ring) (w : Fin 4) (v : BitVec 32) (new : Nat),
      new = rwWrite .BCKT_RING_CFG (s.reg .BCKT_RING_CFG r) (setBits (s.reg .BCKT_RING_CFG r) (32 * w.val + 31) (32 * w.val) v.toNat) ∧
      s.mayWrite req 1 2 (bits new 70 67) ∧ 2 ≤ s.roleIn req (bits (s.reg .BCKT_RING_CFG r) 70 67) ∧ s.on .BCKT_RING_CFG_EN r = true ∧
      s.rd .BCKT_RING_CFG_TYPE r = 3 ∧ setBits new 64 64 1 = s.reg .BCKT_RING_CFG r ∧ bit new 64 = false) ∧
    (∃ (s : State) (req : Requester) (r : Ring) (w : Fin 4) (v : BitVec 32) (new : Nat),
      new = rwWrite .BCKT_RING_CFG (s.reg .BCKT_RING_CFG r) (setBits (s.reg .BCKT_RING_CFG r) (32 * w.val + 31) (32 * w.val) v.toNat) ∧
      s.mayWrite req 1 2 (bits new 70 67) ∧ 2 ≤ s.roleIn req (bits (s.reg .BCKT_RING_CFG r) 70 67) ∧ s.on .BCKT_RING_CFG_EN r = true ∧
      setBits new 64 64 1 ≠ s.reg .BCKT_RING_CFG r) ∧
    (∃ (s : State) (r : Ring), s.alive 1 = true ∧ s.on .BCKT_RING_CFG_IRQ_EN r = true ∧ s.rd .BCKT_RING_CFG_IRQ_US r ≠ 0 ∧
      (s.ring r).sinceMsg ≠ 0 ∧ s.rd .BCKT_RING_ST_STATE r = 1 ∧ s.on .BCKT_U_STAT_LINK_UP = true ∧ s.on .BCKT_U_STAT_VIRAL = false ∧
      (s.vecs.get {} (s.rd .BCKT_RING_CFG_VEC r)).masked = false) ∧
    (∃ (s : State) (v : Vec) (x : BitVec 64), s.alive 1 = true ∧ bit x.toNat 0 = false ∧ (s.vecs.get {} v.val).pending = true ∧
      s.on .BCKT_U_STAT_LINK_UP = true ∧ s.on .BCKT_U_STAT_VIRAL = false) ∧
    (∃ (s : State) (offset : Nat) (bytes : Nat), s.alive 1 = true ∧ (¬((bytes = 4 ∨ bytes = 8) ∧ offset % bytes = 0))) := ⟨
    ⟨((up.wr .BCKT_RING_CFG_LOC 0 0).wr .BCKT_RING_CFG_TYPE 0 0).wr .BCKT_RING_CFG_EN 1 0, 0, 0, ⟨.TOP_ID, 0, 0, 0⟩, by decide +kernel⟩,
    ⟨(((up.wr .BCKT_RING_CFG_LOC 0 0).wr .BCKT_RING_CFG_TYPE 1 0).wr .BCKT_RING_CFG_EN 1 0).setRing 0 { lost := 0 }, 0, 0, ⟨.TOP_ID, 0, 0,
      0⟩, by decide +kernel⟩,
    ⟨up.wr .BCKT_RING_CFG_TYPE 0 0, 0, 0, by decide +kernel⟩,
    ⟨up, by decide +kernel⟩,
    ⟨up, 0, 0, by decide +kernel⟩,
    ⟨up, .host 0, 0, 2, 7, rwWrite .BCKT_RING_CFG ((up).reg .BCKT_RING_CFG ((0 : Ring))) (setBits ((up).reg .BCKT_RING_CFG ((0 : Ring))) (32 * ((2 : Fin 4)).val + 31) (32 * ((2 : Fin 4)).val) ((7 : BitVec 32)).toNat),
      by unfold State.mayWrite; decide +kernel⟩,
    ⟨(up.wr .BCKT_RING_CFG_TYPE 3 0).wr .BCKT_RING_CFG_EN 1 0, .host 0, 0, 2, 6,
      rwWrite .BCKT_RING_CFG (((up.wr .BCKT_RING_CFG_TYPE 3 0).wr .BCKT_RING_CFG_EN 1 0).reg .BCKT_RING_CFG ((0 : Ring))) (setBits (((up.wr .BCKT_RING_CFG_TYPE 3 0).wr .BCKT_RING_CFG_EN 1 0).reg .BCKT_RING_CFG ((0 : Ring))) (32 * ((2 : Fin 4)).val + 31) (32 * ((2 : Fin 4)).val) ((6 : BitVec 32)).toNat),
      by unfold State.mayWrite; decide +kernel⟩,
    ⟨(up.wr .BCKT_RING_CFG_SIZE 4 0).wr .BCKT_RING_CFG_EN 1 0, .host 0, 0, 0, 0x1000,
      rwWrite .BCKT_RING_CFG (((up.wr .BCKT_RING_CFG_SIZE 4 0).wr .BCKT_RING_CFG_EN 1 0).reg .BCKT_RING_CFG ((0 : Ring))) (setBits (((up.wr .BCKT_RING_CFG_SIZE 4 0).wr .BCKT_RING_CFG_EN 1 0).reg .BCKT_RING_CFG ((0 : Ring))) (32 * ((0 : Fin 4)).val + 31) (32 * ((0 : Fin 4)).val) ((0x1000 : BitVec 32)).toNat),
      by unfold State.mayWrite; decide +kernel⟩,
    ⟨{ ((((((up.wr .BCKT_RING_CFG_IRQ_EN 1 0).wr .BCKT_RING_CFG_IRQ_US 1 0).wr .BCKT_RING_ST_STATE 1 0).setRing 0 { sinceMsg := 1 }))) with vecs := [(0, { masked := false })] },
      0, by decide +kernel⟩,
    ⟨{ up with vecs := [(0, { pending := true })] }, 0, 0, by decide +kernel⟩,
    ⟨up, 0, 0, by decide +kernel⟩⟩

/-- CommandsPassThroughRings. -/
theorem witness_CommandsPassThroughRings :
    (∃ (s : State) (r : Ring) (b : List Byte), s.alive 1 = true ∧ s.ringWorks r = true ∧
      s.ringOutside r (s.rd .BCKT_RING_ST_CONS r) = false ∧ (bit (byteAt b 2) 0 = false ∨ s.rd .BCKT_RING_ST_INFL r = 0)) ∧
    (∃ (s : State) (r : Ring), s.alive 1 = true ∧ s.ringWorks r = true) ∧
    (∃ (s : State) (h : Nat) (c : Cmd), s.alive 1 = true ∧ s.cmd h = some c ∧ c.done = true ∧ c.dropped = false ∧
      s.ringOutside c.pair (s.rd .BCKT_RING_ST_PROD c.pair) = false) ∧
    (∃ (s : State) (h : Nat) (c : Cmd), s.alive 1 = true ∧ s.cmd h = some c ∧ c.done = true ∧ c.dropped = true) ∧
    (∃ (s : State) (h : Nat) (c : Cmd), s.alive 1 = true ∧ s.cmd h = some c ∧ c.done = false) ∧
    (∃ (s : State) (h : Nat) (c : Cmd), s.ready 1 0x0001 h c) ∧
    (∃ (s : State) (h : Nat) (c : Cmd), s.ready 1 0x0002 h c) := ⟨
    ⟨((up.wr .BCKT_RING_CFG_EN 1 0).wr .BCKT_RING_ST_STATE 1 0).wr .BCKT_RING_ST_PROD 1 0, 0, [], by decide +kernel⟩,
    ⟨((up.wr .BCKT_RING_CFG_EN 1 0).wr .BCKT_RING_ST_STATE 1 0).wr .BCKT_RING_ST_PROD 1 0, 0, by decide +kernel⟩,
    ⟨given (up) { cmdFor 0 0 [] [] with done := true, dropped := false }, 0, { cmdFor 0 0 [] [] with done := true, dropped := false },
      by decide +kernel⟩,
    ⟨given (up) { cmdFor 0 0 [] [] with done := true, dropped := true }, 0, { cmdFor 0 0 [] [] with done := true, dropped := true },
      by decide +kernel⟩,
    ⟨given (up) { cmdFor 0 0 [] [] with done := false, dropped := false }, 0, { cmdFor 0 0 [] [] with done := false, dropped := false },
      by decide +kernel⟩,
    ⟨given up (cmdFor 0x0001 0 [] []), 0, cmdFor 0x0001 0 [] [], by unfold State.ready; decide +kernel⟩,
    ⟨given up (cmdFor 0x0002 0 [] []), 0, cmdFor 0x0002 0 [] [], by unfold State.ready; decide +kernel⟩⟩

/-- ResetsLead. -/
theorem witness_ResetsLead :
    (∃ (r : RegKey), r.id ≠ .TOP_SERIAL) ∧
    (∃ (flash : Option FlashImage), flash = none) ∧
    (∃ (s : State), s.boot.porst = false) ∧
    (∃ (s : State), s.boot.porst = true) ∧
    (∃ (s : State) (req : Requester), s.boot.coreUp = true ∧ (s.rd .TOP_FAULT_HELD).testBit 0 = false ∧ req ≠ .i3c ∧ 2 ≤ s.roleIn req 0 ∧
      s.journalBlocked = false) ∧
    (∃ (s : State), s.on .TOP_FAULT_ESC_PEND = true ∧ s.on .TOP_FLT_CFG_ESC_AUTO = true) ∧
    (∃ (s : State), s.boot.rootLocked = true ∧ s.on .TOP_FLT_CFG_FVEC_EN = false) ∧
    (∃ (s : State), s.boot.shutdown = true ∧ s.belay.io < 2) := ⟨
    ⟨⟨.TOP_ID, 0, 0, 0⟩, by decide +kernel⟩,
    ⟨none, by decide +kernel⟩,
    ⟨{ up with boot := { up.boot with porst := false } }, by decide +kernel⟩,
    ⟨{ up with boot := { up.boot with porst := true } }, by decide +kernel⟩,
    ⟨{ up with boot := { up.boot with coreUp := true } }, .host 0, by decide +kernel⟩,
    ⟨(up.wr .TOP_FAULT_ESC_PEND 1).wr .TOP_FLT_CFG_ESC_AUTO 1, by decide +kernel⟩,
    ⟨{ (up.wr .TOP_FLT_CFG_FVEC_EN 0) with boot := { up.boot with rootLocked := true } }, by decide +kernel⟩,
    ⟨{ up with boot := { up.boot with shutdown := true } }, by decide +kernel⟩⟩

/-- BootProgress. -/
theorem witness_BootProgress :
    (∃ (s : State), s.boot.porst = false ∧ s.boot.shutdown = false ∧ s.on .TOP_BOOT_ST_FAIL = false ∧ s.on .TOP_BOOT_ST_READY = false ∧
      s.rd .TOP_BOOT_ST_STAGE = 1 ∧ s.rd .BLAY_STAT_SUPPLY ≤ 1) ∧
    (∃ (s : State), s.boot.porst = false ∧ s.boot.shutdown = false ∧ s.on .TOP_BOOT_ST_FAIL = false ∧ s.on .TOP_BOOT_ST_READY = false ∧
      s.rd .TOP_BOOT_ST_STAGE = 2 ∧ s.boot.xoRunning = true ∧ s.on .TOP_FAULT_ROOT_LOST = false) ∧
    (∃ (s : State), s.boot.porst = false ∧ s.boot.shutdown = false ∧ s.on .TOP_BOOT_ST_FAIL = false ∧ s.on .TOP_BOOT_ST_READY = false ∧
      s.rd .TOP_BOOT_ST_STAGE = 3 ∧ s.boot.mfgHold = true) ∧
    (∃ (s : State), s.boot.porst = false ∧ s.boot.shutdown = false ∧ s.on .TOP_BOOT_ST_FAIL = false ∧ s.on .TOP_BOOT_ST_READY = false ∧
      s.rd .TOP_BOOT_ST_STAGE = 3 ∧ s.boot.mfgHold = false) ∧
    (∃ (s : State) (fails : List (MemInst × Line)), s.boot.porst = false ∧ s.boot.shutdown = false ∧ s.on .TOP_BOOT_ST_FAIL = false ∧
      s.on .TOP_BOOT_ST_READY = false ∧ s.rd .TOP_BOOT_ST_STAGE = 4 ∧ s.rd .TOP_FAULT_HELD = 0 ∧ fails = []) ∧
    (∃ (s : State) (fails : List (MemInst × Line)) (i : MemInst) (l : Line), s.boot.porst = false ∧ s.boot.shutdown = false ∧
      s.on .TOP_BOOT_ST_FAIL = false ∧ s.on .TOP_BOOT_ST_READY = false ∧ s.rd .TOP_BOOT_ST_STAGE = 4 ∧ fails = [(i, l)] ∧
      s.on .WHIP_INST_PRESENT i = true ∧ i.val / 64 ∈ [0, 1, 2, 3, 5, 6]) ∧
    (∃ (s : State), s.boot.porst = false ∧ s.boot.shutdown = false ∧ s.on .TOP_BOOT_ST_FAIL = false ∧ s.on .TOP_BOOT_ST_READY = false ∧
      s.rd .TOP_BOOT_ST_STAGE = 5 ∧ (∀ i < 3, s.copyState i ≠ 0)) ∧
    (∃ (s : State), s.boot.porst = false ∧ s.boot.shutdown = false ∧ s.on .TOP_BOOT_ST_FAIL = false ∧ s.on .TOP_BOOT_ST_READY = false ∧
      s.rd .TOP_BOOT_ST_STAGE = 5 ∧ (∃ i < 3, s.copyState i = 0)) ∧
    (∃ (s : State), s.boot.porst = false ∧ s.boot.shutdown = false ∧ s.on .TOP_BOOT_ST_FAIL = false ∧ s.on .TOP_BOOT_ST_READY = false ∧
      s.rd .TOP_BOOT_ST_STAGE = 6) ∧
    (∃ (s : State), s.boot.porst = false ∧ s.boot.shutdown = false ∧ s.on .TOP_BOOT_ST_FAIL = false ∧ s.on .TOP_BOOT_ST_READY = false ∧
      s.rd .TOP_BOOT_ST_STAGE = 7 ∧ s.boot.coreUp = true) ∧
    (∃ (s : State) (cause : Fin 6), s.boot.porst = false ∧ s.boot.shutdown = false ∧ s.on .TOP_BOOT_ST_FAIL = false ∧
      s.on .TOP_BOOT_ST_READY = false ∧ (s.rd .TOP_BOOT_ST_STAGE, cause.val) ∈ [(2, 1), (3, 5), (3, 2), (5, 3), (5, 5), (5, 2), (7, 2)]) ∧
    (∃ (s : State), s.on .TOP_FAULT_ROOT_LOST = true ∧ s.boot.xoRunning = true ∧ s.boot.shutdown = false) ∧
    (∃ (s : State), s.boot.relocking = true ∧ s.boot.porst = false ∧ s.boot.shutdown = false ∧ s.on .TOP_BOOT_ST_FAIL = false ∧
      s.on .TOP_BOOT_ST_READY = false ∧ s.rd .TOP_BOOT_ST_STAGE = 2) ∧
    (∃ (s : State) (req : Requester) (v : Bool), s.boot.coreUp = true ∧ (s.rd .TOP_FAULT_HELD).testBit 0 = false ∧ req ≠ .i3c ∧
      2 ≤ s.roleIn req 0 ∧ s.journalBlocked = false ∧ v = true) := ⟨
    ⟨{ (((up.wr .TOP_BOOT_ST_FAIL 0).wr .TOP_BOOT_ST_READY 0).wr .TOP_BOOT_ST_STAGE 1) with boot := { up.boot with porst := false, shutdown := false } },
      by decide +kernel⟩,
    ⟨{ ((((up.wr .TOP_BOOT_ST_FAIL 0).wr .TOP_BOOT_ST_READY 0).wr .TOP_BOOT_ST_STAGE 2).wr .TOP_FAULT_ROOT_LOST 0) with boot := { up.boot with porst := false, shutdown := false, xoRunning := true } },
      by decide +kernel⟩,
    ⟨{ (((up.wr .TOP_BOOT_ST_FAIL 0).wr .TOP_BOOT_ST_READY 0).wr .TOP_BOOT_ST_STAGE 3) with boot := { up.boot with porst := false, shutdown := false, mfgHold := true } },
      by decide +kernel⟩,
    ⟨{ (((up.wr .TOP_BOOT_ST_FAIL 0).wr .TOP_BOOT_ST_READY 0).wr .TOP_BOOT_ST_STAGE 3) with boot := { up.boot with porst := false, shutdown := false, mfgHold := false } },
      by decide +kernel⟩,
    ⟨{ ((((up.wr .TOP_BOOT_ST_FAIL 0).wr .TOP_BOOT_ST_READY 0).wr .TOP_BOOT_ST_STAGE 4).wr .TOP_FAULT_HELD 0) with boot := { up.boot with porst := false, shutdown := false } },
      [], by decide +kernel⟩,
    ⟨{ ((((up.wr .TOP_BOOT_ST_FAIL 0).wr .TOP_BOOT_ST_READY 0).wr .TOP_BOOT_ST_STAGE 4).wr .WHIP_INST_PRESENT 1 0) with boot := { up.boot with porst := false, shutdown := false } },
      [(((0 : MemInst)), ((0 : Line)))], 0, 0, by decide +kernel⟩,
    ⟨{ (((up.wr .TOP_BOOT_ST_FAIL 0).wr .TOP_BOOT_ST_READY 0).wr .TOP_BOOT_ST_STAGE 5) with boot := { up.boot with porst := false, shutdown := false } },
      by decide +kernel⟩,
    ⟨{ up.wr .TOP_BOOT_ST_STAGE 5 with nv := { up.nv with copies := [(0, { signed := true })] } }, ⟨by decide +kernel, by decide +kernel,
      by decide +kernel, by decide +kernel, by decide +kernel, 0, by decide, by decide +kernel⟩⟩,
    ⟨{ (((up.wr .TOP_BOOT_ST_FAIL 0).wr .TOP_BOOT_ST_READY 0).wr .TOP_BOOT_ST_STAGE 6) with boot := { up.boot with porst := false, shutdown := false } },
      by decide +kernel⟩,
    ⟨{ (((up.wr .TOP_BOOT_ST_FAIL 0).wr .TOP_BOOT_ST_READY 0).wr .TOP_BOOT_ST_STAGE 7) with boot := { up.boot with porst := false, shutdown := false, coreUp := true } },
      by decide +kernel⟩,
    ⟨{ (((up.wr .TOP_BOOT_ST_FAIL 0).wr .TOP_BOOT_ST_READY 0).wr .TOP_BOOT_ST_STAGE 2) with boot := { up.boot with porst := false, shutdown := false } },
      1, by decide +kernel⟩,
    ⟨{ (up.wr .TOP_FAULT_ROOT_LOST 1) with boot := { up.boot with xoRunning := true, shutdown := false } }, by decide +kernel⟩,
    ⟨{ (((up.wr .TOP_BOOT_ST_FAIL 0).wr .TOP_BOOT_ST_READY 0).wr .TOP_BOOT_ST_STAGE 2) with boot := { up.boot with relocking := true, porst := false, shutdown := false } },
      by decide +kernel⟩,
    ⟨{ up with boot := { up.boot with coreUp := true } }, .host 0, true, by decide +kernel⟩⟩

/-- LinkAndSupply. -/
theorem witness_LinkAndSupply :
    (∃ (s : State), s.on .BCKT_U_STAT_LINK_UP = true ∧ s.alive 1 = true) ∧
    (∃ (s : State), s.on .BCKT_U_STAT_LINK_UP = false ∧ s.boot.porst = false ∧ s.boot.shutdown = false ∧ s.alive 1 = true ∧
      s.boot.retrain = false) ∧
    (∃ (s : State), s.on .BCKT_U_STAT_LINK_UP = true) ∧
    (∃ (s : State) (e : RailEdge), s.boot.shutdown = false ∧ e = .ioFall165) ∧
    (∃ (s : State) (e : RailEdge), s.boot.shutdown = false ∧ e = .coreOut) ∧
    (∃ (s : State) (e : RailEdge), s.boot.shutdown = false ∧ e = .ioFall171 ∧ s.belay.io ≤ 2) ∧
    (∃ (s : State) (e : RailEdge), s.boot.shutdown = false ∧ e = .ioFall175 ∧ s.belay.io = 0 ∧ s.on .BLAY_STAT_PWR_WARN = false) ∧
    (∃ (s : State) (e : RailEdge), s.boot.shutdown = false ∧ e = .ioRise177 ∧ s.on .BLAY_STAT_PWR_WARN = false) ∧
    (∃ (s : State) (low : Bool), s.boot.shutdown = false ∧ low = true ∧ s.on .BLAY_SUP_CFG_PWR_WARN_EN = true) ∧
    (∃ (s : State) (low : Bool), s.boot.shutdown = false ∧ low = false) ∧
    (∃ (s : State), s.alive 6 = true ∧ s.junction < 8 * (s.rd .BLAY_BUD_CFG_TJ_TRIP : Int)) := ⟨
    ⟨up.wr .BCKT_U_STAT_LINK_UP 1, by decide +kernel⟩,
    ⟨{ (up.wr .BCKT_U_STAT_LINK_UP 0) with boot := { up.boot with porst := false, shutdown := false, retrain := false } },
      by decide +kernel⟩,
    ⟨up.wr .BCKT_U_STAT_LINK_UP 1, by decide +kernel⟩,
    ⟨{ up with boot := { up.boot with shutdown := false } }, .ioFall165, by decide +kernel⟩,
    ⟨{ up with boot := { up.boot with shutdown := false } }, .coreOut, by decide +kernel⟩,
    ⟨{ up with boot := { up.boot with shutdown := false } }, .ioFall171, by decide +kernel⟩,
    ⟨{ ({ (up.wr .BLAY_STAT_PWR_WARN 0) with boot := { up.boot with shutdown := false } }) with belay := { up.belay with io := 0 } },
      .ioFall175, by decide +kernel⟩,
    ⟨{ (up.wr .BLAY_STAT_PWR_WARN 0) with boot := { up.boot with shutdown := false } }, .ioRise177, by decide +kernel⟩,
    ⟨{ (up.wr .BLAY_SUP_CFG_PWR_WARN_EN 1) with boot := { up.boot with shutdown := false } }, true, by decide +kernel⟩,
    ⟨{ up with boot := { up.boot with shutdown := false } }, false, by decide +kernel⟩,
    ⟨up, by decide +kernel⟩⟩

/-- CoresServicesAndTriple. -/
theorem witness_CoresServicesAndTriple :
    (∃ (s : State) (k : Core), s.alive 2 = true ∧ s.rd .MRLN_CORE_ST_CSTATE k = 2 ∧ (s.svc 0).core ≠ k.val ∧
      (s.svc (s.rd .MRLN_CORE_ST_SVC k)).recent.length < 2) ∧
    (∃ (s : State) (k : Core), s.alive 2 = true ∧ s.rd .MRLN_CORE_ST_CSTATE k = 2 ∧ (s.svc 0).core = k.val ∧
      s.on .MRLN_TRIPLE_ST_ACTIVE = false) ∧
    (∃ (s : State) (k : Core), s.alive 2 = true ∧ s.rd .MRLN_CORE_ST_CSTATE k ≠ 0 ∧ s.rd .MRLN_CORE_ST_CSTATE k = 2) ∧
    (∃ (s : State) (k : Core), s.alive 2 = true ∧ s.rd .MRLN_CORE_ST_CSTATE k ≠ 0 ∧ s.on .MRLN_TRIPLE_ST_ACTIVE = false) ∧
    (∃ (s : State) (k : Option (Fin 3)) (c : Fin 3), s.alive 2 = true ∧ s.on .MRLN_TRIPLE_ST_ACTIVE = true ∧ k = some c ∧
      s.rd .MRLN_TRIPLE_ST_OUTVOTED = 0) ∧
    (∃ (s : State) (k : Option (Fin 3)), s.alive 2 = true ∧ s.on .MRLN_TRIPLE_ST_ACTIVE = true ∧ k = none ∧
      s.rd .MRLN_TRIPLE_ST_RESTARTS < 3) ∧
    (∃ (s : State) (k : Option (Fin 3)), s.alive 2 = true ∧ s.on .MRLN_TRIPLE_ST_ACTIVE = true ∧ k = none ∧
      s.rd .MRLN_TRIPLE_ST_RESTARTS = 3 ∧ s.rd .MRLN_TRIPLE_ST_CAUSE = 0) ∧
    (∃ (s : State) (k : Option (Fin 3)), s.alive 2 = true ∧ s.on .MRLN_TRIPLE_ST_ACTIVE = true ∧ k = none ∧
      s.rd .MRLN_TRIPLE_ST_RESTARTS = 3 ∧ s.rd .MRLN_TRIPLE_ST_CAUSE ≠ 0) ∧
    (∃ (s : State), s.alive 2 = true ∧ s.on .MRLN_TRIPLE_ST_ACTIVE = true ∧ 2 ≤ s.rd .MRLN_TRIPLE_ST_CAUSE ∧
      s.rd .MRLN_TRIPLE_ST_CAUSE = 5) ∧
    (∃ (s : State) (e : _) (c : _), s.alive 2 = true ∧ s.on .MRLN_TRIPLE_ST_ACTIVE = true ∧ 2 ≤ s.rd .MRLN_TRIPLE_ST_CAUSE ∧
      e ∈ s.marline.restartCmds ∧ s.cmd e.1 = some c ∧ c.started = true ∧ c.done = false) ∧
    (∃ (s : State), s.alive 2 = true ∧ s.on .MRLN_TRIPLE_ST_ACTIVE = true ∧ 2 ≤ s.rd .MRLN_TRIPLE_ST_CAUSE) ∧
    (∃ (s : State) (k : Core), s.alive 2 = true ∧ s.on .MRLN_TRIPLE_ST_ACTIVE = true ∧ s.rd .MRLN_TRIPLE_ST_CAUSE < 2 ∧
      (s.rd .MRLN_TRIPLE_ST_OUTVOTED).testBit k.val = false) ∧
    (∃ (s : State) (k : Core) (arrived : List Service) (ready : List (Nat × Bool)) (j : Nat × Bool), s.alive 2 = true ∧
      s.rd .MRLN_CORE_ST_CSTATE k = 3 ∧ s.on .MRLN_TRIPLE_ST_ACTIVE = false ∧ ready = s.marline.ready ++ arrived.map (fun v => (v.val,
      false)) ∧ j.1 < 8 ∧ (ready.find? fun x => jobClass x.1 == 0) = some j) ∧
    (∃ (s : State) (k : Core) (arrived : List Service) (ready : List (Nat × Bool)), s.alive 2 = true ∧ s.rd .MRLN_CORE_ST_CSTATE k = 3 ∧
      s.on .MRLN_TRIPLE_ST_ACTIVE = false ∧ ready = s.marline.ready ++ arrived.map (fun v => (v.val, false)) ∧ (∀ x ∈ ready,
      jobClass x.1 ≠ 0 ∧ s.marline.grantLeft.get 0 (jobClass x.1) = 0)) ∧
    (∃ (s : State) (k : Core) (v : Nat), s.alive 2 = true ∧ s.rd .MRLN_CORE_ST_CSTATE k = 2 ∧ v = s.rd .MRLN_CORE_ST_SVC k ∧
      jobClass v ≠ 0) ∧
    (∃ (s : State), s.alive 2 = true) := ⟨
    ⟨(up.wr .MRLN_CORE_ST_CSTATE 2 0).setSvc 0 { core := 3 }, 0, by decide +kernel⟩,
    ⟨((up.wr .MRLN_CORE_ST_CSTATE 2 1).wr .MRLN_TRIPLE_ST_ACTIVE 0).setSvc 0 { core := 1 }, 1, by decide +kernel⟩,
    ⟨(up.wr .MRLN_CORE_ST_CSTATE 1 0).wr .MRLN_CORE_ST_CSTATE 2 0, 0, by decide +kernel⟩,
    ⟨(up.wr .MRLN_CORE_ST_CSTATE 1 0).wr .MRLN_TRIPLE_ST_ACTIVE 0, 0, by decide +kernel⟩,
    ⟨(up.wr .MRLN_TRIPLE_ST_ACTIVE 1).wr .MRLN_TRIPLE_ST_OUTVOTED 0, some ((0 : Fin 3)), 0, by decide +kernel⟩,
    ⟨up.wr .MRLN_TRIPLE_ST_ACTIVE 1, none, by decide +kernel⟩,
    ⟨((up.wr .MRLN_TRIPLE_ST_ACTIVE 1).wr .MRLN_TRIPLE_ST_RESTARTS 3).wr .MRLN_TRIPLE_ST_CAUSE 0, none, by decide +kernel⟩,
    ⟨((up.wr .MRLN_TRIPLE_ST_ACTIVE 1).wr .MRLN_TRIPLE_ST_RESTARTS 3).wr .MRLN_TRIPLE_ST_CAUSE 1, none, by decide +kernel⟩,
    ⟨((up.wr .MRLN_TRIPLE_ST_ACTIVE 1).wr .MRLN_TRIPLE_ST_CAUSE 2).wr .MRLN_TRIPLE_ST_CAUSE 5, by decide +kernel⟩,
    ⟨{ given ((up.wr .MRLN_TRIPLE_ST_ACTIVE 1).wr .MRLN_TRIPLE_ST_CAUSE 2) { cmdFor 0x0502 0 [] [] with started := true } with marline := { up.marline with restartCmds := [(0, 0)] } },
      (0, 0), { cmdFor 0x0502 0 [] [] with started := true }, by decide +kernel⟩,
    ⟨(up.wr .MRLN_TRIPLE_ST_ACTIVE 1).wr .MRLN_TRIPLE_ST_CAUSE 2, by decide +kernel⟩,
    ⟨up.wr .MRLN_TRIPLE_ST_ACTIVE 1, 0, by decide +kernel⟩,
    ⟨(up.wr .MRLN_CORE_ST_CSTATE 3 0).wr .MRLN_TRIPLE_ST_ACTIVE 0, 0, [0],
      ((up.wr .MRLN_CORE_ST_CSTATE 3 0).wr .MRLN_TRIPLE_ST_ACTIVE 0).marline.ready ++ (([0] : List Service)).map (fun v => (v.val,
      false)), (0, false), by decide +kernel⟩,
    ⟨(up.wr .MRLN_CORE_ST_CSTATE 3 0).wr .MRLN_TRIPLE_ST_ACTIVE 0, 0, [],
      ((up.wr .MRLN_CORE_ST_CSTATE 3 0).wr .MRLN_TRIPLE_ST_ACTIVE 0).marline.ready ++ (([] : List Service)).map (fun v => (v.val, false)),
      by decide +kernel⟩,
    ⟨(up.wr .MRLN_CORE_ST_CSTATE 2 0).wr .MRLN_CORE_ST_SVC 3 0, 0,
      ((up.wr .MRLN_CORE_ST_CSTATE 2 0).wr .MRLN_CORE_ST_SVC 3 0).rd .MRLN_CORE_ST_SVC ((0 : Core)), by decide +kernel⟩,
    ⟨up, by decide +kernel⟩⟩

/-- MailboxesAndServiceCommands. -/
theorem witness_MailboxesAndServiceCommands :
    (∃ (s : State) (k : Core) (m : Chan) (e : ChanEnd) (len : BitVec 5) (w : Nat), s.alive 2 = true ∧ w = 2 * m.val + e.val ∧
      s.endCode (.core k) = some (s.endBound w) ∧ s.on .MRLN_MB_CFG_EN m = true ∧ 0 < len.toNat ∧ len.toNat ≤ 16 ∧
      mbWords (s.mbQueue w) + len.toNat ≤ 16) ∧
    (∃ (s : State) (k : Core) (m : Chan) (e : ChanEnd) (len : BitVec 5) (w : Nat), s.alive 2 = true ∧ w = 2 * m.val + e.val ∧
      s.endCode (.core k) = some (s.endBound w) ∧ s.on .MRLN_MB_CFG_EN m = true ∧ 0 < len.toNat ∧ len.toNat ≤ 16 ∧
      16 < mbWords (s.mbQueue w) + len.toNat) ∧
    (∃ (s : State) (k : Core) (m : Chan) (e : ChanEnd) (len : BitVec 5) (w : Nat), s.alive 2 = true ∧ w = 2 * m.val + e.val ∧
      s.endCode (.core k) = some (s.endBound w) ∧ s.on .MRLN_MB_CFG_EN m = true ∧ (len.toNat = 0 ∨ 16 < len.toNat)) ∧
    (∃ (s : State) (m : Chan) (e : ChanEnd) (w : Nat), s.alive 2 = true ∧ w = 2 * m.val + e.val ∧ s.endBound w ≠ 0) ∧
    (∃ (s : State) (p : BitVec 20) (m : Chan) (e : ChanEnd) (w : Nat), s.alive 2 = true ∧ w = 2 * m.val + e.val ∧ s.endBound w = 0 ∧
      s.roleIn (.host p) (s.rd .MRLN_MB_CFG_MB_DOM m) = 0) ∧
    (∃ (s : State) (k : Core) (m : Chan) (e : ChanEnd) (w : Nat) (x : MbMsg), s.alive 2 = true ∧ w = 2 * m.val + e.val ∧
      s.endCode (.core k) = some (s.endBound w) ∧ s.mbQueue (otherEnd w) = [x] ∧ s.endBound (otherEnd w) = 0) ∧
    (∃ (s : State) (h : Nat) (c : Cmd), s.ready 2 0x0501 h c ∧ s.recovering = false ∧ c.par 16 1 ≤ 7) ∧
    (∃ (s : State) (h : Nat) (c : Cmd), s.ready 2 0x0502 h c ∧ s.recovering = false ∧ c.par 16 1 ≤ 7 ∧
      (s.svc (c.par 16 1)).recent.length < 2) ∧
    (∃ (s : State) (h : Nat) (c : Cmd), s.ready 2 0x0502 h c ∧ s.recovering = false ∧ c.par 16 1 ≤ 7 ∧
      2 ≤ (s.svc (c.par 16 1)).recent.length ∧ s.on .MRLN_TRIPLE_ST_ACTIVE = false) ∧
    (∃ (s : State) (h : Nat) (c : Cmd), s.ready 2 0x0502 h c ∧ s.recovering = false ∧ c.par 16 1 = 255 ∧
      s.on .MRLN_TRIPLE_ST_ACTIVE = false) ∧
    (∃ (s : State) (h : Nat) (c : Cmd), s.ready 2 0x0502 h c ∧ s.recovering = false ∧ 7 < c.par 16 1 ∧ c.par 16 1 ≠ 255) ∧
    (∃ (s : State) (h : Nat) (c : Cmd), s.ready 2 0x0503 h c ∧ s.recovering = false ∧ 128 ≤ c.par 16 1 ∧ c.ind ≠ [] ∧ c.ind.length ≤ 1016) := ⟨
    ⟨(up.wr .MRLN_MB_CFG_EN 1 0).wr .MRLN_MB_CFG_END0 1 0, 0, 0, 0, 16, 2 * ((0 : Chan)).val + ((0 : ChanEnd)).val, by decide +kernel⟩,
    ⟨{ ((up.wr .MRLN_MB_CFG_EN 1 0).wr .MRLN_MB_CFG_END0 1 0) with marline := { up.marline with queues := [(0, [⟨0, [0], 0⟩]), (1, [⟨0, [0], 0⟩])] } },
      0, 0, 0, 16, 2 * ((0 : Chan)).val + ((0 : ChanEnd)).val, by decide +kernel⟩,
    ⟨(up.wr .MRLN_MB_CFG_EN 1 0).wr .MRLN_MB_CFG_END0 1 0, 0, 0, 0, 0, 2 * ((0 : Chan)).val + ((0 : ChanEnd)).val, by decide +kernel⟩,
    ⟨up, 0, 0, 2 * ((0 : Chan)).val + ((0 : ChanEnd)).val, by decide +kernel⟩,
    ⟨up.wr .MRLN_MB_CFG_END0 0 0, 5, 0, 0, 2 * ((0 : Chan)).val + ((0 : ChanEnd)).val, by decide +kernel⟩,
    ⟨{ ((up.wr .MRLN_MB_CFG_END0 1 0).wr .MRLN_MB_CFG_END1 0 0) with marline := { up.marline with queues := [(0, [⟨0, [0], 0⟩]), (1, [⟨0, [0], 0⟩])] } },
      0, 0, 0, 2 * ((0 : Chan)).val + ((0 : ChanEnd)).val, ⟨0, [0], 0⟩, by decide +kernel⟩,
    ⟨given up (cmdFor 0x0501 0 [] []), 0, cmdFor 0x0501 0 [] [], by unfold State.ready; decide +kernel⟩,
    ⟨given up (cmdFor 0x0502 0 [] []), 0, cmdFor 0x0502 0 [] [], by unfold State.ready; decide +kernel⟩,
    ⟨given ((up.wr .MRLN_TRIPLE_ST_ACTIVE 0).setSvc 0 { recent := [0, 0] }) (cmdFor 0x0502 0 [] []), 0, cmdFor 0x0502 0 [] [],
      by unfold State.ready; decide +kernel⟩,
    ⟨given (up.wr .MRLN_TRIPLE_ST_ACTIVE 0) (cmdFor 0x0502 0 [255] []), 0, cmdFor 0x0502 0 [255] [],
      by unfold State.ready; decide +kernel⟩,
    ⟨given up (cmdFor 0x0502 0 [8] []), 0, cmdFor 0x0502 0 [8] [], by unfold State.ready; decide +kernel⟩,
    ⟨given up (cmdFor 0x0503 0 [128] [0]), 0, cmdFor 0x0503 0 [128] [0], by unfold State.ready; decide +kernel⟩⟩

/-- RolesGrantedAndEnded. -/
theorem witness_RolesGrantedAndEnded :
    (∃ (s : State) (h : Nat) (c : Cmd), s.ready 2 0x0401 h c) ∧
    (∃ (s : State) (h : Nat) (c : Cmd) (req : Requester) (r : Nat), s.ready 2 0x0402 h c ∧ s.journalBlocked = false ∧
      req = s.stampOf c.req ∧ c.ind.length = 100 ∧ 1 ≤ byteAt c.ind 0 ∧ byteAt c.ind 0 ≤ 3 ∧ (s.authOf req).locked = false ∧
      r = s.judgeResponse req (byteAt c.ind 0) (byteAt c.ind 1) (leAt c.ind 2 2) (c.ind.drop 4) ∧ r ≠ 0) ∧
    (∃ (s : State) (h : Nat) (c : Cmd) (req : Requester) (r : Nat), s.ready 2 0x0402 h c ∧ s.journalBlocked = false ∧
      req = s.stampOf c.req ∧ c.ind.length = 100 ∧ 1 ≤ byteAt c.ind 0 ∧ byteAt c.ind 0 ≤ 3 ∧ (s.authOf req).locked = false ∧
      r = s.judgeResponse req (byteAt c.ind 0) (byteAt c.ind 1) (leAt c.ind 2 2) (c.ind.drop 4) ∧ r ≠ 0 ∧ (s.authOf req).fails < 4) ∧
    (∃ (s : State) (h : Nat) (c : Cmd) (req : Requester) (r : Nat), s.ready 2 0x0402 h c ∧ s.journalBlocked = false ∧
      req = s.stampOf c.req ∧ c.ind.length = 100 ∧ 1 ≤ byteAt c.ind 0 ∧ byteAt c.ind 0 ≤ 3 ∧ (s.authOf req).locked = false ∧
      r = s.judgeResponse req (byteAt c.ind 0) (byteAt c.ind 1) (leAt c.ind 2 2) (c.ind.drop 4) ∧ r ≠ 0 ∧ 4 ≤ (s.authOf req).fails) ∧
    (∃ (s : State) (h : Nat) (c : Cmd) (req : Requester) (r : Nat), s.ready 2 0x0402 h c ∧ s.journalBlocked = false ∧
      req = s.stampOf c.req ∧ c.ind.length = 100 ∧ 1 ≤ byteAt c.ind 0 ∧ byteAt c.ind 0 ≤ 3 ∧ (s.authOf req).locked = false ∧
      r = s.judgeResponse req (byteAt c.ind 0) (byteAt c.ind 1) (leAt c.ind 2 2) (c.ind.drop 4)) ∧
    (∃ (s : State) (h : Nat) (c : Cmd) (k : Slot), s.ready 2 0x0403 h c ∧ s.journalBlocked = false ∧
      (k.val ∉ s.sessionsOf (s.stampOf c.req) ∨ s.rd .MRLN_ROLE_ST_DOM_MASK k &&& c.par 16 2 = 0)) ∧
    (∃ (s : State) (h : Nat) (c : Cmd) (k : Slot), s.ready 2 0x0403 h c ∧ s.journalBlocked = false ∧
      k.val ∈ s.sessionsOf (s.stampOf c.req) ∧ s.rd .MRLN_ROLE_ST_DOM_MASK k &&& c.par 16 2 ≠ 0 ∧
      s.rd .MRLN_ROLE_ST_DOM_MASK k &&& c.par 16 2 ≠ s.rd .MRLN_ROLE_ST_DOM_MASK k) ∧
    (∃ (s : State) (h : Nat) (c : Cmd) (k : Slot), s.ready 2 0x0403 h c ∧ s.journalBlocked = false ∧
      k.val ∈ s.sessionsOf (s.stampOf c.req) ∧ s.rd .MRLN_ROLE_ST_DOM_MASK k &&& c.par 16 2 ≠ 0 ∧
      s.rd .MRLN_ROLE_ST_DOM_MASK k &&& c.par 16 2 = s.rd .MRLN_ROLE_ST_DOM_MASK k) ∧
    (∃ (s : State) (h : Nat) (c : Cmd), s.ready 2 0x0404 h c) ∧
    (∃ (s : State) (req : Requester), s.alive 2 = true ∧ req ≠ .i3c ∧ req = .jtag) ∧
    (∃ (s : State) (req : Requester), s.alive 2 = true ∧ req ≠ .i3c ∧ req ≠ .jtag) ∧
    (∃ (s : State) (entry : BitVec 6) (r : Nat), s.alive 2 = true ∧ r = s.judgeResponse .jtag 3 entry.toNat 0xFFFF s.authSig ∧
      s.journalBlocked = true) ∧
    (∃ (s : State) (entry : BitVec 6) (r : Nat), s.alive 2 = true ∧ r = s.judgeResponse .jtag 3 entry.toNat 0xFFFF s.authSig ∧
      s.journalBlocked = false ∧ (s.authOf .jtag).locked = true) ∧
    (∃ (s : State) (entry : BitVec 6) (r : Nat), s.alive 2 = true ∧ r = s.judgeResponse .jtag 3 entry.toNat 0xFFFF s.authSig ∧
      s.journalBlocked = false ∧ (s.authOf .jtag).locked = false ∧ r ≠ 0) ∧
    (∃ (s : State) (entry : BitVec 6) (r : Nat), s.alive 2 = true ∧ r = s.judgeResponse .jtag 3 entry.toNat 0xFFFF s.authSig) ∧
    (∃ (s : State) (req : Requester), s.alive 2 = true ∧ (s.authOf req).locked = true) ∧
    (∃ (s : State) (k : Slot) (j : Slot), s.alive 2 = true ∧ s.on .MRLN_ROLE_ST_VALID k = true ∧ s.journal.buffer.length < 1024 ∧ j ≠ k) := ⟨
    ⟨given up (cmdFor 0x0401 0 [] []), 0, cmdFor 0x0401 0 [] [], by unfold State.ready; decide +kernel⟩,
    ⟨given up (cmdFor 0x0402 0 [] (1 :: List.replicate 99 0)), 0, cmdFor 0x0402 0 [] (1 :: List.replicate 99 0),
      (given up (cmdFor 0x0402 0 [] (1 :: List.replicate 99 0))).stampOf (cmdFor 0x0402 0 [] (1 :: List.replicate 99 0)).req,
      (given up (cmdFor 0x0402 0 [] (1 :: List.replicate 99 0))).judgeResponse (((given up (cmdFor 0x0402 0 [] (1 :: List.replicate 99 0))).stampOf (cmdFor 0x0402 0 [] (1 :: List.replicate 99 0)).req : Requester)) (byteAt (cmdFor 0x0402 0 [] (1 :: List.replicate 99 0)).ind 0) (byteAt (cmdFor 0x0402 0 [] (1 :: List.replicate 99 0)).ind 1) (leAt (cmdFor 0x0402 0 [] (1 :: List.replicate 99 0)).ind 2 2) ((cmdFor 0x0402 0 [] (1 :: List.replicate 99 0)).ind.drop 4),
      by unfold State.ready; decide +kernel⟩,
    ⟨given up (cmdFor 0x0402 0 [] (1 :: List.replicate 99 0)), 0, cmdFor 0x0402 0 [] (1 :: List.replicate 99 0),
      (given up (cmdFor 0x0402 0 [] (1 :: List.replicate 99 0))).stampOf (cmdFor 0x0402 0 [] (1 :: List.replicate 99 0)).req,
      (given up (cmdFor 0x0402 0 [] (1 :: List.replicate 99 0))).judgeResponse (((given up (cmdFor 0x0402 0 [] (1 :: List.replicate 99 0))).stampOf (cmdFor 0x0402 0 [] (1 :: List.replicate 99 0)).req : Requester)) (byteAt (cmdFor 0x0402 0 [] (1 :: List.replicate 99 0)).ind 0) (byteAt (cmdFor 0x0402 0 [] (1 :: List.replicate 99 0)).ind 1) (leAt (cmdFor 0x0402 0 [] (1 :: List.replicate 99 0)).ind 2 2) ((cmdFor 0x0402 0 [] (1 :: List.replicate 99 0)).ind.drop 4),
      by unfold State.ready; decide +kernel⟩,
    ⟨given ({ (up) with auth := [⟨.host 0, [], true, 4, false, 0⟩] }) (cmdFor 0x0402 0 [] (1 :: List.replicate 99 0)), 0,
      cmdFor 0x0402 0 [] (1 :: List.replicate 99 0),
      (given ({ (up) with auth := [⟨.host 0, [], true, 4, false, 0⟩] }) (cmdFor 0x0402 0 [] (1 :: List.replicate 99 0))).stampOf (cmdFor 0x0402 0 [] (1 :: List.replicate 99 0)).req,
      (given ({ (up) with auth := [⟨.host 0, [], true, 4, false, 0⟩] }) (cmdFor 0x0402 0 [] (1 :: List.replicate 99 0))).judgeResponse (((given ({ (up) with auth := [⟨.host 0, [], true, 4, false, 0⟩] }) (cmdFor 0x0402 0 [] (1 :: List.replicate 99 0))).stampOf (cmdFor 0x0402 0 [] (1 :: List.replicate 99 0)).req : Requester)) (byteAt (cmdFor 0x0402 0 [] (1 :: List.replicate 99 0)).ind 0) (byteAt (cmdFor 0x0402 0 [] (1 :: List.replicate 99 0)).ind 1) (leAt (cmdFor 0x0402 0 [] (1 :: List.replicate 99 0)).ind 2 2) ((cmdFor 0x0402 0 [] (1 :: List.replicate 99 0)).ind.drop 4),
      by unfold State.ready; decide +kernel⟩,
    ⟨given up (cmdFor 0x0402 0 [] (1 :: List.replicate 99 0)), 0, cmdFor 0x0402 0 [] (1 :: List.replicate 99 0),
      (given up (cmdFor 0x0402 0 [] (1 :: List.replicate 99 0))).stampOf (cmdFor 0x0402 0 [] (1 :: List.replicate 99 0)).req,
      (given up (cmdFor 0x0402 0 [] (1 :: List.replicate 99 0))).judgeResponse (((given up (cmdFor 0x0402 0 [] (1 :: List.replicate 99 0))).stampOf (cmdFor 0x0402 0 [] (1 :: List.replicate 99 0)).req : Requester)) (byteAt (cmdFor 0x0402 0 [] (1 :: List.replicate 99 0)).ind 0) (byteAt (cmdFor 0x0402 0 [] (1 :: List.replicate 99 0)).ind 1) (leAt (cmdFor 0x0402 0 [] (1 :: List.replicate 99 0)).ind 2 2) ((cmdFor 0x0402 0 [] (1 :: List.replicate 99 0)).ind.drop 4),
      by unfold State.ready; decide +kernel⟩,
    ⟨given up (cmdFor 0x0403 0 [] []), 0, cmdFor 0x0403 0 [] [], 0, by unfold State.ready; decide +kernel⟩,
    ⟨given up (cmdFor 0x0403 0 [1, 0] []), 0, cmdFor 0x0403 0 [1, 0] [], 0, by unfold State.ready; decide +kernel⟩,
    ⟨given up (cmdFor 0x0403 0 [255, 255] []), 0, cmdFor 0x0403 0 [255, 255] [], 0, by unfold State.ready; decide +kernel⟩,
    ⟨given up (cmdFor 0x0404 0 [] []), 0, cmdFor 0x0404 0 [] [], by unfold State.ready; decide +kernel⟩,
    ⟨up, .jtag, by decide +kernel⟩,
    ⟨up, .host 0, by decide +kernel⟩,
    ⟨up.wr .MRLN_NV_ST_HOLD_ACTIVE 1, 0,
      (up.wr .MRLN_NV_ST_HOLD_ACTIVE 1).judgeResponse .jtag 3 ((0 : BitVec 6)).toNat 0xFFFF (up.wr .MRLN_NV_ST_HOLD_ACTIVE 1).authSig,
      by decide +kernel⟩,
    ⟨{ (up) with auth := [⟨.jtag, [], true, 4, true, 0⟩] }, 0,
      ({ (up) with auth := [⟨.jtag, [], true, 4, true, 0⟩] }).judgeResponse .jtag 3 ((0 : BitVec 6)).toNat 0xFFFF ({ (up) with auth := [⟨.jtag, [], true, 4, true, 0⟩] }).authSig,
      by decide +kernel⟩,
    ⟨up, 0, (up).judgeResponse .jtag 3 ((0 : BitVec 6)).toNat 0xFFFF (up).authSig, by decide +kernel⟩,
    ⟨up.wr .MRLN_NV_ST_HOLD_ACTIVE 1, 0,
      (up.wr .MRLN_NV_ST_HOLD_ACTIVE 1).judgeResponse .jtag 3 ((0 : BitVec 6)).toNat 0xFFFF (up.wr .MRLN_NV_ST_HOLD_ACTIVE 1).authSig,
      by decide +kernel⟩,
    ⟨{ (up) with auth := [⟨.host 0, [], true, 4, true, 0⟩] }, .host 0, by decide +kernel⟩,
    ⟨up.wr .MRLN_ROLE_ST_VALID 1 0, 0, 1, by decide +kernel⟩⟩

/-- JournalFlashAndOtp. -/
theorem witness_JournalFlashAndOtp :
    (∃ (s : State) (h : Nat) (c : Cmd), s.ready 2 0x0405 h c ∧ s.rd .BCKT_RING_CFG_TYPE (c.par 26 2) ≠ 3) ∧
    (∃ (s : State) (h : Nat) (c : Cmd), s.ready 2 0x0405 h c ∧ s.rd .BCKT_RING_CFG_TYPE (c.par 26 2) = 3 ∧
      s.ringRuns (c.par 26 2) 3 = false) ∧
    (∃ (s : State) (h : Nat) (c : Cmd), s.ready 2 0x0405 h c ∧ s.ringRuns (c.par 26 2) 3 = true ∧
      s.on .BCKT_RING_CFG_STRM_WRAP (c.par 26 2) = true) ∧
    (∃ (s : State) (h : Nat) (c : Cmd), s.ready 2 0x0406 h c ∧ s.journal.buffer.length < 1024 ∧ s.reg .MRLN_JRN_EXP ≤ c.par 16 8) ∧
    (∃ (s : State) (h : Nat) (c : Cmd), s.ready 2 0x0406 h c ∧ s.journal.buffer.length < 1024 ∧ c.par 16 8 < s.reg .MRLN_JRN_EXP) ∧
    (∃ (s : State) (h : Nat) (c : Cmd), s.ready 2 0x0407 h c ∧ s.journalBlocked = false ∧ s.on .MRLN_NV_ST_NV_INHIBIT = true) ∧
    (∃ (s : State) (h : Nat) (c : Cmd), s.ready 2 0x0407 h c ∧ s.journalBlocked = false ∧ s.on .MRLN_NV_ST_NV_INHIBIT = false ∧
      c.ind ≠ [] ∧ c.par 16 1 = 5 ∧ c.par 17 1 ≤ 15 ∧ c.par 20 4 + c.ind.length ≤ 88) ∧
    (∃ (s : State) (h : Nat) (c : Cmd), s.ready 2 0x0407 h c ∧ s.journalBlocked = false ∧ s.on .MRLN_NV_ST_NV_INHIBIT = false ∧
      c.ind ≠ [] ∧ c.par 16 1 < 5 ∧ c.par 17 1 = 0 ∧ c.par 20 4 + c.ind.length ≤ areaSize (c.par 16 1) ∧ (∀ i : Fin 3,
      c.par 16 1 < 3 → i.val ≠ c.par 16 1 → s.copyState i = 0)) ∧
    (∃ (s : State) (h : Nat) (c : Cmd), s.ready 2 0x0408 h c ∧ s.journalBlocked = false ∧ s.on .MRLN_NV_ST_NV_INHIBIT = false ∧
      c.par 16 1 < 3) ∧
    (∃ (s : State) (h : Nat) (c : Cmd), s.ready 2 0x0408 h c ∧ s.journalBlocked = false ∧ s.on .MRLN_NV_ST_NV_INHIBIT = false ∧
      c.par 16 1 = 3) ∧
    (∃ (s : State) (h : Nat) (c : Cmd) (k : _), s.ready 2 0x0408 h c ∧ s.journalBlocked = false ∧ s.on .MRLN_NV_ST_NV_INHIBIT = false ∧
      c.par 16 1 = 5 ∧ s.permits c.req 2 s.kekChanges = true ∧ s.openKeks (s.area 5).staged = .inr k) ∧
    (∃ (s : State) (h : Nat) (c : Cmd), s.ready 2 0x0408 h c ∧ s.journalBlocked = false ∧ s.on .MRLN_NV_ST_NV_INHIBIT = false) ∧
    (∃ (s : State) (h : Nat) (c : Cmd), s.ready 2 0x0408 h c ∧ s.journalBlocked = false ∧ s.on .MRLN_NV_ST_NV_INHIBIT = false ∧
      6 < c.par 16 1) ∧
    (∃ (s : State) (h : Nat) (c : Cmd), s.ready 2 0x0409 h c ∧ s.journalBlocked = false ∧ s.on .MRLN_NV_ST_NV_INHIBIT = false ∧
      c.par 16 1 = 1 ∧ (∀ b ∈ s.nv.makerHash, b = 0) ∧ c.ind.length = 48) ∧
    (∃ (s : State) (h : Nat) (c : Cmd), s.ready 2 0x0409 h c ∧ s.journalBlocked = false ∧ s.on .MRLN_NV_ST_NV_INHIBIT = false ∧
      c.par 16 1 = 2 ∧ s.nv.rollback < 64) ∧
    (∃ (s : State) (h : Nat) (c : Cmd), s.ready 2 0x0409 h c ∧ s.journalBlocked = false ∧ s.on .MRLN_NV_ST_NV_INHIBIT = false ∧
      c.par 16 1 = 3 ∧ s.nv.lifecycle = 0) ∧
    (∃ (s : State) (h : Nat) (c : Cmd), s.ready 2 0x0409 h c ∧ s.journalBlocked = false ∧ s.on .MRLN_NV_ST_NV_INHIBIT = false ∧
      c.par 16 1 = 3 ∧ 1 < s.nv.lifecycle) ∧
    (∃ (s : State) (h : Nat) (c : Cmd), s.ready 2 0x040A h c) ∧
    (∃ (s : State), s.alive 2 = true ∧ s.on .MRLN_NV_ST_NV_INHIBIT = false ∧ s.journal.buffer ≠ [] ∧
      s.journal.pages.length < journalPages) ∧
    (∃ (s : State), s.alive 2 = true ∧ s.on .MRLN_NV_ST_NV_INHIBIT = true) ∧
    (∃ (s : State), s.alive 2 = true ∧ s.on .MRLN_NV_ST_NV_INHIBIT = false ∧
      s.journal.pages.length + ceilDiv s.journal.buffer.length 3 ≤ journalPages) := ⟨
    ⟨given up (cmdFor 0x0405 0 [] []), 0, cmdFor 0x0405 0 [] [], by unfold State.ready; decide +kernel⟩,
    ⟨given (up.wr .BCKT_RING_CFG_TYPE 3 1) (cmdFor 0x0405 0 [0, 0, 0, 0, 0, 0, 0, 0, 0, 0, 1, 0] []), 0, cmdFor 0x0405 0 [0, 0, 0, 0, 0,
      0, 0, 0, 0, 0, 1, 0] [], by unfold State.ready; decide +kernel⟩,
    ⟨given ((((up.wr .BCKT_RING_CFG_TYPE 3 1).wr .BCKT_RING_CFG_EN 1 1).wr .BCKT_RING_ST_STATE 1 1).wr .BCKT_RING_CFG_STRM_WRAP 1 1) (cmdFor 0x0405 0 [0,
      0, 0, 0, 0, 0, 0, 0, 0, 0, 1, 0] []), 0, cmdFor 0x0405 0 [0, 0, 0, 0, 0, 0, 0, 0, 0, 0, 1, 0] [],
      by unfold State.ready; decide +kernel⟩,
    ⟨given up (cmdFor 0x0406 0 [] []), 0, cmdFor 0x0406 0 [] [], by unfold State.ready; decide +kernel⟩,
    ⟨given ((up).setReg .MRLN_JRN_EXP 5) (cmdFor 0x0406 0 [] []), 0, cmdFor 0x0406 0 [] [], by unfold State.ready; decide +kernel⟩,
    ⟨given (up.wr .MRLN_NV_ST_NV_INHIBIT 1) (cmdFor 0x0407 0 [] []), 0, cmdFor 0x0407 0 [] [], by unfold State.ready; decide +kernel⟩,
    ⟨given (up.wr .MRLN_NV_ST_NV_INHIBIT 0) (cmdFor 0x0407 0 [5] [0]), 0, cmdFor 0x0407 0 [5] [0], by unfold State.ready; decide +kernel⟩,
    ⟨given (up.wr .MRLN_NV_ST_NV_INHIBIT 0) (cmdFor 0x0407 0 [3, 0] [0]), 0, cmdFor 0x0407 0 [3, 0] [0],
      by unfold State.ready; decide +kernel⟩,
    ⟨given (up.wr .MRLN_NV_ST_NV_INHIBIT 0) (cmdFor 0x0408 0 [] []), 0, cmdFor 0x0408 0 [] [], by unfold State.ready; decide +kernel⟩,
    ⟨given (up.wr .MRLN_NV_ST_NV_INHIBIT 0) (cmdFor 0x0408 0 [3] []), 0, cmdFor 0x0408 0 [3] [], by unfold State.ready; decide +kernel⟩,
    ⟨given (up.wr .MRLN_NV_ST_NV_INHIBIT 0) (cmdFor 0x0408 0 [5] []), 0, cmdFor 0x0408 0 [5] [], [],
      by unfold State.ready; decide +kernel⟩,
    ⟨given (up.wr .MRLN_NV_ST_NV_INHIBIT 0) (cmdFor 0x0408 0 [] []), 0, cmdFor 0x0408 0 [] [], by unfold State.ready; decide +kernel⟩,
    ⟨given (up.wr .MRLN_NV_ST_NV_INHIBIT 0) (cmdFor 0x0408 0 [7] []), 0, cmdFor 0x0408 0 [7] [], by unfold State.ready; decide +kernel⟩,
    ⟨given (up.wr .MRLN_NV_ST_NV_INHIBIT 0) (cmdFor 0x0409 0 [1] (List.replicate 48 0)), 0, cmdFor 0x0409 0 [1] (List.replicate 48 0),
      by unfold State.ready; decide +kernel⟩,
    ⟨given (up.wr .MRLN_NV_ST_NV_INHIBIT 0) (cmdFor 0x0409 0 [2] []), 0, cmdFor 0x0409 0 [2] [], by unfold State.ready; decide +kernel⟩,
    ⟨given ({ (up.wr .MRLN_NV_ST_NV_INHIBIT 0) with nv := { up.nv with lifecycle := 0 } }) (cmdFor 0x0409 0 [3] []), 0,
      cmdFor 0x0409 0 [3] [], by unfold State.ready; decide +kernel⟩,
    ⟨given ({ (up.wr .MRLN_NV_ST_NV_INHIBIT 0) with nv := { up.nv with lifecycle := 2 } }) (cmdFor 0x0409 0 [3] []), 0,
      cmdFor 0x0409 0 [3] [], by unfold State.ready; decide +kernel⟩,
    ⟨given up (cmdFor 0x040A 0 [] []), 0, cmdFor 0x040A 0 [] [], by unfold State.ready; decide +kernel⟩,
    ⟨{ (up.wr .MRLN_NV_ST_NV_INHIBIT 0) with journal := { buffer := [⟨1, 0, 0, 0, 0, 0, 0, 0, 0, 0, 0, 0⟩] } }, by decide +kernel⟩,
    ⟨up.wr .MRLN_NV_ST_NV_INHIBIT 1, by decide +kernel⟩,
    ⟨up.wr .MRLN_NV_ST_NV_INHIBIT 0, by decide +kernel⟩⟩

/-- MemoryPorts. -/
theorem witness_MemoryPorts :
    (∃ (s : State) (req : Requester) (p : MemPort), s.mayWrite req 1 2 0 ∧ s.memPort p = 0) ∧
    (∃ (s : State) (req : Requester) (p : MemPort), s.mayWrite req 1 2 0 ∧ s.memPort p ≠ 0) ∧
    (∃ (s : State) (p : MemPort), s.alive 1 = true ∧ s.memPort p = 1) ∧
    (∃ (s : State) (p : MemPort) (capacity : Nat), s.alive 1 = true ∧ s.memPort p = 2 ∧ 2 ^ 24 ≤ capacity) ∧
    (∃ (s : State) (p : MemPort) (capacity : Nat), s.alive 1 = true ∧ s.memPort p = 2 ∧ capacity < 2 ^ 24) ∧
    (∃ (s : State) (p : MemPort), s.alive 1 = true ∧ s.memPort p = 2) ∧
    (∃ (s : State) (p : MemPort), s.alive 1 = true ∧ s.memPort p = 4) ∧
    (∃ (s : State) (p : MemPort) (e : Region), s.alive 1 = true ∧ s.memPort p = 3 ∧ s.regionUses e p = true) := ⟨
    ⟨up.wr .BCKT_MEM_STAT_PSTATE 0 0, .host 0, 0, by unfold State.mayWrite; decide +kernel⟩,
    ⟨up.wr .BCKT_MEM_STAT_PSTATE 1 0, .host 0, 0, by unfold State.mayWrite; decide +kernel⟩,
    ⟨up.wr .BCKT_MEM_STAT_PSTATE 1 0, 0, by decide +kernel⟩,
    ⟨up.wr .BCKT_MEM_STAT_PSTATE 2 0, 0, 2 ^ 24, by decide +kernel⟩,
    ⟨up.wr .BCKT_MEM_STAT_PSTATE 2 0, 0, 0, by decide +kernel⟩,
    ⟨up.wr .BCKT_MEM_STAT_PSTATE 2 0, 0, by decide +kernel⟩,
    ⟨up.wr .BCKT_MEM_STAT_PSTATE 4 0, 0, by decide +kernel⟩,
    ⟨up.wr .BCKT_MEM_STAT_PSTATE 3 0, 0, 0, by decide +kernel⟩⟩

/-- RegionsAndPoison. -/
theorem witness_RegionsAndPoison :
    (∃ (s : State) (req : Requester) (e : Region) (w : Fin 4) (v : BitVec 32) (old : Nat) (new : Nat), s.mayWrite req 1 2 0 ∧
      old = s.reg .BCKT_REGION e ∧ new = rwWrite .BCKT_REGION old (setBits old (32 * w.val + 31) (32 * w.val) v.toNat) ∧
      bit old 0 = false ∧ bit new 0 = false) ∧
    (∃ (s : State) (req : Requester) (e : Region) (w : Fin 4) (v : BitVec 32) (old : Nat) (new : Nat), s.mayWrite req 1 2 0 ∧
      old = s.reg .BCKT_REGION e ∧ new = rwWrite .BCKT_REGION old (setBits old (32 * w.val + 31) (32 * w.val) v.toNat) ∧
      bit old 0 = false ∧ bit new 0 = true ∧ (s.setReg .BCKT_REGION new e).regionBad e = true) ∧
    (∃ (s : State) (req : Requester) (e : Region) (w : Fin 4) (v : BitVec 32) (old : Nat) (new : Nat), s.mayWrite req 1 2 0 ∧
      old = s.reg .BCKT_REGION e ∧ new = rwWrite .BCKT_REGION old (setBits old (32 * w.val + 31) (32 * w.val) v.toNat) ∧
      bit old 0 = false ∧ bit new 0 = true ∧ (s.setReg .BCKT_REGION new e).regionBad e = false ∧
      (s.setReg .BCKT_REGION new e).regionUsable e = true ∧ bits new 67 66 = 0) ∧
    (∃ (s : State) (req : Requester) (e : Region) (w : Fin 4) (v : BitVec 32) (old : Nat) (new : Nat), s.mayWrite req 1 2 0 ∧
      old = s.reg .BCKT_REGION e ∧ new = rwWrite .BCKT_REGION old (setBits old (32 * w.val + 31) (32 * w.val) v.toNat) ∧
      bit old 0 = true ∧ setBits new 0 0 1 ≠ old) ∧
    (∃ (s : State) (req : Requester) (e : Region) (w : Fin 4) (v : BitVec 32) (old : Nat) (new : Nat), s.mayWrite req 1 2 0 ∧
      old = s.reg .BCKT_REGION e ∧ new = rwWrite .BCKT_REGION old (setBits old (32 * w.val + 31) (32 * w.val) v.toNat) ∧
      bit old 0 = true ∧ setBits new 0 0 1 = old ∧ bit new 0 = false ∧ s.regionUsed e = true) ∧
    (∃ (s : State) (req : Requester) (e : Region) (w : Fin 4) (v : BitVec 32) (old : Nat) (new : Nat), s.mayWrite req 1 2 0 ∧
      old = s.reg .BCKT_REGION e ∧ new = rwWrite .BCKT_REGION old (setBits old (32 * w.val + 31) (32 * w.val) v.toNat) ∧
      bit old 0 = true ∧ setBits new 0 0 1 = old ∧ bit new 0 = false ∧ s.regionUsed e = false) ∧
    (∃ (s : State) (e : Region), s.alive 1 = true ∧ s.rd .BCKT_REGION_RSTATE e = 1) ∧
    (∃ (s : State) (e : Region), s.alive 1 = true ∧ s.regionReady e = true) ∧
    (∃ (s : State) (e : Region), s.alive 1 = true ∧ s.regionReady e = false) ∧
    (∃ (s : State) (p : MemPort) (lo : Nat) (hi : Nat) (e : Region), s.alive 1 = true ∧ s.regionReady e = true ∧ s.regionUses e p = true ∧
      lo < (s.rd .BCKT_REGION_BASE e + s.regionExtent e) * 2 ^ 24 ∧ s.rd .BCKT_REGION_BASE e * 2 ^ 24 ≤ hi) ∧
    (∃ (s : State) (p : MemPort) (lo : Nat) (hi : Nat) (e : Region), s.alive 1 = true ∧
      (s.regionUses e p = false ∨ (s.rd .BCKT_REGION_BASE e + s.regionExtent e) * 2 ^ 24 ≤ lo ∨ hi < s.rd .BCKT_REGION_BASE e * 2 ^ 24)) ∧
    (∃ (s : State) (h : Nat) (c : Cmd) (e : Nat), s.ready 1 0x0601 h c ∧ e = c.par 16 1) ∧
    (∃ (s : State) (h : Nat) (c : Cmd) (e : Nat), s.ready 1 0x0602 h c ∧ e = c.par 16 1 ∧ s.rd .BCKT_REGION_RSTATE e ≠ 0 ∧
      s.regionUsed e = false) ∧
    (∃ (s : State) (h : Nat) (c : Cmd) (e : Nat), s.ready 1 0x0602 h c ∧ e = c.par 16 1 ∧
      (s.rd .BCKT_REGION_RSTATE e = 0 ∨ s.regionUsed e = true)) ∧
    (∃ (s : State) (h : Nat) (c : Cmd) (p : Nat), s.ready 1 0x0603 h c ∧ p = c.par 16 1 ∧ p ≤ 1) ∧
    (∃ (s : State) (h : Nat) (c : Cmd) (i : Nat), s.ready 1 0x0604 h c ∧ i = c.par 16 2 ∧ i ≤ 2047) := ⟨
    ⟨up, .host 0, 0, 0, 0, (up).reg .BCKT_REGION ((0 : Region)),
      rwWrite .BCKT_REGION (((up).reg .BCKT_REGION ((0 : Region)) : Nat)) (setBits (((up).reg .BCKT_REGION ((0 : Region)) : Nat)) (32 * ((0 : Fin 4)).val + 31) (32 * ((0 : Fin 4)).val) ((0 : BitVec 32)).toNat),
      by unfold State.mayWrite; decide +kernel⟩,
    ⟨up, .host 0, 0, 0, 1, (up).reg .BCKT_REGION ((0 : Region)),
      rwWrite .BCKT_REGION (((up).reg .BCKT_REGION ((0 : Region)) : Nat)) (setBits (((up).reg .BCKT_REGION ((0 : Region)) : Nat)) (32 * ((0 : Fin 4)).val + 31) (32 * ((0 : Fin 4)).val) ((1 : BitVec 32)).toNat),
      by unfold State.mayWrite; decide +kernel⟩,
    ⟨((up.wr .BCKT_REGION_SIZE 1 0).wr .BCKT_MEM_STAT_PSTATE 3 0).wr .BCKT_MEM_STAT_CAP 4 0, .host 0, 0, 0, 1,
      (((up.wr .BCKT_REGION_SIZE 1 0).wr .BCKT_MEM_STAT_PSTATE 3 0).wr .BCKT_MEM_STAT_CAP 4 0).reg .BCKT_REGION ((0 : Region)),
      rwWrite .BCKT_REGION (((((up.wr .BCKT_REGION_SIZE 1 0).wr .BCKT_MEM_STAT_PSTATE 3 0).wr .BCKT_MEM_STAT_CAP 4 0).reg .BCKT_REGION ((0 : Region)) : Nat)) (setBits (((((up.wr .BCKT_REGION_SIZE 1 0).wr .BCKT_MEM_STAT_PSTATE 3 0).wr .BCKT_MEM_STAT_CAP 4 0).reg .BCKT_REGION ((0 : Region)) : Nat)) (32 * ((0 : Fin 4)).val + 31) (32 * ((0 : Fin 4)).val) ((1 : BitVec 32)).toNat),
      by unfold State.mayWrite; decide +kernel⟩,
    ⟨up.wr .BCKT_REGION_EN 1 0, .host 0, 0, 0, 0x10005, (up.wr .BCKT_REGION_EN 1 0).reg .BCKT_REGION ((0 : Region)),
      rwWrite .BCKT_REGION (((up.wr .BCKT_REGION_EN 1 0).reg .BCKT_REGION ((0 : Region)) : Nat)) (setBits (((up.wr .BCKT_REGION_EN 1 0).reg .BCKT_REGION ((0 : Region)) : Nat)) (32 * ((0 : Fin 4)).val + 31) (32 * ((0 : Fin 4)).val) ((0x10005 : BitVec 32)).toNat),
      by unfold State.mayWrite; decide +kernel⟩,
    ⟨up.wr .BCKT_REGION_EN 1 0, .host 0, 0, 0, 0, (up.wr .BCKT_REGION_EN 1 0).reg .BCKT_REGION ((0 : Region)),
      rwWrite .BCKT_REGION (((up.wr .BCKT_REGION_EN 1 0).reg .BCKT_REGION ((0 : Region)) : Nat)) (setBits (((up.wr .BCKT_REGION_EN 1 0).reg .BCKT_REGION ((0 : Region)) : Nat)) (32 * ((0 : Fin 4)).val + 31) (32 * ((0 : Fin 4)).val) ((0 : BitVec 32)).toNat),
      by unfold State.mayWrite; decide +kernel⟩,
    ⟨(up.wr .BCKT_REGION_EN 1 0).wr .LNYD_CK_CFG_CK_REGION 9, .host 0, 0, 0, 0,
      ((up.wr .BCKT_REGION_EN 1 0).wr .LNYD_CK_CFG_CK_REGION 9).reg .BCKT_REGION ((0 : Region)),
      rwWrite .BCKT_REGION ((((up.wr .BCKT_REGION_EN 1 0).wr .LNYD_CK_CFG_CK_REGION 9).reg .BCKT_REGION ((0 : Region)) : Nat)) (setBits ((((up.wr .BCKT_REGION_EN 1 0).wr .LNYD_CK_CFG_CK_REGION 9).reg .BCKT_REGION ((0 : Region)) : Nat)) (32 * ((0 : Fin 4)).val + 31) (32 * ((0 : Fin 4)).val) ((0 : BitVec 32)).toNat),
      by unfold State.mayWrite; decide +kernel⟩,
    ⟨up.wr .BCKT_REGION_RSTATE 1 0, 0, by decide +kernel⟩,
    ⟨up.wr .BCKT_REGION_RSTATE 2 0, 0, by decide +kernel⟩,
    ⟨up, 0, by decide +kernel⟩,
    ⟨(up.wr .BCKT_REGION_RSTATE 2 0).wr .BCKT_REGION_SIZE 1 0, 0, 0, 0, 0, by decide +kernel⟩,
    ⟨up, 0, 0, 0, 0, by decide +kernel⟩,
    ⟨given up (cmdFor 0x0601 0 [] []), 0, cmdFor 0x0601 0 [] [], (cmdFor 0x0601 0 [] []).par 16 1, by unfold State.ready; decide +kernel⟩,
    ⟨given (up.wr .BCKT_REGION_RSTATE 1 5) (cmdFor 0x0602 0 [5] []), 0, cmdFor 0x0602 0 [5] [], 5, by unfold State.ready; decide +kernel⟩,
    ⟨given up (cmdFor 0x0602 0 [] []), 0, cmdFor 0x0602 0 [] [], (cmdFor 0x0602 0 [] []).par 16 1, by unfold State.ready; decide +kernel⟩,
    ⟨given up (cmdFor 0x0603 0 [] []), 0, cmdFor 0x0603 0 [] [], (cmdFor 0x0603 0 [] []).par 16 1, by unfold State.ready; decide +kernel⟩,
    ⟨given up (cmdFor 0x0604 0 [] []), 0, cmdFor 0x0604 0 [] [], (cmdFor 0x0604 0 [] []).par 16 2, by unfold State.ready; decide +kernel⟩⟩

/-- ScrubberDumpsAndSamples. -/
theorem witness_ScrubberDumpsAndSamples :
    (∃ (s : State) (i : MemInst) (byRead : Bool), s.alive 3 = true ∧ byRead = false ∧
      (s.on .WHIP_CFG_SCRUB_EN = false ∨ s.belay.background = false ∨ s.on .WHIP_INST_PRESENT i = false)) ∧
    (∃ (s : State) (i : MemInst) (found : Found) (byRead : Bool) (ends : Bool), s.alive 3 = true ∧
      (byRead = true ∨ s.on .WHIP_CFG_SCRUB_EN = true ∧ s.belay.background = true) ∧ s.on .WHIP_INST_PRESENT i = true ∧ found = .clean ∧
      ends = false) ∧
    (∃ (s : State) (i : MemInst) (found : Found) (byRead : Bool) (ends : Bool), s.alive 3 = true ∧
      (byRead = true ∨ s.on .WHIP_CFG_SCRUB_EN = true ∧ s.belay.background = true) ∧ s.on .WHIP_INST_PRESENT i = true ∧ found = .clean ∧
      ends = true ∧ byRead = false) ∧
    (∃ (s : State) (i : MemInst) (addr : BitVec 24) (found : Found) (byRead : Bool) (ends : Bool) (m : _), s.alive 3 = true ∧
      (byRead = true ∨ s.on .WHIP_CFG_SCRUB_EN = true ∧ s.belay.background = true) ∧ s.on .WHIP_INST_PRESENT i = true ∧
      found = .corrected ∧ ends = false ∧ 2 ≤ m ∧ (s.whipInst i).tracker.find? (fun e => e.1 == addr.toNat) = some (addr.toNat, m) ∧
      s.rd .WHIP_INST_SPARES_USED i < 8) ∧
    (∃ (s : State) (i : MemInst) (found : Found) (byRead : Bool), s.alive 3 = true ∧ (byRead = true ∨ s.on .WHIP_CFG_SCRUB_EN = true ∧
      s.belay.background = true) ∧ s.on .WHIP_INST_PRESENT i = true ∧ found = .uncorrectable (.datapath none)) ∧
    (∃ (s : State) (req : Requester), s.mayWrite req 3 2 0) ∧
    (∃ (s : State), s.alive 4 = true ∧ s.on .FTHM_DUMP_CFG_DUMP_EN = true ∧ s.tod % max 1 (s.rd .FTHM_DUMP_CFG_DUMP_S) = 0 ∧
      s.fathom.dump = none ∧ s.ringRuns (s.rd .FTHM_DUMP_CFG_DUMP_RING) 3 = true ∧
      s.ringFill (s.rd .FTHM_DUMP_CFG_DUMP_RING) + dumpRecords (s.rd .FTHM_DUMP_CFG_SEL) ≤ s.ringSize (s.rd .FTHM_DUMP_CFG_DUMP_RING)) ∧
    (∃ (s : State), s.alive 4 = true ∧ s.on .FTHM_DUMP_CFG_DUMP_EN = true ∧ s.tod % max 1 (s.rd .FTHM_DUMP_CFG_DUMP_S) = 0 ∧
      s.fathom.dump = none ∧ s.ringRuns (s.rd .FTHM_DUMP_CFG_DUMP_RING) 3 = false) ∧
    (∃ (s : State), s.alive 4 = true ∧ s.on .FTHM_DUMP_CFG_DUMP_EN = true ∧ s.tod % max 1 (s.rd .FTHM_DUMP_CFG_DUMP_S) = 0 ∧
      s.fathom.dump ≠ none ∧ s.fathom.tick = none) ∧
    (∃ (s : State), s.alive 4 = true ∧ s.on .FTHM_DUMP_CFG_DUMP_EN = true ∧ s.tod % max 1 (s.rd .FTHM_DUMP_CFG_DUMP_S) = 0 ∧
      s.fathom.dump ≠ none ∧ s.fathom.tick ≠ none) ∧
    (∃ (s : State) (d : Dump), s.alive 4 = true ∧ s.fathom.dump = some d ∧ s.fathom.tick = none) ∧
    (∃ (s : State) (d : Dump), s.alive 4 = true ∧ s.fathom.dump = some d ∧ s.fathom.tick ≠ none) ∧
    (∃ (s : State) (h : Nat) (c : Cmd), s.ready 4 0x0901 h c ∧ s.fathom.tick ≠ none) ∧
    (∃ (s : State) (h : Nat) (c : Cmd), s.ready 4 0x0901 h c ∧ s.fathom.tick = none ∧ s.fathom.dump ≠ none) ∧
    (∃ (s : State) (h : Nat) (c : Cmd), s.ready 4 0x0901 h c ∧ s.fathom.tick = none ∧ s.fathom.dump = none ∧
      s.ringRuns (s.rd .FTHM_DUMP_CFG_DUMP_RING) 3 = false) ∧
    (∃ (s : State) (h : Nat) (c : Cmd), s.ready 4 0x0902 h c) ∧
    (∃ (s : State), s.alive 4 = true) ∧
    (∃ (s : State) (k : Core), s.alive 4 = true ∧ (s.rd .FTHM_SAMP_CFG_SAMP_EN).testBit k = true ∧ s.coreServes k = true) ∧
    (∃ (s : State) (k : Core), s.alive 4 = true ∧ ((s.rd .FTHM_SAMP_CFG_SAMP_EN).testBit k = false ∨ s.coreServes k = false)) := ⟨
    ⟨up.wr .WHIP_CFG_SCRUB_EN 0, 0, false, by decide +kernel⟩,
    ⟨up.wr .WHIP_INST_PRESENT 1 0, 0, .clean, true, false, by decide +kernel⟩,
    ⟨{ (up.wr .WHIP_INST_PRESENT 1 0).wr .WHIP_CFG_SCRUB_EN 1 with belay := { up.belay with background := true } }, 0, .clean, false,
      true, by decide +kernel⟩,
    ⟨{ (up.wr .WHIP_INST_PRESENT 1 0) with whip := [(0, { tracker := [(0, 2)] })] }, 0, 0, .corrected, true, false, 2, by decide +kernel⟩,
    ⟨up.wr .WHIP_INST_PRESENT 1 0, 0, .uncorrectable (.datapath none), true, by decide +kernel⟩,
    ⟨up, .host 0, by unfold State.mayWrite; decide +kernel⟩,
    ⟨((((up.wr .BCKT_RING_CFG_TYPE 3 0).wr .BCKT_RING_CFG_EN 1 0).wr .BCKT_RING_ST_STATE 1 0).wr .BCKT_RING_CFG_SIZE 12 0).wr .FTHM_DUMP_CFG_DUMP_EN 1,
      by decide +kernel⟩,
    ⟨up.wr .FTHM_DUMP_CFG_DUMP_EN 1, by decide +kernel⟩,
    ⟨{ (up.wr .FTHM_DUMP_CFG_DUMP_EN 1) with fathom := { up.fathom with dump := some ⟨⟨none⟩, 0, 0, false, 0, 0, []⟩, tick := none } },
      by decide +kernel⟩,
    ⟨{ (up.wr .FTHM_DUMP_CFG_DUMP_EN 1) with fathom := { up.fathom with dump := some ⟨⟨none⟩, 0, 0, false, 0, 0, []⟩, tick := some ⟨none⟩ } },
      by decide +kernel⟩,
    ⟨{ ((((up.wr .BCKT_RING_CFG_TYPE 3 0).wr .BCKT_RING_CFG_EN 1 0).wr .BCKT_RING_ST_STATE 1 0).wr .BCKT_RING_CFG_SIZE 12 0) with fathom := { up.fathom with dump := some ⟨⟨none⟩, 0, 0, false, 0, 0, []⟩, tick := none } },
      ⟨⟨none⟩, 0, 0, false, 0, 0, []⟩, by decide +kernel⟩,
    ⟨{ ((((up.wr .BCKT_RING_CFG_TYPE 3 0).wr .BCKT_RING_CFG_EN 1 0).wr .BCKT_RING_ST_STATE 1 0).wr .BCKT_RING_CFG_SIZE 12 0) with fathom := { up.fathom with dump := some ⟨⟨none⟩, 0, 0, false, 0, 0, []⟩, tick := some ⟨none⟩ } },
      ⟨⟨none⟩, 0, 0, false, 0, 0, []⟩, by decide +kernel⟩,
    ⟨given ({ up with fathom := { up.fathom with dump := none, tick := some ⟨none⟩ } }) (cmdFor 0x0901 0 [] []), 0, cmdFor 0x0901 0 [] [],
      by unfold State.ready; decide +kernel⟩,
    ⟨given ({ up with fathom := { up.fathom with dump := some ⟨⟨none⟩, 0, 0, false, 0, 0, []⟩, tick := none } }) (cmdFor 0x0901 0 [] []),
      0, cmdFor 0x0901 0 [] [], by unfold State.ready; decide +kernel⟩,
    ⟨given up (cmdFor 0x0901 0 [] []), 0, cmdFor 0x0901 0 [] [], by unfold State.ready; decide +kernel⟩,
    ⟨given up (cmdFor 0x0902 0 [] []), 0, cmdFor 0x0902 0 [] [], by unfold State.ready; decide +kernel⟩,
    ⟨up, by decide +kernel⟩,
    ⟨{ up.wr .FTHM_SAMP_CFG_SAMP_EN 1 with marline := { up.marline with services := [] } }.wr .MRLN_CORE_ST_CSTATE 2 0, 0,
      by decide +kernel⟩,
    ⟨up, 0, by decide +kernel⟩⟩

/-- CrossingsRecentre. -/
theorem witness_CrossingsRecentre :
    (∃ (s : State) (d : ClockDom) (b : Nat), s.boot.coreUp = true ∧ crossingOwner d.val = some b ∧ s.alive 4 = true) ∧
    (∃ (s : State) (d : ClockDom) (b : Nat), s.boot.coreUp = true ∧ crossingOwner d.val = some b ∧ s.alive b = true) ∧
    (∃ (s : State) (d : ClockDom) (inFrame : Bool) (b : Nat), s.boot.coreUp = true ∧ crossingOwner d.val = some b ∧ inFrame = false) ∧
    (∃ (s : State) (d : ClockDom) (inFrame : Bool) (b : Nat), s.boot.coreUp = true ∧ crossingOwner d.val = some b ∧ inFrame = true ∧
      75 ≤ d.val ∧ d.val < 79) ∧
    (∃ (s : State) (d : ClockDom) (inFrame : Bool) (b : Nat) (c : _), s.boot.coreUp = true ∧ crossingOwner d.val = some b ∧
      inFrame = true ∧ d.val < 60 ∧ c ∈ s.clientsOn (d.val - 12)) ∧
    (∃ (s : State) (d : ClockDom) (inFrame : Bool) (b : Nat) (l : _) (c : _), s.boot.coreUp = true ∧ crossingOwner d.val = some b ∧
      inFrame = true ∧ 60 ≤ d.val ∧ d.val < 72 ∧ l < 4 ∧ c ∈ s.clientsOn (4 * (d.val - 60) + l)) ∧
    (∃ (s : State) (d : ClockDom), (s.boot.coreUp = false ∨ crossingOwner d.val = none)) := ⟨
    ⟨{ up with boot := { up.boot with coreUp := true } }, 12, 17, by decide +kernel⟩,
    ⟨{ up with boot := { up.boot with coreUp := true } }, 75, 18, by decide +kernel⟩,
    ⟨{ up with boot := { up.boot with coreUp := true } }, 12, false, 17, by decide +kernel⟩,
    ⟨{ up with boot := { up.boot with coreUp := true } }, 76, true, 18, by decide +kernel⟩,
    ⟨up.wr .SHET_CLI_CFG_TYPE 1 0, 12, true, 17, 0, by decide +kernel⟩,
    ⟨up.wr .SHET_CLI_CFG_TYPE 1 0, 60, true, 17, 0, 0, by decide +kernel⟩,
    ⟨State.reset, 12, by decide +kernel⟩⟩

/-- LoadingLoop. -/
theorem witness_LoadingLoop :
    (∃ (s : State) (n : Line) (f : _), s.alive 9 = true ∧ s.loads n = true ∧ f ∈ s.firstSlots .BRAD_SC_CFG_WIDTH n) ∧
    (∃ (s : State) (n : Line), s.alive 9 = true ∧ s.loads n = true ∧ s.on .BRAD_LINE_CFG_LOAD_AUTO n = false) ∧
    (∃ (s : State) (n : Line), s.alive 9 = true ∧ s.loads n = true ∧ s.on .BRAD_LINE_CFG_LOAD_AUTO n = true ∧
      s.rd .BRAD_LOAD_STAT_STATE n ≠ 0) ∧
    (∃ (s : State) (req : Requester) (n : Line) (table : List (Nat × Nat × Nat)), s.mayWrite req 9 1 (s.lineDom n) ∧ s.loads n = true ∧
      table = ((s.firstSlots .BRAD_SC_CFG_WIDTH n).map fun f => (f,
      s.clipPair n (s.rd .BRAD_SC_LOAD_FLOOR_ENT n f) (s.effCeil n f) 0 128)) ∧ s.on .BRAD_LINE_CFG_LOAD_AUTO n = true) ∧
    (∃ (s : State) (req : Requester) (n : Line) (table : List (Nat × Nat × Nat)), s.mayWrite req 9 1 (s.lineDom n) ∧ s.loads n = true ∧
      table = ((s.firstSlots .BRAD_SC_CFG_WIDTH n).map fun f => (f,
      s.clipPair n (s.rd .BRAD_SC_LOAD_FLOOR_ENT n f) (s.effCeil n f) 0 128)) ∧ s.on .BRAD_LINE_CFG_LOAD_AUTO n = false ∧
      s.rd .BRAD_LOAD_STAT_STATE n = 0 ∧ table ≠ s.txTable n) ∧
    (∃ (s : State) (req : Requester) (n : Line) (table : List (Nat × Nat × Nat)), s.mayWrite req 9 1 (s.lineDom n) ∧ s.loads n = true ∧
      table = ((s.firstSlots .BRAD_SC_CFG_WIDTH n).map fun f => (f,
      s.clipPair n (s.rd .BRAD_SC_LOAD_FLOOR_ENT n f) (s.effCeil n f) 0 128)) ∧ s.on .BRAD_LINE_CFG_LOAD_AUTO n = false ∧
      s.rd .BRAD_LOAD_STAT_STATE n = 0 ∧ table = s.txTable n) ∧
    (∃ (s : State) (req : Requester) (n : Line) (table : List (Nat × Nat × Nat)), s.mayWrite req 9 1 (s.lineDom n) ∧ s.loads n = true ∧
      table = ((s.firstSlots .BRAD_SC_CFG_WIDTH n).map fun f => (f,
      s.clipPair n (s.rd .BRAD_SC_LOAD_FLOOR_ENT n f) (s.effCeil n f) 0 128)) ∧ s.on .BRAD_LINE_CFG_LOAD_AUTO n = false ∧
      s.rd .BRAD_LOAD_STAT_STATE n ≠ 0) ∧
    (∃ (s : State) (n : Line), s.alive 9 = true ∧ s.rd .BRAD_LOAD_STAT_STATE n = 1 ∧ (s.brd n).revertHeld = false ∧
      (s.brd n).manHeld = false) ∧
    (∃ (s : State) (n : Line), s.alive 9 = true ∧ 2 ≤ s.rd .BRAD_LOAD_STAT_STATE n ∧ 1 < s.rd .BRAD_LOAD_STAT_COUNT n) ∧
    (∃ (s : State) (n : Line) (f : Slot) (b : Nat) (e : Nat), s.alive 9 = true ∧ 2 ≤ s.rd .BRAD_LOAD_STAT_STATE n ∧
      s.rd .BRAD_LOAD_STAT_COUNT n ≤ 1 ∧ ((s.brd n).table.find? fun x => x.1 == f.val) = some (f.val, b, e)) ∧
    (∃ (s : State) (n : Line), s.alive 9 = true ∧ 2 ≤ s.rd .BRAD_LOAD_STAT_STATE n ∧ s.rd .BRAD_LOAD_STAT_COUNT n ≤ 1 ∧
      (s.brd n).revertHeld = false ∧ (s.brd n).manHeld = false ∧ (s.brd n).evalHeld = false) ∧
    (∃ (s : State) (n : Line), s.alive 9 = true ∧ s.loads n = true ∧ s.on .BRAD_LOAD_STAT_RX_FALLBACK n = true ∧
      s.rd .BRAD_LOAD_STAT_STATE n < 2) ∧
    (∃ (s : State) (n : Line), s.alive 9 = true ∧ s.loads n = true ∧ s.on .BRAD_LOAD_STAT_RX_FALLBACK n = true ∧
      s.rd .BRAD_LOAD_STAT_STATE n = 2) ∧
    (∃ (s : State) (n : Line), s.alive 9 = true ∧ s.loads n = true ∧ s.on .BRAD_LOAD_STAT_RX_FALLBACK n = true ∧
      s.rd .BRAD_LOAD_STAT_STATE n = 3) ∧
    (∃ (s : State) (n : Line) (mob : List Byte) (v : Nat), s.alive 13 = true ∧ s.loads n = true ∧ s.on .HTCH_STAT_IN_FRAME n = true ∧
      mob = (s.hit n).rxMob ∧ mob.length = 2048 ∧ v = bigVal ((mob.drop 136).take 80) ∧ mobOk mob = false) ∧
    (∃ (s : State) (n : Line) (mob : List Byte) (v : Nat) (f : _), s.alive 13 = true ∧ s.loads n = true ∧
      s.on .HTCH_STAT_IN_FRAME n = true ∧ mob = (s.hit n).rxMob ∧ mob.length = 2048 ∧ v = bigVal ((mob.drop 136).take 80) ∧
      mobOk mob = true ∧ f ∈ s.firstSlots .BRAD_SC_CFG_WIDTH n) ∧
    (∃ (s : State) (n : Line), s.alive 12 = true ∧ (s.clt n).txDue = true ∧ s.lineNative n = true) ∧
    (∃ (s : State) (n : Line), s.alive 12 = true ∧ (s.clt n).txDue = false) := ⟨
    ⟨(up.wr .TOP_MODE_STAT_L0_MODE 1).wr .BRAD_SC_CFG_WIDTH 1 0 0, 0, 0, by decide +kernel⟩,
    ⟨(up.wr .TOP_MODE_STAT_L0_MODE 1).wr .BRAD_LINE_CFG_LOAD_AUTO 0 0, 0, by decide +kernel⟩,
    ⟨((up.wr .TOP_MODE_STAT_L0_MODE 1).wr .BRAD_LINE_CFG_LOAD_AUTO 1 0).wr .BRAD_LOAD_STAT_STATE 1 0, 0, by decide +kernel⟩,
    ⟨(up.wr .TOP_MODE_STAT_L0_MODE 1).wr .BRAD_LINE_CFG_LOAD_AUTO 1 0, .host 0, 0,
      ((((up.wr .TOP_MODE_STAT_L0_MODE 1).wr .BRAD_LINE_CFG_LOAD_AUTO 1 0).firstSlots .BRAD_SC_CFG_WIDTH ((0 : Line))).map fun f => (f,
      ((up.wr .TOP_MODE_STAT_L0_MODE 1).wr .BRAD_LINE_CFG_LOAD_AUTO 1 0).clipPair ((0 : Line)) (((up.wr .TOP_MODE_STAT_L0_MODE 1).wr .BRAD_LINE_CFG_LOAD_AUTO 1 0).rd .BRAD_SC_LOAD_FLOOR_ENT ((0 : Line)) f) (((up.wr .TOP_MODE_STAT_L0_MODE 1).wr .BRAD_LINE_CFG_LOAD_AUTO 1 0).effCeil ((0 : Line)) f) 0 128)),
      by unfold State.mayWrite; decide +kernel⟩,
    ⟨((up.wr .TOP_MODE_STAT_L0_MODE 1).wr .BRAD_SC_CFG_WIDTH 1 0 0).wr .BRAD_LINE_CFG_LOAD_AUTO 0 0, .host 0, 0,
      (((((up.wr .TOP_MODE_STAT_L0_MODE 1).wr .BRAD_SC_CFG_WIDTH 1 0 0).wr .BRAD_LINE_CFG_LOAD_AUTO 0 0).firstSlots .BRAD_SC_CFG_WIDTH ((0 : Line))).map fun f => (f,
      (((up.wr .TOP_MODE_STAT_L0_MODE 1).wr .BRAD_SC_CFG_WIDTH 1 0 0).wr .BRAD_LINE_CFG_LOAD_AUTO 0 0).clipPair ((0 : Line)) ((((up.wr .TOP_MODE_STAT_L0_MODE 1).wr .BRAD_SC_CFG_WIDTH 1 0 0).wr .BRAD_LINE_CFG_LOAD_AUTO 0 0).rd .BRAD_SC_LOAD_FLOOR_ENT ((0 : Line)) f) ((((up.wr .TOP_MODE_STAT_L0_MODE 1).wr .BRAD_SC_CFG_WIDTH 1 0 0).wr .BRAD_LINE_CFG_LOAD_AUTO 0 0).effCeil ((0 : Line)) f) 0 128)),
      by unfold State.mayWrite; decide +kernel⟩,
    ⟨((up.wr .TOP_MODE_STAT_L0_MODE 1).wr .BRAD_LINE_CFG_LOAD_AUTO 0 0).wr .BRAD_LOAD_STAT_STATE 0 0, .host 0, 0,
      (((up.wr .TOP_MODE_STAT_L0_MODE 1).wr .BRAD_LINE_CFG_LOAD_AUTO 0 0).wr .BRAD_LOAD_STAT_STATE 0 0).txTable ((0 : Line)),
      by unfold State.mayWrite; decide +kernel⟩,
    ⟨((up.wr .TOP_MODE_STAT_L0_MODE 1).wr .BRAD_LINE_CFG_LOAD_AUTO 0 0).wr .BRAD_LOAD_STAT_STATE 1 0, .host 0, 0,
      (((((up.wr .TOP_MODE_STAT_L0_MODE 1).wr .BRAD_LINE_CFG_LOAD_AUTO 0 0).wr .BRAD_LOAD_STAT_STATE 1 0).firstSlots .BRAD_SC_CFG_WIDTH ((0 : Line))).map fun f => (f,
      (((up.wr .TOP_MODE_STAT_L0_MODE 1).wr .BRAD_LINE_CFG_LOAD_AUTO 0 0).wr .BRAD_LOAD_STAT_STATE 1 0).clipPair ((0 : Line)) ((((up.wr .TOP_MODE_STAT_L0_MODE 1).wr .BRAD_LINE_CFG_LOAD_AUTO 0 0).wr .BRAD_LOAD_STAT_STATE 1 0).rd .BRAD_SC_LOAD_FLOOR_ENT ((0 : Line)) f) ((((up.wr .TOP_MODE_STAT_L0_MODE 1).wr .BRAD_LINE_CFG_LOAD_AUTO 0 0).wr .BRAD_LOAD_STAT_STATE 1 0).effCeil ((0 : Line)) f) 0 128)),
      by unfold State.mayWrite; decide +kernel⟩,
    ⟨(up.wr .BRAD_LOAD_STAT_STATE 1 0).setBrd 0 { revertHeld := false, manHeld := false }, 0, by decide +kernel⟩,
    ⟨(up.wr .BRAD_LOAD_STAT_STATE 2 0).wr .BRAD_LOAD_STAT_COUNT 2 0, 0, by decide +kernel⟩,
    ⟨(up.wr .BRAD_LOAD_STAT_STATE 2 0).setBrd 0 { table := [(0, 0, 0)] }, 0, 0, 0, 0, by decide +kernel⟩,
    ⟨(up.wr .BRAD_LOAD_STAT_STATE 2 0).setBrd 0 { revertHeld := false, manHeld := false, evalHeld := false }, 0, by decide +kernel⟩,
    ⟨(up.wr .TOP_MODE_STAT_L0_MODE 1).wr .BRAD_LOAD_STAT_RX_FALLBACK 1 0, 0, by decide +kernel⟩,
    ⟨((up.wr .TOP_MODE_STAT_L0_MODE 1).wr .BRAD_LOAD_STAT_RX_FALLBACK 1 0).wr .BRAD_LOAD_STAT_STATE 2 0, 0, by decide +kernel⟩,
    ⟨((up.wr .TOP_MODE_STAT_L0_MODE 1).wr .BRAD_LOAD_STAT_RX_FALLBACK 1 0).wr .BRAD_LOAD_STAT_STATE 3 0, 0, by decide +kernel⟩,
    ⟨{ (up.wr .TOP_MODE_STAT_L0_MODE 1).wr .HTCH_STAT_IN_FRAME 1 0 with hitch := [(0, { rxMob := (List.replicate 2044 (0 : Byte) ++ leBytes 4 (crc32c (List.replicate 2044 (0 : Byte)) + 1)) })] },
      0, (List.replicate 2044 (0 : Byte) ++ leBytes 4 (crc32c (List.replicate 2044 (0 : Byte)) + 1)),
      bigVal (((((List.replicate 2044 (0 : Byte) ++ leBytes 4 (crc32c (List.replicate 2044 (0 : Byte)) + 1)) : List Byte)).drop 136).take 80),
      ⟨by decide +kernel, by decide +kernel, by decide +kernel, rfl, (mob_tail _ (List.length_replicate ..) _).1, rfl,
      (mob_tail _ (List.length_replicate ..) _).2.trans (by
      have : crc32c (List.replicate 2044 (0 : Byte)) < 2 ^ 32 := by unfold crc32c; exact BitVec.isLt _
      rw [decide_eq_false_iff_not]; omega)⟩⟩,
    ⟨{ ((up.wr .TOP_MODE_STAT_L0_MODE 1).wr .HTCH_STAT_IN_FRAME 1 0).wr .BRAD_SC_CFG_WIDTH 1 0 0 with hitch := [(0, { rxMob := (List.replicate 2044 (0 : Byte) ++ leBytes 4 (crc32c (List.replicate 2044 (0 : Byte)))) })] },
      0, (List.replicate 2044 (0 : Byte) ++ leBytes 4 (crc32c (List.replicate 2044 (0 : Byte)))),
      bigVal (((((List.replicate 2044 (0 : Byte) ++ leBytes 4 (crc32c (List.replicate 2044 (0 : Byte)))) : List Byte)).drop 136).take 80),
      0, ⟨by decide +kernel, by decide +kernel, by decide +kernel, rfl, (mob_tail _ (List.length_replicate ..) _).1, rfl,
      (mob_tail _ (List.length_replicate ..) _).2.trans (by
      have : crc32c (List.replicate 2044 (0 : Byte)) < 2 ^ 32 := by unfold crc32c; exact BitVec.isLt _
      rw [decide_eq_true_iff]; omega),
      by decide +kernel⟩⟩,
    ⟨(up.wr .TOP_MODE_STAT_L0_MODE 1).setClt 0 { txDue := true }, 0, by decide +kernel⟩,
    ⟨up.setClt 0 { txDue := false }, 0, by decide +kernel⟩⟩

/-- TableMemoriesAndDacs. -/
theorem witness_TableMemoriesAndDacs :
    (∃ (s : State) (req : Requester) (n : Line) (lut : Bool) (tr : Trib) (idx : Nat) (key : RegKey), s.mayWrite req 9 1 (s.lineDom n) ∧
      key = ⟨if lut then .BRAD_PD_LUT else .BRAD_PD_FIR, n, tr, idx⟩ ∧ regValid key = true ∧ s.lineMode n = 0) ∧
    (∃ (s : State) (req : Requester) (n : Line) (lut : Bool) (tr : Trib) (idx : Nat) (key : RegKey), s.mayWrite req 9 1 (s.lineDom n) ∧
      key = ⟨if lut then .BRAD_PD_LUT else .BRAD_PD_FIR, n, tr, idx⟩ ∧ regValid key = true ∧ s.lineMode n ≠ 0) ∧
    (∃ (s : State) (req : Requester) (n : Line), s.mayWrite req 8 1 (s.lineDom n) ∧ s.rd .STRD_DAC_CAL_FG_STATE n ≠ 1 ∧ s.lineMode n ≠ 0 ∧
      s.txen n = false) ∧
    (∃ (s : State) (req : Requester) (n : Line), s.mayWrite req 8 1 (s.lineDom n) ∧ s.rd .STRD_DAC_CAL_FG_STATE n ≠ 1 ∧
      (s.lineMode n = 0 ∨ s.txen n = true)) ∧
    (∃ (s : State) (n : Line) (ok : Bool) (k : _), s.alive 8 = true ∧ s.rd .STRD_DAC_CAL_FG_STATE n = 1 ∧ ok = true ∧ k < 4) ∧
    (∃ (s : State) (n : Line) (ok : Bool), s.alive 8 = true ∧ s.rd .STRD_DAC_CAL_FG_STATE n = 1 ∧ ok = false) ∧
    (∃ (s : State) (n : Line) (tr : Trib) (c : List Calib) (need : List Calib) (move : List Calib), s.alive 8 = true ∧ s.lineMode n ≠ 0 ∧
      s.on .STRD_DAC_CAL_BG_EN n = true ∧ need = calSum false ((s.str n).dacRest.get [] tr) c ∧ move = calMove false need ∧
      calZero (calRest false need move) = false ∧ calZero ((s.str n).dacRest.get [] tr) = true) := ⟨
    ⟨up.wr .TOP_MODE_STAT_L0_MODE 0, .host 0, 0, false, 0, 0, ⟨if ((false : Bool)) then .BRAD_PD_LUT else .BRAD_PD_FIR, ((0 : Line)),
      ((0 : Trib)), ((0 : Nat))⟩, by unfold State.mayWrite; decide +kernel⟩,
    ⟨up.wr .TOP_MODE_STAT_L0_MODE 1, .host 0, 0, false, 0, 0, ⟨if ((false : Bool)) then .BRAD_PD_LUT else .BRAD_PD_FIR, ((0 : Line)),
      ((0 : Trib)), ((0 : Nat))⟩, by unfold State.mayWrite; decide +kernel⟩,
    ⟨up.wr .TOP_MODE_STAT_L0_MODE 1, .host 0, 0, by unfold State.mayWrite; decide +kernel⟩,
    ⟨up, .host 0, 0, by unfold State.mayWrite; decide +kernel⟩,
    ⟨up.wr .STRD_DAC_CAL_FG_STATE 1 0, 0, true, 0, by decide +kernel⟩,
    ⟨up.wr .STRD_DAC_CAL_FG_STATE 1 0, 0, false, by decide +kernel⟩,
    ⟨(up.wr .TOP_MODE_STAT_L0_MODE 1).wr .STRD_DAC_CAL_BG_EN 1 0, 0, 0, List.replicate 4 { offset := 1000, gain := 1000, timing := 1000 },
      calSum false ((((up.wr .TOP_MODE_STAT_L0_MODE 1).wr .STRD_DAC_CAL_BG_EN 1 0).str ((0 : Line))).dacRest.get [] ((0 : Trib))) ((List.replicate 4 { offset := 1000, gain := 1000, timing := 1000 } : List Calib)),
      calMove false ((calSum false ((((up.wr .TOP_MODE_STAT_L0_MODE 1).wr .STRD_DAC_CAL_BG_EN 1 0).str ((0 : Line))).dacRest.get [] ((0 : Trib))) ((List.replicate 4 { offset := 1000, gain := 1000, timing := 1000 } : List Calib)) : List Calib)),
      by decide +kernel⟩⟩

/-- AlignmentAndFrames. -/
theorem witness_AlignmentAndFrames :
    (∃ (s : State) (n : Line) (pos : Nat), s.alive 13 = true ∧
      (s.lineMode n = 0 ∨ s.lineMode n = 2 ∨ s.on .HTCH_STAT_IN_FRAME n = true ∨ 4 ≤ (s.hit n).cands.length ∨ s.alignedAt n pos = none)) ∧
    (∃ (s : State) (n : Line) (pos : Nat) (m : _), s.alive 13 = true ∧ s.lineMode n ≠ 0 ∧ s.lineMode n ≠ 2 ∧
      s.on .HTCH_STAT_IN_FRAME n = false ∧ (s.hit n).cands.length < 4 ∧ s.alignedAt n pos = some m) ∧
    (∃ (s : State) (n : Line) (pos : Nat) (b : List RxBit), s.lineOzr n = false ∧ s.inStream n pos 40 = some b) ∧
    (∃ (s : State) (n : Line) (i : Nat) (c : Candidate), s.alive 13 = true ∧ s.on .HTCH_STAT_IN_FRAME n = false ∧
      (s.hit n).cands[i]? = some c ∧ s.checkBits n (s.nextAt n c.pos c.mfas) = none) ∧
    (∃ (s : State) (n : Line) (i : Nat) (c : Candidate), s.alive 13 = true ∧ s.on .HTCH_STAT_IN_FRAME n = false ∧
      (s.hit n).cands[i]? = some c ∧ s.checkBits n (s.nextAt n c.pos c.mfas) ≠ none ∧
      s.alignedAt n (s.nextAt n c.pos c.mfas) ≠ some ((c.mfas + 1) % 256)) ∧
    (∃ (s : State) (n : Line) (i : Nat) (c : Candidate), s.alive 13 = true ∧ s.on .HTCH_STAT_IN_FRAME n = false ∧
      (s.hit n).cands[i]? = some c ∧ s.checkBits n (s.nextAt n c.pos c.mfas) ≠ none ∧
      s.alignedAt n (s.nextAt n c.pos c.mfas) = some ((c.mfas + 1) % 256) ∧ c.passes + 1 < s.hcfg n .HTCH_LINE_CFG_ALIGN_N) ∧
    (∃ (s : State) (n : Line) (i : Nat) (c : Candidate), s.alive 13 = true ∧ s.on .HTCH_STAT_IN_FRAME n = false ∧
      (s.hit n).cands[i]? = some c ∧ s.checkBits n (s.nextAt n c.pos c.mfas) ≠ none ∧
      s.alignedAt n (s.nextAt n c.pos c.mfas) = some ((c.mfas + 1) % 256) ∧ s.hcfg n .HTCH_LINE_CFG_ALIGN_N ≤ c.passes + 1) ∧
    (∃ (s : State) (n : Line), s.alive 13 = true ∧ s.on .HTCH_STAT_IN_FRAME n = true ∧
      s.hcfg n .HTCH_LINE_CFG_ALIGN_M ≤ (s.hit n).errored) ∧
    (∃ (s : State) (n : Line), s.alive 13 = true ∧ s.on .HTCH_STAT_IN_FRAME n = true ∧
      (s.hit n).errored < s.hcfg n .HTCH_LINE_CFG_ALIGN_M) ∧
    (∃ (s : State) (n : Line), s.alive 13 = true ∧ s.on .HTCH_STAT_IN_FRAME n = true ∧ 5 ≤ (s.hit n).wrong) ∧
    (∃ (s : State) (n : Line), s.alive 13 = true ∧ s.on .HTCH_STAT_IN_FRAME n = true ∧ (s.hit n).wrong < 5) ∧
    (∃ (s : State) (n : Line), s.alive 13 = true ∧
      (s.on .HTCH_STAT_IN_FRAME n = false ∨ s.inStream n (s.hit n).pos (s.frameLen n) = none)) ∧
    (∃ (s : State) (n : Line) (b : List RxBit), s.alive 13 = true ∧ s.on .HTCH_STAT_IN_FRAME n = true ∧ 0 < s.frameLen n ∧
      s.inStream n (s.hit n).pos (s.frameLen n) = some b ∧ s.on .HTCH_STAT_OOM n = false) ∧
    (∃ (s : State) (n : Line) (b : List RxBit) (oh : _), s.alive 13 = true ∧ s.on .HTCH_STAT_IN_FRAME n = true ∧ 0 < s.frameLen n ∧
      s.inStream n (s.hit n).pos (s.frameLen n) = some b ∧ s.lineOzr n = false ∧ oh = plainBytes ((frameBytes b).take (s.rxU n))) ∧
    (∃ (s : State) (n : Line), s.alive 13 = true ∧ s.on .HTCH_STAT_OOF n = true ∧ s.on .HTCH_DEF_LOS n = false ∧ s.lineMode n ≠ 2 ∧
      s.on .HTCH_DEF_LOF n = false) ∧
    (∃ (s : State) (n : Line), s.alive 13 = true ∧ s.on .HTCH_STAT_OOF n = false ∧ s.on .HTCH_STAT_IN_FRAME n = true) ∧
    (∃ (s : State) (n : Line), s.alive 13 = true ∧ s.on .HTCH_STAT_OOM n = true ∧ s.on .HTCH_DEF_LOS n = false ∧
      s.on .HTCH_DEF_LOF n = false ∧ s.lineMode n ≠ 2) ∧
    (∃ (s : State) (n : Line), s.alive 13 = true ∧ s.on .HTCH_STAT_OOM n = false ∧ s.on .HTCH_STAT_IN_MF n = true) ∧
    (∃ (s : State) (n : Line), s.alive 13 = true ∧ (s.hit n).acting = true ∧ s.formSsf n = false) ∧
    (∃ (s : State) (n : Line), s.alive 13 = true ∧ ((s.hit n).acting = false ∨ s.formSsf n = true)) ∧
    (∃ (s : State) (n : Line), s.alive 13 = true ∧ s.lineMode n = 0) ∧
    (∃ (s : State) (n : Line), s.alive 13 = true ∧ s.lineNative n = true) ∧
    (∃ (s : State) (n : Line) (f : Byte), s.alive 13 = true ∧ s.lineNative n = true ∧ f ≠ 0 ∧ s.rd .HTCH_STAT_TX_U n ≠ 0 ∧
      (s.hit n).cfgOld = none) ∧
    (∃ (s : State) (n : Line), s.alive 13 = true ∧ s.lineOzr n = true ∧ (s.hit n).cfgOld = none) := ⟨
    ⟨up, 0, 0, by decide +kernel⟩,
    ⟨{ up.wr .TOP_MODE_STAT_L0_MODE 1 with hitch := [(0, { rxBits := (toBits [0xF6, 0xF6, 0x28, 0x28, 7]).map fun b => (b, false) })] },
      0, 0, 7, by decide +kernel⟩,
    ⟨{ up.wr .TOP_MODE_STAT_L0_MODE 1 with hitch := [(0, { rxBits := (toBits [0xF6, 0xF6, 0x28, 0x28, 7]).map fun b => (b, false) })] },
      0, 0, (toBits [0xF6, 0xF6, 0x28, 0x28, 7]).map fun b => (b, false), by decide +kernel⟩,
    ⟨{ up.wr .TOP_MODE_STAT_L0_MODE 1 with hitch := [(0, { cands := [⟨0, 6, 0, false⟩] })] }, 0, 0, ⟨0, 6, 0, false⟩, by decide +kernel⟩,
    ⟨{ up.wr .TOP_MODE_STAT_L0_MODE 1 with hitch := [(0, { cands := [⟨0, 9, 0, false⟩], rxBits := (toBits [0xF6, 0xF6, 0x28, 0x28, 7]).map fun b => (b, false) })] },
      0, 0, ⟨0, 9, 0, false⟩, by decide +kernel⟩,
    ⟨{ (up.wr .TOP_MODE_STAT_L0_MODE 1).wr .HTCH_LINE_CFG_ALIGN_N 4 0 with hitch := [(0, { cands := [⟨0, 6, 0, false⟩], rxBits := (toBits [0xF6, 0xF6, 0x28, 0x28, 7]).map fun b => (b, false) })] },
      0, 0, ⟨0, 6, 0, false⟩, by decide +kernel⟩,
    ⟨{ (up.wr .TOP_MODE_STAT_L0_MODE 1).wr .HTCH_LINE_CFG_ALIGN_N 1 0 with hitch := [(0, { cands := [⟨0, 6, 0, false⟩], rxBits := (toBits [0xF6, 0xF6, 0x28, 0x28, 7]).map fun b => (b, false) })] },
      0, 0, ⟨0, 6, 0, false⟩, by decide +kernel⟩,
    ⟨{ up.wr .HTCH_STAT_IN_FRAME 1 0 with hitch := [(0, { errored := 100 })] }, 0, by decide +kernel⟩,
    ⟨up.wr .HTCH_STAT_IN_FRAME 1 0, 0, by decide +kernel⟩,
    ⟨(up.wr .HTCH_STAT_IN_FRAME 1 0).setHit 0 { wrong := 5 }, 0, by decide +kernel⟩,
    ⟨up.wr .HTCH_STAT_IN_FRAME 1 0, 0, by decide +kernel⟩,
    ⟨up, 0, by decide +kernel⟩,
    ⟨{ (((up.wr .TOP_MODE_STAT_L0_MODE 1).wr .HTCH_STAT_IN_FRAME 1 0).wr .SPLC_SC_CFG_WIDTH 1 0 0) with splice := [(0, { table := [(0, 0, 32)] })], hitch := [(0, { rxBits := List.replicate 16384 ((false, false) : RxBit) })] },
      0, ((({ (((up.wr .TOP_MODE_STAT_L0_MODE 1).wr .HTCH_STAT_IN_FRAME 1 0).wr .SPLC_SC_CFG_WIDTH 1 0 0) with splice := [(0, { table := [(0, 0, 32)] })], hitch := [(0, { rxBits := List.replicate 16384 ((false, false) : RxBit) })] }).hit ((0 : Line))).rxBits.drop ((({ (((up.wr .TOP_MODE_STAT_L0_MODE 1).wr .HTCH_STAT_IN_FRAME 1 0).wr .SPLC_SC_CFG_WIDTH 1 0 0) with splice := [(0, { table := [(0, 0, 32)] })], hitch := [(0, { rxBits := List.replicate 16384 ((false, false) : RxBit) })] }).hit ((0 : Line))).pos - (({ (((up.wr .TOP_MODE_STAT_L0_MODE 1).wr .HTCH_STAT_IN_FRAME 1 0).wr .SPLC_SC_CFG_WIDTH 1 0 0) with splice := [(0, { table := [(0, 0, 32)] })], hitch := [(0, { rxBits := List.replicate 16384 ((false, false) : RxBit) })] }).hit ((0 : Line))).rxAt)).take (({ (((up.wr .TOP_MODE_STAT_L0_MODE 1).wr .HTCH_STAT_IN_FRAME 1 0).wr .SPLC_SC_CFG_WIDTH 1 0 0) with splice := [(0, { table := [(0, 0, 32)] })], hitch := [(0, { rxBits := List.replicate 16384 ((false, false) : RxBit) })] }).frameLen ((0 : Line))),
      ⟨by decide +kernel, by decide +kernel, by decide +kernel, in_stream 16384 (false, false) rfl (by decide +kernel),
      by decide +kernel⟩⟩,
    ⟨{ (((up.wr .TOP_MODE_STAT_L0_MODE 1).wr .HTCH_STAT_IN_FRAME 1 0).wr .SPLC_SC_CFG_WIDTH 1 0 0) with splice := [(0, { table := [(0, 0, 32)] })], hitch := [(0, { rxBits := List.replicate 16384 ((false, false) : RxBit) })] },
      0, ((({ (((up.wr .TOP_MODE_STAT_L0_MODE 1).wr .HTCH_STAT_IN_FRAME 1 0).wr .SPLC_SC_CFG_WIDTH 1 0 0) with splice := [(0, { table := [(0, 0, 32)] })], hitch := [(0, { rxBits := List.replicate 16384 ((false, false) : RxBit) })] }).hit ((0 : Line))).rxBits.drop ((({ (((up.wr .TOP_MODE_STAT_L0_MODE 1).wr .HTCH_STAT_IN_FRAME 1 0).wr .SPLC_SC_CFG_WIDTH 1 0 0) with splice := [(0, { table := [(0, 0, 32)] })], hitch := [(0, { rxBits := List.replicate 16384 ((false, false) : RxBit) })] }).hit ((0 : Line))).pos - (({ (((up.wr .TOP_MODE_STAT_L0_MODE 1).wr .HTCH_STAT_IN_FRAME 1 0).wr .SPLC_SC_CFG_WIDTH 1 0 0) with splice := [(0, { table := [(0, 0, 32)] })], hitch := [(0, { rxBits := List.replicate 16384 ((false, false) : RxBit) })] }).hit ((0 : Line))).rxAt)).take (({ (((up.wr .TOP_MODE_STAT_L0_MODE 1).wr .HTCH_STAT_IN_FRAME 1 0).wr .SPLC_SC_CFG_WIDTH 1 0 0) with splice := [(0, { table := [(0, 0, 32)] })], hitch := [(0, { rxBits := List.replicate 16384 ((false, false) : RxBit) })] }).frameLen ((0 : Line))),
      plainBytes ((frameBytes (((({ (((up.wr .TOP_MODE_STAT_L0_MODE 1).wr .HTCH_STAT_IN_FRAME 1 0).wr .SPLC_SC_CFG_WIDTH 1 0 0) with splice := [(0, { table := [(0, 0, 32)] })], hitch := [(0, { rxBits := List.replicate 16384 ((false, false) : RxBit) })] }).hit ((0 : Line))).rxBits.drop ((({ (((up.wr .TOP_MODE_STAT_L0_MODE 1).wr .HTCH_STAT_IN_FRAME 1 0).wr .SPLC_SC_CFG_WIDTH 1 0 0) with splice := [(0, { table := [(0, 0, 32)] })], hitch := [(0, { rxBits := List.replicate 16384 ((false, false) : RxBit) })] }).hit ((0 : Line))).pos - (({ (((up.wr .TOP_MODE_STAT_L0_MODE 1).wr .HTCH_STAT_IN_FRAME 1 0).wr .SPLC_SC_CFG_WIDTH 1 0 0) with splice := [(0, { table := [(0, 0, 32)] })], hitch := [(0, { rxBits := List.replicate 16384 ((false, false) : RxBit) })] }).hit ((0 : Line))).rxAt)).take (({ (((up.wr .TOP_MODE_STAT_L0_MODE 1).wr .HTCH_STAT_IN_FRAME 1 0).wr .SPLC_SC_CFG_WIDTH 1 0 0) with splice := [(0, { table := [(0, 0, 32)] })], hitch := [(0, { rxBits := List.replicate 16384 ((false, false) : RxBit) })] }).frameLen ((0 : Line))))).take (({ (((up.wr .TOP_MODE_STAT_L0_MODE 1).wr .HTCH_STAT_IN_FRAME 1 0).wr .SPLC_SC_CFG_WIDTH 1 0 0) with splice := [(0, { table := [(0, 0, 32)] })], hitch := [(0, { rxBits := List.replicate 16384 ((false, false) : RxBit) })] }).rxU ((0 : Line)))),
      ⟨by decide +kernel, by decide +kernel, by decide +kernel, in_stream 16384 (false, false) rfl (by decide +kernel), by decide +kernel,
      rfl⟩⟩,
    ⟨(((up.wr .HTCH_STAT_OOF 1 0).wr .HTCH_DEF_LOS 0 0).wr .TOP_MODE_STAT_L0_MODE 1).wr .HTCH_DEF_LOF 0 0, 0, by decide +kernel⟩,
    ⟨((up.wr .HTCH_STAT_OOF 0 0).wr .HTCH_STAT_IN_FRAME 1 0).wr .HTCH_DEF_LOF 1 0, 0, by decide +kernel⟩,
    ⟨(((up.wr .HTCH_STAT_OOM 1 0).wr .HTCH_DEF_LOS 0 0).wr .HTCH_DEF_LOF 0 0).wr .TOP_MODE_STAT_L0_MODE 1, 0, by decide +kernel⟩,
    ⟨(up.wr .HTCH_STAT_OOM 0 0).wr .HTCH_STAT_IN_MF 1 0, 0, by decide +kernel⟩,
    ⟨up.setHit 0 { acting := true }, 0, by decide +kernel⟩,
    ⟨up, 0, by decide +kernel⟩,
    ⟨up.wr .TOP_MODE_STAT_L0_MODE 0, 0, by decide +kernel⟩,
    ⟨up.wr .TOP_MODE_STAT_L0_MODE 1, 0, by decide +kernel⟩,
    ⟨(up.wr .TOP_MODE_STAT_L0_MODE 1).wr .HTCH_STAT_TX_U 8 0, 0, 1, by decide +kernel⟩,
    ⟨(up.wr .TOP_MODE_STAT_L0_MODE 1).wr .TOP_MODE_STAT_L0_FRAME 1, 0, by decide +kernel⟩⟩

/-- BurstsAndMonitoring. -/
theorem witness_BurstsAndMonitoring :
    (∃ (s : State) (n : Line) (leaf : Leaf), s.alive 13 = true ∧
      (s.lineMode n ≠ 2 ∨ (s.hit n).bursts.find? (fun e => e.1 == leaf.val) = none)) ∧
    (∃ (s : State) (n : Line) (leaf : Leaf) (e : _) (h : _), s.alive 13 = true ∧ s.lineMode n = 2 ∧
      (s.hit n).bursts.find? (fun e => e.1 == leaf.val) = some e ∧ h = plainBytes e.2 ∧ burstOk h = false) ∧
    (∃ (s : State) (n : Line) (leaf : Leaf) (e : Nat × List RxByte) (h : List Byte), s.alive 13 = true ∧ s.lineMode n = 2 ∧
      (s.hit n).bursts.find? (fun e => e.1 == leaf.val) = some e ∧ h = plainBytes e.2 ∧ burstOk h = true ∧
      (s.hit n).leafNext.get none leaf = none) ∧
    (∃ (s : State) (n : Line), s.alive 13 = true ∧ s.lineMode n ≠ 0) ∧
    (∃ (s : State) (n : Line), s.alive 13 = true ∧ s.lineMode n = 0) ∧
    (∃ (s : State) (n : Line), s.alive 13 = true ∧ (s.hit n).held = []) ∧
    (∃ (s : State) (n : Line) (w : PmWindow) (rest : List PmWindow), s.alive 13 = true ∧ (s.hit n).held = w :: rest ∧
      (s.hit n).uas.get false 0 = false ∧ isSes w 0 = false) ∧
    (∃ (s : State) (day : Bool), s.alive 13 = true ∧ day = false) ∧
    (∃ (s : State) (day : Bool), s.alive 13 = true ∧ day = true) ∧
    (∃ (s : State) (req : Requester) (n : Line), s.mayWrite req 13 1 (s.lineDom n)) := ⟨
    ⟨up, 0, 0, by decide +kernel⟩,
    ⟨{ up.wr .TOP_MODE_STAT_L0_MODE 2 with hitch := [(0, { bursts := [(0, (List.replicate 20 ((0 : Byte), false)))] })] }, 0, 0, (0,
      (List.replicate 20 ((0 : Byte), false))), plainBytes ((0, (List.replicate 20 ((0 : Byte), false)))).2, by decide +kernel⟩,
    ⟨{ up.wr .TOP_MODE_STAT_L0_MODE 2 with hitch := [(0, { bursts := [(0, (([0x10] ++ List.replicate 15 0) ++ leBytes 4 (crc32c ([0x10] ++ List.replicate 15 0))).map (fun b => (b, false)))] })] },
      0, 0, (0, (([0x10] ++ List.replicate 15 0) ++ leBytes 4 (crc32c ([0x10] ++ List.replicate 15 0))).map (fun b => (b, false))),
      plainBytes ((0, (([0x10] ++ List.replicate 15 0) ++ leBytes 4 (crc32c ([0x10] ++ List.replicate 15 0))).map (fun b => (b,
      false)))).2, by decide +kernel⟩,
    ⟨up.wr .TOP_MODE_STAT_L0_MODE 1, 0, by decide +kernel⟩,
    ⟨up.wr .TOP_MODE_STAT_L0_MODE 0, 0, by decide +kernel⟩,
    ⟨up.setHit 0 { held := [] }, 0, by decide +kernel⟩,
    ⟨up.setHit 0 { held := ({}) :: ([]) }, 0, {}, [], by decide +kernel⟩,
    ⟨up, false, by decide +kernel⟩,
    ⟨up, true, by decide +kernel⟩,
    ⟨up, .host 0, 0, by unfold State.mayWrite; decide +kernel⟩⟩

/-- AcquisitionStates. -/
theorem witness_AcquisitionStates :
    (∃ (s : State) (n : Line), s.alive 10 = true ∧ s.inState n 3 = true ∧ (s.spl n).foffOut = false) ∧
    (∃ (s : State) (n : Line), s.alive 10 = true ∧ s.inState n 3 = true ∧ (s.spl n).foffOut = true) ∧
    (∃ (s : State) (n : Line), s.alive 10 = true ∧ s.inState n 4 = true) ∧
    (∃ (s : State) (n : Line), s.alive 10 = true ∧ s.inState n 5 = true) ∧
    (∃ (s : State) (n : Line), s.alive 10 = true ∧ s.inState n 6 = true) ∧
    (∃ (s : State) (n : Line) (f : _), s.alive 10 = true ∧ s.inState n 7 = true ∧ s.on .SPLC_CMD_FREEZE n = false ∧ f ∈ s.lit n) ∧
    (∃ (s : State) (n : Line) (f : Slot), s.alive 10 = true ∧ s.subIn n f 6 = true) ∧
    (∃ (s : State) (n : Line) (f : Slot), s.alive 10 = true ∧ s.subIn n f 7 = true) ∧
    (∃ (s : State) (n : Line) (f : Slot), s.alive 10 = true ∧ (s.subIn n f 6 = true ∨ s.subIn n f 7 = true)) ∧
    (∃ (s : State) (n : Line), s.alive 10 = true ∧ (s.spl n).halted = false ∧ 3 ≤ s.splState n ∧ s.splState n ≤ 7 ∧ (s.spl n).warm = true) ∧
    (∃ (s : State) (n : Line), s.alive 10 = true ∧ (s.spl n).halted = false ∧ 3 ≤ s.splState n ∧ s.splState n ≤ 7 ∧
      (s.spl n).warm = false ∧ s.splState n = 3) ∧
    (∃ (s : State) (n : Line), s.alive 10 = true ∧ (s.spl n).halted = false ∧ 3 ≤ s.splState n ∧ s.splState n ≤ 7 ∧
      (s.spl n).warm = false ∧ (s.splState n = 4 ∨ s.splState n = 5)) ∧
    (∃ (s : State) (n : Line), s.alive 10 = true ∧ (s.spl n).halted = false ∧ 3 ≤ s.splState n ∧ s.splState n ≤ 7 ∧
      (s.spl n).warm = false ∧ s.splState n = 7) ∧
    (∃ (s : State) (n : Line) (power : Nat) (pin : Bool) (viaPin : Bool), s.alive 10 = true ∧ s.splState n ≠ 0 ∧
      (s.splState n ≠ 2 ∨ (s.str n).adcFailed = false) ∧ viaPin = (pin && s.on .SPLC_LINE_CFG_LOS_PIN_EN n) ∧
      s.on .SPLC_STAT_RAW_LOS n = false ∧ (s.rd .SPLC_LINE_CFG_LOS_THR n < power ∨ viaPin = true) ∧ s.lineMode n ≠ 2) ∧
    (∃ (s : State) (n : Line) (power : Nat) (pin : Bool) (viaPin : Bool), s.alive 10 = true ∧ s.splState n ≠ 0 ∧
      (s.splState n ≠ 2 ∨ (s.str n).adcFailed = false) ∧ viaPin = (pin && s.on .SPLC_LINE_CFG_LOS_PIN_EN n) ∧
      s.on .SPLC_STAT_RAW_LOS n = false ∧ (s.rd .SPLC_LINE_CFG_LOS_THR n < power ∨ viaPin = true) ∧ s.splState n = 8) ∧
    (∃ (s : State) (n : Line) (power : Nat) (pin : Bool) (viaPin : Bool), s.alive 10 = true ∧ s.splState n ≠ 0 ∧
      (s.splState n ≠ 2 ∨ (s.str n).adcFailed = false) ∧ viaPin = (pin && s.on .SPLC_LINE_CFG_LOS_PIN_EN n) ∧
      s.on .SPLC_STAT_RAW_LOS n = false ∧ (s.rd .SPLC_LINE_CFG_LOS_THR n < power ∨ viaPin = true) ∧ s.splState n = 7 ∧
      (s.spl n).thawed = true) ∧
    (∃ (s : State) (n : Line) (power : Nat) (pin : Bool) (viaPin : Bool), s.alive 10 = true ∧ s.splState n ≠ 0 ∧
      (s.splState n ≠ 2 ∨ (s.str n).adcFailed = false) ∧ viaPin = (pin && s.on .SPLC_LINE_CFG_LOS_PIN_EN n) ∧
      s.on .SPLC_STAT_RAW_LOS n = false ∧ (s.rd .SPLC_LINE_CFG_LOS_THR n < power ∨ viaPin = true) ∧ 3 ≤ s.splState n ∧ s.splState n ≤ 7 ∧
      (s.splState n = 7 → (s.spl n).thawed = false)) ∧
    (∃ (s : State) (n : Line) (power : Nat) (pin : Bool) (viaPin : Bool), s.alive 10 = true ∧ s.splState n ≠ 0 ∧
      (s.splState n ≠ 2 ∨ (s.str n).adcFailed = false) ∧ viaPin = (pin && s.on .SPLC_LINE_CFG_LOS_PIN_EN n) ∧
      s.on .SPLC_STAT_RAW_LOS n = true ∧ power + s.rd .SPLC_LINE_CFG_LOS_HYST n ≤ s.rd .SPLC_LINE_CFG_LOS_THR n ∧ viaPin = false ∧
      s.splState n = 1) ∧
    (∃ (s : State) (n : Line) (power : Nat) (pin : Bool) (viaPin : Bool), s.alive 10 = true ∧ s.splState n ≠ 0 ∧
      (s.splState n ≠ 2 ∨ (s.str n).adcFailed = false) ∧ viaPin = (pin && s.on .SPLC_LINE_CFG_LOS_PIN_EN n) ∧
      s.on .SPLC_STAT_RAW_LOS n = true ∧ power + s.rd .SPLC_LINE_CFG_LOS_HYST n ≤ s.rd .SPLC_LINE_CFG_LOS_THR n ∧ viaPin = false ∧
      s.splState n = 9 ∧ s.on .SPLC_CMD_FREEZE n = false ∧ s.on .SPLC_STAT_WARM_PEND n = true) ∧
    (∃ (s : State) (n : Line) (power : Nat) (pin : Bool) (viaPin : Bool), s.alive 10 = true ∧ s.splState n ≠ 0 ∧
      (s.splState n ≠ 2 ∨ (s.str n).adcFailed = false) ∧ viaPin = (pin && s.on .SPLC_LINE_CFG_LOS_PIN_EN n) ∧
      s.on .SPLC_STAT_RAW_LOS n = true ∧ (s.rd .SPLC_LINE_CFG_LOS_THR n < power + s.rd .SPLC_LINE_CFG_LOS_HYST n ∨ viaPin = true)) ∧
    (∃ (s : State) (n : Line) (power : Nat) (pin : Bool) (viaPin : Bool), s.alive 10 = true ∧ s.splState n ≠ 0 ∧
      (s.splState n ≠ 2 ∨ (s.str n).adcFailed = false) ∧ viaPin = (pin && s.on .SPLC_LINE_CFG_LOS_PIN_EN n) ∧
      s.on .SPLC_STAT_RAW_LOS n = false ∧ power ≤ s.rd .SPLC_LINE_CFG_LOS_THR n ∧ viaPin = false) ∧
    (∃ (s : State) (n : Line), s.alive 10 = true ∧ s.splState n = 9 ∧ s.on .SPLC_STAT_WARM_PEND n = true ∧
      s.on .SPLC_CMD_FREEZE n = false) ∧
    (∃ (s : State) (n : Line), s.alive 10 = true ∧ s.splState n = 9 ∧ s.on .SPLC_STAT_WARM_PEND n = true ∧ s.on .SPLC_CMD_FREEZE n = true) ∧
    (∃ (s : State) (req : Requester) (n : Line), s.mayWrite req 10 1 (s.lineDom n) ∧ s.on .SPLC_CMD_FREEZE n = false ∧ s.splState n = 8) ∧
    (∃ (s : State) (req : Requester) (n : Line), s.mayWrite req 10 1 (s.lineDom n) ∧ s.on .SPLC_CMD_FREEZE n = false ∧ s.splState n = 7 ∧
      (s.spl n).thawed = true) ∧
    (∃ (s : State) (req : Requester) (n : Line), s.mayWrite req 10 1 (s.lineDom n) ∧ s.on .SPLC_CMD_FREEZE n = false ∧ 3 ≤ s.splState n ∧
      s.splState n ≤ 7 ∧ (s.splState n = 7 → (s.spl n).thawed = false)) ∧
    (∃ (s : State) (req : Requester) (n : Line), s.mayWrite req 10 1 (s.lineDom n) ∧ s.on .SPLC_CMD_FREEZE n = true ∧ s.splState n ≠ 9) ∧
    (∃ (s : State) (req : Requester) (n : Line), s.mayWrite req 10 1 (s.lineDom n) ∧ s.on .SPLC_CMD_FREEZE n = true ∧ s.splState n = 9 ∧
      (s.spl n).coldDue = true) ∧
    (∃ (s : State) (req : Requester) (n : Line), s.mayWrite req 10 1 (s.lineDom n) ∧ s.on .SPLC_CMD_FREEZE n = true ∧ s.splState n = 9 ∧
      (s.spl n).coldDue = false ∧ s.on .SPLC_STAT_RAW_LOS n = true) ∧
    (∃ (s : State) (req : Requester) (n : Line), s.mayWrite req 10 1 (s.lineDom n) ∧ s.on .SPLC_CMD_FREEZE n = true ∧ s.splState n = 9 ∧
      (s.spl n).coldDue = false ∧ s.on .SPLC_STAT_RAW_LOS n = false) ∧
    (∃ (s : State) (req : Requester) (n : Line), s.mayWrite req 10 1 (s.lineDom n) ∧ 3 ≤ s.splState n) ∧
    (∃ (s : State) (req : Requester) (n : Line), s.mayWrite req 10 1 (s.lineDom n) ∧ s.splState n < 3) ∧
    (∃ (s : State) (n : Line) (f : Slot) (majority : Bool), s.alive 10 = true ∧ s.tracking n = true ∧ (s.lit n).contains f.val = true ∧
      (s.spl n).restarting.get 0 f = 0 ∧ majority = false) ∧
    (∃ (s : State) (n : Line) (f : Slot) (majority : Bool), s.alive 10 = true ∧ s.tracking n = true ∧ (s.lit n).contains f.val = true ∧
      (s.spl n).restarting.get 0 f = 0 ∧ majority = true) := ⟨
    ⟨(up.wr .SPLC_STAT_STATE 3 0).setSpl 0 { foffOut := false }, 0, by decide +kernel⟩,
    ⟨(up.wr .SPLC_STAT_STATE 3 0).setSpl 0 { foffOut := true }, 0, by decide +kernel⟩,
    ⟨up.wr .SPLC_STAT_STATE 4 0, 0, by decide +kernel⟩,
    ⟨up.wr .SPLC_STAT_STATE 5 0, 0, by decide +kernel⟩,
    ⟨up.wr .SPLC_STAT_STATE 6 0, 0, by decide +kernel⟩,
    ⟨((up.wr .SPLC_STAT_STATE 7 0).wr .SPLC_CMD_FREEZE 0 0).wr .SPLC_SC_CFG_WIDTH 1 0 0, 0, 0, by decide +kernel⟩,
    ⟨(up.wr .SPLC_STAT_STATE 8 0).setSpl 0 { restarting := [(0, 6)] }, 0, 0, by decide +kernel⟩,
    ⟨(up.wr .SPLC_STAT_STATE 8 0).setSpl 0 { restarting := [(0, 7)] }, 0, 0, by decide +kernel⟩,
    ⟨(up.wr .SPLC_STAT_STATE 8 0).setSpl 0 { restarting := [(0, 6)] }, 0, 0, by decide +kernel⟩,
    ⟨(up.wr .SPLC_STAT_STATE 3 0).setSpl 0 { halted := false, warm := true }, 0, by decide +kernel⟩,
    ⟨((up.wr .SPLC_STAT_STATE 3 0).wr .SPLC_STAT_STATE 3 0).setSpl 0 { halted := false, warm := false }, 0, by decide +kernel⟩,
    ⟨((up.wr .SPLC_STAT_STATE 3 0).wr .SPLC_STAT_STATE 4 0).setSpl 0 { halted := false, warm := false }, 0, by decide +kernel⟩,
    ⟨((up.wr .SPLC_STAT_STATE 3 0).wr .SPLC_STAT_STATE 7 0).setSpl 0 { halted := false, warm := false }, 0, by decide +kernel⟩,
    ⟨(up.wr .SPLC_STAT_STATE 3 0).wr .SPLC_LINE_CFG_LOS_THR 100 0, 0, 255, false, false, by decide +kernel⟩,
    ⟨up.wr .SPLC_STAT_STATE 8 0, 0, 255, false,
      (((false : Bool)) && (up.wr .SPLC_STAT_STATE 8 0).on .SPLC_LINE_CFG_LOS_PIN_EN ((0 : Line))), by decide +kernel⟩,
    ⟨(up.wr .SPLC_STAT_STATE 7 0).setSpl 0 { thawed := true }, 0, 255, false,
      (((false : Bool)) && ((up.wr .SPLC_STAT_STATE 7 0).setSpl 0 { thawed := true }).on .SPLC_LINE_CFG_LOS_PIN_EN ((0 : Line))),
      by decide +kernel⟩,
    ⟨up.wr .SPLC_STAT_STATE 3 0, 0, 255, false,
      (((false : Bool)) && (up.wr .SPLC_STAT_STATE 3 0).on .SPLC_LINE_CFG_LOS_PIN_EN ((0 : Line))), by decide +kernel⟩,
    ⟨((up.wr .SPLC_STAT_RAW_LOS 1 0).wr .SPLC_STAT_STATE 1 0).wr .SPLC_LINE_CFG_LOS_THR 100 0, 0, 0, false, false, by decide +kernel⟩,
    ⟨((((up.wr .SPLC_STAT_RAW_LOS 1 0).wr .SPLC_STAT_STATE 9 0).wr .SPLC_LINE_CFG_LOS_THR 100 0).wr .SPLC_STAT_WARM_PEND 1 0).wr .SPLC_LINE_CFG_LOS_HYST 1 0,
      0, 0, false, false, by decide +kernel⟩,
    ⟨(up.wr .SPLC_STAT_RAW_LOS 1 0).wr .SPLC_STAT_STATE 1 0, 0, 255, false,
      (((false : Bool)) && ((up.wr .SPLC_STAT_RAW_LOS 1 0).wr .SPLC_STAT_STATE 1 0).on .SPLC_LINE_CFG_LOS_PIN_EN ((0 : Line))),
      by decide +kernel⟩,
    ⟨(up.wr .SPLC_STAT_STATE 1 0).wr .SPLC_STAT_RAW_LOS 0 0, 0, 0, false, false, by decide +kernel⟩,
    ⟨((up.wr .SPLC_STAT_STATE 9 0).wr .SPLC_STAT_WARM_PEND 1 0).wr .SPLC_CMD_FREEZE 0 0, 0, by decide +kernel⟩,
    ⟨((up.wr .SPLC_STAT_STATE 9 0).wr .SPLC_STAT_WARM_PEND 1 0).wr .SPLC_CMD_FREEZE 1 0, 0, by decide +kernel⟩,
    ⟨(up.wr .SPLC_CMD_FREEZE 0 0).wr .SPLC_STAT_STATE 8 0, .host 0, 0, by unfold State.mayWrite; decide +kernel⟩,
    ⟨((up.wr .SPLC_CMD_FREEZE 0 0).wr .SPLC_STAT_STATE 7 0).setSpl 0 { thawed := true }, .host 0, 0,
      by unfold State.mayWrite; decide +kernel⟩,
    ⟨(up.wr .SPLC_CMD_FREEZE 0 0).wr .SPLC_STAT_STATE 3 0, .host 0, 0, by unfold State.mayWrite; decide +kernel⟩,
    ⟨up.wr .SPLC_CMD_FREEZE 1 0, .host 0, 0, by unfold State.mayWrite; decide +kernel⟩,
    ⟨((up.wr .SPLC_CMD_FREEZE 1 0).wr .SPLC_STAT_STATE 9 0).setSpl 0 { coldDue := true }, .host 0, 0,
      by unfold State.mayWrite; decide +kernel⟩,
    ⟨(((up.wr .SPLC_CMD_FREEZE 1 0).wr .SPLC_STAT_STATE 9 0).wr .SPLC_STAT_RAW_LOS 1 0).setSpl 0 { coldDue := false }, .host 0, 0,
      by unfold State.mayWrite; decide +kernel⟩,
    ⟨(((up.wr .SPLC_CMD_FREEZE 1 0).wr .SPLC_STAT_STATE 9 0).wr .SPLC_STAT_RAW_LOS 0 0).setSpl 0 { coldDue := false }, .host 0, 0,
      by unfold State.mayWrite; decide +kernel⟩,
    ⟨up.wr .SPLC_STAT_STATE 3 0, .host 0, 0, by unfold State.mayWrite; decide +kernel⟩,
    ⟨up, .host 0, 0, by unfold State.mayWrite; decide +kernel⟩,
    ⟨(up.wr .SPLC_STAT_STATE 8 0).wr .SPLC_SC_CFG_WIDTH 1 0 0, 0, 0, false, by decide +kernel⟩,
    ⟨(up.wr .SPLC_STAT_STATE 8 0).wr .SPLC_SC_CFG_WIDTH 1 0 0, 0, 0, true, by decide +kernel⟩⟩

/-- ReceiveTablesAndEstimates. -/
theorem witness_ReceiveTablesAndEstimates :
    (∃ (s : State) (n : Line), s.alive 10 = true ∧ (s.spl n).armState = 1 ∧ (s.spl n).switchIn ≠ 0 ∧ s.on .SPLC_STAT_MF_LOCK n = true) ∧
    (∃ (s : State) (n : Line), s.alive 10 = true ∧ (s.spl n).armState = 1 ∧ (s.spl n).switchIn ≠ 0 ∧ s.on .SPLC_STAT_MF_LOCK n = false) ∧
    (∃ (s : State) (n : Line), s.alive 10 = true ∧ s.loads n = true ∧ (s.on .HTCH_STAT_OOF n = true ∨ s.on .HTCH_STAT_OOM n = true)) ∧
    (∃ (s : State) (req : Requester) (n : Line), s.mayWrite req 8 1 (s.lineDom n) ∧ s.rd .STRD_ADC_CAL_FG_STATE n ≠ 1 ∧ s.lineMode n ≠ 0 ∧
      s.tracking n = false) ∧
    (∃ (s : State) (req : Requester) (n : Line), s.mayWrite req 8 1 (s.lineDom n) ∧ s.rd .STRD_ADC_CAL_FG_STATE n ≠ 1 ∧
      (s.lineMode n = 0 ∨ s.tracking n = true)) ∧
    (∃ (s : State) (n : Line) (ok : Bool) (k : _), s.alive 8 = true ∧ s.rd .STRD_ADC_CAL_FG_STATE n = 1 ∧ ok = true ∧ k < 4) ∧
    (∃ (s : State) (n : Line) (ok : Bool), s.alive 8 = true ∧ s.rd .STRD_ADC_CAL_FG_STATE n = 1 ∧ ok = true ∧ s.splState n = 2) ∧
    (∃ (s : State) (n : Line) (ok : Bool), s.alive 8 = true ∧ s.rd .STRD_ADC_CAL_FG_STATE n = 1 ∧ ok = false ∧ s.splState n = 2 ∧
      s.lineMode n ≠ 2) ∧
    (∃ (s : State) (n : Line) (tr : Trib) (c : List Calib) (need : List Calib) (move : List Calib) (due : List Calib), s.alive 8 = true ∧
      s.lineMode n ≠ 0 ∧ s.on .STRD_ADC_CAL_BG_EN n = true ∧ need = calSum true ((s.str n).adcRest.get [] tr) c ∧
      move = calMove true need ∧ due = calSum true ((s.str n).adcDue.get [] tr) move ∧ calZero (calRest true need move) = false ∧
      calZero ((s.str n).adcRest.get [] tr) = true) ∧
    (∃ (s : State) (n : Line) (marker : Bool), s.alive 10 = true ∧ s.lineNative n = true ∧ s.lineMode n ≠ 2 ∧
      s.on .SPLC_STAT_MF_LOCK n = false ∧ marker = true ∧ 255 ∈ (s.spl n).seen) ∧
    (∃ (s : State) (n : Line) (marker : Bool), s.alive 10 = true ∧ s.lineNative n = true ∧ s.lineMode n ≠ 2 ∧
      s.on .SPLC_STAT_MF_LOCK n = true ∧ ((s.spl n).phase + 1) % 256 = 0 ∧ marker = false) ∧
    (∃ (s : State) (n : Line), s.alive 10 = true ∧ s.on .SPLC_STAT_MF_LOCK n = true ∧ 3 ≤ (s.spl n).missed) ∧
    (∃ (s : State) (n : Line) (f : Slot), s.alive 10 = true ∧ (s.lit n).contains f.val = true ∧ s.tracking n = true) ∧
    (∃ (s : State) (n : Line), s.alive 10 = true ∧ s.tracking n = false) ∧
    (∃ (s : State) (n : Line) (est : Estimate) (f : Slot) (x : Nat) (y : Nat) (c : Nat), s.alive 10 = true ∧ est = .snr f x y c ∧
      s.tracking n = true ∧ (s.lit n).contains f.val = true ∧ (s.spl n).restarting.get 0 f = 0 ∧ f.val ∉ (s.spl n).broken) ∧
    (∃ (s : State) (n : Line) (est : Estimate) (v : _), s.alive 10 = true ∧ est = .cd v ∧ s.tracking n = true) ∧
    (∃ (s : State) (n : Line) (est : Estimate) (v : _), s.alive 10 = true ∧ est = .foff v ∧ s.tracking n = true) ∧
    (∃ (s : State) (n : Line) (est : Estimate) (v : _) (guard : _), s.alive 10 = true ∧ est = .osnr v guard ∧ s.tracking n = true) ∧
    (∃ (s : State) (est : Estimate), s.alive 10 = true ∧ est = .overCount) ∧
    (∃ (s : State) (n : Line) (est : Estimate), s.alive 10 = true ∧ s.tracking n = false ∧ (∀ v, est ≠ .foff v) ∧ est ≠ .overCount) ∧
    (∃ (s : State) (n : Line) (e : Fin 512), s.alive 10 = true ∧ s.splState n ≠ 0 ∧ s.tracking n = true ∧
      s.rxCovers n (e.val / 16) = true) ∧
    (∃ (s : State) (n : Line) (e : Fin 512), s.alive 10 = true ∧ s.splState n ≠ 0 ∧
      (s.tracking n = false ∨ s.rxCovers n (e.val / 16) = false)) ∧
    (∃ (s : State) (n : Line), s.alive 10 = true ∧ s.tracking n = true) ∧
    (∃ (s : State) (n : Line), s.alive 12 = true ∧ (s.clt n).rxDue = true ∧ s.loads n = true) := ⟨
    ⟨(up.wr .SPLC_STAT_MF_LOCK 1 0).setSpl 0 { armState := 1, switchIn := 1 }, 0, by decide +kernel⟩,
    ⟨(up.wr .SPLC_STAT_MF_LOCK 0 0).setSpl 0 { armState := 1, switchIn := 1 }, 0, by decide +kernel⟩,
    ⟨(up.wr .TOP_MODE_STAT_L0_MODE 1).wr .HTCH_STAT_OOF 1 0, 0, by decide +kernel⟩,
    ⟨up.wr .TOP_MODE_STAT_L0_MODE 1, .host 0, 0, by unfold State.mayWrite; decide +kernel⟩,
    ⟨up, .host 0, 0, by unfold State.mayWrite; decide +kernel⟩,
    ⟨up.wr .STRD_ADC_CAL_FG_STATE 1 0, 0, true, 0, by decide +kernel⟩,
    ⟨(up.wr .STRD_ADC_CAL_FG_STATE 1 0).wr .SPLC_STAT_STATE 2 0, 0, true, by decide +kernel⟩,
    ⟨((up.wr .STRD_ADC_CAL_FG_STATE 1 0).wr .SPLC_STAT_STATE 2 0).wr .TOP_MODE_STAT_L0_MODE 1, 0, false, by decide +kernel⟩,
    ⟨(up.wr .TOP_MODE_STAT_L0_MODE 1).wr .STRD_ADC_CAL_BG_EN 1 0, 0, 0, List.replicate 8 { offset := 1000, gain := 1000, timing := 1000 },
      calSum true ((((up.wr .TOP_MODE_STAT_L0_MODE 1).wr .STRD_ADC_CAL_BG_EN 1 0).str ((0 : Line))).adcRest.get [] ((0 : Trib))) ((List.replicate 8 { offset := 1000, gain := 1000, timing := 1000 } : List Calib)),
      calMove true ((calSum true ((((up.wr .TOP_MODE_STAT_L0_MODE 1).wr .STRD_ADC_CAL_BG_EN 1 0).str ((0 : Line))).adcRest.get [] ((0 : Trib))) ((List.replicate 8 { offset := 1000, gain := 1000, timing := 1000 } : List Calib)) : List Calib)),
      calSum true ((((up.wr .TOP_MODE_STAT_L0_MODE 1).wr .STRD_ADC_CAL_BG_EN 1 0).str ((0 : Line))).adcDue.get [] ((0 : Trib))) ((calMove true ((calSum true ((((up.wr .TOP_MODE_STAT_L0_MODE 1).wr .STRD_ADC_CAL_BG_EN 1 0).str ((0 : Line))).adcRest.get [] ((0 : Trib))) ((List.replicate 8 { offset := 1000, gain := 1000, timing := 1000 } : List Calib)) : List Calib)) : List Calib)),
      by decide +kernel⟩,
    ⟨(((up.wr .TOP_MODE_STAT_L0_MODE 1).wr .TOP_MODE_STAT_L0_MODE 1).wr .SPLC_STAT_MF_LOCK 0 0).setSpl 0 { seen := [255] }, 0, true,
      by decide +kernel⟩,
    ⟨(((up.wr .TOP_MODE_STAT_L0_MODE 1).wr .TOP_MODE_STAT_L0_MODE 1).wr .SPLC_STAT_MF_LOCK 1 0).setSpl 0 { phase := 255 }, 0, false,
      by decide +kernel⟩,
    ⟨(up.wr .SPLC_STAT_MF_LOCK 1 0).setSpl 0 { missed := 3 }, 0, by decide +kernel⟩,
    ⟨(up.wr .SPLC_SC_CFG_WIDTH 1 0 0).wr .SPLC_STAT_STATE 8 0, 0, 0, by decide +kernel⟩,
    ⟨up, 0, by decide +kernel⟩,
    ⟨(up.wr .SPLC_STAT_STATE 8 0).wr .SPLC_SC_CFG_WIDTH 1 0 0, 0, .snr ((0 : Slot)) ((0 : Nat)) ((0 : Nat)) ((0 : Nat)), 0, 0, 0, 0,
      by decide +kernel⟩,
    ⟨up.wr .SPLC_STAT_STATE 8 0, 0, .cd (0), 0, by decide +kernel⟩,
    ⟨up.wr .SPLC_STAT_STATE 8 0, 0, .foff (0), 0, by decide +kernel⟩,
    ⟨up.wr .SPLC_STAT_STATE 8 0, 0, .osnr (0) (0), 0, 0, by decide +kernel⟩,
    ⟨up, .overCount, by decide +kernel⟩,
    ⟨up, 0, .cd 0, ⟨by decide +kernel, by decide +kernel, fun v => by simp, by simp⟩⟩,
    ⟨((up.wr .SPLC_STAT_STATE 1 0).wr .SPLC_STAT_STATE 8 0).wr .SPLC_SC_CFG_WIDTH 1 0 0, 0, 0, by decide +kernel⟩,
    ⟨up.wr .SPLC_STAT_STATE 1 0, 0, 0, by decide +kernel⟩,
    ⟨up.wr .SPLC_STAT_STATE 8 0, 0, by decide +kernel⟩,
    ⟨(up.wr .TOP_MODE_STAT_L0_MODE 1).setClt 0 { rxDue := true }, 0, by decide +kernel⟩⟩

/-- HubTimeMapsAndProfiles. -/
theorem witness_HubTimeMapsAndProfiles :
    (∃ (s : State) (n : Line), s.alive 11 = true ∧ s.lineMode n = 2) ∧
    (∃ (s : State) (n : Line), s.alive 11 = true ∧ s.lineMode n ≠ 2) ∧
    (∃ (s : State) (n : Line), s.alive 11 = true ∧ s.lineMode n = 2 ∧ (s.bgt n).mapDue = true) ∧
    (∃ (s : State) (n : Line), s.alive 11 = true ∧ s.on .BGHT_STAT_CTRL_OK n = true) ∧
    (∃ (s : State) (n : Line), s.alive 11 = true ∧ s.on .BGHT_STAT_CTRL_OK n = false) ∧
    (∃ (s : State) (n : Line) (i : _), s.alive 11 = true ∧ s.lineMode n = 2 ∧ i ∈ s.leavesOn n ∧ i < 256) ∧
    (∃ (s : State) (n : Line), s.alive 11 = true ∧ s.lineMode n = 2 ∧ s.on .BGHT_DISC_CFG_DISC_ON n = false) ∧
    (∃ (s : State) (n : Line) (i : _), s.alive 11 = true ∧ s.lineMode n = 2 ∧ i ∈ s.leavesOn n ∧ s.on .BGHT_DISC_CFG_DISC_ON n = true ∧
      s.leafState n i = 0) ∧
    (∃ (s : State) (n : Line) (i : Leaf), s.alive 11 = true ∧ 8000 * s.rd .BGHT_DISC_CFG_STALE_S n < (s.leaf n i).heard ∧
      s.leafState n i = 2) ∧
    (∃ (s : State) (n : Line) (i : Leaf), s.alive 11 = true ∧ (s.leaf n i).heard = 8000 * s.rd .BGHT_DISC_CFG_STALE_S n) ∧
    (∃ (s : State) (n : Line) (i : Leaf), s.alive 11 = true ∧ (s.leaf n i).heard < 8000 * s.rd .BGHT_DISC_CFG_STALE_S n) ∧
    (∃ (s : State) (n : Line) (i : Leaf), s.alive 11 = true ∧ s.lineMode n = 2 ∧ s.leafState n i = 2 ∧ (s.leaf n i).sum.2 = 0) ∧
    (∃ (s : State) (n : Line) (f : Slot) (i : _), s.alive 11 = true ∧ s.lineMode n = 2 ∧ s.rd .BRAD_SC_CFG_WIDTH n f ≠ 0 ∧
      f.val ≠ s.rd .BGHT_LINE_CFG_CTRL_SLOT n ∧ i ∈ s.leavesOn n ∧ s.rd .BGHT_LEAF_DN_SC n i = f) ∧
    (∃ (s : State) (n : Line) (f : Slot), s.alive 11 = true ∧ s.lineMode n = 2 ∧ s.rd .BRAD_SC_CFG_WIDTH n f ≠ 0 ∧
      f.val ≠ s.rd .BGHT_LINE_CFG_CTRL_SLOT n ∧ s.dnAverage n f = none) ∧
    (∃ (s : State) (n : Line) (f : Slot) (k : Nat) (base : Nat) (ent : Nat) (from_ : Nat), s.alive 11 = true ∧
      ((s.bgt n).dnDue.find? fun e => e.1 == f.val) = some (k, base, ent, from_) ∧ from_ ≤ (s.bgt n).clock ∧
      f.val ≠ s.rd .BGHT_LINE_CFG_CTRL_SLOT n) ∧
    (∃ (s : State) (n : Line) (f : Slot) (k : Nat) (base : Nat) (ent : Nat) (from_ : Nat), s.alive 11 = true ∧
      ((s.bgt n).dnDue.find? fun e => e.1 == f.val) = some (k, base, ent, from_) ∧ from_ ≤ (s.bgt n).clock ∧
      f.val = s.rd .BGHT_LINE_CFG_CTRL_SLOT n) ∧
    (∃ (s : State) (n : Line) (f : Slot) (k : Nat) (base : Nat) (ent : Nat) (from_ : Nat), s.alive 11 = true ∧
      ((s.bgt n).dnDue.find? fun e => e.1 == f.val) = some (k, base, ent, from_) ∧ (s.bgt n).clock < from_) := ⟨
    ⟨up.wr .TOP_MODE_STAT_L0_MODE 2, 0, by decide +kernel⟩,
    ⟨up.wr .TOP_MODE_STAT_L0_MODE 1, 0, by decide +kernel⟩,
    ⟨(up.wr .TOP_MODE_STAT_L0_MODE 2).setBgt 0 { mapDue := true }, 0, by decide +kernel⟩,
    ⟨up.wr .BGHT_STAT_CTRL_OK 1 0, 0, by decide +kernel⟩,
    ⟨up.wr .BGHT_STAT_CTRL_OK 0 0, 0, by decide +kernel⟩,
    ⟨(up.wr .TOP_MODE_STAT_L0_MODE 2).wr .BGHT_LEAF_EN 1 0 0, 0, 0, by decide +kernel⟩,
    ⟨(up.wr .TOP_MODE_STAT_L0_MODE 2).wr .BGHT_DISC_CFG_DISC_ON 0 0, 0, by decide +kernel⟩,
    ⟨(((up.wr .TOP_MODE_STAT_L0_MODE 2).wr .BGHT_DISC_CFG_DISC_ON 1 0).wr .BGHT_LEAF_ST_STATE 0 0 0).wr .BGHT_LEAF_EN 1 0 0, 0, 0,
      by decide +kernel⟩,
    ⟨(up.wr .BGHT_LEAF_ST_STATE 2 0 0).setLeaf 0 0 { heard := 100000000 }, 0, 0, by decide +kernel⟩,
    ⟨up.setLeaf 0 0 { heard := 8000 * up.rd .BGHT_DISC_CFG_STALE_S 0 }, 0, 0, by decide +kernel⟩,
    ⟨up, 0, 0, by decide +kernel⟩,
    ⟨(up.wr .TOP_MODE_STAT_L0_MODE 2).wr .BGHT_LEAF_ST_STATE 2 0 0, 0, 0, by decide +kernel⟩,
    ⟨(((up.wr .TOP_MODE_STAT_L0_MODE 2).wr .BRAD_SC_CFG_WIDTH 1 0 1).wr .BGHT_LEAF_EN 1 0 0).wr .BGHT_LEAF_DN_SC 1 0 0, 0, 1, 0,
      by decide +kernel⟩,
    ⟨((up.wr .TOP_MODE_STAT_L0_MODE 2).wr .BRAD_SC_CFG_WIDTH 1 0 5), 0, 5, by decide +kernel⟩,
    ⟨up.setBgt 0 { dnDue := [(1, 0, 0, 0)] }, 0, 1, 1, 0, 0, 0, by decide +kernel⟩,
    ⟨up.setBgt 0 { dnDue := [(0, 0, 0, 0)] }, 0, 0, 0, 0, 0, 0, by decide +kernel⟩,
    ⟨up.setBgt 0 { dnDue := [(1, 0, 0, 5)] }, 0, 1, 1, 0, 0, 5, by decide +kernel⟩⟩

/-- BurstAcquisition. -/
theorem witness_BurstAcquisition :
    (∃ (s : State) (n : Line) (f : Slot) (i : Leaf) (g : BurstGrant), s.alive 11 = true ∧ s.lineMode n = 2 ∧
      s.rd .BGHT_UP_CFG_WIDTH n f ≠ 0 ∧ ((s.bgt n).grants.find? fun g => g.leaf == i.val && g.sub == f.val) = some g) ∧
    (∃ (s : State) (n : Line) (f : Slot) (k : _) (from_ : _) (to_ : _), s.alive 11 = true ∧ s.lineMode n = 2 ∧
      s.rd .BGHT_UP_CFG_WIDTH n f ≠ 0 ∧ ((s.bgt n).reserved.find? fun r => r.1 == f.val + 32) = some (k, from_, to_)) ∧
    (∃ (s : State) (n : Line) (f : Slot) (metric : Nat) (w : Window), s.alive 11 = true ∧ (s.up n f).window = some w ∧ w.leaf < 256 ∧
      metric ≤ s.detThr n w.kind) ∧
    (∃ (s : State) (n : Line) (f : Slot) (corrB : Bool) (metric : Nat) (symbol : Nat) (w : Window), s.alive 11 = true ∧
      (s.up n f).window = some w ∧ w.leaf < 256 ∧ s.detThr n w.kind < metric ∧ (s.up n f).lock = 0 ∨ ((s.up n f).lock = 1 ∧
      corrB ≠ (s.up n f).corrB ∧ (s.up n f).metric + 2 * s.rd .BGHT_ACQ_CFG_RELOCK_DB n ≤ metric) ∧
      (if w.long then 416 else 160) < symbol ∧ w.kind ≠ 2 ∧ s.on .BGHT_LEAF_EN n w.leaf = true) ∧
    (∃ (s : State) (n : Line) (f : Slot) (corrB : Bool) (metric : Nat) (symbol : Nat) (w : Window), s.alive 11 = true ∧
      (s.up n f).window = some w ∧ w.leaf < 256 ∧ s.detThr n w.kind < metric ∧ (s.up n f).lock = 0 ∨ ((s.up n f).lock = 1 ∧
      corrB ≠ (s.up n f).corrB ∧ (s.up n f).metric + 2 * s.rd .BGHT_ACQ_CFG_RELOCK_DB n ≤ metric) ∧
      symbol ≤ (if w.long then 416 else 160)) ∧
    (∃ (s : State) (n : Line) (f : Slot) (w : Window), s.alive 11 = true ∧ (s.up n f).window = some w ∧ w.leaf < 256 ∧
      (s.up n f).lock = 2) ∧
    (∃ (s : State) (n : Line) (f : Slot), s.alive 11 = true ∧ (s.up n f).lock = 1) ∧
    (∃ (s : State) (n : Line) (f : Slot) (soft : List Int) (h : BitVec 128), s.alive 11 = true ∧ (s.up n f).lock = 1 ∧
      (s.up n f).marker = true ∧ h = headerOf (viterbi soft) ∧ hdrOk h = false) ∧
    (∃ (s : State) (n : Line) (f : Slot) (soft : List Int) (h : BitVec 128), s.alive 11 = true ∧ (s.up n f).lock = 1 ∧
      (s.up n f).marker = true ∧ h = headerOf (viterbi soft)) ∧
    (∃ (s : State) (n : Line) (f : Slot) (power : Bool) (peak : Bool) (b : Burst), s.alive 11 = true ∧ (s.up n f).lock = 2 ∧
      (s.up n f).burst = some b ∧ b.leaf < 256 ∧ power = true ∧ peak = true ∧ b.kind = 0) ∧
    (∃ (s : State) (n : Line) (f : Slot) (power : Bool) (peak : Bool) (b : Burst), s.alive 11 = true ∧ (s.up n f).lock = 2 ∧
      (s.up n f).burst = some b ∧ b.leaf < 256 ∧ power = true ∧ peak = true ∧ s.on .BGHT_LEAF_EN n b.leaf = true ∧ b.kind = 0 ∧
      (s.leafState n b.leaf = 2 ∨ s.leafState n b.leaf = 3)) ∧
    (∃ (s : State) (n : Line) (f : Slot) (power : Bool) (peak : Bool) (b : Burst), s.alive 11 = true ∧ (s.up n f).lock = 2 ∧
      (s.up n f).burst = some b ∧ b.leaf < 256 ∧ power ≠ peak ∧ s.on .BGHT_LEAF_EN n b.leaf = true) ∧
    (∃ (s : State) (n : Line) (f : Slot) (power : Bool) (peak : Bool) (b : Burst), s.alive 11 = true ∧ (s.up n f).lock = 2 ∧
      (s.up n f).burst = some b ∧ b.leaf < 256 ∧ power = false ∧ peak = false) ∧
    (∃ (s : State) (n : Line) (f : Slot) (b : Burst), s.alive 11 = true ∧ (s.up n f).lock = 2 ∧ (s.up n f).burst = some b ∧ b.leaf < 256 ∧
      b.kind = 0) ∧
    (∃ (s : State) (n : Line) (f : Slot) (foff : BitVec 16) (b : Burst), s.alive 11 = true ∧ (s.up n f).lock = 2 ∧
      (s.up n f).burst = some b ∧ b.leaf < 256 ∧ s.on .BGHT_LEAF_EN n b.leaf = true ∧ (s.up n f).offset - 4000 ≤ foff.toInt ∧
      foff.toInt ≤ (s.up n f).offset + 4000) ∧
    (∃ (s : State) (n : Line) (f : Slot) (w : Window), s.alive 11 = true ∧ (s.up n f).window = some w ∧ w.leaf < 256 ∧ w.kind ≠ 2 ∧
      w.confirmed = true) ∧
    (∃ (s : State) (n : Line) (f : Slot) (w : Window), s.alive 11 = true ∧ (s.up n f).window = some w ∧ w.leaf < 256 ∧ w.kind ≠ 2 ∧
      w.confirmed = false ∧ s.on .BGHT_LEAF_EN n w.leaf = true) ∧
    (∃ (s : State) (n : Line) (f : Slot) (w : Window), s.alive 11 = true ∧ (s.up n f).window = some w ∧ w.leaf < 256 ∧ w.kind = 0 ∧
      w.confirmed = false ∧ s.on .BGHT_LEAF_EN n w.leaf = true ∧ (s.leafState n w.leaf = 2 ∨ s.leafState n w.leaf = 3) ∧
      7 ≤ s.rd .BGHT_LEAF_ST_MISSED n w.leaf) ∧
    (∃ (s : State) (n : Line) (f : Slot) (w : Window), s.alive 11 = true ∧ (s.up n f).window = some w ∧ w.leaf < 256 ∧ w.kind = 0 ∧
      w.confirmed = false ∧ s.on .BGHT_LEAF_EN n w.leaf = true ∧ s.rd .BGHT_LEAF_ST_MISSED n w.leaf < 7) ∧
    (∃ (s : State) (n : Line) (f : Slot) (w : Window), s.alive 11 = true ∧ (s.up n f).window = some w ∧ w.leaf < 256 ∧ w.kind = 1 ∧
      w.confirmed = false ∧ s.leafState n w.leaf = 1 ∧ s.rd .BGHT_LEAF_ST_MISSED n w.leaf < 7 ∧ 2 ≤ (s.leaf n w.leaf).fails.get 0 w.cycle) ∧
    (∃ (s : State) (n : Line) (i : Leaf), s.alive 12 = true ∧
      (s.lineMode n ≠ 2 ∨ (s.bgt n).received.find? (fun b => b.leaf == i.val) = none)) ∧
    (∃ (s : State) (n : Line) (i : Leaf) (b : Burst), s.alive 12 = true ∧ s.lineMode n = 2 ∧
      (s.bgt n).received.find? (fun b => b.leaf == i.val) = some b ∧ b.prof ≠ (s.leaf n i).prof.id ∧ b.prof ≠ (s.leaf n i).prev.id ∧
      (s.leaf n i).profDue = none ∧ s.on .BGHT_LEAF_EN n i = true) ∧
    (∃ (s : State) (n : Line) (i : Leaf) (b : Burst), s.alive 12 = true ∧ s.lineMode n = 2 ∧
      (s.bgt n).received.find? (fun b => b.leaf == i.val) = some b ∧ (b.prof = (s.leaf n i).prof.id ∨ b.prof = (s.leaf n i).prev.id) ∧
      3 ≤ dataSymbols (payloadSymbols (s.upWidth n b.sub) b.len b.long) / 576) := ⟨
    ⟨((up.wr .TOP_MODE_STAT_L0_MODE 2).wr .BGHT_UP_CFG_WIDTH 1 0 0).setBgt 0 { grants := [⟨0, 0, 0, 0, 0, 0, false, false, 0⟩] }, 0, 0, 0,
      ⟨0, 0, 0, 0, 0, 0, false, false, 0⟩, by decide +kernel⟩,
    ⟨((up.wr .TOP_MODE_STAT_L0_MODE 2).wr .BGHT_UP_CFG_WIDTH 1 0 0).setBgt 0 { reserved := [(32, 0, 0)] }, 0, 0, 32, 0, 0,
      by decide +kernel⟩,
    ⟨(up).setUp 0 0 { window := some ⟨0, 0, 0, 0, 0, false, 0, false⟩ }, 0, 0, 0, ⟨0, 0, 0, 0, 0, false, 0, false⟩, by decide +kernel⟩,
    ⟨(up.wr .BGHT_LEAF_EN 1 0 0).setUp 0 0 { window := some ⟨0, 0, 0, 0, 0, false, 0, false⟩ }, 0, 0, false, 1000, 161, ⟨0, 0, 0, 0, 0,
      false, 0, false⟩, by decide +kernel⟩,
    ⟨(up.wr .BGHT_LEAF_EN 1 0 0).setUp 0 0 { window := some ⟨0, 0, 0, 0, 0, false, 0, false⟩ }, 0, 0, false, 1000, 160, ⟨0, 0, 0, 0, 0,
      false, 0, false⟩, by decide +kernel⟩,
    ⟨up.setUp 0 0 { window := some (⟨0, 0, 0, 0, 0, false, 0, false⟩), lock := 2 }, 0, 0, ⟨0, 0, 0, 0, 0, false, 0, false⟩,
      by decide +kernel⟩,
    ⟨up.setUp 0 0 { lock := 1 }, 0, 0, by decide +kernel⟩,
    ⟨up.setUp 0 0 { lock := 1, marker := true }, 0, 0, [], headerOf (viterbi (([] : List Int))), by decide +kernel⟩,
    ⟨up.setUp 0 0 { lock := 1, marker := true }, 0, 0, [], headerOf (viterbi (([] : List Int))), by decide +kernel⟩,
    ⟨up.setUp 0 0 { lock := 2, burst := some ⟨0, 0, 0, 0, 0, false, 0, none⟩ }, 0, 0, true, true, ⟨0, 0, 0, 0, 0, false, 0, none⟩,
      by decide +kernel⟩,
    ⟨((up.wr .BGHT_LEAF_EN 1 0 0).wr .BGHT_LEAF_ST_STATE 2 0 0).setUp 0 0 { lock := 2, burst := some ⟨0, 0, 0, 0, 0, false, 0, none⟩ }, 0,
      0, true, true, ⟨0, 0, 0, 0, 0, false, 0, none⟩, by decide +kernel⟩,
    ⟨(up.wr .BGHT_LEAF_EN 1 0 0).setUp 0 0 { lock := 2, burst := some ⟨0, 0, 0, 0, 0, false, 0, none⟩ }, 0, 0, true, false, ⟨0, 0, 0, 0,
      0, false, 0, none⟩, by decide +kernel⟩,
    ⟨up.setUp 0 0 { lock := 2, burst := some ⟨0, 0, 0, 0, 0, false, 0, none⟩ }, 0, 0, false, false, ⟨0, 0, 0, 0, 0, false, 0, none⟩,
      by decide +kernel⟩,
    ⟨up.setUp 0 0 { lock := 2, burst := some ⟨0, 0, 0, 0, 0, false, 0, none⟩ }, 0, 0, ⟨0, 0, 0, 0, 0, false, 0, none⟩, by decide +kernel⟩,
    ⟨(up.wr .BGHT_LEAF_EN 1 0 0).setUp 0 0 { lock := 2, burst := some ⟨0, 0, 0, 0, 0, false, 0, none⟩ }, 0, 0, 5, ⟨0, 0, 0, 0, 0, false,
      0, none⟩, by decide +kernel⟩,
    ⟨up.setUp 0 0 { window := some ⟨0, 0, 0, 0, 0, false, 0, true⟩ }, 0, 0, ⟨0, 0, 0, 0, 0, false, 0, true⟩, by decide +kernel⟩,
    ⟨((up.wr .BGHT_LEAF_EN 1 0 0)).setUp 0 0 { window := some ⟨1, 0, 0, 0, 0, false, 0, false⟩ }, 0, 0, ⟨1, 0, 0, 0, 0, false, 0, false⟩,
      by decide +kernel⟩,
    ⟨(((up.wr .BGHT_LEAF_EN 1 0 0).wr .BGHT_LEAF_ST_STATE 2 0 0).wr .BGHT_LEAF_ST_MISSED 7 0 0).setUp 0 0 { window := some ⟨0, 0, 0, 0, 0, false, 0, false⟩ },
      0, 0, ⟨0, 0, 0, 0, 0, false, 0, false⟩, by decide +kernel⟩,
    ⟨(((up.wr .BGHT_LEAF_EN 1 0 0).wr .BGHT_LEAF_ST_STATE 2 0 0).wr .BGHT_LEAF_ST_MISSED 6 0 0).setUp 0 0 { window := some ⟨0, 0, 0, 0, 0, false, 0, false⟩ },
      0, 0, ⟨0, 0, 0, 0, 0, false, 0, false⟩, by decide +kernel⟩,
    ⟨((((up.wr .BGHT_LEAF_EN 1 0 0).wr .BGHT_LEAF_ST_STATE 1 0 0)).setUp 0 0 { window := some ⟨1, 0, 0, 0, 0, false, 0, false⟩ }).setLeaf 0 0 { fails := [(0, 2)] },
      0, 0, ⟨1, 0, 0, 0, 0, false, 0, false⟩, by decide +kernel⟩,
    ⟨up, 0, 0, by decide +kernel⟩,
    ⟨((up.wr .TOP_MODE_STAT_L0_MODE 2).wr .BGHT_LEAF_EN 1 0 0).setBgt 0 { received := [⟨0, 0, 0, 0, 4, false, 5, none⟩] }, 0, 0, ⟨0, 0, 0,
      0, 4, false, 5, none⟩, by decide +kernel⟩,
    ⟨((up.wr .TOP_MODE_STAT_L0_MODE 2).wr .BGHT_UP_CFG_WIDTH 1 0 0).setBgt 0 { received := [⟨0, 0, 0, 0, 400, false, 0, none⟩] }, 0, 0,
      ⟨0, 0, 0, 0, 400, false, 0, none⟩, by decide +kernel⟩⟩

set_option maxRecDepth 2000 in
/-- DecoderFigures. -/
theorem witness_DecoderFigures :
    (∃ (s : State) (n : Line) (f : Slot) (g : Nat), s.alive 12 = true ∧ g = s.rd .CLET_SC_STAT_GRANT n f ∧
      ((s.decSlots n).contains f.val = false ∨ s.lineMode n = 2)) ∧
    (∃ (s : State) (n : Line) (f : Slot) (g : Nat), s.alive 12 = true ∧ g = s.rd .CLET_SC_STAT_GRANT n f ∧
      (s.decSlots n).contains f.val = true ∧ s.lineMode n ≠ 2 ∧ s.lineOzr n = false ∧ s.on .CLET_LINE_CFG_EARLY_EN n = false) ∧
    (∃ (s : State) (n : Line) (f : Slot) (g : Nat), s.alive 12 = true ∧ g = s.rd .CLET_SC_STAT_GRANT n f ∧
      (s.decSlots n).contains f.val = true ∧ s.lineMode n ≠ 2 ∧ s.lineOzr n = true) ∧
    (∃ (s : State) (n : Line), s.alive 12 = true ∧ s.decSlots n = []) ∧
    (∃ (s : State) (n : Line), s.alive 12 = true ∧ s.decSlots n ≠ []) ∧
    (∃ (s : State) (n : Line) (f : _) (v : _) (m : _), s.alive 12 = true ∧ f ∈ s.decSlots n ∧ v = s.ngmiOf n f ∧
      m = s.marginOf n f v (s.iterNow n f) ∧ (s.clt n).ngmi.get [] f = []) ∧
    (∃ (s : State), s.alive 12 = true) ∧
    (∃ (s : State) (n : Line) (f : Slot), s.alive 12 = true ∧ (s.decSlots n).contains f.val = true ∧
      s.rd .CLET_SC_STAT_GRANT n f < s.rd .CLET_SC_STAT_DEMAND n f) ∧
    (∃ (s : State) (n : Line) (f : Slot), s.alive 12 = true ∧ (s.decSlots n).contains f.val = true ∧
      s.rd .CLET_SC_STAT_DEMAND n f ≤ s.rd .CLET_SC_STAT_GRANT n f) ∧
    (∃ (s : State) (n : Line), s.alive 12 = true ∧ s.lineMode n = 0) ∧
    (∃ (s : State) (n : Line), s.alive 12 = true ∧ s.lineNative n = true ∧ nextWord (s.clt n).rxCoded = none) ∧
    (∃ (s : State) (n : Line) (w : List RxBit) (rest : List (List RxBit)) (v : _) (c : _), s.alive 12 = true ∧ s.lineNative n = true ∧
      nextWord (s.clt n).rxCoded = some (w, rest) ∧ lashingCorrect (w.map fun b => b.1) = some (v, c)) ∧
    (∃ (s : State) (n : Line) (w : List RxBit) (rest : List (List RxBit)), s.alive 12 = true ∧ s.lineNative n = true ∧
      nextWord (s.clt n).rxCoded = some (w, rest) ∧ lashingCorrect (w.map fun b => b.1) = none ∧ (s.clt n).uncSaid = false) ∧
    (∃ (s : State) (n : Line), s.alive 12 = true ∧ s.lineMode n ≠ 0 ∧ s.on .CLET_STAT_FEC_SD n = false ∧ (s.clt n).below = true ∧
      s.sdCfg n .CLET_SD_CFG_SD_SECS ≤ (s.clt n).lowSeconds + 1) ∧
    (∃ (s : State) (n : Line), s.alive 12 = true ∧ s.lineMode n ≠ 0 ∧ s.on .CLET_STAT_FEC_SD n = false ∧ (s.clt n).below = true ∧
      (s.clt n).lowSeconds + 1 < s.sdCfg n .CLET_SD_CFG_SD_SECS) ∧
    (∃ (s : State) (n : Line), s.alive 12 = true ∧ s.lineMode n ≠ 0 ∧ s.on .CLET_STAT_FEC_SD n = true ∧ (s.clt n).unclear = false ∧
      s.sdCfg n .CLET_SD_CFG_SD_SECS ≤ (s.clt n).highSeconds + 1) := ⟨
    ⟨up, 0, 0, (up).rd .CLET_SC_STAT_GRANT ((0 : Line)) ((0 : Slot)), by decide +kernel⟩,
    ⟨(((up.wr .TOP_MODE_STAT_L0_MODE 1).wr .SPLC_SC_CFG_WIDTH 1 0 0).wr .TOP_MODE_STAT_L0_MODE 1).wr .CLET_LINE_CFG_EARLY_EN 0 0, 0, 0,
      ((((up.wr .TOP_MODE_STAT_L0_MODE 1).wr .SPLC_SC_CFG_WIDTH 1 0 0).wr .TOP_MODE_STAT_L0_MODE 1).wr .CLET_LINE_CFG_EARLY_EN 0 0).rd .CLET_SC_STAT_GRANT ((0 : Line)) ((0 : Slot)),
      by decide +kernel⟩,
    ⟨((up.wr .TOP_MODE_STAT_L0_MODE 1).wr .TOP_MODE_STAT_L0_FRAME 1).wr .CLET_SC_STAT_GRANT 1 0 0, 0, 0,
      (((up.wr .TOP_MODE_STAT_L0_MODE 1).wr .TOP_MODE_STAT_L0_FRAME 1).wr .CLET_SC_STAT_GRANT 1 0 0).rd .CLET_SC_STAT_GRANT ((0 : Line)) ((0 : Slot)),
      by decide +kernel⟩,
    ⟨up, 0, by decide +kernel⟩,
    ⟨(up.wr .TOP_MODE_STAT_L0_MODE 1).wr .SPLC_SC_CFG_WIDTH 1 0 0, 0, by decide +kernel⟩,
    ⟨(up.wr .TOP_MODE_STAT_L0_MODE 1).wr .SPLC_SC_CFG_WIDTH 1 0 0, 0, 0,
      ((up.wr .TOP_MODE_STAT_L0_MODE 1).wr .SPLC_SC_CFG_WIDTH 1 0 0).ngmiOf ((0 : Line)) (0),
      ((up.wr .TOP_MODE_STAT_L0_MODE 1).wr .SPLC_SC_CFG_WIDTH 1 0 0).marginOf ((0 : Line)) (0) (((up.wr .TOP_MODE_STAT_L0_MODE 1).wr .SPLC_SC_CFG_WIDTH 1 0 0).ngmiOf ((0 : Line)) (0)) (((up.wr .TOP_MODE_STAT_L0_MODE 1).wr .SPLC_SC_CFG_WIDTH 1 0 0).iterNow ((0 : Line)) (0)),
      by decide +kernel⟩,
    ⟨up, by decide +kernel⟩,
    ⟨((up.wr .TOP_MODE_STAT_L0_MODE 1).wr .SPLC_SC_CFG_WIDTH 1 0 0).wr .CLET_SC_STAT_DEMAND 1 0 0, 0, 0, by decide +kernel⟩,
    ⟨(up.wr .TOP_MODE_STAT_L0_MODE 1).wr .SPLC_SC_CFG_WIDTH 1 0 0, 0, 0, by decide +kernel⟩,
    ⟨up.wr .TOP_MODE_STAT_L0_MODE 0, 0, by decide +kernel⟩,
    ⟨up.wr .TOP_MODE_STAT_L0_MODE 1, 0, by decide +kernel⟩,
    ⟨{ up.wr .TOP_MODE_STAT_L0_MODE 1 with cleat := [(0, { rxCoded := [List.replicate 61 (false, false), []] })] }, 0,
      List.replicate 61 (false, false), [[]], List.replicate 61 false, 0, by decide +kernel⟩,
    ⟨{ up.wr .TOP_MODE_STAT_L0_MODE 1 with cleat := [(0, { rxCoded := [List.replicate 7 (true, false) ++ List.replicate 54 (false, false), []] })] },
      0, List.replicate 7 (true, false) ++ List.replicate 54 (false, false), [[]], by decide +kernel⟩,
    ⟨((up.wr .TOP_MODE_STAT_L0_MODE 1).wr .CLET_STAT_FEC_SD 0 0).setClt 0 { below := true, lowSeconds := 20 }, 0, by decide +kernel⟩,
    ⟨((up.wr .TOP_MODE_STAT_L0_MODE 1).wr .CLET_STAT_FEC_SD 0 0).setClt 0 { below := true }, 0, by decide +kernel⟩,
    ⟨((up.wr .TOP_MODE_STAT_L0_MODE 1).wr .CLET_STAT_FEC_SD 1 0).setClt 0 { unclear := false, highSeconds := 20 }, 0, by decide +kernel⟩⟩

/-- KeyCommands. -/
theorem witness_KeyCommands :
    (∃ (s : State) (h : Nat) (c : Cmd) (rx : Bool) (r : _), s.ready 14 0x0101 h c ∧ c.par 16 1 = b2n rx ∧ c.ind.length = 88 ∧
      s.openBlob c.kc 1 (b2n rx) c.ind = .inl r) ∧
    (∃ (s : State) (h : Nat) (c : Cmd) (rx : Bool), s.ready 14 0x0101 h c ∧ c.par 16 1 = b2n rx ∧ c.ind.length = 88) ∧
    (∃ (s : State) (h : Nat) (c : Cmd) (rx : Bool), s.ready 14 0x0102 h c ∧ c.par 16 1 = b2n rx ∧ (s.dirOf c.kc rx).staged = none) ∧
    (∃ (s : State) (h : Nat) (c : Cmd) (rx : Bool), s.ready 14 0x0102 h c ∧ c.par 16 1 = b2n rx ∧ (s.dirOf c.kc rx).staged.isSome = true ∧
      (s.dirRuns c.kc rx && s.pointLate c.kc rx c.point) = true) ∧
    (∃ (s : State) (h : Nat) (c : Cmd) (rx : Bool), s.ready 14 0x0102 h c ∧ c.par 16 1 = b2n rx ∧ (s.dirOf c.kc rx).staged.isSome = true ∧
      (s.dirRuns c.kc rx && s.pointLate c.kc rx c.point) = false) ∧
    (∃ (s : State) (h : Nat) (c : Cmd) (rx : Bool), s.ready 14 0x0103 h c ∧ c.par 16 1 ≤ 2 ∧ c.par 17 1 ≤ 3 ∧ c.par 16 1 ≠ 2 ∧
      c.par 16 1 ≠ b2n rx) ∧
    (∃ (s : State) (h : Nat) (c : Cmd) (rx : Bool) (w : Bool × Bool), s.ready 14 0x0103 h c ∧ c.par 16 1 ≤ 2 ∧ c.par 17 1 ≤ 3 ∧
      (c.par 16 1 = 2 ∨ c.par 16 1 = b2n rx) ∧ w = s.slotsNamed c.kc rx (c.par 17 1) ∧ w.1 = true ∧ rx = true) ∧
    (∃ (s : State) (h : Nat) (c : Cmd) (rx : Bool) (w : Bool × Bool), s.ready 14 0x0103 h c ∧ c.par 16 1 ≤ 2 ∧ c.par 17 1 ≤ 3 ∧
      (c.par 16 1 = 2 ∨ c.par 16 1 = b2n rx) ∧ w = s.slotsNamed c.kc rx (c.par 17 1) ∧ w.1 = true ∧ rx = false) ∧
    (∃ (s : State) (h : Nat) (c : Cmd), s.ready 14 0x0104 h c) ∧
    (∃ (s : State) (h : Nat) (c : Cmd), s.ready 14 0x0104 h c ∧ s.rd .SEIZ_KC_ST_RX_STATE c.kc = 3) ∧
    (∃ (s : State) (h : Nat) (c : Cmd), s.ready 14 0x0104 h c ∧ s.rd .SEIZ_KC_ST_RX_STATE c.kc ≠ 3) ∧
    (∃ (s : State) (h : Nat) (c : Cmd), s.ready 14 0x0105 h c) ∧
    (∃ (s : State) (h : Nat) (c : Cmd) (r : _), s.ready 14 0x0106 h c ∧ c.ind.length = 88 ∧ s.openBlob c.kc 2 2 c.ind = .inl r) ∧
    (∃ (s : State) (h : Nat) (c : Cmd), s.ready 14 0x0106 h c ∧ c.ind.length = 88) := ⟨
    ⟨given up (cmdFor 0x0101 0 [0] (List.replicate 88 0)), 0, cmdFor 0x0101 0 [0] (List.replicate 88 0), false, 1,
      by unfold State.ready; decide +kernel⟩,
    ⟨given up (cmdFor 0x0101 0 [0] (List.replicate 88 0)), 0, cmdFor 0x0101 0 [0] (List.replicate 88 0), false,
      by unfold State.ready; decide +kernel⟩,
    ⟨given up (cmdFor 0x0102 0 [0] []), 0, cmdFor 0x0102 0 [0] [], false, by unfold State.ready; decide +kernel⟩,
    ⟨given (((up.wr .SEIZ_KC_ST_TX_STATE 1 0).wr .SEIZ_KC_ST_S 1 0).setKc 0 { tx := { staged := some ⟨[], [], 8⟩ } }) (cmdFor 0x0102 0 [0] []),
      0, cmdFor 0x0102 0 [0] [], false, by unfold State.ready; decide +kernel⟩,
    ⟨given (up.setKc 0 { tx := { staged := some ⟨[], [], 8⟩ } }) (cmdFor 0x0102 0 [0] []), 0, cmdFor 0x0102 0 [0] [], false,
      by unfold State.ready; decide +kernel⟩,
    ⟨given up (cmdFor 0x0103 0 [1, 0] []), 0, cmdFor 0x0103 0 [1, 0] [], false, by unfold State.ready; decide +kernel⟩,
    ⟨given up (cmdFor 0x0103 0 [2, 3] []), 0, cmdFor 0x0103 0 [2, 3] [], true, (given up (cmdFor 0x0103 0 [2,
      3] [])).slotsNamed (cmdFor 0x0103 0 [2, 3] []).kc ((true : Bool)) ((cmdFor 0x0103 0 [2, 3] []).par 17 1),
      by unfold State.ready; decide +kernel⟩,
    ⟨given up (cmdFor 0x0103 0 [] []), 0, cmdFor 0x0103 0 [] [], false,
      (given up (cmdFor 0x0103 0 [] [])).slotsNamed (cmdFor 0x0103 0 [] []).kc ((false : Bool)) ((cmdFor 0x0103 0 [] []).par 17 1),
      by unfold State.ready; decide +kernel⟩,
    ⟨given up (cmdFor 0x0104 0 [] []), 0, cmdFor 0x0104 0 [] [], by unfold State.ready; decide +kernel⟩,
    ⟨given (up.wr .SEIZ_KC_ST_RX_STATE 3 0) (cmdFor 0x0104 0 [] []), 0, cmdFor 0x0104 0 [] [], by unfold State.ready; decide +kernel⟩,
    ⟨given up (cmdFor 0x0104 0 [] []), 0, cmdFor 0x0104 0 [] [], by unfold State.ready; decide +kernel⟩,
    ⟨given up (cmdFor 0x0105 0 [] []), 0, cmdFor 0x0105 0 [] [], by unfold State.ready; decide +kernel⟩,
    ⟨given up (cmdFor 0x0106 0 [] (List.replicate 88 0)), 0, cmdFor 0x0106 0 [] (List.replicate 88 0), 1,
      by unfold State.ready; decide +kernel⟩,
    ⟨given up (cmdFor 0x0106 0 [] (List.replicate 88 0)), 0, cmdFor 0x0106 0 [] (List.replicate 88 0),
      by unfold State.ready; decide +kernel⟩⟩

/-- ExchangeAndSegments. -/
theorem witness_ExchangeAndSegments :
    (∃ (s : State) (k : Kc), s.alive 14 = true ∧ s.rd .SEIZ_KC_CFG_REKEY_H k ≠ 0 ∧ s.rd .SEIZ_KC_ST_TX_STATE k = 1 ∧
      (s.on .SEIZ_KC_CFG_KIND k = true ∨ (s.kc k).link = none)) ∧
    (∃ (s : State) (k : Kc), s.alive 14 = true ∧ s.rd .SEIZ_KC_CFG_REKEY_H k ≠ 0 ∧ s.rd .SEIZ_KC_ST_TX_STATE k = 1 ∧
      s.on .SEIZ_KC_CFG_KIND k = false ∧ (s.kc k).link.isSome = true ∧ s.svcRuns 2 = true) ∧
    (∃ (s : State) (k : Kc), s.alive 14 = true ∧ (s.kc k).offer.isSome = true) ∧
    (∃ (s : State) (k : Kc), s.alive 14 = true ∧ (s.kc k).rekeying = true ∧ (s.kc k).offer = none ∧ (s.kc k).link.isSome = true ∧
      s.svcRuns 2 = true) ∧
    (∃ (s : State) (n : Line), s.alive 2 = true ∧ (s.svcRuns 3 = false ∨ s.lineNative n = false ∨ s.lineMode n = 3 ∨ (s.hit n).gcc = [])) ∧
    (∃ (s : State) (n : Line) (p : List Byte) (rest : List (List Byte)), s.alive 2 = true ∧ s.svcRuns 3 = true ∧ s.lineNative n = true ∧
      s.lineMode n ≠ 3 ∧ (s.hit n).gcc = p :: rest ∧ (p.length ≠ leAt p 2 2 + 8 ∨ crcOk p = false)) ∧
    (∃ (s : State) (n : Line) (p : List Byte) (rest : List (List Byte)), s.alive 2 = true ∧ s.svcRuns 3 = true ∧ s.lineNative n = true ∧
      s.lineMode n ≠ 3 ∧ (s.hit n).gcc = p :: rest ∧ p.length = leAt p 2 2 + 8 ∧ crcOk p = true ∧ 128 ≤ byteAt p 0 ∧
      s.on .MRLN_GCC_CFG_EN n = true) ∧
    (∃ (s : State) (n : Line) (p : List Byte) (rest : List (List Byte)), s.alive 2 = true ∧ s.svcRuns 3 = true ∧ s.lineNative n = true ∧
      s.lineMode n ≠ 3 ∧ (s.hit n).gcc = p :: rest ∧ p.length = leAt p 2 2 + 8 ∧ crcOk p = true ∧ byteAt p 0 ≠ 1 ∧
      (byteAt p 0 < 128 ∨ s.on .MRLN_GCC_CFG_EN n = false)) ∧
    (∃ (s : State) (k : Kc) (key : KeyRec) (text : List Byte) (rest : List (List Byte)), s.alive 14 = true ∧
      s.on .SEIZ_KC_CFG_EN k = true ∧ s.rd .SEIZ_KC_ST_TX_STATE k = 1 ∧ (s.kc k).tx.active = some key ∧ (s.kc k).txSegs = text :: rest ∧
      s.rd .SEIZ_KC_ST_TX_NEXT k + 1 < 2 ^ 64 ∧ (s.hit (s.rd .SEIZ_KC_CFG_LINE k)).tagq.length < 512) ∧
    (∃ (s : State) (k : Kc) (key : KeyRec) (text : List Byte) (rest : List (List Byte)), s.alive 14 = true ∧
      s.on .SEIZ_KC_CFG_EN k = true ∧ s.rd .SEIZ_KC_ST_TX_STATE k = 1 ∧ (s.kc k).tx.active = some key ∧ (s.kc k).txSegs = text :: rest ∧
      s.rd .SEIZ_KC_ST_TX_NEXT k + 1 < 2 ^ 64 ∧ s.atSwitch k (s.kc k).tx (s.rd .SEIZ_KC_ST_TX_NEXT k + 1) = false) ∧
    (∃ (s : State) (k : Kc) (key : KeyRec) (text : List Byte) (rest : List (List Byte)), s.alive 14 = true ∧
      s.on .SEIZ_KC_CFG_EN k = true ∧ s.rd .SEIZ_KC_ST_TX_STATE k = 1 ∧ (s.kc k).tx.active = some key ∧ (s.kc k).txSegs = text :: rest ∧
      s.rd .SEIZ_KC_ST_TX_NEXT k + 1 < 2 ^ 64 ∧ s.atSwitch k (s.kc k).tx (s.rd .SEIZ_KC_ST_TX_NEXT k + 1) = true ∧
      (s.kc k).tx.staged.isSome = true) ∧
    (∃ (s : State) (k : Kc) (key : KeyRec) (text : List Byte) (rest : List (List Byte)), s.alive 14 = true ∧
      s.on .SEIZ_KC_CFG_EN k = true ∧ s.rd .SEIZ_KC_ST_TX_STATE k = 1 ∧ (s.kc k).tx.active = some key ∧ (s.kc k).txSegs = text :: rest ∧
      s.rd .SEIZ_KC_ST_TX_NEXT k + 1 < 2 ^ 64 ∧ s.switchLimit k ≤ s.rd .SEIZ_KC_ST_TX_NEXT k + 1 ∧ (s.kc k).tx.staged = none) ∧
    (∃ (s : State) (k : Kc), s.alive 14 = true ∧
      (s.on .SEIZ_KC_CFG_EN k = false ∨ s.rd .SEIZ_KC_ST_TX_STATE k ≠ 1 ∨ (s.kc k).tx.active = none ∨ (s.kc k).txSegs = [])) ∧
    (∃ (s : State) (k : Kc) (w : SegRec) (l : List SegRec), s.alive 14 = true ∧ (s.kc k).waiting = w :: l ∧
      s.rd .SEIZ_KC_ST_RX_STATE k = 2 ∧ (if s.on .SEIZ_KC_CFG_STRICT k then 4 else s.rd .SEIZ_KC_CFG_TAG_WAIT k) ≤ w.age ∧
      w.marked = true) ∧
    (∃ (s : State) (k : Kc) (w : SegRec) (l : List SegRec), s.alive 14 = true ∧ (s.kc k).waiting = w :: l ∧
      s.rd .SEIZ_KC_ST_RX_STATE k = 2 ∧ (if s.on .SEIZ_KC_CFG_STRICT k then 4 else s.rd .SEIZ_KC_CFG_TAG_WAIT k) ≤ w.age ∧
      w.marked = false ∧ s.rd .SEIZ_KC_CFG_AF_N k ≤ min 15 (s.rd .SEIZ_KC_ST_CONSEC k + 1)) := ⟨
    ⟨(up.wr .SEIZ_KC_CFG_REKEY_H 1 0).wr .SEIZ_KC_ST_TX_STATE 1 0, 0, by decide +kernel⟩,
    ⟨((((up.wr .SEIZ_KC_CFG_REKEY_H 1 0).wr .SEIZ_KC_ST_TX_STATE 1 0).wr .SEIZ_KC_CFG_KIND 0 0).setKc 0 { link := some ⟨[], [], 7⟩ }).setSvc 2 { state := 1 },
      0, by decide +kernel⟩,
    ⟨up.setKc 0 { offer := some (0, 0, []) }, 0, by decide +kernel⟩,
    ⟨(up.setKc 0 { rekeying := true, offer := none, link := some ⟨[], [], 7⟩ }).setSvc 2 { state := 1 }, 0, by decide +kernel⟩,
    ⟨up, 0, by decide +kernel⟩,
    ⟨((((up.wr .TOP_MODE_STAT_L0_MODE 1)).setSvc 3 { state := 1 })).setHit 0 { gcc := [[]] }, 0, [], [], by decide +kernel⟩,
    ⟨((((up.wr .TOP_MODE_STAT_L0_MODE 1).wr .MRLN_GCC_CFG_EN 1 0).setSvc 3 { state := 1 })).setHit 0 { gcc := [[128, 0, 0, 0] ++ leBytes 4 (crc32c [128, 0, 0, 0])] },
      0, [128, 0, 0, 0] ++ leBytes 4 (crc32c [128, 0, 0, 0]), [], by decide +kernel⟩,
    ⟨((((up.wr .TOP_MODE_STAT_L0_MODE 1)).setSvc 3 { state := 1 })).setHit 0 { gcc := [[128, 0, 0, 0] ++ leBytes 4 (crc32c [128, 0, 0, 0])] },
      0, [128, 0, 0, 0] ++ leBytes 4 (crc32c [128, 0, 0, 0]), [], by decide +kernel⟩,
    ⟨((up.wr .SEIZ_KC_CFG_EN 1 0).wr .SEIZ_KC_ST_TX_STATE 1 0).setKc 0 { tx := { active := some (⟨[], [], 7⟩) }, txSegs := ([]) :: ([]) },
      0, ⟨[], [], 7⟩, [], [], by decide +kernel⟩,
    ⟨(((up.wr .SEIZ_KC_CFG_EN 1 0).wr .SEIZ_KC_ST_TX_STATE 1 0).wr .SEIZ_KC_ST_S 100 0).setKc 0 { tx := { active := some (⟨[], [], 7⟩) }, txSegs := ([]) :: ([]) },
      0, ⟨[], [], 7⟩, [], [], by decide +kernel⟩,
    ⟨((up.wr .SEIZ_KC_CFG_EN 1 0).wr .SEIZ_KC_ST_TX_STATE 1 0).setKc 0 { tx := { active := some (⟨[], [], 7⟩), staged := some ⟨[], [], 8⟩ }, txSegs := ([]) :: ([]) },
      0, ⟨[], [], 7⟩, [], [], by decide +kernel⟩,
    ⟨((up.wr .SEIZ_KC_CFG_EN 1 0).wr .SEIZ_KC_ST_TX_STATE 1 0).setKc 0 { tx := { active := some (⟨[], [], 7⟩), staged := none }, txSegs := ([]) :: ([]) },
      0, ⟨[], [], 7⟩, [], [], by decide +kernel⟩,
    ⟨up, 0, by decide +kernel⟩,
    ⟨(up.wr .SEIZ_KC_ST_RX_STATE 2 0).setKc 0 { waiting := (⟨0, 0, 70, true, [], none, 0, []⟩) :: ([]) }, 0, ⟨0, 0, 70, true, [], none, 0,
      []⟩, [], by decide +kernel⟩,
    ⟨((up.wr .SEIZ_KC_ST_RX_STATE 2 0).wr .SEIZ_KC_CFG_AF_N 1 0).setKc 0 { waiting := [⟨0, 100, 70, false, [], none, 0, []⟩] }, 0, ⟨0,
      100, 70, false, [], none, 0, []⟩, [], by decide +kernel⟩⟩

/-- GroupAndLeafCommands. -/
theorem witness_GroupAndLeafCommands :
    (∃ (s : State) (h : Nat) (c : Cmd), s.ready 15 0x0201 h c) ∧
    (∃ (s : State) (h : Nat) (c : Cmd), s.ready 15 0x0202 h c ∧ c.par 16 1 ≤ 1 ∧ c.par 16 1 = 1 ∧ (s.grp c.pg).lockout = true) ∧
    (∃ (s : State) (h : Nat) (c : Cmd), s.ready 15 0x0202 h c ∧ c.par 16 1 ≤ 1 ∧ (c.par 16 1 = 0 ∨ (s.grp c.pg).lockout = false)) ∧
    (∃ (s : State) (h : Nat) (c : Cmd), s.ready 15 0x0203 h c ∧ c.par 16 1 ≤ 1) ∧
    (∃ (s : State) (h : Nat) (c : Cmd), s.ready 15 0x0204 h c ∧ s.rd .BEND_PG_STAT_GSTATE c.pg < 2) ∧
    (∃ (s : State) (h : Nat) (c : Cmd), s.ready 15 0x0204 h c ∧ s.rd .BEND_PG_STAT_GSTATE c.pg = 4 ∧
      s.regionReady (s.rd .BEND_PG_CFG_ATT_REGION c.pg) = false) ∧
    (∃ (s : State) (h : Nat) (c : Cmd), s.ready 15 0x0204 h c ∧ 2 ≤ s.rd .BEND_PG_STAT_GSTATE c.pg ∧
      (s.rd .BEND_PG_STAT_GSTATE c.pg = 4 → s.regionReady (s.rd .BEND_PG_CFG_ATT_REGION c.pg) = true) ∧ (s.grp c.pg).aligned = true) ∧
    (∃ (s : State) (h : Nat) (c : Cmd), s.ready 15 0x0205 h c) ∧
    (∃ (s : State) (h : Nat) (c : Cmd) (n : Line) (i : Leaf), s.ready 11 0x0301 h c ∧ c.leaf = (n.val, i.val)) ∧
    (∃ (s : State) (h : Nat) (c : Cmd) (n : Line) (i : Leaf), s.ready 11 0x0301 h c ∧ c.leaf = (n.val, i.val) ∧
      (s.leafState n i = 2 ∨ s.leafState n i = 3)) ∧
    (∃ (s : State) (h : Nat) (c : Cmd) (n : Line) (i : Leaf), s.ready 11 0x0301 h c ∧ c.leaf = (n.val, i.val) ∧ s.leafState n i ≠ 2 ∧
      s.leafState n i ≠ 3) ∧
    (∃ (s : State) (h : Nat) (c : Cmd) (n : Line) (i : Leaf), s.ready 11 0x0302 h c ∧ c.leaf = (n.val, i.val)) ∧
    (∃ (s : State) (h : Nat) (c : Cmd) (n : Line) (i : Leaf), s.ready 11 0x0303 h c ∧ c.leaf = (n.val, i.val) ∧ 8 ≤ c.ind.length ∧
      c.ind.length ≤ 104 ∧ c.ind.length % 8 = 0 ∧ c.par 16 1 = 0 ∧ s.leafState n i ≠ 2 ∧ s.leafState n i ≠ 3) ∧
    (∃ (s : State) (h : Nat) (c : Cmd) (n : Line) (i : Leaf), s.ready 11 0x0303 h c ∧ c.leaf = (n.val, i.val) ∧ 8 ≤ c.ind.length ∧
      c.ind.length ≤ 104 ∧ c.ind.length % 8 = 0 ∧ c.par 16 1 = 0 ∧ (s.leafState n i = 2 ∨ s.leafState n i = 3)) ∧
    (∃ (s : State) (h : Nat) (c : Cmd) (n : Line) (i : Leaf) (j : Line), s.ready 11 0x0303 h c ∧ c.leaf = (n.val, i.val) ∧
      8 ≤ c.ind.length ∧ c.ind.length ≤ 104 ∧ c.ind.length % 8 = 0 ∧ c.par 16 1 = 0 ∧ (s.leafState n i = 2 ∨ s.leafState n i = 3) ∧ j ≠ n) ∧
    (∃ (s : State) (t : State) (h : Nat) (c : Cmd) (i : Instr) (op : Nat), (i, op) ∈ [(Instr.pgLockout h, 0x0201), (.pgForce h, 0x0202),
      (.pgClear h, 0x0203), (.pgRealign h, 0x0204), (.pgStatus h, 0x0205)] ∧ s.ready 15 op h c ∧ exec i s = .next t ∧ t.ended h 0 ∧
      (t.cmd h).isSome = true) := ⟨
    ⟨given up (cmdFor 0x0201 0 [] []), 0, cmdFor 0x0201 0 [] [], by unfold State.ready; decide +kernel⟩,
    ⟨given (up.setGrp 0 { lockout := true }) (cmdFor 0x0202 0 [1] []), 0, cmdFor 0x0202 0 [1] [], by unfold State.ready; decide +kernel⟩,
    ⟨given up (cmdFor 0x0202 0 [] []), 0, cmdFor 0x0202 0 [] [], by unfold State.ready; decide +kernel⟩,
    ⟨given up (cmdFor 0x0203 0 [] []), 0, cmdFor 0x0203 0 [] [], by unfold State.ready; decide +kernel⟩,
    ⟨given up (cmdFor 0x0204 0 [] []), 0, cmdFor 0x0204 0 [] [], by unfold State.ready; decide +kernel⟩,
    ⟨given (up.wr .BEND_PG_STAT_GSTATE 4 0) (cmdFor 0x0204 0 [] []), 0, cmdFor 0x0204 0 [] [], by unfold State.ready; decide +kernel⟩,
    ⟨given ((up.wr .BEND_PG_STAT_GSTATE 2 0).setGrp 0 { aligned := true }) (cmdFor 0x0204 0 [] []), 0, cmdFor 0x0204 0 [] [],
      by unfold State.ready; decide +kernel⟩,
    ⟨given up (cmdFor 0x0205 0 [] []), 0, cmdFor 0x0205 0 [] [], by unfold State.ready; decide +kernel⟩,
    ⟨given up (cmdFor 0x0301 0 [] []), 0, cmdFor 0x0301 0 [] [], 0, 0, by unfold State.ready; decide +kernel⟩,
    ⟨given (up.wr .BGHT_LEAF_ST_STATE 2 0 0) (cmdFor 0x0301 0 [] []), 0, cmdFor 0x0301 0 [] [], 0, 0,
      by unfold State.ready; decide +kernel⟩,
    ⟨given up (cmdFor 0x0301 0 [] []), 0, cmdFor 0x0301 0 [] [], 0, 0, by unfold State.ready; decide +kernel⟩,
    ⟨given up (cmdFor 0x0302 0 [] []), 0, cmdFor 0x0302 0 [] [], 0, 0, by unfold State.ready; decide +kernel⟩,
    ⟨given up (cmdFor 0x0303 0 [0] (List.replicate 8 0)), 0, cmdFor 0x0303 0 [0] (List.replicate 8 0), 0, 0,
      by unfold State.ready; decide +kernel⟩,
    ⟨given (up.wr .BGHT_LEAF_ST_STATE 2 0 0) (cmdFor 0x0303 0 [0] (List.replicate 8 0)), 0, cmdFor 0x0303 0 [0] (List.replicate 8 0), 0,
      0, by unfold State.ready; decide +kernel⟩,
    ⟨given (up.wr .BGHT_LEAF_ST_STATE 2 0 0) (cmdFor 0x0303 0 [0] (List.replicate 8 0)), 0, cmdFor 0x0303 0 [0] (List.replicate 8 0), 0,
      0, 1, by unfold State.ready; decide +kernel⟩,
    ⟨given up (cmdFor 0x0205 0 [] []), _, 0, cmdFor 0x0205 0 [] [], .pgStatus 0, 0x0205, by decide, by unfold State.ready; decide +kernel,
      rfl, ⟨_, rfl, by decide +kernel, by decide +kernel, by decide +kernel⟩, by decide +kernel⟩⟩

/-- PathsAndDeskew. -/
theorem witness_PathsAndDeskew :
    (∃ (s : State) (g : Pg) (skew : Int), s.alive 15 = true ∧ s.on .BEND_PG_CFG_EN g = true ∧
      skew = meanSkew (s.grp g).skew (stampDiffs (s.grp g).path0.stamps (s.grp g).path1.stamps) ∧ skew.natAbs < 2 ^ 24 ∧
      (s.grp g).aligned = true) ∧
    (∃ (s : State) (g : Pg) (skew : Int), s.alive 15 = true ∧ s.on .BEND_PG_CFG_EN g = true ∧
      skew = meanSkew (s.grp g).skew (stampDiffs (s.grp g).path0.stamps (s.grp g).path1.stamps) ∧ skew.natAbs < 2 ^ 24 ∧
      (s.grp g).aligned = false ∧ s.on .BEND_PATH_ST_INSEQ g 0 = true ∧ s.on .BEND_PATH_ST_INSEQ g 1 = true) ∧
    (∃ (s : State) (g : Pg) (skew : Int), s.alive 15 = true ∧ s.on .BEND_PG_CFG_EN g = true ∧
      skew = meanSkew (s.grp g).skew (stampDiffs (s.grp g).path0.stamps (s.grp g).path1.stamps) ∧ skew.natAbs < 2 ^ 24 ∧
      (s.grp g).aligned = false ∧ s.on .BEND_PATH_ST_INSEQ g 0 = false ∧ s.on .BEND_PATH_ST_INSEQ g 1 = false) ∧
    (∃ (s : State) (g : Pg), s.alive 15 = true ∧ s.on .BEND_PG_CFG_EN g = false) ∧
    (∃ (s : State) (g : Pg) (p : Path) (q : Path), s.alive 15 = true ∧ s.on .BEND_PG_CFG_EN g = true ∧
      s.on .BEND_PATH_ST_INSEQ g p = true ∧ ((s.grp g).path p).outside = false ∧ q ≠ p ∧ s.on .BEND_PATH_ST_INSEQ g q = true ∧
      ((s.grp g).path q).outside = false) ∧
    (∃ (s : State) (g : Pg) (p : Path), s.alive 15 = true ∧ s.on .BEND_PG_CFG_EN g = true ∧ s.on .BEND_PATH_ST_INSEQ g p = true ∧
      ((s.grp g).path p).outside = false ∧ (∀ q : Path, q ≠ p → s.on .BEND_PATH_ST_INSEQ g q = false ∨ ((s.grp g).path q).outside = true)) ∧
    (∃ (s : State) (g : Pg) (p : Path), s.alive 15 = true ∧ s.rd .BEND_PATH_ST_PSTATE g p = 4) ∧
    (∃ (s : State) (g : Pg) (p : Path), s.alive 15 = true ∧ s.rd .BEND_PATH_ST_PSTATE g p ≠ 4) ∧
    (∃ (s : State) (g : Pg) (p : Path) (o : _), s.alive 15 = true ∧ s.on .BEND_PG_CFG_AUTO_REALIGN g = true ∧
      s.rd .BEND_PATH_ST_PSTATE g p = 3 ∧ s.pathOk g (1 - p.val) = true ∧ o = (s.showDelta g (s.earlierNow g)).newOffset g ∧
      (s.grp g).aligned = true) ∧
    (∃ (s : State) (g : Pg) (p : Path), s.alive 15 = true ∧
      (s.on .BEND_PG_CFG_AUTO_REALIGN g = false ∨ s.rd .BEND_PATH_ST_PSTATE g p ≠ 3 ∨ s.pathOk g (1 - p.val) = false)) ∧
    (∃ (s : State) (r : List Byte) (g : Pg) (c : _) (d : _), s.alive 15 = true ∧ r.length = 16 ∧ byteAt r 0 % 16 = g.val ∧
      s.rd .LNYD_STAT_LSTATE = 2 ∧ s.lanyard.hit = false ∧ s.on .BEND_PG_CFG_EN g = true ∧ s.on .BEND_PG_CFG_KIND g = true ∧
      s.leads = false ∧ c = s.rd .BEND_PG_CFG_CLIENT g ∧ d = wrapSub (2 ^ 48) (leAt r 9 6) (s.grp g).words ∧
      ((s.grp g).counted = false ∨ d ≤ (s.cli c).txBytes.length / 16)) ∧
    (∃ (s : State) (r : List Byte) (g : Pg) (c : _) (d : _), s.alive 15 = true ∧ r.length = 16 ∧ byteAt r 0 % 16 = g.val ∧
      s.rd .LNYD_STAT_LSTATE = 2 ∧ s.lanyard.hit = false ∧ s.on .BEND_PG_CFG_EN g = true ∧ s.on .BEND_PG_CFG_KIND g = true ∧
      s.leads = false ∧ c = s.rd .BEND_PG_CFG_CLIENT g ∧ d = wrapSub (2 ^ 48) (leAt r 9 6) (s.grp g).words ∧ (s.grp g).counted = true ∧
      (s.cli c).txBytes.length / 16 < d) ∧
    (∃ (s : State) (r : List Byte) (g : Pg), s.alive 15 = true ∧ r.length = 16 ∧ byteAt r 0 % 16 = g.val ∧ s.rd .LNYD_STAT_LSTATE = 2 ∧
      s.lanyard.hit = true) ∧
    (∃ (s : State) (r : List Byte) (g : Pg), s.alive 15 = true ∧ r.length = 16 ∧ byteAt r 0 % 16 = g.val ∧ s.rd .LNYD_STAT_LSTATE ≠ 2) ∧
    (∃ (s : State) (g : Pg), s.alive 15 = true ∧ s.on .BEND_PG_CFG_EN g = true ∧ s.on .BEND_PG_CFG_KIND g = true ∧ s.leads = false ∧
      s.on .BEND_PG_STAT_LOCKSTEP g = true) ∧
    (∃ (s : State) (g : Pg), s.alive 15 = true ∧ s.on .BEND_PG_CFG_EN g = true ∧ s.on .BEND_PG_CFG_KIND g = true ∧ s.leads = false ∧
      s.on .BEND_PG_STAT_LOCKSTEP g = false) := ⟨
    ⟨(up.wr .BEND_PG_CFG_EN 1 0).setGrp 0 { aligned := true }, 0,
      meanSkew (((up.wr .BEND_PG_CFG_EN 1 0).setGrp 0 { aligned := true }).grp ((0 : Pg))).skew (stampDiffs (((up.wr .BEND_PG_CFG_EN 1 0).setGrp 0 { aligned := true }).grp ((0 : Pg))).path0.stamps (((up.wr .BEND_PG_CFG_EN 1 0).setGrp 0 { aligned := true }).grp ((0 : Pg))).path1.stamps),
      by decide +kernel⟩,
    ⟨(((up.wr .BEND_PG_CFG_EN 1 0).wr .BEND_PATH_ST_INSEQ 1 0 0).wr .BEND_PATH_ST_INSEQ 1 0 1).setGrp 0 { aligned := false }, 0,
      meanSkew (((((up.wr .BEND_PG_CFG_EN 1 0).wr .BEND_PATH_ST_INSEQ 1 0 0).wr .BEND_PATH_ST_INSEQ 1 0 1).setGrp 0 { aligned := false }).grp ((0 : Pg))).skew (stampDiffs (((((up.wr .BEND_PG_CFG_EN 1 0).wr .BEND_PATH_ST_INSEQ 1 0 0).wr .BEND_PATH_ST_INSEQ 1 0 1).setGrp 0 { aligned := false }).grp ((0 : Pg))).path0.stamps (((((up.wr .BEND_PG_CFG_EN 1 0).wr .BEND_PATH_ST_INSEQ 1 0 0).wr .BEND_PATH_ST_INSEQ 1 0 1).setGrp 0 { aligned := false }).grp ((0 : Pg))).path1.stamps),
      by decide +kernel⟩,
    ⟨(((up.wr .BEND_PG_CFG_EN 1 0).wr .BEND_PATH_ST_INSEQ 0 0 0).wr .BEND_PATH_ST_INSEQ 0 0 1).setGrp 0 { aligned := false }, 0,
      meanSkew (((((up.wr .BEND_PG_CFG_EN 1 0).wr .BEND_PATH_ST_INSEQ 0 0 0).wr .BEND_PATH_ST_INSEQ 0 0 1).setGrp 0 { aligned := false }).grp ((0 : Pg))).skew (stampDiffs (((((up.wr .BEND_PG_CFG_EN 1 0).wr .BEND_PATH_ST_INSEQ 0 0 0).wr .BEND_PATH_ST_INSEQ 0 0 1).setGrp 0 { aligned := false }).grp ((0 : Pg))).path0.stamps (((((up.wr .BEND_PG_CFG_EN 1 0).wr .BEND_PATH_ST_INSEQ 0 0 0).wr .BEND_PATH_ST_INSEQ 0 0 1).setGrp 0 { aligned := false }).grp ((0 : Pg))).path1.stamps),
      by decide +kernel⟩,
    ⟨(up.wr .BEND_PG_CFG_EN 0 0).wr .BEND_PATH_ST_INSEQ 1 0 1, 0, by decide +kernel⟩,
    ⟨((up.wr .BEND_PG_CFG_EN 1 0).wr .BEND_PATH_ST_INSEQ 1 0 0).wr .BEND_PATH_ST_INSEQ 1 0 1, 0, 0, 1, by decide +kernel⟩,
    ⟨(up.wr .BEND_PG_CFG_EN 1 0).wr .BEND_PATH_ST_INSEQ 1 0 0, 0, 0, by decide +kernel⟩,
    ⟨(up.wr .BEND_PATH_ST_PSTATE 4 0 0).wr .BEND_PATH_ST_PSTATE 5 0 1, 0, 0, by decide +kernel⟩,
    ⟨up.wr .BEND_PATH_ST_PSTATE 5 0 1, 0, 0, by decide +kernel⟩,
    ⟨(((up.wr .BEND_PG_CFG_AUTO_REALIGN 1 0).wr .BEND_PATH_ST_PSTATE 3 0 0).wr .BEND_PATH_ST_PSTATE 5 0 1).setGrp 0 { aligned := true },
      0, 0, (((((up.wr .BEND_PG_CFG_AUTO_REALIGN 1 0).wr .BEND_PATH_ST_PSTATE 3 0 0).wr .BEND_PATH_ST_PSTATE 5 0 1).setGrp 0 { aligned := true }).showDelta ((0 : Pg)) (((((up.wr .BEND_PG_CFG_AUTO_REALIGN 1 0).wr .BEND_PATH_ST_PSTATE 3 0 0).wr .BEND_PATH_ST_PSTATE 5 0 1).setGrp 0 { aligned := true }).earlierNow ((0 : Pg)))).newOffset ((0 : Pg)),
      by decide +kernel⟩,
    ⟨up, 0, 0, by decide +kernel⟩,
    ⟨(((((up.wr .LNYD_STAT_LSTATE 2).wr .BEND_PG_CFG_EN 1 0).wr .BEND_PG_CFG_KIND 1 0).wr .LNYD_STAT_NUM_KNOWN 1).wr .LNYD_STAT_PART_NUM 1),
      List.replicate 16 0, 0, 0, 0, by decide +kernel⟩,
    ⟨(((((up.wr .LNYD_STAT_LSTATE 2).wr .BEND_PG_CFG_EN 1 0).wr .BEND_PG_CFG_KIND 1 0).wr .LNYD_STAT_NUM_KNOWN 1).wr .LNYD_STAT_PART_NUM 1).setGrp 0 { counted := true },
      List.replicate 9 0 ++ (1 :: List.replicate 6 0), 0, 0, 1, by decide +kernel⟩,
    ⟨{ (up.wr .LNYD_STAT_LSTATE 2) with lanyard := { up.lanyard with hit := true } }, List.replicate 16 0, 0, by decide +kernel⟩,
    ⟨up, List.replicate 16 0, 0, by decide +kernel⟩,
    ⟨((((up.wr .BEND_PG_CFG_EN 1 0).wr .BEND_PG_CFG_KIND 1 0).wr .LNYD_STAT_NUM_KNOWN 1).wr .LNYD_STAT_PART_NUM 1).wr .BEND_PG_STAT_LOCKSTEP 1 0,
      0, by decide +kernel⟩,
    ⟨((((up.wr .BEND_PG_CFG_EN 1 0).wr .BEND_PG_CFG_KIND 1 0).wr .LNYD_STAT_NUM_KNOWN 1).wr .LNYD_STAT_PART_NUM 1).wr .BEND_PG_STAT_LOCKSTEP 0 0,
      0, by decide +kernel⟩⟩

/-- UnitsOfAGroup. -/
theorem witness_UnitsOfAGroup :
    (∃ (s : State) (c : Client) (target : Nat) (cm : Nat), s.alive 16 = true ∧ s.rd .SHET_CLI_CFG_TYPE c ≠ 0 ∧
      cm = (if s.rd .SHET_CLI_CFG_MODE c = 0 then 0 else cmStep (s.cli c).txCm target (payloadWords (s.contSize c))) ∧
      s.rd .SHET_CLI_CFG_MODE c ≠ 3 ∧ s.cliSlots c = []) ∧
    (∃ (s : State) (c : Client) (target : Nat) (cm : Nat) (g : _), s.alive 16 = true ∧ s.rd .SHET_CLI_CFG_TYPE c ≠ 0 ∧
      cm = (if s.rd .SHET_CLI_CFG_MODE c = 0 then 0 else cmStep (s.cli c).txCm target (payloadWords (s.contSize c))) ∧
      s.rd .SHET_CLI_CFG_MODE c ≠ 3 ∧ s.cliSlots c ≠ [] ∧ (∀ g,
      s.groupOf c = some g → s.on .BEND_PG_CFG_KIND g = false ∨ s.leads = true) ∧ s.groupOf c = some g) ∧
    (∃ (s : State) (c : Client) (target : Nat) (cm : Nat) (g : _), s.alive 16 = true ∧ s.rd .SHET_CLI_CFG_TYPE c ≠ 0 ∧
      cm = (if s.rd .SHET_CLI_CFG_MODE c = 0 then 0 else cmStep (s.cli c).txCm target (payloadWords (s.contSize c))) ∧
      s.rd .SHET_CLI_CFG_MODE c ≠ 3 ∧ s.cliSlots c ≠ [] ∧ s.groupOf c = some g ∧ s.on .BEND_PG_CFG_KIND g = true ∧ s.leads = false) ∧
    (∃ (s : State) (c : Client) (target : Nat) (cm : Nat), s.alive 16 = true ∧ s.rd .SHET_CLI_CFG_TYPE c ≠ 0 ∧
      cm = (if s.rd .SHET_CLI_CFG_MODE c = 0 then 0 else cmStep (s.cli c).txCm target (payloadWords (s.contSize c))) ∧
      s.rd .SHET_CLI_CFG_MODE c = 3) ∧
    (∃ (s : State) (u : State) (g : Pg) (p : Path) (time : Nat) (c : UnitCopy) (rest : List UnitCopy) (good : Bool), s.alive 15 = true ∧
      s.on .BEND_PG_CFG_EN g = true ∧ s.localPath g p = true ∧ ((s.grp g).path p).copies = c :: rest ∧ good = (c.good && !c.tagBad) ∧
      u = s.setGrp g ((s.grp g).setPath p { (s.grp g).path p with copies := rest, done := some (c.q, c.j), stamps := ((s.grp g).path p).stamps ++ [⟨c.q, c.j, time, true⟩] }) ∧
      s.unitDue g c.q c.j = false) ∧
    (∃ (s : State) (u : State) (g : Pg) (p : Path) (time : Nat) (c : UnitCopy) (rest : List UnitCopy) (good : Bool) (late : _),
      s.alive 15 = true ∧ s.on .BEND_PG_CFG_EN g = true ∧ s.localPath g p = true ∧ ((s.grp g).path p).copies = c :: rest ∧
      good = (c.good && !c.tagBad) ∧
      u = s.setGrp g ((s.grp g).setPath p { (s.grp g).path p with copies := rest, done := some (c.q, c.j), stamps := ((s.grp g).path p).stamps ++ [⟨c.q, c.j, time, true⟩] }) ∧
      s.unitDue g c.q c.j = true ∧ s.rd .BEND_PG_STAT_GSTATE g ≠ 4 ∧ late = (u.playTime g c.q c.j).any (fun v => decide (v ≤ time)) ∧
      (late = true ∨ s.storable g p = false)) ∧
    (∃ (s : State) (u : State) (g : Pg) (p : Path) (time : Nat) (c : UnitCopy) (rest : List UnitCopy) (good : Bool) (late : _),
      s.alive 15 = true ∧ s.on .BEND_PG_CFG_EN g = true ∧ s.localPath g p = true ∧ ((s.grp g).path p).copies = c :: rest ∧
      good = (c.good && !c.tagBad) ∧
      u = s.setGrp g ((s.grp g).setPath p { (s.grp g).path p with copies := rest, done := some (c.q, c.j), stamps := ((s.grp g).path p).stamps ++ [⟨c.q, c.j, time, true⟩] }) ∧
      s.unitDue g c.q c.j = true ∧ s.rd .BEND_PG_STAT_GSTATE g ≠ 4 ∧ late = (u.playTime g c.q c.j).any (fun v => decide (v ≤ time)) ∧
      late = false ∧ s.storable g p = true ∧ (∀ x ∈ (s.grp g).store, x.q = c.q → x.j = c.j → x.good = false ∨ x.tagBad = true)) ∧
    (∃ (s : State) (u : State) (g : Pg) (p : Path) (time : Nat) (c : UnitCopy) (rest : List UnitCopy) (good : Bool), s.alive 15 = true ∧
      s.on .BEND_PG_CFG_EN g = true ∧ s.localPath g p = true ∧ ((s.grp g).path p).copies = c :: rest ∧ good = (c.good && !c.tagBad) ∧
      u = s.setGrp g ((s.grp g).setPath p { (s.grp g).path p with copies := rest, done := some (c.q, c.j), stamps := ((s.grp g).path p).stamps ++ [⟨c.q, c.j, time, true⟩] }) ∧
      s.unitDue g c.q c.j = true ∧ s.rd .BEND_PG_STAT_GSTATE g = 4 ∧ good = true ∧ s.excluded g p = false ∧ c.path = p.val ∧ c.q < 2 ^ 32) ∧
    (∃ (s : State) (g : Pg) (p : Path), s.alive 15 = true ∧ ((s.grp g).path p).copies = []) ∧
    (∃ (s : State) (g : Pg) (q : BitVec 32) (j : Nat) (now : Nat), s.alive 15 = true ∧ s.on .BEND_PG_CFG_EN g = true ∧
      s.rd .BEND_PG_STAT_GSTATE g ≠ 4 ∧ (s.unitDue g q.toNat j = false ∨ ∃ v, s.playTime g q.toNat j = some v ∧ now < v)) ∧
    (∃ (s : State) (g : Pg) (q : BitVec 32) (j : Nat) (now : Nat), s.alive 15 = true ∧ s.on .BEND_PG_CFG_EN g = true ∧
      s.rd .BEND_PG_STAT_GSTATE g ≠ 4 ∧ s.unitDue g q.toNat j = true ∧ (∀ v, s.playTime g q.toNat j = some v → v ≤ now)) ∧
    (∃ (s : State) (g : Pg) (q : BitVec 32) (j : Nat) (now : Nat) (late : Option MemPort), s.alive 15 = true ∧
      s.on .BEND_PG_CFG_EN g = true ∧ s.rd .BEND_PG_STAT_GSTATE g ≠ 4 ∧ s.unitDue g q.toNat j = true ∧ (∀ v,
      s.playTime g q.toNat j = some v → v ≤ now) ∧ late = none ∧ s.copyMissing g 0 q.toNat j = true) ∧
    (∃ (s : State) (g : Pg) (q : BitVec 32) (j : Nat) (now : Nat) (late : Option MemPort), s.alive 15 = true ∧
      s.on .BEND_PG_CFG_EN g = true ∧ s.rd .BEND_PG_STAT_GSTATE g ≠ 4 ∧ s.unitDue g q.toNat j = true ∧ (∀ v,
      s.playTime g q.toNat j = some v → v ≤ now) ∧ late = none ∧ s.copyMissing g 1 q.toNat j = true) ∧
    (∃ (s : State) (g : Pg) (q : BitVec 32) (j : Nat) (now : Nat) (late : Option MemPort) (x : UnitCopy), s.alive 15 = true ∧
      s.on .BEND_PG_CFG_EN g = true ∧ s.rd .BEND_PG_STAT_GSTATE g ≠ 4 ∧ s.unitDue g q.toNat j = true ∧ (∀ v,
      s.playTime g q.toNat j = some v → v ≤ now) ∧ s.copyToPlay g q.toNat j = some x ∧ x.path < 2 ∧
      (late = none ∨ s.on .BEND_PG_CFG_DSK_LOC g = false)) ∧
    (∃ (s : State) (g : Pg) (q : BitVec 32) (j : Nat) (now : Nat) (late : Option MemPort) (x : UnitCopy) (port : MemPort),
      s.alive 15 = true ∧ s.on .BEND_PG_CFG_EN g = true ∧ s.rd .BEND_PG_STAT_GSTATE g ≠ 4 ∧ s.unitDue g q.toNat j = true ∧ (∀ v,
      s.playTime g q.toNat j = some v → v ≤ now) ∧ s.copyToPlay g q.toNat j = some x ∧ late = some port ∧
      s.on .BEND_PG_CFG_DSK_LOC g = true) ∧
    (∃ (s : State) (g : Pg) (q : BitVec 32) (j : Nat) (now : Nat), s.alive 15 = true ∧ s.on .BEND_PG_CFG_EN g = true ∧
      s.rd .BEND_PG_STAT_GSTATE g ≠ 4 ∧ s.unitDue g q.toNat j = true ∧ (∀ v, s.playTime g q.toNat j = some v → v ≤ now) ∧
      s.copyToPlay g q.toNat j = none) := ⟨
    ⟨up.wr .SHET_CLI_CFG_TYPE 1 0, 0, 0,
      (if (up.wr .SHET_CLI_CFG_TYPE 1 0).rd .SHET_CLI_CFG_MODE ((0 : Client)) = 0 then 0 else cmStep ((up.wr .SHET_CLI_CFG_TYPE 1 0).cli ((0 : Client))).txCm ((0 : Nat)) (payloadWords ((up.wr .SHET_CLI_CFG_TYPE 1 0).contSize ((0 : Client))))),
      by decide +kernel⟩,
    ⟨(((up.wr .SHET_CLI_CFG_TYPE 1 0).wr .SHET_TS_EN 1 0).wr .SHET_TS_CLIENT 0 0).wr .BEND_PG_CFG_EN 1 0, 0, 0,
      (if ((((up.wr .SHET_CLI_CFG_TYPE 1 0).wr .SHET_TS_EN 1 0).wr .SHET_TS_CLIENT 0 0).wr .BEND_PG_CFG_EN 1 0).rd .SHET_CLI_CFG_MODE ((0 : Client)) = 0 then 0 else cmStep (((((up.wr .SHET_CLI_CFG_TYPE 1 0).wr .SHET_TS_EN 1 0).wr .SHET_TS_CLIENT 0 0).wr .BEND_PG_CFG_EN 1 0).cli ((0 : Client))).txCm ((0 : Nat)) (payloadWords (((((up.wr .SHET_CLI_CFG_TYPE 1 0).wr .SHET_TS_EN 1 0).wr .SHET_TS_CLIENT 0 0).wr .BEND_PG_CFG_EN 1 0).contSize ((0 : Client))))),
      0, by decide +kernel⟩,
    ⟨((((((up.wr .SHET_CLI_CFG_TYPE 1 0).wr .BEND_PG_CFG_KIND 1 0).wr .LNYD_STAT_NUM_KNOWN 1).wr .LNYD_STAT_PART_NUM 1).wr .SHET_TS_EN 1 0).wr .SHET_TS_CLIENT 0 0).wr .BEND_PG_CFG_EN 1 0,
      0, 0, (if (((((((up.wr .SHET_CLI_CFG_TYPE 1 0).wr .BEND_PG_CFG_KIND 1 0).wr .LNYD_STAT_NUM_KNOWN 1).wr .LNYD_STAT_PART_NUM 1).wr .SHET_TS_EN 1 0).wr .SHET_TS_CLIENT 0 0).wr .BEND_PG_CFG_EN 1 0).rd .SHET_CLI_CFG_MODE ((0 : Client)) = 0 then 0 else cmStep ((((((((up.wr .SHET_CLI_CFG_TYPE 1 0).wr .BEND_PG_CFG_KIND 1 0).wr .LNYD_STAT_NUM_KNOWN 1).wr .LNYD_STAT_PART_NUM 1).wr .SHET_TS_EN 1 0).wr .SHET_TS_CLIENT 0 0).wr .BEND_PG_CFG_EN 1 0).cli ((0 : Client))).txCm ((0 : Nat)) (payloadWords ((((((((up.wr .SHET_CLI_CFG_TYPE 1 0).wr .BEND_PG_CFG_KIND 1 0).wr .LNYD_STAT_NUM_KNOWN 1).wr .LNYD_STAT_PART_NUM 1).wr .SHET_TS_EN 1 0).wr .SHET_TS_CLIENT 0 0).wr .BEND_PG_CFG_EN 1 0).contSize ((0 : Client))))),
      0, by decide +kernel⟩,
    ⟨(up.wr .SHET_CLI_CFG_TYPE 1 0).wr .SHET_CLI_CFG_MODE 3 0, 0, 0,
      (if ((up.wr .SHET_CLI_CFG_TYPE 1 0).wr .SHET_CLI_CFG_MODE 3 0).rd .SHET_CLI_CFG_MODE ((0 : Client)) = 0 then 0 else cmStep (((up.wr .SHET_CLI_CFG_TYPE 1 0).wr .SHET_CLI_CFG_MODE 3 0).cli ((0 : Client))).txCm ((0 : Nat)) (payloadWords (((up.wr .SHET_CLI_CFG_TYPE 1 0).wr .SHET_CLI_CFG_MODE 3 0).contSize ((0 : Client))))),
      by decide +kernel⟩,
    ⟨(up.wr .BEND_PG_CFG_EN 1 0).setGrp 0 { path0 := { copies := [⟨1, 0, 0, true, none, false, [], [], 0⟩] }, last := some (2, 0) },
      ((up.wr .BEND_PG_CFG_EN 1 0).setGrp 0 { path0 := { copies := [⟨1, 0, 0, true, none, false, [], [], 0⟩] }, last := some (2, 0) }).setGrp ((0 : Pg)) ((((up.wr .BEND_PG_CFG_EN 1 0).setGrp 0 { path0 := { copies := [⟨1, 0, 0, true, none, false, [], [], 0⟩] }, last := some (2, 0) }).grp ((0 : Pg))).setPath ((0 : Path)) { (((up.wr .BEND_PG_CFG_EN 1 0).setGrp 0 { path0 := { copies := [⟨1, 0, 0, true, none, false, [], [], 0⟩] }, last := some (2, 0) }).grp ((0 : Pg))).path ((0 : Path)) with copies := (([] : List UnitCopy)), done := some (((⟨1, 0, 0, true, none, false, [], [], 0⟩ : UnitCopy)).q, ((⟨1, 0, 0, true, none, false, [], [], 0⟩ : UnitCopy)).j), stamps := ((((up.wr .BEND_PG_CFG_EN 1 0).setGrp 0 { path0 := { copies := [⟨1, 0, 0, true, none, false, [], [], 0⟩] }, last := some (2, 0) }).grp ((0 : Pg))).path ((0 : Path))).stamps ++ [⟨((⟨1, 0, 0, true, none, false, [], [], 0⟩ : UnitCopy)).q, ((⟨1, 0, 0, true, none, false, [], [], 0⟩ : UnitCopy)).j, ((0 : Nat)), true⟩] }),
      0, 0, 0, ⟨1, 0, 0, true, none, false, [], [], 0⟩, [], (((⟨1, 0, 0, true, none, false, [], [], 0⟩ : UnitCopy)).good && !((⟨1, 0, 0,
      true, none, false, [], [], 0⟩ : UnitCopy)).tagBad), by decide +kernel⟩,
    ⟨(up.wr .BEND_PG_CFG_EN 1 0).setGrp 0 { path0 := { copies := [⟨1, 0, 0, true, none, false, [], [], 0⟩] } },
      ((up.wr .BEND_PG_CFG_EN 1 0).setGrp 0 { path0 := { copies := [⟨1, 0, 0, true, none, false, [], [], 0⟩] } }).setGrp ((0 : Pg)) ((((up.wr .BEND_PG_CFG_EN 1 0).setGrp 0 { path0 := { copies := [⟨1, 0, 0, true, none, false, [], [], 0⟩] } }).grp ((0 : Pg))).setPath ((0 : Path)) { (((up.wr .BEND_PG_CFG_EN 1 0).setGrp 0 { path0 := { copies := [⟨1, 0, 0, true, none, false, [], [], 0⟩] } }).grp ((0 : Pg))).path ((0 : Path)) with copies := (([] : List UnitCopy)), done := some (((⟨1, 0, 0, true, none, false, [], [], 0⟩ : UnitCopy)).q, ((⟨1, 0, 0, true, none, false, [], [], 0⟩ : UnitCopy)).j), stamps := ((((up.wr .BEND_PG_CFG_EN 1 0).setGrp 0 { path0 := { copies := [⟨1, 0, 0, true, none, false, [], [], 0⟩] } }).grp ((0 : Pg))).path ((0 : Path))).stamps ++ [⟨((⟨1, 0, 0, true, none, false, [], [], 0⟩ : UnitCopy)).q, ((⟨1, 0, 0, true, none, false, [], [], 0⟩ : UnitCopy)).j, ((0 : Nat)), true⟩] }),
      0, 0, 0, ⟨1, 0, 0, true, none, false, [], [], 0⟩, [], (((⟨1, 0, 0, true, none, false, [], [], 0⟩ : UnitCopy)).good && !((⟨1, 0, 0,
      true, none, false, [], [], 0⟩ : UnitCopy)).tagBad), true, ⟨by decide +kernel, by decide +kernel, by decide +kernel,
      by decide +kernel, by decide +kernel, by decide +kernel, by decide +kernel, by decide +kernel, by decide +kernel, .inl rfl⟩⟩,
    ⟨(((up.wr .BEND_PG_CFG_EN 1 0).wr .BEND_PATH_ST_INSEQ 1 0 0).wr .BEND_PG_STAT_DO 10 0).setGrp 0 { path0 := { copies := [⟨1, 0, 0, true, none, false, [], [], 0⟩] } },
      ((((up.wr .BEND_PG_CFG_EN 1 0).wr .BEND_PATH_ST_INSEQ 1 0 0).wr .BEND_PG_STAT_DO 10 0).setGrp 0 { path0 := { copies := [⟨1, 0, 0, true, none, false, [], [], 0⟩] } }).setGrp ((0 : Pg)) ((((((up.wr .BEND_PG_CFG_EN 1 0).wr .BEND_PATH_ST_INSEQ 1 0 0).wr .BEND_PG_STAT_DO 10 0).setGrp 0 { path0 := { copies := [⟨1, 0, 0, true, none, false, [], [], 0⟩] } }).grp ((0 : Pg))).setPath ((0 : Path)) { (((((up.wr .BEND_PG_CFG_EN 1 0).wr .BEND_PATH_ST_INSEQ 1 0 0).wr .BEND_PG_STAT_DO 10 0).setGrp 0 { path0 := { copies := [⟨1, 0, 0, true, none, false, [], [], 0⟩] } }).grp ((0 : Pg))).path ((0 : Path)) with copies := (([] : List UnitCopy)), done := some (((⟨1, 0, 0, true, none, false, [], [], 0⟩ : UnitCopy)).q, ((⟨1, 0, 0, true, none, false, [], [], 0⟩ : UnitCopy)).j), stamps := ((((((up.wr .BEND_PG_CFG_EN 1 0).wr .BEND_PATH_ST_INSEQ 1 0 0).wr .BEND_PG_STAT_DO 10 0).setGrp 0 { path0 := { copies := [⟨1, 0, 0, true, none, false, [], [], 0⟩] } }).grp ((0 : Pg))).path ((0 : Path))).stamps ++ [⟨((⟨1, 0, 0, true, none, false, [], [], 0⟩ : UnitCopy)).q, ((⟨1, 0, 0, true, none, false, [], [], 0⟩ : UnitCopy)).j, ((0 : Nat)), true⟩] }),
      0, 0, 0, ⟨1, 0, 0, true, none, false, [], [], 0⟩, [], (((⟨1, 0, 0, true, none, false, [], [], 0⟩ : UnitCopy)).good && !((⟨1, 0, 0,
      true, none, false, [], [], 0⟩ : UnitCopy)).tagBad), false, by decide +kernel⟩,
    ⟨((up.wr .BEND_PG_CFG_EN 1 0).wr .BEND_PG_STAT_GSTATE 4 0).setGrp 0 { path0 := { copies := [⟨1, 0, 0, true, none, false, [], [], 0⟩] } },
      (((up.wr .BEND_PG_CFG_EN 1 0).wr .BEND_PG_STAT_GSTATE 4 0).setGrp 0 { path0 := { copies := [⟨1, 0, 0, true, none, false, [], [], 0⟩] } }).setGrp ((0 : Pg)) (((((up.wr .BEND_PG_CFG_EN 1 0).wr .BEND_PG_STAT_GSTATE 4 0).setGrp 0 { path0 := { copies := [⟨1, 0, 0, true, none, false, [], [], 0⟩] } }).grp ((0 : Pg))).setPath ((0 : Path)) { ((((up.wr .BEND_PG_CFG_EN 1 0).wr .BEND_PG_STAT_GSTATE 4 0).setGrp 0 { path0 := { copies := [⟨1, 0, 0, true, none, false, [], [], 0⟩] } }).grp ((0 : Pg))).path ((0 : Path)) with copies := (([] : List UnitCopy)), done := some (((⟨1, 0, 0, true, none, false, [], [], 0⟩ : UnitCopy)).q, ((⟨1, 0, 0, true, none, false, [], [], 0⟩ : UnitCopy)).j), stamps := (((((up.wr .BEND_PG_CFG_EN 1 0).wr .BEND_PG_STAT_GSTATE 4 0).setGrp 0 { path0 := { copies := [⟨1, 0, 0, true, none, false, [], [], 0⟩] } }).grp ((0 : Pg))).path ((0 : Path))).stamps ++ [⟨((⟨1, 0, 0, true, none, false, [], [], 0⟩ : UnitCopy)).q, ((⟨1, 0, 0, true, none, false, [], [], 0⟩ : UnitCopy)).j, ((0 : Nat)), true⟩] }),
      0, 0, 0, ⟨1, 0, 0, true, none, false, [], [], 0⟩, [], true, by decide +kernel⟩,
    ⟨up, 0, 0, by decide +kernel⟩,
    ⟨(up.wr .BEND_PG_CFG_EN 1 0).setGrp 0 { last := some (2, 0) }, 0, 0, 0, 0, ⟨by decide +kernel, by decide +kernel, by decide +kernel,
      .inl (by decide +kernel)⟩⟩,
    ⟨up.wr .BEND_PG_CFG_EN 1 0, 0, 0, 0, 0, ⟨by decide +kernel, by decide +kernel, by decide +kernel, by decide +kernel,
      fun v h => absurd (Eq.trans (by decide +kernel) h) (by simp : ¬ (none : Option Nat) = some v)⟩⟩,
    ⟨(up.wr .BEND_PG_CFG_EN 1 0).wr .BEND_PATH_ST_INSEQ 1 0 0, 0, 0, 0, 0, none, ⟨by decide +kernel, by decide +kernel, by decide +kernel,
      by decide +kernel, fun v h => absurd (Eq.trans (by decide +kernel) h) (by simp : ¬ (none : Option Nat) = some v), by decide +kernel,
      by decide +kernel⟩⟩,
    ⟨(up.wr .BEND_PG_CFG_EN 1 0).wr .BEND_PATH_ST_INSEQ 1 0 1, 0, 0, 0, 0, none, ⟨by decide +kernel, by decide +kernel, by decide +kernel,
      by decide +kernel, fun v h => absurd (Eq.trans (by decide +kernel) h) (by simp : ¬ (none : Option Nat) = some v), by decide +kernel,
      by decide +kernel⟩⟩,
    ⟨((up.wr .BEND_PG_CFG_EN 1 0).wr .BEND_PATH_ST_INSEQ 1 0 0).setGrp 0 { store := [⟨0, 0, 0, true, none, false, [], [], 0⟩] }, 0, 0, 0,
      0, none, ⟨0, 0, 0, true, none, false, [], [], 0⟩, ⟨by decide +kernel, by decide +kernel, by decide +kernel, by decide +kernel,
      fun v h => absurd (Eq.trans (by decide +kernel) h) (by simp : ¬ (none : Option Nat) = some v), by decide +kernel, by decide +kernel,
      .inl rfl⟩⟩,
    ⟨(((up.wr .BEND_PG_CFG_EN 1 0).wr .BEND_PATH_ST_INSEQ 1 0 0).setGrp 0 { store := [⟨0, 0, 0, true, none, false, [], [], 0⟩] }).wr .BEND_PG_CFG_DSK_LOC 1 0,
      0, 0, 0, 0, some 0, ⟨0, 0, 0, true, none, false, [], [], 0⟩, 0, ⟨by decide +kernel, by decide +kernel, by decide +kernel,
      by decide +kernel, fun v h => absurd (Eq.trans (by decide +kernel) h) (by simp : ¬ (none : Option Nat) = some v), by decide +kernel,
      by decide +kernel, by decide +kernel⟩⟩,
    ⟨up.wr .BEND_PG_CFG_EN 1 0, 0, 0, 0, 0, ⟨by decide +kernel, by decide +kernel, by decide +kernel, by decide +kernel,
      fun v h => absurd (Eq.trans (by decide +kernel) h) (by simp : ¬ (none : Option Nat) = some v), by decide +kernel⟩⟩⟩

/-- ClientFramesAndConditions. -/
theorem witness_ClientFramesAndConditions :
    (∃ (s : State) (c : Client), s.alive 16 = true ∧ s.isEth c = false) ∧
    (∃ (s : State) (c : Client) (frame : Option (List Byte)), s.alive 16 = true ∧ s.isEth c = true ∧
      (frame = none ∨ s.rd .SHET_CLI_CFG_MODE c ≠ 0)) ∧
    (∃ (s : State) (c : Client) (frame : Option (List Byte)) (err : Bool) (uncorrectable : Nat) (f : List Byte) (u : List Byte),
      s.alive 16 = true ∧ s.isEth c = true ∧ frame = some f ∧ s.rd .SHET_CLI_CFG_MODE c = 0 ∧
      u = frameHeader (min 16000 f.length) (err || (s.cli c).recentred || decide (16000 < f.length) || decide (0 < uncorrectable)) ++ f.take 16000 ∧
      (s.on .SHET_CLI_STAT_CSF c = true ∨ f.length < 64)) ∧
    (∃ (s : State) (c : Client) (frame : Option (List Byte)) (err : Bool) (uncorrectable : Nat) (f : List Byte) (u : List Byte),
      s.alive 16 = true ∧ s.isEth c = true ∧ frame = some f ∧ s.rd .SHET_CLI_CFG_MODE c = 0 ∧
      u = frameHeader (min 16000 f.length) (err || (s.cli c).recentred || decide (16000 < f.length) || decide (0 < uncorrectable)) ++ f.take 16000 ∧
      s.on .SHET_CLI_STAT_CSF c = false ∧ 64 ≤ f.length ∧ s.isShared c = false) ∧
    (∃ (s : State) (c : Client) (frame : Option (List Byte)) (err : Bool) (uncorrectable : Nat) (f : List Byte) (u : List Byte),
      s.alive 16 = true ∧ s.isEth c = true ∧ frame = some f ∧ s.rd .SHET_CLI_CFG_MODE c = 0 ∧
      u = frameHeader (min 16000 f.length) (err || (s.cli c).recentred || decide (16000 < f.length) || decide (0 < uncorrectable)) ++ f.take 16000 ∧
      s.on .SHET_CLI_STAT_CSF c = false ∧ 64 ≤ f.length ∧ s.isShared c = true ∧ s.vidLeaf c f = none) ∧
    (∃ (s : State) (c : Client) (frame : Option (List Byte)) (err : Bool) (uncorrectable : Nat) (f : List Byte) (u : List Byte) (l : Nat) (key : Nat) (room : Nat),
      s.alive 16 = true ∧ s.isEth c = true ∧ frame = some f ∧ s.rd .SHET_CLI_CFG_MODE c = 0 ∧
      u = frameHeader (min 16000 f.length) (err || (s.cli c).recentred || decide (16000 < f.length) || decide (0 < uncorrectable)) ++ f.take 16000 ∧
      s.on .SHET_CLI_STAT_CSF c = false ∧ 64 ≤ f.length ∧ s.isShared c = true ∧ s.vidLeaf c f = some l ∧
      key = leafKey (s.rd .SHET_CLI_CFG_LINE c) l ∧
      room = 65536 * ((s.cliLeafSlots c).filter fun k => s.rd .SHET_TS_LINE k == s.rd .SHET_CLI_CFG_LINE c && s.rd .SHET_TS_LEAF k == l).length ∧
      room < ((s.cli c).leaves.get {} key).tx.fill + u.length) ∧
    (∃ (s : State) (c : Client) (frame : Option (List Byte)) (err : Bool) (uncorrectable : Nat) (f : List Byte) (u : List Byte) (l : Nat) (key : Nat) (room : Nat),
      s.alive 16 = true ∧ s.isEth c = true ∧ frame = some f ∧ s.rd .SHET_CLI_CFG_MODE c = 0 ∧
      u = frameHeader (min 16000 f.length) (err || (s.cli c).recentred || decide (16000 < f.length) || decide (0 < uncorrectable)) ++ f.take 16000 ∧
      s.on .SHET_CLI_STAT_CSF c = false ∧ 64 ≤ f.length ∧ s.isShared c = true ∧ s.vidLeaf c f = some l ∧
      key = leafKey (s.rd .SHET_CLI_CFG_LINE c) l ∧
      room = 65536 * ((s.cliLeafSlots c).filter fun k => s.rd .SHET_TS_LINE k == s.rd .SHET_CLI_CFG_LINE c && s.rd .SHET_TS_LEAF k == l).length ∧
      ((s.cli c).leaves.get {} key).tx.fill + u.length ≤ room) ∧
    (∃ (d : Delin) (h : List Byte), d.skip = 0 ∧ h = plainBytes (d.bytes.take 4) ∧ 4 ≤ d.bytes.length ∧ d.sync = true ∧
      headerOk h = false) ∧
    (∃ (d : Delin) (h : List Byte), d.skip = 0 ∧ h = plainBytes (d.bytes.take 4) ∧ 4 ≤ d.bytes.length ∧ d.sync = true ∧
      headerOk h = true ∧ leAt h 0 2 ≠ 0 ∧ 4 + leAt h 0 2 ≤ d.bytes.length) ∧
    (∃ (d : Delin) (h : List Byte), d.skip = 0 ∧ h = plainBytes (d.bytes.take 4) ∧ 4 ≤ d.bytes.length ∧ d.sync = false ∧
      headerOk h = true ∧ 8 + leAt h 0 2 ≤ d.bytes.length) ∧
    (∃ (s : State) (c : Client), s.alive 16 = true ∧ s.rd .SHET_CLI_CFG_TYPE c ≠ 0 ∧ s.rd .SHET_CLI_CFG_MODE c = 0 ∧
      s.isShared c = false ∧ (s.cli c).rx.step.1 = .lost) ∧
    (∃ (s : State) (c : Client) (sent : Nat) (err : Bool) (f : List Byte) (e : Nat), s.alive 16 = true ∧ s.rd .SHET_CLI_CFG_TYPE c ≠ 0 ∧
      s.rd .SHET_CLI_CFG_MODE c = 0 ∧ s.isShared c = false ∧ (s.cli c).rx.step.1 = .frame err f ∧ e = (s.cli c).egress - sent ∧
      s.on .SHET_CLI_STAT_EGR_ACT c = true) ∧
    (∃ (s : State) (c : Client) (sent : Nat) (err : Bool) (f : List Byte) (e : Nat), s.alive 16 = true ∧ s.rd .SHET_CLI_CFG_TYPE c ≠ 0 ∧
      s.rd .SHET_CLI_CFG_MODE c = 0 ∧ s.isShared c = false ∧ (s.cli c).rx.step.1 = .frame err f ∧ e = (s.cli c).egress - sent ∧
      s.on .SHET_CLI_STAT_EGR_ACT c = false ∧ s.egressRoom c < e + f.length) ∧
    (∃ (s : State) (c : Client) (sent : Nat) (err : Bool) (f : List Byte) (e : Nat), s.alive 16 = true ∧ s.rd .SHET_CLI_CFG_TYPE c ≠ 0 ∧
      s.rd .SHET_CLI_CFG_MODE c = 0 ∧ s.isShared c = false ∧ (s.cli c).rx.step.1 = .frame err f ∧ e = (s.cli c).egress - sent ∧
      s.on .SHET_CLI_STAT_EGR_ACT c = false ∧ e + f.length ≤ s.egressRoom c) ∧
    (∃ (s : State) (c : Client) (key : Nat) (err : Bool) (f : List Byte), s.alive 16 = true ∧ s.rd .SHET_CLI_CFG_TYPE c ≠ 0 ∧
      s.rd .SHET_CLI_CFG_MODE c = 0 ∧ s.isShared c = true ∧ (s.cli c).nextLeaf = some key ∧
      ((s.cli c).leaves.get {} key).rx.step.1 = .frame err f ∧ s.leafServerFail c (key / 256) (key % 256) = true) ∧
    (∃ (s : State) (c : Client) (key : Nat) (err : Bool) (f : List Byte), s.alive 16 = true ∧ s.rd .SHET_CLI_CFG_TYPE c ≠ 0 ∧
      s.rd .SHET_CLI_CFG_MODE c = 0 ∧ s.isShared c = true ∧ (s.cli c).nextLeaf = some key ∧
      ((s.cli c).leaves.get {} key).rx.step.1 = .frame err f ∧ s.leafServerFail c (key / 256) (key % 256) = false ∧
      s.vidLeaf c f ≠ some (key % 256)) ∧
    (∃ (s : State) (c : Client) (w : List Byte) (rest : List (List Byte)) (cm : Nat) (fl : Nat), s.alive 16 = true ∧
      s.rd .SHET_CLI_CFG_TYPE c ≠ 0 ∧ (s.cli c).cows = w :: rest ∧ cowFields w = some (cm, fl)) ∧
    (∃ (s : State) (c : Client) (w : List Byte) (rest : List (List Byte)), s.alive 16 = true ∧ s.rd .SHET_CLI_CFG_TYPE c ≠ 0 ∧
      (s.cli c).cows = w :: rest ∧ cowFields w = none ∧ 2 ≤ (s.cli c).cowBad ∧ (s.cli c).cowLost = false) ∧
    (∃ (s : State) (c : Client) (w : List Byte) (rest : List (List Byte)), s.alive 16 = true ∧ s.rd .SHET_CLI_CFG_TYPE c ≠ 0 ∧
      (s.cli c).cows = w :: rest ∧ cowFields w = none ∧ (s.cli c).cowBad < 2) ∧
    (∃ (s : State) (c : Client), s.alive 16 = true ∧ (s.cli c).cows = []) ∧
    (∃ (s : State) (c : Client), s.alive 16 = true ∧ s.on .SHET_CLI_STAT_SRV_FAIL c = false ∧ s.on .SHET_CLI_STAT_FAR_CSF c = false ∧
      ((s.rd .SHET_CLI_CFG_MODE c = 0 ∧ s.on .SHET_CLI_STAT_SYNC c = true) ∨ (s.rd .SHET_CLI_CFG_MODE c ≠ 0 ∧ 2 ≤ (s.cli c).cowGood))) ∧
    (∃ (s : State) (c : Client), s.alive 16 = true ∧ (s.on .SHET_CLI_STAT_SRV_FAIL c = true ∨ s.on .SHET_CLI_STAT_FAR_CSF c = true)) ∧
    (∃ (s : State) (c : Client), s.alive 16 = true ∧ s.rd .SHET_CLI_CFG_TYPE c ≠ 0 ∧ s.on .SHET_CLI_STAT_CSF c = false) ∧
    (∃ (s : State) (c : Client), s.alive 16 = true ∧ (∀ l ∈ s.cliLanes c, s.laneGood l = true)) := ⟨
    ⟨up, 0, by decide +kernel⟩,
    ⟨up.wr .SHET_CLI_CFG_TYPE 1 0, 0, none, by decide +kernel⟩,
    ⟨up.wr .SHET_CLI_CFG_TYPE 1 0, 0, some (List.replicate 60 0), false, 0, List.replicate 60 0,
      frameHeader (min 16000 (List.replicate 60 0 : List Byte).length) false ++ (List.replicate 60 0 : List Byte).take 16000,
      by decide +kernel⟩,
    ⟨up.wr .SHET_CLI_CFG_TYPE 1 0, 0, some (List.replicate 64 0), false, 0, List.replicate 64 0,
      frameHeader (min 16000 (List.replicate 64 0 : List Byte).length) false ++ (List.replicate 64 0 : List Byte).take 16000,
      by decide +kernel⟩,
    ⟨(up.wr .SHET_CLI_CFG_TYPE 1 0).wr .SHET_CLI_CFG_HUB_TAG 1 0, 0, some (List.replicate 64 0), false, 0, List.replicate 64 0,
      frameHeader (min 16000 (List.replicate 64 0 : List Byte).length) false ++ (List.replicate 64 0 : List Byte).take 16000,
      by decide +kernel⟩,
    ⟨(((up.wr .SHET_CLI_CFG_TYPE 1 0).wr .SHET_CLI_CFG_HUB_TAG 1 0).wr .SHET_VID_EN 1 0 3).wr .SHET_VID_LEAF 7 0 3, 0,
      some (List.replicate 12 0 ++ [0x81, 0, 0, 3] ++ List.replicate 48 0), false, 0, List.replicate 12 0 ++ [0x81, 0, 0,
      3] ++ List.replicate 48 0, frameHeader (min 16000 (List.replicate 12 0 ++ [0x81, 0, 0,
      3] ++ List.replicate 48 0 : List Byte).length) false ++ (List.replicate 12 0 ++ [0x81, 0, 0,
      3] ++ List.replicate 48 0 : List Byte).take 16000, 7, 7, 0, by decide +kernel⟩,
    ⟨(((((((up.wr .SHET_CLI_CFG_TYPE 1 0).wr .SHET_CLI_CFG_HUB_TAG 1 0).wr .SHET_VID_EN 1 0 3).wr .SHET_VID_LEAF 7 0 3).wr .SHET_TS_EN 1 0).wr .SHET_TS_CLIENT 0 0).wr .SHET_TS_LEAF_EN 1 0).wr .SHET_TS_LEAF 7 0,
      0, some (List.replicate 12 0 ++ [0x81, 0, 0, 3] ++ List.replicate 48 0), false, 0, List.replicate 12 0 ++ [0x81, 0, 0,
      3] ++ List.replicate 48 0, frameHeader (min 16000 (List.replicate 12 0 ++ [0x81, 0, 0,
      3] ++ List.replicate 48 0 : List Byte).length) false ++ (List.replicate 12 0 ++ [0x81, 0, 0,
      3] ++ List.replicate 48 0 : List Byte).take 16000, 7, 7, 65536, by decide +kernel⟩,
    ⟨({ sync := true, bytes := List.replicate 4 ((1, false) : RxByte) } : Delin),
      plainBytes (((({ sync := true, bytes := List.replicate 4 ((1, false) : RxByte) } : Delin) : Delin)).bytes.take 4),
      by decide +kernel⟩,
    ⟨({ sync := true, bytes := (frameHeader 64 false ++ List.replicate 64 0).map (fun b => ((b, false) : RxByte)) } : Delin),
      plainBytes (((({ sync := true, bytes := (frameHeader 64 false ++ List.replicate 64 0).map (fun b => ((b, false) : RxByte)) } : Delin) : Delin)).bytes.take 4),
      by decide +kernel⟩,
    ⟨({ bytes := (frameHeader 64 false ++ List.replicate 64 0).map (fun b => ((b, false) : RxByte)) ++ List.replicate 4 ((1, false) : RxByte) } : Delin),
      plainBytes (((({ bytes := (frameHeader 64 false ++ List.replicate 64 0).map (fun b => ((b, false) : RxByte)) ++ List.replicate 4 ((1, false) : RxByte) } : Delin) : Delin)).bytes.take 4),
      by decide +kernel⟩,
    ⟨(up.wr .SHET_CLI_CFG_TYPE 1 0).setCli 0 { rx := { sync := true, bytes := List.replicate 4 ((1, false) : RxByte) } }, 0,
      by decide +kernel⟩,
    ⟨((up.wr .SHET_CLI_CFG_TYPE 1 0).wr .SHET_CLI_STAT_EGR_ACT 1 0).setCli 0 { rx := { sync := true, bytes := (frameHeader 64 false ++ List.replicate 64 0).map (fun b => ((b, false) : RxByte)) } },
      0, 0, false, List.replicate 64 0, 0, by decide +kernel⟩,
    ⟨(up.wr .SHET_CLI_CFG_TYPE 1 0).setCli 0 { rx := { sync := true, bytes := (frameHeader 64 false ++ List.replicate 64 0).map (fun b => ((b, false) : RxByte)) } },
      0, 0, false, List.replicate 64 0, 0, by decide +kernel⟩,
    ⟨(((up.wr .SHET_CLI_CFG_TYPE 1 0).wr .SHET_TS_EN 1 0).wr .SHET_TS_CLIENT 0 0).setCli 0 { rx := { sync := true, bytes := (frameHeader 64 false ++ List.replicate 64 0).map (fun b => ((b, false) : RxByte)) } },
      0, 0, false, List.replicate 64 0, 0, by decide +kernel⟩,
    ⟨((({ up with leafFail := [(0, 7)] }).wr .SHET_CLI_CFG_TYPE 1 0).wr .SHET_CLI_CFG_HUB_TAG 1 0).setCli 0 { leaves := [(7, { rx := { sync := true, bytes := (frameHeader 64 false ++ List.replicate 64 0).map (fun b => ((b, false) : RxByte)) } })] },
      0, 7, false, List.replicate 64 0, by decide +kernel⟩,
    ⟨(((up.wr .BGHT_LEAF_ST_STATE 2 0 7).wr .SHET_CLI_CFG_TYPE 1 0).wr .SHET_CLI_CFG_HUB_TAG 1 0).setCli 0 { leaves := [(7, { rx := { sync := true, bytes := (frameHeader 64 false ++ List.replicate 64 0).map (fun b => ((b, false) : RxByte)) } })] },
      0, 7, false, List.replicate 64 0, by decide +kernel⟩,
    ⟨(up.wr .SHET_CLI_CFG_TYPE 1 0).setCli 0 { cows := [[0, 0, 0, 0] ++ leBytes 2 (crc16 [0, 0, 0, 0]) ++ [0, 0, 0, 0, 0, 0]] }, 0, [0, 0,
      0, 0] ++ leBytes 2 (crc16 [0, 0, 0, 0]) ++ [0, 0, 0, 0, 0, 0], [], 0, 0, by decide +kernel⟩,
    ⟨(up.wr .SHET_CLI_CFG_TYPE 1 0).setCli 0 { cows := [[1, 0, 0, 0, 0, 0, 1, 0, 0, 0, 0, 0]], cowBad := 2 }, 0, [1, 0, 0, 0, 0, 0, 1, 0,
      0, 0, 0, 0], [], by decide +kernel⟩,
    ⟨(up.wr .SHET_CLI_CFG_TYPE 1 0).setCli 0 { cows := [[1, 0, 0, 0, 0, 0, 1, 0, 0, 0, 0, 0]] }, 0, [1, 0, 0, 0, 0, 0, 1, 0, 0, 0, 0, 0],
      [], by decide +kernel⟩,
    ⟨up.setCli 0 { cows := [] }, 0, by decide +kernel⟩,
    ⟨up.wr .SHET_CLI_STAT_SYNC 1 0, 0, by decide +kernel⟩,
    ⟨up.wr .SHET_CLI_STAT_SRV_FAIL 1 0, 0, by decide +kernel⟩,
    ⟨(up.wr .SHET_CLI_CFG_TYPE 1 0).wr .SHET_CLI_STAT_CSF 0 0, 0, by decide +kernel⟩,
    ⟨up, 0, by decide +kernel⟩⟩

/-- LanesTrainAndFail. -/
theorem witness_LanesTrainAndFail :
    (∃ (s : State) (l : Lane) (snr : Nat), s.alive 17 = true ∧ s.laneState l = 1 ∧ 120 ≤ snr ∧ s.rd .TWIN_LANE_CFG_INTF l = 1 ∧
      s.rd .TWIN_QUAD_CFG_RATE (l.val / 4) = 3) ∧
    (∃ (s : State) (l : Lane) (snr : Nat), s.alive 17 = true ∧ s.laneState l = 1 ∧ 120 ≤ snr ∧
      (s.rd .TWIN_LANE_CFG_INTF l ≠ 1 ∨ s.rd .TWIN_QUAD_CFG_RATE (l.val / 4) ≠ 3)) ∧
    (∃ (s : State) (l : Lane) (snr : Nat), s.alive 17 = true ∧ s.laneState l = 1 ∧ snr < 120) ∧
    (∃ (s : State) (l : Lane), s.alive 17 = true ∧ s.laneState l ≠ 1) ∧
    (∃ (s : State) (l : Lane) (v : _), s.alive 17 = true ∧ s.laneState l = 2 ∧ (s.tw l).coeff = some v ∧ v < 2 ^ 32) ∧
    (∃ (s : State) (l : Lane), s.alive 17 = true ∧ s.laneState l ≠ 2) ∧
    (∃ (s : State) (l : Lane), s.alive 17 = true ∧ (s.laneState l = 1 ∨ s.laneState l = 2)) ∧
    (∃ (s : State) (l : Lane), s.alive 17 = true ∧ s.laneState l ≠ 1 ∧ s.laneState l ≠ 2) ∧
    (∃ (s : State) (l : Lane), s.alive 17 = true ∧ s.laneState l = 4 ∧ s.on .TWIN_LANE_CFG_EN l = true ∧
      s.rd .TWIN_QUAD_CFG_RATE (l.val / 4) ≠ 0 ∧ s.rateFits l = true) ∧
    (∃ (s : State) (l : Lane), s.alive 17 = true ∧ s.laneState l = 4 ∧ s.on .TWIN_LANE_CFG_EN l = true ∧
      s.rd .TWIN_QUAD_CFG_RATE (l.val / 4) ≠ 0 ∧ s.rateFits l = false) ∧
    (∃ (s : State) (l : Lane), s.alive 17 = true ∧ s.laneState l = 4 ∧
      (s.on .TWIN_LANE_CFG_EN l = false ∨ s.rd .TWIN_QUAD_CFG_RATE (l.val / 4) = 0)) ∧
    (∃ (s : State) (l : Lane), s.alive 17 = true ∧ s.laneState l ≠ 4) := ⟨
    ⟨((up.wr .TWIN_STAT_LSTATE 1 0).wr .TWIN_LANE_CFG_INTF 1 0).wr .TWIN_QUAD_CFG_RATE 3 (0 / 4), 0, 120, by decide +kernel⟩,
    ⟨up.wr .TWIN_STAT_LSTATE 1 0, 0, 120, by decide +kernel⟩,
    ⟨up.wr .TWIN_STAT_LSTATE 1 0, 0, 0, by decide +kernel⟩,
    ⟨up, 0, by decide +kernel⟩,
    ⟨(up.wr .TWIN_STAT_LSTATE 2 0).setTw 0 { coeff := some (0) }, 0, 0, by decide +kernel⟩,
    ⟨up, 0, by decide +kernel⟩,
    ⟨up.wr .TWIN_STAT_LSTATE 1 0, 0, by decide +kernel⟩,
    ⟨up, 0, by decide +kernel⟩,
    ⟨((up.wr .TWIN_STAT_LSTATE 4 0).wr .TWIN_LANE_CFG_EN 1 0).wr .TWIN_QUAD_CFG_RATE 1 (0 / 4), 0, by decide +kernel⟩,
    ⟨(((up.wr .TWIN_STAT_LSTATE 4 0).wr .TWIN_LANE_CFG_EN 1 0).wr .TWIN_QUAD_CFG_RATE 1 (0 / 4)).wr .SHET_CLI_CFG_TYPE 1 0, 0,
      by decide +kernel⟩,
    ⟨up.wr .TWIN_STAT_LSTATE 4 0, 0, by decide +kernel⟩,
    ⟨up, 0, by decide +kernel⟩⟩

/-- LaneSignalsAndRequests. -/
theorem witness_LaneSignalsAndRequests :
    (∃ (s : State) (l : Lane), s.alive 17 = true ∧ s.laneState l ≠ 0 ∧ s.on .TWIN_STAT_LOS l = false ∧ s.laneState l ≠ 3) ∧
    (∃ (s : State) (l : Lane), s.alive 17 = true ∧ s.laneState l ≠ 0 ∧ s.on .TWIN_STAT_LOS l = false ∧ s.laneState l = 3 ∧
      s.rateFits l = true ∧ s.on .TWIN_LANE_CFG_EN l = true ∧ s.rd .TWIN_QUAD_CFG_RATE (l.val / 4) ≠ 0) ∧
    (∃ (s : State) (l : Lane) (c : Client), s.alive 17 = true ∧ s.laneState l ≠ 0 ∧ s.on .TWIN_STAT_LOS l = false ∧
      c.val ∈ s.clientsOn l ∧ s.rd .SHET_CLI_CFG_TYPE c ≠ 0) ∧
    (∃ (s : State) (l : Lane), s.alive 17 = true ∧ s.on .TWIN_STAT_LOS l = true) ∧
    (∃ (s : State) (l : Lane), s.alive 17 = true ∧ s.laneState l ≠ 3) ∧
    (∃ (s : State) (l : Lane), s.alive 17 = true ∧ s.laneState l = 3 ∧ s.rateFits l = true ∧ s.on .TWIN_LANE_CFG_EN l = true ∧
      s.rd .TWIN_QUAD_CFG_RATE (l.val / 4) ≠ 0) ∧
    (∃ (s : State) (l : Lane), s.alive 17 = true ∧ s.laneState l = 2 ∧ s.on .TWIN_TXFFE_TX_LOCK l = true) ∧
    (∃ (s : State) (l : Lane), s.alive 17 = true ∧ s.laneState l = 2 ∧ s.on .TWIN_TXFFE_TX_LOCK l = false) := ⟨
    ⟨(up.wr .TWIN_STAT_LSTATE 1 0).wr .TWIN_STAT_LOS 0 0, 0, by decide +kernel⟩,
    ⟨((((up.wr .TWIN_STAT_LSTATE 1 0).wr .TWIN_STAT_LOS 0 0).wr .TWIN_STAT_LSTATE 3 0).wr .TWIN_LANE_CFG_EN 1 0).wr .TWIN_QUAD_CFG_RATE 1 (0 / 4),
      0, by decide +kernel⟩,
    ⟨((up.wr .TWIN_STAT_LSTATE 1 0).wr .TWIN_STAT_LOS 0 0).wr .SHET_CLI_CFG_TYPE 1 0, 0, 0, by decide +kernel⟩,
    ⟨up.wr .TWIN_STAT_LOS 1 0, 0, by decide +kernel⟩,
    ⟨up, 0, by decide +kernel⟩,
    ⟨((up.wr .TWIN_STAT_LSTATE 3 0).wr .TWIN_LANE_CFG_EN 1 0).wr .TWIN_QUAD_CFG_RATE 1 (0 / 4), 0, by decide +kernel⟩,
    ⟨(up.wr .TWIN_STAT_LSTATE 2 0).wr .TWIN_TXFFE_TX_LOCK 1 0, 0, by decide +kernel⟩,
    ⟨(up.wr .TWIN_STAT_LSTATE 2 0).wr .TWIN_TXFFE_TX_LOCK 0 0, 0, by decide +kernel⟩⟩

/-- EqualisersAndMarginScans. -/
theorem witness_EqualisersAndMarginScans :
    (∃ (s : State) (req : Requester) (l : Lane) (m : Lane), s.mayWrite req 17 1 (s.laneDom l) ∧ m ≠ l) ∧
    (∃ (s : State) (req : Requester) (l : Lane), s.mayWrite req 17 1 (s.laneDom l) ∧ s.on .TWIN_SCAN_SCAN_BUSY l = false ∧
      s.laneState l = 3) ∧
    (∃ (s : State) (req : Requester) (l : Lane), s.mayWrite req 17 1 (s.laneDom l) ∧ s.on .TWIN_SCAN_SCAN_BUSY l = false ∧
      s.laneState l ≠ 3) ∧
    (∃ (s : State) (l : Lane), s.alive 17 = true ∧ s.rd .TWIN_SCAN_MARGIN_INT l ≠ 0 ∧ s.belay.background = true ∧ s.laneState l = 3 ∧
      s.on .TWIN_SCAN_SCAN_BUSY l = false) ∧
    (∃ (s : State) (l : Lane), s.alive 17 = true ∧
      (s.rd .TWIN_SCAN_MARGIN_INT l = 0 ∨ s.belay.background = false ∨ s.on .TWIN_SCAN_SCAN_BUSY l = true)) ∧
    (∃ (s : State) (l : Lane) (sweeps : List (List Nat)) (sp : Nat → Nat), s.alive 17 = true ∧ s.on .TWIN_SCAN_SCAN_BUSY l = true ∧ (∀ k,
      sp k = eyeSpan (s.rd .TWIN_SCAN_TGT l) (s.rd .TWIN_SCAN_DWELL l) (sweeps.getD k []) % 256) ∧ (s.tw l).auto = false) ∧
    (∃ (s : State) (l : Lane) (sweeps : List (List Nat)) (sp : Nat → Nat), s.alive 17 = true ∧ s.on .TWIN_SCAN_SCAN_BUSY l = true ∧ (∀ k,
      sp k = eyeSpan (s.rd .TWIN_SCAN_TGT l) (s.rd .TWIN_SCAN_DWELL l) (sweeps.getD k []) % 256) ∧ (s.tw l).auto = true ∧
      min (sp 1) (min (sp 3) (sp 5)) < s.rd .TALY_AGE_CFG_LANE_MIN) ∧
    (∃ (s : State) (l : Lane), s.alive 17 = true ∧ s.rd .TWIN_LANE_CFG_LPBK l = 2 ∧ s.laneState l ≠ 0 ∧ (s.tw l).slipSaid = false) := ⟨
    ⟨up, .host 0, 0, 1, by unfold State.mayWrite; decide +kernel⟩,
    ⟨(up.wr .TWIN_SCAN_SCAN_BUSY 0 0).wr .TWIN_STAT_LSTATE 3 0, .host 0, 0, by unfold State.mayWrite; decide +kernel⟩,
    ⟨up.wr .TWIN_SCAN_SCAN_BUSY 0 0, .host 0, 0, by unfold State.mayWrite; decide +kernel⟩,
    ⟨{ (((up.wr .TWIN_SCAN_MARGIN_INT 1 0).wr .TWIN_STAT_LSTATE 3 0).wr .TWIN_SCAN_SCAN_BUSY 0 0) with belay := { up.belay with background := true } },
      0, by decide +kernel⟩,
    ⟨up.wr .TWIN_SCAN_MARGIN_INT 0 0, 0, by decide +kernel⟩,
    ⟨(up.wr .TWIN_SCAN_SCAN_BUSY 1 0).setTw 0 { auto := false }, 0, [],
      fun k => eyeSpan (((up.wr .TWIN_SCAN_SCAN_BUSY 1 0).setTw 0 { auto := false }).rd .TWIN_SCAN_TGT ((0 : Lane))) (((up.wr .TWIN_SCAN_SCAN_BUSY 1 0).setTw 0 { auto := false }).rd .TWIN_SCAN_DWELL ((0 : Lane))) (((([] : List (List Nat)))).getD k []) % 256,
      ⟨by decide +kernel, by decide +kernel, fun _ => rfl, by decide +kernel⟩⟩,
    ⟨(up.wr .TWIN_SCAN_SCAN_BUSY 1 0).setTw 0 { auto := true }, 0, [],
      fun k => eyeSpan (((up.wr .TWIN_SCAN_SCAN_BUSY 1 0).setTw 0 { auto := true }).rd .TWIN_SCAN_TGT ((0 : Lane))) (((up.wr .TWIN_SCAN_SCAN_BUSY 1 0).setTw 0 { auto := true }).rd .TWIN_SCAN_DWELL ((0 : Lane))) (((([] : List (List Nat)))).getD k []) % 256,
      ⟨by decide +kernel, by decide +kernel, fun _ => rfl, by decide +kernel, by decide +kernel⟩⟩,
    ⟨((up.wr .TWIN_LANE_CFG_LPBK 2 0).wr .TWIN_STAT_LSTATE 1 0).setTw 0 { slipSaid := false }, 0, by decide +kernel⟩⟩

/-- MateLinkStates. -/
theorem witness_MateLinkStates :
    (∃ (s : State), s.alive 18 = true ∧ s.linkState = 1 ∧ s.rd .LNYD_STAT_ATTEMPT < 3) ∧
    (∃ (s : State), s.alive 18 = true ∧ s.linkState = 1 ∧ s.rd .LNYD_STAT_ATTEMPT = 3) ∧
    (∃ (s : State), s.alive 18 = true ∧ s.linkState = 3 ∧ s.rd .LNYD_STAT_ATTEMPT ≠ 0) ∧
    (∃ (s : State), s.alive 18 = true ∧ s.linkState = 3) ∧
    (∃ (s : State), s.alive 18 = true ∧ s.linkState ≠ 3) ∧
    (∃ (s : State), s.alive 18 = true ∧ s.linkState = 2) ∧
    (∃ (s : State), s.alive 18 = true ∧ s.linkState ≠ 2) ∧
    (∃ (s : State) (l : MateLane), s.alive 18 = true ∧ s.linkState = 2 ∧ l.val < s.mateLanes) ∧
    (∃ (s : State) (l : MateLane), s.alive 18 = true ∧ (s.linkState ≠ 2 ∨ s.mateLanes ≤ l.val)) ∧
    (∃ (s : State), s.alive 18 = true ∧ s.mateSends = true) ∧
    (∃ (s : State), s.alive 18 = true ∧ s.mateSends = false) ∧
    (∃ (s : State) (p : List Byte) (bad : Bool), s.alive 18 = true ∧ s.mateSends = true ∧ packetPayload p (s.packetBad bad) 0 = none) ∧
    (∃ (s : State) (p : List Byte) (bad : Bool) (synced : BitVec 4) (h : List Byte), s.alive 18 = true ∧ s.mateSends = true ∧
      packetPayload p (s.packetBad bad) 0 = some h ∧ s.linkState ≠ 2 ∧ bit (byteAt h 0) 0 = true ∧ 2 ≤ s.lanyard.hellos ∧ (∀ l : MateLane,
      l.val < s.mateLanes → synced.toNat.testBit l.val = true)) ∧
    (∃ (s : State) (p : List Byte) (bad : Bool) (synced : BitVec 4) (h : List Byte), s.alive 18 = true ∧ s.mateSends = true ∧
      packetPayload p (s.packetBad bad) 0 = some h ∧
      (s.linkState = 2 ∨ bit (byteAt h 0) 0 = false ∨ s.lanyard.hellos < 2 ∨ (∃ l : MateLane, l.val < s.mateLanes ∧
      synced.toNat.testBit l.val = false))) ∧
    (∃ (s : State), s.alive 18 = true ∧ s.linkState = 2 ∧ s.lanyard.creditDue = true) ∧
    (∃ (s : State), s.alive 18 = true ∧ (s.linkState ≠ 2 ∨ s.lanyard.creditDue = false)) ∧
    (∃ (s : State) (p : List Byte) (bad : Bool), s.alive 18 = true ∧ s.linkState = 2 ∧ packetPayload p (s.packetBad bad) 1 = none) ∧
    (∃ (s : State) (p : List Byte) (bad : Bool) (c : List Byte), s.alive 18 = true ∧ s.linkState = 2 ∧
      packetPayload p (s.packetBad bad) 1 = some c) ∧
    (∃ (s : State) (req : Requester) (l : MateLane), s.mayWrite req 18 2 0 ∧ s.on .LNYD_LANE_CFG_SCAN_REQ l = false ∧
      s.on .LNYD_LANE_STAT_SYNC l = true) ∧
    (∃ (s : State) (req : Requester) (l : MateLane), s.mayWrite req 18 2 0 ∧ s.on .LNYD_LANE_CFG_SCAN_REQ l = false ∧
      s.on .LNYD_LANE_STAT_SYNC l = false) ∧
    (∃ (s : State) (l : MateLane) (sweeps : List (List Nat)) (sp : Nat → Nat), s.alive 18 = true ∧ s.on .LNYD_LANE_CFG_SCAN_REQ l = true ∧
      (∀ k, sp k = eyeSpan 6 (s.rd .LNYD_LANE_CFG_DWELL l) (sweeps.getD k []) % 256)) := ⟨
    ⟨up.wr .LNYD_STAT_LSTATE 1, by decide +kernel⟩,
    ⟨(up.wr .LNYD_STAT_LSTATE 1).wr .LNYD_STAT_ATTEMPT 3, by decide +kernel⟩,
    ⟨(up.wr .LNYD_STAT_LSTATE 3).wr .LNYD_STAT_ATTEMPT 1, by decide +kernel⟩,
    ⟨up.wr .LNYD_STAT_LSTATE 3, by decide +kernel⟩,
    ⟨up, by decide +kernel⟩,
    ⟨up.wr .LNYD_STAT_LSTATE 2, by decide +kernel⟩,
    ⟨up, by decide +kernel⟩,
    ⟨up.wr .LNYD_STAT_LSTATE 2, 0, by decide +kernel⟩,
    ⟨up, 0, by decide +kernel⟩,
    ⟨up.wr .LNYD_STAT_LSTATE 1, by decide +kernel⟩,
    ⟨up, by decide +kernel⟩,
    ⟨up.wr .LNYD_STAT_LSTATE 1, [], false, by decide +kernel⟩,
    ⟨{ up.wr .LNYD_STAT_LSTATE 1 with lanyard := { up.lanyard with hellos := 2 } }, packet 0 0 (1 :: List.replicate 15 0), false, 15,
      1 :: List.replicate 15 0, by decide +kernel⟩,
    ⟨up.wr .LNYD_STAT_LSTATE 2, packet 0 0 (1 :: List.replicate 15 0), false, 0, 1 :: List.replicate 15 0, ⟨by decide +kernel,
      by decide +kernel, by decide +kernel, .inl (by decide +kernel)⟩⟩,
    ⟨{ (up.wr .LNYD_STAT_LSTATE 2) with lanyard := { up.lanyard with creditDue := true } }, by decide +kernel⟩,
    ⟨up, by decide +kernel⟩,
    ⟨up.wr .LNYD_STAT_LSTATE 2, [], false, by decide +kernel⟩,
    ⟨up.wr .LNYD_STAT_LSTATE 2, packet 1 0 (1 :: List.replicate 15 0), false, 1 :: List.replicate 15 0, by decide +kernel⟩,
    ⟨(up.wr .LNYD_LANE_CFG_SCAN_REQ 0 0).wr .LNYD_LANE_STAT_SYNC 1 0, .host 0, 0, by unfold State.mayWrite; decide +kernel⟩,
    ⟨(up.wr .LNYD_LANE_CFG_SCAN_REQ 0 0).wr .LNYD_LANE_STAT_SYNC 0 0, .host 0, 0, by unfold State.mayWrite; decide +kernel⟩,
    ⟨up.wr .LNYD_LANE_CFG_SCAN_REQ 1 0, 0, [],
      fun k => eyeSpan 6 ((up.wr .LNYD_LANE_CFG_SCAN_REQ 1 0).rd .LNYD_LANE_CFG_DWELL ((0 : MateLane))) (((([] : List (List Nat)))).getD k []) % 256,
      ⟨by decide +kernel, by decide +kernel, fun _ => rfl⟩⟩⟩

/-- ClaimsGatesAndTakeover. -/
theorem witness_ClaimsGatesAndTakeover :
    (∃ (s : State) (level : Bool), s.alive 18 = true ∧ s.on .LNYD_STAT_PART_CLAIMS = level) ∧
    (∃ (s : State) (level : Bool) (k : CkSet), s.alive 18 = true ∧ s.on .LNYD_STAT_PART_CLAIMS = true ∧ level = false ∧ s.mate = true ∧
      s.on .LNYD_CLAIM_CLAIM_EN = true ∧ s.boot.rootLocked = true ∧ s.boot.shutdown = false ∧ s.on .LNYD_STAT_GATES_OPEN = false ∧
      s.lanyard.latest = some k) ∧
    (∃ (s : State) (level : Bool), s.alive 18 = true ∧ s.on .LNYD_STAT_PART_CLAIMS = true ∧ level = false ∧ s.mate = true ∧
      s.on .LNYD_CLAIM_CLAIM_EN = true ∧ s.boot.rootLocked = true ∧ s.boot.shutdown = false ∧ s.on .LNYD_STAT_GATES_OPEN = false ∧
      s.lanyard.latest = none ∧ s.ckReady = true) ∧
    (∃ (s : State) (level : Bool), s.alive 18 = true ∧ s.on .LNYD_STAT_PART_CLAIMS = true ∧ level = false ∧ s.mate = true ∧
      s.on .LNYD_CLAIM_CLAIM_EN = true ∧ s.boot.rootLocked = true ∧ s.boot.shutdown = false ∧ s.on .LNYD_STAT_GATES_OPEN = false ∧
      s.lanyard.latest = none ∧ s.ckReady = false) ∧
    (∃ (s : State) (w : BitVec 32) (num : Nat), s.alive 18 = true ∧ num = bits w.toNat 23 8 ∧ w.toNat ≠ claimFrame num) ∧
    (∃ (s : State) (w : BitVec 32) (num : Nat), s.alive 18 = true ∧ num = bits w.toNat 23 8 ∧ w.toNat = claimFrame num ∧
      (s.lanyard.frameRun = 0 ∨ s.lanyard.frameNum ≠ num)) ∧
    (∃ (s : State) (w : BitVec 32) (num : Nat) (k : _), s.alive 18 = true ∧ num = bits w.toNat 23 8 ∧ w.toNat = claimFrame num ∧
      s.lanyard.frameNum = num ∧ 2 ≤ s.lanyard.frameRun ∧ s.lanyard.helloNum = some k ∧ k ≠ num) ∧
    (∃ (s : State), s.alive 18 = true ∧ s.mate = true ∧ s.on .LNYD_STAT_CLAIMING = true ∧ s.on .LNYD_STAT_PART_CLAIMS = true) ∧
    (∃ (s : State) (k : CkSet), s.alive 18 = true ∧ s.lanyard.takeover = some k) ∧
    (∃ (s : State), s.alive 18 = true ∧ s.lanyard.takeover = none) ∧
    (∃ (s : State) (r : Restored) (n : Line) (i : Leaf) (ta : Nat) (id : Nat) (base : Nat) (ent : Nat) (deficit : Nat),
      s.on .BGHT_LEAF_EN n i = true ∧ r.leaves = [⟨n.val, i.val, 2, ta, id, base, ent, deficit⟩]) ∧
    (∃ (r : Restored) (n : Line) (p : Nat), r.periods = [(n.val, p)]) := ⟨
    ⟨up, false, by decide +kernel⟩,
    ⟨{ ({ ((((up.wr .LNYD_STAT_PART_CLAIMS 1).wr .TOP_MODE_STAT_MATE_ACTIVE 1).wr .LNYD_CLAIM_CLAIM_EN 1).wr .LNYD_STAT_GATES_OPEN 0) with boot := { up.boot with rootLocked := true, shutdown := false } }) with lanyard := { up.lanyard with latest := some ⟨1, 0, [], []⟩ } },
      false, ⟨1, 0, [], []⟩, by decide +kernel⟩,
    ⟨{ ({ (((((up.wr .LNYD_STAT_PART_CLAIMS 1).wr .TOP_MODE_STAT_MATE_ACTIVE 1).wr .LNYD_CLAIM_CLAIM_EN 1).wr .LNYD_STAT_GATES_OPEN 0).wr .BCKT_REGION_RSTATE 2 0) with boot := { up.boot with rootLocked := true, shutdown := false } }) with lanyard := { up.lanyard with latest := none } },
      false, by decide +kernel⟩,
    ⟨{ ({ ((((up.wr .LNYD_STAT_PART_CLAIMS 1).wr .TOP_MODE_STAT_MATE_ACTIVE 1).wr .LNYD_CLAIM_CLAIM_EN 1).wr .LNYD_STAT_GATES_OPEN 0) with boot := { up.boot with rootLocked := true, shutdown := false } }) with lanyard := { up.lanyard with latest := none } },
      false, by decide +kernel⟩,
    ⟨up, 0, bits ((0 : BitVec 32)).toNat 23 8, by decide +kernel⟩,
    ⟨{ up with lanyard := { up.lanyard with frameRun := 0 } }, BitVec.ofNat 32 (claimFrame 5), 5, by decide +kernel⟩,
    ⟨{ up with lanyard := { up.lanyard with frameNum := 5, frameRun := 2, helloNum := some 4 } }, BitVec.ofNat 32 (claimFrame 5), 5, 4,
      by decide +kernel⟩,
    ⟨((((up.wr .TOP_MODE_STAT_MATE_ACTIVE 1).wr .LNYD_STAT_CLAIMING 1).wr .LNYD_STAT_PART_CLAIMS 1).wr .LNYD_CLAIM_CLAIM_NUM 5),
      by decide +kernel⟩,
    ⟨{ up with lanyard := { up.lanyard with takeover := some ⟨1, 0, [], []⟩ } }, ⟨1, 0, [], []⟩, by decide +kernel⟩,
    ⟨{ up with lanyard := { up.lanyard with takeover := none } }, by decide +kernel⟩,
    ⟨up.wr .BGHT_LEAF_EN 1 0 0, ⟨[⟨0, 0, 2, 5, 0, 0, 0, 0⟩], [], [], (0, 0), [], [], [], []⟩, 0, 0, 5, 0, 0, 0, 0, by decide +kernel⟩,
    ⟨⟨[], [], [], (0, 0), [], [], [], [(0, 7)]⟩, 0, 7, by decide +kernel⟩⟩

/-- Checkpoints. -/
theorem witness_Checkpoints :
    (∃ (s : State), s.alive 18 = true ∧ s.matActive = false) ∧
    (∃ (s : State) (sent : Bool), s.alive 18 = true ∧ s.matActive = true ∧ (s.lanyard.sending.isSome = true ∨ sent = false)) ∧
    (∃ (s : State) (sent : Bool), s.alive 18 = true ∧ s.matActive = true ∧ s.lanyard.sending = none ∧ sent = true ∧ s.linkState = 2) ∧
    (∃ (s : State) (sent : Bool), s.alive 18 = true ∧ s.matActive = true ∧ s.lanyard.sending = none ∧ sent = true ∧ s.linkState ≠ 2) ∧
    (∃ (s : State) (k : CkSet), s.alive 18 = true ∧ s.lanyard.own = some k ∧ s.matActive = true ∧ s.ckReady = true) ∧
    (∃ (s : State), s.alive 18 = true ∧ (s.matActive = false ∨ s.ckReady = false)) ∧
    (∃ (s : State) (p : List Byte) (bad : Bool), s.alive 18 = true ∧ s.linkState = 2 ∧ packetPayload p (s.packetBad bad) 3 = none) ∧
    (∃ (s : State) (p : List Byte) (bad : Bool) (b : List Byte), s.alive 18 = true ∧ s.linkState = 2 ∧
      packetPayload p (s.packetBad bad) 3 = some b ∧ bit (byteAt p 1) 0 = true ∧ s.lanyard.arriving.isSome = true) ∧
    (∃ (s : State) (p : List Byte) (bad : Bool) (b : List Byte) (a : CkRx), s.alive 18 = true ∧ s.linkState = 2 ∧
      packetPayload p (s.packetBad bad) 3 = some b ∧ bit (byteAt p 1) 0 = false ∧ s.lanyard.arriving = some a) ∧
    (∃ (s : State) (a : CkRx), s.alive 18 = true ∧ s.lanyard.arriving = some a ∧ s.ckCheck a ≠ 0) ∧
    (∃ (s : State) (a : CkRx), s.alive 18 = true ∧ s.lanyard.arriving = some a) ∧
    (∃ (s : State), s.alive 18 = true ∧ s.lanyard.arriving = none) ∧
    (∃ (s : State) (faulted : Bool) (k : CkSet) (d : List Byte), s.alive 18 = true ∧ s.lanyard.latest = some k ∧ s.mate = true ∧
      s.on .LNYD_STAT_GATES_OPEN = false ∧ s.lanyard.takeover = none ∧ d = padTo 32 (Config.stateDigest (Config.serviceState k.body)) ∧
      (faulted = true ∨ d ≠ k.digest)) ∧
    (∃ (s : State) (faulted : Bool) (k : CkSet) (d : List Byte), s.alive 18 = true ∧ s.lanyard.latest = some k ∧ s.mate = true ∧
      s.on .LNYD_STAT_GATES_OPEN = false ∧ s.lanyard.takeover = none ∧ d = padTo 32 (Config.stateDigest (Config.serviceState k.body)) ∧
      faulted = false ∧ d = k.digest) := ⟨
    ⟨up, by decide +kernel⟩,
    ⟨{ ((up.wr .TOP_MODE_STAT_MATE_ACTIVE 1).wr .LNYD_STAT_GATES_OPEN 1) with lanyard := { up.lanyard with sending := some 1 } }, false,
      by decide +kernel⟩,
    ⟨{ (((up.wr .TOP_MODE_STAT_MATE_ACTIVE 1).wr .LNYD_STAT_GATES_OPEN 1).wr .LNYD_STAT_LSTATE 2) with lanyard := { up.lanyard with sending := none } },
      true, by decide +kernel⟩,
    ⟨{ ((up.wr .TOP_MODE_STAT_MATE_ACTIVE 1).wr .LNYD_STAT_GATES_OPEN 1) with lanyard := { up.lanyard with sending := none } }, true,
      by decide +kernel⟩,
    ⟨{ (((up.wr .TOP_MODE_STAT_MATE_ACTIVE 1).wr .LNYD_STAT_GATES_OPEN 1).wr .BCKT_REGION_RSTATE 2 0) with lanyard := { up.lanyard with own := some (⟨1, 0, [], []⟩) } },
      ⟨1, 0, [], []⟩, by decide +kernel⟩,
    ⟨up, by decide +kernel⟩,
    ⟨up.wr .LNYD_STAT_LSTATE 2, [], false, by decide +kernel⟩,
    ⟨{ up.wr .LNYD_STAT_LSTATE 2 with lanyard := { up.lanyard with arriving := some ⟨[], false, false⟩ } },
      packet 3 1 (1 :: List.replicate 15 0), false, 1 :: List.replicate 15 0, by decide +kernel⟩,
    ⟨{ up.wr .LNYD_STAT_LSTATE 2 with lanyard := { up.lanyard with arriving := some ⟨[], false, false⟩ } },
      packet 3 0 (1 :: List.replicate 15 0), false, 1 :: List.replicate 15 0, ⟨[], false, false⟩, by decide +kernel⟩,
    ⟨{ up with lanyard := { up.lanyard with arriving := some (⟨[], false, false⟩) } }, ⟨[], false, false⟩, by decide +kernel⟩,
    ⟨{ up with lanyard := { up.lanyard with arriving := some (⟨[], false, false⟩) } }, ⟨[], false, false⟩, by decide +kernel⟩,
    ⟨{ up with lanyard := { up.lanyard with arriving := none } }, by decide +kernel⟩,
    ⟨{ ((up.wr .TOP_MODE_STAT_MATE_ACTIVE 1).wr .LNYD_STAT_GATES_OPEN 0) with lanyard := { up.lanyard with latest := some (⟨1, 0, [], []⟩), takeover := none } },
      true, ⟨1, 0, [], []⟩, padTo 32 (Config.stateDigest (Config.serviceState ((⟨1, 0, [], []⟩ : CkSet)).body)), ⟨by decide +kernel,
      by decide +kernel, by decide +kernel, by decide +kernel, by decide +kernel, rfl, .inl rfl⟩⟩,
    ⟨{ ((up.wr .TOP_MODE_STAT_MATE_ACTIVE 1).wr .LNYD_STAT_GATES_OPEN 0) with lanyard := { up.lanyard with latest := some ⟨1, 0, padTo 32 (Config.stateDigest (Config.serviceState [])), []⟩, takeover := none } },
      false, ⟨1, 0, padTo 32 (Config.stateDigest (Config.serviceState [])), []⟩, padTo 32 (Config.stateDigest (Config.serviceState [])),
      ⟨by decide +kernel, rfl, by decide +kernel, by decide +kernel, by decide +kernel, rfl, rfl, rfl⟩⟩⟩

/-- ReferencesAndSelection. -/
theorem witness_ReferencesAndSelection :
    (∃ (s : State) (r : Ref), s.alive 5 = true ∧ s.rd .HLYD_REF_CFG_RANK r ≠ 0 ∧ s.rd .HLYD_REF_ST_RSTATE r ≠ 1 ∧ s.selRef = r.val ∧
      s.halyard.mode = 0) ∧
    (∃ (s : State) (r : Ref), s.alive 5 = true ∧ s.rd .HLYD_REF_CFG_RANK r ≠ 0 ∧ s.rd .HLYD_REF_ST_RSTATE r = 1 ∧ s.extFail r = false ∧
      (s.halRef r).rejected = false) ∧
    (∃ (s : State) (foffs : List Int) (r : Fin 9), s.alive 5 = true ∧ s.rd .HLYD_REF_CFG_RANK r ≠ 0 ∧
      s.rd .HLYD_REF_CFG_REJ r * 10 < (foffs.getD r 0).natAbs) ∧
    (∃ (s : State), s.alive 5 = true ∧ s.halyard.mode = 2 ∧ 0 ≤ s.halyard.ramp ∧ s.halyard.ramp < 100) ∧
    (∃ (s : State) (interval : Nat) (inside : Bool), s.alive 5 = true ∧
      (inside = true ↔ 1000000000 ≤ interval + s.rd .HLYD_TOD_CFG_PPS_TOL * 10 ∧
      interval ≤ 1000000000 + s.rd .HLYD_TOD_CFG_PPS_TOL * 10) ∧ inside = false ∧ 1 ≤ (s.halRef 9).bad ∧ s.rd .HLYD_REF_CFG_RANK 9 ≠ 0) ∧
    (∃ (s : State) (interval : Nat) (inside : Bool), s.alive 5 = true ∧
      (inside = true ↔ 1000000000 ≤ interval + s.rd .HLYD_TOD_CFG_PPS_TOL * 10 ∧
      interval ≤ 1000000000 + s.rd .HLYD_TOD_CFG_PPS_TOL * 10) ∧ inside = true ∧ 2 ≤ (s.halRef 9).good) ∧
    (∃ (s : State) (interval : Nat) (inside : Bool) (v : _), s.alive 5 = true ∧
      (inside = true ↔ 1000000000 ≤ interval + s.rd .HLYD_TOD_CFG_PPS_TOL * 10 ∧
      interval ≤ 1000000000 + s.rd .HLYD_TOD_CFG_PPS_TOL * 10) ∧ s.halyard.labelDue = true ∧ s.halyard.label = some v) ∧
    (∃ (s : State) (interval : Nat) (inside : Bool), s.alive 5 = true ∧
      (inside = true ↔ 1000000000 ≤ interval + s.rd .HLYD_TOD_CFG_PPS_TOL * 10 ∧
      interval ≤ 1000000000 + s.rd .HLYD_TOD_CFG_PPS_TOL * 10) ∧ s.halyard.labelDue = false) ∧
    (∃ (s : State) (r : Ref), s.alive 5 = true ∧ s.rd .HLYD_REF_ST_RSTATE r = 3) ∧
    (∃ (s : State) (r : Ref), s.alive 5 = true ∧ s.rd .HLYD_REF_ST_RSTATE r ≠ 3) ∧
    (∃ (s : State), s.alive 5 = true ∧ s.on .HLYD_STAT_SWITCHING = true) ∧
    (∃ (s : State), s.alive 5 = true ∧ s.on .HLYD_STAT_SWITCHING = false ∧ s.rd .HLYD_DPLL_CTL_MODE ≠ 0 ∧
      s.halyard.mode ≠ s.rd .HLYD_DPLL_CTL_MODE) ∧
    (∃ (s : State), s.alive 5 = true ∧ s.on .HLYD_STAT_SWITCHING = false ∧ s.rd .HLYD_DPLL_CTL_MODE = 0 ∧
      s.on .HLYD_SEL_CFG_REVERT = true) ∧
    (∃ (s : State), s.alive 5 = true) ∧
    (∃ (s : State), s.alive 5 = true ∧ s.rd .HLYD_STAT_STATE = 1 ∧ 500000 < s.freq.natAbs) ∧
    (∃ (s : State), s.alive 5 = true ∧ s.rd .HLYD_STAT_STATE ≠ 1) ∧
    (∃ (s : State), s.alive 5 = true ∧ s.rd .HLYD_STAT_STATE = 3 ∧ s.halyard.mode ≠ 3 ∧ s.rd .HLYD_SEL_CFG_HO_MAX ≠ 0 ∧
      s.rd .HLYD_SEL_CFG_HO_MAX * 60 ≤ s.rd .HLYD_STAT_HO_AGE) ∧
    (∃ (s : State), s.alive 5 = true ∧ s.rd .HLYD_STAT_STATE = 3 ∧ s.halyard.mode ≠ 3 ∧
      (s.rd .HLYD_SEL_CFG_HO_MAX = 0 ∨ s.rd .HLYD_STAT_HO_AGE < s.rd .HLYD_SEL_CFG_HO_MAX * 60)) ∧
    (∃ (s : State) (rank : Nat) (r : _), s.alive 5 = true ∧ (∃ d ∈ s.halyard.disputes, d.1 = rank) ∧ r ∈ s.rankGroup rank) ∧
    (∃ (s : State) (rank : Nat), s.alive 5 = true ∧ (∀ d ∈ s.halyard.disputes, d.1 ≠ rank)) := ⟨
    ⟨{ ((up.wr .HLYD_REF_CFG_RANK 1 0).wr .HLYD_STAT_SEL_REF 0) with halyard := { up.halyard with mode := 0 } }, 0, by decide +kernel⟩,
    ⟨((up.wr .HLYD_REF_CFG_RANK 1 7).wr .HLYD_REF_ST_RSTATE 1 7).setHalRef 7 { rejected := false }, 7, by decide +kernel⟩,
    ⟨up.wr .HLYD_REF_CFG_RANK 1 0, [5000], 0, by decide +kernel⟩,
    ⟨{ up with halyard := { up.halyard with mode := 2, ramp := 0 } }, by decide +kernel⟩,
    ⟨(up.wr .HLYD_REF_CFG_RANK 1 9).setHalRef 9 { bad := 1 }, 0, false, by decide +kernel⟩,
    ⟨up.setHalRef 9 { good := 2 }, 1000000000, true, by decide +kernel⟩,
    ⟨{ up with halyard := { up.halyard with labelDue := true, label := some (0) } }, 0,
      true ↔ 1000000000 ≤ ((0 : Nat)) + ({ up with halyard := { up.halyard with labelDue := true, label := some (0) } }).rd .HLYD_TOD_CFG_PPS_TOL * 10 ∧
      ((0 : Nat)) ≤ 1000000000 + ({ up with halyard := { up.halyard with labelDue := true, label := some (0) } }).rd .HLYD_TOD_CFG_PPS_TOL * 10,
      0, by decide +kernel⟩,
    ⟨{ up with halyard := { up.halyard with labelDue := false } }, 0,
      true ↔ 1000000000 ≤ ((0 : Nat)) + ({ up with halyard := { up.halyard with labelDue := false } }).rd .HLYD_TOD_CFG_PPS_TOL * 10 ∧
      ((0 : Nat)) ≤ 1000000000 + ({ up with halyard := { up.halyard with labelDue := false } }).rd .HLYD_TOD_CFG_PPS_TOL * 10,
      by decide +kernel⟩,
    ⟨up.wr .HLYD_REF_ST_RSTATE 3 0, 0, by decide +kernel⟩,
    ⟨up, 0, by decide +kernel⟩,
    ⟨up.wr .HLYD_STAT_SWITCHING 1, by decide +kernel⟩,
    ⟨(up.wr .HLYD_STAT_SWITCHING 0).wr .HLYD_DPLL_CTL_MODE 1, by decide +kernel⟩,
    ⟨((up.wr .HLYD_STAT_SWITCHING 0).wr .HLYD_DPLL_CTL_MODE 0).wr .HLYD_SEL_CFG_REVERT 1, by decide +kernel⟩,
    ⟨up.wr .HLYD_STAT_SEL_REF 0, by decide +kernel⟩,
    ⟨(up.wr .HLYD_STAT_STATE 1).wr .HLYD_HO_FREQ 500001, by decide +kernel⟩,
    ⟨up, by decide +kernel⟩,
    ⟨((up.wr .HLYD_STAT_STATE 3).wr .HLYD_SEL_CFG_HO_MAX 1).wr .HLYD_STAT_HO_AGE 60, by decide +kernel⟩,
    ⟨(up.wr .HLYD_STAT_STATE 3).wr .HLYD_STAT_HO_AGE 60, by decide +kernel⟩,
    ⟨{ (up.wr .HLYD_REF_ST_RSTATE 4 0) with halyard := { up.halyard with disputes := [(0, 0)] } }, 0, 0, by decide +kernel⟩,
    ⟨up, 0, by decide +kernel⟩⟩

/-- LoopStepsAndTime. -/
theorem witness_LoopStepsAndTime :
    (∃ (s : State) (req : Requester) (i : Instr) (m : Nat), s.mayWrite req 5 1 0 ∧ (i, m) ∈ [(Instr.modeAutomatic req, 0),
      (.forcedHoldover req, 1), (.forcedFreeRun req, 2), (.softwareLoop req, 3)]) ∧
    (∃ (s : State) (req : Requester), s.mayWrite req 5 1 0) ∧
    (∃ (s : State) (req : Requester), s.mayWrite req 5 1 0 ∧ s.on .HLYD_PSTEP_BUSY = true) ∧
    (∃ (s : State) (req : Requester) (slewed : Bool) (amount : BitVec 40), s.mayWrite req 5 1 0 ∧ s.on .HLYD_PSTEP_BUSY = false ∧
      slewed = false ∧ 1000000 < (signed 40 amount.toNat).natAbs) ∧
    (∃ (s : State) (req : Requester) (slewed : Bool) (amount : BitVec 40), s.mayWrite req 5 1 0 ∧ s.on .HLYD_PSTEP_BUSY = false ∧
      (slewed = true ∨ (signed 40 amount.toNat).natAbs ≤ 1000000)) ∧
    (∃ (s : State), s.alive 5 = true ∧ s.on .HLYD_PSTEP_BUSY = true) ∧
    (∃ (s : State), s.alive 5 = true ∧ s.on .HLYD_PSTEP_BUSY = false) ∧
    (∃ (s : State) (m : List Byte) (v : Nat) (n : Nat), s.alive 5 = true ∧ v = leAt m 4 6 ∧
      n = (if s.halyard.label = some ((v + 2 ^ 48 - 1) % 2 ^ 48) then min 3 (s.halyard.agreeing + 1) else 1) ∧
      s.on .HLYD_TOD_CFG_TOD_SRC = false) ∧
    (∃ (s : State) (m : List Byte) (inWindow : Bool) (v : Nat) (n : Nat), s.alive 5 = true ∧ v = leAt m 4 6 ∧
      n = (if s.halyard.label = some ((v + 2 ^ 48 - 1) % 2 ^ 48) then min 3 (s.halyard.agreeing + 1) else 1) ∧
      s.on .HLYD_TOD_CFG_TOD_SRC = true ∧ (todMessageOk m && inWindow) = false) ∧
    (∃ (s : State) (m : List Byte) (inWindow : Bool) (v : Nat) (n : Nat), s.alive 5 = true ∧ v = leAt m 4 6 ∧
      n = (if s.halyard.label = some ((v + 2 ^ 48 - 1) % 2 ^ 48) then min 3 (s.halyard.agreeing + 1) else 1) ∧
      s.on .HLYD_TOD_CFG_TOD_SRC = true ∧ (todMessageOk m && inWindow) = true ∧ s.halyard.serialLoaded = false) ∧
    (∃ (s : State) (m : List Byte) (inWindow : Bool) (v : Nat) (n : Nat), s.alive 5 = true ∧ v = leAt m 4 6 ∧
      n = (if s.halyard.label = some ((v + 2 ^ 48 - 1) % 2 ^ 48) then min 3 (s.halyard.agreeing + 1) else 1) ∧
      s.on .HLYD_TOD_CFG_TOD_SRC = true ∧ (todMessageOk m && inWindow) = true ∧ s.halyard.serialLoaded = true ∧ v = (s.tod + 1) % 2 ^ 48) ∧
    (∃ (s : State) (m : List Byte) (inWindow : Bool) (v : Nat) (n : Nat), s.alive 5 = true ∧ v = leAt m 4 6 ∧
      n = (if s.halyard.label = some ((v + 2 ^ 48 - 1) % 2 ^ 48) then min 3 (s.halyard.agreeing + 1) else 1) ∧
      s.on .HLYD_TOD_CFG_TOD_SRC = true ∧ (todMessageOk m && inWindow) = true ∧ s.halyard.serialLoaded = true ∧ v ≠ (s.tod + 1) % 2 ^ 48) := ⟨
    ⟨up, .host 0, .modeAutomatic (.host 0), 0, by unfold State.mayWrite; decide +kernel⟩,
    ⟨up, .host 0, by unfold State.mayWrite; decide +kernel⟩,
    ⟨up.wr .HLYD_PSTEP_BUSY 1, .host 0, by unfold State.mayWrite; decide +kernel⟩,
    ⟨up.wr .HLYD_PSTEP_BUSY 0, .host 0, false, 1000001, by unfold State.mayWrite; decide +kernel⟩,
    ⟨up.wr .HLYD_PSTEP_BUSY 0, .host 0, true ∨ (signed 40 ((0 : BitVec 40)).toNat).natAbs ≤ 1000000, 0,
      by unfold State.mayWrite; decide +kernel⟩,
    ⟨up.wr .HLYD_PSTEP_BUSY 1, by decide +kernel⟩,
    ⟨up.wr .HLYD_PSTEP_BUSY 0, by decide +kernel⟩,
    ⟨up.wr .HLYD_TOD_CFG_TOD_SRC 0, [], leAt (([] : List Byte)) 4 6,
      (if (up.wr .HLYD_TOD_CFG_TOD_SRC 0).halyard.label = some ((((leAt (([] : List Byte)) 4 6 : Nat)) + 2 ^ 48 - 1) % 2 ^ 48) then min 3 ((up.wr .HLYD_TOD_CFG_TOD_SRC 0).halyard.agreeing + 1) else 1),
      by decide +kernel⟩,
    ⟨up.wr .HLYD_TOD_CFG_TOD_SRC 1, [], false, leAt (([] : List Byte)) 4 6,
      (if (up.wr .HLYD_TOD_CFG_TOD_SRC 1).halyard.label = some ((((leAt (([] : List Byte)) 4 6 : Nat)) + 2 ^ 48 - 1) % 2 ^ 48) then min 3 ((up.wr .HLYD_TOD_CFG_TOD_SRC 1).halyard.agreeing + 1) else 1),
      by decide +kernel⟩,
    ⟨{ (up.wr .HLYD_TOD_CFG_TOD_SRC 1) with halyard := { up.halyard with serialLoaded := false } }, [0x51, 0x54, 1, 1, 0, 0, 0, 0, 0, 0,
      0, 0, 0, 0] ++ leBytes 2 (crc16 [0x51, 0x54, 1, 1, 0, 0, 0, 0, 0, 0, 0, 0, 0, 0]), true, leAt (([0x51, 0x54, 1, 1, 0, 0, 0, 0, 0, 0,
      0, 0, 0, 0] ++ leBytes 2 (crc16 [0x51, 0x54, 1, 1, 0, 0, 0, 0, 0, 0, 0, 0, 0, 0]) : List Byte)) 4 6,
      (if ({ (up.wr .HLYD_TOD_CFG_TOD_SRC 1) with halyard := { up.halyard with serialLoaded := false } }).halyard.label = some ((((leAt (([0x51,
      0x54, 1, 1, 0, 0, 0, 0, 0, 0, 0, 0, 0, 0] ++ leBytes 2 (crc16 [0x51, 0x54, 1, 1, 0, 0, 0, 0, 0, 0, 0, 0, 0,
      0]) : List Byte)) 4 6 : Nat)) + 2 ^ 48 - 1) % 2 ^ 48) then min 3 (({ (up.wr .HLYD_TOD_CFG_TOD_SRC 1) with halyard := { up.halyard with serialLoaded := false } }).halyard.agreeing + 1) else 1),
      by decide +kernel⟩,
    ⟨{ (up.wr .HLYD_TOD_CFG_TOD_SRC 1) with halyard := { up.halyard with serialLoaded := true } }, [0x51, 0x54, 1, 1, 1, 0, 0, 0, 0, 0, 0,
      0, 0, 0] ++ leBytes 2 (crc16 [0x51, 0x54, 1, 1, 1, 0, 0, 0, 0, 0, 0, 0, 0, 0]), true, 1,
      (if ({ (up.wr .HLYD_TOD_CFG_TOD_SRC 1) with halyard := { up.halyard with serialLoaded := true } }).halyard.label = some ((((1 : Nat)) + 2 ^ 48 - 1) % 2 ^ 48) then min 3 (({ (up.wr .HLYD_TOD_CFG_TOD_SRC 1) with halyard := { up.halyard with serialLoaded := true } }).halyard.agreeing + 1) else 1),
      by decide +kernel⟩,
    ⟨{ (up.wr .HLYD_TOD_CFG_TOD_SRC 1) with halyard := { up.halyard with serialLoaded := true } }, [0x51, 0x54, 1, 1, 0, 0, 0, 0, 0, 0, 0,
      0, 0, 0] ++ leBytes 2 (crc16 [0x51, 0x54, 1, 1, 0, 0, 0, 0, 0, 0, 0, 0, 0, 0]), true, 0,
      (if ({ (up.wr .HLYD_TOD_CFG_TOD_SRC 1) with halyard := { up.halyard with serialLoaded := true } }).halyard.label = some ((((0 : Nat)) + 2 ^ 48 - 1) % 2 ^ 48) then min 3 (({ (up.wr .HLYD_TOD_CFG_TOD_SRC 1) with halyard := { up.halyard with serialLoaded := true } }).halyard.agreeing + 1) else 1),
      by decide +kernel⟩⟩

/-- GrantsVoltageAndFeeds. -/
theorem witness_GrantsVoltageAndFeeds :
    (∃ (s : State) (l : List SubDemand) (level : Nat) (est : Nat), s.alive 6 = true ∧ s.computeGrants = (l, level, est) ∧
      s.on .BLAY_STAT_OVER_FLOOR = false ∧ s.usablePower < s.floorUnits (byMargin s.subLoads)) ∧
    (∃ (s : State) (l : List SubDemand) (level : Nat) (est : Nat) (x : SubDemand), s.alive 6 = true ∧ s.computeGrants = (l, level, est) ∧
      x ∈ l ∧ x.guarded = true) ∧
    (∃ (s : State) (l : List SubDemand) (level : Nat) (est : Nat) (x : SubDemand), s.alive 6 = true ∧ s.computeGrants = (l, level, est) ∧
      x ∈ l) ∧
    (∃ (s : State) (l : List SubDemand) (level : Nat) (est : Nat), s.alive 6 = true ∧ s.computeGrants = (l, level, est) ∧
      s.rd .BLAY_STAT_SUPPLY = 0 ∧ s.floorUnits (byMargin s.subLoads) ≤ s.usablePower) ∧
    (∃ (s : State) (iout : Option (BitVec 16)), s.alive 6 = true ∧ iout = none) ∧
    (∃ (s : State) (iout : Option (BitVec 16)) (i : _), s.alive 6 = true ∧ iout = some i ∧ 384 ≤ s.rd .BLAY_AVS_ST_CAL_GAIN ∧
      s.rd .BLAY_AVS_ST_CAL_GAIN ≤ 768) ∧
    (∃ (s : State) (slack : Int) (low : Nat), s.alive 6 = true ∧ low = 10 * (s.rd .BLAY_AVS_CFG_VMIN + s.rd .TALY_AGE_ST_AGE_OFS) ∧
      (s.rd .BLAY_AVS_CFG_SLACK_LO : Int) ≤ slack) ∧
    (∃ (s : State) (slack : Int) (ack : Bool) (low : Nat), s.alive 6 = true ∧
      low = 10 * (s.rd .BLAY_AVS_CFG_VMIN + s.rd .TALY_AGE_ST_AGE_OFS) ∧ slack < s.rd .BLAY_AVS_CFG_SLACK_LO ∧ ack = true) ∧
    (∃ (s : State) (slack : Int) (ack : Bool) (low : Nat), s.alive 6 = true ∧
      low = 10 * (s.rd .BLAY_AVS_CFG_VMIN + s.rd .TALY_AGE_ST_AGE_OFS) ∧ slack < s.rd .BLAY_AVS_CFG_SLACK_LO ∧ ack = false ∧
      s.on .BLAY_AVS_ST_AVS_FAULT = false) ∧
    (∃ (s : State) (slack : Int) (low : Nat), s.alive 6 = true ∧ low = 10 * (s.rd .BLAY_AVS_CFG_VMIN + s.rd .TALY_AGE_ST_AGE_OFS) ∧
      slack ≤ s.rd .BLAY_AVS_CFG_SLACK_HI) ∧
    (∃ (s : State) (slack : Int) (ack : Bool) (low : Nat), s.alive 6 = true ∧
      low = 10 * (s.rd .BLAY_AVS_CFG_VMIN + s.rd .TALY_AGE_ST_AGE_OFS) ∧ (s.rd .BLAY_AVS_CFG_SLACK_HI : Int) < slack ∧ ack = true) ∧
    (∃ (s : State) (share : Fin 101) (inside : Bool), (inside = true ↔ 100 - s.rd .BLAY_SUP_CFG_SHARE_LIM ≤ share.val ∧
      share.val ≤ s.rd .BLAY_SUP_CFG_SHARE_LIM) ∧ s.alive 6 = false) ∧
    (∃ (s : State) (share : Fin 101) (inside : Bool), (inside = true ↔ 100 - s.rd .BLAY_SUP_CFG_SHARE_LIM ≤ share.val ∧
      share.val ≤ s.rd .BLAY_SUP_CFG_SHARE_LIM) ∧ s.alive 6 = true ∧ inside = true) ∧
    (∃ (s : State) (share : Fin 101) (long : Bool) (inside : Bool), (inside = true ↔ 100 - s.rd .BLAY_SUP_CFG_SHARE_LIM ≤ share.val ∧
      share.val ≤ s.rd .BLAY_SUP_CFG_SHARE_LIM) ∧ s.alive 6 = true ∧ inside = false ∧ long = true ∧ s.on .BLAY_AON_ST_SHARE_BAD = false) ∧
    (∃ (s : State), s.alive 6 = true) ∧
    (∃ (s : State), s.alive 6 = true ∧ s.rd .BLAY_SUP_CFG_HOLD_H = 0) ∧
    (∃ (s : State), s.alive 6 = true ∧ s.rd .BLAY_SUP_CFG_HOLD_H ≠ 0 ∧ s.rd .BLAY_STAT_SUPPLY = 0 ∧ s.on .MRLN_TRIPLE_ST_ACTIVE = false ∧
      s.on .BLAY_AON_ST_B_OK = true) ∧
    (∃ (s : State), s.alive 6 = true ∧ s.rd .BLAY_SUP_CFG_HOLD_H ≠ 0 ∧ s.rd .BLAY_STAT_SUPPLY = 0 ∧ s.on .MRLN_TRIPLE_ST_ACTIVE = false ∧
      s.on .BLAY_AON_ST_A_OK = true ∧ s.on .BLAY_AON_ST_B_OK = true) ∧
    (∃ (s : State) (l : List SubDemand) (level : Nat) (est : Nat), s.alive 6 = true ∧ s.computeGrants = (l, level, est)) := ⟨
    ⟨((up.wr .BLAY_STAT_TJ 127).wr .BLAY_BUD_CFG_TJ_SLOPE 255).wr .BLAY_AVS_ST_SETPOINT 7000,
      (((up.wr .BLAY_STAT_TJ 127).wr .BLAY_BUD_CFG_TJ_SLOPE 255).wr .BLAY_AVS_ST_SETPOINT 7000).computeGrants.1,
      (((up.wr .BLAY_STAT_TJ 127).wr .BLAY_BUD_CFG_TJ_SLOPE 255).wr .BLAY_AVS_ST_SETPOINT 7000).computeGrants.2.1,
      (((up.wr .BLAY_STAT_TJ 127).wr .BLAY_BUD_CFG_TJ_SLOPE 255).wr .BLAY_AVS_ST_SETPOINT 7000).computeGrants.2.2, ⟨by decide +kernel,
      grants_eta _, by decide +kernel, by rw [floor_at _ _ 7000 scale_at (by decide +kernel) (by decide +kernel)]; decide +kernel⟩⟩,
    ⟨(((up.wr .TOP_MODE_STAT_L0_MODE 1).wr .SPLC_SC_CFG_WIDTH 1 0 0).wr .BLAY_STAT_SUPPLY 1).wr .BLAY_LINE_CFG_PROT_FORCE 1 0,
      ((((up.wr .TOP_MODE_STAT_L0_MODE 1).wr .SPLC_SC_CFG_WIDTH 1 0 0).wr .BLAY_STAT_SUPPLY 1).wr .BLAY_LINE_CFG_PROT_FORCE 1 0).computeGrants.1,
      ((((up.wr .TOP_MODE_STAT_L0_MODE 1).wr .SPLC_SC_CFG_WIDTH 1 0 0).wr .BLAY_STAT_SUPPLY 1).wr .BLAY_LINE_CFG_PROT_FORCE 1 0).computeGrants.2.1,
      ((((up.wr .TOP_MODE_STAT_L0_MODE 1).wr .SPLC_SC_CFG_WIDTH 1 0 0).wr .BLAY_STAT_SUPPLY 1).wr .BLAY_LINE_CFG_PROT_FORCE 1 0).computeGrants.2.2,
      ⟨0, 0, 1, true, 0, 4, 16, 8, 7, 16, 7⟩, ⟨by decide +kernel, grants_eta _, by decide +kernel, by decide +kernel⟩⟩,
    ⟨((up.wr .TOP_MODE_STAT_L0_MODE 1).wr .SPLC_SC_CFG_WIDTH 1 0 0).wr .BLAY_STAT_SUPPLY 1,
      (((up.wr .TOP_MODE_STAT_L0_MODE 1).wr .SPLC_SC_CFG_WIDTH 1 0 0).wr .BLAY_STAT_SUPPLY 1).computeGrants.1,
      (((up.wr .TOP_MODE_STAT_L0_MODE 1).wr .SPLC_SC_CFG_WIDTH 1 0 0).wr .BLAY_STAT_SUPPLY 1).computeGrants.2.1,
      (((up.wr .TOP_MODE_STAT_L0_MODE 1).wr .SPLC_SC_CFG_WIDTH 1 0 0).wr .BLAY_STAT_SUPPLY 1).computeGrants.2.2, ⟨0, 0, 1, false, 0, 4,
      16, 8, 7, 4, 7⟩, ⟨by decide +kernel, grants_eta _, by decide +kernel⟩⟩,
    ⟨up.wr .BLAY_AVS_ST_SETPOINT 7000, (up.wr .BLAY_AVS_ST_SETPOINT 7000).computeGrants.1,
      (up.wr .BLAY_AVS_ST_SETPOINT 7000).computeGrants.2.1, (up.wr .BLAY_AVS_ST_SETPOINT 7000).computeGrants.2.2, ⟨by decide +kernel,
      grants_eta _, by decide +kernel, by rw [floor_at _ _ 7000 scale_at (by decide +kernel) (by decide +kernel)]; decide +kernel⟩⟩,
    ⟨up, none, by decide +kernel⟩,
    ⟨up.wr .BLAY_AVS_ST_CAL_GAIN 384, some (0), 0, by decide +kernel⟩,
    ⟨up, 1000, 10 * ((up).rd .BLAY_AVS_CFG_VMIN + (up).rd .TALY_AGE_ST_AGE_OFS), by decide +kernel⟩,
    ⟨up, 0, true, 10 * ((up).rd .BLAY_AVS_CFG_VMIN + (up).rd .TALY_AGE_ST_AGE_OFS), by decide +kernel⟩,
    ⟨up.wr .BLAY_AVS_ST_AVS_FAULT 0, 0, false,
      10 * ((up.wr .BLAY_AVS_ST_AVS_FAULT 0).rd .BLAY_AVS_CFG_VMIN + (up.wr .BLAY_AVS_ST_AVS_FAULT 0).rd .TALY_AGE_ST_AGE_OFS),
      by decide +kernel⟩,
    ⟨up, 0, 10 * ((up).rd .BLAY_AVS_CFG_VMIN + (up).rd .TALY_AGE_ST_AGE_OFS), by decide +kernel⟩,
    ⟨up, 1000, true, 10 * ((up).rd .BLAY_AVS_CFG_VMIN + (up).rd .TALY_AGE_ST_AGE_OFS), by decide +kernel⟩,
    ⟨State.reset, 50, true, by decide +kernel⟩,
    ⟨up, 50, true, by decide +kernel⟩,
    ⟨up.wr .BLAY_AON_ST_SHARE_BAD 0, 0, true,
      decide (100 - (up.wr .BLAY_AON_ST_SHARE_BAD 0).rd .BLAY_SUP_CFG_SHARE_LIM ≤ ((0 : Fin 101)).val ∧
      ((0 : Fin 101)).val ≤ (up.wr .BLAY_AON_ST_SHARE_BAD 0).rd .BLAY_SUP_CFG_SHARE_LIM), by decide +kernel⟩,
    ⟨up, by decide +kernel⟩,
    ⟨up.wr .BLAY_SUP_CFG_HOLD_H 0, by decide +kernel⟩,
    ⟨(((up.wr .BLAY_SUP_CFG_HOLD_H 1).wr .BLAY_STAT_SUPPLY 0).wr .MRLN_TRIPLE_ST_ACTIVE 0).wr .BLAY_AON_ST_B_OK 1, by decide +kernel⟩,
    ⟨((((up.wr .BLAY_SUP_CFG_HOLD_H 1).wr .BLAY_STAT_SUPPLY 0).wr .MRLN_TRIPLE_ST_ACTIVE 0).wr .BLAY_AON_ST_A_OK 1).wr .BLAY_AON_ST_B_OK 1,
      by decide +kernel⟩,
    by
      obtain ⟨l, v, e, h⟩ := grants_exist up
      exact ⟨up, l, v, e, by decide +kernel, h⟩⟩

/-- AgeingMeasuredAndReplanned. -/
theorem witness_AgeingMeasuredAndReplanned :
    (∃ (s : State) (now : List (BitVec 16)), s.alive 7 = true ∧ now.length = 128) ∧
    (∃ (s : State), s.alive 7 = true ∧
      (s.on .TALY_AGE_CFG_REPLAN_EN = false ∨ s.on .MRLN_NV_ST_NV_INHIBIT = true ∨ s.boot.shutdown = true ∨ s.on .MRLN_TRIPLE_ST_ACTIVE = true ∨ s.svcRuns 6 = false)) ∧
    (∃ (s : State), s.alive 7 = true ∧ s.on .TALY_AGE_CFG_REPLAN_EN = true ∧ s.on .MRLN_NV_ST_NV_INHIBIT = false ∧
      s.boot.shutdown = false ∧ s.on .MRLN_TRIPLE_ST_ACTIVE = false ∧ s.svcRuns 6 = true ∧ s.journalBlocked = true) ∧
    (∃ (s : State), s.alive 7 = true ∧ s.on .TALY_AGE_CFG_REPLAN_EN = true ∧ s.on .MRLN_NV_ST_NV_INHIBIT = false ∧
      s.boot.shutdown = false ∧ s.on .MRLN_TRIPLE_ST_ACTIVE = false ∧ s.svcRuns 6 = true ∧ s.journalBlocked = false) ∧
    (∃ (s : State) (n : Line), s.alive 7 = true ∧ s.on .TALY_AGE_CFG_REPLAN_EN = true ∧ s.on .MRLN_NV_ST_NV_INHIBIT = false ∧
      s.boot.shutdown = false ∧ s.on .MRLN_TRIPLE_ST_ACTIVE = false ∧ s.svcRuns 6 = true ∧ s.on .MRLN_NV_ST_HOLD_ACTIVE = false ∧
      s.journal.buffer.length + 5 ≤ 1024 ∧ s.rd .TALY_AGE_LINE_SNR_CONV n ≠ 255) ∧
    (∃ (s : State) (n : Line), s.alive 7 = true ∧ s.on .TALY_AGE_CFG_REPLAN_EN = true ∧ s.on .MRLN_NV_ST_NV_INHIBIT = false ∧
      s.boot.shutdown = false ∧ s.on .MRLN_TRIPLE_ST_ACTIVE = false ∧ s.svcRuns 6 = true ∧ s.rd .TALY_AGE_LINE_SNR_CONV n = 255) ∧
    (∃ (s : State), s.alive 7 = true ∧ s.on .TALY_AGE_CFG_REPLAN_EN = true ∧ s.on .MRLN_NV_ST_NV_INHIBIT = false ∧
      s.boot.shutdown = false ∧ s.on .MRLN_TRIPLE_ST_ACTIVE = false ∧ s.svcRuns 6 = true ∧ s.rd .BLAY_AVS_CFG_AGE_OFS_MAX < s.ofsTarget) := ⟨
    ⟨up, List.replicate 128 0, by decide +kernel⟩,
    ⟨up, by decide +kernel⟩,
    ⟨{ (((((up.wr .TALY_AGE_CFG_REPLAN_EN 1).wr .MRLN_NV_ST_NV_INHIBIT 0).wr .MRLN_TRIPLE_ST_ACTIVE 0).wr .MRLN_NV_ST_HOLD_ACTIVE 1).setSvc 6 { state := 1 }) with boot := { up.boot with shutdown := false } },
      by decide +kernel⟩,
    ⟨{ ((((up.wr .TALY_AGE_CFG_REPLAN_EN 1).wr .MRLN_NV_ST_NV_INHIBIT 0).wr .MRLN_TRIPLE_ST_ACTIVE 0).setSvc 6 { state := 1 }) with boot := { up.boot with shutdown := false } },
      by decide +kernel⟩,
    ⟨{ ((((((up.wr .TALY_AGE_CFG_REPLAN_EN 1).wr .MRLN_NV_ST_NV_INHIBIT 0).wr .MRLN_TRIPLE_ST_ACTIVE 0).wr .MRLN_NV_ST_HOLD_ACTIVE 0).wr .TALY_AGE_LINE_SNR_CONV 100 0).setSvc 6 { state := 1 }) with boot := { up.boot with shutdown := false } },
      0, by decide +kernel⟩,
    ⟨{ (((((up.wr .TALY_AGE_CFG_REPLAN_EN 1).wr .MRLN_NV_ST_NV_INHIBIT 0).wr .MRLN_TRIPLE_ST_ACTIVE 0).wr .TALY_AGE_LINE_SNR_CONV 255 0).setSvc 6 { state := 1 }) with boot := { up.boot with shutdown := false } },
      0, by decide +kernel⟩,
    ⟨{ ((((((up.wr .TALY_AGE_CFG_REPLAN_EN 1).wr .MRLN_NV_ST_NV_INHIBIT 0).wr .MRLN_TRIPLE_ST_ACTIVE 0).wr .TALY_AGE_ST_DRIFT 60000).wr .TALY_AGE_CFG_KV 100).setSvc 6 { state := 1 }) with boot := { up.boot with shutdown := false } },
      by decide +kernel⟩⟩

/-- MonitorSequencesAndSensors. -/
theorem witness_MonitorSequencesAndSensors :
    (∃ (s : State) (req : Requester), s.mayWrite req 7 1 0 ∧ (s.rd .TALY_MON_CFG_TRIG_EN).testBit 0 = true ∧
      s.on .TALY_MON_ST_RUNNING = false) ∧
    (∃ (s : State) (req : Requester), s.mayWrite req 7 1 0 ∧ (s.rd .TALY_MON_CFG_TRIG_EN).testBit 0 = true ∧
      s.on .TALY_MON_ST_RUNNING = true ∧ s.on .TALY_MON_ST_PENDING = true) ∧
    (∃ (s : State), s.alive 7 = true ∧ (s.rd .TALY_MON_CFG_PERIOD = 0 ∨ (s.rd .TALY_MON_CFG_TRIG_EN).testBit 1 = false)) ∧
    (∃ (s : State), s.alive 7 = true ∧ s.rd .TALY_MON_CFG_PERIOD ≠ 0 ∧ (s.rd .TALY_MON_CFG_TRIG_EN).testBit 1 = true ∧
      s.on .TALY_MON_ST_RUNNING = true) ∧
    (∃ (s : State) (e : Nat) (step : Nat) (c : Fin 4), s.alive 7 = true ∧ s.on .TALY_MON_ST_RUNNING = true ∧ s.tally.due = none ∧
      e = s.rd .TALY_MON_ST_ENTRY ∧ step = s.reg .TALY_SEQ e ∧ bit step (20 + c.val) = true) ∧
    (∃ (s : State) (e : Nat) (step : Nat) (c : Fin 4), s.alive 7 = true ∧ s.on .TALY_MON_ST_RUNNING = true ∧ s.tally.due = none ∧
      e = s.rd .TALY_MON_ST_ENTRY ∧ step = s.reg .TALY_SEQ e ∧ bit step (20 + c.val) = false) ∧
    (∃ (s : State) (e : Nat) (step : Nat), s.alive 7 = true ∧ s.on .TALY_MON_ST_RUNNING = true ∧ s.tally.due = none ∧
      e = s.rd .TALY_MON_ST_ENTRY ∧ step = s.reg .TALY_SEQ e ∧ bit step 27 = false ∧ e ≠ 31) ∧
    (∃ (s : State) (e : Nat) (step : Nat), s.alive 7 = true ∧ s.on .TALY_MON_ST_RUNNING = true ∧ s.tally.due = none ∧
      e = s.rd .TALY_MON_ST_ENTRY ∧ step = s.reg .TALY_SEQ e ∧ (bit step 27 = true ∨ e = 31) ∧ s.on .TALY_MON_ST_PENDING = false) ∧
    (∃ (s : State) (e : Nat) (step : Nat), s.alive 7 = true ∧ s.on .TALY_MON_ST_RUNNING = true ∧ s.tally.due = none ∧
      e = s.rd .TALY_MON_ST_ENTRY ∧ step = s.reg .TALY_SEQ e ∧ (bit step 27 = true ∨ e = 31) ∧ s.on .TALY_MON_ST_PENDING = true) ∧
    (∃ (s : State) (l : RegStore), s.alive 7 = true ∧ s.on .TALY_MON_ST_RUNNING = true ∧ s.tally.due = some l ∧
      bit (s.reg .TALY_SEQ (s.rd .TALY_MON_ST_ENTRY)) 27 = true) ∧
    (∃ (s : State) (req : Requester), s.mayWrite req 7 1 0 ∧ s.tally.urgent = none) ∧
    (∃ (s : State) (req : Requester), s.mayWrite req 7 1 0 ∧ s.tally.urgent.isSome = true) ∧
    (∃ (s : State) (h : Nat) (c : Cmd), s.ready 7 0x0805 h c ∧ (bits (c.par 16 4) 31 27 ≠ 0 ∨ badStep (c.par 16 4) = true)) ∧
    (∃ (s : State) (h : Nat) (c : Cmd), s.ready 7 0x0805 h c ∧ bits (c.par 16 4) 31 27 = 0 ∧ badStep (c.par 16 4) = false ∧
      s.tally.urgent.isSome = true) ∧
    (∃ (s : State) (h : Nat) (c : Cmd), s.ready 7 0x0805 h c ∧ bits (c.par 16 4) 31 27 = 0 ∧ badStep (c.par 16 4) = false ∧
      s.tally.urgent = none) ∧
    (∃ (s : State) (u : UrgentStep) (c : Fin 4), s.alive 7 = true ∧ s.tally.urgent = some u ∧ bit u.step (20 + c.val) = true) ∧
    (∃ (s : State) (u : UrgentStep) (h : Nat) (c : Cmd), s.alive 7 = true ∧ s.tally.urgent = some u ∧ u.cmd = some h ∧ s.cmd h = some c ∧
      c.done = false ∧ c.started = true) ∧
    (∃ (s : State) (readings : List Int), s.alive 7 = true ∧ readings.length ≠ 16) ∧
    (∃ (s : State) (readings : List Int), s.alive 7 = true ∧ readings.length = 16 ∧ s.tally.fallback = false) ∧
    (∃ (s : State) (readings : List Int) (i : Fin 16), s.alive 7 = true ∧ readings.length = 16 ∧
      inSensorRange (readings.getD i 0) = false ∧ s.on .TALY_JS_EXCLUDED i = false) := ⟨
    ⟨(up.wr .TALY_MON_CFG_TRIG_EN 1).wr .TALY_MON_ST_RUNNING 0, .host 0, by unfold State.mayWrite; decide +kernel⟩,
    ⟨((up.wr .TALY_MON_CFG_TRIG_EN 1).wr .TALY_MON_ST_RUNNING 1).wr .TALY_MON_ST_PENDING 1, .host 0,
      by unfold State.mayWrite; decide +kernel⟩,
    ⟨up, by decide +kernel⟩,
    ⟨((up.wr .TALY_MON_CFG_PERIOD 1).wr .TALY_MON_CFG_TRIG_EN 2).wr .TALY_MON_ST_RUNNING 1, by decide +kernel⟩,
    ⟨{ ((up.wr .TALY_MON_ST_RUNNING 1).wr .TALY_SEQ_EN 1 0) with tally := { up.tally with due := none } },
      ({ ((up.wr .TALY_MON_ST_RUNNING 1).wr .TALY_SEQ_EN 1 0) with tally := { up.tally with due := none } }).rd .TALY_MON_ST_ENTRY,
      ({ ((up.wr .TALY_MON_ST_RUNNING 1).wr .TALY_SEQ_EN 1 0) with tally := { up.tally with due := none } }).reg .TALY_SEQ ((({ ((up.wr .TALY_MON_ST_RUNNING 1).wr .TALY_SEQ_EN 1 0) with tally := { up.tally with due := none } }).rd .TALY_MON_ST_ENTRY : Nat)),
      0, by decide +kernel⟩,
    ⟨{ (up.wr .TALY_MON_ST_RUNNING 1) with tally := { up.tally with due := none } },
      ({ (up.wr .TALY_MON_ST_RUNNING 1) with tally := { up.tally with due := none } }).rd .TALY_MON_ST_ENTRY,
      ({ (up.wr .TALY_MON_ST_RUNNING 1) with tally := { up.tally with due := none } }).reg .TALY_SEQ ((({ (up.wr .TALY_MON_ST_RUNNING 1) with tally := { up.tally with due := none } }).rd .TALY_MON_ST_ENTRY : Nat)),
      0, by decide +kernel⟩,
    ⟨{ (up.wr .TALY_MON_ST_RUNNING 1) with tally := { up.tally with due := none } },
      ({ (up.wr .TALY_MON_ST_RUNNING 1) with tally := { up.tally with due := none } }).rd .TALY_MON_ST_ENTRY,
      ({ (up.wr .TALY_MON_ST_RUNNING 1) with tally := { up.tally with due := none } }).reg .TALY_SEQ ((({ (up.wr .TALY_MON_ST_RUNNING 1) with tally := { up.tally with due := none } }).rd .TALY_MON_ST_ENTRY : Nat)),
      by decide +kernel⟩,
    ⟨{ (((up.wr .TALY_MON_ST_RUNNING 1).wr .TALY_MON_ST_PENDING 0).wr .TALY_SEQ_LAST 1 0) with tally := { up.tally with due := none } },
      ({ (((up.wr .TALY_MON_ST_RUNNING 1).wr .TALY_MON_ST_PENDING 0).wr .TALY_SEQ_LAST 1 0) with tally := { up.tally with due := none } }).rd .TALY_MON_ST_ENTRY,
      ({ (((up.wr .TALY_MON_ST_RUNNING 1).wr .TALY_MON_ST_PENDING 0).wr .TALY_SEQ_LAST 1 0) with tally := { up.tally with due := none } }).reg .TALY_SEQ ((({ (((up.wr .TALY_MON_ST_RUNNING 1).wr .TALY_MON_ST_PENDING 0).wr .TALY_SEQ_LAST 1 0) with tally := { up.tally with due := none } }).rd .TALY_MON_ST_ENTRY : Nat)),
      by decide +kernel⟩,
    ⟨{ (((up.wr .TALY_MON_ST_RUNNING 1).wr .TALY_MON_ST_PENDING 1).wr .TALY_SEQ_LAST 1 0) with tally := { up.tally with due := none } },
      ({ (((up.wr .TALY_MON_ST_RUNNING 1).wr .TALY_MON_ST_PENDING 1).wr .TALY_SEQ_LAST 1 0) with tally := { up.tally with due := none } }).rd .TALY_MON_ST_ENTRY,
      ({ (((up.wr .TALY_MON_ST_RUNNING 1).wr .TALY_MON_ST_PENDING 1).wr .TALY_SEQ_LAST 1 0) with tally := { up.tally with due := none } }).reg .TALY_SEQ ((({ (((up.wr .TALY_MON_ST_RUNNING 1).wr .TALY_MON_ST_PENDING 1).wr .TALY_SEQ_LAST 1 0) with tally := { up.tally with due := none } }).rd .TALY_MON_ST_ENTRY : Nat)),
      by decide +kernel⟩,
    ⟨{ ((up.wr .TALY_MON_ST_RUNNING 1).wr .TALY_SEQ_LAST 1 0) with tally := { up.tally with due := some ([]) } }, [], by decide +kernel⟩,
    ⟨{ up with tally := { up.tally with urgent := none } }, .host 0, by unfold State.mayWrite; decide +kernel⟩,
    ⟨{ up with tally := { up.tally with urgent := some ⟨0, none, 0⟩ } }, .host 0, by unfold State.mayWrite; decide +kernel⟩,
    ⟨given up (cmdFor 0x0805 0 [0, 0, 0, 248] []), 0, cmdFor 0x0805 0 [0, 0, 0, 248] [], by unfold State.ready; decide +kernel⟩,
    ⟨given ({ up with tally := { up.tally with urgent := some ⟨0, none, 0⟩ } }) (cmdFor 0x0805 0 [] []), 0, cmdFor 0x0805 0 [] [],
      by unfold State.ready; decide +kernel⟩,
    ⟨given ({ up with tally := { up.tally with urgent := none } }) (cmdFor 0x0805 0 [] []), 0, cmdFor 0x0805 0 [] [],
      by unfold State.ready; decide +kernel⟩,
    ⟨{ up with tally := { up.tally with urgent := some (⟨2 ^ 20, none, 0⟩) } }, ⟨2 ^ 20, none, 0⟩, 0, by decide +kernel⟩,
    ⟨{ given up { cmdFor 0x0502 0 [] [] with started := true } with tally := { up.tally with urgent := some ⟨2 ^ 20, some 0, 0⟩ } },
      ⟨2 ^ 20, some 0, 0⟩, 0, { cmdFor 0x0502 0 [] [] with started := true }, by decide +kernel⟩,
    ⟨up, [], by decide +kernel⟩,
    ⟨{ up with tally := { up.tally with fallback := false } }, List.replicate 16 0, by decide +kernel⟩,
    ⟨up.wr .TALY_JS_EXCLUDED 0 0, 2000 :: List.replicate 15 0, 0, by decide +kernel⟩⟩

/-- Snapshots. -/
theorem witness_Snapshots :
    (∃ (s : State) (h : Nat) (c : Cmd) (n : Line), s.ready 7 0x0801 h c ∧ c.line = n.val ∧
      (7 < c.par 17 1 ∨ 15 < c.par 18 1 ∨ 4 < c.par 19 1 ∨ c.par 20 4 % 4096 ≠ 0)) ∧
    (∃ (s : State) (h : Nat) (c : Cmd) (n : Line), s.ready 7 0x0801 h c ∧ c.line = n.val ∧ c.par 17 1 ≤ 7 ∧ c.par 18 1 ≤ 15 ∧
      c.par 19 1 ≤ 4 ∧ c.par 20 4 % 4096 = 0 ∧ c.par 20 4 + 3 * 0x401000 ≤ s.rd .BCKT_REGION_SIZE (c.par 16 1) * 2 ^ 24 ∧
      (s.lineMode n = 0 ∨ s.sstate n = 3 ∨ s.regionReady (c.par 16 1) = false)) ∧
    (∃ (s : State) (h : Nat) (c : Cmd) (n : Line), s.ready 7 0x0801 h c ∧ c.line = n.val ∧ c.par 17 1 ≤ 7 ∧ c.par 18 1 ≤ 15 ∧
      c.par 19 1 ≤ 4 ∧ c.par 20 4 % 4096 = 0 ∧ c.par 20 4 + 3 * 0x401000 ≤ s.rd .BCKT_REGION_SIZE (c.par 16 1) * 2 ^ 24 ∧
      s.lineMode n ≠ 0 ∧ s.sstate n ≠ 3 ∧ s.regionReady (c.par 16 1) = true) ∧
    (∃ (s : State) (h : Nat) (c : Cmd) (n : Line), s.ready 7 0x0802 h c ∧ c.line = n.val) ∧
    (∃ (s : State) (h : Nat) (c : Cmd), s.ready 7 0x0803 h c) ∧
    (∃ (s : State) (h : Nat) (c : Cmd) (n : Line), s.ready 7 0x0803 h c ∧ s.sstate n = 1) ∧
    (∃ (s : State) (h : Nat) (c : Cmd) (n : Line), s.ready 7 0x0803 h c ∧ s.sstate n ≠ 1) ∧
    (∃ (s : State) (n : Line) (m : Line), s.alive 7 = true ∧ s.sstate n = 1 ∧ (s.snap n).src ≠ 0 ∧ s.sstate m = 1) ∧
    (∃ (s : State) (n : Line) (m : Line), s.alive 7 = true ∧ s.sstate n = 1 ∧ (s.snap n).src ≠ 0 ∧ 2 ≤ s.sstate m) ∧
    (∃ (s : State) (n : Line), s.alive 7 = true ∧ (s.sstate n ≠ 1 ∨ (s.snap n).src = 0)) ∧
    (∃ (s : State) (n : Line), s.alive 7 = true ∧ s.sstate n = 2) ∧
    (∃ (s : State) (n : Line), s.alive 7 = true ∧ s.sstate n ≠ 2) ∧
    (∃ (s : State) (n : Line), s.alive 7 = true ∧ s.sstate n = 3 ∧ s.regionReady (s.rd .TALY_SNAP_ST_REGION n) = true) ∧
    (∃ (s : State) (n : Line), s.alive 7 = true ∧ (s.sstate n ≠ 3 ∨ s.regionReady (s.rd .TALY_SNAP_ST_REGION n) = false)) ∧
    (∃ (s : State) (n : Line), s.alive 7 = true ∧ s.sstate n = 3 ∧ (s.snap n).draining = true) ∧
    (∃ (s : State) (h : Nat) (c : Cmd) (n : Line), s.ready 7 0x0804 h c ∧ c.line = n.val) := ⟨
    ⟨given up (cmdFor 0x0801 0 [0, 8] []), 0, cmdFor 0x0801 0 [0, 8] [], 0, by unfold State.ready; decide +kernel⟩,
    ⟨given (up.wr .BCKT_REGION_SIZE 1 0) (cmdFor 0x0801 0 [0, 0, 0, 0, 0, 0, 0, 0] []), 0, cmdFor 0x0801 0 [0, 0, 0, 0, 0, 0, 0, 0] [], 0,
      by unfold State.ready; decide +kernel⟩,
    ⟨given (((((up.wr .TOP_MODE_STAT_L0_MODE 1).wr .BCKT_REGION_RSTATE 2 0).wr .BCKT_REGION_SIZE 1 0).wr .TOP_MODE_STAT_L0_MODE 1).wr .BCKT_REGION_RSTATE 2 0) (cmdFor 0x0801 0 [0,
      0, 0, 0, 0, 0, 0, 0] []), 0, cmdFor 0x0801 0 [0, 0, 0, 0, 0, 0, 0, 0] [], 0, by unfold State.ready; decide +kernel⟩,
    ⟨given up (cmdFor 0x0802 0 [] []), 0, cmdFor 0x0802 0 [] [], 0, by unfold State.ready; decide +kernel⟩,
    ⟨given up (cmdFor 0x0803 0 [] []), 0, cmdFor 0x0803 0 [] [], by unfold State.ready; decide +kernel⟩,
    ⟨given (up.wr .TALY_SNAP_ST_SSTATE 1 0) (cmdFor 0x0803 0 [] []), 0, cmdFor 0x0803 0 [] [], 0, by unfold State.ready; decide +kernel⟩,
    ⟨given up (cmdFor 0x0803 0 [] []), 0, cmdFor 0x0803 0 [] [], 0, by unfold State.ready; decide +kernel⟩,
    ⟨((up.wr .TALY_SNAP_ST_SSTATE 1 0).wr .TALY_SNAP_ST_SSTATE 1 0).setSnap 0 { src := 1 }, 0, 0, by decide +kernel⟩,
    ⟨(((up.wr .TALY_SNAP_ST_SSTATE 1 0).wr .TALY_SNAP_ST_SSTATE 2 1).wr .TALY_SNAP_ST_SSTATE 2 1).setSnap 0 { src := 1 }, 0, 1,
      by decide +kernel⟩,
    ⟨up, 0, by decide +kernel⟩,
    ⟨up.wr .TALY_SNAP_ST_SSTATE 2 0, 0, by decide +kernel⟩,
    ⟨up, 0, by decide +kernel⟩,
    ⟨(up.wr .TALY_SNAP_ST_SSTATE 3 0).wr .BCKT_REGION_RSTATE 2 0, 0, by decide +kernel⟩,
    ⟨up, 0, by decide +kernel⟩,
    ⟨(up.wr .TALY_SNAP_ST_SSTATE 3 0).setSnap 0 { draining := true }, 0, by decide +kernel⟩,
    ⟨given up (cmdFor 0x0804 0 [] []), 0, cmdFor 0x0804 0 [] [], 0, by unfold State.ready; decide +kernel⟩⟩

/-- SecondsPass. -/
theorem witness_SecondsPass :
    (∃ (s : State), s.alive 5 = false) ∧
    (∃ (s : State), s.alive 5 = true ∧ (s.on .HLYD_TOD_SET_ARM = false ∨ s.on .HLYD_TOD_CFG_TOD_SRC = true)) ∧
    (∃ (s : State), s.alive 5 = true ∧ s.on .HLYD_TOD_SET_ARM = true ∧ s.on .HLYD_TOD_CFG_TOD_SRC = false) ∧
    (∃ (s : State), s.alive 5 = true ∧ s.on .HLYD_TOD_CFG_PPS_EN = true ∧ s.drives (s.on .LNYD_GATE_G_PPS) = true) ∧
    (∃ (s : State), s.alive 5 = true) ∧
    (∃ (s : State), s.alive 5 = true ∧ 3 ≤ s.rd .HLYD_STAT_STATE) ∧
    (∃ (s : State), s.alive 6 = true) ∧
    (∃ (s : State), s.alive 7 = true) ∧
    (∃ (s : State), s.alive 15 = true) ∧
    (∃ (s : State), s.alive 17 = true) := ⟨
    ⟨State.reset, by decide +kernel⟩,
    ⟨up, by decide +kernel⟩,
    ⟨(up.wr .HLYD_TOD_SET_ARM 1).wr .HLYD_TOD_CFG_TOD_SRC 0, by decide +kernel⟩,
    ⟨up.wr .HLYD_TOD_CFG_PPS_EN 1, by decide +kernel⟩,
    ⟨up, by decide +kernel⟩,
    ⟨up.wr .HLYD_STAT_STATE 3, by decide +kernel⟩,
    ⟨up, by decide +kernel⟩,
    ⟨up, by decide +kernel⟩,
    ⟨up, by decide +kernel⟩,
    ⟨up, by decide +kernel⟩⟩

end Sys2Proof.Tests
end

section
/-! What each command can change: its footprint, in the numbering of Laws/Kept.lean, and the one theorem that ties exec to it; and the
frame of the shadow values and of the time of day that follows (R9, R326, R476, R510, R511). -/

namespace Sys2Proof.Machine

open Sys2Proof

/-- The footprint of a command: the registers and the parts of the state that it can change, by the bits of Laws/Kept.lean. -/
def footprint : Instr → Nat
  | .registerWrite _ _ _ _ => allRegs ||| 0x1FFFFFFBBF
  | .malformedAccess _ _ _ _ => 0x1B014D8888000040000000C00001A92
  | .lowHalfRead _ _ => 0x1B014D8888200040000000C00001A92
  | .highHalfRead _ _ => 0x1B014D8888200040000000C00001A92
  | .commit _ _ _ => allRegs ||| 0xD36FF389B
  | .fifoRecentre _ _ => 0x10000000000888000000000000C20800090
  | .loadingEvaluation _ => 0xC0000000000000000000000000888000000000000C00020090
  | .manGo _ _ => 0x40000000000000000000001010888000000000000C00020892
  | .mobReceived _ => 0xE03210148F0000000020004C0000000000000000000000000888080000000000C16862090
  | .armTimeout _ => 0xC0000000000000000000000000888000000000000C00020090
  | .countdownTick _ => 0x90000000000004C0000000000000000000000000888000000000000C00020090
  | .rxTableSwitch _ => 0xE032100001000000012000040000000000000000000000000888080000000000C06842090
  | .rxFallback _ => 0xE032100001000000002000040000000000000000000000000888080000000000C06842090
  | .forcedReversion _ => 0xC0000000000000000000000000888000000000000C00020090
  | .pdTableWrite _ _ _ _ _ _ => 0xC004000000000000000000001010888000040000000C00000892
  | .dacFgReq _ _ => 0x80000000000000000001010888000000000000C00000892
  | .dacFgCalDone _ _ _ _ => 0x440880000000000000000000000888004000000000C00030098
  | .dacBgCalUpdate _ _ _ => 0x800000000000000000000000888000000000000C00010090
  | .adcFgReq _ _ => 0x1CE0000002000000001C0400000001010888000000000000C000C0892
  | .adcFgCalDone _ _ _ _ => 0xE03210000E0000001DE000000A000000001C0400000000000888084000000000C168D2090
  | .adcBgCalUpdate _ _ _ => 0x800000000000000000000000888000000000000C00010090
  | .modulationFrame _ _ _ => 0x42000052000000000000000000000000000000888000000000000C00370090
  | .markerLost _ => 0x12000000000000000000000000000000888000000000000C00040090
  | .freqSearchDone _ => 0x2000000000000000000000000000000000000000000000000000000
  | .cdSearchDone _ => 0x2000000000000000000000000000000000000000000000000000000
  | .timingDone _ => 0x2000000000000000000000000000000000000000000000000000000
  | .blindConvergeDone _ _ => 0x2000000000000000000000000000000000000000000000000040000
  | .pilotLockDone _ _ => 0x60001DE0000000000000001C0400000000000888000000000000C002C0090
  | .acqBoundExpiry _ _ => 0x1DE0000000000000001C0400000000000888000000000000C000C0090
  | .rawLosWindow _ _ _ => 0xE03210000E0000001DE0000000000000001C0400000000000888080000000000C168C2098
  | .freezeHoldExpiry _ _ => 0xE03210000E0000001DE0000000000000001C0400000000000888080000000000C168C2090
  | .freeze _ _ => 0x1DF0000000000000001C0400000001010888000000000000C000C0892
  | .unfreeze _ _ => 0x1DF0000000000000001C0400000001010888000000000000C000C0892
  | .reacq _ _ => 0x1DF0000000000000001C0400000001010888000000000000C000C0892
  | .subcarrierDiverge _ _ _ => 0x1DE0000000000000001C0400000000000888000000000000C000C0090
  | .tapDemandReport _ _ _ => 0x40000000000000000000000000000000000000000000000000000000
  | .estimateRefresh _ _ => 0xDC000000000000000000000000000000888000000000000C00040090
  | .chanSwap _ _ => 0x102000000000000000000000000000000000000000000000000000000
  | .phaseSlip _ => 0x20000000000000000000000000000000000
  | .periodStart _ => 0xE000000000000098000000000000000000000000000000000888000000000000C00900090
  | .mapComplete _ => 0x80000000000000000000000000000000000000000000000000000100000
  | .controlBlock _ _ => 0x800100020
  | .detectionWindowOpen _ _ _ => 0x8000000000000000000000000000000000000000000000000000100000
  | .provisionalLock _ _ _ _ _ => 0x80000000000000000000000000000000000000000000000000000100000
  | .burstHeaderDecoded _ _ _ _ _ => 0xE000000000010098000000000000000000000000000000000888000000000000C00900090
  | .capture _ _ _ _ _ _ => 0xE000000000000098000000000000000000000000000000000888000000000000C00900090
  | .burstEnd _ _ _ _ _ _ => 0x80000000000000000000000000000000000000000000000000000100000
  | .detectionWindowClose _ _ => 0xE000000000000098000000000000000000000000000000000888000000000000C00900090
  | .staleTimeout _ _ => 0xE000000000000098000000000000000000000000000000000888000000000000C00900090
  | .discoveryCycle _ => 0x80000000000000000000000000000000000000000000000000000100000
  | .upProfileEvaluation _ _ => 0x100000
  | .dnLoadingEvaluation _ _ => 0x80000000000000000000000000888000000000000C00120090
  | .dnLoadSwitch _ _ => 0x9000000000000480000000000000000000000000888000000000000C00100090
  | .burstDecodeDone _ _ _ => 0xC080000000000000000000000000000000000888000000000000C10300090
  | .leafRerange _ => 0xE000000000000088000000000000000000000000000001010888000000000000C009008B0
  | .leafStatus _ => 0x1010888000000000000C000008B0
  | .leafMgmt _ => 0x1010888000000000000C001008B0
  | .windowShift _ _ _ => 0x4A000000000000000000000000000000000000000000000000000000200000
  | .ngmiMeasure _ => 0x32000000042000000000000000000000000000000000000888000000000000C02200090
  | .shortSecond _ _ => 0x4000000000000000000000000000000000000888000000000000C00000090
  | .lashingCodeword _ => 0xC000000000000000000000000000000000000888000000000000C10200090
  | .fecSdSecond _ => 0xE03210000E006000000000000000000000000000000000000888080000000000C16A02090
  | .ohSwitchTx _ => 0x9000000000000440000000000000000000000000888000000000000C00220090
  | .ohSwitchRx _ => 0xE032100001000000002000000000000000000000000000000888080000000000C06A42090
  | .frameTransmit _ _ => 0xE03232008F000000000000000000000000000000000000000888080000000000C16A230B0
  | .fawMatch _ _ => 0x1000000000000000000000000000000000000000000000000000000010000000
  | .candidateCheck _ _ => 0x1000000000000040000000000000000000000000000000000000000010000000
  | .frameReceived _ => 0xE03232148F000000000000040000000000000000000000000888080000000000C16802090
  | .outOfFrame _ => 0x1000000000000000000000000000000000000000000000000000000010000000
  | .outOfMultiframe _ => 0x1000000000000000000000000000000000000000000000000000000010000000
  | .defectPersistenceExpiry _ _ => 0xE03210000E000000000000000000000000000000000000000888080000000000C16802090
  | .ssfClear _ => 0xE032100000000000000000000000000000000000000000000888080000000000C16802090
  | .burstFrameReceived _ _ => 0xE032320080000000000000000000000000000000000000000888000000000000C17800090
  | .pmWindowEnd _ => 0x10000000
  | .pmWindowCommit _ => 0x6E000000000000000000000000000000000000000888000000000000C10000090
  | .intervalRecordWrite _ _ => 0x2078000000000000000000000000000000000000000888000000000000C10000090
  | .forceAis _ _ _ => 0x800000000000000000000000000000000001010888000000000000C00000892
  | .forceBdi _ _ _ => 0x800000000000000000000000000000000001010888000000000000C00000892
  | .clientFrameIngress _ _ _ _ _ _ _ => 0xE000000000000000000000000000000000000000000000000888000000000000C00800090
  | .egressHeader _ _ => 0xE000000000000000000000000000000000000000000000000888000000000000C00800090
  | .cowReceived _ => 0xE000000000000000000000000000000000000000000000000888000000000000C00800090
  | .gmpCmUpdate _ _ _ => 0x40000000010000000000000000000000000000000000000000000000000000000000000822800000
  | .egressResume _ => 0x2000000000000000000000000000000000000000000000000000000000000000000000000
  | .laneConverged _ _ => 0x148060000000000000000000000000000000001C0400000000000888000000000000C00C80090
  | .trainingComplete _ => 0x148060000000000000000000000000000000001C0400000000000888000000000000C00C80090
  | .trainingTimerExpiry _ _ => 0x160060000000000000000000000000000000001C0400000000000888000000000000C00880090
  | .untrainedRetry _ => 0x360060000000000000000000000000000000001C0400000000000888000000000000C00C80090
  | .laneLos _ => 0x360060000000000000000000000000000000001C0400000000000888000000000000C00C80090
  | .laneLosClear _ => 0x40060000000000000000000000000000000001C0400000000000888000000000000C00880090
  | .cdrLoss _ => 0x360060000000000000000000000000000000001C0400000000000888000000000000C00C80090
  | .coeffRequest _ _ _ => 0x800400000
  | .txffeWrite _ _ _ => 0x800000000000000000000000000000000000000000000001010888000000000000C00400892
  | .scanReq _ _ => 0x2000000000000000000000000000000000000000000000001010888000000000000C00400892
  | .marginScanAuto _ => 0x2000000000000000000000000000000000000000000000000000000000000000000000400000
  | .scanDone _ _ => 0x1A0000000000000000000000000000200A0000000000000000000888000000000000C80400090
  | .loopbackSlip _ => 0x30000000000000000000000000000000000000000000000000000888000000000000C00400090
  | .segmentClose _ => 0x320081000000000000000000000000000000000000000888000000000000C14000090
  | .tagWaitExpiry _ => 0xE032320000000000000000000000000000000000000000000888000000000000C06800090
  | .rekeyTimer _ => 0x20000000000000000000000000000000000000000000888000000000000C04000090
  | .kxConfirmTimeout _ => 0x4000000
  | .kxRetry _ => 0x404000000
  | .keyLoad _ => 0xE032120000000000000000000000000000000000000001010888000000000000C068008B0
  | .keySwitch _ => 0x1010888000000000000C040008B0
  | .keyZero _ => 0xE032100000000000000000000000000000000000000001010888000000000000C068008B0
  | .keyClearAf _ => 0xE032120000000000000000000000000000000000000001010888000000000000C068008B0
  | .keyStatus _ => 0x1010888000000000000C000008B0
  | .linkLoad _ => 0x20000000000000000000000000000000000000001010888000000000000C040008B0
  | .unitCopyComplete _ _ _ => 0xE052000000000000000000000000000000000000000000000888000000000000C02800090
  | .unitPlayout _ _ _ _ _ => 0xE052000000000000000000000000000000000000000000000888000000000000C02800090
  | .deltaMeasure _ => 0xE072000000000000000000000000000000000000000000000888000000000000C02800090
  | .outOfWindow _ _ => 0xE072000000000000000000000000000000000000000000000888000000000000C02800090
  | .pathWtrExpiry _ _ => 0x32000000000000000000000000000000000000000000000888000000000000C00000090
  | .autoRealign _ _ => 0xE072000000000000000000000000000000000000000000000888000000000000C02800090
  | .lockstepRecordReceived _ _ => 0x100000000032000000000000000000000000000000000000000000000888000000000000C22800090
  | .lockstepLoss _ => 0x12000000000000000000000000000000000000000000000888000000000000C00000090
  | .pgLockout _ => 0x10000000000000000000000000000000000000000001010888000000000000C020008B0
  | .pgForce _ => 0x10000000000000000000000000000000000000000001010888000000000000C020008B0
  | .pgClear _ => 0x10000000000000000000000000000000000000000001010888000000000000C020008B0
  | .pgRealign _ => 0xE072000000000000000000000000000000000000000001010888000000000000C028008B0
  | .pgStatus _ => 0x1010888000000000000C000008B0
  | .helloSend => 0x820000000
  | .helloReceived _ _ _ => 0x1C0800000010000000000000000000000000000000000000000000000888000000000000C20000098
  | .creditSend => 0x820000000
  | .creditReceived _ _ => 0x140000000000000000000000000000000000000000000000000000000000000000000000820000000
  | .ckptPacketReceived _ _ => 0x180000000000000000000000000000000000000000000000000000000888000000000000C20000090
  | .trainingAttemptExpiry => 0xC0800000000000000000000000000000000000000000000000000000888000000000000C20000090
  | .helloTimeout => 0x1C1C00000000000000000000000000000000000000000000000000000888000000000000C20000090
  | .mateLaneSyncLoss _ => 0x1C1C00000000000000000000000000000000000000000000000000000888000000000000C20000090
  | .mateAbsentRetry => 0x40800000000000000000000000000000000000000000000000000000000000000000000820000000
  | .mateScanReq _ _ => 0x3400000000000000000000000000000000000000000000000001010888000000000000C00000892
  | .mateScanDone _ _ => 0x81400000000000000000000000000000000000000000000000000000888000000000000C80000090
  | .partnerClaimChange _ => 0xC0000000000000000000000000000000000000000000000000000000888000000000000C20000098
  | .takeoverRestoreDone _ => 0xC000000E010000060000088000000000000000000081400000000000888000000000000C26980090
  | .claimFrameReceived _ => 0xC0000000010000000000000000000000000000000000000000000000888000000000000C20000098
  | .claimGapDone => 0xC0000000000000000000000000000000000000000000000000000000888000000000000C20000098
  | .checkpointSetDue _ => 0x1C0000000000000000000000000000000000000000000000000000000888000000000000C20000090
  | .checkpointSetReceived => 0x1C0000000000000000000000000000000000000000000000000000000888000000000000C20000090
  | .checkpointSelfWrite => 0x20000000
  | .rehearsal _ => 0xC0000000000000000000000000000000000000000000000000000000888000000000000C20000090
  | .refActivityLoss _ => 0x1C0400000000000888000000000000C00080090
  | .refActivityReturn _ => 0x1C0400000000000888000000000000C00080090
  | .freqMonitorUpdate _ _ => 0x1C0400000000000888000000000000C00080090
  | .ppsInPulse _ => 0x1C0400000000000888000000000000C10080094
  | .refWtrExpiry _ => 0x80400000000000888000000000000C00080090
  | .selectionBoundary _ => 0x1C0400000000000888000000000000C00080090
  | .buildOutDone => 0x40000000000000000000000000000000000000
  | .dpllLocked => 0x40400000000000888000000000000C00080090
  | .holdoverDegrade => 0x40400000000000888000000000000C00080090
  | .disputeEnd _ => 0x80400000000000888000000000000C00080090
  | .modeAutomatic _ => 0x2200000001010888000000000000C00000892
  | .forcedHoldover _ => 0x2200000001010888000000000000C00000892
  | .forcedFreeRun _ => 0x2200000001010888000000000000C00000892
  | .softwareLoop _ => 0x2200000001010888000000000000C00000892
  | .ffoWrite _ _ => 0x2200000001010888000000000000C00000892
  | .phaseStepGo _ _ _ _ => 0x10600000001010888000000000000C00080892
  | .phaseStepDone => 0x10400000000000888000000000000C00080090
  | .todArm _ _ => 0x620200000001010888000000000000C00000892
  | .secondRollover => 0x200000000000000000000000008902000E0400000000400888000000000000DD660D394
  | .todMessageReceived _ _ => 0x40400000000000888000000000000C00080090
  | .todSnap _ => 0x620200000001010888000000000000C00000892
  | .doorbell _ _ _ _ => 0x8A8000000000000C00000090
  | .ringCfgWrite _ _ _ _ => 0x1010CB8000000000000C000008B2
  | .descriptorAccept _ _ => 0x10008AC000000000000C000048F0
  | .commandCompletion _ _ => 0x8A8000000000000C000000B0
  | .commandTimeout _ => 0x8A8000000000000C000000B0
  | .msixTimer _ => 0x800000090
  | .msixUnmask _ _ _ _ => 0x40000000800000080
  | .cxlULinkDown => 0x1B014188A8820000000000C00001AB2
  | .cxlULinkUp _ _ _ => 0x8A8800000000000C00002090
  | .viralReceived => 0x8A8800000000000C000000B0
  | .nop _ => 0x1010888000000000000C000008B0
  | .ringQuery _ => 0x1010888000000000000C000008B0
  | .memPortEnable _ _ => 0xE072000000000000000000000000000000000000000001010AAF000000000000D228008B2
  | .memPortDisable _ _ => 0xE072000000000000000000000000000000000000000001010AAF000000000000D228008B2
  | .memLinkUp _ _ _ _ => 0x2000000000000000000000
  | .enumerationDone _ _ => 0xE072000000000000000000000000000000000000000000000AAE000000000000D228000B0
  | .enumerationFault _ _ => 0x88E000000000000C00000090
  | .memPortFaultRetry _ => 0xE072000000000000000000000000000000000000000000000AAE000000000000D228000B0
  | .memLinkDown _ => 0xE072000000000000000000000000000000000000000000000AAE000000000000D228000B0
  | .regionCfgWrite _ _ _ _ => 0xE072000000000000000000000000000000000000000001010ABC000000000000D228008B2
  | .regionFillDone _ => 0xE072000000000000000000000000000000000000000000000AAC000000000000D228000B0
  | .poisonRead _ _ _ => 0x18000000E072000000000000000000000000000000000000001B014D8AAC000000000000D22805AB2
  | .scrubVisit _ _ _ _ _ => allRegs ||| 0xC06949E92
  | .whipInjectArm _ _ _ => 0x20001010888000000000000C00000892
  | .regionStatus _ => 0x1010888000000000000C000008B0
  | .regionRefill _ => 0xE072000000000000000000000000000000000000000001010AAC000000000000D228008B0
  | .poisonList _ => 0x1010888000000000000C000008B0
  | .whipStatus _ => 0x1010888000000000000C000008B0
  | .watchdogExpiry _ => 0x1B014D8888000000000000C00001A92
  | .dataAbort _ _ _ => 0x1B014D8888000000000000C00001A92
  | .voterDisagree _ => 0x1B01458888090400000000C00003A92
  | .recoveryDone => 0xC0000080000000000000001020
  | .tripleSplit => 0xC0000000000000000000001000
  | .jobDispatch _ _ => 0xC8888000000000000C00001090
  | .jobYield _ _ => 0x80000000000000000000001000
  | .sliceExpiry _ => 0x80000000000000000000001000
  | .coreGrantWindow => 0x1000
  | .mbPost _ _ _ _ => 0x1B01018888000000000000C00001892
  | .mbPop _ _ _ => 0x1B01018888000000000000C00001892
  | .gcc0PacketReceived _ => 0xE032120000000000000000000000000000000000000000008888000000000000C16801090
  | .svcStatus _ => 0x1010888000000000000C000008B0
  | .svcRestart _ => 0x1B014D8888000000000000C00001AB2
  | .gccSend _ => 0x1010888000000000000C000018B0
  | .roleChallenge _ => 0x1010888000000000000C000009B0
  | .roleResponse _ => 0x1410888000000000000C00000BB0
  | .roleDrop _ => 0x1410888000000000000C00000AB0
  | .roleStatus _ => 0x1010888000000000000C000008B0
  | .auditRead _ => 0x1010888000000000000C000008B0
  | .auditAck _ => 0x5010888000000000000C000008B0
  | .nvWrite _ => 0x1010888000000000000C00000CB0
  | .nvCommit _ _ => 0x60000000000000000000000000000000000000001010888000000000000C08000CB0
  | .otpWrite _ => 0x1010888000000000000C00000CB0
  | .nvStatus _ => 0x1010888000000000000C000008B0
  | .authNew _ _ => 0x29410888000000000000C00000B92
  | .authSubmit _ _ => 0x29410888000000000000C00000B92
  | .lockoutExpiry _ => 0x100
  | .sessionExpiry _ => 0x1410888000000000000C00000A90
  | .journalPageProgram => 0x3010888000000000000C00000890
  | .journalDrain => 0x3010888000000000000C00000890
  | .grantComputation => 0x84000000000000000888000000000000C40000090
  | .calGainUpdate _ => 0x100000000000000000000000000000000000000000
  | .tjSample _ => allRegs ||| 0x1FFFFFFBBF
  | .avsRaise _ _ => 0x104000000000000000888000000000000C00000090
  | .avsLower _ _ => 0x104000000000000000888000000000000C00000090
  | .supplyThresholdCross _ _ => allRegs ||| 0x1FFFFFFBBF
  | .shutdownRestart => allRegs ||| 0x17FFFFFBBF
  | .feedMonitor _ _ _ _ => 0x204000000000000000888000000000000C00000090
  | .feedOutOfRange _ => 0x204000000000000000888000000000000C00000090
  | .holdTest _ _ => 0x204000000000000000888000000000000C40000090
  | .pdmMeasure _ _ _ _ => 0x10082000000000000000000000000000000000000000000
  | .ageingReplan => 0x200A2000000000000001000888000000000000C80000890
  | .monTrig _ => 0x810000000000000001010888000000000000D00000892
  | .monTimerTrigger => 0x810000000000000000000888000000000000D00000090
  | .monStepDone _ => allRegs ||| 0xD00000090
  | .urgGo _ _ => 0xC00000000000000001010888000000000000D00000892
  | .monUrgent _ => 0x800000000000000001010888000000000000D000008B0
  | .urgentStepDone _ => 0x2C10000000000000000000888000000000000D000000B0
  | .thermalScan _ => 0x8010000000000000000000888000000000000D00000090
  | .commonTrigger _ _ _ _ => 0x814000000000000000000888000000000000D00000090
  | .snapPostDone _ => 0x14000000000000000000888000000000000D00000090
  | .snapDrainStart _ => 0x100000000
  | .snapDrainDone _ _ _ => 0x14000000000000000000888000000000000D00000090
  | .snapArm _ => 0x4000000000000001010888000000000000D000008B0
  | .snapDisarm _ => 0x4000000000000001010888000000000000D000008B0
  | .snapFire _ _ _ _ => 0x814000000000000001010888000000000000D000008B0
  | .snapStatus _ => 0x1010888000000000000C000008B0
  | .dumpTick => 0xA200000000888000000000000E000000B0
  | .dumpDone => 0xA200000000888000000000000E000000B0
  | .counterWrite _ _ _ _ _ => allRegs ||| 0x1FFFFFFBBF
  | .bwWindowEnd _ _ _ _ _ _ => 0x4C000000000008000000000000000000000
  | .instructionSample _ _ _ _ _ => 0x808000000000000A00000090
  | .cntDump _ => 0xA200001010888000000000000E000008B0
  | .cntStatus _ => 0x1010888000000000000C000008B0
  | .islandPowerOn _ => allRegs ||| 0x13FFFFFFBF
  | .porstAssert _ => allRegs ||| 0x17FFFFFBBF
  | .porstRelease _ _ _ => 0x10200000000000002000
  | .bootStageDone _ _ _ _ => 0xC080000000004000000000000000000000000000400000000E0030D0888290000000000C28003898
  | .bootStageTimeout _ _ => 0x90000000000800002080
  | .deviceReset _ _ => allRegs ||| 0x1FFFFFFBBF
  | .coreReset _ _ => allRegs ||| 0x1FFFFFFBBF
  | .cxlUReset => 0x1B014188A8820000000000C00001AB2
  | .functionLevelReset => 0x1B014188A8020000000000C00001AB2
  | .rootLockLoss => allRegs ||| 0x1FFFFFFBBF
  | .rootRelockAttempt => 0x2000
  | .rootRelocked => 0x90000000000000002000
  | .xoLost => 0x80000000000800002080
  | .xoRestored => 0x80000000000000002000
  | .fltRelease => 0x2000
  | .fltSw _ _ => 0x1010888180000000000C00002892
  | .escalationTimeout _ => allRegs ||| 0x17FFFFFBBF
  | .registerRead _ _ _ => 0x1B014D8888200040000000C00001A92
  | .bootStRead _ => 0x1018888200040000000C00000092
  | .pwrWarn _ => 0x84000000000001010888000000000000C00000090
  | .ingressCsf _ => 0x6000000000000000000000000000000000000000000000000888000000000000C00800090
  | .ingressCsfClear _ => 0x6000000000000000000000000000000000000000000000000888000000000000C00800090
  | .partnerDataLoss _ _ _ => 0xE072000000000000000000000000000000000000000000000AAC000000000000D228000B0
  | .endMarker _ _ _ => 0x100000
  | .snoop _ => 0x800000000
  | .mfgRelease => 0x2000

/-- Every command keeps what lies outside its footprint: one arm for each arm of exec. -/
theorem exec_keeps (s : State) : (c : Instr) → s.keeps (footprint c) (exec c s)
  | .registerWrite _ _ _ _ => execRegisterWrite_keeps _ _ _ _ s (State.kept_refl _ s) (Foot.refl _)
  | .malformedAccess _ _ _ _ => execMalformedAccess_keeps _ _ _ _ s (State.kept_refl _ s) (Foot.refl _)
  | .lowHalfRead _ _ => execLowHalfRead_keeps _ _ s (State.kept_refl _ s) (Foot.refl _)
  | .highHalfRead _ _ => execHighHalfRead_keeps _ _ s (State.kept_refl _ s) (Foot.refl _)
  | .commit _ _ _ => execCommit_keeps _ _ _ s (State.kept_refl _ s) (Foot.refl _)
  | .fifoRecentre _ _ => execFifoRecentre_keeps _ _ s (State.kept_refl _ s) (Foot.refl _)
  | .loadingEvaluation _ => execLoadingEvaluation_keeps _ s (State.kept_refl _ s) (Foot.refl _)
  | .manGo _ _ => execManGo_keeps _ _ s (State.kept_refl _ s) (Foot.refl _)
  | .mobReceived _ => execMobReceived_keeps _ s (State.kept_refl _ s) (Foot.refl _)
  | .armTimeout _ => execArmTimeout_keeps _ s (State.kept_refl _ s) (Foot.refl _)
  | .countdownTick _ => execCountdownTick_keeps _ s (State.kept_refl _ s) (Foot.refl _)
  | .rxTableSwitch _ => execRxTableSwitch_keeps _ s (State.kept_refl _ s) (Foot.refl _)
  | .rxFallback _ => execRxFallback_keeps _ s (State.kept_refl _ s) (Foot.refl _)
  | .forcedReversion _ => execForcedReversion_keeps _ s (State.kept_refl _ s) (Foot.refl _)
  | .pdTableWrite _ _ _ _ _ _ => execPdTableWrite_keeps _ _ _ _ _ _ s (State.kept_refl _ s) (Foot.refl _)
  | .dacFgReq _ _ => execDacFgReq_keeps _ _ s (State.kept_refl _ s) (Foot.refl _)
  | .dacFgCalDone _ _ _ _ => execDacFgCalDone_keeps _ _ _ _ s (State.kept_refl _ s) (Foot.refl _)
  | .dacBgCalUpdate _ _ _ => execDacBgCalUpdate_keeps _ _ _ s (State.kept_refl _ s) (Foot.refl _)
  | .adcFgReq _ _ => execAdcFgReq_keeps _ _ s (State.kept_refl _ s) (Foot.refl _)
  | .adcFgCalDone _ _ _ _ => execAdcFgCalDone_keeps _ _ _ _ s (State.kept_refl _ s) (Foot.refl _)
  | .adcBgCalUpdate _ _ _ => execAdcBgCalUpdate_keeps _ _ _ s (State.kept_refl _ s) (Foot.refl _)
  | .modulationFrame _ _ _ => execModulationFrame_keeps _ _ _ s (State.kept_refl _ s) (Foot.refl _)
  | .markerLost _ => execMarkerLost_keeps _ s (State.kept_refl _ s) (Foot.refl _)
  | .freqSearchDone _ => execFreqSearchDone_keeps _ s (State.kept_refl _ s) (Foot.refl _)
  | .cdSearchDone _ => execCdSearchDone_keeps _ s (State.kept_refl _ s) (Foot.refl _)
  | .timingDone _ => execTimingDone_keeps _ s (State.kept_refl _ s) (Foot.refl _)
  | .blindConvergeDone _ _ => execBlindConvergeDone_keeps _ _ s (State.kept_refl _ s) (Foot.refl _)
  | .pilotLockDone _ _ => execPilotLockDone_keeps _ _ s (State.kept_refl _ s) (Foot.refl _)
  | .acqBoundExpiry _ _ => execAcqBoundExpiry_keeps _ _ s (State.kept_refl _ s) (Foot.refl _)
  | .rawLosWindow _ _ _ => execRawLosWindow_keeps _ _ _ s (State.kept_refl _ s) (Foot.refl _)
  | .freezeHoldExpiry _ _ => execFreezeHoldExpiry_keeps _ _ s (State.kept_refl _ s) (Foot.refl _)
  | .freeze _ _ => execFreeze_keeps _ _ s (State.kept_refl _ s) (Foot.refl _)
  | .unfreeze _ _ => execUnfreeze_keeps _ _ s (State.kept_refl _ s) (Foot.refl _)
  | .reacq _ _ => execReacq_keeps _ _ s (State.kept_refl _ s) (Foot.refl _)
  | .subcarrierDiverge _ _ _ => execSubcarrierDiverge_keeps _ _ _ s (State.kept_refl _ s) (Foot.refl _)
  | .tapDemandReport _ _ _ => execTapDemandReport_keeps _ _ _ s (State.kept_refl _ s) (Foot.refl _)
  | .estimateRefresh _ _ => execEstimateRefresh_keeps _ _ s (State.kept_refl _ s) (Foot.refl _)
  | .chanSwap _ _ => execChanSwap_keeps _ _ s (State.kept_refl _ s) (Foot.refl _)
  | .phaseSlip _ => execPhaseSlip_keeps _ s (State.kept_refl _ s) (Foot.refl _)
  | .periodStart _ => execPeriodStart_keeps _ s (State.kept_refl _ s) (Foot.refl _)
  | .mapComplete _ => execMapComplete_keeps _ s (State.kept_refl _ s) (Foot.refl _)
  | .controlBlock _ _ => execControlBlock_keeps _ _ s (State.kept_refl _ s) (Foot.refl _)
  | .detectionWindowOpen _ _ _ => execDetectionWindowOpen_keeps _ _ _ s (State.kept_refl _ s) (Foot.refl _)
  | .provisionalLock _ _ _ _ _ => execProvisionalLock_keeps _ _ _ _ _ s (State.kept_refl _ s) (Foot.refl _)
  | .burstHeaderDecoded _ _ _ _ _ => execBurstHeaderDecoded_keeps _ _ _ _ _ s (State.kept_refl _ s) (Foot.refl _)
  | .capture _ _ _ _ _ _ => execCapture_keeps _ _ _ _ _ _ s (State.kept_refl _ s) (Foot.refl _)
  | .burstEnd _ _ _ _ _ _ => execBurstEnd_keeps _ _ _ _ _ _ s (State.kept_refl _ s) (Foot.refl _)
  | .detectionWindowClose _ _ => execDetectionWindowClose_keeps _ _ s (State.kept_refl _ s) (Foot.refl _)
  | .staleTimeout _ _ => execStaleTimeout_keeps _ _ s (State.kept_refl _ s) (Foot.refl _)
  | .discoveryCycle _ => execDiscoveryCycle_keeps _ s (State.kept_refl _ s) (Foot.refl _)
  | .upProfileEvaluation _ _ => execUpProfileEvaluation_keeps _ _ s (State.kept_refl _ s) (Foot.refl _)
  | .dnLoadingEvaluation _ _ => execDnLoadingEvaluation_keeps _ _ s (State.kept_refl _ s) (Foot.refl _)
  | .dnLoadSwitch _ _ => execDnLoadSwitch_keeps _ _ s (State.kept_refl _ s) (Foot.refl _)
  | .burstDecodeDone _ _ _ => execBurstDecodeDone_keeps _ _ _ s (State.kept_refl _ s) (Foot.refl _)
  | .leafRerange _ => execLeafRerange_keeps _ s (State.kept_refl _ s) (Foot.refl _)
  | .leafStatus _ => execLeafStatus_keeps _ s (State.kept_refl _ s) (Foot.refl _)
  | .leafMgmt _ => execLeafMgmt_keeps _ s (State.kept_refl _ s) (Foot.refl _)
  | .windowShift _ _ _ => execWindowShift_keeps _ _ _ s (State.kept_refl _ s) (Foot.refl _)
  | .ngmiMeasure _ => execNgmiMeasure_keeps _ s (State.kept_refl _ s) (Foot.refl _)
  | .shortSecond _ _ => execShortSecond_keeps _ _ s (State.kept_refl _ s) (Foot.refl _)
  | .lashingCodeword _ => execLashingCodeword_keeps _ s (State.kept_refl _ s) (Foot.refl _)
  | .fecSdSecond _ => execFecSdSecond_keeps _ s (State.kept_refl _ s) (Foot.refl _)
  | .ohSwitchTx _ => execOhSwitchTx_keeps _ s (State.kept_refl _ s) (Foot.refl _)
  | .ohSwitchRx _ => execOhSwitchRx_keeps _ s (State.kept_refl _ s) (Foot.refl _)
  | .frameTransmit _ _ => execFrameTransmit_keeps _ _ s (State.kept_refl _ s) (Foot.refl _)
  | .fawMatch _ _ => execFawMatch_keeps _ _ s (State.kept_refl _ s) (Foot.refl _)
  | .candidateCheck _ _ => execCandidateCheck_keeps _ _ s (State.kept_refl _ s) (Foot.refl _)
  | .frameReceived _ => execFrameReceived_keeps _ s (State.kept_refl _ s) (Foot.refl _)
  | .outOfFrame _ => execOutOfFrame_keeps _ s (State.kept_refl _ s) (Foot.refl _)
  | .outOfMultiframe _ => execOutOfMultiframe_keeps _ s (State.kept_refl _ s) (Foot.refl _)
  | .defectPersistenceExpiry _ _ => execDefectPersistenceExpiry_keeps _ _ s (State.kept_refl _ s) (Foot.refl _)
  | .ssfClear _ => execSsfClear_keeps _ s (State.kept_refl _ s) (Foot.refl _)
  | .burstFrameReceived _ _ => execBurstFrameReceived_keeps _ _ s (State.kept_refl _ s) (Foot.refl _)
  | .pmWindowEnd _ => execPmWindowEnd_keeps _ s (State.kept_refl _ s) (Foot.refl _)
  | .pmWindowCommit _ => execPmWindowCommit_keeps _ s (State.kept_refl _ s) (Foot.refl _)
  | .intervalRecordWrite _ _ => execIntervalRecordWrite_keeps _ _ s (State.kept_refl _ s) (Foot.refl _)
  | .forceAis _ _ _ => execForceAis_keeps _ _ _ s (State.kept_refl _ s) (Foot.refl _)
  | .forceBdi _ _ _ => execForceBdi_keeps _ _ _ s (State.kept_refl _ s) (Foot.refl _)
  | .clientFrameIngress _ _ _ _ _ _ _ => execClientFrameIngress_keeps _ _ _ _ _ _ _ s (State.kept_refl _ s) (Foot.refl _)
  | .egressHeader _ _ => execEgressHeader_keeps _ _ s (State.kept_refl _ s) (Foot.refl _)
  | .cowReceived _ => execCowReceived_keeps _ s (State.kept_refl _ s) (Foot.refl _)
  | .gmpCmUpdate _ _ _ => execGmpCmUpdate_keeps _ _ _ s (State.kept_refl _ s) (Foot.refl _)
  | .egressResume _ => execEgressResume_keeps _ s (State.kept_refl _ s) (Foot.refl _)
  | .laneConverged _ _ => execLaneConverged_keeps _ _ s (State.kept_refl _ s) (Foot.refl _)
  | .trainingComplete _ => execTrainingComplete_keeps _ s (State.kept_refl _ s) (Foot.refl _)
  | .trainingTimerExpiry _ _ => execTrainingTimerExpiry_keeps _ _ s (State.kept_refl _ s) (Foot.refl _)
  | .untrainedRetry _ => execUntrainedRetry_keeps _ s (State.kept_refl _ s) (Foot.refl _)
  | .laneLos _ => execLaneLos_keeps _ s (State.kept_refl _ s) (Foot.refl _)
  | .laneLosClear _ => execLaneLosClear_keeps _ s (State.kept_refl _ s) (Foot.refl _)
  | .cdrLoss _ => execCdrLoss_keeps _ s (State.kept_refl _ s) (Foot.refl _)
  | .coeffRequest _ _ _ => execCoeffRequest_keeps _ _ _ s (State.kept_refl _ s) (Foot.refl _)
  | .txffeWrite _ _ _ => execTxffeWrite_keeps _ _ _ s (State.kept_refl _ s) (Foot.refl _)
  | .scanReq _ _ => execScanReq_keeps _ _ s (State.kept_refl _ s) (Foot.refl _)
  | .marginScanAuto _ => execMarginScanAuto_keeps _ s (State.kept_refl _ s) (Foot.refl _)
  | .scanDone _ _ => execScanDone_keeps _ _ s (State.kept_refl _ s) (Foot.refl _)
  | .loopbackSlip _ => execLoopbackSlip_keeps _ s (State.kept_refl _ s) (Foot.refl _)
  | .segmentClose _ => execSegmentClose_keeps _ s (State.kept_refl _ s) (Foot.refl _)
  | .tagWaitExpiry _ => execTagWaitExpiry_keeps _ s (State.kept_refl _ s) (Foot.refl _)
  | .rekeyTimer _ => execRekeyTimer_keeps _ s (State.kept_refl _ s) (Foot.refl _)
  | .kxConfirmTimeout _ => execKxConfirmTimeout_keeps _ s (State.kept_refl _ s) (Foot.refl _)
  | .kxRetry _ => execKxRetry_keeps _ s (State.kept_refl _ s) (Foot.refl _)
  | .keyLoad _ => execKeyLoad_keeps _ s (State.kept_refl _ s) (Foot.refl _)
  | .keySwitch _ => execKeySwitch_keeps _ s (State.kept_refl _ s) (Foot.refl _)
  | .keyZero _ => execKeyZero_keeps _ s (State.kept_refl _ s) (Foot.refl _)
  | .keyClearAf _ => execKeyClearAf_keeps _ s (State.kept_refl _ s) (Foot.refl _)
  | .keyStatus _ => execKeyStatus_keeps _ s (State.kept_refl _ s) (Foot.refl _)
  | .linkLoad _ => execLinkLoad_keeps _ s (State.kept_refl _ s) (Foot.refl _)
  | .unitCopyComplete _ _ _ => execUnitCopyComplete_keeps _ _ _ s (State.kept_refl _ s) (Foot.refl _)
  | .unitPlayout _ _ _ _ _ => execUnitPlayout_keeps _ _ _ _ _ s (State.kept_refl _ s) (Foot.refl _)
  | .deltaMeasure _ => execDeltaMeasure_keeps _ s (State.kept_refl _ s) (Foot.refl _)
  | .outOfWindow _ _ => execOutOfWindow_keeps _ _ s (State.kept_refl _ s) (Foot.refl _)
  | .pathWtrExpiry _ _ => execPathWtrExpiry_keeps _ _ s (State.kept_refl _ s) (Foot.refl _)
  | .autoRealign _ _ => execAutoRealign_keeps _ _ s (State.kept_refl _ s) (Foot.refl _)
  | .lockstepRecordReceived _ _ => execLockstepRecordReceived_keeps _ _ s (State.kept_refl _ s) (Foot.refl _)
  | .lockstepLoss _ => execLockstepLoss_keeps _ s (State.kept_refl _ s) (Foot.refl _)
  | .pgLockout _ => execPgLockout_keeps _ s (State.kept_refl _ s) (Foot.refl _)
  | .pgForce _ => execPgForce_keeps _ s (State.kept_refl _ s) (Foot.refl _)
  | .pgClear _ => execPgClear_keeps _ s (State.kept_refl _ s) (Foot.refl _)
  | .pgRealign _ => execPgRealign_keeps _ s (State.kept_refl _ s) (Foot.refl _)
  | .pgStatus _ => execPgStatus_keeps _ s (State.kept_refl _ s) (Foot.refl _)
  | .helloSend => execHelloSend_keeps s (State.kept_refl _ s) (Foot.refl _)
  | .helloReceived _ _ _ => execHelloReceived_keeps _ _ _ s (State.kept_refl _ s) (Foot.refl _)
  | .creditSend => execCreditSend_keeps s (State.kept_refl _ s) (Foot.refl _)
  | .creditReceived _ _ => execCreditReceived_keeps _ _ s (State.kept_refl _ s) (Foot.refl _)
  | .ckptPacketReceived _ _ => execCkptPacketReceived_keeps _ _ s (State.kept_refl _ s) (Foot.refl _)
  | .trainingAttemptExpiry => execTrainingAttemptExpiry_keeps s (State.kept_refl _ s) (Foot.refl _)
  | .helloTimeout => execHelloTimeout_keeps s (State.kept_refl _ s) (Foot.refl _)
  | .mateLaneSyncLoss _ => execMateLaneSyncLoss_keeps _ s (State.kept_refl _ s) (Foot.refl _)
  | .mateAbsentRetry => execMateAbsentRetry_keeps s (State.kept_refl _ s) (Foot.refl _)
  | .mateScanReq _ _ => execMateScanReq_keeps _ _ s (State.kept_refl _ s) (Foot.refl _)
  | .mateScanDone _ _ => execMateScanDone_keeps _ _ s (State.kept_refl _ s) (Foot.refl _)
  | .partnerClaimChange _ => execPartnerClaimChange_keeps _ s (State.kept_refl _ s) (Foot.refl _)
  | .takeoverRestoreDone _ => execTakeoverRestoreDone_keeps _ s (State.kept_refl _ s) (Foot.refl _)
  | .claimFrameReceived _ => execClaimFrameReceived_keeps _ s (State.kept_refl _ s) (Foot.refl _)
  | .claimGapDone => execClaimGapDone_keeps s (State.kept_refl _ s) (Foot.refl _)
  | .checkpointSetDue _ => execCheckpointSetDue_keeps _ s (State.kept_refl _ s) (Foot.refl _)
  | .checkpointSetReceived => execCheckpointSetReceived_keeps s (State.kept_refl _ s) (Foot.refl _)
  | .checkpointSelfWrite => execCheckpointSelfWrite_keeps s (State.kept_refl _ s) (Foot.refl _)
  | .rehearsal _ => execRehearsal_keeps _ s (State.kept_refl _ s) (Foot.refl _)
  | .refActivityLoss _ => execRefActivityLoss_keeps _ s (State.kept_refl _ s) (Foot.refl _)
  | .refActivityReturn _ => execRefActivityReturn_keeps _ s (State.kept_refl _ s) (Foot.refl _)
  | .freqMonitorUpdate _ _ => execFreqMonitorUpdate_keeps _ _ s (State.kept_refl _ s) (Foot.refl _)
  | .ppsInPulse _ => execPpsInPulse_keeps _ s (State.kept_refl _ s) (Foot.refl _)
  | .refWtrExpiry _ => execRefWtrExpiry_keeps _ s (State.kept_refl _ s) (Foot.refl _)
  | .selectionBoundary _ => execSelectionBoundary_keeps _ s (State.kept_refl _ s) (Foot.refl _)
  | .buildOutDone => execBuildOutDone_keeps s (State.kept_refl _ s) (Foot.refl _)
  | .dpllLocked => execDpllLocked_keeps s (State.kept_refl _ s) (Foot.refl _)
  | .holdoverDegrade => execHoldoverDegrade_keeps s (State.kept_refl _ s) (Foot.refl _)
  | .disputeEnd _ => execDisputeEnd_keeps _ s (State.kept_refl _ s) (Foot.refl _)
  | .modeAutomatic _ => execModeAutomatic_keeps _ s (State.kept_refl _ s) (Foot.refl _)
  | .forcedHoldover _ => execForcedHoldover_keeps _ s (State.kept_refl _ s) (Foot.refl _)
  | .forcedFreeRun _ => execForcedFreeRun_keeps _ s (State.kept_refl _ s) (Foot.refl _)
  | .softwareLoop _ => execSoftwareLoop_keeps _ s (State.kept_refl _ s) (Foot.refl _)
  | .ffoWrite _ _ => execFfoWrite_keeps _ _ s (State.kept_refl _ s) (Foot.refl _)
  | .phaseStepGo _ _ _ _ => execPhaseStepGo_keeps _ _ _ _ s (State.kept_refl _ s) (Foot.refl _)
  | .phaseStepDone => execPhaseStepDone_keeps s (State.kept_refl _ s) (Foot.refl _)
  | .todArm _ _ => execTodArm_keeps _ _ s (State.kept_refl _ s) (Foot.refl _)
  | .secondRollover => execSecondRollover_keeps s (State.kept_refl _ s) (Foot.refl _)
  | .todMessageReceived _ _ => execTodMessageReceived_keeps _ _ s (State.kept_refl _ s) (Foot.refl _)
  | .todSnap _ => execTodSnap_keeps _ s (State.kept_refl _ s) (Foot.refl _)
  | .doorbell _ _ _ _ => execDoorbell_keeps _ _ _ _ s (State.kept_refl _ s) (Foot.refl _)
  | .ringCfgWrite _ _ _ _ => execRingCfgWrite_keeps _ _ _ _ s (State.kept_refl _ s) (Foot.refl _)
  | .descriptorAccept _ _ => execDescriptorAccept_keeps _ _ s (State.kept_refl _ s) (Foot.refl _)
  | .commandCompletion _ _ => execCommandCompletion_keeps _ _ s (State.kept_refl _ s) (Foot.refl _)
  | .commandTimeout _ => execCommandTimeout_keeps _ s (State.kept_refl _ s) (Foot.refl _)
  | .msixTimer _ => execMsixTimer_keeps _ s (State.kept_refl _ s) (Foot.refl _)
  | .msixUnmask _ _ _ _ => execMsixUnmask_keeps _ _ _ _ s (State.kept_refl _ s) (Foot.refl _)
  | .cxlULinkDown => execCxlULinkDown_keeps s (State.kept_refl _ s) (Foot.refl _)
  | .cxlULinkUp _ _ _ => execCxlULinkUp_keeps _ _ _ s (State.kept_refl _ s) (Foot.refl _)
  | .viralReceived => execViralReceived_keeps s (State.kept_refl _ s) (Foot.refl _)
  | .nop _ => execNop_keeps _ s (State.kept_refl _ s) (Foot.refl _)
  | .ringQuery _ => execRingQuery_keeps _ s (State.kept_refl _ s) (Foot.refl _)
  | .memPortEnable _ _ => execMemPortEnable_keeps _ _ s (State.kept_refl _ s) (Foot.refl _)
  | .memPortDisable _ _ => execMemPortDisable_keeps _ _ s (State.kept_refl _ s) (Foot.refl _)
  | .memLinkUp _ _ _ _ => execMemLinkUp_keeps _ _ _ _ s (State.kept_refl _ s) (Foot.refl _)
  | .enumerationDone _ _ => execEnumerationDone_keeps _ _ s (State.kept_refl _ s) (Foot.refl _)
  | .enumerationFault _ _ => execEnumerationFault_keeps _ _ s (State.kept_refl _ s) (Foot.refl _)
  | .memPortFaultRetry _ => execMemPortFaultRetry_keeps _ s (State.kept_refl _ s) (Foot.refl _)
  | .memLinkDown _ => execMemLinkDown_keeps _ s (State.kept_refl _ s) (Foot.refl _)
  | .regionCfgWrite _ _ _ _ => execRegionCfgWrite_keeps _ _ _ _ s (State.kept_refl _ s) (Foot.refl _)
  | .regionFillDone _ => execRegionFillDone_keeps _ s (State.kept_refl _ s) (Foot.refl _)
  | .poisonRead _ _ _ => execPoisonRead_keeps _ _ _ s (State.kept_refl _ s) (Foot.refl _)
  | .scrubVisit _ _ _ _ _ => execScrubVisit_keeps _ _ _ _ _ s (State.kept_refl _ s) (Foot.refl _)
  | .whipInjectArm _ _ _ => execWhipInjectArm_keeps _ _ _ s (State.kept_refl _ s) (Foot.refl _)
  | .regionStatus _ => execRegionStatus_keeps _ s (State.kept_refl _ s) (Foot.refl _)
  | .regionRefill _ => execRegionRefill_keeps _ s (State.kept_refl _ s) (Foot.refl _)
  | .poisonList _ => execPoisonList_keeps _ s (State.kept_refl _ s) (Foot.refl _)
  | .whipStatus _ => execWhipStatus_keeps _ s (State.kept_refl _ s) (Foot.refl _)
  | .watchdogExpiry _ => execWatchdogExpiry_keeps _ s (State.kept_refl _ s) (Foot.refl _)
  | .dataAbort _ _ _ => execDataAbort_keeps _ _ _ s (State.kept_refl _ s) (Foot.refl _)
  | .voterDisagree _ => execVoterDisagree_keeps _ s (State.kept_refl _ s) (Foot.refl _)
  | .recoveryDone => execRecoveryDone_keeps s (State.kept_refl _ s) (Foot.refl _)
  | .tripleSplit => execTripleSplit_keeps s (State.kept_refl _ s) (Foot.refl _)
  | .jobDispatch _ _ => execJobDispatch_keeps _ _ s (State.kept_refl _ s) (Foot.refl _)
  | .jobYield _ _ => execJobYield_keeps _ _ s (State.kept_refl _ s) (Foot.refl _)
  | .sliceExpiry _ => execSliceExpiry_keeps _ s (State.kept_refl _ s) (Foot.refl _)
  | .coreGrantWindow => execCoreGrantWindow_keeps s (State.kept_refl _ s) (Foot.refl _)
  | .mbPost _ _ _ _ => execMbPost_keeps _ _ _ _ s (State.kept_refl _ s) (Foot.refl _)
  | .mbPop _ _ _ => execMbPop_keeps _ _ _ s (State.kept_refl _ s) (Foot.refl _)
  | .gcc0PacketReceived _ => execGcc0PacketReceived_keeps _ s (State.kept_refl _ s) (Foot.refl _)
  | .svcStatus _ => execSvcStatus_keeps _ s (State.kept_refl _ s) (Foot.refl _)
  | .svcRestart _ => execSvcRestart_keeps _ s (State.kept_refl _ s) (Foot.refl _)
  | .gccSend _ => execGccSend_keeps _ s (State.kept_refl _ s) (Foot.refl _)
  | .roleChallenge _ => execRoleChallenge_keeps _ s (State.kept_refl _ s) (Foot.refl _)
  | .roleResponse _ => execRoleResponse_keeps _ s (State.kept_refl _ s) (Foot.refl _)
  | .roleDrop _ => execRoleDrop_keeps _ s (State.kept_refl _ s) (Foot.refl _)
  | .roleStatus _ => execRoleStatus_keeps _ s (State.kept_refl _ s) (Foot.refl _)
  | .auditRead _ => execAuditRead_keeps _ s (State.kept_refl _ s) (Foot.refl _)
  | .auditAck _ => execAuditAck_keeps _ s (State.kept_refl _ s) (Foot.refl _)
  | .nvWrite _ => execNvWrite_keeps _ s (State.kept_refl _ s) (Foot.refl _)
  | .nvCommit _ _ => execNvCommit_keeps _ _ s (State.kept_refl _ s) (Foot.refl _)
  | .otpWrite _ => execOtpWrite_keeps _ s (State.kept_refl _ s) (Foot.refl _)
  | .nvStatus _ => execNvStatus_keeps _ s (State.kept_refl _ s) (Foot.refl _)
  | .authNew _ _ => execAuthNew_keeps _ _ s (State.kept_refl _ s) (Foot.refl _)
  | .authSubmit _ _ => execAuthSubmit_keeps _ _ s (State.kept_refl _ s) (Foot.refl _)
  | .lockoutExpiry _ => execLockoutExpiry_keeps _ s (State.kept_refl _ s) (Foot.refl _)
  | .sessionExpiry _ => execSessionExpiry_keeps _ s (State.kept_refl _ s) (Foot.refl _)
  | .journalPageProgram => execJournalPageProgram_keeps s (State.kept_refl _ s) (Foot.refl _)
  | .journalDrain => execJournalDrain_keeps s (State.kept_refl _ s) (Foot.refl _)
  | .grantComputation => execGrantComputation_keeps s (State.kept_refl _ s) (Foot.refl _)
  | .calGainUpdate _ => execCalGainUpdate_keeps _ s (State.kept_refl _ s) (Foot.refl _)
  | .tjSample _ => execTjSample_keeps _ s (State.kept_refl _ s) (Foot.refl _)
  | .avsRaise _ _ => execAvsRaise_keeps _ _ s (State.kept_refl _ s) (Foot.refl _)
  | .avsLower _ _ => execAvsLower_keeps _ _ s (State.kept_refl _ s) (Foot.refl _)
  | .supplyThresholdCross _ _ => execSupplyThresholdCross_keeps _ _ s (State.kept_refl _ s) (Foot.refl _)
  | .shutdownRestart => execShutdownRestart_keeps s (State.kept_refl _ s) (Foot.refl _)
  | .feedMonitor _ _ _ _ => execFeedMonitor_keeps _ _ _ _ s (State.kept_refl _ s) (Foot.refl _)
  | .feedOutOfRange _ => execFeedOutOfRange_keeps _ s (State.kept_refl _ s) (Foot.refl _)
  | .holdTest _ _ => execHoldTest_keeps _ _ s (State.kept_refl _ s) (Foot.refl _)
  | .pdmMeasure _ _ _ _ => execPdmMeasure_keeps _ _ _ _ s (State.kept_refl _ s) (Foot.refl _)
  | .ageingReplan => execAgeingReplan_keeps s (State.kept_refl _ s) (Foot.refl _)
  | .monTrig _ => execMonTrig_keeps _ s (State.kept_refl _ s) (Foot.refl _)
  | .monTimerTrigger => execMonTimerTrigger_keeps s (State.kept_refl _ s) (Foot.refl _)
  | .monStepDone _ => execMonStepDone_keeps _ s (State.kept_refl _ s) (Foot.refl _)
  | .urgGo _ _ => execUrgGo_keeps _ _ s (State.kept_refl _ s) (Foot.refl _)
  | .monUrgent _ => execMonUrgent_keeps _ s (State.kept_refl _ s) (Foot.refl _)
  | .urgentStepDone _ => execUrgentStepDone_keeps _ s (State.kept_refl _ s) (Foot.refl _)
  | .thermalScan _ => execThermalScan_keeps _ s (State.kept_refl _ s) (Foot.refl _)
  | .commonTrigger _ _ _ _ => execCommonTrigger_keeps _ _ _ _ s (State.kept_refl _ s) (Foot.refl _)
  | .snapPostDone _ => execSnapPostDone_keeps _ s (State.kept_refl _ s) (Foot.refl _)
  | .snapDrainStart _ => execSnapDrainStart_keeps _ s (State.kept_refl _ s) (Foot.refl _)
  | .snapDrainDone _ _ _ => execSnapDrainDone_keeps _ _ _ s (State.kept_refl _ s) (Foot.refl _)
  | .snapArm _ => execSnapArm_keeps _ s (State.kept_refl _ s) (Foot.refl _)
  | .snapDisarm _ => execSnapDisarm_keeps _ s (State.kept_refl _ s) (Foot.refl _)
  | .snapFire _ _ _ _ => execSnapFire_keeps _ _ _ _ s (State.kept_refl _ s) (Foot.refl _)
  | .snapStatus _ => execSnapStatus_keeps _ s (State.kept_refl _ s) (Foot.refl _)
  | .dumpTick => execDumpTick_keeps s (State.kept_refl _ s) (Foot.refl _)
  | .dumpDone => execDumpDone_keeps s (State.kept_refl _ s) (Foot.refl _)
  | .counterWrite _ _ _ _ _ => execCounterWrite_keeps _ _ _ _ _ s (State.kept_refl _ s) (Foot.refl _)
  | .bwWindowEnd _ _ _ _ _ _ => execBwWindowEnd_keeps _ _ _ _ _ _ s (State.kept_refl _ s) (Foot.refl _)
  | .instructionSample _ _ _ _ _ => execInstructionSample_keeps _ _ _ _ _ s (State.kept_refl _ s) (Foot.refl _)
  | .cntDump _ => execCntDump_keeps _ s (State.kept_refl _ s) (Foot.refl _)
  | .cntStatus _ => execCntStatus_keeps _ s (State.kept_refl _ s) (Foot.refl _)
  | .islandPowerOn _ => execIslandPowerOn_keeps _ s (State.kept_refl _ s) (Foot.refl _)
  | .porstAssert _ => execPorstAssert_keeps _ s (State.kept_refl _ s) (Foot.refl _)
  | .porstRelease _ _ _ => execPorstRelease_keeps _ _ _ s (State.kept_refl _ s) (Foot.refl _)
  | .bootStageDone _ _ _ _ => execBootStageDone_keeps _ _ _ _ s (State.kept_refl _ s) (Foot.refl _)
  | .bootStageTimeout _ _ => execBootStageTimeout_keeps _ _ s (State.kept_refl _ s) (Foot.refl _)
  | .deviceReset _ _ => execDeviceReset_keeps _ _ s (State.kept_refl _ s) (Foot.refl _)
  | .coreReset _ _ => execCoreReset_keeps _ _ s (State.kept_refl _ s) (Foot.refl _)
  | .cxlUReset => execCxlUReset_keeps s (State.kept_refl _ s) (Foot.refl _)
  | .functionLevelReset => execFunctionLevelReset_keeps s (State.kept_refl _ s) (Foot.refl _)
  | .rootLockLoss => execRootLockLoss_keeps s (State.kept_refl _ s) (Foot.refl _)
  | .rootRelockAttempt => execRootRelockAttempt_keeps s (State.kept_refl _ s) (Foot.refl _)
  | .rootRelocked => execRootRelocked_keeps s (State.kept_refl _ s) (Foot.refl _)
  | .xoLost => execXoLost_keeps s (State.kept_refl _ s) (Foot.refl _)
  | .xoRestored => execXoRestored_keeps s (State.kept_refl _ s) (Foot.refl _)
  | .fltRelease => execFltRelease_keeps s (State.kept_refl _ s) (Foot.refl _)
  | .fltSw _ _ => execFltSw_keeps _ _ s (State.kept_refl _ s) (Foot.refl _)
  | .escalationTimeout _ => execEscalationTimeout_keeps _ s (State.kept_refl _ s) (Foot.refl _)
  | .registerRead _ _ _ => execRegisterRead_keeps _ _ _ s (State.kept_refl _ s) (Foot.refl _)
  | .bootStRead _ => execBootStRead_keeps _ s (State.kept_refl _ s) (Foot.refl _)
  | .pwrWarn _ => execPwrWarn_keeps _ s (State.kept_refl _ s) (Foot.refl _)
  | .ingressCsf _ => execIngressCsf_keeps _ s (State.kept_refl _ s) (Foot.refl _)
  | .ingressCsfClear _ => execIngressCsfClear_keeps _ s (State.kept_refl _ s) (Foot.refl _)
  | .partnerDataLoss _ _ _ => execPartnerDataLoss_keeps _ _ _ s (State.kept_refl _ s) (Foot.refl _)
  | .endMarker _ _ _ => execEndMarker_keeps _ _ _ s (State.kept_refl _ s) (Foot.refl _)
  | .snoop _ => execSnoop_keeps _ s (State.kept_refl _ s) (Foot.refl _)
  | .mfgRelease => execMfgRelease_keeps s (State.kept_refl _ s) (Foot.refl _)

/-- A part of the state outside a command's footprint is the same after it. -/
theorem exec_samePart {c : Instr} {s t : State} (h : exec c s = .next t) (k : Nat) (hk : (footprint c).testBit k = false) :
    samePart k s t :=
  State.kept_part (exec_keeps s c t h) k hk

theorem exec_shadow {c : Instr} {s t : State} (h : exec c s = .next t) (hk : (footprint c).testBit 0 = false) :
    t.shadow = s.shadow :=
  exec_samePart h 0 hk

theorem exec_tod {c : Instr} {s t : State} (h : exec c s = .next t) (hk : (footprint c).testBit 2 = false) : t.tod = s.tod :=
  exec_samePart h 2 hk

/-- Settles O7: the footprints that hold the shadow store, and those that hold the seconds, are those of the commands named; every other
command lies outside. -/
theorem shadowAndTimeChangeOnlyBy : Obligations.ShadowAndTimeChangeOnlyBy := by
  unfold Obligations.ShadowAndTimeChangeOnlyBy
  refine ⟨fun c s t h => ?_, fun c s t h => ?_⟩
  · cases c with
    | islandPowerOn | porstAssert | deviceReset | coreReset | rootLockLoss | escalationTimeout | supplyThresholdCross | shutdownRestart
    | tjSample | commit | registerWrite | counterWrite => simp
    | _ => exact .inl (exec_shadow h (by simp only [footprint]; rfl))
  · cases c with
    | ppsInPulse | islandPowerOn | porstAssert | deviceReset | coreReset | rootLockLoss | escalationTimeout | supplyThresholdCross
    | shutdownRestart | tjSample | secondRollover | registerWrite | counterWrite => simp
    | _ => exact .inl (exec_tod h (by simp only [footprint]; rfl))

end Sys2Proof.Machine
end

section
/-! What a register read returns (R9, Table 0.4): the fields of a register share no bit, so the sum that a read gathers shows each field
in its own place. -/

namespace Sys2Proof.Machine

open Sys2Proof

/-! ### The fields of a register -/

/-- Two fields share no bit. -/
def FieldSpec.apart (f g : FieldSpec) : Bool := f.hi < g.lo || g.hi < f.lo

theorem regSpec_fields_apart (id : RegId) : (regSpec id).fields.Pairwise fun f g => f.apart g = true := by
  cases id <;> decide

theorem regSpec_fields_within (id : RegId) : ∀ f ∈ (regSpec id).fields, f.lo ≤ f.hi ∧ f.hi < (regSpec id).width := by
  cases id <;> decide

/-- A field written leaves a field apart from it as it was. -/
theorem bits_setBits_apart {f g : FieldSpec} (v x : Nat) (hf : f.lo ≤ f.hi) (h : f.apart g = true) :
    bits (setBits v f.hi f.lo x) g.hi g.lo = bits v g.hi g.lo := by
  simp only [FieldSpec.apart, Bool.or_eq_true, decide_eq_true_eq] at h
  rcases h with h | h
  · exact bits_setBits_above v f.hi f.lo x g.hi g.lo hf h
  · exact bits_setBits_below v f.hi f.lo x g.hi g.lo hf h

/-- A value put where a field is zero is the field set to it. -/
theorem add_shiftLeft_eq_setBits {a hi lo x : Nat} (ha : bits a hi lo = 0) (hx : x < 2 ^ (hi + 1 - lo)) :
    a + x <<< lo = setBits a hi lo x := by
  simp [setBits, ha, Nat.mod_eq_of_lt hx]

/-- A value with the contents of some fields added at their places. -/
def fieldSum (x : FieldSpec → Nat) (l : List FieldSpec) (a : Nat) : Nat := l.foldl (fun a f => a + x f <<< f.lo) a

/-- What is added to empty fields that lie apart stands in each of them, and leaves every field apart from them as it was. -/
theorem bits_fieldSum (x : FieldSpec → Nat) (l : List FieldSpec) (a : Nat) (hl : l.Pairwise fun f g => f.apart g = true)
    (hw : ∀ f ∈ l, f.lo ≤ f.hi) (hx : ∀ f ∈ l, x f < 2 ^ (f.hi + 1 - f.lo)) (ha : ∀ f ∈ l, bits a f.hi f.lo = 0) :
    (∀ f ∈ l, bits (fieldSum x l a) f.hi f.lo = x f) ∧
      ∀ g : FieldSpec, (∀ f ∈ l, f.apart g = true) → bits (fieldSum x l a) g.hi g.lo = bits a g.hi g.lo := by
  induction l generalizing a with
  | nil => exact ⟨by simp, fun _ _ => rfl⟩
  | cons f l ih =>
    obtain ⟨hfl, hl⟩ := List.pairwise_cons.mp hl
    simp only [List.forall_mem_cons] at hw hx ha ⊢
    have step : fieldSum x (f :: l) a = fieldSum x l (setBits a f.hi f.lo (x f)) := by
      rw [← add_shiftLeft_eq_setBits ha.1 hx.1]; rfl
    obtain ⟨inside, outside⟩ := ih (setBits a f.hi f.lo (x f)) hl hw.2 hx.2 fun g hg => by
      rw [bits_setBits_apart _ _ hw.1 (hfl g hg), ha.2 g hg]
    rw [step]
    refine ⟨⟨?_, inside⟩, fun g ⟨hfg, hlg⟩ => ?_⟩
    · rw [outside f fun g hg => ?_, bits_setBits_same _ _ _ _ hw.1, Nat.mod_eq_of_lt hx.1]
      simpa [FieldSpec.apart, or_comm] using hfl g hg
    · rw [outside g hlg, bits_setBits_apart _ _ hw.1 hfg]

/-! ### The value of a read -/

variable (s : State)

/-- What a read shows of a field of a register that holds v (Table 0.4). -/
def State.fieldRead (r : RegKey) (v : Nat) (f : FieldSpec) : Nat :=
  match f.acc with
  | .wo => 0
  | .rwc => bits (s.shadow.get r) f.hi f.lo
  | _ => bits v f.hi f.lo

theorem State.fieldRead_lt (r : RegKey) (v : Nat) (f : FieldSpec) : s.fieldRead r v f < 2 ^ (f.hi + 1 - f.lo) := by
  unfold State.fieldRead
  split
  · positivity
  · exact bits_lt _ _ _
  · exact bits_lt _ _ _

theorem State.fieldRead_wo (r : RegKey) (v : Nat) {f : FieldSpec} (h : f.acc = .wo) : s.fieldRead r v f = 0 := by
  simp [State.fieldRead, h]

theorem State.fieldRead_rwc (r : RegKey) (v : Nat) {f : FieldSpec} (h : f.acc = .rwc) :
    s.fieldRead r v f = bits (s.shadow.get r) f.hi f.lo := by
  simp [State.fieldRead, h]

theorem State.fieldRead_active (r : RegKey) (v : Nat) {f : FieldSpec} (hw : f.acc ≠ .wo) (hc : f.acc ≠ .rwc) :
    s.fieldRead r v f = bits v f.hi f.lo := by
  unfold State.fieldRead
  split
  · exact absurd ‹_› hw
  · exact absurd ‹_› hc
  · rfl

/-- The registers whose reads are computed from the state or have an effect (log entry 73). -/
def computedRegs : List RegId :=
  [.TOP_INT_ST, .TOP_HOLD, .BRAD_SC_ACT, .SHET_CLI_STAT, .TWIN_STAT, .STRD_ADC_STAT, .TOP_BOOT_ST]

/-- A register whose reads show what it stores. -/
def plainRead (r : RegKey) : Prop := r.id ∉ computedRegs ∧ commitSt (regBlock r.id) ≠ some r.id

theorem State.present_plain {r : RegKey} (h : plainRead r) : s.present r = (s, s.regs.get r) := by
  obtain ⟨hid, hc⟩ := h
  simp only [computedRegs, List.mem_cons, List.not_mem_nil, or_false, not_or] at hid
  unfold State.present
  split <;> simp_all

/-- A read gathers the fields of what the register shows. -/
theorem State.readValue_snd (r : RegKey) :
    (s.readValue r).2 = fieldSum (s.fieldRead r (s.present r).2) (regSpec r.id).fields 0 := by
  unfold State.readValue fieldSum State.fieldRead
  dsimp only
  congr 1
  funext a f
  cases f.acc <;> simp

/-- A read of a register that shows what it stores leaves the state, and shows each field by Table 0.4. -/
theorem State.readValue_plain {r : RegKey} (h : plainRead r) :
    (s.readValue r).1 = s ∧ ∀ f ∈ (regSpec r.id).fields, bits (s.readValue r).2 f.hi f.lo = s.fieldRead r (s.regs.get r) f := by
  constructor
  · have hb : r.id ≠ .TOP_BOOT_ST := fun e => h.1 (by rw [e]; decide)
    simp [State.readValue, s.present_plain h, hb]
  · rw [s.readValue_snd, s.present_plain h]
    exact (bits_fieldSum _ _ 0 (regSpec_fields_apart r.id) (fun f hf => (regSpec_fields_within r.id f hf).1)
      (fun f _ => s.fieldRead_lt r _ f) fun f _ => by simp [bits]).1

/-- Outside the mailbox ends and the authentication window every requester reaches the register. -/
theorem State.reachedValue_open (req : Requester) {r : RegKey} (he : endOf r = none) (ha : inAuth r.id = false) :
    s.reachedValue req r = s.readValue r := by
  simp [State.reachedValue, he, ha]

end Sys2Proof.Machine
end

section
/-! Register accesses: reads with the holding slots (R10 to R12), malformed accesses (R8, R519), the write of a Fathom counter that
meets an increment (R464). -/

namespace Sys2Proof.Machine

open Sys2Proof

variable (s : State)

/-! ### Reads of one register -/

/-- A register found at an address is one that its block has. -/
theorem regValid_of_findReg {addr w : Nat} {r : RegKey} (h : findReg addr = some (r, w)) : regValid r = true := by
  obtain ⟨id, -, hid⟩ := List.exists_of_findSome?_eq_some h
  unfold regAt at hid
  dsimp only at hid
  split at hid
  · cases hid
  · split at hid
    · next hv =>
      cases hid
      exact (Bool.and_eq_true_iff.mp hv).1
    · cases hid

theorem State.readPiece_live {req : Requester} {addr n : Nat} {r : RegKey} (hf : findReg addr = some (r, 0))
    (hl : (s.boot.coreUp || inWindow r.id) = true) :
    s.readPiece req addr n = ((s.reachedValue req r).1, (s.reachedValue req r).2 % 2 ^ n, false) := by
  have hl' : (!s.boot.coreUp && !inWindow r.id) = false := by rw [← Bool.not_or, hl]; rfl
  simp [State.readPiece, hf, hl']

theorem State.read32_narrow {req : Requester} {addr w : Nat} {r : RegKey} (latch : Option Latch) (hf : findReg addr = some (r, w))
    (hw : (regSpec r.id).width = 32) : s.read32 req latch addr = s.readPiece req addr 32 := by
  simp [State.read32, hf, hw]

theorem State.read32_low {req : Requester} {addr : Nat} {r : RegKey} (latch : Option Latch) (hf : findReg addr = some (r, 0))
    (hw : (regSpec r.id).width = 64) (hc : s.boot.coreUp = true) :
    s.read32 req latch addr =
      ((s.reachedValue req r).1.latch req r ((s.reachedValue req r).2 >>> 32), (s.reachedValue req r).2 % 2 ^ 32, false) := by
  simp [State.read32, hf, hw, hc]

theorem State.read32_high {req : Requester} {addr : Nat} {r : RegKey} {l : Latch} (hf : findReg addr = some (r, 1))
    (hw : (regSpec r.id).width = 64) (hc : s.boot.coreUp = true) (hk : l.key = r) :
    s.read32 req (some l) addr = (s, l.high, false) := by
  simp [State.read32, Option.filter, hf, hw, hc, hk]

theorem State.read32_unassigned {req : Requester} {addr : Nat} (latch : Option Latch) (hf : findReg addr = none) :
    s.read32 req latch addr = (s, 0, true) := by
  simp [State.read32, hf]

/-! ### Reads -/

/-- The latch that a requester holds (R11). -/
def State.ownLatch (req : Requester) : Option Latch := s.latches.find? fun l => l.req = s.stampOf req

/-- A read of 32 bits by a requester that reads every register gives what read32 gives, the requester's latch gone first (R12). -/
theorem State.readAccess_narrow {req : Requester} {addr v : Nat} {t : State}
    (hi : req ≠ .i3c ∨ ((findReg addr).any fun e => inWindow e.1.id) = true)
    (h : (s.dropLatch req).read32 (s.stampOf req) (s.ownLatch req) addr = (t, v, false)) :
    s.readAccess req addr false = t.emit (.read req v) := by
  unfold State.ownLatch at h
  have ho : (decide (req = .i3c) && !((findReg addr).any fun e => inWindow e.1.id)) = false := by
    rcases hi with hi | hi <;> simp [hi]
  simp only [State.readAccess, ho, h]
  simp

/-- A read of an unassigned address is counted and returns what read32 gives. -/
theorem State.readAccess_unassigned {req : Requester} {addr : Nat} (hi : req ≠ .i3c) (hf : findReg addr = none) :
    s.readAccess req addr false = ((s.dropLatch req).inc .TOP_ACC_ERR_UNASSIGNED_RD).emit (.read req 0) := by
  simp [State.readAccess, hi, State.read32_unassigned _ _ hf]

/-- While fewer than 16 latches are held, a new one takes a slot that none of them has (R11). -/
theorem State.latch_free (req : Requester) (r : RegKey) (high : Nat) (h : s.latches.length < 16) :
    ∃ k, s.latch req r high = { s with latches := s.latches ++ [⟨k, req, r, high⟩] } ∧ ∀ l ∈ s.latches, l.slot ≠ k := by
  unfold State.latch
  dsimp only
  split
  · next k hk =>
    have hk := List.find?_some hk
    refine ⟨k, rfl, fun l hl e => ?_⟩
    simp only [Bool.not_eq_true', List.contains_eq_mem, decide_eq_false_iff_not, List.mem_map, not_exists, not_and] at hk
    exact hk l hl e
  · next hk =>
    have hsub : List.range 16 ⊆ s.latches.map fun l => l.slot := fun k hk16 => by
      simpa using List.find?_eq_none.mp hk k hk16
    have := (List.nodup_range.subperm hsub).length_le
    simp at this
    omega

/-! ### Malformed accesses -/

/-- An access of another form by the host: counted, and answered with Unsupported Request (R8). -/
theorem State.malformed_host (p : BitVec 20) (addr : Nat) (read : Bool) :
    s.malformed (.host p) addr read = ((s.dropLatch (.host p)).inc .TOP_ACC_ERR_UR).emit (.unsupported (.host p)) := rfl

/-- A read of another form by JTAG: counted, and answered with zero (R519). -/
theorem State.malformed_jtag_read (addr : Nat) :
    s.malformed .jtag addr true = ((s.dropLatch .jtag).inc .TOP_ACC_ERR_UR).emit (.read .jtag 0) := rfl

/-- The counts of TOP_ACC_ERR stop at 65535 (Table 22.6). -/
theorem State.rd_inc_accErr_ur : (s.inc .TOP_ACC_ERR_UR).rd .TOP_ACC_ERR_UR = min (s.rd .TOP_ACC_ERR_UR + 1) 65535 :=
  s.rd_inc_same .TOP_ACC_ERR_UR 1 0 0 0 rfl (by decide) (by decide)

theorem State.rd_inc_accErr_unassignedRd :
    (s.inc .TOP_ACC_ERR_UNASSIGNED_RD).rd .TOP_ACC_ERR_UNASSIGNED_RD = min (s.rd .TOP_ACC_ERR_UNASSIGNED_RD + 1) 65535 :=
  s.rd_inc_same .TOP_ACC_ERR_UNASSIGNED_RD 1 0 0 0 rfl (by decide) (by decide)

/-! ### The write of a Fathom counter -/

/-- The Fathom counters (R462). -/
def counterIds : List RegId :=
  [.BCKT_MEM_CNT, .BCKT_CNT, .FTHM_XING, .FTHM_SLIP, .FTHM_PORT, .CLET_CNT, .HTCH_CNT, .SEIZ_KC_CNT, .BEND_PG_CNT, .SHET_CNT, .TWIN_CNT,
    .LNYD_CNT]

theorem mem_counterIds (id : RegId) : isCounter id = true → id ∈ counterIds := by
  cases id <;> decide

/-- COUNT is plain, WRAP is cleared by a one, and there is no other field: how a write of a counter is made up. -/
theorem counter_codes : ∀ id ∈ counterIds,
    rwcMask id = 0 ∧ accMask id .w1c = 2 ^ 63 ∧ accMask id .w1s = 0 ∧ (regSpec id).width = 64 := by
  decide

theorem counter_rwWrite (old new : Nat) : ∀ id ∈ counterIds, rwWrite id old new = setBits old 47 0 (bits new 47 0) := by
  simp only [counterIds, List.forall_mem_cons]
  exact ⟨rfl, rfl, rfl, rfl, rfl, rfl, rfl, rfl, rfl, rfl, rfl, rfl, by simp⟩

theorem counter_commitBlock : ∀ id ∈ counterIds, commitBlock id = none := by
  decide

theorem counter_isCounter : ∀ id ∈ counterIds, isCounter id = true := by
  decide

theorem counter_writeCause : ∀ id ∈ counterIds, writeCause id = none ∨ writeCause id = some (18, 4) := by
  decide

theorem State.writeEffect_counter {r : RegKey} (v inc : Nat) (h : r.id ∈ counterIds) :
    s.writeEffect r v inc = if inc ≠ 0 then (s.plainWrite r v).count r.id inc r.i r.j r.k else s.plainWrite r v := by
  have hc := counter_isCounter r.id h
  obtain ⟨id, i, j, k⟩ := r
  simp only [counterIds, List.mem_cons, List.not_mem_nil, or_false] at h
  rcases h with rfl | rfl | rfl | rfl | rfl | rfl | rfl | rfl | rfl | rfl | rfl | rfl <;>
    simp only [State.writeEffect, hc, Bool.true_and, bne_iff_ne]

/-- Taking away the bit that two values share clears it in the first where the second has it set: a W1C bit. -/
theorem sub_and_bit (b v n : Nat) : b - (b &&& (v &&& 2 ^ n)) = if bits v n n = 1 then setBits b n n 0 else b := by
  have hb : bits v n n = (v.testBit n).toNat := by simp [bits, Nat.toNat_testBit, Nat.shiftRight_eq_div_pow]
  have hc : bits b n n = (b.testBit n).toNat := by simp [bits, Nat.toNat_testBit, Nat.shiftRight_eq_div_pow]
  rw [Nat.and_two_pow, hb]
  cases v.testBit n
  · simp
  · simp [setBits, hc, Nat.and_two_pow, Nat.shiftLeft_eq]

/-- What a write leaves in a counter: COUNT as written, WRAP cleared by a one (R462). -/
def counterWritten (old v : Nat) : Nat :=
  if bits v 63 63 = 1 then setBits (setBits old 47 0 (bits v 47 0)) 63 63 0 else setBits old 47 0 (bits v 47 0)

theorem bits_counterWritten (old v : Nat) : bits (counterWritten old v) 47 0 = bits v 47 0 ∧
    bits (counterWritten old v) 63 63 = if bits v 63 63 = 1 then 0 else bits old 63 63 := by
  have hc : bits v 47 0 % 2 ^ 48 = bits v 47 0 := Nat.mod_eq_of_lt (bits_lt v 47 0)
  unfold counterWritten
  split
  · rw [bits_setBits_below _ 63 63 _ 47 0 (by decide) (by decide), bits_setBits_same _ 47 0 _ (by decide),
      bits_setBits_same _ 63 63 _ (by decide)]
    exact ⟨hc, rfl⟩
  · rw [bits_setBits_same _ 47 0 _ (by decide), bits_setBits_above _ 47 0 _ 63 63 (by decide) (by decide)]
    exact ⟨hc, rfl⟩

theorem State.plainWrite_counter (v : Nat) {r : RegKey} (h : r.id ∈ counterIds) :
    s.plainWrite r v = { s with regs := s.regs.put r (counterWritten (s.regs.get r) v) } := by
  obtain ⟨hrwc, hw1c, hw1s, -⟩ := counter_codes r.id h
  simp only [State.plainWrite, hrwc, hw1c, hw1s, counter_rwWrite _ _ r.id h, sub_and_bit, Nat.and_zero, Nat.or_zero, if_true]
  rfl

theorem State.get_plainWrite_counter (v : Nat) {r : RegKey} (h : r.id ∈ counterIds) (hv : regValid r = true) :
    bits ((s.plainWrite r v).regs.get r) 47 0 = bits v 47 0 ∧
      bits ((s.plainWrite r v).regs.get r) 63 63 = if bits v 63 63 = 1 then 0 else bits (s.regs.get r) 63 63 := by
  obtain ⟨-, -, -, hw⟩ := counter_codes r.id h
  rw [s.plainWrite_counter v h, RegStore.get_put_same _ _ _ hv, hw, bits_mod _ 47 0 64 (by decide) (by decide),
    bits_mod _ 63 63 64 (by decide) (by decide)]
  exact bits_counterWritten _ v

/-- An increment wraps COUNT at 48 bits and sets WRAP where it passes its end (R462). -/
theorem State.get_count_counter (d : Nat) {r : RegKey} (h : r.id ∈ counterIds) (hv : regValid r = true) :
    bits ((s.count r.id d r.i r.j r.k).regs.get r) 47 0 = (bits (s.regs.get r) 47 0 + d) % 2 ^ 48 ∧
      bits ((s.count r.id d r.i r.j r.k).regs.get r) 63 63 =
        if 2 ^ 48 ≤ bits (s.regs.get r) 47 0 + d then 1 else bits (s.regs.get r) 63 63 := by
  obtain ⟨-, -, -, hw⟩ := counter_codes r.id h
  have hb := bits_lt (s.regs.get r) 63 63
  unfold State.count
  dsimp only
  rw [State.setReg_regs, RegStore.get_put_same _ _ _ hv, hw, bits_mod _ 47 0 64 (by decide) (by decide),
    bits_mod _ 63 63 64 (by decide) (by decide), bits_setBits_below _ 63 63 _ 47 0 (by decide) (by decide),
    bits_setBits_same _ 47 0 _ (by decide), bits_setBits_same _ 63 63 _ (by decide)]
  refine ⟨rfl, Nat.mod_eq_of_lt ?_⟩
  split
  · decide
  · exact hb

/-- A write that meets an increment leaves the written count plus it (R464). -/
theorem State.get_writeEffect_counter (v inc : Nat) {r : RegKey} (h : r.id ∈ counterIds) (hv : regValid r = true) :
    bits ((s.writeEffect r v inc).regs.get r) 47 0 = (bits v 47 0 + inc) % 2 ^ 48 ∧
      bits ((s.writeEffect r v inc).regs.get r) 63 63 =
        if 2 ^ 48 ≤ bits v 47 0 + inc then 1 else if bits v 63 63 = 1 then 0 else bits (s.regs.get r) 63 63 := by
  obtain ⟨hcount, hwrap⟩ := s.get_plainWrite_counter v h hv
  rw [s.writeEffect_counter v inc h]
  split
  · obtain ⟨hcount', hwrap'⟩ := (s.plainWrite r v).get_count_counter inc h hv
    rw [hcount', hwrap', hcount, hwrap]
    exact ⟨rfl, rfl⟩
  · next hz =>
    have hlt := bits_lt v 47 0
    rw [not_not.mp hz, Nat.add_zero, Nat.mod_eq_of_lt hlt, if_neg (Nat.not_le.mpr hlt)]
    exact ⟨hcount, hwrap⟩

theorem State.get_writeEffect_counter_other (v inc : Nat) {r q : RegKey} (h : r.id ∈ counterIds) (hq : q ≠ r) :
    (s.writeEffect r v inc).regs.get q = s.regs.get q := by
  have hp : (s.plainWrite r v).regs.get q = s.regs.get q := by
    rw [s.plainWrite_counter v h]; exact RegStore.get_put_other _ _ _ _ hq
  rw [s.writeEffect_counter v inc h]
  split
  · rw [← hp]; exact RegStore.get_put_other _ _ _ _ hq
  · exact hp

/-- A write of all 64 bits of a register gives each of its fields. -/
theorem State.bits_wholeValue (r : RegKey) (v hi lo : Nat) (h : lo ≤ hi) (hw : hi < 64) :
    bits (s.wholeValue r 0 64 v) hi lo = bits v hi lo := by
  have e : s.wholeValue r 0 64 v % 2 ^ 64 = v % 2 ^ 64 := by
    have := bits_setBits_same ((s.regs.get r &&& accMask r.id .rw) ||| (s.shadow.get r &&& rwcMask r.id)) 63 0 v (by decide)
    simpa [bits, State.wholeValue] using this
  rw [← bits_mod _ hi lo 64 h hw, e, bits_mod _ hi lo 64 h hw]

/-! ### The rights and the way of the write -/

theorem State.serviceField_counter (req : Requester) {r : RegKey} (lo n v : Nat) (h : r.id ∈ counterIds) :
    s.serviceField req r lo n v = s := by
  have hst : RegId.TALY_AGE_ST ≠ r.id := fun e => absurd h (by rw [← e]; decide)
  have hline : RegId.TALY_AGE_LINE ≠ r.id := fun e => absurd h (by rw [← e]; decide)
  cases req <;> simp [State.serviceField, hst, hline]

theorem State.writeOr_permitted {req : Requester} {need : Nat} {doms : List Nat} (addr old new : Nat) (opJournal : Bool)
    (b cause unit : Nat) (f : State → State) (hp : s.permits req need doms = true) :
    s.writeOr req need doms addr old new opJournal b cause unit f = s.write req need doms addr old new opJournal f := by
  simp [State.writeOr, hp]

/-- A register write with its rights, and a journal that can take it, changes no register but as the write says, and the journal's fill. -/
theorem State.get_write_permitted {req : Requester} {need : Nat} {doms : List Nat} (addr old new : Nat) (f : State → State) (q : RegKey)
    (hp : s.permits req need doms = true) (hj : s.journalBlocked = false) (hq : q.id ≠ .MRLN_NV_ST) :
    (s.write req need doms addr old new false f).regs.get q = (f s).regs.get q := by
  rcases Nat.lt_or_ge (s.topRole req doms) 2 with hr | hr
  · rw [s.write_plain req need doms addr old new f hp hr]
  · rw [s.write_journaled req need doms addr old new false f hp hr hj, State.get_record _ _ _ _ _ _ _ _ _ _ _ hq]

/-- A counter has no write of its own: with the rights it needs the write is a plain one, journaled as any other. -/
theorem State.regWrite_counter {req : Requester} {r : RegKey} (lo n v inc : Nat) (h : r.id ∈ counterIds)
    (hp : s.permits req (writeNeed r.id lo n) (s.regDoms r) = true) :
    s.regWrite req r lo n v inc =
      s.write req (writeNeed r.id lo n) (s.regDoms r) (regAddr r + lo / 8) (bits (s.regs.get r) (lo + n - 1) lo) v false
        fun t => t.writeEffect r (s.wholeValue r lo n v) inc := by
  have hs := fun t : State => t.serviceField_counter req (r := r) lo n v h
  have hc := counter_writeCause r.id h
  obtain ⟨id, i, j, k⟩ := r
  simp only [counterIds, List.mem_cons, List.not_mem_nil, or_false] at h
  rcases h with rfl | rfl | rfl | rfl | rfl | rfl | rfl | rfl | rfl | rfl | rfl | rfl <;>
    rcases hc with hc | hc <;> simp only [State.regWrite, hs, hc, s.writeOr_permitted _ _ _ _ _ _ _ _ hp]

/-- A write of 64 bits at a 64-bit register that is no COMMIT register, with the core and the register's block out of reset. -/
theorem State.writeAccess_wide {req : Requester} {addr : Nat} {r : RegKey} (v inc : Nat) (hi : req ≠ .i3c)
    (hf : findReg addr = some (r, 0)) (hw : (regSpec r.id).width = 64) (hc : s.boot.coreUp = true) (hb : commitBlock r.id = none)
    (ha : s.alive (regBlock r.id) = true) :
    s.writeAccess req addr true v inc = (s.dropLatch req).regWrite req r 0 64 (v % 2 ^ 64) inc := by
  simp [State.writeAccess, State.write64, State.writePiece, hi, hf, hw, hc, hb, ha]

/-- The registers after a permitted 64-bit write of a counter that the journal can take: those of the write's effect, but for the journal's
fill. -/
theorem State.get_regWrite_counter {req : Requester} {r : RegKey} (v inc : Nat) (q : RegKey) (h : r.id ∈ counterIds)
    (hp : s.permits req (writeNeed r.id 0 64) (s.regDoms r) = true) (hj : s.journalBlocked = false) (hq : q.id ≠ .MRLN_NV_ST) :
    (s.regWrite req r 0 64 v inc).regs.get q = (s.writeEffect r (s.wholeValue r 0 64 v) inc).regs.get q := by
  rw [s.regWrite_counter 0 64 v inc h hp, s.get_write_permitted _ _ _ _ q hp hj hq]

end Sys2Proof.Machine
end

section
/-! The obligation on register reads, from the laws of the accesses. -/

namespace Sys2Proof.Machine

open Sys2Proof

variable (s : State)

/-! ### The commands as accesses -/

theorem exec_registerRead_legal {req : Requester} {addr : Nat} (h : legalForm req addr 4 = true) :
    exec (.registerRead req addr false) s = .next (s.readAccess req addr false) := by
  change execRegisterRead _ _ _ s = _
  simp [execRegisterRead, h]

theorem exec_lowHalfRead_legal {req : Requester} {addr : Nat} (h : legalForm req addr 4 = true) :
    exec (.lowHalfRead req addr) s = .next (s.readAccess req addr false) := by
  change execLowHalfRead _ _ s = _
  simp [execLowHalfRead, h]

theorem exec_highHalfRead_legal {req : Requester} {addr : Nat} (h : legalForm req addr 4 = true) :
    exec (.highHalfRead req addr) s = .next (s.readAccess req addr false) := by
  change execHighHalfRead _ _ s = _
  simp [execHighHalfRead, h]

theorem exec_malformedAccess {req : Requester} {addr bytes : Nat} (read : Bool) (h : legalForm req addr bytes = false) :
    exec (.malformedAccess req addr bytes read) s = .next (s.malformed req addr read) := by
  change execMalformedAccess _ _ _ _ s = _
  simp [execMalformedAccess, h]

theorem exec_counterWrite_legal {req : Requester} {addr : Nat} (value inc : Nat) (h : legalForm req addr 8 = true) :
    exec (.counterWrite req addr true value inc) s = .next (s.writeAccess req addr true value inc) := by
  change execCounterWrite _ _ _ _ _ s = _
  simp [execCounterWrite, h]

/-! ### What they leave -/

/-- A read of a 32-bit register that shows what it stores. -/
theorem exec_registerRead_narrowReg {req : Requester} {addr : Nat} {r : RegKey} (hl : legalForm req addr 4 = true) (hi : req ≠ .i3c)
    (hf : findReg addr = some (r, 0)) (hw : (regSpec r.id).width = 32) (hc : s.boot.coreUp = true) (he : endOf r = none)
    (ha : inAuth r.id = false) (hp : plainRead r) :
    exec (.registerRead req addr false) s =
      .next ((s.dropLatch req).emit (.read req (((s.dropLatch req).readValue r).2 % 2 ^ 32))) := by
  rw [exec_registerRead_legal s hl, s.readAccess_narrow (.inl hi)]
  rw [State.read32_narrow _ _ hf hw, State.readPiece_live _ hf (by simp [hc]), State.reachedValue_open _ _ he ha,
    (State.readValue_plain _ hp).1]

/-- A read of an unassigned address is counted and returns zero (R8). -/
theorem exec_registerRead_unassigned {req : Requester} {addr : Nat} (hl : legalForm req addr 4 = true) (hi : req ≠ .i3c)
    (hf : findReg addr = none) :
    exec (.registerRead req addr false) s = .next (((s.dropLatch req).inc .TOP_ACC_ERR_UNASSIGNED_RD).emit (.read req 0)) := by
  rw [exec_registerRead_legal s hl, s.readAccess_unassigned hi hf]

/-- A read of the low half of a 64-bit register that shows what it stores: the high half is latched (R11). -/
theorem exec_lowHalfRead_latches {req : Requester} {addr : Nat} {r : RegKey} (hl : legalForm req addr 4 = true) (hi : req ≠ .i3c)
    (hf : findReg addr = some (r, 0)) (hw : (regSpec r.id).width = 64) (hc : s.boot.coreUp = true) (he : endOf r = none)
    (ha : inAuth r.id = false) (hp : plainRead r) :
    exec (.lowHalfRead req addr) s =
      .next (((s.dropLatch req).latch (s.stampOf req) r (((s.dropLatch req).readValue r).2 >>> 32)).emit
        (.read req (((s.dropLatch req).readValue r).2 % 2 ^ 32))) := by
  rw [exec_lowHalfRead_legal s hl, s.readAccess_narrow (.inl hi)]
  rw [State.read32_low _ _ hf hw (by simp [hc]), State.reachedValue_open _ _ he ha, (State.readValue_plain _ hp).1]

/-- A read of a high half that the requester has latched returns what is latched and frees the slot (R11). -/
theorem exec_highHalfRead_latched {req : Requester} {addr : Nat} {r : RegKey} {l : Latch} (hl : legalForm req addr 4 = true)
    (hi : req ≠ .i3c) (hf : findReg addr = some (r, 1)) (hw : (regSpec r.id).width = 64) (hc : s.boot.coreUp = true)
    (hown : s.ownLatch req = some l) (hk : l.key = r) :
    exec (.highHalfRead req addr) s = .next ((s.dropLatch req).emit (.read req l.high)) := by
  rw [exec_highHalfRead_legal s hl, s.readAccess_narrow (.inl hi)]
  rw [hown]
  exact State.read32_high _ hf hw hc hk

theorem findReg_bootSt : findReg (regAddr ⟨.TOP_BOOT_ST, 0, 0, 0⟩) = some (⟨.TOP_BOOT_ST, 0, 0, 0⟩, 0) := by
  decide

/-- A read of TOP_BOOT_ST clears READY of TOP_INT_ST (R489). -/
theorem State.readValue_bootSt : (s.readValue ⟨.TOP_BOOT_ST, 0, 0, 0⟩).1 = s.wr .TOP_INT_ST_READY 0 := by
  simp [State.readValue, State.present, commitSt, regBlock, regSpec]

/-- Every requester reads TOP_BOOT_ST, also with the core in reset: it lies in the report window (R486, R489). -/
theorem exec_bootStRead (req : Requester) :
    ∃ x, exec (.bootStRead req) s = .next (((s.dropLatch req).wr .TOP_INT_ST_READY 0).emit (.read req x)) := by
  refine ⟨((s.dropLatch req).readValue ⟨.TOP_BOOT_ST, 0, 0, 0⟩).2 % 2 ^ 32,
    congrArg Host.Outcome.next (s.readAccess_narrow (.inr (by rw [findReg_bootSt]; rfl)) ?_)⟩
  rw [State.read32_narrow _ _ findReg_bootSt rfl, State.readPiece_live _ findReg_bootSt (by simp [inWindow]),
    State.reachedValue_open _ _ rfl rfl, State.readValue_bootSt]

theorem State.on_wr_zero (f : Fld) (i j k : Nat) (h : regValid ⟨f.id, i, j, k⟩ = true) (hf : f.lo ≤ f.hi)
    (hw : f.hi < (regSpec f.id).width) : (s.wr f 0 i j k).on f i j k = false := by
  simp [State.on, s.rd_wr_same f 0 i j k h hf hw]

/-- A permitted write of a Fathom counter that the journal can take. -/
theorem exec_counterWrite_counter {req : Requester} {addr : Nat} {r : RegKey} (value inc : Nat) (hl : legalForm req addr 8 = true)
    (hi : req ≠ .i3c) (hf : findReg addr = some (r, 0)) (hid : r.id ∈ counterIds) (hc : s.boot.coreUp = true)
    (ha : s.alive (regBlock r.id) = true) :
    exec (.counterWrite req addr true value inc) s = .next ((s.dropLatch req).regWrite req r 0 64 (value % 2 ^ 64) inc) := by
  obtain ⟨-, -, -, hw⟩ := counter_codes r.id hid
  rw [exec_counterWrite_legal s value inc hl, s.writeAccess_wide value inc hi hf hw hc (counter_commitBlock r.id hid) ha]

/-- What such a write leaves in the counter (R462, R464). -/
theorem State.get_regWrite_counter_same {req : Requester} {r : RegKey} (value inc : Nat) (hid : r.id ∈ counterIds)
    (hv : regValid r = true) (hp : s.permits req (writeNeed r.id 0 64) (s.regDoms r) = true) (hj : s.journalBlocked = false) :
    bits ((s.regWrite req r 0 64 (value % 2 ^ 64) inc).regs.get r) 47 0 = (bits value 47 0 + inc) % 2 ^ 48 ∧
      bits ((s.regWrite req r 0 64 (value % 2 ^ 64) inc).regs.get r) 63 63 =
        if 2 ^ 48 ≤ bits value 47 0 + inc then 1 else if bits value 63 63 = 1 then 0 else bits (s.regs.get r) 63 63 := by
  have hnv : r.id ≠ .MRLN_NV_ST := fun e => absurd hid (by rw [e]; decide)
  have hfull : ∀ hi lo, lo ≤ hi → hi < 64 → bits (s.wholeValue r 0 64 (value % 2 ^ 64)) hi lo = bits value hi lo :=
    fun hi lo h h64 => by rw [s.bits_wholeValue r _ hi lo h h64, bits_mod _ _ _ 64 h h64]
  have hget := s.get_writeEffect_counter (s.wholeValue r 0 64 (value % 2 ^ 64)) inc hid hv
  rw [hfull 47 0 (by decide) (by decide), hfull 63 63 (by decide) (by decide)] at hget
  rw [s.get_regWrite_counter _ inc r hid hp hj hnv]
  exact hget

/-- Settles O9: each clause reads off the state that its access leaves; the fields of a read are those that fieldSum gathers. -/
theorem registerReads : Obligations.RegisterReads := by
  unfold Obligations.RegisterReads
  refine ⟨?_, ?_, ?_, ?_, ?_, ?_, ?_, ?_⟩
  · intro s req addr r hf hw hl hi hc he ha hid hcs
    obtain ⟨-, hfields⟩ := (s.dropLatch req).readValue_plain ⟨hid, hcs⟩
    refine ⟨_, _, exec_registerRead_narrowReg s hl hi hf hw hc he ha ⟨hid, hcs⟩, rfl, rfl, rfl, fun f hfm => ?_⟩
    obtain ⟨hlo, hhi⟩ := regSpec_fields_within r.id f hfm
    rw [bits_mod _ _ _ 32 hlo (hw ▸ hhi), hfields f hfm]
    exact ⟨State.fieldRead_wo _ r _, State.fieldRead_rwc _ r _, State.fieldRead_active _ r _⟩
  · intro s req addr hf hl hi
    exact ⟨_, exec_registerRead_unassigned s hl hi hf, by simp, by simp [State.rd_inc_accErr_unassignedRd]⟩
  · intro s req addr r hf hw hl hi hc he ha hid hcs hroom
    have hint : r.id ≠ .TOP_INT_ST := fun e => absurd hw (by rw [e]; decide)
    have hp : plainRead r := ⟨List.not_mem_cons_of_ne_of_not_mem hint hid, hcs⟩
    obtain ⟨-, hfields⟩ := (s.dropLatch req).readValue_plain hp
    obtain ⟨k, hlatch, hfree⟩ := (s.dropLatch req).latch_free (s.stampOf req) r (((s.dropLatch req).readValue r).2 >>> 32) hroom
    have hexec := exec_lowHalfRead_latches s hl hi hf hw hc he ha hp
    rw [hlatch] at hexec
    refine ⟨_, _, k, hexec, rfl, rfl, rfl, hfree, fun f hfm => ?_⟩
    rw [hfields f hfm]
    exact ⟨State.fieldRead_rwc _ r _, fun hwo hrwc _ => State.fieldRead_active _ r _ hwo hrwc⟩
  · intro s req addr r l hf hw hl hi hc hown hk
    exact ⟨_, exec_highHalfRead_latched s hl hi hf hw hc hown hk, rfl⟩
  · intro s p addr bytes read hl
    refine ⟨_, exec_malformedAccess s read hl, ?_⟩
    rw [State.malformed_host]
    refine ⟨by simp, by simp [State.rd_inc_accErr_ur], by simp, fun q hq => ?_⟩
    rw [State.emit_regs, State.inc_regs, State.get_wr_other _ _ q _ _ _ _ fun e => hq (by rw [e]), State.dropLatch_regs]
  · intro s addr bytes hl
    refine ⟨_, exec_malformedAccess s true hl, ?_⟩
    rw [State.malformed_jtag_read]
    exact ⟨by simp, by simp [State.rd_inc_accErr_ur]⟩
  · intro s req
    obtain ⟨x, hexec⟩ := exec_bootStRead s req
    refine ⟨_, x, hexec, by simp, ?_, fun q hq => ?_⟩
    · simpa using (s.dropLatch req).on_wr_zero .TOP_INT_ST_READY 0 0 0 rfl (by decide) (by decide)
    · rw [State.emit_regs, State.get_wr_other _ _ q _ _ _ _ fun e => hq (by rw [e]), State.dropLatch_regs]
  · intro s req addr value inc r hf hw hcnt hl hi hc ha hp hj
    have hid := mem_counterIds r.id hcnt
    obtain ⟨hcount, hwrap⟩ := (s.dropLatch req).get_regWrite_counter_same value inc hid (regValid_of_findReg hf) hp hj
    refine ⟨_, exec_counterWrite_counter s value inc hl hi hf hid hc ha, hcount, hwrap, fun q hq hqnv => ?_⟩
    rw [(s.dropLatch req).get_regWrite_counter _ inc q hid hp hj hqnv, State.get_writeEffect_counter_other _ _ _ hid hq]
    rfl

end Sys2Proof.Machine
end

section
/-! Frames (State.only) read off footprints. -/

namespace Sys2Proof.Machine

open Sys2Proof

variable {s t : State}

/-- A part has the number in samePart that it has among the parts. -/
theorem Part.same_of_samePart (p : Part) (h : samePart p.ctorIdx s t) : p.same s t := by
  cases p <;> exact h

/-- A footprint whose registers and parts are all listed gives the frame of the lists. -/
theorem State.only_of_kept {m : Nat} {l : List Touch} {p : List Part} (h : s.kept m t)
    (hl : ∀ id : RegId, m.testBit (regBit id) = true → Touch.reg id ∈ l) (hp : ∀ k : Part, m.testBit k.ctorIdx = true → k ∈ p) :
    s.only l p t := by
  obtain ⟨-, hpending, -, hout, hregs, hparts⟩ := h
  refine ⟨fun r hr => hregs r ?_, fun k hk => k.same_of_samePart (hparts _ ?_), hpending, hout⟩
  · exact Bool.eq_false_iff.mpr fun hb => hr _ (hl r.id hb) rfl
  · exact Bool.eq_false_iff.mpr fun hb => hk (hp k hb)

/-- The frame of a command whose footprint is listed. -/
theorem exec_only {c : Instr} {l : List Touch} {p : List Part} (h : exec c s = .next t)
    (hl : ∀ id : RegId, (footprint c).testBit (regBit id) = true → Touch.reg id ∈ l)
    (hp : ∀ k : Part, (footprint c).testBit k.ctorIdx = true → k ∈ p) : s.only l p t :=
  State.only_of_kept (exec_keeps s c t h) hl hp


end Sys2Proof.Machine
end

section
/-! FIFO_RECENTRE (R37): its three stages, the count, the marks on the data and the event, each with what it changes; and the obligation on
crossings. -/

namespace Sys2Proof.Machine

open Sys2Proof

variable (s : State)

/-! ### The stages -/

/-- The count of a recentring, while Fathom acts. -/
def State.countCrossing (s : State) (d : Nat) : State := if s.alive 4 then s.count .FTHM_XING 1 d else s

/-- What a recentring inside a frame marks. -/
def State.markCrossing (s : State) (d : Nat) (inFrame : Bool) : State := if inFrame then s.recentreData d else s

/-- The event of a recentring, while its owner acts. -/
def State.raiseCrossing (s : State) (b d : Nat) : State :=
  if s.alive b then s.event (b * 2048 + Config.crossingCause % 2048) 0 [d] else s

theorem exec_fifoRecentre_owned {d : ClockDom} (inFrame : Bool) {b : Nat} (hc : s.boot.coreUp = true)
    (hb : crossingOwner d.val = some b) :
    exec (.fifoRecentre d inFrame) s = .next (((s.countCrossing d).markCrossing d inFrame).raiseCrossing b d) := by
  change execFifoRecentre d inFrame s = _
  unfold execFifoRecentre
  rw [hc, hb]
  rfl

theorem exec_fifoRecentre_ignored {d : ClockDom} (inFrame : Bool) (h : s.boot.coreUp = false ∨ crossingOwner d.val = none) :
    exec (.fifoRecentre d inFrame) s = .next s := by
  change execFifoRecentre d inFrame s = _
  rcases h with h | h
  · simp only [execFifoRecentre, h]
  · cases hc : s.boot.coreUp <;> simp only [execFifoRecentre, h, hc]

theorem exec_fifoRecentre_only {t : State} {d : ClockDom} {inFrame : Bool} (h : exec (.fifoRecentre d inFrame) s = .next t) :
    s.only (eventTouch.append [.reg .FTHM_XING]) (eventParts.append [.clients, .lanyard]) t := by
  refine exec_only h (fun id => ?_) fun k => ?_
  · simp only [footprint]
    cases id <;> decide
  · simp only [footprint]
    cases k <;> decide

/-! ### The count -/

@[simp] theorem State.countCrossing_boot (d : Nat) : (s.countCrossing d).boot = s.boot := by
  unfold State.countCrossing; split <;> rfl

@[simp] theorem State.countCrossing_clients (d : Nat) : (s.countCrossing d).clients = s.clients := by
  unfold State.countCrossing; split <;> rfl

@[simp] theorem State.countCrossing_lanyard (d : Nat) : (s.countCrossing d).lanyard = s.lanyard := by
  unfold State.countCrossing; split <;> rfl

theorem State.get_countCrossing_other (d : Nat) (r : RegKey) (h : r.id ≠ .FTHM_XING) :
    (s.countCrossing d).regs.get r = s.regs.get r := by
  unfold State.countCrossing
  split
  · exact RegStore.get_put_other _ _ _ _ fun e => h (by rw [e])
  · rfl

theorem State.rd_countCrossing {d : ClockDom} (h : s.alive 4 = true) :
    (s.countCrossing d).rd .FTHM_XING_COUNT d = (s.rd .FTHM_XING_COUNT d + 1) % 2 ^ 48 := by
  have hv : regValid ⟨.FTHM_XING, d, 0, 0⟩ = true := regValid_one _ 100 8 _ rfl d.isLt
  unfold State.countCrossing
  rw [if_pos h]
  exact (s.get_count_counter (r := ⟨.FTHM_XING, d, 0, 0⟩) 1 (show RegId.FTHM_XING ∈ counterIds by decide) hv).1

/-- A write of one register name leaves the cells of another as they are. -/
theorem RegStore.filter_put_other (l : RegStore) (r : RegKey) (v : Nat) (id : RegId) (h : r.id ≠ id) :
    (l.put r v).filter (fun c => decide (c.key.id = id)) = l.filter fun c => decide (c.key.id = id) := by
  have herase : (l.erase r).filter (fun c => decide (c.key.id = id)) = l.filter fun c => decide (c.key.id = id) := by
    rw [RegStore.erase, List.filter_filter]
    refine List.filter_congr fun c _ => ?_
    by_cases hc : c.key = r <;> simp [hc, h]
  have hinsert (u : RegStore) (x : Nat) :
      (RegStore.insert u ⟨r, x⟩).filter (fun c => decide (c.key.id = id)) = u.filter fun c => decide (c.key.id = id) := by
    induction u with
    | nil => simp [RegStore.insert, h]
    | cons c u ih =>
      unfold RegStore.insert
      split
      · simp [h]
      · simp only [List.filter_cons, ih]
  unfold RegStore.put
  dsimp only
  split
  · split
    · exact herase
    · rw [hinsert, herase]
  · rfl

theorem State.listed_countCrossing (d : Nat) (id : RegId) (h : id ≠ .FTHM_XING) : (s.countCrossing d).listed id = s.listed id := by
  unfold State.countCrossing
  split
  · exact congrArg (List.map _) (RegStore.filter_put_other _ _ _ _ h.symm)
  · rfl

/-! ### The clients of a lane -/

/-- The registers that say which clients use which lanes. -/
def laneRegs : List RegId := [.SHET_CLI_CFG, .SHET_HTS, .SHET_FLX_CFG, .TWIN_QUAD_CFG]

/-- The clients of a lane are what these registers say. -/
theorem State.clientsOn_congr {s t : State} (l : Nat) (hr : ∀ r : RegKey, r.id ∈ laneRegs → t.regs.get r = s.regs.get r)
    (hl : t.listed .SHET_HTS = s.listed .SHET_HTS) : t.clientsOn l = s.clientsOn l := by
  have hrd (f : Fld) (i : Nat) (hf : f.id ∈ laneRegs) : t.rd f i = s.rd f i := by
    unfold State.rd State.reg; rw [hr _ hf]
  have heth : t.isEth = s.isEth := funext fun c => by
    simp only [State.isEth, hrd .SHET_CLI_CFG_TYPE c (by decide)]
  have hcount : t.laneCount = s.laneCount := funext fun c => by
    simp only [State.laneCount, hrd .SHET_CLI_CFG_LANES c (by decide)]
  have hslots : t.hostSlots = s.hostSlots := funext fun c => by
    simp only [State.hostSlots, State.on, hl, hrd .SHET_HTS_EN _ (by decide), hrd .SHET_HTS_CLIENT _ (by decide)]
  have hn : t.flexN = s.flexN := funext fun g => by
    unfold State.flexN State.on
    rw [hrd .SHET_FLX_CFG_INST g (by decide), hrd .SHET_FLX_CFG_KIND g (by decide)]
  have hgroup : t.hostGroup = s.hostGroup := funext fun e => by
    simp only [State.hostGroup, State.on, hn, hrd .SHET_FLX_CFG_EN _ (by decide)]
  have hflex : t.flexLanes = s.flexLanes := funext fun g => by
    unfold State.flexLanes State.on
    rw [hrd .SHET_FLX_CFG_INST g (by decide), hrd .SHET_FLX_CFG_KIND g (by decide), hrd .TWIN_QUAD_CFG_RATE _ (by decide)]
  simp only [State.clientsOn, State.cliLanes, heth, hcount, hslots, hgroup, hflex, hrd .SHET_CLI_CFG_TYPE _ (by decide)]

theorem State.clientsOn_countCrossing (d l : Nat) : (s.countCrossing d).clientsOn l = s.clientsOn l :=
  State.clientsOn_congr l (fun r hr => s.get_countCrossing_other d r fun e => absurd hr (by rw [e]; decide))
    (s.listed_countCrossing d _ (by decide))

/-! ### The marks -/

/-- Whether a client's data is marked, toward the host or toward Sheet. -/
def ClientInt.marked (x : ClientInt) (out : Bool) : Bool := if out then x.recentredOut else x.recentred

/-- A client with its data marked. -/
def ClientInt.mark (x : ClientInt) (out : Bool) : ClientInt := if out then { x with recentredOut := true } else { x with recentred := true }

@[simp] theorem ClientInt.marked_mark (x : ClientInt) (out : Bool) : (x.mark out).marked out = true := by
  cases out <;> rfl

/-- A recentred lane marks its clients one after the other. -/
theorem State.recentreLane_eq (l : Nat) (out : Bool) :
    s.recentreLane l out = s.each (s.clientsOn l) fun c t => t.setCli c ((t.cli c).mark out) := rfl

theorem State.markEach_regs (cs : List Nat) (out : Bool) : (s.each cs fun c t => t.setCli c ((t.cli c).mark out)).regs = s.regs := by
  induction cs generalizing s with
  | nil => rfl
  | cons c cs ih => exact ih _

theorem State.markEach_boot (cs : List Nat) (out : Bool) : (s.each cs fun c t => t.setCli c ((t.cli c).mark out)).boot = s.boot := by
  induction cs generalizing s with
  | nil => rfl
  | cons c cs ih => exact ih _

@[simp] theorem State.recentreLane_regs (l : Nat) (out : Bool) : (s.recentreLane l out).regs = s.regs := s.markEach_regs _ out

@[simp] theorem State.recentreLane_boot (l : Nat) (out : Bool) : (s.recentreLane l out).boot = s.boot := s.markEach_boot _ out

/-- A client that is among those marked, or was marked before, is marked. -/
theorem State.marked_markEach (cs : List Nat) (out : Bool) (c : Nat) (h : c ∈ cs ∨ (s.cli c).marked out = true) :
    ((s.each cs fun c t => t.setCli c ((t.cli c).mark out)).cli c).marked out = true := by
  induction cs generalizing s with
  | nil => exact h.resolve_left List.not_mem_nil
  | cons a cs ih =>
    refine ih (s.setCli a ((s.cli a).mark out)) (or_iff_not_imp_left.mpr fun hcs => ?_)
    by_cases hca : c = a
    · subst hca
      simp [State.cli]
    · have hold := h.resolve_left (by simp [hca, hcs])
      simpa [State.cli, Tab.get_put_other _ _ _ _ _ hca] using hold

theorem State.marked_recentreLane (l : Nat) (out : Bool) (c : Nat) (h : c ∈ s.clientsOn l ∨ (s.cli c).marked out = true) :
    ((s.recentreLane l out).cli c).marked out = true := s.marked_markEach _ out c h

/-- Lanes recentred one after the other mark the clients of each. -/
theorem State.marked_recentreLanes (ls : List Nat) (lane : Nat → Nat) (out : Bool) (c : Nat)
    (h : (∃ l ∈ ls, c ∈ s.clientsOn (lane l)) ∨ (s.cli c).marked out = true) :
    ((s.each ls fun l t => t.recentreLane (lane l) out).cli c).marked out = true := by
  induction ls generalizing s with
  | nil => exact h.resolve_left (by simp)
  | cons a ls ih =>
    have hsame (l : Nat) : (s.recentreLane (lane a) out).clientsOn l = s.clientsOn l :=
      State.clientsOn_congr l (fun r _ => by rw [State.recentreLane_regs]) (by simp only [State.listed, State.recentreLane_regs])
    refine ih (s.recentreLane (lane a) out) (or_iff_not_imp_left.mpr fun hls => s.marked_recentreLane _ _ _ ?_)
    rcases h with ⟨l, hl, hc⟩ | hold
    · rcases List.mem_cons.mp hl with rfl | hl
      · exact .inl hc
      · exact absurd ⟨l, hl, (hsame _).symm ▸ hc⟩ hls
    · exact .inr hold

@[simp] theorem State.recentreData_regs (d : Nat) : (s.recentreData d).regs = s.regs := by
  simp only [State.recentreData, State.each, List.foldl]
  (repeat' split) <;> simp

@[simp] theorem State.recentreData_boot (d : Nat) : (s.recentreData d).boot = s.boot := by
  simp only [State.recentreData, State.each, List.foldl]
  (repeat' split) <;> simp

@[simp] theorem State.markCrossing_regs (d : Nat) (inFrame : Bool) : (s.markCrossing d inFrame).regs = s.regs := by
  unfold State.markCrossing; split <;> simp

@[simp] theorem State.markCrossing_boot (d : Nat) (inFrame : Bool) : (s.markCrossing d inFrame).boot = s.boot := by
  unfold State.markCrossing; split <;> simp

theorem State.recentreData_mateLane {d : Nat} (hl : 72 ≤ d) (hh : d < 79) :
    s.recentreData d = s.setLny { s.lanyard with hit := true } := by
  simp [State.recentreData, show ¬d < 60 by omega, show ¬d < 72 by omega, hh]

theorem State.recentred_recentreData {d c : Nat} (hd : d < 60) (hc : c ∈ s.clientsOn (d - 12)) :
    ((s.recentreData d).cli c).recentred = true := by
  simpa [State.recentreData, hd, ClientInt.marked] using s.marked_recentreLane (d - 12) false c (.inl hc)

theorem State.recentredOut_recentreData {d l c : Nat} (hl : 60 ≤ d) (hh : d < 72) (h4 : l < 4)
    (hc : c ∈ s.clientsOn (4 * (d - 60) + l)) : ((s.recentreData d).cli c).recentredOut = true := by
  have hmem : l ∈ [0, 1, 2, 3] := List.mem_range (n := 4).mpr h4
  have hm := s.marked_recentreLanes [0, 1, 2, 3] (fun l => 4 * (d - 60) + l) true c (.inl ⟨l, hmem, hc⟩)
  simpa [State.recentreData, show ¬d < 60 by omega, hh, ClientInt.marked] using hm

/-! ### The event -/

theorem State.alive_congr {s t : State} (b : Nat) (hb : t.boot = s.boot)
    (hr : t.regs.get ⟨.TOP_FAULT, 0, 0, 0⟩ = s.regs.get ⟨.TOP_FAULT, 0, 0, 0⟩) : t.alive b = s.alive b := by
  simp only [State.alive, State.rd, State.reg, hb, hr]

/-- An event is sent out. -/
theorem State.event_mem_out (code dom : Nat) (params : List Nat) (exit : Bool) :
    Out.event code dom params exit ∈ (s.event code dom params exit).out := by
  have hout : Out.event code dom params exit ∈ (s.emit (.event code dom params exit)).out := by simp
  unfold State.event
  dsimp only
  split
  · next r _ =>
    have hk := State.eventTo_kept (m := eventMask) _ r code dom params exit
      (State.kept_refl _ (s.emit (.event code dom params exit))) (Foot.refl _)
    obtain ⟨-, -, -, hsuffix, -⟩ := hk
    exact hsuffix.subset hout
  · exact hout

@[simp] theorem State.raiseCrossing_clients (b d : Nat) : (s.raiseCrossing b d).clients = s.clients := by
  unfold State.raiseCrossing; split <;> simp

@[simp] theorem State.raiseCrossing_lanyard (b d : Nat) : (s.raiseCrossing b d).lanyard = s.lanyard := by
  unfold State.raiseCrossing; split <;> simp

theorem State.rd_raiseCrossing (b d : Nat) (f : Fld) (i j k : Nat) (h : f.id ≠ .BCKT_RING_ST) (h' : f.id ≠ .BCKT_CNT)
    (h'' : f.id ≠ .BCKT_MEM_CNT) : (s.raiseCrossing b d).rd f i j k = s.rd f i j k := by
  unfold State.raiseCrossing
  split
  · exact s.rd_event _ _ _ _ _ _ _ _ h h' h''
  · rfl

theorem State.raiseCrossing_mem_out {b : Nat} (d : Nat) (h : s.alive b = true) :
    Out.event (b * 2048 + Config.crossingCause % 2048) 0 [d] false ∈ (s.raiseCrossing b d).out := by
  unfold State.raiseCrossing
  rw [if_pos h]
  exact s.event_mem_out _ _ _ _

/-- Settles O27: the count, the marks and the event are the three stages of the command, and none disturbs what another gives; the frame is
the command's footprint. -/
theorem crossingsRecentre : Obligations.CrossingsRecentre := by
  unfold Obligations.CrossingsRecentre
  refine ⟨fun s d inFrame b hc hb => ?_, fun s d inFrame h => ⟨s, exec_fifoRecentre_ignored s inFrame h, rfl⟩⟩
  have hexec := exec_fifoRecentre_owned s inFrame hc hb
  have halive : ((s.countCrossing d).markCrossing d inFrame).alive b = s.alive b :=
    State.alive_congr b (by simp) (by rw [State.markCrossing_regs, s.get_countCrossing_other d _ (by decide)])
  have hclients (l : Nat) : (s.countCrossing d).clientsOn l = s.clientsOn l := s.clientsOn_countCrossing d l
  refine ⟨_, hexec, exec_fifoRecentre_only s hexec, ?count, ?event, ?between, ?mate, ?receive, ?transmit⟩
  case count =>
    intro h4
    rw [State.rd_raiseCrossing _ _ _ _ _ _ _ (by decide) (by decide) (by decide), ← s.rd_countCrossing h4]
    simp only [State.rd, State.reg, State.markCrossing_regs]
  case event => exact fun h => State.raiseCrossing_mem_out _ _ (halive.trans h)
  case between =>
    rintro rfl
    simp [State.markCrossing]
  case mate =>
    rintro rfl hl hh
    simp [State.markCrossing, State.recentreData_mateLane _ (show 72 ≤ d.val by omega) hh]
  case receive =>
    rintro rfl hd c hmem
    simpa [State.cli, State.markCrossing] using (s.countCrossing d).recentred_recentreData hd (hclients _ ▸ hmem)
  case transmit =>
    rintro rfl hl hh l h4 c hmem
    simpa [State.cli, State.markCrossing] using (s.countCrossing d).recentredOut_recentreData hl hh h4 (hclients _ ▸ hmem)

end Sys2Proof.Machine
end

section
/-! The resets of chapter 20 (R38, R476, R477, R485, R490, R499, R500): what the common reset leaves of the state, what it journals and what
it discards; and the obligation on resets. The stage shown (log entry 39), the straps and HELD kept (log entry 69), the discards kept (log
entry 74) and the sessions' ends journaled without events (log entry 96) are the model's choices. -/

namespace Sys2Proof.Machine

open Sys2Proof

variable (s : State)

/-! ### Written fields -/

theorem State.on_wr_b2n (f : Fld) (v : Bool) (i j k : Nat) (h : regValid ⟨f.id, i, j, k⟩ = true) (hf : f.hi = f.lo)
    (hw : f.hi < (regSpec f.id).width) : (s.wr f (b2n v) i j k).on f i j k = v := by
  have hwidth : f.width = 1 := by unfold Fld.width; omega
  rw [State.on, s.rd_wr_same f _ i j k h hf.ge hw, hwidth]
  cases v <;> rfl

/-- The cause of a reset is recorded. -/
theorem State.on_wr_one (f : Fld) (h : regValid ⟨f.id, 0, 0, 0⟩ = true) (hf : f.hi = f.lo) (hw : f.hi < (regSpec f.id).width) :
    (s.wr f 1).on f = true := s.on_wr_b2n f true 0 0 0 h hf hw

/-! ### The handshake transfers under way (R38) -/

theorem State.get_discards_foldl (l : List (Block × Bool)) (b : Nat) :
    (l.foldl (fun t e => t.discard e.1.val) s).discards.get 0 b =
      s.discards.get 0 b + (l.filter fun e => e.1.val == b).length := by
  induction l generalizing s with
  | nil => rfl
  | cons e l ih =>
    rw [List.foldl_cons, ih, List.filter_cons]
    by_cases h : e.1.val = b
    · subst h
      simp only [State.discard, Tab.get_put_same, beq_self_eq_true, if_true, List.length_cons]
      omega
    · have hne : (e.1.val == b) = false := by simpa using h
      simp only [State.discard, Tab.get_put_other _ _ _ _ _ (Ne.symm h), hne, Bool.false_eq_true, if_false]

/-- A transfer that is not captured is counted at its source. -/
theorem State.get_discards_discardFlight (flight : List (Block × Bool)) (b : Nat) :
    (s.discardFlight flight).discards.get 0 b = s.discards.get 0 b + (flight.filter fun e => !e.2 && e.1.val == b).length := by
  rw [State.discardFlight, State.get_discards_foldl, List.filter_filter]
  simp only [Bool.and_comm]

theorem State.discardFlight_samePart (flight : List (Block × Bool)) (k : Nat) (h : k ≠ 36) : samePart k s (s.discardFlight flight) := by
  refine State.kept_part (State.discardFlight_kept s flight (State.kept_refl (2 ^ 36) s) (Foot.refl _)) k ?_
  rw [Nat.testBit_two_pow]
  exact decide_eq_false h.symm

/-! ### The ends of the role sessions (R419) -/

/-- From one state to another n records of a kind are appended to the journal's buffer, all of them where it has room. -/
def State.appendsRecords (s t : State) (kind n : Nat) : Prop :=
  ∃ l : List JRec, t.journal.buffer = s.journal.buffer ++ l ∧ (∀ r ∈ l, r.kind = kind) ∧ t.journal.pages = s.journal.pages ∧
    (s.journal.buffer.length + n ≤ 1024 → l.length = n)

theorem State.appendsRecords_refl (kind : Nat) : s.appendsRecords s kind 0 := ⟨[], by simp⟩

theorem State.appendsRecords_trans {s t u : State} {kind n m : Nat} (h : s.appendsRecords t kind n) (h' : t.appendsRecords u kind m) :
    s.appendsRecords u kind (n + m) := by
  obtain ⟨l, hbuf, hkind, hpages, hlen⟩ := h
  obtain ⟨l', hbuf', hkind', hpages', hlen'⟩ := h'
  refine ⟨l ++ l', by rw [hbuf', hbuf, List.append_assoc], fun r hr => (List.mem_append.mp hr).elim (hkind r) (hkind' r),
    hpages'.trans hpages, fun hroom => ?_⟩
  have hl := hlen (by omega)
  have hl' := hlen' (by rw [hbuf, List.length_append]; omega)
  rw [List.length_append, hl, hl']

@[simp] theorem State.recordAs_pages (stamp role dom kind result what old new aux : Nat) :
    (s.recordAs stamp role dom kind result what old new aux).journal.pages = s.journal.pages := by
  unfold State.recordAs; split <;> rfl

theorem State.recordAs_appendsRecords (stamp role dom kind result what old new aux : Nat) :
    s.appendsRecords (s.recordAs stamp role dom kind result what old new aux) kind 1 := by
  by_cases hroom : s.journal.buffer.length < 1024
  · obtain ⟨r, hbuf, -, -, -, hkind, -⟩ := s.recordAs_journal stamp role dom kind result what old new aux hroom
    exact ⟨[r], hbuf, by simpa using hkind, by simp, fun _ => rfl⟩
  · have hfull : s.recordAs stamp role dom kind result what old new aux = s := by
      unfold State.recordAs; exact if_pos (by omega)
    exact ⟨[], by simp [hfull], by simp, by simp, fun h => by omega⟩

theorem State.each_appendsRecords (ks : List Nat) (f : Nat → State → State) (kind : Nat)
    (hf : ∀ k (t : State), t.appendsRecords (f k t) kind 1) : s.appendsRecords (s.each ks f) kind ks.length := by
  induction ks generalizing s with
  | nil => exact s.appendsRecords_refl kind
  | cons k ks ih =>
    rw [List.length_cons, Nat.add_comm]
    exact State.appendsRecords_trans (hf k s) (ih (f k s))

theorem State.journalEnds_endsJournaled : s.endsJournaled s.journalEnds := by
  have happ : s.appendsRecords s.journalEnds 4 ((List.range 32).filter fun k => s.on .MRLN_ROLE_ST_VALID k).length :=
    s.each_appendsRecords _ _ 4 fun _ t => State.recordAs_appendsRecords t _ _ _ _ _ _ _ _ _
  have hcount : ((List.range 32).filter fun k => s.on .MRLN_ROLE_ST_VALID k).length ≤ 32 := by
    simpa using List.length_filter_le (fun k => s.on .MRLN_ROLE_ST_VALID k) (List.range 32)
  obtain ⟨l, hbuf, hkind, hpages, hlen⟩ := happ
  exact ⟨l, hbuf, hkind, hpages, fun hroom => hlen (by omega)⟩

/-! ### The common reset: what it leaves (Table 20.2) -/

/-- The registers that show the resets' causes, the boot, the standing faults and the supply state. -/
abbrev shownRegs : Nat := 2 ^ regBit .TOP_RST_CAUSE ||| 2 ^ regBit .TOP_BOOT_ST ||| 2 ^ regBit .TOP_FAULT ||| 2 ^ regBit .BLAY_STAT

/-- What may differ once State.resetLed holds: the registers that it leaves open, the vectors, the boot's own state, what is sent out and
the discards counted. -/
abbrev resetOpen : Nat := shownRegs ||| 2 ^ 7 ||| 2 ^ 13 ||| 2 ^ 35 ||| 2 ^ 36

/-- What a journal record changes: the fill of the buffer, the journal and the count of free values drawn. -/
abbrev recordOpen : Nat := 2 ^ regBit .MRLN_NV_ST ||| 2 ^ 11 ||| 2 ^ 34

/-- What may have changed on the way to a reset: the requester's latch, the boot's own state, and what a journal record changes. -/
abbrev resetEntry : Nat := recordOpen ||| 2 ^ 1 ||| 2 ^ 13

theorem resetOpen_testBit (id : RegId) (h : id ∉ [RegId.TOP_RST_CAUSE, .TOP_BOOT_ST, .TOP_FAULT, .BLAY_STAT]) :
    resetOpen.testBit (regBit id) = false := by
  revert h
  cases id <;> decide

theorem keepsReg_iff (device : Bool) (r : RegKey) : keepsReg device r = true ↔ r.id ∈ survivesReset device := by
  cases device <;> simp [keepsReg, survivesReset, or_assoc]

theorem resetEntry_testBit (device : Bool) : ∀ id ∈ survivesReset device, resetEntry.testBit (regBit id) = false := by
  cases device <;> decide

theorem State.survivors_resetLed {s u : State} (device : Bool) (h : s.kept resetEntry u) : s.resetLed device (u.survivors device) := by
  obtain ⟨-, hpending, -, hout, hregs, hparts⟩ := h
  refine ⟨fun r _ => ?_, rfl, rfl, rfl, rfl, rfl, rfl, rfl, rfl, rfl, rfl, rfl, rfl, hparts 10 rfl, hpending, hout⟩
  have hget := RegStore.get_resetWhere u.regs (fun r => !keepsReg device r) r
  refine hget.trans ?_
  by_cases hr : r.id ∈ survivesReset device
  · rw [if_pos hr, (keepsReg_iff device r).mpr hr]
    exact hregs r (resetEntry_testBit device r.id hr)
  · rw [if_neg hr, Bool.eq_false_iff.mpr fun hk => hr ((keepsReg_iff device r).mp hk)]
    rfl

/-- What changes only within resetOpen after a reset leaves the reset as it is, where the core stays down and FLT_N low. -/
theorem State.resetLed_kept {s t u : State} {device : Bool} (h : s.resetLed device t) (hk : t.kept resetOpen u)
    (hcore : u.boot.coreUp = false) (hflt : u.boot.fltLow = true) : s.resetLed device u := by
  obtain ⟨hregs, -, -, hshadow, hlatches, hrings, hinflight, hsess, hkeks, hkcs, hmarline, htx, hclm, hnv, hpending, hout⟩ := h
  obtain ⟨-, hpending', -, hout', hregs', hparts⟩ := hk
  have hpins : u.pins = t.pins := hparts 3 rfl
  exact ⟨fun r hr => (hregs' r (resetOpen_testBit r.id hr)).trans (hregs r hr), hcore, hflt, (hparts 0 rfl).trans hshadow,
    (hparts 1 rfl).trans hlatches, (hparts 4 rfl).trans hrings, (hparts 5 rfl).trans hinflight, (hparts 9 rfl).trans hsess,
    (hparts 27 rfl).trans hkeks, (hparts 26 rfl).trans hkcs, (hparts 12 rfl).trans hmarline, hpins ▸ htx, hpins ▸ hclm,
    (hparts 10 rfl).trans hnv, hpending'.trans hpending, hout.trans hout'⟩

theorem State.resetLed_wr {s t : State} {device : Bool} (h : s.resetLed device t) (f : Fld) (v : Nat)
    (hf : resetOpen.testBit (regBit f.id) = true) : s.resetLed device (t.wr f v) := by
  obtain ⟨-, hcore, hflt, -⟩ := id h
  exact State.resetLed_kept h (State.wr_kept t f v 0 0 0 (State.kept_refl _ t) hf) hcore hflt

/-- After the registers have been reset and the transfers discarded, a reset changes no more than the registers that show what stands. -/
theorem State.resetTo_kept_survivors {m : Nat} {b : State} (device : Bool) (stage : Nat) (flight : List (Block × Bool))
    (h : b.kept m ((s.journalEnds.survivors device).discardFlight flight)) (hm : Foot.sub shownRegs m) :
    b.kept m (s.resetTo device stage flight) := by
  have hboot : m.testBit (regBit .TOP_BOOT_ST) = true := Foot.bit hm rfl
  have hfault : m.testBit (regBit .TOP_FAULT) = true := Foot.bit hm rfl
  have hsupply : m.testBit (regBit .BLAY_STAT) = true := Foot.bit hm rfl
  have hstanding : b.kept m _ :=
    (State.wr_kept _ .TOP_FAULT_ROOT_LOST (s.journalEnds.rd .TOP_FAULT_ROOT_LOST) 0 0 0
    (State.wr_kept _ .TOP_FAULT_XO_LOST (s.journalEnds.rd .TOP_FAULT_XO_LOST) 0 0 0
    (State.wr_kept _ .BLAY_STAT_PWR_WARN (s.journalEnds.rd .BLAY_STAT_PWR_WARN) 0 0 0
    (State.wr_kept _ .BLAY_STAT_SHUT_CAUSE (s.journalEnds.rd .BLAY_STAT_SHUT_CAUSE) 0 0 0
    (State.wr_kept _ .BLAY_STAT_SUPPLY (s.journalEnds.rd .BLAY_STAT_SUPPLY) 0 0 0 h hsupply) hsupply) hsupply) hfault) hfault)
  have hsoftware (v : Nat) := State.wr_kept _ .TOP_FAULT_FLT_SW v 0 0 0 hstanding hfault
  refine State.wr_kept _ .TOP_BOOT_ST_STAGE stage 0 0 0 (kept_ite (fun _ => hsoftware _) fun _ => ?_) hboot
  exact State.wr_kept _ _ _ _ _ _ (State.wr_kept _ _ _ _ _ _ (hsoftware _) hfault) hfault

/-- The parts of the state after a reset are those of the survivors, but for the discards. -/
theorem State.resetTo_samePart (device : Bool) (stage : Nat) (flight : List (Block × Bool)) (k : Nat)
    (hk : shownRegs.testBit k = false) :
    samePart k ((s.journalEnds.survivors device).discardFlight flight) (s.resetTo device stage flight) :=
  State.kept_part (s.resetTo_kept_survivors device stage flight (State.kept_refl shownRegs _) (Foot.refl _)) k hk

theorem State.journalEnds_samePart (k : Nat) (hk : recordOpen.testBit k = false) : samePart k s s.journalEnds :=
  State.kept_part (State.journalEnds_kept s (State.kept_refl recordOpen s) rfl) k hk

@[simp] theorem State.resetTo_vecs (device : Bool) (stage : Nat) (flight : List (Block × Bool)) :
    (s.resetTo device stage flight).vecs = if device then [] else s.vecs := by
  have hends : s.journalEnds.vecs = s.vecs := s.journalEnds_samePart 7 rfl
  rw [← hends]
  exact (s.resetTo_samePart device stage flight 7 rfl).trans (State.discardFlight_samePart _ flight 7 (by decide))

@[simp] theorem State.resetTo_boot (device : Bool) (stage : Nat) (flight : List (Block × Bool)) :
    (s.resetTo device stage flight).boot =
      { s.boot with coreUp := false, fltLow := true, mfgHold := false, retrain := device || s.boot.retrain } := by
  have hends : s.journalEnds.boot = s.boot := s.journalEnds_samePart 13 rfl
  rw [← hends]
  exact (s.resetTo_samePart device stage flight 13 rfl).trans (State.discardFlight_samePart _ flight 13 (by decide))

theorem State.resetTo_journal (device : Bool) (stage : Nat) (flight : List (Block × Bool)) :
    (s.resetTo device stage flight).journal = s.journalEnds.journal :=
  (s.resetTo_samePart device stage flight 11 rfl).trans (State.discardFlight_samePart _ flight 11 (by decide))

/-- A reset journals the ends of the sessions. -/
theorem State.resetTo_endsJournaled (device : Bool) (stage : Nat) (flight : List (Block × Bool)) :
    s.endsJournaled (s.resetTo device stage flight) := by
  unfold State.endsJournaled
  rw [State.resetTo_journal]
  exact s.journalEnds_endsJournaled

/-- A reset counts the transfers it discards. -/
theorem State.get_discards_resetTo (device : Bool) (stage : Nat) (flight : List (Block × Bool)) (b : Nat) :
    (s.resetTo device stage flight).discards.get 0 b =
      s.discards.get 0 b + (flight.filter fun e => !e.2 && e.1.val == b).length := by
  have hends : s.journalEnds.discards = s.discards := s.journalEnds_samePart 36 rfl
  have hdiscards : (s.resetTo device stage flight).discards = ((s.journalEnds.survivors device).discardFlight flight).discards :=
    s.resetTo_samePart device stage flight 36 rfl
  rw [hdiscards, State.get_discards_discardFlight, ← hends]
  rfl

theorem State.rd_resetTo_stage (device : Bool) (stage : Nat) (flight : List (Block × Bool)) (h : stage < 16) :
    (s.resetTo device stage flight).rd .TOP_BOOT_ST_STAGE = stage := by
  unfold State.resetTo
  dsimp only
  rw [State.rd_wr_same _ .TOP_BOOT_ST_STAGE stage 0 0 0 rfl (by decide) (by decide)]
  exact Nat.mod_eq_of_lt h

/-- Wherever a reset starts from, it leads where Table 20.2 says. -/
theorem State.resetTo_resetLed {s u : State} (device : Bool) (stage : Nat) (flight : List (Block × Bool)) (h : s.kept resetEntry u) :
    s.resetLed device (u.resetTo device stage flight) := by
  have hends : s.kept resetEntry u.journalEnds := State.journalEnds_kept u h rfl
  have hflight := State.discardFlight_kept _ flight (State.kept_refl resetOpen (u.journalEnds.survivors device)) rfl
  exact State.resetLed_kept (State.survivors_resetLed device hends) (u.resetTo_kept_survivors device stage flight hflight rfl) (by simp)
    (by simp)

/-! ### The commands -/

/-- The boot's own state replaced. -/
def State.setBoot (s : State) (x : Boot) : State := { s with boot := x }

@[simp] theorem State.setBoot_boot (x : Boot) : (s.setBoot x).boot = x := rfl
@[simp] theorem State.setBoot_vecs (x : Boot) : (s.setBoot x).vecs = s.vecs := rfl
@[simp] theorem State.setBoot_discards (x : Boot) : (s.setBoot x).discards = s.discards := rfl

theorem State.setBoot_kept (x : Boot) : s.kept resetEntry (s.setBoot x) := kept_boot x (State.kept_refl resetEntry s) rfl

theorem exec_porstAssert (flight : List (Block × Bool)) (h : s.boot.porst = false) :
    exec (.porstAssert flight) s =
      .next (((s.setBoot { s.boot with porst := true }).resetTo true 0 flight).wr .TOP_RST_CAUSE_PORST 1) := by
  change execPorstAssert flight s = _
  unfold execPorstAssert
  rw [h]
  rfl

/-- The straps as they are latched (R499). -/
def State.latchStraps (s : State) (i3c : BitVec 2) (xspi mfg : Bool) : State :=
  ((s.wr .TOP_STRAP_I3C i3c.toNat).wr .TOP_STRAP_XSPI (b2n xspi)).wr .TOP_STRAP_MFG (b2n mfg)

theorem State.rd_latchStraps_i3c (i3c : BitVec 2) (xspi mfg : Bool) : (s.latchStraps i3c xspi mfg).rd .TOP_STRAP_I3C = i3c.toNat := by
  have hmfg := State.rd_wr_field ((s.wr .TOP_STRAP_I3C i3c.toNat).wr .TOP_STRAP_XSPI (b2n xspi)) .TOP_STRAP_MFG .TOP_STRAP_I3C (b2n mfg)
    0 0 0 rfl rfl (by decide) (by decide) (by decide) (by decide)
  have hxspi := State.rd_wr_field (s.wr .TOP_STRAP_I3C i3c.toNat) .TOP_STRAP_XSPI .TOP_STRAP_I3C (b2n xspi) 0 0 0 rfl rfl (by decide)
    (by decide) (by decide) (by decide)
  have hi3c := s.rd_wr_same .TOP_STRAP_I3C i3c.toNat 0 0 0 rfl (by decide) (by decide)
  exact (hmfg.trans (hxspi.trans hi3c)).trans (Nat.mod_eq_of_lt i3c.isLt)

theorem State.on_latchStraps_xspi (i3c : BitVec 2) (xspi mfg : Bool) : (s.latchStraps i3c xspi mfg).on .TOP_STRAP_XSPI = xspi := by
  have hmfg := State.rd_wr_field ((s.wr .TOP_STRAP_I3C i3c.toNat).wr .TOP_STRAP_XSPI (b2n xspi)) .TOP_STRAP_MFG .TOP_STRAP_XSPI (b2n mfg)
    0 0 0 rfl rfl (by decide) (by decide) (by decide) (by decide)
  have hxspi := State.on_wr_b2n (s.wr .TOP_STRAP_I3C i3c.toNat) .TOP_STRAP_XSPI xspi 0 0 0 rfl rfl (by decide)
  exact (congrArg (· != 0) hmfg).trans hxspi

theorem State.on_latchStraps_mfg (i3c : BitVec 2) (xspi mfg : Bool) : (s.latchStraps i3c xspi mfg).on .TOP_STRAP_MFG = mfg :=
  State.on_wr_b2n _ .TOP_STRAP_MFG mfg 0 0 0 rfl rfl (by decide)

theorem exec_porstRelease (i3c : BitVec 2) (xspi mfg : Bool) (h : s.boot.porst = true) :
    exec (.porstRelease i3c xspi mfg) s =
      .next (((s.setBoot { s.boot with porst := false }).latchStraps i3c xspi mfg).wr .TOP_BOOT_ST_STAGE
        (if s.boot.shutdown then 0 else 1)) := by
  change execPorstRelease i3c xspi mfg s = _
  unfold execPorstRelease
  rw [if_pos h]
  rfl

theorem exec_porstRelease_only {t : State} {i3c : BitVec 2} {xspi mfg : Bool} (h : exec (.porstRelease i3c xspi mfg) s = .next t) :
    s.only [.reg .TOP_STRAP, .reg .TOP_BOOT_ST] [.boot] t := by
  refine exec_only h (fun id => ?_) fun k => ?_
  · simp only [footprint]
    cases id <;> decide
  · simp only [footprint]
    cases k <;> decide

/-- The state in which an accepted write of TOP_RESET resets: the requester's latch is gone, and the write is journaled. -/
def State.resetRecorded (s : State) (req : Requester) (v : Nat) : State :=
  (s.dropLatch req).record req (s.roleIn req 0) 0 1 0 (regAddr ⟨.TOP_RESET, 0, 0, 0⟩) 0 v 0

theorem State.resetRecorded_kept (req : Requester) (v : Nat) : s.kept resetEntry (s.resetRecorded req v) :=
  State.record_kept _ req _ _ _ _ _ _ _ _ (State.dropLatch_kept s req (State.kept_refl resetEntry s) rfl) rfl

@[simp] theorem State.resetRecorded_boot (req : Requester) (v : Nat) : (s.resetRecorded req v).boot = s.boot := by
  simp [State.resetRecorded]

@[simp] theorem State.resetRecorded_vecs (req : Requester) (v : Nat) : (s.resetRecorded req v).vecs = s.vecs := by
  simp [State.resetRecorded]

@[simp] theorem State.resetRecorded_discards (req : Requester) (v : Nat) : (s.resetRecorded req v).discards = s.discards := by
  simp [State.resetRecorded]

/-- The record of the write stands before those of the ended sessions. -/
theorem State.resetRecorded_journal (req : Requester) (v : Nat) (h : s.journalBlocked = false) (device : Bool) (stage : Nat)
    (flight : List (Block × Bool)) (f : Fld) (x : Nat) :
    ∃ r l, (((s.resetRecorded req v).resetTo device stage flight).wr f x).journal.buffer = s.journal.buffer ++ r :: l ∧
      r.what = regAddr ⟨.TOP_RESET, 0, 0, 0⟩ ∧ r.result = 0 := by
  obtain ⟨r, hbuf, -, -, -, -, hresult, hwhat, -⟩ := (s.dropLatch req).record_journal req (s.roleIn req 0) 0 1 0
    (regAddr ⟨.TOP_RESET, 0, 0, 0⟩) 0 v 0 (s.journal_room h)
  obtain ⟨l, hends, -⟩ := (s.resetRecorded req v).resetTo_endsJournaled device stage flight
  refine ⟨r, l, ?_, hwhat, hresult⟩
  rw [State.wr_journal, hends, State.resetRecorded, hbuf, State.dropLatch_journal, List.append_assoc, List.singleton_append]

/-- TOP_RESET written with its key and Installer rights for D0, while the journal can take the record (R477). -/
theorem State.topReset_accepted {req : Requester} {v : Nat} (flight : List (Block × Bool)) (hkey : bits v 31 16 = 0xA5C3)
    (hrole : 2 ≤ s.roleIn req 0) (hj : s.journalBlocked = false) :
    (s.dropLatch req).topReset req v flight =
      match bits v 1 0 with
      | 1 => ((s.resetRecorded req v).resetTo true s.firstStage flight).wr .TOP_RST_CAUSE_SW_DEVICE 1
      | 2 => ((s.resetRecorded req v).resetTo false 2 flight).wr .TOP_RST_CAUSE_SW_CORE 1
      | _ => s.resetRecorded req v := by
  have hstage : (s.resetRecorded req v).firstStage = s.firstStage := by simp [State.firstStage]
  have hrefused : ¬(bits v 31 16 ≠ 0xA5C3 ∨ (s.dropLatch req).permits req 2 [0] = false) := by simp [hkey, hrole]
  unfold State.topReset
  rw [if_neg hrefused, if_neg (by simp [hj]), ← hstage]
  rfl

theorem exec_deviceReset {req : Requester} (flight : List (Block × Bool)) (ha : s.alive 0 = true) (hi : req ≠ .i3c)
    (hrole : 2 ≤ s.roleIn req 0) (hj : s.journalBlocked = false) :
    exec (.deviceReset req flight) s =
      .next (((s.resetRecorded req 0xA5C30001).resetTo true s.firstStage flight).wr .TOP_RST_CAUSE_SW_DEVICE 1) := by
  have haccess : exec (.deviceReset req flight) s = .next ((s.dropLatch req).topReset req 0xA5C30001 flight) :=
    access_next s req 0 (fun t => t.topReset req 0xA5C30001 flight) ha hi
  rw [haccess, s.topReset_accepted flight (by decide) hrole hj]
  rfl

theorem exec_coreReset {req : Requester} (flight : List (Block × Bool)) (ha : s.alive 0 = true) (hi : req ≠ .i3c)
    (hrole : 2 ≤ s.roleIn req 0) (hj : s.journalBlocked = false) :
    exec (.coreReset req flight) s =
      .next (((s.resetRecorded req 0xA5C30002).resetTo false 2 flight).wr .TOP_RST_CAUSE_SW_CORE 1) := by
  have haccess : exec (.coreReset req flight) s = .next ((s.dropLatch req).topReset req 0xA5C30002 flight) :=
    access_next s req 0 (fun t => t.topReset req 0xA5C30002 flight) ha hi
  rw [haccess, s.topReset_accepted flight (by decide) hrole hj]
  rfl

theorem exec_escalationTimeout (flight : List (Block × Bool)) (hpend : s.on .TOP_FAULT_ESC_PEND = true)
    (hauto : s.on .TOP_FLT_CFG_ESC_AUTO = true) :
    exec (.escalationTimeout flight) s = .next ((s.resetTo false 2 flight).wr .TOP_RST_CAUSE_ESCALATION 1) := by
  change execEscalationTimeout flight s = _
  unfold execEscalationTimeout
  rw [if_pos (by simp [hpend, hauto])]

/-- The state from which a root that loses its lock resets. -/
def State.unlocked (s : State) : State := s.setBoot { s.boot with rootLocked := false, relocking := false }

theorem exec_rootLockLoss (h : s.boot.rootLocked = true) :
    exec .rootLockLoss s =
      .next (((s.unlocked.resetTo false (if s.boot.shutdown || s.boot.porst then 0 else 2)).wr .TOP_RST_CAUSE_ROOT_LOST 1).setFault
        .TOP_FAULT_ROOT_LOST true true) := by
  change execRootLockLoss s = _
  unfold execRootLockLoss
  rw [if_pos h]
  rfl

/-- The state from which the restart after Shutdown-orderly resets. -/
def State.restarting (s : State) : State := s.setBoot { s.boot with shutdown := false, shutEvent := true }

theorem exec_shutdownRestart (h : s.boot.shutdown = true) (hio : s.belay.io < 2) :
    exec .shutdownRestart s =
      .next (((s.restarting.resetTo true (if s.boot.porst then 0 else 1)).wr .TOP_RST_CAUSE_SHUTDOWN 1).wr .BLAY_STAT_SUPPLY
        ((s.restarting.resetTo true (if s.boot.porst then 0 else 1)).wr .TOP_RST_CAUSE_SHUTDOWN 1).supplyLevel) := by
  have hstage : s.restarting.firstStage = if s.boot.porst then 0 else 1 := by simp [State.firstStage, State.restarting]
  change execShutdownRestart s = _
  unfold execShutdownRestart
  rw [if_pos (by simp [h, hio]), ← hstage]
  rfl

/-! ### The fault of a lost root (R485) -/

theorem State.setFault_boot {f : Fld} {v vec : Bool} (h : s.boot.fltLow = true) : (s.setFault f v vec).boot = s.boot := by
  have hlow : { s.boot with fltLow := true } = s.boot := by rw [← h]
  unfold State.setFault
  dsimp only
  split
  · split <;> simp [hlow]
  · rfl

theorem State.setFault_journal (f : Fld) (v vec : Bool) : (s.setFault f v vec).journal = s.journal := by
  unfold State.setFault
  dsimp only
  split
  · split <;> simp
  · rfl

/-- A fault that rises after a reset leaves the reset as it is. -/
theorem State.resetLed_setFault {s t : State} {device : Bool} {f : Fld} {v vec : Bool} (h : s.resetLed device t)
    (hf : resetOpen.testBit (regBit f.id) = true) : s.resetLed device (t.setFault f v vec) := by
  obtain ⟨-, hcore, hflt, -⟩ := id h
  have hboot : (t.setFault f v vec).boot = t.boot := t.setFault_boot hflt
  have hkept := State.setFault_kept t f v vec (State.kept_refl resetOpen t) rfl hf
  exact State.resetLed_kept h hkept (by rw [hboot, hcore]) (by rw [hboot, hflt])

/-- A core reset leaves whether the fault vector is enabled. -/
theorem State.on_fltVector_of_resetLed {s t : State} (h : s.resetLed false t) :
    t.on .TOP_FLT_CFG_FVEC_EN = s.on .TOP_FLT_CFG_FVEC_EN := by
  obtain ⟨hregs, -⟩ := h
  have hcfg : t.reg .TOP_FLT_CFG = s.reg .TOP_FLT_CFG := hregs ⟨.TOP_FLT_CFG, 0, 0, 0⟩ (by decide)
  simp only [State.on, State.rd, hcfg]

/-- Without the fault vector enabled a fault touches no vector. -/
theorem State.setFault_vecs {f : Fld} (v vec : Bool) (hf : f.id ≠ .TOP_FLT_CFG) (h : s.on .TOP_FLT_CFG_FVEC_EN = false) :
    (s.setFault f v vec).vecs = s.vecs := by
  have hwr : (s.wr f (b2n v)).on .TOP_FLT_CFG_FVEC_EN = false := by
    rw [← h]
    unfold State.on
    rw [s.rd_wr_other f .TOP_FLT_CFG_FVEC_EN _ 0 0 0 0 0 0 fun e => hf e.1.symm]
  unfold State.setFault
  dsimp only
  split
  · split
    · unfold State.faultVector
      rw [if_neg (by simpa [State.on, State.rd, State.reg] using hwr)]
      rfl
    · rfl
  · rfl

/-! ### The clauses -/

theorem State.endsJournaled_wr {s t : State} (h : s.endsJournaled t) (f : Fld) (v : Nat) : s.endsJournaled (t.wr f v) := h

/-- The boot's own state does not matter for what a reset journals. -/
theorem State.setBoot_endsJournaled (x : Boot) (device : Bool) (stage : Nat) (flight : List (Block × Bool)) :
    s.endsJournaled ((s.setBoot x).resetTo device stage flight) := (s.setBoot x).resetTo_endsJournaled device stage flight

/-- A cause recorded after a reset leaves the stage that the reset shows. -/
theorem State.rd_stage_caused (device : Bool) (stage : Nat) (flight : List (Block × Bool)) (f : Fld) (v : Nat)
    (hf : f.id ≠ .TOP_BOOT_ST) (h : stage < 16) : ((s.resetTo device stage flight).wr f v).rd .TOP_BOOT_ST_STAGE = stage := by
  rw [State.rd_wr_other _ _ _ _ _ _ _ _ _ _ fun e => hf e.1.symm, s.rd_resetTo_stage device stage flight h]

theorem State.rd_setReg_serial (v : Nat) : (s.setReg .TOP_SERIAL v).rd .TOP_SERIAL_SERIAL = v % 2 ^ 64 := by
  have hbits : bits (v % 2 ^ 64) 63 0 = v % 2 ^ 64 := by simp [bits_eq]
  exact (congrArg (bits · 63 0) (s.reg_setReg_same .TOP_SERIAL v 0 0 0 rfl)).trans hbits

/-- The boot's stage is a field of TOP_BOOT_ST alone. -/
theorem State.rd_wr_stage (k : Nat) (f : Fld) (hf : f.id ≠ .TOP_BOOT_ST) : (s.wr .TOP_BOOT_ST_STAGE k).rd f = s.rd f :=
  s.rd_wr_other .TOP_BOOT_ST_STAGE f k 0 0 0 0 0 0 fun e => hf e.1

theorem islandPowerOn_clears (flash : Option FlashImage) : ∃ t, exec (.islandPowerOn flash) s = .next t ∧
    (∀ r : RegKey, r.id ≠ .TOP_SERIAL → t.regs.get r = regReset r) ∧ t.rd .TOP_SERIAL_SERIAL = t.nv.serial % 2 ^ 64 ∧
    t.journal.buffer = [] ∧ t.journal.pages = s.journal.pages ∧ (flash = none → t.nv = s.nv) ∧ t.boot = {} ∧ t.boot.porst = true ∧
    t.pending = s.pending ∧ t.out = s.out := by
  refine ⟨_, rfl, fun r hr => ?_, ?_, rfl, rfl, ?_, rfl, rfl, rfl, rfl⟩
  · exact RegStore.get_put_other [] ⟨.TOP_SERIAL, 0, 0, 0⟩ r _ fun e => hr (by rw [e])
  · exact State.rd_setReg_serial _ _
  · rintro rfl
    rfl

theorem porstRelease_latches (i3c : BitVec 2) (xspi mfg : Bool) (h : s.boot.porst = true) :
    ∃ t, exec (.porstRelease i3c xspi mfg) s = .next t ∧
      s.only [.reg .TOP_STRAP, .reg .TOP_BOOT_ST] [.boot] t ∧ t.boot = { s.boot with porst := false } ∧
      t.rd .TOP_STRAP_I3C = i3c.toNat ∧ t.on .TOP_STRAP_XSPI = xspi ∧ t.on .TOP_STRAP_MFG = mfg ∧
      t.rd .TOP_BOOT_ST_STAGE = (if s.boot.shutdown then 0 else 1) := by
  have hexec := exec_porstRelease s i3c xspi mfg h
  have hstage : (if s.boot.shutdown then 0 else 1) < 16 := by split <;> decide
  refine ⟨_, hexec, exec_porstRelease_only s hexec, rfl, ?_, ?_, ?_, ?_⟩
  · rw [State.rd_wr_stage _ _ _ (by decide), State.rd_latchStraps_i3c]
  · rw [State.on, State.rd_wr_stage _ _ _ (by decide)]
    exact State.on_latchStraps_xspi _ i3c xspi mfg
  · rw [State.on, State.rd_wr_stage _ _ _ (by decide)]
    exact State.on_latchStraps_mfg _ i3c xspi mfg
  · rw [State.rd_wr_same _ .TOP_BOOT_ST_STAGE _ 0 0 0 rfl (by decide) (by decide)]
    exact Nat.mod_eq_of_lt hstage

theorem State.firstStage_lt : s.firstStage < 16 := by
  unfold State.firstStage; split <;> decide

/-- A root that loses its lock: the core reset, then the fault that stands. -/
theorem rootLockLoss_leads (h : s.boot.rootLocked = true) : ∃ t, exec .rootLockLoss s = .next t ∧ s.resetLed false t ∧
    (s.on .TOP_FLT_CFG_FVEC_EN = false → t.vecs = s.vecs) ∧ t.boot.rootLocked = false ∧
    t.on .TOP_RST_CAUSE_ROOT_LOST = true ∧ t.on .TOP_FAULT_ROOT_LOST = true ∧ s.endsJournaled t := by
  have hexec := exec_rootLockLoss s h
  generalize (if s.boot.shutdown || s.boot.porst then 0 else 2) = stage at hexec
  have hled : s.resetLed false ((s.unlocked.resetTo false stage).wr .TOP_RST_CAUSE_ROOT_LOST 1) :=
    State.resetLed_wr (State.resetTo_resetLed false stage [] (s.setBoot_kept _)) _ _ rfl
  have hends : s.endsJournaled ((s.unlocked.resetTo false stage).wr .TOP_RST_CAUSE_ROOT_LOST 1) :=
    State.endsJournaled_wr (s.setBoot_endsJournaled _ _ _ _) _ _
  have hcause := (s.unlocked.resetTo false stage).on_wr_one .TOP_RST_CAUSE_ROOT_LOST rfl rfl (by decide)
  have hlock : ((s.unlocked.resetTo false stage).wr .TOP_RST_CAUSE_ROOT_LOST 1).boot.rootLocked = false := by simp [State.unlocked]
  have hvecs : ((s.unlocked.resetTo false stage).wr .TOP_RST_CAUSE_ROOT_LOST 1).vecs = s.vecs := by simp [State.unlocked]
  generalize (s.unlocked.resetTo false stage).wr .TOP_RST_CAUSE_ROOT_LOST 1 = t at hexec hled hends hcause hlock hvecs
  obtain ⟨-, -, hflt, -⟩ := id hled
  refine ⟨_, hexec, State.resetLed_setFault hled rfl, fun hvec => ?_, ?_, ?_, ?_, ?_⟩
  · rw [t.setFault_vecs _ _ (by decide) ((State.on_fltVector_of_resetLed hled).trans hvec), hvecs]
  · rw [t.setFault_boot hflt, hlock]
  · rw [State.on, State.rd_setFault, State.rd_wr_other _ _ _ _ _ _ _ _ _ _ (by decide)]
    exact hcause
  · rw [State.on, State.rd_setFault]
    exact t.on_wr_one .TOP_FAULT_ROOT_LOST rfl rfl (by decide)
  · unfold State.endsJournaled
    rw [State.setFault_journal]
    exact hends

/-- Settles O17: each reset is the common reset, from a state that differs from the first in what resetEntry holds, with its cause written
after it; so it leads where the common reset leads. -/
theorem resetsLead : Obligations.ResetsLead := by
  unfold Obligations.ResetsLead
  refine ⟨islandPowerOn_clears, ?porstAssert, porstRelease_latches, ?deviceReset, ?coreReset, ?escalation, rootLockLoss_leads, ?restart⟩
  case porstAssert =>
    intro s flight h
    have hentry := s.setBoot_kept { s.boot with porst := true }
    exact ⟨_, exec_porstAssert s flight h, State.resetLed_wr (State.resetTo_resetLed true 0 flight hentry) _ _ rfl, by simp, by simp,
      State.on_wr_one _ _ rfl rfl (by decide), State.rd_stage_caused _ _ _ _ _ _ (by decide) (by decide),
      State.endsJournaled_wr (s.setBoot_endsJournaled _ _ _ _) _ _, fun b => by simp [State.get_discards_resetTo]⟩
  case deviceReset =>
    intro s req flight hcore hheld hi hrole hj
    have hentry := s.resetRecorded_kept req 0xA5C30001
    exact ⟨_, exec_deviceReset s flight (s.alive_of 0 hcore hheld) hi hrole hj,
      State.resetLed_wr (State.resetTo_resetLed true _ flight hentry) _ _ rfl, by simp,
      State.on_wr_one _ _ rfl rfl (by decide), State.rd_stage_caused _ _ _ _ _ _ (by decide) s.firstStage_lt,
      s.resetRecorded_journal req _ hj _ _ _ _ _, fun b => by simp [State.get_discards_resetTo]⟩
  case coreReset =>
    intro s req flight hcore hheld hi hrole hj
    have hentry := s.resetRecorded_kept req 0xA5C30002
    exact ⟨_, exec_coreReset s flight (s.alive_of 0 hcore hheld) hi hrole hj,
      State.resetLed_wr (State.resetTo_resetLed false 2 flight hentry) _ _ rfl, by simp,
      State.on_wr_one _ _ rfl rfl (by decide), State.rd_stage_caused _ _ _ _ _ _ (by decide) (by decide),
      s.resetRecorded_journal req _ hj _ _ _ _ _, fun b => by simp [State.get_discards_resetTo]⟩
  case escalation =>
    intro s flight hpend hauto
    exact ⟨_, exec_escalationTimeout s flight hpend hauto,
      State.resetLed_wr (State.resetTo_resetLed false 2 flight (State.kept_refl _ s)) _ _ rfl, by simp,
      State.on_wr_one _ _ rfl rfl (by decide), State.rd_stage_caused _ _ _ _ _ _ (by decide) (by decide),
      State.endsJournaled_wr (s.resetTo_endsJournaled _ _ _) _ _⟩
  case restart =>
    intro s h hio
    have hstage : (if s.boot.porst then 0 else 1) < 16 := by split <;> decide
    have hled := State.resetTo_resetLed true (if s.boot.porst then 0 else 1) []
      (s.setBoot_kept { s.boot with shutdown := false, shutEvent := true })
    have hends := s.setBoot_endsJournaled { s.boot with shutdown := false, shutEvent := true } true (if s.boot.porst then 0 else 1) []
    refine ⟨_, exec_shutdownRestart s h hio, State.resetLed_wr (State.resetLed_wr hled _ _ rfl) _ _ rfl, by simp,
      by simp [State.restarting], by simp [State.restarting], ?_, ?_,
      State.endsJournaled_wr (State.endsJournaled_wr hends _ _) _ _⟩
    · unfold State.on
      rw [State.rd_wr_other _ _ _ _ _ _ _ _ _ _ (by decide)]
      exact State.on_wr_one _ _ rfl rfl (by decide)
    · rw [State.rd_wr_other _ _ _ _ _ _ _ _ _ _ (by decide)]
      exact State.rd_stage_caused _ _ _ _ _ _ (by decide) hstage

end Sys2Proof.Machine
end

section
/-! What a field reads as after a write, what a kept state shows, and what a write with rights leaves: the rules that the obligations on the
transmitter, the receiver and the hub share. -/

namespace Sys2Proof.Machine

open Sys2Proof

variable (s : State)

/-! ### Fields -/

/-- Two fields that share no bit: of different registers, or apart in one register that holds the second. -/
def Fld.apart (f g : Fld) : Bool :=
  g.id != f.id || (decide (f.lo ≤ f.hi) && decide (g.lo ≤ g.hi) && decide (g.hi < (regSpec f.id).width) &&
    (decide (g.hi < f.lo) || decide (f.hi < g.lo)))

/-- A field that lies within its register, which has so many instances in each dimension. -/
def Fld.within (f : Fld) (dims : List Nat) : Bool :=
  decide ((regSpec f.id).dims.map Prod.fst = dims) && decide (f.lo ≤ f.hi) && decide (f.hi < (regSpec f.id).width)

theorem regValid_none_of_dims {id : RegId} (h : (regSpec id).dims.map Prod.fst = []) : regValid ⟨id, 0, 0, 0⟩ = true :=
  regValid_none id (List.map_eq_nil_iff.mp h)

theorem regValid_one_of_dims {id : RegId} {n : Nat} (h : (regSpec id).dims.map Prod.fst = [n]) (i : Fin n) :
    regValid ⟨id, i, 0, 0⟩ = true := by
  obtain ⟨⟨m, a⟩, hd, rfl⟩ := List.map_eq_singleton_iff.mp h
  exact regValid_one id m a i hd i.isLt

theorem regValid_two_of_dims {id : RegId} {n m : Nat} (h : (regSpec id).dims.map Prod.fst = [n, m]) (i : Fin n) (j : Fin m) :
    regValid ⟨id, i, j, 0⟩ = true := by
  obtain ⟨⟨p, a⟩, l, hd, rfl, hl⟩ := List.map_eq_cons_iff.mp h
  obtain ⟨⟨q, b⟩, rfl, rfl⟩ := List.map_eq_singleton_iff.mp hl
  exact regValid_two id p a q b i j hd i.isLt j.isLt

theorem Fld.within_iff {f : Fld} {dims : List Nat} :
    f.within dims = true ↔ (regSpec f.id).dims.map Prod.fst = dims ∧ f.lo ≤ f.hi ∧ f.hi < (regSpec f.id).width := by
  simp [Fld.within, and_assoc]

/-- A write leaves every field apart from the one written. -/
theorem State.rd_wr_apart {f g : Fld} (v i j k a b c : Nat) (h : f.apart g = true) :
    (s.wr f v i j k).rd g a b c = s.rd g a b c := by
  by_cases hsame : g.id = f.id ∧ a = i ∧ b = j ∧ c = k
  · obtain ⟨hid, rfl, rfl, rfl⟩ := hsame
    simp only [Fld.apart, hid, bne_self_eq_false, Bool.false_or, Bool.and_eq_true, decide_eq_true_eq, Bool.or_eq_true] at h
    obtain ⟨⟨⟨hf, hg⟩, hw⟩, hd⟩ := h
    cases hv : regValid ⟨f.id, a, b, c⟩ with
    | false => unfold State.wr State.setReg; rw [RegStore.put_invalid _ _ _ hv]
    | true => exact s.rd_wr_field f g v a b c hv hid hf hg hw hd
  · exact s.rd_wr_other f g v i j k a b c hsame

theorem State.rd_wr_none {f : Fld} (v : Nat) (h : f.within [] = true) : (s.wr f v).rd f = v % 2 ^ f.width := by
  obtain ⟨hd, hf, hw⟩ := Fld.within_iff.mp h
  exact s.rd_wr_same f v 0 0 0 (regValid_none_of_dims hd) hf hw

theorem State.rd_wr_one {f : Fld} {n : Nat} (v : Nat) (i : Fin n) (h : f.within [n] = true) :
    (s.wr f v i).rd f i = v % 2 ^ f.width := by
  obtain ⟨hd, hf, hw⟩ := Fld.within_iff.mp h
  exact s.rd_wr_same f v i 0 0 (regValid_one_of_dims hd i) hf hw

theorem State.rd_wr_two {f : Fld} {n m : Nat} (v : Nat) (i : Fin n) (j : Fin m) (h : f.within [n, m] = true) :
    (s.wr f v i j).rd f i j = v % 2 ^ f.width := by
  obtain ⟨hd, hf, hw⟩ := Fld.within_iff.mp h
  exact s.rd_wr_same f v i j 0 (regValid_two_of_dims hd i j) hf hw

/-- A write at another second index leaves a field. -/
theorem State.rd_wr_second {f g : Fld} (v i k a c : Nat) {j b : Nat} (h : b ≠ j) : (s.wr f v i j k).rd g a b c = s.rd g a b c :=
  s.rd_wr_other f g v i j k a b c fun e => h e.2.2.1

theorem State.rd_setReg_second {id : RegId} {g : Fld} (v i k a c : Nat) {j b : Nat} (h : b ≠ j) :
    (s.setReg id v i j k).rd g a b c = s.rd g a b c := by
  unfold State.rd; rw [s.reg_setReg_other id g.id v i j k a b c fun e => h e.2.2.1]

theorem State.get_wr_id {f : Fld} {r : RegKey} (v i j k : Nat) (h : r.id ≠ f.id) :
    (s.wr f v i j k).regs.get r = s.regs.get r := s.get_wr_other f r v i j k fun e => h (by rw [e])

/-! ### Events -/

theorem State.rd_raise_apart {f g : Fld} (code dom : Nat) (params : List Nat) (exit : Bool) (i a b c : Nat) (h : f.apart g = true)
    (hm : eventMask.testBit (regBit g.id) = false) : (s.raise f code dom params exit i).rd g a b c = s.rd g a b c := by
  unfold State.raise
  rw [State.kept_rd (State.event_keeps _ code dom params exit) g hm, s.rd_wr_apart _ _ _ _ _ _ _ h]

/-- An event sets its bit. -/
theorem State.on_raise_one {f : Fld} {n : Nat} (code dom : Nat) (params : List Nat) (exit : Bool) (i : Fin n)
    (h : f.within [n] = true) (hf : f.hi = f.lo) (hm : eventMask.testBit (regBit f.id) = false) :
    (s.raise f code dom params exit i).on f i = true := by
  have hwidth : f.width = 1 := by unfold Fld.width; omega
  unfold State.raise State.on
  rw [State.kept_rd (State.event_keeps _ code dom params exit) f hm, s.rd_wr_one 1 i h, hwidth]
  rfl

theorem State.on_raise_none {f : Fld} (code dom : Nat) (params : List Nat) (exit : Bool)
    (h : f.within [] = true) (hf : f.hi = f.lo) (hm : eventMask.testBit (regBit f.id) = false) :
    (s.raise f code dom params exit).on f = true := by
  have hwidth : f.width = 1 := by unfold Fld.width; omega
  unfold State.raise State.on
  rw [State.kept_rd (State.event_keeps _ code dom params exit) f hm, s.rd_wr_none 1 h, hwidth]
  rfl

/-! ### What a kept state shows -/

/-- The footprint of some register names and parts of the state. -/
def footOf (ids : List RegId) (parts : List Part) : Nat :=
  ids.foldl (fun m id => m ||| 1 <<< regBit id) (parts.foldl (fun m p => m ||| 1 <<< p.ctorIdx) 0)

/-- The footprint of an event with some register names and parts beside it. -/
def eventFoot (ids : List RegId) (parts : List Part) : Nat := eventMask ||| footOf ids parts

section
variable {s} {t : State} {m : Nat}

theorem State.kept_get (h : s.kept m t) (r : RegKey) (hm : m.testBit (regBit r.id) = false) : t.regs.get r = s.regs.get r :=
  h.2.2.2.2.1 r hm

theorem State.kept_reg (h : s.kept m t) (id : RegId) (hm : m.testBit (regBit id) = false) (i j k : Nat) :
    t.reg id i j k = s.reg id i j k := State.kept_get h ⟨id, i, j, k⟩ hm

theorem State.kept_on (h : s.kept m t) (f : Fld) (hm : m.testBit (regBit f.id) = false) (i j k : Nat) :
    t.on f i j k = s.on f i j k := by
  unfold State.on; rw [State.kept_rd h f hm]

theorem State.kept_lineMode (h : s.kept m t) (hm : m.testBit (regBit .TOP_MODE_STAT) = false) (n : Nat) : t.lineMode n = s.lineMode n :=
  State.kept_rd h _ (by split <;> exact hm) _ _ _

theorem State.kept_lineOzr (h : s.kept m t) (hm : m.testBit (regBit .TOP_MODE_STAT) = false) (n : Nat) : t.lineOzr n = s.lineOzr n :=
  State.kept_on h _ (by split <;> exact hm) _ _ _

theorem State.kept_firstSlots (h : s.kept m t) (f : Fld) (hm : m.testBit (regBit f.id) = false) (n : Nat) :
    t.firstSlots f n = s.firstSlots f n := by
  unfold State.firstSlots; simp only [State.kept_rd h f hm]

theorem State.kept_brd (h : s.kept m t) (hm : m.testBit 17 = false) (n : Nat) : t.brd n = s.brd n :=
  congrArg (fun x => Tab.get ({} : BraidInt) x n) (State.kept_part h 17 hm)

theorem State.kept_str (h : s.kept m t) (hm : m.testBit 16 = false) (n : Nat) : t.str n = s.str n :=
  congrArg (fun x => Tab.get ({} : StrandInt) x n) (State.kept_part h 16 hm)

theorem State.kept_spl (h : s.kept m t) (hm : m.testBit 18 = false) (n : Nat) : t.spl n = s.spl n :=
  congrArg (fun x => Tab.get ({} : SpliceInt) x n) (State.kept_part h 18 hm)

theorem State.kept_bgt (h : s.kept m t) (hm : m.testBit 20 = false) (n : Nat) : t.bgt n = s.bgt n :=
  congrArg (fun x => Tab.get ({} : BightInt) x n) (State.kept_part h 20 hm)

theorem State.kept_clt (h : s.kept m t) (hm : m.testBit 21 = false) (n : Nat) : t.clt n = s.clt n :=
  congrArg (fun x => Tab.get ({} : CleatInt) x n) (State.kept_part h 21 hm)

end

/-! ### Steps over units -/

/-- What holds at first and every step keeps holds at the end. -/
theorem State.each_holds {l : List Nat} {f : Nat → State → State} (P : State → Prop) (hs : P s)
    (hstep : ∀ i ∈ l, ∀ t, P t → P (f i t)) : P (s.each l f) := by
  induction l generalizing s with
  | nil => exact hs
  | cons a l ih => exact ih (f a s) (hstep a (by simp) s hs) fun i hi => hstep i (List.mem_cons_of_mem a hi)

/-- What the step of one unit sets, and those of the others keep, holds at the end, while the steps keep what it rests on. -/
theorem State.each_sets {l : List Nat} {f : Nat → State → State} (Q P : State → Prop) {a : Nat} (ha : a ∈ l) (hs : Q s)
    (hQ : ∀ i ∈ l, ∀ t, Q t → Q (f i t)) (hset : ∀ t, Q t → P (f a t)) (hkeep : ∀ i ∈ l, i ≠ a → ∀ t, P t → P (f i t)) :
    P (s.each l f) := by
  have hstep (i : Nat) (hi : i ∈ l) (t : State) (h : Q t ∧ P t) : Q (f i t) ∧ P (f i t) := by
    refine ⟨hQ i hi t h.1, ?_⟩
    by_cases e : i = a
    · exact e ▸ hset t h.1
    · exact hkeep i hi e t h.2
  obtain ⟨l₁, l₂, rfl⟩ := List.append_of_mem ha
  have hfirst : Q (s.each l₁ f) := s.each_holds Q hs fun i hi => hQ i (by simp [hi])
  have hsplit : s.each (l₁ ++ a :: l₂) f = (f a (s.each l₁ f)).each l₂ f := by simp [State.each]
  rw [hsplit]
  exact (State.each_holds _ (fun t => Q t ∧ P t) ⟨hQ a (by simp) _ hfirst, hset _ hfirst⟩ fun i hi => hstep i (by simp [hi])).2

/-! ### Writes with rights -/

/-- What a journal record changes. -/
abbrev recordMask : Nat := 0x1000000000000000000400000800

/-- A run-time write with its rights, and a journal that can take it, leaves what its effect leaves, but for the record. -/
theorem State.runWrite_kept_effect {req : Requester} {d : Nat} (key : RegKey) (v : Nat) (f : State → State)
    (hp : 1 ≤ s.roleIn req d) (hj : s.journalBlocked = false) : (f s).kept recordMask (s.runWrite req d key v f) := by
  have hpermits : s.permits req 1 [d] = true := by simpa using hp
  unfold State.runWrite
  rcases Nat.lt_or_ge (s.topRole req [d]) 2 with hr | hr
  · rw [s.write_plain req 1 [d] _ _ _ f hpermits hr]
    exact State.kept_refl _ _
  · rw [s.write_journaled req 1 [d] _ _ _ false f hpermits hr hj]
    exact State.record_kept _ _ _ _ _ _ _ _ _ _ (State.kept_refl _ _) (Foot.refl _)

/-- The command of a requester that may write: its effect on the state without the requester's latch, but for the record. -/
theorem access_runWrite {req : Requester} {b d : Nat} {F f : State → State} (h : s.mayWrite req b 1 d)
    (hF : ∃ key v, F (s.dropLatch req) = (s.dropLatch req).runWrite req d key v f) :
    ∃ t, access req b s F = .next t ∧ (f (s.dropLatch req)).kept recordMask t := by
  obtain ⟨halive, hi, hrole, hj⟩ := h
  obtain ⟨key, v, hF⟩ := hF
  exact ⟨_, access_next s req b F halive hi, hF ▸ (s.dropLatch req).runWrite_kept_effect key v f hrole hj⟩

/-! ### Frames -/

theorem RegId.ctorIdx_lt (id : RegId) : id.ctorIdx < 512 := by cases id <;> decide

/-- Whether the registers and the parts of a footprint are among those listed. -/
def footFits (m : Nat) (l : List Touch) (p : List Part) : Bool :=
  (List.range 512).all (fun i => !m.testBit (64 + i) || decide (Touch.reg (RegId.ofNat i) ∈ l)) &&
    (List.range 37).all fun k => !m.testBit k || decide (Part.ofNat k ∈ p)

/-- The frame of a command whose footprint fits the lists. -/
theorem exec_only_of_fits {s t : State} {c : Instr} {l : List Touch} {p : List Part} (h : exec c s = .next t)
    (hf : footFits (footprint c) l p = true) : s.only l p t := by
  simp only [footFits, Bool.and_eq_true, List.all_eq_true, List.mem_range, Bool.or_eq_true, Bool.not_eq_true', decide_eq_true_eq] at hf
  obtain ⟨hregs, hparts⟩ := hf
  refine exec_only h (fun id hb => ?_) fun k hb => ?_
  · have := (hregs id.ctorIdx id.ctorIdx_lt).resolve_left (by rw [hb]; decide)
    rwa [RegId.ofNat_ctorIdx] at this
  · have := (hparts k.ctorIdx (by cases k <;> decide)).resolve_left (by rw [hb]; decide)
    rwa [Part.ofNat_ctorIdx] at this

end Sys2Proof.Machine
end

section
/-! Pre-distortion tables and the calibrations of the DACs (R72 to R74, R483), and the obligation on them. That a background update moves an
offset whole in one step is the model's choice (log entry 84). -/

namespace Sys2Proof.Machine

open Sys2Proof

variable (s : State)

/-! ### The pre-distortion tables -/

theorem State.get_pdWrite_off {key : RegKey} (v : Nat) (h : s.lineMode key.i = 0) (hv : regValid key = true) :
    (s.pdWrite key v).regs.get key = v % (if key.id = .BRAD_PD_FIR then 2 ^ 16 else 2 ^ 8) % 2 ^ (regSpec key.id).width := by
  unfold State.pdWrite
  rw [if_pos h]
  exact RegStore.get_put_same _ _ _ hv

theorem State.pdWrite_refused {key : RegKey} (v : Nat) (h : s.lineMode key.i ≠ 0) :
    s.pdWrite key v = s.refuse 9 15 key.i (s.lineDom key.i) := if_neg h

/-- A refusal in Braid: its register shows the cause and the line. -/
theorem State.refuse_braid_shows (cause dom : Nat) (n : Line) :
    (s.refuse 9 cause n dom).on .BRAD_REFUSE_STICKY = true ∧ (s.refuse 9 cause n dom).rd .BRAD_REFUSE_LAST_CAUSE = cause % 16 ∧
      (s.refuse 9 cause n dom).rd .BRAD_REFUSE_LAST_LINE = n := by
  have hn : n.val % 4 = n := Nat.mod_eq_of_lt (by omega)
  simp (disch := decide) [State.refuse, refuseFields, State.on, State.rd_event, State.rd_wr_apart, State.rd_wr_none, State.inc, Fld.width, hn]

theorem State.get_refuse_braid (cause unit dom : Nat) (r : RegKey) (h : (refuseFoot 9).testBit (regBit r.id) = false) :
    (s.refuse 9 cause unit dom).regs.get r = s.regs.get r :=
  State.kept_get (State.refuse_kept s 9 cause unit dom (State.kept_refl _ s) (Foot.refl _)) r h

theorem exec_pdTableWrite {req : Requester} {n : Line} {lut : Bool} {tr : Trib} {idx : Nat} (value : Nat) {key : RegKey}
    (hw : s.mayWrite req 9 1 (s.lineDom n)) (hkey : key = ⟨if lut then .BRAD_PD_LUT else .BRAD_PD_FIR, n, tr, idx⟩)
    (hv : regValid key = true) : ∃ t, exec (.pdTableWrite req n lut tr idx value) s = .next t ∧
      ((s.dropLatch req).pdWrite key value).kept recordMask t := by
  subst hkey
  change ∃ t, execPdTableWrite req n lut tr idx value s = .next t ∧ _
  unfold execPdTableWrite
  exact access_runWrite (f := fun t => t.pdWrite _ value) s hw ⟨_, value, if_pos hv⟩

/-! ### The calibrations on request -/

theorem exec_dacFgReq {req : Requester} {n : Line} (hw : s.mayWrite req 8 1 (s.lineDom n)) :
    ∃ t, exec (.dacFgReq req n) s = .next t ∧ ((s.dropLatch req).dacReq n).kept recordMask t := by
  change ∃ t, execDacFgReq req n s = .next t ∧ _
  unfold execDacFgReq
  exact access_runWrite (f := fun t => t.dacReq n) s hw ⟨_, _, rfl⟩

theorem State.dacReq_starts {n : Nat} (h1 : s.rd .STRD_DAC_CAL_FG_STATE n ≠ 1) (hm : s.lineMode n ≠ 0) (hx : s.txen n = false) :
    s.dacReq n = s.dacStart n := by
  unfold State.dacReq
  rw [if_neg h1, if_neg (by simp [hm, hx])]

theorem State.dacReq_refused {n : Nat} (h1 : s.rd .STRD_DAC_CAL_FG_STATE n ≠ 1) (h : s.lineMode n = 0 ∨ s.txen n = true) :
    s.dacReq n = (s.wr .STRD_DAC_CAL_FG_REQ 0 n).wr .STRD_DAC_CAL_FG_REFUSED 1 n := by
  unfold State.dacReq
  rw [if_neg h1, if_pos (by simpa using h)]

/-! ### The end of a calibration -/

/-- The transmitter made ready: at start-up the start table is sent. -/
def State.dacReady (s : State) (n : Nat) : State :=
  if (s.str n).txReady then s else (s.startTx n).setStr n { s.str n with txReady := true }

/-- What the end of a calibration of a line's DACs sets. -/
def State.dacOutcome (s : State) (n : Nat) (ok : Bool) (t : Nat) (cal : List (List Calib)) : State :=
  if ok then ((s.setStr n { s.str n with dac := calTable cal, dacRest := [] }).calResults n false cal).dacReady n
  else (s.setStr n { s.str n with txReady := false }).raise .STRD_EVT_DAC_FG_FAIL 0x4001 (s.lineDom n) [n, t]

theorem exec_dacFgCalDone {n : Line} (ok : Bool) (tr : Trib) (cal : List (List Calib)) (h8 : s.alive 8 = true)
    (h1 : s.rd .STRD_DAC_CAL_FG_STATE n = 1) : exec (.dacFgCalDone n ok tr cal) s = .next
      (((((s.wr .STRD_DAC_CAL_FG_REQ 0 n).wr .STRD_DAC_CAL_FG_STATE (if ok then 2 else 3) n).dacOutcome n ok tr cal).calEnded n).refreshTxen) := by
  change execDacFgCalDone n ok tr cal s = _
  unfold execDacFgCalDone
  rw [act_next s 8 _ h8, if_neg (by simp [h1])]
  cases ok <;> rfl

theorem State.calResults_str (n : Nat) (adc : Bool) (cal : List (List Calib)) :
    (s.calResults n adc cal).str n = { s.str n with
      history := (adc, 3, cal.getD 3 []) :: (adc, 2, cal.getD 2 []) :: (adc, 1, cal.getD 1 []) :: (adc, 0, cal.getD 0 []) ::
        (s.str n).history } := by
  simp [State.calResults, State.each, State.calResult, State.str]

theorem calTable_get (cal : List (List Calib)) {k : Nat} (h : k < 4) : (calTable cal).get [] k = cal.getD k [] := by
  rcases (by omega : k = 0 ∨ k = 1 ∨ k = 2 ∨ k = 3) with rfl | rfl | rfl | rfl <;>
    simp [calTable, Tab.get_put_other]

theorem State.dacReady_str (n : Nat) : (s.dacReady n).str n = { s.str n with txReady := true } := by
  unfold State.dacReady
  split
  · next h => rw [← h]
  · simp [State.str]

/-- The outcome of a success, for the line's converters. -/
theorem State.dacOutcome_str_ok (n t : Nat) (cal : List (List Calib)) : (s.dacOutcome n true t cal).str n =
    { s.str n with txReady := true, dac := calTable cal, dacRest := [], history :=
      (false, 3, cal.getD 3 []) :: (false, 2, cal.getD 2 []) :: (false, 1, cal.getD 1 []) :: (false, 0, cal.getD 0 []) ::
        (s.str n).history } := by
  rw [State.dacOutcome, if_pos rfl, State.dacReady_str, State.calResults_str]
  simp [State.str]

theorem State.dacOutcome_str_failed (n t : Nat) (cal : List (List Calib)) :
    (s.dacOutcome n false t cal).str n = { s.str n with txReady := false } := by
  simp [State.dacOutcome, State.str]

/-- What the outcome can change: the converters' state and event, the transmit table and its state. -/
theorem State.dacOutcome_kept (n t : Nat) (ok : Bool) (cal : List (List Calib)) :
    s.kept (eventFoot [.STRD_EVT, .BRAD_LOAD_STAT, .BRAD_SC_ACT] [.strand, .braid]) (s.dacOutcome n ok t cal) := by
  cases ok with
  | true =>
    have hres : s.kept (eventFoot [.STRD_EVT, .BRAD_LOAD_STAT, .BRAD_SC_ACT] [.strand, .braid])
        ((s.setStr n { s.str n with dac := calTable cal, dacRest := [] }).calResults n false cal) :=
      State.calResults_kept _ _ _ _ (State.setStr_kept _ _ _ (State.kept_refl _ s) rfl) rfl
    rw [State.dacOutcome, if_pos rfl, State.dacReady]
    split
    · exact hres
    · exact State.setStr_kept _ _ _ (State.startTx_kept _ _ hres rfl) rfl
  | false => exact State.raise_kept _ _ _ _ _ _ _ (State.setStr_kept _ _ _ (State.kept_refl _ s) rfl) rfl rfl

/-- The pin of a line's laser follows. -/
theorem State.refreshTxen_txen (n : Line) : s.refreshTxen.txen n = s.refreshTxen.laserOn n := by
  have h : s.refreshTxen.laserOn n = s.laserOn n := rfl
  rw [h]
  fin_cases n <;> simp [State.refreshTxen, State.txen, Tab.get_put_other]

/-! ### Updates in the background -/

theorem exec_dacBgCalUpdate {n : Line} (tr : Trib) (c : List Calib) (h8 : s.alive 8 = true) (hm : s.lineMode n ≠ 0)
    (hbg : s.on .STRD_DAC_CAL_BG_EN n = true) :
    let old := (s.str n).dacRest.get [] tr
    let need := calSum false old c
    let value := calSum false ((s.str n).dac.get [] tr) (calMove false need)
    let rest := calRest false need (calMove false need)
    let t := (s.setStr n { s.str n with dac := (s.str n).dac.put [] tr value, dacRest := (s.str n).dacRest.put [] tr rest }).calResult n
      false tr value
    exec (.dacBgCalUpdate n tr c) s =
      .next (if !calZero rest && calZero old then t.raise .STRD_EVT_DAC_STEP 0x4002 (t.lineDom n) [n, tr] else t) := by
  change execDacBgCalUpdate n tr c s = _
  unfold execDacBgCalUpdate
  rw [act_next s 8 _ h8, if_neg (by simp [hm, hbg])]

/-- Settles O29: a table's entry is a register written in Off; the calibrations are the two that a request starts, the outcome that its end
sets, and the step of an update with its rest. -/
theorem tableMemoriesAndDacs : Obligations.TableMemoriesAndDacs := by
  unfold Obligations.TableMemoriesAndDacs
  refine ⟨?write, ?request, ?done, ?update⟩
  case write =>
    intro s req n lut tr idx value key hw hkey hv
    obtain ⟨t, hexec, hk⟩ := exec_pdTableWrite s value hw hkey hv
    have hi : key.i = n := by rw [hkey]
    have hid : key.id = if lut then .BRAD_PD_LUT else .BRAD_PD_FIR := by rw [hkey]
    refine ⟨t, hexec, exec_only_of_fits hexec (by simp only [footprint]; decide +kernel), fun hoff => ?_, fun hon => ?_⟩
    · rw [State.kept_get hk key (by rw [hid]; cases lut <;> decide), State.get_pdWrite_off _ _ (hi ▸ hoff) hv]
      rw [hid]
      cases lut <;> exact Nat.mod_eq_of_lt (lt_of_lt_of_le (Nat.mod_lt _ (by decide)) (by decide))
    · rw [State.pdWrite_refused _ _ (hi ▸ hon), hi] at hk
      obtain ⟨hsticky, hcause, hline⟩ := (s.dropLatch req).refuse_braid_shows 15 ((s.dropLatch req).lineDom n) n
      refine ⟨?_, (State.kept_on hk _ rfl _ _ _).trans hsticky, (State.kept_rd hk _ rfl _ _ _).trans hcause,
        (State.kept_rd hk _ rfl _ _ _).trans hline⟩
      rw [State.kept_get hk key (by rw [hid]; cases lut <;> decide), State.get_refuse_braid _ _ _ _ _ (by rw [hid]; cases lut <;> decide)]
      rfl
  case request =>
    intro s req n hw h1
    obtain ⟨t, hexec, hk⟩ := exec_dacFgReq s hw
    refine ⟨t, hexec, exec_only_of_fits hexec (by simp only [footprint]; decide +kernel), fun hm hx => ?_, fun h => ?_⟩
    · rw [State.dacReq_starts (s.dropLatch req) h1 hm hx] at hk
      rw [State.kept_rd hk _ rfl, State.kept_on hk _ rfl]
      simp (disch := decide) [State.dacStart, State.on, State.rd_wr_apart, State.rd_wr_one, Fld.width]
    · rw [State.dacReq_refused (s.dropLatch req) h1 h] at hk
      rw [State.kept_rd hk _ rfl, State.kept_on hk _ rfl, State.kept_on hk _ rfl]
      simp (disch := decide) [State.on, State.rd_wr_apart, State.rd_wr_one, Fld.width]
  case done =>
    intro s n ok tr cal h8 h1
    have hexec := exec_dacFgCalDone s ok tr cal h8 h1
    generalize he : (s.wr .STRD_DAC_CAL_FG_REQ 0 n).wr .STRD_DAC_CAL_FG_STATE (if ok then 2 else 3) n = e at hexec
    have hstr : e.str n = s.str n := by rw [← he]; rfl
    have hend : (e.dacOutcome n ok tr cal).kept (footOf [.TOP_MODE_STAT] [.pins]) ((e.dacOutcome n ok tr cal).calEnded n).refreshTxen :=
      State.refreshTxen_kept _ (State.calEnded_kept _ _ (State.kept_refl _ _) rfl) rfl
    have hcal (f : Fld) (hf : f.id = .STRD_DAC_CAL) :
        ((e.dacOutcome n ok tr cal).calEnded n).refreshTxen.rd f n = e.rd f n := by
      rw [State.kept_rd hend _ (by rw [hf]; rfl), State.kept_rd (e.dacOutcome_kept n tr ok cal) _ (by rw [hf]; rfl)]
    refine ⟨_, hexec, exec_only_of_fits hexec (by simp only [footprint]; decide +kernel), ?_, ?_, ?_, ?_, ?_⟩
    · rw [hcal _ rfl, ← he, State.rd_wr_one _ _ _ (by decide)]
      cases ok <;> rfl
    · rw [State.on, hcal _ rfl, ← he]
      simp (disch := decide) [State.rd_wr_apart, State.rd_wr_one]
    · rw [State.kept_str hend rfl]
      cases ok
      · rw [State.dacOutcome_str_failed]
      · rw [State.dacOutcome_str_ok]
    · rintro rfl
      rw [State.kept_str hend rfl, State.dacOutcome_str_ok, hstr]
      exact ⟨fun k hk => calTable_get cal hk, rfl, rfl⟩
    · rintro rfl
      rw [State.kept_on hend _ rfl, State.kept_str hend rfl, State.dacOutcome_str_failed, hstr]
      exact ⟨State.on_raise_none _ _ _ _ _ (by decide) rfl rfl, State.refreshTxen_txen _ n, rfl⟩
  case update =>
    rintro s n tr c need move h8 hm hbg rfl rfl
    have hexec := exec_dacBgCalUpdate s tr c h8 hm hbg
    refine ⟨_, hexec, exec_only_of_fits hexec (by simp only [footprint]; decide +kernel), ?_⟩
    dsimp only
    refine ⟨?_, ?_, ?_, fun hrest hold => ?_⟩
    · split <;> simp [State.str, State.calResult]
    · split <;> simp [State.str, State.calResult]
    · split <;> simp [State.str, State.calResult]
    · rw [if_pos (by simp [hrest, hold])]
      exact State.on_raise_none _ _ _ _ _ (by decide) rfl rfl

end Sys2Proof.Machine
end

section
/-! The loading loop (R57 to R67, R70, R169): evaluations, proposals, countdowns, reversions, the overhead block; and the obligation on it.
The identifier 0 of a forced reversion (log entry 13), the target of MAN_GO, what waits for a countdown's end and SWITCHED at a forced
reversion (log entry 48), the number of evaluations kept (log entry 49) and the next unused identifier (log entry 75) are the model's
choices. -/

namespace Sys2Proof.Machine

open Sys2Proof

variable (s : State)

/-! ### Evaluations (R58) -/

/-- A record of each listed unit replaced by what it was, once for a unit. -/
theorem Tab.get_foldl_put {α : Type} [DecidableEq α] (d : α) (g : Nat → α → α) {l : List Nat} (hl : l.Nodup) (p : Tab α) (k : Nat) :
    Tab.get d (l.foldl (fun p f => p.put d f (g f (p.get d f))) p) k = if k ∈ l then g k (p.get d k) else p.get d k := by
  induction l generalizing p with
  | nil => simp
  | cons a l ih =>
    obtain ⟨ha, hl⟩ := List.nodup_cons.mp hl
    rw [List.foldl_cons, ih hl]
    by_cases hk : k = a
    · subst hk; simp [ha]
    · simp [Tab.get_put_other _ _ _ _ _ hk, hk]

theorem State.setBrd_brd (n : Nat) (x : BraidInt) : (s.setBrd n x).brd n = x := by simp [State.brd]

/-- The average of a slot put in front of its past ones. -/
def State.averageSlot (s : State) (n f : Nat) : State :=
  s.setBrd n { s.brd n with
    past := (s.brd n).past.put [] f (((s.brd n).sums.get (0, 0) f :: (s.brd n).past.get [] f).take (s.dwellCount n)) }

/-- The averages taken, and new sums started. -/
def State.averaged (s : State) (n : Nat) : State :=
  let t := s.each (s.firstSlots .BRAD_SC_CFG_WIDTH n) fun f t => t.averageSlot n f
  t.setBrd n { t.brd n with sums := [] }

/-- The floors of some slots followed. -/
def State.floorsHeld (s : State) (n : Nat) (slots : List Nat) : State := s.each slots fun f t => t.holdFloor n f (t.chooseSlot n f).2

/-- The choice of an evaluation proposed, or kept for the end of a proposal. -/
def State.evaluated (s : State) (n : Nat) : State :=
  if !s.on .BRAD_LINE_CFG_LOAD_AUTO n then s
  else if s.rd .BRAD_LOAD_STAT_STATE n = 0 then s.proposeChoice n
  else s.setBrd n { s.brd n with evalHeld := true }

theorem exec_loadingEvaluation {n : Line} (h9 : s.alive 9 = true) (hl : s.loads n = true) : exec (.loadingEvaluation n) s =
    .next (((s.averaged n).floorsHeld n (s.firstSlots .BRAD_SC_CFG_WIDTH n)).evaluated n) := by
  change execLoadingEvaluation n s = _
  unfold execLoadingEvaluation
  rw [act_next s 9 _ h9, if_neg (by simp [hl])]
  rfl

theorem State.averageEach (n : Nat) (l : List Nat) : (s.each l fun f t => t.averageSlot n f).regs = s.regs ∧
    (s.each l fun f t => t.averageSlot n f).brd n = { s.brd n with past := l.foldl (fun p f =>
      p.put [] f (((s.brd n).sums.get (0, 0) f :: p.get [] f).take (s.dwellCount n))) (s.brd n).past } := by
  induction l generalizing s with
  | nil => exact ⟨rfl, rfl⟩
  | cons a l ih =>
    obtain ⟨hregs, hbrd⟩ := ih (s.averageSlot n a)
    refine ⟨hregs, hbrd.trans ?_⟩
    rw [State.averageSlot, State.setBrd_brd]
    rfl

theorem State.averaged_regs (n : Nat) : (s.averaged n).regs = s.regs := (s.averageEach n _).1

theorem State.firstSlots_nodup (f : Fld) (n : Nat) : (s.firstSlots f n).Nodup := List.nodup_range.filter _

/-- The averages of the line's subcarriers are in front, the sums empty, and nothing else of the engine has changed. -/
theorem State.averaged_brd (n : Nat) : ∃ p, (s.averaged n).brd n = { s.brd n with sums := [], past := p } ∧
    ∀ f ∈ s.firstSlots .BRAD_SC_CFG_WIDTH n,
      p.get [] f = ((s.brd n).sums.get (0, 0) f :: (s.brd n).past.get [] f).take (s.dwellCount n) := by
  refine ⟨_, ?_, fun f hf => (Tab.get_foldl_put [] (fun f a => ((s.brd n).sums.get (0, 0) f :: a).take (s.dwellCount n))
    (s.firstSlots_nodup _ n) (s.brd n).past f).trans (if_pos hf)⟩
  rw [State.averaged, State.setBrd_brd, (s.averageEach n _).2]

theorem State.holdFloor_brd (n f : Nat) (held : Bool) : ∃ l, (s.holdFloor n f held).brd n = { s.brd n with floorHeld := l } := by
  unfold State.holdFloor State.braidEvent
  dsimp only
  split
  · exact ⟨_, by simp [State.brd]; rfl⟩
  · split
    · exact ⟨_, rfl⟩
    · exact ⟨_, by simp [State.brd]; rfl⟩

theorem State.floorsHeld_brd (n : Nat) (l : List Nat) : ∃ h, (s.floorsHeld n l).brd n = { s.brd n with floorHeld := h } := by
  refine s.each_holds (fun t => ∃ h, t.brd n = { s.brd n with floorHeld := h }) ⟨_, rfl⟩ fun f _ t ⟨h, ht⟩ => ?_
  obtain ⟨h', ht'⟩ := t.holdFloor_brd n f (t.chooseSlot n f).2
  exact ⟨h', by rw [ht', ht]⟩

theorem State.floorsHeld_kept (n : Nat) (l : List Nat) : s.kept (eventFoot [.BRAD_LOAD_EVT] [.braid]) (s.floorsHeld n l) :=
  State.each_kept _ _ _ (State.kept_refl _ s) fun _ _ h => State.holdFloor_kept _ _ _ _ h rfl

/-! ### Proposals (R59, R61) -/

theorem State.nextId_lt (n : Nat) : s.nextId n < 16 := by
  unfold State.nextId
  dsimp only
  split <;> omega

theorem State.propose_same {n : Nat} {table : List (Nat × Nat × Nat)} (h : table = s.txTable n) : s.propose n table = s := if_pos h

/-- A new table proposed: STATE, the identifier and the table. -/
theorem State.propose_new {n : Line} {table : List (Nat × Nat × Nat)} (h : table ≠ s.txTable n) :
    (s.propose n table).rd .BRAD_LOAD_STAT_STATE n = 1 ∧ (s.propose n table).rd .BRAD_LOAD_STAT_PEND_ID n = s.nextId n ∧
      (s.propose n table).brd n = { s.brd n with table := table, lastId := s.nextId n } := by
  have hid : s.nextId n % 16 = s.nextId n := Nat.mod_eq_of_lt (s.nextId_lt n)
  unfold State.propose
  rw [if_neg h]
  simp (disch := decide) [State.rd_wr_apart, State.rd_wr_one, Fld.width, hid, State.brd]

theorem State.propose_brd (n : Nat) (table : List (Nat × Nat × Nat)) :
    ∃ tab id, (s.propose n table).brd n = { s.brd n with table := tab, lastId := id } := by
  unfold State.propose
  split
  · exact ⟨_, _, rfl⟩
  · exact ⟨table, s.nextId n, State.setBrd_brd _ n _⟩

theorem State.evaluated_brd (n : Nat) :
    ∃ tab id h, (s.evaluated n).brd n = { s.brd n with table := tab, lastId := id, evalHeld := h } := by
  unfold State.evaluated State.proposeChoice
  split
  · exact ⟨_, _, _, rfl⟩
  · split
    · obtain ⟨tab, id, h⟩ := s.propose_brd n ((s.firstSlots .BRAD_SC_CFG_WIDTH n).map fun f => (f, (s.chooseSlot n f).1))
      exact ⟨tab, id, _, h⟩
    · exact ⟨(s.brd n).table, (s.brd n).lastId, true, State.setBrd_brd _ n _⟩

theorem State.evaluated_manual {n : Nat} (h : s.on .BRAD_LINE_CFG_LOAD_AUTO n = false) : s.evaluated n = s := if_pos (by simp [h])

theorem State.evaluated_waits {n : Nat} (ha : s.on .BRAD_LINE_CFG_LOAD_AUTO n = true) (h0 : s.rd .BRAD_LOAD_STAT_STATE n ≠ 0) :
    s.evaluated n = s.setBrd n { s.brd n with evalHeld := true } := by
  rw [State.evaluated, if_neg (by simp [ha]), if_neg h0]

/-- MAN_GO where LOAD_AUTO is set (R57), where nothing is proposed, and during a proposal. -/
theorem State.manGo_auto {n : Nat} (h : s.on .BRAD_LINE_CFG_LOAD_AUTO n = true) : s.manGo n = s := if_pos (by simp [h])

theorem State.manGo_idle {n : Nat} (hl : s.loads n = true) (ha : s.on .BRAD_LINE_CFG_LOAD_AUTO n = false)
    (h0 : s.rd .BRAD_LOAD_STAT_STATE n = 0) : s.manGo n = s.proposeManual n := by
  rw [State.manGo, if_neg (by simp [hl, ha]), if_pos h0]

theorem State.manGo_waits {n : Nat} (hl : s.loads n = true) (ha : s.on .BRAD_LINE_CFG_LOAD_AUTO n = false)
    (h0 : s.rd .BRAD_LOAD_STAT_STATE n ≠ 0) : s.manGo n = s.setBrd n { s.brd n with manHeld := true } := by
  rw [State.manGo, if_neg (by simp [hl, ha]), if_neg h0]

theorem exec_manGo {req : Requester} {n : Line} (hw : s.mayWrite req 9 1 (s.lineDom n)) :
    ∃ t, exec (.manGo req n) s = .next t ∧ ((s.dropLatch req).manGo n).kept recordMask t := by
  change ∃ t, execManGo req n s = .next t ∧ _
  unfold execManGo
  exact access_runWrite (f := fun t => t.manGo n) s hw ⟨_, _, rfl⟩

/-! ### Reversions and the end of a proposal (R63, R66) -/

/-- The fields that a proposal, a countdown and a reversion change. -/
def proposalFields : List Fld :=
  [.BRAD_LOAD_EVT_FORCED_START, .BRAD_LOAD_STAT_STATE, .BRAD_LOAD_STAT_PEND_ID, .BRAD_LOAD_STAT_COUNT]

/-- A field apart from those of a proposal, which no event changes. -/
def Fld.besideProposal (g : Fld) : Bool := proposalFields.all (fun f => f.apart g) && !eventMask.testBit (regBit g.id)

section
variable {g : Fld} (h : g.besideProposal = true) (n a b c : Nat)
include h

theorem State.rd_propose_beside (table : List (Nat × Nat × Nat)) : (s.propose n table).rd g a b c = s.rd g a b c := by
  simp only [Fld.besideProposal, proposalFields, List.all_cons, List.all_nil, Bool.and_eq_true, Bool.and_true] at h
  obtain ⟨⟨-, hst, hid, -⟩, -⟩ := h
  unfold State.propose
  split
  · rfl
  · simp only [State.rd_setBrd, State.rd_wr_apart _ _ _ _ _ _ _ _ hst, State.rd_wr_apart _ _ _ _ _ _ _ _ hid]

theorem State.rd_forceStart_beside : (s.forceStart n).rd g a b c = s.rd g a b c := by
  simp only [Fld.besideProposal, proposalFields, List.all_cons, List.all_nil, Bool.and_eq_true, Bool.and_true, Bool.not_eq_true'] at h
  obtain ⟨⟨hev, hst, hid, hct⟩, hm⟩ := h
  unfold State.forceStart State.countDown State.braidEvent
  dsimp only
  split
  · rfl
  · split
    · simp only [State.rd_setBrd]
    · simp only [State.rd_setBrd, State.rd_wr_apart _ _ _ _ _ _ _ _ hst, State.rd_wr_apart _ _ _ _ _ _ _ _ hid,
        State.rd_wr_apart _ _ _ _ _ _ _ _ hct, State.rd_raise_apart _ _ _ _ _ _ _ _ _ hev hm]

theorem State.rd_afterProposal_beside : (s.afterProposal n).rd g a b c = s.rd g a b c := by
  unfold State.afterProposal State.proposeManual State.proposeChoice
  dsimp only
  split
  · rw [State.rd_setBrd, State.rd_forceStart_beside _ h, State.rd_setBrd]
  · split
    · rw [State.rd_propose_beside _ h, State.rd_setBrd]
    · split
      · rw [State.rd_propose_beside _ h, State.rd_setBrd]
      · rw [State.rd_setBrd]

end

/-- Nothing waited for the end of the proposal. -/
theorem State.afterProposal_unheld {n : Nat} (hr : (s.brd n).revertHeld = false) (hm : (s.brd n).manHeld = false)
    (he : (s.brd n).evalHeld = false) :
    s.afterProposal n = s.setBrd n { s.brd n with revertHeld := false, manHeld := false, evalHeld := false } := by
  simp [State.afterProposal, hr, hm, he]

/-- A countdown started: its state, its identifier, its length and its table. -/
theorem State.countDown_shows (n : Line) (state id : Nat) (table : List (Nat × Nat × Nat)) :
    (s.countDown n state id table).rd .BRAD_LOAD_STAT_STATE n = state % 8 ∧
      (s.countDown n state id table).rd .BRAD_LOAD_STAT_PEND_ID n = id % 16 ∧
      (s.countDown n state id table).rd .BRAD_LOAD_STAT_COUNT n = s.rd .BRAD_LINE_CFG_ANN_COUNT n ∧
      (s.countDown n state id table).brd n = { s.brd n with table := table } := by
  have hcount : s.rd .BRAD_LINE_CFG_ANN_COUNT n % 16 = s.rd .BRAD_LINE_CFG_ANN_COUNT n := Nat.mod_eq_of_lt (bits_lt _ _ _)
  simp (disch := decide) [State.countDown, State.rd_wr_apart, State.rd_wr_one, Fld.width, hcount, State.brd]

/-- A reversion where no countdown runs starts one to the start table. -/
theorem State.forceStart_starts {n : Nat} (h : s.rd .BRAD_LOAD_STAT_STATE n < 2) :
    s.forceStart n = (s.braidEvent n .BRAD_LOAD_EVT_FORCED_START 0x4805).countDown n 3 0 (s.startTable n) := by
  rw [State.forceStart, if_neg (by omega), if_neg (by omega)]

/-- A reversion during a countdown waits for its end. -/
theorem State.forceStart_waits {n : Nat} (h : s.rd .BRAD_LOAD_STAT_STATE n = 2) :
    s.forceStart n = s.setBrd n { s.brd n with revertHeld := true } := by
  rw [State.forceStart, if_neg (by omega), if_pos h]

/-- A reversion during a countdown to the start table changes nothing. -/
theorem State.forceStart_runs {n : Nat} (h : s.rd .BRAD_LOAD_STAT_STATE n = 3) : s.forceStart n = s := if_pos h

theorem State.braidEvent_on {f : Fld} (n : Line) (code : Nat) (h : f.within [3] = true) (hf : f.hi = f.lo)
    (hm : eventMask.testBit (regBit f.id) = false) : (s.braidEvent n f code).on f n = true := s.on_raise_one code _ _ _ n h hf hm

theorem exec_forcedReversion {n : Line} (h9 : s.alive 9 = true) (hl : s.loads n = true)
    (hf : s.on .BRAD_LOAD_STAT_RX_FALLBACK n = true) : exec (.forcedReversion n) s = .next (s.forceStart n) := by
  change execForcedReversion n s = _
  unfold execForcedReversion
  rw [act_next s 9 _ h9, if_pos (by simp [hl, hf])]

theorem exec_armTimeout {n : Line} (h9 : s.alive 9 = true) (h1 : s.rd .BRAD_LOAD_STAT_STATE n = 1) :
    exec (.armTimeout n) s = .next ((s.braidEvent n .BRAD_LOAD_EVT_TIMEOUT 0x4802).withdraw n) := by
  change execArmTimeout n s = _
  unfold execArmTimeout
  rw [act_next s 9 _ h9, if_pos h1]

/-! ### Countdowns (R61, R180) -/

/-- The table in force, its event, and FRAME_SHORT under it. -/
def State.tableTaken (s : State) (n : Nat) : State :=
  let t := ((s.setTx n (s.rd .BRAD_LOAD_STAT_PEND_ID n) (s.brd n).table).idleTx n).braidEvent n .BRAD_LOAD_EVT_SWITCHED 0x4801
  (t.setBrd n { t.brd n with table := [] }).frameShort n

theorem exec_countdownTick {n : Line} (h9 : s.alive 9 = true) (h2 : 2 ≤ s.rd .BRAD_LOAD_STAT_STATE n) :
    exec (.countdownTick n) s = .next (if 1 < s.rd .BRAD_LOAD_STAT_COUNT n then
      s.wr .BRAD_LOAD_STAT_COUNT (s.rd .BRAD_LOAD_STAT_COUNT n - 1) n else (s.tableTaken n).afterProposal n) := by
  change execCountdownTick n s = _
  unfold execCountdownTick
  rw [act_next s 9 _ h9]
  dsimp only
  rw [if_neg (by omega)]
  rfl

/-- The entry of a slot, once its table is in force. -/
theorem State.setTx_act (n : Line) (id : Nat) {table : List (Nat × Nat × Nat)} {f : Slot} {b e : Nat}
    (h : (table.find? fun x => x.1 == f.val) = some (f.val, b, e)) :
    (s.setTx n id table).rd .BRAD_SC_ACT_BASE n f = b % 4 ∧ (s.setTx n id table).rd .BRAD_SC_ACT_ENT n f = e % 128 := by
  unfold State.setTx
  dsimp only
  rw [State.rd_wr_apart _ _ _ _ _ _ _ _ (by decide), State.rd_wr_apart _ _ _ _ _ _ _ _ (by decide)]
  refine s.each_sets (fun _ => True) (fun t => t.rd .BRAD_SC_ACT_BASE n f = b % 4 ∧ t.rd .BRAD_SC_ACT_ENT n f = e % 128)
    (List.mem_range.mpr f.isLt) trivial (fun _ _ _ _ => trivial) (fun t _ => ?_) fun i _ hi t ht => ?_
  · simp (disch := decide) [h, State.setAct, State.rd_wr_apart, State.rd_wr_two, Fld.width]
  · split <;> simpa [State.setAct, State.rd_wr_second _ _ _ _ _ _ hi.symm, State.rd_setReg_second _ _ _ _ _ _ hi.symm] using ht

theorem State.setTx_activeId (n : Line) (id : Nat) (table : List (Nat × Nat × Nat)) :
    (s.setTx n id table).rd .BRAD_LOAD_STAT_ACTIVE_ID n = id % 16 := State.rd_wr_one _ _ _ (by decide)

theorem State.idleTx_shows (n : Line) : (s.idleTx n).rd .BRAD_LOAD_STAT_STATE n = 0 ∧ (s.idleTx n).rd .BRAD_LOAD_STAT_PEND_ID n = 0 ∧
    (s.idleTx n).rd .BRAD_LOAD_STAT_COUNT n = 0 := by
  simp (disch := decide) [State.idleTx, State.rd_wr_apart, State.rd_wr_one]

theorem State.rd_idleTx_beside {g : Fld} (h : g.besideProposal = true) (n a b c : Nat) : (s.idleTx n).rd g a b c = s.rd g a b c := by
  simp only [Fld.besideProposal, proposalFields, List.all_cons, List.all_nil, Bool.and_eq_true, Bool.and_true] at h
  obtain ⟨⟨-, hst, hid, hct⟩, -⟩ := h
  simp only [State.idleTx, State.rd_wr_apart _ _ _ _ _ _ _ _ hst, State.rd_wr_apart _ _ _ _ _ _ _ _ hid,
    State.rd_wr_apart _ _ _ _ _ _ _ _ hct]

theorem State.setTx_brd (n id m : Nat) (table : List (Nat × Nat × Nat)) : (s.setTx n id table).brd m = s.brd m :=
  State.kept_brd (State.setTx_kept s n id table (m := footOf [.BRAD_LOAD_STAT, .BRAD_SC_ACT] []) (State.kept_refl _ s) rfl) rfl m

theorem State.braidEvent_brd (n : Nat) (f : Fld) (code m : Nat) : (s.braidEvent n f code).brd m = s.brd m := by
  simp [State.braidEvent, State.brd]

theorem State.idleTx_brd (n m : Nat) : (s.idleTx n).brd m = s.brd m := by simp [State.idleTx, State.brd]

/-- FRAME_SHORT and its event are all that its evaluation changes. -/
theorem State.frameShort_only (n : Nat) : s.kept (eventFoot [.HTCH_STAT, .HTCH_EVT] []) (s.frameShort n) :=
  State.frameShort_kept s n (State.kept_refl _ s) rfl

/-- After count 1 the table is in force under its identifier. -/
theorem State.tableTaken_shows (n : Line) : (s.tableTaken n).rd .BRAD_LOAD_STAT_ACTIVE_ID n = s.rd .BRAD_LOAD_STAT_PEND_ID n ∧
    (s.tableTaken n).on .BRAD_LOAD_EVT_SWITCHED n = true ∧ (s.tableTaken n).rd .BRAD_LOAD_STAT_STATE n = 0 ∧
    (s.tableTaken n).brd n = { s.brd n with table := [] } := by
  have hid : s.rd .BRAD_LOAD_STAT_PEND_ID n % 16 = s.rd .BRAD_LOAD_STAT_PEND_ID n := Nat.mod_eq_of_lt (bits_lt _ _ _)
  unfold State.tableTaken
  dsimp only
  refine ⟨?_, ?_, ?_, ?_⟩
  · rw [State.kept_rd (State.frameShort_only _ n) _ rfl, State.rd_setBrd, State.braidEvent,
      State.rd_raise_apart _ _ _ _ _ _ _ _ _ (by decide) rfl, State.rd_idleTx_beside _ (by decide), State.setTx_activeId, hid]
  · rw [State.kept_on (State.frameShort_only _ n) _ rfl]
    exact State.braidEvent_on _ n _ (by decide) rfl rfl
  · rw [State.kept_rd (State.frameShort_only _ n) _ rfl, State.rd_setBrd, State.braidEvent,
      State.rd_raise_apart _ _ _ _ _ _ _ _ _ (by decide) rfl, (State.idleTx_shows _ n).1]
  · rw [State.kept_brd (State.frameShort_only _ n) rfl, State.braidEvent_brd, State.idleTx_brd, State.setTx_brd]
    simp [State.brd]

theorem State.tableTaken_act {n : Line} {f : Slot} {b e : Nat}
    (h : ((s.brd n).table.find? fun x => x.1 == f.val) = some (f.val, b, e)) :
    (s.tableTaken n).rd .BRAD_SC_ACT_BASE n f = b % 4 ∧ (s.tableTaken n).rd .BRAD_SC_ACT_ENT n f = e % 128 := by
  unfold State.tableTaken
  dsimp only
  rw [State.kept_rd (State.frameShort_only _ n) _ rfl, State.kept_rd (State.frameShort_only _ n) _ rfl, State.rd_setBrd, State.rd_setBrd,
    State.braidEvent, State.rd_raise_apart _ _ _ _ _ _ _ _ _ (by decide) rfl, State.rd_raise_apart _ _ _ _ _ _ _ _ _ (by decide) rfl,
    State.rd_idleTx_beside _ (by decide), State.rd_idleTx_beside _ (by decide)]
  exact s.setTx_act n _ h

/-- A proposal withdrawn, with nothing that waited for its end. -/
theorem State.withdraw_shows (n : Line) (hr : (s.brd n).revertHeld = false) (hm : (s.brd n).manHeld = false) :
    (s.withdraw n).rd .BRAD_LOAD_STAT_STATE n = 0 ∧ (s.withdraw n).rd .BRAD_LOAD_STAT_PEND_ID n = 0 ∧
      (s.withdraw n).rd .BRAD_LOAD_STAT_COUNT n = 0 ∧ ((s.withdraw n).brd n).table = [] := by
  have hb := s.idleTx_brd n n
  obtain ⟨hst, hid, hct⟩ := s.idleTx_shows n
  unfold State.withdraw
  dsimp only
  rw [State.afterProposal_unheld _ (by rw [State.setBrd_brd, hb]; exact hr) (by rw [State.setBrd_brd, hb]; exact hm) (by rw [State.setBrd_brd])]
  simp only [State.rd_setBrd, State.setBrd_brd]
  exact ⟨hst, hid, hct, trivial⟩

theorem State.rd_withdraw_beside {g : Fld} (h : g.besideProposal = true) (n a b c : Nat) : (s.withdraw n).rd g a b c = s.rd g a b c := by
  unfold State.withdraw
  dsimp only
  rw [State.rd_afterProposal_beside _ h, State.rd_setBrd, State.rd_idleTx_beside _ h]

/-! ### The overhead block received (R64, R180) -/

/-- The far receiver's SNR of a slot, in its register and in the sum of the next evaluation. -/
def State.takeFarSnr (s : State) (n f r : Nat) : State :=
  let t := s.wr .BRAD_SC_ACT_FAR_SNR r n f
  if r = 255 then t
  else t.setBrd n { t.brd n with
    sums := (t.brd n).sums.put (0, 0) f (((t.brd n).sums.get (0, 0) f).1 + r, ((t.brd n).sums.get (0, 0) f).2 + 1) }

/-- The far receiver's fallback, and the reversion at its start. -/
def State.takeFarFallback (s : State) (n : Nat) (far : Bool) : State :=
  let t := s.wr .BRAD_LOAD_STAT_FAR_FALLBACK (b2n far) n
  if far && !s.on .BRAD_LOAD_STAT_FAR_FALLBACK n then t.forceStart n else t

/-- Whether the far end's layout differs, and the event at its start. -/
def State.takeLayout (s : State) (n : Nat) (bad : Bool) : State :=
  let t := s.wr .BRAD_LOAD_STAT_LAYOUT_MISMATCH (b2n bad) n
  if bad && !s.on .BRAD_LOAD_STAT_LAYOUT_MISMATCH n then t.braidEvent n .BRAD_LOAD_EVT_MISMATCH 0x4806 else t

theorem State.braidUpdate_eq (n v : Nat) : ∃ bad, s.braidUpdate n v =
    ((((s.each (s.firstSlots .BRAD_SC_CFG_WIDTH n) fun f t => t.takeFarSnr n f (blItem v (8 * f) 8)).takeArm n (blItem v 570 2)
      (blItem v 572 4)).takeFarFallback n (blItem v 576 1 == 1)).takeLayout n bad) := ⟨_, rfl⟩

theorem blItem_lt (v off w : Nat) : blItem v off w < 2 ^ w := Nat.mod_lt _ (by positivity)

theorem State.lt_of_mem_firstSlots {f : Fld} {n i : Nat} (h : i ∈ s.firstSlots f n) : i < 32 :=
  List.mem_range.mp (List.mem_filter.mp h).1

theorem State.takeFarSnr_regs (n f r : Nat) : (s.takeFarSnr n f r).regs = (s.wr .BRAD_SC_ACT_FAR_SNR r n f).regs := by
  unfold State.takeFarSnr
  dsimp only
  split <;> rfl

/-- Every subcarrier shows the SNR that its item gives. -/
theorem State.each_takeFarSnr (n : Line) (r : Nat → Nat) (hr : ∀ f, r f < 256) {l : List Nat} (hl : ∀ f ∈ l, f < 32) {f : Nat}
    (hf : f ∈ l) : (s.each l fun f t => t.takeFarSnr n f (r f)).rd .BRAD_SC_ACT_FAR_SNR n f = r f := by
  have hregs (t : State) (i : Nat) : (t.takeFarSnr n i (r i)).rd .BRAD_SC_ACT_FAR_SNR n f =
      (t.wr .BRAD_SC_ACT_FAR_SNR (r i) n i).rd .BRAD_SC_ACT_FAR_SNR n f := by
    unfold State.rd State.reg; rw [State.takeFarSnr_regs]
  refine s.each_sets (fun _ => True) (fun t => t.rd .BRAD_SC_ACT_FAR_SNR n f = r f) hf trivial (fun _ _ _ _ => trivial)
    (fun t _ => ?_) fun i _ hi t ht => ?_
  · rw [hregs]
    exact (t.rd_wr_two (r f) n ⟨f, hl f hf⟩ (by decide)).trans (Nat.mod_eq_of_lt (hr f))
  · rw [hregs, State.rd_wr_second _ _ _ _ _ _ (Ne.symm hi)]
    exact ht

/-- What follows the SNR in an update changes no subcarrier's register. -/
theorem State.updateTail_kept (n arm id : Nat) (far bad : Bool) : s.kept (eventFoot [.BRAD_LOAD_STAT, .BRAD_LOAD_EVT] [.braid])
    (((s.takeArm n arm id).takeFarFallback n far).takeLayout n bad) := by
  have harm := State.takeArm_kept s n arm id (m := eventFoot [.BRAD_LOAD_STAT, .BRAD_LOAD_EVT] [.braid]) (State.kept_refl _ s) rfl
  have hfar : s.kept (eventFoot [.BRAD_LOAD_STAT, .BRAD_LOAD_EVT] [.braid]) ((s.takeArm n arm id).takeFarFallback n far) := by
    unfold State.takeFarFallback
    have hwr := State.wr_kept (s.takeArm n arm id) .BRAD_LOAD_STAT_FAR_FALLBACK (b2n far) n 0 0 harm rfl
    dsimp only
    split
    · exact State.forceStart_kept _ _ hwr rfl
    · exact hwr
  unfold State.takeLayout
  have hwr := State.wr_kept _ .BRAD_LOAD_STAT_LAYOUT_MISMATCH (b2n bad) n 0 0 hfar rfl
  dsimp only
  split
  · exact State.braidEvent_kept _ _ _ _ hwr rfl rfl
  · exact hwr

theorem State.braidUpdate_farSnr (n : Line) (v : Nat) {f : Nat} (hf : f ∈ s.firstSlots .BRAD_SC_CFG_WIDTH n) :
    (s.braidUpdate n v).rd .BRAD_SC_ACT_FAR_SNR n f = blItem v (8 * f) 8 := by
  obtain ⟨bad, h⟩ := s.braidUpdate_eq n v
  rw [h, State.kept_rd (State.updateTail_kept _ _ _ _ _ _) _ rfl]
  exact s.each_takeFarSnr n _ (fun f => blItem_lt v (8 * f) 8) (fun f => s.lt_of_mem_firstSlots) hf

theorem b2n_ne_zero (b : Bool) : (b2n b % 2 != 0) = b := by cases b <;> rfl

theorem State.braidUpdate_farFallback (n : Line) (v : Nat) :
    (s.braidUpdate n v).on .BRAD_LOAD_STAT_FAR_FALLBACK n = (blItem v 576 1 == 1) := by
  have hfar (t : State) (far : Bool) : (t.takeFarFallback n far).rd .BRAD_LOAD_STAT_FAR_FALLBACK n = b2n far % 2 := by
    unfold State.takeFarFallback
    dsimp only
    split
    · rw [State.rd_forceStart_beside _ (by decide), State.rd_wr_one _ _ _ (by decide)]; rfl
    · rw [State.rd_wr_one _ _ _ (by decide)]; rfl
  have hlayout (t : State) (bad : Bool) : (t.takeLayout n bad).rd .BRAD_LOAD_STAT_FAR_FALLBACK n = t.rd .BRAD_LOAD_STAT_FAR_FALLBACK n := by
    unfold State.takeLayout State.braidEvent
    dsimp only
    split
    · rw [State.rd_raise_apart _ _ _ _ _ _ _ _ _ (by decide) rfl, State.rd_wr_apart _ _ _ _ _ _ _ _ (by decide)]
    · rw [State.rd_wr_apart _ _ _ _ _ _ _ _ (by decide)]
  obtain ⟨bad, h⟩ := s.braidUpdate_eq n v
  rw [h, State.on, hlayout, hfar, b2n_ne_zero]

theorem exec_mobReceived {n : Line} {mob : List Byte} (h13 : s.alive 13 = true) (hl : s.loads n = true)
    (hf : s.on .HTCH_STAT_IN_FRAME n = true) (hmob : mob = (s.hit n).rxMob) (hlen : mob.length = 2048) :
    exec (.mobReceived n) s = .next (if mobOk mob then
        (((s.setHit n { s.hit n with rxMob := [] }).hitchMob n mob).spliceUpdate n (bigVal ((mob.drop 136).take 80))).braidUpdate n
          (bigVal ((mob.drop 136).take 80))
      else (s.setHit n { s.hit n with rxMob := [] }).hitchMob n mob) := by
  subst hmob
  change execMobReceived n s = _
  unfold execMobReceived
  rw [act_next s 13 _ h13]
  dsimp only
  rw [if_neg (by simp [hl, hf, hlen])]

/-- A block that fails its CRC is counted, and nothing else of it is taken. -/
theorem State.hitchMob_bad {m : List Byte} (n : Nat) (h : mobOk m = false) :
    s.hitchMob n m = (s.setHit n { s.hit n with fwdMask := 0 }).count .HTCH_CNT 1 n 4 := if_pos (by simp [h])

theorem State.rd_count_mob (n : Line) : (s.count .HTCH_CNT 1 n 4).rd .HTCH_CNT_COUNT n 4 = (s.rd .HTCH_CNT_COUNT n 4 + 1) % 2 ^ 48 :=
  (s.get_count_counter 1 (r := ⟨.HTCH_CNT, n, 4, 0⟩) (show RegId.HTCH_CNT ∈ counterIds by decide)
    (regValid_two_of_dims (n := 3) (m := 8) rfl n 4)).1

/-! ### The overhead changed (R169) -/

theorem exec_ohSwitchTx {n : Line} (h12 : s.alive 12 = true) : exec (.ohSwitchTx n) s = .next (if (s.clt n).txDue then
      if s.lineNative n then
        ((s.setClt n { s.clt n with txOh := s.rd .CLET_LINE_CFG_OH n, txDue := false }).startTx n).frameShort n
      else s.setClt n { s.clt n with txOh := s.rd .CLET_LINE_CFG_OH n, txDue := false }
    else s) := by
  change execOhSwitchTx n s = _
  unfold execOhSwitchTx
  rw [act_next s 12 _ h12]
  rfl

/-- The transmitter on its start table: idle, under identifier 0. -/
theorem State.startTx_shows (n : Line) :
    (s.startTx n).rd .BRAD_LOAD_STAT_STATE n = 0 ∧ (s.startTx n).rd .BRAD_LOAD_STAT_ACTIVE_ID n = 0 := by
  unfold State.startTx
  dsimp only
  rw [State.rd_setBrd, State.rd_setBrd, State.setTx_activeId]
  refine ⟨?_, rfl⟩
  unfold State.setTx
  dsimp only
  rw [State.rd_wr_apart _ _ _ _ _ _ _ _ (by decide)]
  refine State.each_holds _ (fun t => t.rd .BRAD_LOAD_STAT_STATE n = 0) (State.idleTx_shows _ n).1 fun i _ t ht => ?_
  split
  · simpa (disch := decide) only [State.setAct, State.rd_wr_apart] using ht
  · rw [State.rd, State.reg_setReg_other _ _ _ _ _ _ _ _ _ _ (by simp)]
    exact ht

/-- Settles O28: an evaluation is its stages; MAN_GO a proposal or what waits for its end; a timeout, a countdown's end and a reversion what
each sets, with what follows a proposal beside it; a block the SNR of its slots and the far fallback. -/
theorem loadingLoop : Obligations.LoadingLoop := by
  unfold Obligations.LoadingLoop
  refine ⟨?evaluation, ?manual, ?timeout, ?countdown, ?reversion, ?block, ?overhead⟩
  case evaluation =>
    intro s n h9 hl
    have hexec := exec_loadingEvaluation s h9 hl
    generalize hu : (s.averaged n).floorsHeld n (s.firstSlots .BRAD_SC_CFG_WIDTH n) = u at hexec
    have hk : (s.averaged n).kept (eventFoot [.BRAD_LOAD_EVT] [.braid]) u := hu ▸ (s.averaged n).floorsHeld_kept n _
    have hreg (id : RegId) (h : (eventFoot [.BRAD_LOAD_EVT] [.braid]).testBit (regBit id) = false) : u.reg id n = s.reg id n := by
      rw [State.kept_reg hk id h, State.reg, s.averaged_regs]; rfl
    have hrd (f : Fld) (h : (eventFoot [.BRAD_LOAD_EVT] [.braid]).testBit (regBit f.id) = false) : u.rd f n = s.rd f n := by
      unfold State.rd; rw [hreg _ h]
    have hauto : u.on .BRAD_LINE_CFG_LOAD_AUTO n = s.on .BRAD_LINE_CFG_LOAD_AUTO n := by unfold State.on; rw [hrd _ rfl]
    obtain ⟨p, hp, hpast⟩ := s.averaged_brd n
    obtain ⟨held, hheld⟩ := (s.averaged n).floorsHeld_brd n (s.firstSlots .BRAD_SC_CFG_WIDTH n)
    have hub : u.brd n = { s.brd n with sums := [], past := p, floorHeld := held } := by rw [← hu, hheld, hp]
    obtain ⟨tab, id, w, hb⟩ := u.evaluated_brd n
    refine ⟨_, hexec, exec_only_of_fits hexec (by simp only [footprint]; decide +kernel), ?_, fun f hf => ?_, fun ha => ?_, fun ha h0 => ?_⟩
    · rw [hb, hub]
    · rw [hb, hub]; exact hpast f hf
    · rw [State.evaluated_manual _ (hauto.trans ha), hub]
      exact ⟨hreg _ rfl, rfl⟩
    · rw [State.evaluated_waits _ (hauto.trans ha) (by rwa [hrd _ rfl])]
      exact ⟨by simp [State.brd], hreg _ rfl⟩
  case manual =>
    rintro s req n table hw hl htable
    obtain ⟨t, hexec, hk⟩ := exec_manGo s hw
    have hpropose (ha : s.on .BRAD_LINE_CFG_LOAD_AUTO n = false) (h0 : s.rd .BRAD_LOAD_STAT_STATE n = 0) :
        ((s.dropLatch req).propose n table).kept recordMask t := by
      rw [State.manGo_idle (s.dropLatch req) hl ha h0] at hk
      rw [htable]
      exact hk
    refine ⟨t, hexec, exec_only_of_fits hexec (by simp only [footprint]; decide +kernel), fun ha => ?_, fun ha h0 hne => ?_,
      fun ha h0 he => ?_, fun ha h0 => ?_⟩
    · rw [State.manGo_auto (s.dropLatch req) ha] at hk
      exact ⟨State.kept_part hk 17 rfl, State.kept_reg hk _ rfl _ _ _⟩
    · obtain ⟨hst, hid, hb⟩ := (s.dropLatch req).propose_new (n := n) hne
      have hk := hpropose ha h0
      refine ⟨(State.kept_rd hk _ rfl _ _ _).trans hst, (State.kept_rd hk _ rfl _ _ _).trans hid, ?_⟩
      rw [State.kept_brd hk rfl, hb]
    · have hk := hpropose ha h0
      rw [State.propose_same (s.dropLatch req) he] at hk
      exact ⟨(State.kept_rd hk _ rfl _ _ _).trans h0, State.kept_part hk 17 rfl⟩
    · rw [State.manGo_waits (s.dropLatch req) hl ha h0] at hk
      refine ⟨?_, State.kept_reg hk _ rfl _ _ _⟩
      rw [State.kept_brd hk rfl]
      simp [State.brd]
  case timeout =>
    intro s n h9 h1
    have hexec := exec_armTimeout s h9 h1
    refine ⟨_, hexec, exec_only_of_fits hexec (by simp only [footprint]; decide +kernel), ?_, fun hr hm => ?_⟩
    · rw [State.on, State.rd_withdraw_beside _ (by decide)]
      exact State.braidEvent_on s n _ (by decide) rfl rfl
    · exact State.withdraw_shows _ n (by rwa [State.braidEvent_brd]) (by rwa [State.braidEvent_brd])
  case countdown =>
    intro s n h9 h2
    have hexec := exec_countdownTick s h9 h2
    refine ⟨_, hexec, exec_only_of_fits hexec (by simp only [footprint]; decide +kernel), fun hc => ?_, fun hc => ?_⟩
    · have hlt : s.rd .BRAD_LOAD_STAT_COUNT n < 16 := bits_lt _ _ _
      rw [if_pos hc, State.rd_wr_one _ _ _ (by decide), State.rd_wr_apart _ _ _ _ _ _ _ _ (by decide)]
      exact ⟨Nat.mod_eq_of_lt (lt_of_le_of_lt (Nat.sub_le _ _) hlt), rfl, rfl⟩
    · obtain ⟨hid, hev, hst, hb⟩ := s.tableTaken_shows n
      rw [if_neg (by omega), State.on, State.rd_afterProposal_beside _ (by decide), State.rd_afterProposal_beside _ (by decide)]
      refine ⟨hid, hev, fun f b e hf => ?_, fun hr hm he => ?_⟩
      · rw [State.rd_afterProposal_beside _ (by decide), State.rd_afterProposal_beside _ (by decide)]
        exact s.tableTaken_act hf
      · rw [State.afterProposal_unheld _ (by rw [hb]; exact hr) (by rw [hb]; exact hm) (by rw [hb]; exact he), State.rd_setBrd]
        exact hst
  case reversion =>
    intro s n h9 hl hf
    have hexec := exec_forcedReversion s h9 hl hf
    refine ⟨_, hexec, exec_only_of_fits hexec (by simp only [footprint]; decide +kernel), fun h => ?_, fun h => ?_, fun h => ?_⟩
    · rw [State.forceStart_starts _ h]
      obtain ⟨hst, hid, hct, hb⟩ :=
        (s.braidEvent n .BRAD_LOAD_EVT_FORCED_START 0x4805).countDown_shows n 3 0 (s.startTable n)
      refine ⟨hst, hid, hct.trans (State.rd_raise_apart _ _ _ _ _ _ _ _ _ (by decide) rfl), by rw [hb], ?_⟩
      have hev := s.braidEvent_on n (f := .BRAD_LOAD_EVT_FORCED_START) 0x4805 (by decide) rfl rfl
      simpa (disch := decide) only [State.on, State.countDown, State.rd_setBrd, State.rd_wr_apart] using hev
    · rw [State.forceStart_waits _ h]
      exact ⟨by simp [State.brd], rfl⟩
    · exact State.forceStart_runs _ h
  case block =>
    rintro s n mob v h13 hl hf hmob hlen rfl
    have hexec := exec_mobReceived s h13 hl hf hmob hlen
    refine ⟨_, hexec, exec_only_of_fits hexec (by simp only [footprint]; decide +kernel), fun hbad => ?_, fun hok => ?_⟩
    · rw [if_neg (by simp [hbad]), State.hitchMob_bad _ _ hbad]
      exact ⟨State.rd_count_mob _ n, rfl, rfl⟩
    · rw [if_pos hok]
      refine ⟨State.braidUpdate_farFallback _ n _, fun f hf => State.braidUpdate_farSnr _ n _ ?_⟩
      rw [State.kept_firstSlots (State.spliceUpdate_kept _ _ _ (State.kept_refl _ _) (Foot.refl _)) _ rfl,
        State.kept_firstSlots (State.hitchMob_kept _ _ _ (State.kept_refl _ _) (Foot.refl _)) _ rfl]
      exact hf
  case overhead =>
    intro s n h12
    have hexec := exec_ohSwitchTx s h12 (n := n)
    refine ⟨_, hexec, exec_only_of_fits hexec (by simp only [footprint]; decide +kernel), fun hd => ?_, fun hd => if_neg (by simp [hd])⟩
    generalize hu : s.setClt n { s.clt n with txOh := s.rd .CLET_LINE_CFG_OH n, txDue := false } = u
    have hclt : u.clt n = { s.clt n with txOh := s.rd .CLET_LINE_CFG_OH n, txDue := false } := by simp [← hu, State.clt]
    rw [if_pos hd]
    by_cases hn : s.lineNative n = true
    · have hk := State.frameShort_only (u.startTx n) n
      have hstart := State.startTx_kept u n (State.kept_refl _ u) (Foot.refl _)
      rw [if_pos hn, State.kept_clt hk rfl, State.kept_clt hstart rfl, hclt, State.kept_rd hk _ rfl, State.kept_rd hk _ rfl]
      exact ⟨rfl, rfl, fun _ => u.startTx_shows n⟩
    · rw [if_neg hn, hclt]
      exact ⟨rfl, rfl, fun h => absurd h hn⟩

end Sys2Proof.Machine
end

section
/-! The receive side of a line (R65, R76 to R81, R91 to R102, R169): tables, calibrations of the ADCs, markers, demands and estimates; and the
obligation on them. That what is dark reads 0x8080 is the model's choice (log entry 14). -/

namespace Sys2Proof.Machine

open Sys2Proof

variable (s : State)

/-! ### Receive tables (R65) -/

theorem State.setSpl_spl (n : Nat) (x : SpliceInt) : (s.setSpl n x).spl n = x := by simp [State.spl]

/-- What follows a table in force leaves the receiver. -/
theorem State.lineConsequences_only (n : Nat) : s.kept
    (eventFoot [.TOP_FAULT, .SEIZ_KC_ST, .BEND_EVT, .BEND_PG_STAT, .BEND_PATH_ST, .SHET_CLI_STAT, .SHET_CLI_EVT, .SHET_CNT]
      [.boot, .clients, .groups, .kcs]) (s.lineConsequences n) := State.lineConsequences_kept s n (State.kept_refl _ s) rfl

theorem State.setRx_spl (n id : Nat) (table : List (Nat × Nat × Nat)) : (s.setRx n id table).spl n = { s.spl n with table := table } := by
  unfold State.setRx
  dsimp only
  rw [State.kept_spl (State.lineConsequences_only _ n) rfl]
  exact s.setSpl_spl n _

theorem State.setRx_activeId (n : Line) (id : Nat) (table : List (Nat × Nat × Nat)) :
    (s.setRx n id table).rd .SPLC_STAT_ACTIVE_ID n = id % 16 := by
  unfold State.setRx
  dsimp only
  rw [State.kept_rd (State.lineConsequences_only _ n) _ rfl, State.rd_wr_apart _ _ _ _ _ _ _ _ (by decide),
    State.rd_wr_one _ _ _ (by decide)]
  rfl

theorem State.disarm_spl (n : Nat) :
    (s.disarm n).spl n = { s.spl n with standby := [], armState := 0, armId := 0, switchIn := 0 } := s.setSpl_spl n _

theorem State.disarm_armed (n : Line) : (s.disarm n).on .SPLC_STAT_ARMED n = false := by
  simp (disch := decide) [State.disarm, State.on, State.rd_wr_apart, State.rd_wr_one]

theorem State.disarm_activeId (n : Nat) : (s.disarm n).rd .SPLC_STAT_ACTIVE_ID n = s.rd .SPLC_STAT_ACTIVE_ID n := by
  simp (disch := decide) only [State.disarm, State.rd_setSpl, State.rd_wr_apart]

/-- The end of a fallback changes nothing of the receiver's own. -/
theorem State.endFallback_only (n : Nat) : s.kept (footOf [.BRAD_LOAD_STAT] []) (s.endFallback n) :=
  State.endFallback_kept s n (State.kept_refl _ s) rfl

theorem exec_rxTableSwitch {n : Line} (h10 : s.alive 10 = true) (ha : (s.spl n).armState = 1) (hi : (s.spl n).switchIn ≠ 0) :
    exec (.rxTableSwitch n) s = .next (if s.on .SPLC_STAT_MF_LOCK n then
      (((s.setRx n (s.spl n).armId (s.spl n).standby).disarm n).splEvent n .SPLC_EVT_SWITCHED 0x5009).endFallback n else s.disarm n) := by
  change execRxTableSwitch n s = _
  unfold execRxTableSwitch
  rw [act_next s 10 _ h10]
  dsimp only
  rw [if_neg (by simp [ha, hi])]

theorem exec_rxFallback {n : Line} (h10 : s.alive 10 = true) (hl : s.loads n = true)
    (ho : s.on .HTCH_STAT_OOF n = true ∨ s.on .HTCH_STAT_OOM n = true) :
    exec (.rxFallback n) s = .next ((s.setRx n 0 (s.rxStart n)).wr .BRAD_LOAD_STAT_RX_FALLBACK 1 n) := by
  change execRxFallback n s = _
  unfold execRxFallback
  rw [act_next s 10 _ h10, if_pos (by simpa [hl] using ho)]

/-- The receiver on its start table: disarmed, under identifier 0. -/
theorem State.startRx_shows (n : Line) : (s.startRx n).rd .SPLC_STAT_ACTIVE_ID n = 0 ∧ (s.startRx n).on .SPLC_STAT_ARMED n = false ∧
    ((s.startRx n).spl n).table = s.rxStart n := by
  unfold State.startRx
  rw [State.disarm_activeId, State.setRx_activeId, State.disarm_armed, State.disarm_spl, State.setRx_spl]
  exact ⟨rfl, rfl, rfl⟩

theorem exec_ohSwitchRx {n : Line} (h12 : s.alive 12 = true) (hd : (s.clt n).rxDue = true) : exec (.ohSwitchRx n) s = .next
    (if s.loads n then (s.setClt n { s.clt n with rxOh := s.rd .CLET_LINE_CFG_OH n, rxDue := false }).startRx n
      else s.setClt n { s.clt n with rxOh := s.rd .CLET_LINE_CFG_OH n, rxDue := false }) := by
  change execOhSwitchRx n s = _
  unfold execOhSwitchRx
  rw [act_next s 12 _ h12]
  dsimp only
  rw [if_pos hd]
  rfl

/-! ### The calibrations of the ADCs (R76, R77, R78, R483) -/

/-- A state left for another: it is the one that STATE shows. -/
theorem State.leaveTo_splState (n : Line) {st : Nat} (h : st < 16) : (s.leaveTo n st).splState n = st := by
  have htail (t : State) (r : Nat) : t.kept (eventFoot [.HLYD_EVT, .HLYD_STAT, .HLYD_REF_ST, .HLYD_HO, .SPLC_EST, .SPLC_EST2, .SPLC_SC_EST,
      .SPLC_SC_HIST, .SPLC_CHAN] [.splice, .halyard]) ((t.dropEstimates n).refEval r) :=
    State.refEval_kept _ _ (State.dropEstimates_kept t n (State.kept_refl _ t) rfl) rfl
  unfold State.leaveTo State.splState
  dsimp only
  rw [State.kept_rd (htail _ _) _ rfl]
  split <;> simp (disch := decide) [State.rd_wr_apart, State.rd_wr_one, Fld.width, Nat.mod_eq_of_lt h]

theorem exec_adcFgReq {req : Requester} {n : Line} (hw : s.mayWrite req 8 1 (s.lineDom n)) :
    ∃ t, exec (.adcFgReq req n) s = .next t ∧ ((s.dropLatch req).adcReq n).kept recordMask t := by
  change ∃ t, execAdcFgReq req n s = .next t ∧ _
  unfold execAdcFgReq
  exact access_runWrite (f := fun t => t.adcReq n) s hw ⟨_, _, rfl⟩

theorem State.adcReq_starts {n : Nat} (h1 : s.rd .STRD_ADC_CAL_FG_STATE n ≠ 1) (hm : s.lineMode n ≠ 0) (ht : s.tracking n = false) :
    s.adcReq n = s.adcStart n := by
  unfold State.adcReq
  rw [if_neg h1, if_neg (by simp [hm, ht])]

theorem State.adcReq_refused {n : Nat} (h1 : s.rd .STRD_ADC_CAL_FG_STATE n ≠ 1) (h : s.lineMode n = 0 ∨ s.tracking n = true) :
    s.adcReq n = (s.wr .STRD_ADC_CAL_FG_REQ 0 n).wr .STRD_ADC_CAL_FG_REFUSED 1 n := by
  unfold State.adcReq
  rw [if_neg h1, if_pos (by simpa using h)]

/-- A start: the calibration runs, and but for a Hub line, the receiver calibrates. -/
theorem State.adcStart_shows (n : Line) : (s.adcStart n).rd .STRD_ADC_CAL_FG_STATE n = 1 ∧ (s.adcStart n).on .STRD_ADC_CAL_FG_REQ n = true ∧
    (s.adcStart n).splState n = if s.lineMode n = 2 then s.splState n else 2 := by
  generalize hu : (s.wr .STRD_ADC_CAL_FG_STATE 1 n).wr .STRD_ADC_CAL_FG_REQ 1 n = u
  have hcal : u.rd .STRD_ADC_CAL_FG_STATE n = 1 ∧ u.on .STRD_ADC_CAL_FG_REQ n = true := by
    simp (disch := decide) [← hu, State.on, State.rd_wr_apart, State.rd_wr_one, Fld.width]
  have hk : s.kept (footOf [.STRD_ADC_CAL] []) u := by
    rw [← hu]; exact State.wr_kept _ _ _ _ _ _ (State.wr_kept _ _ _ _ _ _ (State.kept_refl _ s) rfl) rfl
  have heq : s.adcStart n = if u.lineMode n = 2 then u else u.leaveTo n 2 := by rw [← hu]; rfl
  rw [heq, State.kept_lineMode hk rfl]
  split
  · exact ⟨hcal.1, hcal.2, State.kept_rd hk _ rfl _ _ _⟩
  · have hl := State.leaveTo_kept u n 2 (State.kept_refl _ u) (Foot.refl _)
    rw [State.kept_rd hl _ rfl, State.kept_on hl _ rfl]
    exact ⟨hcal.1, hcal.2, u.leaveTo_splState n (by decide)⟩

/-- The calibration ended, with whether it failed. -/
def State.adcEnded (s : State) (n : Nat) (ok : Bool) : State :=
  let t := ((s.wr .STRD_ADC_CAL_FG_REQ 0 n).wr .STRD_ADC_CAL_FG_STATE (if ok then 2 else 3) n).calEnded n
  t.setStr n { t.str n with adcFailed := !ok }

/-- The values of a success, with their place in the history. -/
def State.adcTaken (s : State) (n : Nat) (cal : List (List Calib)) : State :=
  (s.setStr n { s.str n with adc := calTable cal, adcRest := [], adcDue := [] }).calResults n true cal

/-- The raw loss of signal that a failure during Calibrating sets, with its defect. -/
def State.rawLosSet (s : State) (n : Nat) : State :=
  ((if s.on .SPLC_STAT_RAW_LOS n then s else s.splEvent n .SPLC_EVT_LOS_RISE 0x5002).wr .SPLC_STAT_RAW_LOS 1 n).setDefect n 0 true

/-- What the end of a calibration leads to: out of Calibrating on a success, a loss of signal in it on a failure. -/
def State.adcOutcome (s : State) (n : Nat) (ok : Bool) (t : Nat) (cal : List (List Calib)) : State :=
  if ok then if (s.adcTaken n cal).splState n = 2 then (s.adcTaken n cal).waitSignal n else s.adcTaken n cal
  else
    let u := s.raise .STRD_EVT_ADC_FG_FAIL 0x4011 (s.lineDom n) [n, t]
    if u.splState n = 2 then u.rawLosSet n else u

theorem exec_adcFgCalDone {n : Line} (ok : Bool) (tr : Trib) (cal : List (List Calib)) (h8 : s.alive 8 = true)
    (h1 : s.rd .STRD_ADC_CAL_FG_STATE n = 1) :
    exec (.adcFgCalDone n ok tr cal) s = .next ((s.adcEnded n ok).adcOutcome n ok tr cal) := by
  change execAdcFgCalDone n ok tr cal s = _
  unfold execAdcFgCalDone
  rw [act_next s 8 _ h8, if_neg (by simp [h1])]
  cases ok <;> simp only [State.adcOutcome, State.adcTaken, State.rawLosSet, if_true, Bool.false_eq_true, if_false] <;> rfl

/-- What the end itself changes. -/
theorem State.adcEnded_only (n : Nat) (ok : Bool) : s.kept (footOf [.STRD_ADC_CAL, .TOP_MODE_STAT] [.strand]) (s.adcEnded n ok) :=
  State.setStr_kept _ _ _ (State.calEnded_kept _ _ (State.wr_kept _ _ _ _ _ _ (State.wr_kept _ _ _ _ _ _ (State.kept_refl _ s) rfl) rfl)
    rfl) rfl

theorem State.adcEnded_str (n : Nat) (ok : Bool) : (s.adcEnded n ok).str n = { s.str n with adcFailed := !ok } := by
  have hwr : (((s.wr .STRD_ADC_CAL_FG_REQ 0 n).wr .STRD_ADC_CAL_FG_STATE (if ok then 2 else 3) n).calEnded n).str n = s.str n :=
    State.kept_str (State.calEnded_kept _ n (State.kept_refl _ _) (Foot.refl _)) rfl n
  unfold State.adcEnded
  dsimp only
  rw [hwr]
  simp [State.str]

theorem State.adcEnded_state (n : Line) (ok : Bool) : (s.adcEnded n ok).rd .STRD_ADC_CAL_FG_STATE n = (if ok then 2 else 3) ∧
    (s.adcEnded n ok).on .STRD_ADC_CAL_FG_REQ n = false := by
  unfold State.adcEnded
  dsimp only
  rw [State.on, State.rd_setStr, State.rd_setStr, State.kept_rd (State.calEnded_kept _ n (State.kept_refl _ _) (Foot.refl _)) _ rfl,
    State.kept_rd (State.calEnded_kept _ n (State.kept_refl _ _) (Foot.refl _)) _ rfl]
  cases ok <;> simp (disch := decide) [State.rd_wr_apart, State.rd_wr_one, Fld.width]

/-- The lines' modes stand beside their busy bits. -/
theorem State.calEnded_lineMode (n : Line) : (s.calEnded n).lineMode n = s.lineMode n := by
  unfold State.calEnded State.lineMode
  split
  · rfl
  · fin_cases n <;> exact State.rd_wr_apart s _ _ _ _ _ _ _ (by decide)

theorem State.adcEnded_lineMode (n : Line) (ok : Bool) : (s.adcEnded n ok).lineMode n = s.lineMode n := by
  have hwr : ((s.wr .STRD_ADC_CAL_FG_REQ 0 n).wr .STRD_ADC_CAL_FG_STATE (if ok then 2 else 3) n).lineMode n = s.lineMode n :=
    State.kept_lineMode (State.wr_kept _ _ _ _ _ _ (State.wr_kept _ _ _ _ _ _ (State.kept_refl (footOf [.STRD_ADC_CAL] []) s) rfl) rfl)
      rfl n
  exact (State.calEnded_lineMode _ n).trans hwr

theorem State.adcTaken_str (n : Nat) (cal : List (List Calib)) : (s.adcTaken n cal).str n =
    { s.str n with adc := calTable cal, adcRest := [], adcDue := [], history :=
      (true, 3, cal.getD 3 []) :: (true, 2, cal.getD 2 []) :: (true, 1, cal.getD 1 []) :: (true, 0, cal.getD 0 []) ::
        (s.str n).history } := by
  rw [State.adcTaken, State.calResults_str]
  simp [State.str]

theorem State.adcTaken_only (n : Nat) (cal : List (List Calib)) : s.kept (footOf [] [.strand]) (s.adcTaken n cal) :=
  State.calResults_kept _ _ _ _ (State.setStr_kept _ _ _ (State.kept_refl _ s) rfl) rfl

/-- Wait-signal at once becomes Frequency search where there is a signal. -/
theorem State.waitSignal_splState (n : Line) : (s.waitSignal n).splState n = if s.on .SPLC_STAT_RAW_LOS n then 1 else 3 :=
  s.leaveTo_splState n (by split <;> decide)

/-- The receiver after a success. -/
theorem State.adcOutcome_splState_ok (n : Line) (tr : Nat) (cal : List (List Calib)) (h2 : s.splState n = 2) :
    (s.adcOutcome n true tr cal).splState n = if s.on .SPLC_STAT_RAW_LOS n then 1 else 3 := by
  have hk := s.adcTaken_only n cal
  have h : (s.adcTaken n cal).splState n = 2 := (State.kept_rd hk .SPLC_STAT_STATE rfl _ _ _).trans h2
  rw [State.adcOutcome, if_pos rfl, if_pos h, State.waitSignal_splState, State.kept_on hk _ rfl]

/-- The line's converters after a success. -/
theorem State.adcOutcome_str_ok (n t : Nat) (cal : List (List Calib)) : (s.adcOutcome n true t cal).str n = (s.adcTaken n cal).str n := by
  rw [State.adcOutcome, if_pos rfl]
  split
  · exact State.kept_str (State.waitSignal_kept _ _ (State.kept_refl _ _) (Foot.refl _)) rfl n
  · rfl

/-- What settles after a change of defects leaves the loss of signal. -/
theorem State.rd_settleDefects_los (n : Nat) : (s.settleDefects n).rd .HTCH_DEF_LOS n = s.rd .HTCH_DEF_LOS n := by
  have hsd (t : State) : (t.takeSd n).rd .HTCH_DEF_LOS n = t.rd .HTCH_DEF_LOS n := by
    unfold State.takeSd
    dsimp only
    split <;> simp (disch := decide) only [State.rd_wr_apart]
  have hmask (t : State) : (t.each [1, 2, 3, 4, 5, 6, 7] fun d t => if t.masked n d then t.wr (defectFlds d).1 0 n else t).rd .HTCH_DEF_LOS n =
      t.rd .HTCH_DEF_LOS n := by
    refine t.each_holds (fun u => u.rd .HTCH_DEF_LOS n = t.rd .HTCH_DEF_LOS n) rfl fun d hd u hu => ?_
    have hapart : ∀ d ∈ [1, 2, 3, 4, 5, 6, 7], (defectFlds d).1.apart .HTCH_DEF_LOS = true := by decide
    split
    · rw [State.rd_wr_apart _ _ _ _ _ _ _ _ (hapart d hd), hu]
    · exact hu
  have hruns (t : State) : (t.clearRuns n).rd .HTCH_DEF_LOS n = t.rd .HTCH_DEF_LOS n :=
    State.kept_rd (State.clearRuns_kept t n (State.kept_refl _ t) (Foot.refl _)) _ rfl _ _ _
  unfold State.settleDefects
  dsimp only
  rw [State.kept_rd (State.lineConsequences_only _ n) _ rfl]
  split <;> simp (disch := decide) only [State.rd_wr_apart, State.rd_setHit, hruns, hmask, hsd]

/-- The loss of signal that is set stays set. -/
theorem State.setDefect_los (n : Line) (h : s.lineMode n ≠ 2) : (s.setDefect n 0 true).on .HTCH_DEF_LOS n = true := by
  unfold State.setDefect
  split
  · next hsame => simpa [State.defect, defectFlds, State.masked, maskedBy, h] using hsame
  · have hset (t : State) : ((t.wr .HTCH_DEF_LOS (b2n true) n).wr .HTCH_DEF_STK_LOS 1 n).rd .HTCH_DEF_LOS n = 1 := by
      simp (disch := decide) [State.rd_wr_apart, State.rd_wr_one, b2n]
    simp only [defectFlds, if_true]
    rw [State.on, State.rd_settleDefects_los, State.rd_raise_apart _ _ _ _ _ _ _ _ _ (by decide) rfl, hset]
    rfl

/-- What a failure during Calibrating changes. -/
theorem State.rawLosSet_shows (n : Line) : (s.rawLosSet n).on .SPLC_STAT_RAW_LOS n = true ∧ (s.rawLosSet n).splState n = s.splState n ∧
    (s.lineMode n ≠ 2 → (s.rawLosSet n).on .HTCH_DEF_LOS n = true) := by
  generalize hu : (if s.on .SPLC_STAT_RAW_LOS n then s else s.splEvent n .SPLC_EVT_LOS_RISE 0x5002) = u
  have hk : s.kept (eventFoot [.SPLC_EVT] []) u := by
    rw [← hu]
    split
    · exact State.kept_refl _ s
    · exact State.splEvent_kept _ _ _ _ (State.kept_refl _ s) rfl rfl
  have heq : s.rawLosSet n = (u.wr .SPLC_STAT_RAW_LOS 1 n).setDefect n 0 true := by rw [← hu]; rfl
  have hd := State.setDefect_kept (u.wr .SPLC_STAT_RAW_LOS 1 n) n 0 true (State.kept_refl _ _) (Foot.refl _)
  rw [heq, State.kept_on hd _ rfl, State.splState, State.kept_rd hd _ rfl, State.rd_wr_apart _ _ _ _ _ _ _ _ (by decide),
    State.kept_rd hk _ rfl]
  refine ⟨by rw [State.on, State.rd_wr_one _ _ _ (by decide)]; rfl, rfl, fun hm => State.setDefect_los _ n ?_⟩
  have hwr : (u.wr .SPLC_STAT_RAW_LOS 1 n).lineMode n = u.lineMode n :=
    State.kept_lineMode (State.wr_kept u _ _ _ _ _ (State.kept_refl (footOf [.SPLC_STAT] []) u) rfl) rfl n
  rwa [hwr, State.kept_lineMode hk rfl]

/-- A failure during Calibrating changes neither the converters' state nor an event of Strand. -/
theorem State.rawLosSet_only (n : Nat) : s.kept
    (eventFoot [.TOP_FAULT, .SPLC_STAT, .SPLC_EVT, .HTCH_DEF, .HTCH_DEF_STK, .HTCH_EVT, .SEIZ_KC_ST, .BEND_EVT, .BEND_PG_STAT, .BEND_PATH_ST,
      .SHET_CLI_STAT, .SHET_CLI_EVT, .SHET_CNT] [.boot, .clients, .groups, .kcs, .hitch]) (s.rawLosSet n) := by
  unfold State.rawLosSet
  refine State.setDefect_kept _ _ _ _ (State.wr_kept _ _ _ _ _ _ ?_ rfl) rfl
  split
  · exact State.kept_refl _ s
  · exact State.splEvent_kept _ _ _ _ (State.kept_refl _ s) rfl rfl

/-- After a failure. -/
theorem State.adcOutcome_failed (n : Line) (t : Nat) (cal : List (List Calib)) :
    (s.adcOutcome n false t cal).on .STRD_EVT_ADC_FG_FAIL = true ∧ (s.adcOutcome n false t cal).splState n = s.splState n ∧
      (s.adcOutcome n false t cal).str n = s.str n ∧ (s.splState n = 2 → (s.adcOutcome n false t cal).on .SPLC_STAT_RAW_LOS n = true ∧
        (s.lineMode n ≠ 2 → (s.adcOutcome n false t cal).on .HTCH_DEF_LOS n = true)) := by
  generalize hu : s.raise .STRD_EVT_ADC_FG_FAIL 0x4011 (s.lineDom n) [n, t] = u
  have hev : u.on .STRD_EVT_ADC_FG_FAIL = true := by rw [← hu]; exact State.on_raise_none _ _ _ _ _ (by decide) rfl rfl
  have hk : s.kept (eventFoot [.STRD_EVT] []) u := by rw [← hu]; exact State.raise_kept _ _ _ _ _ _ _ (State.kept_refl _ s) rfl rfl
  have heq : s.adcOutcome n false t cal = if u.splState n = 2 then u.rawLosSet n else u := by rw [← hu]; rfl
  have hst : u.splState n = s.splState n := State.kept_rd hk _ rfl _ _ _
  rw [heq]
  split
  · next h2 =>
    obtain ⟨hlos, hsame, hdef⟩ := u.rawLosSet_shows n
    have hr := u.rawLosSet_only n
    exact ⟨(State.kept_on hr _ rfl _ _ _).trans hev, hsame.trans hst, (State.kept_str hr rfl n).trans (State.kept_str hk rfl n),
      fun _ => ⟨hlos, fun hm => hdef (by rwa [State.kept_lineMode hk rfl])⟩⟩
  · next h2 => exact ⟨hev, hst, State.kept_str hk rfl n, fun h => absurd (hst.trans h) h2⟩

/-- What an outcome leaves of the calibration's own state. -/
theorem State.adcOutcome_cal (n : Nat) (ok : Bool) (t : Nat) (cal : List (List Calib)) (f : Fld) (hf : f.id = .STRD_ADC_CAL) :
    (s.adcOutcome n ok t cal).rd f n = s.rd f n := by
  unfold State.adcOutcome
  cases ok with
  | true =>
    dsimp only
    have hk := State.kept_rd (s.adcTaken_only n cal) f (by rw [hf]; rfl) n 0 0
    split
    · split
      · rw [State.kept_rd (State.waitSignal_kept _ _ (State.kept_refl _ _) (Foot.refl _)) f (by rw [hf]; rfl), hk]
      · exact hk
    · contradiction
  | false =>
    have hk := State.kept_rd (State.raise_kept s .STRD_EVT_ADC_FG_FAIL 0x4011 (s.lineDom n) [n, t] false 0
      (m := eventFoot [.STRD_EVT] []) (State.kept_refl _ s) rfl rfl) f (by rw [hf]; rfl) n 0 0
    rw [if_neg (by decide)]
    dsimp only
    split
    · rw [State.kept_rd (State.rawLosSet_only _ n) f (by rw [hf]; rfl), hk]
    · exact hk

theorem exec_adcBgCalUpdate {n : Line} (tr : Trib) (c : List Calib) (h8 : s.alive 8 = true) (hm : s.lineMode n ≠ 0)
    (hbg : s.on .STRD_ADC_CAL_BG_EN n = true) :
    let old := (s.str n).adcRest.get [] tr
    let need := calSum true old c
    let due := calSum true ((s.str n).adcDue.get [] tr) (calMove true need)
    let rest := calRest true need (calMove true need)
    let t := (s.setStr n { s.str n with adcDue := (s.str n).adcDue.put [] tr due, adcRest := (s.str n).adcRest.put [] tr rest }).calResult n
      true tr (calSum true ((s.str n).adc.get [] tr) due)
    exec (.adcBgCalUpdate n tr c) s =
      .next (if !calZero rest && calZero old then t.raise .STRD_EVT_ADC_STEP 0x4012 (t.lineDom n) [n, tr] else t) := by
  change execAdcBgCalUpdate n tr c s = _
  unfold execAdcBgCalUpdate
  rw [act_next s 8 _ h8, if_neg (by simp [hm, hbg])]

/-! ### Modulation frames and markers (R81, R91) -/

/-- A modulation frame up to its marker: what is moved and applied at its start, and over-range. -/
def State.frameOpened (s : State) (n : Nat) (above : Bool) : State :=
  let t := (s.applyIters n).moveAdcs n
  ((t.setSpl n { t.spl n with thawed := false }).applyTaps n).overRange n above

theorem exec_modulationFrame {n : Line} (above marker : Bool) (h10 : s.alive 10 = true) (hl : s.lineNative n = true)
    (hm : s.lineMode n ≠ 2) : exec (.modulationFrame n above marker) s =
      .next ((((s.frameOpened n above).takeMarker n marker).alignBlocks n).sendFrameSymbols n) := by
  have hmode : (((s.applyIters n).moveAdcs n).setSpl n { ((s.applyIters n).moveAdcs n).spl n with thawed := false }).lineMode n ≠ 2 := by
    rw [State.kept_lineMode (State.setSpl_kept _ _ _ (State.moveAdcs_kept _ _ (State.applyIters_kept s n (State.kept_refl
      (footOf [.CLET_STAT, .CLET_SC_STAT] [.strand, .splice, .cleat]) s) rfl) rfl) rfl) rfl]
    exact hm
  change execModulationFrame n above marker s = _
  unfold execModulationFrame
  rw [act_next s 10 _ h10, if_neg (by simp [hl]), State.receiveFrame]
  dsimp only
  rw [if_neg hmode]
  rfl

/-- OVR and the count of frames above, with the event at a start. -/
theorem State.overRange_shows (n : Line) (above : Bool) :
    (s.overRange n above).on .SPLC_STAT_OVR n = (above && !s.on .SPLC_STAT_RAW_LOS n) ∧
      (s.overRange n above).on .SPLC_STAT_MF_LOCK n = s.on .SPLC_STAT_MF_LOCK n ∧
      ∃ k, (s.overRange n above).spl n = { s.spl n with above := k } := by
  generalize hnow : (above && !s.on .SPLC_STAT_RAW_LOS n) = now
  generalize hu : s.wr .SPLC_STAT_OVR (b2n now) n = u
  have hovr : u.on .SPLC_STAT_OVR n = now := by
    rw [← hu, State.on, State.rd_wr_one _ _ _ (by decide)]
    exact b2n_ne_zero now
  have hlock : u.on .SPLC_STAT_MF_LOCK n = s.on .SPLC_STAT_MF_LOCK n := by
    rw [← hu, State.on, State.rd_wr_apart _ _ _ _ _ _ _ _ (by decide)]; rfl
  have hsplu : u.spl n = s.spl n := by rw [← hu]; rfl
  generalize hv : (if now then u.setSpl n { u.spl n with above := (u.spl n).above + 1 } else u) = v
  have hregs : v.regs = u.regs := by rw [← hv]; split <;> rfl
  have hspl : ∃ k, v.spl n = { s.spl n with above := k } := by
    rw [← hv]
    split
    · exact ⟨_, by rw [State.setSpl_spl, hsplu]⟩
    · exact ⟨_, hsplu⟩
  have hon (f : Fld) : v.on f n = u.on f n := by unfold State.on State.rd State.reg; rw [hregs]
  have heq : s.overRange n above = if now && !s.on .SPLC_STAT_OVR n then v.splEvent n .SPLC_EVT_OVERRANGE 0x5006 else v := by
    rw [← hv, ← hu, ← hnow]; rfl
  have hend : v.kept (eventFoot [.SPLC_EVT] []) (s.overRange n above) := by
    rw [heq]
    split
    · exact State.splEvent_kept _ _ _ _ (State.kept_refl _ v) rfl rfl
    · exact State.kept_refl _ v
  rw [State.kept_on hend _ rfl, State.kept_on hend _ rfl, State.kept_spl hend rfl, hon, hon]
  exact ⟨hovr, hlock, hspl⟩

/-- Up to the marker, a frame leaves the lock and what the marker is judged on. -/
theorem State.frameOpened_shows (n : Line) (above : Bool) :
    (s.frameOpened n above).on .SPLC_STAT_OVR n = (above && !s.on .SPLC_STAT_RAW_LOS n) ∧
      (s.frameOpened n above).on .SPLC_STAT_MF_LOCK n = s.on .SPLC_STAT_MF_LOCK n ∧
      ∃ k, (s.frameOpened n above).spl n = { s.spl n with above := k, thawed := false } := by
  have hk : s.kept (footOf [.CLET_STAT, .CLET_SC_STAT] [.strand, .cleat]) ((s.applyIters n).moveAdcs n) :=
    State.moveAdcs_kept _ _ (State.applyIters_kept s n (State.kept_refl _ s) rfl) rfl
  generalize ht : (s.applyIters n).moveAdcs n = t at hk
  generalize hu : (t.setSpl n { t.spl n with thawed := false }).applyTaps n = u
  have htaps : (t.setSpl n { t.spl n with thawed := false }).kept (footOf [.SPLC_SC_EST] []) u :=
    hu ▸ State.applyTaps_kept _ _ (State.kept_refl _ _) rfl
  have hon (f : Fld) (hf : f.id = .SPLC_STAT) : u.on f n = s.on f n := by
    rw [State.kept_on htaps f (by rw [hf]; rfl), State.on, State.rd_setSpl]
    exact State.kept_on hk f (by rw [hf]; rfl) n 0 0
  have heq : s.frameOpened n above = u.overRange n above := by rw [← hu, ← ht]; rfl
  obtain ⟨hovr, hlock, k, hspl⟩ := u.overRange_shows n above
  rw [heq, hovr, hlock, hspl, hon _ rfl, hon _ rfl, State.kept_spl htaps rfl, State.setSpl_spl, State.kept_spl hk rfl]
  exact ⟨rfl, rfl, k, rfl⟩

/-- A marker 256 frames after one seen locks the multiframe. -/
theorem State.takeMarker_locks (n : Line) (hl : s.on .SPLC_STAT_MF_LOCK n = false) (h : 255 ∈ (s.spl n).seen) :
    (s.takeMarker n true).on .SPLC_STAT_MF_LOCK n = true ∧ ((s.takeMarker n true).spl n).phase = 0 := by
  have hage : (((s.spl n).seen.map fun a => a + 1).filter fun a => a ≤ 256).contains 256 = true := by
    simp only [List.contains_iff_mem, List.mem_filter, List.mem_map]
    exact ⟨⟨255, h, rfl⟩, by decide⟩
  unfold State.takeMarker
  dsimp only
  rw [if_neg (by simp [hl]), if_pos (by rw [hage]; rfl)]
  refine ⟨by rw [State.on, State.rd_wr_one _ _ _ (by decide)]; rfl, ?_⟩
  exact congrArg SpliceInt.phase (s.setSpl_spl n _)

theorem State.takeMarker_locked {n : Nat} (marker : Bool) (hl : s.on .SPLC_STAT_MF_LOCK n = true) :
    (s.takeMarker n marker).on .SPLC_STAT_MF_LOCK n = true ∧
      (s.takeMarker n marker).spl n = { s.spl n with
        phase := ((s.spl n).phase + 1) % 256,
        missed := if ((s.spl n).phase + 1) % 256 != 0 then (s.spl n).missed else if marker then 0 else (s.spl n).missed + 1 } := by
  unfold State.takeMarker
  dsimp only
  rw [if_pos hl, State.setSpl_spl]
  exact ⟨hl, rfl⟩

theorem State.takeMarker_ovr (n : Nat) (marker : Bool) : (s.takeMarker n marker).on .SPLC_STAT_OVR n = s.on .SPLC_STAT_OVR n := by
  unfold State.takeMarker
  dsimp only
  split
  · rfl
  · split
    · simp (disch := decide) only [State.on, State.rd_wr_apart, State.rd_setSpl]
    · rfl

/-- What follows the marker leaves the receiver. -/
theorem State.frameSent_only (n : Nat) :
    s.kept (footOf [] [.out, .braid, .bight, .cleat]) ((s.alignBlocks n).sendFrameSymbols n) :=
  State.sendFrameSymbols_kept _ _ (State.alignBlocks_kept s n (State.kept_refl _ s) rfl) rfl

theorem exec_markerLost {n : Line} (h10 : s.alive 10 = true) (hl : s.on .SPLC_STAT_MF_LOCK n = true) (h3 : 3 ≤ (s.spl n).missed) :
    exec (.markerLost n) s = .next (((s.setSpl n { s.spl n with missed := 0, seen := [] }).wr .SPLC_STAT_MF_LOCK 0 n).splEvent n
      .SPLC_EVT_MARKER_LOST 0x5007) := by
  change execMarkerLost n s = _
  unfold execMarkerLost
  rw [act_next s 10 _ h10, if_pos (by simp [hl, h3])]

/-! ### Demands, estimates and responses (R93, R98 to R102) -/

/-- The SNR of a subcarrier, where there is one to show. -/
theorem State.takeSnr_shows (n : Line) (f : Slot) (x y c : Nat) :
    (s.takeSnr n f x y c).rd .SPLC_SC_EST_SNR n f =
        (if (s.spl n).restarting.get 0 f = 0 ∧ f.val ∉ (s.spl n).broken then min 254 c else 255) ∧
      ((s.spl n).restarting.get 0 f = 0 → f.val ∉ (s.spl n).broken → (s.takeSnr n f x y c).rd .SPLC_SC_EST_SNR_X n f = min 254 x ∧
        (s.takeSnr n f x y c).rd .SPLC_SC_EST_SNR_Y n f = min 254 y) := by
  have hlt (v : Nat) : min 254 v % 256 = min 254 v := Nat.mod_eq_of_lt (by omega)
  simp only [State.takeSnr]
  constructor
  · rw [State.rd_wr_two _ _ n f (by decide)]
    by_cases h : (s.spl n).restarting.get 0 f = 0 ∧ f.val ∉ (s.spl n).broken
    · simp [h, Fld.width, hlt]
    · rw [if_neg h, if_pos (by simpa [not_and_or, Classical.or_iff_not_imp_left] using h)]
      rfl
  · intro hr hb
    simp (disch := decide) [hr, hb, State.rd_wr_apart, State.rd_wr_two, Fld.width, hlt]

theorem ranged_lt (most v : Nat) : ranged most v < 65536 := by
  unfold ranged
  dsimp only
  omega

theorem State.kept_lit {s t : State} {m : Nat} (h : s.kept m t) (hm : m.testBit (regBit .TOP_MODE_STAT) = false)
    (hw : m.testBit (regBit .SPLC_SC_CFG) = false) (n : Nat) : t.lit n = s.lit n := by
  unfold State.lit; rw [State.kept_lineOzr h hm, State.kept_firstSlots h _ hw]

theorem State.kept_rxCovers {s t : State} {m : Nat} (h : s.kept m t) (hm : m.testBit (regBit .TOP_MODE_STAT) = false)
    (hw : m.testBit (regBit .SPLC_SC_CFG) = false) (n slot : Nat) : t.rxCovers n slot = s.rxCovers n slot := by
  unfold State.rxCovers; simp only [State.kept_lit h hm hw, State.kept_rd h .SPLC_SC_CFG_WIDTH hw]

/-- The response of an entry: its value in Tracking where a subcarrier stands, and what is dark. -/
def State.chanEntry (s : State) (n e : Nat) (v : Nat × Nat) : Nat :=
  if s.tracking n && s.rxCovers n (e / 16) then v.1 % 256 + v.2 % 256 * 256 else 0x8080

/-- The entries read out. -/
def State.chanRead (s : State) (n : Nat) (values : List (Nat × Nat)) : State :=
  s.each (List.range 512) fun e t => t.setReg .SPLC_CHAN (t.chanEntry n e (values.getD e (128, 128))) n e

theorem exec_chanSwap {n : Line} (values : List (Nat × Nat)) (h10 : s.alive 10 = true) (h0 : s.splState n ≠ 0) :
    exec (.chanSwap n values) s = .next ((s.incWrap .SPLC_STAT_CHAN_SEQ 1 n).chanRead n values) := by
  change execChanSwap n values s = _
  unfold execChanSwap
  rw [act_next s 10 _ h10, if_neg h0]
  rfl

theorem State.chanRead_only (n : Nat) (values : List (Nat × Nat)) : s.kept (footOf [.SPLC_CHAN] []) (s.chanRead n values) :=
  State.each_kept _ _ _ (State.kept_refl _ s) fun _ _ h => State.setReg_kept _ _ _ _ _ _ h rfl

theorem State.chanEntry_lt (n e : Nat) (v : Nat × Nat) : s.chanEntry n e v < 2 ^ 32 := by
  unfold State.chanEntry
  split <;> omega

theorem State.chanRead_entry (n : Line) (values : List (Nat × Nat)) (e : Fin 512) :
    (s.chanRead n values).reg .SPLC_CHAN n e = s.chanEntry n e (values.getD e (128, 128)) := by
  refine s.each_sets (fun t => s.kept (footOf [.SPLC_CHAN] []) t)
    (fun t => t.reg .SPLC_CHAN n e = s.chanEntry n e (values.getD e (128, 128))) (List.mem_range.mpr e.isLt) (State.kept_refl _ s)
    (fun _ _ _ h => State.setReg_kept _ _ _ _ _ _ h rfl) (fun t h => ?_) fun i _ hi t ht => ?_
  · have hsame : t.chanEntry n e (values.getD e (128, 128)) = s.chanEntry n e (values.getD e (128, 128)) := by
      unfold State.chanEntry State.tracking State.splState
      rw [State.kept_rd h _ rfl, State.kept_rxCovers h rfl rfl]
    rw [State.reg_setReg_same _ _ _ _ _ _ (regValid_two_of_dims (n := 3) (m := 512) rfl n e), hsame]
    exact Nat.mod_eq_of_lt (s.chanEntry_lt n e _)
  · rw [State.reg_setReg_other _ _ _ _ _ _ _ _ _ _ fun h => hi h.2.2.1.symm]
    exact ht

theorem State.rd_count_slip (n : Line) : (s.count .FTHM_SLIP 1 n).rd .FTHM_SLIP_COUNT n = (s.rd .FTHM_SLIP_COUNT n + 1) % 2 ^ 48 :=
  (s.get_count_counter 1 (r := ⟨.FTHM_SLIP, n, 0, 0⟩) (show RegId.FTHM_SLIP ∈ counterIds by decide)
    (regValid_one_of_dims (n := 3) rfl n)).1

/-- Settles O33: a switch, a fallback and a change of overhead load a table, with consequences that leave the receiver; a calibration ends in
its outcome; a frame up to its marker leaves what the marker is judged on; estimates and responses are registers of their own. -/
theorem receiveTablesAndEstimates : Obligations.ReceiveTablesAndEstimates := by
  unfold Obligations.ReceiveTablesAndEstimates
  refine ⟨?switch, ?fallback, ?request, ?done, ?update, ?frame, ?lost, ?demand, ?estimate, ?responses, ?slip, ?overhead⟩
  case switch =>
    intro s n h10 ha hi
    have hexec := exec_rxTableSwitch s h10 ha hi
    refine ⟨_, hexec, exec_only_of_fits hexec (by simp only [footprint]; decide +kernel), ?_⟩
    by_cases hl : s.on .SPLC_STAT_MF_LOCK n = true
    · rw [if_pos hl]
      generalize hu : (s.setRx n (s.spl n).armId (s.spl n).standby).disarm n = u
      have hk := State.endFallback_only (u.splEvent n .SPLC_EVT_SWITCHED 0x5009) n
      have hev := State.splEvent_kept u n .SPLC_EVT_SWITCHED 0x5009 (m := eventFoot [.SPLC_EVT] []) (State.kept_refl _ u) rfl rfl
      rw [State.kept_on hk _ rfl, State.kept_on hk _ rfl, State.kept_rd hk _ rfl, State.kept_spl hk rfl, State.kept_on hev .SPLC_STAT_ARMED rfl,
        State.kept_rd hev _ rfl, State.kept_spl hev rfl, ← hu, State.disarm_armed, State.disarm_spl, State.disarm_activeId,
        State.setRx_activeId, State.setRx_spl]
      exact ⟨rfl, rfl, fun _ => ⟨rfl, rfl, State.on_raise_one _ _ _ _ _ n (by decide) rfl rfl⟩, fun h => absurd hl (by simp [h])⟩
    · rw [if_neg hl, State.disarm_spl, State.disarm_activeId]
      exact ⟨s.disarm_armed n, rfl, fun h => absurd h hl, fun _ => ⟨rfl, rfl⟩⟩
  case fallback =>
    intro s n h10 hl ho
    have hexec := exec_rxFallback s h10 hl ho
    refine ⟨_, hexec, exec_only_of_fits hexec (by simp only [footprint]; decide +kernel), ?_, ?_, ?_⟩
    · have hwr (t : State) : (t.wr .BRAD_LOAD_STAT_RX_FALLBACK 1 n).spl n = t.spl n := rfl
      rw [hwr, State.setRx_spl]
    · rw [State.rd_wr_apart _ _ _ _ _ _ _ _ (by decide), State.setRx_activeId]
    · rw [State.on, State.rd_wr_one _ _ _ (by decide)]; rfl
  case request =>
    intro s req n hw h1
    obtain ⟨t, hexec, hk⟩ := exec_adcFgReq s hw
    refine ⟨t, hexec, exec_only_of_fits hexec (by simp only [footprint]; decide +kernel), fun hm ht => ?_, fun h => ?_⟩
    · rw [State.adcReq_starts (s.dropLatch req) h1 hm ht] at hk
      obtain ⟨hst, hreq, hspl⟩ := (s.dropLatch req).adcStart_shows n
      exact ⟨(State.kept_rd hk _ rfl _ _ _).trans hst, (State.kept_on hk _ rfl _ _ _).trans hreq,
        (State.kept_rd hk .SPLC_STAT_STATE rfl _ _ _).trans hspl⟩
    · rw [State.adcReq_refused (s.dropLatch req) h1 h] at hk
      have hspl : t.splState n = s.splState n := State.kept_rd hk .SPLC_STAT_STATE rfl n 0 0 |>.trans <| by
        simp (disch := decide) only [State.rd_wr_apart]; rfl
      rw [State.kept_rd hk _ rfl, State.kept_on hk _ rfl, State.kept_on hk _ rfl, hspl]
      simp (disch := decide) [State.on, State.rd_wr_apart, State.rd_wr_one, Fld.width]
  case done =>
    intro s n ok tr cal h8 h1
    have hexec := exec_adcFgCalDone s ok tr cal h8 h1
    have hk := s.adcEnded_only n ok
    have hspl : (s.adcEnded n ok).splState n = s.splState n := State.kept_rd hk _ rfl _ _ _
    obtain ⟨hst, hreq⟩ := s.adcEnded_state n ok
    refine ⟨_, hexec, exec_only_of_fits hexec (by simp only [footprint]; decide +kernel), ?_, ?_, ?_, ?_, ?_⟩
    · rw [State.adcOutcome_cal _ _ _ _ _ _ rfl, hst]
    · rw [State.on, State.adcOutcome_cal _ _ _ _ _ _ rfl]
      exact hreq
    · rintro rfl
      rw [State.adcOutcome_str_ok, State.adcTaken_str, State.adcEnded_str]
      exact ⟨fun k hk => calTable_get cal hk, rfl, rfl⟩
    · rintro rfl h2
      rw [State.adcOutcome_splState_ok _ _ _ _ (hspl.trans h2), State.kept_on hk _ rfl]
    · rintro rfl
      obtain ⟨hev, hsame, hstr, hlos⟩ := (s.adcEnded n false).adcOutcome_failed n tr cal
      refine ⟨hev, hsame.trans hspl, by rw [hstr, State.adcEnded_str]; rfl, fun h2 => ?_⟩
      obtain ⟨hraw, hdef⟩ := hlos (hspl.trans h2)
      exact ⟨hraw, fun hm => hdef (by rwa [State.adcEnded_lineMode])⟩
  case update =>
    rintro s n tr c need move due h8 hm hbg rfl rfl rfl
    have hexec := exec_adcBgCalUpdate s tr c h8 hm hbg
    refine ⟨_, hexec, exec_only_of_fits hexec (by simp only [footprint]; decide +kernel), ?_⟩
    dsimp only
    refine ⟨?_, ?_, ?_, fun hrest hold => ?_⟩
    · split <;> simp [State.str, State.calResult]
    · split <;> simp [State.str, State.calResult]
    · split <;> simp [State.str, State.calResult]
    · rw [if_pos (by simp [hrest, hold])]
      exact State.on_raise_none _ _ _ _ _ (by decide) rfl rfl
  case frame =>
    intro s n above marker h10 hl hm
    have hexec := exec_modulationFrame s above marker h10 hl hm
    obtain ⟨hovr, hlock, k, hspl⟩ := s.frameOpened_shows n above
    have hk := ((s.frameOpened n above).takeMarker n marker).frameSent_only n
    refine ⟨_, hexec, exec_only_of_fits hexec (by simp only [footprint]; decide +kernel), ?_⟩
    rw [State.kept_on hk _ rfl, State.kept_on hk _ rfl, State.kept_spl hk rfl]
    refine ⟨(State.takeMarker_ovr _ n marker).trans hovr, fun hs hmk hseen => ?_, fun hs => ?_⟩
    · subst hmk
      exact State.takeMarker_locks _ n (hlock.trans hs) (by rwa [hspl])
    · obtain ⟨hon, hb⟩ := State.takeMarker_locked (s.frameOpened n above) marker (hlock.trans hs)
      rw [hb, hspl]
      exact ⟨hon, rfl, fun h0 hmk => by simp [h0, hmk]⟩
  case lost =>
    intro s n h10 hl h3
    have hexec := exec_markerLost s h10 hl h3
    refine ⟨_, hexec, exec_only_of_fits hexec (by simp only [footprint]; decide +kernel), ?_,
      State.on_raise_one _ _ _ _ _ n (by decide) rfl rfl, ?_⟩
    · have hev (t : State) : (t.splEvent n .SPLC_EVT_MARKER_LOST 0x5007).on .SPLC_STAT_MF_LOCK n = t.on .SPLC_STAT_MF_LOCK n :=
        State.kept_on (State.splEvent_kept t n _ _ (m := eventFoot [.SPLC_EVT] []) (State.kept_refl _ t) rfl rfl) _ rfl _ _ _
      rw [hev, State.on, State.rd_wr_one _ _ _ (by decide)]
      rfl
    · simp [State.splEvent, State.spl]
  case demand =>
    intro s n f demand h10
    have hexec : exec (.tapDemandReport n f demand) s = _ := act_next s 10 _ h10
    refine ⟨_, hexec, exec_only_of_fits hexec (by simp only [footprint]; decide +kernel), fun hf ht => ?_, fun ht => if_neg (by simp [ht])⟩
    rw [if_pos (by rw [hf, ht]; rfl), State.rd_wr_two _ _ n f (by decide)]
    exact Nat.mod_eq_of_lt (show max 3 (min 63 (oddUp demand)) < 64 by omega)
  case estimate =>
    intro s n est h10
    have hexec : execEstimateRefresh n est s = _ := act_next s 10 _ h10
    have hmin (m v : Nat) : min m v % (m + 1) = min m v := Nat.mod_eq_of_lt (by omega)
    refine ⟨_, hexec, exec_only_of_fits (c := .estimateRefresh n est) hexec (by simp only [footprint]; decide +kernel), ?_, ?_, ?_, ?_, ?_, ?_⟩
    · rintro f x y c rfl ht hf
      dsimp only
      rw [if_pos (by rw [ht, hf]; rfl)]
      exact s.takeSnr_shows n f x y c
    · rintro v rfl ht
      dsimp only
      rw [if_pos ht, State.rd_wr_one _ _ _ (by decide)]
      exact Nat.mod_eq_of_lt (ranged_lt _ _)
    · rintro v rfl ht
      dsimp only
      rw [State.takeFoff, if_pos ht, State.rd_wr_one _ _ _ (by decide)]
      exact Nat.mod_eq_of_lt (ranged_lt _ _)
    · rintro v guard rfl ht
      dsimp only
      rw [if_pos ht, State.rd_wr_one _ _ _ (by decide)]
      simp only [Bool.and_eq_true, Bool.not_eq_true']
      split
      · rfl
      · exact hmin 4095 v
    · rintro rfl
      dsimp only
      rw [State.rd_setSpl, State.rd_wr_one _ _ _ (by decide), State.setSpl_spl]
      exact ⟨hmin 65535 _, rfl⟩
    · intro ht hfoff hcount
      cases est with
      | foff v => exact absurd rfl (hfoff v)
      | overCount => exact absurd rfl hcount
      | snr f x y c => simp [ht]
      | snrWindow f => simp [ht]
      | dgdSub f v => simp [ht]
      | cd v => simp [ht]
      | dgd v => simp [ht]
      | pdl v => simp [ht]
      | osnr v guard => simp [ht]
      | clockOffset v => simp [ht]
      | sopPeak v => simp [ht]
  case responses =>
    intro s n values h10 h0
    have hexec := exec_chanSwap s values h10 h0
    refine ⟨_, hexec, exec_only_of_fits hexec (by simp only [footprint]; decide +kernel), ?_, fun e => ?_⟩
    · rw [State.kept_rd (State.chanRead_only _ n values) _ rfl, State.incWrap, State.rd_wr_one _ _ _ (by decide)]
      rfl
    · have hentry := (s.incWrap .SPLC_STAT_CHAN_SEQ 1 n).chanRead_entry n values e
      have htr : (s.incWrap .SPLC_STAT_CHAN_SEQ 1 n).tracking n = s.tracking n := by
        unfold State.tracking State.splState State.incWrap; rw [State.rd_wr_apart _ _ _ _ _ _ _ _ (by decide)]
      have hcov : (s.incWrap .SPLC_STAT_CHAN_SEQ 1 n).rxCovers n (e.val / 16) = s.rxCovers n (e.val / 16) :=
        State.kept_rxCovers (State.wr_kept s _ _ _ _ _ (State.kept_refl (footOf [.SPLC_STAT] []) s) rfl) rfl rfl n _
      rw [State.chanEntry, htr, hcov] at hentry
      refine ⟨fun ht hc => ?_, fun h => ?_⟩
      · unfold State.rd
        rw [hentry, if_pos (by simp [ht, hc])]
        exact ⟨by change bits _ 7 0 = _; rw [bits_eq]; omega, by change bits _ 15 8 = _; rw [bits_eq]; omega⟩
      · rw [hentry, if_neg (by simpa [Classical.or_iff_not_imp_left] using h)]
  case slip =>
    intro s n h10 ht
    have hexec : exec (.phaseSlip n) s = _ := act_next s 10 _ h10
    refine ⟨_, hexec, exec_only_of_fits hexec (by simp only [footprint]; decide +kernel), ?_⟩
    rw [if_pos ht, State.rd_count_slip]
  case overhead =>
    intro s n h12 hd
    have hexec := exec_ohSwitchRx s h12 hd
    refine ⟨_, hexec, exec_only_of_fits hexec (by simp only [footprint]; decide +kernel), ?_⟩
    generalize hu : s.setClt n { s.clt n with rxOh := s.rd .CLET_LINE_CFG_OH n, rxDue := false } = u
    have hclt : u.clt n = { s.clt n with rxOh := s.rd .CLET_LINE_CFG_OH n, rxDue := false } := by simp [← hu, State.clt]
    have hstart : u.rxStart n = s.rxStart n := by rw [← hu]; rfl
    by_cases hn : s.loads n = true
    · have hk := State.startRx_kept u n (State.kept_refl _ u) (Foot.refl _)
      rw [if_pos hn, State.kept_clt hk rfl, hclt]
      exact ⟨rfl, rfl, fun _ => hstart ▸ u.startRx_shows n⟩
    · rw [if_neg hn, hclt]
      exact ⟨rfl, rfl, fun h => absurd h hn⟩

end Sys2Proof.Machine
end

section
/-! A Hub line (R58, R107 to R138): its periods, maps, control blocks, discovery cycles and profiles, and the loading of its downstream; and
the obligation on them. The rounds of the surplus in a map (log entry 16), SWITCHED at a downstream change (log entry 48), the number of
evaluations kept (log entry 49) and the change of a downstream subcarrier at its period (log entry 52) are the model's choices. -/

namespace Sys2Proof.Machine

open Sys2Proof

variable (s : State)

/-! ### What Bight holds of a line and its leaves -/

theorem State.setBgt_bgt (n : Nat) (x : BightInt) : (s.setBgt n x).bgt n = x := by simp [State.bgt]

theorem State.setLeaf_bgt (n i : Nat) (x : LeafInt) :
    (s.setLeaf n i x).bgt n = { s.bgt n with leaves := (s.bgt n).leaves.put {} i x } := s.setBgt_bgt n _

theorem State.setLeaf_leaf (n i : Nat) (x : LeafInt) : (s.setLeaf n i x).leaf n i = x := by
  rw [State.leaf, State.setLeaf_bgt, Tab.get_put_same]

theorem State.setLeaf_leaf_other (n i : Nat) (x : LeafInt) {j : Nat} (h : j ≠ i) : (s.setLeaf n i x).leaf n j = s.leaf n j := by
  rw [State.leaf, State.setLeaf_bgt, Tab.get_put_other _ _ _ _ _ h]
  rfl

/-! ### Hub time (R111) -/

/-- The line's clock, whether its map is due, and the period that it shows, all as before. -/
def State.keepsTime (s : State) (n : Nat) (t : State) : Prop :=
  (t.bgt n).clock = (s.bgt n).clock ∧ (t.bgt n).mapDue = (s.bgt n).mapDue ∧ t.rd .BGHT_STAT_PERIOD n = s.rd .BGHT_STAT_PERIOD n

section
variable {s} {t u : State} {n : Nat}

theorem State.keepsTime_refl : s.keepsTime n s := ⟨rfl, rfl, rfl⟩

theorem State.keepsTime.trans (h : s.keepsTime n t) (h' : t.keepsTime n u) : s.keepsTime n u :=
  ⟨h'.1.trans h.1, h'.2.1.trans h.2.1, h'.2.2.trans h.2.2⟩

theorem State.keepsTime.wr (h : s.keepsTime n t) {f : Fld} (v i j : Nat) (hf : f.apart .BGHT_STAT_PERIOD = true) :
    s.keepsTime n (t.wr f v i j) := h.trans ⟨rfl, rfl, t.rd_wr_apart _ _ _ _ _ _ _ hf⟩

theorem State.keepsTime.setLeaf (h : s.keepsTime n t) (i : Nat) (x : LeafInt) : s.keepsTime n (t.setLeaf n i x) :=
  h.trans ⟨by rw [State.setLeaf_bgt], by rw [State.setLeaf_bgt], rfl⟩

theorem State.keepsTime.sendOnce (h : s.keepsTime n t) (l : List Byte) : s.keepsTime n (t.sendOnce n l) :=
  h.trans ⟨by rw [State.sendOnce, State.sendCtrl, State.setBgt_bgt], by rw [State.sendOnce, State.sendCtrl, State.setBgt_bgt], rfl⟩

theorem State.keepsTime.of_kept (h : s.keepsTime n t) {m : Nat} (hk : t.kept m u) (hb : m.testBit 20 = false)
    (hp : m.testBit (regBit .BGHT_STAT) = false) : s.keepsTime n u :=
  h.trans ⟨by rw [State.kept_bgt hk hb], by rw [State.kept_bgt hk hb], State.kept_rd hk _ hp _ _ _⟩

theorem State.keepsTime.each (h : s.keepsTime n t) {l : List Nat} {f : Nat → State → State}
    (hf : ∀ i u, s.keepsTime n u → s.keepsTime n (f i u)) : s.keepsTime n (t.each l f) :=
  t.each_holds (s.keepsTime n) h fun i _ u hu => hf i u hu

theorem State.keepsTime.goStale (h : s.keepsTime n t) (i : Nat) : s.keepsTime n (t.goStale n i) := by
  unfold State.goStale
  split
  · have hcount : s.keepsTime n (((t.wr .BGHT_LEAF_ST_STATE 3 n i).wr .BGHT_LEAF_ST_DGASP 0 n i).countLeaves n) := by
      unfold State.countLeaves
      exact ((((h.wr _ _ _ (by decide)).wr _ _ _ (by decide)).wr _ _ _ (by decide)).wr _ _ _ (by decide)).wr _ _ _ (by decide)
    have hstate : s.keepsTime n (t.setLeafState n i 3) := by
      unfold State.setLeafState
      refine hcount.each fun c u hu => ?_
      split
      · exact hu.of_kept (State.refreshEgress_kept u c (State.kept_refl _ u) (Foot.refl _)) rfl rfl
      · exact hu
    exact hstate.of_kept (m := eventFoot [.BGHT_EVT] []) (State.raise_kept _ _ _ _ _ _ _ (State.kept_refl _ _) rfl rfl) rfl rfl
  · exact h

theorem State.keepsTime.setProfile (h : s.keepsTime n t) (i : Nat) (p : Profile) : s.keepsTime n (t.setProfile n i p) :=
  ((h.setLeaf i _).wr _ _ _ (by decide)).wr _ _ _ (by decide)

/-- What a period does to a leaf leaves hub time. -/
theorem State.keepsTime.leafPeriod (h : s.keepsTime n t) (i : Nat) : s.keepsTime n (t.leafPeriod n i) := by
  have hite {c : Prop} [Decidable c] {a b : State} (ha : s.keepsTime n a) (hb : s.keepsTime n b) : s.keepsTime n (if c then a else b) := by
    split <;> assumption
  unfold State.leafPeriod
  lift_lets
  intro c x s1 s2 v s3 src s4 s5
  have h1 : s.keepsTime n s1 := h.setLeaf i _
  have h2 : s.keepsTime n s2 := hite h1 (h1.wr _ _ _ (by decide))
  have h3 : s.keepsTime n s3 := hite h2 (h2.wr _ _ _ (by decide))
  have h4 : s.keepsTime n s4 := h3.setLeaf i _
  have h5 : s.keepsTime n s5 := hite (h4.goStale i) h4
  split
  · next p eff left _ =>
    have h6 : s.keepsTime n (if left = 0 then s5 else s5.sendOnce n (profileMsg i p eff)) := hite h5 (h5.sendOnce _)
    exact hite ((h6.setProfile i p).setLeaf i _) (h6.setLeaf i _)
  · exact h5

end

/-- Hub time advanced: the clock, the map that falls due, and what is over. -/
def State.periodOpened (s : State) (n : Nat) : State :=
  let b := s.bgt n
  let c := b.clock + 1
  (s.setBgt n { b with
    clock := c, mapDue := true, msgs := b.msgs.filter (fun m => m.till.all fun t => c ≤ t),
    grants := b.grants.filter (fun g => c ≤ g.period + 8),
    reserved := b.reserved.filter fun r => c * 15625 ≤ r.2.2 + 15625 }).wr .BGHT_STAT_PERIOD (c % 2 ^ 22) n

theorem State.periodOpened_bgt (n : Nat) :
    ((s.periodOpened n).bgt n).clock = (s.bgt n).clock + 1 ∧ ((s.periodOpened n).bgt n).mapDue = true := by
  have hwr (t : State) (v : Nat) : (t.wr .BGHT_STAT_PERIOD v n).bgt n = t.bgt n := rfl
  rw [State.periodOpened, hwr, State.setBgt_bgt]
  exact ⟨rfl, rfl⟩

/-- The rest of a period's start: each leaf, and the messages of each subcarrier bound to one. -/
def State.periodRuns (s : State) (n : Nat) : State :=
  let t := s.each (s.leavesOn n) fun i t => t.leafPeriod n i
  let bound := (t.leavesOn n).map fun i => t.rd .BGHT_LEAF_DN_SC n i
  t.each ((List.range 32).filter fun f => bound.contains f) fun f t => t.sendOnce n (t.loadMsg n f)

theorem exec_periodStart {n : Line} (h11 : s.alive 11 = true) (h : s.lineMode n = 2) :
    exec (.periodStart n) s = .next ((s.periodOpened n).periodRuns n) := by
  change execPeriodStart n s = _
  unfold execPeriodStart
  rw [act_next s 11 _ h11, if_neg (by simp [h])]
  rfl

theorem State.periodRuns_keepsTime (n : Nat) : s.keepsTime n (s.periodRuns n) :=
  (State.keepsTime_refl.each fun i _ h => h.leafPeriod i).each fun _ _ h => h.sendOnce _

/-! ### The shares of a map (R138) -/

theorem le_skipWindows (wins : List (Nat × Nat)) (pos len : Nat) : pos ≤ skipWindows wins pos len := by
  unfold skipWindows
  induction wins generalizing pos with
  | nil => exact le_rfl
  | cons w r ih =>
    refine le_trans ?_ (ih _)
    dsimp only
    split <;> omega

/-- One share placed after a position. -/
def placeStep (wins : List (Nat × Nat)) (pos : Nat) (x : Share) : Nat :=
  match x.got with
  | none => pos
  | some p => skipWindows wins pos (x.ovh + p) + x.ovh + p

theorem placeEnd_eq (wins : List (Nat × Nat)) (l : List Share) : placeEnd wins l = l.foldl (placeStep wins) 0 := rfl

theorem le_foldl_placeStep (wins : List (Nat × Nat)) (l : List Share) (pos : Nat) : pos ≤ l.foldl (placeStep wins) pos := by
  induction l generalizing pos with
  | nil => exact le_rfl
  | cons x r ih =>
    have hskip (len : Nat) := le_skipWindows wins pos len
    have hstep : pos ≤ placeStep wins pos x := by
      unfold placeStep
      split
      · exact le_rfl
      · next p _ => have := hskip (x.ovh + p); omega
    exact hstep.trans (ih _)

/-- Every burst placed ends before the end of the last. -/
theorem placeBursts_within (f period : Nat) (wins : List (Nat × Nat)) (l : List Share) (pos : Nat) :
    ∀ g ∈ placeBursts f period wins l pos, g.period = period ∧ g.start + g.len ≤ l.foldl (placeStep wins) pos := by
  induction l generalizing pos with
  | nil => simp [placeBursts]
  | cons x r ih =>
    intro g hg
    rw [List.foldl_cons]
    unfold placeBursts at hg
    cases hgot : x.got with
    | none =>
      rw [placeStep, hgot]
      simp only [hgot] at hg
      exact ih pos g hg
    | some p =>
      rw [placeStep, hgot]
      simp only [hgot, List.mem_cons] at hg
      dsimp only
      rw [Nat.add_assoc]
      rcases hg with rfl | hg
      · exact ⟨rfl, le_foldl_placeStep wins r _⟩
      · exact ih _ g hg

/-- A change of a deficit moves no burst. -/
theorem placeEnd_deficit (wins : List (Nat × Nat)) (pre post : List Share) (x : Share) (d : Nat) :
    placeEnd wins (pre ++ { x with deficit := d } :: post) = placeEnd wins (pre ++ x :: post) := by
  simp only [placeEnd_eq, List.foldl_append, List.foldl_cons]
  rfl

theorem fitMost_holds {p : Nat → Bool} {k g : Nat} (h : fitMost p k = some g) : p g = true := by
  induction k with
  | zero =>
    unfold fitMost at h
    split at h
    · next hp => cases h; exact hp
    · cases h
  | succ k ih =>
    unfold fitMost at h
    split at h
    · next hp => cases h; exact hp
    · exact ih h

/-- A share given more leaves the map whole in its period. -/
theorem giveShare_within (wins : List (Nat × Nat)) (pre post : List Share) (x : Share) (more : Nat)
    (h : placeEnd wins (pre ++ x :: post) ≤ 15625) : placeEnd wins (pre ++ giveShare wins pre post x more :: post) ≤ 15625 := by
  unfold giveShare
  split
  · next hfit =>
    split
    · simpa using fitMost_holds hfit
    · exact h
  · next hfit => simpa using fitMost_holds hfit
  · exact h

theorem giveAll_within (wins : List (Nat × Nat)) (ask : Share → Option Nat) (pre r : List Share) (h : placeEnd wins (pre ++ r) ≤ 15625) :
    placeEnd wins (giveAll wins ask pre r) ≤ 15625 := by
  induction r generalizing pre with
  | nil => simpa [giveAll] using h
  | cons x r ih =>
    unfold giveAll
    split
    · exact ih _ (by simpa using giveShare_within wins pre r x _ h)
    · exact ih _ (by simpa using h)

theorem surplusRound_within (wins : List (Nat × Nat)) (pre r : List Share) (h : placeEnd wins (pre ++ r) ≤ 15625) :
    placeEnd wins (surplusRound wins pre r) ≤ 15625 := by
  induction r generalizing pre with
  | nil => simpa [surplusRound] using h
  | cons x r ih =>
    unfold surplusRound
    dsimp only
    split
    · refine ih _ ?_
      rw [List.append_assoc, List.singleton_append, placeEnd_deficit]
      exact h
    · refine ih _ ?_
      rw [List.append_assoc, List.singleton_append, placeEnd_deficit]
      exact giveShare_within wins pre r x _ h

theorem surplus_within (wins : List (Nat × Nat)) (fuel : Nat) (l : List Share) (h : placeEnd wins l ≤ 15625) :
    placeEnd wins (surplus wins fuel l) ≤ 15625 := by
  induction fuel generalizing l with
  | zero => exact h
  | succ fuel ih =>
    unfold surplus
    dsimp only
    split
    · exact h
    · exact ih _ (surplusRound_within wins [] l h)

theorem placeEnd_none (wins : List (Nat × Nat)) (l : List Share) (h : ∀ x ∈ l, x.got = none) : placeEnd wins l = 0 := by
  rw [placeEnd_eq]
  induction l with
  | nil => rfl
  | cons x r ih =>
    rw [List.foldl_cons, placeStep, h x (by simp)]
    exact ih fun y hy => h y (List.mem_cons_of_mem x hy)

/-- The shares of a map leave every burst whole in its period. -/
theorem State.shares_within (n f : Nat) (wins : List (Nat × Nat)) : placeEnd wins (s.shares n f wins) ≤ 15625 := by
  unfold State.shares
  refine surplus_within _ _ _ (giveAll_within _ _ _ _ (giveAll_within _ _ _ _ (giveAll_within _ _ _ _ ?_)))
  rw [List.nil_append, placeEnd_none]
  · decide
  · simp only [List.mem_map]
    rintro x ⟨i, -, rfl⟩
    rfl

/-! ### A map completed (R116, R136, R138) -/

/-- A grant of a period; a normal burst ends within it. -/
def BurstGrant.fits (period : Nat) (g : BurstGrant) : Prop := g.period = period ∧ (g.ranging = false → g.start + g.len ≤ 15625)

/-- Only grants of a period that fit are added to the line's, and its map stays due or not. -/
def State.addsGrants (s : State) (n period : Nat) (t : State) : Prop :=
  (t.bgt n).mapDue = (s.bgt n).mapDue ∧ ∃ l, (t.bgt n).grants = (s.bgt n).grants ++ l ∧ ∀ g ∈ l, g.fits period

section
variable {s} {t u : State} {n period : Nat}

theorem State.addsGrants.of_same (hm : (t.bgt n).mapDue = (s.bgt n).mapDue) (hg : (t.bgt n).grants = (s.bgt n).grants) :
    s.addsGrants n period t := ⟨hm, [], by simpa using hg, by simp⟩

theorem State.addsGrants.trans (h : s.addsGrants n period t) (h' : t.addsGrants n period u) : s.addsGrants n period u := by
  obtain ⟨hm, l, hl, hfit⟩ := h
  obtain ⟨hm', l', hl', hfit'⟩ := h'
  refine ⟨hm'.trans hm, l ++ l', by rw [hl', hl, List.append_assoc], fun g hg => ?_⟩
  rcases List.mem_append.mp hg with hg | hg
  · exact hfit g hg
  · exact hfit' g hg

theorem State.addsGrants.foldl {α : Type} {l : List α} {f : State → α → State} (h : s.addsGrants n period t)
    (hf : ∀ u : State, ∀ a ∈ l, u.addsGrants n period (f u a)) : s.addsGrants n period (l.foldl f t) :=
  List.foldlRecOn l f h fun u hu a ha => hu.trans (hf u a ha)

theorem State.grant_addsGrants {g : BurstGrant} (h : g.fits period) : s.addsGrants n period (s.grant n g) := by
  unfold State.grant State.sendMap State.sendCtrl
  exact ⟨by simp [State.setBgt_bgt], [g], by simp [State.setBgt_bgt], by simpa using h⟩

theorem State.setLeaf_addsGrants (i : Nat) (x : LeafInt) : s.addsGrants n period (s.setLeaf n i x) :=
  .of_same (by rw [State.setLeaf_bgt]) (by rw [State.setLeaf_bgt])

theorem State.invite_addsGrants (p : Nat) : s.addsGrants n period (s.invite n p) := by
  unfold State.invite State.each
  dsimp only
  split
  · exact .of_same rfl rfl
  · refine State.addsGrants.foldl (.of_same (by rw [State.setBgt_bgt]) (by rw [State.setBgt_bgt])) fun u f _ => ?_
    unfold State.sendMap State.sendCtrl
    exact .of_same (by simp [State.setBgt_bgt]) (by simp [State.setBgt_bgt])

theorem State.rangeLeaf_addsGrants (i : Nat) : s.addsGrants n period (s.rangeLeaf n period i) := by
  have hreserved (r : List (Nat × Nat × Nat)) (g : Tab Nat) : s.addsGrants n period
      ((s.setBgt n { s.bgt n with reserved := r, ranged := g }).inc .BGHT_LEAF_ST_RNG_TRIES 1 n i) := by
    have hb : ((s.setBgt n { s.bgt n with reserved := r, ranged := g }).inc .BGHT_LEAF_ST_RNG_TRIES 1 n i).bgt n =
        { s.bgt n with reserved := r, ranged := g } := s.setBgt_bgt n _
    exact .of_same (by rw [hb]) (by rw [hb])
  unfold State.rangeLeaf
  dsimp only
  split
  · exact .of_same rfl rfl
  · exact (hreserved _ _).trans (State.grant_addsGrants (by simp [BurstGrant.fits]))

theorem State.mapSub_addsGrants (f : Nat) : s.addsGrants n period (s.mapSub n period f) := by
  have hshares := s.shares_within n f (s.periodWindows n f period)
  unfold State.mapSub
  dsimp only
  generalize s.periodWindows n f period = wins at hshares
  generalize s.shares n f wins = l at hshares
  have hdeficits : s.addsGrants n period
      (l.foldl (fun t x => t.setLeaf n x.leaf { t.leaf n x.leaf with deficit := x.deficit }) s) :=
    State.addsGrants.foldl (.of_same rfl rfl) fun u x _ => State.setLeaf_addsGrants _ _
  refine State.addsGrants.foldl (hdeficits.trans ?_) fun u g hg => ?_
  · split
    · exact .of_same (by rw [State.setBgt_bgt]) (by rw [State.setBgt_bgt])
    · exact .of_same rfl rfl
  · obtain ⟨hp, hend⟩ := placeBursts_within f period wins l 0 g hg
    exact (State.setLeaf_addsGrants _ _).trans (State.grant_addsGrants ⟨hp, fun _ => hend.trans hshares⟩)

end

/-- The map: invitations, ranging attempts, and each subcarrier's bursts. -/
def State.mapped (s : State) (n period : Nat) : State :=
  let s := s.invite n period
  let s := s.each ((s.leavesOn n).filter fun i => s.leafState n i == 1) fun i t => t.rangeLeaf n period i
  s.each (s.firstSlots .BGHT_UP_CFG_WIDTH n) fun f t => t.mapSub n period f

theorem State.mapped_addsGrants (n period : Nat) : s.addsGrants n period (s.mapped n period) :=
  (State.addsGrants.foldl (State.invite_addsGrants _) fun _ _ _ => State.rangeLeaf_addsGrants _).foldl fun _ _ _ =>
    State.mapSub_addsGrants _

theorem exec_mapComplete {n : Line} (h11 : s.alive 11 = true) (h : s.lineMode n = 2) (hd : (s.bgt n).mapDue = true) :
    exec (.mapComplete n) s = .next ((s.setBgt n { s.bgt n with mapDue := false }).mapped n
      ((s.bgt n).clock + s.rd .BGHT_LINE_CFG_MAP_LEAD n)) := by
  change execMapComplete n s = _
  unfold execMapComplete
  rw [act_next s 11 _ h11]
  dsimp only
  rw [if_neg (by simp [h, hd])]
  rfl

/-! ### Control blocks (R113) -/

/-- The bytes of a control block up to its CRC. -/
def State.blockBody (s : State) (n offset : Nat) : List Byte :=
  leBytes 6 (s.rd .BGHT_STAT_PERIOD n <<< 26 + offset % 2 ^ 26) ++ leBytes 2 (s.bgt n).blockSeq ++
    padTo 112 ((packBlock ((s.bgt n).blockSeq / 8) 14 (s.bgt n).msgs).1.flatMap fun m => m.units) ++ [0, 0]

/-- A block's symbols join those to send, and its messages are counted. -/
def State.blockCoded (s : State) (n : Nat) (block : List Byte) : State :=
  let b := s.bgt n
  s.setBgt n { b with
    blockSeq := b.blockSeq + 1
    msgs := (packBlock (b.blockSeq / 8) 14 b.msgs).2.filter (fun m => m.left != 0)
    ctrlSyms := b.ctrlSyms ++ controlPairs (trellisEncode (block.flatMap fun v => (List.range 8).map fun i => v.getLsbD i)) }

theorem exec_controlBlock {n : Line} (offset : Nat) (h11 : s.alive 11 = true) (h : s.on .BGHT_STAT_CTRL_OK n = true) :
    exec (.controlBlock n offset) s = .next (((packBlock ((s.bgt n).blockSeq / 8) 14 (s.bgt n).msgs).1.foldl (fun t m => t.copySent n m)
      (s.blockCoded n (withCrc (s.blockBody n offset)))).emit (.controlBlock n (withCrc (s.blockBody n offset)))) := by
  change execControlBlock n offset s = _
  unfold execControlBlock
  rw [act_next s 11 _ h11, if_neg (by simp [h])]
  rfl

/-- What leaves with a block: the number and the symbols of the line's blocks stay. -/
theorem State.copySent_blocks (n : Nat) (m : CtrlMsg) : ((s.copySent n m).bgt n).blockSeq = (s.bgt n).blockSeq ∧
    ((s.copySent n m).bgt n).ctrlSyms = (s.bgt n).ctrlSyms := by
  have hfinish (t : State) (h : Nat) : (t.finish h 0 0 [] []).bgt n = t.bgt n :=
    State.kept_bgt (State.finish_kept t h 0 0 [] [] (State.kept_refl _ t) (Foot.refl _)) rfl n
  have hassign (i : Nat) (x : LeafInt) : ((s.setLeaf n i x).bgt n).blockSeq = (s.bgt n).blockSeq ∧
      ((s.setLeaf n i x).bgt n).ctrlSyms = (s.bgt n).ctrlSyms := by simp [State.setLeaf_bgt]
  unfold State.copySent
  dsimp only
  split <;> split
  · rw [hfinish]; exact hassign _ _
  · rw [hfinish]; exact ⟨rfl, rfl⟩
  · exact hassign _ _
  · exact ⟨rfl, rfl⟩

theorem State.copiesSent_blocks (n : Nat) (l : List CtrlMsg) : ((l.foldl (fun t m => t.copySent n m) s).bgt n).blockSeq = (s.bgt n).blockSeq ∧
    ((l.foldl (fun t m => t.copySent n m) s).bgt n).ctrlSyms = (s.bgt n).ctrlSyms :=
  List.foldlRecOn l _ (motive := fun t : State => (t.bgt n).blockSeq = (s.bgt n).blockSeq ∧ (t.bgt n).ctrlSyms = (s.bgt n).ctrlSyms) ⟨rfl, rfl⟩
    fun (t : State) ht m _ => ⟨(t.copySent_blocks n m).1.trans ht.1, (t.copySent_blocks n m).2.trans ht.2⟩

theorem leBytes_length (k v : Nat) : (leBytes k v).length = k := by
  induction k generalizing v with
  | zero => rfl
  | succ k ih => simp [leBytes, ih]

/-- A block begins with its hub time and its number. -/
theorem State.blockBody_head (n offset : Nat) : (withCrc (s.blockBody n offset)).take 8 =
    leBytes 6 (s.rd .BGHT_STAT_PERIOD n * 2 ^ 26 + offset % 2 ^ 26) ++ leBytes 2 (s.bgt n).blockSeq := by
  rw [withCrc, State.blockBody, Nat.shiftLeft_eq]
  simp only [List.append_assoc]
  rw [← List.append_assoc]
  exact List.take_left' (by simp [leBytes_length])

/-! ### Discovery and silence (R131, R134, R136) -/

/-- The ranging attempts of a leaf begun anew. -/
def State.attemptsReset (s : State) (n cycle i : Nat) : State :=
  (s.wr .BGHT_LEAF_ST_RNG_TRIES 0 n i).setLeaf n i { s.leaf n i with fails := (s.leaf n i).fails.filter fun e => cycle ≤ e.1 }

/-- Whether a leaf is to be found. -/
def State.findsLeaf (s : State) (n : Nat) : Bool := (s.leavesOn n).any fun i => s.leafState n i == 0 || s.leafState n i == 4

/-- A discovery cycle opened: its number, and its invitations where a leaf is to be found. -/
def State.cycleOpened (s : State) (n : Nat) : State :=
  s.setBgt n { s.bgt n with
    ranged := [], cycle := (s.bgt n).cycle + 1,
    discDue := (s.bgt n).discDue || (s.on .BGHT_DISC_CFG_DISC_ON n && s.findsLeaf n) }

theorem exec_discoveryCycle {n : Line} (h11 : s.alive 11 = true) (h : s.lineMode n = 2) :
    exec (.discoveryCycle n) s = .next ((s.cycleOpened n).each (s.leavesOn n) fun i t => t.attemptsReset n (s.bgt n).cycle i) := by
  change execDiscoveryCycle n s = _
  unfold execDiscoveryCycle
  rw [act_next s 11 _ h11, if_neg (by simp [h])]
  rfl

theorem State.each_attemptsReset_bgt (n cycle : Nat) (l : List Nat) :
    ∃ x, (s.each l fun i t => t.attemptsReset n cycle i).bgt n = { s.bgt n with leaves := x } := by
  refine s.each_holds (fun t => ∃ x, t.bgt n = { s.bgt n with leaves := x }) ⟨_, rfl⟩ fun i _ t ⟨x, ht⟩ => ?_
  have hb : (t.wr .BGHT_LEAF_ST_RNG_TRIES 0 n i).bgt n = t.bgt n := rfl
  exact ⟨_, by rw [State.attemptsReset, State.setLeaf_bgt, hb, ht]⟩

theorem State.each_attemptsReset_tries (n : Line) (cycle : Nat) {l : List Nat} {i : Nat} (hi : i ∈ l) (hlt : i < 256) :
    (s.each l fun i t => t.attemptsReset n cycle i).rd .BGHT_LEAF_ST_RNG_TRIES n i = 0 := by
  have hrd (t : State) (j : Nat) : (t.attemptsReset n cycle j).rd .BGHT_LEAF_ST_RNG_TRIES n i =
      (t.wr .BGHT_LEAF_ST_RNG_TRIES 0 n j).rd .BGHT_LEAF_ST_RNG_TRIES n i := rfl
  refine s.each_sets (fun _ => True) (fun t => t.rd .BGHT_LEAF_ST_RNG_TRIES n i = 0) hi trivial (fun _ _ _ _ => trivial)
    (fun t _ => ?_) fun j _ hj t ht => ?_
  · rw [hrd]
    exact t.rd_wr_two 0 n (⟨i, hlt⟩ : Leaf) (by decide)
  · rw [hrd, State.rd_wr_second _ _ _ _ _ _ (Ne.symm hj)]
    exact ht

theorem exec_staleTimeout {n : Line} {i : Leaf} (h11 : s.alive 11 = true) : exec (.staleTimeout n i) s = .next
    (if 8000 * s.rd .BGHT_DISC_CFG_STALE_S n < (s.leaf n i).heard then s.goStale n i
      else if (s.leaf n i).heard = 8000 * s.rd .BGHT_DISC_CFG_STALE_S n then s.setLeaf n i { s.leaf n i with staleDue := true }
      else s) := by
  change execStaleTimeout n i s = _
  unfold execStaleTimeout
  rw [act_next s 11 _ h11]
  rfl

/-- A leaf that enters a state shows it. -/
theorem State.setLeafState_leafState (n : Line) (i : Leaf) {st : Nat} (h : st < 8) : (s.setLeafState n i st).leafState n i = st := by
  unfold State.setLeafState State.countLeaves State.leafState
  refine State.each_holds _ (fun t => t.rd .BGHT_LEAF_ST_STATE n i = st) ?_ fun c _ t ht => ?_
  · rw [State.rd_wr_apart _ _ _ _ _ _ _ _ (by decide), State.rd_wr_apart _ _ _ _ _ _ _ _ (by decide),
      State.rd_wr_apart _ _ _ _ _ _ _ _ (by decide), State.rd_wr_apart _ _ _ _ _ _ _ _ (by decide), State.rd_wr_two _ _ n i (by decide)]
    exact Nat.mod_eq_of_lt h
  · split
    · exact (State.kept_rd (State.refreshEgress_kept t c (State.kept_refl _ t) (Foot.refl _)) _ rfl _ _ _).trans ht
    · exact ht

/-- An Active leaf that goes Stale. -/
theorem State.goStale_shows (n : Line) (i : Leaf) (h : s.leafState n i = 2) :
    (s.goStale n i).leafState n i = 3 ∧ (s.goStale n i).on .BGHT_EVT_STALE n = true := by
  rw [State.goStale, if_pos h]
  refine ⟨?_, State.on_raise_one _ _ _ _ _ n (by decide) rfl rfl⟩
  have hk := State.leafEvent_kept (s.setLeafState n i 3) n i .BGHT_EVT_STALE 0x5802 (m := eventFoot [.BGHT_EVT] []) (State.kept_refl _ _) rfl rfl
  exact (State.kept_rd hk _ rfl _ _ _).trans (s.setLeafState_leafState n i (by decide))

/-! ### Profiles upstream (R58, R118) -/

/-- The sum of an evaluation put in front of the past ones. -/
def State.leafAveraged (s : State) (n i : Nat) : State :=
  s.setLeaf n i { s.leaf n i with sum := (0, 0), past := ((s.leaf n i).sum :: (s.leaf n i).past).take (s.dwellCount n) }

/-- The profile that an evaluation chooses, announced where it is another. -/
def State.profileChosen (s : State) (n i : Nat) (sum : Nat × Nat) : State :=
  let x := s.leaf n i
  let (b, e) := (s.chooseLoad n sum x.past (x.prof.base, x.prof.ent) (s.rd .BGHT_LEAF_UP_FLOOR_ENT n i)
    (s.rd .BGHT_LEAF_UP_CEIL_ENT n i)).1
  if (b, e) = (x.prof.base, x.prof.ent) then s else s.announce n i { id := x.prof.id % 15 + 1, base := b, ent := e }

theorem State.leafAveraged_leaf (n i : Nat) : (s.leafAveraged n i).leaf n i =
    { s.leaf n i with sum := (0, 0), past := ((s.leaf n i).sum :: (s.leaf n i).past).take (s.dwellCount n) } := s.setLeaf_leaf n i _

theorem exec_upProfileEvaluation {n : Line} {i : Leaf} (h11 : s.alive 11 = true) (h : s.lineMode n = 2) (h2 : s.leafState n i = 2) :
    exec (.upProfileEvaluation n i) s = .next (if (s.leaf n i).sum.2 = 0 || (s.leaf n i).profDue.isSome then s.leafAveraged n i
      else (s.leafAveraged n i).profileChosen n i (s.leaf n i).sum) := by
  change execUpProfileEvaluation n i s = _
  unfold execUpProfileEvaluation
  rw [act_next s 11 _ h11]
  dsimp only
  rw [if_neg (by simp [h, h2]), State.profileChosen, State.leafAveraged_leaf]
  rfl

theorem State.profileChosen_leaf (n i : Nat) (sum : Nat × Nat) :
    ∃ d, (s.profileChosen n i sum).leaf n i = { s.leaf n i with profDue := d } := by
  unfold State.profileChosen
  dsimp only
  split
  · exact ⟨_, rfl⟩
  · exact ⟨_, s.setLeaf_leaf n i _⟩

/-! ### The loading of the downstream (R58, R118) -/

/-- The sums of the leaves bound to a subcarrier begun anew. -/
def State.dnSumsReset (s : State) (n f : Nat) : State :=
  s.each (s.leavesOn n) fun i t => if t.rd .BGHT_LEAF_DN_SC n i = f then t.setLeaf n i { t.leaf n i with dnSum := (0, 0) } else t

/-- The average of a subcarrier put in front of its past ones. -/
def State.dnAveraged (s : State) (n f : Nat) (avg : Nat × Nat) : State :=
  s.setBgt n { s.bgt n with dnPast := (s.bgt n).dnPast.put [] f ((avg :: (s.bgt n).dnPast.get [] f).take (s.dwellCount n)) }

/-- The change that an evaluation chooses, due where it is one and none is. -/
def State.dnChosen (s : State) (n f : Nat) (avg : Nat × Nat) (past : List (Nat × Nat)) : State :=
  let now := (s.rd .BRAD_SC_ACT_BASE n f, s.rd .BRAD_SC_ACT_ENT n f)
  let (p, held) := s.chooseLoad n avg past now (s.rd .BRAD_SC_LOAD_FLOOR_ENT n f) (s.effCeil n f)
  let s := s.holdFloor n f held
  let b := s.bgt n
  if p = now ∨ (b.dnDue.any fun e => e.1 == f) then s
  else s.setBgt n { b with dnDue := b.dnDue.insert f (p.1, p.2, b.clock + s.rd .BGHT_LINE_CFG_DN_LEAD n) }

theorem exec_dnLoadingEvaluation {n : Line} {f : Slot} (h11 : s.alive 11 = true) (h : s.lineMode n = 2)
    (hw : s.rd .BRAD_SC_CFG_WIDTH n f ≠ 0) (hf : f.val ≠ s.rd .BGHT_LINE_CFG_CTRL_SLOT n) :
    ∃ past, exec (.dnLoadingEvaluation n f) s = .next (match s.dnAverage n f with
      | none => (s.dnSumsReset n f).dnAveraged n f (0, 0)
      | some a => ((s.dnSumsReset n f).dnAveraged n f a).dnChosen n f a past) := by
  change ∃ past, execDnLoadingEvaluation n f s = _
  unfold execDnLoadingEvaluation
  rw [act_next s 11 _ h11, if_neg (by simp [h, hw, hf])]
  dsimp only
  cases s.dnAverage n f with
  | none => exact ⟨[], rfl⟩
  | some a => exact ⟨_, rfl⟩

/-- The sums begun anew change nothing but the leaves. -/
theorem State.dnSumsReset_keeps (n f : Nat) :
    (s.dnSumsReset n f).regs = s.regs ∧ ∃ x, (s.dnSumsReset n f).bgt n = { s.bgt n with leaves := x } := by
  refine s.each_holds (fun t => t.regs = s.regs ∧ ∃ x, t.bgt n = { s.bgt n with leaves := x }) ⟨rfl, _, rfl⟩
    fun i _ t ⟨hr, x, ht⟩ => ?_
  split
  · exact ⟨hr, _, by rw [State.setLeaf_bgt, ht]⟩
  · exact ⟨hr, x, ht⟩

theorem State.dnSumsReset_leaf (n f : Nat) {i : Nat} (hi : i ∈ s.leavesOn n) (hf : s.rd .BGHT_LEAF_DN_SC n i = f) :
    ((s.dnSumsReset n f).leaf n i).dnSum = (0, 0) := by
  refine s.each_sets (fun t => t.regs = s.regs) (fun t => (t.leaf n i).dnSum = (0, 0)) hi rfl (fun j _ t ht => ?_) (fun t ht => ?_)
    fun j _ hj t ht => ?_
  · split
    · exact ht
    · exact ht
  · have hsame : t.rd .BGHT_LEAF_DN_SC n i = f := by rw [← hf, State.rd, State.reg, ht]; rfl
    rw [if_pos hsame, State.setLeaf_leaf]
  · split
    · rw [State.setLeaf_leaf_other _ _ _ _ (Ne.symm hj)]; exact ht
    · exact ht

/-- An average taken, with the sums begun anew: of the line, the leaves and the past averages of the subcarrier. -/
theorem State.dnAveraged_bgt (n f : Nat) (avg : Nat × Nat) : ∃ x, ((s.dnSumsReset n f).dnAveraged n f avg).bgt n =
    { s.bgt n with
      leaves := x, dnPast := (s.bgt n).dnPast.put [] f ((avg :: (s.bgt n).dnPast.get [] f).take (s.dwellCount n)) } ∧
    ∀ i ∈ s.leavesOn n, s.rd .BGHT_LEAF_DN_SC n i = f → (x.get {} i).dnSum = (0, 0) := by
  obtain ⟨hregs, x, hb⟩ := s.dnSumsReset_keeps n f
  have hdwell : (s.dnSumsReset n f).dwellCount n = s.dwellCount n := by
    unfold State.dwellCount State.rd State.reg; rw [hregs]
  refine ⟨x, by rw [State.dnAveraged, State.setBgt_bgt, hdwell, hb], fun i hi hf => ?_⟩
  have hleaf := s.dnSumsReset_leaf n f hi hf
  rwa [State.leaf, hb] at hleaf

/-- A floor that is followed leaves the hub. -/
theorem State.holdFloor_bgt (n f m : Nat) (held : Bool) : (s.holdFloor n f held).bgt m = s.bgt m :=
  State.kept_bgt (State.holdFloor_kept s n f held (State.kept_refl _ s) (Foot.refl _)) rfl m

theorem State.dnChosen_bgt (n f : Nat) (avg : Nat × Nat) (past : List (Nat × Nat)) :
    ∃ d, (s.dnChosen n f avg past).bgt n = { s.bgt n with dnDue := d } := by
  unfold State.dnChosen
  dsimp only
  split
  · exact ⟨_, s.holdFloor_bgt n f n _⟩
  · exact ⟨_, by rw [State.setBgt_bgt, State.holdFloor_bgt]⟩

theorem exec_dnLoadSwitch {n : Line} {f : Slot} {k base ent due : Nat} (h11 : s.alive 11 = true)
    (hd : ((s.bgt n).dnDue.find? fun e => e.1 == f.val) = some (k, base, ent, due)) :
    exec (.dnLoadSwitch n f) s = .next (if (s.bgt n).clock < due then s
      else if f.val = s.rd .BGHT_LINE_CFG_CTRL_SLOT n then s.setBgt n { s.bgt n with dnDue := Tab.erase (s.bgt n).dnDue f }
      else (((s.setBgt n { s.bgt n with dnDue := Tab.erase (s.bgt n).dnDue f }).setAct n f base ent).braidEvent n
        .BRAD_LOAD_EVT_SWITCHED 0x4801).frameShort n) := by
  change execDnLoadSwitch n f s = _
  unfold execDnLoadSwitch
  rw [act_next s 11 _ h11]
  dsimp only
  rw [hd]

theorem Tab.find?_erase {α : Type} (t : Tab α) (k : Nat) : ((Tab.erase t k).find? fun e => e.1 == k) = none := by
  simp [Tab.erase, List.find?_eq_none]

/-- A subcarrier's pair in force. -/
theorem State.setAct_shows (n : Line) (f : Slot) (base ent : Nat) :
    (s.setAct n f base ent).rd .BRAD_SC_ACT_BASE n f = base % 4 ∧ (s.setAct n f base ent).rd .BRAD_SC_ACT_ENT n f = ent % 128 := by
  simp (disch := decide) [State.setAct, State.rd_wr_apart, State.rd_wr_two, Fld.width]

/-- Settles O34: a period's start and a map are their stages, of which hub time and the grants are kept facts; a map's bursts end where its
shares leave them; a block, a cycle, a silence and an evaluation are what each sets. -/
theorem hubTimeMapsAndProfiles : Obligations.HubTimeMapsAndProfiles := by
  unfold Obligations.HubTimeMapsAndProfiles
  refine ⟨?period, ?map, ?block, ?discovery, ?stale, ?profile, ?downstream, ?change⟩
  case period =>
    intro s n h11
    refine ⟨fun h => ?_, fun h => ?_⟩
    · have hexec := exec_periodStart s h11 h
      obtain ⟨hclock, hdue, hperiod⟩ := (s.periodOpened n).periodRuns_keepsTime n
      obtain ⟨hclock', hdue'⟩ := s.periodOpened_bgt n
      refine ⟨_, hexec, exec_only_of_fits hexec (by simp only [footprint]; decide +kernel), hclock.trans hclock', hdue.trans hdue', ?_⟩
      rw [hperiod, State.periodOpened, State.rd_wr_one _ _ _ (by decide)]
      exact Nat.mod_mod _ _
    · change execPeriodStart n s = _
      unfold execPeriodStart
      rw [act_next s 11 _ h11, if_pos (by simp [h])]
  case map =>
    intro s n h11 h hd
    have hexec := exec_mapComplete s h11 h hd
    obtain ⟨hdue, l, hgrants, hfit⟩ := (s.setBgt n { s.bgt n with mapDue := false }).mapped_addsGrants n
      ((s.bgt n).clock + s.rd .BGHT_LINE_CFG_MAP_LEAD n)
    refine ⟨_, hexec, exec_only_of_fits hexec (by simp only [footprint]; decide +kernel), ?_, l, ?_, hfit⟩
    · rw [hdue, State.setBgt_bgt]
    · rw [hgrants, State.setBgt_bgt]
  case block =>
    intro s n offset h11
    refine ⟨fun h => ?_, fun h => ?_⟩
    · have hexec := exec_controlBlock s offset h11 h
      obtain ⟨hseq, hsyms⟩ := (s.blockCoded n (withCrc (s.blockBody n offset))).copiesSent_blocks n
        (packBlock ((s.bgt n).blockSeq / 8) 14 (s.bgt n).msgs).1
      have hb : (s.blockCoded n (withCrc (s.blockBody n offset))).bgt n = _ := s.setBgt_bgt n _
      exact ⟨_, _, hexec, exec_only_of_fits hexec (by simp only [footprint]; decide +kernel), rfl, hseq.trans (by rw [hb]),
        s.blockBody_head n offset, hsyms.trans (by rw [hb])⟩
    · change execControlBlock n offset s = _
      unfold execControlBlock
      rw [act_next s 11 _ h11, if_pos (by simp [h])]
  case discovery =>
    intro s n h11 h
    have hexec := exec_discoveryCycle s h11 h
    obtain ⟨x, hb⟩ := (s.cycleOpened n).each_attemptsReset_bgt n (s.bgt n).cycle (s.leavesOn n)
    have hopen : (s.cycleOpened n).bgt n = _ := s.setBgt_bgt n _
    refine ⟨_, hexec, exec_only_of_fits hexec (by simp only [footprint]; decide +kernel), by rw [hb, hopen],
      fun i hi hlt => State.each_attemptsReset_tries _ n _ hi hlt, fun hoff => ?_, fun i hi hon h0 => ?_⟩
    · rw [hb, hopen]; simp [hoff]
    · have hfinds : s.findsLeaf n = true := List.any_eq_true.mpr ⟨i, hi, by simp [h0]⟩
      rw [hb, hopen]; simp [hon, hfinds]
  case stale =>
    intro s n i h11
    have hexec := exec_staleTimeout s h11 (n := n) (i := i)
    refine ⟨fun hlt h2 => ?_, fun heq => ?_, fun hlt => ?_⟩
    · refine ⟨_, hexec, exec_only_of_fits hexec (by simp only [footprint]; decide +kernel), ?_⟩
      rw [if_pos hlt]
      exact s.goStale_shows n i h2
    · refine ⟨_, hexec, exec_only_of_fits hexec (by simp only [footprint]; decide +kernel), ?_⟩
      rw [if_neg (by omega), if_pos heq, State.setLeaf_leaf]
      exact ⟨rfl, rfl⟩
    · rw [hexec, if_neg (by omega), if_neg (by omega)]
  case profile =>
    intro s n i h11 h h2
    have hexec := exec_upProfileEvaluation s h11 h h2
    refine ⟨_, hexec, exec_only_of_fits hexec (by simp only [footprint]; decide +kernel), ?_⟩
    by_cases hnone : ((s.leaf n i).sum.2 = 0 || (s.leaf n i).profDue.isSome) = true
    · rw [if_pos hnone, State.leafAveraged_leaf]
      exact ⟨rfl, rfl, rfl, fun _ => rfl⟩
    · obtain ⟨d, hd⟩ := (s.leafAveraged n i).profileChosen_leaf n i (s.leaf n i).sum
      rw [if_neg hnone, hd, State.leafAveraged_leaf]
      exact ⟨rfl, rfl, rfl, fun h0 => absurd (by simp [h0]) hnone⟩
  case downstream =>
    intro s n f h11 h hw hf
    obtain ⟨past, hexec⟩ := exec_dnLoadingEvaluation s h11 h hw hf
    refine ⟨_, hexec, exec_only_of_fits hexec (by simp only [footprint]; decide +kernel), ?_⟩
    cases havg : s.dnAverage n f with
    | none =>
      obtain ⟨x, hb, hsum⟩ := s.dnAveraged_bgt n f (0, 0)
      dsimp only [State.leaf]
      rw [hb]
      exact ⟨by simp, hsum, fun _ => rfl⟩
    | some a =>
      obtain ⟨x, hb, hsum⟩ := s.dnAveraged_bgt n f a
      obtain ⟨d, hd⟩ := ((s.dnSumsReset n f).dnAveraged n f a).dnChosen_bgt n f a past
      dsimp only [State.leaf]
      rw [hd, hb]
      exact ⟨by simp, hsum, fun h => by cases h⟩
  case change =>
    intro s n f k base ent due h11 hd
    have hexec := exec_dnLoadSwitch s h11 hd
    refine ⟨fun hle hf => ?_, fun hle hf => ?_, fun hlt => ?_⟩
    · refine ⟨_, hexec, exec_only_of_fits hexec (by simp only [footprint]; decide +kernel), ?_⟩
      rw [if_neg (by omega), if_neg hf]
      generalize hu : (s.setBgt n { s.bgt n with dnDue := Tab.erase (s.bgt n).dnDue f }).setAct n f base ent = u
      have hb : u.bgt n = { s.bgt n with dnDue := Tab.erase (s.bgt n).dnDue f } := by rw [← hu]; exact s.setBgt_bgt n _
      obtain ⟨hbase, hent⟩ := (s.setBgt n { s.bgt n with dnDue := Tab.erase (s.bgt n).dnDue f }).setAct_shows n f base ent
      rw [hu] at hbase hent
      have hev := State.braidEvent_kept u n .BRAD_LOAD_EVT_SWITCHED 0x4801 (m := eventFoot [.BRAD_LOAD_EVT] []) (State.kept_refl _ u) rfl rfl
      have hk := (u.braidEvent n .BRAD_LOAD_EVT_SWITCHED 0x4801).frameShort_only n
      refine ⟨(State.kept_rd hk _ rfl _ _ _).trans ((State.kept_rd hev _ rfl _ _ _).trans hbase),
        (State.kept_rd hk _ rfl _ _ _).trans ((State.kept_rd hev _ rfl _ _ _).trans hent),
        (State.kept_on hk _ rfl _ _ _).trans (u.braidEvent_on n _ (by decide) rfl rfl), ?_⟩
      rw [State.kept_bgt hk rfl, State.kept_bgt hev rfl, hb]
      exact Tab.find?_erase _ _
    · refine ⟨_, hexec, exec_only_of_fits hexec (by simp only [footprint]; decide +kernel), ?_⟩
      rw [if_neg (by omega), if_pos hf]
      rfl
    · rw [hexec, if_pos hlt]

end Sys2Proof.Machine
end

section
/-! Acquisition of a line, loss and return of its signal, freezes and restarts (R83, R86, R87, R95 to R97, R103); and the obligation on them.
That a cold start under raw LOS leads to Wait-signal, that a FREEZE_HOLD which runs out during FREEZE waits for its clearing, and that REACQ
changes no state before Frequency search are the model's choices (log entry 50). -/

namespace Sys2Proof.Machine

open Sys2Proof

variable (s : State)

/-! ### A state left for another (R88, R96, R98) -/

/-- The fields of the receiver that a state left for another writes. -/
def leaveFlds : List Fld :=
  [.SPLC_STAT_STATE, .SPLC_STAT_FROZEN, .SPLC_STAT_WARM_PEND, .SPLC_EST2_SOP_PEAK, .SPLC_EST2_CLK_OFF, .SPLC_SC_EST_LOCK,
    .SPLC_SC_EST_DGD_SC, .SPLC_SC_EST_SNR, .SPLC_SC_EST_SNR_X, .SPLC_SC_EST_SNR_Y, .SPLC_SC_HIST_SNR_MIN, .SPLC_SC_HIST_SNR_MAX]

/-- What a reference taken anew changes. -/
def refFoot : Nat := eventFoot [.HLYD_EVT, .HLYD_STAT, .HLYD_REF_ST, .HLYD_HO] [.halyard]

/-- A field that a state left for another keeps. -/
def Fld.besideLeave (g : Fld) : Bool :=
  leaveFlds.all (fun f => f.apart g) && g.id != .SPLC_EST && g.id != .SPLC_CHAN && !refFoot.testBit (regBit g.id)

theorem State.rd_setReg_id {id : RegId} {g : Fld} (v i j k a b c : Nat) (h : g.id ≠ id) :
    (s.setReg id v i j k).rd g a b c = s.rd g a b c := by
  unfold State.rd; rw [s.reg_setReg_other id g.id v i j k a b c fun e => h e.1]

theorem State.refEval_only (r : Nat) : s.kept refFoot (s.refEval r) := State.refEval_kept s r (State.kept_refl _ s) rfl

section
variable {g : Fld} (h : g.besideLeave = true) (n a b c : Nat)
include h

theorem State.rd_dropEstimates_beside : (s.dropEstimates n).rd g a b c = s.rd g a b c := by
  simp only [Fld.besideLeave, leaveFlds, List.all_cons, List.all_nil, Bool.and_eq_true, Bool.and_true, bne_iff_ne] at h
  obtain ⟨⟨⟨⟨-, -, -, hpeak, hclk, hlock, hdgd, hsnr, hx, hy, hmin, hmax⟩, hest⟩, hchan⟩, -⟩ := h
  unfold State.dropEstimates
  dsimp only
  refine State.each_holds _ (fun u => u.rd g a b c = s.rd g a b c) ?_ fun f _ u hu => ?_
  · refine State.each_holds _ (fun u => u.rd g a b c = s.rd g a b c) ?_ fun e _ u hu => ?_
    · rw [State.rd_wr_apart _ _ _ _ _ _ _ _ hclk, State.rd_wr_apart _ _ _ _ _ _ _ _ hpeak, State.rd_setSpl,
        State.rd_setReg_id _ _ _ _ _ _ _ _ hest]
    · rw [State.rd_setReg_id _ _ _ _ _ _ _ _ hchan, hu]
  · simp only [State.rd_wr_apart _ _ _ _ _ _ _ _ hlock, State.rd_wr_apart _ _ _ _ _ _ _ _ hdgd, State.rd_wr_apart _ _ _ _ _ _ _ _ hsnr,
      State.rd_wr_apart _ _ _ _ _ _ _ _ hx, State.rd_wr_apart _ _ _ _ _ _ _ _ hy, State.rd_wr_apart _ _ _ _ _ _ _ _ hmin,
      State.rd_wr_apart _ _ _ _ _ _ _ _ hmax, hu]

theorem State.rd_leaveTo_beside (st : Nat) : (s.leaveTo n st).rd g a b c = s.rd g a b c := by
  have hdrop (t : State) := t.rd_dropEstimates_beside h n a b c
  simp only [Fld.besideLeave, leaveFlds, List.all_cons, List.all_nil, Bool.and_eq_true, Bool.and_true, Bool.not_eq_true'] at h
  obtain ⟨⟨⟨⟨hst, hfz, hwp, -⟩, -⟩, -⟩, href⟩ := h
  unfold State.leaveTo
  dsimp only
  rw [State.kept_rd (State.refEval_only _ _) g href, hdrop]
  split <;> simp only [State.rd_setSpl, State.rd_wr_apart _ _ _ _ _ _ _ _ hst, State.rd_wr_apart _ _ _ _ _ _ _ _ hfz,
    State.rd_wr_apart _ _ _ _ _ _ _ _ hwp]

theorem State.on_leaveTo_beside (st : Nat) : (s.leaveTo n st).on g a b c = s.on g a b c := by
  unfold State.on; rw [s.rd_leaveTo_beside h]

end

/-- Outside Tracking no subcarrier is locked. -/
theorem State.dropEstimates_lock (n : Line) (f : Slot) : (s.dropEstimates n).on .SPLC_SC_EST_LOCK n f = false := by
  have hrd : (s.dropEstimates n).rd .SPLC_SC_EST_LOCK n f = 0 := by
    unfold State.dropEstimates
    dsimp only
    refine State.each_sets _ (fun _ => True) (fun t => t.rd .SPLC_SC_EST_LOCK n f = 0) (List.mem_range.mpr f.isLt) trivial
      (fun _ _ _ _ => trivial) (fun t _ => ?_) fun i _ hi t ht => ?_
    · simp (disch := decide) [State.rd_wr_apart, State.rd_wr_two]
    · simpa (disch := exact hi.symm) only [State.rd_wr_second] using ht
  rw [State.on, hrd]; rfl

theorem State.leaveTo_lock (n : Line) (st : Nat) (f : Slot) : (s.leaveTo n st).on .SPLC_SC_EST_LOCK n f = false := by
  unfold State.leaveTo
  dsimp only
  rw [State.kept_on (State.refEval_only _ _) _ rfl]
  exact State.dropEstimates_lock _ n f

/-- A freeze shows as STATE 9. -/
theorem State.freeze_shows (n : Line) : (s.freeze n).splState n = 9 ∧ (s.freeze n).on .SPLC_STAT_FROZEN n = true := by
  refine ⟨s.leaveTo_splState n (by decide), ?_⟩
  unfold State.freeze State.leaveTo
  dsimp only
  rw [State.kept_on (State.refEval_only _ _) _ rfl,
    State.kept_on (State.dropEstimates_kept _ _ (State.kept_refl _ _) (Foot.refl _)) _ rfl, if_pos rfl, State.on,
    State.rd_wr_one _ _ _ (by decide)]
  rfl

/-- A warm restart runs through Pilot lock. -/
theorem State.warmRestart_shows (n : Line) : (s.warmRestart n).splState n = 7 ∧ ((s.warmRestart n).spl n).warm = true := by
  refine ⟨s.leaveTo_splState n (by decide), ?_⟩
  unfold State.warmRestart
  dsimp only
  rw [State.setSpl_spl]

/-- What a freeze held by a further condition shows: the return of the signal begins a warm restart. -/
theorem State.freezePending_shows (n : Line) : ((s.freeze n).wr .SPLC_STAT_WARM_PEND 1 n).splState n = 9 ∧
    ((s.freeze n).wr .SPLC_STAT_WARM_PEND 1 n).on .SPLC_STAT_FROZEN n = true ∧
    ((s.freeze n).wr .SPLC_STAT_WARM_PEND 1 n).on .SPLC_STAT_WARM_PEND n = true := by
  obtain ⟨hst, hfz⟩ := s.freeze_shows n
  unfold State.splState State.on at *
  rw [State.rd_wr_apart _ _ _ _ _ _ _ _ (by decide), State.rd_wr_apart _ _ _ _ _ _ _ _ (by decide), State.rd_wr_one _ _ _ (by decide)]
  exact ⟨hst, hfz, rfl⟩

/-! ### Restarts of the line and of a subcarrier (R83, Table 3.7) -/

/-- What a restart of the line changes. -/
def restartFoot : Nat :=
  eventFoot [.HLYD_EVT, .HLYD_STAT, .HLYD_REF_ST, .HLYD_HO, .SPLC_STAT, .SPLC_EST, .SPLC_EST2, .SPLC_SC_EST, .SPLC_SC_HIST, .SPLC_CHAN]
    [.splice, .halyard]

/-- A line restart, counted, from Frequency search or Wait-signal. -/
def State.restarted (s : State) (n : Nat) : State := (s.lineRestart n).waitSignal n

theorem State.restarted_only (n : Nat) : s.kept restartFoot (s.restarted n) :=
  State.waitSignal_kept _ _ (State.lineRestart_kept _ _ (State.kept_refl _ s) rfl) rfl

theorem State.restarted_shows (n : Line) : (s.restarted n).splState n = (if s.on .SPLC_STAT_RAW_LOS n then 1 else 3) ∧
    (s.restarted n).rd .SPLC_EST2_LINE_RESTARTS n = min 65535 (s.rd .SPLC_EST2_LINE_RESTARTS n + 1) := by
  constructor
  · have hk := State.lineRestart_kept s n (State.kept_refl _ s) (Foot.refl _)
    rw [State.restarted, State.waitSignal_splState, State.kept_on hk _ rfl]
  · rw [State.restarted, State.waitSignal, State.rd_leaveTo_beside _ (by decide), State.lineRestart,
      State.rd_inc_same _ _ _ _ _ _ (regValid_one_of_dims (n := 3) rfl n) (by decide) (by decide), min_comm]
    rfl

/-- A cold acquisition is a restart with event 0x5003. -/
theorem State.coldStart_eq (n : Nat) : s.coldStart n = (s.splEvent n .SPLC_EVT_COLD 0x5003).restarted n := rfl

/-- An event of the receiver changes its bit alone of what the receiver shows. -/
theorem State.splEvent_only (n : Nat) {f : Fld} (code : Nat) (hf : f.id = .SPLC_EVT) :
    s.kept (eventFoot [.SPLC_EVT] []) (s.splEvent n f code) :=
  State.splEvent_kept s n f code (State.kept_refl _ s) rfl (by rw [hf]; rfl)

theorem State.coldStart_shows (n : Line) : (s.coldStart n).on .SPLC_EVT_COLD n = true ∧
    (s.coldStart n).splState n = (if s.on .SPLC_STAT_RAW_LOS n then 1 else 3) ∧
    (s.coldStart n).rd .SPLC_EST2_LINE_RESTARTS n = min 65535 (s.rd .SPLC_EST2_LINE_RESTARTS n + 1) := by
  have hev := s.splEvent_only n (f := .SPLC_EVT_COLD) 0x5003 rfl
  obtain ⟨hst, hct⟩ := (s.splEvent n .SPLC_EVT_COLD 0x5003).restarted_shows n
  rw [State.coldStart_eq, hst, hct, State.kept_on (State.restarted_only _ _) _ rfl, State.kept_on hev .SPLC_STAT_RAW_LOS rfl,
    State.kept_rd hev _ rfl]
  exact ⟨State.on_raise_one _ _ _ _ _ n (by decide) rfl rfl, rfl, rfl⟩

/-- A subcarrier restarts from Blind converge. -/
theorem State.subRestart_shows (n : Line) (f : Slot) : ((s.subRestart n f).spl n).restarting.get 0 f = 6 ∧
    (s.subRestart n f).on .SPLC_SC_EST_LOCK n f = false ∧
    (s.subRestart n f).rd .SPLC_SC_HIST_RESTARTS n f = min 65535 (s.rd .SPLC_SC_HIST_RESTARTS n f + 1) ∧
    (s.subRestart n f).on .SPLC_EVT_DIVERGED n = true ∧ (s.subRestart n f).splState n = s.splState n := by
  have hk := State.subRestart_kept s n f (State.kept_refl _ s) (Foot.refl _)
  unfold State.splState
  rw [State.kept_rd hk .SPLC_STAT_STATE rfl]
  generalize hu : s.inc .SPLC_SC_HIST_RESTARTS 1 n f = u
  have hct : u.rd .SPLC_SC_HIST_RESTARTS n f = min 65535 (s.rd .SPLC_SC_HIST_RESTARTS n f + 1) := by
    rw [← hu, State.rd_inc_same _ _ _ _ _ _ (regValid_two_of_dims (n := 3) (m := 32) rfl n f) (by decide) (by decide), min_comm]
    rfl
  generalize hv : u.subEvent n f .SPLC_EVT_DIVERGED 0x5004 = v
  have hev : v.on .SPLC_EVT_DIVERGED n = true := by rw [← hv]; exact State.on_raise_one _ _ _ _ _ n (by decide) rfl rfl
  have hcv : v.rd .SPLC_SC_HIST_RESTARTS n f = u.rd .SPLC_SC_HIST_RESTARTS n f := by
    rw [← hv]; exact State.rd_raise_apart _ _ _ _ _ _ _ _ _ (by decide) rfl
  have heq : s.subRestart n f =
      (v.setSpl n { v.spl n with restarting := (v.spl n).restarting.put 0 f 6 }).wr .SPLC_SC_EST_LOCK 0 n f := by
    rw [← hv, ← hu]; rfl
  have hspl (t : State) : (t.wr .SPLC_SC_EST_LOCK 0 n f).spl n = t.spl n := rfl
  unfold State.on at *
  rw [heq, hspl, State.setSpl_spl, State.rd_wr_two _ _ _ _ (by decide), State.rd_wr_apart _ _ _ _ _ _ _ _ (by decide),
    State.rd_wr_apart _ _ _ _ _ _ _ _ (by decide), State.rd_setSpl, State.rd_setSpl, hcv, hct]
  exact ⟨Tab.get_put_same 0 (v.spl n).restarting f 6, rfl, rfl, hev, rfl⟩

/-! ### The stages of an acquisition (Table 3.2) -/

theorem State.subIn_iff {n f st : Nat} : s.subIn n f st = true ↔ s.splState n = 8 ∧ (s.spl n).restarting.get 0 f = st := by
  simp [State.subIn, State.tracking]

/-- STATE written shows. -/
theorem State.wr_splState (n : Line) {st : Nat} (h : st < 16) : (s.wr .SPLC_STAT_STATE st n).splState n = st := by
  rw [State.splState, State.rd_wr_one _ _ _ (by decide)]
  exact Nat.mod_eq_of_lt h

/-- The lock of a line's subcarriers, each with the clearing of its window (R157). -/
def State.locked (s : State) (n : Nat) (l : List Nat) : State := s.each l fun f t => (t.wr .SPLC_SC_EST_LOCK 1 n f).lockReturns n f

theorem State.locked_only (n : Nat) (l : List Nat) :
    s.kept (eventFoot [.SPLC_SC_EST, .CLET_STAT, .CLET_EVT] [.cleat]) (s.locked n l) :=
  State.each_kept _ _ _ (State.kept_refl _ s) fun _ _ h => State.lockReturns_kept _ _ _ (State.wr_kept _ _ _ _ _ _ h rfl) rfl

/-- What follows the lock of a subcarrier leaves the receiver. -/
theorem State.lockReturns_lock (n a b : Nat) : (s.lockReturns n a).on .SPLC_SC_EST_LOCK n b = s.on .SPLC_SC_EST_LOCK n b :=
  State.kept_on (State.lockReturns_kept s n a (State.kept_refl _ s) (Foot.refl _)) _ rfl _ _ _

theorem State.wr_lock (n : Line) (f : Slot) : (s.wr .SPLC_SC_EST_LOCK 1 n f).on .SPLC_SC_EST_LOCK n f = true := by
  rw [State.on, State.rd_wr_two _ _ _ _ (by decide)]; rfl

theorem State.locked_lock (n : Line) {l : List Nat} (f : Slot) (hf : f.val ∈ l) :
    (s.locked n l).on .SPLC_SC_EST_LOCK n f = true := by
  refine State.each_sets _ (fun _ => True) (fun t => t.on .SPLC_SC_EST_LOCK n f = true) hf trivial
    (fun _ _ _ _ => trivial) (fun t _ => ?_) fun i _ hi t ht => ?_
  · rw [State.lockReturns_lock, State.wr_lock]
  · rw [State.lockReturns_lock, State.on, State.rd_wr_second _ _ _ _ _ _ hi.symm]
    exact ht

/-- STATE Tracking entered, with event 0x5001. -/
def State.entered (s : State) (n : Nat) : State :=
  ((s.setSpl n { s.spl n with restarting := [], warm := false, thawed := false, broken := s.lit n }).wr .SPLC_STAT_STATE 8 n).splEvent n
    .SPLC_EVT_ACQ_DONE 0x5001

/-- Tracking reached, before FREEZE is looked at. -/
def State.tracked (s : State) (n : Nat) : State := ((s.entered n).locked n ((s.entered n).lit n)).refEval (4 + n)

theorem State.lt_of_mem_lit {n f : Nat} (h : f ∈ s.lit n) : f < 32 := by
  unfold State.lit at h
  split at h
  · cases h
  · exact s.lt_of_mem_firstSlots h

theorem State.entered_shows (n : Line) : (s.entered n).splState n = 8 ∧ (s.entered n).on .SPLC_EVT_ACQ_DONE n = true ∧
    (s.entered n).on .SPLC_CMD_FREEZE n = s.on .SPLC_CMD_FREEZE n ∧ (s.entered n).lit n = s.lit n := by
  generalize hu : (s.setSpl n { s.spl n with restarting := [], warm := false, thawed := false, broken := s.lit n }).wr .SPLC_STAT_STATE 8 n = u
  have hst : u.splState n = 8 := by rw [← hu]; exact State.wr_splState _ n (by decide)
  have hk : s.kept (footOf [.SPLC_STAT] [.splice]) u := by
    rw [← hu]; exact State.wr_kept _ _ _ _ _ _ (State.setSpl_kept _ _ _ (State.kept_refl _ s) rfl) rfl
  have hev := u.splEvent_only n (f := .SPLC_EVT_ACQ_DONE) 0x5001 rfl
  have heq : s.entered n = u.splEvent n .SPLC_EVT_ACQ_DONE 0x5001 := by rw [← hu]; rfl
  unfold State.splState at *
  rw [heq, State.kept_rd hev _ rfl, State.kept_on hev .SPLC_CMD_FREEZE rfl, State.kept_on hk .SPLC_CMD_FREEZE rfl,
    State.kept_lit hev rfl rfl, State.kept_lit hk rfl rfl]
  exact ⟨hst, State.on_raise_one _ _ _ _ _ n (by decide) rfl rfl, rfl, rfl⟩

theorem State.tracked_shows (n : Line) : (s.tracked n).splState n = 8 ∧ (s.tracked n).on .SPLC_EVT_ACQ_DONE n = true ∧
    (s.tracked n).on .SPLC_CMD_FREEZE n = s.on .SPLC_CMD_FREEZE n ∧ ∀ f ∈ s.lit n, (s.tracked n).on .SPLC_SC_EST_LOCK n f = true := by
  obtain ⟨hst, hev, hcmd, hlit⟩ := s.entered_shows n
  have hl := (s.entered n).locked_only n (s.lit n)
  have hr := ((s.entered n).locked n (s.lit n)).refEval_only (4 + n)
  unfold State.splState at *
  rw [State.tracked, hlit, State.kept_rd hr _ rfl, State.kept_rd hl _ rfl, State.kept_on hr _ rfl, State.kept_on hl _ rfl,
    State.kept_on hr _ rfl, State.kept_on hl _ rfl]
  refine ⟨hst, hev, hcmd, fun f hf => ?_⟩
  rw [State.kept_on hr _ rfl]
  exact State.locked_lock _ n ⟨f, s.lt_of_mem_lit hf⟩ hf

/-- FREEZE set while the line was not yet in Tracking freezes it there. -/
theorem State.reachTracking_eq (n : Line) : s.reachTracking n = if s.on .SPLC_CMD_FREEZE n then (s.tracked n).freeze n else s.tracked n := by
  rw [← (s.tracked_shows n).2.2.1]
  rfl

theorem State.reachTracking_shows (n : Line) : (s.reachTracking n).on .SPLC_EVT_ACQ_DONE n = true ∧
    (s.reachTracking n).splState n = (if s.on .SPLC_CMD_FREEZE n then 9 else 8) ∧
    (s.on .SPLC_CMD_FREEZE n = false → ∀ f ∈ s.lit n, (s.reachTracking n).on .SPLC_SC_EST_LOCK n f = true) := by
  obtain ⟨hst, hev, -, hlock⟩ := s.tracked_shows n
  rw [State.reachTracking_eq]
  cases hf : s.on .SPLC_CMD_FREEZE n with
  | true =>
    rw [if_pos rfl]
    exact ⟨(State.on_leaveTo_beside _ (by decide) _ _ _ _ _).trans hev, (State.freeze_shows _ n).1, nofun⟩
  | false =>
    rw [if_neg (by decide)]
    exact ⟨hev, hst, fun _ => hlock⟩

/-- The event of a bound reached in a state of an acquisition that is no warm restart. -/
def State.boundEvent (s : State) (n : Nat) : State :=
  match s.splState n with
  | 3 => s.splEvent n .SPLC_EVT_FOFF_RANGE 0x5008
  | 4 | 5 => s.splEvent n .SPLC_EVT_CD_FAIL 0x5005
  | 7 => s.splEvent n .SPLC_EVT_DIVERGED 0x5004
  | _ => s

theorem State.boundEvent_only (n : Nat) : s.kept (eventFoot [.SPLC_EVT] []) (s.boundEvent n) := by
  unfold State.boundEvent
  split
  · exact s.splEvent_only n _ rfl
  · exact s.splEvent_only n _ rfl
  · exact s.splEvent_only n _ rfl
  · exact s.splEvent_only n _ rfl
  · exact State.kept_refl _ s

theorem State.boundEvent_foff (n : Line) (h : s.splState n = 3) : (s.boundEvent n).on .SPLC_EVT_FOFF_RANGE n = true := by
  unfold State.boundEvent
  rw [h]
  exact State.on_raise_one _ _ _ _ _ n (by decide) rfl rfl

theorem State.boundEvent_cd (n : Line) (h : s.splState n = 4 ∨ s.splState n = 5) : (s.boundEvent n).on .SPLC_EVT_CD_FAIL n = true := by
  unfold State.boundEvent
  obtain h | h := h <;> rw [h] <;> exact State.on_raise_one _ _ _ _ _ n (by decide) rfl rfl

theorem State.boundEvent_diverged (n : Line) (h : s.splState n = 7) : (s.boundEvent n).on .SPLC_EVT_DIVERGED n = true := by
  unfold State.boundEvent
  rw [h]
  exact State.on_raise_one _ _ _ _ _ n (by decide) rfl rfl

theorem exec_acqBoundExpiry {n : Line} (h10 : s.alive 10 = true) (hh : (s.spl n).halted = false) (h3 : 3 ≤ s.splState n)
    (h7 : s.splState n ≤ 7) :
    exec (.acqBoundExpiry n none) s = .next (if (s.spl n).warm then s.coldStart n else (s.boundEvent n).restarted n) := by
  change execAcqBoundExpiry n none s = _
  unfold execAcqBoundExpiry
  rw [act_next s 10 _ h10]
  dsimp only
  rw [if_neg (by simp [hh]; omega)]
  rfl

/-- The states that a freeze condition freezes: Tracking, and the frame of a warm restart (Table 3.10). -/
def State.freezable (s : State) (n : Nat) : Bool := s.splState n = 8 || (s.splState n == 7 && (s.spl n).thawed)

theorem State.freezable_iff {n : Nat} : s.freezable n = true ↔ s.splState n = 8 ∨ s.splState n = 7 ∧ (s.spl n).thawed = true := by
  simp [State.freezable]

/-- An acquisition is not frozen but in the frame of a warm restart. -/
theorem State.not_freezable {n : Nat} (h7 : s.splState n ≤ 7) (h : s.splState n = 7 → (s.spl n).thawed = false) :
    ¬s.freezable n = true := by
  rw [State.freezable_iff]
  rintro (h8 | ⟨h7', ht⟩)
  · omega
  · exact absurd ht (by simp [h h7'])

/-! ### Raw LOS (R95 to R97) -/

/-- What LOS_IN shows of a window. -/
def State.pinShown (s : State) (n : Nat) (pin : Bool) : State :=
  ({ s with pins := { s.pins with losIn := s.pins.losIn.put false n pin } }).wr .SPLC_STAT_LOS_PIN (b2n pin) n

/-- Raw LOS judged on a window's power, and the pin where it counts. -/
def State.judgeLos (s : State) (n power : Nat) (viaPin : Bool) : State :=
  if s.on .SPLC_STAT_RAW_LOS n then
    if power + s.rd .SPLC_LINE_CFG_LOS_HYST n ≤ s.rd .SPLC_LINE_CFG_LOS_THR n && !viaPin then s.losFall n else s
  else if s.rd .SPLC_LINE_CFG_LOS_THR n < power || viaPin then s.losRise n
  else s

theorem State.rd_pinShown {g : Fld} (n a b c : Nat) (pin : Bool) (h : Fld.apart .SPLC_STAT_LOS_PIN g = true) :
    (s.pinShown n pin).rd g a b c = s.rd g a b c := State.rd_wr_apart _ _ _ _ _ _ _ _ h

theorem State.pinShown_pin (n : Line) (pin : Bool) : (s.pinShown n pin).on .SPLC_STAT_LOS_PIN n = pin := by
  rw [State.on, State.pinShown, State.rd_wr_one _ _ _ (by decide)]
  exact b2n_ne_zero pin

theorem State.pinShown_lineMode (n : Line) (pin : Bool) : (s.pinShown n pin).lineMode n = s.lineMode n :=
  State.kept_lineMode (State.wr_kept _ _ _ _ _ _ (kept_pins _ (State.kept_refl (footOf [.SPLC_STAT] [.pins]) s) rfl) rfl) rfl n

theorem exec_rawLosWindow {n : Line} (power : Nat) (pin : Bool) (h10 : s.alive 10 = true) (h0 : s.splState n ≠ 0)
    (h2 : s.splState n ≠ 2 ∨ (s.str n).adcFailed = false) :
    exec (.rawLosWindow n power pin) s =
      .next ((s.pinShown n pin).judgeLos n power (pin && s.on .SPLC_LINE_CFG_LOS_PIN_EN n)) := by
  have hst : (s.pinShown n pin).splState n = s.splState n := s.rd_pinShown n _ _ _ pin (by decide)
  have hen : (s.pinShown n pin).on .SPLC_LINE_CFG_LOS_PIN_EN n = s.on .SPLC_LINE_CFG_LOS_PIN_EN n := by
    unfold State.on; rw [s.rd_pinShown n _ _ _ pin (by decide)]
  have hgo : ¬((s.pinShown n pin).splState n = 0 || ((s.pinShown n pin).splState n == 2 && ((s.pinShown n pin).str n).adcFailed)) = true := by
    have hstr : (s.pinShown n pin).str n = s.str n := rfl
    rw [hst, hstr]
    obtain h | h := h2 <;> simp [h0, h]
  change execRawLosWindow n power pin s = _
  unfold execRawLosWindow
  rw [act_next s 10 _ h10, ← hen]
  exact congrArg _ (if_neg hgo)

/-- Raw LOS risen: Hitch is told. -/
def State.losRisen (s : State) (n : Nat) : State :=
  ((s.wr .SPLC_STAT_RAW_LOS 1 n).splEvent n .SPLC_EVT_LOS_RISE 0x5002).setDefect n 0 true

/-- Raw LOS cleared: Hitch is told. -/
def State.losFallen (s : State) (n : Nat) : State := (s.wr .SPLC_STAT_RAW_LOS 0 n).setDefect n 0 false

/-- What Hitch makes of a loss of signal leaves the receiver. -/
theorem State.setDefect_only (n : Nat) (v : Bool) : s.kept
    (eventFoot [.TOP_FAULT, .HTCH_DEF, .HTCH_DEF_STK, .HTCH_EVT, .SEIZ_KC_ST, .BEND_EVT, .BEND_PG_STAT, .BEND_PATH_ST, .SHET_CLI_STAT,
      .SHET_CLI_EVT, .SHET_CNT] [.boot, .clients, .groups, .kcs, .hitch]) (s.setDefect n 0 v) :=
  State.setDefect_kept s n 0 v (State.kept_refl _ s) rfl

/-- A loss of signal that ends is no longer declared. -/
theorem State.setDefect_los_ends (n : Line) : (s.setDefect n 0 false).on .HTCH_DEF_LOS n = false := by
  unfold State.setDefect
  split
  · next hsame => simpa [State.defect, defectFlds] using hsame
  · simp only [defectFlds, Bool.false_eq_true, if_false]
    rw [State.on, State.rd_settleDefects_los, State.rd_raise_apart _ _ _ _ _ _ _ _ _ (by decide) rfl, State.rd_wr_one _ _ _ (by decide)]
    rfl

theorem State.rd_losRisen_stat {g : Fld} (n a b c : Nat) (hg : g.id = .SPLC_STAT) (h : Fld.apart .SPLC_STAT_RAW_LOS g = true) :
    (s.losRisen n).rd g a b c = s.rd g a b c := by
  have hev := (s.wr .SPLC_STAT_RAW_LOS 1 n).splEvent_only n (f := .SPLC_EVT_LOS_RISE) 0x5002 rfl
  rw [State.losRisen, State.kept_rd (State.setDefect_only _ _ _) _ (by rw [hg]; rfl), State.kept_rd hev _ (by rw [hg]; rfl),
    State.rd_wr_apart _ _ _ _ _ _ _ _ h]

theorem State.losRisen_spl (n : Nat) : (s.losRisen n).spl n = s.spl n := by
  have hev := (s.wr .SPLC_STAT_RAW_LOS 1 n).splEvent_only n (f := .SPLC_EVT_LOS_RISE) 0x5002 rfl
  rw [State.losRisen, State.kept_spl (State.setDefect_only _ _ _) rfl, State.kept_spl hev rfl]
  rfl

theorem State.losRisen_shows (n : Line) : (s.losRisen n).on .SPLC_STAT_RAW_LOS n = true ∧ (s.losRisen n).on .SPLC_EVT_LOS_RISE n = true ∧
    (s.lineMode n ≠ 2 → (s.losRisen n).on .HTCH_DEF_LOS n = true) := by
  have hwr := State.wr_kept s .SPLC_STAT_RAW_LOS 1 n 0 0 (State.kept_refl (footOf [.SPLC_STAT] []) s) rfl
  have hev := (s.wr .SPLC_STAT_RAW_LOS 1 n).splEvent_only n (f := .SPLC_EVT_LOS_RISE) 0x5002 rfl
  have hd := ((s.wr .SPLC_STAT_RAW_LOS 1 n).splEvent n .SPLC_EVT_LOS_RISE 0x5002).setDefect_only n true
  rw [State.losRisen, State.kept_on hd _ rfl, State.kept_on hd _ rfl, State.kept_on hev .SPLC_STAT_RAW_LOS rfl, State.on,
    State.rd_wr_one _ _ _ (by decide)]
  refine ⟨rfl, State.on_raise_one _ _ _ _ _ n (by decide) rfl rfl, fun hm => State.setDefect_los _ n ?_⟩
  rwa [State.kept_lineMode hev rfl, State.kept_lineMode hwr rfl]

/-- A rise leads from Tracking, or the frame of a warm restart, to a freeze, and from an acquisition to Wait-signal. -/
theorem State.losRise_eq (n : Nat) : s.losRise n =
    if s.freezable n then ((s.losRisen n).freeze n).wr .SPLC_STAT_WARM_PEND 1 n
    else if 3 ≤ s.splState n ∧ s.splState n ≤ 7 then ((s.losRisen n).lineRestart n).leaveTo n 1
    else s.losRisen n := by
  have hst : (s.losRisen n).splState n = s.splState n := s.rd_losRisen_stat n _ _ _ rfl (by decide)
  unfold State.freezable
  rw [← hst, ← s.losRisen_spl n]
  rfl

/-- What a state that a rise leads to keeps of the rise. -/
theorem State.losRise_beside {g : Fld} (n a b c : Nat) (h : g.besideLeave = true) (hw : Fld.apart .SPLC_STAT_WARM_PEND g = true)
    (hr : Fld.apart .SPLC_EST2_LINE_RESTARTS g = true) : (s.losRise n).on g a b c = (s.losRisen n).on g a b c := by
  rw [State.losRise_eq]
  unfold State.on
  split
  · rw [State.rd_wr_apart _ _ _ _ _ _ _ _ hw, State.freeze, State.rd_leaveTo_beside _ h]
  · split
    · rw [State.rd_leaveTo_beside _ h, State.lineRestart, State.inc, State.rd_wr_apart _ _ _ _ _ _ _ _ hr]
    · rfl

theorem State.losFallen_shows (n : Line) : (s.losFallen n).on .SPLC_STAT_RAW_LOS n = false ∧
    (s.losFallen n).on .HTCH_DEF_LOS n = false ∧ (s.losFallen n).on .SPLC_CMD_FREEZE n = s.on .SPLC_CMD_FREEZE n := by
  have hd := (s.wr .SPLC_STAT_RAW_LOS 0 n).setDefect_only n false
  refine ⟨?_, State.setDefect_los_ends _ n, ?_⟩
  · rw [State.losFallen, State.kept_on hd _ rfl, State.on, State.rd_wr_one _ _ _ (by decide)]
    rfl
  · rw [State.losFallen, State.kept_on hd _ rfl, State.on, State.rd_wr_apart _ _ _ _ _ _ _ _ (by decide)]
    rfl

theorem State.rd_losFallen_stat {g : Fld} (n a b c : Nat) (hg : g.id = .SPLC_STAT) (h : Fld.apart .SPLC_STAT_RAW_LOS g = true) :
    (s.losFallen n).rd g a b c = s.rd g a b c := by
  rw [State.losFallen, State.kept_rd (State.setDefect_only _ _ _) _ (by rw [hg]; rfl), State.rd_wr_apart _ _ _ _ _ _ _ _ h]

/-- A rise ends in the state that Table 3.7 gives. -/
theorem State.losRise_freezes (n : Line) (h : s.freezable n = true) :
    (s.losRise n).splState n = 9 ∧ (s.losRise n).on .SPLC_STAT_FROZEN n = true ∧ (s.losRise n).on .SPLC_STAT_WARM_PEND n = true := by
  rw [State.losRise_eq, if_pos h]
  exact State.freezePending_shows _ n

theorem State.losRise_waits (n : Line) (h3 : 3 ≤ s.splState n) (h7 : s.splState n ≤ 7)
    (h : s.splState n = 7 → (s.spl n).thawed = false) : (s.losRise n).splState n = 1 := by
  rw [State.losRise_eq, if_neg (s.not_freezable h7 h), if_pos ⟨h3, h7⟩]
  exact State.leaveTo_splState _ n (by decide)

theorem State.losRise_shows (n : Line) : (s.losRise n).on .SPLC_STAT_RAW_LOS n = true ∧ (s.losRise n).on .SPLC_EVT_LOS_RISE n = true ∧
    (s.lineMode n ≠ 2 → (s.losRise n).on .HTCH_DEF_LOS n = true) := by
  rw [State.losRise_beside _ _ _ _ _ (by decide) (by decide) (by decide), State.losRise_beside _ _ _ _ _ (by decide) (by decide) (by decide),
    State.losRise_beside _ _ _ _ _ (by decide) (by decide) (by decide)]
  exact s.losRisen_shows n

/-- A fall ends Wait-signal; a freeze without FREEZE goes on to a warm restart within FREEZE_HOLD. -/
theorem State.losFall_eq (n : Line) : s.losFall n =
    match s.splState n with
    | 1 => (s.losFallen n).leaveTo n 3
    | 9 =>
      if s.on .SPLC_CMD_FREEZE n then (s.losFallen n).wr .SPLC_STAT_WARM_PEND 0 n
      else if s.on .SPLC_STAT_WARM_PEND n then (s.losFallen n).warmRestart n
      else s.losFallen n
    | _ => s.losFallen n := by
  have hst : (s.losFallen n).splState n = s.splState n := s.rd_losFallen_stat n _ _ _ rfl (by decide)
  have hwp : (s.losFallen n).on .SPLC_STAT_WARM_PEND n = s.on .SPLC_STAT_WARM_PEND n := by
    unfold State.on; rw [s.rd_losFallen_stat n _ _ _ rfl (by decide)]
  rw [← hst, ← hwp, ← (s.losFallen_shows n).2.2]
  rfl

theorem State.losFall_beside {g : Fld} (n : Line) (a b c : Nat) (h : g.besideLeave = true) (hw : Fld.apart .SPLC_STAT_WARM_PEND g = true) :
    (s.losFall n).on g a b c = (s.losFallen n).on g a b c := by
  have hwarm (t : State) : (t.warmRestart n).rd g a b c = t.rd g a b c := by
    unfold State.warmRestart; dsimp only; rw [State.rd_setSpl, State.rd_leaveTo_beside _ h]
  rw [State.losFall_eq]
  unfold State.on
  split
  · rw [State.rd_leaveTo_beside _ h]
  · split
    · rw [State.rd_wr_apart _ _ _ _ _ _ _ _ hw]
    · split
      · rw [hwarm]
      · rfl
  · rfl

theorem State.losFall_shows (n : Line) : (s.losFall n).on .SPLC_STAT_RAW_LOS n = false ∧ (s.losFall n).on .HTCH_DEF_LOS n = false := by
  rw [State.losFall_beside _ _ _ _ _ (by decide) (by decide), State.losFall_beside _ _ _ _ _ (by decide) (by decide)]
  obtain ⟨hraw, hdef, -⟩ := s.losFallen_shows n
  exact ⟨hraw, hdef⟩

theorem State.losFall_searches (n : Line) (h : s.splState n = 1) : (s.losFall n).splState n = 3 := by
  rw [State.losFall_eq, h]
  exact State.leaveTo_splState _ n (by decide)

theorem State.losFall_restarts (n : Line) (h : s.splState n = 9) (hf : s.on .SPLC_CMD_FREEZE n = false)
    (hw : s.on .SPLC_STAT_WARM_PEND n = true) : (s.losFall n).splState n = 7 ∧ ((s.losFall n).spl n).warm = true := by
  rw [State.losFall_eq, h, hf, hw]
  exact State.warmRestart_shows _ n

theorem State.losFall_frozen (n : Line) (h : s.splState n = 9) (hf : s.on .SPLC_CMD_FREEZE n = true) : (s.losFall n).splState n = 9 := by
  rw [State.losFall_eq, h, hf]
  change ((s.losFallen n).wr .SPLC_STAT_WARM_PEND 0 n).splState n = 9
  rw [State.splState, State.rd_wr_apart _ _ _ _ _ _ _ _ (by decide), s.rd_losFallen_stat n _ _ _ rfl (by decide)]
  exact h

/-- A window leaves what the pin shows. -/
theorem State.judgeLos_pin (n : Line) (power : Nat) (viaPin : Bool) :
    (s.judgeLos n power viaPin).on .SPLC_STAT_LOS_PIN n = s.on .SPLC_STAT_LOS_PIN n ∧ (s.judgeLos n power viaPin).pins = s.pins := by
  have hrise : (s.losRise n).on .SPLC_STAT_LOS_PIN n = s.on .SPLC_STAT_LOS_PIN n := by
    rw [State.losRise_beside _ _ _ _ _ (by decide) (by decide) (by decide), State.on, s.rd_losRisen_stat n _ _ _ rfl (by decide)]
    rfl
  have hfall : (s.losFall n).on .SPLC_STAT_LOS_PIN n = s.on .SPLC_STAT_LOS_PIN n := by
    rw [State.losFall_beside _ _ _ _ _ (by decide) (by decide), State.on, s.rd_losFallen_stat n _ _ _ rfl (by decide)]
    rfl
  have hriseKept := State.losRise_kept s n (State.kept_refl _ s) (Foot.refl _)
  have hfallKept := State.losFall_kept s n (State.kept_refl _ s) (Foot.refl _)
  unfold State.judgeLos
  split
  · split
    · exact ⟨hfall, State.kept_part hfallKept 3 rfl⟩
    · exact ⟨rfl, rfl⟩
  · split
    · exact ⟨hrise, State.kept_part hriseKept 3 rfl⟩
    · exact ⟨rfl, rfl⟩

theorem State.judgeLos_rise {n power : Nat} {viaPin : Bool} (hr : s.on .SPLC_STAT_RAW_LOS n = false)
    (h : s.rd .SPLC_LINE_CFG_LOS_THR n < power ∨ viaPin = true) : s.judgeLos n power viaPin = s.losRise n := by
  rw [State.judgeLos, if_neg (by simp [hr]), if_pos (by simpa using h)]

theorem State.judgeLos_fall {n power : Nat} (hr : s.on .SPLC_STAT_RAW_LOS n = true)
    (h : power + s.rd .SPLC_LINE_CFG_LOS_HYST n ≤ s.rd .SPLC_LINE_CFG_LOS_THR n) : s.judgeLos n power false = s.losFall n := by
  rw [State.judgeLos, if_pos hr, if_pos (by simpa using h)]

theorem State.judgeLos_holds {n power : Nat} {viaPin : Bool} (hr : s.on .SPLC_STAT_RAW_LOS n = true)
    (h : s.rd .SPLC_LINE_CFG_LOS_THR n < power + s.rd .SPLC_LINE_CFG_LOS_HYST n ∨ viaPin = true) : s.judgeLos n power viaPin = s := by
  rw [State.judgeLos, if_pos hr, if_neg]
  obtain h | h := h
  · simp [Nat.not_le.mpr h]
  · simp [h]

theorem State.judgeLos_clear {n power : Nat} (hr : s.on .SPLC_STAT_RAW_LOS n = false) (h : power ≤ s.rd .SPLC_LINE_CFG_LOS_THR n) :
    s.judgeLos n power false = s := by
  rw [State.judgeLos, if_neg (by simp [hr]), if_neg (by simpa using h)]

/-! ### FREEZE_HOLD, FREEZE and REACQ (R96, R97, R103) -/

/-- FREEZE_HOLD run out while raw LOS holds. -/
def State.holdEnded (s : State) (n : Nat) : State :=
  if s.on .SPLC_CMD_FREEZE n then (s.setSpl n { s.spl n with coldDue := true }).wr .SPLC_STAT_WARM_PEND 0 n else s.coldStart n

theorem exec_freezeHoldExpiry {n : Line} (clear : Bool) (h10 : s.alive 10 = true) (h9 : s.splState n = 9)
    (hw : s.on .SPLC_STAT_WARM_PEND n = true) :
    exec (.freezeHoldExpiry n clear) s = .next (if clear then s.losFall n else s.holdEnded n) := by
  change execFreezeHoldExpiry n clear s = _
  unfold execFreezeHoldExpiry
  rw [act_next s 10 _ h10, if_pos (by simp [h9, hw])]
  rfl

/-- During FREEZE the cold acquisition waits. -/
theorem State.holdEnded_waits (n : Line) (h9 : s.splState n = 9) (hf : s.on .SPLC_CMD_FREEZE n = true) :
    ((s.holdEnded n).spl n).coldDue = true ∧ (s.holdEnded n).on .SPLC_STAT_WARM_PEND n = false ∧ (s.holdEnded n).splState n = 9 := by
  rw [State.holdEnded, if_pos hf]
  refine ⟨?_, ?_, ?_⟩
  · have hspl (t : State) : (t.wr .SPLC_STAT_WARM_PEND 0 n).spl n = t.spl n := rfl
    rw [hspl, State.setSpl_spl]
  · rw [State.on, State.rd_wr_one _ _ _ (by decide)]
    rfl
  · rw [State.splState, State.rd_wr_apart _ _ _ _ _ _ _ _ (by decide)]
    exact h9

/-- FREEZE as written. -/
def State.freezeWritten (s : State) (n : Nat) (v : Bool) : State := s.wr .SPLC_CMD_FREEZE (b2n v) n

/-- The write of FREEZE, without the requester's latch, leaves the receiver's state. -/
theorem State.freezeWritten_shows (req : Requester) (n : Line) (v : Bool) :
    ((s.dropLatch req).freezeWritten n v).on .SPLC_CMD_FREEZE n = v ∧
      ((s.dropLatch req).freezeWritten n v).splState n = s.splState n ∧ ((s.dropLatch req).freezeWritten n v).spl n = s.spl n ∧
      ((s.dropLatch req).freezeWritten n v).on .SPLC_STAT_RAW_LOS n = s.on .SPLC_STAT_RAW_LOS n := by
  refine ⟨?_, State.rd_wr_apart _ _ _ _ _ _ _ _ (by decide), rfl, ?_⟩
  · rw [State.on, State.freezeWritten, State.rd_wr_one _ _ _ (by decide)]
    exact b2n_ne_zero v
  · rw [State.on, State.freezeWritten, State.rd_wr_apart _ _ _ _ _ _ _ _ (by decide)]
    rfl

/-- FREEZE set: Tracking, or the frame of a warm restart, freezes, and an acquisition halts. -/
def State.freezeSet (s : State) (n : Nat) : State :=
  if s.freezable n then s.freeze n
  else if 3 ≤ s.splState n ∧ s.splState n ≤ 7 then s.setSpl n { s.spl n with halted := true }
  else s

/-- FREEZE cleared: what it held goes on. -/
def State.freezeCleared (s : State) (n : Nat) : State :=
  if s.splState n = 9 then
    if (s.spl n).coldDue then s.coldStart n
    else if s.on .SPLC_STAT_RAW_LOS n then s.wr .SPLC_STAT_WARM_PEND 1 n
    else s.warmRestart n
  else s.setSpl n { s.spl n with halted := false }

theorem State.setFreeze_rises {n : Nat} (h : s.on .SPLC_CMD_FREEZE n = false) : s.setFreeze n true = (s.freezeWritten n true).freezeSet n := by
  unfold State.setFreeze
  dsimp only
  rw [if_neg (by simp [h]), if_pos rfl]
  rfl

theorem State.setFreeze_falls {n : Nat} (h : s.on .SPLC_CMD_FREEZE n = true) :
    s.setFreeze n false = (s.freezeWritten n false).freezeCleared n := by
  unfold State.setFreeze
  dsimp only
  rw [if_neg (by simp [h]), if_neg (by decide)]
  rfl

theorem State.setFreeze_same {n : Nat} {v : Bool} (h : s.on .SPLC_CMD_FREEZE n = v) : s.setFreeze n v = s.freezeWritten n v :=
  if_pos (by simp [h])

/-- What FREEZE leads to leaves FREEZE. -/
theorem State.freezeSet_freeze (n : Nat) : (s.freezeSet n).on .SPLC_CMD_FREEZE n = s.on .SPLC_CMD_FREEZE n := by
  unfold State.freezeSet
  split
  · exact State.on_leaveTo_beside _ (by decide) _ _ _ _ _
  · split <;> rfl

theorem State.coldStart_freeze (n : Nat) : (s.coldStart n).on .SPLC_CMD_FREEZE n = s.on .SPLC_CMD_FREEZE n :=
  State.kept_on (State.coldStart_kept s n (State.kept_refl _ s) (Foot.refl _)) _ rfl _ _ _

theorem State.freezeCleared_freeze (n : Nat) : (s.freezeCleared n).on .SPLC_CMD_FREEZE n = s.on .SPLC_CMD_FREEZE n := by
  unfold State.freezeCleared
  split
  · split
    · exact s.coldStart_freeze n
    · split
      · unfold State.on; rw [State.rd_wr_apart _ _ _ _ _ _ _ _ (by decide)]
      · exact State.kept_on (State.warmRestart_kept s n (State.kept_refl _ s) (Foot.refl _)) _ rfl _ _ _
  · rfl

theorem State.freezeSet_freezes (n : Line) (h : s.freezable n = true) :
    (s.freezeSet n).splState n = 9 := by
  rw [State.freezeSet, if_pos h]
  exact (s.freeze_shows n).1

theorem State.freezeSet_halts (n : Line) (h3 : 3 ≤ s.splState n) (h7 : s.splState n ≤ 7)
    (h : s.splState n = 7 → (s.spl n).thawed = false) : ((s.freezeSet n).spl n).halted = true ∧ (s.freezeSet n).splState n = s.splState n := by
  rw [State.freezeSet, if_neg (s.not_freezable h7 h), if_pos ⟨h3, h7⟩, State.setSpl_spl]
  exact ⟨rfl, rfl⟩

theorem State.freezeCleared_resumes (n : Line) (h : s.splState n ≠ 9) :
    ((s.freezeCleared n).spl n).halted = false ∧ (s.freezeCleared n).splState n = s.splState n := by
  rw [State.freezeCleared, if_neg h, State.setSpl_spl]
  exact ⟨rfl, rfl⟩

theorem State.freezeCleared_cold (n : Line) (h : s.splState n = 9) (hc : (s.spl n).coldDue = true) :
    (s.freezeCleared n).on .SPLC_EVT_COLD n = true := by
  rw [State.freezeCleared, if_pos h, if_pos hc]
  exact (s.coldStart_shows n).1

theorem State.freezeCleared_waits (n : Line) (h : s.splState n = 9) (hc : (s.spl n).coldDue = false)
    (hr : s.on .SPLC_STAT_RAW_LOS n = true) : (s.freezeCleared n).on .SPLC_STAT_WARM_PEND n = true ∧ (s.freezeCleared n).splState n = 9 := by
  rw [State.freezeCleared, if_pos h, if_neg (by simp [hc]), if_pos hr, State.on, State.rd_wr_one _ _ _ (by decide), State.splState,
    State.rd_wr_apart _ _ _ _ _ _ _ _ (by decide)]
  exact ⟨rfl, h⟩

theorem State.freezeCleared_restarts (n : Line) (h : s.splState n = 9) (hc : (s.spl n).coldDue = false)
    (hr : s.on .SPLC_STAT_RAW_LOS n = false) : (s.freezeCleared n).splState n = 7 ∧ ((s.freezeCleared n).spl n).warm = true := by
  rw [State.freezeCleared, if_pos h, if_neg (by simp [hc]), if_neg (by simp [hr])]
  exact s.warmRestart_shows n

/-- What a write of SPLC_CMD does: FREEZE, then REACQ. -/
def State.commanded (s : State) (n : Nat) (v : Bool) (reacq : Bool) : State :=
  if reacq then (s.setFreeze n v).reacq n else s.setFreeze n v

theorem State.spliceCmd_kept_effect {req : Requester} {n : Line} (v : Nat) (h : s.mayWrite req 10 1 (s.lineDom n)) :
    ∃ t, access req 10 s (fun s => s.spliceCmd req n v) = .next t ∧
      ((s.dropLatch req).commanded n (bit v 0) (bit v 1)).kept recordMask t :=
  access_runWrite (f := fun t => t.commanded n (bit v 0) (bit v 1)) s h ⟨_, v, rfl⟩

theorem exec_freeze {req : Requester} {n : Line} (h : s.mayWrite req 10 1 (s.lineDom n)) :
    ∃ t, exec (.freeze req n) s = .next t ∧ ((s.dropLatch req).setFreeze n true).kept recordMask t := s.spliceCmd_kept_effect 1 h

theorem exec_unfreeze {req : Requester} {n : Line} (h : s.mayWrite req 10 1 (s.lineDom n)) :
    ∃ t, exec (.unfreeze req n) s = .next t ∧ ((s.dropLatch req).setFreeze n false).kept recordMask t := s.spliceCmd_kept_effect 0 h

/-- REACQ is written beside FREEZE as it stands. -/
theorem State.bits_reacqWritten (n : Line) : bit (2 + s.rd .SPLC_CMD_FREEZE n) 0 = s.on .SPLC_CMD_FREEZE n ∧
    bit (2 + s.rd .SPLC_CMD_FREEZE n) 1 = true := by
  have hlt : s.rd .SPLC_CMD_FREEZE n < 2 := bits_lt _ 0 0
  unfold State.on
  generalize s.rd .SPLC_CMD_FREEZE n = k at *
  interval_cases k <;> decide

theorem exec_reacq {req : Requester} {n : Line} (h : s.mayWrite req 10 1 (s.lineDom n)) :
    ∃ t, exec (.reacq req n) s = .next t ∧
      (((s.dropLatch req).freezeWritten n (s.on .SPLC_CMD_FREEZE n)).reacq n).kept recordMask t := by
  obtain ⟨hf, hr⟩ := s.bits_reacqWritten n
  have hw : ∃ t, exec (.reacq req n) s = .next t ∧
      ((s.dropLatch req).commanded n (bit (2 + s.rd .SPLC_CMD_FREEZE n) 0) (bit (2 + s.rd .SPLC_CMD_FREEZE n) 1)).kept recordMask t :=
    access_runWrite (F := fun s => s.spliceCmd req n (2 + s.rd .SPLC_CMD_FREEZE n))
      (f := fun t => t.commanded n (bit (2 + s.rd .SPLC_CMD_FREEZE n) 0) (bit (2 + s.rd .SPLC_CMD_FREEZE n) 1)) s h
      ⟨_, 2 + s.rd .SPLC_CMD_FREEZE n, rfl⟩
  rwa [hf, hr, State.commanded, if_pos rfl, State.setFreeze_same (s.dropLatch req) (v := s.on .SPLC_CMD_FREEZE n) rfl] at hw

/-- A cold acquisition from Frequency search on; before it the state goes on. -/
theorem State.reacq_restarts (n : Line) (h : 3 ≤ s.splState n) : (s.reacq n).on .SPLC_EVT_COLD n = true ∧
    (s.reacq n).splState n = if s.on .SPLC_STAT_RAW_LOS n then 1 else 3 := by
  obtain ⟨hev, hst, -⟩ := s.coldStart_shows n
  rw [State.reacq, if_pos h]
  exact ⟨hev, hst⟩

theorem State.reacq_goesOn {n : Nat} (h : s.splState n < 3) : s.reacq n = s := if_neg (by omega)

theorem State.reacq_freeze (n : Nat) : (s.reacq n).on .SPLC_CMD_FREEZE n = s.on .SPLC_CMD_FREEZE n := by
  unfold State.reacq
  split
  · exact s.coldStart_freeze n
  · rfl

/-- What a journal record leaves of the receiver. -/
theorem State.recorded_shows {t : State} (h : s.kept recordMask t) (n : Nat) :
    t.splState n = s.splState n ∧ t.spl n = s.spl n ∧ t.on .SPLC_CMD_FREEZE n = s.on .SPLC_CMD_FREEZE n ∧
      t.on .SPLC_EVT_COLD n = s.on .SPLC_EVT_COLD n ∧ t.on .SPLC_STAT_WARM_PEND n = s.on .SPLC_STAT_WARM_PEND n :=
  ⟨State.kept_rd h _ rfl _ _ _, State.kept_spl h rfl n, State.kept_on h _ rfl _ _ _, State.kept_on h _ rfl _ _ _,
    State.kept_on h _ rfl _ _ _⟩

/-! ### Divergence (Table 3.7) -/

theorem exec_subcarrierDiverge {n : Line} {f : Slot} (majority : Bool) (h10 : s.alive 10 = true) (ht : s.tracking n = true)
    (hl : (s.lit n).contains f.val = true) (hr : (s.spl n).restarting.get 0 f = 0) :
    exec (.subcarrierDiverge n f majority) s = .next (if majority then (s.subRestart n f).coldStart n else s.subRestart n f) := by
  change execSubcarrierDiverge n f majority s = _
  unfold execSubcarrierDiverge
  rw [act_next s 10 _ h10, if_pos (by simp only [ht, hl, hr]; rfl)]

/-- A cold acquisition keeps the counts and events of subcarriers, and ends their locks. -/
theorem State.coldStart_subs (n : Line) (f : Slot) : (s.coldStart n).on .SPLC_EVT_DIVERGED n = s.on .SPLC_EVT_DIVERGED n ∧
    (s.coldStart n).rd .SPLC_SC_HIST_RESTARTS n f = s.rd .SPLC_SC_HIST_RESTARTS n f ∧
    (s.coldStart n).on .SPLC_SC_EST_LOCK n f = false := by
  refine ⟨?_, ?_, State.leaveTo_lock _ n _ f⟩
  · rw [State.coldStart_eq, State.kept_on (State.restarted_only _ _) _ rfl]
    unfold State.splEvent State.on
    rw [State.rd_raise_apart _ _ _ _ _ _ _ _ _ (by decide) rfl]
  · rw [State.coldStart, State.waitSignal, State.rd_leaveTo_beside _ (by decide), State.lineRestart, State.inc,
      State.rd_wr_apart _ _ _ _ _ _ _ _ (by decide), State.kept_rd (State.splEvent_only _ n _ rfl) _ rfl]

/-- Settles O32: each command leads to one transition of the receiver, which shows its STATE; what follows it in Hitch, Cleat and Halyard
leaves what the receiver shows. -/
theorem acquisitionStates : Obligations.AcquisitionStates := by
  unfold Obligations.AcquisitionStates
  refine ⟨?stages, ?subs, ?bound, ?window, ?hold, ?command, ?diverge⟩
  case stages =>
    intro s n h10
    refine ⟨fun h => ?_, fun h => ?_, fun h => ?_, fun h => ?_, fun h => ?_⟩
    · have hexec : exec (.freqSearchDone n) s = _ := act_next s 10 _ h10
      refine ⟨_, hexec, exec_only_of_fits hexec (by simp only [footprint]; decide +kernel), fun hf => ?_, fun hf => ?_⟩
      · rw [if_pos (by simp [h, hf])]
        exact s.wr_splState n (by split <;> decide)
      · exact if_neg (by simp [hf])
    · have hexec : exec (.cdSearchDone n) s = _ := act_next s 10 _ h10
      refine ⟨_, hexec, exec_only_of_fits hexec (by simp only [footprint]; decide +kernel), ?_⟩
      rw [if_pos h]
      exact s.wr_splState n (by decide)
    · have hexec : exec (.timingDone n) s = _ := act_next s 10 _ h10
      refine ⟨_, hexec, exec_only_of_fits hexec (by simp only [footprint]; decide +kernel), ?_⟩
      rw [if_pos h]
      exact s.wr_splState n (by decide)
    · have hexec : exec (.blindConvergeDone n none) s = _ := act_next s 10 _ h10
      refine ⟨_, hexec, exec_only_of_fits hexec (by simp only [footprint]; decide +kernel), ?_⟩
      rw [if_pos h]
      exact s.wr_splState n (by decide)
    · have hexec : exec (.pilotLockDone n none) s = _ := act_next s 10 _ h10
      refine ⟨_, hexec, exec_only_of_fits hexec (by simp only [footprint]; decide +kernel), ?_⟩
      rw [if_pos h]
      exact s.reachTracking_shows n
  case subs =>
    intro s n f h10
    refine ⟨fun h => ?_, fun h => ?_, fun h => ?_⟩
    · have hexec : exec (.blindConvergeDone n (some f)) s = _ := act_next s 10 _ h10
      refine ⟨_, hexec, exec_only_of_fits hexec (by simp only [footprint]; decide +kernel), ?_⟩
      rw [if_pos h, State.setSpl_spl]
      exact ⟨Tab.get_put_same 0 (s.spl n).restarting f 7, (s.subIn_iff.mp h).1⟩
    · have hexec : exec (.pilotLockDone n (some f)) s = _ := act_next s 10 _ h10
      refine ⟨_, hexec, exec_only_of_fits hexec (by simp only [footprint]; decide +kernel), ?_⟩
      have hwr (t : State) : (t.wr .SPLC_SC_EST_LOCK 1 n f).spl n = t.spl n := rfl
      rw [if_pos h, State.lockReturns_lock, State.wr_lock,
        State.kept_spl (State.lockReturns_kept _ n f (State.kept_refl _ _) (Foot.refl _)) rfl, hwr, State.setSpl_spl]
      exact ⟨Tab.get_put_same 0 (s.spl n).restarting f 0, rfl⟩
    · have hexec : exec (.acqBoundExpiry n (some f)) s = _ := act_next s 10 _ h10
      refine ⟨_, hexec, exec_only_of_fits hexec (by simp only [footprint]; decide +kernel), ?_⟩
      obtain ⟨hr, hl, hct, -⟩ := s.subRestart_shows n f
      rw [if_pos (by simpa using h)]
      exact ⟨hr, hl, hct⟩
  case bound =>
    intro s n h10 hh h3 h7
    have hexec := exec_acqBoundExpiry s h10 hh h3 h7
    refine ⟨_, hexec, exec_only_of_fits hexec (by simp only [footprint]; decide +kernel), ?_⟩
    cases hw : (s.spl n).warm with
    | true =>
      obtain ⟨hev, hst, hct⟩ := s.coldStart_shows n
      rw [if_pos rfl]
      exact ⟨hst, hct, fun _ => hev, nofun⟩
    | false =>
      have hb := s.boundEvent_only n
      have hr := (s.boundEvent n).restarted_only n
      obtain ⟨hst, hct⟩ := (s.boundEvent n).restarted_shows n
      rw [if_neg (by decide), hst, hct, State.kept_on hb _ rfl, State.kept_rd hb _ rfl, State.kept_on hr .SPLC_EVT_FOFF_RANGE rfl,
        State.kept_on hr .SPLC_EVT_CD_FAIL rfl, State.kept_on hr .SPLC_EVT_DIVERGED rfl]
      exact ⟨rfl, rfl, nofun, fun _ => ⟨s.boundEvent_foff n, s.boundEvent_cd n, s.boundEvent_diverged n⟩⟩
  case window =>
    rintro s n power pin viaPin h10 h0 h2 rfl
    have hexec := exec_rawLosWindow s power pin h10 h0 h2
    refine ⟨_, hexec, exec_only_of_fits hexec (by simp only [footprint]; decide +kernel), ?_⟩
    generalize hv : (pin && s.on .SPLC_LINE_CFG_LOS_PIN_EN n) = viaPin
    generalize hu : s.pinShown n pin = u
    have hrd (g : Fld) (h : Fld.apart .SPLC_STAT_LOS_PIN g = true) : u.rd g n = s.rd g n := by
      rw [← hu]; exact s.rd_pinShown n _ _ _ pin h
    have hon (g : Fld) (h : Fld.apart .SPLC_STAT_LOS_PIN g = true) : u.on g n = s.on g n := by unfold State.on; rw [hrd g h]
    have hst : u.splState n = s.splState n := hrd _ (by decide)
    have hspl : u.spl n = s.spl n := by rw [← hu]; rfl
    have hmode : u.lineMode n = s.lineMode n := by rw [← hu]; exact s.pinShown_lineMode n pin
    have hpin : u.on .SPLC_STAT_LOS_PIN n = pin := by rw [← hu]; exact s.pinShown_pin n pin
    have hpins : u.pins.losIn.get false n = pin := by rw [← hu]; exact Tab.get_put_same _ _ _ _
    obtain ⟨hpin', hpins'⟩ := u.judgeLos_pin n power viaPin
    rw [hpin', hpins', ← hmode, ← hst, ← hspl, ← hon .SPLC_STAT_RAW_LOS (by decide), ← hon .SPLC_STAT_WARM_PEND (by decide),
      ← hon .SPLC_CMD_FREEZE (by decide), ← hrd .SPLC_LINE_CFG_LOS_THR (by decide), ← hrd .SPLC_LINE_CFG_LOS_HYST (by decide)]
    refine ⟨hpin, hpins, fun hr h => ?_, fun hr h hvia => ?_, fun hr h => ?_, fun hr h hvia => ?_⟩
    · rw [u.judgeLos_rise hr h]
      obtain ⟨hraw, hev, hdef⟩ := u.losRise_shows n
      refine ⟨hraw, hdef, hev, fun h8 => u.losRise_freezes n (u.freezable_iff.mpr (.inl h8)), fun h7 ht => ?_, u.losRise_waits n⟩
      obtain ⟨hst9, -, hwp⟩ := u.losRise_freezes n (u.freezable_iff.mpr (.inr ⟨h7, ht⟩))
      exact ⟨hst9, hwp⟩
    · rw [hvia, u.judgeLos_fall hr h]
      obtain ⟨hraw, hdef⟩ := u.losFall_shows n
      exact ⟨hraw, hdef, u.losFall_searches n, u.losFall_restarts n⟩
    · rw [u.judgeLos_holds hr h]
      exact ⟨hr, rfl⟩
    · rw [hvia, u.judgeLos_clear hr h]
      exact ⟨hr, rfl⟩
  case hold =>
    intro s n h10 h9 hw
    constructor
    · have hexec := exec_freezeHoldExpiry s true h10 h9 hw
      exact ⟨_, hexec, exec_only_of_fits hexec (by simp only [footprint]; decide +kernel), (s.losFall_shows n).1,
        fun hf => s.losFall_restarts n h9 hf hw, s.losFall_frozen n h9⟩
    · have hexec := exec_freezeHoldExpiry s false h10 h9 hw
      refine ⟨_, hexec, exec_only_of_fits hexec (by simp only [footprint]; decide +kernel), fun hf => ?_, s.holdEnded_waits n h9⟩
      obtain ⟨hev, hst, -⟩ := s.coldStart_shows n
      rw [if_neg (by decide), State.holdEnded, if_neg (by simp [hf])]
      exact ⟨hev, hst⟩
  case command =>
    intro s req n hmay
    refine ⟨fun hf => ?_, fun hf => ?_, ?_⟩
    · obtain ⟨t, hexec, hk⟩ := exec_freeze s hmay
      refine ⟨t, hexec, exec_only_of_fits hexec (by simp only [footprint]; decide +kernel), ?_⟩
      obtain ⟨hfz, hst, hspl, -⟩ := s.freezeWritten_shows req n true
      rw [(s.dropLatch req).setFreeze_rises hf] at hk
      generalize (s.dropLatch req).freezeWritten n true = u at *
      obtain ⟨hst', hspl', hfz', -⟩ := State.recorded_shows _ hk n
      rw [hst', hspl', hfz', State.freezeSet_freeze, ← hst, ← hspl]
      exact ⟨hfz, fun h8 => u.freezeSet_freezes n (u.freezable_iff.mpr (.inl h8)),
        fun h7 ht => u.freezeSet_freezes n (u.freezable_iff.mpr (.inr ⟨h7, ht⟩)), u.freezeSet_halts n⟩
    · obtain ⟨t, hexec, hk⟩ := exec_unfreeze s hmay
      refine ⟨t, hexec, exec_only_of_fits hexec (by simp only [footprint]; decide +kernel), ?_⟩
      obtain ⟨hfz, hst, hspl, hraw⟩ := s.freezeWritten_shows req n false
      rw [(s.dropLatch req).setFreeze_falls hf] at hk
      generalize (s.dropLatch req).freezeWritten n false = u at *
      obtain ⟨hst', hspl', hfz', hev', hwp'⟩ := State.recorded_shows _ hk n
      rw [hst', hspl', hfz', hev', hwp', State.freezeCleared_freeze, ← hst, ← hraw, ← hspl]
      exact ⟨hfz, u.freezeCleared_resumes n, u.freezeCleared_cold n, u.freezeCleared_waits n, u.freezeCleared_restarts n⟩
    · obtain ⟨t, hexec, hk⟩ := exec_reacq s hmay
      refine ⟨t, hexec, exec_only_of_fits hexec (by simp only [footprint]; decide +kernel), ?_⟩
      obtain ⟨hfz, hst, -, hraw⟩ := s.freezeWritten_shows req n (s.on .SPLC_CMD_FREEZE n)
      generalize (s.dropLatch req).freezeWritten n (s.on .SPLC_CMD_FREEZE n) = u at *
      obtain ⟨hst', -, hfz', hev', -⟩ := State.recorded_shows _ hk n
      rw [hst', hfz', hev', State.reacq_freeze, hfz, ← hst, ← hraw]
      exact ⟨rfl, u.reacq_restarts n, fun h => by rw [u.reacq_goesOn h]⟩
  case diverge =>
    intro s n f majority h10 ht hl hr
    have hexec := exec_subcarrierDiverge s majority h10 ht hl hr
    refine ⟨_, hexec, exec_only_of_fits hexec (by simp only [footprint]; decide +kernel), ?_⟩
    obtain ⟨hrest, hlock, hct, hev, hst⟩ := s.subRestart_shows n f
    cases majority with
    | false =>
      have h8 : s.splState n = 8 := by simpa [State.tracking] using ht
      exact ⟨hev, hct, hlock, fun _ => ⟨hrest, hst.trans h8⟩, nofun⟩
    | true =>
      obtain ⟨hcold, hstc, -⟩ := (s.subRestart n f).coldStart_shows n
      obtain ⟨hevc, hctc, hlockc⟩ := (s.subRestart n f).coldStart_subs n f
      have hraw : (s.subRestart n f).on .SPLC_STAT_RAW_LOS n = s.on .SPLC_STAT_RAW_LOS n :=
        State.kept_on (State.subRestart_kept s n f (State.kept_refl _ s) (Foot.refl _)) _ rfl _ _ _
      exact ⟨hevc.trans hev, hctc.trans hct, hlockc, nofun, fun _ => ⟨hcold, hraw ▸ hstc⟩⟩

end Sys2Proof.Machine
end

section
/-! The Ospin commands (R349, R353, R354, R419): what an accepted command shows once its effect has ended it, journaled or not. -/

namespace Sys2Proof.Machine

open Sys2Proof

variable (s : State)

/-! ### Finding and changing an accepted command -/

/-- An accepted command marked as started. -/
def State.begun (s : State) (h : Nat) : State := s.setCmd h fun c => { c with started := true }

/-- A change that keeps the numbers is found under the same number. -/
theorem State.cmd_setCmd {h : Nat} {f : Cmd → Cmd} (hf : ∀ c, (f c).num = c.num) : (s.setCmd h f).cmd h = (s.cmd h).map f := by
  unfold State.cmd State.setCmd
  dsimp only
  induction s.inflight with
  | nil => rfl
  | cons c l ih =>
    by_cases hc : c.num = h
    · simp [hc, hf]
    · simpa [hc] using ih

theorem State.cmd_begun {h : Nat} {c : Cmd} (hc : s.cmd h = some c) : (s.begun h).cmd h = some { c with started := true } := by
  rw [State.begun, State.cmd_setCmd]
  · rw [hc]; rfl
  · exact fun _ => rfl

theorem State.cmd_finish {h : Nat} {c : Cmd} (hc : s.cmd h = some c) (hd : c.done = false) (status reason : Nat)
    (result buffer : List Byte) : (s.finish h status reason result buffer).cmd h = some { c with
      done := true, status := status, reason := reason, result := if status = 0 then result else [], buffer := buffer } := by
  rw [State.finish, State.cmd_setCmd _ fun c => by split <;> rfl, hc, Option.map_some, if_neg (by simp [hd])]

@[simp] theorem State.rd_finish (q : Fld) (h status reason : Nat) (result buffer : List Byte) (a b c : Nat) :
    (s.finish h status reason result buffer).rd q a b c = s.rd q a b c := rfl
@[simp] theorem State.bgt_finish (h status reason : Nat) (result buffer : List Byte) (m : Nat) :
    (s.finish h status reason result buffer).bgt m = s.bgt m := rfl

theorem State.kept_cmd {s t : State} {m : Nat} (h : s.kept m t) (hm : m.testBit 5 = false) (k : Nat) : t.cmd k = s.cmd k := by
  have hin : t.inflight = s.inflight := State.kept_part h 5 hm
  rw [State.cmd, hin, ← State.cmd]

/-! ### The effect of a command -/

/-- A command that is ready takes effect, but for its journal record. -/
theorem ospin_ready {s : State} {b op h : Nat} {c : Cmd} (hr : s.ready b op h c) (f : Cmd → State → State) :
    ∃ t, ospin b op h s f = .next t ∧ (f c (s.begun h)).kept recordMask t := by
  obtain ⟨h1, hb, hc, hrun, -, hj⟩ := hr
  unfold ospin ospinRaw
  rw [act_next s 1 _ h1, hc]
  dsimp only
  rw [if_pos (by simp [hb, hrun])]
  refine ⟨_, rfl, ?_⟩
  cases hjn : c.journaled with
  | false => exact State.kept_refl _ _
  | true =>
    have hblocked : (s.setCmd h fun c => { c with started := true }).journalBlocked = false := hj hjn
    rw [if_neg (by simp), if_neg (by simp [hblocked])]
    exact State.recordDone_kept _ _ _ _ (State.kept_refl _ _) (Foot.refl _)

/-- What a command that is ready shows once its effect, which leaves the accepted commands, has ended it. -/
theorem State.ready_ended {s u t : State} {b op h : Nat} {c : Cmd} {status reason : Nat} {result buffer : List Byte}
    (hr : s.ready b op h c) (ht : (u.finish h status reason result buffer).kept recordMask t) (hu : u.inflight = (s.begun h).inflight) :
    t.ended h status ∧ ∀ d, t.cmd h = some d → d.result = (if status = 0 then result else []) ∧ d.buffer = buffer := by
  obtain ⟨-, -, hc, -, hd, -⟩ := hr
  have hcmd : u.cmd h = some { c with started := true } := by
    rw [← s.cmd_begun hc, State.cmd, hu]
    rfl
  have hend := u.cmd_finish hcmd hd status reason result buffer
  rw [← State.kept_cmd ht rfl h] at hend
  refine ⟨⟨_, hend, rfl, rfl, rfl⟩, fun d hd' => ?_⟩
  obtain rfl := Option.some.inj (hend.symm.trans hd')
  exact ⟨rfl, rfl⟩

end Sys2Proof.Machine
end

section
/-! The protection commands and the hub's leaf commands (R137, R277, R280, R281, R353), and the obligation on them. CMD showing a lockout
before a forced path (log entry 93), a realignment in Pass-through that waits for its region (log entry 55) and a re-ranging of a leaf in
another state that changes nothing (log entry 52) are the model's choices. -/

namespace Sys2Proof.Machine

open Sys2Proof

variable (s : State)

theorem State.kept_grp {s t : State} {m : Nat} (h : s.kept m t) (hm : m.testBit 25 = false) (g : Nat) : t.grp g = s.grp g :=
  congrArg (fun x => Tab.get ({} : GroupInt) x g) (State.kept_part h 25 hm)

/-! ### Alignments (R274, R280) -/

theorem State.setGrp_grp (g : Nat) (x : GroupInt) : (s.setGrp g x).grp g = x := by simp [State.grp]

/-- What an alignment has settled is as before: the offset, that the group is aligned, its event, and that Pass-through has ended. -/
def State.alignedAlike (s : State) (g : Nat) (t : State) : Prop :=
  t.rd .BEND_PG_STAT_DO g = s.rd .BEND_PG_STAT_DO g ∧ (t.grp g).aligned = (s.grp g).aligned ∧
    t.on .BEND_EVT_REALIGN = s.on .BEND_EVT_REALIGN ∧ (s.rd .BEND_PG_STAT_GSTATE g ≠ 4 → t.rd .BEND_PG_STAT_GSTATE g ≠ 4)

section
variable {s} {t u : State} {g : Nat}

theorem State.alignedAlike.trans (h : s.alignedAlike g t) (h' : t.alignedAlike g u) : s.alignedAlike g u := by
  obtain ⟨hdo, hal, hev, hst⟩ := h
  obtain ⟨hdo', hal', hev', hst'⟩ := h'
  exact ⟨hdo'.trans hdo, hal'.trans hal, hev'.trans hev, fun h4 => hst' (hst h4)⟩

theorem State.refreshGroup_alignedAlike (g : Pg) : s.alignedAlike g (s.refreshGroup g) := by
  refine ⟨?_, rfl, ?_, fun h4 => ?_⟩
  · exact State.rd_wr_apart _ _ _ _ _ _ _ _ (by decide)
  · rw [State.on, State.refreshGroup, State.rd_wr_apart _ _ _ _ _ _ _ _ (by decide)]; rfl
  · rw [State.refreshGroup, State.rd_wr_one _ _ _ (by decide)]
    dsimp only
    rw [if_neg h4]
    split_ifs <;> decide

theorem State.refreshPath_alignedAlike (g : Pg) (p : Nat) : s.alignedAlike g (s.refreshPath g p) := by
  unfold State.refreshPath
  dsimp only
  refine State.alignedAlike.trans ?_ (State.refreshGroup_alignedAlike g)
  have hend (c d : Prop) [Decidable c] [Decidable d] (u : State) (dom : Nat) (l : List Nat) : u.alignedAlike g
      (if c then u.raise .BEND_EVT_PATH_FAIL 0x7801 dom l else if d then u.raise .BEND_EVT_PATH_OK 0x7802 dom l else u) := by
    unfold State.alignedAlike State.on State.grp
    split_ifs <;> simp (disch := decide) [State.rd_raise_apart]
  refine State.alignedAlike.trans ?_ (hend _ _ _ _ _)
  unfold State.alignedAlike State.on State.grp
  split_ifs <;> simp (disch := decide) [State.rd_wr_apart]

theorem State.setGrp_alignedAlike {x : GroupInt} (h : x.aligned = (s.grp g).aligned) : s.alignedAlike g (s.setGrp g x) :=
  ⟨State.rd_setGrp _ _ _ _ _ _ _, by rw [State.setGrp_grp, h], State.on_setGrp _ _ _ _ _ _ _, fun h4 => by rwa [State.rd_setGrp]⟩

theorem GroupInt.setPath_aligned (x : GroupInt) (p : Nat) (y : PathInt) : (x.setPath p y).aligned = x.aligned := by
  unfold GroupInt.setPath
  split <;> rfl

theorem State.judgeWindow_alignedAlike (g : Pg) (p : Nat) : s.alignedAlike g (s.judgeWindow g p) := by
  unfold State.judgeWindow
  lift_lets
  intro x y behind early
  split
  · exact (State.setGrp_alignedAlike (GroupInt.setPath_aligned _ _ _)).trans (State.refreshPath_alignedAlike g p)
  · exact ⟨rfl, rfl, rfl, id⟩

end

/-- The offset of an alignment taken. -/
def State.offsetTaken (s : State) (g : Nat) : State :=
  let d := s.showDelta g (s.earlierNow g)
  (d.setGrp g { d.grp g with aligned := true }).wr .BEND_PG_STAT_DO (d.newOffset g) g

/-- The hit of an alignment after the first, counted and reported. -/
def State.hitTaken (s : State) (g old new : Nat) : State :=
  ((s.realignHit g old new).count .BEND_PG_CNT (hitUnits old new (s.grpSegments g)) g 7).raise .BEND_EVT_REALIGN 0x7805 (s.pgDom g) [g, 0]

/-- Pass-through ended. -/
def State.throughEnded (s : State) (g : Nat) : State :=
  if s.rd .BEND_PG_STAT_GSTATE g = 4 then s.wr .BEND_PG_STAT_GSTATE 1 g else s

/-- The offset of an alignment taken, after the first one with its hit. -/
def State.offsetMoved (s : State) (g : Nat) : State :=
  if (s.grp g).aligned then (s.offsetTaken g).hitTaken g (s.rd .BEND_PG_STAT_DO g) ((s.showDelta g (s.earlierNow g)).newOffset g)
  else s.offsetTaken g

theorem State.align_eq (g : Nat) :
    s.align g = ((((s.offsetMoved g).throughEnded g).judgeWindow g 0).judgeWindow g 1).refreshGroup g := by
  have hdo : (s.showDelta g (s.earlierNow g)).rd .BEND_PG_STAT_DO g = s.rd .BEND_PG_STAT_DO g :=
    State.kept_rd (State.showDelta_kept _ _ _ (State.kept_refl _ s) (Foot.refl _)) _ rfl _ _ _
  have hgrp : (s.showDelta g (s.earlierNow g)).grp g = s.grp g := rfl
  unfold State.align State.offsetMoved
  dsimp only
  rw [hdo, hgrp]
  cases (s.grp g).aligned <;> rfl

theorem State.newOffset_lt (g : Nat) : s.newOffset g < 2 ^ 24 := by
  have hguard : s.rd .BEND_PG_DLY_GUARD g < 2 ^ 12 := bits_lt _ 43 32
  have hreach : s.reach g ≤ 2000000 := Nat.min_le_left _ _
  unfold State.newOffset
  dsimp only
  omega

theorem State.offsetTaken_shows (g : Pg) : (s.offsetTaken g).rd .BEND_PG_STAT_DO g = (s.showDelta g (s.earlierNow g)).newOffset g ∧
    ((s.offsetTaken g).grp g).aligned = true := by
  refine ⟨?_, ?_⟩
  · unfold State.offsetTaken
    rw [State.rd_wr_one _ _ _ (by decide)]
    exact Nat.mod_eq_of_lt (State.newOffset_lt _ _)
  · simp [State.offsetTaken, State.grp]

/-- The hit's own units leave the offset and that the group is aligned. -/
theorem State.realignHit_keeps (g : Nat) (old new : Nat) :
    (s.realignHit g old new).rd .BEND_PG_STAT_DO g = s.rd .BEND_PG_STAT_DO g ∧
      ((s.realignHit g old new).grp g).aligned = (s.grp g).aligned := by
  refine ⟨State.kept_rd (State.realignHit_kept _ _ _ _ (State.kept_refl _ s) (Foot.refl _)) _ rfl _ _ _, ?_⟩
  unfold State.realignHit
  dsimp only
  generalize s.rd .BEND_PG_CFG_CLIENT g = c
  split_ifs
  · rfl
  · have hk := State.refreshEgress_kept (s.setCli c { s.cli c with unitFail := true }) c (State.kept_refl _ _) (Foot.refl _)
    exact congrArg GroupInt.aligned (State.kept_grp hk rfl g)
  · rw [State.setGrp_grp]

/-- A hit leaves them too, and shows its event. -/
theorem State.hitTaken_shows (g : Nat) (old new : Nat) :
    (s.hitTaken g old new).rd .BEND_PG_STAT_DO g = s.rd .BEND_PG_STAT_DO g ∧
      ((s.hitTaken g old new).grp g).aligned = (s.grp g).aligned ∧ (s.hitTaken g old new).on .BEND_EVT_REALIGN = true := by
  obtain ⟨hdo, hal⟩ := s.realignHit_keeps g old new
  refine ⟨?_, ?_, State.on_raise_none _ _ _ _ _ (by decide) rfl rfl⟩
  · rw [← hdo, State.hitTaken, State.rd_raise_apart _ _ _ _ _ _ _ _ _ (by decide) rfl]
    exact State.kept_rd (State.count_kept (m := footOf [.BEND_PG_CNT] []) _ _ _ _ _ _ (State.kept_refl _ _) rfl) _ rfl _ _ _
  · rw [← hal]
    simp [State.hitTaken, State.grp]

theorem State.offsetMoved_shows (g : Pg) : (s.offsetMoved g).rd .BEND_PG_STAT_DO g = (s.showDelta g (s.earlierNow g)).newOffset g ∧
    ((s.offsetMoved g).grp g).aligned = true ∧ ((s.grp g).aligned = true → (s.offsetMoved g).on .BEND_EVT_REALIGN = true) := by
  obtain ⟨hdo, hal⟩ := s.offsetTaken_shows g
  unfold State.offsetMoved
  split
  · obtain ⟨hdo', hal', hev⟩ := (s.offsetTaken g).hitTaken_shows g (s.rd .BEND_PG_STAT_DO g) ((s.showDelta g (s.earlierNow g)).newOffset g)
    exact ⟨hdo'.trans hdo, hal'.trans hal, fun _ => hev⟩
  · next h => exact ⟨hdo, hal, fun h' => absurd h' h⟩

theorem State.throughEnded_shows (g : Pg) : s.alignedAlike g (s.throughEnded g) ∧ (s.throughEnded g).rd .BEND_PG_STAT_GSTATE g ≠ 4 := by
  unfold State.throughEnded
  split
  · next h4 =>
    have hst : (s.wr .BEND_PG_STAT_GSTATE 1 g).rd .BEND_PG_STAT_GSTATE g ≠ 4 := by rw [State.rd_wr_one _ _ _ (by decide)]; decide
    refine ⟨⟨State.rd_wr_apart _ _ _ _ _ _ _ _ (by decide), rfl, ?_, fun _ => hst⟩, hst⟩
    rw [State.on, State.rd_wr_apart _ _ _ _ _ _ _ _ (by decide), State.on]
  · exact ⟨⟨rfl, rfl, rfl, id⟩, ‹_›⟩

/-- An alignment: its offset, an aligned group that is not in Pass-through, and the event where the group was aligned before. -/
theorem State.align_shows (g : Pg) : (s.align g).rd .BEND_PG_STAT_DO g = (s.showDelta g (s.earlierNow g)).newOffset g ∧
    ((s.align g).grp g).aligned = true ∧ (s.align g).rd .BEND_PG_STAT_GSTATE g ≠ 4 ∧
    ((s.grp g).aligned = true → (s.align g).on .BEND_EVT_REALIGN = true) := by
  obtain ⟨hdo, hal, hev⟩ := s.offsetMoved_shows g
  obtain ⟨hthrough, hst⟩ := (s.offsetMoved g).throughEnded_shows g
  have hjudged : ((s.offsetMoved g).throughEnded g).alignedAlike g (s.align g) := by
    rw [State.align_eq]
    exact ((State.judgeWindow_alignedAlike g 0).trans (State.judgeWindow_alignedAlike g 1)).trans (State.refreshGroup_alignedAlike g)
  obtain ⟨hdo', hal', hev', -⟩ := hthrough.trans hjudged
  obtain ⟨-, -, -, hst'⟩ := hjudged
  exact ⟨hdo'.trans hdo, hal'.trans hal, hst' hst, fun h => hev'.trans (hev h)⟩

theorem State.align_inflight (g : Nat) : (s.align g).inflight = s.inflight :=
  State.kept_part (State.align_kept s g (State.kept_refl _ s) (Foot.refl _)) 5 rfl

/-! ### The protection commands (Table 10.3) -/

/-- The group that a command names. -/
def Cmd.group (c : Cmd) : Pg := ⟨c.pg, Nat.mod_lt _ (by decide)⟩

/-- What a protection command answers. -/
def State.pgShown (s : State) (g : Nat) : List Byte :=
  leBytes 1 (s.rd .BEND_PG_STAT_GSTATE g) ++ leBytes 1 (s.rd .BEND_PATH_ST_PSTATE g 0 + s.rd .BEND_PATH_ST_PSTATE g 1 <<< 3) ++
    leBytes 3 (max (s.rd .BEND_PATH_ST_DELTA g 0) (s.rd .BEND_PATH_ST_DELTA g 1)) ++
    leBytes 3 (s.rd .BEND_PG_STAT_DO g) ++ leBytes 4 (s.rd .BEND_PG_STAT_Q g)

theorem State.finishPg_eq (h g : Nat) : s.finishPg h g = s.finish h 0 0 (s.pgShown g) [] := rfl

section
variable {s} {t u : State} {b op h : Nat} {c : Cmd}

/-- A protection command that succeeds answers what the group shows at its end. -/
theorem State.finishPg_ended (hr : s.ready b op h c) (ht : (u.finishPg h c.pg).kept recordMask t)
    (hu : u.inflight = (s.begun h).inflight) : t.ended h 0 ∧ ∀ d, t.cmd h = some d → d.result = t.pgShown c.pg := by
  obtain ⟨hend, hres⟩ := State.ready_ended hr ht hu
  have hshown : t.pgShown c.pg = u.pgShown c.pg := by
    have hrd (f : Fld) (p : Nat) (hf : f.id ∈ [RegId.BEND_PG_STAT, .BEND_PATH_ST]) : t.rd f c.pg p = u.rd f c.pg p := by
      refine State.kept_rd ht f ?_ _ _ _
      rcases List.mem_pair.mp hf with h | h <;> rw [h] <;> rfl
    simp (disch := decide) only [State.pgShown, hrd]
  exact ⟨hend, fun d hd => hshown ▸ (hres d hd).1⟩

end

theorem State.ended_status {h st st' : Nat} (hend : s.ended h st) (hend' : s.ended h st') : st = st' := by
  obtain ⟨c, hc, -, -, rfl⟩ := hend
  obtain ⟨c', hc', -, -, rfl⟩ := hend'
  rw [Option.some.inj (hc.symm.trans hc')]

/-- The commands of a group set, and the one that it shows: a lockout before a forced path. -/
theorem State.setGrp_showCmd_shows (g : Pg) (x : GroupInt) : ((s.setGrp g x).showCmd g).grp g = x ∧
    ((s.setGrp g x).showCmd g).rd .BEND_PG_STAT_CMD g = if x.lockout then 1 else x.force.elim 0 fun p => if p = 0 then 2 else 3 := by
  refine ⟨State.setGrp_grp _ _ _, ?_⟩
  unfold State.showCmd
  rw [State.rd_wr_one _ _ _ (by decide), State.setGrp_grp]
  split_ifs
  · rfl
  · rcases x.force with _ | _ | _ <;> rfl

section
variable {s} {t : State} {h : Nat} {c : Cmd}

/-- What a group shows at the end of a protection command is what its effect has left. -/
theorem State.finishPg_shows {u : State} (ht : (u.finishPg h c.pg).kept recordMask t) : t.grp c.pg = u.grp c.pg ∧ t.groups = u.groups ∧
    ∀ (f : Fld) (g : Nat), f.id ∈ [RegId.BEND_PG_STAT, .BEND_EVT] → t.rd f g = u.rd f g := by
  refine ⟨State.kept_grp ht rfl _, State.kept_part ht 25 rfl, fun f g hf => ?_⟩
  have hbit : recordMask.testBit (regBit f.id) = false := by rcases List.mem_pair.mp hf with h | h <;> rw [h] <;> rfl
  rw [State.kept_rd ht f hbit, State.finishPg_eq, State.rd_finish]

/-- The protection commands of a number with their OPCODEs. -/
def pgInstrs (h : Nat) : List (Instr × Nat) :=
  [(.pgLockout h, 0x0201), (.pgForce h, 0x0202), (.pgClear h, 0x0203), (.pgRealign h, 0x0204), (.pgStatus h, 0x0205)]

/-- The effect of a protection command. -/
def State.pgEffect (s : State) (h : Nat) (c : Cmd) : Instr → State
  | .pgLockout _ => (s.pgLockout c.pg).finishPg h c.pg
  | .pgForce _ =>
    if 1 < c.par 16 1 then s.finish h 5 0 [] []
    else if c.par 16 1 = 1 && (s.grp c.pg).lockout then s.finish h 6 0 [] []
    else (s.pgForce c.pg (c.par 16 1)).finishPg h c.pg
  | .pgClear _ => if 1 < c.par 16 1 then s.finish h 5 0 [] [] else (s.pgClear c.pg (c.par 16 1)).finishPg h c.pg
  | .pgRealign _ =>
    if s.rd .BEND_PG_STAT_GSTATE c.pg < 2 then s.finish h 6 0 [] []
    else if s.rd .BEND_PG_STAT_GSTATE c.pg = 4 && !s.regionReady (s.rd .BEND_PG_CFG_ATT_REGION c.pg) then s.finishPg h c.pg
    else (s.align c.pg).finishPg h c.pg
  | _ => s.finishPg h c.pg

theorem exec_pg {i : Instr} {op : Nat} (hi : (i, op) ∈ pgInstrs h) (hr : s.ready 15 op h c) :
    ∃ t, exec i s = .next t ∧ ((s.begun h).pgEffect h c i).kept recordMask t := by
  have hexec : exec i s = ospin 15 op h s fun c s => s.pgEffect h c i := by
    simp only [pgInstrs, List.mem_cons, Prod.mk.injEq, List.not_mem_nil, or_false] at hi
    rcases hi with ⟨rfl, rfl⟩ | ⟨rfl, rfl⟩ | ⟨rfl, rfl⟩ | ⟨rfl, rfl⟩ | ⟨rfl, rfl⟩ <;> rfl
  rw [hexec]
  exact ospin_ready hr _

/-- The effect of a protection command ends it with what the group shows, or with an error. -/
theorem State.pgEffect_ends (s : State) (h : Nat) (c : Cmd) (i : Instr) : ∃ u : State, u.inflight = s.inflight ∧
    (s.pgEffect h c i = u.finishPg h c.pg ∨ ∃ status ≠ 0, s.pgEffect h c i = u.finish h status 0 [] []) := by
  cases i with
  | pgLockout k => exact ⟨s.pgLockout c.pg, rfl, .inl rfl⟩
  | pgForce k =>
    rw [State.pgEffect]
    split_ifs
    · exact ⟨s, rfl, .inr ⟨5, by decide, rfl⟩⟩
    · exact ⟨s, rfl, .inr ⟨6, by decide, rfl⟩⟩
    · exact ⟨s.pgForce c.pg (c.par 16 1), rfl, .inl rfl⟩
  | pgClear k =>
    rw [State.pgEffect]
    split_ifs
    · exact ⟨s, rfl, .inr ⟨5, by decide, rfl⟩⟩
    · exact ⟨s.pgClear c.pg (c.par 16 1), rfl, .inl rfl⟩
  | pgRealign k =>
    rw [State.pgEffect]
    split_ifs
    · exact ⟨s, rfl, .inr ⟨6, by decide, rfl⟩⟩
    · exact ⟨s, rfl, .inl rfl⟩
    · exact ⟨s.align c.pg, s.align_inflight c.pg, .inl rfl⟩
  | _ => exact ⟨s, rfl, .inl rfl⟩

/-- A protection command that ends well answers what its group then shows. -/
theorem exec_pg_result {i : Instr} {op : Nat} (hi : (i, op) ∈ pgInstrs h) (hr : s.ready 15 op h c) (hexec : exec i s = .next t)
    (hend : t.ended h 0) : ∀ d, t.cmd h = some d → d.result = t.pgShown c.pg := by
  obtain ⟨t', hexec', hk⟩ := exec_pg hi hr
  obtain rfl : t' = t := Host.Outcome.next.inj (hexec'.symm.trans hexec)
  obtain ⟨u, hu, heq | ⟨status, hstatus, heq⟩⟩ := (s.begun h).pgEffect_ends h c i
  · rw [heq] at hk
    exact (State.finishPg_ended hr hk hu).2
  · rw [heq] at hk
    exact absurd (t'.ended_status (State.ready_ended hr hk hu).1 hend) hstatus

end

/-! ### What Bight holds is no register -/

@[simp] theorem State.rd_setLeaf (q : Fld) (n i : Nat) (x : LeafInt) (a b c : Nat) : (s.setLeaf n i x).rd q a b c = s.rd q a b c := rfl
@[simp] theorem State.on_setLeaf (q : Fld) (n i : Nat) (x : LeafInt) (a b c : Nat) : (s.setLeaf n i x).on q a b c = s.on q a b c := rfl
@[simp] theorem State.leafState_setLeaf (n i : Nat) (x : LeafInt) (m j : Nat) : (s.setLeaf n i x).leafState m j = s.leafState m j := rfl
@[simp] theorem State.rd_sendRepeat (q : Fld) (n : Nat) (units : List Byte) (cmd : Option Nat) (a b c : Nat) :
    (s.sendRepeat n units cmd).rd q a b c = s.rd q a b c := rfl
@[simp] theorem State.leafState_sendRepeat (n : Nat) (units : List Byte) (cmd : Option Nat) (m j : Nat) :
    (s.sendRepeat n units cmd).leafState m j = s.leafState m j := rfl

/-! ### Leaves that enter a state (R130, R137, R142) -/

/-- What the consequences of a leaf's state for the clients change. -/
def egressFoot : Nat := eventFoot [.SHET_CLI_STAT, .SHET_CLI_EVT, .SHET_CNT] [.clients]

/-- The fields that a leaf's entry into a state writes. -/
def leafStateFlds : List Fld := [.BGHT_LEAF_ST_STATE, .BGHT_LEAF_ST_DGASP, .BGHT_STAT_ACTIVE, .BGHT_STAT_STALE, .BGHT_STAT_LOST]

/-- A field that a leaf's entry into a state keeps. -/
def Fld.besideLeafState (g : Fld) : Bool := leafStateFlds.all (fun f => f.apart g) && !egressFoot.testBit (regBit g.id)

theorem State.rd_setLeafState_beside {g : Fld} (h : g.besideLeafState = true) (n i st a b c : Nat) :
    (s.setLeafState n i st).rd g a b c = s.rd g a b c := by
  simp only [Fld.besideLeafState, leafStateFlds, List.all_cons, List.all_nil, Bool.and_eq_true, Bool.and_true, Bool.not_eq_true'] at h
  obtain ⟨⟨hst, hgasp, hact, hstale, hlost⟩, hfoot⟩ := h
  unfold State.setLeafState State.countLeaves
  refine State.each_holds _ (fun t => t.rd g a b c = s.rd g a b c) ?_ fun k _ t ht => ?_
  · simp only [State.rd_wr_apart _ _ _ _ _ _ _ _ hlost, State.rd_wr_apart _ _ _ _ _ _ _ _ hstale, State.rd_wr_apart _ _ _ _ _ _ _ _ hact,
      State.rd_wr_apart _ _ _ _ _ _ _ _ hgasp, State.rd_wr_apart _ _ _ _ _ _ _ _ hst]
  · split
    · exact (State.kept_rd (State.refreshEgress_kept (m := egressFoot) t k (State.kept_refl _ t) rfl) _ hfoot _ _ _).trans ht
    · exact ht

theorem State.setLeafState_bgt (n i st m : Nat) : (s.setLeafState n i st).bgt m = s.bgt m :=
  State.kept_bgt (State.setLeafState_kept s n i st (State.kept_refl _ s) (Foot.refl _)) rfl m

theorem State.sendRepeat_bgt (n : Nat) (units : List Byte) (cmd : Option Nat) : (s.sendRepeat n units cmd).bgt n =
    { s.bgt n with msgs := (s.bgt n).msgs ++ [.mk units (s.rd .BGHT_LINE_CFG_REPEAT n) none cmd none] } := s.setBgt_bgt n _

theorem State.setBgt_bgt_other {n m : Nat} (x : BightInt) (h : m ≠ n) : (s.setBgt n x).bgt m = s.bgt m :=
  Tab.get_put_other _ _ _ _ _ h

theorem State.rerange_held {n i : Nat} (h2 : s.leafState n i ≠ 2) (h3 : s.leafState n i ≠ 3) : s.rerange n i = s := by
  unfold State.rerange
  rw [if_neg (by simp [h2, h3])]

/-- A leaf begun to be ranged again. -/
def State.ranging (s : State) (n i : Nat) : State :=
  (s.setLeaf n i { s.leaf n i with rtt := signed 32 (s.rd .BGHT_LEAF_ST_TA n i), assigned := true }).setLeafState n i 1

theorem State.rerange_eq {n i : Nat} (h : s.leafState n i = 2 ∨ s.leafState n i = 3) :
    s.rerange n i = (s.ranging n i).sendRepeat n (leafCmdMsg i 1) := by
  unfold State.rerange
  rw [if_pos h]
  rfl

/-- An Active or Stale leaf re-ranged. -/
theorem State.rerange_shows (n : Line) (i : Leaf) (h : s.leafState n i = 2 ∨ s.leafState n i = 3) :
    (s.rerange n i).leafState n i = 1 ∧
      (s.rerange n i).leaf n i = { s.leaf n i with rtt := signed 32 (s.rd .BGHT_LEAF_ST_TA n i), assigned := true } := by
  rw [s.rerange_eq h, State.leafState_sendRepeat, State.ranging, State.setLeafState_leafState _ n i (by decide)]
  refine ⟨rfl, ?_⟩
  rw [State.leaf, State.sendRepeat_bgt, State.setLeafState_bgt]
  exact s.setLeaf_leaf n i _

theorem State.rd_rerange_beside {g : Fld} (h : g.besideLeafState = true) (n i a b c : Nat) :
    (s.rerange n i).rd g a b c = s.rd g a b c := by
  by_cases hst : s.leafState n i = 2 ∨ s.leafState n i = 3
  · rw [s.rerange_eq hst, State.rd_sendRepeat, State.ranging, State.rd_setLeafState_beside _ h, State.rd_setLeaf]
  · obtain ⟨h2, h3⟩ := not_or.mp hst
    rw [s.rerange_held h2 h3]

/-! ### The hub's leaf commands (R137, R353) -/

section
variable {s} {t : State} {h : Nat} {c : Cmd} {n : Line} {i : Leaf}

theorem exec_leafRerange (hr : s.ready 11 0x0301 h c) (hl : c.leaf = (n.val, i.val)) : ∃ t, exec (.leafRerange h) s = .next t ∧
    (((s.begun h).rerangeAsked n i).finish h 0 0 (leBytes 1 (((s.begun h).rerangeAsked n i).leafState n i)) []).kept recordMask t := by
  obtain ⟨t, hexec, hk⟩ := ospin_ready hr fun c s =>
    let (n, i) := c.leaf
    let t := s.rerangeAsked n i
    t.finish h 0 0 (leBytes 1 (t.leafState n i)) []
  rw [hl] at hk
  exact ⟨t, hexec, hk⟩

theorem exec_leafStatus (hr : s.ready 11 0x0302 h c) (hl : c.leaf = (n.val, i.val)) : ∃ t, exec (.leafStatus h) s = .next t ∧
    ((s.begun h).finish h 0 0 (leBytes 1 (s.leafState n i)) (s.leafBytes n i)).kept recordMask t := by
  obtain ⟨t, hexec, hk⟩ := ospin_ready hr fun c s =>
    let (n, i) := c.leaf
    s.finish h 0 0 (leBytes 1 (s.leafState n i)) (s.leafBytes n i)
  rw [hl] at hk
  exact ⟨t, hexec, hk⟩

/-- The effect of LEAF_MGMT for one leaf. -/
def State.leafMgmtRun (s : State) (h n i : Nat) (body : List Byte) : State :=
  if s.leafState n i = 2 ∨ s.leafState n i = 3 then s.sendRepeat n (mgmtMsg i false body) (some h) else s.finish h 6 0 [] []

theorem exec_leafMgmt (hr : s.ready 11 0x0303 h c) (hl : c.leaf = (n.val, i.val)) (h8 : 8 ≤ c.ind.length) (h104 : c.ind.length ≤ 104)
    (hw : c.ind.length % 8 = 0) (hf : c.par 16 1 = 0) : ∃ t, exec (.leafMgmt h) s = .next t ∧
      ((s.begun h).leafMgmtRun h n i c.ind).kept recordMask t := by
  change ∃ t, execLeafMgmt h s = .next t ∧ _
  unfold execLeafMgmt
  obtain ⟨t, hexec, hk⟩ := ospin_ready hr _
  refine ⟨t, hexec, ?_⟩
  dsimp only at hk
  rwa [if_neg (by omega), if_neg (by omega), hl] at hk

end

theorem State.rerangeAsked_inflight (n i : Nat) : (s.rerangeAsked n i).inflight = s.inflight :=
  State.kept_part (State.rerangeAsked_kept s n i (State.kept_refl _ s) (Foot.refl _)) 5 rfl

/-- Settles O39: a ready command's effect, but for its record, is that of a named operation; an alignment's offset, mark and event survive
what is judged after it; the answer is read after the effect. -/
theorem groupAndLeafCommands : Obligations.GroupAndLeafCommands := by
  unfold Obligations.GroupAndLeafCommands
  refine ⟨?lockout, ?force, ?clear, ?realign, ?status, ?answer, ?rerange, ?leaf, ?message⟩
  case lockout =>
    intro s h c hr
    obtain ⟨t, hexec, hk⟩ := exec_pg (i := .pgLockout h) (by simp [pgInstrs]) hr
    obtain ⟨hgrp, -, hrd⟩ := State.finishPg_shows hk
    obtain ⟨hgrp', hcmd'⟩ := (s.begun h).setGrp_showCmd_shows c.group { s.grp c.pg with lockout := true }
    exact ⟨t, hexec, exec_only_of_fits hexec (by simp only [footprint]; decide +kernel), (State.finishPg_ended hr hk rfl).1, hgrp.trans hgrp',
      (hrd _ _ (by decide)).trans hcmd'⟩
  case force =>
    intro s h c hr hle
    obtain ⟨t, hexec, hk⟩ := exec_pg (i := .pgForce h) (by simp [pgInstrs]) hr
    rw [State.pgEffect, if_neg (by omega)] at hk
    refine ⟨t, hexec, exec_only_of_fits hexec (by simp only [footprint]; decide +kernel), fun h1 hlock => ?_, fun hfree => ?_⟩
    · have hlock' : ((s.begun h).grp c.pg).lockout = true := hlock
      rw [if_pos (by simp [h1, hlock'])] at hk
      exact ⟨(State.ready_ended hr hk rfl).1, State.kept_part hk 25 rfl⟩
    · have hfree' : c.par 16 1 = 0 ∨ ((s.begun h).grp c.pg).lockout = false := hfree
      rw [if_neg (by rcases hfree' with h0 | h0 <;> simp [h0])] at hk
      obtain ⟨hgrp, -, hrd⟩ := State.finishPg_shows hk
      obtain ⟨hgrp', hcmd'⟩ := (s.begun h).setGrp_showCmd_shows c.group { s.grp c.pg with force := some (c.par 16 1) }
      refine ⟨(State.finishPg_ended hr hk rfl).1, hgrp.trans hgrp', ((hrd _ _ (by decide)).trans hcmd').trans ?_⟩
      dsimp only [Option.elim]
      split_ifs <;> omega
  case clear =>
    intro s h c hr hle
    obtain ⟨t, hexec, hk⟩ := exec_pg (i := .pgClear h) (by simp [pgInstrs]) hr
    rw [State.pgEffect, if_neg (by omega)] at hk
    obtain ⟨hgrp, -, -⟩ := State.finishPg_shows hk
    refine ⟨t, hexec, exec_only_of_fits hexec (by simp only [footprint]; decide +kernel), (State.finishPg_ended hr hk rfl).1, hgrp.trans ?_⟩
    exact ((s.begun h).setGrp_showCmd_shows c.group _).1
  case realign =>
    intro s h c hr
    obtain ⟨t, hexec, hk⟩ := exec_pg (i := .pgRealign h) (by simp [pgInstrs]) hr
    rw [State.pgEffect] at hk
    have hst : (s.begun h).rd .BEND_PG_STAT_GSTATE c.pg = s.rd .BEND_PG_STAT_GSTATE c.pg := rfl
    have hready : (s.begun h).regionReady ((s.begun h).rd .BEND_PG_CFG_ATT_REGION c.pg) = s.regionReady (s.rd .BEND_PG_CFG_ATT_REGION c.pg) := rfl
    rw [hst, hready] at hk
    refine ⟨t, hexec, exec_only_of_fits hexec (by simp only [footprint]; decide +kernel), fun hlt => ?_, fun hle => ?_, fun h4 hno => ?_,
      fun hle hyes => ?_⟩
    · rw [if_pos hlt] at hk
      exact ⟨(State.ready_ended hr hk rfl).1, State.kept_part hk 25 rfl⟩
    · rw [if_neg (by omega)] at hk
      split_ifs at hk
      · exact (State.finishPg_ended hr hk rfl).1
      · exact (State.finishPg_ended hr hk ((s.begun h).align_inflight c.pg)).1
    · rw [if_neg (by omega), if_pos (by simp [h4, hno])] at hk
      exact (State.finishPg_shows hk).2.1
    · rw [if_neg (by omega), if_neg (by simpa using hyes)] at hk
      obtain ⟨hdo, hal, hthrough, hev⟩ := (s.begun h).align_shows c.group
      obtain ⟨hgrp, -, hrd⟩ := State.finishPg_shows hk
      rw [State.on, hrd _ _ (by decide), hrd _ _ (by decide), hrd _ _ (by decide), hgrp]
      exact ⟨hdo, hal, hthrough, hev⟩
  case status =>
    intro s h c hr
    obtain ⟨t, hexec, hk⟩ := exec_pg (i := .pgStatus h) (by simp [pgInstrs]) hr
    exact ⟨t, hexec, exec_only_of_fits hexec (by simp only [footprint]; decide +kernel), (State.finishPg_ended hr hk rfl).1⟩
  case answer =>
    intro s t h c i op hi hr hexec hend
    exact exec_pg_result hi hr hexec hend
  case rerange =>
    intro s h c n i hr hl
    obtain ⟨t, hexec, hk⟩ := exec_leafRerange hr hl
    obtain ⟨hend, hres⟩ := State.ready_ended hr hk ((s.begun h).rerangeAsked_inflight n i)
    have hrd (f : Fld) (hf : f.id = .BGHT_LEAF_ST) : t.rd f n i = ((s.begun h).rerange n i).rd f n i := by
      rw [State.kept_rd hk f (by rw [hf]; rfl), State.rd_finish, State.rerangeAsked, State.rd_setLeaf]
    have hbgt : t.bgt n = ((s.begun h).rerangeAsked n i).bgt n := by rw [State.kept_bgt hk rfl, State.bgt_finish]
    have hbegun (f : Fld) : (s.begun h).rd f n i = s.rd f n i := rfl
    refine ⟨t, hexec, exec_only_of_fits hexec (by simp only [footprint]; decide +kernel), hend, fun d hd => ?_, fun h23 => ?_, fun h2 h3 => ?_⟩
    · rw [(hres d hd).1, if_pos rfl, State.rerangeAsked, State.leafState_setLeaf, State.leafState, State.leafState, hrd _ rfl]
    · obtain ⟨hst, hleaf⟩ := (s.begun h).rerange_shows n i h23
      refine ⟨(hrd _ rfl).trans hst, ?_, ?_⟩
      · rw [hrd _ rfl, State.rd_rerange_beside _ (by decide), hbegun]
      · rw [State.leaf, hbgt, ← State.leaf, State.rerangeAsked, State.setLeaf_leaf, hleaf]
        exact ⟨rfl, rfl⟩
    · have hheld := (s.begun h).rerange_held (n := n) (i := i) h2 h3
      rw [hheld] at hrd
      rw [hbgt, State.rerangeAsked, State.setLeaf_bgt, hheld]
      exact ⟨rfl, hrd _ rfl⟩
  case leaf =>
    intro s h c n i hr hl
    obtain ⟨t, hexec, hk⟩ := exec_leafStatus hr hl
    obtain ⟨hend, hres⟩ := State.ready_ended hr hk rfl
    exact ⟨t, hexec, exec_only_of_fits hexec (by simp only [footprint]; decide +kernel), hend, hres⟩
  case message =>
    intro s h c n i hr hl h8 h104 hw hf
    obtain ⟨t, hexec, hk⟩ := exec_leafMgmt hr hl h8 h104 hw hf
    rw [State.leafMgmtRun] at hk
    have hst : (s.begun h).leafState n i = s.leafState n i := rfl
    rw [hst] at hk
    refine ⟨t, hexec, exec_only_of_fits hexec (by simp only [footprint]; decide +kernel), fun h2 h3 => ?_, fun h23 => ?_⟩
    · rw [if_neg (by simp [h2, h3])] at hk
      exact ⟨(State.ready_ended hr hk rfl).1, State.kept_part hk 20 rfl⟩
    · rw [if_pos h23] at hk
      obtain ⟨-, -, hc, -, hdone, -⟩ := hr
      refine ⟨fun d hd => ?_, ?_, fun j hj => ?_⟩
      · have hcmd : t.cmd h = some { c with started := true } := (State.kept_cmd hk rfl h).trans (s.cmd_begun hc)
        obtain rfl := Option.some.inj (hcmd.symm.trans hd)
        exact hdone
      · rw [State.kept_bgt hk rfl, State.sendRepeat_bgt]
        rfl
      · rw [State.kept_bgt hk rfl]
        exact State.setBgt_bgt_other _ _ (Fin.val_ne_of_ne hj)

end Sys2Proof.Machine
end

section
/-! Detection windows, locks and end markers on a Hub line (R124, R125, R127, R128). -/

namespace Sys2Proof.Machine

open Sys2Proof

variable (s : State)

/-! ### An upstream subcarrier -/

theorem State.setUp_bgt (n f : Nat) (x : UpSub) : (s.setUp n f x).bgt n = { s.bgt n with subs := (s.bgt n).subs.put {} f x } :=
  s.setBgt_bgt n _

theorem State.setUp_up (n f : Nat) (x : UpSub) : (s.setUp n f x).up n f = x := by
  rw [State.up, State.setUp_bgt, Tab.get_put_same]

theorem State.setUp_leaf (n f : Nat) (x : UpSub) (i : Nat) : (s.setUp n f x).leaf n i = s.leaf n i := by
  rw [State.leaf, State.setUp_bgt]
  rfl

/-- The record of a leaf from which the acquisition of a window's burst starts. -/
def State.startOf (s : State) (n : Nat) (w : Window) : List Byte := (if w.kind = 2 then {} else s.leaf n w.leaf : LeafInt).store

/-- The acquisition of a burst begins from the record of the window's leaf. -/
theorem State.loadUp_up (n f : Nat) (w : Window) : ∃ strong offset,
    (s.loadUp n f w).up n f = { s.up n f with eq := s.startOf n w, strong := strong, offset := offset } :=
  ⟨_, _, s.setUp_up n f _⟩

theorem State.loadUp_bgt (n f : Nat) (w : Window) : ∃ x, (s.loadUp n f w).bgt n = { s.bgt n with subs := x } := ⟨_, s.setUp_bgt n f _⟩

/-! ### Windows (R124) -/

theorem State.openWindow_shows (n f : Nat) (w : Window) : (∃ x, (s.openWindow n f w).bgt n = { s.bgt n with subs := x }) ∧
    ((s.openWindow n f w).up n f).lock = (if (s.up n f).lock = 2 then 2 else 0) ∧ ((s.openWindow n f w).up n f).window = some w ∧
    ((s.openWindow n f w).up n f).eq = s.startOf n w := by
  unfold State.openWindow
  dsimp only
  generalize hu : (if (s.up n f).lock = 2 then _ else _ : UpSub) = u
  obtain ⟨x, hb⟩ := (s.setUp n f u).loadUp_bgt n f w
  obtain ⟨_, _, hup⟩ := (s.setUp n f u).loadUp_up n f w
  have hstart : (s.setUp n f u).startOf n w = s.startOf n w := by rw [State.startOf, State.setUp_leaf, State.startOf]
  rw [hup, hb, State.setUp_bgt, State.setUp_up, hstart, ← hu]
  refine ⟨⟨_, rfl⟩, ?_, ?_, rfl⟩
  · split <;> simp [*]
  · split <;> rfl

/-- The window of a leaf's grant. -/
def BurstGrant.windowFor (g : BurstGrant) (i : Nat) : Window :=
  { kind := b2n g.ranging, leaf := i, period := g.period, start := g.start, len := g.len, long := g.long, cycle := g.cycle }

/-- A grant taken from those that wait for their windows. -/
def State.grantTaken (s : State) (n : Nat) (g : BurstGrant) : State := s.setBgt n { s.bgt n with grants := (s.bgt n).grants.erase g }

/-- The window of a leaf's grant opens: the grant is taken, and the acquisition starts from the leaf's record. -/
theorem State.grantWindow_shows (n f i : Nat) (g : BurstGrant) :
    (((s.grantTaken n g).openWindow n f (g.windowFor i)).up n f).lock = (if (s.up n f).lock = 2 then 2 else 0) ∧
      (((s.grantTaken n g).openWindow n f (g.windowFor i)).bgt n).grants = (s.bgt n).grants.erase g ∧
      (((s.grantTaken n g).openWindow n f (g.windowFor i)).up n f).eq = (s.leaf n i).store ∧
      (((s.grantTaken n g).openWindow n f (g.windowFor i)).up n f).window = some (g.windowFor i) := by
  obtain ⟨⟨x, hb⟩, hlock, hwin, heq⟩ := (s.grantTaken n g).openWindow_shows n f (g.windowFor i)
  have hkind : (g.windowFor i).kind ≠ 2 := by
    cases hr : g.ranging
    · simp [BurstGrant.windowFor, hr, b2n]
    · simp [BurstGrant.windowFor, hr, b2n]
  have hup : (s.grantTaken n g).up n f = s.up n f := by rw [State.up, State.grantTaken, State.setBgt_bgt]; rfl
  have hstart : (s.grantTaken n g).startOf n (g.windowFor i) = (s.leaf n i).store := by
    rw [State.startOf, if_neg hkind, State.leaf, State.grantTaken, State.setBgt_bgt]
    rfl
  refine ⟨by rw [hlock, hup], ?_, heq.trans hstart, hwin⟩
  rw [hb, State.grantTaken, State.setBgt_bgt]

theorem exec_detectionWindowOpen_grant {n : Line} {f : Slot} {i : Leaf} {g : BurstGrant} (h11 : s.alive 11 = true)
    (h : s.lineMode n = 2) (hw : s.rd .BGHT_UP_CFG_WIDTH n f ≠ 0)
    (hg : ((s.bgt n).grants.find? fun g => g.leaf == i.val && g.sub == f.val) = some g) : exec (.detectionWindowOpen n f (some i)) s =
      .next ((s.grantTaken n g).openWindow n f (g.windowFor i)) := by
  change execDetectionWindowOpen n f (some i) s = _
  unfold execDetectionWindowOpen
  rw [act_next s 11 _ h11, if_neg (by simp [h, hw])]
  dsimp only
  rw [hg]
  rfl

/-- The window of a discovery whose quiet window begins at a quantum. -/
def State.discoveryWindow (s : State) (n from_ : Nat) : Window :=
  let g := from_ - s.rd .BGHT_LINE_CFG_RNG_BASE n * 125
  { kind := 2, leaf := 0, period := g / 15625, start := g % 15625, long := true }

theorem exec_detectionWindowOpen_discovery {n : Line} {f : Slot} {k from_ to_ : Nat} (h11 : s.alive 11 = true)
    (h : s.lineMode n = 2) (hw : s.rd .BGHT_UP_CFG_WIDTH n f ≠ 0)
    (hr : ((s.bgt n).reserved.find? fun r => r.1 == f.val + 32) = some (k, from_, to_)) : exec (.detectionWindowOpen n f none) s =
      .next ((s.openWindow n f (s.discoveryWindow n from_)).wr .BGHT_STAT_DISC_OPEN 1 n) := by
  change execDetectionWindowOpen n f none s = _
  unfold execDetectionWindowOpen
  rw [act_next s 11 _ h11, if_neg (by simp [h, hw])]
  dsimp only
  rw [hr]
  rfl

/-! ### Locks (R125, R127, R128) -/

/-- Whether a correlator's peak is taken: nothing is locked, or it is the free one's, high enough over that of a provisional lock. -/
def State.takesPeak (s : State) (n f : Nat) (corrB : Bool) (metric : Nat) : Bool :=
  let u := s.up n f
  u.lock == 0 || (u.lock == 1 && corrB != u.corrB && decide (u.metric + 2 * s.rd .BGHT_ACQ_CFG_RELOCK_DB n ≤ metric))

/-- A lock decided too late is dropped, and counted for an enabled leaf. -/
def State.lockedLate (s : State) (n f : Nat) (w : Window) : State :=
  let s := s.dropLock n f
  if w.kind = 2 || !s.on .BGHT_LEAF_EN n w.leaf then s else s.inc .BGHT_LEAF_ST_LATE 1 n w.leaf

/-- A provisional lock. -/
def State.peakLocked (s : State) (n f : Nat) (corrB : Bool) (metric symbol : Nat) (w : Window) : State :=
  (s.setUp n f { s.up n f with lock := 1, corrB := corrB, metric := metric, symbol := symbol, marker := false, capturing := false }).loadUp n f w

/-- A correlator's peak in a window. -/
def State.peakJudged (s : State) (n f : Nat) (corrB : Bool) (metric symbol : Nat) (w : Window) : State :=
  if metric ≤ s.detThr n w.kind || !s.takesPeak n f corrB metric then s
  else if lateLock w.long symbol then s.lockedLate n f w else s.peakLocked n f corrB metric symbol w

section
variable {s} {n f : Nat} {corrB : Bool} {metric symbol : Nat} {w : Window}

theorem State.peakJudged_ignored (h : metric ≤ s.detThr n w.kind ∨ s.takesPeak n f corrB metric = false) :
    s.peakJudged n f corrB metric symbol w = s := by
  rw [State.peakJudged, if_pos (by simpa using h)]

theorem State.peakJudged_taken (h : s.detThr n w.kind < metric) (ht : s.takesPeak n f corrB metric = true) :
    s.peakJudged n f corrB metric symbol w =
      if lateLock w.long symbol then s.lockedLate n f w else s.peakLocked n f corrB metric symbol w := by
  rw [State.peakJudged, if_neg (by simp [h, ht])]

end

theorem exec_provisionalLock {n : Line} {f : Slot} (corrB : Bool) (metric symbol : Nat) {w : Window}
    (h11 : s.alive 11 = true) (hw : (s.up n f).window = some w) : exec (.provisionalLock n f corrB metric symbol) s =
      .next (s.peakJudged n f corrB metric symbol w) := by
  change execProvisionalLock n f corrB metric symbol s = _
  unfold execProvisionalLock
  rw [act_next s 11 _ h11]
  dsimp only
  split
  · next hnone => simp [hnone] at hw
  · next v hv =>
    obtain rfl : v = w := Option.some.inj (hv.symm.trans hw)
    rfl

theorem State.dropLock_lock (n f : Nat) : ((s.dropLock n f).up n f).lock = 0 := by rw [State.dropLock, State.setUp_up]

/-- A count of a leaf's record. -/
theorem State.rd_inc_leaf {g : Fld} (n : Line) (i : Leaf) (h : g.within [3, 256] = true) :
    (s.inc g 1 n i).rd g n i = min (2 ^ g.width - 1) (s.rd g n i + 1) := by
  obtain ⟨hd, hf, hw⟩ := Fld.within_iff.mp h
  rw [Nat.min_comm]
  exact s.rd_inc_same g 1 n i 0 (regValid_two_of_dims hd n i) hf hw

theorem State.lockedLate_shows (n : Line) (f : Nat) (w : Window) (hlt : w.leaf < 256) : ((s.lockedLate n f w).up n f).lock = 0 ∧
    (w.kind ≠ 2 → s.on .BGHT_LEAF_EN n w.leaf = true →
      (s.lockedLate n f w).rd .BGHT_LEAF_ST_LATE n w.leaf = min 65535 (s.rd .BGHT_LEAF_ST_LATE n w.leaf + 1)) := by
  have hon : (s.dropLock n f).on .BGHT_LEAF_EN n w.leaf = s.on .BGHT_LEAF_EN n w.leaf := rfl
  unfold State.lockedLate
  dsimp only
  refine ⟨?_, fun hk hen => ?_⟩
  · split
    · exact s.dropLock_lock n f
    · exact s.dropLock_lock n f
  · rw [if_neg (by simp [hk, hon, hen])]
    exact (s.dropLock n f).rd_inc_leaf (g := .BGHT_LEAF_ST_LATE) n ⟨w.leaf, hlt⟩ (by decide)

theorem State.peakLocked_shows (n f : Nat) (corrB : Bool) (metric symbol : Nat) (w : Window) :
    ((s.peakLocked n f corrB metric symbol w).up n f).lock = 1 ∧ ((s.peakLocked n f corrB metric symbol w).up n f).corrB = corrB ∧
      ((s.peakLocked n f corrB metric symbol w).up n f).metric = metric ∧ ((s.peakLocked n f corrB metric symbol w).up n f).marker = false := by
  obtain ⟨_, _, hup⟩ := State.loadUp_up
    (s.setUp n f { s.up n f with lock := 1, corrB := corrB, metric := metric, symbol := symbol, marker := false, capturing := false }) n f w
  rw [State.peakLocked, hup, State.setUp_up]
  exact ⟨rfl, rfl, rfl, rfl⟩

theorem exec_endMarker {n : Line} {f : Slot} (found : Bool) (h11 : s.alive 11 = true) (hl : (s.up n f).lock = 1) :
    exec (.endMarker n f found) s =
      .next (s.setUp n f (if found then { s.up n f with marker := true } else { s.up n f with lock := 0, marker := false })) := by
  change execEndMarker n f found s = _
  unfold execEndMarker
  rw [act_next s 11 _ h11]
  dsimp only
  rw [if_pos hl]

end Sys2Proof.Machine
end

section
/-! Headers on a Hub line (R121, R127, R130 to R133, R135, R136, R167): what a burst brings its leaf, and where its header leads. -/

namespace Sys2Proof.Machine

open Sys2Proof

variable (s : State)

/-! ### What a burst brings its leaf (R121, R130, R131, R133, R135, R136) -/

/-- The upstream subcarriers of a line, and the bursts that wait for Cleat, as before. -/
def State.burstsAlike (s : State) (n : Nat) (t : State) : Prop :=
  (t.bgt n).subs = (s.bgt n).subs ∧ (t.bgt n).received = (s.bgt n).received

section
variable {s} {t u : State} {n : Nat}

theorem State.burstsAlike_refl : s.burstsAlike n s := ⟨rfl, rfl⟩

theorem State.burstsAlike.trans (h : s.burstsAlike n t) (h' : t.burstsAlike n u) : s.burstsAlike n u :=
  ⟨h'.1.trans h.1, h'.2.trans h.2⟩

theorem State.burstsAlike.up (h : s.burstsAlike n t) (f : Nat) : t.up n f = s.up n f := by rw [State.up, h.1]; rfl

theorem State.burstsAlike_of_bgt (h : t.bgt n = s.bgt n) : s.burstsAlike n t := by rw [State.burstsAlike, h]; exact ⟨rfl, rfl⟩

theorem State.setLeaf_burstsAlike (i : Nat) (x : LeafInt) : s.burstsAlike n (s.setLeaf n i x) := by
  rw [State.burstsAlike, State.setLeaf_bgt]
  exact ⟨rfl, rfl⟩

theorem State.sendCtrl_burstsAlike (copies : Nat) (units : List Byte) (cmd till : Option Nat) :
    s.burstsAlike n (s.sendCtrl n copies units cmd till) := by
  rw [State.burstsAlike, State.sendCtrl, State.setBgt_bgt]
  exact ⟨rfl, rfl⟩

theorem State.setLeafState_burstsAlike (i st : Nat) : s.burstsAlike n (s.setLeafState n i st) :=
  State.burstsAlike_of_bgt (s.setLeafState_bgt n i st n)

theorem State.leafEvent_burstsAlike (i : Nat) (f : Fld) (code : Nat) : s.burstsAlike n (s.leafEvent n i f code) :=
  State.burstsAlike_of_bgt (by rw [State.bgt, State.leafEvent, State.raise_bight]; rfl)

theorem State.wr_burstsAlike (f : Fld) (v i j k : Nat) : s.burstsAlike n (s.wr f v i j k) := ⟨rfl, rfl⟩

/-- Whichever way a condition goes. -/
theorem State.burstsAlike.ite {c : Prop} [Decidable c] (h : s.burstsAlike n t) (h' : s.burstsAlike n u) :
    s.burstsAlike n (if c then t else u) := by
  split <;> assumption

theorem State.rerange_burstsAlike (i : Nat) : s.burstsAlike n (s.rerange n i) :=
  (((State.setLeaf_burstsAlike i _).trans (State.setLeafState_burstsAlike i 1)).trans (State.sendCtrl_burstsAlike _ _ _ _)).ite
    State.burstsAlike_refl

theorem State.takeOffset_burstsAlike (i : Nat) (ofs : Int) : s.burstsAlike n (s.takeOffset n i ofs) := by
  unfold State.takeOffset
  lift_lets
  intro x l sum s1 w v
  have h1 : s.burstsAlike n s1 := (State.setLeaf_burstsAlike i _).trans (State.wr_burstsAlike _ _ _ _ _)
  exact ((h1.trans (State.setLeaf_burstsAlike i _)).trans (State.sendCtrl_burstsAlike _ _ _ _)).ite h1

theorem State.heard_burstsAlike (i : Nat) (h : BitVec 128) (period : Nat) (ranging : Bool) (ofs : Int) :
    s.burstsAlike n (s.heard n i h period ranging ofs) := by
  unfold State.heard
  lift_lets
  intro x snr s1 s2 s3 s4
  have h1 : s.burstsAlike n s1 := State.setLeaf_burstsAlike i _
  have h2 : s.burstsAlike n s2 := h1.trans ⟨rfl, rfl⟩
  have h3 : s.burstsAlike n s3 := (h2.trans (State.setLeafState_burstsAlike i 2)).ite h2
  have h4 : s.burstsAlike n s4 := h3.ite (h3.trans (State.takeOffset_burstsAlike i ofs))
  exact ((h4.trans (State.wr_burstsAlike _ _ _ _ _)).trans (State.leafEvent_burstsAlike i _ _)).ite h4

theorem State.rangedOk_burstsAlike (i g arrival : Nat) : s.burstsAlike n (s.rangedOk n i g arrival) := by
  unfold State.rangedOk
  exact State.burstsAlike_refl.ite (((((State.wr_burstsAlike _ _ _ _ _).trans (State.setLeaf_burstsAlike i _)).trans
    (State.sendCtrl_burstsAlike _ _ _ _)).trans (State.setLeafState_burstsAlike i 2)).trans (State.leafEvent_burstsAlike i _ _))

theorem State.answered_burstsAlike (i : Nat) (h : BitVec 128) (period start : Nat) (ranging : Bool) (arrival : Nat) (ofs : Int) :
    s.burstsAlike n (s.answered n i h period start ranging arrival ofs) := by
  unfold State.answered
  lift_lets
  intro s1
  have h1 : s.burstsAlike n s1 := State.heard_burstsAlike i h period ranging ofs
  exact State.burstsAlike_refl.ite ((h1.trans (State.rangedOk_burstsAlike i _ arrival)).ite h1)

theorem State.discovered_burstsAlike (g : Nat) (h : BitVec 128) (arrival : Nat) : s.burstsAlike n (s.discovered n g h arrival) := by
  unfold State.discovered
  dsimp only
  split
  · exact State.burstsAlike_of_bgt (by rw [State.bgt, State.raise_bight]; rfl)
  · exact (((State.setLeaf_burstsAlike _ _).trans (State.setLeafState_burstsAlike _ 1)).trans (State.sendCtrl_burstsAlike _ _ _ _)).ite
      (State.leafEvent_burstsAlike _ _ _)

end

/-- What a burst of a leaf marks in its record. -/
def State.heardMarked (s : State) (n i : Nat) (h : BitVec 128) (period : Nat) : State :=
  let x := s.leaf n i
  let snr := hdrBits h 95 88
  let s := s.setLeaf n i { x with
    heard := 0, staleDue := false, reportPeriod := period,
    report := [hdrBits h 39 24, hdrBits h 55 40, hdrBits h 71 56, hdrBits h 87 72],
    dnSum := if snr = 255 then x.dnSum else (x.dnSum.1 + snr, x.dnSum.2 + 1) }
  (((s.incWrap .BGHT_LEAF_ST_BURSTS 1 n i).wr .BGHT_LEAF_ST_LAST_HEARD 0 n i).wr .BGHT_LEAF_ST_MISSED 0 n i).wr
    .BGHT_LEAF_ST_DN_SNR snr n i

/-- A Stale leaf that is heard is Active. -/
def State.staleHeard (s : State) (n i : Nat) : State := if s.leafState n i = 3 then s.setLeafState n i 2 else s

/-- A burst's offset and its dying gasp. -/
def State.burstRead (s : State) (n i : Nat) (h : BitVec 128) (ranging : Bool) (ofs : Int) : State :=
  let s := if ranging then s else s.takeOffset n i ofs
  if (hdrBits h 99 96).testBit 0 then (s.wr .BGHT_LEAF_ST_DGASP 1 n i).leafEvent n i .BGHT_EVT_DYING_GASP 0x5809 else s

theorem State.heard_eq (n i : Nat) (h : BitVec 128) (period : Nat) (ranging : Bool) (ofs : Int) :
    s.heard n i h period ranging ofs = ((s.heardMarked n i h period).staleHeard n i).burstRead n i h ranging ofs := rfl

theorem State.rd_takeOffset_beside {g : Fld} (h : Fld.apart .BGHT_LEAF_ST_ARR_OFS g = true) (n i : Nat) (ofs : Int) (a b c : Nat) :
    (s.takeOffset n i ofs).rd g a b c = s.rd g a b c := by
  have hwr (t : State) (v : Nat) : (t.wr .BGHT_LEAF_ST_ARR_OFS v n i).rd g a b c = t.rd g a b c := t.rd_wr_apart _ _ _ _ _ _ _ h
  unfold State.takeOffset
  dsimp only
  split
  · exact hwr _ _
  · exact hwr _ _

/-- A leaf's event leaves a field apart from it. -/
theorem State.rd_leafEvent_apart {f g : Fld} (n i code a b c : Nat) (h : f.apart g = true) (hm : eventMask.testBit (regBit g.id) = false) :
    (s.leafEvent n i f code).rd g a b c = s.rd g a b c := s.rd_raise_apart _ _ _ _ _ _ _ _ h hm

theorem State.leafState_leafEvent {f : Fld} (n i code m j : Nat) (h : f.apart .BGHT_LEAF_ST_STATE = true) :
    (s.leafEvent n i f code).leafState m j = s.leafState m j := s.rd_leafEvent_apart _ _ _ _ _ _ h (by decide)

theorem State.leafEvent_on {f : Fld} (n : Line) (i code : Nat) (h : f.within [3] = true) (hf : f.hi = f.lo)
    (hm : eventMask.testBit (regBit f.id) = false) : (s.leafEvent n i f code).on f n = true := s.on_raise_one _ _ _ _ n h hf hm

theorem State.rd_staleHeard_beside {g : Fld} (h : g.besideLeafState = true) (n i a b c : Nat) :
    (s.staleHeard n i).rd g a b c = s.rd g a b c := by
  unfold State.staleHeard
  split
  · exact s.rd_setLeafState_beside h n i 2 a b c
  · rfl

theorem State.staleHeard_leafState (n : Line) (i : Leaf) :
    (s.staleHeard n i).leafState n i = if s.leafState n i = 3 then 2 else s.leafState n i := by
  unfold State.staleHeard
  split
  · exact s.setLeafState_leafState n i (by decide)
  · rfl

/-- A burst's offset and dying gasp leave the leaf's state and its missed grants. -/
theorem State.burstRead_shows (n i : Nat) (h : BitVec 128) (ranging : Bool) (ofs : Int) :
    (s.burstRead n i h ranging ofs).leafState n i = s.leafState n i ∧
      (s.burstRead n i h ranging ofs).rd .BGHT_LEAF_ST_MISSED n i = s.rd .BGHT_LEAF_ST_MISSED n i := by
  have hofs (g : Fld) (hg : Fld.apart .BGHT_LEAF_ST_ARR_OFS g = true) :
      (if ranging then s else s.takeOffset n i ofs).rd g n i = s.rd g n i := by
    split
    · rfl
    · exact s.rd_takeOffset_beside hg _ _ _ _ _ _
  unfold State.burstRead State.leafState
  dsimp only
  split
  · simp (disch := decide) only [State.rd_leafEvent_apart, State.rd_wr_apart, hofs, and_self]
  · simp (disch := decide) only [hofs, and_self]

theorem State.heardMarked_shows (n : Line) (i : Leaf) (h : BitVec 128) (period : Nat) :
    (s.heardMarked n i h period).leafState n i = s.leafState n i ∧ (s.heardMarked n i h period).rd .BGHT_LEAF_ST_MISSED n i = 0 := by
  unfold State.heardMarked State.leafState State.incWrap
  simp (disch := decide) [State.rd_wr_apart, State.rd_wr_two]

/-- A burst heard of a leaf: no grant is missed, and a Stale leaf is Active. -/
theorem State.heard_shows (n : Line) (i : Leaf) (h : BitVec 128) (period : Nat) (ranging : Bool) (ofs : Int) :
    (s.heard n i h period ranging ofs).rd .BGHT_LEAF_ST_MISSED n i = 0 ∧
      (s.heard n i h period ranging ofs).leafState n i = if s.leafState n i = 3 then 2 else s.leafState n i := by
  obtain ⟨hst, hmissed⟩ := s.heardMarked_shows n i h period
  obtain ⟨hst', hmissed'⟩ := ((s.heardMarked n i h period).staleHeard n i).burstRead_shows n i h ranging ofs
  rw [State.heard_eq, hmissed', State.rd_staleHeard_beside _ (by decide), hmissed, hst', State.staleHeard_leafState, hst]
  exact ⟨rfl, rfl⟩

/-- A leaf that has been ranged is Active. -/
theorem State.rangedOk_shows (n : Line) (i : Leaf) (g arrival : Nat) (h : s.leafState n i = 1) :
    (s.rangedOk n i g arrival).leafState n i = 2 ∧ (s.rangedOk n i g arrival).on .BGHT_EVT_ACTIVE n = true := by
  unfold State.rangedOk
  rw [if_neg (by simp [h])]
  refine ⟨?_, State.leafEvent_on _ n i _ (by decide) rfl (by decide)⟩
  rw [State.leafState_leafEvent _ _ _ _ _ _ (by decide)]
  exact State.setLeafState_leafState _ n i (by decide)

theorem State.answered_off {n i : Nat} (h : BitVec 128) (period start : Nat) (ranging : Bool) (arrival : Nat) (ofs : Int)
    (hen : s.on .BGHT_LEAF_EN n i = false) : s.answered n i h period start ranging arrival ofs = s := by
  rw [State.answered, if_pos (by simp [hen])]

theorem State.answered_on {n i : Nat} (h : BitVec 128) (period start : Nat) (ranging : Bool) (arrival : Nat) (ofs : Int)
    (hen : s.on .BGHT_LEAF_EN n i = true) : s.answered n i h period start ranging arrival ofs =
      if ranging then (s.heard n i h period true ofs).rangedOk n i (quantumOf period start) arrival else s.heard n i h period false ofs := by
  rw [State.answered, if_neg (by simp [hen])]
  cases ranging <;> simp only [Bool.false_eq_true, if_true, if_false]

/-- A discovery burst of a leaf in Undiscovered or Lost. -/
theorem State.discovered_shows (n : Line) (i : Leaf) (g : Nat) (h : BitVec 128) (arrival : Nat)
    (hfind : (s.leavesOn n).find? (fun i => s.rd .BGHT_LEAF_SERIAL n i == hdrBits h 87 24) = some i.val)
    (hst : s.leafState n i = 0 ∨ s.leafState n i = 4) : (s.discovered n g h arrival).leafState n i = 1 := by
  unfold State.discovered
  dsimp only
  rw [hfind]
  dsimp only
  rw [if_pos hst, State.leafState_sendRepeat]
  exact State.setLeafState_leafState _ n i (by decide)

/-! ### Headers (R127, R132, R167) -/

/-- A write of another register leaves the leaves that are enabled. -/
theorem State.leavesOn_wr {f : Fld} (v i j k n : Nat) (h : f.id ≠ .BGHT_LEAF) : (s.wr f v i j k).leavesOn n = s.leavesOn n := by
  have hfilter (l : RegStore) : l.filter (fun c => decide (c.key.id = .BGHT_LEAF) && c.key.i == n) =
      (l.filter fun c => decide (c.key.id = .BGHT_LEAF)).filter fun c => c.key.i == n := by
    rw [List.filter_filter]
    exact List.filter_congr fun c _ => Bool.and_comm _ _
  have hon (a : Nat) : (s.wr f v i j k).on .BGHT_LEAF_EN n a = s.on .BGHT_LEAF_EN n a := by
    rw [State.on, State.rd_wr_other _ _ _ _ _ _ _ _ _ _ fun e => h e.1.symm, ← State.on]
  have hregs : (s.wr f v i j k).regs.filter (fun c => decide (c.key.id = .BGHT_LEAF)) = s.regs.filter fun c => decide (c.key.id = .BGHT_LEAF) :=
    RegStore.filter_put_other _ _ _ _ h
  unfold State.leavesOn
  simp only [hfilter, hregs, hon]

/-- The burst of a window's leaf, with the profile of its header. -/
def Window.burst (w : Window) (f : Nat) (h : BitVec 128) : Burst :=
  { leaf := w.leaf, sub := f, kind := w.kind, cycle := w.cycle, len := w.len, long := w.long, prof := hdrBits h 15 12 }

/-- The lock of a window's burst confirmed. -/
def State.lockConfirmed (s : State) (n f : Nat) (h : BitVec 128) (w : Window) : State :=
  (s.confirm n f (if w.kind = 2 then none else some (w.burst f h))).answerWindow n f

/-- A header that fits the window open: its lock is confirmed, and its leaf has been heard or discovered. -/
def State.windowAnswered (s : State) (n f : Nat) (h : BitVec 128) (arrival : Nat) (ofs : Int) (w : Window) : State :=
  if w.kind = 2 then (s.lockConfirmed n f h w).discovered n (quantumOf w.period w.start) h arrival
  else (s.lockConfirmed n f h w).answered n w.leaf h w.period w.start (w.kind == 1) arrival ofs

/-- A header whose CRC passes. -/
def State.headerTaken (s : State) (n f : Nat) (h : BitVec 128) (arrival : Nat) (ofs : Int) : State :=
  if (s.up n f).capturing then s.capturedHeader n f h arrival ofs
  else (s.up n f).window.elim (s.dropLock n f) fun w =>
    if headerFits w h then s.windowAnswered n f h arrival ofs w else s.dropLock n f

/-- A header whose CRC passes counted. -/
def State.okCounted (s : State) (n : Nat) : State := s.incWrap .CLET_TRL_HDR_OK 1 n

theorem State.okCounted_up (n f : Nat) : (s.okCounted n).up n f = s.up n f := rfl

/-- The count leaves every other register. -/
theorem State.okCounted_reg {id : RegId} (h : id ≠ .CLET_TRL) (n a b c : Nat) : (s.okCounted n).reg id a b c = s.reg id a b c :=
  s.reg_wr_other _ _ _ _ _ _ _ _ _ fun e => h e.1

theorem State.okCounted_rd {g : Fld} (h : g.id ≠ .CLET_TRL) (n a b c : Nat) : (s.okCounted n).rd g a b c = s.rd g a b c := by
  rw [State.rd, s.okCounted_reg h, ← State.rd]

theorem State.okCounted_on {g : Fld} (h : g.id ≠ .CLET_TRL) (n a b c : Nat) : (s.okCounted n).on g a b c = s.on g a b c := by
  rw [State.on, s.okCounted_rd h, ← State.on]

theorem State.okCounted_leafState (n m i : Nat) : (s.okCounted n).leafState m i = s.leafState m i := s.okCounted_rd (by decide) n m i 0

theorem State.okCounted_leavesOn (n m : Nat) : (s.okCounted n).leavesOn m = s.leavesOn m := s.leavesOn_wr _ _ _ _ _ (by decide)

theorem exec_burstHeaderDecoded {n : Line} {f : Slot} {soft : List Int} {h : BitVec 128} (arrival : Nat) (ofs : Int)
    (h11 : s.alive 11 = true) (hl : (s.up n f).lock = 1) (hm : (s.up n f).marker = true) (hh : h = headerOf (viterbi soft)) :
    exec (.burstHeaderDecoded n f soft arrival ofs) s = .next (if hdrOk h then
      (s.okCounted n).headerTaken n f h arrival ofs else (s.incWrap .CLET_TRL_HDR_FAIL 1 n).dropLock n f) := by
  change execBurstHeaderDecoded n f soft arrival ofs s = _
  unfold execBurstHeaderDecoded State.headerTaken State.windowAnswered State.lockConfirmed
  rw [act_next s 11 _ h11, ← hh]
  dsimp only
  rw [if_neg (by simp [hl, hm]), ← State.okCounted, State.okCounted_up]
  cases hdrOk h with
  | false => rfl
  | true =>
    simp only [Bool.not_true, Bool.false_eq_true, if_false, if_true]
    cases (s.up n f).capturing with
    | true => rfl
    | false =>
      cases (s.up n f).window with
      | none => rfl
      | some w =>
        simp only [Bool.false_eq_true, if_false, Option.elim]
        cases headerFits w h with
        | false => rfl
        | true =>
          by_cases hk : w.kind = 2
          · simp only [Bool.not_true, Bool.false_eq_true, if_false, if_true, hk]
          · simp only [Bool.not_true, Bool.false_eq_true, if_false, if_true, hk, Window.burst]

/-- What a header changes beside its count. -/
def headerFoot : Nat := eventFoot [.BGHT_STAT, .BGHT_EVT, .BGHT_LEAF_ST, .SHET_CLI_STAT, .SHET_CLI_EVT, .SHET_CNT] [.bight, .clients]

theorem State.lockConfirmed_kept (n f : Nat) (h : BitVec 128) (w : Window) : s.kept headerFoot (s.lockConfirmed n f h w) :=
  State.answerWindow_kept _ _ _ (State.confirm_kept _ _ _ _ (State.kept_refl _ s) rfl) rfl

theorem State.headerTaken_kept (n f : Nat) (h : BitVec 128) (arrival : Nat) (ofs : Int) :
    s.kept headerFoot (s.headerTaken n f h arrival ofs) := by
  have hdrop : s.kept headerFoot (s.dropLock n f) := State.dropLock_kept _ _ _ (State.kept_refl _ s) rfl
  unfold State.headerTaken
  split
  · exact State.capturedHeader_kept _ _ _ _ _ _ (State.kept_refl _ s) rfl
  · cases (s.up n f).window with
    | none => exact hdrop
    | some w =>
      rw [Option.elim, State.windowAnswered]
      split_ifs
      · exact State.discovered_kept _ _ _ _ _ (s.lockConfirmed_kept n f h w) rfl
      · exact State.answered_kept _ _ _ _ _ _ _ _ _ (s.lockConfirmed_kept n f h w) rfl
      · exact hdrop

/-- The headers of a line counted: the one field counts, the headers taken leave it. -/
theorem State.rd_incWrap_trl {g : Fld} (n : Line) (h : g.within [3] = true) (hw : g.width = 32) :
    (s.incWrap g 1 n).rd g n = (s.rd g n + 1) % 2 ^ 32 := by
  rw [State.incWrap, State.rd_wr_one _ _ _ h, hw]

theorem State.lockConfirmed_lock (n f : Nat) (h : BitVec 128) (w : Window) : ((s.lockConfirmed n f h w).up n f).lock = 2 := by
  unfold State.lockConfirmed State.answerWindow
  rw [State.setUp_up]
  dsimp only
  unfold State.confirm
  rw [State.setUp_up]

section
variable {s} {n f : Nat} {h : BitVec 128} {arrival : Nat} {ofs : Int} {w : Window}

theorem State.headerTaken_fits (hc : (s.up n f).capturing = false) (hw : (s.up n f).window = some w) (hf : headerFits w h = true) :
    s.headerTaken n f h arrival ofs = s.windowAnswered n f h arrival ofs w := by
  rw [State.headerTaken, if_neg (by simp [hc]), hw, Option.elim, if_pos hf]

theorem State.headerTaken_misfit (hc : (s.up n f).capturing = false) (hw : (s.up n f).window = some w) (hf : headerFits w h = false) :
    s.headerTaken n f h arrival ofs = s.dropLock n f := by
  rw [State.headerTaken, if_neg (by simp [hc]), hw, Option.elim, if_neg (by simp [hf])]

theorem State.windowAnswered_lock : ((s.windowAnswered n f h arrival ofs w).up n f).lock = 2 := by
  have hlock := s.lockConfirmed_lock n f h w
  unfold State.windowAnswered
  split
  · rw [(State.discovered_burstsAlike _ _ _).up, hlock]
  · rw [(State.answered_burstsAlike _ _ _ _ _ _ _).up, hlock]

theorem State.windowAnswered_off (hk : w.kind < 2) (hen : s.on .BGHT_LEAF_EN n w.leaf = false) :
    (s.windowAnswered n f h arrival ofs w).regs = s.regs := by
  have hen' : (s.lockConfirmed n f h w).on .BGHT_LEAF_EN n w.leaf = false := hen
  rw [State.windowAnswered, if_neg (by omega), State.answered_off _ _ _ _ _ _ _ hen']
  rfl

end

section
variable {s} {n : Line} {f : Nat} {i : Leaf} {h : BitVec 128} {arrival : Nat} {ofs : Int} {w : Window}

/-- A granted burst's header. -/
theorem State.windowAnswered_granted (hi : w.leaf = i) (hk : w.kind = 0) (hen : s.on .BGHT_LEAF_EN n i = true) :
    (s.windowAnswered n f h arrival ofs w).rd .BGHT_LEAF_ST_MISSED n i = 0 ∧
      (s.windowAnswered n f h arrival ofs w).leafState n i = if s.leafState n i = 3 then 2 else s.leafState n i := by
  have hen' : (s.lockConfirmed n f h w).on .BGHT_LEAF_EN n i = true := hen
  rw [State.windowAnswered, if_neg (by omega), hi, State.answered_on _ _ _ _ _ _ _ hen', if_neg (by simp [hk])]
  exact State.heard_shows _ n i h _ _ _

/-- A ranging burst's header. -/
theorem State.windowAnswered_ranged (hi : w.leaf = i) (hk : w.kind = 1) (hen : s.on .BGHT_LEAF_EN n i = true) (hst : s.leafState n i = 1) :
    (s.windowAnswered n f h arrival ofs w).leafState n i = 2 ∧ (s.windowAnswered n f h arrival ofs w).on .BGHT_EVT_ACTIVE n = true := by
  have hen' : (s.lockConfirmed n f h w).on .BGHT_LEAF_EN n i = true := hen
  have hst' : (s.lockConfirmed n f h w).leafState n i = 1 := hst
  rw [State.windowAnswered, if_neg (by omega), hi, State.answered_on _ _ _ _ _ _ _ hen', if_pos (by simp [hk])]
  refine State.rangedOk_shows _ n i _ _ ?_
  rw [(State.heard_shows _ n i h _ _ _).2, hst']
  rfl

/-- A discovery burst's header. -/
theorem State.windowAnswered_discovered (hk : w.kind = 2)
    (hfind : (s.leavesOn n).find? (fun j => s.rd .BGHT_LEAF_SERIAL n j == hdrBits h 87 24) = some i.val)
    (hst : s.leafState n i = 0 ∨ s.leafState n i = 4) : (s.windowAnswered n f h arrival ofs w).leafState n i = 1 := by
  rw [State.windowAnswered, if_pos hk]
  exact State.discovered_shows _ n i _ h arrival hfind hst

/-- A captured burst that no grant awaits is dropped as unexpected. -/
theorem State.capturedHeader_unexpected (hw : (s.up n f).window = none) (hg : (s.bgt n).grants = []) :
    ((s.capturedHeader n f h arrival ofs).up n f).lock = 0 ∧ (s.capturedHeader n f h arrival ofs).on .BGHT_EVT_UNEXPECTED n = true := by
  have heq : s.capturedHeader n f h arrival ofs =
      ((s.dropLock n f).leafEvent n (hdrBits h 7 0) .BGHT_EVT_UNEXPECTED 0x5808).rerange n (hdrBits h 7 0) := by
    have hnone : s.capturedWindow n f h arrival = none := by rw [State.capturedWindow, hw]; rfl
    unfold State.capturedHeader
    dsimp only
    rw [hnone, hg]
    rfl
  rw [heq, ((State.leafEvent_burstsAlike _ _ _).trans (State.rerange_burstsAlike _)).up, State.on, State.rd_rerange_beside _ (by decide),
    ← State.on]
  exact ⟨s.dropLock_lock n f, State.leafEvent_on _ n _ _ (by decide) rfl (by decide)⟩

end

end Sys2Proof.Machine
end

section
/-! Captured and ended bursts on a Hub line (R126, R129, R132, R136). -/

namespace Sys2Proof.Machine

open Sys2Proof

variable (s : State)

/-! ### The watch after a lock, and aborted bursts (R132, R136) -/

/-- A burst in which a rise of the power or a peak comes alone. -/
def State.overlapped (s : State) (n : Nat) (b : Burst) : State :=
  if s.on .BGHT_LEAF_EN n b.leaf then s.inc .BGHT_LEAF_ST_OVERLAP 1 n b.leaf else s

/-- The subcarrier of a burst that another has run into. -/
def UpSub.capture (u : UpSub) (symbol : Nat) : UpSub :=
  { u with lock := if lateLock true symbol then 0 else 1, corrB := !u.corrB, symbol := symbol, marker := false, burst := none, capturing := true }

/-- What the watch after a confirmed lock makes of a rise of the power and of a peak. -/
def State.watched (s : State) (n f : Nat) (power peak : Bool) (symbol got : Nat) (b : Burst) : State :=
  if power && peak then (s.setUp n f ((s.up n f).capture symbol)).collide n b got
  else if power || peak then s.overlapped n b else s

theorem exec_capture {n : Line} {f : Slot} (power peak : Bool) (symbol got : Nat) {b : Burst} (h11 : s.alive 11 = true)
    (hl : (s.up n f).lock = 2) (hb : (s.up n f).burst = some b) :
    exec (.capture n f power peak symbol got) s = .next (s.watched n f power peak symbol got b) := by
  change execCapture n f power peak symbol got s = _
  unfold execCapture
  rw [act_next s 11 _ h11]
  dsimp only
  rw [if_neg (by simp [hl]), hb]
  rfl

/-- What a burst of an enabled leaf aborted by another brings its record. -/
def State.collided (s : State) (n : Nat) (b : Burst) : State :=
  if !s.on .BGHT_LEAF_EN n b.leaf then s
  else
    let s := ((s.inc .BGHT_LEAF_ST_COLLIDED 1 n b.leaf).leafEvent n b.leaf .BGHT_EVT_COLLIDED 0x5805).rerange n b.leaf
    if b.kind = 1 then s.failAttempt n b.leaf b.cycle else s

theorem State.collide_eq (n : Nat) (b : Burst) (got : Nat) : s.collide n b got = (s.passBurst n { b with cut := some got }).collided n b := rfl

theorem State.passBurst_up (n : Nat) (b : Burst) (f : Nat) : (s.passBurst n b).up n f = s.up n f := by
  unfold State.passBurst
  split
  · rw [State.up, State.setBgt_bgt]
    rfl
  · rfl

theorem State.passBurst_received (n : Nat) (b : Burst) (h : b.kind = 0) : ((s.passBurst n b).bgt n).received = (s.bgt n).received ++ [b] := by
  rw [State.passBurst, if_pos h, State.setBgt_bgt]

@[simp] theorem State.rd_passBurst (q : Fld) (n : Nat) (b : Burst) (i j k : Nat) : (s.passBurst n b).rd q i j k = s.rd q i j k := by
  unfold State.passBurst
  split <;> rfl

@[simp] theorem State.on_passBurst (q : Fld) (n : Nat) (b : Burst) (i j k : Nat) : (s.passBurst n b).on q i j k = s.on q i j k := by
  rw [State.on, State.rd_passBurst, ← State.on]

theorem State.failAttempt_burstsAlike {n : Nat} (i cycle : Nat) : s.burstsAlike n (s.failAttempt n i cycle) := by
  unfold State.failAttempt
  lift_lets
  intro x k s1
  have h1 : s.burstsAlike n s1 := State.setLeaf_burstsAlike i _
  exact ((h1.trans (State.setLeafState_burstsAlike i 0)).trans (State.leafEvent_burstsAlike i _ _)).ite h1

/-- A failed attempt leaves a field apart from the leaf's state and the event. -/
theorem State.rd_failAttempt_beside {g : Fld} (h : g.besideLeafState = true) (he : Fld.apart .BGHT_EVT_RNG_FAIL g = true)
    (hm : eventMask.testBit (regBit g.id) = false) (n i cycle a b c : Nat) : (s.failAttempt n i cycle).rd g a b c = s.rd g a b c := by
  unfold State.failAttempt
  dsimp only
  split
  · rw [State.rd_leafEvent_apart _ _ _ _ _ _ _ he hm, State.rd_setLeafState_beside _ h, State.rd_setLeaf]
  · rfl

/-- The third failed attempt of a discovery cycle. -/
theorem State.failAttempt_third (n : Line) (i : Leaf) (cycle : Nat) (h : s.leafState n i = 1) (h2 : 2 ≤ (s.leaf n i).fails.get 0 cycle) :
    (s.failAttempt n i cycle).leafState n i = 0 ∧ (s.failAttempt n i cycle).on .BGHT_EVT_RNG_FAIL n = true := by
  unfold State.failAttempt
  dsimp only
  rw [if_pos ⟨h, by omega⟩]
  refine ⟨?_, State.leafEvent_on _ n i _ (by decide) rfl (by decide)⟩
  rw [State.leafState_leafEvent _ _ _ _ _ _ (by decide)]
  exact State.setLeafState_leafState _ n i (by decide)

theorem State.inc_burstsAlike {n : Nat} (f : Fld) (d i j k : Nat) : s.burstsAlike n (s.inc f d i j k) := ⟨rfl, rfl⟩

theorem State.collided_burstsAlike {n : Nat} (b : Burst) : s.burstsAlike n (s.collided n b) := by
  unfold State.collided
  lift_lets
  intro s1
  have h1 : s.burstsAlike n s1 :=
    ((s.inc_burstsAlike _ _ _ _ _).trans (State.leafEvent_burstsAlike _ _ _)).trans (State.rerange_burstsAlike _)
  exact State.burstsAlike_refl.ite ((h1.trans (State.failAttempt_burstsAlike _ _ _)).ite h1)

/-- A collision of an enabled leaf's burst. -/
theorem State.collided_shows (n : Line) (b : Burst) (i : Leaf) (hi : b.leaf = i) (hen : s.on .BGHT_LEAF_EN n i = true) :
    (s.collided n b).on .BGHT_EVT_COLLIDED n = true ∧
      (s.collided n b).rd .BGHT_LEAF_ST_COLLIDED n i = min 65535 (s.rd .BGHT_LEAF_ST_COLLIDED n i + 1) ∧
      (b.kind = 0 → s.leafState n i = 2 ∨ s.leafState n i = 3 → (s.collided n b).leafState n i = 1) := by
  let u := (s.inc .BGHT_LEAF_ST_COLLIDED 1 n i).leafEvent n i .BGHT_EVT_COLLIDED 0x5805
  have heq : s.collided n b = if b.kind = 1 then (u.rerange n i).failAttempt n i b.cycle else u.rerange n i := by
    rw [State.collided, hi, if_neg (by simp [hen])]
  have hrd {g : Fld} (h : g.besideLeafState = true) (he : Fld.apart .BGHT_EVT_RNG_FAIL g = true)
      (hm : eventMask.testBit (regBit g.id) = false) (a c d : Nat) : (s.collided n b).rd g a c d = u.rd g a c d := by
    rw [heq]
    split
    · rw [State.rd_failAttempt_beside _ h he hm, State.rd_rerange_beside _ h]
    · exact State.rd_rerange_beside _ h _ _ _ _ _
  have hev : u.on .BGHT_EVT_COLLIDED n = true := State.leafEvent_on _ n i _ (by decide) rfl (by decide)
  have hcount : u.rd .BGHT_LEAF_ST_COLLIDED n i = min 65535 (s.rd .BGHT_LEAF_ST_COLLIDED n i + 1) := by
    rw [State.rd_leafEvent_apart _ _ _ _ _ _ _ (by decide) (by decide)]
    exact s.rd_inc_leaf n i (by decide)
  have hst : u.leafState n i = s.leafState n i := by
    rw [State.leafState_leafEvent _ _ _ _ _ _ (by decide)]
    exact s.rd_wr_apart _ _ _ _ _ _ _ (by decide)
  refine ⟨?_, ?_, fun hk h23 => ?_⟩
  · rw [State.on, hrd (by decide) (by decide) (by decide), ← State.on]
    exact hev
  · rw [hrd (by decide) (by decide) (by decide)]
    exact hcount
  · rw [heq, if_neg (by omega)]
    exact (u.rerange_shows n i (by rw [hst]; exact h23)).1

/-- A burst aborted by another. -/
theorem State.collide_up (n f : Nat) (b : Burst) (got : Nat) : (s.collide n b got).up n f = s.up n f := by
  rw [State.collide_eq, (State.collided_burstsAlike _ b).up, State.passBurst_up]

theorem State.collide_received (n : Nat) (b : Burst) (got : Nat) (h : b.kind = 0) :
    ((s.collide n b got).bgt n).received = (s.bgt n).received ++ [{ b with cut := some got }] := by
  rw [State.collide_eq, (State.collided_burstsAlike _ b).2]
  exact s.passBurst_received n _ h

/-- A collision of an enabled leaf's burst, with what it has brought. -/
theorem State.collide_shows (n : Line) (b : Burst) (got : Nat) (hlt : b.leaf < 256) (hen : s.on .BGHT_LEAF_EN n b.leaf = true) :
    (s.collide n b got).on .BGHT_EVT_COLLIDED n = true ∧
      (s.collide n b got).rd .BGHT_LEAF_ST_COLLIDED n b.leaf = min 65535 (s.rd .BGHT_LEAF_ST_COLLIDED n b.leaf + 1) ∧
      (b.kind = 0 → s.leafState n b.leaf = 2 ∨ s.leafState n b.leaf = 3 → (s.collide n b got).leafState n b.leaf = 1) := by
  have h := (s.passBurst n { b with cut := some got }).collided_shows n b ⟨b.leaf, hlt⟩ rfl (by rw [State.on_passBurst]; exact hen)
  simp only [State.leafState, State.rd_passBurst] at h ⊢
  exact h

theorem State.setUp_received (n f : Nat) (x : UpSub) : ((s.setUp n f x).bgt n).received = (s.bgt n).received := by rw [State.setUp_bgt]

theorem State.watched_both {n f : Nat} (symbol got : Nat) (b : Burst) :
    s.watched n f true true symbol got b = (s.setUp n f ((s.up n f).capture symbol)).collide n b got := rfl

theorem State.overlapped_shows (n : Line) (b : Burst) (f : Nat) (hlt : b.leaf < 256) : (s.overlapped n b).up n f = s.up n f ∧
    (s.on .BGHT_LEAF_EN n b.leaf = true →
      (s.overlapped n b).rd .BGHT_LEAF_ST_OVERLAP n b.leaf = min 255 (s.rd .BGHT_LEAF_ST_OVERLAP n b.leaf + 1)) := by
  unfold State.overlapped
  refine ⟨?_, fun hen => ?_⟩
  · split <;> rfl
  · rw [if_pos hen]
    exact s.rd_inc_leaf (g := .BGHT_LEAF_ST_OVERLAP) n ⟨b.leaf, hlt⟩ (by decide)

theorem State.watched_alone {n f : Nat} {power peak : Bool} (symbol got : Nat) (b : Burst) (h : power ≠ peak) :
    s.watched n f power peak symbol got b = s.overlapped n b := by
  have hxor : (power && peak) = false ∧ (power || peak) = true := by revert power peak; decide
  rw [State.watched, hxor.1, hxor.2]
  rfl

/-! ### Ends of bursts (R129) -/

/-- A leaf's record after the end of a burst: its offset (0.125 MHz), power, SNR and equaliser state. -/
def State.endStored (s : State) (n i : Nat) (offset : Int) (power snr : BitVec 8) (eq : List Byte) : State :=
  let x := s.leaf n i
  let l := (snr.toNat :: x.snrs).take 64
  let s := s.setLeaf n i { x with store := eq.take 512, snrs := l, sum := (x.sum.1 + snr.toNat, x.sum.2 + 1) }
  if !s.on .BGHT_LEAF_EN n i then s
  else ((s.wr .BGHT_LEAF_ST_FOFF (unsigned 16 offset) n i).wr .BGHT_LEAF_ST_RXPWR power.toNat n i).wr .BGHT_LEAF_ST_UP_SNR
    (l.foldl (· + ·) 0 / l.length) n i

/-- A measured offset held within 500 MHz of where the estimate started. -/
def UpSub.endOffset (u : UpSub) (foff : BitVec 16) : Int := max (u.offset - 4000) (min (u.offset + 4000) foff.toInt)

/-- The end of a burst. -/
def State.burstEnded (s : State) (n f : Nat) (foff : BitVec 16) (power snr : BitVec 8) (eq : List Byte) (b : Burst) : State :=
  let u := s.up n f
  ((s.setUp n f { u with lock := 0, burst := none, marker := false }).passBurst n b).endStored n b.leaf (u.endOffset foff) power snr eq

theorem exec_burstEnd {n : Line} {f : Slot} (foff : BitVec 16) (power snr : BitVec 8) (eq : List Byte) {b : Burst} (h11 : s.alive 11 = true)
    (hl : (s.up n f).lock = 2) (hb : (s.up n f).burst = some b) :
    exec (.burstEnd n f foff power snr eq) s = .next (s.burstEnded n f foff power snr eq b) := by
  change execBurstEnd n f foff power snr eq s = _
  unfold execBurstEnd
  rw [act_next s 11 _ h11]
  dsimp only
  rw [if_neg (by simp [hl]), hb]
  rfl

theorem State.endStored_burstsAlike {n : Nat} (i : Nat) (offset : Int) (power snr : BitVec 8) (eq : List Byte) :
    s.burstsAlike n (s.endStored n i offset power snr eq) := by
  unfold State.endStored
  lift_lets
  intro x l s1
  have h1 : s.burstsAlike n s1 := State.setLeaf_burstsAlike i _
  exact h1.ite (((h1.trans (State.wr_burstsAlike _ _ _ _ _)).trans (State.wr_burstsAlike _ _ _ _ _)).trans (State.wr_burstsAlike _ _ _ _ _))

theorem State.endStored_store (n i : Nat) (offset : Int) (power snr : BitVec 8) (eq : List Byte) :
    ((s.endStored n i offset power snr eq).leaf n i).store = eq.take 512 := by
  have hset (x : LeafInt) : (s.setLeaf n i x).leaf n i = x := s.setLeaf_leaf n i x
  unfold State.endStored
  dsimp only
  split
  · rw [hset]
  · rw [State.leaf, State.bgt, State.wr_bight, State.wr_bight, State.wr_bight, ← State.bgt, ← State.leaf, hset]

theorem unsigned_toInt (v : BitVec 16) : unsigned 16 v.toInt = v.toNat := by
  rw [unsigned, BitVec.toInt_eq_toNat_bmod, Int.bmod_emod]
  have := v.isLt
  omega

theorem State.endStored_shows (n : Line) (i : Leaf) (offset : Int) (power snr : BitVec 8) (eq : List Byte)
    (hen : s.on .BGHT_LEAF_EN n i = true) : (s.endStored n i offset power snr eq).rd .BGHT_LEAF_ST_RXPWR n i = power.toNat ∧
      (s.endStored n i offset power snr eq).rd .BGHT_LEAF_ST_FOFF n i = unsigned 16 offset % 2 ^ 16 := by
  unfold State.endStored
  dsimp only
  rw [if_neg (by rw [State.on_setLeaf, hen]; simp)]
  simp (disch := decide) only [State.rd_wr_apart, State.rd_wr_two]
  exact ⟨Nat.mod_eq_of_lt power.isLt, rfl⟩

theorem UpSub.endOffset_within {u : UpSub} {foff : BitVec 16} (hlo : u.offset - 4000 ≤ foff.toInt) (hhi : foff.toInt ≤ u.offset + 4000) :
    u.endOffset foff = foff.toInt := by
  rw [UpSub.endOffset, min_eq_right hhi, max_eq_right hlo]

theorem State.burstEnded_shows (n : Line) (f : Nat) (foff : BitVec 16) (power snr : BitVec 8) (eq : List Byte) (b : Burst) :
    (s.burstEnded n f foff power snr eq b).up n f = { s.up n f with lock := 0, burst := none, marker := false } ∧
      ((s.burstEnded n f foff power snr eq b).leaf n b.leaf).store = eq.take 512 ∧
      (b.kind = 0 → ((s.burstEnded n f foff power snr eq b).bgt n).received = (s.bgt n).received ++ [b]) := by
  unfold State.burstEnded
  dsimp only
  refine ⟨?_, State.endStored_store _ _ _ _ _ _ _, fun hk => ?_⟩
  · rw [(State.endStored_burstsAlike _ _ _ _ _ _).up, State.passBurst_up, State.setUp_up]
  · rw [(State.endStored_burstsAlike _ _ _ _ _ _).2, State.passBurst_received _ _ _ hk, State.setUp_received]

theorem State.burstEnded_record (n : Line) (f : Nat) (foff : BitVec 16) (power snr : BitVec 8) (eq : List Byte) (b : Burst)
    (hlt : b.leaf < 256) (hen : s.on .BGHT_LEAF_EN n b.leaf = true) :
    (s.burstEnded n f foff power snr eq b).rd .BGHT_LEAF_ST_RXPWR n b.leaf = power.toNat ∧
      (s.burstEnded n f foff power snr eq b).rd .BGHT_LEAF_ST_FOFF n b.leaf = unsigned 16 ((s.up n f).endOffset foff) % 2 ^ 16 := by
  refine State.endStored_shows _ n ⟨b.leaf, hlt⟩ _ power snr eq ?_
  rw [State.on_passBurst]
  exact hen

end Sys2Proof.Machine
end

section
/-! Windows that close, and decoded bursts (R122, R123, R130, R136, R155, R162, R164); and the obligation on the acquisition of bursts. -/

namespace Sys2Proof.Machine

open Sys2Proof

variable (s : State)

/-! ### Windows that close (R130, R136) -/

/-- What a grant without an answer, or a silent ranging attempt, brings its leaf. -/
def State.unanswered (s : State) (n : Nat) (w : Window) : State :=
  let s := s.missGrant n w.leaf
  if w.kind = 1 then s.failAttempt n w.leaf w.cycle else s

/-- The quiet window of a discovery closed. -/
def State.discoveryClosed (s : State) (n f : Nat) : State :=
  let b := s.bgt n
  let s := s.setBgt n { b with reserved := b.reserved.filter fun r => r.1 != f + 32 }
  let open_ := (List.range 32).any fun g => match (s.up n g).window with
    | some v => v.kind == 2
    | none => false
  s.wr .BGHT_STAT_DISC_OPEN (b2n open_) n

/-- The subcarrier of a window that closes: a provisional lock is dropped. -/
def UpSub.closed (u : UpSub) : UpSub := { u with window := none, lock := if u.lock = 2 then 2 else 0 }

/-- A window closes. -/
def State.windowClosed (s : State) (n f : Nat) (w : Window) : State :=
  let s := s.setUp n f (s.up n f).closed
  if w.kind = 2 then s.discoveryClosed n f else if w.confirmed then s else s.unanswered n w

theorem exec_detectionWindowClose {n : Line} {f : Slot} {w : Window} (h11 : s.alive 11 = true) (hw : (s.up n f).window = some w) :
    exec (.detectionWindowClose n f) s = .next (s.windowClosed n f w) := by
  change execDetectionWindowClose n f s = _
  unfold execDetectionWindowClose
  rw [act_next s 11 _ h11]
  dsimp only
  rw [hw]
  rfl

/-- The count of a missed grant. -/
def State.missCounted (s : State) (n i : Nat) : State := (s.inc .BGHT_LEAF_ST_MISSED 1 n i).inc .BGHT_LEAF_ST_MISSED_TOT 1 n i

theorem State.missCounted_missed (n : Line) (i : Leaf) :
    (s.missCounted n i).rd .BGHT_LEAF_ST_MISSED n i = min 15 (s.rd .BGHT_LEAF_ST_MISSED n i + 1) := by
  rw [State.missCounted, State.inc, State.rd_wr_apart _ _ _ _ _ _ _ _ (by decide)]
  exact s.rd_inc_leaf n i (by decide)

theorem State.missCounted_leafState (n i : Nat) : (s.missCounted n i).leafState n i = s.leafState n i := by
  rw [State.leafState, State.missCounted, State.inc, State.rd_wr_apart _ _ _ _ _ _ _ _ (by decide), State.inc,
    State.rd_wr_apart _ _ _ _ _ _ _ _ (by decide), ← State.leafState]

theorem State.missGrant_off {n i : Nat} (hen : s.on .BGHT_LEAF_EN n i = false) : s.missGrant n i = s := by
  rw [State.missGrant, if_pos (by simp [hen])]

section
variable {s} {n : Line} {i : Leaf}

/-- Fewer than eight missed grants in a row only count. -/
theorem State.missGrant_few (hen : s.on .BGHT_LEAF_EN n i = true) (h : s.rd .BGHT_LEAF_ST_MISSED n i < 7) :
    s.missGrant n i = s.missCounted n i := by
  have hmissed := s.missCounted_missed n i
  unfold State.missGrant
  dsimp only
  rw [if_neg (by simp [hen])]
  refine if_neg ?_
  rw [← State.missCounted, hmissed]
  simp
  omega

/-- The eighth grant missed in a row of an Active or Stale leaf. -/
theorem State.missGrant_eighth (hen : s.on .BGHT_LEAF_EN n i = true) (h : 7 ≤ s.rd .BGHT_LEAF_ST_MISSED n i)
    (hst : s.leafState n i = 2 ∨ s.leafState n i = 3) :
    s.missGrant n i = ((s.missCounted n i).setLeafState n i 4).leafEvent n i .BGHT_EVT_LOST 0x5803 := by
  have hmissed := s.missCounted_missed n i
  have hstate := s.missCounted_leafState n i
  unfold State.missGrant
  dsimp only
  rw [if_neg (by simp [hen])]
  refine if_pos ?_
  rw [← State.missCounted, hmissed, hstate]
  simp
  omega

end

theorem State.missGrant_missed (n : Line) (i : Leaf) (hen : s.on .BGHT_LEAF_EN n i = true) :
    (s.missGrant n i).rd .BGHT_LEAF_ST_MISSED n i = min 15 (s.rd .BGHT_LEAF_ST_MISSED n i + 1) := by
  rw [← State.missCounted_missed]
  unfold State.missGrant
  dsimp only
  rw [if_neg (by simp [hen]), ← State.missCounted]
  split
  · rw [State.rd_leafEvent_apart _ _ _ _ _ _ _ (by decide) (by decide), State.rd_setLeafState_beside _ (by decide)]
  · rfl

theorem State.missGrant_burstsAlike {n : Nat} (i : Nat) : s.burstsAlike n (s.missGrant n i) := by
  unfold State.missGrant
  lift_lets
  intro s1 st may
  have h1 : s.burstsAlike n s1 := (s.inc_burstsAlike _ _ _ _ _).trans (State.inc_burstsAlike _ _ _ _ _ _)
  exact State.burstsAlike_refl.ite (((h1.trans (State.setLeafState_burstsAlike i 4)).trans (State.leafEvent_burstsAlike i _ _)).ite h1)

theorem State.unanswered_burstsAlike {n : Nat} (w : Window) : s.burstsAlike n (s.unanswered n w) :=
  ((s.missGrant_burstsAlike w.leaf).trans (State.failAttempt_burstsAlike _ _ _)).ite (s.missGrant_burstsAlike w.leaf)

theorem State.unanswered_missed (n : Line) (w : Window) (i : Leaf) (hi : w.leaf = i) (hen : s.on .BGHT_LEAF_EN n i = true) :
    (s.unanswered n w).rd .BGHT_LEAF_ST_MISSED n i = min 15 (s.rd .BGHT_LEAF_ST_MISSED n i + 1) := by
  rw [← s.missGrant_missed n i hen]
  unfold State.unanswered
  dsimp only
  rw [hi]
  split
  · exact State.rd_failAttempt_beside _ (by decide) (by decide) (by decide) _ _ _ _ _ _
  · rfl

theorem State.unanswered_grant {n : Nat} {w : Window} (hk : w.kind = 0) : s.unanswered n w = s.missGrant n w.leaf := by
  rw [State.unanswered, if_neg (by omega)]

section
variable {s} {n : Line} {w : Window} {i : Leaf}

/-- A granted burst missed. -/
theorem State.unanswered_granted (hk : w.kind = 0) (hi : w.leaf = i) (hen : s.on .BGHT_LEAF_EN n i = true) :
    (s.leafState n i = 2 ∨ s.leafState n i = 3 → 7 ≤ s.rd .BGHT_LEAF_ST_MISSED n i →
      (s.unanswered n w).leafState n i = 4 ∧ (s.unanswered n w).on .BGHT_EVT_LOST n = true) ∧
    (s.rd .BGHT_LEAF_ST_MISSED n i < 7 → (s.unanswered n w).leafState n i = s.leafState n i) := by
  rw [s.unanswered_grant hk, hi]
  refine ⟨fun hst h7 => ?_, fun h7 => ?_⟩
  · rw [State.missGrant_eighth hen h7 hst, State.leafState_leafEvent _ _ _ _ _ _ (by decide)]
    exact ⟨State.setLeafState_leafState _ n i (by decide), State.leafEvent_on _ n i _ (by decide) rfl (by decide)⟩
  · rw [State.missGrant_few hen h7, State.missCounted_leafState]

/-- The third silent ranging attempt. -/
theorem State.unanswered_ranged (hk : w.kind = 1) (hi : w.leaf = i) (hst : s.leafState n i = 1) (h7 : s.rd .BGHT_LEAF_ST_MISSED n i < 7)
    (h2 : 2 ≤ (s.leaf n i).fails.get 0 w.cycle) :
    (s.unanswered n w).leafState n i = 0 ∧ (s.unanswered n w).on .BGHT_EVT_RNG_FAIL n = true := by
  have hsame : (s.missGrant n i).leafState n i = s.leafState n i ∧ (s.missGrant n i).leaf n i = s.leaf n i := by
    cases hen : s.on .BGHT_LEAF_EN n i with
    | false => rw [s.missGrant_off hen]; exact ⟨rfl, rfl⟩
    | true => rw [State.missGrant_few hen h7]; exact ⟨s.missCounted_leafState n i, rfl⟩
  rw [State.unanswered, if_pos hk, hi]
  exact State.failAttempt_third _ n i w.cycle (by rw [hsame.1]; exact hst) (by rw [hsame.2]; exact h2)

end

theorem State.discoveryClosed_up (n f g : Nat) : (s.discoveryClosed n f).up n g = s.up n g := by
  unfold State.discoveryClosed
  rw [State.up, State.bgt, State.wr_bight, ← State.bgt, State.setBgt_bgt]
  rfl

theorem State.windowClosed_up (n f : Nat) (w : Window) : (s.windowClosed n f w).up n f = (s.up n f).closed := by
  unfold State.windowClosed
  dsimp only
  split_ifs
  · rw [State.discoveryClosed_up, State.setUp_up]
  · exact s.setUp_up n f _
  · rw [(State.unanswered_burstsAlike _ w).up, State.setUp_up]

theorem State.windowClosed_confirmed {n f : Nat} {w : Window} (hk : w.kind ≠ 2) (hc : w.confirmed = true) :
    s.windowClosed n f w = s.setUp n f (s.up n f).closed := by
  rw [State.windowClosed, if_neg hk, if_pos hc]

theorem State.windowClosed_unanswered {n f : Nat} {w : Window} (hk : w.kind ≠ 2) (hc : w.confirmed = false) :
    s.windowClosed n f w = (s.setUp n f (s.up n f).closed).unanswered n w := by
  rw [State.windowClosed, if_neg hk, if_neg (by simp [hc])]

/-! ### Decoded bursts (R122, R123, R155, R164) -/

/-- The iterations counted of a line, and what Hitch holds, as before. -/
def State.itersAlike (s : State) (n : Nat) (t : State) : Prop :=
  t.rd .CLET_CNT_COUNT n 5 = s.rd .CLET_CNT_COUNT n 5 ∧ t.rd .CLET_CNT_COUNT n 6 = s.rd .CLET_CNT_COUNT n 6 ∧ t.hitch = s.hitch

section
variable {s} {t u : State} {n : Nat}

theorem State.itersAlike_refl : s.itersAlike n s := ⟨rfl, rfl, rfl⟩

theorem State.itersAlike.trans (h : s.itersAlike n t) (h' : t.itersAlike n u) : s.itersAlike n u := by
  obtain ⟨h5, h6, hh⟩ := h
  obtain ⟨h5', h6', hh'⟩ := h'
  exact ⟨h5'.trans h5, h6'.trans h6, hh'.trans hh⟩

theorem State.itersAlike.ite {c : Prop} [Decidable c] (h : s.itersAlike n t) (h' : s.itersAlike n u) :
    s.itersAlike n (if c then t else u) := by
  split <;> assumption

/-- Another counter of Cleat. -/
theorem State.count_itersAlike (d j : Nat) (h5 : 5 ≠ j) (h6 : 6 ≠ j) : s.itersAlike n (s.count .CLET_CNT d n j) :=
  ⟨s.rd_setReg_second _ _ _ _ _ h5, s.rd_setReg_second _ _ _ _ _ h6, rfl⟩

theorem State.setClt_itersAlike (x : CleatInt) : s.itersAlike n (s.setClt n x) := ⟨rfl, rfl, rfl⟩

theorem State.uncorr_itersAlike (code dom : Nat) : s.itersAlike n (s.raise .CLET_EVT_UNCORR code dom [] false n) :=
  ⟨s.rd_raise_apart _ _ _ _ _ _ _ _ (by decide) (by decide), s.rd_raise_apart _ _ _ _ _ _ _ _ (by decide) (by decide),
    s.raise_hitch _ _ _ _ _ _⟩

theorem State.decided_itersAlike (slot : Nat) (b : SoftBlock) (d : Nodes) (ok bad : Bool) : s.itersAlike n (s.decided n slot b d ok bad).1 := by
  unfold State.decided
  lift_lets
  intro labels s1 x s2
  have h1 : s.itersAlike n s1 := State.count_itersAlike _ 1 (by decide) (by decide)
  exact (h1.trans (State.setClt_itersAlike _)).ite h1

theorem State.lashing_itersAlike (corrected : Option Nat) : s.itersAlike n (s.lashing n corrected) := by
  unfold State.lashing
  lift_lets
  intro s1 s2
  have h1 : s.itersAlike n s1 := State.count_itersAlike _ 2 (by decide) (by decide)
  have h2 : s.itersAlike n s2 := h1.trans (State.count_itersAlike _ 4 (by decide) (by decide))
  cases corrected with
  | some c => exact h1.ite (h1.trans (State.count_itersAlike c 3 (by decide) (by decide)))
  | none => exact h2.ite ((h2.trans (State.setClt_itersAlike _)).trans (State.uncorr_itersAlike _ _))

theorem State.burstWord_itersAlike (w : List RxBit) : s.itersAlike n (s.burstWord n w).1 := by
  unfold State.burstWord
  dsimp only
  split
  · exact State.lashing_itersAlike _
  · exact State.lashing_itersAlike _

end

theorem iterate_le (tail early : Bool) (l : List SoftBlock) (ok : List Nodes → Bool) :
    ∀ (k : Nat) (m : List Int), (iterate tail early l ok k m).2 ≤ k
  | 0, _ => Nat.le_refl 0
  | k + 1, m => by
    rw [iterate]
    dsimp only
    split
    · exact Nat.le_add_left 1 k
    · exact Nat.succ_le_succ (iterate_le tail early l ok k _)

/-- The counters and the average of a burst's iterations, of those granted. -/
def State.itersCounted (s : State) (n slot labels g r : Nat) : State :=
  let s := ((s.count .CLET_CNT labels n 0).count .CLET_CNT r n 5).count .CLET_CNT (g - r) n 6
  let x := s.clt n
  let k := x.shifts.get (0, 0) slot
  s.setClt n { x with shifts := x.shifts.put (0, 0) slot (k.1 + 1, k.2 + b2n (decide (r < g))) }

/-- Steps taken for each of a list, and the bits that they bring in order. -/
def State.gather {α : Type} (step : State → α → State × List RxBit) (l : List α) (s : State) : State × List RxBit :=
  l.foldl (fun p e => ((step p.1 e).1, p.2 ++ (step p.1 e).2)) (s, [])

theorem State.gather_itersAlike {α : Type} {n : Nat} {step : State → α → State × List RxBit}
    (h : ∀ (t : State) (e : α), t.itersAlike n (step t e).1) (l : List α) : s.itersAlike n (s.gather step l).1 := by
  suffices hp : ∀ p : State × List RxBit, p.1.itersAlike n (l.foldl (fun p e => ((step p.1 e).1, p.2 ++ (step p.1 e).2)) p).1 from
    hp (s, [])
  induction l with
  | nil => exact fun _ => State.itersAlike_refl
  | cons e r ih => exact fun p => (h p.1 e).trans (ih _)

/-- A burst's net bits passed to Hitch. -/
def State.burstPassed (p : State × List RxBit) (n leaf : Nat) : State :=
  p.1.setHit n { p.1.hit n with bursts := (p.1.hit n).bursts ++ [(leaf, rxBytes p.2)] }

/-- The iterations that a burst's blocks take. -/
def State.burstIters (s : State) (n : Nat) (b : Burst) (l : List SoftBlock) : List Int × Nat :=
  iterate true (s.on .CLET_LINE_CFG_EARLY_EN n) l burstHolds (s.rd .CLET_SC_STAT_GRANT n b.sub) []

/-- A burst's iterations counted. -/
def State.burstCounted (s : State) (n : Nat) (b : Burst) (l : List SoftBlock) : State :=
  s.itersCounted n b.sub ((l.map fun x => x.soft.length).foldl (· + ·) 0) (s.rd .CLET_SC_STAT_GRANT n b.sub) (s.burstIters n b l).2

/-- A burst's blocks decided, with their information bits. -/
def State.burstDecided (s : State) (n : Nat) (b : Burst) (l : List SoftBlock) : State × List RxBit :=
  let hard := Config.minSumHard true l (s.burstIters n b l).1
  (s.burstCounted n b l).gather (fun t e => t.decided n b.sub e.1 e.2 (burstHolds hard) false) (l.zip hard)

/-- A burst's codewords decoded, with its net bits. -/
def State.burstDecoded (s : State) (n : Nat) (b : Burst) (l : List SoftBlock) : State × List RxBit :=
  let d := s.burstDecided n b l
  d.1.gather (fun t w => t.burstWord n w) (burstWords d.2.length d.2)

theorem State.decodeBlocks_eq (n : Nat) (b : Burst) (l : List SoftBlock) :
    s.decodeBlocks n b l = State.burstPassed (s.burstDecoded n b l) n b.leaf := by
  unfold State.decodeBlocks State.burstDecoded State.burstDecided State.burstCounted State.itersCounted State.gather State.burstPassed
    State.burstIters
  dsimp only

theorem State.burstDecoded_itersAlike (n : Nat) (b : Burst) (l : List SoftBlock) :
    (s.burstCounted n b l).itersAlike n (s.burstDecoded n b l).1 := by
  have hblocks : (s.burstCounted n b l).itersAlike n (s.burstDecided n b l).1 := by
    unfold State.burstDecided
    exact State.gather_itersAlike _ (fun t (e : SoftBlock × Nodes) => t.decided_itersAlike b.sub e.1 e.2 _ false) _
  refine hblocks.trans ?_
  unfold State.burstDecoded
  exact State.gather_itersAlike _ (fun t w => t.burstWord_itersAlike w) _

theorem State.rd_count_clet (d : Nat) (n : Line) (j : Fin 7) :
    (s.count .CLET_CNT d n j).rd .CLET_CNT_COUNT n j = (s.rd .CLET_CNT_COUNT n j + d) % 2 ^ 48 :=
  (s.get_count_counter d (r := ⟨.CLET_CNT, n, j, 0⟩) (show RegId.CLET_CNT ∈ counterIds by decide)
    (regValid_two_of_dims (n := 3) (m := 7) rfl n j)).1

theorem State.rd_count_clet_other (d n : Nat) {j k : Nat} (h : k ≠ j) :
    (s.count .CLET_CNT d n j).rd .CLET_CNT_COUNT n k = s.rd .CLET_CNT_COUNT n k :=
  s.rd_setReg_second _ _ _ _ _ h

theorem State.itersCounted_shows (n : Line) (slot labels g r : Nat) :
    (s.itersCounted n slot labels g r).rd .CLET_CNT_COUNT n 5 = (s.rd .CLET_CNT_COUNT n 5 + r) % 2 ^ 48 ∧
      (s.itersCounted n slot labels g r).rd .CLET_CNT_COUNT n 6 = (s.rd .CLET_CNT_COUNT n 6 + (g - r)) % 2 ^ 48 ∧
      (s.itersCounted n slot labels g r).hitch = s.hitch := by
  have h5 := (s.count .CLET_CNT labels n 0).rd_count_clet r n 5
  have h6 := ((s.count .CLET_CNT labels n 0).count .CLET_CNT r n 5).rd_count_clet (g - r) n 6
  simp only [Fin.isValue, show ((5 : Fin 7) : Nat) = 5 from rfl, show ((6 : Fin 7) : Nat) = 6 from rfl] at h5 h6
  unfold State.itersCounted
  dsimp only
  refine ⟨?_, ?_, rfl⟩
  · rw [State.rd_setClt, State.rd_count_clet_other _ _ _ (by decide), h5, State.rd_count_clet_other _ _ _ (by decide)]
  · rw [State.rd_setClt, h6, State.rd_count_clet_other _ _ _ (by decide), State.rd_count_clet_other _ _ _ (by decide)]

/-- A burst decoded: its iterations counted, and one burst more for Hitch. -/
theorem State.decodeBlocks_shows (n : Line) (b : Burst) (l : List SoftBlock) :
    (∃ x, ((s.decodeBlocks n b l).hit n).bursts = (s.hit n).bursts ++ [(b.leaf, x)]) ∧
      ∃ r ≤ s.rd .CLET_SC_STAT_GRANT n b.sub,
        (s.decodeBlocks n b l).rd .CLET_CNT_COUNT n 5 = (s.rd .CLET_CNT_COUNT n 5 + r) % 2 ^ 48 ∧
        (s.decodeBlocks n b l).rd .CLET_CNT_COUNT n 6 = (s.rd .CLET_CNT_COUNT n 6 + (s.rd .CLET_SC_STAT_GRANT n b.sub - r)) % 2 ^ 48 := by
  obtain ⟨h5, h6, hh⟩ := s.itersCounted_shows n b.sub ((l.map fun x => x.soft.length).foldl (· + ·) 0) (s.rd .CLET_SC_STAT_GRANT n b.sub)
    (s.burstIters n b l).2
  obtain ⟨h5', h6', hh'⟩ := s.burstDecoded_itersAlike n b l
  rw [State.decodeBlocks_eq]
  refine ⟨⟨rxBytes (s.burstDecoded n b l).2, ?_⟩, (s.burstIters n b l).2, iterate_le _ _ _ _ _ _, ?_, ?_⟩
  · rw [State.burstPassed, State.hit, State.setHit_hitch, Tab.get_put_same, State.hit, hh', State.burstCounted, hh, ← State.hit]
  · rw [State.burstPassed, State.rd_setHit, h5', State.burstCounted, h5]
  · rw [State.burstPassed, State.rd_setHit, h6', State.burstCounted, h6]

/-- A burst under a profile that its leaf does not have: counted, and the start profile announced, unless it is already. -/
def State.profileUnknown (s : State) (n i : Nat) : State :=
  let x := s.leaf n i
  let s := s.inc .BGHT_LEAF_ST_BAD_PROF 1 n i
  if x.profDue.any (fun d => d.1.id == 0) || !s.on .BGHT_LEAF_EN n i then s else s.announce n i (s.startProfile n i)

/-- The data symbols of a burst that has run to its end. -/
def State.burstSymbols (s : State) (n : Nat) (b : Burst) : Nat := dataSymbols (payloadSymbols (s.upWidth n b.sub) b.len b.long)

/-- The coupling blocks of a burst under the profile of its leaf that its header names, erased where it was aborted. -/
def State.payloadBlocks (s : State) (n i : Nat) (soft : List Int) (b : Burst) : List SoftBlock :=
  let x := s.leaf n i
  let p := if b.prof = x.prof.id then x.prof else x.prev
  let all := s.burstSymbols n b
  burstBlocks (s.rd .CLET_LINE_CFG_BURST_OH n) p (all / 576) (b.cut.elim all dataSymbols) soft

/-- A burst read; fewer than three blocks carry no data. -/
def State.payloadRead (s : State) (n i : Nat) (soft : List Int) (b : Burst) : State :=
  if s.burstSymbols n b / 576 < 3 then s else s.decodeBlocks n b (s.payloadBlocks n i soft b)

/-- A burst taken from those that wait. -/
def State.burstTaken (s : State) (n : Nat) (b : Burst) : State := s.setBgt n { s.bgt n with received := (s.bgt n).received.erase b }

/-- The burst of a leaf that waits, decoded. -/
def State.payloadDecoded (s : State) (n i : Nat) (soft : List Int) (b : Burst) : State :=
  let x := s.leaf n i
  if b.prof != x.prof.id && b.prof != x.prev.id then (s.burstTaken n b).profileUnknown n i else (s.burstTaken n b).payloadRead n i soft b

theorem State.burstTaken_leaf (n : Nat) (b : Burst) (i : Nat) : (s.burstTaken n b).leaf n i = s.leaf n i := by
  rw [State.leaf, State.burstTaken, State.setBgt_bgt]
  rfl

theorem State.burstTaken_clock (n : Nat) (b : Burst) : ((s.burstTaken n b).bgt n).clock = (s.bgt n).clock := by
  rw [State.burstTaken, State.setBgt_bgt]

theorem exec_burstDecodeDone_none {n : Line} {i : Leaf} (soft : List Int) (h12 : s.alive 12 = true)
    (h : s.lineMode n ≠ 2 ∨ (s.bgt n).received.find? (fun b => b.leaf == i.val) = none) :
    exec (.burstDecodeDone n i soft) s = .next s := by
  change execBurstDecodeDone n i soft s = _
  unfold execBurstDecodeDone
  rw [act_next s 12 _ h12]
  dsimp only
  split
  · next hm hf =>
    rcases h with h | h
    · exact absurd (by simpa using hm) h
    · exact absurd hf (by simp [h])
  · rfl

theorem exec_burstDecodeDone_some {n : Line} {i : Leaf} (soft : List Int) {b : Burst} (h12 : s.alive 12 = true)
    (hm : s.lineMode n = 2) (hf : (s.bgt n).received.find? (fun b => b.leaf == i.val) = some b) :
    exec (.burstDecodeDone n i soft) s = .next (s.payloadDecoded n i soft b) := by
  have hleaf : (s.setBgt n { s.bgt n with received := (s.bgt n).received.erase b }).leaf n i = s.leaf n i := s.burstTaken_leaf n b i
  have hmode : (s.lineMode n == 2) = true := by simp [hm]
  change execBurstDecodeDone n i soft s = _
  unfold execBurstDecodeDone State.payloadDecoded State.profileUnknown State.payloadRead State.payloadBlocks
  rw [act_next s 12 _ h12]
  dsimp only
  rw [hf, hmode]
  dsimp only
  rw [hleaf, State.burstTaken_leaf]
  unfold State.burstTaken State.burstSymbols
  cases b.cut with
  | none => simp only [Option.elim]
  | some c => simp only [Option.elim]

/-- What a burst decoded changes. -/
def decodeFoot : Nat := eventFoot [.CLET_EVT, .CLET_CNT] [.cleat, .hitch]

theorem State.payloadRead_bgt (n i : Nat) (soft : List Int) (b : Burst) (m : Nat) : (s.payloadRead n i soft b).bgt m = s.bgt m := by
  unfold State.payloadRead
  split
  · rfl
  · exact State.kept_bgt (State.decodeBlocks_kept (m := decodeFoot) s n b _ (State.kept_refl _ s) rfl) rfl m

theorem State.announce_burstsAlike {n : Nat} (i : Nat) (p : Profile) : s.burstsAlike n (s.announce n i p) := State.setLeaf_burstsAlike i _

theorem State.profileUnknown_burstsAlike {n : Nat} (i : Nat) : s.burstsAlike n (s.profileUnknown n i) := by
  have h1 : s.burstsAlike n (s.inc .BGHT_LEAF_ST_BAD_PROF 1 n i) := s.inc_burstsAlike _ _ _ _ _
  exact h1.ite (h1.trans (State.announce_burstsAlike _ _ _))

theorem State.payloadDecoded_received (n i : Nat) (soft : List Int) (b : Burst) :
    ((s.payloadDecoded n i soft b).bgt n).received = (s.bgt n).received.erase b := by
  have htaken : ((s.burstTaken n b).bgt n).received = (s.bgt n).received.erase b := by rw [State.burstTaken, State.setBgt_bgt]
  unfold State.payloadDecoded
  dsimp only
  split
  · rw [(State.profileUnknown_burstsAlike _ i).2, htaken]
  · rw [State.payloadRead_bgt, htaken]

/-- Where an announcement is due, and for whom, follows from the registers and the clock alone. -/
theorem State.announce_profDue (n i : Nat) (p : Profile) : ((s.announce n i p).leaf n i).profDue =
    some (p, (s.bgt n).clock + 1 + s.rd .BGHT_LINE_CFG_MAP_LEAD n + 8, 8) := by
  rw [State.announce, State.setLeaf_leaf]

theorem State.profileUnknown_shows (n : Line) (i : Leaf) :
    (s.profileUnknown n i).rd .BGHT_LEAF_ST_BAD_PROF n i = min 65535 (s.rd .BGHT_LEAF_ST_BAD_PROF n i + 1) ∧
      (s.profileUnknown n i).hitch = s.hitch ∧
      ((s.leaf n i).profDue = none → s.on .BGHT_LEAF_EN n i = true →
        ((s.profileUnknown n i).leaf n i).profDue =
          some (s.startProfile n i, (s.bgt n).clock + 1 + s.rd .BGHT_LINE_CFG_MAP_LEAD n + 8, 8)) := by
  have hrd (f : Fld) (h : f.id ≠ .BGHT_LEAF_ST) (a b c : Nat) : (s.inc .BGHT_LEAF_ST_BAD_PROF 1 n i).rd f a b c = s.rd f a b c :=
    s.rd_inc_other _ _ _ _ _ _ _ _ _ fun e => h e.1
  have hcount : (s.inc .BGHT_LEAF_ST_BAD_PROF 1 n i).rd .BGHT_LEAF_ST_BAD_PROF n i = min 65535 (s.rd .BGHT_LEAF_ST_BAD_PROF n i + 1) :=
    s.rd_inc_leaf n i (by decide)
  unfold State.profileUnknown
  dsimp only
  refine ⟨?_, ?_, fun hnone hen => ?_⟩
  · split
    · exact hcount
    · rw [State.announce, State.rd_setLeaf, hcount]
  · split <;> rfl
  · rw [if_neg (by rw [hnone, State.on, hrd _ (by decide), ← State.on, hen]; simp), State.announce_profDue, State.startProfile, State.startProfile,
      hrd _ (by decide), hrd _ (by decide), hrd _ (by decide)]
    rfl

theorem State.payloadDecoded_unknown (n i : Nat) (soft : List Int) {b : Burst} (h : b.prof ≠ (s.leaf n i).prof.id)
    (h' : b.prof ≠ (s.leaf n i).prev.id) : s.payloadDecoded n i soft b = (s.burstTaken n b).profileUnknown n i := by
  rw [State.payloadDecoded, if_pos (by simp [h, h'])]

/-- A burst of three blocks or more under a profile of its leaf. -/
theorem State.payloadDecoded_known (n i : Nat) (soft : List Int) {b : Burst}
    (h : b.prof = (s.leaf n i).prof.id ∨ b.prof = (s.leaf n i).prev.id) (h3 : 3 ≤ (s.burstTaken n b).burstSymbols n b / 576) :
    s.payloadDecoded n i soft b = (s.burstTaken n b).decodeBlocks n b ((s.burstTaken n b).payloadBlocks n i soft b) := by
  rw [State.payloadDecoded, if_neg (by simpa [not_or, imp_iff_not_or] using h), State.payloadRead, if_neg (by omega)]

/-- Settles O35, clause by clause along a burst's life: its window, the locks, the end marker, the header, the watch on the confirmed lock,
its end, the close of its window, and its payload decoded. -/
theorem burstAcquisition : Obligations.BurstAcquisition := by
  unfold Obligations.BurstAcquisition
  refine ⟨?opens, ?locks, ?marker, ?header, ?watch, ?ends, ?closes, ?decoded⟩
  case opens =>
    intro s n f h11 h hw
    refine ⟨fun i g hg => ?_, fun k from_ to_ hr => ?_⟩
    · have hexec := exec_detectionWindowOpen_grant s h11 h hw hg
      obtain ⟨hlock, hgrants, heq, hwin⟩ := s.grantWindow_shows n f i g
      exact ⟨_, hexec, exec_only_of_fits hexec (by simp only [footprint]; decide +kernel), hlock, hgrants, heq, _, hwin, rfl, rfl, rfl, rfl, rfl⟩
    · have hexec := exec_detectionWindowOpen_discovery s h11 h hw hr
      obtain ⟨-, -, hwin, -⟩ := s.openWindow_shows n f (s.discoveryWindow n from_)
      refine ⟨_, _, hexec, exec_only_of_fits hexec (by simp only [footprint]; decide +kernel), hwin, rfl, ?_⟩
      rw [State.on, State.rd_wr_one _ _ _ (by decide)]
      rfl
  case locks =>
    intro s n f corrB metric symbol w h11 hw hlt
    have hexec := exec_provisionalLock s corrB metric symbol h11 hw
    refine ⟨_, hexec, exec_only_of_fits hexec (by simp only [footprint]; decide +kernel), fun hle => State.peakJudged_ignored (.inl hle),
      fun hgt htake => ?_, fun h2 => State.peakJudged_ignored (.inr (by simp [State.takesPeak, h2]))⟩
    rw [State.peakJudged_taken hgt (by simpa [State.takesPeak, and_assoc] using htake)]
    refine ⟨fun hlate => ?_, fun hearly => ?_⟩
    · have hlock : lateLock w.long symbol = true := decide_eq_true hlate
      simp only [hlock, if_true]
      exact s.lockedLate_shows n f w hlt
    · have hlock : lateLock w.long symbol = false := by simpa [lateLock] using hearly
      simp only [hlock, Bool.false_eq_true, if_false]
      exact s.peakLocked_shows n f corrB metric symbol w
  case marker =>
    intro s n f found h11 hl
    have hexec := exec_endMarker s found h11 hl
    refine ⟨_, hexec, exec_only_of_fits hexec (by simp only [footprint]; decide +kernel), ?_⟩
    rw [State.setUp_up]
    cases found
    · exact ⟨rfl, rfl⟩
    · exact ⟨rfl, hl⟩
  case header =>
    intro s n f soft arrival ofs h h11 hl hm hh
    have hexec := exec_burstHeaderDecoded s arrival ofs h11 hl hm hh
    refine ⟨_, hexec, exec_only_of_fits hexec (by simp only [footprint]; decide +kernel), fun hbad => ?bad, fun hok => ?counted,
      fun w hok hcap hwin hlt hfit => ?fits, fun w hok hcap hwin hfit => ?misfit, fun hok hcap hwin hg => ?captured⟩
    case bad =>
      rw [if_neg (by simp [hbad])]
      exact ⟨State.dropLock_lock _ n f, s.rd_incWrap_trl (g := .CLET_TRL_HDR_FAIL) n (by decide) rfl⟩
    case counted =>
      rw [if_pos hok, State.kept_rd (State.headerTaken_kept _ n f h arrival ofs) _ rfl]
      exact s.rd_incWrap_trl (g := .CLET_TRL_HDR_OK) n (by decide) rfl
    case fits =>
      have hst (j : Nat) : (s.okCounted n).leafState n j = s.leafState n j := s.okCounted_leafState n n j
      have hen (j : Nat) : (s.okCounted n).on .BGHT_LEAF_EN n j = s.on .BGHT_LEAF_EN n j := s.okCounted_on (by decide) _ _ _ _
      rw [if_pos hok, State.headerTaken_fits ((s.okCounted_up n f).symm ▸ hcap) ((s.okCounted_up n f).symm ▸ hwin) hfit]
      refine ⟨State.windowAnswered_lock, fun hk h1 => ?_, fun hk h1 h2 => ?_, fun hk h0 => ?_, fun hk i hfind hi h04 => ?_⟩
      · rw [← hst]
        exact State.windowAnswered_granted (i := (⟨w.leaf, hlt⟩ : Leaf)) rfl hk ((hen _).trans h1)
      · exact State.windowAnswered_ranged (i := (⟨w.leaf, hlt⟩ : Leaf)) rfl hk ((hen _).trans h1) ((hst _).trans h2)
      · rw [State.reg, State.windowAnswered_off hk ((hen _).trans h0), ← State.reg]
        exact s.okCounted_reg (by decide) _ _ _ _
      · refine State.windowAnswered_discovered (i := (⟨i, hi⟩ : Leaf)) hk ?_ (by rw [hst]; exact h04)
        simp only [s.okCounted_leavesOn, s.okCounted_rd (g := .BGHT_LEAF_SERIAL) (by decide)]
        exact hfind
    case misfit =>
      rw [if_pos hok, State.headerTaken_misfit ((s.okCounted_up n f).symm ▸ hcap) ((s.okCounted_up n f).symm ▸ hwin) hfit]
      exact State.dropLock_lock _ n f
    case captured =>
      rw [if_pos hok, State.headerTaken, s.okCounted_up, if_pos hcap]
      exact State.capturedHeader_unexpected ((s.okCounted_up n f).symm ▸ hwin) hg
  case watch =>
    intro s n f power peak symbol got b h11 hl hb hlt
    have hexec := exec_capture s power peak symbol got h11 hl hb
    refine ⟨_, hexec, exec_only_of_fits hexec (by simp only [footprint]; decide +kernel), fun hpow hpeak => ?_, fun hne => ?_,
      fun hpow hpeak => by rw [hpow, hpeak]; rfl⟩
    · subst hpow hpeak
      rw [State.watched_both, State.collide_up, State.setUp_up]
      refine ⟨by simp [UpSub.capture, lateLock], rfl, rfl, rfl, fun hk => ?_, fun hen => ?_⟩
      · rw [State.collide_received _ _ _ _ hk, State.setUp_received]
      · exact State.collide_shows _ n b got hlt hen
    · rw [State.watched_alone s symbol got b hne]
      exact s.overlapped_shows n b f hlt
  case ends =>
    intro s n f foff power snr eq b h11 hl hb hlt
    have hexec := exec_burstEnd s foff power snr eq h11 hl hb
    obtain ⟨hup, hstore, hrec⟩ := s.burstEnded_shows n f foff power snr eq b
    refine ⟨_, hexec, exec_only_of_fits hexec (by simp only [footprint]; decide +kernel), by rw [hup], by rw [hup], hstore, hrec, fun hen => ?_⟩
    obtain ⟨hpow, hoff⟩ := s.burstEnded_record n f foff power snr eq b hlt hen
    exact ⟨hpow, fun hlo hhi => by rw [hoff, UpSub.endOffset_within hlo hhi, unsigned_toInt, Nat.mod_eq_of_lt foff.isLt]⟩
  case closes =>
    intro s n f w h11 hw hlt
    have hexec := exec_detectionWindowClose s h11 hw
    refine ⟨_, hexec, exec_only_of_fits hexec (by simp only [footprint]; decide +kernel), by rw [State.windowClosed_up]; rfl,
      by rw [State.windowClosed_up]; rfl, fun hk hc => ?_, fun hk hc hen => ?_, fun hk hc hen => ?_, fun hk hc hst h7 h2 => ?_⟩
    · rw [s.windowClosed_confirmed hk hc]
      rfl
    · rw [s.windowClosed_unanswered hk hc]
      exact State.unanswered_missed _ n w ⟨w.leaf, hlt⟩ rfl hen
    · rw [s.windowClosed_unanswered (by omega) hc]
      exact State.unanswered_granted (s := s.setUp n f (s.up n f).closed) (i := (⟨w.leaf, hlt⟩ : Leaf)) hk rfl hen
    · rw [s.windowClosed_unanswered (by omega) hc]
      exact State.unanswered_ranged (i := (⟨w.leaf, hlt⟩ : Leaf)) hk rfl hst h7 (by rw [State.setUp_leaf]; exact h2)
  case decoded =>
    intro s n i soft h12
    by_cases hnone : s.lineMode n ≠ 2 ∨ (s.bgt n).received.find? (fun b => b.leaf == i.val) = none
    · have hexec := exec_burstDecodeDone_none s soft h12 hnone
      refine ⟨_, hexec, exec_only_of_fits hexec (by simp only [footprint]; decide +kernel), fun _ => rfl, fun hm b hb => ?_⟩
      exact absurd hnone (by simp [hm, hb])
    · obtain ⟨hm, hsome⟩ := not_or.mp hnone
      obtain ⟨b, hb⟩ := Option.ne_none_iff_exists'.mp hsome
      have hexec := exec_burstDecodeDone_some s soft h12 (not_not.mp hm) hb
      refine ⟨_, hexec, exec_only_of_fits hexec (by simp only [footprint]; decide +kernel), fun h => absurd h hnone, fun _ b' hb' => ?_⟩
      obtain rfl : b = b' := Option.some.inj (hb.symm.trans hb')
      refine ⟨s.payloadDecoded_received n i soft b, fun hp hp' => ?_, fun hp h3 => ?_⟩
      · rw [s.payloadDecoded_unknown n i soft hp hp']
        have hshows := (s.burstTaken n b).profileUnknown_shows n i
        rw [s.burstTaken_leaf, s.burstTaken_clock] at hshows
        exact hshows
      · rw [s.payloadDecoded_known n i soft hp h3]
        exact State.decodeBlocks_shows (s.burstTaken n b) n b _

end Sys2Proof.Machine
end

section
/-! Cleat's decoder figures (R151, R155, R157 to R159, R161 to R163, R165): window shifts, NGMI measurements, short seconds, Lashing
codewords and the seconds of FEC-SD; and the obligation on them. The figures of an 800ZR line stand at slot 0 (log entry 10); a margin
outside its sixteen bits is shown as a free value (log entries 2 and 11). -/

namespace Sys2Proof.Machine

open Sys2Proof

variable (s : State)

/-! ### What Cleat holds and counts -/

@[simp] theorem State.setClt_clt (n : Nat) (x : CleatInt) : (s.setClt n x).clt n = x := by simp [State.clt]

@[simp] theorem State.wr_clt (f : Fld) (v i j k n : Nat) : (s.wr f v i j k).clt n = s.clt n := rfl

/-- The counters of Cleat, by number. -/
theorem State.rd_count_clet_lt (d : Nat) (n : Line) {j : Nat} (h : j < 7) :
    (s.count .CLET_CNT d n j).rd .CLET_CNT_COUNT n j = (s.rd .CLET_CNT_COUNT n j + d) % 2 ^ 48 :=
  s.rd_count_clet d n ⟨j, h⟩

theorem State.count_clet_kept (d n j : Nat) : s.kept (footOf [.CLET_CNT] []) (s.count .CLET_CNT d n j) :=
  State.count_kept _ _ _ _ _ _ (State.kept_refl _ s) rfl

/-- Without early stop every granted iteration runs (R155). -/
theorem iterate_all (tail : Bool) (l : List SoftBlock) (ok : List Nodes → Bool) :
    ∀ (k : Nat) (m : List Int), (iterate tail false l ok k m).2 = k
  | 0, _ => rfl
  | k + 1, _ => congrArg Nat.succ (iterate_all tail l ok k _)

/-! ### Window shifts on a native line (R155, R157) -/

theorem State.rd_decided (n slot : Nat) (b : SoftBlock) (d : Nodes) (ok bad : Bool) {j : Nat} (h : j ≠ 1) :
    (s.decided n slot b d ok bad).1.rd .CLET_CNT_COUNT n j = s.rd .CLET_CNT_COUNT n j := by
  unfold State.decided
  dsimp only
  split <;> simp only [State.rd_setClt, State.rd_count_clet_other _ _ _ h]

theorem State.decided_window (n slot : Nat) (b : SoftBlock) (d : Nodes) (ok bad : Bool) :
    ((s.decided n slot b d ok bad).1.clt n).window = (s.clt n).window := by
  unfold State.decided
  dsimp only
  split
  · rw [State.setClt_clt]; rfl
  · rfl

theorem State.rd_leaveWindow (n slot : Nat) (b : SoftBlock) (d : Nodes) (ok : Bool) {j : Nat} (h : j ≠ 1) :
    (s.leaveWindow n slot b d ok).rd .CLET_CNT_COUNT n j = s.rd .CLET_CNT_COUNT n j := by
  unfold State.leaveWindow State.showFlush
  dsimp only
  split <;> simp (disch := decide) only [State.rd_wr_apart, State.rd_setClt, State.rd_decided _ _ _ _ _ _ _ h]

/-- The block that leaves a window is its oldest. -/
theorem State.leaveWindow_window (n slot : Nat) (b : SoftBlock) (d : Nodes) (ok : Bool) :
    ((s.leaveWindow n slot b d ok).clt n).window.get [] slot = ((s.clt n).window.get [] slot).drop 1 := by
  unfold State.leaveWindow State.showFlush
  dsimp only
  split <;> simp only [State.wr_clt, State.setClt_clt, Tab.get_put_same, State.decided_window]

theorem State.dealTick_only (n : Nat) : s.kept (footOf [] [.cleat]) (s.dealTick n) := State.dealTick_kept _ _ (State.kept_refl _ s) rfl

theorem State.dealTick_window (n : Nat) : ((s.dealTick n).clt n).window = (s.clt n).window := by
  unfold State.dealTick
  dsimp only
  split
  · rfl
  · rw [State.setClt_clt]

/-- The labels of a block and the iterations run of those granted, counted. -/
def State.blockCounted (s : State) (n labels g r : Nat) : State :=
  ((s.count .CLET_CNT labels n 0).count .CLET_CNT r n 5).count .CLET_CNT (g - r) n 6

theorem State.blockCounted_shows (n : Line) (labels g r : Nat) :
    (s.blockCounted n labels g r).rd .CLET_CNT_COUNT n 0 = (s.rd .CLET_CNT_COUNT n 0 + labels) % 2 ^ 48 ∧
      (s.blockCounted n labels g r).rd .CLET_CNT_COUNT n 5 = (s.rd .CLET_CNT_COUNT n 5 + r) % 2 ^ 48 ∧
      (s.blockCounted n labels g r).rd .CLET_CNT_COUNT n 6 = (s.rd .CLET_CNT_COUNT n 6 + (g - r)) % 2 ^ 48 := by
  unfold State.blockCounted
  simp (disch := decide) only [State.rd_count_clet_lt, State.rd_count_clet_other, and_self]

/-- A subcarrier's window with the block that arrives. -/
def State.windowJoined (s : State) (n slot : Nat) (soft : List Int) : List SoftBlock :=
  (s.clt n).window.get [] slot ++ [s.softBlock n slot soft]

/-- The messages and the iterations run over that window. -/
def State.shiftIters (s : State) (n slot : Nat) (soft : List Int) : List Int × Nat :=
  let past := (s.clt n).past.get ({}, {}) slot
  iterate false (s.on .CLET_LINE_CFG_EARLY_EN n) (s.windowJoined n slot soft) (windowHolds past.1 past.2)
    (s.rd .CLET_SC_STAT_GRANT n slot) ((s.clt n).msgs.get [] slot)

/-- The block counted and in its window. -/
def State.blockJoined (s : State) (n slot : Nat) (soft : List Int) : State :=
  let p := s.decPair n slot
  let g := s.rd .CLET_SC_STAT_GRANT n slot
  let r := s.shiftIters n slot soft
  let x := s.clt n
  let k := x.shifts.get (0, 0) slot
  (s.blockCounted n (labelCount p.1 p.2) g r.2).setClt n { x with
    window := x.window.put [] slot (s.windowJoined n slot soft), msgs := x.msgs.put [] slot r.1,
    rxJ := x.rxJ.put 0 slot ((x.rxJ.get 0 slot + 1) % (1792 * (s.blockCounted n (labelCount p.1 p.2) g r.2).decWidth n slot)),
    shifts := x.shifts.put (0, 0) slot (k.1 + 1, k.2 + b2n (decide (r.2 < g))) }

theorem State.blockJoined_only (n slot : Nat) (soft : List Int) : s.kept (footOf [.CLET_CNT] [.cleat]) (s.blockJoined n slot soft) := by
  unfold State.blockJoined State.blockCounted
  exact State.setClt_kept _ _ _ (State.count_kept _ _ _ _ _ _ (State.count_kept _ _ _ _ _ _ (State.count_kept _ _ _ _ _ _
    (State.kept_refl _ s) rfl) rfl) rfl) rfl

theorem State.shiftNative_eq (n slot : Nat) (soft : List Int) : ∃ b d ok, s.shiftNative n slot soft =
    if s.rd .CLET_LINE_CFG_WIN n ≤ (s.windowJoined n slot soft).length then
      ((s.blockJoined n slot soft).leaveWindow n slot b d ok).dealTick n
    else s.blockJoined n slot soft := by
  rw [← State.kept_rd (s.blockJoined_only n slot soft) .CLET_LINE_CFG_WIN rfl]
  exact ⟨_, _, _, rfl⟩

theorem State.blockJoined_window (n slot : Nat) (soft : List Int) :
    ((s.blockJoined n slot soft).clt n).window.get [] slot = s.windowJoined n slot soft := by
  unfold State.blockJoined
  dsimp only
  rw [State.setClt_clt, Tab.get_put_same]

theorem State.rd_shiftNative (n slot : Nat) (soft : List Int) {j : Nat} (h : j ≠ 1) :
    (s.shiftNative n slot soft).rd .CLET_CNT_COUNT n j = (s.blockJoined n slot soft).rd .CLET_CNT_COUNT n j := by
  obtain ⟨b, d, ok, heq⟩ := s.shiftNative_eq n slot soft
  rw [heq]
  split
  · rw [State.kept_rd (State.dealTick_only _ n) _ rfl, State.rd_leaveWindow _ _ _ _ _ _ h]
  · rfl

theorem State.shiftNative_window (n slot : Nat) (soft : List Int) : ((s.shiftNative n slot soft).clt n).window.get [] slot =
    if s.rd .CLET_LINE_CFG_WIN n ≤ (s.windowJoined n slot soft).length then (s.windowJoined n slot soft).drop 1
    else s.windowJoined n slot soft := by
  obtain ⟨b, d, ok, heq⟩ := s.shiftNative_eq n slot soft
  rw [heq]
  split
  · rw [State.dealTick_window, State.leaveWindow_window, State.blockJoined_window]
  · exact s.blockJoined_window n slot soft

theorem State.rd_blockJoined (n slot : Nat) (soft : List Int) (j : Nat) : (s.blockJoined n slot soft).rd .CLET_CNT_COUNT n j =
    (s.blockCounted n (labelCount (s.decPair n slot).1 (s.decPair n slot).2) (s.rd .CLET_SC_STAT_GRANT n slot)
      (s.shiftIters n slot soft).2).rd .CLET_CNT_COUNT n j := by
  unfold State.blockJoined
  rw [State.rd_setClt]

/-- The counters of a block that arrives, and how many iterations they count. -/
theorem State.shiftNative_shows (n : Line) (slot : Nat) (soft : List Int) : ∃ r ≤ s.rd .CLET_SC_STAT_GRANT n slot,
    (s.on .CLET_LINE_CFG_EARLY_EN n = false → r = s.rd .CLET_SC_STAT_GRANT n slot) ∧
    (s.shiftNative n slot soft).rd .CLET_CNT_COUNT n 0 =
      (s.rd .CLET_CNT_COUNT n 0 + labelCount (s.decPair n slot).1 (s.decPair n slot).2) % 2 ^ 48 ∧
    (s.shiftNative n slot soft).rd .CLET_CNT_COUNT n 5 = (s.rd .CLET_CNT_COUNT n 5 + r) % 2 ^ 48 ∧
    (s.shiftNative n slot soft).rd .CLET_CNT_COUNT n 6 =
      (s.rd .CLET_CNT_COUNT n 6 + (s.rd .CLET_SC_STAT_GRANT n slot - r)) % 2 ^ 48 := by
  refine ⟨(s.shiftIters n slot soft).2, iterate_le _ _ _ _ _ _, fun hearly => ?_, ?_⟩
  · unfold State.shiftIters
    rw [hearly]
    exact iterate_all _ _ _ _ _
  · simp (disch := decide) only [State.rd_shiftNative, State.rd_blockJoined]
    exact s.blockCounted_shows n _ _ _

/-! ### Window shifts in 800ZR framing (R165) -/

theorem State.shiftOzr_shows (n : Line) (soft : List Int) :
    (s.shiftOzr n soft).rd .CLET_CNT_COUNT n 0 = (s.rd .CLET_CNT_COUNT n 0 + soft.length) % 2 ^ 48 ∧
      (s.shiftOzr n soft).rd .CLET_CNT_COUNT n 5 = (s.rd .CLET_CNT_COUNT n 5 + s.rd .CLET_LINE_CFG_OZR_ITER n) % 2 ^ 48 := by
  unfold State.shiftOzr
  simp (disch := decide) only [State.rd_setClt, State.rd_wr_apart, State.rd_count_clet_lt, State.rd_count_clet_other, and_self]

/-- What a window shift leads to, by the line's framing. -/
theorem exec_windowShift {n : Line} {f : Slot} (soft : List Int) (h12 : s.alive 12 = true) :
    exec (.windowShift n f soft) s = .next (
      if (s.decSlots n).contains f.val = false ∨ s.lineMode n = 2 then s
      else if s.lineOzr n then s.shiftOzr n soft else s.shiftNative n f soft) := by
  change execWindowShift n f soft s = _
  unfold execWindowShift
  rw [act_next s 12 _ h12]
  simp only [Bool.or_eq_true, Bool.not_eq_true', beq_iff_eq]

/-! ### The measurement of a subcarrier (R158, R159) -/

theorem State.lt_of_mem_decSlots {n f : Nat} (h : f ∈ s.decSlots n) : f < 32 := by
  unfold State.decSlots at h
  split at h
  · cases h
  split at h
  · rw [List.mem_singleton.mp h]; decide
  split at h
  · exact s.lt_of_mem_firstSlots h
  · exact s.lt_of_mem_firstSlots h

theorem State.ngmiOf_lt (n f : Nat) : s.ngmiOf n f < 65536 := by
  unfold State.ngmiOf
  split
  · decide
  · omega

theorem State.ngmiOf_nil {n f : Nat} (h : (s.clt n).ngmi.get [] f = []) : s.ngmiOf n f = 0 := by
  unfold State.ngmiOf; rw [h]

theorem State.demandOf_lt (n f ngmi : Nat) : s.demandOf n f ngmi < 32 := by
  unfold State.demandOf
  split
  · decide
  split
  · next i hi =>
    have hmem := List.mem_of_find?_eq_some hi
    simp only [List.mem_cons, List.not_mem_nil, or_false] at hmem
    omega
  · decide

theorem unsigned_lt (m : Int) : unsigned 16 m < 2 ^ 16 := by
  unfold unsigned; omega

/-- What the measurement of a subcarrier changes. -/
def measureFoot : Nat := footOf [.CLET_SC_STAT] [.drawn]

section
variable {s} {t : State} (h : s.kept measureFoot t)
include h

theorem State.kept_decPair (n slot : Nat) : t.decPair n slot = s.decPair n slot := by
  unfold State.decPair
  rw [State.kept_lineMode h rfl, State.kept_bgt h rfl, State.kept_spl h rfl]

theorem State.kept_threshold (n slot i : Nat) : t.threshold n slot i = s.threshold n slot i := by
  unfold State.threshold State.decParity
  rw [State.kept_decPair h, State.kept_lineOzr h rfl, State.kept_lineMode h rfl, State.kept_rd h _ rfl, State.kept_clt h rfl]

theorem State.kept_marginOf (n slot ngmi i : Nat) : t.marginOf n slot ngmi i = s.marginOf n slot ngmi i := by
  unfold State.marginOf; rw [State.kept_threshold h]

theorem State.kept_suffices (n slot ngmi i : Nat) : t.suffices n slot ngmi i = s.suffices n slot ngmi i := by
  unfold State.suffices State.scCfg
  rw [State.kept_threshold h, State.kept_clt h rfl, State.kept_rd h _ rfl]

theorem State.kept_demandOf (n slot ngmi : Nat) : t.demandOf n slot ngmi = s.demandOf n slot ngmi := by
  unfold State.demandOf
  simp only [State.kept_suffices h, State.kept_lineOzr h rfl]

theorem State.kept_iterNow {n slot : Nat} (hg : t.rd .CLET_SC_STAT_GRANT n slot = s.rd .CLET_SC_STAT_GRANT n slot) :
    t.iterNow n slot = s.iterNow n slot := by
  unfold State.iterNow
  rw [hg, State.kept_lineOzr h rfl, State.kept_rd h .CLET_LINE_CFG_OZR_ITER rfl]

end

/-- A free value drawn for a margin changes no register. -/
theorem State.reg_marginCode (m : Int) (id : RegId) (i j k : Nat) : (s.marginCode m).1.reg id i j k = s.reg id i j k := by
  unfold State.marginCode
  split <;> rfl

theorem State.marginCode_within {m : Int} (hlo : -32768 ≤ m) (hhi : m ≤ 32767) : s.marginCode m = (s, unsigned 16 m) :=
  if_pos ⟨hlo, hhi⟩

/-- NGMI, DEMAND and EARLY of a subcarrier. -/
def State.figuresShown (s : State) (n slot ngmi : Nat) : State :=
  let k := (s.clt n).shifts.get (0, 0) slot
  ((s.wr .CLET_SC_STAT_NGMI ngmi n slot).wr .CLET_SC_STAT_DEMAND (s.demandOf n slot ngmi) n slot).wr .CLET_SC_STAT_EARLY
    (if k.1 = 0 then 0 else 100 * k.2 / k.1) n slot

/-- The code of its margin, once they are shown. -/
def State.marginShown (s : State) (n slot ngmi : Nat) : State × Nat :=
  let u := s.figuresShown n slot ngmi
  u.marginCode (u.marginOf n slot ngmi (u.iterNow n slot))

theorem State.measure_eq (n slot ngmi : Nat) : s.measure n slot ngmi =
    (s.marginShown n slot ngmi).1.wr .CLET_SC_STAT_MARGIN (s.marginShown n slot ngmi).2 n slot := rfl

theorem State.rd_figuresShown_grant (n slot ngmi a b : Nat) :
    (s.figuresShown n slot ngmi).rd .CLET_SC_STAT_GRANT a b = s.rd .CLET_SC_STAT_GRANT a b := by
  unfold State.figuresShown
  simp (disch := decide) only [State.rd_wr_apart]

theorem State.figuresShown_shows (n : Line) (f : Slot) {v : Nat} (h : v < 65536) :
    (s.figuresShown n f v).rd .CLET_SC_STAT_NGMI n f = v ∧ (s.figuresShown n f v).rd .CLET_SC_STAT_DEMAND n f = s.demandOf n f v := by
  unfold State.figuresShown
  simp (disch := decide) only [State.rd_wr_apart, State.rd_wr_two]
  exact ⟨Nat.mod_eq_of_lt h, Nat.mod_eq_of_lt (s.demandOf_lt n f v)⟩

theorem State.figuresShown_only (n slot ngmi : Nat) {t : State} (h : s.kept measureFoot t) :
    s.kept measureFoot (t.figuresShown n slot ngmi) :=
  State.wr_kept _ _ _ _ _ _ (State.wr_kept _ _ _ _ _ _ (State.wr_kept _ _ _ _ _ _ h rfl) rfl) rfl

theorem State.rd_measure {f : Fld} (n slot ngmi a b : Nat) (h : Fld.apart .CLET_SC_STAT_MARGIN f = true) :
    (s.measure n slot ngmi).rd f a b = (s.figuresShown n slot ngmi).rd f a b := by
  rw [State.measure_eq, State.rd_wr_apart _ _ _ _ _ _ _ _ h]
  exact congrArg (bits · f.hi f.lo) (State.reg_marginCode _ _ f.id a b 0)

/-- The measurement of a subcarrier leaves the registers of the others. -/
theorem State.reg_measure_other (n slot ngmi : Nat) {f : Nat} (h : f ≠ slot) :
    (s.measure n slot ngmi).reg .CLET_SC_STAT n f = s.reg .CLET_SC_STAT n f := by
  rw [State.measure_eq, State.reg_wr_other _ _ _ _ _ _ _ _ _ _ fun e => h e.2.2.1]
  unfold State.marginShown
  rw [State.reg_marginCode]
  unfold State.figuresShown
  dsimp only
  simp only [State.reg_wr_other _ _ _ _ _ _ _ _ _ _ fun e => h e.2.2.1]

/-- A subcarrier's registers show its measurement, taken in an earlier state. -/
def State.measuredIn (t s : State) (n f : Nat) : Prop :=
  t.rd .CLET_SC_STAT_NGMI n f = s.ngmiOf n f ∧ t.rd .CLET_SC_STAT_DEMAND n f = s.demandOf n f (s.ngmiOf n f) ∧
    t.rd .CLET_SC_STAT_GRANT n f = s.rd .CLET_SC_STAT_GRANT n f ∧
    (-32768 ≤ s.marginOf n f (s.ngmiOf n f) (s.iterNow n f) → s.marginOf n f (s.ngmiOf n f) (s.iterNow n f) ≤ 32767 →
      t.rd .CLET_SC_STAT_MARGIN n f = unsigned 16 (s.marginOf n f (s.ngmiOf n f) (s.iterNow n f)))

theorem State.measuredIn.of_reg {t u s : State} {n f : Nat} (h : t.measuredIn s n f)
    (hr : u.reg .CLET_SC_STAT n f = t.reg .CLET_SC_STAT n f) : u.measuredIn s n f := by
  unfold State.measuredIn State.rd at *
  rwa [hr]

/-- A measurement shows the figures of the state in which the multiframe's measurements began. -/
theorem State.measure_measuredIn {t : State} (n : Line) (f : Slot) (h : s.kept measureFoot t)
    (hg : t.rd .CLET_SC_STAT_GRANT n f = s.rd .CLET_SC_STAT_GRANT n f) : (t.measure n f (s.ngmiOf n f)).measuredIn s n f := by
  have hgrant : (t.figuresShown n f (s.ngmiOf n f)).rd .CLET_SC_STAT_GRANT n f = s.rd .CLET_SC_STAT_GRANT n f :=
    (t.rd_figuresShown_grant _ _ _ _ _).trans hg
  have hkept := s.figuresShown_only n f (s.ngmiOf n f) h
  obtain ⟨hngmi, hdemand⟩ := t.figuresShown_shows n f (s.ngmiOf_lt n f)
  refine ⟨?_, ?_, ?_, fun hlo hhi => ?_⟩
  · rw [State.rd_measure _ _ _ _ _ _ (by decide), hngmi]
  · rw [State.rd_measure _ _ _ _ _ _ (by decide), hdemand, State.kept_demandOf h]
  · rw [State.rd_measure _ _ _ _ _ _ (by decide), hgrant]
  · rw [State.measure_eq, State.rd_wr_two _ _ _ _ (by decide)]
    unfold State.marginShown
    dsimp only
    rw [State.kept_marginOf hkept, State.kept_iterNow hkept hgrant, State.marginCode_within _ hlo hhi]
    exact Nat.mod_eq_of_lt (unsigned_lt _)

/-! ### NGMI_MEASURE (R158, R159) -/

/-- Every subcarrier measured. -/
def State.allMeasured (s : State) (n : Nat) : State := s.each (s.decSlots n) fun f t => t.measure n f (s.ngmiOf n f)

/-- MIN_MARGIN and SHORT over some subcarriers, and what the second has shown against SD_SET and SD_CLR. -/
def State.summarised (s : State) (n : Nat) (slots : List Nat) : State :=
  let low := (leastInt (slots.map fun f => s.marginOf n f (s.ngmiOf n f) (s.iterNow n f))).getD 0
  let p := s.marginCode low
  let s := (p.1.wr .CLET_STAT_MIN_MARGIN p.2 n).wr .CLET_STAT_SHORT
    (slots.filter fun f => p.1.rd .CLET_SC_STAT_GRANT n f < p.1.rd .CLET_SC_STAT_DEMAND n f).length n
  let set := s.sdCfg n .CLET_SD_CFG_SD_SET
  let clr := max set (s.sdCfg n .CLET_SD_CFG_SD_CLR)
  let x := s.clt n
  s.setClt n { x with shifts := [], ngmi := [], below := x.below || low < set, unclear := x.unclear || low < clr }

/-- A multiframe without a record passes on a line out of frame (R275). -/
def State.framePassed (s : State) (n : Nat) : State := if s.on .HTCH_STAT_IN_FRAME n then s else s.bendFrame n 0 []

theorem exec_ngmiMeasure {n : Line} (h12 : s.alive 12 = true) : exec (.ngmiMeasure n) s = .next (
    if s.decSlots n = [] then s else ((s.allMeasured n).summarised n (s.decSlots n)).framePassed n) := by
  change execNgmiMeasure n s = _
  unfold execNgmiMeasure
  rw [act_next s 12 _ h12]
  simp only [List.isEmpty_iff]
  rfl

theorem State.allMeasured_measuredIn (n : Line) {f : Nat} (hf : f ∈ s.decSlots n) : (s.allMeasured n).measuredIn s n f := by
  refine s.each_sets (fun t => s.kept measureFoot t ∧ t.rd .CLET_SC_STAT_GRANT n f = s.rd .CLET_SC_STAT_GRANT n f)
    (fun t => t.measuredIn s n f) hf ⟨State.kept_refl _ s, rfl⟩ (fun i _ t h => ?_) (fun t h => ?_) fun i _ hi t h => ?_
  · obtain ⟨hk, hg⟩ := h
    exact ⟨State.measure_kept _ _ _ _ hk rfl, by rw [State.rd_measure _ _ _ _ _ _ (by decide), State.rd_figuresShown_grant, hg]⟩
  · exact s.measure_measuredIn n ⟨f, s.lt_of_mem_decSlots hf⟩ h.1 h.2
  · exact h.of_reg (State.reg_measure_other _ _ _ _ (Ne.symm hi))

theorem State.reg_summarised (n : Nat) (slots : List Nat) (a b : Nat) :
    (s.summarised n slots).reg .CLET_SC_STAT a b = s.reg .CLET_SC_STAT a b := by
  unfold State.summarised
  dsimp only
  rw [State.reg_setClt, State.reg_wr_other _ _ _ _ _ _ _ _ _ _ (by simp), State.reg_wr_other _ _ _ _ _ _ _ _ _ _ (by simp),
    State.reg_marginCode]

/-- A measurement begins the next multiframe's anew. -/
theorem State.summarised_clt (n : Nat) (slots : List Nat) :
    ((s.summarised n slots).clt n).shifts = [] ∧ ((s.summarised n slots).clt n).ngmi = [] := by
  unfold State.summarised
  dsimp only
  rw [State.setClt_clt]
  exact ⟨rfl, rfl⟩

theorem State.framePassed_only (n : Nat) :
    s.kept (eventFoot [.BEND_EVT, .BEND_PG_STAT, .BEND_PATH_ST] [.groups]) (s.framePassed n) := by
  unfold State.framePassed
  split
  · exact State.kept_refl _ s
  · exact State.bendFrame_kept _ _ _ _ (State.kept_refl _ s) rfl

/-! ### Codewords (R151, R162, R165) -/

theorem State.lashing_native {n : Nat} (c : Nat) (h : s.lineOzr n = false) :
    s.lashing n (some c) = (s.count .CLET_CNT 1 n 2).count .CLET_CNT c n 3 :=
  if_neg (by rw [State.kept_lineOzr (s.count_clet_kept 1 n 2) rfl, h]; decide)

theorem State.lashing_ozr {n : Nat} (c : Nat) (h : s.lineOzr n = true) : s.lashing n (some c) = s.count .CLET_CNT 1 n 2 :=
  if_pos (by rw [State.kept_lineOzr (s.count_clet_kept 1 n 2) rfl, h])

/-- An uncorrectable codeword is counted, and reported once in a second. -/
theorem State.lashing_none_shows (n : Line) :
    (s.lashing n none).rd .CLET_CNT_COUNT n 2 = (s.rd .CLET_CNT_COUNT n 2 + 1) % 2 ^ 48 ∧
      (s.lashing n none).rd .CLET_CNT_COUNT n 3 = s.rd .CLET_CNT_COUNT n 3 ∧
      (s.lashing n none).rd .CLET_CNT_COUNT n 4 = (s.rd .CLET_CNT_COUNT n 4 + 1) % 2 ^ 48 ∧
      (s.lashing n none).clt n = { s.clt n with uncSaid := true } ∧
      ((s.clt n).uncSaid = false → (s.lashing n none).on .CLET_EVT_UNCORR n = true) := by
  unfold State.lashing
  dsimp only
  split
  · next hsaid =>
    have hsaid : (s.clt n).uncSaid = true := hsaid
    refine ⟨?_, ?_, ?_, ?_, fun h => absurd h (by rw [hsaid]; decide)⟩
    · simp (disch := decide) only [State.rd_count_clet_lt, State.rd_count_clet_other]
    · simp (disch := decide) only [State.rd_count_clet_other]
    · simp (disch := decide) only [State.rd_count_clet_lt, State.rd_count_clet_other]
    · rw [← hsaid]; rfl
  · have hraise (t : State) (dom j : Nat) :
        (t.raise .CLET_EVT_UNCORR 0x6003 dom [] false n).rd .CLET_CNT_COUNT n j = t.rd .CLET_CNT_COUNT n j :=
      t.rd_raise_apart _ _ _ _ _ _ _ _ (by decide) (by decide)
    refine ⟨?_, ?_, ?_, ?_, fun _ => State.on_raise_one _ _ _ _ _ n (by decide) rfl (by decide)⟩
    · simp (disch := decide) only [hraise, State.rd_setClt, State.rd_count_clet_lt, State.rd_count_clet_other]
    · simp (disch := decide) only [hraise, State.rd_setClt, State.rd_count_clet_other]
    · simp (disch := decide) only [hraise, State.rd_setClt, State.rd_count_clet_lt, State.rd_count_clet_other]
    · rw [State.clt, State.raise_cleat, ← State.clt, State.setClt_clt]; rfl

/-- Every codeword is counted; in 800ZR framing no corrected bits are. -/
theorem State.lashing_ozr_shows (n : Line) (corrected : Option Nat) (h : s.lineOzr n = true) :
    (s.lashing n corrected).rd .CLET_CNT_COUNT n 2 = (s.rd .CLET_CNT_COUNT n 2 + 1) % 2 ^ 48 ∧
      (s.lashing n corrected).rd .CLET_CNT_COUNT n 3 = s.rd .CLET_CNT_COUNT n 3 := by
  cases corrected with
  | some c =>
    rw [s.lashing_ozr c h]
    exact ⟨s.rd_count_clet_lt 1 n (by decide), s.rd_count_clet_other 1 n (by decide)⟩
  | none =>
    obtain ⟨h2, h3, -⟩ := s.lashing_none_shows n
    exact ⟨h2, h3⟩

@[simp] theorem State.rd_toHitch (f : Fld) (n : Nat) (l : List RxBit) (a b c : Nat) : (s.toHitch n l).rd f a b c = s.rd f a b c := rfl

@[simp] theorem State.toHitch_clt (n : Nat) (l : List RxBit) (m : Nat) : (s.toHitch n l).clt m = s.clt m := rfl

theorem State.toHitch_rxBits (n : Nat) (l : List RxBit) : ((s.toHitch n l).hit n).rxBits = (s.hit n).rxBits ++ l := by
  simp [State.toHitch, State.hit]

theorem State.lashing_hit (n : Nat) (corrected : Option Nat) : (s.lashing n corrected).hit n = s.hit n := by
  obtain ⟨-, -, hhitch⟩ := s.lashing_itersAlike (n := n) corrected
  rw [State.hit, hhitch, State.hit]

theorem State.takeWord63_corrected (n : Nat) {w : List RxBit} {v : List Bool} {c : Nat}
    (h : lashingCorrect (w.map fun b => b.1) = some (v, c)) :
    s.takeWord63 n w = (s.lashing n (some c)).toHitch n ((v.zip (w.map fun b => b.2)).take (w.length - 60)) := by
  unfold State.takeWord63; rw [h]

theorem State.takeWord63_uncorrectable (n : Nat) {w : List RxBit} (h : lashingCorrect (w.map fun b => b.1) = none) :
    s.takeWord63 n w = (s.lashing n none).toHitch n ((w.take (w.length - 60)).map fun b => (b.1, true)) := by
  unfold State.takeWord63; rw [h]

/-- A codeword that is corrected: the bits corrected are counted, and its information bits go to Hitch. -/
theorem State.takeWord63_corrected_shows (n : Line) {w : List RxBit} {v : List Bool} {c : Nat} (hz : s.lineOzr n = false)
    (h : lashingCorrect (w.map fun b => b.1) = some (v, c)) :
    (s.takeWord63 n w).clt n = s.clt n ∧
      (s.takeWord63 n w).rd .CLET_CNT_COUNT n 2 = (s.rd .CLET_CNT_COUNT n 2 + 1) % 2 ^ 48 ∧
      (s.takeWord63 n w).rd .CLET_CNT_COUNT n 3 = (s.rd .CLET_CNT_COUNT n 3 + c) % 2 ^ 48 ∧
      ((s.takeWord63 n w).hit n).rxBits = (s.hit n).rxBits ++ (v.zip (w.map fun b => b.2)).take (w.length - 60) := by
  rw [s.takeWord63_corrected n h]
  refine ⟨?_, ?_, ?_, by rw [State.toHitch_rxBits, State.lashing_hit]⟩
  · rw [State.toHitch_clt, s.lashing_native c hz]; rfl
  · simp (disch := decide) only [State.rd_toHitch, s.lashing_native c hz, State.rd_count_clet_lt, State.rd_count_clet_other]
  · simp (disch := decide) only [State.rd_toHitch, s.lashing_native c hz, State.rd_count_clet_lt, State.rd_count_clet_other]

/-- One that is not: its information bits go to Hitch as received, marked errored. -/
theorem State.takeWord63_uncorrectable_shows (n : Line) {w : List RxBit} (h : lashingCorrect (w.map fun b => b.1) = none) :
    (s.takeWord63 n w).clt n = { s.clt n with uncSaid := true } ∧
      (s.takeWord63 n w).rd .CLET_CNT_COUNT n 2 = (s.rd .CLET_CNT_COUNT n 2 + 1) % 2 ^ 48 ∧
      (s.takeWord63 n w).rd .CLET_CNT_COUNT n 4 = (s.rd .CLET_CNT_COUNT n 4 + 1) % 2 ^ 48 ∧
      ((s.clt n).uncSaid = false → (s.takeWord63 n w).on .CLET_EVT_UNCORR n = true) ∧
      ((s.takeWord63 n w).hit n).rxBits = (s.hit n).rxBits ++ (w.take (w.length - 60)).map fun b => (b.1, true) := by
  obtain ⟨h2, -, h4, hclt, hevt⟩ := s.lashing_none_shows n
  rw [s.takeWord63_uncorrectable n h]
  exact ⟨hclt, h2, h4, hevt, by rw [State.toHitch_rxBits, State.lashing_hit]⟩

/-- The coded bits that wait on a line, replaced. -/
def State.setCoded (s : State) (n : Nat) (l : List (List RxBit)) : State := s.setClt n { s.clt n with rxCoded := l }

theorem State.setCoded_clt (n : Nat) (l : List (List RxBit)) : (s.setCoded n l).clt n = { s.clt n with rxCoded := l } :=
  State.setClt_clt _ _ _

/-- A native line's next codeword, decoded where it has come in whole. -/
def State.nextDecoded (s : State) (n : Nat) : State :=
  match nextWord (s.clt n).rxCoded with
  | some (w, rest) => (s.setCoded n rest).takeWord63 n w
  | none => s

theorem State.nextDecoded_some {n : Nat} {w : List RxBit} {rest : List (List RxBit)}
    (h : nextWord (s.clt n).rxCoded = some (w, rest)) :
    s.nextDecoded n = (s.setCoded n rest).takeWord63 n w := by
  unfold State.nextDecoded; rw [h]

theorem State.nextDecoded_none {n : Nat} (h : nextWord (s.clt n).rxCoded = none) : s.nextDecoded n = s := by
  unfold State.nextDecoded; rw [h]

/-- In 800ZR framing, the next oFEC block. -/
def State.nextOfec (s : State) (n : Nat) : State :=
  let l := (s.clt n).rxCoded.flatten
  if l.length < Config.ofecBlock || l.isEmpty then s
  else
    let w := l.take Config.ofecBlock
    let s := s.setCoded n [l.drop Config.ofecBlock]
    match Config.ofecDecode (w.map fun b => b.1) with
    | some (v, c) => (s.lashing n (some c)).toHitch n (v.map fun b => (b, false))
    | none => (s.lashing n none).toHitch n (w.map fun b => (b.1, true))

theorem State.nextOfec_shows (n : Line) (hz : s.lineOzr n = true) (hne : (s.clt n).rxCoded.flatten ≠ [])
    (hlen : Config.ofecBlock ≤ (s.clt n).rxCoded.flatten.length) :
    (s.nextOfec n).rd .CLET_CNT_COUNT n 2 = (s.rd .CLET_CNT_COUNT n 2 + 1) % 2 ^ 48 ∧
      (s.nextOfec n).rd .CLET_CNT_COUNT n 3 = s.rd .CLET_CNT_COUNT n 3 := by
  unfold State.nextOfec
  dsimp only
  rw [if_neg (by
    rw [Bool.or_eq_true, decide_eq_true_eq, List.isEmpty_iff]
    exact not_or.mpr ⟨Nat.not_lt.mpr hlen, hne⟩)]
  split
  · exact State.lashing_ozr_shows _ n _ hz
  · exact State.lashing_ozr_shows _ n _ hz

theorem exec_lashingCodeword {n : Line} (h12 : s.alive 12 = true) : exec (.lashingCodeword n) s = .next (
    if s.lineMode n = 0 then s else if s.lineOzr n then s.nextOfec n else s.nextDecoded n) := by
  change execLashingCodeword n s = _
  unfold execLashingCodeword
  rw [act_next s 12 _ h12]
  rfl

theorem State.lineNative_iff {n : Nat} : s.lineNative n = true ↔ s.lineMode n ≠ 0 ∧ s.lineOzr n = false := by
  simp [State.lineNative]

/-! ### Seconds (R161, R163) -/

theorem exec_shortSecond {n : Line} {f : Slot} (h12 : s.alive 12 = true) (hf : (s.decSlots n).contains f.val = true) :
    exec (.shortSecond n f) s = .next (if s.rd .CLET_SC_STAT_GRANT n f < s.rd .CLET_SC_STAT_DEMAND n f then
      s.raise .CLET_EVT_STARVED 0x6004 (s.slotDom n f) [] false n else s) := by
  change execShortSecond n f s = _
  unfold execShortSecond
  rw [act_next s 12 _ h12]
  simp only [hf, Bool.true_and, decide_eq_true_eq]

/-- The seconds in a row below SD_SET, with the one that ends. -/
def State.lowRun (s : State) (n : Nat) : Nat := if (s.clt n).below then (s.clt n).lowSeconds + 1 else 0

/-- Those above SD_CLR. -/
def State.highRun (s : State) (n : Nat) : Nat := if (s.clt n).unclear then 0 else (s.clt n).highSeconds + 1

/-- A second that ends, counted. -/
def State.secondCounted (s : State) (n : Nat) : State :=
  s.setClt n { s.clt n with below := false, unclear := false, lowSeconds := min 15 (s.lowRun n), highSeconds := min 15 (s.highRun n) }

/-- What its end brings (R163). -/
def State.sdJudged (s : State) (n : Nat) : State :=
  let need := s.sdCfg n .CLET_SD_CFG_SD_SECS
  if s.on .CLET_STAT_FEC_SD n then (if need ≤ s.highRun n then (s.secondCounted n).setSd n false else s.secondCounted n)
  else if need ≤ s.lowRun n then (s.secondCounted n).setSd n true
  else s.secondCounted n

theorem exec_fecSdSecond {n : Line} (h12 : s.alive 12 = true) (hm : s.lineMode n ≠ 0) :
    exec (.fecSdSecond n) s = .next (s.sdJudged n) := by
  change execFecSdSecond n s = _
  unfold execFecSdSecond
  rw [act_next s 12 _ h12]
  dsimp only
  rw [if_neg hm]
  rfl

theorem State.secondCounted_clt (n : Nat) : (s.secondCounted n).clt n =
    { s.clt n with below := false, unclear := false, lowSeconds := min 15 (s.lowRun n), highSeconds := min 15 (s.highRun n) } :=
  State.setClt_clt _ _ _

/-- What the settling of a line's defects can change (R189, R190). -/
theorem State.settleDefects_only (n : Nat) : s.kept
    (eventFoot [.TOP_FAULT, .HTCH_DEF, .HTCH_DEF_STK, .HTCH_EVT, .SEIZ_KC_ST, .BEND_EVT, .BEND_PG_STAT, .BEND_PATH_ST, .SHET_CLI_STAT,
      .SHET_CLI_EVT, .SHET_CNT] [.boot, .clients, .groups, .kcs, .hitch]) (s.settleDefects n) :=
  State.settleDefects_kept _ _ (State.kept_refl _ s) rfl

/-- FEC-SD taken over by Hitch and what follows change nothing that Cleat holds. -/
theorem State.setSd_clt (n m : Nat) (v : Bool) : (s.setSd n v).clt m = s.clt m := by
  unfold State.setSd
  dsimp only
  rw [State.kept_clt (State.settleDefects_only _ n) rfl]
  cases v <;> simp [State.clt]

theorem State.setSd_sd (n : Line) (v : Bool) : (s.setSd n v).on .CLET_STAT_FEC_SD n = v := by
  have hwr : (s.wr .CLET_STAT_FEC_SD (b2n v) n).on .CLET_STAT_FEC_SD n = v := by
    rw [State.on, State.rd_wr_one _ _ _ (by decide)]
    cases v <;> rfl
  unfold State.setSd
  dsimp only
  rw [State.kept_on (State.settleDefects_only _ n) _ rfl]
  cases v <;> exact (congrArg (· != 0) (State.rd_raise_apart _ _ _ _ _ _ _ _ _ (by decide) (by decide))).trans hwr

theorem State.setSd_reports (n : Line) (v : Bool) :
    (s.setSd n v).on (if v then .CLET_EVT_SD_SET else .CLET_EVT_SD_CLEAR) n = true := by
  unfold State.setSd
  dsimp only
  cases v <;> exact (State.kept_on (State.settleDefects_only _ n) _ rfl _ _ _).trans
    (State.on_raise_one _ _ _ _ _ n (by decide) rfl (by decide))

theorem State.lowRun_below {n : Nat} (h : (s.clt n).below = true) : s.lowRun n = (s.clt n).lowSeconds + 1 := if_pos h

theorem State.highRun_clear {n : Nat} (h : (s.clt n).unclear = false) : s.highRun n = (s.clt n).highSeconds + 1 :=
  if_neg (by rw [h]; decide)

theorem State.sdJudged_sets {n : Nat} (h : s.on .CLET_STAT_FEC_SD n = false) (hneed : s.sdCfg n .CLET_SD_CFG_SD_SECS ≤ s.lowRun n) :
    s.sdJudged n = (s.secondCounted n).setSd n true := by
  rw [State.sdJudged, if_neg (by rw [h]; decide), if_pos hneed]

theorem State.sdJudged_waits {n : Nat} (h : s.on .CLET_STAT_FEC_SD n = false) (hneed : s.lowRun n < s.sdCfg n .CLET_SD_CFG_SD_SECS) :
    s.sdJudged n = s.secondCounted n := by
  rw [State.sdJudged, if_neg (by rw [h]; decide), if_neg (Nat.not_le.mpr hneed)]

theorem State.sdJudged_clears {n : Nat} (h : s.on .CLET_STAT_FEC_SD n = true) (hneed : s.sdCfg n .CLET_SD_CFG_SD_SECS ≤ s.highRun n) :
    s.sdJudged n = (s.secondCounted n).setSd n false := by
  rw [State.sdJudged, if_pos h, if_pos hneed]

/-- Whatever the end of a second brings, the next begins anew. -/
theorem State.sdJudged_clt (n : Nat) : (s.sdJudged n).clt n = (s.secondCounted n).clt n := by
  unfold State.sdJudged
  dsimp only
  split
  · split
    · exact State.setSd_clt _ n n false
    · rfl
  · split
    · exact State.setSd_clt _ n n true
    · rfl

/-- Settles O36, clause by clause: window shifts, the measurement of a multiframe, a second below the demand, codewords, and the seconds
of FEC-SD. -/
theorem decoderFigures : Obligations.DecoderFigures := by
  unfold Obligations.DecoderFigures
  refine ⟨?shifts, ?measures, ?short, ?codewords, ?seconds⟩
  case shifts =>
    intro s n f soft g h12 hg
    subst hg
    have hexec := exec_windowShift s (n := n) (f := f) soft h12
    refine ⟨_, hexec, exec_only_of_fits hexec (by simp only [footprint]; decide +kernel), fun h => if_pos h, fun hf hm hz => ?_,
      fun hf hm hz => ?_⟩
    · rw [if_neg (not_or.mpr ⟨by rw [hf]; decide, hm⟩), if_neg (by simp [hz])]
      obtain ⟨r, hr, hall, h0, h5, h6⟩ := s.shiftNative_shows n f soft
      refine ⟨h0, ⟨r, hr, h5, h6, hall⟩, ?_⟩
      rw [s.shiftNative_window, State.windowJoined, List.length_append, List.length_singleton]
    · rw [if_neg (not_or.mpr ⟨by rw [hf]; decide, hm⟩), if_pos hz]
      exact s.shiftOzr_shows n soft
  case measures =>
    intro s n h12
    have hexec := exec_ngmiMeasure s (n := n) h12
    refine ⟨_, hexec, exec_only_of_fits hexec (by simp only [footprint]; decide +kernel), fun h => if_pos h, fun h => ?_,
      fun f hf v m hv hm => ?_⟩
    · rw [if_neg h, State.kept_clt (State.framePassed_only _ n) rfl]
      exact State.summarised_clt _ _ _
    · subst hv hm
      have hreg := State.kept_reg (((s.allMeasured n).summarised n (s.decSlots n)).framePassed_only n) .CLET_SC_STAT rfl n f 0
      rw [if_neg (List.ne_nil_of_mem hf)]
      exact ⟨s.ngmiOf_nil, (s.allMeasured_measuredIn n hf).of_reg (hreg.trans (State.reg_summarised _ _ _ _ _))⟩
  case short =>
    intro s n f h12 hf
    have hexec := exec_shortSecond s h12 hf
    refine ⟨fun hlt => ?_, fun hle => ?_⟩
    · rw [if_pos hlt] at hexec
      exact ⟨_, hexec, exec_only_of_fits hexec (by simp only [footprint]; decide +kernel),
        State.on_raise_one _ _ _ _ _ n (by decide) rfl (by decide)⟩
    · rwa [if_neg (by omega)] at hexec
  case codewords =>
    intro s n h12
    have hexec := exec_lashingCodeword s (n := n) h12
    refine ⟨_, hexec, exec_only_of_fits hexec (by simp only [footprint]; decide +kernel), fun h => if_pos h, fun hn hw => ?_,
      fun hn w rest hw => ?_, fun hm hz hne hlen => ?_⟩
    · obtain ⟨hm, hz⟩ := s.lineNative_iff.mp hn
      rw [if_neg hm, if_neg (by simp [hz]), s.nextDecoded_none hw]
    · obtain ⟨hm, hz⟩ := s.lineNative_iff.mp hn
      rw [if_neg hm, if_neg (by simp [hz]), s.nextDecoded_some hw]
      cases hc : lashingCorrect (w.map fun b => b.1) with
      | some p =>
        obtain ⟨v, c⟩ := p
        obtain ⟨hclt, h2, h3, hbits⟩ := State.takeWord63_corrected_shows (s.setCoded n rest) n hz hc
        refine ⟨by rw [hclt, State.setCoded_clt], h2, fun v' c' h => ?_, fun h => nomatch h⟩
        obtain ⟨rfl, rfl⟩ := Prod.mk.inj (Option.some.inj h)
        exact ⟨h3, hbits⟩
      | none =>
        obtain ⟨hclt, h2, h4, hevt, hbits⟩ := State.takeWord63_uncorrectable_shows (s.setCoded n rest) n hc
        rw [State.setCoded_clt] at hclt hevt
        exact ⟨by rw [hclt], h2, fun _ _ h => (nomatch h), fun _ => ⟨h4, by rw [hclt], hevt, hbits⟩⟩
    · rw [if_neg hm, if_pos hz]
      exact s.nextOfec_shows n hz hne hlen
  case seconds =>
    intro s n h12 hm
    have hexec := exec_fecSdSecond s h12 hm
    have hclt := (s.sdJudged_clt n).trans (s.secondCounted_clt n)
    refine ⟨_, hexec, exec_only_of_fits hexec (by simp only [footprint]; decide +kernel), by rw [hclt], by rw [hclt],
      fun hsd hb hneed => ?_, fun hsd hb hneed => ?_, fun hsd hu hneed => ?_⟩
    · rw [s.sdJudged_sets hsd ((s.lowRun_below hb).symm ▸ hneed)]
      exact ⟨State.setSd_sd _ n true, State.setSd_reports _ n true⟩
    · rw [s.sdJudged_waits hsd ((s.lowRun_below hb).symm ▸ hneed)]
      exact ⟨hsd, by rw [State.secondCounted_clt, s.lowRun_below hb]⟩
    · rw [s.sdJudged_clears hsd ((s.highRun_clear hu).symm ▸ hneed)]
      exact ⟨State.setSd_sd _ n false, State.setSd_reports _ n false⟩

end Sys2Proof.Machine
end

section
/-! The lists of register instances, the clients of a lane and the lanes of a client: what keeps them, as the obligations on clients, on
groups and on lanes need it. -/

namespace Sys2Proof.Machine

open Sys2Proof

variable (s : State)

/-! ### The instances at which a table memory is listed -/

/-- A write of another register name leaves them. -/
theorem State.listed_setReg {q id : RegId} (v i j k : Nat) (h : q ≠ id) : (s.setReg q v i j k).listed id = s.listed id :=
  congrArg (List.map _) (RegStore.filter_put_other _ _ _ _ h)

theorem State.listed_wr {f : Fld} {id : RegId} (v i j k : Nat) (h : f.id ≠ id) : (s.wr f v i j k).listed id = s.listed id :=
  s.listed_setReg _ i j k h

theorem State.listed_count {q id : RegId} (d i j k : Nat) (h : q ≠ id) : (s.count q d i j k).listed id = s.listed id :=
  s.listed_setReg _ i j k h

theorem State.listed_of_regs {s t : State} (h : t.regs = s.regs) (id : RegId) : t.listed id = s.listed id := by
  unfold State.listed; rw [h]

/-! ### The registers that an event writes -/

theorem State.ringMessage_regs (r : Nat) (atOnce : Bool) : (s.ringMessage r atOnce).regs = s.regs := by
  unfold State.ringMessage
  dsimp only
  split_ifs <;> simp

/-- The registers that an event writes: those of the rings, Becket's counters, and the memory ports' counts of entries beyond a region. -/
def eventWrites (r : RegKey) : Prop := r.id = .BCKT_RING_ST ∨ r.id = .BCKT_CNT ∨ (r.id = .BCKT_MEM_CNT ∧ r.j = 4)

section
variable {P : RegStore → Prop} (hput : ∀ t r v, eventWrites r → P t → P (t.put r v)) (hs : P s.regs)
include hput hs

theorem State.ringPutRaw_writes (r : Nat) (entry : List Byte) (atOnce : Bool) : P (s.ringPutRaw r entry atOnce).regs := by
  unfold State.ringPutRaw
  dsimp only
  rw [State.ringMessage_regs]
  refine hput _ _ _ (.inl rfl) ?_
  split
  · exact hput _ _ _ (.inr (.inr ⟨rfl, rfl⟩)) hs
  · exact hs

theorem State.eventWrite_writes (r code dom : Nat) (params : List Nat) (exit : Bool) : P (s.eventWrite r code dom params exit).regs := by
  unfold State.eventWrite State.ringPut
  dsimp only
  refine State.ringPutRaw_writes _ hput ?_ _ _ _
  rwa [State.setRing_regs, State.draw_regs]

theorem State.eventLost_writes (r code : Nat) : P (s.eventLost r code).regs := by
  unfold State.eventLost State.count
  dsimp only
  rw [State.setRing_regs, State.setReg_regs, State.inc_regs, State.wr_regs]
  exact hput _ _ _ (.inr (.inl rfl)) (hput _ _ _ (.inl rfl) hs)

/-- What the writes of an event keep holds after it. -/
theorem State.event_writes (code dom : Nat) (params : List Nat) (exit : Bool) : P (s.event code dom params exit).regs := by
  have hemit : P (s.emit (.event code dom params exit)).regs := hs
  unfold State.event State.eventTo
  dsimp only
  split
  · split
    · split
      · exact State.eventWrite_writes _ hput hemit _ _ _ _ _
      · exact State.eventLost_writes _ hput hemit _ _
    · exact hemit
  · exact hemit

end

/-- An event leaves the instances of every register name but those of the rings and of Becket's counters. -/
theorem State.listed_event {id : RegId} (h : eventMask.testBit (regBit id) = false) (code dom : Nat) (params : List Nat) (exit : Bool) :
    (s.event code dom params exit).listed id = s.listed id := by
  refine congrArg (List.map _) (s.event_writes (P := fun t => t.filter (fun c => decide (c.key.id = id)) =
    s.regs.filter fun c => decide (c.key.id = id)) (fun t r v hr ht => (RegStore.filter_put_other t r v id ?_).trans ht) rfl code dom
    params exit)
  rintro rfl
  rcases hr with hr | hr | ⟨hr, -⟩ <;> rw [hr] at h <;> cases h

/-- An event leaves the counts of the memory ports but for those of entries beyond a region. -/
theorem State.reg_event_port {j : Nat} (h : j ≠ 4) (code dom : Nat) (params : List Nat) (exit : Bool) (i : Nat) :
    (s.event code dom params exit).reg .BCKT_MEM_CNT i j = s.reg .BCKT_MEM_CNT i j := by
  refine s.event_writes (P := fun t => t.get ⟨.BCKT_MEM_CNT, i, j, 0⟩ = s.regs.get ⟨.BCKT_MEM_CNT, i, j, 0⟩)
    (fun t r v hr ht => (RegStore.get_put_other t r _ v ?_).trans ht) rfl code dom params exit
  rintro rfl
  rcases hr with hr | hr | ⟨-, hr⟩
  · cases hr
  · cases hr
  · exact h hr

/-! ### States with the same clients on the same lanes -/

/-- The registers that bind lanes and clients are the same. -/
def State.lanesAlike (s t : State) : Prop :=
  (∀ r : RegKey, r.id ∈ laneRegs → t.regs.get r = s.regs.get r) ∧ t.listed .SHET_HTS = s.listed .SHET_HTS

section
variable {s} {t : State}

theorem State.lanesAlike_refl : s.lanesAlike s := ⟨fun _ _ => rfl, rfl⟩

theorem State.lanesAlike.of_regs (h : s.lanesAlike t) {u : State} (hu : u.regs = t.regs) : s.lanesAlike u := by
  obtain ⟨hget, hlist⟩ := h
  exact ⟨fun r hr => (congrArg (RegStore.get · r) hu).trans (hget r hr), (State.listed_of_regs hu _).trans hlist⟩

theorem State.lanesAlike.setReg (h : s.lanesAlike t) {q : RegId} (v i j k : Nat) (hq : q ∉ laneRegs) :
    s.lanesAlike (t.setReg q v i j k) := by
  obtain ⟨hget, hlist⟩ := h
  refine ⟨fun r hr => ?_, (t.listed_setReg v i j k ?_).trans hlist⟩
  swap
  · rintro rfl
    exact hq (by decide)
  refine (RegStore.get_put_other _ _ _ _ fun e => hq ?_).trans (hget r hr)
  rwa [e] at hr

theorem State.lanesAlike.wr (h : s.lanesAlike t) {f : Fld} (v i j k : Nat) (hf : f.id ∉ laneRegs) : s.lanesAlike (t.wr f v i j k) :=
  h.setReg _ i j k hf

theorem State.lanesAlike.count (h : s.lanesAlike t) {q : RegId} (d i j k : Nat) (hq : q ∉ laneRegs) :
    s.lanesAlike (t.count q d i j k) := h.setReg _ i j k hq

theorem State.lanesAlike.raise (h : s.lanesAlike t) {f : Fld} (code dom : Nat) (params : List Nat) (exit : Bool) (i : Nat)
    (hf : f.id ∉ laneRegs) : s.lanesAlike (t.raise f code dom params exit i) := by
  obtain ⟨hget, hlist⟩ := h.wr 1 i 0 0 hf
  have hmask : ∀ id ∈ laneRegs, eventMask.testBit (regBit id) = false := by decide
  exact ⟨fun r hr => (State.kept_get (State.event_keeps _ _ _ _ _) r (hmask _ hr)).trans (hget r hr),
    (State.listed_event _ rfl _ _ _ _).trans hlist⟩

theorem State.lanesAlike.rd (h : s.lanesAlike t) {f : Fld} (hf : f.id ∈ laneRegs) (i : Nat) : t.rd f i = s.rd f i := by
  unfold State.rd State.reg; rw [h.1 _ hf]

theorem State.lanesAlike.clientsOn (h : s.lanesAlike t) (l : Nat) : t.clientsOn l = s.clientsOn l := State.clientsOn_congr l h.1 h.2

theorem State.lanesAlike.isEth (h : s.lanesAlike t) : t.isEth = s.isEth := funext fun c => by
  simp only [State.isEth, h.rd (f := .SHET_CLI_CFG_TYPE) (by decide)]

theorem State.lanesAlike.laneCount (h : s.lanesAlike t) : t.laneCount = s.laneCount := funext fun c => by
  simp only [State.laneCount, h.rd (f := .SHET_CLI_CFG_LANES) (by decide)]

theorem State.lanesAlike.flexLanes (h : s.lanesAlike t) : t.flexLanes = s.flexLanes := funext fun g => by
  unfold State.flexLanes State.on
  rw [h.rd (f := .SHET_FLX_CFG_INST) (by decide), h.rd (f := .SHET_FLX_CFG_KIND) (by decide), h.rd (f := .TWIN_QUAD_CFG_RATE) (by decide)]

/-- Whether a lane's rate fits rests on these registers alone. -/
theorem State.lanesAlike.rateFits (h : s.lanesAlike t) (l : Nat) : t.rateFits l = s.rateFits l := by
  have heth : t.ethOf l = s.ethOf l := by unfold State.ethOf; rw [h.isEth, h.laneCount]
  have hflex : t.flexOf l = s.flexOf l := by
    simp only [State.flexOf, State.on, h.flexLanes, h.rd (f := .SHET_FLX_CFG_EN) (by decide)]
  have hrate : t.ethRate = s.ethRate := funext fun c => by
    unfold State.ethRate
    rw [h.laneCount, h.rd (f := .SHET_CLI_CFG_TYPE) (by decide)]
  simp only [State.rateFits, heth, hflex, hrate, h.rd (f := .TWIN_QUAD_CFG_RATE) (by decide)]

end

theorem State.mem_clientsOn {c l : Nat} : c ∈ s.clientsOn l ↔ c < 48 ∧ l ∈ s.cliLanes c := by
  simp [State.clientsOn]

end Sys2Proof.Machine
end

section
/-! Loss and return of signal and of clock of a host lane, and the requests of its partner (R227, R228, R230); and the obligation on them. A
lane that is not in order fails the ingress of its clients (R219). -/

namespace Sys2Proof.Machine

open Sys2Proof

variable (s : State)

/-! ### Ingress conditions taken anew (R219) -/

/-- Whether ingress of a client is in signal fail. -/
def State.ingressFails (s : State) (c : Nat) : Bool :=
  s.rd .SHET_CLI_CFG_TYPE c != 0 && ((s.cli c).condition || !(s.cliLanes c).all fun l => s.laneGood l)

/-- Beside the event of its rise, CSF is all that it writes. -/
theorem State.rd_refreshIngress {f : Fld} (hf : Fld.apart .SHET_CLI_EVT_ING_FAIL f = true)
    (hm : eventMask.testBit (regBit f.id) = false) (c a b d : Nat) :
    (s.refreshIngress c).rd f a b d = (s.wr .SHET_CLI_STAT_CSF (b2n (s.ingressFails c)) c).rd f a b d := by
  unfold State.refreshIngress
  dsimp only
  split
  · rw [State.rd_raise_apart _ _ _ _ _ _ _ _ _ hf hm, State.rd_setCli]; rfl
  · rfl

theorem State.refreshIngress_csf (c : Client) : (s.refreshIngress c).on .SHET_CLI_STAT_CSF c = s.ingressFails c := by
  rw [State.on, s.rd_refreshIngress rfl rfl]
  exact s.on_wr_b2n _ _ _ _ _ (regValid_one_of_dims rfl c) rfl (by decide)

theorem State.refreshIngress_csf_other {c a : Nat} (h : a ≠ c) :
    (s.refreshIngress c).on .SHET_CLI_STAT_CSF a = s.on .SHET_CLI_STAT_CSF a := by
  rw [State.on, s.rd_refreshIngress rfl rfl, s.rd_wr_other _ _ _ _ _ _ _ _ _ fun e => h e.2.1]
  rfl

theorem State.lanesAlike.refreshIngress {s t : State} (h : s.lanesAlike t) (c : Nat) : s.lanesAlike (t.refreshIngress c) := by
  have hwr (v : Nat) : s.lanesAlike (t.wr .SHET_CLI_STAT_CSF v c) := h.wr _ _ _ _ (by decide)
  unfold State.refreshIngress
  dsimp only
  split
  · exact ((hwr _).of_regs (State.setCli_regs _ _ _)).raise _ _ _ _ _ (by decide)
  · exact hwr _

theorem State.kept_laneGood {s t : State} {m : Nat} (h : s.kept m t) (hm : m.testBit (regBit .TWIN_STAT) = false) (l : Nat) :
    t.laneGood l = s.laneGood l := by
  unfold State.laneGood
  rw [State.kept_rd h _ hm, State.kept_on h _ hm]

/-- An enabled client with a lane that is not in order is in signal fail. -/
theorem State.ingressFails_of_lane {c l : Nat} (hc : c ∈ s.clientsOn l) (ht : s.rd .SHET_CLI_CFG_TYPE c ≠ 0) (hl : s.laneGood l = false) :
    s.ingressFails c = true := by
  have hall : (s.cliLanes c).all (fun l => s.laneGood l) = false :=
    List.all_eq_false.mpr ⟨l, (s.mem_clientsOn.mp hc).2, by rw [hl]; decide⟩
  simp [State.ingressFails, ht, hall]

/-! ### What follows a lane's state or LOS -/

/-- What a lane's state or LOS changes for its clients and for the references taken from it. -/
def laneFoot : Nat :=
  eventFoot [.HLYD_EVT, .HLYD_STAT, .HLYD_REF_ST, .HLYD_HO, .SHET_CLI_STAT, .SHET_CLI_EVT] [.halyard, .clients]

theorem State.laneChanged_only (l : Nat) : s.kept laneFoot (s.laneChanged l) := State.laneChanged_kept s l (State.kept_refl _ s) rfl

/-- The ingress conditions of a lane's clients taken anew. -/
def State.clientsTold (s : State) (l : Nat) : State :=
  (s.emit (s.laneSignal l)).each (s.clientsOn l) fun c t => t.refreshIngress c

theorem State.laneChanged_refs (l : Nat) : (s.clientsTold l).kept refFoot (s.laneChanged l) := by
  refine State.each_holds _ ((s.clientsTold l).kept refFoot) (State.kept_refl _ _) fun r _ t ht => ?_
  split
  · exact State.refEval_kept _ _ ht rfl
  · exact ht

theorem State.clientsTold_csf {l : Nat} {c : Client} (hc : c.val ∈ s.clientsOn l) (ht : s.rd .SHET_CLI_CFG_TYPE c ≠ 0)
    (hl : s.laneGood l = false) : (s.clientsTold l).on .SHET_CLI_STAT_CSF c = true := by
  refine State.each_sets _ (fun t => s.lanesAlike t ∧ t.laneGood l = false) (fun t => t.on .SHET_CLI_STAT_CSF c = true) hc
    ⟨State.lanesAlike_refl.of_regs rfl, hl⟩ (fun k _ t ⟨halike, hbad⟩ => ⟨halike.refreshIngress k, ?_⟩) (fun t ⟨halike, hbad⟩ => ?_)
    fun k _ hk t hset => ?_
  · have hkept : t.kept laneFoot (t.refreshIngress k) := State.refreshIngress_kept t k (State.kept_refl _ t) rfl
    rw [State.kept_laneGood hkept rfl, hbad]
  · rw [State.refreshIngress_csf]
    exact t.ingressFails_of_lane (by rwa [halike.clientsOn]) (by rwa [halike.rd (by decide)]) hbad
  · rwa [t.refreshIngress_csf_other hk.symm]

/-- The enabled clients of a lane that is not in order are in signal fail. -/
theorem State.laneChanged_csf {l : Nat} {c : Client} (hc : c.val ∈ s.clientsOn l) (ht : s.rd .SHET_CLI_CFG_TYPE c ≠ 0)
    (hl : s.laneGood l = false) : (s.laneChanged l).on .SHET_CLI_STAT_CSF c = true :=
  (State.kept_on (s.laneChanged_refs l) _ rfl _ _ _).trans (s.clientsTold_csf hc ht hl)

theorem State.laneGood_los {l : Nat} (h : s.on .TWIN_STAT_LOS l = true) : s.laneGood l = false := by
  simp [State.laneGood, h]

/-! ### Entries into a state, and attempts (R227, R229, R235) -/

/-- The fields of Twine that an attempt writes. -/
def attemptFlds : List Fld :=
  [.TWIN_STAT_LSTATE, .TWIN_STAT_CDR_LOCK, .TWIN_STAT_PART_RDY, .TWIN_STAT_ATTEMPTS, .TWIN_STAT_UNTR_CAUSE, .TWIN_SCAN_SCAN_BUSY,
    .TWIN_SCAN_SCAN_REQ, .TWIN_SCAN_SCAN_VALID, .TWIN_EVT_UNTRAINED]

/-- A field that an attempt keeps. -/
def Fld.besideAttempt (g : Fld) : Bool :=
  attemptFlds.all (fun f => f.apart g) && g.id != .TWIN_CNT && !laneFoot.testBit (regBit g.id)

/-- A lane's state set, before what follows from it. -/
def State.laneSet (s : State) (l st : Nat) : State :=
  (((if s.laneState l = 3 then s.endScan l else s).wr .TWIN_STAT_LSTATE st l).wr .TWIN_STAT_CDR_LOCK 0 l).wr .TWIN_STAT_PART_RDY 0 l

theorem State.setLane_eq (l st : Nat) : s.setLane l st = (s.laneSet l st).laneChanged l := rfl

/-- An attempt begun and counted. -/
def State.attemptCounted (s : State) (l : Nat) : State :=
  ((s.inc .TWIN_STAT_ATTEMPTS 1 l).count .TWIN_CNT 1 l 2).setTw l { s.tw l with coeff := none }

theorem State.attemptCounted_alike (l : Nat) : s.lanesAlike (s.attemptCounted l) :=
  ((State.lanesAlike_refl.wr _ _ _ _ (by decide)).count _ _ _ _ (by decide)).of_regs rfl

theorem State.endScan_alike (l : Nat) : s.lanesAlike (s.endScan l) := by
  unfold State.endScan
  split
  · exact ((State.lanesAlike_refl.wr _ _ _ _ (by decide)).wr _ _ _ _ (by decide)).wr _ _ _ _ (by decide)
  · exact State.lanesAlike_refl

theorem State.laneSet_alike (l st : Nat) : s.lanesAlike (s.laneSet l st) := by
  have hscan : s.lanesAlike (if s.laneState l = 3 then s.endScan l else s) := by
    split
    · exact s.endScan_alike l
    · exact State.lanesAlike_refl
  exact ((hscan.wr _ _ _ _ (by decide)).wr _ _ _ _ (by decide)).wr _ _ _ _ (by decide)

section
variable {g : Fld} (h : g.besideAttempt = true) (l a b c : Nat)
include h

theorem State.rd_laneSet_beside (st : Nat) : (s.laneSet l st).rd g a b c = s.rd g a b c := by
  simp only [Fld.besideAttempt, attemptFlds, List.all_cons, List.all_nil, Bool.and_eq_true, Bool.and_true] at h
  obtain ⟨⟨⟨hst, hcdr, hrdy, -, -, hbusy, hreq, hvalid, -⟩, -⟩, -⟩ := h
  unfold State.laneSet State.endScan
  split_ifs <;> simp only [State.rd_wr_apart _ _ _ _ _ _ _ _ hst, State.rd_wr_apart _ _ _ _ _ _ _ _ hcdr,
    State.rd_wr_apart _ _ _ _ _ _ _ _ hrdy, State.rd_wr_apart _ _ _ _ _ _ _ _ hbusy, State.rd_wr_apart _ _ _ _ _ _ _ _ hreq,
    State.rd_wr_apart _ _ _ _ _ _ _ _ hvalid]

theorem State.rd_setLane_beside (st : Nat) : (s.setLane l st).rd g a b c = s.rd g a b c := by
  have hfoot : laneFoot.testBit (regBit g.id) = false := by
    simp only [Fld.besideAttempt, Bool.and_eq_true, Bool.not_eq_true'] at h
    exact h.2
  rw [s.setLane_eq, State.kept_rd (State.laneChanged_only _ l) g hfoot, s.rd_laneSet_beside h]

theorem State.rd_attemptCounted_beside : (s.attemptCounted l).rd g a b c = s.rd g a b c := by
  simp only [Fld.besideAttempt, attemptFlds, List.all_cons, List.all_nil, Bool.and_eq_true, Bool.and_true, bne_iff_ne] at h
  obtain ⟨⟨⟨-, -, -, hatt, -⟩, hcnt⟩, -⟩ := h
  exact (State.rd_setReg_id _ _ _ _ _ _ _ _ hcnt).trans (s.rd_wr_apart _ _ _ _ _ _ _ hatt)

end

/-- Untrained is entered as any state is, but for its cause and its event. -/
theorem State.rd_untrained {g : Fld} (hc : Fld.apart .TWIN_STAT_UNTR_CAUSE g = true) (he : Fld.apart .TWIN_EVT_UNTRAINED g = true)
    (hm : eventMask.testBit (regBit g.id) = false) (l cause a b c : Nat) :
    (s.untrained l cause).rd g a b c = (s.setLane l 4).rd g a b c := by
  unfold State.untrained State.laneEvent
  rw [State.rd_raise_apart _ _ _ _ _ _ _ _ _ he hm, State.rd_wr_apart _ _ _ _ _ _ _ _ hc]

/-- What an attempt of a lane that is not Untrained leads to. -/
theorem State.startAttempt_cases {l : Nat} (h : s.laneState l ≠ 4) : s.startAttempt l = s.setLane l 0 ∨
    s.startAttempt l = (s.attemptCounted l).setLane l 1 ∨ s.startAttempt l = (s.attemptCounted l).untrained l 1 := by
  have h4 : (s.attemptCounted l).laneState l ≠ 4 := by
    refine ne_of_eq_of_ne ?_ h
    exact (State.rd_setReg_id _ _ _ _ _ _ _ _ (by decide)).trans (s.rd_wr_apart _ _ _ _ _ _ _ (by decide))
  unfold State.startAttempt
  split
  · exact .inl rfl
  · dsimp only
    split
    · exact .inr (.inl rfl)
    · exact .inr (.inr (if_neg h4))

/-- A lane that is enabled, with a rate that fits, is Acquiring. -/
theorem State.startAttempt_fits {l : Nat} (hen : s.on .TWIN_LANE_CFG_EN l = true) (hrate : s.rd .TWIN_QUAD_CFG_RATE (l / 4) ≠ 0)
    (hfit : s.rateFits l = true) : s.startAttempt l = (s.attemptCounted l).setLane l 1 := by
  have hfit' : (s.attemptCounted l).rateFits l = true := by rw [(s.attemptCounted_alike l).rateFits, hfit]
  unfold State.startAttempt
  rw [if_neg (by simp [hen, hrate])]
  exact if_pos hfit'

theorem State.setLane_laneState (l : Lane) {st : Nat} (h : st < 8) : (s.setLane l st).laneState l = st := by
  rw [State.laneState, s.setLane_eq, State.kept_rd (State.laneChanged_only _ l) _ rfl]
  unfold State.laneSet
  rw [State.rd_wr_apart _ _ _ _ _ _ _ _ (by decide), State.rd_wr_apart _ _ _ _ _ _ _ _ (by decide), State.rd_wr_one _ _ _ (by decide)]
  exact Nat.mod_eq_of_lt h

theorem State.setLane_cdr (l : Lane) (st : Nat) : (s.setLane l st).rd .TWIN_STAT_CDR_LOCK l = 0 := by
  rw [s.setLane_eq, State.kept_rd (State.laneChanged_only _ l) _ rfl]
  unfold State.laneSet
  rw [State.rd_wr_apart _ _ _ _ _ _ _ _ (by decide), State.rd_wr_one _ _ _ (by decide)]
  rfl

theorem State.startAttempt_cdr (l : Lane) (h : s.laneState l ≠ 4) : (s.startAttempt l).on .TWIN_STAT_CDR_LOCK l = false := by
  have hrd : (s.startAttempt l).rd .TWIN_STAT_CDR_LOCK l = 0 := by
    rcases s.startAttempt_cases h with e | e | e <;> rw [e]
    · exact s.setLane_cdr l 0
    · exact State.setLane_cdr _ l 1
    · exact (State.rd_untrained _ rfl rfl rfl _ _ _ _ _).trans (State.setLane_cdr _ l 4)
  rw [State.on, hrd]; rfl

/-- A field that an attempt keeps, of a lane that is not Untrained. -/
theorem State.rd_startAttempt_beside {g : Fld} (hg : g.besideAttempt = true) {l : Nat} (h : s.laneState l ≠ 4) (a b c : Nat) :
    (s.startAttempt l).rd g a b c = s.rd g a b c := by
  rcases s.startAttempt_cases h with e | e | e <;> rw [e]
  · exact s.rd_setLane_beside hg l a b c 0
  · rw [State.rd_setLane_beside _ hg, s.rd_attemptCounted_beside hg]
  · have hapart := hg
    simp only [Fld.besideAttempt, attemptFlds, List.all_cons, List.all_nil, Bool.and_eq_true, Bool.and_true, Bool.not_eq_true'] at hapart
    obtain ⟨⟨⟨-, -, -, -, hcause, -, -, -, hevt⟩, -⟩, hfoot⟩ := hapart
    have hmask : eventMask.testBit (regBit g.id) = false := by
      simp only [laneFoot, eventFoot, Nat.testBit_or, Bool.or_eq_false_iff] at hfoot
      exact hfoot.1
    rw [State.rd_untrained _ hcause hevt hmask, State.rd_setLane_beside _ hg, s.rd_attemptCounted_beside hg]

/-- A lane in LOS that enters a state has its enabled clients in signal fail. -/
theorem State.setLane_csf {l : Nat} {c : Client} (st : Nat) (hc : c.val ∈ s.clientsOn l) (ht : s.rd .SHET_CLI_CFG_TYPE c ≠ 0)
    (hl : s.on .TWIN_STAT_LOS l = true) : (s.setLane l st).on .SHET_CLI_STAT_CSF c = true := by
  have halike := s.laneSet_alike l st
  rw [s.setLane_eq]
  refine State.laneChanged_csf _ (by rwa [halike.clientsOn]) (by rwa [halike.rd (by decide)]) (State.laneGood_los _ ?_)
  rw [State.on, s.rd_laneSet_beside (by decide)]
  exact hl

theorem State.startAttempt_csf {l : Nat} {c : Client} (h : s.laneState l ≠ 4) (hc : c.val ∈ s.clientsOn l)
    (ht : s.rd .SHET_CLI_CFG_TYPE c ≠ 0) (hl : s.on .TWIN_STAT_LOS l = true) : (s.startAttempt l).on .SHET_CLI_STAT_CSF c = true := by
  have halike := s.attemptCounted_alike l
  have hcounted (st : Nat) : ((s.attemptCounted l).setLane l st).on .SHET_CLI_STAT_CSF c = true := by
    refine State.setLane_csf _ st (by rwa [halike.clientsOn]) (by rwa [halike.rd (by decide)]) ?_
    rw [State.on, s.rd_attemptCounted_beside (by decide)]
    exact hl
  rcases s.startAttempt_cases h with e | e | e <;> rw [e]
  · exact s.setLane_csf 0 hc ht hl
  · exact hcounted 1
  · rw [State.on, State.rd_untrained _ rfl rfl rfl]
    exact hcounted 4

/-! ### LOS (R228) -/

/-- LOS declared and reported. -/
def State.losRaised (s : State) (l : Nat) : State := (s.wr .TWIN_STAT_LOS 1 l).laneEvent l .TWIN_EVT_LOS_RISE 0x8803

theorem State.losRaised_shows (l : Lane) : (s.losRaised l).on .TWIN_STAT_LOS l = true ∧ (s.losRaised l).on .TWIN_EVT_LOS_RISE l = true ∧
    (s.losRaised l).laneState l = s.laneState l := by
  unfold State.losRaised State.laneEvent
  refine ⟨?_, State.on_raise_one _ _ _ _ _ l (by decide) rfl rfl, ?_⟩
  · rw [State.on, State.rd_raise_apart _ _ _ _ _ _ _ _ _ (by decide) rfl, State.rd_wr_one _ _ _ (by decide)]
    rfl
  · rw [State.laneState, State.rd_raise_apart _ _ _ _ _ _ _ _ _ (by decide) rfl, State.rd_wr_apart _ _ _ _ _ _ _ _ (by decide)]
    rfl

theorem State.losRaised_alike (l : Nat) : s.lanesAlike (s.losRaised l) :=
  (State.lanesAlike_refl.wr _ _ _ _ (by decide)).raise _ _ _ _ _ (by decide)

/-- What the loss of signal leads to. -/
def State.losTaken (s : State) (l : Nat) : State :=
  if (s.losRaised l).laneState l = 3 then (s.losRaised l).startAttempt l else (s.losRaised l).laneChanged l

theorem exec_laneLos {l : Lane} (h17 : s.alive 17 = true) (h0 : s.laneState l ≠ 0) (hl : s.on .TWIN_STAT_LOS l = false) :
    exec (.laneLos l) s = .next (s.losTaken l) := by
  change execLaneLos l s = _
  unfold execLaneLos
  rw [act_next s 17 _ h17, if_neg (by simp [h0, hl])]
  rfl

theorem State.losTaken_trained {l : Lane} (h3 : s.laneState l = 3) : s.losTaken l = (s.losRaised l).startAttempt l := by
  obtain ⟨-, -, hst⟩ := s.losRaised_shows l
  exact if_pos (hst.trans h3)

theorem State.losTaken_untrained {l : Lane} (h3 : s.laneState l ≠ 3) : s.losTaken l = (s.losRaised l).laneChanged l := by
  obtain ⟨-, -, hst⟩ := s.losRaised_shows l
  exact if_neg fun h => h3 (hst.symm.trans h)

theorem State.losTaken_shows (l : Lane) : (s.losTaken l).on .TWIN_STAT_LOS l = true ∧ (s.losTaken l).on .TWIN_EVT_LOS_RISE l = true ∧
    ∀ c : Client, c.val ∈ s.clientsOn l → s.rd .SHET_CLI_CFG_TYPE c ≠ 0 → (s.losTaken l).on .SHET_CLI_STAT_CSF c = true := by
  obtain ⟨hlos, hevt, hst⟩ := s.losRaised_shows l
  have halike := s.losRaised_alike l
  by_cases h3 : s.laneState l = 3
  · have h4 : (s.losRaised l).laneState l ≠ 4 := by rw [hst, h3]; decide
    rw [s.losTaken_trained h3]
    refine ⟨?_, ?_, fun c hc ht => ?_⟩
    · rwa [State.on, State.rd_startAttempt_beside _ (by decide) h4]
    · rwa [State.on, State.rd_startAttempt_beside _ (by decide) h4]
    · exact State.startAttempt_csf _ h4 (by rwa [halike.clientsOn]) (by rwa [halike.rd (by decide)]) hlos
  · rw [s.losTaken_untrained h3]
    have hkept := (s.losRaised l).laneChanged_only l
    refine ⟨(State.kept_on hkept _ rfl _ _ _).trans hlos, (State.kept_on hkept _ rfl _ _ _).trans hevt, fun c hc ht => ?_⟩
    exact State.laneChanged_csf _ (by rwa [halike.clientsOn]) (by rwa [halike.rd (by decide)]) (State.laneGood_los _ hlos)

theorem exec_laneLosClear {l : Lane} (h17 : s.alive 17 = true) (hl : s.on .TWIN_STAT_LOS l = true) :
    exec (.laneLosClear l) s = .next ((s.wr .TWIN_STAT_LOS 0 l).laneChanged l) := by
  change execLaneLosClear l s = _
  unfold execLaneLosClear
  rw [act_next s 17 _ h17, if_pos hl]

theorem exec_cdrLoss {l : Lane} (h17 : s.alive 17 = true) : exec (.cdrLoss l) s = .next (
    if s.laneState l = 3 then (s.wr .TWIN_STAT_CDR_LOCK 0 l).startAttempt l else s.wr .TWIN_STAT_CDR_LOCK 0 l) := by
  have hst : (s.wr .TWIN_STAT_CDR_LOCK 0 l).laneState l = s.laneState l := s.rd_wr_apart _ _ _ _ _ _ _ (by decide)
  change execCdrLoss l s = _
  unfold execCdrLoss
  rw [act_next s 17 _ h17]
  dsimp only
  rw [hst]

/-- A Trained lane that is enabled, with a rate that fits, is Acquiring once an attempt starts, from any state with the same lanes. -/
theorem State.lanesAlike.attempt {s t : State} (h : s.lanesAlike t) {l : Lane} (hen : t.on .TWIN_LANE_CFG_EN l = true)
    (hrate : s.rd .TWIN_QUAD_CFG_RATE (l.val / 4) ≠ 0) (hfit : s.rateFits l = true) : (t.startAttempt l).laneState l = 1 := by
  rw [t.startAttempt_fits hen (by rwa [h.rd (by decide)]) (by rwa [h.rateFits])]
  exact State.setLane_laneState _ l (by decide)

/-! ### Requests of the partner (R230) -/

theorem State.setTw_tw (l : Nat) (x : TwineInt) : (s.setTw l x).tw l = x := by simp [State.tw]

theorem exec_coeffRequest_locked {l : Lane} (tap : Fin 5) (delta : Int) (h17 : s.alive 17 = true) (h2 : s.laneState l = 2)
    (hl : s.on .TWIN_TXFFE_TX_LOCK l = true) : exec (.coeffRequest l tap delta) s = .next (s.emit (.coeffAnswer l true)) := by
  change execCoeffRequest l tap delta s = _
  unfold execCoeffRequest
  rw [act_next s 17 _ h17, if_neg (by simp [h2]), if_pos hl]

/-- The tap moved, and the answer whether it was at its limit. -/
def State.tapMoved (s : State) (l : Nat) (m : Nat × Bool) : State :=
  (s.setTw l { s.tw l with coeff := some m.1 }).emit (.coeffAnswer l m.2)

theorem exec_coeffRequest_free {l : Lane} (tap : Fin 5) (delta : Int) (h17 : s.alive 17 = true) (h2 : s.laneState l = 2)
    (hl : s.on .TWIN_TXFFE_TX_LOCK l = false) : exec (.coeffRequest l tap delta) s =
      .next (s.tapMoved l (moveTap ((s.tw l).coeff.getD (s.reg .TWIN_TXFFE l)) tap delta)) := by
  change execCoeffRequest l tap delta s = _
  unfold execCoeffRequest
  rw [act_next s 17 _ h17, if_neg (by simp [h2]), if_neg (by simp [hl])]
  rfl

/-- Settles O44: LOS, its end and the loss of clock are writes of Twine and what follows a lane's state, which Twine's registers survive; an
attempt keeps LOS and its event, and leads a lane whose rate fits to Acquiring; a request of the partner is answered from the tap's move. -/
theorem laneSignalsAndRequests : Obligations.LaneSignalsAndRequests := by
  unfold Obligations.LaneSignalsAndRequests
  refine ⟨?los, ?losClear, ?cdr, ?request⟩
  case los =>
    intro s l h17 h0 hl
    have hexec := exec_laneLos s h17 h0 hl
    obtain ⟨hlos, hevt, hcsf⟩ := s.losTaken_shows l
    obtain ⟨-, -, hst⟩ := s.losRaised_shows l
    refine ⟨_, hexec, exec_only_of_fits hexec (by simp only [footprint]; decide +kernel), hlos, hevt, fun h3 => ?_,
      fun h3 hfit hen hrate => ?_, hcsf⟩
    · rw [s.losTaken_untrained h3]
      exact (State.kept_rd (State.laneChanged_only _ l) _ rfl _ _ _).trans hst
    · rw [s.losTaken_trained h3]
      refine (s.losRaised_alike l).attempt ?_ hrate hfit
      rw [← hen, State.losRaised, State.laneEvent, State.on, State.rd_raise_apart _ _ _ _ _ _ _ _ _ (by decide) rfl,
        State.rd_wr_apart _ _ _ _ _ _ _ _ (by decide), State.on]
  case losClear =>
    intro s l h17 hl
    have hexec := exec_laneLosClear s h17 hl
    have hkept := (s.wr .TWIN_STAT_LOS 0 l).laneChanged_only l
    refine ⟨_, hexec, exec_only_of_fits hexec (by simp only [footprint]; decide +kernel), ?_, ?_⟩
    · rw [State.kept_on hkept _ rfl, State.on, State.rd_wr_one _ _ _ (by decide)]
      rfl
    · exact (State.kept_rd hkept _ rfl _ _ _).trans (s.rd_wr_apart _ _ _ _ _ _ _ (by decide))
  case cdr =>
    intro s l h17
    have hexec := exec_cdrLoss s (l := l) h17
    have hst : (s.wr .TWIN_STAT_CDR_LOCK 0 l).laneState l = s.laneState l := s.rd_wr_apart _ _ _ _ _ _ _ (by decide)
    refine ⟨_, hexec, exec_only_of_fits hexec (by simp only [footprint]; decide +kernel), ?_, fun h3 => ?_, fun h3 hfit hen hrate => ?_⟩
    · split
      · next h3 => exact State.startAttempt_cdr _ l (by rw [hst, h3]; decide)
      · rw [State.on, State.rd_wr_one _ _ _ (by decide)]
        rfl
    · rwa [if_neg h3]
    · rw [if_pos h3]
      refine (State.lanesAlike_refl.wr _ _ _ _ (by decide)).attempt ?_ hrate hfit
      rw [← hen, State.on, State.rd_wr_apart _ _ _ _ _ _ _ _ (by decide), State.on]
  case request =>
    intro s l tap delta h17 h2
    cases hl : s.on .TWIN_TXFFE_TX_LOCK l with
    | true =>
      have hexec := exec_coeffRequest_locked s tap delta h17 h2 hl
      exact ⟨_, hexec, exec_only_of_fits hexec (by simp only [footprint]; decide +kernel), fun _ => ⟨rfl, rfl⟩, fun h => (nomatch h)⟩
    | false =>
      have hexec := exec_coeffRequest_free s tap delta h17 h2 hl
      exact ⟨_, hexec, exec_only_of_fits hexec (by simp only [footprint]; decide +kernel), fun h => (nomatch h),
        fun _ => ⟨_, _, rfl, congrArg TwineInt.coeff (State.setTw_tw s l _), rfl⟩⟩

end Sys2Proof.Machine
end

section
/-! What Sheet holds for a client, and the egress conditions taken anew (R220, Table 7.5): what each step of theirs keeps. The obligations on
clients and on the units of a group rest on it. -/

namespace Sys2Proof.Machine

open Sys2Proof

variable (s : State)

/-! ### What Sheet holds for a client -/

@[simp] theorem State.setCli_cli (c : Nat) (x : ClientInt) : (s.setCli c x).cli c = x := by simp [State.cli]
@[simp] theorem State.wr_cli (f : Fld) (v i j k c : Nat) : (s.wr f v i j k).cli c = s.cli c := rfl
@[simp] theorem State.count_cli (id : RegId) (d i j k c : Nat) : (s.count id d i j k).cli c = s.cli c := rfl
@[simp] theorem State.emit_cli (o : Out) (c : Nat) : (s.emit o).cli c = s.cli c := rfl
@[simp] theorem State.setGrp_cli (g : Nat) (x : GroupInt) (c : Nat) : (s.setGrp g x).cli c = s.cli c := rfl
@[simp] theorem State.raise_cli (f : Fld) (code dom : Nat) (params : List Nat) (exit : Bool) (i c : Nat) :
    (s.raise f code dom params exit i).cli c = s.cli c := by
  simp [State.cli]

theorem State.kept_cli {s t : State} {m : Nat} (h : s.kept m t) (hm : m.testBit 23 = false) (c : Nat) : t.cli c = s.cli c :=
  congrArg (fun x => Tab.get ({} : ClientInt) x c) (State.kept_part h 23 hm)

/-! ### Counters with two indices -/

theorem State.rd_count_shet (d : Nat) (c : Client) {j : Nat} (h : j < 8) :
    (s.count .SHET_CNT d c j).rd .SHET_CNT_COUNT c j = (s.rd .SHET_CNT_COUNT c j + d) % 2 ^ 48 :=
  (s.get_count_counter d (r := ⟨.SHET_CNT, c, j, 0⟩) (show RegId.SHET_CNT ∈ counterIds by decide)
    (regValid_two_of_dims (n := 48) (m := 8) rfl c ⟨j, h⟩)).1

/-- A count leaves every field of another register name, or at another second index. -/
theorem State.rd_count_apart {id : RegId} {g : Fld} (d i k a c : Nat) {j b : Nat} (h : g.id ≠ id ∨ b ≠ j) :
    (s.count id d i j k).rd g a b c = s.rd g a b c := by
  rcases h with h | h
  · exact s.rd_setReg_id _ i j k a b c h
  · exact s.rd_setReg_second _ i k a c h

/-! ### Frames in progress ended (Table 7.5) -/

theorem State.endFrame_cli (c : Nat) : ∃ r, (s.endFrame c).cli c = { s.cli c with rx := r } := by
  unfold State.endFrame
  dsimp only
  split
  · exact ⟨_, by rw [State.emit_cli, State.count_cli, State.setCli_cli]⟩
  · exact ⟨_, rfl⟩

theorem State.endLeaf_cli (c key : Nat) : ∃ l, (s.endLeaf c key).cli c = { s.cli c with leaves := l } := by
  unfold State.endLeaf
  dsimp only
  split
  · exact ⟨_, by rw [State.emit_cli, State.count_cli, State.setCli_cli]⟩
  · exact ⟨_, rfl⟩

section
variable {g : Fld} {b : Nat} (h : g.id ≠ .SHET_CNT ∨ b ≠ 4) (c a d : Nat)
include h

theorem State.rd_endFrame : (s.endFrame c).rd g a b d = s.rd g a b d := by
  unfold State.endFrame
  dsimp only
  split
  · rw [State.rd_emit, State.rd_count_apart _ _ _ _ _ _ h, State.rd_setCli]
  · rfl

theorem State.rd_endLeaf (key : Nat) : (s.endLeaf c key).rd g a b d = s.rd g a b d := by
  unfold State.endLeaf
  dsimp only
  split
  · rw [State.rd_emit, State.rd_count_apart _ _ _ _ _ _ h, State.rd_setCli]
  · rfl

end

/-! ### Egress conditions taken anew (R220) -/

/-- The conditions of a client's egress that are shown. -/
def egressFlds : List Fld := [.SHET_CLI_STAT_UNAVAIL, .SHET_CLI_STAT_SRV_FAIL, .SHET_CLI_STAT_FAR_CSF, .SHET_CLI_STAT_EGR_ACT]

/-- Their events. -/
def egressEvents : List Fld := [.SHET_CLI_EVT_UNAVAIL, .SHET_CLI_EVT_EGR_FAIL]

/-- The conditions are taken anew by writes of what is shown, events, and frames in progress that end: what these keep holds after it. -/
theorem State.refreshEgress_holds (c : Nat) {P : State → Prop} (hs : P s) (hwr : ∀ t, ∀ f ∈ egressFlds, ∀ v, P t → P (t.wr f v c))
    (hraise : ∀ t, ∀ f ∈ egressEvents, ∀ code dom, P t → P (t.raise f code dom [] false c)) (hleaf : ∀ t key, P t → P (t.endLeaf c key))
    (hframe : ∀ t, P t → P (t.endFrame c)) : P (s.refreshEgress c) := by
  have hite (v : Prop) [Decidable v] (t u : State) (ht : P t) (hu : P t → P u) : P (if v then u else t) := by
    split
    · exact hu ht
    · exact ht
  unfold State.refreshEgress
  dsimp only
  refine hite _ _ _ ?_ fun h => hframe _ (hwr _ _ (by decide) _ h)
  refine State.each_holds _ P ?_ fun e _ t ht => hite _ _ _ ht (hleaf t e)
  refine hite _ _ _ ?_ (hraise _ _ (by decide) _ _)
  refine hite _ _ _ ?_ (hraise _ _ (by decide) _ _)
  exact hwr _ _ (by decide) _ (hwr _ _ (by decide) _ (hwr _ _ (by decide) _ hs))

/-- Of what Sheet holds for the client, only the delineators change. -/
theorem State.refreshEgress_cli (c : Nat) : ∃ r l, (s.refreshEgress c).cli c = { s.cli c with rx := r, leaves := l } := by
  refine s.refreshEgress_holds c (P := fun t => ∃ r l, t.cli c = { s.cli c with rx := r, leaves := l }) ⟨_, _, rfl⟩
    (fun t f _ v ht => ht) (fun t f _ code dom ht => ?_) (fun t key ht => ?_) (fun t ht => ?_)
  · rwa [State.raise_cli]
  · obtain ⟨r, l, ht⟩ := ht
    obtain ⟨l', hl'⟩ := t.endLeaf_cli c key
    exact ⟨r, l', by rw [hl', ht]⟩
  · obtain ⟨r, l, ht⟩ := ht
    obtain ⟨r', hr'⟩ := t.endFrame_cli c
    exact ⟨r', l, by rw [hr', ht]⟩

/-- A field that the conditions taken anew keep, but for the count of errored frames. -/
def Fld.besideEgress (g : Fld) : Bool := (egressFlds ++ egressEvents).all (fun f => f.apart g) && !eventMask.testBit (regBit g.id)

theorem State.rd_refreshEgress_beside {g : Fld} {b : Nat} (hg : g.besideEgress = true) (h : g.id ≠ .SHET_CNT ∨ b ≠ 4) (c a d : Nat) :
    (s.refreshEgress c).rd g a b d = s.rd g a b d := by
  simp only [Fld.besideEgress, Bool.and_eq_true, List.all_eq_true, List.mem_append, Bool.not_eq_true'] at hg
  obtain ⟨hapart, hmask⟩ := hg
  refine s.refreshEgress_holds c (P := fun t => t.rd g a b d = s.rd g a b d) rfl (fun t f hf v ht => ?_) (fun t f hf code dom ht => ?_)
    (fun t key ht => ?_) (fun t ht => ?_)
  · rw [State.rd_wr_apart _ _ _ _ _ _ _ _ (hapart f (.inl hf)), ht]
  · rw [State.rd_raise_apart _ _ _ _ _ _ _ _ _ (hapart f (.inr hf)) hmask, ht]
  · rw [State.rd_endLeaf _ h, ht]
  · rw [State.rd_endFrame _ h, ht]

/-- What the far end has announced is shown. -/
theorem State.refreshEgress_farCsf (c : Client) : (s.refreshEgress c).on .SHET_CLI_STAT_FAR_CSF c = bit (s.cli c).rxFlags 0 := by
  have hend (t : State) : (t.endFrame c).rd .SHET_CLI_STAT_FAR_CSF c = t.rd .SHET_CLI_STAT_FAR_CSF c := t.rd_endFrame (.inl (by decide)) _ _ _
  have hleaf (t : State) (e : Nat) : (t.endLeaf c e).rd .SHET_CLI_STAT_FAR_CSF c = t.rd .SHET_CLI_STAT_FAR_CSF c :=
    t.rd_endLeaf (.inl (by decide)) _ _ _ _
  have hraise (t : State) (v : Prop) [Decidable v] (f : Fld) (code dom : Nat) (hf : Fld.apart f .SHET_CLI_STAT_FAR_CSF = true) :
      (if v then t.raise f code dom [] false c else t).rd .SHET_CLI_STAT_FAR_CSF c = t.rd .SHET_CLI_STAT_FAR_CSF c := by
    split
    · exact t.rd_raise_apart _ _ _ _ _ _ _ _ hf rfl
    · rfl
  have heach (t : State) (l : List Nat) : (t.each l fun e u => if u.leafServerFail c (e / 256) (e % 256) then u.endLeaf c e else u).rd
      .SHET_CLI_STAT_FAR_CSF c = t.rd .SHET_CLI_STAT_FAR_CSF c := by
    refine State.each_holds _ (fun u => u.rd .SHET_CLI_STAT_FAR_CSF c = t.rd .SHET_CLI_STAT_FAR_CSF c) rfl fun e _ u hu => ?_
    split
    · rw [hleaf, hu]
    · exact hu
  have hfar (t : State) (v : Bool) : (t.wr .SHET_CLI_STAT_FAR_CSF (b2n v) c).on .SHET_CLI_STAT_FAR_CSF c = v :=
    t.on_wr_b2n _ _ _ _ _ (regValid_one_of_dims rfl c) rfl (by decide)
  unfold State.refreshEgress State.on
  dsimp only
  split
  · rw [hend, State.rd_wr_apart _ _ _ _ _ _ _ _ (by decide), heach, hraise _ _ _ _ _ (by decide), hraise _ _ _ _ _ (by decide)]
    exact hfar _ _
  · rw [heach, hraise _ _ _ _ _ (by decide), hraise _ _ _ _ _ (by decide)]
    exact hfar _ _

end Sys2Proof.Machine
end

section
/-! Client frames in and out, container overhead words and the conditions of ingress and egress (R204 to R206, R214, R217, R219 to R221); and
the obligation on them. The bytes of the preamble and the gap of 12 bytes between frames are the model's (log entry 78). -/

namespace Sys2Proof.Machine

open Sys2Proof

variable (s : State)

/-! ### What binds clients, slots and leaves -/

/-- What a client's frames change beside events. -/
def clientFoot : Nat := footOf [.SHET_CLI_STAT, .SHET_CNT] [.clients]

/-- Clients, slots and leaves are bound as before. -/
def State.boundAlike (s t : State) : Prop :=
  s.kept clientFoot t ∧ ∀ id : RegId, clientFoot.testBit (regBit id) = false → t.listed id = s.listed id

section
variable {s} {t : State}

theorem State.boundAlike_refl : s.boundAlike s := ⟨State.kept_refl _ s, fun _ _ => rfl⟩

theorem State.boundAlike.setCli (h : s.boundAlike t) (c : Nat) (x : ClientInt) : s.boundAlike (t.setCli c x) :=
  ⟨State.setCli_kept _ _ _ h.1 rfl, fun id hid => (State.listed_of_regs (State.setCli_regs _ _ _) id).trans (h.2 id hid)⟩

theorem State.boundAlike.wr (h : s.boundAlike t) {f : Fld} (v i : Nat) (hf : clientFoot.testBit (regBit f.id) = true) :
    s.boundAlike (t.wr f v i) := by
  refine ⟨State.wr_kept _ _ _ _ _ _ h.1 hf, fun id hid => (t.listed_wr _ _ _ _ ?_).trans (h.2 id hid)⟩
  rintro rfl
  rw [hf] at hid
  cases hid

theorem State.boundAlike.count (h : s.boundAlike t) (d i j : Nat) : s.boundAlike (t.count .SHET_CNT d i j) := by
  refine ⟨State.count_kept _ _ _ _ _ _ h.1 rfl, fun id hid => (t.listed_count _ _ _ _ ?_).trans (h.2 id hid)⟩
  rintro rfl
  cases hid

variable (h : s.boundAlike t)
include h

theorem State.boundAlike.rd {f : Fld} (hf : clientFoot.testBit (regBit f.id) = false) (i j k : Nat) : t.rd f i j k = s.rd f i j k :=
  State.kept_rd h.1 f hf i j k

theorem State.boundAlike.on {f : Fld} (hf : clientFoot.testBit (regBit f.id) = false) (i j k : Nat) : t.on f i j k = s.on f i j k :=
  State.kept_on h.1 f hf i j k

theorem State.boundAlike.boundSlots : t.boundSlots = s.boundSlots := by
  simp only [State.boundSlots, h.2 .SHET_TS rfl, h.on (f := .SHET_TS_EN) rfl]

theorem State.boundAlike.cliSlots (c : Nat) : t.cliSlots c = s.cliSlots c := by
  simp only [State.cliSlots, h.boundSlots, h.rd (f := .SHET_TS_CLIENT) rfl, h.on (f := .SHET_TS_LEAF_EN) rfl]

theorem State.boundAlike.cliLeafSlots (c : Nat) : t.cliLeafSlots c = s.cliLeafSlots c := by
  simp only [State.cliLeafSlots, h.boundSlots, h.rd (f := .SHET_TS_CLIENT) rfl, h.on (f := .SHET_TS_LEAF_EN) rfl]

theorem State.boundAlike.isShared (c : Nat) : t.isShared c = s.isShared c := by
  unfold State.isShared
  rw [h.cliLeafSlots, h.rd rfl]

theorem State.boundAlike.egressRoom (c : Nat) : t.egressRoom c = s.egressRoom c := by
  unfold State.egressRoom
  rw [h.cliLeafSlots, h.cliSlots]

theorem State.boundAlike.vidLeaf (c : Nat) (f : List Byte) : t.vidLeaf c f = s.vidLeaf c f := by
  simp only [State.vidLeaf, h.rd (f := .SHET_CLI_CFG_HUB_TAG) rfl, h.rd (f := .SHET_CLI_CFG_LINE) rfl, h.rd (f := .SHET_VID_LEAF) rfl,
    h.on (f := .SHET_VID_EN) rfl]

theorem State.boundAlike.txUnavail (k : Nat) : t.txUnavail k = s.txUnavail k := by
  have hk (n : Nat) : t.txK n = s.txK n := by
    simp only [State.txK, State.kept_clt h.1 rfl, State.txCarriers, State.txSlots, State.kept_firstSlots h.1 .BRAD_SC_CFG_WIDTH rfl,
      State.kept_lineMode h.1 rfl, h.rd (f := .BRAD_SC_CFG_WIDTH) rfl, h.rd (f := .BRAD_SC_ACT_ENT) rfl,
      h.rd (f := .BGHT_LINE_CFG_CTRL_SLOT) rfl]
  unfold State.txUnavail
  rw [hk, h.rd rfl, h.rd rfl]

theorem State.boundAlike.keyFails (n : Nat) (leaf : Bool) (unit : Nat) : t.keyFails n leaf unit = s.keyFails n leaf unit := by
  have hkc : t.kcOf n leaf unit = s.kcOf n leaf unit := by
    simp only [State.kcOf, h.2 .SEIZ_KC_CFG rfl, h.on (f := .SEIZ_KC_CFG_EN) rfl, h.on (f := .SEIZ_KC_CFG_KIND) rfl,
      h.rd (f := .SEIZ_KC_CFG_LINE) rfl, h.rd (f := .SEIZ_KC_CFG_UNIT) rfl]
  have hfails : t.kcFails = s.kcFails := funext fun k => by
    unfold State.kcFails
    rw [h.rd rfl]
  unfold State.keyFails
  rw [hkc, hfails]

/-- Whether a leaf is in server fail rests on what is bound, on Hitch and on Seizing. -/
theorem State.boundAlike.leafServerFail (c n leaf : Nat) : t.leafServerFail c n leaf = s.leafServerFail c n leaf := by
  have hhitch : t.hitch = s.hitch := State.kept_part h.1 28 rfl
  have hleaf : t.leafFail = s.leafFail := State.kept_part h.1 24 rfl
  simp only [State.leafServerFail, State.leafFails, State.ssfActs, hhitch, hleaf, h.keyFails, h.cliLeafSlots, h.txUnavail,
    h.rd (f := .BGHT_LEAF_ST_STATE) rfl, h.rd (f := .SHET_TS_LINE) rfl, h.rd (f := .SHET_TS_LEAF) rfl]

end

/-! ### Frames dropped (R206, R217) -/

theorem State.egressDrop_shows (c : Client) : (s.egressDrop c).on .SHET_CLI_EVT_DROP c = true ∧
    (s.egressDrop c).rd .SHET_CNT_COUNT c 5 = (s.rd .SHET_CNT_COUNT c 5 + 1) % 2 ^ 48 := by
  refine ⟨State.on_raise_one _ _ _ _ _ c (by decide) rfl rfl, ?_⟩
  unfold State.egressDrop
  rw [State.rd_raise_apart _ _ _ _ _ _ _ _ _ (by decide) rfl, State.rd_count_shet _ _ _ (by decide)]

/-- A field that a frame dropped keeps, but for the count of frames dropped. -/
def Fld.besideDrop (g : Fld) : Bool := Fld.apart .SHET_CLI_EVT_DROP g && !eventMask.testBit (regBit g.id)

theorem State.rd_egressDrop_beside {g : Fld} {b : Nat} (hg : g.besideDrop = true) (h : g.id ≠ .SHET_CNT ∨ b ≠ 5) (c a d : Nat) :
    (s.egressDrop c).rd g a b d = s.rd g a b d := by
  simp only [Fld.besideDrop, Bool.and_eq_true, Bool.not_eq_true'] at hg
  obtain ⟨hapart, hmask⟩ := hg
  unfold State.egressDrop
  rw [State.rd_raise_apart _ _ _ _ _ _ _ _ _ hapart hmask, State.rd_count_apart _ _ _ _ _ _ h]

theorem State.egressDrop_cli (c k : Nat) : (s.egressDrop c).cli k = s.cli k := by
  unfold State.egressDrop
  rw [State.raise_cli, State.count_cli]

/-! ### Frames from the lanes (R204, R217) -/

/-- What the lanes report beside a frame, counted and shown. -/
def State.lanesReport (s : State) (c : Nat) (lf rf : Bool) (corrected uncorrectable : Nat) : State :=
  (((s.count .SHET_CNT corrected c 2).count .SHET_CNT uncorrectable c 3).wr .SHET_CLI_STAT_RX_LF (b2n lf) c).wr .SHET_CLI_STAT_RX_RF (b2n rf) c

/-- A frame counted; the mark of a recentred crossing has gone to it. -/
def State.frameCounted (s : State) (c : Nat) : State :=
  let t := s.count .SHET_CNT 1 c 0
  t.setCli c { t.cli c with recentred := false }

/-- A frame behind its header, cut at 16,000 bytes. -/
def framed (f : List Byte) (bad : Bool) : List Byte := frameHeader (f.take 16000).length bad ++ f.take 16000

/-- A frame behind its header joins the stream of the client, or of its leaf. -/
def State.unitQueued (s : State) (c : Nat) (u f : List Byte) : State :=
  if s.isShared c then s.leafIngress c u f else s.setCli c { s.cli c with tx := (s.cli c).tx.add u }

/-- A frame counted and, where it is carried, queued. -/
def State.frameTaken (s : State) (c : Nat) (u f : List Byte) : State :=
  let t := s.frameCounted c
  if t.on .SHET_CLI_STAT_CSF c || f.length < 64 then t else t.unitQueued c u f

theorem State.lanesReport_bound (c : Nat) (lf rf : Bool) (corrected uncorrectable : Nat) :
    s.boundAlike (s.lanesReport c lf rf corrected uncorrectable) :=
  (((State.boundAlike_refl.count _ _ _).count _ _ _).wr _ _ rfl).wr _ _ rfl

section
variable {c : Client} {frame : Option (List Byte)} (err lf rf : Bool) (corrected uncorrectable : Nat) (h16 : s.alive 16 = true)
include h16

theorem exec_clientFrameIngress_other (h : s.isEth c = false) :
    exec (.clientFrameIngress c frame err lf rf corrected uncorrectable) s = .next s := by
  change execClientFrameIngress c frame err lf rf corrected uncorrectable s = _
  unfold execClientFrameIngress
  rw [act_next s 16 _ h16, if_pos (by simp [h])]

theorem exec_clientFrameIngress_reports (h : s.isEth c = true) (hf : frame = none ∨ s.rd .SHET_CLI_CFG_MODE c ≠ 0) :
    exec (.clientFrameIngress c frame err lf rf corrected uncorrectable) s = .next (s.lanesReport c lf rf corrected uncorrectable) := by
  change execClientFrameIngress c frame err lf rf corrected uncorrectable s = _
  unfold execClientFrameIngress
  rw [act_next s 16 _ h16, if_neg (by simp [h])]
  cases frame with
  | none => rfl
  | some f =>
    have hmode : (s.lanesReport c lf rf corrected uncorrectable).rd .SHET_CLI_CFG_MODE c ≠ 0 := by
      rw [(s.lanesReport_bound _ _ _ _ _).rd rfl]
      exact hf.resolve_left (by simp)
    exact congrArg _ (if_pos (bne_iff_ne.mpr hmode))

theorem exec_clientFrameIngress_frame {f : List Byte} (h : s.isEth c = true) (hm : s.rd .SHET_CLI_CFG_MODE c = 0) :
    exec (.clientFrameIngress c (some f) err lf rf corrected uncorrectable) s = .next
      ((s.lanesReport c lf rf corrected uncorrectable).frameTaken c
        (framed f (err || (s.cli c).recentred || decide (16000 < f.length) || decide (0 < uncorrectable))) f) := by
  have hmode : (s.lanesReport c lf rf corrected uncorrectable).rd .SHET_CLI_CFG_MODE c = 0 := by
    rw [(s.lanesReport_bound _ _ _ _ _).rd rfl, hm]
  change execClientFrameIngress c (some f) err lf rf corrected uncorrectable s = _
  unfold execClientFrameIngress
  rw [act_next s 16 _ h16, if_neg (by simp [h])]
  exact congrArg _ (if_neg fun e => bne_iff_ne.mp e hmode)

end

/-- What the lanes report is counted and shown. -/
theorem State.lanesReport_shows (c : Client) (lf rf : Bool) (corrected uncorrectable : Nat) :
    (s.lanesReport c lf rf corrected uncorrectable).rd .SHET_CNT_COUNT c 2 = (s.rd .SHET_CNT_COUNT c 2 + corrected) % 2 ^ 48 ∧
      (s.lanesReport c lf rf corrected uncorrectable).rd .SHET_CNT_COUNT c 3 = (s.rd .SHET_CNT_COUNT c 3 + uncorrectable) % 2 ^ 48 ∧
      (s.lanesReport c lf rf corrected uncorrectable).on .SHET_CLI_STAT_RX_LF c = lf ∧
      (s.lanesReport c lf rf corrected uncorrectable).on .SHET_CLI_STAT_RX_RF c = rf := by
  unfold State.lanesReport
  refine ⟨?_, ?_, ?_, State.on_wr_b2n _ _ _ _ _ _ (regValid_one_of_dims rfl c) rfl (by decide)⟩
  · simp (disch := decide) only [State.rd_wr_apart, State.rd_count_apart, State.rd_count_shet]
  · simp (disch := decide) only [State.rd_wr_apart, State.rd_count_apart, State.rd_count_shet]
  · rw [State.on, State.rd_wr_apart _ _ _ _ _ _ _ _ (by decide)]
    exact State.on_wr_b2n _ _ _ _ _ _ (regValid_one_of_dims rfl c) rfl (by decide)

/-- The other counts and the signal fail of a client are as before. -/
theorem State.lanesReport_keeps (c : Nat) (lf rf : Bool) (corrected uncorrectable : Nat) :
    (s.lanesReport c lf rf corrected uncorrectable).on .SHET_CLI_STAT_CSF c = s.on .SHET_CLI_STAT_CSF c ∧
      (s.lanesReport c lf rf corrected uncorrectable).rd .SHET_CNT_COUNT c 0 = s.rd .SHET_CNT_COUNT c 0 ∧
      (s.lanesReport c lf rf corrected uncorrectable).rd .SHET_CNT_COUNT c 5 = s.rd .SHET_CNT_COUNT c 5 := by
  unfold State.lanesReport State.on
  simp (disch := decide) only [State.rd_wr_apart, State.rd_count_apart, and_self]

theorem State.frameCounted_cli (c : Nat) : (s.frameCounted c).cli c = { s.cli c with recentred := false } := by
  unfold State.frameCounted
  dsimp only
  rw [State.setCli_cli, State.count_cli]

theorem State.frameCounted_bound (c : Nat) : s.boundAlike (s.frameCounted c) :=
  (State.boundAlike_refl.count _ _ _).setCli _ _

theorem State.rd_frameCounted {g : Fld} {b : Nat} (h : g.id ≠ .SHET_CNT ∨ b ≠ 0) (c a d : Nat) :
    (s.frameCounted c).rd g a b d = s.rd g a b d := s.rd_count_apart _ _ _ _ _ h

theorem State.frameCounted_count (c : Client) : (s.frameCounted c).rd .SHET_CNT_COUNT c 0 = (s.rd .SHET_CNT_COUNT c 0 + 1) % 2 ^ 48 :=
  s.rd_count_shet 1 c (by decide)

theorem State.frameTaken_held {c : Nat} (u : List Byte) {f : List Byte} (h : s.on .SHET_CLI_STAT_CSF c = true ∨ f.length < 64) :
    s.frameTaken c u f = s.frameCounted c := by
  have hcsf : (s.frameCounted c).on .SHET_CLI_STAT_CSF c = s.on .SHET_CLI_STAT_CSF c := by
    rw [State.on, s.rd_frameCounted (.inl (by decide)), State.on]
  unfold State.frameTaken
  dsimp only
  rw [hcsf, if_pos (by simpa using h)]

theorem State.frameTaken_carried {c : Nat} (u : List Byte) {f : List Byte} (h : s.on .SHET_CLI_STAT_CSF c = false) (h64 : 64 ≤ f.length) :
    s.frameTaken c u f = (s.frameCounted c).unitQueued c u f := by
  have hcsf : (s.frameCounted c).on .SHET_CLI_STAT_CSF c = s.on .SHET_CLI_STAT_CSF c := by
    rw [State.on, s.rd_frameCounted (.inl (by decide)), State.on]
  unfold State.frameTaken
  dsimp only
  rw [hcsf, if_neg (by simp [h, h64])]

/-- A shared client's frame without a leaf is dropped. -/
theorem State.leafIngress_unmapped {c : Nat} (u : List Byte) {f : List Byte} (h : s.vidLeaf c f = none) :
    s.leafIngress c u f = s.egressDrop c := by
  unfold State.leafIngress
  rw [h]

/-- The room of a leaf's queue: 64 KiB for each of its slots. -/
def State.leafRoom (s : State) (c l : Nat) : Nat :=
  65536 * ((s.cliLeafSlots c).filter fun k => s.rd .SHET_TS_LINE k == s.rd .SHET_CLI_CFG_LINE c && s.rd .SHET_TS_LEAF k == l).length

theorem State.boundAlike.leafRoom {s t : State} (h : s.boundAlike t) (c l : Nat) : t.leafRoom c l = s.leafRoom c l := by
  simp only [State.leafRoom, h.cliLeafSlots, h.rd (f := .SHET_TS_LINE) rfl, h.rd (f := .SHET_TS_LEAF) rfl,
    h.rd (f := .SHET_CLI_CFG_LINE) rfl]

section
variable {c l : Nat} {u f : List Byte} (hv : s.vidLeaf c f = some l)
include hv

theorem State.leafIngress_full
    (h : s.leafRoom c l < ((s.cli c).leaves.get {} (leafKey (s.rd .SHET_CLI_CFG_LINE c) l)).tx.fill + u.length) :
    s.leafIngress c u f = s.egressDrop c := by
  unfold State.leafIngress
  rw [hv]
  exact if_neg (Nat.not_le.mpr h)

theorem State.leafIngress_joins
    (h : ((s.cli c).leaves.get {} (leafKey (s.rd .SHET_CLI_CFG_LINE c) l)).tx.fill + u.length ≤ s.leafRoom c l) :
    (((s.leafIngress c u f).cli c).leaves.get {} (leafKey (s.rd .SHET_CLI_CFG_LINE c) l)).tx.units =
      ((s.cli c).leaves.get {} (leafKey (s.rd .SHET_CLI_CFG_LINE c) l)).tx.units ++ [u] := by
  unfold State.leafIngress
  rw [hv]
  dsimp only
  unfold State.leafRoom at h
  rw [if_pos h, State.setCli_cli, Tab.get_put_same]
  rfl

end

/-- A field that a frame queued keeps, but for the count of frames dropped. -/
theorem State.rd_unitQueued_beside {g : Fld} {b : Nat} (hg : g.besideDrop = true) (h : g.id ≠ .SHET_CNT ∨ b ≠ 5) (c : Nat)
    (u f : List Byte) (a d : Nat) : (s.unitQueued c u f).rd g a b d = s.rd g a b d := by
  unfold State.unitQueued State.leafIngress
  dsimp only
  split
  · split
    · exact s.rd_egressDrop_beside hg h _ _ _
    · split
      · rfl
      · exact s.rd_egressDrop_beside hg h _ _ _
  · rfl

theorem State.rd_frameTaken_beside {g : Fld} {b : Nat} (hg : g.besideDrop = true) (h : g.id ≠ .SHET_CNT ∨ b ≠ 5) (c : Nat)
    (u f : List Byte) (a d : Nat) : (s.frameTaken c u f).rd g a b d = (s.frameCounted c).rd g a b d := by
  unfold State.frameTaken
  dsimp only
  split
  · rfl
  · exact State.rd_unitQueued_beside _ hg h _ _ _ _ _

/-- What becomes of a frame taken in frame mode: counted, and queued for the client, or for its leaf, or dropped. -/
theorem State.frameTaken_shows (c : Client) (u f : List Byte) :
    (s.frameTaken c u f).rd .SHET_CNT_COUNT c 0 = (s.rd .SHET_CNT_COUNT c 0 + 1) % 2 ^ 48 ∧
      (s.on .SHET_CLI_STAT_CSF c = true ∨ f.length < 64 →
        ((s.frameTaken c u f).cli c).tx = (s.cli c).tx ∧ ((s.frameTaken c u f).cli c).leaves = (s.cli c).leaves) ∧
      (s.on .SHET_CLI_STAT_CSF c = false → 64 ≤ f.length → s.isShared c = false →
        ((s.frameTaken c u f).cli c).tx.units = (s.cli c).tx.units ++ [u]) ∧
      (s.on .SHET_CLI_STAT_CSF c = false → 64 ≤ f.length → s.isShared c = true →
        s.frameTaken c u f = (s.frameCounted c).leafIngress c u f) := by
  have hshared := (s.frameCounted_bound c).isShared c
  refine ⟨?_, fun h => ?_, fun h h64 hs => ?_, fun h h64 hs => ?_⟩
  · rw [s.rd_frameTaken_beside rfl (.inr (by decide)), s.frameCounted_count]
  · rw [s.frameTaken_held u h, s.frameCounted_cli]
    exact ⟨rfl, rfl⟩
  · rw [s.frameTaken_carried u h h64, State.unitQueued, if_neg (by rw [hshared, hs]; decide), State.setCli_cli, s.frameCounted_cli]
    rfl
  · rw [s.frameTaken_carried u h h64, State.unitQueued, if_pos (hshared.trans hs)]

/-- A shared client's frame dropped, or joined to its leaf's stream. -/
theorem State.frameTaken_shared {c : Client} (u : List Byte) {f : List Byte} (h : s.on .SHET_CLI_STAT_CSF c = false) (h64 : 64 ≤ f.length)
    (hs : s.isShared c = true) :
    (s.vidLeaf c f = none → (s.frameTaken c u f).on .SHET_CLI_EVT_DROP c = true ∧
      (s.frameTaken c u f).rd .SHET_CNT_COUNT c 5 = (s.rd .SHET_CNT_COUNT c 5 + 1) % 2 ^ 48) ∧
    ∀ l key, s.vidLeaf c f = some l → key = leafKey (s.rd .SHET_CLI_CFG_LINE c) l →
      (s.leafRoom c l < ((s.cli c).leaves.get {} key).tx.fill + u.length → (s.frameTaken c u f).on .SHET_CLI_EVT_DROP c = true ∧
        (s.frameTaken c u f).rd .SHET_CNT_COUNT c 5 = (s.rd .SHET_CNT_COUNT c 5 + 1) % 2 ^ 48) ∧
      (((s.cli c).leaves.get {} key).tx.fill + u.length ≤ s.leafRoom c l →
        (((s.frameTaken c u f).cli c).leaves.get {} key).tx.units = ((s.cli c).leaves.get {} key).tx.units ++ [u]) := by
  obtain ⟨-, -, -, heq⟩ := s.frameTaken_shows c u f
  have hbound := s.frameCounted_bound c
  have hdrop := (s.frameCounted c).egressDrop_shows c
  have hleaves : ((s.frameCounted c).cli c).leaves = (s.cli c).leaves := by rw [s.frameCounted_cli]
  rw [s.rd_frameCounted (.inr (by decide))] at hdrop
  rw [heq h h64 hs]
  refine ⟨fun hv => ?_, fun l key hv hkey => ⟨fun hroom => ?_, fun hroom => ?_⟩⟩
  · rwa [State.leafIngress_unmapped _ u (by rwa [hbound.vidLeaf])]
  · subst hkey
    rwa [State.leafIngress_full (l := l) _ (by rwa [hbound.vidLeaf]) (by rwa [hleaves, hbound.leafRoom, hbound.rd rfl])]
  · subst hkey
    have hjoin := State.leafIngress_joins (l := l) (u := u) (f := f) (s.frameCounted c) (c := c) (by rwa [hbound.vidLeaf])
      (by rwa [hleaves, hbound.leafRoom, hbound.rd rfl])
    rwa [hleaves, hbound.rd rfl] at hjoin

/-! ### The delineator (R205) -/

/-- A delineator with nothing to pass over decides on the bytes it holds. -/
theorem Delin.step_eq {d : Delin} (hs : d.skip = 0) : d.step =
    let h := plainBytes (d.bytes.take 4)
    let len := leAt h 0 2
    if d.bytes.length < 4 then (.wait, d)
    else if d.sync then
      if !headerOk h then (.lost, { d with sync := false })
      else if len = 0 then (.idle, { d with bytes := d.bytes.drop 4 })
      else if d.bytes.length < 4 + len then (.wait, { d with inFrame := true })
      else (.frame (bit (byteAt h 2) 0 || ((d.bytes.drop 4).take len).any fun b => b.2) (plainBytes ((d.bytes.drop 4).take len)),
        { d with inFrame := false, bytes := d.bytes.drop (4 + len) })
    else if !headerOk h then (.moved, { d with bytes := d.bytes.drop 1 })
    else if d.bytes.length < 8 + len then (.wait, d)
    else if headerOk (plainBytes ((d.bytes.drop (4 + len)).take 4)) then (.moved, { d with sync := true, bytes := d.bytes.drop (4 + len) })
    else (.moved, { d with bytes := d.bytes.drop 1 }) := by
  have hd : { d with bytes := d.bytes.drop d.skip, skip := d.skip - d.bytes.length } = d := by
    cases d
    subst hs
    simp
  unfold Delin.step
  rw [hd]

/-- A delineator in sync is lost with a header that fails (R205). -/
theorem Delin.step_lost {d : Delin} (hs : d.skip = 0) (h4 : 4 ≤ d.bytes.length) (hsync : d.sync = true)
    (hok : headerOk (plainBytes (d.bytes.take 4)) = false) : d.step = (.lost, { d with sync := false }) := by
  rw [Delin.step_eq hs]
  dsimp only
  rw [if_neg (Nat.not_lt.mpr h4), if_pos hsync, if_pos (by rw [hok]; rfl)]

section
variable {d : Delin} {len : Nat} (hs : d.skip = 0) (h4 : 4 ≤ d.bytes.length) (hok : headerOk (plainBytes (d.bytes.take 4)) = true)
  (hlen : leAt (plainBytes (d.bytes.take 4)) 0 2 = len)
include hs h4 hok hlen

/-- A good header that gives a length brings its frame. -/
theorem Delin.step_frame (hsync : d.sync = true) (h0 : len ≠ 0) (hfits : 4 + len ≤ d.bytes.length) : d.step.1 =
    .frame (bit (byteAt (plainBytes (d.bytes.take 4)) 2) 0 || ((d.bytes.drop 4).take len).any fun b => b.2)
      (plainBytes ((d.bytes.drop 4).take len)) := by
  rw [Delin.step_eq hs]
  dsimp only
  rw [hlen, if_neg (Nat.not_lt.mpr h4), if_pos hsync, if_neg (by rw [hok]; decide), if_neg h0, if_neg (Nat.not_lt.mpr hfits)]

/-- In hunt, a second good header behind the first gains sync. -/
theorem Delin.step_hunt (hsync : d.sync = false) (hfits : 8 + len ≤ d.bytes.length) :
    d.step.2.sync = headerOk (plainBytes ((d.bytes.drop (4 + len)).take 4)) := by
  rw [Delin.step_eq hs]
  dsimp only
  rw [hlen, if_neg (Nat.not_lt.mpr h4), if_neg (by rw [hsync]; decide), if_neg (by rw [hok]; decide), if_neg (Nat.not_lt.mpr hfits)]
  split
  next hsecond => exact hsecond.symm
  next hsecond => exact hsync.trans (Bool.not_eq_true _ ▸ hsecond).symm

end

/-! ### Frames out (R206) -/

/-- A frame sent changes neither what is shown nor who is bound. -/
def sendFoot : Nat := eventFoot [.SHET_CLI_EVT, .SHET_CNT] [.clients]

theorem State.egressFrame_only (c : Nat) (err : Bool) (f : List Byte) : s.kept sendFoot (s.egressFrame c err f) :=
  State.egressFrame_kept s c err f (State.kept_refl _ s) rfl

theorem State.egressFrame_stopped {c : Nat} (err : Bool) (f : List Byte) (h : s.on .SHET_CLI_STAT_EGR_ACT c = true) :
    s.egressFrame c err f = s := if_pos h

section
variable {c : Client} {f : List Byte} (err : Bool) (hact : s.on .SHET_CLI_STAT_EGR_ACT c = false)
include hact

theorem State.egressFrame_full (h : s.egressRoom c < (s.cli c).egress + f.length) : s.egressFrame c err f = s.egressDrop c := by
  unfold State.egressFrame
  rw [if_neg (by rw [hact]; decide), if_pos h]

/-- A frame sent is counted, held against the buffer, and goes out behind its preamble. -/
theorem State.egressFrame_sends (h : (s.cli c).egress + f.length ≤ s.egressRoom c) :
    (s.egressFrame c err f).rd .SHET_CNT_COUNT c 1 = (s.rd .SHET_CNT_COUNT c 1 + 1) % 2 ^ 48 ∧
      ((s.egressFrame c err f).cli c).egress = (s.cli c).egress + f.length ∧
      (s.egressFrame c err f).out = .hostFrame c.val (err || (s.cli c).recentredOut) (if s.egressRoom c < 2 * (s.cli c).egress then 8 else 12)
        (preamble ++ f) :: s.out := by
  unfold State.egressFrame
  dsimp only
  rw [if_neg (by rw [hact]; decide), if_neg (Nat.not_lt.mpr h)]
  refine ⟨?_, ?_, ?_⟩
  · rw [State.rd_emit]
    split
    · rw [State.rd_count_apart _ _ _ _ _ _ (.inr (by decide)), State.rd_count_shet _ _ _ (by decide), State.rd_setCli]
    · rw [State.rd_count_shet _ _ _ (by decide), State.rd_setCli]
  · rw [State.emit_cli]
    split
    · rw [State.count_cli, State.count_cli, State.setCli_cli]
    · rw [State.count_cli, State.setCli_cli]
  · split <;> rfl

end

/-- The delineators and the turn are not a sent frame's. -/
theorem State.egressFrame_cli (c : Nat) (err : Bool) (f : List Byte) :
    ((s.egressFrame c err f).cli c).rx = (s.cli c).rx ∧ ((s.egressFrame c err f).cli c).turn = (s.cli c).turn := by
  unfold State.egressFrame
  dsimp only
  split
  · exact ⟨rfl, rfl⟩
  · split
    · rw [State.egressDrop_cli]
      exact ⟨rfl, rfl⟩
    · rw [State.emit_cli]
      split
      · rw [State.count_cli, State.count_cli, State.setCli_cli]
        exact ⟨rfl, rfl⟩
      · rw [State.count_cli, State.setCli_cli]
        exact ⟨rfl, rfl⟩

/-! ### A step of a client's own delineator (R205) -/

/-- What the host has taken has left the egress buffer. -/
def State.bytesSent (s : State) (c sent : Nat) : State := s.setCli c { s.cli c with egress := (s.cli c).egress - sent }

theorem State.bytesSent_bound (c sent : Nat) : s.boundAlike (s.bytesSent c sent) := State.boundAlike_refl.setCli _ _

/-- The step made and shown, before its frame goes out. -/
def State.ownStepped (s : State) (c : Nat) : State :=
  let r := (s.cli c).rx.step
  let t := if r.1 = .lost then (s.endFrame c).count .SHET_CNT 1 c 7 else s
  (t.setCli c { t.cli c with rx := r.2 }).showCliSync c

theorem State.ownHeader_frame {c : Nat} {err : Bool} {f : List Byte} (h : (s.cli c).rx.step.1 = .frame err f) :
    s.ownHeader c = (s.ownStepped c).egressFrame c err f := by
  unfold State.ownHeader State.ownStepped
  dsimp only
  rw [h]

theorem State.ownHeader_plain {c : Nat} (h : ∀ err f, (s.cli c).rx.step.1 ≠ .frame err f) : s.ownHeader c = s.ownStepped c := by
  unfold State.ownHeader State.ownStepped
  dsimp only
  split
  next err f hf => exact absurd hf (h err f)
  next => rfl

theorem State.ownStepped_cli (c : Nat) : (s.ownStepped c).cli c = { s.cli c with rx := (s.cli c).rx.step.2 } := by
  obtain ⟨r, hr⟩ := s.endFrame_cli c
  unfold State.ownStepped State.showCliSync
  dsimp only
  rw [State.wr_cli, State.setCli_cli]
  split
  · rw [State.count_cli, hr]
  · rfl

theorem State.ownStepped_sync (c : Client) : (s.ownStepped c).on .SHET_CLI_STAT_SYNC c =
    ((s.cli c).rx.step.2.sync || (s.cli c).leaves.any fun e => e.2.rx.sync) := by
  have hcli := s.ownStepped_cli c
  unfold State.ownStepped State.showCliSync at hcli ⊢
  dsimp only at hcli ⊢
  rw [State.wr_cli] at hcli
  rw [State.on_wr_b2n _ _ _ _ _ _ (regValid_one_of_dims rfl c) rfl (by decide), hcli]

/-- Sync lost is counted. -/
theorem State.ownStepped_lost {c : Client} (h : (s.cli c).rx.step.1 = .lost) :
    (s.ownStepped c).rd .SHET_CNT_COUNT c 7 = (s.rd .SHET_CNT_COUNT c 7 + 1) % 2 ^ 48 := by
  unfold State.ownStepped State.showCliSync
  dsimp only
  rw [State.rd_wr_apart _ _ _ _ _ _ _ _ (by decide), State.rd_setCli, if_pos h, State.rd_count_shet _ _ _ (by decide),
    State.rd_endFrame _ (.inr (by decide))]

section
variable {c : Nat} (h : (s.cli c).rx.step.1 ≠ .lost)
include h

theorem State.ownStepped_of_sync : s.ownStepped c = (s.setCli c { s.cli c with rx := (s.cli c).rx.step.2 }).showCliSync c := by
  unfold State.ownStepped
  dsimp only
  rw [if_neg h]

theorem State.ownStepped_bound : s.boundAlike (s.ownStepped c) := by
  rw [s.ownStepped_of_sync h]
  exact (State.boundAlike_refl.setCli _ _).wr _ _ rfl

theorem State.rd_ownStepped {g : Fld} (hg : Fld.apart .SHET_CLI_STAT_SYNC g = true) (i j k : Nat) :
    (s.ownStepped c).rd g i j k = s.rd g i j k := by
  rw [s.ownStepped_of_sync h]
  unfold State.showCliSync
  dsimp only
  rw [State.rd_wr_apart _ _ _ _ _ _ _ _ hg, State.rd_setCli]

theorem State.ownStepped_out : (s.ownStepped c).out = s.out := by
  rw [s.ownStepped_of_sync h]
  rfl

end

/-- The delineator has made its step, shown with it. -/
theorem State.ownHeader_shows (c : Client) : ((s.ownHeader c).cli c).rx = (s.cli c).rx.step.2 ∧
    (s.ownHeader c).on .SHET_CLI_STAT_SYNC c = ((s.cli c).rx.step.2.sync || (s.cli c).leaves.any fun e => e.2.rx.sync) ∧
    ((s.cli c).rx.step.1 = .lost → (s.ownHeader c).rd .SHET_CNT_COUNT c 7 = (s.rd .SHET_CNT_COUNT c 7 + 1) % 2 ^ 48) := by
  by_cases hframe : ∃ err f, (s.cli c).rx.step.1 = .frame err f
  · obtain ⟨err, f, hf⟩ := hframe
    rw [s.ownHeader_frame hf]
    obtain ⟨hrx, -⟩ := (s.ownStepped c).egressFrame_cli c err f
    refine ⟨by rw [hrx, s.ownStepped_cli], ?_, fun hl => ?_⟩
    · rw [State.kept_on ((s.ownStepped c).egressFrame_only c err f) _ rfl, s.ownStepped_sync]
    · rw [hl] at hf
      cases hf
  · rw [s.ownHeader_plain fun err f hf => hframe ⟨err, f, hf⟩, s.ownStepped_cli, s.ownStepped_sync]
    exact ⟨rfl, rfl, fun hl => s.ownStepped_lost hl⟩

/-- What becomes of a frame that the delineator brings. -/
theorem State.ownHeader_sends {c : Client} {err : Bool} {f : List Byte} (hf : (s.cli c).rx.step.1 = .frame err f) :
    (s.on .SHET_CLI_STAT_EGR_ACT c = true → (s.ownHeader c).out = s.out) ∧
    (s.on .SHET_CLI_STAT_EGR_ACT c = false → s.egressRoom c < (s.cli c).egress + f.length →
      (s.ownHeader c).rd .SHET_CNT_COUNT c 5 = (s.rd .SHET_CNT_COUNT c 5 + 1) % 2 ^ 48 ∧ (s.ownHeader c).on .SHET_CLI_EVT_DROP c = true) ∧
    (s.on .SHET_CLI_STAT_EGR_ACT c = false → (s.cli c).egress + f.length ≤ s.egressRoom c →
      (s.ownHeader c).rd .SHET_CNT_COUNT c 1 = (s.rd .SHET_CNT_COUNT c 1 + 1) % 2 ^ 48 ∧
      ((s.ownHeader c).cli c).egress = (s.cli c).egress + f.length ∧
      (s.ownHeader c).out = .hostFrame c.val (err || (s.cli c).recentredOut) (if s.egressRoom c < 2 * (s.cli c).egress then 8 else 12)
        (preamble ++ f) :: s.out) := by
  have hlost : (s.cli c).rx.step.1 ≠ .lost := by rw [hf]; exact fun h => nomatch h
  have hroom := (s.ownStepped_bound hlost).egressRoom c
  have hact : (s.ownStepped c).on .SHET_CLI_STAT_EGR_ACT c = s.on .SHET_CLI_STAT_EGR_ACT c := by
    rw [State.on, s.rd_ownStepped hlost (by decide), State.on]
  have hcnt (j : Nat) := s.rd_ownStepped hlost (g := .SHET_CNT_COUNT) (by decide) c j 0
  have hcli := s.ownStepped_cli c
  have hegress : ((s.ownStepped c).cli c).egress = (s.cli c).egress := by rw [hcli]
  have hout := s.ownStepped_out hlost
  rw [s.ownHeader_frame hf]
  refine ⟨fun h => ?_, fun h hr => ?_, fun h hr => ?_⟩
  · rw [State.egressFrame_stopped _ _ _ (hact.trans h), hout]
  · rw [State.egressFrame_full _ _ (hact.trans h) (by rwa [hroom, hegress])]
    obtain ⟨hevt, hdrop⟩ := (s.ownStepped c).egressDrop_shows c
    exact ⟨hdrop.trans (by rw [hcnt]), hevt⟩
  · obtain ⟨hone, hheld, hsent⟩ := (s.ownStepped c).egressFrame_sends err (hact.trans h) (f := f) (by rwa [hroom, hegress])
    refine ⟨hone.trans (by rw [hcnt]), hheld.trans (by rw [hegress]), hsent.trans ?_⟩
    rw [hroom, hegress, hout, hcli]

/-! ### A step of a leaf's delineator (R217) -/

/-- The step made and shown, and the turn taken. -/
def State.leafTurned (s : State) (c key : Nat) : State :=
  let y := (s.cli c).leaves.get {} key
  let t := (s.setCli c { s.cli c with leaves := (s.cli c).leaves.put {} key { y with rx := y.rx.step.2 } }).showCliSync c
  t.setCli c { t.cli c with turn := key }

/-- A frame whose VID is not its leaf's is dropped and reported. -/
def State.spoofed (s : State) (c : Nat) : State := (s.count .SHET_CNT 1 c 7).raise .SHET_CLI_EVT_SPOOF 0x8006 (s.cliDom c) [] false c

theorem State.spoofed_shows (c : Client) : (s.spoofed c).on .SHET_CLI_EVT_SPOOF c = true ∧
    (s.spoofed c).rd .SHET_CNT_COUNT c 7 = (s.rd .SHET_CNT_COUNT c 7 + 1) % 2 ^ 48 := by
  refine ⟨State.on_raise_one _ _ _ _ _ c (by decide) rfl rfl, ?_⟩
  unfold State.spoofed
  rw [State.rd_raise_apart _ _ _ _ _ _ _ _ _ (by decide) rfl, State.rd_count_shet _ _ _ (by decide)]

theorem State.leafTurned_bound (c key : Nat) : s.boundAlike (s.leafTurned c key) :=
  ((State.boundAlike_refl.setCli _ _).wr _ _ rfl).setCli _ _

theorem State.leafTurned_turn (c key : Nat) : ((s.leafTurned c key).cli c).turn = key := by
  unfold State.leafTurned
  dsimp only
  rw [State.setCli_cli]

theorem State.rd_leafTurned {g : Fld} (hg : Fld.apart .SHET_CLI_STAT_SYNC g = true) (c key i j k : Nat) :
    (s.leafTurned c key).rd g i j k = s.rd g i j k := by
  unfold State.leafTurned State.showCliSync
  dsimp only
  rw [State.rd_setCli, State.rd_wr_apart _ _ _ _ _ _ _ _ hg, State.rd_setCli]

theorem State.leafHeader_frame {c key : Nat} {err : Bool} {f : List Byte} (h : ((s.cli c).leaves.get {} key).rx.step.1 = .frame err f) :
    s.leafHeader c key =
      if s.leafServerFail c (key / 256) (key % 256) then s.leafTurned c key
      else if s.vidLeaf c f != some (key % 256) then (s.leafTurned c key).spoofed c
      else (s.leafTurned c key).egressFrame c err f := by
  have hbound := s.leafTurned_bound c key
  rw [← hbound.leafServerFail, ← hbound.vidLeaf]
  unfold State.leafHeader
  dsimp only
  rw [h, if_neg fun h => nomatch h]
  rfl

/-- The turn passes to the leaf whatever becomes of its frame. -/
theorem State.leafHeader_turn {c key : Nat} {err : Bool} {f : List Byte} (h : ((s.cli c).leaves.get {} key).rx.step.1 = .frame err f) :
    ((s.leafHeader c key).cli c).turn = key := by
  obtain ⟨-, hturn⟩ := (s.leafTurned c key).egressFrame_cli c err f
  rw [s.leafHeader_frame h]
  split
  · exact s.leafTurned_turn c key
  · split
    · rw [State.spoofed, State.raise_cli, State.count_cli, s.leafTurned_turn]
    · rw [hturn, s.leafTurned_turn]

section
variable {c : Client} {sent : Nat} (h16 : s.alive 16 = true) (ht : s.rd .SHET_CLI_CFG_TYPE c ≠ 0) (hm : s.rd .SHET_CLI_CFG_MODE c = 0)
include h16 ht hm

theorem exec_egressHeader_own (hs : s.isShared c = false) : exec (.egressHeader c sent) s = .next ((s.bytesSent c sent).ownHeader c) := by
  have hshared := (s.bytesSent_bound c sent).isShared c
  change execEgressHeader c sent s = _
  unfold execEgressHeader
  rw [act_next s 16 _ h16, if_neg (by simp [ht, hm])]
  exact congrArg _ (if_neg (by rw [← State.bytesSent, hshared, hs]; decide))

theorem exec_egressHeader_leaf {key : Nat} (hs : s.isShared c = true) (hk : (s.cli c).nextLeaf = some key) :
    exec (.egressHeader c sent) s = .next ((s.bytesSent c sent).leafHeader c key) := by
  have hshared := (s.bytesSent_bound c sent).isShared c
  have hnext : ((s.bytesSent c sent).cli c).nextLeaf = some key := by
    rw [State.bytesSent, State.setCli_cli]
    exact hk
  change execEgressHeader c sent s = _
  unfold execEgressHeader
  rw [act_next s 16 _ h16, if_neg (by simp [ht, hm])]
  dsimp only
  rw [← State.bytesSent, if_pos (hshared.trans hs), hnext]

end

/-! ### Container overhead words (R214) -/

/-- A word whose first good copy gives CM and FLAGS. -/
def State.cowGood (s : State) (c cm fl : Nat) : State :=
  let x := s.cli c
  let good := min 2 (x.cowGood + 1)
  let t := s.setCli c { x with rxCm := cm, rxFlags := fl, cowBad := 0, cowGood := good, cowLost := x.cowLost && good < 2 }
  t.wr .SHET_CLI_STAT_GMP_LOCK (b2n (t.rd .SHET_CLI_CFG_MODE c != 0)) c

/-- A word without a good copy. -/
def State.cowBad (s : State) (c : Nat) : State :=
  let x := s.cli c
  let bad := min 3 (x.cowBad + 1)
  let t := ((s.setCli c { x with cowBad := bad, cowGood := 0, cowLost := x.cowLost || bad == 3 }).count .SHET_CNT 1 c 6).wr
    .SHET_CLI_STAT_GMP_LOCK 0 c
  if bad == 3 && !x.cowLost then t.raise .SHET_CLI_EVT_COW_LOST 0x8003 (t.cliDom c) [] false c else t

theorem State.judgeCow_good {c cm fl : Nat} {w : List Byte} (h : cowFields w = some (cm, fl)) :
    s.judgeCow c w = (s.cowGood c cm fl).refreshEgress c := by
  unfold State.judgeCow
  dsimp only
  rw [h]
  rfl

theorem State.judgeCow_bad {c : Nat} {w : List Byte} (h : cowFields w = none) : s.judgeCow c w = (s.cowBad c).refreshEgress c := by
  unfold State.judgeCow
  dsimp only
  rw [h]
  rfl

theorem State.cowGood_cli (c cm fl : Nat) : (s.cowGood c cm fl).cli c = { s.cli c with
    rxCm := cm, rxFlags := fl, cowBad := 0, cowGood := min 2 ((s.cli c).cowGood + 1),
    cowLost := (s.cli c).cowLost && decide (min 2 ((s.cli c).cowGood + 1) < 2) } := by
  unfold State.cowGood
  dsimp only
  rw [State.wr_cli, State.setCli_cli]

theorem State.cowGood_lock (c : Client) (cm fl : Nat) :
    (s.cowGood c cm fl).on .SHET_CLI_STAT_GMP_LOCK c = (s.rd .SHET_CLI_CFG_MODE c != 0) :=
  State.on_wr_b2n _ _ _ _ _ _ (regValid_one_of_dims rfl c) rfl (by decide)

theorem State.cowBad_cli (c : Nat) : (s.cowBad c).cli c = { s.cli c with
    cowBad := min 3 ((s.cli c).cowBad + 1), cowGood := 0, cowLost := (s.cli c).cowLost || min 3 ((s.cli c).cowBad + 1) == 3 } := by
  unfold State.cowBad
  dsimp only
  split
  · rw [State.raise_cli, State.wr_cli, State.count_cli, State.setCli_cli]
  · rw [State.wr_cli, State.count_cli, State.setCli_cli]

/-- The word is counted, and the lock of GMP is lost. -/
theorem State.cowBad_shows (c : Client) : (s.cowBad c).rd .SHET_CNT_COUNT c 6 = (s.rd .SHET_CNT_COUNT c 6 + 1) % 2 ^ 48 ∧
    (s.cowBad c).rd .SHET_CLI_STAT_GMP_LOCK c = 0 := by
  unfold State.cowBad
  dsimp only
  split
  · rw [State.rd_raise_apart _ _ _ _ _ _ _ _ _ (by decide) rfl, State.rd_raise_apart _ _ _ _ _ _ _ _ _ (by decide) rfl,
      State.rd_wr_apart _ _ _ _ _ _ _ _ (by decide), State.rd_count_shet _ _ _ (by decide), State.rd_setCli,
      State.rd_wr_one _ _ _ (by decide)]
    exact ⟨rfl, rfl⟩
  · rw [State.rd_wr_apart _ _ _ _ _ _ _ _ (by decide), State.rd_count_shet _ _ _ (by decide), State.rd_setCli,
      State.rd_wr_one _ _ _ (by decide)]
    exact ⟨rfl, rfl⟩

/-- The third bad word in a row loses the container, which is reported. -/
theorem State.cowBad_lost {c : Client} (hb : 2 ≤ (s.cli c).cowBad) (hl : (s.cli c).cowLost = false) :
    (s.cowBad c).on .SHET_CLI_EVT_COW_LOST c = true := by
  have h3 : min 3 ((s.cli c).cowBad + 1) = 3 := by omega
  unfold State.cowBad
  dsimp only
  rw [if_pos (by rw [h3, hl]; rfl)]
  exact State.on_raise_one _ _ _ _ _ c (by decide) rfl rfl

/-- A client's stream is taken, and goes out or not. -/
theorem State.hostStream_cases (c : Nat) : ∃ r, s.hostStream c = s.setCli c { s.cli c with rxBytes := [], recentredOut := r } ∨
    ∃ o, s.hostStream c = (s.setCli c { s.cli c with rxBytes := [], recentredOut := r }).emit o := by
  refine ⟨if (s.cli c).rxBytes.isEmpty then (s.cli c).recentredOut else false, ?_⟩
  unfold State.hostStream
  exact (Classical.em _).imp (fun h => if_pos h) fun h => ⟨_, if_neg h⟩

theorem State.rd_hostStream (f : Fld) (c i j k : Nat) : (s.hostStream c).rd f i j k = s.rd f i j k := by
  obtain ⟨r, h | ⟨o, h⟩⟩ := s.hostStream_cases c
  · rw [h, State.rd_setCli]
  · rw [h, State.rd_emit, State.rd_setCli]

theorem State.hostStream_cli (c : Nat) : ∃ r, (s.hostStream c).cli c = { s.cli c with rxBytes := [], recentredOut := r } := by
  obtain ⟨r, h | ⟨o, h⟩⟩ := s.hostStream_cases c
  · exact ⟨r, by rw [h, State.setCli_cli]⟩
  · exact ⟨r, by rw [h, State.emit_cli, State.setCli_cli]⟩

/-- The oldest word that waits is judged. -/
def State.cowTaken (s : State) (c : Nat) (w : List Byte) (rest : List (List Byte)) : State :=
  ((s.setCli c { s.cli c with cows := rest }).judgeCow c w).hostStream c

theorem exec_cowReceived {c : Client} {w : List Byte} {rest : List (List Byte)} (h16 : s.alive 16 = true)
    (ht : s.rd .SHET_CLI_CFG_TYPE c ≠ 0) (h : (s.cli c).cows = w :: rest) : exec (.cowReceived c) s = .next (s.cowTaken c w rest) := by
  change execCowReceived c s = _
  unfold execCowReceived
  rw [act_next s 16 _ h16, bne_iff_ne.mpr ht, h]
  rfl

theorem exec_cowReceived_none {c : Client} (h16 : s.alive 16 = true) (h : (s.cli c).cows = []) :
    exec (.cowReceived c) s = .next s := by
  change execCowReceived c s = _
  unfold execCowReceived
  rw [act_next s 16 _ h16, h]
  cases s.rd .SHET_CLI_CFG_TYPE c != 0 <;> rfl

/-- What is written of a word survives the egress conditions taken anew and the stream sent. -/
theorem State.rd_hostStream_refreshEgress {g : Fld} {b : Nat} (hg : g.besideEgress = true) (h : g.id ≠ .SHET_CNT ∨ b ≠ 4) (c a d : Nat) :
    ((s.refreshEgress c).hostStream c).rd g a b d = s.rd g a b d := by
  rw [State.rd_hostStream, s.rd_refreshEgress_beside hg h]

theorem State.hostStream_refreshEgress_cli (c : Nat) : ∃ r l o, ((s.refreshEgress c).hostStream c).cli c =
    { s.cli c with rx := r, leaves := l, rxBytes := [], recentredOut := o } := by
  obtain ⟨r, l, hrefresh⟩ := s.refreshEgress_cli c
  obtain ⟨o, hstream⟩ := (s.refreshEgress c).hostStream_cli c
  exact ⟨r, l, o, by rw [hstream, hrefresh]⟩

section
variable (c : Client) (w : List Byte) (rest : List (List Byte))

theorem State.cowTaken_cows : ((s.cowTaken c w rest).cli c).cows = rest := by
  unfold State.cowTaken
  cases hw : cowFields w with
  | none =>
    rw [State.judgeCow_bad _ hw]
    obtain ⟨_, _, _, hcli⟩ := ((s.setCli c { s.cli c with cows := rest }).cowBad c).hostStream_refreshEgress_cli c
    rw [hcli, State.cowBad_cli, State.setCli_cli]
  | some e =>
    rw [State.judgeCow_good (cm := e.1) (fl := e.2) _ hw]
    obtain ⟨_, _, _, hcli⟩ := ((s.setCli c { s.cli c with cows := rest }).cowGood c e.1 e.2).hostStream_refreshEgress_cli c
    rw [hcli, State.cowGood_cli, State.setCli_cli]

/-- A good word gives CM and FLAGS; a lost container stays lost until the second in a row. -/
theorem State.cowTaken_good {cm fl : Nat} (hw : cowFields w = some (cm, fl)) :
    ((s.cowTaken c w rest).cli c).rxCm = cm ∧ ((s.cowTaken c w rest).cli c).rxFlags = fl ∧ ((s.cowTaken c w rest).cli c).cowBad = 0 ∧
      ((s.cowTaken c w rest).cli c).cowLost = ((s.cli c).cowLost && decide ((s.cli c).cowGood = 0)) ∧
      (s.cowTaken c w rest).on .SHET_CLI_STAT_GMP_LOCK c = (s.rd .SHET_CLI_CFG_MODE c != 0) ∧
      (s.cowTaken c w rest).on .SHET_CLI_STAT_FAR_CSF c = bit fl 0 := by
  have hgood : decide (min 2 ((s.cli c).cowGood + 1) < 2) = decide ((s.cli c).cowGood = 0) := decide_eq_decide.mpr (by omega)
  have hlock := (s.setCli c { s.cli c with cows := rest }).cowGood_lock c cm fl
  have hfar := ((s.setCli c { s.cli c with cows := rest }).cowGood c cm fl).refreshEgress_farCsf c
  obtain ⟨_, _, _, hcli⟩ := ((s.setCli c { s.cli c with cows := rest }).cowGood c cm fl).hostStream_refreshEgress_cli c
  unfold State.cowTaken
  rw [State.judgeCow_good _ hw]
  rw [State.cowGood_cli, State.setCli_cli] at hcli hfar
  refine ⟨by rw [hcli], by rw [hcli], by rw [hcli], by rw [hcli]; exact congrArg ((s.cli c).cowLost && ·) hgood, ?_, ?_⟩
  · rw [State.on, State.rd_hostStream_refreshEgress _ (by decide) (.inl (by decide))]
    exact hlock
  · rw [State.on, State.rd_hostStream]
    exact hfar

/-- A bad word is counted; the third in a row loses the container. -/
theorem State.cowTaken_bad (hw : cowFields w = none) :
    (s.cowTaken c w rest).rd .SHET_CNT_COUNT c 6 = (s.rd .SHET_CNT_COUNT c 6 + 1) % 2 ^ 48 ∧ ((s.cowTaken c w rest).cli c).cowGood = 0 ∧
      (s.cowTaken c w rest).on .SHET_CLI_STAT_GMP_LOCK c = false ∧
      (2 ≤ (s.cli c).cowBad → (s.cli c).cowLost = false →
        ((s.cowTaken c w rest).cli c).cowLost = true ∧ (s.cowTaken c w rest).on .SHET_CLI_EVT_COW_LOST c = true) ∧
      ((s.cli c).cowBad < 2 → ((s.cowTaken c w rest).cli c).cowLost = (s.cli c).cowLost) := by
  have hheld : (s.setCli c { s.cli c with cows := rest }).cli c = { s.cli c with cows := rest } := State.setCli_cli _ _ _
  obtain ⟨hcnt, hlock⟩ := (s.setCli c { s.cli c with cows := rest }).cowBad_shows c
  obtain ⟨_, _, _, hcli⟩ := ((s.setCli c { s.cli c with cows := rest }).cowBad c).hostStream_refreshEgress_cli c
  unfold State.cowTaken
  rw [State.judgeCow_bad _ hw]
  rw [State.cowBad_cli, hheld] at hcli
  refine ⟨?_, by rw [hcli], ?_, fun hb hl => ⟨?_, ?_⟩, fun hb => ?_⟩
  · rw [State.rd_hostStream_refreshEgress _ (by decide) (.inr (by decide)), hcnt, State.rd_setCli]
  · rw [State.on, State.rd_hostStream_refreshEgress _ (by decide) (.inl (by decide)), hlock]
    rfl
  · have h3 : min 3 ((s.cli c).cowBad + 1) = 3 := by omega
    rw [hcli]
    dsimp only
    rw [h3]
    exact Bool.or_true _
  · rw [State.on, State.rd_hostStream_refreshEgress _ (by decide) (.inl (by decide))]
    exact State.cowBad_lost _ (by rwa [hheld]) (by rwa [hheld])
  · have h3 : (min 3 ((s.cli c).cowBad + 1) == 3) = false := beq_false_of_ne (by omega)
    rw [hcli]
    dsimp only
    rw [h3]
    exact Bool.or_false _

end

/-! ### Conditions of ingress, and egress resumed (R219, R221) -/

/-- The conditions that Sheet itself declares. -/
def State.conditionSet (s : State) (c : Nat) (v : Bool) : State := (s.setCli c { s.cli c with condition := v }).refreshIngress c

theorem State.conditionSet_condition (c : Nat) (v : Bool) : ((s.conditionSet c v).cli c).condition = v := by
  unfold State.conditionSet State.refreshIngress
  dsimp only
  split
  · rw [State.raise_cli, State.setCli_cli, State.wr_cli, State.setCli_cli]
  · rw [State.wr_cli, State.setCli_cli]

theorem State.conditionSet_csf (c : Client) (v : Bool) : (s.conditionSet c v).on .SHET_CLI_STAT_CSF c =
    (s.rd .SHET_CLI_CFG_TYPE c != 0 && (v || !(s.cliLanes c).all fun l => s.laneGood l)) := by
  unfold State.conditionSet
  rw [State.refreshIngress_csf, State.ingressFails, State.setCli_cli]
  rfl

/-- Client signal fail is reported as it begins. -/
theorem State.refreshIngress_raises {c : Client} (hnow : s.ingressFails c = true) (hwas : s.on .SHET_CLI_STAT_CSF c = false) :
    (s.refreshIngress c).on .SHET_CLI_EVT_ING_FAIL c = true := by
  unfold State.refreshIngress
  dsimp only
  rw [← State.ingressFails, hnow, hwas]
  exact State.on_raise_one _ _ _ _ _ c (by decide) rfl rfl

section
variable {c : Client} (h16 : s.alive 16 = true)
include h16

theorem exec_ingressCsf : exec (.ingressCsf c) s = .next (s.conditionSet c true) :=
  act_next s 16 (fun s => (s.setCli c { s.cli c with condition := true }).refreshIngress c) h16

theorem exec_ingressCsfClear : exec (.ingressCsfClear c) s = .next (s.conditionSet c false) :=
  act_next s 16 (fun s => (s.setCli c { s.cli c with condition := false }).refreshIngress c) h16

theorem exec_egressResume_held (h : s.on .SHET_CLI_STAT_SRV_FAIL c = true ∨ s.on .SHET_CLI_STAT_FAR_CSF c = true) :
    exec (.egressResume c) s = .next s := by
  change execEgressResume c s = _
  unfold execEgressResume
  rw [act_next s 16 _ h16]
  exact congrArg _ (if_neg (by rcases h with h | h <;> simp [h]))

end

/-- Egress resumes once it is ready, and stays as it is otherwise. -/
theorem exec_egressResume {c : Client} (h16 : s.alive 16 = true) : ∃ t, exec (.egressResume c) s = .next t ∧
    (s.on .SHET_CLI_STAT_SRV_FAIL c = false → s.on .SHET_CLI_STAT_FAR_CSF c = false →
      ((s.rd .SHET_CLI_CFG_MODE c = 0 ∧ s.on .SHET_CLI_STAT_SYNC c = true) ∨ (s.rd .SHET_CLI_CFG_MODE c ≠ 0 ∧ 2 ≤ (s.cli c).cowGood)) →
      t.on .SHET_CLI_STAT_EGR_ACT c = false) := by
  have hexec : exec (.egressResume c) s = _ := act_next s 16 _ h16
  refine ⟨_, hexec, fun hsrv hfar hready => ?_⟩
  have hr : (if s.rd .SHET_CLI_CFG_MODE c = 0 then s.on .SHET_CLI_STAT_SYNC c else decide (2 ≤ (s.cli c).cowGood)) = true := by
    rcases hready with ⟨hm, h⟩ | ⟨hm, h⟩
    · rwa [if_pos hm]
    · rwa [if_neg hm, decide_eq_true_iff]
  rw [if_pos (by rw [hsrv, hfar, hr]; rfl), State.on, State.rd_wr_one _ _ _ (by decide)]
  rfl

/-- A client frame's reports, and what becomes of it in frame mode. -/
theorem clientFrameIngress_does (c : Client) (frame : Option (List Byte)) (err lf rf : Bool) (corrected uncorrectable : Nat)
    (h16 : s.alive 16 = true) : ∃ t, exec (.clientFrameIngress c frame err lf rf corrected uncorrectable) s = .next t ∧
      (s.isEth c = false → t = s) ∧
      (s.isEth c = true → t.rd .SHET_CNT_COUNT c 2 = (s.rd .SHET_CNT_COUNT c 2 + corrected) % 2 ^ 48 ∧
        t.rd .SHET_CNT_COUNT c 3 = (s.rd .SHET_CNT_COUNT c 3 + uncorrectable) % 2 ^ 48 ∧
        t.on .SHET_CLI_STAT_RX_LF c = lf ∧ t.on .SHET_CLI_STAT_RX_RF c = rf) ∧
      (s.isEth c = true → (frame = none ∨ s.rd .SHET_CLI_CFG_MODE c ≠ 0) → t = s.lanesReport c lf rf corrected uncorrectable) ∧
      (∀ f, s.isEth c = true → frame = some f → s.rd .SHET_CLI_CFG_MODE c = 0 → t =
        (s.lanesReport c lf rf corrected uncorrectable).frameTaken c
          (framed f (err || (s.cli c).recentred || decide (16000 < f.length) || decide (0 < uncorrectable))) f) := by
  have hshows := s.lanesReport_shows c lf rf corrected uncorrectable
  cases heth : s.isEth c with
  | false =>
    exact ⟨s, exec_clientFrameIngress_other s err lf rf corrected uncorrectable h16 heth, fun _ => rfl, fun h => (nomatch h),
      fun h => (nomatch h), fun _ h => (nomatch h)⟩
  | true =>
    by_cases hreports : frame = none ∨ s.rd .SHET_CLI_CFG_MODE c ≠ 0
    · refine ⟨_, exec_clientFrameIngress_reports s err lf rf corrected uncorrectable h16 heth hreports, fun h => (nomatch h),
        fun _ => hshows, fun _ _ => rfl, fun f _ hf hm => ?_⟩
      rcases hreports with h | h
      · rw [h] at hf
        cases hf
      · exact absurd hm h
    · obtain ⟨hsome, hmode⟩ := not_or.mp hreports
      obtain ⟨f, rfl⟩ := Option.ne_none_iff_exists'.mp hsome
      have hm := not_not.mp hmode
      refine ⟨_, exec_clientFrameIngress_frame s err lf rf corrected uncorrectable h16 heth hm, fun h => (nomatch h), fun _ => ?_,
        fun _ h => absurd h hreports, fun g _ hg _ => by rw [Option.some.inj hg]⟩
      have hkeep (g : Fld) (b : Nat) (hg : g.besideDrop = true) (h5 : g.id ≠ .SHET_CNT ∨ b ≠ 5) (h0 : g.id ≠ .SHET_CNT ∨ b ≠ 0) :
          ((s.lanesReport c lf rf corrected uncorrectable).frameTaken c (framed f (err || (s.cli c).recentred || decide (16000 < f.length) ||
            decide (0 < uncorrectable))) f).rd g c b = (s.lanesReport c lf rf corrected uncorrectable).rd g c b := by
        rw [State.rd_frameTaken_beside _ hg h5, State.rd_frameCounted _ h0]
      unfold State.on at hshows ⊢
      rwa [hkeep _ _ rfl (.inr (by decide)) (.inr (by decide)), hkeep _ _ rfl (.inr (by decide)) (.inr (by decide)),
        hkeep _ _ rfl (.inl (by decide)) (.inl (by decide)), hkeep _ _ rfl (.inl (by decide)) (.inl (by decide))]

/-- Settles O42: a frame is counted and queued, or dropped, after what the lanes report; the delineator decides on the header it holds; its
step is shown before its frame goes out, and a frame sent leaves the delineators alone; a word judged writes what it shows before the egress
conditions are taken anew, which keep it. The preamble and the gap of a frame are log entry 78's. -/
theorem clientFramesAndConditions : Obligations.ClientFramesAndConditions := by
  unfold Obligations.ClientFramesAndConditions
  refine ⟨?ingress, ?delineator, ?own, ?leaf, ?word, ?noWord, ?resume, ?condition, ?clear⟩
  case ingress =>
    intro s c frame err lf rf corrected uncorrectable h16
    obtain ⟨t, hexec, hother, hshows, hreports, hframe⟩ := clientFrameIngress_does s c frame err lf rf corrected uncorrectable h16
    obtain ⟨hcsf, h0, h5⟩ := s.lanesReport_keeps c lf rf corrected uncorrectable
    have hbound := s.lanesReport_bound c lf rf corrected uncorrectable
    refine ⟨t, hexec, exec_only_of_fits hexec (by simp only [footprint]; decide +kernel), hother, hshows, fun he hn => ?_,
      fun f u he hf hm hu => ?_⟩
    · rw [hreports he hn]
      exact ⟨h0, rfl⟩
    · rw [← List.length_take, ← framed] at hu
      rw [hframe f he hf hm, ← hu]
      obtain ⟨hcount, hheld, hjoins, -⟩ := (s.lanesReport c lf rf corrected uncorrectable).frameTaken_shows c u f
      rw [h0] at hcount
      rw [hcsf] at hheld
      rw [hcsf, hbound.isShared] at hjoins
      refine ⟨hcount, hheld, hjoins, fun hup h64 hs => ?_⟩
      obtain ⟨hunmapped, hmapped⟩ := (s.lanesReport c lf rf corrected uncorrectable).frameTaken_shared u (hcsf.trans hup) h64
        ((hbound.isShared c).trans hs)
      rw [hbound.vidLeaf, h5] at hunmapped
      refine ⟨hunmapped, fun l key room hv hkey hroom => ?_⟩
      obtain ⟨hfull, hfits⟩ := hmapped l key (by rw [hbound.vidLeaf, hv]) (by rw [hkey, hbound.rd rfl])
      rw [hbound.leafRoom, State.leafRoom, ← hroom, h5] at hfull
      rw [hbound.leafRoom, State.leafRoom, ← hroom] at hfits
      exact ⟨hfull, hfits⟩
  case delineator =>
    rintro d _ hs rfl h4
    exact ⟨Delin.step_lost hs h4, fun hsync hok h0 hfits => Delin.step_frame hs h4 hok rfl hsync h0 hfits,
      fun hsync hok hfits => Delin.step_hunt hs h4 hok rfl hsync hfits⟩
  case own =>
    intro s c sent h16 ht hm hs
    have hexec := exec_egressHeader_own s (sent := sent) h16 ht hm hs
    have hcli : (s.bytesSent c sent).cli c = { s.cli c with egress := (s.cli c).egress - sent } := State.setCli_cli _ _ _
    obtain ⟨hrx, hsync, hlost⟩ := (s.bytesSent c sent).ownHeader_shows c
    rw [hcli] at hrx hsync hlost
    refine ⟨_, hexec, exec_only_of_fits hexec (by simp only [footprint]; decide +kernel), hrx, hsync, hlost, ?_⟩
    rintro err f _ hf rfl
    have hsends := (s.bytesSent c sent).ownHeader_sends (c := c) (err := err) (f := f) (by rw [hcli]; exact hf)
    rwa [hcli, (s.bytesSent_bound c sent).egressRoom] at hsends
  case leaf =>
    intro s c sent key err f h16 ht hm hs hk hf
    have hexec := exec_egressHeader_leaf s (sent := sent) h16 ht hm hs hk
    have hbound := s.bytesSent_bound c sent
    have hstep : (((s.bytesSent c sent).cli c).leaves.get {} key).rx.step.1 = .frame err f := by
      rw [State.bytesSent, State.setCli_cli]
      exact hf
    refine ⟨_, hexec, exec_only_of_fits hexec (by simp only [footprint]; decide +kernel), State.leafHeader_turn _ hstep,
      fun hfail => ?_, fun hfail hvid => ?_⟩
    · rw [State.leafHeader_frame _ hstep, if_pos (by rw [hbound.leafServerFail, hfail])]
      rfl
    · rw [State.leafHeader_frame _ hstep, if_neg (by rw [hbound.leafServerFail, hfail]; decide),
        if_pos (by rw [hbound.vidLeaf]; exact bne_iff_ne.mpr hvid)]
      obtain ⟨hevt, hcount⟩ := ((s.bytesSent c sent).leafTurned c key).spoofed_shows c
      exact ⟨hevt, hcount.trans (by rw [State.rd_leafTurned _ (by decide), State.bytesSent, State.rd_setCli])⟩
  case word =>
    intro s c w rest h16 ht hw
    have hexec := exec_cowReceived s h16 ht hw
    exact ⟨_, hexec, exec_only_of_fits hexec (by simp only [footprint]; decide +kernel), s.cowTaken_cows c w rest,
      fun _ _ hfields => s.cowTaken_good c w rest hfields, fun hfields => s.cowTaken_bad c w rest hfields⟩
  case noWord => exact fun s c h16 h => exec_cowReceived_none s h16 h
  case resume =>
    intro s c h16
    obtain ⟨t, hexec, hready⟩ := exec_egressResume s (c := c) h16
    refine ⟨t, hexec, exec_only_of_fits hexec (by simp only [footprint]; decide +kernel), hready, fun h => ?_⟩
    rw [exec_egressResume_held s h16 h] at hexec
    exact (Host.Outcome.next.inj hexec).symm
  case condition =>
    intro s c h16 ht
    have hexec := exec_ingressCsf s (c := c) h16
    have hfails : (s.setCli c { s.cli c with condition := true }).ingressFails c = true := by
      rw [State.ingressFails, State.setCli_cli, State.rd_setCli, bne_iff_ne.mpr ht]
      rfl
    refine ⟨_, hexec, exec_only_of_fits hexec (by simp only [footprint]; decide +kernel), s.conditionSet_condition c true, ?_,
      fun hwas => State.refreshIngress_raises _ hfails hwas⟩
    rw [s.conditionSet_csf, bne_iff_ne.mpr ht]
    rfl
  case clear =>
    intro s c h16
    have hexec := exec_ingressCsfClear s (c := c) h16
    refine ⟨_, hexec, exec_only_of_fits hexec (by simp only [footprint]; decide +kernel), s.conditionSet_condition c false, fun hgood => ?_⟩
    rw [s.conditionSet_csf, List.all_eq_true.mpr hgood]
    exact Bool.and_false _

end Sys2Proof.Machine
end

section
/-! The CM of a client fixed, copies of units stored, and units played or failed (R213, R215, R265, R266, R276 to R278, R281 to R283); and the
obligation on them. That a path in sequence has brought no copy of a unit is read from the newest copy that it has brought (log entry 55), and
that a client in signal fail of its group fails as it does by its line is log entry 54. -/

namespace Sys2Proof.Machine

open Sys2Proof

variable (s : State)

/-! ### What Bend holds for a group -/

@[simp] theorem State.wr_grp (f : Fld) (v i j k g : Nat) : (s.wr f v i j k).grp g = s.grp g := rfl
@[simp] theorem State.count_grp (id : RegId) (d i j k g : Nat) : (s.count id d i j k).grp g = s.grp g := rfl
@[simp] theorem State.setCli_grp (c : Nat) (x : ClientInt) (g : Nat) : (s.setCli c x).grp g = s.grp g := rfl
@[simp] theorem State.raise_grp (f : Fld) (code dom : Nat) (params : List Nat) (exit : Bool) (i g : Nat) :
    (s.raise f code dom params exit i).grp g = s.grp g := by
  simp [State.grp]

/-- Copies of a path put aside leave what commands, play-out and storage hold. -/
theorem GroupInt.setPath_rest (x : GroupInt) (p : Nat) (y : PathInt) : (x.setPath p y).lockout = x.lockout ∧
    (x.setPath p y).force = x.force ∧ (x.setPath p y).last = x.last ∧ (x.setPath p y).store = x.store := by
  unfold GroupInt.setPath
  split <;> exact ⟨rfl, rfl, rfl, rfl⟩

theorem GroupInt.setPath_path (x : GroupInt) (p : Nat) (y : PathInt) : (x.setPath p y).path p = y := by
  unfold GroupInt.setPath GroupInt.path
  split <;> rfl

/-! ### Counters of groups and of memory ports -/

theorem State.rd_count_pg (d : Nat) (g : Pg) {j : Nat} (h : j < 8) :
    (s.count .BEND_PG_CNT d g j).rd .BEND_PG_CNT_COUNT g j = (s.rd .BEND_PG_CNT_COUNT g j + d) % 2 ^ 48 :=
  (s.get_count_counter d (r := ⟨.BEND_PG_CNT, g, j, 0⟩) (show RegId.BEND_PG_CNT ∈ counterIds by decide)
    (regValid_two_of_dims (n := 16) (m := 8) rfl g ⟨j, h⟩)).1

theorem State.rd_count_port (d : Nat) (port : MemPort) {j : Nat} (h : j < 6) :
    (s.count .BCKT_MEM_CNT d port j).rd .BCKT_MEM_CNT_COUNT port j = (s.rd .BCKT_MEM_CNT_COUNT port j + d) % 2 ^ 48 :=
  (s.get_count_counter d (r := ⟨.BCKT_MEM_CNT, port, j, 0⟩) (show RegId.BCKT_MEM_CNT ∈ counterIds by decide)
    (regValid_two_of_dims (n := 2) (m := 6) rfl port ⟨j, h⟩)).1

section
variable {j : Nat} (h : j ≠ 4) (a : Nat)
include h

/-- An event leaves a port's count of late reads. -/
theorem State.rd_raise_port {f : Fld} (hf : Fld.apart f .BCKT_MEM_CNT_COUNT = true) (code dom : Nat) (params : List Nat) (exit : Bool) (i : Nat) :
    (s.raise f code dom params exit i).rd .BCKT_MEM_CNT_COUNT a j = s.rd .BCKT_MEM_CNT_COUNT a j := by
  unfold State.raise State.rd
  rw [State.reg_event_port _ h]
  exact s.rd_wr_apart _ _ _ _ _ _ _ hf

theorem State.rd_refreshEgress_port (c : Nat) : (s.refreshEgress c).rd .BCKT_MEM_CNT_COUNT a j = s.rd .BCKT_MEM_CNT_COUNT a j := by
  have hflds : ∀ f ∈ egressFlds, Fld.apart f .BCKT_MEM_CNT_COUNT = true := by decide
  have hevents : ∀ f ∈ egressEvents, Fld.apart f .BCKT_MEM_CNT_COUNT = true := by decide
  refine s.refreshEgress_holds c (P := fun t => t.rd .BCKT_MEM_CNT_COUNT a j = s.rd .BCKT_MEM_CNT_COUNT a j) rfl
    (fun t f hf v ht => ?_) (fun t f hf code dom ht => ?_) (fun t key ht => ?_) (fun t ht => ?_)
  · rw [State.rd_wr_apart _ _ _ _ _ _ _ _ (hflds f hf), ht]
  · rw [State.rd_raise_port _ h _ (hevents f hf), ht]
  · rw [State.rd_endLeaf _ (.inl (by decide)), ht]
  · rw [State.rd_endFrame _ (.inl (by decide)), ht]

end

/-! ### Signal fail played to a client (R278) -/

theorem State.setUnitFail_only (g : Nat) (v : Bool) : s.kept egressFoot (s.setUnitFail g v) :=
  State.setUnitFail_kept s g v (State.kept_refl _ s) rfl

theorem State.setUnitFail_unitFail (g : Nat) (v : Bool) : ((s.setUnitFail g v).cli (s.rd .BEND_PG_CFG_CLIENT g)).unitFail = v := by
  unfold State.setUnitFail
  dsimp only
  split
  next h => exact h
  next =>
    obtain ⟨r, l, hcli⟩ := (s.setCli (s.rd .BEND_PG_CFG_CLIENT g) { s.cli (s.rd .BEND_PG_CFG_CLIENT g) with unitFail := v }).refreshEgress_cli
      (s.rd .BEND_PG_CFG_CLIENT g)
    rw [hcli, State.setCli_cli]

theorem State.rd_setUnitFail_port (g : Nat) (v : Bool) {j : Nat} (h : j ≠ 4) (a : Nat) :
    (s.setUnitFail g v).rd .BCKT_MEM_CNT_COUNT a j = s.rd .BCKT_MEM_CNT_COUNT a j := by
  unfold State.setUnitFail
  dsimp only
  split
  · rfl
  · rw [State.rd_refreshEgress_port _ h, State.rd_setCli]

/-! ### A unit without a good copy (R276, R278) -/

/-- Counted, and reported at most once per second. -/
def State.unitBad (s : State) (g : Nat) : State :=
  let t := s.count .BEND_PG_CNT 1 g 6
  if (t.grp g).badSaid then t
  else (t.setGrp g { t.grp g with badSaid := true }).raise .BEND_EVT_BOTH_BAD 0x7804 (t.pgDom g) [g, 0]

theorem State.unitBad_grp (g : Nat) : ∃ b, (s.unitBad g).grp g = { s.grp g with badSaid := b } := by
  unfold State.unitBad
  dsimp only
  split
  · exact ⟨_, rfl⟩
  · exact ⟨_, by rw [State.raise_grp, State.setGrp_grp, State.count_grp]⟩

theorem State.unitBad_cli (g c : Nat) : (s.unitBad g).cli c = s.cli c := by
  unfold State.unitBad
  dsimp only
  split
  · rw [State.count_cli]
  · rw [State.raise_cli, State.setGrp_cli, State.count_cli]

section
variable (g : Nat)

theorem State.rd_unitBad {f : Fld} {b : Nat} (hf : Fld.apart .BEND_EVT_BOTH_BAD f = true) (hm : eventMask.testBit (regBit f.id) = false)
    (h : f.id ≠ .BEND_PG_CNT ∨ b ≠ 6) (a c : Nat) : (s.unitBad g).rd f a b c = s.rd f a b c := by
  unfold State.unitBad
  dsimp only
  split
  · exact s.rd_count_apart _ _ _ _ _ h
  · rw [State.rd_raise_apart _ _ _ _ _ _ _ _ _ hf hm, State.rd_setGrp]
    exact s.rd_count_apart _ _ _ _ _ h

theorem State.rd_unitBad_port {j : Nat} (h : j ≠ 4) (a : Nat) :
    (s.unitBad g).rd .BCKT_MEM_CNT_COUNT a j = s.rd .BCKT_MEM_CNT_COUNT a j := by
  unfold State.unitBad
  dsimp only
  split
  · exact s.rd_count_apart _ _ _ _ _ (.inl (by decide))
  · rw [State.rd_raise_port _ h _ (by decide), State.rd_setGrp]
    exact s.rd_count_apart _ _ _ _ _ (.inl (by decide))

end

theorem State.unitBad_count (g : Pg) : (s.unitBad g).rd .BEND_PG_CNT_COUNT g 6 = (s.rd .BEND_PG_CNT_COUNT g 6 + 1) % 2 ^ 48 := by
  unfold State.unitBad
  dsimp only
  split
  · exact s.rd_count_pg _ _ (by decide)
  · rw [State.rd_raise_apart _ _ _ _ _ _ _ _ _ (by decide) rfl, State.rd_setGrp]
    exact s.rd_count_pg _ _ (by decide)

/-! ### A unit played (R276) -/

/-- The unit is the newest played, and what is not after it leaves the store. -/
def State.unitMarked (s : State) (g q j : Nat) : State :=
  (s.setGrp g { s.grp g with last := some (q, j), store := (s.grp g).store.filter fun c => unitAfter (c.q, c.j) (q, j) }).wr
    .BEND_PG_STAT_Q q g

/-- A copy played is counted of its path, and ends signal fail; one whose tag has failed since it was stored counts as bad. -/
def State.unitCounted (s : State) (g : Nat) (u : UnitCopy) : State :=
  let t := (s.count .BEND_PG_CNT 1 g (4 + u.path)).setUnitFail g false
  if u.tagBad then t.unitBad g else t

/-- The words of a copy go to Sheet. -/
def State.unitWords (s : State) (c : Nat) (u : UnitCopy) : State :=
  (if u.cow.isEmpty then s else s.takeCow c u.cow).takeWords 1024 c (u.words.map fun b => (b.1, b.2 || u.tagBad))

section
variable (g q j : Nat)

theorem State.playUnit_none : s.playUnit g q j none = ((s.unitMarked g q j).unitBad g).setUnitFail g true := rfl

theorem State.playUnit_some (u : UnitCopy) :
    s.playUnit g q j (some u) = ((s.unitMarked g q j).unitCounted g u).unitWords (s.rd .BEND_PG_CFG_CLIENT g) u := rfl

theorem State.unitMarked_grp : (s.unitMarked g q j).grp g =
    { s.grp g with last := some (q, j), store := (s.grp g).store.filter fun c => unitAfter (c.q, c.j) (q, j) } := by
  rw [State.unitMarked, State.wr_grp, State.setGrp_grp]

theorem State.rd_unitMarked {f : Fld} (hf : Fld.apart .BEND_PG_STAT_Q f = true) (a b c : Nat) :
    (s.unitMarked g q j).rd f a b c = s.rd f a b c := by
  rw [State.unitMarked, State.rd_wr_apart _ _ _ _ _ _ _ _ hf, State.rd_setGrp]

end

theorem State.unitMarked_q (g : Pg) {q : Nat} (j : Nat) (h : q < 2 ^ 32) : (s.unitMarked g q j).rd .BEND_PG_STAT_Q g = q := by
  rw [State.unitMarked, State.rd_wr_one _ _ _ (by decide)]
  exact Nat.mod_eq_of_lt h

/-! ### The words of a unit at Sheet (R213, R215) -/

theorem State.takeWord_unitFail (c : Nat) (w : List RxByte) : ((s.takeWord c w).cli c).unitFail = (s.cli c).unitFail := by
  unfold State.takeWord
  dsimp only
  split_ifs <;> rw [State.setCli_cli]

theorem State.takeWords_unitFail (n : Nat) (c : Nat) (l : List RxByte) :
    ((State.takeWords n s c l).cli c).unitFail = (s.cli c).unitFail := by
  induction n generalizing s l with
  | zero => rfl
  | succ n ih =>
    unfold State.takeWords
    split
    · rfl
    · rw [ih, s.takeWord_unitFail]

theorem State.unitWords_unitFail (c : Nat) (u : UnitCopy) : ((s.unitWords c u).cli c).unitFail = (s.cli c).unitFail := by
  unfold State.unitWords
  rw [State.takeWords_unitFail]
  split
  · rfl
  · unfold State.takeCow
    dsimp only
    rw [State.setCli_cli]

theorem State.unitWords_only (c : Nat) (u : UnitCopy) : s.kept egressFoot (s.unitWords c u) := by
  refine State.takeWords_kept _ _ _ _ ?_ rfl
  split
  · exact State.kept_refl _ s
  · exact State.takeCow_kept s c _ (State.kept_refl _ s) rfl

/-! ### A copy counted -/

theorem State.unitCounted_grp (g : Nat) (u : UnitCopy) : ∃ b, (s.unitCounted g u).grp g = { s.grp g with badSaid := b } := by
  have hfail := State.kept_grp ((s.count .BEND_PG_CNT 1 g (4 + u.path)).setUnitFail_only g false) rfl g
  obtain ⟨b, hbad⟩ := ((s.count .BEND_PG_CNT 1 g (4 + u.path)).setUnitFail g false).unitBad_grp g
  unfold State.unitCounted
  dsimp only
  split
  · exact ⟨b, by rw [hbad, hfail, State.count_grp]⟩
  · exact ⟨_, by rw [hfail, State.count_grp]⟩

/-- A field that neither a copy's counts nor signal fail write. -/
theorem State.rd_unitCounted {f : Fld} {b : Nat} (hf : Fld.apart .BEND_EVT_BOTH_BAD f = true)
    (hm : egressFoot.testBit (regBit f.id) = false) (hmask : eventMask.testBit (regBit f.id) = false) (g : Nat) (u : UnitCopy)
    (h : f.id ≠ .BEND_PG_CNT ∨ b ≠ 6 ∧ b ≠ 4 + u.path) (a c : Nat) : (s.unitCounted g u).rd f a b c = s.rd f a b c := by
  have hfail := State.kept_rd ((s.count .BEND_PG_CNT 1 g (4 + u.path)).setUnitFail_only g false) f hm a b c
  have hcount := s.rd_count_apart (g := f) (b := b) 1 g 0 a c (h.imp_right And.right)
  unfold State.unitCounted
  dsimp only
  split
  · rw [State.rd_unitBad _ _ hf hmask (h.imp_right And.left), hfail, hcount]
  · rw [hfail, hcount]

theorem State.unitCounted_unitFail (g : Nat) (u : UnitCopy) :
    ((s.unitCounted g u).cli (s.rd .BEND_PG_CFG_CLIENT g)).unitFail = false := by
  have hfail := (s.count .BEND_PG_CNT 1 g (4 + u.path)).setUnitFail_unitFail g false
  rw [s.rd_count_apart _ _ _ _ _ (.inl (by decide))] at hfail
  unfold State.unitCounted
  dsimp only
  split
  · rwa [State.unitBad_cli]
  · exact hfail

theorem State.unitCounted_count (g : Pg) {u : UnitCopy} (h : u.path < 2) :
    (s.unitCounted g u).rd .BEND_PG_CNT_COUNT g (4 + u.path) = (s.rd .BEND_PG_CNT_COUNT g (4 + u.path) + 1) % 2 ^ 48 ∧
      (s.unitCounted g u).rd .BEND_PG_CNT_COUNT g 6 = (s.rd .BEND_PG_CNT_COUNT g 6 + (if u.tagBad then 1 else 0)) % 2 ^ 48 := by
  have hfail (k : Nat) := State.kept_rd ((s.count .BEND_PG_CNT 1 g (4 + u.path)).setUnitFail_only g false) .BEND_PG_CNT_COUNT rfl g k 0
  have hpath := s.rd_count_pg 1 g (j := 4 + u.path) (by omega)
  have hsix := s.rd_count_apart (id := .BEND_PG_CNT) (g := .BEND_PG_CNT_COUNT) (b := 6) (j := 4 + u.path) 1 g 0 g 0 (.inr (by omega))
  unfold State.unitCounted
  dsimp only
  split
  · rw [State.rd_unitBad _ _ (by decide) rfl (.inr (by omega)), State.unitBad_count, hfail, hfail, hpath, hsix]
    exact ⟨rfl, rfl⟩
  · rw [hfail, hfail, hpath, hsix]
    exact ⟨rfl, (Nat.mod_eq_of_lt (bits_lt _ 47 0)).symm⟩

/-! ### What the play-out of a unit leaves -/

/-- The unit is the newest played, and only later ones stay stored. -/
theorem State.playUnit_grp (g q j : Nat) (copy : Option UnitCopy) : ∃ b, (s.playUnit g q j copy).grp g =
    { s.grp g with last := some (q, j), store := (s.grp g).store.filter fun c => unitAfter (c.q, c.j) (q, j), badSaid := b } := by
  cases copy with
  | none =>
    obtain ⟨b, hbad⟩ := (s.unitMarked g q j).unitBad_grp g
    exact ⟨b, by rw [s.playUnit_none, State.kept_grp (State.setUnitFail_only _ _ _) rfl, hbad, s.unitMarked_grp]⟩
  | some u =>
    obtain ⟨b, hcounted⟩ := (s.unitMarked g q j).unitCounted_grp g u
    exact ⟨b, by rw [s.playUnit_some, State.kept_grp (State.unitWords_only _ _ _) rfl, hcounted, s.unitMarked_grp]⟩

/-- A field of a group that only the unit's mark may write. -/
theorem State.rd_playUnit_marked {f : Fld} {b : Nat} (hf : Fld.apart .BEND_EVT_BOTH_BAD f = true)
    (hm : egressFoot.testBit (regBit f.id) = false) (hmask : eventMask.testBit (regBit f.id) = false) (g q j : Nat) (copy : Option UnitCopy)
    (h : f.id ≠ .BEND_PG_CNT ∨ b ≠ 6 ∧ ∀ u, copy = some u → b ≠ 4 + u.path) (a c : Nat) :
    (s.playUnit g q j copy).rd f a b c = (s.unitMarked g q j).rd f a b c := by
  cases copy with
  | none =>
    rw [s.playUnit_none, State.kept_rd (State.setUnitFail_only _ _ _) f hm, State.rd_unitBad _ _ hf hmask (h.imp_right And.left)]
  | some u =>
    rw [s.playUnit_some, State.kept_rd (State.unitWords_only _ _ _) f hm,
      State.rd_unitCounted _ hf hm hmask _ _ (h.imp_right fun ⟨h6, hp⟩ => ⟨h6, hp u rfl⟩)]

theorem State.playUnit_q (g : Pg) {q : Nat} (j : Nat) (copy : Option UnitCopy) (h : q < 2 ^ 32) :
    (s.playUnit g q j copy).rd .BEND_PG_STAT_Q g = q := by
  rw [s.rd_playUnit_marked rfl rfl rfl _ _ _ _ (.inl (by decide)), s.unitMarked_q g j h]

/-- The counts of copies of a path by their classes are not play-out's. -/
theorem State.playUnit_classes (g q j : Nat) (copy : Option UnitCopy) {k : Nat} (h : k < 4) :
    (s.playUnit g q j copy).rd .BEND_PG_CNT_COUNT g k = s.rd .BEND_PG_CNT_COUNT g k := by
  rw [s.rd_playUnit_marked rfl rfl rfl _ _ _ _ (.inr ⟨by omega, fun u _ => by omega⟩), s.rd_unitMarked _ _ _ (by decide)]

/-- A unit without a copy is counted, and its client is in signal fail. -/
theorem State.playUnit_fails (g : Pg) (q j : Nat) :
    (s.playUnit g q j none).rd .BEND_PG_CNT_COUNT g 6 = (s.rd .BEND_PG_CNT_COUNT g 6 + 1) % 2 ^ 48 ∧
      ((s.playUnit g q j none).cli (s.rd .BEND_PG_CFG_CLIENT g)).unitFail = true := by
  have hfail := ((s.unitMarked g q j).unitBad g).setUnitFail_unitFail g true
  rw [State.rd_unitBad _ _ (by decide) rfl (.inl (by decide)), s.rd_unitMarked _ _ _ (by decide)] at hfail
  rw [s.playUnit_none]
  refine ⟨?_, hfail⟩
  rw [State.kept_rd (State.setUnitFail_only _ _ _) _ rfl, State.unitBad_count, s.rd_unitMarked _ _ _ (by decide)]

theorem State.playUnit_port (g q j : Nat) {k : Nat} (h : k ≠ 4) (a : Nat) :
    (s.playUnit g q j none).rd .BCKT_MEM_CNT_COUNT a k = s.rd .BCKT_MEM_CNT_COUNT a k := by
  rw [s.playUnit_none, State.rd_setUnitFail_port _ _ _ h, State.rd_unitBad_port _ _ h, s.rd_unitMarked _ _ _ (by decide)]

/-- A copy played is counted, and its client is not in signal fail. -/
theorem State.playUnit_plays (g : Pg) (q j : Nat) {u : UnitCopy} (h : u.path < 2) :
    (s.playUnit g q j (some u)).rd .BEND_PG_CNT_COUNT g (4 + u.path) = (s.rd .BEND_PG_CNT_COUNT g (4 + u.path) + 1) % 2 ^ 48 ∧
      (s.playUnit g q j (some u)).rd .BEND_PG_CNT_COUNT g 6 = (s.rd .BEND_PG_CNT_COUNT g 6 + (if u.tagBad then 1 else 0)) % 2 ^ 48 ∧
      ((s.playUnit g q j (some u)).cli (s.rd .BEND_PG_CFG_CLIENT g)).unitFail = false := by
  have hmarked (k : Nat) := s.rd_unitMarked g q j (f := .BEND_PG_CNT_COUNT) (by decide) g k 0
  have hfail := (s.unitMarked g q j).unitCounted_unitFail g u
  obtain ⟨hpath, hsix⟩ := (s.unitMarked g q j).unitCounted_count g h
  rw [s.rd_unitMarked _ _ _ (by decide)] at hfail
  rw [s.playUnit_some, State.kept_rd (State.unitWords_only _ _ _) _ rfl, State.kept_rd (State.unitWords_only _ _ _) _ rfl,
    State.unitWords_unitFail, hpath, hsix, hmarked, hmarked]
  exact ⟨rfl, rfl, hfail⟩

/-! ### The play-out of a unit (R274, R276, R282) -/

/-- What the count of a group's copies changes. -/
def pgCntFoot : Nat := footOf [.BEND_PG_CNT] []

theorem State.count_pgCnt (d i j : Nat) : s.kept pgCntFoot (s.count .BEND_PG_CNT d i j) :=
  State.count_kept s _ _ _ _ _ (State.kept_refl _ s) rfl

/-- Copies that paths in sequence have not brought, counted. -/
def State.missingCounted (s : State) (g q j : Nat) : State :=
  let t := if s.copyMissing g 0 q j then s.count .BEND_PG_CNT 1 g 1 else s
  if t.copyMissing g 1 q j then t.count .BEND_PG_CNT 1 g 3 else t

section
variable {s} {t : State} (h : s.kept pgCntFoot t)
include h

theorem State.kept_copyMissing (g p q j : Nat) : t.copyMissing g p q j = s.copyMissing g p q j := by
  unfold State.copyMissing State.localPath
  rw [State.kept_on h _ rfl, State.kept_rd h _ rfl, State.kept_on h _ rfl, State.kept_grp h rfl]

theorem State.kept_excluded (g p : Nat) : t.excluded g p = s.excluded g p := by
  unfold State.excluded
  rw [State.kept_grp h rfl]

theorem State.kept_copyToPlay (g q j : Nat) : t.copyToPlay g q j = s.copyToPlay g q j := by
  have heligible (p : Nat) : t.pathEligible g p = s.pathEligible g p := by
    unfold State.pathEligible
    rw [State.kept_rd h _ rfl, State.kept_rd h _ rfl, State.kept_on h _ rfl]
  have hplayable (c : UnitCopy) : t.playable g c = s.playable g c := by
    unfold State.playable
    simp only [State.kept_grp h rfl, State.kept_excluded h, heligible, State.kept_on h .BEND_PATH_ST_SSF rfl,
      State.kept_on h .BEND_PATH_ST_INSEQ rfl, State.kept_rd h .BEND_PATH_ST_PSTATE rfl]
  unfold State.copyToPlay
  simp only [hplayable, State.kept_grp h rfl]

theorem State.kept_storable (g p : Nat) : t.storable g p = s.storable g p := by
  unfold State.storable
  rw [State.kept_excluded h, State.kept_on h _ rfl, State.kept_grp h rfl]

end

section
variable (g : Pg) (q j : Nat)

theorem State.missingCounted_eq : s.missingCounted g q j =
    let t := if s.copyMissing g 0 q j then s.count .BEND_PG_CNT 1 g 1 else s
    if s.copyMissing g 1 q j then t.count .BEND_PG_CNT 1 g 3 else t := by
  unfold State.missingCounted
  dsimp only
  split
  · rw [State.kept_copyMissing (s.count_pgCnt _ _ _)]
  · rfl

theorem State.missingCounted_only : s.kept pgCntFoot (s.missingCounted g q j) := by
  have hcount (t : State) (v : Bool) (k : Nat) (ht : s.kept pgCntFoot t) :
      s.kept pgCntFoot (if v then t.count .BEND_PG_CNT 1 g k else t) := by
    split
    · exact State.count_kept t .BEND_PG_CNT 1 g k 0 ht rfl
    · exact ht
  rw [s.missingCounted_eq]
  exact hcount _ _ _ (hcount _ _ _ (State.kept_refl _ s))

theorem State.missingCounted_shows :
    (s.copyMissing g 0 q j = true → (s.missingCounted g q j).rd .BEND_PG_CNT_COUNT g 1 = (s.rd .BEND_PG_CNT_COUNT g 1 + 1) % 2 ^ 48) ∧
    (s.copyMissing g 1 q j = true → (s.missingCounted g q j).rd .BEND_PG_CNT_COUNT g 3 = (s.rd .BEND_PG_CNT_COUNT g 3 + 1) % 2 ^ 48) ∧
    ∀ k, 4 ≤ k → (s.missingCounted g q j).rd .BEND_PG_CNT_COUNT g k = s.rd .BEND_PG_CNT_COUNT g k := by
  have hzero (k : Nat) (h : k ≠ 1) : (if s.copyMissing g 0 q j then s.count .BEND_PG_CNT 1 g 1 else s).rd .BEND_PG_CNT_COUNT g k =
      s.rd .BEND_PG_CNT_COUNT g k := by
    split
    · exact s.rd_count_apart _ _ _ _ _ (.inr h)
    · rfl
  have hone (t : State) (k : Nat) (h : k ≠ 3) : (if s.copyMissing g 1 q j then t.count .BEND_PG_CNT 1 g 3 else t).rd .BEND_PG_CNT_COUNT g k =
      t.rd .BEND_PG_CNT_COUNT g k := by
    split
    · exact t.rd_count_apart _ _ _ _ _ (.inr h)
    · rfl
  rw [s.missingCounted_eq]
  dsimp only
  refine ⟨fun h => ?_, fun h => ?_, fun k hk => by rw [hone _ _ (by omega), hzero _ (by omega)]⟩
  · rw [hone _ _ (by decide), if_pos h, s.rd_count_pg 1 g (by decide)]
  · rw [if_pos h, State.rd_count_pg _ 1 g (by decide), hzero _ (by decide)]

end

section
variable {g : Pg} {q : BitVec 32} {j now : Nat} {late : Option MemPort} (h15 : s.alive 15 = true)
include h15

theorem exec_unitPlayout_early (h : s.unitDue g q.toNat j = false ∨ ∃ v, s.playTime g q.toNat j = some v ∧ now < v) :
    exec (.unitPlayout g q j now late) s = .next s := by
  change execUnitPlayout g q j now late s = _
  unfold execUnitPlayout
  rw [act_next s 15 _ h15]
  refine congrArg _ (if_pos ?_)
  rcases h with h | ⟨v, hv, hnow⟩
  · simp [h]
  · simp [hv, hnow]

variable (hen : s.on .BEND_PG_CFG_EN g = true) (h4 : s.rd .BEND_PG_STAT_GSTATE g ≠ 4) (hdue : s.unitDue g q.toNat j = true)
  (htime : ∀ v, s.playTime g q.toNat j = some v → v ≤ now)
include hen h4 hdue htime

theorem exec_unitPlayout_due : exec (.unitPlayout g q j now late) s = .next
    (match s.copyToPlay g q.toNat j, late.filter fun _ => s.on .BEND_PG_CFG_DSK_LOC g with
    | some c, some port => (((s.missingCounted g q.toNat j).count .BCKT_MEM_CNT 1 port 5).count .BEND_PG_CNT 1 g (2 * c.path + 1)).playUnit g
        q.toNat j none
    | copy, _ => (s.missingCounted g q.toNat j).playUnit g q.toNat j copy) := by
  have hkept := s.missingCounted_only g q.toNat j
  have htimely : (s.playTime g q.toNat j).any (fun t => decide (now < t)) = false := by
    cases hv : s.playTime g q.toNat j with
    | none => rfl
    | some v => simpa using htime v hv
  rw [← State.kept_copyToPlay hkept, ← State.kept_on hkept .BEND_PG_CFG_DSK_LOC rfl]
  change execUnitPlayout g q j now late s = _
  unfold execUnitPlayout
  rw [act_next s 15 _ h15, if_neg (by simp [hen, h4, hdue, htimely])]
  rfl

theorem exec_unitPlayout_late {c : UnitCopy} {port : MemPort} (hc : s.copyToPlay g q.toNat j = some c) (hl : late = some port)
    (hdsk : s.on .BEND_PG_CFG_DSK_LOC g = true) : exec (.unitPlayout g q j now late) s = .next
      ((((s.missingCounted g q.toNat j).count .BCKT_MEM_CNT 1 port 5).count .BEND_PG_CNT 1 g (2 * c.path + 1)).playUnit g q.toNat j none) := by
  rw [exec_unitPlayout_due s h15 hen h4 hdue htime, hc, hl, hdsk]
  rfl

theorem exec_unitPlayout_timely (h : s.copyToPlay g q.toNat j = none ∨ late = none ∨ s.on .BEND_PG_CFG_DSK_LOC g = false) :
    exec (.unitPlayout g q j now late) s = .next ((s.missingCounted g q.toNat j).playUnit g q.toNat j (s.copyToPlay g q.toNat j)) := by
  rw [exec_unitPlayout_due s h15 hen h4 hdue htime]
  cases hc : s.copyToPlay g q.toNat j with
  | none => rfl
  | some c =>
    have hnone : (late.filter fun _ => s.on .BEND_PG_CFG_DSK_LOC g) = none := by
      rcases h with h | h | h
      · rw [hc] at h
        cases h
      · rw [h]
        rfl
      · rw [h]
        cases late <;> rfl
    rw [hnone]

end

/-! ### A copy completed (R276, R282) -/

/-- A copy stored, unless its path may not store or a good copy of the unit is stored. -/
def State.copyStored (s : State) (g p : Nat) (c : UnitCopy) : State :=
  let same (d : UnitCopy) : Bool := d.q == c.q && d.j == c.j
  let kept (d : UnitCopy) : Bool := same d && d.good && !d.tagBad && !((c.good && !c.tagBad) && d.time == c.time && d.path == 1 && p == 0)
  if !s.storable g p || (s.grp g).store.any kept then s
  else s.setGrp g { s.grp g with store := (s.grp g).store.filter (fun d => !same d) ++ [c] }

theorem State.copyStored_grp {g p : Nat} {c : UnitCopy} : ∃ st, (s.copyStored g p c).grp g = { s.grp g with store := st } := by
  unfold State.copyStored
  dsimp only
  split
  · exact ⟨_, rfl⟩
  · exact ⟨_, by rw [State.setGrp_grp]⟩

/-- The index of the count of a copy of a path by its class. -/
def classIndex (p : Nat) (good late : Bool) : Nat := 2 * p + (if good && !late then 0 else 1)

/-- Whether a copy comes after the play-out of its unit; in Pass-through none does. -/
def State.copyLate (s : State) (g : Nat) (c : UnitCopy) : Bool :=
  !(s.rd .BEND_PG_STAT_GSTATE g == 4) && (s.playTime g c.q c.j).any fun t => decide (t ≤ c.time)

/-- A copy counted of its path by its class: good, or marked or late; one of a unit played before is not, but in Pass-through. -/
def State.copyClassed (s : State) (g p : Nat) (c : UnitCopy) : State :=
  if s.unitDue g c.q c.j || s.rd .BEND_PG_STAT_GSTATE g == 4 then
    s.count .BEND_PG_CNT 1 g (classIndex p (c.good && !c.tagBad) (s.copyLate g c))
  else s

section
variable {g p : Nat} {c : UnitCopy}

theorem State.completeCopy_eq : s.completeCopy g p c =
    let t := s.copyClassed g p c
    if !s.unitDue g c.q c.j || s.copyLate g c then t
    else if s.rd .BEND_PG_STAT_GSTATE g == 4 then
      if c.good && !c.tagBad && !t.excluded g p then t.playUnit g c.q c.j (some c) else t
    else t.copyStored g p c := rfl

theorem State.copyClassed_grp : (s.copyClassed g p c).grp g = s.grp g := by
  unfold State.copyClassed
  split <;> rfl

/-- Beside the newest unit played, the store and what has been reported, Bend holds for the group what it held. -/
theorem State.completeCopy_grp : ∃ l st b, (s.completeCopy g p c).grp g = { s.grp g with last := l, store := st, badSaid := b } := by
  obtain ⟨b, hplay⟩ := (s.copyClassed g p c).playUnit_grp g c.q c.j (some c)
  obtain ⟨st, hstored⟩ := (s.copyClassed g p c).copyStored_grp (g := g) (p := p) (c := c)
  rw [s.copyClassed_grp] at hplay hstored
  rw [s.completeCopy_eq]
  dsimp only
  split_ifs
  · exact ⟨_, _, _, s.copyClassed_grp⟩
  · exact ⟨_, _, b, hplay⟩
  · exact ⟨_, _, _, s.copyClassed_grp⟩
  · exact ⟨_, st, _, hstored⟩

/-- A copy of a unit that has been played is not stored. -/
theorem State.completeCopy_stale (h : s.unitDue g c.q c.j = false) : ((s.completeCopy g p c).grp g).store = (s.grp g).store := by
  rw [s.completeCopy_eq]
  dsimp only
  rw [if_pos (by rw [h]; rfl), s.copyClassed_grp]

theorem State.completeCopy_due {late : Bool} (h : s.unitDue g c.q c.j = true) (h4 : s.rd .BEND_PG_STAT_GSTATE g ≠ 4)
    (hl : late = (s.playTime g c.q c.j).any fun v => decide (v ≤ c.time)) : s.completeCopy g p c =
      if late then s.count .BEND_PG_CNT 1 g (classIndex p (c.good && !c.tagBad) late)
      else (s.count .BEND_PG_CNT 1 g (classIndex p (c.good && !c.tagBad) late)).copyStored g p c := by
  have hthrough : (s.rd .BEND_PG_STAT_GSTATE g == 4) = false := beq_false_of_ne h4
  have hlate : s.copyLate g c = late := by
    rw [State.copyLate, hthrough, hl]
    rfl
  rw [s.completeCopy_eq, State.copyClassed, h, hlate, hthrough]
  rfl

/-- In Pass-through a good copy is counted and played at once. -/
theorem State.completeCopy_through (h : s.unitDue g c.q c.j = true) (h4 : s.rd .BEND_PG_STAT_GSTATE g = 4)
    (hgood : (c.good && !c.tagBad) = true) (hx : s.excluded g p = false) :
    s.completeCopy g p c = (s.count .BEND_PG_CNT 1 g (2 * p)).playUnit g c.q c.j (some c) := by
  have hthrough : (s.rd .BEND_PG_STAT_GSTATE g == 4) = true := beq_iff_eq.mpr h4
  have hlate : s.copyLate g c = false := by rw [State.copyLate, hthrough]; rfl
  have hexcluded := (State.kept_excluded (s.count_pgCnt 1 g (2 * p)) g p).trans hx
  rw [s.completeCopy_eq, State.copyClassed, h, hlate, hthrough, hgood, classIndex]
  dsimp only
  simp only [Bool.not_true, Bool.not_false, Bool.true_or, Bool.or_false, Bool.and_true, if_true, Nat.add_zero,
    Bool.false_eq_true, if_false, hexcluded]

end

section
variable {g p : Nat} {c : UnitCopy}

theorem State.rd_copyStored (f : Fld) (i j k : Nat) : (s.copyStored g p c).rd f i j k = s.rd f i j k := by
  unfold State.copyStored
  dsimp only
  split
  · rfl
  · rw [State.rd_setGrp]

theorem State.copyStored_held (h : s.storable g p = false) : s.copyStored g p c = s := by
  unfold State.copyStored
  dsimp only
  rw [h, if_pos (by rfl)]

theorem State.copyStored_mem (h : s.storable g p = true)
    (hnone : ∀ x ∈ (s.grp g).store, x.q = c.q → x.j = c.j → x.good = false ∨ x.tagBad = true) :
    c ∈ ((s.copyStored g p c).grp g).store := by
  unfold State.copyStored
  dsimp only
  rw [if_neg, State.setGrp_grp]
  · exact List.mem_append_right _ (List.mem_singleton_self c)
  · simp only [h, Bool.not_true, Bool.false_or, List.any_eq_true, Bool.and_eq_true, beq_iff_eq, Bool.not_eq_true', not_exists]
    rintro x ⟨hx, ⟨⟨⟨hq, hj⟩, hgood⟩, htag⟩, -⟩
    rcases hnone x hx hq hj with hbad | hbad
    · rw [hbad] at hgood
      cases hgood
    · rw [hbad] at htag
      cases htag

end

/-- The oldest copy of a path put aside as the newest that it has brought, with its time. -/
def State.copyDone (s : State) (g p time : Nat) (c : UnitCopy) (rest : List UnitCopy) : State :=
  s.setGrp g ((s.grp g).setPath p { (s.grp g).path p with
    copies := rest, done := some (c.q, c.j), stamps := ((s.grp g).path p).stamps ++ [⟨c.q, c.j, time, true⟩] })

section
variable (g p time : Nat) (c : UnitCopy) (rest : List UnitCopy)

/-- Putting it aside leaves what was played, what is stored, and what may be. -/
theorem State.copyDone_rest : ((s.copyDone g p time c rest).grp g).last = (s.grp g).last ∧
    ((s.copyDone g p time c rest).grp g).store = (s.grp g).store ∧
    (s.copyDone g p time c rest).excluded g p = s.excluded g p ∧ (s.copyDone g p time c rest).storable g p = s.storable g p := by
  obtain ⟨hlock, hforce, hlast, hstore⟩ := GroupInt.setPath_rest (s.grp g) p { (s.grp g).path p with
    copies := rest, done := some (c.q, c.j), stamps := ((s.grp g).path p).stamps ++ [⟨c.q, c.j, time, true⟩] }
  have hexcluded : (s.copyDone g p time c rest).excluded g p = s.excluded g p := by
    unfold State.excluded GroupInt.forced
    rw [State.copyDone, State.setGrp_grp, hlock, hforce]
  refine ⟨by rw [State.copyDone, State.setGrp_grp, hlast], by rw [State.copyDone, State.setGrp_grp, hstore], hexcluded, ?_⟩
  unfold State.storable
  rw [hexcluded, State.copyDone, State.on_setGrp, State.setGrp_grp, GroupInt.setPath_path]

theorem State.copyDone_due (q j : Nat) : (s.copyDone g p time c rest).unitDue g q j = s.unitDue g q j := by
  obtain ⟨hlast, -⟩ := s.copyDone_rest g p time c rest
  unfold State.unitDue
  rw [hlast]

theorem State.copyDone_path : ((s.copyDone g p time c rest).grp g).path p = { (s.grp g).path p with
    copies := rest, done := some (c.q, c.j), stamps := ((s.grp g).path p).stamps ++ [⟨c.q, c.j, time, true⟩] } := by
  rw [State.copyDone, State.setGrp_grp, GroupInt.setPath_path]

end

/-- The copy put aside completes at its time. -/
def State.unitCompleted (s : State) (g p time : Nat) (c : UnitCopy) (rest : List UnitCopy) : State :=
  (s.copyDone g p time c rest).completeCopy g p { c with time := time }

section
variable {g : Pg} {p : Path} (time : Nat) (h15 : s.alive 15 = true)
include h15

theorem exec_unitCopyComplete {c : UnitCopy} {rest : List UnitCopy} (hen : s.on .BEND_PG_CFG_EN g = true) (hl : s.localPath g p = true)
    (h : ((s.grp g).path p).copies = c :: rest) : exec (.unitCopyComplete g p time) s = .next
      (s.unitCompleted g p time c rest) := by
  change execUnitCopyComplete g p time s = _
  unfold execUnitCopyComplete
  rw [act_next s 15 _ h15]
  dsimp only
  rw [hen, hl, h]
  rfl

theorem exec_unitCopyComplete_none (h : ((s.grp g).path p).copies = []) : exec (.unitCopyComplete g p time) s = .next s := by
  change execUnitCopyComplete g p time s = _
  unfold execUnitCopyComplete
  rw [act_next s 15 _ h15]
  dsimp only
  rw [h]
  cases s.on .BEND_PG_CFG_EN g && s.localPath g p <;> rfl

end

/-- A copy of a unit that is still due is counted by its class, and stored in time where its path may store and no good copy is. -/
theorem State.completeCopy_classes {g : Pg} {p : Path} {c : UnitCopy} {late : Bool} (h : s.unitDue g c.q c.j = true)
    (h4 : s.rd .BEND_PG_STAT_GSTATE g ≠ 4) (hl : late = (s.playTime g c.q c.j).any fun v => decide (v ≤ c.time)) :
    ((s.completeCopy g p c).grp g).last = (s.grp g).last ∧
      (s.completeCopy g p c).rd .BEND_PG_CNT_COUNT g (classIndex p (c.good && !c.tagBad) late) =
        (s.rd .BEND_PG_CNT_COUNT g (classIndex p (c.good && !c.tagBad) late) + 1) % 2 ^ 48 ∧
      (late = true ∨ s.storable g p = false → ((s.completeCopy g p c).grp g).store = (s.grp g).store) ∧
      (late = false → s.storable g p = true →
        (∀ x ∈ (s.grp g).store, x.q = c.q → x.j = c.j → x.good = false ∨ x.tagBad = true) →
        c ∈ ((s.completeCopy g p c).grp g).store) := by
  have hindex : classIndex p (c.good && !c.tagBad) late < 8 := by
    have hp := p.isLt
    unfold classIndex
    split <;> omega
  have hcount := s.rd_count_pg 1 g hindex
  have hstorable := State.kept_storable (s.count_pgCnt 1 g (classIndex p (c.good && !c.tagBad) late)) g p
  rw [s.completeCopy_due h h4 hl]
  cases late with
  | true => exact ⟨rfl, hcount, fun _ => rfl, fun hlate => (nomatch hlate)⟩
  | false =>
    rw [if_neg (by decide)]
    obtain ⟨st, hstored⟩ := (s.count .BEND_PG_CNT 1 g (classIndex p (c.good && !c.tagBad) false)).copyStored_grp (g := g) (p := p) (c := c)
    refine ⟨by rw [hstored, State.count_grp], by rw [State.rd_copyStored, hcount], fun hheld => ?_, fun _ hs hnone => ?_⟩
    · rw [State.copyStored_held _ (hstorable.trans (hheld.resolve_left (by decide))), State.count_grp]
    · exact State.copyStored_mem _ (hstorable.trans hs) hnone

section
variable (g : Pg) (p : Path) (time : Nat) (c : UnitCopy) (rest : List UnitCopy)

theorem State.unitCompleted_path : ((s.unitCompleted g p time c rest).grp g).path p = { (s.grp g).path p with
    copies := rest, done := some (c.q, c.j), stamps := ((s.grp g).path p).stamps ++ [⟨c.q, c.j, time, true⟩] } := by
  obtain ⟨l, st, b, hgrp⟩ := (s.copyDone g p time c rest).completeCopy_grp (g := g) (p := p) (c := { c with time := time })
  rw [← s.copyDone_path, State.unitCompleted, hgrp]
  rfl

theorem State.unitCompleted_stale (h : s.unitDue g c.q c.j = false) :
    ((s.unitCompleted g p time c rest).grp g).store = (s.grp g).store := by
  obtain ⟨-, hstore, -⟩ := s.copyDone_rest g p time c rest
  have hstale := (s.copyDone g p time c rest).completeCopy_stale (g := g) (p := p) (c := { c with time := time })
    ((s.copyDone_due g p time c rest c.q c.j).trans h)
  rw [State.unitCompleted, hstale, hstore]

variable {g p time c rest} (h : s.unitDue g c.q c.j = true)
include h

theorem State.unitCompleted_classes (h4 : s.rd .BEND_PG_STAT_GSTATE g ≠ 4) {late : Bool}
    (hl : late = ((s.copyDone g p time c rest).playTime g c.q c.j).any fun v => decide (v ≤ time)) :
    ((s.unitCompleted g p time c rest).grp g).last = (s.grp g).last ∧
      (s.unitCompleted g p time c rest).rd .BEND_PG_CNT_COUNT g (classIndex p (c.good && !c.tagBad) late) =
        (s.rd .BEND_PG_CNT_COUNT g (classIndex p (c.good && !c.tagBad) late) + 1) % 2 ^ 48 ∧
      (late = true ∨ s.storable g p = false → ((s.unitCompleted g p time c rest).grp g).store = (s.grp g).store) ∧
      (late = false → s.storable g p = true →
        (∀ x ∈ (s.grp g).store, x.q = c.q → x.j = c.j → x.good = false ∨ x.tagBad = true) →
        { c with time := time } ∈ ((s.unitCompleted g p time c rest).grp g).store) := by
  obtain ⟨hlast, hstore, -, hstorable⟩ := s.copyDone_rest g p time c rest
  have hclasses := State.completeCopy_classes (s.copyDone g p time c rest) (p := p) (c := { c with time := time })
    ((s.copyDone_due g p time c rest c.q c.j).trans h) (by rwa [State.copyDone, State.rd_setGrp]) hl
  rw [hlast, hstore, hstorable] at hclasses
  exact hclasses

/-- In Pass-through the copy is the newest unit played, shown and counted. -/
theorem State.unitCompleted_through (h4 : s.rd .BEND_PG_STAT_GSTATE g = 4) (hgood : (c.good && !c.tagBad) = true)
    (hx : s.excluded g p = false) (hp : c.path = p.val) (hq : c.q < 2 ^ 32) :
    ((s.unitCompleted g p time c rest).grp g).last = some (c.q, c.j) ∧ (s.unitCompleted g p time c rest).rd .BEND_PG_STAT_Q g = c.q ∧
      (s.unitCompleted g p time c rest).rd .BEND_PG_CNT_COUNT g (4 + p.val) = (s.rd .BEND_PG_CNT_COUNT g (4 + p.val) + 1) % 2 ^ 48 := by
  obtain ⟨-, -, hexcluded, -⟩ := s.copyDone_rest g p time c rest
  have hplayed := State.completeCopy_through (p := p) (c := { c with time := time }) (s.copyDone g p time c rest)
    ((s.copyDone_due g p time c rest c.q c.j).trans h) (by rwa [State.copyDone, State.rd_setGrp]) hgood (hexcluded.trans hx)
  dsimp only at hplayed
  rw [State.unitCompleted, hplayed]
  have hcounted := (s.copyDone g p time c rest).rd_count_apart (id := .BEND_PG_CNT) (g := .BEND_PG_CNT_COUNT) (j := 2 * p) (b := 4 + c.path) 1 g 0
    g 0 (.inr (by omega))
  generalize (s.copyDone g p time c rest).count .BEND_PG_CNT 1 g (2 * p) = u at hcounted ⊢
  obtain ⟨b, hgrp⟩ := u.playUnit_grp g c.q c.j (some { c with time := time })
  obtain ⟨hcount, -⟩ := u.playUnit_plays g c.q c.j (u := { c with time := time }) (hp.trans_lt p.isLt)
  dsimp only at hcount
  rw [hcounted, State.copyDone, State.rd_setGrp] at hcount
  rw [← hp]
  exact ⟨by rw [hgrp], u.playUnit_q g c.j _ hq, hcount⟩

end

/-! ### The CM of a client fixed (R215, R267, R268) -/

/-- What the lanes of a client under GMP bring, unless it is in signal fail. -/
def State.dataTaken (s : State) (c : Nat) (data : List Byte) : State :=
  if s.rd .SHET_CLI_CFG_MODE c != 0 && !s.on .SHET_CLI_STAT_CSF c then
    s.setCli c { s.cli c with
      txBytes := (s.cli c).txBytes ++ Config.hostIn (s.rd .SHET_CLI_CFG_TYPE c) (s.rd .SHET_CLI_CFG_MODE c) data }
  else s

section
variable (c : Nat) (data : List Byte)

theorem State.dataTaken_only : s.kept (footOf [] [.clients]) (s.dataTaken c data) := by
  unfold State.dataTaken
  split
  · exact State.setCli_kept s _ _ (State.kept_refl _ s) rfl
  · exact State.kept_refl _ s

theorem State.dataTaken_txCm : ((s.dataTaken c data).cli c).txCm = (s.cli c).txCm := by
  unfold State.dataTaken
  split
  · rw [State.setCli_cli]
  · rfl

/-- Which group a client is of, and who leads, is not for Sheet's streams. -/
theorem State.dataTaken_roles : (s.dataTaken c data).groupOf c = s.groupOf c ∧
    (∀ g, (s.dataTaken c data).on .BEND_PG_CFG_KIND g = s.on .BEND_PG_CFG_KIND g) ∧ (s.dataTaken c data).leads = s.leads := by
  have hkept := s.dataTaken_only c data
  refine ⟨?_, fun g => State.kept_on hkept _ rfl _ _ _, ?_⟩
  · unfold State.groupOf
    simp only [State.kept_on hkept .BEND_PG_CFG_EN rfl, State.kept_rd hkept .BEND_PG_CFG_CLIENT rfl]
  · unfold State.leads
    rw [State.kept_on hkept _ rfl, State.kept_rd hkept _ rfl, State.kept_rd hkept _ rfl]

theorem State.setCm_txCm (cm : Nat) : ((s.setCm c cm).cli c).txCm = some cm := by
  rw [State.setCm, State.setCli_cli]

theorem State.mapClient_txCm (m : Nat) : ((s.mapClient c m).1.cli c).txCm = (s.cli c).txCm := by
  unfold State.mapClient
  dsimp only
  split <;> rw [State.setCli_cli]

end

theorem State.mapClient_grp (c m g : Nat) : (s.mapClient c m).1.grp g = s.grp g :=
  State.kept_grp (m := footOf [] [.clients]) (State.mapClient_kept s c m (State.kept_refl _ s) rfl) rfl g

/-- A multiframe mapped takes the next q, and leaves the CM. -/
theorem State.mapGroup_shows (g c : Nat) : ((s.mapGroup g c).cli c).txCm = (s.cli c).txCm ∧
    ((s.mapGroup g c).grp g).txQ = ((s.grp g).txQ + 1) % 2 ^ 32 := by
  have hsent (t : State) (r : List Byte) : t.kept (footOf [.LNYD_STAT] [.lanyard, .out]) (t.sendLockstep r) :=
    State.sendLockstep_kept t r (State.kept_refl _ t) rfl
  unfold State.mapGroup
  dsimp only
  split
  · rw [State.wr_cli, State.wr_grp, State.kept_cli (hsent _ _) rfl, State.kept_grp (hsent _ _) rfl, State.setGrp_cli, State.setGrp_grp,
      s.mapClient_txCm, s.mapClient_grp]
    exact ⟨rfl, rfl⟩
  · rw [State.setGrp_cli, State.setGrp_grp, s.mapClient_txCm, s.mapClient_grp]
    exact ⟨rfl, rfl⟩

/-- A CM fixed, by the group of its client: the follower of a split group leaves it to the leader. -/
def State.cmFixed (s : State) (c cm : Nat) : Option Nat → State
  | none => s.setCm c cm
  | some g => if s.on .BEND_PG_CFG_KIND g && !s.leads then s else (s.setCm c cm).mapGroup g c

section
variable {c : Client} (target : Nat) (data : List Byte) (h16 : s.alive 16 = true) (ht : s.rd .SHET_CLI_CFG_TYPE c ≠ 0)
include h16 ht

theorem exec_gmpCmUpdate_line (hm : s.rd .SHET_CLI_CFG_MODE c = 3) : exec (.gmpCmUpdate c target data) s = .next
    (s.setCli c { s.cli c with txBytes := (s.cli c).txBytes ++ Config.hostIn (s.rd .SHET_CLI_CFG_TYPE c) 3 data }) := by
  change execGmpCmUpdate c target data s = _
  unfold execGmpCmUpdate
  rw [act_next s 16 _ h16, if_neg ht, if_pos hm, hm]

theorem exec_gmpCmUpdate_unslotted (hm : s.rd .SHET_CLI_CFG_MODE c ≠ 3) (hs : s.cliSlots c = []) :
    exec (.gmpCmUpdate c target data) s = .next s := by
  change execGmpCmUpdate c target data s = _
  unfold execGmpCmUpdate
  rw [act_next s 16 _ h16, if_neg ht, if_neg hm, if_pos (by rw [hs]; rfl)]

theorem exec_gmpCmUpdate {cm : Nat} (hm : s.rd .SHET_CLI_CFG_MODE c ≠ 3) (hs : s.cliSlots c ≠ [])
    (hcm : cm = if s.rd .SHET_CLI_CFG_MODE c = 0 then 0 else cmStep (s.cli c).txCm target (payloadWords (s.contSize c))) :
    exec (.gmpCmUpdate c target data) s = .next ((s.dataTaken c data).cmFixed c cm (s.groupOf c)) := by
  obtain ⟨hgroup, -⟩ := s.dataTaken_roles c data
  have hfixed : (if s.rd .SHET_CLI_CFG_MODE c != 0 then cmStep (s.cli c).txCm target (payloadWords (s.contSize c)) else 0) = cm := by
    by_cases h0 : s.rd .SHET_CLI_CFG_MODE c = 0
    · simp [hcm, h0]
    · simp [hcm, h0]
  change execGmpCmUpdate c target data s = _
  unfold execGmpCmUpdate
  rw [act_next s 16 _ h16, if_neg ht, if_neg hm, if_neg (by simpa using hs)]
  dsimp only
  rw [hfixed, ← State.dataTaken, hgroup]
  cases s.groupOf c <;> rfl

end

/-- What becomes of the CM of a client in slots: fixed, with the next q of its group, or left to the leader of a split group. -/
theorem gmpCmUpdate_does {c : Client} (target : Nat) (data : List Byte) {cm : Nat} (h16 : s.alive 16 = true)
    (ht : s.rd .SHET_CLI_CFG_TYPE c ≠ 0) (hm : s.rd .SHET_CLI_CFG_MODE c ≠ 3) (hs : s.cliSlots c ≠ [])
    (hcm : cm = if s.rd .SHET_CLI_CFG_MODE c = 0 then 0 else cmStep (s.cli c).txCm target (payloadWords (s.contSize c))) :
    ∃ t, exec (.gmpCmUpdate c target data) s = .next t ∧
      ((∀ g, s.groupOf c = some g → s.on .BEND_PG_CFG_KIND g = false ∨ s.leads = true) → (t.cli c).txCm = some cm ∧
        ∀ g, s.groupOf c = some g → (t.grp g).txQ = ((s.grp g).txQ + 1) % 2 ^ 32) ∧
      (∀ g, s.groupOf c = some g → s.on .BEND_PG_CFG_KIND g = true → s.leads = false →
        (t.cli c).txCm = (s.cli c).txCm ∧ t.groups = s.groups) := by
  obtain ⟨-, hkinds, hleader⟩ := s.dataTaken_roles c data
  refine ⟨_, exec_gmpCmUpdate s target data h16 ht hm hs hcm, fun hfix => ?_, fun g hg hkind hleads => ?_⟩
  · cases hg : s.groupOf c with
    | none => exact ⟨State.setCm_txCm _ _ _, fun g h => (nomatch h)⟩
    | some g =>
      have hlead : ¬((s.dataTaken c data).on .BEND_PG_CFG_KIND g && !(s.dataTaken c data).leads) = true := by
        rw [hkinds, hleader]
        rcases hfix g hg with h | h <;> simp [h]
      obtain ⟨hcm', hq⟩ := ((s.dataTaken c data).setCm c cm).mapGroup_shows g c
      have hgrp : ((s.dataTaken c data).setCm c cm).grp g = s.grp g := by
        rw [State.setCm, State.setCli_grp, State.kept_grp (s.dataTaken_only c data) rfl]
      rw [State.cmFixed, if_neg hlead, hcm', State.setCm_txCm]
      refine ⟨rfl, fun k hk => ?_⟩
      obtain rfl := Option.some.inj hk
      rw [hq, hgrp]
  · rw [hg, State.cmFixed, hkinds, hleader, hkind, hleads, if_pos (by rfl)]
    exact ⟨s.dataTaken_txCm c data, State.kept_part (s.dataTaken_only c data) 25 rfl⟩

/-- What the play-out of a unit marks and counts, and when its client fails. -/
def State.playsUnit (s : State) (g : Pg) (q j : Nat) (late : Option MemPort) (t : State) : Prop :=
  (t.grp g).last = some (q, j) ∧ t.rd .BEND_PG_STAT_Q g = q ∧ (∀ x ∈ (t.grp g).store, unitAfter (x.q, x.j) (q, j) = true) ∧
    (late = none → s.copyMissing g 0 q j = true → t.rd .BEND_PG_CNT_COUNT g 1 = (s.rd .BEND_PG_CNT_COUNT g 1 + 1) % 2 ^ 48) ∧
    (late = none → s.copyMissing g 1 q j = true → t.rd .BEND_PG_CNT_COUNT g 3 = (s.rd .BEND_PG_CNT_COUNT g 3 + 1) % 2 ^ 48) ∧
    (∀ x, s.copyToPlay g q j = some x → x.path < 2 → late = none ∨ s.on .BEND_PG_CFG_DSK_LOC g = false →
      t.rd .BEND_PG_CNT_COUNT g (4 + x.path) = (s.rd .BEND_PG_CNT_COUNT g (4 + x.path) + 1) % 2 ^ 48 ∧
      t.rd .BEND_PG_CNT_COUNT g 6 = (s.rd .BEND_PG_CNT_COUNT g 6 + (if x.tagBad then 1 else 0)) % 2 ^ 48 ∧
      (t.cli (s.rd .BEND_PG_CFG_CLIENT g)).unitFail = false) ∧
    (∀ x port, s.copyToPlay g q j = some x → late = some port → s.on .BEND_PG_CFG_DSK_LOC g = true →
      t.rd .BCKT_MEM_CNT_COUNT port 5 = (s.rd .BCKT_MEM_CNT_COUNT port 5 + 1) % 2 ^ 48 ∧
      (t.cli (s.rd .BEND_PG_CFG_CLIENT g)).unitFail = true) ∧
    (s.copyToPlay g q j = none → t.rd .BEND_PG_CNT_COUNT g 6 = (s.rd .BEND_PG_CNT_COUNT g 6 + 1) % 2 ^ 48 ∧
      (t.cli (s.rd .BEND_PG_CFG_CLIENT g)).unitFail = true)

/-- The newest unit played is shown, and none before it stays stored. -/
theorem State.playUnit_marks (g : Pg) {q : Nat} (j : Nat) (copy : Option UnitCopy) (hq : q < 2 ^ 32) :
    ((s.playUnit g q j copy).grp g).last = some (q, j) ∧ (s.playUnit g q j copy).rd .BEND_PG_STAT_Q g = q ∧
      ∀ x ∈ ((s.playUnit g q j copy).grp g).store, unitAfter (x.q, x.j) (q, j) = true := by
  obtain ⟨b, hgrp⟩ := s.playUnit_grp g q j copy
  refine ⟨by rw [hgrp], s.playUnit_q g j copy hq, fun x hx => ?_⟩
  rw [hgrp] at hx
  exact (List.mem_filter.mp hx).2

section
variable {g : Pg} {q : Nat} (j : Nat) {late : Option MemPort} (hq : q < 2 ^ 32)
include hq

/-- A stored copy that has not been read in time: the port counts it, and signal fail takes its place (R377). -/
theorem State.playsUnit_late {c : UnitCopy} {port : MemPort} (hc : s.copyToPlay g q j = some c) (hl : late = some port)
    (hdsk : s.on .BEND_PG_CFG_DSK_LOC g = true) : s.playsUnit g q j late
      ((((s.missingCounted g q j).count .BCKT_MEM_CNT 1 port 5).count .BEND_PG_CNT 1 g (2 * c.path + 1)).playUnit g q j none) := by
  have hkept := s.missingCounted_only g q j
  have hport (k : Nat) := State.kept_rd hkept .BCKT_MEM_CNT_COUNT rfl port k 0
  have hread := (s.missingCounted g q j).rd_count_port 1 port (j := 5) (by decide)
  obtain ⟨-, hfail⟩ := (((s.missingCounted g q j).count .BCKT_MEM_CNT 1 port 5).count .BEND_PG_CNT 1 g (2 * c.path + 1)).playUnit_fails g q j
  rw [State.rd_count_apart _ _ _ _ _ _ (.inl (by decide)), State.rd_count_apart _ _ _ _ _ _ (.inl (by decide)),
    State.kept_rd hkept _ rfl] at hfail
  obtain ⟨hlast, hshown, hstore⟩ := State.playUnit_marks
    (((s.missingCounted g q j).count .BCKT_MEM_CNT 1 port 5).count .BEND_PG_CNT 1 g (2 * c.path + 1)) g j none hq
  subst hl
  refine ⟨hlast, hshown, hstore, fun h => (nomatch h), fun h => (nomatch h), fun x _ _ h => ?_, fun x p _ hp _ => ⟨?_, hfail⟩, fun h => ?_⟩
  · rw [hdsk] at h
    rcases h with h | h <;> cases h
  · obtain rfl := Option.some.inj hp
    rw [State.playUnit_port _ _ _ _ (by decide), State.rd_count_apart _ _ _ _ _ _ (.inl (by decide)), hread, hport]
  · rw [hc] at h
    cases h

/-- A unit played from its stored copy, or failed without one. -/
theorem State.playsUnit_timely (h : s.copyToPlay g q j = none ∨ late = none ∨ s.on .BEND_PG_CFG_DSK_LOC g = false) :
    s.playsUnit g q j late ((s.missingCounted g q j).playUnit g q j (s.copyToPlay g q j)) := by
  obtain ⟨hzero, hone, hothers⟩ := s.missingCounted_shows g q j
  have hclient := State.kept_rd (s.missingCounted_only g q j) .BEND_PG_CFG_CLIENT rfl g 0 0
  obtain ⟨hlast, hshown, hstore⟩ := (s.missingCounted g q j).playUnit_marks g j (s.copyToPlay g q j) hq
  refine ⟨hlast, hshown, hstore, fun _ hm => ?_, fun _ hm => ?_, fun x hx hpath _ => ?_, fun x port hx hl hdsk => ?_, fun hnone => ?_⟩
  · rw [State.playUnit_classes _ _ _ _ _ (by decide), hzero hm]
  · rw [State.playUnit_classes _ _ _ _ _ (by decide), hone hm]
  · rw [hx]
    have hplays := (s.missingCounted g q j).playUnit_plays g q j hpath
    rwa [hothers _ (by omega), hothers _ (by decide), hclient] at hplays
  · rw [hx, hl, hdsk] at h
    rcases h with h | h | h <;> cases h
  · rw [hnone]
    have hfails := (s.missingCounted g q j).playUnit_fails g q j
    rwa [hothers _ (by decide), hclient] at hfails

end

theorem unitPlayout_plays {g : Pg} {q : BitVec 32} {j now : Nat} {late : Option MemPort} (h15 : s.alive 15 = true)
    (hen : s.on .BEND_PG_CFG_EN g = true) (h4 : s.rd .BEND_PG_STAT_GSTATE g ≠ 4) (hdue : s.unitDue g q.toNat j = true)
    (htime : ∀ v, s.playTime g q.toNat j = some v → v ≤ now) :
    ∃ t, exec (.unitPlayout g q j now late) s = .next t ∧ s.playsUnit g q.toNat j late t := by
  by_cases h : s.copyToPlay g q.toNat j = none ∨ late = none ∨ s.on .BEND_PG_CFG_DSK_LOC g = false
  · exact ⟨_, exec_unitPlayout_timely s h15 hen h4 hdue htime h, s.playsUnit_timely j q.isLt h⟩
  · simp only [not_or, Bool.not_eq_false] at h
    obtain ⟨hcopy, hlate, hdsk⟩ := h
    obtain ⟨c, hc⟩ := Option.ne_none_iff_exists'.mp hcopy
    obtain ⟨port, hport⟩ := Option.ne_none_iff_exists'.mp hlate
    exact ⟨_, exec_unitPlayout_late s h15 hen h4 hdue htime hc hport hdsk, s.playsUnit_late j q.isLt hc hport hdsk⟩

/-- Settles O41: a CM is fixed before its multiframe is mapped; a copy completed is classed and stored, or in Pass-through played, by what the
group holds once it is put aside; and a unit is marked as played before its copy or signal fail takes its place, which the egress conditions
taken anew leave. Missing copies are counted by log entry 55, and a client fails with its unit by log entry 54. -/
theorem unitsOfAGroup : Obligations.UnitsOfAGroup := by
  unfold Obligations.UnitsOfAGroup
  refine ⟨?cm, ?copy, ?noCopy, ?playout⟩
  case cm =>
    intro s c target cm data h16 ht hcm
    by_cases hm : s.rd .SHET_CLI_CFG_MODE c = 3
    · have hexec := exec_gmpCmUpdate_line s target data h16 ht hm
      refine ⟨_, hexec, exec_only_of_fits hexec (by simp only [footprint]; decide +kernel), fun h => absurd hm h, fun h => absurd hm h,
        fun h => absurd hm h, fun _ => ?_⟩
      rw [State.setCli_cli]
      exact ⟨rfl, rfl⟩
    · by_cases hs : s.cliSlots c = []
      · have hexec := exec_gmpCmUpdate_unslotted s target data h16 ht hm hs
        exact ⟨_, hexec, exec_only_of_fits hexec (by simp only [footprint]; decide +kernel), fun _ _ => rfl, fun _ h => absurd hs h,
          fun _ h => absurd hs h, fun h => absurd h hm⟩
      · obtain ⟨t, hexec, hfix, hfollow⟩ := gmpCmUpdate_does s target data h16 ht hm hs hcm
        exact ⟨t, hexec, exec_only_of_fits hexec (by simp only [footprint]; decide +kernel), fun _ h => absurd h hs, fun _ _ => hfix,
          fun _ _ => hfollow, fun h => absurd h hm⟩
  case copy =>
    rintro s _ g p time c rest good h15 hen hlocal hcopies rfl rfl
    have hexec := exec_unitCopyComplete s time h15 hen hlocal hcopies
    have hpath := s.unitCompleted_path g p time c rest
    refine ⟨_, hexec, exec_only_of_fits hexec (by simp only [footprint]; decide +kernel), by rw [hpath], by rw [hpath],
      s.unitCompleted_stale g p time c rest, fun h h4 => ?_, fun h h4 hgood hx hp hq => s.unitCompleted_through h h4 hgood hx hp hq⟩
    obtain ⟨hlast, -⟩ := s.unitCompleted_classes h h4 (p := p) (rest := rest) rfl
    refine ⟨hlast, fun late hlate => ?_⟩
    obtain ⟨-, hclassed⟩ := s.unitCompleted_classes h h4 hlate
    exact hclassed
  case noCopy => exact fun s g p time h15 h => exec_unitCopyComplete_none s time h15 h
  case playout =>
    intro s g q j now late h15 hen h4
    have hframe {t : State} (hexec : exec (.unitPlayout g q j now late) s = .next t) : s.only (eventTouch.append [.reg .BEND_EVT,
        .reg .BEND_PG_STAT, .reg .BEND_PG_CNT, .reg .SHET_CLI_STAT, .reg .SHET_CLI_EVT, .reg .SHET_CNT])
        (eventParts.append [.clients, .groups]) t := exec_only_of_fits hexec (by simp only [footprint]; decide +kernel)
    by_cases hearly : s.unitDue g q.toNat j = false ∨ ∃ v, s.playTime g q.toNat j = some v ∧ now < v
    · have hexec := exec_unitPlayout_early s (late := late) h15 hearly
      refine ⟨s, hexec, hframe hexec, fun _ => rfl, fun hdue htime => ?_⟩
      rcases hearly with h | ⟨v, hv, hnow⟩
      · rw [h] at hdue
        cases hdue
      · exact absurd (htime v hv) (Nat.not_le.mpr hnow)
    · obtain ⟨hdue, htime⟩ := not_or.mp hearly
      obtain ⟨t, hexec, hplayed⟩ := unitPlayout_plays s (late := late) h15 hen h4 (by simpa using hdue)
        fun v hv => Nat.not_lt.mp fun hnow => htime ⟨v, hv, hnow⟩
      exact ⟨t, hexec, hframe hexec, fun h => absurd h hearly, fun _ _ => hplayed⟩

end Sys2Proof.Machine
end

section
/-! Host lanes through Table 8.2: convergence, training, the timer and the attempt a second later (R225, R227, R229, R230); and the
obligation on them. UNTR_CAUSE 2 at the timer after a fault of the protocol in Training is the model's choice (log entry 92). -/

namespace Sys2Proof.Machine

open Sys2Proof

variable (s : State)

/-! ### What Twine holds for a lane -/

theorem State.kept_tw {s t : State} {m : Nat} (h : s.kept m t) (hm : m.testBit 22 = false) (l : Nat) : t.tw l = s.tw l :=
  congrArg (fun x => Tab.get ({} : TwineInt) x l) (State.kept_part h 22 hm)

theorem State.rd_count_twin (d : Nat) (l : Lane) {j : Nat} (h : j < 4) :
    (s.count .TWIN_CNT d l j).rd .TWIN_CNT_COUNT l j = (s.rd .TWIN_CNT_COUNT l j + d) % 2 ^ 48 :=
  (s.get_count_counter d (r := ⟨.TWIN_CNT, l, j, 0⟩) (show RegId.TWIN_CNT ∈ counterIds by decide)
    (regValid_two_of_dims (n := 48) (m := 4) rfl l ⟨j, h⟩)).1

theorem eventMask_of_laneFoot {id : RegId} (h : laneFoot.testBit (regBit id) = false) : eventMask.testBit (regBit id) = false := by
  simp only [laneFoot, eventFoot, Nat.testBit_or, Bool.or_eq_false_iff] at h
  exact h.1

/-! ### Trained (R230) -/

/-- The equaliser that training reached, shown. -/
def State.coeffShown (s : State) (l : Nat) : State :=
  match (s.tw l).coeff with
  | some v => (s.setReg .TWIN_TXFFE v l).setTw l { s.tw l with coeff := none }
  | none => s

/-- Trained shown, before what follows from it. -/
def State.trainedShown (s : State) (l : Nat) : State :=
  (((s.coeffShown l).wr .TWIN_STAT_LSTATE 3 l).wr .TWIN_STAT_ATTEMPTS 0 l).wr .TWIN_STAT_CDR_LOCK 1 l

theorem State.trained_eq (l : Nat) : s.trained l = ((s.trainedShown l).laneChanged l).laneEvent l .TWIN_EVT_TRAINED 0x8801 := rfl

theorem State.rd_coeffShown {g : Fld} (h : g.id ≠ .TWIN_TXFFE) (l a b c : Nat) : (s.coeffShown l).rd g a b c = s.rd g a b c := by
  unfold State.coeffShown
  split
  · exact (State.rd_setTw _ _ _ _ _ _ _).trans (s.rd_setReg_id _ _ _ _ _ _ _ h)
  · rfl

theorem State.coeffShown_txffe {l : Lane} {v : Nat} (h : (s.tw l).coeff = some v) (hv : v < 2 ^ 32) :
    (s.coeffShown l).reg .TWIN_TXFFE l = v := by
  unfold State.coeffShown
  rw [h]
  exact (s.reg_setReg_same .TWIN_TXFFE v l 0 0 (regValid_one_of_dims (n := 48) rfl l)).trans (Nat.mod_eq_of_lt hv)

/-- Beside its event, what follows a lane's state keeps what is shown of Trained. -/
theorem State.rd_trained {g : Fld} (he : Fld.apart .TWIN_EVT_TRAINED g = true) (hm : laneFoot.testBit (regBit g.id) = false)
    (l a b c : Nat) : (s.trained l).rd g a b c = (s.trainedShown l).rd g a b c := by
  rw [s.trained_eq, State.laneEvent, State.rd_raise_apart _ _ _ _ _ _ _ _ _ he (eventMask_of_laneFoot hm),
    State.kept_rd (State.laneChanged_only _ l) g hm]

/-- A lane that is Trained, shown and reported. -/
theorem State.trained_shows (l : Lane) : (s.trained l).laneState l = 3 ∧ (s.trained l).rd .TWIN_STAT_ATTEMPTS l = 0 ∧
    (s.trained l).on .TWIN_STAT_CDR_LOCK l = true ∧ (s.trained l).on .TWIN_EVT_TRAINED l = true := by
  refine ⟨?_, ?_, ?_, State.on_raise_one _ _ _ _ _ l (by decide) rfl rfl⟩
  · rw [State.laneState, s.rd_trained rfl rfl, State.trainedShown, State.rd_wr_apart _ _ _ _ _ _ _ _ (by decide),
      State.rd_wr_apart _ _ _ _ _ _ _ _ (by decide), State.rd_wr_one _ _ _ (by decide)]
    rfl
  · rw [s.rd_trained rfl rfl, State.trainedShown, State.rd_wr_apart _ _ _ _ _ _ _ _ (by decide), State.rd_wr_one _ _ _ (by decide)]
    rfl
  · rw [State.on, s.rd_trained rfl rfl, State.trainedShown, State.rd_wr_one _ _ _ (by decide)]
    rfl

theorem State.rd_trained_beside {g : Fld} (hid : g.id = .TWIN_STAT) (hst : Fld.apart .TWIN_STAT_LSTATE g = true)
    (hatt : Fld.apart .TWIN_STAT_ATTEMPTS g = true) (hcdr : Fld.apart .TWIN_STAT_CDR_LOCK g = true) (l a b c : Nat) :
    (s.trained l).rd g a b c = s.rd g a b c := by
  have hevt : Fld.apart .TWIN_EVT_TRAINED g = true := by simp [Fld.apart, hid]
  rw [s.rd_trained hevt (by rw [hid]; rfl), State.trainedShown, State.rd_wr_apart _ _ _ _ _ _ _ _ hcdr,
    State.rd_wr_apart _ _ _ _ _ _ _ _ hatt, State.rd_wr_apart _ _ _ _ _ _ _ _ hst, s.rd_coeffShown (by rw [hid]; decide)]

/-- What a lane that is Trained changes, once its equaliser is shown. -/
theorem State.trained_only (l : Nat) : (s.coeffShown l).kept (laneFoot ||| footOf [.TWIN_STAT, .TWIN_EVT] []) (s.trained l) := by
  have hshown : (s.coeffShown l).kept (laneFoot ||| footOf [.TWIN_STAT, .TWIN_EVT] []) (s.trainedShown l) :=
    State.wr_kept _ _ _ _ _ _ (State.wr_kept _ _ _ _ _ _ (State.wr_kept _ _ _ _ _ _ (State.kept_refl _ _) rfl) rfl) rfl
  exact State.laneEvent_kept _ _ _ _ (State.laneChanged_kept _ _ hshown rfl) rfl rfl

theorem State.trained_txffe {l : Lane} {v : Nat} (h : (s.tw l).coeff = some v) (hv : v < 2 ^ 32) :
    (s.trained l).reg .TWIN_TXFFE l = v := by
  rw [State.kept_reg (s.trained_only l) _ rfl]
  exact s.coeffShown_txffe h hv

/-! ### Convergence and the end of training (R225) -/

/-- Convergence shown. -/
def State.converged (s : State) (l snr : Nat) : State := (s.wr .TWIN_STAT_RX_SNR (min 511 snr) l).wr .TWIN_STAT_CDR_LOCK 1 l

theorem exec_laneConverged {l : Lane} {snr : Nat} (h17 : s.alive 17 = true) (h1 : s.laneState l = 1) (hsnr : 120 ≤ snr) :
    exec (.laneConverged l snr) s = .next (if s.protocolLane l then (s.converged l snr).wr .TWIN_STAT_LSTATE 2 l
      else (s.converged l snr).trained l) := by
  have hprotocol : (s.converged l snr).protocolLane l = s.protocolLane l := by
    simp (disch := decide) only [State.protocolLane, State.converged, State.rd_wr_apart]
  change execLaneConverged l snr s = _
  unfold execLaneConverged
  rw [act_next s 17 _ h17, if_neg (by simp [h1, hsnr]), ← hprotocol]
  rfl

theorem exec_laneConverged_ignored {l : Lane} {snr : Nat} (h17 : s.alive 17 = true) (h : s.laneState l ≠ 1 ∨ snr < 120) :
    exec (.laneConverged l snr) s = .next s := by
  change execLaneConverged l snr s = _
  unfold execLaneConverged
  rw [act_next s 17 _ h17, if_pos (by simpa using h)]

theorem State.protocolLane_iff (l : Nat) :
    s.protocolLane l = true ↔ s.rd .TWIN_LANE_CFG_INTF l = 1 ∧ s.rd .TWIN_QUAD_CFG_RATE (l / 4) = 3 := by
  simp [State.protocolLane]

theorem State.converged_shows (l : Lane) (snr : Nat) : (s.converged l snr).rd .TWIN_STAT_RX_SNR l = min 511 snr ∧
    (s.converged l snr).on .TWIN_STAT_CDR_LOCK l = true := by
  unfold State.converged
  constructor
  · rw [State.rd_wr_apart _ _ _ _ _ _ _ _ (by decide), State.rd_wr_one _ _ _ (by decide)]
    exact Nat.mod_eq_of_lt (Nat.lt_of_le_of_lt (Nat.min_le_left _ _) (by decide))
  · rw [State.on, State.rd_wr_one _ _ _ (by decide)]
    rfl

theorem exec_trainingComplete {l : Lane} (h17 : s.alive 17 = true) (h2 : s.laneState l = 2) :
    exec (.trainingComplete l) s = .next ((s.wr .TWIN_STAT_PART_RDY 1 l).trained l) := by
  change execTrainingComplete l s = _
  unfold execTrainingComplete
  rw [act_next s 17 _ h17, if_pos h2]

theorem exec_trainingComplete_ignored {l : Lane} (h17 : s.alive 17 = true) (h2 : s.laneState l ≠ 2) :
    exec (.trainingComplete l) s = .next s := by
  change execTrainingComplete l s = _
  unfold execTrainingComplete
  rw [act_next s 17 _ h17, if_neg h2]

/-! ### The training timer (R227) -/

theorem exec_trainingTimerExpiry {l : Lane} (fault : Bool) (h17 : s.alive 17 = true) (h : s.laneState l = 1 ∨ s.laneState l = 2) :
    exec (.trainingTimerExpiry l fault) s = .next (s.untrained l (if s.laneState l = 2 ∧ fault = true then 2 else 0)) := by
  change execTrainingTimerExpiry l fault s = _
  unfold execTrainingTimerExpiry
  rw [act_next s 17 _ h17]
  rcases h with h1 | h2
  · simp [h1]
  · simp [h2]

theorem exec_trainingTimerExpiry_ignored {l : Lane} (fault : Bool) (h17 : s.alive 17 = true) (h1 : s.laneState l ≠ 1)
    (h2 : s.laneState l ≠ 2) : exec (.trainingTimerExpiry l fault) s = .next s := by
  change execTrainingTimerExpiry l fault s = _
  unfold execTrainingTimerExpiry
  rw [act_next s 17 _ h17, if_neg h1, if_neg h2]

/-- A lane that is Untrained, shown with its cause and reported. -/
theorem State.untrained_shows (l : Lane) {cause : Nat} (hcause : cause < 4) : (s.untrained l cause).laneState l = 4 ∧
    (s.untrained l cause).rd .TWIN_STAT_UNTR_CAUSE l = cause ∧ (s.untrained l cause).on .TWIN_EVT_UNTRAINED l = true ∧
    (s.untrained l cause).on .TWIN_STAT_CDR_LOCK l = false := by
  refine ⟨?_, ?_, State.on_raise_one _ _ _ _ _ l (by decide) rfl rfl, ?_⟩
  · rw [State.laneState, s.rd_untrained rfl rfl rfl]
    exact s.setLane_laneState l (by decide)
  · rw [State.untrained, State.laneEvent, State.rd_raise_apart _ _ _ _ _ _ _ _ _ (by decide) rfl, State.rd_wr_one _ _ _ (by decide)]
    exact Nat.mod_eq_of_lt hcause
  · rw [State.on, s.rd_untrained rfl rfl rfl, s.setLane_cdr]
    rfl

/-! ### The attempt a second later (R227, R229) -/

theorem exec_untrainedRetry {l : Lane} (h17 : s.alive 17 = true) (h4 : s.laneState l = 4) :
    exec (.untrainedRetry l) s = .next (s.startAttempt l) := by
  change execUntrainedRetry l s = _
  unfold execUntrainedRetry
  rw [act_next s 17 _ h17, if_pos h4]

theorem exec_untrainedRetry_ignored {l : Lane} (h17 : s.alive 17 = true) (h4 : s.laneState l ≠ 4) :
    exec (.untrainedRetry l) s = .next s := by
  change execUntrainedRetry l s = _
  unfold execUntrainedRetry
  rw [act_next s 17 _ h17, if_neg h4]

/-- A lane that is disabled, or without a rate, is Off. -/
theorem State.startAttempt_off {l : Nat} (h : s.on .TWIN_LANE_CFG_EN l = false ∨ s.rd .TWIN_QUAD_CFG_RATE (l / 4) = 0) :
    s.startAttempt l = s.setLane l 0 := if_pos (by simpa using h)

theorem State.attemptCounted_laneState (l : Nat) : (s.attemptCounted l).laneState l = s.laneState l :=
  (State.rd_setReg_id _ _ _ _ _ _ _ _ (by decide)).trans (s.rd_wr_apart _ _ _ _ _ _ _ (by decide))

/-- An Untrained lane whose rate does not fit stays so, with cause 1. -/
theorem State.startAttempt_unfit {l : Nat} (h4 : s.laneState l = 4) (hen : s.on .TWIN_LANE_CFG_EN l = true)
    (hrate : s.rd .TWIN_QUAD_CFG_RATE (l / 4) ≠ 0) (hfit : s.rateFits l = false) :
    s.startAttempt l = (s.attemptCounted l).wr .TWIN_STAT_UNTR_CAUSE 1 l := by
  have hfit' : ¬(s.attemptCounted l).rateFits l = true := by rw [(s.attemptCounted_alike l).rateFits, hfit]; decide
  unfold State.startAttempt
  rw [if_neg (by simp [hen, hrate])]
  exact (if_neg hfit').trans (if_pos ((s.attemptCounted_laneState l).trans h4))

/-- What a lane that enters a state changes: its state, a scan that ends, and what follows a lane's state. -/
theorem State.setLane_only (l st : Nat) : s.kept (laneFoot ||| footOf [.TWIN_SCAN, .TWIN_STAT] []) (s.setLane l st) :=
  State.setLane_kept s l st (State.kept_refl _ s) rfl

/-- An attempt of an Untrained lane is counted and forgets the equaliser that training had reached. -/
theorem State.startAttempt_counted {l : Lane} (h4 : s.laneState l = 4) (hen : s.on .TWIN_LANE_CFG_EN l = true)
    (hrate : s.rd .TWIN_QUAD_CFG_RATE (l.val / 4) ≠ 0) : ((s.startAttempt l).tw l).coeff = none ∧
    (s.startAttempt l).rd .TWIN_CNT_COUNT l 2 = (s.rd .TWIN_CNT_COUNT l 2 + 1) % 2 ^ 48 := by
  have hcoeff : ((s.attemptCounted l).tw l).coeff = none := congrArg TwineInt.coeff (State.setTw_tw _ l _)
  have hcount : (s.attemptCounted l).rd .TWIN_CNT_COUNT l 2 = (s.rd .TWIN_CNT_COUNT l 2 + 1) % 2 ^ 48 := by
    rw [State.attemptCounted, State.rd_setTw, State.rd_count_twin _ _ _ (by decide), State.inc,
      State.rd_wr_apart _ _ _ _ _ _ _ _ (by decide)]
  cases hfit : s.rateFits l with
  | true =>
    rw [s.startAttempt_fits hen hrate hfit]
    have hkept := (s.attemptCounted l).setLane_only l 1
    exact ⟨by rw [State.kept_tw hkept rfl, hcoeff], by rw [State.kept_rd hkept _ rfl, hcount]⟩
  | false =>
    rw [s.startAttempt_unfit h4 hen hrate hfit]
    exact ⟨hcoeff, (State.rd_wr_apart _ _ _ _ _ _ _ _ (by decide)).trans hcount⟩

/-- Settles O43: convergence is shown, and leads on to Training or to Trained, whose writes keep it; the timer enters Untrained with its
cause; and the attempt a second later, counted, leads to Acquiring, or stays Untrained with cause 1 while the rate does not fit. -/
theorem lanesTrainAndFail : Obligations.LanesTrainAndFail := by
  unfold Obligations.LanesTrainAndFail
  refine ⟨?converged, ?notAcquiring, ?complete, ?timer, ?retry, ?notUntrained⟩
  case converged =>
    intro s l snr h17 h1
    refine ⟨fun hsnr => ?_, fun hsnr => exec_laneConverged_ignored s h17 (.inr hsnr)⟩
    have hexec := exec_laneConverged s h17 h1 hsnr
    obtain ⟨hrx, hcdr⟩ := s.converged_shows l snr
    refine ⟨_, hexec, exec_only_of_fits hexec (by simp only [footprint]; decide +kernel), ?_⟩
    by_cases hp : s.protocolLane l = true
    · have hprotocol := (s.protocolLane_iff l).mp hp
      rw [if_pos hp]
      refine ⟨(State.rd_wr_apart _ _ _ _ _ _ _ _ (by decide)).trans hrx, ?_, fun _ _ => State.rd_wr_one _ _ _ (by decide),
        fun h => absurd hprotocol (not_and_or.mpr h)⟩
      rwa [State.on, State.rd_wr_apart _ _ _ _ _ _ _ _ (by decide)]
    · obtain ⟨hst, hatt, htcdr, hevt⟩ := (s.converged l snr).trained_shows l
      rw [if_neg hp]
      exact ⟨(State.rd_trained_beside _ rfl rfl rfl rfl _ _ _ _).trans hrx, htcdr,
        fun hi hr => absurd ((s.protocolLane_iff l).mpr ⟨hi, hr⟩) hp, fun _ => ⟨hst, hatt, hevt⟩⟩
  case notAcquiring => exact fun s l snr h17 h1 => exec_laneConverged_ignored s h17 (.inl h1)
  case complete =>
    intro s l h17
    refine ⟨fun h2 => ?_, exec_trainingComplete_ignored s h17⟩
    have hexec := exec_trainingComplete s h17 h2
    obtain ⟨hst, -, -, hevt⟩ := (s.wr .TWIN_STAT_PART_RDY 1 l).trained_shows l
    refine ⟨_, hexec, exec_only_of_fits hexec (by simp only [footprint]; decide +kernel), hst, ?_, hevt,
      fun v hv hlt => State.trained_txffe _ hv hlt⟩
    rw [State.on, State.rd_trained_beside _ rfl rfl rfl rfl, State.rd_wr_one _ _ _ (by decide)]
    rfl
  case timer =>
    intro s l fault h17
    refine ⟨fun h => ?_, exec_trainingTimerExpiry_ignored s fault h17⟩
    have hexec := exec_trainingTimerExpiry s fault h17 h
    exact ⟨_, hexec, exec_only_of_fits hexec (by simp only [footprint]; decide +kernel), s.untrained_shows l (by split <;> decide)⟩
  case retry =>
    intro s l h17 h4
    have hexec := exec_untrainedRetry s h17 h4
    refine ⟨_, hexec, exec_only_of_fits hexec (by simp only [footprint]; decide +kernel), fun hen hrate => ?_, fun hoff => ?_⟩
    · obtain ⟨hcoeff, hcount⟩ := s.startAttempt_counted h4 hen hrate
      refine ⟨hcoeff, hcount, fun hfit => State.lanesAlike_refl.attempt hen hrate hfit, fun hfit => ?_⟩
      rw [s.startAttempt_unfit h4 hen hrate hfit]
      refine ⟨(State.rd_wr_apart _ _ _ _ _ _ _ _ (by decide)).trans ((s.attemptCounted_laneState l).trans h4), ?_⟩
      exact State.rd_wr_one _ _ _ (by decide)
    · rw [s.startAttempt_off hoff]
      exact s.setLane_laneState l (by decide)
  case notUntrained => exact fun s l h17 h4 => exec_untrainedRetry_ignored s h17 h4

end Sys2Proof.Machine
end

section
/-! The transmit equaliser written, margin scans asked for, started and completed, and slips of the far-end loopback buffer (R232, R234 to
R236, R445); and the obligation on them. That a scan asked for on a lane that is not Trained ends at once without a valid result (log entry
58), and that of several spans of a sweep the longest is shown (log entry 92), are the model's choices. -/

namespace Sys2Proof.Machine

open Sys2Proof

variable (s : State)

/-! ### The equaliser written (R232) -/

/-- C(0) lowered leaves a value within a width that holds it. -/
theorem fitTaps_lt {v w : Nat} (hw : 5 < w) (hv : v < 2 ^ w) : fitTaps v < 2 ^ w := setBits_lt v 5 0 _ w (by decide) hw hv

/-- The taps written, and those that training had reached forgotten. -/
def State.tapsWritten (s : State) (l v : Nat) : State :=
  (s.setReg .TWIN_TXFFE (fitTaps (v % 2 ^ 31)) l).setTw l { s.tw l with coeff := none }

theorem exec_txffeWrite {req : Requester} {l : Lane} (v : BitVec 32) (hw : s.mayWrite req 17 1 (s.laneDom l)) :
    ∃ t, exec (.txffeWrite req l v) s = .next t ∧ ((s.dropLatch req).tapsWritten l v.toNat).kept recordMask t := by
  change ∃ t, execTxffeWrite req l v s = .next t ∧ _
  unfold execTxffeWrite
  exact access_runWrite (f := fun t => t.tapsWritten l v.toNat) s hw ⟨_, _, rfl⟩

theorem State.tapsWritten_txffe (l : Lane) (v : Nat) : (s.tapsWritten l v).reg .TWIN_TXFFE l = fitTaps (v % 2 ^ 31) := by
  have hlt : fitTaps (v % 2 ^ 31) < 2 ^ 32 :=
    Nat.lt_trans (fitTaps_lt (w := 31) (by decide) (Nat.mod_lt _ (by decide))) (by decide)
  exact (s.reg_setReg_same .TWIN_TXFFE _ l 0 0 (regValid_one_of_dims (n := 48) rfl l)).trans (Nat.mod_eq_of_lt hlt)

/-! ### Scans asked for (R235) -/

theorem exec_scanReq {req : Requester} {l : Lane} (hw : s.mayWrite req 17 1 (s.laneDom l)) :
    ∃ t, exec (.scanReq req l) s = .next t ∧ ((s.dropLatch req).startScan l false).kept recordMask t := by
  change ∃ t, execScanReq req l s = .next t ∧ _
  unfold execScanReq
  exact access_runWrite (f := fun t => t.startScan l false) s hw ⟨_, _, rfl⟩

/-- A scan on a Trained lane, none running, is under way, with its kind. -/
theorem State.startScan_trained {l : Lane} (auto : Bool) (hbusy : s.on .TWIN_SCAN_SCAN_BUSY l = false) (h3 : s.laneState l = 3) :
    (s.startScan l auto).on .TWIN_SCAN_SCAN_BUSY l = true ∧ ((s.startScan l auto).tw l).auto = auto := by
  have hstart : s.startScan l auto =
      ((s.wr .TWIN_SCAN_SCAN_BUSY 1 l).wr .TWIN_SCAN_SCAN_REQ 1 l).setTw l { s.tw l with auto := auto } := by
    unfold State.startScan
    rw [if_neg (by simp [hbusy]), if_neg (by simp [h3])]
  rw [hstart]
  refine ⟨?_, congrArg TwineInt.auto (State.setTw_tw _ l _)⟩
  rw [State.on, State.rd_setTw, State.rd_wr_apart _ _ _ _ _ _ _ _ (by decide), State.rd_wr_one _ _ _ (by decide)]
  rfl

/-- A scan on another lane ends at once without a valid result. -/
theorem State.startScan_notTrained {l : Lane} (auto : Bool) (hbusy : s.on .TWIN_SCAN_SCAN_BUSY l = false) (h3 : s.laneState l ≠ 3) :
    (s.startScan l auto).on .TWIN_SCAN_SCAN_BUSY l = false ∧ (s.startScan l auto).on .TWIN_SCAN_SCAN_VALID l = false := by
  have hstart : s.startScan l auto = s.wr .TWIN_SCAN_SCAN_VALID 0 l := by
    unfold State.startScan
    rw [if_neg (by simp [hbusy]), if_pos (by simp [h3])]
  rw [hstart]
  constructor
  · rwa [State.on, State.rd_wr_apart _ _ _ _ _ _ _ _ (by decide)]
  · rw [State.on, State.rd_wr_one _ _ _ (by decide)]
    rfl

/-! ### Automatic scans (R235) -/

theorem exec_marginScanAuto {l : Lane} (h17 : s.alive 17 = true) (hint : s.rd .TWIN_SCAN_MARGIN_INT l ≠ 0)
    (hbg : s.belay.background = true) : exec (.marginScanAuto l) s = .next (s.startScan l true) := by
  change execMarginScanAuto l s = _
  unfold execMarginScanAuto
  rw [act_next s 17 _ h17, if_pos (by simp [hint, hbg])]

/-- A scan that is not due, that the budget withholds, or that another anticipates changes nothing. -/
theorem exec_marginScanAuto_skipped {l : Lane} (h17 : s.alive 17 = true) (h : s.rd .TWIN_SCAN_MARGIN_INT l = 0 ∨
    s.belay.background = false ∨ s.on .TWIN_SCAN_SCAN_BUSY l = true) : exec (.marginScanAuto l) s = .next s := by
  by_cases hdue : s.rd .TWIN_SCAN_MARGIN_INT l ≠ 0 ∧ s.belay.background = true
  · obtain ⟨hint, hbg⟩ := hdue
    have hbusy : s.on .TWIN_SCAN_SCAN_BUSY l = true := (h.resolve_left hint).resolve_left (by simp [hbg])
    have hstart : s.startScan l true = s := if_pos hbusy
    rw [exec_marginScanAuto s h17 hint hbg, hstart]
  · change execMarginScanAuto l s = _
    unfold execMarginScanAuto
    rw [act_next s 17 _ h17, if_neg (by simpa using hdue)]

/-! ### Scans completed (R234, R445) -/

/-- What TWIN_EYE shows of six spans and a sequence number. -/
def eyeWord (sp : Nat → Nat) (seq : Nat) : Nat :=
  ([1, 0, 3, 2, 5, 4] : List Nat).foldr (fun k a => sp k + 256 * a) 0 + (seq % 2 ^ 16) <<< 48

theorem foldr_spans (sp : Nat → Nat) : ([1, 0, 3, 2, 5, 4] : List Nat).foldr (fun k a => sp k + 256 * a) 0 =
    sp 1 + 2 ^ 8 * sp 0 + 2 ^ 16 * sp 3 + 2 ^ 24 * sp 2 + 2 ^ 32 * sp 5 + 2 ^ 40 * sp 4 := by
  simp only [List.foldr]
  omega

theorem eyeWord_eq (sp : Nat → Nat) (seq : Nat) : eyeWord sp seq =
    sp 1 + 2 ^ 8 * sp 0 + 2 ^ 16 * sp 3 + 2 ^ 24 * sp 2 + 2 ^ 32 * sp 5 + 2 ^ 40 * sp 4 + seq % 2 ^ 16 * 2 ^ 48 := by
  unfold eyeWord
  rw [foldr_spans, Nat.shiftLeft_eq]

theorem spans_lt {sp : Nat → Nat} (h : ∀ k, sp k < 256) :
    sp 1 + 2 ^ 8 * sp 0 + 2 ^ 16 * sp 3 + 2 ^ 24 * sp 2 + 2 ^ 32 * sp 5 + 2 ^ 40 * sp 4 < 2 ^ 48 := by
  have h0 := h 0
  have h1 := h 1
  have h2 := h 2
  have h3 := h 3
  have h4 := h 4
  have h5 := h 5
  omega

section
variable {sp : Nat → Nat} (h : ∀ k, sp k < 256) (seq : Nat)
include h

theorem eyeWord_spans : bits (eyeWord sp seq) 47 0 =
    sp 1 + 2 ^ 8 * sp 0 + 2 ^ 16 * sp 3 + 2 ^ 24 * sp 2 + 2 ^ 32 * sp 5 + 2 ^ 40 * sp 4 := by
  rw [bits_eq, Nat.pow_zero, Nat.div_one, eyeWord_eq, Nat.add_mul_mod_self_right, Nat.mod_eq_of_lt (spans_lt h)]

theorem eyeWord_seq : bits (eyeWord sp seq) 63 48 = seq % 2 ^ 16 := by
  rw [bits_eq, eyeWord_eq, Nat.add_mul_div_right _ _ (by positivity), Nat.div_eq_of_lt (spans_lt h), Nat.zero_add, Nat.mod_mod]

end

/-- The end of a scan, shown with its spans. -/
def State.scanResult (s : State) (l : Nat) (sp : Nat → Nat) : State :=
  (((s.setReg .TWIN_EYE (eyeWord sp (s.rd .TWIN_EYE_SCAN_SEQ l + 1)) l).wr .TWIN_SCAN_SCAN_BUSY 0 l).wr .TWIN_SCAN_SCAN_REQ 0 l).wr
    .TWIN_SCAN_SCAN_VALID 1 l

/-- The same, reported. -/
def State.scanReported (s : State) (l : Nat) (sp : Nat → Nat) : State := (s.scanResult l sp).laneEvent l .TWIN_EVT_SCAN_DONE 0x8804

/-- The worst eye of an automatic scan taken. -/
def State.marginTaken (s : State) (l : Nat) (sp : Nat → Nat) : State :=
  (s.setTw l { s.tw l with auto := false, height := min (sp 1) (min (sp 3) (sp 5)) }).laneMargin false l
    (min (sp 1) (min (sp 3) (sp 5))) (min (sp 0) (min (sp 2) (sp 4))) (s.tw l).height

theorem State.scanReported_tw (l : Nat) (sp : Nat → Nat) (a : Nat) : (s.scanReported l sp).tw a = s.tw a := by
  unfold State.scanReported State.laneEvent State.tw
  rw [State.raise_twine]
  rfl

theorem State.scanReported_age (l : Nat) (sp : Nat → Nat) : (s.scanReported l sp).age = s.age := by
  unfold State.scanReported State.laneEvent
  rw [State.raise_age]
  rfl

/-- The spans that a scan's sweeps show at the ratio and the dwell asked for. -/
def State.scanSpan (s : State) (l : Nat) (sweeps : List (List Nat)) (k : Nat) : Nat :=
  eyeSpan (s.rd .TWIN_SCAN_TGT l) (s.rd .TWIN_SCAN_DWELL l) (sweeps.getD k []) % 256

theorem exec_scanDone {l : Lane} (sweeps : List (List Nat)) (h17 : s.alive 17 = true) (hbusy : s.on .TWIN_SCAN_SCAN_BUSY l = true) :
    exec (.scanDone l sweeps) s = .next (if (s.tw l).auto then (s.scanReported l (s.scanSpan l sweeps)).marginTaken l (s.scanSpan l sweeps)
      else s.scanReported l (s.scanSpan l sweeps)) := by
  rw [← s.scanReported_tw l (s.scanSpan l sweeps)]
  change execScanDone l sweeps s = _
  unfold execScanDone
  rw [act_next s 17 _ h17, if_neg (by simp [hbusy])]
  rfl

/-- Beside its event, a scan's report keeps the result. -/
theorem State.rd_scanReported {g : Fld} (he : Fld.apart .TWIN_EVT_SCAN_DONE g = true) (hm : eventMask.testBit (regBit g.id) = false)
    (l : Nat) (sp : Nat → Nat) (a b c : Nat) : (s.scanReported l sp).rd g a b c = (s.scanResult l sp).rd g a b c :=
  State.rd_raise_apart _ _ _ _ _ _ _ _ _ he hm

theorem State.scanReported_shows (l : Lane) (sp : Nat → Nat) : (s.scanReported l sp).on .TWIN_SCAN_SCAN_BUSY l = false ∧
    (s.scanReported l sp).on .TWIN_SCAN_SCAN_VALID l = true ∧ (s.scanReported l sp).on .TWIN_EVT_SCAN_DONE l = true := by
  refine ⟨?_, ?_, State.on_raise_one _ _ _ _ _ l (by decide) rfl rfl⟩
  · rw [State.on, s.rd_scanReported rfl rfl, State.scanResult, State.rd_wr_apart _ _ _ _ _ _ _ _ (by decide),
      State.rd_wr_apart _ _ _ _ _ _ _ _ (by decide), State.rd_wr_one _ _ _ (by decide)]
    rfl
  · rw [State.on, s.rd_scanReported rfl rfl, State.scanResult, State.rd_wr_one _ _ _ (by decide)]
    rfl

/-- A field of TWIN_EYE after a scan. -/
theorem State.rd_scanReported_eye {g : Fld} (hid : g.id = .TWIN_EYE) (hle : g.lo ≤ g.hi) (hlt : g.hi < 64) (l : Lane) (sp : Nat → Nat) :
    (s.scanReported l sp).rd g l = bits (eyeWord sp (s.rd .TWIN_EYE_SCAN_SEQ l + 1)) g.hi g.lo := by
  have hscan {f : Fld} (hf : f.id = .TWIN_SCAN) : f.apart g = true := by simp [Fld.apart, hid, hf]
  rw [s.rd_scanReported (by simp [Fld.apart, hid]) (by rw [hid]; rfl), State.scanResult,
    State.rd_wr_apart _ _ _ _ _ _ _ _ (hscan rfl), State.rd_wr_apart _ _ _ _ _ _ _ _ (hscan rfl),
    State.rd_wr_apart _ _ _ _ _ _ _ _ (hscan rfl), State.rd, hid,
    State.reg_setReg_same _ .TWIN_EYE _ l 0 0 (regValid_one_of_dims (n := 48) rfl l)]
  exact bits_mod _ _ _ 64 hle hlt

/-- The spans of a scan and its sequence number. -/
theorem State.scanReported_eye {sp : Nat → Nat} (h : ∀ k, sp k < 256) (l : Lane) :
    bits ((s.scanReported l sp).reg .TWIN_EYE l) 47 0 =
      sp 1 + 2 ^ 8 * sp 0 + 2 ^ 16 * sp 3 + 2 ^ 24 * sp 2 + 2 ^ 32 * sp 5 + 2 ^ 40 * sp 4 ∧
    (s.scanReported l sp).rd .TWIN_EYE_SCAN_SEQ l = (s.rd .TWIN_EYE_SCAN_SEQ l + 1) % 2 ^ 16 :=
  ⟨(s.rd_scanReported_eye (g := ⟨.TWIN_EYE, 47, 0⟩) rfl (by decide) (by decide) l sp).trans (eyeWord_spans h _),
    (s.rd_scanReported_eye (g := .TWIN_EYE_SCAN_SEQ) rfl (by decide) (by decide) l sp).trans (eyeWord_seq h _)⟩

theorem State.scanReported_laneMin (l : Nat) (sp : Nat → Nat) :
    (s.scanReported l sp).rd .TALY_AGE_CFG_LANE_MIN = s.rd .TALY_AGE_CFG_LANE_MIN := by
  rw [s.rd_scanReported rfl rfl, State.scanResult, State.rd_wr_apart _ _ _ _ _ _ _ _ (by decide),
    State.rd_wr_apart _ _ _ _ _ _ _ _ (by decide), State.rd_wr_apart _ _ _ _ _ _ _ _ (by decide),
    State.rd_setReg_id _ _ _ _ _ _ _ _ (by decide)]

/-- What a lane's margin changes: the ageing's state, log and event. -/
theorem State.laneMargin_only (mate : Bool) (l height width old : Nat) :
    s.kept (eventFoot [.TALY_AGE_EVT, .TALY_AGE_ST, .TALY_AGE_LOG] [.age]) (s.laneMargin mate l height width old) :=
  State.laneMargin_kept s mate l height width old (State.kept_refl _ s) rfl

/-- It joins the history. -/
theorem State.laneMargin_margins (mate : Bool) (l height width old : Nat) :
    (s.laneMargin mate l height width old).age.margins = (mate, l, height, width) :: s.age.margins := by
  unfold State.laneMargin
  dsimp only
  split
  · unfold State.ageLog
    simp
  · rfl

/-- Below LANE_MIN it is reported. -/
theorem State.laneMargin_low {mate : Bool} {l height width old : Nat} (h : height < s.rd .TALY_AGE_CFG_LANE_MIN) :
    (s.laneMargin mate l height width old).on .TALY_AGE_EVT_LANE_LOW = true := by
  have hraised (t : State) : (t.raise .TALY_AGE_EVT_LANE_LOW 0x3843 0 [l]).on .TALY_AGE_EVT_LANE_LOW = true :=
    State.on_raise_none _ _ _ _ _ (by decide) rfl rfl
  have hlog (t : State) : t.kept (footOf [.TALY_AGE_ST, .TALY_AGE_LOG] [.age]) (t.ageLog 4 l old height 0 0) :=
    State.ageLog_kept _ _ _ _ _ _ _ (State.kept_refl _ _) rfl
  exact (congrArg (fun t => State.on t .TALY_AGE_EVT_LANE_LOW) (if_pos h)).trans
    ((State.kept_on (hlog _) _ rfl _ _ _).trans (hraised _))

theorem State.marginTaken_only (l : Nat) (sp : Nat → Nat) :
    s.kept (eventFoot [.TALY_AGE_EVT, .TALY_AGE_ST, .TALY_AGE_LOG] [.age, .twine]) (s.marginTaken l sp) :=
  State.laneMargin_kept _ _ _ _ _ _ (State.setTw_kept _ _ _ (State.kept_refl _ s) rfl) rfl

theorem State.marginTaken_tw (l : Nat) (sp : Nat → Nat) :
    (s.marginTaken l sp).tw l = { s.tw l with auto := false, height := min (sp 1) (min (sp 3) (sp 5)) } :=
  (State.kept_tw (State.laneMargin_only _ _ _ _ _ _) rfl l).trans (s.setTw_tw l _)

/-! ### Slips of the loopback buffer (R236) -/

/-- The first slip in a second reported. -/
def State.slipReported (s : State) (l : Nat) : State :=
  if (s.tw l).slipSaid then s else (s.setTw l { s.tw l with slipSaid := true }).laneEvent l .TWIN_EVT_SLIP 0x8805

theorem exec_loopbackSlip {l : Lane} (h17 : s.alive 17 = true) (hloop : s.rd .TWIN_LANE_CFG_LPBK l = 2) (h0 : s.laneState l ≠ 0) :
    exec (.loopbackSlip l) s = .next ((s.count .TWIN_CNT 1 l 3).slipReported l) := by
  change execLoopbackSlip l s = _
  unfold execLoopbackSlip
  rw [act_next s 17 _ h17, if_neg (by simp [hloop, h0])]
  rfl

theorem State.slipReported_count (l a b c : Nat) : (s.slipReported l).rd .TWIN_CNT_COUNT a b c = s.rd .TWIN_CNT_COUNT a b c := by
  unfold State.slipReported State.laneEvent
  split
  · rfl
  · exact State.rd_raise_apart _ _ _ _ _ _ _ _ _ (by decide) rfl

theorem State.slipReported_said (l : Nat) : ((s.slipReported l).tw l).slipSaid = true := by
  unfold State.slipReported State.laneEvent
  split
  · next h => exact h
  · rw [State.tw, State.raise_twine]
    exact congrArg TwineInt.slipSaid (s.setTw_tw l _)

theorem State.slipReported_evt {l : Lane} (h : (s.tw l).slipSaid = false) : (s.slipReported l).on .TWIN_EVT_SLIP l = true := by
  unfold State.slipReported
  rw [if_neg (by simp [h])]
  exact State.on_raise_one _ _ _ _ _ l (by decide) rfl rfl

/-- Settles O45: a write of the equaliser and a scan asked for are their effects, which the journal's record leaves; an automatic scan is a
start or nothing; a completed scan shows its word and is reported, which the margin taken leaves; and a slip is counted, then reported. -/
theorem equalisersAndMarginScans : Obligations.EqualisersAndMarginScans := by
  unfold Obligations.EqualisersAndMarginScans
  refine ⟨?write, ?request, ?automatic, ?done, ?slip⟩
  case write =>
    intro s req l v hw
    obtain ⟨t, hexec, hk⟩ := exec_txffeWrite s v hw
    refine ⟨t, hexec, exec_only_of_fits hexec (by simp only [footprint]; decide +kernel), ?_, ?_, fun m hm => ?_⟩
    · rw [State.kept_reg hk _ rfl, State.tapsWritten_txffe]
    · rw [State.kept_tw hk rfl, State.tapsWritten, State.setTw_tw]
    · rw [State.kept_reg hk _ rfl]
      exact State.reg_setReg_other _ _ _ _ _ _ _ _ _ _ fun e => hm (Fin.ext e.2.1)
  case request =>
    intro s req l hw hbusy
    obtain ⟨t, hexec, hk⟩ := exec_scanReq s hw
    refine ⟨t, hexec, exec_only_of_fits hexec (by simp only [footprint]; decide +kernel), fun h3 => ?_, fun h3 => ?_⟩
    · rw [State.kept_on hk _ rfl, State.kept_tw hk rfl]
      exact (s.dropLatch req).startScan_trained false hbusy h3
    · rw [State.kept_on hk _ rfl, State.kept_on hk _ rfl]
      exact (s.dropLatch req).startScan_notTrained false hbusy h3
  case automatic =>
    intro s l h17
    refine ⟨fun hint hbg h3 hbusy => ?_, fun h => ⟨s, exec_marginScanAuto_skipped s h17 h, rfl⟩⟩
    have hexec := exec_marginScanAuto s h17 hint hbg
    exact ⟨_, hexec, exec_only_of_fits hexec (by simp only [footprint]; decide +kernel), s.startScan_trained true hbusy h3⟩
  case done =>
    intro s l sweeps sp h17 hbusy hsp
    obtain rfl : sp = s.scanSpan l sweeps := funext hsp
    have hexec := exec_scanDone s sweeps h17 hbusy
    obtain ⟨hend, hvalid, hevt⟩ := s.scanReported_shows l (s.scanSpan l sweeps)
    obtain ⟨hspans, hseq⟩ := s.scanReported_eye (sp := s.scanSpan l sweeps) (fun k => Nat.mod_lt _ (by decide)) l
    refine ⟨_, hexec, exec_only_of_fits hexec (by simp only [footprint]; decide +kernel), ?_⟩
    generalize s.scanSpan l sweeps = sp at *
    cases hauto : (s.tw l).auto with
    | false =>
      rw [if_neg (by decide)]
      exact ⟨hend, hvalid, hevt, hspans, hseq, fun _ => s.scanReported_age l sp, fun h => (nomatch h)⟩
    | true =>
      rw [if_pos rfl]
      have hk := (s.scanReported l sp).marginTaken_only l sp
      refine ⟨(State.kept_on hk _ rfl _ _ _).trans hend, (State.kept_on hk _ rfl _ _ _).trans hvalid,
        (State.kept_on hk _ rfl _ _ _).trans hevt, ?_, (State.kept_rd hk _ rfl _ _ _).trans hseq, fun h => (nomatch h), fun _ => ?_⟩
      · rw [State.kept_reg hk _ rfl]
        exact hspans
      · rw [State.marginTaken_tw]
        refine ⟨rfl, rfl, ?_, fun hlow => State.laneMargin_low _ ?_⟩
        · rw [State.marginTaken, State.laneMargin_margins, State.setTw_age, State.scanReported_age]
        · rwa [State.rd_setTw, State.scanReported_laneMin]
  case slip =>
    intro s l h17 hloop h0
    have hexec := exec_loopbackSlip s h17 hloop h0
    refine ⟨_, hexec, exec_only_of_fits hexec (by simp only [footprint]; decide +kernel), ?_, State.slipReported_said _ l,
      fun hsaid => State.slipReported_evt _ hsaid⟩
    rw [State.slipReported_count, s.rd_count_twin _ _ (by decide)]

end Sys2Proof.Machine
end

section
/-! The flash, the OTP and the unwrapped KEKs change only by the commands whose footprints hold them (R244, R248, R422, R426, R476, R481). The
audit journal's area of the flash (Table 16.3) is State.journal in the model, and no part of State.nv. -/

namespace Sys2Proof.Machine

open Sys2Proof

theorem exec_nv {c : Instr} {s t : State} (h : exec c s = .next t) (hk : (footprint c).testBit 10 = false) : t.nv = s.nv :=
  exec_samePart h 10 hk

theorem exec_keks {c : Instr} {s t : State} (h : exec c s = .next t) (hk : (footprint c).testBit 27 = false) : t.keks = s.keks :=
  exec_samePart h 27 hk

/-- Settles O6: the footprints that hold the flash and the OTP, and those that hold the unwrapped KEKs, are those of the commands named;
every other command lies outside. -/
theorem flashAndKeysChangeOnlyBy : Obligations.FlashAndKeysChangeOnlyBy := by
  unfold Obligations.FlashAndKeysChangeOnlyBy
  refine ⟨fun c s t h => ?_, fun c s t h => ?_⟩
  · cases c with
    | nvWrite | nvCommit | otpWrite | scrubVisit | islandPowerOn => simp
    | _ => exact .inl (exec_nv h (by simp only [footprint]; rfl))
  · cases c with
    | nvCommit | islandPowerOn | porstAssert | deviceReset | coreReset | bootStageDone | rootLockLoss | escalationTimeout
    | supplyThresholdCross | shutdownRestart | tjSample | registerWrite | counterWrite => simp
    | _ => exact .inl (exec_keks h (by simp only [footprint]; rfl))

end Sys2Proof.Machine
end

section
/-! Key contexts (R251, R254, R258): what Seizing holds of one after its events, its flushes and its hunts, as the obligations on keys and
on segments need it. -/

namespace Sys2Proof.Machine

open Sys2Proof

variable (s : State)

/-! ### What is held of a context and of a line -/

theorem State.setKc_kc (k : Nat) (x : KcInt) : (s.setKc k x).kc k = x := by simp [State.kc]

@[simp] theorem State.wr_kc (f : Fld) (v i j l k : Nat) : (s.wr f v i j l).kc k = s.kc k := rfl
@[simp] theorem State.count_kc (id : RegId) (d i j l k : Nat) : (s.count id d i j l).kc k = s.kc k := rfl
@[simp] theorem State.finish_kc (h status reason : Nat) (result buffer : List Byte) (k : Nat) :
    (s.finish h status reason result buffer).kc k = s.kc k := rfl

theorem State.kept_kc {s t : State} {m : Nat} (h : s.kept m t) (hm : m.testBit 26 = false) (k : Nat) : t.kc k = s.kc k :=
  congrArg (fun x => Tab.get ({} : KcInt) x k) (State.kept_part h 26 hm)

theorem State.kept_hit {s t : State} {m : Nat} (h : s.kept m t) (hm : m.testBit 28 = false) (n : Nat) : t.hit n = s.hit n :=
  congrArg (fun x => Tab.get ({} : HitchInt) x n) (State.kept_part h 28 hm)

/-! ### Events of a context -/

@[simp] theorem State.kcEvent_kcs (k : Nat) (f : Fld) (code : Nat) : (s.kcEvent k f code).kcs = s.kcs := s.raise_kcs _ _ _ _ _ _

@[simp] theorem State.kcEvent_kc (k : Nat) (f : Fld) (code j : Nat) : (s.kcEvent k f code).kc j = s.kc j := by
  rw [State.kc, State.kcEvent_kcs, ← State.kc]

theorem State.rd_kcEvent {f g : Fld} (k code a b c : Nat) (h : f.apart g = true) (hm : eventMask.testBit (regBit g.id) = false) :
    (s.kcEvent k f code).rd g a b c = s.rd g a b c := s.rd_raise_apart _ _ _ _ _ _ _ _ h hm

theorem State.kcEvent_on {f : Fld} (k code : Nat) (h : f.within [] = true) (hf : f.hi = f.lo)
    (hm : eventMask.testBit (regBit f.id) = false) : (s.kcEvent k f code).on f = true := s.on_raise_none _ _ _ _ h hf hm

/-! ### Segments given up, and the hunt (R254, R257) -/

/-- What follows a context's receive state changes: its client's egress, or its group's path. -/
def pathFoot : Nat :=
  eventFoot [.BEND_EVT, .BEND_PG_STAT, .BEND_PATH_ST, .SHET_CLI_STAT, .SHET_CLI_EVT, .SHET_CNT] [.clients]

theorem State.refreshKc_only (k : Nat) : s.kept pathFoot (s.refreshKc k) := State.refreshKc_kept s k (State.kept_refl _ s) rfl

@[simp] theorem State.refreshKc_kc (k j : Nat) : (s.refreshKc k).kc j = s.kc j := State.kept_kc (s.refreshKc_only k) rfl j

theorem State.rd_refreshKc {g : Fld} (h : pathFoot.testBit (regBit g.id) = false) (k a b c : Nat) :
    (s.refreshKc k).rd g a b c = s.rd g a b c := State.kept_rd (s.refreshKc_only k) g h a b c

/-- The segments released change only what the clients and the groups hold. -/
def releaseFoot : Nat := footOf [] [.clients, .groups]

theorem State.releaseSegment_only (k : Nat) (w : SegRec) (ok : Bool) : s.kept releaseFoot (s.releaseSegment k w ok) :=
  State.releaseSegment_kept s k w ok (State.kept_refl _ s) rfl

theorem State.flushHeld_only (k : Nat) : (s.setKc k { s.kc k with waiting := [] }).kept releaseFoot (s.flushHeld k) :=
  kept_foldl _ _ (fun t w h => State.releaseSegment_kept t k w false h rfl) (State.kept_refl _ _)

theorem State.flushHeld_kc (k : Nat) : (s.flushHeld k).kc k = { s.kc k with waiting := [] } := by
  rw [State.kept_kc (s.flushHeld_only k) rfl, State.setKc_kc]

theorem releaseFoot_reg (id : RegId) : releaseFoot.testBit (regBit id) = false :=
  Nat.testBit_lt_two_pow (lt_of_lt_of_le (b := 2 ^ 64) (by decide) (Nat.pow_le_pow_right (by decide) (Nat.le_add_right _ _)))

theorem State.rd_flushHeld (k : Nat) (g : Fld) (a b c : Nat) : (s.flushHeld k).rd g a b c = s.rd g a b c :=
  State.kept_rd (s.flushHeld_only k) g (releaseFoot_reg _) a b c

theorem State.hunt_kc (k : Nat) : (s.hunt k).kc k = { s.kc k with waiting := [] } := by
  rw [State.hunt, State.refreshKc_kc, State.wr_kc, State.flushHeld_kc]

theorem State.hunt_hunts (k : Kc) : (s.hunt k).rd .SEIZ_KC_ST_RX_STATE k = 1 := by
  rw [State.hunt, State.rd_refreshKc _ rfl, State.rd_wr_one _ _ _ (by decide)]
  rfl

theorem State.rd_hunt {g : Fld} (h : Fld.apart .SEIZ_KC_ST_RX_STATE g = true) (hm : pathFoot.testBit (regBit g.id) = false)
    (k a b c : Nat) : (s.hunt k).rd g a b c = s.rd g a b c := by
  rw [State.hunt, State.rd_refreshKc _ hm, State.rd_wr_apart _ _ _ _ _ _ _ _ h, State.rd_flushHeld]

end Sys2Proof.Machine
end

section
/-! The key commands (R250 to R253, R258, R260, Table 9.2), and the obligation on them. That the switch point is ignored for an Idle
direction, that none is late in Idle or Exhausted, and that LINK_LOAD on a context of KIND 1 ends with STATE are the model's choices (log
entry 57); that KEY_SWITCH without a staged key is late is Table 9.5's. -/

namespace Sys2Proof.Machine

open Sys2Proof

variable (s : State)

/-! ### Keys loaded (R251, R258) -/

theorem State.switchTx_kc (k : Nat) : (s.switchTx k).kc k = { s.kc k with tx := { active := (s.kc k).tx.staged } } := by
  unfold State.switchTx
  simp only [State.kcEvent_kc, State.wr_kc, State.setKc_kc]

/-- A switch of the transmit key: the other index, INV 0, a running direction, and the event. -/
theorem State.switchTx_shows (k : Kc) :
    (s.switchTx k).on .SEIZ_KC_ST_TX_IDX k = !(s.on .SEIZ_KC_ST_TX_IDX k) ∧ (s.switchTx k).rd .SEIZ_KC_ST_TX_NEXT k = 0 ∧
      (s.switchTx k).rd .SEIZ_KC_ST_TX_STATE k = 1 ∧ (s.switchTx k).on .SEIZ_EVT_SWITCHED = true := by
  have hidx : s.rd .SEIZ_KC_ST_TX_IDX k < 2 := bits_lt _ 218 218
  unfold State.switchTx
  refine ⟨?_, ?_, ?_, State.kcEvent_on _ _ _ (by decide) rfl rfl⟩
  · rw [State.on, State.on, State.rd_kcEvent _ _ _ _ _ _ (by decide) rfl, State.rd_wr_apart _ _ _ _ _ _ _ _ (by decide),
      State.rd_wr_apart _ _ _ _ _ _ _ _ (by decide), State.rd_wr_apart _ _ _ _ _ _ _ _ (by decide), State.rd_wr_one _ _ _ (by decide),
      State.rd_setKc]
    generalize s.rd .SEIZ_KC_ST_TX_IDX k = i at *
    interval_cases i <;> rfl
  · rw [State.rd_kcEvent _ _ _ _ _ _ (by decide) rfl, State.rd_wr_apart _ _ _ _ _ _ _ _ (by decide), State.rd_wr_one _ _ _ (by decide)]
    rfl
  · rw [State.rd_kcEvent _ _ _ _ _ _ (by decide) rfl, State.rd_wr_one _ _ _ (by decide)]
    rfl

section
variable (k : Kc) (key : KeyRec) (point : Option Nat)

/-- A transmit key for an Idle direction becomes the active one. -/
theorem State.loadKey_tx_idle (h0 : s.rd .SEIZ_KC_ST_TX_STATE k = 0) :
    (s.loadKey k false key point).kc k = { s.kc k with tx := { (s.kc k).tx with active := some key, warned := false } } ∧
      (s.loadKey k false key point).rd .SEIZ_KC_ST_TX_STATE k = 1 ∧ (s.loadKey k false key point).rd .SEIZ_KC_ST_TX_NEXT k = 0 := by
  unfold State.loadKey
  dsimp only
  rw [if_neg (by decide), if_pos h0]
  refine ⟨by rw [State.wr_kc, State.wr_kc, State.setKc_kc], ?_, State.rd_wr_one _ _ _ (by decide)⟩
  rw [State.rd_wr_apart _ _ _ _ _ _ _ _ (by decide), State.rd_wr_one _ _ _ (by decide)]
  rfl

/-- A direction with its staged key and the key's switch point. -/
def DirInt.stage (d : DirInt) (key : KeyRec) (p : Option Nat) : DirInt := { d with staged := some key, point := p }

/-- A switch point as it is held: rounded up to a multiple of S. -/
def State.pointAt (s : State) (k : Nat) (point : Option Nat) : Option Nat := point.map fun v => roundUp v (s.rd .SEIZ_KC_ST_S k)

/-- A transmit key staged. -/
def State.stageTx (s : State) (k : Nat) (key : KeyRec) (point : Option Nat) : State :=
  (s.setKc k { s.kc k with tx := (s.kc k).tx.stage key (s.pointAt k point) }).wr .SEIZ_KC_ST_TX_STAGED 1 k

/-- A receive key staged. -/
def State.stageRx (s : State) (k : Nat) (key : KeyRec) (point : Option Nat) : State :=
  (s.setKc k { s.kc k with rx := (s.kc k).rx.stage key (s.pointAt k point) }).wr .SEIZ_KC_ST_RX_STAGED 1 k

theorem State.stageTx_kc (k : Nat) :
    (s.stageTx k key point).kc k = { s.kc k with tx := (s.kc k).tx.stage key (s.pointAt k point) } := s.setKc_kc _ _

theorem State.stageRx_kc (k : Nat) :
    (s.stageRx k key point).kc k = { s.kc k with rx := (s.kc k).rx.stage key (s.pointAt k point) } := s.setKc_kc _ _

theorem State.loadKey_tx_held (h0 : s.rd .SEIZ_KC_ST_TX_STATE k ≠ 0) : s.loadKey k false key point =
    if s.rd .SEIZ_KC_ST_TX_STATE k = 2 then (s.stageTx k key point).switchTx k else s.stageTx k key point := by
  have hst : (s.stageTx k key point).rd .SEIZ_KC_ST_TX_STATE k = s.rd .SEIZ_KC_ST_TX_STATE k :=
    State.rd_wr_apart _ _ _ _ _ _ _ _ (by decide)
  rw [← hst]
  unfold State.loadKey
  dsimp only
  rw [if_neg (by decide), if_neg h0]
  rfl

theorem State.loadKey_rx_held (h0 : s.rd .SEIZ_KC_ST_RX_STATE k ≠ 0) : s.loadKey k true key point =
    if s.rd .SEIZ_KC_ST_RX_STATE k = 4 then
      ((s.stageRx k key point).setKc k { (s.stageRx k key point).kc k with huntStaged := true }).hunt k
    else s.stageRx k key point := by
  have hst : (s.stageRx k key point).rd .SEIZ_KC_ST_RX_STATE k = s.rd .SEIZ_KC_ST_RX_STATE k :=
    State.rd_wr_apart _ _ _ _ _ _ _ _ (by decide)
  rw [← hst]
  unfold State.loadKey
  dsimp only
  rw [if_pos rfl, if_neg h0]
  rfl

/-- A transmit key for a running direction is staged. -/
theorem State.loadKey_tx_running (h1 : s.rd .SEIZ_KC_ST_TX_STATE k = 1) :
    (s.loadKey k false key point).kc k = { s.kc k with tx := (s.kc k).tx.stage key (s.pointAt k point) } ∧
      (s.loadKey k false key point).on .SEIZ_KC_ST_TX_STAGED k = true := by
  rw [s.loadKey_tx_held k key point (by omega), if_neg (by omega)]
  refine ⟨s.stageTx_kc key point k, ?_⟩
  rw [State.on, State.stageTx, State.rd_wr_one _ _ _ (by decide)]
  rfl

/-- A transmit key for an Exhausted direction is switched to at once. -/
theorem State.loadKey_tx_exhausted (h2 : s.rd .SEIZ_KC_ST_TX_STATE k = 2) :
    (s.loadKey k false key point).kc k = { s.kc k with tx := { active := some key } } ∧
      (s.loadKey k false key point).rd .SEIZ_KC_ST_TX_STATE k = 1 ∧
      (s.loadKey k false key point).on .SEIZ_KC_ST_TX_IDX k = !(s.on .SEIZ_KC_ST_TX_IDX k) ∧
      (s.loadKey k false key point).on .SEIZ_EVT_SWITCHED = true := by
  obtain ⟨hidx, -, hst, hev⟩ := (s.stageTx k key point).switchTx_shows k
  rw [s.loadKey_tx_held k key point (by omega), if_pos h2]
  refine ⟨?_, hst, hidx.trans (congrArg (fun n => !(n != 0)) ?_), hev⟩
  · rw [State.switchTx_kc, State.stageTx_kc]
    rfl
  · exact State.rd_wr_apart _ _ _ _ _ _ _ _ (by decide)

/-- A receive key for an Idle direction becomes the active one, and the direction hunts. -/
theorem State.loadKey_rx_idle (h0 : s.rd .SEIZ_KC_ST_RX_STATE k = 0) :
    (s.loadKey k true key point).kc k = { s.kc k with
      rx := { (s.kc k).rx with active := some key }, nextClose := 0, verified := none, huntStaged := false, waiting := [] } ∧
      (s.loadKey k true key point).rd .SEIZ_KC_ST_RX_STATE k = 1 := by
  unfold State.loadKey
  dsimp only
  rw [if_pos rfl, if_pos h0]
  refine ⟨?_, State.hunt_hunts _ k⟩
  rw [State.hunt_kc, State.setKc_kc]

/-- A receive key for another direction is staged; an Exhausted one hunts for it. -/
theorem State.loadKey_rx_staged (h0 : s.rd .SEIZ_KC_ST_RX_STATE k ≠ 0) :
    ((s.loadKey k true key point).kc k).tx = (s.kc k).tx ∧
      ((s.loadKey k true key point).kc k).rx = (s.kc k).rx.stage key (s.pointAt k point) ∧
      (s.loadKey k true key point).on .SEIZ_KC_ST_RX_STAGED k = true ∧
      (s.loadKey k true key point).rd .SEIZ_KC_ST_RX_STATE k =
        if s.rd .SEIZ_KC_ST_RX_STATE k = 4 then 1 else s.rd .SEIZ_KC_ST_RX_STATE k := by
  have hon : (s.stageRx k key point).rd .SEIZ_KC_ST_RX_STAGED k = 1 := State.rd_wr_one _ _ _ (by decide)
  rw [s.loadKey_rx_held k key point h0]
  split
  · rw [State.hunt_kc, State.setKc_kc, State.stageRx_kc, State.on, State.rd_hunt _ (by decide) rfl, State.rd_setKc, hon]
    exact ⟨rfl, rfl, rfl, State.hunt_hunts _ k⟩
  · rw [State.stageRx_kc, State.on, hon]
    exact ⟨rfl, rfl, rfl, State.rd_wr_apart _ _ _ _ _ _ _ _ (by decide)⟩

/-- A key loaded leaves the other direction's keys. -/
theorem State.loadKey_otherDir (rx : Bool) : (s.loadKey k rx key point).dirOf k (!rx) = s.dirOf k (!rx) := by
  cases rx with
  | true =>
    change ((s.loadKey k true key point).kc k).tx = (s.kc k).tx
    by_cases h0 : s.rd .SEIZ_KC_ST_RX_STATE k = 0
    · rw [(s.loadKey_rx_idle k key point h0).1]
    · exact (s.loadKey_rx_staged k key point h0).1
  | false =>
    change ((s.loadKey k false key point).kc k).rx = (s.kc k).rx
    by_cases h0 : s.rd .SEIZ_KC_ST_TX_STATE k = 0
    · rw [(s.loadKey_tx_idle k key point h0).1]
    · rw [s.loadKey_tx_held k key point h0]
      split
      · rw [State.switchTx_kc, State.stageTx_kc]
      · rw [State.stageTx_kc]

theorem State.loadKey_inflight (k : Nat) (rx : Bool) : (s.loadKey k rx key point).inflight = s.inflight :=
  State.kept_part (State.loadKey_kept s k rx key point (State.kept_refl _ s) (Foot.refl _)) 5 rfl

end

/-- A switch point set changes nothing else of its direction, and nothing of the other. -/
theorem State.setPoint_dirOf (k : Nat) (rx : Bool) (point : Option Nat) :
    (s.setPoint k rx point).dirOf k rx = { s.dirOf k rx with point := s.pointAt k point } ∧
      (s.setPoint k rx point).dirOf k (!rx) = s.dirOf k (!rx) := by
  unfold State.setPoint State.dirOf
  dsimp only
  rw [State.setKc_kc]
  cases rx <;> exact ⟨rfl, rfl⟩

/-! ### Keys erased (R260) -/

/-- A direction without the keys that are erased. -/
def DirInt.without (d : DirInt) (active staged : Bool) : DirInt :=
  { active := if active then none else d.active, staged := if staged then none else d.staged,
    point := if staged then none else d.point, warned := d.warned && !active }

/-- The state of a direction. -/
def dirState (rx : Bool) : Fld := if rx then .SEIZ_KC_ST_RX_STATE else .SEIZ_KC_ST_TX_STATE

section
variable (k : Kc) (active staged : Bool)

/-- A receive direction with keys erased, before what follows its state. -/
def State.rxErased (s : State) (k : Nat) (active staged : Bool) : State :=
  let u := if active then s.flushHeld k else s
  let v := u.setKc k { u.kc k with rx := (s.kc k).rx.without active staged }
  if staged then v.wr .SEIZ_KC_ST_RX_STAGED 0 k else v

/-- A transmit direction with keys erased, before its state. -/
def State.txErased (s : State) (k : Nat) (active staged : Bool) : State :=
  let x := s.kc k
  let v := s.setKc k (if active then { x with tx := x.tx.without active staged, txSegs := [], ending := s.openSegment k }
    else { x with tx := x.tx.without active staged })
  if staged then v.wr .SEIZ_KC_ST_TX_STAGED 0 k else v

theorem State.zeroKeys_rx (k : Nat) : s.zeroKeys k true active staged =
    if active then ((s.rxErased k active staged).wr .SEIZ_KC_ST_RX_STATE 0 k).refreshKc k else s.rxErased k active staged := rfl

theorem State.zeroKeys_tx (k : Nat) : s.zeroKeys k false active staged =
    if active then (s.txErased k active staged).wr .SEIZ_KC_ST_TX_STATE 0 k else s.txErased k active staged := rfl

theorem State.rxErased_kc (k : Nat) : ((s.rxErased k active staged).kc k).tx = (s.kc k).tx ∧
    ((s.rxErased k active staged).kc k).rx = (s.kc k).rx.without active staged := by
  have hflush : ((if active then s.flushHeld k else s).kc k).tx = (s.kc k).tx := by
    split
    · rw [State.flushHeld_kc]
    · rfl
  unfold State.rxErased
  dsimp only
  generalize (if active then s.flushHeld k else s : State) = u at *
  split <;> simp only [State.wr_kc, State.setKc_kc, hflush, and_self]

theorem State.txErased_kc (k : Nat) : ((s.txErased k active staged).kc k).rx = (s.kc k).rx ∧
    ((s.txErased k active staged).kc k).tx = (s.kc k).tx.without active staged := by
  have hset (x : KcInt) : ((if staged then (s.setKc k x).wr .SEIZ_KC_ST_TX_STAGED 0 k else s.setKc k x : State).kc k) = x := by
    split <;> simp only [State.wr_kc, State.setKc_kc]
  unfold State.txErased
  dsimp only
  rw [hset]
  split <;> exact ⟨rfl, rfl⟩

/-- The direction loses the keys named, and the other one none. -/
theorem State.zeroKeys_dirOf (k : Nat) (rx : Bool) : (s.zeroKeys k rx active staged).dirOf k rx = (s.dirOf k rx).without active staged ∧
    (s.zeroKeys k rx active staged).dirOf k (!rx) = s.dirOf k (!rx) := by
  cases rx with
  | true =>
    obtain ⟨htx, hrx⟩ := s.rxErased_kc active staged k
    change ((s.zeroKeys k true active staged).kc k).rx = _ ∧ ((s.zeroKeys k true active staged).kc k).tx = _
    rw [State.zeroKeys_rx]
    split
    · rw [State.refreshKc_kc, State.wr_kc]
      exact ⟨hrx, htx⟩
    · exact ⟨hrx, htx⟩
  | false =>
    obtain ⟨hrx, htx⟩ := s.txErased_kc active staged k
    change ((s.zeroKeys k false active staged).kc k).tx = _ ∧ ((s.zeroKeys k false active staged).kc k).rx = _
    rw [State.zeroKeys_tx]
    split
    · exact ⟨htx, hrx⟩
    · exact ⟨htx, hrx⟩

/-- Without its active key a direction is Idle. -/
theorem State.zeroKeys_idle (rx : Bool) : (s.zeroKeys k rx true staged).rd (dirState rx) k = 0 := by
  cases rx with
  | true =>
    rw [State.zeroKeys_rx, if_pos rfl, State.rd_refreshKc _ rfl]
    exact State.rd_wr_one _ _ _ (by decide)
  | false =>
    rw [State.zeroKeys_tx, if_pos rfl]
    exact State.rd_wr_one _ _ _ (by decide)

/-- The fields that keys erased in a direction leave. -/
theorem State.rd_zeroKeys_rx {g : Fld} (k a b c : Nat) (hst : Fld.apart .SEIZ_KC_ST_RX_STATE g = true)
    (hs : Fld.apart .SEIZ_KC_ST_RX_STAGED g = true) (hm : pathFoot.testBit (regBit g.id) = false) :
    (s.zeroKeys k true active staged).rd g a b c = s.rd g a b c := by
  have herased : (s.rxErased k active staged).rd g a b c = s.rd g a b c := by
    unfold State.rxErased
    dsimp only
    split_ifs <;> simp only [State.rd_wr_apart _ _ _ _ _ _ _ _ hs, State.rd_setKc, State.rd_flushHeld]
  rw [State.zeroKeys_rx]
  split
  · rw [State.rd_refreshKc _ hm, State.rd_wr_apart _ _ _ _ _ _ _ _ hst, herased]
  · exact herased

theorem State.rd_zeroKeys_tx {g : Fld} (k a b c : Nat) (hst : Fld.apart .SEIZ_KC_ST_TX_STATE g = true)
    (hs : Fld.apart .SEIZ_KC_ST_TX_STAGED g = true) : (s.zeroKeys k false active staged).rd g a b c = s.rd g a b c := by
  have herased : (s.txErased k active staged).rd g a b c = s.rd g a b c := by
    unfold State.txErased
    dsimp only
    split_ifs <;> simp only [State.rd_wr_apart _ _ _ _ _ _ _ _ hs, State.rd_setKc]
  rw [State.zeroKeys_tx]
  split
  · rw [State.rd_wr_apart _ _ _ _ _ _ _ _ hst, herased]
  · exact herased

end

/-- KEY_ZERO's part for one direction. -/
def State.zeroDir (s : State) (k : Nat) (rx : Bool) (dir slot : Nat) : State :=
  if dir = 2 ∨ dir = b2n rx then s.zeroKeys k rx (s.slotsNamed k rx slot).1 (s.slotsNamed k rx slot).2 else s

theorem State.zeroDir_inflight (k : Nat) (rx : Bool) (dir slot : Nat) : (s.zeroDir k rx dir slot).inflight = s.inflight := by
  unfold State.zeroDir
  split
  · exact State.kept_part (State.zeroKeys_kept s k rx _ _ (State.kept_refl _ s) (Foot.refl _)) 5 rfl
  · rfl

theorem State.zeroDir_dirOf_other (k : Nat) (rx : Bool) (dir slot : Nat) :
    (s.zeroDir k rx dir slot).dirOf k (!rx) = s.dirOf k (!rx) := by
  unfold State.zeroDir
  split
  · exact (s.zeroKeys_dirOf _ _ k rx).2
  · rfl

theorem State.zeroDir_unnamed {k : Nat} {rx : Bool} {dir slot : Nat} (h2 : dir ≠ 2) (h : dir ≠ b2n rx) :
    s.zeroDir k rx dir slot = s := if_neg (not_or.mpr ⟨h2, h⟩)

/-- The direction named loses the keys of the slots named; without its active key it is Idle. -/
theorem State.zeroDir_named (k : Kc) {rx : Bool} {dir slot : Nat} (h : dir = 2 ∨ dir = b2n rx) :
    (s.zeroDir k rx dir slot).dirOf k rx =
        (s.dirOf k rx).without (s.slotsNamed k rx slot).1 (s.slotsNamed k rx slot).2 ∧
      ((s.slotsNamed k rx slot).1 = true → (s.zeroDir k rx dir slot).rd (dirState rx) k = 0) := by
  unfold State.zeroDir
  rw [if_pos h]
  refine ⟨(s.zeroKeys_dirOf _ _ k rx).1, fun hact => ?_⟩
  rw [hact]
  exact s.zeroKeys_idle k _ rx

/-- KEY_ZERO for the transmitter leaves which slot is staged in either direction. -/
theorem State.zeroDir_slotsNamed (k : Nat) (rx : Bool) (dir slot code : Nat) :
    (s.zeroDir k false dir slot).slotsNamed k rx code = s.slotsNamed k rx code := by
  unfold State.zeroDir
  split
  · unfold State.slotsNamed State.stagedSlot
    rw [State.rd_zeroKeys_tx _ _ _ _ _ _ _ (by decide) (by decide), State.rd_zeroKeys_tx _ _ _ _ _ _ _ (by decide) (by decide)]
  · rfl

/-- KEY_ZERO for the receiver leaves the transmitter's state. -/
theorem State.zeroDir_txState (k : Nat) (dir slot : Nat) :
    (s.zeroDir k true dir slot).rd .SEIZ_KC_ST_TX_STATE k = s.rd .SEIZ_KC_ST_TX_STATE k := by
  unfold State.zeroDir
  split
  · exact State.rd_zeroKeys_rx _ _ _ _ _ _ _ (by decide) (by decide) rfl
  · rfl

/-- KEY_ZERO's parts for both directions, the transmitter's first. -/
def State.zeroBoth (s : State) (k dir slot : Nat) : State := (s.zeroDir k false dir slot).zeroDir k true dir slot

theorem State.zeroBoth_inflight (k dir slot : Nat) : (s.zeroBoth k dir slot).inflight = s.inflight := by
  rw [State.zeroBoth, State.zeroDir_inflight, State.zeroDir_inflight]

theorem State.zeroBoth_unnamed {k : Nat} {rx : Bool} {dir slot : Nat} (h2 : dir ≠ 2) (h : dir ≠ b2n rx) :
    (s.zeroBoth k dir slot).dirOf k rx = s.dirOf k rx := by
  unfold State.zeroBoth
  cases rx with
  | true => rw [State.zeroDir_unnamed _ h2 h, ← Bool.not_false, State.zeroDir_dirOf_other]
  | false => rw [← Bool.not_true, State.zeroDir_dirOf_other, Bool.not_true, s.zeroDir_unnamed h2 h]

theorem State.zeroBoth_named (k : Kc) {rx : Bool} {dir slot : Nat} (h : dir = 2 ∨ dir = b2n rx) :
    (s.zeroBoth k dir slot).dirOf k rx =
        (s.dirOf k rx).without (s.slotsNamed k rx slot).1 (s.slotsNamed k rx slot).2 ∧
      ((s.slotsNamed k rx slot).1 = true → (s.zeroBoth k dir slot).rd (dirState rx) k = 0) := by
  unfold State.zeroBoth
  cases rx with
  | true =>
    have hother : (s.zeroDir k false dir slot).dirOf k true = s.dirOf k true := s.zeroDir_dirOf_other k false dir slot
    rw [← hother, ← s.zeroDir_slotsNamed k true dir slot slot]
    exact (s.zeroDir k false dir slot).zeroDir_named k h
  | false =>
    have hother (t : State) : (t.zeroDir k true dir slot).dirOf k false = t.dirOf k false := t.zeroDir_dirOf_other k true dir slot
    obtain ⟨hdir, hidle⟩ := s.zeroDir_named k (slot := slot) h
    exact ⟨(hother _).trans hdir, fun hact => (State.zeroDir_txState _ _ _ _).trans (hidle hact)⟩

/-! ### An authentication failure cleared (R258) -/

theorem State.clearAf_failed (k : Kc) (h3 : s.rd .SEIZ_KC_ST_RX_STATE k = 3) :
    (s.clearAf k).rd .SEIZ_KC_ST_RX_STATE k = 1 ∧ (s.clearAf k).rd .SEIZ_KC_ST_CONSEC k = 0 ∧
      (s.clearAf k).on .SEIZ_EVT_AF_CLEAR = true := by
  unfold State.clearAf
  rw [if_pos h3]
  refine ⟨State.hunt_hunts _ k, ?_, ?_⟩
  · rw [State.rd_hunt _ (by decide) rfl, State.rd_kcEvent _ _ _ _ _ _ (by decide) rfl]
    exact State.rd_wr_one _ _ _ (by decide)
  · rw [State.on, State.rd_hunt _ (by decide) rfl]
    exact State.kcEvent_on _ _ _ (by decide) rfl rfl

theorem State.clearAf_held {k : Nat} (h3 : s.rd .SEIZ_KC_ST_RX_STATE k ≠ 3) : s.clearAf k = s := if_neg h3

theorem State.clearAf_inflight (k : Nat) : (s.clearAf k).inflight = s.inflight :=
  State.kept_part (State.clearAf_kept s k (State.kept_refl _ s) (Foot.refl _)) 5 rfl

/-! ### The commands as effects -/

/-- The context that a command names. -/
def Cmd.context (c : Cmd) : Kc := ⟨c.kc, Nat.mod_lt _ (by decide)⟩

/-- A blob refused: its reason is the command's, and no key changes. -/
theorem State.blobRefused_shows (k : Nat) : (s.blobRefused k).kcs = s.kcs ∧ (s.blobRefused k).inflight = s.inflight ∧
    (s.blobRefused k).on .SEIZ_EVT_BLOB_REFUSED = true :=
  ⟨s.kcEvent_kcs _ _ _, s.raise_inflight _ _ _ _ _ _, s.kcEvent_on _ _ (by decide) rfl rfl⟩

/-- The slot that a loaded key takes: the active one of a direction without an active key. -/
def State.slotLoaded (s : State) (k : Nat) (rx : Bool) : Nat :=
  if (s.dirOf k rx).active.isNone then 1 - s.stagedSlot k rx else s.stagedSlot k rx

/-- The effect of KEY_LOAD. -/
def State.keyLoadRun (s : State) (h : Nat) (c : Cmd) (rx : Bool) : State :=
  match s.openBlob c.kc 1 (b2n rx) c.ind with
  | .inl reason => (s.blobRefused c.kc).finish h 7 reason [] []
  | .inr key =>
    if s.dirRuns c.kc rx && s.pointLate c.kc rx c.point then s.finish h 8 0 [] []
    else (s.loadKey c.kc rx key c.point).finishKey h c.kc rx key.kid (s.slotLoaded c.kc rx)

/-- The effect of KEY_SWITCH. -/
def State.keySwitchRun (s : State) (h : Nat) (c : Cmd) (rx : Bool) : State :=
  match (s.dirOf c.kc rx).staged with
  | none => s.finish h 8 0 [] []
  | some key =>
    if s.dirRuns c.kc rx && s.pointLate c.kc rx c.point then s.finish h 8 0 [] []
    else (s.setPoint c.kc rx c.point).finishKey h c.kc rx key.kid (s.stagedSlot c.kc rx)

/-- The effect of LINK_LOAD. -/
def State.linkLoadRun (s : State) (h : Nat) (c : Cmd) : State :=
  match s.openBlob c.kc 2 2 c.ind with
  | .inl reason => (s.blobRefused c.kc).finish h 7 reason [] []
  | .inr key =>
    if s.on .SEIZ_KC_CFG_KIND c.kc then s.finish h 6 0 [] []
    else (s.setKc c.kc { s.kc c.kc with link := some key }).finish h 0 0 [] (leBytes 8 key.kid)

section
variable {s} {t : State} {h : Nat} {c : Cmd} {rx : Bool}

theorem b2n_beq_one (rx : Bool) : (b2n rx == 1) = rx := by cases rx <;> rfl

theorem b2n_le_one (rx : Bool) : b2n rx ≤ 1 := by cases rx <;> decide

theorem exec_keyLoad (hr : s.ready 14 0x0101 h c) (hd : c.par 16 1 = b2n rx) (hl : c.ind.length = 88) :
    ∃ t, exec (.keyLoad h) s = .next t ∧ ((s.begun h).keyLoadRun h c rx).kept recordMask t := by
  change ∃ t, execKeyLoad h s = .next t ∧ _
  unfold execKeyLoad
  obtain ⟨t, hexec, hk⟩ := ospin_ready hr _
  refine ⟨t, hexec, ?_⟩
  dsimp only at hk
  rw [hd, if_neg (by have := b2n_le_one rx; omega), b2n_beq_one] at hk
  exact hk

theorem exec_keySwitch (hr : s.ready 14 0x0102 h c) (hd : c.par 16 1 = b2n rx) :
    ∃ t, exec (.keySwitch h) s = .next t ∧ ((s.begun h).keySwitchRun h c rx).kept recordMask t := by
  change ∃ t, execKeySwitch h s = .next t ∧ _
  unfold execKeySwitch
  obtain ⟨t, hexec, hk⟩ := ospin_ready hr _
  refine ⟨t, hexec, ?_⟩
  dsimp only at hk
  rw [hd, if_neg (by have := b2n_le_one rx; omega), b2n_beq_one] at hk
  exact hk

theorem exec_linkLoad (hr : s.ready 14 0x0106 h c) (hl : c.ind.length = 88) :
    ∃ t, exec (.linkLoad h) s = .next t ∧ ((s.begun h).linkLoadRun h c).kept recordMask t := by
  change ∃ t, execLinkLoad h s = .next t ∧ _
  unfold execLinkLoad
  obtain ⟨t, hexec, hk⟩ := ospin_ready hr _
  refine ⟨t, hexec, ?_⟩
  dsimp only at hk
  rw [if_neg (by omega)] at hk
  exact hk

theorem exec_keyZero (hr : s.ready 14 0x0103 h c) (hd : c.par 16 1 ≤ 2) (hs : c.par 17 1 ≤ 3) :
    ∃ t, exec (.keyZero h) s = .next t ∧ ∃ result,
      (((s.begun h).zeroBoth c.kc (c.par 16 1) (c.par 17 1)).finish h 0 0 result []).kept recordMask t := by
  change ∃ t, execKeyZero h s = .next t ∧ _
  unfold execKeyZero
  obtain ⟨t, hexec, hk⟩ := ospin_ready hr _
  refine ⟨t, hexec, ?_⟩
  dsimp only at hk
  rw [if_neg (by omega)] at hk
  have hone (t : State) (rx : Bool) : (if c.par 16 1 = 2 ∨ c.par 16 1 = b2n rx then
      (t.zeroKeys c.kc rx (t.slotsNamed c.kc rx (c.par 17 1)).1 (t.slotsNamed c.kc rx (c.par 17 1)).2,
        t.slotBits c.kc rx (t.slotsNamed c.kc rx (c.par 17 1)))
      else (t, 0)).1 = t.zeroDir c.kc rx (c.par 16 1) (c.par 17 1) := by
    unfold State.zeroDir
    split <;> rfl
  rw [hone, hone] at hk
  exact ⟨_, hk⟩

theorem exec_keyClearAf (hr : s.ready 14 0x0104 h c) : ∃ t, exec (.keyClearAf h) s = .next t ∧
    (((s.begun h).clearAf c.kc).finish h 0 0 (leBytes 1 (((s.begun h).clearAf c.kc).rd .SEIZ_KC_ST_RX_STATE c.kc)) []).kept
      recordMask t := by
  change ∃ t, execKeyClearAf h s = .next t ∧ _
  unfold execKeyClearAf
  exact ospin_ready hr _

theorem exec_keyStatus (hr : s.ready 14 0x0105 h c) : ∃ t, exec (.keyStatus h) s = .next t ∧ ∃ result,
    ((s.begun h).finish h 0 0 result (leBytes 32 (s.reg .SEIZ_KC_ST c.kc) ++ leBytes 8 (kidOf (s.kc c.kc).tx.active) ++
      leBytes 8 (kidOf (s.kc c.kc).rx.active))).kept recordMask t := by
  change ∃ t, execKeyStatus h s = .next t ∧ _
  unfold execKeyStatus
  obtain ⟨t, hexec, hk⟩ := ospin_ready hr _
  exact ⟨t, hexec, _, hk⟩

/-- What a key command shows is what its effect has left. -/
theorem State.finished_shows {u : State} {status reason : Nat} {result buffer : List Byte}
    (ht : (u.finish h status reason result buffer).kept recordMask t) : t.kcs = u.kcs ∧ (∀ k rx, t.dirOf k rx = u.dirOf k rx) ∧
      ∀ f : Fld, recordMask.testBit (regBit f.id) = false → ∀ a b c, t.rd f a b c = u.rd f a b c := by
  have hkcs : t.kcs = u.kcs := State.kept_part ht 26 rfl
  refine ⟨hkcs, fun k rx => ?_, fun f hf => State.kept_rd ht f hf⟩
  rw [State.dirOf, State.kc, hkcs]
  rfl

/-- The reason that a ready command has ended with. -/
theorem State.ready_reason {u : State} {b op status reason : Nat} {result buffer : List Byte} (hr : s.ready b op h c)
    (ht : (u.finish h status reason result buffer).kept recordMask t) (hu : u.inflight = (s.begun h).inflight) :
    ∀ d, t.cmd h = some d → d.reason = reason := by
  obtain ⟨-, -, hc, -, hd, -⟩ := hr
  have hcmd : u.cmd h = some { c with started := true } := by
    rw [← s.cmd_begun hc, State.cmd, hu]
    rfl
  have hend := u.cmd_finish hcmd hd status reason result buffer
  rw [← State.kept_cmd ht rfl h] at hend
  intro d hd'
  obtain rfl := Option.some.inj (hend.symm.trans hd')
  rfl

end

/-- Settles O37: each command's effect, but for its record, is an operation on its context; a refused or late load leaves it alone, and what
an accepted one changes is read off the operation for each state of the direction. -/
theorem keyCommands : Obligations.KeyCommands := by
  unfold Obligations.KeyCommands
  refine ⟨?load, ?point, ?zero, ?clear, ?status, ?link⟩
  case load =>
    intro s h c rx hr hd hl
    obtain ⟨t, hexec, hk⟩ := exec_keyLoad hr hd hl
    have hopen : (s.begun h).openBlob c.kc 1 (b2n rx) c.ind = s.openBlob c.kc 1 (b2n rx) c.ind := rfl
    have hlate : ((s.begun h).dirRuns c.kc rx && (s.begun h).pointLate c.kc rx c.point) =
      (s.dirRuns c.kc rx && s.pointLate c.kc rx c.point) := rfl
    rw [State.keyLoadRun, hopen, hlate] at hk
    refine ⟨t, hexec, exec_only_of_fits hexec (by simp only [footprint]; decide +kernel), fun r ho => ?_, fun key ho hruns hpt => ?_,
      fun key ho hin => ?_⟩
    · rw [ho] at hk
      obtain ⟨hkcs, hflight, hev⟩ := (s.begun h).blobRefused_shows c.kc
      obtain ⟨hkcs', -, hrd⟩ := State.finished_shows hk
      refine ⟨(State.ready_ended hr hk hflight).1, State.ready_reason hr hk hflight, hkcs'.trans hkcs, ?_⟩
      rw [State.on, hrd _ rfl]
      exact hev
    · rw [ho, hruns, hpt] at hk
      exact ⟨(State.ready_ended hr hk rfl).1, (State.finished_shows hk).1⟩
    · rw [ho, hin] at hk
      obtain ⟨-, hdir, hrd⟩ := State.finished_shows hk
      refine ⟨(State.ready_ended hr hk ((s.begun h).loadKey_inflight key c.point c.kc rx)).1,
        (hdir _ _).trans ((s.begun h).loadKey_otherDir c.context key c.point rx), ?_, ?_, ?_, ?_, ?_⟩
      · rintro rfl h0
        obtain ⟨hkc, hst, hnext⟩ := (s.begun h).loadKey_tx_idle c.context key c.point h0
        exact ⟨congrArg DirInt.active ((hdir c.kc false).trans (congrArg KcInt.tx hkc)), (hrd _ rfl _ _ _).trans hst,
          (hrd _ rfl _ _ _).trans hnext⟩
      · rintro rfl h1
        obtain ⟨hkc, hon⟩ := (s.begun h).loadKey_tx_running c.context key c.point h1
        have htx : (t.kc c.kc).tx = (s.kc c.kc).tx.stage key (s.pointAt c.kc c.point) := (hdir c.kc false).trans (congrArg KcInt.tx hkc)
        rw [htx, State.on, hrd _ rfl]
        exact ⟨rfl, rfl, rfl, hon⟩
      · rintro rfl h2
        obtain ⟨hkc, hst, hidx, hev⟩ := (s.begun h).loadKey_tx_exhausted c.context key c.point h2
        refine ⟨congrArg DirInt.active ((hdir c.kc false).trans (congrArg KcInt.tx hkc)), (hrd _ rfl _ _ _).trans hst, ?_, ?_⟩
        · rw [State.on, hrd _ rfl]
          exact hidx
        · rw [State.on, hrd _ rfl]
          exact hev
      · rintro rfl h0
        obtain ⟨hkc, hst⟩ := (s.begun h).loadKey_rx_idle c.context key c.point h0
        exact ⟨congrArg DirInt.active ((hdir c.kc true).trans (congrArg KcInt.rx hkc)), (hrd _ rfl _ _ _).trans hst⟩
      · rintro rfl h0
        obtain ⟨-, hrx, hon, hst⟩ := (s.begun h).loadKey_rx_staged c.context key c.point h0
        have hrx' : (t.kc c.kc).rx = (s.kc c.kc).rx.stage key (s.pointAt c.kc c.point) := (hdir c.kc true).trans hrx
        rw [hrx', State.on, hrd _ rfl, hrd _ rfl]
        exact ⟨rfl, rfl, hon, hst⟩
  case point =>
    intro s h c rx hr hd
    obtain ⟨t, hexec, hk⟩ := exec_keySwitch hr hd
    have hdirOf : (s.begun h).dirOf c.kc rx = s.dirOf c.kc rx := rfl
    have hlate : ((s.begun h).dirRuns c.kc rx && (s.begun h).pointLate c.kc rx c.point) =
      (s.dirRuns c.kc rx && s.pointLate c.kc rx c.point) := rfl
    rw [State.keySwitchRun, hdirOf, hlate] at hk
    refine ⟨t, hexec, exec_only_of_fits hexec (by simp only [footprint]; decide +kernel), fun hnone => ?_, fun hsome hpt => ?_,
      fun hsome hpt => ?_⟩
    · rw [hnone] at hk
      exact ⟨(State.ready_ended hr hk rfl).1, (State.finished_shows hk).1⟩
    · obtain ⟨key, hkey⟩ := Option.isSome_iff_exists.mp hsome
      rw [hkey, hpt] at hk
      exact ⟨(State.ready_ended hr hk rfl).1, (State.finished_shows hk).1⟩
    · obtain ⟨key, hkey⟩ := Option.isSome_iff_exists.mp hsome
      rw [hkey, hpt] at hk
      obtain ⟨-, hdir, -⟩ := State.finished_shows hk
      obtain ⟨hpoint, hother⟩ := (s.begun h).setPoint_dirOf c.kc rx c.point
      rw [hdir, hdir, hpoint, hother]
      exact ⟨(State.ready_ended hr hk rfl).1, rfl, rfl, rfl, rfl⟩
  case zero =>
    intro s h c hr hd hs
    obtain ⟨t, hexec, result, hk⟩ := exec_keyZero hr hd hs
    obtain ⟨-, hdir, hrd⟩ := State.finished_shows hk
    refine ⟨t, hexec, exec_only_of_fits hexec (by simp only [footprint]; decide +kernel),
      (State.ready_ended hr hk ((s.begun h).zeroBoth_inflight c.kc _ _)).1, fun rx h2 hne => ?_, fun rx w hn hw => ?_⟩
    · exact (hdir _ _).trans ((s.begun h).zeroBoth_unnamed h2 hne)
    · subst hw
      obtain ⟨hwithout, hidle⟩ := (s.begun h).zeroBoth_named c.context (slot := c.par 17 1) hn
      have hrx := (hdir c.kc rx).trans hwithout
      refine ⟨congrArg DirInt.active hrx, congrArg DirInt.staged hrx, fun hact hrx => ?_, fun hact hrx => ?_⟩
      · subst hrx
        exact (hrd _ rfl _ _ _).trans (hidle hact)
      · subst hrx
        exact (hrd _ rfl _ _ _).trans (hidle hact)
  case clear =>
    intro s h c hr
    obtain ⟨t, hexec, hk⟩ := exec_keyClearAf hr
    obtain ⟨hend, hres⟩ := State.ready_ended hr hk ((s.begun h).clearAf_inflight c.kc)
    obtain ⟨hkcs, -, hrd⟩ := State.finished_shows hk
    refine ⟨t, hexec, exec_only_of_fits hexec (by simp only [footprint]; decide +kernel), hend, fun d hd => ?_, fun h3 => ?_,
      fun h3 => ?_⟩
    · rw [(hres d hd).1, if_pos rfl, hrd _ rfl]
    · obtain ⟨hst, hcon, hev⟩ := (s.begun h).clearAf_failed c.context h3
      rw [State.on, hrd _ rfl, hrd _ rfl, hrd _ rfl]
      exact ⟨hst, hcon, hev⟩
    · rw [(s.begun h).clearAf_held h3] at hk
      exact ⟨State.kept_reg hk _ rfl _ _ _, (State.finished_shows hk).1⟩
  case status =>
    intro s h c hr
    obtain ⟨t, hexec, result, hk⟩ := exec_keyStatus hr
    obtain ⟨hend, hres⟩ := State.ready_ended hr hk rfl
    exact ⟨t, hexec, exec_only_of_fits hexec (by simp only [footprint]; decide +kernel), hend, fun d hd => (hres d hd).2⟩
  case link =>
    intro s h c hr hl
    obtain ⟨t, hexec, hk⟩ := exec_linkLoad hr hl
    have hopen : (s.begun h).openBlob c.kc 2 2 c.ind = s.openBlob c.kc 2 2 c.ind := rfl
    have hkind : (s.begun h).on .SEIZ_KC_CFG_KIND c.kc = s.on .SEIZ_KC_CFG_KIND c.kc := rfl
    rw [State.linkLoadRun, hopen, hkind] at hk
    refine ⟨t, hexec, exec_only_of_fits hexec (by simp only [footprint]; decide +kernel), fun r ho => ?_, fun key ho hone => ?_,
      fun key ho hzero => ?_⟩
    · rw [ho] at hk
      obtain ⟨hkcs, hflight, -⟩ := (s.begun h).blobRefused_shows c.kc
      exact ⟨(State.ready_ended hr hk hflight).1, (State.finished_shows hk).1.trans hkcs⟩
    · rw [ho, hone] at hk
      exact ⟨(State.ready_ended hr hk rfl).1, (State.finished_shows hk).1⟩
    · rw [ho, hzero] at hk
      refine ⟨(State.ready_ended hr hk rfl).1, ?_⟩
      rw [State.kept_kc hk rfl]
      exact State.setKc_kc _ _ _

end Sys2Proof.Machine
end

section
/-! Rekeying and its messages (R253, R408), the packets of the GCC0 relay (R407), and segments closed and judged (R245, R247, R251, R255 to
R258); and the obligation on them. That a GCC0 packet number advances once for each host packet delivered is the model's choice (log entry
57). -/

namespace Sys2Proof.Machine

open Sys2Proof

variable (s : State)

/-! ### Rekeying (R253, R408) -/

/-- The switch point that a new OFFER proposes. -/
def State.offerPoint (s : State) (k : Nat) : Nat :=
  roundUp (s.rd .SEIZ_KC_ST_TX_NEXT k + 1024 * s.rd .SEIZ_KC_ST_S k) (s.rd .SEIZ_KC_ST_S k)

theorem State.startOffer_kc (k : Nat) : ∃ ntx : List Byte, ntx.length = 32 ∧ (s.startOffer k).kc k = { s.kc k with
    genTx := ((s.kc k).genTx + 1) % 2 ^ 32, offer := some (((s.kc k).genTx + 1) % 2 ^ 32, s.offerPoint k, ntx), copies := 3,
    rekeying := true } :=
  ⟨s.nonce.2, by simp [State.nonce], s.nonce.1.setKc_kc k _⟩

/-- What REKEY_TIMER does when it is due. -/
def State.rekeyDue (s : State) (k : Nat) : State :=
  if !s.on .SEIZ_KC_CFG_KIND k && (s.kc k).link.isSome then
    if s.svcRuns 2 then s.startOffer k else s.setKc k { s.kc k with rekeying := true }
  else s.kcEvent k .SEIZ_EVT_REKEY_DUE 0x7008

theorem exec_rekeyTimer {k : Kc} (h14 : s.alive 14 = true) (hr : s.rd .SEIZ_KC_CFG_REKEY_H k ≠ 0)
    (h1 : s.rd .SEIZ_KC_ST_TX_STATE k = 1) : exec (.rekeyTimer k) s = .next (s.rekeyDue k) := by
  change execRekeyTimer k s = _
  unfold execRekeyTimer
  rw [act_next s 14 _ h14, if_neg (by simp [hr, h1])]
  rfl

theorem exec_kxConfirmTimeout {k : Kc} (h14 : s.alive 14 = true) (ho : (s.kc k).offer.isSome = true) :
    exec (.kxConfirmTimeout k) s = .next (s.offerLost k) := by
  change execKxConfirmTimeout k s = _
  unfold execKxConfirmTimeout
  rw [act_next s 14 _ h14, if_pos ho]

theorem exec_kxRetry {k : Kc} (h14 : s.alive 14 = true) (hre : (s.kc k).rekeying = true) (ho : (s.kc k).offer = none)
    (hl : (s.kc k).link.isSome = true) (h2 : s.svcRuns 2 = true) : exec (.kxRetry k) s = .next (s.startOffer k) := by
  change execKxRetry k s = _
  unfold execKxRetry
  rw [act_next s 14 _ h14, if_pos (by simp [hre, ho, hl, h2])]

/-! ### The GCC0 relay (R407) -/

theorem State.setHit_hit (n : Nat) (x : HitchInt) : (s.setHit n x).hit n = x := by simp [State.hit]

/-- A line's GCC0 without its oldest packet. -/
def State.gccTaken (s : State) (n : Nat) (rest : List (List Byte)) : State := s.setHit n { s.hit n with gcc := rest }

theorem exec_gcc0_waits {n : Line} (h2 : s.alive 2 = true)
    (h : s.svcRuns 3 = false ∨ s.lineNative n = false ∨ s.lineMode n = 3 ∨ (s.hit n).gcc = []) :
    exec (.gcc0PacketReceived n) s = .next s := by
  change execGcc0PacketReceived n s = _
  unfold execGcc0PacketReceived
  rw [act_next s 2 _ h2]
  dsimp only
  split
  · next hrel hgcc =>
    simp only [Bool.and_eq_true, bne_iff_ne] at hrel
    obtain ⟨⟨h3, hn⟩, hm⟩ := hrel
    simp [h3, hn, hm, hgcc] at h
  · rfl

theorem exec_gcc0_takes {n : Line} {p : List Byte} {rest : List (List Byte)} (h2 : s.alive 2 = true) (h3 : s.svcRuns 3 = true)
    (hn : s.lineNative n = true) (hm : s.lineMode n ≠ 3) (hg : (s.hit n).gcc = p :: rest) :
    exec (.gcc0PacketReceived n) s = .next ((s.gccTaken n rest).takeGccPacket n p) := by
  change execGcc0PacketReceived n s = _
  unfold execGcc0PacketReceived
  rw [act_next s 2 _ h2]
  dsimp only
  rw [hg, h3, hn, bne_iff_ne.mpr hm]
  rfl

theorem State.takeGccPacket_hit (n : Nat) (p : List Byte) (m : Nat) : (s.takeGccPacket n p).hit m = s.hit m :=
  State.kept_hit (State.takeGccPacket_kept s n p (State.kept_refl _ s) (Foot.refl _)) rfl m

theorem State.takeGccPacket_bad {p : List Byte} (n : Nat) (h : p.length ≠ leAt p 2 2 + 8 ∨ crcOk p = false) :
    s.takeGccPacket n p = s.raise .MRLN_EVT_GCC_BAD 0x1009 (s.lineDom n) [n] := by
  unfold State.takeGccPacket
  dsimp only
  rw [if_pos (by simpa using h)]

/-- The records of a host packet leave the key contexts and the relay's numbers. -/
theorem State.gccRecords_keeps (n num : Nat) (first : Bool) (fuel : Nat) (data : List Byte) :
    (s.gccRecords n num first fuel data).kcs = s.kcs ∧ (s.gccRecords n num first fuel data).marline = s.marline :=
  have hk := State.gccRecords_kept s n num first fuel data (State.kept_refl _ s) (Foot.refl _)
  ⟨State.kept_part hk 26 rfl, State.kept_part hk 12 rfl⟩

/-- A host packet advances the line's packet number, and its records leave the key contexts. -/
theorem State.takeGccPacket_host {n : Nat} {p : List Byte} (hl : p.length = leAt p 2 2 + 8) (hc : crcOk p = true)
    (hty : 128 ≤ byteAt p 0) (hen : s.on .MRLN_GCC_CFG_EN n = true) : (s.takeGccPacket n p).kcs = s.kcs ∧
      (s.takeGccPacket n p).marline.gccNumber.get 0 n = (s.marline.gccNumber.get 0 n + 1) % 65536 := by
  unfold State.takeGccPacket
  dsimp only
  rw [if_neg (by simp [hl.symm, hc]), if_neg (by omega), if_pos (by simp [hty, hen])]
  generalize hu : s.setMrl _ = u
  obtain ⟨hkcs, hmarline⟩ := u.gccRecords_keeps n (s.marline.gccNumber.get 0 n) true 43 ((p.drop 4).take (leAt p 2 2))
  rw [hkcs, hmarline, ← hu]
  exact ⟨rfl, Tab.get_put_same _ _ _ _⟩

/-- A packet of a type that nobody takes is dropped. -/
theorem State.takeGccPacket_dropped {n : Nat} {p : List Byte} (hl : p.length = leAt p 2 2 + 8) (hc : crcOk p = true)
    (h1 : byteAt p 0 ≠ 1) (hno : byteAt p 0 < 128 ∨ s.on .MRLN_GCC_CFG_EN n = false) : s.takeGccPacket n p = s := by
  unfold State.takeGccPacket
  dsimp only
  rw [if_neg (by simp [hl.symm, hc]), if_neg h1, if_neg]
  rcases hno with hlt | hen
  · simp [hlt]
  · simp [hen]

/-! ### A segment sent (R245, R247, R251) -/

theorem State.rd_count_seiz (d : Nat) (k : Kc) {j : Nat} (h : j < 6) :
    (s.count .SEIZ_KC_CNT d k j).rd .SEIZ_KC_CNT_COUNT k j = (s.rd .SEIZ_KC_CNT_COUNT k j + d) % 2 ^ 48 :=
  (s.get_count_counter d (r := ⟨.SEIZ_KC_CNT, k, j, 0⟩) (show RegId.SEIZ_KC_CNT ∈ counterIds by decide)
    (regValid_two _ 256 _ 6 _ k j rfl k.isLt h)).1

/-- A tag record joins a queue that has room. -/
theorem State.queueTag_tagq {n : Nat} (rec : List Byte) (h : (s.hit n).tagq.length < 512) :
    ((s.queueTag n rec).hit n).tagq = (s.hit n).tagq ++ [rec] := by
  unfold State.queueTag
  dsimp only
  rw [if_pos h]
  exact congrArg HitchInt.tagq (s.setHit_hit n _)

/-- The tag record of a context's oldest open segment (Table 6.4), over its text as sent. -/
def State.tagOf (s : State) (k : Nat) (key : KeyRec) (text : List Byte) : List Byte :=
  tagRecord k (s.rd .SEIZ_KC_ST_TX_IDX k) (s.rd .SEIZ_KC_ST_TX_NEXT k)
    (Config.gcmTag key.key (segmentIv key.fixed (s.rd .SEIZ_KC_ST_TX_NEXT k)) (underStream key (s.rd .SEIZ_KC_ST_TX_NEXT k) 0 text))

/-- The oldest open segment taken out, its tag record queued and counted. -/
def State.segmentSent (s : State) (k : Nat) (key : KeyRec) (text : List Byte) (rest : List (List Byte)) : State :=
  ((s.setKc k { s.kc k with txSegs := rest }).queueTag (s.rd .SEIZ_KC_CFG_LINE k) (s.tagOf k key text)).count .SEIZ_KC_CNT 1 k 0

section
variable (k : Kc) (key : KeyRec) (text : List Byte) (rest : List (List Byte))

theorem State.segmentSent_only (k : Nat) : (s.setKc k { s.kc k with txSegs := rest }).kept
    (footOf [.HTCH_STAT, .HTCH_CNT, .SEIZ_KC_CNT] [.hitch]) (s.segmentSent k key text rest) :=
  State.count_kept _ _ _ _ _ _ (State.queueTag_kept _ _ _ (State.kept_refl _ _) rfl) rfl

theorem State.segmentSent_kc (k : Nat) : (s.segmentSent k key text rest).kc k = { s.kc k with txSegs := rest } := by
  rw [State.kept_kc (s.segmentSent_only key text rest k) rfl, State.setKc_kc]

theorem State.rd_segmentSent {g : Fld} (k a b c : Nat)
    (h : (footOf [.HTCH_STAT, .HTCH_CNT, .SEIZ_KC_CNT] [.hitch]).testBit (regBit g.id) = false) :
    (s.segmentSent k key text rest).rd g a b c = s.rd g a b c := State.kept_rd (s.segmentSent_only key text rest k) g h a b c

theorem State.segmentSent_count :
    (s.segmentSent k key text rest).rd .SEIZ_KC_CNT_COUNT k 0 = (s.rd .SEIZ_KC_CNT_COUNT k 0 + 1) % 2 ^ 48 := by
  rw [State.segmentSent, State.rd_count_seiz _ _ _ (by decide)]
  have hk := State.queueTag_kept (m := footOf [.HTCH_STAT, .HTCH_CNT] [.hitch]) (s.setKc k { s.kc k with txSegs := rest })
    (s.rd .SEIZ_KC_CFG_LINE k) (s.tagOf k key text) (State.kept_refl _ _) rfl
  rw [State.kept_rd hk _ rfl, State.rd_setKc]

theorem State.segmentSent_tagq (k : Nat) (h : (s.hit (s.rd .SEIZ_KC_CFG_LINE k)).tagq.length < 512) :
    ((s.segmentSent k key text rest).hit (s.rd .SEIZ_KC_CFG_LINE k)).tagq =
      (s.hit (s.rd .SEIZ_KC_CFG_LINE k)).tagq ++ [s.tagOf k key text] :=
  (s.setKc k { s.kc k with txSegs := rest }).queueTag_tagq (s.tagOf k key text) h

theorem State.closeTx_eq {k : Nat} (hen : s.on .SEIZ_KC_CFG_EN k = true) (h1 : s.rd .SEIZ_KC_ST_TX_STATE k = 1)
    (hact : (s.kc k).tx.active = some key) (hseg : (s.kc k).txSegs = text :: rest) :
    s.closeTx k = (s.segmentSent k key text rest).advanceTx k (s.rd .SEIZ_KC_ST_TX_NEXT k + 1) := by
  unfold State.closeTx
  dsimp only
  rw [hen, h1, hact, hseg]
  rfl

end

theorem State.closeTx_held {k : Nat} (h : s.on .SEIZ_KC_CFG_EN k = false ∨ s.rd .SEIZ_KC_ST_TX_STATE k ≠ 1 ∨
    (s.kc k).tx.active = none ∨ (s.kc k).txSegs = []) : s.closeTx k = s := by
  unfold State.closeTx
  dsimp only
  split
  · next hrun hact hseg =>
    simp only [Bool.and_eq_true, beq_iff_eq] at hrun
    simp [hrun, hact, hseg] at h
  · rfl

theorem exec_segmentClose {k : Kc} (h14 : s.alive 14 = true) : exec (.segmentClose k) s = .next (s.closeTx k) := by
  change execSegmentClose k s = _
  unfold execSegmentClose
  rw [act_next s 14 _ h14]

/-! ### The next transmit INV (R247, R251) -/

/-- The next transmit INV shown, with half the ceiling reported once. -/
def State.nextShown (s : State) (k next : Nat) : State :=
  let t := s.wr .SEIZ_KC_ST_TX_NEXT next k
  if t.ceiling k / 2 ≤ next && !(t.kc k).tx.warned then
    (t.setKc k { t.kc k with tx := { (t.kc k).tx with warned := true } }).kcEvent k .SEIZ_EVT_WARN 0x7004
  else t

theorem State.nextShown_kc (k next : Nat) :
    ∃ warned, (s.nextShown k next).kc k = { s.kc k with tx := { (s.kc k).tx with warned := warned } } := by
  unfold State.nextShown
  dsimp only
  split
  · exact ⟨true, by rw [State.kcEvent_kc, State.setKc_kc]; rfl⟩
  · exact ⟨(s.kc k).tx.warned, rfl⟩

theorem State.rd_nextShown_wr {g : Fld} (k next a b c : Nat) (he : Fld.apart .SEIZ_EVT_WARN g = true)
    (hm : eventMask.testBit (regBit g.id) = false) :
    (s.nextShown k next).rd g a b c = (s.wr .SEIZ_KC_ST_TX_NEXT next k).rd g a b c := by
  unfold State.nextShown
  dsimp only
  split
  · rw [State.rd_kcEvent _ _ _ _ _ _ he hm, State.rd_setKc]
  · rfl

theorem State.rd_nextShown {g : Fld} (k next a b c : Nat) (he : Fld.apart .SEIZ_EVT_WARN g = true)
    (hm : eventMask.testBit (regBit g.id) = false) (hn : Fld.apart .SEIZ_KC_ST_TX_NEXT g = true) :
    (s.nextShown k next).rd g a b c = s.rd g a b c := by
  rw [State.rd_nextShown_wr _ _ _ _ _ _ he hm, State.rd_wr_apart _ _ _ _ _ _ _ _ hn]

theorem State.nextShown_next (k : Kc) {next : Nat} (h : next < 2 ^ 64) : (s.nextShown k next).rd .SEIZ_KC_ST_TX_NEXT k = next := by
  rw [State.rd_nextShown_wr _ _ _ _ _ _ (by decide) rfl, State.rd_wr_one _ _ _ (by decide)]
  exact Nat.mod_eq_of_lt h

theorem State.switchLimit_nextShown (k next : Nat) : (s.nextShown k next).switchLimit k = s.switchLimit k := by
  unfold State.switchLimit State.ceiling
  rw [State.rd_nextShown _ _ _ _ _ _ (by decide) rfl (by decide), State.rd_nextShown _ _ _ _ _ _ (by decide) rfl (by decide)]

/-- The next INV moves on; at the switch point or the limit a staged key takes over, and at the limit without one the direction is
Exhausted. -/
theorem State.advanceTx_eq (k next : Nat) : s.advanceTx k next =
    if s.atSwitch k (s.kc k).tx next then
      if (s.kc k).tx.staged.isSome then (s.nextShown k next).switchTx k
      else if s.switchLimit k ≤ next then
        ((s.nextShown k next).wr .SEIZ_KC_ST_TX_STATE 2 k).kcEvent k .SEIZ_EVT_EXHAUSTED 0x7006
      else s.nextShown k next
    else s.nextShown k next := by
  have hat : s.atSwitch k (s.kc k).tx next = (s.nextShown k next).atSwitch k (s.kc k).tx next := by
    unfold State.atSwitch
    rw [s.switchLimit_nextShown]
  rw [hat, ← s.switchLimit_nextShown k next]
  rfl

theorem State.advanceTx_txSegs (k next : Nat) : ((s.advanceTx k next).kc k).txSegs = (s.kc k).txSegs := by
  obtain ⟨_, hkc⟩ := s.nextShown_kc k next
  rw [State.advanceTx_eq]
  split_ifs
  · rw [State.switchTx_kc, hkc]
  · rw [State.kcEvent_kc, State.wr_kc, hkc]
  · rw [hkc]
  · rw [hkc]

theorem State.advanceTx_only (k next : Nat) : s.kept (eventFoot [.SEIZ_EVT, .SEIZ_KC_ST] [.kcs]) (s.advanceTx k next) :=
  State.advanceTx_kept s k next (State.kept_refl _ s) rfl

section
variable (k : Kc) {next : Nat}

theorem State.advanceTx_plain (hlt : next < 2 ^ 64) (hno : s.atSwitch k (s.kc k).tx next = false) :
    (s.advanceTx k next).rd .SEIZ_KC_ST_TX_NEXT k = next ∧
      (s.advanceTx k next).rd .SEIZ_KC_ST_TX_STATE k = s.rd .SEIZ_KC_ST_TX_STATE k ∧
      ((s.advanceTx k next).kc k).tx.active = (s.kc k).tx.active := by
  obtain ⟨_, hkc⟩ := s.nextShown_kc k next
  rw [State.advanceTx_eq, if_neg (by simp [hno]), hkc]
  exact ⟨s.nextShown_next k hlt, State.rd_nextShown _ _ _ _ _ _ (by decide) rfl (by decide), rfl⟩

theorem State.advanceTx_switches (hat : s.atSwitch k (s.kc k).tx next = true) (hst : (s.kc k).tx.staged.isSome = true) :
    ((s.advanceTx k next).kc k).tx = { active := (s.kc k).tx.staged } ∧ (s.advanceTx k next).rd .SEIZ_KC_ST_TX_NEXT k = 0 ∧
      (s.advanceTx k next).on .SEIZ_EVT_SWITCHED = true := by
  obtain ⟨_, hkc⟩ := s.nextShown_kc k next
  obtain ⟨-, hnext, -, hev⟩ := (s.nextShown k next).switchTx_shows k
  rw [State.advanceTx_eq, if_pos hat, if_pos hst, State.switchTx_kc, hkc]
  exact ⟨rfl, hnext, hev⟩

theorem State.advanceTx_exhausts (hlim : s.switchLimit k ≤ next) (hst : (s.kc k).tx.staged = none) :
    (s.advanceTx k next).rd .SEIZ_KC_ST_TX_STATE k = 2 ∧ (s.advanceTx k next).on .SEIZ_EVT_EXHAUSTED = true := by
  have hat : s.atSwitch k (s.kc k).tx next = true := by
    unfold State.atSwitch
    rw [decide_eq_true hlim, Bool.or_true]
  rw [State.advanceTx_eq, if_pos hat, if_neg (by simp [hst]), if_pos hlim]
  refine ⟨?_, State.kcEvent_on _ _ _ (by decide) rfl rfl⟩
  rw [State.rd_kcEvent _ _ _ _ _ _ (by decide) rfl]
  exact State.rd_wr_one _ _ _ (by decide)

end

/-! ### A tag that does not come (R255 to R258) -/

theorem State.releaseSegment_kc (k : Nat) (w : SegRec) (ok : Bool) (j : Nat) : (s.releaseSegment k w ok).kc j = s.kc j :=
  State.kept_kc (s.releaseSegment_only k w ok) rfl j

theorem State.rd_releaseSegment (k : Nat) (w : SegRec) (ok : Bool) (g : Fld) (a b c : Nat) :
    (s.releaseSegment k w ok).rd g a b c = s.rd g a b c := State.kept_rd (s.releaseSegment_only k w ok) g (releaseFoot_reg _) a b c

theorem State.stompClient_waiting (k inv : Nat) : ((s.stompClient k inv).kc k).waiting = (s.kc k).waiting := by
  unfold State.stompClient
  dsimp only
  generalize hu : (if s.on .SEIZ_KC_CFG_STRICT k then s else s.setKc k { s.kc k with stomp := true } : State) = u
  have hw : (u.kc k).waiting = (s.kc k).waiting := by
    rw [← hu]
    split
    · rfl
    · rw [State.setKc_kc]
  rw [← hw]
  split
  · exact State.each_holds _ (fun t => (t.kc k).waiting = (u.kc k).waiting) rfl fun c _ t ht => by
      rw [State.kept_kc (State.endLeaf_kept t c _ (State.kept_refl _ t) (Foot.refl _)) rfl, ht]
  · split
    · rw [State.kept_kc (State.endFrame_kept u _ (State.kept_refl _ u) (Foot.refl _)) rfl]
    · rfl

/-- What a stomp of the client's data changes. -/
def stompFoot : Nat := footOf [.SHET_CNT] [.clients, .groups, .kcs, .out]

theorem State.rd_stompClient {g : Fld} (h : stompFoot.testBit (regBit g.id) = false) (k inv a b c : Nat) :
    (s.stompClient k inv).rd g a b c = s.rd g a b c :=
  State.kept_rd (State.stompClient_kept (m := stompFoot) s k inv (State.kept_refl _ s) rfl) g h a b c

/-- A consecutive failure counted and recorded, and the event of the second. -/
def State.failureShown (s : State) (k inv : Nat) : State :=
  let t := (s.wr .SEIZ_KC_ST_CONSEC (min 15 (s.rd .SEIZ_KC_ST_CONSEC k + 1)) k).wr .SEIZ_KC_ST_LAST_FAIL inv k
  if (t.kc k).failSaid then t else (t.setKc k { t.kc k with failSaid := true }).kcEvent k .SEIZ_EVT_TAG_FAIL 0x7001

/-- The direction's Auth-failed state, with its event and what follows it. -/
def State.authFailed (s : State) (k : Nat) : State :=
  ((s.wr .SEIZ_KC_ST_RX_STATE 3 k).kcEvent k .SEIZ_EVT_AUTH_FAILED 0x7002).refreshKc k

/-- A failure with the client's data stomped, before AF_N is judged. -/
def State.failureTaken (s : State) (k inv : Nat) : State := (s.failureShown k inv).stompClient k inv

theorem State.kcFailure_eq (k inv : Nat) : s.kcFailure k inv =
    if (s.failureTaken k inv).rd .SEIZ_KC_ST_RX_STATE k = 2 &&
      (s.failureTaken k inv).rd .SEIZ_KC_CFG_AF_N k ≤ min 15 (s.rd .SEIZ_KC_ST_CONSEC k + 1) then (s.failureTaken k inv).authFailed k
    else s.failureTaken k inv := rfl

theorem State.failureShown_waiting (k inv : Nat) : ((s.failureShown k inv).kc k).waiting = (s.kc k).waiting := by
  unfold State.failureShown
  dsimp only
  split
  · rfl
  · rw [State.kcEvent_kc, State.setKc_kc]
    rfl

theorem State.rd_failureShown {g : Fld} (k inv a b c : Nat) (he : Fld.apart .SEIZ_EVT_TAG_FAIL g = true)
    (hl : Fld.apart .SEIZ_KC_ST_LAST_FAIL g = true) (hm : eventMask.testBit (regBit g.id) = false) :
    (s.failureShown k inv).rd g a b c = (s.wr .SEIZ_KC_ST_CONSEC (min 15 (s.rd .SEIZ_KC_ST_CONSEC k + 1)) k).rd g a b c := by
  unfold State.failureShown
  dsimp only
  split
  · rw [State.rd_wr_apart _ _ _ _ _ _ _ _ hl]
  · rw [State.rd_kcEvent _ _ _ _ _ _ he hm, State.rd_setKc, State.rd_wr_apart _ _ _ _ _ _ _ _ hl]

theorem State.failureTaken_waiting (k inv : Nat) : ((s.failureTaken k inv).kc k).waiting = (s.kc k).waiting :=
  (State.stompClient_waiting _ k inv).trans (s.failureShown_waiting k inv)

/-- A failure moves CONSEC on, and leaves the direction's state and AF_N to be judged. -/
theorem State.failureTaken_shows (k : Kc) (inv : Nat) :
    (s.failureTaken k inv).rd .SEIZ_KC_ST_CONSEC k = min 15 (s.rd .SEIZ_KC_ST_CONSEC k + 1) ∧
      (s.failureTaken k inv).rd .SEIZ_KC_ST_RX_STATE k = s.rd .SEIZ_KC_ST_RX_STATE k ∧
      (s.failureTaken k inv).rd .SEIZ_KC_CFG_AF_N k = s.rd .SEIZ_KC_CFG_AF_N k := by
  unfold State.failureTaken
  rw [State.rd_stompClient _ rfl, State.rd_stompClient _ rfl, State.rd_stompClient _ rfl,
    State.rd_failureShown _ _ _ _ _ _ (by decide) (by decide) rfl, State.rd_failureShown _ _ _ _ _ _ (by decide) (by decide) rfl,
    State.rd_failureShown _ _ _ _ _ _ (by decide) (by decide) rfl]
  refine ⟨?_, State.rd_wr_apart _ _ _ _ _ _ _ _ (by decide), State.rd_wr_apart _ _ _ _ _ _ _ _ (by decide)⟩
  rw [State.rd_wr_one _ _ _ (by decide)]
  exact Nat.mod_eq_of_lt (lt_of_le_of_lt (Nat.min_le_left _ _) (by decide))

theorem State.authFailed_kc (k j : Nat) : (s.authFailed k).kc j = s.kc j := by
  rw [State.authFailed, State.refreshKc_kc, State.kcEvent_kc, State.wr_kc]

theorem State.authFailed_shows (k : Kc) :
    (s.authFailed k).rd .SEIZ_KC_ST_RX_STATE k = 3 ∧ (s.authFailed k).on .SEIZ_EVT_AUTH_FAILED = true ∧
      (s.authFailed k).rd .SEIZ_KC_ST_CONSEC k = s.rd .SEIZ_KC_ST_CONSEC k := by
  unfold State.authFailed
  refine ⟨?_, ?_, ?_⟩
  · rw [State.rd_refreshKc _ rfl, State.rd_kcEvent _ _ _ _ _ _ (by decide) rfl, State.rd_wr_one _ _ _ (by decide)]
    rfl
  · rw [State.on, State.rd_refreshKc _ rfl]
    exact State.kcEvent_on _ _ _ (by decide) rfl rfl
  · rw [State.rd_refreshKc _ rfl, State.rd_kcEvent _ _ _ _ _ _ (by decide) rfl, State.rd_wr_apart _ _ _ _ _ _ _ _ (by decide)]

theorem State.kcFailure_waiting (k inv : Nat) : ((s.kcFailure k inv).kc k).waiting = (s.kc k).waiting := by
  rw [State.kcFailure_eq]
  split
  · rw [State.authFailed_kc, State.failureTaken_waiting]
  · exact s.failureTaken_waiting k inv

/-- A failure of a Synced direction: CONSEC, and from AF_N on Auth-failed with its event. -/
theorem State.kcFailure_shows (k : Kc) (inv : Nat) (h2 : s.rd .SEIZ_KC_ST_RX_STATE k = 2) :
    (s.kcFailure k inv).rd .SEIZ_KC_ST_CONSEC k = min 15 (s.rd .SEIZ_KC_ST_CONSEC k + 1) ∧
      (s.rd .SEIZ_KC_CFG_AF_N k ≤ min 15 (s.rd .SEIZ_KC_ST_CONSEC k + 1) →
        (s.kcFailure k inv).rd .SEIZ_KC_ST_RX_STATE k = 3 ∧ (s.kcFailure k inv).on .SEIZ_EVT_AUTH_FAILED = true) := by
  obtain ⟨hcon, hst, haf⟩ := s.failureTaken_shows k inv
  rw [State.kcFailure_eq, hst, haf]
  by_cases hle : s.rd .SEIZ_KC_CFG_AF_N k ≤ min 15 (s.rd .SEIZ_KC_ST_CONSEC k + 1)
  · obtain ⟨hst3, hev, hcon'⟩ := (s.failureTaken k inv).authFailed_shows k
    rw [decide_eq_true h2, decide_eq_true hle, Bool.true_and, if_pos rfl]
    exact ⟨hcon'.trans hcon, fun _ => ⟨hst3, hev⟩⟩
  · rw [decide_eq_false hle, Bool.and_false, if_neg Bool.false_ne_true]
    exact ⟨hcon, fun h => absurd h hle⟩

theorem State.missingTag_waiting (k : Nat) (w : SegRec) : ((s.missingTag k w).kc k).waiting = (s.kc k).waiting := by
  unfold State.missingTag
  split
  · rw [State.releaseSegment_kc, State.count_kc]
  · rw [State.releaseSegment_kc, State.kcFailure_waiting, State.count_kc]

/-- A segment with marks counts as unverified. -/
theorem State.missingTag_marked (k : Kc) {w : SegRec} (hw : w.marked = true) :
    (s.missingTag k w).rd .SEIZ_KC_CNT_COUNT k 5 = (s.rd .SEIZ_KC_CNT_COUNT k 5 + 1) % 2 ^ 48 ∧
      (s.missingTag k w).rd .SEIZ_KC_ST_CONSEC k = s.rd .SEIZ_KC_ST_CONSEC k := by
  unfold State.missingTag
  rw [if_pos hw, State.rd_releaseSegment, State.rd_releaseSegment, State.rd_count_seiz _ _ _ (by decide),
    State.rd_count_apart _ _ _ _ _ _ (.inl (by decide))]
  exact ⟨rfl, rfl⟩

/-- A segment without marks counts as a missing tag, which is a failure. -/
theorem State.missingTag_unmarked (k : Kc) {w : SegRec} (hw : w.marked = false) (h2 : s.rd .SEIZ_KC_ST_RX_STATE k = 2) :
    (s.missingTag k w).rd .SEIZ_KC_CNT_COUNT k 3 = (s.rd .SEIZ_KC_CNT_COUNT k 3 + 1) % 2 ^ 48 ∧
      (s.missingTag k w).rd .SEIZ_KC_ST_CONSEC k = min 15 (s.rd .SEIZ_KC_ST_CONSEC k + 1) ∧
      (s.rd .SEIZ_KC_CFG_AF_N k ≤ min 15 (s.rd .SEIZ_KC_ST_CONSEC k + 1) →
        (s.missingTag k w).rd .SEIZ_KC_ST_RX_STATE k = 3 ∧ (s.missingTag k w).on .SEIZ_EVT_AUTH_FAILED = true) := by
  have hcnt {g : Fld} (h : g.id ≠ .SEIZ_KC_CNT) (a b c : Nat) : (s.count .SEIZ_KC_CNT 1 k 3).rd g a b c = s.rd g a b c :=
    s.rd_count_apart _ _ _ _ _ (.inl h)
  obtain ⟨hcon, haf⟩ := (s.count .SEIZ_KC_CNT 1 k 3).kcFailure_shows k w.inv (by rw [hcnt (by decide), h2])
  have hk := State.kcFailure_kept (s.count .SEIZ_KC_CNT 1 k 3) k w.inv (State.kept_refl _ _) (Foot.refl _)
  rw [hcnt (by decide)] at hcon
  rw [hcnt (by decide), hcnt (by decide)] at haf
  unfold State.missingTag
  rw [if_neg (by simp [hw]), State.on, State.rd_releaseSegment, State.rd_releaseSegment, State.rd_releaseSegment, State.rd_releaseSegment,
    State.kept_rd hk _ rfl, State.rd_count_seiz _ _ _ (by decide)]
  exact ⟨rfl, hcon, haf⟩

/-- What is settled once a tag has been missed. -/
def State.missSettled (s : State) (k : Nat) : State := (s.settleHeld k).showRxNext k

theorem State.rd_missSettled {g : Fld} (k a b c : Nat) (h : Fld.apart .SEIZ_KC_ST_RX_NEXT g = true) :
    (s.missSettled k).rd g a b c = s.rd g a b c := by
  unfold State.missSettled State.showRxNext
  rw [State.rd_wr_apart _ _ _ _ _ _ _ _ h]
  unfold State.settleHeld
  split
  · exact s.rd_flushHeld k g a b c
  · rfl

/-- An Auth-failed direction holds nothing back. -/
theorem State.missSettled_waiting (k : Nat) :
    ((s.missSettled k).kc k).waiting = if s.rd .SEIZ_KC_ST_RX_STATE k = 3 then [] else (s.kc k).waiting := by
  unfold State.missSettled State.showRxNext
  rw [State.wr_kc]
  unfold State.settleHeld
  split
  · rw [State.flushHeld_kc]
  · rfl

theorem exec_tagWaitExpiry {k : Kc} {w : SegRec} {l : List SegRec} (h14 : s.alive 14 = true) (hw : (s.kc k).waiting = w :: l)
    (h2 : s.rd .SEIZ_KC_ST_RX_STATE k = 2)
    (hage : (if s.on .SEIZ_KC_CFG_STRICT k then 4 else s.rd .SEIZ_KC_CFG_TAG_WAIT k) ≤ w.age) :
    exec (.tagWaitExpiry k) s = .next (((s.setKc k { s.kc k with waiting := l }).missingTag k w).missSettled k) := by
  change execTagWaitExpiry k s = _
  unfold execTagWaitExpiry
  rw [act_next s 14 _ h14]
  dsimp only
  rw [hw]
  dsimp only
  rw [if_pos ⟨h2, hage⟩]
  rfl

/-- Settles O38: a rekeying due is an OFFER or a report; a packet is taken by its type, the relay's own effects leaving the line's others;
a segment closed is its tag record, then the next INV; a tag that does not come is counted, and a failure judged against AF_N. -/
theorem exchangeAndSegments : Obligations.ExchangeAndSegments := by
  unfold Obligations.ExchangeAndSegments
  refine ⟨?rekey, ?confirm, ?retry, ?packet, ?close, ?held, ?missing⟩
  case rekey =>
    intro s k h14 hr h1
    have hexec := exec_rekeyTimer s h14 hr h1
    refine ⟨_, hexec, exec_only_of_fits hexec (by simp only [footprint]; decide +kernel), fun hno => ?_, fun hkind hlink => ?_⟩
    · rw [State.rekeyDue, if_neg (by rcases hno with h | h <;> simp [h])]
      exact ⟨State.kcEvent_on _ _ _ (by decide) rfl rfl, s.kcEvent_kcs _ _ _⟩
    · rw [State.rekeyDue, if_pos (by simp [hkind, hlink])]
      split
      · obtain ⟨ntx, hlen, hkc⟩ := s.startOffer_kc k
        rw [hkc]
        exact ⟨rfl, rfl, fun _ => ⟨rfl, rfl, ntx, rfl, hlen⟩⟩
      · next hsvc =>
        rw [State.setKc_kc]
        exact ⟨rfl, rfl, fun h => absurd h hsvc⟩
  case confirm =>
    intro s k h14 ho
    have hexec := exec_kxConfirmTimeout s h14 ho
    exact ⟨_, hexec, exec_only_of_fits hexec (by simp only [footprint]; decide +kernel), s.setKc_kc _ _⟩
  case retry =>
    intro s k h14 hre ho hl h2
    have hexec := exec_kxRetry s h14 hre ho hl h2
    obtain ⟨ntx, -, hkc⟩ := s.startOffer_kc k
    refine ⟨_, hexec, exec_only_of_fits hexec (by simp only [footprint]; decide +kernel), ?_⟩
    rw [hkc]
    exact ⟨rfl, rfl, rfl⟩
  case packet =>
    intro s n h2
    by_cases hwait : s.svcRuns 3 = false ∨ s.lineNative n = false ∨ s.lineMode n = 3 ∨ (s.hit n).gcc = []
    · have hexec := exec_gcc0_waits s h2 hwait
      refine ⟨_, hexec, exec_only_of_fits hexec (by simp only [footprint]; decide +kernel), fun _ => rfl, fun h3 hn hm p rest hg => ?_⟩
      simp [h3, hn, hm, hg] at hwait
    · obtain ⟨h3, hn, hm, hne⟩ : s.svcRuns 3 = true ∧ s.lineNative n = true ∧ s.lineMode n ≠ 3 ∧ (s.hit n).gcc ≠ [] := by
        simpa using hwait
      obtain ⟨p, rest, hg⟩ := List.exists_cons_of_ne_nil hne
      have hexec := exec_gcc0_takes s h2 h3 hn hm hg
      refine ⟨_, hexec, exec_only_of_fits hexec (by simp only [footprint]; decide +kernel), fun h => absurd h hwait,
        fun _ _ _ p' rest' hg' => ?_⟩
      obtain ⟨rfl, rfl⟩ := List.cons.inj (hg.symm.trans hg')
      refine ⟨?_, fun hbad => ?_, fun hl hc hty hen => ?_, fun hl hc hkx hno => ?_⟩
      · rw [State.takeGccPacket_hit, State.gccTaken, State.setHit_hit]
      · rw [State.takeGccPacket_bad _ n hbad]
        exact ⟨State.on_raise_none _ _ _ _ _ (by decide) rfl rfl, State.raise_marline _ _ _ _ _ _ _, State.raise_kcs _ _ _ _ _ _ _⟩
      · exact (s.gccTaken n rest).takeGccPacket_host hl hc hty hen
      · rw [(s.gccTaken n rest).takeGccPacket_dropped hl hc hkx hno]
        exact ⟨rfl, rfl, rfl⟩
  case close =>
    intro s k key text rest h14 hen h1 hact hseg hlt
    have hexec := exec_segmentClose s (k := k) h14
    rw [s.closeTx_eq key text rest hen h1 hact hseg] at hexec
    have hkc := s.segmentSent_kc key text rest k
    have hrd {g : Fld} (h : (footOf [.HTCH_STAT, .HTCH_CNT, .SEIZ_KC_CNT] [.hitch]).testBit (regBit g.id) = false) (a b c : Nat) :=
      s.rd_segmentSent key text rest k a b c h
    have hlim : (s.segmentSent k key text rest).switchLimit k = s.switchLimit k := by
      unfold State.switchLimit State.ceiling
      rw [hrd rfl, hrd rfl]
    have hat (d : DirInt) (next : Nat) : (s.segmentSent k key text rest).atSwitch k d next = s.atSwitch k d next := by
      unfold State.atSwitch
      rw [hlim]
    have hkept := (s.segmentSent k key text rest).advanceTx_only k (s.rd .SEIZ_KC_ST_TX_NEXT k + 1)
    refine ⟨_, hexec, exec_only_of_fits hexec (by simp only [footprint]; decide +kernel), ?_, ?_, fun hroom => ?_, fun hno => ?_,
      fun hyes hst => ?_, fun hle hst => ?_⟩
    · rw [State.advanceTx_txSegs, hkc]
    · rw [State.kept_rd hkept _ rfl, State.segmentSent_count]
    · rw [State.kept_hit hkept rfl, State.segmentSent_tagq _ _ _ _ _ hroom]
      rfl
    · obtain ⟨hnext, hstate, hactive⟩ := (s.segmentSent k key text rest).advanceTx_plain k hlt (by rw [hat, hkc]; exact hno)
      rw [hkc] at hactive
      exact ⟨hnext, hstate.trans ((hrd rfl _ _ _).trans h1), hactive.trans hact⟩
    · obtain ⟨htx, hnext, hev⟩ := (s.segmentSent k key text rest).advanceTx_switches k
        (by rw [hat, hkc]; exact hyes) (by rw [hkc]; exact hst)
      rw [htx, hkc]
      exact ⟨rfl, rfl, hnext, hev⟩
    · exact (s.segmentSent k key text rest).advanceTx_exhausts k (by rw [hlim]; exact hle) (by rw [hkc]; exact hst)
  case held =>
    intro s k h14 h
    rw [exec_segmentClose s h14, s.closeTx_held h]
  case missing =>
    intro s k w l h14 hw h2 hage
    have hexec := exec_tagWaitExpiry s h14 hw h2 hage
    refine ⟨_, hexec, exec_only_of_fits hexec (by simp only [footprint]; decide +kernel), ?_, fun hm => ?_, fun hm => ?_⟩
    · rw [State.missSettled_waiting, State.rd_missSettled _ _ _ _ _ (by decide), State.missingTag_waiting, State.setKc_kc]
    · rw [State.rd_missSettled _ _ _ _ _ (by decide), State.rd_missSettled _ _ _ _ _ (by decide)]
      exact (s.setKc k { s.kc k with waiting := l }).missingTag_marked k hm
    · rw [State.on, State.rd_missSettled _ _ _ _ _ (by decide), State.rd_missSettled _ _ _ _ _ (by decide),
        State.rd_missSettled _ _ _ _ _ (by decide), State.rd_missSettled _ _ _ _ _ (by decide)]
      exact (s.setKc k { s.kc k with waiting := l }).missingTag_unmarked k hm h2

end Sys2Proof.Machine
end

section
/-! The rules of Lanyard that its obligations share: its events and counters, packets sent under credit (R286 to R288), the Clove gates and
the claim (R293 to R296), and the partner's number (R294). -/

namespace Sys2Proof.Machine

open Sys2Proof

variable (s : State)

/-! ### Fields, events and counters -/

/-- A field that is zero stays so when zero is written to the same field, at any index. -/
theorem State.rd_wr_zero {f : Fld} (i j k : Nat) {a b c : Nat} (hf : f.lo ≤ f.hi) (hw : f.hi < (regSpec f.id).width)
    (h : s.rd f a b c = 0) : (s.wr f 0 i j k).rd f a b c = 0 := by
  by_cases hsame : a = i ∧ b = j ∧ c = k
  · obtain ⟨rfl, rfl, rfl⟩ := hsame
    cases hv : regValid ⟨f.id, a, b, c⟩ with
    | false =>
      unfold State.wr State.setReg
      rwa [RegStore.put_invalid _ _ _ hv]
    | true => rw [s.rd_wr_same f 0 a b c hv hf hw, Nat.zero_mod]
  · rwa [s.rd_wr_other f f 0 i j k a b c fun e => hsame e.2]

theorem State.on_wr_flag {f : Fld} (v : Bool) (h : f.within [] = true) (hf : f.hi = f.lo) : (s.wr f (b2n v)).on f = v := by
  obtain ⟨hd, -, hw⟩ := Fld.within_iff.mp h
  exact s.on_wr_b2n f v 0 0 0 (regValid_none_of_dims hd) hf hw

theorem State.on_false_iff {f : Fld} {i j k : Nat} : s.on f i j k = false ↔ s.rd f i j k = 0 := by simp [State.on]

theorem State.rd_mateEvent {f g : Fld} (code : Nat) (params : List Nat) (a b c : Nat) (h : f.apart g = true)
    (hm : eventMask.testBit (regBit g.id) = false) : (s.mateEvent f code params).rd g a b c = s.rd g a b c :=
  s.rd_raise_apart code 0 params false 0 a b c h hm

theorem State.on_mateEvent {f : Fld} (code : Nat) (params : List Nat) (h : f.within [] = true) (hf : f.hi = f.lo)
    (hm : eventMask.testBit (regBit f.id) = false) : (s.mateEvent f code params).on f = true :=
  s.on_raise_none code 0 params false h hf hm

@[simp] theorem State.mateEvent_lanyard (f : Fld) (code : Nat) (params : List Nat) : (s.mateEvent f code params).lanyard = s.lanyard :=
  s.raise_lanyard f code 0 params false 0

@[simp] theorem State.mateEvent_pins (f : Fld) (code : Nat) (params : List Nat) : (s.mateEvent f code params).pins = s.pins :=
  s.raise_pins f code 0 params false 0

theorem State.rd_count_lnyd (d : Nat) {j : Nat} (h : j < 4) :
    (s.count .LNYD_CNT d j).rd .LNYD_CNT_COUNT j = (s.rd .LNYD_CNT_COUNT j + d) % 2 ^ 48 :=
  (s.get_count_counter d (r := ⟨.LNYD_CNT, j, 0, 0⟩) (show RegId.LNYD_CNT ∈ counterIds by decide) (regValid_one _ 4 8 j rfl h)).1

theorem State.rd_count_id {id : RegId} {g : Fld} (d i j k a b c : Nat) (h : g.id ≠ id) :
    (s.count id d i j k).rd g a b c = s.rd g a b c := s.rd_setReg_id _ i j k a b c h

/-! ### Packets sent under credit (R287, R288) -/

/-- What the sending of waiting packets leaves of Lanyard: all but the packets themselves, their numbers and the set on its way. -/
def LanyardInt.besideSending (x : LanyardInt) : LanyardInt :=
  { x with seq := 0, lsWait := [], ckWait := [], lsSent := 0, ckSent := 0, sending := none }

theorem pumpLockstep_keeps (l : List (List Byte)) : (pumpLockstep l s).regs = s.regs ∧
    (pumpLockstep l s).lanyard.besideSending = s.lanyard.besideSending ∧ (pumpLockstep l s).lanyard.sending = s.lanyard.sending := by
  induction l generalizing s with
  | nil => exact ⟨rfl, rfl, rfl⟩
  | cons p r ih =>
    unfold pumpLockstep
    split
    · exact ih _
    · exact ⟨rfl, rfl, rfl⟩

theorem pumpCkpt_besideSending (l : List (Nat × List Byte)) :
    (pumpCkpt l s).lanyard.besideSending = s.lanyard.besideSending := by
  induction l generalizing s with
  | nil =>
    unfold pumpCkpt
    split
    · rw [State.wr_lanyard]
      rfl
    · rfl
  | cons p r ih =>
    unfold pumpCkpt
    split
    · exact ih _
    · rfl

theorem rd_pumpCkpt {g : Fld} (h : Fld.apart .LNYD_STAT_LAST_SET g = true) (l : List (Nat × List Byte)) (a b c : Nat) :
    (pumpCkpt l s).rd g a b c = s.rd g a b c := by
  induction l generalizing s with
  | nil =>
    unfold pumpCkpt
    split
    · exact State.rd_wr_apart _ _ _ _ _ _ _ _ h
    · rfl
  | cons p r ih =>
    unfold pumpCkpt
    split
    · exact ih _
    · rfl

/-- A set on its way is still on its way, or LAST_SET shows it. -/
theorem pumpCkpt_sending {n : Nat} (hs : s.lanyard.sending = some n) (l : List (Nat × List Byte)) :
    (pumpCkpt l s).lanyard.sending = some n ∨
      (pumpCkpt l s).lanyard.sending = none ∧ (pumpCkpt l s).rd .LNYD_STAT_LAST_SET = n % 2 ^ 32 := by
  induction l generalizing s with
  | nil =>
    unfold pumpCkpt
    rw [hs]
    exact .inr ⟨rfl, State.rd_wr_none _ _ (by decide)⟩
  | cons p r ih =>
    unfold pumpCkpt
    split
    · exact ih _ hs
    · exact .inl hs

theorem State.pump_besideSending : s.pump.lanyard.besideSending = s.lanyard.besideSending :=
  (pumpCkpt_besideSending _ _).trans (pumpLockstep_keeps s _).2.1

theorem State.rd_pump {g : Fld} (h : Fld.apart .LNYD_STAT_LAST_SET g = true) (a b c : Nat) : s.pump.rd g a b c = s.rd g a b c := by
  unfold State.pump
  rw [rd_pumpCkpt _ h, State.rd, State.reg, (pumpLockstep_keeps s _).1]
  rfl

theorem State.pump_sending {n : Nat} (hs : s.lanyard.sending = some n) :
    s.pump.lanyard.sending = some n ∨ s.pump.lanyard.sending = none ∧ s.pump.rd .LNYD_STAT_LAST_SET = n % 2 ^ 32 :=
  pumpCkpt_sending _ ((pumpLockstep_keeps s _).2.2.trans hs) _

/-! ### The Clove gates (R296) -/

/-- Both devices claim with equal numbers. -/
def State.inConflict (s : State) : Bool :=
  s.mate && s.on .LNYD_STAT_CLAIMING && s.on .LNYD_STAT_PART_CLAIMS && s.on .LNYD_STAT_NUM_KNOWN &&
    s.rd .LNYD_CLAIM_CLAIM_NUM == s.rd .LNYD_STAT_PART_NUM

/-- Whether the gates are to be open. -/
def State.gatesDue (s : State) : Bool :=
  if s.mate then s.on .LNYD_STAT_CLAIMING && (!s.on .LNYD_STAT_PART_CLAIMS || (s.on .LNYD_STAT_NUM_KNOWN &&
    decide (s.rd .LNYD_STAT_PART_NUM < s.rd .LNYD_CLAIM_CLAIM_NUM) && s.lanyard.gapDone)) else !s.releases

/-- The conflict shown, and reported as it rises. -/
def State.conflictShown (s : State) : State :=
  let t := s.wr .LNYD_STAT_CONFLICT (b2n s.inConflict)
  if s.inConflict && !s.on .LNYD_STAT_CONFLICT then t.mateEvent .LNYD_EVT_CONFLICT 0x9004 [] else t

/-- The gates opened or closed, and a change reported. -/
def State.gatesMoved (s : State) (o : Bool) : State :=
  if s.on .LNYD_STAT_GATES_OPEN = o then s else (s.wr .LNYD_STAT_GATES_OPEN (b2n o)).mateEvent .LNYD_EVT_GATE 0x9006 [b2n o]

theorem State.refreshGates_eq : s.refreshGates = (s.conflictShown.gatesMoved s.gatesDue).refreshTxen := rfl

/-- The fields that the gates' decision writes. -/
def gateFlds : List Fld := [.LNYD_STAT_CONFLICT, .LNYD_STAT_GATES_OPEN, .LNYD_EVT_CONFLICT, .LNYD_EVT_GATE]

/-- A field that the gates' decision keeps. -/
def Fld.besideGates (g : Fld) : Bool := gateFlds.all (fun f => f.apart g) && !eventMask.testBit (regBit g.id)

theorem Fld.besideGates_iff {g : Fld} : g.besideGates = true ↔ Fld.apart .LNYD_STAT_CONFLICT g = true ∧
    Fld.apart .LNYD_STAT_GATES_OPEN g = true ∧ Fld.apart .LNYD_EVT_CONFLICT g = true ∧ Fld.apart .LNYD_EVT_GATE g = true ∧
    eventMask.testBit (regBit g.id) = false := by
  simp [Fld.besideGates, gateFlds, and_assoc]

theorem State.rd_conflictShown {g : Fld} (a b c : Nat) (h : Fld.apart .LNYD_STAT_CONFLICT g = true)
    (he : Fld.apart .LNYD_EVT_CONFLICT g = true) (hm : eventMask.testBit (regBit g.id) = false) :
    s.conflictShown.rd g a b c = s.rd g a b c := by
  unfold State.conflictShown
  dsimp only
  split
  · rw [State.rd_mateEvent _ _ _ _ _ _ he hm, State.rd_wr_apart _ _ _ _ _ _ _ _ h]
  · exact State.rd_wr_apart _ _ _ _ _ _ _ _ h

theorem State.conflictShown_on : s.conflictShown.on .LNYD_STAT_CONFLICT = s.inConflict := by
  unfold State.conflictShown
  dsimp only
  split
  · rw [State.on, State.rd_mateEvent _ _ _ _ _ _ (by decide) rfl]
    exact s.on_wr_flag _ (by decide) rfl
  · exact s.on_wr_flag _ (by decide) rfl

theorem State.rd_gatesMoved {g : Fld} (o : Bool) (a b c : Nat) (h : Fld.apart .LNYD_STAT_GATES_OPEN g = true)
    (he : Fld.apart .LNYD_EVT_GATE g = true) (hm : eventMask.testBit (regBit g.id) = false) :
    (s.gatesMoved o).rd g a b c = s.rd g a b c := by
  unfold State.gatesMoved
  split
  · rfl
  · rw [State.rd_mateEvent _ _ _ _ _ _ he hm, State.rd_wr_apart _ _ _ _ _ _ _ _ h]

theorem State.gatesMoved_on (o : Bool) : (s.gatesMoved o).on .LNYD_STAT_GATES_OPEN = o := by
  unfold State.gatesMoved
  split
  · assumption
  · rw [State.on, State.rd_mateEvent _ _ _ _ _ _ (by decide) rfl]
    exact s.on_wr_flag _ (by decide) rfl

theorem State.gatesMoved_event {o : Bool} (h : s.on .LNYD_STAT_GATES_OPEN ≠ o) : (s.gatesMoved o).on .LNYD_EVT_GATE = true := by
  unfold State.gatesMoved
  rw [if_neg h]
  exact State.on_mateEvent _ _ _ (by decide) rfl rfl

theorem State.rd_refreshGates {g : Fld} (h : g.besideGates = true) (a b c : Nat) : s.refreshGates.rd g a b c = s.rd g a b c := by
  obtain ⟨hcon, hopen, hecon, hegate, hm⟩ := Fld.besideGates_iff.mp h
  exact (State.rd_gatesMoved _ _ a b c hopen hegate hm).trans (s.rd_conflictShown a b c hcon hecon hm)

theorem State.refreshGates_open : s.refreshGates.on .LNYD_STAT_GATES_OPEN = s.gatesDue := State.gatesMoved_on _ _

theorem State.refreshGates_conflict : s.refreshGates.on .LNYD_STAT_CONFLICT = s.inConflict :=
  (congrArg (· != 0) (State.rd_gatesMoved _ _ 0 0 0 (by decide) (by decide) rfl)).trans s.conflictShown_on

/-- A change of the gates is reported. -/
theorem State.refreshGates_event (h : s.on .LNYD_STAT_GATES_OPEN ≠ s.gatesDue) : s.refreshGates.on .LNYD_EVT_GATE = true := by
  have hopen : s.conflictShown.on .LNYD_STAT_GATES_OPEN = s.on .LNYD_STAT_GATES_OPEN :=
    congrArg (· != 0) (s.rd_conflictShown _ _ _ (by decide) (by decide) rfl)
  exact s.conflictShown.gatesMoved_event (hopen ▸ h)

theorem State.refreshGates_lanyard : s.refreshGates.lanyard = s.lanyard :=
  State.kept_part (State.refreshGates_kept s (State.kept_refl _ s) (Foot.refl _)) 29 rfl

/-- Of the pins, the gates' decision moves the lasers' alone. -/
theorem State.refreshGates_pins : ∃ lasers, s.refreshGates.pins = { s.pins with optTxen := lasers } := by
  have hcon : s.conflictShown.pins = s.pins := by
    unfold State.conflictShown
    dsimp only
    split
    · rw [State.mateEvent_pins, State.wr_pins]
    · rfl
  have hmoved (t : State) (o : Bool) : (t.gatesMoved o).pins = t.pins := by
    unfold State.gatesMoved
    split
    · rfl
    · rw [State.mateEvent_pins, State.wr_pins]
  refine ⟨(s.conflictShown.gatesMoved s.gatesDue).refreshTxen.pins.optTxen, ?_⟩
  rw [s.refreshGates_eq, ← hcon, ← hmoved s.conflictShown s.gatesDue]
  rfl

/-! ### The partner's number (R294) -/

/-- The partner's number: that of the pins, or else that of its HELLO packets. -/
def LanyardInt.partnerNum (x : LanyardInt) : Option Nat :=
  match x.pinNum with
  | some a => some a
  | none => x.helloNum

/-- The two sources disagree. -/
def LanyardInt.numbersDiffer (x : LanyardInt) : Bool :=
  match x.pinNum, x.helloNum with
  | some a, some b => a != b
  | _, _ => false

/-- The disagreement shown, and reported as it rises. -/
def State.mismatchShown (s : State) : State :=
  let t := s.wr .LNYD_STAT_NUM_MISMATCH (b2n s.lanyard.numbersDiffer)
  if s.lanyard.numbersDiffer && !s.on .LNYD_STAT_NUM_MISMATCH then t.mateEvent .LNYD_EVT_MISMATCH 0x9005 [] else t

/-- The number shown. -/
def State.numberShown (s : State) : State :=
  (s.wr .LNYD_STAT_NUM_KNOWN (b2n s.lanyard.partnerNum.isSome)).wr .LNYD_STAT_PART_NUM (s.lanyard.partnerNum.getD 0)

theorem State.mismatchShown_lanyard : s.mismatchShown.lanyard = s.lanyard := by
  unfold State.mismatchShown
  dsimp only
  split
  · rw [State.mateEvent_lanyard, State.wr_lanyard]
  · rfl

theorem State.refreshNumber_eq : s.refreshNumber = s.mismatchShown.numberShown.refreshLeaders.refreshGates := by
  unfold State.numberShown
  rw [s.mismatchShown_lanyard]
  rfl

/-- A field that the partner's number, and what follows it, keeps. -/
def Fld.besideNumber (g : Fld) : Bool :=
  g.besideGates && Fld.apart .LNYD_STAT_NUM_MISMATCH g && Fld.apart .LNYD_EVT_MISMATCH g && Fld.apart .LNYD_STAT_NUM_KNOWN g &&
    Fld.apart .LNYD_STAT_PART_NUM g && g.id != .BEND_PG_STAT

theorem State.rd_refreshLeaders {g : Fld} (h : g.id ≠ .BEND_PG_STAT) (a b c : Nat) : s.refreshLeaders.rd g a b c = s.rd g a b c := by
  unfold State.refreshLeaders
  exact s.each_holds (fun t => t.rd g a b c = s.rd g a b c) rfl fun k _ t ht =>
    (t.rd_wr_other _ g _ _ _ _ a b c fun e => h e.1).trans ht

theorem State.rd_mismatchShown {g : Fld} (a b c : Nat) (h : Fld.apart .LNYD_STAT_NUM_MISMATCH g = true)
    (he : Fld.apart .LNYD_EVT_MISMATCH g = true) (hm : eventMask.testBit (regBit g.id) = false) :
    s.mismatchShown.rd g a b c = s.rd g a b c := by
  unfold State.mismatchShown
  dsimp only
  split
  · rw [State.rd_mateEvent _ _ _ _ _ _ he hm, State.rd_wr_apart _ _ _ _ _ _ _ _ h]
  · exact State.rd_wr_apart _ _ _ _ _ _ _ _ h

theorem State.mismatchShown_on : s.mismatchShown.on .LNYD_STAT_NUM_MISMATCH = s.lanyard.numbersDiffer := by
  unfold State.mismatchShown
  dsimp only
  split
  · rw [State.on, State.rd_mateEvent _ _ _ _ _ _ (by decide) rfl]
    exact s.on_wr_flag _ (by decide) rfl
  · exact s.on_wr_flag _ (by decide) rfl

theorem State.rd_refreshNumber {g : Fld} (h : g.besideNumber = true) (a b c : Nat) : s.refreshNumber.rd g a b c = s.rd g a b c := by
  simp only [Fld.besideNumber, Bool.and_eq_true, bne_iff_ne] at h
  obtain ⟨⟨⟨⟨⟨hgates, hmis⟩, hemis⟩, hknown⟩, hnum⟩, hbend⟩ := h
  rw [s.refreshNumber_eq, State.rd_refreshGates _ hgates, State.rd_refreshLeaders _ hbend, State.numberShown,
    State.rd_wr_apart _ _ _ _ _ _ _ _ hnum, State.rd_wr_apart _ _ _ _ _ _ _ _ hknown,
    s.rd_mismatchShown _ _ _ hmis hemis (Fld.besideGates_iff.mp hgates).2.2.2.2]

/-- NUM_KNOWN, PART_NUM and NUM_MISMATCH follow the two sources. -/
theorem State.refreshNumber_shows : s.refreshNumber.on .LNYD_STAT_NUM_KNOWN = s.lanyard.partnerNum.isSome ∧
    s.refreshNumber.rd .LNYD_STAT_PART_NUM = s.lanyard.partnerNum.getD 0 % 2 ^ 16 ∧
    s.refreshNumber.on .LNYD_STAT_NUM_MISMATCH = s.lanyard.numbersDiffer := by
  rw [s.refreshNumber_eq, State.on, State.on, State.rd_refreshGates _ (by decide), State.rd_refreshGates _ (by decide),
    State.rd_refreshGates _ (by decide), State.rd_refreshLeaders _ (by decide), State.rd_refreshLeaders _ (by decide),
    State.rd_refreshLeaders _ (by decide), State.numberShown, s.mismatchShown_lanyard]
  refine ⟨?_, State.rd_wr_none _ _ (by decide), ?_⟩
  · rw [State.rd_wr_apart _ _ _ _ _ _ _ _ (by decide)]
    exact State.on_wr_flag _ _ (by decide) rfl
  · rw [State.rd_wr_apart _ _ _ _ _ _ _ _ (by decide), State.rd_wr_apart _ _ _ _ _ _ _ _ (by decide)]
    exact s.mismatchShown_on

theorem State.refreshNumber_lanyard : s.refreshNumber.lanyard = s.lanyard :=
  State.kept_part (State.refreshNumber_kept s (State.kept_refl _ s) (Foot.refl _)) 29 rfl

end Sys2Proof.Machine
end


section
/-! The states of the mate link (R289 to R291), its HELLO and CREDIT packets (R287, R288) and eye scans (R292); and the obligation on them.
That the device's own third HELLO with ACK brings the link Up is the model's choice (log entry 59), and so is that a scan asked for on a
lane without sync ends at once as invalid (log entry 58). -/

namespace Sys2Proof.Machine

open Sys2Proof

variable (s : State)

/-! ### Attempts (R289, R291) -/

theorem State.resetLanes_only : s.kept (footOf [.LNYD_LANE_STAT] [.out]) s.resetLanes :=
  State.resetLanes_kept s (State.kept_refl _ s) rfl

/-- No lane gains sync as the lanes are reset. -/
theorem State.resetLanes_sync {l : Nat} (h : s.on .LNYD_LANE_STAT_SYNC l = false) : s.resetLanes.on .LNYD_LANE_STAT_SYNC l = false := by
  rw [State.on_false_iff] at h ⊢
  unfold State.resetLanes
  refine s.each_holds (fun t => t.rd .LNYD_LANE_STAT_SYNC l = 0) h fun k _ t ht => ?_
  dsimp only
  rw [State.rd_wr_apart _ _ _ _ _ _ _ _ (by decide), State.rd_wr_apart _ _ _ _ _ _ _ _ (by decide)]
  refine State.rd_wr_zero _ _ _ _ (by decide) (by decide) ?_
  split
  · exact ht
  · exact ht

/-- An attempt starts with its number, nothing heard yet, in the state that the link is in. -/
theorem State.mateAttempt_shows (k : Nat) : (s.mateAttempt k).linkState = s.linkState ∧
    (s.mateAttempt k).rd .LNYD_STAT_ATTEMPT = k % 4 ∧
    (s.mateAttempt k).lanyard = { s.lanyard with hellos := 0, heard := false } := by
  have hk := State.resetLanes_only ((s.setLny { s.lanyard with hellos := 0, heard := false }).wr .LNYD_STAT_ATTEMPT k)
  refine ⟨?_, ?_, State.kept_part hk 29 rfl⟩
  · exact (State.kept_rd hk _ rfl _ _ _).trans (State.rd_wr_apart _ _ _ _ _ _ _ _ (by decide))
  · exact (State.kept_rd hk _ rfl _ _ _).trans (State.rd_wr_none _ _ (by decide))

theorem State.mateAttempt_sync {l : Nat} (k : Nat) (h : s.on .LNYD_LANE_STAT_SYNC l = false) :
    (s.mateAttempt k).on .LNYD_LANE_STAT_SYNC l = false := by
  unfold State.mateAttempt
  refine State.resetLanes_sync _ ?_
  rw [State.on, State.rd_wr_apart _ _ _ _ _ _ _ _ (by decide)]
  exact h

/-- The third attempt of a sequence over: Mate-absent, reported. -/
def State.mateAbsent (s : State) : State :=
  (((s.wr .LNYD_STAT_LSTATE 3).wr .LNYD_STAT_ATTEMPT 0).resetLanes).mateEvent .LNYD_EVT_ABSENT 0x9002 []

theorem State.mateAbsent_shows : s.mateAbsent.linkState = 3 ∧ s.mateAbsent.rd .LNYD_STAT_ATTEMPT = 0 ∧
    s.mateAbsent.on .LNYD_EVT_ABSENT = true := by
  have hk := State.resetLanes_only ((s.wr .LNYD_STAT_LSTATE 3).wr .LNYD_STAT_ATTEMPT 0)
  refine ⟨?_, ?_, State.on_mateEvent _ _ _ (by decide) rfl rfl⟩
  · rw [State.linkState, State.mateAbsent, State.rd_mateEvent _ _ _ _ _ _ (by decide) rfl, State.kept_rd hk _ rfl,
      State.rd_wr_apart _ _ _ _ _ _ _ _ (by decide), State.rd_wr_none _ _ (by decide)]
    rfl
  · rw [State.mateAbsent, State.rd_mateEvent _ _ _ _ _ _ (by decide) rfl, State.kept_rd hk _ rfl, State.rd_wr_none _ _ (by decide)]
    rfl

/-- An attempt of Mate-absent over. -/
def State.retryOver (s : State) : State := (s.wr .LNYD_STAT_ATTEMPT 0).resetLanes

theorem State.retryOver_shows : s.retryOver.linkState = s.linkState ∧ s.retryOver.rd .LNYD_STAT_ATTEMPT = 0 := by
  have hk := State.resetLanes_only (s.wr .LNYD_STAT_ATTEMPT 0)
  refine ⟨?_, ?_⟩
  · exact (State.kept_rd hk _ rfl _ _ _).trans (State.rd_wr_apart _ _ _ _ _ _ _ _ (by decide))
  · exact (State.kept_rd hk _ rfl _ _ _).trans (State.rd_wr_none _ _ (by decide))

theorem exec_trainingAttemptExpiry (h18 : s.alive 18 = true) : exec .trainingAttemptExpiry s = .next (
    if s.linkState = 1 then if s.rd .LNYD_STAT_ATTEMPT < 3 then s.mateAttempt (s.rd .LNYD_STAT_ATTEMPT + 1) else s.mateAbsent
    else if s.linkState = 3 ∧ s.rd .LNYD_STAT_ATTEMPT ≠ 0 then s.retryOver else s) := by
  change execTrainingAttemptExpiry s = _
  unfold execTrainingAttemptExpiry
  rw [act_next s 18 _ h18]
  rfl

theorem exec_mateAbsentRetry (h18 : s.alive 18 = true) :
    exec .mateAbsentRetry s = .next (if s.linkState = 3 then s.mateAttempt 1 else s) := by
  change execMateAbsentRetry s = _
  unfold execMateAbsentRetry
  rw [act_next s 18 _ h18]

/-! ### The link lost (Table 11.2) -/

theorem State.cutScan_only (l : Nat) : s.kept (footOf [.LNYD_LANE_CFG, .LNYD_EYE] []) (s.cutScan l) :=
  State.cutScan_kept s l (State.kept_refl _ s) rfl

/-- No scan starts as scans are cut short. -/
theorem State.cutScan_keepsOff (k : Nat) {l : Nat} (h : s.on .LNYD_LANE_CFG_SCAN_REQ l = false) :
    (s.cutScan k).on .LNYD_LANE_CFG_SCAN_REQ l = false := by
  rw [State.on_false_iff] at h ⊢
  unfold State.cutScan
  split
  · rw [State.rd_wr_apart _ _ _ _ _ _ _ _ (by decide)]
    exact State.rd_wr_zero _ _ _ _ (by decide) (by decide) h
  · exact h

theorem State.cutScan_off (l : MateLane) : (s.cutScan l).on .LNYD_LANE_CFG_SCAN_REQ l = false := by
  unfold State.cutScan
  split
  · rw [State.on, State.rd_wr_apart _ _ _ _ _ _ _ _ (by decide), State.rd_wr_one _ _ _ (by decide)]
    rfl
  · next h => exact Bool.eq_false_iff.mpr h

theorem State.badSet_lanyard (check : Nat) : (s.badSet check).lanyard = { s.lanyard with arriving := none } := by
  rw [State.badSet, State.mateEvent_lanyard, State.count_lanyard, State.setLny_lanyard]

/-- What leaving Up drops and discards, before its scans are cut short. -/
def State.upDropped (s : State) : State :=
  let t := s.setLny { s.lanyard with lsWait := [], ckWait := [], sending := none, creditDue := false }
  match s.lanyard.arriving with
  | some a => if a.complete then t else t.badSet 1
  | none => t

theorem State.leaveUp_eq : s.leaveUp = s.upDropped.each [0, 1, 2, 3] fun l t => t.cutScan l := rfl

theorem State.upDropped_only : s.kept (eventFoot [.LNYD_EVT, .LNYD_CNT] [.lanyard]) s.upDropped := by
  have hset := State.setLny_kept (m := eventFoot [.LNYD_EVT, .LNYD_CNT] [.lanyard]) s
    { s.lanyard with lsWait := [], ckWait := [], sending := none, creditDue := false } (State.kept_refl _ s) rfl
  unfold State.upDropped
  dsimp only
  split
  · split
    · exact hset
    · exact State.badSet_kept _ _ hset rfl
  · exact hset

/-- Nothing waits once Up is left. -/
theorem State.leaveUp_drops : s.leaveUp.lanyard.lsWait = [] ∧ s.leaveUp.lanyard.ckWait = [] ∧ s.leaveUp.lanyard.sending = none := by
  rw [s.leaveUp_eq]
  refine State.each_holds _ (fun t => t.lanyard.lsWait = [] ∧ t.lanyard.ckWait = [] ∧ t.lanyard.sending = none) ?_ fun l _ t ht => ?_
  · unfold State.upDropped
    dsimp only
    split
    · split
      · exact ⟨rfl, rfl, rfl⟩
      · rw [State.badSet_lanyard]
        exact ⟨rfl, rfl, rfl⟩
    · exact ⟨rfl, rfl, rfl⟩
  · rw [State.kept_part (t.cutScan_only l) 29 rfl]
    exact ht

theorem State.leaveUp_keepsOff {l : Nat} (h : s.on .LNYD_LANE_CFG_SCAN_REQ l = false) :
    s.leaveUp.on .LNYD_LANE_CFG_SCAN_REQ l = false := by
  rw [s.leaveUp_eq]
  refine State.each_holds _ (fun t => t.on .LNYD_LANE_CFG_SCAN_REQ l = false) ?_ fun k _ t ht => t.cutScan_keepsOff k ht
  rw [State.kept_on s.upDropped_only _ rfl, h]

theorem State.leaveUp_only :
    s.kept (eventFoot [.LNYD_LANE_CFG, .LNYD_EYE, .LNYD_EVT, .LNYD_CNT] [.lanyard]) s.leaveUp :=
  State.leaveUp_kept s (State.kept_refl _ s) rfl

/-- A loss of the link: Training with its first attempt, reported, and nothing left to send. -/
theorem State.mateLost_shows : s.mateLost.linkState = 1 ∧ s.mateLost.rd .LNYD_STAT_ATTEMPT = 1 ∧
    s.mateLost.on .LNYD_EVT_LINK_LOST = true ∧ s.mateLost.lanyard.lsWait = [] ∧ s.mateLost.lanyard.ckWait = [] ∧
    s.mateLost.lanyard.sending = none := by
  obtain ⟨hls, hck, hsend⟩ := s.leaveUp_drops
  obtain ⟨hstate, hnum, hlny⟩ := (s.leaveUp.wr .LNYD_STAT_LSTATE 1).mateAttempt_shows 1
  refine ⟨?_, ?_, State.on_mateEvent _ _ _ (by decide) rfl rfl, ?_⟩
  · refine (State.rd_mateEvent _ _ _ 0 0 0 (by decide) rfl).trans (hstate.trans ?_)
    exact State.rd_wr_none _ _ (by decide)
  · exact (State.rd_mateEvent _ _ _ 0 0 0 (by decide) rfl).trans hnum
  · rw [State.mateLost, State.mateEvent_lanyard, State.mateTraining, hlny]
    exact ⟨hls, hck, hsend⟩

theorem State.mateLost_keepsOff {l : Nat} (h : s.on .LNYD_LANE_CFG_SCAN_REQ l = false) :
    s.mateLost.on .LNYD_LANE_CFG_SCAN_REQ l = false := by
  have hk := State.mateTraining_kept (m := footOf [.LNYD_LANE_STAT, .LNYD_STAT] [.lanyard, .out]) s.leaveUp (State.kept_refl _ _) rfl
  rw [State.on, State.mateLost, State.rd_mateEvent _ _ _ _ _ _ (by decide) rfl, State.kept_rd hk _ rfl]
  exact s.leaveUp_keepsOff h

theorem State.mateLost_sync {l : Nat} (h : s.on .LNYD_LANE_STAT_SYNC l = false) : s.mateLost.on .LNYD_LANE_STAT_SYNC l = false := by
  rw [State.on, State.mateLost, State.rd_mateEvent _ _ _ _ _ _ (by decide) rfl]
  refine (s.leaveUp.wr .LNYD_STAT_LSTATE 1).mateAttempt_sync 1 ?_
  rw [State.on, State.rd_wr_apart _ _ _ _ _ _ _ _ (by decide), State.kept_rd s.leaveUp_only _ rfl]
  exact h

theorem exec_helloTimeout (h18 : s.alive 18 = true) :
    exec .helloTimeout s = .next (if s.linkState = 2 then s.mateLost else s) := by
  change execHelloTimeout s = _
  unfold execHelloTimeout
  rw [act_next s 18 _ h18]

/-- A lane without sync, its scan cut short. -/
def State.syncDropped (s : State) (l : Nat) : State := (s.cutScan l).wr .LNYD_LANE_STAT_SYNC 0 l

theorem State.syncDropped_only (l : Nat) :
    s.kept (footOf [.LNYD_LANE_CFG, .LNYD_LANE_STAT, .LNYD_EYE] []) (s.syncDropped l) :=
  State.wr_kept _ _ _ _ _ _ (State.cutScan_kept s l (State.kept_refl _ s) rfl) rfl

theorem State.syncDropped_shows (l : MateLane) : (s.syncDropped l).on .LNYD_LANE_STAT_SYNC l = false ∧
    (s.syncDropped l).on .LNYD_LANE_CFG_SCAN_REQ l = false := by
  refine ⟨?_, ?_⟩
  · rw [State.on_false_iff, State.syncDropped, State.rd_wr_one _ _ _ (by decide), Nat.zero_mod]
  · rw [State.on, State.syncDropped, State.rd_wr_apart _ _ _ _ _ _ _ _ (by decide)]
    exact s.cutScan_off l

theorem exec_mateLaneSyncLoss {l : MateLane} (h18 : s.alive 18 = true) : exec (.mateLaneSyncLoss l) s =
    .next (if s.linkState = 2 ∧ l.val < s.mateLanes then (s.syncDropped l).mateLost else s.syncDropped l) := by
  have hk := s.syncDropped_only l
  have hstate : (s.syncDropped l).linkState = s.linkState := State.kept_rd hk _ rfl _ _ _
  have hlanes : (s.syncDropped l).mateLanes = s.mateLanes := congrArg (2 ^ ·) (State.kept_rd hk _ rfl _ _ _)
  rw [← hstate, ← hlanes]
  change execMateLaneSyncLoss l s = _
  unfold execMateLaneSyncLoss
  rw [act_next s 18 _ h18]
  rfl

/-! ### HELLO (R288, R289) -/

theorem exec_helloSend (h18 : s.alive 18 = true) :
    exec .helloSend s = .next (if s.mateSends then s.sendPacket 0 0 s.helloBytes else s) := by
  change execHelloSend s = _
  unfold execHelloSend
  rw [act_next s 18 _ h18]

/-- SYNC of a lane in use is as the packet finds it. -/
theorem State.showSync_sync (synced : Nat) (l : MateLane) (h : l.val < s.mateLanes) :
    (s.showSync synced).on .LNYD_LANE_STAT_SYNC l = synced.testBit l := by
  unfold State.showSync
  refine s.each_sets (fun t => t.mateLanes = s.mateLanes) (fun t => t.on .LNYD_LANE_STAT_SYNC l = synced.testBit l)
    (List.mem_range (n := 4).mpr l.isLt) rfl (fun k _ t ht => ?_) (fun t ht => ?_) fun k _ hne t ht => ?_
  · rw [← ht]
    split
    · exact congrArg (2 ^ ·) ((State.rd_wr_apart _ _ _ _ _ _ _ _ (by decide)).trans (State.rd_wr_apart _ _ _ _ _ _ _ _ (by decide)))
    · rfl
  · rw [if_pos (by rwa [ht]), State.on, State.rd_wr_apart _ _ _ _ _ _ _ _ (by decide)]
    exact State.on_wr_b2n _ _ _ _ _ _ (regValid_one_of_dims (n := 4) rfl l) rfl (by decide)
  · split
    · rw [State.on, State.rd_wr_apart _ _ _ _ _ _ _ _ (by decide), State.rd_wr_other _ _ _ _ _ _ _ _ _ _ fun e => hne e.2.1.symm]
      exact ht
    · exact ht

theorem State.showSync_only (synced : Nat) : s.kept (footOf [.LNYD_LANE_STAT] []) (s.showSync synced) :=
  State.showSync_kept s synced (State.kept_refl _ s) rfl

/-- How many HELLO packets with ACK have come in a row, with this one. -/
def State.helloCount (s : State) (h : List Byte) : Nat := if bit (byteAt h 0) 0 then min 3 (s.lanyard.hellos + 1) else 0

/-- What a HELLO packet says, held. -/
def State.helloHeld (s : State) (h : List Byte) : State :=
  s.setLny { s.lanyard with
    heard := true, hellos := s.helloCount h, farSuspect := bit (byteAt h 0) 1, helloNum := some (leAt h 2 2) }

/-- A HELLO packet taken: the sync of the lanes outside Up, and the partner's view. -/
def State.helloTaken (s : State) (h : List Byte) (synced : Nat) : State :=
  (State.helloHeld (if s.linkState = 2 then s else s.showSync synced) h).showSuspect.refreshNumber

/-- Every lane in use is in sync. -/
def State.lanesSynced (s : State) : Bool := (List.range 4).all fun l => s.mateLanes ≤ l || s.on .LNYD_LANE_STAT_SYNC l

theorem State.lanesSynced_iff :
    s.lanesSynced = true ↔ ∀ l : MateLane, l.val < s.mateLanes → s.on .LNYD_LANE_STAT_SYNC l = true := by
  simp only [State.lanesSynced, List.all_eq_true, List.mem_range, Bool.or_eq_true, decide_eq_true_eq]
  exact ⟨fun h l hl => (h l l.isLt).resolve_left (by omega), fun h l hl =>
    (Nat.lt_or_ge l s.mateLanes).symm.imp_right (h ⟨l, hl⟩)⟩

theorem State.helloTaken_lanyard (h : List Byte) (synced : Nat) : (s.helloTaken h synced).lanyard = { s.lanyard with
    heard := true, hellos := s.helloCount h, farSuspect := bit (byteAt h 0) 1, helloNum := some (leAt h 2 2) } := by
  have hshow : (if s.linkState = 2 then s else s.showSync synced).lanyard = s.lanyard := by
    split
    · rfl
    · exact State.kept_part (s.showSync_only synced) 29 rfl
  rw [State.helloTaken, State.refreshNumber_lanyard, State.showSuspect, State.wr_lanyard, State.helloHeld, State.setLny_lanyard,
    State.helloCount, hshow]
  rfl

/-- What a HELLO packet leaves beside the lanes' sync and the partner's view. -/
theorem State.rd_helloTaken {g : Fld} (hn : g.besideNumber = true) (hs : Fld.apart .LNYD_STAT_STBY_SUSPECT g = true) (h : List Byte)
    (synced a b c : Nat) : (s.helloTaken h synced).rd g a b c =
      (if s.linkState = 2 then s else s.showSync synced).rd g a b c := by
  rw [State.helloTaken, State.rd_refreshNumber _ hn, State.showSuspect, State.rd_wr_apart _ _ _ _ _ _ _ _ hs]
  rfl

theorem State.helloTaken_linkState (h : List Byte) (synced : Nat) : (s.helloTaken h synced).linkState = s.linkState := by
  rw [State.linkState, State.rd_helloTaken _ (by decide) (by decide)]
  split
  · rfl
  · exact State.kept_rd (s.showSync_only synced) _ rfl _ _ _

/-- Outside Up the lanes in use show the sync that the packet finds. -/
theorem State.helloTaken_synced (h : List Byte) (synced : Nat) (h2 : s.linkState ≠ 2) :
    (s.helloTaken h synced).lanesSynced = true ↔ ∀ l : MateLane, l.val < s.mateLanes → synced.testBit l.val = true := by
  have hlanes : (s.helloTaken h synced).mateLanes = s.mateLanes := by
    rw [State.mateLanes, State.rd_helloTaken _ (by decide) (by decide), if_neg h2, State.kept_rd (s.showSync_only synced) _ rfl]
    rfl
  have hsync (l : MateLane) (hl : l.val < s.mateLanes) : (s.helloTaken h synced).on .LNYD_LANE_STAT_SYNC l = synced.testBit l := by
    rw [State.on, State.rd_helloTaken _ (by decide) (by decide), if_neg h2]
    exact s.showSync_sync synced l hl
  rw [State.lanesSynced_iff, hlanes]
  exact forall₂_congr fun l hl => by rw [hsync l hl]

theorem exec_helloReceived_bad {p : List Byte} {bad : Bool} (synced : BitVec 4) (h18 : s.alive 18 = true) (hs : s.mateSends = true)
    (hp : packetPayload p (s.packetBad bad) 0 = none) : exec (.helloReceived p bad synced) s = .next s.packetSeen.badPacket := by
  change execHelloReceived p bad synced s = _
  unfold execHelloReceived
  rw [act_next s 18 _ h18, if_neg (by simp [hs])]
  dsimp only
  rw [hp]

theorem exec_helloReceived_good {p h : List Byte} {bad : Bool} (synced : BitVec 4) (h18 : s.alive 18 = true) (hs : s.mateSends = true)
    (hp : packetPayload p (s.packetBad bad) 0 = some h) : exec (.helloReceived p bad synced) s = .next (
      let t := s.packetSeen.helloTaken h synced.toNat
      if t.linkState ≠ 2 ∧ t.lanyard.hellos = 3 ∧ t.lanesSynced then t.mateUp else t) := by
  have hcount : State.helloCount (if s.packetSeen.linkState = 2 then s.packetSeen else s.packetSeen.showSync synced.toNat) h =
      (s.packetSeen.helloTaken h synced.toNat).lanyard.hellos := by
    rw [State.helloTaken, State.refreshNumber_lanyard]
    rfl
  dsimp only
  rw [← hcount]
  change execHelloReceived p bad synced s = _
  unfold execHelloReceived
  rw [act_next s 18 _ h18, if_neg (by simp [hs])]
  dsimp only
  rw [hp]
  rfl

/-- Up is entered, reported, with the counts of packets at zero. -/
theorem State.mateUp_shows : s.mateUp.linkState = 2 ∧ s.mateUp.on .LNYD_EVT_LINK_UP = true ∧ s.mateUp.lanyard = { s.lanyard with
    lsSent := 0, ckSent := 0, lsBack := 0, ckBack := 0, lsTaken := 0, ckTaken := 0, creditDue := false } := by
  refine ⟨?_, State.on_mateEvent _ _ _ (by decide) rfl rfl, State.mateEvent_lanyard _ _ _ _⟩
  rw [State.linkState, State.mateUp, State.rd_mateEvent _ _ _ _ _ _ (by decide) rfl, State.rd_wr_apart _ _ _ _ _ _ _ _ (by decide),
    State.rd_wr_none _ _ (by decide)]
  rfl

/-! ### CREDIT (R287, R288) -/

theorem exec_creditSend (h18 : s.alive 18 = true) : exec .creditSend s = .next (
    if s.linkState = 2 && s.lanyard.creditDue then (s.setLny { s.lanyard with creditDue := false }).sendPacket 1 0
      (padTo 16 (leBytes 4 s.lanyard.lsTaken ++ leBytes 4 s.lanyard.ckTaken)) else s) := by
  change execCreditSend s = _
  unfold execCreditSend
  rw [act_next s 18 _ h18]

theorem exec_creditReceived_bad {p : List Byte} {bad : Bool} (h18 : s.alive 18 = true) (h2 : s.linkState = 2)
    (hp : packetPayload p (s.packetBad bad) 1 = none) : exec (.creditReceived p bad) s = .next s.packetSeen.badPacket := by
  change execCreditReceived p bad s = _
  unfold execCreditReceived
  rw [act_next s 18 _ h18, if_neg (by simp [h2])]
  dsimp only
  rw [hp]

theorem exec_creditReceived_good {p c : List Byte} {bad : Bool} (h18 : s.alive 18 = true) (h2 : s.linkState = 2)
    (hp : packetPayload p (s.packetBad bad) 1 = some c) : exec (.creditReceived p bad) s =
      .next (s.packetSeen.setLny { s.packetSeen.lanyard with lsBack := leAt c 0 4, ckBack := leAt c 4 4 }).pump := by
  change execCreditReceived p bad s = _
  unfold execCreditReceived
  rw [act_next s 18 _ h18, if_neg (by simp [h2])]
  dsimp only
  rw [hp]

/-- A packet that fails its checks is counted, and the damage of a crossing is taken up by it. -/
theorem State.badPacket_shows : s.packetSeen.badPacket.rd .LNYD_CNT_COUNT 0 = (s.rd .LNYD_CNT_COUNT 0 + 1) % 2 ^ 48 ∧
    s.packetSeen.badPacket.lanyard = { s.lanyard with hit := false } ∧ s.packetSeen.badPacket.linkState = s.linkState :=
  ⟨State.rd_count_lnyd _ 1 (by decide), rfl, State.rd_count_id _ _ _ _ _ _ _ _ (by decide)⟩

/-! ### Eye scans (R292) -/

theorem exec_mateScanReq {req : Requester} {l : MateLane} (hw : s.mayWrite req 18 2 0) : ∃ t, exec (.mateScanReq req l) s = .next t ∧
    ((s.dropLatch req).setMateLane l (setBits (s.reg .LNYD_LANE_CFG l) 2 2 1)).kept recordMask t := by
  obtain ⟨halive, hi, hrole, hj⟩ := hw
  have hpermits : (s.dropLatch req).permits req 2 [0] = true := by simp [hrole]
  change ∃ t, execMateScanReq req l s = .next t ∧ _
  unfold execMateScanReq
  refine ⟨_, access_next s req 18 _ halive hi, ?_⟩
  rw [State.mateLaneWrite, State.writeOr_permitted _ _ _ _ _ _ _ _ _ hpermits,
    State.write_journaled _ req 2 [0] _ _ _ false _ hpermits (by simpa using hrole) hj]
  exact State.record_kept _ _ _ _ _ _ _ _ _ _ (State.kept_refl _ _) (Foot.refl _)

theorem bit_setBits_one (v n : Nat) : bit (setBits v n n 1) n = true := by
  have h := bits_setBits_same v n n 1 le_rfl
  rw [bits_eq] at h
  rw [bit, Nat.testBit_eq_decide_div_mod_eq, decide_eq_true_eq]
  simpa using h

/-- The other fields of a lane's configuration written. -/
def State.mateLaneSet (s : State) (l v : Nat) : State :=
  ((s.wr .LNYD_LANE_CFG_DWELL (min 10 (bits v 11 8)) l).wr .LNYD_LANE_CFG_RX_INV (bits v 1 1) l).wr .LNYD_LANE_CFG_TX_INV (bits v 0 0) l

theorem State.mateLaneSet_keeps (l v : Nat) : (s.mateLaneSet l v).on .LNYD_LANE_CFG_SCAN_REQ l = s.on .LNYD_LANE_CFG_SCAN_REQ l ∧
    (s.mateLaneSet l v).on .LNYD_LANE_STAT_SYNC l = s.on .LNYD_LANE_STAT_SYNC l := by
  constructor <;>
    rw [State.on, State.mateLaneSet, State.rd_wr_apart _ _ _ _ _ _ _ _ (by decide), State.rd_wr_apart _ _ _ _ _ _ _ _ (by decide),
      State.rd_wr_apart _ _ _ _ _ _ _ _ (by decide)] <;> rfl

/-- SCAN_REQ written where no scan runs: on a lane in sync the scan starts, on another it ends at once. -/
theorem State.setMateLane_eq {l v : Nat} (hv : bit v 2 = true) (hoff : s.on .LNYD_LANE_CFG_SCAN_REQ l = false) :
    s.setMateLane l v = if s.on .LNYD_LANE_STAT_SYNC l then (s.mateLaneSet l v).wr .LNYD_LANE_CFG_SCAN_REQ 1 l
      else (s.mateLaneSet l v).wr .LNYD_EYE_SCAN_VALID 0 l := by
  obtain ⟨hreq, hsync⟩ := s.mateLaneSet_keeps l v
  have hset : s.setMateLane l v = if bit v 2 && !(s.mateLaneSet l v).on .LNYD_LANE_CFG_SCAN_REQ l then
      if (s.mateLaneSet l v).on .LNYD_LANE_STAT_SYNC l then (s.mateLaneSet l v).wr .LNYD_LANE_CFG_SCAN_REQ 1 l
      else (s.mateLaneSet l v).wr .LNYD_EYE_SCAN_VALID 0 l else s.mateLaneSet l v := rfl
  rw [hset, hreq, hsync, hv, hoff]
  rfl

theorem State.setMateLane_synced {l : MateLane} {v : Nat} (hv : bit v 2 = true) (hoff : s.on .LNYD_LANE_CFG_SCAN_REQ l = false)
    (hs : s.on .LNYD_LANE_STAT_SYNC l = true) : (s.setMateLane l v).on .LNYD_LANE_CFG_SCAN_REQ l = true := by
  rw [s.setMateLane_eq hv hoff, if_pos hs, State.on, State.rd_wr_one _ _ _ (by decide)]
  rfl

theorem State.setMateLane_unsynced {l : MateLane} {v : Nat} (hv : bit v 2 = true) (hoff : s.on .LNYD_LANE_CFG_SCAN_REQ l = false)
    (hs : s.on .LNYD_LANE_STAT_SYNC l = false) : (s.setMateLane l v).on .LNYD_LANE_CFG_SCAN_REQ l = false ∧
      (s.setMateLane l v).on .LNYD_EYE_SCAN_VALID l = false := by
  rw [s.setMateLane_eq hv hoff, if_neg (by simp [hs])]
  refine ⟨?_, ?_⟩
  · rw [State.on, State.rd_wr_apart _ _ _ _ _ _ _ _ (by decide)]
    exact (s.mateLaneSet_keeps l v).1.trans hoff
  · rw [State.on, State.rd_wr_one _ _ _ (by decide)]
    rfl

/-- What LNYD_EYE shows of a width and a height. -/
def mateEyeWord (width height : Nat) : Nat := 0x10000 + width <<< 8 + height

theorem mateEyeWord_shows {width height : Nat} (hw : width < 256) (hh : height < 256) :
    bits (mateEyeWord width height) 16 16 = 1 ∧ bits (mateEyeWord width height) 15 8 = width ∧
      bits (mateEyeWord width height) 7 0 = height := by
  simp only [bits_eq, mateEyeWord, Nat.shiftLeft_eq]
  omega

/-- The end of a scan, shown, and joined to the history of margins. -/
def State.mateScanShown (s : State) (l width height : Nat) : State :=
  let t := (s.wr .LNYD_LANE_CFG_SCAN_REQ 0 l).setReg .LNYD_EYE (mateEyeWord width height) l
  { t with age := { t.age with margins := (true, l, height, width) :: t.age.margins } }

/-- The same, reported. -/
def State.mateScanReported (s : State) (l width height : Nat) : State :=
  (s.mateScanShown l width height).mateEvent .LNYD_EVT_SCAN_DONE 0x900B []

theorem exec_mateScanDone {l : MateLane} (sweeps : List (List Nat)) (h18 : s.alive 18 = true)
    (hreq : s.on .LNYD_LANE_CFG_SCAN_REQ l = true) : exec (.mateScanDone l sweeps) s = .next (s.mateScanReported l
      (eyeSpan 6 (s.rd .LNYD_LANE_CFG_DWELL l) (sweeps.getD 0 []) % 256)
      (eyeSpan 6 (s.rd .LNYD_LANE_CFG_DWELL l) (sweeps.getD 1 []) % 256)) := by
  change execMateScanDone l sweeps s = _
  unfold execMateScanDone
  rw [act_next s 18 _ h18, if_neg (by simp [hreq])]
  rfl

/-- A field of LNYD_EYE after a scan. -/
theorem State.rd_mateScanReported_eye {g : Fld} (hid : g.id = .LNYD_EYE) (hle : g.lo ≤ g.hi) (hlt : g.hi < 32) (l : MateLane)
    (width height : Nat) : (s.mateScanReported l width height).rd g l = bits (mateEyeWord width height) g.hi g.lo := by
  have hev : Fld.apart .LNYD_EVT_SCAN_DONE g = true := by simp [Fld.apart, hid]
  rw [State.mateScanReported, State.rd_mateEvent _ _ _ _ _ _ hev (by rw [hid]; rfl), State.rd, hid]
  refine (congrArg (bits · g.hi g.lo) (State.reg_setReg_same _ .LNYD_EYE _ l 0 0 (regValid_one_of_dims (n := 4) rfl l))).trans ?_
  exact bits_mod _ _ _ 32 hle hlt

theorem State.mateScanReported_shows (l : MateLane) (width height : Nat) :
    (s.mateScanReported l width height).on .LNYD_LANE_CFG_SCAN_REQ l = false ∧
      (s.mateScanReported l width height).on .LNYD_EVT_SCAN_DONE = true ∧
      (s.mateScanReported l width height).age.margins = (true, l.val, height, width) :: s.age.margins := by
  refine ⟨?_, State.on_mateEvent _ _ _ (by decide) rfl rfl, congrArg AgeInt.margins (State.raise_age _ _ _ _ _ _ _)⟩
  rw [State.on_false_iff, State.mateScanReported, State.rd_mateEvent _ _ _ _ _ _ (by decide) rfl]
  exact (State.rd_setReg_id _ _ _ _ _ _ _ _ (by decide)).trans (State.rd_wr_one _ _ _ (by decide))

/-- Settles O46: an attempt that expires is the next one or its end; a loss of the link is what leaving Up drops, then Training; a packet
is judged first, and a HELLO that wins its attempt enters Up; a scan is its request or its result, which the reports leave. -/
theorem mateLinkStates : Obligations.MateLinkStates := by
  unfold Obligations.MateLinkStates
  refine ⟨?expiry, ?retry, ?timeout, ?syncLoss, ?send, ?hello, ?creditSend, ?credit, ?scanReq, ?scanDone⟩
  case expiry =>
    intro s h18
    have hexec := exec_trainingAttemptExpiry s h18
    have honly := fun t (h : exec .trainingAttemptExpiry s = .next t) =>
      exec_only_of_fits (l := eventTouch.append [.reg .LNYD_LANE_STAT, .reg .LNYD_STAT, .reg .LNYD_EVT])
        (p := eventParts.append [.lanyard]) h (by simp only [footprint]; decide +kernel)
    refine ⟨fun h1 hlt => ?_, fun h1 h3 => ?_, fun h3 hne => ?_⟩
    · rw [if_pos h1, if_pos hlt] at hexec
      obtain ⟨hstate, hnum, hlny⟩ := s.mateAttempt_shows (s.rd .LNYD_STAT_ATTEMPT + 1)
      exact ⟨_, hexec, honly _ hexec, hstate.trans h1, hnum.trans (Nat.mod_eq_of_lt (by omega)), by rw [hlny]⟩
    · rw [if_pos h1, if_neg (by omega)] at hexec
      exact ⟨_, hexec, honly _ hexec, s.mateAbsent_shows⟩
    · rw [if_neg (by omega), if_pos ⟨h3, hne⟩] at hexec
      obtain ⟨hstate, hnum⟩ := s.retryOver_shows
      exact ⟨_, hexec, honly _ hexec, hstate.trans h3, hnum⟩
  case retry =>
    intro s h18
    have hexec := exec_mateAbsentRetry s h18
    refine ⟨fun h3 => ?_, fun h3 => by rw [hexec, if_neg h3]⟩
    rw [if_pos h3] at hexec
    obtain ⟨hstate, hnum, hlny⟩ := s.mateAttempt_shows 1
    exact ⟨_, hexec, exec_only_of_fits hexec (by simp only [footprint]; decide +kernel), hstate.trans h3, hnum, by rw [hlny], by rw [hlny]⟩
  case timeout =>
    intro s h18
    have hexec := exec_helloTimeout s h18
    refine ⟨fun h2 => ?_, fun h2 => by rw [hexec, if_neg h2]⟩
    rw [if_pos h2] at hexec
    exact ⟨_, hexec, exec_only_of_fits hexec (by simp only [footprint]; decide +kernel), s.mateLost_shows⟩
  case syncLoss =>
    intro s l h18
    have hexec := exec_mateLaneSyncLoss s (l := l) h18
    obtain ⟨hsync, hscan⟩ := s.syncDropped_shows l
    refine ⟨_, hexec, exec_only_of_fits hexec (by simp only [footprint]; decide +kernel), ?_⟩
    by_cases hlost : s.linkState = 2 ∧ l.val < s.mateLanes
    · obtain ⟨hstate, -, hevt, -⟩ := (s.syncDropped l).mateLost_shows
      rw [if_pos hlost]
      refine ⟨State.mateLost_sync _ hsync, State.mateLost_keepsOff _ hscan, fun _ _ => ⟨hstate, hevt⟩, fun h => ?_⟩
      obtain ⟨h2, hlt⟩ := hlost
      exact absurd (h.resolve_left (not_not.mpr h2)) (by omega)
    · rw [if_neg hlost]
      exact ⟨hsync, hscan, fun h2 hlt => absurd ⟨h2, hlt⟩ hlost,
        fun _ => ⟨State.kept_rd (s.syncDropped_only l) _ rfl _ _ _, State.kept_part (s.syncDropped_only l) 29 rfl⟩⟩
  case send =>
    intro s h18
    have hexec := exec_helloSend s h18
    refine ⟨fun hs => ?_, fun hs => by rw [hexec, if_neg (by simp [hs])]⟩
    rw [if_pos hs] at hexec
    exact ⟨_, hexec, exec_only_of_fits hexec (by simp only [footprint]; decide +kernel), rfl, rfl⟩
  case hello =>
    intro s p bad synced h18 hs
    have honly := fun t (h : exec (.helloReceived p bad synced) s = .next t) =>
      exec_only_of_fits (l := eventTouch.append [.reg .BEND_PG_STAT, .reg .LNYD_LANE_STAT, .reg .LNYD_STAT, .reg .LNYD_EVT,
        .reg .LNYD_CNT]) (p := eventParts.append [.pins, .lanyard]) h (by simp only [footprint]; decide +kernel)
    cases hp : packetPayload p (s.packetBad bad) 0 with
    | none =>
      have hexec := exec_helloReceived_bad s synced h18 hs hp
      exact ⟨_, hexec, honly _ hexec, fun _ => s.badPacket_shows, fun h e => (nomatch e)⟩
    | some h =>
      have hexec := exec_helloReceived_good s synced h18 hs hp
      refine ⟨_, hexec, honly _ hexec, fun e => (nomatch e), fun h' e => ?_⟩
      obtain rfl : h = h' := Option.some.inj e
      have hlny := s.packetSeen.helloTaken_lanyard h synced.toNat
      have hheard := congrArg LanyardInt.heard hlny
      have hnum := congrArg LanyardInt.helloNum hlny
      have hfar := congrArg LanyardInt.farSuspect hlny
      have hstate := s.packetSeen.helloTaken_linkState h synced.toNat
      have hcount : (s.packetSeen.helloTaken h synced.toNat).lanyard.hellos =
          if bit (byteAt h 0) 0 then min 3 (s.lanyard.hellos + 1) else 0 := by
        rw [hlny]
        rfl
      have hwon (h2 : s.linkState ≠ 2) := s.packetSeen.helloTaken_synced h synced.toNat h2
      have hsame : s.packetSeen.linkState = s.linkState := rfl
      have hlanes : s.packetSeen.mateLanes = s.mateLanes := rfl
      rw [hsame] at hstate
      rw [hlanes] at hwon
      dsimp only
      generalize s.packetSeen.helloTaken h synced.toNat = t at *
      by_cases hup : t.linkState ≠ 2 ∧ t.lanyard.hellos = 3 ∧ t.lanesSynced = true
      · obtain ⟨h2, h3, hsync⟩ := hup
        obtain ⟨hstate', hevt, hlny'⟩ := t.mateUp_shows
        rw [if_pos ⟨h2, h3, hsync⟩, hlny']
        refine ⟨hheard, hnum, hcount, hfar, fun _ _ _ _ => ⟨hstate', hevt, rfl, rfl, rfl, rfl⟩, fun hno => ?_⟩
        rw [hcount] at h3
        rw [hstate] at h2
        have hin := (hwon h2).mp hsync
        rcases hno with hno | hno | hno | ⟨l, hl, hno⟩
        · exact absurd hno h2
        · rw [hno, if_neg Bool.false_ne_true] at h3
          omega
        · split at h3 <;> omega
        · rw [hin l hl] at hno
          exact absurd hno (by decide)
      · rw [if_neg hup]
        refine ⟨hheard, hnum, hcount, hfar, fun h2 hack hn hin => absurd ⟨by rwa [hstate], ?_, (hwon h2).mpr hin⟩ hup, fun _ => hstate⟩
        rw [hcount, if_pos hack]
        omega
  case creditSend =>
    intro s h18
    have hexec := exec_creditSend s h18
    refine ⟨fun h2 hdue => ?_, fun hno => ?_⟩
    · rw [if_pos (by simp [h2, hdue])] at hexec
      exact ⟨_, hexec, exec_only_of_fits hexec (by simp only [footprint]; decide +kernel), rfl, rfl⟩
    · rw [hexec, if_neg]
      rcases hno with hno | hno <;> simp [hno]
  case credit =>
    intro s p bad h18 h2
    have honly := fun t (h : exec (.creditReceived p bad) s = .next t) =>
      exec_only_of_fits (l := [.reg .LNYD_STAT, .reg .LNYD_CNT]) (p := [.lanyard, .out]) h (by simp only [footprint]; decide +kernel)
    cases hp : packetPayload p (s.packetBad bad) 1 with
    | none =>
      have hexec := exec_creditReceived_bad s h18 h2 hp
      obtain ⟨hcnt, hlny, hstate⟩ := s.badPacket_shows
      exact ⟨_, hexec, honly _ hexec, hstate.trans h2, fun _ => ⟨hcnt, hlny⟩, fun c e => (nomatch e)⟩
    | some c =>
      have hexec := exec_creditReceived_good s h18 h2 hp
      refine ⟨_, hexec, honly _ hexec, (State.rd_pump _ (by decide) _ _ _).trans h2, fun e => (nomatch e), fun c' e => ?_⟩
      obtain rfl : c = c' := Option.some.inj e
      have hside := State.pump_besideSending (s.packetSeen.setLny { s.packetSeen.lanyard with lsBack := leAt c 0 4, ckBack := leAt c 4 4 })
      exact ⟨congrArg LanyardInt.lsBack hside, congrArg LanyardInt.ckBack hside⟩
  case scanReq =>
    intro s req l hw hoff
    obtain ⟨t, hexec, hk⟩ := exec_mateScanReq s (l := l) hw
    refine ⟨t, hexec, exec_only_of_fits hexec (by simp only [footprint]; decide +kernel), fun hsync => ?_, fun hsync => ?_⟩
    · rw [State.kept_on hk _ rfl]
      exact (s.dropLatch req).setMateLane_synced (bit_setBits_one _ 2) hoff hsync
    · rw [State.kept_on hk _ rfl, State.kept_on hk _ rfl]
      exact (s.dropLatch req).setMateLane_unsynced (bit_setBits_one _ 2) hoff hsync
  case scanDone =>
    intro s l sweeps sp h18 hreq hsp
    have hexec := exec_mateScanDone s sweeps h18 hreq
    rw [← hsp, ← hsp] at hexec
    have hlt (k : Nat) : sp k < 256 := hsp k ▸ Nat.mod_lt _ (by decide)
    obtain ⟨hoff, hevt, hage⟩ := s.mateScanReported_shows l (sp 0) (sp 1)
    obtain ⟨hvalid, hwidth, hheight⟩ := mateEyeWord_shows (hlt 0) (hlt 1)
    refine ⟨_, hexec, exec_only_of_fits hexec (by simp only [footprint]; decide +kernel), hoff, ?_, ?_, ?_, hevt, hage⟩
    · rw [State.on, s.rd_mateScanReported_eye rfl (by decide) (by decide), hvalid]
      rfl
    · rw [s.rd_mateScanReported_eye rfl (by decide) (by decide), hwidth]
    · rw [s.rd_mateScanReported_eye rfl (by decide) (by decide), hheight]

end Sys2Proof.Machine
end


section
/-! Claims and their numbers, the gates and the takeover (R293 to R296, R302); and the obligation on them. When CONFLICT is set is the
model's choice (log entry 59), and so is that a takeover without a valid set restores nothing (log entry 60). -/

namespace Sys2Proof.Machine

open Sys2Proof

variable (s : State)

/-! ### The claim (R293, R295) -/

/-- Whether the claiming level is to be asserted. -/
def State.claimDue (s : State) : Bool :=
  (s.mate && s.on .LNYD_CLAIM_CLAIM_EN && s.alive 18 && s.boot.rootLocked && !s.boot.shutdown) &&
    (s.on .LNYD_STAT_CLAIMING || !s.on .LNYD_STAT_PART_CLAIMS || s.on .LNYD_CLAIM_REVERT)

/-- The gap of a claim that rises. -/
def State.gapBegun (s : State) : State :=
  if s.claimDue && !s.on .LNYD_STAT_CLAIMING then s.setLny { s.lanyard with gapDone := !s.on .LNYD_STAT_PART_CLAIMS } else s

/-- CLM_OUT[0] at a level. -/
def State.claimPin (s : State) (level : Bool) : State := { s with pins := { s.pins with clmOut0 := level } }

/-- The claim shown, and on CLM_OUT[0]. -/
def State.claimShown (s : State) : State := (s.gapBegun.wr .LNYD_STAT_CLAIMING (b2n s.claimDue)).claimPin s.claimDue

theorem State.rd_claimPin (level : Bool) (f : Fld) (a b c : Nat) : (s.claimPin level).rd f a b c = s.rd f a b c := rfl

theorem State.refreshClaim_eq : s.refreshClaim = s.claimShown.refreshGates := rfl

theorem State.gapBegun_eq : ∃ gap, s.gapBegun = s.setLny { s.lanyard with gapDone := gap } := by
  unfold State.gapBegun
  split
  · exact ⟨_, rfl⟩
  · exact ⟨s.lanyard.gapDone, rfl⟩

theorem State.rd_claimShown {g : Fld} (h : Fld.apart .LNYD_STAT_CLAIMING g = true) (a b c : Nat) :
    s.claimShown.rd g a b c = s.rd g a b c := by
  obtain ⟨gap, hgap⟩ := s.gapBegun_eq
  rw [State.claimShown, State.rd_claimPin, State.rd_wr_apart _ _ _ _ _ _ _ _ h, hgap, State.rd_setLny]

theorem State.claimShown_on : s.claimShown.on .LNYD_STAT_CLAIMING = s.claimDue := by
  rw [State.on, State.claimShown, State.rd_claimPin]
  exact s.gapBegun.on_wr_flag _ (by decide) rfl

/-- The claim leaves the gap alone of what Lanyard holds. -/
theorem State.refreshClaim_lanyard : ∃ gap, s.refreshClaim.lanyard = { s.lanyard with gapDone := gap } := by
  obtain ⟨gap, hgap⟩ := s.gapBegun_eq
  refine ⟨gap, ?_⟩
  rw [s.refreshClaim_eq, State.refreshGates_lanyard, State.claimShown, hgap]
  rfl

theorem State.refreshClaim_pins : ∃ lasers, s.refreshClaim.pins = { s.pins with clmOut0 := s.claimDue, optTxen := lasers } := by
  obtain ⟨gap, hgap⟩ := s.gapBegun_eq
  obtain ⟨lasers, hlasers⟩ := s.claimShown.refreshGates_pins
  refine ⟨lasers, ?_⟩
  rw [s.refreshClaim_eq, hlasers, State.claimShown, hgap]
  rfl

theorem State.rd_refreshClaim {g : Fld} (h : g.besideGates = true) (hc : Fld.apart .LNYD_STAT_CLAIMING g = true) (a b c : Nat) :
    s.refreshClaim.rd g a b c = s.rd g a b c := by
  rw [s.refreshClaim_eq, State.rd_refreshGates _ h, s.rd_claimShown hc]

/-- A device that claims beside a partner that does not opens its gates, and reports it where they were closed. -/
theorem State.refreshClaim_opens (hdue : s.claimDue = true) (hm : s.mate = true) (hpart : s.on .LNYD_STAT_PART_CLAIMS = false) :
    s.refreshClaim.on .LNYD_STAT_CLAIMING = true ∧ s.refreshClaim.on .LNYD_STAT_GATES_OPEN = true ∧
      (s.on .LNYD_STAT_GATES_OPEN = false → s.refreshClaim.on .LNYD_EVT_GATE = true) := by
  have hmate : s.claimShown.mate = true := by rwa [State.mate, State.on, s.rd_claimShown (by decide)]
  have hpart' : s.claimShown.on .LNYD_STAT_PART_CLAIMS = false := by rwa [State.on, s.rd_claimShown (by decide)]
  have hgates : s.claimShown.gatesDue = true := by simp [State.gatesDue, hmate, hpart', s.claimShown_on, hdue]
  rw [s.refreshClaim_eq]
  refine ⟨?_, State.refreshGates_open _ ▸ hgates, fun hclosed => State.refreshGates_event _ ?_⟩
  · rw [State.on, State.rd_refreshGates _ (by decide)]
    exact s.claimShown_on.trans hdue
  · rw [hgates, State.on, s.rd_claimShown (by decide)]
    exact fun h => absurd (hclosed.symm.trans h) (by decide)

/-! ### The partner's level (R296) -/

/-- CLM_IN[0] at a level. -/
def State.pinTaken (s : State) (level : Bool) : State := { s with pins := { s.pins with clmIn0 := level } }

/-- The level shown, which is not held back by a gap. -/
def State.levelShown (s : State) (level : Bool) : State :=
  (s.wr .LNYD_STAT_PART_CLAIMS (b2n level)).setLny { s.lanyard with gapDone := true }

/-- A takeover started, from the latest valid set on the die or else in a Ready region. -/
def State.takeoverBegun (s : State) : State := s.setLny { s.lanyard with
  takeover := match s.lanyard.latest with
    | some k => some k
    | none => if s.ckReady then s.lanyard.region.head? else none }

/-- The partner's level taken, and what the claim and the gates make of it. -/
def State.levelTaken (s : State) (level : Bool) : State := (s.levelShown level).refreshClaim

theorem exec_partnerClaimChange_same {level : Bool} (h18 : s.alive 18 = true) (h : s.on .LNYD_STAT_PART_CLAIMS = level) :
    exec (.partnerClaimChange level) s = .next (s.pinTaken level) := by
  change execPartnerClaimChange level s = _
  unfold execPartnerClaimChange
  exact (act_next (s.pinTaken level) 18 _ h18).trans (congrArg _ (if_pos h))

theorem exec_partnerClaimChange_moved {level : Bool} (h18 : s.alive 18 = true) (h : s.on .LNYD_STAT_PART_CLAIMS ≠ level) :
    exec (.partnerClaimChange level) s = .next (
      let t := (s.pinTaken level).levelTaken level
      if t.mate && !level && !s.on .LNYD_STAT_GATES_OPEN && t.on .LNYD_STAT_GATES_OPEN then t.takeoverBegun else t) := by
  change execPartnerClaimChange level s = _
  unfold execPartnerClaimChange
  exact (act_next (s.pinTaken level) 18 _ h18).trans (congrArg _ (if_neg h))

theorem State.rd_levelShown {g : Fld} (h : Fld.apart .LNYD_STAT_PART_CLAIMS g = true) (level : Bool) (a b c : Nat) :
    (s.levelShown level).rd g a b c = s.rd g a b c := by
  rw [State.levelShown, State.rd_setLny, State.rd_wr_apart _ _ _ _ _ _ _ _ h]

theorem State.levelShown_on (level : Bool) : (s.levelShown level).on .LNYD_STAT_PART_CLAIMS = level := by
  rw [State.levelShown, State.on_setLny]
  exact s.on_wr_flag _ (by decide) rfl

theorem State.rd_levelTaken {g : Fld} (h : g.besideGates = true) (hc : Fld.apart .LNYD_STAT_CLAIMING g = true)
    (hp : Fld.apart .LNYD_STAT_PART_CLAIMS g = true) (level : Bool) (a b c : Nat) :
    (s.levelTaken level).rd g a b c = s.rd g a b c := by
  rw [State.levelTaken, State.rd_refreshClaim _ h hc, s.rd_levelShown hp]

/-- The level is shown, the pins beside the claim and the lasers stay, and of Lanyard only the gap changes. -/
theorem State.levelTaken_shows (level : Bool) : (s.levelTaken level).on .LNYD_STAT_PART_CLAIMS = level ∧
    (s.levelTaken level).pins.clmIn0 = s.pins.clmIn0 ∧ (s.levelTaken level).pins.clmOut0 = (s.levelShown level).claimDue ∧
    ∃ gap, (s.levelTaken level).lanyard = { s.lanyard with gapDone := gap } := by
  obtain ⟨lasers, hpins⟩ := (s.levelShown level).refreshClaim_pins
  refine ⟨?_, ?_, ?_, (s.levelShown level).refreshClaim_lanyard⟩
  · rw [State.on, State.levelTaken, State.rd_refreshClaim _ (by decide) (by decide)]
    exact s.levelShown_on level
  · rw [State.levelTaken, hpins]
    rfl
  · rw [State.levelTaken, hpins]

theorem State.levelTaken_ckReady (level : Bool) : (s.levelTaken level).ckReady = s.ckReady := by
  rw [State.ckReady, s.rd_levelTaken (by decide) (by decide) (by decide), s.rd_levelTaken (by decide) (by decide) (by decide)]
  rfl

/-- Where a device may claim, a partner's level that falls makes its claim due. -/
theorem State.levelShown_claimDue (h18 : s.alive 18 = true) (hm : s.mate = true) (hen : s.on .LNYD_CLAIM_CLAIM_EN = true)
    (hroot : s.boot.rootLocked = true) (hshut : s.boot.shutdown = false) : (s.levelShown false).claimDue = true := by
  have hmate : (s.levelShown false).mate = true := by rwa [State.mate, State.on, s.rd_levelShown (by decide)]
  have hen' : (s.levelShown false).on .LNYD_CLAIM_CLAIM_EN = true := by rwa [State.on, s.rd_levelShown (by decide)]
  have halive : (s.levelShown false).alive 18 = true := by
    rw [State.alive, s.rd_levelShown (by decide)]
    exact h18
  have hroot' : (s.levelShown false).boot.rootLocked = true := hroot
  have hshut' : (s.levelShown false).boot.shutdown = false := hshut
  simp [State.claimDue, hmate, hen', halive, hroot', hshut', s.levelShown_on]

theorem State.takeoverBegun_latest {k : CkSet} (h : s.lanyard.latest = some k) : s.takeoverBegun.lanyard.takeover = some k := by
  simp [State.takeoverBegun, h]

theorem State.takeoverBegun_none (h : s.lanyard.latest = none) :
    s.takeoverBegun.lanyard.takeover = if s.ckReady then s.lanyard.region.head? else none := by
  simp [State.takeoverBegun, h]

/-! ### Claim frames (R294) -/

/-- The row of identical good claim frames, with one more of a number. -/
def LanyardInt.rowWith (x : LanyardInt) (num : Nat) : Nat := if x.frameRun ≠ 0 ∧ x.frameNum = num then min 3 (x.frameRun + 1) else 1

/-- A good claim frame taken. -/
def State.claimFrameTaken (s : State) (num : Nat) : State := s.setLny { s.lanyard with
  frameNum := num, frameRun := s.lanyard.rowWith num, pinNum := if s.lanyard.rowWith num = 3 then some num else s.lanyard.pinNum }

theorem exec_claimFrameReceived_bad {w : BitVec 32} (h18 : s.alive 18 = true) (h : w.toNat ≠ claimFrame (bits w.toNat 23 8)) :
    exec (.claimFrameReceived w) s = .next (s.setLny { s.lanyard with frameRun := 0 }) := by
  change execClaimFrameReceived w s = _
  unfold execClaimFrameReceived
  rw [act_next s 18 _ h18]
  dsimp only
  rw [if_neg h]

theorem exec_claimFrameReceived_good {w : BitVec 32} (h18 : s.alive 18 = true) (h : w.toNat = claimFrame (bits w.toNat 23 8)) :
    exec (.claimFrameReceived w) s = .next (if s.lanyard.rowWith (bits w.toNat 23 8) = 3 then
      (s.claimFrameTaken (bits w.toNat 23 8)).refreshNumber else s.claimFrameTaken (bits w.toNat 23 8)) := by
  change execClaimFrameReceived w s = _
  unfold execClaimFrameReceived
  rw [act_next s 18 _ h18]
  dsimp only
  rw [if_pos h]
  rfl

/-! ### The gap (R296) -/

/-- With both claims standing and the gap over, the gates are due for the higher number alone. -/
theorem State.gatesDue_afterGap (hm : s.mate = true) (hc : s.on .LNYD_STAT_CLAIMING = true) (hp : s.on .LNYD_STAT_PART_CLAIMS = true)
    (hgap : s.lanyard.gapDone = true) : s.gatesDue = true ↔
      s.on .LNYD_STAT_NUM_KNOWN = true ∧ s.rd .LNYD_STAT_PART_NUM < s.rd .LNYD_CLAIM_CLAIM_NUM := by
  simp [State.gatesDue, hm, hc, hp, hgap]

/-- With both claims standing there is a conflict when the numbers are the same. -/
theorem State.inConflict_bothClaim (hm : s.mate = true) (hc : s.on .LNYD_STAT_CLAIMING = true) (hp : s.on .LNYD_STAT_PART_CLAIMS = true) :
    s.inConflict = true ↔ s.on .LNYD_STAT_NUM_KNOWN = true ∧ s.rd .LNYD_STAT_PART_NUM = s.rd .LNYD_CLAIM_CLAIM_NUM := by
  simp only [State.inConflict, hm, hc, hp, Bool.true_and, Bool.and_eq_true, beq_iff_eq]
  exact and_congr_right fun _ => eq_comm

theorem exec_claimGapDone (h18 : s.alive 18 = true) (hc : s.on .LNYD_STAT_CLAIMING = true) (hp : s.on .LNYD_STAT_PART_CLAIMS = true) :
    exec .claimGapDone s = .next (s.setLny { s.lanyard with gapDone := true }).refreshGates := by
  change execClaimGapDone s = _
  unfold execClaimGapDone
  rw [act_next s 18 _ h18, if_pos (by simp [hc, hp])]

/-! ### The services restored (R302) -/

/-- What a takeover shows of the hubs: by line and leaf the entry's enable, its state and its timing advance; by line hub time and the
period number. -/
def State.hubView (s : State) : (Nat → Nat → Nat × Nat × Nat) × (Nat → Nat × Nat) :=
  (fun n i => (s.rd .BGHT_LEAF_EN n i, s.leafState n i, s.rd .BGHT_LEAF_ST_TA n i), fun n => ((s.bgt n).clock, s.rd .BGHT_STAT_PERIOD n))

variable {s} {t : State}

theorem State.hubView_iff : t.hubView = s.hubView ↔ (∀ n i, t.rd .BGHT_LEAF_EN n i = s.rd .BGHT_LEAF_EN n i ∧
    t.rd .BGHT_LEAF_ST_STATE n i = s.rd .BGHT_LEAF_ST_STATE n i ∧ t.rd .BGHT_LEAF_ST_TA n i = s.rd .BGHT_LEAF_ST_TA n i) ∧
    ∀ n, (t.bgt n).clock = (s.bgt n).clock ∧ t.rd .BGHT_STAT_PERIOD n = s.rd .BGHT_STAT_PERIOD n := by
  simp [State.hubView, State.leafState, funext_iff]

theorem State.hubView_of_kept {m : Nat} (hk : s.kept m t) (hb : m.testBit 20 = false) (hen : m.testBit (regBit .BGHT_LEAF) = false)
    (hst : m.testBit (regBit .BGHT_LEAF_ST) = false) (hper : m.testBit (regBit .BGHT_STAT) = false) : t.hubView = s.hubView :=
  State.hubView_iff.mpr ⟨fun _ _ => ⟨State.kept_rd hk _ hen _ _ _, State.kept_rd hk _ hst _ _ _, State.kept_rd hk _ hst _ _ _⟩,
    fun n => ⟨by rw [State.kept_bgt hk hb n], State.kept_rd hk _ hper _ _ _⟩⟩

/-- A write of one field leaves equal what was equal of each field that it writes or is apart from. -/
theorem State.rd_wr_congr {f g : Fld} (hfg : f.apart g = true ∨ g = f) (v i j k : Nat) {a b c : Nat} (hf : f.lo ≤ f.hi)
    (hw : f.hi < (regSpec f.id).width) (h : t.rd g a b c = s.rd g a b c) :
    (t.wr f v i j k).rd g a b c = (s.wr f v i j k).rd g a b c := by
  rcases hfg with hfg | rfl
  · rw [State.rd_wr_apart _ _ _ _ _ _ _ _ hfg, State.rd_wr_apart _ _ _ _ _ _ _ _ hfg, h]
  · by_cases hsame : a = i ∧ b = j ∧ c = k
    · obtain ⟨rfl, rfl, rfl⟩ := hsame
      cases hv : regValid ⟨g.id, a, b, c⟩ with
      | false =>
        unfold State.wr State.setReg
        rw [RegStore.put_invalid _ _ _ hv, RegStore.put_invalid _ _ _ hv]
        exact h
      | true => rw [t.rd_wr_same g v a b c hv hf hw, s.rd_wr_same g v a b c hv hf hw]
    · rw [t.rd_wr_other _ _ _ _ _ _ _ _ _ fun e => hsame e.2, s.rd_wr_other _ _ _ _ _ _ _ _ _ fun e => hsame e.2, h]

/-- A field that the view of the hubs holds, or that is apart from all that it holds. -/
def Fld.fitsHubView (f : Fld) : Bool :=
  ([.BGHT_LEAF_EN, .BGHT_LEAF_ST_STATE, .BGHT_LEAF_ST_TA, .BGHT_STAT_PERIOD] : List Fld).all (fun g => f.apart g || decide (g = f)) &&
    decide (f.lo ≤ f.hi) && decide (f.hi < (regSpec f.id).width)

theorem State.hubView_wr {f : Fld} (hfit : f.fitsHubView = true) (v i j k : Nat) (h : t.hubView = s.hubView) :
    (t.wr f v i j k).hubView = (s.wr f v i j k).hubView := by
  simp only [Fld.fitsHubView, List.all_cons, List.all_nil, Bool.and_true, Bool.and_eq_true, Bool.or_eq_true, decide_eq_true_eq] at hfit
  obtain ⟨⟨⟨hen, hst, hta, hper⟩, hf⟩, hw⟩ := hfit
  obtain ⟨hleaf, hline⟩ := State.hubView_iff.mp h
  refine State.hubView_iff.mpr ⟨fun n l => ?_, fun n => ⟨(hline n).1, State.rd_wr_congr hper v i j k hf hw (hline n).2⟩⟩
  obtain ⟨hen', hst', hta'⟩ := hleaf n l
  exact ⟨State.rd_wr_congr hen v i j k hf hw hen', State.rd_wr_congr hst v i j k hf hw hst', State.rd_wr_congr hta v i j k hf hw hta'⟩

/-- Steps that each keep views equal keep them equal together. -/
theorem State.hubView_foldl {α : Type} {g : State → α → State}
    (hg : ∀ s t a, State.hubView t = State.hubView s → (g t a).hubView = (g s a).hubView) (l : List α) (h : t.hubView = s.hubView) :
    (l.foldl g t).hubView = (l.foldl g s).hubView := by
  induction l generalizing s t with
  | nil => exact h
  | cons a l ih => exact ih (hg s t a h)

variable (s)

theorem State.rd_setProfile {g : Fld} (n i : Nat) (p : Profile) (a b c : Nat) (h : Fld.apart .BGHT_LEAF_ST_ACT_PROF g = true)
    (h' : Fld.apart .BGHT_LEAF_ST_BPQ g = true) : (s.setProfile n i p).rd g a b c = s.rd g a b c := by
  unfold State.setProfile
  rw [State.rd_wr_apart _ _ _ _ _ _ _ _ h', State.rd_wr_apart _ _ _ _ _ _ _ _ h]
  rfl

/-- A leaf's record replaced leaves hub time. -/
theorem State.setLeaf_clock (n i : Nat) (x : LeafInt) (m : Nat) : ((s.setLeaf n i x).bgt m).clock = (s.bgt m).clock := by
  by_cases hm : m = n
  · rw [hm, State.setLeaf_bgt]
  · exact congrArg BightInt.clock (s.setBgt_bgt_other _ hm)

theorem State.setLeaf_view (n i : Nat) (x : LeafInt) : (s.setLeaf n i x).hubView = s.hubView :=
  State.hubView_iff.mpr ⟨fun _ _ => ⟨rfl, rfl, rfl⟩, fun m => ⟨s.setLeaf_clock n i x m, rfl⟩⟩

theorem State.setProfile_view (n i : Nat) (p : Profile) : (s.setProfile n i p).hubView = s.hubView := by
  have hrd {g : Fld} (h : Fld.apart .BGHT_LEAF_ST_ACT_PROF g = true) (h' : Fld.apart .BGHT_LEAF_ST_BPQ g = true) (a b : Nat) :=
    s.rd_setProfile n i p a b 0 h h'
  exact State.hubView_iff.mpr ⟨fun _ _ => ⟨hrd (by decide) (by decide) _ _, hrd (by decide) (by decide) _ _, hrd (by decide) (by decide) _ _⟩,
    fun m => ⟨s.setLeaf_clock n i _ m, hrd (by decide) (by decide) _ _⟩⟩

/-- A leaf that enters a state shows it; nothing else of the view changes. -/
theorem State.setLeafState_view (n i st : Nat) : (s.setLeafState n i st).hubView = (s.wr .BGHT_LEAF_ST_STATE st n i).hubView := by
  have hbeside {g : Fld} (h : g.besideLeafState = true) (h' : Fld.apart .BGHT_LEAF_ST_STATE g = true) (a b : Nat) :
      (s.setLeafState n i st).rd g a b = (s.wr .BGHT_LEAF_ST_STATE st n i).rd g a b := by
    rw [s.rd_setLeafState_beside h, State.rd_wr_apart _ _ _ _ _ _ _ _ h']
  have hstate (a b : Nat) : (s.setLeafState n i st).rd .BGHT_LEAF_ST_STATE a b =
      (s.wr .BGHT_LEAF_ST_STATE st n i).rd .BGHT_LEAF_ST_STATE a b := by
    unfold State.setLeafState State.countLeaves
    refine State.each_holds _ (fun t => t.rd .BGHT_LEAF_ST_STATE a b = (s.wr .BGHT_LEAF_ST_STATE st n i).rd .BGHT_LEAF_ST_STATE a b) ?_
      fun c _ t ht => ?_
    · simp only [State.rd_wr_apart _ _ _ _ _ _ _ _ (show Fld.apart .BGHT_STAT_LOST .BGHT_LEAF_ST_STATE = true by decide),
        State.rd_wr_apart _ _ _ _ _ _ _ _ (show Fld.apart .BGHT_STAT_STALE .BGHT_LEAF_ST_STATE = true by decide),
        State.rd_wr_apart _ _ _ _ _ _ _ _ (show Fld.apart .BGHT_STAT_ACTIVE .BGHT_LEAF_ST_STATE = true by decide),
        State.rd_wr_apart _ _ _ _ _ _ _ _ (show Fld.apart .BGHT_LEAF_ST_DGASP .BGHT_LEAF_ST_STATE = true by decide)]
    · split
      · exact (State.kept_rd (State.refreshEgress_kept t c (State.kept_refl _ t) (Foot.refl _)) _ rfl _ _ _).trans ht
      · exact ht
  exact State.hubView_iff.mpr ⟨fun _ _ => ⟨hbeside (by decide) (by decide) _ _, hstate _ _, hbeside (by decide) (by decide) _ _⟩,
    fun m => ⟨by rw [State.setLeafState_bgt]; rfl, hbeside (by decide) (by decide) _ _⟩⟩

/-- The state that a restored leaf enters: an Active one enters Stale. -/
def stateRestored (r : RestoredLeaf) : Nat := if r.st = 2 then 3 else r.st

/-- A leaf restored shows its timing advance and the state that it enters. -/
theorem State.restoreLeaf_view (r : RestoredLeaf) : (s.restoreLeaf r).hubView = (if s.on .BGHT_LEAF_EN r.line r.leaf then
    (s.wr .BGHT_LEAF_ST_TA r.ta r.line r.leaf).wr .BGHT_LEAF_ST_STATE (stateRestored r) r.line r.leaf else s).hubView := by
  unfold State.restoreLeaf
  split
  · dsimp only
    rw [State.setLeafState_view]
    refine State.hubView_wr (f := .BGHT_LEAF_ST_STATE) (by decide) _ _ _ _ ?_
    rw [State.setLeaf_view, State.setProfile_view]
  · rfl

/-- The commands, the counts, the timing selection and the generations restored. -/
def State.servicesRestored (s : State) (r : Restored) : State :=
  r.gens.foldl (fun t g => t.setKc g.1 { t.kc g.1 with genTx := g.2.1, genRx := g.2.2 })
    ((r.counts.foldl (fun t c =>
      if c.2.1 then t.wr .HTCH_PM24_COUNT c.2.2.2 c.1 c.2.2.1 else t.wr .HTCH_PM15_COUNT c.2.2.2 c.1 c.2.2.1)
        (r.commands.foldl State.restoreCommand s)).restoreTiming r)

/-- Hub time of one line restored. -/
def State.periodRestored (s : State) (elapsed : Nat) (p : Nat × Nat) : State :=
  (s.setBgt p.1 { s.bgt p.1 with clock := p.2 + elapsed }).wr .BGHT_STAT_PERIOD ((p.2 + elapsed) % 2 ^ 22) p.1

theorem State.restore_eq (r : Restored) (elapsed : Nat) : s.restore r elapsed =
    r.periods.foldl (fun t p => t.periodRestored elapsed p) ((r.leaves.foldl State.restoreLeaf s).servicesRestored r) := rfl

/-- What the services beside the hubs change as they are restored. -/
def servicesFoot : Nat :=
  eventFoot [.HLYD_EVT, .HLYD_SEL_CFG, .HLYD_REF_ST, .HTCH_PM15, .HTCH_PM24, .BEND_PG_STAT] [.halyard, .groups, .kcs]

theorem State.servicesRestored_only (r : Restored) : s.kept servicesFoot (s.servicesRestored r) := by
  have hcommands : s.kept servicesFoot (r.commands.foldl State.restoreCommand s) :=
    kept_foldl _ _ (fun t c h => State.restoreCommand_kept t c h rfl) (State.kept_refl _ s)
  refine kept_foldl _ _ (fun t g h => State.setKc_kept _ _ _ h rfl) (State.restoreTiming_kept _ _ (kept_foldl _ _ (fun t c h => ?_) hcommands) rfl)
  exact kept_ite (fun _ => State.wr_kept _ _ _ _ _ _ h rfl) fun _ => State.wr_kept _ _ _ _ _ _ h rfl

theorem State.servicesRestored_view (r : Restored) : (s.servicesRestored r).hubView = s.hubView :=
  State.hubView_of_kept (s.servicesRestored_only r) rfl rfl rfl rfl

variable {s} in
/-- What is restored shows of the hubs depends on what was shown of them alone. -/
theorem State.restore_view (r : Restored) (elapsed : Nat) (h : t.hubView = s.hubView) :
    (t.restore r elapsed).hubView = (s.restore r elapsed).hubView := by
  have hleaves : (r.leaves.foldl State.restoreLeaf t).hubView = (r.leaves.foldl State.restoreLeaf s).hubView := by
    refine State.hubView_foldl (fun s t a h => ?_) _ h
    have hen : t.on .BGHT_LEAF_EN a.line a.leaf = s.on .BGHT_LEAF_EN a.line a.leaf :=
      congrArg (· != 0) ((State.hubView_iff.mp h).1 a.line a.leaf).1
    rw [State.restoreLeaf_view, State.restoreLeaf_view, hen]
    split
    · exact State.hubView_wr (f := .BGHT_LEAF_ST_STATE) (by decide) _ _ _ _
        (State.hubView_wr (f := .BGHT_LEAF_ST_TA) (by decide) _ _ _ _ h)
    · exact h
  rw [State.restore_eq, State.restore_eq]
  refine State.hubView_foldl (fun s t p h => ?_) _
    ((State.servicesRestored_view _ r).trans (hleaves.trans (State.servicesRestored_view _ r).symm))
  refine State.hubView_wr (f := .BGHT_STAT_PERIOD) (by decide) _ _ _ _ ?_
  obtain ⟨hleaf, hline⟩ := State.hubView_iff.mp h
  refine State.hubView_iff.mpr ⟨hleaf, fun n => ⟨?_, (hline n).2⟩⟩
  by_cases hn : n = p.1
  · rw [hn, State.setBgt_bgt, State.setBgt_bgt]
  · rw [State.setBgt_bgt_other _ _ hn, State.setBgt_bgt_other _ _ hn]
    exact (hline n).1

/-- A leaf's fields are not touched once the leaves are restored. -/
theorem State.rd_restore {g : Fld} (h : Fld.apart .BGHT_STAT_PERIOD g = true) (hs : servicesFoot.testBit (regBit g.id) = false)
    (r : Restored) (elapsed a b c : Nat) :
    (s.restore r elapsed).rd g a b c = (r.leaves.foldl State.restoreLeaf s).rd g a b c := by
  rw [s.restore_eq, ← State.kept_rd ((r.leaves.foldl State.restoreLeaf s).servicesRestored_only r) g hs a b c]
  generalize (r.leaves.foldl State.restoreLeaf s).servicesRestored r = t
  induction r.periods generalizing t with
  | nil => rfl
  | cons p l ih => exact (ih _).trans (State.rd_wr_apart _ _ _ _ _ _ _ _ h)

/-- An enabled leaf that was Active is Stale once restored, with its timing advance. -/
theorem State.restoreLeaf_stale {n : Line} {i : Leaf} {r : RestoredLeaf} (hn : r.line = n.val) (hi : r.leaf = i.val) (h2 : r.st = 2)
    (hen : s.on .BGHT_LEAF_EN n i = true) :
    (s.restoreLeaf r).leafState n i = 3 ∧ (s.restoreLeaf r).rd .BGHT_LEAF_ST_TA n i = r.ta % 2 ^ 32 := by
  unfold State.restoreLeaf
  rw [hn, hi, if_pos hen, if_pos h2]
  refine ⟨State.setLeafState_leafState _ n i (by decide), ?_⟩
  rw [State.rd_setLeafState_beside _ (by decide), State.rd_setLeaf, State.rd_setProfile _ _ _ _ _ _ _ (by decide) (by decide)]
  exact State.rd_wr_two _ _ _ _ (by decide)

theorem State.periodRestored_shows (elapsed : Nat) (n : Line) (p : Nat) :
    ((s.periodRestored elapsed (n.val, p)).bgt n).clock = p + elapsed ∧
      (s.periodRestored elapsed (n.val, p)).rd .BGHT_STAT_PERIOD n = (p + elapsed) % 2 ^ 22 :=
  ⟨congrArg BightInt.clock (s.setBgt_bgt n _), (State.rd_wr_one _ _ n (by decide)).trans (Nat.mod_mod _ _)⟩

/-! ### The takeover (R302) -/

/-- A takeover that has run: the services restored from the set, shown and reported. -/
def State.takenOver (s : State) (k : CkSet) (elapsed : Nat) : State :=
  (((s.setLny { s.lanyard with takeover := none }).restore (Config.serviceState k.body) elapsed).wr .LNYD_STAT_TAKEOVER 1).mateEvent
    .LNYD_EVT_TAKEOVER 0x9009 [k.seq, k.tod % 2 ^ 32, k.tod >>> 32]

theorem exec_takeoverRestoreDone {k : CkSet} (elapsed : Nat) (h18 : s.alive 18 = true) (h : s.lanyard.takeover = some k) :
    exec (.takeoverRestoreDone elapsed) s = .next (s.takenOver k elapsed) := by
  change execTakeoverRestoreDone elapsed s = _
  unfold execTakeoverRestoreDone
  rw [act_next s 18 _ h18, h]
  rfl

theorem exec_takeoverRestoreDone_none (elapsed : Nat) (h18 : s.alive 18 = true) (h : s.lanyard.takeover = none) :
    exec (.takeoverRestoreDone elapsed) s = .next s := by
  change execTakeoverRestoreDone elapsed s = _
  unfold execTakeoverRestoreDone
  rw [act_next s 18 _ h18, h]

theorem State.takenOver_shows (k : CkSet) (elapsed : Nat) : (s.takenOver k elapsed).lanyard.takeover = none ∧
    (s.takenOver k elapsed).on .LNYD_STAT_TAKEOVER = true ∧ (s.takenOver k elapsed).on .LNYD_EVT_TAKEOVER = true := by
  refine ⟨?_, ?_, State.on_mateEvent _ _ _ (by decide) rfl rfl⟩
  · rw [State.takenOver, State.mateEvent_lanyard, State.wr_lanyard,
      State.kept_part (State.restore_kept _ (Config.serviceState k.body) elapsed (State.kept_refl _ _) (Foot.refl _)) 29 rfl]
    rfl
  · rw [State.on, State.takenOver, State.rd_mateEvent _ _ _ _ _ _ (by decide) rfl, State.rd_wr_none _ _ (by decide)]
    rfl

/-- What a takeover shows of the hubs is what the restore gives. -/
theorem State.takenOver_view (k : CkSet) (elapsed : Nat) :
    (s.takenOver k elapsed).hubView = (s.restore (Config.serviceState k.body) elapsed).hubView := by
  have hreport (t : State) : ((t.wr .LNYD_STAT_TAKEOVER 1).mateEvent .LNYD_EVT_TAKEOVER 0x9009
      [k.seq, k.tod % 2 ^ 32, k.tod >>> 32]).hubView = t.hubView :=
    State.hubView_of_kept (m := eventFoot [.LNYD_STAT, .LNYD_EVT] [])
      (State.mateEvent_kept _ _ _ _ (State.wr_kept _ _ _ _ _ _ (State.kept_refl _ t) rfl) rfl rfl) rfl rfl rfl rfl
  exact (hreport _).trans (State.restore_view _ _ rfl)

/-- Settles O47: a level that falls makes the claim due, which opens the gates; a good claim frame joins or begins a row, whose third gives
the number; the gap's end decides the gates anew; and what a takeover shows of the hubs is what the restore gives of the same view. -/
theorem claimsGatesAndTakeover : Obligations.ClaimsGatesAndTakeover := by
  unfold Obligations.ClaimsGatesAndTakeover
  refine ⟨?level, ?frame, ?gap, ?takeover, ?leaf, ?period⟩
  case level =>
    intro s level h18
    have honly := fun t (h : exec (.partnerClaimChange level) s = .next t) =>
      exec_only_of_fits (l := eventTouch.append [.reg .LNYD_STAT, .reg .LNYD_EVT]) (p := eventParts.append [.pins, .lanyard]) h
        (by simp only [footprint]; decide +kernel)
    by_cases hsame : s.on .LNYD_STAT_PART_CLAIMS = level
    · have hexec := exec_partnerClaimChange_same s h18 hsame
      exact ⟨_, hexec, honly _ hexec, rfl, hsame, fun _ => ⟨rfl, rfl⟩, fun hp hl => absurd (hp.symm.trans (hsame.trans hl)) (by decide)⟩
    · have hexec := exec_partnerClaimChange_moved s h18 hsame
      obtain ⟨hpart, hin, hout, gap, hlny⟩ := (s.pinTaken level).levelTaken_shows level
      refine ⟨_, hexec, honly _ hexec, ?_, ?_, fun h => absurd h hsame, fun hp hl hm hen hroot hshut => ?_⟩
      · dsimp only
        split <;> exact hin
      · dsimp only
        split <;> exact hpart
      · subst hl
        have hdue := (s.pinTaken false).levelShown_claimDue h18 hm hen hroot hshut
        have hm' : ((s.pinTaken false).levelShown false).mate = true := by
          rw [State.mate, State.on, State.rd_levelShown _ (by decide)]
          exact hm
        obtain ⟨hclaim, hopen, hevt⟩ := ((s.pinTaken false).levelShown false).refreshClaim_opens hdue hm' (State.levelShown_on _ _)
        have hmate : ((s.pinTaken false).levelTaken false).mate = true := by
          rw [State.mate, State.on, State.rd_levelTaken _ (by decide) (by decide) (by decide)]
          exact hm
        have hclosed : ((s.pinTaken false).levelShown false).on .LNYD_STAT_GATES_OPEN = s.on .LNYD_STAT_GATES_OPEN :=
          congrArg (· != 0) (State.rd_levelShown _ (by decide) _ _ _ _)
        have hready := (s.pinTaken false).levelTaken_ckReady false
        rw [hdue] at hout
        change ((s.pinTaken false).levelTaken false).on _ = true at hclaim hopen
        change _ → ((s.pinTaken false).levelTaken false).on _ = true at hevt
        rw [hclosed] at hevt
        dsimp only
        generalize (s.pinTaken false).levelTaken false = t at *
        cases hwas : s.on .LNYD_STAT_GATES_OPEN with
        | true =>
          rw [if_neg (by simp)]
          exact ⟨hclaim, hopen, hout, fun h => (nomatch h)⟩
        | false =>
          have hlatest : t.lanyard.latest = s.lanyard.latest := by rw [hlny]; rfl
          have hregion : t.lanyard.region = s.lanyard.region := by rw [hlny]; rfl
          have hready' : t.ckReady = s.ckReady := hready
          rw [if_pos (by simp [hmate, hopen])]
          refine ⟨hclaim, hopen, hout, fun _ => ⟨hevt hwas, fun k hk => t.takeoverBegun_latest (hlatest.trans hk), fun hk hr => ?_,
            fun hk hr => ?_⟩⟩
          · rw [t.takeoverBegun_none (hlatest.trans hk), hready', hr, hregion, if_pos rfl]
          · rw [t.takeoverBegun_none (hlatest.trans hk), hready', hr, if_neg (by decide)]
  case frame =>
    rintro s w num h18 rfl
    have honly := fun t (h : exec (.claimFrameReceived w) s = .next t) =>
      exec_only_of_fits (l := eventTouch.append [.reg .BEND_PG_STAT, .reg .LNYD_STAT, .reg .LNYD_EVT])
        (p := eventParts.append [.pins, .lanyard]) h (by simp only [footprint]; decide +kernel)
    have hlt : bits w.toNat 23 8 < 2 ^ 16 := bits_lt _ _ _
    by_cases hgood : w.toNat = claimFrame (bits w.toNat 23 8)
    · have hexec := exec_claimFrameReceived_good s h18 hgood
      refine ⟨_, hexec, honly _ hexec, fun h => absurd hgood h, fun _ hnew => ?_, fun _ hnum hrun => ?_⟩
      · have hrow : s.lanyard.rowWith (bits w.toNat 23 8) = 1 := if_neg fun h => hnew.elim h.1 fun hne => hne h.2
        rw [if_neg (by rw [hrow]; decide), State.claimFrameTaken, hrow]
        exact ⟨rfl, rfl, rfl, rfl⟩
      · have hrow : s.lanyard.rowWith (bits w.toNat 23 8) = 3 := by
          rw [LanyardInt.rowWith, if_pos ⟨by omega, hnum⟩]
          omega
        have hpin : (s.claimFrameTaken (bits w.toNat 23 8)).lanyard.pinNum = some (bits w.toNat 23 8) := if_pos hrow
        have hnumber : (s.claimFrameTaken (bits w.toNat 23 8)).lanyard.partnerNum = some (bits w.toNat 23 8) := by
          rw [LanyardInt.partnerNum, hpin]
        obtain ⟨hknown, hnum', hmis⟩ := (s.claimFrameTaken (bits w.toNat 23 8)).refreshNumber_shows
        rw [if_pos hrow, State.refreshNumber_lanyard]
        rw [hnumber] at hknown hnum'
        refine ⟨hpin, hknown, hnum'.trans (Nat.mod_eq_of_lt hlt), fun k hk hne => ?_⟩
        have hhello : (s.claimFrameTaken (bits w.toNat 23 8)).lanyard.helloNum = some k := hk
        rw [hmis, LanyardInt.numbersDiffer, hpin, hhello]
        exact bne_iff_ne.mpr hne.symm
    · have hexec := exec_claimFrameReceived_bad s h18 hgood
      exact ⟨_, hexec, honly _ hexec, fun _ => ⟨rfl, rfl, rfl⟩, fun h => absurd h hgood, fun h => absurd h hgood⟩
  case gap =>
    intro s h18 hm hc hp
    have hexec := exec_claimGapDone s h18 hc hp
    refine ⟨_, hexec, exec_only_of_fits hexec (by simp only [footprint]; decide +kernel), ?_, ?_, ?_⟩
    · rw [State.refreshGates_lanyard, State.setLny_lanyard]
    · rw [State.refreshGates_open]
      exact State.gatesDue_afterGap _ hm hc hp rfl
    · rw [State.refreshGates_conflict]
      exact State.inConflict_bothClaim _ hm hc hp
  case takeover =>
    intro s elapsed h18
    refine ⟨fun k hk => ?_, exec_takeoverRestoreDone_none s elapsed h18⟩
    have hexec := exec_takeoverRestoreDone s elapsed h18 hk
    obtain ⟨hnone, hshown, hevt⟩ := s.takenOver_shows k elapsed
    obtain ⟨hleaf, hline⟩ := State.hubView_iff.mp (s.takenOver_view k elapsed)
    exact ⟨_, hexec, exec_only_of_fits hexec (by simp only [footprint]; decide +kernel), hnone, hshown, hevt,
      fun n i => (hleaf n i).2, fun n => hline n⟩
  case leaf =>
    intro s r elapsed n i ta id base ent deficit hen hleaves
    have hstale := s.restoreLeaf_stale (r := ⟨n.val, i.val, 2, ta, id, base, ent, deficit⟩) rfl rfl rfl hen
    rw [State.leafState, s.rd_restore (by decide) rfl, s.rd_restore (by decide) rfl, hleaves]
    exact hstale
  case period =>
    intro s r elapsed n p hperiods
    rw [s.restore_eq, hperiods]
    exact State.periodRestored_shows _ elapsed n p

end Sys2Proof.Machine
end


section
/-! Checkpoint sets (R286, R288, R299 to R301): written and sent, kept in a region, received packet by packet, validated, and rehearsed; and
the obligation on them. That the first number is LAST_SET + 1, and that a later good rehearsal does not clear STBY_SUSPECT, are the model's
choices (log entry 60); what a set holds, and the order of its packets, are log entry 94. -/

namespace Sys2Proof.Machine

open Sys2Proof

variable (s : State)

/-! ### Sets written and sent (R299) -/

/-- The number of the next set. -/
def State.nextSeq (s : State) : Nat := ((s.lanyard.own.map fun k => k.seq).getD (s.rd .LNYD_STAT_LAST_SET) + 1) % 2 ^ 32

/-- The set that is due. -/
def State.setDue (s : State) : CkSet :=
  ⟨s.nextSeq, s.tod, padTo 32 (Config.stateDigest s.snapshot), ckFill ((Config.serviceBytes s.snapshot).take (25165824 - 68))⟩

/-- The set skipped: counted and reported. -/
def State.setSkipped (s : State) : State := (s.count .LNYD_CNT 1 2).mateEvent .LNYD_EVT_SET_SKIP 0x900A []

/-- The set written. -/
def State.setWritten (s : State) : State := s.setLny { s.lanyard with own := some s.setDue }

/-- A set whose packets wait to be sent. -/
def State.setQueued (s : State) (k : CkSet) : State :=
  s.setLny { s.lanyard with sending := some k.seq, ckWait := ckPackets (ckHeader k ++ k.body).length true (ckHeader k ++ k.body) }

theorem exec_checkpointSetDue (sent : Bool) (h18 : s.alive 18 = true) : exec (.checkpointSetDue sent) s = .next (
    if !s.matActive then s else if s.lanyard.sending.isSome || !sent then s.setSkipped
    else if s.linkState = 2 then (s.setWritten.setQueued s.setDue).pump else s.setWritten) := by
  change execCheckpointSetDue sent s = _
  unfold execCheckpointSetDue
  rw [act_next s 18 _ h18]
  rfl

theorem State.setSkipped_shows : s.setSkipped.lanyard = s.lanyard ∧
    s.setSkipped.rd .LNYD_CNT_COUNT 2 = (s.rd .LNYD_CNT_COUNT 2 + 1) % 2 ^ 48 ∧ s.setSkipped.on .LNYD_EVT_SET_SKIP = true := by
  refine ⟨?_, ?_, State.on_mateEvent _ _ _ (by decide) rfl rfl⟩
  · rw [State.setSkipped, State.mateEvent_lanyard, State.count_lanyard]
  · rw [State.setSkipped, State.rd_mateEvent _ _ _ _ _ _ (by decide) rfl, State.rd_count_lnyd _ _ (by decide)]

/-- A set sent as far as there is credit leaves the device's own one, and is on its way or shown as the last. -/
theorem State.setQueued_pump_shows (k : CkSet) : (s.setQueued k).pump.lanyard.own = s.lanyard.own ∧
    ((s.setQueued k).pump.lanyard.sending = some k.seq ∨
      (s.setQueued k).pump.lanyard.sending = none ∧ (s.setQueued k).pump.rd .LNYD_STAT_LAST_SET = k.seq % 2 ^ 32) := by
  have hown := congrArg LanyardInt.own (s.setQueued k).pump_besideSending
  exact ⟨hown, (s.setQueued k).pump_sending rfl⟩

/-! ### Sets kept in a region (R300) -/

theorem State.regionPut_ready (k : CkSet) (h : s.ckReady = true) :
    s.regionPut k = s.setLny { s.lanyard with region := (k :: s.lanyard.region).take 8 } := by
  rw [State.regionPut, if_pos h]

theorem State.regionPut_notReady (k : CkSet) (h : s.ckReady = false) : s.regionPut k = s := by
  rw [State.regionPut, if_neg (by simp [h])]

/-- A set put into the region changes nothing but the region. -/
theorem State.regionPut_eq (k : CkSet) : ∃ l, s.regionPut k = s.setLny { s.lanyard with region := l } := by
  unfold State.regionPut
  split
  · exact ⟨_, rfl⟩
  · exact ⟨s.lanyard.region, rfl⟩

theorem exec_checkpointSelfWrite {k : CkSet} (h18 : s.alive 18 = true) (h : s.lanyard.own = some k) :
    exec .checkpointSelfWrite s = .next (if s.matActive then s.regionPut k else s) := by
  change execCheckpointSelfWrite s = _
  unfold execCheckpointSelfWrite
  rw [act_next s 18 _ h18, h]

theorem exec_checkpointSelfWrite_none (h18 : s.alive 18 = true) (h : s.lanyard.own = none) :
    exec .checkpointSelfWrite s = .next s := by
  change execCheckpointSelfWrite s = _
  unfold execCheckpointSelfWrite
  rw [act_next s 18 _ h18, h]

/-! ### Packets of a set (R286, R288) -/

/-- A packet that counts as returned. -/
def State.packetReturned (s : State) : State :=
  s.packetSeen.setLny { s.packetSeen.lanyard with ckTaken := (s.packetSeen.lanyard.ckTaken + 1) % 2 ^ 32, creditDue := true }

/-- A packet that fails its checks: counted, and the set that it may belong to is bad. -/
def State.packetFailed (s : State) : State :=
  s.badPacket.setLny { s.lanyard with arriving := s.lanyard.arriving.map fun a => { a with bad := true } }

/-- The first packet of a set: one that was not complete is discarded. -/
def State.setBegun (s : State) (b : List Byte) (last : Bool) : State :=
  let t := if s.lanyard.arriving.isSome then s.badSet 1 else s
  t.setLny { t.lanyard with arriving := some { bytes := b, complete := last } }

/-- A later packet of a set. -/
def State.setJoined (s : State) (b : List Byte) (last : Bool) : State :=
  s.setLny { s.lanyard with arriving := s.lanyard.arriving.map fun a => { a with bytes := a.bytes ++ b, complete := last } }

theorem exec_ckptPacketReceived (p : List Byte) (bad : Bool) (h18 : s.alive 18 = true) (h2 : s.linkState = 2) :
    exec (.ckptPacketReceived p bad) s = .next (match packetPayload p (s.packetBad bad) 3 with
      | none => s.packetReturned.packetFailed
      | some b => if bit (byteAt p 1) 0 then s.packetReturned.setBegun b (bit (byteAt p 1) 1)
        else s.packetReturned.setJoined b (bit (byteAt p 1) 1)) := by
  change execCkptPacketReceived p bad s = _
  unfold execCkptPacketReceived
  rw [act_next s 18 _ h18, if_neg (by simp [h2])]
  rfl

theorem State.packetReturned_count (i : Nat) : s.packetReturned.rd .LNYD_CNT_COUNT i = s.rd .LNYD_CNT_COUNT i := by
  rw [State.packetReturned, State.rd_setLny, State.packetSeen, State.rd_setLny]

theorem State.packetFailed_lanyard :
    s.packetFailed.lanyard = { s.lanyard with arriving := s.lanyard.arriving.map fun a => { a with bad := true } } := by
  rw [State.packetFailed, State.setLny_lanyard]

theorem State.packetFailed_count : s.packetFailed.rd .LNYD_CNT_COUNT 0 = (s.rd .LNYD_CNT_COUNT 0 + 1) % 2 ^ 48 := by
  rw [State.packetFailed, State.rd_setLny, State.badPacket, State.rd_count_lnyd _ _ (by decide)]

theorem State.setBegun_lanyard (b : List Byte) (last : Bool) :
    (s.setBegun b last).lanyard = { s.lanyard with arriving := some ⟨b, false, last⟩ } := by
  unfold State.setBegun
  dsimp only
  split
  · rw [State.setLny_lanyard, State.badSet_lanyard]
  · rfl

/-- A set discarded is counted and reported. -/
theorem State.badSet_shows (check : Nat) : (s.badSet check).rd .LNYD_CNT_COUNT 1 = (s.rd .LNYD_CNT_COUNT 1 + 1) % 2 ^ 48 ∧
    (s.badSet check).on .LNYD_EVT_SET_BAD = true := by
  refine ⟨?_, State.on_mateEvent _ _ _ (by decide) rfl rfl⟩
  rw [State.badSet, State.rd_mateEvent _ _ _ _ _ _ (by decide) rfl, State.rd_count_lnyd _ _ (by decide), State.rd_setLny]

theorem State.setBegun_count (b : List Byte) (last : Bool) (h : s.lanyard.arriving.isSome = true) :
    (s.setBegun b last).rd .LNYD_CNT_COUNT 1 = (s.rd .LNYD_CNT_COUNT 1 + 1) % 2 ^ 48 := by
  unfold State.setBegun
  dsimp only
  rw [if_pos h, State.rd_setLny]
  exact (s.badSet_shows 1).1

/-! ### Validation (R300) -/

/-- A gap in the numbers counted. -/
def State.gapCounted (s : State) (k : CkSet) : State :=
  if (s.lanyard.latest.map fun o => k.seq != (o.seq + 1) % 2 ^ 32) = some true then s.count .LNYD_CNT 1 3 else s

/-- A valid set taken: it replaces the latest, which becomes the previous, and LAST_SET shows it. -/
def State.setTaken (s : State) (k : CkSet) : State :=
  (s.setLny { s.lanyard with arriving := none, latest := some k, previous := s.lanyard.latest, valid := (s.lanyard.valid + 1) % 10 }).wr
    .LNYD_STAT_LAST_SET k.seq

theorem State.gapCounted_lanyard (k : CkSet) : (s.gapCounted k).lanyard = s.lanyard := by
  unfold State.gapCounted
  split
  · exact s.count_lanyard _ _ _ _ _
  · rfl

theorem exec_checkpointSetReceived {a : CkRx} (h18 : s.alive 18 = true) (h : s.lanyard.arriving = some a) :
    exec .checkpointSetReceived s = .next (if s.ckCheck a ≠ 0 then s.badSet (s.ckCheck a)
      else if s.lanyard.valid = 9 then ((s.gapCounted (ckOf a.bytes)).setTaken (ckOf a.bytes)).regionPut (ckOf a.bytes)
      else (s.gapCounted (ckOf a.bytes)).setTaken (ckOf a.bytes)) := by
  unfold State.setTaken
  rw [s.gapCounted_lanyard]
  change execCheckpointSetReceived s = _
  unfold execCheckpointSetReceived
  rw [act_next s 18 _ h18, h]
  dsimp only
  have hlny := s.gapCounted_lanyard (ckOf a.bytes)
  unfold State.gapCounted at hlny ⊢
  rw [hlny]

theorem exec_checkpointSetReceived_none (h18 : s.alive 18 = true) (h : s.lanyard.arriving = none) :
    exec .checkpointSetReceived s = .next s := by
  change execCheckpointSetReceived s = _
  unfold execCheckpointSetReceived
  rw [act_next s 18 _ h18, h]

theorem leVal_lt (l : List Byte) : leVal l < 256 ^ l.length := by
  induction l with
  | nil => exact Nat.one_pos
  | cons b l ih =>
    have hb : b.toNat < 256 := b.isLt
    rw [leVal, List.length_cons, pow_succ]
    omega

theorem leAt_lt (l : List Byte) (off n : Nat) : leAt l off n < 256 ^ n :=
  (leVal_lt _).trans_le (Nat.pow_le_pow_right (by decide) (List.length_take_le _ _))

theorem State.setTaken_shows (b : List Byte) : (s.setTaken (ckOf b)).rd .LNYD_STAT_LAST_SET = (ckOf b).seq :=
  (State.rd_wr_none _ _ (by decide)).trans (Nat.mod_eq_of_lt (leAt_lt b 0 4))

/-! ### The rehearsal (R301) -/

/-- The standby made suspect, shown and reported. -/
def State.standbySuspect (s : State) : State :=
  (s.setLny { s.lanyard with suspect := true }).showSuspect.mateEvent .LNYD_EVT_REHEARSE_FAIL 0x9008 []

theorem State.standbySuspect_shows : s.standbySuspect.lanyard.suspect = true ∧ s.standbySuspect.on .LNYD_STAT_STBY_SUSPECT = true ∧
    s.standbySuspect.on .LNYD_EVT_REHEARSE_FAIL = true := by
  refine ⟨?_, ?_, State.on_mateEvent _ _ _ (by decide) rfl rfl⟩
  · rw [State.standbySuspect, State.mateEvent_lanyard, State.showSuspect, State.wr_lanyard, State.setLny_lanyard]
  · rw [State.on, State.standbySuspect, State.rd_mateEvent _ _ _ _ _ _ (by decide) rfl]
    exact State.on_wr_flag _ _ (by decide) rfl

theorem exec_rehearsal {k : CkSet} (faulted : Bool) (h18 : s.alive 18 = true) (hk : s.lanyard.latest = some k) (hm : s.mate = true)
    (hg : s.on .LNYD_STAT_GATES_OPEN = false) (ht : s.lanyard.takeover = none) : exec (.rehearsal faulted) s =
      .next (if faulted || padTo 32 (Config.stateDigest (Config.serviceState k.body)) != k.digest then s.standbySuspect else s) := by
  change execRehearsal faulted s = _
  unfold execRehearsal
  rw [act_next s 18 _ h18, hk]
  dsimp only
  rw [if_neg (by simp [hm, hg, ht])]
  rfl

/-- Settles O48: a set due is skipped, or written and, while the link is Up, sent as far as there is credit; a packet counts as returned and
then fails, begins a set or joins it; a set is discarded or taken; and a rehearsal that fails makes the standby suspect. -/
theorem checkpoints : Obligations.Checkpoints := by
  unfold Obligations.Checkpoints
  refine ⟨?due, ?self, ?packet, ?received, fun s => exec_checkpointSetReceived_none s, ?rehearsal⟩
  case due =>
    intro s sent h18
    have hexec := exec_checkpointSetDue s sent h18
    have honly := fun t (h : exec (.checkpointSetDue sent) s = .next t) =>
      exec_only_of_fits (l := eventTouch.append [.reg .LNYD_STAT, .reg .LNYD_EVT, .reg .LNYD_CNT]) (p := eventParts.append [.lanyard]) h
        (by simp only [footprint]; decide +kernel)
    refine ⟨fun hm => by rw [hexec, if_pos (by simp [hm])], fun hm hskip => ?_, fun hm hs hsent => ?_⟩
    · rw [if_neg (by simp [hm]), if_pos (by simpa using hskip)] at hexec
      exact ⟨_, hexec, honly _ hexec, s.setSkipped_shows⟩
    · rw [if_neg (by simp [hm]), if_neg (by simp [hs, hsent])] at hexec
      refine ⟨_, s.nextSeq, hexec, honly _ hexec, rfl, ?_⟩
      by_cases h2 : s.linkState = 2
      · obtain ⟨hown, hsend⟩ := s.setWritten.setQueued_pump_shows s.setDue
        have hmod : s.nextSeq % 2 ^ 32 = s.nextSeq := Nat.mod_mod _ _
        change _ ∨ _ ∧ _ = s.nextSeq % 2 ^ 32 at hsend
        rw [hmod] at hsend
        rw [if_pos h2]
        exact ⟨hown, fun _ => hsend, fun h => absurd h2 h⟩
      · rw [if_neg h2]
        exact ⟨rfl, fun h => absurd h h2, fun _ => ⟨hs, rfl⟩⟩
  case self =>
    intro s h18
    refine ⟨fun k hk hm hr => ?_, fun hno => ?_⟩
    · have hexec := exec_checkpointSelfWrite s h18 hk
      rw [if_pos hm, s.regionPut_ready k hr] at hexec
      exact ⟨_, hexec, exec_only_of_fits hexec (by simp only [footprint]; decide +kernel), rfl⟩
    · cases hk : s.lanyard.own with
      | none => exact exec_checkpointSelfWrite_none s h18 hk
      | some k =>
        rw [exec_checkpointSelfWrite s h18 hk]
        rcases hno with hm | hr
        · rw [if_neg (by simp [hm])]
        · rw [s.regionPut_notReady k hr, ite_self]
  case packet =>
    intro s p bad h18 h2
    have hexec := exec_ckptPacketReceived s p bad h18 h2
    refine ⟨_, hexec, exec_only_of_fits hexec (by simp only [footprint]; decide +kernel), ?_⟩
    cases hp : packetPayload p (s.packetBad bad) 3 with
    | none =>
      dsimp only
      rw [State.packetFailed_lanyard, State.packetFailed_count, State.packetReturned_count]
      exact ⟨rfl, rfl, rfl, fun _ => ⟨rfl, rfl⟩, fun b e => (nomatch e), fun b a e => (nomatch e)⟩
    | some b =>
      dsimp only
      cases hfirst : bit (byteAt p 1) 0 with
      | true =>
        rw [if_pos rfl, State.setBegun_lanyard]
        refine ⟨rfl, rfl, rfl, fun e => (nomatch e), fun b' e _ => ?_, fun b' a e h => (nomatch h)⟩
        obtain rfl : b = b' := Option.some.inj e
        exact ⟨rfl, fun ha => by rw [s.packetReturned.setBegun_count _ _ ha, State.packetReturned_count]⟩
      | false =>
        rw [if_neg (by decide)]
        refine ⟨rfl, rfl, rfl, fun e => (nomatch e), fun b' e h => (nomatch h), fun b' a e _ ha => ?_⟩
        obtain rfl : b = b' := Option.some.inj e
        exact congrArg (Option.map fun a : CkRx => { a with bytes := a.bytes ++ b, complete := bit (byteAt p 1) 1 }) ha
  case received =>
    intro s a h18 ha
    have hexec := exec_checkpointSetReceived s h18 ha
    refine ⟨_, hexec, exec_only_of_fits hexec (by simp only [footprint]; decide +kernel), ?_⟩
    by_cases hc : s.ckCheck a = 0
    · have hlny := s.gapCounted_lanyard (ckOf a.bytes)
      have hlast := (s.gapCounted (ckOf a.bytes)).setTaken_shows a.bytes
      have htaken : ((s.gapCounted (ckOf a.bytes)).setTaken (ckOf a.bytes)).lanyard = { s.lanyard with
          arriving := none, latest := some (ckOf a.bytes), previous := s.lanyard.latest, valid := (s.lanyard.valid + 1) % 10 } := by
        rw [State.setTaken, State.wr_lanyard, State.setLny_lanyard, hlny]
      rw [if_neg (not_not.mpr hc)]
      generalize (s.gapCounted (ckOf a.bytes)).setTaken (ckOf a.bytes) = t at *
      obtain ⟨l, hput⟩ := t.regionPut_eq (ckOf a.bytes)
      rw [hput]
      split
      · rw [State.setLny_lanyard, htaken]
        exact ⟨rfl, fun h => absurd hc h, fun _ => ⟨rfl, rfl, hlast⟩⟩
      · rw [htaken]
        exact ⟨rfl, fun h => absurd hc h, fun _ => ⟨rfl, rfl, hlast⟩⟩
    · obtain ⟨hcnt, hevt⟩ := s.badSet_shows (s.ckCheck a)
      rw [if_pos hc, State.badSet_lanyard]
      exact ⟨rfl, fun _ => ⟨rfl, hcnt, hevt⟩, fun h => absurd h hc⟩
  case rehearsal =>
    rintro s faulted k d h18 hk hm hg ht rfl
    have hexec := exec_rehearsal s faulted h18 hk hm hg ht
    refine ⟨fun hbad => ?_, fun hf hd => by rw [hexec, if_neg (by simp [hf, hd])]⟩
    rw [if_pos (by simpa using hbad)] at hexec
    exact ⟨_, hexec, exec_only_of_fits hexec (by simp only [footprint]; decide +kernel), s.standbySuspect_shows⟩

end Sys2Proof.Machine
end
